-- ==== Sys2Proof/Word.lean ====
section
/-!
DEFINITION. Word.lean: the word types of the model and the one shape of sparse table that its state uses.
-/

namespace Sys2Proof

/-- A 32-bit register or parameter value. -/
abbrev Word := BitVec 32

/-- One byte of a packet, record or table entry. -/
abbrev Byte := BitVec 8

/-- A sparse table by index: pairs of index and content, indices strictly rising, and no pair whose content is what an
unlisted index holds (Machine/Table.lean reads and writes it). -/
structure Tbl (α : Type) where
  entries : List (Nat × α)
deriving DecidableEq, Repr

/-- The table that lists nothing. -/
def Tbl.empty {α : Type} : Tbl α := ⟨[]⟩

end Sys2Proof
end

