-- ==== Sys2Proof/Config.lean ====
section
/-!
DEFINITION. Config.lean: what a part fixes (its variant, its fuses) and the free values, which the spec leaves open.
-/

namespace Sys2Proof

/-- The variants of R4. -/
inductive Variant where
  | nl5_128 | nl5_256 | nl5_512
deriving DecidableEq, Repr

/-- R4: combs enabled. -/
def Variant.combs : Variant → Nat
  | .nl5_128 => 8 | .nl5_256 => 16 | .nl5_512 => 32

/-- R4: receive channels enabled, sixteen per comb. -/
def Variant.channels (v : Variant) : Nat := 16 * v.combs

/-- R4: hives enabled. -/
def Variant.hives : Variant → Nat
  | .nl5_128 => 2 | .nl5_256 => 4 | .nl5_512 => 8

/-- R4: lanes and lane ports enabled. -/
def Variant.lanes : Variant → Nat
  | .nl5_128 => 2 | _ => 4

/-- R4: the bytes of stacked DRAM that can be addressed. -/
def Variant.dramBytes : Variant → Nat
  | .nl5_128 => 2 ^ 30 | _ => 2 ^ 31

/-- R64: channels per segment. -/
def Variant.chanPerSeg : Variant → Nat
  | .nl5_128 => 2 | .nl5_256 => 4 | .nl5_512 => 8

/-- R445: the code of the variant. -/
def Variant.code : Variant → Nat
  | .nl5_128 => 0 | .nl5_256 => 1 | .nl5_512 => 2

/-- R384: the DMA channels that a variant has. -/
def Variant.dmaPresent (v : Variant) (n : Nat) : Bool :=
  match v with
  | .nl5_128 => decide (n < 64 ∧ ¬ (16 ≤ n ∧ n < 32) ∧ n ≠ 34 ∧ n ≠ 35)
  | _ => decide (n < 64)

namespace Config

/-- Fused lot code (R445); each part has its own. -/
opaque lot : BitVec 24
/-- Fused wafer number (R445). -/
opaque wafer : BitVec 5
/-- Fused die position X (R445). -/
opaque dieX : BitVec 8
/-- Fused die position Y (R445). -/
opaque dieY : BitVec 8
/-- Fused test program revision (R445). -/
opaque testRev : BitVec 8

/-- A fresh free value: the step reads `State.freeCtr` and advances it. Nothing constrains the result. -/
opaque freeNat : Nat → Nat

/-- A fresh free byte, indexed as `freeNat`. -/
opaque freeByte : Nat → Nat → Byte

/-- The fused 256-bit seed of the identity key (R446); nothing reads it but the boot ROM. -/
opaque idSeed : List Byte

/-- The error of the comb's logarithm of `n / d` in units of 2⁻²⁰, of which the spec gives a bound only (R202); `lnQ` keeps it within. -/
opaque lnErr : Nat → Nat → Int

/-- The threshold at which a comb is calibrated, in 1/1024 of the swing, and the range in which a comb-level run does it (R149): the spec names neither. -/
opaque calThreshold : Nat
opaque combCalRange : Nat

/-- Where the edges of comb c's coarse clock lie around a time, in 1/512 ns: the spec gives the period of 625 ps and no phase (R174). -/
opaque coarsePhase : Nat → Nat → Nat

/-- The low byte of the code of the event `TABLE_ECC`, which R351 does not list (R23). -/
opaque tableEccLow : Byte

/-- The fused 32-byte hash of the vendor root key (R434). -/
opaque rootHash : List Byte

/-- What the board's flash part holds in a firmware or configuration slot when the NL5 first starts: k = 0, 1 firmware A, B and 2, 3
configuration A, B (R431). -/
opaque flashImage : Nat → List Byte

/-- What the flash part holds as device certificate when the NL5 first starts (R447): none, or its `SEQ` and bytes. -/
opaque flashCert : Option (Nat × List Byte)

end Config

end Sys2Proof
end

