-- ==== Sys2Proof/Syntax.lean ====
section
/-!
DEFINITION. Syntax.lean: the commands of the block, one constructor of `Instr` per row of spec/opcode_table.json, and the
types of their operands. Indices with a fixed range are `Fin`; the rest is checked in WellFormed.lean. A measured or
physical quantity that a row needs (a counted edge, a converter code, a returned status byte) is an operand of the row.
-/

namespace Sys2Proof

/-- A port: 0 to 3 are HP0 to HP3, 4 is LP (R329). -/
abbrev Port := Fin 5

/-- A command packet as it reaches port `port` (R329): the bytes 4 and 5 of its header, its `LENGTH` field and its
parameter bytes. The opcode is the row's own. -/
structure Cmd where
  port : Port
  tag : BitVec 16
  b4 : Byte
  b5 : Byte := 0
  length : Nat
  params : List Byte
deriving DecidableEq, Repr

/-- A write by a host of one value to one register that has a row of its own: the port and the tag of its `PARAM_WRITE`. -/
structure HostWrite where
  port : Port
  tag : BitVec 16
  value : Word
deriving DecidableEq, Repr

/-- The payload of an `ACK` or `NAK` flit (R313). -/
structure AckInfo where
  aseq : Nat
  svc : Nat
  saf : Nat
  blk : Nat
deriving DecidableEq, Repr

/-- The payload of a `TRAIN` flit (R313). -/
structure Train where
  maxRate : Nat
  device : Bool
  ackd : Bool
  up : Bool
  lane : Nat
  eye : Nat
  session : Nat
  rxNext : Nat
  window : Nat
deriving DecidableEq, Repr

/-- A flit (R311, R313). `reserved` stands for a flit of a reserved `TYPE`. -/
inductive Flit where
  | idle
  | data (cls : Nat) (sop eop : Bool) (payload : List Byte)
  | ack (i : AckInfo)
  | nak (i : AckInfo)
  | train (t : Train)
  | rateChange (rate count : Nat)
  | eqReq (preset : Nat) (final : Bool)
  | power (st : Nat)
  | reserved
deriving DecidableEq, Repr

/-- R319: what the eye monitor measures, extrapolated over 1 ms: of each eye (one in NRZ, three in PAM4) the horizontal opening H in millionths of a UI and the vertical
opening V in µV at the 10⁻¹² error contour; and the peak-to-peak swing in µV. -/
structure EyeReading where
  eyes : List (Nat × Nat)
  swing : Nat
deriving DecidableEq, Repr

/-- One block of a drip frame (R96): `kind` true for a status block, `parOk` that its parity holds. -/
structure DripBlock where
  kind : Bool
  p : Byte
  parOk : Bool := true
deriving DecidableEq, Repr

/-- A drip frame (R96), sent on `DRIP` or returned on `DRIP_RET`: eight blocks, block t at index t. -/
structure DripFrame where
  seq : Nat
  swap : Bool
  blocks : List DripBlock
  lv : Bool
  lstart : Bool
  lbyte : Byte
deriving DecidableEq, Repr


/-- A message on the SYNC_BUS (R275): the fields of its body, the reserved bits of bytes 0 and 1, and its check word. `type` is 1 `FRAME`, 2 `GRID`,
3 `TRIGGER`, 4 `PRESENT`. -/
structure SwarmMsg where
  type : Nat
  src : Nat
  time : Nat
  number : Nat
  reserved : Nat := 0
  crc : Nat := 0
deriving DecidableEq, Repr


/-- What code density and the reference pulse find for one timer (R181, R182): `LSB`, `TOP`, missing codes below it, the widest code in
1/4,096 ps, and the skew in 1/16 ps. -/
structure TimerCal where
  lsb : Nat
  top : Nat
  missing : Nat
  widest : Nat
  skew : Int
deriving DecidableEq, Repr

/-- What a run finds for one comb (R420, R421): its 16 stop timers, its 8 start timers, and the largest integral non-linearity of a timer in 1/256 `LSB`. -/
structure CombCal where
  stops : List TimerCal
  starts : List TimerCal
  inl : Nat
deriving DecidableEq, Repr

/-- What a full-system run finds: the combs, their gain-range ratios (r1, r2, r3), and the quality figures of skew and bias (R426). -/
structure FullCal where
  combs : List CombCal
  ratios : List (Nat × Nat × Nat)
  qSkew : Nat
  qBias : Int
deriving DecidableEq, Repr

/-- Where a memory error lies (R23): a point's accumulation in a comb (by point key), a record in a comb's export ring (by place), a record in a hive's
window area (by place), the record or the kernel state of an engine, the chain buffers of a
hive, an entry of a Scan Cell Table bank, an output record of a subscription, a track context, a checkpoint buffer, other DRAM, an entry of retention SRAM, the supervisor's
memory, or a planner's. -/
inductive MemSite where
  | combPoint (comb key : Nat)
  | combExport (comb i : Nat)
  | window (h i : Nat)
  | engineRecord (e : Nat)
  | engineKernel (e : Nat)
  | chain (h : Nat)
  | sct (bank i : Nat)
  | output (sub : Nat)
  | track (i : Nat)
  | checkpoint (b : Nat)
  | dram
  | retention (i : Nat)
  | supervisor
  | planner (x : Nat)
deriving DecidableEq, Repr

/-- A descriptor as the supervisor writes it to append it to a chain (R377); its `NEXT` is the end mark. -/
structure DmaDesc where
  src : Nat
  dst : Nat
  count : Nat
  srcSpace : Nat
  dstSpace : Nat
  seqno : Nat
  notify : Bool
  srcFixed : Bool
  dstFixed : Bool
  srcSel : Nat
  dstSel : Nat
  crc : Nat
deriving DecidableEq, Repr

/-- R381: which burst, or fetch, of a channel is answered with an error: one issued for the first time, the one that failed last, issued again, or the last burst of the
descriptor that was completed last. -/
inductive BurstAnswer where
  | first
  | again
  | late
deriving DecidableEq, Repr

/-- R147: the amplifier's output at a comparator edge, in 1/1024 of the swing: the largest of the pulse, and the least since the pulse before. -/
structure StageLevel where
  peak : Nat
  dip : Nat
deriving DecidableEq, Repr

/-- R161: a level of `BLANK` and how long it has had it, in ns. -/
structure BlankLevel where
  high : Bool
  ns : Nat
deriving DecidableEq, Repr

/-- R299: what a filter yields over its span: from the samples as they are, with those due inside an internal blank held, with those under external `BLANK` held, and
with both held. -/
structure Filtered where
  plain : Int
  internal : Int := plain
  external : Int := plain
  both : Int := internal
deriving DecidableEq, Repr

/-- The value for the holds that are asked for. -/
def Filtered.pick (v : Filtered) (ib xb : Bool) : Int := if ib then (if xb then v.both else v.internal) else if xb then v.external else v.plain

/-- R296, R298: what the check of an RTD input finds: the currents of its sources into A and C in nA, and the voltages at its balls A, B and C in µV. -/
structure RtdReading where
  input : Nat
  i1 : Nat
  i2 : Nat
  va : Int
  vb : Int
  vc : Int
deriving DecidableEq, Repr

/-- R165: what one injection of the channel self-test yields: its channel and range, the events it gives and the peak in 1/64 of full scale; and which
of the 16 injections of that channel and range it is. -/
structure Injection where
  ch : Nat
  range : Nat
  events : Nat
  peak : Nat
  shot : Nat := 0
deriving DecidableEq, Repr

/-- R165: an injection answered as it must be. -/
def Injection.passes (i : Injection) : Bool := i.events == 1 && decide (22 ≤ i.peak ∧ i.peak ≤ 42)

/-- R165: injection k of channel ch in a range, as a list of results tells it: one that is not listed yields one event at half of full scale, the charge
that was injected. -/
def injectionOf (l : List Injection) (ch range k : Nat) : Injection :=
  (l.find? fun i => i.ch == ch && i.range == range && i.shot == k).getD { ch, range, events := 1, peak := 32, shot := k }

/-- R165: a channel passes if each of the 16 injections in each of the four ranges does. -/
def channelPasses (l : List Injection) (ch : Nat) : Bool :=
  (List.range 4).all fun r => (List.range 16).all fun k => (injectionOf l ch r k).passes

/-- The channels that fail the self-test (R165); a channel with no result listed passes. -/
def failedChans (l : List Injection) : List Nat := ((l.map (·.ch)).eraseDups).filter fun n => !channelPasses l n

/-- The modes of the flash interface (R430): 1-1-1, 1-4-4 and 8D-8D-8D. -/
inductive FlashMode where
  | single | quad | octal
deriving DecidableEq, Repr

/-- What the boot sequence finds that no register holds (R437): the fastest mode that SFDP offers (R430), whether DRAM trained, the identity public key that was derived where it is not that of the fused seed (R446), whether each planner passed its
self-test, and the march test passed; the injections of the self-test that do not yield one event of half scale (R165) and the engines that failed the check kernel (R236); the pages that the flush of step 9 programmed where its budget cut it (R460). -/
structure BootReport where
  sfdp : FlashMode := .octal
  dramOk : Bool := true
  idKey : Option (List Byte) := none
  planA : Bool := true
  planB : Bool := true
  memOk : Bool := true
  rxTest : List Injection := []
  engBad : List Nat := []
  flushPages : Option Nat := none
deriving DecidableEq, Repr

/-- The commands of the block, one constructor per row of spec/opcode_table.json, in its order. -/
inductive Instr where
  /-- POWER_RAIL_CHANGE (R478). -/
  | powerRailChange (rail : Fin 9) (uv : Nat)
  /-- BROWN_OUT (R480). -/
  | brownOut
  /-- RESET_N_INPUT (R481). -/
  | resetNInput (high : Bool) (ns : Nat)
  /-- RESET_RELEASE (R480). -/
  | resetRelease (flSel : Bool)
  /-- BOOT_DONE (R437). -/
  | bootDone (r : BootReport)
  /-- SVN_FUSE_STEP (R440). -/
  | svnFuseStep
  /-- NOP (R343). -/
  | nop (c : Cmd)
  /-- IDENTIFY (R445). -/
  | identify (c : Cmd)
  /-- OWNER_CLAIM (R339). -/
  | ownerClaim (c : Cmd)
  /-- OWNER_RELEASE (R340). -/
  | ownerRelease (c : Cmd)
  /-- ARM (R138). -/
  | arm (c : Cmd)
  /-- DISARM (R140). -/
  | disarm (c : Cmd)
  /-- START_SENSING (R108). -/
  | startSensing (c : Cmd)
  /-- STOP_SENSING (R27). -/
  | stopSensing (c : Cmd)
  /-- FORCE_SAFE (R27). -/
  | forceSafe (c : Cmd)
  /-- RECOVER (R403). -/
  | recover (c : Cmd)
  /-- RESET_DEVICE (R356). -/
  | resetDevice (c : Cmd)
  /-- RESET_DEVICE_EXPIRY (R356). -/
  | resetDeviceExpiry
  /-- SYNC_TIME (R274). -/
  | syncTime (c : Cmd)
  /-- EVENT_CONFIG (R349). -/
  | eventConfig (c : Cmd)
  /-- PARAM_READ (R345). -/
  | paramRead (c : Cmd)
  /-- PARAM_WRITE (R345). -/
  | paramWrite (c : Cmd)
  /-- PARAM_MODIFY (R345). -/
  | paramModify (c : Cmd)
  /-- SCT_WRITE (R346). -/
  | sctWrite (c : Cmd)
  /-- SCT_COMMIT (R41). -/
  | sctCommit (c : Cmd)
  /-- SCT_READ (R346). -/
  | sctRead (c : Cmd)
  /-- TRACK_WRITE (R47). -/
  | trackWrite (c : Cmd)
  /-- TRACK_READ (R47). -/
  | trackRead (c : Cmd)
  /-- REGION_REQUEST (R69). -/
  | regionRequest (c : Cmd)
  /-- REGION_CANCEL (R70). -/
  | regionCancel (c : Cmd)
  /-- REGION_PRIORITY (R71). -/
  | regionPriority (c : Cmd)
  /-- ZONE_WRITE (R251). -/
  | zoneWrite (c : Cmd)
  /-- ZONE_COMMIT (R251). -/
  | zoneCommit (c : Cmd)
  /-- ZONE_READ (R346). -/
  | zoneRead (c : Cmd)
  /-- STREAM_SUBSCRIBE (R359). -/
  | streamSubscribe (c : Cmd)
  /-- STREAM_UNSUBSCRIBE (R360). -/
  | streamUnsubscribe (c : Cmd)
  /-- STREAM_STATUS (R360). -/
  | streamStatus (c : Cmd)
  /-- DMA_RESTART (R382). -/
  | dmaRestart (c : Cmd)
  /-- CAPTURE_ARM (R286). -/
  | captureArm (c : Cmd)
  /-- CAPTURE_STOP (R286). -/
  | captureStop (c : Cmd)
  /-- CAPTURE_TRIGGER (R283). -/
  | captureTrigger (c : Cmd)
  /-- CAPTURE_READ (R499). -/
  | captureRead (c : Cmd)
  /-- CAPTURE_FREE (R499). -/
  | captureFree (c : Cmd)
  /-- CALIBRATE_FULL (R421). -/
  | calibrateFull (c : Cmd)
  /-- CALIBRATE_COMB (R420). -/
  | calibrateComb (c : Cmd)
  /-- CAL_READ (R423). -/
  | calRead (c : Cmd)
  /-- CAL_WRITE (R423). -/
  | calWrite (c : Cmd)
  /-- CAL_SAVE (R423). -/
  | calSave (c : Cmd)
  /-- TEMPLATE_WRITE (R237). -/
  | templateWrite (c : Cmd)
  /-- TEMPLATE_COMMIT (R237). -/
  | templateCommit (c : Cmd)
  /-- TEMPLATE_READ (R346). -/
  | templateRead (c : Cmd)
  /-- ATTEST (R449). -/
  | attest (c : Cmd)
  /-- CERT_READ (R448). -/
  | certRead (c : Cmd)
  /-- UPDATE_BEGIN (R442). -/
  | updateBegin (c : Cmd)
  /-- UPDATE_DATA (R442). -/
  | updateData (c : Cmd)
  /-- UPDATE_COMMIT (R443). -/
  | updateCommit (c : Cmd)
  /-- UPDATE_CHECK_DONE (R443). -/
  | updateCheckDone
  /-- OWNER_KEY_ENROLL (R441). -/
  | ownerKeyEnroll (c : Cmd)
  /-- OWNER_KEY_FUSE_DONE (R441). -/
  | ownerKeyFuseDone
  /-- HEALTH_READ (R406). -/
  | healthRead (c : Cmd)
  /-- RECORDER_READ (R464). -/
  | recorderRead (c : Cmd)
  /-- RECORDER_FLUSH (R458). -/
  | recorderFlush (c : Cmd)
  /-- COMMAND_ARRIVAL (R334). -/
  | commandArrival (opcode : BitVec 16) (c : Cmd)
  /-- LP_WRITE_PACKET (R354). -/
  | lpWritePacket (bytes : List Byte)
  /-- LP_READ_PACKET (R354). -/
  | lpReadPacket (n : Nat)
  /-- LP_READ_STATUS (R354). -/
  | lpReadStatus
  /-- LP_CS_RELEASE (R354). -/
  | lpCsRelease
  /-- ARB_SLOT_COMMIT (R75). -/
  | arbSlotCommit (w : HostWrite)
  /-- ARB_SLOT_NEXT (R76). -/
  | arbSlotNext (w : HostWrite)
  /-- PAT_COMMIT (R101). -/
  | patCommit (w : HostWrite)
  /-- PATTERN_SWAP (R101). -/
  | patternSwap
  /-- WAG_COMMIT (R135). -/
  | wagCommit (w : HostWrite)
  /-- AX_MODE_WRITE (R134). -/
  | axModeWrite (a : Fin 2) (w : HostWrite)
  /-- AX_MAN_VALUE_WRITE (R133). -/
  | axManValueWrite (a : Fin 2) (w : HostWrite)
  /-- BIAS_RETRY (R158). -/
  | biasRetry (z : Fin 8) (w : HostWrite)
  /-- RX_SELFTEST_RUN (R165). -/
  | rxSelftestRun (w : HostWrite)
  /-- TDC_STAT_RUN (R188). -/
  | tdcStatRun (c : Fin 32) (w : HostWrite)
  /-- FE_CLEAR (R219). -/
  | feClear (w : HostWrite)
  /-- DITHER_SALT_WRITE (R212). -/
  | ditherSaltWrite (w : HostWrite)
  /-- FC_POLY_COMMIT (R263). -/
  | fcPolyCommit (w : HostWrite)
  /-- FRAME_PERIOD_WRITE (R272). -/
  | framePeriodWrite (w : HostWrite)
  /-- LANE_RETRAIN (R320). -/
  | laneRetrain (l : Fin 4) (w : HostWrite)
  /-- LANE_TX_REQ (R322). -/
  | laneTxReq (l : Fin 4) (w : HostWrite)
  /-- DMA_APPEND (R379). -/
  | dmaAppend (n : Fin 64) (addr : Word) (d : DmaDesc) (linked : Bool)
  /-- FORCE_FAILOVER (R392). -/
  | forceFailover (w : HostWrite)
  /-- BULK_RETURN (R399). -/
  | bulkReturn (k : Fin 2) (w : HostWrite)
  /-- MA_CONFIG_WRITE (R301). -/
  | maConfigWrite (m : Fin 3) (which : Fin 6) (w : HostWrite)
  /-- RTD_CTRL_WRITE (R301). -/
  | rtdCtrlWrite (w : HostWrite)
  /-- RTD_CFG_WRITE (R301). -/
  | rtdCfgWrite (r : Fin 8) (w : HostWrite)
  /-- FRAME_SYNC_EDGE (R272). -/
  | frameSyncEdge (rising : Bool)
  /-- INTERNAL_FRAME_EVENT (R272). -/
  | internalFrameEvent
  /-- SWARM_FRAME_TIME (R278). -/
  | swarmFrameTime
  /-- FRAME_BOUNDARY (R20). -/
  | frameBoundary
  /-- FLYWHEEL_BOUNDARY (R273). -/
  | flywheelBoundary
  /-- FRAME_CUT_EDGE_REACHED (R129). -/
  | frameCutEdgeReached
  /-- ARB_BACKOFF_EXPIRY (R86). -/
  | arbBackoffExpiry (i : Fin 24)
  /-- COLUMN_PLAN (R49). -/
  | columnPlan
  /-- VELOCITY_SEGMENT_POST (R53). -/
  | velocitySegmentPost (fault : Bool)
  /-- COLUMN_START (R126). -/
  | columnStart
  /-- COLUMN_CLOSE (R19). -/
  | columnClose
  /-- PLANNER_MICROSECOND (R55). -/
  | plannerMicrosecond
  /-- VERDICT_ARRIVAL (R17). -/
  | verdictArrival (c : Fin 32)
  /-- DRIP_CUT (R93). -/
  | dripCut (bad : List Nat) (other : Nat)
  /-- SHOT_LAUNCH (R90). -/
  | shotLaunch
  /-- SAR_SHOT_TRIGGER (R107). -/
  | sarShotTrigger
  /-- SAR_CONTROL_REQUEST (R118). -/
  | sarControlRequest
  /-- SAR_CONVERSION_DONE (R294). -/
  | sarConversionDone (mf0 mf1 mf2 mf3 : Int)
  /-- START_REF_EDGE (R174). -/
  | startRefEdge (t : Fin 8) (internal : Bool) (readings : List (Nat × Nat))
  /-- START_TIMEOUT (R175). -/
  | startTimeout
  /-- COMPARATOR_EDGE (R176). -/
  | comparatorEdge (n : Fin 512) (count code : Nat) (level : StageLevel) (overNs : Nat)
  /-- RECEIVE_WINDOW_CLOSE (R174). -/
  | receiveWindowClose (n : Fin 512) (peak : Nat)
  /-- RANGE_CHANGE (R146). -/
  | rangeChange (n : Fin 512)
  /-- COMPARATOR_STUCK (R163). -/
  | comparatorStuck (n : Fin 512)
  /-- EVENT_WORD_BINNED (R198). -/
  | eventWordBinned (c : Fin 32)
  /-- CLOSE_WORD (R180). -/
  | closeWord (c : Fin 32)
  /-- BATCH_COMPLETE (R201). -/
  | batchComplete (c : Fin 32) (g : Fin 64)
  /-- EXPORT_SCAN_DONE (R205). -/
  | exportScanDone (c : Fin 32)
  /-- HIVE_DISPATCH (R233). -/
  | hiveDispatch (h : Fin 8)
  /-- POINT_DETECTION_DONE (R233). -/
  | pointDetectionDone (e : Fin 1024)
  /-- ENGINE_CHECK (R236). -/
  | engineCheck (h : Fin 8) (pass : Bool)
  /-- CHAIN_WINDOW_DONE (R258). -/
  | chainWindowDone (h : Fin 8) (memErr : Bool)
  /-- CLUSTER_CLOSE (R245). -/
  | clusterClose
  /-- ZONE_RESULT (R252). -/
  | zoneResult (z : Fin 64)
  /-- STREAM_PACKET_FORMED (R373). -/
  | streamPacketFormed (ch : Fin 32)
  /-- DMA_DESCRIPTOR_DONE (R380). -/
  | dmaDescriptorDone (n : Fin 64)
  /-- DMA_BURST_ERROR (R381). -/
  | dmaBurstError (n : Fin 64) (answer : BurstAnswer)
  /-- DRIP_RET_FRAME (R98). -/
  | dripRetFrame (f : DripFrame)
  /-- DRIP_RET_TIMEOUT (R98). -/
  | dripRetTimeout
  /-- EMIT_FAULT_INPUT (R111). -/
  | emitFaultInput (low : Bool) (ns : Nat)
  /-- LSD_SAFE_ENTRY (R112). -/
  | lsdSafeEntry
  /-- ACCT_SUBINTERVAL (R106). -/
  | acctSubinterval (disagree : Bool)
  /-- FADE_STEP (R108). -/
  | fadeStep
  /-- FADE_END (R108). -/
  | fadeEnd
  /-- WL_BLOCK_MEAN (R109). -/
  | wlBlockMean (t : Fin 8)
  /-- WL_LOSS_TIMEOUT (R109). -/
  | wlLossTimeout (t : Fin 8)
  /-- WAGGLE_TICK (R119). -/
  | waggleTick (xs ys : List Int) (late : List Nat)
  /-- LOOP_COMPUTE_DONE (R121). -/
  | loopComputeDone (l : Fin 20)
  /-- STEER_SAFE_ENTRY (R122). -/
  | steerSafeEntry
  /-- HEATER_HOLD_EXPIRY (R123). -/
  | heaterHoldExpiry
  /-- SCAN_START_REACHED (R138). -/
  | scanStartReached
  /-- ARM_SETTLED (R138). -/
  | armSettled
  /-- ARM_SETTLE_TIMEOUT (R138). -/
  | armSettleTimeout
  /-- PARK_SETTLED (R139). -/
  | parkSettled (a : Fin 2)
  /-- PARK_TIMEOUT (R139). -/
  | parkTimeout (a : Fin 2)
  /-- RELEASE_DONE (R139). -/
  | releaseDone (a : Fin 2)
  /-- MONITOR_TICK (R153). -/
  | monitorTick (fast refBad : List Nat) (rtd : List RtdReading)
  /-- BIAS_CONVERSION_DONE (R155). -/
  | biasConversionDone (c : Fin 32) (code : Nat)
  /-- RX_SELFTEST_DONE (R165). -/
  | rxSelftestDone (results : List Injection)
  /-- BLANK_INPUT (R161). -/
  | blankInput (level : BlankLevel)
  /-- BLANK_MAX_TIMEOUT (R162). -/
  | blankMaxTimeout
  /-- CLOCK_WINDOW (R183). -/
  | clockWindow (ref xtal : Nat) (badCombs badPlanners : List Nat)
  /-- REFCLK_PRESENT (R183). -/
  | refclkPresent
  /-- PLL_LOCKED (R185). -/
  | pllLocked
  /-- TIMING_LOCK_HOLD (R187). -/
  | timingLockHold
  /-- XO_MEASURE (R184). -/
  | xoMeasure (offset : Int)
  /-- XO_CORRECTION (R184). -/
  | xoCorrection
  /-- STAT_RUN_DONE (R188). -/
  | statRunDone (c : Fin 32)
  /-- STAT_RUN_TIMEOUT (R188). -/
  | statRunTimeout (c : Fin 32)
  /-- FE_STRONG_EVENT (R217). -/
  | feStrongEvent
  /-- FE_CONTEXT_EXPIRY (R219). -/
  | feContextExpiry (i : Fin 64)
  /-- SWARM_SLOT (R276). -/
  | swarmSlot
  /-- SWARM_MESSAGE_RX (R277). -/
  | swarmMessageRx (m : SwarmMsg)
  /-- SWARM_LOSS_TIMEOUT (R277). -/
  | swarmLossTimeout
  /-- CAPTURE_ITEM (R280). -/
  | captureItem (fault : Fin 5)
  /-- CAPTURE_TIME_ITEM (R280). -/
  | captureTimeItem
  /-- CAPTURE_PRE_FULL (R282). -/
  | capturePreFull
  /-- CAPTURE_POST_FULL (R282). -/
  | capturePostFull
  /-- CAPTURE_CLOSED (R284). -/
  | captureClosed
  /-- MA_WORD (R291). -/
  | maWord (m : Fin 3) (v : Filtered)
  /-- HOUSEKEEPING_WORD (R292). -/
  | housekeepingWord (v : Int) (refOff : Bool)
  /-- RTD_PHASE_DONE (R297). -/
  | rtdPhaseDone (v : Filtered) (i : Nat)
  /-- THERMAL_TRIP (R416). -/
  | thermalTrip (i : Fin 26)
  /-- LANE_GROUP_TX (R310). -/
  | laneGroupTx (l : Fin 4)
  /-- LANE_GROUP_RX (R314): the line units of a group, from the first of its comma: bits in NRZ, levels in PAM4. -/
  | laneGroupRx (l : Fin 4) (units : List Nat)
  /-- REPLAY_TIMEOUT (R316). -/
  | replayTimeout (l : Fin 4)
  /-- LANE_SIGNAL (R317). -/
  | laneSignal (l : Fin 4)
  /-- LANE_COMMA_LOCK (R309). -/
  | laneCommaLock (l : Fin 4)
  /-- LANE_COMMA_LOSS (R309). -/
  | laneCommaLoss (l : Fin 4)
  /-- LANE_TRAIN_DONE (R317). -/
  | laneTrainDone (l : Fin 4)
  /-- LANE_RATE_SWITCH (R317). -/
  | laneRateSwitch (l : Fin 4)
  /-- LANE_EQ_DONE (R319). -/
  | laneEqDone (l : Fin 4) (eyes : List EyeReading) (ctle preset : Nat) (peerOk : Bool)
  /-- LANE_UP (R317). -/
  | laneUp (l : Fin 4)
  /-- RETRAIN_TIMEOUT (R320). -/
  | retrainTimeout (l : Fin 4)
  /-- EYE_UPDATE (R319). -/
  | eyeUpdate (l : Fin 4) (eye : EyeReading)
  /-- LANE_LOSS_TIMEOUT (R321). -/
  | laneLossTimeout (l : Fin 4)
  /-- DOZE_IDLE_TIMEOUT (R322). -/
  | dozeIdleTimeout (l : Fin 4)
  /-- LANE_WAKE_DONE (R322). -/
  | laneWakeDone (l : Fin 4)
  /-- PAIR_SWITCH_DELAY (R397). -/
  | pairSwitchDelay (l : Fin 4)
  /-- PAIR_REJOIN (R399). -/
  | pairRejoin (l : Fin 4)
  /-- STANDBY_SELFTEST (R390). -/
  | standbySelftest (x : Fin 2) (pass : Bool)
  /-- PLANNER_RETEST (R391). -/
  | plannerRetest (x : Fin 2) (pass : Bool)
  /-- CHECKPOINT_RESTORED (R393). -/
  | checkpointRestored (bad0 bad1 : Bool)
  /-- FAILOVER_TIMEOUT (R393). -/
  | failoverTimeout
  /-- CLAIM_TIE_TIMEOUT (R386). -/
  | claimTieTimeout
  /-- WATCHDOG_MISS (R401). -/
  | watchdogMiss
  /-- LOCKSTEP_MISMATCH (R401). -/
  | lockstepMismatch
  /-- SSN_READBACK (R402). -/
  | ssnReadback (high : Bool)
  /-- MEMORY_ERROR (R23). -/
  | memoryError (site : MemSite) (uncorrectable : Bool)
  /-- COMB_CAL_START (R420). -/
  | combCalStart
  /-- COMB_CAL_DONE (R420). -/
  | combCalDone (k : CombCal)
  /-- FULL_CAL_MEASURE_DONE (R421). -/
  | fullCalMeasureDone (k : FullCal)
  /-- CAL_AUTO_SAVE (R424). -/
  | calAutoSave
  /-- CAL_SAVE_DONE (R424). -/
  | calSaveDone (good0 good1 : Bool)
  /-- RECORDER_POST (R454). -/
  | recorderPost (code : BitVec 8) (arg : BitVec 16)
  /-- RECORDER_WRITE (R454). -/
  | recorderWrite
  /-- RECORDER_FLUSH_DONE (R459). -/
  | recorderFlushDone
  /-- RECORDER_FLUSH_BUDGET (R460). -/
  | recorderFlushBudget (pages : Nat)
  /-- RECORDER_ERASE_DONE (R461). -/
  | recorderEraseDone
  /-- JTAG_BYPASS (R492). -/
  | jtagBypass (trst : Bool)
  /-- JTAG_IDCODE (R492). -/
  | jtagIdcode (trst : Bool)
  /-- JTAG_SAMPLE_PRELOAD (R492). -/
  | jtagSamplePreload (trst : Bool) (cells : Nat)
  /-- JTAG_EXTEST (R492). -/
  | jtagExtest (trst : Bool)
  /-- JTAG_EXTEST_PULSE (R492). -/
  | jtagExtestPulse (trst : Bool)
  /-- JTAG_EXTEST_TRAIN (R492). -/
  | jtagExtestTrain (trst : Bool)
  /-- JTAG_HIGHZ (R492). -/
  | jtagHighz (trst : Bool)
  /-- JTAG_CLAMP (R492). -/
  | jtagClamp (trst : Bool)
  /-- RECEIVER_WAKE_LOCK (R323). -/
  | receiverWakeLock (l : Fin 4)
  /-- TIME_HIGH_CHANGE (R456). -/
  | timeHighChange
  /-- TIME_SLEW_ABSORBED (R274). -/
  | timeSlewAbsorbed
deriving DecidableEq, Repr

end Sys2Proof
end

