-- ==== Sys2Proof/Decode.lean ====
section
/-!
DEFINITION. Decode.lean: the commands that a word spells. The spec's table of commands gives no row any bits: commands reach the block as packets, as writes of
registers, and as events on balls and in time, so no word spells one.
-/

namespace Sys2Proof

/-- The command that the bits of a table row spell: none, for no row has bits. -/
def decodeTableWord (_nbits _w : Nat) : Option Instr := none

end Sys2Proof
end

