-- ==== Sys2Proof/Machine/Codes.lean ====
section
/-!
DEFINITION. Machine/Codes.lean: the opcodes of R343, the status codes of R344, the event codes of R351 and the recorder
codes of R457, by the names that the spec gives them.
-/

namespace Sys2Proof.Machine

namespace Op

def NOP : Nat := 0x0100
def IDENTIFY : Nat := 0x0101
def OWNER_CLAIM : Nat := 0x0102
def OWNER_RELEASE : Nat := 0x0103
def ARM : Nat := 0x0104
def DISARM : Nat := 0x0105
def START_SENSING : Nat := 0x0106
def STOP_SENSING : Nat := 0x0107
def FORCE_SAFE : Nat := 0x0108
def RECOVER : Nat := 0x0109
def RESET_DEVICE : Nat := 0x010A
def SYNC_TIME : Nat := 0x010B
def EVENT_CONFIG : Nat := 0x010C
def PARAM_READ : Nat := 0x0200
def PARAM_WRITE : Nat := 0x0201
def PARAM_MODIFY : Nat := 0x0202
def SCT_WRITE : Nat := 0x0300
def SCT_COMMIT : Nat := 0x0301
def SCT_READ : Nat := 0x0302
def TRACK_WRITE : Nat := 0x0303
def TRACK_READ : Nat := 0x0304
def REGION_REQUEST : Nat := 0x0305
def REGION_CANCEL : Nat := 0x0306
def REGION_PRIORITY : Nat := 0x0307
def ZONE_WRITE : Nat := 0x0308
def ZONE_COMMIT : Nat := 0x0309
def ZONE_READ : Nat := 0x030A
def STREAM_SUBSCRIBE : Nat := 0x0400
def STREAM_UNSUBSCRIBE : Nat := 0x0401
def STREAM_STATUS : Nat := 0x0402
def DMA_RESTART : Nat := 0x0403
def CAPTURE_ARM : Nat := 0x0500
def CAPTURE_STOP : Nat := 0x0501
def CAPTURE_TRIGGER : Nat := 0x0502
def CAPTURE_READ : Nat := 0x0503
def CAPTURE_FREE : Nat := 0x0504
def CALIBRATE_FULL : Nat := 0x0600
def CALIBRATE_COMB : Nat := 0x0601
def CAL_READ : Nat := 0x0602
def CAL_WRITE : Nat := 0x0603
def CAL_SAVE : Nat := 0x0604
def TEMPLATE_WRITE : Nat := 0x0605
def TEMPLATE_COMMIT : Nat := 0x0606
def TEMPLATE_READ : Nat := 0x0607
def ATTEST : Nat := 0x0700
def CERT_READ : Nat := 0x0701
def UPDATE_BEGIN : Nat := 0x0702
def UPDATE_DATA : Nat := 0x0703
def UPDATE_COMMIT : Nat := 0x0704
def OWNER_KEY_ENROLL : Nat := 0x0705
def HEALTH_READ : Nat := 0x0800
def RECORDER_READ : Nat := 0x0801
def RECORDER_FLUSH : Nat := 0x0802
def STATE_CHANGED : Nat := 0x0101
def TRANSITION_CANCELLED : Nat := 0x0102
def LOOP_LATE : Nat := 0x0103
def REFCLK_LOST : Nat := 0x0201
def REFCLK_RETURNED : Nat := 0x0202
def XTAL_LOST : Nat := 0x0203
def SWARM_LOST : Nat := 0x0204
def SWARM_LOCKED : Nat := 0x0205
def BIAS_FAULT : Nat := 0x0301
def BLANK_STUCK : Nat := 0x0302
def FOREIGN_LOCKED : Nat := 0x0601
def FOREIGN_RELEASED : Nat := 0x0602
def WEATHER_CHANGED : Nat := 0x0603
def ENGINE_FENCED : Nat := 0x0701
def ZONE_REJECTED : Nat := 0x0702
def ZONE_UNDEFINED : Nat := 0x0703
def POLY_SWAPPED : Nat := 0x0801
def FRAME_PLAN : Nat := 0x0901
def SCT_REJECTED : Nat := 0x0902
def SCT_SWAPPED : Nat := 0x0903
def PLACEMENT_CHANGED : Nat := 0x0904

end Op

namespace Sts

def OK : Nat := 0x0000
def UNKNOWN_OPCODE : Nat := 0x0001
def BAD_HEADER : Nat := 0x0002
def BAD_LENGTH : Nat := 0x0003
def BAD_PARAM : Nat := 0x0004
def BAD_ADDRESS : Nat := 0x0005
def NOT_PRESENT : Nat := 0x0006
def READ_ONLY : Nat := 0x0007
def NOT_PERMITTED : Nat := 0x0008
def BAD_STATE : Nat := 0x0009
def BUSY : Nat := 0x000A
def TABLE_LOCKED : Nat := 0x000B
def TABLE_REJECTED : Nat := 0x000C
def STREAM_BUSY : Nat := 0x000D
def OWNER_HELD : Nat := 0x000E
def CRC_FAIL : Nat := 0x000F
def SEQ_ERROR : Nat := 0x0010
def AUTH_FAIL : Nat := 0x0011
def ROLLBACK : Nat := 0x0012
def NO_RESOURCE : Nat := 0x0013
def ABORTED : Nat := 0x0014
def INTERNAL_ERROR : Nat := 0x00FF

end Sts

namespace Ev

def NOP : Nat := 0x0100
def STATE_CHANGED : Nat := 0x0101
def TRANSITION_CANCELLED : Nat := 0x0102
def LOOP_LATE : Nat := 0x0103
def EVENT_CONFIG : Nat := 0x010C
def PARAM_READ : Nat := 0x0200
def REFCLK_LOST : Nat := 0x0201
def REFCLK_RETURNED : Nat := 0x0202
def XTAL_LOST : Nat := 0x0203
def SWARM_LOST : Nat := 0x0204
def SWARM_LOCKED : Nat := 0x0205
def BIAS_FAULT : Nat := 0x0301
def BLANK_STUCK : Nat := 0x0302
def TRACK_READ : Nat := 0x0304
def ZONE_READ : Nat := 0x030A
def STREAM_STATUS : Nat := 0x0402
def FOREIGN_LOCKED : Nat := 0x0601
def FOREIGN_RELEASED : Nat := 0x0602
def WEATHER_CHANGED : Nat := 0x0603
def TEMPLATE_READ : Nat := 0x0607
def ATTEST : Nat := 0x0700
def ENGINE_FENCED : Nat := 0x0701
def ZONE_REJECTED : Nat := 0x0702
def ZONE_UNDEFINED : Nat := 0x0703
def HEALTH_READ : Nat := 0x0800
def POLY_SWAPPED : Nat := 0x0801
def FRAME_PLAN : Nat := 0x0901
def SCT_REJECTED : Nat := 0x0902
def SCT_SWAPPED : Nat := 0x0903
def PLACEMENT_CHANGED : Nat := 0x0904
/-- The spec names the event (R23) and not its code: the high byte is the page of the function (R351), the rest is free (log entry 52). -/
def TABLE_ECC : Nat := 0x0900 + Config.tableEccLow.toNat
def REGION_OUTCOME : Nat := 0x0A01
def SLOT_SWAPPED : Nat := 0x0A02
def LASER_SHUTDOWN : Nat := 0x0B01
def TILE_LOST : Nat := 0x0B02
def PATTERN_SWAPPED : Nat := 0x0B03
def STEER_PARK : Nat := 0x0C01
def STEER_TRACK : Nat := 0x0C02
def STEER_FAULT : Nat := 0x0C03
def CAPTURE_DONE : Nat := 0x0D01
def SUPPLY_RANGE : Nat := 0x0E01
def RTD_OPEN : Nat := 0x0E02
def LANE_UP : Nat := 0x0F01
def LANE_DOWN : Nat := 0x0F02
def LANE_LOST : Nat := 0x0F03
def LANE_EYE_LOW : Nat := 0x0F04
def LANE_SEQ_RESET : Nat := 0x0F05
def OWNER_CHANGED : Nat := 0x1001
def EVENTS_LOST : Nat := 0x1002
def COMMAND_DONE : Nat := 0x1003
def STREAM_LOSS : Nat := 0x1101
def DMA_HALTED : Nat := 0x1102
def PLANNER_FAILOVER : Nat := 0x1201
def PORT_SWITCHOVER : Nat := 0x1202
def HEALTH_CHANGED : Nat := 0x1203
def THERMAL_WARNING : Nat := 0x1301
def THERMAL_THROTTLE : Nat := 0x1302
def CAL_DONE : Nat := 0x1303
def CAL_FAILED : Nat := 0x1304
def UPDATE_DONE : Nat := 0x1401
def RECORDER_FLUSHED : Nat := 0x1501

end Ev

namespace Rec

def BOOT : Nat := 0x01
def TIME_HIGH : Nat := 0x02
def TIME_STEP : Nat := 0x03
def LOST : Nat := 0x04
def STATE : Nat := 0x10
def LASER_SHUTDOWN : Nat := 0x20
def TILE_LOST : Nat := 0x21
def COMB_LOST : Nat := 0x22
def BIAS_FAULT : Nat := 0x23
def RTD_OPEN : Nat := 0x24
def STEER_PARK : Nat := 0x30
def OVERRUN : Nat := 0x31
def FAILOVER : Nat := 0x40
def PLANNER_STATE : Nat := 0x41
def LANE : Nat := 0x50
def OWNER : Nat := 0x51
def THERMAL_WARNING : Nat := 0x60
def THROTTLE : Nat := 0x61
def THERMAL_STOP : Nat := 0x62
def SENSOR_BROKEN : Nat := 0x63
def ECC : Nat := 0x70
def DMA_HALTED : Nat := 0x71
def ENGINE_FENCED : Nat := 0x72
def INTERNAL_ERROR : Nat := 0x73
def CLOCK : Nat := 0x80
def SUPPLY : Nat := 0x81
def FLUSH : Nat := 0xF0

end Rec

end Sys2Proof.Machine
end

