-- ==== Sys2Proof/Machine/Bits.lean ====
section
/-!
DEFINITION. Machine/Bits.lean: bit fields, byte order (R9), rounding and saturation (R10), and the check word CRC-32C (R11).
-/

namespace Sys2Proof.Machine

/-- Field [hi:lo] of a word, as a number. -/
def bitsOf (w : Word) (hi lo : Nat) : Nat := (w.toNat >>> lo) % 2 ^ (hi + 1 - lo)

/-- `w` with field [hi:lo] replaced by `v`, cut to the field. -/
def withBits (w : Word) (hi lo v : Nat) : Word :=
  BitVec.ofNat 32 (w.toNat - (bitsOf w hi lo) * 2 ^ lo + (v % 2 ^ (hi + 1 - lo)) * 2 ^ lo)

/-- Two's complement reading of an n-bit field. -/
def signed (n v : Nat) : Int := if v % 2 ^ n < 2 ^ (n - 1) then (v % 2 ^ n : Nat) else (v % 2 ^ n : Nat) - 2 ^ n

/-- Two's complement n-bit field of an integer that fits it (wraps otherwise). -/
def wrapNat (n : Nat) (x : Int) : Nat := (x % 2 ^ n).toNat

/-- Quotient rounded to nearest, ties to even (R10); the divisor is positive. -/
def divRound (n d : Int) : Int :=
  let q := n / d
  let r := n % d
  if 2 * r < d then q else if d < 2 * r then q + 1 else if q % 2 = 0 then q else q + 1

/-- Quotient of naturals rounded to nearest, ties to even (R10). -/
def divRoundNat (n d : Nat) : Nat := (divRound n d).toNat

/-- A time in ns as µs, rounded to nearest (R10). -/
def toUs (ns : Nat) : Nat := divRoundNat ns 1000

/-- A time in ns as ms, rounded to nearest (R10). -/
def toMs (ns : Nat) : Nat := divRoundNat ns 1000000

/-- Bytes as KiB, rounded to nearest (R10). -/
def toKib (n : Nat) : Nat := divRoundNat n 1024

/-- Clamp to a closed interval. -/
def clampInt (lo hi x : Int) : Int := if x < lo then lo else if hi < x then hi else x

/-- Clamp a natural number to a closed interval. -/
def clampNat (lo hi x : Nat) : Nat := if x < lo then lo else if hi < x then hi else x

/-- R10: saturation at the limits of an unsigned n-bit field. -/
def satU (n : Nat) (x : Int) : Nat := (clampInt 0 (2 ^ n - 1) x).toNat

/-- R10: saturation at the limits of an n-bit two's complement field, as the field's bits. -/
def satS (n : Nat) (x : Int) : Nat := wrapNat n (clampInt (-(2 ^ (n - 1))) (2 ^ (n - 1) - 1) x)

/-- `n` bytes of a number, least significant first (R9). -/
def leBytes : Nat → Nat → List Byte
  | 0, _ => []
  | n + 1, v => BitVec.ofNat 8 v :: leBytes n (v / 256)

/-- The number that bytes spell, least significant first (R9). -/
def leNat : List Byte → Nat
  | [] => 0
  | b :: bs => b.toNat + 256 * leNat bs

/-- `n` bytes from offset `o` of a byte string; bytes beyond its end read 0. -/
def bytesAt (bs : List Byte) (o n : Nat) : List Byte :=
  let t := (bs.drop o).take n
  t ++ List.replicate (n - t.length) 0

/-- The field of `n` bytes at byte offset `o` (R9). -/
def fieldAt (bs : List Byte) (o n : Nat) : Nat := leNat (bytesAt bs o n)

/-- Bits [hi:lo] of the field of `n` bytes at byte offset `o`. -/
def fieldBits (bs : List Byte) (o n hi lo : Nat) : Nat := (fieldAt bs o n >>> lo) % 2 ^ (hi + 1 - lo)

/-- One bit step of the reflected CRC-32C register. -/
def crcBit (c : Nat) : Nat := if c % 2 = 1 then (c >>> 1) ^^^ 0x82F63B78 else c >>> 1

/-- One byte of the CRC-32C register. -/
def crcByte (c : Nat) (b : Byte) : Nat :=
  crcBit (crcBit (crcBit (crcBit (crcBit (crcBit (crcBit (crcBit (c ^^^ b.toNat))))))))

/-- CRC-32C (Castagnoli) of a byte string, the check word of R11. -/
def crc32c (bs : List Byte) : Nat := (bs.foldl crcByte 0xFFFFFFFF) ^^^ 0xFFFFFFFF

/-- The number of 1 bits among the lowest n bits. -/
def popCount : Nat → Nat → Nat
  | 0, _ => 0
  | n + 1, v => v % 2 + popCount n (v / 2)

/-- Bit i of a number. -/
def bitN (v i : Nat) : Bool := (v >>> i) % 2 == 1

/-- A number with bit i set to `b`. -/
def setBitN (v i : Nat) (b : Bool) : Nat :=
  if bitN v i == b then v else if b then v + 2 ^ i else v - 2 ^ i

/-- The difference of two w-bit numbers, modulo 2^w. -/
def wrapSub (w a b : Nat) : Nat := (a + (2 ^ w - b % 2 ^ w)) % 2 ^ w

/-- 0 or 1. -/
def b2n (b : Bool) : Nat := if b then 1 else 0

/-- Integer square root, rounded down, by bits from the top. -/
def isqrtBits : Nat → Nat → Nat → Nat
  | 0, _, r => r
  | k + 1, n, r => if (r + 2 ^ k) * (r + 2 ^ k) ≤ n then isqrtBits k n (r + 2 ^ k) else isqrtBits k n r

/-- Integer square root, rounded down, of a number below 2¹²⁸. -/
def isqrt (n : Nat) : Nat := isqrtBits 64 n 0

/-- Integer square root rounded to nearest. -/
def isqrtRound (n : Nat) : Nat := let r := isqrt n; if r * r + r < n then r + 1 else r

/-- The identity registers of R451, k = 0 `IDENT_LOT`, 1 `IDENT_DIE`, 2 `IDENT_PART` (grade 2, revision B, R445). -/
def identReset (v : Variant) (k : Nat) : Nat :=
  match k with
  | 0 => Config.lot.toNat + 0x1000000 * Config.wafer.toNat
  | 1 => Config.dieX.toNat + 0x100 * Config.dieY.toNat + 0x10000 * Config.testRev.toNat
  | _ => v.code + 0x200 + 0x420000

end Sys2Proof.Machine
end

