-- ==== Sys2Proof/Machine/RegMap.lean ====
section
/-! DEFINITION. Machine/RegMap.lean: the parameter space of spec/21_parameter_space.md (R468 to R472): the address of
every register by its name in the spec, and one row per register with its access, the bits a write can reach, its reset
value and the fused resource it belongs to. -/

namespace Sys2Proof.Machine

namespace Reg

/-! Page 0x0001. -/

def SYS_STATE : Nat := 0x00010010
def STATE_ENTRY_TIME_LO : Nat := 0x00010014
def STATE_ENTRY_TIME_HI : Nat := 0x00010018
def STATE_TRANSITIONS : Nat := 0x0001001C
def LOOP_LATE_VEL : Nat := 0x00010040
def LOOP_LATE_PLAN : Nat := 0x00010044
def LOOP_LATE_VERDICT : Nat := 0x00010048
def EVENT_FIFO_DROP : Nat := 0x0001004C
def LOOP_LATE_FLAGS : Nat := 0x00010050
/-! Page 0x0002. -/

def CLK_CTRL : Nat := 0x00020000
def CLK_STATUS : Nat := 0x00020004
def CLK_FLAGS : Nat := 0x00020008
def CLK_SWITCHES : Nat := 0x0002000C
def XO_OFFSET : Nat := 0x00020010
def FRAME_CTRL : Nat := 0x00020100
def FRAME_PERIOD : Nat := 0x00020104
def FRAME_STATUS : Nat := 0x00020108
def FRAME_FLY_COUNT : Nat := 0x0002010C
def SWARM_CTRL : Nat := 0x00020110
def SWARM_FRAME_OFS : Nat := 0x00020114
def SWARM_SLOT_MASK : Nat := 0x00020118
def SWARM_STATUS : Nat := 0x0002011C
def SWARM_FLAGS : Nat := 0x00020120
def SWARM_CRC_ERR : Nat := 0x00020124
def TIME_OFFSET : Nat := 0x00020128
/-! Page 0x0003. -/

def RX_CTRL : Nat := 0x00030000
def RX_STATUS : Nat := 0x00030004
def RX_FLAGS : Nat := 0x00030008
def RX_COMB_LOST : Nat := 0x0003000C
def RX_LIMITS : Nat := 0x00030010
def RX_BIAS_LIMITS : Nat := 0x00030014
def RX_SELFTEST : Nat := 0x00030018
def BIAS_ZONE_MAP (i : Nat) : Nat := 0x00030020 + 0x4 * i
def BIAS_CTRL (z : Nat) : Nat := 0x00030100 + 0x10 * z
def BIAS_STATE (z : Nat) : Nat := 0x00030104 + 0x10 * z
def RX_RANGE (c : Nat) : Nat := 0x00030400 + 0x20 * c
def RX_THR (c : Nat) : Nat := 0x00030404 + 0x20 * c
def RX_SAT_COUNT (c : Nat) : Nat := 0x00030408 + 0x20 * c
def RX_COMB_STATUS (c : Nat) : Nat := 0x0003040C + 0x20 * c
def BIAS_I (c : Nat) : Nat := 0x00030410 + 0x20 * c
def BIAS_FAST (c : Nat) : Nat := 0x00030414 + 0x20 * c
def RX_CH (n : Nat) : Nat := 0x00031000 + 0x4 * n
/-! Page 0x0004. -/

def TDC_ONE_STOP : Nat := 0x00040000
def TDC_EXT_WIN : Nat := 0x00040004
def TDC_FLAGS : Nat := 0x00040008
def START_THR (t : Nat) : Nat := 0x00040040 + 0x4 * t
def TDC_DEAD_MISS (c : Nat) : Nat := 0x00040100 + 0x10 * c
def TDC_STOP_OVER (c : Nat) : Nat := 0x00040104 + 0x10 * c
def TDC_PRE_START (c : Nat) : Nat := 0x00040108 + 0x10 * c
def TDC_COMB_STATUS (c : Nat) : Nat := 0x0004010C + 0x10 * c
def TDC_STAT_CTRL (c : Nat) : Nat := 0x00040400 + 0x20 * c
def TDC_STAT_GATE (c : Nat) : Nat := 0x00040404 + 0x20 * c
def TDC_STAT_STATUS (c : Nat) : Nat := 0x00040408 + 0x20 * c
def TDC_STAT_COUNT (c : Nat) : Nat := 0x0004040C + 0x20 * c
def TDC_STAT_MEAN (c : Nat) : Nat := 0x00040410 + 0x20 * c
def TDC_STAT_SDEV (c : Nat) : Nat := 0x00040414 + 0x20 * c
def TDC_STAT_MIN (c : Nat) : Nat := 0x00040418 + 0x20 * c
def TDC_STAT_MAX (c : Nat) : Nat := 0x0004041C + 0x20 * c
def TDC_FINE (n : Nat) : Nat := 0x00041000 + 0x8 * n
def TDC_SKEW (n : Nat) : Nat := 0x00041004 + 0x8 * n
def TDC_SFINE (c : Nat) (t : Nat) : Nat := 0x00042000 + 0x40 * c + 0x8 * t
def TDC_SSKEW (c : Nat) (t : Nat) : Nat := 0x00042004 + 0x40 * c + 0x8 * t
/-! Page 0x0005. -/

def HIST_CAND : Nat := 0x00050000
def HIST_FLAGS : Nat := 0x00050004
def ESTOP_ECHO_COUNT : Nat := 0x00050008
def ESTOP_EMPTY_COUNT : Nat := 0x0005000C
def ESTOP_PA (p : Nat) : Nat := 0x00050100 + 0x8 * p
def ESTOP_PB (p : Nat) : Nat := 0x00050104 + 0x8 * p
def HIST_CTRL (c : Nat) : Nat := 0x00050400 + 0x20 * c
def HIST_STATUS (c : Nat) : Nat := 0x00050404 + 0x20 * c
def HIST_STALL (c : Nat) : Nat := 0x00050408 + 0x20 * c
def HIST_OOH (c : Nat) : Nat := 0x0005040C + 0x20 * c
def HIST_DIAG_SKIP (c : Nat) : Nat := 0x00050410 + 0x20 * c
def HIST_RING_WAIT (c : Nat) : Nat := 0x00050414 + 0x20 * c
/-! Page 0x0006. -/

def REJ_CTRL : Nat := 0x00060000
def REJ_STATUS : Nat := 0x00060004
def REJ_FLAGS : Nat := 0x00060008
def DITHER_SALT : Nat := 0x0006000C
def DITHER_SEED : Nat := 0x00060010
def STEER_FAIL_COUNT : Nat := 0x00060014
def FE_IGNORED : Nat := 0x00060018
def ADP_EN_MASK : Nat := 0x0006001C
def ADP_RATE : Nat := 0x00060020
def ADP_STEP : Nat := 0x00060024
def SUN_CFG : Nat := 0x00060028
def SUN_RED_MAX : Nat := 0x0006002C
def FE_CFG : Nat := 0x00060030
def FE_PERIOD : Nat := 0x00060034
def FE_CLEAR : Nat := 0x00060038
def ADP_THR (c : Nat) : Nat := 0x00060080 + 0x4 * c
def WX_CTRL : Nat := 0x00060100
def WX_THR_A : Nat := 0x00060104
def WX_THR_B : Nat := 0x00060108
def WX_SPRAY_EL : Nat := 0x0006010C
def WX_POLICY : Nat := 0x00060110
def WX_STATUS : Nat := 0x00060114
def WX_STATS : Nat := 0x00060118
def WX_CHANGES : Nat := 0x0006011C
def SUN_RED (z : Nat) : Nat := 0x00060140 + 0x4 * z
def FE_CTX_STATE (i : Nat) : Nat := 0x00060400 + 0x10 * i
def FE_CTX_PERIOD (i : Nat) : Nat := 0x00060404 + 0x10 * i
def FE_CTX_LAST (i : Nat) : Nat := 0x00060408 + 0x10 * i
def FE_CTX_COMBS (i : Nat) : Nat := 0x0006040C + 0x10 * i
def WX_PROFILE (s : Nat) (m : Nat) : Nat := 0x00061000 + 0x40 * s + 0x4 * m
/-! Page 0x0007. -/

def DET_CTRL : Nat := 0x00070000
def DET_THR : Nat := 0x00070004
def DET_FLAGS : Nat := 0x00070008
def DET_LIB_VERSION : Nat := 0x0007000C
def DET_ECHO_COUNT : Nat := 0x00070010
def DET_ECHO_OVER : Nat := 0x00070014
def DET_LATENCY : Nat := 0x00070018
def TPL_STATUS : Nat := 0x0007001C
def SEG_TEMPLATE (k : Nat) : Nat := 0x00070040 + 0x4 * k
def DET_RANGE_OFS (t : Nat) : Nat := 0x00070080 + 0x4 * t
def TRK_CLUSTER : Nat := 0x00070100
def TRK_ASSOC : Nat := 0x00070104
def TRK_FILTER : Nat := 0x00070108
def TRK_NEW : Nat := 0x0007010C
def TRK_FLOORS : Nat := 0x00070110
def TRK_CREATED : Nat := 0x00070120
def TRK_ENDED : Nat := 0x00070124
def TRK_NO_CTX : Nat := 0x00070128
def TRK_ABSORBED : Nat := 0x0007012C
def TRK_CLU_OVER : Nat := 0x00070130
def ZONE_TABLE_STATUS : Nat := 0x00070200
def ZONE_FLAGS : Nat := 0x00070204
def ZONE_STATE (z : Nat) : Nat := 0x00070400 + 0x4 * z
def HIVE_FREQ_CTRL (h : Nat) : Nat := 0x00070800 + 0x20 * h
def HIVE_STATUS (h : Nat) : Nat := 0x00070804 + 0x20 * h
def HIVE_FENCE (h : Nat) (i : Nat) : Nat := 0x00070808 + 0x20 * h + 0x4 * i
def HIVE_DROP (h : Nat) : Nat := 0x00070818 + 0x20 * h
def HIVE_RECORDS (h : Nat) : Nat := 0x0007081C + 0x20 * h
/-! Page 0x0008. -/

def FC_CTRL : Nat := 0x00080000
def FC_GRID : Nat := 0x00080004
def FC_SEG_LO : Nat := 0x00080008
def FC_SEG_HI : Nat := 0x0008000C
def FC_STATUS : Nat := 0x00080010
def FC_FLAGS : Nat := 0x00080014
def FC_POLY_COMMIT : Nat := 0x00080018
def FC_SAT_COUNT : Nat := 0x0008001C
def FC_STAGE_CFG (k : Nat) : Nat := 0x00080040 + 0x20 * k
def FC_STAGE_TAP (k : Nat) (j : Nat) : Nat := 0x00080044 + 0x20 * k + 0x4 * j
def FC_WINDOWS (h : Nat) : Nat := 0x00080100 + 0x10 * h
def FC_SKIP (h : Nat) : Nat := 0x00080104 + 0x10 * h
def FC_POLY (r : Nat) : Nat := 0x00081000 + 0x4 * r
def FC_POLY_ACT (r : Nat) : Nat := 0x00082000 + 0x4 * r
/-! Page 0x0009. -/

def PLAN_CTRL : Nat := 0x00090000
def PLAN_COL_TIME : Nat := 0x00090004
def PLAN_EDGE : Nat := 0x00090008
def PLAN_SHOT_RATE : Nat := 0x0009000C
def PLAN_AZ_FIRST : Nat := 0x00090010
def PLAN_AZ_STEP : Nat := 0x00090014
def SEG_DISABLE_LO : Nat := 0x00090018
def SEG_DISABLE_HI : Nat := 0x0009001C
def SCT_STATUS : Nat := 0x00090020
def SCT_ACTIVE_COUNT : Nat := 0x00090024
def SCT_REJECT_INDEX : Nat := 0x00090028
def TRACK_COUNT : Nat := 0x00090030
def PLAN_TRACK_POLICY : Nat := 0x00090034
def PLAN_FRAME_NUMBER : Nat := 0x00090040
def PLAN_THROTTLE : Nat := 0x00090044
def FRAME_CUT_COUNT : Nat := 0x00090048
def PLAN_SHORT_COUNT : Nat := 0x0009004C
def PLAN_FLAGS : Nat := 0x00090050
def PLACE_MAP (i : Nat) : Nat := 0x00090080 + 0x4 * i
def PLACE_SPILL : Nat := 0x00090090
def PLACE_MOVES : Nat := 0x00090094
def HIVE_LOAD_LO : Nat := 0x00090098
def HIVE_LOAD_HI : Nat := 0x0009009C
def SEG_MAP_A (s : Nat) : Nat := 0x00090200 + 0x8 * s
def SEG_MAP_B (s : Nat) : Nat := 0x00090204 + 0x8 * s
/-! Page 0x000A. -/

def ARB_CTRL : Nat := 0x000A0000
def ARB_SLOT_STATUS : Nat := 0x000A0004
def ARB_SLOT_COMMIT : Nat := 0x000A0008
def ARB_SLOT_NEXT : Nat := 0x000A000C
def ARB_GRANTS : Nat := 0x000A0010
def ARB_FAIR_GRANTS : Nat := 0x000A0014
def ARB_FAIR_COUNT : Nat := 0x000A0018
def ARB_OUT_SERVED : Nat := 0x000A0020
def ARB_OUT_DEFERRED : Nat := 0x000A0024
def ARB_OUT_REFUSED : Nat := 0x000A0028
def ARB_OUT_PREEMPTED : Nat := 0x000A002C
def ARB_OUT_CUT_OFF : Nat := 0x000A0030
def ARB_PORT (p : Nat) : Nat := 0x000A0040 + 0x4 * p
def ARB_STREAM (i : Nat) : Nat := 0x000A0080 + 0x4 * i
def ARB_SLOT (n : Nat) : Nat := 0x000A0400 + 0x4 * n
def ARB_SLOT_ACT (n : Nat) : Nat := 0x000A0800 + 0x4 * n
/-! Page 0x000B. -/

def EMIT_CTRL : Nat := 0x000B0000
def EMIT_STATUS : Nat := 0x000B0004
def EMIT_LSD_CAUSE : Nat := 0x000B0008
def EMIT_LSD_COUNT : Nat := 0x000B000C
def FIRE_TRIM (t : Nat) : Nat := 0x000B0010 + 0x4 * t
def EMIT_TILE_LIMITS : Nat := 0x000B0030
def EMIT_WL_CTRL : Nat := 0x000B0034
def EMIT_WL_STATE : Nat := 0x000B0038
def PAT_COMMIT : Nat := 0x000B003C
def WL_DISC (t : Nat) : Nat := 0x000B0040 + 0x4 * t
def TILE_MISS (t : Nat) : Nat := 0x000B0060 + 0x4 * t
def DRIP_RET_ERR : Nat := 0x000B0080
def DRIP_PAR_ERR : Nat := 0x000B0084
def ACCT_REFUSED : Nat := 0x000B0088
def ACCT_FLAGS : Nat := 0x000B008C
def ACCT_CFG : Nat := 0x000B0100
def ACCT_ZONE_MAP : Nat := 0x000B0104
def NORM_MAX (t : Nat) : Nat := 0x000B0140 + 0x4 * t
def ACCT_LIM (z : Nat) (w : Nat) : Nat := 0x000B0180 + 0xC * z + 0x4 * w
def ACCT_SUM (z : Nat) (w : Nat) : Nat := 0x000B0200 + 0xC * z + 0x4 * w
def PAT (s : Nat) : Nat := 0x000B0400 + 0x4 * s
def PAT_ACT (s : Nat) : Nat := 0x000B0500 + 0x4 * s
/-! Page 0x000C. -/

def WAG_CTRL : Nat := 0x000C0000
def WAG_STATUS : Nat := 0x000C0004
def WAG_COMMIT : Nat := 0x000C0008
def WAG_LOAD : Nat := 0x000C000C
def WAG_OVR_FLAGS : Nat := 0x000C0010
def WAG_SAT_FLAGS : Nat := 0x000C0014
def WAG_PROF_FLAGS : Nat := 0x000C0018
def WL_KP : Nat := 0x000C0040
def WL_KI : Nat := 0x000C0044
def HEAT_KP : Nat := 0x000C0048
def HEAT_KI : Nat := 0x000C004C
def HEAT_TSET_LIM : Nat := 0x000C0050
def WAG_OVR_COUNT (l : Nat) : Nat := 0x000C0080 + 0x4 * l
def WAG_SAT_COUNT (l : Nat) : Nat := 0x000C0100 + 0x4 * l
def AX_MODE (a : Nat) : Nat := 0x000C0200 + 0x80 * a
def AX_MAN_VALUE (a : Nat) : Nat := 0x000C0204 + 0x80 * a
def AX_PKP (a : Nat) : Nat := 0x000C0208 + 0x80 * a
def AX_PKI (a : Nat) : Nat := 0x000C020C + 0x80 * a
def AX_PKD (a : Nat) : Nat := 0x000C0210 + 0x80 * a
def AX_PKFV (a : Nat) : Nat := 0x000C0214 + 0x80 * a
def AX_PKFA (a : Nat) : Nat := 0x000C0218 + 0x80 * a
def AX_DFILT (a : Nat) : Nat := 0x000C021C + 0x80 * a
def AX_OUT_LIM (a : Nat) : Nat := 0x000C0220 + 0x80 * a
def AX_CKP (a : Nat) : Nat := 0x000C0224 + 0x80 * a
def AX_CKI (a : Nat) : Nat := 0x000C0228 + 0x80 * a
def AX_NOTCH0 (a : Nat) : Nat := 0x000C022C + 0x80 * a
def AX_NOTCH1 (a : Nat) : Nat := 0x000C0230 + 0x80 * a
def AX_NOTCH2 (a : Nat) : Nat := 0x000C0234 + 0x80 * a
def AX_DYN_VA (a : Nat) : Nat := 0x000C0238 + 0x80 * a
def AX_DYN_J (a : Nat) : Nat := 0x000C023C + 0x80 * a
def AX_PARK (a : Nat) : Nat := 0x000C0240 + 0x80 * a
def AX_PARK_LIM (a : Nat) : Nat := 0x000C0244 + 0x80 * a
def AX_TOL (a : Nat) : Nat := 0x000C0248 + 0x80 * a
def AX_ANG_OFS (a : Nat) : Nat := 0x000C024C + 0x80 * a
def AX_ANG_GAIN (a : Nat) : Nat := 0x000C0250 + 0x80 * a
def AX_POS_MEAS (a : Nat) : Nat := 0x000C0254 + 0x80 * a
def AX_POS_REF (a : Nat) : Nat := 0x000C0258 + 0x80 * a
def AX_VEL_EST (a : Nat) : Nat := 0x000C025C + 0x80 * a
def AX_CUR (a : Nat) : Nat := 0x000C0260 + 0x80 * a
def AX_DRIVE (a : Nat) : Nat := 0x000C0264 + 0x80 * a
def AX_ERR_PEAK (a : Nat) : Nat := 0x000C0268 + 0x80 * a
def HEAT_CTRL (t : Nat) : Nat := 0x000C0400 + 0x10 * t
def HEAT_PRESET (t : Nat) : Nat := 0x000C0404 + 0x10 * t
def HEAT_STATUS (t : Nat) : Nat := 0x000C0408 + 0x10 * t
def HEAT_SET (t : Nat) : Nat := 0x000C040C + 0x10 * t
/-! Page 0x000D. -/

def CAP_CTRL : Nat := 0x000D0000
def CAP_SIZE : Nat := 0x000D0004
def CAP_TRIG_MASK : Nat := 0x000D0008
def CAP_COMBS : Nat := 0x000D000C
def CAP_STATUS : Nat := 0x000D0010
def CAP_FLAGS : Nat := 0x000D0014
def CAP_COUNT : Nat := 0x000D0018
def CAP_MISSED : Nat := 0x000D001C
def CAP_DEAD_LAST : Nat := 0x000D0020
def CAP_DEAD_MAX : Nat := 0x000D0024
def CAP_GAPS : Nat := 0x000D0028
def CAP_GAP_ITEMS : Nat := 0x000D002C
/-! Page 0x000E. -/

def AUX_FLAGS : Nat := 0x000E0000
def AUX_SUP_FLAGS : Nat := 0x000E0004
def AUX_SCAN_COUNT : Nat := 0x000E000C
def MA_CFG (m : Nat) : Nat := 0x000E0040 + 0x20 * m
def MA_DEC (m : Nat) : Nat := 0x000E0044 + 0x20 * m
def MA_SEQ (m : Nat) (q : Nat) : Nat := 0x000E0048 + 0x20 * m + 0x4 * q
def SAR_SHOT_COUNT : Nat := 0x000E0100
def SAR_CTRL_COUNT : Nat := 0x000E0104
def SAR_DEFER_COUNT : Nat := 0x000E0108
def SAR_SHARE_COUNT : Nat := 0x000E010C
def SAR_LATE_COUNT : Nat := 0x000E0110
def SAR_LAST_ANG : Nat := 0x000E0114
def SAR_LAST_MON : Nat := 0x000E0118
def AUX_RES (i : Nat) : Nat := 0x000E0200 + 0x4 * i
def AUX_INT (j : Nat) : Nat := 0x000E0300 + 0x4 * j
def RTD_CTRL : Nat := 0x000E0400
def RTD_CFG (r : Nat) : Nat := 0x000E0410 + 0x10 * r
def RTD_RES (r : Nat) : Nat := 0x000E0414 + 0x10 * r
def RTD_TEMP (r : Nat) : Nat := 0x000E0418 + 0x10 * r
def RTD_BREAKS (r : Nat) : Nat := 0x000E041C + 0x10 * r
/-! Page 0x000F. -/

def LINK_CTRL : Nat := 0x000F0000
def LINK_STATUS : Nat := 0x000F0004
def LINK_FLAGS : Nat := 0x000F0008
def LANE_CFG (l : Nat) : Nat := 0x000F0100 + 0x40 * l
def LANE_PWR (l : Nat) : Nat := 0x000F0104 + 0x40 * l
def LANE_STATUS (l : Nat) : Nat := 0x000F0108 + 0x40 * l
def LANE_EQ (l : Nat) : Nat := 0x000F010C + 0x40 * l
def LANE_CRC_ERR (l : Nat) : Nat := 0x000F0110 + 0x40 * l
def LANE_FRAME_ERR (l : Nat) : Nat := 0x000F0114 + 0x40 * l
def LANE_REPLAY (l : Nat) : Nat := 0x000F0118 + 0x40 * l
def LANE_RETRAIN (l : Nat) : Nat := 0x000F011C + 0x40 * l
def LANE_NAK_TX (l : Nat) : Nat := 0x000F0120 + 0x40 * l
def LANE_SEQ_RESET (l : Nat) : Nat := 0x000F0124 + 0x40 * l
/-! Page 0x0010. -/

def PORT_ROLE_CFG : Nat := 0x00100000
def PORT_ROLES : Nat := 0x00100004
def OWNER_INFO : Nat := 0x00100008
def CMD_FLAGS : Nat := 0x0010000C
def LP_CRC_ERR : Nat := 0x00100010
def PORT_CMD_COUNT (p : Nat) : Nat := 0x00100040 + 0x10 * p
def PORT_CMD_ERR (p : Nat) : Nat := 0x00100044 + 0x10 * p
def PORT_EVT_DROP (p : Nat) : Nat := 0x00100048 + 0x10 * p
def PORT_QUEUE (p : Nat) : Nat := 0x0010004C + 0x10 * p
def PORT_EVT_MASK (p : Nat) : Nat := 0x00100100 + 0x4 * p
/-! Page 0x0011. -/

def STREAM_CTRL : Nat := 0x00110000
def STREAM_FLAGS : Nat := 0x00110004
def STREAM_LOST_RECORDS : Nat := 0x00110008
def STREAM_LOST_BYTES : Nat := 0x0011000C
def DMA_HALTED_LO : Nat := 0x00110010
def DMA_HALTED_HI : Nat := 0x00110014
def PORT_SEQ_LOSS (p : Nat) : Nat := 0x00110040 + 0x4 * p
def DMA_STATUS (n : Nat) : Nat := 0x00110400 + 0x10 * n
def DMA_CUR (n : Nat) : Nat := 0x00110404 + 0x10 * n
def DMA_DONE (n : Nat) : Nat := 0x00110408 + 0x10 * n
def DMA_APPEND (n : Nat) : Nat := 0x0011040C + 0x10 * n
/-! Page 0x0012. -/

def RED_CTRL : Nat := 0x00120000
def PLAN_PAIR_STATUS : Nat := 0x00120004
def GATE_CLAIM : Nat := 0x00120008
def CLAIM_AB : Nat := 0x0012000C
def FAILOVER_COUNT : Nat := 0x00120010
def FAILOVER_LAST : Nat := 0x00120014
def CKPT_STATUS : Nat := 0x00120018
def PLAN_TEST_A : Nat := 0x0012001C
def PLAN_TEST_B : Nat := 0x00120020
def RED_FLAGS : Nat := 0x00120024
def RED_CMD : Nat := 0x00120028
def HEALTH_SUMMARY : Nat := 0x00120030
def PAIR_CTRL (k : Nat) : Nat := 0x00120040 + 0x10 * k
def PAIR_STATUS (k : Nat) : Nat := 0x00120044 + 0x10 * k
def PAIR_SWITCHES (k : Nat) : Nat := 0x00120048 + 0x10 * k
def SSN_STATUS : Nat := 0x00120080
def ECC (x : Nat) : Nat := 0x001200C0 + 0x4 * x
/-! Page 0x0013. -/

def THERM_STATUS : Nat := 0x00130000
def THERM_FLAGS : Nat := 0x00130004
def THERM_BROKEN : Nat := 0x00130008
def THERM_PEAK : Nat := 0x0013000C
def THERM_STOP_COUNT : Nat := 0x00130010
def THERM_RTD (r : Nat) : Nat := 0x00130040 + 0x4 * r
def CAL_CTRL : Nat := 0x00130100
def CAL_STATUS : Nat := 0x00130104
def CAL_FLAGS : Nat := 0x00130108
def CAL_COUNT : Nat := 0x0013010C
def CAL_COMB_TIME_LO : Nat := 0x00130110
def CAL_COMB_TIME_HI : Nat := 0x00130114
def CAL_FULL_TIME_LO : Nat := 0x00130118
def CAL_FULL_TIME_HI : Nat := 0x0013011C
def CAL_Q_SKEW : Nat := 0x00130120
def CAL_Q_INL : Nat := 0x00130124
def CAL_Q_BIAS : Nat := 0x00130128
def CAL_COMB (c : Nat) : Nat := 0x00130200 + 0x4 * c
/-! Page 0x0014. -/

def BOOT_STATUS : Nat := 0x00140000
def BOOT_FLAGS : Nat := 0x00140004
def BOOT_COUNT : Nat := 0x00140008
def BOOT_TIME : Nat := 0x0014000C
def BOOT_CFG_SKIPPED : Nat := 0x00140010
def IDENT_LOT : Nat := 0x00140020
def IDENT_DIE : Nat := 0x00140024
def IDENT_PART : Nat := 0x00140028
def FW_BUILD : Nat := 0x00140030
def CFG_ID : Nat := 0x00140034
def SVN_STATUS : Nat := 0x00140038
def UPDATE_STATUS : Nat := 0x0014003C
/-! Page 0x0015. -/

def REC_STATUS : Nat := 0x00150000
def REC_FLAGS : Nat := 0x00150004
def REC_NEXT_SEQ : Nat := 0x00150008
def REC_FLUSHED_SEQ : Nat := 0x0015000C
def REC_DROPPED : Nat := 0x00150010
def REC_FLUSH_COUNT : Nat := 0x00150014
def REC_LAST_FLUSH : Nat := 0x00150018

end Reg

/-- The access codes of R12 that a whole register can have. -/
inductive Access where
  | rw | ro | w1c | wo
deriving DecidableEq, Repr

/-- The resource a register belongs to, for R6: a register of a fused-off resource is not present. -/
inductive Resource where
  | common | comb | chan | hive | lane | port | stream | dma | pair | placeMap | hiveHi | calQ
deriving DecidableEq, Repr

/-- How the Reset column of R472 gives a register's value. -/
inductive ResetVal where
  | const (v : Nat)
  | axis (x y : Nat)
  | zoneMap | placeMap | segMapA | segMapB | poly | combMask | linkStatus | portRoles
  | ident (k : Nat)
deriving DecidableEq, Repr

/-- One row of the map: `n1 × n2` registers at `base + s1·i + s2·j`. `mask` holds the bits a write reaches (R12, R15). -/
structure RegRow where
  base : Nat
  s1 : Nat := 4
  n1 : Nat := 1
  s2 : Nat := 4
  n2 : Nat := 1
  acc : Access
  mask : Nat := 0
  rst : ResetVal := .const 0
  res : Resource := .common
deriving DecidableEq, Repr


/-- Page 0x0001 of R468. -/
def regRows01 : List RegRow := [
  /- SYS_STATE -/ { base := 0x00010010, acc := .ro, rst := .const 0x00000101 },
  /- STATE_ENTRY_TIME_LO -/ { base := 0x00010014, acc := .ro },
  /- STATE_ENTRY_TIME_HI -/ { base := 0x00010018, acc := .ro },
  /- STATE_TRANSITIONS -/ { base := 0x0001001C, acc := .ro },
  /- LOOP_LATE_VEL -/ { base := 0x00010040, acc := .ro },
  /- LOOP_LATE_PLAN -/ { base := 0x00010044, acc := .ro },
  /- LOOP_LATE_VERDICT -/ { base := 0x00010048, acc := .ro },
  /- EVENT_FIFO_DROP -/ { base := 0x0001004C, acc := .ro },
  /- LOOP_LATE_FLAGS -/ { base := 0x00010050, acc := .w1c, mask := 0xF }
]

/-- Page 0x0002 of R468. -/
def regRows02 : List RegRow := [
  /- CLK_CTRL -/ { base := 0x00020000, acc := .rw, mask := 0xFFFF0003, rst := .const 0x00640001 },
  /- CLK_STATUS -/ { base := 0x00020004, acc := .ro },
  /- CLK_FLAGS -/ { base := 0x00020008, acc := .w1c, mask := 0xF },
  /- CLK_SWITCHES -/ { base := 0x0002000C, acc := .ro },
  /- XO_OFFSET -/ { base := 0x00020010, acc := .ro },
  /- FRAME_CTRL -/ { base := 0x00020100, acc := .rw, mask := 0x7 },
  /- FRAME_PERIOD -/ { base := 0x00020104, acc := .rw, mask := 0xFFFFFF, rst := .const 0x00009C40 },
  /- FRAME_STATUS -/ { base := 0x00020108, acc := .ro, rst := .const 0x00009C40 },
  /- FRAME_FLY_COUNT -/ { base := 0x0002010C, acc := .ro },
  /- SWARM_CTRL -/ { base := 0x00020110, acc := .rw, mask := 0xFFF003F },
  /- SWARM_FRAME_OFS -/ { base := 0x00020114, acc := .rw, mask := 0xFFFFFF },
  /- SWARM_SLOT_MASK -/ { base := 0x00020118, acc := .rw, mask := 0xFFFF, rst := .const 0x0000FFFF },
  /- SWARM_STATUS -/ { base := 0x0002011C, acc := .ro },
  /- SWARM_FLAGS -/ { base := 0x00020120, acc := .w1c, mask := 0x1F },
  /- SWARM_CRC_ERR -/ { base := 0x00020124, acc := .ro },
  /- TIME_OFFSET -/ { base := 0x00020128, acc := .ro }
]

/-- Page 0x0003 of R468. -/
def regRows03 : List RegRow := [
  /- RX_CTRL -/ { base := 0x00030000, acc := .rw, mask := 0x7FFFFF03, rst := .const 0x23250A00 },
  /- RX_STATUS -/ { base := 0x00030004, acc := .ro },
  /- RX_FLAGS -/ { base := 0x00030008, acc := .w1c, mask := 0x7F },
  /- RX_COMB_LOST -/ { base := 0x0003000C, acc := .ro },
  /- RX_LIMITS -/ { base := 0x00030010, acc := .rw, mask := 0xFFF0F1F, rst := .const 0x03040408 },
  /- RX_BIAS_LIMITS -/ { base := 0x00030014, acc := .rw, mask := 0xFFFFFFFF, rst := .const 0xF0000034 },
  /- RX_SELFTEST -/ { base := 0x00030018, acc := .wo, mask := 0x1 },
  /- BIAS_ZONE_MAP -/ { base := 0x00030020, s1 := 0x4, n1 := 4, acc := .rw, mask := 0x77777777, rst := .zoneMap, res := .placeMap },
  /- BIAS_CTRL -/ { base := 0x00030100, s1 := 0x10, n1 := 8, acc := .rw, mask := 0x3FFF7FFF, rst := .const 0x3FFF0000 },
  /- BIAS_STATE -/ { base := 0x00030104, s1 := 0x10, n1 := 8, acc := .ro },
  /- RX_RANGE -/ { base := 0x00030400, s1 := 0x20, n1 := 32, acc := .rw, mask := 0xF3F3FFF, rst := .const 0x040C38C0, res := .comb },
  /- RX_THR -/ { base := 0x00030404, s1 := 0x20, n1 := 32, acc := .rw, mask := 0x3FFFFFFF, rst := .const 0x10000040, res := .comb },
  /- RX_SAT_COUNT -/ { base := 0x00030408, s1 := 0x20, n1 := 32, acc := .ro, res := .comb },
  /- RX_COMB_STATUS -/ { base := 0x0003040C, s1 := 0x20, n1 := 32, acc := .ro, rst := .const 0x00000003, res := .comb },
  /- BIAS_I -/ { base := 0x00030410, s1 := 0x20, n1 := 32, acc := .ro, res := .comb },
  /- BIAS_FAST -/ { base := 0x00030414, s1 := 0x20, n1 := 32, acc := .ro, res := .comb },
  /- RX_CH -/ { base := 0x00031000, s1 := 0x4, n1 := 512, acc := .rw, mask := 0x7F, res := .chan }
]

/-- Page 0x0004 of R468. -/
def regRows04 : List RegRow := [
  /- TDC_ONE_STOP -/ { base := 0x00040000, acc := .rw, mask := 0xFFFFFFFF },
  /- TDC_EXT_WIN -/ { base := 0x00040004, acc := .rw, mask := 0xFFFFFFFF },
  /- TDC_FLAGS -/ { base := 0x00040008, acc := .w1c, mask := 0x1F },
  /- START_THR -/ { base := 0x00040040, s1 := 0x4, n1 := 8, acc := .rw, mask := 0xFFF, rst := .const 0x00000590 },
  /- TDC_DEAD_MISS -/ { base := 0x00040100, s1 := 0x10, n1 := 32, acc := .ro, res := .comb },
  /- TDC_STOP_OVER -/ { base := 0x00040104, s1 := 0x10, n1 := 32, acc := .ro, res := .comb },
  /- TDC_PRE_START -/ { base := 0x00040108, s1 := 0x10, n1 := 32, acc := .ro, res := .comb },
  /- TDC_COMB_STATUS -/ { base := 0x0004010C, s1 := 0x10, n1 := 32, acc := .ro, res := .comb },
  /- TDC_STAT_CTRL -/ { base := 0x00040400, s1 := 0x20, n1 := 32, acc := .rw, mask := 0x7FFF1FFF, rst := .const 0x03E80A80, res := .comb },
  /- TDC_STAT_GATE -/ { base := 0x00040404, s1 := 0x20, n1 := 32, acc := .rw, mask := 0x3FFF3FFF, rst := .const 0x3FFF0000, res := .comb },
  /- TDC_STAT_STATUS -/ { base := 0x00040408, s1 := 0x20, n1 := 32, acc := .ro, res := .comb },
  /- TDC_STAT_COUNT -/ { base := 0x0004040C, s1 := 0x20, n1 := 32, acc := .ro, res := .comb },
  /- TDC_STAT_MEAN -/ { base := 0x00040410, s1 := 0x20, n1 := 32, acc := .ro, res := .comb },
  /- TDC_STAT_SDEV -/ { base := 0x00040414, s1 := 0x20, n1 := 32, acc := .ro, res := .comb },
  /- TDC_STAT_MIN -/ { base := 0x00040418, s1 := 0x20, n1 := 32, acc := .ro, res := .comb },
  /- TDC_STAT_MAX -/ { base := 0x0004041C, s1 := 0x20, n1 := 32, acc := .ro, res := .comb },
  /- TDC_FINE -/ { base := 0x00041000, s1 := 0x8, n1 := 512, acc := .rw, mask := 0x1FFFFFF, rst := .const 0x01002710, res := .chan },
  /- TDC_SKEW -/ { base := 0x00041004, s1 := 0x8, n1 := 512, acc := .rw, mask := 0xFFFF, res := .chan },
  /- TDC_SFINE -/ { base := 0x00042000, s1 := 0x40, n1 := 32, s2 := 0x8, n2 := 8, acc := .rw, mask := 0x1FFFFFF, rst := .const 0x01002710, res := .comb },
  /- TDC_SSKEW -/ { base := 0x00042004, s1 := 0x40, n1 := 32, s2 := 0x8, n2 := 8, acc := .rw, mask := 0xFFFF, res := .comb }
]

/-- Page 0x0005 of R468. -/
def regRows05 : List RegRow := [
  /- HIST_CAND -/ { base := 0x00050000, acc := .rw, mask := 0xFFFF, rst := .const 0x00000240 },
  /- HIST_FLAGS -/ { base := 0x00050004, acc := .w1c, mask := 0x7F },
  /- ESTOP_ECHO_COUNT -/ { base := 0x00050008, acc := .ro },
  /- ESTOP_EMPTY_COUNT -/ { base := 0x0005000C, acc := .ro },
  /- ESTOP_PA -/ { base := 0x00050100, s1 := 0x8, n1 := 16, acc := .rw, mask := 0xFFFFFF, rst := .const 0x000C0300 },
  /- ESTOP_PB -/ { base := 0x00050104, s1 := 0x8, n1 := 16, acc := .rw, mask := 0xF7FFFFF, rst := .const 0x08020100 },
  /- HIST_CTRL -/ { base := 0x00050400, s1 := 0x20, n1 := 32, acc := .rw, mask := 0xF, rst := .const 0x00000004, res := .comb },
  /- HIST_STATUS -/ { base := 0x00050404, s1 := 0x20, n1 := 32, acc := .ro, res := .comb },
  /- HIST_STALL -/ { base := 0x00050408, s1 := 0x20, n1 := 32, acc := .ro, res := .comb },
  /- HIST_OOH -/ { base := 0x0005040C, s1 := 0x20, n1 := 32, acc := .ro, res := .comb },
  /- HIST_DIAG_SKIP -/ { base := 0x00050410, s1 := 0x20, n1 := 32, acc := .ro, res := .comb },
  /- HIST_RING_WAIT -/ { base := 0x00050414, s1 := 0x20, n1 := 32, acc := .ro, res := .comb }
]

/-- Page 0x0006 of R468. -/
def regRows06 : List RegRow := [
  /- REJ_CTRL -/ { base := 0x00060000, acc := .rw, mask := 0xFF070F, rst := .const 0x0008040F },
  /- REJ_STATUS -/ { base := 0x00060004, acc := .ro },
  /- REJ_FLAGS -/ { base := 0x00060008, acc := .w1c, mask := 0x3F },
  /- DITHER_SALT -/ { base := 0x0006000C, acc := .rw, mask := 0xFFFF },
  /- DITHER_SEED -/ { base := 0x00060010, acc := .ro },
  /- STEER_FAIL_COUNT -/ { base := 0x00060014, acc := .ro },
  /- FE_IGNORED -/ { base := 0x00060018, acc := .ro },
  /- ADP_EN_MASK -/ { base := 0x0006001C, acc := .rw, mask := 0xFFFFFFFF, rst := .combMask },
  /- ADP_RATE -/ { base := 0x00060020, acc := .rw, mask := 0xFFFFFFFF, rst := .const 0x08000200 },
  /- ADP_STEP -/ { base := 0x00060024, acc := .rw, mask := 0x3FFFFFF, rst := .const 0x02000208 },
  /- SUN_CFG -/ { base := 0x00060028, acc := .rw, mask := 0xFFFFFF, rst := .const 0x00402000 },
  /- SUN_RED_MAX -/ { base := 0x0006002C, acc := .rw, mask := 0x3FFF, rst := .const 0x00000400 },
  /- FE_CFG -/ { base := 0x00060030, acc := .rw, mask := 0xFFFFFFF3, rst := .const 0x00C82081 },
  /- FE_PERIOD -/ { base := 0x00060034, acc := .rw, mask := 0xFFFFFFFF, rst := .const 0x27100005 },
  /- FE_CLEAR -/ { base := 0x00060038, acc := .wo, mask := 0x1 },
  /- ADP_THR -/ { base := 0x00060080, s1 := 0x4, n1 := 32, acc := .ro, res := .comb },
  /- WX_CTRL -/ { base := 0x00060100, acc := .rw, mask := 0xFFF7, rst := .const 0x00000F30 },
  /- WX_THR_A -/ { base := 0x00060104, acc := .rw, mask := 0xFFFFFFFF, rst := .const 0x40409A0D },
  /- WX_THR_B -/ { base := 0x00060108, acc := .rw, mask := 0xFFFFFF, rst := .const 0x00200080 },
  /- WX_SPRAY_EL -/ { base := 0x0006010C, acc := .rw, mask := 0xFFFFF, rst := .const 0x000FC000 },
  /- WX_POLICY -/ { base := 0x00060110, acc := .rw, mask := 0xFFF, rst := .const 0x00000E55 },
  /- WX_STATUS -/ { base := 0x00060114, acc := .ro },
  /- WX_STATS -/ { base := 0x00060118, acc := .ro },
  /- WX_CHANGES -/ { base := 0x0006011C, acc := .ro },
  /- SUN_RED -/ { base := 0x00060140, s1 := 0x4, n1 := 8, acc := .ro },
  /- FE_CTX_STATE -/ { base := 0x00060400, s1 := 0x10, n1 := 64, acc := .ro },
  /- FE_CTX_PERIOD -/ { base := 0x00060404, s1 := 0x10, n1 := 64, acc := .ro },
  /- FE_CTX_LAST -/ { base := 0x00060408, s1 := 0x10, n1 := 64, acc := .ro },
  /- FE_CTX_COMBS -/ { base := 0x0006040C, s1 := 0x10, n1 := 64, acc := .ro },
  /- WX_PROFILE -/ { base := 0x00061000, s1 := 0x40, n1 := 64, s2 := 0x4, n2 := 16, acc := .ro }
]

/-- Page 0x0007 of R468. -/
def regRows07 : List RegRow := [
  /- DET_CTRL -/ { base := 0x00070000, acc := .rw, mask := 0xFF0007, rst := .const 0x00100004 },
  /- DET_THR -/ { base := 0x00070004, acc := .rw, mask := 0xFFFFFFF, rst := .const 0x020C1860 },
  /- DET_FLAGS -/ { base := 0x00070008, acc := .w1c, mask := 0xF },
  /- DET_LIB_VERSION -/ { base := 0x0007000C, acc := .ro, rst := .const 0x00010000 },
  /- DET_ECHO_COUNT -/ { base := 0x00070010, acc := .ro },
  /- DET_ECHO_OVER -/ { base := 0x00070014, acc := .ro },
  /- DET_LATENCY -/ { base := 0x00070018, acc := .ro },
  /- TPL_STATUS -/ { base := 0x0007001C, acc := .ro },
  /- SEG_TEMPLATE -/ { base := 0x00070040, s1 := 0x4, n1 := 8, acc := .rw, mask := 0xFFFFFFFF },
  /- DET_RANGE_OFS -/ { base := 0x00070080, s1 := 0x4, n1 := 8, acc := .rw, mask := 0xFFFF },
  /- TRK_CLUSTER -/ { base := 0x00070100, acc := .rw, mask := 0xFFFFF, rst := .const 0x00020432 },
  /- TRK_ASSOC -/ { base := 0x00070104, acc := .rw, mask := 0xFFFFFF, rst := .const 0x000A0330 },
  /- TRK_FILTER -/ { base := 0x00070108, acc := .rw, mask := 0xFFFFFFFF, rst := .const 0x10004000 },
  /- TRK_NEW -/ { base := 0x0007010C, acc := .rw, mask := 0xFFFFFFFF, rst := .const 0x00081804 },
  /- TRK_FLOORS -/ { base := 0x00070110, acc := .rw, mask := 0xFFFFFFFF, rst := .const 0x00640066 },
  /- TRK_CREATED -/ { base := 0x00070120, acc := .ro },
  /- TRK_ENDED -/ { base := 0x00070124, acc := .ro },
  /- TRK_NO_CTX -/ { base := 0x00070128, acc := .ro },
  /- TRK_ABSORBED -/ { base := 0x0007012C, acc := .ro },
  /- TRK_CLU_OVER -/ { base := 0x00070130, acc := .ro },
  /- ZONE_TABLE_STATUS -/ { base := 0x00070200, acc := .ro },
  /- ZONE_FLAGS -/ { base := 0x00070204, acc := .w1c, mask := 0x3 },
  /- ZONE_STATE -/ { base := 0x00070400, s1 := 0x4, n1 := 64, acc := .ro },
  /- HIVE_FREQ_CTRL -/ { base := 0x00070800, s1 := 0x20, n1 := 8, acc := .rw, mask := 0x7F, rst := .const 0x0000005C, res := .hive },
  /- HIVE_STATUS -/ { base := 0x00070804, s1 := 0x20, n1 := 8, acc := .ro, rst := .const 0x00000004, res := .hive },
  /- HIVE_FENCE -/ { base := 0x00070808, s1 := 0x20, n1 := 8, s2 := 0x4, n2 := 4, acc := .ro, res := .hive },
  /- HIVE_DROP -/ { base := 0x00070818, s1 := 0x20, n1 := 8, acc := .ro, res := .hive },
  /- HIVE_RECORDS -/ { base := 0x0007081C, s1 := 0x20, n1 := 8, acc := .ro, res := .hive }
]

/-- Page 0x0008 of R468. -/
def regRows08 : List RegRow := [
  /- FC_CTRL -/ { base := 0x00080000, acc := .rw, mask := 0x37FF03, rst := .const 0x0020F700 },
  /- FC_GRID -/ { base := 0x00080004, acc := .rw, mask := 0x1FF0FFF, rst := .const 0x0020000A },
  /- FC_SEG_LO -/ { base := 0x00080008, acc := .rw, mask := 0xFFFFFFFF, rst := .const 0xFFFFFFFF },
  /- FC_SEG_HI -/ { base := 0x0008000C, acc := .rw, mask := 0xFFFFFFFF, rst := .const 0xFFFFFFFF },
  /- FC_STATUS -/ { base := 0x00080010, acc := .ro },
  /- FC_FLAGS -/ { base := 0x00080014, acc := .w1c, mask := 0x7 },
  /- FC_POLY_COMMIT -/ { base := 0x00080018, acc := .wo, mask := 0x1 },
  /- FC_SAT_COUNT -/ { base := 0x0008001C, acc := .ro },
  /- FC_STAGE_CFG -/ { base := 0x00080040, s1 := 0x20, n1 := 4, acc := .rw, mask := 0x1F7F, rst := .const 0x00000F00 },
  /- FC_STAGE_TAP -/ { base := 0x00080044, s1 := 0x20, n1 := 4, s2 := 0x4, n2 := 4, acc := .rw, mask := 0xFFFFFFFF },
  /- FC_WINDOWS -/ { base := 0x00080100, s1 := 0x10, n1 := 8, acc := .ro, res := .hive },
  /- FC_SKIP -/ { base := 0x00080104, s1 := 0x10, n1 := 8, acc := .ro, res := .hive },
  /- FC_POLY -/ { base := 0x00081000, s1 := 0x4, n1 := 1024, acc := .rw, mask := 0xFFFFFFFF, rst := .poly },
  /- FC_POLY_ACT -/ { base := 0x00082000, s1 := 0x4, n1 := 1024, acc := .ro, rst := .poly }
]

/-- Page 0x0009 of R468. -/
def regRows09 : List RegRow := [
  /- PLAN_CTRL -/ { base := 0x00090000, acc := .rw, mask := 0xFFF07FF, rst := .const 0x04010600 },
  /- PLAN_COL_TIME -/ { base := 0x00090004, acc := .rw, mask := 0xFFFFFFFF, rst := .const 0x3E800320 },
  /- PLAN_EDGE -/ { base := 0x00090008, acc := .rw, mask := 0xFFFFFFFF, rst := .const 0x00001388 },
  /- PLAN_SHOT_RATE -/ { base := 0x0009000C, acc := .rw, mask := 0xFF, rst := .const 0x00000010 },
  /- PLAN_AZ_FIRST -/ { base := 0x00090010, acc := .rw, mask := 0xFFFFF },
  /- PLAN_AZ_STEP -/ { base := 0x00090014, acc := .rw, mask := 0xFFFF, rst := .const 0x00000080 },
  /- SEG_DISABLE_LO -/ { base := 0x00090018, acc := .rw, mask := 0xFFFFFFFF },
  /- SEG_DISABLE_HI -/ { base := 0x0009001C, acc := .rw, mask := 0xFFFFFFFF },
  /- SCT_STATUS -/ { base := 0x00090020, acc := .ro },
  /- SCT_ACTIVE_COUNT -/ { base := 0x00090024, acc := .ro },
  /- SCT_REJECT_INDEX -/ { base := 0x00090028, acc := .ro },
  /- TRACK_COUNT -/ { base := 0x00090030, acc := .ro },
  /- PLAN_TRACK_POLICY -/ { base := 0x00090034, acc := .rw, mask := 0xFFFFFF, rst := .const 0x000C2012 },
  /- PLAN_FRAME_NUMBER -/ { base := 0x00090040, acc := .ro },
  /- PLAN_THROTTLE -/ { base := 0x00090044, acc := .ro, rst := .const 0x00000100 },
  /- FRAME_CUT_COUNT -/ { base := 0x00090048, acc := .ro },
  /- PLAN_SHORT_COUNT -/ { base := 0x0009004C, acc := .ro },
  /- PLAN_FLAGS -/ { base := 0x00090050, acc := .w1c, mask := 0xF },
  /- PLACE_MAP -/ { base := 0x00090080, s1 := 0x4, n1 := 4, acc := .ro, rst := .placeMap, res := .placeMap },
  /- PLACE_SPILL -/ { base := 0x00090090, acc := .ro },
  /- PLACE_MOVES -/ { base := 0x00090094, acc := .ro },
  /- HIVE_LOAD_LO -/ { base := 0x00090098, acc := .ro },
  /- HIVE_LOAD_HI -/ { base := 0x0009009C, acc := .ro, res := .hiveHi },
  /- SEG_MAP_A -/ { base := 0x00090200, s1 := 0x8, n1 := 64, acc := .rw, mask := 0xFFFF01FF, rst := .segMapA },
  /- SEG_MAP_B -/ { base := 0x00090204, s1 := 0x8, n1 := 64, acc := .rw, mask := 0xFFFFF, rst := .segMapB }
]

/-- Page 0x000A of R468. -/
def regRows0A : List RegRow := [
  /- ARB_CTRL -/ { base := 0x000A0000, acc := .rw, mask := 0xFF, rst := .const 0x00000008 },
  /- ARB_SLOT_STATUS -/ { base := 0x000A0004, acc := .ro },
  /- ARB_SLOT_COMMIT -/ { base := 0x000A0008, acc := .wo, mask := 0x1 },
  /- ARB_SLOT_NEXT -/ { base := 0x000A000C, acc := .wo, mask := 0x1FFFF },
  /- ARB_GRANTS -/ { base := 0x000A0010, acc := .ro },
  /- ARB_FAIR_GRANTS -/ { base := 0x000A0014, acc := .ro },
  /- ARB_FAIR_COUNT -/ { base := 0x000A0018, acc := .ro },
  /- ARB_OUT_SERVED -/ { base := 0x000A0020, acc := .ro },
  /- ARB_OUT_DEFERRED -/ { base := 0x000A0024, acc := .ro },
  /- ARB_OUT_REFUSED -/ { base := 0x000A0028, acc := .ro },
  /- ARB_OUT_PREEMPTED -/ { base := 0x000A002C, acc := .ro },
  /- ARB_OUT_CUT_OFF -/ { base := 0x000A0030, acc := .ro },
  /- ARB_PORT -/ { base := 0x000A0040, s1 := 0x4, n1 := 4, acc := .rw, mask := 0xFFFF07, rst := .const 0x00104004, res := .port },
  /- ARB_STREAM -/ { base := 0x000A0080, s1 := 0x4, n1 := 24, acc := .ro, res := .stream },
  /- ARB_SLOT -/ { base := 0x000A0400, s1 := 0x4, n1 := 256, acc := .rw, mask := 0x1FF, rst := .const 0x00000080 },
  /- ARB_SLOT_ACT -/ { base := 0x000A0800, s1 := 0x4, n1 := 256, acc := .ro, rst := .const 0x00000080 }
]

/-- Page 0x000B of R468. -/
def regRows0B : List RegRow := [
  /- EMIT_CTRL -/ { base := 0x000B0000, acc := .rw, mask := 0xF3FF, rst := .const 0x00008050 },
  /- EMIT_STATUS -/ { base := 0x000B0004, acc := .ro },
  /- EMIT_LSD_CAUSE -/ { base := 0x000B0008, acc := .w1c, mask := 0x3F },
  /- EMIT_LSD_COUNT -/ { base := 0x000B000C, acc := .ro },
  /- FIRE_TRIM -/ { base := 0x000B0010, s1 := 0x4, n1 := 8, acc := .rw, mask := 0x3FF },
  /- EMIT_TILE_LIMITS -/ { base := 0x000B0030, acc := .rw, mask := 0xFFFFFFFF, rst := .const 0x01F40410 },
  /- EMIT_WL_CTRL -/ { base := 0x000B0034, acc := .rw, mask := 0xFFFFFFFF, rst := .const 0x66660000 },
  /- EMIT_WL_STATE -/ { base := 0x000B0038, acc := .ro },
  /- PAT_COMMIT -/ { base := 0x000B003C, acc := .wo, mask := 0x1 },
  /- WL_DISC -/ { base := 0x000B0040, s1 := 0x4, n1 := 8, acc := .ro },
  /- TILE_MISS -/ { base := 0x000B0060, s1 := 0x4, n1 := 8, acc := .ro },
  /- DRIP_RET_ERR -/ { base := 0x000B0080, acc := .ro },
  /- DRIP_PAR_ERR -/ { base := 0x000B0084, acc := .ro },
  /- ACCT_REFUSED -/ { base := 0x000B0088, acc := .ro },
  /- ACCT_FLAGS -/ { base := 0x000B008C, acc := .w1c, mask := 0xFF },
  /- ACCT_CFG -/ { base := 0x000B0100, acc := .ro, rst := .const 0x00110A04 },
  /- ACCT_ZONE_MAP -/ { base := 0x000B0104, acc := .ro, rst := .const 0x00FAC688 },
  /- NORM_MAX -/ { base := 0x000B0140, s1 := 0x4, n1 := 8, acc := .ro },
  /- ACCT_LIM -/ { base := 0x000B0180, s1 := 0xC, n1 := 8, s2 := 0x4, n2 := 3, acc := .ro },
  /- ACCT_SUM -/ { base := 0x000B0200, s1 := 0xC, n1 := 8, s2 := 0x4, n2 := 3, acc := .ro },
  /- PAT -/ { base := 0x000B0400, s1 := 0x4, n1 := 64, acc := .rw, mask := 0xFF3F },
  /- PAT_ACT -/ { base := 0x000B0500, s1 := 0x4, n1 := 64, acc := .ro }
]

/-- Page 0x000C of R468. -/
def regRows0C : List RegRow := [
  /- WAG_CTRL -/ { base := 0x000C0000, acc := .rw, mask := 0x1FF0F, rst := .const 0x00001003 },
  /- WAG_STATUS -/ { base := 0x000C0004, acc := .ro },
  /- WAG_COMMIT -/ { base := 0x000C0008, acc := .wo, mask := 0x1 },
  /- WAG_LOAD -/ { base := 0x000C000C, acc := .ro },
  /- WAG_OVR_FLAGS -/ { base := 0x000C0010, acc := .w1c, mask := 0xFFFFF },
  /- WAG_SAT_FLAGS -/ { base := 0x000C0014, acc := .w1c, mask := 0xFFFFF },
  /- WAG_PROF_FLAGS -/ { base := 0x000C0018, acc := .w1c, mask := 0x7F },
  /- WL_KP -/ { base := 0x000C0040, acc := .rw, mask := 0xFFFFF, rst := .const 0x00000500 },
  /- WL_KI -/ { base := 0x000C0044, acc := .rw, mask := 0xFFFFF, rst := .const 0x00000080 },
  /- HEAT_KP -/ { base := 0x000C0048, acc := .rw, mask := 0xFFFFF, rst := .const 0x00026400 },
  /- HEAT_KI -/ { base := 0x000C004C, acc := .rw, mask := 0xFFFFF, rst := .const 0x00000400 },
  /- HEAT_TSET_LIM -/ { base := 0x000C0050, acc := .rw, mask := 0xFFFFFFFF, rst := .const 0x17C00A00 },
  /- WAG_OVR_COUNT -/ { base := 0x000C0080, s1 := 0x4, n1 := 20, acc := .ro },
  /- WAG_SAT_COUNT -/ { base := 0x000C0100, s1 := 0x4, n1 := 20, acc := .ro },
  /- AX_MODE -/ { base := 0x000C0200, s1 := 0x80, n1 := 2, acc := .rw, mask := 0x3 },
  /- AX_MAN_VALUE -/ { base := 0x000C0204, s1 := 0x80, n1 := 2, acc := .rw, mask := 0xFFFF },
  /- AX_PKP -/ { base := 0x000C0208, s1 := 0x80, n1 := 2, acc := .rw, mask := 0xFFFFF, rst := .const 0x00046000 },
  /- AX_PKI -/ { base := 0x000C020C, s1 := 0x80, n1 := 2, acc := .rw, mask := 0xFFFFF, rst := .const 0x00000800 },
  /- AX_PKD -/ { base := 0x000C0210, s1 := 0x80, n1 := 2, acc := .rw, mask := 0xFFFFF, rst := .const 0x00035000 },
  /- AX_PKFV -/ { base := 0x000C0214, s1 := 0x80, n1 := 2, acc := .rw, mask := 0xFFFFF, rst := .const 0x00024000 },
  /- AX_PKFA -/ { base := 0x000C0218, s1 := 0x80, n1 := 2, acc := .rw, mask := 0xFFFFF, rst := .const 0x00034000 },
  /- AX_DFILT -/ { base := 0x000C021C, s1 := 0x80, n1 := 2, acc := .rw, mask := 0xFFFF, rst := .const 0x00004000 },
  /- AX_OUT_LIM -/ { base := 0x000C0220, s1 := 0x80, n1 := 2, acc := .rw, mask := 0xFFFFFFFF, rst := .const 0x78007000 },
  /- AX_CKP -/ { base := 0x000C0224, s1 := 0x80, n1 := 2, acc := .rw, mask := 0xFFFFF, rst := .const 0x00016000 },
  /- AX_CKI -/ { base := 0x000C0228, s1 := 0x80, n1 := 2, acc := .rw, mask := 0xFFFFF, rst := .const 0x00001000 },
  /- AX_NOTCH0 -/ { base := 0x000C022C, s1 := 0x80, n1 := 2, acc := .rw, mask := 0xFFFFFFFF, rst := .const 0x00004000 },
  /- AX_NOTCH1 -/ { base := 0x000C0230, s1 := 0x80, n1 := 2, acc := .rw, mask := 0xFFFFFFFF },
  /- AX_NOTCH2 -/ { base := 0x000C0234, s1 := 0x80, n1 := 2, acc := .rw, mask := 0xFFFF },
  /- AX_DYN_VA -/ { base := 0x000C0238, s1 := 0x80, n1 := 2, acc := .rw, mask := 0xFFFFFFFF, rst := .axis 0x27101F40 0x13880FA0 },
  /- AX_DYN_J -/ { base := 0x000C023C, s1 := 0x80, n1 := 2, acc := .rw, mask := 0xFFFF, rst := .const 0x00002710 },
  /- AX_PARK -/ { base := 0x000C0240, s1 := 0x80, n1 := 2, acc := .rw, mask := 0xFFFFF },
  /- AX_PARK_LIM -/ { base := 0x000C0244, s1 := 0x80, n1 := 2, acc := .rw, mask := 0xFFFFFFFF, rst := .const 0x03E801F4 },
  /- AX_TOL -/ { base := 0x000C0248, s1 := 0x80, n1 := 2, acc := .rw, mask := 0xFFFFFFFF, rst := .const 0x00800010 },
  /- AX_ANG_OFS -/ { base := 0x000C024C, s1 := 0x80, n1 := 2, acc := .rw, mask := 0xFFFFF },
  /- AX_ANG_GAIN -/ { base := 0x000C0250, s1 := 0x80, n1 := 2, acc := .rw, mask := 0xFFFFFFFF, rst := .axis 0x0000C000 0x00004000 },
  /- AX_POS_MEAS -/ { base := 0x000C0254, s1 := 0x80, n1 := 2, acc := .ro },
  /- AX_POS_REF -/ { base := 0x000C0258, s1 := 0x80, n1 := 2, acc := .ro },
  /- AX_VEL_EST -/ { base := 0x000C025C, s1 := 0x80, n1 := 2, acc := .ro },
  /- AX_CUR -/ { base := 0x000C0260, s1 := 0x80, n1 := 2, acc := .ro },
  /- AX_DRIVE -/ { base := 0x000C0264, s1 := 0x80, n1 := 2, acc := .ro },
  /- AX_ERR_PEAK -/ { base := 0x000C0268, s1 := 0x80, n1 := 2, acc := .ro },
  /- HEAT_CTRL -/ { base := 0x000C0400, s1 := 0x10, n1 := 8, acc := .rw, mask := 0xFFFFFF1F, rst := .const 0x000C0000 },
  /- HEAT_PRESET -/ { base := 0x000C0404, s1 := 0x10, n1 := 8, acc := .rw, mask := 0xFFFF, rst := .const 0x00000F00 },
  /- HEAT_STATUS -/ { base := 0x000C0408, s1 := 0x10, n1 := 8, acc := .ro },
  /- HEAT_SET -/ { base := 0x000C040C, s1 := 0x10, n1 := 8, acc := .ro }
]

/-- Page 0x000D of R468. -/
def regRows0D : List RegRow := [
  /- CAP_CTRL -/ { base := 0x000D0000, acc := .rw, mask := 0x7 },
  /- CAP_SIZE -/ { base := 0x000D0004, acc := .rw, mask := 0xFFFFFFF, rst := .const 0x03040040 },
  /- CAP_TRIG_MASK -/ { base := 0x000D0008, acc := .rw, mask := 0xF, rst := .const 0x00000001 },
  /- CAP_COMBS -/ { base := 0x000D000C, acc := .rw, mask := 0xFFFFFFFF },
  /- CAP_STATUS -/ { base := 0x000D0010, acc := .ro },
  /- CAP_FLAGS -/ { base := 0x000D0014, acc := .w1c, mask := 0x1F },
  /- CAP_COUNT -/ { base := 0x000D0018, acc := .ro },
  /- CAP_MISSED -/ { base := 0x000D001C, acc := .ro },
  /- CAP_DEAD_LAST -/ { base := 0x000D0020, acc := .ro },
  /- CAP_DEAD_MAX -/ { base := 0x000D0024, acc := .ro },
  /- CAP_GAPS -/ { base := 0x000D0028, acc := .ro },
  /- CAP_GAP_ITEMS -/ { base := 0x000D002C, acc := .ro }
]

/-- Page 0x000E of R468. -/
def regRows0E : List RegRow := [
  /- AUX_FLAGS -/ { base := 0x000E0000, acc := .w1c, mask := 0x3F },
  /- AUX_SUP_FLAGS -/ { base := 0x000E0004, acc := .w1c, mask := 0x1FF },
  /- AUX_SCAN_COUNT -/ { base := 0x000E000C, acc := .ro },
  /- MA_CFG -/ { base := 0x000E0040, s1 := 0x20, n1 := 3, acc := .rw, mask := 0xF73F, rst := .const 0x00000030 },
  /- MA_DEC -/ { base := 0x000E0044, s1 := 0x20, n1 := 3, acc := .rw, mask := 0x1FFFFF, rst := .const 0x0003E800 },
  /- MA_SEQ -/ { base := 0x000E0048, s1 := 0x20, n1 := 3, s2 := 0x4, n2 := 4, acc := .rw, mask := 0x7F7F7F7F },
  /- SAR_SHOT_COUNT -/ { base := 0x000E0100, acc := .ro },
  /- SAR_CTRL_COUNT -/ { base := 0x000E0104, acc := .ro },
  /- SAR_DEFER_COUNT -/ { base := 0x000E0108, acc := .ro },
  /- SAR_SHARE_COUNT -/ { base := 0x000E010C, acc := .ro },
  /- SAR_LATE_COUNT -/ { base := 0x000E0110, acc := .ro },
  /- SAR_LAST_ANG -/ { base := 0x000E0114, acc := .ro },
  /- SAR_LAST_MON -/ { base := 0x000E0118, acc := .ro },
  /- AUX_RES -/ { base := 0x000E0200, s1 := 0x4, n1 := 24, acc := .ro, rst := .const 0x03000000 },
  /- AUX_INT -/ { base := 0x000E0300, s1 := 0x4, n1 := 36, acc := .ro, rst := .const 0x00030000 },
  /- RTD_CTRL -/ { base := 0x000E0400, acc := .rw, mask := 0x3FFFFF, rst := .const 0x00300C80 },
  /- RTD_CFG -/ { base := 0x000E0410, s1 := 0x10, n1 := 8, acc := .rw, mask := 0xFFF77 },
  /- RTD_RES -/ { base := 0x000E0414, s1 := 0x10, n1 := 8, acc := .ro },
  /- RTD_TEMP -/ { base := 0x000E0418, s1 := 0x10, n1 := 8, acc := .ro, rst := .const 0x00042580 },
  /- RTD_BREAKS -/ { base := 0x000E041C, s1 := 0x10, n1 := 8, acc := .ro }
]

/-- Page 0x000F of R468. -/
def regRows0F : List RegRow := [
  /- LINK_CTRL -/ { base := 0x000F0000, acc := .rw, mask := 0xFFFF00F3, rst := .const 0x00640000 },
  /- LINK_STATUS -/ { base := 0x000F0004, acc := .ro, rst := .linkStatus },
  /- LINK_FLAGS -/ { base := 0x000F0008, acc := .w1c, mask := 0x7F },
  /- LANE_CFG -/ { base := 0x000F0100, s1 := 0x40, n1 := 4, acc := .rw, mask := 0xF7FFFF07, rst := .const 0x80304005, res := .lane },
  /- LANE_PWR -/ { base := 0x000F0104, s1 := 0x40, n1 := 4, acc := .rw, mask := 0xFF03, rst := .const 0x00002000, res := .lane },
  /- LANE_STATUS -/ { base := 0x000F0108, s1 := 0x40, n1 := 4, acc := .ro, res := .lane },
  /- LANE_EQ -/ { base := 0x000F010C, s1 := 0x40, n1 := 4, acc := .ro, res := .lane },
  /- LANE_CRC_ERR -/ { base := 0x000F0110, s1 := 0x40, n1 := 4, acc := .ro, res := .lane },
  /- LANE_FRAME_ERR -/ { base := 0x000F0114, s1 := 0x40, n1 := 4, acc := .ro, res := .lane },
  /- LANE_REPLAY -/ { base := 0x000F0118, s1 := 0x40, n1 := 4, acc := .ro, res := .lane },
  /- LANE_RETRAIN -/ { base := 0x000F011C, s1 := 0x40, n1 := 4, acc := .ro, res := .lane },
  /- LANE_NAK_TX -/ { base := 0x000F0120, s1 := 0x40, n1 := 4, acc := .ro, res := .lane },
  /- LANE_SEQ_RESET -/ { base := 0x000F0124, s1 := 0x40, n1 := 4, acc := .ro, res := .lane }
]

/-- Page 0x0010 of R468. -/
def regRows10 : List RegRow := [
  /- PORT_ROLE_CFG -/ { base := 0x00100000, acc := .ro },
  /- PORT_ROLES -/ { base := 0x00100004, acc := .ro, rst := .portRoles },
  /- OWNER_INFO -/ { base := 0x00100008, acc := .ro },
  /- CMD_FLAGS -/ { base := 0x0010000C, acc := .w1c, mask := 0x1F },
  /- LP_CRC_ERR -/ { base := 0x00100010, acc := .ro },
  /- PORT_CMD_COUNT -/ { base := 0x00100040, s1 := 0x10, n1 := 5, acc := .ro, res := .port },
  /- PORT_CMD_ERR -/ { base := 0x00100044, s1 := 0x10, n1 := 5, acc := .ro, res := .port },
  /- PORT_EVT_DROP -/ { base := 0x00100048, s1 := 0x10, n1 := 5, acc := .ro, res := .port },
  /- PORT_QUEUE -/ { base := 0x0010004C, s1 := 0x10, n1 := 5, acc := .ro, res := .port },
  /- PORT_EVT_MASK -/ { base := 0x00100100, s1 := 0x4, n1 := 5, acc := .ro, rst := .const 0xFFFFFFFF, res := .port }
]

/-- Page 0x0011 of R468. -/
def regRows11 : List RegRow := [
  /- STREAM_CTRL -/ { base := 0x00110000, acc := .rw, mask := 0xFFFFFF0F, rst := .const 0x00400802 },
  /- STREAM_FLAGS -/ { base := 0x00110004, acc := .w1c, mask := 0x1F },
  /- STREAM_LOST_RECORDS -/ { base := 0x00110008, acc := .ro },
  /- STREAM_LOST_BYTES -/ { base := 0x0011000C, acc := .ro },
  /- DMA_HALTED_LO -/ { base := 0x00110010, acc := .ro },
  /- DMA_HALTED_HI -/ { base := 0x00110014, acc := .ro },
  /- PORT_SEQ_LOSS -/ { base := 0x00110040, s1 := 0x4, n1 := 4, acc := .ro, res := .port },
  /- DMA_STATUS -/ { base := 0x00110400, s1 := 0x10, n1 := 64, acc := .ro, res := .dma },
  /- DMA_CUR -/ { base := 0x00110404, s1 := 0x10, n1 := 64, acc := .ro, res := .dma },
  /- DMA_DONE -/ { base := 0x00110408, s1 := 0x10, n1 := 64, acc := .ro, res := .dma },
  /- DMA_APPEND -/ { base := 0x0011040C, s1 := 0x10, n1 := 64, acc := .wo, mask := 0xFFFFFFFF, res := .dma }
]

/-- Page 0x0012 of R468. -/
def regRows12 : List RegRow := [
  /- RED_CTRL -/ { base := 0x00120000, acc := .rw, mask := 0xFFFFFFFF, rst := .const 0x00644205 },
  /- PLAN_PAIR_STATUS -/ { base := 0x00120004, acc := .ro },
  /- GATE_CLAIM -/ { base := 0x00120008, acc := .ro },
  /- CLAIM_AB -/ { base := 0x0012000C, acc := .ro },
  /- FAILOVER_COUNT -/ { base := 0x00120010, acc := .ro },
  /- FAILOVER_LAST -/ { base := 0x00120014, acc := .ro },
  /- CKPT_STATUS -/ { base := 0x00120018, acc := .ro },
  /- PLAN_TEST_A -/ { base := 0x0012001C, acc := .ro },
  /- PLAN_TEST_B -/ { base := 0x00120020, acc := .ro },
  /- RED_FLAGS -/ { base := 0x00120024, acc := .w1c, mask := 0x3F },
  /- RED_CMD -/ { base := 0x00120028, acc := .wo, mask := 0x7 },
  /- HEALTH_SUMMARY -/ { base := 0x00120030, acc := .ro },
  /- PAIR_CTRL -/ { base := 0x00120040, s1 := 0x10, n1 := 2, acc := .rw, mask := 0xFF01, rst := .const 0x00000A01, res := .pair },
  /- PAIR_STATUS -/ { base := 0x00120044, s1 := 0x10, n1 := 2, acc := .ro, res := .pair },
  /- PAIR_SWITCHES -/ { base := 0x00120048, s1 := 0x10, n1 := 2, acc := .ro, res := .pair },
  /- SSN_STATUS -/ { base := 0x00120080, acc := .ro, rst := .const 0x00000007 },
  /- ECC -/ { base := 0x001200C0, s1 := 0x4, n1 := 6, acc := .ro }
]

/-- Page 0x0013 of R468. -/
def regRows13 : List RegRow := [
  /- THERM_STATUS -/ { base := 0x00130000, acc := .ro },
  /- THERM_FLAGS -/ { base := 0x00130004, acc := .w1c, mask := 0x1F },
  /- THERM_BROKEN -/ { base := 0x00130008, acc := .ro },
  /- THERM_PEAK -/ { base := 0x0013000C, acc := .ro, rst := .const 0x00008000 },
  /- THERM_STOP_COUNT -/ { base := 0x00130010, acc := .ro },
  /- THERM_RTD -/ { base := 0x00130040, s1 := 0x4, n1 := 8, acc := .rw, mask := 0xFFFF0001 },
  /- CAL_CTRL -/ { base := 0x00130100, acc := .rw, mask := 0xFF07FFFF, rst := .const 0x1E030F14 },
  /- CAL_STATUS -/ { base := 0x00130104, acc := .ro },
  /- CAL_FLAGS -/ { base := 0x00130108, acc := .w1c, mask := 0xF },
  /- CAL_COUNT -/ { base := 0x0013010C, acc := .ro },
  /- CAL_COMB_TIME_LO -/ { base := 0x00130110, acc := .ro },
  /- CAL_COMB_TIME_HI -/ { base := 0x00130114, acc := .ro },
  /- CAL_FULL_TIME_LO -/ { base := 0x00130118, acc := .ro },
  /- CAL_FULL_TIME_HI -/ { base := 0x0013011C, acc := .ro },
  /- CAL_Q_SKEW -/ { base := 0x00130120, acc := .ro, res := .calQ },
  /- CAL_Q_INL -/ { base := 0x00130124, acc := .ro, res := .calQ },
  /- CAL_Q_BIAS -/ { base := 0x00130128, acc := .ro, res := .calQ },
  /- CAL_COMB -/ { base := 0x00130200, s1 := 0x4, n1 := 32, acc := .ro, res := .comb }
]

/-- Page 0x0014 of R468. -/
def regRows14 : List RegRow := [
  /- BOOT_STATUS -/ { base := 0x00140000, acc := .ro },
  /- BOOT_FLAGS -/ { base := 0x00140004, acc := .w1c, mask := 0x1F },
  /- BOOT_COUNT -/ { base := 0x00140008, acc := .ro },
  /- BOOT_TIME -/ { base := 0x0014000C, acc := .ro },
  /- BOOT_CFG_SKIPPED -/ { base := 0x00140010, acc := .ro },
  /- IDENT_LOT -/ { base := 0x00140020, acc := .ro, rst := .ident 0 },
  /- IDENT_DIE -/ { base := 0x00140024, acc := .ro, rst := .ident 1 },
  /- IDENT_PART -/ { base := 0x00140028, acc := .ro, rst := .ident 2 },
  /- FW_BUILD -/ { base := 0x00140030, acc := .ro },
  /- CFG_ID -/ { base := 0x00140034, acc := .ro },
  /- SVN_STATUS -/ { base := 0x00140038, acc := .ro },
  /- UPDATE_STATUS -/ { base := 0x0014003C, acc := .ro }
]

/-- Page 0x0015 of R468. -/
def regRows15 : List RegRow := [
  /- REC_STATUS -/ { base := 0x00150000, acc := .ro },
  /- REC_FLAGS -/ { base := 0x00150004, acc := .w1c, mask := 0x1F },
  /- REC_NEXT_SEQ -/ { base := 0x00150008, acc := .ro },
  /- REC_FLUSHED_SEQ -/ { base := 0x0015000C, acc := .ro },
  /- REC_DROPPED -/ { base := 0x00150010, acc := .ro },
  /- REC_FLUSH_COUNT -/ { base := 0x00150014, acc := .ro },
  /- REC_LAST_FLUSH -/ { base := 0x00150018, acc := .ro }
]

/-- The rows of one page; a page that is not listed holds no register (R468). -/
def regRows (page : Nat) : List RegRow :=
  match page with
  | 0x01 => regRows01
  | 0x02 => regRows02
  | 0x03 => regRows03
  | 0x04 => regRows04
  | 0x05 => regRows05
  | 0x06 => regRows06
  | 0x07 => regRows07
  | 0x08 => regRows08
  | 0x09 => regRows09
  | 0x0A => regRows0A
  | 0x0B => regRows0B
  | 0x0C => regRows0C
  | 0x0D => regRows0D
  | 0x0E => regRows0E
  | 0x0F => regRows0F
  | 0x10 => regRows10
  | 0x11 => regRows11
  | 0x12 => regRows12
  | 0x13 => regRows13
  | 0x14 => regRows14
  | 0x15 => regRows15
  | _ => []

/-- A register found in the map: its row and its two indices. -/
structure RegHit where
  row : RegRow
  i : Nat
  j : Nat
deriving DecidableEq, Repr

/-- Where address `a` falls in row `r`, if it does. -/
def RegRow.hit (r : RegRow) (a : Nat) : Option RegHit :=
  if a < r.base then none
  else
    let d := a - r.base
    if r.n2 = 1 then
      if d % r.s1 = 0 ∧ d / r.s1 < r.n1 then some ⟨r, d / r.s1, 0⟩ else none
    else
      let i := d / r.s1
      let e := d % r.s1
      if i < r.n1 ∧ e % r.s2 = 0 ∧ e / r.s2 < r.n2 then some ⟨r, i, e / r.s2⟩ else none

/-- The first row of a list that holds address `a`. -/
def findHit (a : Nat) : List RegRow → Option RegHit
  | [] => none
  | r :: rs =>
    match r.hit a with
    | some h => some h
    | none => findHit a rs

/-- The register at a parameter address, if the map holds one there (R468). -/
def regAt (a : Nat) : Option RegHit :=
  if a % 4 = 0 then findHit a (regRows (a / 0x10000)) else none

/-- R6: whether the register belongs to a resource that the variant enables. -/
def RegHit.present (v : Variant) (h : RegHit) : Bool :=
  match h.row.res with
  | .common => true
  | .comb => decide (h.i < v.combs)
  | .chan => decide (h.i < v.channels)
  | .hive => decide (h.i < v.hives)
  | .lane => decide (h.i < v.lanes)
  | .port => decide (h.i < v.lanes ∨ h.i = 4)
  | .stream => decide (h.i / 6 < v.lanes)
  | .dma => v.dmaPresent h.i
  | .pair => decide (2 * h.i < v.lanes)
  | .placeMap => decide (8 * h.i < v.combs)
  | .hiveHi => decide (4 < v.hives)
  | .calQ => decide (v = .nl5_512)

/-- The cubic weights of R263 for phase `phi`, taps 2 to 5, times 2 × 256³, as integers. -/
def cubicWeight (phi tap : Nat) : Int :=
  let f : Int := phi
  let n : Int := 256
  match tap with
  | 2 => -(f * f * f) + 2 * f * f * n - f * n * n
  | 3 => 3 * f * f * f - 5 * f * f * n + 2 * n * n * n
  | 4 => -(3 * f * f * f) + 4 * f * f * n + f * n * n
  | 5 => f * f * f - f * f * n
  | _ => 0

/-- R263: tap `tap` of phase `phi` of the cubic bank, signed Q14, rounded under R10. -/
def cubicTap (phi tap : Nat) : Int :=
  divRound (16384 * cubicWeight phi tap) (2 * 256 * 256 * 256)

/-- The register `FC_POLY_r` of the cubic bank: taps 2q and 2q + 1 of phase φ, with r = 4φ + q (R270). -/
def cubicReg (r : Nat) : Nat :=
  let phi := r / 4
  let q := r % 4
  wrapNat 16 (cubicTap phi (2 * q)) + 65536 * wrapNat 16 (cubicTap phi (2 * q + 1))

/-- Eight 4-bit fields, field k given by `f k`. -/
def nibbles (f : Nat → Nat) : Nat :=
  f 0 + 16 * f 1 + 256 * f 2 + 4096 * f 3 + 65536 * f 4 + 0x100000 * f 5 + 0x1000000 * f 6 + 0x10000000 * f 7

/-- The reset value of a register found in the map (R472). -/
def RegHit.reset (v : Variant) (h : RegHit) : Nat :=
  match h.row.rst with
  | .const n => n
  | .axis x y => if h.i = 0 then x else y
  | .zoneMap => nibbles fun k => if 8 * h.i + k < v.combs then (8 * h.i + k) / 4 else 0
  | .placeMap => nibbles fun k => if 8 * h.i + k < v.combs then (8 * h.i + k) / 4 else 0xF
  | .segMapA => 0x40000000 + v.chanPerSeg * 0x10000 + v.chanPerSeg * h.i
  | .segMapB => wrapNat 20 (1024 * (h.i : Int) - 32256)
  | .poly => cubicReg h.i
  | .combMask => 2 ^ v.combs - 1
  | .linkStatus => if v = .nl5_128 then 0x00000C00 else 0
  | .portRoles => if v = .nl5_128 then 0x0003FF00 else 0x00030000
  | .ident k => identReset v k

/-- The value an address of the parameter space holds on leaving RESET; an address that holds no register, or a register
that is not present, stands at 0. -/
def regReset (v : Variant) (a : Nat) : Word :=
  match regAt a with
  | some h => if h.present v then BitVec.ofNat 32 (h.reset v) else 0
  | none => 0

end Sys2Proof.Machine
end

