-- ==== Sys2Proof/Machine/State.lean ====
section
/-!
DEFINITION. Machine/State.lean: the state of the NL5 as plain data, its value right after reset, and the reasons a step
can stop. Registers of the parameter space are one sparse table by address; every other piece of state has its own
field, in one structure per chapter of the spec.
-/

namespace Sys2Proof.Machine

/-- The operating states of R26. -/
inductive DevState where
  | reset | boot | standby | armed | sensing | degraded | calibrating | safe | thermalStop | faultHalt
deriving DecidableEq, Repr

/-! ## Ports and commands (chapter 15) -/

/-- A packet waiting to leave the NL5 on a port (R329): a reply or an event; `port` is its `PORT` field. -/
structure OutPkt where
  port : Nat
  opcode : Nat
  tag : Nat := 0
  isEvent : Bool
  mandatory : Bool := true
  status : Nat := 0
  params : List Byte
  seq : Nat
  timeUs : Nat
deriving DecidableEq, Repr

/-- A mandatory event that the supervisor holds until a place is free (R350). -/
structure HeldEvt where
  code : Nat
  tag : Nat
  status : Nat
  params : List Byte
deriving DecidableEq, Repr

/-- A reply kept for R337. -/
structure KeptReply where
  tag : Nat
  opcode : Nat
  status : Nat
  params : List Byte
  port : Nat
deriving DecidableEq, Repr

/-- A command waiting at a port (R334); `lenOk` is the length rule of R331, `rx` the device time of its
arrival, `aborted` that FAULT_HALT was entered while it waited (R356). -/
structure QCmd where
  opcode : Nat
  lenOk : Bool
  cmd : Cmd
  rx : Nat := 0
  aborted : Bool := false
deriving DecidableEq, Repr

/-- One port, p = 0 to 3 for HP0 to HP3 and 4 for LP. -/
structure PortSt where
  queue : List QCmd := []
  kept : List KeptReply := []
  out : List OutPkt := []
  held : List HeldEvt := []
  nextSeq : Nat := 0
  lost : Nat := 0
  firstLost : Nat := 0
deriving DecidableEq, Repr

/-- An accepted state-changing command whose transition is still to come (R29, R336): the cause code of a `FORCE_SAFE`,
whether its transition has begun, and whether it waits for the frame boundary only. -/
structure PendCmd where
  opcode : Nat
  port : Nat
  tag : Nat
  code : Nat := 0
  started : Bool := false
  ready : Bool := false
deriving DecidableEq, Repr

/-- A running command that reports through `COMMAND_DONE` (R336). -/
structure DoneCmd where
  opcode : Nat
  port : Nat
  tag : Nat
deriving DecidableEq, Repr

/-- The supervisor: operating state (R26), accepted commands (R29), running commands (R336), the lane port served last
(R335), the expiry of `RESET_DEVICE` (R356), the LP transaction bit of R354, what LP shifted out in its last transaction and whether that took
a whole packet, the retrains and the `DISABLE`s that wait for their reply (lane, port, tag; R320, R326), the once-per-frame mark of R35,
when STANDBY was entered, and the losses already acted on, one bit per comb, tile, lane and planner. -/
structure Sys where
  dev : DevState := .boot
  prev : DevState := .reset
  cause : Nat := 1
  cmds : List PendCmd := []
  running : List DoneCmd := []
  lastLane : Nat := 3
  resetAt : Option Nat := none
  lpCrcErr : Bool := false
  lpOut : List Byte := []
  lpTaken : Bool := false
  retrainOwed : List (Nat × Nat × Nat) := []
  disableOwed : List (Nat × Nat × Nat) := []
  loopLateRaised : Bool := false
  standbyAt : Option Nat := none
  losses : Nat := 0
  hardStop : Bool := false
deriving DecidableEq, Repr

/-! ## Recorder (chapter 20) -/

/-- A posted entry waiting in the recorder's queue (R454). -/
structure RecPost where
  code : Nat
  arg : Nat
  timeUs : Nat
deriving DecidableEq, Repr

/-- A ring or slot entry (R453); `ok` says that its check word holds. -/
structure RecEntry where
  seq : Nat
  timeUs : Nat
  code : Nat
  state : Nat
  bootTag : Nat
  arg : Nat
  ok : Bool := true
deriving DecidableEq, Repr

/-- The header of a flash slot (R459). -/
structure RecHeader where
  flushSeq : Nat
  first : Nat
  last : Nat
  trigger : Nat
  state : Nat
  time : Nat
  missing : Nat
deriving DecidableEq, Repr

/-- A recorder slot in flash: erased, or programmed with entries by unit, and its header once it is written. -/
structure RecSlot where
  blank : Bool := true
  header : Option RecHeader := none
  entries : Tbl RecEntry := ⟨[]⟩
deriving DecidableEq, Repr

/-- A flush in progress (R458 to R460): its slot, trigger, range, the state and device time of its trigger, the entries that it writes, when its budget ends,
whether it programs straight from the ring, and since when it programs. -/
structure RecFlush where
  slot : Nat
  trigger : Nat
  first : Nat
  last : Nat
  state : Nat
  time : Nat
  copy : List RecEntry
  budget : Option Nat := none
  direct : Bool := false
  begun : Option Nat := none
deriving DecidableEq, Repr

/-- The Stolost recorder: the ring by index, the queue and the drops not yet written as `LOST` (R454), the flash slots, the flush in progress, the triggers that
wait, each with the state and the device time in which it came (R465), the follow-up owed to a cut flush, as the first entry of its range and the slot that the cut flush wrote (R460), the slot
being erased, bits [47:32] of the time written last (R456), the entries
written in this frame by code and index (R457), whether a `RECORDER_FLUSH` ends with the running flush or with its follow-up (R465), and when the budget of the last
orderly stop ends (R460). -/
structure Recorder where
  ring : Tbl (Option RecEntry) := ⟨[]⟩
  queue : List RecPost := []
  dropped : Nat := 0
  slots : Tbl RecSlot := ⟨[]⟩
  flush : Option RecFlush := none
  triggers : List (Nat × Nat × Nat) := []
  followUp : Option (Nat × Option Nat) := none
  erasing : Option Nat := none
  highUs : Nat := 0
  frameOnce : List (Nat × Nat) := []
  cmdWaits : Bool := false
  cmdNext : Bool := false
  stopEnd : Nat := 0
deriving DecidableEq, Repr

/-! ## Outputs and time -/

/-- Device time (R274) and the two output balls that hardware drives without the supervisor. -/
structure TimeBase where
  dev : Nat := 0
  slewLeft : Int := 0
  slewFrac : Nat := 0
  slewing : Bool := false
deriving DecidableEq, Repr

/-! ## Scan planning (chapter 2) -/

/-- The policy of one segment-column, merged under R48, and what the planner has queued for it (R54, R55). -/
structure SegPol where
  seg : Nat
  rank : Nat
  prio : Nat
  min : Nat
  max : Nat
  batch : Nat
  range : Nat
  estop : Bool
  empty : Bool
  profile : Nat
  zones : List Nat := []
  host : List (Nat × Nat) := []
  track : Bool := false
  first : Nat
  cap : Nat := 0
  queued : Nat := 0
  batches : Nat := 0
  verdicts : Nat := 0
  used : Nat := 0
  running : Bool := true
deriving DecidableEq, Repr

/-- A due cell over one column (R48). `rank` is the class rank: 4 safety zone, 3 calibration, 2 track, 1 host, 0 background. -/
structure Cell where
  rank : Nat
  prio : Nat
  idx : Nat
  min : Nat
  max : Nat
  batch : Nat
  range : Nat
  estop : Bool
  empty : Bool
  profile : Nat
  voff : Option Int := none
  zone : Option Nat := none
  seq : Nat := 0
  segs : Nat
deriving DecidableEq, Repr

/-- A planned column: its duration in 10 ns (R51, R52), its segment-columns, and its life. Times are ns of `now`;
`grants` holds the host cells granted when it was planned (R49), `shut` the segment-columns that R38 leaves out, `out` the channels of segments that serve
only lost combs (1) or `BIAS_FAULT` (2), `before` the launch slots of the column before, as slots of this one, 32 added (R54),
`stamp` is the device time of its start, `cover` the due safety-zone cells (zone and segment mask, R252), `off` the segments left out for
a disabled segment or a lost tile (R38, R367), `gap` that it is a gap column of a takeover (R394), `lead` the start from which its first batches were queued
ahead (R17). -/
structure ColPlan where
  frame : Nat
  column : Nat
  sweep : Nat
  dur : Nat
  voff : Int := 0
  edge : Bool := false
  segs : List SegPol := []
  posted : Bool := false
  startNs : Option Nat := none
  stamp : Nat := 0
  budget : Nat := 0
  closed : Bool := false
  velHold : Bool := false
  cut : Bool := false
  profLimit : Bool := false
  steerErr : Bool := false
  taken : List (Nat × Nat) := []
  unserved : Bool := false
  cover : List (Nat × Nat) := []
  off : List Nat := []
  gap : Bool := false
  grants : List Cell := []
  shut : List SegPol := []
  out : List (Nat × Nat) := []
  before : List (Nat × Nat) := []
  lead : Option Nat := none
deriving DecidableEq, Repr

/-- A shot in the shot queue (R17, R55): its column key, segment, launch slot counted from the column start, batch number,
and the marks of its notice (R192). -/
structure Shot where
  key : Nat
  seg : Nat
  slot : Nat
  batch : Nat
  batchEnd : Bool
  number : Nat
  claim : Nat
deriving DecidableEq, Repr

/-- The account of one point, one channel in one column (R18), with its flags and the sums of its angle stamps (of accumulated shots, and of
planned shots that were not) and launch times (R366, R367). -/
structure Pt where
  planned : Nat := 0
  fired : Nat := 0
  refused : Nat := 0
  late : Nat := 0
  withdrawn : Nat := 0
  stopped : Bool := false
  short : Bool := false
  angleEst : Bool := false
  wlAcq : Bool := false
  sunRed : Bool := false
  blanked : Bool := false
  notOk : Bool := false
  biasFault : Bool := false
  memErr : Bool := false
  detDrop : Bool := false
  evtDrop : Bool := false
  calGap : Bool := false
  noStart : Nat := 0
  azSum : Int := 0
  elSum : Int := 0
  stamps : Nat := 0
  azPlan : Int := 0
  elPlan : Int := 0
  planStamps : Nat := 0
  tofs : Int := 0
deriving DecidableEq, Repr

/-- The sums that `FRAME_PLAN` reports (R63). -/
structure FrameAcc where
  start : Nat := 0
  planned : Nat := 0
  fired : Nat := 0
  refused : Nat := 0
  late : Nat := 0
  withdrawn : Nat := 0
  cut : Bool := false
  zoneShort : Bool := false
  velHold : Bool := false
  placement : Bool := false
  shortest : Option Nat := none
  longest : Nat := 0
  hostCells : Nat := 0
  trackCells : Nat := 0
  spillBytes : Nat := 0
  lastTheta : Nat := 800
deriving DecidableEq, Repr

/-- The planner's working state. `sctA` and `sctB` are the Scan Cell Table banks 0 and 1 (entries of 32 bytes), `tracks` the
track contexts (64 bytes); `expect` holds the expected demand of segment-columns in 1/65,536 shot (R50; none: `MIN_SHOTS`), `adj` what R50 adds to
unposted columns in the frame, `residue` the rounding carry of R52 in 1/65,536 of 10 ns, `planFrame` and `planNext` the
frame and sweep index planned next, `dropped` frame, and 4,096 × column + index, of dropped track cells (R46), `cols` the columns by key, `pts` the points by key, `theta` the throttle in 1/800 (R413). -/
structure Plan where
  sctA : Tbl (List Byte) := ⟨[]⟩
  sctB : Tbl (List Byte) := ⟨[]⟩
  countA : Nat := 0
  countB : Nat := 0
  commitCount : Nat := 0
  commitLate : Bool := false
  eccEntries : List Nat := []
  tracks : Tbl (List Byte) := ⟨[]⟩
  hostWrites : Tbl (List Byte) := ⟨[]⟩
  dropped : List (Nat × Nat) := []
  expect : Tbl (Option Nat) := ⟨[]⟩
  adj : Tbl Int := ⟨[]⟩
  residue : Int := 0
  planFrame : Nat := 0
  planNext : Nat := 0
  cols : Tbl (Option ColPlan) := ⟨[]⟩
  pts : Tbl Pt := ⟨[]⟩
  queue : List Shot := []
  fifo : List (Nat × Nat) := []
  openCol : Option Nat := none
  swept : Nat := 0
  running : Bool := false
  theta : Nat := 800
  coverK : Nat := 1
  coverNext : Nat := 1
  startLag : Nat := 0
  edgeDwell : Nat := 0
  lateBoundary : Bool := false
  cutDrive : Bool := false
  frameNs : Nat := 0
  frameTime : Nat := 0
  acc : FrameAcc := {}
  moved : Tbl (Option Nat) := ⟨[]⟩
  shotCount : Nat := 0
  /-- The planned end of the column that started last, in ns of `now`. -/
  endAt : Nat := 0
  /-- The durations of the running frame's columns that have started, summed, and the last of them, in 10 ns (R51, R52). -/
  sweptDur : Nat := 0
  lastDur : Nat := 0
  /-- The hive of each comb before the moves of the last frame boundary (R62). -/
  placeWas : List Nat := []
  /-- The frame in which the expected demand was reset last (R50). -/
  expectFrom : Nat := 0
deriving DecidableEq, Repr

/-! ## Scan-time arbiter (chapter 3) -/

/-- A region request (R68). -/
structure Req where
  id : Nat
  periodic : Bool
  estop : Bool
  empty : Bool
  firstCol : Nat
  lastCol : Nat
  segMask : Nat
  min : Nat
  max : Nat
  batch : Nat
  profile : Nat
  range : Nat
  revisit : Nat
  passes : Nat
deriving DecidableEq, Repr

/-- The account of one pass (R87): its frame, its number since admission, its columns planned, its point-shots, whether a gap column of a takeover lay in it (R394), the admission that it
belongs to, whether that was under fairness standing, and the rank as held. -/
structure PassAcc where
  frame : Nat
  no : Nat := 0
  cols : Nat := 0
  planned : Nat := 0
  fired : Nat := 0
  refused : Nat := 0
  gapped : Bool := false
  seq : Nat := 0
  fair : Bool := false
  held : Option Nat := none
deriving DecidableEq, Repr

/-- A request stream (R67 to R87): its request, the state of `ARB_STREAM_i` (0 idle, 1 waiting, 2 backed off, 3 holding,
4 pass in progress), its back-off value `b`, the `excl` frames of exclusion after frame `exclFrom` (R86), the passes `SERVED` since the request was
queued, the number of the pass that begins next, the accounts of the passes of which columns are planned, oldest first, and the frame of the pass that it was taken in (R84). -/
structure Stream where
  req : Option Req := none
  st : Nat := 0
  subPrio : Nat := 0
  age : Nat := 0
  b : Nat := 1
  excl : Nat := 0
  exclFrom : Nat := 0
  fair : Bool := false
  fairGrant : Bool := false
  dwell : Nat := 0
  admitFrame : Nat := 0
  admitSeq : Nat := 0
  heldRank : Nat := 0
  pass : Nat := 0
  served : Nat := 0
  lastCode : Nat := 0
  accs : List PassAcc := []
  lostIn : Option Nat := none
deriving DecidableEq, Repr

/-- The arbiter: streams i = 6·port + stream, the pending change of a slot with the frame from which it is in force (R76),
whether the slot commit missed the next boundary (R75), and whether the next arbitration point re-checks holders for the
slot table (R88). -/
structure Arb where
  streams : Tbl Stream := ⟨[]⟩
  slotNext : Tbl (Option (Nat × Nat)) := ⟨[]⟩
  commitLate : Bool := false
  recheck : Bool := false
  admits : Nat := 0
deriving DecidableEq, Repr

/-! ## Emitter drive (chapter 4) -/

/-- A shot taken at its cut (R93, R94, R102): its column key, segment, launch slot and batch, its dither code, whether the gate
refused it, the channels that accumulate it (R193), its listening window in coarse periods, its early-stop profile, and the
instant of its FIRE edge in 1/512 ns of `now` (R90). -/
structure CutShot where
  key : Nat
  seg : Nat
  slot : Nat
  batch : Nat
  batchEnd : Bool
  number : Nat
  dither : Nat
  refused : Bool
  acc : List Nat
  window : Nat
  profile : Nat
  fireAt : Nat
  win : Nat
deriving DecidableEq, Repr

/-- A drip frame sent and not yet returned (R98): the frame, when its first data cell left, and the tile bank before and
after its `SWAP`. -/
structure SentFrame where
  frame : DripFrame
  at_ : Nat
  bankBefore : Bool
  bankAfter : Bool
deriving DecidableEq, Repr

/-- A shot of a drip window as its angle sample finds it (R107, R131): its column key, segment, FIRE edge in 1/512 ns, the channels
that accumulate it, and whether the gate permitted it. -/
structure SarShot where
  key : Nat
  seg : Nat
  fireAt : Nat
  acc : List Nat
  fired : Bool
deriving DecidableEq, Repr

/-- The chosen SAR trigger of a drip window (R107): when it comes, the tile, segment and pattern product sampled, and the
shots of the window, which take the sample; and the pointer it was chosen with. -/
structure SarTrig where
  at_ : Nat
  tile : Nat
  seg : Nat
  amp : Nat
  fireAt : Nat
  shots : List SarShot
  ptr : Nat := 0
deriving DecidableEq, Repr

/-- The wavelength monitor of a tile (R109): the block in progress, the completed block waiting to be averaged, the runs of
block means inside and outside the band, and the not-LOCKED time with the start of the interval being counted. -/
structure WlTile where
  n : Nat := 0
  sumD : Int := 0
  sumA : Nat := 0
  done : Option (Nat × Int × Nat) := none
  inRun : Nat := 0
  outRun : Nat := 0
  lostNs : Nat := 0
  since : Option Nat := none
deriving DecidableEq, Repr

/-- The emitter drive. Drip windows have 500 ns and run from reset; `lastWin` is the number of the window cut last,
`winFrames` the frames of the latest windows with shots, `bank` the bank the tiles are expected in. The
accountants hold, per zone and window, the charged sub-intervals (index, energy units). `swapSent`: a frame cut before the boundary carried its
`SWAP` (R96). `fires` holds the FIRE edges of each tile, newest first: instant in 1/512 ns and width in ns (R91). `laserAt` is when `LASER_EN` rose, and
`lsdOwn` that the tile reported after an `EMIT_FAULT` is the one that the first cause names (R111). -/
structure Emit where
  lastWin : Nat := 0
  winFrames : List (Nat × Nat) := []
  cuts : List CutShot := []
  line : Option (DripFrame × Nat) := none
  sent : List SentFrame := []
  bank : Bool := false
  swapOwed : Bool := false
  swapSent : Bool := false
  loadPos : Nat := 0
  ceil : Nat := 0
  retFails : Nat := 0
  misses : Tbl Nat := ⟨[]⟩
  acctA : Tbl (List (Nat × Nat)) := ⟨[]⟩
  acctB : Tbl (List (Nat × Nat)) := ⟨[]⟩
  sarPtr : Nat := 0
  sarNext : List SarTrig := []
  fires : Tbl (List (Nat × Nat)) := ⟨[]⟩
  spurious : Tbl (List Nat) := ⟨[]⟩
  laserAt : Option Nat := none
  fadeAt : Option Nat := none
  fadeStep : Nat := 0
  faultLow : Option Nat := none
  faultReturns : Nat := 0
  lsdOwn : Bool := false
  lsdSeen : List (Nat × Nat) := []
  lsdNamed : List Nat := []
  lsdAt : Option Nat := none
  wl : Tbl WlTile := ⟨[]⟩
  patAt : Option Nat := none
deriving DecidableEq, Repr

/-! ## Waggle engine (chapter 5) -/

/-- A piece of a motion profile (R127, R498): from `t0` ns on, position in 10⁻⁶ angle LSB, velocity in LSB/s, acceleration in
LSB/s² and jerk in LSB/s³, for `dur` ns; after the last piece the end velocity is kept. -/
structure Piece where
  t0 : Nat
  dur : Nat
  p0 : Int
  v0 : Int
  a0 : Int := 0
  j : Int := 0
deriving DecidableEq, Repr

/-- One axis: its profile, the measured angle and the one before, the velocity estimate, both integrators, the notch state,
the applied current set-point and DAC code, the mode in force, the error of the last position computation, and the
times of its park, release and settling. `needStart`: the start move waits for the first measured angle (R138). -/
structure Axis where
  pieces : List Piece := []
  thMeas : Int := 0
  thPrev : Int := 0
  thRef : Int := 0
  vEst : Int := 0
  posInt : Int := 0
  curInt : Int := 0
  x1 : Int := 0
  x2 : Int := 0
  y1 : Int := 0
  y2 : Int := 0
  iRef : Int := 0
  iMeas : Int := 0
  dac : Int := 0
  mode : Nat := 0
  lastE : Int := 0
  needStart : Bool := false
  rejoin : Bool := false
  parkAt : Option Nat := none
  thenRelease : Bool := false
  relAt : Option Nat := none
  relFrom : Int := 0
  okSince : Option Nat := none
  peak : Nat := 0
deriving DecidableEq, Repr

/-- One loop l (R121): its result waiting for the next tick, whether its computation is still running past its deadline, the
consecutive overruns, its output, and for the heater and wavelength loops the integrator. -/
structure LoopSt where
  pend : Option Int := none
  late : Bool := false
  runs : Nat := 0
  out : Int := 0
  integ : Int := 0
  hold : Option Nat := none
deriving DecidableEq, Repr

/-- The Waggle engine: whether it is powered and since when, the tick number, the newest angle sample (codes and completion),
tiles with a new block mean, tiles whose heater loops run, the X generator's velocity, deficit and reference velocity, the
start of `ARM`, whether the scan start was reached and since when X scans, the column whose outer boundary is X's scan start (R138), the hold of a
frame's first column (its key, when and where the mirror came to rest, and when it accelerates, R128), the park decision (R122), the position tick whose
control sample is requested next (R118), and for each loop that has not computed since a commit the registers and values that it replaced (R135). -/
structure Wag where
  powerAt : Option Nat := none
  n : Nat := 0
  axX : Axis := {}
  axY : Axis := {}
  loops : Tbl LoopSt := ⟨[]⟩
  sample : Option (Int × Int × Nat) := none
  newMean : List Nat := []
  heating : Bool := false
  xVel : Int := 0
  deficit : Int := 0
  refVel : Int := 0
  armAt : Option Nat := none
  atStart : Bool := false
  scanAt : Option Nat := none
  startCol : Nat := 0
  hold : Option (Nat × Nat × Int × Nat) := none
  parkAt : Option Nat := none
  trackRaised : Bool := false
  yTarget : Int := 0
  ctrlN : Nat := 0
  former : List (Nat × List (Nat × Word)) := []
deriving DecidableEq, Repr

/-! ## Receive front end (chapter 6) -/

/-- The receive window open on a channel (R144): the segment and number of its shot, its FIRE edge and its end in 1/512 ns,
the range, the words of `RX_THR_c` and `RX_RANGE_c` in force, its threshold without the near term, whether an overload occurred in it, and the key of the shot's column, if it is one of a column. -/
structure RxWin where
  seg : Nat
  number : Nat
  fireAt : Nat
  closeAt : Nat
  range : Nat
  thr : Word
  rr : Word
  base : Int
  sat : Bool := false
  key : Option Nat := none
deriving DecidableEq, Repr

/-- A receive channel (R145, R146, R163): the `up` count, the newest range decision not begun, the close of its last window
and the end of its comparator's hold in 1/512 ns, the instant of its last timed edge in 1/4096 ps, its open window, the
range mode in force (R149), whether it is masked, without valid bias (as every channel before its zone is first `ON`), STUCK, STUCK in this frame, FAULTY. -/
structure Chan where
  up : Nat := 0
  next : Option Nat := none
  closeAt : Nat := 0
  holdUntil : Nat := 0
  last : Option Int := none
  win : Option RxWin := none
  mode : Nat := 0
  masked : Bool := false
  biasBad : Bool := true
  stuck : Bool := false
  stuckNow : Bool := false
  faulty : Bool := false
deriving DecidableEq, Repr

/-- A comb's bias feed and reference: its state (0 normal, 1 SUSPECT, 2 OPEN), the ticks left of the check at the end of a
ramp (R158), the run of readings over `I_MAX`, the runs of reference checks (R166), the tick at which the current conversion
began, and whether a part of it fell outside `BLANK` (R155). -/
structure RxComb where
  bias : Nat := 0
  check : Option Nat := none
  overRun : Nat := 0
  refFail : Nat := 0
  refPass : Nat := 0
  refFault : Bool := false
  conv : Option Nat := none
  convClear : Bool := false
deriving DecidableEq, Repr

/-- The front end: monitoring ticks since reset, channels, combs, zones to retry, the level of `BLANK` and since when it is
asserted, the compensation of each zone (R419), the start of a self-test, and, while the readings of a tick wait for the end of an internal blank, the combs whose
excitation they judge (R155). -/
structure Rx where
  ticks : Nat := 0
  chans : Tbl Chan := ⟨[]⟩
  combs : Tbl RxComb := ⟨[]⟩
  retry : List Nat := []
  blankPin : Bool := false
  blankSince : Option Nat := none
  comp : Tbl Int := ⟨[]⟩
  testAt : Option Nat := none
  readDue : Option (List Nat) := none
deriving DecidableEq, Repr

/-! ## Event timing (chapter 7) -/

/-- A shot from its FIRE edge to the close of its last channel (R174, R192): what its notice carries, the combs it was sent to,
whether an internal pulse started it, the start instant of each comb in 1/4096 ps, corrected for skew (R171), the calibrated words of the stop timers (R172),
the channels whose stop timers are armed and those whose windows are open, the stops timed per channel, the channels with an
edge not timed, and the event words dropped per comb. -/
structure OpenShot where
  key : Nat
  seg : Nat
  batch : Nat
  batchEnd : Bool
  number : Nat
  dither : Nat
  acc : List Nat
  tile : Nat
  fireAt : Nat
  combs : List Nat
  internal : Bool := false
  start : Option (List Int) := none
  cal : List (Nat × Word × Word) := []
  armed : List Nat := []
  waiting : List Nat := []
  stops : Tbl Nat := ⟨[]⟩
  lost : List Nat := []
  drops : Tbl Nat := ⟨[]⟩
  dropAt : Tbl Nat := ⟨[]⟩
deriving DecidableEq, Repr

/-- An event word (R178) with the number of its shot and the fine LSB that its timestamp was encoded with (R172). -/
structure EvtWord where
  ts : Nat
  ch : Nat
  range : Nat
  sat : Bool
  ovf : Bool
  stop : Nat
  seg : Nat
  number : Nat
  lsb : Nat := 0
deriving DecidableEq, Repr

/-- A marker word (R179), an open word or a close word, with the whole number of its shot, when the first event that it counts as dropped was lost, and when it was
written, in ns of `now`. -/
structure Mark where
  close : Bool
  seg : Nat
  number : Nat
  internal : Bool := false
  noStart : Bool := false
  drop : Nat := 0
  wcount : Nat := 0
  lost : Nat := 0
  dropAt : Nat := 0
  at_ : Nat := 0
deriving DecidableEq, Repr

/-- The streams to one comb: the event FIFO with its write and read counts modulo 256, and the marker FIFO. -/
structure TdcComb where
  evts : List EvtWord := []
  wr : Nat := 0
  rd : Nat := 0
  marks : List Mark := []
deriving DecidableEq, Repr

/-- A statistics unit (R188): when its run began, its control and gate words, and its sums in 1/4096 ps. -/
structure Stat where
  startAt : Nat := 0
  ctrl : Word := 0
  gate : Word := 0
  count : Nat := 0
  sum : Nat := 0
  sumSq : Nat := 0
  min : Nat := 0
  max : Nat := 0
deriving DecidableEq, Repr

/-- The clocks (R183 to R187, R190): the runs of good windows of both sources and whether each is absent, whether a source was good within 50 ms of
reset release, the start of the PLL's
lock and whether it reports a lost `REFCLK`, a return that waits for a frame boundary, when both sources were lost and when lock came back, the crystal offset as recorded, the trend of its correction, and per comb
the run of good windows while its clock is bad. -/
structure Clk where
  refGood : Nat := 0
  xtalGood : Nat := 0
  xtalAbsent : Bool := false
  refAbsent : Bool := false
  bootOk : Bool := false
  switching : Option Nat := none
  lossDue : Bool := false
  returnDue : Bool := false
  both : Bool := false
  lockAt : Option Nat := none
  measured : Bool := false
  predAt : Int := 0
  corr : Int := 0
  lastMeasure : Nat := 0
  corrAt : Nat := 0
  combGood : Tbl Nat := ⟨[]⟩
deriving DecidableEq, Repr

/-- Event timing. -/
structure Tdc where
  shots : List OpenShot := []
  combs : Tbl TdcComb := ⟨[]⟩
  stats : Tbl Stat := ⟨[]⟩
  clk : Clk := {}
  windows : Nat := 0
deriving DecidableEq, Repr

/-! ## Combs (chapter 8) -/

/-- The accumulation of one point in a comb (R196 to R199): bins by number, range planes by 4 × cluster + range, and the
figures of its header (R207). -/
structure PtHist where
  bins : Tbl Nat := ⟨[]⟩
  planes : Tbl Nat := ⟨[]⟩
  n : Nat := 0
  noStart : Nat := 0
  total : Nat := 0
  ooh : Nat := 0
  flags : Nat := 0
  g0 : Nat := 0
  g1 : Nat := 0
  g2 : Nat := 0
  g3 : Nat := 0
  verdict : Nat := 3
  llr : Int := 0
  seg : Nat := 0
deriving DecidableEq, Repr

/-- A batch in a comb (R201): its number, the fired shots whose close word is awaited, whether `BATCH_END` came, and the
channels named in an `ACC_MASK`, and when the window of its last fired shot closed. -/
structure Batch where
  number : Nat
  shots : List Nat := []
  ended : Bool := false
  mask : List Nat := []
  done : Bool := false
  closedAt : Option Nat := none
deriving DecidableEq, Repr

/-- A segment-column in a comb: the geometry of R195 and the early-stop profile as it was at its first notice. -/
structure CombSeg where
  seg : Nat
  w : Nat
  u : Nat
  b : Nat
  short : Bool
  profile : Nat
  pa : Word
  pb : Word
  batches : List Batch := []
deriving DecidableEq, Repr

/-- A column in a comb: whether it is stalled (R197) or dark (R209), the `HIST_CAND` in force, its segments, when it closed, and whether
pass 2 waits for the export ring since an instant. -/
structure CombCol where
  key : Nat
  frame : Nat
  column : Nat
  stalled : Bool
  dark : Bool
  cand : Word
  hive : Nat
  segs : List CombSeg := []
  closedAt : Option Nat := none
  waitFrom : Option Nat := none
deriving DecidableEq, Repr

/-- A window record (R207). -/
structure WinRec where
  start : Nat
  rank : Nat
  peak : Nat
  c : Nat
  bins : List Nat
  planes : List Nat
deriving DecidableEq, Repr

/-- A point export record (R207), with the frame and the key of its column, its envelope as grid A entries, its
windows, and the byte count that R207 gives it. -/
structure ExpRec where
  key : Nat
  frame : Nat
  column : Nat
  hive : Nat
  closedAt : Nat
  ch : Nat
  seg : Nat
  w : Nat
  b : Nat
  verdict : Nat
  n : Nat
  noStart : Nat
  total : Nat
  u : Nat
  ambient : Nat
  flags : Nat
  ooh : Nat
  sg : List Nat
  m : Nat
  llr : Int
  profile : Nat
  env : List Nat
  wins : List WinRec
  size : Nat
deriving DecidableEq, Repr

/-- A verdict word (R203) with the key of its column, and when the listening window of its batch closed (R17). -/
structure Verdict where
  key : Nat
  column : Nat
  comb : Nat
  seg : Nat
  batch : Nat
  echo : Nat
  empty : Nat
  closedAt : Option Nat := none
deriving DecidableEq, Repr

/-- A full histogram waiting in diagnostic staging (R208). -/
structure Staged where
  frame : Nat
  column : Nat
  ch : Nat
  size : Nat
  bytes : List Byte
deriving DecidableEq, Repr

/-- A shot notice as the comb keeps it until it has acted on the shot's close word (R192): the channels of the comb that accumulate
it, and the ranges in force at its FIRE edge (R199). -/
structure Notice where
  number : Nat
  key : Nat
  seg : Nat
  batch : Nat
  dither : Nat
  internal : Bool
  acc : List Nat
  ranges : List (Nat × Nat)
deriving DecidableEq, Repr

/-- One comb: its live columns, accumulations by point, export ring, staging, verdict FIFO and notices, and whether it is dark for
calibration (R209). -/
structure CombSt where
  cols : List CombCol := []
  hists : Tbl (Option PtHist) := ⟨[]⟩
  ring : List ExpRec := []
  stage : List Staged := []
  verdicts : List Verdict := []
  notices : List Notice := []
  dark : Bool := false
deriving DecidableEq, Repr

/-! ## Rejection of sun, weather and other scanners (chapter 9) -/

/-- A strong event (R216): its arrival and the FIRE edge of its shot, in 1/16 ns of device time, and its comb. -/
structure Strong where
  a : Nat
  f : Nat
  comb : Nat
deriving DecidableEq, Repr

/-- Sums of the near-band figures of a frame (R224, R225): points with figures, near hits, both among low segments, and the
excess of the near hits in 2⁻³² events per shot. -/
structure WxSums where
  points : Nat := 0
  hits : Nat := 0
  lowPoints : Nat := 0
  lowHits : Nat := 0
  excess : Int := 0
deriving DecidableEq, Repr

/-- Rejection: the dither generator (R212) and, by segment, the previous shot of its segment-column: column key, launch-slot start in
1/32 ns and dither code (R215); the finder's queue, its stored events by comb, newest first, the last time it took one, and `LAST` of each
context in 1/16 ns with the time of its last hit in ns of `now` (R216 to R219); the weather sums of the frame and the sums of the near profile
by 16 × segment + cell: excess in 2⁻³² and points (R227); the consecutive frames whose candidate was the same and not the state (R226); by comb the sums
of a column's ambient rates (R221); the combs whose `ADP_EN_MASK` bit as in force differs from reset, bit c set for 0 (R232). -/
structure Rej where
  lfsr : Nat := 0
  prev : Tbl (Option (Nat × Nat × Nat)) := ⟨[]⟩
  feQueue : List Strong := []
  feStore : Tbl (List (Nat × Nat)) := ⟨[]⟩
  feTaken : Option Nat := none
  ctxLast : Tbl Nat := ⟨[]⟩
  ctxHit : Tbl Nat := ⟨[]⟩
  wx : WxSums := {}
  prof : Tbl (Int × Nat) := ⟨[]⟩
  adpCol : Tbl (Nat × Nat) := ⟨[]⟩
  wxRun : Nat := 0
  adpOff : Nat := 0
deriving DecidableEq, Repr

/-! ## Hives, detection, tracks and zones (chapters 10 and 11) -/

/-- What detection uses for the points of one frame (R254, R269): the registers of pages 6 to 8 as they stood at its boundary, the
template bank, the zone table, the contexts due in it, and whether it began in SENSING or DEGRADED, or in CALIBRATING. -/
structure FrameCfg where
  frame : Nat := 0
  regs : Tbl Word := ⟨[]⟩
  tpl : Tbl (List Byte) := ⟨[]⟩
  zones : Tbl (List Byte) := ⟨[]⟩
  due : List Nat := []
  emitting : Bool := false
  calib : Bool := false
deriving DecidableEq, Repr

/-- A record on an engine (R233, R236): the record, when the engine took it, and whether this is its second attempt. -/
structure EngineJob where
  point : ExpRec
  since : Nat
  again : Bool := false
deriving DecidableEq, Repr

/-- A record waiting for an engine, in the window area or spilled to DRAM (R61, R234); `again`: it was on an engine that was
fenced. -/
structure WaitRec where
  point : ExpRec
  spilled : Bool := false
  again : Bool := false
deriving DecidableEq, Repr

/-- A resolved echo (R241 to R244): its bin, range in 0.1 mm, intensity, events and y_p in 1/16 event, and its tag. -/
structure Echo where
  bin : Nat
  range : Nat
  intensity : Nat
  e16 : Nat
  yp16 : Nat
  bs : Bool
deriving DecidableEq, Repr

/-- A window in a chain queue (R257): its point, the window's place, and its chain input in Q15 events (y, or x − b in 2⁻¹⁶ of it). -/
structure ChainWin where
  key : Nat
  frame : Nat
  ch : Nat
  seg : Nat
  w : Nat
  u : Nat
  start : Nat
  rank : Nat
  src : List Int
deriving DecidableEq, Repr

/-- The reduction block of a point (R267): its parts, the windows still in the chain, and its flags. -/
structure RedBlock where
  waiting : Nat := 0
  parts : List (List Byte) := []
  flags : Nat := 0
deriving DecidableEq, Repr

/-- What detection made of a point: its export record, its resolved echoes in the order of choice of R229, with the number reported,
its reduction block, and whether its record was dropped. -/
structure DetPoint where
  point : ExpRec
  echoes : List Echo := []
  red : Option RedBlock := none
  drop : Bool := false
deriving DecidableEq, Repr

/-- One hive: records waiting, the spill rule, the engine whose turn of the check kernel comes next (R236), whether it had its turn in this frame, the busy time of
engines and the most records waiting in this frame, its chain queue and when the chain took its window. -/
structure HiveSt where
  waiting : List WaitRec := []
  spilling : Bool := false
  turn : Nat := 0
  checked : Bool := false
  busyNs : Nat := 0
  peak : Nat := 0
  chain : List ChainWin := []
  chainAt : Nat := 0
deriving DecidableEq, Repr

/-- An echo in a cluster, with its column start stamp in ns (R245). -/
structure CluEcho where
  column : Nat
  ch : Nat
  range : Nat
  az : Int
  el : Int
  intensity : Nat
  stamp : Nat
deriving DecidableEq, Repr

/-- A cluster: its echoes, the sweep index of its last column, whether it can no longer be extended, and its frame. -/
structure Cluster where
  echoes : List CluEcho
  last : Nat
  due : Bool := false
  frame : Nat := 0
deriving DecidableEq, Repr

/-- The words of `TRK_ASSOC`, `TRK_FILTER`, `TRK_FLOORS` and `TRK_NEW` in force when a cluster closes (R254). -/
structure TrkCfg where
  assoc : Word
  filter : Word
  floors : Word
  fresh : Word
deriving DecidableEq, Repr

/-- R47: an update of a context by detection in a column: the context; a cluster, or none for a miss; d² of its association, or none for a cluster that
was to create the context; and the registers in force at it (R254). -/
structure Deferred where
  idx : Nat
  cluster : Option Cluster := none
  d2 : Option Nat := none
  cfg : TrkCfg
deriving DecidableEq, Repr

/-- The counts of a zone in one frame (R252). -/
structure ZoneCount where
  zone : Nat
  hits : Nat := 0
  short : Nat := 0
  covering : Nat := 0
deriving DecidableEq, Repr

/-- What record assembly does next, in sweep order (R362): the frame header of a frame (`points`: columns of it are swept outside CALIBRATING, so that it has
point records), a column, or the end of a frame. `states`
lists the channels not `OK` when the column closed, with their codes. -/
inductive AsmItem where
  | frame (f : Nat) (bytes : List Byte) (points : Bool)
  | column (key frame : Nat) (closed : Bool) (states : List (Nat × Nat))
  | endFrame (f : Nat)
deriving DecidableEq, Repr

/-- Detection: hives, engines, busy time by comb, results by point, frame configurations, assembly of records and of reduction blocks, clusters, the updates that follow a
host write still waiting, the updates made in the running column (R47), by context when it was created, in µs, and whether by detection (R249), context endings
and changes of the frame, template banks, zone banks, zone counts and runs, and the latency figures of the frame. -/
structure Det where
  hives : Tbl HiveSt := ⟨[]⟩
  engines : Tbl (Option EngineJob) := ⟨[]⟩
  combBusy : Tbl Nat := ⟨[]⟩
  results : Tbl (Option DetPoint) := ⟨[]⟩
  cfg : FrameCfg := {}
  prev : List FrameCfg := []
  items : List AsmItem := []
  reds : List AsmItem := []
  clusters : List Cluster := []
  deferred : List Deferred := []
  recent : List Deferred := []
  origin : Tbl (Nat × Bool) := ⟨[]⟩
  ended : List (Nat × Nat × List Byte) := []
  changed : List Nat := []
  tplA : Tbl (List Byte) := ⟨[]⟩
  tplB : Tbl (List Byte) := ⟨[]⟩
  zoneA : Tbl (List Byte) := ⟨[]⟩
  zoneB : Tbl (List Byte) := ⟨[]⟩
  counts : List ZoneCount := []
  ready : List (Nat × List ZoneCount) := []
  runs : Tbl (Nat × Nat) := ⟨[]⟩
  latSum : Nat := 0
  latN : Nat := 0
  latPeak : Nat := 0
deriving DecidableEq, Repr

/-! ## Frame sources, swarm and capture (chapter 12) -/

/-- A message that the member has put on the SYNC_BUS: its bytes from the preamble on (R275), and when it began. -/
structure SwarmTx where
  msg : SwarmMsg
  at_ : Nat
  wire : List Byte := []
deriving DecidableEq, Repr

/-- Frame boundaries and swarm sync (R272 to R279): whether boundaries are made, the instants of `now` of the acceptance of `ARM` or the last
boundary and of the boundary due, whether the last one was a flywheel boundary and whether the acceptance of `ARM` still stands in for it, the last eight
periods in ns, the device time of the next internal event, swarm frame times waiting in device time; of the swarm: consecutive good
messages, the last `FRAME` or `GRID`, members last heard, the bus cycle and slot, the source event that the next slot 0 announces, the trigger
held, whether a `PRESENT` is owed, and the last message sent. -/
structure Sync where
  span : Bool := false
  lastB : Nat := 0
  dueAt : Option Nat := none
  fly : Bool := false
  fromArm : Bool := false
  periods : List Nat := []
  nextInternal : Nat := 0
  frameTimes : List Nat := []
  good : Nat := 0
  lastMsg : Option Nat := none
  heard : Tbl (Option Nat) := ⟨[]⟩
  cycle : Nat := 0
  slot : Nat := 9
  slotAt : Option Nat := none
  frameMsg : Option (Nat × Nat) := none
  trig : Option (Nat × Nat) := none
  owed : Bool := false
  tx : Option SwarmTx := none
deriving DecidableEq, Repr

/-- What stands in the capture engine's input FIFO: an item, an angle sample with the instant of `now` at which it was taken, whose item counts from the last
`TIME` item stored before it (R280), or a loss at this place (cause, units, and the instant of `now` of the first). -/
inductive CapIn where
  | item (bytes : List Byte)
  | angle (codes at_ : Nat)
  | loss (cause lost since : Nat)
deriving DecidableEq, Repr

/-- A capture slot (R282, R285): `st` 0 free, 1 in use, 2 readable; its header fields and its items. -/
structure CapSlot where
  st : Nat := 0
  seq : Nat := 0
  kind : Nat := 0
  src : Nat := 0
  preShort : Bool := false
  truncated : Bool := false
  detail : Nat := 0
  trigTime : Nat := 0
  firstTime : Nat := 0
  preBytes : Nat := 0
  postBytes : Nat := 0
  dead : Nat := 0xFFFFFFFF
  missed : Nat := 0
  firstMissed : Nat := 0
  combs : Nat := 0
  items : List (List Byte) := []
deriving DecidableEq, Repr

/-- The capture engine: the slot being filled, the items waiting at its input, the pre-trigger ring with the device time at which each of
its items was stored, the loss not yet written (cause, units, since), the instants of the last `TIME` item and of the acceptance, the capture whose
dead time still runs in `STOPPED`, and the last re-arm: its instant and the slot whose dead time it ended. -/
structure Cap where
  slots : Tbl CapSlot := ⟨[]⟩
  cur : Nat := 0
  input : List CapIn := []
  ring : List (Nat × List Byte) := []
  loss : Option (Nat × Nat × Nat) := none
  timeAt : Nat := 0
  acceptAt : Option Nat := none
  stopped : Option Nat := none
  rearmed : Option (Nat × Nat) := none
deriving DecidableEq, Repr

/-! ## Monitor converters (chapter 13) -/

/-- A SAR conversion (R294, R295): the trigger instant, the tile of the multiplexer, the shot trigger that it samples, if it came
from one that was neither shared nor deferred, and the triggers whose shots take it as their angle sample. -/
structure SarConv where
  at_ : Nat
  tile : Nat
  own : Option SarTrig := none
  users : List SarTrig := []
deriving DecidableEq, Repr

/-- A converter MA0 to MA2 (R289 to R291): the slot of its sequence, the start of the slot or the time of its last word, and
whether that slot has settled; its time is kept in 1/8 ns, of which a word takes a whole number. -/
structure MaConv where
  at_ : Option Nat := none
  slot : Nat := 0
  settled : Bool := false
deriving DecidableEq, Repr

/-- The RTD converter (R297): the input whose turn it is, its phase, the start of the phase, the ratio of its first phase (voltage in
nV and current in nA), whether the turn converts, and whether it overlapped `BLANK`. -/
structure RtdConv where
  input : Nat := 0
  phase : Nat := 0
  at_ : Option Nat := none
  first : Option (Int × Nat) := none
  live : Bool := false
  blanked : Bool := false
deriving DecidableEq, Repr

/-- The auxiliary converters: the SAR group with its deferred triggers, newest first, and its multiplexer; MA0 to MA2; the housekeeping scan with the
channel due next and the start of its slot; whether the reference is bad; the results of MA3 for TS0 to TS25 in 1/64 °C; the RTD converter and the runs of
passing checks of inputs that are `OPEN` (R298); when `BLANK` last ended and the last modulator sample of each of MA0 to MA2 that fell in one, in 1/8 ns (R299);
the rails that `SUPPLY_RANGE` has named in this scan of MA3 (R293); and the newest stamps that fired shots took, as segment, FIRE edge, azimuth and
elevation (R366). -/
structure Aux where
  sar : Option SarConv := none
  deferred : List SarTrig := []
  mux : Nat := 0
  ma : Tbl MaConv := ⟨[]⟩
  hkNext : Nat := 0
  hkAt : Nat := 0
  refBad : Bool := false
  ts : Tbl (Option Int) := ⟨[]⟩
  rtd : RtdConv := {}
  rtdPass : Tbl Nat := ⟨[]⟩
  blankEnd : Option Nat := none
  heldAt : Tbl (Option Nat) := ⟨[]⟩
  supSeen : List Nat := []
  stamped : List (Nat × Nat × Int × Int) := []
deriving DecidableEq, Repr

/-! ## Host links (chapter 14) -/

/-- A packet whose last flit a group carries: its subscription (none for a reply or an event), records, bytes and the `LOST_BYTES` it
tells of (R361). -/
structure PktTag where
  sub : Option Nat
  records : Nat
  size : Nat
  owed : Nat := 0
deriving DecidableEq, Repr

/-- A data group sent and not yet acknowledged (R315, R316): its flits, when it was last sent, how often it was replayed,
and whether it waits to be sent again. -/
structure TxGroup where
  gseq : Nat
  flits : List Flit
  sentAt : Nat
  replays : Nat := 0
  resend : Bool := false
  pkts : List PktTag := []
deriving DecidableEq, Repr

/-- The credit counts of R312 for one class: what the peer granted and what was sent, modulo 65,536. -/
structure Credit where
  granted : Nat := 0
  sent : Nat := 0
deriving DecidableEq, Repr

/-- A packet on its way through a lane's transmitter: the bytes not yet placed in flits, the stream subscription it came
from (R374) with its records and the `LOST_BYTES` it tells of (R361), or none for a reply or an event, and the DMA channel whose writes made it, if one did (R381). -/
structure TxPacket where
  bytes : List Byte
  started : Bool := false
  sub : Option Nat := none
  records : Nat := 0
  size : Nat := 0
  owed : Nat := 0
  chan : Option Nat := none
deriving DecidableEq, Repr

/-- One lane. `goodCommas` and `missed` count commas in a row (R309); `rateIdle` is when the idle interval of a change of rate ends, `switched` that the lane has resumed at the
target (R317), `eqNext` the next preset asked of the peer, `eyeTx` the eye figure reported in `TRAIN` (R319). -/
structure LaneSt where
  scrTx : Nat := 0x7FFFFFFF
  scrRx : Nat := 0x7FFFFFFF
  lastUnit : Nat := 0
  txLine : List Nat := []
  goodCommas : Nat := 0
  missed : Nat := 0
  locked : Bool := false
  signalAt : Option Nat := none
  gseqTx : Nat := 0
  rxNext : Nat := 0
  unacked : List TxGroup := []
  replayFrom : Option Nat := none
  accepted : Nat := 0
  ackOwed : Bool := false
  nakOwed : Bool := false
  nakOut : Bool := false
  svc : Credit := {}
  saf : Credit := {}
  blk : Credit := {}
  grantSvc : Nat := 256
  session : Nat := 0
  peerSession : Nat := 0
  upSession : Option (Nat × Nat) := none
  peerRxNext : Nat := 0
  peerWindow : Nat := 64
  trainRx : Nat := 0
  ackdSent : Nat := 0
  ackdRx : Bool := false
  peerUp : Bool := false
  target : Nat := 0
  rateCount : Nat := 16
  rateIdle : Option Nat := none
  switched : Bool := false
  eqNext : Nat := 0
  eyeTx : Nat := 0
  eqFinal : Bool := false
  retrainAt : Option Nat := none
  leftUpAt : Option Nat := none
  expectAt : Option Nat := none
  eyeWarnAt : Option Nat := none
  idleSince : Nat := 0
  wakeUntil : Option Nat := none
  powerOwed : Option Nat := none
  reqPreset : Option (Nat × Bool) := none
  asm : List Byte := []
  asmOn : Bool := false
  asmFlits : Nat := 0
  asmBad : Bool := false
  txSvc : Option TxPacket := none
  txSaf : List TxPacket := []
  txBlk : List TxPacket := []
  txDma : List TxPacket := []
deriving DecidableEq, Repr

/-! ## Output streams and DMA (chapter 16) -/

/-- A stream packet in a ring (R361); `body` holds its records after the 16-byte header. -/
structure StreamPkt where
  kind : Nat
  cont : Bool := false
  pseq : Nat := 0
  frame : Nat
  records : Nat
  body : List Byte
deriving DecidableEq, Repr

/-- Bytes formed for a subscription and not yet packed (R361 to R364): `tag` 0 a frame header, 1 a column header (kept until its
last part), 2 a record of the column before it, 3 a track record, 4 a list that holds no object; `part` is the next part of a column header; `first` says that a record begins here. -/
structure PendRec where
  frame : Nat
  tag : Nat
  bytes : List Byte
  part : Nat := 0
  first : Bool := true
deriving DecidableEq, Repr

/-- A subscription (R359, R360); `state` is 0 free, 1 waiting to start, 2 active, `since` the frame it started in,
`asked` the instant of its `STREAM_SUBSCRIBE` (R383), `alertAt` the instant of its last packet of zone alerts (R372). -/
structure Sub where
  port : Nat := 0
  kind : Nat := 0
  opts : Nat := 0
  decimate : Nat := 1
  firstCol : Nat := 0
  lastCol : Nat := 0
  segMask : Nat := 0
  state : Nat := 0
  since : Nat := 0
  asked : Option Nat := none
  fill : Nat := 0
  placed : Nat := 0
  alertAt : Option Nat := none
  lostRec : Nat := 0
  lostBytes : Nat := 0
  frameRec : Nat := 0
  frameBytes : Nat := 0
  frameCauses : Nat := 0
  owed : Nat := 0
  ring : List StreamPkt := []
  pend : List PendRec := []
deriving DecidableEq, Repr

/-- A DMA descriptor (R377); `crcOk` says that its check word holds, `status` is the word the engine writes. -/
structure Desc where
  next : Nat := 0xFFFFFFFF
  src : Nat := 0
  dst : Nat := 0
  count : Nat := 0
  srcSpace : Nat := 0
  dstSpace : Nat := 0
  seqno : Nat := 0
  notify : Bool := false
  srcFixed : Bool := false
  dstFixed : Bool := false
  srcSel : Nat := 0
  dstSel : Nat := 0
  status : Nat := 0
  crcOk : Bool := true
deriving DecidableEq, Repr

/-- A DMA channel: the tail of its chain, the descriptor completed last, the descriptor that halted it, whether a
`DMA_RESTART` of it still waits for its first completed descriptor, and whether the packet of the descriptor in progress left its ring
before the subscription ended (R360, R379 to R382); how often the burst that failed last was issued again (R381), when the channel halted (R383), and how many completions
its user was notified of (R380). -/
structure DmaCh where
  tail : Option Nat := none
  lastDone : Option Nat := none
  moved : Bool := false
  failed : Nat := 0
  restarting : Bool := false
  tries : Nat := 0
  haltedAt : Option Nat := none
  notified : Nat := 0
deriving DecidableEq, Repr

/-- What an ended subscription lost in the frame in which it ended, or since (R375). -/
structure EndedLoss where
  ch : Nat
  causes : Nat
  records : Nat
  bytes : Nat
deriving DecidableEq, Repr

/-- Subscriptions by DMA channel 8p + s (R376), the losses of those that ended (R375), the channels, and the alert counts
`ZSEQ` and newest alerts of the zones (R372, R397), and the bytes of the spaces that DMA channels address, the descriptors in DRAM among them (R377, R378). -/
structure Streams where
  subs : Tbl Sub := ⟨[]⟩
  ended : List EndedLoss := []
  chans : Tbl DmaCh := ⟨[]⟩
  zseq : Tbl Nat := ⟨[]⟩
  newestAlert : Tbl (List Byte) := ⟨[]⟩
  newestList : List Byte := []
  spaces : Tbl Byte := ⟨[]⟩
deriving DecidableEq, Repr

/-! ## Redundancy and safe states (chapter 17) -/

/-- A checkpoint buffer in DRAM (R389): the column whose segment was posted, and the frame and index of the column to be posted next. -/
structure Checkpoint where
  seq : Nat := 0
  column : Nat := 0
  next : Nat × Nat := (0, 0)
  frame : Nat := 0
  up : Bool := true
  residue : Int := 0
  adj : Tbl Int := ⟨[]⟩
  theta : Nat := 800
  dropped : List (Nat × Nat) := []
  valid : Bool := false
deriving DecidableEq, Repr

/-- A port pair (R396 to R399); `out` holds the sides whose present time out of `UP` has counted as a failure. -/
structure Pair where
  formed : Bool := false
  bulkReturn : Bool := false
  lowerUpAt : Option Nat := none
  upperUpAt : Option Nat := none
  out : List Nat := []
deriving DecidableEq, Repr

/-- A takeover in progress (R392, R393): the failed planner, the cause, when it was detected in `now` and in device time, the claim of the
new planner, and the key of the resume column once it is posted. -/
structure Takeover where
  failed : Nat
  cause : Nat
  at_ : Nat
  time : Nat
  resume : Option Nat := none
  claim : Nat := 0
deriving DecidableEq, Repr

/-- The planner pair, its checkpoints and the port pairs. `failedAt` and `testStart` are indexed by planner, 0 A and 1 B: when it failed, and when its
last self-test ran. `lateRun` counts the consecutive columns without their segment, `parity` the entries that failed
their parity, by frame and column (R392); `tieAt` is the start of a claim tie (R386), `ssnHighAt` since when the driven ball reads high (R402), `ssnExtLow` whether the
board holds the released ball low. -/
structure Red where
  pairs : Tbl Pair := ⟨[]⟩
  ckpts : Tbl Checkpoint := ⟨[]⟩
  ckptNext : Nat := 0
  ckptSeq : Nat := 0
  takeover : Option Takeover := none
  failedAt : Tbl (Option Nat) := ⟨[]⟩
  testStart : Tbl (Option Nat) := ⟨[]⟩
  lateRun : Nat := 0
  parity : List (Nat × Nat) := []
  tieAt : Option Nat := none
  ssnHighAt : Option Nat := none
  ssnExtLow : Bool := false
deriving DecidableEq, Repr

/-! ## Temperature and calibration (chapter 18) -/

/-- A comb-level run in progress (R420): its comb, start, comb temperature at its start, whether `CALIBRATE_COMB` asked for
it, and the ranges that its channels held (R149). -/
structure CombRun where
  comb : Nat
  start : Nat
  temp : Int
  named : Bool
  ranges : List (Nat × Nat) := []
deriving DecidableEq, Repr

/-- A full-system run in progress (R421): its entry in ns of `now`, the mean and the comb temperatures at its entry, what it measured, which
waits for the return boundary, and the ranges that the channels held (R149). -/
structure FullRun where
  start : Nat
  mean : Int
  temps : List Int
  found : Option FullCal := none
  ranges : List Nat := []
deriving DecidableEq, Repr

/-- A calibration record in flash (R424), whose check word holds. -/
structure CalRec where
  seq : Nat
  entries : List (List Byte)
  templates : List (List Byte)
deriving DecidableEq, Repr

/-- A save in progress (R424): its two slots, the record, and whether the working set changed since it began. -/
structure CalSave where
  slots : Nat × Nat
  rec_ : CalRec
  dirty : Bool := false
deriving DecidableEq, Repr

/-- Calibration beside the registers that the working set mirrors (R422): ratios of combs as (r1, r2, r3), none where nominal; by timer 0 to 767
its `SLOPE` and `T_CAL` fields; by bias zone `SLOPE`, `T0` and byte 4; the crystal coefficients as fields; the interpolator trims in 1/1,024 ppm (R418); runs in
progress, combs named by `CALIBRATE_COMB`, the mean temperature of the last full-system run, whether a comb-level run started in this frame; the fine non-linearity that the last run of each comb found (R426); combs whose
last run was severe and combs whose timing failed by calibration (R190); the flash slots with a valid record, slots that hold a torn one, the save, and the last save; the history of T_pol, newest first, with
the instant of each change (R415). -/
structure Cal where
  ratios : Tbl (Nat × Nat × Nat) := ⟨[]⟩
  timers : Tbl (Nat × Nat) := ⟨[]⟩
  zones : Tbl (Nat × Nat × Nat) := ⟨[]⟩
  xtal : Nat × Nat × Nat × Nat := (0, 0, 0, 0)
  xtalHeld : Int := 1600
  trims : Tbl Int := ⟨[]⟩
  run : Option CombRun := none
  full : Option FullRun := none
  named : List Nat := []
  fullMean : Option Int := none
  ranFrame : Bool := false
  combDark : List Nat := []
  inl : Tbl Nat := ⟨[]⟩
  severe : List Nat := []
  timing : List Nat := []
  slots : Tbl (Option CalRec) := ⟨[]⟩
  torn : List Nat := []
  save : Option CalSave := none
  lastSave : Nat := 0
  tpol : List (Nat × Int) := []
deriving DecidableEq, Repr

/-! ## Boot and security (chapter 19) -/

/-- A valid directory record (R432). -/
structure DirRec where
  seq : Nat := 0
  fwActive : Nat := 0
  fwTrial : Bool := false
  fwTries : Nat := 0
  cfgActive : Nat := 0
  cfgTrial : Bool := false
  cfgTries : Nat := 0
  bootCount : Nat := 0
deriving DecidableEq, Repr

/-- The regions of the flash part beside calibration and recorder slots (R431): both directory copies (none: the copy fails its
check word), the certificate copies with their `SEQ`, and the image slots 0 firmware A, 1 firmware B, 2 configuration A, 3 configuration B (none: as the part was
fitted). -/
structure Flash where
  dir0 : Option DirRec := none
  dir1 : Option DirRec := none
  cert0 : Option (Nat × List Byte) := Config.flashCert
  cert1 : Option (Nat × List Byte) := none
  slots : Tbl (Option (List Byte)) := ⟨[]⟩
deriving DecidableEq, Repr

/-- The fuses that the NL5 programs: steps of the anti-rollback counter (R440), the owner key hash (R441), and the hash of the identity key, which the first boot
programs (R446). -/
structure Fuses where
  svn : Nat := 0
  ownerHash : Option (List Byte) := none
  idHash : Option (List Byte) := none
deriving DecidableEq, Repr

/-- An update session (R442): its number, kind, `TOTAL`, the bytes received, and whether its commit is being checked. -/
structure Update where
  session : Nat
  kind : Nat
  total : Nat
  bytes : List Byte := []
  committing : Bool := false
deriving DecidableEq, Repr

/-- Boot and security: flash, fuses, the running images' header digests and signer key, the owner key hash of the running configuration, the update session and
the number of the next, the reports kept by port (R449), and the enrolment under way: its status and the key's hash (R441). -/
structure Boot where
  flash : Flash := {}
  fuses : Fuses := {}
  fwDigest : List Byte := []
  cfgDigest : List Byte := []
  vendorKey : List Byte := []
  ownerKeyHash : List Byte := []
  upd : Option Update := none
  nextSession : Nat := 1
  reports : Tbl (List Byte) := ⟨[]⟩
  enroll : Option (Nat × List Byte) := none
  dramUp : Bool := false
  flashMode : FlashMode := .single
deriving DecidableEq, Repr

/-! ## Balls (chapter 22) -/

/-- The instructions of the test port (R492). -/
inductive TapInstr where
  | bypass | idcode | samplePreload | extest | extestPulse | extestTrain | highz | clamp
deriving DecidableEq, Repr

/-- Supplies and reset (R478 to R481): the rails 1 to 9 in µV (unlisted: nominal), since when each that is low is below 90 % and since when all are above 93 %, the level of
`RESET_N` with its last change, and `FL_SEL` as it stands and as it was sampled. -/
structure Power where
  rails : Tbl (Option Nat) := ⟨[]⟩
  lowSince : Tbl (Option Nat) := ⟨[]⟩
  okSince : Option Nat := some 0
  resetN : Bool := true
  resetAt : Nat := 0
  flSel : Bool := false
  flSampled : Bool := false
deriving DecidableEq, Repr

/-- The test port: the instruction in force, the data register that it selects as it was captured, and the cells preloaded. -/
structure Tap where
  instr : TapInstr := .idcode
  data : Nat := 0x1E350D4F
  preload : Nat := 0
deriving DecidableEq, Repr

/-! ## The state -/

/-- The whole machine. `now` is the model's clock in ns since reset, `freeCtr` counts the free values used. `held` keeps, for
a register written since, the value that stays in force until its change takes effect (R65, R116 and the like), `flagNow` the `W1C` flags, as address
and bit, that hardware set at the present instant: a write that clears them now loses (R14). -/
structure State where
  variant : Variant
  pending : List Instr
  now : Nat
  freeCtr : Nat
  regs : Tbl Word
  held : Tbl (Option Word)
  flagNow : List (Nat × Nat)
  sys : Sys
  ports : Tbl PortSt
  recorder : Recorder
  time : TimeBase
  plan : Plan
  arb : Arb
  emit : Emit
  rej : Rej
  wag : Wag
  rx : Rx
  tdc : Tdc
  combs : Tbl CombSt
  det : Det
  sync : Sync
  cap : Cap
  aux : Aux
  cal : Cal
  boot : Boot
  power : Power
  tap : Tap
  lanes : Tbl LaneSt
  streams : Streams
  red : Red
deriving DecidableEq, Repr

/-- The machine right after reset (R472, R480): every register at its reset value, every table empty. -/
def State.reset : State where
  variant := .nl5_512
  pending := []
  now := 0
  freeCtr := 0
  regs := ⟨[]⟩
  held := ⟨[]⟩
  flagNow := []
  sys := {}
  ports := ⟨[]⟩
  recorder := {}
  time := {}
  plan := {}
  arb := {}
  emit := {}
  rej := {}
  wag := {}
  rx := {}
  tdc := {}
  combs := ⟨[]⟩
  det := {}
  sync := {}
  cap := {}
  aux := {}
  cal := {}
  boot := {}
  power := {}
  tap := {}
  lanes := ⟨[]⟩
  streams := {}
  red := {}

/-- Why a command stops with a fault: no command of the block does, so there is no reason. -/
inductive Fault where
deriving DecidableEq, Repr

/-- Why a command is refused: it has no meaning yet (`notModelled`); safe. -/
inductive Refusal where
  | notModelled (mnemonic : String)
deriving DecidableEq, Repr

end Sys2Proof.Machine
end

