-- ==== Sys2Proof/Machine/Table.lean ====
section
/-!
DEFINITION. Machine/Table.lean: reading and writing a sparse table. `d` is what an unlisted index holds.
-/

namespace Sys2Proof

/-- The content listed at index `k`, if any. -/
def lookupL {α : Type} : List (Nat × α) → Nat → Option α
  | [], _ => none
  | (a, v) :: r, k => if a = k then some v else lookupL r k

/-- List `v` at index `k`, keeping the order of indices. -/
def insertL {α : Type} (k : Nat) (v : α) : List (Nat × α) → List (Nat × α)
  | [] => [(k, v)]
  | (a, w) :: r => if k < a then (k, v) :: (a, w) :: r else if k = a then (k, v) :: r else (a, w) :: insertL k v r

/-- Take index `k` out of the list. -/
def eraseL {α : Type} (k : Nat) : List (Nat × α) → List (Nat × α)
  | [] => []
  | (a, w) :: r => if a = k then eraseL k r else (a, w) :: eraseL k r

/-- The content at index `k`. -/
def Tbl.get {α : Type} (d : α) (t : Tbl α) (k : Nat) : α := (lookupL t.entries k).getD d

/-- The table with `v` at index `k`; writing what an unlisted index holds takes the pair out. -/
def Tbl.set {α : Type} [DecidableEq α] (d : α) (t : Tbl α) (k : Nat) (v : α) : Tbl α :=
  if v = d then ⟨eraseL k t.entries⟩ else ⟨insertL k v t.entries⟩

/-- Canonical form: indices strictly rising and no pair that holds the default of its index. -/
def wfL {α : Type} [DecidableEq α] (d : Nat → α) : List (Nat × α) → Bool
  | [] => true
  | [(a, v)] => decide (v ≠ d a)
  | (a, v) :: (b, w) :: r => decide (v ≠ d a) && decide (a < b) && wfL d ((b, w) :: r)

/-- Canonical form of a table whose unlisted index `k` holds `d k`. -/
def Tbl.wf {α : Type} [DecidableEq α] (d : Nat → α) (t : Tbl α) : Bool := wfL d t.entries

end Sys2Proof
end

