-- ==== Sys2Proof/Machine/Ops.lean ====
section
/-!
DEFINITION. Machine/Ops.lean: the named operations over the state that every chapter shares: registers, flags and
counters, ports, events and replies (chapter 15), recorder posts (chapter 20), health and `SAFE_STATE_N` (chapter 17).
-/

namespace Sys2Proof.Machine

/-! ## Registers -/

/-- The register at an address. -/
def State.rd (s : State) (a : Nat) : Word := s.regs.get (regReset s.variant a) a

/-- The state with a register set. -/
def State.wr (s : State) (a : Nat) (v : Word) : State :=
  { s with regs := s.regs.set (regReset s.variant a) a v }

/-- Field [hi:lo] of a register. -/
def State.f (s : State) (a hi lo : Nat) : Nat := bitsOf (s.rd a) hi lo

/-- Field [hi:lo] of a register, read as two's complement. -/
def State.fs (s : State) (a hi lo : Nat) : Int := signed (hi + 1 - lo) (s.f a hi lo)

/-- Set field [hi:lo] of a register. -/
def State.setF (s : State) (a hi lo v : Nat) : State := s.wr a (withBits (s.rd a) hi lo v)

/-- Set a whole register to a number (cut to 32 bits). -/
def State.setR (s : State) (a v : Nat) : State := s.wr a (BitVec.ofNat 32 v)

/-- The whole register as a number. -/
def State.r (s : State) (a : Nat) : Nat := (s.rd a).toNat

/-- Add to field [hi:lo] of a register, saturating at the field's limit. -/
def State.addF (s : State) (a hi lo n : Nat) : State :=
  s.setF a hi lo (min (s.f a hi lo + n) (2 ^ (hi + 1 - lo) - 1))

/-- Add to a 32-bit count, saturating at 0xFFFF_FFFF. -/
def State.add (s : State) (a n : Nat) : State := s.setR a (min (s.r a + n) 0xFFFFFFFF)

/-- Count one. -/
def State.inc (s : State) (a : Nat) : State := s.add a 1

/-- Bit i of a register. -/
def State.bit (s : State) (a i : Nat) : Bool := (s.rd a).getLsbD i

/-- Set or clear bit i of a register. -/
def State.setBit (s : State) (a i : Nat) (b : Bool) : State := s.setF a i i (b2n b)

/-- Hardware sets flag i of a `W1C` register, and wins over a write that clears it at the same instant (R14). -/
def State.flag (s : State) (a i : Nat) : State := { s.setBit a i true with flagNow := (a, i) :: s.flagNow.filter (· != (a, i)) }

/-- The flags of a `W1C` register that hardware set at this instant (R14), as a mask. -/
def State.flagsNow (s : State) (a : Nat) : Word :=
  (s.flagNow.filter (·.1 == a)).foldl (fun m e => m ||| BitVec.ofNat 32 (2 ^ e.2)) 0

/-- A fresh free value, and the state that has used it. -/
def State.fresh (s : State) : Nat × State := (Config.freeNat s.freeCtr, { s with freeCtr := s.freeCtr + 1 })

/-- Fold a state update over a list. -/
def State.each {α : Type} (s : State) (l : List α) (g : State → α → State) : State := l.foldl g s

/-- Apply an update when a condition holds. -/
def State.when (s : State) (b : Bool) (g : State → State) : State := if b then g s else s

/-- A register as it is in force: the value before the last write while a change waits to take effect. -/
def State.eff (s : State) (a : Nat) : Word := (s.held.get none a).getD (s.rd a)

/-- Field [hi:lo] of a register as it is in force. -/
def State.ef (s : State) (a hi lo : Nat) : Nat := bitsOf (s.eff a) hi lo

/-- Keep the present value of a register in force until its change takes effect. -/
def State.hold (s : State) (a : Nat) : State :=
  match s.held.get none a with
  | some _ => s
  | none => { s with held := s.held.set none a (some (s.rd a)) }

/-- Written values take effect for the registers of a class. -/
def State.takeEffect (s : State) (cls : Nat → Bool) : State :=
  { s with held := ⟨s.held.entries.filter fun e => !cls e.1⟩ }

/-! ## Operating states -/

/-- The code of a state in `SYS_STATE` (R33). -/
def DevState.code : DevState → Nat
  | .reset => 0 | .boot => 1 | .standby => 2 | .armed => 3 | .sensing => 4 | .degraded => 5 | .calibrating => 6
  | .safe => 7 | .thermalStop => 8 | .faultHalt => 9

/-- R343 `any`: STANDBY to THERMAL_STOP. -/
def DevState.anyState (d : DevState) : Bool := decide (2 ≤ d.code ∧ d.code ≤ 8)

/-- SENSING or DEGRADED. -/
def DevState.emitting (d : DevState) : Bool := d == .sensing || d == .degraded

/-- R26: the states in which the mirror scans. -/
def DevState.scanning (d : DevState) : Bool := d == .armed || d == .sensing || d == .degraded || d == .calibrating

/-- The present operating state. -/
def State.dev (s : State) : DevState := s.sys.dev

/-! ## Supplies (R477, R480) -/

/-- R477: nominal values in µV, in the order of its table: `VDD_CORE`, `VDD_SRAM`, `VDD_DRAM`, `VDDQ_DRAM`, `VDD_AFE`, `VDD_HS_09`, `VDD_HS_12`, `VDD_IO`, `VDD_IO33`. -/
def nominalUv (k : Nat) : Nat := [750000, 850000, 1050000, 500000, 1800000, 900000, 1200000, 1800000, 3300000].getD k 0

/-- A rail as it stands, in µV. -/
def Power.rail (p : Power) (k : Nat) : Nat := (p.rails.get none k).getD (nominalUv k)

/-- R480: rail k below 90 % of nominal. -/
def Power.low (p : Power) (k : Nat) : Bool := decide (100 * p.rail k < 90 * nominalUv k)

/-! ## Ports (chapter 15) -/

def State.port (s : State) (p : Nat) : PortSt := s.ports.get {} p

def State.setPort (s : State) (p : Nat) (q : PortSt) : State := { s with ports := s.ports.set {} p q }

/-- Device time in µs, low 32 bits (R329 `TIME_US`). -/
def State.timeUs (s : State) : Nat := toUs s.time.dev % 2 ^ 32

/-- Whether pair k is formed (R324). -/
def State.pairFormed (s : State) (k : Nat) : Bool := s.red.pairs.get {} k |>.formed

/-- The port that speaks for lane port p: the lower port of a formed pair (R330). -/
def State.portOf (s : State) (p : Nat) : Nat := if p < 4 ∧ s.pairFormed (p / 2) then 2 * (p / 2) else p

/-- A port that exists: LP, or an enabled lane port that is not the upper port of a formed pair (R4, R330). -/
def State.portExists (s : State) (p : Nat) : Bool :=
  p == 4 || (decide (p < s.variant.lanes) && s.portOf p == p)

/-- The ports that exist. -/
def State.portList (s : State) : List Nat := [0, 1, 2, 3, 4].filter s.portExists

/-- Events waiting at a port. -/
def PortSt.events (q : PortSt) : Nat := (q.out.filter (·.isEvent)).length

/-- Non-mandatory events waiting at a port. -/
def PortSt.plainEvents (q : PortSt) : Nat := (q.out.filter (fun k => k.isEvent && !k.mandatory)).length

/-- `PORT_QUEUE_p` shows what waits (R357). -/
def State.syncPort (s : State) (p : Nat) : State :=
  let q := s.port p
  (s.setF (Reg.PORT_QUEUE p) 4 0 q.queue.length).setF (Reg.PORT_QUEUE p) 16 8 q.events

/-- R355, R482: the level of the ball `IRQ_N`: low while a packet waits for LP, high in RESET and BOOT. -/
def State.irqN (s : State) : Bool := s.dev == .reset || s.dev == .boot || (s.port 4).out.isEmpty

/-- Form a packet for a port: it takes the port's next `SEQ` (R330). A reply carries the `PORT` of its command (R333). -/
def State.formPkt (s : State) (p code tag : Nat) (isEvent mandatory : Bool) (status : Nat) (params : List Byte) (port : Nat := p) : State :=
  let q := s.port p
  let k : OutPkt := { port, opcode := code, tag, isEvent, mandatory, status, params, seq := q.nextSeq, timeUs := s.timeUs }
  (s.setPort p { q with out := q.out ++ [k], nextSeq := (q.nextSeq + 1) % 65536 }).syncPort p

/-- R349: the mandatory events. -/
def mandatoryEvent (code : Nat) : Bool :=
  code == Ev.STATE_CHANGED || code == Ev.TRANSITION_CANCELLED || code == Ev.LASER_SHUTDOWN || code == Ev.OWNER_CHANGED ||
    code == Ev.EVENTS_LOST || code == Ev.COMMAND_DONE || code == Ev.REGION_OUTCOME

/-- Queue one event for one port under R349 and R350. -/
def State.queueEvent (s : State) (p code tag status : Nat) (params : List Byte) : State :=
  let q := s.port p
  if mandatoryEvent code then
    if q.events < 256 ∧ q.held = [] then s.formPkt p code tag true true status params
    else s.setPort p { q with held := q.held ++ [⟨code, tag, status, params⟩] }
  else if !(s.rd (Reg.PORT_EVT_MASK p)).getLsbD (code / 256) then s
  else if q.plainEvents < 240 ∧ q.events < 256 then s.formPkt p code tag true false status params
  else
    let s := s.setPort p { q with lost := q.lost + 1, firstLost := if q.lost = 0 then code else q.firstLost }
    (s.inc (Reg.PORT_EVT_DROP p)).flag Reg.CMD_FLAGS 3

/-- R350: what a freed place of a port's event queue takes first: `EVENTS_LOST` when events were dropped, then the
mandatory events that the supervisor held, oldest first. -/
def State.refillEvents (s : State) (p : Nat) : State :=
  let q := s.port p
  if 256 ≤ q.events then s
  else if 0 < q.lost then
    let s1 := s.setPort p { q with lost := 0, firstLost := 0 }
    s1.formPkt p Ev.EVENTS_LOST 0 true true 0 (leBytes 4 q.lost ++ leBytes 2 q.firstLost ++ leBytes 2 0)
  else
    match q.held with
    | [] => s
    | h :: hs => (s.setPort p { q with held := hs }).formPkt p h.code h.tag true true h.status h.params

/-- The Scope column of R351. -/
inductive Scope where
  | all | sub | own (p : Nat) | others (p : Nat)
deriving DecidableEq, Repr

/-- R330: a packet of port p that had its `SEQ` is not sent: those not sent yet move up, and no gap appears. -/
def State.seqBack (s : State) (p : Nat) : State :=
  let q := s.port p
  (s.setPort p { q with out := q.out.map (fun k => { k with seq := (k.seq + 65535) % 65536 }), nextSeq := (q.nextSeq + 65535) % 65536 }).syncPort p

/-- Take the next reply or event of a port out of its queue; a freed event place is refilled (R350). -/
def State.popOut (s : State) (p : Nat) : State :=
  let q := s.port p
  match q.out with
  | [] => s
  | k :: ks =>
    let s := (s.setPort p { q with out := ks }).syncPort p
    if k.isEvent then (s.refillEvents p).refillEvents p else s

/-- Whether a port holds a point subscription (R351 scope `sub`). -/
def State.hasPointSub (s : State) (p : Nat) : Bool := s.streams.subs.entries.any fun e => e.2.port == p && e.2.kind == 2

/-- The ports that a scope names. -/
def State.scopePorts (s : State) : Scope → List Nat
  | .all => s.portList
  | .sub => s.portList.filter s.hasPointSub
  | .own p => [s.portOf p]
  | .others p => s.portList.filter (· != s.portOf p)

/-- Raise an event (R349). -/
def State.raise (s : State) (code : Nat) (sc : Scope) (params : List Byte) : State :=
  s.each (s.scopePorts sc) fun s p => s.queueEvent p code 0 0 params

/-- `COMMAND_DONE` for a running command (R336, R352). -/
def State.commandDone (s : State) (d : DoneCmd) (status detail : Nat) : State :=
  s.queueEvent d.port Ev.COMMAND_DONE d.tag status (leBytes 2 d.opcode ++ leBytes 2 0 ++ leBytes 4 detail)

/-- End the running command of an opcode, if one runs, with `COMMAND_DONE`. -/
def State.finish (s : State) (opcode status detail : Nat) : State :=
  match s.sys.running.find? (·.opcode == opcode) with
  | none => s
  | some d => ({ s with sys := { s.sys with running := s.sys.running.filter (· != d) } }).commandDone d status detail

/-! ## Recorder posts (chapter 20) -/

/-- Post an entry into the recorder's queue; one that finds 32 entries waiting is dropped and counted (R454). -/
def State.post (s : State) (code arg : Nat) : State :=
  if s.recorder.queue.length < 32 then
    { s with recorder := { s.recorder with queue := s.recorder.queue ++ [⟨code, arg % 65536, s.timeUs⟩] } }
  else
    (({ s with recorder := { s.recorder with dropped := s.recorder.dropped + 1 } }).inc Reg.REC_DROPPED).flag
      Reg.REC_FLAGS 0

/-- Post an entry that is written at most once per frame for each value of its index (R457). -/
def State.postOnce (s : State) (code idx arg : Nat) : State :=
  if s.recorder.frameOnce.contains (code, idx) then s
  else ({ s with recorder := { s.recorder with frameOnce := (code, idx) :: s.recorder.frameOnce } }).post code arg

/-! ## Roles (R338 to R341) -/

/-- The codes of `PORT_ROLES` (R357). -/
inductive Role where
  | observer | client | owner | safety | absent
deriving DecidableEq, Repr

def Role.code : Role → Nat
  | .observer => 0 | .client => 1 | .owner => 2 | .safety => 3 | .absent => 15

/-- The role of a port. -/
def State.role (s : State) (p : Nat) : Role :=
  match s.f Reg.PORT_ROLES (4 * p + 3) (4 * p) with
  | 0 => .observer | 1 => .client | 2 => .owner | 3 => .safety | _ => .absent

def State.setRole (s : State) (p : Nat) (r : Role) : State := s.setF Reg.PORT_ROLES (4 * p + 3) (4 * p) r.code

/-- The port that owns, if any (`OWNER_INFO`). -/
def State.owner (s : State) : Option Nat :=
  if s.bit Reg.OWNER_INFO 3 then some (s.f Reg.OWNER_INFO 2 0) else none

/-- `DEFAULT_ROLE` of a lane port (R357). -/
def State.defaultRole (s : State) (p : Nat) : Role := if s.bit Reg.PORT_ROLE_CFG (8 * p) then .client else .observer

/-- A change of owner: the registers, the recorder's entry and `OWNER_CHANGED` on every port (R340, R352, R457). -/
def State.setOwner (s : State) (new : Option Nat) (reason : Nat) : State :=
  let old := s.owner
  let s := match old with
    | some p => s.setRole p (s.defaultRole p)
    | none => s
  let s := match new with
    | some p => ((s.setRole p .owner).setF Reg.OWNER_INFO 2 0 p).setBit Reg.OWNER_INFO 3 true
    | none => (s.setF Reg.OWNER_INFO 2 0 0).setBit Reg.OWNER_INFO 3 false
  let s := (s.setF Reg.OWNER_INFO 15 8 reason).addF Reg.OWNER_INFO 31 16 1
  let b0 := new.getD 0 + 8 * b2n new.isSome + 16 * old.getD 0 + 128 * b2n old.isSome
  (s.post Rec.OWNER (b0 + 256 * reason)).raise Ev.OWNER_CHANGED .all
    (leBytes 1 b0 ++ leBytes 1 reason ++ leBytes 2 (s.f Reg.OWNER_INFO 31 16))

/-! ## Health and SAFE_STATE_N (chapter 17) -/

/-- Set one bit of `HEALTH_SUMMARY`; a change raises `HEALTH_CHANGED` with the old and the new summary (R406). -/
def State.setHealth (s : State) (i : Nat) (b : Bool) : State :=
  if s.bit Reg.HEALTH_SUMMARY i == b then s
  else
    let old := s.r Reg.HEALTH_SUMMARY
    let s := s.setBit Reg.HEALTH_SUMMARY i b
    s.raise Ev.HEALTH_CHANGED .all (leBytes 4 old ++ leBytes 4 (s.r Reg.HEALTH_SUMMARY))

/-- R401: whether a hold condition stands on `SAFE_STATE_N` (bits 2 to 5 of `SSN_STATUS`). -/
def State.ssnHeld (s : State) : Bool := s.f Reg.SSN_STATUS 5 2 != 0

/-- Set a hold bit of `SSN_STATUS`; while any stands the NL5 drives the ball low (R401). The ball then reads low. -/
def State.ssnHold (s : State) (i : Nat) (b : Bool) : State :=
  let driven := s.bit Reg.SSN_STATUS 0
  let s := s.setBit Reg.SSN_STATUS i b
  if b then
    let s := (s.setBit Reg.SSN_STATUS 0 true).setBit Reg.SSN_STATUS 1 true
    if driven then s else { s with red := { s.red with ssnHighAt := none } }
  else s

/-- R401: release `SAFE_STATE_N` if no hold condition stands. -/
def State.ssnRelease (s : State) : State :=
  if s.ssnHeld then s
  else
    let s := (s.setBit Reg.SSN_STATUS 0 false).setBit Reg.SSN_STATUS 1 s.red.ssnExtLow
    { s with red := { s.red with ssnHighAt := none } }

/-- Count a memory error of store x (R23, R406): corrected in [15:0], uncorrectable in [31:16]. -/
def State.eccCount (s : State) (x : Nat) (uncorrectable : Bool) : State :=
  if uncorrectable then ((s.addF (Reg.ECC x) 31 16 1).post Rec.ECC x).setHealth 5 true
  else s.addF (Reg.ECC x) 15 0 1

end Sys2Proof.Machine
end

