-- ==== Sys2Proof/Machine/PlanOps.lean ====
section
/-!
DEFINITION. Machine/PlanOps.lean: scan planning (chapter 2) as operations: columns and segments, the Scan Cell Table, track
contexts, merging of cells, expected demand and column durations, and the allocation of shots.
-/

namespace Sys2Proof.Machine

/-! ## Columns and segments -/

/-- `COLUMNS` (R65). -/
def State.columns (s : State) : Nat := s.f Reg.PLAN_CTRL 10 0

/-- `PLAN_FRAME_NUMBER` (R65). -/
def State.frameNo (s : State) : Nat := s.r Reg.PLAN_FRAME_NUMBER

/-- R36: the column at index i of the sweep of frame fr; the map is its own inverse. -/
def sweepCol (n fr i : Nat) : Nat := if fr % 2 = 0 then i else n - 1 - i

/-- The key of a column of a frame; frames are told apart modulo 4. -/
def colKey (fr j : Nat) : Nat := fr % 4 * 2048 + j

/-- The key of a point: one channel in one column (R18). -/
def ptKey (key ch : Nat) : Nat := key * 512 + ch

/-- The channels that a segment serves (R37). -/
def State.segChannels (s : State) (g : Nat) : List Nat :=
  (List.range (s.f (Reg.SEG_MAP_A g) 20 16)).map (s.f (Reg.SEG_MAP_A g) 8 0 + ·)

/-- The segment that serves a channel, if any (R37). -/
def State.segOfChan (s : State) (ch : Nat) : Option Nat := (List.range 64).find? fun g => (s.segChannels g).contains ch

/-- R37: the segments do not share a channel and name none beyond the variant. -/
def segMapOk (v : Variant) (m : List (Nat × Nat)) : Bool :=
  let used := m.filter (fun e => e.2 != 0)
  used.all (fun e => decide (e.1 + e.2 ≤ v.channels)) &&
    decide ((used.map fun e => (List.range e.2).map (e.1 + ·)).flatten.Nodup)

/-- A lost tile, or a locked one, which is treated as lost (R110, R114). -/
def State.tileLost (s : State) (t : Nat) : Bool := s.bit Reg.EMIT_STATUS (16 + t) || s.bit Reg.EMIT_STATUS (24 + t)

/-- `RX_CH_n.STATE` (R163). -/
def State.chanState (s : State) (ch : Nat) : Nat := s.f (Reg.RX_CH ch) 10 8

/-- A register that waits for a frame boundary (R65, R116), as frame fr finds it: a frame still to come is planned from what was written. -/
def State.planF (s : State) (fr a hi lo : Nat) : Nat := if wrapSub 32 s.frameNo fr < 2 ^ 31 then s.ef a hi lo else s.f a hi lo

/-- R38: a segment that is disabled in frame fr, or lies on a lost tile. -/
def State.segOff (s : State) (fr g : Nat) : Bool :=
  bitN (s.planF fr (if g < 32 then Reg.SEG_DISABLE_LO else Reg.SEG_DISABLE_HI) 31 0) (g % 32) || s.tileLost (g / 8)

/-- R38: a segment that serves only channels in lost combs or in `BIAS_FAULT`. -/
def State.segOut (s : State) (g : Nat) : Bool := (s.segChannels g).all fun ch => s.bit Reg.RX_COMB_LOST (ch / 16) || s.chanState ch == 2

/-- R38: a segment for which nothing is planned in frame fr. -/
def State.segExcluded (s : State) (fr g : Nat) : Bool := s.segOff fr g || s.segOut g

/-- The channels of segments that serve only lost combs (1) or `BIAS_FAULT` (2): their points carry the reason (R38). -/
def State.outChannels (s : State) : List (Nat × Nat) :=
  ((List.range 64).filter s.segOut).flatMap fun g =>
    (s.segChannels g).map fun ch => (ch, if s.bit Reg.RX_COMB_LOST (ch / 16) then 1 else 2)

/-- P of R51, in 10 ns: `FRAME_STATUS.P`, whole µs (DESIGN CHOICE: log entry 107). -/
def State.period (s : State) : Nat := s.f Reg.FRAME_STATUS 23 0 * 100

/-- Columns of 20-bit angles in 1/2048° (R36). -/
def State.colAz (s : State) (j : Nat) : Int := s.fs Reg.PLAN_AZ_FIRST 19 0 + j * s.f Reg.PLAN_AZ_STEP 15 0

/-- `RATE_LIMIT` as the planner uses it: at most the number of grid slots in `SWARM_SLOT_MASK` (R279). -/
def State.rateLimit (s : State) : Nat := min (s.f Reg.PLAN_SHOT_RATE 7 0) (popCount 16 (s.ef Reg.SWARM_SLOT_MASK 15 0))

/-! ## Scan Cell Table (R39 to R42) -/

/-- An unwritten table entry of 32 bytes. -/
def blank32 : List Byte := List.replicate 32 0

/-- Bank 0 or 1 of the Scan Cell Table. -/
def State.sctBank (s : State) (bank : Nat) : Tbl (List Byte) := if bank = 0 then s.plan.sctA else s.plan.sctB

def State.setSctBank (s : State) (bank : Nat) (t : Tbl (List Byte)) : State :=
  if bank = 0 then { s with plan := { s.plan with sctA := t } } else { s with plan := { s.plan with sctB := t } }

def State.sctActive (s : State) : Nat := s.f Reg.SCT_STATUS 0 0

def State.sctEntry (s : State) (bank i : Nat) : List Byte := (s.sctBank bank).get blank32 i

/-- The reserved fields of an entry are zero and its class is known (check 0x07 of R41). `ZONE_ID`, "otherwise 0" in R39, counts as a reserved field
of a `BACKGROUND` entry (DESIGN CHOICE: log entry 77). -/
def sctReservedOk (e : List Byte) : Bool :=
  decide (fieldAt e 0 1 ≤ 1) && fieldBits e 1 1 7 3 == 0 && fieldBits e 2 2 15 11 == 0 && fieldBits e 4 2 15 11 == 0 &&
    fieldBits e 17 1 7 4 == 0 && fieldBits e 24 1 7 4 == 0 && fieldAt e 25 1 == 0 && fieldAt e 28 4 == 0 &&
    (fieldAt e 0 1 == 1 || fieldAt e 26 2 == 0)

/-- Checks 0x01 to 0x04 of one entry (R41), given the `FIRST_COL` before it; 0 when they pass. -/
def sctCheckHead (n prev : Nat) (e : List Byte) : Nat :=
  let first := fieldBits e 2 2 10 0
  let last := fieldBits e 4 2 10 0
  if first < prev then 1
  else if ¬ (first ≤ last ∧ last < n) then 2
  else if ¬ (1 ≤ fieldAt e 6 1 ∧ fieldAt e 6 1 ≤ fieldAt e 7 1 ∧ fieldAt e 7 1 ≤ 64) then 3
  else if ¬ (1 ≤ fieldAt e 16 1 ∧ fieldAt e 16 1 ≤ 8) then 4
  else 0

/-- Checks 0x07 and 0x08 of one entry (R41); 0 when they pass. -/
def sctCheckTail (e : List Byte) : Nat :=
  if !sctReservedOk e then 7 else if ¬ (10 ≤ fieldAt e 18 2 ∧ fieldAt e 18 2 ≤ 25000) then 8 else 0

/-- Add one to the coverage count of columns a to b. -/
def coverAdd (l : List Nat) (a b : Nat) : List Nat := l.mapIdx fun j c => if a ≤ j ∧ j ≤ b then c + 1 else c

/-- Raise the zone demand of the segment-columns that an entry covers to its `MIN_SHOTS`; the demand is a list over
columns of lists over segments (check 0x06 of R41). -/
def zoneAdd (l : List (List Nat)) (e : List Byte) : List (List Nat) :=
  l.mapIdx fun j row =>
    if fieldBits e 2 2 10 0 ≤ j ∧ j ≤ fieldBits e 4 2 10 0 then
      row.mapIdx fun g d => if bitN (fieldAt e 8 8) g then max d (fieldAt e 6 1) else d
    else row

/-- R41: run the checks over entries in index order; the first failed check and its index. `cap` is the frame capacity in
1/5 shot, `cov` and `dem` are the coverage and the zone demand of the entries before. -/
def sctCheck (n cap : Nat) : List (List Byte) → Nat → Nat → List Nat → List (List Nat) → Option (Nat × Nat)
  | [], _, _, _, _ => none
  | e :: es, i, prev, cov, dem =>
    let h := sctCheckHead n prev e
    if h ≠ 0 then some (h, i)
    else
      let cov := coverAdd cov (fieldBits e 2 2 10 0) (fieldBits e 4 2 10 0)
      if cov.any (64 < ·) then some (5, i)
      else
        let dem := if fieldAt e 0 1 = 1 then zoneAdd dem e else dem
        if fieldAt e 0 1 = 1 ∧ cap < 5 * ((dem.map (·.sum)).sum) then some (6, i)
        else
          let t := sctCheckTail e
          if t ≠ 0 then some (t, i) else sctCheck n cap es (i + 1) (fieldBits e 2 2 10 0) cov dem

/-- Frame capacity at θ = 1 in shots: (P − `FRAME_RESERVE`) × `RATE_LIMIT` (R41, R78). -/
def State.fullCapacity (s : State) : Nat :=
  (s.period - s.f Reg.PLAN_EDGE 31 16) * s.rateLimit / 100

/-- R41 on the shadow bank. -/
def State.sctValidate (s : State) (count : Nat) : Option (Nat × Nat) :=
  let n := s.columns
  sctCheck n s.fullCapacity ((List.range count).map (s.sctEntry (1 - s.sctActive))) 0 0
    (List.replicate n 0) (List.replicate n (List.replicate 64 0))

/-! ## Track contexts (R43 to R47) -/

/-- An unwritten track context of 64 bytes. -/
def blank64 : List Byte := List.replicate 64 0

def State.track (s : State) (i : Nat) : List Byte := s.plan.tracks.get blank64 i

/-- `TRACK_COUNT` (R65) counts the contexts not free and those confirmed. -/
def State.syncTrackCount (s : State) : State :=
  let st := s.plan.tracks.entries.map fun e => fieldAt e.2 2 1
  (s.setF Reg.TRACK_COUNT 12 0 (st.filter (· != 0)).length).setF Reg.TRACK_COUNT 28 16 (st.filter (· == 2)).length

def State.setTrack (s : State) (i : Nat) (e : List Byte) : State :=
  ({ s with plan := { s.plan with tracks := s.plan.tracks.set blank64 i e } }).syncTrackCount

/-- Replace `n` bytes at offset `o` of a byte list by a number (R9). -/
def putBytes (e : List Byte) (o n v : Nat) : List Byte := e.take o ++ leBytes n v ++ e.drop (o + n)

/-- R44, R249, R15: a context as it is kept: its reserved bits are 0, and its angles carry their sign. -/
def trackFields (e : List Byte) : List Byte :=
  let angle (e : List Byte) (o : Nat) : List Byte := putBytes e o 4 (wrapNat 32 (signed 20 (fieldBits e o 4 19 0)))
  let e := putBytes (angle (angle e 8) 12) 3 1 (fieldBits e 3 1 1 0)
  let e := putBytes (putBytes (putBytes e 16 4 (fieldBits e 16 4 23 0)) 40 1 (fieldBits e 40 1 3 0)) 46 2 0
  putBytes (putBytes e 59 1 (fieldBits e 59 1 1 0)) 60 4 0

/-- R47: one host write of a context, at a column boundary: it increments `GEN` and marks the context host loaded. A context that it frees
ends with cause `HOST` (R370). -/
def State.hostTrackWrite (s : State) (i : Nat) (e : List Byte) : State :=
  let old := s.track i
  let gen := (fieldAt old 0 2 + 1 + fieldAt e 0 2) % 65536
  let s := s.setTrack i (trackFields (putBytes (putBytes e 0 2 gen) 3 1 (setBitN (fieldAt e 3 1) 0 true)))
  if fieldAt old 2 1 = 0 then { s with det := { s.det with origin := s.det.origin.set (0, false) i (s.timeUs, false) } }
  else if fieldAt e 2 1 = 0 then
    ({ s with det := { s.det with ended := s.det.ended ++ [(i, 4, old)] } }).inc Reg.TRK_ENDED
  else { s with det := { s.det with changed := if s.det.changed.contains i then s.det.changed else i :: s.det.changed } }

/-- R47: the host writes waiting take effect at a column boundary. -/
def State.applyHostTracks (s : State) : State :=
  let w := s.plan.hostWrites.entries
  ({ s with plan := { s.plan with hostWrites := ⟨[]⟩ } }).each w fun s e => s.hostTrackWrite e.1 e.2

/-- Device time in µs at which frame fr starts or is expected to (R45). -/
def State.frameStartUs (s : State) (fr : Nat) : Nat :=
  toUs s.plan.frameTime + (if fr = s.frameNo then 0 else s.f Reg.FRAME_STATUS 23 0)

/-- The µs from a stamp's low 32 bits to a time in µs, as two's complement (DESIGN CHOICE: log entry 53). -/
def usSince (us stamp : Nat) : Int := signed 32 (wrapSub 32 us stamp)

/-- The frame before frame fr. -/
def prevFrame (fr : Nat) : Nat := wrapSub 32 fr 1

/-- R46: a cell of track i was dropped from a column of frame fr. -/
def State.droppedIn (s : State) (fr i : Nat) : Bool := s.plan.dropped.any fun d => d.1 == fr && d.2 % 4096 == i

/-- R45, R46: a track that is due in frame fr. -/
def State.trackDue (s : State) (fr i : Nat) : Bool :=
  let e := s.track i
  decide (1 ≤ fieldAt e 2 1 ∧ fieldAt e 2 1 ≤ 4) &&
    (decide ((fieldAt e 36 2 * 1000 : Int) ≤ usSince (s.frameStartUs fr) (fieldAt e 4 4) + s.f Reg.FRAME_STATUS 23 0 / 2) ||
      s.droppedIn (prevFrame fr) i)

/-- The position of a context at a device time in µs: azimuth and elevation in 1/2048° (R44, R45). -/
def trackAt (e : List Byte) (us : Nat) : Int × Int :=
  let dt := usSince us (fieldAt e 4 4)
  (signed 20 (fieldAt e 8 4) + divRound (signed 16 (fieldAt e 20 2) * 32 * dt) 1000000,
   signed 20 (fieldAt e 12 4) + divRound (signed 16 (fieldAt e 22 2) * 32 * dt) 1000000)

/-- The planned time of column j of frame fr in µs: its share of the period. DESIGN CHOICE: log entry 21. -/
def State.plannedUs (s : State) (fr j : Nat) : Nat :=
  s.frameStartUs fr + sweepCol s.columns fr j * s.f Reg.FRAME_STATUS 23 0 / s.columns

/-- R45: the segments of column j that the cell of track i covers in frame fr, as a mask; 0 when the column is not covered. -/
def State.trackMask (s : State) (fr j i : Nat) : Nat :=
  let e := s.track i
  let m : Int := s.planF fr Reg.PLAN_TRACK_POLICY 23 16
  let p := trackAt e (s.plannedUs fr j)
  let wa : Int := 4 * fieldAt e 26 2 + m * fieldAt e 30 2
  let we : Int := 4 * fieldAt e 28 2 + m * fieldAt e 32 2
  if 4 * (s.colAz j - p.1) ≤ wa ∧ 4 * (p.1 - s.colAz j) ≤ wa then
    (List.range 64).foldl (fun k g =>
      let c := s.fs (Reg.SEG_MAP_B g) 19 0
      let h : Int := s.f (Reg.SEG_MAP_A g) 31 21
      if 4 * (c - p.2) ≤ we + 4 * h ∧ 4 * (p.2 - c) ≤ we + 4 * h then k + 2 ^ g else k) 0
  else 0

/-! ## Cells and merging (R48) -/

/-- The order of R48: class rank, then `PRIORITY`, then the lower index. -/
def Cell.before (a b : Cell) : Bool :=
  decide (b.rank < a.rank ∨ (a.rank = b.rank ∧ (b.prio < a.prio ∨ (a.prio = b.prio ∧ a.idx < b.idx))))

/-- The first cell of the order. -/
def topCell : List Cell → Option Cell
  | [] => none
  | c :: cs => match topCell cs with
    | none => some c
    | some d => if d.before c then some d else some c

/-- An entry of the active bank as a cell; one with an uncorrectable error counts as background (R23). -/
def sctCell (e : List Byte) (i : Nat) (ecc : Bool) : Cell :=
  let zone := fieldAt e 0 1 == 1 && !ecc
  { rank := if zone then 4 else 0, prio := fieldBits e 24 1 3 0, idx := i, min := fieldAt e 6 1, max := fieldAt e 7 1,
    batch := fieldAt e 16 1, range := fieldAt e 18 2, estop := bitN (fieldAt e 1 1) 0, empty := bitN (fieldAt e 1 1) 1,
    profile := fieldBits e 17 1 3 0, voff := if bitN (fieldAt e 1 1) 2 then some (signed 16 (fieldAt e 22 2)) else none,
    zone := if zone then some (fieldAt e 26 2) else none, segs := fieldAt e 8 8 }

/-- R39: an entry covers column j and is due in frame fr. -/
def sctDue (e : List Byte) (fr j : Nat) : Bool :=
  decide (fieldBits e 2 2 10 0 ≤ j ∧ j ≤ fieldBits e 4 2 10 0 ∧ fr % max 1 (fieldAt e 20 1) = fieldAt e 21 1)

/-- R394: the next frame is planned from its start: no takeover stands in the way of a swap at the next frame boundary. -/
def State.plansNextFrame (s : State) : Bool :=
  match s.red.takeover with
  | none => true
  | some k =>
    match k.resume with
    | none => false
    | some key => key / 2048 == s.frameNo % 4 || key == colKey (s.frameNo + 1) (sweepCol s.columns (s.frameNo + 1) 0)

/-- R42, R394: the Scan Cell Table banks swap at the next frame boundary. -/
def State.sctSwaps (s : State) : Bool := s.bit Reg.SCT_STATUS 1 && !s.plan.commitLate && s.plansNextFrame

/-- The due entries over column j of frame fr; columns of the next frame are planned from the table that its boundary makes active (R42). -/
def State.sctCells (s : State) (fr j : Nat) : List Cell :=
  let next := fr != s.frameNo && s.sctSwaps
  (List.range (if next then s.plan.commitCount else s.r Reg.SCT_ACTIVE_COUNT)).filterMap fun i =>
    let e := s.sctEntry (if next then 1 - s.sctActive else s.sctActive) i
    if sctDue e fr j then some (sctCell e i (fr == s.frameNo && s.plan.eccEntries.contains i)) else none

/-- Insert by an order. -/
def insertBy {α : Type} (lt : α → α → Bool) (x : α) : List α → List α
  | [] => [x]
  | y :: ys => if lt x y then x :: y :: ys else y :: insertBy lt x ys

/-- Sort by an order. -/
def sortBy {α : Type} (lt : α → α → Bool) (l : List α) : List α := l.foldr (insertBy lt) []

/-- The due tracks that cover column j, best first (R46). -/
def State.trackOrder (s : State) (fr j : Nat) : List Nat :=
  let due := s.plan.tracks.entries.filterMap fun e => if s.trackDue fr e.1 && s.trackMask fr j e.1 != 0 then some e.1 else none
  sortBy (fun a b =>
    let pa := fieldBits (s.track a) 40 1 3 0
    let pb := fieldBits (s.track b) 40 1 3 0
    let da := s.droppedIn (prevFrame fr) a
    let db := s.droppedIn (prevFrame fr) b
    decide (pb < pa) || (pa == pb && ((da && !db) || (da == db && decide (a < b))))) due

/-- `MAX_TRACK_CELLS` in frame fr, 1 to 64 (R65). -/
def State.maxTrackCells (s : State) (fr : Nat) : Nat := s.planF fr Reg.PLAN_TRACK_POLICY 15 8

/-- R45: the cell of track i over column j. `MAX_RANGE` is in 0.01 m. -/
def State.trackCell (s : State) (fr j i : Nat) : Cell :=
  let e := s.track i
  let m := s.planF fr Reg.PLAN_TRACK_POLICY 23 16
  { rank := 2, prio := fieldBits e 40 1 3 0, idx := i, min := fieldAt e 38 1, max := fieldAt e 39 1,
    batch := s.planF fr Reg.PLAN_TRACK_POLICY 3 0,
    range := min 25000 ((4 * fieldBits e 16 4 23 0 + 10 * m * fieldAt e 34 2 + 399) / 400 + 1000),
    estop := true, empty := false, profile := s.planF fr Reg.PLAN_TRACK_POLICY 7 4, segs := s.trackMask fr j i }

def State.trackCells (s : State) (fr j : Nat) : List Cell :=
  ((s.trackOrder fr j).take (s.maxTrackCells fr)).map (s.trackCell fr j)

/-- Request stream i. -/
def State.stream (s : State) (i : Nat) : Stream := s.arb.streams.get {} i

/-- R67: the rank of a stream: 4 × `PORT_PRIO` + `SUB_PRIO`. -/
def State.streamRank (s : State) (i : Nat) : Nat := 4 * s.f (Reg.ARB_PORT (i / 6)) 2 0 + (s.stream i).subPrio

/-- R77: whether a pass of an admitted request is due in frame fr. -/
def Stream.passDue (x : Stream) (fr : Nat) : Bool :=
  match x.req with
  | none => false
  | some q =>
    if q.periodic then decide (wrapSub 32 fr x.admitFrame < 2 ^ 31) && wrapSub 32 fr x.admitFrame % max 1 q.revisit == 0 else fr == x.admitFrame

/-- A stream that holds its grant (R77). -/
def Stream.holder (x : Stream) : Bool := x.st == 3 || x.st == 4

/-- The host cells granted over column j in frame fr (R48, R49). Their `PRIORITY` is the rank of the grant and their index the stream (DESIGN CHOICE: log
entry 60). -/
def State.hostCells (s : State) (fr j : Nat) : List Cell :=
  (List.range 24).filterMap fun i =>
    let x := s.stream i
    match x.req with
    | none => none
    | some q =>
      if x.holder && x.passDue fr && decide (q.firstCol ≤ j ∧ j ≤ q.lastCol) then
        some { rank := 1, prio := x.heldRank, idx := i, seq := x.admitSeq, min := q.min, max := q.max, batch := q.batch, range := q.range,
               estop := q.estop, empty := q.empty, profile := q.profile, segs := q.segMask }
      else none

/-- The cells due over column j of frame fr, beside the host cells granted. The supervisor places no calibration cell of its own (log entry 22). -/
def State.cellsAt (s : State) (fr j : Nat) (hosts : List Cell) : List Cell := s.sctCells fr j ++ s.trackCells fr j ++ hosts

/-- R252: the due safety-zone cells over column j: zone and segment mask. -/
def State.coverAt (s : State) (fr j : Nat) : List (Nat × Nat) :=
  (s.sctCells fr j).filterMap fun c => c.zone.map fun z => (z, c.segs)

/-- The segments excluded in frame fr for a disabled segment or a lost tile (R38, `SEG_OFF` of R367). -/
def State.segsOff (s : State) (fr : Nat) : List Nat := (List.range 64).filter (s.segOff fr)

/-- R48: merge the cells of one segment-column. -/
def mergeCells (g : Nat) (cells : List Cell) : Option SegPol :=
  let cs := cells.filter fun c => bitN c.segs g
  match topCell cs with
  | none => none
  | some t =>
    let mn := (cs.map (·.min)).foldl max 0
    some {
      seg := g, rank := t.rank, prio := t.prio, min := mn, max := (cs.map (·.max)).foldl max 0,
      batch := (cs.map (·.batch)).foldl min t.batch, range := (cs.map (·.range)).foldl max 0, estop := t.estop,
      empty := t.empty, profile := t.profile, zones := (cs.filterMap (·.zone)).eraseDups,
      host := (cs.filter (·.rank == 1)).map fun c => (c.idx, c.seq), track := cs.any (·.rank == 2), first := mn }

/-- The merged policies of column j of frame fr, those of excluded segments too (R48). -/
def State.merged (s : State) (fr j : Nat) (hosts : List Cell) : List SegPol :=
  let cells := s.cellsAt fr j hosts
  (List.range 64).filterMap fun g => mergeCells g cells

/-- The policies of column j of frame fr before any reduction (R38, R48). -/
def State.policies (s : State) (fr j : Nat) (hosts : List Cell) : List SegPol :=
  (s.merged fr j hosts).filter fun p => !s.segExcluded fr p.seg

/-- The vertical offset of a column (R48). -/
def State.voffAt (s : State) (fr j : Nat) (hosts : List Cell) : Int :=
  match topCell ((s.cellsAt fr j hosts).filter (·.voff.isSome)) with
  | some c => c.voff.getD 0
  | none => 0

/-! ## Expected demand (R50) -/

/-- The expected demand of a segment-column of frame fr in 1/65,536 shot; of the frame that a bank swap makes the first of its table, `MIN_SHOTS`. -/
def State.expectOf (s : State) (fr j : Nat) (p : SegPol) : Nat :=
  if fr = (s.frameNo + 1) % 2 ^ 32 ∧ s.sctSwaps then p.min * 65536 else (s.plan.expect.get none (j * 64 + p.seg)).getD (p.min * 65536)

def State.setExpect (s : State) (j g e : Nat) : State :=
  { s with plan := { s.plan with expect := s.plan.expect.set none (j * 64 + g) (some e) } }

/-- R50: after a bank swap or a change of `COLUMNS` every segment-column starts again at `MIN_SHOTS`; columns of earlier frames still open teach it
nothing. -/
def State.resetExpect (s : State) : State :=
  { s with plan := { s.plan with expect := ⟨[]⟩, adj := ⟨[]⟩, expectFrom := s.frameNo } }

/-! ## Shortage (R58, R59) -/

/-- The largest x + y with y below 2^k for which `ok` holds, `ok` being monotone; x when none is. -/
def topBits : Nat → Nat → (Nat → Bool) → Nat
  | 0, x, _ => x
  | k + 1, x, ok => if ok (x + 2 ^ k) then topBits k (x + 2 ^ k) ok else topBits k x ok

/-- How a frame's demand is reduced: K of R59 (0: not even K = 8 fits), the number of selected background columns served
when K is 0, and the scales of background, host and track demand in 1/65,536. -/
structure Shortage where
  k : Nat := 1
  served : Nat := 0
  bg : Nat := 65536
  host : Nat := 65536
  track : Nat := 65536
deriving DecidableEq, Repr

/-- Demand of one segment-column of frame fr under the scales (R58), in 1/65,536 shot. -/
def State.scaled (s : State) (z : Shortage) (fr j : Nat) (p : SegPol) : Nat :=
  let e := s.expectOf fr j p
  match p.rank with
  | 0 => max (min e (s.f Reg.PLAN_CTRL 23 16 * 65536)) (e * z.bg / 65536)
  | 1 => max (min e (p.min * 65536)) (e * z.host / 65536)
  | 2 => max (min e (p.min * 65536)) (e * z.track / 65536)
  | _ => e

/-- What R50 adds to the expected demand of column j of frame fr, under the scales. An addition is no cell's: it is reduced first, with the background
(DESIGN CHOICE: log entry 80). -/
def State.addedDemand (s : State) (z : Shortage) (fr j : Nat) : Int :=
  let a := if fr = s.frameNo then s.plan.adj.get 0 j else 0
  if a < 0 then a else a * z.bg / 65536

/-- The background columns that K selects in frame fr (R59). -/
def bgSelected (k fr j : Nat) : Bool := (j + fr) % (if k = 0 then 8 else k) == 0

/-- Whether the background of column j is served (R59): when K is 0, the first `served` selected columns in sweep order. -/
def State.bgServed (s : State) (z : Shortage) (fr j : Nat) : Bool :=
  bgSelected z.k fr j &&
    (z.k != 0 ||
      decide (((List.range (sweepCol s.columns fr j)).filter fun i => bgSelected 0 fr (sweepCol s.columns fr i)).length < z.served))

/-- The policies that stay after R59: a background segment-column of a column not served is planned with no shots. -/
def State.kept (s : State) (z : Shortage) (fr j : Nat) (ps : List SegPol) : List SegPol :=
  if s.bgServed z fr j then ps else ps.filter (·.rank != 0)

/-- The policies of the interior columns of frame fr. -/
def State.interior (s : State) (fr : Nat) : List (Nat × List SegPol) :=
  (List.range s.columns).filterMap fun i =>
    if i = 0 ∨ i + 1 = s.columns then none
    else let j := sweepCol s.columns fr i; some (j, s.policies fr j (s.hostCells fr j))

/-- The launch capacity of the interior columns of frame fr in 1/65,536 shot: what the frame has left beside its edge
columns, at R_eff (R51, R58; log entry 23). -/
def State.interiorCap (s : State) (fr : Nat) : Nat :=
  let lag := if fr = s.frameNo then s.plan.startLag else 0
  (s.period - s.f Reg.PLAN_EDGE 31 16 - lag - 2 * s.f Reg.PLAN_EDGE 15 0) * s.rateLimit * s.plan.theta *
    65536 / 80000

/-- Total demand under a reduction. -/
def State.total (s : State) (z : Shortage) (fr : Nat) (cols : List (Nat × List SegPol)) : Nat :=
  (cols.map fun c => ((((s.kept z fr c.1 c.2).map (s.scaled z fr c.1)).sum : Nat) + s.addedDemand z fr c.1).toNat).sum

/-- R58 and R59 for frame fr. -/
def State.shortage (s : State) (fr : Nat) : Shortage :=
  let cols := s.interior fr
  let cap := s.interiorCap fr
  let noHost := cols.map fun c => (c.1, c.2.filter (·.rank != 1))
  let fits (z : Shortage) (cs : List (Nat × List SegPol)) : Bool := decide (s.total z fr cs ≤ cap)
  let floor (k : Nat) : Shortage := { k, bg := 0, host := 0, track := 0 }
  let k : Nat := if fits (floor 1) noHost then 1 else if fits (floor 2) noHost then 2 else if fits (floor 4) noHost then 4
    else if fits (floor 8) noHost then 8 else 0
  let served := if k = 0 then topBits 11 0 (fun n => fits { (floor 0) with served := n } noHost) else 0
  let base : Shortage := { k, served }
  if fits base cols then base
  else if fits { base with bg := 0 } cols then { base with bg := topBits 16 0 fun x => fits { base with bg := x } cols }
  else if fits { base with bg := 0, host := 0 } cols then
    { base with bg := 0, host := topBits 16 0 fun x => fits { base with bg := 0, host := x } cols }
  else { base with bg := 0, host := 0, track := topBits 16 0 fun x => fits { base with bg := 0, host := 0, track := x } cols }

/-- The policies of column j as planned (R58, R59): first allocations reduced, unserved background kept with no shots when
K is 0 (it carries `BUDGET_SHORT`). -/
def State.planned (s : State) (z : Shortage) (fr j : Nat) (hosts : List Cell) : List SegPol :=
  (s.policies fr j hosts).filterMap fun p =>
    if p.rank ≠ 0 then some p
    else if s.bgServed z fr j then
      some (if s.scaled z fr j p < p.min * 65536 ∧ s.scaled z fr j p < s.expectOf fr j p then
        { p with first := s.f Reg.PLAN_CTRL 23 16 } else p)
    else if z.k = 0 then some { p with max := 0, first := 0 } else none

/-! ## Column durations (R51, R52) -/

/-- One column as the durations see it: its least duration, its demand in 1/65,536 shot, whether it is an edge column. -/
structure DurCol where
  col : Nat
  edge : Bool
  least : Nat
  dem : Nat
deriving DecidableEq, Repr

def State.col (s : State) (key : Nat) : Option ColPlan := s.plan.cols.get none key

def State.setCol (s : State) (key : Nat) (c : Option ColPlan) : State :=
  { s with plan := { s.plan with cols := s.plan.cols.set none key c } }

/-- A column of frame fr as the durations see it. -/
def State.durCol (s : State) (z : Shortage) (fr i : Nat) : DurCol :=
  let j := sweepCol s.columns fr i
  let edge := decide (i = 0 ∨ i + 1 = s.columns)
  let ps := match s.col (colKey fr j) with
    | some c => c.segs
    | none => s.planned z fr j (s.hostCells fr j)
  let ps := ps.filter (·.max != 0)
  let mn := (ps.map (·.min)).foldl max 0
  { col := j, edge, least := if edge then s.f Reg.PLAN_EDGE 15 0 else max (s.f Reg.PLAN_COL_TIME 15 0) (200 * mn),
    dem := ((((ps.map (s.scaled z fr j)).sum : Nat) : Int) + s.addedDemand z fr j).toNat }

/-- The duration of a column at a factor λ' in 1/65,536 of 10 ns (R51). -/
def State.durAt (s : State) (lam : Nat) (c : DurCol) : Nat :=
  min (s.f Reg.PLAN_COL_TIME 31 16 * 65536) (max (c.least * 65536) (c.dem * lam / 2 ^ 24))

/-- R51: raise each interior duration that its neighbour in the list before exceeds by more than 1 + step/8. -/
def raisePass (step : Nat) : Option Nat → List (DurCol × Nat) → List (DurCol × Nat)
  | _, [] => []
  | prev, (c, d) :: r =>
    if c.edge then (c, d) :: raisePass step none r
    else
      let d := match prev with
        | some p => max d ((8 * p + 7 + step) / (8 + step))
        | none => d
      (c, d) :: raisePass step (some d) r

/-- R51: neighbours brought within the ratio, both ways; `prev` is the duration of the posted interior column before the first. -/
def ratioPass (step : Nat) (prev : Option Nat) (l : List (DurCol × Nat)) : List (DurCol × Nat) :=
  (raisePass step none (raisePass step prev l).reverse).reverse

/-- R51: the longest interior columns pay until the durations sum to `total`. -/
def payPass (total : Nat) (l : List (DurCol × Nat)) : List (DurCol × Nat) :=
  if (l.map (·.2)).sum ≤ total then l
  else
    let cut (lv : Nat) := l.map fun e => if e.1.edge then e else (e.1, max (e.1.least * 65536) (min e.2 lv))
    cut (topBits 33 0 fun lv => decide (((cut lv).map (·.2)).sum ≤ total))

/-- R51: the durations of the given columns, in 1/65,536 of 10 ns, whose sum is to be `total`; `prev` as in `ratioPass`. -/
def State.durations (s : State) (total : Nat) (prev : Option Nat) (cols : List DurCol) : List (DurCol × Nat) :=
  let at_ (lam : Nat) := cols.map fun c => (c, s.durAt lam c)
  let lam := topBits 48 0 fun x => decide (((at_ x).map (·.2)).sum ≤ total)
  payPass total (ratioPass (s.f Reg.PLAN_CTRL 27 24) prev (at_ lam))

/-- The columns of frame fr whose durations are fixed, in sweep order: those that have started, with the sum of their durations, and those posted. -/
def State.postedSum (s : State) (fr : Nat) : Nat × Nat :=
  let own : Bool := fr == s.frameNo && s.plan.running
  let l := s.plan.cols.entries.filterMap fun e => match e.2 with
    | some c => if c.frame = fr ∧ c.posted ∧ c.startNs = none ∧ ¬ c.closed then some c.dur else none
    | none => none
  ((if own then s.plan.swept else 0) + l.length, (if own then s.plan.sweptDur else 0) + l.sum)

/-- The duration, in 1/65,536 of 10 ns, of the last column whose duration is fixed, where it is an interior column (R51). -/
def State.postedLast (s : State) (fr : Nat) : Option Nat :=
  let n := (s.postedSum fr).1
  if n ≤ 1 then none
  else match s.plan.cols.get none (colKey fr (sweepCol s.columns fr (n - 1))) with
    | some c => some (65536 * c.dur)
    | none => some (65536 * s.plan.lastDur)

/-- R51, R52: the durations, in 1/65,536 of 10 ns, of all columns of frame fr not yet posted. -/
def State.openDurations (s : State) (fr : Nat) : List (DurCol × Nat) :=
  let z := s.shortage fr
  let done := s.postedSum fr
  let lag := if fr = s.frameNo then s.plan.startLag else 0
  let total := s.period - s.f Reg.PLAN_EDGE 31 16 - lag - done.2
  s.durations (total * 65536 - s.plan.residue).toNat (s.postedLast fr) (((List.range s.columns).drop done.1).map (s.durCol z fr))

/-- R51, R52: the duration of the next column to post in frame fr, in 1/65,536 of 10 ns. -/
def State.nextDuration (s : State) (fr : Nat) : Nat :=
  match s.openDurations fr with
  | [] => 0
  | d :: _ => d.2

/-! ## Planning and posting a column -/

/-- R42: the planner has begun to plan the coming frame: the last eight columns of the running one begin, or, before the first frame that is swept, a column of it is planned. -/
def State.lastEightBegun (s : State) : Bool :=
  if s.plan.running then decide (s.columns ≤ s.plan.swept + 7) else s.plan.planFrame != s.frameNo && decide (0 < s.plan.planNext)

/-- A planner that may plan: it holds the claim and no takeover runs (R385, R393). -/
def State.planning (s : State) : Bool :=
  (s.dev.scanning || (s.dev == .standby && s.wag.armAt.isSome)) && (match s.red.takeover with
    | some k => k.resume.isSome
    | none => true)

/-- How far, in columns of the sweep, the next column to plan lies ahead of the one that started last. -/
def State.planAhead (s : State) : Nat :=
  let done := if s.plan.running then s.plan.swept else s.columns
  (if s.plan.planFrame = s.frameNo then 0 else s.columns) + s.plan.planNext + 1 - done

/-- Column i of the sweep of frame fr as it is planned now, with the host cells granted (R38, R48, R58, R59). -/
def State.columnWith (s : State) (z : Shortage) (fr i : Nat) (hosts : List Cell) : ColPlan :=
  let n := s.columns
  let j := sweepCol n fr i
  { frame := fr, column := j, sweep := i, dur := 0, voff := s.voffAt fr j hosts, edge := decide (i = 0 ∨ i + 1 = n), segs := s.planned z fr j hosts,
    unserved := z.k == 0 && !s.bgServed z fr j, cover := s.coverAt fr j, off := s.segsOff fr, grants := hosts,
    shut := (s.merged fr j hosts).filter fun p => s.segExcluded fr p.seg, out := s.outChannels }

/-- Column i of the sweep of frame fr as it is planned now, with the arbiter's grants (R49). -/
def State.freshColumn (s : State) (z : Shortage) (fr i : Nat) : ColPlan :=
  s.columnWith z fr i (s.hostCells fr (sweepCol s.columns fr i))

/-- R46: the track cells dropped from column j of frame fr as it is planned now take the place of those dropped when it was planned before. -/
def State.noteDropped (s : State) (fr j : Nat) : State :=
  let drop := (s.trackOrder fr j).drop (s.maxTrackCells fr)
  { s with plan := { s.plan with
    dropped := s.plan.dropped.filter (fun d => !(d.1 == fr && d.2 / 4096 == j)) ++ drop.map (fun i => (fr, 4096 * j + i)) } }

/-- R65: a column planned before a frame boundary and not started, planned again with the registers that the boundary put in force; its grants, its
offset and what was posted of it stand. -/
def State.replanColumn (s : State) (key : Nat) (c : ColPlan) : State :=
  let n := s.columnWith (s.shortage c.frame) c.frame c.sweep c.grants
  (s.noteDropped c.frame c.column).setCol key (some { c with segs := n.segs, unserved := n.unserved, off := n.off, shut := n.shut, out := n.out })

/-- The columns of the running frame that have not started are planned again (R65). -/
def State.replan (s : State) : State :=
  s.each (s.plan.cols.entries.filterMap fun e => match e.2 with
    | some c => if c.frame = s.frameNo ∧ c.startNs = none ∧ c.lead = none ∧ ¬ c.closed then some (e.1, c) else none
    | none => none) fun s e => s.replanColumn e.1 e.2

/-- The worse of two values of `COVER_K` (R59): unserved, else the larger K. -/
def worseK (a b : Nat) : Nat := if a = 0 ∨ b = 0 then 0 else max a b

/-- R59, R65: a column of frame fr is planned with K: the first in the frame that is not 1 counts the frame, and each change for the worse raises the
flag. -/
def State.noteCover (s : State) (fr k : Nat) : State :=
  let own : Bool := fr == s.frameNo
  let old := if own then s.plan.coverK else s.plan.coverNext
  let new := worseK old k
  if new = old then s
  else
    let s := s.flag Reg.PLAN_FLAGS 1
    let s := if old = 1 then s.inc Reg.PLAN_SHORT_COUNT else s
    if own then { s with plan := { s.plan with coverK := new } } else { s with plan := { s.plan with coverNext := new } }

/-- Whether column i of the sweep of frame fr has been planned. -/
def State.idxPlanned (s : State) (fr i : Nat) : Bool :=
  if fr = s.plan.planFrame then decide (i < s.plan.planNext) else decide (2 ^ 31 ≤ wrapSub 32 fr s.plan.planFrame)

/-- Plan the next column (R49). The planner is at most eight columns ahead of the sweep (R42). -/
def State.planColumn (s : State) : State :=
  let fr := s.plan.planFrame
  let n := s.columns
  if ¬ s.planning ∨ n ≤ s.plan.planNext ∨ 8 < s.planAhead then s
  else
    let j := sweepCol n fr s.plan.planNext
    let z := s.shortage fr
    let c := s.freshColumn z fr s.plan.planNext
    let s := ((s.noteDropped fr j).noteCover fr z.k).setCol (colKey fr j) (some c)
    { s with plan := { s.plan with
      planNext := if s.plan.planNext + 1 = n then 0 else s.plan.planNext + 1,
      planFrame := if s.plan.planNext + 1 = n then (fr + 1) % 2 ^ 32 else fr } }

/-- The columns planned and not yet posted, in sweep order. -/
def State.unposted (s : State) : List ColPlan :=
  sortBy (fun a b : ColPlan =>
      decide (wrapSub 32 a.frame s.frameNo < wrapSub 32 b.frame s.frameNo) ||
        (a.frame == b.frame && decide (a.sweep < b.sweep)))
    (s.plan.cols.entries.filterMap fun e => match e.2 with
      | some c => if c.posted ∨ c.closed ∨ c.gap ∨ c.startNs.isSome then none else some c
      | none => none)

/-- The velocity segment of R53. -/
def ColPlan.segment (c : ColPlan) (n : Nat) : List Byte :=
  leBytes 2 (c.column + 2048 * b2n c.edge + 4096 * b2n (c.sweep == 0) + 8192 * b2n (c.sweep + 1 == n) + 16384 * (c.frame % 2)) ++
    leBytes 2 c.dur ++ leBytes 2 (wrapNat 16 c.voff) ++ leBytes 2 0

/-- R17: the velocity segment of a column, posted now, is late: the column four before it has started. The first columns after `ARM` have none before
them. -/
def State.segmentLate (s : State) (c : ColPlan) : Bool :=
  s.plan.running && decide ((if c.frame = s.frameNo then c.sweep else s.columns + c.sweep) ≤ s.plan.swept + 3) &&
    !(c.frame == s.frameNo && decide (c.sweep < 4) && s.wag.scanAt == some s.plan.frameNs)

/-- The claimant of the gate (R386): the higher non-zero claim, none on a tie or when neither claims. -/
def State.claimant (s : State) : Option Nat :=
  let a := s.f Reg.CLAIM_AB 15 0
  let b := s.f Reg.CLAIM_AB 31 16
  if a = b then none else some (max a b)

/-- The claim of the active planner (R385). -/
def State.activeClaim (s : State) : Nat :=
  if s.bit Reg.PLAN_PAIR_STATUS 0 then s.f Reg.CLAIM_AB 31 16 else s.f Reg.CLAIM_AB 15 0

/-- R386: the profile generator has taken the velocity segment of a column that has not started. -/
def State.driven (s : State) (c : ColPlan) : Bool := s.plan.fifo.any (·.1 == colKey c.frame c.column)

/-- Post the next planned column: its duration is fixed and its velocity segment, with the planner's claim, enters the FIFO of eight (R17, R53, R385). The profile generator
takes it only under the higher non-zero claim (R386); a column whose segment it does not take holds the velocity. -/
def State.postColumn (s : State) : Option (ColPlan × State) :=
  match s.unposted with
  | [] => none
  | c :: _ =>
    if ¬ s.planning ∨ 8 ≤ s.plan.fifo.length then none
    else
      let d : Int := s.nextDuration c.frame + s.plan.residue
      let q := clampNat 0 65535 (divRoundNat d.toNat 65536)
      let taken := s.claimant == some s.activeClaim
      let c := { c with posted := true, dur := q, velHold := s.segmentLate c || !taken }
      let s := s.setCol (colKey c.frame c.column) (some c)
      some (c, { s with plan := { s.plan with
        residue := if c.sweep + 1 = s.columns then 0 else d - 65536 * q, fifo := if taken then s.plan.fifo ++ [(colKey c.frame c.column, s.activeClaim)] else s.plan.fifo } })

/-! ## Points and their accounts (R18) -/

def State.pt (s : State) (k : Nat) : Pt := s.plan.pts.get {} k

def State.setPt (s : State) (k : Nat) (p : Pt) : State := { s with plan := { s.plan with pts := s.plan.pts.set {} k p } }

def State.modPt (s : State) (k : Nat) (g : Pt → Pt) : State := s.setPt k (g (s.pt k))

/-- Change the points that segment g serves in a column. -/
def State.modSegPts (s : State) (key g : Nat) (f : Pt → Pt) : State :=
  s.each (s.segChannels g) fun s ch => s.modPt (ptKey key ch) f

/-- The policy of a segment-column, changed. -/
def State.modSeg (s : State) (key g : Nat) (f : SegPol → SegPol) : State :=
  match s.col key with
  | some c => s.setCol key (some { c with segs := c.segs.map fun p => if p.seg = g then f p else p })
  | none => s

def ColPlan.seg? (c : ColPlan) (g : Nat) : Option SegPol := c.segs.find? (·.seg == g)

/-- Late shots of a segment-column (R17, R34): each shot is late in every point that it would have served. -/
def State.lateShots (s : State) (key g n : Nat) : State :=
  if n = 0 then s
  else
    let s := s.modSegPts key g fun p => { p with late := p.late + n }
    (s.add Reg.LOOP_LATE_PLAN n).flag Reg.LOOP_LATE_FLAGS 1

/-- R35: `LOOP_LATE` once per frame, when a flag of `LOOP_LATE_FLAGS` sets from 0. No chapter gives its payload: `LOOP_LATE_FLAGS` as 4 bytes
(DESIGN CHOICE: log entry 76). -/
def State.loopLate (s : State) (old : Nat) : State :=
  let new := s.r Reg.LOOP_LATE_FLAGS
  if (List.range 4).any (fun i => bitN new i && !bitN old i) ∧ ¬ s.sys.loopLateRaised then
    ({ s with sys := { s.sys with loopLateRaised := true } }).raise Ev.LOOP_LATE .sub (leBytes 4 new)
  else s

/-! ## Allocation of shots (R54, R55) -/

/-- A segment-column's cap (R54). -/
def ColPlan.capOf (c : ColPlan) (p : SegPol) : Nat := min p.max (c.dur / 200)

/-- Launch slots of 62.5 ns in a column: the whole ones (DEDUCED: log entry 54). -/
def ColPlan.slots (c : ColPlan) : Nat := c.dur * 4 / 25

/-- R54: whether slot n is free for segment g beside the shots already queued or launched: one shot per slot, `lim` in any 16 consecutive slots, one
per segment in any 32. `used` lists (slot, segment). Slots are counted with 32 added, so that those of the column before come first. -/
def slotFree (used : List (Nat × Nat)) (lim g n : Nat) : Bool :=
  used.all (fun e => e.1 != n && !(e.2 == g && decide (e.1 < n + 32 ∧ n < e.1 + 32))) &&
    (List.range 16).all fun k =>
      decide (((used.filter fun e => decide (e.1 + 15 ≥ n + k ∧ e.1 ≤ n + k)).length) < lim)

/-- R279: whether the launch slot n of a column stamped `t` (device time, ns) starts in a grid slot of the mask. -/
def gridOk (mask t n : Nat) : Bool := bitN mask ((2 * t + 125 * n) / 125 % 16)

/-- The earliest free slot at or after n that the grid mask admits, searching `fuel` slots. -/
def freeSlot (mask t : Nat) (used : List (Nat × Nat)) (lim g : Nat) : Nat → Nat → Option Nat
  | 0, _ => none
  | fuel + 1, n =>
    if gridOk mask t n && slotFree used lim g (n + 32) then some n else freeSlot mask t used lim g fuel (n + 1)

/-- Take up to `k` free slots for segment g. -/
def takeSlots (mask t lim g slots : Nat) : Nat → Nat → List (Nat × Nat) → List Nat
  | 0, _, _ => []
  | k + 1, n, used =>
    match freeSlot mask t used lim g (slots - n) n with
    | none => []
    | some m => m :: takeSlots mask t lim g slots k (m + 1) ((m + 32, g) :: used)

/-- The slots of a column's shots: those queued, and those already cut or launched (`taken`). -/
def State.ownSlots (s : State) (key : Nat) : List (Nat × Nat) :=
  (s.plan.queue.filter (·.key == key)).map (fun q => (q.slot, q.seg)) ++
    (match s.col key with
     | some c => c.taken
     | none => [])

/-- The slots of the first batches queued ahead for the next column, as slots of the column that started at `t0`, with 32 added (R17, R54). -/
def State.slotsAfter (s : State) (t0 : Nat) : List (Nat × Nat) :=
  s.plan.cols.entries.flatMap fun e => match e.2 with
    | some c => match c.lead, c.startNs with
      | some t, none => (s.ownSlots e.1).map fun x => (x.1 + 2 * (t - t0) / 125 + 32, x.2)
      | _, _ => []
    | none => []

/-- The slots used in a column, at the end of the one before and at the start of the one after, with 32 added (R54). -/
def State.usedSlots (s : State) (key : Nat) : List (Nat × Nat) :=
  (s.ownSlots key).map (fun e => (e.1 + 32, e.2)) ++
    (match s.col key with
     | some c => c.before ++ (match c.startNs with
       | some t => s.slotsAfter t
       | none => [])
     | none => [])

/-- The slots of the column `key` that started at `t0`, as those of a column that starts at `t` see them: the last 32 before it, with 32 added. -/
def State.slotsBefore (s : State) (key t0 t : Nat) : List (Nat × Nat) :=
  let n := 2 * (t - t0) / 125
  (s.ownSlots key).filterMap fun e => if n ≤ e.1 + 32 then some (e.1 + 32 - n, e.2) else none

/-- Queue one batch of `k` shots of segment g at the earliest free launch slots from slot `lo` on (R55). Where fewer slots are left the batch has as many shots, and one that
the queue of 1,024 has no room for is not queued (DESIGN CHOICE: log entry 108). -/
def State.queueBatch (s : State) (key g k lo : Nat) : State :=
  match s.col key with
  | none => s
  | some c =>
    match c.seg? g with
    | none => s
    | some p =>
      let slots := takeSlots (s.ef Reg.SWARM_SLOT_MASK 15 0) c.stamp s.rateLimit g c.slots k lo (s.usedSlots key)
      let n := slots.length
      if n = 0 ∨ 1024 < s.plan.queue.length + n then s
      else
        let shots := slots.mapIdx fun i sl =>
          ({ key, seg := g, slot := sl, batch := p.batches, batchEnd := i + 1 == n, number := s.plan.shotCount + i,
             claim := s.activeClaim } : Shot)
        let s := { s with plan := { s.plan with queue := s.plan.queue ++ shots, shotCount := s.plan.shotCount + n } }
        let s := s.setCol key (some { c with budget := c.budget - n })
        let s := s.modSeg key g fun p => { p with queued := p.queued + n, batches := p.batches + 1 }
        s.modSegPts key g fun p => { p with planned := p.planned + n }

/-- R38: no shot is planned for a segment that is excluded now; a change of `SEG_DISABLE` acts in the running frame's columns. -/
def State.segBarred (s : State) (c : ColPlan) (g : Nat) : Bool :=
  if c.frame = s.frameNo then s.segExcluded c.frame g else s.tileLost (g / 8) || s.segOut g

/-- The rank order of R55. -/
def SegPol.before (a b : SegPol) : Bool :=
  decide (b.rank < a.rank ∨ (a.rank = b.rank ∧ (b.prio < a.prio ∨ (a.prio = b.prio ∧
    (a.queued < b.queued ∨ (a.queued = b.queued ∧ a.seg < b.seg))))))

/-- The first allocation of one segment-column at column start (R55): whole batches until its first allocation is reached, while the budget allows; the batch
that reaches the cap is cut to it, and the one that passes the first allocation stays whole (DESIGN CHOICE: log entry 86). -/
def State.firstBatches (s : State) (key g : Nat) : Nat → State
  | 0 => s
  | fuel + 1 =>
    match s.col key with
    | none => s
    | some c =>
      match c.seg? g with
      | none => s
      | some p =>
        let cap := c.capOf p
        let k := min p.batch (cap - p.queued)
        if min p.first cap ≤ p.queued ∨ k = 0 ∨ c.budget < k ∨ s.segBarred c g then s else (s.queueBatch key g k 0).firstBatches key g fuel

/-- The first allocation of a column (R55). -/
def State.allocateStart (s : State) (key : Nat) : State :=
  match s.col key with
  | none => s
  | some c => s.each ((sortBy SegPol.before c.segs).map (·.seg)) fun s g => s.firstBatches key g 64

/-- Later batches of one segment-column (R55). -/
def State.laterBatches (s : State) (key g lo : Nat) : Nat → State
  | 0 => s
  | fuel + 1 =>
    match s.col key with
    | none => s
    | some c =>
      match c.seg? g with
      | none => s
      | some p =>
        let k := min p.batch (c.capOf p - p.queued)
        if ¬ p.running ∨ 2 ≤ p.batches - p.verdicts ∨ k = 0 ∨ c.budget < p.batch ∨ s.segBarred c g then s
        else (s.queueBatch key g k lo).laterBatches key g lo fuel

/-- Take the unlaunched shots of a segment-column out of the queue (R17, R55): its points count them as withdrawn, and the
budget gets them back. -/
def State.withdraw (s : State) (key g : Nat) : State :=
  let mine := s.plan.queue.filter fun q => q.key == key && q.seg == g
  let n := mine.length
  if n = 0 then s
  else
    let s := { s with plan := { s.plan with queue := s.plan.queue.filter fun q => !(q.key == key && q.seg == g) } }
    let s := match s.col key with
      | some c => s.setCol key (some { c with budget := c.budget + n })
      | none => s
    s.modSegPts key g fun p => { p with withdrawn := p.withdrawn + n }

/-- R55, R56: the reallocation on every verdict and at every 1 µs boundary: segment-columns left with no running point are
withdrawn, and running ones queue up to two batches beyond the last verdict, at least 1 µs ahead (R17). -/
def State.reallocate (s : State) (key : Nat) : State :=
  match s.col key with
  | none => s
  | some c =>
    match c.startNs with
    | none => s
    | some t0 =>
      let s := s.each (c.segs.map (·.seg)) fun s g =>
        if (s.segChannels g).all fun ch => (s.pt (ptKey key ch)).stopped then
          (s.withdraw key g).modSeg key g fun p => { p with running := false }
        else s
      let lo := ((s.now + 1000 - t0) * 2 + 124) / 125
      match s.col key with
      | none => s
      | some c => s.each ((sortBy SegPol.before c.segs).map (·.seg)) fun s g => s.laterBatches key g lo 64

/-! ## Closing a column -/

/-- What R50 does when a column closes: expected demand learns. Whether a segment-column was still running at its cap is judged now, at its close
(DESIGN CHOICE: log entry 106). -/
def State.learn (s : State) (c : ColPlan) : State :=
  let held := c.segs.filter fun p => p.running && decide (c.capOf p ≤ p.queued ∧ 0 < p.max)
  let use (p : SegPol) : Int := if p.running ∧ c.capOf p ≤ p.queued then c.capOf p + p.batch else p.used
  let extra : Int := (held.map fun p => divRound (use p * 65536 - s.expectOf c.frame c.column p) 8).sum
  let old : Bool := decide (2 ^ 31 ≤ wrapSub 32 c.frame s.plan.expectFrom)
  let s := s.each (if old then [] else c.segs.filter (·.max != 0)) fun s p =>
    let e : Int := s.expectOf c.frame c.column p
    s.setExpect c.column p.seg (e + divRound (use p * 65536 - e) 4).toNat
  if extra = 0 ∨ c.frame ≠ s.frameNo then s
  else
    s.each ((List.range s.columns).filter fun j => decide (c.column ≤ j + 8 ∧ j ≤ c.column + 8)) fun s j =>
      let posted : Bool := match s.col (colKey c.frame j) with
        | some x => x.posted
        | none => false
      if posted ∨ sweepCol s.columns c.frame j < s.plan.swept then s
      else { s with plan := { s.plan with adj := s.plan.adj.set 0 j (s.plan.adj.get 0 j + extra) } }

/-- R57: a zone or track point that fired fewer than `MIN_SHOTS`, for any reason, is short; background of an unserved column is short (R59). -/
def State.markShort (s : State) (key : Nat) (c : ColPlan) : State :=
  s.each (c.segs ++ c.shut) fun s p =>
    s.each (s.segChannels p.seg) fun s ch =>
      let k := ptKey key ch
      if (p.rank = 4 ∨ p.rank = 2) ∧ (s.pt k).fired < p.min then
        let s := s.modPt k fun q => { q with short := true }
        if p.rank = 4 then
          let s := s.flag Reg.PLAN_FLAGS 2
          { s with plan := { s.plan with acc := { s.plan.acc with zoneShort := true } } }
        else s
      else if p.max = 0 then s.modPt k fun q => { q with short := true }
      else s

/-- Add the point-shots of a closed column to the frame's account (R63). -/
def State.accountColumn (s : State) (key : Nat) (c : ColPlan) : State :=
  if c.frame ≠ s.frameNo then s
  else
    s.each (c.segs.map (·.seg)) fun s g =>
      s.each (s.segChannels g) fun s ch =>
        let p := s.pt (ptKey key ch)
        let a := s.plan.acc
        { s with plan := { s.plan with acc := { a with
          planned := a.planned + p.planned, fired := a.fired + p.fired, refused := a.refused + p.refused,
          late := a.late + p.late, withdrawn := a.withdrawn + p.withdrawn } } }

end Sys2Proof.Machine
end

