-- ==== Sys2Proof/Machine/ArbOps.lean ====
section
/-!
DEFINITION. Machine/ArbOps.lean: the scan-time arbiter and the slot table (chapter 3): room in slots, admission, taking
holders, outcomes, and what a frame boundary does to waiting requests.
-/

namespace Sys2Proof.Machine

/-! ## Slots (R72 to R76) -/

/-- The slot that covers column j (R72). -/
def slotOf (n j : Nat) : Nat := 256 * j / n

/-- The columns of slot k. -/
def slotCols (n k : Nat) : List Nat := (List.range n).filter fun j => slotOf n j == k

/-- R75, R394: the slot tables swap at the next frame boundary. -/
def State.slotsSwap (s : State) : Bool := s.bit Reg.ARB_SLOT_STATUS 1 && !s.arb.commitLate && s.plansNextFrame

/-- The entry of slot k that governs frame fr (R73, R75, R76, R88): of the next frame, the one that its boundary brings. -/
def State.slotEntry (s : State) (fr k : Nat) : Word :=
  if fr ≠ s.frameNo ∧ s.slotsSwap then s.rd (Reg.ARB_SLOT k)
  else match s.arb.slotNext.get none k with
    | some (v, f) => if wrapSub 32 fr f < 2 ^ 31 then BitVec.ofNat 32 v else s.rd (Reg.ARB_SLOT_ACT k)
    | none => s.rd (Reg.ARB_SLOT_ACT k)

/-- Owner and host share of slot k in frame fr (R73). -/
def State.slotOwner (s : State) (fr k : Nat) : Nat := bitsOf (s.slotEntry fr k) 3 0

def State.slotShare (s : State) (fr k : Nat) : Nat := bitsOf (s.slotEntry fr k) 8 4

/-- The units of a shot in which slot capacities and host limits are whole numbers. -/
def State.limitDen (s : State) : Nat := 1280000 * s.columns

/-- R72: the capacity of slot k at a throttle in 1/800, in units of 16 / `limitDen`. -/
def State.slotCap (s : State) (theta k : Nat) : Nat :=
  (s.period - s.f Reg.PLAN_EDGE 31 16) * s.rateLimit * theta * (slotCols s.columns k).length

/-- The floor of one segment-column (R74): the largest `MIN_SHOTS` of its due zone, calibration and track cells; `COVER_MIN` where there is none. -/
def floorOf (cover g : Nat) (cells : List Cell) : Nat :=
  match (cells.filter fun c => decide (2 ≤ c.rank) && bitN c.segs g).map (·.min) with
  | [] => cover
  | l => l.foldl max 0

/-- R74: the internal floor F_s of slot k in frame fr, in shots. -/
def State.slotFloor (s : State) (fr k : Nat) : Nat :=
  ((slotCols s.columns k).map fun j =>
    let cells := s.sctCells fr j ++ s.trackCells fr j
    ((List.range 64).map fun g => floorOf (s.f Reg.PLAN_CTRL 23 16) g cells).sum).sum

/-- R74: the host limit L_s of slot k in frame fr, under the slot table of frame `tf`, in units of 1 / `limitDen` shot. -/
def State.hostLimit (s : State) (theta tf fr k : Nat) : Nat :=
  if s.slotOwner tf k = 1 then 0
  else min (s.slotShare tf k * s.slotCap theta k) (16 * s.slotCap theta k - s.slotFloor fr k * s.limitDen)

/-- R75: the slot tables swap. -/
def State.swapSlots (s : State) : State :=
  let s := s.each (List.range 256) fun s k => s.wr (Reg.ARB_SLOT_ACT k) (s.rd (Reg.ARB_SLOT k))
  let s := s.setF Reg.ARB_SLOT_STATUS 0 0 (1 - s.f Reg.ARB_SLOT_STATUS 0 0)
  let s := s.setBit Reg.ARB_SLOT_STATUS 1 false
  let s := { s with arb := { s.arb with commitLate := false, recheck := true, slotNext := ⟨[]⟩ } }
  s.raise Ev.SLOT_SWAPPED .all (leBytes 4 s.frameNo)

/-- R75: an accepted commit of the slot table. -/
def State.slotCommit (s : State) : State :=
  let s := s.setBit Reg.ARB_SLOT_STATUS 1 true
  if s.dev = .standby then s.swapSlots else { s with arb := { s.arb with commitLate := s.lastEightBegun } }

/-- A slot-table entry whose frame the planner has reached is in force (R76). -/
def State.applyNext (s : State) (e : Nat × Nat × Nat) : State :=
  if wrapSub 32 s.plan.planFrame e.2.2 < 2 ^ 31 then
    let s := s.setR (Reg.ARB_SLOT_ACT e.1) e.2.1
    { s with arb := { s.arb with slotNext := s.arb.slotNext.set none e.1 none, recheck := true } }
  else s

/-- R76: changes of single slots come into force when the planner reaches their frame. -/
def State.applySlotNext (s : State) : State :=
  s.each (s.arb.slotNext.entries.filterMap fun e => e.2.map fun v => (e.1, v)) State.applyNext

/-- R76: whether the planner has planned a column of slot k in frame fr. -/
def State.slotPlanned (s : State) (fr k : Nat) : Bool :=
  (List.range s.columns).any fun i => slotOf s.columns (sweepCol s.columns fr i) == k && s.idxPlanned fr i

/-- R76: the frame from which a change of slot k counts, the first in which the planner has planned none of its columns; where nothing is planned, the
frame of the planner. -/
def State.slotFrom (s : State) (k : Nat) : Nat :=
  let f := s.frameNo
  let g := (f + 1) % 2 ^ 32
  if ¬ s.planning then s.plan.planFrame else if ¬ s.slotPlanned f k then f else if ¬ s.slotPlanned g k then g else (g + 1) % 2 ^ 32

/-- R76: a change of one entry in both banks. -/
def State.slotNextWrite (s : State) (k v : Nat) : State :=
  let s := s.setR (Reg.ARB_SLOT k) v
  let fr := s.slotFrom k
  ({ s with arb := { s.arb with slotNext := s.arb.slotNext.set none k (some (v, fr)) } }).applySlotNext

/-! ## Streams -/

/-- `BACKOFF_LEFT` of a stream in the present frame (R89). -/
def State.backoffLeft (s : State) (x : Stream) : Nat :=
  if x.st = 2 then min x.excl (x.excl + 1 - wrapSub 32 s.frameNo x.exclFrom) else 0

/-- Set a stream; `ARB_STREAM_i` shows it (R89). -/
def State.setStream (s : State) (i : Nat) (x : Stream) : State :=
  let s := { s with arb := { s.arb with streams := s.arb.streams.set {} i x } }
  s.setR (Reg.ARB_STREAM i) (x.st + 8 * b2n x.fair + 256 * s.backoffLeft x + 65536 * min 255 x.age +
    0x1000000 * (s.streamRank i % 32) + 0x20000000 * x.lastCode)

/-- The registers of all streams, after a change of rank or a frame boundary. -/
def State.syncStreams (s : State) : State :=
  s.each (List.range (6 * s.variant.lanes)) fun s i => s.setStream i (s.stream i)

/-- The covered columns of a request in slot k, and its cost there in frame fr in shots (R77). -/
def State.costIn (s : State) (fr : Nat) (q : Req) (k : Nat) : Nat :=
  let segs := ((List.range 64).filter fun g => bitN q.segMask g && !s.segExcluded fr g).length
  q.min * segs * ((slotCols s.columns k).filter fun j => decide (q.firstCol ≤ j ∧ j ≤ q.lastCol)).length

/-- The slots a request covers. -/
def State.reqSlots (s : State) (q : Req) : List Nat :=
  (List.range 256).filter fun k => (slotCols s.columns k).any fun j => decide (q.firstCol ≤ j ∧ j ≤ q.lastCol)

/-- The reservation of stream i in slot k in frame fr (R77). -/
def State.reserved (s : State) (fr k i : Nat) : Nat :=
  let x := s.stream i
  match x.req with
  | some q => if x.holder && x.passDue fr then s.costIn fr q k else 0
  | none => 0

/-- The rank of stream i apart from slots (R71, R81): under fairness standing 64, a holder's as held. -/
def State.baseRank (s : State) (i : Nat) : Nat :=
  let x := s.stream i
  if x.fair then 64 else if x.holder then x.heldRank else s.streamRank i

/-- The effective rank of stream i in slot k under the slot table of frame `tf` (R74, R81). -/
def State.effRank (s : State) (tf i k : Nat) : Nat :=
  s.baseRank i + (if ¬ (s.stream i).fair ∧ s.slotOwner tf k = i / 6 + 2 then 32 else 0)

/-- The sweep index of a request's first column in frame fr (R77), and the column that its pass ends with (R85). -/
def startIdx (n fr : Nat) (q : Req) : Nat := if fr % 2 = 0 then q.firstCol else n - 1 - q.lastCol

def lastColOf (fr : Nat) (q : Req) : Nat := if fr % 2 = 0 then q.lastCol else q.firstCol

/-- The effective rank reported in an outcome: that of the account's admission, or of the attempt, the highest over the slots of the request under the slot table of the pass's frame
(R87; DESIGN CHOICE: log entry 58). -/
def State.reportRank (s : State) (i : Nat) (q : Req) (a : PassAcc) : Nat :=
  match a.held with
  | some r =>
    let base := if (s.stream i).holder then s.baseRank i else r
    ((s.reqSlots q).map fun k => base + if s.slotOwner a.frame k = i / 6 + 2 then 32 else 0).foldl max base
  | none => ((s.reqSlots q).map (s.effRank a.frame i)).foldl max (s.baseRank i)

/-- The number of the pass after the one that begins next; 0 for a request never admitted (R87). -/
def Stream.passAfter (x : Stream) : Nat := if x.pass = 0 then 0 else x.pass + 1

/-- An account that begins: its number is that of the pass that begins next, also for an attempt that ends before its pass does (R87; DESIGN CHOICE: log entry 111). -/
def Stream.newAcc (x : Stream) (fr : Nat) : PassAcc :=
  { frame := fr, no := x.pass, seq := x.admitSeq, fair := x.holder && x.fairGrant, held := if x.holder then some x.heldRank else none }

/-- The account of the pass of frame fr. -/
def Stream.accOf (x : Stream) (fr : Nat) : PassAcc := (x.accs.find? (·.frame == fr)).getD (x.newAcc fr)

/-- The accounts of the attempts that end together when the request loses all it holds: the passes under way, or the one to come in frame fr. -/
def Stream.passes (x : Stream) (fr : Nat) : List PassAcc := if x.accs.isEmpty then [x.accOf fr] else x.accs

/-- Change the account of the pass of frame fr, which begins with its first change. -/
def Stream.modAcc (x : Stream) (fr : Nat) (g : PassAcc → PassAcc) : Stream :=
  if x.accs.any (·.frame == fr) then { x with accs := x.accs.map fun a => if a.frame = fr then g a else a }
  else { x with accs := x.accs ++ [g (x.newAcc fr)], pass := x.passAfter }

/-- Whether the stream has the account of the pass of frame fr under an admission, or holds that admission. -/
def Stream.serves (x : Stream) (fr seq : Nat) : Bool :=
  (x.accs.any fun a => a.frame == fr && a.seq == seq) || (x.holder && x.admitSeq == seq && !x.accs.any (·.frame == fr))

/-- Change the account of the pass of frame fr under an admission; a cancelled request has none (R70). -/
def Stream.onAcc (x : Stream) (fr seq : Nat) (g : PassAcc → PassAcc) : Stream := if x.serves fr seq then x.modAcc fr g else x

/-- Columns of a pass that began go unserved (R87). -/
def Req.cutShort (q : Req) (a : PassAcc) : Bool := decide (0 < a.cols ∧ a.cols < q.lastCol + 1 - q.firstCol)

/-! ## Outcomes (R85 to R87) -/

/-- R85: whether an outcome ends the request. -/
def Stream.endsWith (x : Stream) (q : Req) (code : Nat) : Bool :=
  code == 3 || (code == 1 && (!q.periodic || (q.passes != 0 && decide (q.passes ≤ x.served))))

/-- The stream after an outcome with the pass of account `a` (R82, R84 to R86), decided in frame fr. A pass of a stream taken before ends alone. -/
def Stream.after (x : Stream) (q : Req) (code fr : Nat) (a : PassAcc) : Stream :=
  let rest := x.accs.filter (·.frame != a.frame)
  if x.endsWith q code then
    { subPrio := x.subPrio, b := if code = 1 then 1 else x.b, excl := x.excl, exclFrom := x.exclFrom, lastCode := code }
  else match code with
    | 1 =>
      let y : Stream := { x with b := 1, accs := rest, lastCode := 1 }
      if x.holder then { y with st := if rest.isEmpty then 3 else 4, pass := if rest.length < x.accs.length then x.pass else x.passAfter } else y
    | 4 =>
      if !x.holder then { x with accs := rest, lastCode := 4 }
      else { x with st := 1, age := 0, fair := false, fairGrant := false, lastCode := 4, accs := rest, lostIn := some a.frame }
    | _ =>
      if code == 5 && !x.holder then { x with accs := rest, lastCode := 5 }
      else
        { x with
          st := 2, excl := x.b, exclFrom := fr, b := min 64 (2 * x.b), fair := false, age := if code = 5 then 0 else x.age,
          fairGrant := false, lastCode := code, accs := rest, lostIn := if code = 5 then some a.frame else x.lostIn }

/-- R85, R87: the outcome of an attempt of stream i whose pass has account `a`: the event and the counter. `code` as in R85. -/
def State.sendOutcome (s : State) (i code reason claimant claimStream : Nat) (partialPass : Bool) (a : PassAcc) : State :=
  let x := s.stream i
  match x.req with
  | none => s
  | some q =>
    let backoff := if code = 2 ∨ code = 5 then x.b else 0
    let params := leBytes 2 q.id ++ leBytes 1 (i % 6) ++ leBytes 1 code ++ leBytes 1 reason ++ leBytes 1 claimant ++
      leBytes 1 claimStream ++ leBytes 1 (b2n (x.endsWith q code) + 2 * b2n a.fair + 4 * b2n partialPass) ++ leBytes 4 s.frameNo ++
      leBytes 1 backoff ++ leBytes 1 (s.reportRank i q a) ++ leBytes 2 x.age ++ leBytes 2 (min 65535 a.no) ++ leBytes 2 a.cols ++
      leBytes 4 a.planned ++ leBytes 4 a.fired ++ leBytes 4 a.refused
    (s.raise Ev.REGION_OUTCOME (.own (i / 6)) params).inc (Reg.ARB_OUT_SERVED + 4 * (code - 1))

/-- An attempt of stream i ends with an outcome; the request is afterwards as R85 says. -/
def State.outcome (s : State) (i code reason claimant claimStream : Nat) (partialPass : Bool) (a : PassAcc) : State :=
  let x := s.stream i
  match x.req with
  | none => s
  | some q => (s.sendOutcome i code reason claimant claimStream partialPass a).setStream i (x.after q code s.frameNo a)

/-- Take a holder in frame fr (R79, R83, R84, R88). Its pass is partial if columns of it were planned and others are lost, or if it covers a gap column (R394); before any was planned, only
at a frame cut (R87; DESIGN CHOICE: log entry 59). -/
def State.takeHolder (s : State) (fr i code claimant claimStream : Nat) : State :=
  let x := s.stream i
  let a := x.accOf fr
  s.outcome i code 0 claimant claimStream (x.req.any (·.cutShort a) || claimant == 5 || a.gapped) a

/-- R88: the requests of a port that may no longer hold them end; each attempt under way has its outcome. -/
def State.refuseRole (s : State) (i : Nat) : State :=
  let x := s.stream i
  match x.req with
  | none => s
  | some q =>
    let l := x.passes s.frameNo
    (s.each l fun s a => s.sendOutcome i 3 6 0 0xFF (q.cutShort a || a.gapped) a).setStream i (x.after q 3 s.frameNo (x.accOf s.frameNo))

/-! ## Admission (R77 to R79) -/

/-- The streams that hold a grant. -/
def State.holders (s : State) : List Nat := (List.range 24).filter fun i => (s.stream i).holder

/-- The reservations in slot k in frame fr of the holders not in `taken`. -/
def State.usedIn (s : State) (fr k : Nat) (taken : List Nat) : Nat :=
  ((s.holders.filter fun h => !taken.contains h).map (s.reserved fr k)).sum

/-- The first slot in which a request does not fit beside the holders not in `taken`. -/
def State.shortSlot (s : State) (fr : Nat) (q : Req) (taken : List Nat) : Option Nat :=
  (s.reqSlots q).find? fun k => decide (s.hostLimit s.plan.theta fr fr k < (s.costIn fr q k + s.usedIn fr k taken) * s.limitDen)

/-- The order in which holders are taken (R79): lowest effective rank in the slot, most recently admitted, higher index. -/
def State.takeBefore (s : State) (tf k a b : Nat) : Bool :=
  let ra := s.effRank tf a k
  let rb := s.effRank tf b k
  decide (ra < rb) || (ra == rb && (decide ((s.stream b).admitSeq < (s.stream a).admitSeq) ||
    ((s.stream a).admitSeq == (s.stream b).admitSeq && decide (b < a))))

/-- R80: the holder's dwell has reached its port's `DWELL_MAX`. -/
def State.dwelt (s : State) (h : Nat) : Bool :=
  let m := s.f (Reg.ARB_PORT (h / 6)) 23 16
  m != 0 && decide (m ≤ (s.stream h).dwell)

/-- The holders that overlap slot k in frame fr and are not in `taken` (R79). -/
def State.takeable (s : State) (fr k : Nat) (taken : List Nat) : List Nat :=
  s.holders.filter fun h => !taken.contains h && decide (0 < s.reserved fr k h)

/-- R79: the holders to take so that claimant i fits, each with its outcome code (5 `CUT_OFF`, 4 `PREEMPTED`); none if the claimant would still not fit.
Slots are worked in ascending order, dwelt holders in order of effective rank (DESIGN CHOICE: log entry 55). -/
def State.roomFor (s : State) (fr i : Nat) (q : Req) : Nat → List (Nat × Nat) → Option (List (Nat × Nat))
  | 0, taken => if (s.shortSlot fr q (taken.map (·.1))).isNone then some taken else none
  | fuel + 1, taken =>
    match s.shortSlot fr q (taken.map (·.1)) with
    | none => some taken
    | some k =>
      let here := s.takeable fr k (taken.map (·.1))
      match sortBy (s.takeBefore fr k) (here.filter s.dwelt) with
      | h :: _ => s.roomFor fr i q fuel (taken ++ [(h, 5)])
      | [] =>
        match sortBy (s.takeBefore fr k) (here.filter fun h => decide (s.effRank fr h k < s.effRank fr i k)) with
        | h :: _ => s.roomFor fr i q fuel (taken ++ [(h, 4)])
        | [] => none

/-- The whole cost of a request (R78 step 6). -/
def State.totalCost (s : State) (fr : Nat) (q : Req) : Nat := ((s.reqSlots q).map (s.costIn fr q)).sum

/-- R88: every lane of port p is declared lost: its own, or both of a formed pair. -/
def State.linkLost (s : State) (p : Nat) : Bool :=
  (if s.pairFormed (p / 2) then [2 * (p / 2), 2 * (p / 2) + 1] else [p]).all fun l => s.bit Reg.LINK_STATUS (4 + l)

/-- Whether a port may hold requests (R69, R78, R88). -/
def State.mayRequest (s : State) (p : Nat) : Bool := (s.role p == .owner || s.role p == .client) && !s.linkLost p

/-- R78, steps 2 to 6: the reason of a refusal, if one applies. -/
def State.refusal (s : State) (fr i : Nat) (q : Req) : Option Nat :=
  let slots := s.reqSlots q
  let held := (s.holders.filter fun h => h / 6 == i / 6 && h != i).filterMap fun h => (s.stream h).req
  if s.columns ≤ q.lastCol then some 5
  else if ((List.range 64).filter fun g => bitN q.segMask g && !s.segExcluded fr g).isEmpty then some 4
  else if slots.any fun k => s.slotOwner fr k == 1 then some 2
  else if slots.any fun k => decide (s.hostLimit 800 fr fr k < s.costIn fr q k * s.limitDen) then some 1
  else if s.f (Reg.ARB_PORT (i / 6)) 15 8 * ((s.period - s.f Reg.PLAN_EDGE 31 16) * s.rateLimit) <
      25600 * (s.totalCost fr q + (held.map (s.totalCost fr)).sum) then some 3
  else none

/-- Admission (R77, R81, R82). The admission frame is the frame of the pass (DESIGN CHOICE: log entry 57). -/
def State.admitStream (s : State) (fr i : Nat) : State :=
  let x := s.stream i
  let s := s.inc Reg.ARB_GRANTS
  let s := if x.fair then (s.inc Reg.ARB_FAIR_GRANTS).setF Reg.ARB_FAIR_COUNT 7 0 0 else s.addF Reg.ARB_FAIR_COUNT 7 0 1
  let n := s.arb.admits + 1
  let s := { s with arb := { s.arb with admits := n } }
  s.setStream i { x with
    st := 3, age := 0, heldRank := s.streamRank i, admitFrame := fr, admitSeq := n, dwell := 0, pass := 1, excl := 0, fair := false,
    fairGrant := x.fair, lostIn := none }

/-- R78: judge the attempt of stream i for frame fr. -/
def State.judge (s : State) (fr i : Nat) : State :=
  match (s.stream i).req with
  | none => s
  | some q =>
    match s.refusal fr i q with
    | some r => s.outcome i 3 r 0 0xFF false ((s.stream i).accOf fr)
    | none =>
      match s.roomFor fr i q 24 [] with
      | some taken =>
        let fair := (s.stream i).fair
        let s := s.each taken fun s t => s.takeHolder fr t.1 t.2 (if fair then 2 else 1) i
        s.admitStream fr i
      | none => s.outcome i 2 0 0 0xFF false ((s.stream i).accOf fr)

/-- R83, R88: holders that no longer fit under the slot table in force are taken, lowest effective rank first (ties, and the order of slots, DESIGN CHOICE:
log entry 55). -/
def State.recheckSlot (s : State) (fr k claimant : Nat) : Nat → State
  | 0 => s
  | fuel + 1 =>
    if s.usedIn fr k [] = 0 then s
    else if s.usedIn fr k [] * s.limitDen ≤ s.hostLimit s.plan.theta s.frameNo fr k then s
    else
      match sortBy (s.takeBefore s.frameNo k) (s.takeable fr k []) with
      | [] => s
      | h :: _ => (s.takeHolder fr h 4 claimant 0xFF).recheckSlot fr k claimant fuel

/-- The next frame from fr on in which the pass of a stream is due (R77). -/
def Stream.nextDue (x : Stream) (fr : Nat) : Nat :=
  match x.req with
  | none => fr
  | some q =>
    let d := wrapSub 32 fr x.admitFrame
    if !q.periodic ∨ 2 ^ 31 ≤ d then x.admitFrame else (fr + (max 1 q.revisit - d % max 1 q.revisit) % max 1 q.revisit) % 2 ^ 32

/-- The frames whose reservations are checked: the one being planned; for a changed slot table, every holder's next pass (R88). -/
def State.recheckFrames (s : State) (all : Bool) : List Nat :=
  (s.plan.planFrame :: if all then s.holders.map fun h => (s.stream h).nextDue s.plan.planFrame else []).eraseDups

/-- Whether a waiting request has an attempt in frame fr: a request that was admitted before keeps its cadence, and waits for a frame after the one in
which it was taken (R84). -/
def Stream.attemptDue (x : Stream) (fr : Nat) : Bool :=
  match x.req with
  | none => false
  | some q => (x.admitSeq == 0 || !q.periodic || x.passDue fr) && x.lostIn != some fr

/-- R86: the exclusion of a stream covers frame fr, one of the `excl` after `exclFrom`. -/
def Stream.excluded (x : Stream) (fr : Nat) : Bool :=
  let d := wrapSub 32 fr x.exclFrom
  decide (1 ≤ d ∧ d ≤ x.excl)

/-- R81, R86: a stream waits, and no exclusion holds it in frame fr. -/
def Stream.waits (x : Stream) (fr : Nat) : Bool :=
  (x.st == 1 && !x.excluded fr) || (x.st == 2 && decide (x.excl < wrapSub 32 fr x.exclFrom))

/-- The order in which attempts of one point are judged (R77). -/
def State.judgeBefore (s : State) (a b : Nat) : Bool :=
  let x := s.stream a
  let y := s.stream b
  if x.fair != y.fair then x.fair
  else if s.streamRank a ≠ s.streamRank b then decide (s.streamRank b < s.streamRank a)
  else if x.age ≠ y.age then decide (y.age < x.age) else decide (a < b)

/-- The attempts judged as column i of the sweep starts: their start column is the one the planner may plan next, eight columns ahead (R77; log entry 24). -/
def State.attempts (s : State) (fr at_ : Nat) : List Nat :=
  (List.range 24).filter fun k =>
    let x := s.stream k
    x.waits s.frameNo && x.attemptDue fr && (match x.req with
      | some q => startIdx s.columns fr q == at_ || decide (s.columns ≤ q.lastCol)
      | none => false)

/-- R77: an arbitration point, at the start of the column at sweep index i. -/
def State.arbitrate (s : State) (i : Nat) : State :=
  if ¬ s.dev.emitting then s
  else
    let n := s.columns
    let s := (s.takeEffect fun a => a == Reg.ARB_CTRL).applySlotNext
    let claimant := if s.arb.recheck then 4 else 3
    let s := { s with arb := { s.arb with recheck := false } }
    -- R88: requests of a port that may no longer hold them
    let s := s.each (List.range 24) fun s k =>
      if s.mayRequest (k / 6) then s else s.refuseRole k
    -- R71: a lowered rank counts for pre-emption
    let s := s.each s.holders fun s h =>
      let x := s.stream h
      s.setStream h { x with heldRank := min x.heldRank (s.streamRank h) }
    let s := s.each (s.recheckFrames (claimant == 4)) fun s f => s.each (List.range 256) fun s k => s.recheckSlot f k claimant 24
    let fr := if i + 8 < n then s.frameNo else (s.frameNo + 1) % 2 ^ 32
    let at_ := if i + 8 < n then i + 8 else i + 8 - n
    s.each (sortBy s.judgeBefore (s.attempts fr at_)) fun s k => s.judge fr k

/-! ## Passes -/

/-- A column is planned for the holders that cover it: the pass is in progress (R77, R87). -/
def State.passPlanned (s : State) (c : ColPlan) : State :=
  s.each ((c.segs.map (·.host)).flatten.eraseDups) fun s i =>
    let x := (s.stream i.1).onAcc c.frame i.2 fun a => { a with cols := a.cols + 1, gapped := a.gapped || c.gap }
    s.setStream i.1 { x with st := if x.holder then 4 else x.st }

/-- A planned column is dropped before it started: the passes that it was planned for lose it. -/
def State.passDropped (s : State) (c : ColPlan) : State :=
  s.each ((c.segs.map (·.host)).flatten.eraseDups) fun s i =>
    if (s.stream i.1).accs.any (·.frame == c.frame) then
      s.setStream i.1 ((s.stream i.1).onAcc c.frame i.2 fun a => { a with cols := a.cols - 1 })
    else s

/-- The planner plans its next column, if it may (R49). A slot entry that waits for the column's frame comes into force first (R76). -/
def State.planStep (s : State) : State :=
  let s := s.applySlotNext
  let key := colKey s.plan.planFrame (sweepCol s.columns s.plan.planFrame s.plan.planNext)
  let t := s.planColumn
  if t.plan.planNext = s.plan.planNext then s
  else
    match t.col key with
    | some c => t.passPlanned c
    | none => t

/-- What the shots of a closed segment-column of frame fr add to the pass of a stream, as (stream, admission), that it served. An outcome sent before its columns closed counts
closed columns only (DESIGN CHOICE: log entry 81). -/
def State.addShots (s : State) (key fr : Nat) (p : SegPol) (i : Nat × Nat) : State :=
  if (s.stream i.1).accs.any (·.frame == fr) then
    let pts := (s.segChannels p.seg).map fun ch => s.pt (ptKey key ch)
    s.setStream i.1 ((s.stream i.1).onAcc fr i.2 fun a => { a with
      planned := a.planned + (pts.map (·.planned)).sum, fired := a.fired + (pts.map (·.fired)).sum,
      refused := a.refused + (pts.map (·.refused)).sum })
  else s

/-- A stream whose pass's last column closes has had that pass (R85). -/
def State.closePass (s : State) (c : ColPlan) (i : Nat) : State :=
  let x := s.stream i
  match x.req with
  | some q =>
    if c.column = lastColOf c.frame q ∧ (x.accs.any (·.frame == c.frame) ∨ (x.holder ∧ x.passDue c.frame)) then
      let a := x.accOf c.frame
      let s := s.setStream i { x with served := x.served + 1, dwell := if x.holder then x.dwell + 1 else x.dwell }
      s.outcome i 1 0 0 0xFF (a.gapped || decide (a.cols < q.lastCol + 1 - q.firstCol)) a
    else s
  | none => s

/-- A closed column's point-shots go to the passes it served; a pass whose last column it is receives `SERVED` (R85). -/
def State.passClosed (s : State) (key : Nat) (c : ColPlan) : State :=
  let s := s.each c.segs fun s p => s.each p.host fun s i => s.addShots key c.frame p i
  s.each (List.range 24) fun s i => s.closePass c i

/-! ## Frame boundaries and states (R81, R82, R88) -/

/-- R81: fairness standing at a frame boundary, to one stream at a time, in SENSING and DEGRADED (DESIGN CHOICE: log entry 110). Every stream that waits is eligible, whether or not an attempt of it is due
(DESIGN CHOICE: log entry 56). -/
def State.fairness (s : State) : State :=
  let n := s.ef Reg.ARB_CTRL 7 0
  if n = 0 ∨ s.f Reg.ARB_FAIR_COUNT 7 0 + 1 < n ∨ (List.range 24).any (fun i => (s.stream i).fair) then s
  else
    let wait := (List.range 24).filter fun i => (s.stream i).waits s.frameNo
    match sortBy (fun a b => decide ((s.stream b).age < (s.stream a).age) ||
        ((s.stream a).age == (s.stream b).age && decide (a < b))) wait with
    | [] => s
    | i :: _ => s.setStream i { s.stream i with fair := true }

/-- R76, R81, R82, R89: what a frame boundary does to slots and streams: waiting requests age in SENSING and DEGRADED, by the state after the boundary's
transitions (DESIGN CHOICE: log entry 82). A request queued in the frame of its stream's last outcome backs off from the next one on (R86). -/
def State.arbBoundary (s : State) : State :=
  let s := s.applySlotNext
  let s := s.each (List.range 24) fun s i =>
    let x := s.stream i
    if x.st = 1 ∧ x.excluded s.frameNo then s.setStream i { x with st := 2 } else s
  if ¬ s.dev.emitting then s.syncStreams
  else
    let s := s.each (List.range 24) fun s i =>
      let x := s.stream i
      if x.st = 1 ∨ x.st = 2 then s.setStream i { x with age := min 65535 (x.age + 1) } else s
    s.fairness.syncStreams

/-- R85, R88: whether a frame cut takes holder h: its pass of the frame is in progress, or was still to come (log entry 61). -/
def State.cutTakes (s : State) (h : Nat) : Bool :=
  let x := s.stream h
  match x.req with
  | some q =>
    x.passDue s.frameNo &&
      (x.accs.any (·.frame == s.frameNo) || decide (s.plan.swept ≤ sweepCol s.columns s.frameNo (lastColOf s.frameNo q)))
  | none => false

/-- R85, R88: a holder is taken, and each attempt under way has its outcome. -/
def State.dropHolder (s : State) (h claimant : Nat) : State :=
  s.each ((s.stream h).passes s.frameNo) fun s a => s.takeHolder a.frame h 4 claimant 0xFF

/-- R85: the passes still under way of a stream that was taken for a later one end, each with its outcome. -/
def State.dropPasses (s : State) (i claimant : Nat) (l : List PassAcc) : State :=
  s.each l fun s a => s.takeHolder a.frame i 4 claimant 0xFF

/-- R85, R88: a frame cut takes the holders with a pass in progress, and ends the pass of a stream taken before. -/
def State.arbFrameCut (s : State) : State :=
  s.each (List.range 24) fun s i =>
    let x := s.stream i
    if x.holder then (if s.cutTakes i then s.dropHolder i 5 else s) else s.dropPasses i 5 (x.accs.filter (·.frame == s.frameNo))

/-- R85, R88: leaving SENSING or DEGRADED takes every holder, and ends the passes of streams taken before. -/
def State.arbLeave (s : State) : State :=
  s.each (List.range 24) fun s i => if (s.stream i).holder then s.dropHolder i 6 else s.dropPasses i 6 (s.stream i).accs

/-- R70: a cancelled request ends without an outcome. -/
def State.cancelStream (s : State) (i : Nat) : State :=
  let x := s.stream i
  if x.req.isNone then s
  else s.setStream i { subPrio := x.subPrio, b := x.b, lastCode := x.lastCode, excl := x.excl, exclFrom := x.exclFrom }

/-- ARB_BACKOFF_EXPIRY (R86): the frames of exclusion of stream i have passed. -/
def execArbBackoffExpiry (i : Fin 24) (s : State) : Host.Outcome State Fault Refusal :=
  let x := s.stream i
  .next (if x.st = 2 ∧ x.excl < wrapSub 32 s.frameNo x.exclFrom then s.setStream i { x with st := 1, excl := 0 } else s)

end Sys2Proof.Machine
end

