-- ==== Sys2Proof/Machine/StreamOps.lean ====
section
/-!
DEFINITION. Machine/StreamOps.lean: subscriptions, rings and loss accounting (R358 to R375), and the DMA channels
(R376 to R382), as operations that other chapters call.
-/

namespace Sys2Proof.Machine

def State.sub (s : State) (ch : Nat) : Sub := s.streams.subs.get {} ch

def State.setSub (s : State) (ch : Nat) (u : Sub) : State :=
  { s with streams := { s.streams with subs := s.streams.subs.set {} ch u } }

/-- The subscription channels in use. -/
def State.subList (s : State) : List Nat := s.streams.subs.entries.map (·.1)

/-- A safety-class subscription (R358): `ZONES` or `PROTECT`. -/
def Sub.safety (u : Sub) : Bool := decide (6 ≤ u.kind)

/-- Bytes of a packet with its header (R361). -/
def StreamPkt.size (k : StreamPkt) : Nat := 16 + k.body.length

/-- R374, R375: a loss of a subscription that has ended is kept for the report at the frame boundary. -/
def State.addEnded (s : State) (e : EndedLoss) : State :=
  if e.causes = 0 then s
  else
    let l := s.streams.ended
    let put : List EndedLoss := match l.find? (·.ch == e.ch) with
      | some x => l.map fun y => if y = x then { ch := e.ch, causes := x.causes ||| e.causes, records := x.records + e.records, bytes := x.bytes + e.bytes } else y
      | none => l ++ [e]
    { s with streams := { s.streams with ended := put } }

/-- Add a loss to `STREAM_LOST_RECORDS` and `STREAM_LOST_BYTES`, and set `STREAM_FLAGS.LOSS` (R374). -/
def State.addLoss (s : State) (records bytes : Nat) : State :=
  ((s.add Reg.STREAM_LOST_RECORDS records).add Reg.STREAM_LOST_BYTES bytes).flag Reg.STREAM_FLAGS 0

/-- Count a loss of a subscription under R374. `back` is the `LOST_BYTES` that a lost packet told of: the next packet tells of them (R361). -/
def State.countLoss (s : State) (ch cause records bytes : Nat) (back : Nat := 0) : State :=
  let u := s.sub ch
  let s := if u.state = 0 then s.addEnded { ch, causes := 2 ^ (cause - 1), records, bytes }
    else s.setSub ch { u with
      lostRec := u.lostRec + records, lostBytes := u.lostBytes + bytes, frameRec := u.frameRec + records,
      frameBytes := u.frameBytes + bytes, frameCauses := setBitN u.frameCauses (cause - 1) true,
      owed := min (u.owed + bytes + back) 0xFFFFFFFF }
  s.addLoss records bytes

/-- Bytes a subscription's ring holds (R373). -/
def State.ringCap (s : State) (u : Sub) : Nat :=
  if u.safety then s.f Reg.STREAM_CTRL 31 16 * 1024 else s.f Reg.STREAM_CTRL 15 8 * 1048576

/-- R373: discard the oldest packets of a safety ring until `need` bytes fit, `fuel` packets at most. -/
def State.dropOldest (s : State) (ch need : Nat) : Nat → State
  | 0 => s
  | fuel + 1 =>
    let u := s.sub ch
    if u.fill + need ≤ s.ringCap u then s
    else
      match u.ring with
      | [] => s
      | k :: ks =>
        ((s.setSub ch { u with ring := ks, fill := u.fill - k.size }).countLoss ch 1 k.records k.size).dropOldest ch need fuel

/-- Place a formed packet in its subscription's ring, or discard under R373. -/
def State.placePkt (s : State) (ch : Nat) (k : StreamPkt) : State :=
  let u := s.sub ch
  if u.state ≠ 2 then s
  else
    let s := if u.safety then s.dropOldest ch k.size u.ring.length else s
    let u := s.sub ch
    if s.ringCap u < u.fill + k.size then s.countLoss ch 1 k.records k.size
    else
      s.setSub ch { u with
        ring := u.ring ++ [{ k with pseq := u.placed % 65536 }], placed := u.placed + 1, fill := u.fill + k.size }

/-- The bytes of a packet as it leaves its ring (R361). -/
def StreamPkt.bytes (k : StreamPkt) (sub owed : Nat) : List Byte :=
  leBytes 1 (k.kind + 16 * (sub % 8) + 128 * b2n k.cont) ++ leBytes 1 0 ++ leBytes 2 k.pseq ++ leBytes 4 k.frame ++
    leBytes 2 k.records ++ leBytes 2 0 ++ leBytes 4 owed ++ k.body

/-- The lane that carries a class of a port: the port's own, or the carrying lane of its pair (R396). -/
def State.classLane (s : State) (p : Nat) (safety : Bool) : Nat :=
  if s.pairFormed (p / 2) then
    2 * (p / 2) + s.f (Reg.PAIR_STATUS (p / 2)) (if safety then 0 else 1) (if safety then 0 else 1)
  else p

def State.lane (s : State) (l : Nat) : LaneSt := s.lanes.get {} l

def State.setLane (s : State) (l : Nat) (x : LaneSt) : State := { s with lanes := s.lanes.set {} l x }

/-- A packet of a subscription goes to the transmit queue of lane l, and tells of what was lost before it (R361). -/
def State.sendPkt (s : State) (ch l : Nat) (k : StreamPkt) : State :=
  let u := s.sub ch
  let tp : TxPacket := { bytes := k.bytes (ch % 8) u.owed, sub := some ch, records := k.records, size := k.size, owed := u.owed }
  let s := s.setSub ch { u with owed := 0 }
  let x := s.lane l
  if u.safety then s.setLane l { x with txSaf := x.txSaf ++ [tp] } else s.setLane l { x with txBlk := x.txBlk ++ [tp] }

/-- R373, R383: whether the lane queue of a subscription's class takes a packet: its lane is `UP` and not in SLEEP, and the packet before has left the queue (log entry 101). -/
def State.laneTakes (s : State) (ch : Nat) : Bool :=
  let u := s.sub ch
  let l := s.classLane u.port u.safety
  s.f (Reg.LANE_STATUS l) 3 0 == 5 && s.f (Reg.LANE_STATUS l) 9 8 != 2 && (if u.safety then (s.lane l).txSaf.isEmpty else (s.lane l).txBlk.isEmpty)

/-- Move the oldest packet of a subscription's ring to the transmit queue of its lane (R376). -/
def State.movePkt (s : State) (ch : Nat) : State :=
  let u := s.sub ch
  match u.ring with
  | [] => s
  | k :: ks => (s.setSub ch { u with ring := ks, fill := u.fill - k.size }).sendPkt ch (s.classLane u.port u.safety) k

/-- Bytes waiting in a subscription, in its ring and as records not yet packed. -/
def Sub.waiting (u : Sub) : Nat := u.fill + (u.pend.map (·.bytes.length)).sum

def State.dma (s : State) (n : Nat) : DmaCh := s.streams.chans.get {} n

def State.setDma (s : State) (n : Nat) (c : DmaCh) : State :=
  { s with streams := { s.streams with chans := s.streams.chans.set {} n c } }

/-- R360: a packet that the DMA channel of a subscription is moving completes and is sent. -/
def State.finishMove (s : State) (ch : Nat) : State :=
  if s.f (Reg.DMA_STATUS ch) 1 0 = 1 ∧ (s.dma ch).moved = false ∧ s.laneTakes ch then (s.movePkt ch).setDma ch { s.dma ch with moved := true } else s

/-- End one subscription at once (R360); what it lost in the frame is still reported (R375). -/
def State.endSub (s : State) (ch : Nat) : State :=
  let u := s.sub ch
  (s.setSub ch {}).addEnded { ch, causes := u.frameCauses, records := u.frameRec, bytes := u.frameBytes }

/-- A record begins here: neither the header of a column nor the mark of an empty list is one. -/
def PendRec.starts (r : PendRec) : Bool := r.first && r.tag != 1 && r.tag != 4

/-- End every subscription of a port whose role ended, with the losses of cause `ROLE` (R360). -/
def State.endPortSubs (s : State) (p : Nat) : State :=
  s.each (s.subList.filter fun ch => (s.sub ch).port == p) fun s ch =>
    let s := s.finishMove ch
    let u := s.sub ch
    let recs := (u.ring.map (·.records)).sum + (u.pend.filter PendRec.starts).length
    ((if u.waiting = 0 then s else s.countLoss ch 6 recs u.waiting)).endSub ch

/-- End every subscription without accounting, on entry into FAULT_HALT (R360). -/
def State.endAllSubs (s : State) : State :=
  let s := s.each s.subList fun s ch => s.setSub ch {}
  { s with streams := { s.streams with ended := [] } }

/-- R361, R371: the bodies of the packets that carry `n` records of `size` bytes, `most` to a packet; without a record one empty body. -/
def packBodies (size most n : Nat) (b : List Byte) : List (List Byte) :=
  if n = 0 then [[]] else (List.range ((n + most - 1) / most)).map fun i => (b.drop (size * most * i)).take (size * most)

/-- The newest alerts of the zones that are enabled now (R397). -/
def State.alertsNow (s : State) : List (List Byte) :=
  (s.streams.newestAlert.entries.filter fun e => s.f (Reg.ZONE_STATE e.1) 1 0 != 0).map (·.2)

/-- R397: the packets of a snapshot for a subscription of the safety class: the newest alert of every enabled zone, or the newest protective list. -/
def State.snapshotPkts (s : State) (ch : Nat) : List StreamPkt :=
  let frame := s.r Reg.PLAN_FRAME_NUMBER
  match (s.sub ch).kind with
  | 6 => if s.alertsNow.isEmpty then [] else [{ kind := 6, frame, records := s.alertsNow.length, body := s.alertsNow.flatten }]
  | 7 => (packBodies 48 84 (s.streams.newestList.length / 48) s.streams.newestList).map fun b =>
      { kind := 7, frame, records := b.length / 48, body := b }
  | _ => []

/-- R397: the snapshot of the safety class enters the rings of a port's subscriptions. -/
def State.snapshot (s : State) (p : Nat) : State :=
  s.each (s.subList.filter fun ch => (s.sub ch).port == p) fun s ch => s.each (s.snapshotPkts ch) fun s k => s.placePkt ch k

/-! ## DMA channels -/

/-- R4: whether `n` bytes from `a` lie in the DRAM that the variant addresses; the spec gives no size to the other spaces. -/
def dramHolds (v : Variant) (space a n : Nat) : Bool := space != 0 || decide (a + n ≤ v.dramBytes)

/-- R4, R378: whether every byte that a descriptor names exists; a fixed address stays within its beat. -/
def Desc.inDram (d : Desc) (v : Variant) : Bool :=
  dramHolds v d.srcSpace d.src (if d.srcFixed then 1 else d.count) && dramHolds v d.dstSpace d.dst (if d.dstFixed then 1 else d.count)

/-- The place of a byte in the DMA channels' spaces: space, unit, address. The stacked DRAM has no units. -/
def spaceKey (space unit a : Nat) : Nat := (space * 16 + if space = 0 then 0 else unit) * 2 ^ 32 + a

/-- A byte of a space as DMA channels see it (log entry 78). -/
def State.spaceByte (s : State) (space unit a : Nat) : Byte := s.streams.spaces.get 0 (spaceKey space unit a)

def State.setSpaceByte (s : State) (space unit a : Nat) (v : Byte) : State :=
  { s with streams := { s.streams with spaces := s.streams.spaces.set 0 (spaceKey space unit a) v } }

/-- `n` bytes of the stacked DRAM from `a`. -/
def State.dramBytes (s : State) (a n : Nat) : List Byte := (List.range n).map fun i => s.spaceByte 0 0 (a + i)

/-- Write bytes to the stacked DRAM from `a` on. -/
def State.putDram (s : State) (a : Nat) (bs : List Byte) : State := s.each bs.zipIdx fun s e => s.setSpaceByte 0 0 (a + e.2) e.1

/-- R377: the descriptor that 32 bytes spell. -/
def descOf (b : List Byte) : Desc :=
  { next := fieldAt b 0 4, src := fieldAt b 4 4, dst := fieldAt b 8 4, count := fieldAt b 12 3, srcSpace := fieldBits b 15 1 3 0, dstSpace := fieldBits b 15 1 7 4
    seqno := fieldAt b 16 2, notify := fieldBits b 18 1 0 0 == 1, srcFixed := fieldBits b 18 1 1 1 == 1, dstFixed := fieldBits b 18 1 2 2 == 1
    srcSel := fieldBits b 19 1 3 0, dstSel := fieldBits b 19 1 7 4, status := fieldAt b 20 4, crcOk := crc32c (bytesAt b 4 16) == fieldAt b 28 4 }

/-- The descriptor at `a`. -/
def State.desc (s : State) (a : Nat) : Desc := descOf (s.dramBytes a 32)

/-- Bytes of a descriptor at `a` are written in DRAM, from its byte `o` on; where there is none nothing is. -/
def State.putDesc (s : State) (a o : Nat) (bs : List Byte) : State := if dramHolds s.variant 0 a 32 then s.putDram (a + o) bs else s

/-- The engine writes the `STATUS` of the descriptor at `a` (R377). -/
def State.setDescStatus (s : State) (a v : Nat) : State := s.putDesc a 20 (leBytes 4 v)

/-- `DMA_HALTED_LO` and `DMA_HALTED_HI`: the bit of channel n (R384). -/
def State.setHalted (s : State) (n : Nat) (b : Bool) : State :=
  if n < 32 then s.setBit Reg.DMA_HALTED_LO n b else s.setBit Reg.DMA_HALTED_HI (n - 32) b

/-- Halt channel n at the descriptor at `a` (R381). -/
def State.haltDma (s : State) (n a code : Nat) : State :=
  let d := s.desc a
  let used := if code = 2 then d.status / 256 else s.f (Reg.DMA_STATUS n) 11 8
  let s := s.setDescStatus a (setBitN d.status 1 true % 4 + 4 * code + 256 * used)
  let c := s.dma n
  let s := s.setDma n { c with failed := a, restarting := false, haltedAt := some s.now }
  let s := (s.flag Reg.STREAM_FLAGS code).setHalted n true
  let s := ((s.setF (Reg.DMA_STATUS n) 1 0 3).setF (Reg.DMA_STATUS n) 5 4 code).setF (Reg.DMA_STATUS n) 31 16 d.seqno
  let s := s.post Rec.DMA_HALTED (n + 64 * code)
  let s := s.raise Ev.DMA_HALTED .all (leBytes 1 n ++ leBytes 1 code ++ leBytes 2 d.seqno ++ leBytes 4 a)
  if c.restarting then s.finish Op.DMA_RESTART Sts.INTERNAL_ERROR 0 else s

/-- R377: whether a descriptor may run. -/
def Desc.valid (d : Desc) : Bool := d.crcOk && d.count != 0 && decide (d.srcSpace ≤ 7) && decide (d.dstSpace ≤ 7)

/-- Channel n halts at the descriptor at `a` with `BUS_ERROR`, its retries used: an access beyond the DRAM is answered with an error (log entry 79). -/
def State.noDram (s : State) (n a : Nat) : State := (s.setF (Reg.DMA_STATUS n) 11 8 (s.f Reg.STREAM_CTRL 3 0)).haltDma n a 1

/-- Fetch the descriptor at `a` into channel n (R377, R379, R381). One that is not aligned to 32 bytes fails R377. -/
def State.fetchDesc (s : State) (n a : Nat) : State :=
  let s := (s.setR (Reg.DMA_CUR n) a).setF (Reg.DMA_STATUS n) 11 8 0
  let s := s.setDma n { s.dma n with tries := 0 }
  if !dramHolds s.variant 0 a 32 then s.noDram n a
  else if a % 32 = 0 ∧ (s.desc a).valid then s.setF (Reg.DMA_STATUS n) 1 0 1 else s.haltDma n a 3

/-- The end mark of a chain (R377). -/
def endMark : Nat := 0xFFFFFFFF

/-- Go on from a `NEXT` value: fetch, or wait at the tail (R379). -/
def State.followNext (s : State) (n next : Nat) : State :=
  if next = endMark then s.setF (Reg.DMA_STATUS n) 1 0 2 else s.fetchDesc n next

/-- R374, R382: the data of the failed descriptor of a channel DMA0 to DMA35 is lost: the packet at the front of the ring, or of the queue of replies and events (DESIGN
CHOICE: log entry 102). A packet completed with `LATE_ERROR` was counted at the halt. -/
def State.loseFailed (s : State) (n : Nat) : State :=
  if s.f (Reg.DMA_STATUS n) 5 4 = 2 then s
  else if n < 32 then
    let u := s.sub n
    match u.ring with
    | [] => s
    | k :: ks => (s.setSub n { u with ring := ks, fill := u.fill - k.size }).countLoss n 2 k.records k.size
  else if n < 36 then
    match (s.port (n - 32)).out with
    | [] => s
    | k :: _ => ((s.popOut (n - 32)).addLoss 1 (16 + k.params.length)).seqBack (n - 32)
  else s

/-- Take channel n out of its halt (R382), to repeat the failed descriptor or, its data lost, to go on from its `NEXT`. -/
def State.restartDma (s : State) (n : Nat) (skip : Bool) : State :=
  let a := (s.dma n).failed
  let s := if skip then s.loseFailed n else s
  let s := (s.setHalted n false).setF (Reg.DMA_STATUS n) 5 4 0
  if skip then s.followNext n (s.desc a).next else s.fetchDesc n a

/-- R382, R383: the supervisor's restart of a halted channel DMA0 to DMA35 at a frame boundary; one that halts at the boundary's own instant waits for the next. -/
def State.autoRestartDma (s : State) (n : Nat) : State :=
  if s.f (Reg.DMA_STATUS n) 1 0 ≠ 3 ∨ (s.dma n).haltedAt = some s.now then s else s.restartDma n true

end Sys2Proof.Machine
end

