-- ==== Sys2Proof/Machine/PortOps.lean ====
section
/-!
DEFINITION. Machine/PortOps.lean: replies (R333), the replies kept for resends (R337), and what a port that falls to OBSERVER loses (R340).
-/

namespace Sys2Proof.Machine

/-- Send a reply to a command of port p (R330, R333, R357). -/
def State.sendReply (s : State) (p opcode tag status : Nat) (params : List Byte) (port : Nat := p) : State :=
  let s := s.formPkt p opcode tag false false status params port
  let s := s.when (status == Sts.BUSY) fun s => s.flag Reg.CMD_FLAGS 0
  let s := s.when (status == Sts.BAD_HEADER) fun s => s.flag Reg.CMD_FLAGS 1
  let s := s.when (status == Sts.INTERNAL_ERROR) fun s => s.post Rec.INTERNAL_ERROR opcode
  s.when (status != Sts.OK) fun s => s.inc (Reg.PORT_CMD_ERR p)

/-- The 8 parameter bytes of a reply with a status other than `OK` (R333). -/
def errParams (detail further : Nat) : List Byte := leBytes 4 detail ++ leBytes 4 further

/-- R337: keep the reply of an executed command; it replaces the entry of the same tag. -/
def State.keepReply (s : State) (p : Nat) (k : KeptReply) : State :=
  let q := s.port p
  let l := q.kept.filter (fun x => x.tag != k.tag) ++ [k]
  s.setPort p { q with kept := l.drop (l.length - 16) }

/-- The reply of a command that was executed: kept and sent. -/
def State.answer (s : State) (p opcode tag status : Nat) (params : List Byte) (port : Nat := p) : State :=
  (s.keepReply p ⟨tag, opcode, status, params, port⟩).sendReply p opcode tag status params port

/-- The `PORT` field of a command. -/
def QCmd.port (x : QCmd) : Nat := x.cmd.b4.toNat % 8

/-- R342: the commands that run in FAULT_HALT. -/
def haltOpcode (opcode : Nat) : Bool := opcode == Op.IDENTIFY || opcode == Op.RECORDER_READ || opcode == Op.RESET_DEVICE

/-- A command that waited when FAULT_HALT was entered is answered `ABORTED`. -/
def State.sendAborted (s : State) (p : Nat) (c : QCmd) : State := s.sendReply p c.opcode c.cmd.tag.toNat Sts.ABORTED (errParams 0 0) c.port

/-- R356, R404: queued commands are answered `ABORTED` on entry into FAULT_HALT, but for those that run there; one that waits behind such a command is answered after it
(R334). A block that a `RESET_DEVICE` is about to reset answers none (R356). -/
def State.abortQueues (s : State) : State :=
  if s.sys.resetAt.isSome then s
  else s.each [0, 1, 2, 3, 4] fun s p =>
    let q := s.port p
    let gone := q.queue.takeWhile fun c => !haltOpcode c.opcode
    let rest := (q.queue.dropWhile fun c => !haltOpcode c.opcode).map fun c => { c with aborted := c.aborted || !haltOpcode c.opcode }
    let s := (s.setPort p { q with queue := rest }).syncPort p
    s.each gone fun s c => s.sendAborted p c

/-- R340, R360: what a port loses whose role fell to OBSERVER. Its requests end at the next arbitration point (R88). -/
def State.roleFell (s : State) (p : Nat) : State := if s.role p = .observer then s.endPortSubs p else s

/-- R450: an update session ends; a commit under way is reported as aborted. -/
def State.endUpdate (s : State) : State :=
  if s.boot.upd.isNone then s
  else (State.setR { s with boot := { s.boot with upd := none } } Reg.UPDATE_STATUS 0).finish Op.UPDATE_COMMIT Sts.ABORTED 0

/-- A change of owner with its effects on the former owner (R340, R360, R450). -/
def State.changeOwner (s : State) (new : Option Nat) (reason : Nat) : State :=
  let old := s.owner
  let s := s.setOwner new reason
  match old with
  | some p => (s.roleFell p).endUpdate
  | none => s

end Sys2Proof.Machine
end

