-- ==== Sys2Proof/Machine/CapOps.lean ====
section
/-!
DEFINITION. Machine/CapOps.lean: the capture engine (R280 to R286, R499) as operations: items, gaps, triggers, closing and re-arming.
-/

namespace Sys2Proof.Machine

def State.setCap (s : State) (c : Cap) : State := { s with cap := c }

/-- `CAP_STATUS.STATE` (R282): 0 IDLE, 1 ARMING, 2 ARMED, 3 POST, 4 CLOSING, 5 STOPPED. -/
def State.capSt (s : State) : Nat := s.f Reg.CAP_STATUS 2 0

def State.setCapSt (s : State) (v : Nat) : State := s.setF Reg.CAP_STATUS 2 0 v

def State.capSlot (s : State) (i : Nat) : CapSlot := s.cap.slots.get {} i

def State.setCapSlot (s : State) (i : Nat) (x : CapSlot) : State :=
  let s := s.setCap { s.cap with slots := s.cap.slots.set {} i x }
  s.setF Reg.CAP_STATUS 11 8 (s.cap.slots.entries.filter fun e => e.2.st == 2).length

/-- The slots of `CAP_SIZE`. -/
def State.capSlots (s : State) : Nat := s.f Reg.CAP_SIZE 26 24 + 1

/-- The engine stores items. -/
def State.capOn (s : State) : Bool := decide (1 ≤ s.capSt ∧ s.capSt ≤ 3)

/-- R280: an item of a type and comb with a 48-bit payload. -/
def capWord (type comb payload : Nat) : List Byte := leBytes 8 (payload % 2 ^ 48 + comb * 2 ^ 55 + type * 2 ^ 60)

/-- The bytes that an entry takes in the input FIFO. -/
def CapIn.size : CapIn → Nat
  | .item b => b.length
  | .angle _ _ => 8
  | .loss _ _ _ => 0

/-- R281: an entry comes to the 16 KiB input FIFO at instant `at_`; an item that finds it full is lost there with cause `INPUT`, and a loss joins one of its cause
before it. -/
def capPush (at_ : Nat) (l : List CapIn) (x : CapIn) : List CapIn :=
  let y : CapIn := if 16384 < (l.map CapIn.size).sum + x.size then .loss 1 1 at_ else x
  match y, l.getLast? with
  | .loss c n _, some (.loss d m t) => if c = d then l.dropLast ++ [.loss c (m + n) t] else l ++ [y]
  | _, _ => l ++ [y]

/-- What a source gives the engine enters its input FIFO while the engine stores items. -/
def State.capOffer (s : State) (l : List CapIn) : State := if s.capOn then s.setCap { s.cap with input := l.foldl (capPush s.now) s.cap.input } else s

/-- R280: raw events and markers of comb c are captured. -/
def State.capComb (s : State) (c bit : Nat) : Bool := s.capOn && s.bit Reg.CAP_CTRL bit && s.bit Reg.CAP_COMBS c

/-- Bytes of the ring. -/
def ringBytes (l : List (Nat × List Byte)) : Nat := (l.map (·.2.length)).sum

/-- R282: the ring discards its oldest whole items. -/
def trimRing (cap : Nat) : Nat → List (Nat × List Byte) → List (Nat × List Byte)
  | 0, l => l
  | n + 1, l =>
    match l with
    | [] => []
    | _ :: r => if ringBytes l ≤ cap then l else trimRing cap n r

/-- R282: in POST the data has reached `POST` × 4 KiB, where it ends. -/
def State.postFull (s : State) : Bool := s.capSt == 3 && decide (s.f Reg.CAP_SIZE 23 12 * 4096 ≤ (s.capSlot s.cap.cur).postBytes)

/-- Store one item (R280 to R282). -/
def State.storeItem (s : State) (b : List Byte) : State :=
  match s.capSt with
  | 3 =>
    let x := s.capSlot s.cap.cur
    if s.postFull then s
    else s.setCapSlot s.cap.cur { x with
      items := x.items ++ [b], postBytes := x.postBytes + b.length, firstTime := if x.items.isEmpty then s.time.dev else x.firstTime }
  | _ =>
    let l := s.cap.ring ++ [(s.time.dev, b)]
    s.setCap { s.cap with ring := trimRing (s.f Reg.CAP_SIZE 11 0 * 4096) l.length l }

/-- R280: a `TIME` item. -/
def State.storeTime (s : State) : State :=
  let s := s.storeItem (capWord 4 0 (s.time.dev % 2 ^ 48))
  s.setCap { s.cap with timeAt := s.now }

/-- R281: the pending loss becomes one `GAP` item, followed by a `TIME` item, where the capture still takes items. -/
def State.storeGap (s : State) : State :=
  match s.cap.loss with
  | none => s
  | some (cause, lost, since) =>
    let s := s.setCap { s.cap with loss := none }
    if s.postFull then s else
    let n := min 0xFFFFFF lost
    let s := s.storeItem (capWord 3 0 (n + 2 ^ 24 * cause + 2 ^ 32 * min 0xFFFF (divRoundNat (s.now - since) 100)))
    (((s.inc Reg.CAP_GAPS).add Reg.CAP_GAP_ITEMS n).flag Reg.CAP_FLAGS 2).storeTime

/-- The `LOST` of each `GAP` among stored items (R280). -/
def gapsOf (l : List (List Byte)) : List Nat :=
  l.filterMap fun b => if (b.getD 7 0).toNat / 16 = 3 then some (fieldAt b 0 3) else none

/-- R281: a loss, the first of its units at instant `since`, joins the pending one of its cause, or follows it as a gap of its own. -/
def State.capLoss (s : State) (cause lost since : Nat) : State :=
  match s.cap.loss with
  | some (c, n, t) =>
    if c = cause then s.setCap { s.cap with loss := some (c, n + lost, t) }
    else let s := s.storeGap; s.setCap { s.cap with loss := some (cause, lost, since) }
  | none => s.setCap { s.cap with loss := some (cause, lost, since) }

/-- R280: the `HIST` item of a staged point of comb c. -/
def Staged.item (c : Nat) (st : Staged) : List Byte :=
  let b := st.bytes ++ List.replicate ((8 - st.bytes.length % 8) % 8) 0
  capWord 7 c b.length ++ b

/-- The first selected comb with a staged point that the input FIFO has room for (R208, R281). -/
def State.stagedComb (s : State) : Option Nat :=
  let full := (s.cap.input.map CapIn.size).sum
  (List.range 32).find? fun c => s.capComb c 1 && (match (s.combs.get {} c).stage with
    | st :: _ => decide (full + (st.item c).length ≤ 16384)
    | [] => false)

/-- R208, R281: the engine takes staged points into its input FIFO as long as one fits; the others wait in their staging areas. -/
def State.pullStaged (s : State) : Nat → State
  | 0 => s
  | n + 1 =>
    match s.stagedComb with
    | none => s
    | some c =>
      let x := s.combs.get {} c
      let s := s.capOffer ((x.stage.take 1).map fun st => .item (st.item c))
      let s := { s with combs := s.combs.set {} c { x with stage := x.stage.drop 1 } }
      (s.setF (Reg.HIST_STATUS c) 21 16 (toKib ((x.stage.drop 1).map (·.size)).sum)).pullStaged n

/-- The staged points that wait. -/
def State.stagedCount (s : State) : Nat := ((List.range 32).map fun c => (s.combs.get {} c).stage.length).sum

/-- An item leaves the input FIFO for the ring or the capture; with `fault` 4 its DRAM write failed, and it is lost. -/
def State.takeItem (s : State) (fault : Nat) (b : List Byte) : State := if fault = 4 then s.capLoss 4 1 s.now else s.storeGap.storeItem b

/-- R280: the `ANGLE` item of a sample taken at instant `at_`, as it stands behind the last `TIME` item; an older sample has the
offset 0 (DESIGN CHOICE: log entry 95). -/
def State.angleItem (s : State) (codes at_ : Nat) : List Byte := capWord 5 0 (codes + 2 ^ 32 * min 65535 (divRoundNat (at_ - s.cap.timeAt) 10))

/-- CAPTURE_ITEM (R280, R281): what stands first in the engine's input FIFO is stored, or lost. A `GAP` and its `TIME` that are due come before it. While DMA45 is
halted the FIFO keeps it (R376, R381). -/
def execCaptureItem (fault : Fin 5) (s : State) : Host.Outcome State Fault Refusal :=
  .next (if !s.capOn ∨ s.f (Reg.DMA_STATUS 45) 1 0 = 3 then s
    else
      let s := s.pullStaged s.stagedCount
      match s.cap.input with
      | .loss cause n t :: r => (s.setCap { s.cap with input := r }).capLoss cause n t
      | .item b :: r => (s.setCap { s.cap with input := r }).takeItem fault b
      | .angle codes at_ :: r =>
        let s := s.setCap { s.cap with input := r }
        let s := if fault = 4 then s else s.storeGap
        s.takeItem fault (s.angleItem codes at_)
      | [] => s)

/-- CAPTURE_TIME_ITEM (R280): 64 µs after the last `TIME` item. -/
def execCaptureTimeItem (s : State) : Host.Outcome State Fault Refusal :=
  .next (if s.capOn ∧ s.cap.timeAt + 64000 ≤ s.now then s.storeGap.storeTime else s)

/-- CAPTURE_PRE_FULL (R282): the ring holds `PRE` × 4 KiB: it is within one item of its limit. -/
def execCapturePreFull (s : State) : Host.Outcome State Fault Refusal :=
  .next (if s.capSt = 1 ∧ s.f Reg.CAP_SIZE 11 0 * 4096 < ringBytes s.cap.ring + 8 then s.setCapSt 2 else s)

/-! ## Slots, closing and re-arming (R282, R284) -/

/-- The slot that an arming engine takes: a free one, or with `OVERWRITE` the oldest unread one. -/
def State.armSlot (s : State) : Option Nat :=
  let l := List.range s.capSlots
  match l.find? fun i => (s.capSlot i).st == 0 with
  | some i => some i
  | none =>
    if s.bit Reg.CAP_SIZE 27 then
      (l.filter fun i => (s.capSlot i).st == 2).foldl (fun a i => match a with
        | none => some i
        | some j => if (s.capSlot i).seq < (s.capSlot j).seq then some i else some j) none
    else none

/-- Enter ARMING with an empty ring in a slot, or STOPPED. -/
def State.armCapture (s : State) : State :=
  match s.armSlot with
  | some i =>
    let s := s.setCapSlot i { st := 1 }
    let s := s.setCap { s.cap with cur := i, input := [], ring := [], loss := none, acceptAt := none, stopped := none }
    (s.setCapSt 1).storeTime
  | none => (s.setCapSt 5).flag Reg.CAP_FLAGS 4

/-- The dead time so far, in 100 ns. -/
def State.deadTime (s : State) : Nat :=
  match s.cap.acceptAt with
  | some t => min 0xFFFFFFFF (divRoundNat (s.now - t) 100)
  | none => 0

/-- `CAPTURE_DONE` with the slot number and the dead time (R284). -/
def State.captureDone (s : State) (slot dead : Nat) : State := s.raise Ev.CAPTURE_DONE .all (leBytes 4 slot ++ leBytes 4 dead)

/-- R284: a measured dead time goes to the registers and the header. -/
def State.recordDead (s : State) (slot : Nat) : State :=
  let d := s.deadTime
  let s := (s.setR Reg.CAP_DEAD_LAST d).setR Reg.CAP_DEAD_MAX (max d (s.r Reg.CAP_DEAD_MAX))
  (s.setCapSlot slot { s.capSlot slot with dead := d }).captureDone slot d

/-- The capture in the current slot closes: its header is fixed and it is readable. -/
def State.closeSlot (s : State) (truncated : Bool) : State :=
  let s := s.inc Reg.CAP_COUNT
  let s := if truncated then s.flag Reg.CAP_FLAGS 3 else s
  let x := s.capSlot s.cap.cur
  s.setCapSlot s.cap.cur { x with st := 2, seq := s.r Reg.CAP_COUNT, truncated, kind := s.f Reg.CAP_CTRL 2 0, combs := s.r Reg.CAP_COMBS }

/-- R282, R284: the engine re-arms: the dead time of the capture in a slot ends now. -/
def State.rearmAfter (s : State) (slot : Nat) : State :=
  let s := (s.recordDead slot).armCapture
  s.setCap { s.cap with rearmed := some (s.now, slot) }

/-- R282, R284: after a close the engine re-arms, or stops for want of a slot. -/
def State.rearm (s : State) : State :=
  let slot := s.cap.cur
  if s.armSlot.isSome then s.rearmAfter slot
  else (s.armCapture).setCap { s.cap with stopped := some slot }

/-- CAPTURE_POST_FULL (R282). -/
def execCapturePostFull (s : State) : Host.Outcome State Fault Refusal :=
  .next (if s.capSt = 3 ∧ s.f Reg.CAP_SIZE 23 12 * 4096 ≤ (s.capSlot s.cap.cur).postBytes then s.setCapSt 4 else s)

/-- CAPTURE_CLOSED (R284): the header is written, and the engine re-arms or stops. -/
def execCaptureClosed (s : State) : Host.Outcome State Fault Refusal :=
  .next (if s.capSt = 4 then (s.closeSlot false).rearm else s)

/-! ## Triggers (R283) -/

/-- A trigger that the state does not accept is missed, in the dead time of the capture in a slot. -/
def State.missTrigger (s : State) (slot time : Nat) : State :=
  let s := (s.inc Reg.CAP_MISSED).flag Reg.CAP_FLAGS 1
  let x := s.capSlot slot
  s.setCapSlot slot { x with missed := x.missed + 1, firstMissed := if x.missed = 0 then time else x.firstMissed }

/-- R283: a trigger of an enabled source: accepted, missed or, in IDLE, ignored. With `TRIG_OUT` it is held for the member's own slot. DESIGN CHOICE
(log entry 66): triggers of one instant are those of one supervisor cycle; the lowest code among them is the accepted one. One that comes at the
instant of a re-arm is missed (R287). -/
def State.trigger (s : State) (src detail time : Nat) : State :=
  if !s.bit Reg.CAP_TRIG_MASK src ∨ s.capSt = 0 then s
  else if (s.cap.rearmed.map (·.1)) = some s.now ∧ s.capSt ≠ 3 then s.missTrigger ((s.cap.rearmed.map (·.2)).getD 0) time
  else if s.capSt = 1 ∨ s.capSt = 2 then
    let short := s.capSt == 1
    let l := s.cap.ring
    let s := if short then s.flag Reg.CAP_FLAGS 0 else s
    let x := s.capSlot s.cap.cur
    let s := s.setCapSlot s.cap.cur { x with
      src, detail, trigTime := time, preShort := short, preBytes := ringBytes l, items := l.map (·.2), firstTime := (l.headD (0, [])).1 }
    let s := (s.setCap { s.cap with ring := [], acceptAt := some s.now }).setCapSt 3
    if src ≠ 3 ∧ s.bit Reg.SWARM_CTRL 0 ∧ s.bit Reg.SWARM_CTRL 5 then
      { s with sync := { s.sync with trig := some (time, s.r Reg.CAP_COUNT) } }
    else s
  else if s.capSt = 3 ∧ s.cap.acceptAt = some s.now ∧ src < (s.capSlot s.cap.cur).src then
    let x := s.capSlot s.cap.cur
    let s := (s.setCapSlot s.cap.cur { x with src, detail, trigTime := time }).missTrigger s.cap.cur x.trigTime
    if s.bit Reg.SWARM_CTRL 0 ∧ s.bit Reg.SWARM_CTRL 5 then { s with sync := { s.sync with trig := some (time, s.r Reg.CAP_COUNT) } } else s
  else s.missTrigger (s.cap.stopped.getD s.cap.cur) time

/-- A `FAULT` trigger with a cause code (R283). -/
def State.faultTrigger (s : State) (cause : Nat) : State := s.trigger 1 cause s.time.dev

/-! ## Commands (R286, R499) -/

/-- `CAPTURE_ARM`. -/
def State.captureArm (s : State) : State :=
  match s.capSt with
  | 0 => s.armCapture
  | 3 => (s.storeGap.closeSlot true).rearm
  | 4 => (s.closeSlot false).rearm
  | 5 => if s.armSlot.isSome then (match s.cap.stopped with | some k => s.rearmAfter k | none => s.armCapture) else s
  | _ => (s.setCapSlot s.cap.cur {}).armCapture

/-- `CAPTURE_STOP`. -/
def State.captureStop (s : State) : State :=
  let done (s : State) : State := s.captureDone s.cap.cur 0xFFFFFFFF
  let s := match s.capSt with
    | 3 => done (s.storeGap.closeSlot true)
    | 4 => done (s.closeSlot false)
    | 1 => s.setCapSlot s.cap.cur {}
    | 2 => s.setCapSlot s.cap.cur {}
    | _ => s
  (s.setCap { s.cap with input := [], ring := [], loss := none, acceptAt := none, stopped := none }).setCapSt 0

/-- `CAPTURE_FREE` of a readable slot; an engine in STOPPED re-arms in it. -/
def State.captureFree (s : State) (i : Nat) : State :=
  if s.capSt = 5 then
    let k := s.cap.stopped
    match k with
      | some k =>
        if k = i then
          let s := ((s.recordDead k).setCapSlot i {}).armCapture
          s.setCap { s.cap with rearmed := some (s.now, k) }
        else (s.setCapSlot i {}).rearmAfter k
      | none => (s.setCapSlot i {}).armCapture
  else s.setCapSlot i {}

/-- R285: `GAP_COUNT` of a capture: the `GAP` items it holds. -/
def CapSlot.gaps (x : CapSlot) : Nat := (gapsOf x.items).length

/-- R285: `GAP_LOST`. -/
def CapSlot.gapLost (x : CapSlot) : Nat := (gapsOf x.items).sum

/-- R285: the header of a capture. -/
def CapSlot.header (x : CapSlot) : List Byte :=
  let b := leBytes 4 x.seq ++ leBytes 1 x.kind ++ leBytes 1 x.src ++
    leBytes 1 (b2n x.preShort + 2 * b2n x.truncated + 4 * b2n (x.gaps != 0)) ++ leBytes 1 x.detail ++ leBytes 8 x.trigTime ++
    leBytes 8 x.firstTime ++ leBytes 4 x.preBytes ++ leBytes 4 x.postBytes ++ leBytes 4 x.dead ++ leBytes 4 x.missed ++
    leBytes 8 x.firstMissed ++ leBytes 4 x.gaps ++ leBytes 4 x.gapLost ++ leBytes 4 x.combs
  b ++ leBytes 4 (crc32c b)

/-- A capture as it is read (R499). -/
def CapSlot.bytes (x : CapSlot) : List Byte := x.header ++ x.items.flatten

/-- R286: FAULT_HALT discards the slots. -/
def State.discardCaptures (s : State) : State := (s.setCap {}).setR Reg.CAP_STATUS 0

end Sys2Proof.Machine
end

