-- ==== Sys2Proof/Machine/EmitOps.lean ====
section
/-!
DEFINITION. Machine/EmitOps.lean: the emitter drive (chapter 4) as operations: dither (R211 to R215), the gate and its
accountant, the cut of a drip window, drip frames and the load image, the laser-function shutdown, `LASER_EN` and the fade.
-/

namespace Sys2Proof.Machine

def State.tiles (s : State) : Nat := s.f Reg.EMIT_CTRL 15 12

def State.laserEn (s : State) : Bool := s.bit Reg.EMIT_STATUS 0

def State.fading (s : State) : Bool := s.bit Reg.EMIT_STATUS 1

def State.lsd (s : State) : Bool := s.bit Reg.EMIT_STATUS 2

def State.tileLocked (s : State) (t : Nat) : Bool := s.bit Reg.EMIT_STATUS (24 + t)

def State.setEmit (s : State) (e : Emit) : State := { s with emit := e }

/-! ## Dither (R211 to R215) -/

/-- One step of the dither generator (R212): the output bit and the new state. -/
def lfsrStep (x : Nat) : Nat × Nat := (x % 2, if x % 2 = 1 then (x / 2) ^^^ 0x80200003 else x / 2)

/-- Eight output bits, least significant first (R213). -/
def lfsrByte : Nat → Nat → Nat × Nat
  | 0, x => (0, x)
  | k + 1, x =>
    let b := lfsrStep x
    let r := lfsrByte k b.2
    (b.1 + 2 * r.1, r.2)

/-- R213: a draw. A code of 200 or more is drawn again; on the fourth in a row it is used minus 200. -/
def ditherDraw : Nat → Nat → Nat × Nat
  | 0, x => let r := lfsrByte 8 x; (if r.1 < 200 then r.1 else r.1 - 200, r.2)
  | k + 1, x => let r := lfsrByte 8 x; if r.1 < 200 then r else ditherDraw k r.2

/-- R212: the seed: CRC-32C of the fused identity and the salt; 0 becomes 1. -/
def State.ditherSeed (s : State) : Nat :=
  let l := identReset s.variant 0
  let d := identReset s.variant 1
  let c := crc32c (leBytes 3 l ++ leBytes 1 (l / 2 ^ 24) ++ leBytes 1 d ++ leBytes 1 (d / 256) ++
    leBytes 2 (s.f Reg.DITHER_SALT 15 0))
  if c = 0 then 1 else c

/-- Seed the dither generator (R212). -/
def State.seedDither (s : State) : State :=
  let x := s.ditherSeed
  ({ s with rej := { s.rej with lfsr := x } }).setR Reg.DITHER_SEED x

/-- The LOCKED contexts that steer segment g, with P ≥ 2 × `STEER_GUARD` (R215): their periods in 1/16 ns. -/
def State.steerPeriods (s : State) (g : Nat) : List Nat :=
  (List.range 64).filterMap fun i =>
    let p := s.r (Reg.FE_CTX_PERIOD i)
    if s.f (Reg.FE_CTX_STATE i) 1 0 = 2 ∧ 32 * s.ef Reg.REJ_CTRL 23 16 ≤ p ∧
        (s.segChannels g).any (fun ch => s.bit (Reg.FE_CTX_COMBS i) (ch / 16)) then some p else none

/-- R215: whether a draw d at slot start t passes against the previous shot; times in 1/32 ns. -/
def steerOk (guard t d t' d' : Nat) (periods : List Nat) : Bool :=
  periods.all fun p =>
    let r := ((t + 5 * d) - (t' + 5 * d')) % (2 * p)
    decide (32 * guard ≤ r ∧ r + 32 * guard ≤ 2 * p)

/-- R215: draws until one passes, at most `k + 1`; the code, the generator, and whether the last draw failed. -/
def steerDraw (guard t t' d' : Nat) (periods : List Nat) : Nat → Nat → Nat × Nat × Bool
  | 0, x => let r := ditherDraw 3 x; (r.1, r.2, !steerOk guard t r.1 t' d' periods)
  | k + 1, x =>
    let r := ditherDraw 3 x
    if steerOk guard t r.1 t' d' periods then (r.1, r.2, false) else steerDraw guard t t' d' periods k r.2

/-- R214: draw the dither code of a shot of segment g of column `key` whose launch slot starts at t, in 1/32 ns. Without `DITHER_EN` none is drawn, and the shot
has offset 0. -/
def State.drawDither (s : State) (key g t : Nat) : Nat × State :=
  if s.ef Reg.REJ_CTRL 0 0 = 0 then (0, { s with rej := { s.rej with prev := s.rej.prev.set none g (some (key, t, 0)) } })
  else
    let first := ditherDraw 3 s.rej.lfsr
    let r := match s.rej.prev.get none g with
      | some (k, t', d') =>
        if k = key ∧ s.ef Reg.REJ_CTRL 1 1 = 1 then
          steerDraw (s.ef Reg.REJ_CTRL 23 16) t t' d' (s.steerPeriods g) (s.ef Reg.REJ_CTRL 10 8 - 1) s.rej.lfsr
        else (first.1, first.2, false)
      | none => (first.1, first.2, false)
    let s := { s with rej := { s.rej with lfsr := r.2.1, prev := s.rej.prev.set none g (some (key, t, r.1)) } }
    (r.1, if r.2.2 then (s.inc Reg.STEER_FAIL_COUNT).flag Reg.REJ_FLAGS 1 else s)

/-! ## The accountant (R104 to R106) -/

/-- The accounting zone of a tile. -/
def State.acctZone (s : State) (t : Nat) : Nat := s.f Reg.ACCT_ZONE_MAP (3 * t + 2) (3 * t)

/-- `WIDTH` × `CURRENT` of a pattern register. -/
def State.patEnergy (s : State) (a : Nat) : Nat := s.f a 5 0 * s.f a 15 8

/-- R104: the charge e_t of a shot on tile t. -/
def State.tileCharge (s : State) (t : Nat) : Nat :=
  ((List.range 8).map fun k => max (s.patEnergy (Reg.PAT (8 * t + k))) (s.patEnergy (Reg.PAT_ACT (8 * t + k)))).foldl max 0

/-- The sub-interval of window w that holds a launch slot counted from reset (R105). -/
def State.subIdx (s : State) (w slot : Nat) : Nat := slot / 2 ^ s.f Reg.ACCT_CFG (8 * w + 4) (8 * w)

/-- The sum of a sub-interval and the fifteen before it. -/
def ringSum (l : List (Nat × Nat)) (i : Nat) : Nat :=
  ((l.filter fun e => decide (e.1 ≤ i ∧ i < e.1 + 16)).map (·.2)).sum

/-- Charge a sub-interval, dropping those that no sum can reach any more. -/
def ringAdd (l : List (Nat × Nat)) (i e : Nat) : List (Nat × Nat) :=
  let keep := l.filter fun x => decide (i < x.1 + 32)
  if keep.any (·.1 == i) then keep.map fun x => if x.1 = i then (i, x.2 + e) else x else keep ++ [(i, e)]

/-- One accountant channel permits a charge in zone z (R105). -/
def State.acctPermits (s : State) (acct : Tbl (List (Nat × Nat))) (z e slot : Nat) : Bool :=
  (List.range 3).all fun w =>
    decide (ringSum (acct.get [] (3 * z + w)) (s.subIdx w slot) + e ≤ s.r (Reg.ACCT_LIM z w) * 16)

/-- Charge one accountant channel. -/
def State.acctCharge (s : State) (acct : Tbl (List (Nat × Nat))) (z e slot : Nat) : Tbl (List (Nat × Nat)) :=
  (List.range 3).foldl (fun a w => a.set [] (3 * z + w) (ringAdd (a.get [] (3 * z + w)) (s.subIdx w slot) e)) acct

/-- `ACCT_SUM_z_w` at a launch slot: in units of 16 EU, rounded up (R105). -/
def State.syncAcct (s : State) (z slot : Nat) : State :=
  s.each (List.range 3) fun s w =>
    s.setR (Reg.ACCT_SUM z w) ((ringSum (s.emit.acctA.get [] (3 * z + w)) (s.subIdx w slot) + 15) / 16)

/-! ## The gate (R102, R103) -/

/-- The conditions of R102 that refuse a shot of segment g before accounting, with the steering inhibit of R122. -/
def State.gateRefuses (s : State) (g : Nat) : Bool :=
  let t := g / 8
  !s.dev.emitting || s.fading || !s.laserEn || s.lsd || s.bit Reg.WAG_STATUS 8 || decide (s.tiles ≤ t) || s.tileLost t || s.tileLocked t ||
    s.f (Reg.PAT_ACT g) 5 0 == 0 || s.f (Reg.PAT_ACT g) 15 8 == 0

/-- A refused shot in the points it serves and in `ACCT_REFUSED` (R103). -/
def State.countRefused (s : State) (key g : Nat) : State :=
  let s := s.modSegPts key g fun p => { p with refused := p.refused + 1 }
  (s.modSeg key g fun p => { p with used := p.used + 1 }).inc Reg.ACCT_REFUSED

/-- The gate's decision on one shot whose launch slot, counted from reset, is `slot`: permitted or not, and the charge. -/
def State.gate (s : State) (key g slot : Nat) : Bool × State :=
  if s.gateRefuses g then (false, s.countRefused key g)
  else
    let z := s.acctZone (g / 8)
    let e := s.tileCharge (g / 8)
    if s.acctPermits s.emit.acctA z e slot && s.acctPermits s.emit.acctB z e slot then
      (true, (s.setEmit { s.emit with
        acctA := s.acctCharge s.emit.acctA z e slot, acctB := s.acctCharge s.emit.acctB z e slot }).syncAcct z slot)
    else (false, (s.countRefused key g).flag Reg.ACCT_FLAGS z)

/-! ## Drip frames and the load image (R96, R99) -/

/-- The 24 bytes of the load image for tile t (R99): the shadow patterns and `CEIL`. Each byte is that of the values at the cut that sends it, also
where one changes within the 24 bytes (DESIGN CHOICE: log entry 87). -/
def State.tileImage (s : State) (t : Nat) : List Byte :=
  let pats := ((List.range 8).map fun k => leBytes 1 (s.f (Reg.PAT (8 * t + k)) 5 0) ++ leBytes 1 (s.f (Reg.PAT (8 * t + k)) 15 8)).flatten
  let body := pats ++ leBytes 1 s.emit.ceil ++ leBytes 3 0
  body ++ leBytes 4 (crc32c body)

/-- The drip frame of a window (R96), given the segments permitted in it, and whether they are shots of a frame whose boundary is still to come; the load
image moves on by one byte. `SWAP` goes into the first frame with a shot of the new frame, or the first cut after the boundary. -/
def State.buildFrame (s : State) (w : Nat) (segs : List Nat) (newFrame : Bool) : State :=
  let pos := s.emit.loadPos
  let early := newFrame && !segs.isEmpty && !s.emit.swapSent
  let swap := s.emit.swapOwed || early
  let blocks := (List.range 8).map fun t =>
    ({ kind := false,
       p := BitVec.ofNat 8 ((List.range 8).foldl (fun v k => if segs.contains (8 * t + k) then v + 2 ^ k else v) 0) } : DripBlock)
  let f : DripFrame := { seq := w % 4, swap, blocks, lv := true, lstart := pos == 0, lbyte := ((s.tileImage (pos / 24)).getD (pos % 24) 0) }
  let sent : SentFrame := { frame := f, at_ := w * 500 - 480, bankBefore := s.emit.bank, bankAfter := s.emit.bank != swap }
  s.setEmit { s.emit with
    line := some (f, sent.at_), sent := s.emit.sent ++ [sent], bank := sent.bankAfter, swapOwed := false, swapSent := s.emit.swapSent || early,
    loadPos := (pos + 1) % 192 }

/-! ## The Drip line and the FIRE pairs (R91, R95) -/

/-- A symbol of the Drip line (R95), or the line held low (R482). -/
inductive DripSym where
  | zero | one | s | low
deriving DecidableEq, Repr

/-- The high time of a symbol in ps; its 5 ns cell begins with the rising edge (R95). -/
def DripSym.highPs : DripSym → Nat
  | .zero => 1250 | .one => 2500 | .s => 3750 | .low => 0

/-- A number as `n` bits, most significant first. -/
def msbBits (n v : Nat) : List Bool := (List.range n).map fun k => bitN v (n - 1 - k)

/-- Even parity over `KIND` and `P` (R96). -/
def dripPar (b : DripBlock) : Bool := (b.kind :: msbBits 8 b.p.toNat).foldl Bool.xor false

/-- The ten cells of a block (R96). -/
def dripBlockCells (b : DripBlock) : List Bool := b.kind :: msbBits 8 b.p.toNat ++ [dripPar b]

/-- The 93 cells of a drip frame (R95, R96). -/
def dripCells (f : DripFrame) : List Bool :=
  msbBits 2 f.seq ++ [f.swap] ++ f.blocks.flatMap dripBlockCells ++ [f.lv, f.lstart] ++ msbBits 8 f.lbyte.toNat

/-- What the Drip line sends in the 5 ns cell of this instant: a cell of the frame under way, else S (R95). It is low in RESET (R482) and stops with `VDD_IO33` (R497). -/
def State.dripSym (s : State) : DripSym :=
  if s.dev = .reset ∨ s.power.low 8 then .low
  else match s.emit.line with
  | some (f, t) =>
    if s.now < t then .s
    else match (dripCells f)[(s.now - t) / 5]? with
      | some true => .one
      | some false => .zero
      | none => .s
  | none => .s

/-- The width of a FIRE pulse in ns: 5 in a drip window with an even sequence number, 10 in an odd one (R91). -/
def fireWidth (w : Nat) : Nat := if w % 2 = 0 then 5 else 10

/-- `FIRE_P_t` is high: during a pulse of a state that fires; `FIRE_N_t` is its inverse (R91, R112). -/
def State.fireP (s : State) (t : Nat) : Bool :=
  (s.dev.emitting || s.dev == .calibrating) && !s.lsd &&
    (s.emit.fires.get [] t).any fun e => decide (e.1 ≤ 512 * s.now ∧ 512 * s.now < e.1 + 512 * e.2)

/-! ## The cut (R93, R94, R214) -/

/-- The launch slot of a shot as an instant in 1/2 ns of `now`, if its column has started or its first batches are queued ahead. -/
def State.launchHalf (s : State) (key slot : Nat) : Option Nat :=
  match s.col key with
  | some c => ((c.startNs <|> c.lead).map fun t => 2 * t + 125 * slot)
  | none => none

/-- A shot decided at its cut: whether the gate permits it, whether it is late whatever the gate says, and its place, the column key and launch slot at which
it launches. -/
structure Placed where
  shot : Shot
  permitted : Bool
  late : Bool := false
  key : Nat
  slot : Nat
deriving DecidableEq, Repr

/-- The instant of a place in 1/2 ns of `now`. -/
def State.placedHalf (s : State) (e : Placed) : Nat := (s.launchHalf e.key e.slot).getD 0

/-- R94: within each tile the permitted shots exchange their launch slots so that segments ascend with time. In a window that holds
the start of a column a slot may be one of the other column. -/
def State.exchange (s : State) (l : List (Shot × Bool)) : List Placed :=
  let own (q : Shot) (ok : Bool) : Placed := { shot := q, permitted := ok, key := q.key, slot := q.slot }
  l.map fun e =>
    if !e.2 then own e.1 false
    else
      let mine := (l.filter fun x => x.2 && x.1.seg / 8 == e.1.seg / 8).map (·.1)
      let places := sortBy (fun a b => decide (s.placedHalf a < s.placedHalf b)) (mine.map (own · true))
      let rank := (mine.filter fun x => decide (x.seg < e.1.seg)).length
      { places.getD rank (own e.1 true) with shot := e.1 }

/-- R279: whether the launch slot that starts at `h`, in 1/2 ns of `now`, lies in a grid slot of the mask, by the device time as it runs. -/
def State.launchGridOk (s : State) (h : Nat) : Bool :=
  bitN (s.ef Reg.SWARM_SLOT_MASK 15 0) ((2 * s.time.dev + h - 2 * s.now) / 125 % 16)

/-- The listening window of a range in coarse periods (R40): 2 × range / c, c = 299,792,458 m/s, in 625 ps. -/
def listenPeriods (range : Nat) : Nat := (range * 32000000 + 299792457) / 299792458

/-- R107: the edge of a window that the SAR group samples: the first one of the lowest firing tile at or above the pointer, else of the lowest. -/
def sarEdge (ptr : Nat) (shots : List SarShot) : Option SarShot :=
  let fired := shots.filter (·.fired)
  let tiles := fired.map (·.seg / 8)
  let up := tiles.filter fun t => decide (ptr ≤ t)
  let t := (if up.isEmpty then tiles else up).foldl min 8
  (sortBy (fun a b : SarShot => decide (a.fireAt < b.fireAt)) (fired.filter fun q => q.seg / 8 == t)).head?

/-- The SAR trigger of a window with these shots (R107). -/
def State.sarTrig (s : State) (ptr : Nat) (shots : List SarShot) : Option SarTrig :=
  (sarEdge ptr shots).map fun q =>
    { at_ := q.fireAt / 512 + 120, tile := q.seg / 8, seg := q.seg, amp := s.patEnergy (Reg.PAT_ACT q.seg), fireAt := q.fireAt, shots, ptr }

/-- R107: the SAR trigger of window w; the pointer moves to the tile after the chosen one. -/
def State.chooseSar (s : State) (w : Nat) : State :=
  let shots : List SarShot := (s.emit.cuts.filter fun x => x.win == w).map fun x =>
    { key := x.key, seg := x.seg, fireAt := x.fireAt, acc := x.acc, fired := !x.refused }
  match s.sarTrig s.emit.sarPtr shots with
  | none => s
  | some t => s.setEmit { s.emit with sarPtr := (t.tile + 1) % 8, sarNext := s.emit.sarNext ++ [t] }

/-- R107: the triggers still to come, chosen again after a change of the shots of their windows. A window without a FIRE edge has none. -/
def State.rechooseSar (s : State) : State :=
  match s.emit.sarNext with
  | [] => s
  | t :: _ =>
    let r := s.emit.sarNext.foldl (fun (a : List SarTrig × Nat) t =>
      match s.sarTrig a.2 t.shots with
      | none => a
      | some n => (a.1 ++ [if n.seg = t.seg ∧ n.fireAt = t.fireAt then { n with amp := t.amp } else n], (n.tile + 1) % 8)) ([], t.ptr)
    s.setEmit { s.emit with sarNext := r.1, sarPtr := r.2 }

/-- One shot as it leaves the cut: its dither is drawn and it waits for its launch (R90, R193, R214). A launch that is permitted and lies in a
masked grid slot is late (R279). `FIRE_TRIM_t` is the one in force at the launch (R116; with a change at the boundary between two frames' edges, DESIGN CHOICE:
log entry 112). -/
def State.cutShot (s : State) (w : Nat) (e : Placed) : State :=
  match s.launchHalf e.key e.slot, s.col e.shot.key with
  | some h, some c =>
    let q := e.shot
    let r := s.drawDither q.key q.seg (16 * h)
    let s := r.2
    if e.late || (e.permitted && !s.launchGridOk h) then s.lateShots q.key q.seg 1
    else
    let p := c.seg? q.seg
    let cut : CutShot := {
      key := q.key, seg := q.seg, slot := e.slot, batch := q.batch, batchEnd := q.batchEnd, number := q.number,
      dither := r.1, refused := !e.permitted,
      acc := (s.segChannels q.seg).filter fun ch => !(s.pt (ptKey q.key ch)).stopped,
      window := listenPeriods ((p.map (·.range)).getD 0), profile := (p.map (·.profile)).getD 0,
      fireAt := 256 * h + 80 * r.1 + 5 * s.planF c.frame (Reg.FIRE_TRIM (q.seg / 8)) 9 0, win := w }
    let s := match s.col e.key with
      | some k => s.setCol e.key (some { k with taken := (e.slot, q.seg) :: k.taken })
      | none => s
    s.setEmit { s.emit with cuts := insertBy (fun a b : CutShot => decide (a.fireAt < b.fireAt)) cut s.emit.cuts }
  | _, _ => s

/-- Take the shots of window w from the queue and decide them (R93, R94, R102, R214, R386). `bad` lists the shot numbers
whose entries failed their parity. A shot of a window cut before is late (R17, R93), and so is one of the other frame, or whose entry is bad, for which a code is drawn like
for any shot taken (R214). The segments permitted are answered, and whether the window's shots
are of a frame still to come. -/
def State.takeWindow (s : State) (w : Nat) (bad : List Nat) : List Nat × Bool × State :=
  let winOf (q : Shot) : Option Nat := (s.launchHalf q.key q.slot).map (· / 1000)
  let inWin (q : Shot) : Bool := winOf q == some w
  let past (q : Shot) : Bool := ((winOf q).map fun x => decide (x < w)).getD false
  let mine := sortBy (fun a b : Shot =>
    decide ((s.launchHalf a.key a.slot).getD 0 < (s.launchHalf b.key b.slot).getD 0)) (s.plan.queue.filter inWin)
  let frameOf (q : Shot) : Nat := match s.col q.key with
    | some c => c.frame
    | none => 0
  let fr : Nat := match s.emit.winFrames.find? (·.1 == w), mine with
    | some e, _ => e.2
    | none, q :: _ => frameOf q
    | none, [] => 0
  let gone := s.plan.queue.filter past
  let s1 := { s with plan := { s.plan with queue := s.plan.queue.filter fun q => !inWin q && !past q } }
  let s1 := s1.each gone fun s q => s.lateShots q.key q.seg 1
  let held := !mine.isEmpty
  let s1 := if !held then s1 else s1.setEmit { s1.emit with winFrames := ((w, fr) :: s1.emit.winFrames).take 4 }
  let s1 := s1.each (mine.filter fun q => s.claimant != some q.claim) fun s q => s.lateShots q.key q.seg 1
  let mine := mine.filter fun q => s.claimant == some q.claim
  let good (q : Shot) : Bool := frameOf q == fr && !bad.contains q.number
  let lost := (mine.filter fun q => !good q).map fun q => ({ shot := q, permitted := false, late := true, key := q.key, slot := q.slot } : Placed)
  let r := (mine.filter good).foldl (fun (a : List (Shot × Bool) × State) q =>
    let g := a.2.gate q.key q.seg ((a.2.launchHalf q.key q.slot).getD 0 / 125)
    (a.1 ++ [(q, g.1)], g.2)) ([], s1)
  let ex := sortBy (fun a b : Placed => decide (s.placedHalf a < s.placedHalf b)) (s.exchange r.1 ++ lost)
  let s2 := r.2.each ex fun s e => s.cutShot w e
  ((ex.filter fun e => e.permitted && s.launchGridOk (s.placedHalf e)).map (·.shot.seg),
    held && fr == (s.frameNo + 1) % 2 ^ 32, s2)

/-- R93: the cut of window w. -/
def State.cutWindow (s : State) (w : Nat) (bad : List Nat) : State :=
  let s := match s.claimant with
    | some c => s.setR Reg.GATE_CLAIM c
    | none => s
  let r := s.takeWindow w bad
  let s := r.2.2.buildFrame w r.1 r.2.1
  let s := s.chooseSar w
  s.setEmit { s.emit with lastWin := w }

/-! ## Wavelength time (R109) -/

def State.wlTile (s : State) (t : Nat) : WlTile := s.emit.wl.get {} t

def State.setWlTile (s : State) (t : Nat) (x : WlTile) : State := s.setEmit { s.emit with wl := s.emit.wl.set {} t x }

/-- `EMIT_WL_STATE.WL_t`: 0 off, 1 ACQUIRING, 2 LOCKED, 3 lost. -/
def State.wlState (s : State) (t : Nat) : Nat := s.f Reg.EMIT_WL_STATE (2 * t + 1) (2 * t)

def State.setWlState (s : State) (t v : Nat) : State := s.setF Reg.EMIT_WL_STATE (2 * t + 1) (2 * t) v

/-- Whether the not-LOCKED time of tile t runs (R109). -/
def State.wlCounts (s : State) (t : Nat) : Bool :=
  (s.dev.emitting || s.dev == .calibrating) && !s.fading && decide (t < s.tiles) && !s.tileLost t && s.wlState t != 2

/-- Bring the not-LOCKED times up to now, after a change of state, lock or loss. -/
def State.settleWl (s : State) : State :=
  s.each (List.range 8) fun s t =>
    let x := s.wlTile t
    let x := match x.since with
      | some a => { x with lostNs := x.lostNs + (s.now - a) }
      | none => x
    s.setWlTile t { x with since := if s.wlCounts t then some s.now else none }

/-! ## LASER_EN, the fade and the shutdown (R108, R111 to R113) -/

/-- `EMIT_STATUS.FAULT_IN` follows the pin (R113). -/
def State.syncFaultIn (s : State) : State := s.setBit Reg.EMIT_STATUS 5 (s.emit.faultLow.isSome && !s.laserEn)

/-- `LASER_EN` falls: the fade ends and `CEIL` is 0. -/
def State.laserOff (s : State) : State :=
  let s := (s.setBit Reg.EMIT_STATUS 0 false).setBit Reg.EMIT_STATUS 1 false
  (s.setEmit { s.emit with ceil := 0, laserAt := none, fadeAt := none, fadeStep := 0 }).syncFaultIn

/-- `LASER_EN` rises and the fade begins (R108); a latched shutdown keeps the pin low. Tiles fitted and not lost begin to acquire: `WL_t` leaves 0 (DESIGN CHOICE: log
entry 115). -/
def State.startFade (s : State) : State :=
  if s.lsd then s
  else
    let s := ((s.setBit Reg.EMIT_STATUS 0 true).setBit Reg.EMIT_STATUS 1 true).syncFaultIn
    let s := s.setEmit { s.emit with ceil := 7, laserAt := some s.now, fadeAt := some s.now, fadeStep := 1 }
    s.each (List.range 8) fun s t => if s.tileLost t ∨ s.tiles ≤ t ∨ s.wlState t = 2 then s else s.setWlState t 1

/-- A shot of a SAR trigger takes no sample as a fired shot (R131, R366). -/
def SarTrig.unfired (seg fireAt : Nat) (t : SarTrig) : SarTrig :=
  { t with shots := t.shots.map fun x => if x.seg == seg && x.fireAt == fireAt then { x with fired := false } else x }

/-- A shot that is not fired after all: no SAR trigger follows its edge, and it takes no sample as a fired shot (R107, R131). -/
def State.unfire (s : State) (q : CutShot) : State :=
  (s.setEmit { s.emit with sarNext := s.emit.sarNext.map (SarTrig.unfired q.seg q.fireAt) }).rechooseSar

/-- R103: shots permitted and not fired become refused. -/
def State.refuseCuts (s : State) : State :=
  let live := s.emit.cuts.filter fun q => !q.refused
  let s := s.each live fun s q => (s.countRefused q.key q.seg).unfire q
  s.setEmit { s.emit with cuts := s.emit.cuts.map fun q => { q with refused := true } }

/-- A segment failure (R111): cause bit, tile named (if any) and its segment. The first latches the laser-function shutdown
(R112, steps 1 to 3); a further one only adds its cause and its tile, but not again a cause that the same tile reported. -/
def State.segFailure (s : State) (bit : Nat) (tile : Option Nat) (seg : Nat) : State :=
  let mark := (bit, tile.getD 8)
  let named := match tile with
    | some t => t :: s.emit.lsdNamed
    | none => s.emit.lsdNamed
  if s.lsd then
    if tile.isSome ∧ s.emit.lsdSeen.contains mark then s
    else
      (s.flag Reg.EMIT_LSD_CAUSE bit).setEmit { s.emit with
        lsdSeen := mark :: s.emit.lsdSeen, lsdNamed := named, faultReturns := if bit = 0 then 2 else s.emit.faultReturns }
  else
    let s := (s.setBit Reg.EMIT_STATUS 2 true).flag Reg.EMIT_LSD_CAUSE bit
    let s := s.addF Reg.EMIT_LSD_COUNT 7 0 1
    let s := ((s.setF Reg.EMIT_LSD_CAUSE 10 8 (tile.getD 0)).setF Reg.EMIT_LSD_CAUSE 13 11 seg).setBit Reg.EMIT_LSD_CAUSE 14
      tile.isSome
    let s := s.setEmit { s.emit with
      lsdSeen := [mark], lsdNamed := named, lsdAt := some s.now, faultReturns := if bit = 0 then 2 else 0, lsdOwn := bit == 0 }
    let s := (s.refuseCuts.laserOff).ssnHold 3 true
    let s := s.post Rec.LASER_SHUTDOWN (s.f Reg.EMIT_LSD_CAUSE 5 0 + 64 * s.f Reg.EMIT_LSD_CAUSE 10 8 +
      512 * s.f Reg.EMIT_LSD_CAUSE 13 11 + 4096 * s.f Reg.EMIT_LSD_CAUSE 14 14)
    s.faultTrigger 0x52

/-- A tile that counts as ready at the end of the fade (R108). -/
def State.tileReady (s : State) (t : Nat) : Bool :=
  decide (t < s.tiles) && !s.tileLost t && !s.tileLocked t && s.bit Reg.EMIT_STATUS (8 + t)

/-! ## Patterns (R101) -/

/-- R101: the pattern banks swap. -/
def State.swapPatterns (s : State) : State :=
  let s := s.each (List.range 64) fun s g => s.wr (Reg.PAT_ACT g) (s.rd (Reg.PAT g))
  let s := s.setBit Reg.EMIT_STATUS 4 false
  let s := s.setBit Reg.EMIT_STATUS 3 (!s.bit Reg.EMIT_STATUS 3)
  let s := s.setEmit { s.emit with patAt := none }
  s.raise Ev.PATTERN_SWAPPED .all (leBytes 4 s.frameNo)

end Sys2Proof.Machine
end

