-- ==== Sys2Proof/Machine/SyncOps.lean ====
section
/-!
DEFINITION. Machine/SyncOps.lean: frame sources, the flywheel, device time and swarm sync (R272 to R279).
-/

namespace Sys2Proof

/-- Bytes 0 to 13 of a message's body (R275). -/
def SwarmMsg.head (m : SwarmMsg) : List Byte :=
  Machine.leBytes 1 (m.type % 16 + 16 * (m.src % 8) + 128 * (m.reserved % 2)) ++ Machine.leBytes 1 (m.reserved / 2) ++ Machine.leBytes 8 m.time ++ Machine.leBytes 4 m.number

/-- The check word that a message must carry. -/
def SwarmMsg.check (m : SwarmMsg) : Nat := Machine.crc32c m.head

/-- The CRC of a message holds. -/
def SwarmMsg.crcOk (m : SwarmMsg) : Bool := m.crc == m.check

/-- A message on the bus: the preamble of alternating bits, taken as 0x55 twice (DESIGN CHOICE: log entry 94), the start byte and the 18-byte body (R275). -/
def SwarmMsg.wire (m : SwarmMsg) : List Byte := [0x55, 0x55, 0xD5] ++ m.head ++ Machine.leBytes 4 m.crc

end Sys2Proof

namespace Sys2Proof.Machine

def State.setSync (s : State) (x : Sync) : State := { s with sync := x }

/-- `FRAME_CTRL.SRC`. -/
def State.frameSrc (s : State) : Nat := s.f Reg.FRAME_CTRL 1 0

/-- P in force in ns. -/
def State.periodNs (s : State) : Nat := s.f Reg.FRAME_STATUS 23 0 * 1000

def State.swarmOn (s : State) : Bool := s.bit Reg.SWARM_CTRL 0

def State.swarmMaster (s : State) : Bool := s.swarmOn && s.bit Reg.SWARM_CTRL 1

def State.swarmIndex (s : State) : Nat := s.f Reg.SWARM_CTRL 4 2

/-- `SWARM_STATUS.STATE`: 0 off, 1 searching, 2 locked, 3 lost. -/
def State.swarmSt (s : State) : Nat := s.f Reg.SWARM_STATUS 1 0

/-- The states in which a member exchanges messages (R272). -/
def State.swarmRuns (s : State) : Bool := s.swarmOn && s.dev != .boot && s.dev != .faultHalt && s.dev != .reset

/-- A master that leaves the swarm makes the boundary that is due when it was to come (R278). -/
def State.leaveMaster (s : State) : State :=
  if s.bit Reg.SWARM_CTRL 1 && !s.swarmOn then
    s.setSync { s.sync with
      dueAt := s.sync.dueAt <|> s.sync.frameTimes.head?.map fun t => s.now + (t - s.time.dev), frameTimes := [] }
  else s

/-- `SWARM_STATUS.STATE` after a change of `EN` or `MASTER`; the messages that lead to lock are counted anew (R277). -/
def State.syncSwarm (s : State) : State :=
  let s := s.leaveMaster
  (s.setSync { s.sync with good := 0, lastMsg := none }).setF Reg.SWARM_STATUS 1 0 (if !s.swarmOn then 0 else if s.swarmMaster then 2 else 1)

/-! ## Boundaries (R272, R273) -/

/-- R272: the acceptance of `ARM` begins the span of frame boundaries and stands in for the last boundary. -/
def State.startSpan (s : State) : State :=
  let p := s.ef Reg.FRAME_PERIOD 23 0
  (s.setSync { s.sync with
    span := true, lastB := s.now, dueAt := none, fly := false, fromArm := true, periods := [], nextInternal := s.time.dev + p * 1000 }).setF
    Reg.FRAME_STATUS 23 0 p

/-- R272: STANDBY, THERMAL_STOP and FAULT_HALT end the span, and with it what was known of the boundary to come. A changed `FRAME_PERIOD` is in force from
then on. -/
def State.endSpan (s : State) : State :=
  let s := { s with emit := { s.emit with swapSent := false } }
  let s := s.setSync { s.sync with span := false, dueAt := none, frameTimes := if s.swarmMaster then [] else s.sync.frameTimes }
  let s := s.takeEffect fun a => a == Reg.FRAME_PERIOD
  s.setF Reg.FRAME_STATUS 23 0 (s.f Reg.FRAME_PERIOD 23 0)

/-- How long a bus message lasts, in ns (R275). -/
def msgNs : Nat := 3360

/-- The epoch of a message after its start: the 24 bits ahead of the body and half a bit, at 20 ns a bit (R275). -/
def epochNs : Nat := 490

/-- R276: a new bus cycle starts at instant `at_`. This member's own message that is still on the bus then is held for that cycle, and so is a `PRESENT` of the cycle
that ends whose slot, 1 + `index`, has not come. -/
def Sync.cutTx (x : Sync) (index at_ : Nat) : Sync :=
  let x := if x.cycle % 25 = 0 ∧ x.slot < 1 + index then { x with owed := true } else x
  match x.tx with
  | some t =>
    if t.at_ + msgNs ≤ at_ then x
    else if t.msg.type = 3 then { x with trig := some (t.msg.time, t.msg.number), tx := none }
    else if t.msg.type = 4 then { x with owed := true, tx := none }
    else x
  | none => x

/-- R276: a source event of the master starts a bus cycle that announces it: slot 0 begins so that the epoch falls 2 µs after the event;
what ends on the bus before that is sent. -/
def State.announce (s : State) : State :=
  if s.swarmMaster then
    s.setSync { s.sync.cutTx s.swarmIndex (s.now + 2000 - epochNs) with frameMsg := some (s.time.dev, s.frameNo), slot := 9, slotAt := some (s.now + 2000 - epochNs - 4000) }
  else s

/-- The latency of a boundary: 10 µs, and on the master of a swarm its `SWARM_FRAME_OFS` (R272, R278). -/
def State.boundaryDelay (s : State) : Nat := 10000 + if s.swarmMaster then s.ef Reg.SWARM_FRAME_OFS 23 0 * 1000 else 0

/-- R273: a boundary of a source event is due less than P/4 before device time `t`. -/
def State.tooSoon (s : State) (t : Nat) : Bool :=
  s.sync.dueAt.isSome || (s.swarmMaster && s.sync.frameTimes.any fun u => decide (t < u + s.periodNs / 4))

/-- The boundary of a source event (R272, R278): on the master of a swarm at the swarm frame time, in device time. -/
def State.dueBoundary (s : State) (ns : Nat) : State :=
  if s.swarmMaster then s.setSync { s.sync with frameTimes := s.sync.frameTimes ++ [s.time.dev + ns] }
  else s.setSync { s.sync with dueAt := some (s.now + ns) }

/-- R90: the start of a frame's first column moves to `t` after shots were queued ahead for it: those of them that are cut already are late. -/
def State.moveLead (s : State) (t : Nat) : State :=
  let led := s.plan.cols.entries.filterMap fun e => match e.2 with
    | some c => if c.lead.isSome ∧ c.startNs = none ∧ c.frame ≠ s.frameNo ∧ c.lead ≠ some (max t s.plan.endAt) then some (e.1, c) else none
    | none => none
  s.each led fun s e =>
    let s := s.setCol e.1 (some { e.2 with lead := some (max t s.plan.endAt) })
    let mine := s.emit.cuts.filter (·.key == e.1)
    let s := { s with emit := { s.emit with cuts := s.emit.cuts.filter (·.key != e.1) } }
    s.each (mine.filter (!·.refused)) fun s q => s.lateShots q.key q.seg 1

/-- A source event: the boundary follows it by `ns`. One that comes too soon, or so soon after one whose boundary is still due, is ignored and counted (R273). -/
def State.sourceEvent (s : State) (ns : Nat) : State :=
  if !s.sync.span then s
  else if s.frameSrc ≠ 0 ∧ (s.now < s.sync.lastB + s.periodNs / 4 ∨ s.tooSoon (s.time.dev + ns)) then s.inc Reg.FRAME_FLY_COUNT
  else ((s.dueBoundary ns).announce).moveLead (s.now + ns)

/-- FRAME_SYNC_EDGE (R272): an edge of `FRAME_SYNC` that the glitch filter has passed. -/
def execFrameSyncEdge (rising : Bool) (s : State) : Host.Outcome State Fault Refusal :=
  .next (if s.frameSrc = 1 ∧ rising != s.bit Reg.FRAME_CTRL 2 then s.sourceEvent s.boundaryDelay else s)

/-- INTERNAL_FRAME_EVENT (R272): `FRAME_PERIOD` of device time has passed since the last one. -/
def execInternalFrameEvent (s : State) : Host.Outcome State Fault Refusal :=
  .next (if s.frameSrc = 0 ∧ s.sync.span ∧ s.sync.nextInternal ≤ s.time.dev then
      let s := s.setSync { s.sync with nextInternal := s.sync.nextInternal + s.ef Reg.FRAME_PERIOD 23 0 * 1000 }
      s.sourceEvent s.boundaryDelay
    else s)

/-- SWARM_FRAME_TIME (R278): the swarm frame time of a master source event is reached in this member's device time, the master's included. -/
def execSwarmFrameTime (s : State) : Host.Outcome State Fault Refusal :=
  .next (match s.sync.frameTimes with
    | [] => s
    | t :: r =>
      if s.time.dev < t then s
      else
        let s := s.setSync { s.sync with frameTimes := r }
        if s.swarmMaster then s.setSync { s.sync with dueAt := some s.now }
        else if s.frameSrc = 2 ∧ s.swarmSt = 2 then s.sourceEvent 0 else s)

/-- R50, R272, R273: what a boundary does to P; `fly` tells a flywheel boundary. A period counts when source events made both its boundaries, and the
next internal source event follows the last one by the `FRAME_PERIOD` now in force. -/
def State.boundaryPeriod (s : State) (fly : Bool) : State :=
  let first := s.sync.lastB
  let l := if fly ∨ s.sync.fly ∨ s.sync.fromArm then s.sync.periods
    else (s.sync.periods ++ [s.now - first]).drop ((s.sync.periods.length + 1) - 8)
  let old := s.ef Reg.FRAME_PERIOD 23 0
  let s := s.takeEffect fun a => a == Reg.FRAME_PERIOD
  let next := s.sync.nextInternal + s.f Reg.FRAME_PERIOD 23 0 * 1000 - old * 1000
  let p := if s.frameSrc = 0 ∨ l.length < 8 then s.f Reg.FRAME_PERIOD 23 0 else divRoundNat l.sum 8000
  let s := s.setSync { s.sync with lastB := s.now, dueAt := none, periods := l, fly, fromArm := false, nextInternal := next }
  (s.setF Reg.FRAME_STATUS 23 0 p).setBit Reg.FRAME_STATUS 24 fly

/-- R273: when a flywheel boundary comes if no source event does. -/
def State.flyAt (s : State) : Nat := s.sync.lastB + (if s.sync.fly then s.periodNs else s.periodNs + s.periodNs / 8)

/-- R273: a flywheel boundary is due. -/
def State.flyDue (s : State) : Bool := s.sync.span && s.frameSrc != 0 && s.sync.dueAt.isNone && !(s.swarmMaster && !s.sync.frameTimes.isEmpty) && decide (s.flyAt ≤ s.now)

/-- When the next frame boundary is known to come, in ns of `now`: 10 µs after its source event, at the swarm frame time of a member, or by the
flywheel (R96, R272, R273, R278). -/
def State.nextBoundary (s : State) : Option Nat :=
  if ¬ s.sync.span then none
  else match s.sync.dueAt with
    | some t => some t
    | none =>
      match s.sync.frameTimes with
      | t :: _ =>
        let at_ := s.now + (t - s.time.dev)
        if s.swarmMaster then some at_ else if s.frameSrc = 0 then none
        else some (if s.frameSrc = 2 ∧ s.swarmSt = 2 then min s.flyAt at_ else s.flyAt)
      | [] => if s.frameSrc = 0 then none else some s.flyAt

/-! ## Device time (R274, R277) -/

/-- One nanosecond of device time: a slew adds or drops one in 10,000 until its offset is absorbed. -/
def TimeBase.tick (t : TimeBase) : TimeBase :=
  if !t.slewing ∨ t.slewLeft = 0 then { t with dev := t.dev + 1 }
  else if t.slewFrac + 1 < 10000 then { t with dev := t.dev + 1, slewFrac := t.slewFrac + 1 }
  else if 0 < t.slewLeft then { t with dev := t.dev + 2, slewFrac := 0, slewLeft := t.slewLeft - 1 }
  else { t with slewFrac := 0, slewLeft := t.slewLeft + 1 }

/-- DESIGN CHOICE: with no command waiting 1 ns passes: the model's clock advances and, out of RESET, device time (R274). -/
def State.idle (s : State) : State := { s with now := s.now + 1, flagNow := [], time := if s.sys.dev = .reset then s.time else s.time.tick }

/-- R274: `TIME_OFFSET` reports an offset in ns, saturating. -/
def State.reportOffset (s : State) (o : Int) : State := s.setR Reg.TIME_OFFSET (satS 32 o)

/-- R274: slew device time by an offset. -/
def State.slewTime (s : State) (o : Int) : State :=
  { (s.reportOffset o) with time := { s.time with slewLeft := o, slewFrac := 0, slewing := decide (o ≠ 0) } }

/-- R274, R457: step device time by an offset. -/
def State.stepTime (s : State) (o : Int) : State :=
  let s := { (s.reportOffset o) with time := { dev := ((s.time.dev : Int) + o).toNat } }
  (s.flag Reg.SWARM_FLAGS 4).post Rec.TIME_STEP (wrapNat 16 (clampInt (-32768) 32767 (divRound o 1000000)))

/-- TIME_SLEW_ABSORBED (R274): device time runs at its nominal rate again. -/
def execTimeSlewAbsorbed (s : State) : Host.Outcome State Fault Refusal :=
  .next (if s.time.slewing ∧ s.time.slewLeft = 0 then { s with time := { s.time with slewing := false, slewFrac := 0 } } else s)

/-! ## The swarm bus (R275 to R277) -/

/-- Put a message on the bus. -/
def State.busSend (s : State) (m : SwarmMsg) : State :=
  let m : SwarmMsg := { m with crc := m.check }
  s.setSync { s.sync with tx := some { msg := m, at_ := s.now, wire := m.wire } }

/-- What the member puts into a bus slot (R276). -/
def State.busSlot (s : State) (slot : Nat) : State :=
  let x := s.sync
  if slot = 0 then
    if !s.swarmMaster then s
    else match x.frameMsg with
      | some (t, n) => (s.setSync { x with frameMsg := none }).busSend { type := 1, src := s.swarmIndex, time := t, number := n }
      | none => s.busSend { type := 2, src := s.swarmIndex, time := s.time.dev + epochNs, number := s.frameNo }
  else if slot = 1 + s.swarmIndex then
    match x.trig with
    | some (t, n) => (s.setSync { x with trig := none }).busSend { type := 3, src := s.swarmIndex, time := t, number := n }
    | none =>
      if x.cycle % 25 = 0 ∨ x.owed then
        (s.setSync { x with owed := false }).busSend { type := 4, src := s.swarmIndex, time := s.time.dev + epochNs, number := 0 }
      else s
  else s

/-- SWARM_SLOT (R276): the next bus slot begins, 4 µs after the one before, or at once where a source event started a cycle. -/
def execSwarmSlot (s : State) : Host.Outcome State Fault Refusal :=
  .next (if ¬ s.swarmRuns ∨ (¬ s.swarmMaster ∧ s.sync.lastMsg.isNone) then s
    else
      let due := match s.sync.slotAt with
        | some t => decide (t + 4000 ≤ s.now)
        | none => true
      if !due then s
      else
        let n := (s.sync.slot + 1) % 10
        (s.setSync { s.sync with slot := n, slotAt := some s.now, cycle := if n = 0 then s.sync.cycle + 1 else s.sync.cycle }).busSlot n)

/-- R277: a follower takes the master's time from a `FRAME` or `GRID` message that ends now: its epoch lies the rest of the message back, and the bus
cycle began with it, unless this member's own slot 0 has begun already. -/
def State.followMaster (s : State) (m : SwarmMsg) : State :=
  let mt : Int := m.time + if m.type = 1 then 2000 else 0
  let rx : Int := s.time.dev - (msgNs - epochNs : Nat)
  -- in 100 ps
  let o10 : Int := 10 * (mt - rx) + s.ef Reg.SWARM_CTRL 27 16
  let o := divRound o10 10
  let s := if 10000000 < o10.natAbs then s.stepTime o else s.slewTime o
  let good := if o10.natAbs < 10000 then min 3 (s.sync.good + 1) else 0
  let began := s.now - msgNs
  let s := s.setSync { s.sync.cutTx s.swarmIndex began with
    good, lastMsg := some s.now, slot := 0, slotAt := some began, cycle := if s.sync.slot = 0 then s.sync.cycle else s.sync.cycle + 1 }
  let s := if m.type = 1 then
      s.setSync { s.sync with frameTimes := s.sync.frameTimes ++ [m.time + 10000 + s.ef Reg.SWARM_FRAME_OFS 23 0 * 1000] }
    else s
  let s := if good = 3 ∧ s.swarmSt ≠ 2 then (s.setF Reg.SWARM_STATUS 1 0 2).raise Ev.SWARM_LOCKED .all (leBytes 4 0) else s
  if s.swarmSt = 2 then s.setF Reg.SWARM_STATUS 31 16 (min 0xFFFF o10.natAbs) else s

/-- SWARM_MESSAGE_RX (R275 to R277, R283): a message from another sender ends on the bus. Other values of `TYPE` are ignored. A `TRIGGER` or `PRESENT` in the slot
of this member, or with its index, is another sender's in its slot. -/
def execSwarmMessageRx (m : SwarmMsg) (s : State) : Host.Outcome State Fault Refusal :=
  .next (if !s.swarmRuns then s
    else if !m.crcOk then (s.inc Reg.SWARM_CRC_ERR).flag Reg.SWARM_FLAGS 1
    else if m.type = 0 ∨ 4 < m.type then s
    else
      let k := m.src % 8
      let s := s.setSync { s.sync with heard := s.sync.heard.set none k (some s.now) }
      let s := if 3 ≤ m.type ∧ (k = s.swarmIndex ∨ s.sync.slot = 1 + s.swarmIndex) then s.flag Reg.SWARM_FLAGS 2 else s
      match m.type with
      | 1 => if s.swarmMaster then s else s.followMaster m
      | 2 => if s.swarmMaster then s else s.followMaster m
      | 3 => if k = s.swarmIndex then s else s.trigger 3 k m.time
      | _ => s)

/-- SWARM_LOSS_TIMEOUT (R277): no `FRAME` or `GRID` message for 200 µs. -/
def execSwarmLossTimeout (s : State) : Host.Outcome State Fault Refusal :=
  .next (match s.sync.lastMsg with
    | some t =>
      if s.swarmRuns ∧ ¬ s.swarmMaster ∧ s.swarmSt = 2 ∧ t + 200000 ≤ s.now then
        let s := (s.setF Reg.SWARM_STATUS 1 0 3).flag Reg.SWARM_FLAGS 0
        (s.setSync { s.sync with good := 0 }).raise Ev.SWARM_LOST .all (leBytes 4 0)
      else s
    | none => s)

/-- `SWARM_STATUS.MEMBERS`: the members heard in the last 1 ms. -/
def State.members (s : State) : Nat :=
  ((List.range 8).map fun k => match s.sync.heard.get none k with
    | some t => if s.now ≤ t + 1000000 then 2 ^ k else 0
    | none => 0).sum

end Sys2Proof.Machine
end

