-- ==== Sys2Proof/Machine/RxOps.lean ====
section
/-!
DEFINITION. Machine/RxOps.lean: the receive front end (chapter 6) as operations: channel states, receive windows and gain
ranges, thresholds, bias zones with their checks, comb references and blanking.
-/

namespace Sys2Proof.Machine

def State.chan (s : State) (n : Nat) : Chan := s.rx.chans.get {} n

def State.setChan (s : State) (n : Nat) (x : Chan) : State := { s with rx := { s.rx with chans := s.rx.chans.set {} n x } }

def State.rxComb (s : State) (c : Nat) : RxComb := s.rx.combs.get {} c

def State.setRxComb (s : State) (c : Nat) (x : RxComb) : State := { s with rx := { s.rx with combs := s.rx.combs.set {} c x } }

/-- The channels of a comb. -/
def combChans (c : Nat) : List Nat := (List.range 16).map (16 * c + ·)

/-- The zone of a comb (R152). -/
def State.zoneOf (s : State) (c : Nat) : Nat := s.f (Reg.BIAS_ZONE_MAP (c / 8)) (4 * (c % 8) + 2) (4 * (c % 8))

/-- The enabled combs of a zone. -/
def State.zoneCombs (s : State) (z : Nat) : List Nat := (List.range s.variant.combs).filter fun c => s.zoneOf c == z

/-- `BIAS_STATE_z.STATE`: 0 OFF, 1 RAMPING, 2 ON, 3 FAULT_OPEN, 4 FAULT_OVER. -/
def State.zoneSt (s : State) (z : Nat) : Nat := s.f (Reg.BIAS_STATE z) 18 16

/-- External `BLANK` as the front end takes it (R161, R162). -/
def State.blankOn (s : State) : Bool := s.bit Reg.RX_STATUS 0 && !s.bit Reg.RX_STATUS 1

/-! ## Channel states (R163) -/

/-- Whether a comb has valid bias (R154): its zone ON and itself neither SUSPECT nor OPEN. -/
def State.combValid (s : State) (c : Nat) : Bool := s.zoneSt (s.zoneOf c) == 2 && (s.rxComb c).bias == 0

/-- The state code of R163. -/
def State.calcChan (s : State) (n : Nat) : Nat :=
  let x := s.chan n
  if s.f (Reg.RX_COMB_STATUS (n / 16)) 11 8 ≠ 0 then 5 else if x.biasBad then 2 else if x.faulty then 4
  else if x.stuck then 3 else if x.masked then 1 else 0

/-- `RX_CH_n.STATE` follows. A statistics run on a channel that leaves `OK` is aborted (R188). -/
def State.syncChan (s : State) (n : Nat) : State :=
  let v := s.calcChan n
  let s := s.setF (Reg.RX_CH n) 10 8 v
  let c := n / 16
  if v ≠ 0 ∧ s.f (Reg.TDC_STAT_STATUS c) 2 0 = 1 ∧ bitsOf (s.tdc.stats.get {} c).ctrl 3 0 = n % 16 then
    s.setF (Reg.TDC_STAT_STATUS c) 2 0 4
  else s

/-- Change a channel and its state code. -/
def State.modChan (s : State) (n : Nat) (f : Chan → Chan) : State := (s.setChan n (f (s.chan n))).syncChan n

/-- The columns that have started and not closed. -/
def State.liveCols (s : State) : List ColPlan :=
  s.plan.cols.entries.filterMap fun e => match e.2 with
    | some c => if c.startNs.isSome && !c.closed then some c else none
    | none => none

/-- Mark the points of a channel in the columns that run. -/
def State.markPts (s : State) (n : Nat) (f : Pt → Pt) : State :=
  match s.segOfChan n with
  | none => s
  | some g =>
    s.each (s.liveCols.filter fun c => (c.seg? g).isSome) fun s c => s.modPt (ptKey (colKey c.frame c.column) n) f

/-- R154, R156, R163: a channel without valid bias is in `BIAS_FAULT` at once, and its points carry it; one whose bias is
valid again leaves at its next shot boundary. -/
def State.refreshBias (s : State) (c : Nat) : State :=
  let ok := s.combValid c
  s.each (combChans c) fun s n =>
    let x := s.chan n
    if !ok then
      let s := if x.biasBad then s else s.markPts n fun p => { p with biasFault := true }
      s.modChan n fun x => { x with biasBad := true }
    else if x.win.isNone then s.modChan n fun x => { x with biasBad := false }
    else s.syncChan n

/-- R167: a comb's loss cause (bit 0 `REF`, 1 `BIAS`, 2 `CHANNELS`, 3 `TIMING`) comes or goes; the comb is declared lost with
its first cause and restored with its last. -/
def State.setLossCause (s : State) (c bit : Nat) (on : Bool) : State :=
  if s.bit (Reg.RX_COMB_STATUS c) (8 + bit) == on then s
  else
    let was := s.f (Reg.RX_COMB_STATUS c) 11 8
    let s := s.setBit (Reg.RX_COMB_STATUS c) (8 + bit) on
    let cause := s.f (Reg.RX_COMB_STATUS c) 11 8
    let s := s.setBit Reg.RX_COMB_LOST c (cause != 0)
    let s :=
      if was = 0 then
        ({ s with rej := { s.rej with
          feStore := s.rej.feStore.set [] c [], feQueue := s.rej.feQueue.filter fun q => q.comb != c } }).post Rec.COMB_LOST (c + 256 * cause)
      else s
    s.each (combChans c) fun s n => s.syncChan n

/-- R167 `CHANNELS`. -/
def State.judgeChannels (s : State) (c : Nat) : State :=
  s.setLossCause c 2 (decide (max 1 (s.ef Reg.RX_LIMITS 4 0) ≤ ((combChans c).filter fun n => (s.chan n).faulty).length))

/-! ## Gain ranges and receive windows (R144 to R149) -/

/-- The range in force on a channel. -/
def State.rangeOf (s : State) (n : Nat) : Nat := s.f (Reg.RX_CH n) 13 12

def State.setRange (s : State) (n r : Nat) : State := s.setF (Reg.RX_CH n) 13 12 r

/-- R149: comb c is under calibration, which sets its ranges and its threshold. -/
def State.calibrates (s : State) (c : Nat) : Bool := s.cal.full.isSome || (s.cal.run.map (·.comb)) == some c

/-- R149: a channel starts in range `FIX` with `up` = 0. -/
def State.startRange (s : State) (n : Nat) : State :=
  (s.setRange n (s.f (Reg.RX_RANGE (n / 16)) 3 2)).modChan n fun x => { x with up := 0, next := none, mode := s.f (Reg.RX_RANGE (n / 16)) 1 0 }

/-- R149: a new `MODE` starts the channel in range `FIX` with `up` = 0, and `FIXED` keeps it there; the change of range follows R146. -/
def State.rangeMode (s : State) (n : Nat) : State :=
  let rr := s.rd (Reg.RX_RANGE (n / 16))
  let want : Option Nat := if s.rangeOf n = bitsOf rr 3 2 then none else some (bitsOf rr 3 2)
  if s.calibrates (n / 16) then s
  else if bitsOf rr 1 0 ≠ (s.chan n).mode then s.modChan n fun x => { x with mode := bitsOf rr 1 0, up := 0, next := want }
  else if bitsOf rr 1 0 = 1 then s.modChan n fun x => { x with next := want }
  else s

/-- What takes effect at a channel's shot boundary: `MASK`, valid bias, and the mode of its range (R149, R156, R169). -/
def State.boundary (s : State) (n : Nat) : State :=
  (s.rangeMode n).modChan n fun x => { x with masked := s.bit (Reg.RX_CH n) 6, biasBad := !s.combValid (n / 16) }

/-- A write to the registers of a channel takes effect at its next shot boundary: now, if no window is open. -/
def State.chanWritten (s : State) (n : Nat) : State := if (s.chan n).win.isSome then s else s.boundary n

/-- Overload recovery of a range in ns (R144). -/
def recoveryNs (r : Nat) : Nat := match r with | 0 => 30 | 1 => 20 | 2 => 12 | _ => 8

/-- R232: whether the `ADP_EN_MASK` bit of comb c is in force; a write applies from the next column's update. -/
def State.adpOn (s : State) (c : Nat) : Bool := !bitN s.rej.adpOff c

/-- `THR_EFF` + `TRIM` of a channel (R150, R151); the calibration threshold while its comb is calibrated (R149), a free value: log entry 68. -/
def State.thrBase (s : State) (n : Nat) : Int :=
  let c := n / 16
  let t := s.f (Reg.RX_THR c) 9 0
  let e := if s.adpOn c then max t (s.f (Reg.ADP_THR c) 9 0) else t
  if s.calibrates c then Config.calThreshold else (e : Int) + s.fs (Reg.RX_CH n) 5 0

/-- R150: the near term at `d` ns after the FIRE edge, from a word of `RX_THR_c`. -/
def nearTerm (w : Word) (d : Nat) : Nat := if bitsOf w 27 20 = 0 then 0 else bitsOf w 19 10 - bitsOf w 27 20 * (d / 5)

/-- R150: the threshold of channel n now, in 1/1024 of the swing. -/
def State.threshold (s : State) (n : Nat) : Int :=
  match (s.chan n).win with
  | some w => clampInt 0 1023 (w.base + nearTerm w.thr ((512 * s.now - w.fireAt) / 512))
  | none => clampInt 0 1023 (s.thrBase n)

/-- The comparator's hysteresis on channel n, in 1/1024 of the swing (R150). -/
def State.hysteresis (s : State) (n : Nat) : Nat :=
  match bitsOf (match (s.chan n).win with
    | some w => w.thr
    | none => s.rd (Reg.RX_THR (n / 16))) 29 28 with
  | 0 => 0 | 1 => 4 | 2 => 8 | _ => 16

/-- R150: the comparator gives a rising edge when its input, which had fallen to `dip` since it was last high, reaches `level`: the hysteresis lies below
the threshold (DEDUCED: log entry 67). -/
def State.rises (s : State) (n level dip : Nat) : Bool :=
  decide (s.threshold n ≤ level) && decide ((dip : Int) ≤ max 0 (s.threshold n - s.hysteresis n))

/-- R144: the end of a receive window of `window` coarse periods after a FIRE edge, in 1/512 ns. -/
def windowEnd (fireAt window : Nat) : Nat := fireAt + 40 * 512 + window * 320

/-- R161: with `BLANK_TAG`, the point of channel n in a column carries `BLANKED`. -/
def State.tagBlank (s : State) (key : Option Nat) (n : Nat) : State :=
  match key with
  | some k => if s.ef Reg.RX_CTRL 1 1 = 1 then s.modPt (ptKey k n) fun p => { p with blanked := true } else s
  | none => s

/-- Open the receive window of a channel at a FIRE edge, for a shot of column `key`, if of one. A range change that R146 lets begin has settled; one that
comes too late is deferred. -/
def State.openWindow (s : State) (key : Option Nat) (n seg number fireAt closeAt : Nat) : State :=
  let x := s.chan n
  let s := match x.next with
    | some r =>
      if x.closeAt + 48 * 512 ≤ fireAt then (s.setRange n r).modChan n fun x => { x with next := none }
      else s.flag Reg.RX_FLAGS 6
    | none => s
  let s := if s.blankOn then s.tagBlank key n else s
  let w : RxWin := { key, seg, number, fireAt, closeAt, range := s.rangeOf n, thr := s.rd (Reg.RX_THR (n / 16)), rr := s.rd (Reg.RX_RANGE (n / 16)), base := s.thrBase n }
  s.modChan n fun x => { x with win := some w }

/-- R145: the decision at the close of a window: the new `up` count and the range wanted next, if another. -/
def rangeDecision (rr : Word) (range up peak : Nat) (sat : Bool) : Nat × Option Nat :=
  if sat ∨ bitsOf rr 13 8 ≤ peak then (0, if range < bitsOf rr 7 6 then some (range + 1) else none)
  else if peak < bitsOf rr 21 16 then
    let u := min (up + 1) (bitsOf rr 27 24)
    if u = bitsOf rr 27 24 ∧ bitsOf rr 5 4 < range then (0, some (range - 1)) else (u, none)
  else (0, none)

/-- Close the receive window of a channel: the decision of R145 in `AUTO`, then its shot boundary. -/
def State.closeWindow (s : State) (n peak : Nat) : State :=
  match (s.chan n).win with
  | none => s
  | some w =>
    let d := if s.calibrates (n / 16) then ((s.chan n).up, none)
      else if bitsOf w.rr 1 0 = 0 then rangeDecision w.rr w.range (s.chan n).up peak w.sat else (0, none)
    (s.modChan n fun x => { x with up := d.1, next := d.2, closeAt := w.closeAt, win := none }).boundary n

/-- The FIRE edges to come of a segment that the gate has permitted. -/
def State.nextFire (s : State) (g : Nat) : Option Nat := ((s.emit.cuts.filter fun q => q.seg == g && !q.refused).map (·.fireAt)).head?

/-! ## Bias zones (R152 to R158) -/

/-- R154: whether the device state drives the zones, from the acceptance of `ARM` to SAFE. -/
def State.biasActive (s : State) : Bool :=
  s.dev.scanning || s.dev == .safe || (s.dev == .standby && s.wag.armAt.isSome)

/-- A zone in use: `EN` and an enabled comb (R152). -/
def State.zoneUsed (s : State) (z : Nat) : Bool := bitN (s.ef (Reg.BIAS_CTRL z) 31 0) 14 && !(s.zoneCombs z).isEmpty

/-- The bias target (R153). -/
def State.biasTarget (s : State) (z : Nat) : Nat :=
  (clampInt 0 (s.ef (Reg.BIAS_CTRL z) 29 16)
    ((s.ef (Reg.BIAS_CTRL z) 13 0 : Int) + s.rx.comp.get 0 z - s.f (Reg.SUN_RED z) 13 0)).toNat

/-- `BIAS_SNS` follows: OPEN is shown in every state of the zone, otherwise 3 while the zone is not ON. -/
def State.syncSns (s : State) (c : Nat) : State :=
  let b := (s.rxComb c).bias
  s.setF (Reg.RX_COMB_STATUS c) 1 0 (if b = 2 then 2 else if s.zoneSt (s.zoneOf c) ≠ 2 then 3 else b)

/-- What the bias of comb c says of its channels and its loss (R154, R163, R167). -/
def State.refreshComb (s : State) (c : Nat) : State :=
  ((s.syncSns c).refreshBias c).setLossCause c 1 ((s.rxComb c).bias == 2 || decide (3 ≤ s.zoneSt (s.zoneOf c)))

/-- What follows a change of a zone's state or of a comb's bias state. -/
def State.refreshZone (s : State) (z : Nat) : State := s.each (s.zoneCombs z) State.refreshComb

/-- Every comb is judged again: its bias, and its channels against `COMB_LOSS_N` (R163, R167). -/
def State.refreshCombs (s : State) : State := s.each (List.range s.variant.combs) fun s c => (s.refreshComb c).judgeChannels c

/-- A zone takes a state and an applied code; one that is not ON has no reduction (R222). -/
def State.setZone (s : State) (z st applied : Nat) : State :=
  let s := s.when (st != 2) fun s => s.setF (Reg.SUN_RED z) 13 0 0
  ((s.setF (Reg.BIAS_STATE z) 18 16 st).setF (Reg.BIAS_STATE z) 13 0 applied).refreshZone z

/-- `SUSPECT`: the conversion in progress is aborted (R156). -/
def State.suspect (s : State) (c : Nat) : State :=
  ((s.setRxComb c { s.rxComb c with bias := 1, check := none, conv := none }).setF (Reg.BIAS_I c) 17 16 1).flag
    Reg.RX_FLAGS 2

/-- R157: a zone fault, `st` 3 FAULT_OPEN or 4 FAULT_OVER, found on comb c: the set-point goes to 0 V and every comb of the
zone is lost. -/
def State.zoneFault (s : State) (z c st : Nat) : State :=
  let s := (s.setZone z st 0).flag Reg.RX_FLAGS 3
  let s := s.post Rec.BIAS_FAULT (z + 8 * c + 256 * (st - 2))
  s.raise Ev.BIAS_FAULT .all (leBytes 1 z ++ leBytes 1 c ++ leBytes 1 (st - 2) ++ leBytes 1 0)

/-- Every enabled comb of zone z is OPEN (R156). -/
def State.zoneOpen (s : State) (z : Nat) : Bool := !(s.zoneCombs z).isEmpty && (s.zoneCombs z).all fun k => (s.rxComb k).bias == 2

/-- A comb becomes OPEN (R156); a zone whose combs are all OPEN enters FAULT_OPEN. -/
def State.openComb (s : State) (z c : Nat) : State :=
  let s := s.setRxComb c { s.rxComb c with bias := 2, check := none, conv := none }
  let s := ((s.setF (Reg.BIAS_I c) 17 16 1).flag Reg.RX_FLAGS 3).refreshZone z
  if s.zoneOpen z then s.zoneFault z c 3 else s

/-- R152, R156: `BIAS_ZONE_MAP` has changed: a zone that is left with combs that are all OPEN enters FAULT_OPEN, on its first comb (DESIGN CHOICE: log
entry 93). -/
def State.zonesMapped (s : State) : State :=
  s.refreshCombs.each (List.range 8) fun s z =>
    if s.zoneOpen z ∧ s.zoneSt z < 3 then s.zoneFault z ((s.zoneCombs z).headD 0) 3 else s

/-- R158: what `RETRY` does when it takes effect. -/
def State.retryZone (s : State) (z : Nat) : State :=
  let st := s.zoneSt z
  if st = 2 then
    (s.each ((s.zoneCombs z).filter fun c => (s.rxComb c).bias == 2) fun s c => s.suspect c).refreshZone z
  else if 3 ≤ st then
    let s := s.each (s.zoneCombs z) fun s c => s.setRxComb c { s.rxComb c with bias := 0, check := none, overRun := 0 }
    s.setZone z (if s.biasActive then 1 else 0) 0
  else s

/-- One tick of a zone's ramp (R153, R154). The end of a ramp starts the check of R158. -/
def State.rampZone (s : State) (z : Nat) : State :=
  let st := s.zoneSt z
  let a := s.f (Reg.BIAS_STATE z) 13 0
  let slew := max 1 (s.ef Reg.RX_LIMITS 23 16)
  if 3 ≤ st then s
  else if !s.zoneUsed z then (if st = 0 ∧ a = 0 then s else s.setZone z 0 0)
  else if s.biasActive then
    let t := s.biasTarget z
    let b := if a ≤ t then min t (a + slew) else max t (a - slew)
    if st = 2 then s.setF (Reg.BIAS_STATE z) 13 0 b
    else if b = t then
      let s := s.each (s.zoneCombs z) fun s c =>
        if (s.rxComb c).bias = 2 then s else s.setRxComb c { s.rxComb c with bias := 0, check := some 4 }
      s.setZone z 2 b
    else s.setZone z 1 b
  else if s.dev == .standby || s.dev == .thermalStop then
    (if st = 0 ∧ a = 0 then s else s.setZone z (if a ≤ slew then 0 else 1) (a - slew))
  else (if st = 0 ∧ a = 0 then s else s.setZone z 0 0)

/-- The overcurrent check of a comb of a zone that has not faulted (R157, R161). -/
def State.checkOver (s : State) (c reading : Nat) : State :=
  let x := s.rxComb c
  if s.blankOn ∨ 3 ≤ s.zoneSt (s.zoneOf c) then s
  else
    let n := if s.ef Reg.RX_BIAS_LIMITS 31 16 ≤ reading then x.overRun + 1 else 0
    let s := s.setRxComb c { x with overRun := n }
    if max 1 (s.ef Reg.RX_LIMITS 27 24) ≤ n then s.zoneFault (s.zoneOf c) c 4 else s

/-- The excitation check of a comb of a zone that is ON (R156, R158, R161). -/
def State.checkComb (s : State) (z c reading : Nat) : State :=
  let x := s.rxComb c
  let blank := s.blankOn
  let iOpen := s.ef Reg.RX_BIAS_LIMITS 15 0
  match x.check with
  | some k =>
    if iOpen ≤ reading then s.setRxComb c { x with check := none }
    else if blank then s
    else if k ≤ 1 then s.openComb z c
    else s.setRxComb c { x with check := some (k - 1) }
  | none =>
    if x.bias = 0 ∧ reading < iOpen then (s.suspect c).refreshZone z
    else if x.bias = 1 ∧ iOpen ≤ reading then
      ((s.setRxComb c { x with bias := 0 }).addF (Reg.RX_COMB_STATUS c) 31 16 1).refreshZone z
    else if x.bias = 1 ∧ !blank then s.openComb z c
    else s

/-- The check of a comb's reference (R166). -/
def State.checkRef (s : State) (c : Nat) (ok : Bool) : State :=
  let x := s.rxComb c
  if ok then
    let p := x.refPass + 1
    let s := s.setRxComb c { x with refFail := 0, refPass := min p 64, refFault := x.refFault && decide (p < 64) }
    if x.refFault ∧ 64 ≤ p then s.setLossCause c 0 false else s
  else
    let k := x.refFail + 1
    let s := s.setRxComb c { x with refPass := 0, refFail := min k 2, refFault := x.refFault || decide (2 ≤ k) }
    if 2 ≤ k ∧ ¬ x.refFault then (s.flag Reg.RX_FLAGS 5).setLossCause c 0 true else s

/-- R155: comb c has a conversion in progress; one that ended or was aborted is followed by the next. -/
def State.runConversion (s : State) (c : Nat) : State :=
  let x := s.rxComb c
  if x.conv.isSome then s else s.setRxComb c { x with conv := some s.rx.ticks, convClear := !s.blankOn }

/-- R155: conversions run for every comb, in every state but RESET, BOOT and FAULT_HALT. -/
def State.runConversions (s : State) : State :=
  if s.dev == .reset || s.dev == .boot || s.dev == .faultHalt then s
  else
    s.each (List.range s.variant.combs) State.runConversion

/-- R160: whether an internal blank covers this instant: around the FIRE edges issued and those to come. -/
def State.inBlank (s : State) : Bool :=
  let pre := 512 * s.ef Reg.RX_CTRL 20 16
  let post := 512 * s.ef Reg.RX_CTRL 26 21
  let fires := (s.emit.fires.entries.flatMap fun e => e.2.map (·.1)) ++ (s.emit.cuts.filter fun q => !q.refused).map (·.fireAt)
  fires.any fun f => decide (f ≤ 512 * s.now + pre ∧ 512 * s.now < f + post)

/-- R154: what a change of operating state does to the zones at once: FAULT_HALT takes them to 0 V. -/
def State.biasHalt (s : State) : State :=
  let s := s.each (List.range 8) fun s z => if s.zoneSt z ≤ 2 then s.setZone z 0 0 else s
  s.each (List.range 32) fun s c => s.setRxComb c { s.rxComb c with conv := none }

/-- R154: from the acceptance of `ARM` the zones in use are RAMPING. -/
def State.biasArm (s : State) : State :=
  s.each (List.range 8) fun s z =>
    if s.zoneUsed z ∧ s.zoneSt z = 0 then s.setZone z 1 (s.f (Reg.BIAS_STATE z) 13 0) else s

/-- R154: the zones ramp down when the device leaves the states that drive them. -/
def State.biasDown (s : State) : State :=
  s.each (List.range 8) fun s z => if s.zoneSt z = 2 then s.setZone z 1 (s.f (Reg.BIAS_STATE z) 13 0) else s

/-! ## Blanking (R161, R162) -/

def State.ma (s : State) (m : Nat) : MaConv := s.aux.ma.get {} m

/-- R290: the modulator period of converter m in 1/8 ns. -/
def State.maPeriod8 (s : State) (m : Nat) : Nat := if s.bit (Reg.MA_CFG m) 3 then 10000 else 625

/-- R290: the time of one output word in 1/8 ns. -/
def State.maWord8 (s : State) (m : Nat) : Nat := s.f (Reg.MA_DEC m) 20 0 * s.maPeriod8 m

/-- R299: the last modulator sample of converter m that fell in the `BLANK` under way, in 1/8 ns. A slot's samples end its modulator periods
(DESIGN CHOICE: log entry 120). -/
def State.maHeld (s : State) (m : Nat) : Option Nat :=
  match (s.ma m).at_, s.rx.blankSince with
  | some t, some b =>
    let last := 8 * s.now - (8 * s.now - t) % s.maPeriod8 m
    if 8 * b ≤ last then some last else none
  | _, _ => none

/-- `BLANK` as the front end sees it ends now (R299); the conversions in progress are not covered by it whole (R155). -/
def State.endBlank (s : State) : State :=
  let held := (List.range 3).foldl (fun (t : Tbl (Option Nat)) m => t.set none m (s.maHeld m <|> t.get none m)) s.aux.heldAt
  let s := { s with aux := { s.aux with blankEnd := some s.now, heldAt := held } }
  s.each (List.range s.variant.combs) fun s c => s.setRxComb c { s.rxComb c with convClear := true }

/-- `RX_STATUS.BLANK_IN` follows the pin and its polarity; a new assertion starts the count of R162, and while it lasts the points with
an open window carry `BLANKED` where `BLANK_TAG` asks for it. -/
def State.syncBlank (s : State) : State :=
  let on := s.rx.blankPin != bitN (s.ef Reg.RX_CTRL 31 0) 0
  let s :=
    if s.bit Reg.RX_STATUS 0 == on then s
    else
      let s := if s.blankOn ∧ ¬ on then s.endBlank else s
      let s := (s.setBit Reg.RX_STATUS 0 on).setBit Reg.RX_STATUS 1 false
      { s with rx := { s.rx with blankSince := if on then some s.now else none } }
  if on then s.each (s.rx.chans.entries.filterMap fun e => e.2.win.map fun w => (w.key, e.1)) fun s e => s.tagBlank e.1 e.2 else s

/-! ## Frame boundary and self-test -/

/-- R164: at a frame boundary STUCK channels are retried. -/
def State.retryStuck (s : State) : State :=
  s.each (List.range s.variant.channels) fun s n =>
    let x := s.chan n
    let s := if x.stuckNow ∨ s.f (Reg.RX_CH n) 23 16 = 0 then s else s.setF (Reg.RX_CH n) 23 16 0
    if x.stuck ∨ x.stuckNow then s.modChan n fun x => { x with stuck := false, stuckNow := false } else s

/-- A channel becomes STUCK (R163, R164). -/
def State.stickChan (s : State) (n : Nat) : State :=
  let x := s.chan n
  let s := s.flag Reg.RX_FLAGS 1
  let s := if x.stuckNow then s else s.addF (Reg.RX_CH n) 23 16 1
  let limit := max 1 (s.ef Reg.RX_CTRL 30 27)
  let bad := x.faulty || decide (limit ≤ s.f (Reg.RX_CH n) 23 16)
  (s.modChan n fun x => { x with stuck := true, stuckNow := true, faulty := bad }).judgeChannels (n / 16)

/-- R165: start the channel self-test. -/
def State.startSelftest (s : State) : State :=
  { (s.setBit Reg.RX_STATUS 2 true) with rx := { s.rx with testAt := some s.now } }

/-- R165: the self-test ends; `bad` are the channels that failed. -/
def State.endSelftest (s : State) (bad : List Nat) : State :=
  let s := (s.setBit Reg.RX_STATUS 2 false).setBit Reg.RX_STATUS 3 (bad.any fun n => decide (n < s.variant.channels))
  let s := { s with rx := { s.rx with testAt := none } }
  let s := s.each (List.range s.variant.channels) fun s n =>
    if (s.chan n).faulty == bad.contains n then s else s.modChan n fun x => { x with faulty := bad.contains n }
  s.each (List.range s.variant.combs) fun s c => s.judgeChannels c

end Sys2Proof.Machine
end

