-- ==== Sys2Proof/Machine/TdcOps.lean ====
section
/-!
DEFINITION. Machine/TdcOps.lean: event timing (chapter 7) as operations: instants and timestamps, starts, stops and closes of
a shot, event and marker words, the strong events of R216 and the statistics units.
-/

namespace Sys2Proof.Machine

/-- One coarse period of 625 ps in 1/4096 ps. -/
def coarseUnits : Nat := 2560000

/-- R170: the instant of an edge from its coarse count N, its raw code r and the timer's word (`LSB`, `TOP`), in 1/4096 ps. -/
def instantOf (w : Word) (n r : Nat) : Int :=
  let k := (bitsOf w 24 16 - r) * bitsOf w 15 0
  if coarseUnits ≤ k then n * coarseUnits else (n - 1 : Int) * coarseUnits + k

/-- R171: the timestamp of a time of flight τ ≥ 0 in 1/4096 ps, with the stop channel's `LSB`: coarse and fine. -/
def stampOf (lsb tau : Nat) : Nat × Nat :=
  let c := tau / coarseUnits
  let f := divRoundNat (tau - c * coarseUnits) (max 1 lsb)
  if coarseUnits ≤ f * lsb then (c + 1, 0) else (c, f)

/-- The time that a timestamp denotes, in 1/4096 ps (R171, R194). -/
def stampTime (lsb ts : Nat) : Nat := ts / 256 * coarseUnits + ts % 256 * lsb

def State.tdcComb (s : State) (c : Nat) : TdcComb := s.tdc.combs.get {} c

def State.setTdcComb (s : State) (c : Nat) (x : TdcComb) : State :=
  { s with tdc := { s.tdc with combs := s.tdc.combs.set {} c x } }

def State.setShots (s : State) (l : List OpenShot) : State := { s with tdc := { s.tdc with shots := l } }

/-- Replace an open shot, known by its number and by its comb being timed internally or not. -/
def State.putShot (s : State) (q : OpenShot) : State :=
  s.setShots (s.tdc.shots.map fun x => if x.number = q.number ∧ x.internal = q.internal ∧ x.seg = q.seg then q else x)

/-- R178: an event word. -/
def EvtWord.word (w : EvtWord) : Nat :=
  w.ts + 2 ^ 22 * w.ch + 2 ^ 26 * w.range + 2 ^ 28 * b2n w.sat + 2 ^ 29 * b2n w.ovf + 2 ^ 30 * w.stop + 2 ^ 33 * w.seg

/-- R179: a marker word. -/
def Mark.word (m : Mark) : Nat :=
  if m.close then m.seg + 2 ^ 6 * b2n m.noStart + 2 ^ 8 * m.drop + 2 ^ 16 * m.wcount + 2 ^ 24 * m.lost + 2 ^ 47
  else m.seg + 2 ^ 6 * b2n m.internal + 2 ^ 16 * (m.number % 65536) + 2 ^ 46

/-- Write a marker word. A raw-event capture takes it, and the drops of a close word as a loss (R281). -/
def State.mark (s : State) (c : Nat) (m : Mark) : State :=
  let x := s.tdcComb c
  let s := s.setTdcComb c { x with marks := x.marks ++ [{ m with at_ := s.now }] }
  if s.capComb c 0 then
    s.capOffer (.item (capWord 2 c m.word) :: if m.close ∧ m.drop ≠ 0 then [.loss 2 m.drop m.dropAt] else [])
  else s

/-! ## Shots -/

/-- The combs to which a shot of segment g is announced (R174): those with a channel of it in state `OK`. -/
def State.noticeCombs (s : State) (g : Nat) : List Nat :=
  (List.range s.variant.combs).filter fun c => (s.segChannels g).any fun n => n / 16 == c && s.chanState n == 0

/-- A FIRE edge: the receive windows of the segment's channels open and the shot waits for its start (R144, R174). -/
def State.openShot (s : State) (q : CutShot) : State :=
  let chans := s.segChannels q.seg
  let combs := s.noticeCombs q.seg
  let s := s.each chans fun s n => s.openWindow (some q.key) n q.seg q.number q.fireAt (windowEnd q.fireAt q.window)
  s.setShots (s.tdc.shots ++ [{
    key := q.key, seg := q.seg, batch := q.batch, batchEnd := q.batchEnd, number := q.number, dither := q.dither,
    acc := q.acc, tile := q.seg / 8, fireAt := q.fireAt, combs, waiting := chans.filter fun n => combs.contains (n / 16) }])

/-- R172, R174: the start arrives, read in comb c as coarse count and raw code `rd[c]`: the start instants are fixed, the stop timers
armed, and the open words written. -/
def State.startShot (s : State) (q : OpenShot) (rd : List (Nat × Nat)) : State :=
  let t (c : Nat) : Int :=
    let e := rd.getD c (0, 0)
    instantOf (s.rd (Reg.TDC_SFINE c q.tile)) e.1 e.2 - s.fs (Reg.TDC_SSKEW c q.tile) 15 0 * 256
  let q := { q with
    start := some (q.combs.map t), armed := q.waiting
    cal := q.waiting.map fun n => (n, s.rd (Reg.TDC_FINE n), s.rd (Reg.TDC_SKEW n)) }
  (s.putShot q).each q.combs fun s c => s.mark c { close := false, seg := q.seg, number := q.number, internal := q.internal }

/-- R179: the close word of a shot in comb c. -/
def State.closeWord (s : State) (q : OpenShot) (c : Nat) (noStart : Bool) : State :=
  s.mark c {
    close := true, seg := q.seg, number := q.number, internal := q.internal, noStart, drop := min 255 (q.drops.get 0 c), dropAt := q.dropAt.get 0 c,
    wcount := (s.tdcComb c).wr,
    lost := ((q.lost.filter fun n => n / 16 == c).map fun n => 2 ^ (n % 16)).foldl (· ||| ·) 0 }

/-- R175: no start arrived: no channel is armed and the shot closes at once in its combs. -/
def State.noStart (s : State) (q : OpenShot) : State :=
  let s := s.setShots (s.tdc.shots.filter fun x => !(x.number == q.number && x.internal == q.internal && x.seg == q.seg))
  s.each q.combs fun s c => (s.mark c { close := false, seg := q.seg, number := q.number }).closeWord q c true

/-- A channel's receive window ends: its stop timer is disarmed, and the comb's last one writes the close word (R174, R179). -/
def State.disarm (s : State) (n : Nat) : State :=
  match s.tdc.shots.find? fun q => q.waiting.contains n with
  | none => s
  | some q =>
    let q := { q with waiting := q.waiting.filter (· != n), armed := q.armed.filter (· != n) }
    let s := s.putShot q
    let s := if q.start.isSome ∧ (q.waiting.all fun k => k / 16 != n / 16) then s.closeWord q (n / 16) false else s
    if q.waiting.isEmpty then
      s.setShots (s.tdc.shots.filter fun x => !(x.number == q.number && x.internal == q.internal && x.seg == q.seg))
    else s

/-! ## Statistics (R188) -/

def State.stat (s : State) (c : Nat) : Stat := s.tdc.stats.get {} c

def State.setStat (s : State) (c : Nat) (x : Stat) : State := { s with tdc := { s.tdc with stats := s.tdc.stats.set {} c x } }

/-- A statistics unit takes an event word of its comb. -/
def State.collect (s : State) (c : Nat) (w : EvtWord) (lsb : Nat) : State :=
  let x := s.stat c
  let co := w.ts / 256
  let sel := bitsOf x.ctrl 7 4
  if s.f (Reg.TDC_STAT_STATUS c) 2 0 ≠ 1 ∨ w.ovf ∨ w.ch ≠ bitsOf x.ctrl 3 0 ∨ (sel < 8 ∧ w.stop ≠ sel) ∨
      co < bitsOf x.gate 13 0 ∨ bitsOf x.gate 29 16 < co ∨ 2 ^ bitsOf x.ctrl 12 8 ≤ x.count then s
  else
    let t := stampTime lsb w.ts
    let x := { x with
      count := x.count + 1, sum := x.sum + t, sumSq := x.sumSq + t * t
      min := if x.count = 0 then w.ts else Min.min x.min w.ts, max := if x.count = 0 then w.ts else Max.max x.max w.ts }
    (s.setStat c x).setR (Reg.TDC_STAT_COUNT c) x.count

/-- The quotient √v / d rounded to nearest, ties to even (R10). -/
def rootQuot (v d : Nat) : Nat :=
  let q := isqrt v / d
  let h := (2 * q + 1) * d * ((2 * q + 1) * d)
  if 4 * v < h then q else if h < 4 * v then q + 1 else q + q % 2

/-- R188: a run ends in a state; its results are published. -/
def State.endStat (s : State) (c st : Nat) : State :=
  let x := s.stat c
  let d := 64 * x.count
  let s := (s.setF (Reg.TDC_STAT_STATUS c) 2 0 st).setR (Reg.TDC_STAT_COUNT c) x.count
  let s := s.setR (Reg.TDC_STAT_MEAN c) (if x.count = 0 then 0 else divRoundNat x.sum d)
  let s := s.setF (Reg.TDC_STAT_SDEV c) 23 0 (if x.count = 0 then 0 else min 0xFFFFFF <| rootQuot (x.count * x.sumSq - x.sum * x.sum) d)
  (s.setF (Reg.TDC_STAT_MIN c) 21 0 x.min).setF (Reg.TDC_STAT_MAX c) 21 0 x.max

/-! ## Event words -/

/-- An instant of `now` in 1/16 ns as device time in 1/16 ns. -/
def State.devTime16 (s : State) (t : Nat) : Nat := ((t : Int) + 16 * ((s.time.dev : Int) - s.now)).toNat

/-- R216: a strong event enters the finder's queue of 64. -/
def State.strongEvent (s : State) (q : OpenShot) (w : EvtWord) (c lsb : Nat) : State :=
  if s.ef Reg.REJ_CTRL 2 2 = 0 ∨ q.internal ∨ s.dev == .calibrating ∨ s.bit Reg.RX_COMB_LOST c ∨
      ¬ (w.sat ∨ s.f Reg.FE_CFG 1 0 ≤ w.range) then s
  else if 64 ≤ s.rej.feQueue.length then (s.inc Reg.FE_IGNORED).flag Reg.REJ_FLAGS 2
  else
    let at16 (x : Nat) : Nat := s.devTime16 (divRoundNat (8000 * q.fireAt + x) 256000)
    { s with rej := { s.rej with feQueue := s.rej.feQueue ++ [{ a := at16 (stampTime lsb w.ts), f := at16 0, comb := c }] } }

/-- An event word reaches the comb's event FIFO of 64, or is dropped (R17, R180, R34). -/
def State.writeEvent (s : State) (q : OpenShot) (c lsb : Nat) (w : EvtWord) : State :=
  let x := s.tdcComb c
  if x.evts.length < 64 then
    let s := s.setTdcComb c { x with evts := x.evts ++ [w], wr := (x.wr + 1) % 256 }
    let s := if s.capComb c 0 then s.capOffer [.item (capWord 1 c w.word)] else s
    (s.collect c w lsb).strongEvent q w c lsb
  else
    let old := s.r Reg.LOOP_LATE_FLAGS
    let s := s.putShot { q with
      drops := q.drops.set 0 c (q.drops.get 0 c + 1), dropAt := if q.drops.get 0 c = 0 then q.dropAt.set 0 c s.now else q.dropAt }
    ((s.inc Reg.EVENT_FIFO_DROP).flag Reg.LOOP_LATE_FLAGS 3).loopLate old

/-- An edge before its start, or with τ < 0 (R176). -/
def State.preStart (s : State) (c : Nat) : State := (s.inc (Reg.TDC_PRE_START c)).flag Reg.TDC_FLAGS 2

/-- R176: an edge that is not timed: counted, flagged and marked in `LOST` of the close word. -/
def State.edgeLost (s : State) (q : OpenShot) (n reg i : Nat) : State :=
  ((s.putShot { q with lost := if q.lost.contains n then q.lost else n :: q.lost }).inc reg).flag Reg.TDC_FLAGS i

/-- R176: the stop limit of a comb's channels: 1 in one-stop mode, 8 otherwise. -/
def State.stopLimit (s : State) (c : Nat) : Nat := if s.ef Reg.TDC_ONE_STOP c c = 1 then 1 else 8

/-- R171, R173, R176: time an edge of an armed channel, read as coarse count and raw code. τ is taken to 1/16 ps before it is encoded. -/
def State.timeEdge (s : State) (q : OpenShot) (n range count code : Nat) (sat : Bool) : State :=
  let c := n / 16
  match q.start, q.cal.find? (·.1 == n) with
  | some start, some (_, fine, skew) =>
    let t := instantOf fine count code
    let x := s.chan n
    let stops := q.stops.get 0 n
    if (match x.last with | some l => decide (t - l < 3750 * 4096) | none => false) then
      s.edgeLost q n (Reg.TDC_DEAD_MISS c) 0
    else if s.stopLimit c ≤ stops then s.edgeLost q n (Reg.TDC_STOP_OVER c) 1
    else
      let i := (q.combs.idxOf c)
      let tau := divRound (t - signed 16 (bitsOf skew 15 0) * 256 - start.getD i 0) 256 * 256
      let lsb := bitsOf fine 15 0
      let st := stampOf lsb tau.toNat
      let ovf := decide (0 ≤ tau ∧ 16384 ≤ st.1)
      let ts := if tau < 0 then 0 else if ovf then 0x3FFFFF else st.1 * 256 + st.2
      let s := if tau < 0 then s.preStart c else s
      let s := if ovf then s.flag Reg.TDC_FLAGS 3 else s
      let s := s.modChan n fun x => { x with last := some t }
      let q := { q with stops := q.stops.set 0 n (stops + 1) }
      ((s.putShot q).writeEvent q c lsb
        { ts, ch := n % 16, range, sat, ovf, stop := stops % 8, seg := q.seg, number := q.number, lsb }).when ovf fun s => s.disarm n
  | _, _ => s

/-- R173, R177: coarse reaches 16,384 as an extended window ends: a channel that still listens reports it (DEDUCED: log entry 119). -/
def State.overflow (s : State) (n : Nat) (w : RxWin) : State :=
  match s.tdc.shots.find? fun q => q.waiting.contains n with
  | none => s
  | some q =>
    let c := n / 16
    let stops := q.stops.get 0 n
    if ¬ q.internal ∨ ¬ q.armed.contains n ∨ s.stopLimit c ≤ stops ∨ w.closeAt < w.fireAt + 16384 * 320 then s
    else
      let lsb := ((q.cal.find? (·.1 == n)).map fun e => bitsOf e.2.1 15 0).getD 0
      let q := { q with stops := q.stops.set 0 n (stops + 1) }
      ((s.flag Reg.TDC_FLAGS 3).putShot q).writeEvent q c lsb
        { ts := 0x3FFFFF, ch := n % 16, range := w.range, sat := false, ovf := true, stop := stops % 8, seg := q.seg, number := q.number, lsb }

/-- R174: comb c's coarse edge at or before a time, in 1/512 ns; a period has 320. Its phase is free (log entry 69). -/
def coarseEdge (c t : Nat) : Nat := t - Config.coarsePhase c t % 320

/-- R174: whether comb c times an edge at `t` in a receive window that closes at `close`: it does before the coarse edge at or before the close.
All but the window's last coarse period lies before it wherever the coarse edges are. -/
def timedBefore (c t close : Nat) : Bool := decide (t + 320 ≤ close) || decide (t < coarseEdge c close)

/-- A comparator edge of channel n: what the front end does with it (R146, R147, R150, R163), then its timing. `level` is the
largest stage output of the pulse in 1/1024 of the swing, `dip` the least before it, and `overNs` how long it overloads, in ns. -/
def State.edge (s : State) (n count code level dip overNs : Nat) : State :=
  let x := s.chan n
  if ¬ s.rises n level dip ∨ 512 * s.now < x.holdUntil ∨ s.calcChan n ≠ 0 then s
  else
    let range := match x.win with
      | some w => w.range
      | none => s.rangeOf n
    let sat := decide (95 * 1024 ≤ 100 * level)
    let s :=
      if sat then
        ((s.inc (Reg.RX_SAT_COUNT (n / 16))).flag Reg.RX_FLAGS 0).modChan n fun x =>
          { x with holdUntil := 512 * (s.now + overNs + recoveryNs range), win := x.win.map fun w => { w with sat := true } }
      else s
    let inside := match x.win with
      | some w => timedBefore (n / 16) (512 * s.now) w.closeAt
      | none => false
    match s.tdc.shots.find? fun q => q.waiting.contains n with
    | none => s
    | some q =>
      if !inside then s
      else if q.start.isNone then s.preStart (n / 16)
      else if q.armed.contains n then s.timeEdge q n range count code sat
      else s

end Sys2Proof.Machine
end

