-- ==== Sys2Proof/Machine/CombOps.lean ====
section
/-!
DEFINITION. Machine/CombOps.lean: combs and histogram accumulation (chapter 8) as operations: notices, geometry, banks, binning,
close words, the early-stop test, and the export at column close with the ambient figures of R220 and R221.
-/

namespace Sys2Proof.Machine

def State.comb (s : State) (c : Nat) : CombSt := s.combs.get {} c

def State.setComb (s : State) (c : Nat) (x : CombSt) : State := { s with combs := s.combs.set {} c x }

def State.hist (s : State) (c k : Nat) : Option PtHist := (s.comb c).hists.get none k

def State.setHist (s : State) (c k : Nat) (h : Option PtHist) : State :=
  s.setComb c { s.comb c with hists := (s.comb c).hists.set none k h }

def State.modHist (s : State) (c k : Nat) (f : PtHist → PtHist) : State :=
  match s.hist c k with
  | some h => s.setHist c k (some (f h))
  | none => s

/-- The column of a key in comb c. -/
def State.combCol (s : State) (c key : Nat) : Option CombCol := (s.comb c).cols.find? (·.key == key)

def State.putCombCol (s : State) (c : Nat) (x : CombCol) : State :=
  s.setComb c { s.comb c with cols := (s.comb c).cols.map fun y => if y.key = x.key then x else y }

/-- Change one segment-column in comb c. -/
def State.modCombSeg (s : State) (c key g : Nat) (f : CombSeg → CombSeg) : State :=
  match s.combCol c key with
  | some x => s.putCombCol c { x with segs := x.segs.map fun y => if y.seg = g then f y else y }
  | none => s

/-! ## Geometry (R195) -/

/-- Bins needed at width code w for a window of coarse periods: 1 period is four bins of 156.25 ps. -/
def binsNeeded (window w : Nat) : Nat := (window * 4 + 2 ^ w - 1) / 2 ^ w

/-- R195: width code, used bins U, bins code, `SHORT_HIST`, from the window and `HIST_CTRL_c`. -/
def geometry (window ctrl : Nat) : Nat × Nat × Nat × Bool :=
  let lo := ctrl % 4
  let w := if bitN ctrl 2 then (((List.range 4).drop lo).find? fun k => decide (binsNeeded window k ≤ 2048)).getD 3 else lo
  let need := binsNeeded window w
  let u := min need 2048
  (w, u, ((List.range 4).find? fun k => decide (u ≤ 256 * 2 ^ k)).getD 3, decide (2048 < need))

/-- B of a bins code (R207). -/
def binsOf (code : Nat) : Nat := 256 * 2 ^ code

/-! ## Banks and notices (R192, R197) -/

/-- `HIST_STATUS_c.BANK0` or `BANK1`: 0 free, 1 accumulating, 2 scanning. -/
def State.bankSt (s : State) (c b : Nat) : Nat := s.f (Reg.HIST_STATUS c) (2 * b + 1) (2 * b)

def State.setBank (s : State) (c b v : Nat) : State := s.setF (Reg.HIST_STATUS c) (2 * b + 1) (2 * b) v

/-- R61, R62: the hive that takes the windows of comb c in frame fr: a frame that ended keeps the placement it had. -/
def State.hiveFor (s : State) (fr c : Nat) : Nat :=
  let now := s.f (Reg.PLACE_MAP (c / 8)) (4 * (c % 8) + 3) (4 * (c % 8))
  if fr = s.frameNo then now else s.plan.placeWas.getD c now

/-- R197: the first notice of a column: its bank accumulates, or the column is stalled in this comb. -/
def State.beginCombCol (s : State) (c key frame column : Nat) : State :=
  let stalled := s.bankSt c (column % 2) != 0
  let s :=
    if stalled then (s.inc (Reg.HIST_STALL c)).flag Reg.HIST_FLAGS 0 else s.setBank c (column % 2) 1
  s.setComb c { s.comb c with cols := (s.comb c).cols ++ [{
    key, frame, column, stalled, dark := (s.comb c).dark, cand := s.eff Reg.HIST_CAND,
    hive := s.hiveFor frame c }] }

/-- R195: the geometry of a segment-column is fixed at its first notice. -/
def State.beginCombSeg (s : State) (c key g window profile : Nat) : State :=
  match s.combCol c key with
  | none => s
  | some x =>
    if x.segs.any (·.seg == g) then s
    else
      let ge := geometry window (s.ef (Reg.HIST_CTRL c) 31 0)
      s.putCombCol c { x with segs := x.segs ++ [{
        seg := g, w := ge.1, u := ge.2.1, b := ge.2.2.1, short := ge.2.2.2, profile,
        pa := s.eff (Reg.ESTOP_PA profile), pb := s.eff (Reg.ESTOP_PB profile) }] }

/-- Change batch k of a segment-column, which begins with its first notice. -/
def modBatch (k : Nat) (f : Batch → Batch) (g : CombSeg) : CombSeg :=
  if g.batches.any (·.number == k) then { g with batches := g.batches.map fun b => if b.number = k then f b else b }
  else { g with batches := g.batches ++ [f { number := k }] }

/-- The histogram of a point begins with its first shot. -/
def State.openHist (s : State) (c key seg n : Nat) : State :=
  match s.hist c (ptKey key n) with
  | some _ => s
  | none => s.setHist c (ptKey key n) (some { seg })

/-- A shot notice reaches comb c (R174, R192, R201). Points of channels that are not `OK` accumulate and are tested too, but are not exported (R207). -/
def State.notice (s : State) (c : Nat) (q : CutShot) : State :=
  let cp := s.col q.key
  let frame := match cp with | some x => x.frame | none => 0
  let column := match cp with | some x => x.column | none => 0
  let s := if (s.combCol c q.key).isSome then s else s.beginCombCol c q.key frame column
  let s := s.beginCombSeg c q.key q.seg q.window q.profile
  let mine := (s.segChannels q.seg).filter fun n => n / 16 == c && q.acc.contains n
  let s := s.each mine fun s n => s.openHist c q.key q.seg n
  let s := s.modCombSeg c q.key q.seg (modBatch q.batch fun b =>
    { b with shots := if q.refused then b.shots else q.number :: b.shots, ended := b.ended || q.batchEnd,
             mask := mine.filter (fun n => !b.mask.contains n) ++ b.mask })
  if q.refused then s
  else s.setComb c { s.comb c with notices := (s.comb c).notices ++ [{
    number := q.number, key := q.key, seg := q.seg, batch := q.batch, dither := q.dither, internal := false, acc := mine,
    ranges := mine.map fun n => (n, s.rangeOf n) }] }

/-! ## Accumulating events (R194, R198, R199) -/

/-- Whether the cluster of sixteen bins from `lo` is full. -/
def PtHist.full (h : PtHist) (lo : Nat) : Bool := decide (0xFFFF ≤ ((List.range 16).map fun i => h.bins.get 0 (lo + i)).sum)

/-- R198: whether one more event in bin b of B saturates the bin or one of its clusters, and whether it saturates plane entry `pk`. -/
def PtHist.saturates (h : PtHist) (b bins pk : Nat) (sat : Bool) : Bool × Bool :=
  (h.bins.get 0 b == 0xFFFF || h.full (16 * (b / 16)) || (decide (8 ≤ b ∧ b < bins - 8) && h.full (16 * ((b - 8) / 16) + 8)),
    !sat && h.planes.get 0 pk == 0xFF)

/-- R198, last row: one event in bin b of B. -/
def PtHist.add (h : PtHist) (b bins range : Nat) (sat : Bool) : PtHist :=
  let pk := 4 * (b / 16) + range
  let f := h.saturates b bins pk sat
  { h with
    bins := h.bins.set 0 b (min 0xFFFF (h.bins.get 0 b + 1)), total := min 0xFFFF (h.total + 1)
    planes := if sat then h.planes else h.planes.set 0 pk (min 0xFF (h.planes.get 0 pk + 1))
    flags := setBitN (setBitN (setBitN h.flags (12 + range) true) 0 (bitN h.flags 0 || f.1)) 7 (bitN h.flags 7 || f.2) }

/-- R198: an event that is not binned because its comb is dark marks its point `CAL_GAP`, also in a column opened before (log entry 72). -/
def PtHist.gap (h : PtHist) : PtHist := { h with flags := setBitN h.flags 2 true }

/-- R198: the binning unit takes the oldest event word of comb c. -/
def State.binEvent (s : State) (c : Nat) : State :=
  let x := s.tdcComb c
  match x.evts with
  | [] => s
  | w :: ws =>
    let s := s.setTdcComb c { x with evts := ws, rd := (x.rd + 1) % 256 }
    match (s.comb c).notices.find? fun n => n.number == w.number && n.seg == w.seg with
    | none => s
    | some nt =>
      let n := 16 * c + w.ch
      match s.combCol c nt.key with
      | none => s
      | some col =>
        if nt.internal ∨ col.stalled ∨ col.closedAt.isSome then s
        else if col.dark ∨ (s.comb c).dark then s.modHist c (ptKey nt.key n) PtHist.gap
        else if ¬ nt.acc.contains n ∨ w.ovf then s
        else
          match col.segs.find? (·.seg == w.seg) with
          | none => s
          | some g =>
            let b := stampTime w.lsb w.ts / (640000 * 2 ^ g.w)
            let k := ptKey nt.key n
            if g.u ≤ b then
              let s := s.modHist c k fun h => { h with ooh := min 0xFFFF (h.ooh + 1), flags := setBitN h.flags 9 true }
              (s.inc (Reg.HIST_OOH c)).flag Reg.HIST_FLAGS 1
            else
              match s.hist c k with
              | none => s
              | some h =>
                let f := h.saturates b (binsOf g.b) (4 * (b / 16) + w.range) w.sat
                let s := s.setHist c k (some (h.add b (binsOf g.b) w.range w.sat))
                (s.when f.1 fun s => s.flag Reg.HIST_FLAGS 5).when f.2 fun s => s.flag Reg.HIST_FLAGS 4

/-- The oldest close word of comb c whose event words have all been read (R180): open words before it are taken off. -/
def TdcComb.dueClose (x : TdcComb) : Option (Mark × List Mark) :=
  match x.marks.dropWhile (!·.close) with
  | [] => none
  | m :: ms => if (m.wcount + 256 - x.rd) % 256 = 0 ∨ 192 ≤ (m.wcount + 256 - x.rd) % 256 then some (m, ms) else none

/-- R180, R199: the comb acts on a close word. -/
def State.actClose (s : State) (c : Nat) : State :=
  let x := s.tdcComb c
  match x.dueClose with
  | none => s
  | some (m, ms) =>
    let s := s.setTdcComb c { x with marks := ms }
    match (s.comb c).notices.find? fun n => n.number == m.number && n.seg == m.seg && n.internal == m.internal with
    | none => s
    | some nt =>
      let s := s.setComb c { s.comb c with notices := (s.comb c).notices.filter (· != nt) }
      let s := s.modCombSeg c nt.key nt.seg (modBatch nt.batch fun b => { b with shots := b.shots.filter (· != m.number), closedAt := some m.at_ })
      let live := match s.combCol c nt.key with
        | some col => col.closedAt.isNone
        | none => false
      if !live ∨ nt.internal then s
      else
        let s := s.each ((combChans c).filter fun n => bitN m.lost (n % 16)) fun s n =>
          s.modHist c (ptKey nt.key n) fun h => { h with flags := setBitN h.flags 6 true }
        s.each nt.acc fun s n =>
          let r := ((nt.ranges.find? (·.1 == n)).getD (n, 0)).2
          s.modHist c (ptKey nt.key n) fun h =>
            let h := if m.noStart then { h with noStart := h.noStart + 1 } else { h with
              n := h.n + 1, g0 := h.g0 + b2n (r == 0), g1 := h.g1 + b2n (r == 1), g2 := h.g2 + b2n (r == 2), g3 := h.g3 + b2n (r == 3) }
            { h with flags := setBitN h.flags 1 (bitN h.flags 1 || m.drop != 0) }

/-! ## Clusters and the early-stop test (R196, R201, R202) -/

/-- Add to a count in a list of (index, count). -/
def bump (l : List (Nat × Nat)) (j v : Nat) : List (Nat × Nat) :=
  match l with
  | [] => [(j, v)]
  | (i, u) :: r => if i = j then (i, min 0xFFFF (u + v)) :: r else (i, u) :: bump r j v

/-- Grid A: the clusters that hold events, as (cluster, count). -/
def PtHist.gridA (h : PtHist) : List (Nat × Nat) := h.bins.entries.foldl (fun l e => bump l (e.1 / 16) e.2) []

/-- Grid B, for B bins. -/
def PtHist.gridB (h : PtHist) (b : Nat) : List (Nat × Nat) :=
  (h.bins.entries.filter fun e => decide (8 ≤ e.1 ∧ e.1 < b - 8)).foldl (fun l e => bump l ((e.1 - 8) / 16) e.2) []

/-- M: the largest cluster count of both grids. -/
def PtHist.maxCluster (h : PtHist) (b : Nat) : Nat := ((h.gridA ++ h.gridB b).map (·.2)).foldl max 0

/-- β of R202 as a fraction. -/
def betaOf (total m u n floorLog : Nat) : Nat × Nat :=
  if u ≤ 32 then (n, 2 ^ floorLog)
  else if n * (u - 16) ≤ (total - m) * 16 * 2 ^ floorLog then ((total - m) * 16, u - 16)
  else (n, 2 ^ floorLog)

/-- The terms y³ⁱ/(2i+1) of the series of artanh in units of 2⁻³⁰: `p` the next power of y, `k` its odd number. -/
def artanhSum : Nat → Nat → Nat → Nat → Nat
  | 0, _, _, _ => 0
  | f + 1, y, p, k => p / k + artanhSum f y (p * y * y / 2 ^ 60) (k + 2)

/-- ln (n / d) for d ≤ n in units of 2⁻²⁰, to within four of them: ln 2ᵉm with m below 2, and ln m = 2 artanh ((m − 1) / (m + 1)). -/
def lnFix (n d : Nat) : Nat :=
  let e := (n / d).log2
  let num := n - 2 ^ e * d
  let y := num * 2 ^ 30 / (n + 2 ^ e * d)
  (e * 744261118 + 2 * artanhSum 14 y y 1) / 1024

/-- ln (n / d) in units of 2⁻²⁰ as the comb evaluates it: its error is open within 2⁻¹⁰ (R202). -/
def lnQ (n d : Nat) : Int := lnFix n d + max (-1020) (min 1020 (Config.lnErr n d))

/-- LLR of R202 in 1/64 nat, rounded under R10; the logarithm is the comb's own within its stated error. -/
def llrOf (m n smin : Nat) (beta : Nat × Nat) : Int :=
  divRound (m * lnQ (256 * beta.1 + smin * n * beta.2) (256 * beta.1) - 4096 * n * smin) 16384

/-- R202: test one point of a segment-column: the verdict code of R207 and its LLR. -/
def verdictOf (g : CombSeg) (h : PtHist) : Nat × Int :=
  let m := h.maxCluster (binsOf g.b)
  let l := llrOf m h.n (bitsOf g.pb 15 0) (betaOf h.total m g.u h.n (bitsOf g.pb 27 24))
  (if (bitsOf g.pa 11 0 : Int) ≤ l then 1 else if l ≤ -(bitsOf g.pa 23 12 : Int) ∧ bitsOf g.pb 22 16 ≤ h.n then 2 else 0, l)

/-- R201: a batch that is complete: its close words are in and `BATCH_END` came, or its column has closed. -/
def Batch.complete (b : Batch) (closed : Bool) : Bool := !b.done && (closed || (b.ended && b.shots.isEmpty))

/-- The verdict on one channel of a batch: the echo bits, the empty bits, and the state. -/
def testChannel (c key : Nat) (col : CombCol) (sg : CombSeg) (a : Nat × Nat × State) (n : Nat) : Nat × Nat × State :=
  match a.2.2.hist c (ptKey key n) with
  | none => a
  | some h =>
    if col.stalled ∨ col.dark ∨ (a.2.2.comb c).dark ∨ h.n = 0 ∨ bitN h.flags 2 ∨ bitN h.flags 4 then a
    else
      let v := verdictOf sg h
      (a.1 + (if v.1 = 1 then 2 ^ (n % 16) else 0), a.2.1 + (if v.1 = 2 then 2 ^ (n % 16) else 0),
        a.2.2.setHist c (ptKey key n) (some { h with verdict := v.1, llr := v.2 }))

/-- R201, R203: test a complete batch of a segment and queue its verdict word. -/
def State.testBatch (s : State) (c key g k : Nat) : State :=
  match s.combCol c key with
  | none => s
  | some col =>
    match col.segs.find? (·.seg == g) with
    | none => s
    | some sg =>
      let bt := (sg.batches.find? (·.number == k)).getD { number := k }
      let mask := bt.mask
      let s := s.modCombSeg c key g (modBatch k fun b => { b with done := true })
      let r := mask.foldl (testChannel c key col sg) (0, 0, s)
      let s := r.2.2
      let s := s.setComb c { s.comb c with verdicts := (s.comb c).verdicts ++
        [{ key, column := col.column, comb := c, seg := g, batch := k, echo := r.1, empty := r.2.1, closedAt := bt.closedAt }] }
      (s.add Reg.ESTOP_ECHO_COUNT (popCount 16 r.1)).add Reg.ESTOP_EMPTY_COUNT (popCount 16 r.2.1)

/-- The oldest complete batch of segment g in comb c: column key and batch number. -/
def State.dueBatch (s : State) (c g : Nat) : Option (Nat × Nat) :=
  ((s.comb c).cols.filterMap fun col =>
    match col.segs.find? (·.seg == g) with
    | none => none
    | some sg => (sg.batches.find? fun b => b.complete col.closedAt.isSome).map fun b => (col.key, b.number)).head?

/-! ## Export (R205 to R208) -/

/-- R206: a cluster of count C is a candidate. -/
def isCandidate (beta : Nat × Nat) (cand : Word) (c : Nat) : Bool :=
  let d : Int := ((c : Int) - bitsOf cand 15 8) * beta.2 - beta.1
  decide (0 ≤ d ∧ (bitsOf cand 7 0 * bitsOf cand 7 0 * (beta.1 * beta.2) : Int) ≤ 256 * (d * d))

/-- The peak bin of the 16 bins from `lo`: the highest count, the lowest bin among equals. -/
def PtHist.peakBin (h : PtHist) (lo : Nat) : Nat :=
  ((List.range 16).foldl (fun (a : Nat × Nat) i => if a.2 < h.bins.get 0 (lo + i) then (lo + i, h.bins.get 0 (lo + i)) else a)
    (lo, h.bins.get 0 lo)).1

/-- R206: walk down the ranked candidates (first bin, count), choosing windows: (start, rank, peak, count). -/
def PtHist.walk (h : PtHist) (b : Nat) : List (Nat × Nat) → List (Nat × Nat × Nat × Nat) → List (Nat × Nat × Nat × Nat)
  | [], acc => acc
  | (lo, c) :: r, acc =>
    let p := h.peakBin lo
    if acc.length = 8 ∨ acc.any fun w => decide (w.1 ≤ p ∧ p < w.1 + 64) then h.walk b r acc
    else h.walk b r (acc ++ [(min (p - 24) (b - 64), acc.length, p, c)])

/-- R206, R207: the window records of a point. -/
def PtHist.windows (h : PtHist) (b : Nat) (beta : Nat × Nat) (cand : Word) : List WinRec :=
  let cl := (h.gridA.map fun e => (16 * e.1, e.2)) ++ (h.gridB b).map fun e => (16 * e.1 + 8, e.2)
  let ranked := sortBy (fun x y : Nat × Nat => decide (y.2 < x.2 ∨ (x.2 = y.2 ∧ x.1 < y.1)))
    (cl.filter fun e => isCandidate beta cand e.2)
  (sortBy (fun x y : Nat × Nat × Nat × Nat => decide (x.1 < y.1)) (h.walk b ranked [])).map fun w =>
    { start := w.1, rank := w.2.1, peak := w.2.2.1 - w.1, c := w.2.2.2,
      bins := (List.range 64).map fun i => h.bins.get 0 (w.1 + i),
      planes := (List.range 20).map fun i =>
        if w.1 / 16 + i / 4 < b / 16 then h.planes.get 0 (4 * (w.1 / 16 + i / 4) + i % 4) else 0 }

/-- R207: the export record of a point. -/
def exportRec (col : CombCol) (g : CombSeg) (n : Nat) (h : PtHist) : ExpRec :=
  let b := binsOf g.b
  let dark := col.dark || bitN h.flags 2
  let void := col.stalled || dark || bitN h.flags 4
  let m := h.maxCluster b
  let beta := betaOf h.total m g.u h.n (bitsOf g.pb 27 24)
  let wins := if void ∨ h.n = 0 then [] else h.windows b beta col.cand
  let flags := setBitN (setBitN (setBitN h.flags 3 col.stalled) 2 dark) 5 g.short
  { key := col.key, frame := col.frame, column := col.column, hive := col.hive, closedAt := col.closedAt.getD 0, ch := n, seg := g.seg, w := g.w, b := g.b, verdict := h.verdict,
    n := h.n, noStart := h.noStart, total := h.total, u := g.u,
    ambient := if g.u ≤ 32 ∨ h.n = 0 then 0 else min 0xFFFF (divRoundNat ((h.total - m) * 65536) ((g.u - 16) * h.n)),
    flags, ooh := h.ooh, sg := [h.g0, h.g1, h.g2, h.g3], m, llr := h.llr, profile := g.profile,
    env := (List.range (b / 16)).map fun j => if void then 0 else ((h.gridA.find? (·.1 == j)).map (·.2)).getD 0
    wins, size := 32 + b / 8 + 160 * wins.length }

/-- The 32 header bytes of a record (R207). -/
def ExpRec.header (r : ExpRec) : List Byte :=
  leBytes 2 r.column ++ leBytes 2 r.ch ++ leBytes 1 (r.seg + 64 * r.w) ++ leBytes 1 (r.b + 4 * r.verdict + 16 * r.wins.length) ++
    leBytes 1 r.n ++ leBytes 1 r.noStart ++ leBytes 2 r.total ++ leBytes 2 r.u ++ leBytes 2 r.ambient ++ leBytes 2 r.flags ++
    leBytes 2 r.ooh ++ (r.sg.map fun v => leBytes 1 v).flatten ++ leBytes 2 r.m ++ leBytes 2 (satS 16 r.llr) ++ leBytes 1 r.profile ++
    leBytes 5 0

/-- A window record of 160 bytes (R207). -/
def WinRec.bytes (w : WinRec) : List Byte :=
  leBytes 2 w.start ++ leBytes 1 w.rank ++ leBytes 1 w.peak ++ leBytes 2 w.c ++ leBytes 2 0 ++
    (w.bins.map fun v => leBytes 2 v).flatten ++ (w.planes.map fun v => leBytes 1 v).flatten ++ leBytes 4 0

/-- `RING_FILL` and `STAGE_FILL`, in KiB rounded to nearest (R10). -/
def State.syncFill (s : State) (c : Nat) : State :=
  let x := s.comb c
  (s.setF (Reg.HIST_STATUS c) 13 8 (toKib (x.ring.map (·.size)).sum)).setF (Reg.HIST_STATUS c) 21 16
    (toKib (x.stage.map (·.size)).sum)

/-- R208: a full histogram for diagnostic staging, or the skip. -/
def State.stageDiag (s : State) (c : Nat) (h : PtHist) (r : ExpRec) : ExpRec × State :=
  let x := s.comb c
  let size := 32 + 2 * r.u
  if (x.stage.map (·.size)).sum + size ≤ 49152 then
    let st : Staged := {
      frame := r.frame, column := r.column, ch := r.ch, size
      bytes := r.header ++ ((List.range r.u).map fun i => leBytes 2 (h.bins.get 0 i)).flatten }
    (r, (s.setComb c { x with stage := x.stage ++ [st] }).pullStaged 1)
  else
    let s := (s.inc (Reg.HIST_DIAG_SKIP c)).flag Reg.HIST_FLAGS 2
    ({ r with flags := setBitN r.flags 8 true }, if s.capComb c 1 then s.capOffer [.loss 3 1 s.now] else s)

/-- The points of a column in comb c, ascending by channel, that await export. -/
def State.exportPts (s : State) (c key : Nat) : List Nat :=
  (combChans c).filter fun n => (s.hist c (ptKey key n)).isSome

/-- Export one point: its record enters the export ring if it fits, and its accumulation is cleared; else it stays. -/
def State.exportPt (s : State) (c : Nat) (col : CombCol) (n : Nat) : State :=
  let k := ptKey col.key n
  match s.hist c k with
  | none => s
  | some h =>
    match col.segs.find? (·.seg == h.seg) with
    | none => s.setHist c k none
    | some g =>
      let r := exportRec col g n h
      if s.chanState n ≠ 0 then s.setHist c k none
      else if 49152 < ((s.comb c).ring.map (·.size)).sum + r.size then s
      else
        let d := if bitN (s.ef (Reg.HIST_CTRL c) 31 0) 3 then s.stageDiag c h r else (r, s)
        let s := d.2.setComb c { d.2.comb c with ring := (d.2.comb c).ring ++ [d.1] }
        let s := s.setHist c k none
        if r.n = 0 ∨ r.u ≤ 32 ∨ bitN r.flags 2 ∨ bitN r.flags 3 ∨ bitN r.flags 4 then s
        else
          let a := s.rej.adpCol.get (0, 0) c
          { s with rej := { s.rej with adpCol := s.rej.adpCol.set (0, 0) c (a.1 + r.ambient * 25 * 2 ^ (3 - r.w), a.2 + 1) } }

/-- R221: the adaptive value of comb c after pass 2; the column's mean λ is the sum over eight times the points. `ADP` holds while the comb is dark. -/
def State.updateAdp (s : State) (c : Nat) : State :=
  let a := s.rej.adpCol.get (0, 0) c
  let s := { s with rej := { s.rej with
    adpCol := s.rej.adpCol.set (0, 0) c (0, 0), adpOff := setBitN s.rej.adpOff c (!s.bit Reg.ADP_EN_MASK c) } }
  if a.2 = 0 ∨ ¬ s.adpOn c ∨ s.bit Reg.RX_COMB_LOST c then s
  else
    let d := 8 * a.2
    let adp := s.f (Reg.ADP_THR c) 9 0
    let s := s.setF (Reg.ADP_THR c) 31 16 (min 0xFFFF (divRoundNat a.1 d))
    if (s.comb c).dark then s
    else if s.f Reg.ADP_RATE 31 16 * d < a.1 then
      let v := adp + s.f Reg.ADP_STEP 7 0
      let top := s.f Reg.ADP_STEP 25 16
      let s := if top < v then s.flag Reg.REJ_FLAGS 3 else s
      s.setF (Reg.ADP_THR c) 9 0 (min v top)
    else if a.1 < s.f Reg.ADP_RATE 15 0 * d then
      s.setF (Reg.ADP_THR c) 9 0 (max (adp - s.f Reg.ADP_STEP 15 8) (s.f (Reg.RX_THR c) 9 0))
    else s

/-- The comb cycles of 625 ps that both passes take (R205): eight cluster counters, then four bins, per cycle. -/
def State.scanCycles (s : State) (c : Nat) (col : CombCol) : Nat :=
  let pts := (s.exportPts c col.key).filterMap fun n => (s.hist c (ptKey col.key n)).map fun h =>
    binsOf (((col.segs.find? (·.seg == h.seg)).map (·.b)).getD 0)
  (pts.map fun b => (b / 8 - 1 + 7) / 8 + b / 4).sum

/-- Comb c closes its record of a column. -/
def State.closeCombCol (s : State) (key c : Nat) : State :=
  match s.combCol c key with
  | none => s
  | some col =>
    let s := s.putCombCol c { col with closedAt := some s.now }
    if col.stalled then s else s.setBank c (col.column % 2) 2

/-- R19, R197: a column closes: its banks turn to scanning. -/
def State.closeCombCols (s : State) (key : Nat) : State :=
  s.each (List.range s.variant.combs) fun s c => s.closeCombCol key c

/-- Pass 2 over points in ascending order: it waits at the first record that the export ring lacks room for (R205, R207). -/
def State.exportAll (s : State) (c : Nat) (col : CombCol) : List Nat → State
  | [] => s
  | n :: ns =>
    let s := s.exportPt c col n
    if (s.hist c (ptKey col.key n)).isSome then s else s.exportAll c col ns

/-- The whole microseconds for which pass 2 of comb c has waited since they were last counted (R205). -/
def State.ringWaited (s : State) (c : Nat) : Nat :=
  (((s.comb c).cols.filterMap fun x => x.waitFrom.map fun t => (s.now - t) / 1000)).sum

/-- R205: each microsecond of waiting counts in `HIST_RING_WAIT_c` and sets `RING_WAIT`; one that ends now sets it at this instant (R14). -/
def State.countWait (s : State) (c : Nat) : State :=
  let n := s.ringWaited c
  let ends := (s.comb c).cols.any fun x => x.waitFrom.any fun t => decide (t < s.now ∧ (s.now - t) % 1000 = 0)
  let s := if n = 0 then s else if ends then s.flag Reg.HIST_FLAGS 6 else s.setBit Reg.HIST_FLAGS 6 true
  (s.add (Reg.HIST_RING_WAIT c) n).setComb c { s.comb c with
    cols := (s.comb c).cols.map fun x => { x with waitFrom := x.waitFrom.map fun t => t + (s.now - t) / 1000 * 1000 } }

/-- The waits of every comb are counted up to now. -/
def State.countWaits (s : State) : State := s.each (List.range s.variant.combs) State.countWait

/-- R205: the export passes of the oldest closed column of comb c end; pass 2 waits for room in the export ring. -/
def State.exportScan (s : State) (c : Nat) : State :=
  match (s.comb c).cols.find? fun x => x.closedAt.isSome with
  | none => s
  | some col =>
    let at_ := col.closedAt.getD 0
    if s.now * 1000 < at_ * 1000 + 625 * s.scanCycles c col ∧ col.waitFrom.isNone then s
    else if col.segs.any fun g => g.batches.any fun b => !b.done then s
    else
      let s := s.countWait c
      let s := s.exportAll c col (s.exportPts c col.key)
      if (s.exportPts c col.key).isEmpty then
        let s := if col.stalled then s else s.setBank c (col.column % 2) 0
        let s := s.setComb c { s.comb c with
          cols := (s.comb c).cols.filter (·.key != col.key), notices := (s.comb c).notices.filter (·.key != col.key) }
        (s.updateAdp c).syncFill c
      else
        let from_ := ((s.combCol c col.key).bind (·.waitFrom)).getD s.now
        (s.putCombCol c { col with waitFrom := some from_ }).syncFill c

end Sys2Proof.Machine
end

