-- ==== Sys2Proof/Machine/RejOps.lean ====
section
/-!
DEFINITION. Machine/RejOps.lean: rejection of other scanners, sun and weather (chapter 9) as operations: foreign-emitter
contexts, bias reduction, and the weather figures and state.
-/

namespace Sys2Proof.Machine

/-! ## Foreign-emitter contexts (R216 to R219) -/

/-- `FE_CTX_i.STATE`: 0 FREE, 1 LEARNING, 2 LOCKED. -/
def State.feSt (s : State) (i : Nat) : Nat := s.f (Reg.FE_CTX_STATE i) 1 0

def State.feHits (s : State) (i : Nat) : Nat := s.f (Reg.FE_CTX_STATE i) 15 8

/-- `REJ_STATUS` counts the LOCKED and the LEARNING contexts. -/
def State.syncFe (s : State) : State :=
  let l := (List.range 64).map s.feSt
  (s.setF Reg.REJ_STATUS 6 0 (l.filter (· == 2)).length).setF Reg.REJ_STATUS 14 8 (l.filter (· == 1)).length

/-- The payload of `FOREIGN_LOCKED` and `FOREIGN_RELEASED`: context, period, `COMBS`. -/
def State.fePayload (s : State) (i : Nat) : List Byte :=
  leBytes 4 i ++ leBytes 4 (s.r (Reg.FE_CTX_PERIOD i)) ++ leBytes 4 (s.r (Reg.FE_CTX_COMBS i))

/-- R219: free a context; `FOREIGN_RELEASED` if it was LOCKED. -/
def State.feFree (s : State) (i : Nat) : State :=
  let s := if s.feSt i = 2 then s.raise Ev.FOREIGN_RELEASED .all (s.fePayload i) else s
  let s := (((s.setR (Reg.FE_CTX_STATE i) 0).setR (Reg.FE_CTX_PERIOD i) 0).setR (Reg.FE_CTX_LAST i) 0).setR (Reg.FE_CTX_COMBS i) 0
  { s with rej := { s.rej with ctxLast := s.rej.ctxLast.set 0 i 0, ctxHit := s.rej.ctxHit.set 0 i 0 } }

/-- Set `LAST` of a context, its hits and the comb's bit. -/
def State.feAnchor (s : State) (i a hits comb : Nat) : State :=
  let s := (s.setF (Reg.FE_CTX_STATE i) 15 8 (min 255 hits)).setR (Reg.FE_CTX_LAST i) (divRoundNat a 16)
  let s := s.setBit (Reg.FE_CTX_COMBS i) comb true
  { s with rej := { s.rej with ctxLast := s.rej.ctxLast.set 0 i a, ctxHit := s.rej.ctxHit.set 0 i s.now } }

/-- R217: a LEARNING context whose hits reach `FE_CONFIRM` becomes LOCKED. -/
def State.feConfirm (s : State) (i : Nat) : State :=
  if s.feSt i = 1 ∧ s.f Reg.FE_CFG 7 4 ≤ s.feHits i then
    let s := (s.setF (Reg.FE_CTX_STATE i) 1 0 2).flag Reg.REJ_FLAGS 0
    s.raise Ev.FOREIGN_LOCKED .all (s.fePayload i)
  else s

/-- R219: context i beside each other non-free context within `FE_TOL` in period: the one with fewer hits, then the higher index, is freed. -/
def State.feMerge (s : State) (i : Nat) : State :=
  if s.feSt i = 0 then s
  else
    s.each ((List.range 64).filter (· != i)) fun s j =>
      let d : Int := (s.r (Reg.FE_CTX_PERIOD i) : Int) - s.r (Reg.FE_CTX_PERIOD j)
      if s.feSt i = 0 ∨ s.feSt j = 0 ∨ s.f Reg.FE_CFG 15 8 < d.natAbs then s
      else if s.feHits i < s.feHits j ∨ (s.feHits i = s.feHits j ∧ j < i) then s.feFree i
      else s.feFree j

/-- R219 for every pair of contexts, as a change of `FE_TOL` may bring any two within it. -/
def State.feMerges (s : State) : State := s.each (List.range 64) State.feMerge

/-- R217: whether an arrival hits context i: the multiple k and the residual. -/
def State.feTest (s : State) (a i : Nat) : Option (Int × Int) :=
  let p : Int := s.r (Reg.FE_CTX_PERIOD i)
  let d : Int := (a : Int) - s.rej.ctxLast.get 0 i
  if s.feSt i = 0 ∨ p = 0 then none
  else
    let k := divRound d p
    let e := d - k * p
    if 1 ≤ k ∧ k ≤ 256 ∧ e.natAbs ≤ s.f Reg.FE_CFG 15 8 then some (k, e) else none

/-- R218: the stored event that a pairs with, giving the interval. -/
def State.fePair (s : State) (q : Strong) : Option Nat :=
  ((s.rej.feStore.get [] q.comb).find? fun e =>
      let d : Int := (q.a : Int) - e.1
      decide ((1600 * s.f Reg.FE_PERIOD 15 0 : Int) ≤ d ∧ d ≤ 1600 * s.f Reg.FE_PERIOD 31 16 ∧
        s.f Reg.FE_CFG 15 8 < (d - ((q.f : Int) - e.2)).natAbs)).map fun e => q.a - e.1

/-- R218: the context that a new one takes: the lowest free one, else the LEARNING one with the oldest `LAST`. -/
def State.feSlot (s : State) : Option Nat :=
  match (List.range 64).find? fun i => s.feSt i == 0 with
  | some i => some i
  | none =>
    (sortBy (fun i j => decide (s.rej.ctxLast.get 0 i < s.rej.ctxLast.get 0 j))
      ((List.range 64).filter fun i => s.feSt i == 1)).head?

/-- R218: a strong event that hits nothing re-anchors a context or creates one. -/
def State.feNew (s : State) (q : Strong) : State :=
  match s.fePair q with
  | none => s
  | some d =>
    match (List.range 64).find? fun i => s.feSt i != 0 &&
        decide (((s.r (Reg.FE_CTX_PERIOD i) : Int) - d).natAbs ≤ s.f Reg.FE_CFG 15 8) with
    | some i => (s.feAnchor i q.a (s.feHits i + 1) q.comb).feConfirm i
    | none =>
      match s.feSlot with
      | none => s
      | some i =>
        let s := (((s.feFree i).setF (Reg.FE_CTX_STATE i) 1 0 1).setR (Reg.FE_CTX_PERIOD i) d).feAnchor i q.a 2 q.comb
        s.feConfirm i

/-- The registers whose writes apply from the next strong event (R232). -/
def finderClass (a : Nat) : Bool := a == Reg.FE_CFG || a == Reg.FE_PERIOD

/-- R217, R218: the finder takes one strong event. -/
def State.feTake (s : State) (q : Strong) : State :=
  let s := s.takeEffect finderClass
  let s := match (List.range 64).findSome? fun i => (s.feTest q.a i).map fun r => (i, r) with
    | some (i, k, e) =>
      let s := s.setR (Reg.FE_CTX_PERIOD i) ((s.r (Reg.FE_CTX_PERIOD i) : Int) + divRound e (8 * k)).toNat
      (s.feAnchor i q.a (s.feHits i + 1) q.comb).feConfirm i
    | none => s.feNew q
  let s := s.feMerges
  let l := ((q.a, q.f) :: s.rej.feStore.get [] q.comb).take 32
  ({ s with rej := { s.rej with feStore := s.rej.feStore.set [] q.comb l, feTaken := some s.now } }).syncFe

/-- Ms since the last hit of a context, saturating (`AGE`). -/
def State.feAge (s : State) (i : Nat) : Nat :=
  if s.feSt i = 0 then 0 else min 0xFFFF (toMs (s.now - s.rej.ctxHit.get 0 i))

/-! ## Bias reduction in strong sun (R222) -/

/-- I_z: the largest `VALID` current of the zone's combs whose bias sense is normal. -/
def State.sunCurrent (s : State) (z : Nat) : Option Nat :=
  match (s.zoneCombs z).filter fun c => s.f (Reg.BIAS_I c) 17 16 == 0 && s.f (Reg.RX_COMB_STATUS c) 1 0 == 0 with
  | [] => none
  | l => some ((l.map fun c => s.f (Reg.BIAS_I c) 15 0).foldl max 0)

/-- R222: the reduction of one zone at a frame boundary. -/
def State.sunReduceZone (s : State) (z : Nat) : State :=
  let old := s.f (Reg.SUN_RED z) 13 0
  if s.zoneSt z ≠ 2 then s.setF (Reg.SUN_RED z) 13 0 0
  else if s.ef Reg.REJ_CTRL 3 3 = 0 then s
  else
    match s.sunCurrent z with
    | none => s
    | some i =>
      let d : Int := ((i : Int) - s.f Reg.SUN_CFG 15 0) * s.f Reg.SUN_CFG 23 16 / 256
      let v := (clampInt 0 (s.f Reg.SUN_RED_MAX 13 0) (old + d)).toNat
      let s := (s.setF (Reg.SUN_RED z) 13 0 v).setF (Reg.SUN_RED z) 31 16 i
      if old = 0 ∧ v ≠ 0 then s.flag Reg.REJ_FLAGS 4 else s

/-- R222: the reduction of every zone at a frame boundary. -/
def State.sunReduce (s : State) : State := s.each (List.range 8) State.sunReduceZone

/-! ## Weather (R224 to R227) -/

/-- R220: a point that qualifies for the ambient and weather figures. -/
def ExpRec.qualifies (r : ExpRec) : Bool :=
  decide (1 ≤ r.n ∧ 32 < r.u) && !bitN r.flags 2 && !bitN r.flags 3 && !bitN r.flags 4

/-- R224: the envelope clusters of the near band of `near` metres at width code w. -/
def nearClusters (near w : Nat) : Nat := 800000000 * near / (299792458 * 2 ^ w)

/-- The part of the overlap of cluster j with the range cell m of 1 m, at width code w, in 2⁻³² of the cluster. Lengths are in
0.5 × 10⁻¹² m. -/
def cellShare (w j m : Nat) : Nat :=
  let l := 299792458 * 2500 * 2 ^ w
  let m1 := 2000000000000
  (min ((j + 1) * l) ((m + 1) * m1) - max (j * l) (m * m1)) * 2 ^ 32 / l

/-- R224, R227: a point adds its near-band figures and its near profile. -/
def State.wxPoint (s : State) (r : ExpRec) : State :=
  if !r.qualifies then s
  else
    let nc := nearClusters (s.ef Reg.WX_CTRL 15 8) r.w
    let e : Int := (r.env.take nc).sum
    let net : Int := e * 65536 - r.ambient * r.n * (16 * nc)
    let hit := decide (65536 ≤ net)
    let low := decide (s.fs (Reg.SEG_MAP_B r.seg) 19 0 < signed 20 (s.ef Reg.WX_SPRAY_EL 19 0))
    let s :=
      if nc = 0 then s
      else
        let x := s.rej.wx
        { s with rej := { s.rej with wx := {
          points := x.points + 1, hits := x.hits + b2n hit, lowPoints := x.lowPoints + b2n low,
          lowHits := x.lowHits + b2n (low && hit), excess := x.excess + (if hit then divRound (net * 65536) r.n else 0) } } }
    s.each (List.range 16) fun s m =>
      let v : Int := ((List.range (min r.env.length 44)).map fun j =>
        let x : Int := (r.env.getD j 0 : Int) * 65536 - r.ambient * r.n * 16
        divRound (x * cellShare r.w j m) (65536 * r.n)).sum
      let k := 16 * r.seg + m
      let a := s.rej.prof.get (0, 0) k
      { s with rej := { s.rej with prof := s.rej.prof.set (0, 0) k (a.1 + v, a.2 + 1) } }

/-- R227: the near profiles are replaced at a frame boundary. -/
def State.wxProfiles (s : State) : State :=
  let l := s.rej.prof.entries
  ({ s with rej := { s.rej with prof := ⟨[]⟩ } }).each l fun s e =>
    if e.2.2 = 0 then s
    else s.setF (Reg.WX_PROFILE (e.1 / 16) (e.1 % 16)) 15 0 (satU 16 (divRound e.2.1 (16777216 * e.2.2)))

/-- R225: the candidate from the figures of a frame. -/
def State.wxCandidate (s : State) (h st q : Nat) : Nat :=
  if s.ef Reg.WX_THR_A 15 8 ≤ h ∧ s.ef Reg.WX_THR_B 15 0 ≤ q then 3
  else if s.ef Reg.WX_THR_A 7 0 ≤ h ∧ s.ef Reg.WX_THR_A 23 16 ≤ st then 2
  else if s.ef Reg.WX_THR_A 7 0 ≤ h then 1
  else 0

/-- The weather state in force (R226). -/
def State.weather (s : State) : Nat := s.f Reg.WX_STATUS 1 0

/-- R225, R226: the figures, the candidate and the state at a frame boundary. -/
def State.wxBoundary (s : State) : State :=
  let x := s.rej.wx
  let s := { s with rej := { s.rej with wx := {} } }
  let old : Nat := s.f Reg.WX_STATUS 3 2
  let s : State :=
    if x.points = 0 then s
    else
      let h := min 255 (divRoundNat (x.hits * 256) x.points)
      let hl := if x.lowPoints = 0 then 0 else min 255 (divRoundNat (x.lowHits * 256) x.lowPoints)
      let st := if x.hits = 0 ∨ x.lowPoints = 0 then 0 else min 255 (divRoundNat (x.lowHits * x.points * 32) (x.lowPoints * x.hits))
      let q := if x.hits = 0 then 0 else satU 16 (divRound x.excess (16777216 * x.hits))
      let s := (((s.setF Reg.WX_STATUS 15 8 h).setF Reg.WX_STATUS 31 16 q).setF Reg.WX_STATS 7 0 st).setF Reg.WX_STATS 15 8 hl
      s.setF Reg.WX_STATUS 3 2 (s.wxCandidate h st q)
  let cand : Nat := s.f Reg.WX_STATUS 3 2
  let s := s.setF Reg.WX_STATUS 7 4 (if cand = old then min 15 (s.f Reg.WX_STATUS 7 4 + 1) else 1)
  let s := s.takeEffect fun a => decide (Reg.WX_CTRL ≤ a ∧ a ≤ Reg.WX_POLICY)
  let now : Nat := s.weather
  let run := if cand = now then 0 else if cand = old then min 15 (s.rej.wxRun + 1) else 1
  let s : State := { s with rej := { s.rej with wxRun := run } }
  let next :=
    if s.dev = .calibrating then now
    else if s.ef Reg.WX_CTRL 2 2 = 1 then s.ef Reg.WX_CTRL 1 0
    else if max 1 (s.ef Reg.WX_CTRL 7 4) ≤ run then cand else now
  if next = now then s
  else
    let s : State := { s with rej := { s.rej with wxRun := 0 } }
    let s := ((s.setF Reg.WX_STATUS 1 0 next).inc Reg.WX_CHANGES).flag Reg.REJ_FLAGS 5
    s.raise Ev.WEATHER_CHANGED .all (leBytes 1 now ++ leBytes 1 next ++ leBytes 2 0 ++ leBytes 4 s.frameNo ++
      leBytes 1 (s.f Reg.WX_STATUS 15 8) ++ leBytes 1 (s.f Reg.WX_STATS 7 0) ++ leBytes 2 (s.f Reg.WX_STATUS 31 16))

end Sys2Proof.Machine
end

