-- ==== Sys2Proof/Machine/DetOps.lean ====
section
/-!
DEFINITION. Machine/DetOps.lean: detection of one point (chapter 10): pulse templates, matched filter, threshold, echo resolution,
range and intensity (R237 to R244), and the tags and order of R228 and R229.
-/

namespace Sys2Proof.Machine

/-! ## Frame configurations and templates -/

/-- Field [hi:lo] of a register as it stood at the boundary of the frame (R254). -/
def FrameCfg.f (k : FrameCfg) (v : Variant) (a hi lo : Nat) : Nat := bitsOf (k.regs.get (regReset v a) a) hi lo

/-- The configuration of a frame: the present one or one of the three before, as many as columns tell apart. -/
def State.cfgOf (s : State) (frame : Nat) : FrameCfg := ((s.det.cfg :: s.det.prev).find? (·.frame == frame)).getD s.det.cfg

/-- The reset content of a template slot (R237): a single tap of 0x7FFF at every width. -/
def blankTpl : List Byte :=
  (List.replicate 4 1 ++ List.replicate 4 0) ++ ((List.range 4).map fun _ => leBytes 2 0x7FFF ++ List.replicate 30 0).flatten ++
    List.replicate 8 0

/-- The taps of a slot at width code w, each with its offset from the peak tap (R237, R239). -/
def tplTaps (slot : List Byte) (w : Nat) : List (Int × Int) :=
  (List.range (fieldBits slot w 1 4 0)).map fun (k : Nat) =>
    ((k : Int) - fieldBits slot (4 + w) 1 3 0, signed 16 (fieldAt slot (8 + 32 * w + 2 * k) 2))

/-- The tap set of a point (R238). -/
def FrameCfg.taps (k : FrameCfg) (v : Variant) (r : ExpRec) : List (Int × Int) :=
  tplTaps (k.tpl.get blankTpl (k.f v (Reg.SEG_TEMPLATE (r.seg / 8)) (4 * (r.seg % 8) + 3) (4 * (r.seg % 8)))) r.w

/-- Whether a slot content is accepted (R237). -/
def tplOk (slot : List Byte) : Bool :=
  (List.range 4).all (fun w =>
    let len := fieldAt slot w 1
    let peak := fieldAt slot (4 + w) 1
    let tap (n : Nat) : Int := signed 16 (fieldAt slot (8 + 32 * w + 2 * n) 2)
    decide (1 ≤ len ∧ len ≤ 16 ∧ peak < len ∧ 0 < tap peak) &&
      (List.range 16).all fun k => if k < len then decide (tap k ≤ tap peak) else tap k == 0)

/-! ## Matched filter and threshold (R239, R240) -/

/-- x_i − b of bin j of a window in 1/65,536 event: 0 outside the window, below bin 0 and at or above U. -/
def ExpRec.net (r : ExpRec) (w : WinRec) (j : Int) : Int :=
  let i := j - w.start
  if j < 0 ∨ r.u ≤ j ∨ i < 0 ∨ 64 ≤ i then 0 else (w.bins.getD i.toNat 0 : Int) * 65536 - r.ambient * r.n

/-- R239: y of bin `START` + i of a window, in Q15 events. -/
def mfAt (r : ExpRec) (taps : List (Int × Int)) (w : WinRec) (i : Nat) : Int :=
  divRound ((taps.map fun t => t.2 * r.net w ((w.start + i : Nat) + t.1)).sum) 65536

/-- The matched-filter output of a window. -/
def mfWindow (r : ExpRec) (taps : List (Int × Int)) (w : WinRec) : List Int := (List.range 64).map (mfAt r taps w)

/-- R240: y ≥ T, with `DET_K` and `DET_MIN`. -/
def overThreshold (r : ExpRec) (taps : List (Int × Int)) (k dmin : Nat) (y : Int) : Bool :=
  let d := y - 2048 * (dmin : Int)
  decide (0 ≤ d ∧ (k * k * r.ambient * r.n : Int) * (taps.map fun t => t.2 * t.2).sum ≤ d * d * 16777216)

/-- R240: the candidates of one window: bin and y. -/
def winCandidates (ok : Int → Bool) (w : WinRec) (ys : List Int) : List (Nat × Int) :=
  (List.range 64).filterMap fun i =>
    let y := ys.getD i 0
    if ok y && (i == 0 || decide (ys.getD (i - 1) 0 < y)) && (i == 63 || decide (ys.getD (i + 1) 0 ≤ y)) then
      some (w.start + i, y) else none

/-- A candidate found by several windows counts once, with the largest y. -/
def mergeCand : List (Nat × Int) → List (Nat × Int) → List (Nat × Int)
  | acc, [] => acc
  | acc, (b, y) :: r =>
    mergeCand (if acc.any (·.1 == b) then acc.map fun e => if e.1 = b then (b, max e.2 y) else e else acc ++ [(b, y)]) r

/-- The largest y of a bin over the windows that hold it. -/
def yAt (wins : List (WinRec × List Int)) (j : Nat) : Option Int :=
  match (wins.filter fun e => decide (e.1.start ≤ j ∧ j < e.1.start + 64)).map fun e => e.2.getD (j - e.1.start) 0 with
  | [] => none
  | y :: ys => some (ys.foldl max y)

/-! ## Echo resolution (R241) -/

/-- R241: the dip between bins a < b: in some window that holds both, the smallest y strictly between is at most
`RES_DIP`/16 of the smaller y. Bins that no window holds together are taken as apart. -/
def dipBetween (wins : List (WinRec × List Int)) (res a b : Nat) (low : Int) : Bool :=
  let common := wins.filter fun e => decide (e.1.start ≤ a ∧ b < e.1.start + 64)
  common.isEmpty || common.any fun e =>
    match (List.range (b - a - 1)).map fun i => e.2.getD (a + 1 + i - e.1.start) 0 with
    | [] => false
    | y :: ys => decide (16 * ys.foldl min y ≤ (res : Int) * low)

/-- R241: a kept echo blocks a candidate. -/
def blocks (wins : List (WinRec × List Int)) (sep res : Nat) (q p : Nat × Int) : Bool :=
  let a := min p.1 q.1
  let b := max p.1 q.1
  decide (b - a < sep) || !dipBetween wins res a b (min p.2 q.2)

/-- R241: the walk over ranked candidates: the echoes kept and the number passed over for want of a place. -/
def echoWalk (wins : List (WinRec × List Int)) (sep res : Nat) : List (Nat × Int) → List (Nat × Int) → Nat → List (Nat × Int) × Nat
  | [], kept, lost => (kept, lost)
  | p :: ps, kept, lost =>
    if kept.any fun q => blocks wins sep res q p then echoWalk wins sep res ps kept lost
    else if kept.length < 8 then echoWalk wins sep res ps (kept ++ [p]) lost
    else echoWalk wins sep res ps kept (lost + 1)

/-! ## Range and intensity (R242 to R244) -/

/-- The net counts of the echo span of bin p: bins with x − b in 1/65,536 event. -/
def echoSpan (r : ExpRec) (taps : List (Int × Int)) (p : Nat) : List (Int × Int) :=
  taps.map fun t =>
    let j : Int := p + t.1
    (j, match r.wins.find? fun w => decide ((w.start : Int) ≤ j ∧ j < w.start + 64) with
      | some w => r.net w j
      | none => 0)

/-- δ of the parabola as a fraction with a positive denominator, clamped to ±1/2. -/
def clampHalf (num den : Int) : Int × Int :=
  if den = 0 then (0, 1)
  else
    let n := if den < 0 then -num else num
    let d := if den < 0 then -den else den
    if d < 2 * n then (1, 2) else if 2 * n < -d then (-1, 2) else (n, d)

/-- R242: δ of the parabola. -/
def parabola (wins : List (WinRec × List Int)) (p : Nat) : Int × Int :=
  match (if p = 0 then none else yAt wins (p - 1)), yAt wins p, yAt wins (p + 1) with
  | some a, some y, some b => clampHalf (a - b) (2 * (a - 2 * y + b))
  | _, _, _ => (0, 1)

/-- R242: the position p + 0.5 + δ of an echo in bins, as a fraction. -/
def echoPos (r : ExpRec) (taps : List (Int × Int)) (wins : List (WinRec × List Int)) (centroid : Bool) (p : Nat) : Int × Int :=
  let span := echoSpan r taps p
  let den := (span.map (·.2)).sum
  if centroid ∧ 0 < den then ((span.map fun e => (2 * e.1 + 1) * e.2).sum, 2 * den)
  else
    let d := parabola wins p
    ((2 * p + 1) * d.2 + 2 * d.1, 2 * d.2)

/-- R242: the range in 0.1 mm of a position in bins at width code w, less an offset in 0.1 mm. -/
def rangeOfPos (pos : Int × Int) (w : Nat) (ofs : Int) : Nat :=
  (clampInt 0 0xFFFFFF
    (divRound (pos.1 * 625 * 2 ^ w * 149896229 - ofs * 400000000 * pos.2) (400000000 * pos.2))).toNat

/-- R243: P_g of the cluster that holds bin p; a saturated plane is the envelope entry less the other planes. -/
def planeOf (r : ExpRec) (p g : Nat) : Nat :=
  match r.wins.find? fun w => decide (w.start ≤ p ∧ p < w.start + 64) with
  | none => 0
  | some w =>
    let k := 4 * (p / 16 - w.start / 16)
    let at_ (j : Nat) := w.planes.getD (k + j) 0
    if bitN r.flags 7 ∧ at_ g = 255 then r.env.getD (p / 16) 0 - (((List.range 4).filter (· != g)).map at_).sum else at_ g

/-- R243: the intensity of an echo with E in 1/65,536 event; the ratios of the ranges are in 1/256. Where no event of its cluster was
accumulated the spec states no value: a free one. -/
def intensityOf (r : ExpRec) (ratios : List Nat) (p : Nat) (e : Nat) (free : Nat) : Nat :=
  let c := r.env.getD (p / 16) 0
  let planes := (List.range 4).map (planeOf r p)
  if c = 0 ∨ r.n = 0 then free % 65536
  else if planes.all (· == 0) then 0xFFFF
  else min 0xFFFE (divRoundNat (e * ((List.range 4).map fun g => planes.getD g 0 * ratios.getD g 0).sum) (65536 * c * r.n))

/-- The calibrated ratios r_g of a comb in 1/256 (R144, R243). -/
def State.ratiosOf (s : State) (c : Nat) : List Nat :=
  let t := s.cal.ratios.get (1024, 4096, 16384) c
  [256, t.1, t.2.1, t.2.2]

/-- R228: the `BACKSCATTER` tag of an echo. -/
def bsTag (k : FrameCfg) (v : Variant) (r : ExpRec) (range e : Nat) : Bool :=
  let st := k.f v Reg.WX_STATUS 1 0
  k.f v Reg.WX_POLICY (8 + st) (8 + st) == 1 && decide (range < 10000 * k.f v Reg.WX_CTRL 15 8) &&
    (decide (e < 256 * k.f v Reg.WX_THR_A 31 24 * r.n) ||
      (st == 3 && decide (e ≤ 16 * k.f v Reg.WX_THR_B 23 16 * k.f v (Reg.WX_PROFILE r.seg (min 15 (range / 10000))) 15 0 * r.n)))

/-- R229: the order of choice within echoes of one tag. -/
def orderBy (sel : Nat) (l : List Echo) : List Echo :=
  let strong (a b : Echo) : Bool := decide (b.intensity < a.intensity ∨ (a.intensity = b.intensity ∧ a.range < b.range))
  let near (a b : Echo) : Bool := decide (a.range < b.range)
  match sel with
  | 0 => sortBy strong l
  | 1 =>
    match sortBy near l with
    | [] => []
    | n :: r =>
      match r.reverse with
      | [] => [n]
      | f :: m => n :: f :: sortBy strong m.reverse
  | 2 => sortBy near l
  | _ => sortBy (fun a b => near b a) l

/-- R229: all resolved echoes in the order of choice; the first four are reported. -/
def chooseEchoes (sel : Nat) (l : List Echo) : List Echo := orderBy sel (l.filter (!·.bs)) ++ orderBy sel (l.filter (·.bs))

/-- What the kernels make of a record (R239 to R244): the echoes in the order of choice, and the candidates passed over. -/
def detectPoint (k : FrameCfg) (v : Variant) (ratios : List Nat) (free : Nat) (r : ExpRec) : List Echo × Nat :=
  let taps := k.taps v r
  let wins := r.wins.map fun w => (w, mfWindow r taps w)
  let ok := overThreshold r taps (k.f v Reg.DET_THR 7 0) (k.f v Reg.DET_THR 15 8)
  let cands := sortBy (fun a b : Nat × Int => decide (b.2 < a.2 ∨ (a.2 = b.2 ∧ a.1 < b.1)))
    (mergeCand [] (wins.map fun e => winCandidates ok e.1 e.2).flatten)
  let kept := echoWalk wins (max 1 (k.f v Reg.DET_THR 27 24)) (k.f v Reg.DET_THR 23 16) cands [] 0
  let echoes := kept.1.map fun (p : Nat × Int) =>
    let pos := echoPos r taps wins (k.f v Reg.DET_CTRL 1 0 == 1) p.1
    let range := rangeOfPos pos r.w (signed 16 (k.f v (Reg.DET_RANGE_OFS (r.seg / 8)) 15 0))
    let e : Nat := (((echoSpan r taps p.1).map fun (x : Int × Int) => x.2).sum : Int).toNat
    ({ bin := p.1, range, intensity := intensityOf r ratios p.1 e (Config.freeNat (free + p.1)), e16 := divRoundNat e 4096,
       yp16 := (divRound p.2 2048).toNat, bs := bsTag k v r range e } : Echo)
  let st := k.f v Reg.WX_STATUS 1 0
  (chooseEchoes (k.f v Reg.WX_POLICY (2 * st + 1) (2 * st)) echoes, kept.2)

end Sys2Proof.Machine
end

