-- ==== Sys2Proof/Machine/HiveOps.lean ====
section
/-!
DEFINITION. Machine/HiveOps.lean: hives and engines (R233 to R236): dispatch, the window and spill areas, drops, the completion of
a record, fencing, frequency and placement (R61, R62, R235).
-/

namespace Sys2Proof.Machine

def State.setDet (s : State) (d : Det) : State := { s with det := d }

def State.hive (s : State) (h : Nat) : HiveSt := s.det.hives.get {} h

def State.setHive (s : State) (h : Nat) (x : HiveSt) : State := s.setDet { s.det with hives := s.det.hives.set {} h x }

/-- Engine j of hive h is engine 128h + j. -/
def State.engine (s : State) (e : Nat) : Option EngineJob := s.det.engines.get none e

def State.setEngine (s : State) (e : Nat) (x : Option EngineJob) : State :=
  s.setDet { s.det with engines := s.det.engines.set none e x }

/-- `HIVE_FENCE_h_i`: whether an engine is fenced. -/
def State.fenced (s : State) (e : Nat) : Bool := s.bit (Reg.HIVE_FENCE (e / 128) (e % 128 / 32)) (e % 32)

/-- E0 to E3 are the merge engines. -/
def mergeEngine (e : Nat) : Bool := decide (e < 4)

/-- The idle, unfenced point engine of hive h with the lowest index (R233). -/
def State.idleEngine (s : State) (h : Nat) : Option Nat :=
  ((List.range 128).map (128 * h + ·)).find? fun e => !mergeEngine e && !s.fenced e && (s.engine e).isNone

/-- The windows of a record that wait in the window area: its bytes. -/
def HiveSt.areaBytes (x : HiveSt) : Nat := ((x.waiting.filter (!·.spilled)).map (·.point.size)).sum

def HiveSt.spillBytes (x : HiveSt) : Nat := ((x.waiting.filter (·.spilled)).map (·.point.size)).sum

/-- The window area of a hive: 8 KiB of each of its 128 engines (R234). -/
def areaSize : Nat := 1048576

/-- The result of detection for a point. -/
def State.setResult (s : State) (k : Nat) (x : Option DetPoint) : State := s.setDet { s.det with results := s.det.results.set none k x }

/-- R234, R236: a record is dropped: the point carries `DET_DROP`, and the bytes count. -/
def State.dropRecord (s : State) (h : Nat) (r : ExpRec) : State :=
  let s := (s.add (Reg.HIVE_DROP h) r.size).flag Reg.DET_FLAGS 1
  let k := ptKey r.key r.ch
  (s.modPt k fun p => { p with detDrop := true }).setResult k (some { point := r, drop := true })

/-- R61, R234: a record that finds no idle engine waits, or is dropped. -/
def State.waitRecord (s : State) (h : Nat) (r : ExpRec) : State :=
  let x := s.hive h
  let fill := x.areaBytes
  let spilling := if areaSize * 3 < 4 * fill then true else if 2 * fill < areaSize then false else x.spilling
  let x : HiveSt := { x with spilling }
  let cap := s.ef Reg.DET_CTRL 23 16 * 1048576
  let put (sp : Bool) : State :=
    let y : HiveSt := { x with waiting := x.waiting ++ [({ point := r, spilled := sp } : WaitRec)] }
    s.setHive h { y with peak := max y.peak y.waiting.length }
  if !spilling ∧ fill + r.size ≤ areaSize then put false
  else if x.spillBytes + r.size ≤ cap then
    let s := put true
    { s with plan := { s.plan with acc := { s.plan.acc with spillBytes := s.plan.acc.spillBytes + r.size } } }
  else if fill + r.size ≤ areaSize then put false
  else (s.setHive h x).dropRecord h r

/-- The comb whose export ring gives hive h its next record: the one whose oldest record closed first. -/
def State.ringFor (s : State) (h : Nat) : Option (Nat × ExpRec) :=
  let heads := (List.range s.variant.combs).filterMap fun c =>
    match (s.comb c).ring with
    | r :: _ => if r.hive = h then some (c, r) else none
    | [] => none
  (sortBy (fun a b : Nat × ExpRec => decide (a.2.closedAt < b.2.closedAt)) heads).head?

/-- R233, R234: the dispatcher of hive h gives its oldest waiting record to an engine, or takes the next record from an export ring. -/
def State.hiveDispatch (s : State) (h : Nat) : State :=
  let x := s.hive h
  match x.waiting, s.idleEngine h with
  | w :: ws, some e =>
    (s.setHive h { x with waiting := ws }).setEngine e (some { point := w.point, since := s.now, again := w.again })
  | _, idle =>
    match s.ringFor h with
    | none => s
    | some (c, r) =>
      let y := s.comb c
      let s := (s.setComb c { y with ring := y.ring.drop 1 }).syncFill c
      match idle with
      | some e => s.setEngine e (some { point := r, since := s.now })
      | none => s.waitRecord h r

/-! ## Windows for the chain (R257, R258) -/

/-- A column segment selected for the chain in the frame of the point. -/
def FrameCfg.chainSeg (k : FrameCfg) (v : Variant) (g : Nat) : Bool :=
  k.f v (if g < 32 then Reg.FC_SEG_LO else Reg.FC_SEG_HI) (g % 32) (g % 32) == 1

/-- R257: the eligible windows of a point, in ascending order of `START`. -/
def FrameCfg.eligible (k : FrameCfg) (v : Variant) (p : Pt) (r : ExpRec) : List WinRec :=
  if k.f v Reg.FC_CTRL 0 0 = 0 ∨ !k.chainSeg v r.seg ∨ p.detDrop ∨ p.memErr ∨ p.calGap ∨ bitN r.flags 4 ∨ bitN r.flags 3 ∨ bitN r.flags 2 then []
  else r.wins.filter fun w => decide (w.rank ≤ k.f v Reg.FC_CTRL 18 16)

/-- R258: push a window into the chain queue of hive h, or skip it. Answers whether it was pushed. -/
def State.pushChain (s : State) (h : Nat) (k : FrameCfg) (r : ExpRec) (w : WinRec) : Bool × State :=
  let x := s.hive h
  if x.chain.length < 64 then
    let taps := k.taps s.variant r
    let src := if k.f s.variant Reg.FC_CTRL 1 1 = 1 then (List.range 64).map fun i => r.net w (w.start + i : Nat)
      else mfWindow r taps w
    let c : ChainWin := {
      key := r.key, frame := r.frame, ch := r.ch, seg := r.seg, w := r.w, u := r.u, start := w.start, rank := w.rank, src }
    (true, s.setHive h { x with chain := x.chain ++ [c], chainAt := if x.chain.isEmpty then s.now else x.chainAt })
  else (false, (s.inc (Reg.FC_SKIP h)).flag Reg.FC_FLAGS 2)

/-- R257: the eligible windows of a finished record go to the chain; the reduction block of the point begins. -/
def State.chainPoint (s : State) (h : Nat) (k : FrameCfg) (r : ExpRec) : Option RedBlock × State :=
  match k.eligible s.variant (s.pt (ptKey r.key r.ch)) r with
  | [] => (none, s)
  | ws =>
    let p := ws.foldl (fun (a : RedBlock × State) w =>
      let q := a.2.pushChain h k r w
      (if q.1 then { a.1 with waiting := a.1.waiting + 1 } else { a.1 with flags := setBitN a.1.flags 0 true }, q.2)) ({}, s)
    (some p.1, p.2)

/-! ## Completion (R233) -/

/-- The engine goes idle; its busy time counts for the hive and the comb. -/
def State.retire (s : State) (e : Nat) (j : EngineJob) : State :=
  let h := e / 128
  let x := s.hive h
  let c := j.point.ch / 16
  let t := s.now - j.since
  let s := (s.setEngine e none).setHive h { x with busyNs := x.busyNs + t }
  s.setDet { s.det with combBusy := s.det.combBusy.set 0 c (s.det.combBusy.get 0 c + t) }

/-- R233: point engine e finishes its record: its echoes go to record assembly, its eligible windows to the chain, its weather figures to
the frame's sums. -/
def State.pointDone (s : State) (e : Nat) : State :=
  match s.engine e with
  | none => s
  | some j =>
    let r := j.point
    let k := s.cfgOf r.frame
    let s := s.retire e j
    let s := s.inc (Reg.HIVE_RECORDS (e / 128))
    let mem := bitN r.flags 4
    let d := if mem then ([], 0) else detectPoint k s.variant (s.ratiosOf (r.ch / 16)) s.freeCtr r
    let s := { s with freeCtr := s.freeCtr + 2048 }
    let s := s.add Reg.DET_ECHO_COUNT d.1.length
    let s := if d.2 = 0 then s else (s.add Reg.DET_ECHO_OVER d.2).flag Reg.DET_FLAGS 0
    let ns := s.now - r.closedAt
    let s := s.setDet { s.det with
      latSum := s.det.latSum + ns, latN := s.det.latN + 1, latPeak := max s.det.latPeak ns }
    let s := if mem then s else s.wxPoint r
    let b := s.chainPoint (e / 128) k r
    b.2.setResult (ptKey r.key r.ch) (some { point := r, echoes := d.1, red := b.1 })

/-! ## Fencing (R236) -/

/-- R236: fence a point engine: `ENGINE_FENCED` names it, and a record in progress is dispatched again once. -/
def State.fence (s : State) (e : Nat) : State :=
  let h := e / 128
  if s.fenced e then s
  else
    let s := (s.setBit (Reg.HIVE_FENCE h (e % 128 / 32)) (e % 32) true).addF (Reg.HIVE_STATUS h) 15 8 1
    let s := (s.flag Reg.DET_FLAGS 2).post Rec.ENGINE_FENCED e
    let s := s.raise Ev.ENGINE_FENCED .all (leBytes 4 e)
    match s.engine e with
    | none => s
    | some j =>
      let s := s.retire e j
      if j.again then s.dropRecord h j.point
      else
        let x := s.hive h
        s.setHive h { x with waiting := { point := j.point, again := true } :: x.waiting, peak := max x.peak (x.waiting.length + 1) }

/-! ## Frame boundary: load, frequency, placement (R61, R62, R235) -/

/-- Frequency codes in MHz. -/
def hiveMHz (code : Nat) : Nat := 400 + 100 * code

/-- `HIVE_LOAD` of hive h in 1/256 (R61). -/
def State.hiveLoad (s : State) (h : Nat) : Nat :=
  s.f (if h < 4 then Reg.HIVE_LOAD_LO else Reg.HIVE_LOAD_HI) (8 * (h % 4) + 7) (8 * (h % 4))

/-- Load of a busy time over the frame and the engines of a hive, in 1/256. -/
def loadOf (busy frameNs engines : Nat) : Nat := if frameNs = 0 ∨ engines = 0 then 0 else min 255 (divRoundNat (busy * 256) (frameNs * engines))

/-- The engines of a hive that take records, over which its load is measured: merge engines and fenced ones are left out (DESIGN CHOICE: log entry 84). -/
def State.hiveEngines (s : State) (h : Nat) : Nat := (if h = 0 then 124 else 128) - s.f (Reg.HIVE_STATUS h) 15 8

/-- The work of one engine since it was last charged. -/
def State.chargeEngine (s : State) (e : Nat) (j : EngineJob) : State :=
  let h := e / 128
  let x := s.hive h
  let c := j.point.ch / 16
  let s := (s.setEngine e (some { j with since := s.now })).setHive h { x with busyNs := x.busyNs + (s.now - j.since) }
  s.setDet { s.det with combBusy := s.det.combBusy.set 0 c (s.det.combBusy.get 0 c + (s.now - j.since)) }

/-- The time of jobs on engines up to now is charged, so that a frame's load covers the frame. -/
def State.chargeBusy (s : State) : State :=
  s.each (s.det.engines.entries.filterMap fun e => e.2.map fun j => (e.1, j)) fun s e => s.chargeEngine e.1 e.2

/-- R235: the frequency of hive h for the new frame. -/
def State.hiveFreq (s : State) (h : Nat) : State :=
  let ctl := Reg.HIVE_FREQ_CTRL h
  let cur := s.f (Reg.HIVE_STATUS h) 2 0
  let load := s.hiveLoad h
  let code :=
    if s.ef ctl 3 3 = 0 then s.ef ctl 2 0
    else if 218 < load then
      let top := if s.plan.theta < 800 then min 4 (s.ef ctl 6 4) else s.ef ctl 6 4
      min (cur + 1) top
    else if load < 128 then cur - 1 else cur
  s.setF (Reg.HIVE_STATUS h) 2 0 code

/-- `PLACE_MAP`: the hive of a comb. -/
def State.placeOf (s : State) (c : Nat) : Nat := s.f (Reg.PLACE_MAP (c / 8)) (4 * (c % 8) + 3) (4 * (c % 8))

/-- The best of a list under an order. -/
def bestBy {α : Type} (lt : α → α → Bool) (l : List α) : Option α := (sortBy lt l).head?

/-- R61: one move, if the rules ask for one: loads by hive and by comb are those of the last frame, in 1/256 of a hive. Among equally loaded hives and
among equally loaded combs the one of highest index is taken (DESIGN CHOICE: log entry 83). -/
def State.placeMove (s : State) (loads : List Nat) (combLoad : Nat → Nat) : Option (Nat × Nat × Nat) :=
  let hs := List.range s.variant.hives
  match bestBy (fun a b => decide (loads.getD b 0 < loads.getD a 0)) hs with
  | none => none
  | some src =>
    let low := (hs.map fun h => loads.getD h 0).foldl min 256
    if ¬ (218 < loads.getD src 0 ∧ low < 154) then none
    else
      let movable := (List.range s.variant.combs).filter fun c =>
        s.placeOf c == src && decide (low + combLoad c ≤ 218) &&
          (s.plan.moved.get none c).all fun m => decide (16 ≤ wrapSub 32 s.frameNo m)
      match bestBy (fun a b => decide (combLoad b < combLoad a)) movable with
      | none => none
      | some c =>
        let near (h : Nat) : Bool :=
          (decide (0 < c) && s.placeOf (c - 1) == h) || (decide (c + 1 < s.variant.combs) && s.placeOf (c + 1) == h)
        match bestBy (fun a b => (near a && !near b) || (near a == near b && decide (a < b)))
            (hs.filter fun h => loads.getD h 0 == low) with
        | none => none
        | some dst => if dst = src then none else some (c, src, dst)

/-- R61, R62: up to `n` moves at a frame boundary. -/
def State.placeMoves (combLoad : Nat → Nat) : Nat → List Nat → State → State
  | 0, _, s => s
  | n + 1, loads, s =>
    match s.placeMove loads combLoad with
    | none => s
    | some (c, src, dst) =>
      let s := (s.setF (Reg.PLACE_MAP (c / 8)) (4 * (c % 8) + 3) (4 * (c % 8)) dst).inc Reg.PLACE_MOVES
      let s := { s with plan := { s.plan with
        moved := s.plan.moved.set none c (some s.frameNo), acc := { s.plan.acc with placement := true } } }
      let s := s.raise Ev.PLACEMENT_CHANGED .all (leBytes 1 c ++ leBytes 1 src ++ leBytes 1 dst ++ leBytes 1 0)
      State.placeMoves combLoad n
        (loads.mapIdx fun h v => if h = src then v - combLoad c else if h = dst then v + combLoad c else v) s

/-- What a frame boundary does to the hives: loads, latency, frequency and placement of the new frame; `frameNs` is the length of the
frame that ended. -/
def State.hiveBoundary (s : State) (frameNs : Nat) : State :=
  let s := s.chargeBusy
  let loads := (List.range 8).map fun h => loadOf (s.hive h).busyNs frameNs (s.hiveEngines h)
  let combs := s.det.combBusy
  let s := s.each (List.range s.variant.hives) fun s h =>
    let x := s.hive h
    let s := s.setF (if h < 4 then Reg.HIVE_LOAD_LO else Reg.HIVE_LOAD_HI) (8 * (h % 4) + 7) (8 * (h % 4)) (loads.getD h 0)
    let s := s.setF (Reg.HIVE_STATUS h) 31 16 (min 0xFFFF x.peak)
    (s.setHive h { x with busyNs := 0, peak := x.waiting.length, checked := false }).hiveFreq h
  let n := s.det.latN
  let s := s.setR Reg.DET_LATENCY ((if n = 0 then 0 else min 0xFFFF (divRoundNat s.det.latSum (1000 * n))) + 65536 * min 0xFFFF (toUs s.det.latPeak))
  let s := s.setDet { s.det with combBusy := ⟨[]⟩, latSum := 0, latN := 0, latPeak := 0 }
  let engines (c : Nat) : Nat := s.hiveEngines (s.placeOf c)
  let s := { s with plan := { s.plan with placeWas := (List.range s.variant.combs).map s.placeOf } }
  State.placeMoves (fun c => loadOf (combs.get 0 c) frameNs (engines c)) 2 loads s

end Sys2Proof.Machine
end

