-- ==== Sys2Proof/Machine/WagOps.lean ====
section
/-!
DEFINITION. Machine/WagOps.lean: the Waggle engine (chapter 5) as operations: angles, motion profiles, the position, current,
heater and wavelength loops, manual drive, park and release.
-/

namespace Sys2Proof.Machine

def State.setWag (s : State) (w : Wag) : State := { s with wag := w }

/-- Axis 0 is X, axis 1 is Y. -/
def State.axis (s : State) (a : Nat) : Axis := if a = 0 then s.wag.axX else s.wag.axY

def State.setAxis (s : State) (a : Nat) (x : Axis) : State :=
  if a = 0 then s.setWag { s.wag with axX := x } else s.setWag { s.wag with axY := x }

/-- `WAG_STATUS.AX_STATE`: 0 OFF, 1 STARTING, 2 RUN, 3 MANUAL, 4 PARKING, 5 PARKED, 6 RELEASING (R142). -/
def State.axState (s : State) (a : Nat) : Nat := s.f Reg.WAG_STATUS (4 * a + 2) (4 * a)

def State.setAxState (s : State) (a v : Nat) : State := s.setF Reg.WAG_STATUS (4 * a + 2) (4 * a) v

/-- R122: the steering inhibit. -/
def State.inhibit (s : State) : Bool := s.bit Reg.WAG_STATUS 8

def State.loop (s : State) (l : Nat) : LoopSt := s.wag.loops.get {} l

def State.setLoop (s : State) (l : Nat) (x : LoopSt) : State := s.setWag { s.wag with loops := s.wag.loops.set {} l x }

/-! ## Angles (R117) -/

/-- The angle of an axis from the SAR codes of MF0 and MF1, saturated to 20 bits. -/
def State.angleOf (s : State) (a : Nat) (cx cy : Int) : Int :=
  let own := if a = 0 then cx else cy
  let other := if a = 0 then cy else cx
  let g : Int := s.ef (Reg.AX_ANG_GAIN a) 15 0
  let k := signed 16 (s.ef (Reg.AX_ANG_GAIN a) 31 16)
  clampInt (-524288) 524287 (signed 20 (s.ef (Reg.AX_ANG_OFS a) 19 0) + divRound (4 * g * own + k * other) 65536)

/-! ## Motion profiles (R127, R498) -/

/-- Position of a piece at time t, in 10⁻⁶ LSB. -/
def Piece.pos (p : Piece) (t : Nat) : Int :=
  let d : Int := t - p.t0
  p.p0 + p.v0 * d / 1000 + p.a0 * d * d / 2000000000000 + p.j * d * d * d / 6000000000000000000000

/-- Velocity at time t, LSB/s. -/
def Piece.vel (p : Piece) (t : Nat) : Int :=
  let d : Int := t - p.t0
  p.v0 + p.a0 * d / 1000000000 + p.j * d * d / 2000000000000000000

/-- Acceleration at time t, LSB/s². -/
def Piece.acc (p : Piece) (t : Nat) : Int := p.a0 + p.j * ((t : Int) - p.t0) / 1000000000

/-- The piece in force at time t: the last that has begun. -/
def pieceAt : List Piece → Nat → Option Piece
  | [], _ => none
  | p :: ps, t => match pieceAt ps t with
    | some q => some q
    | none => if p.t0 ≤ t then some p else none

/-- The pieces still of use at time t: those in force within the last 100 µs, which late angle samples may ask for (R131), and those to come. -/
def keepPieces (t : Nat) : List Piece → List Piece
  | [] => []
  | [p] => [p]
  | p :: q :: ps => if q.t0 + 100000 ≤ t then keepPieces t (q :: ps) else p :: q :: ps

/-- The end of a profile: time, position and velocity. -/
def profileEnd (l : List Piece) (t : Nat) (pos : Int) : Nat × Int × Int :=
  match l.getLast? with
  | none => (t, pos, 0)
  | some p => (max t (p.t0 + p.dur), p.pos (max t (p.t0 + p.dur)), p.vel (p.t0 + p.dur))

/-- R127: the duration in ns of an S-curve over a velocity change, under an acceleration and a jerk limit. -/
def curveTime (dv acc jerk : Nat) : Nat :=
  if dv * jerk ≤ acc * acc then 2 * isqrt (dv * 1000000000000000000 / jerk)
  else dv * 1000000000 / acc + acc * 1000000000 / jerk

/-- R127: the pieces of an S-curve that starts at t, p, v and changes the velocity by dv. -/
def curve (t : Nat) (p v dv : Int) (acc jerk : Nat) : List Piece :=
  let sg : Int := if dv < 0 then -1 else 1
  let total := curveTime dv.natAbs acc jerk
  if dv.natAbs * jerk ≤ acc * acc then
    let h := total / 2
    let a : Piece := { t0 := t, dur := h, p0 := p, v0 := v, j := sg * jerk }
    [a, { t0 := t + h, dur := h, p0 := a.pos (t + h), v0 := v + dv / 2, a0 := a.acc (t + h), j := -(sg * jerk) },
     { t0 := t + total, dur := 0, p0 := p + (2 * v + dv) * total / 2000, v0 := v + dv }]
  else
    let tj := acc * 1000000000 / jerk
    let tc := total - 2 * tj
    let a : Piece := { t0 := t, dur := tj, p0 := p, v0 := v, j := sg * jerk }
    let b : Piece := { t0 := t + tj, dur := tc, p0 := a.pos (t + tj), v0 := a.vel (t + tj), a0 := sg * acc }
    [a, b, { t0 := t + tj + tc, dur := tj, p0 := b.pos (t + tj + tc), v0 := b.vel (t + tj + tc), a0 := sg * acc, j := -(sg * jerk) },
     { t0 := t + total, dur := 0, p0 := p + (2 * v + dv) * total / 2000, v0 := v + dv }]

/-- R498: the rest-to-rest move from p to q at t, under limits on velocity, acceleration and jerk. -/
def moveProfile (t : Nat) (p q : Int) (vmax acc jerk : Nat) : List Piece :=
  let d := (q - p).natAbs
  let sg : Int := if q < p then -1 else 1
  let full := decide (vmax * curveTime vmax acc jerk ≤ d * 1000)
  let vp := if full then vmax else topBits 40 0 fun v => decide (v ≤ vmax ∧ v * curveTime v acc jerk ≤ d * 1000)
  let tc := curveTime vp acc jerk
  let coast := if vp = 0 then 0 else (d * 1000 - vp * tc) / vp
  let up := curve t p 0 (sg * vp) acc jerk
  let p1 := p + sg * (vp * tc / 2000 : Nat)
  let p2 := p1 + sg * (vp * coast / 1000 : Nat)
  up ++ [{ t0 := t + tc, dur := coast, p0 := p1, v0 := sg * vp }] ++
    (curve (t + tc + coast) p2 (sg * vp) (-(sg * vp)) acc jerk).dropLast ++
    [{ t0 := t + 2 * tc + coast, dur := 0, p0 := q, v0 := 0 }]

/-- The limits of an axis: velocity LSB/s, acceleration LSB/s², jerk LSB/s³; `park` takes `PARK_V` and `PARK_A`. -/
def State.limits (s : State) (a : Nat) (park : Bool) : Nat × Nat × Nat :=
  let r := if park then Reg.AX_PARK_LIM a else Reg.AX_DYN_VA a
  (s.ef r 15 0 * 2048, s.ef r 31 16 * 20480000, s.ef (Reg.AX_DYN_J a) 15 0 * 2048000000000)

/-- The profile of an axis up to now. -/
def Axis.past (x : Axis) (now : Nat) : List Piece := keepPieces now (x.pieces.filter fun p => decide (p.t0 < now))

/-- R498: a move of an axis to an angle; an axis in motion first comes to rest by an S-curve. -/
def State.moveTo (s : State) (a : Nat) (target : Int) (park : Bool) : State :=
  let x := s.axis a
  let lim := s.limits a park
  let now := s.now
  let old := x.past now
  match pieceAt x.pieces now with
  | none => s.setAxis a { x with pieces := old ++ moveProfile now (x.thMeas * 1000000) (target * 1000000) lim.1 lim.2.1 lim.2.2 }
  | some p =>
    let v := p.vel now
    if v = 0 then s.setAxis a { x with pieces := old ++ moveProfile now (p.pos now) (target * 1000000) lim.1 lim.2.1 lim.2.2 }
    else
      let stop := curve now (p.pos now) v (-v) lim.2.1 lim.2.2
      let t1 := now + curveTime v.natAbs lim.2.1 lim.2.2
      let q := p.pos now + v * ((t1 - now : Nat) : Int) / 2000
      s.setAxis a { x with pieces := old ++ stop.dropLast ++ moveProfile t1 q (target * 1000000) lim.1 lim.2.1 lim.2.2 }

/-- When the profile of axis a comes to its end, in ns of `now`. -/
def State.moveEnd (s : State) (a : Nat) : Nat :=
  match (s.axis a).pieces.getLast? with
  | some p => p.t0 + p.dur
  | none => 0

/-- The profile has come to its end. -/
def State.moveDone (s : State) (a : Nat) : Bool := decide (s.moveEnd a ≤ s.now)

/-- R126: the outer boundary of an edge column, in 10⁻⁶ LSB: the end of the field at column 0 or at the last column. -/
def State.outerBoundary (s : State) (j : Nat) : Int :=
  let step : Int := s.f Reg.PLAN_AZ_STEP 15 0
  if j = 0 then s.colAz 0 * 1000000 - step * 500000 else s.colAz j * 1000000 + step * 500000

/-- The first column of frame fr. -/
def State.firstCol (s : State) (fr : Nat) : Nat := sweepCol s.columns fr 0

/-- R127: the velocity of a column, LSB/s, signed by the frame's direction, clipped to `V_MAX`; and whether it was clipped. -/
def State.colVel (s : State) (c : ColPlan) : Int × Bool :=
  let v := if c.dur = 0 then 0 else s.f Reg.PLAN_AZ_STEP 15 0 * 100000000 / c.dur
  let m := (s.limits 0 false).1
  let sg : Int := if c.frame % 2 = 0 then 1 else -1
  (sg * (min v m : Nat), decide (m < v))

/-- Mark a deviation of the profile in the open column and in `WAG_PROF_FLAGS` (R127, R128). -/
def State.profLimit (s : State) (key : Nat) : State :=
  let s := s.flag Reg.WAG_PROF_FLAGS 0
  match s.col key with
  | some c => s.setCol key (some { c with profLimit := true })
  | none => s

/-- The next column of the same frame, if planned. -/
def State.nextCol (s : State) (c : ColPlan) : Option ColPlan :=
  if c.sweep + 1 < s.columns then s.col (colKey c.frame (sweepCol s.columns c.frame (c.sweep + 1))) else none

/-- R128: the start of a frame's first column: from rest at time `rest` and position `pos` the mirror holds, then accelerates to velocity v, so that it
crosses the inner boundary at the column's planned end; a move that does not fit starts at once. `past` is the profile before. -/
def State.steerFirst (s : State) (key : Nat) (c : ColPlan) (past : List Piece) (rest : Nat) (pos v : Int) : State :=
  let lim := s.limits 0 false
  let sg : Int := if c.frame % 2 = 0 then 1 else -1
  let way : Int := sg * (s.outerBoundary c.column - pos) + s.f Reg.PLAN_AZ_STEP 15 0 * 1000000
  let tv := curveTime v.natAbs lim.2.1 lim.2.2
  let coast : Int := if v = 0 then 0 else (way * 1000 - (v.natAbs * tv / 2 : Nat)) / v.natAbs
  let hold : Int := (c.startNs.getD s.now : Int) + c.dur * 10 - rest - tv - coast
  let fits := decide (0 ≤ hold ∧ 0 ≤ coast)
  let s := s.when (!fits) fun s => s.profLimit key
  let st := rest + if fits then hold.toNat else 0
  s.setWag { s.wag with
    xVel := v, deficit := 0, hold := some (key, rest, pos, st), axX := { s.wag.axX with pieces := past ++ curve st pos 0 v lim.2.1 lim.2.2 } }

/-- R128: the reference velocity, with the sign of a frame's sweep. -/
def State.refVelOf (s : State) (fr : Nat) : Int := if fr % 2 = 0 then s.wag.refVel.natAbs else -(s.wag.refVel.natAbs : Int)

/-- R128: the segment of the second column arrives while the mirror holds in the first: it is taken up if the hold it needs has not ended. -/
def State.resteer (s : State) (n : ColPlan) : State :=
  match s.wag.hold with
  | some (key, rest, pos, st) =>
    match s.col key with
    | some c =>
      if s.driven n ∧ n.frame = c.frame ∧ n.sweep = 1 ∧ s.plan.openCol = some key ∧ s.now < st then
        let t := s.steerFirst key c ((s.wag.axX.pieces).filter fun p => decide (p.t0 < st)) rest pos (s.colVel n).1
        if s.now ≤ (t.wag.hold.map (·.2.2.2)).getD 0 then t else s
      else s
    | none => s
  | none => s

/-- R128: the last column of a frame: the mirror coasts, then comes to rest on the column's outer boundary; a move that does not fit starts at once. -/
def State.steerLast (s : State) (key : Nat) (c : ColPlan) : State :=
  let x := s.wag.axX
  let lim := s.limits 0 false
  let v := s.wag.xVel
  let tv := curveTime v.natAbs lim.2.1 lim.2.2
  let e := profileEnd x.pieces s.now (x.thRef * 1000000)
  let way := if v < 0 then e.2.1 - s.outerBoundary c.column else s.outerBoundary c.column - e.2.1
  let dist : Int := way - (v.natAbs * tv / 2000 : Nat)
  let coast : Int := if v = 0 then 0 else dist * 1000 / v.natAbs
  let s := s.when (decide (coast < 0)) fun s => s.profLimit key
  let st := e.1 + coast.toNat
  s.setWag { s.wag with
    refVel := v, xVel := 0,
    axX := { x with pieces := keepPieces s.now x.pieces ++
      { t0 := e.1, dur := coast.toNat, p0 := e.2.1, v0 := v } :: curve st (e.2.1 + v * coast.toNat / 1000) v (-v) lim.2.1 lim.2.2 } }

/-- R127, R129: an interior column: the S-curve to the velocity of the next column, centred on its start. A clipped or held velocity leaves a deficit, which
later columns make up by at most 1/16 of their velocity and never beyond `V_MAX`; a column in which a deviation arises is marked. Where the next segment is
late, and before the last column, the velocity stays as it is. -/
def State.steerInner (s : State) (key : Nat) (c : ColPlan) : State :=
  let x := s.wag.axX
  let lim := s.limits 0 false
  let next := (s.nextCol c).filter fun n => s.driven n && !n.velHold && !(n.sweep + 1 == s.columns)
  let nv : Int := match next with
    | some n => (s.colVel n).1
    | none => s.wag.xVel
  let e := profileEnd x.pieces s.now (s.colAz c.column * 1000000)
  let own := s.colVel c
  let want : Int := if c.dur = 0 then 0 else s.f Reg.PLAN_AZ_STEP 15 0 * 100000000 / c.dur
  let held := c.velHold && want != s.wag.xVel.natAbs
  let short : Int := if held then (want - s.wag.xVel.natAbs) * c.dur * 10 / 1000
    else if own.2 then (want - own.1.natAbs) * c.dur * 10 / 1000 else 0
  let deficit := max 0 (s.wag.deficit + short)
  let extra : Int := if deficit < 1000000 ∨ nv = 0 then 0
    else match next with
      | some n => min (min (deficit * 100 / max 1 n.dur) (nv.natAbs / 16)) (max 0 ((lim.1 : Int) - nv.natAbs))
      | none => 0
  let v1 := if nv < 0 then nv - extra else nv + extra
  let dv := v1 - s.wag.xVel
  let tv := curveTime dv.natAbs lim.2.1 lim.2.2
  let st0 := s.now + c.dur * 10 - tv / 2
  let st := max e.1 st0
  let s := s.when (own.2 || held || (dv != 0 && decide (st0 < e.1))) fun s => s.profLimit key
  let made : Int := match next with
    | some n => extra * n.dur / 100
    | none => 0
  let coastTo := e.2.1 + s.wag.xVel * ((st - e.1 : Nat) : Int) / 1000
  let add : List Piece := if dv = 0 then [] else
    { t0 := e.1, dur := st - e.1, p0 := e.2.1, v0 := s.wag.xVel } :: curve st coastTo s.wag.xVel dv lim.2.1 lim.2.2
  s.setWag { s.wag with
    xVel := v1, refVel := s.wag.xVel, deficit := max 0 (deficit - made), axX := { x with pieces := keepPieces s.now x.pieces ++ add } }

/-- R127 to R129: the X profile as column c starts: what leads to its end and to the velocity of the next column. An axis that waits for its rejoin is left
at its angle (R134). -/
def State.steerColumn (s : State) (key : Nat) : State :=
  match s.col key with
  | none => s
  | some c =>
    let x := s.wag.axX
    if (s.axState 0 ≠ 2 ∧ s.axState 0 ≠ 1) ∨ x.rejoin then s
    else if c.sweep = 0 then
      let v := match s.nextCol c with
        | some n => if s.driven n then (s.colVel n).1 else s.refVelOf c.frame
        | none => s.refVelOf c.frame
      let e := profileEnd x.pieces s.now (s.outerBoundary c.column)
      s.steerFirst key c (keepPieces s.now x.pieces) e.1 e.2.1 v
    else if c.sweep + 1 = s.columns then s.steerLast key c
    else s.steerInner key c

/-- R130: the Y move at the start of a column whose segment the generator has; an axis that waits for its rejoin moves then (R134). -/
def State.steerY (s : State) (c : ColPlan) : State :=
  if c.voff = s.wag.yTarget ∨ s.axState 1 ≠ 2 then s
  else
    let s := s.setWag { s.wag with yTarget := c.voff }
    if s.wag.axY.rejoin then s else s.moveTo 1 c.voff false

/-! ## The loops (R120 to R125) -/

/-- A gain register applied to x, at a scale of 2¹⁵ (R120). -/
def State.gain (s : State) (r : Nat) (x : Int) : Int := signed 16 (s.ef r 15 0) * x * 2 ^ s.ef r 19 16

def sat16 (x : Int) : Int := clampInt (-32768) 32767 x

def sat40 (x : Int) : Int := clampInt (-(2 ^ 39)) (2 ^ 39 - 1) x

/-- Count `n` events of saturation of loop l (R120); each of a tick counts (DEDUCED: log entry 64). -/
def State.countSat (s : State) (l n : Nat) : State :=
  if n = 0 then s else (s.flag Reg.WAG_SAT_FLAGS l).add (Reg.WAG_SAT_COUNT l) n

/-- The common form of a loop's output and integrator (R124): `acc` and `i` at scale 2¹⁵, limits, the error; answers the
output, the new integrator and the events of R120: an accumulator that would leave 40 bits, and a clamped output. -/
def piStep (acc i e lo hi old : Int) : Int × Int × Nat :=
  let n := sat40 i
  let t := sat40 (acc + n)
  let u0 := divRound t 32768
  let u := clampInt lo hi u0
  let keep := u0 = u ∨ (e < 0 ∧ 0 < u) ∨ (0 < e ∧ u < 0)
  (u, if keep then clampInt (lo * 32768) (hi * 32768) n else old, b2n (n != i || t != acc + n) + b2n (u != u0))

/-- The profile of an axis at this tick: θ_ref, v_ref and a_ref in the units of R124, the last two saturated to 16 bits (DESIGN CHOICE: log entry 91). -/
def State.setPoint (s : State) (a : Nat) : Int × Int × Int :=
  let x := s.axis a
  match pieceAt x.pieces s.now with
  | none => (x.thRef, 0, 0)
  | some p =>
    -- v: LSB/s to 1/64 LSB per 20 µs; a: LSB/s² to 1/64 LSB per (20 µs)²
    (divRound (p.pos s.now) 1000000, sat16 (divRound (p.vel s.now * 64) 50000),
     sat16 (divRound (p.acc s.now * 64) 2500000000))

/-- An integrator set to a value of 40 bits, for loop l (R120). -/
def State.presetInt (s : State) (l : Nat) (v : Int) : Int × State := (sat40 v, s.countSat l (b2n (sat40 v != v)))

/-- The machine with the parameters that a commit replaced, while loop l has not computed since (R135). -/
def State.former (s : State) (l : Nat) : Option State :=
  (s.wag.former.find? (·.1 == l)).map fun e =>
    { s with held := e.2.foldr (fun x (h : Tbl (Option Word)) => h.set none x.1 (some x.2)) s.held }

/-- Loop l no longer takes over from former parameters. -/
def State.dropFormer (s : State) (l : Nat) : State := s.setWag { s.wag with former := s.wag.former.filter (·.1 != l) }

/-- R124: the error, the velocity estimate (saturated to 16 bits as `AX_VEL_EST_a` holds it; DESIGN CHOICE: log entry 91), `acc` and PKI × e of a
position tick. -/
def State.posTerms (s : State) (a : Nat) (theta : Int) : Int × Int × Int × Int :=
  let x := s.axis a
  let sp := s.setPoint a
  let e := sat16 (sp.1 - theta)
  let vEst := sat16 (x.vEst + divRound (signed 16 (s.ef (Reg.AX_DFILT a) 15 0) * (64 * (theta - x.thMeas) - x.vEst)) 32768)
  (e, vEst, s.gain (Reg.AX_PKP a) e + s.gain (Reg.AX_PKD a) (sp.2.1 - vEst) + s.gain (Reg.AX_PKFV a) sp.2.1 + s.gain (Reg.AX_PKFA a) sp.2.2,
    s.gain (Reg.AX_PKI a) e)

/-- `I_LIM` of an axis, a Q15 value; a negative one limits to 0 (DESIGN CHOICE: log entry 92). -/
def State.posLim (s : State) (a : Nat) : Int := max 0 (signed 16 (s.ef (Reg.AX_OUT_LIM a) 15 0))

/-- R124: u, the new integrator and the events of R120 of a position tick. -/
def State.posStep (s : State) (a : Nat) (theta : Int) : Int × Int × Nat :=
  let q := s.posTerms a theta
  piStep q.2.2.1 ((s.axis a).posInt + q.2.2.2) q.1 (-(s.posLim a)) (s.posLim a) (s.axis a).posInt

/-- A notch coefficient. -/
def State.notchCoef (s : State) (reg hi lo : Nat) : Int := signed 16 (s.ef reg hi lo)

/-- What the notch adds for the inputs and outputs before this one (R124). -/
def State.notchPast (s : State) (a : Nat) : Int :=
  let x := s.axis a
  s.notchCoef (Reg.AX_NOTCH0 a) 31 16 * x.x1 + s.notchCoef (Reg.AX_NOTCH1 a) 15 0 * x.x2 -
    s.notchCoef (Reg.AX_NOTCH1 a) 31 16 * x.y1 - s.notchCoef (Reg.AX_NOTCH2 a) 15 0 * x.y2

/-- R124: the notch on u: its output, and the events of R120. -/
def State.notch (s : State) (a : Nat) (u : Int) : Int × Nat :=
  let y0 := s.notchCoef (Reg.AX_NOTCH0 a) 15 0 * u + s.notchPast a
  let y := clampInt (-(s.posLim a)) (s.posLim a) (divRound (sat40 y0) 16384)
  (y, b2n (sat40 y0 != y0) + b2n (y != divRound (sat40 y0) 16384))

/-- R135: the position loop's first computation after a commit: its integrator is preset so that i_ref comes out as the former parameters would have given it
(with `NB0` = 0, where i_ref does not depend on u, u does). -/
def State.presetPos (s : State) (a : Nat) (theta : Int) : State :=
  match s.former a with
  | none => s
  | some f =>
    let th := match s.wag.sample with
      | some (cx, cy, _) => f.angleOf a cx cy
      | none => theta
    let u0 := (f.posStep a th).1
    let nb0 := s.notchCoef (Reg.AX_NOTCH0 a) 15 0
    let u := if nb0 = 0 then u0 else divRound ((f.notch a u0).1 * 16384 - s.notchPast a) nb0
    let q := s.posTerms a theta
    let p := s.presetInt a (u * 32768 - q.2.2.1 - q.2.2.2)
    (p.2.setAxis a { s.axis a with posInt := p.1 }).dropFormer a

/-- R124: one computation of the position loop of an axis with a valid sample. The result waits for the next tick. -/
def State.posCompute (s : State) (a : Nat) (theta : Int) : State :=
  let s := s.presetPos a theta
  let x := s.axis a
  let sp := s.setPoint a
  let q := s.posTerms a theta
  let r := s.posStep a theta
  let y := s.notch a r.1
  let vEst := q.2.1
  let s := s.countSat a (r.2.2 + y.2)
  let s := s.setAxis a { x with
    thPrev := x.thMeas, thMeas := theta, thRef := sp.1, vEst, posInt := r.2.1, x1 := r.1, x2 := x.x1, y1 := y.1, y2 := x.y1,
    lastE := q.1, peak := max x.peak q.1.natAbs }
  let s := s.setLoop a { s.loop a with pend := some y.1 }
  let s := (s.setF (Reg.AX_POS_MEAS a) 19 0 (satS 20 theta)).setF (Reg.AX_POS_REF a) 19 0 (satS 20 sp.1)
  s.setF (Reg.AX_VEL_EST a) 15 0 (satS 16 vEst)

/-- R132: tracking error of a position tick. -/
def State.trackError (s : State) (a : Nat) : State :=
  if s.ef (Reg.AX_TOL a) 31 16 < (s.axis a).lastE.natAbs then
    let s := s.flag Reg.WAG_PROF_FLAGS (2 + a)
    let s := match s.plan.openCol with
      | some k => (match s.col k with
        | some c => s.setCol k (some { c with steerErr := true })
        | none => s)
      | none => s
    if s.wag.trackRaised then s
    else (s.setWag { s.wag with trackRaised := true }).raise Ev.STEER_TRACK .all (leBytes 4 a)
  else s

/-- A loop of two gains (R125, R136): its output under the gains `kp` and `ki`, for an error, an integrator and limits. -/
def State.piLoop (s : State) (kp ki : Nat) (e integ lo hi : Int) : Int × Int × Nat :=
  piStep (s.gain kp e) (integ + s.gain ki e) e lo hi integ

/-- R135: the integrator from which such a loop gives the output u. -/
def State.piPreset (s : State) (kp ki : Nat) (e u : Int) : Int := u * 32768 - s.gain kp e - s.gain ki e

/-- R125: the current loop of an axis; a negative `DRV_LIM` limits to 0 (DESIGN CHOICE: log entry 92). -/
def State.curStep (s : State) (a : Nat) (e : Int) : Int × Int × Nat :=
  let lim : Int := max 0 (signed 16 (s.ef (Reg.AX_OUT_LIM a) 31 16))
  s.piLoop (Reg.AX_CKP a) (Reg.AX_CKI a) e (s.axis a).curInt (-lim) lim

/-- R125: one computation of the current loop of an axis; the first after a commit gives what the former parameters would have given (R135). -/
def State.curCompute (s : State) (a : Nat) (iMeas : Int) : State :=
  let e := sat16 ((s.axis a).iRef - iMeas)
  let s := match s.former (2 + a) with
    | none => s
    | some f =>
      let p := s.presetInt (2 + a) (s.piPreset (Reg.AX_CKP a) (Reg.AX_CKI a) e (f.curStep a e).1)
      (p.2.setAxis a { s.axis a with curInt := p.1 }).dropFormer (2 + a)
  let r := s.curStep a e
  let s := s.countSat (2 + a) r.2.2
  let s := s.setAxis a { s.axis a with curInt := r.2.1, iMeas }
  s.setLoop (2 + a) { s.loop (2 + a) with pend := some r.1 }

/-- Show the applied current and drive of an axis (R142). -/
def State.syncAxis (s : State) (a : Nat) : State :=
  let x := s.axis a
  (s.setR (Reg.AX_CUR a) (satS 16 x.iRef + 65536 * satS 16 x.iMeas)).setF (Reg.AX_DRIVE a) 15 0 (satS 16 x.dac)

/-- R121: a loop at its tick. A computation still running is an overrun; otherwise its result takes effect through `apply`.
Answers whether the loop may compute now. -/
def State.loopTick (s : State) (l : Nat) (apply : State → Int → State) : Bool × State :=
  let x := s.loop l
  if x.late then
    let s := (s.flag Reg.WAG_OVR_FLAGS l).inc (Reg.WAG_OVR_COUNT l)
    (false, (s.setLoop l { x with runs := x.runs + 1 }).postOnce Rec.OVERRUN l l)
  else
    match x.pend with
    | some v => (true, apply (s.setLoop l { x with pend := none, out := v }) v)
    | none => (true, s)

/-- R122: an invalid sample counts as an overrun of the loop. -/
def State.invalidTick (s : State) (l : Nat) : State :=
  let x := s.loop l
  let s := (s.flag Reg.WAG_OVR_FLAGS l).inc (Reg.WAG_OVR_COUNT l)
  (s.setLoop l { x with runs := x.runs + 1 }).postOnce Rec.OVERRUN l l

/-- A computation that starts now; `late` says that it will not finish before the loop's next tick (R121). A computation
that finishes in time returns the consecutive count to 0. -/
def State.startLoop (s : State) (l : Nat) (late : Bool) : State :=
  let x := s.loop l
  s.setLoop l { x with late, runs := if late then x.runs else 0 }

/-! ## Park and release (R139, R140) -/

/-- R139: release an axis: its DAC ramps to 0 over 10 ms. -/
def State.releaseAxis (s : State) (a : Nat) : State :=
  if s.axState a = 0 then s
  else
    let x := s.axis a
    (s.setAxis a { x with relAt := some s.now, relFrom := x.dac, parkAt := none, thenRelease := false }).setAxState a 6

/-- Whether the newest angle sample is valid at this moment (R118). -/
def State.angleValid (s : State) : Bool :=
  match s.wag.sample with
  | some (cx, cy, t) => decide (s.now ≤ t + 10000 ∧ -32768 < cx ∧ cx < 32767 ∧ -32768 < cy ∧ cy < 32767)
  | none => false

/-- R139: park an axis; one that is off or releasing is left, one without valid samples is released at once. A manual axis returns to `AUTO` (R133). -/
def State.parkAxis (s : State) (a : Nat) (thenRelease : Bool) : State :=
  let st := s.axState a
  if st = 0 ∨ st = 6 then s
  else if st = 5 then
    if thenRelease then s.releaseAxis a else s
  else if ¬ s.angleValid then s.releaseAxis a
  else if st = 4 then s.setAxis a { s.axis a with thenRelease }
  else
    let s := s.setAxis a { s.axis a with parkAt := some s.now, thenRelease, okSince := none }
    let s := s.setF (Reg.AX_MODE a) 1 0 0
    (s.moveTo a (signed 20 (s.ef (Reg.AX_PARK a) 19 0)) true).setAxState a 4

/-- R139: hard release. -/
def State.hardRelease (s : State) (a : Nat) : State :=
  let s := s.setAxis a { s.axis a with dac := 0, iRef := 0, parkAt := none, relAt := none, pieces := [] }
  (s.setAxState a 0).syncAxis a

/-- Both axes are off. -/
def State.axesOff (s : State) : Bool := s.axState 0 == 0 && s.axState 1 == 0

/-! ## Power-up (R134, R138) -/

/-- R138: `ARM` enables the drive; the start moves wait for the first measured angle. The first tick comes 1 µs later, so that its control sample is
requested now (R118; DESIGN CHOICE: log entry 63). -/
def State.powerMirror (s : State) : State :=
  let ax : Axis := { needStart := true }
  let s := s.setWag { s.wag with
    powerAt := some (s.now + 1000), n := 0, axX := ax, axY := ax, armAt := some s.now, atStart := false, scanAt := none, sample := none, ctrlN := 0,
    loops := ⟨s.wag.loops.entries.filter fun e => decide (4 ≤ e.1)⟩, xVel := 0, deficit := 0, hold := none, yTarget := 0,
    former := s.wag.former.filter fun e => decide (4 ≤ e.1) }
  (s.setAxState 0 1).setAxState 1 1

/-- R138: the column at whose outer boundary X will start to scan: the first column of the first frame whose boundary, at the period in force, comes after
the move there has ended (DEDUCED: log entry 65). -/
def State.startColFor (s : State) (theta : Int) : Nat :=
  let lim := s.limits 0 true
  let p := s.f Reg.FRAME_STATUS 23 0 * 1000
  let b1 := s.sync.dueAt.getD (s.sync.lastB + p)
  let ends (k : Nat) : Nat := match (moveProfile s.now (theta * 1000000) (s.outerBoundary (s.firstCol (s.frameNo + 1 + k))) lim.1 lim.2.1 lim.2.2).getLast? with
    | some q => q.t0
    | none => s.now
  s.firstCol (s.frameNo + 1 + (((List.range 16).find? fun k => decide (ends k ≤ b1 + k * p)).getD 0))

/-- The start move of an axis at its first measured angle (R138). -/
def State.startMove (s : State) (a : Nat) (theta : Int) : State :=
  let s := s.setAxis a { s.axis a with needStart := false, thMeas := theta, thPrev := theta, thRef := theta }
  let j := s.startColFor theta
  let s := s.when (a == 0) fun s => s.setWag { s.wag with startCol := j }
  s.moveTo a (if a = 0 then divRound (s.outerBoundary j) 1000000 else 0) true

/-- R140, R138: stop scanning: the engine no longer starts columns. -/
def State.stopScan (s : State) : State := s.setWag { s.wag with armAt := none, atStart := false, scanAt := none }

/-! ## Manual drive (R133, R134) -/

/-- The profile of an axis held at its measured angle (R133, R134). -/
def Axis.holdAt (x : Axis) (now : Nat) (theta : Int) : Axis :=
  { x with thRef := theta, pieces := x.past now ++ [{ t0 := now, dur := 0, p0 := theta * 1000000, v0 := 0 }] }

/-- R134: a mode change at the axis's current tick, whose samples have the mean `mean`, none where one is invalid. What its loops still had to apply is dropped.
An axis that parks keeps its move. -/
def State.modeChange (s : State) (a : Nat) (mean : Option Int) : State :=
  let x := s.axis a
  let m := s.f (Reg.AX_MODE a) 1 0
  let parks := s.axState a == 4
  if m = x.mode ∨ (s.axState a ≠ 2 ∧ s.axState a ≠ 3 ∧ ¬ (parks ∧ m = 0)) then s
  else
    let s := (s.setLoop a { s.loop a with pend := none }).setLoop (2 + a) { s.loop (2 + a) with pend := none }
    let s := (s.dropFormer a).dropFormer (2 + a)
    if m ≠ 0 then
      let v := if m = 1 then x.iRef else x.dac
      ((s.setAxis a { x.holdAt s.now x.thMeas with mode := m }).setF (Reg.AX_MAN_VALUE a) 15 0 (satS 16 v)).setAxState a 3
    else
      let u := if x.mode = 1 then x.iRef else mean.getD x.iMeas
      let p := s.presetInt a (u * 32768 - s.gain (Reg.AX_PKD a) (-x.vEst))
      let i := p.2.presetInt (2 + a) (if x.mode = 2 then x.dac * 32768 else x.curInt)
      let y := if parks then x else { x.holdAt s.now x.thMeas with rejoin := true }
      let s := i.2.setAxis a { y with mode := 0, posInt := p.1, x1 := u, x2 := u, y1 := u, y2 := u, iRef := u, curInt := i.1 }
      if parks then s else s.setAxState a 2

/-- R133: the applied manual value moves towards `MAN_VALUE`. -/
def State.manualSlew (s : State) (a : Nat) : State :=
  let x := s.axis a
  let step : Int := 16 * s.ef Reg.WAG_CTRL 15 8
  let target := signed 16 (s.f (Reg.AX_MAN_VALUE a) 15 0)
  let go (v : Int) : Int := if v < target then min target (v + step) else max target (v - step)
  match x.mode with
  | 1 => s.setAxis a { x with iRef := go x.iRef, thRef := x.thMeas }
  | 2 => s.setAxis a { x with dac := go x.dac, thRef := x.thMeas }
  | _ => s

/-! ## Shadow parameters (R135) -/

/-- The registers of the page that a commit applies. -/
def wagShadow (a : Nat) : Bool :=
  decide (a / 65536 = 0xC ∧ ¬ (a = Reg.AX_MODE 0 ∨ a = Reg.AX_MODE 1 ∨ a = Reg.AX_MAN_VALUE 0 ∨ a = Reg.AX_MAN_VALUE 1) ∧
    ¬ (0xC0400 ≤ a ∧ a % 16 = 0))

/-- The loops that run (R119, R133, R137). -/
def State.loopRuns (s : State) (l : Nat) : Bool :=
  if l < 4 then
    let a := l % 2
    let st := s.axState a
    st != 0 && st != 6 && (if l < 2 then (s.axis a).mode == 0 else (s.axis a).mode != 2)
  else s.wag.heating

/-- R135: the committed parameters apply. Each running loop keeps the former ones until it computes next, when its integrator is preset by them. -/
def State.applyWagParams (s : State) : State :=
  if !s.bit Reg.WAG_STATUS 9 then s
  else
    let was : List (Nat × Word) := s.held.entries.filterMap fun e => if wagShadow e.1 then e.2.map fun v => (e.1, v) else none
    let former := ((List.range 20).filter s.loopRuns).map fun l => (l, ((s.wag.former.find? (·.1 == l)).map (·.2)).getD [] ++ was)
    ((s.takeEffect wagShadow).setBit Reg.WAG_STATUS 9 false).setWag { s.wag with former }

/-! ## Heater and wavelength loops (R123, R136, R137) -/

/-- The states in which the heater loops run (R137). -/
def State.heatersRun (s : State) : Bool := s.dev.scanning || s.dev == .safe

/-- T_set of tile t, in 1/64 °C: the output of its wavelength loop. -/
def State.heatSet (s : State) (t : Nat) : Int := (s.loop (12 + t)).out

/-- Preset the loops of tile t (R123, R137). -/
def State.presetHeater (s : State) (t : Nat) : State :=
  let p := signed 16 (s.ef (Reg.HEAT_PRESET t) 15 0)
  let s := (s.setLoop (12 + t) { out := p, integ := p * 32768 }).dropFormer (12 + t)
  ((s.setLoop (4 + t) {}).dropFormer (4 + t)).setF (Reg.HEAT_SET t) 15 0 (satS 16 p)

/-- `HEAT_t` low: the loops stop (R137). With both axes off as well the ticks end. -/
def State.heatersOff (s : State) : State :=
  (s.setWag { s.wag with heating := false, powerAt := if s.axesOff then none else s.wag.powerAt }).each (List.range 8) fun s t => s.setF (Reg.HEAT_STATUS t) 27 16 0

/-- The heater loops start with their presets (R137). -/
def State.heatersOn (s : State) : State :=
  if s.wag.heating then s else (s.setWag { s.wag with heating := true }).each (List.range 8) State.presetHeater

/-- The temperature of tile t, in 1/64 °C (R136). -/
def State.tileTemp (s : State) (t : Nat) : Int := s.fs (Reg.RTD_TEMP (s.ef (Reg.HEAT_CTRL t) 4 2)) 15 0

/-- The error of the wavelength loop of tile t, with the sign in force (R136). -/
def State.wlError (s : State) (t : Nat) : Int :=
  let d : Int := signed 16 (s.ef Reg.EMIT_WL_CTRL 15 0) - s.fs (Reg.WL_DISC t) 15 0
  sat16 (if s.ef Reg.WAG_CTRL 16 16 = 1 then -d else d)

/-- R136: the wavelength loop of tile t. -/
def State.wlStep (s : State) (t : Nat) : Int × Int × Nat :=
  s.piLoop Reg.WL_KP Reg.WL_KI (s.wlError t) (s.loop (12 + t)).integ (signed 16 (s.ef Reg.HEAT_TSET_LIM 15 0)) (signed 16 (s.ef Reg.HEAT_TSET_LIM 31 16))

/-- R136: one computation of the wavelength loop of tile t; the first after a commit gives what the former parameters would have given (R135). -/
def State.wlCompute (s : State) (t : Nat) : State :=
  let s := match s.former (12 + t) with
    | none => s
    | some f =>
      let p := s.presetInt (12 + t) (s.piPreset Reg.WL_KP Reg.WL_KI (s.wlError t) (f.wlStep t).1)
      (p.2.setLoop (12 + t) { s.loop (12 + t) with integ := p.1 }).dropFormer (12 + t)
  let r := s.wlStep t
  let s := s.countSat (12 + t) r.2.2
  s.setLoop (12 + t) { s.loop (12 + t) with pend := some r.1, integ := r.2.1 }

/-- R136: the heater loop of tile t under closed control, on its error. -/
def State.heatStep (s : State) (t : Nat) (e : Int) : Int × Int × Nat :=
  s.piLoop Reg.HEAT_KP Reg.HEAT_KI e (s.loop (4 + t)).integ 0 (s.ef (Reg.HEAT_CTRL t) 19 8)

/-- R136: one computation of the heater loop of tile t; the result is its duty. -/
def State.heatCompute (s : State) (t : Nat) : State :=
  let x := s.loop (4 + t)
  let hi : Int := s.ef (Reg.HEAT_CTRL t) 19 8
  if s.ef (Reg.HEAT_CTRL t) 0 0 = 1 then
    let d : Int := s.ef (Reg.HEAT_CTRL t) 31 20
    (s.setLoop (4 + t) { x with pend := some d, integ := d * 32768 }).dropFormer (4 + t)
  else if s.ef (Reg.HEAT_CTRL t) 1 1 = 0 then
    (s.setLoop (4 + t) { x with pend := some (clampInt 0 hi (s.heatSet t / 16)) }).dropFormer (4 + t)
  else
    let e := sat16 (s.heatSet t - s.tileTemp t)
    let s := match s.former (4 + t) with
      | none => s
      | some f =>
        let p := s.presetInt (4 + t) (s.piPreset Reg.HEAT_KP Reg.HEAT_KI e (f.heatStep t e).1)
        (p.2.setLoop (4 + t) { s.loop (4 + t) with integ := p.1 }).dropFormer (4 + t)
    let r := s.heatStep t e
    let s := s.countSat (4 + t) r.2.2
    s.setLoop (4 + t) { s.loop (4 + t) with pend := some r.1, integ := r.2.1 }

/-- R123: the loops of tile t are stopped for 10 ms. -/
def State.holdHeater (s : State) (t : Nat) : State :=
  let s := s.setF (Reg.HEAT_STATUS t) 27 16 0
  let s := s.setLoop (4 + t) { s.loop (4 + t) with hold := some (s.now + 10000000), runs := 0, pend := none, late := false }
  let s := s.setLoop (12 + t) { s.loop (12 + t) with hold := some (s.now + 10000000), runs := 0, pend := none, late := false }
  let s := if s.tileLost t ∨ s.tiles ≤ t then s else s.setWlState t 1
  (s.setWlTile t { s.wlTile t with inRun := 0, outRun := 0 }).settleWl

/-- R119, R136: the work of tile t at its tick: `WL_Tt` if a new block mean exists, then `HEAT_Tt`. `late` lists the loops whose
computation will overrun. -/
def State.heaterTick (s : State) (t : Nat) (late : List Nat) : State :=
  if ¬ s.heatersRun ∨ (s.loop (4 + t)).hold.isSome then s
  else
    let s := s.takeEffect (fun a => a == Reg.HEAT_CTRL t)
    let lim := s.ef Reg.WAG_CTRL 3 0
    let r := s.loopTick (12 + t) fun s v => s.setF (Reg.HEAT_SET t) 15 0 (satS 16 v)
    let s := r.2
    let s := if s.tileLost t then
        let p := signed 16 (s.ef (Reg.HEAT_PRESET t) 15 0)
        (s.setLoop (12 + t) { s.loop (12 + t) with out := p, integ := p * 32768, pend := none }).dropFormer (12 + t) |>.setF (Reg.HEAT_SET t) 15 0 (satS 16 p)
      else if r.1 ∧ s.wag.newMean.contains t then
        ((s.setWag { s.wag with newMean := s.wag.newMean.filter (· != t) }).wlCompute t).startLoop (12 + t) (late.contains (12 + t))
      else s
    let q := s.loopTick (4 + t) fun s v => s.setF (Reg.HEAT_STATUS t) 27 16 v.toNat
    let s := q.2
    let s := s.setF (Reg.HEAT_STATUS t) 15 0 (satS 16 (s.tileTemp t))
    let s := if q.1 then (s.heatCompute t).startLoop (4 + t) (late.contains (4 + t)) else s
    if lim ≤ (s.loop (4 + t)).runs ∨ lim ≤ (s.loop (12 + t)).runs then s.holdHeater t else s

end Sys2Proof.Machine
end

