-- ==== Sys2Proof/Machine/ChainOps.lean ====
section
/-!
DEFINITION. Machine/ChainOps.lean: the filter chain (chapter 11): input conversion, stages, resampling to the range grid, detectors,
reduction blocks and the polyphase bank.
-/

namespace Sys2Proof.Machine

/-- Saturation to 24 bits signed. -/
def sat24 (x : Int) : Int := clampInt (-8388608) 8388607 x

/-- A result of the chain with the saturations met: of accumulators and of outputs. -/
structure Sat (α : Type) where
  val : α
  acc : Nat := 0
  out : Nat := 0

/-- R259: the input samples of a window. -/
def chainInput (src : Bool) (shift u start : Nat) (l : List Int) : List Int :=
  l.mapIdx fun i x => if u ≤ start + i then 0 else sat24 (divRound x (2 ^ (if src then shift + 1 else shift)))

/-- R260: products added in a 40-bit accumulator that saturates. -/
def accumulate (ps : List Int) : Int × Bool :=
  ps.foldl (fun (a : Int × Bool) p => let t := sat40 (a.1 + p); (t, a.2 || t != a.1 + p)) (0, false)

/-- R260: one stage: taps as a list, centre and shift. -/
def stageOut (taps : List Int) (centre shift : Nat) (s : List Int) : Sat (List Int) :=
  if taps.isEmpty then { val := s }
  else
    let at_ (j : Int) : Int := if j < 0 ∨ 64 ≤ j then 0 else s.getD j.toNat 0
    let r := (List.range 64).map fun (i : Nat) =>
      let a := accumulate (taps.mapIdx fun m t => t * at_ ((i : Int) + m - centre))
      let o := divRound a.1 (2 ^ shift)
      (sat24 o, a.2, sat24 o != o)
    { val := r.map (·.1), acc := (r.filter fun e => e.2.1).length, out := (r.filter fun e => e.2.2).length }

/-- The taps of stage k in the frame (R270). -/
def FrameCfg.stageTaps (k : FrameCfg) (v : Variant) (i : Nat) : List Int :=
  (List.range (k.f v (Reg.FC_STAGE_CFG i) 3 0)).map fun m =>
    signed 16 (k.f v (Reg.FC_STAGE_TAP i (m / 2)) (16 * (m % 2) + 15) (16 * (m % 2)))

/-- R260: the four stages in cascade. -/
def FrameCfg.stages (k : FrameCfg) (v : Variant) (u : List Int) : Sat (List Int) :=
  (List.range 4).foldl (fun (a : Sat (List Int)) i =>
    let r := stageOut (k.stageTaps v i) (k.f v (Reg.FC_STAGE_CFG i) 6 4) (k.f v (Reg.FC_STAGE_CFG i) 12 8) a.val
    { val := r.val, acc := a.acc + r.acc, out := a.out + r.out }) { val := u }

/-! ## The range grid (R261, R262) -/

/-- 4 × 10⁹ times the bin length in mm at width code w. -/
def binLen (w : Nat) : Nat := 625 * 2 ^ w * 149896229

/-- R261: p_j in 2⁻¹⁶ bin for the range of grid sample j, with step in mm and offset in 0.1 mm. -/
def gridPos (w step j : Nat) (ofs : Int) : Int :=
  divRound (65536 * (800000000 * ((10 * j * step : Nat) + ofs) - binLen w)) (2 * binLen w)

/-- R261: bin and phase of a position. -/
def gridPhase (p : Int) : Int × Nat :=
  let i := p / 65536
  let f := (divRound (p % 65536) 256).toNat
  if f = 256 then (i + 1, 0) else (i, f)

/-- A tap of the polyphase bank in force in the frame (R263, R271). -/
def FrameCfg.polyTap (k : FrameCfg) (v : Variant) (phi t : Nat) : Int :=
  signed 16 (k.f v (Reg.FC_POLY_ACT (4 * phi + t / 2)) (16 * (t % 2) + 15) (16 * (t % 2)))

/-- R261: the interpolator's accumulator of grid sample j. -/
def FrameCfg.gridAcc (k : FrameCfg) (v : Variant) (c : ChainWin) (ofs : Int) (vs : List Int) (j : Nat) : Int × Bool :=
  let q := gridPhase (gridPos c.w (k.f v Reg.FC_GRID 11 0) j ofs)
  accumulate ((List.range 8).map fun (t : Nat) =>
    let x := q.1 + t - 3 - c.start
    k.polyTap v q.2 t * (if x < 0 ∨ 64 ≤ x then 0 else vs.getD x.toNat 0))

/-- The offset of the largest value, the lowest among equals. -/
def argMax (l : List Int) : Nat :=
  (l.foldl (fun (a : Nat × Nat × Int) x => if a.2.2 < x then (a.1 + 1, a.1, x) else (a.1 + 1, a.2.1, a.2.2))
    (0, 0, l.headD 0)).2.1

/-- R262: the first grid index of a trace, from the bin peak c. -/
def traceStart (w step len c : Nat) (ofs : Int) : Nat :=
  (divRound ((2 * c + 1) * binLen w - 800000000 * ofs) (8000000000 * (max 1 step)) - (len / 2 : Nat)).toNat

/-- R264: the refined peak range in 0.1 mm, from the three accumulators. -/
def refinePeak (step j : Nat) (am a0 ap : Int) : Nat :=
  let d := clampHalf (am - ap) (2 * (am - 2 * a0 + ap))
  (clampInt 0 0xFFFFFF (divRound (10 * step * (j * d.2 + d.1)) d.2)).toNat

/-- R266: an envelope entry over a block, before saturation. -/
def envEntry (vs : List Int) (d k : Nat) : Nat := (((vs.drop (k * d)).take d).map Int.natAbs).foldl max 0

/-! ## A window through the chain (R264 to R268) -/

/-- R268: what the chain makes of a window: its part, and the flags and counts of saturation. -/
def FrameCfg.reduce (k : FrameCfg) (v : Variant) (c : ChainWin) : Sat (List Byte × Bool) :=
  let ctl (hi lo : Nat) := k.f v Reg.FC_CTRL hi lo
  let step := k.f v Reg.FC_GRID 11 0
  let len := k.f v Reg.FC_GRID 24 16
  let ofs := signed 16 (k.f v (Reg.DET_RANGE_OFS (c.seg / 8)) 15 0)
  let st := k.stages v (chainInput (ctl 1 1 == 1) (ctl 11 8) c.u c.start c.src)
  let vs := st.val
  let pk := argMax vs
  let j0 := traceStart c.w step len (c.start + pk) ofs
  let grid := ctl 12 12 == 1 || ctl 13 13 == 1
  let accs := if grid then (List.range len).map fun m => k.gridAcc v c ofs vs (j0 + m) else []
  let raw := accs.map fun a => divRound a.1 16384
  let trace := raw.map sat24
  let g := argMax (accs.map (·.1))
  let edge := grid && (g == 0 || g + 1 == len)
  let at_ (m : Nat) : Int := (accs.getD m (0, false)).1
  let rpk := if edge then refinePeak step (j0 + g) 0 0 0 else refinePeak step (j0 + g) (at_ (g - 1)) (at_ g) (at_ (g + 1))
  let dd := 2 ^ (ctl 21 20 + 1)
  let env := (List.range (64 / dd)).map (envEntry vs dd)
  let head := leBytes 2 c.start ++ leBytes 1 (c.rank % 8 + 8 * b2n edge) ++ leBytes 1 0 ++ leBytes 4 (j0 % 2 ^ 24)
  let peakB := leBytes 4 (wrapNat 24 (vs.getD pk 0) + 2 ^ 24 * pk) ++ leBytes 4 (wrapNat 32 (trace.getD g 0)) ++ leBytes 4 rpk ++ leBytes 4 0
  let rmsB := leBytes 4 (rootQuot (vs.map fun x => x.natAbs * x.natAbs).sum 8)
  let envB := (env.map fun e => leBytes 2 (min 0xFFFF e)).flatten
  let trB := (trace.map fun t => leBytes 4 (wrapNat 32 t)).flatten
  { val := (head ++ (if ctl 13 13 = 1 then peakB else []) ++ (if ctl 14 14 = 1 then rmsB else []) ++
      (if ctl 15 15 = 1 then envB else []) ++ (if ctl 12 12 = 1 then trB else []),
      ctl 15 15 == 1 && env.any (0xFFFF < ·)),
    acc := st.acc + (accs.filter (·.2)).length, out := st.out + ((raw.zip trace).filter fun e => e.1 != e.2).length }

/-- R267: the bytes of a reduction block. -/
def redBytes (k : FrameCfg) (v : Variant) (r : ExpRec) (b : RedBlock) : List Byte :=
  leBytes 2 r.column ++ leBytes 2 r.ch ++ leBytes 1 (b.parts.length + 16 * k.f v Reg.FC_CTRL 15 12) ++
    leBytes 1 (k.f v Reg.FC_CTRL 21 20 + 4 * k.f v Reg.FC_CTRL 1 1) ++ leBytes 2 b.flags ++ leBytes 2 (k.f v Reg.FC_GRID 11 0) ++
    leBytes 2 (k.f v Reg.FC_GRID 24 16) ++ leBytes 1 (k.f v Reg.FC_CTRL 11 8) ++ leBytes 3 0 ++ b.parts.flatten

/-- Change the reduction block of a point. -/
def State.modRed (s : State) (key : Nat) (f : RedBlock → RedBlock) : State :=
  match s.det.results.get none key with
  | some d => s.setResult key (some { d with red := d.red.map f })
  | none => s

/-- The window at the front of a chain queue leaves it. -/
def State.popChain (s : State) (h : Nat) : State :=
  let x := s.hive h
  s.setHive h { x with chain := x.chain.drop 1, chainAt := s.now }

/-- R258: the time that a window occupies the chain has passed. -/
def State.chainReady (s : State) (h : Nat) (k : FrameCfg) : Bool :=
  decide (max 16 (k.f s.variant Reg.FC_GRID 24 16 / 2) * 1000 ≤ (s.now - (s.hive h).chainAt) * hiveMHz (s.f (Reg.HIVE_STATUS h) 2 0))

/-- The front window of hive h is reduced. -/
def State.chainWindow (s : State) (h : Nat) : State :=
  match (s.hive h).chain with
  | [] => s
  | c :: _ =>
    let k := s.cfgOf c.frame
    if !s.chainReady h k then s
    else
      let r := k.reduce s.variant c
      let s := (s.popChain h).inc (Reg.FC_WINDOWS h)
      let s := s.add Reg.FC_SAT_COUNT (r.acc + r.out)
      let s := if r.out = 0 then s else s.flag Reg.FC_FLAGS 0
      let s := if r.acc = 0 then s else s.flag Reg.FC_FLAGS 1
      s.modRed (ptKey c.key c.ch) fun b => { b with
        waiting := b.waiting - 1, parts := b.parts ++ [r.val.1],
        flags := setBitN (setBitN (setBitN b.flags 1 (bitN b.flags 1 || r.out != 0)) 2 (bitN b.flags 2 || r.acc != 0)) 3
          (bitN b.flags 3 || r.val.2) }

/-- R269: an uncorrectable error in the chain's buffers: the window is omitted. -/
def State.chainMemErr (s : State) (h : Nat) : State :=
  match (s.hive h).chain with
  | [] => s
  | c :: _ =>
    let s := ((s.popChain h).inc (Reg.FC_SKIP h)).flag Reg.FC_FLAGS 2
    s.modRed (ptKey c.key c.ch) fun b => { b with waiting := b.waiting - 1, flags := setBitN (setBitN b.flags 0 true) 4 true }

/-- R263: the polyphase banks swap. -/
def State.swapPoly (s : State) : State :=
  let s := s.each (List.range 1024) fun s r => s.wr (Reg.FC_POLY_ACT r) (s.rd (Reg.FC_POLY r))
  let s := s.setBit Reg.FC_STATUS 1 false
  let s := s.setBit Reg.FC_STATUS 0 (!s.bit Reg.FC_STATUS 0)
  s.raise Ev.POLY_SWAPPED .all (leBytes 4 s.frameNo)

end Sys2Proof.Machine
end

