-- ==== Sys2Proof/Machine/TrackOps.lean ====
section
/-!
DEFINITION. Machine/TrackOps.lean: clusters, association and the life of track contexts (R245 to R250), zones in force for `IN_ZONE`, and
track records (R370).
-/

namespace Sys2Proof.Machine

/-! ## Zone table (R251) -/

/-- Bank 0 or 1 of the zone table. -/
def State.zoneBank (s : State) (bank : Nat) : Tbl (List Byte) := if bank = 0 then s.det.zoneA else s.det.zoneB

def State.setZoneBank (s : State) (bank : Nat) (t : Tbl (List Byte)) : State :=
  if bank = 0 then s.setDet { s.det with zoneA := t } else s.setDet { s.det with zoneB := t }

def State.zoneActive (s : State) : Nat := s.f Reg.ZONE_TABLE_STATUS 0 0

/-- Entry i of the active bank: the zone with `ZONE_ID` i + 1. -/
def State.zoneEntry (s : State) (i : Nat) : List Byte := (s.zoneBank s.zoneActive).get blank32 i

/-- `EN` of an entry. -/
def zoneEn (e : List Byte) : Bool := bitN (fieldAt e 0 1) 0

/-- Whether an azimuth and an elevation lie within a zone's bounds. -/
def zoneAngles (e : List Byte) (az el : Int) : Bool :=
  decide (signed 20 (fieldAt e 4 4) ≤ az ∧ az ≤ signed 20 (fieldAt e 8 4) ∧ signed 20 (fieldAt e 12 4) ≤ el ∧
    el ≤ signed 20 (fieldAt e 16 4))

/-- Whether a range in 0.1 mm lies within a zone's bounds. -/
def zoneRange (e : List Byte) (range : Nat) : Bool := decide (100 * fieldAt e 20 2 ≤ range ∧ range ≤ 100 * fieldAt e 22 2)

/-! ## Clusters (R245) -/

/-- Neighbouring echoes. -/
def neighbours (dr : Nat) (a b : CluEcho) : Bool :=
  decide (((a.range : Int) - b.range).natAbs ≤ 100 * dr) &&
    ((a.column == b.column && decide (((a.ch : Int) - b.ch).natAbs = 1)) ||
      (a.ch == b.ch && decide (((a.column : Int) - b.column).natAbs = 1)))

/-- R245: an echo at sweep index i joins the clusters it neighbours, or opens one. -/
def State.clusterEcho (s : State) (frame i : Nat) (e : CluEcho) : State :=
  let dr := s.ef Reg.TRK_CLUSTER 7 0
  let near (c : Cluster) : Bool := !c.due && c.echoes.any (neighbours dr e)
  let hit := s.det.clusters.filter near
  let rest := s.det.clusters.filter fun c => !near c
  if hit.isEmpty ∧ 8192 ≤ rest.length then s.inc Reg.TRK_CLU_OVER
  else s.setDet { s.det with clusters := rest ++ [{ echoes := (hit.map (·.echoes)).flatten ++ [e], last := i, frame }] }

/-- R245: after the column at sweep index i, clusters that it left behind by `CLU_GAP` columns can be extended no more. -/
def State.ageClusters (s : State) (i : Nat) : State :=
  let gap := max 1 (s.ef Reg.TRK_CLUSTER 19 16)
  s.setDet { s.det with clusters := s.det.clusters.map fun c => if c.last + gap ≤ i then { c with due := true } else c }

/-- The measurement of a closed cluster: its points, azimuth, elevation, range, the spread of each (twice the half-extent), time, mean intensity
and frame. -/
structure Meas where
  points : Nat
  az : Int
  el : Int
  range : Nat
  spAz : Nat
  spEl : Nat
  spRange : Nat
  us : Nat
  intensity : Nat
  frame : Nat

/-- Mean of integers, rounded under R10. -/
def meanOf (l : List Int) : Int := if l.isEmpty then 0 else divRound l.sum l.length

/-- The spread of a list. -/
def spread (l : List Int) : Nat :=
  match l with
  | [] => 0
  | x :: xs => (xs.foldl max x - xs.foldl min x).toNat

/-- The nearest echo of each point of a cluster. -/
def nearest : List CluEcho → List CluEcho → List CluEcho
  | acc, [] => acc
  | acc, e :: r =>
    nearest (if acc.any fun x => x.column == e.column && x.ch == e.ch then
      acc.map fun x => if x.column = e.column ∧ x.ch = e.ch ∧ e.range < x.range then e else x else acc ++ [e]) r

/-- R245: the measurement. Range and its spread in 0.1 mm; time in µs, low 32 bits. -/
def Cluster.meas (c : Cluster) : Meas :=
  let pts := nearest [] c.echoes
  let ranges := pts.map fun e => (e.range : Int)
  { points := pts.length, az := meanOf (pts.map (·.az)), el := meanOf (pts.map (·.el)), range := (meanOf ranges).toNat,
    spAz := spread (pts.map (·.az)), spEl := spread (pts.map (·.el)), spRange := spread ranges,
    us := divRoundNat (pts.map (·.stamp)).sum (1000 * max 1 pts.length) % 2 ^ 32,
    intensity := (meanOf (c.echoes.map fun e => (e.intensity : Int))).toNat, frame := c.frame }

/-! ## Association and update (R246, R247, R250) -/

/-- R246: prediction of a context at a time: azimuth, elevation and range in 0.1 mm. -/
def predict (e : List Byte) (us : Nat) : Int × Int × Int :=
  let p := trackAt e us
  let dt := usSince us (fieldAt e 4 4)
  (p.1, p.2, (fieldBits e 16 4 23 0 : Int) + divRound (signed 16 (fieldAt e 24 2) * 20 * dt) 1000000)

/-- The registers of R254 as they are in force. -/
def State.trkCfg (s : State) : TrkCfg :=
  { assoc := s.eff Reg.TRK_ASSOC, filter := s.eff Reg.TRK_FILTER, floors := s.eff Reg.TRK_FLOORS, fresh := s.eff Reg.TRK_NEW }

/-- R246: d² as a fraction. Where a spread is 0 the spec states no quotient: a free value. -/
def State.dist2 (s : State) (k : TrkCfg) (i : Nat) (m : Meas) : Int × Int :=
  let e := s.track i
  let p := predict e m.us
  let sa : Int := fieldAt e 30 2 + fieldAt e 26 2
  let se : Int := fieldAt e 32 2 + fieldAt e 28 2
  let sr : Int := 10 * (fieldAt e 34 2 + bitsOf k.floors 31 16)
  if sa = 0 ∨ se = 0 ∨ sr = 0 then (Config.freeNat (s.freeCtr + i), 256)
  else
    let a := (m.az - p.1) * (m.az - p.1)
    let b := (m.el - p.2.1) * (m.el - p.2.1)
    let c := ((m.range : Int) - p.2.2) * ((m.range : Int) - p.2.2)
    (a * (se * se) * (sr * sr) + b * (sa * sa) * (sr * sr) + c * (sa * sa) * (se * se), (sa * sa) * (se * se) * (sr * sr))

/-- Signed 16-bit saturation as a field. -/
def field16 (x : Int) : Nat := satS 16 x

/-- R250: a full extent, 2 × `RANGE` × the half-extent of 1/2048°, by π in 2⁻³⁰; a metre is `metreUnit`. -/
def widthOf (range ext : Nat) : Nat := 2 * range * ext * 3373259426

def metreUnit : Nat := 10000 * (2048 * 180 * 1073741824)

/-- R250: the class hint of an updated context. -/
def classHint (e : List Byte) : Nat :=
  let w := widthOf (fieldBits e 16 4 23 0) (fieldAt e 26 2)
  let h := widthOf (fieldBits e 16 4 23 0) (fieldAt e 28 2)
  if fieldAt e 42 2 < 3 then 0 else if 2 * h < metreUnit then 4 else if w ≤ metreUnit ∧ metreUnit ≤ h then 1
  else if 2 * w ≤ 5 * metreUnit then 2 else 3

/-- The updates by detection that wait and those made in the column (R47), replaced. -/
def State.setDetLists (s : State) (deferred recent : List Deferred) : State := s.setDet { s.det with deferred, recent }

/-- R247: whether the position of a context lies in an enabled zone. -/
def State.inZone (s : State) (e : List Byte) : Bool :=
  (List.range 64).any fun i =>
    let z := s.zoneEntry i
    zoneEn z && zoneAngles z (signed 20 (fieldAt e 8 4)) (signed 20 (fieldAt e 12 4)) && zoneRange z (fieldBits e 16 4 23 0)

/-- Write a list of fields (offset, bytes, value) into a context. -/
def putAll (e : List Byte) (l : List (Nat × Nat × Nat)) : List Byte := l.foldl (fun e f => putBytes e f.1 f.2.1 f.2.2) e

/-- The flags byte of a context. -/
def setFlag (e : List Byte) (o i : Nat) (b : Bool) : List Byte := putBytes e o 1 (setBitN (fieldAt e o 1) i b)

/-- R247, R249, R250: what every update ends with. `by_` is when the context was created and whether by detection, for detection overwrites all of its
bytes (R249). -/
def State.finishTrack (s : State) (by_ : Nat × Bool) (e : List Byte) (m : Meas) (d2 : Nat) : List Byte :=
  let e := putAll e [(48, 4, by_.1), (52, 2, min 0xFFFF m.points), (54, 2, min 0xFFFF m.intensity), (56, 2, m.frame), (58, 1, min 255 d2),
    (59, 1, 1 + 2 * b2n by_.2), (60, 4, 0)]
  let e := setFlag e 3 0 false
  let e := setFlag e 3 1 (s.inZone e)
  putBytes e 41 1 (classHint e)

/-- A filtered rate (R247): `unit` angle or range units per unit of rate. With no time passed the spec states no quotient: a free
value. -/
def newRate (free rate : Nat) (beta r dt unit : Int) : Nat :=
  if dt = 0 then free % 65536
  else
    let d := 32768 * unit * dt.natAbs
    field16 (divRound (signed 16 rate * d + (if dt < 0 then -(beta * r * 1000000) else beta * r * 1000000)) d)

/-- R247: the update of context i by an association, with d² in 1/16. -/
def State.updateTrack (s : State) (k : TrkCfg) (i : Nat) (m : Meas) (d2 : Nat) : State :=
  let e := s.track i
  let p := predict e m.us
  let al := signed 16 (bitsOf k.filter 15 0)
  let be := signed 16 (bitsOf k.filter 31 16)
  let dt := usSince m.us (fieldAt e 4 4)
  let ea := m.az - p.1
  let ee := m.el - p.2.1
  let er := (m.range : Int) - p.2.2
  let sig (floor old err grid : Nat) : Nat := satU 16 (max floor (divRound ((32768 - al) * (grid * old : Nat) + al * err) (32768 * grid)))
  let ext (old sp : Nat) : Nat := satU 16 (divRound (6 * old + sp) 8)
  let af := bitsOf k.floors 15 0
  let rf := bitsOf k.floors 31 16
  let pos (x err : Int) : Int := divRound (32768 * x + al * err) 32768
  let st := fieldAt e 2 1
  let hits := min 0xFFFF (fieldAt e 42 2 + 1)
  let e := putAll e [
    (4, 4, m.us), (8, 4, wrapNat 32 (clampInt (-524288) 524287 (pos p.1 ea))),
    (12, 4, wrapNat 32 (clampInt (-524288) 524287 (pos p.2.1 ee))), (16, 4, satU 24 (pos p.2.2 er)),
    (20, 2, newRate (Config.freeNat s.freeCtr) (fieldAt e 20 2) be ea dt 32),
    (22, 2, newRate (Config.freeNat (s.freeCtr + 1)) (fieldAt e 22 2) be ee dt 32),
    (24, 2, newRate (Config.freeNat (s.freeCtr + 2)) (fieldAt e 24 2) be er dt 20),
    (26, 2, ext (fieldAt e 26 2) m.spAz), (28, 2, ext (fieldAt e 28 2) m.spEl),
    (30, 2, sig af (fieldAt e 30 2) ea.natAbs 1), (32, 2, sig af (fieldAt e 32 2) ee.natAbs 1),
    (34, 2, sig rf (fieldAt e 34 2) er.natAbs 10), (42, 2, hits), (44, 2, 0),
    (2, 1, if st = 1 ∧ bitsOf k.assoc 15 8 ≤ hits then 2 else if st = 3 then 2 else st)]
  let s := { s with freeCtr := s.freeCtr + 3 }
  let s := s.setTrack i (s.finishTrack (s.det.origin.get (0, false) i) e m d2)
  s.setDet { s.det with changed := if s.det.changed.contains i then s.det.changed else i :: s.det.changed }

/-- R248: a cluster that no context takes creates one in the lowest free context. -/
def State.createTrack (s : State) (k : TrkCfg) (m : Meas) : State :=
  match (List.range 4096).find? fun i => fieldAt (s.track i) 2 1 == 0 with
  | none => (s.inc Reg.TRK_NO_CTX).flag Reg.DET_FLAGS 3
  | some i =>
    let gen := (fieldAt (s.track i) 0 2 + 1) % 65536
    let af := bitsOf k.floors 15 0
    let rf := bitsOf k.floors 31 16
    let hAz := divRoundNat m.spAz 2
    let hEl := divRoundNat m.spEl 2
    let e := putAll blank64 [
      (0, 2, gen), (2, 1, if bitsOf k.assoc 15 8 ≤ 1 then 2 else 1), (4, 4, m.us), (8, 4, wrapNat 32 m.az), (12, 4, wrapNat 32 m.el),
      (16, 4, m.range), (26, 2, min 0xFFFF hAz), (28, 2, min 0xFFFF hEl), (30, 2, min 0xFFFF (max af hAz)),
      (32, 2, min 0xFFFF (max af hEl)), (34, 2, min 0xFFFF (max rf (divRoundNat m.spRange 20))),
      (36, 2, bitsOf k.fresh 31 20), (38, 1, bitsOf k.fresh 7 0), (39, 1, bitsOf k.fresh 15 8), (40, 1, bitsOf k.fresh 19 16),
      (42, 2, 1)]
    let s := (s.setTrack i (s.finishTrack (s.timeUs, true) e m 0)).inc Reg.TRK_CREATED
    s.setDet { s.det with changed := i :: s.det.changed, origin := s.det.origin.set (0, false) i (s.timeUs, true) }

/-- The registers whose writes apply at the next cluster close (R254). -/
def trackClass (a : Nat) : Bool := decide (Reg.TRK_CLUSTER ≤ a ∧ a ≤ Reg.TRK_FLOORS)

/-- R47: a host write of context i waits for the next column boundary. -/
def State.hostWaits (s : State) (i : Nat) : Bool := s.plan.hostWrites.get [] i != []

def State.defer (s : State) (d : Deferred) : State := s.setDet { s.det with deferred := s.det.deferred ++ [d] }

/-- R47: an update made in the running column: a host write of its context that comes later in the column takes effect before it. -/
def State.noteUpdate (s : State) (d : Deferred) : State := s.setDet { s.det with recent := s.det.recent ++ [d] }

/-- R246: a closed cluster associates, is absorbed or creates a context, under the registers of its close. What it does to a context with a host write
waiting follows that write (R47); until then the context counts as associated. -/
def State.associateBy (s : State) (k : TrkCfg) (c : Cluster) : State :=
  let m := c.meas
  let gate : Int := bitsOf k.assoc 7 0
  let live := (s.plan.tracks.entries.filter fun e => decide (1 ≤ fieldAt e.2 2 1 ∧ fieldAt e.2 2 1 ≤ 4)).map (·.1)
  let inGate := (live.map fun i => (i, s.dist2 k i m)).filter fun e => decide (256 * e.2.1 ≤ gate * gate * e.2.2)
  let s := { s with freeCtr := s.freeCtr + 4096 }
  let free := inGate.filter fun e => !bitN (fieldAt (s.track e.1) 59 1) 0
  let lt (a b : Nat × Int × Int) : Bool :=
    decide (a.2.1 * b.2.2 < b.2.1 * a.2.2) || (a.2.1 * b.2.2 == b.2.1 * a.2.2 && decide (a.1 < b.1))
  match bestBy lt free with
  | some e =>
    let d : Deferred := { idx := e.1, cluster := some c, d2 := some (divRound (16 * e.2.1) e.2.2).toNat, cfg := k }
    if s.hostWaits e.1 then (s.setTrack e.1 (setFlag (s.track e.1) 59 0 true)).defer d
    else (s.updateTrack k e.1 m (divRound (16 * e.2.1) e.2.2).toNat).noteUpdate d
  | none =>
    if !inGate.isEmpty then s.inc Reg.TRK_ABSORBED
    else
      match (List.range 4096).find? fun i => fieldAt (s.track i) 2 1 == 0 with
      | some i => if s.hostWaits i then s.defer { idx := i, cluster := some c, cfg := k } else s.createTrack k m
      | none => s.createTrack k m

/-- R246, R254: a cluster that closes and keeps `CLU_MIN` points, under the `TRK_` registers that apply from this close on. -/
def State.associate (s : State) (c : Cluster) : State :=
  let s := s.takeEffect trackClass
  if c.meas.points < max 1 (s.f Reg.TRK_CLUSTER 15 8) then s else s.associateBy s.trkCfg c

/-- CLUSTER_CLOSE (R245): the first cluster that the sweep has left behind closes. -/
def execClusterClose (s : State) : Host.Outcome State Fault Refusal :=
  .next (match s.det.clusters.find? (·.due) with
    | none => s
    | some c => (s.setDet { s.det with clusters := s.det.clusters.filter (· != c) }).associate c)

/-! ## Endings and misses (R248, R370) -/

/-- The frame number of the last association with its upper bits (R370); frame numbers wrap at 32 bits. -/
def lastFrameOf (frame low : Nat) : Nat :=
  let f := frame / 65536 * 65536 + low
  if f ≤ frame then f else wrapSub 32 f 65536

/-- R370: the track record of a context in a frame. -/
def trackRecord (frame i cause : Nat) (e : List Byte) : List Byte :=
  leBytes 2 i ++ leBytes 2 (fieldAt e 0 2) ++ leBytes 1 (if cause = 0 then fieldAt e 2 1 else 0) ++ leBytes 1 cause ++
    leBytes 1 (fieldAt e 41 1) ++
    leBytes 1 (b2n (bitN (fieldAt e 3 1) 1) + 2 * b2n (bitN (fieldAt e 3 1) 0) + 4 * (fieldAt e 59 1 % 2) + 8 * (fieldAt e 59 1 / 2 % 2)) ++
    bytesAt e 4 4 ++ leBytes 4 (lastFrameOf frame (fieldAt e 56 2)) ++ bytesAt e 8 4 ++ bytesAt e 12 4 ++ leBytes 3 (fieldBits e 16 4 23 0) ++
    leBytes 1 0 ++ bytesAt e 20 6 ++ bytesAt e 26 4 ++ bytesAt e 34 2 ++ bytesAt e 42 4 ++ bytesAt e 52 4

/-- A context ends with a cause: 1 `UNCONFIRMED`, 2 `AGED`, 3 `MEM_ERR`, 4 `HOST`. The context is free. -/
def State.endTrack (s : State) (i cause : Nat) : State :=
  let e := s.track i
  let s := (s.setTrack i (putBytes e 2 1 0)).inc Reg.TRK_ENDED
  s.setDet { s.det with ended := s.det.ended ++ [(i, cause, e)] }

/-- R248: a miss of context i. -/
def State.missTrack (s : State) (k : TrkCfg) (i : Nat) : State :=
  let e := s.track i
  let n := min 0xFFFF (fieldAt e 44 2 + 1)
  let st := fieldAt e 2 1
  let sig (o : Nat) : Nat := satU 16 (divRound (5 * fieldAt e o 2) 4)
  let e := putAll e [(44, 2, n), (30, 2, sig 30), (32, 2, sig 32), (34, 2, sig 34), (2, 1, if st = 2 then 3 else st)]
  let s := s.setTrack i e
  if st = 1 ∧ 2 ≤ n then s.endTrack i 1 else if st = 3 ∧ bitsOf k.assoc 23 16 ≤ n then s.endTrack i 2 else s

/-- R248: the misses at the end of a frame with the contexts due in it. -/
def State.missTracks (s : State) (due : List Nat) : State :=
  s.each due fun s i =>
    if 1 ≤ fieldAt (s.track i) 2 1 ∧ fieldAt (s.track i) 2 1 ≤ 4 ∧ !bitN (fieldAt (s.track i) 59 1) 0 then
      let d : Deferred := { idx := i, cfg := s.trkCfg }
      (if s.hostWaits i then s.defer d else (s.missTrack s.trkCfg i).noteUpdate d)
    else s

/-- R47: an update by detection that had to follow a host write. A context that the write has freed takes none; its cluster may create one (R254). -/
def State.applyDeferred (s : State) (d : Deferred) : State :=
  let live := decide (1 ≤ fieldAt (s.track d.idx) 2 1 ∧ fieldAt (s.track d.idx) 2 1 ≤ 4)
  match d.cluster, d.d2 with
  | some c, some d2 => if live then s.updateTrack d.cfg d.idx c.meas d2 else s.associateBy d.cfg c
  | some c, none => s.associateBy d.cfg c
  | none, _ => if live then s.missTrack d.cfg d.idx else s

/-- R47 at a column boundary: the host writes waiting take effect, then the updates that detection made in the column to the same contexts, before the
host writes came or after. -/
def State.columnTracks (s : State) : State :=
  let l := s.det.recent.filter (fun d => s.hostWaits d.idx) ++ s.det.deferred
  let s := (s.applyHostTracks.setDetLists [] []).each l State.applyDeferred
  s.setDetLists [] []

/-- R249: `ASSOC_FRAME` clears as a new frame begins. -/
def State.clearAssoc (s : State) : State :=
  s.each (s.plan.tracks.entries.filter fun e => bitN (fieldAt e.2 59 1) 0) fun s e => s.setTrack e.1 (setFlag e.2 59 0 false)

end Sys2Proof.Machine
end

