-- ==== Sys2Proof/Machine/ZoneOps.lean ====
section
/-!
DEFINITION. Machine/ZoneOps.lean: safety zones (R251 to R253): checks and swaps of the zone table, results, states and alerts (R372).
-/

namespace Sys2Proof.Machine

/-! ## Alerts (R253, R372) -/

/-- `ZONE_STATE_z.STATE`: 0 OFF, 1 BLIND, 2 CLEAR, 3 OCCUPIED. -/
def State.zoneState (s : State) (i : Nat) : Nat := s.f (Reg.ZONE_STATE i) 1 0

/-- The 24 bytes of an alert of the zone with index i. `ZSEQ` counts it. -/
def State.formAlert (s : State) (i prev : Nat) (byState : Bool) (result frame : Nat) (c : ZoneCount) : List Byte × State :=
  let st := s.zoneState i
  let n := (s.streams.zseq.get 0 i + 1) % 65536
  let b := leBytes 1 (i + 1) ++ leBytes 1 (st + 4 * prev + 16 * b2n (st != prev) + 32 * b2n byState + 64 * result) ++
    leBytes 2 (min 0xFFFF c.hits) ++ leBytes 2 (min 0xFFFF c.short) ++ leBytes 2 (min 0xFFFF c.covering) ++ leBytes 4 frame ++
    leBytes 8 s.time.dev ++ leBytes 2 n ++ leBytes 2 0
  (b, { s with streams := { s.streams with
    zseq := s.streams.zseq.set 0 i n, newestAlert := s.streams.newestAlert.set [] i b } })

/-- A subscription of the safety class starts with the first zone result or list after its reply (R359). -/
def State.startSafety (s : State) (ch : Nat) : State :=
  let u := s.sub ch
  if u.state = 1 then s.setSub ch { u with state := 2, since := s.frameNo } else s

/-- R372: alerts of one frame that are formed at the same instant as the newest packet of a ring join that packet, if there is room. -/
def State.joinAlerts (s : State) (ch frame : Nat) (l : List (List Byte)) : Option State :=
  let u := s.sub ch
  let n := l.flatten.length
  match u.ring.getLast? with
  | some k =>
    if u.alertAt = some s.now ∧ k.kind = 6 ∧ k.frame = frame ∧ k.size + n ≤ 4096 ∧ u.fill + n ≤ s.ringCap u then
      some (s.setSub ch { u with
        fill := u.fill + n, ring := u.ring.dropLast ++ [{ k with records := k.records + l.length, body := k.body ++ l.flatten }] })
    else none
  | none => none

/-- R372: alerts formed together go into the ring of every `ZONES` subscription as one packet. DESIGN CHOICE (log entry 66): a supervisor cycle is an
instant of the model's clock. -/
def State.placeAlerts (s : State) (frame : Nat) (l : List (List Byte)) : State :=
  if l.isEmpty then s
  else
    s.each (s.subList.filter fun ch => (s.sub ch).kind == 6) fun s ch =>
      match s.joinAlerts ch frame l with
      | some s => s
      | none =>
        let s := s.placePkt ch { kind := 6, frame, records := l.length, body := l.flatten }
        s.setSub ch { s.sub ch with alertAt := some s.now }

/-- Enter a state of the zone with index i; `FRAMES` starts again, the sticky flags follow, and OCCUPIED and BLIND are capture triggers (R283). -/
def State.enterZone (s : State) (i st : Nat) : State :=
  if s.zoneState i = st then s
  else
    let s := (s.setF (Reg.ZONE_STATE i) 1 0 st).setF (Reg.ZONE_STATE i) 31 24 0
    if st = 3 then (s.flag Reg.ZONE_FLAGS 0).trigger 2 i s.time.dev
    else if st = 1 then (s.flag Reg.ZONE_FLAGS 1).trigger 2 i s.time.dev
    else s

def State.setRuns (s : State) (i : Nat) (r : Nat × Nat) : State := s.setDet { s.det with runs := s.det.runs.set (0, 0) i r }

/-! ## Results (R252, R253) -/

/-- R252: the result of a zone entry: 1 occupied, 2 blind, 3 clear. -/
def zoneResult (e : List Byte) (c : ZoneCount) : Nat :=
  if fieldAt e 1 1 ≤ c.hits then 1 else if fieldAt e 3 1 * c.covering < 256 * c.short then 2 else 3

/-- R253: the next state from a state, a result and the runs of occupied and clear results that include it. -/
def zoneNext (e : List Byte) (st result occ clr : Nat) : Nat :=
  match result with
  | 1 => if st = 1 ∨ fieldBits e 2 1 3 0 ≤ occ then 3 else st
  | 2 => if 2 ≤ st then 1 else st
  | _ => if st ≠ 2 ∧ fieldBits e 2 1 7 4 ≤ clr then 2 else st

/-- A result of the zone with index i in a frame takes effect and is sent. -/
def State.applyZone (s : State) (i frame : Nat) (e : List Byte) (c : ZoneCount) : State :=
  let prev := s.zoneState i
  if prev = 0 then s
  else
    let r := zoneResult e c
    let q := s.det.runs.get (0, 0) i
    let occ := if r = 1 then q.1 + 1 else 0
    let clr := if r = 3 then q.2 + 1 else 0
    let s := s.setRuns i (occ, clr)
    let s := s.addF (Reg.ZONE_STATE i) 31 24 1
    let s := s.enterZone i (zoneNext e prev r occ clr)
    let s := s.setF (Reg.ZONE_STATE i) 15 8 (min 255 c.hits)
    let s := s.setF (Reg.ZONE_STATE i) 23 16 (if c.covering = 0 then 0 else min 255 (divRoundNat (256 * c.short) c.covering))
    let s := s.each (s.subList.filter fun ch => (s.sub ch).kind == 6) State.startSafety
    let a := s.formAlert i prev false r frame c
    a.2.placeAlerts frame [a.1]

/-- ZONE_RESULT (R252): the zone with index z gets the result of the oldest frame whose detection is complete. -/
def execZoneResult (z : Fin 64) (s : State) : Host.Outcome State Fault Refusal :=
  .next (match s.det.ready.find? fun r => r.2.any (·.zone == z.val + 1) with
    | none => s
    | some (f, l) =>
      match l.find? (·.zone == z.val + 1) with
      | none => s
      | some c =>
        let s := s.setDet { s.det with ready := s.det.ready.map fun r =>
          if r.1 = f then (f, r.2.filter (·.zone != z.val + 1)) else r }
        let s := s.setDet { s.det with ready := s.det.ready.filter fun r => !r.2.isEmpty }
        let e := (s.cfgOf f).zones.get blank32 z
        if !s.dev.emitting ∨ !zoneEn e then s else s.applyZone z f e c)

/-- R253: on leaving SENSING and DEGRADED every enabled zone becomes BLIND; the changes are sent in one packet. -/
def State.blindZones (s : State) : State :=
  let s := s.setDet { s.det with ready := [], counts := [] }
  let on := (List.range 64).filter fun i => s.zoneState i != 0
  let r := on.foldl (fun (a : List (List Byte) × State) i =>
    let prev := a.2.zoneState i
    let s := (a.2.enterZone i 1).setRuns i (0, 0)
    if prev = 1 then (a.1, s)
    else
      let b := s.formAlert i prev true 0 s.frameNo { zone := i + 1 }
      (a.1 ++ [b.1], b.2)) ([], s)
  r.2.placeAlerts s.frameNo r.1

/-! ## The table (R251) -/

/-- The code of the first check an enabled entry fails, 0 if none. -/
def zoneCheck1 (e : List Byte) : Nat :=
  if signed 20 (fieldAt e 8 4) < signed 20 (fieldAt e 4 4) ∨ signed 20 (fieldAt e 16 4) < signed 20 (fieldAt e 12 4) then 1
  else if fieldAt e 22 2 ≤ fieldAt e 20 2 ∨ 25000 < fieldAt e 22 2 then 2
  else if fieldAt e 1 1 = 0 ∨ fieldBits e 2 1 3 0 = 0 ∨ fieldBits e 2 1 7 4 = 0 then 3
  else if fieldBits e 0 1 7 2 ≠ 0 ∨ fieldBits e 4 4 31 20 ≠ 0 ∨ fieldBits e 8 4 31 20 ≠ 0 ∨ fieldBits e 12 4 31 20 ≠ 0 ∨
    fieldBits e 16 4 31 20 ≠ 0 ∨ fieldAt e 24 8 ≠ 0 then 4
  else 0

/-- R251: the first failure of the enabled entries of the shadow bank: code and index. -/
def State.zoneValidate (s : State) : Option (Nat × Nat) :=
  ((s.zoneBank (1 - s.zoneActive)).entries.filterMap fun e =>
    if zoneEn e.2 ∧ zoneCheck1 e.2 ≠ 0 then some (zoneCheck1 e.2, e.1) else none).head?

/-- R251: `ZONE_UNDEFINED` for each zone that an active `SAFETY_ZONE` entry names and no enabled zone holds. -/
def State.undefinedZones (s : State) : State :=
  let named := ((List.range (s.r Reg.SCT_ACTIVE_COUNT)).filterMap fun i =>
    let e := s.sctEntry s.sctActive i
    if fieldAt e 0 1 = 1 then some (fieldAt e 26 2) else none).eraseDups
  s.each (named.filter fun z => !(decide (1 ≤ z ∧ z ≤ 64) && zoneEn (s.zoneEntry (z - 1)))) fun s z =>
    s.raise Ev.ZONE_UNDEFINED .all (leBytes 4 z)

/-- R251: the zone banks swap: states follow the entries. -/
def State.swapZones (s : State) : State :=
  let old := s.zoneActive
  let was := s.zoneBank old
  let now := s.zoneBank (1 - old)
  let s := (s.setF Reg.ZONE_TABLE_STATUS 0 0 (1 - old)).setBit Reg.ZONE_TABLE_STATUS 1 false
  let s := s.setZoneBank old now
  s.each (List.range 64) fun s i =>
    let a := was.get blank32 i
    let b := now.get blank32 i
    if a = b then s
    else if !zoneEn b then (s.enterZone i 0).setRuns i (0, 0)
    else if !zoneEn a then (s.enterZone i 1).setRuns i (0, 0)
    else s.setRuns i (0, 0)

end Sys2Proof.Machine
end

