-- ==== Sys2Proof/Machine/AsmOps.lean ====
section
/-!
DEFINITION. Machine/AsmOps.lean: record assembly (chapter 16): what a column whose detection is complete gives to clusters, zones and
subscriptions, what a frame's end gives, and the packing of records into stream packets (R361 to R371).
-/

namespace Sys2Proof.Machine

/-! ## Frame configuration (R254, R269) -/

/-- Take the configuration of the frame that starts: registers of pages 6 to 8 as in force, tables, and the contexts due. -/
def State.snapFrame (s : State) : State :=
  let regs := s.regs.entries.filter fun e => decide (6 ≤ e.1 / 65536 ∧ e.1 / 65536 ≤ 8)
  let held := s.held.entries.filter fun e => decide (6 ≤ e.1 / 65536 ∧ e.1 / 65536 ≤ 8)
  let t := held.foldl (fun (t : Tbl Word) e => match e.2 with
    | some w => t.set (regReset s.variant e.1) e.1 w
    | none => t) ⟨regs⟩
  let due := (s.plan.tracks.entries.filter fun e => s.trackDue s.frameNo e.1).map (·.1)
  s.setDet { s.det with
    prev := (s.det.cfg :: s.det.prev).take 3
    cfg := { frame := s.frameNo, regs := t, tpl := if s.bit Reg.TPL_STATUS 0 then s.det.tplB else s.det.tplA,
             zones := s.zoneBank s.zoneActive, due, emitting := s.dev.emitting, calib := s.dev == .calibrating } }

/-! ## Completion of a column -/

/-- Whether nothing of a column is left in combs, hives and engines. The chain holds nothing back but reduction blocks (R256). -/
def State.columnDone (s : State) (key : Nat) : Bool :=
  (List.range s.variant.combs).all (fun c =>
    (s.combCol c key).isNone && (s.comb c).ring.all fun r => r.key != key) &&
  s.det.hives.entries.all (fun e => e.2.waiting.all fun w => w.point.key != key) &&
  s.det.engines.entries.all fun e => match e.2 with
    | some j => j.point.key != key
    | none => true

/-- Whether no window of a column is left in a chain. -/
def State.chainDone (s : State) (key : Nat) : Bool := s.det.hives.entries.all fun e => e.2.chain.all fun c => c.key != key

/-! ## Points -/

/-- A point as record assembly sees it: its account, its result, its channel state at the close, and its angles. -/
structure AsmPt where
  ch : Nat
  seg : Nat
  pt : Pt
  res : Option DetPoint
  st : Nat
  az : Int
  el : Int
  est : Bool
  off : Bool

/-- The echoes of a point: none where its channel is not `OK` or its record was dropped (R254). -/
def AsmPt.echoes (a : AsmPt) : List Echo :=
  match a.res with
  | some d => if a.st ≠ 0 ∨ d.drop then [] else d.echoes
  | none => []

/-- Bit i of the export record's flags. -/
def AsmPt.flag (a : AsmPt) (i : Nat) : Bool :=
  match a.res with
  | some d => bitN d.point.flags i
  | none => false

/-- R131, R366: the angles of a point: the means of the stamps of its accumulated shots, else of its planned shots, else the planned
angles with `ANGLE_EST`. The elevation is the measured one at
the segment's centre (R37). -/
def State.asmPt (s : State) (c : ColPlan) (key g n : Nat) (states : List (Nat × Nat)) : AsmPt :=
  let k := ptKey key n
  let p := s.pt k
  let ec := s.fs (Reg.SEG_MAP_B g) 19 0
  let has := p.stamps != 0
  let planned := p.planStamps != 0
  let az := if has then divRound p.azSum p.stamps else if planned then divRound p.azPlan p.planStamps else s.colAz c.column
  let el := if has then divRound p.elSum p.stamps else if planned then divRound p.elPlan p.planStamps else c.voff
  { ch := n, seg := g, pt := p, res := s.det.results.get none k, st := ((states.find? (·.1 == n)).map (·.2)).getD 0,
    az := clampInt (-524288) 524287 az, el := clampInt (-524288) 524287 (el + ec), est := p.angleEst || (!has && !planned), off := c.off.contains g }

/-- R366 to R368: a point record. -/
def AsmPt.record (a : AsmPt) (optDetail : Bool) : List Byte :=
  let es := a.echoes
  let rep := es.take 4
  let p := a.pt
  let detail := decide (p.fired < p.planned) || a.st != 0 || a.off || optDetail
  let e0 : Echo := rep.headD { bin := 0, range := 0, intensity := 0, e16 := 0, yp16 := 0, bs := false }
  let fa := b2n p.short + 2 * b2n a.est + 4 * b2n p.wlAcq + 8 * b2n p.sunRed + 16 * b2n p.blanked
  let fb := b2n e0.bs + 2 * b2n (a.st != 0 || p.notOk) + 4 * b2n p.biasFault + 8 * b2n (p.memErr || a.flag 4) + 16 * b2n p.detDrop
  let fc := b2n (p.evtDrop || a.flag 1) + 2 * b2n (p.calGap || a.flag 2) + 4 * b2n (a.flag 3) + 8 * b2n (a.flag 0 || a.flag 7) +
    16 * b2n (a.flag 6) + 32 * b2n (a.flag 5) + 64 * b2n (a.flag 9)
  let tofs := if p.fired = 0 then 0 else satU 16 (divRound p.tofs (51200 * p.fired))
  let base := leBytes 2 (a.ch + 512 * rep.length + 4096 * min 4 (es.length - rep.length) + 32768 * b2n detail) ++ leBytes 3 e0.range ++
    leBytes 2 e0.intensity ++ leBytes 4 (wrapNat 20 a.az + 2 ^ 20 * min 127 p.planned + 2 ^ 27 * fa) ++
    leBytes 4 (wrapNat 20 a.el + 2 ^ 20 * min 127 p.fired + 2 ^ 27 * fb) ++ leBytes 1 fc
  let det := leBytes 8 (p.refused % 128 + 2 ^ 7 * (p.late % 128) + 2 ^ 14 * (p.withdrawn % 128) + 2 ^ 21 * a.st + 2 ^ 24 * b2n a.off +
    2 ^ 25 * tofs + 2 ^ 41 * min 4095 e0.e16 + 2 ^ 53 * min 2047 e0.yp16)
  let ext (e : Echo) := leBytes 8 (e.range + 2 ^ 24 * e.intensity + 2 ^ 40 * min 4095 e.e16 + 2 ^ 52 * min 2047 e.yp16 + 2 ^ 63 * b2n e.bs)
  base ++ (if detail then det else []) ++ ((rep.drop 1).map ext).flatten

/-- Whether a record is left out under `ECHO_ONLY` (R365). -/
def AsmPt.omitted (a : AsmPt) (opts : Nat) : Bool :=
  bitN opts 1 && a.echoes.isEmpty && !(decide (a.pt.fired < a.pt.planned) || a.st != 0 || a.off || bitN opts 0)

/-- The bytes of an export record (R207). -/
def ExpRec.bytes (r : ExpRec) : List Byte :=
  r.header ++ (r.env.map fun e => leBytes 2 e).flatten ++ (r.wins.map (·.bytes)).flatten

/-! ## Subscriptions of the bulk class -/

/-- Add formed bytes to what a subscription has still to pack. -/
def State.pend (s : State) (ch : Nat) (l : List PendRec) : State :=
  let u := s.sub ch
  s.setSub ch { u with pend := u.pend ++ l }

/-- Whether an active subscription takes frame f (R359). -/
def Sub.takes (u : Sub) (f : Nat) : Bool :=
  u.state == 2 && decide (2 ≤ u.kind ∧ u.kind ≤ 5 ∧ wrapSub 32 f u.since < 2 ^ 31) && f % max 1 u.decimate == 0

/-- The channels that a subscription selects, ascending. -/
def State.subChannels (s : State) (u : Sub) : Nat :=
  (((List.range 64).filter fun g => bitN u.segMask g).map fun g => (s.segChannels g).length).sum

/-- R363: a frame header goes to every bulk subscription that takes the frame, of the reduction blocks or (`red` false) of the other kinds; `POINTS` is
its own, 0 where the frame has no point records. -/
def State.asmFrame (s : State) (f : Nat) (hd : List Byte) (points red : Bool) : State :=
  s.each (s.subList.filter fun ch => (s.sub ch).takes f && ((s.sub ch).kind == 4) == red) fun s ch =>
    let u := s.sub ch
    let calib := bitN (hd.getD 18 0).toNat 2
    let n := if u.kind ≠ 2 then 0xFFFFFFFF else if calib then 0 else if bitN u.opts 1 then 0xFFFFFFFF else if !points then 0
      else (u.lastCol + 1 - u.firstCol) * s.subChannels u
    s.pend ch [{ frame := f, tag := 0, bytes := putBytes hd 24 4 n }]

/-- R364: the column header, with `LAST_PART`, `PART` and `PART_RECORDS` still to be set. -/
def State.colHeader (s : State) (c : ColPlan) (records : Nat) : List Byte :=
  leBytes 2 c.column ++
    leBytes 2 (b2n c.velHold + 2 * b2n c.cut + 4 * b2n c.profLimit + 8 * b2n c.steerErr + 16 * b2n c.edge) ++
    leBytes 8 c.stamp ++ leBytes 2 c.dur ++ leBytes 2 (wrapNat 16 c.voff) ++ leBytes 4 (wrapNat 32 (s.colAz c.column)) ++ leBytes 2 0 ++
    leBytes 2 records

/-- The records that a column gives to one subscription: bytes, and windows lost with dropped points (R365, R369). -/
def asmRecords (k : FrameCfg) (v : Variant) (u : Sub) (pts : List AsmPt) : List (List Byte) × List Nat :=
  match u.kind with
  | 2 => ((pts.filter fun a => !a.omitted u.opts).map fun a => a.record (bitN u.opts 0), [])
  | 3 => (pts.filterMap fun a => match a.res with
      | some d => if d.drop then none else some d.point.bytes
      | none => none,
      pts.filterMap fun a => match a.res with
      | some d => if d.drop then some d.point.size else none
      | none => none)
  | _ => (pts.filterMap fun a => match a.res with
      | some d => d.red.map fun b => redBytes k v d.point b
      | none => none, [])

/-- A column's part of one subscription. -/
def State.asmSub (s : State) (k : FrameCfg) (c : ColPlan) (pts : List AsmPt) (ch : Nat) : State :=
  let u := s.sub ch
  if !u.takes c.frame ∨ 4 < u.kind ∨ c.column < u.firstCol ∨ u.lastCol < c.column then s
  else
    let mine := if k.calib then [] else pts.filter fun a => bitN u.segMask a.seg
    let r := asmRecords k s.variant u mine
    let s := s.each r.2 fun s n => s.countLoss ch 5 1 n
    s.pend ch ({ frame := c.frame, tag := 1, bytes := s.colHeader c r.1.length } ::
      r.1.map fun b => { frame := c.frame, tag := 2, bytes := b })

/-! ## Clusters and zones -/

/-- R245: the echoes of a column join clusters. -/
def State.asmClusters (s : State) (k : FrameCfg) (c : ColPlan) (pts : List AsmPt) : State :=
  if k.f s.variant Reg.DET_CTRL 2 2 = 0 then s
  else
    let s := s.each (pts.filter fun a => !a.pt.blanked) fun s a =>
      s.each (a.echoes.filter (!·.bs)) fun s e =>
        s.clusterEcho c.frame c.sweep { column := c.column, ch := a.ch, range := e.range, az := a.az, el := a.el, intensity := e.intensity,
                                             stamp := c.stamp }
    s.ageClusters c.sweep

/-- R252: a shortfall point. -/
def AsmPt.shortfall (a : AsmPt) (cut : Bool) : Bool :=
  a.pt.short || a.pt.calGap || a.flag 2 || a.flag 3 || a.pt.memErr || a.flag 4 || a.pt.detDrop || a.pt.biasFault || a.st != 0 || cut

/-- R252: a hit point of a zone. -/
def AsmPt.hits (a : AsmPt) (z : List Byte) : Bool :=
  zoneAngles z a.az a.el && a.echoes.any fun e => zoneRange z e.range && (!e.bs || bitN (fieldAt z 0 1) 1)

/-- R252: the counts of a zone with a column's points added. -/
def addZone (l : List ZoneCount) (z hits short covering : Nat) : List ZoneCount :=
  if l.any (·.zone == z) then
    l.map fun c => if c.zone = z then { c with hits := c.hits + hits, short := c.short + short, covering := c.covering + covering } else c
  else l ++ [{ zone := z, hits, short, covering }]

/-- R252: a column's points count in the zones that their segments are covered for. -/
def State.asmZones (s : State) (k : FrameCfg) (c : ColPlan) (pts : List AsmPt) : State :=
  if !k.emitting then s
  else
    s.each ((c.cover.map (·.1)).eraseDups) fun s z =>
      let e := if z = 0 then blank32 else k.zones.get blank32 (z - 1)
      let mine := pts.filter fun a => c.cover.any fun m => m.1 == z && bitN m.2 a.seg
      let counts := if mine.isEmpty then s.det.counts else addZone s.det.counts z (mine.filter fun a => a.hits e).length (mine.filter fun a => a.shortfall c.cut).length mine.length
      s.setDet { s.det with counts }

/-- Forget a column that has been assembled. -/
def State.forgetColumn (s : State) (key : Nat) : State :=
  let inCol (k : Nat) : Bool := k / 512 == key
  let s := s.setCol key none
  let s := { s with plan := { s.plan with pts := ⟨s.plan.pts.entries.filter fun e => !inCol e.1⟩ } }
  s.setDet { s.det with results := ⟨s.det.results.entries.filter fun e => !inCol e.1⟩ }

/-- The points of a column in ascending channel order. -/
def State.asmPts (s : State) (c : ColPlan) (key : Nat) (states : List (Nat × Nat)) : List AsmPt :=
  sortBy (fun a b : AsmPt => decide (a.ch < b.ch)) ((List.range 64).map fun g =>
    (s.segChannels g).map fun n => s.asmPt c key g n states).flatten

/-- A column whose detection is complete: clusters, zones, records. -/
def State.asmColumn (s : State) (key : Nat) (states : List (Nat × Nat)) : State :=
  match s.col key with
  | none => s
  | some c =>
    let k := s.cfgOf c.frame
    let pts := s.asmPts c key states
    let s := if k.calib then s else (s.asmClusters k c pts).asmZones k c pts
    s.each (s.subList.filter fun ch => (s.sub ch).kind != 4) fun s ch => s.asmSub k c pts ch

/-- A column whose windows have left the chain: its reduction blocks (R267), and the column is forgotten. -/
def State.asmReds (s : State) (key : Nat) (states : List (Nat × Nat)) : State :=
  match s.col key with
  | none => s
  | some c =>
    let k := s.cfgOf c.frame
    let pts := s.asmPts c key states
    (s.each (s.subList.filter fun ch => (s.sub ch).kind == 4) fun s ch => s.asmSub k c pts ch).forgetColumn key

/-! ## The end of a frame -/

/-- R370, R371: track records and the protective list. -/
def State.asmTracks (s : State) (f : Nat) : State :=
  let live := s.plan.tracks.entries.filter fun e => fieldAt e.2 2 1 != 0
  let rec_ (e : Nat × List Byte) := trackRecord f e.1 0 e.2
  let ended := s.det.ended.map fun e => trackRecord f e.1 e.2.1 e.2.2
  let s := s.each (s.subList.filter fun ch => (s.sub ch).kind == 5 && (s.sub ch).takes f) fun s ch =>
    let l := if bitN (s.sub ch).opts 2 then live.filter fun e => s.det.changed.contains e.1 else live
    s.pend ch ((l.map rec_ ++ ended).map fun b => { frame := f, tag := 3, bytes := b })
  if (s.cfgOf f).calib then s
  else
    let list := (live.filter fun e => bitN (fieldAt e.2 3 1) 1).map rec_
    let s := { s with streams := { s.streams with newestList := list.flatten } }
    s.each (s.subList.filter fun ch => (s.sub ch).kind == 7) fun s ch =>
      let s := s.startSafety ch
      if list.isEmpty then s.pend ch [{ frame := f, tag := 4, bytes := [] }]
      else s.pend ch (list.map fun b => { frame := f, tag := 3, bytes := b })

/-- The end of frame f: open clusters close, misses are counted, track records are formed, and the zone counts are ready. -/
def State.asmEnd (s : State) (f : Nat) : State :=
  let k := s.cfgOf f
  let l := s.det.clusters
  let s := (s.setDet { s.det with clusters := [] }).each l State.associate
  let s := if k.emitting ∧ k.f s.variant Reg.DET_CTRL 2 2 = 1 then s.missTracks k.due else s
  let s := (s.asmTracks f).clearAssoc
  let ready := if s.det.counts.isEmpty then s.det.ready else s.det.ready ++ [(f, s.det.counts)]
  s.setDet { s.det with ended := [], changed := [], counts := [], ready }

/-- An item leaves the assembly queue for that of the reduction blocks, which follow the chain. -/
def State.passItem (s : State) : State :=
  s.setDet { s.det with items := s.det.items.drop 1, reds := s.det.reds ++ s.det.items.take 1 }

/-- Process what is complete at the front of the assembly queue. -/
def State.assembleN : Nat → State → State
  | 0, s => s
  | n + 1, s =>
    match s.det.items with
    | [] => s
    | .frame f b points :: _ => State.assembleN n (s.passItem.asmFrame f b points false)
    | .endFrame f :: _ => State.assembleN n (s.passItem.asmEnd f)
    | .column key _ closed states :: _ =>
      if closed && s.columnDone key then State.assembleN n (s.passItem.asmColumn key states) else s

/-- Process what is complete at the front of the queue of the reduction blocks. -/
def State.reduceN : Nat → State → State
  | 0, s => s
  | n + 1, s =>
    match s.det.reds with
    | [] => s
    | .frame f b points :: r => State.reduceN n ((s.setDet { s.det with reds := r }).asmFrame f b points true)
    | .endFrame _ :: r => State.reduceN n (s.setDet { s.det with reds := r })
    | .column key _ _ states :: r =>
      if s.chainDone key then State.reduceN n ((s.setDet { s.det with reds := r }).asmReds key states) else s

def State.assemble (s : State) : State :=
  let s := State.assembleN s.det.items.length s
  State.reduceN s.det.reds.length s

/-! ## Packing (R361, R364, R371) -/

/-- The leading records of one tag and frame that fit beside `room` bytes; at most `most`. -/
def takeFit (tag frame : Nat) : Nat → Nat → List PendRec → List PendRec
  | 0, _, _ => []
  | most + 1, room, l =>
    match l with
    | [] => []
    | p :: r => if p.tag = tag ∧ p.frame = frame ∧ p.bytes.length ≤ room then p :: takeFit tag frame most (room - p.bytes.length) r else []

/-- One stream packet from the front of what waits, and what then waits (R361 to R364). Only a reduction block, `kind` 4, is split. -/
def packNext (kind : Nat) : List PendRec → Option (StreamPkt × List PendRec)
  | [] => none
  | p :: r =>
    match p.tag with
    | 0 => some ({ kind := 1, frame := p.frame, records := 1, body := p.bytes }, r)
    | 1 =>
      let l := takeFit 2 p.frame 65536 (4080 - 24) r
      let r1 := r.drop l.length
      let used := (l.map (·.bytes.length)).sum
      let split : List PendRec × List PendRec :=
        match r1 with
        | q :: r2 => if kind = 4 ∧ q.tag = 2 ∧ used + 24 < 4080 then
            ([{ q with bytes := q.bytes.take (4056 - used) }], { q with bytes := q.bytes.drop (4056 - used), first := false } :: r2)
          else ([], r1)
        | [] => ([], r1)
      let body := l ++ split.1
      let more := match split.2 with
        | q :: _ => q.tag == 2
        | [] => false
      let n := (body.filter (·.first)).length
      let h := putBytes p.bytes 2 1 (fieldAt p.bytes 2 1 % 32 + 32 * b2n (!more))
      let h := putBytes (putBytes h 3 1 p.part) 20 2 n
      some ({ kind, cont := (match body with | q :: _ => !q.first | [] => false), frame := p.frame, records := n,
              body := h ++ (body.map (·.bytes)).flatten },
        if more then { p with part := p.part + 1 } :: split.2 else split.2)
    | 4 => some ({ kind, frame := p.frame, records := 0, body := [] }, r)
    | t =>
      let l := p :: takeFit t p.frame (if kind = 7 then 83 else 84) (4080 - p.bytes.length) r
      some ({ kind, frame := p.frame, records := (l.filter (·.first)).length, body := (l.map (·.bytes)).flatten }, r.drop (l.length - 1))

/-- STREAM_PACKET_FORMED (R373): a packet is formed for the subscription of DMA channel `ch` and placed in its ring, or discarded. -/
def execStreamPacketFormed (ch : Fin 32) (s : State) : Host.Outcome State Fault Refusal :=
  let u := s.sub ch
  .next (match packNext u.kind u.pend with
    | some (k, r) => (s.setSub ch { u with pend := r }).placePkt ch k
    | none => s)

end Sys2Proof.Machine
end

