-- ==== Sys2Proof/Machine/SarOps.lean ====
section
/-!
DEFINITION. Machine/SarOps.lean: the SAR group MF0 to MF3 (R107, R294, R295), the angle stamps that shots take from it (R131), and
what a sampled shot gives the wavelength monitor (R109) and the over-emission check (R111).
-/

namespace Sys2Proof.Machine

def State.setAux (s : State) (x : Aux) : State := { s with aux := x }

/-- R294: begin a conversion now, for a shot trigger or (none) a control request. `own` false: the trigger was deferred. -/
def State.startSar (s : State) (trig : Option SarTrig) (own : Bool) (users : List SarTrig) : State :=
  let mux := match trig with
    | some t => t.tile
    | none => s.aux.mux
  let s := s.inc (if trig.isSome then Reg.SAR_SHOT_COUNT else Reg.SAR_CTRL_COUNT)
  s.setAux { s.aux with mux, sar := some { at_ := s.now, tile := mux, own := if own then trig else none, users } }

/-- R295: a shot trigger reaches the SAR group. A sample that is shared is an angle sample only from then on. -/
def State.sarTrigger (s : State) (t : SarTrig) : State :=
  match s.aux.sar with
  | none => s.startSar (some t) true [t]
  | some c =>
    if s.aux.deferred ≠ [] then s.setAux { s.aux with deferred := t :: s.aux.deferred }
    else if s.now < c.at_ + 8 + 250 then
      (s.setAux { s.aux with sar := some { c with own := none, users := c.users ++ [t] } }).inc Reg.SAR_SHARE_COUNT
    else
      ((s.setAux { s.aux with deferred := [t] }).inc Reg.SAR_DEFER_COUNT).flag Reg.AUX_FLAGS 1

/-- SAR_SHOT_TRIGGER (R107): the chosen edge of a drip window was 120 ns ago. -/
def execSarShotTrigger (s : State) : Host.Outcome State Fault Refusal :=
  .next (match s.emit.sarNext with
    | t :: l => if t.at_ ≤ s.now then (s.setEmit { s.emit with sarNext := l }).sarTrigger t else s
    | [] => s)

/-- R301: a shot trigger that falls into the 64 MHz cycle of this instant, or is due. -/
def State.shotTriggerNow (s : State) : Bool := s.emit.sarNext.any fun t => decide (t.at_ * 64 / 1000 ≤ s.now * 64 / 1000)

/-- SAR_CONTROL_REQUEST (R118, R295): 1.0 µs before a position tick of either axis. A busy group is left as it is: the next
sample to complete serves the tick. So does that of a shot trigger in the same 64 MHz cycle (R301). -/
def execSarControlRequest (s : State) : Host.Outcome State Fault Refusal :=
  .next (match s.wag.powerAt with
    | some p =>
      let n := s.wag.ctrlN
      if p + 5000 * n ≤ s.now + 1000 ∧ ¬ s.axesOff then
        let s := s.setWag { s.wag with ctrlN := n + 2 }
        if s.aux.sar.isSome || s.shotTriggerNow then s else s.startSar none false []
      else s
    | none => s)

/-- R131: the angle of axis `a` at the launch of a shot, from a sample or, for a late one, from the profile. -/
def State.shotAngle (s : State) (a : Nat) (theta : Int) (tSample fireAt : Nat) (late : Bool) : Int :=
  if late then
    match pieceAt (s.axis a).pieces (fireAt / 512) with
    | some p => divRound (p.pos (fireAt / 512)) 1000000
    | none => (s.axis a).thRef
  else theta + divRound ((s.axis a).vEst * ((fireAt : Int) - 512 * tSample)) (512 * 64 * 20000)

/-- R131, R366: the shots of a window take their angle stamps; a closed column no longer changes (R19). -/
def State.stampShots (s : State) (thX thY : Int) (tSample : Nat) (late : Bool) (t : SarTrig) : State :=
  s.each t.shots fun s q =>
    if ((s.col q.key).map (·.closed)).getD true then s
    else
      let az := s.shotAngle 0 thX tSample q.fireAt late
      let el := s.shotAngle 1 thY tSample q.fireAt late
      let s := s.when q.fired fun s => s.setAux { s.aux with stamped := ((q.seg, q.fireAt, az, el) :: s.aux.stamped).take 64 }
      s.each q.acc fun s ch =>
        s.modPt (ptKey q.key ch) fun p =>
          if q.fired then
            { p with azSum := p.azSum + az, elSum := p.elSum + el, stamps := p.stamps + 1, angleEst := p.angleEst || late }
          else { p with azPlan := p.azPlan + az, elPlan := p.elPlan + el, planStamps := p.planStamps + 1 }

/-- R366: a shot without its start is not accumulated: it takes its stamp as a planned shot, also where it had it. -/
def State.unstamp (s : State) (q : OpenShot) : State :=
  match s.aux.stamped.find? fun e => e.1 == q.seg && e.2.1 == q.fireAt with
  | some (_, _, az, el) =>
    if ((s.col q.key).map (·.closed)).getD true then s
    else s.each q.acc fun s ch => s.modPt (ptKey q.key ch) fun p => { p with
      azSum := p.azSum - az, elSum := p.elSum - el, stamps := p.stamps - 1, azPlan := p.azPlan + az, elPlan := p.elPlan + el,
      planStamps := p.planStamps + 1 }
  | none =>
    let off := SarTrig.unfired q.seg q.fireAt
    let s := s.setEmit { s.emit with sarNext := s.emit.sarNext.map off }
    s.setAux { s.aux with deferred := s.aux.deferred.map off, sar := s.aux.sar.map fun c => { c with users := c.users.map off } }

/-- R109, R111: what a sampled shot gives: D and A + B to the block of its tile, and the over-emission check. A zero sum gives D no value, a zero
pattern product no quotient: both are free values. -/
def State.sampledShot (s : State) (t : SarTrig) (a b : Nat) : State :=
  let fr := s.fresh
  let s := if a + b = 0 ∨ t.amp = 0 then fr.2 else s
  let d : Int := if a + b = 0 then signed 16 fr.1 else clampInt (-32768) 32767 (divRound (((a : Int) - b) * 32768) (a + b))
  let x := s.wlTile t.tile
  let x := { x with n := x.n + 1, sumD := x.sumD + d, sumA := x.sumA + a + b }
  let full := decide (2 ^ s.ef Reg.EMIT_WL_CTRL 31 28 ≤ x.n)
  let s := s.setWlTile t.tile (if full then { x with n := 0, sumD := 0, sumA := 0, done := some (x.n, x.sumD, x.sumA) } else x)
  let ratio := if t.amp = 0 then fr.1 else (a + b) * 4096 / t.amp
  if s.f (Reg.NORM_MAX t.tile) 15 0 < ratio then s.segFailure 2 (some t.tile) (t.seg % 8) else s

/-- R294: the code of a SAR converter for an input in nV, saturating at `lo` and +32,767. -/
def sarCode (lo v : Int) : Int := clampInt lo 32767 (divRound (v * 32768) 1000000000)

/-- SAR_CONVERSION_DONE (R294): the conversion under way ends; `mf0` to `mf3` are the inputs of MF0 to MF3 in nV. The newest sample serves the position ticks, the
shots of its triggers and, when it is a sampled shot, R109 and R111; a deferred trigger then converts. -/
def execSarConversionDone (mf0 mf1 mf2 mf3 : Int) (s : State) : Host.Outcome State Fault Refusal :=
  .next (match s.aux.sar with
    | none => s
    | some c =>
      if s.now < c.at_ + 500 then s
      else
        let done := c.at_ + 500
        let cx := sarCode (-32768) mf0
        let cy := sarCode (-32768) mf1
        let a := (sarCode 0 mf2).toNat
        let b := (sarCode 0 mf3).toNat
        let angles := wrapNat 16 cx + 65536 * wrapNat 16 cy
        let s := s.setAux { s.aux with sar := none }
        let s := (s.setR Reg.SAR_LAST_ANG angles).setR Reg.SAR_LAST_MON (a + 65536 * b)
        let s := s.setWag { s.wag with sample := some (cx, cy, done) }
        let isLate (t : SarTrig) : Bool := decide (t.fireAt + 512000 < 512 * done)
        let s := if c.users.any isLate then (s.inc Reg.SAR_LATE_COUNT).flag Reg.AUX_FLAGS 2 else s
        let s := s.each c.users fun s t => s.stampShots (s.angleOf 0 cx cy) (s.angleOf 1 cx cy) (c.at_ + 8) (isLate t) t
        let s := match c.own with
          | some t => s.sampledShot t a b
          | none => s
        let s := if s.capOn ∧ s.bit Reg.CAP_CTRL 2 then
            s.capOffer [.angle angles s.now,
                        .item (capWord 6 0 (a + 65536 * b + 2 ^ 32 * c.tile + 2 ^ 35 * b2n c.own.isSome))]
          else s
        match s.aux.deferred with
        | [] => s
        | t :: r => (s.setAux { s.aux with deferred := [] }).startSar (some t) false (t :: r))

end Sys2Proof.Machine
end

