-- ==== Sys2Proof/Machine/MonOps.lean ====
section
/-!
DEFINITION. Machine/MonOps.lean: the delta-sigma converters MA0 to MA3 (R289 to R293) and the RTD converter (R296 to R298)
as operations. Their effects on the thermal policy are added where the policy is defined.
-/

namespace Sys2Proof.Machine

/-! ## MA0 to MA2 -/

def State.setMa (s : State) (m : Nat) (x : MaConv) : State := s.setAux { s.aux with ma := s.aux.ma.set {} m x }

/-- R300: MA0 to MA2 convert from STANDBY to THERMAL_STOP. -/
def State.maRuns (s : State) (m : Nat) : Bool := s.dev.anyState && s.bit (Reg.MA_CFG m) 0

/-- R301: a converter restarts at slot 0. -/
def State.restartMa (s : State) (m : Nat) : State := s.setMa m { at_ := if s.maRuns m then some (8 * s.now) else none }

/-- The channel code of a slot of converter m (R303). -/
def State.maCode (s : State) (m slot : Nat) : Nat := s.f (Reg.MA_SEQ m (slot / 4)) (8 * (slot % 4) + 6) (8 * (slot % 4))

/-- R289: the channel codes that exist. -/
def maCodeOk (c : Nat) : Bool := decide (c ≤ 0x17 ∨ (0x20 ≤ c ∧ c ≤ 0x43))

/-- R290: the order of the filter. -/
def State.maOrder (s : State) (m : Nat) : Nat := 3 + s.f (Reg.MA_CFG m) 2 1

/-- R289: the code of an external input of `nv` nV under a gain of 2^`g`, and whether it saturates. -/
def maQuant (nv : Int) (g : Nat) : Int × Bool :=
  let c := divRound (nv * 2 ^ g * 8388608) 1200000000
  (clampInt (-8388607) 8388607 c, decide (c < -8388607 ∨ 8388607 < c))

/-- R289, R292: the value of internal channel j: 0.1 mV of the reference or a rail in nV, or a temperature in 1/64 °C. The reference stands on the converter's input, and its
value is that of its code at gain 1; the dividers of the rails and the levels of the die sensors keep inside the full scale (DESIGN CHOICE: log entry 96). -/
def intValue (j : Nat) (v : Int) : Nat :=
  if j = 0 then satU 16 (divRound ((maQuant v 0).1 * 12000) 8388608) else if j < 10 then satU 16 (divRound v 100000) else satS 16 v

/-- Publish a word of internal channel j with a status (R291, R292). A code that saturates sets `MA_SAT` (R289). -/
def State.publishInt (s : State) (j : Nat) (v : Int) (status : Nat) : State :=
  let a := Reg.AUX_INT j
  let s := s.when (j == 0 && (maQuant v 0).2) fun s => s.flag Reg.AUX_FLAGS 0
  ((s.setF a 15 0 (intValue j v)).setF a 17 16 status).setF a 31 24 (s.f a 31 24 + 1)

/-- R299: a word whose filter span, in 1/8 ns, holds a sample under `BLANK` is marked with `XBLANK_EN`. -/
def State.maBlanked (s : State) (m span : Nat) : Bool :=
  let inSpan (t : Option Nat) : Bool := (t.map fun t => decide (8 * s.now < t + span)).getD false
  s.bit (Reg.MA_CFG m) 5 && (inSpan (s.aux.heldAt.get none m) || (s.blankOn && inSpan (s.maHeld m)))

/-- R292: nominal voltages of internal channels 0 to 9 in mV. -/
def railNominal (j : Nat) : Nat := [1200, 750, 850, 1050, 500, 1800, 900, 1200, 1800, 3300].getD j 0

/-- R293: a result of supply rail j away from nominal by more than 5 %. The event names each rail at most once in a scan of MA3 (DEDUCED: log entry 97). -/
def State.checkRail (s : State) (j : Nat) (v : Int) : State :=
  let nom : Int := railNominal j * 1000000
  if 1 ≤ j ∧ j ≤ 9 ∧ 20 * (v - nom).natAbs > nom.natAbs then
    let s := s.flag Reg.AUX_SUP_FLAGS (j - 1)
    let s := s.postOnce Rec.SUPPLY j (j % 16 + 16 * min 4095 (divRound v 1000000).toNat)
    if s.aux.supSeen.contains j then s
    else
      (s.setAux { s.aux with supSeen := j :: s.aux.supSeen }).raise Ev.SUPPLY_RANGE .all
        (leBytes 1 j ++ leBytes 1 0 ++ leBytes 2 (intValue j v) ++ leBytes 4 0)
  else s

/-- The status of a word while the reference is bad (R293). -/
def State.refStatus (s : State) (other : Nat) : Nat := if s.aux.refBad then 2 else other

/-- MA_WORD (R289 to R291): converter m has the next settled word of its slot; `v` is the input in nV, for TS0 to TS25 the temperature in
1/64 °C, as the filter yields it with the holds of R299. -/
def execMaWord (m : Fin 3) (v : Filtered) (s : State) : Host.Outcome State Fault Refusal :=
  let x := s.ma m
  let v := v.pick (s.bit (Reg.MA_CFG m) 4) (s.bit (Reg.MA_CFG m) 5)
  .next (match x.at_ with
    | none => s
    | some t =>
      let n := (if x.settled then 1 else s.maOrder m) * s.maWord8 m
      if ¬ s.maRuns m ∨ 8 * s.now < t + n then s
      else
        let c := s.maCode m x.slot
        let last := s.f (Reg.MA_CFG m) 15 12
        let next : MaConv := if last = 0 then { x with at_ := some (t + n), settled := true }
          else { at_ := some (t + n), slot := if last ≤ x.slot then 0 else x.slot + 1 }
        let blanked := s.maBlanked m (s.maOrder m * s.maWord8 m)
        let s := s.setMa m next
        if c ≤ 0x17 then
          let q := maQuant v (s.f (Reg.MA_CFG m) 10 8)
          let a := Reg.AUX_RES c
          let s := if q.2 then s.flag Reg.AUX_FLAGS 0 else s
          let s := (s.setF a 23 0 (wrapNat 24 q.1)).setF a 25 24 (s.refStatus (b2n blanked))
          s.setF a 31 26 (s.f a 31 26 + 1)
        else (s.publishInt (c - 0x20) v (s.refStatus 0)).checkRail (c - 0x20) v)

/-! ## The housekeeping scan of MA3 (R292, R293) -/

/-- R292, R293: MA3 publishes the next channel of its scan. `refOff` says that the reference differs from the independent bandgap by more than 0.5 %: the
words carry `REF_BAD` meanwhile. -/
def State.hkPublish (s : State) (v : Int) (refOff : Bool) : State :=
  let j := s.aux.hkNext
  let s := s.setAux { s.aux with
    hkAt := s.aux.hkAt + 60000, hkNext := if j = 35 then 0 else j + 1, refBad := refOff,
    ts := if 10 ≤ j then s.aux.ts.set none (j - 10) (some v) else s.aux.ts }
  let s := if refOff then s.flag Reg.AUX_FLAGS 5 else s
  let s := (s.publishInt j v (s.refStatus 0)).checkRail j v
  if j = 35 then (s.setAux { s.aux with supSeen := [] }).inc Reg.AUX_SCAN_COUNT else s

/-! ## RTD inputs -/

/-- The connection of input r in force: 0 off, 1 to 3 wires − 1 (R296, R301). -/
def State.rtdWires (s : State) (r : Nat) : Nat := s.ef (Reg.RTD_CFG r) 1 0

def State.rtdSt (s : State) (r : Nat) : Nat := s.f (Reg.RTD_TEMP r) 18 16

/-- R298: 150 °C with a status. -/
def State.setRtd (s : State) (r st temp : Nat) : State := (s.setF (Reg.RTD_TEMP r) 18 16 st).setF (Reg.RTD_TEMP r) 15 0 temp

def temp150 : Nat := 0x2580

/-- R297: the length of a phase in 1/2 ns. -/
def State.rtdPhase2 (s : State) : Nat := 200000 + 3 * s.f Reg.RTD_CTRL 19 0 * 625

/-- R297: the turn of input r begins at t (1/2 ns): its written configuration applies, and an input that is `OPEN` is not converted. -/
def State.beginTurn (s : State) (r t : Nat) : State :=
  let s := s.takeEffect (fun a => a == Reg.RTD_CFG r)
  s.setAux { s.aux with rtd := { input := r, at_ := some t, live := s.rtdSt r != 1 } }

/-- The next enabled input in index order after `r`, or the first. -/
def State.nextInput (s : State) (r : Nat) : Option Nat :=
  ((List.range 8).map fun k => (r + 1 + k) % 8).find? fun q => s.f (Reg.RTD_CFG q) 1 0 != 0

/-- R297, R301: the rotation goes on with the input after `r`, or rests. -/
def State.nextTurn (s : State) (r t : Nat) : State :=
  match s.nextInput r with
  | some q => s.beginTurn q t
  | none => s.setAux { s.aux with rtd := {} }

/-- R300: the RTD converter runs in every state but RESET and BOOT. -/
def State.rtdRuns (s : State) : Bool := s.dev != .reset && s.dev != .boot

/-- R301: the rotation restarts from the lowest enabled input. -/
def State.restartRtd (s : State) : State := if s.rtdRuns then s.nextTurn 7 (2 * s.now) else s

/-- The polynomial of IEC 60751 (R297) for a temperature in 1/6400 °C: resistance over the nominal one, in 10⁻¹⁵ · 6400⁻⁴. -/
def rtdPoly (u : Int) : Int :=
  1000000000000000 * 6400 ^ 4 + 3908300000000 * u * 6400 ^ 3 - 577500000 * u ^ 2 * 6400 ^ 2 -
    (if u < 0 then 4183 * (u - 640000) * u ^ 3 else 0)

/-- The largest temperature code (1/64 °C) from `lo` on whose lower rounding limit, moved by `ofs` 1/6400 °C, does not exceed the resistance; `k`
bits are searched. -/
def rtdSearch (mOhm nominal : Nat) (ofs : Int) : Nat → Int → Int
  | 0, lo => lo
  | k + 1, lo =>
    let c := lo + 2 ^ k
    if rtdPoly (100 * c - 50 + ofs) * nominal ≤ (mOhm : Int) * (1000000000000000 * 6400 ^ 4) then rtdSearch mOhm nominal ofs k c
    else rtdSearch mOhm nominal ofs k lo

/-- R297: the temperature of a resistance, in 1/64 °C, saturating at 0x7FFF. The conversion is exact to ±0.01 °C: where that leaves two codes, `free`
decides. -/
def rtdTemp (mOhm nominal free : Nat) : Int :=
  let lo := rtdSearch mOhm nominal 64 16 (-16384)
  let hi := rtdSearch mOhm nominal (-64) 16 (-16384)
  min 32767 (lo + (free : Int) % (max 0 (hi - lo) + 1))

/-- R297: the resistance of a turn in mΩ, from the voltage (nV) and the reference current (nA) of its phases; with a zero current there is none. -/
def State.rtdOhm (s : State) (r : Nat) (v1 : Int) (i1 : Nat) (v2 : Int) (i2 : Nat) : Option Int :=
  if i1 = 0 ∨ i2 = 0 then none
  else
    let k : Int := if s.rtdWires r = 2 then 2 else 1
    let lead : Int := if s.rtdWires r = 1 then 10 * s.ef (Reg.RTD_CFG r) 19 8 else 0
    some (divRound (1000 * k * (v1 * i2 + v2 * i1)) (2 * i1 * i2) - lead)

/-- R297: publish a turn of input r. -/
def State.publishRtd (s : State) (r : Nat) (v1 : Int) (i1 : Nat) (v2 : Int) (i2 : Nat) : State :=
  let fr := s.fresh
  let s := fr.2
  let nominal : Nat := if s.ef (Reg.RTD_CFG r) 2 2 = 1 then 1000000 else 100000
  let ohm := ((s.rtdOhm r v1 i1 v2 i2).getD (signed 24 fr.1))
  let s := (s.setF (Reg.RTD_RES r) 23 0 (satU 24 ohm)).setF (Reg.RTD_TEMP r) 31 24 (s.f (Reg.RTD_TEMP r) 31 24 + 1)
  if 100 * ohm < 15 * nominal then (s.setRtd r 2 temp150).flag Reg.AUX_FLAGS 4
  else s.setRtd r 0 (satS 16 (rtdTemp ohm.toNat nominal fr.1))

/-- R299: whether `BLANK` with `XBLANK_EN` overlapped the time since `t` (1/2 ns). -/
def State.rtdBlanked (s : State) (t : Nat) : Bool :=
  s.bit Reg.RTD_CTRL 21 && (s.blankOn || match s.aux.blankEnd with
    | some e => decide (t < 2 * e)
    | none => false)

/-- R297: the phase under way ends with the voltage across B and C (nV) and the current through the reference resistor (nA). Answers the input
whose result was published. -/
def State.rtdPhase (s : State) (v : Int) (i : Nat) : Option Nat × State :=
  let x := s.aux.rtd
  match x.at_ with
  | none => (none, s)
  | some t =>
    let e := t + s.rtdPhase2
    if ¬ s.rtdRuns ∨ 2 * s.now < e then (none, s)
    else
      let b := x.blanked || s.rtdBlanked t
      if x.phase = 0 then (none, s.setAux { s.aux with rtd := { x with phase := 1, at_ := some e, first := some (v, i), blanked := b } })
      else if x.live then
        if b then
          let s := if s.rtdSt x.input = 0 ∨ s.rtdSt x.input = 2 then s.setF (Reg.RTD_TEMP x.input) 18 16 3 else s
          (none, s.nextTurn x.input e)
        else
          match x.first with
          | some (v1, i1) => (some x.input, (s.publishRtd x.input v1 i1 v i).nextTurn x.input e)
          | none => (none, s.nextTurn x.input e)
      else (none, s.nextTurn x.input e)

/-- R296: the current of the sources of input r, in nA. -/
def State.rtdExc (s : State) (r : Nat) : Nat := [50000, 100000, 250000, 500000, 750000, 1000000].getD (s.ef (Reg.RTD_CFG r) 6 4) 0

/-- R296, R298: whether the check of an input passes: each source that drives it gives 75 % of `EXC` or more and stays inside its compliance of 1.5 V, and the sense
balls stand between 0.10 and 1.60 V. The second source drives in 3-wire connection only
(DEDUCED: log entry 103). -/
def State.rtdOk (s : State) (x : RtdReading) : Bool :=
  let enough (i : Nat) : Bool := decide (75 * s.rtdExc x.input ≤ 100 * i)
  let inWindow (v : Int) : Bool := decide (100000 ≤ v ∧ v ≤ 1600000)
  enough x.i1 && (enough x.i2 || s.rtdWires x.input != 2) && decide (x.va < 1500000) && inWindow x.vb && inWindow x.vc

/-- R298: the check of input r at a monitoring tick. Answers whether the input became `OPEN`. -/
def State.checkRtd (s : State) (r : Nat) (ok : Bool) : Bool × State :=
  if s.rtdWires r = 0 ∨ ¬ s.rtdRuns then (false, s)
  else if ok then
    if s.rtdSt r = 1 then
      let n := s.aux.rtdPass.get 0 r + 1
      let s := s.setAux { s.aux with rtdPass := s.aux.rtdPass.set 0 r (if n = 4 then 0 else n) }
      (false, if n = 4 then s.setRtd r 4 temp150 else s)
    else (false, s)
  else if s.bit Reg.RTD_CTRL 21 ∧ s.blankOn then (false, s.setAux { s.aux with rtdPass := s.aux.rtdPass.set 0 r 0 })
  else
    let s := s.setAux { s.aux with rtdPass := s.aux.rtdPass.set 0 r 0 }
    if s.rtdSt r = 1 then (false, s)
    else
      let s := if s.aux.rtd.input = r then s.setAux { s.aux with rtd := { s.aux.rtd with live := false } } else s
      let s := ((s.setRtd r 1 temp150).inc (Reg.RTD_BREAKS r)).flag Reg.AUX_FLAGS 3
      (true, (s.raise Ev.RTD_OPEN .all (leBytes 4 r)).post Rec.RTD_OPEN r)

/-- R301: a write to `RTD_CFG_r`. `WIRES` = 0 turns the sources off at once; another value waits for the input's next turn. -/
def State.rtdCfgWritten (s : State) (r : Nat) : State :=
  if s.f (Reg.RTD_CFG r) 1 0 = 0 then
    let s := s.takeEffect (fun a => a == Reg.RTD_CFG r)
    let s := if s.aux.rtd.input = r then s.setAux { s.aux with rtd := { s.aux.rtd with live := false } } else s
    (s.setRtd r 4 temp150).setAux { s.aux with rtdPass := s.aux.rtdPass.set 0 r 0 }
  else if s.aux.rtd.at_.isNone ∧ s.rtdRuns then s.nextTurn 7 (2 * s.now)
  else s

end Sys2Proof.Machine
end

