-- ==== Sys2Proof/Machine/BootDir.lean ====
section
/-!
DEFINITION. Machine/BootDir.lean: the boot directory (R432) and the rules of trial boots (R438).
-/

namespace Sys2Proof.Machine

def State.setBoot (s : State) (x : Boot) : State := { s with boot := x }

def State.setFlash (s : State) (x : Flash) : State := s.setBoot { s.boot with flash := x }

/-- R432: the valid record with the higher `SEQ`; with none valid both kinds have slot A active and confirmed. -/
def Flash.dir (f : Flash) : DirRec :=
  match f.dir0, f.dir1 with
  | some a, some b => if a.seq < b.seq then b else a
  | some a, none => a
  | none, some b => b
  | none, none => {}

/-- R432: a new record is written over the other copy, with the next `SEQ`. -/
def Flash.putDir (f : Flash) (r : DirRec) : Flash :=
  let r : DirRec := { r with seq := f.dir.seq + 1 }
  let zero : Bool := match f.dir0, f.dir1 with
    | some a, some b => decide (a.seq < b.seq)
    | some _, none => false
    | none, _ => true
  if zero then { f with dir0 := some r } else { f with dir1 := some r }

/-- R438 for firmware: a slot on trial that was tried twice is left for the other; otherwise the try is counted. The second component says that it was reverted. -/
def DirRec.tryFw (r : DirRec) : DirRec × Bool :=
  if !r.fwTrial then (r, false)
  else if 2 ≤ r.fwTries then ({ r with fwActive := 1 - r.fwActive, fwTrial := false }, true)
  else ({ r with fwTries := r.fwTries + 1 }, false)

/-- R438 for configuration. -/
def DirRec.tryCfg (r : DirRec) : DirRec × Bool :=
  if !r.cfgTrial then (r, false)
  else if 2 ≤ r.cfgTries then ({ r with cfgActive := 1 - r.cfgActive, cfgTrial := false }, true)
  else ({ r with cfgTries := r.cfgTries + 1 }, false)

/-- Step 2 of R437: the directory is read, the trial rules are applied, the boot is counted, and the directory is written. The two components say
what was reverted. -/
def State.beginBoot (s : State) : State × Bool × Bool :=
  let f := s.boot.flash
  let a := f.dir.tryFw
  let b := a.1.tryCfg
  let r : DirRec := { b.1 with bootCount := f.dir.bootCount + 1 }
  (s.setFlash (f.putDir r), a.2, b.2)

/-- Step 2 of R437 with its flags and what the directory then shows of the boot. -/
def State.bootDirectory (s : State) : State × Bool × Bool :=
  let bad := s.boot.flash.dir0.isNone || s.boot.flash.dir1.isNone
  let r := s.beginBoot
  let s := (r.1.when bad fun s => s.flag Reg.BOOT_FLAGS 0).when (r.2.1 || r.2.2) fun s => s.flag Reg.BOOT_FLAGS 2
  (s.setR Reg.BOOT_COUNT s.boot.flash.dir.bootCount, r.2.1, r.2.2)

/-- R437, R438: a boot that ends before `BOOT_DONE` ran its sequence, by a reset or in FAULT_HALT. Step 2 takes at most 5 ms: after that the directory was written, before
it either may have happened (a free value). -/
def State.cutBoot (s : State) : State :=
  if s.dev ≠ .boot ∨ s.r Reg.BOOT_COUNT ≠ 0 then s
  else if 5000000 ≤ s.now then s.bootDirectory.1
  else
    let fr := s.fresh
    if fr.1 % 2 = 1 then fr.2.bootDirectory.1 else fr.2

/-- R450, R440: fuse programming of an enrolment is cut: the owner key hash either counts or does not (a free value). -/
def State.cutFuses (s : State) : State :=
  match s.boot.enroll with
  | none => s
  | some e =>
    let fr := s.fresh
    let s := fr.2.setBoot { fr.2.boot with enroll := none }
    if fr.1 % 2 = 1 then
      (s.setBoot { s.boot with fuses := { s.boot.fuses with ownerHash := some (s.boot.fuses.ownerHash.getD e.2) } }).setBit Reg.BOOT_STATUS 6 true
    else s

/-- R453: `BOOT_COUNT` of the directory modulo 16, as the boot under way leaves it: from the end of step 2 on it is counted. -/
def State.bootTag (s : State) : Nat :=
  (if s.r Reg.BOOT_COUNT ≠ 0 then s.r Reg.BOOT_COUNT
   else s.boot.flash.dir.bootCount + b2n (s.dev == .boot && decide (5000000 ≤ s.now))) % 16

end Sys2Proof.Machine
end

