-- ==== Sys2Proof/Machine/RecOps.lean ====
section
/-!
DEFINITION. Machine/RecOps.lean: the Stolost recorder (chapter 20): the writer, flushes and their slots, erasure, and the bytes of
ring and slots as a reader sees them.
-/

namespace Sys2Proof.Machine

def State.setRec (s : State) (x : Recorder) : State := { s with recorder := x }

/-! ## Entries -/

/-- The highest `SEQ` in the ring and in the slots among entries that pass their check word (R455). -/
def maxSeq (l : List RecEntry) : Nat := (l.map fun e => if e.ok then e.seq else 0).foldl max 0

def RecSlot.seqs (x : RecSlot) : List RecEntry := x.entries.entries.map (·.2)

/-- *Flushed*: the highest `SEQ` in any slot (R458). -/
def State.recFlushed (s : State) : Nat := maxSeq (s.recorder.slots.entries.flatMap fun e => e.2.seqs)

/-- The ring's entries. -/
def State.ringEntries (s : State) : List RecEntry := s.recorder.ring.entries.filterMap (·.2)

/-- R455: the scan of the ring and the slots: the `SEQ` that it continues from. -/
def State.recScan (s : State) : Nat := max (maxSeq s.ringEntries) s.recFlushed + 1

/-- The `SEQ` that the next entry takes (R455). The register holds what the scan found as the NL5 left RESET; it is 0 only in `State.reset`, whose ring and slots are empty. -/
def State.recNext (s : State) : Nat := if s.r Reg.REC_NEXT_SEQ = 0 then s.recScan else s.r Reg.REC_NEXT_SEQ

/-! ## The pages of a flush (R459, R460) -/

/-- The flash part programs a page in 0.7 ms (R460). -/
def pageNs : Nat := 700000

/-- The entry pages of a flush. -/
def RecFlush.pages (f : RecFlush) : Nat := (f.last + 1 - f.first + 15) / 16

/-- The lowest `SEQ` in the newest `n` pages. -/
def RecFlush.from (f : RecFlush) (n : Nat) : Nat := f.first + 16 * (f.pages - min f.pages n)

/-- The entries in the newest `n` pages. -/
def RecFlush.newest (f : RecFlush) (n : Nat) : List RecEntry := f.copy.filter fun e => decide (f.from n ≤ e.seq)

/-- The pages that the running flush has programmed. -/
def State.pagesDone (s : State) (f : RecFlush) : Nat :=
  match f.begun with
  | some t => (s.now - t) / pageNs
  | none => 0

/-- The pages that the running flush has programmed or is programming. -/
def State.pagesBegun (s : State) (f : RecFlush) : Nat := if f.begun.isSome then s.pagesDone f + 1 else 0

/-- R458, R459: a flush straight from the ring loses the entry `n`, overtaken or failing its check, where it lies in a page not yet begun. -/
def State.overtake (s : State) (n : Nat) : State :=
  s.setRec { s.recorder with flush := s.recorder.flush.map fun f =>
    if f.direct then { f with copy := f.copy.filter fun e => e.seq != n || decide (f.from (s.pagesBegun f) ≤ n) } else f }

/-- Write one entry (R453, R454). -/
def State.writeRec (s : State) (code arg timeUs : Nat) : State :=
  let n := s.recNext
  let e : RecEntry := { seq := n, timeUs, code, state := s.dev.code, bootTag := s.bootTag, arg }
  let s := s.when (decide (4096 ≤ n)) fun s => s.overtake (n - 4096)
  (s.setRec { s.recorder with ring := s.recorder.ring.set none (n % 4096) (some e) }).setR Reg.REC_NEXT_SEQ ((n + 1) % 2 ^ 32)

/-- Bits [47:32] of device time in µs (R456). -/
def State.highNow (s : State) : Nat := toUs s.time.dev / 2 ^ 32 % 65536

/-- R456: a `TIME_HIGH` entry. -/
def State.writeHigh (s : State) : State :=
  (s.setRec { s.recorder with highUs := s.highNow }).writeRec Rec.TIME_HIGH s.highNow s.timeUs

/-- R454: the next entry written after a drop says how many were dropped. -/
def State.writeLost (s : State) : State :=
  (s.setRec { s.recorder with dropped := 0 }).writeRec Rec.LOST (min 65535 s.recorder.dropped) s.timeUs

/-- R454: the recorder writer takes the next entry of the queue, or first says how many were dropped. -/
def State.recWriter (s : State) : State :=
  if s.recorder.dropped ≠ 0 then s.writeLost
  else
    match s.recorder.queue with
    | [] => s
    | p :: q =>
      let s := (s.setRec { s.recorder with queue := q }).writeRec p.code p.arg p.timeUs
      if p.code = Rec.BOOT ∨ p.code = Rec.TIME_STEP then s.writeHigh else s

/-- RECORDER_POST (R454): a source posts an entry. -/
def execRecorderPost (code : BitVec 8) (arg : BitVec 16) (s : State) : Host.Outcome State Fault Refusal :=
  .next (if s.dev = .reset then s else s.post code.toNat arg.toNat)

/-- RECORDER_WRITE (R454). -/
def execRecorderWrite (s : State) : Host.Outcome State Fault Refusal := .next (if s.dev = .reset then s else s.recWriter)

/-- TIME_HIGH_CHANGE (R456). -/
def execTimeHighChange (s : State) : Host.Outcome State Fault Refusal :=
  .next (if s.dev = .reset ∨ s.highNow = s.recorder.highUs then s else (s.when (s.recorder.dropped != 0) State.writeLost).writeHigh)

/-- Write everything that waits in the queue. -/
def State.drainRec : Nat → State → State
  | 0, s => s
  | n + 1, s => if s.recorder.queue.isEmpty ∧ s.recorder.dropped = 0 then s else State.drainRec n s.recWriter

/-! ## Slots (R459, R461) -/

def State.recSlot (s : State) (k : Nat) : RecSlot := s.recorder.slots.get {} k

def State.setRecSlot (s : State) (k : Nat) (x : RecSlot) : State :=
  s.setRec { s.recorder with slots := s.recorder.slots.set {} k x }

/-- The slot that a follow-up passes over: the one that the cut flush wrote (R460). -/
def State.cutSlot (s : State) : Option Nat := (s.recorder.followUp.map (·.2)).getD none

/-- R459: the next slot: a blank one, else the one with the lowest `FLUSH_SEQ`, in index order among equals. A slot without a valid header counts as
the lowest; the slot of a running flush and, for the follow-up, that of the cut flush are passed over (R460). -/
def State.nextSlot (s : State) : Nat :=
  let l := (List.range 8).filter fun k => s.cutSlot != some k && s.recorder.flush.map (·.slot) != some k
  match l.find? fun k => (s.recSlot k).blank with
  | some k => k
  | none =>
    let seqOf (k : Nat) : Nat := match (s.recSlot k).header with
      | some h => h.flushSeq + 1
      | none => 0
    l.foldl (fun best k => if seqOf k < seqOf best then k else best) (l.headD 0)

/-- The rank of a trigger (R458), 1 highest. -/
def trigRank (t : Nat) : Nat :=
  match t with
  | 2 => 1 | 4 => 2 | 3 => 3 | 5 => 4 | 1 => 5 | 6 => 6 | _ => 7

/-- `REC_STATUS` and `REC_FLUSHED_SEQ` as they stand (R466, R467). -/
def State.syncRec (s : State) : State :=
  let r := s.recorder
  let st := if r.erasing.isSome then 2 else if r.flush.isSome then 1 else if r.followUp.isSome || !r.triggers.isEmpty then 3 else 0
  let k := s.nextSlot
  ((s.setF Reg.REC_STATUS 1 0 st).setF Reg.REC_STATUS 5 2 (k + 8 * b2n (s.recSlot k).blank)).setR Reg.REC_FLUSHED_SEQ s.recFlushed

/-- Whether flash may be programmed for other than the flush of the stop (R415, R416). -/
def State.flashFree (s : State) : Bool := s.dev != .thermalStop && !s.sys.hardStop

/-- R442: whether a flash write other than a flush or the directory's may begin: none is under way that is served before it. -/
def State.flashIdle (s : State) : Bool := s.flashFree && s.recorder.flush.isNone

/-- T_pol 1.0 s ago, by the history of its changes; with a shorter history, its oldest value. -/
def State.tPolBefore (s : State) : Int :=
  match s.cal.tpol.find? fun e => decide (e.1 + 1000000000 ≤ s.now) with
  | some e => e.2
  | none => ((s.cal.tpol.getLast?).map (·.2)).getD 0

/-- R415: whether the flush of an orderly stop may start: T_pol + s × 20 ms < 135 °C, s the rise per second over the last 1.0 s. -/
def State.stopFlushOk (s : State) : Bool :=
  let t := ((s.cal.tpol.head?).map (·.2)).getD 0
  decide (50 * t + (t - s.tPolBefore) < 135 * 64 * 50)

/-- Whether a flush may start: always but in THERMAL_STOP, where R415 and the 20 ms from the stop bound it (R460), and after a hard shut-down (R416). -/
def State.flushMay (s : State) : Bool :=
  if s.dev = .thermalStop then decide (s.now < s.recorder.stopEnd) && s.recorder.followUp.isNone && s.stopFlushOk && !s.sys.hardStop
  else !s.sys.hardStop

/-- R460: when the budget of a flush that starts now ends: in THERMAL_STOP 20 ms from the stop, in BOOT 20 ms from now. -/
def State.flushBudget (s : State) : Option Nat :=
  match s.dev with
  | .thermalStop => some s.recorder.stopEnd
  | .boot => some (s.now + 20000000)
  | _ => none

/-- R458: start a flush with its `FLUSH` entry, for a trigger that came in a state at a device time; with a budget, no erase is made and a slot not blank makes it wait as a
follow-up (R461). With DRAM not available it programs straight from the ring. -/
def State.startFlush (s : State) (trig st time : Nat) : State :=
  let s := State.drainRec 64 s
  let slot := s.nextSlot
  let s := s.writeRec Rec.FLUSH (trig + 16 * slot) s.timeUs
  let last := s.recNext - 1
  let new := last - s.recFlushed
  let f0 := last + 1 - min last (min 4080 (max 256 new))
  let first := match s.recorder.followUp with
    | some f => max (min f.1 f0) (last + 1 - min last 4080)
    | none => f0
  let blank := (s.recSlot slot).blank
  if blank = false ∧ s.flushBudget.isSome then
    (s.setRec { s.recorder with followUp := some (first, none) }).syncRec
  else
    let copy := sortBySeq (s.ringEntries.filter fun e => e.ok && decide (first ≤ e.seq ∧ e.seq ≤ last))
    let fl : RecFlush := {
      slot, trigger := trig, first, last, state := st, time, copy, budget := s.flushBudget, direct := !s.boot.dramUp
      begun := if blank then some s.now else none }
    let s := s.setRec { s.recorder with
      flush := some fl, followUp := none, erasing := if blank then s.recorder.erasing else some slot
      cmdWaits := s.recorder.cmdWaits || s.recorder.cmdNext, cmdNext := false }
    (if blank then s else s.flag Reg.REC_FLAGS 2).syncRec
where
  /-- Entries in order of `SEQ`. -/
  sortBySeq (l : List RecEntry) : List RecEntry := l.foldr ins []
  ins (e : RecEntry) : List RecEntry → List RecEntry
    | [] => [e]
    | a :: r => if e.seq ≤ a.seq then e :: a :: r else a :: ins e r

/-- R458, R465: a flush trigger. During a flush, or while none may start, it waits for the follow-up. -/
def State.flushTrigger (s : State) (trig : Nat) : State :=
  if s.recorder.flush.isSome ∨ ¬ s.flushMay then
    (s.setRec { s.recorder with triggers := (trig, s.dev.code, s.time.dev) :: s.recorder.triggers }).syncRec
  else s.startFlush trig s.dev.code s.time.dev

/-- R415: the flush of an orderly stop that waited and now fails its test is not made. -/
def State.skipStop (s : State) : State :=
  if s.dev = .thermalStop ∧ s.now < s.recorder.stopEnd ∧ ¬ s.stopFlushOk ∧ s.recorder.triggers.any (·.1 == 4) then
    (s.setRec { s.recorder with triggers := s.recorder.triggers.filter (·.1 != 4) }).flag Reg.THERM_FLAGS 4
  else s

/-- R460, R465: the follow-up that a flush owes, once one may start: for entries above its range, with the highest-ranked trigger
pending, or for what a cut left. -/
def State.flushPump (s : State) : State :=
  if s.recorder.flush.isSome then s
  else
    let s := s.skipStop
    if !s.flushMay then s
    else
      match s.recorder.triggers with
      | [] => if s.recorder.followUp.isSome then s.startFlush 7 s.dev.code s.time.dev else s
      | t :: ts =>
        let best := ts.foldl (fun a b => if trigRank b.1 < trigRank a.1 then b else a) t
        let s := s.setRec { s.recorder with triggers := [] }
        if s.recFlushed < s.recNext - 1 ∨ s.recorder.queue ≠ [] ∨ s.recorder.followUp.isSome then s.startFlush best.1 best.2.1 best.2.2
        else if s.recorder.cmdNext then (s.setRec { s.recorder with cmdNext := false }).finish Op.RECORDER_FLUSH Sts.OK 0
        else s

/-- R461: the background erase of the next slot, behind every other flash write. -/
def State.startErase (s : State) : State :=
  if s.recorder.erasing.isSome ∨ ¬ s.flashIdle ∨ (s.recSlot s.nextSlot).blank ∨ s.cal.save.isSome ∨ s.dev == .faultHalt then s.syncRec
  else (s.setRec { s.recorder with erasing := some s.nextSlot }).syncRec

/-- R463: the report of a flush that ended, or was cut. -/
def State.flushReport (s : State) (f : RecFlush) (cut : Bool) (written : Nat) : State :=
  let s := ((s.setF Reg.REC_LAST_FLUSH 2 0 f.slot).setF Reg.REC_LAST_FLUSH 7 4 f.trigger).setF Reg.REC_LAST_FLUSH 27 16 written
  let s := s.raise Ev.RECORDER_FLUSHED .all
    (leBytes 1 f.slot ++ leBytes 1 f.trigger ++ leBytes 1 (b2n (!cut) + 2 * b2n cut) ++ leBytes 1 0 ++ leBytes 4 f.first ++
      leBytes 4 f.last ++ leBytes 4 written)
  if s.recorder.cmdWaits then (s.setRec { s.recorder with cmdWaits := false }).finish Op.RECORDER_FLUSH Sts.OK 0 else s

/-- The entries of a slot by unit: entry `first` + i at unit 16 + i (R459, R464). -/
def placeEntries (first : Nat) (l : List RecEntry) (t : Tbl RecEntry) : Tbl RecEntry :=
  l.foldl (fun t e => ⟨insertL (16 + (e.seq - first)) e t.entries⟩) t

/-- The highest `FLUSH_SEQ` in a header. -/
def State.flushSeq (s : State) : Nat :=
  (s.recorder.slots.entries.map fun e => match e.2.header with
    | some h => h.flushSeq
    | none => 0).foldl max 0

/-- A flush ends with all its pages and its header programmed (R459, R462, R463). -/
def State.flushDone (s : State) (f : RecFlush) : State :=
  let missing := f.last + 1 - f.first - f.copy.length
  let h : RecHeader := { flushSeq := s.flushSeq + 1, first := f.first, last := f.last, trigger := f.trigger, state := f.state,
                         time := f.time, missing }
  let s := s.setRecSlot f.slot { blank := false, header := some h, entries := placeEntries f.first f.copy ⟨[]⟩ }
  let s := s.setRec { s.recorder with flush := none }
  let s := s.inc Reg.REC_FLUSH_COUNT
  let s := if missing ≠ 0 then s.flag Reg.REC_FLAGS 4 else s
  let s := if f.trigger = 6 then s.flag Reg.BOOT_FLAGS 4 else s
  ((s.flushReport f false f.copy.length).flushPump).startErase

/-- The slot of a flush after its newest `n` pages, without a header; a page whose programming was abandoned holds entries that fail their check words. -/
def RecFlush.slotAt (f : RecFlush) (n : Nat) (torn : Bool) : RecSlot :=
  let l := if torn then (f.newest (n + 1)).map fun e => if f.from n ≤ e.seq then e else { e with ok := false } else f.newest n
  { blank := l.isEmpty, header := none, entries := placeEntries f.first l ⟨[]⟩ }

/-- A flush is cut by its budget with `pages` entry pages, newest first, programmed (R460). One that still waits for the erase of its slot has programmed none. -/
def State.flushCut (s : State) (f : RecFlush) (pages : Nat) : State :=
  let n := if f.begun.isSome then pages else 0
  let s := s.when f.begun.isSome fun s => s.setRecSlot f.slot (f.slotAt n false)
  let s := s.setRec { s.recorder with flush := none, followUp := some (f.first, if n = 0 then none else some f.slot) }
  let s := s.flag Reg.REC_FLAGS 1
  ((s.flushReport f true (if n = 0 then 0 else (f.newest n).length)).flushPump).startErase

/-- RECORDER_FLUSH_DONE (R459, R462, R463): the flush has programmed its pages and its header. -/
def execRecorderFlushDone (s : State) : Host.Outcome State Fault Refusal :=
  .next (match s.recorder.flush with
    | none => s
    | some f => if f.begun.isNone then s else s.flushDone f)

/-- RECORDER_FLUSH_BUDGET (R460): the flush's budget ends. `pages` is how many entry pages, newest first, were programmed. -/
def execRecorderFlushBudget (pages : Nat) (s : State) : Host.Outcome State Fault Refusal :=
  .next (match s.recorder.flush with
    | none => s
    | some f =>
      match f.budget with
      | none => s
      | some b => if s.now < b then s else s.flushCut f pages)

/-- RECORDER_ERASE_DONE (R461): the erase of the next slot completes; a flush that waited for it starts programming. -/
def execRecorderEraseDone (s : State) : Host.Outcome State Fault Refusal :=
  .next (match s.recorder.erasing with
    | none => s
    | some k =>
      let s := s.setRecSlot k {}
      (s.setRec { s.recorder with
        erasing := none, flush := s.recorder.flush.map fun f => if f.slot = k then { f with begun := some s.now } else f }).syncRec)

/-- A slot whose erase was abandoned: nothing in it passes its check. -/
def RecSlot.spoilt (x : RecSlot) : RecSlot :=
  { blank := false, header := none, entries := ⟨x.entries.entries.map fun e => (e.1, { e.2 with ok := false })⟩ }

/-- R416, R462: a hard shut-down or a loss of power abandons a flush and an erase: what the flush programmed has no header, the page in progress fails its check. -/
def State.abandonFlush (s : State) : State :=
  let s := match s.recorder.flush with
    | none => s
    | some f => s.when f.begun.isSome fun s => s.setRecSlot f.slot (f.slotAt (s.pagesDone f) true)
  let s := match s.recorder.erasing with
    | none => s
    | some k => s.setRecSlot k (s.recSlot k).spoilt
  (s.setRec { s.recorder with flush := none, triggers := [], followUp := none, erasing := none }).syncRec

/-! ## Bytes (R453, R459, R464) -/

/-- The 16 bytes of an entry; one whose check word fails has bytes of its own. -/
def State.entryBytes (s : State) (k : Nat) (e : RecEntry) : List Byte :=
  if e.ok then
    let b := leBytes 4 e.seq ++ leBytes 4 e.timeUs ++ leBytes 1 e.code ++ leBytes 1 (e.state + 16 * e.bootTag) ++ leBytes 2 e.arg
    b ++ leBytes 4 (crc32c b)
  else (List.range 16).map fun i => Config.freeByte s.freeCtr (16 * k + i)

/-- The 32 bytes of a slot header. -/
def RecHeader.bytes (h : RecHeader) : List Byte :=
  let b := leBytes 4 h.flushSeq ++ leBytes 4 h.first ++ leBytes 4 h.last ++ leBytes 1 h.trigger ++ leBytes 1 h.state ++ leBytes 2 0 ++
    leBytes 8 h.time ++ leBytes 4 h.missing
  b ++ leBytes 4 (crc32c b)

/-- Slot k as it stands: of one under programming, the pages programmed so far (R464). -/
def State.slotNow (s : State) (k : Nat) : RecSlot :=
  match s.recorder.flush with
  | some f => if f.slot = k ∧ f.begun.isSome then f.slotAt (s.pagesDone f) false else s.recSlot k
  | none => s.recSlot k

/-- Unit u of the ring, or of slot k (R464). An index of the ring that no entry was written to holds bytes that nothing fixes. -/
def State.recUnit (s : State) (source u : Nat) : List Byte :=
  if source = 0 then
    match s.recorder.ring.get none u with
    | some e => s.entryBytes u e
    | none => (List.range 16).map fun i => Config.freeByte s.freeCtr (16 * u + i)
  else
    let x := s.slotNow (source - 1)
    match lookupL x.entries.entries u with
    | some e => s.entryBytes u e
    | none => match x.header with
      | some h => if u < 2 then bytesAt h.bytes (16 * u) 16 else List.replicate 16 0xFF
      | none => List.replicate 16 0xFF

end Sys2Proof.Machine
end

