-- ==== Sys2Proof/Machine/ThermOps.lean ====
section
/-!
DEFINITION. Machine/ThermOps.lean: temperature (R409 to R419): sensors and their breaks, T_pol, the throttle, and the compensation of interpolators,
SiPM bias and crystal.
-/

namespace Sys2Proof.Machine

def State.setCal (s : State) (x : Cal) : State := { s with cal := x }

/-- The last MA3 result of TS i (R409). -/
def State.ts (s : State) (i : Nat) : Option Int := s.aux.ts.get none i

/-- R410: a broken die sensor. -/
def State.tsBroken (s : State) (i : Nat) : Bool := s.bit Reg.THERM_BROKEN i

/-- The comb temperature of comb c (R409). -/
def State.combTemp (s : State) (c : Nat) : Int := (s.ts (c / 2)).getD 0

/-- R410: whether the newest result of TS i breaks it: outside −55 to +175 °C, or, for a logic-die sensor, more than 20 K from the mean of all
other logic-die sensors that are not broken. -/
def State.breaks (s : State) (i : Nat) : Bool :=
  match s.ts i with
  | none => false
  | some t =>
    let others := ((List.range 24).filter fun k => k != i && !s.tsBroken k).filterMap s.ts
    decide (t < -55 * 64 ∨ 175 * 64 < t) ||
      (decide (i < 24) && !others.isEmpty && decide (20 * 64 * others.length < (others.length * t - others.sum).natAbs))

/-- R410: a sensor is found broken. -/
def State.checkBroken (s : State) (i : Nat) : State :=
  if s.tsBroken i ∨ ¬ s.breaks i then s
  else ((s.setBit Reg.THERM_BROKEN i true).flag Reg.THERM_FLAGS 3).post Rec.SENSOR_BROKEN i

def temp150i : Int := 9600

/-- The policy readings with their sources (R411, R412): die sensors 0 to 25, RTD r as 26 + r. -/
def State.policyReadings (s : State) : List (Int × Nat) :=
  let die := (List.range 26).filterMap fun i =>
    if s.tsBroken i then some (temp150i, i) else (s.ts i).map fun t => (t, i)
  let rtd := ((List.range 8).filter fun r => s.bit (Reg.THERM_RTD r) 0).map fun r =>
    let st := s.rtdSt r
    (if st = 0 ∨ st = 3 then clampInt (-32768) 32767 (s.fs (Reg.RTD_TEMP r) 15 0 + s.fs (Reg.THERM_RTD r) 31 16) else temp150i, 26 + r)
  die ++ rtd

/-- T_pol and its source (R412): the largest reading, the first among equals. -/
def State.tPol (s : State) : Option (Int × Nat) :=
  match s.policyReadings with
  | [] => none
  | a :: l => some (l.foldl (fun m x => if m.1 < x.1 then x else m) a)

/-- R414: every reading lies below 105 °C. -/
def State.coolEnough (s : State) : Bool := s.policyReadings.all fun x => decide (x.1 < 105 * 64)

/-- R413: θ in 1/800 for T_pol in 1/64 °C. -/
def thetaOf (t : Int) : Nat := if t ≤ 115 * 64 then 800 else max 160 (800 - (t - 7360)).toNat

/-- R412: T_pol is recomputed and reported. -/
def State.reportTpol (s : State) (t : Int) (src : Nat) : State :=
  let s := (s.setF Reg.THERM_STATUS 15 0 (satS 16 t)).setF Reg.THERM_STATUS 21 16 src
  let s := if s.fs Reg.THERM_PEAK 15 0 < t then (s.setF Reg.THERM_PEAK 15 0 (satS 16 t)).setF Reg.THERM_PEAK 21 16 src else s
  let keep : List (Nat × Int) := match s.cal.tpol.find? fun e => decide (e.1 + 1000000000 ≤ s.now) with
    | some old => (s.cal.tpol.filter fun e => decide (s.now < e.1 + 1000000000)) ++ [old]
    | none => s.cal.tpol
  s.setCal { s.cal with tpol := if (keep.head?).map (·.2) = some t then keep else (s.now, t) :: keep }

/-- R413: the warning and the throttle. -/
def State.throttle (s : State) (t : Int) (src : Nat) : State :=
  let pay (k : Nat) : List Byte := leBytes 2 (satS 16 t) ++ leBytes 1 src ++ leBytes 1 k ++ leBytes 4 0
  let s :=
    if ¬ s.bit Reg.THERM_STATUS 22 ∧ 110 * 64 ≤ t then
      (((s.setBit Reg.THERM_STATUS 22 true).flag Reg.THERM_FLAGS 0).raise Ev.THERMAL_WARNING .all (pay 1)).post
        Rec.THERMAL_WARNING (satS 16 t)
    else if s.bit Reg.THERM_STATUS 22 ∧ t < 108 * 64 then (s.setBit Reg.THERM_STATUS 22 false).raise Ev.THERMAL_WARNING .all (pay 0)
    else s
  let th := thetaOf t
  let old := s.plan.theta
  let s := { s with plan := { s.plan with theta := th } }
  let s := s.setF Reg.PLAN_THROTTLE 8 0 (256 * th / 800)
  let ev (s : State) : State := s.raise Ev.THERMAL_THROTTLE .all
    (leBytes 2 (satS 16 t) ++ leBytes 2 (256 * th / 800) ++ leBytes 1 src ++ leBytes 3 0)
  if old = 800 ∧ th < 800 then ((ev s).flag Reg.THERM_FLAGS 1).post Rec.THROTTLE (satS 16 t)
  else if old < 800 ∧ th = 800 then ev s else s

/-! ## Compensation -/

/-- R419: comp_z follows an RTD that publishes a reading. -/
def State.compensate (s : State) (r : Nat) : State :=
  s.each (List.range 8) fun s z =>
    let e := s.cal.zones.get (0, 0, 0) z
    let en := bitN e.2.2 3
    if ¬ en then { s with rx := { s.rx with comp := s.rx.comp.set 0 z 0 } }
    else if e.2.2 % 8 ≠ r ∨ ¬ (s.rtdSt r = 0 ∨ s.rtdSt r = 3) then s
    else
      let c := divRound (signed 16 e.1 * (s.fs (Reg.RTD_TEMP r) 15 0 - signed 16 e.2.1)) (256 * 64)
      { s with rx := { s.rx with comp := s.rx.comp.set 0 z c } }

/-- R418: the trims of the interpolators move to −slope × (T_comb − `T_CAL`), at most 0.1 % per scan; in 1/1,024 ppm. A broken comb sensor
holds them. -/
def State.trimScan (s : State) : State :=
  let keys := s.cal.timers.entries.map (·.1)
  s.each (keys ++ (s.cal.trims.entries.map (·.1)).filter fun i => !keys.contains i) fun s i =>
    let c := if i < 512 then i / 16 else (i - 512) / 8
    if s.tsBroken (c / 2) then s
    else
      let e := s.cal.timers.get (0, 0) i
      let target := -(signed 16 e.1) * (s.combTemp c - signed 16 e.2)
      let old := s.cal.trims.get 0 i
      s.setCal { s.cal with trims := s.cal.trims.set 0 i (old + clampInt (-1024000) 1024000 (target - old)) }

/-- R417: the predicted frequency offset of the crystal in 1/256 ppm, with x = T(TS22) − 25 °C. -/
def State.xtalPrediction (s : State) : Int :=
  let x := s.cal.xtalHeld - 25 * 64
  let k := s.cal.xtal
  let c0 := signed 32 k.1
  let c1 := signed 32 k.2.1
  let c2 := signed 32 k.2.2.1
  let c3 := signed 32 k.2.2.2
  -- terms at a scale of 2⁻³² ppm × 64³
  let n := c0 * 2 ^ 24 * 64 ^ 3 + c1 * 2 ^ 16 * x * 64 ^ 2 + c2 * 2 ^ 8 * x ^ 2 * 64 + c3 * x ^ 3
  divRound n (2 ^ 24 * 64 ^ 3)

end Sys2Proof.Machine
end

