-- ==== Sys2Proof/Machine/CalOps.lean ====
section
/-!
DEFINITION. Machine/CalOps.lean: calibration (R181, R182, R191, R420 to R428): the working set and its entries, what a run finds and
applies, aborted runs, and records in flash.
-/

namespace Sys2Proof.Machine

/-! ## The working set (R422) -/

/-- The registers of timer i: 0 to 511 stop timers, 512 to 767 start timers. -/
def timerRegs (i : Nat) : Nat × Nat :=
  if i < 512 then (Reg.TDC_FINE i, Reg.TDC_SKEW i)
  else (Reg.TDC_SFINE ((i - 512) / 8) ((i - 512) % 8), Reg.TDC_SSKEW ((i - 512) / 8) ((i - 512) % 8))

/-- The comb of timer i. -/
def timerComb (i : Nat) : Nat := if i < 512 then i / 16 else (i - 512) / 8

/-- The timers of comb c: 16 stop timers and 8 start timers. -/
def combTimers (c : Nat) : List Nat := (List.range 16).map (16 * c + ·) ++ (List.range 8).map (512 + 8 * c + ·)

/-- Entry i of the working set, 16 bytes. -/
def State.calEntry (s : State) (i : Nat) : List Byte :=
  if i < 768 then
    let e := s.cal.timers.get (0, 0) i
    leBytes 4 (s.r (timerRegs i).1) ++ leBytes 4 (s.r (timerRegs i).2) ++ leBytes 2 e.1 ++ leBytes 2 e.2 ++ leBytes 4 0
  else if i < 800 then
    let r := if i - 768 < s.variant.combs then s.cal.ratios.get (1024, 4096, 16384) (i - 768) else (0, 0, 0)
    leBytes 2 r.1 ++ leBytes 2 r.2.1 ++ leBytes 2 r.2.2 ++ leBytes 10 0
  else if i < 808 then
    let z := s.cal.zones.get (0, 0, 0) (i - 800)
    leBytes 2 z.1 ++ leBytes 2 z.2.1 ++ leBytes 1 z.2.2 ++ leBytes 11 0
  else if i = 808 then
    let k := s.cal.xtal
    leBytes 4 k.1 ++ leBytes 4 k.2.1 ++ leBytes 4 k.2.2.1 ++ leBytes 4 k.2.2.2
  else if i < 811 then leBytes 4 (s.r (Reg.AX_ANG_OFS (i - 809))) ++ leBytes 4 (s.r (Reg.AX_ANG_GAIN (i - 809))) ++ leBytes 8 0
  else ((List.range 8).map fun t => leBytes 2 (s.f (Reg.DET_RANGE_OFS t) 15 0)).flatten

/-- The whole working set. -/
def State.calEntries (s : State) : List (List Byte) := (List.range 812).map s.calEntry

/-- Write entry i into the working set. Registers that it mirrors take effect as they do; the temperature T_CAL and the slope go with the timer. -/
def State.setCalEntry (s : State) (i : Nat) (e : List Byte) : State :=
  if i < 768 then
    let s := (s.setF (timerRegs i).1 24 0 (fieldAt e 0 4)).setF (timerRegs i).2 15 0 (fieldAt e 4 2)
    s.setCal { s.cal with timers := s.cal.timers.set (0, 0) i (fieldAt e 8 2, fieldAt e 10 2) }
  else if i < 800 then
    if i - 768 < s.variant.combs then
      s.setCal { s.cal with ratios := s.cal.ratios.set (1024, 4096, 16384) (i - 768) (fieldAt e 0 2, fieldAt e 2 2, fieldAt e 4 2) }
    else s
  else if i < 808 then
    let s := s.setCal { s.cal with zones := s.cal.zones.set (0, 0, 0) (i - 800) (fieldAt e 0 2, fieldAt e 2 2, fieldAt e 4 1 % 16) }
    (List.range 8).foldl State.compensate s
  else if i = 808 then s.setCal { s.cal with xtal := (fieldAt e 0 4, fieldAt e 4 4, fieldAt e 8 4, fieldAt e 12 4) }
  else if i < 811 then
    let s := (s.hold (Reg.AX_ANG_OFS (i - 809))).hold (Reg.AX_ANG_GAIN (i - 809))
    (s.setF (Reg.AX_ANG_OFS (i - 809)) 19 0 (fieldAt e 0 4)).setR (Reg.AX_ANG_GAIN (i - 809)) (fieldAt e 4 4)
  else s.each (List.range 8) fun s t => (s.hold (Reg.DET_RANGE_OFS t)).setF (Reg.DET_RANGE_OFS t) 15 0 (fieldAt e (2 * t) 2)

/-- An entry of a fused-off comb, channel or timer (R422). -/
def State.calAbsent (s : State) (i : Nat) : Bool :=
  (decide (i < 768) && decide (s.variant.combs ≤ timerComb i)) || (decide (768 ≤ i ∧ i < 800) && decide (s.variant.combs ≤ i - 768))

/-- R182, R191: a timer's fields are in range: `LSB` 10,000 to 10,240, `TOP` 250 to 256. Reserved fields are ignored (R15). -/
def calFieldsOk (i : Nat) (e : List Byte) : Bool :=
  let lsb := fieldAt e 0 2
  let top := fieldBits e 2 2 8 0
  !decide (i < 768) || decide (10000 ≤ lsb ∧ lsb ≤ 10240 ∧ 250 ≤ top ∧ top ≤ 256)

/-! ## Runs (R182, R190, R420, R421) -/

/-- R182: whether a timer passes. -/
def timerPass (t : TimerCal) : Bool :=
  decide (10000 ≤ t.lsb ∧ t.lsb ≤ 10240 ∧ 250 ≤ t.top ∧ t.top ≤ 256 ∧ t.missing ≤ 2 ∧ t.widest ≤ 3 * t.lsb)

/-- The measurement of each timer of a comb, in the order of `combTimers`. -/
def combAll (k : CombCal) : List TimerCal :=
  let fill (n : Nat) (l : List TimerCal) : List TimerCal := l.take n ++ List.replicate (n - l.length) ⟨0, 0, 0, 0, 0⟩
  fill 16 k.stops ++ fill 8 k.starts

/-- The timers of a run that fail R182. -/
def runFailures (k : CombCal) : Nat := ((combAll k).filter fun t => !(timerPass t)).length

/-- R190: a run that fails a start timer or more than four stop timers. -/
def runSevere (k : CombCal) : Bool :=
  (((combAll k).drop 16).any fun t => !(timerPass t)) || decide (4 < (((combAll k).take 16).filter fun t => !(timerPass t)).length)

/-- `CAL_COMB_c`: `T_CAL`, `VALID`, `FAILED`, with the deferrals over (R420). A comb of which no timer passed holds calibrated values only if it held them before. -/
def State.markCal (s : State) (c : Nat) (temp : Int) (passed failed : Bool) : State :=
  let a := Reg.CAL_COMB c
  let s := ((s.setF a 15 0 (satS 16 temp)).setBit a 16 (s.bit a 16 || passed)).setBit a 18 failed
  (s.setBit a 17 false).setF a 31 24 0

/-- R181, R420: the passing values of a run apply; `T_CAL` of a timer is the temperature of the run. A failed timer keeps what it had, and only a full-system
run measures the skews of start timers. -/
def State.applyRun (s : State) (c : Nat) (temp : Int) (k : CombCal) (full : Bool) : State :=
  let s := s.each ((combTimers c).zip (combAll k)) fun s e =>
    if !(timerPass e.2) then s
    else
      let r := timerRegs e.1
      let s := s.setR r.1 (e.2.lsb + 65536 * e.2.top)
      let s := s.when (full || decide (e.1 < 512)) fun s => s.setF r.2 15 0 (satS 16 e.2.skew)
      let old := s.cal.timers.get (0, 0) e.1
      s.setCal { s.cal with timers := s.cal.timers.set (0, 0) e.1 (old.1, satS 16 temp) }
  s.markCal c temp ((combAll k).any timerPass) (runFailures k != 0)

/-- R426: `CAL_Q_INL`, of the NL5-512 only, holds the largest figure that the last runs of the combs found. -/
def State.noteInl (s : State) (l : List (Nat × Nat)) : State :=
  let s := s.each l fun s e => s.setCal { s.cal with inl := s.cal.inl.set 0 e.1 e.2 }
  s.when (s.variant == .nl5_512) fun s => s.setF Reg.CAL_Q_INL 15 0 (min 0xFFFF ((s.cal.inl.entries.map (·.2)).foldl max 0))

/-- R190: `TIMING_LOST` and the loss cause `TIMING` of comb c follow their conditions: both sources absent, a bad comb clock, failed calibration. -/
def State.syncTiming (s : State) (c : Nat) : State :=
  let on := s.tdc.clk.both || s.bit (Reg.TDC_COMB_STATUS c) 27 || s.cal.timing.contains c
  (s.setBit (Reg.TDC_COMB_STATUS c) 26 on).setLossCause c 3 on

/-- R182, R190: the timing status of a comb after a run: two severe runs in a row fail its timing, a run that passes restores it. -/
def State.judgeTiming (s : State) (c : Nat) (k : CombCal) : State :=
  let a := Reg.TDC_COMB_STATUS c
  let mask (l : List TimerCal) : Nat := (l.mapIdx fun i t => if timerPass t then 0 else 2 ^ i).sum
  let s := (s.setF a 15 0 (mask ((combAll k).take 16))).setF a 23 16 (mask ((combAll k).drop 16))
  let s := s.setF a 25 24 (if runFailures k = 0 then 0 else min 3 (s.f a 25 24 + 1))
  let s := if runFailures k = 0 then s else s.flag Reg.TDC_FLAGS 4
  let was := s.cal.severe.contains c
  let s := s.setCal { s.cal with
    severe := if !(runSevere k) then s.cal.severe.filter (· != c) else if was then s.cal.severe else c :: s.cal.severe
    timing := if runFailures k = 0 then s.cal.timing.filter (· != c)
      else if runSevere k && was && !s.cal.timing.contains c then c :: s.cal.timing else s.cal.timing }
  s.syncTiming c

/-- R420: whether comb c is due, with the excess that ranks it: named by `CALIBRATE_COMB` before all, then without valid values, then by the distance from
`T_CAL`. A broken comb sensor shows no excess. -/
def State.calExcess (s : State) (c : Nat) : Option Nat :=
  let a := Reg.CAL_COMB c
  let d := (s.combTemp c - s.fs a 15 0).natAbs
  if s.variant.combs ≤ c then none
  else if s.cal.named.contains c then some (2 ^ 21)
  else if s.ef Reg.CAL_CTRL 16 16 = 0 then none
  else if ¬ s.bit a 16 then some (2 ^ 20)
  else if s.tsBroken (c / 2) then none
  else if 16 * s.ef Reg.CAL_CTRL 7 0 < d then some d
  else none

/-- `CAL_COMB_c.DUE` follows; the frames deferred count in the current wait only. -/
def State.syncDue (s : State) : State :=
  s.each (List.range s.variant.combs) fun s c =>
    let due := (s.calExcess c).isSome
    (s.setBit (Reg.CAL_COMB c) 17 due).when (!due) fun s => s.setF (Reg.CAL_COMB c) 31 24 0

/-- `CAL_DONE` or `CAL_FAILED` (R427). -/
def State.calEvent (s : State) (kind comb failed : Nat) (temp : Int) (aborted : Bool) : State :=
  s.raise (if failed ≠ 0 ∨ aborted then Ev.CAL_FAILED else Ev.CAL_DONE) .all
    (leBytes 1 kind ++ leBytes 1 comb ++ leBytes 2 failed ++ leBytes 2 (satS 16 temp) ++ leBytes 1 (b2n aborted) ++ leBytes 1 0)

/-- The comb of a run is no longer busy; its channels take back their ranges (R149). -/
def State.endRun (s : State) : State :=
  let ranges := (s.cal.run.map (·.ranges)).getD []
  let s := ((s.setCal { s.cal with run := none }).setBit Reg.CAL_STATUS 0 false).setF Reg.CAL_STATUS 5 1 0
  s.each ranges fun s e => s.setRange e.1 e.2

/-- A channel under calibration is in range r, and no decision of its own is kept (R149). -/
def State.calRange (s : State) (n r : Nat) : State := (s.setRange n r).modChan n fun x => { x with next := none }

/-- A comb is dark for calibration or no longer (R209), as `HIST_STATUS_c.DARK` shows; its statistics run is aborted (R188). -/
def State.setDark (s : State) (c : Nat) (on : Bool) : State :=
  let x := s.combs.get {} c
  let s : State := { s.setBit (Reg.HIST_STATUS c) 4 on with combs := s.combs.set {} c { x with dark := on } }
  if on ∧ s.f (Reg.TDC_STAT_STATUS c) 2 0 = 1 then s.setF (Reg.TDC_STAT_STATUS c) 2 0 4 else s

/-- R428: a comb-level run ends early: its timers keep what they have. -/
def State.abortRun (s : State) : State :=
  match s.cal.run with
  | none => s
  | some r =>
    let s := (s.endRun.setCal { s.endRun.cal with combDark := r.comb :: s.cal.combDark }).calEvent 0 r.comb 0 r.temp true
    let s := if r.named then (s.setCal { s.cal with named := s.cal.named.filter (· != r.comb) }).finish Op.CALIBRATE_COMB Sts.ABORTED 0 else s
    s.syncDue

/-- R428: a full-system run ends early. The channels take back their ranges. -/
def State.abortFull (s : State) : State :=
  match s.cal.full with
  | none => s
  | some r =>
    let s := (s.setCal { s.cal with full := none }).setBit Reg.CAL_STATUS 6 false
    let s := s.each (List.range s.variant.combs) fun s c => s.setDark c false
    let s := s.each (r.ranges.mapIdx fun n g => (n, g)) fun s e => s.setRange e.1 e.2
    (s.calEvent 1 0xFF 0 r.mean true).finish Op.CALIBRATE_FULL Sts.ABORTED 0

/-- The mean of the comb temperatures of the enabled combs (R421). -/
def State.meanTemp (s : State) : Int :=
  divRound ((List.range s.variant.combs).map s.combTemp).sum s.variant.combs

/-! ## Records in flash (R424, R425) -/

/-- The newest valid record (R425). -/
def State.newestRec (s : State) : Option CalRec :=
  (s.cal.slots.entries.filterMap (·.2)).foldl (fun a r => match a with
    | some b => if b.seq < r.seq then some r else a
    | none => some r) none

/-- The two slots with the lowest sequence numbers; one without a valid record counts as lower than any. -/
def State.saveSlots (s : State) : Nat × Nat :=
  let key (k : Nat) : Nat := match s.cal.slots.get none k with
    | some r => r.seq + 1
    | none => 0
  match sortBy (fun a b => decide (key a < key b) || (key a == key b && decide (a < b))) (List.range 32) with
  | a :: b :: _ => (a, b)
  | _ => (0, 1)

/-- Both template banks: the active one as slots of 144 bytes. -/
def State.activeTpl (s : State) : Tbl (List Byte) := if s.bit Reg.TPL_STATUS 0 then s.det.tplB else s.det.tplA

/-- Begin a save (R424): the two slots are erased. -/
def State.startSave (s : State) (blankTpl : List Byte) : State :=
  let k := s.saveSlots
  let seq := ((s.newestRec.map (·.seq)).getD 0) + 1
  let r : CalRec := { seq, entries := s.calEntries, templates := (List.range 16).map fun i => s.activeTpl.get blankTpl i }
  (s.setCal { s.cal with
    slots := (s.cal.slots.set none k.1 none).set none k.2 none, torn := s.cal.torn.filter fun x => x != k.1 && x != k.2,
    save := some { slots := k, rec_ := r }, lastSave := s.now }).setBit Reg.CAL_STATUS 8 true

/-- A copy of a save as it ends: complete, or torn. -/
def State.putCopy (s : State) (slot : Nat) (r : CalRec) (ok : Bool) : State :=
  if ok then s.setCal { s.cal with slots := s.cal.slots.set none slot (some r) }
  else s.setCal { s.cal with torn := slot :: s.cal.torn }

/-- R415, R416: a save cut short: the first copy may be complete, the second is torn. Which, the spec leaves to the moment: a free value. -/
def State.abortSave (s : State) : State :=
  match s.cal.save with
  | none => s
  | some v =>
    let fr := s.fresh
    let s := ((fr.2.putCopy v.slots.1 v.rec_ (fr.1 % 2 == 1)).putCopy v.slots.2 v.rec_ false)
    let s := (s.setCal { s.cal with save := none }).setBit Reg.CAL_STATUS 8 false
    let s := s.setF Reg.CAL_STATUS 31 16 ((s.newestRec.map (·.seq)).getD 0)
    s.finish Op.CAL_SAVE Sts.INTERNAL_ERROR 0

/-- The working set differs from flash (R424); a save in progress does not clear it. -/
def State.calDirty (s : State) : State :=
  (s.setBit Reg.CAL_STATUS 9 true).setCal { s.cal with save := s.cal.save.map fun v => { v with dirty := true } }

end Sys2Proof.Machine
end

