-- ==== Sys2Proof/Machine/TableOps.lean ====
section
/-!
DEFINITION. Machine/TableOps.lean: the swaps of the Scan Cell Table and the template banks, and the swaps that an entry into STANDBY makes
(R42, R237, R348).
-/

namespace Sys2Proof.Machine

/-- R42: the Scan Cell Table banks swap. The shadow bank then holds the table that was active. -/
def State.swapSct (s : State) : State :=
  let s := ((s.setBit Reg.SCT_STATUS 0 (!s.bit Reg.SCT_STATUS 0)).setBit Reg.SCT_STATUS 1 false).setR Reg.SCT_ACTIVE_COUNT s.plan.commitCount
  let s := { s with plan := { s.plan with commitLate := false, eccEntries := [] } }
  s.resetExpect.raise Ev.SCT_SWAPPED .all (leBytes 4 s.frameNo)

/-- R237: the template banks swap; the shadow bank takes the new content. -/
def State.swapTpl (s : State) : State :=
  let b := s.bit Reg.TPL_STATUS 0
  let new := if b then s.det.tplA else s.det.tplB
  let s := s.setDet { s.det with tplA := new, tplB := new }
  (s.setBit Reg.TPL_STATUS 0 (!b)).setBit Reg.TPL_STATUS 1 false

/-- The Scan Cell Table banks and the zone banks swap, as told, and then the zone names are checked once (R42, R251). -/
def State.swapNamed (s : State) (sct zones : Bool) : State :=
  let s := s.when sct State.swapSct
  let s := s.when zones State.swapZones
  if sct ∨ zones then s.undefinedZones else s

/-- R348: the commits that still wait for a frame boundary swap on the entry into STANDBY. -/
def State.swapPending (s : State) : State :=
  let s := s.swapNamed (s.bit Reg.SCT_STATUS 1) (s.bit Reg.ZONE_TABLE_STATUS 1)
  let s := if s.bit Reg.ARB_SLOT_STATUS 1 then s.swapSlots else s
  let s := if s.bit Reg.TPL_STATUS 1 then s.swapTpl else s
  if s.bit Reg.FC_STATUS 1 then s.swapPoly else s

/-- R101, R348: a pattern commit swaps in STANDBY and ARMED once 400 µs have passed. -/
def State.swapPatternsDue (s : State) : State :=
  match s.emit.patAt with
  | some t => if s.bit Reg.EMIT_STATUS 4 ∧ t + 400000 ≤ s.now then s.swapPatterns else s
  | none => s

end Sys2Proof.Machine
end

