-- ==== Sys2Proof/Machine/Transition.lean ====
section
/-!
DEFINITION. Machine/Transition.lean: transitions between operating states (R26 to R29): what is recorded and reported, what a transition
cancels, and what leaving a state and entering one does to the functions of the NL5. Declared losses and what they do to the state.
-/

namespace Sys2Proof.Machine

/-! ## Declared losses (R27, R33) -/

/-- A planner's state code in `PLAN_PAIR_STATUS` (R388): planner 0 is A, 1 is B. -/
def State.plannerSt (s : State) (x : Nat) : Nat := s.f Reg.PLAN_PAIR_STATUS (3 * x + 3) (3 * x + 1)

/-- A planner declared lost: `FAILED` or `LOST`. -/
def State.plannerLost (s : State) (x : Nat) : Bool := s.plannerSt x == 5 || s.plannerSt x == 6

/-- The declared losses: combs in bits 0 to 31, tiles lost from bit 32 and locked from bit 40, lanes from bit 48, planners from bit 52. -/
def State.lossMask (s : State) : Nat :=
  s.r Reg.RX_COMB_LOST + 2 ^ 32 * s.f Reg.EMIT_STATUS 31 16 + 2 ^ 48 * s.f Reg.LINK_STATUS 7 4 + 2 ^ 52 * b2n (s.plannerLost 0) +
    2 ^ 53 * b2n (s.plannerLost 1)

/-- The losses as they were last shown. -/
def State.keepLosses (s : State) (m : Nat) : State := { s with sys := { s.sys with losses := m } }

/-- `SYS_STATE` shows the losses that stand; a new one is a capture trigger (R283). -/
def State.showLosses (s : State) : State :=
  let m := s.lossMask
  let s := (s.setBit Reg.SYS_STATE 16 (m % 2 ^ 32 != 0)).setBit Reg.SYS_STATE 17 (m / 2 ^ 32 % 2 ^ 16 != 0)
  let s := (s.setBit Reg.SYS_STATE 18 (m / 2 ^ 48 % 16 != 0)).setBit Reg.SYS_STATE 19 (m / 2 ^ 52 != 0)
  let new := (List.range 54).any fun i => bitN m i && !bitN s.sys.losses i
  (s.keepLosses m).when new fun s => s.faultTrigger 0x30

/-- Whether any loss stands. -/
def State.anyLoss (s : State) : Bool := s.f Reg.SYS_STATE 19 16 != 0

/-! ## Cancelled commands (R29) -/

/-- R29: every accepted command is cancelled, in order of arrival; the first with cause code `c0`, those behind it with `c`. -/
def State.cancelCmds (s : State) (c0 c : Nat) : State :=
  let l := s.sys.cmds
  let s := { s with sys := { s.sys with cmds := [] } }
  (l.zipIdx).foldl (fun s (e : PendCmd × Nat) =>
    s.queueEvent e.1.port Ev.TRANSITION_CANCELLED e.1.tag 0 (leBytes 2 e.1.opcode ++ leBytes 1 (if e.2 = 0 then c0 else c) ++ leBytes 1 0)) s

def State.setRed (s : State) (x : Red) : State := { s with red := x }

/-- R393 step 5, R395: the takeover ends, and is reported with its blind gap. -/
def State.endTakeover (s : State) : State :=
  match s.red.takeover with
  | none => s
  | some k =>
    let gap := s.now - k.at_
    let s := (s.setRed { s.red with takeover := none }).setF Reg.FAILOVER_LAST 15 0 (min 0xFFFF (divRoundNat gap 1000))
    s.raise Ev.PLANNER_FAILOVER .all
      (leBytes 1 k.failed ++ leBytes 1 k.cause ++ leBytes 2 k.claim ++ leBytes 4 (min gap 0xFFFFFFFF) ++ leBytes 8 k.time)

/-! ## Leaving a state -/

/-- R140: the mirror stops scanning, and host writes of contexts no longer wait for a column (R47). Columns that have not started are dropped with what is queued for them, and the frame ends; a takeover
that has posted its resume column ends with it. -/
def State.endScan (s : State) : State :=
  let s := s.stopScan.columnTracks
  let s : State := match s.red.takeover with
    | some k => if k.resume.isSome then s.endTakeover else s
    | none => s
  let gone := s.plan.cols.entries.filterMap fun e => match e.2 with
    | some c => if c.startNs.isNone then some e.1 else none
    | none => none
  let s := s.each gone fun s k => s.setCol k none
  let s := { s with plan := { s.plan with queue := s.plan.queue.filter (fun q => !gone.contains q.key), fifo := [] } }
  let s := s.setEmit { s.emit with
    cuts := s.emit.cuts.filter fun q => !gone.contains q.key,
    sarNext := s.emit.sarNext.map fun t => { t with shots := t.shots.filter fun q => !gone.contains q.key } }
  let s := s.rechooseSar
  if s.plan.running then
    ({ s with plan := { s.plan with running := false } }).setDet { s.det with items := s.det.items ++ [AsmItem.endFrame s.frameNo] }
  else s

/-- R440: fuse steps still to be programmed wait outside STANDBY. -/
def State.svnWaits (s : State) : State :=
  s.when (decide (s.boot.fuses.svn < min 64 (s.f Reg.SVN_STATUS 31 24))) fun s => s.flag Reg.BOOT_FLAGS 3

/-- What the NL5 does as it leaves its present state for another. -/
def State.leave (s : State) (dst : DevState) (cause : Nat) : State :=
  let s := s.when (s.dev == .boot && dst == .faultHalt) State.cutBoot
  let s := s.when (s.dev == .standby) State.svnWaits
  let s := s.when (s.dev.emitting && !dst.emitting) fun s => (s.ssnHold 2 true).arbLeave.blindZones
  let s := s.when (s.dev == .calibrating && cause != 0x42) State.abortFull
  let s := s.when (s.dev == .armed) fun s => s.each [0, 1] fun s a => s.setF (Reg.AX_MODE a) 1 0 0
  let s := s.when ((s.dev.scanning || s.wag.armAt.isSome) && !dst.scanning) State.endScan
  s.when (s.dev == .safe) fun s => (s.setBit Reg.WAG_STATUS 8 false).ssnHold 4 false

/-! ## Entering a state -/

/-- R338: roles as signed configuration gives them, on entry into STANDBY from BOOT. -/
def State.defaultRoles (s : State) : State :=
  let ports := (List.range 4).filter fun p => decide (p < s.variant.lanes)
  let s := s.each ports fun s p => s.setRole p (s.defaultRole p)
  match ports.find? fun p => s.bit Reg.PORT_ROLE_CFG (8 * p + 1) && s.bit Reg.PORT_ROLE_CFG (8 * p + 5) && s.portOf p == p with
  | some p => s.setOwner (some p) 5
  | none => s

/-- R110, R114: what an accepted `RECOVER` does to tiles as it enters STANDBY: tiles named during a latched shutdown are locked and the
latch is released; lost tiles that are not locked rejoin, with `WL_t` 0 (DESIGN CHOICE: log entry 115). -/
def State.recoverTiles (s : State) : State :=
  let s := s.when s.lsd fun s =>
    let s := s.each ((List.range 8).filter fun t => s.emit.lsdNamed.contains t && !s.bit Reg.EMIT_STATUS (24 + t)) fun s t =>
      ((s.setBit Reg.EMIT_STATUS (24 + t) true).setWlState t 3).post Rec.TILE_LOST (t + 8)
    let s := (s.setBit Reg.EMIT_STATUS 2 false).ssnHold 3 false
    s.setEmit { s.emit with lsdAt := none, lsdSeen := [], lsdNamed := [], lsdOwn := false, faultReturns := 0 }
  let s := s.each (List.range 8) fun s t =>
    if s.bit Reg.EMIT_STATUS (16 + t) ∧ ¬ s.bit Reg.EMIT_STATUS (24 + t) then
      let s := s.setBit Reg.EMIT_STATUS (16 + t) false
      let s := s.setEmit { s.emit with misses := s.emit.misses.set 0 t 0 }
      (s.setWlTile t {}).setWlState t 0
    else s
  s.settleWl

/-- Entry into STANDBY. -/
def State.enterStandby (s : State) (from_ : DevState) : State :=
  let s := s.when (from_ == .boot) fun s =>
    let s := { s with sys := { s.sys with standbyAt := some s.now } }
    let s := s.each [0, 1, 2] State.restartMa
    s.restartRtd.defaultRoles.seedDither
  let s := s.when (from_ == .safe || from_ == .thermalStop) State.recoverTiles
  let s := s.endSpan.swapPending.swapPatternsDue.biasDown
  s.flushPump.startErase

/-- Entry into ARMED: ranges and adaptive thresholds start again (R149, R221). -/
def State.enterArmed (s : State) : State :=
  let s := s.each (List.range s.variant.channels) State.startRange
  let s := s.each (List.range s.variant.combs) fun s c =>
    if s.bit Reg.ADP_EN_MASK c ∨ s.adpOn c then s.setF (Reg.ADP_THR c) 9 0 (s.f (Reg.RX_THR c) 9 0) else s
  s.swapPatternsDue

/-- Entry into SAFE (R140, R283, R458). A shutdown has been a trigger when it was detected, and is one trigger with its SAFE entry (R287). -/
def State.enterSafe (s : State) (cause : Nat) : State :=
  let s := s.each [0, 1] fun s a => s.parkAxis a false
  let s := s.when (cause == 0x52 || cause == 0x53) fun s => s.flushTrigger 3
  s.when (cause != 0x52) fun s => s.faultTrigger cause

/-- Entry into THERMAL_STOP (R414, R415, R428). -/
def State.enterThermalStop (s : State) : State :=
  let s := s.abortRun.abortFull.abortSave.endSpan
  let s := ((s.inc Reg.THERM_STOP_COUNT).flag Reg.THERM_FLAGS 2).post Rec.THERMAL_STOP (s.f Reg.THERM_STATUS 15 0)
  let s := (s.each [0, 1] fun s a => s.parkAxis a true).biasDown
  let b := s.now + 20000000
  let s := s.setRec { s.recorder with stopEnd := b, flush := s.recorder.flush.map fun f => { f with budget := some b } }
  if s.recorder.flush.isNone ∧ ¬ s.stopFlushOk then s.flag Reg.THERM_FLAGS 4 else s.flushTrigger 4

/-- R416: what a hard shut-down does to the axes and to flash and fuses being programmed, also in FAULT_HALT that another cause has entered. -/
def State.hardEffects (s : State) : State :=
  let s := s.each [0, 1] State.hardRelease
  let s := s.abandonFlush.abortSave.cutFuses
  { s with sys := { s.sys with hardStop := true } }

/-- Entry into FAULT_HALT (R404). A flush under way completes (R465). -/
def State.enterHalt (s : State) (cause : Nat) : State :=
  let s := (s.abortRun.abortFull.abortSave.endSpan).refuseCuts
  let s := (s.biasHalt.abortQueues.endAllSubs).discardCaptures
  let s := s.each [0, 1, 2] fun s m => s.setMa m { s.ma m with at_ := none }
  if cause = 0x61 then s.hardEffects
  else
    let s := s.each [0, 1] fun s a => s.parkAxis a true
    (s.setRec { s.recorder with flush := s.recorder.flush.map fun f => { f with budget := none } }).flushTrigger 2

/-- R27, R33: one transition, with what it records and reports, cancels, ends and starts. `byCmd`: a command caused it. -/
def State.enter (s : State) (dst : DevState) (cause : Nat) (byCmd : Bool) : State :=
  let from_ := s.dev
  let s := s.leave dst cause
  let s := { s with sys := { s.sys with dev := dst, prev := from_, cause } }
  let s := ((s.setF Reg.SYS_STATE 3 0 dst.code).setF Reg.SYS_STATE 7 4 from_.code).setF Reg.SYS_STATE 15 8 cause
  let s := (s.setR Reg.STATE_ENTRY_TIME_LO (s.time.dev % 2 ^ 32)).setR Reg.STATE_ENTRY_TIME_HI (s.time.dev / 2 ^ 32)
  let s := (s.inc Reg.STATE_TRANSITIONS).post Rec.STATE (cause + 256 * from_.code)
  let s := s.raise Ev.STATE_CHANGED .all
    (leBytes 1 (dst.code + 16 * from_.code) ++ leBytes 1 cause ++ leBytes 2 0 ++ leBytes 8 s.time.dev)
  let s := s.when (!byCmd) fun s => s.cancelCmds cause cause
  let s := s.when (!(dst.emitting || dst == .calibrating)) State.laserOff
  let s := match dst with
    | .standby => s.enterStandby from_
    | .armed => s.enterArmed
    | .safe => s.enterSafe cause
    | .thermalStop => s.enterThermalStop
    | .faultHalt => s.enterHalt cause
    | _ => s
  let s := if s.heatersRun then s.heatersOn else s.heatersOff
  s.settleWl

/-- R28: the causes of lower rank that still stand are judged against the state reached: the orderly-stop threshold, then declared losses. -/
def State.rejudge (s : State) : State :=
  let hot : Bool := match s.tPol with
    | some (t, _) => decide (8000 ≤ t)
    | none => false
  if hot ∧ 2 ≤ s.dev.code ∧ s.dev.code ≤ 7 then s.enter .thermalStop 0x60 false
  else if s.dev = .sensing ∧ s.anyLoss then s.enter .degraded 0x30 false
  else s

/-- A transition (R27, R28). Nothing but a reset leaves FAULT_HALT, and nothing but its release leaves RESET; a cause of FAULT_HALT that arises in it leaves the one recorded
(DESIGN CHOICE: log entry 105). -/
def State.transition (s : State) (dst : DevState) (cause : Nat) (byCmd : Bool) : State :=
  if s.dev = .faultHalt ∨ s.dev = .reset then s else (s.enter dst cause byCmd).rejudge

/-- Bring `SYS_STATE` and the operating state in line with the losses declared and cleared (R27, R388). -/
def State.settle (s : State) : State := s.showLosses.rejudge

/-- FAULT_HALT with a cause; nothing leaves it but reset. -/
def State.halt (s : State) (cause : Nat) : State := s.transition .faultHalt cause false

/-- R416: a hard shut-down. In FAULT_HALT of another cause it makes no transition, and its effects act. -/
def State.hardShut (s : State) : State :=
  if s.dev = .faultHalt then (if s.sys.hardStop then s else s.hardEffects) else s.halt 0x61

/-- SAFE with a cause, from the states that can reach it (R27). -/
def State.toSafe (s : State) (cause : Nat) : State :=
  if s.dev.scanning then s.transition .safe cause false else s

end Sys2Proof.Machine
end

