-- ==== Sys2Proof/Machine/CmdOps.lean ====
section
/-!
DEFINITION. Machine/CmdOps.lean: accepted state-changing commands (R29): what each starts when its turn comes, and how it completes.
-/

namespace Sys2Proof.Machine

/-- The state that a state-changing command reaches, with its cause code (R27). -/
def cmdTarget (opcode : Nat) : DevState × Nat :=
  if opcode = Op.ARM then (.armed, 0x20)
  else if opcode = Op.START_SENSING then (.sensing, 0x21)
  else if opcode = Op.STOP_SENSING then (.armed, 0x22)
  else if opcode = Op.DISARM then (.standby, 0x23)
  else if opcode = Op.CALIBRATE_FULL then (.calibrating, 0x41)
  else if opcode = Op.FORCE_SAFE then (.safe, 0x50)
  else (.standby, 0x24)

/-- The state against which the next command is judged (R29): the one that the last accepted command will reach. -/
def State.judged (s : State) : DevState :=
  match s.sys.cmds.getLast? with
  | some c => (cmdTarget c.opcode).1
  | none => s.dev

/-- R138: the planner plans from the first column of the next frame, with which a takeover resumes (R393). -/
def State.resetPlan (s : State) : State :=
  let gone := s.plan.cols.entries.filterMap fun e => match e.2 with
    | some c => if c.startNs.isNone ∧ ¬ c.closed then some e.1 else none
    | none => none
  let s := s.each gone fun s k => s.setCol k none
  let fr := (s.frameNo + 1) % 2 ^ 32
  let s := s.setRed { s.red with takeover := s.red.takeover.map fun k => { k with resume := k.resume.map fun _ => colKey fr (sweepCol s.columns fr 0) } }
  { s with plan := { s.plan with
    planFrame := fr, planNext := 0, residue := 0, queue := s.plan.queue.filter (fun q => !gone.contains q.key), fifo := [] } }

/-- Take the first accepted command off and make its transition. -/
def State.completeCmd (s : State) : State :=
  match s.sys.cmds with
  | [] => s
  | c :: rest =>
    let t := cmdTarget c.opcode
    ({ s with sys := { s.sys with cmds := rest } }).transition t.1 (if c.opcode = Op.FORCE_SAFE then c.code else t.2) true

/-- What the first accepted command starts when its turn comes. -/
def State.startCmd (s : State) (opcode : Nat) : State :=
  if opcode = Op.ARM then s.powerMirror.biasArm.startSpan.resetPlan
  else if opcode = Op.START_SENSING then s.startFade
  else if opcode = Op.DISARM then ((s.endScan).parkAxis 0 true).parkAxis 1 true
  else if opcode = Op.RECOVER then (s.parkAxis 0 true).parkAxis 1 true
  else s

/-- Start the first accepted command if it has not started; `DISARM` and `RECOVER` complete once both axes are off (R140), a `FORCE_SAFE` accepted behind others at once,
and the next one then has its turn. -/
def State.runCmds : Nat → State → State
  | 0, s => s
  | fuel + 1, s =>
    match s.sys.cmds with
    | [] => s
    | c :: rest =>
      let s : State := if c.started then s
        else ({ s with sys := { s.sys with cmds := { c with started := true } :: rest } }).startCmd c.opcode
      if (c.opcode = Op.DISARM ∨ c.opcode = Op.RECOVER) ∧ s.axesOff then
        ((s.setWag { s.wag with powerAt := none }).completeCmd).runCmds fuel
      else if c.opcode = Op.FORCE_SAFE ∧ s.dev.scanning then s.completeCmd.runCmds fuel
      else s

/-- The first command's transition is made, and the next has its turn. -/
def State.cmdDone (s : State) : State := s.completeCmd.runCmds 8

/-- A command whose own transition cannot complete is cancelled, with all behind it (R29, R138). -/
def State.cmdFails (s : State) : State := s.cancelCmds 0 0

/-- What a frame boundary does to the first accepted command (R27, R421). -/
def State.boundaryCmd (s : State) (startFull : State → State) : State :=
  match s.sys.cmds with
  | [] => s
  | c :: rest =>
    if c.opcode = Op.START_SENSING then (if c.ready then s.cmdDone else s)
    else if c.opcode = Op.STOP_SENSING then (if s.dev.emitting then s.cmdDone else s)
    else if c.opcode = Op.CALIBRATE_FULL then
      (if s.dev.emitting then (startFull { s with sys := { s.sys with cmds := rest } }).runCmds 8 else s)
    else s

end Sys2Proof.Machine
end

