-- ==== Sys2Proof/Machine/PairOps.lean ====
section
/-!
DEFINITION. Machine/PairOps.lean: port pairs (R396 to R400), the loss and return of a lane (R321), and the lapse of
ownership with it (R340).
-/

namespace Sys2Proof.Machine

def State.pair (s : State) (k : Nat) : Pair := s.red.pairs.get {} k

def State.setPair (s : State) (k : Nat) (x : Pair) : State :=
  { s with red := { s.red with pairs := s.red.pairs.set {} k x } }

/-- `LINK_STATUS.UP` of a lane. -/
def State.laneUp (s : State) (l : Nat) : Bool := s.bit Reg.LINK_STATUS l

/-- `PAIRk_SINGLE` of the health summary: the pair is formed with one lane failed (R408). -/
def State.syncSingle (s : State) (k : Nat) : State :=
  s.setHealth (2 + k) (s.pairFormed k && (s.bit (Reg.PAIR_STATUS k) 2 != s.bit (Reg.PAIR_STATUS k) 3))

/-- R396: form a pair: safety and service on the lower lane, bulk on the lane named by `BULK_HOME`; the lanes that are `UP`
are in service. -/
def State.formPair (s : State) (k : Nat) (on : Bool) : State :=
  if on then
    let s := s.setPair k { formed := true, out := [0, 1].filter fun i => !s.laneUp (2 * k + i) }
    let st := 2 * s.f (Reg.PAIR_CTRL k) 0 0 + 4 * b2n (s.laneUp (2 * k)) + 8 * b2n (s.laneUp (2 * k + 1))
    (s.setR (Reg.PAIR_STATUS k) st).syncSingle k
  else ((s.setPair k {}).setR (Reg.PAIR_STATUS k) 0).syncSingle k

/-- R400: the switch-over of the classes in `classes` (bit 0 safety and service, bit 1 bulk) of pair k to lane `dst`
(0 lower, 1 upper). -/
def State.switchOver (s : State) (k classes src dst cause : Nat) : State :=
  let s := if bitN classes 0 then (s.setF (Reg.PAIR_STATUS k) 0 0 dst).setBit (Reg.PAIR_STATUS k) 4 false else s
  let s := if bitN classes 1 then s.setF (Reg.PAIR_STATUS k) 1 1 dst else s
  let s := (s.inc (Reg.PAIR_SWITCHES k)).flag Reg.RED_FLAGS 3
  let s := s.raise Ev.PORT_SWITCHOVER .all
    (leBytes 1 k ++ leBytes 1 classes ++ leBytes 1 (2 * k + src) ++ leBytes 1 (2 * k + dst) ++ leBytes 1 cause ++
      leBytes 3 0 ++ leBytes 8 s.time.dev)
  let s := s.when (cause != 3) fun s => s.post Rec.LANE (2 * k + src + 48)
  if bitN classes 0 then s.snapshot (2 * k) else s

/-- R397: lane `side` (0 lower, 1 upper) of pair k fails for the pair. Each class it carries switches to the other lane if
that lane is `UP`; a pending `BULK_RETURN` is cancelled (R407). -/
def State.pairFail (s : State) (k side cause : Nat) : State :=
  if !s.pairFormed k then s
  else
    let s := (s.setBit (Reg.PAIR_STATUS k) (2 + side) false).setPair k
      { s.pair k with bulkReturn := false, out := side :: (s.pair k).out.filter (· != side) }
    let s := if s.f (Reg.PAIR_STATUS k) 0 0 ≠ side then s.setBit (Reg.PAIR_STATUS k) 4 false else s
    let classes := b2n (s.f (Reg.PAIR_STATUS k) 0 0 == side) + 2 * b2n (s.f (Reg.PAIR_STATUS k) 1 1 == side)
    let s := if classes ≠ 0 ∧ s.laneUp (2 * k + (1 - side)) then s.switchOver k classes side (1 - side) cause else s
    s.syncSingle k

/-- A lane of a pair leaves `UP`: its time in service ends. -/
def State.pairLaneDown (s : State) (l : Nat) : State :=
  let x := s.pair (l / 2)
  if x.formed then s.setPair (l / 2) (if l % 2 = 0 then { x with lowerUpAt := none } else { x with upperUpAt := none }) else s

/-- A lane of a pair is `UP` again. -/
def State.pairLaneUp (s : State) (l : Nat) : State :=
  let x := s.pair (l / 2)
  if x.formed then
    let x := { x with out := x.out.filter (· != l % 2) }
    s.setPair (l / 2) (if l % 2 = 0 then { x with lowerUpAt := some s.now } else { x with upperUpAt := some s.now })
  else s

/-- The packets of a snapshot of the subscriptions that have started (R359) go straight to a lane that rejoins as standby for the safety class (R399), numbered as packets of their subscription (R361). -/
def State.snapshotTo (s : State) (p l : Nat) : State :=
  s.each (s.subList.filter fun ch => (s.sub ch).port == p && (s.sub ch).safety && (s.sub ch).state == 2) fun s ch =>
    s.each (s.snapshotPkts ch) fun s k =>
      let u := s.sub ch
      (s.setSub ch { u with placed := u.placed + 1 }).sendPkt ch l { k with pseq := u.placed % 65536 }

/-- Whether the owner's lanes are all lost (R340). -/
def State.ownerLanesLost (s : State) (p : Nat) : Bool :=
  if s.pairFormed (p / 2) then s.bit (Reg.LANE_STATUS (2 * (p / 2))) 15 && s.bit (Reg.LANE_STATUS (2 * (p / 2) + 1)) 15
  else s.bit (Reg.LANE_STATUS p) 15

/-- R340: ownership lapses with the owner's lanes. -/
def State.lapseOwner (s : State) : State :=
  match s.owner with
  | some p => if p < 4 ∧ s.ownerLanesLost p then (s.changeOwner none 4).flag Reg.CMD_FLAGS 4 else s
  | none => s

/-- R321: lane l is declared lost. -/
def State.laneLost (s : State) (l : Nat) : State :=
  let s := (s.setBit (Reg.LANE_STATUS l) 15 true).setBit Reg.LINK_STATUS (4 + l) true
  let s := (s.flag Reg.LINK_FLAGS 5).post Rec.LANE (l + 16)
  let s := s.raise Ev.LANE_LOST (.others l) (leBytes 4 l)
  ((s.pairFail (l / 2) (l % 2) 2).lapseOwner).settle

/-- R321: the loss of lane l clears when the lane is `UP` next. -/
def State.laneFound (s : State) (l : Nat) : State :=
  let s := (s.setBit (Reg.LANE_STATUS l) 15 false).setBit Reg.LINK_STATUS (4 + l) false
  if s.f Reg.LINK_STATUS 7 4 = 0 then s.settle else s

/-- PAIR_SWITCH_DELAY (R397): a lane of a formed pair has been out of `UP` for `SWITCH_DELAY`; it fails once for each time that it leaves `UP`. -/
def execPairSwitchDelay (l : Fin 4) (s : State) : Host.Outcome State Fault Refusal :=
  let k := l.val / 2
  .next (match (s.lane l).leftUpAt with
    | some t =>
      if s.pairFormed k ∧ ¬ s.laneUp l ∧ ¬ (s.pair k).out.contains (l.val % 2) ∧
          t + s.f (Reg.PAIR_CTRL k) 15 8 * 100000 ≤ s.now then s.pairFail k (l % 2) 1
      else s
    | none => s)

/-- PAIR_REJOIN (R399): a failed lane has been `UP` again for 100 ms. It becomes standby; for the safety class it receives
a snapshot. -/
def execPairRejoin (l : Fin 4) (s : State) : Host.Outcome State Fault Refusal :=
  let k := l.val / 2
  let up := if l.val % 2 = 0 then (s.pair k).lowerUpAt else (s.pair k).upperUpAt
  .next (match up with
    | some t =>
      if s.pairFormed k ∧ s.laneUp l ∧ ¬ s.bit (Reg.PAIR_STATUS k) (2 + l % 2) ∧ t + 100000000 ≤ s.now then
        let s := s.setBit (Reg.PAIR_STATUS k) (2 + l % 2) true
        let s := if s.f (Reg.PAIR_STATUS k) 0 0 ≠ l % 2 then (s.snapshotTo (2 * k) l).setBit (Reg.PAIR_STATUS k) 4 true else s
        s.syncSingle k
      else s
    | none => s)

/-- R399: a `BULK_RETURN` moves the bulk class to `BULK_HOME` at the frame boundary. While that lane is not `UP`, and has not failed for the pair, the return waits for a later
one (DEDUCED: log entry 123). -/
def State.bulkReturnAtBoundary (s : State) (k : Nat) : State :=
  if (s.pair k).bulkReturn then
    let home := s.f (Reg.PAIR_CTRL k) 0 0
    let cur := s.f (Reg.PAIR_STATUS k) 1 1
    if cur = home then s.setPair k { s.pair k with bulkReturn := false }
    else if s.laneUp (2 * k + home) then (s.setPair k { s.pair k with bulkReturn := false }).switchOver k 2 cur home 3
    else s
  else s

/-! ## Lanes -/

/-- `LANE_STATUS_l.STATE` (R328). -/
def State.laneSt (s : State) (l : Nat) : Nat := s.f (Reg.LANE_STATUS l) 3 0

def State.setLaneSt (s : State) (l v : Nat) : State := s.setF (Reg.LANE_STATUS l) 3 0 v

/-- A lane that is neither fused off nor disabled, out of RESET. -/
def State.laneOn (s : State) (l : Nat) : Bool := decide (l < s.variant.lanes) && s.dev != .reset && s.laneSt l != 7

/-- A lane leaves `UP` (R321): `LINK_STATUS.UP` clears and `LANE_DOWN` goes to the other ports. -/
def State.leaveUp (s : State) (l : Nat) : State :=
  if s.laneSt l = 5 then
    let s := s.setLane l { s.lane l with leftUpAt := some s.now }
    let s := (s.setBit Reg.LINK_STATUS l false).pairLaneDown l
    s.raise Ev.LANE_DOWN (.others l) (leBytes 4 l)
  else s

/-- R305: the transmitter of lane l leaves electrical idle: its scrambler starts at all ones. -/
def State.leaveIdle (s : State) (l : Nat) : State := s.setLane l { s.lane l with scrTx := 0x7FFFFFFF }

/-- R320: a lane in `UP` retrains; `LANE_RETRAIN_l` counts it and bring-up repeats at the current rate, with preset 4. -/
def State.retrain (s : State) (l : Nat) : State :=
  if s.laneSt l = 5 then
    let s := ((s.leaveUp l).setLaneSt l 6).inc (Reg.LANE_RETRAIN l)
    let s := s.flag Reg.LINK_FLAGS 3
    let s := if s.f (Reg.LANE_STATUS l) 9 8 ≠ 0 ∧ (s.lane l).wakeUntil = none then s.leaveIdle l else s
    let s := (s.setF (Reg.LANE_STATUS l) 11 8 0).setF (Reg.LANE_EQ l) 3 0 4
    s.setLane l { s.lane l with
      retrainAt := some s.now, locked := false, goodCommas := 0, missed := 0, trainRx := 0, ackdSent := 0, ackdRx := false,
      peerUp := false, eqFinal := false, eyeTx := 0, eqNext := 0, rateIdle := none, switched := false, reqPreset := none,
      wakeUntil := none, powerOwed := none }
  else s

/-- R317: full bring-up from code 0 with preset 4. -/
def State.fullBringUp (s : State) (l : Nat) : State :=
  let s := ((s.leaveUp l).setLaneSt l 1).setF (Reg.LANE_STATUS l) 6 4 0
  let s := (s.setF (Reg.LANE_STATUS l) 11 8 0).setF (Reg.LANE_EQ l) 3 0 4
  s.setLane l { s.lane l with
    scrTx := 0x7FFFFFFF, scrRx := 0x7FFFFFFF, retrainAt := none, locked := false, goodCommas := 0, missed := 0, signalAt := none,
    trainRx := 0, ackdSent := 0, ackdRx := false, peerUp := false, eqFinal := false, eyeTx := 0, eqNext := 0, rateIdle := none,
    switched := false, reqPreset := none, target := 0, wakeUntil := none, powerOwed := none }

/-- R317, R320: a lane starts bring-up after RESET, with a new `SESSION`: a free value. The model does this at the lane's first event; a
read of `LANE_STATUS_l` before it shows the bring-up that has begun (`readReg`). -/
def State.startLane (s : State) (l : Nat) : State :=
  if s.laneSt l ≠ 0 then s
  else
    let v := s.fresh
    let s := v.2.fullBringUp l
    s.setLane l { s.lane l with session := v.1 % 65536 }

/-- R320, R324: `DISABLE` of lane l changes: the lane sleeps in both directions, or starts bring-up again. Its `SESSION` is drawn even if it never
trained. -/
def State.disableLane (s : State) (l : Nat) (off : Bool) : State :=
  if off then
    let s := (((s.startLane l).leaveUp l).setLaneSt l 7).setF (Reg.LANE_STATUS l) 11 8 0xA
    s.setLane l { s.lane l with retrainAt := none, locked := false, wakeUntil := none, powerOwed := none }
  else s.fullBringUp l

/-- Whether the reply to a command (port, tag) is still to be sent: it is in its port's queue or on the lane that carries it. -/
def State.replyWaits (s : State) (p tag : Nat) : Bool :=
  (p < 4 && (s.lane (s.classLane p true)).txSvc.isSome) || (s.port p).out.any (fun k => !k.isEvent && k.tag == tag)

/-- R320, R326: a `RETRAIN` written by a command, and a `DISABLE` of the lane that carries the write, act once the reply has been sent. -/
def State.owedRetrains (s : State) : State :=
  let s := s.each s.sys.retrainOwed fun s e =>
    if s.replyWaits e.2.1 e.2.2 then s
    else State.retrain { s with sys := { s.sys with retrainOwed := s.sys.retrainOwed.filter (· != e) } } e.1
  s.each s.sys.disableOwed fun s e =>
    if s.replyWaits e.2.1 e.2.2 then s
    else State.disableLane { s with sys := { s.sys with disableOwed := s.sys.disableOwed.filter (· != e) } } e.1 true

/-- R322: `AUTO_DOZE` of lane l is 0: a DOZE that only it asked for is taken back. -/
def State.dozeOff (s : State) (l : Nat) : State :=
  if (s.lane l).powerOwed = some 1 ∧ s.f (Reg.LANE_PWR l) 1 0 ≠ 1 then s.setLane l { s.lane l with powerOwed := none } else s

/-- R324, R326: a write of `DISABLE` of lane l under a tag by a command that came in at port p: on the lane that carries the write it waits for the reply; a 0
written meanwhile takes it back. -/
def State.disableWritten (s : State) (l p tag : Nat) (off : Bool) : State :=
  if off then
    if p = l then { s with sys := { s.sys with disableOwed := s.sys.disableOwed ++ [(l, s.portOf p, tag)] } }
    else s.disableLane l true
  else if s.laneSt l = 7 then s.disableLane l false
  else { s with sys := { s.sys with disableOwed := s.sys.disableOwed.filter (·.1 != l) } }

end Sys2Proof.Machine
end

