-- ==== Sys2Proof/Machine/Commands.lean ====
section
/-!
DEFINITION. Machine/Commands.lean: how a command reaches a port, waits, is taken, checked and answered (R329 to R337), and the local port (R353,
R354).
-/

namespace Sys2Proof.Machine

/-! ## Arrival (R331, R334) -/

/-- R26: the states in which the NL5 takes no commands. -/
def State.noCommands (s : State) : Bool := s.dev == .reset || s.dev == .boot

/-- R334: commands that a port holds. -/
def queueRoom (p : Nat) : Nat := if p = 4 then 4 else 16

/-- R331: the longest parameter block of a port. -/
def maxParams (p : Nat) : Nat := if p = 4 then 1008 else 4080

/-- R343: the opcodes of the table. -/
def knownOpcode (o : Nat) : Bool :=
  [Op.NOP, Op.IDENTIFY, Op.OWNER_CLAIM, Op.OWNER_RELEASE, Op.ARM, Op.DISARM, Op.START_SENSING, Op.STOP_SENSING, Op.FORCE_SAFE, Op.RECOVER,
   Op.RESET_DEVICE, Op.SYNC_TIME, Op.EVENT_CONFIG, Op.PARAM_READ, Op.PARAM_WRITE, Op.PARAM_MODIFY, Op.SCT_WRITE, Op.SCT_COMMIT, Op.SCT_READ,
   Op.TRACK_WRITE, Op.TRACK_READ, Op.REGION_REQUEST, Op.REGION_CANCEL, Op.REGION_PRIORITY, Op.ZONE_WRITE, Op.ZONE_COMMIT, Op.ZONE_READ].contains o ||
  [Op.STREAM_SUBSCRIBE, Op.STREAM_UNSUBSCRIBE, Op.STREAM_STATUS, Op.DMA_RESTART, Op.CAPTURE_ARM, Op.CAPTURE_STOP, Op.CAPTURE_TRIGGER,
   Op.CAPTURE_READ, Op.CAPTURE_FREE, Op.CALIBRATE_FULL, Op.CALIBRATE_COMB, Op.CAL_READ, Op.CAL_WRITE, Op.CAL_SAVE, Op.TEMPLATE_WRITE,
   Op.TEMPLATE_COMMIT, Op.TEMPLATE_READ, Op.ATTEST, Op.CERT_READ, Op.UPDATE_BEGIN, Op.UPDATE_DATA, Op.UPDATE_COMMIT, Op.OWNER_KEY_ENROLL,
   Op.HEALTH_READ, Op.RECORDER_READ, Op.RECORDER_FLUSH].contains o

/-- R334: a command reaches port p: it is queued, or a full queue answers `BUSY` at once. -/
def State.arrive (s : State) (p : Nat) (x : QCmd) : State :=
  let q := s.port p
  if queueRoom p ≤ q.queue.length then s.sendReply p x.opcode x.cmd.tag.toNat Sts.BUSY (errParams 0 0) x.port
  else (s.setPort p { q with queue := q.queue ++ [{ x with rx := s.time.dev }] }).syncPort p

/-- R331: the length rules of a packet: as long as its header says, and within the port's limit. -/
def cmdLenOk (c : Cmd) : Bool := c.params.length == c.length && decide (c.length ≤ maxParams c.port)

/-! ## The turn (R335) -/

/-- R442: `UPDATE_DATA` at the head of a port waits while a flush or a calibration save, which the flash controller serves first, is under way; in THERMAL_STOP it is `BUSY`. -/
def State.flashWaits (s : State) (p : Nat) : Bool :=
  s.dev != .thermalStop && (s.recorder.flush.isSome || s.cal.save.isSome) && ((s.port p).queue.head?.any fun x => x.opcode == Op.UPDATE_DATA)

/-- R335: whether port p is the one that the supervisor takes next: LP whenever it has a command, else the next lane port in round-robin order with one. Once a
`RESET_DEVICE` is answered, what is queued is lost without a reply (R356): no port has a turn. -/
def State.hasTurn (s : State) (p : Nat) : Bool :=
  if s.sys.resetAt.isSome || s.flashWaits p then false
  else if p = 4 then true
  else
    let waits (k : Nat) : Bool := !(s.port k).queue.isEmpty
    let dist (k : Nat) : Nat := (k + 3 - s.sys.lastLane % 4) % 4
    !waits 4 && (List.range 4).all fun k => !(waits k && decide (dist k < dist p))

/-- Take the command at the head of port p off its queue. -/
def State.popCmd (s : State) (p : Nat) : State :=
  let q := s.port p
  let s := (s.setPort p { q with queue := q.queue.drop 1 }).syncPort p
  if p = 4 then s else { s with sys := { s.sys with lastLane := p } }

/-! ## The checks of R332 and the reply -/

/-- What a command brings about once it is answered: the entry into SAFE with a cause code (`FORCE_SAFE`), an event for all ports (a rejection, R347), or the restart of a
DMA channel (R382). -/
inductive After where
  | safe (cause : Nat)
  | event (code : Nat) (params : List Byte)
  | restartDma (n : Nat) (skip : Bool)
deriving DecidableEq, Repr

/-- What a command comes to: the state it leaves, its status and the parameters of its reply, and what follows the reply. -/
structure Reply where
  state : State
  status : Nat := 0
  params : List Byte := []
  after : Option After := none
deriving DecidableEq, Repr

/-- A failure: nothing changes; `detail` and what else its rule defines (R333). -/
def State.fail (s : State) (status : Nat) (detail : Nat := 0) (further : Nat := 0) : Reply := ⟨s, status, errParams detail further, none⟩

/-- Success with result parameters. -/
def State.ok (s : State) (params : List Byte := []) : Reply := ⟨s, Sts.OK, params, none⟩

/-- R343 `any`. -/
def anyStates : List DevState := [.standby, .armed, .sensing, .degraded, .calibrating, .safe, .thermalStop]

def allRoles : List Role := [.owner, .client, .observer, .safety]

/-- What the table of R343 says of an opcode: roles, states, whether it is judged under R29, the check of its parameter length: `none`, or the first byte that is missing
or too much, and the offsets of its parameter fields. -/
structure CmdRule where
  opcode : Nat
  roles : List Role := allRoles
  states : List DevState := anyStates
  judged : Bool := false
  len : Nat → Option Nat
  fields : List Nat := [0]

/-- R333: the offset of the parameter field that holds byte `d`; a byte past the block's end is in none. -/
def fieldStart (fields : List Nat) (d : Nat) : Nat := (fields.filter fun o => decide (o ≤ d)).getLastD d

/-- R333: the `DETAIL` of a parameter block of `l` bytes that is wrong at byte `d`: the field that is not whole, or the first byte that is too much. -/
def lenDetail (fields : List Nat) (l d : Nat) : Nat := if d < l then d else fieldStart fields d

/-- R331: the first byte at which a packet's parameters and its `LENGTH` disagree, or which its port does not take. -/
def lenFault (c : Cmd) : Nat := if c.params.length = c.length then maxParams c.port else min c.length c.params.length

/-- A parameter block of exactly n bytes. -/
def exactly (n : Nat) (l : Nat) : Option Nat := if l = n then none else some (min l n)

/-- R332 checks 4 and 5: the role and the state; in FAULT_HALT the state comes first, and what runs there is open to every role. -/
def State.permit (s : State) (r : CmdRule) (p : Nat) : Option Nat :=
  let roleOk := r.roles.contains (s.role p)
  let st := if r.judged then s.judged else s.dev
  if s.dev = .faultHalt then (if haltOpcode r.opcode then none else some Sts.BAD_STATE)
  else if !roleOk then some Sts.NOT_PERMITTED
  else if r.states.contains st then none
  else some Sts.BAD_STATE

/-- R332 check 1: the header of a command that arrived on port `c.port`, served as port p. -/
def headerOk (c : Cmd) (p : Nat) : Bool :=
  c.b5 == 0 && decide (c.b4.toNat / 8 = 0) && (c.b4.toNat % 8 == c.port.val || c.b4.toNat % 8 == p)

/-- R332: the command at the head of its queue, checked in order, then carried out by `body`. -/
def State.checked (s : State) (r : CmdRule) (p : Nat) (x : QCmd) (body : State → Reply) : Reply :=
  if !headerOk x.cmd p then s.fail Sts.BAD_HEADER
  else if !x.lenOk then s.fail Sts.BAD_LENGTH (lenDetail r.fields x.cmd.params.length (lenFault x.cmd))
  else match r.len x.cmd.length with
    | some d => s.fail Sts.BAD_LENGTH (lenDetail r.fields x.cmd.length d)
    | none => match s.permit r p with
      | some st => s.fail st
      | none => body s

/-- What follows a reply. -/
def State.follow (s : State) : Option After → State
  | none => s
  | some (.safe cause) => s.toSafe cause
  | some (.event code params) => s.raise code .all params
  | some (.restartDma n skip) => s.restartDma n skip

/-- R333: the reply of a command that was carried out, and what follows it. -/
def State.conclude (p : Nat) (x : QCmd) (y : Reply) : State :=
  (y.state.answer p x.opcode x.cmd.tag.toNat y.status y.params x.port).follow y.after

/-- R337: a command that was taken off its queue comes to what `go` says, or its kept reply is sent again. -/
def State.serve (s : State) (p : Nat) (x : QCmd) (go : State → Reply) : State :=
  match (s.port p).kept.find? fun k => k.tag == x.cmd.tag.toNat && k.opcode == x.opcode with
  | some k => s.sendReply p x.opcode x.cmd.tag.toNat k.status k.params k.port
  | none => State.conclude p x (go (s.inc (Reg.PORT_CMD_COUNT p)))

/-- R332, R333, R337: execute a command of port p that was taken off its queue. -/
def State.execute (s : State) (r : CmdRule) (p : Nat) (x : QCmd) (body : State → Reply) : State :=
  s.serve p x fun s => s.checked r p x body

/-- R332 check 3: a command with an opcode outside the table; the layout of its block is not known. -/
def State.unknown (s : State) (p : Nat) (x : QCmd) : Reply :=
  if !headerOk x.cmd p then s.fail Sts.BAD_HEADER
  else if !x.lenOk then s.fail Sts.BAD_LENGTH (lenFault x.cmd)
  else s.fail Sts.UNKNOWN_OPCODE

/-- Commands with an opcode outside the table, and those that the entry into FAULT_HALT aborted (R356), are answered as they reach their turn. -/
def State.drainUnknown : Nat → State → State
  | 0, s => s
  | fuel + 1, s =>
    match [4, 0, 1, 2, 3].find? fun p => s.hasTurn p && !(s.port p).queue.isEmpty with
    | none => s
    | some p =>
      match (s.port p).queue with
      | [] => s
      | x :: _ =>
        if x.aborted then ((s.popCmd p).sendAborted p x).drainUnknown fuel
        else if knownOpcode x.opcode then s
        else ((s.popCmd p).serve p x fun s => s.unknown p x).drainUnknown fuel

/-- A command of the table: a new one reaches its port; if it stands at the head of the queue and the port has its turn, the supervisor takes and executes it. -/
def State.command (s : State) (r : CmdRule) (body : Nat → QCmd → State → Reply) (c : Cmd) : State :=
  let p := s.portOf c.port
  if s.noCommands || !s.portExists p then s
  else
    let known := (s.port p).queue.any fun x => x.opcode == r.opcode && x.cmd == c
    let s := if known then s else s.arrive p { opcode := r.opcode, lenOk := cmdLenOk c, cmd := c }
    match (s.port p).queue with
    | [] => s
    | x :: _ =>
      if x.opcode = r.opcode ∧ x.cmd = c ∧ s.hasTurn p then
        (((s.popCmd p).execute r p x (body p x)).runCmds 8).drainUnknown 68
      else s

/-- COMMAND_ARRIVAL (R334): a complete command packet reaches its port. -/
def execCommandArrival (opcode : BitVec 16) (c : Cmd) (s : State) : Host.Outcome State Fault Refusal :=
  let p := s.portOf c.port
  .next (if s.noCommands || !s.portExists p then s
    else (s.arrive p { opcode := opcode.toNat, lenOk := cmdLenOk c, cmd := c }).drainUnknown 68)

/-! ## Packets on a lane and on LP -/

/-- The fields of a packet of at least 16 bytes, received on a port (R329). -/
def parseCmd (port : Port) (bytes : List Byte) : Nat × Cmd :=
  (fieldAt bytes 0 2,
   { port, tag := BitVec.ofNat 16 (fieldAt bytes 2 2), b4 := BitVec.ofNat 8 (fieldAt bytes 4 1), b5 := BitVec.ofNat 8 (fieldAt bytes 5 1)
     length := fieldAt bytes 8 2, params := bytes.drop 16 })

/-- R331: a packet is complete on lane l; `ok` says that it stayed within 64 flits. One that ends before its header is complete is discarded and counted. -/
def State.packetIn (s : State) (l : Nat) (bytes : List Byte) (ok : Bool) : State :=
  let p := s.portOf l
  if s.noCommands || !s.portExists p then s
  else if bytes.length < 16 then (s.flag Reg.CMD_FLAGS 1).inc (Reg.PORT_CMD_ERR p)
  else
    let k := parseCmd ⟨l % 4, by omega⟩ bytes
    (s.arrive p { opcode := k.1, lenOk := ok && cmdLenOk k.2, cmd := k.2 }).drainUnknown 68

/-- The bytes of a packet that the NL5 sends (R329). -/
def OutPkt.bytes (k : OutPkt) : List Byte :=
  leBytes 2 k.opcode ++ leBytes 2 k.tag ++ leBytes 1 k.port ++ leBytes 1 (if k.isEvent then 2 else 1) ++ leBytes 2 k.status ++
    leBytes 2 k.params.length ++ leBytes 2 k.seq ++ leBytes 4 k.timeUs ++ k.params

/-- A byte string and its CRC-32C. -/
def withCrc (bytes : List Byte) : List Byte := bytes ++ leBytes 4 (crc32c bytes)

/-- R354: whether the bytes of a `WRITE_PACKET` are one packet and its CRC. -/
def lpPacketOk (bytes : List Byte) : Bool :=
  decide (20 ≤ bytes.length) && bytes.length == 20 + fieldAt bytes 8 2 &&
    crc32c (bytes.take (bytes.length - 4)) == leNat (bytes.drop (bytes.length - 4))

/-- R354: what the bytes after a `WRITE_PACKET` come to. -/
def State.lpWrite (s : State) (bytes : List Byte) : State :=
  if lpPacketOk bytes then
    let k := parseCmd 4 (bytes.take (bytes.length - 4))
    (s.arrive 4 { opcode := k.1, lenOk := cmdLenOk k.2, cmd := k.2 }).drainUnknown 68
  else
    let s := (s.inc Reg.LP_CRC_ERR).flag Reg.CMD_FLAGS 2
    { s with sys := { s.sys with lpCrcErr := true } }

/-- What `READ_PACKET` returns after its dummy byte: the packet that waits first, or 16 zero bytes, and the CRC. -/
def State.lpNext (s : State) : List Byte :=
  match (s.port 4).out with
  | [] => withCrc (leBytes 16 0)
  | k :: _ => withCrc k.bytes

/-- R354: `n` bytes are clocked out after the dummy byte of a `READ_PACKET`. -/
def State.lpRead (s : State) (n : Nat) : State :=
  { s with sys := { s.sys with lpOut := s.lpNext.take n, lpTaken := !(s.port 4).out.isEmpty && decide (s.lpNext.length ≤ n) } }

/-- The LP status word (R354). -/
def State.lpStatus (s : State) : Nat :=
  let q := s.port 4
  let nextSeq := match q.out with
    | [] => q.nextSeq
    | k :: _ => k.seq
  b2n (q.out.any fun k => !k.isEvent) + 2 * b2n (q.out.any (·.isEvent)) + 4 * b2n (decide (q.queue.length < queueRoom 4)) + 8 * b2n s.sys.lpCrcErr +
    256 * min 255 q.out.length + 65536 * nextSeq

/-- R354: the status word is shifted out, and `CRC_ERR` cleared. -/
def State.lpReadStatus (s : State) : State := { s with sys := { s.sys with lpOut := leBytes 4 s.lpStatus, lpCrcErr := false } }

/-- R353: a transaction on LP, by the bytes on `LP_MOSI`: an instruction byte and what follows it. Other codes are ignored. -/
def State.lpTransaction (s : State) (mosi : List Byte) : State :=
  if s.noCommands then s
  else match mosi with
    | [] => s
    | code :: rest =>
      if code = 0x02 then s.lpWrite rest
      else if code = 0x0B then s.lpRead (rest.length - 1)
      else if code = 0x05 then s.lpReadStatus
      else s

/-- LP_WRITE_PACKET (R353, R354): instruction 0x02 and the bytes that follow it. -/
def execLpWritePacket (bytes : List Byte) (s : State) : Host.Outcome State Fault Refusal := .next (s.lpTransaction (0x02 :: bytes))

/-- LP_READ_PACKET (R353, R354): instruction 0x0B, its dummy byte, and `n` bytes clocked out. -/
def execLpReadPacket (n : Nat) (s : State) : Host.Outcome State Fault Refusal := .next (s.lpTransaction (0x0B :: List.replicate (n + 1) 0))

/-- LP_READ_STATUS (R353, R354): instruction 0x05 and the four bytes of the status word. -/
def execLpReadStatus (s : State) : Host.Outcome State Fault Refusal := .next (s.lpTransaction (0x05 :: List.replicate 4 0))

/-- LP_CS_RELEASE (R354, R355): `IRQ_N` follows what is left. After a packet and its CRC were clocked out whole, the packet leaves the queue. -/
def execLpCsRelease (s : State) : Host.Outcome State Fault Refusal :=
  .next (if s.sys.lpTaken then (State.popOut { s with sys := { s.sys with lpTaken := false } } 4).owedRetrains else s)

/-- A running command that reports through `COMMAND_DONE` (R336): `BUSY` while one of the same opcode runs. -/
def State.startRunning (s : State) (opcode p tag : Nat) (go : State → Reply) : Reply :=
  if s.sys.running.any (·.opcode == opcode) then s.fail Sts.BUSY
  else
    let y := go s
    if y.status = Sts.OK then
      { y with state := { y.state with sys := { y.state.sys with running := y.state.sys.running ++ [⟨opcode, p, tag⟩] } } }
    else y

end Sys2Proof.Machine
end

