-- ==== Sys2Proof/Machine/PortCmds.lean ====
section
/-!
DEFINITION. Machine/PortCmds.lean: the commands of ports, owners, states and time: `NOP`, `OWNER_CLAIM`, `OWNER_RELEASE`, the state-changing commands,
`RESET_DEVICE`, `SYNC_TIME` and `EVENT_CONFIG`.
-/

namespace Sys2Proof.Machine

/-- A command by its rule and its effect, as a row's meaning. -/
def State.runCommand (s : State) (r : CmdRule) (body : Nat → QCmd → State → Reply) (c : Cmd) : Host.Outcome State Fault Refusal :=
  .next (s.command r body c)

def ownerOnly : List Role := [.owner]

/-! ## Ports -/

def nopRule : CmdRule := { opcode := Op.NOP, len := exactly 0 }

/-- NOP (R343): the reply is `OK` with no parameters. -/
def State.doNop (s : State) (_ : Nat) (_ : QCmd) : Reply :=
  s.ok

/-- NOP: the command by its rule and its effect. -/
def execNop (c : Cmd) (s : State) : Host.Outcome State Fault Refusal := s.runCommand nopRule (fun p x s => s.doNop p x) c

def eventConfigRule : CmdRule := { opcode := Op.EVENT_CONFIG, len := exactly 4 }

/-- EVENT_CONFIG (R349): the mask of the issuing port. -/
def State.doEventConfig (s : State) (p : Nat) (x : QCmd) : Reply :=
  (s.setR (Reg.PORT_EVT_MASK p) (fieldAt x.cmd.params 0 4)).ok

/-- EVENT_CONFIG: the command by its rule and its effect. -/
def execEventConfig (c : Cmd) (s : State) : Host.Outcome State Fault Refusal := s.runCommand eventConfigRule (fun p x s => s.doEventConfig p x) c

def ownerClaimRule : CmdRule := { opcode := Op.OWNER_CLAIM, roles := [.owner, .client, .observer], len := exactly 1 }

/-- `RANK` of a port in `PORT_ROLE_CFG`. -/
def State.rank (s : State) (p : Nat) : Nat := s.f Reg.PORT_ROLE_CFG (8 * p + 4) (8 * p + 2)

/-- R339: the decision on a claim. -/
def State.claim (s : State) (p : Nat) (force : Bool) : Reply :=
  if !s.bit Reg.PORT_ROLE_CFG (8 * p + 1) then s.fail Sts.NOT_PERMITTED
  else match s.owner with
    | none => (s.changeOwner (some p) 1).ok
    | some o =>
      if o = p then s.ok
      else if force ∧ s.rank o < s.rank p then (s.changeOwner (some p) 2).ok
      else s.fail Sts.OWNER_HELD o

/-- OWNER_CLAIM (R339). -/
def State.doOwnerClaim (s : State) (p : Nat) (x : QCmd) : Reply :=
  s.claim p (bitN (fieldAt x.cmd.params 0 1) 0)

/-- OWNER_CLAIM: the command by its rule and its effect. -/
def execOwnerClaim (c : Cmd) (s : State) : Host.Outcome State Fault Refusal := s.runCommand ownerClaimRule (fun p x s => s.doOwnerClaim p x) c

def ownerReleaseRule : CmdRule := { opcode := Op.OWNER_RELEASE, roles := ownerOnly, len := exactly 0 }

/-- OWNER_RELEASE (R340). -/
def State.doOwnerRelease (s : State) (_ : Nat) (_ : QCmd) : Reply :=
  (s.changeOwner none 3).ok

/-- OWNER_RELEASE: the command by its rule and its effect. -/
def execOwnerRelease (c : Cmd) (s : State) : Host.Outcome State Fault Refusal := s.runCommand ownerReleaseRule (fun p x s => s.doOwnerRelease p x) c

/-! ## State-changing commands (R27, R29, R336) -/

/-- R29, R336: accept a state-changing command. -/
def State.accept (s : State) (opcode p : Nat) (x : QCmd) (code : Nat := 0) : Reply :=
  if 8 ≤ s.sys.cmds.length then s.fail Sts.BUSY
  else State.ok { s with sys := { s.sys with cmds := s.sys.cmds ++ [{ opcode, port := p, tag := x.cmd.tag.toNat, code }] } }

/-- The rule of a state-changing command. -/
def stateRule (opcode : Nat) (states : List DevState) (roles : List Role := ownerOnly) : CmdRule :=
  { opcode, roles, states, judged := true, len := exactly 0 }

/-- ARM (R138). -/
def State.doArm (s : State) (p : Nat) (x : QCmd) : Reply :=
  s.accept Op.ARM p x

/-- ARM: the command by its rule and its effect. -/
def execArm (c : Cmd) (s : State) : Host.Outcome State Fault Refusal := s.runCommand (stateRule Op.ARM [.standby]) (fun p x s => s.doArm p x) c

/-- DISARM (R140). -/
def State.doDisarm (s : State) (p : Nat) (x : QCmd) : Reply :=
  s.accept Op.DISARM p x

/-- DISARM: the command by its rule and its effect. -/
def execDisarm (c : Cmd) (s : State) : Host.Outcome State Fault Refusal := s.runCommand (stateRule Op.DISARM [.armed]) (fun p x s => s.doDisarm p x) c

/-- R113: `EMIT_STATUS.FAULT_IN`. -/
def State.faultIn (s : State) : Bool := s.bit Reg.EMIT_STATUS 5

/-- R133: an axis that is not in `AUTO`. -/
def State.manualAxis (s : State) : Bool := s.f (Reg.AX_MODE 0) 1 0 != 0 || s.f (Reg.AX_MODE 1) 1 0 != 0

/-- START_SENSING (R108): with `FAULT_IN` or an axis not in `AUTO` it completes with `BAD_STATE` (R113, R133). -/
def State.doStartSensing (s : State) (p : Nat) (x : QCmd) : Reply :=
  if s.faultIn || s.manualAxis then s.fail Sts.BAD_STATE else s.accept Op.START_SENSING p x

/-- START_SENSING: the command by its rule and its effect. -/
def execStartSensing (c : Cmd) (s : State) : Host.Outcome State Fault Refusal := s.runCommand (stateRule Op.START_SENSING [.armed]) (fun p x s => s.doStartSensing p x) c

/-- STOP_SENSING (R27). -/
def State.doStopSensing (s : State) (p : Nat) (x : QCmd) : Reply :=
  s.accept Op.STOP_SENSING p x

/-- STOP_SENSING: the command by its rule and its effect. -/
def execStopSensing (c : Cmd) (s : State) : Host.Outcome State Fault Refusal := s.runCommand (stateRule Op.STOP_SENSING [.sensing, .degraded]) (fun p x s => s.doStopSensing p x) c

/-- FORCE_SAFE (R27, R356): in a state that SAFE can be reached from it acts at once, and cancels what is pending; accepted behind commands that have still to
reach such a state it waits for its turn. The cause is 0x50 from the SAFETY role and 0x51 from the owner (R403). -/
def State.doForceSafe (s : State) (p : Nat) (x : QCmd) : Reply :=
  let code := if s.role p = .safety then 0x50 else 0x51
  if s.dev.scanning then { s.ok with after := some (.safe code) } else s.accept Op.FORCE_SAFE p x code

/-- FORCE_SAFE: the command by its rule and its effect. -/
def execForceSafe (c : Cmd) (s : State) : Host.Outcome State Fault Refusal := s.runCommand (stateRule Op.FORCE_SAFE [.armed, .sensing, .degraded, .calibrating] [.owner, .safety]) (fun p x s => s.doForceSafe p x) c

/-- R114, R113, R141, R403, R414: whether `RECOVER` is accepted. -/
def State.mayRecover (s : State) : Bool :=
  let parked (a : Nat) : Bool := s.axState a == 5 || s.axState a == 0
  !s.faultIn && (s.emit.faultLow.isNone || (!s.lsd && s.sys.cause != 0x54)) &&
    (!s.lsd || (s.f Reg.EMIT_LSD_CAUSE 5 0 == 0 && decide (s.r Reg.EMIT_LSD_COUNT < 3))) &&
    (s.dev != .safe || s.sys.cause != 0x53 || (parked 0 && parked 1)) &&
    (s.dev != .thermalStop || s.coolEnough)

/-- RECOVER (R27, R403). -/
def State.doRecover (s : State) (p : Nat) (x : QCmd) : Reply :=
  if s.mayRecover then s.accept Op.RECOVER p x else s.fail Sts.BAD_STATE

/-- RECOVER: the command by its rule and its effect. -/
def execRecover (c : Cmd) (s : State) : Host.Outcome State Fault Refusal := s.runCommand (stateRule Op.RECOVER [.safe, .thermalStop]) (fun p x s => s.doRecover p x) c

def resetDeviceRule : CmdRule := { opcode := Op.RESET_DEVICE, roles := [.owner, .safety], len := exactly 0 }

/-- RESET_DEVICE (R356): the reply is sent, and reset follows 1 ms later. -/
def State.doResetDevice (s : State) (_ : Nat) (_ : QCmd) : Reply :=
  State.ok { s with sys := { s.sys with resetAt := some (s.now + 1000000) } }

/-- RESET_DEVICE: the command by its rule and its effect. -/
def execResetDevice (c : Cmd) (s : State) : Host.Outcome State Fault Refusal := s.runCommand resetDeviceRule (fun p x s => s.doResetDevice p x) c

/-! ## Time (R274) -/

def syncTimeRule : CmdRule := { opcode := Op.SYNC_TIME, roles := ownerOnly, len := exactly 12, fields := [0, 8, 9] }

/-- R274: take the host's time. -/
def State.syncTime (s : State) (x : QCmd) : Reply :=
  let th := fieldAt x.cmd.params 0 8
  let mode := fieldBits x.cmd.params 8 1 1 0
  let o : Int := (th : Int) - x.rx
  let res := leBytes 8 x.rx ++ leBytes 8 (wrapNat 64 o)
  if s.swarmOn && !s.swarmMaster then s.fail Sts.BAD_STATE
  else if 2 ≤ mode then s.fail Sts.BAD_PARAM 8
  else if mode = 0 then (s.slewTime o).ok res
  else if s.dev = .standby ∨ s.dev = .armed ∨ s.dev = .safe then (s.stepTime o).ok res
  else s.fail Sts.BAD_STATE

/-- SYNC_TIME (R274). -/
def State.doSyncTime (s : State) (_ : Nat) (x : QCmd) : Reply :=
  s.syncTime x

/-- SYNC_TIME: the command by its rule and its effect. -/
def execSyncTime (c : Cmd) (s : State) : Host.Outcome State Fault Refusal := s.runCommand syncTimeRule (fun p x s => s.doSyncTime p x) c

end Sys2Proof.Machine
end

