-- ==== Sys2Proof/Machine/ArbCmds.lean ====
section
/-!
DEFINITION. Machine/ArbCmds.lean: the commands of region requests (R68 to R71).
-/

namespace Sys2Proof.Machine

/-- The roles that hold requests, subscriptions and captures. -/
def hostRoles : List Role := [.owner, .client]

/-- R68, R69: the first field of a request that fails a check of R41 as it applies here, by its offset. -/
def regionFault (columns : Nat) (e : List Byte) : Option Nat :=
  let first := fieldBits e 4 2 10 0
  let last := fieldBits e 6 2 10 0
  let tests : List (Nat × Bool) := [
    (2, decide (fieldBits e 2 1 2 0 ≤ 5) && fieldBits e 2 1 7 6 == 0),
    (3, fieldBits e 3 1 7 2 == 0),
    (4, fieldBits e 4 2 15 11 == 0),
    (6, fieldBits e 6 2 15 11 == 0 && decide (first ≤ last ∧ last < columns)),
    (16, decide (1 ≤ fieldAt e 16 1 ∧ fieldAt e 16 1 ≤ 64)),
    (17, decide (fieldAt e 16 1 ≤ fieldAt e 17 1 ∧ fieldAt e 17 1 ≤ 64)),
    (18, decide (1 ≤ fieldAt e 18 1 ∧ fieldAt e 18 1 ≤ 8)),
    (19, fieldBits e 19 1 7 4 == 0),
    (20, decide (10 ≤ fieldAt e 20 2 ∧ fieldAt e 20 2 ≤ 25000)),
    (23, fieldAt e 23 1 == 0),
    (26, fieldAt e 26 6 == 0)]
  (tests.find? fun t => !t.2).map (·.1)

/-- The request that a parameter block asks for (R68). -/
def regionReq (e : List Byte) : Req where
  id := fieldAt e 0 2
  periodic := bitN (fieldAt e 2 1) 3
  estop := bitN (fieldAt e 2 1) 4
  empty := bitN (fieldAt e 2 1) 5
  firstCol := fieldBits e 4 2 10 0
  lastCol := fieldBits e 6 2 10 0
  segMask := fieldAt e 8 8
  min := fieldAt e 16 1
  max := fieldAt e 17 1
  batch := fieldAt e 18 1
  profile := fieldBits e 19 1 3 0
  range := fieldAt e 20 2
  revisit := max 1 (fieldAt e 22 1)
  passes := fieldAt e 24 2

/-- R69: queue a request on stream i; a back-off that still runs excludes it, from the frame after its outcome on (R86). -/
def State.queueRequest (s : State) (i : Nat) (e : List Byte) : State :=
  let x := s.stream i
  let runs := decide (wrapSub 32 s.frameNo x.exclFrom ≤ x.excl)
  s.setStream i { subPrio := fieldBits e 3 1 1 0, b := x.b, lastCode := x.lastCode, req := some (regionReq e), st := if x.excluded s.frameNo then 2 else 1,
                  excl := if runs then x.excl else 0, exclFrom := x.exclFrom }

def regionRule (opcode n : Nat) : CmdRule :=
  { opcode, roles := hostRoles, len := exactly n, fields := [0, 2, 3, 4, 6, 8, 16, 17, 18, 19, 20, 22, 23, 24, 26] }

/-- REGION_REQUEST (R68, R69). -/
def State.doRegionRequest (s : State) (p : Nat) (x : QCmd) : Reply :=
  let e := x.cmd.params
  let i := 6 * p + fieldBits e 2 1 2 0
  match regionFault s.columns e with
  | some o => s.fail Sts.BAD_PARAM o
  | none => if (s.stream i).req.isSome then s.fail Sts.STREAM_BUSY else (s.queueRequest i e).ok

/-- REGION_REQUEST: the command by its rule and its effect. -/
def execRegionRequest (c : Cmd) (s : State) : Host.Outcome State Fault Refusal := s.runCommand (regionRule Op.REGION_REQUEST 32) (fun p x s => s.doRegionRequest p x) c

/-- REGION_CANCEL (R70): the reply carries the passes served. -/
def State.doRegionCancel (s : State) (p : Nat) (x : QCmd) : Reply :=
  let k := fieldBits x.cmd.params 2 1 2 0
  let i := 6 * p + k
  if 5 < k then s.fail Sts.BAD_PARAM 2
  else (s.cancelStream i).ok (leBytes 2 (if (s.stream i).req.isSome then min 65535 (s.stream i).served else 0))

/-- REGION_CANCEL: the command by its rule and its effect. -/
def execRegionCancel (c : Cmd) (s : State) : Host.Outcome State Fault Refusal := s.runCommand (regionRule Op.REGION_CANCEL 4) (fun p x s => s.doRegionCancel p x) c

/-- REGION_PRIORITY (R71). The next arbitration point works with the new rank; a grant takes a lowered one there. -/
def State.doRegionPriority (s : State) (p : Nat) (x : QCmd) : Reply :=
  let k := fieldBits x.cmd.params 2 1 2 0
  let i := 6 * p + k
  if 5 < k then s.fail Sts.BAD_PARAM 2
  else (s.setStream i { s.stream i with subPrio := fieldBits x.cmd.params 3 1 1 0 }).ok

/-- REGION_PRIORITY: the command by its rule and its effect. -/
def execRegionPriority (c : Cmd) (s : State) : Host.Outcome State Fault Refusal := s.runCommand (regionRule Op.REGION_PRIORITY 4) (fun p x s => s.doRegionPriority p x) c

end Sys2Proof.Machine
end

