-- ==== Sys2Proof/Machine/Sha3.lean ====
section
/-!
DEFINITION. Machine/Sha3.lean: SHA3-256 and the functions SHAKE128 and SHAKE256 of FIPS 202, which chapter 19 names by that standard (PRESUMED: log entry 134).
A Keccak state is the list of its 25 lanes, lane (x, y) at index x + 5 y.
-/

namespace Sys2Proof.Machine

/-- The rotation of each lane. -/
def keccakRot : List Nat := [0, 1, 62, 28, 27, 36, 44, 6, 55, 20, 3, 10, 43, 25, 39, 41, 45, 15, 21, 8, 18, 2, 61, 56, 14]

/-- The constant of each round. -/
def keccakRound : List (BitVec 64) :=
  [0x0000000000000001, 0x0000000000008082, 0x800000000000808A, 0x8000000080008000, 0x000000000000808B, 0x0000000080000001] ++
  [0x8000000080008081, 0x8000000000008009, 0x000000000000008A, 0x0000000000000088, 0x0000000080008009, 0x000000008000000A] ++
  [0x000000008000808B, 0x800000000000008B, 0x8000000000008089, 0x8000000000008003, 0x8000000000008002, 0x8000000000000080] ++
  [0x000000000000800A, 0x800000008000000A, 0x8000000080008081, 0x8000000000008080, 0x0000000080000001, 0x8000000080008008]

/-- One round of the permutation: θ, ρ, π, χ and ι. -/
def keccakStep (a : List (BitVec 64)) (rc : BitVec 64) : List (BitVec 64) :=
  let lane (l : List (BitVec 64)) (x y : Nat) : BitVec 64 := l.getD (x % 5 + 5 * (y % 5)) 0
  let c := (List.range 5).map fun x => lane a x 0 ^^^ lane a x 1 ^^^ lane a x 2 ^^^ lane a x 3 ^^^ lane a x 4
  let d := (List.range 5).map fun x => c.getD ((x + 4) % 5) 0 ^^^ (c.getD ((x + 1) % 5) 0).rotateLeft 1
  let r := (List.range 25).map fun i => (a.getD i 0 ^^^ d.getD (i % 5) 0).rotateLeft (keccakRot.getD i 0)
  -- π moves lane (x, y) to (y, 2x + 3y)
  let b := (List.range 25).map fun i => lane r (i % 5 + 3 * (i / 5)) (i % 5)
  let e := (List.range 25).map fun i => lane b i (i / 5) ^^^ (~~~ lane b (i + 1) (i / 5) &&& lane b (i + 2) (i / 5))
  (e.headD 0 ^^^ rc) :: e.drop 1

/-- The permutation of 24 rounds. -/
def keccakF (a : List (BitVec 64)) : List (BitVec 64) := keccakRound.foldl keccakStep a

/-- The bytes of a state, lowest lane first. -/
def keccakBytes (a : List (BitVec 64)) : List Byte := (a.map fun l => leBytes 8 l.toNat).flatten

/-- Absorb a padded message, `n` blocks of `rate` bytes. -/
def keccakAbsorb (rate : Nat) : Nat → List Byte → List (BitVec 64) → List (BitVec 64)
  | 0, _, a => a
  | n + 1, m, a =>
    let block := m.take rate
    keccakAbsorb rate n (m.drop rate)
      (keccakF ((List.range 25).map fun i => a.getD i 0 ^^^ BitVec.ofNat 64 (leNat ((block.drop (8 * i)).take 8))))

/-- Squeeze `n` blocks. -/
def keccakSqueeze (rate : Nat) : Nat → List (BitVec 64) → List Byte
  | 0, _ => []
  | n + 1, a => (keccakBytes a).take rate ++ keccakSqueeze rate n (keccakF a)

/-- A message with its suffix bits, padded to whole blocks. -/
def keccakPad (rate suffix : Nat) (m : List Byte) : List Byte :=
  let free := rate - m.length % rate
  if free = 1 then m ++ leBytes 1 (suffix + 128) else m ++ leBytes 1 suffix ++ List.replicate (free - 2) 0 ++ leBytes 1 128

/-- The sponge: `n` bytes for a message. -/
def keccak (rate suffix : Nat) (m : List Byte) (n : Nat) : List Byte :=
  let p := keccakPad rate suffix m
  (keccakSqueeze rate (n / rate + 1) (keccakAbsorb rate (p.length / rate) p (List.replicate 25 0))).take n

/-- SHA3-256 (FIPS 202). -/
@[irreducible] def sha3_256 (m : List Byte) : List Byte := keccak 136 0x06 m 32

/-- SHAKE128 (FIPS 202). -/
@[irreducible] def shake128 (m : List Byte) (n : Nat) : List Byte := keccak 168 0x1F m n

/-- SHAKE256 (FIPS 202). -/
@[irreducible] def shake256 (m : List Byte) (n : Nat) : List Byte := keccak 136 0x1F m n

end Sys2Proof.Machine
end

