-- ==== Sys2Proof/Machine/MlDsa.lean ====
section
/-!
DEFINITION. Machine/MlDsa.lean: ML-DSA-44 of FIPS 204, which chapter 19 names by that standard: key generation from a seed, signing and verification, in pure mode with
an empty context (PRESUMED: log entry 134). A polynomial is the list of its 256 coefficients modulo q; a vector has four.
-/

namespace Sys2Proof.Machine

abbrev Poly := List Nat

/-- The modulus. -/
def dsaQ : Nat := 8380417

/-- γ1 = 2¹⁷, γ2 = (q − 1) / 88, β = 78 and the most hints, ω = 80. -/
def dsaG1 : Nat := 131072
def dsaG2 : Nat := 95232
def dsaBeta : Nat := 78
def dsaOmega : Nat := 80

/-! ## Polynomials -/

def polyAdd (a b : Poly) : Poly := List.zipWith (fun x y => (x + y) % dsaQ) a b

def polySub (a b : Poly) : Poly := List.zipWith (fun x y => (x + dsaQ - y) % dsaQ) a b

/-- The product of two polynomials in the domain of the transform. -/
def polyMul (a b : Poly) : Poly := List.zipWith (fun x y => x * y % dsaQ) a b

/-- The eight bits of a number in reverse. -/
def rev8 (m : Nat) : Nat := (List.range 8).foldl (fun v i => v + if bitN m i then 2 ^ (7 - i) else 0) 0

/-- The number-theoretic transform of 2ⁿ coefficients at node m of its tree. -/
def nttAt : Nat → Nat → Poly → Poly
  | 0, _, l => l
  | n + 1, m, l =>
    let lo := l.take (2 ^ n)
    let t := (l.drop (2 ^ n)).map fun x => 1753 ^ rev8 m % dsaQ * x % dsaQ
    nttAt n (2 * m) (polyAdd lo t) ++ nttAt n (2 * m + 1) (polySub lo t)

/-- Its inverse, but for the factor. -/
def invNttAt : Nat → Nat → Poly → Poly
  | 0, _, l => l
  | n + 1, m, l =>
    let lo := invNttAt n (2 * m) (l.take (2 ^ n))
    let hi := invNttAt n (2 * m + 1) (l.drop (2 ^ n))
    polyAdd lo hi ++ (polySub lo hi).map fun x => 1753 ^ (512 - rev8 m) % dsaQ * x % dsaQ

def ntt (l : Poly) : Poly := nttAt 8 1 l

/-- The inverse transform; 8,347,681 is 1/256. -/
def invNtt (l : Poly) : Poly := (invNttAt 8 1 l).map fun x => 8347681 * x % dsaQ

/-- The representative of x modulo m nearest to 0. -/
def centred (m x : Nat) : Int := if m / 2 < x % m then ((x % m : Nat) : Int) - m else (x % m : Nat)

/-- A coefficient of a signed value. -/
def coef (x : Int) : Nat := (x % dsaQ).toNat

/-- The largest magnitude in a vector. -/
def dsaNorm (v : List Poly) : Nat := ((v.flatten).map fun x => (centred dsaQ x).natAbs).foldl max 0

/-- A matrix times a vector, in the domain of the transform. -/
def matMul (a : List (List Poly)) (v : List Poly) : List Poly :=
  a.map fun row => (List.zipWith polyMul row v).foldl polyAdd (List.replicate 256 0)

/-- The high part and the low part of a coefficient (Decompose). -/
def decompose (x : Nat) : Nat × Int :=
  let r := x % dsaQ
  let r0 := centred (2 * dsaG2) r
  if (r : Int) - r0 = dsaQ - 1 then (0, r0 - 1) else ((((r : Int) - r0) / (2 * dsaG2 : Nat)).toNat, r0)

/-! ## Bytes -/

/-- 256 numbers of `w` bits from bytes, and the bytes of such numbers. -/
def bitsUnpack (w : Nat) (b : List Byte) : List Nat :=
  let n := leNat b
  (List.range 256).map fun i => n / 2 ^ (w * i) % 2 ^ w

def bitsPack (w : Nat) (l : List Nat) : List Byte := leBytes (32 * w) ((l.zipIdx.map fun e => e.1 * 2 ^ (w * e.2)).sum)

/-- The coefficients γ1 − v of a polynomial with small coefficients of both signs, in 18 bits each. -/
def maskUnpack (b : List Byte) : Poly := (bitsUnpack 18 b).map fun (v : Nat) => coef ((dsaG1 : Int) - (v : Nat))

/-- A polynomial of the matrix from its seed (RejNTTPoly): 23-bit numbers below q. -/
def rejNtt (seed : List Byte) : Poly :=
  let b := shake128 seed 3072
  (((List.range 1024).map fun i => leNat ((b.drop (3 * i)).take 3) % 2 ^ 23).filter fun v => decide (v < dsaQ)).take 256

/-- A secret polynomial from its seed (RejBoundedPoly): half bytes below 15, as 2 − (v mod 5). -/
def rejBounded (seed : List Byte) : Poly :=
  ((((shake256 seed 1024).map fun b => [b.toNat % 16, b.toNat / 16]).flatten.filter fun v => decide (v < 15)).map fun v => coef (2 - (v % 5 : Nat))).take 256

/-- The matrix (ExpandA). -/
def dsaMatrix (rho : List Byte) : List (List Poly) :=
  (List.range 4).map fun r => (List.range 4).map fun c => rejNtt (rho ++ leBytes 1 c ++ leBytes 1 r)

/-- The places of a challenge (SampleInBall): the next byte that is at most i, and what follows it. -/
def ballPlace (i : Nat) : List Byte → Nat × List Byte
  | [] => (0, [])
  | b :: l => if b.toNat ≤ i then (b.toNat, l) else ballPlace i l

/-- The challenge polynomial with 39 coefficients of 1 or −1. -/
def sampleBall (seed : List Byte) : Poly :=
  let b := shake256 seed 1024
  let signs := leNat (b.take 8)
  ((List.range 39).foldl (fun (a : Poly × List Byte) k =>
    let i := 217 + k
    let p := ballPlace i a.2
    ((a.1.set i (a.1.getD p.1 0)).set p.1 (if bitN signs k then dsaQ - 1 else 1), p.2)) (List.replicate 256 0, b.drop 8)).1

/-! ## Keys -/

/-- What a seed expands to: the matrix, the secrets, the low part of t, the key of the mask, and the public key. -/
structure DsaKey where
  a : List (List Poly)
  s1 : List Poly
  s2 : List Poly
  t0 : List Poly
  k : List Byte
  pk : List Byte
deriving DecidableEq, Repr

def dsaKey (xi : List Byte) : DsaKey :=
  let h := shake256 (xi ++ leBytes 1 4 ++ leBytes 1 4) 128
  let rho := h.take 32
  let secret (r : Nat) : Poly := rejBounded ((h.drop 32).take 64 ++ leBytes 2 r)
  let a := dsaMatrix rho
  let s1 := (List.range 4).map secret
  let s2 := (List.range 4).map fun r => secret (r + 4)
  let t := List.zipWith polyAdd ((matMul a (s1.map ntt)).map invNtt) s2
  { a, s1, s2, k := h.drop 96
    t0 := t.map fun p => p.map fun x => coef (centred 8192 x)
    pk := rho ++ (t.map fun p => bitsPack 10 (p.map fun (x : Nat) => (((x : Int) - centred 8192 x) / 8192).toNat)).flatten }

/-- The public key of a seed (KeyGen). -/
@[irreducible] def mldsaPublic (xi : List Byte) : List Byte := (dsaKey xi).pk

/-- The message representative in pure mode with an empty context. -/
def dsaMu (pk m : List Byte) : List Byte := shake256 (shake256 pk 64 ++ [0, 0] ++ m) 64

/-- The challenge seed of a message and the high parts w1. -/
def dsaChallenge (mu : List Byte) (w1 : List (List Nat)) : List Byte := shake256 (mu ++ (w1.map (bitsPack 6)).flatten) 32

/-! ## Signing -/

/-- The hints of a vector (MakeHint): where adding `t` changes the high part. -/
def makeHint (r t : Poly) : List Nat := List.zipWith (fun x y => b2n ((decompose x).1 != (decompose (x + y)).1)) r t

/-- The hints as bytes (HintBitPack). -/
def hintPack (h : List (List Nat)) : List Byte :=
  let at_ := h.map fun p => (List.range 256).filter fun j => p.getD j 0 == 1
  let l := at_.flatten
  (l ++ List.replicate (dsaOmega - l.length) 0 ++ (List.range 4).map fun i => ((at_.take (i + 1)).flatten).length).map (BitVec.ofNat 8)

/-- Attempts to sign from attempt number `i` on. -/
def dsaAttempts (key : DsaKey) (mu mask : List Byte) : Nat → Nat → List Byte
  | 0, _ => []
  | n + 1, i =>
    let y := (List.range 4).map fun r => maskUnpack (shake256 (mask ++ leBytes 2 (4 * i + r)) 576)
    let w := (matMul key.a (y.map ntt)).map invNtt
    let ct := dsaChallenge mu (w.map fun p => p.map fun x => (decompose x).1)
    let c := ntt (sampleBall ct)
    let times (v : List Poly) : List Poly := v.map fun p => invNtt (polyMul c (ntt p))
    let z := List.zipWith polyAdd y (times key.s1)
    let r := List.zipWith polySub w (times key.s2)
    let t := times key.t0
    let h := List.zipWith makeHint r t
    let low := (r.flatten.map fun x => (decompose x).2.natAbs).foldl max 0
    if dsaG1 - dsaBeta ≤ dsaNorm z ∨ dsaG2 - dsaBeta ≤ low ∨ dsaG2 ≤ dsaNorm t ∨ dsaOmega < h.flatten.sum then dsaAttempts key mu mask n (i + 1)
    else ct ++ (z.map fun p => bitsPack 18 (p.map fun x => ((dsaG1 : Int) - centred dsaQ x).toNat)).flatten ++ hintPack h

/-- The signature of a message under the key of a seed (Sign), with 32 random bytes. -/
@[irreducible] def mldsaSign (xi m random : List Byte) : List Byte :=
  let key := dsaKey xi
  let mu := dsaMu key.pk m
  dsaAttempts key mu (shake256 (key.k ++ random ++ mu) 64) 1000 0

/-! ## Verification -/

/-- Whether the places of one polynomial's hints ascend. -/
def ascends : List Nat → Bool
  | [] => true
  | [_] => true
  | x :: y :: l => decide (x < y) && ascends (y :: l)

/-- The hints of a signature, if their bytes are well formed (HintBitUnpack). -/
def hintUnpack (b : List Byte) : Option (List (List Nat)) :=
  let ends := (List.range 4).map fun i => ((b.drop (80 + i)).headD 0).toNat
  let from_ (i : Nat) : Nat := if i = 0 then 0 else ends.getD (i - 1) 0
  let places (i : Nat) : List Nat := (((b.take (ends.getD i 0)).drop (from_ i)).map (·.toNat))
  if (List.range 4).any fun i => decide (ends.getD i 0 < from_ i ∨ dsaOmega < ends.getD i 0) then none
  else if (List.range 4).any fun i => !ascends (places i) then none
  else if ((b.take 80).drop (ends.getD 3 0)).any (· != 0) then none
  else some ((List.range 4).map fun i => (List.range 256).map fun j => b2n ((places i).contains j))

/-- The high part of a coefficient under a hint (UseHint). -/
def useHint (h x : Nat) : Nat :=
  let r := decompose x
  if h = 0 then r.1 else if 0 < r.2 then (r.1 + 1) % 44 else (r.1 + 43) % 44

/-- Whether a signature over a message verifies under a public key (Verify). -/
@[irreducible] def mldsaVerify (pk m sig : List Byte) : Bool :=
  if pk.length ≠ 1312 ∨ sig.length ≠ 2420 then false
  else
    let part (l : List Byte) (o n i : Nat) : List Byte := (l.drop (o + n * i)).take n
    let t1 := (List.range 4).map fun i => bitsUnpack 10 (part pk 32 320 i)
    let z := (List.range 4).map fun i => maskUnpack (part sig 32 576 i)
    match hintUnpack (sig.drop 2336) with
    | none => false
    | some h =>
      let c := ntt (sampleBall (sig.take 32))
      let ct1 := t1.map fun p => polyMul c (ntt (p.map fun x => x * 8192 % dsaQ))
      let w := (List.zipWith polySub (matMul (dsaMatrix (pk.take 32)) (z.map ntt)) ct1).map invNtt
      decide (dsaNorm z < dsaG1 - dsaBeta) && dsaChallenge (dsaMu pk m) (List.zipWith (List.zipWith useHint) h w) == sig.take 32

end Sys2Proof.Machine
end

