-- ==== Sys2Proof/Machine/ThermRows.lean ====
section
/-!
DEFINITION. Machine/ThermRows.lean: the meanings of the rows of temperature and calibration (chapter 18), and the full-system run that a frame
boundary starts and ends.
-/

namespace Sys2Proof.Machine

/-! ## Due combs (R420) -/

/-- The due comb that runs next: the largest excess, then the lower index; a lost comb is not run (R428). -/
def State.calNext (s : State) : Option Nat :=
  let l := (List.range s.variant.combs).filterMap fun c =>
    if s.bit Reg.RX_COMB_LOST c then none else (s.calExcess c).map fun x => (c, x)
  match l with
  | [] => none
  | a :: r => some (r.foldl (fun (m x : Nat × Nat) => if m.2 < x.2 then x else m) a).1

/-- The states in which comb-level runs start (R420). -/
def State.calRuns (s : State) : Bool :=
  (s.dev == .armed || s.dev.emitting) && s.cal.run.isNone && s.cal.full.isNone && !s.cal.ranFrame

/-! ## Comb-level runs (R420) -/

/-- The columns of the running frame from sweep index i on, each with its duration in 10 ns. -/
def State.durationsFrom (s : State) (i : Nat) : List (Nat × Nat) :=
  let n := s.columns
  let fr := s.frameNo
  let posted := s.postedSum fr
  let est := (s.openDurations fr).map fun e => divRoundNat e.2 65536
  ((List.range n).filter fun k => decide (i ≤ k)).map fun k =>
    let j := sweepCol n fr k
    let own : Option Nat := match s.col (colKey fr j) with
      | some c => if c.posted then some c.dur else none
      | none => none
    (j, own.getD (est.getD (k - posted.1) 0))

/-- R420: from sweep index i on the next 6.1 ms hold no column with a safety-zone cell on a segment that serves comb c. -/
def State.calWindow (s : State) (c i : Nat) : Bool :=
  let segs := (List.range 64).filter fun g => (s.segChannels g).any fun ch => ch / 16 == c
  let clear (j : Nat) : Bool := (s.coverAt s.frameNo j).all fun e => segs.all fun g => !bitN e.2 g
  scan clear 610000 (s.durationsFrom i)
where
  /-- Whether `left` × 10 ns pass over clear columns. -/
  scan (clear : Nat → Bool) : Nat → List (Nat × Nat) → Bool
    | _, [] => false
    | left, (j, d) :: r => clear j && (decide (left ≤ d) || scan clear (left - d) r)

/-- The points of comb c in a column carry `CAL_GAP` (R209). -/
def State.markGap (s : State) (key c : Nat) : State :=
  s.each ((combChans c).map (ptKey key)) fun s k => s.modPt k fun p => { p with calGap := true }

/-- R420: the run of comb c starts now. -/
def State.startRun (s : State) (c key : Nat) : State :=
  let s := s.setCal { s.cal with
    ranFrame := true,
    run := some {
      comb := c, start := s.now, temp := s.combTemp c, named := s.cal.named.contains c, ranges := (combChans c).map fun n => (n, s.rangeOf n) } }
  let s := (s.setBit Reg.CAL_STATUS 0 true).setF Reg.CAL_STATUS 5 1 c
  let s := (s.setR Reg.CAL_COMB_TIME_LO (s.time.dev % 2 ^ 32)).setR Reg.CAL_COMB_TIME_HI (s.time.dev / 2 ^ 32)
  let s := (s.addF Reg.CAL_COUNT 15 0 1).setF (Reg.CAL_COMB c) 31 24 0
  let s := s.each (combChans c) fun s n => s.calRange n (Config.combCalRange % 4)
  ((s.setDark c true).markGap key c)

/-- COMB_CAL_START (R420): at a column start, the due comb that ranks first starts its run if the next 6.1 ms are clear, or after four deferred frames
at the frame's first column. -/
def execCombCalStart (s : State) : Host.Outcome State Fault Refusal :=
  .next (match s.plan.openCol, s.calNext with
    | some key, some c =>
      match s.col key with
      | some col =>
        if ¬ s.calRuns ∨ col.startNs ≠ some s.now then s
        else if 4 ≤ s.f (Reg.CAL_COMB c) 31 24 then (if col.sweep = 0 then s.startRun c key else s)
        else if s.calWindow c col.sweep then s.startRun c key
        else s
      | none => s
    | _, _ => s)

/-- COMB_CAL_DONE (R420): the run's 6 ms have passed; `k` is what it found. The comb stays dark to the next column start. -/
def execCombCalDone (k : CombCal) (s : State) : Host.Outcome State Fault Refusal :=
  .next (match s.cal.run with
    | none => s
    | some r =>
      if s.now < r.start + 6000000 then s
      else
        let c := r.comb
        let s := s.endRun
        let s := s.setCal { s.cal with combDark := c :: s.cal.combDark, named := if r.named then s.cal.named.filter (· != c) else s.cal.named }
        let s := ((s.applyRun c r.temp k false).judgeTiming c k).calDirty
        let s := s.noteInl [(c, k.inl)]
        let s := s.when (runFailures k != 0) fun s => s.flag Reg.CAL_FLAGS 0
        let s := s.calEvent 0 c (runFailures k) r.temp false
        let s := s.when r.named fun s => s.finish Op.CALIBRATE_COMB Sts.OK 0
        s.syncDue.settle)

/-- R420: at a frame boundary the due comb that found no start in the frame is deferred; a frame without columns defers none. -/
def State.countDefers (s : State) : State :=
  match s.calNext with
  | some c => if s.calRuns ∧ s.plan.running then s.addF (Reg.CAL_COMB c) 31 24 1 else s
  | none => s

/-! ## The full-system run (R421) -/

/-- R421: the cause of a full-system run by schedule, if one is due. -/
def State.fullDue (s : State) : Bool :=
  s.ef Reg.CAL_CTRL 17 17 == 1 &&
    (match s.cal.fullMean with
     | none => true
     | some m => decide (64 * s.ef Reg.CAL_CTRL 15 8 < (s.meanTemp - m).natAbs))

/-- Steps 1 and 2 of R421, with the transition to CALIBRATING. -/
def State.startFull (s : State) (cause : Nat) (byCmd : Bool) : State :=
  let s := s.abortRun
  let combs := List.range s.variant.combs
  let r : FullRun := {
    start := s.now, mean := s.meanTemp, temps := combs.map s.combTemp, ranges := (List.range s.variant.channels).map s.rangeOf }
  let s := (s.setCal { s.cal with full := some r }).setBit Reg.CAL_STATUS 6 true
  let s := (s.setR Reg.CAL_FULL_TIME_LO (s.time.dev % 2 ^ 32)).setR Reg.CAL_FULL_TIME_HI (s.time.dev / 2 ^ 32)
  let s := s.addF Reg.CAL_COUNT 31 16 1
  let s := s.each combs fun s c => s.setDark c true
  let s := s.each (List.range s.variant.channels) fun s n => s.calRange n 1
  s.transition .calibrating cause byCmd

/-- FULL_CAL_MEASURE_DONE (R421): the run's 180 ms have passed; `k` is what it found, held for the return. -/
def execFullCalMeasureDone (k : FullCal) (s : State) : Host.Outcome State Fault Refusal :=
  .next (match s.cal.full with
    | none => s
    | some r => if s.now < r.start + 180000000 ∨ r.found.isSome then s else s.setCal { s.cal with full := some { r with found := some k } })

/-- The ratios of the combs that a run found (R421 step 5). -/
def State.applyRatios (s : State) (l : List (Nat × Nat × Nat)) : State :=
  s.each ((List.range s.variant.combs).zip l) fun s e =>
    s.setCal { s.cal with ratios := s.cal.ratios.set (1024, 4096, 16384) e.1 (e.2.1 % 65536, e.2.2.1 % 65536, e.2.2.2 % 65536) }

/-- What a full-system run found for one comb, with its temperature. -/
def State.applyComb (s : State) (e : (Nat × CombCal) × Int) : State := (s.applyRun e.1.1 e.2 e.1.2 true).judgeTiming e.1.1 e.1.2

/-- Step 7 of R421, without the transition: all passing values apply together. -/
def State.applyFull (s : State) (r : FullRun) (k : FullCal) : State :=
  let combs := ((List.range s.variant.combs).zip k.combs).zip r.temps
  let s := s.each combs State.applyComb
  let s := s.applyRatios k.ratios
  let s := (s.setCal { s.cal with full := none, fullMean := some r.mean }).setBit Reg.CAL_STATUS 6 false
  let s := s.each (List.range s.variant.combs) fun s c => s.setDark c false
  let s := s.each (r.ranges.mapIdx fun n g => (n, g)) fun s e => s.setRange e.1 e.2
  let s := s.noteInl (((List.range s.variant.combs).zip k.combs).map fun e => (e.1, e.2.inl))
  let s := s.when (s.variant == .nl5_512) fun s => (s.setF Reg.CAL_Q_SKEW 15 0 (min 0xFFFF k.qSkew)).setF Reg.CAL_Q_BIAS 15 0 (satS 16 k.qBias)
  s.calDirty.syncDue

/-- Step 7 of R421 at a frame boundary: the values apply, the NL5 returns to the state it came from, and the run is reported. -/
def State.returnFull (s : State) : State :=
  match s.cal.full with
  | none => s
  | some r =>
    match r.found with
    | none => s
    | some k =>
      let n := ((k.combs.take s.variant.combs).map runFailures).sum
      let back := if s.sys.prev = .degraded then DevState.degraded else DevState.sensing
      let s := (s.applyFull r k).transition back 0x42 false
      let s := s.when (n != 0) fun s => s.flag Reg.CAL_FLAGS 1
      s.calEvent 1 0xFF n r.mean false

/-! ## Saves (R424) -/

/-- CAL_AUTO_SAVE (R424): `CAL_SAVE_MIN` minutes have passed since the last save, and the working set differs from flash. -/
def execCalAutoSave (s : State) : Host.Outcome State Fault Refusal :=
  .next (if s.ef Reg.CAL_CTRL 18 18 = 0 ∨ ¬ s.bit Reg.CAL_STATUS 9 ∨ s.cal.save.isSome ∨ ¬ s.flashFree ∨ ¬ s.dev.anyState ∨
      s.now < s.cal.lastSave + 60000000000 * s.ef Reg.CAL_CTRL 31 24 then s
    else s.startSave blankTpl)

/-- CAL_SAVE_DONE (R423, R424): both copies are written; `good0` and `good1` tell whether each passes its read-back. A flush
is served before a save (R442), and flash may not be written in THERMAL_STOP or after a hard shut-down. -/
def execCalSaveDone (good0 good1 : Bool) (s : State) : Host.Outcome State Fault Refusal :=
  .next (match s.cal.save with
    | none => s
    | some v =>
      if ¬ s.flashIdle then s
      else
        let s := (s.putCopy v.slots.1 v.rec_ good0).putCopy v.slots.2 v.rec_ good1
        let s := (s.setCal { s.cal with save := none }).setBit Reg.CAL_STATUS 8 false
        let s := s.setF Reg.CAL_STATUS 31 16 ((s.newestRec.map (·.seq)).getD 0)
        let s :=
          if good0 && good1 then
            (s.when (!v.dirty) fun s => s.setBit Reg.CAL_STATUS 9 false).finish Op.CAL_SAVE Sts.OK 0
          else (s.flag Reg.CAL_FLAGS 2).finish Op.CAL_SAVE Sts.INTERNAL_ERROR 0
        s.startErase)

/-! ## Temperatures (R410 to R416) -/

/-- R412, R413, R414: T_pol is recomputed, and the NL5 acts on it. -/
def State.thermPolicy (s : State) : State :=
  match s.tPol with
  | none => s
  | some t => ((s.reportTpol t.1 t.2).throttle t.1 t.2).rejudge

/-- R409 to R418: what a result of die sensor TS i does. -/
def State.dieResult (s : State) (i : Nat) (v : Int) : State :=
  let s := s.checkBroken i
  let s := s.when (i == 22 && !s.tsBroken i) fun s => s.setCal { s.cal with xtalHeld := v }
  let s := (s.when (decide (8640 ≤ v) && !s.tsBroken i) State.hardShut).thermPolicy
  let s := s.when (decide (i < 16)) State.syncDue
  s.when (i == 25) State.trimScan

/-- HOUSEKEEPING_WORD (R292): 60 µs after the last, MA3 publishes the next channel of its scan. `v` is in nV or, for a die sensor, in
1/64 °C, with the samples due inside internal blanks held (R299; DEDUCED: log entry 98); `refOff` tells that the reference differs from the bandgap by more than 0.5 %. -/
def execHousekeepingWord (v : Int) (refOff : Bool) (s : State) : Host.Outcome State Fault Refusal :=
  .next (if s.now < s.aux.hkAt + 60000 ∨ s.dev = .reset then s
    else
      let j := s.aux.hkNext
      let s := s.hkPublish v refOff
      if 10 ≤ j then s.dieResult (j - 10) v else s.thermPolicy)

/-- RTD_PHASE_DONE (R297): the phase under way ends with a voltage (nV), as the filter yields it under `IBLANK_EN` (R299), and a reference current (nA). A published result compensates its bias zone and
takes part in T_pol. -/
def execRtdPhaseDone (v : Filtered) (i : Nat) (s : State) : Host.Outcome State Fault Refusal :=
  let r := s.rtdPhase (v.pick (s.bit Reg.RTD_CTRL 20) false) i
  .next (match r.1 with
    | some n => (r.2.compensate n).thermPolicy
    | none => r.2)

/-- THERMAL_TRIP (R416): the trip comparator of die sensor i trips. That of a broken sensor is disabled. -/
def execThermalTrip (i : Fin 26) (s : State) : Host.Outcome State Fault Refusal :=
  .next (if s.tsBroken i ∨ s.dev = .reset then s else s.hardShut)

end Sys2Proof.Machine
end

