-- ==== Sys2Proof/Machine/RedOps.lean ====
section
/-!
DEFINITION. Machine/RedOps.lean: the planner pair (R385 to R395): claims, states, checkpoints, failover and takeover.
-/

namespace Sys2Proof.Machine

/-! ## States of the planners (R388) -/

/-- The active planner, 0 A or 1 B (`PLAN_PAIR_STATUS.ACTIVE`). -/
def State.activePlanner (s : State) : Nat := s.f Reg.PLAN_PAIR_STATUS 0 0

/-- Enter a planner state: the health summary, `RED_FLAGS` and the recorder follow. -/
def State.setPlanner (s : State) (x st : Nat) : State :=
  let s := s.setF Reg.PLAN_PAIR_STATUS (3 * x + 3) (3 * x + 1) st
  let s := (s.setHealth 0 (s.plannerSt 0 == 2 || s.plannerSt 1 == 2)).setHealth 1 (s.plannerLost 0 || s.plannerLost 1)
  let s := s.when (st == 5 || st == 6) fun s => s.flag Reg.RED_FLAGS 1
  let s := s.when (st == 5) fun s => s.setRed { s.red with failedAt := s.red.failedAt.set none x (some s.now) }
  let s := s.when (st == 2) fun s => s.setRed { s.red with testStart := s.red.testStart.set none x (some s.now) }
  s.when (st == 2 || st == 5 || st == 6) fun s => s.post Rec.PLANNER_STATE (x + 2 * st)

/-- R388, R391: `PLAN_PAIR_STATUS` as it is read: a failed planner whose `RETEST_DELAY` has passed is running its full self-test, and shows `TESTING`. -/
def State.pairStatus (s : State) : Word :=
  [0, 1].foldl (fun w x =>
    match s.red.failedAt.get none x with
    | some t => if s.plannerSt x = 5 ∧ t + 1000000 * s.f Reg.RED_CTRL 31 16 ≤ s.now ∧ s.dev ≠ .reset then withBits w (3 * x + 3) (3 * x + 1) 1 else w
    | none => w) (s.rd Reg.PLAN_PAIR_STATUS)

/-- The claim that planner x presents (R385). -/
def State.claimOf (s : State) (x : Nat) : Nat := s.f Reg.CLAIM_AB (16 * x + 15) (16 * x)

def State.setClaim (s : State) (x v : Nat) : State := s.setF Reg.CLAIM_AB (16 * x + 15) (16 * x) v

/-! ## Checkpoints (R389) -/

/-- The valid checkpoint with the highest sequence number: its buffer and content. -/
def State.newestCkpt (s : State) : Option (Nat × Checkpoint) :=
  let a := s.red.ckpts.get {} 0
  let b := s.red.ckpts.get {} 1
  if a.valid ∧ (b.valid = false ∨ b.seq < a.seq) then some (0, a) else if b.valid then some (1, b) else none

/-- `CKPT_STATUS` shows the newest valid checkpoint. -/
def State.syncCkpt (s : State) : State :=
  match s.newestCkpt with
  | some (_, k) => s.setR Reg.CKPT_STATUS (k.column + 2048 + 65536 * (k.seq % 65536))
  | none => s.setR Reg.CKPT_STATUS 0

/-- Sweep index i of frame fr, where i may run on into the next frame. -/
def State.sweepAt (s : State) (fr i : Nat) : Nat × Nat := if i < s.columns then (fr, i) else ((fr + 1) % 2 ^ 32, i - s.columns)

/-- R389: the active planner writes a checkpoint through DMA47 as it posts column c; the buffers alternate. A halted DMA47 writes none. -/
def State.writeCkpt (s : State) (c : ColPlan) : State :=
  if c.column % 16 ≠ 0 ∨ s.f (Reg.DMA_STATUS 47) 1 0 = 3 then s
  else
    let n := s.sweepAt c.frame (c.sweep + 1)
    let k : Checkpoint := {
      seq := (s.red.ckptSeq + 1) % 2 ^ 32, column := c.column, next := (n.1, sweepCol s.columns n.1 n.2), frame := c.frame, up := c.frame % 2 == 0
      residue := s.plan.residue, adj := s.plan.adj, theta := s.plan.theta, dropped := s.plan.dropped, valid := true }
    ((s.setRed { s.red with
      ckpts := s.red.ckpts.set {} s.red.ckptNext k, ckptNext := 1 - s.red.ckptNext, ckptSeq := k.seq }).inc (Reg.DMA_DONE 47)).syncCkpt

/-- R23, R389: the checkpoint in a buffer fails its check. -/
def State.badCkpt (s : State) (b : Nat) : State :=
  let s := s.setRed { s.red with ckpts := s.red.ckpts.set {} b { s.red.ckpts.get {} b with valid := false } }
  ((s.flag Reg.RED_FLAGS 2).setHealth 6 true).syncCkpt

/-! ## Failover (R392 to R395) -/

/-- Both planners count as failed (R386, R392, R407); one that has failed or is lost enters nothing anew (R391, R457). -/
def State.bothFailed (s : State) : State :=
  let s := s.each [0, 1] fun s x => if s.plannerLost x then s.setClaim x 0 else (s.setClaim x 0).setPlanner x 5
  (s.setRed { s.red with takeover := none }).halt 0x71

/-- What the gap makes of one planned column: shots of the column that is swept are lost, columns not started are posted again as gap columns. -/
def State.gapPlanned (s : State) (key : Nat) (c : ColPlan) : State :=
  if c.closed then s
  else if c.startNs.isSome then if s.plan.openCol = some key then s.setCol key (some { c with gap := true }) else s
  else s.setCol key (some { c with posted := false, gap := true })

/-- R393 steps 1 and 2, R394: shots not yet cut are not fired, segments that have not started are discarded, and the column that is swept is a
gap column. -/
def State.beginGap (s : State) : State :=
  let s := { s with plan := { s.plan with queue := [], fifo := [] } }
  s.each (s.plan.cols.entries.filterMap fun e => e.2.map fun c => (e.1, c)) fun s e => s.gapPlanned e.1 e.2

/-- R387: the claim of a planner that takes over: `GATE_CLAIM` + 1, which saturates (R10). -/
def State.nextClaim (s : State) : Nat := min 65535 (s.f Reg.GATE_CLAIM 15 0 + 1)

/-- R392: the active planner is declared failed with a cause code. -/
def State.failPlanner (s : State) (cause : Nat) : State :=
  let a := s.activePlanner
  let b := 1 - a
  if s.red.takeover.isSome ∧ s.plannerSt a ≠ 4 then s.bothFailed
  else if s.plannerSt a ≠ 4 then s
  else if s.plannerSt b ≠ 2 then (s.setF Reg.FAILOVER_LAST 23 16 cause).bothFailed
  else
    let claim := s.nextClaim
    let s := ((s.setClaim a 0).setPlanner a 5).setPlanner b 3
    let s := s.setRed { s.red with takeover := some { failed := a, cause, at_ := s.now, time := s.time.dev, claim }, lateRun := 0 }
    let s := ((s.flag Reg.RED_FLAGS 0).inc Reg.FAILOVER_COUNT).setF Reg.FAILOVER_LAST 23 16 cause
    let s := (s.post Rec.FAILOVER (a + 2 * cause + 256 * (claim % 256))).flushTrigger 5
    s.beginGap.settle

/-- R392, R407: planner x fails with a cause code: the active one is declared failed; with the restoring one both have failed. -/
def State.plannerFails (s : State) (x cause : Nat) : State :=
  if s.plannerSt x = 4 then s.failPlanner cause else if s.plannerSt x = 3 then s.bothFailed else s

/-- A planned column as a gap column. -/
def ColPlan.asGap (c : ColPlan) : ColPlan := { c with posted := false, gap := true }

/-- Column i of the sweep of frame fr, not started, becomes a gap column, planned for its account (R394). -/
def State.gapColumn (s : State) (fr i : Nat) : State :=
  let key := colKey fr (sweepCol s.columns fr i)
  match s.col key with
  | some c => if c.startNs.isSome then s else s.setCol key (some c.asGap)
  | none => s.setCol key (some (s.freshColumn (s.shortage fr) fr i).asGap)

/-- R394: the columns from the one after the swept one up to the resume column, `d` of them, are gap columns. -/
def State.gapColumns (s : State) (d : Nat) : State :=
  s.each (List.range d) fun s k => s.gapColumn (s.sweepAt s.frameNo (s.plan.swept + k)).1 (s.sweepAt s.frameNo (s.plan.swept + k)).2

/-- The next planned column's velocity segment is posted, with the checkpoint it may cause (R53, R389). -/
def State.postSegment (s : State) : State :=
  match s.postColumn with
  | some (c, s) => (s.resteer c).writeCkpt c
  | none => s

/-- What the new planner takes from a checkpoint (R389). -/
def State.restore (s : State) (c : Checkpoint) : State :=
  ({ s with plan := { s.plan with residue := c.residue, adj := c.adj, dropped := c.dropped, theta := c.theta } }).setF Reg.PLAN_THROTTLE 8 0 (256 * c.theta / 800)

def State.restoreNewest (s : State) : State :=
  match s.newestCkpt with
  | some c => s.restore c.2
  | none => s

/-- The standby presents its claim and becomes `ACTIVE` (R387, R393). -/
def State.present (s : State) (b claim : Nat) : State :=
  let s := (s.setPlanner b 4).setF Reg.PLAN_PAIR_STATUS 0 0 b
  (s.setClaim b claim).setR Reg.GATE_CLAIM claim

/-- Sweep index i of frame fr becomes the column planned next; what was planned from there on is dropped. -/
def State.planFrom (s : State) (fr i : Nat) : State :=
  let gone := s.plan.cols.entries.filterMap fun e => match e.2 with
    | some c => if c.startNs.isNone ∧ ((c.frame = fr ∧ i ≤ c.sweep) ∨ c.frame = (fr + 1) % 2 ^ 32) then some (e.1, c) else none
    | none => none
  let s := s.each gone fun s x => (s.passDropped x.2).setCol x.1 none
  { s with plan := { s.plan with planFrame := fr, planNext := i } }

/-- The column with which a takeover resumes: the fifth after the one being swept, or the first of the next frame. -/
def State.resumeAt (s : State) : Nat × Nat :=
  if s.plan.running then s.sweepAt s.frameNo (s.plan.swept + 4) else ((s.frameNo + 1) % 2 ^ 32, 0)

/-- R393 steps 3 and 4: the standby has read the newest valid checkpoint. It presents its claim, one above `GATE_CLAIM` as it stands now (R387), becomes `ACTIVE` and posts the resume column. When the
mirror does not scan there is no column to resume. -/
def State.takeOver (s : State) (k : Takeover) : State :=
  let k : Takeover := { k with claim := s.nextClaim }
  let s := s.restoreNewest.setRed { s.red with takeover := some k }
  let s := s.present (1 - k.failed) k.claim
  if ¬ s.dev.scanning ∧ s.wag.armAt.isNone then s.endTakeover
  else
    let r := s.resumeAt
    let s := s.when s.plan.running fun s => s.gapColumns 4
    let s := s.planFrom r.1 r.2
    let s := s.setRed { s.red with takeover := some { k with resume := some (colKey r.1 (sweepCol s.columns r.1 r.2)) } }
    s.planStep.postSegment

/-! ## Gap columns (R394) -/

/-- R394: a gap column as it closes: each point counts at least min(`MIN_SHOTS`, cap) planned shots, and what has no other account is late. -/
def State.closeGap (s : State) (key : Nat) (c : ColPlan) : State :=
  s.each c.segs fun s p =>
    let least := min p.min (c.capOf p)
    let chs := s.segChannels p.seg
    let news := chs.map fun ch =>
      let q := s.pt (ptKey key ch)
      max least (q.fired + q.refused + q.withdrawn + q.late) - (q.fired + q.refused + q.withdrawn + q.late)
    let n := news.foldl max 0
    let s := s.each chs fun s ch => s.modPt (ptKey key ch) fun q =>
      let planned := max least (q.fired + q.refused + q.withdrawn + q.late)
      { q with planned, late := planned - (q.fired + q.refused + q.withdrawn) }
    if n = 0 then s else (s.add Reg.LOOP_LATE_PLAN n).flag Reg.LOOP_LATE_FLAGS 1

end Sys2Proof.Machine
end

