-- ==== Sys2Proof/Machine/Timing.lean ====
section
/-!
DEFINITION. Machine/Timing.lean: the clock sources, their loss and return (R183 to R187), comb and planner clocks (R190, R392), the crystal's
correction (R184, R417), and the statistics units (R188).
-/

namespace Sys2Proof.Machine

def State.clk (s : State) : Clk := s.tdc.clk

def State.setClk (s : State) (x : Clk) : State := { s with tdc := { s.tdc with clk := x } }

/-- `TIMING` of every comb follows (R187, R190). -/
def State.syncTimings (s : State) : State := s.each (List.range s.variant.combs) State.syncTiming

/-- The PLL takes a source, 0 `REFCLK` or 1 the crystal, and locks to it (R185, R186). -/
def State.takeSource (s : State) (src : Nat) : State :=
  let s := if s.f Reg.CLK_STATUS 1 0 = src then s else s.inc Reg.CLK_SWITCHES
  let s := (s.setF Reg.CLK_STATUS 1 0 src).setBit Reg.CLK_STATUS 4 false
  s.setClk { s.clk with switching := some s.now, returnDue := false, lockAt := none }

/-- The PLL has no source to run on and holds over (R185, R187): `SOURCE` 2, no lock. -/
def State.holdOver (s : State) : State :=
  let s := (s.setF Reg.CLK_STATUS 1 0 2).setBit Reg.CLK_STATUS 4 false
  s.setClk { s.clk with switching := none, returnDue := false, lockAt := none }

/-- R186: the return to `REFCLK`. -/
def State.returnRef (s : State) : State :=
  let s := ((s.takeSource 0).flag Reg.CLK_FLAGS 3).post Rec.CLOCK 2
  s.raise Ev.REFCLK_RETURNED .all (leBytes 4 0)

/-- Step 4 of R185: a lost `REFCLK` is reported once the PLL is locked; it is at once where the PLL runs locked on the crystal. -/
def State.reportLoss (s : State) : State :=
  if s.clk.lossDue ∧ s.bit Reg.CLK_STATUS 4 then
    (s.setClk { s.clk with lossDue := false }).raise Ev.REFCLK_LOST .all (leBytes 4 0)
  else s

/-- R186: with `REFCLK` present the PLL returns to it, in emission and CALIBRATING at the next frame boundary. -/
def State.dueReturn (s : State) : State :=
  if s.bit Reg.CLK_CTRL 0 ∧ (s.dev.emitting ∨ s.dev = .calibrating) then s.setClk { s.clk with returnDue := true } else s.returnRef

/-- R185 to R187: the source that the PLL runs on, after a change of a source or of `CLK_CTRL`; `lost` says that `REFCLK` became absent.
`FORCE_XTAL` with the crystal absent and `AUTO_RETURN` 0 with the crystal gone follow log entry 70. -/
def State.chooseSource (s : State) (lost : Bool) : State :=
  let s := s.setClk { s.clk with lossDue := s.clk.lossDue || lost }
  let ref := s.bit Reg.CLK_STATUS 2
  let xtal := s.bit Reg.CLK_STATUS 3
  let auto := s.bit Reg.CLK_CTRL 0
  let cur := s.f Reg.CLK_STATUS 1 0
  let s : State :=
    if s.clk.refAbsent ∧ s.clk.xtalAbsent then
      if s.clk.both ∧ cur = 2 then s
      else
        let s := (s.holdOver.flag Reg.CLK_FLAGS 2).post Rec.CLOCK 4
        (s.setClk { s.clk with both := true }).syncTimings
    else if s.bit Reg.CLK_CTRL 1 then
      if cur = 1 ∧ xtal then s.setClk { s.clk with returnDue := false }
      else if xtal then s.takeSource 1
      else if s.clk.xtalAbsent ∧ cur ≠ 2 then s.holdOver
      else s
    else if cur = 0 then
      if ref then (if s.bit Reg.CLK_STATUS 4 ∨ s.clk.switching.isSome then s else s.takeSource 0)
      else if !s.clk.refAbsent then s
      else if xtal then s.takeSource 1
      else s.holdOver
    else
      let s := if cur = 1 ∧ s.clk.xtalAbsent then s.holdOver else s
      let s := if s.f Reg.CLK_STATUS 1 0 = 2 ∧ xtal then s.takeSource 1 else s
      if ref ∧ (auto ∨ s.f Reg.CLK_STATUS 1 0 = 2) then s.dueReturn else s.setClk { s.clk with returnDue := false }
  s.reportLoss

/-- R183: one source in one window: its run of good windows and its status bit. Answers its new status bit and run. `auto` says that the window itself
makes a source present whose run is long enough. -/
def judgeSource (edges run : Nat) (present auto : Bool) (need : Nat) : Bool × Nat :=
  if edges < 92 ∨ 108 < edges then (false, 0) else (present || (auto && decide (need ≤ run + 1)), run + 1)

/-- R187: whether a source has been good within 50 ms of reset release, as BOOT asks. `REF_RETURN` is longer than that at reset, so one window
within limits counts there (log entry 71). -/
def State.noteBootClock (s : State) : State :=
  if s.dev = .boot ∧ s.now ≤ 50000000 ∧ (0 < s.clk.refGood ∨ 0 < s.clk.xtalGood) then s.setClk { s.clk with bootOk := true } else s

/-- R190: comb clock c in one window. -/
def State.combClock (s : State) (bad : List Nat) (c : Nat) : State :=
  let a := Reg.TDC_COMB_STATUS c
  let good (n : Nat) : State := s.setClk { s.clk with combGood := s.clk.combGood.set 0 c n }
  if bad.contains c then
    if s.bit a 27 then good 0 else (((good 0).setBit a 27 true).post Rec.CLOCK (5 + 256 * c)).syncTiming c
  else if s.bit a 27 then
    let n := s.clk.combGood.get 0 c + 1
    if 2500 ≤ n then ((good 0).setBit a 27 false).syncTiming c else good n
  else s

/-- CLOCK_WINDOW (R183, R185, R190, R392): a 4 µs window of the always-on clock ends with the rising edges counted of `REFCLK` and of the crystal,
and the comb and planner clocks found absent or outside ±0.5 %. -/
def execClockWindow (ref xtal : Nat) (badCombs badPlanners : List Nat) (s : State) : Host.Outcome State Fault Refusal :=
  .next (if s.dev = .reset ∨ s.now < (s.tdc.windows + 1) * 4000 then s
  else
    let s := { s with tdc := { s.tdc with windows := s.tdc.windows + 1 } }
    let need := s.f Reg.CLK_CTRL 31 16 * 250
    let wasRef := s.bit Reg.CLK_STATUS 2
    let wasXtal := s.bit Reg.CLK_STATUS 3
    let was := s.clk
    let r := judgeSource ref s.clk.refGood wasRef false need
    let x := judgeSource xtal s.clk.xtalGood wasXtal true need
    let s := s.setClk { s.clk with
      refGood := r.2, xtalGood := x.2, refAbsent := r.2 == 0 || (s.clk.refAbsent && !r.1), xtalAbsent := x.2 == 0 || (s.clk.xtalAbsent && !x.1) }
    let s := s.noteBootClock
    let s := (s.setBit Reg.CLK_STATUS 2 r.1).setBit Reg.CLK_STATUS 3 x.1
    let s := s.when (wasRef && !r.1) fun s => (s.flag Reg.CLK_FLAGS 0).post Rec.CLOCK 1
    let s := s.when (wasXtal && !x.1) fun s =>
      ((s.flag Reg.CLK_FLAGS 1).post Rec.CLOCK 3).raise Ev.XTAL_LOST .all (leBytes 4 0)
    let s : State :=
      if r.1 != wasRef ∨ x.1 != wasXtal ∨ s.clk.refAbsent != was.refAbsent ∨ s.clk.xtalAbsent != was.xtalAbsent then
        s.chooseSource (wasRef && !r.1)
      else if s.clk.returnDue ∧ ¬ (s.dev.emitting ∨ s.dev = .calibrating) then s.returnRef
      else s
    let s := s.each (List.range s.variant.combs) fun s c => s.combClock badCombs c
    let bad := [0, 1].filter fun x => badPlanners.contains x && (s.plannerSt x == 3 || s.plannerSt x == 4) && s.dev.anyState
    let s := s.each bad fun s x => s.plannerFails x 3
    s.settle)

/-- REFCLK_PRESENT (R183, R186): `REFCLK` has been within limits for `REF_RETURN` ms. -/
def execRefclkPresent (s : State) : Host.Outcome State Fault Refusal :=
  .next (if s.bit Reg.CLK_STATUS 2 ∨ s.clk.refGood < s.f Reg.CLK_CTRL 31 16 * 250 ∨ s.clk.refGood = 0 then s
  else ((s.setBit Reg.CLK_STATUS 2 true).setClk { s.clk with refAbsent := false }).chooseSource false)

/-- PLL_LOCKED (R185): the PLL has locked on the source it took; a lost `REFCLK` is reported then. -/
def execPllLocked (s : State) : Host.Outcome State Fault Refusal :=
  .next (match s.clk.switching with
  | none => s
  | some _ =>
    ((s.setBit Reg.CLK_STATUS 4 true).setClk { s.clk with switching := none, lockAt := some s.now }).reportLoss)

/-- TIMING_LOCK_HOLD (R187): a source is present and the PLL has been locked for 10 ms after both were absent. -/
def execTimingLockHold (s : State) : Host.Outcome State Fault Refusal :=
  .next (match s.clk.lockAt with
  | some t =>
    if s.clk.both ∧ (s.bit Reg.CLK_STATUS 2 ∨ s.bit Reg.CLK_STATUS 3) ∧ s.bit Reg.CLK_STATUS 4 ∧ t + 10000000 ≤ s.now then ((s.setClk { s.clk with both := false }).syncTimings).settle else s
  | none => s)

/-- XO_MEASURE (R184): once per second on `REFCLK` the crystal's offset is recorded, in 1/256 ppm. -/
def execXoMeasure (offset : Int) (s : State) : Host.Outcome State Fault Refusal :=
  .next (if s.f Reg.CLK_STATUS 1 0 = 0 ∧ s.bit Reg.CLK_STATUS 4 ∧ s.bit Reg.CLK_STATUS 3 ∧ s.clk.lastMeasure + 1000000000 ≤ s.now then
    (s.setF Reg.XO_OFFSET 23 0 (satS 24 offset)).setClk { s.clk with measured := true, predAt := s.xtalPrediction, lastMeasure := s.now }
  else s)

/-- XO_CORRECTION (R184, R417): every 1 ms on the crystal the divider is corrected by the recorded offset and the predicted change since. -/
def execXoCorrection (s : State) : Host.Outcome State Fault Refusal :=
  .next (if s.f Reg.CLK_STATUS 1 0 = 1 ∧ s.clk.corrAt + 1000000 ≤ s.now then
    let c : Int := if s.clk.measured then s.fs Reg.XO_OFFSET 23 0 + s.xtalPrediction - s.clk.predAt else s.clk.corr
    s.setClk { s.clk with corr := c, corrAt := s.now }
  else s)

/-- STAT_RUN_DONE (R188): the run of comb c has its N events. -/
def execStatRunDone (c : Fin 32) (s : State) : Host.Outcome State Fault Refusal :=
  .next (if s.f (Reg.TDC_STAT_STATUS c) 2 0 = 1 ∧ 2 ^ bitsOf (s.stat c).ctrl 12 8 ≤ (s.stat c).count then s.endStat c 2 else s)

/-- STAT_RUN_TIMEOUT (R188): `TIMEOUT` ms have passed since the run of comb c started. -/
def execStatRunTimeout (c : Fin 32) (s : State) : Host.Outcome State Fault Refusal :=
  .next (if s.f (Reg.TDC_STAT_STATUS c) 2 0 = 1 ∧ (s.stat c).startAt + bitsOf (s.stat c).ctrl 30 16 * 1000000 ≤ s.now then s.endStat c 3 else s)

end Sys2Proof.Machine
end

