-- ==== Sys2Proof/Machine/FrameOps.lean ====
section
/-!
DEFINITION. Machine/FrameOps.lean: the start and the close of a column (R17, R19, R54, R55, R126), and the frame boundary with all that takes effect
at it (R20, R42, R60, R63, R272).
-/

namespace Sys2Proof.Machine

def State.setPlan (s : State) (p : Plan) : State := { s with plan := p }

def State.pushItem (s : State) (x : AsmItem) : State := s.setDet { s.det with items := s.det.items ++ [x] }

/-! ## The start of a column -/

/-- When the next column of the frame is due, in ns of `now`: at the planned end of the one before, and not before the frame's boundary (R60, R126). -/
def State.nextStart (s : State) : Option Nat :=
  if ¬ s.plan.running ∨ s.columns ≤ s.plan.swept ∨ s.plan.cutDrive then none else some (max s.plan.frameNs s.plan.endAt)

/-- The column that starts: as planned; a gap column while a takeover has not reached its resume column (R394); planned at the last moment when the
planner has not planned it. -/
def State.columnToStart (s : State) (fr i key : Nat) : State :=
  match s.red.takeover with
  | some k => if k.resume = some key then s else s.gapColumn fr i
  | none =>
    match s.col key with
    | some _ => s
    | none =>
      let z := s.shortage fr
      let s := ((s.noteDropped fr (sweepCol s.columns fr i)).noteCover fr z.k).setCol key (some (s.freshColumn z fr i))
      if s.plan.planFrame = fr ∧ s.plan.planNext ≤ i then
        s.setPlan { s.plan with
          planNext := if i + 1 = s.columns then 0 else i + 1, planFrame := if i + 1 = s.columns then (fr + 1) % 2 ^ 32 else fr }
      else s

/-- The duration of a column that starts without a segment: the mirror keeps its velocity, so it lasts as long as the one before (R17). -/
def State.heldDuration (s : State) (i : Nat) : Nat :=
  let own : Option Nat := match s.plan.openCol with
    | some k => (s.col k).map (·.dur)
    | none => none
  if i = 0 then s.f Reg.PLAN_EDGE 15 0 else own.getD (s.f Reg.PLAN_COL_TIME 15 0)

/-- R54: a column's budget, floor(D × `RATE_LIMIT` × θ); D in 10 ns, θ in 1/800. -/
def State.budgetOf (s : State) (dur : Nat) : Nat := dur * s.rateLimit * s.plan.theta / 80000

/-- R17, R34, R392: a column that starts with a late segment, or none, holds the velocity; `HB_LIMIT` of them in a row fail the active planner. The
gap columns of a takeover, which hold it by R393, are not counted in `LOOP_LATE_VEL` (DESIGN CHOICE: log entry 74). -/
def State.countHeld (s : State) (c : ColPlan) : State :=
  if ¬ c.velHold then s.setRed { s.red with lateRun := 0 }
  else
    let s := s.setPlan { s.plan with acc := { s.plan.acc with velHold := true } }
    if c.gap then s
    else
      let s := (s.inc Reg.LOOP_LATE_VEL).flag Reg.LOOP_LATE_FLAGS 0
      let n := s.red.lateRun + 1
      if s.f Reg.RED_CTRL 15 12 ≤ n then (s.setRed { s.red with lateRun := 0 }).failPlanner 1 else s.setRed { s.red with lateRun := n }

/-- The frame's account at the start of a column (R63). -/
def FrameAcc.withColumn (a : FrameAcc) (c : ColPlan) (theta : Nat) : FrameAcc :=
  { a with
    start := if c.sweep = 0 then c.stamp else a.start, lastTheta := theta,
    shortest := some (min (a.shortest.getD c.dur) c.dur), longest := max a.longest c.dur,
    hostCells := a.hostCells + (c.segs.filter (·.host != [])).length, trackCells := a.trackCells + (c.segs.filter (·.track)).length }

/-- What the points of a column carry from its start: `SUN_RED` of the channel's zone (R223), `WL_ACQ` of a tile that is not `LOCKED` (R109),
`BIAS_FAULT` of a channel in that state (R163), and why a segment of none but such channels or lost combs was left out (R38). -/
def State.markStart (s : State) (key : Nat) (c : ColPlan) : State :=
  let s := s.each c.out fun s e => s.modPt (ptKey key e.1) fun p =>
    { p with notOk := p.notOk || e.2 == 1, biasFault := p.biasFault || e.2 == 2 }
  let s := s.each (List.range s.variant.channels) fun s ch =>
    if 0 < s.f (Reg.SUN_RED (s.zoneOf (ch / 16))) 13 0 then s.modPt (ptKey key ch) fun p => { p with sunRed := true } else s
  s.each c.segs fun s x => s.each (s.segChannels x.seg) fun s ch =>
    s.modPt (ptKey key ch) fun p => { p with
      wlAcq := p.wlAcq || decide (s.wlState (x.seg / 8) ≠ 2)
      biasFault := p.biasFault || decide (s.calcChan ch = 2) }

/-- The launch slots of the column that is swept, as the one that starts at `t` sees them (R54). -/
def State.lastSlots (s : State) (t : Nat) : List (Nat × Nat) :=
  match s.plan.openCol with
  | some k =>
    match s.col k with
    | some c => (c.startNs.map fun t0 => s.slotsBefore k t0 t).getD []
    | none => []
  | none => []

/-- Column i of the sweep, as it is allocated for a start at `t`: its duration, that of its segment where the generator has taken one (R17, R386), its budget and the slots beside it (R54). -/
def State.readyColumn (s : State) (c : ColPlan) (i t : Nat) : ColPlan :=
  let dur := if s.driven c then c.dur else s.heldDuration i
  { c with
    stamp := s.time.dev + (t - s.now), dur, posted := true, velHold := !s.driven c || c.velHold,
    budget := s.budgetOf dur - (c.segs.map (·.queued)).sum, off := (c.off ++ s.segsOff c.frame).eraseDups,
    out := (c.out ++ s.outChannels).eraseDups, before := s.lastSlots t }

/-- A planning register waits for the next frame boundary (R65). -/
def State.planHeld (s : State) : Bool :=
  [Reg.SEG_DISABLE_LO, Reg.SEG_DISABLE_HI, Reg.PLAN_TRACK_POLICY].any fun a => (s.held.get none a).isSome

/-- The column that starts next, where its start is known: its frame, its index in the sweep, and its start in ns of `now`. A boundary is known before
it comes (R96, R272, R273). -/
def State.comingColumn (s : State) : Option (Nat × Nat × Nat) :=
  let fr := s.frameNo
  match s.nextStart, s.nextBoundary with
  | some t, none => some (fr, s.plan.swept, t)
  | some t, some b => if t < b ∨ (t = b ∧ s.plan.swept + 1 = s.columns) then some (fr, s.plan.swept, t) else none
  | none, b =>
    if s.plan.running ∧ s.plan.cutDrive then (if s.plan.swept < s.columns then some (fr, s.plan.swept, s.moveEnd 0) else none)
    else if s.wag.axX.rejoin ∨ (s.plan.running ∧ s.plan.swept < s.columns) ∨ (¬ s.plan.running ∧ (¬ s.wag.atStart ∨ s.wag.scanAt.isSome ∨ s.wag.startCol ≠ s.firstCol (fr + 1))) then none
    else b.map fun t => ((fr + 1) % 2 ^ 32, 0, max t s.plan.endAt)

/-- R17: the first batches of a planned column are queued at least 2 µs before it starts: at the first cut less than 2.5 µs before. -/
def State.leadBatches (s : State) : State :=
  match s.comingColumn with
  | none => s
  | some (fr, i, t) =>
    let key := colKey fr (sweepCol s.columns fr i)
    match s.col key with
    | none => s
    | some c =>
      if ¬ s.planning ∨ t ≤ s.now ∨ s.now + 2500 ≤ t ∨ c.lead.isSome ∨ c.startNs.isSome ∨ c.gap ∨ c.closed then s
      else
        let s := s.when (fr != s.frameNo && s.planHeld) fun s => s.replanColumn key c
        match s.col key with
        | none => s
        | some c => (s.setCol key (some { s.readyColumn c i t with lead := some t })).allocateStart key

/-- The registers whose writes apply from the next column (R209). -/
def columnClass (a : Nat) : Bool := a == Reg.HIST_CAND || (List.range 16).any fun p => a == Reg.ESTOP_PA p || a == Reg.ESTOP_PB p

/-- The next column of the frame starts now (R54, R126). -/
def State.startColumn (s : State) : State :=
  let fr := s.frameNo
  let i := s.plan.swept
  let key := colKey fr (sweepCol s.columns fr i)
  let old := s.r Reg.LOOP_LATE_FLAGS
  let isNew := (s.col key).isNone
  let s := (s.takeEffect columnClass).columnToStart fr i key
  match s.col key with
  | none => s
  | some c0 =>
    let s := s.when isNew fun s => s.passPlanned c0
    let c : ColPlan := { s.readyColumn c0 i s.now with startNs := some s.now }
    let driven := s.driven c
    let dur := c.dur
    let s := s.setCol key (some c)
    let lag := if i = 0 then (if s.plan.lateBoundary then divRoundNat (s.now - s.plan.frameNs) 10 else 0) else s.plan.startLag
    let s := s.setPlan { s.plan with
      openCol := some key, swept := i + 1, endAt := s.now + 10 * dur, sweptDur := s.plan.sweptDur + dur, lastDur := dur, fifo := s.plan.fifo.filter (·.1 != key), startLag := lag,
      acc := s.plan.acc.withColumn c s.plan.theta }
    let s := s.countHeld c
    let resumed : Bool := match s.red.takeover with
      | some k => k.resume == some key
      | none => false
    let s := s.when resumed State.endTakeover
    let s := (s.steerColumn key).when driven fun s => s.steerY c
    let s := s.when s.cal.full.isNone fun s => s.each s.cal.combDark fun s k => s.setDark k false
    let s := s.setCal { s.cal with combDark := [] }
    let s := s.each ((List.range s.variant.combs).filter fun k => (s.comb k).dark) fun s k => s.markGap key k
    let s := s.markStart key c
    let s := s.columnTracks.arbitrate i
    let gap : Bool := match s.col key with
      | some x => x.gap
      | none => true
    let s : State := if gap ∨ c0.lead.isSome then s else s.allocateStart key
    (s.pushItem (.column key fr false [])).loopLate old

/-! ## The close of a column (R19) -/

/-- Whether the column of a key can close: it has started, the next one has too (or it was the frame's last), and no shot of it is in flight. -/
def State.canClose (s : State) (key : Nat) (c : ColPlan) : Bool :=
  c.startNs.isSome && !c.closed &&
    (s.plan.openCol != some key ||
      ((c.sweep + 1 == s.columns || !s.plan.running || s.plan.cutDrive) && decide (s.plan.endAt ≤ s.now))) &&
    !(s.emit.cuts.any (·.key == key)) && !(s.tdc.shots.any (·.key == key))

/-- The columns that can close, the first to have started first. -/
def State.closable (s : State) : List (Nat × ColPlan) :=
  sortBy (fun a b : Nat × ColPlan => decide (a.2.startNs.getD 0 < b.2.startNs.getD 0)) (s.plan.cols.entries.filterMap fun e => match e.2 with
    | some c => if s.canClose e.1 c then some (e.1, c) else none
    | none => none)

/-- R17: shots still queued for a column whose time has passed are late. -/
def State.dropQueued (s : State) (key : Nat) : State :=
  let mine := s.plan.queue.filter (·.key == key)
  let s := s.setPlan { s.plan with queue := s.plan.queue.filter (·.key != key) }
  s.each mine fun s q => s.lateShots key q.seg 1

/-- The channel states that a column closes with (R163, R367). -/
def State.closeStates (s : State) : List (Nat × Nat) :=
  (List.range s.variant.channels).filterMap fun n => if s.chanState n = 0 then none else some (n, s.chanState n)

/-- A closed column of a takeover's gap marks the host passes it covers (R394). -/
def State.gapPasses (s : State) (c : ColPlan) : State :=
  s.each (c.segs.map (·.host)).flatten.eraseDups fun s i =>
    s.setStream i.1 ((s.stream i.1).onAcc c.frame i.2 fun a => { a with gapped := true })

/-- The column of a key closes. -/
def State.closeColumn (s : State) (key : Nat) : State :=
  let old := s.r Reg.LOOP_LATE_FLAGS
  let s := s.dropQueued key
  match s.col key with
  | none => s
  | some c =>
    let s : State := if c.gap then (s.closeGap key c).gapPasses c else s
    let s := s.setCol key (some { c with closed := true })
    let s := s.setPlan { s.plan with openCol := if s.plan.openCol = some key then none else s.plan.openCol }
    let s := (s.closeCombCols key).learn c
    let s := (((s.markShort key c).accountColumn key c).passClosed key c)
    let st := s.closeStates
    let s := s.setDet { s.det with items := s.det.items.map fun x => match x with
      | .column k f cl l => if k = key then .column k f true st else .column k f cl l
      | y => y }
    (s.assemble).loopLate old

/-! ## The frame boundary -/

/-- R60: a column that has not started when the frame is cut closes at once; its first allocation, up to the cap, is planned and late (DESIGN CHOICE: log
entry 85). -/
def State.cutColumn (s : State) (fr i : Nat) : State :=
  let j := sweepCol s.columns fr i
  let key := colKey fr j
  let c : ColPlan := match s.col key with
    | some c => c
    | none => s.freshColumn (s.shortage fr) fr i
  let c : ColPlan := { c with cut := true, closed := true, posted := true, stamp := s.time.dev }
  let s := (s.setCol key (some c)).dropQueued key
  let s := s.when c.lead.isNone fun s => s.each c.segs fun s p =>
    let n := if c.dur = 0 then min p.first p.max else min p.first (c.capOf p)
    (s.modSegPts key p.seg fun q => { q with planned := q.planned + n }).lateShots key p.seg n
  let s := ((s.markShort key c).accountColumn key c)
  let s := s.setPlan { s.plan with acc := { s.plan.acc with trackCells := s.plan.acc.trackCells + (c.segs.filter (·.track)).length } }
  s.pushItem (.column key fr true s.closeStates)

/-- R60, R88, R129, R394: the frame is cut. The mirror drives to the outer boundary of the new frame's first column. -/
def State.cutFrame (s : State) : State :=
  let fr := s.frameNo
  let new := (fr + 1) % 2 ^ 32
  let s := (s.flag Reg.PLAN_FLAGS 0).inc Reg.FRAME_CUT_COUNT
  let s := s.setPlan { s.plan with acc := { s.plan.acc with cut := true } }
  let s := s.arbFrameCut
  let s := s.each ((List.range s.columns).filter fun i => decide (s.plan.swept ≤ i)) fun s i => s.cutColumn fr i
  let s := s.setPlan { s.plan with
    cutDrive := true, fifo := s.plan.fifo.filter (fun k => k.1 / 2048 != fr % 4), residue := 0,
    planFrame := new, planNext := if s.plan.planFrame = new then s.plan.planNext else 0 }
  let s : State := match s.red.takeover with
    | some k =>
      if (match k.resume with
          | some r => r / 2048 == fr % 4
          | none => false)
      then s.setRed { s.red with takeover := some { k with resume := some (colKey new (sweepCol s.columns new 0)) } } else s
    | none => s
  if s.axState 0 = 2 ∨ s.axState 0 = 1 then s.moveTo 0 (divRound (s.outerBoundary (s.firstCol new)) 1000000) false else s

/-- R63: `FRAME_PLAN` for the frame that ends, and `PLACE_SPILL` (R65). Columns still open count as they stand. -/
def State.framePlan (s : State) : State :=
  let s := s.each (s.plan.cols.entries.filterMap fun e => match e.2 with
    | some c => if c.startNs.isSome ∧ ¬ c.closed then some (e.1, c) else none
    | none => none) fun s e => s.accountColumn e.1 e.2
  let a := s.plan.acc
  let sat (n : Nat) : List Byte := leBytes 4 (min n 0xFFFFFFFF)
  let s := s.setR Reg.PLACE_SPILL (min 0xFFFFFFFF (toKib a.spillBytes))
  s.raise Ev.FRAME_PLAN .sub
    (leBytes 4 s.frameNo ++ leBytes 8 a.start ++ sat a.planned ++ sat a.fired ++ sat a.refused ++ sat a.late ++ sat a.withdrawn ++
      leBytes 2 (divRoundNat (a.lastTheta * 256) 800) ++ leBytes 1 s.plan.coverK ++
      leBytes 1 (b2n a.cut + 2 * b2n a.zoneShort + 4 * b2n a.velHold + 8 * b2n a.placement) ++
      leBytes 2 (min (a.shortest.getD 0) 65535) ++ leBytes 2 (min a.longest 65535) ++ leBytes 2 (min a.hostCells 65535) ++
      leBytes 2 (min a.trackCells 65535) ++ sat (toKib a.spillBytes))

/-- R375: the event `STREAM_LOSS` of channel ch: causes, records and bytes lost in the frame that ends. -/
def State.raiseLoss (s : State) (ch causes records bytes : Nat) : State :=
  s.raise Ev.STREAM_LOSS (.own (ch / 8))
    (leBytes 1 (ch % 8) ++ leBytes 1 causes ++ leBytes 2 0 ++ leBytes 4 s.frameNo ++ leBytes 4 (min records 0xFFFFFFFF) ++ leBytes 4 (min bytes 0xFFFFFFFF))

/-- R375: `STREAM_LOSS` for each subscription that lost anything in the frame that ends, those that ended in it included. -/
def State.reportLosses (s : State) : State :=
  let s := s.each s.subList fun s ch =>
    let u := s.sub ch
    if u.frameCauses = 0 then s
    else (s.setSub ch { u with frameRec := 0, frameBytes := 0, frameCauses := 0 }).raiseLoss ch u.frameCauses u.frameRec u.frameBytes
  let gone := s.streams.ended
  let s : State := { s with streams := { s.streams with ended := [] } }
  s.each gone fun s e => s.raiseLoss e.ch e.causes e.records e.bytes

/-- The registers whose writes apply from a frame boundary. -/
def frameClass (a : Nat) : Bool :=
  a == Reg.SEG_DISABLE_LO || a == Reg.SEG_DISABLE_HI || a == Reg.PLAN_TRACK_POLICY || a == Reg.TDC_ONE_STOP || a == Reg.SWARM_CTRL ||
    a == Reg.SWARM_FRAME_OFS || a == Reg.SWARM_SLOT_MASK || a == Reg.CAL_CTRL || (decide (5 ≤ a / 65536 ∧ a / 65536 ≤ 8) && !columnClass a && !finderClass a && !trackClass a && !decide (Reg.WX_CTRL ≤ a ∧ a ≤ Reg.WX_POLICY)) ||
    a / 65536 == 0xB

/-- Tables that wait for a frame boundary swap (R42, R75, R101, R237, R251, R263); a commit made too late, or one that a takeover keeps waiting,
waits for the next. -/
def State.swapTables (s : State) (plans : Bool) : State :=
  let sct := s.bit Reg.SCT_STATUS 1 && !s.plan.commitLate && plans
  let s := s.setPlan { s.plan with commitLate := false }
  let s := s.swapNamed sct (s.bit Reg.ZONE_TABLE_STATUS 1)
  let slots := s.bit Reg.ARB_SLOT_STATUS 1 && !s.arb.commitLate && plans
  let s := { s with arb := { s.arb with commitLate := false } }
  let s : State := if slots then s.swapSlots else s
  let s : State := if s.bit Reg.TPL_STATUS 1 then s.swapTpl else s
  let s : State := if s.bit Reg.FC_STATUS 1 then s.swapPoly else s
  match s.emit.patAt with
  | some t => if s.bit Reg.EMIT_STATUS 4 ∧ t + 400000 ≤ s.now then s.swapPatterns else s
  | none => s

/-- R134: an axis returned to `AUTO` rejoins the scan. The time until X's first column starts counts as `START_LAG`, as after a cut (DESIGN CHOICE: log entry 109). -/
def State.rejoinAxes (s : State) : State :=
  let s : State := if s.wag.axX.rejoin then
      let s := (s.setAxis 0 { s.wag.axX with rejoin := false }).moveTo 0 (divRound (s.outerBoundary (s.firstCol s.frameNo)) 1000000) false
      s.setPlan { s.plan with cutDrive := true }
    else s
  if s.wag.axY.rejoin then (s.setAxis 1 { s.wag.axY with rejoin := false }).moveTo 1 s.wag.yTarget false else s

/-- R119: `WAG_LOAD` of the frame that ends; with the mirror powered the times that the engine takes are free values. -/
def State.loadBoundary (s : State) : State :=
  if s.wag.powerAt.isNone then s.setR Reg.WAG_LOAD 0 else s.fresh.2.setR Reg.WAG_LOAD (s.fresh.1 % 65536)

/-- What a frame boundary does to the axes: `AX_ERR_PEAK` (R132), the start of the scan (R138), and a rejoin (R134). -/
def State.axesBoundary (s : State) : State :=
  let s := s.loadBoundary
  let s := s.each [0, 1] fun s a =>
    let x := s.axis a
    (s.setF (Reg.AX_ERR_PEAK a) 15 0 (min 0xFFFF x.peak)).setAxis a { x with peak := 0 }
  let s := s.setWag { s.wag with trackRaised := false }
  if s.wag.atStart ∧ s.wag.scanAt.isNone ∧ s.wag.startCol = s.firstCol s.frameNo then
    ((s.setWag { s.wag with scanAt := some s.now }).setAxState 0 2).setAxState 1 2
  else if s.wag.scanAt.isSome then s.rejoinAxes
  else s

/-- R363: the header of the frame that begins; `POINTS` is set for each subscription. -/
def State.frameHeader (s : State) (calib fly : Bool) : List Byte :=
  leBytes 4 s.frameNo ++ leBytes 8 s.plan.frameTime ++ leBytes 4 (s.f Reg.FRAME_STATUS 23 0) ++ leBytes 2 s.columns ++
    leBytes 2 (s.weather + 4 * b2n calib + 8 * b2n fly + 16 * (s.frameNo % 2)) ++ leBytes 4 (min s.plan.edgeDwell 0xFFFFFFFF) ++ leBytes 8 0

/-- Subscriptions of kinds 2 to 5 that wait start with the frame (R359); one made at the boundary's own instant starts at the next (R383). -/
def State.startSubs (s : State) : State :=
  s.each (s.subList.filter fun ch => (s.sub ch).state == 1 && !(s.sub ch).safety && (s.sub ch).asked != some s.now) fun s ch =>
    s.setSub ch { s.sub ch with state := 2, since := s.frameNo }

/-- R382: the halted stream channels restart. -/
def State.restartStreams (s : State) : State :=
  s.each ((List.range 36).filter fun n => s.f (if n < 32 then Reg.DMA_HALTED_LO else Reg.DMA_HALTED_HI) (n % 32) (n % 32) == 1) fun s n =>
    s.autoRestartDma n

/-- The operating state at a frame boundary (R27, R28, R108, R421): losses, then calibration, then commands. -/
def State.boundaryStates (s : State) : State :=
  let s := s.showLosses
  let s : State := if s.dev = .degraded ∧ ¬ s.anyLoss then s.transition .sensing 0x31 false else s
  let s := s.when (s.dev == .calibrating) State.returnFull
  let s : State := if s.dev.emitting ∧ s.fullDue then s.startFull 0x40 false else s
  let s := s.boundaryCmd fun s => s.startFull 0x41 true
  let s := s.settle
  if s.dev.emitting then (s.ssnHold 2 false).ssnRelease else s

/-- R60: a last column whose start falls on the boundary starts before it. -/
def State.startLast (s : State) : State :=
  match s.nextStart with
  | some t => if s.plan.swept + 1 = s.columns ∧ t ≤ s.now then s.startColumn else s
  | none => s

/-- The frame that ends: whether it is cut or its last column runs on, its report, and the time the mirror rested at the edge (R60). -/
def State.endFrame (s : State) (had : Bool) : State :=
  let s := s.startLast
  let was := s.plan.running
  let cut := was && decide (s.plan.swept < s.columns)
  let late := was && !cut && decide (s.now < s.plan.endAt)
  let s := s.when cut State.cutFrame
  let s := s.when had fun s => s.framePlan.reportLosses
  let s := s.when was fun s => s.pushItem (.endFrame s.frameNo)
  s.setPlan { s.plan with lateBoundary := late || cut, edgeDwell := if was ∧ ¬ cut ∧ ¬ late then divRoundNat (s.now - s.plan.endAt) 10 else 0 }

/-- The frame that begins, in the planner and the mirror. -/
def State.beginFrame (s : State) (had : Bool) : State :=
  let ends := s.now - s.plan.frameNs
  let fr := (s.frameNo + 1) % 2 ^ 32
  let s := (s.setR Reg.PLAN_FRAME_NUMBER fr).axesBoundary
  let runs := s.wag.scanAt.isSome
  let s := s.setPlan { s.plan with
    frameNs := s.now, frameTime := s.time.dev, acc := {}, startLag := 0, swept := 0, running := runs, coverK := s.plan.coverNext, coverNext := 1,
    cutDrive := s.plan.cutDrive && runs, dropped := s.plan.dropped.filter (fun e => e.1 == fr || e.1 == prevFrame fr),
    adj := ⟨[]⟩, sweptDur := 0, eccEntries := [] }
  let s : State := { s with rej := { s.rej with prev := ⟨s.rej.prev.entries.filter fun e => match e.2 with
    | some p => decide ((p.1 / 2048 + 1) % 4 = fr % 4 ∨ p.1 / 2048 = fr % 4 ∨ p.1 / 2048 = (fr + 1) % 4)
    | none => false⟩ } }
  let s : State := if runs then s
    else
      let s := s.resetPlan
      s.setPlan { s.plan with lateBoundary := false }
  s.hiveBoundary (if had then ends else 0)

/-- A frame boundary (R20, R272, R273). -/
def State.frameBoundary (s : State) (fly : Bool) : State :=
  let old := s.r Reg.LOOP_LATE_FLAGS
  let had := s.plan.frameNs == s.sync.lastB && s.sync.span && s.plan.frameTime != 0
  let plans := s.plansNextFrame
  let s := (s.endFrame had).loopLate old
  let s := s.boundaryPeriod fly
  let changed := s.planHeld
  let s := (s.countDefers.takeEffect frameClass).syncDue
  let s := { s with sys := { s.sys with loopLateRaised := false }, recorder := { s.recorder with frameOnce := [] } }
  let s := s.setCal { s.cal with ranFrame := false }
  let s := s.beginFrame had
  let s := (s.swapTables plans).when changed State.replan
  let s := ((s.wxProfiles.wxBoundary).sunReduce).retryStuck
  let s := s.each [0, 1] State.bulkReturnAtBoundary
  let s := s.when s.clk.returnDue State.returnRef
  let s := s.restartStreams
  let s := s.setEmit { s.emit with swapOwed := !s.emit.swapSent, swapSent := false }
  let s := (s.boundaryStates.arbBoundary).startSubs
  let s := s.snapFrame
  let calib := s.dev == .calibrating
  let s := s.pushItem (.frame s.frameNo (s.frameHeader calib fly) (!calib && s.plan.running))
  s.assemble

end Sys2Proof.Machine
end

