-- ==== Sys2Proof/Machine/LineCode.lean ====
section
/-!
DEFINITION. Machine/LineCode.lean: the line coding of a lane (R305 to R308), the flit layout (R311, R313) and the group with
its trailer (R310).
-/

namespace Sys2Proof.Machine

/-- The bits of a byte, least significant first (R305). -/
def byteBits (b : Byte) : List Bool := (List.range 8).map fun i => b.getLsbD i

/-- One step of the scrambler of R305: the state holds the last 31 line bits, the newest in bit 0. -/
def scrStep (st : Nat) (d : Bool) : Bool × Nat :=
  let s := (d ^^ bitN st 27) ^^ bitN st 30
  (s, (2 * st + b2n s) % 2 ^ 31)

/-- The scrambled bits and the scrambler's state after them. -/
def scramble (st : Nat) : List Bool → List Bool × Nat
  | [] => ([], st)
  | d :: ds =>
    let (s, st1) := scrStep st d
    let (ss, st2) := scramble st1 ds
    (s :: ss, st2)

/-- One step of the descrambler of R305. -/
def descrStep (st : Nat) (s : Bool) : Bool × Nat :=
  ((s ^^ bitN st 27) ^^ bitN st 30, (2 * st + b2n s) % 2 ^ 31)

/-- The recovered bits and the descrambler's state after them. -/
def descramble (st : Nat) : List Bool → List Bool × Nat
  | [] => ([], st)
  | s :: ss =>
    let (d, st1) := descrStep st s
    let (ds, st2) := descramble st1 ss
    (d :: ds, st2)

/-- R306: a pair of bits as a PAM4 level. -/
def pam4 (a b : Bool) : Nat := match a, b with
  | false, false => 0 | false, true => 1 | true, true => 2 | true, false => 3

/-- The line units of a bit string: bits in NRZ, levels at rate code 5 (R306). -/
def unitsOf (pam : Bool) : List Bool → List Nat
  | [] => []
  | [a] => if pam then [pam4 a false] else [b2n a]
  | a :: b :: r => if pam then pam4 a b :: unitsOf pam r else b2n a :: unitsOf pam (b :: r)

/-- R307: the stuff unit after a run of unit `u`. -/
def stuffUnit (pam : Bool) (u : Nat) : Nat := if pam then (u + 2) % 4 else 1 - u

/-- R307: insert stuff units; `last` and `run` describe the units already sent. -/
def stuff (pam : Bool) (last run : Nat) : List Nat → List Nat
  | [] => []
  | u :: us =>
    let n := if u = last then run + 1 else 1
    if n = 48 then u :: stuffUnit pam u :: stuff pam (stuffUnit pam u) 1 us
    else u :: stuff pam u n us

/-- R307: the receiver removes the unit that follows a run of 48 and breaks it as a stuff unit would. -/
def unstuff (pam : Bool) (last run : Nat) (full : Bool) : List Nat → List Nat
  | [] => []
  | u :: us =>
    if full ∧ u = stuffUnit pam last then unstuff pam u 1 false us
    else
      let n := if u = last then run + 1 else 1
      u :: unstuff pam u n (n == 48) us

/-- R307, R309: whether a unit continues a run of 48 among the units of a group: no stuff unit and no data makes such a run. -/
def overrun (pam : Bool) (last run : Nat) (full : Bool) : List Nat → Bool
  | [] => false
  | u :: us =>
    if full ∧ u = stuffUnit pam last then overrun pam u 1 false us
    else
      let n := if u = last then run + 1 else 1
      (full && u == last) || overrun pam u n (n == 48) us

/-- R305, R306: the bits that line units stand for. -/
def bitsOfUnits (pam : Bool) (us : List Nat) : List Bool :=
  us.flatMap fun u => if pam then [decide (2 ≤ u), decide (u = 1 ∨ u = 2)] else [u == 1]

/-- The bytes that bits spell, least significant first (R305); an incomplete last byte is dropped. -/
def bytesOfBits : Nat → List Bool → List Byte
  | 0, _ => []
  | n + 1, bs => if (bs.drop 7).isEmpty then [] else
    BitVec.ofNat 8 (((bs.take 8).zipIdx.map fun e => b2n e.1 * 2 ^ e.2).sum) :: bytesOfBits n (bs.drop 8)

/-- R308: the run value of a comma after unit `last`. -/
def commaRun (pam : Bool) (last : Nat) : Nat := if pam then (if last ≤ 1 then 3 else 0) else 1 - last

/-- R308: the other value of a comma. -/
def commaInv (pam : Bool) (c : Nat) : Nat := if pam then 3 - c else 1 - c

/-- R308: the comma that follows unit `last`. -/
def comma (pam : Bool) (last : Nat) : List Nat :=
  let c := commaRun pam last
  let n := commaInv pam c
  List.replicate 56 c ++ [n, n, n, c, n, c, c, n]

/-- A flit's payload of 64 bytes: the given bytes, then zeros. -/
def payload64 (bs : List Byte) : List Byte := bytesAt bs 0 64

/-- R311 and R313: the 68 bytes of a flit in place `idx` of a group with sequence number `gseq`. -/
def flitBytes (gseq idx : Nat) (f : Flit) : List Byte :=
  let tail := leBytes 2 (gseq % 4096 + 4096 * (idx % 16))
  let ctl (b0 : Nat) (pl : List Byte) := leBytes 1 b0 ++ leBytes 1 63 ++ tail ++ payload64 pl
  let ackPl (i : AckInfo) := leBytes 2 (i.aseq % 4096) ++ leBytes 2 i.svc ++ leBytes 2 i.saf ++ leBytes 2 i.blk
  match f with
  | .idle => ctl 0 []
  | .data cls sop eop pl =>
    leBytes 1 (1 + 16 * (cls % 4) + 64 * b2n sop + 128 * b2n eop) ++
      leBytes 1 (if eop then pl.length - 1 else 63) ++ tail ++ payload64 pl
  | .ack i => ctl 2 (ackPl i)
  | .nak i => ctl 3 (ackPl i)
  | .train t =>
    ctl 4 (leBytes 1 1 ++ leBytes 1 (t.maxRate % 8 + 8 * b2n t.device + 16 * b2n t.ackd + 32 * b2n t.up) ++
      leBytes 1 (t.lane % 4) ++ leBytes 1 t.eye ++ leBytes 2 t.session ++ leBytes 2 (t.rxNext % 4096) ++
      leBytes 1 (t.window % 128))
  | .rateChange r c => ctl 4 (leBytes 1 2 ++ leBytes 1 (r % 8) ++ leBytes 1 (c % 16))
  | .eqReq p fin => ctl 4 (leBytes 1 3 ++ leBytes 1 (p % 16) ++ leBytes 1 (b2n fin))
  | .power st => ctl 4 (leBytes 1 4 ++ leBytes 1 (st % 4))
  | .reserved => ctl 15 []

/-- Whether a flit is one that its 68 bytes can spell (R311, R313): every field fits, a flit without `EOP` is full, and one with it holds a byte at least. -/
def flitFits : Flit → Bool
  | .idle => true
  | .reserved => true
  | .data cls _ eop pl => decide (cls < 4) && (if eop then decide (1 ≤ pl.length ∧ pl.length ≤ 64) else pl.length == 64)
  | .ack i => decide (i.aseq < 4096 ∧ i.svc < 65536 ∧ i.saf < 65536 ∧ i.blk < 65536)
  | .nak i => decide (i.aseq < 4096 ∧ i.svc < 65536 ∧ i.saf < 65536 ∧ i.blk < 65536)
  | .train t => decide (t.maxRate < 8 ∧ t.lane < 4 ∧ t.eye < 256 ∧ t.session < 65536 ∧ t.rxNext < 4096 ∧ t.window < 128)
  | .rateChange r c => decide (r < 8 ∧ c < 16)
  | .eqReq p _ => decide (p < 16)
  | .power st => decide (st < 4)

/-- The bytes of the flits of a group, from place `idx` on. -/
def flitsBytes (gseq : Nat) : Nat → List Flit → List Byte
  | _, [] => []
  | idx, f :: fs => flitBytes gseq idx f ++ flitsBytes gseq (idx + 1) fs

/-- R310: the bytes of a group: its flits, then the CRC-32C over them. -/
def groupBytes (gseq : Nat) (fs : List Flit) : List Byte :=
  let b := flitsBytes gseq 0 fs
  b ++ leBytes 4 (crc32c b)

/-- The line units of a group (comma, scrambled and stuffed bits), the scrambler's state after it, and the last unit. -/
def lineGroup (pam : Bool) (scr last gseq : Nat) (fs : List Flit) : List Nat × Nat × Nat :=
  let cm := comma pam last
  let (bits, scr1) := scramble scr ((groupBytes gseq fs).flatMap byteBits)
  let us := cm ++ stuff pam (cm.getLastD 0) 1 (unitsOf pam bits)
  (us, scr1, us.getLastD 0)

/-- A group as the receiver reads it: whether a well formed comma led it and no framing error was in it (R309), its check word held (R310), its flits agreed on `GSEQ` and
ran through `FIDX` (R311), and what they say. -/
structure RxGroup where
  comma : Bool
  framed : Bool
  crcOk : Bool
  seqOk : Bool
  gseq : Nat
  flits : List Flit
deriving DecidableEq, Repr

/-- R313: the payload of an `ACK` or `NAK`. -/
def readAck (p : List Byte) : AckInfo := ⟨fieldBits p 0 2 11 0, fieldAt p 2 2, fieldAt p 4 2, fieldAt p 6 2⟩

/-- R311, R313: the flit that 68 bytes spell. A `LINK` flit of a `SUB` that R313 does not list says nothing (log entry 99). -/
def readFlit (b : List Byte) : Flit :=
  let h := fieldAt b 0 1
  let p := b.drop 4
  match h % 16 with
  | 0 => .idle
  | 1 =>
    let eop := bitN h 7
    .data (h / 16 % 4) (bitN h 6) eop (bytesAt p 0 (if eop then fieldAt b 1 1 % 64 + 1 else 64))
  | 2 => .ack (readAck p)
  | 3 => .nak (readAck p)
  | 4 =>
    let o := fieldAt p 1 1
    match fieldAt p 0 1 with
    | 1 => .train { maxRate := o % 8, device := bitN o 3, ackd := bitN o 4, up := bitN o 5, lane := fieldAt p 2 1 % 4, eye := fieldAt p 3 1,
                    session := fieldAt p 4 2, rxNext := fieldBits p 6 2 11 0, window := fieldAt p 8 1 % 128 }
    | 2 => .rateChange (o % 8) (fieldAt p 2 1 % 16)
    | 3 => .eqReq (o % 16) (fieldAt p 2 1 % 2 == 1)
    | 4 => .power (o % 4)
    | _ => .idle
  | _ => .reserved

/-- Sixteen flits of 68 bytes. -/
def flitChunks (bs : List Byte) : List (List Byte) := (List.range 16).map fun i => bytesAt bs (68 * i) 68

/-- R310, R311: the group that the bytes after a comma spell. -/
def readBytes (comma framed : Bool) (bs : List Byte) : RxGroup :=
  let ch := flitChunks bs
  let hd := ch.map fun b => fieldAt b 2 2
  let gseq := hd.headD 0 % 4096
  { comma, framed, gseq, flits := ch.map readFlit
    crcOk := bs.length == 1092 && crc32c (bs.take 1088) == fieldAt bs 1088 4
    seqOk := hd == (List.range 16).map fun i => gseq + 4096 * i }

/-- R305 to R311: read the units of a group, from the first of its comma on, with the descrambler's state before them; answers the group and the state after it. A run of 49
units or more at its head that is no comma, and one among its other units, is a framing error; a head of shorter runs is a missing comma (log entry 99). -/
def readGroup (pam : Bool) (scr : Nat) (us : List Nat) : RxGroup × Nat :=
  let c := us.headD 2
  let good := (c == 0 || c == if pam then 3 else 1) && us.take 64 == comma pam (commaInv pam c)
  let body := us.drop 64
  let last := (us.take 64).getLastD 0
  let headErr := !good && decide (49 ≤ (us.takeWhile (· == c)).length)
  let d := descramble scr (bitsOfUnits pam (unstuff pam last 1 false body))
  (readBytes good (!headErr && !overrun pam last 1 false body) (if d.1.length = 8736 then bytesOfBits 1092 d.1 else []), d.2)

/-- R319: the eye figure: min(255, floor(255 × min(H / 0.5 UI, V / 0.5 S))), of the smallest eye; S is a third of the swing in PAM4. -/
def eyeFigure (pam : Bool) (r : EyeReading) : Nat :=
  (r.eyes.map fun e => min (510 * e.1 / 1000000) (510 * (if pam then 3 else 1) * e.2 / r.swing)).foldl min 255

/-- R319: the preset that gives the highest eye figure; among equals `tie` if it is one of them, else the first (log entry 100). -/
def bestPreset (figs : List Nat) (tie : Nat) : Nat :=
  let m := figs.foldl max 0
  if figs[tie]? = some m then tie else figs.idxOf m

/-- R314: how far sequence number `a` lies ahead of `b`, modulo 4,096. -/
def gseqDist (a b : Nat) : Nat := wrapSub 12 a b

end Sys2Proof.Machine
end

