-- ==== Sys2Proof/Machine/Links.lean ====
section
/-!
DEFINITION. Machine/Links.lean: the host lanes (chapter 14): groups sent and received, retransmission, bring-up, retraining,
loss and power states.
-/

namespace Sys2Proof.Machine

/-- The `TRAIN` flit that the NL5 sends (R313); its `EYE` is 0 before equalisation. -/
def State.trainFlit (s : State) (l : Nat) : Flit :=
  let x := s.lane l
  .train { maxRate := s.f (Reg.LANE_CFG l) 2 0, device := true, ackd := decide (4 ≤ x.trainRx), up := x.eqFinal, lane := l,
           eye := x.eyeTx, session := x.session, rxNext := x.rxNext, window := 64 }

/-! ## The transmitter -/

/-- A class may send a flit while what it sent stays below what the peer granted, modulo 65,536 (R312). -/
def Credit.open (c : Credit) : Bool := wrapSub 16 c.granted c.sent != 0 && decide (wrapSub 16 c.granted c.sent < 32768)

/-- The port whose service class lane l carries, if it carries one (R330, R396). -/
def State.serviceLane (s : State) (l : Nat) : Option Nat :=
  let p := s.portOf l
  if s.classLane p true = l then some p else none

/-- Load the service transmitter of lane l, if it is idle, with a packet that a DMA channel queued for it, else with the next of its port: DMA32 to DMA35
move them, unless halted (R376). -/
def State.loadService (s : State) (l : Nat) : State :=
  let x := s.lane l
  match x.txSvc, x.txDma, s.serviceLane l with
  | none, t :: ts, _ => s.setLane l { x with txSvc := some t, txDma := ts }
  | none, [], some p =>
    if s.f (Reg.DMA_STATUS (32 + p)) 1 0 = 3 then s
    else match (s.port p).out with
    | [] => s
    | k :: _ =>
      let b := k.bytes
      (s.popOut p).setLane l { x with txSvc := some { bytes := b, size := b.length } }
  | _, _, _ => s

/-- The next flit of a packet, and the packet's rest. -/
def TxPacket.flit (t : TxPacket) (cls : Nat) : Flit × Option TxPacket :=
  let last := decide (t.bytes.length ≤ 64)
  (.data cls (!t.started) last (t.bytes.take 64),
   if last then none else some { t with bytes := t.bytes.drop 64, started := true })

def TxPacket.tag (t : TxPacket) : PktTag := ⟨t.sub, t.records, t.size, t.owed⟩

/-- Fill up to `n` places of a group with data flits in class order: safety, service, bulk (R312). Answers the state, the
flits, and the packets that end in the group. -/
def State.fillData (l : Nat) : Nat → State → State × List Flit × List PktTag
  | 0, s => (s, [], [])
  | n + 1, s =>
    let s := s.loadService l
    let x := s.lane l
    let pick : Option (State × Flit × List PktTag) :=
      match x.txSaf, x.saf.open with
      | t :: ts, true =>
        let (fl, r) := t.flit 1
        some (s.setLane l { x with txSaf := r.toList ++ ts, saf := { x.saf with sent := (x.saf.sent + 1) % 65536 } }, fl,
              if r.isNone then [t.tag] else [])
      | _, _ =>
        match x.txSvc, x.svc.open with
        | some t, true =>
          let (fl, r) := t.flit 0
          some (s.setLane l { x with txSvc := r, svc := { x.svc with sent := (x.svc.sent + 1) % 65536 } }, fl,
                if r.isNone then [t.tag] else [])
        | _, _ =>
          match x.txBlk, x.blk.open with
          | t :: ts, true =>
            let (fl, r) := t.flit 2
            some (s.setLane l { x with txBlk := r.toList ++ ts, blk := { x.blk with sent := (x.blk.sent + 1) % 65536 } }, fl,
                  if r.isNone then [t.tag] else [])
          | _, _ => none
    match pick with
    | none => (s, [], [])
    | some (s1, fl, tg) =>
      let (s2, fls, tgs) := State.fillData l n s1
      (s2, fl :: fls, tg ++ tgs)

/-- Sixteen flits: those given, then `IDLE`. -/
def pad16 (fs : List Flit) : List Flit := fs.take 16 ++ List.replicate (16 - fs.length) .idle

/-- Put a group on the line (R305 to R310). -/
def State.sendGroup (s : State) (l gseq : Nat) (fs : List Flit) : State :=
  let x := s.lane l
  let (us, scr, last) := lineGroup (s.f (Reg.LANE_STATUS l) 6 4 == 5) x.scrTx x.lastUnit gseq fs
  s.setLane l { x with txLine := us, scrTx := scr, lastUnit := last }

/-- The GSEQ that a control group carries: that of the last data group sent (R310). -/
def LaneSt.lastGseq (x : LaneSt) : Nat := (x.gseqTx + 4095) % 4096

/-- The `ACK` or `NAK` flit that the receiver owes (R313 to R315), if any, and the lane with the debt paid. -/
def LaneSt.owedFlit (x : LaneSt) : List Flit × LaneSt :=
  if x.nakOwed then
    ([.nak ⟨x.rxNext, x.grantSvc, 0, 0⟩], { x with nakOwed := false, ackOwed := false, accepted := 0 })
  else if x.ackOwed then
    ([.ack ⟨(x.rxNext + 4095) % 4096, x.grantSvc, 0, 0⟩], { x with ackOwed := false, accepted := 0 })
  else ([], x)

/-- Whether the transmitter of lane l has anything to send (R322): data, a replay, an `ACK` or a `NAK`. -/
def State.txWanted (s : State) (l : Nat) : Bool :=
  let x := s.lane l
  x.ackOwed || x.nakOwed || x.txSvc.isSome || !x.txSaf.isEmpty || !x.txBlk.isEmpty || !x.txDma.isEmpty || !x.unacked.isEmpty ||
    (match s.serviceLane l with | some p => !(s.port p).out.isEmpty | none => false)

/-- R322: what the next `POWER` of lane l announces: SLEEP while `TX_REQ` asks for it, else a DOZE that is due. -/
def State.powerDue (s : State) (l : Nat) : Option Nat :=
  if s.f (Reg.LANE_PWR l) 1 0 = 2 then some 2 else (s.lane l).powerOwed

/-- R316: replay the oldest group that waits to be sent again; `RETRY_LIMIT` replays without acknowledgement retrain. -/
def State.replayNext (s : State) (l : Nat) (g : TxGroup) : State :=
  let x := s.lane l
  let g1 := { g with resend := false, replays := g.replays + 1, sentAt := s.now }
  let s := s.setLane l { x with unacked := x.unacked.map (fun h => if h.gseq = g.gseq then g1 else h), idleSince := s.now }
  let s := ((s.sendGroup l g.gseq g.flits).inc (Reg.LANE_REPLAY l)).flag Reg.LINK_FLAGS 2
  if s.f (Reg.LANE_CFG l) 31 28 ≤ g1.replays then s.retrain l else s

/-- R314, R315: a control group with the `ACK` or `NAK` that is owed. -/
def State.sendOwed (s : State) (l : Nat) : State :=
  let x := s.lane l
  let (ctl, x1) := x.owedFlit
  let s := s.setLane l x1
  let s := if x.nakOwed then s.inc (Reg.LANE_NAK_TX l) else s
  s.sendGroup l x1.lastGseq (pad16 ctl)

/-- R312, R315, R322: a group of a lane in `UP`: owed control flits first, then data while the window is open. What is queued takes back a DOZE that was due. -/
def State.sendNew (s : State) (l : Nat) : State :=
  let x := s.lane l
  let (ctl, x1) := x.owedFlit
  let nakSent := x.nakOwed
  let due := s.powerDue l
  let x1 := if s.txWanted l then { x1 with powerOwed := none } else x1
  let pw := match due with
    | some st => if s.txWanted l then [] else [Flit.power st]
    | none => []
  let s := s.setLane l x1
  let s := if nakSent then s.inc (Reg.LANE_NAK_TX l) else s
  let fixed := ctl ++ pw
  if pw ≠ [] then
    let s := s.sendGroup l x1.lastGseq (pad16 fixed)
    let s := s.setF (Reg.LANE_STATUS l) 9 8 (due.getD 0)
    s.setLane l { s.lane l with powerOwed := none }
  else if min 64 (s.f (Reg.LANE_EQ l) 30 24) ≤ x1.unacked.length then s.sendGroup l x1.lastGseq (pad16 fixed)
  else
    let (s, data, tags) := State.fillData l (16 - fixed.length) s
    if data.isEmpty then s.sendGroup l x1.lastGseq (pad16 fixed)
    else
      let x := s.lane l
      let fl := pad16 (fixed ++ data)
      let g : TxGroup := { gseq := x.gseqTx, flits := fl, sentAt := s.now, pkts := tags }
      let s := s.setLane l { x with unacked := x.unacked ++ [g], gseqTx := (x.gseqTx + 1) % 4096, idleSince := s.now }
      s.sendGroup l g.gseq fl

/-- R322: the transmit direction of lane l leaves electrical idle and wakes. -/
def State.wakeLane (s : State) (l : Nat) : State :=
  let s := s.leaveIdle l
  s.setLane l { s.lane l with
    wakeUntil := some (s.now + if s.f (Reg.LANE_STATUS l) 9 8 = 2 then 200000 else 2000), powerOwed := none }

/-- R319: a group with an `EQ_REQ` of preset `r.1`, `FINAL` if `r.2`. -/
def State.sendRequest (s : State) (l : Nat) (r : Nat × Bool) : State :=
  (s.setLane l { s.lane l with reqPreset := none }).sendGroup l (s.lane l).lastGseq (.eqReq r.1 r.2 :: List.replicate 15 (s.trainFlit l))

/-- R310: the transmitter of lane l sends its next group. An owed `ACK` or `NAK` goes before the groups of a replay (R314). During a change of rate it counts down, holds idle
and resumes at the target (R317); in equalisation it asks for the presets 0 to 10, one a group (R319; log entry 100). -/
def State.groupTx (s : State) (l : Nat) : State :=
  if !s.laneOn l then s
  else
    let s := s.startLane l
    let x := s.lane l
    if s.f (Reg.LANE_STATUS l) 9 8 ≠ 0 then
      match x.wakeUntil with
      | some _ => s.sendGroup l x.lastGseq (pad16 [])
      | none =>
        let sleep := s.f (Reg.LANE_STATUS l) 9 8 == 2
        let wake := if sleep then x.ackOwed || x.nakOwed else s.txWanted l || s.powerDue l == some 2
        if wake then
          (s.wakeLane l).sendGroup l x.lastGseq (pad16 [])
        else s
    else
      match s.laneSt l with
      | 5 =>
        match x.unacked.find? (·.resend) with
        | some g => if x.ackOwed || x.nakOwed then s.sendOwed l else s.replayNext l g
        | none => s.sendNew l
      | 3 =>
        match x.reqPreset with
        | some r => s.sendRequest l r
        | none =>
          if x.switched then s.sendGroup l x.lastGseq (List.replicate 16 (s.trainFlit l))
          else if x.rateCount = 0 then s
          else
            let s := s.setLane l { x with rateCount := x.rateCount - 1, rateIdle := if x.rateCount = 1 then some (s.now + 10000) else none }
            s.sendGroup l x.lastGseq (List.replicate 16 (.rateChange x.target (x.rateCount - 1)))
      | 4 =>
        match x.reqPreset with
        | some r => s.sendRequest l r
        | none =>
          if x.eqNext < 11 then (s.setLane l { x with eqNext := x.eqNext + 1 }).sendRequest l (x.eqNext, false)
          else s.sendGroup l x.lastGseq (List.replicate 16 (s.trainFlit l))
      | _ =>
        let s1 := if 4 ≤ x.trainRx then s.setLane l { x with ackdSent := x.ackdSent + 16 } else s
        s1.sendGroup l x.lastGseq (List.replicate 16 (s.trainFlit l))

/-- LANE_GROUP_TX. -/
def execLaneGroupTx (l : Fin 4) (s : State) : Host.Outcome State Fault Refusal := .next ((s.groupTx l).owedRetrains)

/-! ## The receiver -/

/-- R315: an `ACK` or `NAK` acknowledges every group up to a sequence number. -/
def LaneSt.ackUpTo (x : LaneSt) (aseq : Nat) : LaneSt :=
  { x with unacked := x.unacked.filter fun g => decide (2048 ≤ gseqDist aseq g.gseq) }

/-- The credit that a peer grants (R312, R313). -/
def LaneSt.grant (x : LaneSt) (i : AckInfo) : LaneSt :=
  { x with svc := { x.svc with granted := i.svc }, saf := { x.saf with granted := i.saf },
           blk := { x.blk with granted := i.blk } }

/-- Mark every unacknowledged group to be sent again, from the oldest (R315, R316). -/
def LaneSt.goBack (x : LaneSt) : LaneSt :=
  match x.unacked with
  | [] => x
  | g :: _ => { x with unacked := x.unacked.map fun h => { h with resend := true }, replayFrom := some g.gseq }

/-- A replay from group `gseq` is under way (R315). -/
def LaneSt.replaying (x : LaneSt) (gseq : Nat) : Bool := x.replayFrom == some gseq && x.unacked.any (·.resend)

/-- A service flit of a host packet reaches the packet being assembled (R331). Answers the state; a complete packet arrives
at the lane's port. -/
def State.serviceFlit (s : State) (l : Nat) (sop eop : Bool) (pl : List Byte) : State :=
  let x := s.lane l
  let bs := if sop then pl else x.asm ++ pl
  let n := if sop then 1 else x.asmFlits + 1
  if !sop && !x.asmOn then s
  else if eop then
    let s := s.setLane l { x with asm := [], asmOn := false, asmFlits := 0, asmBad := false }
    s.packetIn l bs (!x.asmBad && decide (n ≤ 64))
  else if 64 ≤ n then s.setLane l { x with asm := bs.take 16, asmOn := true, asmFlits := 64, asmBad := true }
  else s.setLane l { x with asm := bs, asmOn := true, asmFlits := n }

/-- R326: a `TRAIN` of the peer during a rate change starts bring-up again at step 1, with preset 4, at the current rate. -/
def State.restartTraining (s : State) (l : Nat) : State :=
  let s := s.when (s.lane l).rateIdle.isSome fun s => s.leaveIdle l
  ((s.setLaneSt l (if (s.lane l).retrainAt.isSome then 6 else 1)).setF (Reg.LANE_EQ l) 3 0 4).setLane l { s.lane l with
    trainRx := 0, ackdSent := 0, ackdRx := false, peerUp := false, eqFinal := false, eyeTx := 0, eqNext := 0, rateIdle := none, switched := false,
    reqPreset := none }

/-- Act on one flit of a group that was accepted (R312 to R323). -/
def State.actFlit (l : Nat) (hasNak : Bool) (s : State) (fl : Flit) : State :=
  let x := s.lane l
  match fl with
  | .idle => s
  | .reserved => s
  | .data 0 sop eop pl =>
    (s.setLane l { x with grantSvc := (x.grantSvc + 1) % 65536 }).serviceFlit l sop eop pl
  | .data _ _ _ _ => s
  | .ack i => s.setLane l (if hasNak then x.grant i else (x.ackUpTo i.aseq).grant i)
  | .nak i =>
    let x := (x.ackUpTo ((i.aseq + 4095) % 4096)).grant i
    s.setLane l (if x.replaying i.aseq then x else x.goBack)
  | .train t =>
    if s.laneSt l = 5 then s.retrain l
    else
      let s := if s.laneSt l = 3 ∧ ¬ x.switched then s.restartTraining l else s
      let s := (s.setF (Reg.LANE_STATUS l) 14 12 t.maxRate).setF (Reg.LANE_STATUS l) 31 24 t.eye
      let x := s.lane l
      s.setLane l { x with trainRx := x.trainRx + 1, ackdRx := x.ackdRx || t.ackd, peerUp := t.up, peerSession := t.session,
                           peerRxNext := t.rxNext, peerWindow := t.window }
  | .rateChange _ _ => s
  | .eqReq k _ => s.setF (Reg.LANE_EQ l) 3 0 k
  | .power st =>
    let s := s.setF (Reg.LANE_STATUS l) 11 10 st
    if st = 0 then s else s.setLane l { s.lane l with scrRx := 0x7FFFFFFF }

/-- A data flit (R310). -/
def Flit.isData : Flit → Bool
  | .data _ _ _ _ => true | _ => false

def Flit.isNak : Flit → Bool
  | .nak _ => true | _ => false

/-- Act on the flits of an accepted group: data and control first, `POWER` at the group's end (R326). -/
def State.actGroup (s : State) (l : Nat) (g : RxGroup) : State :=
  let pw := fun fl => match fl with | Flit.power _ => true | _ => false
  let nak := g.flits.any Flit.isNak
  (s.each (g.flits.filter (!pw ·)) (State.actFlit l nak)).each (g.flits.filter pw) (State.actFlit l nak)

/-- R315: the receiver names the expected group in one `NAK`. -/
def State.oweNak (s : State) (l : Nat) : State :=
  let x := s.lane l
  if x.nakOut then s else s.setLane l { x with nakOwed := true, nakOut := true }

/-- R309: the commas in a row, good and bad. A receiver in DOZE or SLEEP is not losing lock (R323). -/
def State.countComma (s : State) (l : Nat) (good : Bool) : State :=
  let x := s.lane l
  if good then s.setLane l { x with goodCommas := x.goodCommas + 1, missed := 0 }
  else if s.f (Reg.LANE_STATUS l) 11 10 ≠ 0 then s
  else s.setLane l { x with goodCommas := 0, missed := x.missed + 1 }

/-- R309, R314, R315: the receiver gets a group. Until it is comma-locked it only counts commas. -/
def State.groupRx (s : State) (l : Nat) (g : RxGroup) : State :=
  if !s.laneOn l then s
  else
    let s := (s.startLane l).countComma l g.comma
    if !(s.lane l).locked then s
    else
    let s := if g.framed then s else (s.inc (Reg.LANE_FRAME_ERR l)).flag Reg.LINK_FLAGS 1
    let bad := !g.framed || !g.crcOk || g.flits.any (· == .reserved)
    let s := if bad then (s.inc (Reg.LANE_CRC_ERR l)).flag Reg.LINK_FLAGS 0 else s
    if bad then (if s.laneSt l = 5 then s.oweNak l else s)
    else if !g.seqOk then s
    else if g.flits.any Flit.isData then
      if s.laneSt l ≠ 5 then s
      else
        let x := s.lane l
        let ahead := gseqDist g.gseq x.rxNext
        if ahead = 0 then
          (s.setLane l { x with rxNext := (x.rxNext + 1) % 4096, nakOut := false, nakOwed := false, ackOwed := true,
                                accepted := x.accepted + 1, idleSince := s.now }).actGroup l g
        else if 1 ≤ gseqDist x.rxNext g.gseq ∧ gseqDist x.rxNext g.gseq ≤ 64 then s.setLane l { x with ackOwed := true }
        else s.oweNak l
    else s.actGroup l g

/-- R305 to R311: what lane l reads from the units of a group, and the state of its descrambler after them. -/
def State.laneRead (s : State) (l : Nat) (us : List Nat) : RxGroup × Nat :=
  readGroup (s.f (Reg.LANE_STATUS l) 6 4 == 5) (s.lane l).scrRx us

/-- The descrambler of lane l runs on. -/
def State.setScrRx (s : State) (l v : Nat) : State := s.setLane l { s.lane l with scrRx := v }

/-- LANE_GROUP_RX. A group that is due and does not come is one of no units: its comma is missing (log entry 99). -/
def execLaneGroupRx (l : Fin 4) (units : List Nat) (s : State) : Host.Outcome State Fault Refusal :=
  .next ((s.setScrRx l (s.laneRead l units).2).groupRx l (s.laneRead l units).1)

/-- REPLAY_TIMEOUT (R316): the oldest unacknowledged data group has waited 20 µs since it was last sent. A replay from it that is under way goes on, as
if a `NAK` had named it (R315). -/
def execReplayTimeout (l : Fin 4) (s : State) : Host.Outcome State Fault Refusal :=
  let x := s.lane l
  .next (match x.unacked with
    | [] => s
    | g :: _ => if s.laneSt l = 5 ∧ ¬ g.resend ∧ ¬ x.replaying g.gseq ∧ g.sentAt + 20000 ≤ s.now then s.setLane l x.goBack else s)

/-! ## Bring-up -/

/-- LANE_SIGNAL (R317 step 2): the receiver finds the peer's signal. -/
def execLaneSignal (l : Fin 4) (s : State) : Host.Outcome State Fault Refusal :=
  .next (if !s.laneOn l then s
  else
    let s := s.startLane l
    if s.laneSt l = 1 ∨ s.laneSt l = 6 then s.setLane l { s.lane l with signalAt := some s.now, scrRx := 0x7FFFFFFF, goodCommas := 0 } else s)

/-- LANE_COMMA_LOCK (R309, R317 steps 2 and 5): 8 commas in a row at the group spacing. After a change of rate equalisation follows. -/
def execLaneCommaLock (l : Fin 4) (s : State) : Host.Outcome State Fault Refusal :=
  .next (if !s.laneOn l ∨ (s.lane l).goodCommas < 8 then s
    else
      let s := s.setLane l { s.lane l with locked := true }
      if s.laneSt l = 1 ∨ s.laneSt l = 6 then s.setLaneSt l 2
      else if s.laneSt l = 3 ∧ (s.lane l).switched then (s.setLane l { s.lane l with eqNext := 0 }).setLaneSt l 4
      else s)

/-- LANE_COMMA_LOSS (R309, R320): four consecutive bad commas; a lane in `UP` retrains. A receiver in DOZE or SLEEP is not
out of lock (R323). -/
def execLaneCommaLoss (l : Fin 4) (s : State) : Host.Outcome State Fault Refusal :=
  .next (if !s.laneOn l ∨ s.f (Reg.LANE_STATUS l) 11 10 ≠ 0 ∨ (s.lane l).missed < 4 then s
    else
      let s := s.setLane l { s.lane l with locked := false, goodCommas := 0 }
      if s.laneSt l = 5 then s.retrain l else s)

/-- LANE_TRAIN_DONE (R317 step 3): 8 `TRAIN` flits with `ACKD` sent and one received. The target is the smaller
`MAX_RATE`; a target that is the rate in force needs no change of rate. -/
def execLaneTrainDone (l : Fin 4) (s : State) : Host.Outcome State Fault Refusal :=
  let x := s.lane l
  .next (if s.laneSt l = 2 ∧ 8 ≤ x.ackdSent ∧ x.ackdRx then
      let target := min (s.f (Reg.LANE_CFG l) 2 0) (s.f (Reg.LANE_STATUS l) 14 12)
      let s := s.setLane l { x with target := target, rateCount := 16, rateIdle := none, switched := false, eqNext := 0 }
      if target = s.f (Reg.LANE_STATUS l) 6 4 then s.setLaneSt l 4 else s.setLaneSt l 3
    else s)

/-- LANE_RATE_SWITCH (R317 step 4): the countdown and 10 µs of idle end, and the lane resumes at the target with `TRAIN` groups. -/
def execLaneRateSwitch (l : Fin 4) (s : State) : Host.Outcome State Fault Refusal :=
  let x := s.lane l
  .next (match x.rateIdle with
    | some t =>
      if s.laneSt l = 3 ∧ t ≤ s.now then
        (s.setF (Reg.LANE_STATUS l) 6 4 x.target).setLane l
          { x with scrTx := 0x7FFFFFFF, scrRx := 0x7FFFFFFF, locked := false, goodCommas := 0, missed := 0, rateIdle := none, switched := true, eyeTx := 0 }
      else s
    | none => s)

/-- LANE_EQ_DONE (R317 steps 6 and 7, R319): equalisation ends, once all presets have been asked for, with what the eye monitor measured under each, and an equaliser code. The
preset of the highest eye figure is kept, with `FINAL`; among equals `preset` may be it. `peerOk` says that the peer's eye reached the peer's own limit. Below a limit the
target falls by one code. -/
def execLaneEqDone (l : Fin 4) (eyes : List EyeReading) (ctle preset : Nat) (peerOk : Bool) (s : State) : Host.Outcome State Fault Refusal :=
  let x := s.lane l
  let rate := s.f (Reg.LANE_STATUS l) 6 4
  let figs := eyes.map (eyeFigure (rate == 5))
  let eye := figs.foldl max 0
  .next (if s.laneSt l = 4 ∧ x.eqNext = 11 ∧ ¬ x.eqFinal then
      let s := (s.setF (Reg.LANE_STATUS l) 23 16 eye).setF (Reg.LANE_EQ l) 11 8 ctle
      let x := { x with eyeTx := eye, reqPreset := some (bestPreset figs preset, true) }
      if rate ≠ 0 ∧ (eye < s.f (Reg.LANE_CFG l) 15 8 ∨ ¬ peerOk) then
        (s.setLane l { x with target := rate - 1, rateCount := 16, rateIdle := none, switched := false }).setLaneSt l 3
      else s.setLane l { x with eqFinal := true }
    else s)

/-- Count the packets that a sequence reset discards (R320, R374). -/
def State.countDiscard (s : State) (l : Nat) (t : PktTag) : State :=
  match t.sub with
  | some ch => s.countLoss ch 4 t.records t.size t.owed
  | none => if (s.portOf l) < 4 then s.inc (Reg.PORT_SEQ_LOSS (s.portOf l)) else s

/-- R320: both ends reset GSEQ and their credit counts, and discard unacknowledged groups. On a lane that has failed for its pair the packets queued are lost with them (R398). -/
def State.sequenceReset (s : State) (l : Nat) : State :=
  let x := s.lane l
  let failed := s.pairFormed (l / 2) && !s.bit (Reg.PAIR_STATUS (l / 2)) (2 + l % 2)
  let goes (t : TxPacket) : Bool := t.started || failed
  let lost := (x.unacked.flatMap (·.pkts)) ++ ((x.txSvc.toList ++ x.txSaf ++ x.txBlk ++ x.txDma).filter goes).map (·.tag)
  let s := s.each lost fun s t => s.countDiscard l t
  let keep := fun (ts : List TxPacket) => ts.filter (!goes ·)
  let s := s.setLane l { x with
    gseqTx := 0, rxNext := 0, unacked := [], svc := {}, saf := {}, blk := {}, grantSvc := 256, nakOut := false,
    nakOwed := false, ackOwed := false, asm := [], asmOn := false, asmBad := false,
    txSvc := x.txSvc.filter (!goes ·), txSaf := keep x.txSaf, txBlk := keep x.txBlk, txDma := keep x.txDma }
  let s := (s.flag Reg.LINK_FLAGS 6).inc (Reg.LANE_SEQ_RESET l)
  (s.post Rec.LANE (l + 32)).raise Ev.LANE_SEQ_RESET .all (leBytes 4 l)

/-- LANE_UP (R317 step 8, R320, R321): both ends have exchanged `TRAIN` with `UP`; the NL5 has, once its `FINAL` is sent. An `ACK` is owed at once: it grants the 256 service flits of R312. -/
def execLaneUp (l : Fin 4) (s : State) : Host.Outcome State Fault Refusal :=
  let x := s.lane l
  .next (if s.laneSt l = 4 ∧ x.eqFinal ∧ x.reqPreset = none ∧ x.peerUp then
      let s := s.setLane l { x with upSession := some (x.session, x.peerSession), retrainAt := none }
      let s := match x.upSession with
        | none => s
        | some pr =>
          if pr = (x.session, x.peerSession) then
            s.setLane l ((s.lane l).ackUpTo ((x.peerRxNext + 4095) % 4096)).goBack
          else s.sequenceReset l
      let s := (s.setLaneSt l 5).setBit Reg.LINK_STATUS l true
      let s := s.setF (Reg.LANE_EQ l) 23 16 (s.f (Reg.LANE_STATUS l) 23 16)
      let s := s.setF (Reg.LANE_EQ l) 30 24 (min 64 x.peerWindow)
      let s := s.setLane l { s.lane l with idleSince := s.now, ackOwed := true }
      let s := if s.bit (Reg.LANE_STATUS l) 15 then s.laneFound l else s
      (s.pairLaneUp l).raise Ev.LANE_UP .all (leBytes 4 l)
    else s)

/-- RETRAIN_TIMEOUT (R320): not `UP` again within 10 ms of the retrain. -/
def execRetrainTimeout (l : Fin 4) (s : State) : Host.Outcome State Fault Refusal :=
  .next (match (s.lane l).retrainAt with
    | some t => if s.laneSt l ≠ 5 ∧ t + 10000000 ≤ s.now then s.fullBringUp l else s
    | none => s)

/-- EYE_UPDATE (R319): the eye figure is renewed each 1 ms in `UP`; `LANE_EYE_LOW` at most once per second. -/
def execEyeUpdate (l : Fin 4) (eye : EyeReading) (s : State) : Host.Outcome State Fault Refusal :=
  .next (if s.laneSt l = 5 then
      let e := eyeFigure (s.f (Reg.LANE_STATUS l) 6 4 == 5) eye
      let s := s.setF (Reg.LANE_STATUS l) 23 16 e
      let s := s.setF (Reg.LANE_EQ l) 23 16 (min e (s.f (Reg.LANE_EQ l) 23 16))
      if e < s.f (Reg.LANE_CFG l) 23 16 then
        let s := s.flag Reg.LINK_FLAGS 4
        let due := match (s.lane l).eyeWarnAt with
          | none => true
          | some t => decide (t + 1000000000 ≤ s.now)
        if due then
          (s.setLane l { s.lane l with eyeWarnAt := some s.now }).raise Ev.LANE_EYE_LOW .all (leBytes 4 (l + 256 * e))
        else s
      else s
    else s)

/-- R321: the moment from which lane l's loss interval counts, if it counts. -/
def State.lossFrom (s : State) (l : Nat) : Option Nat :=
  match s.sys.standbyAt with
  | none => none
  | some t0 => some (max t0 (max ((s.lane l).leftUpAt.getD 0) ((s.lane l).expectAt.getD 0)))

/-- LANE_LOSS_TIMEOUT (R321): an expected lane has not been `UP` for `LOSS_TIME`. -/
def execLaneLossTimeout (l : Fin 4) (s : State) : Host.Outcome State Fault Refusal :=
  .next (match s.lossFrom l with
    | none => s
    | some t =>
      if l < s.variant.lanes ∧ s.bit Reg.LINK_CTRL (4 + l) ∧ s.laneSt l ≠ 5 ∧ ¬ s.bit (Reg.LANE_STATUS l) 15 ∧
          t + s.f Reg.LINK_CTRL 31 16 * 1000000 ≤ s.now then s.laneLost l
      else s)

/-! ## Power states (R322, R323) -/

/-- R322: whether a port holds a safety-class subscription. -/
def State.hasSafetySub (s : State) (p : Nat) : Bool :=
  s.streams.subs.entries.any fun e => e.2.port == p && decide (6 ≤ e.2.kind)

/-- DOZE_IDLE_TIMEOUT: an idle lane announces DOZE in its next group. -/
def execDozeIdleTimeout (l : Fin 4) (s : State) : Host.Outcome State Fault Refusal :=
  let x := s.lane l
  let auto := s.bit (Reg.LANE_CFG l) 24 && (s.bit (Reg.LANE_CFG l) 25 || !s.hasSafetySub (s.portOf l))
  let asked := s.f (Reg.LANE_PWR l) 1 0 == 1 || auto
  .next (if s.laneSt l = 5 ∧ s.f (Reg.LANE_STATUS l) 9 8 = 0 ∧ asked ∧ ¬ s.txWanted l ∧
      x.idleSince + s.f (Reg.LANE_PWR l) 15 8 * 1000 ≤ s.now then s.setLane l { x with powerOwed := some 1 } else s)

/-- LANE_WAKE_DONE: the wake time ends and the transmit direction is ACTIVE. -/
def execLaneWakeDone (l : Fin 4) (s : State) : Host.Outcome State Fault Refusal :=
  let x := s.lane l
  .next (match x.wakeUntil with
    | some t =>
      if s.laneOn l ∧ t ≤ s.now then (s.setF (Reg.LANE_STATUS l) 9 8 0).setLane l { x with wakeUntil := none, idleSince := s.now } else s
    | none => s)

/-- RECEIVER_WAKE_LOCK (R323): the receive direction returns to ACTIVE. -/
def execReceiverWakeLock (l : Fin 4) (s : State) : Host.Outcome State Fault Refusal :=
  .next (if s.laneOn l then s.setF (Reg.LANE_STATUS l) 11 10 0 else s)

/-- R322: a write of `TX_REQ` and `RETRAIN` to `LANE_PWR_l` acts on the lane. A 0 takes back a DOZE that is due. A disabled lane holds SLEEP (R324). -/
def State.lanePwrEffect (s : State) (l req : Nat) (retrain : Bool) : State :=
  let x := s.lane l
  let s :=
    if req ≠ 0 ∨ !s.laneOn l then s
    else if s.f (Reg.LANE_STATUS l) 9 8 = 0 then s.setLane l { x with powerOwed := none }
    else if x.wakeUntil = none then s.wakeLane l else s
  if retrain then s.retrain l else s

end Sys2Proof.Machine
end

