-- ==== Sys2Proof/Machine/EmitRows.lean ====
section
/-!
DEFINITION. Machine/EmitRows.lean: the events of the emitter drive: the cut of a drip window, FIRE edges and start references, returned drip frames,
shutdowns, the fade and wavelength lock (chapter 4), and the start of a shot's timing (R174, R175).
-/

namespace Sys2Proof.Machine

/-! ## Lost tiles (R110) -/

/-- R110: tile t is lost. A locked tile is treated as a lost one already (R114). -/
def State.loseTile (s : State) (t : Nat) : State :=
  if s.bit Reg.EMIT_STATUS (16 + t) ∨ s.tileLocked t then s
  else
    let s := (s.setBit Reg.EMIT_STATUS (16 + t) true).post Rec.TILE_LOST t
    let s := s.raise Ev.TILE_LOST .all (leBytes 4 t)
    ((s.setWlState t 3).settleWl).settle

/-- R110: a miss of tile t; a tile whose consecutive misses reach the limit is lost. -/
def State.tileMiss (s : State) (t : Nat) : State :=
  let n := s.emit.misses.get 0 t + 1
  let s := (s.inc (Reg.TILE_MISS t)).setEmit { s.emit with misses := s.emit.misses.set 0 t n }
  if s.ef Reg.EMIT_TILE_LIMITS 7 0 ≤ n then s.loseTile t else s

/-! ## The cut and the launch -/

/-- R386, R387: the claim that the planner that is not active presents at this cut; a failed one presents 0. A tie of non-zero claims is flagged and
timed. -/
def State.takeClaims (s : State) (other : Nat) : State :=
  let b := 1 - s.activePlanner
  let s := s.setClaim b (if 5 ≤ s.plannerSt b then 0 else other % 65536)
  if s.claimOf 0 = s.claimOf 1 ∧ s.claimOf 0 ≠ 0 then
    let s := s.flag Reg.RED_FLAGS 5
    if s.red.tieAt.isSome then s else s.setRed { s.red with tieAt := some s.now }
  else s.setRed { s.red with tieAt := none }

/-- R392 `ENTRY_CHECK`: a shot entry of a column fails its parity at the gate; the second of one column fails the planner. A count ends with its column. -/
def State.badEntry (s : State) (key : Nat) : State :=
  match s.col key with
  | none => s
  | some c =>
    let at_ (c : ColPlan) : Nat := 2048 * c.frame + c.column
    let live := s.red.parity.filter fun e => s.plan.cols.entries.any fun x => match x.2 with
      | some d => at_ d == e.1 && !d.closed
      | none => false
    let n := ((live.find? (·.1 == at_ c)).map (·.2)).getD 0 + 1
    let s := s.setRed { s.red with parity := live.filter (·.1 != at_ c) ++ [(at_ c, n)] }
    if n = 2 then s.failPlanner 4 else s

/-- DRIP_CUT (R93): the cut of the next drip window, 500 ns before it begins; the first batches of a column about to start are queued before (R17). `bad` lists the shot numbers whose entries fail their parity, `other` is
the claim that the planner that is not active presents. -/
def execDripCut (bad : List Nat) (other : Nat) (s : State) : Host.Outcome State Fault Refusal :=
  let w := s.emit.lastWin + 1
  .next (if s.dev = .reset ∨ s.now < 500 * (w - 1) then s
  else
    let old := s.r Reg.LOOP_LATE_FLAGS
    let s := s.leadBatches.takeClaims other
    let keys := (s.plan.queue.filter fun q => bad.contains q.number).map (·.key)
    let s := (s.cutWindow w bad).each keys State.badEntry
    s.loopLate old)

/-- An internal shot gives way on a channel that a fired shot arms. -/
def State.dropInternal (s : State) (n : Nat) : State :=
  if s.tdc.shots.any fun q => q.internal && q.waiting.contains n then s.disarm n else s

/-- R109, R110: the points that a tile that is not `LOCKED` serves carry `WL_ACQ`. -/
def State.markAcq (s : State) (key g : Nat) : State :=
  if s.wlState (g / 8) = 2 then s else s.modSegPts key g fun p => { p with wlAcq := true }

/-- A shot that is fired at its launch time: its FIRE edge is issued (R90) and its windows open. Points that had stopped count it as withdrawn (R56).
The pattern that a sample of it is judged by is the active one now (R111). -/
def State.fire (s : State) (q : CutShot) : State :=
  let t := q.seg / 8
  let s := s.setEmit { s.emit with
    fires := s.emit.fires.set [] t (((q.fireAt, fireWidth q.win) :: s.emit.fires.get [] t).take 8),
    sarNext := s.emit.sarNext.map fun x =>
      if x.seg == q.seg && x.fireAt == q.fireAt then { x with amp := s.patEnergy (Reg.PAT_ACT q.seg) } else x }
  let s := s.modSeg q.key q.seg fun p => { p with used := p.used + 1 }
  let s := s.each ((s.segChannels q.seg).filter fun ch => !q.acc.contains ch) fun s ch =>
    s.modPt (ptKey q.key ch) fun p => { p with withdrawn := p.withdrawn + 1 }
  let s := s.markAcq q.key q.seg
  let s := s.each (s.segChannels q.seg) State.dropInternal
  s.openShot q

/-- SHOT_LAUNCH (R90): the launch time of the earliest cut shot is reached, and its notice goes to the combs. A permitted shot that may no longer be
fired is refused (R91, R103). -/
def execShotLaunch (s : State) : Host.Outcome State Fault Refusal :=
  .next (match s.emit.cuts with
  | [] => s
  | q :: rest =>
    if 512 * s.now < q.fireAt then s
    else
      let s := s.setEmit { s.emit with cuts := rest }
      let stopped := !q.refused && (!s.dev.emitting || s.lsd || !s.laserEn)
      let s := s.when stopped fun s => (s.countRefused q.key q.seg).unfire q
      let q : CutShot := { q with refused := q.refused || stopped }
      let combs := s.noticeCombs q.seg
      let s := s.when (!q.refused) fun s => s.fire q
      s.each combs fun s c => s.notice c q)

/-! ## Start references (R103, R111, R174, R175) -/

/-- R111 `SPURIOUS`: a start reference more than 40 ns from any FIRE edge of its tile; four within 1 ms while `LASER_EN` is high. -/
def State.spuriousStart (s : State) (t : Nat) : State :=
  let edges := (s.emit.fires.get [] t).map (·.1) ++ (s.emit.cuts.filter fun q => q.seg / 8 == t && !q.refused).map (·.fireAt)
  let near (f : Nat) : Bool := decide (f ≤ 512 * (s.now + 40) ∧ 512 * s.now ≤ f + 20480)
  if ¬ s.laserEn ∨ edges.any near then s
  else
    let l := s.now :: (s.emit.spurious.get [] t).filter fun a => decide (s.now < a + 1000000)
    if 4 ≤ l.length then (s.setEmit { s.emit with spurious := s.emit.spurious.set [] t [] }).segFailure 3 (some t) 0
    else s.setEmit { s.emit with spurious := s.emit.spurious.set [] t l }

/-- The shot of tile t that waits for its start. -/
def State.waitingShot (s : State) (t : Nat) : Option OpenShot :=
  s.tdc.shots.find? fun q => q.tile == t && q.start.isNone && !q.internal && decide (q.fireAt ≤ 512 * s.now ∧ 512 * s.now ≤ q.fireAt + 20480)

/-- The combs that take the internal reference pulse now (R177): all in ARMED and CALIBRATING, else the one under comb-level calibration. -/
def State.pulseCombs (s : State) : List Nat :=
  if s.dev = .armed ∨ s.dev = .calibrating then List.range s.variant.combs
  else match s.cal.run with
    | some r => [r.comb]
    | none => []

/-- R177: a shot started by the internal reference pulse, on the channels in state `OK` that no shot uses. With an extended window a channel stays
armed until coarse reaches 16,384. Its shot has segment and number 0, and a window of 40 ns otherwise. -/
def State.internalStart (s : State) (t : Nat) (readings : List (Nat × Nat)) : State :=
  let combs := s.pulseCombs
  let free (n : Nat) : Bool := s.chanState n == 0 && (s.chan n).win.isNone && !(s.tdc.shots.any fun q => q.waiting.contains n)
  let chans := ((combs.map combChans).flatten).filter free
  if chans.isEmpty ∨ s.tdc.shots.any (·.internal) then s
  else
    let f := 512 * s.now
    let s := s.each chans fun s n =>
      s.openWindow none n 0 0 f (if s.bit Reg.TDC_EXT_WIN (n / 16) then f + 16384 * 320 else windowEnd f 0)
    let q : OpenShot := {
      key := 0x100000, seg := 0, batch := 0, batchEnd := false, number := 0, dither := 0, acc := [], tile := t, fireAt := f,
      combs := combs.filter fun c => chans.any fun n => n / 16 == c, internal := true, waiting := chans }
    (s.setShots (s.tdc.shots ++ [q])).startShot q readings

/-- A fired shot has its start: it counts as fired in the points that accumulate it, with its launch time (R103, R366). A shot
in a place before its column's start (R94) counts with the time still to go. -/
def State.startFired (s : State) (q : OpenShot) (readings : List (Nat × Nat)) : State :=
  let s := s.setEmit { s.emit with misses := s.emit.misses.set 0 q.tile 0 }
  let t0 := ((s.launchHalf q.key 0).map (256 * ·)).getD q.fireAt
  let s := s.each q.acc fun s ch => s.modPt (ptKey q.key ch) fun p => { p with fired := p.fired + 1, tofs := p.tofs + ((q.fireAt : Int) - t0) }
  let s := s.startShot q readings
  if q.waiting.isEmpty then s.setShots (s.tdc.shots.filter fun x => !(x.number == q.number && x.internal == q.internal && x.seg == q.seg)) else s

/-- START_REF_EDGE (R174): a start edge of tile t, read in comb c as coarse count and raw code `readings[c]`; `internal` tells the internal
reference pulse. -/
def execStartRefEdge (t : Fin 8) (internal : Bool) (readings : List (Nat × Nat)) (s : State) : Host.Outcome State Fault Refusal :=
  .next (if internal then s.internalStart t readings
  else match s.waitingShot t with
    | some q => s.startFired q readings
    | none => s.spuriousStart t)

/-- START_TIMEOUT (R103, R175): 40 ns after a FIRE edge no start has come: the shot is late in its points and a miss of its tile.
Such a shot is not counted in `LOOP_LATE_PLAN` (DESIGN CHOICE: log entry 75). -/
def execStartTimeout (s : State) : Host.Outcome State Fault Refusal :=
  .next (match s.tdc.shots.find? fun q => q.start.isNone && !q.internal && decide (q.fireAt + 20480 < 512 * s.now) with
  | none => s
  | some q =>
    let s := s.each q.acc fun s ch => s.modPt (ptKey q.key ch) fun p => { p with late := p.late + 1, noStart := p.noStart + 1 }
    ((s.noStart q).unstamp q).tileMiss q.tile)

/-! ## Returned drip frames (R97, R98, R110, R111) -/

/-- R98: a failure of a return; `DRIP_RET_LIMIT` in a row shut the laser function down, and each one that follows them names the cause again (DESIGN CHOICE: log
entry 113). -/
def State.retFailure (s : State) : State :=
  let n := s.emit.retFails + 1
  let s := (s.inc Reg.DRIP_RET_ERR).setEmit { s.emit with retFails := n }
  if s.ef Reg.EMIT_TILE_LIMITS 15 8 ≤ n then s.segFailure 4 none 0 else s

/-- R98: whether a returned frame agrees with the one sent. -/
def retOk (tiles : Nat) (sent f : DripFrame) : Bool :=
  f.seq == sent.seq && f.swap == sent.swap && f.lv == sent.lv && f.lstart == sent.lstart && f.lbyte == sent.lbyte &&
    f.blocks.length == 8 && f.blocks.all (·.parOk) && (f.blocks.take tiles).all (·.kind) &&
    (f.blocks.drop tiles).all fun b => !b.kind && b.p == 0

/-- R111: tile t reports `SEG_FAULT` in one of the two returns after an `EMIT_FAULT`: it is the tile that this cause names. -/
def State.nameFault (s : State) (t : Nat) : State :=
  let s := s.setEmit { s.emit with lsdNamed := t :: s.emit.lsdNamed }
  if s.emit.lsdOwn ∧ ¬ s.bit Reg.EMIT_LSD_CAUSE 14 then (s.setF Reg.EMIT_LSD_CAUSE 10 8 t).setBit Reg.EMIT_LSD_CAUSE 14 true else s

/-- A returned status of tile t (R97, R110, R111). In the return of a frame that swaps, `BANK` may name the bank before it or after it
(DESIGN CHOICE: log entry 88). -/
def State.tileStatus (s : State) (e : SentFrame) (t : Nat) (b : Byte) : State :=
  let p := b.toNat
  let s := s.setBit Reg.EMIT_STATUS (8 + t) (bitN p 0)
  let s := s.when (bitN p 3) fun s => s.inc Reg.DRIP_PAR_ERR
  let s := s.when (bitN p 1 && decide (0 < s.emit.faultReturns)) fun s => s.nameFault t
  let s := s.when (bitN p 1 && !s.tileLocked t) fun s => s.segFailure 1 (some t) (p / 32)
  let miss := (!bitN p 0 && s.laserEn && !s.fading) || bitN p 3 || (bitN p 4 != e.bankBefore && bitN p 4 != e.bankAfter)
  if miss then s.tileMiss t else s

/-- DRIP_RET_FRAME (R98): the oldest frame under way returns. The statuses of a return that fails its checks are not used (DESIGN CHOICE: log entry 89),
and it is none of the two returns that may name the tile of `EMIT_FAULT` (R111; DESIGN CHOICE: log entry 90). -/
def execDripRetFrame (f : DripFrame) (s : State) : Host.Outcome State Fault Refusal :=
  .next (match s.emit.sent with
  | [] => s
  | e :: rest =>
    if s.now < e.at_ then s
    else
      let s := s.setEmit { s.emit with sent := rest }
      if e.at_ + 600 < s.now ∨ ¬ retOk s.tiles e.frame f then s.retFailure
      else
        let s := s.setEmit { s.emit with retFails := 0 }
        let s := ((f.blocks.take s.tiles).zipIdx).foldl (fun s (b : DripBlock × Nat) => s.tileStatus e b.2 b.1.p) s
        s.setEmit { s.emit with faultReturns := s.emit.faultReturns - 1, lsdOwn := s.emit.lsdOwn && s.emit.faultReturns == 2 })

/-- DRIP_RET_TIMEOUT (R98): a frame has not come back complete within 600 ns. -/
def execDripRetTimeout (s : State) : Host.Outcome State Fault Refusal :=
  .next (match s.emit.sent with
  | e :: rest => if e.at_ + 600 < s.now then (s.setEmit { s.emit with sent := rest }).retFailure else s
  | [] => s)

/-! ## Shutdowns (R111 to R113) -/

/-- EMIT_FAULT_INPUT (R111, R113): the level of `EMIT_FAULT_N`, which has lasted `ns`; low for 40 ns while `LASER_EN` is high shuts the laser
function down. -/
def execEmitFaultInput (low : Bool) (ns : Nat) (s : State) : Host.Outcome State Fault Refusal :=
  .next (
    let s := (s.setEmit { s.emit with faultLow := if low then some (s.now - ns) else none }).syncFaultIn
    let on := (s.emit.laserAt.map (s.now - ·)).getD 0
    if low ∧ 40 ≤ min ns on ∧ s.laserEn then s.segFailure 0 none 0 else s)

/-- LSD_SAFE_ENTRY (R112 step 5): after a shutdown the NL5 reports it and enters SAFE, from the states that R27 gives a way into it; in the others the report is all, and the
latch stands (DESIGN CHOICE: log entry 114). -/
def execLsdSafeEntry (s : State) : Host.Outcome State Fault Refusal :=
  .next (match s.emit.lsdAt with
  | none => s
  | some _ =>
    let s := (s.setEmit { s.emit with lsdAt := none }).raise Ev.LASER_SHUTDOWN .all (leBytes 4 (s.r Reg.EMIT_LSD_CAUSE))
    s.toSafe 0x52)

/-- ACCT_SUBINTERVAL (R105, R106): a W0 sub-interval begins: the sums move on, and the accountant channels compare theirs; `disagree` tells a
difference that a fault in one of them makes. -/
def execAcctSubinterval (disagree : Bool) (s : State) : Host.Outcome State Fault Refusal :=
  .next (
    let s := s.each (List.range 8) fun s z => s.syncAcct z (2 * s.now / 125)
    if disagree ∨ s.emit.acctA ≠ s.emit.acctB then s.segFailure 5 none 0 else s)

/-! ## The fade (R108) -/

/-- `FADE_TIME` in ns. -/
def State.fadeNs (s : State) : Nat := s.f Reg.EMIT_CTRL 9 0 * 1000000

/-- FADE_STEP (R108): the next of the 32 steps of `CEIL` begins. -/
def execFadeStep (s : State) : Host.Outcome State Fault Refusal :=
  .next (match s.emit.fadeAt with
  | some t =>
    let k := s.emit.fadeStep
    if k < 32 ∧ 32 * t + k * s.fadeNs ≤ 32 * s.now then s.setEmit { s.emit with fadeStep := k + 1, ceil := 8 * k + 7 } else s
  | none => s)

/-- FADE_END (R108): the tiles are judged; `START_SENSING` waits for the frame boundary, or the NL5 enters SAFE. -/
def execFadeEnd (s : State) : Host.Outcome State Fault Refusal :=
  .next (match s.emit.fadeAt with
  | some t =>
    if s.now < t + s.fadeNs then s
    else
      let s := (s.setBit Reg.EMIT_STATUS 1 false).setEmit { s.emit with fadeAt := none, fadeStep := 0, ceil := 255 }
      let ready := (List.range 8).filter s.tileReady
      if ready.isEmpty then s.toSafe 0x54
      else
        let s := s.each ((List.range s.tiles).filter fun t => !ready.contains t && !s.tileLost t) State.loseTile
        let cmds := s.sys.cmds.map fun c => if c.opcode = Op.START_SENSING ∧ c.started then { c with ready := true } else c
        ({ s with sys := { s.sys with cmds } }).settleWl
  | none => s)

/-! ## Wavelength lock (R109) -/

/-- WL_BLOCK_MEAN (R109): a block of sampled shots of tile t is complete. -/
def execWlBlockMean (t : Fin 8) (s : State) : Host.Outcome State Fault Refusal :=
  .next (
    let x := s.wlTile t
    match x.done with
    | none => s
    | some (n, d, a) =>
      let mean := divRound d n
      let s := s.setR (Reg.WL_DISC t) (satS 16 mean + 65536 * min 0xFFFF (divRoundNat a (2 * n)))
      let inBand := decide ((mean - signed 16 (s.ef Reg.EMIT_WL_CTRL 15 0)).natAbs ≤ s.ef Reg.EMIT_WL_CTRL 27 16)
      let x : WlTile := { x with
        done := none, inRun := if inBand then x.inRun + 1 else 0, outRun := if inBand then 0 else x.outRun + 1 }
      let s := (s.setWlTile t x).setWag { s.wag with newMean := t.val :: s.wag.newMean.filter (· != t.val) }
      let s : State :=
        if s.wlState t = 1 ∧ 4 ≤ x.inRun then (s.setWlTile t { x with lostNs := 0, since := none }).setWlState t 2
        else if s.wlState t = 2 ∧ 2 ≤ x.outRun then s.setWlState t 1
        else s
      s.settleWl)

/-- WL_LOSS_TIMEOUT (R109): tile t has not been `LOCKED` for `WL_LOSS_TIME` ms of emission. -/
def execWlLossTimeout (t : Fin 8) (s : State) : Host.Outcome State Fault Refusal :=
  .next (
    let s := s.settleWl
    if s.wlCounts t ∧ s.ef Reg.EMIT_TILE_LIMITS 31 16 * 1000000 ≤ (s.wlTile t).lostNs then s.loseTile t else s)

/-- PATTERN_SWAP (R101): in STANDBY and ARMED the pattern banks swap 400 µs after the commit. -/
def execPatternSwap (s : State) : Host.Outcome State Fault Refusal :=
  .next (if s.dev = .standby ∨ s.dev = .armed then s.swapPatternsDue else s)

end Sys2Proof.Machine
end

