-- ==== Sys2Proof/Machine/RxRows.lean ====
section
/-!
DEFINITION. Machine/RxRows.lean: what happens in the receive front end (R144 to R167): edges, the close of a receive window, range changes,
stuck comparators, the monitoring tick, bias conversions, the self-test and `BLANK`.
-/

namespace Sys2Proof.Machine

/-- COMPARATOR_EDGE (R147, R176): a rising edge of channel n's comparator, read as coarse count and raw code; `level` the stage's output
at it, `overNs` how long it overloads the stage, in ns. -/
def execComparatorEdge (n : Fin 512) (count code : Nat) (level : StageLevel) (overNs : Nat) (s : State) : Host.Outcome State Fault Refusal :=
  .next (if n.val < s.variant.channels then s.edge n count code level.peak level.dip overNs else s)

/-- RECEIVE_WINDOW_CLOSE (R144, R145, R174): channel n's receive window ends, with the peak that the detector saw in 1/64 of full scale. -/
def execReceiveWindowClose (n : Fin 512) (peak : Nat) (s : State) : Host.Outcome State Fault Refusal :=
  .next (match (s.chan n).win with
  | none => s
  | some w => if 512 * s.now < w.closeAt then s else ((s.overflow n w).disarm n).closeWindow n peak)

/-- RANGE_CHANGE (R146): 8 ns after the close a wanted range change begins, and holds the comparator for 40 ns; with a FIRE edge of the segment less
than 48 ns after the close it is deferred. -/
def execRangeChange (n : Fin 512) (s : State) : Host.Outcome State Fault Refusal :=
  let x := s.chan n
  .next (match x.next with
  | none => s
  | some r =>
    if x.win.isSome ∨ 512 * s.now < x.closeAt + 8 * 512 then s
    else
      let soon := match (s.segOfChan n).bind s.nextFire with
        | some f => decide (f < x.closeAt + 48 * 512)
        | none => false
      if soon then s.flag Reg.RX_FLAGS 6
      else (s.setRange n r).modChan n fun x => { x with next := none, holdUntil := max x.holdUntil (512 * s.now + 40 * 512) })

/-- COMPARATOR_STUCK (R163): channel n's comparator has been high for more than 1 µs. -/
def execComparatorStuck (n : Fin 512) (s : State) : Host.Outcome State Fault Refusal :=
  .next (if s.variant.channels ≤ n.val ∨ (s.chan n).stuck ∨ s.dev = .reset then s else (s.stickChan n).settle)

/-- R155: whether the bias monitors run: in every state but RESET, BOOT and FAULT_HALT. -/
def State.biasMonitored (s : State) : Bool := !(s.dev == .reset || s.dev == .boot || s.dev == .faultHalt)

/-- The registers whose writes take effect at a monitoring tick (R169). -/
def monitorClass (a : Nat) : Bool :=
  a == Reg.RX_CTRL || a == Reg.RX_LIMITS || a == Reg.RX_BIAS_LIMITS || (List.range 8).any fun z => a == Reg.BIAS_CTRL z

/-- R153, R154, R158: the zones at a monitoring tick. -/
def State.monitorZones (s : State) : State :=
  let s := s.each s.rx.retry fun s z => s.retryZone z
  State.each { s with rx := { s.rx with retry := [] } } (List.range 8) fun s z => s.rampZone z

/-- The combs whose excitation a tick judges: those of zones that are `ON` before it. A comb that a `RETRY` makes `SUSPECT` at this tick is judged at the next
one, and a zone that ends its ramp gives its combs the four ticks that follow. -/
def State.judgedCombs (s : State) : List Nat :=
  (List.range s.variant.combs).filter fun c =>
    s.zoneSt (s.zoneOf c) == 2 && !(s.rx.retry.contains (s.zoneOf c) && (s.rxComb c).bias == 2)

/-- R155 to R158: the excitation readings `fast` of all combs are published and judged. -/
def State.takeReadings (s : State) (fast judge : List Nat) : State :=
  let combs := List.range s.variant.combs
  let s : State := { s with rx := { s.rx with readDue := none } }
  let s := s.each combs fun s c => s.setR (Reg.BIAS_FAST c) (min 65535 (fast.getD c 0))
  let s := s.each combs fun s c => s.checkOver c (fast.getD c 0)
  s.each judge fun s c => if s.zoneSt (s.zoneOf c) = 2 then s.checkComb (s.zoneOf c) c (fast.getD c 0) else s

/-- R298: the RTD checks of a monitoring tick; a break acts on the thermal policy. An input without a reading has one inside all limits. -/
def State.monitorRtd (s : State) (l : List RtdReading) : State :=
  s.each (List.range 8) fun s r =>
    let x := s.checkRtd r ((l.filter fun x => x.input == r).all s.rtdOk)
    if x.1 then x.2.thermPolicy else x.2

/-- What waits for the end of an internal blank at a monitoring tick: the excitation readings (R155) and the RTD checks (R298). -/
def State.takeChecks (s : State) (fast judge : List Nat) (rtd : List RtdReading) : State :=
  let s : State := { s with rx := { s.rx with readDue := none } }
  (s.when s.biasMonitored fun s => s.takeReadings fast judge).monitorRtd rtd

/-- One monitoring tick (R153, R155, R166, R298). In an internal blank the readings and the RTD checks wait for its end. -/
def State.monitorTick (s : State) (fast refBad : List Nat) (rtd : List RtdReading) : State :=
  let s : State := { s with rx := { s.rx with ticks := s.rx.ticks + 1 } }
  let s := (s.takeEffect monitorClass).syncBlank
  let judge := s.judgedCombs
  let s := s.monitorZones
  let s : State := if s.inBlank then { s with rx := { s.rx with readDue := some judge } } else s.takeChecks fast judge rtd
  let refs := !s.inBlank && !s.blankOn
  let s := s.when refs fun s => s.each (List.range s.variant.combs) fun s c => s.checkRef c (!refBad.contains c)
  (s.runConversions.refreshCombs).settle

/-- MONITOR_TICK (R153): the monitoring ticks come every 16 µs from reset. `fast` are the excitation readings by comb, `refBad` the combs whose reference lies
outside its limits, `rtd` what the checks of the RTD inputs find. Where the tick fell into an internal blank, the row comes again with what is found at its end. -/
def execMonitorTick (fast refBad : List Nat) (rtd : List RtdReading) (s : State) : Host.Outcome State Fault Refusal :=
  .next (if s.dev = .reset then s
    else match s.rx.readDue with
      | some judge =>
        if !s.inBlank then (s.takeChecks fast judge rtd).settle
        else if s.now < 16000 * (s.rx.ticks + 1) then s else s.monitorTick fast refBad rtd
      | none => if s.now < 16000 * (s.rx.ticks + 1) then s else s.monitorTick fast refBad rtd)

/-- BIAS_CONVERSION_DONE (R155): the current conversion of comb c is complete. -/
def execBiasConversionDone (c : Fin 32) (code : Nat) (s : State) : Host.Outcome State Fault Refusal :=
  let x := s.rxComb c
  .next (match x.conv with
  | none => s
  | some t =>
    if s.rx.ticks < t + 2 ^ s.ef Reg.RX_LIMITS 11 8 then s
    else
      let s := s.setRxComb c { x with conv := some s.rx.ticks, convClear := !s.blankOn }
      if x.convClear then
        let v := min 65535 code
        let s := s.setF (Reg.BIAS_I c) 15 0 v
        let s := s.setF (Reg.BIAS_I c) 17 16 (if s.ef Reg.RX_BIAS_LIMITS 31 16 ≤ v then 2 else 0)
        s.setF (Reg.BIAS_I c) 31 24 (s.f (Reg.BIAS_I c) 31 24 + 1)
      else s.setF (Reg.BIAS_I c) 17 16 3)

/-- RX_SELFTEST_DONE (R165): the channel self-test ends; `results` says what its injections yielded. -/
def execRxSelftestDone (results : List Injection) (s : State) : Host.Outcome State Fault Refusal :=
  .next (match s.rx.testAt with
  | none => s
  | some _ => (s.endSelftest (failedChans results)).settle)

/-- BLANK_INPUT (R161): `BLANK` has had a level for a time; pulses shorter than 80 ns are ignored. In RESET only the ball changes. -/
def execBlankInput (level : BlankLevel) (s : State) : Host.Outcome State Fault Refusal :=
  .next (if level.ns < 80 then s
    else
      let s : State := { s with rx := { s.rx with blankPin := level.high } }
      if s.dev = .reset then s else s.syncBlank)

/-- BLANK_MAX_TIMEOUT (R162): `BLANK` has been asserted for longer than `BLANK_MAX`, and is ignored until it deasserts. -/
def execBlankMaxTimeout (s : State) : Host.Outcome State Fault Refusal :=
  .next (match s.rx.blankSince with
  | none => s
  | some t =>
    if s.bit Reg.RX_STATUS 1 ∨ s.now ≤ t + 1000000 * max 1 (s.ef Reg.RX_CTRL 15 8) then s
    else
      let s := s.when s.blankOn State.endBlank
      let s := (s.setBit Reg.RX_STATUS 1 true).flag Reg.RX_FLAGS 4
      s.raise Ev.BLANK_STUCK .all (leBytes 4 0))

end Sys2Proof.Machine
end

