-- ==== Sys2Proof/Machine/DmaOps.lean ====
section
/-!
DEFINITION. Machine/DmaOps.lean: how a DMA channel moves the bytes of a descriptor (R376 to R378): beats of the source width into a holding register
of 32 bytes, and from it beats of the destination width.
-/

namespace Sys2Proof.Machine

/-- R377: the bytes of a beat of a space. -/
def dmaWidth (space : Nat) : Nat := if space = 0 then 32 else if space = 2 ∨ space = 7 then 1 else if space = 6 then 16 else 8

/-- One write of the engine (R378): the beat's address, its byte enables, lowest address in bit 0, and the bytes they name. A lane-queue word's valid
byte count is the number of its bytes. -/
structure DmaWrite where
  beat : Nat
  enables : Nat
  bytes : List Byte
deriving DecidableEq, Repr

/-- A descriptor under way: the source and destination addresses, the bytes still to be read, the holding register, and the writes so far. -/
structure DmaMove where
  src : Nat
  dst : Nat
  left : Nat
  hold : List Byte := []
  writes : List DmaWrite := []
deriving DecidableEq, Repr

/-- An address `n` bytes on, unless it is fixed. -/
def dmaNext (fixed : Bool) (a n : Nat) : Nat := if fixed then a else (a + n) % 2 ^ 32

/-- The bytes that the engine reads at `a`; what a lane queue answers to a read is free. -/
def State.dmaRead (s : State) (d : Desc) (left a n : Nat) : List Byte :=
  (List.range n).map fun i => if d.srcSpace = 1 then Config.freeByte s.freeCtr (left - i) else s.spaceByte d.srcSpace d.srcSel ((a + i) % 2 ^ 32)

/-- R378: the engine's next read or write. It writes when the holding register fills the rest of a destination beat, or holds the descriptor's last
bytes; else it reads to the end of a source beat, as far as the register has room. -/
def State.dmaStep (s : State) (d : Desc) (m : DmaMove) : DmaMove :=
  let w := dmaWidth d.dstSpace
  let off := m.dst % w
  if m.hold ≠ [] ∧ (w - off ≤ m.hold.length ∨ m.left = 0) then
    let n := min (w - off) m.hold.length
    { m with dst := dmaNext d.dstFixed m.dst n, hold := m.hold.drop n,
             writes := m.writes ++ [{ beat := m.dst - off, enables := (2 ^ n - 1) * 2 ^ off, bytes := m.hold.take n }] }
  else
    let v := dmaWidth d.srcSpace
    let n := min m.left (min (v - m.src % v) (32 - m.hold.length))
    { m with src := dmaNext d.srcFixed m.src n, left := m.left - n, hold := m.hold ++ s.dmaRead d m.left m.src n }

def State.dmaRun (s : State) (d : Desc) : Nat → DmaMove → DmaMove
  | 0, m => m
  | n + 1, m => if m.left = 0 ∧ m.hold = [] then m else s.dmaRun d n (s.dmaStep d m)

/-- The writes of a descriptor's first `count` bytes. -/
def State.dmaWrites (s : State) (d : Desc) (count : Nat) : List DmaWrite :=
  (s.dmaRun d (2 * count + 1) { src := d.src, dst := d.dst, left := count }).writes

/-- One write reaches a space other than a lane queue: the enabled bytes of its beat. -/
def State.dmaWrite (s : State) (d : Desc) (w : DmaWrite) : State :=
  let on := (List.range 32).filter (bitN w.enables)
  s.each (on.zip w.bytes) fun s e => s.setSpaceByte d.dstSpace d.dstSel (w.beat + e.1) e.2

/-- R376: the words that channel n wrote to a lane queue make a packet of the class that `DST_SEL` names: 0 service, 1 safety, 2 bulk. -/
def State.queueWords (s : State) (n sel : Nat) (l : List DmaWrite) : State :=
  let b := (l.map (·.bytes)).flatten
  let t : TxPacket := { bytes := b, size := b.length, chan := some n }
  let x := s.lane (sel % 4)
  match sel / 4 with
  | 0 => s.setLane (sel % 4) { x with txDma := x.txDma ++ [t] }
  | 1 => s.setLane (sel % 4) { x with txSaf := x.txSaf ++ [t] }
  | 2 => s.setLane (sel % 4) { x with txBlk := x.txBlk ++ [t] }
  | _ => s

/-- R378: the first `count` bytes of a descriptor of channel n move. A lane queue takes the words of a whole descriptor only (R381). -/
def State.dmaMoveBytes (s : State) (n : Nat) (d : Desc) (count : Nat) : State :=
  let l := s.dmaWrites d count
  let s : State := if d.srcSpace = 1 then { s with freeCtr := s.freeCtr + 1 } else s
  if d.dstSpace = 1 then (if count = d.count then s.queueWords n d.dstSel l else s) else s.each l fun s w => s.dmaWrite d w

/-- R376: a descriptor of channel n moves a packet that the model holds whole: one to a lane queue, of a channel of a lane port whose ring, or whose queue of replies and
events, has one. Every other descriptor moves the bytes that it names. -/
def State.dmaCarries (s : State) (n : Nat) (d : Desc) : Bool :=
  decide (n < 36) && d.dstSpace == 1 && (if n < 32 then (s.dma n).moved || !(s.sub n).ring.isEmpty else !(s.port (n - 32)).out.isEmpty)

/-- R381: at a halt with the count not zero, how many bursts of 64 bytes were written before the one that failed is free. -/
def State.dmaPartial (s : State) (n : Nat) : State :=
  let d := s.desc (s.r (Reg.DMA_CUR n))
  if s.dmaCarries n d ∨ d.valid = false ∨ d.dstSpace = 1 ∨ !d.inDram s.variant then s
  else
    let r := s.fresh
    r.2.dmaMoveBytes n d (64 * (r.1 % ((d.count + 63) / 64)))

end Sys2Proof.Machine
end

