-- ==== Sys2Proof/Machine/StreamCmds.lean ====
section
/-!
DEFINITION. Machine/StreamCmds.lean: the commands of subscriptions and DMA channels, and what DMA channels do (R359, R360, R377 to R382).
-/

namespace Sys2Proof.Machine

/-! ## Subscriptions -/

/-- R341: subscriptions are per lane port; LP has none. -/
def laneRoles (l : List Role) (p : Nat) : List Role := if p = 4 then [] else l

/-- The block of R359. -/
def subFrom (p : Nat) (b : List Byte) : Sub :=
  { port := p, kind := fieldAt b 0 1 % 16, opts := fieldAt b 1 1, decimate := max 1 (fieldAt b 2 1), firstCol := fieldAt b 4 2 % 2048
    lastCol := fieldAt b 6 2 % 2048, segMask := fieldAt b 8 8, state := 1 }

/-- R359: whether the block is one that the NL5 serves. -/
def State.subOk (s : State) (u : Sub) : Bool :=
  decide (2 ≤ u.kind ∧ u.kind ≤ 7) && (decide (5 ≤ u.kind) || decide (u.firstCol ≤ u.lastCol ∧ u.lastCol < s.columns))

/-- R359: the first field at fault. -/
def subFault (u : Sub) : Nat := if u.kind < 2 ∨ 7 < u.kind then 0 else if u.lastCol < u.firstCol then 4 else 6

/-- Bytes of DRAM that the rings of all subscriptions take. -/
def State.ringBytes (s : State) : Nat := ((s.subList.filter fun ch => (s.sub ch).state != 0).map fun ch => s.ringCap (s.sub ch)).sum

/-- R359: subscribe on the first free channel of port p. -/
def State.subscribe (s : State) (p : Nat) (u : Sub) : Reply :=
  if !s.subOk u then s.fail Sts.BAD_PARAM (subFault u)
  else match (List.range 8).find? fun k => (s.sub (8 * p + k)).state == 0 with
    | none => s.fail Sts.NO_RESOURCE
    | some k =>
      if 512 * 1048576 < s.ringBytes + s.ringCap u then s.fail Sts.NO_RESOURCE
      else (s.setSub (8 * p + k) { u with asked := some s.now }).ok (leBytes 1 k ++ leBytes 1 (8 * p + k))

/-- STREAM_SUBSCRIBE (R359): open to owner and client on lane ports. -/
def State.doStreamSubscribe (s : State) (p : Nat) (x : QCmd) : Reply :=
  s.subscribe p (subFrom p x.cmd.params)

/-- STREAM_SUBSCRIBE: the command by its rule and its effect. -/
def execStreamSubscribe (c : Cmd) (s : State) : Host.Outcome State Fault Refusal := s.runCommand { opcode := Op.STREAM_SUBSCRIBE, roles := laneRoles [.owner, .client] (s.portOf c.port), len := exactly 16, fields := [0, 1, 2, 3, 4, 6, 8] } (fun p x s => s.doStreamSubscribe p x) c

/-- The subscription `SUB` that port p names, if it has it. -/
def State.ownSub (s : State) (p k : Nat) : Option Nat :=
  if p < 4 ∧ k < 8 ∧ (s.sub (8 * p + k)).state ≠ 0 then some (8 * p + k) else none

/-- R360: end a subscription and say how many bytes were discarded. -/
def State.unsubscribe (s : State) (ch : Nat) : Reply :=
  let s := s.finishMove ch
  (s.endSub ch).ok (leBytes 4 (s.sub ch).waiting)

def unsubscribeRule : CmdRule := { opcode := Op.STREAM_UNSUBSCRIBE, roles := [.owner, .client], len := exactly 1 }

/-- STREAM_UNSUBSCRIBE (R360). -/
def State.doStreamUnsubscribe (s : State) (p : Nat) (x : QCmd) : Reply :=
  match s.ownSub p (fieldAt x.cmd.params 0 1) with
    | none => s.fail Sts.BAD_PARAM 0
    | some ch => s.unsubscribe ch

/-- STREAM_UNSUBSCRIBE: the command by its rule and its effect. -/
def execStreamUnsubscribe (c : Cmd) (s : State) : Host.Outcome State Fault Refusal := s.runCommand unsubscribeRule (fun p x s => s.doStreamUnsubscribe p x) c

/-- The 20 bytes of `STREAM_STATUS` (R360). -/
def Sub.status (u : Sub) : List Byte :=
  leBytes 1 u.kind ++ leBytes 1 (u.opts % 8) ++ leBytes 1 u.state ++ leBytes 1 0 ++ leBytes 4 u.fill ++ leBytes 4 u.placed ++
    leBytes 4 (min 0xFFFFFFFF u.lostRec) ++ leBytes 4 (min 0xFFFFFFFF u.lostBytes)

def streamStatusRule : CmdRule := { opcode := Op.STREAM_STATUS, len := exactly 1 }

/-- STREAM_STATUS (R360, R341): of the issuing port's subscription; a free one reads as state 0. -/
def State.doStreamStatus (s : State) (p : Nat) (x : QCmd) : Reply :=
  let k := fieldAt x.cmd.params 0 1
  if 8 ≤ k then s.fail Sts.BAD_PARAM 0
  else match s.ownSub p k with
    | none => s.ok (Sub.status {})
    | some ch => s.ok (s.sub ch).status

/-- STREAM_STATUS: the command by its rule and its effect. -/
def execStreamStatus (c : Cmd) (s : State) : Host.Outcome State Fault Refusal := s.runCommand streamStatusRule (fun p x s => s.doStreamStatus p x) c

/-! ## DMA channels -/

def State.dmaSt (s : State) (n : Nat) : Nat := s.f (Reg.DMA_STATUS n) 1 0

/-- R382, R6: restart a halted channel; one that is fused off is not present. -/
def State.dmaRestart (s : State) (n mode : Nat) : Reply :=
  if 64 ≤ n then s.fail Sts.BAD_PARAM 0
  else if !s.variant.dmaPresent n then s.fail Sts.NOT_PRESENT 0
  else if s.dmaSt n ≠ 3 then s.fail Sts.BAD_PARAM 0
  else if 1 < mode then s.fail Sts.BAD_PARAM 1
  else { (s.setDma n { s.dma n with restarting := true }).ok with after := some (.restartDma n (mode == 1)) }

def dmaRestartRule : CmdRule := { opcode := Op.DMA_RESTART, roles := ownerOnly, len := exactly 2, fields := [0, 1] }

/-- DMA_RESTART (R382). The channel restarts once the command is answered (R336); a chain that halts again at once reports it with `COMMAND_DONE`. -/
def State.doDmaRestart (s : State) (p : Nat) (x : QCmd) : Reply :=
  s.startRunning Op.DMA_RESTART p x.cmd.tag.toNat fun s => s.dmaRestart (fieldAt x.cmd.params 0 1) (fieldAt x.cmd.params 1 1)

/-- DMA_RESTART: the command by its rule and its effect. -/
def execDmaRestart (c : Cmd) (s : State) : Host.Outcome State Fault Refusal := s.runCommand dmaRestartRule (fun p x s => s.doDmaRestart p x) c

/-- R377: the 32 bytes of a descriptor as the supervisor writes it, with the end mark. -/
def descImage (d : DmaDesc) : List Byte :=
  leBytes 4 endMark ++ leBytes 4 d.src ++ leBytes 4 d.dst ++ leBytes 3 d.count ++ leBytes 1 (d.srcSpace + 16 * d.dstSpace) ++ leBytes 2 d.seqno ++
    leBytes 1 (b2n d.notify + 2 * b2n d.srcFixed + 4 * b2n d.dstFixed) ++ leBytes 1 (d.srcSel + 16 * d.dstSel) ++ leBytes 8 0 ++ leBytes 4 d.crc

/-- R379, step 3: the engine reads the `NEXT` of the descriptor it read last once more. -/
def State.dmaAppend (s : State) (n addr : Nat) : State :=
  if s.dmaSt n = 0 then s.fetchDesc n addr
  else if s.dmaSt n = 2 then
    let next := (s.desc (s.r (Reg.DMA_CUR n))).next
    if next = endMark then s.flag Reg.STREAM_FLAGS 4 else s.fetchDesc n next
  else s

/-- DMA_APPEND (R379): the supervisor appends descriptor `d` at `addr` to the chain of channel n; `linked` says that the old tail's `NEXT` was written first, as the
protocol has it. -/
def execDmaAppend (n : Fin 64) (addr : Word) (d : DmaDesc) (linked : Bool) (s : State) : Host.Outcome State Fault Refusal :=
  .next (if !s.variant.dmaPresent n.val then s
  else
    let a := addr.toNat
    let s := s.putDesc a 0 (descImage d)
    let s : State := match (s.dma n.val).tail with
      | some t => if linked then s.putDesc t 0 (leBytes 4 a) else s
      | none => s
    let s : State := if linked || (s.dma n.val).tail.isNone then s.setDma n.val { s.dma n.val with tail := some a } else s
    s.dmaAppend n.val a)

/-- R376, R378: what the completed descriptor of a channel moved: its bytes; for a subscription one packet, from the ring to the lane queue; for a service class the next
reply or event. -/
def State.dmaMoved (s : State) (n : Nat) (d : Desc) : State :=
  if !s.dmaCarries n d then s.dmaMoveBytes n d d.count
  else if 32 ≤ n then s.loadService (s.classLane (n - 32) true)
  else if (s.dma n).moved then s.setDma n { s.dma n with moved := false }
  else s.movePkt n

/-- R349, R376: the service transmitter of a port takes a reply or event: its lane is `UP`, and the packet before has left. -/
def State.serviceTakes (s : State) (p : Nat) : Bool :=
  let l := s.classLane p true
  s.laneSt l == 5 && (s.lane l).txSvc.isNone

/-- R349, R373, R383: a descriptor of a channel of a lane port cannot complete while the lane queue takes no packet: the packet waits in its ring or queue. -/
def State.dmaWaits (s : State) (n : Nat) : Bool :=
  s.dmaCarries n (s.desc (s.r (Reg.DMA_CUR n))) && (if n < 32 then !(s.dma n).moved && !s.laneTakes n else !s.serviceTakes (n - 32))

/-- DMA_DESCRIPTOR_DONE (R378 to R380, R382): the last write of the descriptor in progress is issued. The user is notified if `NOTIFY` is set. -/
def execDmaDescriptorDone (n : Fin 64) (s : State) : Host.Outcome State Fault Refusal :=
  let n := n.val
  .next (if s.dmaSt n ≠ 1 ∨ s.dmaWaits n then s
  else
    let a := s.r (Reg.DMA_CUR n)
    let d := s.desc a
    if !d.inDram s.variant then s.noDram n a
    else
      let s := s.setDescStatus a (1 + 256 * s.f (Reg.DMA_STATUS n) 11 8)
      let s := (s.inc (Reg.DMA_DONE n)).dmaMoved n d
      let c := s.dma n
      let s := s.setDma n { c with lastDone := some a, restarting := false, notified := c.notified + b2n d.notify }
      let s : State := if c.restarting then s.finish Op.DMA_RESTART Sts.OK 0 else s
      s.followNext n (s.desc a).next)

/-- The newest packet of a queue that a test names is taken out of it; answered with the rest. -/
def takeNewest (ok : TxPacket → Bool) (q : List TxPacket) : Option (TxPacket × List TxPacket) :=
  (q.zipIdx.filter fun e => ok e.1).getLast?.map fun e => (e.1, q.eraseIdx e.2)

/-- R381: the newest packet that channel n's writes made and a lane still holds is discarded. -/
def State.dropWords (s : State) (n : Nat) : State :=
  s.each (List.range 4) fun s l =>
    let x := s.lane l
    let mine (t : TxPacket) : Bool := t.chan == some n
    match takeNewest mine x.txDma, takeNewest mine x.txSaf, takeNewest mine x.txBlk with
    | some e, _, _ => s.setLane l { x with txDma := e.2 }
    | none, some e, _ => s.setLane l { x with txSaf := e.2 }
    | none, none, some e => s.setLane l { x with txBlk := e.2 }
    | none, none, none => if x.txSvc.any mine then s.setLane l { x with txSvc := none } else s

/-- R381, R382: a lane queue discards a packet whose writes did not all succeed: the newest one of the channel that the queue still holds. That of a subscription, or a reply or
event, counts as lost (DESIGN CHOICE: log entry 102). -/
def State.dropLate (s : State) (n : Nat) : State :=
  if 36 ≤ n then s.dropWords n
  else if 32 ≤ n then
    let l := s.classLane (n - 32) true
    let x := s.lane l
    match x.txSvc with
    | none => s
    | some k => if k.chan.isSome then s.dropWords n else ((s.setLane l { x with txSvc := none }).addLoss 1 k.size).seqBack (n - 32)
  else
    s.each [s.classLane (n / 8) true, s.classLane (n / 8) false].eraseDups fun s l =>
      let x := s.lane l
      let mine (t : TxPacket) : Bool := t.sub == some n
      match takeNewest mine x.txSaf, takeNewest mine x.txBlk with
      | some e, _ => (s.setLane l { x with txSaf := e.2 }).countLoss n 2 e.1.records e.1.size e.1.owed
      | none, some e => (s.setLane l { x with txBlk := e.2 }).countLoss n 2 e.1.records e.1.size e.1.owed
      | none, none => s.dropWords n

/-- R281, R376: a write of the capture engine's channel, DMA45, that fails after its retries loses the item that it carried, with cause `DRAM`. -/
def State.dropCapture (s : State) (n : Nat) : State :=
  match s.cap.input with
  | .item _ :: r => if n = 45 ∧ s.capOn then (s.setCap { s.cap with input := r }).capLoss 4 1 s.now else s
  | .angle _ _ :: r => if n = 45 ∧ s.capOn then (s.setCap { s.cap with input := r }).capLoss 4 1 s.now else s
  | _ => s

/-- DMA_BURST_ERROR (R381): a burst or fetch of channel n is answered with an error. A burst is issued again up to `DMA_RETRY` times; `RETRIES` counts those of the whole
descriptor. -/
def execDmaBurstError (n : Fin 64) (answer : BurstAnswer) (s : State) : Host.Outcome State Fault Refusal :=
  let n := n.val
  .next (if answer = .late then
    match (s.dma n).lastDone with
    | some a => if s.dmaSt n = 0 ∨ s.dmaSt n = 3 then s else (s.dropLate n).haltDma n a 2
    | none => s
  else if s.dmaSt n ≠ 1 then s
  else
    let tries := if answer = .again then (s.dma n).tries else 0
    if tries < s.f Reg.STREAM_CTRL 3 0 then (s.setDma n { s.dma n with tries := tries + 1 }).addF (Reg.DMA_STATUS n) 11 8 1
    else ((s.dmaPartial n).dropCapture n).haltDma n (s.r (Reg.DMA_CUR n)) 1)

end Sys2Proof.Machine
end

