-- ==== Sys2Proof/Machine/TableCmds.lean ====
section
/-!
DEFINITION. Machine/TableCmds.lean: the bulk tables (R346 to R348): the Scan Cell Table, track contexts, zones, templates and calibration values,
written, read and committed by commands.
-/

namespace Sys2Proof.Machine

/-! ## The bulk prefix (R346) -/

/-- A bulk write carries at least its prefix. -/
def bulkLen (l : Nat) : Option Nat := if l < 16 then some l else none

/-- The n entries of `size` bytes that follow the prefix. -/
def bulkEntries (params : List Byte) (size n : Nat) : List (List Byte) := (List.range n).map fun i => bytesAt params (16 + size * i) size

/-- R346: the checks that every bulk write makes on a table of `total` entries of `size` bytes; otherwise `go` takes the first index and the entries. -/
def State.bulkWrite (s : State) (x : QCmd) (size total : Nat) (go : Nat → List (List Byte) → Reply) : Reply :=
  let ps := x.cmd.params
  let first := fieldAt ps 0 4
  let n := fieldAt ps 4 2
  if x.cmd.length ≠ 16 + size * n then s.fail Sts.BAD_PARAM 4
  else if crc32c (ps.drop 16) ≠ fieldAt ps 8 4 then s.fail Sts.CRC_FAIL
  else if total < first + n ∨ total ≤ first then s.fail Sts.BAD_PARAM 0
  else go first (bulkEntries ps size n)

/-- R346: the reply of a bulk read of `count` entries from `first`. -/
def bulkReply (first : Nat) (entries : List (List Byte)) : List Byte :=
  let bs := entries.flatten
  leBytes 4 first ++ leBytes 2 entries.length ++ leBytes 2 0 ++ leBytes 4 (crc32c bs) ++ leBytes 4 0 ++ bs

/-- R346: whole entries that a packet of port p holds after the prefix. -/
def bulkRoom (p size : Nat) : Nat := (if p = 4 then 992 else 4064) / size

/-- R346: a bulk read of a table of `total` entries of `size` bytes. -/
def State.bulkRead (s : State) (p : Nat) (x : QCmd) (size total : Nat) (get : Nat → List Byte) : Reply :=
  let first := fieldAt x.cmd.params 0 4
  if total ≤ first then s.fail Sts.BAD_PARAM 0
  else
    let n := min (fieldAt x.cmd.params 4 2) (min (bulkRoom p size) (total - first))
    s.ok (bulkReply first ((List.range n).map fun i => get (first + i)))

/-- Write entries into a table from index `first` on. -/
def putEntries (d : List Byte) (t : Tbl (List Byte)) (first : Nat) (l : List (List Byte)) : Tbl (List Byte) :=
  l.zipIdx.foldl (fun t e => t.set d (first + e.2) e.1) t

/-- R347: the checks of a commit of the first `count` entries: `get` reads the shadow bank. -/
def State.commitCheck (s : State) (x : QCmd) (pending : Bool) (countOk : Nat → Bool) (get : Nat → List Byte) (go : Nat → Reply) : Reply :=
  let n := fieldAt x.cmd.params 0 4
  if pending then s.fail Sts.TABLE_LOCKED
  else if !countOk n then s.fail Sts.BAD_PARAM 0
  else if crc32c ((List.range n).map get).flatten ≠ fieldAt x.cmd.params 4 4 then s.fail Sts.CRC_FAIL
  else go n

/-- The rule of a bulk write, read or commit. -/
def writeRule (opcode : Nat) (states : List DevState := anyStates) : CmdRule := { opcode, roles := ownerOnly, states, len := bulkLen, fields := [0, 4, 6, 8, 12, 16] }

def readRule (opcode : Nat) : CmdRule := { opcode, len := exactly 8, fields := [0, 4, 6] }

def commitRule (opcode : Nat) : CmdRule := { opcode, roles := ownerOnly, len := exactly 8, fields := [0, 4] }

/-- A read of a double-banked table: which bank it reads, the spec does not say: a free value. -/
def State.freeBank (s : State) : Nat × State := (s.fresh.1 % 2, s.fresh.2)

/-! ## Scan Cell Table (R39 to R42) -/

/-- SCT_WRITE (R41, R42, R346). -/
def State.doSctWrite (s : State) (_ : Nat) (x : QCmd) : Reply :=
  s.bulkWrite x 32 65536 fun first l =>
    if s.bit Reg.SCT_STATUS 1 then s.fail Sts.TABLE_LOCKED
    else
      let b := 1 - s.sctActive
      (s.setSctBank b (putEntries blank32 (s.sctBank b) first l)).ok

/-- SCT_WRITE: the command by its rule and its effect. -/
def execSctWrite (c : Cmd) (s : State) : Host.Outcome State Fault Refusal := s.runCommand (writeRule Op.SCT_WRITE) (fun p x s => s.doSctWrite p x) c

/-- R41, R42: a commit that passed its check word. -/
def State.commitSct (s : State) (n : Nat) : Reply :=
  match s.sctValidate n with
  | some (code, i) =>
    let s := (s.setF Reg.SCT_STATUS 15 8 code).setR Reg.SCT_REJECT_INDEX i
    { s.fail Sts.TABLE_REJECTED with after := some (.event Ev.SCT_REJECTED (leBytes 1 code ++ leBytes 1 0 ++ leBytes 2 i)) }
  | none =>
    let s := (s.setF Reg.SCT_STATUS 15 8 0).setBit Reg.SCT_STATUS 1 true
    let s : State := { s with plan := { s.plan with commitCount := n, commitLate := s.lastEightBegun } }
    (if s.dev = .standby then s.swapNamed true false else s).ok

/-- SCT_COMMIT (R41, R42, R347, R348). -/
def State.doSctCommit (s : State) (_ : Nat) (x : QCmd) : Reply :=
  s.commitCheck x (s.bit Reg.SCT_STATUS 1) (fun n => decide (n ≤ 65536)) (s.sctEntry (1 - s.sctActive)) s.commitSct

/-- SCT_COMMIT: the command by its rule and its effect. -/
def execSctCommit (c : Cmd) (s : State) : Host.Outcome State Fault Refusal := s.runCommand (commitRule Op.SCT_COMMIT) (fun p x s => s.doSctCommit p x) c

/-- An entry of the Scan Cell Table as it is read: 0 in the reserved fields (R15, R39), which the shadow bank keeps for check 0x07 (R41). -/
def sctFields (e : List Byte) : List Byte :=
  let e := [(1, 1, 2), (2, 2, 10), (4, 2, 10), (17, 1, 3), (24, 1, 3)].foldl (fun e f => putBytes e f.1 f.2.1 (fieldBits e f.1 f.2.1 f.2.2 0)) e
  putBytes (putBytes e 25 1 0) 28 4 0

/-- SCT_READ (R42, R346). -/
def State.doSctRead (s : State) (p : Nat) (x : QCmd) : Reply :=
  s.freeBank.2.bulkRead p x 32 65536 fun i => sctFields (s.sctEntry s.freeBank.1 i)

/-- SCT_READ: the command by its rule and its effect. -/
def execSctRead (c : Cmd) (s : State) : Host.Outcome State Fault Refusal := s.runCommand (readRule Op.SCT_READ) (fun p x s => s.doSctRead p x) c

/-! ## Track contexts (R43 to R47) -/

/-- R44, R47: a host write of context i waits for the next column boundary. Bytes 0 and 1 carry how many writes it supersedes, for `GEN` counts each. -/
def State.waitTrack (s : State) (i : Nat) (e : List Byte) : State :=
  let w := s.plan.hostWrites.get [] i
  let k := if w = [] then 0 else fieldAt w 0 2 + 1
  { s with plan := { s.plan with hostWrites := s.plan.hostWrites.set [] i (putBytes e 0 2 k) } }

/-- R47: host writes take effect at the next column boundary; while the mirror does not scan there is none to wait for. -/
def State.writeTracks (s : State) (first : Nat) (l : List (List Byte)) : State :=
  s.each l.zipIdx fun s e =>
    if s.plan.running then s.waitTrack (first + e.2) e.1 else s.hostTrackWrite (first + e.2) (putBytes e.1 0 2 0)

/-- TRACK_WRITE (R47, R346). -/
def State.doTrackWrite (s : State) (_ : Nat) (x : QCmd) : Reply :=
  s.bulkWrite x 64 4096 fun first l => (s.writeTracks first l).ok

/-- TRACK_WRITE: the command by its rule and its effect. -/
def execTrackWrite (c : Cmd) (s : State) : Host.Outcome State Fault Refusal := s.runCommand (writeRule Op.TRACK_WRITE) (fun p x s => s.doTrackWrite p x) c

/-- TRACK_READ (R47, R346). -/
def State.doTrackRead (s : State) (p : Nat) (x : QCmd) : Reply :=
  s.bulkRead p x 64 4096 s.track

/-- TRACK_READ: the command by its rule and its effect. -/
def execTrackRead (c : Cmd) (s : State) : Host.Outcome State Fault Refusal := s.runCommand (readRule Op.TRACK_READ) (fun p x s => s.doTrackRead p x) c

/-! ## Zones (R251) -/

/-- ZONE_WRITE (R251, R346). -/
def State.doZoneWrite (s : State) (_ : Nat) (x : QCmd) : Reply :=
  s.bulkWrite x 32 64 fun first l =>
    if s.bit Reg.ZONE_TABLE_STATUS 1 then s.fail Sts.TABLE_LOCKED
    else
      let b := 1 - s.zoneActive
      (s.setZoneBank b (putEntries blank32 (s.zoneBank b) first l)).ok

/-- ZONE_WRITE: the command by its rule and its effect. -/
def execZoneWrite (c : Cmd) (s : State) : Host.Outcome State Fault Refusal := s.runCommand (writeRule Op.ZONE_WRITE) (fun p x s => s.doZoneWrite p x) c

/-- R251: a zone commit that passed its check word. -/
def State.commitZones (s : State) : Reply :=
  match s.zoneValidate with
  | some (code, i) =>
    let s := (s.setF Reg.ZONE_TABLE_STATUS 15 8 code).setF Reg.ZONE_TABLE_STATUS 21 16 i
    { s.fail Sts.TABLE_REJECTED with after := some (.event Ev.ZONE_REJECTED (leBytes 1 code ++ leBytes 1 0 ++ leBytes 2 i)) }
  | none =>
    let s := (s.setF Reg.ZONE_TABLE_STATUS 15 8 0).setBit Reg.ZONE_TABLE_STATUS 1 true
    (if s.dev = .standby then s.swapNamed false true else s).ok

/-- ZONE_COMMIT (R251, R347, R348). -/
def State.doZoneCommit (s : State) (_ : Nat) (x : QCmd) : Reply :=
  s.commitCheck x (s.bit Reg.ZONE_TABLE_STATUS 1) (· == 64) ((s.zoneBank (1 - s.zoneActive)).get blank32) fun _ => s.commitZones

/-- ZONE_COMMIT: the command by its rule and its effect. -/
def execZoneCommit (c : Cmd) (s : State) : Host.Outcome State Fault Refusal := s.runCommand (commitRule Op.ZONE_COMMIT) (fun p x s => s.doZoneCommit p x) c

/-- A zone entry as it is read: 0 in the reserved fields (R15, R251), which the bank keeps for check 0x04. -/
def zoneFields (e : List Byte) : List Byte :=
  let e := putBytes e 0 1 (fieldBits e 0 1 1 0)
  let e := [4, 8, 12, 16].foldl (fun e o => putBytes e o 4 (fieldBits e o 4 19 0)) e
  putBytes e 24 8 0

/-- ZONE_READ (R251, R346). -/
def State.doZoneRead (s : State) (p : Nat) (x : QCmd) : Reply :=
  s.freeBank.2.bulkRead p x 32 64 fun i => zoneFields ((s.zoneBank s.freeBank.1).get blank32 i)

/-- ZONE_READ: the command by its rule and its effect. -/
def execZoneRead (c : Cmd) (s : State) : Host.Outcome State Fault Refusal := s.runCommand (readRule Op.ZONE_READ) (fun p x s => s.doZoneRead p x) c

/-! ## Templates (R237) -/

def State.tplBank (s : State) (b : Nat) : Tbl (List Byte) := if b = 0 then s.det.tplA else s.det.tplB

def State.setTplBank (s : State) (b : Nat) (t : Tbl (List Byte)) : State :=
  if b = 0 then { s with det := { s.det with tplA := t } } else { s with det := { s.det with tplB := t } }

/-- The shadow template bank. -/
def State.tplShadow (s : State) : Nat := 1 - s.f Reg.TPL_STATUS 0 0

/-- R237: the first fault of one tap set of a template entry, as an offset in the entry. -/
def tapSetFault (e : List Byte) (wd : Nat) : Option Nat :=
  let len := fieldBits e wd 1 4 0
  let peak := fieldBits e (4 + wd) 1 3 0
  let tap (k : Nat) : Int := signed 16 (fieldAt e (8 + 32 * wd + 2 * k) 2)
  if len = 0 ∨ 16 < len then some wd
  else if len ≤ peak then some (4 + wd)
  else match (List.range 16).find? fun k => decide (len ≤ k) && tap k != 0 with
    | some k => some (8 + 32 * wd + 2 * k)
    | none =>
      if tap peak ≤ 0 ∨ (List.range len).any fun k => decide (tap peak < tap k) then some (8 + 32 * wd + 2 * peak) else none

/-- R237: the first fault of a template entry, in order of its fields. -/
def tplFault (e : List Byte) : Option Nat := ((List.range 4).filterMap (tapSetFault e)).foldl (fun m o => some (min o (m.getD o))) none

/-- The first fault of a list of entries of `size` bytes: an offset in the parameter block. -/
def bulkFault (size : Nat) (fault : List Byte → Option Nat) (l : List (List Byte)) : Option Nat :=
  (l.zipIdx.filterMap fun e => (fault e.1).map fun o => 16 + size * e.2 + o).head?

/-- R15, R237: a template slot as it is kept: its reserved bits are 0. -/
def tplFields (e : List Byte) : List Byte :=
  let e := (List.range 4).foldl (fun e wd => putBytes (putBytes e wd 1 (fieldBits e wd 1 4 0)) (4 + wd) 1 (fieldBits e (4 + wd) 1 3 0)) e
  putBytes e 136 8 0

/-- TEMPLATE_WRITE (R237, R346). -/
def State.doTemplateWrite (s : State) (_ : Nat) (x : QCmd) : Reply :=
  s.bulkWrite x 144 16 fun first l =>
    if s.bit Reg.TPL_STATUS 1 then s.fail Sts.TABLE_LOCKED
    else match bulkFault 144 tplFault l with
      | some o => s.fail Sts.BAD_PARAM o
      | none => (s.setTplBank s.tplShadow (putEntries blankTpl (s.tplBank s.tplShadow) first (l.map tplFields))).ok

/-- TEMPLATE_WRITE: the command by its rule and its effect. -/
def execTemplateWrite (c : Cmd) (s : State) : Host.Outcome State Fault Refusal := s.runCommand (writeRule Op.TEMPLATE_WRITE) (fun p x s => s.doTemplateWrite p x) c

/-- TEMPLATE_COMMIT (R237, R347, R348). -/
def State.doTemplateCommit (s : State) (_ : Nat) (x : QCmd) : Reply :=
  s.commitCheck x (s.bit Reg.TPL_STATUS 1) (· == 16) ((s.tplBank s.tplShadow).get blankTpl) fun _ =>
    let s := s.setBit Reg.TPL_STATUS 1 true
    (if s.dev = .standby then s.swapTpl else s).ok

/-- TEMPLATE_COMMIT: the command by its rule and its effect. -/
def execTemplateCommit (c : Cmd) (s : State) : Host.Outcome State Fault Refusal := s.runCommand (commitRule Op.TEMPLATE_COMMIT) (fun p x s => s.doTemplateCommit p x) c

/-- TEMPLATE_READ (R237, R346). -/
def State.doTemplateRead (s : State) (p : Nat) (x : QCmd) : Reply :=
  s.freeBank.2.bulkRead p x 144 16 ((s.tplBank s.freeBank.1).get blankTpl)

/-- TEMPLATE_READ: the command by its rule and its effect. -/
def execTemplateRead (c : Cmd) (s : State) : Host.Outcome State Fault Refusal := s.runCommand (readRule Op.TEMPLATE_READ) (fun p x s => s.doTemplateRead p x) c

/-! ## Calibration values (R422 to R424) -/

/-- R425: a reader of the flash records finds the copies that fail their check word. -/
def State.findTorn (s : State) : State := s.when (!s.cal.torn.isEmpty) fun s => s.flag Reg.CAL_FLAGS 3

/-- CAL_READ (R423, R425): the working set at index 0, the newest valid flash record at index 4,096. -/
def State.doCalRead (s : State) (p : Nat) (x : QCmd) : Reply :=
  let first := fieldAt x.cmd.params 0 4
  if first < 812 then s.bulkRead p x 16 812 s.calEntry
  else if first < 4096 then s.fail Sts.BAD_PARAM 0
  else if 4908 ≤ first then s.fail Sts.BAD_PARAM 0
  else match s.newestRec with
    | none => s.findTorn.fail Sts.CRC_FAIL
    | some r => s.findTorn.bulkRead p x 16 4908 fun i => r.entries.getD (i - 4096) []

/-- CAL_READ: the command by its rule and its effect. -/
def execCalRead (c : Cmd) (s : State) : Host.Outcome State Fault Refusal := s.runCommand (readRule Op.CAL_READ) (fun p x s => s.doCalRead p x) c

/-- R422, R423: the first entry that may not be written: its status and its offset. -/
def State.calFault (s : State) (first : Nat) (l : List (List Byte)) : Option (Nat × Nat) :=
  (l.zipIdx.filterMap fun e =>
    let i := first + e.2
    if s.calAbsent i then (if e.1.any (· != 0) then some (Sts.NOT_PRESENT, 0) else none)
    else if calFieldsOk i e.1 then none
    else some (Sts.BAD_PARAM, 16 + 16 * e.2)).head?

/-- The states of `CAL_WRITE` and `CAL_SAVE` (R343). -/
def calStates : List DevState := [.standby, .armed, .safe]

/-- CAL_WRITE (R423, R346). -/
def State.doCalWrite (s : State) (_ : Nat) (x : QCmd) : Reply :=
  s.bulkWrite x 16 812 fun first l =>
    match s.calFault first l with
    | some (st, d) => s.fail st d
    | none =>
      let s := s.each (l.zipIdx.filter fun e => !s.calAbsent (first + e.2)) fun s e => s.setCalEntry (first + e.2) e.1
      s.calDirty.ok

/-- CAL_WRITE: the command by its rule and its effect. -/
def execCalWrite (c : Cmd) (s : State) : Host.Outcome State Fault Refusal := s.runCommand (writeRule Op.CAL_WRITE calStates) (fun p x s => s.doCalWrite p x) c

def calSaveRule : CmdRule := { opcode := Op.CAL_SAVE, roles := ownerOnly, states := calStates, len := exactly 0 }

/-- CAL_SAVE (R423, R424): a save starts, and `COMMAND_DONE` reports it; while one runs a further one is answered `BUSY`. -/
def State.doCalSave (s : State) (p : Nat) (x : QCmd) : Reply :=
  s.startRunning Op.CAL_SAVE p x.cmd.tag.toNat fun s =>
    if s.cal.save.isSome then s.fail Sts.BUSY else (s.startSave blankTpl).ok

/-- CAL_SAVE: the command by its rule and its effect. -/
def execCalSave (c : Cmd) (s : State) : Host.Outcome State Fault Refusal := s.runCommand calSaveRule (fun p x s => s.doCalSave p x) c

end Sys2Proof.Machine
end

