-- ==== Sys2Proof/Machine/ParamRules.lean ====
section
/-!
DEFINITION. Machine/ParamRules.lean: what a write to each register of the parameter space does (R12 to R15, R345, and the rules of the chapter that owns the
register): whether it is refused, what is stored, when it takes effect and what it starts.
-/

namespace Sys2Proof.Machine

/-! ## Refusals -/

/-- The status of the first condition that holds; `none` accepts the write. -/
def firstOf : List (Bool × Nat) → Option Nat
  | [] => none
  | (c, st) :: r => if c then some st else firstOf r

/-- Field [hi:lo] of a value lies outside lo' to hi'. -/
def outside (v : Word) (hi lo mn mx : Nat) : Bool := decide (bitsOf v hi lo < mn ∨ mx < bitsOf v hi lo)

def State.notIn (s : State) (l : List DevState) : Bool := !l.contains s.dev

/-- R37: a write of `SEG_MAP_A_s` gives a channel to two segments, or names one beyond the variant. -/
def State.segClash (s : State) (g : Nat) (v : Word) : Bool :=
  let first := bitsOf v 8 0
  let n := bitsOf v 20 16
  n != 0 && (decide (s.variant.channels < first + n) ||
    (List.range 64).any fun k => k != g &&
      (let f := s.f (Reg.SEG_MAP_A k) 8 0
       let m := s.f (Reg.SEG_MAP_A k) 20 16
       m != 0 && decide (first < f + m ∧ f < first + n)))

/-- R289: a code that names no channel. -/
def badMaCode (k : Nat) : Bool := decide (0x17 < k ∧ k < 0x20) || decide (0x43 < k)

/-- The bit that a write changes. -/
def State.changes (s : State) (a hi lo : Nat) (v : Word) : Bool := s.f a hi lo != bitsOf v hi lo

/-- A master of the swarm that takes its boundaries from the swarm (R278). -/
def swarmLoop (swarm frame : Word) : Bool := bitsOf swarm 1 0 == 3 && bitsOf frame 1 0 == 2

/-- R288: page 0x0002. -/
def State.faultSync (s : State) (b : Nat) (v : Word) : Option Nat :=
  if b = Reg.FRAME_CTRL then
    firstOf [(s.notIn [.standby], Sts.BAD_STATE), (bitsOf v 1 0 == 3 || swarmLoop (s.rd Reg.SWARM_CTRL) v, Sts.BAD_PARAM)]
  else if b = Reg.FRAME_PERIOD then firstOf [(outside v 23 0 33334 200000, Sts.BAD_PARAM)]
  else if b = Reg.SWARM_CTRL then
    firstOf [(s.changes b 4 1 v && s.notIn [.standby], Sts.BAD_STATE), (swarmLoop v (s.rd Reg.FRAME_CTRL), Sts.BAD_PARAM)]
  else if b = Reg.SWARM_FRAME_OFS then firstOf [(decide (s.f Reg.FRAME_STATUS 23 0 ≤ bitsOf v 23 0), Sts.BAD_PARAM)]
  else if b = Reg.SWARM_SLOT_MASK then firstOf [(bitsOf v 15 0 == 0, Sts.BAD_PARAM)]
  else none

/-- R169: page 0x0003. -/
def State.faultRx (s : State) (b : Nat) (v : Word) : Option Nat :=
  if b = Reg.BIAS_ZONE_MAP 0 then firstOf [(s.notIn [.standby], Sts.BAD_STATE)]
  else if b = Reg.RX_SELFTEST then firstOf [(s.notIn [.standby, .armed], Sts.BAD_STATE)]
  else if b = Reg.RX_LIMITS then firstOf [(outside v 4 0 1 16, Sts.BAD_PARAM)]
  else if b = Reg.RX_RANGE 0 then
    firstOf [(decide (1 < bitsOf v 1 0) || decide (bitsOf v 13 8 ≤ 4 * bitsOf v 21 16) || decide (bitsOf v 7 6 < bitsOf v 5 4) ||
      outside v 3 2 (bitsOf v 5 4) (bitsOf v 7 6) || bitsOf v 13 8 == 0 || bitsOf v 27 24 == 0, Sts.BAD_PARAM)]
  else none

/-- R191, R182: whether the calibrated fields of a timer are out of range. -/
def badFine (v : Word) : Bool := outside v 15 0 10000 10240 || outside v 24 16 250 256

/-- R188: calibration owns the statistics unit of comb c. -/
def State.statOwned (s : State) (c : Nat) : Bool :=
  s.cal.full.isSome || (match s.cal.run with | some r => r.comb == c | none => false)

/-- R191: page 0x0004; i is the comb or channel of the register. -/
def State.faultTdc (s : State) (b i : Nat) (v : Word) : Option Nat :=
  if b = Reg.TDC_FINE 0 ∨ b = Reg.TDC_SFINE 0 0 then
    firstOf [(s.notIn [.standby, .armed, .safe], Sts.BAD_STATE), (badFine v, Sts.BAD_PARAM)]
  else if b = Reg.TDC_SKEW 0 ∨ b = Reg.TDC_SSKEW 0 0 then firstOf [(s.notIn [.standby, .armed, .safe], Sts.BAD_STATE)]
  else if b = Reg.TDC_STAT_CTRL 0 then
    firstOf [(decide (8 < bitsOf v 7 4) || decide (20 < bitsOf v 12 8), Sts.BAD_PARAM), (v.getLsbD 31 && s.statOwned i, Sts.BAD_STATE)]
  else none

/-- R210, R204: page 0x0005. -/
def faultHist (b : Nat) (v : Word) : Option Nat :=
  if b = Reg.ESTOP_PA 0 then firstOf [(bitsOf v 11 0 == 0 || bitsOf v 23 12 == 0, Sts.BAD_PARAM)]
  else if b = Reg.ESTOP_PB 0 then
    firstOf [(outside v 15 0 16 4096 || outside v 22 16 1 64 || outside v 27 24 4 15, Sts.BAD_PARAM)]
  else none

/-- R232: page 0x0006. -/
def State.faultRej (s : State) (b : Nat) (v : Word) : Option Nat :=
  if b = Reg.DITHER_SALT then firstOf [(s.notIn [.standby], Sts.BAD_STATE)]
  else if b = Reg.ADP_RATE then firstOf [(decide (bitsOf v 31 16 ≤ bitsOf v 15 0), Sts.BAD_PARAM)]
  else none

/-- R255: page 0x0007. -/
def State.faultDet (s : State) (b : Nat) (v : Word) : Option Nat :=
  if b = Reg.DET_CTRL then firstOf [(decide (1 < bitsOf v 1 0) || outside v 23 16 1 64, Sts.BAD_PARAM)]
  else if b = Reg.TRK_ASSOC then firstOf [(bitsOf v 15 8 == 0 || bitsOf v 23 16 == 0, Sts.BAD_PARAM)]
  else if b = Reg.DET_RANGE_OFS 0 then firstOf [(s.notIn [.standby, .armed, .safe], Sts.BAD_STATE)]
  else if b = Reg.HIVE_FREQ_CTRL 0 then firstOf [(decide (5 < bitsOf v 2 0) || decide (5 < bitsOf v 6 4), Sts.BAD_PARAM)]
  else none

/-- R271, R263: page 0x0008. -/
def State.faultChain (s : State) (b : Nat) (v : Word) : Option Nat :=
  let pending := s.bit Reg.FC_STATUS 1
  if b = Reg.FC_STAGE_CFG 0 then
    firstOf [(decide (8 < bitsOf v 3 0) || (bitsOf v 3 0 != 0 && decide (bitsOf v 3 0 ≤ bitsOf v 6 4)), Sts.BAD_PARAM)]
  else if b = Reg.FC_GRID then firstOf [(bitsOf v 11 0 == 0 || outside v 24 16 8 256 || bitsOf v 24 16 % 8 != 0, Sts.BAD_PARAM)]
  else if b = Reg.FC_POLY 0 then firstOf [(pending, Sts.TABLE_LOCKED)]
  else if b = Reg.FC_POLY_COMMIT then firstOf [(pending && v.getLsbD 0, Sts.TABLE_LOCKED)]
  else none

/-- R65, R37: page 0x0009. -/
def State.faultPlan (s : State) (b i : Nat) (v : Word) : Option Nat :=
  let standby := (s.notIn [.standby], Sts.BAD_STATE)
  if b = Reg.PLAN_CTRL then firstOf [standby, (outside v 10 0 16 1536 || outside v 23 16 1 8, Sts.BAD_PARAM)]
  else if b = Reg.PLAN_COL_TIME then
    firstOf [standby, (decide (bitsOf v 15 0 < 200) || decide (bitsOf v 31 16 < bitsOf v 15 0), Sts.BAD_PARAM)]
  else if b = Reg.SEG_MAP_A 0 then firstOf [standby, (decide (16 < bitsOf v 20 16) || s.segClash i v, Sts.BAD_PARAM)]
  else if b = Reg.PLAN_TRACK_POLICY then firstOf [(outside v 3 0 1 8 || outside v 15 8 1 64, Sts.BAD_PARAM)]
  else if b = Reg.PLAN_EDGE ∨ b = Reg.PLAN_SHOT_RATE ∨ b = Reg.PLAN_AZ_FIRST ∨ b = Reg.PLAN_AZ_STEP ∨ b = Reg.SEG_MAP_B 0 then firstOf [standby]
  else none

/-- R6: the `OWNER` of a slot entry names a port that is fused off. -/
def State.ownerAbsent (s : State) (o : Nat) : Bool := decide (2 ≤ o ∧ o ≤ 5 ∧ s.variant.lanes ≤ o - 2)

/-- R75, R76, R73: page 0x000A. -/
def State.faultArb (s : State) (b : Nat) (v : Word) : Option Nat :=
  let pending := s.bit Reg.ARB_SLOT_STATUS 1
  if b = Reg.ARB_SLOT_COMMIT then firstOf [(pending && v.getLsbD 0, Sts.TABLE_LOCKED)]
  else if b = Reg.ARB_SLOT_NEXT then firstOf [(pending, Sts.TABLE_LOCKED), (decide (5 < bitsOf v 11 8), Sts.BAD_PARAM),
      (s.ownerAbsent (bitsOf v 11 8), Sts.NOT_PRESENT)]
  else if b = Reg.ARB_SLOT 0 then firstOf [(pending, Sts.TABLE_LOCKED), (decide (5 < bitsOf v 3 0), Sts.BAD_PARAM),
      (s.ownerAbsent (bitsOf v 3 0), Sts.NOT_PRESENT)]
  else none

/-- R116, R101: page 0x000B. -/
def State.faultEmit (s : State) (b : Nat) (v : Word) : Option Nat :=
  let pending := s.bit Reg.EMIT_STATUS 4
  if b = Reg.EMIT_CTRL then
    firstOf [(s.notIn [.standby], Sts.BAD_STATE), (outside v 9 0 10 1000 || outside v 15 12 1 8, Sts.BAD_PARAM)]
  else if b = Reg.PAT 0 then firstOf [(pending, Sts.TABLE_LOCKED)]
  else if b = Reg.PAT_COMMIT then firstOf [(pending && v.getLsbD 0, Sts.TABLE_LOCKED)]
  else none

/-- R142, R135: page 0x000C. -/
def State.faultWag (s : State) (b : Nat) (v : Word) : Option Nat :=
  if b = Reg.AX_MODE 0 then firstOf [(s.notIn [.armed], Sts.BAD_STATE), (bitsOf v 1 0 == 3, Sts.BAD_PARAM)]
  else if b = Reg.AX_MAN_VALUE 0 then firstOf [(s.notIn [.armed], Sts.BAD_STATE)]
  else if b = Reg.WAG_COMMIT then firstOf [(v.getLsbD 0 && s.notIn [.standby, .armed], Sts.BAD_STATE)]
  else none

/-- R286, R288: page 0x000D. -/
def State.faultCap (s : State) (b : Nat) (v : Word) : Option Nat :=
  if s.capSt ≠ 0 then some Sts.BAD_STATE
  else if b = Reg.CAP_SIZE then
    firstOf [(bitsOf v 23 12 == 0 || decide (2 ^ 28 < (bitsOf v 11 0 + bitsOf v 23 12) * 4096 * (bitsOf v 26 24 + 1)), Sts.BAD_PARAM)]
  else none

/-- R303: page 0x000E; i is the converter. -/
def State.faultAux (s : State) (b i : Nat) (v : Word) : Option Nat :=
  if b = Reg.MA_DEC 0 then firstOf [(outside v 20 0 256 (if s.bit (Reg.MA_CFG i) 3 then 80000 else 1280000), Sts.BAD_PARAM)]
  else if b = Reg.MA_CFG 0 then
    firstOf [(bitsOf v 2 1 == 3 || (v.getLsbD 3 && decide (80000 < s.f (Reg.MA_DEC i) 20 0)), Sts.BAD_PARAM)]
  else if b = Reg.MA_SEQ 0 0 then firstOf [([0, 1, 2, 3].any fun k => badMaCode (bitsOf v (8 * k + 6) (8 * k)), Sts.BAD_PARAM)]
  else if b = Reg.RTD_CTRL then firstOf [(outside v 19 0 800 64000, Sts.BAD_PARAM)]
  else if b = Reg.RTD_CFG 0 then firstOf [(decide (5 < bitsOf v 6 4), Sts.BAD_PARAM)]
  else none

/-- A port has a subscription of the safety class (R322). -/
def State.safetySub (s : State) (p : Nat) : Bool := s.subList.any fun ch => (s.sub ch).port == p && (s.sub ch).safety

/-- R327, R328, R322: page 0x000F; i is the lane. `PAIR_23` and the upper half of `LANE_EXPECT` name what a two-lane variant lacks (R6). -/
def State.faultLink (s : State) (b i : Nat) (v : Word) : Option Nat :=
  if b = Reg.LINK_CTRL then
    firstOf [((v.getLsbD 1 || bitsOf v 7 6 != 0) && decide (s.variant.lanes ≤ 2), Sts.NOT_PRESENT), (s.changes b 1 0 v && s.notIn [.standby], Sts.BAD_STATE)]
  else if b = Reg.LANE_CFG 0 then firstOf [(decide (5 < bitsOf v 2 0), Sts.BAD_PARAM)]
  else if b = Reg.LANE_PWR 0 then
    firstOf [(bitsOf v 1 0 == 3, Sts.BAD_PARAM), (bitsOf v 1 0 == 2 && s.safetySub (s.portOf i), Sts.BAD_STATE)]
  else none

/-- R384: page 0x0011. -/
def State.faultStream (s : State) (b : Nat) (v : Word) : Option Nat :=
  if b = Reg.STREAM_CTRL then
    firstOf [(s.notIn [.standby], Sts.BAD_STATE), (outside v 15 8 1 64 || outside v 31 16 16 1024, Sts.BAD_PARAM)]
  else if b = Reg.DMA_APPEND 0 then some Sts.NOT_PERMITTED
  else none

/-- R399: why a `BULK_RETURN` of pair k is refused. -/
def State.bulkFault (s : State) (k : Nat) : Option Nat :=
  let home := s.f (Reg.PAIR_CTRL k) 0 0
  firstOf [(decide (s.variant.lanes ≤ 2 * k), Sts.NOT_PRESENT),
    (!s.pairFormed k || s.f (Reg.PAIR_STATUS k) 1 1 == home || !s.laneUp (2 * k + home), Sts.BAD_STATE)]

/-- R408: a `FORCE_FAILOVER` is refused. -/
def State.failoverBad (s : State) : Bool :=
  s.notIn [.armed, .sensing, .degraded, .calibrating] || s.plannerSt s.activePlanner != 4 || s.plannerSt (1 - s.activePlanner) != 2

/-- R408: page 0x0012. -/
def State.faultRed (s : State) (b : Nat) (v : Word) : Option Nat :=
  if b = Reg.RED_CMD then
    match firstOf [(v.getLsbD 0 && s.failoverBad, Sts.BAD_STATE)] with
    | some st => some st
    | none =>
      match if v.getLsbD 1 then s.bulkFault 0 else none with
      | some st => some st
      | none => if v.getLsbD 2 then s.bulkFault 1 else none
  else none

/-- R429: page 0x0013. -/
def State.faultTherm (s : State) (b : Nat) : Option Nat :=
  if b = Reg.THERM_RTD 0 then firstOf [(s.notIn [.standby], Sts.BAD_STATE)] else none

/-- The registers that only a configuration image writes (R436), with the bits it reaches. -/
def bootMask (b : Nat) : Option Word :=
  if b = Reg.ACCT_CFG then some 0x001F1F1F
  else if b = Reg.ACCT_ZONE_MAP then some 0x00FFFFFF
  else if b = Reg.ACCT_LIM 0 0 then some 0xFFFFFFFF
  else if b = Reg.NORM_MAX 0 then some 0x0000FFFF
  else if b = Reg.PORT_ROLE_CFG then some 0x3F3F3F3F
  else none

/-- R105: a sub-interval outside 2⁴ to 2²⁰ launch slots. -/
def bootFault (b : Nat) (v : Word) : Option Nat :=
  if b = Reg.ACCT_CFG then firstOf [(outside v 4 0 4 20 || outside v 12 8 4 20 || outside v 20 16 4 20, Sts.BAD_PARAM)] else none

/-- The rules of the chapter that owns a register. -/
def State.pageFault (s : State) (page : Nat) (h : RegHit) (v : Word) : Option Nat :=
  let b := h.row.base
  match page with
  | 0x02 => s.faultSync b v
  | 0x03 => s.faultRx b v
  | 0x04 => s.faultTdc b h.i v
  | 0x05 => faultHist b v
  | 0x06 => s.faultRej b v
  | 0x07 => s.faultDet b v
  | 0x08 => s.faultChain b v
  | 0x09 => s.faultPlan b h.i v
  | 0x0A => s.faultArb b v
  | 0x0B => s.faultEmit b v
  | 0x0C => s.faultWag b v
  | 0x0D => s.faultCap b v
  | 0x0E => s.faultAux b h.i v
  | 0x0F => s.faultLink b h.i v
  | 0x11 => s.faultStream b v
  | 0x12 => s.faultRed b v
  | 0x13 => s.faultTherm b
  | _ => none

/-- The status with which a write of v to address a is refused (R6, R13, R345); `boot` for an entry of signed configuration (R435, R436). -/
def State.writeFault (s : State) (boot : Bool) (a : Nat) (v : Word) : Option Nat :=
  match regAt a with
  | none => some Sts.BAD_ADDRESS
  | some h =>
    if !h.present s.variant then some Sts.NOT_PRESENT
    else if boot && (bootMask h.row.base).isSome then bootFault h.row.base v
    else if h.row.acc = .ro then some Sts.READ_ONLY
    else s.pageFault (a / 0x10000) h v

/-! ## What is stored -/

/-- 0 is stored as 1. -/
def one (hi lo : Nat) (v : Word) : Word := if bitsOf v hi lo = 0 then withBits v hi lo 1 else v

/-- Other values are stored as the nearer limit. -/
def near (hi lo mn mx : Nat) (v : Word) : Word := withBits v hi lo (clampNat mn mx (bitsOf v hi lo))

/-- The value stored where the field rules change the one written; b is the base of the register's row. -/
def stored (b : Nat) (v : Word) : Word :=
  if b = Reg.CLK_CTRL then one 31 16 v
  else if b = Reg.RX_CTRL then one 15 8 (one 30 27 v)
  else if b = Reg.RX_LIMITS then
    one 23 16 (one 27 24 (withBits v 11 8 (if bitsOf v 11 8 < 2 then 0 else if bitsOf v 11 8 < 4 then 2 else if bitsOf v 11 8 < 6 then 4 else 6)))
  else if b = Reg.TDC_STAT_CTRL 0 then one 30 16 v
  else if b = Reg.REJ_CTRL then one 10 8 (one 23 16 v)
  else if b = Reg.FE_CFG then near 7 4 3 15 (one 31 16 v)
  else if b = Reg.WX_CTRL then one 7 4 (near 15 8 1 16 v)
  else if b = Reg.DET_THR then one 27 24 v
  else if b = Reg.TRK_CLUSTER then one 15 8 (one 19 16 v)
  else if b = Reg.PLAN_SHOT_RATE then near 7 0 1 16 v
  else if b = Reg.ARB_SLOT 0 then withBits v 8 4 (min 16 (bitsOf v 8 4))
  else if b = Reg.EMIT_TILE_LIMITS then one 7 0 (near 15 8 1 16 v)
  else if b = Reg.EMIT_WL_CTRL then near 31 28 4 8 v
  else if b = Reg.PAT 0 then withBits v 5 0 (min 40 (bitsOf v 5 0))
  else if b = Reg.WAG_CTRL then one 3 0 v
  else if b = Reg.LINK_CTRL then one 31 16 v
  else if b = Reg.LANE_CFG 0 then one 31 28 v
  else if b = Reg.LANE_PWR 0 then one 15 8 v
  else if b = Reg.RED_CTRL then one 7 0 (near 15 12 2 15 (one 31 16 v))
  else if b = Reg.PAIR_CTRL 0 then one 15 8 v
  else if b = Reg.CAL_CTRL then one 7 0 (one 15 8 (one 31 24 v))
  else v

/-- The bits of a register that a write reaches on a variant: those of fused-off combs read 0. -/
def writeMask (v : Variant) (h : RegHit) : Word :=
  let m := BitVec.ofNat 32 h.row.mask
  let b := h.row.base
  if b = Reg.TDC_ONE_STOP ∨ b = Reg.TDC_EXT_WIN ∨ b = Reg.ADP_EN_MASK ∨ b = Reg.CAP_COMBS then m &&& BitVec.ofNat 32 (2 ^ v.combs - 1)
  else if b = Reg.BIAS_ZONE_MAP 0 then m &&& BitVec.ofNat 32 (2 ^ (4 * (min (v.combs - 8 * h.i) 8)) - 1)
  else m

/-- The registers whose new value waits: for a frame boundary, a column start, a monitoring tick, a Waggle commit, a heater tick, an RTD turn, an
arbitration point (R89). -/
def delayed (a b : Nat) : Bool :=
  (frameClass a && (a / 65536 != 5 || b == Reg.HIST_CTRL 0) &&
    (a / 65536 != 6 || b == Reg.REJ_CTRL) && (a / 65536 != 7 || b == Reg.DET_CTRL || b == Reg.DET_RANGE_OFS 0 || b == Reg.HIVE_FREQ_CTRL 0) &&
    (a / 65536 != 0xB || b == Reg.FIRE_TRIM 0 || b == Reg.EMIT_TILE_LIMITS || b == Reg.EMIT_WL_CTRL)) ||
  decide (Reg.WX_CTRL ≤ a ∧ a ≤ Reg.WX_POLICY) || columnClass a || finderClass a || trackClass a || monitorClass a || wagShadow a || b == Reg.HEAT_CTRL 0 || b == Reg.RTD_CFG 0 || b == Reg.ARB_CTRL

/-! ## What a write starts -/

/-- R327, R321, R324: pairs form or part, and a lane newly expected counts from now. -/
def State.linkWritten (s : State) (old v : Word) : State :=
  let s := s.each [0, 1] fun s k => if old.getLsbD k != v.getLsbD k then s.formPair k (v.getLsbD k) else s
  s.each [0, 1, 2, 3] fun s l =>
    if v.getLsbD (4 + l) && !old.getLsbD (4 + l) then s.setLane l { s.lane l with expectAt := some s.now } else s

/-- R188: a statistics run starts. -/
def State.startStat (s : State) (c : Nat) : State :=
  let s := s.setStat c { startAt := s.now, ctrl := s.rd (Reg.TDC_STAT_CTRL c), gate := s.rd (Reg.TDC_STAT_GATE c) }
  (s.setF (Reg.TDC_STAT_STATUS c) 2 0 1).setR (Reg.TDC_STAT_COUNT c) 0

/-- R219: every context is freed. -/
def State.clearFe (s : State) : State := (s.each (List.range 64) State.feFree).syncFe

/-- R263: a commit of the polyphase bank. -/
def State.commitPoly (s : State) : State :=
  let s := s.setBit Reg.FC_STATUS 1 true
  if s.dev = .standby then s.swapPoly else s

/-- R101: a commit of the patterns. -/
def State.commitPat (s : State) : State := (s.setBit Reg.EMIT_STATUS 4 true).setEmit { s.emit with patAt := some s.now }

/-- R272: a new `FRAME_PERIOD` within the span waits for the boundary; outside it is in force at once. -/
def State.periodWritten (s : State) : State := if s.sync.span then s else s.setF Reg.FRAME_STATUS 23 0 (s.f Reg.FRAME_PERIOD 23 0)

/-- R322, R320: power request and retraining of a lane; a retraining written under a tag by a command that came in at port p waits for the reply. -/
def State.lanePwrWritten (s : State) (l p tag : Nat) (v : Word) : State :=
  let s := s.lanePwrEffect l (bitsOf v 1 0) false
  if v.getLsbD 16 then { s with sys := { s.sys with retrainOwed := s.sys.retrainOwed ++ [(l, s.portOf p, tag)] } } else s

/-- R399, R392: the actions of `RED_CMD`. -/
def State.redCommand (s : State) (v : Word) : State :=
  let s := s.each [0, 1] fun s k => if v.getLsbD (k + 1) then s.setPair k { s.pair k with bulkReturn := true } else s
  if v.getLsbD 0 then s.failPlanner 6 else s

/-- What follows a write that was stored: the actions of WO fields, and what takes effect at once. `old` is what the register held, v what was written; tag names
the command, and p the port that it came in at. -/
def State.written (s : State) (h : RegHit) (old v : Word) (p tag : Nat) : State :=
  let b := h.row.base
  let i := h.i
  if b = Reg.CLK_CTRL then s.chooseSource false
  else if b = Reg.FRAME_PERIOD then s.periodWritten
  else if b = Reg.SWARM_CTRL then (if bitsOf old 1 0 ≠ bitsOf v 1 0 then s.syncSwarm else s)
  else if b = Reg.BIAS_ZONE_MAP 0 then s.zonesMapped
  else if b = Reg.RX_SELFTEST then (if v.getLsbD 0 then s.startSelftest else s)
  else if b = Reg.BIAS_CTRL 0 then
    (if v.getLsbD 15 then { s with rx := { s.rx with retry := if s.rx.retry.contains i then s.rx.retry else s.rx.retry ++ [i] } } else s)
  else if b = Reg.RX_RANGE 0 ∨ b = Reg.RX_THR 0 then s.each (combChans i) State.chanWritten
  else if b = Reg.RX_CH 0 then s.chanWritten i
  else if b = Reg.TDC_STAT_CTRL 0 then (if v.getLsbD 31 then s.startStat i else s)
  else if b = Reg.TDC_FINE 0 ∨ b = Reg.TDC_SKEW 0 ∨ b = Reg.TDC_SFINE 0 0 ∨ b = Reg.TDC_SSKEW 0 0 ∨ b = Reg.DET_RANGE_OFS 0 ∨
      b = Reg.AX_ANG_OFS 0 ∨ b = Reg.AX_ANG_GAIN 0 then s.calDirty
  else if b = Reg.DITHER_SALT then s.seedDither
  else if b = Reg.FE_CLEAR then (if v.getLsbD 0 then s.clearFe else s)
  else if b = Reg.FC_POLY_COMMIT then (if v.getLsbD 0 then s.commitPoly else s)
  else if b = Reg.PLAN_CTRL then (if bitsOf old 10 0 ≠ bitsOf v 10 0 then s.resetExpect else s)
  else if b = Reg.ARB_SLOT_COMMIT then (if v.getLsbD 0 then s.slotCommit else s)
  else if b = Reg.ARB_SLOT_NEXT then s.slotNextWrite (bitsOf v 7 0) (bitsOf v 11 8 + 16 * min 16 (bitsOf v 16 12))
  else if b = Reg.ARB_PORT 0 then s.syncStreams
  else if b = Reg.PAT_COMMIT then (if v.getLsbD 0 then s.commitPat else s)
  else if b = Reg.WAG_COMMIT then (if v.getLsbD 0 then s.setBit Reg.WAG_STATUS 9 true else s)
  else if b = Reg.MA_CFG 0 ∨ b = Reg.MA_DEC 0 ∨ b = Reg.MA_SEQ 0 0 then s.restartMa i
  else if b = Reg.RTD_CTRL then s.restartRtd
  else if b = Reg.RTD_CFG 0 then s.rtdCfgWritten i
  else if b = Reg.LINK_CTRL then s.linkWritten old v
  else if b = Reg.LANE_CFG 0 then (s.when (!v.getLsbD 24) fun s => s.dozeOff i).when (old.getLsbD 26 != v.getLsbD 26) fun s =>
    s.disableWritten i p tag (v.getLsbD 26)
  else if b = Reg.LANE_PWR 0 then s.lanePwrWritten i p tag v
  else if b = Reg.RED_CMD then s.redCommand v
  else s

/-- A write that no rule refuses (R12, R14): a command with a tag, which came in at port p, writes v to address a. `REF_BAD` is set again at once while its
cause lasts (R293). -/
def State.writeReg (s : State) (a : Nat) (v : Word) (p tag : Nat) : State :=
  match regAt a with
  | none => s
  | some h =>
    let m := writeMask s.variant h
    let old := s.rd a
    match h.row.acc with
    | .ro => s
    | .w1c =>
      let s := if a = Reg.HIST_FLAGS then s.countWaits else s
      let old := s.rd a
      (s.wr a (old &&& ~~~(v &&& m &&& ~~~s.flagsNow a))).when (a == Reg.AUX_FLAGS && s.aux.refBad) fun s => s.flag Reg.AUX_FLAGS 5
    | .wo => s.written h old v p tag
    | .rw =>
      let s := if delayed a h.row.base || (a == Reg.FRAME_PERIOD && s.sync.span) then s.hold a else s
      (s.wr a ((old &&& ~~~m) ||| (stored h.row.base v &&& m))).written h old v p tag

/-- R435: an entry of signed configuration: it reaches the registers of R436 and both banks of a double-banked register. -/
def State.bootWrite (s : State) (a : Nat) (v : Word) : State :=
  match regAt a with
  | none => s
  | some h =>
    match bootMask h.row.base with
    | some m => s.wr a ((s.rd a &&& ~~~m) ||| (v &&& m))
    | none =>
      let s := s.writeReg a v 5 0
      if h.row.base = Reg.PAT 0 then s.wr (Reg.PAT_ACT h.i) (s.rd a)
      else if h.row.base = Reg.FC_POLY 0 then s.wr (Reg.FC_POLY_ACT h.i) (s.rd a)
      else s

end Sys2Proof.Machine
end

