-- ==== Sys2Proof/Machine/Param.lean ====
section
/-!
DEFINITION. Machine/Param.lean: the parameter commands (R345, R468 to R471), and the writes of single registers that have rows of their own: each is a `PARAM_WRITE` of that
register.
-/

namespace Sys2Proof.Machine

/-! ## Reading -/

/-- A register as it is read (R12, R470): a WO register reads 0; what varies with time is taken as it stands. -/
def State.readReg (s : State) (h : RegHit) (a : Nat) : Word :=
  let b := h.row.base
  if h.row.acc = .wo then 0
  else if b = Reg.FE_CTX_STATE 0 then withBits (s.rd a) 31 16 (s.feAge h.i)
  else if b = Reg.SWARM_STATUS then withBits (s.rd a) 15 8 s.members
  else if b = Reg.LANE_STATUS 0 ∨ b = Reg.LANE_EQ 0 then (if s.laneOn h.i then s.startLane h.i else s).rd a
  else if b = Reg.PLAN_PAIR_STATUS then s.pairStatus
  else if b = Reg.HIST_FLAGS then s.countWaits.rd a
  else if b = Reg.HIST_RING_WAIT 0 then BitVec.ofNat 32 (min 0xFFFFFFFF (s.r a + s.ringWaited h.i))
  else if b = Reg.ACCT_SUM 0 0 then (s.syncAcct h.i (2 * s.now / 125)).rd a
  else s.rd a

/-- The register that the variant has at an address. -/
def State.presentAt (s : State) (a : Nat) : Option RegHit :=
  match regAt a with
  | some h => if h.present s.variant then some h else none
  | none => none

/-- R345: `count` registers from `a`: a later address without a register reads 0 and counts in `ABSENT`. -/
def State.readRange (s : State) (a count : Nat) : List Byte :=
  let at_ := (List.range count).map fun i => (s.presentAt (a + 4 * i), a + 4 * i)
  leBytes 2 count ++ leBytes 2 (at_.filter (·.1.isNone)).length ++
    (at_.map fun e => match e.1 with
      | some h => leBytes 4 (s.readReg h e.2).toNat
      | none => leBytes 4 0).flatten

/-- Registers that one command of port p may take (R345). -/
def maxCount (p : Nat) : Nat := if p = 4 then 250 else 255

/-- R345: a read. -/
def State.paramRead (s : State) (p a count : Nat) : Reply :=
  if a % 4 ≠ 0 then s.fail Sts.BAD_ADDRESS a
  else if count = 0 ∨ maxCount p < count then s.fail Sts.BAD_PARAM 4
  else match regAt a with
    | none => s.fail Sts.BAD_ADDRESS a
    | some h => if h.present s.variant then s.ok (s.readRange a count) else s.fail Sts.NOT_PRESENT a

def paramReadRule : CmdRule := { opcode := Op.PARAM_READ, len := exactly 8, fields := [0, 4, 6] }

/-- PARAM_READ (R345). -/
def State.doParamRead (s : State) (p : Nat) (x : QCmd) : Reply :=
  s.paramRead p (fieldAt x.cmd.params 0 4) (fieldAt x.cmd.params 4 2)

/-- PARAM_READ: the command by its rule and its effect. -/
def execParamRead (c : Cmd) (s : State) : Host.Outcome State Fault Refusal := s.runCommand paramReadRule (fun p x s => s.doParamRead p x) c

/-! ## Writing -/

/-- R345: the writes in ascending order, up to the first that fails; `n` were made before. -/
def State.writeAll (s : State) (p tag n : Nat) : Nat → List Word → Reply
  | _, [] => s.ok (leBytes 2 n)
  | a, v :: vs =>
    match s.writeFault false a v with
    | some st => s.fail st a n
    | none => (s.writeReg a v p tag).writeAll p tag (n + 1) (a + 4) vs

/-- The values of a `PARAM_WRITE`. -/
def writeValues (params : List Byte) (count : Nat) : List Word :=
  (List.range count).map fun i => BitVec.ofNat 32 (fieldAt params (8 + 4 * i) 4)

/-- R345: a write. -/
def State.paramWrite (s : State) (p : Nat) (x : QCmd) : Reply :=
  let a := fieldAt x.cmd.params 0 4
  let count := fieldAt x.cmd.params 4 2
  if a % 4 ≠ 0 then s.fail Sts.BAD_ADDRESS a
  else if count = 0 ∨ maxCount p < count then s.fail Sts.BAD_PARAM 4
  else s.writeAll x.cmd.port x.cmd.tag.toNat 0 a (writeValues x.cmd.params count)

/-- R345: a `PARAM_WRITE` is as long as its `COUNT` says. -/
def writeLen (c : Cmd) (l : Nat) : Option Nat := if l < 8 then some l else exactly (8 + 4 * fieldAt c.params 4 2) l

def paramWriteRule (c : Cmd) : CmdRule :=
  { opcode := Op.PARAM_WRITE, roles := ownerOnly, len := writeLen c, fields := [0, 4, 6] ++ (List.range (fieldAt c.params 4 2)).map (8 + 4 * ·) }

/-- PARAM_WRITE (R345). -/
def State.doParamWrite (s : State) (p : Nat) (x : QCmd) : Reply :=
  s.paramWrite p x

/-- PARAM_WRITE: the command by its rule and its effect. -/
def execParamWrite (c : Cmd) (s : State) : Host.Outcome State Fault Refusal := s.runCommand (paramWriteRule c) (fun p x s => s.doParamWrite p x) c

/-- R345: a masked write of one register; a register with W1C fields takes `VALUE` AND `MASK`. The reply carries the old value. -/
def State.paramModify (s : State) (p : Nat) (x : QCmd) : Reply :=
  let a := fieldAt x.cmd.params 0 4
  let mask := BitVec.ofNat 32 (fieldAt x.cmd.params 4 4)
  let value := BitVec.ofNat 32 (fieldAt x.cmd.params 8 4)
  if a % 4 ≠ 0 then s.fail Sts.BAD_ADDRESS a
  else match regAt a with
    | none => s.fail Sts.BAD_ADDRESS a
    | some h =>
      let old := s.readReg h a
      let v := if h.row.acc = .w1c then value &&& mask else (old &&& ~~~mask) ||| (value &&& mask)
      match s.writeFault false a v with
      | some st => s.fail st a
      | none => (s.writeReg a v x.cmd.port x.cmd.tag.toNat).ok (leBytes 4 old.toNat)

def paramModifyRule : CmdRule := { opcode := Op.PARAM_MODIFY, roles := ownerOnly, len := exactly 12, fields := [0, 4, 8] }

/-- PARAM_MODIFY (R345). -/
def State.doParamModify (s : State) (p : Nat) (x : QCmd) : Reply :=
  s.paramModify p x

/-- PARAM_MODIFY: the command by its rule and its effect. -/
def execParamModify (c : Cmd) (s : State) : Host.Outcome State Fault Refusal := s.runCommand paramModifyRule (fun p x s => s.doParamModify p x) c

/-! ## Writes with rows of their own -/

/-- The `PARAM_WRITE` packet of one register. -/
def HostWrite.cmd (w : HostWrite) (a : Nat) (v : Word) : Cmd :=
  { port := w.port, tag := w.tag, b4 := BitVec.ofNat 8 w.port.val, length := 12
    params := leBytes 4 a ++ leBytes 2 1 ++ leBytes 2 0 ++ leBytes 4 v.toNat }

/-- A host writes one register, with the bits of `action` set. -/
def State.hostWrite (s : State) (w : HostWrite) (a : Nat) (action : Word := 0) : Host.Outcome State Fault Refusal :=
  execParamWrite (HostWrite.cmd w a (w.value ||| action)) s

/-- ARB_SLOT_COMMIT (R75). -/
def execArbSlotCommit (w : HostWrite) (s : State) : Host.Outcome State Fault Refusal := s.hostWrite w Reg.ARB_SLOT_COMMIT 1

/-- ARB_SLOT_NEXT (R76). -/
def execArbSlotNext (w : HostWrite) (s : State) : Host.Outcome State Fault Refusal := s.hostWrite w Reg.ARB_SLOT_NEXT

/-- PAT_COMMIT (R101). -/
def execPatCommit (w : HostWrite) (s : State) : Host.Outcome State Fault Refusal := s.hostWrite w Reg.PAT_COMMIT 1

/-- WAG_COMMIT (R135). -/
def execWagCommit (w : HostWrite) (s : State) : Host.Outcome State Fault Refusal := s.hostWrite w Reg.WAG_COMMIT 1

/-- AX_MODE_WRITE (R134). -/
def execAxModeWrite (a : Fin 2) (w : HostWrite) (s : State) : Host.Outcome State Fault Refusal := s.hostWrite w (Reg.AX_MODE a.val)

/-- AX_MAN_VALUE_WRITE (R133). -/
def execAxManValueWrite (a : Fin 2) (w : HostWrite) (s : State) : Host.Outcome State Fault Refusal := s.hostWrite w (Reg.AX_MAN_VALUE a.val)

/-- BIAS_RETRY (R158). -/
def execBiasRetry (z : Fin 8) (w : HostWrite) (s : State) : Host.Outcome State Fault Refusal := s.hostWrite w (Reg.BIAS_CTRL z.val) 0x8000

/-- RX_SELFTEST_RUN (R165). -/
def execRxSelftestRun (w : HostWrite) (s : State) : Host.Outcome State Fault Refusal := s.hostWrite w Reg.RX_SELFTEST 1

/-- TDC_STAT_RUN (R188). -/
def execTdcStatRun (c : Fin 32) (w : HostWrite) (s : State) : Host.Outcome State Fault Refusal :=
  s.hostWrite w (Reg.TDC_STAT_CTRL c.val) 0x80000000

/-- FE_CLEAR (R219). -/
def execFeClear (w : HostWrite) (s : State) : Host.Outcome State Fault Refusal := s.hostWrite w Reg.FE_CLEAR 1

/-- DITHER_SALT_WRITE (R212). -/
def execDitherSaltWrite (w : HostWrite) (s : State) : Host.Outcome State Fault Refusal := s.hostWrite w Reg.DITHER_SALT

/-- FC_POLY_COMMIT (R263). -/
def execFcPolyCommit (w : HostWrite) (s : State) : Host.Outcome State Fault Refusal := s.hostWrite w Reg.FC_POLY_COMMIT 1

/-- FRAME_PERIOD_WRITE (R272). -/
def execFramePeriodWrite (w : HostWrite) (s : State) : Host.Outcome State Fault Refusal := s.hostWrite w Reg.FRAME_PERIOD

/-- LANE_RETRAIN (R320). -/
def execLaneRetrain (l : Fin 4) (w : HostWrite) (s : State) : Host.Outcome State Fault Refusal := s.hostWrite w (Reg.LANE_PWR l.val) 0x10000

/-- LANE_TX_REQ (R322). -/
def execLaneTxReq (l : Fin 4) (w : HostWrite) (s : State) : Host.Outcome State Fault Refusal := s.hostWrite w (Reg.LANE_PWR l.val)

/-- FORCE_FAILOVER (R392, R408). -/
def execForceFailover (w : HostWrite) (s : State) : Host.Outcome State Fault Refusal := s.hostWrite w Reg.RED_CMD 1

/-- BULK_RETURN (R399). -/
def execBulkReturn (k : Fin 2) (w : HostWrite) (s : State) : Host.Outcome State Fault Refusal :=
  s.hostWrite w Reg.RED_CMD (BitVec.ofNat 32 (2 ^ (k.val + 1)))

/-- MA_CONFIG_WRITE (R301): register `which` of converter m: 0 `MA_CFG`, 1 `MA_DEC`, 2 to 5 `MA_SEQ`. -/
def execMaConfigWrite (m : Fin 3) (which : Fin 6) (w : HostWrite) (s : State) : Host.Outcome State Fault Refusal :=
  s.hostWrite w (if which.val = 0 then Reg.MA_CFG m.val else if which.val = 1 then Reg.MA_DEC m.val else Reg.MA_SEQ m.val (which.val - 2))

/-- RTD_CTRL_WRITE (R301). -/
def execRtdCtrlWrite (w : HostWrite) (s : State) : Host.Outcome State Fault Refusal := s.hostWrite w Reg.RTD_CTRL

/-- RTD_CFG_WRITE (R301). -/
def execRtdCfgWrite (r : Fin 8) (w : HostWrite) (s : State) : Host.Outcome State Fault Refusal := s.hostWrite w (Reg.RTD_CFG r.val)

end Sys2Proof.Machine
end

