-- ==== Sys2Proof/Machine/BootOps.lean ====
section
/-!
DEFINITION. Machine/BootOps.lean: images in flash and their checks (R431 to R436), the identity block (R445), certificates (R447), and what an
update writes (R442).
-/

namespace Sys2Proof.Machine

/-! ## Images -/

/-- What image slot k of flash holds: 0, 1 firmware A, B; 2, 3 configuration A, B. -/
def State.flashSlot (s : State) (k : Nat) : List Byte := (s.boot.flash.slots.get none k).getD (Config.flashImage k)

/-- The image slot of a kind (1 firmware, 2 configuration) and letter. -/
def imageSlot (kind side : Nat) : Nat := 2 * (kind - 1) + side % 2

/-- `n` bytes of an image from offset `o`; where nothing was programmed flash reads 0xFF. -/
def flashAt (img : List Byte) (o n : Nat) : List Byte :=
  let t := (img.drop o).take n
  t ++ List.replicate (n - t.length) 0xFF

/-- A field of an image. -/
def flashField (img : List Byte) (o n : Nat) : Nat := leNat (flashAt img o n)

def imgSvn (img : List Byte) : Nat := flashField img 8 1
def imgBuild (img : List Byte) : Nat := flashField img 12 4
def imgKey (img : List Byte) : List Byte := flashAt img 64 1312

/-- R433: the header digest. -/
def imgDigest (img : List Byte) : List Byte := sha3_256 (flashAt img 0 64)

def imgPayload (img : List Byte) : List Byte := flashAt img 4096 (flashField img 16 4)

def allZero (l : List Byte) : Bool := l.all (· == 0)

/-- R434 check 1. -/
def imgFormOk (kind : Nat) (img : List Byte) : Bool :=
  flashField img 0 4 == 0x4D494C4E && flashField img 4 2 == 1 && flashField img 6 1 == kind &&
    decide (flashField img 16 4 ≤ if kind = 1 then 4190208 else 1044480) &&
    allZero (flashAt img 9 3) && allZero (flashAt img 22 10) && allZero (flashAt img 3796 300)

/-- R434 check 2: variant and silicon revision B. -/
def imgFits (v : Variant) (img : List Byte) : Bool := bitN (flashField img 20 1) v.code && decide (flashField img 21 1 ≤ 0x42)

/-- R434 check 4: the key slot that an image must name. -/
def Fuses.keySlot (f : Fuses) (kind : Nat) : Nat := if kind = 2 ∧ f.ownerHash.isSome then 1 else 0

/-- R434 checks 5 to 7. -/
def imgAuthentic (f : Fuses) (img : List Byte) : Bool :=
  let anchor := if flashField img 7 1 = 0 then Config.rootHash else f.ownerHash.getD []
  sha3_256 (imgKey img) == anchor && mldsaVerify (imgKey img) (imgDigest img) (flashAt img 1376 2420) &&
    sha3_256 (imgPayload img) == flashAt img 32 32

/-! ## Signed configuration (R435) -/

/-- The number of entries of a configuration image, and entry k as (address, value). -/
def cfgCount (img : List Byte) : Nat := flashField img (4096 + 36) 4
def cfgEntry (img : List Byte) (k : Nat) : Nat × Word :=
  (flashField img (4096 + 64 + 8 * k) 4, BitVec.ofNat 32 (flashField img (4096 + 68 + 8 * k) 4))

/-- Whether entry k lies within the payload. -/
def cfgInside (img : List Byte) (k : Nat) : Bool := decide (64 + 8 * (k + 1) ≤ flashField img 16 4)

/-- R435: an entry that belongs only to a fused-off resource. -/
def State.cfgSkips (s : State) (a : Nat) : Bool := s.writeFault true a 0 == some Sts.NOT_PRESENT

/-- R435: apply `n` entries from entry k on, in order; the index of the first that is refused ends it. The last component counts the entries skipped. -/
def State.cfgApply (img : List Byte) : Nat → Nat → State → State × Option Nat × Nat
  | 0, _, s => (s, none, 0)
  | n + 1, k, s =>
    let e := cfgEntry img k
    if !cfgInside img k then (s, some k, 0)
    else if s.cfgSkips e.1 then
      let r := State.cfgApply img n (k + 1) s
      (r.1, r.2.1, r.2.2 + 1)
    else if (s.writeFault true e.1 e.2).isSome then (s, some k, 0)
    else State.cfgApply img n (k + 1) (s.bootWrite e.1 e.2)

/-- The number of entries that a payload can hold, or one more where `COUNT` names more: the first beyond the payload is then refused. -/
def cfgSteps (img : List Byte) : Nat := min (cfgCount img) ((flashField img 16 4 - 64) / 8 + 1)

/-- The state that the entries of an image are judged in: every register at its reset value, in STANDBY (R435). -/
def State.cfgBase (s : State) : State :=
  let r := State.reset
  { r with variant := s.variant, sys := { r.sys with dev := .standby } }

/-- R434: the checks of an image of a kind, in order: the status and `DETAIL` of the first failure. -/
def State.checkImage (s : State) (kind : Nat) (img : List Byte) : Option (Nat × Nat) :=
  let f := s.boot.fuses
  if !imgFormOk kind img then some (Sts.BAD_PARAM, 0)
  else if !imgFits s.variant img then some (Sts.BAD_PARAM, 0)
  else if 64 < imgSvn img ∨ imgSvn img < f.svn then some (Sts.ROLLBACK, 0)
  else if flashField img 7 1 ≠ f.keySlot kind then some (Sts.AUTH_FAIL, 0)
  else if !imgAuthentic f img then some (Sts.AUTH_FAIL, 0)
  else if kind = 2 then (State.cfgApply img (cfgSteps img) 0 s.cfgBase).2.1.map fun k => (Sts.BAD_PARAM, k)
  else none

/-! ## Identity and certificates (R445, R447) -/

/-- R445: the identity block. -/
def State.identity (s : State) : List Byte :=
  leBytes 3 Config.lot.toNat ++ leBytes 1 Config.wafer.toNat ++ leBytes 1 Config.dieX.toNat ++ leBytes 1 Config.dieY.toNat ++
    leBytes 1 Config.testRev.toNat ++ leBytes 1 s.variant.code ++ leBytes 1 2 ++ leBytes 1 0x42

/-- R446: the seed ξ of the identity key pair. -/
def State.idKeySeed (s : State) : List Byte := sha3_256 (bytesAt Config.idSeed 0 32 ++ s.identity)

/-- R446: the identity public key. -/
def State.idPublicKey (s : State) : List Byte := mldsaPublic s.idKeySeed

/-- `ID_KEY_HASH` (R445, R446): as fused; before the first boot programs it, the hash of the key that it will derive. -/
def State.idKeyHash (s : State) : List Byte := s.boot.fuses.idHash.getD (sha3_256 s.idPublicKey)

/-- R447: the copy in use, the valid one with the higher `SEQ`. -/
def Flash.cert (f : Flash) : Option (Nat × List Byte) :=
  match f.cert0, f.cert1 with
  | some a, some b => if a.1 < b.1 then some b else some a
  | some a, none => some a
  | none, b => b

/-- R442: the older certificate copy; one that is not valid is older than any. -/
def Flash.olderCert (f : Flash) : Nat :=
  match f.cert0, f.cert1 with
  | none, _ => 0
  | some _, none => 1
  | some a, some b => if a.1 < b.1 then 0 else 1

def Flash.putCert (f : Flash) (k : Nat) (c : Option (Nat × List Byte)) : Flash := if k = 0 then { f with cert0 := c } else { f with cert1 := c }

/-- R447: whether a certificate passes its check. -/
def State.certOk (s : State) (c : List Byte) : Bool :=
  flashAt c 8 10 == s.identity && sha3_256 (flashAt c 32 1312) == s.idKeyHash && flashAt c 1344 32 == Config.rootHash &&
    mldsaVerify s.boot.vendorKey (sha3_256 (flashAt c 0 1376)) (flashAt c 1376 2420)

/-! ## What an update writes (R442) -/

/-- The image slot that a session of kind 1 or 2 writes: the inactive one. -/
def State.updSlot (s : State) (kind : Nat) : Nat :=
  let d := s.boot.flash.dir
  imageSlot kind (1 - (if kind = 1 then d.fwActive else d.cfgActive))

/-- A slot with `new` programmed from its start over `old`: each 64 KiB sector is erased as data first enters it. -/
def programmed (old new : List Byte) : List Byte :=
  let e := (new.length + 0xFFFF) / 0x10000 * 0x10000
  new ++ List.replicate (e - new.length) 0xFF ++ old.drop e

end Sys2Proof.Machine
end

