-- ==== Sys2Proof/Machine/BootCmds.lean ====
section
/-!
DEFINITION. Machine/BootCmds.lean: the commands of identity, attestation and certificate (R445, R448, R449), of secure update (R442, R443), and of the
owner key (R441).
-/

namespace Sys2Proof.Machine

/-! ## Identity -/

/-- R439: FAULT_HALT entered from BOOT: no firmware or configuration runs. -/
def State.haltedInBoot (s : State) : Bool := s.dev == .faultHalt && s.sys.prev == .boot

/-- The 64 bytes of `IDENTIFY` (R445). -/
def State.identify (s : State) : List Byte :=
  let run (v : Nat) : Nat := if s.haltedInBoot then 0 else v
  let flags := run (s.f Reg.BOOT_STATUS 0 0) + 2 * run (s.f Reg.BOOT_STATUS 3 3) + 4 * b2n s.boot.fuses.ownerHash.isSome +
    8 * b2n s.boot.flash.cert.isSome
  s.identity ++ leBytes 2 0 ++ leBytes 4 (run (s.r Reg.FW_BUILD)) ++ leBytes 4 (run (s.r Reg.CFG_ID)) ++
    leBytes 1 (run (s.f Reg.SVN_STATUS 15 8)) ++ leBytes 1 (run (s.f Reg.SVN_STATUS 23 16)) ++ leBytes 1 s.boot.fuses.svn ++
    leBytes 1 flags ++ bytesAt s.idKeyHash 0 32 ++ leBytes 4 s.boot.flash.dir.bootCount ++ leBytes 4 0

def identifyRule : CmdRule := { opcode := Op.IDENTIFY, len := exactly 0 }

/-- IDENTIFY (R445, R439). -/
def State.doIdentify (s : State) (_ : Nat) (_ : QCmd) : Reply :=
  s.ok s.identify

/-- IDENTIFY: the command by its rule and its effect. -/
def execIdentify (c : Cmd) (s : State) : Host.Outcome State Fault Refusal := s.runCommand identifyRule (fun p x s => s.doIdentify p x) c

/-! ## Attestation -/

/-- The signed bytes 0 to 159 of a report (R449). -/
def State.reportBody (s : State) (p : Nat) (nonce : List Byte) : List Byte :=
  leBytes 2 1 ++ leBytes 1 p ++ leBytes 1 s.dev.code ++ s.identity ++ leBytes 2 0 ++ bytesAt nonce 0 32 ++ bytesAt s.boot.fwDigest 0 32 ++
    bytesAt s.boot.cfgDigest 0 32 ++ bytesAt (s.boot.fuses.ownerHash.getD []) 0 32 ++ leBytes 1 (s.f Reg.SVN_STATUS 15 8) ++
    leBytes 1 (s.f Reg.SVN_STATUS 23 16) ++ leBytes 1 s.boot.fuses.svn ++
    leBytes 1 (s.f Reg.BOOT_STATUS 1 1 + 2 * s.f Reg.BOOT_STATUS 4 4 + 4 * b2n (s.bit Reg.BOOT_STATUS 2 || s.bit Reg.BOOT_STATUS 5)) ++
    leBytes 4 (s.r Reg.BOOT_COUNT) ++ leBytes 8 s.time.dev

/-- R449: a new report for port p, signed; the random bytes of the signature are free. -/
def State.newReport (s : State) (p : Nat) (nonce : List Byte) : List Byte :=
  let b := s.reportBody p nonce
  b ++ bytesAt (mldsaSign s.idKeySeed (sha3_256 b) ((List.range 32).map (Config.freeByte s.freeCtr))) 0 2420

/-- R449: `ATTEST` on port p. -/
def State.attest (s : State) (p : Nat) (nonce : List Byte) (part : Nat) : Reply :=
  if (if p = 4 then 2 else 0) < part then s.fail Sts.BAD_PARAM 32
  else if part = 0 then
    let r := s.newReport p nonce
    let s := State.setBoot { s with freeCtr := s.freeCtr + 1 } { s.boot with reports := s.boot.reports.set [] p r }
    s.ok (if p = 4 then bytesAt r 0 1000 else r)
  else
    let r := s.boot.reports.get [] p
    if r.isEmpty ∨ bytesAt r 16 32 ≠ nonce then s.fail Sts.BAD_PARAM 0
    else s.ok ((r.drop (1000 * part)).take 1000)

def attestRule : CmdRule := { opcode := Op.ATTEST, len := exactly 36, fields := [0, 32, 33] }

/-- ATTEST (R449). -/
def State.doAttest (s : State) (p : Nat) (x : QCmd) : Reply :=
  s.attest p (bytesAt x.cmd.params 0 32) (fieldAt x.cmd.params 32 1)

/-- ATTEST: the command by its rule and its effect. -/
def execAttest (c : Cmd) (s : State) : Host.Outcome State Fault Refusal := s.runCommand attestRule (fun p x s => s.doAttest p x) c

def certReadRule : CmdRule := { opcode := Op.CERT_READ, len := exactly 6, fields := [0, 4] }

/-- R448: bytes of the certificate in force. -/
def State.certRead (s : State) (p offset length : Nat) : Reply :=
  if (if p = 4 then 1000 else 4064) < length then s.fail Sts.BAD_PARAM 4
  else if 3808 < offset + length then s.fail Sts.BAD_PARAM 0
  else match s.boot.flash.cert with
    | none => s.fail Sts.CRC_FAIL
    | some c => s.ok (flashAt c.2 offset length)

/-- CERT_READ (R448). -/
def State.doCertRead (s : State) (p : Nat) (x : QCmd) : Reply :=
  s.certRead p (fieldAt x.cmd.params 0 4) (fieldAt x.cmd.params 4 2)

/-- CERT_READ: the command by its rule and its effect. -/
def execCertRead (c : Cmd) (s : State) : Host.Outcome State Fault Refusal := s.runCommand certReadRule (fun p x s => s.doCertRead p x) c

/-! ## Secure update -/

/-- `UPDATE_STATUS` as the session stands (R452). -/
def State.syncUpd (s : State) : State :=
  match s.boot.upd with
  | none => s.setR Reg.UPDATE_STATUS 0
  | some u => s.setR Reg.UPDATE_STATUS ((if u.committing then 2 else 1) + 4 * u.kind + 256 * u.bytes.length)

def State.setUpd (s : State) (u : Option Update) : State := (s.setBoot { s.boot with upd := u }).syncUpd

/-- R442: the largest `TOTAL` of a kind. -/
def updLimit (kind : Nat) : Nat := if kind = 1 then 0x400000 else if kind = 2 then 0x100000 else 0x10000 - 12

/-- R442: open a session; an earlier one is aborted. -/
def State.updateBegin (s : State) (kind total : Nat) : Reply :=
  if kind < 1 ∨ 3 < kind then s.fail Sts.BAD_PARAM 0
  else if updLimit kind < total then s.fail Sts.BAD_PARAM 4
  else
    let s := s.endUpdate
    let n := s.boot.nextSession
    let s := s.setBoot { s.boot with nextSession := (n + 1) % 65536 }
    (s.setUpd (some { session := n, kind, total })).ok (leBytes 2 n)

def updateBeginRule : CmdRule := { opcode := Op.UPDATE_BEGIN, roles := ownerOnly, len := exactly 8, fields := [0, 1, 4] }

/-- UPDATE_BEGIN (R442). -/
def State.doUpdateBegin (s : State) (_ : Nat) (x : QCmd) : Reply :=
  s.updateBegin (fieldAt x.cmd.params 0 1) (fieldAt x.cmd.params 4 4)

/-- UPDATE_BEGIN: the command by its rule and its effect. -/
def execUpdateBegin (c : Cmd) (s : State) : Host.Outcome State Fault Refusal := s.runCommand updateBeginRule (fun p x s => s.doUpdateBegin p x) c

/-- Program a session's bytes: an image over the inactive slot; a certificate over the older copy, which is not valid until its commit. -/
def State.updProgram (s : State) (u : Update) : State :=
  let f := s.boot.flash
  if u.kind = 3 then s.setFlash (f.putCert f.olderCert none)
  else
    let k := s.updSlot u.kind
    s.setFlash { f with slots := f.slots.set none k (some (programmed (s.flashSlot k) u.bytes)) }

/-- R442, R415: data of a session. -/
def State.updateData (s : State) (offset crc : Nat) (data : List Byte) : Reply :=
  if s.dev = .thermalStop then s.fail Sts.BUSY
  else match s.boot.upd with
    | none => s.fail Sts.BAD_STATE
    | some u =>
      if u.committing then s.fail Sts.BAD_STATE
      else if offset ≠ u.bytes.length then s.fail Sts.SEQ_ERROR
      else if crc32c data ≠ crc then s.fail Sts.CRC_FAIL
      else if u.total < offset + data.length then s.fail Sts.BAD_PARAM 8
      else if data.isEmpty then s.ok
      else
        let u : Update := { u with bytes := u.bytes ++ data }
        ((s.updProgram u).setUpd (some u)).ok

def updateDataRule : CmdRule :=
  { opcode := Op.UPDATE_DATA, roles := ownerOnly, len := fun n => if n < 8 then some n else if 4080 < n then some 4080 else none, fields := [0, 4, 8] }

/-- UPDATE_DATA (R442). -/
def State.doUpdateData (s : State) (_ : Nat) (x : QCmd) : Reply :=
  s.updateData (fieldAt x.cmd.params 0 4) (fieldAt x.cmd.params 4 4) (x.cmd.params.drop 8)

/-- UPDATE_DATA: the command by its rule and its effect. -/
def execUpdateData (c : Cmd) (s : State) : Host.Outcome State Fault Refusal := s.runCommand updateDataRule (fun p x s => s.doUpdateData p x) c

/-- R443: a commit is accepted; its check follows. -/
def State.updateCommit (s : State) (session : Nat) : Reply :=
  match s.boot.upd with
  | none => s.fail Sts.BAD_STATE
  | some u =>
    if u.committing then s.fail Sts.BUSY
    else if u.session ≠ session then s.fail Sts.BAD_PARAM 0
    else (s.setUpd (some { u with committing := true })).ok

def updateCommitRule : CmdRule := { opcode := Op.UPDATE_COMMIT, roles := ownerOnly, states := [.standby], len := exactly 2 }

/-- UPDATE_COMMIT (R443). -/
def State.doUpdateCommit (s : State) (p : Nat) (x : QCmd) : Reply :=
  s.startRunning Op.UPDATE_COMMIT p x.cmd.tag.toNat fun s => s.updateCommit (fieldAt x.cmd.params 0 2)

/-- UPDATE_COMMIT: the command by its rule and its effect. -/
def execUpdateCommit (c : Cmd) (s : State) : Host.Outcome State Fault Refusal := s.runCommand updateCommitRule (fun p x s => s.doUpdateCommit p x) c

/-- R443: an image that passed becomes active in the directory, on trial. -/
def DirRec.onTrial (d : DirRec) (kind : Nat) : DirRec :=
  if kind = 1 then { d with fwActive := 1 - d.fwActive, fwTrial := true, fwTries := 0 }
  else { d with cfgActive := 1 - d.cfgActive, cfgTrial := true, cfgTries := 0 }

/-- R443: what a commit comes to, with its status and `DETAIL`. -/
def State.updateCheck (s : State) (u : Update) : State × Nat × Nat :=
  let f := s.boot.flash
  if u.bytes.length < u.total then (s, Sts.SEQ_ERROR, 0)
  else if u.kind = 3 then
    if !s.certOk u.bytes then (s, Sts.AUTH_FAIL, 0)
    else
      let seq := ((f.cert.map (·.1)).getD 0) + 1
      ((s.setFlash (f.putCert f.olderCert (some (seq, flashAt u.bytes 0 3808)))).setBit Reg.BOOT_STATUS 7 true, Sts.OK, 0)
  else match s.checkImage u.kind (s.flashSlot (s.updSlot u.kind)) with
    | some e => (s, e.1, e.2)
    | none => (s.setFlash (f.putDir (f.dir.onTrial u.kind)), Sts.OK, 0)

/-- UPDATE_CHECK_DONE (R443): the check of the committed image or certificate ends, and the session with it. It waits behind a flush and a calibration save (R442, R450), and
while flash may not be written (R415, R416). -/
def execUpdateCheckDone (s : State) : Host.Outcome State Fault Refusal :=
  .next (match s.boot.upd with
    | none => s
    | some u =>
      if !u.committing ∨ ¬ s.flashIdle ∨ s.cal.save.isSome then s
      else
        let r := s.updateCheck u
        (r.1.setUpd none).finish Op.UPDATE_COMMIT r.2.1 r.2.2)

/-! ## Owner key (R441) -/

/-- R441: the status that an enrolment completes with, and the hash of its key. -/
def State.enrolment (s : State) (params : List Byte) : Nat × List Byte :=
  let key := bytesAt params 0 1312
  let h := sha3_256 key
  if s.boot.fuses.ownerHash.isSome then (Sts.BAD_STATE, h)
  else if h ≠ s.boot.ownerKeyHash ∨ allZero s.boot.ownerKeyHash ∨
      !mldsaVerify key (sha3_256 (s.identity ++ key)) (bytesAt params 1312 2420) then (Sts.AUTH_FAIL, h)
  else (Sts.OK, h)

/-- An enrolment that fails is reported as soon as its command was answered. -/
def State.enrollFails (s : State) : State :=
  match s.boot.enroll with
  | none => s
  | some e => if e.1 = Sts.OK then s else (s.setBoot { s.boot with enroll := none }).finish Op.OWNER_KEY_ENROLL e.1 0

def ownerKeyRule : CmdRule := { opcode := Op.OWNER_KEY_ENROLL, roles := ownerOnly, states := [.standby], len := exactly 3732, fields := [0, 1312] }

/-- OWNER_KEY_ENROLL (R441): the reply is `OK`; `COMMAND_DONE` carries the status. -/
def State.doOwnerKeyEnroll (s : State) (p : Nat) (x : QCmd) : Reply :=
  s.startRunning Op.OWNER_KEY_ENROLL p x.cmd.tag.toNat fun s => (s.setBoot { s.boot with enroll := some (s.enrolment x.cmd.params) }).ok

/-- OWNER_KEY_ENROLL: the command by its rule and its effect; an enrolment that fails is reported after the reply. -/
def execOwnerKeyEnroll (c : Cmd) (s : State) : Host.Outcome State Fault Refusal :=
  .next (s.command ownerKeyRule (fun p x s => s.doOwnerKeyEnroll p x) c).enrollFails

/-- OWNER_KEY_FUSE_DONE (R441): the hash stands in the owner key fuses; fuses that hold a key keep it. -/
def execOwnerKeyFuseDone (s : State) : Host.Outcome State Fault Refusal :=
  .next (match s.boot.enroll with
    | none => s
    | some e =>
      let f := s.boot.fuses
      let s := s.setBoot { s.boot with enroll := none, fuses := { f with ownerHash := some (f.ownerHash.getD e.2) } }
      (s.setBit Reg.BOOT_STATUS 6 true).finish Op.OWNER_KEY_ENROLL Sts.OK 0)

end Sys2Proof.Machine
end

