-- ==== Sys2Proof/Machine/BootRows.lean ====
section
/-!
DEFINITION. Machine/BootRows.lean: the boot sequence (R437 to R440) and the programming of the anti-rollback fuses.
-/

namespace Sys2Proof.Machine

/-! ## Images (steps 2 to 6) -/

/-- What the sequence has found of one kind: the side that boots, whether it is the fallback, and whether its trial was reverted. -/
structure BootPick where
  side : Nat
  fallback : Bool
  reverted : Bool
deriving DecidableEq, Repr

/-- The side of a kind that is active in the directory. -/
def DirRec.active (d : DirRec) (kind : Nat) : Nat := if kind = 1 then d.fwActive else d.cfgActive

def DirRec.trial (d : DirRec) (kind : Nat) : Bool := if kind = 1 then d.fwTrial else d.cfgTrial

/-- R438: a rejected slot on trial is left for the other. -/
def DirRec.revert (d : DirRec) (kind : Nat) : DirRec :=
  if kind = 1 then { d with fwActive := 1 - d.fwActive, fwTrial := false } else { d with cfgActive := 1 - d.cfgActive, cfgTrial := false }

/-- R438: a slot that booted on trial is confirmed. -/
def DirRec.confirm (d : DirRec) (kind : Nat) : DirRec :=
  if kind = 1 then { d with fwTrial := false, fwTries := 0 } else { d with cfgTrial := false, cfgTries := 0 }

/-- R434, R438: choose the slot of a kind; `rev` says that its trial was reverted at step 2. With both rejected there is none. -/
def State.pickImage (s : State) (kind : Nat) (rev : Bool) : State × Option BootPick :=
  let d := s.boot.flash.dir
  let a := d.active kind
  if (s.checkImage kind (s.flashSlot (imageSlot kind a))).isNone then (s, some ⟨a, false, rev⟩)
  else
    let s := s.flag Reg.BOOT_FLAGS 1
    let s := if d.trial kind then (s.setFlash (s.boot.flash.putDir (d.revert kind))).flag Reg.BOOT_FLAGS 2 else s
    let b := 1 - a
    if (s.checkImage kind (s.flashSlot (imageSlot kind b))).isNone then (s, some ⟨b, true, rev || d.trial kind⟩)
    else (s, none)

/-- What the registers of R452 and the attested digests show of the firmware that runs. -/
def State.runFirmware (s : State) (k : BootPick) : State :=
  let img := s.flashSlot (imageSlot 1 k.side)
  let t := !k.fallback && s.boot.flash.dir.trial 1
  let s := ((s.setBit Reg.BOOT_STATUS 0 (k.side == 1)).setBit Reg.BOOT_STATUS 1 t).setBit Reg.BOOT_STATUS 2 k.fallback
  let s := (s.setR Reg.FW_BUILD (imgBuild img)).setF Reg.SVN_STATUS 15 8 (imgSvn img)
  s.setBoot { s.boot with fwDigest := imgDigest img, vendorKey := imgKey img }

/-- Step 6 of R437: the configuration is applied, with what R452 shows of it. -/
def State.runConfig (s : State) (k : BootPick) : State :=
  let img := s.flashSlot (imageSlot 2 k.side)
  let t := !k.fallback && s.boot.flash.dir.trial 2
  let y := s.sys
  let r := State.cfgApply img (cfgSteps img) 0 { s with sys := { y with dev := .standby } }
  let s : State := { r.1 with sys := { r.1.sys with dev := y.dev } }
  let s := ((s.setBit Reg.BOOT_STATUS 3 (k.side == 1)).setBit Reg.BOOT_STATUS 4 t).setBit Reg.BOOT_STATUS 5 k.fallback
  let s := ((s.setR Reg.CFG_ID (flashField img (4096 + 32) 4)).setF Reg.SVN_STATUS 23 16 (imgSvn img)).setR Reg.BOOT_CFG_SKIPPED r.2.2
  s.setBoot { s.boot with cfgDigest := imgDigest img, ownerKeyHash := flashAt img 4096 32 }

/-! ## Calibration record (step 7, R425) -/

/-- The temperature of comb c's calibration, as the record gives it for its first stop timer. -/
def State.recordTemp (s : State) (c : Nat) : Int := signed 16 (s.cal.timers.get (0, 0) ((combTimers c).headD 0)).2

/-- R425: the newest valid record is loaded, or `NO_RECORD` is set. -/
def State.loadRecord (s : State) : State :=
  let s := s.when (!s.cal.torn.isEmpty) fun s => s.flag Reg.CAL_FLAGS 3
  match s.newestRec with
  | none => s.setBit Reg.CAL_STATUS 7 true
  | some r =>
    let s := s.each r.entries.zipIdx fun s e => if s.calAbsent e.2 then s else s.setCalEntry e.2 e.1
    let s := s.takeEffect fun a => (List.range 2).any (fun x => a == Reg.AX_ANG_OFS x || a == Reg.AX_ANG_GAIN x) ||
      (List.range 8).any fun t => a == Reg.DET_RANGE_OFS t
    let t : Tbl (List Byte) := r.templates.zipIdx.foldl (fun t e => t.set blankTpl e.2 e.1) ⟨[]⟩
    let s : State := { s with det := { s.det with tplA := t, tplB := t } }
    let s := s.each (List.range s.variant.combs) fun s c => s.markCal c (s.recordTemp c) true false
    let mean := divRound ((List.range s.variant.combs).map s.recordTemp).sum s.variant.combs
    ((s.setCal { s.cal with fullMean := some mean }).setF Reg.CAL_STATUS 31 16 r.seq).syncDue

/-! ## Self-test (step 8) -/

/-- R385, R388: the planners after their self-test. -/
def State.bootPlanners (s : State) (a b : Bool) : State :=
  let act := if a then 0 else 1
  let s := s.each [0, 1] fun s x =>
    let ok := if x = 0 then a else b
    s.setPlanner x (if !ok then 6 else if x = act then 4 else 2)
  if a || b then ((s.setF Reg.PLAN_PAIR_STATUS 0 0 act).setClaim act 1) else s

/-- R430, R491: the mode of the flash interface after step 2: the fastest that SFDP offers, at 3.3 V at most 1-4-4. -/
def State.fastMode (s : State) (sfdp : FlashMode) : FlashMode := if s.power.flSampled && sfdp == .octal then .quad else sfdp

/-- R446: the identity key is derived. The first boot programs its hash into fuses; a later one compares. -/
def State.checkIdentity (s : State) (r : BootReport) : State × Bool :=
  let h := sha3_256 (r.idKey.getD s.idPublicKey)
  match s.boot.fuses.idHash with
  | none => (s.setBoot { s.boot with fuses := { s.boot.fuses with idHash := some h } }, true)
  | some f => (s, f == h)

/-- Step 8 of R437 with what it finds; `none` where it fails. -/
def State.selftest (s : State) (r : BootReport) : State × Bool :=
  let s := s.bootPlanners r.planA r.planB
  let s := s.endSelftest (failedChans r.rxTest)
  let hives := s.variant.hives
  let s := s.each (r.engBad.filter fun e => decide (4 ≤ e ∧ e < 128 * hives)) State.fence
  (s, (r.planA || r.planB) && s.clk.bootOk && r.memOk && !r.engBad.any fun e => decide (e < 4))

/-! ## Recorder (step 9, R462) -/

/-- Step 9 of R437: a ring left with unflushed entries is flushed, and the flush ends, or is cut after `pages`, before STANDBY (R30, R460). -/
def State.bootRecorder (s : State) (pages : Option Nat) : State :=
  let left := decide (s.recFlushed < maxSeq s.ringEntries)
  let torn := s.recorder.slots.entries.any fun e => e.2.header.isNone && e.2.seqs.any (·.ok)
  let s := ((s.when torn fun s => s.flag Reg.REC_FLAGS 3).setR Reg.REC_NEXT_SEQ s.recNext).post Rec.BOOT (s.r Reg.BOOT_COUNT % 65536)
  if !left then s.startErase
  else
    let s := s.flushTrigger 6
    match s.recorder.flush, pages with
    | some f, none => s.flushDone f
    | some f, some n => s.flushCut f n
    | none, _ => s.startErase

/-! ## STANDBY (step 10) -/

/-- R412: fuses are programmed only below 110 °C. -/
def State.fuseCool (s : State) : Bool :=
  match s.tPol with
  | some (t, _) => decide (t < 110 * 64)
  | none => true

/-- R444: `UPDATE_DONE` of a kind; `count` is the anti-rollback count that it reports. -/
def State.updateDone (s : State) (kind : Nat) (k : BootPick) (count : Nat) : State :=
  let a := s.boot.flash.dir.active kind
  let img := s.flashSlot (imageSlot kind a)
  s.raise Ev.UPDATE_DONE .all
    (leBytes 1 kind ++ leBytes 1 (a + 2 * b2n k.reverted) ++ leBytes 1 (imgSvn img) ++ leBytes 1 count ++ leBytes 4 (imgBuild img))

/-- R440: the count that programming heads for: the largest `SVN` of the confirmed images, which are those that run and that the directory names active; a fallback may be one, by a
reverted trial. -/
def State.svnTarget (s : State) (fw cfg : BootPick) : Nat :=
  let d := s.boot.flash.dir
  let one (k : BootPick) (kind svn : Nat) : Nat := if d.active kind = k.side then svn else 0
  max s.boot.fuses.svn (max (one fw 1 (s.f Reg.SVN_STATUS 15 8)) (one cfg 2 (s.f Reg.SVN_STATUS 23 16)))

/-- Step 10: STANDBY, with slots on trial confirmed, the anti-rollback target set and the kinds reported (R438, R440, R444). -/
def State.bootStandby (s : State) (fw cfg : BootPick) : State :=
  let d := s.boot.flash.dir
  let cf := d.trial 1 && !fw.fallback
  let cc := d.trial 2 && !cfg.fallback
  let d := if cf then d.confirm 1 else d
  let d := if cc then d.confirm 2 else d
  let s := if cf || cc then s.setFlash (s.boot.flash.putDir d) else s
  let s := (s.setBit Reg.BOOT_STATUS 1 false).setBit Reg.BOOT_STATUS 4 false
  let target := if cf || cc then s.svnTarget fw cfg else s.boot.fuses.svn
  let waits := decide (s.boot.fuses.svn < target) && !s.fuseCool
  let s := (s.setF Reg.SVN_STATUS 31 24 target).when waits fun s => s.flag Reg.BOOT_FLAGS 3
  let s := s.setR Reg.BOOT_TIME (min 0xFFFF (toMs s.now))
  let s := (s.transition .standby 0x10 false).settle
  let count := if waits then s.boot.fuses.svn else target
  let s := s.when (cf || fw.reverted) fun s => s.updateDone 1 fw count
  s.when (cc || cfg.reverted) fun s => s.updateDone 2 cfg count

/-- R437 from the end of step 2 on. -/
def State.bootOn (s : State) (r : BootReport) (revF revC : Bool) : State :=
  let pf := s.pickImage 1 revF
  match pf.2 with
  | none => pf.1.halt 0x11
  | some fw =>
    if !r.dramOk then pf.1.halt 0x12
    else
      let s := pf.1.runFirmware fw
      let ci := State.checkIdentity (s.setBoot { s.boot with dramUp := true }) r
      let s := ci.1
      if !ci.2 then s.halt 0x13
      else
        let pc := s.pickImage 2 revC
        match pc.2 with
        | none => pc.1.halt 0x11
        | some cfg =>
          let t := ((pc.1.runConfig cfg).loadRecord).selftest r
          if t.2 then (t.1.bootRecorder r.flushPages).bootStandby fw cfg else t.1.halt 0x13

/-- BOOT_DONE (R437 to R440, TRIAL_SLOT_CONFIRM): the boot sequence ends, in STANDBY or in FAULT_HALT. -/
def execBootDone (r : BootReport) (s : State) : Host.Outcome State Fault Refusal :=
  .next (if s.dev ≠ .boot then s
  else
    let b := s.bootDirectory
    let s := ((b.1.setBit Reg.BOOT_STATUS 6 b.1.boot.fuses.ownerHash.isSome).setBit Reg.BOOT_STATUS 7 b.1.boot.flash.cert.isSome).setF
      Reg.SVN_STATUS 7 0 b.1.boot.fuses.svn
    let s := s.setBoot { s.boot with flashMode := s.fastMode r.sfdp }
    s.bootOn r b.2.1 b.2.2)

/-- SVN_FUSE_STEP (R440): one step of the fuse counter, which has 64, in STANDBY and below 110 °C; hotter, or in another state, it waits. -/
def execSvnFuseStep (s : State) : Host.Outcome State Fault Refusal :=
  .next (if s.dev = .reset ∨ min 64 (s.f Reg.SVN_STATUS 31 24) ≤ s.boot.fuses.svn then s
  else if s.dev ≠ .standby ∨ !s.fuseCool then s.flag Reg.BOOT_FLAGS 3
  else
    let n := s.boot.fuses.svn + 1
    (s.setBoot { s.boot with fuses := { s.boot.fuses with svn := n } }).setF Reg.SVN_STATUS 7 0 n)

end Sys2Proof.Machine
end

