-- ==== Sys2Proof/Machine/CalCmds.lean ====
section
/-!
DEFINITION. Machine/CalCmds.lean: the commands that start calibration runs (R420, R421).
-/

namespace Sys2Proof.Machine

/-- CALIBRATE_FULL (R421): the run begins at the next frame boundary, as the transition of a state-changing command (R27). -/
def State.doCalibrateFull (s : State) (p : Nat) (x : QCmd) : Reply :=
  s.accept Op.CALIBRATE_FULL p x

/-- CALIBRATE_FULL: the command by its rule and its effect. -/
def execCalibrateFull (c : Cmd) (s : State) : Host.Outcome State Fault Refusal := s.runCommand (stateRule Op.CALIBRATE_FULL [.sensing, .degraded]) (fun p x s => s.doCalibrateFull p x) c

def calibrateCombRule : CmdRule :=
  { opcode := Op.CALIBRATE_COMB, roles := ownerOnly, states := [.armed, .sensing, .degraded], len := exactly 4, fields := [0, 1] }

/-- R420: comb c becomes due; one that is being run is `BUSY` (R428). -/
def State.nameComb (s : State) (c : Nat) : Reply :=
  if 32 ≤ c then s.fail Sts.BAD_PARAM 0
  else if s.variant.combs ≤ c then s.fail Sts.NOT_PRESENT 0
  else if s.cal.run.any fun r => r.comb == c then s.fail Sts.BUSY
  else ((s.setCal { s.cal with named := [c] }).syncDue).ok

/-- CALIBRATE_COMB (R420): it completes with `COMMAND_DONE` at the end of the run. -/
def State.doCalibrateComb (s : State) (p : Nat) (x : QCmd) : Reply :=
  s.startRunning Op.CALIBRATE_COMB p x.cmd.tag.toNat fun s => s.nameComb (fieldAt x.cmd.params 0 1)

/-- CALIBRATE_COMB: the command by its rule and its effect. -/
def execCalibrateComb (c : Cmd) (s : State) : Host.Outcome State Fault Refusal := s.runCommand calibrateCombRule (fun p x s => s.doCalibrateComb p x) c

end Sys2Proof.Machine
end

