-- ==== Sys2Proof/Machine/CapCmds.lean ====
section
/-!
DEFINITION. Machine/CapCmds.lean: the commands of the capture engine (R283, R286, R499).
-/

namespace Sys2Proof.Machine

def captureRule (opcode n : Nat) : CmdRule := { opcode, roles := ownerOnly, len := exactly n, fields := [0, 1] }

/-- CAPTURE_ARM (R286). -/
def State.doCaptureArm (s : State) (_ : Nat) (_ : QCmd) : Reply :=
  s.captureArm.ok

/-- CAPTURE_ARM: the command by its rule and its effect. -/
def execCaptureArm (c : Cmd) (s : State) : Host.Outcome State Fault Refusal := s.runCommand (captureRule Op.CAPTURE_ARM 0) (fun p x s => s.doCaptureArm p x) c

/-- CAPTURE_STOP (R284, R499): in `IDLE` nothing changes. -/
def State.doCaptureStop (s : State) (_ : Nat) (_ : QCmd) : Reply :=
  (if s.capSt = 0 then s else s.captureStop).ok

/-- CAPTURE_STOP: the command by its rule and its effect. -/
def execCaptureStop (c : Cmd) (s : State) : Host.Outcome State Fault Refusal := s.runCommand (captureRule Op.CAPTURE_STOP 0) (fun p x s => s.doCaptureStop p x) c

def captureTriggerRule : CmdRule := { opcode := Op.CAPTURE_TRIGGER, roles := [.owner, .client], len := exactly 0 }

/-- CAPTURE_TRIGGER (R283): a trigger of source `COMMAND`, its detail the port. -/
def State.doCaptureTrigger (s : State) (p : Nat) (x : QCmd) : Reply :=
  (s.trigger 0 p x.rx).ok

/-- CAPTURE_TRIGGER: the command by its rule and its effect. -/
def execCaptureTrigger (c : Cmd) (s : State) : Host.Outcome State Fault Refusal := s.runCommand captureTriggerRule (fun p x s => s.doCaptureTrigger p x) c

def captureReadRule : CmdRule := { opcode := Op.CAPTURE_READ, roles := [.owner, .client, .observer], len := exactly 12, fields := [0, 1, 4, 8, 10] }

/-- R499: a byte range of a slot, as port p may read it. -/
def State.readCapture (s : State) (p slot offset length : Nat) : Reply :=
  let b := (s.capSlot slot).bytes
  if s.capSlots ≤ slot then s.fail Sts.BAD_PARAM 0
  else if (s.capSlot slot).st ≠ 2 then s.fail Sts.BAD_STATE
  else if length = 0 ∨ (if p = 4 then 1000 else 4064) < length then s.fail Sts.BAD_PARAM 8
  else if b.length < offset + length then s.fail Sts.BAD_PARAM 4
  else s.ok (leBytes 4 offset ++ leBytes 2 length ++ leBytes 2 0 ++ bytesAt b offset length)

/-- CAPTURE_READ (R499). -/
def State.doCaptureRead (s : State) (p : Nat) (x : QCmd) : Reply :=
  s.readCapture p (fieldAt x.cmd.params 0 1) (fieldAt x.cmd.params 4 4) (fieldAt x.cmd.params 8 2)

/-- CAPTURE_READ: the command by its rule and its effect. -/
def execCaptureRead (c : Cmd) (s : State) : Host.Outcome State Fault Refusal := s.runCommand captureReadRule (fun p x s => s.doCaptureRead p x) c

/-- R499: free a slot. -/
def State.freeCapture (s : State) (slot : Nat) : Reply :=
  if s.capSlots ≤ slot then s.fail Sts.BAD_PARAM 0
  else if (s.capSlot slot).st ≠ 2 then s.fail Sts.BAD_STATE
  else (s.captureFree slot).ok

/-- CAPTURE_FREE (R499). -/
def State.doCaptureFree (s : State) (_ : Nat) (x : QCmd) : Reply :=
  s.freeCapture (fieldAt x.cmd.params 0 1)

/-- CAPTURE_FREE: the command by its rule and its effect. -/
def execCaptureFree (c : Cmd) (s : State) : Host.Outcome State Fault Refusal := s.runCommand (captureRule Op.CAPTURE_FREE 4) (fun p x s => s.doCaptureFree p x) c

end Sys2Proof.Machine
end

