-- ==== Sys2Proof/Machine/DetRows.lean ====
section
/-!
DEFINITION. Machine/DetRows.lean: the meanings of the rows of combs, verdicts, hives, the chain and the foreign-emitter finder
(chapters 8 to 11).
-/

namespace Sys2Proof.Machine

/-! ## Combs (chapter 8) -/

/-- EVENT_WORD_BINNED (R198): the binning unit of comb c takes its oldest event word. -/
def execEventWordBinned (c : Fin 32) (s : State) : Host.Outcome State Fault Refusal := .next (s.binEvent c)

/-- CLOSE_WORD (R180): comb c acts on its oldest close word, once it has read event words up to `WCOUNT`. -/
def execCloseWord (c : Fin 32) (s : State) : Host.Outcome State Fault Refusal := .next (s.actClose c)

/-- BATCH_COMPLETE (R201): the oldest complete batch of segment g in comb c is tested and its verdict word is queued; a full verdict FIFO
makes it wait. -/
def execBatchComplete (c : Fin 32) (g : Fin 64) (s : State) : Host.Outcome State Fault Refusal :=
  .next (match s.dueBatch c g with
    | some (key, k) => if (s.comb c).verdicts.length < 32 then s.testBatch c key g k else s
    | none => s)

/-- EXPORT_SCAN_DONE (R205): the export passes of the oldest closed column of comb c end. -/
def execExportScanDone (c : Fin 32) (s : State) : Host.Outcome State Fault Refusal := .next ((s.exportScan c).assemble)

/-! ## Verdicts (R17, R56) -/

/-- R17: a verdict is late. -/
def State.lateVerdict (s : State) : State := (s.inc Reg.LOOP_LATE_VERDICT).flag Reg.LOOP_LATE_FLAGS 2

/-- R39, R56: the channels that a verdict word stops in a segment-column. -/
def State.stopList (s : State) (c : ColPlan) (v : Verdict) : List Nat :=
  match c.seg? v.seg with
  | none => []
  | some p => ((List.range 16).map (16 * v.comb + ·)).filter fun ch =>
      (s.segChannels v.seg).contains ch && p.estop && (bitN v.echo (ch % 16) || (bitN v.empty (ch % 16) && p.empty)) &&
        decide (p.min ≤ (s.pt (ptKey v.key ch)).fired)

/-- R17: more than 1 µs after the listening window of its batch a verdict is late (log entry 73). -/
def State.verdictLate (s : State) (v : Verdict) : Bool :=
  match v.closedAt with
  | some t => decide (t + 1000 < s.now)
  | none => false

/-- R55, R56: the planner applies a verdict word. One that comes after the close is late and discarded; any other is applied, late or not (R17). -/
def State.applyVerdict (s : State) (v : Verdict) : State :=
  match s.col v.key with
  | none => s.lateVerdict
  | some c =>
    if c.closed ∨ c.column ≠ v.column then s.lateVerdict
    else
      let s := s.when (s.verdictLate v) State.lateVerdict
      let s := s.each (s.stopList c v) fun s ch => s.modPt (ptKey v.key ch) fun p => { p with stopped := true }
      let s := s.modSeg v.key v.seg fun p => { p with verdicts := max p.verdicts (v.batch + 1) }
      s.reallocate v.key

/-- VERDICT_ARRIVAL (R17): the oldest verdict word of comb c reaches the planner. -/
def execVerdictArrival (c : Fin 32) (s : State) : Host.Outcome State Fault Refusal :=
  .next (match (s.comb c).verdicts with
    | [] => s
    | v :: vs => ((s.setComb c { s.comb c with verdicts := vs }).applyVerdict v).loopLate (s.r Reg.LOOP_LATE_FLAGS))

/-! ## Hives and the chain (chapters 10 and 11) -/

/-- HIVE_DISPATCH (R233, R234): the dispatcher of hive h gives a waiting record to an engine, spills or drops it. -/
def execHiveDispatch (h : Fin 8) (s : State) : Host.Outcome State Fault Refusal := .next ((s.hiveDispatch h).assemble)

/-- POINT_DETECTION_DONE (R233): point engine e finishes its record. -/
def execPointDetectionDone (e : Fin 1024) (s : State) : Host.Outcome State Fault Refusal := .next ((s.pointDone e).assemble)

/-- ENGINE_CHECK (R236): the engine of hive h whose turn it is runs its check kernel, once per frame; `pass` is the comparison with the fixed
vectors. A point engine that fails is fenced; a merge engine that fails stops the NL5. -/
def execEngineCheck (h : Fin 8) (pass : Bool) (s : State) : Host.Outcome State Fault Refusal :=
  let x := s.hive h
  .next (if s.variant.hives ≤ h.val ∨ x.checked ∨ ¬ s.dev.anyState then s
    else
      let e := 128 * h.val + x.turn
      let s := s.setHive h { x with turn := (x.turn + 1) % 128, checked := true }
      if pass then s
      else if mergeEngine e then s.halt 0x73
      else (s.fence e).assemble)

/-- CHAIN_WINDOW_DONE (R258): the chain of hive h finishes the window at the front of its queue; `memErr` tells an uncorrectable error in its
buffers (R269). -/
def execChainWindowDone (h : Fin 8) (memErr : Bool) (s : State) : Host.Outcome State Fault Refusal :=
  .next ((if memErr then s.chainMemErr h else s.chainWindow h).assemble)

/-! ## The foreign-emitter finder (R216 to R219) -/

/-- FE_STRONG_EVENT (R217, R230): the finder takes the oldest strong event of its queue, one every 10 ns; none in CALIBRATING. -/
def execFeStrongEvent (s : State) : Host.Outcome State Fault Refusal :=
  let due : Bool := match s.rej.feTaken with
    | some t => decide (t + 10 ≤ s.now)
    | none => true
  let due := due && s.dev != .calibrating
  .next (match s.rej.feQueue with
    | [] => s
    | q :: qs => if due then ({ s with rej := { s.rej with feQueue := qs } }).feTake q else s)

/-- FE_CONTEXT_EXPIRY (R219): context i has had no hit for 1 ms while LEARNING, or for `FE_HOLD` while LOCKED. -/
def execFeContextExpiry (i : Fin 64) (s : State) : Host.Outcome State Fault Refusal :=
  let since := s.now - s.rej.ctxHit.get 0 i
  let limit := if s.feSt i = 2 then 1000000 * s.ef Reg.FE_CFG 31 16 else 1000000
  .next (if s.feSt i = 0 ∨ since < limit then s else (s.feFree i).syncFe)

end Sys2Proof.Machine
end

