-- ==== Sys2Proof/Machine/FrameRows.lean ====
section
/-!
DEFINITION. Machine/FrameRows.lean: the events of the column loop: planning and posting columns, their start and close, and frame boundaries.
-/

namespace Sys2Proof.Machine

/-- FRAME_BOUNDARY (R20, R272): 10 µs after a source event. -/
def execFrameBoundary (s : State) : Host.Outcome State Fault Refusal :=
  .next (match s.sync.dueAt with
  | some t => if s.sync.span ∧ t ≤ s.now then s.frameBoundary false else s
  | none => s)

/-- FLYWHEEL_BOUNDARY (R273): the source is missing. -/
def execFlywheelBoundary (s : State) : Host.Outcome State Fault Refusal :=
  .next (if s.flyDue then ((s.flag Reg.SWARM_FLAGS 3).inc Reg.FRAME_FLY_COUNT).frameBoundary true else s)

/-- FRAME_CUT_EDGE_REACHED (R60, R129): the mirror has reached the edge after a cut, and the new frame's first column starts. -/
def execFrameCutEdgeReached (s : State) : Host.Outcome State Fault Refusal :=
  .next (if s.plan.cutDrive ∧ s.plan.running ∧ s.plan.swept < s.columns ∧ (s.moveDone 0 ∨ (s.axState 0 ≠ 1 ∧ s.axState 0 ≠ 2)) then
    (s.setPlan { s.plan with cutDrive := false, lateBoundary := true }).startColumn
  else s)

/-- COLUMN_PLAN (R49): the planner plans its next column. -/
def execColumnPlan (s : State) : Host.Outcome State Fault Refusal := .next s.planStep

/-- VELOCITY_SEGMENT_POST (R53, R389, R392): the planner posts its next segment. `fault` tells that the segment is out of column order or names a
column outside `COLUMNS`: it is not taken, and its planner is declared failed. -/
def execVelocitySegmentPost (fault : Bool) (s : State) : Host.Outcome State Fault Refusal :=
  .next (if fault then (if s.planning ∧ s.plannerSt s.activePlanner = 4 then s.failPlanner 5 else s) else s.postSegment)

/-- COLUMN_START (R126): the next column's start stamp is reached. -/
def execColumnStart (s : State) : Host.Outcome State Fault Refusal :=
  .next (match s.nextStart with
  | some t => if t ≤ s.now then s.startColumn else s
  | none => s)

/-- COLUMN_CLOSE (R19): the column whose last listening window has ended closes. -/
def execColumnClose (s : State) : Host.Outcome State Fault Refusal :=
  .next (match s.closable with
  | e :: _ => s.closeColumn e.1
  | [] => s)

/-- PLANNER_MICROSECOND (R55): at a 1 µs boundary the planner withdraws and queues batches of the column that is swept. -/
def execPlannerMicrosecond (s : State) : Host.Outcome State Fault Refusal :=
  .next (match s.plan.openCol with
  | some key =>
    match s.col key with
    | some c => if c.gap ∨ c.closed ∨ ¬ s.planning then s else s.reallocate key
    | none => s
  | none => s)

end Sys2Proof.Machine
end

