-- ==== Sys2Proof/Machine/HealthCmds.lean ====
section
/-!
DEFINITION. Machine/HealthCmds.lean: the health report (R406) and the commands of the Stolost recorder (R458, R463, R464).
-/

namespace Sys2Proof.Machine

/-- The registers of the health report, in order (R406). -/
def healthRegs : List Nat :=
  [Reg.HEALTH_SUMMARY, Reg.PLAN_PAIR_STATUS, Reg.GATE_CLAIM, Reg.CLAIM_AB, Reg.FAILOVER_COUNT, Reg.FAILOVER_LAST, Reg.CKPT_STATUS,
   Reg.PLAN_TEST_A, Reg.PLAN_TEST_B, Reg.SSN_STATUS, Reg.PAIR_STATUS 0, Reg.PAIR_STATUS 1] ++ (List.range 6).map Reg.ECC

/-- The 72 bytes of `HEALTH_READ`; a fused-off register reads 0. -/
def State.health (s : State) : List Byte :=
  (healthRegs.map fun a => leBytes 4 (if a = Reg.PLAN_PAIR_STATUS then s.pairStatus.toNat else s.r a)).flatten

def healthRule : CmdRule := { opcode := Op.HEALTH_READ, len := exactly 0 }

/-- HEALTH_READ (R406). -/
def State.doHealthRead (s : State) (_ : Nat) (_ : QCmd) : Reply :=
  s.ok s.health

/-- HEALTH_READ: the command by its rule and its effect. -/
def execHealthRead (c : Cmd) (s : State) : Host.Outcome State Fault Refusal := s.runCommand healthRule (fun p x s => s.doHealthRead p x) c

def recorderReadRule : CmdRule := { opcode := Op.RECORDER_READ, len := exactly 8, fields := [0, 1, 2, 4, 6] }

/-- R464: `count` units of a source from unit `first`, after the 8 parameter bytes. -/
def State.readUnits (s : State) (p : Nat) (params : List Byte) (source first count : Nat) : Reply :=
  if 8 < source then s.fail Sts.BAD_PARAM 0
  else if count = 0 ∨ (if p = 4 then 62 else 254) < count then s.fail Sts.BAD_PARAM 4
  else if 4096 < first + count then s.fail Sts.BAD_PARAM 2
  else s.ok (bytesAt params 0 8 ++ ((List.range count).map fun i => s.recUnit source (first + i)).flatten)

/-- RECORDER_READ (R464). -/
def State.doRecorderRead (s : State) (p : Nat) (x : QCmd) : Reply :=
  s.readUnits p x.cmd.params (fieldAt x.cmd.params 0 1) (fieldAt x.cmd.params 2 2) (fieldAt x.cmd.params 4 2)

/-- RECORDER_READ: the command by its rule and its effect. -/
def execRecorderRead (c : Cmd) (s : State) : Host.Outcome State Fault Refusal := s.runCommand recorderReadRule (fun p x s => s.doRecorderRead p x) c

def recorderFlushRule : CmdRule := { opcode := Op.RECORDER_FLUSH, roles := [.owner, .safety], len := exactly 0 }

/-- R458, R463: a flush with trigger 1; in THERMAL_STOP it is `BUSY`. -/
def State.commandFlush (s : State) : Reply :=
  if s.dev = .thermalStop then s.fail Sts.BUSY
  else ((s.setRec { s.recorder with cmdNext := true }).flushTrigger 1).ok

/-- RECORDER_FLUSH (R458, R463). -/
def State.doRecorderFlush (s : State) (p : Nat) (x : QCmd) : Reply :=
  s.startRunning Op.RECORDER_FLUSH p x.cmd.tag.toNat fun s => s.commandFlush

/-- RECORDER_FLUSH: the command by its rule and its effect. -/
def execRecorderFlush (c : Cmd) (s : State) : Host.Outcome State Fault Refusal := s.runCommand recorderFlushRule (fun p x s => s.doRecorderFlush p x) c

end Sys2Proof.Machine
end

