-- ==== Sys2Proof/Machine/PowerRows.lean ====
section
/-!
DEFINITION. Machine/PowerRows.lean: supplies and reset (R477 to R481, R356): rails, brown-out, `RESET_N`, the release of reset, and the delayed
reset of `RESET_DEVICE`.
-/

namespace Sys2Proof.Machine

def State.setPower (s : State) (x : Power) : State := { s with power := x }

/-- R480: whether any rail is known to be low. -/
def Power.anyLow (p : Power) : Bool := (List.range 9).any fun k => (p.lowSince.get none k).isSome

/-- R480: a rail has been low for 2 µs. -/
def Power.brown (p : Power) (now : Nat) : Bool := (List.range 9).any fun k => (p.lowSince.get none k).any fun t => decide (t + 2000 ≤ now)

/-- R480: every rail above 93 % of nominal. -/
def Power.allUp (p : Power) : Bool := (List.range 9).all fun k => decide (93 * nominalUv k < 100 * p.rail k)

/-- R479, R455: a ring whose retention SRAM lost power holds entries that fail their check words. -/
def State.loseRing (s : State) : State :=
  { s with recorder := { s.recorder with ring :=
    ⟨s.recorder.ring.entries.map fun e => (e.1, e.2.map fun x => { x with ok := false })⟩ } }

/-- POWER_RAIL_CHANGE (R478, R480): a rail is now at a value; what the always-on domain finds follows. `VDD_SRAM` below its minimum of 820 mV loses the ring. -/
def execPowerRailChange (rail : Fin 9) (uv : Nat) (s : State) : Host.Outcome State Fault Refusal :=
  let p : Power := { s.power with rails := s.power.rails.set none rail (some uv) }
  let p : Power := { p with
    lowSince := p.lowSince.set none rail (if p.low rail then some ((p.lowSince.get none rail).getD s.now) else none)
    okSince := if p.allUp then some (p.okSince.getD s.now) else none }
  let s := s.setPower p
  .next (if rail.val = 1 ∧ uv < 820000 then s.loseRing else s)

/-- Every register and every store of the chip at its reset value; flash, fuses, the recorder's ring in retention SRAM, the balls and the
test port stay (R16, R30, R472, R479). -/
def State.atReset (s : State) : State :=
  let r := State.reset
  let r : State := { r with
    variant := s.variant, pending := s.pending, now := s.now, freeCtr := s.freeCtr, power := s.power, tap := s.tap
    sys := { dev := .reset, prev := s.sys.prev, cause := s.sys.cause }
    recorder := { ring := s.recorder.ring, slots := s.recorder.slots }
    cal := { slots := s.cal.slots, torn := s.cal.torn }
    boot := { flash := s.boot.flash, fuses := s.boot.fuses }
    rx := { blankPin := s.rx.blankPin }
    emit := { r.emit with faultLow := s.emit.faultLow }
    red := { ssnExtLow := s.red.ssnExtLow } }
  (r.setF Reg.SYS_STATE 15 8 s.sys.cause).syncFaultIn

/-- R457: the `STATE` entry of a transition into RESET, written to the ring behind the entries that wait; a ring without its supply holds none of them. -/
def State.recordReset (s : State) (cause : Nat) : State :=
  if s.dev = .reset then s
  else
    let from_ := s.dev
    let s := State.drainRec 64 s
    let s : State := { s with sys := { s.sys with dev := .reset, prev := from_, cause } }
    let s := s.writeRec Rec.STATE (cause + 256 * from_.code) s.timeUs
    s.when (decide (s.power.rail 1 < 820000)) State.loseRing

/-- RESET with a cause code. What was being programmed is abandoned (R416, R450, R497). -/
def State.enterReset (s : State) (cause : Nat) : State :=
  let s := ((s.cutBoot.cutFuses.abandonFlush.abortSave).recordReset cause)
  State.atReset { s with sys := { s.sys with cause } }

/-- BROWN_OUT (R480): a rail has been below 90 % of nominal for 2 µs. The test port loses its state with every other (R479). -/
def execBrownOut (s : State) : Host.Outcome State Fault Refusal :=
  .next (if s.power.brown s.now then { s.enterReset 1 with tap := {} } else s)

/-- R492, R497: as `RESET_N` rises, an instruction that takes the balls becomes `BYPASS`. -/
def Tap.released (t : Tap) : Tap :=
  match t.instr with
  | .extest | .extestPulse | .extestTrain | .highz | .clamp => { t with instr := .bypass, data := 0 }
  | _ => t

/-- RESET_N_INPUT (R481): the level of `RESET_N` after its glitch filter, which has lasted `ns`. A low level of 1 µs resets the NL5. -/
def execResetNInput (high : Bool) (ns : Nat) (s : State) : Host.Outcome State Fault Refusal :=
  .next (if high then
    (if s.power.resetN then s
     else { s.setPower { s.power with resetN := true, resetAt := s.now } with tap := s.tap.released })
  else if ns < 1000 then s
  else
    let s := if s.dev = .reset then s else s.enterReset 2
    s.setPower { s.power with resetN := false })

/-- R33, R455, R472: what leaving RESET does: every register at its reset value, BOOT with device time 0, and the recorder's scan of ring and slots. -/
def State.leaveReset (s : State) (flSel : Bool) : State :=
  let s := s.atReset
  let s : State := { s with
    now := 0, sys := { s.sys with dev := .boot, prev := .reset }
    power := { s.power with okSince := some 0, resetAt := 0, flSel, flSampled := flSel } }
  (s.setR Reg.REC_NEXT_SEQ s.recScan).syncRec

/-- RESET_RELEASE (R480, R491, R33): 1 ms after the later of all rails above 93 % and `RESET_N` high: `FL_SEL` is sampled and BOOT begins. -/
def execResetRelease (flSel : Bool) (s : State) : Host.Outcome State Fault Refusal :=
  .next (match s.power.okSince with
  | none => s
  | some t =>
    if s.dev ≠ .reset ∨ !s.power.resetN ∨ s.power.anyLow ∨ s.now < max t s.power.resetAt + 1000000 then s
    else s.leaveReset flSel)

/-- RESET_DEVICE_EXPIRY (R356): 1 ms after the reply to `RESET_DEVICE` the NL5 resets with cause 0x03. -/
def execResetDeviceExpiry (s : State) : Host.Outcome State Fault Refusal :=
  .next (match s.sys.resetAt with
  | none => s
  | some t => if s.now < t then s else s.enterReset 3)

end Sys2Proof.Machine
end

