-- ==== Sys2Proof/Machine/RedRows.lean ====
section
/-!
DEFINITION. Machine/RedRows.lean: the meanings of the rows of redundancy, `SAFE_STATE_N` and memory errors (chapter 17, R23).
-/

namespace Sys2Proof.Machine

/-- The states in which the supervisor and the planners work on their own account. -/
def State.supervised (s : State) : Bool := s.dev != .reset && s.dev != .faultHalt

/-! ## Planners (R386, R390 to R393) -/

/-- STANDBY_SELFTEST (R390): 10 ms after the last one, the self-test of planner x in `READY` ends; `pass` is the comparison with the stored
signature and the march test. -/
def execStandbySelftest (x : Fin 2) (pass : Bool) (s : State) : Host.Outcome State Fault Refusal :=
  let due : Bool := match s.red.testStart.get none x with
    | some t => decide (t + 10000000 ≤ s.now)
    | none => true
  .next (if s.plannerSt x ≠ 2 ∨ s.dev = .boot ∨ ¬ s.supervised ∨ ¬ due then s
    else
      let a := if x = 0 then Reg.PLAN_TEST_A else Reg.PLAN_TEST_B
      let s := s.setRed { s.red with testStart := s.red.testStart.set none x (some s.now) }
      if pass then (s.addF a 15 0 1).setHealth 7 false
      else (((s.addF a 31 16 1).setHealth 7 true).setPlanner x 5).settle)

/-- PLANNER_RETEST (R391): `RETEST_DELAY` after planner x failed, its full self-test has run; in FAULT_HALT too. A planner that passes rejoins, unless it has rejoined
`REJOIN_MAX` times; otherwise it is `LOST`. -/
def execPlannerRetest (x : Fin 2) (pass : Bool) (s : State) : Host.Outcome State Fault Refusal :=
  let due : Bool := match s.red.failedAt.get none x with
    | some t => decide (t + 1000000 * s.f Reg.RED_CTRL 31 16 ≤ s.now)
    | none => false
  .next (if s.plannerSt x ≠ 5 ∨ s.dev = .reset ∨ ¬ due then s
    else
      let n := s.f Reg.PLAN_PAIR_STATUS (4 * x + 11) (4 * x + 8)
      if pass ∧ n < s.f Reg.RED_CTRL 11 8 then
        ((s.setPlanner x 2).setF Reg.PLAN_PAIR_STATUS (4 * x + 11) (4 * x + 8) (n + 1)).settle
      else (s.setPlanner x 6).settle)

/-- CHECKPOINT_RESTORED (R393): the restoring planner has read the checkpoints, of which those in the buffers named by `bad0` and `bad1` fail
their check. With a valid one, or with the mirror at rest, it takes over. -/
def execCheckpointRestored (bad0 bad1 : Bool) (s : State) : Host.Outcome State Fault Refusal :=
  .next (match s.red.takeover with
    | none => s
    | some k =>
      if k.resume.isSome then s
      else
        let s := s.when (bad0 && (s.red.ckpts.get {} 0).valid) fun s => s.badCkpt 0
        let s := s.when (bad1 && (s.red.ckpts.get {} 1).valid) fun s => s.badCkpt 1
        if s.newestCkpt.isNone ∧ (s.dev.scanning ∨ s.wag.armAt.isSome) then s else s.takeOver k)

/-- FAILOVER_TIMEOUT (R393): `FAILOVER_TIMEOUT` ms after its detection the takeover has not reached its claim. -/
def execFailoverTimeout (s : State) : Host.Outcome State Fault Refusal :=
  .next (match s.red.takeover with
    | none => s
    | some k => if k.resume.isSome ∨ s.now < k.at_ + 1000000 * s.f Reg.RED_CTRL 7 0 then s else s.bothFailed)

/-- CLAIM_TIE_TIMEOUT (R386): equal non-zero claims have lasted 1 ms. -/
def execClaimTieTimeout (s : State) : Host.Outcome State Fault Refusal :=
  .next (match s.red.tieAt with
    | none => s
    | some t => if s.now < t + 1000000 ∨ ¬ s.supervised then s else s.bothFailed)

/-! ## The supervisor and SAFE_STATE_N (R401, R402) -/

/-- R401: a lockstep mismatch or a missed watchdog window: the ball is pulled low, and FAULT_HALT with cause 0x70 follows. -/
def State.superFault (s : State) : State := if s.supervised then (s.ssnHold 5 true).halt 0x70 else s

/-- WATCHDOG_MISS (R401): the supervisor has not serviced the watchdog for 10 ms. -/
def execWatchdogMiss (s : State) : Host.Outcome State Fault Refusal := .next s.superFault

/-- LOCKSTEP_MISMATCH (R401): the supervisor's lockstep copies disagree. -/
def execLockstepMismatch (s : State) : Host.Outcome State Fault Refusal := .next s.superFault

/-- R402: what the level of the ball, which `SSN_STATUS` shows, comes to. -/
def State.ssnRead (s : State) (high : Bool) : State :=
  if ¬ s.bit Reg.SSN_STATUS 0 then s.setRed { s.red with ssnExtLow := !high, ssnHighAt := none }
  else if ¬ high then s.setRed { s.red with ssnHighAt := none }
  else
    match s.red.ssnHighAt with
    | none => s.setRed { s.red with ssnHighAt := some s.now }
    | some t => if t + 1000 < s.now then (s.flag Reg.RED_FLAGS 4).setHealth 4 true else s

/-- SSN_READBACK (R402): the ball is read back, high or low. High for more than 1 µs while driven low sets `SSN_MISMATCH`. In RESET nothing is recorded. -/
def execSsnReadback (high : Bool) (s : State) : Host.Outcome State Fault Refusal :=
  .next (if s.dev = .reset then s else (s.setBit Reg.SSN_STATUS 1 (!high)).ssnRead high)

/-! ## Memory errors (R23) -/

/-- The store x of `ECC_x` (R408). -/
def memStore : MemSite → Nat
  | .combPoint _ _ | .combExport _ _ => 0
  | .window _ _ | .engineRecord _ | .engineKernel _ | .chain _ => 1
  | .sct _ _ => 2
  | .output _ | .track _ | .checkpoint _ | .dram => 3
  | .retention _ => 4
  | .supervisor | .planner _ => 5

/-- R236: an uncorrectable error in an engine's kernel state. -/
def State.engineMemErr (s : State) (e : Nat) : State :=
  if 128 * s.variant.hives ≤ e then s else if mergeEngine e then s.halt 0x73 else (s.fence e).assemble

/-- R374 `MEM`: the oldest record that a subscription has formed and not yet packed is discarded; the header of its column stands (R362). -/
def State.outputMemErr (s : State) (ch : Nat) : State :=
  let u := s.sub ch
  let front := u.pend.takeWhile fun x => x.tag == 1 || x.tag == 4
  match u.pend.drop front.length with
  | [] => s
  | r :: rest =>
    let tail := rest.takeWhile fun x => !x.first
    let bytes := r.bytes.length + (tail.map (·.bytes.length)).sum
    (s.setSub ch { u with pend := front ++ rest.drop tail.length }).countLoss ch 3 1 bytes

/-- R23: the record of a point whose data is affected carries `MEM_ERR`. -/
def ExpRec.memErr (r : ExpRec) : ExpRec := { r with flags := setBitN r.flags 4 true }

/-- R23: what an uncorrectable error does, by where it lies. One in stacked DRAM outside the rows of the table, such as a spilled window, a capture or a ring, is only counted
(DESIGN CHOICE: log entry 104). -/
def State.memFault (s : State) (site : MemSite) : State :=
  match site with
  | .combPoint c k => (s.flag Reg.HIST_FLAGS 3).modHist c k fun h => { h with flags := setBitN h.flags 4 true }
  | .combExport c i => (s.flag Reg.HIST_FLAGS 3).setComb c { s.comb c with ring := (s.comb c).ring.modify i ExpRec.memErr }
  | .window h i => s.setHive h { s.hive h with waiting := (s.hive h).waiting.modify i fun w => { w with point := w.point.memErr } }
  | .engineRecord e =>
    match s.engine e with
    | some j => s.setEngine e (some { j with point := j.point.memErr })
    | none => s
  | .engineKernel e => s.engineMemErr e
  | .chain h => (s.chainMemErr h).assemble
  | .sct bank i =>
    let s := (s.flag Reg.PLAN_FLAGS 3).raise Ev.TABLE_ECC .all (leBytes 1 bank ++ leBytes 1 0 ++ leBytes 2 i)
    if bank = s.sctActive then { s with plan := { s.plan with eccEntries := i :: s.plan.eccEntries } } else s
  | .output ch => s.outputMemErr ch
  | .track i => if fieldAt (s.track i) 2 1 = 0 then s else s.endTrack i 3
  | .checkpoint b => if (s.red.ckpts.get {} b).valid then s.badCkpt b else s
  | .dram => s
  | .retention i =>
    match s.recorder.ring.get none i with
    | some e => (s.overtake e.seq).setRec { (s.overtake e.seq).recorder with ring := s.recorder.ring.set none i (some { e with ok := false }) }
    | none => s
  | .supervisor => s.halt 0x72
  | .planner x => s.plannerFails x 2

/-- MEMORY_ERROR (R23): a read finds an error at a site; a single-bit error is corrected and counted, an uncorrectable one acts by where it
lies. -/
def execMemoryError (site : MemSite) (uncorrectable : Bool) (s : State) : Host.Outcome State Fault Refusal :=
  .next (if s.dev = .reset then s
    else
      let s := s.eccCount (memStore site) uncorrectable
      if uncorrectable then s.memFault site else s)

end Sys2Proof.Machine
end

