-- ==== Sys2Proof/Machine/TapRows.lean ====
section
/-!
DEFINITION. Machine/TapRows.lean: the instructions of the IEEE 1149.1 test port (R492). `trst` is the level of `TRST_N`: low holds the port in its
reset, where `IDCODE` is selected.
-/

namespace Sys2Proof.Machine

def State.setTap (s : State) (x : Tap) : State := { s with tap := x }

/-- The identification code (R492). -/
def idcode : Nat := 0x1E350D4F

/-- The port in its reset: `IDCODE` is selected. -/
def State.tapReset (s : State) : State := s.setTap { s.tap with instr := .idcode, data := idcode }

/-- `BYPASS`: a one-bit register that captures 0. -/
def State.tapBypass (s : State) : State := s.setTap { s.tap with instr := .bypass, data := 0 }

/-- An instruction of R492 that is accepted only while `RESET_N` is low, and is `BYPASS` at any other time. The cells captured are free values: the spec lays out no
boundary register. -/
def State.tapBoundary (s : State) (i : TapInstr) : State :=
  if s.power.resetN then s.tapBypass else s.fresh.2.setTap { s.tap with instr := i, data := s.fresh.1 }

/-- JTAG_BYPASS (R492). -/
def execJtagBypass (trst : Bool) (s : State) : Host.Outcome State Fault Refusal :=
  .next (if trst then s.tapBypass else s.tapReset)

/-- JTAG_IDCODE (R492). -/
def execJtagIdcode (trst : Bool) (s : State) : Host.Outcome State Fault Refusal :=
  .next (if trst then s.setTap { s.tap with instr := .idcode, data := idcode } else s.tapReset)

/-- JTAG_SAMPLE_PRELOAD (R492): the cells capture the balls, free values here, and `cells` are shifted in to be driven later. -/
def execJtagSamplePreload (trst : Bool) (cells : Nat) (s : State) : Host.Outcome State Fault Refusal :=
  .next (if trst then s.fresh.2.setTap { instr := .samplePreload, data := s.fresh.1, preload := cells } else s.tapReset)

/-- JTAG_EXTEST (R492). -/
def execJtagExtest (trst : Bool) (s : State) : Host.Outcome State Fault Refusal :=
  .next (if trst then s.tapBoundary .extest else s.tapReset)

/-- JTAG_EXTEST_PULSE (R492). -/
def execJtagExtestPulse (trst : Bool) (s : State) : Host.Outcome State Fault Refusal :=
  .next (if trst then s.tapBoundary .extestPulse else s.tapReset)

/-- JTAG_EXTEST_TRAIN (R492). -/
def execJtagExtestTrain (trst : Bool) (s : State) : Host.Outcome State Fault Refusal :=
  .next (if trst then s.tapBoundary .extestTrain else s.tapReset)

/-- `HIGHZ` and `CLAMP` select the bypass register while they act on the balls. -/
def State.tapClamp (s : State) (i : TapInstr) : State :=
  if s.power.resetN then s.tapBypass else s.setTap { s.tap with instr := i, data := 0 }

/-- JTAG_HIGHZ (R492). -/
def execJtagHighz (trst : Bool) (s : State) : Host.Outcome State Fault Refusal :=
  .next (if trst then s.tapClamp .highz else s.tapReset)

/-- JTAG_CLAMP (R492). -/
def execJtagClamp (trst : Bool) (s : State) : Host.Outcome State Fault Refusal :=
  .next (if trst then s.tapClamp .clamp else s.tapReset)

end Sys2Proof.Machine
end

