-- ==== Sys2Proof/Machine/WagRows.lean ====
section
/-!
DEFINITION. Machine/WagRows.lean: what happens in the Waggle engine (R119 to R140): its ticks, late computations, park decisions, the start of
the scan, and parking and release.
-/

namespace Sys2Proof.Machine

/-- R122: the park decision for axis `a`, on loop `l`. An axis that parks for its release is released all the same (R140). -/
def State.parkDecision (s : State) (a l : Nat) : State :=
  let s := (s.setBit Reg.WAG_STATUS 8 true).ssnHold 4 true
  let s := s.parkAxis a (s.axState a == 4 && (s.axis a).thenRelease)
  let s := s.setWag { s.wag with parkAt := some (s.wag.parkAt.getD s.now) }
  (s.post Rec.STEER_PARK (a + 2 * l)).raise Ev.STEER_PARK .all (leBytes 2 a ++ leBytes 2 l)

/-- R122: loop l of axis `a` overran at a tick that began at `was`, and its consecutive count reaches `OVR_LIMIT`: once, or beyond it while the axis has not
begun to park. -/
def State.overLimit (s was : State) (a l : Nat) : Bool :=
  let n := (s.loop l).runs
  let lim := max 1 (s.ef Reg.WAG_CTRL 3 0)
  decide ((was.loop l).runs < n) && (n == lim || (decide (lim < n) && decide (1 ≤ s.axState a ∧ s.axState a ≤ 3)))

/-- A code of the 14-bit current converter at either rail (R118). -/
def railCode (v : Int) : Bool := decide (v ≤ -8192 ∨ 8191 ≤ v)

/-- The mean of four current codes of 14 bits as a Q15 fraction, four times the mean (R118, R125; DEDUCED: log entry 62). -/
def meanCurrent (codes : List Int) : Int := codes.foldl (· + ·) 0

/-- R139: the DAC of a releasing axis ramps linearly to 0 over 10 ms. -/
def State.releaseRamp (s : State) (a : Nat) : State :=
  let x := s.axis a
  match x.relAt with
  | none => s
  | some t => (s.setAxis a { x with dac := divRound (x.relFrom * (10000000 - min 10000000 (s.now - t) : Nat)) 10000000 }).syncAxis a

/-- R118, R121, R125: `CUR_a` of a running axis in closed current control; `codes` are the four current samples of the last 5 µs. -/
def State.currentLoop (s : State) (a : Nat) (codes : List Int) (late : Bool) : State :=
  let l := 2 + a
  let was := s
  let r := s.loopTick l fun s v => s.setAxis a { s.axis a with dac := v }
  let s := r.2
  let s : State := if !r.1 then s
    else if codes.any railCode then s.invalidTick l
    else (s.curCompute a (meanCurrent codes)).startLoop l late
  if s.overLimit was a l then s.parkDecision a l else s

/-- `CUR_a` at its tick (R119), with a mode change that waits (R134) and the manual value (R133). -/
def State.currentTick (s : State) (a : Nat) (codes : List Int) (late : Bool) : State :=
  let st := s.axState a
  if st = 0 then s
  else if st = 6 then s.releaseRamp a
  else
    let s := (s.modeChange a (if codes.any railCode then none else some (meanCurrent codes))).manualSlew a
    let s : State := if (s.axis a).mode = 2 then
        (if codes.any railCode then s else s.setAxis a { s.axis a with iMeas := meanCurrent codes })
      else s.currentLoop a codes late
    s.syncAxis a

/-- How long an axis has held its position: |e| ≤ `SETTLE_TOL` on every position tick while it scans (R138), the measured angle within it of `PARK_POS` while it
parks (R139). -/
def State.holdTick (s : State) (a : Nat) (theta : Int) : State :=
  let x := s.axis a
  let e : Int := if s.axState a = 4 then theta - signed 20 (s.ef (Reg.AX_PARK a) 19 0) else x.lastE
  s.setAxis a { x with okSince := if e.natAbs ≤ s.ef (Reg.AX_TOL a) 15 0 then some (x.okSince.getD s.now) else none }

/-- `POS_a` in closed loop at its tick, after the profile generator (R119, R124). A tick that is not computed does not count as held (R138); while the axis
parks its measured angle counts all the same (R139). -/
def State.positionLoop (s : State) (a : Nat) (theta : Int) (valid late : Bool) : State :=
  let was := s
  let r := s.loopTick a fun s v => s.setAxis a { s.axis a with iRef := v }
  let s := r.2
  let unheld (s : State) : State := s.setAxis a { s.axis a with okSince := none }
  let s : State := if !r.1 then (if s.axState a = 4 ∧ valid then s.holdTick a theta else unheld s)
    else if !valid then unheld (s.invalidTick a)
    else
      let s := ((s.posCompute a theta).startLoop a late).holdTick a theta
      if s.plan.openCol.isSome then s.trackError a else s
  if s.overLimit was a a then s.parkDecision a a else s

/-- R133: a manual axis: the set-point follows the measured angle, and the position loop does not compute. -/
def State.manualPosition (s : State) (a : Nat) (theta : Int) : State :=
  let x : Axis := { s.axis a with thPrev := (s.axis a).thMeas, thMeas := theta, thRef := theta }
  let s := s.setAxis a (if s.axState a = 3 then x.holdAt s.now theta else x)
  (s.setF (Reg.AX_POS_MEAS a) 19 0 (satS 20 theta)).setF (Reg.AX_POS_REF a) 19 0 (satS 20 theta)

/-- The position tick of axis a. The start move begins at the first valid sample (R138); an axis that parks or is parked is released at once when its sample is
invalid (R139). -/
def State.positionTick (s : State) (a : Nat) (late : Bool) : State :=
  let st := s.axState a
  if st = 0 ∨ st = 6 then s
  else
    let valid := s.angleValid
    let theta := match s.wag.sample with
      | some (cx, cy, _) => s.angleOf a cx cy
      | none => (s.axis a).thMeas
    if (st = 4 ∨ st = 5) ∧ ¬ valid then
      let was := s
      let s := s.when ((s.axis a).mode == 0) fun s => s.invalidTick a
      (s.when (s.overLimit was a a) fun s => s.parkDecision a a).releaseAxis a
    else if (s.axis a).mode ≠ 0 then (if valid then s.manualPosition a theta else s)
    else
      let s := s.when ((s.axis a).needStart && valid) fun s => s.startMove a theta
      s.positionLoop a theta valid late

/-- Tick n of the schedule of R119. -/
def State.waggleTick (s : State) (xs ys : List Int) (late : List Nat) : State :=
  let n := s.wag.n
  let s := s.setWag { s.wag with n := n + 1 }
  let s := s.applyWagParams
  let s := (s.currentTick 0 xs (late.contains 2)).currentTick 1 ys (late.contains 3)
  let s := s.when (n % 4 == 0) fun s => s.positionTick 0 (late.contains 0)
  let s := s.when (n % 4 == 2) fun s => s.positionTick 1 (late.contains 1)
  s.when (n % 200 % 2 == 1 && decide (n % 200 < 16)) fun s => s.heaterTick (n % 200 / 2) late

/-- WAGGLE_TICK (R119): the ticks come every 5 µs from the moment the mirror is powered. `xs` and `ys` are the four current samples of each axis in the 5 µs
before it, `late` the loops whose computation now will not finish by their next tick. -/
def execWaggleTick (xs ys : List Int) (late : List Nat) (s : State) : Host.Outcome State Fault Refusal :=
  .next (match s.wag.powerAt with
  | none => s
  | some p => if s.now < p + 5000 * s.wag.n then s else s.waggleTick xs ys late)

/-- LOOP_COMPUTE_DONE (R121): a late computation finishes; its result takes effect at the loop's next tick. -/
def execLoopComputeDone (l : Fin 20) (s : State) : Host.Outcome State Fault Refusal :=
  .next (if (s.loop l).late then s.setLoop l { s.loop l with late := false } else s)

/-- STEER_SAFE_ENTRY (R122 step 4): after a park decision the NL5 enters SAFE with cause 0x53. -/
def execSteerSafeEntry (s : State) : Host.Outcome State Fault Refusal :=
  .next (match s.wag.parkAt with
  | none => s
  | some _ => (s.setWag { s.wag with parkAt := none }).toSafe 0x53)

/-- HEATER_HOLD_EXPIRY (R123): the loops of the tiles whose 10 ms hold is over restart with their presets. -/
def execHeaterHoldExpiry (s : State) : Host.Outcome State Fault Refusal :=
  .next (s.each ((List.range 8).filter fun t => match (s.loop (4 + t)).hold with
    | some u => decide (u ≤ s.now)
    | none => false) State.presetHeater)

/-- SCAN_START_REACHED (R138 step 3): both axes have come to their scan start. -/
def execScanStartReached (s : State) : Host.Outcome State Fault Refusal :=
  .next (if s.wag.armAt.isSome ∧ !s.wag.axX.needStart ∧ !s.wag.axY.needStart ∧ s.moveDone 0 ∧ s.moveDone 1 ∧ s.axState 0 = 1 ∧ s.axState 1 = 1 then
    s.setWag { s.wag with atStart := true }
  else s)

/-- Whether an axis has held its position for `ns` since it did so first at or after `t0`. -/
def Axis.heldFor (x : Axis) (now t0 ns : Nat) : Bool :=
  match x.okSince with
  | some k => decide (max k t0 + ns ≤ now)
  | none => false

/-- ARM_SETTLED (R138 step 4): both axes have held `SETTLE_TOL` for 2 ms of scanning: ARMED. -/
def execArmSettled (s : State) : Host.Outcome State Fault Refusal :=
  .next (match s.wag.armAt, s.wag.scanAt with
  | some _, some t0 =>
    if s.wag.axX.heldFor s.now t0 2000000 ∧ s.wag.axY.heldFor s.now t0 2000000 ∧ s.axState 0 = 2 ∧ s.axState 1 = 2 then
      (s.setWag { s.wag with armAt := none }).cmdDone
    else s
  | _, _ => s)

/-- ARM_SETTLE_TIMEOUT (R138): ARMED has not been reached within 400 ms of `ARM`: both axes are released, and `ARM` and the commands behind it are
cancelled. -/
def execArmSettleTimeout (s : State) : Host.Outcome State Fault Refusal :=
  .next (match s.wag.armAt with
  | none => s
  | some t =>
    if s.now < t + 400000000 then s
    else
      let s := s.endScan
      let s := (s.releaseAxis 0).releaseAxis 1
      let s := (s.setWag { s.wag with armAt := none, atStart := false, scanAt := none }).flag Reg.WAG_PROF_FLAGS 4
      let s := (s.raise Ev.STEER_FAULT .all (leBytes 4 0)).biasDown
      s.endSpan.cmdFails)

/-- PARK_SETTLED (R139): the axis has stayed within `SETTLE_TOL` of `PARK_POS` for 10 ms. -/
def execParkSettled (a : Fin 2) (s : State) : Host.Outcome State Fault Refusal :=
  .next (if s.axState a = 4 ∧ (s.axis a).heldFor s.now 0 10000000 then
    let s := (s.setAxis a { s.axis a with parkAt := none }).setAxState a 5
    if (s.axis a).thenRelease then s.releaseAxis a else s
  else s)

/-- PARK_TIMEOUT (R139): the axis is not parked 200 ms after it began: it is released. -/
def execParkTimeout (a : Fin 2) (s : State) : Host.Outcome State Fault Refusal :=
  .next (match (s.axis a).parkAt with
  | none => s
  | some t =>
    if s.axState a = 4 ∧ t + 200000000 ≤ s.now then (s.flag Reg.WAG_PROF_FLAGS (5 + a.val)).releaseAxis a else s)

/-- RELEASE_DONE (R139): the release ramp is over and the output stage off. With both axes off the ticks end
where the heater loops do not run (R137), and `DISARM` or `RECOVER` completes (R140). -/
def execReleaseDone (a : Fin 2) (s : State) : Host.Outcome State Fault Refusal :=
  .next (match (s.axis a).relAt with
  | none => s
  | some t =>
    if s.axState a = 6 ∧ t + 10000000 ≤ s.now then
      let s := s.hardRelease a
      if s.axesOff then (s.when (!s.heatersRun) fun s => s.setWag { s.wag with powerAt := none }).runCmds 8 else s
    else s)

end Sys2Proof.Machine
end

