-- ==== Sys2Proof/Machine/Dispatch.lean ====
section
/-!
DEFINITION. Machine/Dispatch.lean: one arm per command; each calls its meaning.
-/

namespace Sys2Proof.Machine

def exec (i : Instr) (s : State) : Host.Outcome State Fault Refusal :=
  match i with
  | .powerRailChange rail uv => Sys2Proof.Machine.execPowerRailChange rail uv s
  | .brownOut => Sys2Proof.Machine.execBrownOut s
  | .resetNInput high ns => Sys2Proof.Machine.execResetNInput high ns s
  | .resetRelease flSel => Sys2Proof.Machine.execResetRelease flSel s
  | .bootDone r => Sys2Proof.Machine.execBootDone r s
  | .svnFuseStep => Sys2Proof.Machine.execSvnFuseStep s
  | .nop c => Sys2Proof.Machine.execNop c s
  | .identify c => Sys2Proof.Machine.execIdentify c s
  | .ownerClaim c => Sys2Proof.Machine.execOwnerClaim c s
  | .ownerRelease c => Sys2Proof.Machine.execOwnerRelease c s
  | .arm c => Sys2Proof.Machine.execArm c s
  | .disarm c => Sys2Proof.Machine.execDisarm c s
  | .startSensing c => Sys2Proof.Machine.execStartSensing c s
  | .stopSensing c => Sys2Proof.Machine.execStopSensing c s
  | .forceSafe c => Sys2Proof.Machine.execForceSafe c s
  | .recover c => Sys2Proof.Machine.execRecover c s
  | .resetDevice c => Sys2Proof.Machine.execResetDevice c s
  | .resetDeviceExpiry => Sys2Proof.Machine.execResetDeviceExpiry s
  | .syncTime c => Sys2Proof.Machine.execSyncTime c s
  | .eventConfig c => Sys2Proof.Machine.execEventConfig c s
  | .paramRead c => Sys2Proof.Machine.execParamRead c s
  | .paramWrite c => Sys2Proof.Machine.execParamWrite c s
  | .paramModify c => Sys2Proof.Machine.execParamModify c s
  | .sctWrite c => Sys2Proof.Machine.execSctWrite c s
  | .sctCommit c => Sys2Proof.Machine.execSctCommit c s
  | .sctRead c => Sys2Proof.Machine.execSctRead c s
  | .trackWrite c => Sys2Proof.Machine.execTrackWrite c s
  | .trackRead c => Sys2Proof.Machine.execTrackRead c s
  | .regionRequest c => Sys2Proof.Machine.execRegionRequest c s
  | .regionCancel c => Sys2Proof.Machine.execRegionCancel c s
  | .regionPriority c => Sys2Proof.Machine.execRegionPriority c s
  | .zoneWrite c => Sys2Proof.Machine.execZoneWrite c s
  | .zoneCommit c => Sys2Proof.Machine.execZoneCommit c s
  | .zoneRead c => Sys2Proof.Machine.execZoneRead c s
  | .streamSubscribe c => Sys2Proof.Machine.execStreamSubscribe c s
  | .streamUnsubscribe c => Sys2Proof.Machine.execStreamUnsubscribe c s
  | .streamStatus c => Sys2Proof.Machine.execStreamStatus c s
  | .dmaRestart c => Sys2Proof.Machine.execDmaRestart c s
  | .captureArm c => Sys2Proof.Machine.execCaptureArm c s
  | .captureStop c => Sys2Proof.Machine.execCaptureStop c s
  | .captureTrigger c => Sys2Proof.Machine.execCaptureTrigger c s
  | .captureRead c => Sys2Proof.Machine.execCaptureRead c s
  | .captureFree c => Sys2Proof.Machine.execCaptureFree c s
  | .calibrateFull c => Sys2Proof.Machine.execCalibrateFull c s
  | .calibrateComb c => Sys2Proof.Machine.execCalibrateComb c s
  | .calRead c => Sys2Proof.Machine.execCalRead c s
  | .calWrite c => Sys2Proof.Machine.execCalWrite c s
  | .calSave c => Sys2Proof.Machine.execCalSave c s
  | .templateWrite c => Sys2Proof.Machine.execTemplateWrite c s
  | .templateCommit c => Sys2Proof.Machine.execTemplateCommit c s
  | .templateRead c => Sys2Proof.Machine.execTemplateRead c s
  | .attest c => Sys2Proof.Machine.execAttest c s
  | .certRead c => Sys2Proof.Machine.execCertRead c s
  | .updateBegin c => Sys2Proof.Machine.execUpdateBegin c s
  | .updateData c => Sys2Proof.Machine.execUpdateData c s
  | .updateCommit c => Sys2Proof.Machine.execUpdateCommit c s
  | .updateCheckDone => Sys2Proof.Machine.execUpdateCheckDone s
  | .ownerKeyEnroll c => Sys2Proof.Machine.execOwnerKeyEnroll c s
  | .ownerKeyFuseDone => Sys2Proof.Machine.execOwnerKeyFuseDone s
  | .healthRead c => Sys2Proof.Machine.execHealthRead c s
  | .recorderRead c => Sys2Proof.Machine.execRecorderRead c s
  | .recorderFlush c => Sys2Proof.Machine.execRecorderFlush c s
  | .commandArrival opcode c => Sys2Proof.Machine.execCommandArrival opcode c s
  | .lpWritePacket bytes => Sys2Proof.Machine.execLpWritePacket bytes s
  | .lpReadPacket n => Sys2Proof.Machine.execLpReadPacket n s
  | .lpReadStatus => Sys2Proof.Machine.execLpReadStatus s
  | .lpCsRelease => Sys2Proof.Machine.execLpCsRelease s
  | .arbSlotCommit w => Sys2Proof.Machine.execArbSlotCommit w s
  | .arbSlotNext w => Sys2Proof.Machine.execArbSlotNext w s
  | .patCommit w => Sys2Proof.Machine.execPatCommit w s
  | .patternSwap => Sys2Proof.Machine.execPatternSwap s
  | .wagCommit w => Sys2Proof.Machine.execWagCommit w s
  | .axModeWrite a w => Sys2Proof.Machine.execAxModeWrite a w s
  | .axManValueWrite a w => Sys2Proof.Machine.execAxManValueWrite a w s
  | .biasRetry z w => Sys2Proof.Machine.execBiasRetry z w s
  | .rxSelftestRun w => Sys2Proof.Machine.execRxSelftestRun w s
  | .tdcStatRun c w => Sys2Proof.Machine.execTdcStatRun c w s
  | .feClear w => Sys2Proof.Machine.execFeClear w s
  | .ditherSaltWrite w => Sys2Proof.Machine.execDitherSaltWrite w s
  | .fcPolyCommit w => Sys2Proof.Machine.execFcPolyCommit w s
  | .framePeriodWrite w => Sys2Proof.Machine.execFramePeriodWrite w s
  | .laneRetrain l w => Sys2Proof.Machine.execLaneRetrain l w s
  | .laneTxReq l w => Sys2Proof.Machine.execLaneTxReq l w s
  | .dmaAppend n addr d linked => Sys2Proof.Machine.execDmaAppend n addr d linked s
  | .forceFailover w => Sys2Proof.Machine.execForceFailover w s
  | .bulkReturn k w => Sys2Proof.Machine.execBulkReturn k w s
  | .maConfigWrite m which w => Sys2Proof.Machine.execMaConfigWrite m which w s
  | .rtdCtrlWrite w => Sys2Proof.Machine.execRtdCtrlWrite w s
  | .rtdCfgWrite r w => Sys2Proof.Machine.execRtdCfgWrite r w s
  | .frameSyncEdge rising => Sys2Proof.Machine.execFrameSyncEdge rising s
  | .internalFrameEvent => Sys2Proof.Machine.execInternalFrameEvent s
  | .swarmFrameTime => Sys2Proof.Machine.execSwarmFrameTime s
  | .frameBoundary => Sys2Proof.Machine.execFrameBoundary s
  | .flywheelBoundary => Sys2Proof.Machine.execFlywheelBoundary s
  | .frameCutEdgeReached => Sys2Proof.Machine.execFrameCutEdgeReached s
  | .arbBackoffExpiry ix => Sys2Proof.Machine.execArbBackoffExpiry ix s
  | .columnPlan => Sys2Proof.Machine.execColumnPlan s
  | .velocitySegmentPost fault => Sys2Proof.Machine.execVelocitySegmentPost fault s
  | .columnStart => Sys2Proof.Machine.execColumnStart s
  | .columnClose => Sys2Proof.Machine.execColumnClose s
  | .plannerMicrosecond => Sys2Proof.Machine.execPlannerMicrosecond s
  | .verdictArrival c => Sys2Proof.Machine.execVerdictArrival c s
  | .dripCut bad other => Sys2Proof.Machine.execDripCut bad other s
  | .shotLaunch => Sys2Proof.Machine.execShotLaunch s
  | .sarShotTrigger => Sys2Proof.Machine.execSarShotTrigger s
  | .sarControlRequest => Sys2Proof.Machine.execSarControlRequest s
  | .sarConversionDone mf0 mf1 mf2 mf3 => Sys2Proof.Machine.execSarConversionDone mf0 mf1 mf2 mf3 s
  | .startRefEdge t internal readings => Sys2Proof.Machine.execStartRefEdge t internal readings s
  | .startTimeout => Sys2Proof.Machine.execStartTimeout s
  | .comparatorEdge n count code level overNs => Sys2Proof.Machine.execComparatorEdge n count code level overNs s
  | .receiveWindowClose n peak => Sys2Proof.Machine.execReceiveWindowClose n peak s
  | .rangeChange n => Sys2Proof.Machine.execRangeChange n s
  | .comparatorStuck n => Sys2Proof.Machine.execComparatorStuck n s
  | .eventWordBinned c => Sys2Proof.Machine.execEventWordBinned c s
  | .closeWord c => Sys2Proof.Machine.execCloseWord c s
  | .batchComplete c g => Sys2Proof.Machine.execBatchComplete c g s
  | .exportScanDone c => Sys2Proof.Machine.execExportScanDone c s
  | .hiveDispatch h => Sys2Proof.Machine.execHiveDispatch h s
  | .pointDetectionDone e => Sys2Proof.Machine.execPointDetectionDone e s
  | .engineCheck h pass => Sys2Proof.Machine.execEngineCheck h pass s
  | .chainWindowDone h memErr => Sys2Proof.Machine.execChainWindowDone h memErr s
  | .clusterClose => Sys2Proof.Machine.execClusterClose s
  | .zoneResult z => Sys2Proof.Machine.execZoneResult z s
  | .streamPacketFormed ch => Sys2Proof.Machine.execStreamPacketFormed ch s
  | .dmaDescriptorDone n => Sys2Proof.Machine.execDmaDescriptorDone n s
  | .dmaBurstError n answer => Sys2Proof.Machine.execDmaBurstError n answer s
  | .dripRetFrame f => Sys2Proof.Machine.execDripRetFrame f s
  | .dripRetTimeout => Sys2Proof.Machine.execDripRetTimeout s
  | .emitFaultInput low ns => Sys2Proof.Machine.execEmitFaultInput low ns s
  | .lsdSafeEntry => Sys2Proof.Machine.execLsdSafeEntry s
  | .acctSubinterval disagree => Sys2Proof.Machine.execAcctSubinterval disagree s
  | .fadeStep => Sys2Proof.Machine.execFadeStep s
  | .fadeEnd => Sys2Proof.Machine.execFadeEnd s
  | .wlBlockMean t => Sys2Proof.Machine.execWlBlockMean t s
  | .wlLossTimeout t => Sys2Proof.Machine.execWlLossTimeout t s
  | .waggleTick xs ys late => Sys2Proof.Machine.execWaggleTick xs ys late s
  | .loopComputeDone l => Sys2Proof.Machine.execLoopComputeDone l s
  | .steerSafeEntry => Sys2Proof.Machine.execSteerSafeEntry s
  | .heaterHoldExpiry => Sys2Proof.Machine.execHeaterHoldExpiry s
  | .scanStartReached => Sys2Proof.Machine.execScanStartReached s
  | .armSettled => Sys2Proof.Machine.execArmSettled s
  | .armSettleTimeout => Sys2Proof.Machine.execArmSettleTimeout s
  | .parkSettled a => Sys2Proof.Machine.execParkSettled a s
  | .parkTimeout a => Sys2Proof.Machine.execParkTimeout a s
  | .releaseDone a => Sys2Proof.Machine.execReleaseDone a s
  | .monitorTick fast refBad rtdBad => Sys2Proof.Machine.execMonitorTick fast refBad rtdBad s
  | .biasConversionDone c code => Sys2Proof.Machine.execBiasConversionDone c code s
  | .rxSelftestDone results => Sys2Proof.Machine.execRxSelftestDone results s
  | .blankInput level => Sys2Proof.Machine.execBlankInput level s
  | .blankMaxTimeout => Sys2Proof.Machine.execBlankMaxTimeout s
  | .clockWindow ref xtal badCombs badPlanners => Sys2Proof.Machine.execClockWindow ref xtal badCombs badPlanners s
  | .refclkPresent => Sys2Proof.Machine.execRefclkPresent s
  | .pllLocked => Sys2Proof.Machine.execPllLocked s
  | .timingLockHold => Sys2Proof.Machine.execTimingLockHold s
  | .xoMeasure offset => Sys2Proof.Machine.execXoMeasure offset s
  | .xoCorrection => Sys2Proof.Machine.execXoCorrection s
  | .statRunDone c => Sys2Proof.Machine.execStatRunDone c s
  | .statRunTimeout c => Sys2Proof.Machine.execStatRunTimeout c s
  | .feStrongEvent => Sys2Proof.Machine.execFeStrongEvent s
  | .feContextExpiry ix => Sys2Proof.Machine.execFeContextExpiry ix s
  | .swarmSlot => Sys2Proof.Machine.execSwarmSlot s
  | .swarmMessageRx m => Sys2Proof.Machine.execSwarmMessageRx m s
  | .swarmLossTimeout => Sys2Proof.Machine.execSwarmLossTimeout s
  | .captureItem fault => Sys2Proof.Machine.execCaptureItem fault s
  | .captureTimeItem => Sys2Proof.Machine.execCaptureTimeItem s
  | .capturePreFull => Sys2Proof.Machine.execCapturePreFull s
  | .capturePostFull => Sys2Proof.Machine.execCapturePostFull s
  | .captureClosed => Sys2Proof.Machine.execCaptureClosed s
  | .maWord m v => Sys2Proof.Machine.execMaWord m v s
  | .housekeepingWord v refOff => Sys2Proof.Machine.execHousekeepingWord v refOff s
  | .rtdPhaseDone v ix => Sys2Proof.Machine.execRtdPhaseDone v ix s
  | .thermalTrip ix => Sys2Proof.Machine.execThermalTrip ix s
  | .laneGroupTx l => Sys2Proof.Machine.execLaneGroupTx l s
  | .laneGroupRx l units => Sys2Proof.Machine.execLaneGroupRx l units s
  | .replayTimeout l => Sys2Proof.Machine.execReplayTimeout l s
  | .laneSignal l => Sys2Proof.Machine.execLaneSignal l s
  | .laneCommaLock l => Sys2Proof.Machine.execLaneCommaLock l s
  | .laneCommaLoss l => Sys2Proof.Machine.execLaneCommaLoss l s
  | .laneTrainDone l => Sys2Proof.Machine.execLaneTrainDone l s
  | .laneRateSwitch l => Sys2Proof.Machine.execLaneRateSwitch l s
  | .laneEqDone l eyes ctle preset peerOk => Sys2Proof.Machine.execLaneEqDone l eyes ctle preset peerOk s
  | .laneUp l => Sys2Proof.Machine.execLaneUp l s
  | .retrainTimeout l => Sys2Proof.Machine.execRetrainTimeout l s
  | .eyeUpdate l eye => Sys2Proof.Machine.execEyeUpdate l eye s
  | .laneLossTimeout l => Sys2Proof.Machine.execLaneLossTimeout l s
  | .dozeIdleTimeout l => Sys2Proof.Machine.execDozeIdleTimeout l s
  | .laneWakeDone l => Sys2Proof.Machine.execLaneWakeDone l s
  | .pairSwitchDelay l => Sys2Proof.Machine.execPairSwitchDelay l s
  | .pairRejoin l => Sys2Proof.Machine.execPairRejoin l s
  | .standbySelftest x pass => Sys2Proof.Machine.execStandbySelftest x pass s
  | .plannerRetest x pass => Sys2Proof.Machine.execPlannerRetest x pass s
  | .checkpointRestored bad0 bad1 => Sys2Proof.Machine.execCheckpointRestored bad0 bad1 s
  | .failoverTimeout => Sys2Proof.Machine.execFailoverTimeout s
  | .claimTieTimeout => Sys2Proof.Machine.execClaimTieTimeout s
  | .watchdogMiss => Sys2Proof.Machine.execWatchdogMiss s
  | .lockstepMismatch => Sys2Proof.Machine.execLockstepMismatch s
  | .ssnReadback high => Sys2Proof.Machine.execSsnReadback high s
  | .memoryError site uncorrectable => Sys2Proof.Machine.execMemoryError site uncorrectable s
  | .combCalStart => Sys2Proof.Machine.execCombCalStart s
  | .combCalDone k => Sys2Proof.Machine.execCombCalDone k s
  | .fullCalMeasureDone k => Sys2Proof.Machine.execFullCalMeasureDone k s
  | .calAutoSave => Sys2Proof.Machine.execCalAutoSave s
  | .calSaveDone good0 good1 => Sys2Proof.Machine.execCalSaveDone good0 good1 s
  | .recorderPost code arg => Sys2Proof.Machine.execRecorderPost code arg s
  | .recorderWrite => Sys2Proof.Machine.execRecorderWrite s
  | .recorderFlushDone => Sys2Proof.Machine.execRecorderFlushDone s
  | .recorderFlushBudget pages => Sys2Proof.Machine.execRecorderFlushBudget pages s
  | .recorderEraseDone => Sys2Proof.Machine.execRecorderEraseDone s
  | .jtagBypass trst => Sys2Proof.Machine.execJtagBypass trst s
  | .jtagIdcode trst => Sys2Proof.Machine.execJtagIdcode trst s
  | .jtagSamplePreload trst cells => Sys2Proof.Machine.execJtagSamplePreload trst cells s
  | .jtagExtest trst => Sys2Proof.Machine.execJtagExtest trst s
  | .jtagExtestPulse trst => Sys2Proof.Machine.execJtagExtestPulse trst s
  | .jtagExtestTrain trst => Sys2Proof.Machine.execJtagExtestTrain trst s
  | .jtagHighz trst => Sys2Proof.Machine.execJtagHighz trst s
  | .jtagClamp trst => Sys2Proof.Machine.execJtagClamp trst s
  | .receiverWakeLock l => Sys2Proof.Machine.execReceiverWakeLock l s
  | .timeHighChange => Sys2Proof.Machine.execTimeHighChange s
  | .timeSlewAbsorbed => Sys2Proof.Machine.execTimeSlewAbsorbed s

end Sys2Proof.Machine
end

