-- ==== Sys2Proof/Machine/Balls.lean ====
section
/-!
DEFINITION. Machine/Balls.lean: what every output ball does in a state: the table of R482, the balls of a part without its supplies (R483, R497), and the test port's
instructions that take them (R492).
-/

namespace Sys2Proof.Machine

/-- The output balls of R482, by tile, zone, axis, lane and data bit. -/
inductive Ball where
  | fireP (t : Nat) | fireN (t : Nat) | drip | laserEn | biasSet (z : Nat) | mirDrv (a : Nat) | heat (t : Nat) | safeStateN | irqN | lpMiso
  | laneTx (l : Nat) | sync | flSck | flCsN | flDqs | flDq (i : Nat) | flResetN | xtalOut | tdo
deriving DecidableEq, Repr

/-- What drives a ball: a level; high impedance, bare or with the internal 50 kΩ; a stage at 0 V or disabled with both legs at 0.90 V; electrical idle; the oscillator; the function of the
ball, which other parts of the model give; a boundary-scan cell. -/
inductive Drive where
  | low | high | hiZ | hiZPullUp | lowPullDown | zeroVolt | legsOff | electricalIdle | oscillating | function | cell
deriving DecidableEq, Repr

def Drive.level (b : Bool) : Drive := if b then .high else .low

/-- R154: zone z has its set-point at 0 V. -/
def State.biasZero (s : State) (z : Nat) : Bool := s.f (Reg.BIAS_STATE z) 13 0 == 0

/-- R401, R402, R483, R497: `SAFE_STATE_N` is low while the NL5 drives it, while another device holds it, and without `VDD_IO33`, from which alone its clamp and its pull-up are fed. -/
def State.safeStateLow (s : State) : Bool := s.bit Reg.SSN_STATUS 0 || s.red.ssnExtLow || s.power.low 8

/-- R108, R483: `LASER_EN` is high only while the NL5 drives it high and the supplies of its output stand; its pull-down acts without any rail. -/
def State.laserEnBall (s : State) : Bool := s.laserEn && decide (1000000 ≤ s.power.rail 7 ∧ 1000000 ≤ s.power.rail 8)

/-- R482: the states in which the outputs have their levels of RESET or of BOOT. -/
def State.preStandby (s : State) : Bool := s.dev == .reset || s.dev == .boot

/-- R482 without the test port. -/
def State.coreDrive (s : State) : Ball → Drive
  | .fireP t => if s.preStandby then .low else .level (s.fireP t)
  | .fireN t => if s.preStandby then .high else .level (!s.fireP t)
  | .drip => if s.dripSym = .low then .low else .function
  | .laserEn => .level (s.laserEnBall && !s.preStandby)
  | .biasSet z => if s.preStandby || s.biasZero z then .zeroVolt else .function
  | .mirDrv a => if s.preStandby || s.axState a == 0 then .legsOff else .function
  | .heat _ => if s.dev = .reset then .lowPullDown else if s.heatersRun then .function else .low
  | .safeStateN => .level (!(s.preStandby || s.safeStateLow))
  | .irqN => .level s.irqN
  | .lpMiso => if s.dev = .reset then .hiZ else .function
  | .laneTx l => if s.dev = .reset ∨ s.variant.lanes ≤ l then .electricalIdle else .function
  | .sync => if s.preStandby || !s.swarmOn then .hiZ else .function
  | .flSck => if s.dev = .reset then .low else .function
  | .flCsN => if s.dev = .reset then .high else .function
  | .flDqs => if s.dev = .reset then .hiZ else .function
  | .flDq _ => if s.dev = .reset then .hiZPullUp else .function
  | .flResetN => .level (s.dev != .reset)
  | .xtalOut => if s.power.low 4 then .low else .oscillating
  | .tdo => if s.dev = .reset then .hiZ else .function

/-- R492: the balls whose boundary cells only observe. -/
def Ball.observed : Ball → Bool
  | .fireP _ | .fireN _ | .drip | .laserEn => true
  | _ => false

/-- What a ball does. An instruction that takes the balls, in force only while `RESET_N` is low, drives them from its cells or releases them, but for those that observe only; the test
port's own ball and the crystal's stay (R492). -/
def State.drive (s : State) (b : Ball) : Drive :=
  if b.observed || b == .tdo || b == .xtalOut then s.coreDrive b
  else match s.tap.instr with
    | .extest | .extestPulse | .extestTrain | .clamp => .cell
    | .highz => .hiZ
    | .bypass | .idcode | .samplePreload => s.coreDrive b

end Sys2Proof.Machine
end

