-- ==== Sys2Proof/Safety.lean ====
section
/-!
DEFINITION. Safety.lean: what a safe state is, and how a command comes to its execution and to its end, in the terms that the statements use. The table of R343 stands
here once more, written from the spec by itself: the statements hold the meanings against it.
-/

namespace Sys2Proof

/-- The rows that are commands of R343, with the opcode of its table and the packet. -/
def Instr.command? : Instr → Option (Nat × Cmd)
  | .nop c => some (0x0100, c) | .identify c => some (0x0101, c) | .ownerClaim c => some (0x0102, c) | .ownerRelease c => some (0x0103, c)
  | .arm c => some (0x0104, c) | .disarm c => some (0x0105, c) | .startSensing c => some (0x0106, c) | .stopSensing c => some (0x0107, c)
  | .forceSafe c => some (0x0108, c) | .recover c => some (0x0109, c) | .resetDevice c => some (0x010A, c) | .syncTime c => some (0x010B, c)
  | .eventConfig c => some (0x010C, c) | .paramRead c => some (0x0200, c) | .paramWrite c => some (0x0201, c) | .paramModify c => some (0x0202, c)
  | .sctWrite c => some (0x0300, c) | .sctCommit c => some (0x0301, c) | .sctRead c => some (0x0302, c) | .trackWrite c => some (0x0303, c)
  | .trackRead c => some (0x0304, c) | .regionRequest c => some (0x0305, c) | .regionCancel c => some (0x0306, c)
  | .regionPriority c => some (0x0307, c) | .zoneWrite c => some (0x0308, c) | .zoneCommit c => some (0x0309, c) | .zoneRead c => some (0x030A, c)
  | .streamSubscribe c => some (0x0400, c) | .streamUnsubscribe c => some (0x0401, c) | .streamStatus c => some (0x0402, c)
  | .dmaRestart c => some (0x0403, c) | .captureArm c => some (0x0500, c) | .captureStop c => some (0x0501, c)
  | .captureTrigger c => some (0x0502, c) | .captureRead c => some (0x0503, c) | .captureFree c => some (0x0504, c)
  | .calibrateFull c => some (0x0600, c) | .calibrateComb c => some (0x0601, c) | .calRead c => some (0x0602, c) | .calWrite c => some (0x0603, c)
  | .calSave c => some (0x0604, c) | .templateWrite c => some (0x0605, c) | .templateCommit c => some (0x0606, c)
  | .templateRead c => some (0x0607, c) | .attest c => some (0x0700, c) | .certRead c => some (0x0701, c) | .updateBegin c => some (0x0702, c)
  | .updateData c => some (0x0703, c) | .updateCommit c => some (0x0704, c) | .ownerKeyEnroll c => some (0x0705, c)
  | .healthRead c => some (0x0800, c) | .recorderRead c => some (0x0801, c) | .recorderFlush c => some (0x0802, c)
  | _ => none

end Sys2Proof

namespace Sys2Proof.Machine

open Sys2Proof

/-! ## Bounds -/

/-- A port holds no more than R334 (commands), R337 (kept replies) and R349 (events) let it hold. -/
def PortSt.inBounds (q : PortSt) (p : Nat) : Prop := q.queue.length ≤ queueRoom p ∧ q.kept.length ≤ 16 ∧ q.events ≤ 256

/-- Every port is within its bounds. -/
def State.portsOk (s : State) : Prop := ∀ p, (s.port p).inBounds p

/-- R441, log entry 14: no enrolment waits whose checks failed. -/
def State.enrollOk (s : State) : Prop := ∀ e, s.boot.enroll = some e → e.1 = Sts.OK

/-- The invariant of the block: every register canonical, at most 8 accepted state-changing commands (R336), at most 32 recorder posts waiting (R454), every
port within its bounds, and no failed enrolment waiting. -/
structure State.Inv (s : State) : Prop where
  regs : s.regs.wf (regReset s.variant) = true
  cmds : s.sys.cmds.length ≤ 8
  queue : s.recorder.queue.length ≤ 32
  ports : s.portsOk
  enroll : s.enrollOk

/-! ## The table of R343 -/

/-- R343, column Roles: OWNER, CLIENT, OBSERVER and SAFETY as 2, 1, 0 and 3. `STREAM_SUBSCRIBE` is open on lane ports alone (R359). -/
def cmdRoles (op p : Nat) : List Nat :=
  if op = 0x0400 ∧ p = 4 then []
  else if [0x0103, 0x0104, 0x0105, 0x0106, 0x0107, 0x0109, 0x010B, 0x0201, 0x0202, 0x0300, 0x0301, 0x0303, 0x0308, 0x0309, 0x0403, 0x0500, 0x0501, 0x0504].contains op ∨
      [0x0600, 0x0601, 0x0603, 0x0604, 0x0605, 0x0606, 0x0702, 0x0703, 0x0704, 0x0705].contains op then [2]
  else if [0x0108, 0x010A, 0x0802].contains op then [2, 3]
  else if [0x0305, 0x0306, 0x0307, 0x0400, 0x0401, 0x0502].contains op then [2, 1]
  else if [0x0102, 0x0503].contains op then [2, 1, 0]
  else [2, 1, 0, 3]

/-- R343, column States, by the codes of `SYS_STATE`. -/
def cmdStates (op : Nat) : List Nat :=
  if op = 0x0104 then [2]
  else if op = 0x0105 ∨ op = 0x0106 then [3]
  else if op = 0x0107 ∨ op = 0x0600 then [4, 5]
  else if op = 0x0108 then [3, 4, 5, 6]
  else if op = 0x0109 then [7, 8]
  else if op = 0x0601 then [3, 4, 5]
  else if op = 0x0603 ∨ op = 0x0604 then [2, 3, 7]
  else if op = 0x0704 ∨ op = 0x0705 then [2]
  else [2, 3, 4, 5, 6, 7, 8]

/-- R29: the state-changing commands, which are judged against the state that the last accepted command will reach. -/
def cmdJudged (op : Nat) : Bool := [0x0104, 0x0105, 0x0106, 0x0107, 0x0108, 0x0109, 0x0600].contains op

/-- R342: what runs in FAULT_HALT, from every role. -/
def cmdHalt (op : Nat) : Bool := [0x0101, 0x010A, 0x0801].contains op

/-- R332, check 2: whether `LENGTH` fits the opcode's parameter block: `PARAM_WRITE` (R345), bulk writes (R346) and `UPDATE_DATA` (R442) have as many bytes as they carry
entries or data, every other opcode the size that its rule gives. -/
def cmdFits (op : Nat) (c : Cmd) : Bool :=
  let n := c.length
  if op = 0x0201 then decide (8 ≤ n) && n == 8 + 4 * fieldAt c.params 4 2
  else if [0x0300, 0x0303, 0x0308, 0x0603, 0x0605].contains op then decide (16 ≤ n)
  else if op = 0x0703 then decide (8 ≤ n) && decide (n ≤ 4080)
  else if [0x0102, 0x0401, 0x0402].contains op then n == 1
  else if [0x0403, 0x0704].contains op then n == 2
  else if [0x010C, 0x0306, 0x0307, 0x0504, 0x0601].contains op then n == 4
  else if op = 0x0701 then n == 6
  else if [0x0200, 0x0301, 0x0302, 0x0304, 0x0309, 0x030A, 0x0602, 0x0606, 0x0607, 0x0702, 0x0801].contains op then n == 8
  else if [0x010B, 0x0202, 0x0503].contains op then n == 12
  else if op = 0x0400 then n == 16
  else if op = 0x0305 then n == 32
  else if op = 0x0700 then n == 36
  else if op = 0x0705 then n == 3732
  else n == 0

/-- R332, checks 4 and 5: whether port p may issue an opcode in the present state. -/
def State.cmdAllows (s : State) (op p : Nat) : Bool :=
  if s.dev = .faultHalt then cmdHalt op
  else (cmdRoles op p).contains (s.role p).code && (cmdStates op).contains (if cmdJudged op then s.judged else s.dev).code

/-! ## From arrival to reply -/

/-- The state in which a packet waits at port p: it reaches the port unless it waits there already. -/
def State.queued (s : State) (op p : Nat) (c : Cmd) : State :=
  if (s.port p).queue.any fun x => x.opcode == op && x.cmd == c then s else s.arrive p { opcode := op, lenOk := cmdLenOk c, cmd := c }

/-- Packet `c` of opcode `op` stands first at port p, whose turn it is (R335), as the entry `x`; it is not a resend (R337); `t` is the state in which it is carried
out. -/
structure State.Takes (s : State) (op : Nat) (c : Cmd) (p : Nat) (x : QCmd) (t : State) : Prop where
  port : p = s.portOf c.port
  serves : s.noCommands = false
  present : s.portExists p = true
  head : ((s.queued op p c).port p).queue.head? = some x
  opcode : x.opcode = op
  cmd : x.cmd = c
  turn : (s.queued op p c).hasTurn p = true
  fresh : (((s.queued op p c).popCmd p).port p).kept.find? (fun k => k.tag == c.tag.toNat && k.opcode == op) = none
  state : t = ((s.queued op p c).popCmd p).inc (Reg.PORT_CMD_COUNT p)

/-- A packet that is taken and passes checks 1 to 5 of R332; its parameter length is left to each row. -/
structure State.Admits (s : State) (op : Nat) (c : Cmd) (p : Nat) (x : QCmd) (t : State) : Prop extends s.Takes op c p x t where
  header : headerOk c p = true
  whole : x.lenOk = true
  allows : t.cmdAllows op p = true

/-- How a command ends that came to `y`: the reply is kept and sent (R333, R337), a `FORCE_SAFE` that acts at once does so, accepted commands whose turn it is act, and
packets of unknown opcodes that now stand first are answered. -/
def State.concludes (p : Nat) (x : QCmd) (y : Reply) : State := ((State.conclude p x y).runCmds 8).drainUnknown 68

/-- No accepted command waits, and at no port stands an unknown opcode first: a command that ends brings nothing else about. -/
def State.quiet (s : State) : Prop := s.sys.cmds = [] ∧ ∀ p x, (s.port p).queue.head? = some x → knownOpcode x.opcode = true ∧ x.aborted = false

end Sys2Proof.Machine
end

