-- ==== Sys2Proof/Certificates/Slice0/Obligations.lean ====
section
/-!
DEFINITION. Certificates/Slice0/Obligations.lean: the statements. A command of the table is stated from `State.Admits` on (Safety.lean): taken from its port, with
the checks of R332 passed; `State.concludes` is what becomes of its reply. Every other row is stated from its state and operands.
-/

open Sys2Proof Sys2Proof.Machine

/-! ## The machine and its step -/

/-- STEP (the model's queue of commands, first in, first out): with a command at the front of the queue, a step is that command's meaning on the state with the queue's
rest. -/
def Obligations.StepTakesFront : Prop :=
  ∀ (c : Instr) (l : List Instr) (s : State), step { s with pending := c :: l } = exec c { s with pending := l }

/-- On an empty queue a nanosecond passes: device time moves on outside RESET, the flags set at the instant that ends (R14) are set in an instant past, and nothing
else changes (the model's choice, log entry 3). -/
def Obligations.IdleStep : Prop :=
  ∀ s : State, s.pending = [] →
    step s = .next { s with now := s.now + 1, flagNow := [], time := if s.dev = .reset then s.time else s.time.tick }

/-- R472, R26, R33: right after reset every register holds its reset value, the state is BOOT with the cause power-on, no command waits anywhere, no port, lane or comb holds
anything, no conversion runs and no reading is pending, and every supply is at its nominal value. That reset ends in BOOT with the cause 0x01 and nominal supplies is the
model's choice (log entry 2). -/
def Obligations.ResetState : Prop :=
  (∀ a, State.reset.rd a = regReset State.reset.variant a) ∧ State.reset.dev = .boot ∧ State.reset.pending = [] ∧
    (∀ p, State.reset.port p = {}) ∧ (∀ l, State.reset.lanes.get {} l = {}) ∧ (∀ c, State.reset.combs.get {} c = {}) ∧
    State.reset.sys.cmds = [] ∧ State.reset.recorder.queue = [] ∧ State.reset.time.dev = 0 ∧
    State.reset.aux.sar = none ∧ State.reset.aux.deferred = [] ∧ State.reset.rx.readDue = none ∧ (∀ m, (State.reset.ma m).at_ = none) ∧ State.reset.aux.rtd.at_ = none ∧
    (∀ k, State.reset.power.rail k = nominalUv k) ∧ State.reset.power.anyLow = false ∧ State.reset.power.resetN = true

/-- The invariant holds right after reset. -/
def Obligations.ResetInv : Prop := State.reset.Inv

/-- R336, R334, R337, R349, R454: every step keeps the invariant, from any state that has it. -/
def Obligations.StepKeepsInv : Prop := ∀ s t : State, s.Inv → step s = .next t → t.Inv

/-- R404, R27: FAULT_HALT is left by a reset alone: by a brown-out (R480), by `RESET_N` (R481) or at the end of a `RESET_DEVICE` (R356). -/
def Obligations.FaultHaltStays : Prop :=
  ∀ s t : State, s.dev = .faultHalt → step s = .next t →
    t.dev = .faultHalt ∨ (t.dev = .reset ∧ (s.pending.head? = some .brownOut ∨ s.pending.head? = some .resetDeviceExpiry ∨
      ∃ ns, s.pending.head? = some (.resetNInput false ns)))

/-- R440, R441, R4: no step, reset among them, takes a step of the anti-rollback counter back, programs the owner key hash a second time, or changes the variant; and a
step takes the front off the queue of commands, and no more. -/
def Obligations.FusesStay : Prop :=
  ∀ s t : State, step s = .next t →
    s.boot.fuses.svn ≤ t.boot.fuses.svn ∧ (s.boot.fuses.ownerHash.isSome → t.boot.fuses.ownerHash = s.boot.fuses.ownerHash) ∧
      t.variant = s.variant ∧ t.pending = s.pending.tail

/-- R26, R29, R332: every command of the block, from any state, answers a next state: none faults and none is refused. That a row whose condition does not hold answers the
next state in which nothing has happened is the model's choice (log entry 4). -/
def Obligations.EveryRowAnswers : Prop := ∀ (i : Instr) (s : State), ∃ t, exec i s = .next t

/-! ## Commands: arrival, checks, reply (chapter 15) -/

/-- R334: a packet of an opcode of the table that reaches a port with room is queued last, with the time of its arrival; every register but `PORT_QUEUE_p`, and every other
port, stands as it was. (At no port does an unknown opcode wait first.) -/
def Obligations.ArrivalQueues : Prop :=
  ∀ (op : BitVec 16) (c : Cmd) (s : State) (p : Nat), p = s.portOf c.port → s.noCommands = false → s.portExists p = true →
    knownOpcode op.toNat = true → s.quiet → (s.port p).queue.length < (if p = 4 then 4 else 16) →
    ∃ t, exec (.commandArrival op c) s = .next t ∧
      t.port p = { s.port p with queue := (s.port p).queue ++ [{ opcode := op.toNat, lenOk := cmdLenOk c, cmd := c, rx := s.time.dev }] } ∧
      (∀ k, k ≠ p → t.port k = s.port k) ∧ (∀ a, a ≠ Reg.PORT_QUEUE p → t.rd a = s.rd a) ∧
      (∃ r q, t = { s with regs := r, ports := q })

/-- R334: at a full queue a packet is answered `BUSY` at once and is not queued: the reply waits to be sent, with the port's next `SEQ`, and the queue stands. -/
def Obligations.ArrivalBusy : Prop :=
  ∀ (op : BitVec 16) (c : Cmd) (s : State) (p : Nat), p = s.portOf c.port → s.noCommands = false → s.portExists p = true →
    s.quiet → (if p = 4 then 4 else 16) ≤ (s.port p).queue.length →
    ∃ t, exec (.commandArrival op c) s = .next t ∧ (t.port p).queue = (s.port p).queue ∧ (t.port p).kept = (s.port p).kept ∧
      (t.port p).out = (s.port p).out ++
        [{ port := c.b4.toNat % 8, opcode := op.toNat, tag := c.tag.toNat, isEvent := false, mandatory := false, status := Sts.BUSY, params := leBytes 8 0, seq := (s.port p).nextSeq,
           timeUs := s.timeUs }] ∧
      (∀ k, k ≠ p → t.port k = s.port k) ∧ t.bit Reg.CMD_FLAGS 0 = true ∧ (∃ r q f, t = { s with regs := r, ports := q, flagNow := f })

/-- R332, R331: the first two checks, in their order, for every command of the table: the header (`BAD_HEADER`), then the length rules of R331 and the size of the
parameter block (`BAD_LENGTH`, whose `DETAIL` names no byte beyond the one at fault, which is the first that is missing or too much: R333). A command that fails leaves what it was taken from, but for its reply. -/
def Obligations.ChecksInOrder : Prop :=
  ∀ (i : Instr) (op : Nat) (c : Cmd) (s : State) (p : Nat) (x : QCmd) (t : State), i.command? = some (op, c) → s.enrollOk →
    s.Takes op c p x t →
    (headerOk c p = false → exec i s = .next (State.concludes p x (t.fail Sts.BAD_HEADER))) ∧
    (headerOk c p = true → x.lenOk = false → ∃ d, d ≤ lenFault c ∧ exec i s = .next (State.concludes p x (t.fail Sts.BAD_LENGTH d))) ∧
    (headerOk c p = true → x.lenOk = true → cmdFits op c = false → ∃ d, d ≤ c.length ∧ exec i s = .next (State.concludes p x (t.fail Sts.BAD_LENGTH d)))

/-- R332, R342, R343: a command of exact length whose port may not issue it is answered `NOT_PERMITTED`, one that is not valid in the state `BAD_STATE`; in FAULT_HALT only
`IDENTIFY`, `RECORDER_READ` and `RESET_DEVICE` run, and every other answers `BAD_STATE`. The opcodes of the rows are those that the block knows. -/
def Obligations.RolesAndStates : Prop :=
  (∀ op : Nat, knownOpcode op = true ↔ ∃ (i : Instr) (c : Cmd), i.command? = some (op, c)) ∧
  (∀ (i : Instr) (op : Nat) (c : Cmd) (s : State) (p : Nat) (x : QCmd) (t : State), i.command? = some (op, c) → s.enrollOk →
    s.Takes op c p x t → headerOk c p = true → x.lenOk = true → cmdFits op c = true → t.cmdAllows op p = false →
    exec i s = .next (State.concludes p x (t.fail
      (if t.dev ≠ .faultHalt ∧ (cmdRoles op p).contains (t.role p).code = false then Sts.NOT_PERMITTED else Sts.BAD_STATE)))) ∧
  (∀ (t : State) (op p : Nat), t.dev = .faultHalt → (t.cmdAllows op p = true ↔ op = 0x0101 ∨ op = 0x010A ∨ op = 0x0801))

/-- R337: a resent command, one whose tag and opcode are those of a kept reply, is answered with that reply again and is not carried out. -/
def Obligations.ResentAnswered : Prop :=
  ∀ (i : Instr) (op : Nat) (c : Cmd) (s : State) (p : Nat) (x : QCmd) (k : KeptReply), i.command? = some (op, c) → s.enrollOk → p = s.portOf c.port →
    s.noCommands = false → s.portExists p = true → ((s.queued op p c).port p).queue.head? = some x → x.opcode = op → x.cmd = c →
    (s.queued op p c).hasTurn p = true →
    (((s.queued op p c).popCmd p).port p).kept.find? (fun k => k.tag == c.tag.toNat && k.opcode == op) = some k →
    exec i s = .next (((((s.queued op p c).popCmd p).sendReply p op c.tag.toNat k.status k.params k.port).runCmds 8).drainUnknown 68)

/-- R333, R337, R330: a command that ended well, or failed, with nothing else waiting: its reply, with its opcode, tag, `PORT`, status and parameters and the port's next `SEQ`, waits
to be sent, and is kept as the newest of at most 16; nothing else of the state changes but registers and that port. -/
def Obligations.ReplySent : Prop :=
  ∀ (p : Nat) (x : QCmd) (y : Reply), y.state.quiet → y.after = none → y.status ≠ Sts.INTERNAL_ERROR →
    ((State.concludes p x y).port p).out = (y.state.port p).out ++
      [{ port := x.port, opcode := x.opcode, tag := x.cmd.tag.toNat, isEvent := false, mandatory := false, status := y.status, params := y.params,
         seq := (y.state.port p).nextSeq, timeUs := y.state.timeUs }] ∧
    ((State.concludes p x y).port p).kept.getLast? = some ⟨x.cmd.tag.toNat, x.opcode, y.status, y.params, x.port⟩ ∧
    ((State.concludes p x y).port p).nextSeq = ((y.state.port p).nextSeq + 1) % 65536 ∧
    (∀ k, k ≠ p → (State.concludes p x y).port k = y.state.port k) ∧
    (∃ r q f, State.concludes p x y = { y.state with regs := r, ports := q, flagNow := f }) ∧
    (∀ a, a ≠ Reg.PORT_QUEUE p → a ≠ Reg.CMD_FLAGS → a ≠ Reg.PORT_CMD_ERR p → (State.concludes p x y).rd a = y.state.rd a)

/-- What is taken changes nothing but the port's queue, the port served last (R335) and the port's registers. -/
def Obligations.TakenFrame : Prop :=
  ∀ (s : State) (op : Nat) (c : Cmd) (p : Nat) (x : QCmd) (t : State), s.Takes op c p x t → (s.port p).queue = [] →
    (t.port p).queue = [] ∧ (t.port p).out = (s.port p).out ∧ (∀ k, k ≠ p → t.port k = s.port k) ∧
    (∃ r q n, t = { s with regs := r, ports := q, sys := { s.sys with lastLane := n } }) ∧
    t.r (Reg.PORT_CMD_COUNT p) = min (s.r (Reg.PORT_CMD_COUNT p) + 1) 0xFFFFFFFF ∧
    (∀ a, a ≠ Reg.PORT_QUEUE p → a ≠ Reg.PORT_CMD_COUNT p → t.rd a = s.rd a)

/-! ## The commands of the table (R343): each that passes the checks of R332 completes -/

/-- R343, R349, R445: `NOP` changes nothing and answers `OK` with no parameters; `EVENT_CONFIG` stores its 4 bytes as the event mask of the issuing port; `IDENTIFY` answers
the block of R445 and changes nothing. -/
def Obligations.PortCommandsRun : Prop :=
  ∀ (c : Cmd) (s : State) (p : Nat) (x : QCmd) (t : State),
    (s.Admits 0x0100 c p x t → c.length = 0 → exec (.nop c) s = .next (State.concludes p x ⟨t, 0, [], none⟩)) ∧
    (s.Admits 0x010C c p x t → c.length = 4 → exec (.eventConfig c) s =
      .next (State.concludes p x ⟨t.wr (Reg.PORT_EVT_MASK p) (BitVec.ofNat 32 (fieldAt c.params 0 4)), 0, [], none⟩)) ∧
    (s.Admits 0x0101 c p x t → c.length = 0 → exec (.identify c) s = .next (State.concludes p x ⟨t, 0, t.identify, none⟩))

/-- R339, R340: the table that decides an `OWNER_CLAIM`, in its order, and `OWNER_RELEASE`. A change of owner makes the claimant, and no other port, the owner, and gives the
former owner its default role. -/
def Obligations.OwnerCommandsDecided : Prop :=
  ∀ (c : Cmd) (s : State) (p : Nat) (x : QCmd) (t : State),
    (s.Admits 0x0102 c p x t → c.length = 1 →
      let eligible := t.bit Reg.PORT_ROLE_CFG (8 * p + 1)
      let force := bitN (fieldAt c.params 0 1) 0
      (eligible = false → exec (.ownerClaim c) s = .next (State.concludes p x (t.fail Sts.NOT_PERMITTED))) ∧
      (eligible = true → t.owner = some p → exec (.ownerClaim c) s = .next (State.concludes p x t.ok)) ∧
      (eligible = true → t.owner = none → exec (.ownerClaim c) s = .next (State.concludes p x (t.changeOwner (some p) 1).ok)) ∧
      (∀ o, eligible = true → t.owner = some o → o ≠ p → force = true → t.rank o < t.rank p →
        exec (.ownerClaim c) s = .next (State.concludes p x (t.changeOwner (some p) 2).ok)) ∧
      (∀ o, eligible = true → t.owner = some o → o ≠ p → (force = false ∨ t.rank p ≤ t.rank o) →
        exec (.ownerClaim c) s = .next (State.concludes p x (t.fail Sts.OWNER_HELD o)))) ∧
    (s.Admits 0x0103 c p x t → c.length = 0 → exec (.ownerRelease c) s = .next (State.concludes p x (t.changeOwner none 3).ok)) ∧
    (p < 5 → ∀ why, (t.changeOwner (some p) why).owner = some p ∧ (t.changeOwner (some p) why).role p = .owner) ∧
    (∀ why, (t.changeOwner none why).owner = none) ∧
    (∀ o who why, t.owner = some o → (∀ q, who = some q → q < 5 ∧ q ≠ o) → (t.changeOwner who why).role o = t.defaultRole o)

/-- R27, R29, R336: the state-changing commands. Accepted, a command waits last of at most 8 for its transition, and nothing else changes; a ninth is answered `BUSY`;
`START_SENSING` with `FAULT_IN` (R113) or an axis out of `AUTO` (R133), and `RECOVER` while its cause lasts (R403), are answered `BAD_STATE`; `FORCE_SAFE` in a state from
which SAFE is reached acts at once. (The codes of its cause for SAFETY and owner: R403.) -/
def Obligations.StateCommandsAccepted : Prop :=
  ∀ (c : Cmd) (s : State) (p : Nat) (x : QCmd) (t : State), c.length = 0 →
    let accepted (op code : Nat) : Reply := if 8 ≤ t.sys.cmds.length then t.fail Sts.BUSY
      else ⟨{ t with sys := { t.sys with cmds := t.sys.cmds ++ [{ opcode := op, port := p, tag := c.tag.toNat, code }] } }, 0, [], none⟩
    let code := if t.role p = .safety then 0x50 else 0x51
    (s.Admits 0x0104 c p x t → exec (.arm c) s = .next (State.concludes p x (accepted 0x0104 0))) ∧
    (s.Admits 0x0105 c p x t → exec (.disarm c) s = .next (State.concludes p x (accepted 0x0105 0))) ∧
    (s.Admits 0x0106 c p x t → exec (.startSensing c) s = .next (State.concludes p x
      (if t.bit Reg.EMIT_STATUS 5 = true ∨ t.f (Reg.AX_MODE 0) 1 0 ≠ 0 ∨ t.f (Reg.AX_MODE 1) 1 0 ≠ 0 then t.fail Sts.BAD_STATE else accepted 0x0106 0))) ∧
    (s.Admits 0x0107 c p x t → exec (.stopSensing c) s = .next (State.concludes p x (accepted 0x0107 0))) ∧
    (s.Admits 0x0108 c p x t → exec (.forceSafe c) s = .next (State.concludes p x
      (if t.dev.scanning = true then ⟨t, 0, [], some (.safe code)⟩ else accepted 0x0108 code))) ∧
    (s.Admits 0x0109 c p x t → exec (.recover c) s = .next (State.concludes p x (if t.mayRecover = true then accepted 0x0109 0 else t.fail Sts.BAD_STATE))) ∧
    (s.Admits 0x0600 c p x t → exec (.calibrateFull c) s = .next (State.concludes p x (accepted 0x0600 0)))

/-- R356: `RESET_DEVICE` answers `OK` and resets 1 ms later, with the cause 0x03; before that instant nothing happens. Every register then holds its reset value, but for the
code of the cause and `FAULT_IN`, which shows its pin (R113). (An enrolment whose fuses are being programmed ends either way: log entry 118.) -/
def Obligations.ResetDeviceRuns : Prop :=
  (∀ (c : Cmd) (s : State) (p : Nat) (x : QCmd) (t : State), s.Admits 0x010A c p x t → c.length = 0 →
    exec (.resetDevice c) s = .next (State.concludes p x ⟨{ t with sys := { t.sys with resetAt := some (t.now + 1000000) } }, 0, [], none⟩)) ∧
  (∀ (s : State) (at_ : Nat), s.sys.resetAt = some at_ → (s.now < at_ → exec .resetDeviceExpiry s = .next s) ∧
    (at_ ≤ s.now → ∃ t, exec .resetDeviceExpiry s = .next t ∧ t.dev = .reset ∧ (s.dev ≠ .reset → t.sys.prev = s.dev) ∧ t.sys.cause = 3 ∧ t.f Reg.SYS_STATE 15 8 = 3 ∧
      t.sys.cmds = [] ∧ (∀ k, t.port k = {}) ∧ (s.boot.enroll = none → t.boot.fuses = s.boot.fuses) ∧ t.power = s.power ∧ t.tap = s.tap ∧ t.now = s.now ∧ t.variant = s.variant ∧
      (∀ a, a ≠ Reg.SYS_STATE → a ≠ Reg.EMIT_STATUS → t.rd a = regReset s.variant a) ∧ t.bit Reg.EMIT_STATUS 5 = s.emit.faultLow.isSome))

/-- R274: `SYNC_TIME`: the offset from the command's arrival, slewed in mode 0; a step in mode 1 in STANDBY, ARMED and SAFE alone; a member of a swarm that is not its master
takes no host time. -/
def Obligations.SyncTimeDecided : Prop :=
  ∀ (c : Cmd) (s : State) (p : Nat) (x : QCmd) (t : State), s.Admits 0x010B c p x t → c.length = 12 →
    let mode := fieldBits c.params 8 1 1 0
    let o : Int := (fieldAt c.params 0 8 : Int) - x.rx
    let res := leBytes 8 x.rx ++ leBytes 8 (wrapNat 64 o)
    let member := t.swarmOn && !t.swarmMaster
    (member = true → exec (.syncTime c) s = .next (State.concludes p x (t.fail Sts.BAD_STATE))) ∧
    (member = false → 2 ≤ mode → exec (.syncTime c) s = .next (State.concludes p x (t.fail Sts.BAD_PARAM 8))) ∧
    (mode = 0 → member = false → exec (.syncTime c) s = .next (State.concludes p x ⟨t.slewTime o, 0, res, none⟩)) ∧
    (mode = 1 → member = false → (t.dev = .standby ∨ t.dev = .armed ∨ t.dev = .safe) →
      exec (.syncTime c) s = .next (State.concludes p x ⟨t.stepTime o, 0, res, none⟩)) ∧
    (mode = 1 → member = false → ¬ (t.dev = .standby ∨ t.dev = .armed ∨ t.dev = .safe) →
      exec (.syncTime c) s = .next (State.concludes p x (t.fail Sts.BAD_STATE)))

/-- R345, R470: `PARAM_READ`: an address that is not a multiple of 4, or at which there is no register, is `BAD_ADDRESS`; a register of a fused-off resource is
`NOT_PRESENT`; a count of 0 or beyond the port's limit is `BAD_PARAM`; otherwise the values, and nothing changes. -/
def Obligations.ParamReadDecided : Prop :=
  ∀ (c : Cmd) (s : State) (p : Nat) (x : QCmd) (t : State), s.Admits 0x0200 c p x t → c.length = 8 →
    let a := fieldAt c.params 0 4
    let n := fieldAt c.params 4 2
    let most := if p = 4 then 250 else 255
    (a % 4 ≠ 0 → exec (.paramRead c) s = .next (State.concludes p x (t.fail Sts.BAD_ADDRESS a))) ∧
    (a % 4 = 0 → n = 0 ∨ most < n → exec (.paramRead c) s = .next (State.concludes p x (t.fail Sts.BAD_PARAM 4))) ∧
    (a % 4 = 0 → 1 ≤ n → n ≤ most → regAt a = none → exec (.paramRead c) s = .next (State.concludes p x (t.fail Sts.BAD_ADDRESS a))) ∧
    (∀ h, a % 4 = 0 → 1 ≤ n → n ≤ most → regAt a = some h → h.present t.variant = false →
      exec (.paramRead c) s = .next (State.concludes p x (t.fail Sts.NOT_PRESENT a))) ∧
    (∀ h, a % 4 = 0 → 1 ≤ n → n ≤ most → regAt a = some h → h.present t.variant = true →
      exec (.paramRead c) s = .next (State.concludes p x ⟨t, 0, t.readRange a n, none⟩) ∧ (t.readRange a n).length = 4 + 4 * n ∧
      fieldAt (t.readRange a n) 0 2 = n ∧ fieldAt (t.readRange a n) 4 4 = (t.readReg h a).toNat)

/-- R345, R13: `PARAM_WRITE` of one register, and `PARAM_MODIFY`: a write that no rule refuses is stored, one that a rule refuses is answered with the rule's status and the
address and changes nothing, as `READ_ONLY` where every field is RO; a modify takes the bits of `MASK` from `VALUE`, and its reply carries the old value. -/
def Obligations.ParamWriteDecided : Prop :=
  ∀ (c : Cmd) (s : State) (p : Nat) (x : QCmd) (t : State),
    let a := fieldAt c.params 0 4
    (s.Admits 0x0201 c p x t → fieldAt c.params 4 2 = 1 → c.length = 12 →
      let v := BitVec.ofNat 32 (fieldAt c.params 8 4)
      (a % 4 ≠ 0 → exec (.paramWrite c) s = .next (State.concludes p x (t.fail Sts.BAD_ADDRESS a))) ∧
      (∀ st, a % 4 = 0 → t.writeFault false a v = some st → exec (.paramWrite c) s = .next (State.concludes p x (t.fail st a))) ∧
      (∀ h, a % 4 = 0 → regAt a = some h → h.present t.variant = true → h.row.acc = .ro →
        exec (.paramWrite c) s = .next (State.concludes p x (t.fail Sts.READ_ONLY a))) ∧
      (a % 4 = 0 → t.writeFault false a v = none →
        exec (.paramWrite c) s = .next (State.concludes p x ⟨t.writeReg a v c.port c.tag.toNat, 0, leBytes 2 1, none⟩))) ∧
    (s.Admits 0x0202 c p x t → c.length = 12 →
      let mask := BitVec.ofNat 32 (fieldAt c.params 4 4)
      let value := BitVec.ofNat 32 (fieldAt c.params 8 4)
      (a % 4 ≠ 0 → exec (.paramModify c) s = .next (State.concludes p x (t.fail Sts.BAD_ADDRESS a))) ∧
      (∀ h, a % 4 = 0 → regAt a = some h →
        let v := if h.row.acc = .w1c then value &&& mask else (t.readReg h a &&& ~~~mask) ||| (value &&& mask)
        (∀ st, t.writeFault false a v = some st → exec (.paramModify c) s = .next (State.concludes p x (t.fail st a))) ∧
        (h.present t.variant = true → h.row.acc = .ro → exec (.paramModify c) s = .next (State.concludes p x (t.fail Sts.READ_ONLY a))) ∧
        (t.writeFault false a v = none → exec (.paramModify c) s =
          .next (State.concludes p x ⟨t.writeReg a v c.port c.tag.toNat, 0, leBytes 4 (t.readReg h a).toNat, none⟩))))

/-- R345: `PARAM_WRITE` of several registers: the writes are made in ascending order of address, and the first that is refused ends the command with its status, its
address and how many were written before it. -/
def Obligations.ParamWriteInOrder : Prop :=
  ∀ (c : Cmd) (s : State) (p : Nat) (x : QCmd) (t : State) (k n : Nat), s.Admits 0x0201 c p x t →
    let a := fieldAt c.params 0 4
    let v (i : Nat) : Word := BitVec.ofNat 32 (fieldAt c.params (8 + 4 * i) 4)
    let after (i : Nat) : State := (List.range i).foldl (fun u i => u.writeReg (a + 4 * i) (v i) c.port c.tag.toNat) t
    a % 4 = 0 → n = fieldAt c.params 4 2 → 1 ≤ n → n ≤ (if p = 4 then 250 else 255) → c.length = 8 + 4 * n → k ≤ n →
    (∀ i, i < k → (after i).writeFault false (a + 4 * i) (v i) = none) →
    (k = n → exec (.paramWrite c) s = .next (State.concludes p x ⟨after n, 0, leBytes 2 n, none⟩)) ∧
    (∀ st, k < n → (after k).writeFault false (a + 4 * k) (v k) = some st →
      exec (.paramWrite c) s = .next (State.concludes p x ((after k).fail st (a + 4 * k) k)))

/-- Each row for the write of one register is a `PARAM_WRITE` (R345) of that register, with the bit of its action set (the model's reading of these rows: log entry 20): where the command is taken and no rule refuses the
write, it is stored and answered `OK`. -/
def Obligations.HostWritesRun : Prop :=
  ∀ (w : HostWrite) (s : State) (p : Nat) (x : QCmd) (t : State),
    let runs (i : Instr) (a : Nat) (action : Word) : Prop :=
      s.Admits 0x0201 (HostWrite.cmd w a (w.value ||| action)) p x t → t.writeFault false a (w.value ||| action) = none →
        exec i s = .next (State.concludes p x ⟨t.writeReg a (w.value ||| action) w.port w.tag.toNat, 0, leBytes 2 1, none⟩)
    runs (.arbSlotCommit w) 0x000A0008 1 ∧ runs (.arbSlotNext w) 0x000A000C 0 ∧ runs (.patCommit w) 0x000B003C 1 ∧ runs (.wagCommit w) 0x000C0008 1 ∧
    (∀ a, runs (.axModeWrite a w) (0x000C0200 + 0x80 * a.val) 0) ∧ (∀ a, runs (.axManValueWrite a w) (0x000C0204 + 0x80 * a.val) 0) ∧
    (∀ z, runs (.biasRetry z w) (0x00030100 + 0x10 * z.val) 0x8000) ∧ runs (.rxSelftestRun w) 0x00030018 1 ∧
    (∀ c, runs (.tdcStatRun c w) (0x00040400 + 0x20 * c.val) 0x80000000) ∧ runs (.feClear w) 0x00060038 1 ∧ runs (.ditherSaltWrite w) 0x0006000C 0 ∧
    runs (.fcPolyCommit w) 0x00080018 1 ∧ runs (.framePeriodWrite w) 0x00020104 0 ∧ (∀ l, runs (.laneRetrain l w) (0x000F0104 + 0x40 * l.val) 0x10000) ∧
    (∀ l, runs (.laneTxReq l w) (0x000F0104 + 0x40 * l.val) 0) ∧ runs (.forceFailover w) 0x00120028 1 ∧
    runs (.bulkReturn 0 w) 0x00120028 2 ∧ runs (.bulkReturn 1 w) 0x00120028 4 ∧
    (∀ m, runs (.maConfigWrite m 0 w) (0x000E0040 + 0x20 * m.val) 0 ∧ runs (.maConfigWrite m 1 w) (0x000E0044 + 0x20 * m.val) 0) ∧
    (∀ (m : Fin 3) (q : Fin 4), runs (.maConfigWrite m ⟨q.val + 2, by omega⟩ w) (0x000E0048 + 0x20 * m.val + 4 * q.val) 0) ∧
    runs (.rtdCtrlWrite w) 0x000E0400 0 ∧ (∀ r, runs (.rtdCfgWrite r w) (0x000E0410 + 0x10 * r.val) 0)

/-- What the writes of those registers do when they are stored (log entry 20; that a bias retry is noted for the next monitoring tick is log entry 44): R75 and R76 (slot table), R101 (patterns), R135 (Waggle shadow), R158 (bias retry), R165 (self-test), R188
(statistics), R219 (contexts), R263 (polyphase bank), R392 and R399 (`RED_CMD`), R133 and R134 (axes), R301 (monitor converters); and, for each row, where the write completes and what it leaves: no commit is pending (R75, R76, R101, R263), the state is one
in which the register is written (R135, R165, R212), the fields are in range, and the unit is there and may act. -/
def Obligations.HostWriteEffects : Prop :=
  (∀ (s : State) (v : Word) (p tag : Nat),
    s.writeReg 0x000A0008 v p tag = (if v.getLsbD 0 then s.slotCommit else s) ∧
    s.writeReg 0x000A000C v p tag = s.slotNextWrite (bitsOf v 7 0) (bitsOf v 11 8 + 16 * min 16 (bitsOf v 16 12)) ∧
    s.writeReg 0x000B003C v p tag =
      (if v.getLsbD 0 then (s.setBit Reg.EMIT_STATUS 4 true).setEmit { (s.setBit Reg.EMIT_STATUS 4 true).emit with patAt := some s.now } else s) ∧
    s.writeReg 0x000C0008 v p tag = (if v.getLsbD 0 then s.setBit Reg.WAG_STATUS 9 true else s) ∧
    s.writeReg 0x00030018 v p tag = (if v.getLsbD 0 then s.startSelftest else s) ∧
    s.writeReg 0x00060038 v p tag = (if v.getLsbD 0 then s.clearFe else s) ∧
    s.writeReg 0x00080018 v p tag = (if v.getLsbD 0 then s.commitPoly else s) ∧
    s.writeReg 0x00120028 v p tag = s.redCommand v ∧
    s.writeReg 0x000C0200 v p tag = s.wr 0x000C0200 ((s.rd 0x000C0200 &&& ~~~3) ||| (v &&& 3)) ∧
    s.writeReg 0x000C0280 v p tag = s.wr 0x000C0280 ((s.rd 0x000C0280 &&& ~~~3) ||| (v &&& 3)) ∧
    s.writeReg 0x000C0204 v p tag = s.wr 0x000C0204 ((s.rd 0x000C0204 &&& ~~~0xFFFF) ||| (v &&& 0xFFFF)) ∧
    s.writeReg 0x000C0284 v p tag = s.wr 0x000C0284 ((s.rd 0x000C0284 &&& ~~~0xFFFF) ||| (v &&& 0xFFFF)) ∧
    s.writeReg 0x000E0400 v p tag = (s.wr 0x000E0400 ((s.rd 0x000E0400 &&& ~~~0x3FFFFF) ||| (v &&& 0x3FFFFF))).restartRtd) ∧
  ∀ (w : HostWrite) (s : State) (p : Nat) (x : QCmd) (t : State),
    let ends (i : Instr) (a : Nat) (action : Word) (may : Word → Prop) (leaves : Word → State → Prop) : Prop :=
      s.Admits 0x0201 (HostWrite.cmd w a (w.value ||| action)) p x t → may (w.value ||| action) →
        ∃ u : State, exec i s = .next (State.concludes p x ⟨u, 0, leBytes 2 1, none⟩) ∧ leaves (w.value ||| action) u
    ends (.arbSlotCommit w) 0x000A0008 1 (fun _ => t.bit Reg.ARB_SLOT_STATUS 1 = false) (fun _ u =>
      (t.dev ≠ .standby → u.bit Reg.ARB_SLOT_STATUS 1 = true ∧ ∀ k, k < 256 → u.rd (Reg.ARB_SLOT_ACT k) = t.rd (Reg.ARB_SLOT_ACT k)) ∧
      (t.dev = .standby → u.bit Reg.ARB_SLOT_STATUS 1 = false ∧ ∀ k, k < 256 → u.rd (Reg.ARB_SLOT_ACT k) = t.rd (Reg.ARB_SLOT k))) ∧
    ends (.arbSlotNext w) 0x000A000C 0
      (fun v => t.bit Reg.ARB_SLOT_STATUS 1 = false ∧ bitsOf v 11 8 ≤ 5 ∧ (2 ≤ bitsOf v 11 8 → bitsOf v 11 8 - 2 < t.variant.lanes))
      (fun v u => u.r (Reg.ARB_SLOT (bitsOf v 7 0)) = bitsOf v 11 8 + 16 * min 16 (bitsOf v 16 12)) ∧
    ends (.patCommit w) 0x000B003C 1 (fun _ => t.bit Reg.EMIT_STATUS 4 = false) (fun _ u => u.bit Reg.EMIT_STATUS 4 = true ∧ u.emit.patAt = some t.now) ∧
    ends (.wagCommit w) 0x000C0008 1 (fun _ => t.dev = .standby ∨ t.dev = .armed) (fun _ u => u = t.setBit Reg.WAG_STATUS 9 true) ∧
    (∀ a, ends (.axModeWrite a w) (0x000C0200 + 0x80 * a.val) 0 (fun v => t.dev = .armed ∧ bitsOf v 1 0 ≠ 3) (fun v u => u.f (Reg.AX_MODE a.val) 1 0 = bitsOf v 1 0)) ∧
    (∀ a, ends (.axManValueWrite a w) (0x000C0204 + 0x80 * a.val) 0 (fun _ => t.dev = .armed) (fun v u => u.f (Reg.AX_MAN_VALUE a.val) 15 0 = bitsOf v 15 0)) ∧
    (∀ z, ends (.biasRetry z w) (0x00030100 + 0x10 * z.val) 0x8000 (fun _ => True) (fun _ u => z.val ∈ u.rx.retry)) ∧
    ends (.rxSelftestRun w) 0x00030018 1 (fun _ => t.dev = .standby ∨ t.dev = .armed) (fun _ u => u.bit Reg.RX_STATUS 2 = true ∧ u.rx.testAt = some t.now) ∧
    (∀ c, ends (.tdcStatRun c w) (0x00040400 + 0x20 * c.val) 0x80000000
      (fun v => c.val < t.variant.combs ∧ bitsOf v 7 4 ≤ 8 ∧ bitsOf v 12 8 ≤ 20 ∧ t.cal.full = none ∧ t.cal.run = none)
      (fun _ u => u.f (Reg.TDC_STAT_STATUS c) 2 0 = 1 ∧ u.r (Reg.TDC_STAT_COUNT c) = 0 ∧ (u.stat c).startAt = t.now ∧ (u.stat c).count = 0)) ∧
    ends (.feClear w) 0x00060038 1 (fun _ => True) (fun _ u => (∀ i, i < 64 → u.feSt i = 0) ∧ u.f Reg.REJ_STATUS 6 0 = 0 ∧ u.f Reg.REJ_STATUS 14 8 = 0) ∧
    ends (.ditherSaltWrite w) 0x0006000C 0 (fun _ => t.dev = .standby) (fun v u =>
      u.f Reg.DITHER_SALT 15 0 = bitsOf v 15 0 ∧ u.rej.lfsr = u.ditherSeed ∧ u.r Reg.DITHER_SEED = u.ditherSeed) ∧
    ends (.fcPolyCommit w) 0x00080018 1 (fun _ => t.bit Reg.FC_STATUS 1 = false) (fun _ u =>
      (t.dev ≠ .standby → u.bit Reg.FC_STATUS 1 = true ∧ ∀ r, r < 1024 → u.rd (Reg.FC_POLY_ACT r) = t.rd (Reg.FC_POLY_ACT r)) ∧
      (t.dev = .standby → u.bit Reg.FC_STATUS 1 = false ∧ ∀ r, r < 1024 → u.rd (Reg.FC_POLY_ACT r) = t.rd (Reg.FC_POLY r))) ∧
    ends (.framePeriodWrite w) 0x00020104 0 (fun v => 33334 ≤ bitsOf v 23 0 ∧ bitsOf v 23 0 ≤ 200000) (fun v u =>
      u.f Reg.FRAME_PERIOD 23 0 = bitsOf v 23 0 ∧
        u.f Reg.FRAME_STATUS 23 0 = if t.sync.span = true then t.f Reg.FRAME_STATUS 23 0 else bitsOf v 23 0) ∧
    (∀ l, ends (.laneRetrain l w) (0x000F0104 + 0x40 * l.val) 0x10000
      (fun v => l.val < t.variant.lanes ∧ bitsOf v 1 0 ≠ 3 ∧ (bitsOf v 1 0 = 2 → t.safetySub (t.portOf l) = false))
      (fun _ u => u.sys.retrainOwed = t.sys.retrainOwed ++ [(l.val, p, w.tag.toNat)])) ∧
    (∀ l, ends (.laneTxReq l w) (0x000F0104 + 0x40 * l.val) 0
      (fun v => l.val < t.variant.lanes ∧ bitsOf v 1 0 ≠ 3 ∧ (bitsOf v 1 0 = 2 → t.safetySub (t.portOf l) = false))
      (fun v u => u.f (Reg.LANE_PWR l) 1 0 = bitsOf v 1 0 ∧
        (bitsOf v 1 0 = 0 → t.laneOn l = true → t.f (Reg.LANE_STATUS l) 9 8 ≠ 0 → (t.lane l).wakeUntil = none → (u.lane l).wakeUntil.isSome = true))) ∧
    ends (.forceFailover w) 0x00120028 1
      (fun v => bitsOf v 2 1 = 0 ∧ (t.dev = .armed ∨ t.dev = .sensing ∨ t.dev = .degraded ∨ t.dev = .calibrating) ∧ t.plannerSt t.activePlanner = 4 ∧
        t.plannerSt (1 - t.activePlanner) = 2)
      (fun _ u => u.plannerSt t.activePlanner = 5 ∧ u.plannerSt (1 - t.activePlanner) = 3 ∧ u.red.takeover.isSome = true ∧ u.plan.queue = []) ∧
    (∀ k, ends (.bulkReturn k w) 0x00120028 (if k = 0 then 2 else 4)
      (fun v => bitsOf v 2 0 = (if k = 0 then 2 else 4) ∧ 2 * k.val < t.variant.lanes ∧ t.pairFormed k = true ∧
        t.f (Reg.PAIR_STATUS k) 1 1 ≠ t.f (Reg.PAIR_CTRL k) 0 0 ∧ t.laneUp (2 * k + t.f (Reg.PAIR_CTRL k) 0 0) = true)
      (fun _ u => u = t.setPair k { t.pair k with bulkReturn := true })) ∧
    (∀ m : Fin 3, ends (.maConfigWrite m 0 w) (0x000E0040 + 0x20 * m.val) 0
      (fun v => bitsOf v 2 1 ≠ 3 ∧ (bitsOf v 3 3 = 1 → t.f (Reg.MA_DEC m) 20 0 ≤ 80000))
      (fun v u => u.f (Reg.MA_CFG m) 3 0 = bitsOf v 3 0 ∧ u.ma m = { at_ := if u.maRuns m = true then some (8 * t.now) else none })) ∧
    (∀ m : Fin 3, ends (.maConfigWrite m 1 w) (0x000E0044 + 0x20 * m.val) 0
      (fun v => 256 ≤ bitsOf v 20 0 ∧ bitsOf v 20 0 ≤ if t.bit (Reg.MA_CFG m) 3 = true then 80000 else 1280000)
      (fun v u => u.f (Reg.MA_DEC m) 20 0 = bitsOf v 20 0 ∧ u.ma m = { at_ := if t.maRuns m = true then some (8 * t.now) else none })) ∧
    (∀ (m : Fin 3) (q : Fin 4), ends (.maConfigWrite m ⟨q.val + 2, by omega⟩ w) (0x000E0048 + 0x20 * m.val + 4 * q.val) 0
      (fun v => ∀ k, k < 4 → bitsOf v (8 * k + 6) (8 * k) ≤ 0x17 ∨ (0x20 ≤ bitsOf v (8 * k + 6) (8 * k) ∧ bitsOf v (8 * k + 6) (8 * k) ≤ 0x43))
      (fun v u => (∀ k, k < 4 → u.f (Reg.MA_SEQ m q) (8 * k + 6) (8 * k) = bitsOf v (8 * k + 6) (8 * k)) ∧
        u.ma m = { at_ := if t.maRuns m = true then some (8 * t.now) else none })) ∧
    ends (.rtdCtrlWrite w) 0x000E0400 0 (fun v => 800 ≤ bitsOf v 19 0 ∧ bitsOf v 19 0 ≤ 64000)
      (fun v u => u.f Reg.RTD_CTRL 19 0 = bitsOf v 19 0 ∧ (∀ q, t.nextInput 7 = some q → u.aux.rtd.input = q ∧ u.aux.rtd.at_ = some (2 * t.now)) ∧
        (t.nextInput 7 = none → u.aux.rtd = {})) ∧
    (∀ r, ends (.rtdCfgWrite r w) (0x000E0410 + 0x10 * r.val) 0 (fun v => bitsOf v 6 4 ≤ 5)
      (fun v u => u.f (Reg.RTD_CFG r) 6 4 = bitsOf v 6 4 ∧ u.f (Reg.RTD_CFG r) 1 0 = bitsOf v 1 0 ∧ (bitsOf v 1 0 = 0 → u.f (Reg.RTD_TEMP r) 18 16 = 4)))

/-- R346, R42, R47, R251, R237, R423: a bulk write: its length, its check word and its range are checked, in that order; a table whose commit is pending is
`TABLE_LOCKED`; otherwise the entries stand in the shadow bank, the track contexts or the working set. -/
def Obligations.BulkWritesDecided : Prop :=
  ∀ (c : Cmd) (s : State) (p : Nat) (x : QCmd) (t : State), 16 ≤ c.length →
    let first := fieldAt c.params 0 4
    let n := fieldAt c.params 4 2
    let entries (size : Nat) := bulkEntries c.params size n
    let checked (size total : Nat) (y : Reply) : Reply :=
      if c.length ≠ 16 + size * n then t.fail Sts.BAD_PARAM 4
      else if crc32c (c.params.drop 16) ≠ fieldAt c.params 8 4 then t.fail Sts.CRC_FAIL
      else if total < first + n ∨ total ≤ first then t.fail Sts.BAD_PARAM 0
      else y
    let locked (b : Bool) (y : Reply) : Reply := if b then t.fail Sts.TABLE_LOCKED else y
    let sct := 1 - t.sctActive
    let zone := 1 - t.zoneActive
    let tpl := 1 - t.f Reg.TPL_STATUS 0 0
    (s.Admits 0x0300 c p x t → exec (.sctWrite c) s = .next (State.concludes p x (checked 32 65536 (locked (t.bit Reg.SCT_STATUS 1)
      (t.setSctBank sct (putEntries blank32 (t.sctBank sct) first (entries 32))).ok)))) ∧
    (s.Admits 0x0303 c p x t → exec (.trackWrite c) s = .next (State.concludes p x (checked 64 4096 (t.writeTracks first (entries 64)).ok))) ∧
    (s.Admits 0x0308 c p x t → exec (.zoneWrite c) s = .next (State.concludes p x (checked 32 64 (locked (t.bit Reg.ZONE_TABLE_STATUS 1)
      (t.setZoneBank zone (putEntries blank32 (t.zoneBank zone) first (entries 32))).ok)))) ∧
    (s.Admits 0x0605 c p x t → exec (.templateWrite c) s = .next (State.concludes p x (checked 144 16 (locked (t.bit Reg.TPL_STATUS 1)
      (match bulkFault 144 tplFault (entries 144) with
      | some o => t.fail Sts.BAD_PARAM o
      | none => (t.setTplBank tpl (putEntries blankTpl (t.tplBank tpl) first ((entries 144).map tplFields))).ok))))) ∧
    (s.Admits 0x0603 c p x t → exec (.calWrite c) s = .next (State.concludes p x (checked 16 812
      (match t.calFault first (entries 16) with
      | some f => t.fail f.1 f.2
      | none => (State.calDirty (t.each ((entries 16).zipIdx.filter fun e => !t.calAbsent (first + e.2)) fun u e => u.setCalEntry (first + e.2) e.1)).ok))))

/-- R347, R348: a commit: one that is pending locks the table, the count must fit, the check word of the first entries of the shadow bank must agree; then the
validation of R42 (Scan Cell Table) and R251 (zones) decides, and the swap waits for the boundary outside STANDBY: a table that it accepts is pending, or in STANDBY
the active one, and one that it rejects is answered `TABLE_REJECTED`, with the code and the index in its status, and its event follows the reply. -/
def Obligations.CommitsDecided : Prop :=
  ∀ (c : Cmd) (s : State) (p : Nat) (x : QCmd) (t : State), c.length = 8 →
    let n := fieldAt c.params 0 4
    let checked (pending countOk : Bool) (entry : Nat → List Byte) (y : Reply) : Reply :=
      if pending = true then t.fail Sts.TABLE_LOCKED
      else if countOk = false then t.fail Sts.BAD_PARAM 0
      else if crc32c ((List.range n).map entry).flatten ≠ fieldAt c.params 4 4 then t.fail Sts.CRC_FAIL
      else y
    (s.Admits 0x0301 c p x t → exec (.sctCommit c) s = .next (State.concludes p x
      (checked (t.bit Reg.SCT_STATUS 1) (decide (n ≤ 65536)) (t.sctEntry (1 - t.sctActive)) (t.commitSct n)))) ∧
    (s.Admits 0x0309 c p x t → exec (.zoneCommit c) s = .next (State.concludes p x
      (checked (t.bit Reg.ZONE_TABLE_STATUS 1) (n == 64) ((t.zoneBank (1 - t.zoneActive)).get blank32) t.commitZones))) ∧
    (s.Admits 0x0606 c p x t → exec (.templateCommit c) s = .next (State.concludes p x
      (checked (t.bit Reg.TPL_STATUS 1) (n == 16) ((t.tplBank (1 - t.f Reg.TPL_STATUS 0 0)).get blankTpl)
        (if t.dev = .standby then (t.setBit Reg.TPL_STATUS 1 true).swapTpl else t.setBit Reg.TPL_STATUS 1 true).ok))) ∧
    (let passes (pending countOk : Bool) (entry : Nat → List Byte) : Prop :=
      pending = false ∧ countOk = true ∧ crc32c ((List.range n).map entry).flatten = fieldAt c.params 4 4
    (s.Admits 0x0301 c p x t → passes (t.bit Reg.SCT_STATUS 1) (decide (n ≤ 65536)) (t.sctEntry (1 - t.sctActive)) →
      (t.sctValidate n = none → ∃ u : State, exec (.sctCommit c) s = .next (State.concludes p x u.ok) ∧ u.f Reg.SCT_STATUS 15 8 = 0 ∧ u.plan.commitCount = n ∧
        (t.dev ≠ .standby → u.bit Reg.SCT_STATUS 1 = true ∧ u.sctActive = t.sctActive) ∧
        (t.dev = .standby → u.bit Reg.SCT_STATUS 1 = false ∧ u.sctActive = 1 - t.sctActive ∧ u.r Reg.SCT_ACTIVE_COUNT = n)) ∧
      (∀ code i, t.sctValidate n = some (code, i) → ∃ u : State, exec (.sctCommit c) s = .next (State.concludes p x
          { u.fail Sts.TABLE_REJECTED with after := some (.event Ev.SCT_REJECTED (leBytes 1 code ++ leBytes 1 0 ++ leBytes 2 i)) }) ∧
        u.f Reg.SCT_STATUS 15 8 = code % 256 ∧ u.r Reg.SCT_REJECT_INDEX = i % 2 ^ 32 ∧ u.sctActive = t.sctActive)) ∧
    (s.Admits 0x0309 c p x t → passes (t.bit Reg.ZONE_TABLE_STATUS 1) (n == 64) ((t.zoneBank (1 - t.zoneActive)).get blank32) →
      (t.zoneValidate = none → ∃ u : State, exec (.zoneCommit c) s = .next (State.concludes p x u.ok) ∧ u.f Reg.ZONE_TABLE_STATUS 15 8 = 0 ∧
        (t.dev ≠ .standby → u.bit Reg.ZONE_TABLE_STATUS 1 = true ∧ u.zoneActive = t.zoneActive) ∧
        (t.dev = .standby → u.bit Reg.ZONE_TABLE_STATUS 1 = false ∧ u.zoneActive = 1 - t.zoneActive)) ∧
      (∀ code i, t.zoneValidate = some (code, i) → ∃ u : State, exec (.zoneCommit c) s = .next (State.concludes p x
          { u.fail Sts.TABLE_REJECTED with after := some (.event Ev.ZONE_REJECTED (leBytes 1 code ++ leBytes 1 0 ++ leBytes 2 i)) }) ∧
        u.f Reg.ZONE_TABLE_STATUS 15 8 = code % 256 ∧ u.f Reg.ZONE_TABLE_STATUS 21 16 = i % 64 ∧ u.zoneActive = t.zoneActive)) ∧
    (s.Admits 0x0606 c p x t → passes (t.bit Reg.TPL_STATUS 1) (n == 16) ((t.tplBank (1 - t.f Reg.TPL_STATUS 0 0)).get blankTpl) → ∃ u : State,
      exec (.templateCommit c) s = .next (State.concludes p x u.ok) ∧
        (t.dev ≠ .standby → u.bit Reg.TPL_STATUS 1 = true ∧ u.bit Reg.TPL_STATUS 0 = t.bit Reg.TPL_STATUS 0) ∧
        (t.dev = .standby → u.bit Reg.TPL_STATUS 1 = false ∧ u.bit Reg.TPL_STATUS 0 = !t.bit Reg.TPL_STATUS 0)))

/-- R346, R42, R47, R251, R237, R423: a bulk read answers as many whole entries as were asked for, as the packet holds and as the table has from `FIRST` on, behind their
prefix, and changes nothing but the count of free values that the reads of double-banked tables take: which bank they read, the spec does not say (log entry 28); and a
read of the flash record flags the copies whose check word fails (R425). Reserved fields of cells and zones read 0 (R15). `CAL_READ` has nothing between the working set and
the record, nor behind the record. -/
def Obligations.BulkReadsRun : Prop :=
  ∀ (c : Cmd) (s : State) (p : Nat) (x : QCmd) (t : State), c.length = 8 →
    let first := fieldAt c.params 0 4
    let n (size total : Nat) := min (fieldAt c.params 4 2) (min ((if p = 4 then 992 else 4064) / size) (total - first))
    let bank := Config.freeNat t.freeCtr % 2
    let u : State := { t with freeCtr := t.freeCtr + 1 }
    let read (t : State) (size total : Nat) (get : Nat → List Byte) : Reply :=
      if total ≤ first then t.fail Sts.BAD_PARAM 0 else ⟨t, 0, bulkReply first ((List.range (n size total)).map fun i => get (first + i)), none⟩
    (s.Admits 0x0302 c p x t → exec (.sctRead c) s = .next (State.concludes p x (read u 32 65536 fun i => sctFields (t.sctEntry bank i)))) ∧
    (s.Admits 0x030A c p x t → exec (.zoneRead c) s = .next (State.concludes p x (read u 32 64 fun i => zoneFields ((t.zoneBank bank).get blank32 i)))) ∧
    (s.Admits 0x0607 c p x t → exec (.templateRead c) s = .next (State.concludes p x (read u 144 16 ((t.tplBank bank).get blankTpl)))) ∧
    (s.Admits 0x0304 c p x t → exec (.trackRead c) s = .next (State.concludes p x (read t 64 4096 t.track))) ∧
    (s.Admits 0x0602 c p x t →
      (first < 812 → exec (.calRead c) s = .next (State.concludes p x (read t 16 812 t.calEntry))) ∧
      (∀ r, 4096 ≤ first → t.newestRec = some r →
        exec (.calRead c) s = .next (State.concludes p x (read (if first < 4908 then t.findTorn else t) 16 4908 fun i => r.entries.getD (i - 4096) []))) ∧
      (4096 ≤ first → first < 4908 → t.newestRec = none → exec (.calRead c) s = .next (State.concludes p x (t.findTorn.fail Sts.CRC_FAIL))) ∧
      (812 ≤ first ∧ first < 4096 ∨ 4908 ≤ first → exec (.calRead c) s = .next (State.concludes p x (t.fail Sts.BAD_PARAM 0))))

/-- R68, R69, R70, R71: region requests: a block with a field at fault, or for a stream that has a request, is refused; otherwise the request is queued on its stream;
a cancel answers the passes served; a priority sets the stream's `SUB_PRIO`. -/
def Obligations.RegionCommandsDecided : Prop :=
  ∀ (c : Cmd) (s : State) (p : Nat) (x : QCmd) (t : State),
    let k := fieldBits c.params 2 1 2 0
    let i := 6 * p + k
    (s.Admits 0x0305 c p x t → c.length = 32 →
      (∀ o, regionFault t.columns c.params = some o → exec (.regionRequest c) s = .next (State.concludes p x (t.fail Sts.BAD_PARAM o))) ∧
      (regionFault t.columns c.params = none → (t.stream i).req.isSome = true →
        exec (.regionRequest c) s = .next (State.concludes p x (t.fail Sts.STREAM_BUSY))) ∧
      (regionFault t.columns c.params = none → (t.stream i).req = none →
        exec (.regionRequest c) s = .next (State.concludes p x (t.queueRequest i c.params).ok) ∧
        ((t.queueRequest i c.params).stream i).req = some (regionReq c.params) ∧ ((t.queueRequest i c.params).stream i).subPrio = fieldBits c.params 3 1 1 0)) ∧
    (s.Admits 0x0306 c p x t → c.length = 4 →
      (5 < k → exec (.regionCancel c) s = .next (State.concludes p x (t.fail Sts.BAD_PARAM 2))) ∧
      (k ≤ 5 → exec (.regionCancel c) s = .next (State.concludes p x ⟨t.cancelStream i, 0,
        leBytes 2 (if (t.stream i).req.isSome then min 65535 (t.stream i).served else 0), none⟩))) ∧
    (s.Admits 0x0307 c p x t → c.length = 4 →
      (5 < k → exec (.regionPriority c) s = .next (State.concludes p x (t.fail Sts.BAD_PARAM 2))) ∧
      (k ≤ 5 → exec (.regionPriority c) s = .next (State.concludes p x
        (t.setStream i { t.stream i with subPrio := fieldBits c.params 3 1 1 0 }).ok)))

/-- R359, R360: subscriptions: a block at fault is `BAD_PARAM`; with no free channel of the port's eight, or with rings beyond 512 MiB, it is `NO_RESOURCE`; otherwise the
first free channel holds it, and the reply names it. A status changes nothing; an unsubscribe ends the subscription. -/
def Obligations.StreamCommandsDecided : Prop :=
  ∀ (c : Cmd) (s : State) (p : Nat) (x : QCmd) (t : State),
    let k := fieldAt c.params 0 1
    let u := subFrom p c.params
    (s.Admits 0x0400 c p x t → c.length = 16 →
      (t.subOk u = false → exec (.streamSubscribe c) s = .next (State.concludes p x (t.fail Sts.BAD_PARAM (subFault u)))) ∧
      (t.subOk u = true → (∀ j, j < 8 → (t.sub (8 * p + j)).state ≠ 0) →
        exec (.streamSubscribe c) s = .next (State.concludes p x (t.fail Sts.NO_RESOURCE))) ∧
      (∀ j, t.subOk u = true → j < 8 → (∀ i, i < j → (t.sub (8 * p + i)).state ≠ 0) → (t.sub (8 * p + j)).state = 0 →
        exec (.streamSubscribe c) s = .next (State.concludes p x (if 536870912 < t.ringBytes + t.ringCap u then t.fail Sts.NO_RESOURCE
          else ⟨t.setSub (8 * p + j) { u with asked := some t.now }, 0, leBytes 1 j ++ leBytes 1 (8 * p + j), none⟩)))) ∧
    (s.Admits 0x0401 c p x t → c.length = 1 →
      (¬ (p < 4 ∧ k < 8 ∧ (t.sub (8 * p + k)).state ≠ 0) → exec (.streamUnsubscribe c) s = .next (State.concludes p x (t.fail Sts.BAD_PARAM 0))) ∧
      (p < 4 → k < 8 → (t.sub (8 * p + k)).state ≠ 0 → exec (.streamUnsubscribe c) s = .next (State.concludes p x
        ⟨(t.finishMove (8 * p + k)).endSub (8 * p + k), 0, leBytes 4 ((t.finishMove (8 * p + k)).sub (8 * p + k)).waiting, none⟩))) ∧
    (s.Admits 0x0402 c p x t → c.length = 1 →
      (8 ≤ k → exec (.streamStatus c) s = .next (State.concludes p x (t.fail Sts.BAD_PARAM 0))) ∧
      (k < 8 → exec (.streamStatus c) s = .next (State.concludes p x ⟨t, 0,
        if p < 4 ∧ (t.sub (8 * p + k)).state ≠ 0 then (t.sub (8 * p + k)).status else Sub.status {}, none⟩)))

/-- R382, R379: `DMA_RESTART` of a channel that is present and halted, with nothing of its opcode running, notes the command, and the channel restarts once it is answered
(R336); and an append writes its descriptor where the stacked DRAM has one (R4) and, when the old tail was linked to it, becomes the tail; a channel that the variant does not have takes none, and its
restart is `NOT_PRESENT` (R6). -/
def Obligations.DmaCommandsDecided : Prop :=
  (∀ (c : Cmd) (s : State) (p : Nat) (x : QCmd) (t : State), s.Admits 0x0403 c p x t → c.length = 2 →
    let n := fieldAt c.params 0 1
    let mode := fieldAt c.params 1 1
    let u : State := { t with sys := { t.sys with running := t.sys.running ++ [⟨0x0403, p, c.tag.toNat⟩] } }
    ((t.sys.running.any fun d => d.opcode == 0x0403) = true → exec (.dmaRestart c) s = .next (State.concludes p x (t.fail Sts.BUSY))) ∧
    ((t.sys.running.any fun d => d.opcode == 0x0403) = false →
      (64 ≤ n ∨ t.variant.dmaPresent n = true ∧ t.f (Reg.DMA_STATUS n) 1 0 ≠ 3 → exec (.dmaRestart c) s = .next (State.concludes p x (t.fail Sts.BAD_PARAM 0))) ∧
      (n < 64 → t.variant.dmaPresent n = false → exec (.dmaRestart c) s = .next (State.concludes p x (t.fail Sts.NOT_PRESENT 0))) ∧
      (t.variant.dmaPresent n = true → t.f (Reg.DMA_STATUS n) 1 0 = 3 → 1 < mode →
        exec (.dmaRestart c) s = .next (State.concludes p x (t.fail Sts.BAD_PARAM 1))) ∧
      (t.variant.dmaPresent n = true → t.f (Reg.DMA_STATUS n) 1 0 = 3 → mode ≤ 1 →
        exec (.dmaRestart c) s = .next (State.concludes p x ⟨u.setDma n { u.dma n with restarting := true }, 0, [], some (.restartDma n (mode == 1))⟩)))) ∧
  (∀ (n : Fin 64) (addr : Word) (d : DmaDesc) (linked : Bool) (s : State),
    (s.variant.dmaPresent n.val = false → exec (.dmaAppend n addr d linked) s = .next s) ∧
    (s.variant.dmaPresent n.val = true → s.f (Reg.DMA_STATUS n.val) 1 0 = 1 → addr.toNat % 32 = 0 → addr.toNat + 32 ≤ s.variant.dramBytes →
      d.src < 2 ^ 32 → d.dst < 2 ^ 32 → d.count < 2 ^ 24 → (∀ a, (s.dma n.val).tail = some a → a % 32 = 0) → ∃ t,
      exec (.dmaAppend n addr d linked) s = .next t ∧
      (linked = true → (t.dma n.val).tail = some addr.toNat ∧
        (∀ a, (s.dma n.val).tail = some a → a + 32 ≤ s.variant.dramBytes → (t.desc a).next = addr.toNat)) ∧
      ((t.desc addr.toNat).src = d.src ∧ (t.desc addr.toNat).dst = d.dst ∧ (t.desc addr.toNat).count = d.count) ∧ t.regs = s.regs ∧ t.ports = s.ports))

/-- R286, R287, R284, R283, R282, R499: the commands of the capture engine: an arming engine takes the first free slot, or stops for want of one; a stop drops what has not been
triggered and closes what has, cut off where it still fills; an enabled trigger starts the filling after it, or at the instant of a re-arm is missed (a supervisor cycle is one instant: log entry 66); and a slot that is freed is empty, and taken at once by an
engine that had stopped. -/
def Obligations.CaptureCommandsDecided : Prop :=
  ∀ (c : Cmd) (s : State) (p : Nat) (x : QCmd) (t : State),
    let slot := fieldAt c.params 0 1
    let off := fieldAt c.params 4 4
    let len := fieldAt c.params 8 2
    let bytes := (t.capSlot slot).bytes
    (s.Admits 0x0500 c p x t → c.length = 0 → exec (.captureArm c) s = .next (State.concludes p x t.captureArm.ok)) ∧
    (s.Admits 0x0501 c p x t → c.length = 0 →
      exec (.captureStop c) s = .next (State.concludes p x (if t.capSt = 0 then t else t.captureStop).ok)) ∧
    (s.Admits 0x0502 c p x t → c.length = 0 → exec (.captureTrigger c) s = .next (State.concludes p x (t.trigger 0 p x.rx).ok)) ∧
    (s.Admits 0x0503 c p x t → c.length = 12 → exec (.captureRead c) s = .next (State.concludes p x
      (if t.capSlots ≤ slot then t.fail Sts.BAD_PARAM 0
      else if (t.capSlot slot).st ≠ 2 then t.fail Sts.BAD_STATE
      else if len = 0 ∨ (if p = 4 then 1000 else 4064) < len then t.fail Sts.BAD_PARAM 8
      else if bytes.length < off + len then t.fail Sts.BAD_PARAM 4
      else ⟨t, 0, leBytes 4 off ++ leBytes 2 len ++ leBytes 2 0 ++ bytesAt bytes off len, none⟩))) ∧
    (s.Admits 0x0504 c p x t → c.length = 4 → exec (.captureFree c) s = .next (State.concludes p x
      (if t.capSlots ≤ slot then t.fail Sts.BAD_PARAM 0 else if (t.capSlot slot).st ≠ 2 then t.fail Sts.BAD_STATE else (t.captureFree slot).ok))) ∧
    (s.Admits 0x0500 c p x t → c.length = 0 → t.capSt = 0 →
      (∀ i, i < t.capSlots → (t.capSlot i).st = 0 → (∀ j, j < i → (t.capSlot j).st ≠ 0) → ∃ u : State, exec (.captureArm c) s = .next (State.concludes p x u.ok) ∧
        u.capSt = 1 ∧ u.cap.cur = i ∧ (u.capSlot i).st = 1 ∧ u.cap.input = [] ∧ u.cap.loss = none) ∧
      ((∀ j, j < t.capSlots → (t.capSlot j).st ≠ 0) → t.bit Reg.CAP_SIZE 27 = false → ∃ u : State, exec (.captureArm c) s = .next (State.concludes p x u.ok) ∧
        u.capSt = 5 ∧ u.bit Reg.CAP_FLAGS 4 = true ∧ u.cap = t.cap)) ∧
    (s.Admits 0x0501 c p x t → c.length = 0 →
      (t.capSt = 0 → exec (.captureStop c) s = .next (State.concludes p x t.ok)) ∧
      (t.capSt = 1 ∨ t.capSt = 2 → ∃ u : State, exec (.captureStop c) s = .next (State.concludes p x u.ok) ∧ u.capSt = 0 ∧ u.capSlot t.cap.cur = {} ∧
        u.cap.ring = [] ∧ u.cap.input = []) ∧
      (t.capSt = 3 ∨ t.capSt = 4 → ∃ u : State, exec (.captureStop c) s = .next (State.concludes p x u.ok) ∧ u.capSt = 0 ∧ (u.capSlot t.cap.cur).st = 2 ∧
        (u.capSlot t.cap.cur).truncated = decide (t.capSt = 3) ∧ u.r Reg.CAP_COUNT = min (t.r Reg.CAP_COUNT + 1) 0xFFFFFFFF)) ∧
    (s.Admits 0x0502 c p x t → c.length = 0 →
      (t.bit Reg.CAP_TRIG_MASK 0 = false ∨ t.capSt = 0 → exec (.captureTrigger c) s = .next (State.concludes p x t.ok)) ∧
      (∀ k, t.bit Reg.CAP_TRIG_MASK 0 = true → t.capSt = 1 ∨ t.capSt = 2 → t.cap.rearmed = some (t.now, k) → ∃ u : State,
        exec (.captureTrigger c) s = .next (State.concludes p x u.ok) ∧ u.capSt = t.capSt ∧ u.r Reg.CAP_MISSED = min (t.r Reg.CAP_MISSED + 1) 0xFFFFFFFF ∧
        u.bit Reg.CAP_FLAGS 1 = true) ∧
      (t.bit Reg.CAP_TRIG_MASK 0 = true → t.capSt = 1 ∨ t.capSt = 2 → (∀ k, t.cap.rearmed ≠ some (t.now, k)) → ∃ u : State, exec (.captureTrigger c) s = .next (State.concludes p x u.ok) ∧ u.capSt = 3 ∧
        (u.capSlot t.cap.cur).src = 0 ∧ (u.capSlot t.cap.cur).detail = p ∧ (u.capSlot t.cap.cur).trigTime = x.rx ∧
        (u.capSlot t.cap.cur).preShort = decide (t.capSt = 1) ∧ (u.capSlot t.cap.cur).items = t.cap.ring.map (·.2) ∧ u.cap.ring = [])) ∧
    (s.Admits 0x0504 c p x t → c.length = 4 → slot < t.capSlots → (t.capSlot slot).st = 2 →
      (t.capSt ≠ 5 → exec (.captureFree c) s = .next (State.concludes p x (t.setCapSlot slot {}).ok)) ∧
      (t.capSt = 5 → ∃ u : State, exec (.captureFree c) s = .next (State.concludes p x u.ok) ∧ u.capSt = 1 ∧ u.cap.stopped = none ∧ (u.capSlot u.cap.cur).st = 1))

/-- R420, R423, R424, R336: `CALIBRATE_COMB` and `CAL_SAVE`: while one runs a second is `BUSY`; a comb beyond 31 is `BAD_PARAM`, one that the variant does not have is
`NOT_PRESENT`, and one whose run is in progress is `BUSY` (R428); otherwise the comb is due, or the save starts, and `COMMAND_DONE` will report it. -/
def Obligations.CalibrationCommandsDecided : Prop :=
  ∀ (c : Cmd) (s : State) (p : Nat) (x : QCmd) (t : State),
    let comb := fieldAt c.params 0 1
    let runs (op : Nat) : Bool := t.sys.running.any fun d => d.opcode == op
    let noted (u : State) (op : Nat) : State := { u with sys := { u.sys with running := u.sys.running ++ [⟨op, p, c.tag.toNat⟩] } }
    (s.Admits 0x0601 c p x t → c.length = 4 →
      (runs 0x0601 = true → exec (.calibrateComb c) s = .next (State.concludes p x (t.fail Sts.BUSY))) ∧
      (runs 0x0601 = false → 32 ≤ comb → exec (.calibrateComb c) s = .next (State.concludes p x (t.fail Sts.BAD_PARAM 0))) ∧
      (runs 0x0601 = false → comb < 32 → t.variant.combs ≤ comb → exec (.calibrateComb c) s = .next (State.concludes p x (t.fail Sts.NOT_PRESENT 0))) ∧
      (∀ r, runs 0x0601 = false → comb < t.variant.combs → t.cal.run = some r → r.comb = comb →
        exec (.calibrateComb c) s = .next (State.concludes p x (t.fail Sts.BUSY))) ∧
      (runs 0x0601 = false → comb < t.variant.combs → (∀ r, t.cal.run = some r → r.comb ≠ comb) → ∃ u : State,
        exec (.calibrateComb c) s = .next (State.concludes p x (noted u 0x0601).ok) ∧ u.cal.named = [comb] ∧ u.bit (Reg.CAL_COMB comb) 17 = true ∧
        u = { t with regs := u.regs, cal := u.cal })) ∧
    (s.Admits 0x0604 c p x t → c.length = 0 →
      (runs 0x0604 = true ∨ t.cal.save.isSome = true → exec (.calSave c) s = .next (State.concludes p x (t.fail Sts.BUSY))) ∧
      (runs 0x0604 = false → t.cal.save = none → exec (.calSave c) s = .next (State.concludes p x (noted (t.startSave blankTpl) 0x0604).ok) ∧
        ∃ v, (t.startSave blankTpl).cal.save = some v ∧ v.rec_.entries = t.calEntries ∧ (t.startSave blankTpl).bit Reg.CAL_STATUS 8 = true ∧
          (t.startSave blankTpl).cal.lastSave = t.now))

/-- R449, R448: `ATTEST` signs a new report, which carries the nonce, and keeps it for the port; on LP it comes in three parts, of which the second and the third are of the
report that is kept, for its nonce alone; `CERT_READ` answers a range of the certificate in force. The random bytes of a signature are free (log entry 7). -/
def Obligations.AttestAndCertDecided : Prop :=
  ∀ (c : Cmd) (s : State) (p : Nat) (x : QCmd) (t : State),
    let nonce := bytesAt c.params 0 32
    let part := fieldAt c.params 32 1
    let r := t.newReport p nonce
    let off := fieldAt c.params 0 4
    let len := fieldAt c.params 4 2
    (s.Admits 0x0700 c p x t → c.length = 36 →
      ((if p = 4 then 2 else 0) < part → exec (.attest c) s = .next (State.concludes p x (t.fail Sts.BAD_PARAM 32))) ∧
      (part = 0 → exec (.attest c) s = .next (State.concludes p x
        ⟨{ t with freeCtr := t.freeCtr + 1, boot := { t.boot with reports := t.boot.reports.set [] p r } }, 0, if p = 4 then bytesAt r 0 1000 else r, none⟩)) ∧
      (∀ k, p = 4 → part = k → k = 1 ∨ k = 2 → t.boot.reports.get [] 4 ≠ [] → bytesAt (t.boot.reports.get [] 4) 16 32 = nonce →
        exec (.attest c) s = .next (State.concludes p x ⟨t, 0, ((t.boot.reports.get [] 4).drop (1000 * k)).take 1000, none⟩)) ∧
      (p = 4 → part = 1 ∨ part = 2 → t.boot.reports.get [] 4 = [] ∨ bytesAt (t.boot.reports.get [] 4) 16 32 ≠ nonce →
        exec (.attest c) s = .next (State.concludes p x (t.fail Sts.BAD_PARAM 0)))) ∧
    (s.Admits 0x0701 c p x t → c.length = 6 →
      ((if p = 4 then 1000 else 4064) < len → exec (.certRead c) s = .next (State.concludes p x (t.fail Sts.BAD_PARAM 4))) ∧
      (len ≤ (if p = 4 then 1000 else 4064) → 3808 < off + len → exec (.certRead c) s = .next (State.concludes p x (t.fail Sts.BAD_PARAM 0))) ∧
      (len ≤ (if p = 4 then 1000 else 4064) → off + len ≤ 3808 → exec (.certRead c) s = .next (State.concludes p x
        (match t.boot.flash.cert with
        | none => t.fail Sts.CRC_FAIL
        | some q => ⟨t, 0, flashAt q.2 off len, none⟩))))

/-- R442, R443: secure update: a session opens with the kind and total of its image and the next session number; data must follow on what is there, with its check
word, and within the total; in THERMAL_STOP it is `BUSY` (R415), and while a commit is under way `BAD_STATE`; during a flush or a calibration save it waits at its port; a
commit names its session. A check, which waits likewise, closes the session as it ends, and an image that failed leaves flash and fuses as they were. The numbers of the
sessions are the model's choice (log entry 13), and so is that the data waits at its port (log entry 124). -/
def Obligations.UpdateCommandsDecided : Prop :=
  (∀ s : State, ((∀ u, s.boot.upd = some u → u.committing = false) → exec .updateCheckDone s = .next s) ∧
    (∀ u, s.boot.upd = some u → u.committing = true → s.flashIdle = false ∨ s.cal.save.isSome = true → exec .updateCheckDone s = .next s) ∧
    (∀ p, s.dev ≠ .thermalStop → s.recorder.flush.isSome = true ∨ s.cal.save.isSome = true → (s.port p).queue.head?.map (·.opcode) = some 0x0703 → s.hasTurn p = false) ∧
    (∀ u, s.boot.upd = some u → u.committing = true → s.flashIdle = true → s.cal.save = none → ∃ t, exec .updateCheckDone s = .next t ∧ t.boot.upd = none ∧ t.boot.fuses = s.boot.fuses ∧
      ((s.updateCheck u).2.1 ≠ Sts.OK → t.boot.flash = s.boot.flash) ∧ t.r Reg.UPDATE_STATUS = 0)) ∧
  ∀ (c : Cmd) (s : State) (p : Nat) (x : QCmd) (t : State),
    let kind := fieldAt c.params 0 1
    let total := fieldAt c.params 4 4
    let off := fieldAt c.params 0 4
    let data := c.params.drop 8
    (s.Admits 0x0702 c p x t → c.length = 8 →
      (kind < 1 ∨ 3 < kind → exec (.updateBegin c) s = .next (State.concludes p x (t.fail Sts.BAD_PARAM 0))) ∧
      (1 ≤ kind → kind ≤ 3 → updLimit kind < total → exec (.updateBegin c) s = .next (State.concludes p x (t.fail Sts.BAD_PARAM 4))) ∧
      (1 ≤ kind → kind ≤ 3 → total ≤ updLimit kind → ∃ u, exec (.updateBegin c) s = .next (State.concludes p x u) ∧ u.status = 0 ∧
        u.params = leBytes 2 t.endUpdate.boot.nextSession ∧
        u.state.boot.upd = some { session := t.endUpdate.boot.nextSession, kind, total } ∧
        u.state.boot.nextSession = (t.endUpdate.boot.nextSession + 1) % 65536)) ∧
    (s.Admits 0x0703 c p x t → 8 ≤ c.length → c.length ≤ 4080 → t.dev = .thermalStop →
      exec (.updateData c) s = .next (State.concludes p x (t.fail Sts.BUSY))) ∧
    (s.Admits 0x0703 c p x t → 8 ≤ c.length → c.length ≤ 4080 → t.dev ≠ .thermalStop →
      (t.boot.upd = none → exec (.updateData c) s = .next (State.concludes p x (t.fail Sts.BAD_STATE))) ∧
      (∀ u, t.boot.upd = some u → u.committing = true → exec (.updateData c) s = .next (State.concludes p x (t.fail Sts.BAD_STATE))) ∧
      (∀ u, t.boot.upd = some u → u.committing = false →
        (off = u.bytes.length → crc32c data = fieldAt c.params 4 4 → u.total < off + data.length →
          exec (.updateData c) s = .next (State.concludes p x (t.fail Sts.BAD_PARAM 8))) ∧
        (off = u.bytes.length → crc32c data = fieldAt c.params 4 4 → off ≤ u.total → data = [] → exec (.updateData c) s = .next (State.concludes p x t.ok)) ∧
        (off ≠ u.bytes.length → exec (.updateData c) s = .next (State.concludes p x (t.fail Sts.SEQ_ERROR))) ∧
        (off = u.bytes.length → crc32c data ≠ fieldAt c.params 4 4 → exec (.updateData c) s = .next (State.concludes p x (t.fail Sts.CRC_FAIL))) ∧
        (off = u.bytes.length → crc32c data = fieldAt c.params 4 4 → off + data.length ≤ u.total → data ≠ [] → ∃ w,
          exec (.updateData c) s = .next (State.concludes p x ⟨w, 0, [], none⟩) ∧ w.boot.upd = some { u with bytes := u.bytes ++ data } ∧
            w.boot.fuses = t.boot.fuses ∧ w.ports = t.ports))) ∧
    (s.Admits 0x0704 c p x t → c.length = 2 → (t.sys.running.any fun d => d.opcode == 0x0704) = false →
      (t.boot.upd = none → exec (.updateCommit c) s = .next (State.concludes p x (t.fail Sts.BAD_STATE))) ∧
      (∀ u, t.boot.upd = some u → u.committing = true → exec (.updateCommit c) s = .next (State.concludes p x (t.fail Sts.BUSY))) ∧
      (∀ u, t.boot.upd = some u → u.committing = false → u.session ≠ fieldAt c.params 0 2 →
        exec (.updateCommit c) s = .next (State.concludes p x (t.fail Sts.BAD_PARAM 0))) ∧
      (∀ u, t.boot.upd = some u → u.committing = false → u.session = fieldAt c.params 0 2 → ∃ w,
        exec (.updateCommit c) s = .next (State.concludes p x ⟨w, 0, [], none⟩) ∧ w.boot.upd = some { u with committing := true } ∧
          w.sys.running = t.sys.running ++ [⟨0x0704, p, c.tag.toNat⟩]))

/-- R441: `OWNER_KEY_ENROLL` answers `OK` and is under way; with fuses that hold a key, or a key that is not the one named, it ends with its status in `COMMAND_DONE`;
when it succeeds the hash is burnt at `OWNER_KEY_FUSE_DONE`, and never over another. -/
def Obligations.OwnerKeyRuns : Prop :=
  (∀ (c : Cmd) (s : State) (p : Nat) (x : QCmd) (t : State), s.Admits 0x0705 c p x t → c.length = 3732 →
    let busy : Bool := t.sys.running.any fun d => d.opcode == 0x0705
    let u : State := { t with
      boot := { t.boot with enroll := some (t.enrolment c.params) }
      sys := { t.sys with running := t.sys.running ++ [⟨0x0705, p, c.tag.toNat⟩] } }
    (busy = true → exec (.ownerKeyEnroll c) s = .next (State.concludes p x (t.fail Sts.BUSY)).enrollFails) ∧
    (busy = false → exec (.ownerKeyEnroll c) s = .next (State.concludes p x ⟨u, 0, [], none⟩).enrollFails)) ∧
  (∀ s : State, (s.boot.enroll = none → exec .ownerKeyFuseDone s = .next s) ∧
    (∀ e, s.boot.enroll = some e → ∃ t, exec .ownerKeyFuseDone s = .next t ∧ t.boot.enroll = none ∧ t.bit Reg.BOOT_STATUS 6 = true ∧
      t.boot.fuses = { s.boot.fuses with ownerHash := some (s.boot.fuses.ownerHash.getD e.2) } ∧ t.boot.flash = s.boot.flash))

/-- R406, R464, R458, R463: the health report is 72 bytes of the registers as they stand; recorder units are read after the 8 parameter bytes; `RECORDER_FLUSH` is
`BUSY` in THERMAL_STOP or while one runs, and otherwise a flush of trigger 1 is due. -/
def Obligations.HealthAndRecorderRun : Prop :=
  ∀ (c : Cmd) (s : State) (p : Nat) (x : QCmd) (t : State),
    let src := fieldAt c.params 0 1
    let first := fieldAt c.params 2 2
    let n := fieldAt c.params 4 2
    (s.Admits 0x0800 c p x t → c.length = 0 → exec (.healthRead c) s = .next (State.concludes p x ⟨t, 0, t.health, none⟩) ∧ t.health.length = 72) ∧
    (s.Admits 0x0801 c p x t → c.length = 8 → exec (.recorderRead c) s = .next (State.concludes p x
      (if 8 < src then t.fail Sts.BAD_PARAM 0
      else if n = 0 ∨ (if p = 4 then 62 else 254) < n then t.fail Sts.BAD_PARAM 4
      else if 4096 < first + n then t.fail Sts.BAD_PARAM 2
      else ⟨t, 0, bytesAt c.params 0 8 ++ ((List.range n).map fun i => t.recUnit src (first + i)).flatten, none⟩))) ∧
    (s.Admits 0x0802 c p x t → c.length = 0 →
      ((t.sys.running.any fun d => d.opcode == 0x0802) = true ∨ t.dev = .thermalStop →
        exec (.recorderFlush c) s = .next (State.concludes p x (t.fail Sts.BUSY))) ∧
      ((t.sys.running.any fun d => d.opcode == 0x0802) = false → t.dev ≠ .thermalStop → ∃ u,
        exec (.recorderFlush c) s = .next (State.concludes p x ⟨u, 0, [], none⟩) ∧
        u.sys.running = ((t.setRec { t.recorder with cmdNext := true }).flushTrigger 1).sys.running ++ [⟨0x0802, p, c.tag.toNat⟩] ∧
        (t.recorder.flush = none → t.sys.hardStop = false → u.recorder.cmdWaits = true ∧ ∃ f, u.recorder.flush = some f ∧ f.trigger = 1 ∧ f.budget = none) ∧
        (∀ f, t.recorder.flush = some f → u.recorder = { t.recorder with cmdNext := true, triggers := (1, t.dev.code, t.time.dev) :: t.recorder.triggers })))

/-! ## Supplies, reset, boot, the test port -/

/-- R478, R479, R480, R481, R482, R483, R492: a rail's new value is kept, with the instants since when it is below 90 % and all are above 93 % of nominal; the ring does not outlive its
supply; a rail low for 2 µs resets with the cause 0x01 and takes the test port's state, a low level of `RESET_N` of 1 µs resets with 0x02, and as `RESET_N` rises a test
instruction that held the balls is `BYPASS`; and 1 ms after all rails and `RESET_N` are up, and not before, BOOT begins with device time 0. In RESET the
emitter's balls are at their levels of R482, and without `VDD_IO33` `DRIP` and `SAFE_STATE_N` are low (at which level of the rail is log entry 127). (An enrolment whose fuses are
being programmed ends either way: log entry 118.) -/
def Obligations.SuppliesAndReset : Prop :=
  ∀ s : State,
    (∀ (k : Fin 9) (uv : Nat), ∃ t, exec (.powerRailChange k uv) s = .next t ∧
      t.power.rail k.val = uv ∧ (∀ j : Nat, j ≠ k.val → t.power.rail j = s.power.rail j ∧ t.power.lowSince.get none j = s.power.lowSince.get none j) ∧
      (t.power.lowSince.get none k.val).isSome = t.power.low k.val ∧ t.power.okSince.isSome = t.power.allUp ∧
      (¬ (k.val = 1 ∧ uv < 820000) → t = { s with power := t.power }) ∧
      (k.val = 1 → uv < 820000 → (∀ i e, (i, some e) ∈ t.recorder.ring.entries → e.ok = false) ∧
        t = { s with power := t.power, recorder := { s.recorder with ring := t.recorder.ring } })) ∧
    ((∀ (k low : Nat), k < 9 → s.power.lowSince.get none k = some low → s.now < low + 2000) → exec .brownOut s = .next s) ∧
    (∀ (k low : Nat), k < 9 → s.power.lowSince.get none k = some low → low + 2000 ≤ s.now → ∃ t, exec .brownOut s = .next t ∧ t.dev = .reset ∧ t.sys.cause = 1 ∧
      t.power = s.power ∧ t.tap = {} ∧ (s.boot.enroll = none → t.boot.fuses = s.boot.fuses)) ∧
    (∀ ns, ns < 1000 → exec (.resetNInput false ns) s = .next s) ∧
    (∀ ns, 1000 ≤ ns → ∃ t, exec (.resetNInput false ns) s = .next t ∧ t.dev = .reset ∧ t.power.resetN = false ∧
      (s.dev ≠ .reset → t.sys.cause = 2) ∧ (s.boot.enroll = none → t.boot.fuses = s.boot.fuses) ∧ t.tap = s.tap) ∧
    (∀ ns, exec (.resetNInput true ns) s =
      .next (if s.power.resetN = true then s else { s with power := { s.power with resetN := true, resetAt := s.now }, tap := s.tap.released })) ∧
    (∀ ns, s.power.resetN = false → s.tap.instr ∈ [TapInstr.extest, .extestPulse, .extestTrain, .highz, .clamp] → ∃ t, exec (.resetNInput true ns) s = .next t ∧
      t.tap.instr = .bypass) ∧
    (∀ (fl : Bool) (ok : Nat), s.power.okSince = some ok → s.dev = .reset → s.power.resetN = true → s.power.anyLow = false →
      (s.now < max ok s.power.resetAt + 1000000 → exec (.resetRelease fl) s = .next s) ∧
      (max ok s.power.resetAt + 1000000 ≤ s.now → ∃ t, exec (.resetRelease fl) s = .next t ∧ t.dev = .boot ∧ t.sys.prev = .reset ∧ t.now = 0 ∧
        t.time.dev = 0 ∧ t.power.flSel = fl ∧ t.power.flSampled = fl ∧ t.boot.fuses = s.boot.fuses ∧ t.recorder.ring = s.recorder.ring ∧
        t.r Reg.REC_NEXT_SEQ = s.recScan % 2 ^ 32)) ∧
    (s.dev = .reset → s.drive .laserEn = .low ∧ s.drive .drip = .low ∧ ∀ k, s.drive (.fireP k) = .low ∧ s.drive (.fireN k) = .high) ∧
    (s.power.low 8 = true → s.drive .drip = .low ∧ (s.tap.instr ∈ [TapInstr.bypass, .idcode, .samplePreload] → s.drive .safeStateN = .low))

/-- R437, R438, R440, R446, R412: `BOOT_DONE` outside BOOT does nothing; in BOOT the directory is read, the boot is counted, the status of the owner key, the certificate and
the fuses is shown, the flash interface takes the fastest mode that SFDP offers and its supply allows (R491), and boot goes on: to STANDBY (which a block too hot leaves for
THERMAL_STOP at once, R28) where the stacked DRAM, the identity, both images and the self-test are good, with the hash of the identity key programmed if no boot programmed
it before, and to FAULT_HALT otherwise. A step of the anti-rollback counter is burnt in STANDBY alone, while the counter is below what the images allow, and not while the
die is at 110 °C or above: else it waits, and `SVN_DEFERRED` says so. -/
def Obligations.BootAndCounter : Prop :=
  ∀ s : State,
    let b := s.bootDirectory
    let v := ((b.1.setBit Reg.BOOT_STATUS 6 b.1.boot.fuses.ownerHash.isSome).setBit Reg.BOOT_STATUS 7 b.1.boot.flash.cert.isSome).setF
      Reg.SVN_STATUS 7 0 b.1.boot.fuses.svn
    let begun (r : BootReport) : State := v.setBoot { v.boot with flashMode := v.fastMode r.sfdp }
    (∀ r, s.dev ≠ .boot → exec (.bootDone r) s = .next s) ∧
    (∀ r, s.dev = .boot → exec (.bootDone r) s = .next (State.bootOn (begun r) r b.2.1 b.2.2)) ∧
    (∀ r, s.dev = .boot → s.boot.flash.dir.bootCount + 1 < 2 ^ 32 → ∃ t, exec (.bootDone r) s = .next t ∧
      t.boot.flash.dir.bootCount = s.boot.flash.dir.bootCount + 1 ∧
      t.boot.fuses.svn = s.boot.fuses.svn ∧ t.boot.fuses.ownerHash = s.boot.fuses.ownerHash ∧
      (s.boot.fuses.idHash.isSome → t.boot.fuses.idHash = s.boot.fuses.idHash) ∧
      (t.dev = .standby ∨ t.dev = .thermalStop ∨ t.dev = .faultHalt) ∧
      (let f := (begun r).pickImage 1 b.2.1
       let good : Bool := f.2.any fun fw => r.dramOk && (
         let w := f.1.runFirmware fw
         let k := State.checkIdentity (w.setBoot { w.boot with dramUp := true }) r
         let c := k.1.pickImage 2 b.2.2
         k.2 && c.2.any fun cfg => (((c.1.runConfig cfg).loadRecord).selftest r).2)
       if good = true then (t.dev = .standby ∨ t.dev = .thermalStop) ∧ t.boot.fuses.idHash.isSome else t.dev = .faultHalt)) ∧
    (s.dev = .standby → s.boot.fuses.svn < min 64 (s.f Reg.SVN_STATUS 31 24) → (∀ T k, s.tPol = some (T, k) → T < 7040) → ∃ t, exec .svnFuseStep s = .next t ∧
      t.boot.fuses = { s.boot.fuses with svn := s.boot.fuses.svn + 1 }) ∧
    (s.dev = .reset ∨ min 64 (s.f Reg.SVN_STATUS 31 24) ≤ s.boot.fuses.svn → exec .svnFuseStep s = .next s) ∧
    (s.dev ≠ .reset → s.dev ≠ .standby ∨ s.fuseCool = false → s.boot.fuses.svn < min 64 (s.f Reg.SVN_STATUS 31 24) → ∃ t, exec .svnFuseStep s = .next t ∧
      t.boot = s.boot ∧ t.bit Reg.BOOT_FLAGS 3 = true ∧ (∀ a, a ≠ Reg.BOOT_FLAGS → t.rd a = s.rd a)) ∧
    (s.dev = .standby → s.boot.fuses.svn < min 64 (s.f Reg.SVN_STATUS 31 24) → s.fuseCool = true → ∃ t, exec .svnFuseStep s = .next t ∧
      t.boot.fuses = { s.boot.fuses with svn := s.boot.fuses.svn + 1 } ∧ t.f Reg.SVN_STATUS 7 0 = s.boot.fuses.svn + 1 ∧
      t.boot.flash = s.boot.flash ∧ (∀ a, a ≠ Reg.SVN_STATUS → t.rd a = s.rd a))

/-- R492: the test port. With `TRST_N` low every instruction leaves `IDCODE` selected; `EXTEST` and its two kin are `BYPASS` unless `RESET_N` is low; and a test port
instruction changes the port alone, but for the free values that the cells capture (log entry 29). -/
def Obligations.TestPortRuns : Prop :=
  ∀ (s : State) (cells : Nat),
    let selects (i : Instr) (x : TapInstr) (d : Nat) : Prop := exec i s = .next { s with tap := { s.tap with instr := x, data := d } }
    let captures (i : Instr) (x : TapInstr) : Prop :=
      exec i s = .next { s with freeCtr := s.freeCtr + 1, tap := { s.tap with instr := x, data := Config.freeNat s.freeCtr } }
    (∀ i : Instr, i ∈ [Instr.jtagBypass false, .jtagIdcode false, .jtagSamplePreload false cells, .jtagExtest false, .jtagExtestPulse false, .jtagExtestTrain false,
      .jtagHighz false, .jtagClamp false] → selects i .idcode 0x1E350D4F) ∧
    selects (.jtagBypass true) .bypass 0 ∧ selects (.jtagIdcode true) .idcode 0x1E350D4F ∧
    exec (.jtagSamplePreload true cells) s =
      .next { s with freeCtr := s.freeCtr + 1, tap := { instr := .samplePreload, data := Config.freeNat s.freeCtr, preload := cells } } ∧
    (s.power.resetN = true → ∀ i : Instr, i ∈ [Instr.jtagExtest true, .jtagExtestPulse true, .jtagExtestTrain true, .jtagHighz true, .jtagClamp true] → selects i .bypass 0) ∧
    (s.power.resetN = false → captures (.jtagExtest true) .extest ∧ captures (.jtagExtestPulse true) .extestPulse ∧ captures (.jtagExtestTrain true) .extestTrain ∧
      selects (.jtagHighz true) .highz 0 ∧ selects (.jtagClamp true) .clamp 0)

/-- R478, R481, R492: what the balls carry and the clock of the block stay as they are under every row but those of the supplies, of reset and of the test port. -/
def Obligations.BallsStay : Prop :=
  ∀ (i : Instr) (s t : State), exec i s = .next t →
    (∀ k uv, i ≠ .powerRailChange k uv) → i ≠ .brownOut → (∀ h ns, i ≠ .resetNInput h ns) → (∀ fl, i ≠ .resetRelease fl) →
    (∀ b, i ≠ .jtagBypass b ∧ i ≠ .jtagIdcode b ∧ i ≠ .jtagExtest b ∧ i ≠ .jtagExtestPulse b ∧ i ≠ .jtagExtestTrain b ∧ i ≠ .jtagHighz b ∧ i ≠ .jtagClamp b) →
    (∀ b c, i ≠ .jtagSamplePreload b c) → t.power = s.power ∧ t.tap = s.tap ∧ t.now = s.now

/-! ## LP -/

/-- R352 to R354: on LP the instruction byte of a transaction says what it is, and other codes do nothing; a packet whose check word agrees reaches port 4 as any command does; one that fails is counted and flagged, and nothing else changes; a read clocks
the next packet out, and the packet leaves the queue when `LP_CS_N` is released after all of it was read; a status read clears `LP_CRC_ERR` of the status. -/
def Obligations.LpPortRuns : Prop :=
  ∀ (s : State) (bytes : List Byte) (n : Nat),
    (exec (.lpWritePacket bytes) s = .next (s.lpTransaction (0x02 :: bytes)) ∧ exec (.lpReadPacket n) s = .next (s.lpTransaction (0x0B :: List.replicate (n + 1) 0)) ∧
      exec .lpReadStatus s = .next (s.lpTransaction [0x05])) ∧
    (∀ b : Byte, b ≠ 0x02 → b ≠ 0x0B → b ≠ 0x05 → s.lpTransaction (b :: bytes) = s) ∧
    (s.noCommands = true → exec (.lpWritePacket bytes) s = .next s ∧ exec (.lpReadPacket n) s = .next s ∧ exec .lpReadStatus s = .next s) ∧
    (s.noCommands = false →
      (lpPacketOk bytes = true →
        let k := parseCmd 4 (bytes.take (bytes.length - 4))
        exec (.lpWritePacket bytes) s = .next ((s.arrive 4 { opcode := k.1, lenOk := cmdLenOk k.2, cmd := k.2 }).drainUnknown 68) ∧
        (s.quiet → knownOpcode k.1 = true → (s.port 4).queue.length < 4 → ∃ t, exec (.lpWritePacket bytes) s = .next t ∧
          (t.port 4).queue = (s.port 4).queue ++ [{ opcode := k.1, lenOk := cmdLenOk k.2, cmd := k.2, rx := s.time.dev }] ∧
          (∀ p, p ≠ 4 → t.port p = s.port p) ∧ (∀ a, a ≠ Reg.PORT_QUEUE 4 → t.rd a = s.rd a))) ∧
      (lpPacketOk bytes = false → ∃ t, exec (.lpWritePacket bytes) s = .next t ∧ t.sys = { s.sys with lpCrcErr := true } ∧ t.ports = s.ports ∧
        t.r Reg.LP_CRC_ERR = min (s.r Reg.LP_CRC_ERR + 1) 0xFFFFFFFF ∧ t.bit Reg.CMD_FLAGS 2 = true ∧
        (∀ a, a ≠ Reg.LP_CRC_ERR → a ≠ Reg.CMD_FLAGS → t.rd a = s.rd a)) ∧
      exec (.lpReadPacket n) s = .next { s with sys := { s.sys with
        lpOut := s.lpNext.take n, lpTaken := !(s.port 4).out.isEmpty && decide (s.lpNext.length ≤ n) } } ∧
      exec .lpReadStatus s = .next { s with sys := { s.sys with lpOut := leBytes 4 s.lpStatus, lpCrcErr := false } }) ∧
    (s.sys.lpTaken = false → exec .lpCsRelease s = .next s) ∧
    (∀ k ks, s.sys.lpTaken = true → s.sys.retrainOwed = [] → s.sys.disableOwed = [] → (s.port 4).out = k :: ks → k.isEvent = false → ∃ t, exec .lpCsRelease s = .next t ∧
      (t.port 4).out = ks ∧ t.sys = { s.sys with lpTaken := false } ∧ (∀ p, p ≠ 4 → t.port p = s.port p))

/-! ## Frames, swarm, planning -/

/-- R20, R101, R272, R273, R275 to R281: an event of the source in force reaches the frame engine, and a boundary is due after the latency of R272; one that comes too
soon, or while a boundary is due, is counted alone, and one of any other source does nothing; a boundary that is due, or that the flywheel supplies, is made: the
planner's frame number counts, and the frame begins; on the master of a swarm a boundary falls due at the swarm frame time, in device time; a pending pattern bank is taken up; the swarm's slots and messages act while the swarm runs. -/
def Obligations.FrameSourcesRun : Prop :=
  ∀ s : State,
    (∀ r : Bool, exec (.frameSyncEdge r) s = .next (if s.frameSrc = 1 ∧ r ≠ s.bit Reg.FRAME_CTRL 2 then s.sourceEvent s.boundaryDelay else s)) ∧
    (s.frameSrc = 0 → s.sync.span = true → s.sync.nextInternal ≤ s.time.dev →
      let u : State := { s with sync := { s.sync with nextInternal := s.sync.nextInternal + s.ef Reg.FRAME_PERIOD 23 0 * 1000 } }
      exec .internalFrameEvent s = .next (u.sourceEvent u.boundaryDelay)) ∧
    (s.frameSrc ≠ 0 → exec .internalFrameEvent s = .next s) ∧
    (∀ f fs, s.sync.frameTimes = f :: fs → f ≤ s.time.dev →
      let u : State := { s with sync := { s.sync with frameTimes := fs } }
      exec .swarmFrameTime s = .next (if u.swarmMaster = true then { u with sync := { u.sync with dueAt := some u.now } }
        else if u.frameSrc = 2 ∧ u.swarmSt = 2 then u.sourceEvent 0 else u)) ∧
    (∀ d, s.sync.dueAt = some d → exec .frameBoundary s = .next (if s.sync.span = true ∧ d ≤ s.now then s.frameBoundary false else s)) ∧
    (exec .flywheelBoundary s = .next (if s.flyDue then State.frameBoundary ((s.flag Reg.SWARM_FLAGS 3).inc Reg.FRAME_FLY_COUNT) true else s)) ∧
    (exec .patternSwap s = .next (if s.dev = .standby ∨ s.dev = .armed then s.swapPatternsDue else s)) ∧
    (∀ m : SwarmMsg, s.swarmRuns = true → m.crcOk = false → ∃ t, exec (.swarmMessageRx m) s = .next t ∧
      t.r Reg.SWARM_CRC_ERR = min (s.r Reg.SWARM_CRC_ERR + 1) 0xFFFFFFFF ∧ t.bit Reg.SWARM_FLAGS 1 = true ∧ t.sync = s.sync ∧ t.time = s.time) ∧
    (∀ m : SwarmMsg, s.swarmRuns = true → m.crcOk = true → s.swarmMaster = true → (m.type = 1 ∨ m.type = 2) →
      exec (.swarmMessageRx m) s = .next { s with sync := { s.sync with heard := s.sync.heard.set none (m.src % 8) (some s.now) } }) ∧
    (∀ m : SwarmMsg, s.swarmRuns = true → m.crcOk = true → m.type = 0 ∨ 4 < m.type → exec (.swarmMessageRx m) s = .next s) ∧
    (s.swarmRuns = true → s.swarmMaster = true → s.sync.slotAt = none →
      let n := (s.sync.slot + 1) % 10
      exec .swarmSlot s = .next (State.busSlot { s with sync := { s.sync with
        slot := n, slotAt := some s.now, cycle := if n = 0 then s.sync.cycle + 1 else s.sync.cycle } } n)) ∧
    (∀ d, s.sync.lastMsg = some d → s.swarmRuns = true → s.swarmMaster = false → s.swarmSt = 2 → d + 200000 ≤ s.now →
      ∃ t, exec .swarmLossTimeout s = .next t ∧ t.swarmSt = 3 ∧ t.bit Reg.SWARM_FLAGS 0 = true ∧ t.sync = { s.sync with good := 0 }) ∧
    (let unled : Prop := ∀ e c, e ∈ s.plan.cols.entries → e.2 = some c → c.lead = none
     let due (t : State) : Prop :=
       (s.swarmMaster = false → t.sync.dueAt = some (s.now + 10000)) ∧
       (s.swarmMaster = true → t.sync.frameTimes = s.sync.frameTimes ++ [s.time.dev + (10000 + s.ef Reg.SWARM_FRAME_OFS 23 0 * 1000)]) ∧
       (unled → t = { s with sync := t.sync })
     (∀ r : Bool, s.frameSrc = 1 → r ≠ s.bit Reg.FRAME_CTRL 2 → s.sync.span = true →
       (s.sync.lastB + s.periodNs / 4 ≤ s.now → s.tooSoon (s.time.dev + s.boundaryDelay) = false → ∃ t, exec (.frameSyncEdge r) s = .next t ∧ due t) ∧
       (s.now < s.sync.lastB + s.periodNs / 4 ∨ s.tooSoon (s.time.dev + s.boundaryDelay) = true → exec (.frameSyncEdge r) s = .next (s.inc Reg.FRAME_FLY_COUNT))) ∧
     (s.frameSrc = 0 → s.sync.span = true → s.sync.nextInternal ≤ s.time.dev → ∃ t, exec .internalFrameEvent s = .next t ∧ due t ∧
       t.sync.nextInternal = s.sync.nextInternal + s.ef Reg.FRAME_PERIOD 23 0 * 1000) ∧
     (∀ f fs, s.sync.frameTimes = f :: fs → f ≤ s.time.dev → s.swarmMaster = true → exec .swarmFrameTime s =
       .next { s with sync := { s.sync with frameTimes := fs, dueAt := some s.now } }) ∧
     (∀ f fs, s.sync.frameTimes = f :: fs → f ≤ s.time.dev → s.swarmMaster = false → s.frameSrc = 2 → s.swarmSt = 2 → s.sync.span = true → s.sync.dueAt = none →
       s.sync.lastB + s.periodNs / 4 ≤ s.now → ∃ t, exec .swarmFrameTime s = .next t ∧ t.sync.dueAt = some s.now ∧ t.sync.frameTimes = fs ∧
       (unled → t = { s with sync := t.sync }))) ∧
    (∀ d, s.sync.dueAt = some d → s.sync.span = true → d ≤ s.now → ∃ t, exec .frameBoundary s = .next t ∧ t.frameNo = (s.frameNo + 1) % 2 ^ 32 ∧
      t.sync.lastB = s.now ∧ t.sync.dueAt = none ∧ t.plan.frameNs = s.now) ∧
    (s.sync.span = true → s.frameSrc ≠ 0 → s.sync.dueAt = none → (s.swarmMaster = true → s.sync.frameTimes = []) → s.sync.lastB + (if s.sync.fly = true then s.periodNs else s.periodNs + s.periodNs / 8) ≤ s.now →
      ∃ t, exec .flywheelBoundary s = .next t ∧ t.frameNo = (s.frameNo + 1) % 2 ^ 32 ∧ t.sync.lastB = s.now ∧ t.plan.frameNs = s.now ∧
        t.bit Reg.SWARM_FLAGS 3 = true ∧ t.r Reg.FRAME_FLY_COUNT = min (s.r Reg.FRAME_FLY_COUNT + 1) 0xFFFFFFFF) ∧
    (∀ d, (s.dev = .standby ∨ s.dev = .armed) → s.emit.patAt = some d → s.bit Reg.EMIT_STATUS 4 = true → d + 400000 ≤ s.now → ∃ t,
      exec .patternSwap s = .next t ∧ t.emit.patAt = none ∧ t.bit Reg.EMIT_STATUS 4 = false ∧ t.bit Reg.EMIT_STATUS 3 = !s.bit Reg.EMIT_STATUS 3 ∧
      ∀ g, g < 64 → t.rd (Reg.PAT_ACT g) = s.rd (Reg.PAT g)) ∧
    (∀ m : SwarmMsg, s.swarmRuns = true → m.crcOk = true → s.swarmMaster = false → (m.type = 1 ∨ m.type = 2) → ∃ t, exec (.swarmMessageRx m) s = .next t ∧
      t.sync.lastMsg = some s.now ∧ t.sync.slot = 0 ∧ t.sync.heard.get none (m.src % 8) = some s.now) ∧
    (s.swarmRuns = true → s.swarmMaster = true → (∀ d, s.sync.slotAt = some d → d + 4000 ≤ s.now) →
      (s.sync.slot = 9 → ∀ tm n, s.sync.frameMsg = some (tm, n) →
        let m : SwarmMsg := { type := 1, src := s.swarmIndex, time := tm, number := n }
        let m : SwarmMsg := { m with crc := m.check }
        exec .swarmSlot s = .next { s with sync := { s.sync with
          slot := 0, slotAt := some s.now, cycle := s.sync.cycle + 1, frameMsg := none, tx := some { msg := m, at_ := s.now, wire := m.wire } } }) ∧
      ((s.sync.slot + 1) % 10 ≠ 0 → (s.sync.slot + 1) % 10 ≠ 1 + s.swarmIndex → exec .swarmSlot s = .next { s with sync := { s.sync with
        slot := (s.sync.slot + 1) % 10, slotAt := some s.now } }))

/-- R17, R19, R39, R48 to R67, R84, R86, R126, R205: the planner's steps: a column planned while the planner may plan and is at most eight columns ahead (R42), its
velocity segment posted into the FIFO of eight under the claim of its planner, which the profile generator takes only if it is the higher (R385, R386), its start and its close; the replanning, which withdraws a segment-column left with no running point; the verdicts, which
stop the points they name, and are counted late more than 1 µs after their batch's window or after the close (from when a verdict is late is log entry 73); the end of a back-off, and a planner's report of its own fault. -/
def Obligations.PlannerRuns : Prop :=
  ∀ s : State,
    (exec .columnPlan s = .next s.planStep) ∧
    (exec (.velocitySegmentPost false) s = .next s.postSegment) ∧
    (exec (.velocitySegmentPost true) s = .next (if s.planning = true ∧ s.plannerSt s.activePlanner = 4 then s.failPlanner 5 else s)) ∧
    (∀ d, s.nextStart = some d → exec .columnStart s = .next (if d ≤ s.now then s.startColumn else s)) ∧
    (s.plan.cutDrive = true → s.plan.running = true → s.plan.swept < s.columns → s.moveDone 0 = true →
      exec .frameCutEdgeReached s = .next (State.startColumn { s with plan := { s.plan with cutDrive := false, lateBoundary := true } })) ∧
    (∀ e r, s.closable = e :: r → exec .columnClose s = .next (s.closeColumn e.1)) ∧
    (∀ key c, s.plan.openCol = some key → s.col key = some c → c.gap = false → c.closed = false → s.planning = true →
      exec .plannerMicrosecond s = .next (s.reallocate key)) ∧
    (∀ (c : Fin 32) v vs, (s.comb c).verdicts = v :: vs → exec (.verdictArrival c) s =
      .next (((s.setComb c { s.comb c with verdicts := vs }).applyVerdict v).loopLate (s.r Reg.LOOP_LATE_FLAGS))) ∧
    (∀ c : Fin 32, (s.comb c).verdicts = [] → exec (.verdictArrival c) s = .next s) ∧
    (∀ i : Fin 24, (s.stream i).st = 2 → (s.stream i).excl < wrapSub 32 s.frameNo (s.stream i).exclFrom →
      exec (.arbBackoffExpiry i) s = .next (s.setStream i { s.stream i with st := 1, excl := 0 })) ∧
    (∀ i : Fin 24, (s.stream i).st ≠ 2 → exec (.arbBackoffExpiry i) s = .next s) ∧
    (let key := colKey s.plan.planFrame (sweepCol s.columns s.plan.planFrame s.plan.planNext)
     s.planning = true → 1 < s.columns → s.plan.planNext < s.columns → s.planAhead ≤ 8 → ∃ t, exec .columnPlan s = .next t ∧
      (t.col key).isSome = true ∧ t.plan.planNext = (if s.plan.planNext + 1 = s.columns then 0 else s.plan.planNext + 1) ∧
      t.plan.planFrame = if s.plan.planNext + 1 = s.columns then (s.plan.planFrame + 1) % 2 ^ 32 else s.plan.planFrame) ∧
    (∀ c cs, s.unposted = c :: cs → s.planning = true → s.plan.fifo.length < 8 → ∃ t, exec (.velocitySegmentPost false) s = .next t ∧
      t.plan.fifo = (if s.claimant = some s.activeClaim then s.plan.fifo ++ [(colKey c.frame c.column, s.activeClaim)] else s.plan.fifo) ∧
      ∃ x, t.col (colKey c.frame c.column) = some x ∧ x.posted = true ∧ (s.claimant ≠ some s.activeClaim → x.velHold = true)) ∧
    (let key := colKey s.frameNo (sweepCol s.columns s.frameNo s.plan.swept)
     s.red.takeover = none →
      (∀ d, s.nextStart = some d → d ≤ s.now → ∃ t c, exec .columnStart s = .next t ∧ t.plan.swept = s.plan.swept + 1 ∧ t.plan.openCol = some key ∧
        t.col key = some c ∧ c.startNs = some s.now) ∧
      (s.plan.cutDrive = true → s.plan.running = true → s.plan.swept < s.columns → s.moveDone 0 = true → ∃ t c, exec .frameCutEdgeReached s = .next t ∧
        t.plan.swept = s.plan.swept + 1 ∧ t.plan.openCol = some key ∧ t.plan.cutDrive = false ∧ t.col key = some c ∧ c.startNs = some s.now)) ∧
    (∀ e r, s.closable = e :: r → s.col e.1 = some e.2 → ∃ t, exec .columnClose s = .next t ∧ t.plan.openCol ≠ some e.1 ∧ ∀ c, t.col e.1 = some c → c.closed = true) ∧
    (∀ key c p t0, s.plan.openCol = some key → s.col key = some c → c.gap = false → c.closed = false → c.startNs = some t0 → s.planning = true → c.segs = [p] →
      (∀ ch, ch ∈ s.segChannels p.seg → (s.pt (ptKey key ch)).stopped = true) → ∃ t x, exec .plannerMicrosecond s = .next t ∧ t.col key = some x ∧
        x.segs = [{ p with running := false }] ∧ ∀ q, q ∈ t.plan.queue → ¬ (q.key = key ∧ q.seg = p.seg)) ∧
    (∀ (c : Fin 32) v vs, (s.comb c).verdicts = v :: vs →
      (∀ x, s.col v.key = some x → x.closed = false → x.column = v.column → ∃ t, exec (.verdictArrival c) s = .next t ∧ (t.comb c).verdicts = vs ∧
        (∀ ch, ch ∈ s.stopList x v → (t.pt (ptKey v.key ch)).stopped = true) ∧
        ∀ d, v.closedAt = some d → (d + 1000 < s.now → t.r Reg.LOOP_LATE_VERDICT = min (s.r Reg.LOOP_LATE_VERDICT + 1) 0xFFFFFFFF ∧ t.bit Reg.LOOP_LATE_FLAGS 2 = true) ∧
          (s.now ≤ d + 1000 → t.r Reg.LOOP_LATE_VERDICT = s.r Reg.LOOP_LATE_VERDICT)) ∧
      ((∀ x, s.col v.key = some x → x.closed = true ∨ x.column ≠ v.column) → ∃ t, exec (.verdictArrival c) s = .next t ∧ (t.comb c).verdicts = vs ∧
        t.r Reg.LOOP_LATE_VERDICT = min (s.r Reg.LOOP_LATE_VERDICT + 1) 0xFFFFFFFF ∧ t.bit Reg.LOOP_LATE_FLAGS 2 = true ∧ t.plan = s.plan))

/-! ## Emitter -/

/-- R90 to R115: a window is cut when its time has come; a cut shot is launched, its FIRE pulse as wide as R91 says, and one that may not be is refused and counted; a
returned frame is taken from the queue, and one that is late or wrong counts as a return error, of which the limit in a row shuts the laser function down, as does
`EMIT_FAULT_N` low for 40 ns while `LASER_EN` is high (R111); the safe entries of the shutdown (R112; its failure counts and the statuses of a failed return are log entries 89, 90 and 113); and the accountants' sums (R105) and their disagreement. -/
def Obligations.EmitterRuns : Prop :=
  ∀ s : State,
    (∀ bad other, s.dev ≠ .reset → 500 * s.emit.lastWin ≤ s.now →
      exec (.dripCut bad other) s = .next (State.loopLate
        (((s.leadBatches.takeClaims other).cutWindow (s.emit.lastWin + 1) bad).each
          (((s.leadBatches.takeClaims other).plan.queue.filter fun q => bad.contains q.number).map (·.key)) State.badEntry)
        (s.r Reg.LOOP_LATE_FLAGS))) ∧
    (∀ q l, s.emit.cuts = q :: l → 512 * s.now < q.fireAt → exec .shotLaunch s = .next s) ∧
    (∀ q l, s.emit.cuts = q :: l → q.fireAt ≤ 512 * s.now → q.refused = true →
      exec .shotLaunch s = .next (State.each { s with emit := { s.emit with cuts := l } } (State.noticeCombs { s with emit := { s.emit with cuts := l } } q.seg)
        fun u c => u.notice c q)) ∧
    (∀ f e l, s.emit.sent = e :: l → s.now < e.at_ → exec (.dripRetFrame f) s = .next s) ∧
    (∀ f e l, s.emit.sent = e :: l → e.at_ ≤ s.now → (e.at_ + 600 < s.now ∨ retOk s.tiles e.frame f = false) →
      exec (.dripRetFrame f) s = .next (State.retFailure { s with emit := { s.emit with sent := l } })) ∧
    (∀ e l, s.emit.sent = e :: l → exec .dripRetTimeout s =
      .next (if e.at_ + 600 < s.now then State.retFailure { s with emit := { s.emit with sent := l } } else s)) ∧
    (∀ ns, exec (.emitFaultInput false ns) s = .next (State.syncFaultIn { s with emit := { s.emit with faultLow := none } })) ∧
    (∀ d, s.emit.lsdAt = some d → exec .lsdSafeEntry s = .next (State.toSafe
      (State.raise { s with emit := { s.emit with lsdAt := none } } Ev.LASER_SHUTDOWN .all (leBytes 4 (s.r Reg.EMIT_LSD_CAUSE))) 0x52)) ∧
    (let u := s.each (List.range 8) fun s z => s.syncAcct z (2 * s.now / 125)
     exec (.acctSubinterval true) s = .next (u.segFailure 5 none 0) ∧
       (u.emit.acctA = u.emit.acctB → exec (.acctSubinterval false) s = .next u)) ∧
    (∀ bad other, s.dev ≠ .reset → 500 * s.emit.lastWin ≤ s.now → ∃ t, exec (.dripCut bad other) s = .next t ∧ t.emit.lastWin = s.emit.lastWin + 1) ∧
    (∀ q l, s.emit.cuts = q :: l → q.fireAt ≤ 512 * s.now → q.refused = false → s.dev.emitting = true → s.lsd = false → s.laserEn = true → ∃ t,
      exec .shotLaunch s = .next t ∧ t.emit.cuts = l ∧ (t.emit.fires.get [] (q.seg / 8)).head? = some (q.fireAt, if q.win % 2 = 0 then 5 else 10)) ∧
    (∀ f e l, s.emit.sent = e :: l → e.at_ ≤ s.now → s.now ≤ e.at_ + 600 → retOk s.tiles e.frame f = true → ∃ t, exec (.dripRetFrame f) s = .next t ∧
      t.emit.sent = l ∧ t.emit.retFails = 0) ∧
    (∀ e l, s.emit.sent = e :: l → e.at_ + 600 < s.now →
      (s.emit.retFails + 1 < s.ef Reg.EMIT_TILE_LIMITS 15 8 → ∃ t, exec .dripRetTimeout s = .next t ∧
        t.emit = { s.emit with sent := l, retFails := s.emit.retFails + 1 } ∧ t.r Reg.DRIP_RET_ERR = min (s.r Reg.DRIP_RET_ERR + 1) 0xFFFFFFFF) ∧
      (s.ef Reg.EMIT_TILE_LIMITS 15 8 ≤ s.emit.retFails + 1 → ∃ t, exec .dripRetTimeout s = .next t ∧ t.emit.sent = l ∧ t.bit Reg.EMIT_STATUS 2 = true ∧
        t.bit Reg.EMIT_LSD_CAUSE 4 = true)) ∧
    (∀ ns d, 40 ≤ ns → s.laserEn = true → s.lsd = false → s.emit.laserAt = some d → d + 40 ≤ s.now → ∃ t, exec (.emitFaultInput true ns) s = .next t ∧
      t.bit Reg.EMIT_STATUS 2 = true ∧ t.bit Reg.EMIT_STATUS 0 = false ∧ t.bit Reg.EMIT_LSD_CAUSE 0 = true ∧ t.emit.lsdAt = some s.now ∧
      t.emit.faultLow = some (s.now - ns)) ∧
    (∀ ns, s.laserEn = false → ∃ t, exec (.emitFaultInput true ns) s = .next t ∧ t.bit Reg.EMIT_STATUS 5 = true ∧ t.emit = { s.emit with faultLow := some (s.now - ns) }) ∧
    (∀ d, s.emit.lsdAt = some d → s.dev.scanning = true → (∀ T k, s.tPol = some (T, k) → T < 8000) → ∃ t, exec .lsdSafeEntry s = .next t ∧ t.dev = .safe ∧
      t.sys.cause = 0x52 ∧ t.sys.prev = s.dev) ∧
    (s.emit.acctA = s.emit.acctB → ∃ t, exec (.acctSubinterval false) s = .next t ∧ t = { s with regs := t.regs } ∧ ∀ z w, z < 8 → w < 3 →
      t.r (Reg.ACCT_SUM z w) = (ringSum (s.emit.acctA.get [] (3 * z + w)) (s.subIdx w (2 * s.now / 125)) + 15) / 16 % 2 ^ 32)

/-- R107 to R110: the fade-in rises in 32 steps of the ceiling and ends with no ceiling, in SAFE when no tile is ready; a block mean of a wavelength locker is shown and
judged; a tile that is off its wavelength for too long is lost. -/
def Obligations.FadeAndWavelengthRun : Prop :=
  ∀ s : State,
    (∀ t0, s.emit.fadeAt = some t0 → s.emit.fadeStep < 32 → 32 * t0 + s.emit.fadeStep * s.fadeNs ≤ 32 * s.now →
      exec .fadeStep s = .next { s with emit := { s.emit with fadeStep := s.emit.fadeStep + 1, ceil := 8 * s.emit.fadeStep + 7 } }) ∧
    (s.emit.fadeAt = none → exec .fadeStep s = .next s ∧ exec .fadeEnd s = .next s) ∧
    (∀ t0, s.emit.fadeAt = some t0 → t0 + s.fadeNs ≤ s.now →
      let u : State := (s.setBit Reg.EMIT_STATUS 1 false).setEmit { s.emit with fadeAt := none, fadeStep := 0, ceil := 255 }
      ((List.range 8).filter u.tileReady = [] → exec .fadeEnd s = .next (u.toSafe 0x54)) ∧
      (0 < u.tiles → u.tiles ≤ 8 → (∀ k, k < u.tiles → u.tileReady k = true) → exec .fadeEnd s = .next (State.settleWl { u with sys := { u.sys with
        cmds := u.sys.cmds.map fun c => if c.opcode = 0x0106 ∧ c.started = true then { c with ready := true } else c } }))) ∧
    (∀ k : Fin 8, (s.wlTile k).done = none → exec (.wlBlockMean k) s = .next s) ∧
    (∀ (k : Fin 8) n d a, (s.wlTile k).done = some (n, d, a) → ∃ u : State, exec (.wlBlockMean k) s = .next (State.settleWl u) ∧
      (u.wlTile k).done = none ∧
      u.r (Reg.WL_DISC k) = (satS 16 (divRound d n) + 65536 * min 0xFFFF (divRoundNat a (2 * n))) % 2 ^ 32) ∧
    (∀ k : Fin 8, exec (.wlLossTimeout k) s = .next (if s.settleWl.wlCounts k = true ∧
      s.settleWl.ef Reg.EMIT_TILE_LIMITS 31 16 * 1000000 ≤ (s.settleWl.wlTile k).lostNs then s.settleWl.loseTile k else s.settleWl)) ∧
    (∀ t0 k, s.emit.fadeAt = some t0 → t0 + s.fadeNs ≤ s.now → k < 8 → s.tileReady k = true → ∃ t, exec .fadeEnd s = .next t ∧ t.emit.fadeAt = none ∧
      t.bit Reg.EMIT_STATUS 1 = false) ∧
    (∀ t0, s.emit.fadeAt = some t0 → t0 + s.fadeNs ≤ s.now → (∀ k, k < 8 → s.tileReady k = false) → s.dev.scanning = true →
      (∀ T k, s.tPol = some (T, k) → T < 8000) → ∃ t, exec .fadeEnd s = .next t ∧ t.dev = .safe ∧ t.sys.cause = 0x54) ∧
    (∀ (k : Fin 8) n d a, (s.wlTile k).done = some (n, d, a) → ∃ t, exec (.wlBlockMean k) s = .next t ∧ (t.wlTile k).done = none ∧
      t.r (Reg.WL_DISC k) = (satS 16 (divRound d n) + 65536 * min 0xFFFF (divRoundNat a (2 * n))) % 2 ^ 32 ∧
      (let inBand : Bool := decide ((divRound d n - signed 16 (s.ef Reg.EMIT_WL_CTRL 15 0)).natAbs ≤ s.ef Reg.EMIT_WL_CTRL 27 16)
       t.wlState k = if s.wlState k = 1 ∧ inBand = true ∧ 3 ≤ (s.wlTile k).inRun then 2 else if s.wlState k = 2 ∧ inBand = false ∧ 1 ≤ (s.wlTile k).outRun then 1
         else s.wlState k)) ∧
    (∀ (k : Fin 8) d, s.wlCounts k = true → (s.wlTile k).since = some d →
      s.ef Reg.EMIT_TILE_LIMITS 31 16 * 1000000 ≤ (s.wlTile k).lostNs + (s.now - d) → ∃ t, exec (.wlLossTimeout k) s = .next t ∧ t.bit Reg.EMIT_STATUS (16 + k) = true)

/-! ## Converters and temperature -/

/-- R107, R118, R289 to R302, R416, R418: the monitor converters: a conversion that is due starts, for a shot or for a control tick, is shared or deferred while one
runs or a shot's trigger falls into the same cycle, and its codes are shown and stamped; a word before its time is none; a channel of the first converters is shown with its condition; the housekeeping scan moves on
each 60 µs; the RTD converter measures in two phases and goes on with the next input; a sensor above its trip temperature
halts the block with the cause 0x61, and in FAULT_HALT of another cause its shut-down acts all the same. (How the converters' words are read and when they are due: log
entries 96 and 98.) -/
def Obligations.ConvertersRun : Prop :=
  ∀ s : State,
    (∀ q l, s.emit.sarNext = q :: l → exec .sarShotTrigger s =
      .next (if q.at_ ≤ s.now then State.sarTrigger { s with emit := { s.emit with sarNext := l } } q else s)) ∧
    (∀ p0, s.wag.powerAt = some p0 → p0 + 5000 * s.wag.ctrlN ≤ s.now + 1000 → s.axesOff = false →
      let u : State := { s with wag := { s.wag with ctrlN := s.wag.ctrlN + 2 } }
      exec .sarControlRequest s = .next (if u.aux.sar.isSome = true ∨ u.shotTriggerNow = true then u else u.startSar none false [])) ∧
    (∀ m0 m1 m2 m3, s.aux.sar = none → exec (.sarConversionDone m0 m1 m2 m3) s = .next s) ∧
    (∀ c m0 m1 m2 m3, s.aux.sar = some c → s.now < c.at_ + 500 → exec (.sarConversionDone m0 m1 m2 m3) s = .next s) ∧
    (∀ (c : SarConv) m0 m1 m2 m3, s.aux.sar = some c → c.at_ + 500 ≤ s.now → c.users = [] → c.own = none → s.capOn = false → s.aux.deferred = [] →
      ∃ t, exec (.sarConversionDone m0 m1 m2 m3) s = .next t ∧ t.aux.sar = none ∧ t.wag.sample = some (sarCode (-32768) m0, sarCode (-32768) m1, c.at_ + 500) ∧
        t.r Reg.SAR_LAST_ANG = wrapNat 16 (sarCode (-32768) m0) + 65536 * wrapNat 16 (sarCode (-32768) m1) ∧
        t.r Reg.SAR_LAST_MON = (sarCode 0 m2).toNat + 65536 * (sarCode 0 m3).toNat ∧
        (∀ a, a ≠ Reg.SAR_LAST_ANG → a ≠ Reg.SAR_LAST_MON → t.rd a = s.rd a) ∧ t.ports = s.ports) ∧
    (∀ (m : Fin 3) v, (s.ma m).at_ = none → exec (.maWord m v) s = .next s) ∧
    (∀ (m : Fin 3) v t0, (s.ma m).at_ = some t0 → s.maRuns m = true → t0 + (if (s.ma m).settled then 1 else s.maOrder m) * s.maWord8 m ≤ 8 * s.now →
      s.maCode m (s.ma m).slot ≤ 0x17 →
      ∃ t, exec (.maWord m v) s = .next t ∧
        t.f (Reg.AUX_RES (s.maCode m (s.ma m).slot)) 23 0 =
          wrapNat 24 (maQuant (v.pick (s.bit (Reg.MA_CFG m) 4) (s.bit (Reg.MA_CFG m) 5)) (s.f (Reg.MA_CFG m) 10 8)).1 ∧
        t.f (Reg.AUX_RES (s.maCode m (s.ma m).slot)) 31 26 = (s.f (Reg.AUX_RES (s.maCode m (s.ma m).slot)) 31 26 + 1) % 64 ∧
        (∀ a, a ≠ Reg.AUX_RES (s.maCode m (s.ma m).slot) → a ≠ Reg.AUX_FLAGS → t.rd a = s.rd a)) ∧
    (∀ v off, s.aux.hkAt + 60000 ≤ s.now → s.dev ≠ .reset → exec (.housekeepingWord v off) s =
      .next (if 10 ≤ s.aux.hkNext then (s.hkPublish v off).dieResult (s.aux.hkNext - 10) v else (s.hkPublish v off).thermPolicy)) ∧
    (∀ v i, let u := s.rtdPhase (v.pick (s.bit Reg.RTD_CTRL 20) false) i
      exec (.rtdPhaseDone v i) s = .next (match u.1 with
        | some n => (u.2.compensate n).thermPolicy
        | none => u.2)) ∧
    (∀ i : Fin 26, s.tsBroken i = true ∨ s.dev = .reset → exec (.thermalTrip i) s = .next s) ∧
    (∀ i : Fin 26, s.tsBroken i = false → s.dev = .faultHalt → ∃ t, exec (.thermalTrip i) s = .next t ∧ t.dev = .faultHalt ∧ t.sys.cause = s.sys.cause ∧
      t.sys.hardStop = true ∧ (s.sys.hardStop = false → t.recorder.flush = none ∧ t.cal.save = none ∧ t.boot.enroll = none)) ∧
    (∀ i : Fin 26, s.tsBroken i = false → s.dev ≠ .faultHalt → s.dev ≠ .reset → ∃ t, exec (.thermalTrip i) s = .next t ∧ t.dev = .faultHalt ∧ t.sys.cause = 0x61 ∧
      t.sys.hardStop = true ∧ t.recorder.flush = none) ∧
    (∀ q l, s.emit.sarNext = q :: l → q.at_ ≤ s.now →
      (s.aux.sar = none → ∃ t, exec .sarShotTrigger s = .next t ∧ t.emit.sarNext = l ∧ t.r Reg.SAR_SHOT_COUNT = min (s.r Reg.SAR_SHOT_COUNT + 1) 0xFFFFFFFF ∧
        t.aux.sar = some { at_ := s.now, tile := q.tile, own := some q, users := [q] }) ∧
      (∀ c, s.aux.sar = some c → s.aux.deferred = [] → s.now < c.at_ + 258 → ∃ t, exec .sarShotTrigger s = .next t ∧ t.emit.sarNext = l ∧
        t.aux.sar = some { c with own := none, users := c.users ++ [q] } ∧ t.r Reg.SAR_SHARE_COUNT = min (s.r Reg.SAR_SHARE_COUNT + 1) 0xFFFFFFFF) ∧
      (∀ c, s.aux.sar = some c → s.aux.deferred = [] → c.at_ + 258 ≤ s.now → ∃ t, exec .sarShotTrigger s = .next t ∧ t.emit.sarNext = l ∧
        t.aux.deferred = [q] ∧ t.r Reg.SAR_DEFER_COUNT = min (s.r Reg.SAR_DEFER_COUNT + 1) 0xFFFFFFFF)) ∧
    (∀ p0, s.wag.powerAt = some p0 → p0 + 5000 * s.wag.ctrlN ≤ s.now + 1000 → s.axesOff = false → s.aux.sar = none → s.shotTriggerNow = false → ∃ t, exec .sarControlRequest s = .next t ∧
      t.wag.ctrlN = s.wag.ctrlN + 2 ∧ t.aux.sar = some { at_ := s.now, tile := s.aux.mux, own := none, users := [] } ∧
      t.r Reg.SAR_CTRL_COUNT = min (s.r Reg.SAR_CTRL_COUNT + 1) 0xFFFFFFFF) ∧
    (∀ (m : Fin 3) v t0, (s.ma m).at_ = some t0 → s.maRuns m = true → t0 + (if (s.ma m).settled then 1 else s.maOrder m) * s.maWord8 m ≤ 8 * s.now →
      0x20 ≤ s.maCode m (s.ma m).slot → ∃ t, exec (.maWord m v) s = .next t ∧
        t.f (Reg.AUX_INT (s.maCode m (s.ma m).slot - 0x20)) 15 0 =
          intValue (s.maCode m (s.ma m).slot - 0x20) (v.pick (s.bit (Reg.MA_CFG m) 4) (s.bit (Reg.MA_CFG m) 5)) % 65536 ∧
        t.f (Reg.AUX_INT (s.maCode m (s.ma m).slot - 0x20)) 31 24 = (s.f (Reg.AUX_INT (s.maCode m (s.ma m).slot - 0x20)) 31 24 + 1) % 256) ∧
    (∀ v off, s.aux.hkAt + 60000 ≤ s.now → s.dev ≠ .reset → ∃ t, exec (.housekeepingWord v off) s = .next t ∧ t.aux.hkAt = s.aux.hkAt + 60000 ∧
      (t.aux.hkNext = if s.aux.hkNext = 35 then 0 else s.aux.hkNext + 1) ∧ t.aux.refBad = off) ∧
    (∀ v i d, s.aux.rtd.at_ = some d → s.rtdRuns = true → d + (200000 + 3 * s.f Reg.RTD_CTRL 19 0 * 625) ≤ 2 * s.now →
      let e := d + (200000 + 3 * s.f Reg.RTD_CTRL 19 0 * 625)
      (s.aux.rtd.phase = 0 → ∃ t, exec (.rtdPhaseDone v i) s = .next t ∧ t.aux.rtd.phase = 1 ∧ t.aux.rtd.first = some (v.pick (s.bit Reg.RTD_CTRL 20) false, i) ∧ t.aux.rtd.at_ = some e ∧
        t = { s with aux := t.aux }) ∧
      (s.aux.rtd.phase ≠ 0 → ∀ q, s.nextInput s.aux.rtd.input = some q → ∃ t, exec (.rtdPhaseDone v i) s = .next t ∧ t.aux.rtd.input = q ∧
        t.aux.rtd.phase = 0 ∧ t.aux.rtd.at_ = some e))

/-! ## Receiver, clocks and event timing -/

/-- R150 to R168: the receiver's monitor: a tick every 16 µs, at which the readings of all combs are published unless an internal blank makes them wait; a bias current
that was converted is shown and counted; a self-test ends, with the channels that failed it marked; `BLANK` is followed, pulses under 80 ns apart, and one that lasts too
long is declared stuck. -/
def Obligations.ReceiverRuns : Prop :=
  ∀ s : State,
    (∀ fast ref rtd, s.dev ≠ .reset → s.rx.readDue = none → 16000 * (s.rx.ticks + 1) ≤ s.now → exec (.monitorTick fast ref rtd) s = .next (s.monitorTick fast ref rtd)) ∧
    (∀ fast ref rtd, s.rx.readDue = none → s.now < 16000 * (s.rx.ticks + 1) → exec (.monitorTick fast ref rtd) s = .next s) ∧
    (∀ (c : Fin 32) code t0, (s.rxComb c).conv = some t0 → t0 + 2 ^ s.ef Reg.RX_LIMITS 11 8 ≤ s.rx.ticks → ∃ t,
      exec (.biasConversionDone c code) s = .next t ∧ (t.rxComb c).conv = some s.rx.ticks ∧ (t.rxComb c).convClear = false ∧
      ((s.rxComb c).convClear = false → t.f (Reg.BIAS_I c) 17 16 = 3 ∧ t.f (Reg.BIAS_I c) 15 0 = s.f (Reg.BIAS_I c) 15 0) ∧
      ((s.rxComb c).convClear = true → t.f (Reg.BIAS_I c) 15 0 = min 65535 code ∧ t.f (Reg.BIAS_I c) 31 24 = (s.f (Reg.BIAS_I c) 31 24 + 1) % 256) ∧
      (∀ a, a ≠ Reg.BIAS_I c → t.rd a = s.rd a)) ∧
    (∀ bad t0, s.rx.testAt = some t0 → exec (.rxSelftestDone bad) s = .next (s.endSelftest (failedChans bad)).settle) ∧
    (∀ bad, s.rx.testAt = none → exec (.rxSelftestDone bad) s = .next s) ∧
    (∀ b ns, ns < 80 → exec (.blankInput ⟨b, ns⟩) s = .next s) ∧
    (∀ b ns, 80 ≤ ns → s.dev = .reset → exec (.blankInput ⟨b, ns⟩) s = .next { s with rx := { s.rx with blankPin := b } }) ∧
    (∀ b ns, 80 ≤ ns → s.dev ≠ .reset → exec (.blankInput ⟨b, ns⟩) s = .next (State.syncBlank { s with rx := { s.rx with blankPin := b } })) ∧
    (∀ t0, s.rx.blankSince = some t0 → s.bit Reg.RX_STATUS 1 = false → t0 + 1000000 * max 1 (s.ef Reg.RX_CTRL 15 8) < s.now →
      ∃ t, exec .blankMaxTimeout s = .next t ∧ t.bit Reg.RX_STATUS 1 = true ∧ t.bit Reg.RX_FLAGS 4 = true) ∧
    (s.rx.blankSince = none → exec .blankMaxTimeout s = .next s) ∧
    (∀ fast ref rtd, s.dev ≠ .reset → s.rx.readDue = none → 16000 * (s.rx.ticks + 1) ≤ s.now → ∃ t, exec (.monitorTick fast ref rtd) s = .next t ∧
      t.rx.ticks = s.rx.ticks + 1 ∧ (s.biasMonitored = true → s.emit.fires = ⟨[]⟩ → s.emit.cuts = [] → t.rx.readDue = none ∧
        ∀ c, c < s.variant.combs → t.r (Reg.BIAS_FAST c) = min 65535 (fast.getD c 0))) ∧
    (∀ fast ref rtd judge, s.dev ≠ .reset → s.rx.readDue = some judge → s.inBlank = false → s.biasMonitored = true → ∃ t,
      exec (.monitorTick fast ref rtd) s = .next t ∧ t.rx.readDue = none ∧ t.rx.ticks = s.rx.ticks ∧
      ∀ c, c < s.variant.combs → t.r (Reg.BIAS_FAST c) = min 65535 (fast.getD c 0)) ∧
    (∀ bad t0, s.rx.testAt = some t0 → ∃ t, exec (.rxSelftestDone bad) s = .next t ∧ t.rx.testAt = none ∧ t.bit Reg.RX_STATUS 2 = false ∧
      t.bit Reg.RX_STATUS 3 = (failedChans bad).any fun n => decide (n < s.variant.channels)) ∧
    (∀ b ns, 80 ≤ ns → s.dev ≠ .reset → ∃ t, exec (.blankInput ⟨b, ns⟩) s = .next t ∧ t.rx.blankPin = b ∧
      t.bit Reg.RX_STATUS 0 = (b != bitN (s.ef Reg.RX_CTRL 31 0) 0))

/-- R183 to R187: the clock sources: a window every 4 µs judges both, and one outside its limits makes its source absent; a reference found again is chosen; the PLL locks;
the timing lock holds for 10 ms; the crystal is measured against the reference once a second, and corrected once a millisecond while it is in use. -/
def Obligations.ClocksRun : Prop :=
  ∀ s : State,
    (∀ ref xtal bc bp, (s.dev = .reset ∨ s.now < (s.tdc.windows + 1) * 4000) → exec (.clockWindow ref xtal bc bp) s = .next s) ∧
    (∀ ref xtal, s.dev ≠ .reset → (s.tdc.windows + 1) * 4000 ≤ s.now → ∃ u : State, exec (.clockWindow ref xtal [] []) s = .next (State.settle u) ∧
      u.tdc.windows = s.tdc.windows + 1) ∧
    (s.bit Reg.CLK_STATUS 2 = false → s.f Reg.CLK_CTRL 31 16 * 250 ≤ s.clk.refGood → s.clk.refGood ≠ 0 →
      exec .refclkPresent s = .next (((s.setBit Reg.CLK_STATUS 2 true).setClk { s.clk with refAbsent := false }).chooseSource false)) ∧
    (∀ w, s.clk.switching = some w → s.clk.lossDue = false → ∃ t, exec .pllLocked s = .next t ∧ t.bit Reg.CLK_STATUS 4 = true ∧
      t.clk = { s.clk with switching := none, lossDue := false, lockAt := some s.now } ∧ t.ports = s.ports ∧ (∀ a, a ≠ Reg.CLK_STATUS → t.rd a = s.rd a)) ∧
    (s.clk.switching = none → exec .pllLocked s = .next s) ∧
    (∀ t0, s.clk.lockAt = some t0 → s.clk.both = true → s.bit Reg.CLK_STATUS 2 = true ∨ s.bit Reg.CLK_STATUS 3 = true → s.bit Reg.CLK_STATUS 4 = true → t0 + 10000000 ≤ s.now →
      exec .timingLockHold s = .next ((s.setClk { s.clk with both := false }).syncTimings).settle) ∧
    (∀ off, s.f Reg.CLK_STATUS 1 0 = 0 → s.bit Reg.CLK_STATUS 4 = true → s.bit Reg.CLK_STATUS 3 = true → s.clk.lastMeasure + 1000000000 ≤ s.now →
      ∃ t, exec (.xoMeasure off) s = .next t ∧ t.f Reg.XO_OFFSET 23 0 = satS 24 off ∧
        t.clk = { s.clk with measured := true, predAt := s.xtalPrediction, lastMeasure := s.now } ∧ (∀ a, a ≠ Reg.XO_OFFSET → t.rd a = s.rd a)) ∧
    (s.f Reg.CLK_STATUS 1 0 = 1 → s.clk.corrAt + 1000000 ≤ s.now → ∃ t, exec .xoCorrection s = .next t ∧ t.clk.corrAt = s.now ∧ t.regs = s.regs ∧ t.ports = s.ports ∧
      (s.clk.measured = true → t.clk.corr = s.fs Reg.XO_OFFSET 23 0 + s.xtalPrediction - s.clk.predAt)) ∧
    (∀ ref xtal bc bp, s.dev ≠ .reset → (s.tdc.windows + 1) * 4000 ≤ s.now → ∃ t, exec (.clockWindow ref xtal bc bp) s = .next t ∧
      t.tdc.windows = s.tdc.windows + 1 ∧ (ref < 92 ∨ 108 < ref → t.bit Reg.CLK_STATUS 2 = false) ∧ (xtal < 92 ∨ 108 < xtal → t.bit Reg.CLK_STATUS 3 = false) ∧
      (92 ≤ ref → ref ≤ 108 → t.bit Reg.CLK_STATUS 2 = s.bit Reg.CLK_STATUS 2)) ∧
    (s.bit Reg.CLK_STATUS 2 = false → s.f Reg.CLK_CTRL 31 16 * 250 ≤ s.clk.refGood → s.clk.refGood ≠ 0 → ∃ t, exec .refclkPresent s = .next t ∧
      t.bit Reg.CLK_STATUS 2 = true ∧ t.clk.refAbsent = false) ∧
    (∀ t0, s.clk.lockAt = some t0 → s.clk.both = true → s.bit Reg.CLK_STATUS 2 = true ∨ s.bit Reg.CLK_STATUS 3 = true → s.bit Reg.CLK_STATUS 4 = true →
      t0 + 10000000 ≤ s.now → ∃ t, exec .timingLockHold s = .next t ∧ t.clk.both = false)

/-- R103, R144 to R147, R163, R170 to R181, R188: event timing: a start edge fires the shot that waits for it, starts an internal shot, or is spurious; a shot without its
start is late in its points and a miss of its tile; an edge that overloads the stage is counted and holds its channel, and one of an armed channel is timed; a window's end,
a range's change and a stuck comparator act on their channel; and a statistics run ends complete, or at its timeout. -/
def Obligations.TimingRuns : Prop :=
  ∀ s : State,
    (∀ (k : Fin 8) rs, exec (.startRefEdge k true rs) s = .next (s.internalStart k rs)) ∧
    (∀ (k : Fin 8) rs q, s.waitingShot k = some q → exec (.startRefEdge k false rs) s = .next (s.startFired q rs)) ∧
    (∀ (k : Fin 8) rs, s.waitingShot k = none → exec (.startRefEdge k false rs) s = .next (s.spuriousStart k)) ∧
    (∀ q, (s.tdc.shots.find? fun q => q.start.isNone && !q.internal && decide (q.fireAt + 20480 < 512 * s.now)) = some q → q.acc = [] →
      exec .startTimeout s = .next (((s.noStart q).unstamp q).tileMiss q.tile)) ∧
    ((s.tdc.shots.find? fun q => q.start.isNone && !q.internal && decide (q.fireAt + 20480 < 512 * s.now)) = none → exec .startTimeout s = .next s) ∧
    (∀ (n : Fin 512) count code level dip ns, exec (.comparatorEdge n count code ⟨level, dip⟩ ns) s =
      .next (if n.val < s.variant.channels then s.edge n count code level dip ns else s)) ∧
    (∀ (n : Fin 512) peak w, (s.chan n).win = some w → exec (.receiveWindowClose n peak) s =
      .next (if 512 * s.now < w.closeAt then s else ((s.overflow n w).disarm n).closeWindow n peak)) ∧
    (∀ n : Fin 512, (s.chan n).next = none → exec (.rangeChange n) s = .next s) ∧
    (∀ (n : Fin 512) r, (s.chan n).next = some r → (s.chan n).win = none → (s.chan n).closeAt + 4096 ≤ 512 * s.now → s.segOfChan n = none →
      exec (.rangeChange n) s = .next ((s.setRange n r).modChan n fun x => { x with next := none, holdUntil := max x.holdUntil (512 * s.now + 20480) })) ∧
    (∀ n : Fin 512, n.val < s.variant.channels → (s.chan n).stuck = false → s.dev ≠ .reset →
      exec (.comparatorStuck n) s = .next (s.stickChan n).settle) ∧
    (∀ c : Fin 32, s.f (Reg.TDC_STAT_STATUS c) 2 0 = 1 → 2 ^ bitsOf (s.stat c).ctrl 12 8 ≤ (s.stat c).count →
      exec (.statRunDone c) s = .next (s.endStat c 2)) ∧
    (∀ c : Fin 32, s.f (Reg.TDC_STAT_STATUS c) 2 0 = 1 → (s.stat c).startAt + bitsOf (s.stat c).ctrl 30 16 * 1000000 ≤ s.now →
      exec (.statRunTimeout c) s = .next (s.endStat c 3)) ∧
    (∀ c : Fin 32, s.f (Reg.TDC_STAT_STATUS c) 2 0 ≠ 1 → exec (.statRunDone c) s = .next s ∧ exec (.statRunTimeout c) s = .next s) ∧
    (∀ (k : Fin 8) rs q ch c t0, s.waitingShot k = some q → q.acc = [ch] → s.col q.key = some c → c.startNs = some t0 → ∃ t,
      exec (.startRefEdge k false rs) s = .next t ∧ (t.pt (ptKey q.key ch)).fired = (s.pt (ptKey q.key ch)).fired + 1 ∧
      (t.pt (ptKey q.key ch)).tofs = (s.pt (ptKey q.key ch)).tofs + ((q.fireAt : Int) - 512 * t0) ∧ t.emit.misses.get 0 k = 0) ∧
    (∀ (k : Fin 8) rs (n : Fin 512), s.dev = .armed ∨ s.dev = .calibrating → n.val / 16 < s.variant.combs → s.chanState n = 0 → (s.chan n).win = none →
      (∀ q, q ∈ s.tdc.shots → q.internal = false ∧ n.val ∉ q.waiting) → ∃ t q, exec (.startRefEdge k true rs) s = .next t ∧ q ∈ t.tdc.shots ∧
      q.internal = true ∧ q.tile = k ∧ q.start.isSome = true ∧ n.val ∈ q.armed ∧ (t.chan n).win.isSome = true) ∧
    (∀ q ch, (s.tdc.shots.find? fun q => q.start.isNone && !q.internal && decide (q.fireAt + 20480 < 512 * s.now)) = some q → q.acc = [ch] →
      s.emit.misses.get 0 q.tile + 1 < s.ef Reg.EMIT_TILE_LIMITS 7 0 → ∃ t, exec .startTimeout s = .next t ∧
      (t.pt (ptKey q.key ch)).late = (s.pt (ptKey q.key ch)).late + 1 ∧ (t.pt (ptKey q.key ch)).noStart = (s.pt (ptKey q.key ch)).noStart + 1 ∧
      t.emit.misses.get 0 q.tile = s.emit.misses.get 0 q.tile + 1 ∧
      (q.tile < 8 → t.r (Reg.TILE_MISS q.tile) = min (s.r (Reg.TILE_MISS q.tile) + 1) 0xFFFFFFFF)) ∧
    (∀ (n : Fin 512) count code level dip ns, n.val < s.variant.channels → s.rises n level dip = true → (s.chan n).holdUntil ≤ 512 * s.now → s.calcChan n = 0 →
      (95 * 1024 ≤ 100 * level → ∃ t, exec (.comparatorEdge n count code ⟨level, dip⟩ ns) s = .next t ∧ t.bit Reg.RX_FLAGS 0 = true ∧
        t.r (Reg.RX_SAT_COUNT (n / 16)) = min (s.r (Reg.RX_SAT_COUNT (n / 16)) + 1) 0xFFFFFFFF ∧ 512 * (s.now + ns) ≤ (t.chan n).holdUntil) ∧
      (∀ w q st fine skew, (s.chan n).win = some w → 512 * s.now + 320 ≤ w.closeAt → (s.tdc.shots.find? fun q => q.waiting.contains n.val) = some q → q.start = some st →
        n.val ∈ q.armed → q.cal.find? (·.1 == n.val) = some (n.val, fine, skew) → (s.chan n).last = none → q.stops.get 0 n = 0 → ∃ t,
        exec (.comparatorEdge n count code ⟨level, dip⟩ ns) s = .next t ∧ (t.chan n).last = some (instantOf fine count code))) ∧
    (∀ (n : Fin 512) peak w, (s.chan n).win = some w → w.closeAt ≤ 512 * s.now → ∃ t, exec (.receiveWindowClose n peak) s = .next t ∧ (t.chan n).win = none ∧
      (t.chan n).closeAt = w.closeAt) ∧
    (∀ (n : Fin 512) r, (s.chan n).next = some r → (s.chan n).win = none → (s.chan n).closeAt + 4096 ≤ 512 * s.now → s.segOfChan n = none → ∃ t,
      exec (.rangeChange n) s = .next t ∧ (t.chan n).next = none ∧ t.f (Reg.RX_CH n) 13 12 = r % 4 ∧ 512 * s.now + 20480 ≤ (t.chan n).holdUntil) ∧
    (∀ n : Fin 512, n.val < s.variant.channels → (s.chan n).stuck = false → s.dev ≠ .reset → ∃ t, exec (.comparatorStuck n) s = .next t ∧
      (t.chan n).stuck = true ∧ t.bit Reg.RX_FLAGS 1 = true) ∧
    (∀ c : Fin 32, s.f (Reg.TDC_STAT_STATUS c) 2 0 = 1 →
      (2 ^ bitsOf (s.stat c).ctrl 12 8 ≤ (s.stat c).count → ∃ t, exec (.statRunDone c) s = .next t ∧ t.f (Reg.TDC_STAT_STATUS c) 2 0 = 2 ∧
        t.r (Reg.TDC_STAT_COUNT c) = (s.stat c).count % 2 ^ 32) ∧
      ((s.stat c).startAt + bitsOf (s.stat c).ctrl 30 16 * 1000000 ≤ s.now → ∃ t, exec (.statRunTimeout c) s = .next t ∧ t.f (Reg.TDC_STAT_STATUS c) 2 0 = 3 ∧
        t.r (Reg.TDC_STAT_COUNT c) = (s.stat c).count % 2 ^ 32))

/-! ## Histograms, hives and chain -/

/-- R180, R192 to R209, R213 to R219, R230, R233 to R270: combs, hives and engines: an event is taken and binned, a close word counts its shot, a batch is tested when it
is complete and its verdict queued, a point is exported when its column has closed, dispatched and detected, an engine that fails its check is fenced, and a merge engine
that fails it halts the block; clusters and zones are closed in turn; the finder takes its events and frees its contexts. -/
def Obligations.DetectionRuns : Prop :=
  ∀ s : State,
    (∀ c : Fin 32, exec (.eventWordBinned c) s = .next (s.binEvent c) ∧ exec (.closeWord c) s = .next (s.actClose c) ∧
      exec (.exportScanDone c) s = .next (s.exportScan c).assemble) ∧
    (∀ (c : Fin 32) (g : Fin 64) key k, s.dueBatch c g = some (key, k) → (s.comb c).verdicts.length < 32 →
      exec (.batchComplete c g) s = .next (s.testBatch c key g k)) ∧
    (∀ (c : Fin 32) (g : Fin 64), s.dueBatch c g = none → exec (.batchComplete c g) s = .next s) ∧
    (∀ h : Fin 8, exec (.hiveDispatch h) s = .next (s.hiveDispatch h).assemble ∧ exec (.chainWindowDone h false) s = .next (s.chainWindow h).assemble ∧
      exec (.chainWindowDone h true) s = .next (s.chainMemErr h).assemble) ∧
    (∀ e : Fin 1024, exec (.pointDetectionDone e) s = .next (s.pointDone e).assemble) ∧
    (∀ (h : Fin 8) (pass : Bool), (s.variant.hives ≤ h.val ∨ (s.hive h).checked = true) → exec (.engineCheck h pass) s = .next s) ∧
    (∀ h : Fin 8, h.val < s.variant.hives → (s.hive h).checked = false → s.dev.anyState = true →
      let x := s.hive h
      let u := s.setHive h { x with turn := (x.turn + 1) % 128, checked := true }
      exec (.engineCheck h true) s = .next u ∧
      exec (.engineCheck h false) s = .next (if mergeEngine (128 * h.val + x.turn) then u.halt 0x73 else (u.fence (128 * h.val + x.turn)).assemble)) ∧
    (∀ c, s.det.clusters.find? (·.due) = some c →
      exec .clusterClose s = .next (State.associate { s with det := { s.det with clusters := s.det.clusters.filter (· != c) } } c)) ∧
    (s.det.clusters.find? (·.due) = none → exec .clusterClose s = .next s) ∧
    (∀ z : Fin 64, (s.det.ready.find? fun r => r.2.any (·.zone == z.val + 1)) = none → exec (.zoneResult z) s = .next s) ∧
    (∀ (z : Fin 64) f l c, s.det.ready = [(f, l)] → l = [c] → c.zone = z.val + 1 → ∃ u : State, exec (.zoneResult z) s = .next
        (if u.dev.emitting = false ∨ zoneEn ((u.cfgOf f).zones.get blank32 z) = false then u else u.applyZone z f ((u.cfgOf f).zones.get blank32 z) c) ∧
      u = { s with det := { s.det with ready := [] } }) ∧
    (∀ q qs, s.rej.feQueue = q :: qs → s.rej.feTaken = none → s.dev ≠ .calibrating → exec .feStrongEvent s = .next (State.feTake { s with rej := { s.rej with feQueue := qs } } q)) ∧
    (s.rej.feQueue = [] ∨ s.dev = .calibrating → exec .feStrongEvent s = .next s) ∧
    (∀ i : Fin 64, s.feSt i ≠ 0 → s.feSt i ≠ 2 → 1000000 ≤ s.now - s.rej.ctxHit.get 0 i → exec (.feContextExpiry i) s = .next (s.feFree i).syncFe) ∧
    (∀ (c : Fin 32) w ws, (s.tdcComb c).evts = w :: ws → ∃ t, exec (.eventWordBinned c) s = .next t ∧ (t.tdcComb c).evts = ws ∧
      (t.tdcComb c).rd = ((s.tdcComb c).rd + 1) % 256 ∧
      ∀ nt col g h, ((s.comb c).notices.find? fun n => n.number == w.number && n.seg == w.seg) = some nt → nt.internal = false → s.combCol c nt.key = some col →
        col.stalled = false → col.closedAt = none → col.dark = false → (s.comb c).dark = false → 16 * c.val + w.ch ∈ nt.acc → w.ovf = false →
        col.segs.find? (·.seg == w.seg) = some g → s.hist c (ptKey nt.key (16 * c + w.ch)) = some h →
        let bin := stampTime w.lsb w.ts / (640000 * 2 ^ g.w)
        bin < g.u → t.hist c (ptKey nt.key (16 * c + w.ch)) = some (h.add bin (binsOf g.b) w.range w.sat)) ∧
    (∀ (c : Fin 32) m ms, (s.tdcComb c).dueClose = some (m, ms) → ∃ t, exec (.closeWord c) s = .next t ∧ (t.tdcComb c).marks = ms ∧
      ∀ nt, ((s.comb c).notices.find? fun n => n.number == m.number && n.seg == m.seg && n.internal == m.internal) = some nt →
        (t.comb c).notices = (s.comb c).notices.filter (· != nt) ∧
        ∀ col n h, s.combCol c nt.key = some col → col.closedAt = none → nt.internal = false → nt.acc = [n] → m.noStart = false →
          s.hist c (ptKey nt.key n) = some h → ∃ h', t.hist c (ptKey nt.key n) = some h' ∧ h'.n = h.n + 1) ∧
    (∀ (c : Fin 32) (g : Fin 64) key k col sg, s.dueBatch c g = some (key, k) → s.combCol c key = some col → col.segs.find? (·.seg == g.val) = some sg →
      (s.comb c).verdicts.length < 32 → ∃ t v, exec (.batchComplete c g) s = .next t ∧ (t.comb c).verdicts = (s.comb c).verdicts ++ [v] ∧ v.key = key ∧
      v.column = col.column ∧ v.comb = c.val ∧ v.seg = g.val ∧ v.batch = k) ∧
    (∀ (c : Fin 32) col, ((s.comb c).cols.find? fun x => x.closedAt.isSome) = some col → 625 * s.scanCycles c col + col.closedAt.getD 0 * 1000 ≤ s.now * 1000 →
      (∀ g b, g ∈ col.segs → b ∈ g.batches → b.done = true) → s.exportPts c col.key = [] → ∃ u : State, exec (.exportScanDone c) s = .next u.assemble ∧
      (u.comb c).notices = ((s.comb c).notices.filter fun x => x.key != col.key) ∧ (∀ x, x ∈ (u.comb c).cols → x.key ≠ col.key) ∧ (u.comb c).ring = (s.comb c).ring) ∧
    (∀ (c : Fin 32) col n h g, ((s.comb c).cols.find? fun x => x.closedAt.isSome) = some col → 625 * s.scanCycles c col + col.closedAt.getD 0 * 1000 ≤ s.now * 1000 →
      (∀ g b, g ∈ col.segs → b ∈ g.batches → b.done = true) → s.exportPts c col.key = [n] → s.hist c (ptKey col.key n) = some h →
      col.segs.find? (·.seg == h.seg) = some g → s.chanState n = 0 → bitN (s.ef (Reg.HIST_CTRL c) 31 0) 3 = false →
      ((s.comb c).ring.map (·.size)).sum + (exportRec col g n h).size ≤ 49152 → ∃ u : State, exec (.exportScanDone c) s = .next u.assemble ∧
      (u.comb c).ring = (s.comb c).ring ++ [exportRec col g n h] ∧ u.hist c (ptKey col.key n) = none) ∧
    (∀ (h : Fin 8) w ws e, (s.hive h).waiting = w :: ws → s.idleEngine h = some e → ∃ u : State, exec (.hiveDispatch h) s = .next u.assemble ∧
      (u.hive h).waiting = ws ∧ u.engine e = some { point := w.point, since := s.now, again := w.again }) ∧
    (∀ (h : Fin 8) c r e, (s.hive h).waiting = [] → s.ringFor h = some (c, r) → s.idleEngine h = some e → ∃ u : State, exec (.hiveDispatch h) s = .next u.assemble ∧
      (u.comb c).ring = (s.comb c).ring.drop 1 ∧ u.engine e = some { point := r, since := s.now }) ∧
    (∀ (e : Fin 1024) j, s.engine e = some j → ∃ u : State, exec (.pointDetectionDone e) s = .next u.assemble ∧ u.engine e = none ∧
      u.r (Reg.HIVE_RECORDS (e / 128)) = min (s.r (Reg.HIVE_RECORDS (e / 128)) + 1) 0xFFFFFFFF ∧
      (u.det.results.get none (ptKey j.point.key j.point.ch)).isSome = true) ∧
    (∀ (h : Fin 8) c cs, (s.hive h).chain = c :: cs →
      (s.chainReady h (s.cfgOf c.frame) = true → ∃ u : State, exec (.chainWindowDone h false) s = .next u.assemble ∧ (u.hive h).chain = cs ∧
        u.r (Reg.FC_WINDOWS h) = min (s.r (Reg.FC_WINDOWS h) + 1) 0xFFFFFFFF) ∧
      ∃ u : State, exec (.chainWindowDone h true) s = .next u.assemble ∧ (u.hive h).chain = cs ∧
        u.r (Reg.FC_SKIP h) = min (s.r (Reg.FC_SKIP h) + 1) 0xFFFFFFFF ∧ u.bit Reg.FC_FLAGS 2 = true) ∧
    (∀ c, s.det.clusters.find? (·.due) = some c →
      (c.meas.points < max 1 (s.f Reg.TRK_CLUSTER 15 8) → ∃ t, exec .clusterClose s = .next t ∧ t.det.clusters = s.det.clusters.filter (· != c) ∧ t.plan = s.plan) ∧
      (max 1 (s.f Reg.TRK_CLUSTER 15 8) ≤ c.meas.points → s.plan.tracks = ⟨[]⟩ → s.plan.hostWrites = ⟨[]⟩ → ∃ t, exec .clusterClose s = .next t ∧
        t.det.clusters = s.det.clusters.filter (· != c) ∧ fieldAt (t.track 0) 2 1 = (if s.f Reg.TRK_ASSOC 15 8 ≤ 1 then 2 else 1) ∧
        t.r Reg.TRK_CREATED = min (s.r Reg.TRK_CREATED + 1) 0xFFFFFFFF)) ∧
    (∀ (z : Fin 64) f c, s.det.ready = [(f, [c])] → c.zone = z.val + 1 → s.dev.emitting = true → zoneEn ((s.cfgOf f).zones.get blank32 z) = true →
      s.zoneState z ≠ 0 → ∃ t, exec (.zoneResult z) s = .next t ∧ t.det.ready = [] ∧ t.f (Reg.ZONE_STATE z) 15 8 = min 255 c.hits) ∧
    (∀ q qs, s.rej.feQueue = q :: qs → (∀ d, s.rej.feTaken = some d → d + 10 ≤ s.now) → s.dev ≠ .calibrating → ∃ t, exec .feStrongEvent s = .next t ∧
      t.rej.feQueue = qs ∧ t.rej.feTaken = some s.now ∧ (t.rej.feStore.get [] q.comb).head? = some (q.a, q.f)) ∧
    (∀ i : Fin 64, (s.feSt i ≠ 0 ∧ s.feSt i ≠ 2 ∧ 1000000 ≤ s.now - s.rej.ctxHit.get 0 i) ∨
      (s.feSt i = 2 ∧ 1000000 * s.ef Reg.FE_CFG 31 16 ≤ s.now - s.rej.ctxHit.get 0 i) → ∃ t, exec (.feContextExpiry i) s = .next t ∧ t.feSt i = 0)

/-! ## Streams and DMA -/

/-- R365, R373, R376 to R382: a packet of a subscription is placed in its ring, where it waits while its lane takes none; a descriptor that ends is marked done, counted,
told to its user if it asks for that, and followed by the next of its chain; a descriptor to a lane queue, on a channel of a port that has a packet, a reply or an event for
it, moves that, as soon as the lane takes it, and any other descriptor its bytes; a burst that fails is issued again up to the limit, and then halts its channel, with its
code and the descriptor, and a packet whose writes did not all succeed is dropped. (Which bytes of a failed descriptor were written, the channels that carry no data of the
model, and where a stopped copy goes on: log entries 43, 78, 101 and 102.) -/
def Obligations.StreamsAndDmaRun : Prop :=
  ∀ s : State,
    (∀ (ch : Fin 32) k r, packNext (s.sub ch).kind (s.sub ch).pend = some (k, r) →
      exec (.streamPacketFormed ch) s = .next ((s.setSub ch { s.sub ch with pend := r }).placePkt ch k)) ∧
    (∀ ch : Fin 32, packNext (s.sub ch).kind (s.sub ch).pend = none → exec (.streamPacketFormed ch) s = .next s) ∧
    (∀ n : Fin 64, s.f (Reg.DMA_STATUS n) 1 0 ≠ 1 → exec (.dmaDescriptorDone n) s = .next s) ∧
    (∀ n : Fin 64, (s.desc (s.r (Reg.DMA_CUR n))).dstSpace = 1 →
      (n.val < 32 ∧ (s.dma n).moved = false ∧ (s.sub n).ring ≠ [] ∧ s.laneTakes n = false) ∨
        (32 ≤ n.val ∧ n.val < 36 ∧ (s.port (n - 32)).out ≠ [] ∧ s.serviceTakes (n - 32) = false) → exec (.dmaDescriptorDone n) s = .next s) ∧
    (∀ n : Fin 64, s.f (Reg.DMA_STATUS n) 1 0 = 1 → 32 ≤ n.val → s.dmaWaits n = false → (s.dma n).restarting = false →
      (s.desc (s.r (Reg.DMA_CUR n))).inDram s.variant = true →
      let a := s.r (Reg.DMA_CUR n)
      let d := s.desc a
      let u := (s.setDescStatus a (1 + 256 * s.f (Reg.DMA_STATUS n) 11 8)).inc (Reg.DMA_DONE n)
      let m := if n.val < 36 ∧ d.dstSpace = 1 ∧ (s.port (n - 32)).out ≠ [] then u.loadService (u.classLane (n - 32) true) else u.dmaMoveBytes n d d.count
      exec (.dmaDescriptorDone n) s = .next ((m.setDma n { m.dma n with
        lastDone := some a, restarting := false, notified := (m.dma n).notified + b2n d.notify }).followNext n (m.desc a).next)) ∧
    (∀ (n : Fin 64) w, w ≠ BurstAnswer.late → s.f (Reg.DMA_STATUS n) 1 0 ≠ 1 → exec (.dmaBurstError n w) s = .next s) ∧
    (∀ (n : Fin 64) w, w ≠ BurstAnswer.late → s.f (Reg.DMA_STATUS n) 1 0 = 1 →
      let tries := if w = .again then (s.dma n).tries else 0
      exec (.dmaBurstError n w) s = .next (if tries < s.f Reg.STREAM_CTRL 3 0 then
        (s.setDma n { s.dma n with tries := tries + 1 }).addF (Reg.DMA_STATUS n) 11 8 1 else ((s.dmaPartial n).dropCapture n).haltDma n (s.r (Reg.DMA_CUR n)) 1)) ∧
    (∀ (n : Fin 64) a, (s.dma n).lastDone = some a → 36 ≤ n.val → s.f (Reg.DMA_STATUS n) 1 0 ≠ 0 → s.f (Reg.DMA_STATUS n) 1 0 ≠ 3 →
      exec (.dmaBurstError n .late) s = .next ((s.dropWords n).haltDma n a 2)) ∧
    (∀ (ch : Fin 32) k r, packNext (s.sub ch).kind (s.sub ch).pend = some (k, r) → (s.sub ch).state = 2 → (s.sub ch).safety = false →
      (s.sub ch).fill + k.size ≤ s.ringCap (s.sub ch) → ∃ t, exec (.streamPacketFormed ch) s = .next t ∧ (t.sub ch).pend = r ∧
      (t.sub ch).ring = (s.sub ch).ring ++ [{ k with pseq := (s.sub ch).placed % 65536 }] ∧ (t.sub ch).placed = (s.sub ch).placed + 1 ∧
      (t.sub ch).fill = (s.sub ch).fill + k.size) ∧
    (∀ n : Fin 64, s.f (Reg.DMA_STATUS n) 1 0 = 1 → (s.desc (s.r (Reg.DMA_CUR n))).inDram s.variant = true → s.dmaWaits n = false →
      ∃ t, exec (.dmaDescriptorDone n) s = .next t ∧
      t.r (Reg.DMA_DONE n) = min (s.r (Reg.DMA_DONE n) + 1) 0xFFFFFFFF ∧ (t.dma n).lastDone = some (s.r (Reg.DMA_CUR n)) ∧
      (t.dma n).notified = (s.dma n).notified + b2n (s.desc (s.r (Reg.DMA_CUR n))).notify ∧
      (s.dmaCarries n (s.desc (s.r (Reg.DMA_CUR n))) = true → (s.desc (s.r (Reg.DMA_CUR n))).next = 0xFFFFFFFF → t.f (Reg.DMA_STATUS n) 1 0 = 2)) ∧
    (∀ n : Fin 64, s.f (Reg.DMA_STATUS n) 1 0 = 1 → s.f Reg.STREAM_CTRL 3 0 ≤ (s.dma n).tries → ∃ t, exec (.dmaBurstError n .again) s = .next t ∧
      t.f (Reg.DMA_STATUS n) 1 0 = 3 ∧ t.f (Reg.DMA_STATUS n) 5 4 = 1 ∧ t.bit Reg.STREAM_FLAGS 1 = true ∧ (t.dma n).failed = s.r (Reg.DMA_CUR n)) ∧
    (∀ (n : Fin 64) a, (s.dma n).lastDone = some a → s.f (Reg.DMA_STATUS n) 1 0 ≠ 0 → s.f (Reg.DMA_STATUS n) 1 0 ≠ 3 → ∃ t,
      exec (.dmaBurstError n .late) s = .next t ∧ t.f (Reg.DMA_STATUS n) 1 0 = 3 ∧ t.f (Reg.DMA_STATUS n) 5 4 = 2 ∧ t.bit Reg.STREAM_FLAGS 2 = true ∧
      (t.dma n).failed = a)

/-! ## Waggle -/

/-- R117 to R141: the mirror: control ticks every 5 µs while it is powered; the safe entry of a steering fault; the parking and the release of an axis and their timeouts;
and the arming, which ends when both axes have held their scan for 2 ms, or fails after 400 ms. -/
def Obligations.WaggleRuns : Prop :=
  ∀ s : State,
    (∀ xs ys late p0, s.wag.powerAt = some p0 → exec (.waggleTick xs ys late) s = .next (if s.now < p0 + 5000 * s.wag.n then s else s.waggleTick xs ys late)) ∧
    (∀ xs ys late, s.wag.powerAt = none → exec (.waggleTick xs ys late) s = .next s) ∧
    (∀ l : Fin 20, exec (.loopComputeDone l) s = .next (if (s.loop l).late then s.setLoop l { s.loop l with late := false } else s)) ∧
    (∀ d, s.wag.parkAt = some d → exec .steerSafeEntry s = .next (State.toSafe { s with wag := { s.wag with parkAt := none } } 0x53)) ∧
    (exec .heaterHoldExpiry s = .next (s.each ((List.range 8).filter fun k => (s.loop (4 + k)).hold.any fun u => decide (u ≤ s.now)) State.presetHeater)) ∧
    (s.wag.armAt.isSome = true → s.wag.axX.needStart = false → s.wag.axY.needStart = false → s.moveDone 0 = true → s.moveDone 1 = true → s.axState 0 = 1 →
      s.axState 1 = 1 → exec .scanStartReached s = .next { s with wag := { s.wag with atStart := true } }) ∧
    (∀ d t0, s.wag.armAt = some d → s.wag.scanAt = some t0 → s.wag.axX.heldFor s.now t0 2000000 = true → s.wag.axY.heldFor s.now t0 2000000 = true →
      s.axState 0 = 2 → s.axState 1 = 2 → exec .armSettled s = .next (State.cmdDone { s with wag := { s.wag with armAt := none } })) ∧
    (∀ d, s.wag.armAt = some d → s.now < d + 400000000 → exec .armSettleTimeout s = .next s) ∧
    (∀ d, s.wag.armAt = some d → d + 400000000 ≤ s.now → ∃ u : State, exec .armSettleTimeout s = .next u.endSpan.cmdFails ∧ u.wag.armAt = none ∧ u.wag.scanAt = none ∧
      u.bit Reg.WAG_PROF_FLAGS 4 = true) ∧
    (∀ a : Fin 2, s.axState a = 4 → (s.axis a).heldFor s.now 0 10000000 = true → (s.axis a).thenRelease = false → ∃ t,
      exec (.parkSettled a) s = .next t ∧ t.axState a = 5 ∧ (t.axis a).parkAt = none ∧ (∀ r, r ≠ Reg.WAG_STATUS → t.rd r = s.rd r)) ∧
    (∀ a : Fin 2, s.axState a ≠ 4 → exec (.parkSettled a) s = .next s) ∧
    (∀ (a : Fin 2) t0, (s.axis a).parkAt = some t0 → s.axState a = 4 → t0 + 200000000 ≤ s.now →
      ∃ t, exec (.parkTimeout a) s = .next t ∧ t.axState a = 6 ∧ (t.axis a).relAt = some s.now ∧ t.bit Reg.WAG_PROF_FLAGS (5 + a.val) = true) ∧
    (∀ (a : Fin 2) t0, (s.axis a).relAt = some t0 → (s.axState a ≠ 6 ∨ s.now < t0 + 10000000) → exec (.releaseDone a) s = .next s) ∧
    (∀ (a : Fin 2) t0, (s.axis a).relAt = some t0 → s.axState a = 6 → t0 + 10000000 ≤ s.now → (s.hardRelease a).axesOff = false →
      exec (.releaseDone a) s = .next (s.hardRelease a)) ∧
    (∀ xs ys late p0, s.wag.powerAt = some p0 → p0 + 5000 * s.wag.n ≤ s.now → ∃ t, exec (.waggleTick xs ys late) s = .next t ∧ t.wag.n = s.wag.n + 1) ∧
    (∀ l : Fin 20, (s.loop l).late = true → exec (.loopComputeDone l) s = .next (s.setLoop l { s.loop l with late := false })) ∧
    (∀ d, s.wag.parkAt = some d → s.dev.scanning = true → (∀ T k, s.tPol = some (T, k) → T < 8000) → ∃ t, exec .steerSafeEntry s = .next t ∧ t.dev = .safe ∧
      t.sys.cause = 0x53 ∧ t.sys.prev = s.dev) ∧
    (∀ (k : Fin 8) d, (s.loop (4 + k)).hold = some d → d ≤ s.now → ∃ t, exec .heaterHoldExpiry s = .next t ∧ t.loop (4 + k) = {} ∧
      t.loop (12 + k) = { out := signed 16 (s.ef (Reg.HEAT_PRESET k) 15 0), integ := signed 16 (s.ef (Reg.HEAT_PRESET k) 15 0) * 32768 }) ∧
    (∀ d t0 c, s.wag.armAt = some d → s.wag.scanAt = some t0 → s.wag.axX.heldFor s.now t0 2000000 = true → s.wag.axY.heldFor s.now t0 2000000 = true →
      s.axState 0 = 2 → s.axState 1 = 2 → s.sys.cmds = [c] → c.opcode = 0x0104 → s.dev = .standby → (∀ T k, s.tPol = some (T, k) → T < 8000) → ∃ t,
      exec .armSettled s = .next t ∧ t.dev = .armed ∧ t.sys.cmds = []) ∧
    (∀ (a : Fin 2) t0, (s.axis a).relAt = some t0 → s.axState a = 6 → t0 + 10000000 ≤ s.now → s.sys.cmds = [] → ∃ t, exec (.releaseDone a) s = .next t ∧
      t.axState a = 0 ∧ (t.axis a).relAt = none ∧ (t.axis a).dac = 0)

/-! ## Capture -/

/-- R280 to R287: the capture engine: what stands first in its input FIFO reaches the ring or the open capture, in order, once the staged points that fit have been taken
into the FIFO; while its DMA channel DMA45 is halted the FIFO keeps it; a time item every 64 µs; the filling before the trigger and after it move the state on; a slot
that closes is ready to be read, and the engine is armed again. -/
def Obligations.CaptureRuns : Prop :=
  ∀ s : State,
    (∀ f, s.capOn = false ∨ s.f (Reg.DMA_STATUS 45) 1 0 = 3 → exec (.captureItem f) s = .next s) ∧
    (s.capOn = true → s.f (Reg.DMA_STATUS 45) 1 0 ≠ 3 → let u := s.pullStaged s.stagedCount
      (u.cap.input = [] → ∀ f, exec (.captureItem f) s = .next u) ∧
      (∀ f b r, u.cap.input = .item b :: r → exec (.captureItem f) s = .next (State.takeItem { u with cap := { u.cap with input := r } } f b)) ∧
      (∀ f cause n t0 r, u.cap.input = .loss cause n t0 :: r →
        exec (.captureItem f) s = .next (State.capLoss { u with cap := { u.cap with input := r } } cause n t0)) ∧
      (∀ (f : Fin 5) codes d r, u.cap.input = .angle codes d :: r → u.cap.loss = none →
        let v : State := { u with cap := { u.cap with input := r } }
        exec (.captureItem f) s = .next (v.takeItem f (v.angleItem codes d)))) ∧
    (∀ (f : Fin 5) b r, s.capOn = true → s.f (Reg.DMA_STATUS 45) 1 0 ≠ 3 → s.stagedCount = 0 → s.capSt ≠ 3 → f ≠ 4 → s.cap.loss = none →
      s.cap.input = .item b :: r → let l := s.cap.ring ++ [(s.time.dev, b)]
      exec (.captureItem f) s = .next { s with cap := { s.cap with input := r, ring := trimRing (s.f Reg.CAP_SIZE 11 0 * 4096) l.length l } }) ∧
    (∀ (f : Fin 5) b r, s.capSt = 3 → s.f (Reg.DMA_STATUS 45) 1 0 ≠ 3 → s.stagedCount = 0 → f ≠ 4 → s.cap.loss = none → s.cap.input = .item b :: r →
      (s.capSlot s.cap.cur).postBytes < s.f Reg.CAP_SIZE 23 12 * 4096 → ∃ t, exec (.captureItem f) s = .next t ∧ t.cap.input = r ∧ t.cap.ring = s.cap.ring ∧
      (t.capSlot s.cap.cur).items = (s.capSlot s.cap.cur).items ++ [b] ∧ (t.capSlot s.cap.cur).postBytes = (s.capSlot s.cap.cur).postBytes + b.length ∧
      (∀ a, a ≠ Reg.CAP_STATUS → t.rd a = s.rd a)) ∧
    (∀ b r, s.capOn = true → s.f (Reg.DMA_STATUS 45) 1 0 ≠ 3 → s.stagedCount = 0 → s.cap.loss = none → s.cap.input = .item b :: r →
      exec (.captureItem 4) s = .next { s with cap := { s.cap with input := r, loss := some (4, 1, s.now) } }) ∧
    (∀ (f : Fin 5) c st, s.capOn = true → s.f (Reg.DMA_STATUS 45) 1 0 ≠ 3 → s.capSt ≠ 3 → f ≠ 4 → s.cap.loss = none → s.cap.input = [] → s.stagedCount = 1 →
      s.stagedComb = some c → (s.combs.get {} c).stage = [st] → let l := s.cap.ring ++ [(s.time.dev, st.item c)]
      ∃ t, exec (.captureItem f) s = .next t ∧ t.cap.ring = trimRing (s.f Reg.CAP_SIZE 11 0 * 4096) l.length l ∧ t.cap.input = [] ∧
        (t.combs.get {} c).stage = [] ∧ t.f (Reg.HIST_STATUS c) 21 16 = 0) ∧
    (s.capOn = true → s.capSt ≠ 3 → s.cap.loss = none → s.cap.timeAt + 64000 ≤ s.now →
      let l := s.cap.ring ++ [(s.time.dev, leBytes 8 (s.time.dev % 2 ^ 48 + 4 * 2 ^ 60))]
      exec .captureTimeItem s = .next { s with cap := { s.cap with ring := trimRing (s.f Reg.CAP_SIZE 11 0 * 4096) l.length l, timeAt := s.now } }) ∧
    (exec .captureTimeItem s = .next (if s.capOn = true ∧ s.cap.timeAt + 64000 ≤ s.now then s.storeGap.storeTime else s)) ∧
    (s.capSt = 1 → s.f Reg.CAP_SIZE 11 0 * 4096 < ringBytes s.cap.ring + 8 → ∃ t, exec .capturePreFull s = .next t ∧ t.capSt = 2 ∧ t.cap = s.cap ∧
      (∀ a, a ≠ Reg.CAP_STATUS → t.rd a = s.rd a)) ∧
    (s.capSt ≠ 1 → exec .capturePreFull s = .next s) ∧
    (s.capSt = 3 → s.f Reg.CAP_SIZE 23 12 * 4096 ≤ (s.capSlot s.cap.cur).postBytes → ∃ t, exec .capturePostFull s = .next t ∧ t.capSt = 4 ∧ t.cap = s.cap ∧
      (∀ a, a ≠ Reg.CAP_STATUS → t.rd a = s.rd a)) ∧
    (s.capSt ≠ 3 → exec .capturePostFull s = .next s) ∧
    (s.capSt ≠ 4 → exec .captureClosed s = .next s) ∧
    (s.capSt = 4 → exec .captureClosed s = .next (s.closeSlot false).rearm ∧ ((s.closeSlot false).capSlot s.cap.cur).st = 2 ∧
      ((s.closeSlot false).capSlot s.cap.cur).truncated = false ∧ (s.closeSlot false).r Reg.CAP_COUNT = min (s.r Reg.CAP_COUNT + 1) 0xFFFFFFFF) ∧
    (∀ i, s.capSt = 4 → (s.closeSlot false).armSlot = some i → i ≠ s.cap.cur → ∃ t, exec .captureClosed s = .next t ∧ t.capSt = 1 ∧ t.cap.cur = i ∧
      (t.capSlot i).st = 1 ∧ (t.capSlot i).items = [] ∧ (t.capSlot s.cap.cur).st = 2 ∧ (t.capSlot s.cap.cur).items = (s.capSlot s.cap.cur).items ∧
      (t.capSlot s.cap.cur).seq = min (s.r Reg.CAP_COUNT + 1) 0xFFFFFFFF ∧ t.cap.input = [] ∧ t.cap.loss = none ∧ t.r Reg.CAP_COUNT = min (s.r Reg.CAP_COUNT + 1) 0xFFFFFFFF) ∧
    (s.capSt = 4 → (s.closeSlot false).armSlot = none → ∃ t, exec .captureClosed s = .next t ∧ t.capSt = 5 ∧ t.bit Reg.CAP_FLAGS 4 = true ∧
      (t.capSlot s.cap.cur).st = 2 ∧ t.cap.stopped = some s.cap.cur ∧ t.cap.ring = s.cap.ring)

/-! ## Lanes -/

/-- R305 to R311: what the transmitter of a lane puts on its line the receiver reads back: a group of sixteen flits, each one that its bytes can spell, led by its comma,
scrambled and stuffed, is read, by a descrambler in the state of the scrambler, as that group, with no error in it and the descrambler in the scrambler's state again. -/
def Obligations.LineCodeRecovers : Prop :=
  ∀ (pam : Bool) (scr last gseq : Nat) (fs : List Flit), fs.length = 16 → (∀ f, f ∈ fs → flitFits f = true) → gseq < 4096 →
    let g := lineGroup pam scr last gseq fs
    readGroup pam scr g.1 = ({ comma := true, framed := true, crcOk := true, seqOk := true, gseq, flits := fs }, g.2.1)

/-- R305 to R321: the training of a lane: signal, eight good commas or four bad ones, training sequences, the change of rate, equalisation with the best preset kept, up; a training that takes longer than 10 ms begins anew; the eye is followed,
and a lane that is not up for too long is lost. -/
def Obligations.LaneTrainingRuns : Prop :=
  ∀ (s : State) (l : Fin 4),
    (s.laneOn l = false → exec (.laneSignal l) s = .next s ∧ exec (.laneCommaLock l) s = .next s ∧ exec (.laneCommaLoss l) s = .next s) ∧
    ((s.lane l).goodCommas < 8 → exec (.laneCommaLock l) s = .next s) ∧ ((s.lane l).missed < 4 → exec (.laneCommaLoss l) s = .next s) ∧
    (s.laneOn l = true → s.laneSt l = 1 ∨ s.laneSt l = 6 →
      exec (.laneSignal l) s = .next (s.setLane l { s.lane l with signalAt := some s.now, scrRx := 0x7FFFFFFF, goodCommas := 0 }) ∧
      (8 ≤ (s.lane l).goodCommas → exec (.laneCommaLock l) s = .next ((s.setLane l { s.lane l with locked := true }).setLaneSt l 2))) ∧
    (s.laneOn l = true → s.laneSt l = 3 → (s.lane l).switched = true → 8 ≤ (s.lane l).goodCommas → ∃ t, exec (.laneCommaLock l) s = .next t ∧ t.laneSt l = 4 ∧
      t.lane l = { s.lane l with locked := true, eqNext := 0 } ∧ (∀ a, a ≠ Reg.LANE_STATUS l → t.rd a = s.rd a)) ∧
    (s.laneOn l = true → s.f (Reg.LANE_STATUS l) 11 10 = 0 → s.laneSt l ≠ 5 → 4 ≤ (s.lane l).missed →
      exec (.laneCommaLoss l) s = .next (s.setLane l { s.lane l with locked := false, goodCommas := 0 })) ∧
    (s.laneSt l = 2 → 8 ≤ (s.lane l).ackdSent → (s.lane l).ackdRx = true →
      let target := min (s.f (Reg.LANE_CFG l) 2 0) (s.f (Reg.LANE_STATUS l) 14 12)
      exec (.laneTrainDone l) s = .next ((s.setLane l { s.lane l with target, rateCount := 16, rateIdle := none, switched := false, eqNext := 0 }).setLaneSt l
        (if target = s.f (Reg.LANE_STATUS l) 6 4 then 4 else 3))) ∧
    (s.laneSt l ≠ 2 → exec (.laneTrainDone l) s = .next s) ∧
    (∀ d, s.laneSt l = 3 → (s.lane l).rateIdle = some d → (s.now < d → exec (.laneRateSwitch l) s = .next s) ∧
      (d ≤ s.now → ∃ t, exec (.laneRateSwitch l) s = .next t ∧ (t.lane l).locked = false ∧ (t.lane l).goodCommas = 0 ∧ (t.lane l).scrTx = 0x7FFFFFFF ∧
        (t.lane l).switched = true ∧ t.laneSt l = 3 ∧ t.f (Reg.LANE_STATUS l) 6 4 = (s.lane l).target % 8 ∧ (∀ a, a ≠ Reg.LANE_STATUS l → t.rd a = s.rd a))) ∧
    (∀ eyes ctle preset peer, s.laneSt l = 4 → (s.lane l).eqNext = 11 → (s.lane l).eqFinal = false →
      let rate := s.f (Reg.LANE_STATUS l) 6 4
      let figs := eyes.map (eyeFigure (rate == 5))
      let eye := figs.foldl max 0
      let low : Bool := rate != 0 && (decide (eye < s.f (Reg.LANE_CFG l) 15 8) || !peer)
      ∃ t, exec (.laneEqDone l eyes ctle preset peer) s = .next t ∧ t.f (Reg.LANE_STATUS l) 23 16 = eye ∧
        (t.lane l).reqPreset = some (bestPreset figs preset, true) ∧
        (low = false → t.laneSt l = 4 ∧ (t.lane l).eqFinal = true) ∧ (low = true → t.laneSt l = 3 ∧ (t.lane l).target = rate - 1 ∧ (t.lane l).rateCount = 16)) ∧
    (s.laneSt l ≠ 4 → exec (.laneUp l) s = .next s) ∧
    (s.laneSt l = 4 → (s.lane l).eqFinal = true → (s.lane l).reqPreset = none → (s.lane l).peerUp = true → (s.lane l).upSession = none → s.bit (Reg.LANE_STATUS l) 15 = false →
      ∃ u : State, exec (.laneUp l) s = .next ((u.pairLaneUp l).raise Ev.LANE_UP .all (leBytes 4 l)) ∧ u.laneSt l = 5 ∧ u.bit Reg.LINK_STATUS l = true ∧
        (u.lane l).upSession = some ((s.lane l).session, (s.lane l).peerSession) ∧ (u.lane l).idleSince = s.now ∧ (u.lane l).ackOwed = true) ∧
    (∀ t0, (s.lane l).retrainAt = some t0 → exec (.retrainTimeout l) s =
      .next (if s.laneSt l ≠ 5 ∧ t0 + 10000000 ≤ s.now then s.fullBringUp l else s)) ∧
    (∀ t0, (s.lane l).retrainAt = some t0 → s.laneSt l ≠ 5 → t0 + 10000000 ≤ s.now → ∃ t, exec (.retrainTimeout l) s = .next t ∧ t.laneSt l = 1 ∧
      t.f (Reg.LANE_STATUS l) 6 4 = 0 ∧ t.f (Reg.LANE_STATUS l) 11 8 = 0 ∧ t.f (Reg.LANE_EQ l) 3 0 = 4 ∧ (t.lane l).retrainAt = none ∧ (t.lane l).locked = false ∧
      (t.lane l).scrTx = 0x7FFFFFFF ∧ (t.lane l).target = 0) ∧
    (∀ r, s.laneSt l = 5 → let eye := eyeFigure (s.f (Reg.LANE_STATUS l) 6 4 == 5) r
      s.f (Reg.LANE_CFG l) 23 16 ≤ eye → ∃ t, exec (.eyeUpdate l r) s = .next t ∧ t.f (Reg.LANE_STATUS l) 23 16 = eye ∧
      t.f (Reg.LANE_EQ l) 23 16 = min eye (s.f (Reg.LANE_EQ l) 23 16) ∧ (∀ a, a ≠ Reg.LANE_STATUS l → a ≠ Reg.LANE_EQ l → t.rd a = s.rd a)) ∧
    (∀ eye, s.laneSt l ≠ 5 → exec (.eyeUpdate l eye) s = .next s) ∧
    (∀ t0, s.lossFrom l = some t0 → l.val < s.variant.lanes → s.bit Reg.LINK_CTRL (4 + l.val) = true → s.laneSt l ≠ 5 → s.bit (Reg.LANE_STATUS l) 15 = false →
      t0 + s.f Reg.LINK_CTRL 31 16 * 1000000 ≤ s.now → exec (.laneLossTimeout l) s = .next (s.laneLost l) ∧ ∃ u : State,
        exec (.laneLossTimeout l) s = .next ((((u.post Rec.LANE (l + 16)).raise Ev.LANE_LOST (.others l) (leBytes 4 l)).pairFail (l / 2) (l % 2) 2).lapseOwner).settle ∧
        u.bit (Reg.LANE_STATUS l) 15 = true ∧ u.bit Reg.LINK_STATUS (4 + l) = true ∧ u.bit Reg.LINK_FLAGS 5 = true)

/-- R305 to R324, R390 to R398: the traffic of a lane: a group sent, and one received from its line units, of which a receiver out of lock counts the commas alone; a replay after 20 µs without an acknowledgement, doze and wake, the receiver's wake, and the
switch and the rejoining of a pair. The order of the presets asked for and the choice among equals are the model's (log entry 100); so is what a group that does not come leaves
(log entry 99). -/
def Obligations.LaneTrafficRuns : Prop :=
  ∀ (s : State) (l : Fin 4),
    (exec (.laneGroupTx l) s = .next (s.groupTx l).owedRetrains) ∧
    (∀ us, exec (.laneGroupRx l us) s = .next ((s.setScrRx l (s.laneRead l us).2).groupRx l (s.laneRead l us).1)) ∧
    (s.laneOn l = true → s.laneSt l ∉ [0, 3, 4, 5] → s.f (Reg.LANE_STATUS l) 9 8 = 0 → s.sys.retrainOwed = [] → s.sys.disableOwed = [] →
      let x := s.lane l
      let g := lineGroup (s.f (Reg.LANE_STATUS l) 6 4 == 5) x.scrTx x.lastUnit x.lastGseq (List.replicate 16 (s.trainFlit l))
      ∃ t, exec (.laneGroupTx l) s = .next t ∧ t.regs = s.regs ∧
        t.lane l = { x with txLine := g.1, scrTx := g.2.1, lastUnit := g.2.2, ackdSent := if 4 ≤ x.trainRx then x.ackdSent + 16 else x.ackdSent }) ∧
    (∀ g, s.laneOn l = true → s.laneSt l = 5 → s.f (Reg.LANE_STATUS l) 9 8 = 0 → s.sys.retrainOwed = [] → s.sys.disableOwed = [] → (s.lane l).ackOwed = false →
      (s.lane l).nakOwed = false → (s.lane l).unacked.find? (·.resend) = some g →
      g.replays + 1 < s.f (Reg.LANE_CFG l) 31 28 → let x := s.lane l
      let h := lineGroup (s.f (Reg.LANE_STATUS l) 6 4 == 5) x.scrTx x.lastUnit g.gseq g.flits
      ∃ t, exec (.laneGroupTx l) s = .next t ∧ t.r (Reg.LANE_REPLAY l) = min (s.r (Reg.LANE_REPLAY l) + 1) 0xFFFFFFFF ∧ t.bit Reg.LINK_FLAGS 2 = true ∧
        t.lane l = { x with txLine := h.1, scrTx := h.2.1, lastUnit := h.2.2, unacked := x.unacked.map fun y => if y.gseq = g.gseq then
          { g with resend := false, replays := g.replays + 1, sentAt := s.now } else y, idleSince := s.now } ∧
        (∀ a, a ≠ Reg.LANE_REPLAY l → a ≠ Reg.LINK_FLAGS → t.rd a = s.rd a)) ∧
    (s.laneOn l = true → s.f (Reg.LANE_STATUS l) 9 8 = 0 → s.sys.retrainOwed = [] → s.sys.disableOwed = [] → (s.lane l).reqPreset = none →
      let x := s.lane l
      let sent (fs : List Flit) := (lineGroup (s.f (Reg.LANE_STATUS l) 6 4 == 5) x.scrTx x.lastUnit x.lastGseq fs).1
      (∀ n, s.laneSt l = 3 → x.switched = false → x.rateCount = n + 1 → ∃ t, exec (.laneGroupTx l) s = .next t ∧ (t.lane l).rateCount = n ∧
        (t.lane l).rateIdle = (if n = 0 then some (s.now + 10000) else none) ∧ (t.lane l).txLine = sent (List.replicate 16 (.rateChange x.target n))) ∧
      (s.laneSt l = 4 → x.eqNext < 11 → ∃ t, exec (.laneGroupTx l) s = .next t ∧ (t.lane l).eqNext = x.eqNext + 1 ∧
        (t.lane l).txLine = sent (.eqReq x.eqNext false :: List.replicate 15 (s.trainFlit l)))) ∧
    (∀ us, s.laneOn l = true → s.laneSt l ≠ 0 → let g := (s.laneRead l us).1
      let u := (s.setScrRx l (s.laneRead l us).2).countComma l g.comma
      ((s.lane l).locked = false → exec (.laneGroupRx l us) s = .next u) ∧
      ((s.lane l).locked = true → s.laneSt l = 5 → g.framed = true → g.crcOk = true → g.seqOk = true → g.flits.any (· == .reserved) = false →
        g.flits.any Flit.isData = true → gseqDist g.gseq (s.lane l).rxNext = 0 → exec (.laneGroupRx l us) s = .next ((u.setLane l { u.lane l with
          rxNext := ((s.lane l).rxNext + 1) % 4096, nakOut := false, nakOwed := false, ackOwed := true, accepted := (s.lane l).accepted + 1,
          idleSince := s.now }).actGroup l g)) ∧
      ((s.lane l).locked = true → s.laneSt l ≠ 5 → g.framed = true → g.crcOk = false ∨ g.flits.any (· == .reserved) = true →
        ∃ t, exec (.laneGroupRx l us) s = .next t ∧ t.r (Reg.LANE_CRC_ERR l) = min (s.r (Reg.LANE_CRC_ERR l) + 1) 0xFFFFFFFF ∧ t.bit Reg.LINK_FLAGS 0 = true ∧
        t.lanes = u.lanes ∧ (∀ a, a ≠ Reg.LANE_CRC_ERR l → a ≠ Reg.LINK_FLAGS → t.rd a = s.rd a)) ∧
      ((s.lane l).locked = true → g.framed = true → g.crcOk = true → g.seqOk = true → g.flits = List.replicate 16 .idle →
        exec (.laneGroupRx l us) s = .next u)) ∧
    ((s.lane l).unacked = [] → exec (.replayTimeout l) s = .next s) ∧
    (∀ g gs, (s.lane l).unacked = g :: gs → s.laneSt l = 5 → g.resend = false → g.sentAt + 20000 ≤ s.now →
      exec (.replayTimeout l) s = .next (if (s.lane l).replaying g.gseq = true then s else s.setLane l (s.lane l).goBack)) ∧
    (s.laneSt l = 5 → s.f (Reg.LANE_STATUS l) 9 8 = 0 → s.f (Reg.LANE_PWR l) 1 0 = 1 → s.txWanted l = false →
      (s.lane l).idleSince + s.f (Reg.LANE_PWR l) 15 8 * 1000 ≤ s.now → exec (.dozeIdleTimeout l) s = .next (s.setLane l { s.lane l with powerOwed := some 1 })) ∧
    (s.laneSt l ≠ 5 → exec (.dozeIdleTimeout l) s = .next s) ∧
    (∀ t0, s.laneOn l = true → (s.lane l).wakeUntil = some t0 → t0 ≤ s.now → ∃ t, exec (.laneWakeDone l) s = .next t ∧ t.f (Reg.LANE_STATUS l) 9 8 = 0 ∧
      t.lane l = { s.lane l with wakeUntil := none, idleSince := s.now } ∧ (∀ a, a ≠ Reg.LANE_STATUS l → t.rd a = s.rd a)) ∧
    (s.laneOn l = true → ∃ t, exec (.receiverWakeLock l) s = .next t ∧ t.f (Reg.LANE_STATUS l) 11 10 = 0 ∧ (∀ a, a ≠ Reg.LANE_STATUS l → t.rd a = s.rd a) ∧
      t = { s with regs := t.regs }) ∧
    (∀ t0, (s.lane l).leftUpAt = some t0 → s.pairFormed (l / 2) = true → s.laneUp l = false → (s.pair (l / 2)).out.contains (l.val % 2) = false →
      t0 + s.f (Reg.PAIR_CTRL (l / 2)) 15 8 * 100000 ≤ s.now → exec (.pairSwitchDelay l) s = .next (s.pairFail (l / 2) (l % 2) 1)) ∧
    (∀ t0, (s.lane l).leftUpAt = some t0 → s.pairFormed (l / 2) = true → s.laneUp l = false → (s.pair (l / 2)).out.contains (l.val % 2) = false →
      t0 + s.f (Reg.PAIR_CTRL (l / 2)) 15 8 * 100000 ≤ s.now → ∃ u : State, exec (.pairSwitchDelay l) s = .next (u.syncSingle (l / 2)) ∧
      u.bit (Reg.PAIR_STATUS (l / 2)) (2 + l % 2) = false ∧
      (s.laneUp (2 * (l / 2) + (1 - l % 2)) = true → s.f (Reg.PAIR_STATUS (l / 2)) 0 0 = l % 2 → u.f (Reg.PAIR_STATUS (l / 2)) 0 0 = 1 - l % 2) ∧
      (s.laneUp (2 * (l / 2) + (1 - l % 2)) = true → s.f (Reg.PAIR_STATUS (l / 2)) 1 1 = l % 2 → u.f (Reg.PAIR_STATUS (l / 2)) 1 1 = 1 - l % 2)) ∧
    (∀ t0, (if l.val % 2 = 0 then (s.pair (l / 2)).lowerUpAt else (s.pair (l / 2)).upperUpAt) = some t0 → s.pairFormed (l / 2) = true → s.laneUp l = true →
      s.bit (Reg.PAIR_STATUS (l / 2)) (2 + l % 2) = false → t0 + 100000000 ≤ s.now → ∃ u : State, exec (.pairRejoin l) s = .next (u.syncSingle (l / 2)) ∧
      u.bit (Reg.PAIR_STATUS (l / 2)) (2 + l % 2) = true)

/-! ## Redundancy -/

/-- R386 to R408: the planner pair and the supervisor: the self-test and the retest of a standby planner; a takeover from a checkpoint, and its timeout; a tie of claims; a fault
of the supervisor; the read-back of `SAFE_STATE_N`, which is a mismatch where it is high for more than 1 µs while the device drives it low (R402); and a memory error that cannot
be corrected where it halts the block. -/
def Obligations.RedundancyRuns : Prop :=
  ∀ s : State,
    (∀ (x : Fin 2) pass, s.plannerSt x ≠ 2 → exec (.standbySelftest x pass) s = .next s) ∧
    (∀ x : Fin 2, s.plannerSt x = 2 → s.dev ≠ .boot → s.supervised = true → s.red.testStart.get none x = none →
      let a := if x = 0 then Reg.PLAN_TEST_A else Reg.PLAN_TEST_B
      let u : State := { s with red := { s.red with testStart := s.red.testStart.set none x (some s.now) } }
      exec (.standbySelftest x true) s = .next ((u.addF a 15 0 1).setHealth 7 false) ∧
      exec (.standbySelftest x false) s = .next (((u.addF a 31 16 1).setHealth 7 true).setPlanner x 5).settle) ∧
    (∀ x : Fin 2, s.plannerSt x = 2 → s.dev ≠ .boot → s.supervised = true → (∀ t0, s.red.testStart.get none x = some t0 → t0 + 10000000 ≤ s.now) →
      let a := if x = 0 then Reg.PLAN_TEST_A else Reg.PLAN_TEST_B
      (∃ t, exec (.standbySelftest x true) s = .next t ∧ t.f a 15 0 = min (s.f a 15 0 + 1) 65535 ∧ t.bit Reg.HEALTH_SUMMARY 7 = false ∧
        t.red.testStart.get none x = some s.now ∧ (∀ b, b < 0x00100000 ∨ 0x00110000 ≤ b → b ≠ a → b ≠ Reg.HEALTH_SUMMARY → t.rd b = s.rd b)) ∧
      (∃ u : State, exec (.standbySelftest x false) s = .next u.settle ∧ u.f a 31 16 = min (s.f a 31 16 + 1) 65535 ∧ u.bit Reg.HEALTH_SUMMARY 7 = true ∧
        u.plannerSt x = 5 ∧ u.bit Reg.RED_FLAGS 1 = true ∧ u.red.failedAt.get none x = some s.now)) ∧
    (∀ (x : Fin 2) t0, s.plannerSt x = 5 → s.dev ≠ .reset → s.red.failedAt.get none x = some t0 → t0 + 1000000 * s.f Reg.RED_CTRL 31 16 ≤ s.now →
      exec (.plannerRetest x false) s = .next (s.setPlanner x 6).settle ∧
      (s.f Reg.PLAN_PAIR_STATUS (4 * x + 11) (4 * x + 8) < s.f Reg.RED_CTRL 11 8 → exec (.plannerRetest x true) s =
        .next ((s.setPlanner x 2).setF Reg.PLAN_PAIR_STATUS (4 * x + 11) (4 * x + 8) (s.f Reg.PLAN_PAIR_STATUS (4 * x + 11) (4 * x + 8) + 1)).settle)) ∧
    (∀ (x : Fin 2) t0, s.plannerSt x = 5 → s.dev ≠ .reset → s.red.failedAt.get none x = some t0 → t0 + 1000000 * s.f Reg.RED_CTRL 31 16 ≤ s.now →
      (∃ u : State, exec (.plannerRetest x false) s = .next u.settle ∧ u.plannerSt x = 6 ∧ u.bit Reg.RED_FLAGS 1 = true) ∧
      (s.f Reg.PLAN_PAIR_STATUS (4 * x + 11) (4 * x + 8) < s.f Reg.RED_CTRL 11 8 → ∃ u : State, exec (.plannerRetest x true) s = .next u.settle ∧ u.plannerSt x = 2 ∧
        u.f Reg.PLAN_PAIR_STATUS (4 * x + 11) (4 * x + 8) = s.f Reg.PLAN_PAIR_STATUS (4 * x + 11) (4 * x + 8) + 1)) ∧
    (∀ k b0 b1, s.red.takeover = some k → k.resume.isSome = true → exec (.checkpointRestored b0 b1) s = .next s) ∧
    (∀ k, s.red.takeover = some k → k.resume = none →
      exec (.checkpointRestored false false) s = .next (if s.newestCkpt.isNone ∧ (s.dev.scanning ∨ s.wag.armAt.isSome) then s else s.takeOver k)) ∧
    (∀ k, s.red.takeover = some k → k.resume = none → k.failed ≤ 1 → s.newestCkpt = none → s.dev.scanning = false → s.wag.armAt = none →
      ∃ t, exec (.checkpointRestored false false) s = .next t ∧ t.red.takeover = none ∧ t.plannerSt (1 - k.failed) = 4 ∧
        t.f Reg.PLAN_PAIR_STATUS 0 0 = 1 - k.failed ∧ t.r Reg.GATE_CLAIM = min 65535 (s.f Reg.GATE_CLAIM 15 0 + 1) ∧
        t.f Reg.CLAIM_AB (16 * (1 - k.failed) + 15) (16 * (1 - k.failed)) = min 65535 (s.f Reg.GATE_CLAIM 15 0 + 1) ∧
        t.f Reg.FAILOVER_LAST 15 0 = min 0xFFFF (divRoundNat (s.now - k.at_) 1000)) ∧
    (∀ k, s.red.takeover = some k → k.resume = none → k.at_ + 1000000 * s.f Reg.RED_CTRL 7 0 ≤ s.now → exec .failoverTimeout s = .next s.bothFailed) ∧
    (s.red.takeover = none → exec .failoverTimeout s = .next s) ∧
    (∀ t0, s.red.tieAt = some t0 → s.supervised = true → t0 + 1000000 ≤ s.now → exec .claimTieTimeout s = .next s.bothFailed) ∧
    (∀ t0, s.red.tieAt = some t0 → s.supervised = true → t0 + 1000000 ≤ s.now → ∃ u : State, exec .claimTieTimeout s = .next (u.halt 0x71) ∧
      u.red.takeover = none ∧ u.r Reg.CLAIM_AB = 0 ∧ u.plannerLost 0 = true ∧ u.plannerLost 1 = true ∧ (u.halt 0x71).dev = .faultHalt) ∧
    (∀ k, s.red.takeover = some k → k.resume = none → k.at_ + 1000000 * s.f Reg.RED_CTRL 7 0 ≤ s.now → s.supervised = true → ∃ u : State,
      exec .failoverTimeout s = .next (u.halt 0x71) ∧ u.red.takeover = none ∧ u.r Reg.CLAIM_AB = 0 ∧ u.plannerLost 0 = true ∧ u.plannerLost 1 = true ∧
      (u.halt 0x71).dev = .faultHalt) ∧
    (s.supervised = true → s.dev ≠ .faultHalt → s.dev ≠ .reset → ∃ t, exec .watchdogMiss s = .next t ∧ exec .lockstepMismatch s = .next t ∧ t.dev = .faultHalt) ∧
    (s.supervised = false → exec .watchdogMiss s = .next s ∧ exec .lockstepMismatch s = .next s) ∧
    (∀ high, s.dev = .reset → exec (.ssnReadback high) s = .next s) ∧
    (∀ high, s.dev ≠ .reset → s.bit Reg.SSN_STATUS 0 = false → ∃ t, exec (.ssnReadback high) s = .next t ∧ t.bit Reg.SSN_STATUS 1 = !high ∧
      t.red = { s.red with ssnExtLow := !high, ssnHighAt := none } ∧ (∀ a, a ≠ Reg.SSN_STATUS → t.rd a = s.rd a)) ∧
    (s.dev ≠ .reset → s.bit Reg.SSN_STATUS 0 = true →
      (∃ t, exec (.ssnReadback false) s = .next t ∧ t.bit Reg.SSN_STATUS 1 = true ∧ t.red = { s.red with ssnHighAt := none } ∧
        (∀ a, a ≠ Reg.SSN_STATUS → t.rd a = s.rd a)) ∧
      (s.red.ssnHighAt = none → ∃ t, exec (.ssnReadback true) s = .next t ∧ t.bit Reg.SSN_STATUS 1 = false ∧ t.red = { s.red with ssnHighAt := some s.now } ∧
        (∀ a, a ≠ Reg.SSN_STATUS → t.rd a = s.rd a)) ∧
      (∀ t0, s.red.ssnHighAt = some t0 → s.now ≤ t0 + 1000 → ∃ t, exec (.ssnReadback true) s = .next t ∧ t.bit Reg.SSN_STATUS 1 = false ∧ t.red = s.red ∧
        (∀ a, a ≠ Reg.SSN_STATUS → t.rd a = s.rd a)) ∧
      (∀ t0, s.red.ssnHighAt = some t0 → t0 + 1000 < s.now → ∃ t, exec (.ssnReadback true) s = .next t ∧ t.bit Reg.SSN_STATUS 1 = false ∧
        t.bit Reg.RED_FLAGS 4 = true ∧ t.bit Reg.HEALTH_SUMMARY 4 = true ∧ t.red = s.red)) ∧
    (∀ x, s.dev ≠ .reset → exec (.memoryError x false) s = .next (s.addF (Reg.ECC (memStore x)) 15 0 1) ∧
      exec (.memoryError x true) s = .next ((s.eccCount (memStore x) true).memFault x)) ∧
    (∀ x, s.dev ≠ .reset → ∃ t, exec (.memoryError x false) s = .next t ∧
      t.f (Reg.ECC (memStore x)) 15 0 = min (s.f (Reg.ECC (memStore x)) 15 0 + 1) 65535 ∧ t.f (Reg.ECC (memStore x)) 31 16 = s.f (Reg.ECC (memStore x)) 31 16 ∧
      (∀ a, a ≠ Reg.ECC (memStore x) → t.rd a = s.rd a)) ∧
    (∀ i, s.dev ≠ .reset → ∃ t, exec (.memoryError (.sct s.sctActive i) true) s = .next t ∧ t.bit Reg.PLAN_FLAGS 3 = true ∧
      t.plan.eccEntries = i :: s.plan.eccEntries ∧ t.f (Reg.ECC 2) 31 16 = min (s.f (Reg.ECC 2) 31 16 + 1) 65535 ∧ t.bit Reg.HEALTH_SUMMARY 5 = true) ∧
    (∀ i e, s.dev ≠ .reset → s.recorder.ring.get none i = some e → ∃ t, exec (.memoryError (.retention i) true) s = .next t ∧
      t.recorder.ring.get none i = some { e with ok := false } ∧ (∀ j, j ≠ i → t.recorder.ring.get none j = s.recorder.ring.get none j)) ∧
    (s.dev ≠ .reset → s.dev ≠ .faultHalt → ∃ t, exec (.memoryError .supervisor true) s = .next t ∧ t.dev = .faultHalt)

/-! ## Calibration and recorder -/

/-- R419 to R424: a comb's run starts where its column has begun and its turn has come, and ends after 6 ms; the measurement of a full calibration ends after 180 ms; a save by
the clock starts when it is due; a save that ends, which it does behind a flush of the recorder and never while flash may
not be written (R415, R416, R442), reports what it came to. -/
def Obligations.CalibrationRuns : Prop :=
  ∀ s : State,
    (s.plan.openCol = none ∨ s.calRuns = false → exec .combCalStart s = .next s) ∧
    (∀ key c col, s.plan.openCol = some key → s.calNext = some c → s.col key = some col → s.calRuns = true → col.startNs = some s.now →
      4 ≤ s.f (Reg.CAL_COMB c) 31 24 → col.sweep = 0 → exec .combCalStart s = .next (s.startRun c key)) ∧
    (∀ key c col, s.plan.openCol = some key → s.calNext = some c → s.col key = some col → s.calRuns = true → col.startNs = some s.now →
      (4 ≤ s.f (Reg.CAL_COMB c) 31 24 ∧ col.sweep = 0) ∨ (s.f (Reg.CAL_COMB c) 31 24 < 4 ∧ s.calWindow c col.sweep = true) →
      ∃ t r, exec .combCalStart s = .next t ∧ t.cal.run = some r ∧ r.comb = c ∧ r.start = s.now ∧ r.temp = s.combTemp c ∧ t.cal.ranFrame = true ∧
        t.bit Reg.CAL_STATUS 0 = true ∧ t.f Reg.CAL_STATUS 5 1 = c ∧ t.r Reg.CAL_COMB_TIME_LO = s.time.dev % 2 ^ 32 ∧ t.f (Reg.CAL_COMB c) 31 24 = 0 ∧
        (t.comb c).dark = true ∧ t.bit (Reg.HIST_STATUS c) 4 = true) ∧
    (∀ k, s.cal.run = none → exec (.combCalDone k) s = .next s) ∧
    (∀ k r, s.cal.run = some r → s.now < r.start + 6000000 → exec (.combCalDone k) s = .next s) ∧
    (∀ k r, s.cal.run = some r → r.start + 6000000 ≤ s.now → ∃ u : State, exec (.combCalDone k) s = .next (u.syncDue.settle) ∧
      u.cal.run = none ∧ u.cal.combDark = r.comb :: s.cal.combDark ∧ u.bit Reg.CAL_STATUS 9 = true) ∧
    (∀ k r, s.cal.full = some r → exec (.fullCalMeasureDone k) s = .next (if s.now < r.start + 180000000 ∨ r.found.isSome = true then s
      else { s with cal := { s.cal with full := some { r with found := some k } } })) ∧
    (∀ k r, s.cal.full = some r → r.start + 180000000 ≤ s.now → r.found = none →
      exec (.fullCalMeasureDone k) s = .next { s with cal := { s.cal with full := some { r with found := some k } } }) ∧
    (s.ef Reg.CAL_CTRL 18 18 = 0 → exec .calAutoSave s = .next s) ∧
    (s.ef Reg.CAL_CTRL 18 18 ≠ 0 → s.bit Reg.CAL_STATUS 9 = true → s.cal.save = none → s.flashFree = true → s.dev.anyState = true →
      s.cal.lastSave + 60000000000 * s.ef Reg.CAL_CTRL 31 24 ≤ s.now → exec .calAutoSave s = .next (s.startSave blankTpl) ∧
      ∃ t v, exec .calAutoSave s = .next t ∧ t.cal.save = some v ∧ v.slots = s.saveSlots ∧ v.rec_.entries = s.calEntries ∧ t.bit Reg.CAL_STATUS 8 = true ∧
        t.cal.lastSave = s.now ∧ t.cal.slots.get none s.saveSlots.1 = none ∧ t.cal.slots.get none s.saveSlots.2 = none ∧
        (∀ a, a ≠ Reg.CAL_STATUS → t.rd a = s.rd a)) ∧
    (∀ g0 g1, s.cal.save = none → exec (.calSaveDone g0 g1) s = .next s) ∧
    (∀ g0 g1, s.flashIdle = false → exec (.calSaveDone g0 g1) s = .next s) ∧
    (∀ g0 g1 v, s.cal.save = some v → s.flashIdle = true → ∃ t, exec (.calSaveDone g0 g1) s = .next t ∧ t.cal.save = none ∧ t.bit Reg.CAL_STATUS 8 = false)

/-- R454 to R463: the recorder: a post waits, last, unless 32 wait, when it is dropped and counted; the writer takes them in order; the end of a flush that has begun to program, or of its budget,
frees the engine, and what a cut left is owed to a follow-up in another slot (R460); an erase makes its slot blank; the high part of the time is recorded when it changes, behind
what a drop owes (R454). In RESET nothing is recorded. -/
def Obligations.RecorderRuns : Prop :=
  ∀ s : State,
    (s.dev = .reset → (∀ code arg, exec (.recorderPost code arg) s = .next s) ∧ exec .recorderWrite s = .next s ∧ exec .timeHighChange s = .next s) ∧
    (∀ code arg, s.dev ≠ .reset → s.recorder.queue.length < 32 → exec (.recorderPost code arg) s =
      .next { s with recorder := { s.recorder with queue := s.recorder.queue ++ [⟨code.toNat, arg.toNat, s.timeUs⟩] } }) ∧
    (∀ code arg, s.dev ≠ .reset → 32 ≤ s.recorder.queue.length → ∃ t, exec (.recorderPost code arg) s = .next t ∧
      t.recorder = { s.recorder with dropped := s.recorder.dropped + 1 } ∧ t.r Reg.REC_DROPPED = min (s.r Reg.REC_DROPPED + 1) 0xFFFFFFFF ∧
      t.bit Reg.REC_FLAGS 0 = true ∧ (∀ a, a ≠ Reg.REC_DROPPED → a ≠ Reg.REC_FLAGS → t.rd a = s.rd a)) ∧
    (s.recorder.dropped = 0 → s.recorder.queue = [] → exec .recorderWrite s = .next s) ∧
    (∀ q l, s.dev ≠ .reset → s.recorder.dropped = 0 → s.recorder.queue = q :: l → q.code ≠ Rec.BOOT → q.code ≠ Rec.TIME_STEP →
      exec .recorderWrite s = .next (State.writeRec { s with recorder := { s.recorder with queue := l } } q.code q.arg q.timeUs)) ∧
    (∀ q l, s.dev ≠ .reset → s.recorder.dropped = 0 → s.recorder.queue = q :: l → q.code ≠ Rec.BOOT → q.code ≠ Rec.TIME_STEP → ∃ t, exec .recorderWrite s = .next t ∧
      t.recorder.queue = l ∧ t.recorder.ring.get none (s.recNext % 4096) = some ⟨s.recNext, q.timeUs, q.code, s.dev.code, s.bootTag, q.arg, true⟩ ∧
      (∀ j, j ≠ s.recNext % 4096 → t.recorder.ring.get none j = s.recorder.ring.get none j) ∧ t.r Reg.REC_NEXT_SEQ = (s.recNext + 1) % 2 ^ 32 ∧
      (∀ a, a ≠ Reg.REC_NEXT_SEQ → t.rd a = s.rd a)) ∧
    (s.dev ≠ .reset → s.recorder.dropped ≠ 0 → exec .recorderWrite s =
      .next (State.writeRec { s with recorder := { s.recorder with dropped := 0 } } Rec.LOST (min 65535 s.recorder.dropped) s.timeUs)) ∧
    (s.recorder.flush = none → exec .recorderFlushDone s = .next s ∧ ∀ pages, exec (.recorderFlushBudget pages) s = .next s) ∧
    (∀ f, s.recorder.flush = some f → f.begun = none → exec .recorderFlushDone s = .next s) ∧
    (∀ f, s.recorder.flush = some f → f.begun.isSome = true → ∃ u : State, exec .recorderFlushDone s = .next ((u.flushReport f false f.copy.length).flushPump).startErase ∧
      u.recorder.flush = none ∧ (u.recSlot f.slot).blank = false ∧ (u.recSlot f.slot).entries = placeEntries f.first f.copy ⟨[]⟩ ∧
      (u.recSlot f.slot).header = some ⟨s.flushSeq + 1, f.first, f.last, f.trigger, f.state, f.time, f.last + 1 - f.first - f.copy.length⟩ ∧ u.r Reg.REC_FLUSH_COUNT = min (s.r Reg.REC_FLUSH_COUNT + 1) 0xFFFFFFFF) ∧
    (∀ f d pages, s.recorder.flush = some f → f.budget = some d → s.now < d → exec (.recorderFlushBudget pages) s = .next s) ∧
    (∀ f d pages, s.recorder.flush = some f → f.budget = some d → d ≤ s.now → ∃ (u : State) (n : Nat), exec (.recorderFlushBudget pages) s =
        .next ((u.flushReport f true n).flushPump).startErase ∧ u.recorder.flush = none ∧ u.bit Reg.REC_FLAGS 1 = true ∧
      (f.begun = none → u.recorder.followUp = some (f.first, none) ∧ u.recorder.slots = s.recorder.slots) ∧
      (f.begun.isSome = true → u.recorder.followUp = some (f.first, if pages = 0 then none else some f.slot) ∧ (u.recSlot f.slot).header = none)) ∧
    (s.recorder.erasing = none → exec .recorderEraseDone s = .next s) ∧
    (∀ k, s.recorder.erasing = some k → ∃ t, exec .recorderEraseDone s = .next t ∧ t.recSlot k = {} ∧ t.recorder.erasing = none ∧
      (∀ f, s.recorder.flush = some f → t.recorder.flush = some (if f.slot = k then { f with begun := some s.now } else f)) ∧
      (∀ j, j ≠ k → t.recSlot j = s.recSlot j)) ∧
    (s.highNow = s.recorder.highUs → exec .timeHighChange s = .next s) ∧
    (s.dev ≠ .reset → s.highNow ≠ s.recorder.highUs →
      exec .timeHighChange s = .next (s.when (s.recorder.dropped != 0) State.writeLost).writeHigh ∧
      (s.recorder.dropped = 0 → ∃ t, exec .timeHighChange s = .next t ∧ t.recorder.highUs = s.highNow ∧ t.recorder.queue = s.recorder.queue ∧
        t.recorder.ring.get none (s.recNext % 4096) = some ⟨s.recNext, s.timeUs, Rec.TIME_HIGH, s.dev.code, s.bootTag, s.highNow, true⟩ ∧
        t.r Reg.REC_NEXT_SEQ = (s.recNext + 1) % 2 ^ 32)) ∧
    (s.time.slewing = true → s.time.slewLeft = 0 → exec .timeSlewAbsorbed s = .next { s with time := { s.time with slewing := false, slewFrac := 0 } }) ∧
    (s.time.slewing = false → exec .timeSlewAbsorbed s = .next s)
end

