-- ==== Sys2Proof/Laws/Table.lean ====
section
/-!
SUPPORT. Laws/Table.lean: a sparse table reads back what was written, a write leaves every other index alone, and a write keeps the canonical form.
-/

namespace Sys2Proof

theorem lookupL_insertL_self {α : Type} (k : Nat) (v : α) (l : List (Nat × α)) : lookupL (insertL k v l) k = some v := by
  induction l with
  | nil => simp [insertL, lookupL]
  | cons p r ih =>
    obtain ⟨a, w⟩ := p
    simp only [insertL]
    split
    · simp [lookupL]
    · split
      · simp [lookupL]
      · rename_i h1 h2
        simp [lookupL, Ne.symm h2, ih]

theorem lookupL_insertL_ne {α : Type} {k j : Nat} (h : j ≠ k) (v : α) (l : List (Nat × α)) :
    lookupL (insertL k v l) j = lookupL l j := by
  induction l with
  | nil => simp [insertL, lookupL, Ne.symm h]
  | cons p r ih =>
    obtain ⟨a, w⟩ := p
    simp only [insertL]
    split
    · simp [lookupL, Ne.symm h]
    · split
      · rename_i h2; subst h2; simp [lookupL, Ne.symm h]
      · simp [lookupL, ih]

theorem lookupL_eraseL_self {α : Type} (k : Nat) (l : List (Nat × α)) : lookupL (eraseL k l) k = none := by
  induction l with
  | nil => rfl
  | cons p r ih =>
    obtain ⟨a, w⟩ := p
    simp only [eraseL]
    split
    · exact ih
    · rename_i h; simp [lookupL, h, ih]

theorem lookupL_eraseL_ne {α : Type} {k j : Nat} (h : j ≠ k) (l : List (Nat × α)) : lookupL (eraseL k l) j = lookupL l j := by
  induction l with
  | nil => rfl
  | cons p r ih =>
    obtain ⟨a, w⟩ := p
    simp only [eraseL]
    split
    · rename_i h2; subst h2; simp [lookupL, Ne.symm h, ih]
    · simp [lookupL, ih]

/-- A table reads back what was written. -/
@[simp] theorem get_set_self {α : Type} [DecidableEq α] (d : α) (t : Tbl α) (k : Nat) (v : α) : (t.set d k v).get d k = v := by
  unfold Tbl.set Tbl.get
  split
  · rename_i h; simp [lookupL_eraseL_self, h]
  · simp [lookupL_insertL_self]

/-- A write leaves every other index alone. -/
theorem get_set_ne {α : Type} [DecidableEq α] (d e : α) (t : Tbl α) {k j : Nat} (h : j ≠ k) (v : α) :
    (t.set d k v).get e j = t.get e j := by
  unfold Tbl.set Tbl.get
  split
  · simp [lookupL_eraseL_ne h]
  · simp [lookupL_insertL_ne h]

/-- Canonical form, stated by its head: no pair holds a default and indices rise. -/
theorem wfL_iff {α : Type} [DecidableEq α] (d : Nat → α) (l : List (Nat × α)) :
    wfL d l = true ↔ (∀ p ∈ l, p.2 ≠ d p.1) ∧ l.Pairwise (fun p q => p.1 < q.1) := by
  induction l with
  | nil => simp [wfL]
  | cons p r ih =>
    obtain ⟨a, v⟩ := p
    cases r with
    | nil => simp [wfL]
    | cons q r =>
      obtain ⟨b, w⟩ := q
      rw [wfL, Bool.and_eq_true, Bool.and_eq_true, ih]
      simp only [decide_eq_true_eq, List.mem_cons, forall_eq_or_imp, List.pairwise_cons]
      constructor
      · rintro ⟨⟨h1, h2⟩, ⟨h3, h4⟩, h5, h6⟩
        exact ⟨⟨h1, h3, h4⟩, ⟨h2, fun x hx => Nat.lt_trans h2 (h5 x hx)⟩, h5, h6⟩
      · rintro ⟨⟨h1, h3, h4⟩, ⟨h2, _⟩, h5, h6⟩
        exact ⟨⟨h1, h2⟩, ⟨h3, h4⟩, h5, h6⟩

theorem mem_insertL {α : Type} {k : Nat} {v : α} {l : List (Nat × α)} {p : Nat × α} (h : p ∈ insertL k v l) : p = (k, v) ∨ p ∈ l := by
  induction l with
  | nil => simpa [insertL] using h
  | cons q r ih =>
    obtain ⟨a, w⟩ := q
    simp only [insertL] at h
    split at h
    · simpa using h
    · split at h
      · simp at h ⊢; tauto
      · simp at h ⊢
        rcases h with h | h
        · tauto
        · rcases ih h with h | h <;> tauto

theorem mem_eraseL {α : Type} {k : Nat} {l : List (Nat × α)} {p : Nat × α} (h : p ∈ eraseL k l) : p ∈ l := by
  induction l with
  | nil => exact h
  | cons q r ih =>
    obtain ⟨a, w⟩ := q
    simp only [eraseL] at h
    split at h
    · exact List.mem_cons_of_mem _ (ih h)
    · simp at h ⊢
      rcases h with h | h
      · tauto
      · exact .inr (ih h)

theorem rising_insertL {α : Type} {k : Nat} {v : α} {l : List (Nat × α)} (h : l.Pairwise fun p q => p.1 < q.1) :
    (insertL k v l).Pairwise fun p q => p.1 < q.1 := by
  induction l with
  | nil => simp [insertL]
  | cons q r ih =>
    obtain ⟨a, w⟩ := q
    rw [List.pairwise_cons] at h
    simp only [insertL]
    split
    · rename_i hk
      refine List.pairwise_cons.2 ⟨fun p hp => ?_, List.pairwise_cons.2 h⟩
      rcases List.mem_cons.1 hp with rfl | hp
      · exact hk
      · exact Nat.lt_trans hk (h.1 p hp)
    · split
      · rename_i hk; subst hk; exact List.pairwise_cons.2 h
      · rename_i h1 h2
        refine List.pairwise_cons.2 ⟨fun p hp => ?_, ih h.2⟩
        rcases mem_insertL hp with rfl | hp
        · show a < k; omega
        · exact h.1 p hp

theorem rising_eraseL {α : Type} {k : Nat} {l : List (Nat × α)} (h : l.Pairwise fun p q => p.1 < q.1) :
    (eraseL k l).Pairwise fun p q => p.1 < q.1 := by
  induction l with
  | nil => exact h
  | cons q r ih =>
    obtain ⟨a, w⟩ := q
    rw [List.pairwise_cons] at h
    simp only [eraseL]
    split
    · exact ih h.2
    · exact List.pairwise_cons.2 ⟨fun p hp => h.1 p (mem_eraseL hp), ih h.2⟩

/-- A write keeps a table canonical. -/
theorem wf_set {α : Type} [DecidableEq α] (d : Nat → α) (t : Tbl α) (k : Nat) (v : α) (h : t.wf d = true) :
    (t.set (d k) k v).wf d = true := by
  rw [Tbl.wf, wfL_iff] at h
  unfold Tbl.set
  split
  · rw [Tbl.wf, wfL_iff]
    exact ⟨fun p hp => h.1 p (mem_eraseL hp), rising_eraseL h.2⟩
  · rename_i hv
    rw [Tbl.wf, wfL_iff]
    refine ⟨fun p hp => ?_, rising_insertL h.2⟩
    rcases mem_insertL hp with rfl | hp
    · exact hv
    · exact h.1 p hp

end Sys2Proof
end

