-- ==== Sys2Proof/Laws/State.lean ====
section
/-!
SUPPORT. Laws/State.lean: one lemma per field per update, true by `rfl`; what a register, a port and a byte field read after a write.
-/

namespace Sys2Proof.Machine

open Sys2Proof

@[simp] theorem State.wr_variant (s : State) (a : Nat) (v : Word) : (s.wr a v).variant = s.variant := rfl
@[simp] theorem State.wr_pending (s : State) (a : Nat) (v : Word) : (s.wr a v).pending = s.pending := rfl
@[simp] theorem State.wr_now (s : State) (a : Nat) (v : Word) : (s.wr a v).now = s.now := rfl
@[simp] theorem State.wr_freeCtr (s : State) (a : Nat) (v : Word) : (s.wr a v).freeCtr = s.freeCtr := rfl
@[simp] theorem State.wr_regs (s : State) (a : Nat) (v : Word) : (s.wr a v).regs = s.regs.set (regReset s.variant a) a v := rfl
@[simp] theorem State.wr_held (s : State) (a : Nat) (v : Word) : (s.wr a v).held = s.held := rfl
@[simp] theorem State.wr_flagNow (s : State) (a : Nat) (v : Word) : (s.wr a v).flagNow = s.flagNow := rfl
@[simp] theorem State.wr_sys (s : State) (a : Nat) (v : Word) : (s.wr a v).sys = s.sys := rfl
@[simp] theorem State.wr_ports (s : State) (a : Nat) (v : Word) : (s.wr a v).ports = s.ports := rfl
@[simp] theorem State.wr_recorder (s : State) (a : Nat) (v : Word) : (s.wr a v).recorder = s.recorder := rfl
@[simp] theorem State.wr_time (s : State) (a : Nat) (v : Word) : (s.wr a v).time = s.time := rfl
@[simp] theorem State.wr_plan (s : State) (a : Nat) (v : Word) : (s.wr a v).plan = s.plan := rfl
@[simp] theorem State.wr_arb (s : State) (a : Nat) (v : Word) : (s.wr a v).arb = s.arb := rfl
@[simp] theorem State.wr_emit (s : State) (a : Nat) (v : Word) : (s.wr a v).emit = s.emit := rfl
@[simp] theorem State.wr_rej (s : State) (a : Nat) (v : Word) : (s.wr a v).rej = s.rej := rfl
@[simp] theorem State.wr_wag (s : State) (a : Nat) (v : Word) : (s.wr a v).wag = s.wag := rfl
@[simp] theorem State.wr_rx (s : State) (a : Nat) (v : Word) : (s.wr a v).rx = s.rx := rfl
@[simp] theorem State.wr_tdc (s : State) (a : Nat) (v : Word) : (s.wr a v).tdc = s.tdc := rfl
@[simp] theorem State.wr_combs (s : State) (a : Nat) (v : Word) : (s.wr a v).combs = s.combs := rfl
@[simp] theorem State.wr_det (s : State) (a : Nat) (v : Word) : (s.wr a v).det = s.det := rfl
@[simp] theorem State.wr_sync (s : State) (a : Nat) (v : Word) : (s.wr a v).sync = s.sync := rfl
@[simp] theorem State.wr_cap (s : State) (a : Nat) (v : Word) : (s.wr a v).cap = s.cap := rfl
@[simp] theorem State.wr_aux (s : State) (a : Nat) (v : Word) : (s.wr a v).aux = s.aux := rfl
@[simp] theorem State.wr_cal (s : State) (a : Nat) (v : Word) : (s.wr a v).cal = s.cal := rfl
@[simp] theorem State.wr_boot (s : State) (a : Nat) (v : Word) : (s.wr a v).boot = s.boot := rfl
@[simp] theorem State.wr_power (s : State) (a : Nat) (v : Word) : (s.wr a v).power = s.power := rfl
@[simp] theorem State.wr_tap (s : State) (a : Nat) (v : Word) : (s.wr a v).tap = s.tap := rfl
@[simp] theorem State.wr_lanes (s : State) (a : Nat) (v : Word) : (s.wr a v).lanes = s.lanes := rfl
@[simp] theorem State.wr_streams (s : State) (a : Nat) (v : Word) : (s.wr a v).streams = s.streams := rfl
@[simp] theorem State.wr_red (s : State) (a : Nat) (v : Word) : (s.wr a v).red = s.red := rfl
@[simp] theorem State.setR_variant (s : State) (a v : Nat) : (s.setR a v).variant = s.variant := rfl
@[simp] theorem State.setR_pending (s : State) (a v : Nat) : (s.setR a v).pending = s.pending := rfl
@[simp] theorem State.setR_now (s : State) (a v : Nat) : (s.setR a v).now = s.now := rfl
@[simp] theorem State.setR_freeCtr (s : State) (a v : Nat) : (s.setR a v).freeCtr = s.freeCtr := rfl
@[simp] theorem State.setR_held (s : State) (a v : Nat) : (s.setR a v).held = s.held := rfl
@[simp] theorem State.setR_flagNow (s : State) (a v : Nat) : (s.setR a v).flagNow = s.flagNow := rfl
@[simp] theorem State.setR_sys (s : State) (a v : Nat) : (s.setR a v).sys = s.sys := rfl
@[simp] theorem State.setR_ports (s : State) (a v : Nat) : (s.setR a v).ports = s.ports := rfl
@[simp] theorem State.setR_recorder (s : State) (a v : Nat) : (s.setR a v).recorder = s.recorder := rfl
@[simp] theorem State.setR_time (s : State) (a v : Nat) : (s.setR a v).time = s.time := rfl
@[simp] theorem State.setR_plan (s : State) (a v : Nat) : (s.setR a v).plan = s.plan := rfl
@[simp] theorem State.setR_arb (s : State) (a v : Nat) : (s.setR a v).arb = s.arb := rfl
@[simp] theorem State.setR_emit (s : State) (a v : Nat) : (s.setR a v).emit = s.emit := rfl
@[simp] theorem State.setR_rej (s : State) (a v : Nat) : (s.setR a v).rej = s.rej := rfl
@[simp] theorem State.setR_wag (s : State) (a v : Nat) : (s.setR a v).wag = s.wag := rfl
@[simp] theorem State.setR_rx (s : State) (a v : Nat) : (s.setR a v).rx = s.rx := rfl
@[simp] theorem State.setR_tdc (s : State) (a v : Nat) : (s.setR a v).tdc = s.tdc := rfl
@[simp] theorem State.setR_combs (s : State) (a v : Nat) : (s.setR a v).combs = s.combs := rfl
@[simp] theorem State.setR_det (s : State) (a v : Nat) : (s.setR a v).det = s.det := rfl
@[simp] theorem State.setR_sync (s : State) (a v : Nat) : (s.setR a v).sync = s.sync := rfl
@[simp] theorem State.setR_cap (s : State) (a v : Nat) : (s.setR a v).cap = s.cap := rfl
@[simp] theorem State.setR_aux (s : State) (a v : Nat) : (s.setR a v).aux = s.aux := rfl
@[simp] theorem State.setR_cal (s : State) (a v : Nat) : (s.setR a v).cal = s.cal := rfl
@[simp] theorem State.setR_boot (s : State) (a v : Nat) : (s.setR a v).boot = s.boot := rfl
@[simp] theorem State.setR_power (s : State) (a v : Nat) : (s.setR a v).power = s.power := rfl
@[simp] theorem State.setR_tap (s : State) (a v : Nat) : (s.setR a v).tap = s.tap := rfl
@[simp] theorem State.setR_lanes (s : State) (a v : Nat) : (s.setR a v).lanes = s.lanes := rfl
@[simp] theorem State.setR_streams (s : State) (a v : Nat) : (s.setR a v).streams = s.streams := rfl
@[simp] theorem State.setR_red (s : State) (a v : Nat) : (s.setR a v).red = s.red := rfl
@[simp] theorem State.setF_variant (s : State) (a hi lo v : Nat) : (s.setF a hi lo v).variant = s.variant := rfl
@[simp] theorem State.setF_pending (s : State) (a hi lo v : Nat) : (s.setF a hi lo v).pending = s.pending := rfl
@[simp] theorem State.setF_now (s : State) (a hi lo v : Nat) : (s.setF a hi lo v).now = s.now := rfl
@[simp] theorem State.setF_freeCtr (s : State) (a hi lo v : Nat) : (s.setF a hi lo v).freeCtr = s.freeCtr := rfl
@[simp] theorem State.setF_held (s : State) (a hi lo v : Nat) : (s.setF a hi lo v).held = s.held := rfl
@[simp] theorem State.setF_flagNow (s : State) (a hi lo v : Nat) : (s.setF a hi lo v).flagNow = s.flagNow := rfl
@[simp] theorem State.setF_sys (s : State) (a hi lo v : Nat) : (s.setF a hi lo v).sys = s.sys := rfl
@[simp] theorem State.setF_ports (s : State) (a hi lo v : Nat) : (s.setF a hi lo v).ports = s.ports := rfl
@[simp] theorem State.setF_recorder (s : State) (a hi lo v : Nat) : (s.setF a hi lo v).recorder = s.recorder := rfl
@[simp] theorem State.setF_time (s : State) (a hi lo v : Nat) : (s.setF a hi lo v).time = s.time := rfl
@[simp] theorem State.setF_plan (s : State) (a hi lo v : Nat) : (s.setF a hi lo v).plan = s.plan := rfl
@[simp] theorem State.setF_arb (s : State) (a hi lo v : Nat) : (s.setF a hi lo v).arb = s.arb := rfl
@[simp] theorem State.setF_emit (s : State) (a hi lo v : Nat) : (s.setF a hi lo v).emit = s.emit := rfl
@[simp] theorem State.setF_rej (s : State) (a hi lo v : Nat) : (s.setF a hi lo v).rej = s.rej := rfl
@[simp] theorem State.setF_wag (s : State) (a hi lo v : Nat) : (s.setF a hi lo v).wag = s.wag := rfl
@[simp] theorem State.setF_rx (s : State) (a hi lo v : Nat) : (s.setF a hi lo v).rx = s.rx := rfl
@[simp] theorem State.setF_tdc (s : State) (a hi lo v : Nat) : (s.setF a hi lo v).tdc = s.tdc := rfl
@[simp] theorem State.setF_combs (s : State) (a hi lo v : Nat) : (s.setF a hi lo v).combs = s.combs := rfl
@[simp] theorem State.setF_det (s : State) (a hi lo v : Nat) : (s.setF a hi lo v).det = s.det := rfl
@[simp] theorem State.setF_sync (s : State) (a hi lo v : Nat) : (s.setF a hi lo v).sync = s.sync := rfl
@[simp] theorem State.setF_cap (s : State) (a hi lo v : Nat) : (s.setF a hi lo v).cap = s.cap := rfl
@[simp] theorem State.setF_aux (s : State) (a hi lo v : Nat) : (s.setF a hi lo v).aux = s.aux := rfl
@[simp] theorem State.setF_cal (s : State) (a hi lo v : Nat) : (s.setF a hi lo v).cal = s.cal := rfl
@[simp] theorem State.setF_boot (s : State) (a hi lo v : Nat) : (s.setF a hi lo v).boot = s.boot := rfl
@[simp] theorem State.setF_power (s : State) (a hi lo v : Nat) : (s.setF a hi lo v).power = s.power := rfl
@[simp] theorem State.setF_tap (s : State) (a hi lo v : Nat) : (s.setF a hi lo v).tap = s.tap := rfl
@[simp] theorem State.setF_lanes (s : State) (a hi lo v : Nat) : (s.setF a hi lo v).lanes = s.lanes := rfl
@[simp] theorem State.setF_streams (s : State) (a hi lo v : Nat) : (s.setF a hi lo v).streams = s.streams := rfl
@[simp] theorem State.setF_red (s : State) (a hi lo v : Nat) : (s.setF a hi lo v).red = s.red := rfl
@[simp] theorem State.setBit_variant (s : State) (a i : Nat) (v : Bool) : (s.setBit a i v).variant = s.variant := rfl
@[simp] theorem State.setBit_pending (s : State) (a i : Nat) (v : Bool) : (s.setBit a i v).pending = s.pending := rfl
@[simp] theorem State.setBit_now (s : State) (a i : Nat) (v : Bool) : (s.setBit a i v).now = s.now := rfl
@[simp] theorem State.setBit_freeCtr (s : State) (a i : Nat) (v : Bool) : (s.setBit a i v).freeCtr = s.freeCtr := rfl
@[simp] theorem State.setBit_held (s : State) (a i : Nat) (v : Bool) : (s.setBit a i v).held = s.held := rfl
@[simp] theorem State.setBit_flagNow (s : State) (a i : Nat) (v : Bool) : (s.setBit a i v).flagNow = s.flagNow := rfl
@[simp] theorem State.setBit_sys (s : State) (a i : Nat) (v : Bool) : (s.setBit a i v).sys = s.sys := rfl
@[simp] theorem State.setBit_ports (s : State) (a i : Nat) (v : Bool) : (s.setBit a i v).ports = s.ports := rfl
@[simp] theorem State.setBit_recorder (s : State) (a i : Nat) (v : Bool) : (s.setBit a i v).recorder = s.recorder := rfl
@[simp] theorem State.setBit_time (s : State) (a i : Nat) (v : Bool) : (s.setBit a i v).time = s.time := rfl
@[simp] theorem State.setBit_plan (s : State) (a i : Nat) (v : Bool) : (s.setBit a i v).plan = s.plan := rfl
@[simp] theorem State.setBit_arb (s : State) (a i : Nat) (v : Bool) : (s.setBit a i v).arb = s.arb := rfl
@[simp] theorem State.setBit_emit (s : State) (a i : Nat) (v : Bool) : (s.setBit a i v).emit = s.emit := rfl
@[simp] theorem State.setBit_rej (s : State) (a i : Nat) (v : Bool) : (s.setBit a i v).rej = s.rej := rfl
@[simp] theorem State.setBit_wag (s : State) (a i : Nat) (v : Bool) : (s.setBit a i v).wag = s.wag := rfl
@[simp] theorem State.setBit_rx (s : State) (a i : Nat) (v : Bool) : (s.setBit a i v).rx = s.rx := rfl
@[simp] theorem State.setBit_tdc (s : State) (a i : Nat) (v : Bool) : (s.setBit a i v).tdc = s.tdc := rfl
@[simp] theorem State.setBit_combs (s : State) (a i : Nat) (v : Bool) : (s.setBit a i v).combs = s.combs := rfl
@[simp] theorem State.setBit_det (s : State) (a i : Nat) (v : Bool) : (s.setBit a i v).det = s.det := rfl
@[simp] theorem State.setBit_sync (s : State) (a i : Nat) (v : Bool) : (s.setBit a i v).sync = s.sync := rfl
@[simp] theorem State.setBit_cap (s : State) (a i : Nat) (v : Bool) : (s.setBit a i v).cap = s.cap := rfl
@[simp] theorem State.setBit_aux (s : State) (a i : Nat) (v : Bool) : (s.setBit a i v).aux = s.aux := rfl
@[simp] theorem State.setBit_cal (s : State) (a i : Nat) (v : Bool) : (s.setBit a i v).cal = s.cal := rfl
@[simp] theorem State.setBit_boot (s : State) (a i : Nat) (v : Bool) : (s.setBit a i v).boot = s.boot := rfl
@[simp] theorem State.setBit_power (s : State) (a i : Nat) (v : Bool) : (s.setBit a i v).power = s.power := rfl
@[simp] theorem State.setBit_tap (s : State) (a i : Nat) (v : Bool) : (s.setBit a i v).tap = s.tap := rfl
@[simp] theorem State.setBit_lanes (s : State) (a i : Nat) (v : Bool) : (s.setBit a i v).lanes = s.lanes := rfl
@[simp] theorem State.setBit_streams (s : State) (a i : Nat) (v : Bool) : (s.setBit a i v).streams = s.streams := rfl
@[simp] theorem State.setBit_red (s : State) (a i : Nat) (v : Bool) : (s.setBit a i v).red = s.red := rfl
@[simp] theorem State.flag_variant (s : State) (a i : Nat) : (s.flag a i).variant = s.variant := rfl
@[simp] theorem State.flag_pending (s : State) (a i : Nat) : (s.flag a i).pending = s.pending := rfl
@[simp] theorem State.flag_now (s : State) (a i : Nat) : (s.flag a i).now = s.now := rfl
@[simp] theorem State.flag_freeCtr (s : State) (a i : Nat) : (s.flag a i).freeCtr = s.freeCtr := rfl
@[simp] theorem State.flag_held (s : State) (a i : Nat) : (s.flag a i).held = s.held := rfl
@[simp] theorem State.flag_sys (s : State) (a i : Nat) : (s.flag a i).sys = s.sys := rfl
@[simp] theorem State.flag_ports (s : State) (a i : Nat) : (s.flag a i).ports = s.ports := rfl
@[simp] theorem State.flag_recorder (s : State) (a i : Nat) : (s.flag a i).recorder = s.recorder := rfl
@[simp] theorem State.flag_time (s : State) (a i : Nat) : (s.flag a i).time = s.time := rfl
@[simp] theorem State.flag_plan (s : State) (a i : Nat) : (s.flag a i).plan = s.plan := rfl
@[simp] theorem State.flag_arb (s : State) (a i : Nat) : (s.flag a i).arb = s.arb := rfl
@[simp] theorem State.flag_emit (s : State) (a i : Nat) : (s.flag a i).emit = s.emit := rfl
@[simp] theorem State.flag_rej (s : State) (a i : Nat) : (s.flag a i).rej = s.rej := rfl
@[simp] theorem State.flag_wag (s : State) (a i : Nat) : (s.flag a i).wag = s.wag := rfl
@[simp] theorem State.flag_rx (s : State) (a i : Nat) : (s.flag a i).rx = s.rx := rfl
@[simp] theorem State.flag_tdc (s : State) (a i : Nat) : (s.flag a i).tdc = s.tdc := rfl
@[simp] theorem State.flag_combs (s : State) (a i : Nat) : (s.flag a i).combs = s.combs := rfl
@[simp] theorem State.flag_det (s : State) (a i : Nat) : (s.flag a i).det = s.det := rfl
@[simp] theorem State.flag_sync (s : State) (a i : Nat) : (s.flag a i).sync = s.sync := rfl
@[simp] theorem State.flag_cap (s : State) (a i : Nat) : (s.flag a i).cap = s.cap := rfl
@[simp] theorem State.flag_aux (s : State) (a i : Nat) : (s.flag a i).aux = s.aux := rfl
@[simp] theorem State.flag_cal (s : State) (a i : Nat) : (s.flag a i).cal = s.cal := rfl
@[simp] theorem State.flag_boot (s : State) (a i : Nat) : (s.flag a i).boot = s.boot := rfl
@[simp] theorem State.flag_power (s : State) (a i : Nat) : (s.flag a i).power = s.power := rfl
@[simp] theorem State.flag_tap (s : State) (a i : Nat) : (s.flag a i).tap = s.tap := rfl
@[simp] theorem State.flag_lanes (s : State) (a i : Nat) : (s.flag a i).lanes = s.lanes := rfl
@[simp] theorem State.flag_streams (s : State) (a i : Nat) : (s.flag a i).streams = s.streams := rfl
@[simp] theorem State.flag_red (s : State) (a i : Nat) : (s.flag a i).red = s.red := rfl
@[simp] theorem State.flag_regs (s : State) (a i : Nat) : (s.flag a i).regs = (s.setBit a i true).regs := rfl
@[simp] theorem State.flag_flagNow (s : State) (a i : Nat) : (s.flag a i).flagNow = (a, i) :: s.flagNow.filter (· != (a, i)) := rfl
@[simp] theorem State.addF_variant (s : State) (a hi lo n : Nat) : (s.addF a hi lo n).variant = s.variant := rfl
@[simp] theorem State.addF_pending (s : State) (a hi lo n : Nat) : (s.addF a hi lo n).pending = s.pending := rfl
@[simp] theorem State.addF_now (s : State) (a hi lo n : Nat) : (s.addF a hi lo n).now = s.now := rfl
@[simp] theorem State.addF_freeCtr (s : State) (a hi lo n : Nat) : (s.addF a hi lo n).freeCtr = s.freeCtr := rfl
@[simp] theorem State.addF_held (s : State) (a hi lo n : Nat) : (s.addF a hi lo n).held = s.held := rfl
@[simp] theorem State.addF_flagNow (s : State) (a hi lo n : Nat) : (s.addF a hi lo n).flagNow = s.flagNow := rfl
@[simp] theorem State.addF_sys (s : State) (a hi lo n : Nat) : (s.addF a hi lo n).sys = s.sys := rfl
@[simp] theorem State.addF_ports (s : State) (a hi lo n : Nat) : (s.addF a hi lo n).ports = s.ports := rfl
@[simp] theorem State.addF_recorder (s : State) (a hi lo n : Nat) : (s.addF a hi lo n).recorder = s.recorder := rfl
@[simp] theorem State.addF_time (s : State) (a hi lo n : Nat) : (s.addF a hi lo n).time = s.time := rfl
@[simp] theorem State.addF_plan (s : State) (a hi lo n : Nat) : (s.addF a hi lo n).plan = s.plan := rfl
@[simp] theorem State.addF_arb (s : State) (a hi lo n : Nat) : (s.addF a hi lo n).arb = s.arb := rfl
@[simp] theorem State.addF_emit (s : State) (a hi lo n : Nat) : (s.addF a hi lo n).emit = s.emit := rfl
@[simp] theorem State.addF_rej (s : State) (a hi lo n : Nat) : (s.addF a hi lo n).rej = s.rej := rfl
@[simp] theorem State.addF_wag (s : State) (a hi lo n : Nat) : (s.addF a hi lo n).wag = s.wag := rfl
@[simp] theorem State.addF_rx (s : State) (a hi lo n : Nat) : (s.addF a hi lo n).rx = s.rx := rfl
@[simp] theorem State.addF_tdc (s : State) (a hi lo n : Nat) : (s.addF a hi lo n).tdc = s.tdc := rfl
@[simp] theorem State.addF_combs (s : State) (a hi lo n : Nat) : (s.addF a hi lo n).combs = s.combs := rfl
@[simp] theorem State.addF_det (s : State) (a hi lo n : Nat) : (s.addF a hi lo n).det = s.det := rfl
@[simp] theorem State.addF_sync (s : State) (a hi lo n : Nat) : (s.addF a hi lo n).sync = s.sync := rfl
@[simp] theorem State.addF_cap (s : State) (a hi lo n : Nat) : (s.addF a hi lo n).cap = s.cap := rfl
@[simp] theorem State.addF_aux (s : State) (a hi lo n : Nat) : (s.addF a hi lo n).aux = s.aux := rfl
@[simp] theorem State.addF_cal (s : State) (a hi lo n : Nat) : (s.addF a hi lo n).cal = s.cal := rfl
@[simp] theorem State.addF_boot (s : State) (a hi lo n : Nat) : (s.addF a hi lo n).boot = s.boot := rfl
@[simp] theorem State.addF_power (s : State) (a hi lo n : Nat) : (s.addF a hi lo n).power = s.power := rfl
@[simp] theorem State.addF_tap (s : State) (a hi lo n : Nat) : (s.addF a hi lo n).tap = s.tap := rfl
@[simp] theorem State.addF_lanes (s : State) (a hi lo n : Nat) : (s.addF a hi lo n).lanes = s.lanes := rfl
@[simp] theorem State.addF_streams (s : State) (a hi lo n : Nat) : (s.addF a hi lo n).streams = s.streams := rfl
@[simp] theorem State.addF_red (s : State) (a hi lo n : Nat) : (s.addF a hi lo n).red = s.red := rfl
@[simp] theorem State.inc_variant (s : State) (a : Nat) : (s.inc a).variant = s.variant := rfl
@[simp] theorem State.inc_pending (s : State) (a : Nat) : (s.inc a).pending = s.pending := rfl
@[simp] theorem State.inc_now (s : State) (a : Nat) : (s.inc a).now = s.now := rfl
@[simp] theorem State.inc_freeCtr (s : State) (a : Nat) : (s.inc a).freeCtr = s.freeCtr := rfl
@[simp] theorem State.inc_held (s : State) (a : Nat) : (s.inc a).held = s.held := rfl
@[simp] theorem State.inc_flagNow (s : State) (a : Nat) : (s.inc a).flagNow = s.flagNow := rfl
@[simp] theorem State.inc_sys (s : State) (a : Nat) : (s.inc a).sys = s.sys := rfl
@[simp] theorem State.inc_ports (s : State) (a : Nat) : (s.inc a).ports = s.ports := rfl
@[simp] theorem State.inc_recorder (s : State) (a : Nat) : (s.inc a).recorder = s.recorder := rfl
@[simp] theorem State.inc_time (s : State) (a : Nat) : (s.inc a).time = s.time := rfl
@[simp] theorem State.inc_plan (s : State) (a : Nat) : (s.inc a).plan = s.plan := rfl
@[simp] theorem State.inc_arb (s : State) (a : Nat) : (s.inc a).arb = s.arb := rfl
@[simp] theorem State.inc_emit (s : State) (a : Nat) : (s.inc a).emit = s.emit := rfl
@[simp] theorem State.inc_rej (s : State) (a : Nat) : (s.inc a).rej = s.rej := rfl
@[simp] theorem State.inc_wag (s : State) (a : Nat) : (s.inc a).wag = s.wag := rfl
@[simp] theorem State.inc_rx (s : State) (a : Nat) : (s.inc a).rx = s.rx := rfl
@[simp] theorem State.inc_tdc (s : State) (a : Nat) : (s.inc a).tdc = s.tdc := rfl
@[simp] theorem State.inc_combs (s : State) (a : Nat) : (s.inc a).combs = s.combs := rfl
@[simp] theorem State.inc_det (s : State) (a : Nat) : (s.inc a).det = s.det := rfl
@[simp] theorem State.inc_sync (s : State) (a : Nat) : (s.inc a).sync = s.sync := rfl
@[simp] theorem State.inc_cap (s : State) (a : Nat) : (s.inc a).cap = s.cap := rfl
@[simp] theorem State.inc_aux (s : State) (a : Nat) : (s.inc a).aux = s.aux := rfl
@[simp] theorem State.inc_cal (s : State) (a : Nat) : (s.inc a).cal = s.cal := rfl
@[simp] theorem State.inc_boot (s : State) (a : Nat) : (s.inc a).boot = s.boot := rfl
@[simp] theorem State.inc_power (s : State) (a : Nat) : (s.inc a).power = s.power := rfl
@[simp] theorem State.inc_tap (s : State) (a : Nat) : (s.inc a).tap = s.tap := rfl
@[simp] theorem State.inc_lanes (s : State) (a : Nat) : (s.inc a).lanes = s.lanes := rfl
@[simp] theorem State.inc_streams (s : State) (a : Nat) : (s.inc a).streams = s.streams := rfl
@[simp] theorem State.inc_red (s : State) (a : Nat) : (s.inc a).red = s.red := rfl
@[simp] theorem State.setPort_variant (s : State) (p : Nat) (q : PortSt) : (s.setPort p q).variant = s.variant := rfl
@[simp] theorem State.setPort_pending (s : State) (p : Nat) (q : PortSt) : (s.setPort p q).pending = s.pending := rfl
@[simp] theorem State.setPort_now (s : State) (p : Nat) (q : PortSt) : (s.setPort p q).now = s.now := rfl
@[simp] theorem State.setPort_freeCtr (s : State) (p : Nat) (q : PortSt) : (s.setPort p q).freeCtr = s.freeCtr := rfl
@[simp] theorem State.setPort_regs (s : State) (p : Nat) (q : PortSt) : (s.setPort p q).regs = s.regs := rfl
@[simp] theorem State.setPort_held (s : State) (p : Nat) (q : PortSt) : (s.setPort p q).held = s.held := rfl
@[simp] theorem State.setPort_flagNow (s : State) (p : Nat) (q : PortSt) : (s.setPort p q).flagNow = s.flagNow := rfl
@[simp] theorem State.setPort_sys (s : State) (p : Nat) (q : PortSt) : (s.setPort p q).sys = s.sys := rfl
@[simp] theorem State.setPort_ports (s : State) (p : Nat) (q : PortSt) : (s.setPort p q).ports = s.ports.set {} p q := rfl
@[simp] theorem State.setPort_recorder (s : State) (p : Nat) (q : PortSt) : (s.setPort p q).recorder = s.recorder := rfl
@[simp] theorem State.setPort_time (s : State) (p : Nat) (q : PortSt) : (s.setPort p q).time = s.time := rfl
@[simp] theorem State.setPort_plan (s : State) (p : Nat) (q : PortSt) : (s.setPort p q).plan = s.plan := rfl
@[simp] theorem State.setPort_arb (s : State) (p : Nat) (q : PortSt) : (s.setPort p q).arb = s.arb := rfl
@[simp] theorem State.setPort_emit (s : State) (p : Nat) (q : PortSt) : (s.setPort p q).emit = s.emit := rfl
@[simp] theorem State.setPort_rej (s : State) (p : Nat) (q : PortSt) : (s.setPort p q).rej = s.rej := rfl
@[simp] theorem State.setPort_wag (s : State) (p : Nat) (q : PortSt) : (s.setPort p q).wag = s.wag := rfl
@[simp] theorem State.setPort_rx (s : State) (p : Nat) (q : PortSt) : (s.setPort p q).rx = s.rx := rfl
@[simp] theorem State.setPort_tdc (s : State) (p : Nat) (q : PortSt) : (s.setPort p q).tdc = s.tdc := rfl
@[simp] theorem State.setPort_combs (s : State) (p : Nat) (q : PortSt) : (s.setPort p q).combs = s.combs := rfl
@[simp] theorem State.setPort_det (s : State) (p : Nat) (q : PortSt) : (s.setPort p q).det = s.det := rfl
@[simp] theorem State.setPort_sync (s : State) (p : Nat) (q : PortSt) : (s.setPort p q).sync = s.sync := rfl
@[simp] theorem State.setPort_cap (s : State) (p : Nat) (q : PortSt) : (s.setPort p q).cap = s.cap := rfl
@[simp] theorem State.setPort_aux (s : State) (p : Nat) (q : PortSt) : (s.setPort p q).aux = s.aux := rfl
@[simp] theorem State.setPort_cal (s : State) (p : Nat) (q : PortSt) : (s.setPort p q).cal = s.cal := rfl
@[simp] theorem State.setPort_boot (s : State) (p : Nat) (q : PortSt) : (s.setPort p q).boot = s.boot := rfl
@[simp] theorem State.setPort_power (s : State) (p : Nat) (q : PortSt) : (s.setPort p q).power = s.power := rfl
@[simp] theorem State.setPort_tap (s : State) (p : Nat) (q : PortSt) : (s.setPort p q).tap = s.tap := rfl
@[simp] theorem State.setPort_lanes (s : State) (p : Nat) (q : PortSt) : (s.setPort p q).lanes = s.lanes := rfl
@[simp] theorem State.setPort_streams (s : State) (p : Nat) (q : PortSt) : (s.setPort p q).streams = s.streams := rfl
@[simp] theorem State.setPort_red (s : State) (p : Nat) (q : PortSt) : (s.setPort p q).red = s.red := rfl
@[simp] theorem State.setCap_variant (s : State) (c : Cap) : (s.setCap c).variant = s.variant := rfl
@[simp] theorem State.setCap_pending (s : State) (c : Cap) : (s.setCap c).pending = s.pending := rfl
@[simp] theorem State.setCap_now (s : State) (c : Cap) : (s.setCap c).now = s.now := rfl
@[simp] theorem State.setCap_freeCtr (s : State) (c : Cap) : (s.setCap c).freeCtr = s.freeCtr := rfl
@[simp] theorem State.setCap_regs (s : State) (c : Cap) : (s.setCap c).regs = s.regs := rfl
@[simp] theorem State.setCap_held (s : State) (c : Cap) : (s.setCap c).held = s.held := rfl
@[simp] theorem State.setCap_flagNow (s : State) (c : Cap) : (s.setCap c).flagNow = s.flagNow := rfl
@[simp] theorem State.setCap_sys (s : State) (c : Cap) : (s.setCap c).sys = s.sys := rfl
@[simp] theorem State.setCap_ports (s : State) (c : Cap) : (s.setCap c).ports = s.ports := rfl
@[simp] theorem State.setCap_recorder (s : State) (c : Cap) : (s.setCap c).recorder = s.recorder := rfl
@[simp] theorem State.setCap_time (s : State) (c : Cap) : (s.setCap c).time = s.time := rfl
@[simp] theorem State.setCap_plan (s : State) (c : Cap) : (s.setCap c).plan = s.plan := rfl
@[simp] theorem State.setCap_arb (s : State) (c : Cap) : (s.setCap c).arb = s.arb := rfl
@[simp] theorem State.setCap_emit (s : State) (c : Cap) : (s.setCap c).emit = s.emit := rfl
@[simp] theorem State.setCap_rej (s : State) (c : Cap) : (s.setCap c).rej = s.rej := rfl
@[simp] theorem State.setCap_wag (s : State) (c : Cap) : (s.setCap c).wag = s.wag := rfl
@[simp] theorem State.setCap_rx (s : State) (c : Cap) : (s.setCap c).rx = s.rx := rfl
@[simp] theorem State.setCap_tdc (s : State) (c : Cap) : (s.setCap c).tdc = s.tdc := rfl
@[simp] theorem State.setCap_combs (s : State) (c : Cap) : (s.setCap c).combs = s.combs := rfl
@[simp] theorem State.setCap_det (s : State) (c : Cap) : (s.setCap c).det = s.det := rfl
@[simp] theorem State.setCap_sync (s : State) (c : Cap) : (s.setCap c).sync = s.sync := rfl
@[simp] theorem State.setCap_cap (s : State) (c : Cap) : (s.setCap c).cap = c := rfl
@[simp] theorem State.setCap_aux (s : State) (c : Cap) : (s.setCap c).aux = s.aux := rfl
@[simp] theorem State.setCap_cal (s : State) (c : Cap) : (s.setCap c).cal = s.cal := rfl
@[simp] theorem State.setCap_boot (s : State) (c : Cap) : (s.setCap c).boot = s.boot := rfl
@[simp] theorem State.setCap_power (s : State) (c : Cap) : (s.setCap c).power = s.power := rfl
@[simp] theorem State.setCap_tap (s : State) (c : Cap) : (s.setCap c).tap = s.tap := rfl
@[simp] theorem State.setCap_lanes (s : State) (c : Cap) : (s.setCap c).lanes = s.lanes := rfl
@[simp] theorem State.setCap_streams (s : State) (c : Cap) : (s.setCap c).streams = s.streams := rfl
@[simp] theorem State.setCap_red (s : State) (c : Cap) : (s.setCap c).red = s.red := rfl
@[simp] theorem State.setEmit_variant (s : State) (e : Emit) : (s.setEmit e).variant = s.variant := rfl
@[simp] theorem State.setEmit_pending (s : State) (e : Emit) : (s.setEmit e).pending = s.pending := rfl
@[simp] theorem State.setEmit_now (s : State) (e : Emit) : (s.setEmit e).now = s.now := rfl
@[simp] theorem State.setEmit_freeCtr (s : State) (e : Emit) : (s.setEmit e).freeCtr = s.freeCtr := rfl
@[simp] theorem State.setEmit_regs (s : State) (e : Emit) : (s.setEmit e).regs = s.regs := rfl
@[simp] theorem State.setEmit_held (s : State) (e : Emit) : (s.setEmit e).held = s.held := rfl
@[simp] theorem State.setEmit_flagNow (s : State) (e : Emit) : (s.setEmit e).flagNow = s.flagNow := rfl
@[simp] theorem State.setEmit_sys (s : State) (e : Emit) : (s.setEmit e).sys = s.sys := rfl
@[simp] theorem State.setEmit_ports (s : State) (e : Emit) : (s.setEmit e).ports = s.ports := rfl
@[simp] theorem State.setEmit_recorder (s : State) (e : Emit) : (s.setEmit e).recorder = s.recorder := rfl
@[simp] theorem State.setEmit_time (s : State) (e : Emit) : (s.setEmit e).time = s.time := rfl
@[simp] theorem State.setEmit_plan (s : State) (e : Emit) : (s.setEmit e).plan = s.plan := rfl
@[simp] theorem State.setEmit_arb (s : State) (e : Emit) : (s.setEmit e).arb = s.arb := rfl
@[simp] theorem State.setEmit_emit (s : State) (e : Emit) : (s.setEmit e).emit = e := rfl
@[simp] theorem State.setEmit_rej (s : State) (e : Emit) : (s.setEmit e).rej = s.rej := rfl
@[simp] theorem State.setEmit_wag (s : State) (e : Emit) : (s.setEmit e).wag = s.wag := rfl
@[simp] theorem State.setEmit_rx (s : State) (e : Emit) : (s.setEmit e).rx = s.rx := rfl
@[simp] theorem State.setEmit_tdc (s : State) (e : Emit) : (s.setEmit e).tdc = s.tdc := rfl
@[simp] theorem State.setEmit_combs (s : State) (e : Emit) : (s.setEmit e).combs = s.combs := rfl
@[simp] theorem State.setEmit_det (s : State) (e : Emit) : (s.setEmit e).det = s.det := rfl
@[simp] theorem State.setEmit_sync (s : State) (e : Emit) : (s.setEmit e).sync = s.sync := rfl
@[simp] theorem State.setEmit_cap (s : State) (e : Emit) : (s.setEmit e).cap = s.cap := rfl
@[simp] theorem State.setEmit_aux (s : State) (e : Emit) : (s.setEmit e).aux = s.aux := rfl
@[simp] theorem State.setEmit_cal (s : State) (e : Emit) : (s.setEmit e).cal = s.cal := rfl
@[simp] theorem State.setEmit_boot (s : State) (e : Emit) : (s.setEmit e).boot = s.boot := rfl
@[simp] theorem State.setEmit_power (s : State) (e : Emit) : (s.setEmit e).power = s.power := rfl
@[simp] theorem State.setEmit_tap (s : State) (e : Emit) : (s.setEmit e).tap = s.tap := rfl
@[simp] theorem State.setEmit_lanes (s : State) (e : Emit) : (s.setEmit e).lanes = s.lanes := rfl
@[simp] theorem State.setEmit_streams (s : State) (e : Emit) : (s.setEmit e).streams = s.streams := rfl
@[simp] theorem State.setEmit_red (s : State) (e : Emit) : (s.setEmit e).red = s.red := rfl
@[simp] theorem State.setSync_variant (s : State) (x : Sync) : (s.setSync x).variant = s.variant := rfl
@[simp] theorem State.setSync_pending (s : State) (x : Sync) : (s.setSync x).pending = s.pending := rfl
@[simp] theorem State.setSync_now (s : State) (x : Sync) : (s.setSync x).now = s.now := rfl
@[simp] theorem State.setSync_freeCtr (s : State) (x : Sync) : (s.setSync x).freeCtr = s.freeCtr := rfl
@[simp] theorem State.setSync_regs (s : State) (x : Sync) : (s.setSync x).regs = s.regs := rfl
@[simp] theorem State.setSync_held (s : State) (x : Sync) : (s.setSync x).held = s.held := rfl
@[simp] theorem State.setSync_flagNow (s : State) (x : Sync) : (s.setSync x).flagNow = s.flagNow := rfl
@[simp] theorem State.setSync_sys (s : State) (x : Sync) : (s.setSync x).sys = s.sys := rfl
@[simp] theorem State.setSync_ports (s : State) (x : Sync) : (s.setSync x).ports = s.ports := rfl
@[simp] theorem State.setSync_recorder (s : State) (x : Sync) : (s.setSync x).recorder = s.recorder := rfl
@[simp] theorem State.setSync_time (s : State) (x : Sync) : (s.setSync x).time = s.time := rfl
@[simp] theorem State.setSync_plan (s : State) (x : Sync) : (s.setSync x).plan = s.plan := rfl
@[simp] theorem State.setSync_arb (s : State) (x : Sync) : (s.setSync x).arb = s.arb := rfl
@[simp] theorem State.setSync_emit (s : State) (x : Sync) : (s.setSync x).emit = s.emit := rfl
@[simp] theorem State.setSync_rej (s : State) (x : Sync) : (s.setSync x).rej = s.rej := rfl
@[simp] theorem State.setSync_wag (s : State) (x : Sync) : (s.setSync x).wag = s.wag := rfl
@[simp] theorem State.setSync_rx (s : State) (x : Sync) : (s.setSync x).rx = s.rx := rfl
@[simp] theorem State.setSync_tdc (s : State) (x : Sync) : (s.setSync x).tdc = s.tdc := rfl
@[simp] theorem State.setSync_combs (s : State) (x : Sync) : (s.setSync x).combs = s.combs := rfl
@[simp] theorem State.setSync_det (s : State) (x : Sync) : (s.setSync x).det = s.det := rfl
@[simp] theorem State.setSync_sync (s : State) (x : Sync) : (s.setSync x).sync = x := rfl
@[simp] theorem State.setSync_cap (s : State) (x : Sync) : (s.setSync x).cap = s.cap := rfl
@[simp] theorem State.setSync_aux (s : State) (x : Sync) : (s.setSync x).aux = s.aux := rfl
@[simp] theorem State.setSync_cal (s : State) (x : Sync) : (s.setSync x).cal = s.cal := rfl
@[simp] theorem State.setSync_boot (s : State) (x : Sync) : (s.setSync x).boot = s.boot := rfl
@[simp] theorem State.setSync_power (s : State) (x : Sync) : (s.setSync x).power = s.power := rfl
@[simp] theorem State.setSync_tap (s : State) (x : Sync) : (s.setSync x).tap = s.tap := rfl
@[simp] theorem State.setSync_lanes (s : State) (x : Sync) : (s.setSync x).lanes = s.lanes := rfl
@[simp] theorem State.setSync_streams (s : State) (x : Sync) : (s.setSync x).streams = s.streams := rfl
@[simp] theorem State.setSync_red (s : State) (x : Sync) : (s.setSync x).red = s.red := rfl
@[simp] theorem State.setDet_variant (s : State) (d : Det) : (s.setDet d).variant = s.variant := rfl
@[simp] theorem State.setDet_pending (s : State) (d : Det) : (s.setDet d).pending = s.pending := rfl
@[simp] theorem State.setDet_now (s : State) (d : Det) : (s.setDet d).now = s.now := rfl
@[simp] theorem State.setDet_freeCtr (s : State) (d : Det) : (s.setDet d).freeCtr = s.freeCtr := rfl
@[simp] theorem State.setDet_regs (s : State) (d : Det) : (s.setDet d).regs = s.regs := rfl
@[simp] theorem State.setDet_held (s : State) (d : Det) : (s.setDet d).held = s.held := rfl
@[simp] theorem State.setDet_flagNow (s : State) (d : Det) : (s.setDet d).flagNow = s.flagNow := rfl
@[simp] theorem State.setDet_sys (s : State) (d : Det) : (s.setDet d).sys = s.sys := rfl
@[simp] theorem State.setDet_ports (s : State) (d : Det) : (s.setDet d).ports = s.ports := rfl
@[simp] theorem State.setDet_recorder (s : State) (d : Det) : (s.setDet d).recorder = s.recorder := rfl
@[simp] theorem State.setDet_time (s : State) (d : Det) : (s.setDet d).time = s.time := rfl
@[simp] theorem State.setDet_plan (s : State) (d : Det) : (s.setDet d).plan = s.plan := rfl
@[simp] theorem State.setDet_arb (s : State) (d : Det) : (s.setDet d).arb = s.arb := rfl
@[simp] theorem State.setDet_emit (s : State) (d : Det) : (s.setDet d).emit = s.emit := rfl
@[simp] theorem State.setDet_rej (s : State) (d : Det) : (s.setDet d).rej = s.rej := rfl
@[simp] theorem State.setDet_wag (s : State) (d : Det) : (s.setDet d).wag = s.wag := rfl
@[simp] theorem State.setDet_rx (s : State) (d : Det) : (s.setDet d).rx = s.rx := rfl
@[simp] theorem State.setDet_tdc (s : State) (d : Det) : (s.setDet d).tdc = s.tdc := rfl
@[simp] theorem State.setDet_combs (s : State) (d : Det) : (s.setDet d).combs = s.combs := rfl
@[simp] theorem State.setDet_det (s : State) (d : Det) : (s.setDet d).det = d := rfl
@[simp] theorem State.setDet_sync (s : State) (d : Det) : (s.setDet d).sync = s.sync := rfl
@[simp] theorem State.setDet_cap (s : State) (d : Det) : (s.setDet d).cap = s.cap := rfl
@[simp] theorem State.setDet_aux (s : State) (d : Det) : (s.setDet d).aux = s.aux := rfl
@[simp] theorem State.setDet_cal (s : State) (d : Det) : (s.setDet d).cal = s.cal := rfl
@[simp] theorem State.setDet_boot (s : State) (d : Det) : (s.setDet d).boot = s.boot := rfl
@[simp] theorem State.setDet_power (s : State) (d : Det) : (s.setDet d).power = s.power := rfl
@[simp] theorem State.setDet_tap (s : State) (d : Det) : (s.setDet d).tap = s.tap := rfl
@[simp] theorem State.setDet_lanes (s : State) (d : Det) : (s.setDet d).lanes = s.lanes := rfl
@[simp] theorem State.setDet_streams (s : State) (d : Det) : (s.setDet d).streams = s.streams := rfl
@[simp] theorem State.setDet_red (s : State) (d : Det) : (s.setDet d).red = s.red := rfl
@[simp] theorem State.setWag_variant (s : State) (w : Wag) : (s.setWag w).variant = s.variant := rfl
@[simp] theorem State.setWag_pending (s : State) (w : Wag) : (s.setWag w).pending = s.pending := rfl
@[simp] theorem State.setWag_now (s : State) (w : Wag) : (s.setWag w).now = s.now := rfl
@[simp] theorem State.setWag_freeCtr (s : State) (w : Wag) : (s.setWag w).freeCtr = s.freeCtr := rfl
@[simp] theorem State.setWag_regs (s : State) (w : Wag) : (s.setWag w).regs = s.regs := rfl
@[simp] theorem State.setWag_held (s : State) (w : Wag) : (s.setWag w).held = s.held := rfl
@[simp] theorem State.setWag_flagNow (s : State) (w : Wag) : (s.setWag w).flagNow = s.flagNow := rfl
@[simp] theorem State.setWag_sys (s : State) (w : Wag) : (s.setWag w).sys = s.sys := rfl
@[simp] theorem State.setWag_ports (s : State) (w : Wag) : (s.setWag w).ports = s.ports := rfl
@[simp] theorem State.setWag_recorder (s : State) (w : Wag) : (s.setWag w).recorder = s.recorder := rfl
@[simp] theorem State.setWag_time (s : State) (w : Wag) : (s.setWag w).time = s.time := rfl
@[simp] theorem State.setWag_plan (s : State) (w : Wag) : (s.setWag w).plan = s.plan := rfl
@[simp] theorem State.setWag_arb (s : State) (w : Wag) : (s.setWag w).arb = s.arb := rfl
@[simp] theorem State.setWag_emit (s : State) (w : Wag) : (s.setWag w).emit = s.emit := rfl
@[simp] theorem State.setWag_rej (s : State) (w : Wag) : (s.setWag w).rej = s.rej := rfl
@[simp] theorem State.setWag_wag (s : State) (w : Wag) : (s.setWag w).wag = w := rfl
@[simp] theorem State.setWag_rx (s : State) (w : Wag) : (s.setWag w).rx = s.rx := rfl
@[simp] theorem State.setWag_tdc (s : State) (w : Wag) : (s.setWag w).tdc = s.tdc := rfl
@[simp] theorem State.setWag_combs (s : State) (w : Wag) : (s.setWag w).combs = s.combs := rfl
@[simp] theorem State.setWag_det (s : State) (w : Wag) : (s.setWag w).det = s.det := rfl
@[simp] theorem State.setWag_sync (s : State) (w : Wag) : (s.setWag w).sync = s.sync := rfl
@[simp] theorem State.setWag_cap (s : State) (w : Wag) : (s.setWag w).cap = s.cap := rfl
@[simp] theorem State.setWag_aux (s : State) (w : Wag) : (s.setWag w).aux = s.aux := rfl
@[simp] theorem State.setWag_cal (s : State) (w : Wag) : (s.setWag w).cal = s.cal := rfl
@[simp] theorem State.setWag_boot (s : State) (w : Wag) : (s.setWag w).boot = s.boot := rfl
@[simp] theorem State.setWag_power (s : State) (w : Wag) : (s.setWag w).power = s.power := rfl
@[simp] theorem State.setWag_tap (s : State) (w : Wag) : (s.setWag w).tap = s.tap := rfl
@[simp] theorem State.setWag_lanes (s : State) (w : Wag) : (s.setWag w).lanes = s.lanes := rfl
@[simp] theorem State.setWag_streams (s : State) (w : Wag) : (s.setWag w).streams = s.streams := rfl
@[simp] theorem State.setWag_red (s : State) (w : Wag) : (s.setWag w).red = s.red := rfl
@[simp] theorem State.setAux_variant (s : State) (x : Aux) : (s.setAux x).variant = s.variant := rfl
@[simp] theorem State.setAux_pending (s : State) (x : Aux) : (s.setAux x).pending = s.pending := rfl
@[simp] theorem State.setAux_now (s : State) (x : Aux) : (s.setAux x).now = s.now := rfl
@[simp] theorem State.setAux_freeCtr (s : State) (x : Aux) : (s.setAux x).freeCtr = s.freeCtr := rfl
@[simp] theorem State.setAux_regs (s : State) (x : Aux) : (s.setAux x).regs = s.regs := rfl
@[simp] theorem State.setAux_held (s : State) (x : Aux) : (s.setAux x).held = s.held := rfl
@[simp] theorem State.setAux_flagNow (s : State) (x : Aux) : (s.setAux x).flagNow = s.flagNow := rfl
@[simp] theorem State.setAux_sys (s : State) (x : Aux) : (s.setAux x).sys = s.sys := rfl
@[simp] theorem State.setAux_ports (s : State) (x : Aux) : (s.setAux x).ports = s.ports := rfl
@[simp] theorem State.setAux_recorder (s : State) (x : Aux) : (s.setAux x).recorder = s.recorder := rfl
@[simp] theorem State.setAux_time (s : State) (x : Aux) : (s.setAux x).time = s.time := rfl
@[simp] theorem State.setAux_plan (s : State) (x : Aux) : (s.setAux x).plan = s.plan := rfl
@[simp] theorem State.setAux_arb (s : State) (x : Aux) : (s.setAux x).arb = s.arb := rfl
@[simp] theorem State.setAux_emit (s : State) (x : Aux) : (s.setAux x).emit = s.emit := rfl
@[simp] theorem State.setAux_rej (s : State) (x : Aux) : (s.setAux x).rej = s.rej := rfl
@[simp] theorem State.setAux_wag (s : State) (x : Aux) : (s.setAux x).wag = s.wag := rfl
@[simp] theorem State.setAux_rx (s : State) (x : Aux) : (s.setAux x).rx = s.rx := rfl
@[simp] theorem State.setAux_tdc (s : State) (x : Aux) : (s.setAux x).tdc = s.tdc := rfl
@[simp] theorem State.setAux_combs (s : State) (x : Aux) : (s.setAux x).combs = s.combs := rfl
@[simp] theorem State.setAux_det (s : State) (x : Aux) : (s.setAux x).det = s.det := rfl
@[simp] theorem State.setAux_sync (s : State) (x : Aux) : (s.setAux x).sync = s.sync := rfl
@[simp] theorem State.setAux_cap (s : State) (x : Aux) : (s.setAux x).cap = s.cap := rfl
@[simp] theorem State.setAux_aux (s : State) (x : Aux) : (s.setAux x).aux = x := rfl
@[simp] theorem State.setAux_cal (s : State) (x : Aux) : (s.setAux x).cal = s.cal := rfl
@[simp] theorem State.setAux_boot (s : State) (x : Aux) : (s.setAux x).boot = s.boot := rfl
@[simp] theorem State.setAux_power (s : State) (x : Aux) : (s.setAux x).power = s.power := rfl
@[simp] theorem State.setAux_tap (s : State) (x : Aux) : (s.setAux x).tap = s.tap := rfl
@[simp] theorem State.setAux_lanes (s : State) (x : Aux) : (s.setAux x).lanes = s.lanes := rfl
@[simp] theorem State.setAux_streams (s : State) (x : Aux) : (s.setAux x).streams = s.streams := rfl
@[simp] theorem State.setAux_red (s : State) (x : Aux) : (s.setAux x).red = s.red := rfl
@[simp] theorem State.setRec_variant (s : State) (x : Recorder) : (s.setRec x).variant = s.variant := rfl
@[simp] theorem State.setRec_pending (s : State) (x : Recorder) : (s.setRec x).pending = s.pending := rfl
@[simp] theorem State.setRec_now (s : State) (x : Recorder) : (s.setRec x).now = s.now := rfl
@[simp] theorem State.setRec_freeCtr (s : State) (x : Recorder) : (s.setRec x).freeCtr = s.freeCtr := rfl
@[simp] theorem State.setRec_regs (s : State) (x : Recorder) : (s.setRec x).regs = s.regs := rfl
@[simp] theorem State.setRec_held (s : State) (x : Recorder) : (s.setRec x).held = s.held := rfl
@[simp] theorem State.setRec_flagNow (s : State) (x : Recorder) : (s.setRec x).flagNow = s.flagNow := rfl
@[simp] theorem State.setRec_sys (s : State) (x : Recorder) : (s.setRec x).sys = s.sys := rfl
@[simp] theorem State.setRec_ports (s : State) (x : Recorder) : (s.setRec x).ports = s.ports := rfl
@[simp] theorem State.setRec_recorder (s : State) (x : Recorder) : (s.setRec x).recorder = x := rfl
@[simp] theorem State.setRec_time (s : State) (x : Recorder) : (s.setRec x).time = s.time := rfl
@[simp] theorem State.setRec_plan (s : State) (x : Recorder) : (s.setRec x).plan = s.plan := rfl
@[simp] theorem State.setRec_arb (s : State) (x : Recorder) : (s.setRec x).arb = s.arb := rfl
@[simp] theorem State.setRec_emit (s : State) (x : Recorder) : (s.setRec x).emit = s.emit := rfl
@[simp] theorem State.setRec_rej (s : State) (x : Recorder) : (s.setRec x).rej = s.rej := rfl
@[simp] theorem State.setRec_wag (s : State) (x : Recorder) : (s.setRec x).wag = s.wag := rfl
@[simp] theorem State.setRec_rx (s : State) (x : Recorder) : (s.setRec x).rx = s.rx := rfl
@[simp] theorem State.setRec_tdc (s : State) (x : Recorder) : (s.setRec x).tdc = s.tdc := rfl
@[simp] theorem State.setRec_combs (s : State) (x : Recorder) : (s.setRec x).combs = s.combs := rfl
@[simp] theorem State.setRec_det (s : State) (x : Recorder) : (s.setRec x).det = s.det := rfl
@[simp] theorem State.setRec_sync (s : State) (x : Recorder) : (s.setRec x).sync = s.sync := rfl
@[simp] theorem State.setRec_cap (s : State) (x : Recorder) : (s.setRec x).cap = s.cap := rfl
@[simp] theorem State.setRec_aux (s : State) (x : Recorder) : (s.setRec x).aux = s.aux := rfl
@[simp] theorem State.setRec_cal (s : State) (x : Recorder) : (s.setRec x).cal = s.cal := rfl
@[simp] theorem State.setRec_boot (s : State) (x : Recorder) : (s.setRec x).boot = s.boot := rfl
@[simp] theorem State.setRec_power (s : State) (x : Recorder) : (s.setRec x).power = s.power := rfl
@[simp] theorem State.setRec_tap (s : State) (x : Recorder) : (s.setRec x).tap = s.tap := rfl
@[simp] theorem State.setRec_lanes (s : State) (x : Recorder) : (s.setRec x).lanes = s.lanes := rfl
@[simp] theorem State.setRec_streams (s : State) (x : Recorder) : (s.setRec x).streams = s.streams := rfl
@[simp] theorem State.setRec_red (s : State) (x : Recorder) : (s.setRec x).red = s.red := rfl
@[simp] theorem State.setCal_variant (s : State) (x : Cal) : (s.setCal x).variant = s.variant := rfl
@[simp] theorem State.setCal_pending (s : State) (x : Cal) : (s.setCal x).pending = s.pending := rfl
@[simp] theorem State.setCal_now (s : State) (x : Cal) : (s.setCal x).now = s.now := rfl
@[simp] theorem State.setCal_freeCtr (s : State) (x : Cal) : (s.setCal x).freeCtr = s.freeCtr := rfl
@[simp] theorem State.setCal_regs (s : State) (x : Cal) : (s.setCal x).regs = s.regs := rfl
@[simp] theorem State.setCal_held (s : State) (x : Cal) : (s.setCal x).held = s.held := rfl
@[simp] theorem State.setCal_flagNow (s : State) (x : Cal) : (s.setCal x).flagNow = s.flagNow := rfl
@[simp] theorem State.setCal_sys (s : State) (x : Cal) : (s.setCal x).sys = s.sys := rfl
@[simp] theorem State.setCal_ports (s : State) (x : Cal) : (s.setCal x).ports = s.ports := rfl
@[simp] theorem State.setCal_recorder (s : State) (x : Cal) : (s.setCal x).recorder = s.recorder := rfl
@[simp] theorem State.setCal_time (s : State) (x : Cal) : (s.setCal x).time = s.time := rfl
@[simp] theorem State.setCal_plan (s : State) (x : Cal) : (s.setCal x).plan = s.plan := rfl
@[simp] theorem State.setCal_arb (s : State) (x : Cal) : (s.setCal x).arb = s.arb := rfl
@[simp] theorem State.setCal_emit (s : State) (x : Cal) : (s.setCal x).emit = s.emit := rfl
@[simp] theorem State.setCal_rej (s : State) (x : Cal) : (s.setCal x).rej = s.rej := rfl
@[simp] theorem State.setCal_wag (s : State) (x : Cal) : (s.setCal x).wag = s.wag := rfl
@[simp] theorem State.setCal_rx (s : State) (x : Cal) : (s.setCal x).rx = s.rx := rfl
@[simp] theorem State.setCal_tdc (s : State) (x : Cal) : (s.setCal x).tdc = s.tdc := rfl
@[simp] theorem State.setCal_combs (s : State) (x : Cal) : (s.setCal x).combs = s.combs := rfl
@[simp] theorem State.setCal_det (s : State) (x : Cal) : (s.setCal x).det = s.det := rfl
@[simp] theorem State.setCal_sync (s : State) (x : Cal) : (s.setCal x).sync = s.sync := rfl
@[simp] theorem State.setCal_cap (s : State) (x : Cal) : (s.setCal x).cap = s.cap := rfl
@[simp] theorem State.setCal_aux (s : State) (x : Cal) : (s.setCal x).aux = s.aux := rfl
@[simp] theorem State.setCal_cal (s : State) (x : Cal) : (s.setCal x).cal = x := rfl
@[simp] theorem State.setCal_boot (s : State) (x : Cal) : (s.setCal x).boot = s.boot := rfl
@[simp] theorem State.setCal_power (s : State) (x : Cal) : (s.setCal x).power = s.power := rfl
@[simp] theorem State.setCal_tap (s : State) (x : Cal) : (s.setCal x).tap = s.tap := rfl
@[simp] theorem State.setCal_lanes (s : State) (x : Cal) : (s.setCal x).lanes = s.lanes := rfl
@[simp] theorem State.setCal_streams (s : State) (x : Cal) : (s.setCal x).streams = s.streams := rfl
@[simp] theorem State.setCal_red (s : State) (x : Cal) : (s.setCal x).red = s.red := rfl
@[simp] theorem State.setRed_variant (s : State) (x : Red) : (s.setRed x).variant = s.variant := rfl
@[simp] theorem State.setRed_pending (s : State) (x : Red) : (s.setRed x).pending = s.pending := rfl
@[simp] theorem State.setRed_now (s : State) (x : Red) : (s.setRed x).now = s.now := rfl
@[simp] theorem State.setRed_freeCtr (s : State) (x : Red) : (s.setRed x).freeCtr = s.freeCtr := rfl
@[simp] theorem State.setRed_regs (s : State) (x : Red) : (s.setRed x).regs = s.regs := rfl
@[simp] theorem State.setRed_held (s : State) (x : Red) : (s.setRed x).held = s.held := rfl
@[simp] theorem State.setRed_flagNow (s : State) (x : Red) : (s.setRed x).flagNow = s.flagNow := rfl
@[simp] theorem State.setRed_sys (s : State) (x : Red) : (s.setRed x).sys = s.sys := rfl
@[simp] theorem State.setRed_ports (s : State) (x : Red) : (s.setRed x).ports = s.ports := rfl
@[simp] theorem State.setRed_recorder (s : State) (x : Red) : (s.setRed x).recorder = s.recorder := rfl
@[simp] theorem State.setRed_time (s : State) (x : Red) : (s.setRed x).time = s.time := rfl
@[simp] theorem State.setRed_plan (s : State) (x : Red) : (s.setRed x).plan = s.plan := rfl
@[simp] theorem State.setRed_arb (s : State) (x : Red) : (s.setRed x).arb = s.arb := rfl
@[simp] theorem State.setRed_emit (s : State) (x : Red) : (s.setRed x).emit = s.emit := rfl
@[simp] theorem State.setRed_rej (s : State) (x : Red) : (s.setRed x).rej = s.rej := rfl
@[simp] theorem State.setRed_wag (s : State) (x : Red) : (s.setRed x).wag = s.wag := rfl
@[simp] theorem State.setRed_rx (s : State) (x : Red) : (s.setRed x).rx = s.rx := rfl
@[simp] theorem State.setRed_tdc (s : State) (x : Red) : (s.setRed x).tdc = s.tdc := rfl
@[simp] theorem State.setRed_combs (s : State) (x : Red) : (s.setRed x).combs = s.combs := rfl
@[simp] theorem State.setRed_det (s : State) (x : Red) : (s.setRed x).det = s.det := rfl
@[simp] theorem State.setRed_sync (s : State) (x : Red) : (s.setRed x).sync = s.sync := rfl
@[simp] theorem State.setRed_cap (s : State) (x : Red) : (s.setRed x).cap = s.cap := rfl
@[simp] theorem State.setRed_aux (s : State) (x : Red) : (s.setRed x).aux = s.aux := rfl
@[simp] theorem State.setRed_cal (s : State) (x : Red) : (s.setRed x).cal = s.cal := rfl
@[simp] theorem State.setRed_boot (s : State) (x : Red) : (s.setRed x).boot = s.boot := rfl
@[simp] theorem State.setRed_power (s : State) (x : Red) : (s.setRed x).power = s.power := rfl
@[simp] theorem State.setRed_tap (s : State) (x : Red) : (s.setRed x).tap = s.tap := rfl
@[simp] theorem State.setRed_lanes (s : State) (x : Red) : (s.setRed x).lanes = s.lanes := rfl
@[simp] theorem State.setRed_streams (s : State) (x : Red) : (s.setRed x).streams = s.streams := rfl
@[simp] theorem State.setRed_red (s : State) (x : Red) : (s.setRed x).red = x := rfl
@[simp] theorem State.setBoot_variant (s : State) (x : Boot) : (s.setBoot x).variant = s.variant := rfl
@[simp] theorem State.setBoot_pending (s : State) (x : Boot) : (s.setBoot x).pending = s.pending := rfl
@[simp] theorem State.setBoot_now (s : State) (x : Boot) : (s.setBoot x).now = s.now := rfl
@[simp] theorem State.setBoot_freeCtr (s : State) (x : Boot) : (s.setBoot x).freeCtr = s.freeCtr := rfl
@[simp] theorem State.setBoot_regs (s : State) (x : Boot) : (s.setBoot x).regs = s.regs := rfl
@[simp] theorem State.setBoot_held (s : State) (x : Boot) : (s.setBoot x).held = s.held := rfl
@[simp] theorem State.setBoot_flagNow (s : State) (x : Boot) : (s.setBoot x).flagNow = s.flagNow := rfl
@[simp] theorem State.setBoot_sys (s : State) (x : Boot) : (s.setBoot x).sys = s.sys := rfl
@[simp] theorem State.setBoot_ports (s : State) (x : Boot) : (s.setBoot x).ports = s.ports := rfl
@[simp] theorem State.setBoot_recorder (s : State) (x : Boot) : (s.setBoot x).recorder = s.recorder := rfl
@[simp] theorem State.setBoot_time (s : State) (x : Boot) : (s.setBoot x).time = s.time := rfl
@[simp] theorem State.setBoot_plan (s : State) (x : Boot) : (s.setBoot x).plan = s.plan := rfl
@[simp] theorem State.setBoot_arb (s : State) (x : Boot) : (s.setBoot x).arb = s.arb := rfl
@[simp] theorem State.setBoot_emit (s : State) (x : Boot) : (s.setBoot x).emit = s.emit := rfl
@[simp] theorem State.setBoot_rej (s : State) (x : Boot) : (s.setBoot x).rej = s.rej := rfl
@[simp] theorem State.setBoot_wag (s : State) (x : Boot) : (s.setBoot x).wag = s.wag := rfl
@[simp] theorem State.setBoot_rx (s : State) (x : Boot) : (s.setBoot x).rx = s.rx := rfl
@[simp] theorem State.setBoot_tdc (s : State) (x : Boot) : (s.setBoot x).tdc = s.tdc := rfl
@[simp] theorem State.setBoot_combs (s : State) (x : Boot) : (s.setBoot x).combs = s.combs := rfl
@[simp] theorem State.setBoot_det (s : State) (x : Boot) : (s.setBoot x).det = s.det := rfl
@[simp] theorem State.setBoot_sync (s : State) (x : Boot) : (s.setBoot x).sync = s.sync := rfl
@[simp] theorem State.setBoot_cap (s : State) (x : Boot) : (s.setBoot x).cap = s.cap := rfl
@[simp] theorem State.setBoot_aux (s : State) (x : Boot) : (s.setBoot x).aux = s.aux := rfl
@[simp] theorem State.setBoot_cal (s : State) (x : Boot) : (s.setBoot x).cal = s.cal := rfl
@[simp] theorem State.setBoot_boot (s : State) (x : Boot) : (s.setBoot x).boot = x := rfl
@[simp] theorem State.setBoot_power (s : State) (x : Boot) : (s.setBoot x).power = s.power := rfl
@[simp] theorem State.setBoot_tap (s : State) (x : Boot) : (s.setBoot x).tap = s.tap := rfl
@[simp] theorem State.setBoot_lanes (s : State) (x : Boot) : (s.setBoot x).lanes = s.lanes := rfl
@[simp] theorem State.setBoot_streams (s : State) (x : Boot) : (s.setBoot x).streams = s.streams := rfl
@[simp] theorem State.setBoot_red (s : State) (x : Boot) : (s.setBoot x).red = s.red := rfl
@[simp] theorem State.setPlan_variant (s : State) (p : Plan) : (s.setPlan p).variant = s.variant := rfl
@[simp] theorem State.setPlan_pending (s : State) (p : Plan) : (s.setPlan p).pending = s.pending := rfl
@[simp] theorem State.setPlan_now (s : State) (p : Plan) : (s.setPlan p).now = s.now := rfl
@[simp] theorem State.setPlan_freeCtr (s : State) (p : Plan) : (s.setPlan p).freeCtr = s.freeCtr := rfl
@[simp] theorem State.setPlan_regs (s : State) (p : Plan) : (s.setPlan p).regs = s.regs := rfl
@[simp] theorem State.setPlan_held (s : State) (p : Plan) : (s.setPlan p).held = s.held := rfl
@[simp] theorem State.setPlan_flagNow (s : State) (p : Plan) : (s.setPlan p).flagNow = s.flagNow := rfl
@[simp] theorem State.setPlan_sys (s : State) (p : Plan) : (s.setPlan p).sys = s.sys := rfl
@[simp] theorem State.setPlan_ports (s : State) (p : Plan) : (s.setPlan p).ports = s.ports := rfl
@[simp] theorem State.setPlan_recorder (s : State) (p : Plan) : (s.setPlan p).recorder = s.recorder := rfl
@[simp] theorem State.setPlan_time (s : State) (p : Plan) : (s.setPlan p).time = s.time := rfl
@[simp] theorem State.setPlan_plan (s : State) (p : Plan) : (s.setPlan p).plan = p := rfl
@[simp] theorem State.setPlan_arb (s : State) (p : Plan) : (s.setPlan p).arb = s.arb := rfl
@[simp] theorem State.setPlan_emit (s : State) (p : Plan) : (s.setPlan p).emit = s.emit := rfl
@[simp] theorem State.setPlan_rej (s : State) (p : Plan) : (s.setPlan p).rej = s.rej := rfl
@[simp] theorem State.setPlan_wag (s : State) (p : Plan) : (s.setPlan p).wag = s.wag := rfl
@[simp] theorem State.setPlan_rx (s : State) (p : Plan) : (s.setPlan p).rx = s.rx := rfl
@[simp] theorem State.setPlan_tdc (s : State) (p : Plan) : (s.setPlan p).tdc = s.tdc := rfl
@[simp] theorem State.setPlan_combs (s : State) (p : Plan) : (s.setPlan p).combs = s.combs := rfl
@[simp] theorem State.setPlan_det (s : State) (p : Plan) : (s.setPlan p).det = s.det := rfl
@[simp] theorem State.setPlan_sync (s : State) (p : Plan) : (s.setPlan p).sync = s.sync := rfl
@[simp] theorem State.setPlan_cap (s : State) (p : Plan) : (s.setPlan p).cap = s.cap := rfl
@[simp] theorem State.setPlan_aux (s : State) (p : Plan) : (s.setPlan p).aux = s.aux := rfl
@[simp] theorem State.setPlan_cal (s : State) (p : Plan) : (s.setPlan p).cal = s.cal := rfl
@[simp] theorem State.setPlan_boot (s : State) (p : Plan) : (s.setPlan p).boot = s.boot := rfl
@[simp] theorem State.setPlan_power (s : State) (p : Plan) : (s.setPlan p).power = s.power := rfl
@[simp] theorem State.setPlan_tap (s : State) (p : Plan) : (s.setPlan p).tap = s.tap := rfl
@[simp] theorem State.setPlan_lanes (s : State) (p : Plan) : (s.setPlan p).lanes = s.lanes := rfl
@[simp] theorem State.setPlan_streams (s : State) (p : Plan) : (s.setPlan p).streams = s.streams := rfl
@[simp] theorem State.setPlan_red (s : State) (p : Plan) : (s.setPlan p).red = s.red := rfl
@[simp] theorem State.setPower_variant (s : State) (x : Power) : (s.setPower x).variant = s.variant := rfl
@[simp] theorem State.setPower_pending (s : State) (x : Power) : (s.setPower x).pending = s.pending := rfl
@[simp] theorem State.setPower_now (s : State) (x : Power) : (s.setPower x).now = s.now := rfl
@[simp] theorem State.setPower_freeCtr (s : State) (x : Power) : (s.setPower x).freeCtr = s.freeCtr := rfl
@[simp] theorem State.setPower_regs (s : State) (x : Power) : (s.setPower x).regs = s.regs := rfl
@[simp] theorem State.setPower_held (s : State) (x : Power) : (s.setPower x).held = s.held := rfl
@[simp] theorem State.setPower_flagNow (s : State) (x : Power) : (s.setPower x).flagNow = s.flagNow := rfl
@[simp] theorem State.setPower_sys (s : State) (x : Power) : (s.setPower x).sys = s.sys := rfl
@[simp] theorem State.setPower_ports (s : State) (x : Power) : (s.setPower x).ports = s.ports := rfl
@[simp] theorem State.setPower_recorder (s : State) (x : Power) : (s.setPower x).recorder = s.recorder := rfl
@[simp] theorem State.setPower_time (s : State) (x : Power) : (s.setPower x).time = s.time := rfl
@[simp] theorem State.setPower_plan (s : State) (x : Power) : (s.setPower x).plan = s.plan := rfl
@[simp] theorem State.setPower_arb (s : State) (x : Power) : (s.setPower x).arb = s.arb := rfl
@[simp] theorem State.setPower_emit (s : State) (x : Power) : (s.setPower x).emit = s.emit := rfl
@[simp] theorem State.setPower_rej (s : State) (x : Power) : (s.setPower x).rej = s.rej := rfl
@[simp] theorem State.setPower_wag (s : State) (x : Power) : (s.setPower x).wag = s.wag := rfl
@[simp] theorem State.setPower_rx (s : State) (x : Power) : (s.setPower x).rx = s.rx := rfl
@[simp] theorem State.setPower_tdc (s : State) (x : Power) : (s.setPower x).tdc = s.tdc := rfl
@[simp] theorem State.setPower_combs (s : State) (x : Power) : (s.setPower x).combs = s.combs := rfl
@[simp] theorem State.setPower_det (s : State) (x : Power) : (s.setPower x).det = s.det := rfl
@[simp] theorem State.setPower_sync (s : State) (x : Power) : (s.setPower x).sync = s.sync := rfl
@[simp] theorem State.setPower_cap (s : State) (x : Power) : (s.setPower x).cap = s.cap := rfl
@[simp] theorem State.setPower_aux (s : State) (x : Power) : (s.setPower x).aux = s.aux := rfl
@[simp] theorem State.setPower_cal (s : State) (x : Power) : (s.setPower x).cal = s.cal := rfl
@[simp] theorem State.setPower_boot (s : State) (x : Power) : (s.setPower x).boot = s.boot := rfl
@[simp] theorem State.setPower_power (s : State) (x : Power) : (s.setPower x).power = x := rfl
@[simp] theorem State.setPower_tap (s : State) (x : Power) : (s.setPower x).tap = s.tap := rfl
@[simp] theorem State.setPower_lanes (s : State) (x : Power) : (s.setPower x).lanes = s.lanes := rfl
@[simp] theorem State.setPower_streams (s : State) (x : Power) : (s.setPower x).streams = s.streams := rfl
@[simp] theorem State.setPower_red (s : State) (x : Power) : (s.setPower x).red = s.red := rfl
@[simp] theorem State.setTap_variant (s : State) (x : Tap) : (s.setTap x).variant = s.variant := rfl
@[simp] theorem State.setTap_pending (s : State) (x : Tap) : (s.setTap x).pending = s.pending := rfl
@[simp] theorem State.setTap_now (s : State) (x : Tap) : (s.setTap x).now = s.now := rfl
@[simp] theorem State.setTap_freeCtr (s : State) (x : Tap) : (s.setTap x).freeCtr = s.freeCtr := rfl
@[simp] theorem State.setTap_regs (s : State) (x : Tap) : (s.setTap x).regs = s.regs := rfl
@[simp] theorem State.setTap_held (s : State) (x : Tap) : (s.setTap x).held = s.held := rfl
@[simp] theorem State.setTap_flagNow (s : State) (x : Tap) : (s.setTap x).flagNow = s.flagNow := rfl
@[simp] theorem State.setTap_sys (s : State) (x : Tap) : (s.setTap x).sys = s.sys := rfl
@[simp] theorem State.setTap_ports (s : State) (x : Tap) : (s.setTap x).ports = s.ports := rfl
@[simp] theorem State.setTap_recorder (s : State) (x : Tap) : (s.setTap x).recorder = s.recorder := rfl
@[simp] theorem State.setTap_time (s : State) (x : Tap) : (s.setTap x).time = s.time := rfl
@[simp] theorem State.setTap_plan (s : State) (x : Tap) : (s.setTap x).plan = s.plan := rfl
@[simp] theorem State.setTap_arb (s : State) (x : Tap) : (s.setTap x).arb = s.arb := rfl
@[simp] theorem State.setTap_emit (s : State) (x : Tap) : (s.setTap x).emit = s.emit := rfl
@[simp] theorem State.setTap_rej (s : State) (x : Tap) : (s.setTap x).rej = s.rej := rfl
@[simp] theorem State.setTap_wag (s : State) (x : Tap) : (s.setTap x).wag = s.wag := rfl
@[simp] theorem State.setTap_rx (s : State) (x : Tap) : (s.setTap x).rx = s.rx := rfl
@[simp] theorem State.setTap_tdc (s : State) (x : Tap) : (s.setTap x).tdc = s.tdc := rfl
@[simp] theorem State.setTap_combs (s : State) (x : Tap) : (s.setTap x).combs = s.combs := rfl
@[simp] theorem State.setTap_det (s : State) (x : Tap) : (s.setTap x).det = s.det := rfl
@[simp] theorem State.setTap_sync (s : State) (x : Tap) : (s.setTap x).sync = s.sync := rfl
@[simp] theorem State.setTap_cap (s : State) (x : Tap) : (s.setTap x).cap = s.cap := rfl
@[simp] theorem State.setTap_aux (s : State) (x : Tap) : (s.setTap x).aux = s.aux := rfl
@[simp] theorem State.setTap_cal (s : State) (x : Tap) : (s.setTap x).cal = s.cal := rfl
@[simp] theorem State.setTap_boot (s : State) (x : Tap) : (s.setTap x).boot = s.boot := rfl
@[simp] theorem State.setTap_power (s : State) (x : Tap) : (s.setTap x).power = s.power := rfl
@[simp] theorem State.setTap_tap (s : State) (x : Tap) : (s.setTap x).tap = x := rfl
@[simp] theorem State.setTap_lanes (s : State) (x : Tap) : (s.setTap x).lanes = s.lanes := rfl
@[simp] theorem State.setTap_streams (s : State) (x : Tap) : (s.setTap x).streams = s.streams := rfl
@[simp] theorem State.setTap_red (s : State) (x : Tap) : (s.setTap x).red = s.red := rfl

/-! ## Registers -/

/-- A register reads back what was written. -/
@[simp] theorem State.rd_wr_self (s : State) (a : Nat) (v : Word) : (s.wr a v).rd a = v := get_set_self _ _ _ _

/-- A write leaves every other register alone. -/
theorem State.rd_wr_ne (s : State) {a a' : Nat} (h : a' ≠ a) (v : Word) : (s.wr a v).rd a' = s.rd a' := get_set_ne _ _ _ h _

/-- What a register reads depends on the register table and the variant alone. -/
theorem State.rd_congr {s t : State} (h : t.regs = s.regs) (hv : t.variant = s.variant) (a : Nat) : t.rd a = s.rd a := by
  unfold State.rd; rw [h, hv]

/-- Written fields and bits leave every other register alone. -/
theorem State.rd_setF_ne (s : State) {a a' : Nat} (h : a' ≠ a) (hi lo v : Nat) : (s.setF a hi lo v).rd a' = s.rd a' := s.rd_wr_ne h _

theorem State.rd_setBit_ne (s : State) {a a' : Nat} (h : a' ≠ a) (i : Nat) (v : Bool) : (s.setBit a i v).rd a' = s.rd a' := s.rd_wr_ne h _

theorem State.rd_flag_ne (s : State) {a a' : Nat} (h : a' ≠ a) (i : Nat) : (s.flag a i).rd a' = s.rd a' := s.rd_wr_ne h _

theorem State.rd_setR_ne (s : State) {a a' : Nat} (h : a' ≠ a) (v : Nat) : (s.setR a v).rd a' = s.rd a' := s.rd_wr_ne h _

theorem State.rd_inc_ne (s : State) {a a' : Nat} (h : a' ≠ a) : (s.inc a).rd a' = s.rd a' := s.rd_wr_ne h _

/-- A whole register set to a number holds it, modulo 2³². -/
@[simp] theorem State.r_setR (s : State) (a v : Nat) : (s.setR a v).r a = v % 2 ^ 32 := by
  simp [State.r, State.setR]

/-- A count saturates at 0xFFFF_FFFF. -/
theorem State.r_inc (s : State) (a : Nat) : (s.inc a).r a = min (s.r a + 1) 0xFFFFFFFF := by
  have : min (s.r a + 1) 0xFFFFFFFF < 2 ^ 32 := by omega
  simp only [State.inc, State.add, State.r_setR]
  omega

/-! ## Ports -/

/-- A port reads back what was written. -/
@[simp] theorem State.port_setPort_self (s : State) (p : Nat) (q : PortSt) : (s.setPort p q).port p = q := get_set_self _ _ _ _

/-- A write of a port leaves every other port alone. -/
theorem State.port_setPort_ne (s : State) {p k : Nat} (h : k ≠ p) (q : PortSt) : (s.setPort p q).port k = s.port k := get_set_ne _ _ _ h _

/-- A register write leaves every port alone. -/
@[simp] theorem State.port_wr (s : State) (a : Nat) (v : Word) (p : Nat) : (s.wr a v).port p = s.port p := rfl

end Sys2Proof.Machine
end

