-- ==== Sys2Proof/Laws/Bits.lean ====
section
/-!
SUPPORT. Laws/Bits.lean: a field of a register, or one bit, reads back what was written, and a write leaves every other field alone.
-/

namespace Sys2Proof.Machine

open Sys2Proof

/-- A number by its bits below `lo`, its field of `k` bits at `lo` and its bits above. -/
theorem nat_split (n lo k : Nat) : n = n / 2 ^ (lo + k) * 2 ^ (lo + k) + n / 2 ^ lo % 2 ^ k * 2 ^ lo + n % 2 ^ lo := by
  have h1 := Nat.div_add_mod n (2 ^ lo)
  have h2 := Nat.div_add_mod (n / 2 ^ lo) (2 ^ k)
  rw [Nat.div_div_eq_div_mul, ← Nat.pow_add] at h2
  have h3 : 2 ^ (lo + k) = 2 ^ lo * 2 ^ k := Nat.pow_add 2 lo k
  generalize n / 2 ^ (lo + k) = q at *
  generalize n / 2 ^ lo % 2 ^ k = m at *
  generalize n % 2 ^ lo = r at *
  rw [← h1, ← h2, h3]
  ring

/-- A field put into a number: the bits above and below stay. -/
theorem nat_withField (n lo k v : Nat) :
    n - n / 2 ^ lo % 2 ^ k * 2 ^ lo + v % 2 ^ k * 2 ^ lo = n / 2 ^ (lo + k) * 2 ^ (lo + k) + v % 2 ^ k * 2 ^ lo + n % 2 ^ lo := by
  have h := nat_split n lo k
  generalize n / 2 ^ (lo + k) * 2 ^ (lo + k) = q at *
  generalize n / 2 ^ lo % 2 ^ k * 2 ^ lo = m at *
  generalize n % 2 ^ lo = r at *
  omega

/-- A field reads back what was put into it. -/
theorem nat_field_withField (n lo k v : Nat) :
    (n - n / 2 ^ lo % 2 ^ k * 2 ^ lo + v % 2 ^ k * 2 ^ lo) / 2 ^ lo % 2 ^ k = v % 2 ^ k := by
  rw [nat_withField]
  have h3 : 2 ^ (lo + k) = 2 ^ k * 2 ^ lo := by rw [Nat.pow_add, Nat.mul_comm]
  have hr : n % 2 ^ lo < 2 ^ lo := Nat.mod_lt _ (Nat.two_pow_pos lo)
  rw [h3, ← Nat.mul_assoc, ← Nat.add_mul, Nat.add_comm, Nat.add_mul_div_right _ _ (Nat.two_pow_pos lo), Nat.div_eq_of_lt hr, Nat.zero_add,
    Nat.mul_comm, Nat.add_comm, Nat.add_mul_mod_self_left, Nat.mod_mod]

/-- A number with a field put into it stays below 2³² when the field ends below bit 32. -/
theorem nat_withField_lt {n lo k v : Nat} (hn : n < 2 ^ 32) (hk : lo + k ≤ 32) : n - n / 2 ^ lo % 2 ^ k * 2 ^ lo + v % 2 ^ k * 2 ^ lo < 2 ^ 32 := by
  rw [nat_withField]
  have hq : n / 2 ^ (lo + k) < 2 ^ (32 - (lo + k)) := by
    rw [Nat.div_lt_iff_lt_mul (Nat.two_pow_pos _), ← Nat.pow_add]
    exact Nat.lt_of_lt_of_eq hn (by congr 1; omega)
  have hv : v % 2 ^ k < 2 ^ k := Nat.mod_lt _ (Nat.two_pow_pos k)
  have hr : n % 2 ^ lo < 2 ^ lo := Nat.mod_lt _ (Nat.two_pow_pos lo)
  have e1 : 2 ^ (lo + k) = 2 ^ k * 2 ^ lo := by rw [Nat.pow_add, Nat.mul_comm]
  have e2 : (2 : Nat) ^ 32 = 2 ^ (32 - (lo + k)) * 2 ^ (lo + k) := by rw [← Nat.pow_add]; congr 1; omega
  have s1 : v % 2 ^ k * 2 ^ lo + n % 2 ^ lo < 2 ^ (lo + k) := by
    rw [e1]
    calc v % 2 ^ k * 2 ^ lo + n % 2 ^ lo < v % 2 ^ k * 2 ^ lo + 2 ^ lo := by omega
      _ = (v % 2 ^ k + 1) * 2 ^ lo := by ring
      _ ≤ 2 ^ k * 2 ^ lo := Nat.mul_le_mul_right _ hv
  calc _ < n / 2 ^ (lo + k) * 2 ^ (lo + k) + 2 ^ (lo + k) := by omega
    _ = (n / 2 ^ (lo + k) + 1) * 2 ^ (lo + k) := by ring
    _ ≤ 2 ^ (32 - (lo + k)) * 2 ^ (lo + k) := Nat.mul_le_mul_right _ hq
    _ = 2 ^ 32 := e2.symm

/-- A field reads back what was put into it. -/
theorem bitsOf_withBits_self (w : Word) {hi lo : Nat} (h : lo ≤ hi) (h32 : hi < 32) (v : Nat) :
    bitsOf (withBits w hi lo v) hi lo = v % 2 ^ (hi + 1 - lo) := by
  have hk : lo + (hi + 1 - lo) ≤ 32 := by omega
  unfold withBits bitsOf
  rw [BitVec.toNat_ofNat, Nat.shiftRight_eq_div_pow, Nat.shiftRight_eq_div_pow, Nat.mod_eq_of_lt (nat_withField_lt w.isLt hk), nat_field_withField]

/-- Bit i of a number, by its field of one bit. -/
theorem getLsbD_eq_bitsOf (w : Word) (i : Nat) : w.getLsbD i = (bitsOf w i i == 1) := by
  unfold bitsOf
  rw [show i + 1 - i = 1 by omega, BitVec.getLsbD, Nat.testBit, Nat.shiftRight_eq_div_pow, Nat.and_comm, Nat.and_one_is_mod, Nat.pow_one]
  rcases Nat.mod_two_eq_zero_or_one (w.toNat / 2 ^ i) with h | h <;> rw [h] <;> rfl

/-- A field of a register reads back what was set. -/
theorem State.f_setF_self (s : State) (a : Nat) {hi lo : Nat} (h : lo ≤ hi) (h32 : hi < 32) (v : Nat) :
    (s.setF a hi lo v).f a hi lo = v % 2 ^ (hi + 1 - lo) := by
  unfold State.f State.setF
  rw [State.rd_wr_self, bitsOf_withBits_self _ h h32]

/-- A bit of a register reads back what was set. -/
theorem State.bit_setBit_self (s : State) (a : Nat) {i : Nat} (h : i < 32) (v : Bool) : (s.setBit a i v).bit a i = v := by
  unfold State.bit
  rw [getLsbD_eq_bitsOf]
  show ((s.setF a i i (b2n v)).f a i i == 1) = v
  rw [State.f_setF_self _ _ (Nat.le_refl i) h]
  rw [show i + 1 - i = 1 by omega]
  cases v <;> rfl

/-- A bit of another register stands. -/
theorem State.bit_setBit_ne (s : State) {a a' : Nat} (h : a' ≠ a) (i j : Nat) (v : Bool) : (s.setBit a i v).bit a' j = s.bit a' j := by
  unfold State.bit
  rw [State.rd_setBit_ne _ h]

/-- A field of another register stands. -/
theorem State.f_setF_ne (s : State) {a a' : Nat} (h : a' ≠ a) (hi lo v i j : Nat) : (s.setF a hi lo v).f a' i j = s.f a' i j := by
  unfold State.f
  rw [State.rd_setF_ne _ h]
/-- A bit outside the field that was put in stands. -/
theorem getLsbD_withBits_ne (w : Word) {hi lo i : Nat} (h : lo ≤ hi) (h32 : hi < 32) (hi' : i < lo ∨ hi < i) (v : Nat) :
    (withBits w hi lo v).getLsbD i = w.getLsbD i := by
  have hk : lo + (hi + 1 - lo) ≤ 32 := by omega
  unfold withBits bitsOf BitVec.getLsbD
  rw [BitVec.toNat_ofNat, Nat.shiftRight_eq_div_pow, Nat.mod_eq_of_lt (nat_withField_lt w.isLt hk), nat_withField]
  generalize hn : w.toNat = n
  rw [show lo + (hi + 1 - lo) = hi + 1 by omega]
  have hr : n % 2 ^ lo < 2 ^ lo := Nat.mod_lt _ (Nat.two_pow_pos lo)
  have hv : v % 2 ^ (hi + 1 - lo) * 2 ^ lo + n % 2 ^ lo < 2 ^ (hi + 1) := by
    have h1 : v % 2 ^ (hi + 1 - lo) < 2 ^ (hi + 1 - lo) := Nat.mod_lt _ (Nat.two_pow_pos _)
    have h2 : 2 ^ (hi + 1) = 2 ^ (hi + 1 - lo) * 2 ^ lo := by rw [← Nat.pow_add]; congr 1; omega
    have h3 := Nat.mul_le_mul_right (2 ^ lo) h1
    rw [Nat.succ_mul] at h3
    omega
  rw [Nat.add_assoc, Nat.mul_comm (n / _) _]
  rcases hi' with h1 | h1
  · have e : n / 2 ^ (hi + 1) * 2 ^ (hi + 1) + (v % 2 ^ (hi + 1 - lo) * 2 ^ lo + n % 2 ^ lo) =
        2 ^ lo * (n / 2 ^ (hi + 1) * 2 ^ (hi + 1 - lo) + v % 2 ^ (hi + 1 - lo)) + n % 2 ^ lo := by
      have h2 : 2 ^ (hi + 1) = 2 ^ lo * 2 ^ (hi + 1 - lo) := by rw [← Nat.pow_add]; congr 1; omega
      rw [h2]; ring
    rw [Nat.mul_comm, e, Nat.testBit_two_pow_mul_add _ hr, if_pos h1, Nat.testBit_mod_two_pow]
    simp [h1]
  · rw [Nat.testBit_two_pow_mul_add _ hv, if_neg (by omega), Nat.testBit_div_two_pow]
    congr 1; omega

/-- A bit of the same register outside the field set stands. -/
theorem State.bit_setF_off (s : State) (a : Nat) {hi lo i : Nat} (h : lo ≤ hi) (h32 : hi < 32) (hi' : i < lo ∨ hi < i) (v : Nat) :
    (s.setF a hi lo v).bit a i = s.bit a i := by
  unfold State.bit State.setF
  rw [State.rd_wr_self, getLsbD_withBits_ne _ h h32 hi']

/-- Two numbers whose fields have the same bits have the same field. -/
theorem bitsOf_congr {w u : Word} {hi lo : Nat} (h : ∀ i, lo ≤ i → i ≤ hi → w.getLsbD i = u.getLsbD i) : bitsOf w hi lo = bitsOf u hi lo := by
  unfold bitsOf
  apply Nat.eq_of_testBit_eq
  intro i
  rw [Nat.testBit_mod_two_pow, Nat.testBit_mod_two_pow, Nat.testBit_shiftRight, Nat.testBit_shiftRight]
  by_cases hi' : i < hi + 1 - lo
  · have := h (lo + i) (by omega) (by omega)
    simp only [BitVec.getLsbD] at this
    rw [this]
  · simp [hi']

/-- A field of the same register apart from the field set stands. -/
theorem State.f_setF_off (s : State) (a : Nat) {hi lo i j : Nat} (h : lo ≤ hi) (h32 : hi < 32) (hd : i < lo ∨ hi < j) (v : Nat) :
    (s.setF a hi lo v).f a i j = s.f a i j := by
  unfold State.f State.setF
  rw [State.rd_wr_self]
  exact bitsOf_congr fun k h1 h2 => getLsbD_withBits_ne _ h h32 (by omega) v

end Sys2Proof.Machine
end

