-- ==== Sys2Proof/Laws/Keeps.lean ====
section
/-!
SUPPORT. Laws/Keeps.lean: what every operation of the model keeps, as one relation between states, and the lemmas about the primitive updates:
a register write, a port, a fold, a state put together from parts. Laws/KeepsA.lean and the files after it say it of every operation.
-/

namespace Sys2Proof.Machine

open Sys2Proof

/-- Which of the conditional parts of `Keeps` an operation keeps. -/
structure Kept where
  halt : Bool := true
  enroll : Bool := true
  balls : Bool := true

/-- What an operation keeps from `s` to `t`: the variant and the queue of commands, the canonical form of the registers, the bounds of R334, R336, R337, R349 and
R454, the fuses, and, where `b` says so, FAULT_HALT, that no failed enrolment waits, and the clock, the supplies and the test port. -/
structure Keeps (b : Kept) (s t : State) : Prop where
  variant : t.variant = s.variant
  pending : t.pending = s.pending
  regs : s.regs.wf (regReset s.variant) = true → t.regs.wf (regReset t.variant) = true
  cmds : s.sys.cmds.length ≤ 8 → t.sys.cmds.length ≤ 8
  queue : s.recorder.queue.length ≤ 32 → t.recorder.queue.length ≤ 32
  ports : s.portsOk → t.portsOk
  svn : s.boot.fuses.svn ≤ t.boot.fuses.svn
  owner : s.boot.fuses.ownerHash.isSome → t.boot.fuses.ownerHash = s.boot.fuses.ownerHash
  halt : b.halt = true → s.dev = .faultHalt → t.dev = .faultHalt
  enroll : b.enroll = true → s.enrollOk → t.enrollOk
  balls : b.balls = true → t.now = s.now ∧ t.power = s.power ∧ t.tap = s.tap

variable {b : Kept} {s0 s t : State}

theorem Keeps.refl (b : Kept) (s : State) : Keeps b s s := ⟨rfl, rfl, id, id, id, id, Nat.le_refl _, fun _ => rfl, fun _ h => h, fun _ h => h, fun _ => ⟨rfl, rfl, rfl⟩⟩

theorem Keeps.trans {u : State} (h : Keeps b s t) (g : Keeps b t u) : Keeps b s u where
  variant := g.variant.trans h.variant
  pending := g.pending.trans h.pending
  regs := fun x => g.regs (h.regs x)
  cmds := fun x => g.cmds (h.cmds x)
  queue := fun x => g.queue (h.queue x)
  ports := fun x => g.ports (h.ports x)
  svn := Nat.le_trans h.svn g.svn
  owner := fun x => (g.owner (by rw [h.owner x]; exact x)).trans (h.owner x)
  halt := fun hb x => g.halt hb (h.halt hb x)
  enroll := fun hb x => g.enroll hb (h.enroll hb x)
  balls := fun hb => ⟨(g.balls hb).1.trans (h.balls hb).1, (g.balls hb).2.1.trans (h.balls hb).2.1, (g.balls hb).2.2.trans (h.balls hb).2.2⟩

theorem Keeps.cut (h : Keeps b s0 t) (g : Keeps b s0 t → Keeps b s0 s) : Keeps b s0 s := g h

/-- A state that agrees on what is kept. -/
theorem Keeps.same (h : Keeps b s0 s) (h1 : t.variant = s.variant) (h2 : t.pending = s.pending) (h3 : t.regs = s.regs)
    (h4 : t.sys.cmds = s.sys.cmds) (h5 : t.recorder.queue = s.recorder.queue) (h6 : t.ports = s.ports)
    (h7 : t.boot.fuses = s.boot.fuses) (h8 : t.sys.dev = s.sys.dev) (h9 : t.boot.enroll = s.boot.enroll)
    (h10 : t.now = s.now) (h11 : t.power = s.power) (h12 : t.tap = s.tap) : Keeps b s0 t := by
  refine h.trans ⟨h1, h2, fun x => by rw [h1, h3]; exact x, fun x => by rw [h4]; exact x, fun x => by rw [h5]; exact x, fun x => ?_,
    by rw [h7], fun _ => by rw [h7], fun _ x => h8.trans x, fun _ x => by unfold State.enrollOk; rw [h9]; exact x, fun _ => ⟨h10, h11, h12⟩⟩
  intro p
  have := x p
  unfold State.port at *
  rw [h6]
  exact this

/-- A state put together from parts that agree with a kept state on what is kept. -/
theorem mk_keeps {xvariant xpending xnow xfreeCtr xregs xheld xflagNow xsys xports xrecorder xtime xplan xarb xemit xrej xwag xrx xtdc xcombs xdet xsync xcap xaux xcal xboot xpower xtap xlanes xstreams xred} (h : Keeps b s0 s) (h1 : xvariant = s.variant) (h2 : xpending = s.pending) (h3 : xregs = s.regs)
    (h4 : xsys.cmds = s.sys.cmds) (h5 : xrecorder.queue = s.recorder.queue) (h6 : xports = s.ports) (h7 : xboot.fuses = s.boot.fuses)
    (h8 : xsys.dev = s.sys.dev) (h9 : xboot.enroll = s.boot.enroll) (h10 : xnow = s.now) (h11 : xpower = s.power) (h12 : xtap = s.tap) :
    Keeps b s0 (State.mk xvariant xpending xnow xfreeCtr xregs xheld xflagNow xsys xports xrecorder xtime xplan xarb xemit xrej xwag xrx xtdc xcombs xdet xsync xcap xaux xcal xboot xpower xtap xlanes xstreams xred) :=
  h.same h1 h2 h3 h4 h5 h6 h7 h8 h9 h10 h11 h12
/-- Accepted commands may end. -/
theorem mk_cmds_keeps (x : Sys) (h : Keeps b s0 s) (hc : x.cmds.length ≤ s.sys.cmds.length) (hd : x.dev = s.sys.dev) :
    Keeps b s0 { s with sys := x } :=
  h.trans ⟨rfl, rfl, id, fun y => Nat.le_trans hc y, id, id, Nat.le_refl _, fun _ => rfl, fun _ y => hd.trans y, fun _ y => y, fun _ => ⟨rfl, rfl, rfl⟩⟩
/-- A port that stays within its bounds. -/
theorem setPort_keeps (p : Nat) (q : PortSt) (h : Keeps b s0 s) (hq : (s.port p).inBounds p → q.inBounds p) :
    Keeps b s0 (s.setPort p q) := by
  refine h.trans ⟨rfl, rfl, id, id, id, fun x k => ?_, Nat.le_refl _, fun _ => rfl, fun _ y => y, fun _ y => y, fun _ => ⟨rfl, rfl, rfl⟩⟩
  show ((s.ports.set {} p q).get {} k).inBounds k
  by_cases hk : k = p
  · subst hk; rw [get_set_self]; exact hq (x k)
  · rw [get_set_ne _ _ _ hk]; exact x k

theorem wr_keeps (a : Nat) (v : Word) (h : Keeps b s0 s) : Keeps b s0 (s.wr a v) :=
  h.trans ⟨rfl, rfl, fun x => wf_set _ _ _ _ x, id, id, id, Nat.le_refl _, fun _ => rfl, fun _ y => y, fun _ y => y, fun _ => ⟨rfl, rfl, rfl⟩⟩

theorem each_keeps {α : Type} (l : List α) (g : State → α → State) (h : Keeps b s0 s) (hg : ∀ t a, Keeps b s0 t → Keeps b s0 (g t a)) :
    Keeps b s0 (s.each l g) := by
  unfold State.each
  induction l generalizing s with
  | nil => exact h
  | cons a l ih => exact ih (hg s a h)

theorem foldl_keeps {α : Type} (l : List α) (g : State → α → State) (h : Keeps b s0 s) (hg : ∀ t a, Keeps b s0 t → Keeps b s0 (g t a)) :
    Keeps b s0 (l.foldl g s) := each_keeps l g h hg

theorem ite_keeps {c : Prop} [Decidable c] {u : State} (h : Keeps b s0 t) (g : Keeps b s0 u) : Keeps b s0 (if c then t else u) := by
  split
  · exact h
  · exact g

theorem when_keeps (c : Bool) (g : State → State) (h : Keeps b s0 s) (hg : ∀ t, Keeps b s0 t → Keeps b s0 (g t)) : Keeps b s0 (s.when c g) := by
  unfold State.when
  split
  · exact hg _ h
  · exact h

/-- A fold that carries a result beside the state. -/
theorem foldl_snd_keeps {α β : Type} (l : List α) (g : β × State → α → β × State) (a : β × State) (h : Keeps b s0 a.2)
    (hg : ∀ a x, Keeps b s0 a.2 → Keeps b s0 (g a x).2) : Keeps b s0 (l.foldl g a).2 := by
  induction l generalizing a with
  | nil => exact h
  | cons x l ih => exact ih _ (hg a x h)

/-- Another operating state, from one that is not FAULT_HALT. -/
theorem mk_dev_keeps (x : Sys) (h : Keeps b s0 s) (hc : x.cmds = s.sys.cmds) (hn : b.halt = true → s0.dev ≠ .faultHalt) :
    Keeps b s0 { s with sys := x } where
  variant := h.variant
  pending := h.pending
  regs := h.regs
  cmds := fun y => by rw [show ({ s with sys := x } : State).sys.cmds = s.sys.cmds from hc]; exact h.cmds y
  queue := h.queue
  ports := h.ports
  svn := h.svn
  owner := h.owner
  halt := fun hb y => absurd y (hn hb)
  enroll := h.enroll
  balls := h.balls

end Sys2Proof.Machine
end

