-- ==== Sys2Proof/Laws/KeepsA.lean ====
section
/-!
SUPPORT. Laws/KeepsA.lean: what each operation keeps (`Keeps`), for Ops, StreamOps, PortOps, CapOps, PlanOps.
-/

namespace Sys2Proof.Machine

open Sys2Proof

theorem State.setF_keeps {b : Kept} {s0 s : State} (a hi lo v : Nat) (h : Keeps b s0 s) : Keeps b s0 (State.setF s a hi lo v) := by
  unfold State.setF
  repeat' (first | with_reducible assumption | with_reducible apply wr_keeps)

theorem State.setR_keeps {b : Kept} {s0 s : State} (a v : Nat) (h : Keeps b s0 s) : Keeps b s0 (State.setR s a v) := by
  unfold State.setR
  repeat' (first | with_reducible assumption | with_reducible apply wr_keeps)

theorem State.addF_keeps {b : Kept} {s0 s : State} (a hi lo n : Nat) (h : Keeps b s0 s) : Keeps b s0 (State.addF s a hi lo n) := by
  unfold State.addF
  repeat' (first | with_reducible assumption | with_reducible apply State.setF_keeps)

theorem State.add_keeps {b : Kept} {s0 s : State} (a n : Nat) (h : Keeps b s0 s) : Keeps b s0 (State.add s a n) := by
  unfold State.add
  repeat' (first | with_reducible assumption | with_reducible apply State.setR_keeps)

theorem State.inc_keeps {b : Kept} {s0 s : State} (a : Nat) (h : Keeps b s0 s) : Keeps b s0 (State.inc s a) := by
  unfold State.inc
  repeat' (first | with_reducible assumption | with_reducible apply State.add_keeps)

theorem State.setBit_keeps {b : Kept} {s0 s : State} (a i : Nat) (b' : Bool) (h : Keeps b s0 s) : Keeps b s0 (State.setBit s a i b') := by
  unfold State.setBit
  repeat' (first | with_reducible assumption | with_reducible apply State.setF_keeps)

theorem State.flag_keeps {b : Kept} {s0 s : State} (a i : Nat) (h : Keeps b s0 s) : Keeps b s0 (State.flag s a i) := by
  exact mk_keeps (State.setBit_keeps _ _ _ h) rfl rfl rfl rfl rfl rfl rfl rfl rfl rfl rfl rfl

theorem State.fresh_keeps {b : Kept} {s0 s : State} (h : Keeps b s0 s) : Keeps b s0 (State.fresh s).2 := by
  unfold State.fresh
  repeat' (first | with_reducible assumption | with_reducible exact mk_keeps (by assumption) rfl rfl rfl rfl rfl rfl rfl rfl rfl rfl rfl rfl)

theorem State.hold_keeps {b : Kept} {s0 s : State} (a : Nat) (h : Keeps b s0 s) : Keeps b s0 (State.hold s a) := by
  unfold State.hold
  repeat' (first | with_reducible assumption | with_reducible exact mk_keeps (by assumption) rfl rfl rfl rfl rfl rfl rfl rfl rfl rfl rfl rfl
                 | with_reducible apply ite_keeps | split)

theorem State.takeEffect_keeps {b : Kept} {s0 s : State} (cls : Nat → Bool) (h : Keeps b s0 s) : Keeps b s0 (State.takeEffect s cls) := by
  unfold State.takeEffect
  repeat' (first | with_reducible assumption | (intro _; try beta_reduce) | with_reducible exact mk_keeps (by assumption) rfl rfl rfl rfl rfl rfl rfl rfl rfl rfl rfl rfl)

theorem State.syncPort_keeps {b : Kept} {s0 s : State} (p : Nat) (h : Keeps b s0 s) : Keeps b s0 (State.syncPort s p) := by
  unfold State.syncPort
  repeat' (first | with_reducible assumption
                 | (extract_lets +onlyGivenNames t; refine Keeps.cut (t := t) ?_ ?_; subst t; rotate_left; clear_value t; revert t; intro _ _)
                 | (extract_lets +onlyGivenNames t; revert t; intro _) | with_reducible apply State.setF_keeps)

theorem State.formPkt_keeps {b : Kept} {s0 s : State} (p code tag : Nat) (isEvent mandatory : Bool) (status : Nat) (params : List Byte) (port : Nat) (h : Keeps b s0 s)
    (he : isEvent = true → (s.port p).inBounds p → (s.port p).events < 256) : Keeps b s0 (State.formPkt s p code tag isEvent mandatory status params port) := by
  unfold State.formPkt
  extract_lets q k
  refine State.syncPort_keeps _ (setPort_keeps _ _ h fun hb => ⟨hb.1, hb.2.1, ?_⟩)
  have hx := hb.2.2
  simp only [PortSt.events, List.filter_append, List.length_append] at hx ⊢
  cases hev : isEvent with
  | false => simp [k, hev, q]; simpa [PortSt.events] using hx
  | true =>
    have := he hev hb
    simp only [PortSt.events] at this
    simp [k, hev, q]; omega

theorem State.queueEvent_keeps {b : Kept} {s0 s : State} (p code tag status : Nat) (params : List Byte) (h : Keeps b s0 s) : Keeps b s0 (State.queueEvent s p code tag status params) := by
  unfold State.queueEvent
  extract_lets q t
  have ht : Keeps b s0 t := setPort_keeps _ _ h fun hb => hb
  split
  · split
    · rename_i hq
      exact State.formPkt_keeps _ _ _ _ _ _ _ _ h fun _ _ => hq.1
    · exact setPort_keeps _ _ h fun hb => hb
  · split
    · exact h
    · split
      · rename_i hq
        exact State.formPkt_keeps _ _ _ _ _ _ _ _ h fun _ _ => hq.2
      · exact State.flag_keeps _ _ (State.inc_keeps _ ht)

theorem State.refillEvents_keeps {b : Kept} {s0 s : State} (p : Nat) (h : Keeps b s0 s) : Keeps b s0 (State.refillEvents s p) := by
  unfold State.refillEvents
  extract_lets q t
  have hp : ∀ x : PortSt, ((s.setPort p x).port p) = x := fun x => get_set_self _ _ _ _
  split
  · exact h
  · rename_i hq
    split
    · refine State.formPkt_keeps _ _ _ _ _ _ _ _ (setPort_keeps _ _ h fun hb => hb) fun _ _ => ?_
      show ((s.setPort p _).port p).events < 256
      rw [hp]
      exact Nat.lt_of_not_le hq
    · split
      · exact h
      · refine State.formPkt_keeps _ _ _ _ _ _ _ _ (setPort_keeps _ _ h fun hb => hb) fun _ _ => ?_
        rw [hp]
        exact Nat.lt_of_not_le hq

theorem State.raise_keeps {b : Kept} {s0 s : State} (code : Nat) (sc : Scope) (params : List Byte) (h : Keeps b s0 s) : Keeps b s0 (State.raise s code sc params) := by
  unfold State.raise
  repeat' (first | with_reducible assumption | (intro _; try beta_reduce) | with_reducible apply State.queueEvent_keeps | with_reducible apply each_keeps)

theorem State.commandDone_keeps {b : Kept} {s0 s : State} (d : DoneCmd) (status detail : Nat) (h : Keeps b s0 s) : Keeps b s0 (State.commandDone s d status detail) := by
  unfold State.commandDone
  repeat' (first | with_reducible assumption | with_reducible apply State.queueEvent_keeps)

theorem State.finish_keeps {b : Kept} {s0 s : State} (opcode status detail : Nat) (h : Keeps b s0 s) : Keeps b s0 (State.finish s opcode status detail) := by
  unfold State.finish
  repeat' (first | with_reducible assumption | with_reducible apply State.commandDone_keeps
                 | with_reducible exact mk_keeps (by assumption) rfl rfl rfl rfl rfl rfl rfl rfl rfl rfl rfl rfl | with_reducible apply ite_keeps | split)

theorem State.post_keeps {b : Kept} {s0 s : State} (code arg : Nat) (h : Keeps b s0 s) : Keeps b s0 (State.post s code arg) := by
  unfold State.post
  split
  · rename_i hl
    refine h.trans ⟨rfl, rfl, id, id, fun _ => ?_, id, Nat.le_refl _, fun _ => rfl, fun _ y => y, fun _ y => y, fun _ => ⟨rfl, rfl, rfl⟩⟩
    simp only [List.length_append, List.length_cons, List.length_nil]
    omega
  · exact State.flag_keeps _ _ (State.inc_keeps _ (mk_keeps h rfl rfl rfl rfl rfl rfl rfl rfl rfl rfl rfl rfl))

theorem State.postOnce_keeps {b : Kept} {s0 s : State} (code idx arg : Nat) (h : Keeps b s0 s) : Keeps b s0 (State.postOnce s code idx arg) := by
  unfold State.postOnce
  repeat' (first | with_reducible assumption | with_reducible apply State.post_keeps
                 | with_reducible exact mk_keeps (by assumption) rfl rfl rfl rfl rfl rfl rfl rfl rfl rfl rfl rfl | with_reducible apply ite_keeps | split)

theorem State.setRole_keeps {b : Kept} {s0 s : State} (p : Nat) (r : Role) (h : Keeps b s0 s) : Keeps b s0 (State.setRole s p r) := by
  unfold State.setRole
  repeat' (first | with_reducible assumption | with_reducible apply State.setF_keeps)

theorem State.setOwner_keeps {b : Kept} {s0 s : State} (new : Option Nat) (reason : Nat) (h : Keeps b s0 s) : Keeps b s0 (State.setOwner s new reason) := by
  unfold State.setOwner
  extract_lets old t1 t2 t3 b0
  have h1 : Keeps b s0 t1 := by
    show Keeps b s0 (match s.owner with | some p => s.setRole p (s.defaultRole p) | none => s)
    split
    · exact State.setRole_keeps _ _ h
    · exact h
  have h2 : Keeps b s0 t2 := by
    cases new with
                 | none => exact State.setBit_keeps _ _ _ (State.setF_keeps _ _ _ _ h1)
                 | some p => exact State.setBit_keeps _ _ _ (State.setF_keeps _ _ _ _ (State.setRole_keeps _ _ h1))
  exact State.raise_keeps _ _ _ (State.post_keeps _ _ (State.addF_keeps _ _ _ _ (State.setF_keeps _ _ _ _ h2)))

theorem State.setHealth_keeps {b : Kept} {s0 s : State} (i : Nat) (b' : Bool) (h : Keeps b s0 s) : Keeps b s0 (State.setHealth s i b') := by
  unfold State.setHealth
  repeat' (first | with_reducible assumption
                 | (extract_lets +onlyGivenNames t; refine Keeps.cut (t := t) ?_ ?_; subst t; rotate_left; clear_value t; revert t; intro _ _)
                 | (extract_lets +onlyGivenNames t; revert t; intro _) | with_reducible apply State.raise_keeps | with_reducible apply State.setBit_keeps
                 | with_reducible apply ite_keeps | split)

theorem State.ssnHold_keeps {b : Kept} {s0 s : State} (i : Nat) (b' : Bool) (h : Keeps b s0 s) : Keeps b s0 (State.ssnHold s i b') := by
  unfold State.ssnHold
  repeat' (first | with_reducible assumption | (intro _; try beta_reduce)
                 | (extract_lets +onlyGivenNames t; refine Keeps.cut (t := t) ?_ ?_; subst t; rotate_left; clear_value t; revert t; intro _ _)
                 | (extract_lets +onlyGivenNames t; revert t; intro _)
                 | with_reducible apply State.setBit_keeps
                 | with_reducible exact mk_keeps (by assumption) rfl rfl rfl rfl rfl rfl rfl rfl rfl rfl rfl rfl | with_reducible apply ite_keeps | split)

theorem State.ssnRelease_keeps {b : Kept} {s0 s : State} (h : Keeps b s0 s) : Keeps b s0 (State.ssnRelease s) := by
  unfold State.ssnRelease
  repeat' (first | with_reducible assumption | (intro _; try beta_reduce)
                 | (extract_lets +onlyGivenNames t; refine Keeps.cut (t := t) ?_ ?_; subst t; rotate_left; clear_value t; revert t; intro _ _)
                 | (extract_lets +onlyGivenNames t; revert t; intro _)
                 | with_reducible apply State.setBit_keeps
                 | with_reducible exact mk_keeps (by assumption) rfl rfl rfl rfl rfl rfl rfl rfl rfl rfl rfl rfl | with_reducible apply ite_keeps | split)

theorem State.eccCount_keeps {b : Kept} {s0 s : State} (x : Nat) (uncorrectable : Bool) (h : Keeps b s0 s) : Keeps b s0 (State.eccCount s x uncorrectable) := by
  unfold State.eccCount
  repeat' (first | with_reducible assumption | with_reducible apply State.addF_keeps | with_reducible apply State.post_keeps
                 | with_reducible apply State.setHealth_keeps | with_reducible apply ite_keeps | split)

theorem State.setSub_keeps {b : Kept} {s0 s : State} (ch : Nat) (u : Sub) (h : Keeps b s0 s) : Keeps b s0 (State.setSub s ch u) := by
  unfold State.setSub
  repeat' (first | with_reducible assumption | with_reducible exact mk_keeps (by assumption) rfl rfl rfl rfl rfl rfl rfl rfl rfl rfl rfl rfl)

theorem State.addEnded_keeps {b : Kept} {s0 s : State} (e : EndedLoss) (h : Keeps b s0 s) : Keeps b s0 (State.addEnded s e) := by
  unfold State.addEnded
  repeat' (first | with_reducible assumption | (intro _; try beta_reduce)
                 | (extract_lets +onlyGivenNames t; refine Keeps.cut (t := t) ?_ ?_; subst t; rotate_left; clear_value t; revert t; intro _ _)
                 | (extract_lets +onlyGivenNames t; revert t; intro _)
                 | with_reducible exact mk_keeps (by assumption) rfl rfl rfl rfl rfl rfl rfl rfl rfl rfl rfl rfl | with_reducible apply ite_keeps | split)

theorem State.addLoss_keeps {b : Kept} {s0 s : State} (records bytes : Nat) (h : Keeps b s0 s) : Keeps b s0 (State.addLoss s records bytes) := by
  unfold State.addLoss
  repeat' (first | with_reducible assumption | (intro _; try beta_reduce)
                 | (extract_lets +onlyGivenNames t; refine Keeps.cut (t := t) ?_ ?_; subst t; rotate_left; clear_value t; revert t; intro _ _)
                 | (extract_lets +onlyGivenNames t; revert t; intro _)
                 | with_reducible apply State.add_keeps | with_reducible apply State.flag_keeps
                 | with_reducible exact mk_keeps (by assumption) rfl rfl rfl rfl rfl rfl rfl rfl rfl rfl rfl rfl | with_reducible apply ite_keeps | split)

theorem State.countLoss_keeps {b : Kept} {s0 s : State} (ch cause records bytes : Nat) (back : Nat) (h : Keeps b s0 s) : Keeps b s0 (State.countLoss s ch cause records bytes back) := by
  unfold State.countLoss
  repeat' (first | with_reducible assumption | (intro _; try beta_reduce)
                 | (extract_lets +onlyGivenNames t; refine Keeps.cut (t := t) ?_ ?_; subst t; rotate_left; clear_value t; revert t; intro _ _)
                 | (extract_lets +onlyGivenNames t; revert t; intro _)
                 | with_reducible apply State.addEnded_keeps | with_reducible apply State.addLoss_keeps | with_reducible apply State.setSub_keeps
                 | with_reducible exact mk_keeps (by assumption) rfl rfl rfl rfl rfl rfl rfl rfl rfl rfl rfl rfl | with_reducible apply ite_keeps | split)

theorem State.dropOldest_keeps {b : Kept} {s0 s : State} (ch need n : Nat) (h : Keeps b s0 s) : Keeps b s0 (State.dropOldest s ch need n) := by
  induction n generalizing s with
  | zero => exact h
  | succ n ih =>
    unfold State.dropOldest
    repeat' (first | with_reducible assumption | (extract_lets +onlyGivenNames t; revert t; intro _) | with_reducible apply ih
                   | with_reducible apply State.countLoss_keeps | with_reducible apply State.setSub_keeps | split)

theorem State.placePkt_keeps {b : Kept} {s0 s : State} (ch : Nat) (k : StreamPkt) (h : Keeps b s0 s) : Keeps b s0 (State.placePkt s ch k) := by
  unfold State.placePkt
  repeat' (first | with_reducible assumption
                 | (extract_lets +onlyGivenNames t; refine Keeps.cut (t := t) ?_ ?_; subst t; rotate_left; clear_value t; revert t; intro _ _)
                 | (extract_lets +onlyGivenNames t; revert t; intro _) | with_reducible apply State.countLoss_keeps | with_reducible apply State.dropOldest_keeps
                 | with_reducible apply State.setSub_keeps | with_reducible exact mk_keeps (by assumption) rfl rfl rfl rfl rfl rfl rfl rfl rfl rfl rfl rfl
                 | with_reducible apply ite_keeps | split)

theorem State.setLane_keeps {b : Kept} {s0 s : State} (l : Nat) (x : LaneSt) (h : Keeps b s0 s) : Keeps b s0 (State.setLane s l x) := by
  unfold State.setLane
  repeat' (first | with_reducible assumption | with_reducible exact mk_keeps (by assumption) rfl rfl rfl rfl rfl rfl rfl rfl rfl rfl rfl rfl)

theorem State.sendPkt_keeps {b : Kept} {s0 s : State} (ch l : Nat) (k : StreamPkt) (h : Keeps b s0 s) : Keeps b s0 (State.sendPkt s ch l k) := by
  unfold State.sendPkt
  repeat' (first | with_reducible assumption | (intro _; try beta_reduce)
                 | (extract_lets +onlyGivenNames t; refine Keeps.cut (t := t) ?_ ?_; subst t; rotate_left; clear_value t; revert t; intro _ _)
                 | (extract_lets +onlyGivenNames t; revert t; intro _)
                 | with_reducible apply State.setLane_keeps | with_reducible apply State.setSub_keeps
                 | with_reducible exact mk_keeps (by assumption) rfl rfl rfl rfl rfl rfl rfl rfl rfl rfl rfl rfl | with_reducible apply ite_keeps | split)

theorem State.movePkt_keeps {b : Kept} {s0 s : State} (ch : Nat) (h : Keeps b s0 s) : Keeps b s0 (State.movePkt s ch) := by
  unfold State.movePkt
  repeat' (first | with_reducible assumption | (intro _; try beta_reduce)
                 | (extract_lets +onlyGivenNames t; refine Keeps.cut (t := t) ?_ ?_; subst t; rotate_left; clear_value t; revert t; intro _ _)
                 | (extract_lets +onlyGivenNames t; revert t; intro _)
                 | with_reducible apply State.sendPkt_keeps | with_reducible apply State.setSub_keeps
                 | with_reducible exact mk_keeps (by assumption) rfl rfl rfl rfl rfl rfl rfl rfl rfl rfl rfl rfl | with_reducible apply ite_keeps | split)

theorem State.setDma_keeps {b : Kept} {s0 s : State} (n : Nat) (c : DmaCh) (h : Keeps b s0 s) : Keeps b s0 (State.setDma s n c) := by
  unfold State.setDma
  repeat' (first | with_reducible assumption | with_reducible exact mk_keeps (by assumption) rfl rfl rfl rfl rfl rfl rfl rfl rfl rfl rfl rfl)

theorem State.finishMove_keeps {b : Kept} {s0 s : State} (ch : Nat) (h : Keeps b s0 s) : Keeps b s0 (State.finishMove s ch) := by
  unfold State.finishMove
  repeat' (first | with_reducible assumption | (intro _; try beta_reduce)
                 | (extract_lets +onlyGivenNames t; refine Keeps.cut (t := t) ?_ ?_; subst t; rotate_left; clear_value t; revert t; intro _ _)
                 | (extract_lets +onlyGivenNames t; revert t; intro _)
                 | with_reducible apply State.movePkt_keeps | with_reducible apply State.setDma_keeps
                 | with_reducible exact mk_keeps (by assumption) rfl rfl rfl rfl rfl rfl rfl rfl rfl rfl rfl rfl | with_reducible apply ite_keeps | split)

theorem State.endSub_keeps {b : Kept} {s0 s : State} (ch : Nat) (h : Keeps b s0 s) : Keeps b s0 (State.endSub s ch) := by
  unfold State.endSub
  repeat' (first | with_reducible assumption | (intro _; try beta_reduce)
                 | (extract_lets +onlyGivenNames t; refine Keeps.cut (t := t) ?_ ?_; subst t; rotate_left; clear_value t; revert t; intro _ _)
                 | (extract_lets +onlyGivenNames t; revert t; intro _)
                 | with_reducible apply State.addEnded_keeps | with_reducible apply State.setSub_keeps
                 | with_reducible exact mk_keeps (by assumption) rfl rfl rfl rfl rfl rfl rfl rfl rfl rfl rfl rfl | with_reducible apply ite_keeps | split)

theorem State.endPortSubs_keeps {b : Kept} {s0 s : State} (p : Nat) (h : Keeps b s0 s) : Keeps b s0 (State.endPortSubs s p) := by
  unfold State.endPortSubs
  repeat' (first | with_reducible assumption | (intro _; try beta_reduce)
                 | (extract_lets +onlyGivenNames t; refine Keeps.cut (t := t) ?_ ?_; subst t; rotate_left; clear_value t; revert t; intro _ _)
                 | (extract_lets +onlyGivenNames t; revert t; intro _)
                 | with_reducible apply State.countLoss_keeps | with_reducible apply State.endSub_keeps | with_reducible apply State.finishMove_keeps
                 | with_reducible apply each_keeps
                 | with_reducible exact mk_keeps (by assumption) rfl rfl rfl rfl rfl rfl rfl rfl rfl rfl rfl rfl | with_reducible apply ite_keeps | split)

theorem State.endAllSubs_keeps {b : Kept} {s0 s : State} (h : Keeps b s0 s) : Keeps b s0 (State.endAllSubs s) := by
  unfold State.endAllSubs
  repeat' (first | with_reducible assumption | (intro _; try beta_reduce)
                 | (extract_lets +onlyGivenNames t; refine Keeps.cut (t := t) ?_ ?_; subst t; rotate_left; clear_value t; revert t; intro _ _)
                 | (extract_lets +onlyGivenNames t; revert t; intro _)
                 | with_reducible apply State.setSub_keeps | with_reducible apply each_keeps
                 | with_reducible exact mk_keeps (by assumption) rfl rfl rfl rfl rfl rfl rfl rfl rfl rfl rfl rfl | with_reducible apply ite_keeps | split)

theorem State.snapshot_keeps {b : Kept} {s0 s : State} (p : Nat) (h : Keeps b s0 s) : Keeps b s0 (State.snapshot s p) := by
  unfold State.snapshot
  repeat' (first | with_reducible assumption | (intro _; try beta_reduce) | with_reducible apply State.placePkt_keeps | with_reducible apply each_keeps)

theorem State.setHalted_keeps {b : Kept} {s0 s : State} (n : Nat) (b' : Bool) (h : Keeps b s0 s) : Keeps b s0 (State.setHalted s n b') := by
  unfold State.setHalted
  repeat' (first | with_reducible assumption | with_reducible apply State.setBit_keeps | with_reducible apply ite_keeps | split)

theorem State.setSpaceByte_keeps {b : Kept} {s0 s : State} (space unit a : Nat) (v : Byte) (h : Keeps b s0 s) : Keeps b s0 (State.setSpaceByte s space unit a v) := by
  unfold State.setSpaceByte
  repeat' (first | with_reducible assumption | (intro _; try beta_reduce)
                 | (extract_lets +onlyGivenNames t; refine Keeps.cut (t := t) ?_ ?_; subst t; rotate_left; clear_value t; revert t; intro _ _)
                 | (extract_lets +onlyGivenNames t; revert t; intro _)
                 | with_reducible exact mk_keeps (by assumption) rfl rfl rfl rfl rfl rfl rfl rfl rfl rfl rfl rfl | with_reducible apply ite_keeps | split)

theorem State.putDram_keeps {b : Kept} {s0 s : State} (a : Nat) (bs : List Byte) (h : Keeps b s0 s) : Keeps b s0 (State.putDram s a bs) := by
  unfold State.putDram
  repeat' (first | with_reducible assumption | (intro _; try beta_reduce)
                 | (extract_lets +onlyGivenNames t; refine Keeps.cut (t := t) ?_ ?_; subst t; rotate_left; clear_value t; revert t; intro _ _)
                 | (extract_lets +onlyGivenNames t; revert t; intro _)
                 | with_reducible apply State.setSpaceByte_keeps | with_reducible apply each_keeps
                 | with_reducible exact mk_keeps (by assumption) rfl rfl rfl rfl rfl rfl rfl rfl rfl rfl rfl rfl | with_reducible apply ite_keeps | split)

theorem State.putDesc_keeps {b : Kept} {s0 s : State} (a o : Nat) (bs : List Byte) (h : Keeps b s0 s) : Keeps b s0 (State.putDesc s a o bs) := by
  unfold State.putDesc
  repeat' (first | with_reducible assumption | (intro _; try beta_reduce)
                 | (extract_lets +onlyGivenNames t; refine Keeps.cut (t := t) ?_ ?_; subst t; rotate_left; clear_value t; revert t; intro _ _)
                 | (extract_lets +onlyGivenNames t; revert t; intro _)
                 | with_reducible apply State.putDram_keeps
                 | with_reducible exact mk_keeps (by assumption) rfl rfl rfl rfl rfl rfl rfl rfl rfl rfl rfl rfl | with_reducible apply ite_keeps | split)

theorem State.setDescStatus_keeps {b : Kept} {s0 s : State} (a v : Nat) (h : Keeps b s0 s) : Keeps b s0 (State.setDescStatus s a v) := by
  unfold State.setDescStatus
  repeat' (first | with_reducible assumption | (intro _; try beta_reduce)
                 | (extract_lets +onlyGivenNames t; refine Keeps.cut (t := t) ?_ ?_; subst t; rotate_left; clear_value t; revert t; intro _ _)
                 | (extract_lets +onlyGivenNames t; revert t; intro _)
                 | with_reducible apply State.putDesc_keeps
                 | with_reducible exact mk_keeps (by assumption) rfl rfl rfl rfl rfl rfl rfl rfl rfl rfl rfl rfl | with_reducible apply ite_keeps | split)

theorem State.haltDma_keeps {b : Kept} {s0 s : State} (n a code : Nat) (h : Keeps b s0 s) : Keeps b s0 (State.haltDma s n a code) := by
  unfold State.haltDma
  repeat' (first | with_reducible assumption | (intro _; try beta_reduce)
                 | (extract_lets +onlyGivenNames t; refine Keeps.cut (t := t) ?_ ?_; subst t; rotate_left; clear_value t; revert t; intro _ _)
                 | (extract_lets +onlyGivenNames t; revert t; intro _)
                 | with_reducible apply State.finish_keeps | with_reducible apply State.flag_keeps | with_reducible apply State.post_keeps
                 | with_reducible apply State.raise_keeps | with_reducible apply State.setDescStatus_keeps | with_reducible apply State.setDma_keeps
                 | with_reducible apply State.setF_keeps | with_reducible apply State.setHalted_keeps
                 | with_reducible exact mk_keeps (by assumption) rfl rfl rfl rfl rfl rfl rfl rfl rfl rfl rfl rfl | with_reducible apply ite_keeps | split)

theorem State.noDram_keeps {b : Kept} {s0 s : State} (n a : Nat) (h : Keeps b s0 s) : Keeps b s0 (State.noDram s n a) := by
  unfold State.noDram
  repeat' (first | with_reducible assumption | with_reducible apply State.haltDma_keeps | with_reducible apply State.setF_keeps)

theorem State.fetchDesc_keeps {b : Kept} {s0 s : State} (n a : Nat) (h : Keeps b s0 s) : Keeps b s0 (State.fetchDesc s n a) := by
  unfold State.fetchDesc
  repeat' (first | with_reducible assumption | (intro _; try beta_reduce)
                 | (extract_lets +onlyGivenNames t; refine Keeps.cut (t := t) ?_ ?_; subst t; rotate_left; clear_value t; revert t; intro _ _)
                 | (extract_lets +onlyGivenNames t; revert t; intro _)
                 | with_reducible apply State.haltDma_keeps | with_reducible apply State.noDram_keeps | with_reducible apply State.setDma_keeps
                 | with_reducible apply State.setF_keeps | with_reducible apply State.setR_keeps
                 | with_reducible exact mk_keeps (by assumption) rfl rfl rfl rfl rfl rfl rfl rfl rfl rfl rfl rfl | with_reducible apply ite_keeps | split)

theorem State.followNext_keeps {b : Kept} {s0 s : State} (n next : Nat) (h : Keeps b s0 s) : Keeps b s0 (State.followNext s n next) := by
  unfold State.followNext
  repeat' (first | with_reducible assumption | with_reducible apply State.fetchDesc_keeps | with_reducible apply State.setF_keeps | with_reducible apply ite_keeps
                 | split)

theorem State.popOut_keeps {b : Kept} {s0 s : State} (p : Nat) (h : Keeps b s0 s) : Keeps b s0 (State.popOut s p) := by
  unfold State.popOut
  extract_lets q
  split
  · exact h
  · rename_i k ks he
    extract_lets t
    have ht : Keeps b s0 t := by
      refine State.syncPort_keeps _ (setPort_keeps _ _ h fun hb => ⟨hb.1, hb.2.1, ?_⟩)
      refine Nat.le_trans ?_ hb.2.2
      simp only [PortSt.events]
      rw [show (s.port p).out = k :: ks from he]
      exact ((List.sublist_cons_self k ks).filter _).length_le
    split
    · exact State.refillEvents_keeps _ (State.refillEvents_keeps _ ht)
    · exact ht

theorem State.seqBack_keeps {b : Kept} {s0 s : State} (p : Nat) (h : Keeps b s0 s) : Keeps b s0 (State.seqBack s p) := by
  unfold State.seqBack
  refine State.syncPort_keeps _ (setPort_keeps _ _ h fun hb => ⟨hb.1, hb.2.1, ?_⟩)
  have he : ((s.port p).out.map fun k => { k with seq := (k.seq + 65535) % 65536 }).filter (·.isEvent) =
      ((s.port p).out.filter (·.isEvent)).map fun k => { k with seq := (k.seq + 65535) % 65536 } := by
    rw [List.filter_map]; rfl
  have := hb.2.2
  simp only [PortSt.events] at this ⊢
  rw [he, List.length_map]
  exact this

theorem State.loseFailed_keeps {b : Kept} {s0 s : State} (n : Nat) (h : Keeps b s0 s) : Keeps b s0 (State.loseFailed s n) := by
  unfold State.loseFailed
  repeat' (first | with_reducible assumption | (intro _; try beta_reduce)
                 | (extract_lets +onlyGivenNames t; refine Keeps.cut (t := t) ?_ ?_; subst t; rotate_left; clear_value t; revert t; intro _ _)
                 | (extract_lets +onlyGivenNames t; revert t; intro _)
                 | with_reducible apply State.addLoss_keeps | with_reducible apply State.countLoss_keeps | with_reducible apply State.popOut_keeps
                 | with_reducible apply State.seqBack_keeps | with_reducible apply State.setSub_keeps
                 | with_reducible exact mk_keeps (by assumption) rfl rfl rfl rfl rfl rfl rfl rfl rfl rfl rfl rfl | with_reducible apply ite_keeps | split)

theorem State.restartDma_keeps {b : Kept} {s0 s : State} (n : Nat) (skip : Bool) (h : Keeps b s0 s) : Keeps b s0 (State.restartDma s n skip) := by
  unfold State.restartDma
  repeat' (first | with_reducible assumption | (intro _; try beta_reduce)
                 | (extract_lets +onlyGivenNames t; refine Keeps.cut (t := t) ?_ ?_; subst t; rotate_left; clear_value t; revert t; intro _ _)
                 | (extract_lets +onlyGivenNames t; revert t; intro _)
                 | with_reducible apply State.fetchDesc_keeps | with_reducible apply State.followNext_keeps | with_reducible apply State.loseFailed_keeps
                 | with_reducible apply State.setF_keeps | with_reducible apply State.setHalted_keeps
                 | with_reducible exact mk_keeps (by assumption) rfl rfl rfl rfl rfl rfl rfl rfl rfl rfl rfl rfl | with_reducible apply ite_keeps | split)

theorem State.autoRestartDma_keeps {b : Kept} {s0 s : State} (n : Nat) (h : Keeps b s0 s) : Keeps b s0 (State.autoRestartDma s n) := by
  unfold State.autoRestartDma
  repeat' (first | with_reducible assumption | (intro _; try beta_reduce)
                 | (extract_lets +onlyGivenNames t; refine Keeps.cut (t := t) ?_ ?_; subst t; rotate_left; clear_value t; revert t; intro _ _)
                 | (extract_lets +onlyGivenNames t; revert t; intro _)
                 | with_reducible apply State.restartDma_keeps
                 | with_reducible exact mk_keeps (by assumption) rfl rfl rfl rfl rfl rfl rfl rfl rfl rfl rfl rfl | with_reducible apply ite_keeps | split)

theorem State.sendReply_keeps {b : Kept} {s0 s : State} (p opcode tag status : Nat) (params : List Byte) (port : Nat) (h : Keeps b s0 s) : Keeps b s0 (State.sendReply s p opcode tag status params port) := by
  unfold State.sendReply
  refine when_keeps _ _ (when_keeps _ _ (when_keeps _ _ (when_keeps _ _ (State.formPkt_keeps _ _ _ _ _ _ _ _ h fun he => nomatch he) ?_) ?_) ?_) ?_
  · exact fun t ht => State.flag_keeps _ _ ht
  · exact fun t ht => State.flag_keeps _ _ ht
  · exact fun t ht => State.post_keeps _ _ ht
  · exact fun t ht => State.inc_keeps _ ht

theorem State.keepReply_keeps {b : Kept} {s0 s : State} (p : Nat) (k : KeptReply) (h : Keeps b s0 s) : Keeps b s0 (State.keepReply s p k) := by
  unfold State.keepReply
  extract_lets q l
  refine setPort_keeps _ _ h fun hb => ⟨hb.1, ?_, hb.2.2⟩
  simp only [List.length_drop]
  omega

theorem State.answer_keeps {b : Kept} {s0 s : State} (p opcode tag status : Nat) (params : List Byte) (port : Nat) (h : Keeps b s0 s) : Keeps b s0 (State.answer s p opcode tag status params port) := by
  unfold State.answer
  repeat' (first | with_reducible assumption | (intro _; try beta_reduce)
                 | (extract_lets +onlyGivenNames t; refine Keeps.cut (t := t) ?_ ?_; subst t; rotate_left; clear_value t; revert t; intro _ _)
                 | (extract_lets +onlyGivenNames t; revert t; intro _)
                 | with_reducible apply State.keepReply_keeps | with_reducible apply State.sendReply_keeps
                 | with_reducible exact mk_keeps (by assumption) rfl rfl rfl rfl rfl rfl rfl rfl rfl rfl rfl rfl | with_reducible apply ite_keeps | split)

theorem State.sendAborted_keeps {b : Kept} {s0 s : State} (p : Nat) (c : QCmd) (h : Keeps b s0 s) : Keeps b s0 (State.sendAborted s p c) := by
  unfold State.sendAborted
  repeat' (first | with_reducible assumption | (intro _; try beta_reduce)
                 | (extract_lets +onlyGivenNames t; refine Keeps.cut (t := t) ?_ ?_; subst t; rotate_left; clear_value t; revert t; intro _ _)
                 | (extract_lets +onlyGivenNames t; revert t; intro _)
                 | with_reducible apply State.sendReply_keeps
                 | with_reducible exact mk_keeps (by assumption) rfl rfl rfl rfl rfl rfl rfl rfl rfl rfl rfl rfl | with_reducible apply ite_keeps | split)

theorem State.abortQueues_keeps {b : Kept} {s0 s : State} (h : Keeps b s0 s) : Keeps b s0 (State.abortQueues s) := by
  unfold State.abortQueues
  refine ite_keeps h (each_keeps _ _ h fun t p ht => ?_)
  refine each_keeps _ _ (State.syncPort_keeps _ (setPort_keeps _ _ ht fun hb => ⟨?_, hb.2⟩)) fun u c hu => State.sendAborted_keeps _ _ hu
  simp only [List.length_map]
  exact Nat.le_trans (List.dropWhile_sublist _).length_le hb.1

theorem State.roleFell_keeps {b : Kept} {s0 s : State} (p : Nat) (h : Keeps b s0 s) : Keeps b s0 (State.roleFell s p) := by
  unfold State.roleFell
  repeat' (first | with_reducible assumption | with_reducible apply State.endPortSubs_keeps | with_reducible apply ite_keeps | split)

theorem State.endUpdate_keeps {b : Kept} {s0 s : State} (h : Keeps b s0 s) : Keeps b s0 (State.endUpdate s) := by
  unfold State.endUpdate
  repeat' (first | with_reducible assumption | with_reducible apply State.finish_keeps | with_reducible apply State.setR_keeps
                 | with_reducible exact mk_keeps (by assumption) rfl rfl rfl rfl rfl rfl rfl rfl rfl rfl rfl rfl | with_reducible apply ite_keeps | split)

theorem State.changeOwner_keeps {b : Kept} {s0 s : State} (new : Option Nat) (reason : Nat) (h : Keeps b s0 s) : Keeps b s0 (State.changeOwner s new reason) := by
  unfold State.changeOwner
  extract_lets old t
  have ht : Keeps b s0 t := State.setOwner_keeps _ _ h
  clear_value t old
  split
  · exact State.endUpdate_keeps (State.roleFell_keeps _ ht)
  · exact ht

theorem State.setCap_keeps {b : Kept} {s0 s : State} (c : Cap) (h : Keeps b s0 s) : Keeps b s0 (State.setCap s c) := by
  unfold State.setCap
  repeat' (first | with_reducible assumption | with_reducible exact mk_keeps (by assumption) rfl rfl rfl rfl rfl rfl rfl rfl rfl rfl rfl rfl)

theorem State.setCapSt_keeps {b : Kept} {s0 s : State} (v : Nat) (h : Keeps b s0 s) : Keeps b s0 (State.setCapSt s v) := by
  unfold State.setCapSt
  repeat' (first | with_reducible assumption | with_reducible apply State.setF_keeps)

theorem State.setCapSlot_keeps {b : Kept} {s0 s : State} (i : Nat) (x : CapSlot) (h : Keeps b s0 s) : Keeps b s0 (State.setCapSlot s i x) := by
  unfold State.setCapSlot
  repeat' (first | with_reducible assumption | (intro _; try beta_reduce)
                 | (extract_lets +onlyGivenNames t; refine Keeps.cut (t := t) ?_ ?_; subst t; rotate_left; clear_value t; revert t; intro _ _)
                 | (extract_lets +onlyGivenNames t; revert t; intro _) | with_reducible apply State.setCap_keeps | with_reducible apply State.setF_keeps
                 | with_reducible exact mk_keeps (by assumption) rfl rfl rfl rfl rfl rfl rfl rfl rfl rfl rfl rfl)

theorem State.capOffer_keeps {b : Kept} {s0 s : State} (l : List CapIn) (h : Keeps b s0 s) : Keeps b s0 (State.capOffer s l) := by
  unfold State.capOffer
  repeat' (first | with_reducible assumption | (intro _; try beta_reduce)
                 | (extract_lets +onlyGivenNames t; refine Keeps.cut (t := t) ?_ ?_; subst t; rotate_left; clear_value t; revert t; intro _ _)
                 | (extract_lets +onlyGivenNames t; revert t; intro _)
                 | with_reducible apply State.setCap_keeps | with_reducible apply foldl_keeps
                 | with_reducible exact mk_keeps (by assumption) rfl rfl rfl rfl rfl rfl rfl rfl rfl rfl rfl rfl | with_reducible apply ite_keeps | split)

theorem State.storeItem_keeps {b : Kept} {s0 s : State} (b' : List Byte) (h : Keeps b s0 s) : Keeps b s0 (State.storeItem s b') := by
  unfold State.storeItem
  repeat' (first | with_reducible assumption | (intro _; try beta_reduce)
                 | (extract_lets +onlyGivenNames t; refine Keeps.cut (t := t) ?_ ?_; subst t; rotate_left; clear_value t; revert t; intro _ _)
                 | (extract_lets +onlyGivenNames t; revert t; intro _)
                 | with_reducible apply State.setCap_keeps | with_reducible apply State.setCapSlot_keeps
                 | with_reducible exact mk_keeps (by assumption) rfl rfl rfl rfl rfl rfl rfl rfl rfl rfl rfl rfl | with_reducible apply ite_keeps | split)

theorem State.storeTime_keeps {b : Kept} {s0 s : State} (h : Keeps b s0 s) : Keeps b s0 (State.storeTime s) := by
  unfold State.storeTime
  repeat' (first | with_reducible assumption
                 | (extract_lets +onlyGivenNames t; refine Keeps.cut (t := t) ?_ ?_; subst t; rotate_left; clear_value t; revert t; intro _ _)
                 | (extract_lets +onlyGivenNames t; revert t; intro _) | with_reducible apply State.setCap_keeps | with_reducible apply State.storeItem_keeps
                 | with_reducible exact mk_keeps (by assumption) rfl rfl rfl rfl rfl rfl rfl rfl rfl rfl rfl rfl)

theorem State.storeGap_keeps {b : Kept} {s0 s : State} (h : Keeps b s0 s) : Keeps b s0 (State.storeGap s) := by
  unfold State.storeGap
  repeat' (first | with_reducible assumption | (intro _; try beta_reduce)
                 | (extract_lets +onlyGivenNames t; refine Keeps.cut (t := t) ?_ ?_; subst t; rotate_left; clear_value t; revert t; intro _ _)
                 | (extract_lets +onlyGivenNames t; revert t; intro _)
                 | with_reducible apply State.add_keeps | with_reducible apply State.flag_keeps | with_reducible apply State.inc_keeps
                 | with_reducible apply State.setCap_keeps | with_reducible apply State.storeItem_keeps | with_reducible apply State.storeTime_keeps
                 | with_reducible exact mk_keeps (by assumption) rfl rfl rfl rfl rfl rfl rfl rfl rfl rfl rfl rfl | with_reducible apply ite_keeps | split)

theorem State.capLoss_keeps {b : Kept} {s0 s : State} (cause lost since : Nat) (h : Keeps b s0 s) : Keeps b s0 (State.capLoss s cause lost since) := by
  unfold State.capLoss
  repeat' (first | with_reducible assumption | (intro _; try beta_reduce)
                 | (extract_lets +onlyGivenNames t; refine Keeps.cut (t := t) ?_ ?_; subst t; rotate_left; clear_value t; revert t; intro _ _)
                 | (extract_lets +onlyGivenNames t; revert t; intro _)
                 | with_reducible apply State.setCap_keeps | with_reducible apply State.storeGap_keeps
                 | with_reducible exact mk_keeps (by assumption) rfl rfl rfl rfl rfl rfl rfl rfl rfl rfl rfl rfl | with_reducible apply ite_keeps | split)

theorem State.takeItem_keeps {b : Kept} {s0 s : State} (fault : Nat) (b' : List Byte) (h : Keeps b s0 s) : Keeps b s0 (State.takeItem s fault b') := by
  unfold State.takeItem
  repeat' (first | with_reducible assumption | (intro _; try beta_reduce)
                 | (extract_lets +onlyGivenNames t; refine Keeps.cut (t := t) ?_ ?_; subst t; rotate_left; clear_value t; revert t; intro _ _)
                 | (extract_lets +onlyGivenNames t; revert t; intro _)
                 | with_reducible apply State.capLoss_keeps | with_reducible apply State.storeGap_keeps | with_reducible apply State.storeItem_keeps
                 | with_reducible exact mk_keeps (by assumption) rfl rfl rfl rfl rfl rfl rfl rfl rfl rfl rfl rfl | with_reducible apply ite_keeps | split)

theorem State.armCapture_keeps {b : Kept} {s0 s : State} (h : Keeps b s0 s) : Keeps b s0 (State.armCapture s) := by
  unfold State.armCapture
  repeat' (first | with_reducible assumption | (intro _; try beta_reduce)
                 | (extract_lets +onlyGivenNames t; refine Keeps.cut (t := t) ?_ ?_; subst t; rotate_left; clear_value t; revert t; intro _ _)
                 | (extract_lets +onlyGivenNames t; revert t; intro _)
                 | with_reducible apply State.flag_keeps | with_reducible apply State.setCap_keeps | with_reducible apply State.setCapSlot_keeps
                 | with_reducible apply State.setCapSt_keeps | with_reducible apply State.storeTime_keeps
                 | with_reducible exact mk_keeps (by assumption) rfl rfl rfl rfl rfl rfl rfl rfl rfl rfl rfl rfl | with_reducible apply ite_keeps | split)

theorem State.captureDone_keeps {b : Kept} {s0 s : State} (slot dead : Nat) (h : Keeps b s0 s) : Keeps b s0 (State.captureDone s slot dead) := by
  unfold State.captureDone
  repeat' (first | with_reducible assumption | with_reducible apply State.raise_keeps)

theorem State.recordDead_keeps {b : Kept} {s0 s : State} (slot : Nat) (h : Keeps b s0 s) : Keeps b s0 (State.recordDead s slot) := by
  unfold State.recordDead
  repeat' (first | with_reducible assumption
                 | (extract_lets +onlyGivenNames t; refine Keeps.cut (t := t) ?_ ?_; subst t; rotate_left; clear_value t; revert t; intro _ _)
                 | (extract_lets +onlyGivenNames t; revert t; intro _) | with_reducible apply State.captureDone_keeps | with_reducible apply State.setCapSlot_keeps
                 | with_reducible apply State.setR_keeps | with_reducible exact mk_keeps (by assumption) rfl rfl rfl rfl rfl rfl rfl rfl rfl rfl rfl rfl)

theorem State.closeSlot_keeps {b : Kept} {s0 s : State} (truncated : Bool) (h : Keeps b s0 s) : Keeps b s0 (State.closeSlot s truncated) := by
  unfold State.closeSlot
  repeat' (first | with_reducible assumption
                 | (extract_lets +onlyGivenNames t; refine Keeps.cut (t := t) ?_ ?_; subst t; rotate_left; clear_value t; revert t; intro _ _)
                 | (extract_lets +onlyGivenNames t; revert t; intro _) | with_reducible apply State.flag_keeps | with_reducible apply State.inc_keeps
                 | with_reducible apply State.setCapSlot_keeps | with_reducible exact mk_keeps (by assumption) rfl rfl rfl rfl rfl rfl rfl rfl rfl rfl rfl rfl
                 | with_reducible apply ite_keeps | split)

theorem State.rearmAfter_keeps {b : Kept} {s0 s : State} (slot : Nat) (h : Keeps b s0 s) : Keeps b s0 (State.rearmAfter s slot) := by
  unfold State.rearmAfter
  repeat' (first | with_reducible assumption | (intro _; try beta_reduce)
                 | (extract_lets +onlyGivenNames t; refine Keeps.cut (t := t) ?_ ?_; subst t; rotate_left; clear_value t; revert t; intro _ _)
                 | (extract_lets +onlyGivenNames t; revert t; intro _)
                 | with_reducible apply State.armCapture_keeps | with_reducible apply State.recordDead_keeps | with_reducible apply State.setCap_keeps
                 | with_reducible exact mk_keeps (by assumption) rfl rfl rfl rfl rfl rfl rfl rfl rfl rfl rfl rfl | with_reducible apply ite_keeps | split)

theorem State.rearm_keeps {b : Kept} {s0 s : State} (h : Keeps b s0 s) : Keeps b s0 (State.rearm s) := by
  unfold State.rearm
  repeat' (first | with_reducible assumption | (intro _; try beta_reduce)
                 | (extract_lets +onlyGivenNames t; refine Keeps.cut (t := t) ?_ ?_; subst t; rotate_left; clear_value t; revert t; intro _ _)
                 | (extract_lets +onlyGivenNames t; revert t; intro _)
                 | with_reducible apply State.armCapture_keeps | with_reducible apply State.rearmAfter_keeps | with_reducible apply State.setCap_keeps
                 | with_reducible exact mk_keeps (by assumption) rfl rfl rfl rfl rfl rfl rfl rfl rfl rfl rfl rfl | with_reducible apply ite_keeps | split)

theorem State.missTrigger_keeps {b : Kept} {s0 s : State} (slot time : Nat) (h : Keeps b s0 s) : Keeps b s0 (State.missTrigger s slot time) := by
  unfold State.missTrigger
  repeat' (first | with_reducible assumption | (intro _; try beta_reduce)
                 | (extract_lets +onlyGivenNames t; refine Keeps.cut (t := t) ?_ ?_; subst t; rotate_left; clear_value t; revert t; intro _ _)
                 | (extract_lets +onlyGivenNames t; revert t; intro _)
                 | with_reducible apply State.flag_keeps | with_reducible apply State.inc_keeps | with_reducible apply State.setCapSlot_keeps
                 | with_reducible exact mk_keeps (by assumption) rfl rfl rfl rfl rfl rfl rfl rfl rfl rfl rfl rfl | with_reducible apply ite_keeps | split)

theorem State.trigger_keeps {b : Kept} {s0 s : State} (src detail time : Nat) (h : Keeps b s0 s) : Keeps b s0 (State.trigger s src detail time) := by
  unfold State.trigger
  repeat' (first | with_reducible assumption | (intro _; try beta_reduce)
                 | (extract_lets +onlyGivenNames t; refine Keeps.cut (t := t) ?_ ?_; subst t; rotate_left; clear_value t; revert t; intro _ _)
                 | (extract_lets +onlyGivenNames t; revert t; intro _)
                 | with_reducible apply State.flag_keeps | with_reducible apply State.missTrigger_keeps | with_reducible apply State.setCap_keeps
                 | with_reducible apply State.setCapSlot_keeps | with_reducible apply State.setCapSt_keeps
                 | with_reducible exact mk_keeps (by assumption) rfl rfl rfl rfl rfl rfl rfl rfl rfl rfl rfl rfl | with_reducible apply ite_keeps | split)

theorem State.faultTrigger_keeps {b : Kept} {s0 s : State} (cause : Nat) (h : Keeps b s0 s) : Keeps b s0 (State.faultTrigger s cause) := by
  unfold State.faultTrigger
  repeat' (first | with_reducible assumption | with_reducible apply State.trigger_keeps)

theorem State.captureArm_keeps {b : Kept} {s0 s : State} (h : Keeps b s0 s) : Keeps b s0 (State.captureArm s) := by
  unfold State.captureArm
  repeat' (first | with_reducible assumption | (intro _; try beta_reduce)
                 | (extract_lets +onlyGivenNames t; refine Keeps.cut (t := t) ?_ ?_; subst t; rotate_left; clear_value t; revert t; intro _ _)
                 | (extract_lets +onlyGivenNames t; revert t; intro _)
                 | with_reducible apply State.armCapture_keeps | with_reducible apply State.closeSlot_keeps | with_reducible apply State.rearm_keeps
                 | with_reducible apply State.rearmAfter_keeps | with_reducible apply State.setCapSlot_keeps | with_reducible apply State.storeGap_keeps
                 | with_reducible exact mk_keeps (by assumption) rfl rfl rfl rfl rfl rfl rfl rfl rfl rfl rfl rfl | with_reducible apply ite_keeps | split)

theorem State.captureStop_keeps {b : Kept} {s0 s : State} (h : Keeps b s0 s) : Keeps b s0 (State.captureStop s) := by
  unfold State.captureStop
  repeat' (first | with_reducible assumption
                 | (extract_lets +onlyGivenNames t; refine Keeps.cut (t := t) ?_ ?_; subst t; rotate_left; clear_value t; revert t; intro _ _)
                 | (extract_lets +onlyGivenNames t; revert t; intro _) | with_reducible apply State.captureDone_keeps | with_reducible apply State.closeSlot_keeps
                 | with_reducible apply State.setCap_keeps | with_reducible apply State.setCapSlot_keeps | with_reducible apply State.setCapSt_keeps
                 | with_reducible apply State.storeGap_keeps | with_reducible exact mk_keeps (by assumption) rfl rfl rfl rfl rfl rfl rfl rfl rfl rfl rfl rfl
                 | with_reducible apply ite_keeps | split)

theorem State.captureFree_keeps {b : Kept} {s0 s : State} (i : Nat) (h : Keeps b s0 s) : Keeps b s0 (State.captureFree s i) := by
  unfold State.captureFree
  repeat' (first | with_reducible assumption | (intro _; try beta_reduce)
                 | (extract_lets +onlyGivenNames t; refine Keeps.cut (t := t) ?_ ?_; subst t; rotate_left; clear_value t; revert t; intro _ _)
                 | (extract_lets +onlyGivenNames t; clear_value t; revert t; intro _)
                 | with_reducible apply State.armCapture_keeps | with_reducible apply State.rearmAfter_keeps
                 | with_reducible apply State.recordDead_keeps | with_reducible apply State.setCap_keeps | with_reducible apply State.setCapSlot_keeps
                 | with_reducible exact mk_keeps (by assumption) rfl rfl rfl rfl rfl rfl rfl rfl rfl rfl rfl rfl | with_reducible apply ite_keeps | split)

theorem State.discardCaptures_keeps {b : Kept} {s0 s : State} (h : Keeps b s0 s) : Keeps b s0 (State.discardCaptures s) := by
  unfold State.discardCaptures
  repeat' (first | with_reducible assumption | with_reducible apply State.setCap_keeps | with_reducible apply State.setR_keeps)

theorem State.setSctBank_keeps {b : Kept} {s0 s : State} (bank : Nat) (t' : Tbl (List Byte)) (h : Keeps b s0 s) : Keeps b s0 (State.setSctBank s bank t') := by
  unfold State.setSctBank
  repeat' (first | with_reducible assumption | with_reducible exact mk_keeps (by assumption) rfl rfl rfl rfl rfl rfl rfl rfl rfl rfl rfl rfl
                 | with_reducible apply ite_keeps | split)

theorem State.syncTrackCount_keeps {b : Kept} {s0 s : State} (h : Keeps b s0 s) : Keeps b s0 (State.syncTrackCount s) := by
  unfold State.syncTrackCount
  repeat' (first | with_reducible assumption | (intro _; try beta_reduce)
                 | (extract_lets +onlyGivenNames t; refine Keeps.cut (t := t) ?_ ?_; subst t; rotate_left; clear_value t; revert t; intro _ _)
                 | (extract_lets +onlyGivenNames t; revert t; intro _) | with_reducible apply State.setF_keeps)

theorem State.setTrack_keeps {b : Kept} {s0 s : State} (i : Nat) (e : List Byte) (h : Keeps b s0 s) : Keeps b s0 (State.setTrack s i e) := by
  unfold State.setTrack
  repeat' (first | with_reducible assumption | with_reducible apply State.syncTrackCount_keeps
                 | with_reducible exact mk_keeps (by assumption) rfl rfl rfl rfl rfl rfl rfl rfl rfl rfl rfl rfl)

theorem State.hostTrackWrite_keeps {b : Kept} {s0 s : State} (i : Nat) (e : List Byte) (h : Keeps b s0 s) : Keeps b s0 (State.hostTrackWrite s i e) := by
  unfold State.hostTrackWrite
  repeat' (first | with_reducible assumption | (intro _; try beta_reduce)
                 | (extract_lets +onlyGivenNames t; refine Keeps.cut (t := t) ?_ ?_; subst t; rotate_left; clear_value t; revert t; intro _ _)
                 | (extract_lets +onlyGivenNames t; revert t; intro _)
                 | with_reducible apply State.inc_keeps | with_reducible apply State.setTrack_keeps
                 | with_reducible exact mk_keeps (by assumption) rfl rfl rfl rfl rfl rfl rfl rfl rfl rfl rfl rfl | with_reducible apply ite_keeps | split)

theorem State.applyHostTracks_keeps {b : Kept} {s0 s : State} (h : Keeps b s0 s) : Keeps b s0 (State.applyHostTracks s) := by
  unfold State.applyHostTracks
  repeat' (first | with_reducible assumption | (intro _; try beta_reduce)
                 | (extract_lets +onlyGivenNames t; refine Keeps.cut (t := t) ?_ ?_; subst t; rotate_left; clear_value t; revert t; intro _ _)
                 | (extract_lets +onlyGivenNames t; revert t; intro _) | with_reducible apply State.hostTrackWrite_keeps | with_reducible apply each_keeps
                 | with_reducible exact mk_keeps (by assumption) rfl rfl rfl rfl rfl rfl rfl rfl rfl rfl rfl rfl)

theorem State.setExpect_keeps {b : Kept} {s0 s : State} (j g e : Nat) (h : Keeps b s0 s) : Keeps b s0 (State.setExpect s j g e) := by
  unfold State.setExpect
  repeat' (first | with_reducible assumption | with_reducible exact mk_keeps (by assumption) rfl rfl rfl rfl rfl rfl rfl rfl rfl rfl rfl rfl)

theorem State.resetExpect_keeps {b : Kept} {s0 s : State} (h : Keeps b s0 s) : Keeps b s0 (State.resetExpect s) := by
  unfold State.resetExpect
  repeat' (first | with_reducible assumption | (intro _; try beta_reduce)
                 | (extract_lets +onlyGivenNames t; refine Keeps.cut (t := t) ?_ ?_; subst t; rotate_left; clear_value t; revert t; intro _ _)
                 | (extract_lets +onlyGivenNames t; revert t; intro _)
                 | with_reducible exact mk_keeps (by assumption) rfl rfl rfl rfl rfl rfl rfl rfl rfl rfl rfl rfl | with_reducible apply ite_keeps | split)

theorem State.setCol_keeps {b : Kept} {s0 s : State} (key : Nat) (c : Option ColPlan) (h : Keeps b s0 s) : Keeps b s0 (State.setCol s key c) := by
  unfold State.setCol
  repeat' (first | with_reducible assumption | with_reducible exact mk_keeps (by assumption) rfl rfl rfl rfl rfl rfl rfl rfl rfl rfl rfl rfl)

theorem State.noteDropped_keeps {b : Kept} {s0 s : State} (fr j : Nat) (h : Keeps b s0 s) : Keeps b s0 (State.noteDropped s fr j) := by
  unfold State.noteDropped
  repeat' (first | with_reducible assumption | (intro _; try beta_reduce)
                 | (extract_lets +onlyGivenNames t; refine Keeps.cut (t := t) ?_ ?_; subst t; rotate_left; clear_value t; revert t; intro _ _)
                 | (extract_lets +onlyGivenNames t; revert t; intro _)
                 | with_reducible exact mk_keeps (by assumption) rfl rfl rfl rfl rfl rfl rfl rfl rfl rfl rfl rfl | with_reducible apply ite_keeps | split)

theorem State.replanColumn_keeps {b : Kept} {s0 s : State} (key : Nat) (c : ColPlan) (h : Keeps b s0 s) : Keeps b s0 (State.replanColumn s key c) := by
  unfold State.replanColumn
  repeat' (first | with_reducible assumption | (intro _; try beta_reduce)
                 | (extract_lets +onlyGivenNames t; refine Keeps.cut (t := t) ?_ ?_; subst t; rotate_left; clear_value t; revert t; intro _ _)
                 | (extract_lets +onlyGivenNames t; revert t; intro _)
                 | with_reducible apply State.noteDropped_keeps | with_reducible apply State.setCol_keeps
                 | with_reducible exact mk_keeps (by assumption) rfl rfl rfl rfl rfl rfl rfl rfl rfl rfl rfl rfl | with_reducible apply ite_keeps | split)

theorem State.replan_keeps {b : Kept} {s0 s : State} (h : Keeps b s0 s) : Keeps b s0 (State.replan s) := by
  unfold State.replan
  repeat' (first | with_reducible assumption | (intro _; try beta_reduce) | with_reducible apply State.replanColumn_keeps | with_reducible apply each_keeps
                 | with_reducible apply ite_keeps | split)

theorem State.noteCover_keeps {b : Kept} {s0 s : State} (fr k : Nat) (h : Keeps b s0 s) : Keeps b s0 (State.noteCover s fr k) := by
  unfold State.noteCover
  repeat' (first | with_reducible assumption
                 | (extract_lets +onlyGivenNames t; refine Keeps.cut (t := t) ?_ ?_; subst t; rotate_left; clear_value t; revert t; intro _ _)
                 | (extract_lets +onlyGivenNames t; revert t; intro _) | with_reducible apply State.flag_keeps | with_reducible apply State.inc_keeps
                 | with_reducible exact mk_keeps (by assumption) rfl rfl rfl rfl rfl rfl rfl rfl rfl rfl rfl rfl | with_reducible apply ite_keeps | split)

theorem State.planColumn_keeps {b : Kept} {s0 s : State} (h : Keeps b s0 s) : Keeps b s0 (State.planColumn s) := by
  unfold State.planColumn
  repeat' (first | with_reducible assumption | (intro _; try beta_reduce)
                 | (extract_lets +onlyGivenNames t; refine Keeps.cut (t := t) ?_ ?_; subst t; rotate_left; clear_value t; revert t; intro _ _)
                 | (extract_lets +onlyGivenNames t; revert t; intro _)
                 | with_reducible apply State.noteCover_keeps | with_reducible apply State.noteDropped_keeps | with_reducible apply State.setCol_keeps
                 | with_reducible exact mk_keeps (by assumption) rfl rfl rfl rfl rfl rfl rfl rfl rfl rfl rfl rfl | with_reducible apply ite_keeps | split)

end Sys2Proof.Machine
end

