-- ==== Sys2Proof/Laws/KeepsB.lean ====
section
/-!
SUPPORT. Laws/KeepsB.lean: what each operation keeps (`Keeps`), for PlanOps, EmitOps, SyncOps, RxOps, TdcOps.
-/

namespace Sys2Proof.Machine

open Sys2Proof

theorem State.postColumn_keeps {b : Kept} {s0 s : State} (c : ColPlan) (u : State) (he : s.postColumn = some (c, u)) (h : Keeps b s0 s) : Keeps b s0 u := by
  unfold State.postColumn at he
  split at he
  · cases he
  · split at he
    · cases he
    · extract_lets d q taken c' t at he
      have ht : Keeps b s0 t := State.setCol_keeps _ _ h
      rw [Option.some.injEq, Prod.mk.injEq] at he
      rw [← he.2]
      exact mk_keeps ht rfl rfl rfl rfl rfl rfl rfl rfl rfl rfl rfl rfl

theorem State.setPt_keeps {b : Kept} {s0 s : State} (k : Nat) (p : Pt) (h : Keeps b s0 s) : Keeps b s0 (State.setPt s k p) := by
  unfold State.setPt
  repeat' (first | with_reducible assumption | with_reducible exact mk_keeps (by assumption) rfl rfl rfl rfl rfl rfl rfl rfl rfl rfl rfl rfl)

theorem State.modPt_keeps {b : Kept} {s0 s : State} (k : Nat) (g : Pt → Pt) (h : Keeps b s0 s) : Keeps b s0 (State.modPt s k g) := by
  unfold State.modPt
  repeat' (first | with_reducible assumption | with_reducible apply State.setPt_keeps)

theorem State.modSegPts_keeps {b : Kept} {s0 s : State} (key g : Nat) (f : Pt → Pt) (h : Keeps b s0 s) : Keeps b s0 (State.modSegPts s key g f) := by
  unfold State.modSegPts
  repeat' (first | with_reducible assumption | (intro _; try beta_reduce) | with_reducible apply State.modPt_keeps | with_reducible apply each_keeps)

theorem State.modSeg_keeps {b : Kept} {s0 s : State} (key g : Nat) (f : SegPol → SegPol) (h : Keeps b s0 s) : Keeps b s0 (State.modSeg s key g f) := by
  unfold State.modSeg
  repeat' (first | with_reducible assumption | (intro _; try beta_reduce) | with_reducible apply State.setCol_keeps
                 | with_reducible exact mk_keeps (by assumption) rfl rfl rfl rfl rfl rfl rfl rfl rfl rfl rfl rfl | with_reducible apply ite_keeps | split)

theorem State.lateShots_keeps {b : Kept} {s0 s : State} (key g n : Nat) (h : Keeps b s0 s) : Keeps b s0 (State.lateShots s key g n) := by
  unfold State.lateShots
  repeat' (first | with_reducible assumption | (intro _; try beta_reduce)
                 | (extract_lets +onlyGivenNames t; refine Keeps.cut (t := t) ?_ ?_; subst t; rotate_left; clear_value t; revert t; intro _ _)
                 | (extract_lets +onlyGivenNames t; revert t; intro _) | with_reducible apply State.add_keeps | with_reducible apply State.flag_keeps
                 | with_reducible apply State.modSegPts_keeps | with_reducible exact mk_keeps (by assumption) rfl rfl rfl rfl rfl rfl rfl rfl rfl rfl rfl rfl
                 | with_reducible apply ite_keeps | split)

theorem State.loopLate_keeps {b : Kept} {s0 s : State} (old : Nat) (h : Keeps b s0 s) : Keeps b s0 (State.loopLate s old) := by
  unfold State.loopLate
  repeat' (first | with_reducible assumption | (intro _; try beta_reduce)
                 | (extract_lets +onlyGivenNames t; refine Keeps.cut (t := t) ?_ ?_; subst t; rotate_left; clear_value t; revert t; intro _ _)
                 | (extract_lets +onlyGivenNames t; revert t; intro _) | with_reducible apply State.raise_keeps
                 | with_reducible exact mk_keeps (by assumption) rfl rfl rfl rfl rfl rfl rfl rfl rfl rfl rfl rfl | with_reducible apply ite_keeps | split)

theorem State.fail_keeps {b : Kept} {s0 s : State} (status : Nat) (detail : Nat := 0) (further : Nat := 0) (h : Keeps b s0 s) : Keeps b s0 (State.fail s status detail further).state := by
  unfold State.fail
  repeat' (first | with_reducible assumption)

theorem State.ok_keeps {b : Kept} {s0 s : State} (params : List Byte := []) (h : Keeps b s0 s) : Keeps b s0 (State.ok s params).state := by
  unfold State.ok
  repeat' (first | with_reducible assumption)

theorem State.claim_keeps {b : Kept} {s0 s : State} (p : Nat) (force : Bool) (h : Keeps b s0 s) : Keeps b s0 (State.claim s p force).state := by
  unfold State.claim
  repeat' (first | with_reducible assumption | with_reducible apply State.changeOwner_keeps | with_reducible apply State.fail_keeps
                 | with_reducible apply State.ok_keeps | with_reducible apply ite_keeps | split)

theorem State.queueBatch_keeps {b : Kept} {s0 s : State} (key g k lo : Nat) (h : Keeps b s0 s) : Keeps b s0 (State.queueBatch s key g k lo) := by
  unfold State.queueBatch
  repeat' (first | with_reducible assumption | (intro _; try beta_reduce)
                 | (extract_lets +onlyGivenNames t; refine Keeps.cut (t := t) ?_ ?_; subst t; rotate_left; clear_value t; revert t; intro _ _)
                 | (extract_lets +onlyGivenNames t; revert t; intro _) | with_reducible apply State.claim_keeps | with_reducible apply State.modSeg_keeps
                 | with_reducible apply State.modSegPts_keeps | with_reducible apply State.setCol_keeps
                 | with_reducible exact mk_keeps (by assumption) rfl rfl rfl rfl rfl rfl rfl rfl rfl rfl rfl rfl | with_reducible apply ite_keeps | split)

theorem State.firstBatches_keeps {b : Kept} {s0 s : State} (key g n : Nat) (h : Keeps b s0 s) : Keeps b s0 (State.firstBatches s key g n) := by
  induction n generalizing s with
  | zero => exact h
  | succ n ih =>
    unfold State.firstBatches
    repeat' (first | with_reducible assumption | (extract_lets +onlyGivenNames t; revert t; intro _) | with_reducible apply ih
                   | with_reducible apply State.queueBatch_keeps | split)

theorem State.allocateStart_keeps {b : Kept} {s0 s : State} (key : Nat) (h : Keeps b s0 s) : Keeps b s0 (State.allocateStart s key) := by
  unfold State.allocateStart
  repeat' (first | with_reducible assumption | (intro _; try beta_reduce) | with_reducible apply State.firstBatches_keeps | with_reducible apply each_keeps
                 | with_reducible apply ite_keeps | split)

theorem State.laterBatches_keeps {b : Kept} {s0 s : State} (key g lo n : Nat) (h : Keeps b s0 s) : Keeps b s0 (State.laterBatches s key g lo n) := by
  induction n generalizing s with
  | zero => exact h
  | succ n ih =>
    unfold State.laterBatches
    repeat' (first | with_reducible assumption | (extract_lets +onlyGivenNames t; revert t; intro _) | with_reducible apply ih
                   | with_reducible apply State.queueBatch_keeps | split)

theorem State.withdraw_keeps {b : Kept} {s0 s : State} (key g : Nat) (h : Keeps b s0 s) : Keeps b s0 (State.withdraw s key g) := by
  unfold State.withdraw
  repeat' (first | with_reducible assumption | (intro _; try beta_reduce)
                 | (extract_lets +onlyGivenNames t; refine Keeps.cut (t := t) ?_ ?_; subst t; rotate_left; clear_value t; revert t; intro _ _)
                 | (extract_lets +onlyGivenNames t; revert t; intro _) | with_reducible apply State.modSegPts_keeps | with_reducible apply State.setCol_keeps
                 | with_reducible exact mk_keeps (by assumption) rfl rfl rfl rfl rfl rfl rfl rfl rfl rfl rfl rfl | with_reducible apply ite_keeps | split)

theorem State.reallocate_keeps {b : Kept} {s0 s : State} (key : Nat) (h : Keeps b s0 s) : Keeps b s0 (State.reallocate s key) := by
  unfold State.reallocate
  repeat' (first | with_reducible assumption | (intro _; try beta_reduce)
                 | (extract_lets +onlyGivenNames t; refine Keeps.cut (t := t) ?_ ?_; subst t; rotate_left; clear_value t; revert t; intro _ _)
                 | (extract_lets +onlyGivenNames t; revert t; intro _) | with_reducible apply State.laterBatches_keeps | with_reducible apply State.modSeg_keeps
                 | with_reducible apply State.withdraw_keeps | with_reducible apply each_keeps
                 | with_reducible exact mk_keeps (by assumption) rfl rfl rfl rfl rfl rfl rfl rfl rfl rfl rfl rfl | with_reducible apply ite_keeps | split)

theorem State.learn_keeps {b : Kept} {s0 s : State} (c : ColPlan) (h : Keeps b s0 s) : Keeps b s0 (State.learn s c) := by
  unfold State.learn
  repeat' (first | with_reducible assumption | (intro _; try beta_reduce)
                 | (extract_lets +onlyGivenNames t; refine Keeps.cut (t := t) ?_ ?_; subst t; rotate_left; clear_value t; revert t; intro _ _)
                 | (extract_lets +onlyGivenNames t; revert t; intro _)
                 | with_reducible apply State.setExpect_keeps | with_reducible apply each_keeps
                 | with_reducible exact mk_keeps (by assumption) rfl rfl rfl rfl rfl rfl rfl rfl rfl rfl rfl rfl | with_reducible apply ite_keeps | split)

theorem State.markShort_keeps {b : Kept} {s0 s : State} (key : Nat) (c : ColPlan) (h : Keeps b s0 s) : Keeps b s0 (State.markShort s key c) := by
  unfold State.markShort
  repeat' (first | with_reducible assumption | (intro _; try beta_reduce)
                 | (extract_lets +onlyGivenNames t; refine Keeps.cut (t := t) ?_ ?_; subst t; rotate_left; clear_value t; revert t; intro _ _)
                 | (extract_lets +onlyGivenNames t; revert t; intro _) | with_reducible apply State.flag_keeps | with_reducible apply State.modPt_keeps
                 | with_reducible apply each_keeps | with_reducible exact mk_keeps (by assumption) rfl rfl rfl rfl rfl rfl rfl rfl rfl rfl rfl rfl
                 | with_reducible apply ite_keeps | split)

theorem State.accountColumn_keeps {b : Kept} {s0 s : State} (key : Nat) (c : ColPlan) (h : Keeps b s0 s) : Keeps b s0 (State.accountColumn s key c) := by
  unfold State.accountColumn
  repeat' (first | with_reducible assumption | (intro _; try beta_reduce)
                 | (extract_lets +onlyGivenNames t; refine Keeps.cut (t := t) ?_ ?_; subst t; rotate_left; clear_value t; revert t; intro _ _)
                 | (extract_lets +onlyGivenNames t; revert t; intro _) | with_reducible apply each_keeps
                 | with_reducible exact mk_keeps (by assumption) rfl rfl rfl rfl rfl rfl rfl rfl rfl rfl rfl rfl | with_reducible apply ite_keeps | split)

theorem State.setEmit_keeps {b : Kept} {s0 s : State} (e : Emit) (h : Keeps b s0 s) : Keeps b s0 (State.setEmit s e) := by
  unfold State.setEmit
  repeat' (first | with_reducible assumption | with_reducible exact mk_keeps (by assumption) rfl rfl rfl rfl rfl rfl rfl rfl rfl rfl rfl rfl)

theorem State.seedDither_keeps {b : Kept} {s0 s : State} (h : Keeps b s0 s) : Keeps b s0 (State.seedDither s) := by
  unfold State.seedDither
  repeat' (first | with_reducible assumption
                 | (extract_lets +onlyGivenNames t; refine Keeps.cut (t := t) ?_ ?_; subst t; rotate_left; clear_value t; revert t; intro _ _)
                 | (extract_lets +onlyGivenNames t; revert t; intro _) | with_reducible apply State.setR_keeps
                 | with_reducible exact mk_keeps (by assumption) rfl rfl rfl rfl rfl rfl rfl rfl rfl rfl rfl rfl)

theorem State.drawDither_keeps {b : Kept} {s0 s : State} (key g' t' : Nat) (h : Keeps b s0 s) : Keeps b s0 (State.drawDither s key g' t').2 := by
  unfold State.drawDither
  repeat' (first | with_reducible assumption | (intro _; try beta_reduce)
                 | (extract_lets +onlyGivenNames t; refine Keeps.cut (t := t) ?_ ?_; subst t; rotate_left; clear_value t; revert t; intro _ _)
                 | (extract_lets +onlyGivenNames t; revert t; intro _)
                 | with_reducible apply State.flag_keeps | with_reducible apply State.inc_keeps
                 | with_reducible exact mk_keeps (by assumption) rfl rfl rfl rfl rfl rfl rfl rfl rfl rfl rfl rfl | with_reducible apply ite_keeps | split)

theorem State.syncAcct_keeps {b : Kept} {s0 s : State} (z slot : Nat) (h : Keeps b s0 s) : Keeps b s0 (State.syncAcct s z slot) := by
  unfold State.syncAcct
  repeat' (first | with_reducible assumption | (intro _; try beta_reduce) | with_reducible apply State.setR_keeps | with_reducible apply each_keeps)

theorem State.countRefused_keeps {b : Kept} {s0 s : State} (key g : Nat) (h : Keeps b s0 s) : Keeps b s0 (State.countRefused s key g) := by
  unfold State.countRefused
  repeat' (first | with_reducible assumption | (intro _; try beta_reduce)
                 | (extract_lets +onlyGivenNames t; refine Keeps.cut (t := t) ?_ ?_; subst t; rotate_left; clear_value t; revert t; intro _ _)
                 | (extract_lets +onlyGivenNames t; revert t; intro _) | with_reducible apply State.inc_keeps | with_reducible apply State.modSeg_keeps
                 | with_reducible apply State.modSegPts_keeps | with_reducible exact mk_keeps (by assumption) rfl rfl rfl rfl rfl rfl rfl rfl rfl rfl rfl rfl)

theorem State.gate_keeps {b : Kept} {s0 s : State} (key g slot : Nat) (h : Keeps b s0 s) : Keeps b s0 (State.gate s key g slot).2 := by
  unfold State.gate
  repeat' (first | with_reducible assumption
                 | (extract_lets +onlyGivenNames t; refine Keeps.cut (t := t) ?_ ?_; subst t; rotate_left; clear_value t; revert t; intro _ _)
                 | (extract_lets +onlyGivenNames t; revert t; intro _) | with_reducible apply State.countRefused_keeps | with_reducible apply State.flag_keeps
                 | with_reducible apply State.setEmit_keeps | with_reducible apply State.syncAcct_keeps
                 | with_reducible exact mk_keeps (by assumption) rfl rfl rfl rfl rfl rfl rfl rfl rfl rfl rfl rfl | with_reducible apply ite_keeps | split)

theorem State.buildFrame_keeps {b : Kept} {s0 s : State} (w : Nat) (segs : List Nat) (newFrame : Bool) (h : Keeps b s0 s) : Keeps b s0 (State.buildFrame s w segs newFrame) := by
  unfold State.buildFrame
  repeat' (first | with_reducible assumption | (intro _; try beta_reduce)
                 | (extract_lets +onlyGivenNames t; refine Keeps.cut (t := t) ?_ ?_; subst t; rotate_left; clear_value t; revert t; intro _ _)
                 | (extract_lets +onlyGivenNames t; revert t; intro _) | with_reducible apply State.setEmit_keeps | with_reducible apply foldl_keeps
                 | with_reducible exact mk_keeps (by assumption) rfl rfl rfl rfl rfl rfl rfl rfl rfl rfl rfl rfl | with_reducible apply ite_keeps | split)

theorem State.chooseSar_keeps {b : Kept} {s0 s : State} (w : Nat) (h : Keeps b s0 s) : Keeps b s0 (State.chooseSar s w) := by
  unfold State.chooseSar
  repeat' (first | with_reducible assumption | (intro _; try beta_reduce)
                 | (extract_lets +onlyGivenNames t; refine Keeps.cut (t := t) ?_ ?_; subst t; rotate_left; clear_value t; revert t; intro _ _)
                 | (extract_lets +onlyGivenNames t; revert t; intro _)
                 | with_reducible apply State.setEmit_keeps
                 | with_reducible exact mk_keeps (by assumption) rfl rfl rfl rfl rfl rfl rfl rfl rfl rfl rfl rfl | with_reducible apply ite_keeps | split)

theorem State.cutShot_keeps {b : Kept} {s0 s : State} (w : Nat) (e : Placed) (h : Keeps b s0 s) : Keeps b s0 (State.cutShot s w e) := by
  unfold State.cutShot
  repeat' (first | with_reducible assumption | (intro _; try beta_reduce)
                 | (extract_lets +onlyGivenNames t; refine Keeps.cut (t := t) ?_ ?_; subst t; rotate_left; clear_value t; revert t; intro _ _)
                 | (extract_lets +onlyGivenNames t; revert t; intro _)
                 | with_reducible apply State.drawDither_keeps | with_reducible apply State.lateShots_keeps | with_reducible apply State.setCol_keeps
                 | with_reducible apply State.setEmit_keeps
                 | with_reducible exact mk_keeps (by assumption) rfl rfl rfl rfl rfl rfl rfl rfl rfl rfl rfl rfl | with_reducible apply ite_keeps | split)

theorem State.takeWindow_keeps {b : Kept} {s0 s : State} (w : Nat) (bad : List Nat) (h : Keeps b s0 s) : Keeps b s0 (State.takeWindow s w bad).2.2 := by
  unfold State.takeWindow
  extract_lets winOf inWin past mine frameOf fr gone pl t1 t2 held em t3 t4 mine2 good lost r ex t5
  have h1 : Keeps b s0 t1 := mk_keeps h rfl rfl rfl rfl rfl rfl rfl rfl rfl rfl rfl rfl
  have h2 : Keeps b s0 t2 := each_keeps _ _ h1 fun _ _ x => State.lateShots_keeps _ _ _ x
  have h3 : Keeps b s0 t3 := ite_keeps h2 (State.setEmit_keeps _ h2)
  have h4 : Keeps b s0 t4 := each_keeps _ _ h3 fun _ _ x => State.lateShots_keeps _ _ _ x
  have h5 : Keeps b s0 r.2 := foldl_snd_keeps _ _ _ h4 fun a q x => State.gate_keeps _ _ _ x
  exact each_keeps _ _ h5 fun _ _ x => State.cutShot_keeps _ _ x

theorem State.cutWindow_keeps {b : Kept} {s0 s : State} (w : Nat) (bad : List Nat) (h : Keeps b s0 s) : Keeps b s0 (State.cutWindow s w bad) := by
  unfold State.cutWindow
  repeat' (first | with_reducible assumption | (intro _; try beta_reduce)
                 | (extract_lets +onlyGivenNames t; refine Keeps.cut (t := t) ?_ ?_; subst t; rotate_left; clear_value t; revert t; intro _ _)
                 | (extract_lets +onlyGivenNames t; revert t; intro _)
                 | with_reducible apply State.buildFrame_keeps | with_reducible apply State.chooseSar_keeps | with_reducible apply State.setEmit_keeps
                 | with_reducible apply State.setR_keeps | with_reducible apply State.takeWindow_keeps
                 | with_reducible exact mk_keeps (by assumption) rfl rfl rfl rfl rfl rfl rfl rfl rfl rfl rfl rfl | with_reducible apply ite_keeps | split)

theorem State.setWlTile_keeps {b : Kept} {s0 s : State} (t' : Nat) (x : WlTile) (h : Keeps b s0 s) : Keeps b s0 (State.setWlTile s t' x) := by
  unfold State.setWlTile
  repeat' (first | with_reducible assumption | with_reducible apply State.setEmit_keeps
                 | with_reducible exact mk_keeps (by assumption) rfl rfl rfl rfl rfl rfl rfl rfl rfl rfl rfl rfl)

theorem State.setWlState_keeps {b : Kept} {s0 s : State} (t' v : Nat) (h : Keeps b s0 s) : Keeps b s0 (State.setWlState s t' v) := by
  unfold State.setWlState
  repeat' (first | with_reducible assumption | with_reducible apply State.setF_keeps)

theorem State.settleWl_keeps {b : Kept} {s0 s : State} (h : Keeps b s0 s) : Keeps b s0 (State.settleWl s) := by
  unfold State.settleWl
  repeat' (first | with_reducible assumption | (intro _; try beta_reduce)
                 | (extract_lets +onlyGivenNames t; refine Keeps.cut (t := t) ?_ ?_; subst t; rotate_left; clear_value t; revert t; intro _ _)
                 | (extract_lets +onlyGivenNames t; revert t; intro _) | with_reducible apply State.setWlTile_keeps | with_reducible apply each_keeps
                 | with_reducible exact mk_keeps (by assumption) rfl rfl rfl rfl rfl rfl rfl rfl rfl rfl rfl rfl | with_reducible apply ite_keeps | split)

theorem State.syncFaultIn_keeps {b : Kept} {s0 s : State} (h : Keeps b s0 s) : Keeps b s0 (State.syncFaultIn s) := by
  unfold State.syncFaultIn
  repeat' (first | with_reducible assumption | with_reducible apply State.setBit_keeps)

theorem State.laserOff_keeps {b : Kept} {s0 s : State} (h : Keeps b s0 s) : Keeps b s0 (State.laserOff s) := by
  unfold State.laserOff
  repeat' (first | with_reducible assumption
                 | (extract_lets +onlyGivenNames t; refine Keeps.cut (t := t) ?_ ?_; subst t; rotate_left; clear_value t; revert t; intro _ _)
                 | (extract_lets +onlyGivenNames t; revert t; intro _) | with_reducible apply State.setBit_keeps | with_reducible apply State.setEmit_keeps
                 | with_reducible apply State.syncFaultIn_keeps | with_reducible exact mk_keeps (by assumption) rfl rfl rfl rfl rfl rfl rfl rfl rfl rfl rfl rfl)

theorem State.startFade_keeps {b : Kept} {s0 s : State} (h : Keeps b s0 s) : Keeps b s0 (State.startFade s) := by
  unfold State.startFade
  repeat' (first | with_reducible assumption | (intro _; try beta_reduce)
                 | (extract_lets +onlyGivenNames t; refine Keeps.cut (t := t) ?_ ?_; subst t; rotate_left; clear_value t; revert t; intro _ _)
                 | (extract_lets +onlyGivenNames t; revert t; intro _) | with_reducible apply State.setBit_keeps | with_reducible apply State.setEmit_keeps
                 | with_reducible apply State.setWlState_keeps | with_reducible apply State.syncFaultIn_keeps | with_reducible apply each_keeps
                 | with_reducible exact mk_keeps (by assumption) rfl rfl rfl rfl rfl rfl rfl rfl rfl rfl rfl rfl | with_reducible apply ite_keeps | split)

theorem State.rechooseSar_keeps {b : Kept} {s0 s : State} (h : Keeps b s0 s) : Keeps b s0 (State.rechooseSar s) := by
  unfold State.rechooseSar
  repeat' (first | with_reducible assumption | (intro _; try beta_reduce)
                 | (extract_lets +onlyGivenNames t; refine Keeps.cut (t := t) ?_ ?_; subst t; rotate_left; clear_value t; revert t; intro _ _)
                 | (extract_lets +onlyGivenNames t; revert t; intro _)
                 | with_reducible apply State.setEmit_keeps | with_reducible apply foldl_keeps
                 | with_reducible exact mk_keeps (by assumption) rfl rfl rfl rfl rfl rfl rfl rfl rfl rfl rfl rfl | with_reducible apply ite_keeps | split)

theorem State.unfire_keeps {b : Kept} {s0 s : State} (q : CutShot) (h : Keeps b s0 s) : Keeps b s0 (State.unfire s q) := by
  unfold State.unfire
  repeat' (first | with_reducible assumption | (intro _; try beta_reduce)
                 | (extract_lets +onlyGivenNames t; refine Keeps.cut (t := t) ?_ ?_; subst t; rotate_left; clear_value t; revert t; intro _ _)
                 | (extract_lets +onlyGivenNames t; revert t; intro _)
                 | with_reducible apply State.rechooseSar_keeps | with_reducible apply State.setEmit_keeps
                 | with_reducible exact mk_keeps (by assumption) rfl rfl rfl rfl rfl rfl rfl rfl rfl rfl rfl rfl | with_reducible apply ite_keeps | split)

theorem State.refuseCuts_keeps {b : Kept} {s0 s : State} (h : Keeps b s0 s) : Keeps b s0 (State.refuseCuts s) := by
  unfold State.refuseCuts
  repeat' (first | with_reducible assumption | (intro _; try beta_reduce)
                 | (extract_lets +onlyGivenNames t; refine Keeps.cut (t := t) ?_ ?_; subst t; rotate_left; clear_value t; revert t; intro _ _)
                 | (extract_lets +onlyGivenNames t; revert t; intro _) | with_reducible apply State.countRefused_keeps | with_reducible apply State.setEmit_keeps
                 | with_reducible apply State.unfire_keeps | with_reducible apply each_keeps
                 | with_reducible exact mk_keeps (by assumption) rfl rfl rfl rfl rfl rfl rfl rfl rfl rfl rfl rfl)

theorem State.setTdcComb_keeps {b : Kept} {s0 s : State} (c : Nat) (x : TdcComb) (h : Keeps b s0 s) : Keeps b s0 (State.setTdcComb s c x) := by
  unfold State.setTdcComb
  repeat' (first | with_reducible assumption | with_reducible exact mk_keeps (by assumption) rfl rfl rfl rfl rfl rfl rfl rfl rfl rfl rfl rfl)

theorem State.mark_keeps {b : Kept} {s0 s : State} (c : Nat) (m : Mark) (h : Keeps b s0 s) : Keeps b s0 (State.mark s c m) := by
  unfold State.mark
  repeat' (first | with_reducible assumption | (intro _; try beta_reduce)
                 | (extract_lets +onlyGivenNames t; refine Keeps.cut (t := t) ?_ ?_; subst t; rotate_left; clear_value t; revert t; intro _ _)
                 | (extract_lets +onlyGivenNames t; revert t; intro _)
                 | with_reducible apply State.capOffer_keeps | with_reducible apply State.setTdcComb_keeps
                 | with_reducible exact mk_keeps (by assumption) rfl rfl rfl rfl rfl rfl rfl rfl rfl rfl rfl rfl | with_reducible apply ite_keeps | split)

theorem State.segFailure_keeps {b : Kept} {s0 s : State} (bit : Nat) (tile : Option Nat) (seg : Nat) (h : Keeps b s0 s) : Keeps b s0 (State.segFailure s bit tile seg) := by
  unfold State.segFailure
  repeat' (first | with_reducible assumption
                 | (extract_lets +onlyGivenNames t; refine Keeps.cut (t := t) ?_ ?_; subst t; rotate_left; clear_value t; revert t; intro _ _)
                 | (extract_lets +onlyGivenNames t; revert t; intro _) | with_reducible apply State.addF_keeps | with_reducible apply State.faultTrigger_keeps
                 | with_reducible apply State.flag_keeps | with_reducible apply State.laserOff_keeps | with_reducible apply State.mark_keeps
                 | with_reducible apply State.post_keeps | with_reducible apply State.refuseCuts_keeps | with_reducible apply State.setBit_keeps
                 | with_reducible apply State.setEmit_keeps | with_reducible apply State.setF_keeps | with_reducible apply State.ssnHold_keeps
                 | with_reducible exact mk_keeps (by assumption) rfl rfl rfl rfl rfl rfl rfl rfl rfl rfl rfl rfl | with_reducible apply ite_keeps | split)

theorem State.swapPatterns_keeps {b : Kept} {s0 s : State} (h : Keeps b s0 s) : Keeps b s0 (State.swapPatterns s) := by
  unfold State.swapPatterns
  repeat' (first | with_reducible assumption | (intro _; try beta_reduce)
                 | (extract_lets +onlyGivenNames t; refine Keeps.cut (t := t) ?_ ?_; subst t; rotate_left; clear_value t; revert t; intro _ _)
                 | (extract_lets +onlyGivenNames t; revert t; intro _) | with_reducible apply State.raise_keeps | with_reducible apply State.setBit_keeps
                 | with_reducible apply State.setEmit_keeps | with_reducible apply wr_keeps | with_reducible apply each_keeps
                 | with_reducible exact mk_keeps (by assumption) rfl rfl rfl rfl rfl rfl rfl rfl rfl rfl rfl rfl)

theorem State.setSync_keeps {b : Kept} {s0 s : State} (x : Sync) (h : Keeps b s0 s) : Keeps b s0 (State.setSync s x) := by
  unfold State.setSync
  repeat' (first | with_reducible assumption | with_reducible exact mk_keeps (by assumption) rfl rfl rfl rfl rfl rfl rfl rfl rfl rfl rfl rfl)

theorem State.leaveMaster_keeps {b : Kept} {s0 s : State} (h : Keeps b s0 s) : Keeps b s0 (State.leaveMaster s) := by
  unfold State.leaveMaster
  repeat' (first | with_reducible assumption | (intro _; try beta_reduce)
                 | (extract_lets +onlyGivenNames t; refine Keeps.cut (t := t) ?_ ?_; subst t; rotate_left; clear_value t; revert t; intro _ _)
                 | (extract_lets +onlyGivenNames t; revert t; intro _)
                 | with_reducible apply State.setSync_keeps
                 | with_reducible exact mk_keeps (by assumption) rfl rfl rfl rfl rfl rfl rfl rfl rfl rfl rfl rfl | with_reducible apply ite_keeps | split)

theorem State.syncSwarm_keeps {b : Kept} {s0 s : State} (h : Keeps b s0 s) : Keeps b s0 (State.syncSwarm s) := by
  unfold State.syncSwarm
  repeat' (first | with_reducible assumption | (intro _; try beta_reduce)
                 | (extract_lets +onlyGivenNames t; refine Keeps.cut (t := t) ?_ ?_; subst t; rotate_left; clear_value t; revert t; intro _ _)
                 | (extract_lets +onlyGivenNames t; revert t; intro _)
                 | with_reducible apply State.leaveMaster_keeps | with_reducible apply State.setF_keeps | with_reducible apply State.setSync_keeps
                 | with_reducible exact mk_keeps (by assumption) rfl rfl rfl rfl rfl rfl rfl rfl rfl rfl rfl rfl | with_reducible apply ite_keeps | split)

theorem State.startSpan_keeps {b : Kept} {s0 s : State} (h : Keeps b s0 s) : Keeps b s0 (State.startSpan s) := by
  unfold State.startSpan
  repeat' (first | with_reducible assumption
                 | (extract_lets +onlyGivenNames t; refine Keeps.cut (t := t) ?_ ?_; subst t; rotate_left; clear_value t; revert t; intro _ _)
                 | (extract_lets +onlyGivenNames t; revert t; intro _) | with_reducible apply State.setF_keeps | with_reducible apply State.setSync_keeps
                 | with_reducible exact mk_keeps (by assumption) rfl rfl rfl rfl rfl rfl rfl rfl rfl rfl rfl rfl)

theorem State.endSpan_keeps {b : Kept} {s0 s : State} (h : Keeps b s0 s) : Keeps b s0 (State.endSpan s) := by
  unfold State.endSpan
  repeat' (first | with_reducible assumption | (intro _; try beta_reduce)
                 | (extract_lets +onlyGivenNames t; refine Keeps.cut (t := t) ?_ ?_; subst t; rotate_left; clear_value t; revert t; intro _ _)
                 | (extract_lets +onlyGivenNames t; revert t; intro _)
                 | with_reducible apply State.setF_keeps | with_reducible apply State.setSync_keeps | with_reducible apply State.takeEffect_keeps
                 | with_reducible exact mk_keeps (by assumption) rfl rfl rfl rfl rfl rfl rfl rfl rfl rfl rfl rfl | with_reducible apply ite_keeps | split)

theorem State.announce_keeps {b : Kept} {s0 s : State} (h : Keeps b s0 s) : Keeps b s0 (State.announce s) := by
  unfold State.announce
  repeat' (first | with_reducible assumption | (intro _; try beta_reduce)
                 | (extract_lets +onlyGivenNames t; refine Keeps.cut (t := t) ?_ ?_; subst t; rotate_left; clear_value t; revert t; intro _ _)
                 | (extract_lets +onlyGivenNames t; revert t; intro _)
                 | with_reducible apply State.setSync_keeps
                 | with_reducible exact mk_keeps (by assumption) rfl rfl rfl rfl rfl rfl rfl rfl rfl rfl rfl rfl | with_reducible apply ite_keeps | split)

theorem State.dueBoundary_keeps {b : Kept} {s0 s : State} (ns : Nat) (h : Keeps b s0 s) : Keeps b s0 (State.dueBoundary s ns) := by
  unfold State.dueBoundary
  repeat' (first | with_reducible assumption | (intro _; try beta_reduce)
                 | (extract_lets +onlyGivenNames t; refine Keeps.cut (t := t) ?_ ?_; subst t; rotate_left; clear_value t; revert t; intro _ _)
                 | (extract_lets +onlyGivenNames t; revert t; intro _)
                 | with_reducible apply State.setSync_keeps
                 | with_reducible exact mk_keeps (by assumption) rfl rfl rfl rfl rfl rfl rfl rfl rfl rfl rfl rfl | with_reducible apply ite_keeps | split)

theorem State.moveLead_keeps {b : Kept} {s0 s : State} (t' : Nat) (h : Keeps b s0 s) : Keeps b s0 (State.moveLead s t') := by
  unfold State.moveLead
  repeat' (first | with_reducible assumption | (intro _; try beta_reduce)
                 | (extract_lets +onlyGivenNames t; refine Keeps.cut (t := t) ?_ ?_; subst t; rotate_left; clear_value t; revert t; intro _ _)
                 | (extract_lets +onlyGivenNames t; revert t; intro _)
                 | with_reducible apply State.lateShots_keeps | with_reducible apply State.setCol_keeps | with_reducible apply each_keeps
                 | with_reducible exact mk_keeps (by assumption) rfl rfl rfl rfl rfl rfl rfl rfl rfl rfl rfl rfl | with_reducible apply ite_keeps | split)

theorem State.sourceEvent_keeps {b : Kept} {s0 s : State} (ns : Nat) (h : Keeps b s0 s) : Keeps b s0 (State.sourceEvent s ns) := by
  unfold State.sourceEvent
  repeat' (first | with_reducible assumption | (intro _; try beta_reduce)
                 | (extract_lets +onlyGivenNames t; refine Keeps.cut (t := t) ?_ ?_; subst t; rotate_left; clear_value t; revert t; intro _ _)
                 | (extract_lets +onlyGivenNames t; revert t; intro _)
                 | with_reducible apply State.announce_keeps | with_reducible apply State.dueBoundary_keeps | with_reducible apply State.inc_keeps
                 | with_reducible apply State.moveLead_keeps
                 | with_reducible exact mk_keeps (by assumption) rfl rfl rfl rfl rfl rfl rfl rfl rfl rfl rfl rfl | with_reducible apply ite_keeps | split)

theorem State.boundaryPeriod_keeps {b : Kept} {s0 s : State} (fly : Bool) (h : Keeps b s0 s) : Keeps b s0 (State.boundaryPeriod s fly) := by
  unfold State.boundaryPeriod
  repeat' (first | with_reducible assumption | (intro _; try beta_reduce)
                 | (extract_lets +onlyGivenNames t; refine Keeps.cut (t := t) ?_ ?_; subst t; rotate_left; clear_value t; revert t; intro _ _)
                 | (extract_lets +onlyGivenNames t; revert t; intro _) | with_reducible apply State.setBit_keeps | with_reducible apply State.setF_keeps
                 | with_reducible apply State.setSync_keeps | with_reducible apply State.takeEffect_keeps
                 | with_reducible exact mk_keeps (by assumption) rfl rfl rfl rfl rfl rfl rfl rfl rfl rfl rfl rfl | with_reducible apply ite_keeps | split)

theorem State.reportOffset_keeps {b : Kept} {s0 s : State} (o : Int) (h : Keeps b s0 s) : Keeps b s0 (State.reportOffset s o) := by
  unfold State.reportOffset
  repeat' (first | with_reducible assumption | with_reducible apply State.setR_keeps)

theorem State.slewTime_keeps {b : Kept} {s0 s : State} (o : Int) (h : Keeps b s0 s) : Keeps b s0 (State.slewTime s o) := by
  exact mk_keeps (State.reportOffset_keeps o h) rfl rfl rfl rfl rfl rfl rfl rfl rfl rfl rfl rfl

theorem State.stepTime_keeps {b : Kept} {s0 s : State} (o : Int) (h : Keeps b s0 s) : Keeps b s0 (State.stepTime s o) := by
  unfold State.stepTime
  repeat' (first | with_reducible assumption
                 | (extract_lets +onlyGivenNames t; refine Keeps.cut (t := t) ?_ ?_; subst t; rotate_left; clear_value t; revert t; intro _ _)
                 | (extract_lets +onlyGivenNames t; revert t; intro _) | with_reducible apply State.flag_keeps | with_reducible apply State.post_keeps
                 | with_reducible apply State.reportOffset_keeps | with_reducible exact mk_keeps (by assumption) rfl rfl rfl rfl rfl rfl rfl rfl rfl rfl rfl rfl)

theorem State.busSend_keeps {b : Kept} {s0 s : State} (m : SwarmMsg) (h : Keeps b s0 s) : Keeps b s0 (State.busSend s m) := by
  unfold State.busSend
  repeat' (first | with_reducible assumption | (intro _; try beta_reduce)
                 | (extract_lets +onlyGivenNames t; refine Keeps.cut (t := t) ?_ ?_; subst t; rotate_left; clear_value t; revert t; intro _ _)
                 | (extract_lets +onlyGivenNames t; revert t; intro _)
                 | with_reducible apply State.setSync_keeps
                 | with_reducible exact mk_keeps (by assumption) rfl rfl rfl rfl rfl rfl rfl rfl rfl rfl rfl rfl | with_reducible apply ite_keeps | split)

theorem State.busSlot_keeps {b : Kept} {s0 s : State} (slot : Nat) (h : Keeps b s0 s) : Keeps b s0 (State.busSlot s slot) := by
  unfold State.busSlot
  repeat' (first | with_reducible assumption
                 | (extract_lets +onlyGivenNames t; refine Keeps.cut (t := t) ?_ ?_; subst t; rotate_left; clear_value t; revert t; intro _ _)
                 | (extract_lets +onlyGivenNames t; revert t; intro _) | with_reducible apply State.busSend_keeps | with_reducible apply State.setSync_keeps
                 | with_reducible exact mk_keeps (by assumption) rfl rfl rfl rfl rfl rfl rfl rfl rfl rfl rfl rfl | with_reducible apply ite_keeps | split)

theorem State.followMaster_keeps {b : Kept} {s0 s : State} (m : SwarmMsg) (h : Keeps b s0 s) : Keeps b s0 (State.followMaster s m) := by
  unfold State.followMaster
  repeat' (first | with_reducible assumption | (intro _; try beta_reduce)
                 | (extract_lets +onlyGivenNames t; refine Keeps.cut (t := t) ?_ ?_; subst t; rotate_left; clear_value t; revert t; intro _ _)
                 | (extract_lets +onlyGivenNames t; revert t; intro _)
                 | with_reducible apply State.raise_keeps | with_reducible apply State.setF_keeps | with_reducible apply State.setSync_keeps
                 | with_reducible apply State.slewTime_keeps | with_reducible apply State.stepTime_keeps
                 | with_reducible exact mk_keeps (by assumption) rfl rfl rfl rfl rfl rfl rfl rfl rfl rfl rfl rfl | with_reducible apply ite_keeps | split)

theorem State.setChan_keeps {b : Kept} {s0 s : State} (n : Nat) (x : Chan) (h : Keeps b s0 s) : Keeps b s0 (State.setChan s n x) := by
  unfold State.setChan
  repeat' (first | with_reducible assumption | with_reducible exact mk_keeps (by assumption) rfl rfl rfl rfl rfl rfl rfl rfl rfl rfl rfl rfl)

theorem State.setRxComb_keeps {b : Kept} {s0 s : State} (c : Nat) (x : RxComb) (h : Keeps b s0 s) : Keeps b s0 (State.setRxComb s c x) := by
  unfold State.setRxComb
  repeat' (first | with_reducible assumption | with_reducible exact mk_keeps (by assumption) rfl rfl rfl rfl rfl rfl rfl rfl rfl rfl rfl rfl)

theorem State.syncChan_keeps {b : Kept} {s0 s : State} (n : Nat) (h : Keeps b s0 s) : Keeps b s0 (State.syncChan s n) := by
  unfold State.syncChan
  repeat' (first | with_reducible assumption
                 | (extract_lets +onlyGivenNames t; refine Keeps.cut (t := t) ?_ ?_; subst t; rotate_left; clear_value t; revert t; intro _ _)
                 | (extract_lets +onlyGivenNames t; revert t; intro _) | with_reducible apply State.setF_keeps | with_reducible apply ite_keeps | split)

theorem State.modChan_keeps {b : Kept} {s0 s : State} (n : Nat) (f : Chan → Chan) (h : Keeps b s0 s) : Keeps b s0 (State.modChan s n f) := by
  unfold State.modChan
  repeat' (first | with_reducible assumption | with_reducible apply State.setChan_keeps | with_reducible apply State.syncChan_keeps)

theorem State.markPts_keeps {b : Kept} {s0 s : State} (n : Nat) (f : Pt → Pt) (h : Keeps b s0 s) : Keeps b s0 (State.markPts s n f) := by
  unfold State.markPts
  repeat' (first | with_reducible assumption | (intro _; try beta_reduce) | with_reducible apply State.modPt_keeps | with_reducible apply each_keeps
                 | with_reducible apply ite_keeps | split)

theorem State.refreshBias_keeps {b : Kept} {s0 s : State} (c : Nat) (h : Keeps b s0 s) : Keeps b s0 (State.refreshBias s c) := by
  unfold State.refreshBias
  repeat' (first | with_reducible assumption | (intro _; try beta_reduce)
                 | (extract_lets +onlyGivenNames t; refine Keeps.cut (t := t) ?_ ?_; subst t; rotate_left; clear_value t; revert t; intro _ _)
                 | (extract_lets +onlyGivenNames t; revert t; intro _) | with_reducible apply State.markPts_keeps | with_reducible apply State.modChan_keeps
                 | with_reducible apply State.ok_keeps | with_reducible apply State.syncChan_keeps | with_reducible apply each_keeps
                 | with_reducible exact mk_keeps (by assumption) rfl rfl rfl rfl rfl rfl rfl rfl rfl rfl rfl rfl | with_reducible apply ite_keeps | split)

theorem State.setLossCause_keeps {b : Kept} {s0 s : State} (c bit : Nat) (on : Bool) (h : Keeps b s0 s) : Keeps b s0 (State.setLossCause s c bit on) := by
  unfold State.setLossCause
  repeat' (first | with_reducible assumption | (intro _; try beta_reduce)
                 | (extract_lets +onlyGivenNames t; refine Keeps.cut (t := t) ?_ ?_; subst t; rotate_left; clear_value t; revert t; intro _ _)
                 | (extract_lets +onlyGivenNames t; revert t; intro _) | with_reducible apply State.post_keeps | with_reducible apply State.setBit_keeps
                 | with_reducible apply State.syncChan_keeps | with_reducible apply each_keeps
                 | with_reducible exact mk_keeps (by assumption) rfl rfl rfl rfl rfl rfl rfl rfl rfl rfl rfl rfl | with_reducible apply ite_keeps | split)

theorem State.judgeChannels_keeps {b : Kept} {s0 s : State} (c : Nat) (h : Keeps b s0 s) : Keeps b s0 (State.judgeChannels s c) := by
  unfold State.judgeChannels
  repeat' (first | with_reducible assumption | (intro _; try beta_reduce) | with_reducible apply State.setLossCause_keeps)

theorem State.setRange_keeps {b : Kept} {s0 s : State} (n r : Nat) (h : Keeps b s0 s) : Keeps b s0 (State.setRange s n r) := by
  unfold State.setRange
  repeat' (first | with_reducible assumption | with_reducible apply State.setF_keeps)

theorem State.startRange_keeps {b : Kept} {s0 s : State} (n : Nat) (h : Keeps b s0 s) : Keeps b s0 (State.startRange s n) := by
  unfold State.startRange
  repeat' (first | with_reducible assumption | (intro _; try beta_reduce) | with_reducible apply State.modChan_keeps | with_reducible apply State.setRange_keeps
                 | with_reducible exact mk_keeps (by assumption) rfl rfl rfl rfl rfl rfl rfl rfl rfl rfl rfl rfl)

theorem State.rangeMode_keeps {b : Kept} {s0 s : State} (n : Nat) (h : Keeps b s0 s) : Keeps b s0 (State.rangeMode s n) := by
  unfold State.rangeMode
  repeat' (first | with_reducible assumption | (intro _; try beta_reduce)
                 | (extract_lets +onlyGivenNames t; refine Keeps.cut (t := t) ?_ ?_; subst t; rotate_left; clear_value t; revert t; intro _ _)
                 | (extract_lets +onlyGivenNames t; revert t; intro _) | with_reducible apply State.modChan_keeps
                 | with_reducible exact mk_keeps (by assumption) rfl rfl rfl rfl rfl rfl rfl rfl rfl rfl rfl rfl | with_reducible apply ite_keeps | split)

theorem State.boundary_keeps {b : Kept} {s0 s : State} (n : Nat) (h : Keeps b s0 s) : Keeps b s0 (State.boundary s n) := by
  unfold State.boundary
  repeat' (first | with_reducible assumption | (intro _; try beta_reduce) | with_reducible apply State.modChan_keeps | with_reducible apply State.rangeMode_keeps
                 | with_reducible exact mk_keeps (by assumption) rfl rfl rfl rfl rfl rfl rfl rfl rfl rfl rfl rfl)

theorem State.chanWritten_keeps {b : Kept} {s0 s : State} (n : Nat) (h : Keeps b s0 s) : Keeps b s0 (State.chanWritten s n) := by
  unfold State.chanWritten
  repeat' (first | with_reducible assumption | with_reducible apply State.boundary_keeps | with_reducible apply ite_keeps | split)

theorem State.tagBlank_keeps {b : Kept} {s0 s : State} (key : Option Nat) (n : Nat) (h : Keeps b s0 s) : Keeps b s0 (State.tagBlank s key n) := by
  unfold State.tagBlank
  repeat' (first | with_reducible assumption | (intro _; try beta_reduce)
                 | (extract_lets +onlyGivenNames t; refine Keeps.cut (t := t) ?_ ?_; subst t; rotate_left; clear_value t; revert t; intro _ _)
                 | (extract_lets +onlyGivenNames t; revert t; intro _)
                 | with_reducible apply State.modPt_keeps
                 | with_reducible exact mk_keeps (by assumption) rfl rfl rfl rfl rfl rfl rfl rfl rfl rfl rfl rfl | with_reducible apply ite_keeps | split)

theorem State.openWindow_keeps {b : Kept} {s0 s : State} (key : Option Nat) (n seg number fireAt closeAt : Nat) (h : Keeps b s0 s) :
    Keeps b s0 (State.openWindow s key n seg number fireAt closeAt) := by
  unfold State.openWindow
  dsimp only
  refine State.modChan_keeps _ _ (ite_keeps (State.tagBlank_keeps _ _ ?_) ?_)
  all_goals
    split
    · exact ite_keeps (State.modChan_keeps _ _ (State.setRange_keeps _ _ h)) (State.flag_keeps _ _ h)
    · exact h

theorem State.closeWindow_keeps {b : Kept} {s0 s : State} (n peak : Nat) (h : Keeps b s0 s) : Keeps b s0 (State.closeWindow s n peak) := by
  unfold State.closeWindow
  repeat' (first | with_reducible assumption | (intro _; try beta_reduce)
                 | (extract_lets +onlyGivenNames t; refine Keeps.cut (t := t) ?_ ?_; subst t; rotate_left; clear_value t; revert t; intro _ _)
                 | (extract_lets +onlyGivenNames t; revert t; intro _) | with_reducible apply State.boundary_keeps | with_reducible apply State.modChan_keeps
                 | with_reducible exact mk_keeps (by assumption) rfl rfl rfl rfl rfl rfl rfl rfl rfl rfl rfl rfl | with_reducible apply ite_keeps | split)

theorem State.syncSns_keeps {b : Kept} {s0 s : State} (c : Nat) (h : Keeps b s0 s) : Keeps b s0 (State.syncSns s c) := by
  unfold State.syncSns
  repeat' (first | with_reducible assumption
                 | (extract_lets +onlyGivenNames t; refine Keeps.cut (t := t) ?_ ?_; subst t; rotate_left; clear_value t; revert t; intro _ _)
                 | (extract_lets +onlyGivenNames t; revert t; intro _) | with_reducible apply State.setF_keeps | with_reducible apply ite_keeps | split)

theorem State.refreshComb_keeps {b : Kept} {s0 s : State} (c : Nat) (h : Keeps b s0 s) : Keeps b s0 (State.refreshComb s c) := by
  unfold State.refreshComb
  repeat' (first | with_reducible assumption | with_reducible apply State.refreshBias_keeps | with_reducible apply State.setLossCause_keeps
                 | with_reducible apply State.syncSns_keeps)

theorem State.refreshZone_keeps {b : Kept} {s0 s : State} (z : Nat) (h : Keeps b s0 s) : Keeps b s0 (State.refreshZone s z) := by
  unfold State.refreshZone
  repeat' (first | with_reducible assumption | (intro _; try beta_reduce) | with_reducible apply State.refreshComb_keeps | with_reducible apply each_keeps)

theorem State.refreshCombs_keeps {b : Kept} {s0 s : State} (h : Keeps b s0 s) : Keeps b s0 (State.refreshCombs s) := by
  unfold State.refreshCombs
  repeat' (first | with_reducible assumption | (intro _; try beta_reduce) | with_reducible apply State.judgeChannels_keeps
                 | with_reducible apply State.refreshComb_keeps | with_reducible apply each_keeps)

theorem State.setZone_keeps {b : Kept} {s0 s : State} (z st applied : Nat) (h : Keeps b s0 s) : Keeps b s0 (State.setZone s z st applied) := by
  unfold State.setZone
  repeat' (first | with_reducible assumption | (intro _; try beta_reduce)
                 | (extract_lets +onlyGivenNames t; refine Keeps.cut (t := t) ?_ ?_; subst t; rotate_left; clear_value t; revert t; intro _ _)
                 | (extract_lets +onlyGivenNames t; revert t; intro _) | with_reducible apply State.refreshZone_keeps | with_reducible apply State.setF_keeps
                 | with_reducible apply when_keeps)

theorem State.suspect_keeps {b : Kept} {s0 s : State} (c : Nat) (h : Keeps b s0 s) : Keeps b s0 (State.suspect s c) := by
  unfold State.suspect
  repeat' (first | with_reducible assumption | with_reducible apply State.flag_keeps | with_reducible apply State.setF_keeps
                 | with_reducible apply State.setRxComb_keeps | with_reducible exact mk_keeps (by assumption) rfl rfl rfl rfl rfl rfl rfl rfl rfl rfl rfl rfl)

theorem State.zoneFault_keeps {b : Kept} {s0 s : State} (z c st : Nat) (h : Keeps b s0 s) : Keeps b s0 (State.zoneFault s z c st) := by
  unfold State.zoneFault
  repeat' (first | with_reducible assumption
                 | (extract_lets +onlyGivenNames t; refine Keeps.cut (t := t) ?_ ?_; subst t; rotate_left; clear_value t; revert t; intro _ _)
                 | (extract_lets +onlyGivenNames t; revert t; intro _) | with_reducible apply State.flag_keeps | with_reducible apply State.post_keeps
                 | with_reducible apply State.raise_keeps | with_reducible apply State.setZone_keeps)

theorem State.openComb_keeps {b : Kept} {s0 s : State} (z c : Nat) (h : Keeps b s0 s) : Keeps b s0 (State.openComb s z c) := by
  unfold State.openComb
  repeat' (first | with_reducible assumption | (intro _; try beta_reduce)
                 | (extract_lets +onlyGivenNames t; refine Keeps.cut (t := t) ?_ ?_; subst t; rotate_left; clear_value t; revert t; intro _ _)
                 | (extract_lets +onlyGivenNames t; revert t; intro _)
                 | with_reducible apply State.flag_keeps | with_reducible apply State.refreshZone_keeps | with_reducible apply State.setF_keeps
                 | with_reducible apply State.setRxComb_keeps | with_reducible apply State.zoneFault_keeps
                 | with_reducible exact mk_keeps (by assumption) rfl rfl rfl rfl rfl rfl rfl rfl rfl rfl rfl rfl | with_reducible apply ite_keeps | split)

theorem State.retryZone_keeps {b : Kept} {s0 s : State} (z : Nat) (h : Keeps b s0 s) : Keeps b s0 (State.retryZone s z) := by
  unfold State.retryZone
  repeat' (first | with_reducible assumption | (intro _; try beta_reduce)
                 | (extract_lets +onlyGivenNames t; refine Keeps.cut (t := t) ?_ ?_; subst t; rotate_left; clear_value t; revert t; intro _ _)
                 | (extract_lets +onlyGivenNames t; revert t; intro _) | with_reducible apply State.refreshZone_keeps | with_reducible apply State.setRxComb_keeps
                 | with_reducible apply State.setZone_keeps | with_reducible apply State.suspect_keeps | with_reducible apply each_keeps
                 | with_reducible exact mk_keeps (by assumption) rfl rfl rfl rfl rfl rfl rfl rfl rfl rfl rfl rfl | with_reducible apply ite_keeps | split)

theorem State.rampZone_keeps {b : Kept} {s0 s : State} (z : Nat) (h : Keeps b s0 s) : Keeps b s0 (State.rampZone s z) := by
  unfold State.rampZone
  repeat' (first | with_reducible assumption | (intro _; try beta_reduce)
                 | (extract_lets +onlyGivenNames t; refine Keeps.cut (t := t) ?_ ?_; subst t; rotate_left; clear_value t; revert t; intro _ _)
                 | (extract_lets +onlyGivenNames t; revert t; intro _) | with_reducible apply State.setF_keeps | with_reducible apply State.setRxComb_keeps
                 | with_reducible apply State.setZone_keeps | with_reducible apply each_keeps
                 | with_reducible exact mk_keeps (by assumption) rfl rfl rfl rfl rfl rfl rfl rfl rfl rfl rfl rfl | with_reducible apply ite_keeps | split)

theorem State.checkOver_keeps {b : Kept} {s0 s : State} (c reading : Nat) (h : Keeps b s0 s) : Keeps b s0 (State.checkOver s c reading) := by
  unfold State.checkOver
  repeat' (first | with_reducible assumption
                 | (extract_lets +onlyGivenNames t; refine Keeps.cut (t := t) ?_ ?_; subst t; rotate_left; clear_value t; revert t; intro _ _)
                 | (extract_lets +onlyGivenNames t; revert t; intro _) | with_reducible apply State.setRxComb_keeps | with_reducible apply State.zoneFault_keeps
                 | with_reducible exact mk_keeps (by assumption) rfl rfl rfl rfl rfl rfl rfl rfl rfl rfl rfl rfl | with_reducible apply ite_keeps | split)

theorem State.checkComb_keeps {b : Kept} {s0 s : State} (z c reading : Nat) (h : Keeps b s0 s) : Keeps b s0 (State.checkComb s z c reading) := by
  unfold State.checkComb
  repeat' (first | with_reducible assumption
                 | (extract_lets +onlyGivenNames t; refine Keeps.cut (t := t) ?_ ?_; subst t; rotate_left; clear_value t; revert t; intro _ _)
                 | (extract_lets +onlyGivenNames t; revert t; intro _) | with_reducible apply State.addF_keeps | with_reducible apply State.openComb_keeps
                 | with_reducible apply State.refreshZone_keeps | with_reducible apply State.setRxComb_keeps | with_reducible apply State.suspect_keeps
                 | with_reducible exact mk_keeps (by assumption) rfl rfl rfl rfl rfl rfl rfl rfl rfl rfl rfl rfl | with_reducible apply ite_keeps | split)

theorem State.checkRef_keeps {b : Kept} {s0 s : State} (c : Nat) (ok : Bool) (h : Keeps b s0 s) : Keeps b s0 (State.checkRef s c ok) := by
  unfold State.checkRef
  repeat' (first | with_reducible assumption
                 | (extract_lets +onlyGivenNames t; refine Keeps.cut (t := t) ?_ ?_; subst t; rotate_left; clear_value t; revert t; intro _ _)
                 | (extract_lets +onlyGivenNames t; revert t; intro _) | with_reducible apply State.flag_keeps | with_reducible apply State.ok_keeps
                 | with_reducible apply State.setLossCause_keeps | with_reducible apply State.setRxComb_keeps
                 | with_reducible exact mk_keeps (by assumption) rfl rfl rfl rfl rfl rfl rfl rfl rfl rfl rfl rfl | with_reducible apply ite_keeps | split)

theorem State.runConversion_keeps {b : Kept} {s0 s : State} (c : Nat) (h : Keeps b s0 s) : Keeps b s0 (State.runConversion s c) := by
  unfold State.runConversion
  repeat' (first | with_reducible assumption
                 | (extract_lets +onlyGivenNames t; refine Keeps.cut (t := t) ?_ ?_; subst t; rotate_left; clear_value t; revert t; intro _ _)
                 | (extract_lets +onlyGivenNames t; revert t; intro _) | with_reducible apply State.setRxComb_keeps
                 | with_reducible exact mk_keeps (by assumption) rfl rfl rfl rfl rfl rfl rfl rfl rfl rfl rfl rfl | with_reducible apply ite_keeps | split)

theorem State.runConversions_keeps {b : Kept} {s0 s : State} (h : Keeps b s0 s) : Keeps b s0 (State.runConversions s) := by
  unfold State.runConversions
  repeat' (first | with_reducible assumption | (intro _; try beta_reduce) | with_reducible apply State.runConversion_keeps | with_reducible apply each_keeps
                 | with_reducible apply ite_keeps | split)

theorem State.biasHalt_keeps {b : Kept} {s0 s : State} (h : Keeps b s0 s) : Keeps b s0 (State.biasHalt s) := by
  unfold State.biasHalt
  repeat' (first | with_reducible assumption | (intro _; try beta_reduce)
                 | (extract_lets +onlyGivenNames t; refine Keeps.cut (t := t) ?_ ?_; subst t; rotate_left; clear_value t; revert t; intro _ _)
                 | (extract_lets +onlyGivenNames t; revert t; intro _) | with_reducible apply State.setRxComb_keeps | with_reducible apply State.setZone_keeps
                 | with_reducible apply each_keeps | with_reducible exact mk_keeps (by assumption) rfl rfl rfl rfl rfl rfl rfl rfl rfl rfl rfl rfl
                 | with_reducible apply ite_keeps | split)

theorem State.biasArm_keeps {b : Kept} {s0 s : State} (h : Keeps b s0 s) : Keeps b s0 (State.biasArm s) := by
  unfold State.biasArm
  repeat' (first | with_reducible assumption | (intro _; try beta_reduce) | with_reducible apply State.setZone_keeps | with_reducible apply each_keeps
                 | with_reducible apply ite_keeps | split)

theorem State.biasDown_keeps {b : Kept} {s0 s : State} (h : Keeps b s0 s) : Keeps b s0 (State.biasDown s) := by
  unfold State.biasDown
  repeat' (first | with_reducible assumption | (intro _; try beta_reduce) | with_reducible apply State.setZone_keeps | with_reducible apply each_keeps
                 | with_reducible apply ite_keeps | split)

theorem State.endBlank_keeps {b : Kept} {s0 s : State} (h : Keeps b s0 s) : Keeps b s0 (State.endBlank s) := by
  unfold State.endBlank
  repeat' (first | with_reducible assumption | (intro _; try beta_reduce)
                 | (extract_lets +onlyGivenNames t; refine Keeps.cut (t := t) ?_ ?_; subst t; rotate_left; clear_value t; revert t; intro _ _)
                 | (extract_lets +onlyGivenNames t; revert t; intro _)
                 | with_reducible apply State.setRxComb_keeps | with_reducible apply each_keeps | with_reducible apply foldl_keeps
                 | with_reducible exact mk_keeps (by assumption) rfl rfl rfl rfl rfl rfl rfl rfl rfl rfl rfl rfl | with_reducible apply ite_keeps | split)

theorem State.syncBlank_keeps {b : Kept} {s0 s : State} (h : Keeps b s0 s) : Keeps b s0 (State.syncBlank s) := by
  unfold State.syncBlank
  extract_lets on t1 t2 rx t3
  have h1 : Keeps b s0 t1 := ite_keeps (State.endBlank_keeps h) h
  have h3 : Keeps b s0 t3 := ite_keeps h (mk_keeps (State.setBit_keeps _ _ _ (State.setBit_keeps _ _ _ h1)) rfl rfl rfl rfl rfl rfl rfl rfl rfl rfl rfl rfl)
  exact ite_keeps (each_keeps _ _ h3 fun _ _ hu => State.tagBlank_keeps _ _ hu) h3

theorem State.retryStuck_keeps {b : Kept} {s0 s : State} (h : Keeps b s0 s) : Keeps b s0 (State.retryStuck s) := by
  unfold State.retryStuck
  repeat' (first | with_reducible assumption | (intro _; try beta_reduce)
                 | (extract_lets +onlyGivenNames t; refine Keeps.cut (t := t) ?_ ?_; subst t; rotate_left; clear_value t; revert t; intro _ _)
                 | (extract_lets +onlyGivenNames t; revert t; intro _)
                 | with_reducible apply State.modChan_keeps | with_reducible apply State.setF_keeps | with_reducible apply each_keeps
                 | with_reducible exact mk_keeps (by assumption) rfl rfl rfl rfl rfl rfl rfl rfl rfl rfl rfl rfl | with_reducible apply ite_keeps | split)

theorem State.stickChan_keeps {b : Kept} {s0 s : State} (n : Nat) (h : Keeps b s0 s) : Keeps b s0 (State.stickChan s n) := by
  unfold State.stickChan
  repeat' (first | with_reducible assumption | (intro _; try beta_reduce)
                 | (extract_lets +onlyGivenNames t; refine Keeps.cut (t := t) ?_ ?_; subst t; rotate_left; clear_value t; revert t; intro _ _)
                 | (extract_lets +onlyGivenNames t; revert t; intro _) | with_reducible apply State.addF_keeps | with_reducible apply State.flag_keeps
                 | with_reducible apply State.judgeChannels_keeps | with_reducible apply State.modChan_keeps
                 | with_reducible exact mk_keeps (by assumption) rfl rfl rfl rfl rfl rfl rfl rfl rfl rfl rfl rfl | with_reducible apply ite_keeps | split)

end Sys2Proof.Machine
end

