-- ==== Sys2Proof/Laws/KeepsC.lean ====
section
/-!
SUPPORT. Laws/KeepsC.lean: what each operation keeps (`Keeps`), for TdcOps, CombOps, RejOps, HiveOps, TrackOps, ZoneOps.
-/

namespace Sys2Proof.Machine

open Sys2Proof

theorem State.startSelftest_keeps {b : Kept} {s0 s : State} (h : Keeps b s0 s) : Keeps b s0 (State.startSelftest s) := by
  exact mk_keeps (State.setBit_keeps _ _ _ h) rfl rfl rfl rfl rfl rfl rfl rfl rfl rfl rfl rfl

theorem State.endSelftest_keeps {b : Kept} {s0 s : State} (bad : List Nat) (h : Keeps b s0 s) : Keeps b s0 (State.endSelftest s bad) := by
  unfold State.endSelftest
  repeat' (first | with_reducible assumption | (intro _; try beta_reduce)
                 | (extract_lets +onlyGivenNames t; refine Keeps.cut (t := t) ?_ ?_; subst t; rotate_left; clear_value t; revert t; intro _ _)
                 | (extract_lets +onlyGivenNames t; revert t; intro _) | with_reducible apply State.judgeChannels_keeps | with_reducible apply State.modChan_keeps
                 | with_reducible apply State.setBit_keeps | with_reducible apply each_keeps
                 | with_reducible exact mk_keeps (by assumption) rfl rfl rfl rfl rfl rfl rfl rfl rfl rfl rfl rfl | with_reducible apply ite_keeps | split)

theorem State.setShots_keeps {b : Kept} {s0 s : State} (l : List OpenShot) (h : Keeps b s0 s) : Keeps b s0 (State.setShots s l) := by
  unfold State.setShots
  repeat' (first | with_reducible assumption | with_reducible exact mk_keeps (by assumption) rfl rfl rfl rfl rfl rfl rfl rfl rfl rfl rfl rfl)

theorem State.putShot_keeps {b : Kept} {s0 s : State} (q : OpenShot) (h : Keeps b s0 s) : Keeps b s0 (State.putShot s q) := by
  unfold State.putShot
  repeat' (first | with_reducible assumption | (intro _; try beta_reduce) | with_reducible apply State.setShots_keeps | with_reducible apply ite_keeps | split)

theorem State.openShot_keeps {b : Kept} {s0 s : State} (q : CutShot) (h : Keeps b s0 s) : Keeps b s0 (State.openShot s q) := by
  unfold State.openShot
  repeat' (first | with_reducible assumption | (intro _; try beta_reduce)
                 | (extract_lets +onlyGivenNames t; refine Keeps.cut (t := t) ?_ ?_; subst t; rotate_left; clear_value t; revert t; intro _ _)
                 | (extract_lets +onlyGivenNames t; revert t; intro _)
                 | with_reducible apply State.openWindow_keeps | with_reducible apply State.setShots_keeps | with_reducible apply each_keeps
                 | with_reducible exact mk_keeps (by assumption) rfl rfl rfl rfl rfl rfl rfl rfl rfl rfl rfl rfl | with_reducible apply ite_keeps | split)

theorem State.startShot_keeps {b : Kept} {s0 s : State} (q : OpenShot) (rd : List (Nat × Nat)) (h : Keeps b s0 s) : Keeps b s0 (State.startShot s q rd) := by
  unfold State.startShot
  repeat' (first | with_reducible assumption | (intro _; try beta_reduce)
                 | (extract_lets +onlyGivenNames t; refine Keeps.cut (t := t) ?_ ?_; subst t; rotate_left; clear_value t; revert t; intro _ _)
                 | (extract_lets +onlyGivenNames t; revert t; intro _) | with_reducible apply State.mark_keeps | with_reducible apply State.putShot_keeps
                 | with_reducible apply each_keeps | with_reducible exact mk_keeps (by assumption) rfl rfl rfl rfl rfl rfl rfl rfl rfl rfl rfl rfl)

theorem State.closeWord_keeps {b : Kept} {s0 s : State} (q : OpenShot) (c : Nat) (noStart : Bool) (h : Keeps b s0 s) : Keeps b s0 (State.closeWord s q c noStart) := by
  unfold State.closeWord
  repeat' (first | with_reducible assumption | (intro _; try beta_reduce)
                 | (extract_lets +onlyGivenNames t; refine Keeps.cut (t := t) ?_ ?_; subst t; rotate_left; clear_value t; revert t; intro _ _)
                 | (extract_lets +onlyGivenNames t; revert t; intro _)
                 | with_reducible apply State.mark_keeps | with_reducible apply foldl_keeps | with_reducible apply wr_keeps
                 | with_reducible exact mk_keeps (by assumption) rfl rfl rfl rfl rfl rfl rfl rfl rfl rfl rfl rfl | with_reducible apply ite_keeps | split)

theorem State.noStart_keeps {b : Kept} {s0 s : State} (q : OpenShot) (h : Keeps b s0 s) : Keeps b s0 (State.noStart s q) := by
  unfold State.noStart
  repeat' (first | with_reducible assumption | (intro _; try beta_reduce)
                 | (extract_lets +onlyGivenNames t; refine Keeps.cut (t := t) ?_ ?_; subst t; rotate_left; clear_value t; revert t; intro _ _)
                 | (extract_lets +onlyGivenNames t; revert t; intro _) | with_reducible apply State.closeWord_keeps | with_reducible apply State.mark_keeps
                 | with_reducible apply State.setShots_keeps | with_reducible apply each_keeps)

theorem State.disarm_keeps {b : Kept} {s0 s : State} (n : Nat) (h : Keeps b s0 s) : Keeps b s0 (State.disarm s n) := by
  unfold State.disarm
  repeat' (first | with_reducible assumption | (intro _; try beta_reduce)
                 | (extract_lets +onlyGivenNames t; refine Keeps.cut (t := t) ?_ ?_; subst t; rotate_left; clear_value t; revert t; intro _ _)
                 | (extract_lets +onlyGivenNames t; revert t; intro _) | with_reducible apply State.closeWord_keeps | with_reducible apply State.putShot_keeps
                 | with_reducible apply State.setShots_keeps | with_reducible exact mk_keeps (by assumption) rfl rfl rfl rfl rfl rfl rfl rfl rfl rfl rfl rfl
                 | with_reducible apply ite_keeps | split)

theorem State.setStat_keeps {b : Kept} {s0 s : State} (c : Nat) (x : Stat) (h : Keeps b s0 s) : Keeps b s0 (State.setStat s c x) := by
  unfold State.setStat
  repeat' (first | with_reducible assumption | with_reducible exact mk_keeps (by assumption) rfl rfl rfl rfl rfl rfl rfl rfl rfl rfl rfl rfl)

theorem State.collect_keeps {b : Kept} {s0 s : State} (c : Nat) (w : EvtWord) (lsb : Nat) (h : Keeps b s0 s) : Keeps b s0 (State.collect s c w lsb) := by
  unfold State.collect
  repeat' (first | with_reducible assumption
                 | (extract_lets +onlyGivenNames t; refine Keeps.cut (t := t) ?_ ?_; subst t; rotate_left; clear_value t; revert t; intro _ _)
                 | (extract_lets +onlyGivenNames t; revert t; intro _) | with_reducible apply State.gate_keeps | with_reducible apply State.setR_keeps
                 | with_reducible apply State.setStat_keeps | with_reducible exact mk_keeps (by assumption) rfl rfl rfl rfl rfl rfl rfl rfl rfl rfl rfl rfl
                 | with_reducible apply ite_keeps | split)

theorem State.endStat_keeps {b : Kept} {s0 s : State} (c st : Nat) (h : Keeps b s0 s) : Keeps b s0 (State.endStat s c st) := by
  unfold State.endStat
  repeat' (first | with_reducible assumption
                 | (extract_lets +onlyGivenNames t; refine Keeps.cut (t := t) ?_ ?_; subst t; rotate_left; clear_value t; revert t; intro _ _)
                 | (extract_lets +onlyGivenNames t; revert t; intro _) | with_reducible apply State.setF_keeps | with_reducible apply State.setR_keeps
                 | with_reducible apply ite_keeps | split)

theorem State.strongEvent_keeps {b : Kept} {s0 s : State} (q : OpenShot) (w : EvtWord) (c lsb : Nat) (h : Keeps b s0 s) : Keeps b s0 (State.strongEvent s q w c lsb) := by
  unfold State.strongEvent
  repeat' (first | with_reducible assumption
                 | (extract_lets +onlyGivenNames t; refine Keeps.cut (t := t) ?_ ?_; subst t; rotate_left; clear_value t; revert t; intro _ _)
                 | (extract_lets +onlyGivenNames t; revert t; intro _) | with_reducible apply State.flag_keeps | with_reducible apply State.inc_keeps
                 | with_reducible exact mk_keeps (by assumption) rfl rfl rfl rfl rfl rfl rfl rfl rfl rfl rfl rfl | with_reducible apply ite_keeps | split)

theorem State.writeEvent_keeps {b : Kept} {s0 s : State} (q : OpenShot) (c lsb : Nat) (w : EvtWord) (h : Keeps b s0 s) : Keeps b s0 (State.writeEvent s q c lsb w) := by
  unfold State.writeEvent
  repeat' (first | with_reducible assumption | (intro _; try beta_reduce)
                 | (extract_lets +onlyGivenNames t; refine Keeps.cut (t := t) ?_ ?_; subst t; rotate_left; clear_value t; revert t; intro _ _)
                 | (extract_lets +onlyGivenNames t; revert t; intro _)
                 | with_reducible apply State.capOffer_keeps | with_reducible apply State.collect_keeps | with_reducible apply State.flag_keeps
                 | with_reducible apply State.inc_keeps | with_reducible apply State.loopLate_keeps | with_reducible apply State.putShot_keeps
                 | with_reducible apply State.setTdcComb_keeps | with_reducible apply State.strongEvent_keeps | with_reducible apply wr_keeps
                 | with_reducible exact mk_keeps (by assumption) rfl rfl rfl rfl rfl rfl rfl rfl rfl rfl rfl rfl | with_reducible apply ite_keeps | split)

theorem State.preStart_keeps {b : Kept} {s0 s : State} (c : Nat) (h : Keeps b s0 s) : Keeps b s0 (State.preStart s c) := by
  unfold State.preStart
  repeat' (first | with_reducible assumption | with_reducible apply State.flag_keeps | with_reducible apply State.inc_keeps)

theorem State.edgeLost_keeps {b : Kept} {s0 s : State} (q : OpenShot) (n reg i : Nat) (h : Keeps b s0 s) : Keeps b s0 (State.edgeLost s q n reg i) := by
  unfold State.edgeLost
  repeat' (first | with_reducible assumption | with_reducible apply State.flag_keeps | with_reducible apply State.inc_keeps
                 | with_reducible apply State.putShot_keeps | with_reducible exact mk_keeps (by assumption) rfl rfl rfl rfl rfl rfl rfl rfl rfl rfl rfl rfl
                 | with_reducible apply ite_keeps | split)

theorem State.timeEdge_keeps {b : Kept} {s0 s : State} (q : OpenShot) (n range count code : Nat) (sat : Bool) (h : Keeps b s0 s) : Keeps b s0 (State.timeEdge s q n range count code sat) := by
  unfold State.timeEdge
  repeat' (first | with_reducible assumption | (intro _; try beta_reduce)
                 | (extract_lets +onlyGivenNames t; refine Keeps.cut (t := t) ?_ ?_; subst t; rotate_left; clear_value t; revert t; intro _ _)
                 | (extract_lets +onlyGivenNames t; revert t; intro _)
                 | with_reducible apply State.disarm_keeps | with_reducible apply State.edgeLost_keeps | with_reducible apply State.flag_keeps
                 | with_reducible apply State.modChan_keeps | with_reducible apply State.preStart_keeps | with_reducible apply State.putShot_keeps
                 | with_reducible apply State.writeEvent_keeps | with_reducible apply when_keeps
                 | with_reducible exact mk_keeps (by assumption) rfl rfl rfl rfl rfl rfl rfl rfl rfl rfl rfl rfl | with_reducible apply ite_keeps | split)

theorem State.edge_keeps {b : Kept} {s0 s : State} (n count code level dip overNs : Nat) (h : Keeps b s0 s) : Keeps b s0 (State.edge s n count code level dip overNs) := by
  unfold State.edge
  repeat' (first | with_reducible assumption | (intro _; try beta_reduce)
                 | (extract_lets +onlyGivenNames t; refine Keeps.cut (t := t) ?_ ?_; subst t; rotate_left; clear_value t; revert t; intro _ _)
                 | (extract_lets +onlyGivenNames t; revert t; intro _) | with_reducible apply State.flag_keeps | with_reducible apply State.inc_keeps
                 | with_reducible apply State.modChan_keeps | with_reducible apply State.preStart_keeps | with_reducible apply State.timeEdge_keeps
                 | with_reducible exact mk_keeps (by assumption) rfl rfl rfl rfl rfl rfl rfl rfl rfl rfl rfl rfl | with_reducible apply ite_keeps | split)

theorem State.setComb_keeps {b : Kept} {s0 s : State} (c : Nat) (x : CombSt) (h : Keeps b s0 s) : Keeps b s0 (State.setComb s c x) := by
  unfold State.setComb
  repeat' (first | with_reducible assumption | with_reducible exact mk_keeps (by assumption) rfl rfl rfl rfl rfl rfl rfl rfl rfl rfl rfl rfl)

theorem State.setHist_keeps {b : Kept} {s0 s : State} (c k : Nat) (h' : Option PtHist) (h : Keeps b s0 s) : Keeps b s0 (State.setHist s c k h') := by
  unfold State.setHist
  repeat' (first | with_reducible assumption | with_reducible apply State.setComb_keeps
                 | with_reducible exact mk_keeps (by assumption) rfl rfl rfl rfl rfl rfl rfl rfl rfl rfl rfl rfl)

theorem State.modHist_keeps {b : Kept} {s0 s : State} (c k : Nat) (f : PtHist → PtHist) (h : Keeps b s0 s) : Keeps b s0 (State.modHist s c k f) := by
  unfold State.modHist
  repeat' (first | with_reducible assumption | with_reducible apply State.setHist_keeps | with_reducible apply ite_keeps | split)

theorem State.putCombCol_keeps {b : Kept} {s0 s : State} (c : Nat) (x : CombCol) (h : Keeps b s0 s) : Keeps b s0 (State.putCombCol s c x) := by
  unfold State.putCombCol
  repeat' (first | with_reducible assumption | (intro _; try beta_reduce) | with_reducible apply State.setComb_keeps
                 | with_reducible exact mk_keeps (by assumption) rfl rfl rfl rfl rfl rfl rfl rfl rfl rfl rfl rfl | with_reducible apply ite_keeps | split)

theorem State.modCombSeg_keeps {b : Kept} {s0 s : State} (c key g : Nat) (f : CombSeg → CombSeg) (h : Keeps b s0 s) : Keeps b s0 (State.modCombSeg s c key g f) := by
  unfold State.modCombSeg
  repeat' (first | with_reducible assumption | (intro _; try beta_reduce) | with_reducible apply State.putCombCol_keeps
                 | with_reducible exact mk_keeps (by assumption) rfl rfl rfl rfl rfl rfl rfl rfl rfl rfl rfl rfl | with_reducible apply ite_keeps | split)

theorem State.setBank_keeps {b : Kept} {s0 s : State} (c b' v : Nat) (h : Keeps b s0 s) : Keeps b s0 (State.setBank s c b' v) := by
  unfold State.setBank
  repeat' (first | with_reducible assumption | with_reducible apply State.setF_keeps)

theorem State.beginCombCol_keeps {b : Kept} {s0 s : State} (c key frame column : Nat) (h : Keeps b s0 s) : Keeps b s0 (State.beginCombCol s c key frame column) := by
  unfold State.beginCombCol
  repeat' (first | with_reducible assumption
                 | (extract_lets +onlyGivenNames t; refine Keeps.cut (t := t) ?_ ?_; subst t; rotate_left; clear_value t; revert t; intro _ _)
                 | (extract_lets +onlyGivenNames t; revert t; intro _) | with_reducible apply State.flag_keeps | with_reducible apply State.inc_keeps
                 | with_reducible apply State.setBank_keeps | with_reducible apply State.setComb_keeps
                 | with_reducible exact mk_keeps (by assumption) rfl rfl rfl rfl rfl rfl rfl rfl rfl rfl rfl rfl | with_reducible apply ite_keeps | split)

theorem State.beginCombSeg_keeps {b : Kept} {s0 s : State} (c key g window profile : Nat) (h : Keeps b s0 s) : Keeps b s0 (State.beginCombSeg s c key g window profile) := by
  unfold State.beginCombSeg
  repeat' (first | with_reducible assumption
                 | (extract_lets +onlyGivenNames t; refine Keeps.cut (t := t) ?_ ?_; subst t; rotate_left; clear_value t; revert t; intro _ _)
                 | (extract_lets +onlyGivenNames t; revert t; intro _) | with_reducible apply State.putCombCol_keeps
                 | with_reducible exact mk_keeps (by assumption) rfl rfl rfl rfl rfl rfl rfl rfl rfl rfl rfl rfl | with_reducible apply ite_keeps | split)

theorem State.openHist_keeps {b : Kept} {s0 s : State} (c key seg n : Nat) (h : Keeps b s0 s) : Keeps b s0 (State.openHist s c key seg n) := by
  unfold State.openHist
  repeat' (first | with_reducible assumption | with_reducible apply State.setHist_keeps | with_reducible apply ite_keeps | split)

theorem State.notice_keeps {b : Kept} {s0 s : State} (c : Nat) (q : CutShot) (h : Keeps b s0 s) : Keeps b s0 (State.notice s c q) := by
  unfold State.notice
  repeat' (first | with_reducible assumption | (intro _; try beta_reduce)
                 | (extract_lets +onlyGivenNames t; refine Keeps.cut (t := t) ?_ ?_; subst t; rotate_left; clear_value t; revert t; intro _ _)
                 | (extract_lets +onlyGivenNames t; revert t; intro _) | with_reducible apply State.beginCombCol_keeps | with_reducible apply State.beginCombSeg_keeps
                 | with_reducible apply State.modCombSeg_keeps | with_reducible apply State.openHist_keeps | with_reducible apply State.setComb_keeps
                 | with_reducible apply each_keeps | with_reducible exact mk_keeps (by assumption) rfl rfl rfl rfl rfl rfl rfl rfl rfl rfl rfl rfl
                 | with_reducible apply ite_keeps | split)

theorem State.binEvent_keeps {b : Kept} {s0 s : State} (c : Nat) (h : Keeps b s0 s) : Keeps b s0 (State.binEvent s c) := by
  unfold State.binEvent
  repeat' (first | with_reducible assumption | (intro _; try beta_reduce)
                 | (extract_lets +onlyGivenNames t; refine Keeps.cut (t := t) ?_ ?_; subst t; rotate_left; clear_value t; revert t; intro _ _)
                 | (extract_lets +onlyGivenNames t; revert t; intro _)
                 | with_reducible apply State.add_keeps | with_reducible apply State.flag_keeps | with_reducible apply State.inc_keeps
                 | with_reducible apply State.modHist_keeps | with_reducible apply State.setHist_keeps | with_reducible apply State.setTdcComb_keeps
                 | with_reducible apply when_keeps
                 | with_reducible exact mk_keeps (by assumption) rfl rfl rfl rfl rfl rfl rfl rfl rfl rfl rfl rfl | with_reducible apply ite_keeps | split)

theorem State.actClose_keeps {b : Kept} {s0 s : State} (c : Nat) (h : Keeps b s0 s) : Keeps b s0 (State.actClose s c) := by
  unfold State.actClose
  repeat' (first | with_reducible assumption | (intro _; try beta_reduce)
                 | (extract_lets +onlyGivenNames t; refine Keeps.cut (t := t) ?_ ?_; subst t; rotate_left; clear_value t; revert t; intro _ _)
                 | (extract_lets +onlyGivenNames t; revert t; intro _)
                 | with_reducible apply State.modCombSeg_keeps | with_reducible apply State.modHist_keeps | with_reducible apply State.noStart_keeps
                 | with_reducible apply State.setComb_keeps | with_reducible apply State.setTdcComb_keeps | with_reducible apply each_keeps
                 | with_reducible exact mk_keeps (by assumption) rfl rfl rfl rfl rfl rfl rfl rfl rfl rfl rfl rfl | with_reducible apply ite_keeps | split)

theorem testChannel_keeps {b : Kept} {s0 : State} (c key : Nat) (col : CombCol) (sg : CombSeg) (a : Nat × Nat × State) (n : Nat) (h : Keeps b s0 a.2.2) : Keeps b s0 (testChannel c key col sg a n).2.2 := by
  unfold testChannel
  split
  · exact h
  · split
    · exact h
    · exact State.setHist_keeps _ _ _ h

theorem State.testBatch_keeps {b : Kept} {s0 s : State} (c key g k : Nat) (h : Keeps b s0 s) : Keeps b s0 (State.testBatch s c key g k) := by
  unfold State.testBatch
  split
  · exact h
  · split
    · exact h
    · rename_i col _ _ sg _
      extract_lets bt mask t1 r t2 t3
      have h1 : Keeps b s0 t1 := State.modCombSeg_keeps _ _ _ _ h
      have h2 : Keeps b s0 t2 := by
        have : ∀ (l : List Nat) (a : Nat × Nat × State), Keeps b s0 a.2.2 → Keeps b s0 (l.foldl (testChannel c key col sg) a).2.2 := by
          intro l
          induction l with
          | nil => exact fun _ x => x
          | cons n l ih => exact fun a x => ih _ (testChannel_keeps _ _ _ _ _ _ x)
        exact this _ _ h1
      exact State.add_keeps _ _ (State.add_keeps _ _ (State.setComb_keeps _ _ h2))

theorem State.syncFill_keeps {b : Kept} {s0 s : State} (c : Nat) (h : Keeps b s0 s) : Keeps b s0 (State.syncFill s c) := by
  unfold State.syncFill
  repeat' (first | with_reducible assumption | (intro _; try beta_reduce)
                 | (extract_lets +onlyGivenNames t; refine Keeps.cut (t := t) ?_ ?_; subst t; rotate_left; clear_value t; revert t; intro _ _)
                 | (extract_lets +onlyGivenNames t; revert t; intro _)
                 | with_reducible apply State.setF_keeps
                 | with_reducible exact mk_keeps (by assumption) rfl rfl rfl rfl rfl rfl rfl rfl rfl rfl rfl rfl | with_reducible apply ite_keeps | split)

theorem State.pullStaged_keeps {b : Kept} {s0 s : State} (n : Nat) (h : Keeps b s0 s) : Keeps b s0 (State.pullStaged s n) := by
  induction n generalizing s with
  | zero => exact h
  | succ n ih =>
    unfold State.pullStaged
    split
    · exact h
    · refine ih (State.setF_keeps _ _ _ _ ?_)
      exact mk_keeps (State.capOffer_keeps _ h) rfl rfl rfl rfl rfl rfl rfl rfl rfl rfl rfl rfl

theorem State.stageDiag_keeps {b : Kept} {s0 s : State} (c : Nat) (h' : PtHist) (r : ExpRec) (h : Keeps b s0 s) : Keeps b s0 (State.stageDiag s c h' r).2 := by
  unfold State.stageDiag
  repeat' (first | with_reducible assumption | (intro _; try beta_reduce)
                 | (extract_lets +onlyGivenNames t; refine Keeps.cut (t := t) ?_ ?_; subst t; rotate_left; clear_value t; revert t; intro _ _)
                 | (extract_lets +onlyGivenNames t; revert t; intro _)
                 | with_reducible apply State.capOffer_keeps | with_reducible apply State.flag_keeps | with_reducible apply State.inc_keeps
                 | with_reducible apply State.pullStaged_keeps | with_reducible apply State.setComb_keeps
                 | with_reducible exact mk_keeps (by assumption) rfl rfl rfl rfl rfl rfl rfl rfl rfl rfl rfl rfl | with_reducible apply ite_keeps | split)

theorem State.exportPt_keeps {b : Kept} {s0 s : State} (c : Nat) (col : CombCol) (n : Nat) (h : Keeps b s0 s) : Keeps b s0 (State.exportPt s c col n) := by
  unfold State.exportPt
  extract_lets k
  split
  · exact h
  · split
    · exact State.setHist_keeps _ _ _ h
    · extract_lets r d co t1 t2 a
      have hd : Keeps b s0 d.2 := by
        show Keeps b s0 (if _ then _ else _ : ExpRec × State).2
        split
        · exact State.stageDiag_keeps _ _ _ h
        · exact h
      have h2 : Keeps b s0 t2 := State.setHist_keeps _ _ _ (State.setComb_keeps _ _ hd)
      split
      · exact State.setHist_keeps _ _ _ h
      · split
        · exact h
        · split
          · exact h2
          · exact mk_keeps h2 rfl rfl rfl rfl rfl rfl rfl rfl rfl rfl rfl rfl

theorem State.updateAdp_keeps {b : Kept} {s0 s : State} (c : Nat) (h : Keeps b s0 s) : Keeps b s0 (State.updateAdp s c) := by
  unfold State.updateAdp
  repeat' (first | with_reducible assumption
                 | (extract_lets +onlyGivenNames t; refine Keeps.cut (t := t) ?_ ?_; subst t; rotate_left; clear_value t; revert t; intro _ _)
                 | (extract_lets +onlyGivenNames t; revert t; intro _) | with_reducible apply State.flag_keeps | with_reducible apply State.setF_keeps
                 | with_reducible exact mk_keeps (by assumption) rfl rfl rfl rfl rfl rfl rfl rfl rfl rfl rfl rfl | with_reducible apply ite_keeps | split)

theorem State.closeCombCol_keeps {b : Kept} {s0 s : State} (key c : Nat) (h : Keeps b s0 s) : Keeps b s0 (State.closeCombCol s key c) := by
  unfold State.closeCombCol
  repeat' (first | with_reducible assumption
                 | (extract_lets +onlyGivenNames t; refine Keeps.cut (t := t) ?_ ?_; subst t; rotate_left; clear_value t; revert t; intro _ _)
                 | (extract_lets +onlyGivenNames t; revert t; intro _) | with_reducible apply State.putCombCol_keeps | with_reducible apply State.setBank_keeps
                 | with_reducible exact mk_keeps (by assumption) rfl rfl rfl rfl rfl rfl rfl rfl rfl rfl rfl rfl | with_reducible apply ite_keeps | split)

theorem State.closeCombCols_keeps {b : Kept} {s0 s : State} (key : Nat) (h : Keeps b s0 s) : Keeps b s0 (State.closeCombCols s key) := by
  unfold State.closeCombCols
  repeat' (first | with_reducible assumption | (intro _; try beta_reduce) | with_reducible apply State.closeCombCol_keeps | with_reducible apply each_keeps)

theorem State.exportAll_keeps {b : Kept} {s0 s : State} (c : Nat) (col : CombCol) (l : List Nat) (h : Keeps b s0 s) : Keeps b s0 (State.exportAll s c col l) := by
  induction l generalizing s with
  | nil => exact h
  | cons n ns ih =>
    unfold State.exportAll
    have h1 := State.exportPt_keeps c col n h
    exact ite_keeps h1 (ih h1)

theorem State.countWait_keeps {b : Kept} {s0 s : State} (c : Nat) (h : Keeps b s0 s) : Keeps b s0 (State.countWait s c) := by
  unfold State.countWait
  repeat' (first | with_reducible assumption | (intro _; try beta_reduce)
                 | (extract_lets +onlyGivenNames t; refine Keeps.cut (t := t) ?_ ?_; subst t; rotate_left; clear_value t; revert t; intro _ _)
                 | (extract_lets +onlyGivenNames t; revert t; intro _)
                 | with_reducible apply State.add_keeps | with_reducible apply State.flag_keeps | with_reducible apply State.setBit_keeps
                 | with_reducible apply State.setComb_keeps
                 | with_reducible exact mk_keeps (by assumption) rfl rfl rfl rfl rfl rfl rfl rfl rfl rfl rfl rfl | with_reducible apply ite_keeps | split)

theorem State.exportScan_keeps {b : Kept} {s0 s : State} (c : Nat) (h : Keeps b s0 s) : Keeps b s0 (State.exportScan s c) := by
  unfold State.exportScan
  split
  · exact h
  · extract_lets at_ t1 t2 t3 t4 fr
    have h2 : Keeps b s0 t2 := State.exportAll_keeps _ _ _ (State.countWait_keeps _ h)
    have h3 : Keeps b s0 t3 := ite_keeps h2 (State.setBank_keeps _ _ _ h2)
    refine ite_keeps h (ite_keeps h (ite_keeps ?_ ?_))
    · exact State.syncFill_keeps _ (State.updateAdp_keeps _ (State.setComb_keeps _ _ h3))
    · exact State.syncFill_keeps _ (State.putCombCol_keeps _ _ h2)

theorem State.syncFe_keeps {b : Kept} {s0 s : State} (h : Keeps b s0 s) : Keeps b s0 (State.syncFe s) := by
  unfold State.syncFe
  repeat' (first | with_reducible assumption
                 | (extract_lets +onlyGivenNames t; refine Keeps.cut (t := t) ?_ ?_; subst t; rotate_left; clear_value t; revert t; intro _ _)
                 | (extract_lets +onlyGivenNames t; revert t; intro _) | with_reducible apply State.setF_keeps)

theorem State.feFree_keeps {b : Kept} {s0 s : State} (i : Nat) (h : Keeps b s0 s) : Keeps b s0 (State.feFree s i) := by
  unfold State.feFree
  repeat' (first | with_reducible assumption
                 | (extract_lets +onlyGivenNames t; refine Keeps.cut (t := t) ?_ ?_; subst t; rotate_left; clear_value t; revert t; intro _ _)
                 | (extract_lets +onlyGivenNames t; revert t; intro _) | with_reducible apply State.raise_keeps | with_reducible apply State.setR_keeps
                 | with_reducible exact mk_keeps (by assumption) rfl rfl rfl rfl rfl rfl rfl rfl rfl rfl rfl rfl | with_reducible apply ite_keeps | split)

theorem State.feAnchor_keeps {b : Kept} {s0 s : State} (i a hits comb : Nat) (h : Keeps b s0 s) : Keeps b s0 (State.feAnchor s i a hits comb) := by
  unfold State.feAnchor
  repeat' (first | with_reducible assumption
                 | (extract_lets +onlyGivenNames t; refine Keeps.cut (t := t) ?_ ?_; subst t; rotate_left; clear_value t; revert t; intro _ _)
                 | (extract_lets +onlyGivenNames t; revert t; intro _) | with_reducible apply State.setBit_keeps | with_reducible apply State.setF_keeps
                 | with_reducible apply State.setR_keeps | with_reducible exact mk_keeps (by assumption) rfl rfl rfl rfl rfl rfl rfl rfl rfl rfl rfl rfl)

theorem State.feConfirm_keeps {b : Kept} {s0 s : State} (i : Nat) (h : Keeps b s0 s) : Keeps b s0 (State.feConfirm s i) := by
  unfold State.feConfirm
  repeat' (first | with_reducible assumption
                 | (extract_lets +onlyGivenNames t; refine Keeps.cut (t := t) ?_ ?_; subst t; rotate_left; clear_value t; revert t; intro _ _)
                 | (extract_lets +onlyGivenNames t; revert t; intro _) | with_reducible apply State.flag_keeps | with_reducible apply State.raise_keeps
                 | with_reducible apply State.setF_keeps | with_reducible apply ite_keeps | split)

theorem State.feMerge_keeps {b : Kept} {s0 s : State} (i : Nat) (h : Keeps b s0 s) : Keeps b s0 (State.feMerge s i) := by
  unfold State.feMerge
  repeat' (first | with_reducible assumption | (intro _; try beta_reduce)
                 | (extract_lets +onlyGivenNames t; refine Keeps.cut (t := t) ?_ ?_; subst t; rotate_left; clear_value t; revert t; intro _ _)
                 | (extract_lets +onlyGivenNames t; revert t; intro _) | with_reducible apply State.feFree_keeps | with_reducible apply each_keeps
                 | with_reducible apply ite_keeps | split)

theorem State.feMerges_keeps {b : Kept} {s0 s : State} (h : Keeps b s0 s) : Keeps b s0 (State.feMerges s) := by
  unfold State.feMerges
  repeat' (first | with_reducible assumption | (intro _; try beta_reduce) | with_reducible apply State.feMerge_keeps | with_reducible apply each_keeps)

theorem State.feNew_keeps {b : Kept} {s0 s : State} (q : Strong) (h : Keeps b s0 s) : Keeps b s0 (State.feNew s q) := by
  unfold State.feNew
  repeat' (first | with_reducible assumption | (intro _; try beta_reduce)
                 | (extract_lets +onlyGivenNames t; refine Keeps.cut (t := t) ?_ ?_; subst t; rotate_left; clear_value t; revert t; intro _ _)
                 | (extract_lets +onlyGivenNames t; revert t; intro _) | with_reducible apply State.feAnchor_keeps | with_reducible apply State.feConfirm_keeps
                 | with_reducible apply State.feFree_keeps | with_reducible apply State.setF_keeps | with_reducible apply State.setR_keeps
                 | with_reducible exact mk_keeps (by assumption) rfl rfl rfl rfl rfl rfl rfl rfl rfl rfl rfl rfl | with_reducible apply ite_keeps | split)

theorem State.feTake_keeps {b : Kept} {s0 s : State} (q : Strong) (h : Keeps b s0 s) : Keeps b s0 (State.feTake s q) := by
  unfold State.feTake
  repeat' (first | with_reducible assumption | (intro _; try beta_reduce)
                 | (extract_lets +onlyGivenNames t; refine Keeps.cut (t := t) ?_ ?_; subst t; rotate_left; clear_value t; revert t; intro _ _)
                 | (extract_lets +onlyGivenNames t; revert t; intro _) | with_reducible apply State.feAnchor_keeps | with_reducible apply State.feConfirm_keeps
                 | with_reducible apply State.feMerges_keeps | with_reducible apply State.feNew_keeps | with_reducible apply State.feTest_keeps
                 | with_reducible apply State.setR_keeps | with_reducible apply State.syncFe_keeps | with_reducible apply State.takeEffect_keeps
                 | with_reducible exact mk_keeps (by assumption) rfl rfl rfl rfl rfl rfl rfl rfl rfl rfl rfl rfl | with_reducible apply ite_keeps | split)

theorem State.sunReduceZone_keeps {b : Kept} {s0 s : State} (z : Nat) (h : Keeps b s0 s) : Keeps b s0 (State.sunReduceZone s z) := by
  unfold State.sunReduceZone
  repeat' (first | with_reducible assumption
                 | (extract_lets +onlyGivenNames t; refine Keeps.cut (t := t) ?_ ?_; subst t; rotate_left; clear_value t; revert t; intro _ _)
                 | (extract_lets +onlyGivenNames t; revert t; intro _) | with_reducible apply State.flag_keeps | with_reducible apply State.setF_keeps
                 | with_reducible apply ite_keeps | split)

theorem State.sunReduce_keeps {b : Kept} {s0 s : State} (h : Keeps b s0 s) : Keeps b s0 (State.sunReduce s) := by
  unfold State.sunReduce
  repeat' (first | with_reducible assumption | (intro _; try beta_reduce) | with_reducible apply State.sunReduceZone_keeps | with_reducible apply each_keeps)

theorem State.wxPoint_keeps {b : Kept} {s0 s : State} (r : ExpRec) (h : Keeps b s0 s) : Keeps b s0 (State.wxPoint s r) := by
  unfold State.wxPoint
  repeat' (first | with_reducible assumption | (intro _; try beta_reduce)
                 | (extract_lets +onlyGivenNames t; refine Keeps.cut (t := t) ?_ ?_; subst t; rotate_left; clear_value t; revert t; intro _ _)
                 | (extract_lets +onlyGivenNames t; revert t; intro _) | with_reducible apply each_keeps
                 | with_reducible exact mk_keeps (by assumption) rfl rfl rfl rfl rfl rfl rfl rfl rfl rfl rfl rfl | with_reducible apply ite_keeps | split)

theorem State.wxProfiles_keeps {b : Kept} {s0 s : State} (h : Keeps b s0 s) : Keeps b s0 (State.wxProfiles s) := by
  unfold State.wxProfiles
  repeat' (first | with_reducible assumption | (intro _; try beta_reduce)
                 | (extract_lets +onlyGivenNames t; refine Keeps.cut (t := t) ?_ ?_; subst t; rotate_left; clear_value t; revert t; intro _ _)
                 | (extract_lets +onlyGivenNames t; revert t; intro _) | with_reducible apply State.setF_keeps | with_reducible apply each_keeps
                 | with_reducible exact mk_keeps (by assumption) rfl rfl rfl rfl rfl rfl rfl rfl rfl rfl rfl rfl | with_reducible apply ite_keeps | split)

theorem State.wxBoundary_keeps {b : Kept} {s0 s : State} (h : Keeps b s0 s) : Keeps b s0 (State.wxBoundary s) := by
  unfold State.wxBoundary
  repeat' (first | with_reducible assumption | (intro _; try beta_reduce)
                 | (extract_lets +onlyGivenNames t; refine Keeps.cut (t := t) ?_ ?_; subst t; rotate_left; clear_value t; revert t; intro _ _)
                 | (extract_lets +onlyGivenNames t; revert t; intro _) | with_reducible apply State.flag_keeps | with_reducible apply State.inc_keeps
                 | with_reducible apply State.raise_keeps | with_reducible apply State.setF_keeps | with_reducible apply State.takeEffect_keeps
                 | with_reducible exact mk_keeps (by assumption) rfl rfl rfl rfl rfl rfl rfl rfl rfl rfl rfl rfl | with_reducible apply ite_keeps | split)

theorem State.setDet_keeps {b : Kept} {s0 s : State} (d : Det) (h : Keeps b s0 s) : Keeps b s0 (State.setDet s d) := by
  unfold State.setDet
  repeat' (first | with_reducible assumption | with_reducible exact mk_keeps (by assumption) rfl rfl rfl rfl rfl rfl rfl rfl rfl rfl rfl rfl)

theorem State.setHive_keeps {b : Kept} {s0 s : State} (h' : Nat) (x : HiveSt) (h : Keeps b s0 s) : Keeps b s0 (State.setHive s h' x) := by
  unfold State.setHive
  repeat' (first | with_reducible assumption | with_reducible apply State.setDet_keeps
                 | with_reducible exact mk_keeps (by assumption) rfl rfl rfl rfl rfl rfl rfl rfl rfl rfl rfl rfl)

theorem State.setEngine_keeps {b : Kept} {s0 s : State} (e : Nat) (x : Option EngineJob) (h : Keeps b s0 s) : Keeps b s0 (State.setEngine s e x) := by
  unfold State.setEngine
  repeat' (first | with_reducible assumption | with_reducible apply State.setDet_keeps
                 | with_reducible exact mk_keeps (by assumption) rfl rfl rfl rfl rfl rfl rfl rfl rfl rfl rfl rfl)

theorem State.setResult_keeps {b : Kept} {s0 s : State} (k : Nat) (x : Option DetPoint) (h : Keeps b s0 s) : Keeps b s0 (State.setResult s k x) := by
  unfold State.setResult
  repeat' (first | with_reducible assumption | with_reducible apply State.setDet_keeps
                 | with_reducible exact mk_keeps (by assumption) rfl rfl rfl rfl rfl rfl rfl rfl rfl rfl rfl rfl)

theorem State.dropRecord_keeps {b : Kept} {s0 s : State} (h' : Nat) (r : ExpRec) (h : Keeps b s0 s) : Keeps b s0 (State.dropRecord s h' r) := by
  unfold State.dropRecord
  repeat' (first | with_reducible assumption | (intro _; try beta_reduce)
                 | (extract_lets +onlyGivenNames t; refine Keeps.cut (t := t) ?_ ?_; subst t; rotate_left; clear_value t; revert t; intro _ _)
                 | (extract_lets +onlyGivenNames t; revert t; intro _) | with_reducible apply State.add_keeps | with_reducible apply State.flag_keeps
                 | with_reducible apply State.modPt_keeps | with_reducible apply State.setResult_keeps
                 | with_reducible exact mk_keeps (by assumption) rfl rfl rfl rfl rfl rfl rfl rfl rfl rfl rfl rfl)

theorem State.waitRecord_keeps {b : Kept} {s0 s : State} (h' : Nat) (r : ExpRec) (h : Keeps b s0 s) : Keeps b s0 (State.waitRecord s h' r) := by
  unfold State.waitRecord
  repeat' (first | with_reducible assumption
                 | (extract_lets +onlyGivenNames t; refine Keeps.cut (t := t) ?_ ?_; subst t; rotate_left; clear_value t; revert t; intro _ _)
                 | (extract_lets +onlyGivenNames t; revert t; intro _) | with_reducible apply State.dropRecord_keeps | with_reducible apply State.setHive_keeps
                 | with_reducible exact mk_keeps (by assumption) rfl rfl rfl rfl rfl rfl rfl rfl rfl rfl rfl rfl | with_reducible apply ite_keeps | split)

theorem State.hiveDispatch_keeps {b : Kept} {s0 s : State} (h' : Nat) (h : Keeps b s0 s) : Keeps b s0 (State.hiveDispatch s h') := by
  unfold State.hiveDispatch
  repeat' (first | with_reducible assumption
                 | (extract_lets +onlyGivenNames t; refine Keeps.cut (t := t) ?_ ?_; subst t; rotate_left; clear_value t; revert t; intro _ _)
                 | (extract_lets +onlyGivenNames t; revert t; intro _) | with_reducible apply State.ringFor_keeps | with_reducible apply State.setComb_keeps
                 | with_reducible apply State.setEngine_keeps | with_reducible apply State.setHive_keeps | with_reducible apply State.syncFill_keeps
                 | with_reducible apply State.waitRecord_keeps | with_reducible exact mk_keeps (by assumption) rfl rfl rfl rfl rfl rfl rfl rfl rfl rfl rfl rfl
                 | with_reducible apply ite_keeps | split)

theorem State.pushChain_keeps {b : Kept} {s0 s : State} (h' : Nat) (k : FrameCfg) (r : ExpRec) (w : WinRec) (h : Keeps b s0 s) : Keeps b s0 (State.pushChain s h' k r w).2 := by
  unfold State.pushChain
  repeat' (first | with_reducible assumption | (intro _; try beta_reduce)
                 | (extract_lets +onlyGivenNames t; refine Keeps.cut (t := t) ?_ ?_; subst t; rotate_left; clear_value t; revert t; intro _ _)
                 | (extract_lets +onlyGivenNames t; revert t; intro _) | with_reducible apply State.flag_keeps | with_reducible apply State.inc_keeps
                 | with_reducible apply State.setHive_keeps | with_reducible exact mk_keeps (by assumption) rfl rfl rfl rfl rfl rfl rfl rfl rfl rfl rfl rfl
                 | with_reducible apply ite_keeps | split)

theorem State.chainPoint_keeps {b : Kept} {s0 s : State} (h' : Nat) (k : FrameCfg) (r : ExpRec) (h : Keeps b s0 s) : Keeps b s0 (State.chainPoint s h' k r).2 := by
  unfold State.chainPoint
  split
  · exact h
  · refine foldl_snd_keeps _ _ _ h (fun a w ha => ?_)
    exact State.pushChain_keeps _ _ _ _ ha

theorem State.retire_keeps {b : Kept} {s0 s : State} (e : Nat) (j : EngineJob) (h : Keeps b s0 s) : Keeps b s0 (State.retire s e j) := by
  unfold State.retire
  repeat' (first | with_reducible assumption
                 | (extract_lets +onlyGivenNames t; refine Keeps.cut (t := t) ?_ ?_; subst t; rotate_left; clear_value t; revert t; intro _ _)
                 | (extract_lets +onlyGivenNames t; revert t; intro _) | with_reducible apply State.setDet_keeps | with_reducible apply State.setEngine_keeps
                 | with_reducible apply State.setHive_keeps | with_reducible exact mk_keeps (by assumption) rfl rfl rfl rfl rfl rfl rfl rfl rfl rfl rfl rfl)

theorem State.pointDone_keeps {b : Kept} {s0 s : State} (e : Nat) (h : Keeps b s0 s) : Keeps b s0 (State.pointDone s e) := by
  unfold State.pointDone
  repeat' (first | with_reducible assumption
                 | (extract_lets +onlyGivenNames t; refine Keeps.cut (t := t) ?_ ?_; subst t; rotate_left; clear_value t; revert t; intro _ _)
                 | (extract_lets +onlyGivenNames t; revert t; intro _) | with_reducible apply State.add_keeps | with_reducible apply State.chainPoint_keeps
                 | with_reducible apply State.flag_keeps | with_reducible apply State.inc_keeps | with_reducible apply State.retire_keeps
                 | with_reducible apply State.setDet_keeps | with_reducible apply State.setResult_keeps | with_reducible apply State.wxPoint_keeps
                 | with_reducible exact mk_keeps (by assumption) rfl rfl rfl rfl rfl rfl rfl rfl rfl rfl rfl rfl | with_reducible apply ite_keeps | split)

theorem State.fence_keeps {b : Kept} {s0 s : State} (e : Nat) (h : Keeps b s0 s) : Keeps b s0 (State.fence s e) := by
  unfold State.fence
  repeat' (first | with_reducible assumption | (intro _; try beta_reduce)
                 | (extract_lets +onlyGivenNames t; refine Keeps.cut (t := t) ?_ ?_; subst t; rotate_left; clear_value t; revert t; intro _ _)
                 | (extract_lets +onlyGivenNames t; revert t; intro _)
                 | with_reducible apply State.addF_keeps | with_reducible apply State.dropRecord_keeps | with_reducible apply State.flag_keeps
                 | with_reducible apply State.post_keeps | with_reducible apply State.raise_keeps | with_reducible apply State.retire_keeps
                 | with_reducible apply State.setBit_keeps | with_reducible apply State.setHive_keeps
                 | with_reducible exact mk_keeps (by assumption) rfl rfl rfl rfl rfl rfl rfl rfl rfl rfl rfl rfl | with_reducible apply ite_keeps | split)

theorem State.chargeEngine_keeps {b : Kept} {s0 s : State} (e : Nat) (j : EngineJob) (h : Keeps b s0 s) : Keeps b s0 (State.chargeEngine s e j) := by
  unfold State.chargeEngine
  repeat' (first | with_reducible assumption
                 | (extract_lets +onlyGivenNames t; refine Keeps.cut (t := t) ?_ ?_; subst t; rotate_left; clear_value t; revert t; intro _ _)
                 | (extract_lets +onlyGivenNames t; revert t; intro _) | with_reducible apply State.setDet_keeps | with_reducible apply State.setEngine_keeps
                 | with_reducible apply State.setHive_keeps | with_reducible exact mk_keeps (by assumption) rfl rfl rfl rfl rfl rfl rfl rfl rfl rfl rfl rfl)

theorem State.chargeBusy_keeps {b : Kept} {s0 s : State} (h : Keeps b s0 s) : Keeps b s0 (State.chargeBusy s) := by
  unfold State.chargeBusy
  repeat' (first | with_reducible assumption | (intro _; try beta_reduce) | with_reducible apply State.chargeEngine_keeps | with_reducible apply each_keeps)

theorem State.hiveFreq_keeps {b : Kept} {s0 s : State} (h' : Nat) (h : Keeps b s0 s) : Keeps b s0 (State.hiveFreq s h') := by
  unfold State.hiveFreq
  repeat' (first | with_reducible assumption
                 | (extract_lets +onlyGivenNames t; refine Keeps.cut (t := t) ?_ ?_; subst t; rotate_left; clear_value t; revert t; intro _ _)
                 | (extract_lets +onlyGivenNames t; revert t; intro _) | with_reducible apply State.setF_keeps | with_reducible apply ite_keeps | split)

theorem State.placeMoves_keeps {b : Kept} {s0 s : State} (combLoad : Nat → Nat) (n : Nat) (loads : List Nat) (h : Keeps b s0 s) : Keeps b s0 (State.placeMoves combLoad n loads s) := by
  induction n generalizing s loads with
  | zero => exact h
  | succ n ih =>
    unfold State.placeMoves
    repeat' (first | with_reducible assumption
                   | (extract_lets +onlyGivenNames t; refine Keeps.cut (t := t) ?_ ?_; subst t; rotate_left; clear_value t; revert t; intro _ _)
                   | (extract_lets +onlyGivenNames t; revert t; intro _) | with_reducible apply ih | with_reducible apply State.raise_keeps
                   | with_reducible apply State.setF_keeps | with_reducible apply State.inc_keeps
                   | with_reducible exact mk_keeps (by assumption) rfl rfl rfl rfl rfl rfl rfl rfl rfl rfl rfl rfl | split)

theorem State.checked_keeps {b : Kept} {s0 s : State} (r : CmdRule) (p : Nat) (x : QCmd) (body : State → Reply) (h : Keeps b s0 s) (hg : ∀ t, Keeps b s0 t → Keeps b s0 (body t).state) : Keeps b s0 (State.checked s r p x body).state := by
  unfold State.checked
  split
  · exact h
  · split
    · exact h
    · split
      · exact h
      · split
        · exact h
        · exact hg _ h

theorem State.hiveBoundary_keeps {b : Kept} {s0 s : State} (frameNs : Nat) (h : Keeps b s0 s) : Keeps b s0 (State.hiveBoundary s frameNs) := by
  unfold State.hiveBoundary
  repeat' (first | with_reducible assumption | (intro _; try beta_reduce)
                 | (extract_lets +onlyGivenNames t; refine Keeps.cut (t := t) ?_ ?_; subst t; rotate_left; clear_value t; revert t; intro _ _)
                 | (extract_lets +onlyGivenNames t; revert t; intro _) | with_reducible apply State.chargeBusy_keeps | with_reducible apply State.checked_keeps
                 | with_reducible apply State.hiveFreq_keeps | with_reducible apply State.placeMoves_keeps | with_reducible apply State.setDet_keeps
                 | with_reducible apply State.setF_keeps | with_reducible apply State.setHive_keeps | with_reducible apply State.setR_keeps | with_reducible apply each_keeps
                 | with_reducible exact mk_keeps (by assumption) rfl rfl rfl rfl rfl rfl rfl rfl rfl rfl rfl rfl | with_reducible apply ite_keeps | split)

theorem State.setZoneBank_keeps {b : Kept} {s0 s : State} (bank : Nat) (t' : Tbl (List Byte)) (h : Keeps b s0 s) : Keeps b s0 (State.setZoneBank s bank t') := by
  unfold State.setZoneBank
  repeat' (first | with_reducible assumption | with_reducible apply State.setDet_keeps
                 | with_reducible exact mk_keeps (by assumption) rfl rfl rfl rfl rfl rfl rfl rfl rfl rfl rfl rfl | with_reducible apply ite_keeps | split)

theorem State.clusterEcho_keeps {b : Kept} {s0 s : State} (frame i : Nat) (e : CluEcho) (h : Keeps b s0 s) : Keeps b s0 (State.clusterEcho s frame i e) := by
  unfold State.clusterEcho
  repeat' (first | with_reducible assumption | (intro _; try beta_reduce)
                 | (extract_lets +onlyGivenNames t; refine Keeps.cut (t := t) ?_ ?_; subst t; rotate_left; clear_value t; revert t; intro _ _)
                 | (extract_lets +onlyGivenNames t; revert t; intro _) | with_reducible apply State.inc_keeps | with_reducible apply State.setDet_keeps
                 | with_reducible exact mk_keeps (by assumption) rfl rfl rfl rfl rfl rfl rfl rfl rfl rfl rfl rfl | with_reducible apply ite_keeps | split)

theorem State.ageClusters_keeps {b : Kept} {s0 s : State} (i : Nat) (h : Keeps b s0 s) : Keeps b s0 (State.ageClusters s i) := by
  unfold State.ageClusters
  repeat' (first | with_reducible assumption | (intro _; try beta_reduce)
                 | (extract_lets +onlyGivenNames t; refine Keeps.cut (t := t) ?_ ?_; subst t; rotate_left; clear_value t; revert t; intro _ _)
                 | (extract_lets +onlyGivenNames t; revert t; intro _) | with_reducible apply State.setDet_keeps
                 | with_reducible exact mk_keeps (by assumption) rfl rfl rfl rfl rfl rfl rfl rfl rfl rfl rfl rfl | with_reducible apply ite_keeps | split)

theorem State.updateTrack_keeps {b : Kept} {s0 s : State} (k : TrkCfg) (i : Nat) (m : Meas) (d2 : Nat) (h : Keeps b s0 s) : Keeps b s0 (State.updateTrack s k i m d2) := by
  unfold State.updateTrack
  repeat' (first | with_reducible assumption | (intro _; try beta_reduce)
                 | (extract_lets +onlyGivenNames t; refine Keeps.cut (t := t) ?_ ?_; subst t; rotate_left; clear_value t; revert t; intro _ _)
                 | (extract_lets +onlyGivenNames t; revert t; intro _)
                 | with_reducible apply State.setDet_keeps | with_reducible apply State.setTrack_keeps
                 | with_reducible exact mk_keeps (by assumption) rfl rfl rfl rfl rfl rfl rfl rfl rfl rfl rfl rfl | with_reducible apply ite_keeps | split)

theorem State.createTrack_keeps {b : Kept} {s0 s : State} (k : TrkCfg) (m : Meas) (h : Keeps b s0 s) : Keeps b s0 (State.createTrack s k m) := by
  unfold State.createTrack
  repeat' (first | with_reducible assumption | (intro _; try beta_reduce)
                 | (extract_lets +onlyGivenNames t; refine Keeps.cut (t := t) ?_ ?_; subst t; rotate_left; clear_value t; revert t; intro _ _)
                 | (extract_lets +onlyGivenNames t; revert t; intro _)
                 | with_reducible apply State.flag_keeps | with_reducible apply State.fresh_keeps | with_reducible apply State.inc_keeps
                 | with_reducible apply State.setDet_keeps | with_reducible apply State.setTrack_keeps
                 | with_reducible exact mk_keeps (by assumption) rfl rfl rfl rfl rfl rfl rfl rfl rfl rfl rfl rfl | with_reducible apply ite_keeps | split)

theorem State.defer_keeps {b : Kept} {s0 s : State} (d : Deferred) (h : Keeps b s0 s) : Keeps b s0 (State.defer s d) := by
  unfold State.defer
  repeat' (first | with_reducible assumption | with_reducible apply State.setDet_keeps
                 | with_reducible exact mk_keeps (by assumption) rfl rfl rfl rfl rfl rfl rfl rfl rfl rfl rfl rfl)

theorem State.noteUpdate_keeps {b : Kept} {s0 s : State} (d : Deferred) (h : Keeps b s0 s) : Keeps b s0 (State.noteUpdate s d) := by
  unfold State.noteUpdate
  repeat' (first | with_reducible assumption | (intro _; try beta_reduce)
                 | (extract_lets +onlyGivenNames t; refine Keeps.cut (t := t) ?_ ?_; subst t; rotate_left; clear_value t; revert t; intro _ _)
                 | (extract_lets +onlyGivenNames t; revert t; intro _)
                 | with_reducible apply State.setDet_keeps
                 | with_reducible exact mk_keeps (by assumption) rfl rfl rfl rfl rfl rfl rfl rfl rfl rfl rfl rfl | with_reducible apply ite_keeps | split)

theorem State.associateBy_keeps {b : Kept} {s0 s : State} (k : TrkCfg) (c : Cluster) (h : Keeps b s0 s) : Keeps b s0 (State.associateBy s k c) := by
  unfold State.associateBy
  repeat' (first | with_reducible assumption | (intro _; try beta_reduce)
                 | (extract_lets +onlyGivenNames t; refine Keeps.cut (t := t) ?_ ?_; subst t; rotate_left; clear_value t; revert t; intro _ _)
                 | (extract_lets +onlyGivenNames t; revert t; intro _)
                 | with_reducible apply State.createTrack_keeps | with_reducible apply State.defer_keeps | with_reducible apply State.inc_keeps
                 | with_reducible apply State.noteUpdate_keeps | with_reducible apply State.setTrack_keeps | with_reducible apply State.updateTrack_keeps
                 | with_reducible exact mk_keeps (by assumption) rfl rfl rfl rfl rfl rfl rfl rfl rfl rfl rfl rfl | with_reducible apply ite_keeps | split)

theorem State.associate_keeps {b : Kept} {s0 s : State} (c : Cluster) (h : Keeps b s0 s) : Keeps b s0 (State.associate s c) := by
  unfold State.associate
  repeat' (first | with_reducible assumption | (intro _; try beta_reduce)
                 | (extract_lets +onlyGivenNames t; refine Keeps.cut (t := t) ?_ ?_; subst t; rotate_left; clear_value t; revert t; intro _ _)
                 | (extract_lets +onlyGivenNames t; revert t; intro _)
                 | with_reducible apply State.associateBy_keeps | with_reducible apply State.takeEffect_keeps
                 | with_reducible exact mk_keeps (by assumption) rfl rfl rfl rfl rfl rfl rfl rfl rfl rfl rfl rfl | with_reducible apply ite_keeps | split)

theorem State.endTrack_keeps {b : Kept} {s0 s : State} (i cause : Nat) (h : Keeps b s0 s) : Keeps b s0 (State.endTrack s i cause) := by
  unfold State.endTrack
  repeat' (first | with_reducible assumption
                 | (extract_lets +onlyGivenNames t; refine Keeps.cut (t := t) ?_ ?_; subst t; rotate_left; clear_value t; revert t; intro _ _)
                 | (extract_lets +onlyGivenNames t; revert t; intro _) | with_reducible apply State.inc_keeps | with_reducible apply State.setDet_keeps
                 | with_reducible apply State.setTrack_keeps | with_reducible exact mk_keeps (by assumption) rfl rfl rfl rfl rfl rfl rfl rfl rfl rfl rfl rfl)

theorem State.missTrack_keeps {b : Kept} {s0 s : State} (k : TrkCfg) (i : Nat) (h : Keeps b s0 s) : Keeps b s0 (State.missTrack s k i) := by
  unfold State.missTrack
  repeat' (first | with_reducible assumption | (intro _; try beta_reduce)
                 | (extract_lets +onlyGivenNames t; refine Keeps.cut (t := t) ?_ ?_; subst t; rotate_left; clear_value t; revert t; intro _ _)
                 | (extract_lets +onlyGivenNames t; revert t; intro _)
                 | with_reducible apply State.endTrack_keeps | with_reducible apply State.setTrack_keeps
                 | with_reducible exact mk_keeps (by assumption) rfl rfl rfl rfl rfl rfl rfl rfl rfl rfl rfl rfl | with_reducible apply ite_keeps | split)

theorem State.missTracks_keeps {b : Kept} {s0 s : State} (due : List Nat) (h : Keeps b s0 s) : Keeps b s0 (State.missTracks s due) := by
  unfold State.missTracks
  repeat' (first | with_reducible assumption | (intro _; try beta_reduce)
                 | (extract_lets +onlyGivenNames t; refine Keeps.cut (t := t) ?_ ?_; subst t; rotate_left; clear_value t; revert t; intro _ _)
                 | (extract_lets +onlyGivenNames t; revert t; intro _)
                 | with_reducible apply State.defer_keeps | with_reducible apply State.missTrack_keeps | with_reducible apply State.noteUpdate_keeps
                 | with_reducible apply each_keeps
                 | with_reducible exact mk_keeps (by assumption) rfl rfl rfl rfl rfl rfl rfl rfl rfl rfl rfl rfl | with_reducible apply ite_keeps | split)

theorem State.applyDeferred_keeps {b : Kept} {s0 s : State} (d : Deferred) (h : Keeps b s0 s) : Keeps b s0 (State.applyDeferred s d) := by
  unfold State.applyDeferred
  repeat' (first | with_reducible assumption | (intro _; try beta_reduce)
                 | (extract_lets +onlyGivenNames t; refine Keeps.cut (t := t) ?_ ?_; subst t; rotate_left; clear_value t; revert t; intro _ _)
                 | (extract_lets +onlyGivenNames t; revert t; intro _)
                 | with_reducible apply State.associateBy_keeps | with_reducible apply State.missTrack_keeps
                 | with_reducible apply State.updateTrack_keeps
                 | with_reducible exact mk_keeps (by assumption) rfl rfl rfl rfl rfl rfl rfl rfl rfl rfl rfl rfl | with_reducible apply ite_keeps | split)

theorem State.setDetLists_keeps {b : Kept} {s0 s : State} (deferred recent : List Deferred) (h : Keeps b s0 s) : Keeps b s0 (State.setDetLists s deferred recent) := by
  unfold State.setDetLists
  repeat' (first | with_reducible assumption | (intro _; try beta_reduce)
                 | (extract_lets +onlyGivenNames t; refine Keeps.cut (t := t) ?_ ?_; subst t; rotate_left; clear_value t; revert t; intro _ _)
                 | (extract_lets +onlyGivenNames t; revert t; intro _)
                 | with_reducible apply State.setDet_keeps
                 | with_reducible exact mk_keeps (by assumption) rfl rfl rfl rfl rfl rfl rfl rfl rfl rfl rfl rfl | with_reducible apply ite_keeps | split)

theorem State.columnTracks_keeps {b : Kept} {s0 s : State} (h : Keeps b s0 s) : Keeps b s0 (State.columnTracks s) := by
  unfold State.columnTracks
  repeat' (first | with_reducible assumption | (intro _; try beta_reduce)
                 | (extract_lets +onlyGivenNames t; refine Keeps.cut (t := t) ?_ ?_; subst t; rotate_left; clear_value t; revert t; intro _ _)
                 | (extract_lets +onlyGivenNames t; revert t; intro _)
                 | with_reducible apply State.applyDeferred_keeps | with_reducible apply State.applyHostTracks_keeps
                 | with_reducible apply State.setDetLists_keeps | with_reducible apply each_keeps
                 | with_reducible exact mk_keeps (by assumption) rfl rfl rfl rfl rfl rfl rfl rfl rfl rfl rfl rfl | with_reducible apply ite_keeps | split)

theorem State.clearAssoc_keeps {b : Kept} {s0 s : State} (h : Keeps b s0 s) : Keeps b s0 (State.clearAssoc s) := by
  unfold State.clearAssoc
  repeat' (first | with_reducible assumption | (intro _; try beta_reduce) | with_reducible apply State.setTrack_keeps | with_reducible apply each_keeps)

theorem State.formAlert_keeps {b : Kept} {s0 s : State} (i prev : Nat) (byState : Bool) (result frame : Nat) (c : ZoneCount) (h : Keeps b s0 s) : Keeps b s0 (State.formAlert s i prev byState result frame c).2 := by
  unfold State.formAlert
  repeat' (first | with_reducible assumption
                 | (extract_lets +onlyGivenNames t; refine Keeps.cut (t := t) ?_ ?_; subst t; rotate_left; clear_value t; revert t; intro _ _)
                 | (extract_lets +onlyGivenNames t; revert t; intro _) | with_reducible exact mk_keeps (by assumption) rfl rfl rfl rfl rfl rfl rfl rfl rfl rfl rfl rfl)

theorem State.startSafety_keeps {b : Kept} {s0 s : State} (ch : Nat) (h : Keeps b s0 s) : Keeps b s0 (State.startSafety s ch) := by
  unfold State.startSafety
  repeat' (first | with_reducible assumption
                 | (extract_lets +onlyGivenNames t; refine Keeps.cut (t := t) ?_ ?_; subst t; rotate_left; clear_value t; revert t; intro _ _)
                 | (extract_lets +onlyGivenNames t; revert t; intro _) | with_reducible apply State.setSub_keeps
                 | with_reducible exact mk_keeps (by assumption) rfl rfl rfl rfl rfl rfl rfl rfl rfl rfl rfl rfl | with_reducible apply ite_keeps | split)

theorem State.joinAlerts_keeps {b : Kept} {s0 s : State} (ch frame : Nat) (l : List (List Byte)) (u : State) (he : s.joinAlerts ch frame l = some u) (h : Keeps b s0 s) : Keeps b s0 u := by
  unfold State.joinAlerts at he
  dsimp only at he
  split at he
  · split at he
    · cases he; exact State.setSub_keeps _ _ h
    · cases he
  · cases he

theorem State.placeAlerts_keeps {b : Kept} {s0 s : State} (frame : Nat) (l : List (List Byte)) (h : Keeps b s0 s) : Keeps b s0 (State.placeAlerts s frame l) := by
  unfold State.placeAlerts
  refine ite_keeps h (each_keeps _ _ h fun t ch ht => ?_)
  dsimp only
  split
  · exact State.joinAlerts_keeps _ _ _ _ (by assumption) ht
  · exact State.setSub_keeps _ _ (State.placePkt_keeps _ _ ht)

theorem State.enterZone_keeps {b : Kept} {s0 s : State} (i st : Nat) (h : Keeps b s0 s) : Keeps b s0 (State.enterZone s i st) := by
  unfold State.enterZone
  repeat' (first | with_reducible assumption
                 | (extract_lets +onlyGivenNames t; refine Keeps.cut (t := t) ?_ ?_; subst t; rotate_left; clear_value t; revert t; intro _ _)
                 | (extract_lets +onlyGivenNames t; revert t; intro _) | with_reducible apply State.flag_keeps | with_reducible apply State.setF_keeps
                 | with_reducible apply State.trigger_keeps | with_reducible apply ite_keeps | split)

theorem State.setRuns_keeps {b : Kept} {s0 s : State} (i : Nat) (r : Nat × Nat) (h : Keeps b s0 s) : Keeps b s0 (State.setRuns s i r) := by
  unfold State.setRuns
  repeat' (first | with_reducible assumption | with_reducible apply State.setDet_keeps
                 | with_reducible exact mk_keeps (by assumption) rfl rfl rfl rfl rfl rfl rfl rfl rfl rfl rfl rfl)

theorem State.applyZone_keeps {b : Kept} {s0 s : State} (i frame : Nat) (e : List Byte) (c : ZoneCount) (h : Keeps b s0 s) : Keeps b s0 (State.applyZone s i frame e c) := by
  unfold State.applyZone
  repeat' (first | with_reducible assumption | (intro _; try beta_reduce)
                 | (extract_lets +onlyGivenNames t; refine Keeps.cut (t := t) ?_ ?_; subst t; rotate_left; clear_value t; revert t; intro _ _)
                 | (extract_lets +onlyGivenNames t; revert t; intro _)
                 | with_reducible apply State.addF_keeps | with_reducible apply State.enterZone_keeps | with_reducible apply State.formAlert_keeps
                 | with_reducible apply State.placeAlerts_keeps | with_reducible apply State.setF_keeps | with_reducible apply State.setRuns_keeps
                 | with_reducible apply State.startSafety_keeps | with_reducible apply each_keeps
                 | with_reducible exact mk_keeps (by assumption) rfl rfl rfl rfl rfl rfl rfl rfl rfl rfl rfl rfl | with_reducible apply ite_keeps | split)

theorem State.blindZones_keeps {b : Kept} {s0 s : State} (h : Keeps b s0 s) : Keeps b s0 (State.blindZones s) := by
  unfold State.blindZones
  extract_lets de t on r
  have ht : Keeps b s0 t := State.setDet_keeps _ h
  refine State.placeAlerts_keeps _ _ (foldl_snd_keeps _ _ _ ht fun a i ha => ?_)
  dsimp only
  split
  · exact State.setRuns_keeps _ _ (State.enterZone_keeps _ _ ha)
  · exact State.formAlert_keeps _ _ _ _ _ _ (State.setRuns_keeps _ _ (State.enterZone_keeps _ _ ha))

end Sys2Proof.Machine
end

