-- ==== Sys2Proof/Laws/KeepsD.lean ====
section
/-!
SUPPORT. Laws/KeepsD.lean: what each operation keeps (`Keeps`), for ZoneOps, WagOps, ChainOps, AsmOps, SarOps, MonOps, RecOps.
-/

namespace Sys2Proof.Machine

open Sys2Proof

theorem State.undefinedZones_keeps {b : Kept} {s0 s : State} (h : Keeps b s0 s) : Keeps b s0 (State.undefinedZones s) := by
  unfold State.undefinedZones
  repeat' (first | with_reducible assumption | (intro _; try beta_reduce)
                 | (extract_lets +onlyGivenNames t; refine Keeps.cut (t := t) ?_ ?_; subst t; rotate_left; clear_value t; revert t; intro _ _)
                 | (extract_lets +onlyGivenNames t; revert t; intro _) | with_reducible apply State.raise_keeps | with_reducible apply each_keeps | with_reducible apply ite_keeps
                 | split)

theorem State.swapZones_keeps {b : Kept} {s0 s : State} (h : Keeps b s0 s) : Keeps b s0 (State.swapZones s) := by
  unfold State.swapZones
  repeat' (first | with_reducible assumption | (intro _; try beta_reduce)
                 | (extract_lets +onlyGivenNames t; refine Keeps.cut (t := t) ?_ ?_; subst t; rotate_left; clear_value t; revert t; intro _ _)
                 | (extract_lets +onlyGivenNames t; revert t; intro _) | with_reducible apply State.enterZone_keeps | with_reducible apply State.setBit_keeps
                 | with_reducible apply State.setF_keeps | with_reducible apply State.setRuns_keeps | with_reducible apply State.setZoneBank_keeps
                 | with_reducible apply each_keeps | with_reducible apply ite_keeps | split)

theorem State.setWag_keeps {b : Kept} {s0 s : State} (w : Wag) (h : Keeps b s0 s) : Keeps b s0 (State.setWag s w) := by
  unfold State.setWag
  repeat' (first | with_reducible assumption | with_reducible exact mk_keeps (by assumption) rfl rfl rfl rfl rfl rfl rfl rfl rfl rfl rfl rfl)

theorem State.setAxis_keeps {b : Kept} {s0 s : State} (a : Nat) (x : Axis) (h : Keeps b s0 s) : Keeps b s0 (State.setAxis s a x) := by
  unfold State.setAxis
  repeat' (first | with_reducible assumption | with_reducible apply State.setWag_keeps
                 | with_reducible exact mk_keeps (by assumption) rfl rfl rfl rfl rfl rfl rfl rfl rfl rfl rfl rfl | with_reducible apply ite_keeps | split)

theorem State.setAxState_keeps {b : Kept} {s0 s : State} (a v : Nat) (h : Keeps b s0 s) : Keeps b s0 (State.setAxState s a v) := by
  unfold State.setAxState
  repeat' (first | with_reducible assumption | with_reducible apply State.setF_keeps)

theorem State.setLoop_keeps {b : Kept} {s0 s : State} (l : Nat) (x : LoopSt) (h : Keeps b s0 s) : Keeps b s0 (State.setLoop s l x) := by
  unfold State.setLoop
  repeat' (first | with_reducible assumption | with_reducible apply State.setWag_keeps
                 | with_reducible exact mk_keeps (by assumption) rfl rfl rfl rfl rfl rfl rfl rfl rfl rfl rfl rfl)

theorem State.moveTo_keeps {b : Kept} {s0 s : State} (a : Nat) (target : Int) (park : Bool) (h : Keeps b s0 s) : Keeps b s0 (State.moveTo s a target park) := by
  unfold State.moveTo
  repeat' (first | with_reducible assumption
                 | (extract_lets +onlyGivenNames t; refine Keeps.cut (t := t) ?_ ?_; subst t; rotate_left; clear_value t; revert t; intro _ _)
                 | (extract_lets +onlyGivenNames t; revert t; intro _) | with_reducible apply State.setAxis_keeps
                 | with_reducible exact mk_keeps (by assumption) rfl rfl rfl rfl rfl rfl rfl rfl rfl rfl rfl rfl | with_reducible apply ite_keeps | split)

theorem State.profLimit_keeps {b : Kept} {s0 s : State} (key : Nat) (h : Keeps b s0 s) : Keeps b s0 (State.profLimit s key) := by
  unfold State.profLimit
  repeat' (first | with_reducible assumption
                 | (extract_lets +onlyGivenNames t; refine Keeps.cut (t := t) ?_ ?_; subst t; rotate_left; clear_value t; revert t; intro _ _)
                 | (extract_lets +onlyGivenNames t; revert t; intro _) | with_reducible apply State.flag_keeps | with_reducible apply State.setCol_keeps
                 | with_reducible exact mk_keeps (by assumption) rfl rfl rfl rfl rfl rfl rfl rfl rfl rfl rfl rfl | with_reducible apply ite_keeps | split)

theorem State.steerFirst_keeps {b : Kept} {s0 s : State} (key : Nat) (c : ColPlan) (past : List Piece) (rest : Nat) (pos v : Int) (h : Keeps b s0 s) : Keeps b s0 (State.steerFirst s key c past rest pos v) := by
  unfold State.steerFirst
  repeat' (first | with_reducible assumption | (intro _; try beta_reduce)
                 | (extract_lets +onlyGivenNames t; refine Keeps.cut (t := t) ?_ ?_; subst t; rotate_left; clear_value t; revert t; intro _ _)
                 | (extract_lets +onlyGivenNames t; revert t; intro _)
                 | with_reducible apply State.profLimit_keeps | with_reducible apply State.setWag_keeps | with_reducible apply when_keeps
                 | with_reducible exact mk_keeps (by assumption) rfl rfl rfl rfl rfl rfl rfl rfl rfl rfl rfl rfl | with_reducible apply ite_keeps | split)

theorem State.resteer_keeps {b : Kept} {s0 s : State} (n : ColPlan) (h : Keeps b s0 s) : Keeps b s0 (State.resteer s n) := by
  unfold State.resteer
  repeat' (first | with_reducible assumption | (intro _; try beta_reduce)
                 | (extract_lets +onlyGivenNames t; refine Keeps.cut (t := t) ?_ ?_; subst t; rotate_left; clear_value t; revert t; intro _ _)
                 | (extract_lets +onlyGivenNames t; revert t; intro _)
                 | with_reducible apply State.hold_keeps | with_reducible apply State.steerFirst_keeps
                 | with_reducible exact mk_keeps (by assumption) rfl rfl rfl rfl rfl rfl rfl rfl rfl rfl rfl rfl | with_reducible apply ite_keeps | split)

theorem State.steerLast_keeps {b : Kept} {s0 s : State} (key : Nat) (c : ColPlan) (h : Keeps b s0 s) : Keeps b s0 (State.steerLast s key c) := by
  unfold State.steerLast
  repeat' (first | with_reducible assumption | (intro _; try beta_reduce)
                 | (extract_lets +onlyGivenNames t; refine Keeps.cut (t := t) ?_ ?_; subst t; rotate_left; clear_value t; revert t; intro _ _)
                 | (extract_lets +onlyGivenNames t; revert t; intro _) | with_reducible apply State.profLimit_keeps | with_reducible apply State.setWag_keeps
                 | with_reducible apply when_keeps | with_reducible exact mk_keeps (by assumption) rfl rfl rfl rfl rfl rfl rfl rfl rfl rfl rfl rfl
                 | with_reducible apply ite_keeps | split)

theorem State.steerInner_keeps {b : Kept} {s0 s : State} (key : Nat) (c : ColPlan) (h : Keeps b s0 s) : Keeps b s0 (State.steerInner s key c) := by
  unfold State.steerInner
  repeat' (first | with_reducible assumption | (intro _; try beta_reduce)
                 | (extract_lets +onlyGivenNames t; refine Keeps.cut (t := t) ?_ ?_; subst t; rotate_left; clear_value t; revert t; intro _ _)
                 | (extract_lets +onlyGivenNames t; revert t; intro _)
                 | with_reducible apply State.profLimit_keeps | with_reducible apply State.setWag_keeps | with_reducible apply when_keeps
                 | with_reducible exact mk_keeps (by assumption) rfl rfl rfl rfl rfl rfl rfl rfl rfl rfl rfl rfl | with_reducible apply ite_keeps | split)

theorem State.steerColumn_keeps {b : Kept} {s0 s : State} (key : Nat) (h : Keeps b s0 s) : Keeps b s0 (State.steerColumn s key) := by
  unfold State.steerColumn
  repeat' (first | with_reducible assumption | (intro _; try beta_reduce)
                 | (extract_lets +onlyGivenNames t; refine Keeps.cut (t := t) ?_ ?_; subst t; rotate_left; clear_value t; revert t; intro _ _)
                 | (extract_lets +onlyGivenNames t; revert t; intro _)
                 | with_reducible apply State.steerFirst_keeps | with_reducible apply State.steerInner_keeps | with_reducible apply State.steerLast_keeps
                 | with_reducible exact mk_keeps (by assumption) rfl rfl rfl rfl rfl rfl rfl rfl rfl rfl rfl rfl | with_reducible apply ite_keeps | split)

theorem State.steerY_keeps {b : Kept} {s0 s : State} (c : ColPlan) (h : Keeps b s0 s) : Keeps b s0 (State.steerY s c) := by
  unfold State.steerY
  repeat' (first | with_reducible assumption
                 | (extract_lets +onlyGivenNames t; refine Keeps.cut (t := t) ?_ ?_; subst t; rotate_left; clear_value t; revert t; intro _ _)
                 | (extract_lets +onlyGivenNames t; revert t; intro _) | with_reducible apply State.moveTo_keeps | with_reducible apply State.setWag_keeps
                 | with_reducible exact mk_keeps (by assumption) rfl rfl rfl rfl rfl rfl rfl rfl rfl rfl rfl rfl | with_reducible apply ite_keeps | split)

theorem State.countSat_keeps {b : Kept} {s0 s : State} (l n : Nat) (h : Keeps b s0 s) : Keeps b s0 (State.countSat s l n) := by
  unfold State.countSat
  repeat' (first | with_reducible assumption | with_reducible apply State.add_keeps | with_reducible apply State.flag_keeps | with_reducible apply ite_keeps | split)

theorem State.dropFormer_keeps {b : Kept} {s0 s : State} (l : Nat) (h : Keeps b s0 s) : Keeps b s0 (State.dropFormer s l) := by
  unfold State.dropFormer
  repeat' (first | with_reducible assumption | (intro _; try beta_reduce)
                 | (extract_lets +onlyGivenNames t; refine Keeps.cut (t := t) ?_ ?_; subst t; rotate_left; clear_value t; revert t; intro _ _)
                 | (extract_lets +onlyGivenNames t; revert t; intro _)
                 | with_reducible apply State.setWag_keeps
                 | with_reducible exact mk_keeps (by assumption) rfl rfl rfl rfl rfl rfl rfl rfl rfl rfl rfl rfl | with_reducible apply ite_keeps | split)

theorem State.presetInt_keeps {b : Kept} {s0 s : State} (l : Nat) (v : Int) (h : Keeps b s0 s) : Keeps b s0 (State.presetInt s l v).2 := by
  unfold State.presetInt
  repeat' (first | with_reducible assumption | with_reducible apply State.countSat_keeps)

theorem State.presetPos_keeps {b : Kept} {s0 s : State} (a : Nat) (theta : Int) (h : Keeps b s0 s) : Keeps b s0 (State.presetPos s a theta) := by
  unfold State.presetPos
  repeat' (first | with_reducible assumption | (intro _; try beta_reduce)
                 | (extract_lets +onlyGivenNames t; refine Keeps.cut (t := t) ?_ ?_; subst t; rotate_left; clear_value t; revert t; intro _ _)
                 | (extract_lets +onlyGivenNames t; revert t; intro _)
                 | with_reducible apply State.dropFormer_keeps | with_reducible apply State.presetInt_keeps
                 | with_reducible apply State.setAxis_keeps
                 | with_reducible exact mk_keeps (by assumption) rfl rfl rfl rfl rfl rfl rfl rfl rfl rfl rfl rfl | with_reducible apply ite_keeps | split)

theorem State.posCompute_keeps {b : Kept} {s0 s : State} (a : Nat) (theta : Int) (h : Keeps b s0 s) : Keeps b s0 (State.posCompute s a theta) := by
  unfold State.posCompute
  repeat' (first | with_reducible assumption | (intro _; try beta_reduce)
                 | (extract_lets +onlyGivenNames t; refine Keeps.cut (t := t) ?_ ?_; subst t; rotate_left; clear_value t; revert t; intro _ _)
                 | (extract_lets +onlyGivenNames t; revert t; intro _)
                 | with_reducible apply State.countSat_keeps | with_reducible apply State.presetPos_keeps | with_reducible apply State.setAxis_keeps
                 | with_reducible apply State.setF_keeps | with_reducible apply State.setLoop_keeps
                 | with_reducible exact mk_keeps (by assumption) rfl rfl rfl rfl rfl rfl rfl rfl rfl rfl rfl rfl | with_reducible apply ite_keeps | split)

theorem State.trackError_keeps {b : Kept} {s0 s : State} (a : Nat) (h : Keeps b s0 s) : Keeps b s0 (State.trackError s a) := by
  unfold State.trackError
  repeat' (first | with_reducible assumption
                 | (extract_lets +onlyGivenNames t; refine Keeps.cut (t := t) ?_ ?_; subst t; rotate_left; clear_value t; revert t; intro _ _)
                 | (extract_lets +onlyGivenNames t; revert t; intro _) | with_reducible apply State.flag_keeps | with_reducible apply State.raise_keeps
                 | with_reducible apply State.setCol_keeps | with_reducible apply State.setWag_keeps
                 | with_reducible exact mk_keeps (by assumption) rfl rfl rfl rfl rfl rfl rfl rfl rfl rfl rfl rfl | with_reducible apply ite_keeps | split)

theorem State.curCompute_keeps {b : Kept} {s0 s : State} (a : Nat) (iMeas : Int) (h : Keeps b s0 s) : Keeps b s0 (State.curCompute s a iMeas) := by
  unfold State.curCompute
  repeat' (first | with_reducible assumption | (intro _; try beta_reduce)
                 | (extract_lets +onlyGivenNames t; refine Keeps.cut (t := t) ?_ ?_; subst t; rotate_left; clear_value t; revert t; intro _ _)
                 | (extract_lets +onlyGivenNames t; revert t; intro _)
                 | with_reducible apply State.countSat_keeps | with_reducible apply State.dropFormer_keeps
                 | with_reducible apply State.presetInt_keeps | with_reducible apply State.setAxis_keeps | with_reducible apply State.setLoop_keeps
                 | with_reducible exact mk_keeps (by assumption) rfl rfl rfl rfl rfl rfl rfl rfl rfl rfl rfl rfl | with_reducible apply ite_keeps | split)

theorem State.syncAxis_keeps {b : Kept} {s0 s : State} (a : Nat) (h : Keeps b s0 s) : Keeps b s0 (State.syncAxis s a) := by
  unfold State.syncAxis
  repeat' (first | with_reducible assumption | (intro _; try beta_reduce)
                 | (extract_lets +onlyGivenNames t; refine Keeps.cut (t := t) ?_ ?_; subst t; rotate_left; clear_value t; revert t; intro _ _)
                 | (extract_lets +onlyGivenNames t; revert t; intro _)
                 | with_reducible apply State.setF_keeps | with_reducible apply State.setR_keeps
                 | with_reducible exact mk_keeps (by assumption) rfl rfl rfl rfl rfl rfl rfl rfl rfl rfl rfl rfl | with_reducible apply ite_keeps | split)

theorem State.loopTick_keeps {b : Kept} {s0 s : State} (l : Nat) (apply : State → Int → State) (h : Keeps b s0 s) (ha : ∀ t v, Keeps b s0 t → Keeps b s0 (apply t v)) : Keeps b s0 (State.loopTick s l apply).2 := by
  unfold State.loopTick
  extract_lets x t
  split
  · exact State.postOnce_keeps _ _ _ (State.setLoop_keeps _ _ (State.inc_keeps _ (State.flag_keeps _ _ h)))
  · split
    · exact ha _ _ (State.setLoop_keeps _ _ h)
    · exact h

theorem State.invalidTick_keeps {b : Kept} {s0 s : State} (l : Nat) (h : Keeps b s0 s) : Keeps b s0 (State.invalidTick s l) := by
  unfold State.invalidTick
  repeat' (first | with_reducible assumption
                 | (extract_lets +onlyGivenNames t; refine Keeps.cut (t := t) ?_ ?_; subst t; rotate_left; clear_value t; revert t; intro _ _)
                 | (extract_lets +onlyGivenNames t; revert t; intro _) | with_reducible apply State.flag_keeps | with_reducible apply State.inc_keeps
                 | with_reducible apply State.postOnce_keeps | with_reducible apply State.setLoop_keeps
                 | with_reducible exact mk_keeps (by assumption) rfl rfl rfl rfl rfl rfl rfl rfl rfl rfl rfl rfl)

theorem State.startLoop_keeps {b : Kept} {s0 s : State} (l : Nat) (late : Bool) (h : Keeps b s0 s) : Keeps b s0 (State.startLoop s l late) := by
  unfold State.startLoop
  repeat' (first | with_reducible assumption
                 | (extract_lets +onlyGivenNames t; refine Keeps.cut (t := t) ?_ ?_; subst t; rotate_left; clear_value t; revert t; intro _ _)
                 | (extract_lets +onlyGivenNames t; revert t; intro _) | with_reducible apply State.setLoop_keeps
                 | with_reducible exact mk_keeps (by assumption) rfl rfl rfl rfl rfl rfl rfl rfl rfl rfl rfl rfl | with_reducible apply ite_keeps | split)

theorem State.releaseAxis_keeps {b : Kept} {s0 s : State} (a : Nat) (h : Keeps b s0 s) : Keeps b s0 (State.releaseAxis s a) := by
  unfold State.releaseAxis
  repeat' (first | with_reducible assumption
                 | (extract_lets +onlyGivenNames t; refine Keeps.cut (t := t) ?_ ?_; subst t; rotate_left; clear_value t; revert t; intro _ _)
                 | (extract_lets +onlyGivenNames t; revert t; intro _) | with_reducible apply State.setAxState_keeps | with_reducible apply State.setAxis_keeps
                 | with_reducible exact mk_keeps (by assumption) rfl rfl rfl rfl rfl rfl rfl rfl rfl rfl rfl rfl | with_reducible apply ite_keeps | split)

theorem State.parkAxis_keeps {b : Kept} {s0 s : State} (a : Nat) (thenRelease : Bool) (h : Keeps b s0 s) : Keeps b s0 (State.parkAxis s a thenRelease) := by
  unfold State.parkAxis
  repeat' (first | with_reducible assumption
                 | (extract_lets +onlyGivenNames t; refine Keeps.cut (t := t) ?_ ?_; subst t; rotate_left; clear_value t; revert t; intro _ _)
                 | (extract_lets +onlyGivenNames t; revert t; intro _) | with_reducible apply State.moveTo_keeps | with_reducible apply State.releaseAxis_keeps
                 | with_reducible apply State.setAxState_keeps | with_reducible apply State.setAxis_keeps | with_reducible apply State.setF_keeps
                 | with_reducible exact mk_keeps (by assumption) rfl rfl rfl rfl rfl rfl rfl rfl rfl rfl rfl rfl | with_reducible apply ite_keeps | split)

theorem State.hardRelease_keeps {b : Kept} {s0 s : State} (a : Nat) (h : Keeps b s0 s) : Keeps b s0 (State.hardRelease s a) := by
  unfold State.hardRelease
  repeat' (first | with_reducible assumption
                 | (extract_lets +onlyGivenNames t; refine Keeps.cut (t := t) ?_ ?_; subst t; rotate_left; clear_value t; revert t; intro _ _)
                 | (extract_lets +onlyGivenNames t; revert t; intro _) | with_reducible apply State.setAxState_keeps | with_reducible apply State.setAxis_keeps
                 | with_reducible apply State.syncAxis_keeps | with_reducible exact mk_keeps (by assumption) rfl rfl rfl rfl rfl rfl rfl rfl rfl rfl rfl rfl)

theorem State.powerMirror_keeps {b : Kept} {s0 s : State} (h : Keeps b s0 s) : Keeps b s0 (State.powerMirror s) := by
  unfold State.powerMirror
  repeat' (first | with_reducible assumption | (intro _; try beta_reduce)
                 | (extract_lets +onlyGivenNames t; refine Keeps.cut (t := t) ?_ ?_; subst t; rotate_left; clear_value t; revert t; intro _ _)
                 | (extract_lets +onlyGivenNames t; revert t; intro _)
                 | with_reducible apply State.setAxState_keeps | with_reducible apply State.setWag_keeps
                 | with_reducible exact mk_keeps (by assumption) rfl rfl rfl rfl rfl rfl rfl rfl rfl rfl rfl rfl | with_reducible apply ite_keeps | split)

theorem State.startMove_keeps {b : Kept} {s0 s : State} (a : Nat) (theta : Int) (h : Keeps b s0 s) : Keeps b s0 (State.startMove s a theta) := by
  unfold State.startMove
  repeat' (first | with_reducible assumption | (intro _; try beta_reduce)
                 | (extract_lets +onlyGivenNames t; refine Keeps.cut (t := t) ?_ ?_; subst t; rotate_left; clear_value t; revert t; intro _ _)
                 | (extract_lets +onlyGivenNames t; revert t; intro _) | with_reducible apply State.moveTo_keeps | with_reducible apply State.setAxis_keeps
                 | with_reducible apply State.setWag_keeps | with_reducible apply when_keeps
                 | with_reducible exact mk_keeps (by assumption) rfl rfl rfl rfl rfl rfl rfl rfl rfl rfl rfl rfl | with_reducible apply ite_keeps | split)

theorem State.stopScan_keeps {b : Kept} {s0 s : State} (h : Keeps b s0 s) : Keeps b s0 (State.stopScan s) := by
  unfold State.stopScan
  repeat' (first | with_reducible assumption | with_reducible apply State.setWag_keeps
                 | with_reducible exact mk_keeps (by assumption) rfl rfl rfl rfl rfl rfl rfl rfl rfl rfl rfl rfl)

theorem State.modeChange_keeps {b : Kept} {s0 s : State} (a : Nat) (mean : Option Int) (h : Keeps b s0 s) : Keeps b s0 (State.modeChange s a mean) := by
  unfold State.modeChange
  repeat' (first | with_reducible assumption | (intro _; try beta_reduce)
                 | (extract_lets +onlyGivenNames t; refine Keeps.cut (t := t) ?_ ?_; subst t; rotate_left; clear_value t; revert t; intro _ _)
                 | (extract_lets +onlyGivenNames t; revert t; intro _)
                 | with_reducible apply State.dropFormer_keeps | with_reducible apply State.presetInt_keeps | with_reducible apply State.setAxState_keeps
                 | with_reducible apply State.setAxis_keeps | with_reducible apply State.setF_keeps | with_reducible apply State.setLoop_keeps
                 | with_reducible exact mk_keeps (by assumption) rfl rfl rfl rfl rfl rfl rfl rfl rfl rfl rfl rfl | with_reducible apply ite_keeps | split)

theorem State.manualSlew_keeps {b : Kept} {s0 s : State} (a : Nat) (h : Keeps b s0 s) : Keeps b s0 (State.manualSlew s a) := by
  unfold State.manualSlew
  repeat' (first | with_reducible assumption
                 | (extract_lets +onlyGivenNames t; refine Keeps.cut (t := t) ?_ ?_; subst t; rotate_left; clear_value t; revert t; intro _ _)
                 | (extract_lets +onlyGivenNames t; revert t; intro _) | with_reducible apply State.setAxis_keeps
                 | with_reducible exact mk_keeps (by assumption) rfl rfl rfl rfl rfl rfl rfl rfl rfl rfl rfl rfl | with_reducible apply ite_keeps | split)

theorem State.applyWagParams_keeps {b : Kept} {s0 s : State} (h : Keeps b s0 s) : Keeps b s0 (State.applyWagParams s) := by
  unfold State.applyWagParams
  repeat' (first | with_reducible assumption | (intro _; try beta_reduce)
                 | (extract_lets +onlyGivenNames t; refine Keeps.cut (t := t) ?_ ?_; subst t; rotate_left; clear_value t; revert t; intro _ _)
                 | (extract_lets +onlyGivenNames t; revert t; intro _)
                 | with_reducible apply State.setBit_keeps | with_reducible apply State.setWag_keeps
                 | with_reducible apply State.takeEffect_keeps
                 | with_reducible exact mk_keeps (by assumption) rfl rfl rfl rfl rfl rfl rfl rfl rfl rfl rfl rfl | with_reducible apply ite_keeps | split)

theorem State.presetHeater_keeps {b : Kept} {s0 s : State} (t' : Nat) (h : Keeps b s0 s) : Keeps b s0 (State.presetHeater s t') := by
  unfold State.presetHeater
  repeat' (first | with_reducible assumption | (intro _; try beta_reduce)
                 | (extract_lets +onlyGivenNames t; refine Keeps.cut (t := t) ?_ ?_; subst t; rotate_left; clear_value t; revert t; intro _ _)
                 | (extract_lets +onlyGivenNames t; revert t; intro _)
                 | with_reducible apply State.dropFormer_keeps | with_reducible apply State.setF_keeps | with_reducible apply State.setLoop_keeps
                 | with_reducible exact mk_keeps (by assumption) rfl rfl rfl rfl rfl rfl rfl rfl rfl rfl rfl rfl | with_reducible apply ite_keeps | split)

theorem State.heatersOff_keeps {b : Kept} {s0 s : State} (h : Keeps b s0 s) : Keeps b s0 (State.heatersOff s) := by
  unfold State.heatersOff
  repeat' (first | with_reducible assumption | (intro _; try beta_reduce) | with_reducible apply State.setF_keeps | with_reducible apply State.setWag_keeps
                 | with_reducible apply each_keeps | with_reducible exact mk_keeps (by assumption) rfl rfl rfl rfl rfl rfl rfl rfl rfl rfl rfl rfl
                 | with_reducible apply ite_keeps | split)

theorem State.heatersOn_keeps {b : Kept} {s0 s : State} (h : Keeps b s0 s) : Keeps b s0 (State.heatersOn s) := by
  unfold State.heatersOn
  repeat' (first | with_reducible assumption | (intro _; try beta_reduce) | with_reducible apply State.presetHeater_keeps | with_reducible apply State.setWag_keeps
                 | with_reducible apply each_keeps | with_reducible exact mk_keeps (by assumption) rfl rfl rfl rfl rfl rfl rfl rfl rfl rfl rfl rfl
                 | with_reducible apply ite_keeps | split)

theorem State.wlCompute_keeps {b : Kept} {s0 s : State} (t' : Nat) (h : Keeps b s0 s) : Keeps b s0 (State.wlCompute s t') := by
  unfold State.wlCompute
  repeat' (first | with_reducible assumption | (intro _; try beta_reduce)
                 | (extract_lets +onlyGivenNames t; refine Keeps.cut (t := t) ?_ ?_; subst t; rotate_left; clear_value t; revert t; intro _ _)
                 | (extract_lets +onlyGivenNames t; revert t; intro _)
                 | with_reducible apply State.countSat_keeps | with_reducible apply State.dropFormer_keeps
                 | with_reducible apply State.presetInt_keeps | with_reducible apply State.setLoop_keeps
                 | with_reducible exact mk_keeps (by assumption) rfl rfl rfl rfl rfl rfl rfl rfl rfl rfl rfl rfl | with_reducible apply ite_keeps | split)

theorem State.heatCompute_keeps {b : Kept} {s0 s : State} (t' : Nat) (h : Keeps b s0 s) : Keeps b s0 (State.heatCompute s t') := by
  unfold State.heatCompute
  repeat' (first | with_reducible assumption | (intro _; try beta_reduce)
                 | (extract_lets +onlyGivenNames t; refine Keeps.cut (t := t) ?_ ?_; subst t; rotate_left; clear_value t; revert t; intro _ _)
                 | (extract_lets +onlyGivenNames t; revert t; intro _)
                 | with_reducible apply State.countSat_keeps | with_reducible apply State.dropFormer_keeps | with_reducible apply State.presetInt_keeps
                 | with_reducible apply State.setLoop_keeps
                 | with_reducible exact mk_keeps (by assumption) rfl rfl rfl rfl rfl rfl rfl rfl rfl rfl rfl rfl | with_reducible apply ite_keeps | split)

theorem State.pend_keeps {b : Kept} {s0 s : State} (ch : Nat) (l : List PendRec) (h : Keeps b s0 s) : Keeps b s0 (State.pend s ch l) := by
  unfold State.pend
  repeat' (first | with_reducible assumption
                 | (extract_lets +onlyGivenNames t; refine Keeps.cut (t := t) ?_ ?_; subst t; rotate_left; clear_value t; revert t; intro _ _)
                 | (extract_lets +onlyGivenNames t; revert t; intro _) | with_reducible apply State.setSub_keeps
                 | with_reducible exact mk_keeps (by assumption) rfl rfl rfl rfl rfl rfl rfl rfl rfl rfl rfl rfl)

theorem State.holdHeater_keeps {b : Kept} {s0 s : State} (t' : Nat) (h : Keeps b s0 s) : Keeps b s0 (State.holdHeater s t') := by
  unfold State.holdHeater
  repeat' (first | with_reducible assumption
                 | (extract_lets +onlyGivenNames t; refine Keeps.cut (t := t) ?_ ?_; subst t; rotate_left; clear_value t; revert t; intro _ _)
                 | (extract_lets +onlyGivenNames t; revert t; intro _) | with_reducible apply State.hold_keeps | with_reducible apply State.pend_keeps
                 | with_reducible apply State.setF_keeps | with_reducible apply State.setLoop_keeps | with_reducible apply State.setWlState_keeps
                 | with_reducible apply State.setWlTile_keeps | with_reducible apply State.settleWl_keeps
                 | with_reducible exact mk_keeps (by assumption) rfl rfl rfl rfl rfl rfl rfl rfl rfl rfl rfl rfl | with_reducible apply ite_keeps | split)

theorem State.heaterTick_keeps {b : Kept} {s0 s : State} (t' : Nat) (late : List Nat) (h : Keeps b s0 s) : Keeps b s0 (State.heaterTick s t' late) := by
  unfold State.heaterTick
  repeat' (first | with_reducible assumption | (intro _; try beta_reduce)
                 | (extract_lets +onlyGivenNames t; refine Keeps.cut (t := t) ?_ ?_; subst t; rotate_left; clear_value t; revert t; intro _ _)
                 | (extract_lets +onlyGivenNames t; revert t; intro _)
                 | with_reducible apply State.dropFormer_keeps | with_reducible apply State.heatCompute_keeps | with_reducible apply State.hold_keeps
                 | with_reducible apply State.holdHeater_keeps | with_reducible apply State.loopTick_keeps | with_reducible apply State.setF_keeps
                 | with_reducible apply State.setLoop_keeps | with_reducible apply State.setWag_keeps | with_reducible apply State.startLoop_keeps
                 | with_reducible apply State.takeEffect_keeps | with_reducible apply State.wlCompute_keeps
                 | with_reducible exact mk_keeps (by assumption) rfl rfl rfl rfl rfl rfl rfl rfl rfl rfl rfl rfl | with_reducible apply ite_keeps | split)

theorem State.modRed_keeps {b : Kept} {s0 s : State} (key : Nat) (f : RedBlock → RedBlock) (h : Keeps b s0 s) : Keeps b s0 (State.modRed s key f) := by
  unfold State.modRed
  repeat' (first | with_reducible assumption | with_reducible apply State.setResult_keeps
                 | with_reducible exact mk_keeps (by assumption) rfl rfl rfl rfl rfl rfl rfl rfl rfl rfl rfl rfl | with_reducible apply ite_keeps | split)

theorem State.popChain_keeps {b : Kept} {s0 s : State} (h' : Nat) (h : Keeps b s0 s) : Keeps b s0 (State.popChain s h') := by
  unfold State.popChain
  repeat' (first | with_reducible assumption
                 | (extract_lets +onlyGivenNames t; refine Keeps.cut (t := t) ?_ ?_; subst t; rotate_left; clear_value t; revert t; intro _ _)
                 | (extract_lets +onlyGivenNames t; revert t; intro _) | with_reducible apply State.setHive_keeps
                 | with_reducible exact mk_keeps (by assumption) rfl rfl rfl rfl rfl rfl rfl rfl rfl rfl rfl rfl)

theorem State.chainWindow_keeps {b : Kept} {s0 s : State} (h' : Nat) (h : Keeps b s0 s) : Keeps b s0 (State.chainWindow s h') := by
  unfold State.chainWindow
  repeat' (first | with_reducible assumption | (intro _; try beta_reduce)
                 | (extract_lets +onlyGivenNames t; refine Keeps.cut (t := t) ?_ ?_; subst t; rotate_left; clear_value t; revert t; intro _ _)
                 | (extract_lets +onlyGivenNames t; revert t; intro _) | with_reducible apply State.add_keeps | with_reducible apply State.flag_keeps
                 | with_reducible apply State.inc_keeps | with_reducible apply State.modRed_keeps | with_reducible apply State.popChain_keeps
                 | with_reducible exact mk_keeps (by assumption) rfl rfl rfl rfl rfl rfl rfl rfl rfl rfl rfl rfl | with_reducible apply ite_keeps | split)

theorem State.chainMemErr_keeps {b : Kept} {s0 s : State} (h' : Nat) (h : Keeps b s0 s) : Keeps b s0 (State.chainMemErr s h') := by
  unfold State.chainMemErr
  repeat' (first | with_reducible assumption | (intro _; try beta_reduce)
                 | (extract_lets +onlyGivenNames t; refine Keeps.cut (t := t) ?_ ?_; subst t; rotate_left; clear_value t; revert t; intro _ _)
                 | (extract_lets +onlyGivenNames t; revert t; intro _) | with_reducible apply State.flag_keeps | with_reducible apply State.inc_keeps
                 | with_reducible apply State.modRed_keeps | with_reducible apply State.popChain_keeps
                 | with_reducible exact mk_keeps (by assumption) rfl rfl rfl rfl rfl rfl rfl rfl rfl rfl rfl rfl | with_reducible apply ite_keeps | split)

theorem State.swapPoly_keeps {b : Kept} {s0 s : State} (h : Keeps b s0 s) : Keeps b s0 (State.swapPoly s) := by
  unfold State.swapPoly
  repeat' (first | with_reducible assumption | (intro _; try beta_reduce)
                 | (extract_lets +onlyGivenNames t; refine Keeps.cut (t := t) ?_ ?_; subst t; rotate_left; clear_value t; revert t; intro _ _)
                 | (extract_lets +onlyGivenNames t; revert t; intro _) | with_reducible apply State.raise_keeps | with_reducible apply State.setBit_keeps
                 | with_reducible apply wr_keeps | with_reducible apply each_keeps)

theorem State.snapFrame_keeps {b : Kept} {s0 s : State} (h : Keeps b s0 s) : Keeps b s0 (State.snapFrame s) := by
  unfold State.snapFrame
  repeat' (first | with_reducible assumption | (intro _; try beta_reduce)
                 | (extract_lets +onlyGivenNames t; refine Keeps.cut (t := t) ?_ ?_; subst t; rotate_left; clear_value t; revert t; intro _ _)
                 | (extract_lets +onlyGivenNames t; revert t; intro _) | with_reducible apply State.setDet_keeps | with_reducible apply foldl_keeps
                 | with_reducible exact mk_keeps (by assumption) rfl rfl rfl rfl rfl rfl rfl rfl rfl rfl rfl rfl | with_reducible apply ite_keeps | split)

theorem State.asmFrame_keeps {b : Kept} {s0 s : State} (f : Nat) (hd : List Byte) (points red : Bool) (h : Keeps b s0 s) : Keeps b s0 (State.asmFrame s f hd points red) := by
  unfold State.asmFrame
  repeat' (first | with_reducible assumption | (intro _; try beta_reduce)
                 | (extract_lets +onlyGivenNames t; refine Keeps.cut (t := t) ?_ ?_; subst t; rotate_left; clear_value t; revert t; intro _ _)
                 | (extract_lets +onlyGivenNames t; revert t; intro _)
                 | with_reducible apply State.pend_keeps | with_reducible apply each_keeps
                 | with_reducible exact mk_keeps (by assumption) rfl rfl rfl rfl rfl rfl rfl rfl rfl rfl rfl rfl | with_reducible apply ite_keeps | split)

theorem State.asmSub_keeps {b : Kept} {s0 s : State} (k : FrameCfg) (c : ColPlan) (pts : List AsmPt) (ch : Nat) (h : Keeps b s0 s) : Keeps b s0 (State.asmSub s k c pts ch) := by
  unfold State.asmSub
  repeat' (first | with_reducible assumption | (intro _; try beta_reduce)
                 | (extract_lets +onlyGivenNames t; refine Keeps.cut (t := t) ?_ ?_; subst t; rotate_left; clear_value t; revert t; intro _ _)
                 | (extract_lets +onlyGivenNames t; revert t; intro _) | with_reducible apply State.countLoss_keeps | with_reducible apply State.pend_keeps
                 | with_reducible apply each_keeps | with_reducible apply ite_keeps | split)

theorem State.asmClusters_keeps {b : Kept} {s0 s : State} (k : FrameCfg) (c : ColPlan) (pts : List AsmPt) (h : Keeps b s0 s) : Keeps b s0 (State.asmClusters s k c pts) := by
  unfold State.asmClusters
  repeat' (first | with_reducible assumption | (intro _; try beta_reduce)
                 | (extract_lets +onlyGivenNames t; refine Keeps.cut (t := t) ?_ ?_; subst t; rotate_left; clear_value t; revert t; intro _ _)
                 | (extract_lets +onlyGivenNames t; revert t; intro _) | with_reducible apply State.ageClusters_keeps | with_reducible apply State.clusterEcho_keeps
                 | with_reducible apply each_keeps | with_reducible apply ite_keeps | split)

theorem State.asmZones_keeps {b : Kept} {s0 s : State} (k : FrameCfg) (c : ColPlan) (pts : List AsmPt) (h : Keeps b s0 s) : Keeps b s0 (State.asmZones s k c pts) := by
  unfold State.asmZones
  repeat' (first | with_reducible assumption | (intro _; try beta_reduce)
                 | (extract_lets +onlyGivenNames t; refine Keeps.cut (t := t) ?_ ?_; subst t; rotate_left; clear_value t; revert t; intro _ _)
                 | (extract_lets +onlyGivenNames t; revert t; intro _) | with_reducible apply State.setDet_keeps | with_reducible apply each_keeps
                 | with_reducible exact mk_keeps (by assumption) rfl rfl rfl rfl rfl rfl rfl rfl rfl rfl rfl rfl | with_reducible apply ite_keeps | split)

theorem State.forgetColumn_keeps {b : Kept} {s0 s : State} (key : Nat) (h : Keeps b s0 s) : Keeps b s0 (State.forgetColumn s key) := by
  unfold State.forgetColumn
  repeat' (first | with_reducible assumption | (intro _; try beta_reduce)
                 | (extract_lets +onlyGivenNames t; refine Keeps.cut (t := t) ?_ ?_; subst t; rotate_left; clear_value t; revert t; intro _ _)
                 | (extract_lets +onlyGivenNames t; revert t; intro _) | with_reducible apply State.setCol_keeps | with_reducible apply State.setDet_keeps
                 | with_reducible exact mk_keeps (by assumption) rfl rfl rfl rfl rfl rfl rfl rfl rfl rfl rfl rfl)

theorem State.asmColumn_keeps {b : Kept} {s0 s : State} (key : Nat) (states : List (Nat × Nat)) (h : Keeps b s0 s) : Keeps b s0 (State.asmColumn s key states) := by
  unfold State.asmColumn
  repeat' (first | with_reducible assumption | (intro _; try beta_reduce)
                 | (extract_lets +onlyGivenNames t; refine Keeps.cut (t := t) ?_ ?_; subst t; rotate_left; clear_value t; revert t; intro _ _)
                 | (extract_lets +onlyGivenNames t; revert t; intro _)
                 | with_reducible apply State.asmClusters_keeps | with_reducible apply State.asmSub_keeps | with_reducible apply State.asmZones_keeps
                 | with_reducible apply each_keeps
                 | with_reducible exact mk_keeps (by assumption) rfl rfl rfl rfl rfl rfl rfl rfl rfl rfl rfl rfl | with_reducible apply ite_keeps | split)

theorem State.asmTracks_keeps {b : Kept} {s0 s : State} (f : Nat) (h : Keeps b s0 s) : Keeps b s0 (State.asmTracks s f) := by
  unfold State.asmTracks
  repeat' (first | with_reducible assumption | (intro _; try beta_reduce)
                 | (extract_lets +onlyGivenNames t; refine Keeps.cut (t := t) ?_ ?_; subst t; rotate_left; clear_value t; revert t; intro _ _)
                 | (extract_lets +onlyGivenNames t; revert t; intro _) | with_reducible apply State.pend_keeps | with_reducible apply State.startSafety_keeps
                 | with_reducible apply each_keeps | with_reducible exact mk_keeps (by assumption) rfl rfl rfl rfl rfl rfl rfl rfl rfl rfl rfl rfl
                 | with_reducible apply ite_keeps | split)

theorem State.asmEnd_keeps {b : Kept} {s0 s : State} (f : Nat) (h : Keeps b s0 s) : Keeps b s0 (State.asmEnd s f) := by
  unfold State.asmEnd
  repeat' (first | with_reducible assumption | (intro _; try beta_reduce)
                 | (extract_lets +onlyGivenNames t; refine Keeps.cut (t := t) ?_ ?_; subst t; rotate_left; clear_value t; revert t; intro _ _)
                 | (extract_lets +onlyGivenNames t; revert t; intro _) | with_reducible apply State.asmTracks_keeps | with_reducible apply State.associate_keeps
                 | with_reducible apply State.clearAssoc_keeps | with_reducible apply State.missTracks_keeps | with_reducible apply State.setDet_keeps
                 | with_reducible apply each_keeps | with_reducible exact mk_keeps (by assumption) rfl rfl rfl rfl rfl rfl rfl rfl rfl rfl rfl rfl
                 | with_reducible apply ite_keeps | split)

theorem State.passItem_keeps {b : Kept} {s0 s : State} (h : Keeps b s0 s) : Keeps b s0 (State.passItem s) := by
  unfold State.passItem
  repeat' (first | with_reducible assumption | (intro _; try beta_reduce)
                 | (extract_lets +onlyGivenNames t; refine Keeps.cut (t := t) ?_ ?_; subst t; rotate_left; clear_value t; revert t; intro _ _)
                 | (extract_lets +onlyGivenNames t; revert t; intro _)
                 | with_reducible apply State.setDet_keeps
                 | with_reducible exact mk_keeps (by assumption) rfl rfl rfl rfl rfl rfl rfl rfl rfl rfl rfl rfl | with_reducible apply ite_keeps | split)

theorem State.assembleN_keeps {b : Kept} {s0 s : State} (n : Nat) (h : Keeps b s0 s) : Keeps b s0 (State.assembleN n s) := by
  induction n generalizing s with
  | zero => exact h
  | succ n ih =>
    unfold State.assembleN
    repeat' (first | with_reducible assumption | with_reducible apply ih | (intro _; try beta_reduce)
                   | (extract_lets +onlyGivenNames t; refine Keeps.cut (t := t) ?_ ?_; subst t; rotate_left; clear_value t; revert t; intro _ _)
                   | (extract_lets +onlyGivenNames t; revert t; intro _)
                   | with_reducible apply State.asmColumn_keeps | with_reducible apply State.asmEnd_keeps | with_reducible apply State.asmFrame_keeps
                   | with_reducible apply State.passItem_keeps
                   | with_reducible exact mk_keeps (by assumption) rfl rfl rfl rfl rfl rfl rfl rfl rfl rfl rfl rfl | with_reducible apply ite_keeps | split)

theorem State.asmReds_keeps {b : Kept} {s0 s : State} (key : Nat) (states : List (Nat × Nat)) (h : Keeps b s0 s) : Keeps b s0 (State.asmReds s key states) := by
  unfold State.asmReds
  repeat' (first | with_reducible assumption | (intro _; try beta_reduce)
                 | (extract_lets +onlyGivenNames t; refine Keeps.cut (t := t) ?_ ?_; subst t; rotate_left; clear_value t; revert t; intro _ _)
                 | (extract_lets +onlyGivenNames t; revert t; intro _)
                 | with_reducible apply State.asmSub_keeps | with_reducible apply State.forgetColumn_keeps | with_reducible apply each_keeps
                 | with_reducible exact mk_keeps (by assumption) rfl rfl rfl rfl rfl rfl rfl rfl rfl rfl rfl rfl | with_reducible apply ite_keeps | split)

theorem State.reduceN_keeps {b : Kept} {s0 s : State} (n : Nat) (h : Keeps b s0 s) : Keeps b s0 (State.reduceN n s) := by
  induction n generalizing s with
  | zero => exact h
  | succ n ih =>
    unfold State.reduceN
    repeat' (first | with_reducible assumption | with_reducible apply ih | (intro _; try beta_reduce)
                   | (extract_lets +onlyGivenNames t; refine Keeps.cut (t := t) ?_ ?_; subst t; rotate_left; clear_value t; revert t; intro _ _)
                   | (extract_lets +onlyGivenNames t; revert t; intro _)
                   | with_reducible apply State.asmFrame_keeps | with_reducible apply State.asmReds_keeps | with_reducible apply State.setDet_keeps
                   | with_reducible exact mk_keeps (by assumption) rfl rfl rfl rfl rfl rfl rfl rfl rfl rfl rfl rfl | with_reducible apply ite_keeps | split)

theorem State.assemble_keeps {b : Kept} {s0 s : State} (h : Keeps b s0 s) : Keeps b s0 (State.assemble s) := by
  unfold State.assemble
  repeat' (first | with_reducible assumption | (intro _; try beta_reduce)
                 | (extract_lets +onlyGivenNames t; refine Keeps.cut (t := t) ?_ ?_; subst t; rotate_left; clear_value t; revert t; intro _ _)
                 | (extract_lets +onlyGivenNames t; revert t; intro _)
                 | with_reducible apply State.assembleN_keeps | with_reducible apply State.reduceN_keeps
                 | with_reducible exact mk_keeps (by assumption) rfl rfl rfl rfl rfl rfl rfl rfl rfl rfl rfl rfl | with_reducible apply ite_keeps | split)

theorem State.setAux_keeps {b : Kept} {s0 s : State} (x : Aux) (h : Keeps b s0 s) : Keeps b s0 (State.setAux s x) := by
  unfold State.setAux
  repeat' (first | with_reducible assumption | with_reducible exact mk_keeps (by assumption) rfl rfl rfl rfl rfl rfl rfl rfl rfl rfl rfl rfl)

theorem State.startSar_keeps {b : Kept} {s0 s : State} (trig : Option SarTrig) (own : Bool) (users : List SarTrig) (h : Keeps b s0 s) : Keeps b s0 (State.startSar s trig own users) := by
  unfold State.startSar
  repeat' (first | with_reducible assumption
                 | (extract_lets +onlyGivenNames t; refine Keeps.cut (t := t) ?_ ?_; subst t; rotate_left; clear_value t; revert t; intro _ _)
                 | (extract_lets +onlyGivenNames t; revert t; intro _) | with_reducible apply State.inc_keeps | with_reducible apply State.setAux_keeps
                 | with_reducible exact mk_keeps (by assumption) rfl rfl rfl rfl rfl rfl rfl rfl rfl rfl rfl rfl | with_reducible apply ite_keeps | split)

theorem State.sarTrigger_keeps {b : Kept} {s0 s : State} (t' : SarTrig) (h : Keeps b s0 s) : Keeps b s0 (State.sarTrigger s t') := by
  unfold State.sarTrigger
  repeat' (first | with_reducible assumption | (intro _; try beta_reduce)
                 | (extract_lets +onlyGivenNames t; refine Keeps.cut (t := t) ?_ ?_; subst t; rotate_left; clear_value t; revert t; intro _ _)
                 | (extract_lets +onlyGivenNames t; revert t; intro _)
                 | with_reducible apply State.flag_keeps | with_reducible apply State.inc_keeps | with_reducible apply State.setAux_keeps
                 | with_reducible apply State.startSar_keeps
                 | with_reducible exact mk_keeps (by assumption) rfl rfl rfl rfl rfl rfl rfl rfl rfl rfl rfl rfl | with_reducible apply ite_keeps | split)

theorem State.stampShots_keeps {b : Kept} {s0 s : State} (thX thY : Int) (tSample : Nat) (late : Bool) (t' : SarTrig) (h : Keeps b s0 s) : Keeps b s0 (State.stampShots s thX thY tSample late t') := by
  unfold State.stampShots
  repeat' (first | with_reducible assumption | (intro _; try beta_reduce)
                 | (extract_lets +onlyGivenNames t; refine Keeps.cut (t := t) ?_ ?_; subst t; rotate_left; clear_value t; revert t; intro _ _)
                 | (extract_lets +onlyGivenNames t; revert t; intro _)
                 | with_reducible apply State.modPt_keeps | with_reducible apply State.setAux_keeps | with_reducible apply each_keeps
                 | with_reducible apply when_keeps
                 | with_reducible exact mk_keeps (by assumption) rfl rfl rfl rfl rfl rfl rfl rfl rfl rfl rfl rfl | with_reducible apply ite_keeps | split)

theorem State.sampledShot_keeps {b : Kept} {s0 s : State} (t' : SarTrig) (a b' : Nat) (h : Keeps b s0 s) : Keeps b s0 (State.sampledShot s t' a b') := by
  unfold State.sampledShot
  repeat' (first | with_reducible assumption
                 | (extract_lets +onlyGivenNames t; refine Keeps.cut (t := t) ?_ ?_; subst t; rotate_left; clear_value t; revert t; intro _ _)
                 | (extract_lets +onlyGivenNames t; revert t; intro _) | with_reducible apply State.fresh_keeps | with_reducible apply State.segFailure_keeps
                 | with_reducible apply State.setWlTile_keeps | with_reducible exact mk_keeps (by assumption) rfl rfl rfl rfl rfl rfl rfl rfl rfl rfl rfl rfl
                 | with_reducible apply ite_keeps | split)

theorem State.setMa_keeps {b : Kept} {s0 s : State} (m : Nat) (x : MaConv) (h : Keeps b s0 s) : Keeps b s0 (State.setMa s m x) := by
  unfold State.setMa
  repeat' (first | with_reducible assumption | with_reducible apply State.setAux_keeps
                 | with_reducible exact mk_keeps (by assumption) rfl rfl rfl rfl rfl rfl rfl rfl rfl rfl rfl rfl)

theorem State.restartMa_keeps {b : Kept} {s0 s : State} (m : Nat) (h : Keeps b s0 s) : Keeps b s0 (State.restartMa s m) := by
  unfold State.restartMa
  repeat' (first | with_reducible assumption | with_reducible apply State.setMa_keeps | with_reducible apply ite_keeps | split)

theorem State.publishInt_keeps {b : Kept} {s0 s : State} (j : Nat) (v : Int) (status : Nat) (h : Keeps b s0 s) : Keeps b s0 (State.publishInt s j v status) := by
  unfold State.publishInt
  repeat' (first | with_reducible assumption | (intro _; try beta_reduce)
                 | (extract_lets +onlyGivenNames t; refine Keeps.cut (t := t) ?_ ?_; subst t; rotate_left; clear_value t; revert t; intro _ _)
                 | (extract_lets +onlyGivenNames t; revert t; intro _)
                 | with_reducible apply State.flag_keeps | with_reducible apply State.setF_keeps | with_reducible apply when_keeps
                 | with_reducible exact mk_keeps (by assumption) rfl rfl rfl rfl rfl rfl rfl rfl rfl rfl rfl rfl | with_reducible apply ite_keeps | split)

theorem State.checkRail_keeps {b : Kept} {s0 s : State} (j : Nat) (v : Int) (h : Keeps b s0 s) : Keeps b s0 (State.checkRail s j v) := by
  unfold State.checkRail
  repeat' (first | with_reducible assumption | (intro _; try beta_reduce)
                 | (extract_lets +onlyGivenNames t; refine Keeps.cut (t := t) ?_ ?_; subst t; rotate_left; clear_value t; revert t; intro _ _)
                 | (extract_lets +onlyGivenNames t; revert t; intro _)
                 | with_reducible apply State.flag_keeps | with_reducible apply State.postOnce_keeps | with_reducible apply State.raise_keeps
                 | with_reducible apply State.setAux_keeps
                 | with_reducible exact mk_keeps (by assumption) rfl rfl rfl rfl rfl rfl rfl rfl rfl rfl rfl rfl | with_reducible apply ite_keeps | split)

theorem State.hkPublish_keeps {b : Kept} {s0 s : State} (v : Int) (refOff : Bool) (h : Keeps b s0 s) : Keeps b s0 (State.hkPublish s v refOff) := by
  unfold State.hkPublish
  repeat' (first | with_reducible assumption | (intro _; try beta_reduce)
                 | (extract_lets +onlyGivenNames t; refine Keeps.cut (t := t) ?_ ?_; subst t; rotate_left; clear_value t; revert t; intro _ _)
                 | (extract_lets +onlyGivenNames t; revert t; intro _)
                 | with_reducible apply State.checkRail_keeps | with_reducible apply State.flag_keeps | with_reducible apply State.inc_keeps
                 | with_reducible apply State.publishInt_keeps | with_reducible apply State.setAux_keeps
                 | with_reducible exact mk_keeps (by assumption) rfl rfl rfl rfl rfl rfl rfl rfl rfl rfl rfl rfl | with_reducible apply ite_keeps | split)

theorem State.setRtd_keeps {b : Kept} {s0 s : State} (r st temp : Nat) (h : Keeps b s0 s) : Keeps b s0 (State.setRtd s r st temp) := by
  unfold State.setRtd
  repeat' (first | with_reducible assumption | with_reducible apply State.setF_keeps)

theorem State.beginTurn_keeps {b : Kept} {s0 s : State} (r t' : Nat) (h : Keeps b s0 s) : Keeps b s0 (State.beginTurn s r t') := by
  unfold State.beginTurn
  repeat' (first | with_reducible assumption | (intro _; try beta_reduce)
                 | (extract_lets +onlyGivenNames t; refine Keeps.cut (t := t) ?_ ?_; subst t; rotate_left; clear_value t; revert t; intro _ _)
                 | (extract_lets +onlyGivenNames t; revert t; intro _) | with_reducible apply State.setAux_keeps | with_reducible apply State.takeEffect_keeps
                 | with_reducible exact mk_keeps (by assumption) rfl rfl rfl rfl rfl rfl rfl rfl rfl rfl rfl rfl)

theorem State.nextTurn_keeps {b : Kept} {s0 s : State} (r t' : Nat) (h : Keeps b s0 s) : Keeps b s0 (State.nextTurn s r t') := by
  unfold State.nextTurn
  repeat' (first | with_reducible assumption | with_reducible apply State.beginTurn_keeps | with_reducible apply State.setAux_keeps
                 | with_reducible exact mk_keeps (by assumption) rfl rfl rfl rfl rfl rfl rfl rfl rfl rfl rfl rfl | with_reducible apply ite_keeps | split)

theorem State.restartRtd_keeps {b : Kept} {s0 s : State} (h : Keeps b s0 s) : Keeps b s0 (State.restartRtd s) := by
  unfold State.restartRtd
  repeat' (first | with_reducible assumption | with_reducible apply State.nextTurn_keeps | with_reducible apply ite_keeps | split)

theorem State.publishRtd_keeps {b : Kept} {s0 s : State} (r : Nat) (v1 : Int) (i1 : Nat) (v2 : Int) (i2 : Nat) (h : Keeps b s0 s) : Keeps b s0 (State.publishRtd s r v1 i1 v2 i2) := by
  unfold State.publishRtd
  repeat' (first | with_reducible assumption | (intro _; try beta_reduce)
                 | (extract_lets +onlyGivenNames t; refine Keeps.cut (t := t) ?_ ?_; subst t; rotate_left; clear_value t; revert t; intro _ _)
                 | (extract_lets +onlyGivenNames t; revert t; intro _)
                 | with_reducible apply State.flag_keeps | with_reducible apply State.fresh_keeps | with_reducible apply State.setF_keeps
                 | with_reducible apply State.setRtd_keeps
                 | with_reducible exact mk_keeps (by assumption) rfl rfl rfl rfl rfl rfl rfl rfl rfl rfl rfl rfl | with_reducible apply ite_keeps | split)

theorem State.rtdPhase_keeps {b : Kept} {s0 s : State} (v : Int) (i : Nat) (h : Keeps b s0 s) : Keeps b s0 (State.rtdPhase s v i).2 := by
  unfold State.rtdPhase
  repeat' (first | with_reducible assumption | (intro _; try beta_reduce)
                 | (extract_lets +onlyGivenNames t; refine Keeps.cut (t := t) ?_ ?_; subst t; rotate_left; clear_value t; revert t; intro _ _)
                 | (extract_lets +onlyGivenNames t; revert t; intro _)
                 | with_reducible apply State.nextTurn_keeps | with_reducible apply State.publishRtd_keeps | with_reducible apply State.setAux_keeps
                 | with_reducible apply State.setF_keeps
                 | with_reducible exact mk_keeps (by assumption) rfl rfl rfl rfl rfl rfl rfl rfl rfl rfl rfl rfl | with_reducible apply ite_keeps | split)

theorem State.checkRtd_keeps {b : Kept} {s0 s : State} (r : Nat) (ok : Bool) (h : Keeps b s0 s) : Keeps b s0 (State.checkRtd s r ok).2 := by
  unfold State.checkRtd
  repeat' (first | with_reducible assumption
                 | (extract_lets +onlyGivenNames t; refine Keeps.cut (t := t) ?_ ?_; subst t; rotate_left; clear_value t; revert t; intro _ _)
                 | (extract_lets +onlyGivenNames t; revert t; intro _) | with_reducible apply State.flag_keeps | with_reducible apply State.inc_keeps
                 | with_reducible apply State.ok_keeps | with_reducible apply State.post_keeps | with_reducible apply State.raise_keeps | with_reducible apply State.setAux_keeps
                 | with_reducible apply State.setRtd_keeps | with_reducible exact mk_keeps (by assumption) rfl rfl rfl rfl rfl rfl rfl rfl rfl rfl rfl rfl
                 | with_reducible apply ite_keeps | split)

theorem State.rtdCfgWritten_keeps {b : Kept} {s0 s : State} (r : Nat) (h : Keeps b s0 s) : Keeps b s0 (State.rtdCfgWritten s r) := by
  unfold State.rtdCfgWritten
  repeat' (first | with_reducible assumption | (intro _; try beta_reduce)
                 | (extract_lets +onlyGivenNames t; refine Keeps.cut (t := t) ?_ ?_; subst t; rotate_left; clear_value t; revert t; intro _ _)
                 | (extract_lets +onlyGivenNames t; revert t; intro _) | with_reducible apply State.nextTurn_keeps | with_reducible apply State.setAux_keeps
                 | with_reducible apply State.setRtd_keeps | with_reducible apply State.takeEffect_keeps
                 | with_reducible exact mk_keeps (by assumption) rfl rfl rfl rfl rfl rfl rfl rfl rfl rfl rfl rfl | with_reducible apply ite_keeps | split)

theorem State.setRec_keeps {b : Kept} {s0 s : State} (x : Recorder) (h : Keeps b s0 s) (hq : x.queue = s.recorder.queue) : Keeps b s0 (State.setRec s x) := by
  exact mk_keeps h rfl rfl rfl rfl hq rfl rfl rfl rfl rfl rfl rfl

theorem State.overtake_keeps {b : Kept} {s0 s : State} (n : Nat) (h : Keeps b s0 s) : Keeps b s0 (State.overtake s n) := by
  unfold State.overtake
  repeat' (first | with_reducible assumption | (intro _; try beta_reduce)
                 | (extract_lets +onlyGivenNames t; refine Keeps.cut (t := t) ?_ ?_; subst t; rotate_left; clear_value t; revert t; intro _ _)
                 | (extract_lets +onlyGivenNames t; revert t; intro _)
                 | with_reducible apply State.setRec_keeps
                 | with_reducible exact mk_keeps (by assumption) rfl rfl rfl rfl rfl rfl rfl rfl rfl rfl rfl rfl | with_reducible apply ite_keeps | split | rfl)

theorem State.writeRec_keeps {b : Kept} {s0 s : State} (code arg timeUs : Nat) (h : Keeps b s0 s) : Keeps b s0 (State.writeRec s code arg timeUs) := by
  unfold State.writeRec
  repeat' (first | with_reducible assumption | (intro _; try beta_reduce)
                 | (extract_lets +onlyGivenNames t; refine Keeps.cut (t := t) ?_ ?_; subst t; rotate_left; clear_value t; revert t; intro _ _)
                 | (extract_lets +onlyGivenNames t; revert t; intro _)
                 | with_reducible apply State.overtake_keeps | with_reducible apply State.setR_keeps | with_reducible apply State.setRec_keeps
                 | with_reducible apply when_keeps
                 | with_reducible exact mk_keeps (by assumption) rfl rfl rfl rfl rfl rfl rfl rfl rfl rfl rfl rfl | with_reducible apply ite_keeps | split | rfl)

theorem State.writeHigh_keeps {b : Kept} {s0 s : State} (h : Keeps b s0 s) : Keeps b s0 (State.writeHigh s) := by
  unfold State.writeHigh
  repeat' (first | with_reducible assumption | (with_reducible refine State.setRec_keeps _ ?_ rfl) | with_reducible apply State.writeRec_keeps
                 | with_reducible apply wr_keeps | with_reducible exact mk_keeps (by assumption) rfl rfl rfl rfl rfl rfl rfl rfl rfl rfl rfl rfl)

theorem State.recWriter_keeps {b : Kept} {s0 s : State} (h : Keeps b s0 s) : Keeps b s0 (State.recWriter s) := by
  have hq : ∀ q : List RecPost, q.length ≤ s.recorder.queue.length → Keeps b s0 (s.setRec { s.recorder with queue := q }) := fun q hl =>
    h.trans ⟨rfl, rfl, id, id, fun x => Nat.le_trans hl x, id, Nat.le_refl _, fun _ => rfl, fun _ y => y, fun _ y => y, fun _ => ⟨rfl, rfl, rfl⟩⟩
  unfold State.recWriter
  split
  · exact State.writeRec_keeps _ _ _ (State.setRec_keeps _ h rfl)
  · split
    · exact h
    · rename_i p q he
      extract_lets rc t
      have ht : Keeps b s0 t := State.writeRec_keeps _ _ _ (hq q (by rw [he]; simp))
      split
      · exact State.writeHigh_keeps ht
      · exact ht

theorem State.drainRec_keeps {b : Kept} {s0 s : State} (n : Nat) (h : Keeps b s0 s) : Keeps b s0 (State.drainRec n s) := by
  induction n generalizing s with
  | zero => exact h
  | succ n ih =>
    unfold State.drainRec
    split
    · exact h
    · exact ih (State.recWriter_keeps h)

theorem State.setRecSlot_keeps {b : Kept} {s0 s : State} (k : Nat) (x : RecSlot) (h : Keeps b s0 s) : Keeps b s0 (State.setRecSlot s k x) := by
  unfold State.setRecSlot
  repeat' (first | with_reducible assumption | (with_reducible refine State.setRec_keeps _ ?_ rfl)
                 | with_reducible exact mk_keeps (by assumption) rfl rfl rfl rfl rfl rfl rfl rfl rfl rfl rfl rfl)

theorem State.syncRec_keeps {b : Kept} {s0 s : State} (h : Keeps b s0 s) : Keeps b s0 (State.syncRec s) := by
  unfold State.syncRec
  repeat' (first | with_reducible assumption | (intro _; try beta_reduce)
                 | (extract_lets +onlyGivenNames t; refine Keeps.cut (t := t) ?_ ?_; subst t; rotate_left; clear_value t; revert t; intro _ _)
                 | (extract_lets +onlyGivenNames t; revert t; intro _)
                 | with_reducible apply State.setF_keeps | with_reducible apply State.setR_keeps
                 | with_reducible exact mk_keeps (by assumption) rfl rfl rfl rfl rfl rfl rfl rfl rfl rfl rfl rfl | with_reducible apply ite_keeps | split)

theorem State.startFlush_keeps {b : Kept} {s0 s : State} (trig st time : Nat) (h : Keeps b s0 s) : Keeps b s0 (State.startFlush s trig st time) := by
  unfold State.startFlush
  repeat' (first | with_reducible assumption | (intro _; try beta_reduce)
                 | (extract_lets +onlyGivenNames t; refine Keeps.cut (t := t) ?_ ?_; subst t; rotate_left; clear_value t; revert t; intro _ _)
                 | (extract_lets +onlyGivenNames t; revert t; intro _)
                 | with_reducible apply State.drainRec_keeps | with_reducible apply State.flag_keeps | with_reducible apply State.setRec_keeps
                 | with_reducible apply State.syncRec_keeps | with_reducible apply State.writeRec_keeps
                 | with_reducible exact mk_keeps (by assumption) rfl rfl rfl rfl rfl rfl rfl rfl rfl rfl rfl rfl | with_reducible apply ite_keeps | split | rfl)

theorem State.flushTrigger_keeps {b : Kept} {s0 s : State} (trig : Nat) (h : Keeps b s0 s) : Keeps b s0 (State.flushTrigger s trig) := by
  unfold State.flushTrigger
  repeat' (first | with_reducible assumption | (intro _; try beta_reduce)
                 | (extract_lets +onlyGivenNames t; refine Keeps.cut (t := t) ?_ ?_; subst t; rotate_left; clear_value t; revert t; intro _ _)
                 | (extract_lets +onlyGivenNames t; revert t; intro _)
                 | with_reducible apply State.setRec_keeps | with_reducible apply State.startFlush_keeps | with_reducible apply State.syncRec_keeps
                 | with_reducible exact mk_keeps (by assumption) rfl rfl rfl rfl rfl rfl rfl rfl rfl rfl rfl rfl | with_reducible apply ite_keeps | split | rfl)

theorem State.skipStop_keeps {b : Kept} {s0 s : State} (h : Keeps b s0 s) : Keeps b s0 (State.skipStop s) := by
  unfold State.skipStop
  repeat' (first | with_reducible assumption | (intro _; try beta_reduce)
                 | (extract_lets +onlyGivenNames t; refine Keeps.cut (t := t) ?_ ?_; subst t; rotate_left; clear_value t; revert t; intro _ _)
                 | (extract_lets +onlyGivenNames t; revert t; intro _)
                 | with_reducible apply State.flag_keeps | with_reducible apply State.setRec_keeps
                 | with_reducible exact mk_keeps (by assumption) rfl rfl rfl rfl rfl rfl rfl rfl rfl rfl rfl rfl | with_reducible apply ite_keeps | split | rfl)

theorem State.flushPump_keeps {b : Kept} {s0 s : State} (h : Keeps b s0 s) : Keeps b s0 (State.flushPump s) := by
  unfold State.flushPump
  repeat' (first | with_reducible assumption | (intro _; try beta_reduce)
                 | (extract_lets +onlyGivenNames t; refine Keeps.cut (t := t) ?_ ?_; subst t; rotate_left; clear_value t; revert t; intro _ _)
                 | (extract_lets +onlyGivenNames t; revert t; intro _)
                 | with_reducible apply State.finish_keeps | with_reducible apply State.setRec_keeps | with_reducible apply State.skipStop_keeps
                 | with_reducible apply State.startFlush_keeps | with_reducible apply foldl_keeps
                 | with_reducible exact mk_keeps (by assumption) rfl rfl rfl rfl rfl rfl rfl rfl rfl rfl rfl rfl | with_reducible apply ite_keeps | split | rfl)

theorem State.startErase_keeps {b : Kept} {s0 s : State} (h : Keeps b s0 s) : Keeps b s0 (State.startErase s) := by
  unfold State.startErase
  repeat' (first | with_reducible assumption | (intro _; try beta_reduce)
                 | (extract_lets +onlyGivenNames t; refine Keeps.cut (t := t) ?_ ?_; subst t; rotate_left; clear_value t; revert t; intro _ _)
                 | (extract_lets +onlyGivenNames t; revert t; intro _)
                 | with_reducible apply State.setRec_keeps | with_reducible apply State.syncRec_keeps
                 | with_reducible exact mk_keeps (by assumption) rfl rfl rfl rfl rfl rfl rfl rfl rfl rfl rfl rfl | with_reducible apply ite_keeps | split | rfl)

theorem State.setCal_keeps {b : Kept} {s0 s : State} (x : Cal) (h : Keeps b s0 s) : Keeps b s0 (State.setCal s x) := by
  unfold State.setCal
  repeat' (first | with_reducible assumption | with_reducible exact mk_keeps (by assumption) rfl rfl rfl rfl rfl rfl rfl rfl rfl rfl rfl rfl)

theorem State.calDirty_keeps {b : Kept} {s0 s : State} (h : Keeps b s0 s) : Keeps b s0 (State.calDirty s) := by
  unfold State.calDirty
  repeat' (first | with_reducible assumption | (intro _; try beta_reduce) | with_reducible apply State.setBit_keeps | with_reducible apply State.setCal_keeps
                 | with_reducible exact mk_keeps (by assumption) rfl rfl rfl rfl rfl rfl rfl rfl rfl rfl rfl rfl)

theorem State.setClk_keeps {b : Kept} {s0 s : State} (x : Clk) (h : Keeps b s0 s) : Keeps b s0 (State.setClk s x) := by
  unfold State.setClk
  repeat' (first | with_reducible assumption | with_reducible exact mk_keeps (by assumption) rfl rfl rfl rfl rfl rfl rfl rfl rfl rfl rfl rfl)

theorem State.takeSource_keeps {b : Kept} {s0 s : State} (src : Nat) (h : Keeps b s0 s) : Keeps b s0 (State.takeSource s src) := by
  unfold State.takeSource
  repeat' (first | with_reducible assumption
                 | (extract_lets +onlyGivenNames t; refine Keeps.cut (t := t) ?_ ?_; subst t; rotate_left; clear_value t; revert t; intro _ _)
                 | (extract_lets +onlyGivenNames t; revert t; intro _) | with_reducible apply State.inc_keeps | with_reducible apply State.setBit_keeps
                 | with_reducible apply State.setClk_keeps | with_reducible apply State.setF_keeps
                 | with_reducible exact mk_keeps (by assumption) rfl rfl rfl rfl rfl rfl rfl rfl rfl rfl rfl rfl | with_reducible apply ite_keeps | split)

theorem State.returnRef_keeps {b : Kept} {s0 s : State} (h : Keeps b s0 s) : Keeps b s0 (State.returnRef s) := by
  unfold State.returnRef
  repeat' (first | with_reducible assumption
                 | (extract_lets +onlyGivenNames t; refine Keeps.cut (t := t) ?_ ?_; subst t; rotate_left; clear_value t; revert t; intro _ _)
                 | (extract_lets +onlyGivenNames t; revert t; intro _) | with_reducible apply State.flag_keeps | with_reducible apply State.post_keeps
                 | with_reducible apply State.raise_keeps | with_reducible apply State.takeSource_keeps)

end Sys2Proof.Machine
end

