-- ==== Sys2Proof/Laws/KeepsE.lean ====
section
/-!
SUPPORT. Laws/KeepsE.lean: what each operation keeps (`Keeps`), for ThermOps, CalOps, ArbOps, TableOps, Transition, CmdOps, PairOps.
-/

namespace Sys2Proof.Machine

open Sys2Proof

theorem State.dueReturn_keeps {b : Kept} {s0 s : State} (h : Keeps b s0 s) : Keeps b s0 (State.dueReturn s) := by
  unfold State.dueReturn
  repeat' (first | with_reducible assumption | with_reducible apply State.returnRef_keeps | with_reducible apply State.setClk_keeps
                 | with_reducible exact mk_keeps (by assumption) rfl rfl rfl rfl rfl rfl rfl rfl rfl rfl rfl rfl | with_reducible apply ite_keeps | split)

theorem State.holdOver_keeps {b : Kept} {s0 s : State} (h : Keeps b s0 s) : Keeps b s0 (State.holdOver s) := by
  unfold State.holdOver
  repeat' (first | with_reducible assumption
                 | (extract_lets +onlyGivenNames t; refine Keeps.cut (t := t) ?_ ?_; subst t; rotate_left; clear_value t; revert t; intro _ _)
                 | (extract_lets +onlyGivenNames t; revert t; intro _) | with_reducible apply State.setBit_keeps | with_reducible apply State.setClk_keeps
                 | with_reducible apply State.setF_keeps | with_reducible exact mk_keeps (by assumption) rfl rfl rfl rfl rfl rfl rfl rfl rfl rfl rfl rfl)

theorem State.reportLoss_keeps {b : Kept} {s0 s : State} (h : Keeps b s0 s) : Keeps b s0 (State.reportLoss s) := by
  unfold State.reportLoss
  repeat' (first | with_reducible assumption | with_reducible apply State.raise_keeps | with_reducible apply State.setClk_keeps
                 | with_reducible exact mk_keeps (by assumption) rfl rfl rfl rfl rfl rfl rfl rfl rfl rfl rfl rfl | with_reducible apply ite_keeps | split)

theorem State.syncTiming_keeps {b : Kept} {s0 s : State} (c : Nat) (h : Keeps b s0 s) : Keeps b s0 (State.syncTiming s c) := by
  unfold State.syncTiming
  repeat' (first | with_reducible assumption
                 | (extract_lets +onlyGivenNames t; refine Keeps.cut (t := t) ?_ ?_; subst t; rotate_left; clear_value t; revert t; intro _ _)
                 | (extract_lets +onlyGivenNames t; revert t; intro _) | with_reducible apply State.setBit_keeps | with_reducible apply State.setLossCause_keeps)

theorem State.syncTimings_keeps {b : Kept} {s0 s : State} (h : Keeps b s0 s) : Keeps b s0 (State.syncTimings s) := by
  unfold State.syncTimings
  repeat' (first | with_reducible assumption | (intro _; try beta_reduce) | with_reducible apply State.syncTiming_keeps | with_reducible apply each_keeps)

theorem State.chooseSource_keeps {b : Kept} {s0 s : State} (lost : Bool) (h : Keeps b s0 s) : Keeps b s0 (State.chooseSource s lost) := by
  unfold State.chooseSource
  repeat' (first | with_reducible assumption
                 | (extract_lets +onlyGivenNames t; refine Keeps.cut (t := t) ?_ ?_; subst t; rotate_left; clear_value t; revert t; intro _ _)
                 | (extract_lets +onlyGivenNames t; revert t; intro _) | with_reducible apply State.dueReturn_keeps | with_reducible apply State.flag_keeps
                 | with_reducible apply State.holdOver_keeps | with_reducible apply State.post_keeps | with_reducible apply State.reportLoss_keeps
                 | with_reducible apply State.setClk_keeps | with_reducible apply State.syncTimings_keeps | with_reducible apply State.takeSource_keeps
                 | with_reducible exact mk_keeps (by assumption) rfl rfl rfl rfl rfl rfl rfl rfl rfl rfl rfl rfl | with_reducible apply ite_keeps | split)

theorem State.clearFe_keeps {b : Kept} {s0 s : State} (h : Keeps b s0 s) : Keeps b s0 (State.clearFe s) := by
  unfold State.clearFe
  repeat' (first | with_reducible assumption | (intro _; try beta_reduce) | with_reducible apply State.feFree_keeps | with_reducible apply State.syncFe_keeps
                 | with_reducible apply each_keeps)

theorem State.commitPat_keeps {b : Kept} {s0 s : State} (h : Keeps b s0 s) : Keeps b s0 (State.commitPat s) := by
  unfold State.commitPat
  repeat' (first | with_reducible assumption | with_reducible apply State.setBit_keeps | with_reducible apply State.setEmit_keeps
                 | with_reducible exact mk_keeps (by assumption) rfl rfl rfl rfl rfl rfl rfl rfl rfl rfl rfl rfl)

theorem State.commitPoly_keeps {b : Kept} {s0 s : State} (h : Keeps b s0 s) : Keeps b s0 (State.commitPoly s) := by
  unfold State.commitPoly
  repeat' (first | with_reducible assumption
                 | (extract_lets +onlyGivenNames t; refine Keeps.cut (t := t) ?_ ?_; subst t; rotate_left; clear_value t; revert t; intro _ _)
                 | (extract_lets +onlyGivenNames t; revert t; intro _) | with_reducible apply State.setBit_keeps | with_reducible apply State.swapPoly_keeps
                 | with_reducible apply ite_keeps | split)

theorem State.setPair_keeps {b : Kept} {s0 s : State} (k : Nat) (x : Pair) (h : Keeps b s0 s) : Keeps b s0 (State.setPair s k x) := by
  unfold State.setPair
  repeat' (first | with_reducible assumption | with_reducible exact mk_keeps (by assumption) rfl rfl rfl rfl rfl rfl rfl rfl rfl rfl rfl rfl)

theorem State.pairLaneDown_keeps {b : Kept} {s0 s : State} (l : Nat) (h : Keeps b s0 s) : Keeps b s0 (State.pairLaneDown s l) := by
  unfold State.pairLaneDown
  repeat' (first | with_reducible assumption
                 | (extract_lets +onlyGivenNames t; refine Keeps.cut (t := t) ?_ ?_; subst t; rotate_left; clear_value t; revert t; intro _ _)
                 | (extract_lets +onlyGivenNames t; revert t; intro _) | with_reducible apply State.setPair_keeps
                 | with_reducible exact mk_keeps (by assumption) rfl rfl rfl rfl rfl rfl rfl rfl rfl rfl rfl rfl | with_reducible apply ite_keeps | split)

theorem State.leaveUp_keeps {b : Kept} {s0 s : State} (l : Nat) (h : Keeps b s0 s) : Keeps b s0 (State.leaveUp s l) := by
  unfold State.leaveUp
  repeat' (first | with_reducible assumption
                 | (extract_lets +onlyGivenNames t; refine Keeps.cut (t := t) ?_ ?_; subst t; rotate_left; clear_value t; revert t; intro _ _)
                 | (extract_lets +onlyGivenNames t; revert t; intro _) | with_reducible apply State.pairLaneDown_keeps | with_reducible apply State.raise_keeps
                 | with_reducible apply State.setBit_keeps | with_reducible apply State.setLane_keeps
                 | with_reducible exact mk_keeps (by assumption) rfl rfl rfl rfl rfl rfl rfl rfl rfl rfl rfl rfl | with_reducible apply ite_keeps | split)

theorem State.setLaneSt_keeps {b : Kept} {s0 s : State} (l v : Nat) (h : Keeps b s0 s) : Keeps b s0 (State.setLaneSt s l v) := by
  unfold State.setLaneSt
  repeat' (first | with_reducible assumption | with_reducible apply State.setF_keeps)

theorem State.fullBringUp_keeps {b : Kept} {s0 s : State} (l : Nat) (h : Keeps b s0 s) : Keeps b s0 (State.fullBringUp s l) := by
  unfold State.fullBringUp
  repeat' (first | with_reducible assumption | (intro _; try beta_reduce)
                 | (extract_lets +onlyGivenNames t; refine Keeps.cut (t := t) ?_ ?_; subst t; rotate_left; clear_value t; revert t; intro _ _)
                 | (extract_lets +onlyGivenNames t; revert t; intro _)
                 | with_reducible apply State.leaveUp_keeps | with_reducible apply State.setF_keeps | with_reducible apply State.setLane_keeps
                 | with_reducible apply State.setLaneSt_keeps
                 | with_reducible exact mk_keeps (by assumption) rfl rfl rfl rfl rfl rfl rfl rfl rfl rfl rfl rfl | with_reducible apply ite_keeps | split)

theorem State.startLane_keeps {b : Kept} {s0 s : State} (l : Nat) (h : Keeps b s0 s) : Keeps b s0 (State.startLane s l) := by
  unfold State.startLane
  repeat' (first | with_reducible assumption
                 | (extract_lets +onlyGivenNames t; refine Keeps.cut (t := t) ?_ ?_; subst t; rotate_left; clear_value t; revert t; intro _ _)
                 | (extract_lets +onlyGivenNames t; revert t; intro _) | with_reducible apply State.fresh_keeps | with_reducible apply State.fullBringUp_keeps
                 | with_reducible apply State.setLane_keeps | with_reducible exact mk_keeps (by assumption) rfl rfl rfl rfl rfl rfl rfl rfl rfl rfl rfl rfl
                 | with_reducible apply ite_keeps | split)

theorem State.disableLane_keeps {b : Kept} {s0 s : State} (l : Nat) (off : Bool) (h : Keeps b s0 s) : Keeps b s0 (State.disableLane s l off) := by
  unfold State.disableLane
  repeat' (first | with_reducible assumption
                 | (extract_lets +onlyGivenNames t; refine Keeps.cut (t := t) ?_ ?_; subst t; rotate_left; clear_value t; revert t; intro _ _)
                 | (extract_lets +onlyGivenNames t; revert t; intro _) | with_reducible apply State.fullBringUp_keeps | with_reducible apply State.leaveUp_keeps
                 | with_reducible apply State.setF_keeps | with_reducible apply State.setLane_keeps | with_reducible apply State.setLaneSt_keeps
                 | with_reducible apply State.startLane_keeps | with_reducible exact mk_keeps (by assumption) rfl rfl rfl rfl rfl rfl rfl rfl rfl rfl rfl rfl
                 | with_reducible apply ite_keeps | split)

theorem State.disableWritten_keeps {b : Kept} {s0 s : State} (l p tag : Nat) (off : Bool) (h : Keeps b s0 s) : Keeps b s0 (State.disableWritten s l p tag off) := by
  unfold State.disableWritten
  repeat' (first | with_reducible assumption | (intro _; try beta_reduce)
                 | (extract_lets +onlyGivenNames t; refine Keeps.cut (t := t) ?_ ?_; subst t; rotate_left; clear_value t; revert t; intro _ _)
                 | (extract_lets +onlyGivenNames t; revert t; intro _)
                 | with_reducible apply State.disableLane_keeps
                 | with_reducible exact mk_keeps (by assumption) rfl rfl rfl rfl rfl rfl rfl rfl rfl rfl rfl rfl | with_reducible apply ite_keeps | split)

theorem State.leaveIdle_keeps {b : Kept} {s0 s : State} (l : Nat) (h : Keeps b s0 s) : Keeps b s0 (State.leaveIdle s l) := by
  unfold State.leaveIdle
  repeat' (first | with_reducible assumption | with_reducible apply State.setLane_keeps
                 | with_reducible exact mk_keeps (by assumption) rfl rfl rfl rfl rfl rfl rfl rfl rfl rfl rfl rfl)

theorem State.retrain_keeps {b : Kept} {s0 s : State} (l : Nat) (h : Keeps b s0 s) : Keeps b s0 (State.retrain s l) := by
  unfold State.retrain
  repeat' (first | with_reducible assumption | (intro _; try beta_reduce)
                 | (extract_lets +onlyGivenNames t; refine Keeps.cut (t := t) ?_ ?_; subst t; rotate_left; clear_value t; revert t; intro _ _)
                 | (extract_lets +onlyGivenNames t; revert t; intro _)
                 | with_reducible apply State.flag_keeps | with_reducible apply State.inc_keeps | with_reducible apply State.leaveIdle_keeps
                 | with_reducible apply State.leaveUp_keeps | with_reducible apply State.setF_keeps | with_reducible apply State.setLane_keeps
                 | with_reducible apply State.setLaneSt_keeps
                 | with_reducible exact mk_keeps (by assumption) rfl rfl rfl rfl rfl rfl rfl rfl rfl rfl rfl rfl | with_reducible apply ite_keeps | split)

theorem State.wakeLane_keeps {b : Kept} {s0 s : State} (l : Nat) (h : Keeps b s0 s) : Keeps b s0 (State.wakeLane s l) := by
  unfold State.wakeLane
  repeat' (first | with_reducible assumption
                 | (extract_lets +onlyGivenNames t; refine Keeps.cut (t := t) ?_ ?_; subst t; rotate_left; clear_value t; revert t; intro _ _)
                 | (extract_lets +onlyGivenNames t; revert t; intro _) | with_reducible apply State.leaveIdle_keeps | with_reducible apply State.setLane_keeps
                 | with_reducible exact mk_keeps (by assumption) rfl rfl rfl rfl rfl rfl rfl rfl rfl rfl rfl rfl | with_reducible apply ite_keeps | split)

theorem State.lanePwrEffect_keeps {b : Kept} {s0 s : State} (l req : Nat) (retrain : Bool) (h : Keeps b s0 s) : Keeps b s0 (State.lanePwrEffect s l req retrain) := by
  unfold State.lanePwrEffect
  repeat' (first | with_reducible assumption | (intro _; try beta_reduce)
                 | (extract_lets +onlyGivenNames t; refine Keeps.cut (t := t) ?_ ?_; subst t; rotate_left; clear_value t; revert t; intro _ _)
                 | (extract_lets +onlyGivenNames t; revert t; intro _)
                 | with_reducible apply State.retrain_keeps | with_reducible apply State.setLane_keeps | with_reducible apply State.wakeLane_keeps
                 | with_reducible exact mk_keeps (by assumption) rfl rfl rfl rfl rfl rfl rfl rfl rfl rfl rfl rfl | with_reducible apply ite_keeps | split)

theorem State.lanePwrWritten_keeps {b : Kept} {s0 s : State} (l p tag : Nat) (v : Word) (h : Keeps b s0 s) : Keeps b s0 (State.lanePwrWritten s l p tag v) := by
  unfold State.lanePwrWritten
  repeat' (first | with_reducible assumption | (intro _; try beta_reduce)
                 | (extract_lets +onlyGivenNames t; refine Keeps.cut (t := t) ?_ ?_; subst t; rotate_left; clear_value t; revert t; intro _ _)
                 | (extract_lets +onlyGivenNames t; revert t; intro _)
                 | with_reducible apply State.lanePwrEffect_keeps
                 | with_reducible exact mk_keeps (by assumption) rfl rfl rfl rfl rfl rfl rfl rfl rfl rfl rfl rfl | with_reducible apply ite_keeps | split)

theorem State.syncSingle_keeps {b : Kept} {s0 s : State} (k : Nat) (h : Keeps b s0 s) : Keeps b s0 (State.syncSingle s k) := by
  unfold State.syncSingle
  repeat' (first | with_reducible assumption | with_reducible apply State.setHealth_keeps)

theorem State.formPair_keeps {b : Kept} {s0 s : State} (k : Nat) (on : Bool) (h : Keeps b s0 s) : Keeps b s0 (State.formPair s k on) := by
  unfold State.formPair
  repeat' (first | with_reducible assumption | (intro _; try beta_reduce)
                 | (extract_lets +onlyGivenNames t; refine Keeps.cut (t := t) ?_ ?_; subst t; rotate_left; clear_value t; revert t; intro _ _)
                 | (extract_lets +onlyGivenNames t; revert t; intro _)
                 | with_reducible apply State.setPair_keeps | with_reducible apply State.setR_keeps | with_reducible apply State.syncSingle_keeps
                 | with_reducible exact mk_keeps (by assumption) rfl rfl rfl rfl rfl rfl rfl rfl rfl rfl rfl rfl | with_reducible apply ite_keeps | split)

theorem State.linkWritten_keeps {b : Kept} {s0 s : State} (old v : Word) (h : Keeps b s0 s) : Keeps b s0 (State.linkWritten s old v) := by
  unfold State.linkWritten
  repeat' (first | with_reducible assumption | (intro _; try beta_reduce)
                 | (extract_lets +onlyGivenNames t; refine Keeps.cut (t := t) ?_ ?_; subst t; rotate_left; clear_value t; revert t; intro _ _)
                 | (extract_lets +onlyGivenNames t; revert t; intro _) | with_reducible apply State.formPair_keeps | with_reducible apply State.setLane_keeps
                 | with_reducible apply each_keeps | with_reducible exact mk_keeps (by assumption) rfl rfl rfl rfl rfl rfl rfl rfl rfl rfl rfl rfl
                 | with_reducible apply ite_keeps | split)

theorem State.periodWritten_keeps {b : Kept} {s0 s : State} (h : Keeps b s0 s) : Keeps b s0 (State.periodWritten s) := by
  unfold State.periodWritten
  repeat' (first | with_reducible assumption | with_reducible apply State.setF_keeps | with_reducible apply ite_keeps | split)

theorem State.gapPlanned_keeps {b : Kept} {s0 s : State} (key : Nat) (c : ColPlan) (h : Keeps b s0 s) : Keeps b s0 (State.gapPlanned s key c) := by
  unfold State.gapPlanned
  repeat' (first | with_reducible assumption | with_reducible apply State.setCol_keeps
                 | with_reducible exact mk_keeps (by assumption) rfl rfl rfl rfl rfl rfl rfl rfl rfl rfl rfl rfl | with_reducible apply ite_keeps | split)

theorem State.beginGap_keeps {b : Kept} {s0 s : State} (h : Keeps b s0 s) : Keeps b s0 (State.beginGap s) := by
  unfold State.beginGap
  repeat' (first | with_reducible assumption | (intro _; try beta_reduce)
                 | (extract_lets +onlyGivenNames t; refine Keeps.cut (t := t) ?_ ?_; subst t; rotate_left; clear_value t; revert t; intro _ _)
                 | (extract_lets +onlyGivenNames t; revert t; intro _) | with_reducible apply State.gapPlanned_keeps | with_reducible apply each_keeps
                 | with_reducible exact mk_keeps (by assumption) rfl rfl rfl rfl rfl rfl rfl rfl rfl rfl rfl rfl)

theorem State.calEvent_keeps {b : Kept} {s0 s : State} (kind comb failed : Nat) (temp : Int) (aborted : Bool) (h : Keeps b s0 s) : Keeps b s0 (State.calEvent s kind comb failed temp aborted) := by
  unfold State.calEvent
  repeat' (first | with_reducible assumption | (intro _; try beta_reduce)
                 | (extract_lets +onlyGivenNames t; refine Keeps.cut (t := t) ?_ ?_; subst t; rotate_left; clear_value t; revert t; intro _ _)
                 | (extract_lets +onlyGivenNames t; revert t; intro _)
                 | with_reducible apply State.raise_keeps
                 | with_reducible exact mk_keeps (by assumption) rfl rfl rfl rfl rfl rfl rfl rfl rfl rfl rfl rfl | with_reducible apply ite_keeps | split)

theorem State.setDark_keeps {b : Kept} {s0 s : State} (c : Nat) (on : Bool) (h : Keeps b s0 s) : Keeps b s0 (State.setDark s c on) := by
  unfold State.setDark
  repeat' (first | with_reducible assumption
                 | (extract_lets +onlyGivenNames t; refine Keeps.cut (t := t) ?_ ?_; subst t; rotate_left; clear_value t; revert t; intro _ _)
                 | (extract_lets +onlyGivenNames t; revert t; intro _) | with_reducible apply State.setBit_keeps | with_reducible apply State.setF_keeps
                 | with_reducible exact mk_keeps (by assumption) rfl rfl rfl rfl rfl rfl rfl rfl rfl rfl rfl rfl | with_reducible apply ite_keeps | split)

theorem State.abortFull_keeps {b : Kept} {s0 s : State} (h : Keeps b s0 s) : Keeps b s0 (State.abortFull s) := by
  unfold State.abortFull
  repeat' (first | with_reducible assumption | (intro _; try beta_reduce)
                 | (extract_lets +onlyGivenNames t; refine Keeps.cut (t := t) ?_ ?_; subst t; rotate_left; clear_value t; revert t; intro _ _)
                 | (extract_lets +onlyGivenNames t; revert t; intro _) | with_reducible apply State.calEvent_keeps | with_reducible apply State.finish_keeps
                 | with_reducible apply State.setBit_keeps | with_reducible apply State.setCal_keeps | with_reducible apply State.setDark_keeps
                 | with_reducible apply State.setRange_keeps | with_reducible apply each_keeps
                 | with_reducible exact mk_keeps (by assumption) rfl rfl rfl rfl rfl rfl rfl rfl rfl rfl rfl rfl | with_reducible apply ite_keeps | split)

theorem State.sendOutcome_keeps {b : Kept} {s0 s : State} (i code reason claimant claimStream : Nat) (partialPass : Bool) (a : PassAcc) (h : Keeps b s0 s) : Keeps b s0 (State.sendOutcome s i code reason claimant claimStream partialPass a) := by
  unfold State.sendOutcome
  repeat' (first | with_reducible assumption | (intro _; try beta_reduce)
                 | (extract_lets +onlyGivenNames t; refine Keeps.cut (t := t) ?_ ?_; subst t; rotate_left; clear_value t; revert t; intro _ _)
                 | (extract_lets +onlyGivenNames t; revert t; intro _)
                 | with_reducible apply State.inc_keeps | with_reducible apply State.raise_keeps
                 | with_reducible exact mk_keeps (by assumption) rfl rfl rfl rfl rfl rfl rfl rfl rfl rfl rfl rfl | with_reducible apply ite_keeps | split)

theorem State.setStream_keeps {b : Kept} {s0 s : State} (i : Nat) (x : Stream) (h : Keeps b s0 s) : Keeps b s0 (State.setStream s i x) := by
  unfold State.setStream
  repeat' (first | with_reducible assumption
                 | (extract_lets +onlyGivenNames t; refine Keeps.cut (t := t) ?_ ?_; subst t; rotate_left; clear_value t; revert t; intro _ _)
                 | (extract_lets +onlyGivenNames t; revert t; intro _) | with_reducible apply State.setR_keeps
                 | with_reducible exact mk_keeps (by assumption) rfl rfl rfl rfl rfl rfl rfl rfl rfl rfl rfl rfl)

theorem State.outcome_keeps {b : Kept} {s0 s : State} (i code reason claimant claimStream : Nat) (partialPass : Bool) (a : PassAcc) (h : Keeps b s0 s) : Keeps b s0 (State.outcome s i code reason claimant claimStream partialPass a) := by
  unfold State.outcome
  repeat' (first | with_reducible assumption | (intro _; try beta_reduce)
                 | (extract_lets +onlyGivenNames t; refine Keeps.cut (t := t) ?_ ?_; subst t; rotate_left; clear_value t; revert t; intro _ _)
                 | (extract_lets +onlyGivenNames t; revert t; intro _)
                 | with_reducible apply State.sendOutcome_keeps | with_reducible apply State.setStream_keeps
                 | with_reducible exact mk_keeps (by assumption) rfl rfl rfl rfl rfl rfl rfl rfl rfl rfl rfl rfl | with_reducible apply ite_keeps | split)

theorem State.takeHolder_keeps {b : Kept} {s0 s : State} (fr i code claimant claimStream : Nat) (h : Keeps b s0 s) : Keeps b s0 (State.takeHolder s fr i code claimant claimStream) := by
  unfold State.takeHolder
  repeat' (first | with_reducible assumption | (intro _; try beta_reduce)
                 | (extract_lets +onlyGivenNames t; refine Keeps.cut (t := t) ?_ ?_; subst t; rotate_left; clear_value t; revert t; intro _ _)
                 | (extract_lets +onlyGivenNames t; revert t; intro _)
                 | with_reducible apply State.outcome_keeps
                 | with_reducible exact mk_keeps (by assumption) rfl rfl rfl rfl rfl rfl rfl rfl rfl rfl rfl rfl | with_reducible apply ite_keeps | split)

theorem State.dropHolder_keeps {b : Kept} {s0 s : State} (h' claimant : Nat) (h : Keeps b s0 s) : Keeps b s0 (State.dropHolder s h' claimant) := by
  unfold State.dropHolder
  repeat' (first | with_reducible assumption | (intro _; try beta_reduce)
                 | (extract_lets +onlyGivenNames t; refine Keeps.cut (t := t) ?_ ?_; subst t; rotate_left; clear_value t; revert t; intro _ _)
                 | (extract_lets +onlyGivenNames t; revert t; intro _)
                 | with_reducible apply State.takeHolder_keeps | with_reducible apply each_keeps
                 | with_reducible exact mk_keeps (by assumption) rfl rfl rfl rfl rfl rfl rfl rfl rfl rfl rfl rfl | with_reducible apply ite_keeps | split)

theorem State.dropPasses_keeps {b : Kept} {s0 s : State} (i claimant : Nat) (l : List PassAcc) (h : Keeps b s0 s) : Keeps b s0 (State.dropPasses s i claimant l) := by
  unfold State.dropPasses
  repeat' (first | with_reducible assumption | (intro _; try beta_reduce)
                 | (extract_lets +onlyGivenNames t; refine Keeps.cut (t := t) ?_ ?_; subst t; rotate_left; clear_value t; revert t; intro _ _)
                 | (extract_lets +onlyGivenNames t; revert t; intro _)
                 | with_reducible apply State.takeHolder_keeps | with_reducible apply each_keeps
                 | with_reducible exact mk_keeps (by assumption) rfl rfl rfl rfl rfl rfl rfl rfl rfl rfl rfl rfl | with_reducible apply ite_keeps | split)

theorem State.arbLeave_keeps {b : Kept} {s0 s : State} (h : Keeps b s0 s) : Keeps b s0 (State.arbLeave s) := by
  unfold State.arbLeave
  repeat' (first | with_reducible assumption | (intro _; try beta_reduce)
                 | (extract_lets +onlyGivenNames t; refine Keeps.cut (t := t) ?_ ?_; subst t; rotate_left; clear_value t; revert t; intro _ _)
                 | (extract_lets +onlyGivenNames t; revert t; intro _)
                 | with_reducible apply State.dropHolder_keeps | with_reducible apply State.dropPasses_keeps | with_reducible apply each_keeps
                 | with_reducible exact mk_keeps (by assumption) rfl rfl rfl rfl rfl rfl rfl rfl rfl rfl rfl rfl | with_reducible apply ite_keeps | split)

theorem State.setRed_keeps {b : Kept} {s0 s : State} (x : Red) (h : Keeps b s0 s) : Keeps b s0 (State.setRed s x) := by
  unfold State.setRed
  repeat' (first | with_reducible assumption | with_reducible exact mk_keeps (by assumption) rfl rfl rfl rfl rfl rfl rfl rfl rfl rfl rfl rfl)

theorem State.endTakeover_keeps {b : Kept} {s0 s : State} (h : Keeps b s0 s) : Keeps b s0 (State.endTakeover s) := by
  unfold State.endTakeover
  repeat' (first | with_reducible assumption
                 | (extract_lets +onlyGivenNames t; refine Keeps.cut (t := t) ?_ ?_; subst t; rotate_left; clear_value t; revert t; intro _ _)
                 | (extract_lets +onlyGivenNames t; revert t; intro _) | with_reducible apply State.claim_keeps | with_reducible apply State.raise_keeps
                 | with_reducible apply State.setF_keeps | with_reducible apply State.setRed_keeps
                 | with_reducible exact mk_keeps (by assumption) rfl rfl rfl rfl rfl rfl rfl rfl rfl rfl rfl rfl | with_reducible apply ite_keeps | split)

theorem State.endScan_keeps {b : Kept} {s0 s : State} (h : Keeps b s0 s) : Keeps b s0 (State.endScan s) := by
  unfold State.endScan
  repeat' (first | with_reducible assumption | (intro _; try beta_reduce)
                 | (extract_lets +onlyGivenNames t; refine Keeps.cut (t := t) ?_ ?_; subst t; rotate_left; clear_value t; revert t; intro _ _)
                 | (extract_lets +onlyGivenNames t; revert t; intro _)
                 | with_reducible apply State.columnTracks_keeps | with_reducible apply State.endTakeover_keeps
                 | with_reducible apply State.rechooseSar_keeps | with_reducible apply State.setCol_keeps | with_reducible apply State.setDet_keeps
                 | with_reducible apply State.setEmit_keeps | with_reducible apply State.stopScan_keeps | with_reducible apply each_keeps
                 | with_reducible exact mk_keeps (by assumption) rfl rfl rfl rfl rfl rfl rfl rfl rfl rfl rfl rfl | with_reducible apply ite_keeps | split)

theorem State.setBoot_keeps {b : Kept} {s0 s : State} (x : Boot) (h : Keeps b s0 s) (hf : x.fuses = s.boot.fuses) (he : b.enroll = true → x.enroll = s.boot.enroll) : Keeps b s0 (State.setBoot s x) := by
  refine h.trans ⟨rfl, rfl, id, id, id, id, by rw [show (s.setBoot x).boot.fuses = s.boot.fuses from hf], fun _ => by rw [show (s.setBoot x).boot.fuses = s.boot.fuses from hf],
    fun _ y => y, fun hb y => ?_, fun _ => ⟨rfl, rfl, rfl⟩⟩
  unfold State.enrollOk
  rw [show (s.setBoot x).boot.enroll = s.boot.enroll from he hb]
  exact y

theorem State.setFlash_keeps {b : Kept} {s0 s : State} (x : Flash) (h : Keeps b s0 s) : Keeps b s0 (State.setFlash s x) := by
  unfold State.setFlash
  repeat' (first | with_reducible assumption | (with_reducible refine State.setBoot_keeps _ ?_ rfl fun _ => rfl)
                 | with_reducible exact mk_keeps (by assumption) rfl rfl rfl rfl rfl rfl rfl rfl rfl rfl rfl rfl)

theorem State.beginBoot_keeps {b : Kept} {s0 s : State} (h : Keeps b s0 s) : Keeps b s0 (State.beginBoot s).1 := by
  unfold State.beginBoot
  repeat' (first | with_reducible assumption
                 | (extract_lets +onlyGivenNames t; refine Keeps.cut (t := t) ?_ ?_; subst t; rotate_left; clear_value t; revert t; intro _ _)
                 | (extract_lets +onlyGivenNames t; revert t; intro _) | with_reducible apply State.setFlash_keeps
                 | with_reducible exact mk_keeps (by assumption) rfl rfl rfl rfl rfl rfl rfl rfl rfl rfl rfl rfl)

theorem State.bootDirectory_keeps {b : Kept} {s0 s : State} (h : Keeps b s0 s) : Keeps b s0 (State.bootDirectory s).1 := by
  unfold State.bootDirectory
  repeat' (first | with_reducible assumption | (intro _; try beta_reduce)
                 | (extract_lets +onlyGivenNames t; refine Keeps.cut (t := t) ?_ ?_; subst t; rotate_left; clear_value t; revert t; intro _ _)
                 | (extract_lets +onlyGivenNames t; revert t; intro _) | with_reducible apply State.beginBoot_keeps | with_reducible apply State.flag_keeps
                 | with_reducible apply State.setR_keeps | with_reducible apply when_keeps)

theorem State.cutBoot_keeps {b : Kept} {s0 s : State} (h : Keeps b s0 s) : Keeps b s0 (State.cutBoot s) := by
  unfold State.cutBoot
  repeat' (first | with_reducible assumption | (intro _; try beta_reduce)
                 | (extract_lets +onlyGivenNames t; refine Keeps.cut (t := t) ?_ ?_; subst t; rotate_left; clear_value t; revert t; intro _ _)
                 | (extract_lets +onlyGivenNames t; revert t; intro _)
                 | with_reducible apply State.bootDirectory_keeps | with_reducible apply State.fresh_keeps
                 | with_reducible exact mk_keeps (by assumption) rfl rfl rfl rfl rfl rfl rfl rfl rfl rfl rfl rfl | with_reducible apply ite_keeps | split)

theorem State.svnWaits_keeps {b : Kept} {s0 s : State} (h : Keeps b s0 s) : Keeps b s0 (State.svnWaits s) := by
  unfold State.svnWaits
  repeat' (first | with_reducible assumption | (intro _; try beta_reduce)
                 | (extract_lets +onlyGivenNames t; refine Keeps.cut (t := t) ?_ ?_; subst t; rotate_left; clear_value t; revert t; intro _ _)
                 | (extract_lets +onlyGivenNames t; revert t; intro _)
                 | with_reducible apply State.flag_keeps | with_reducible apply when_keeps
                 | with_reducible exact mk_keeps (by assumption) rfl rfl rfl rfl rfl rfl rfl rfl rfl rfl rfl rfl | with_reducible apply ite_keeps | split)

theorem State.leave_keeps {b : Kept} {s0 s : State} (dst : DevState) (cause : Nat) (h : Keeps b s0 s) : Keeps b s0 (State.leave s dst cause) := by
  unfold State.leave
  repeat' (first | with_reducible assumption | (intro _; try beta_reduce)
                 | (extract_lets +onlyGivenNames t; refine Keeps.cut (t := t) ?_ ?_; subst t; rotate_left; clear_value t; revert t; intro _ _)
                 | (extract_lets +onlyGivenNames t; revert t; intro _)
                 | with_reducible apply State.abortFull_keeps | with_reducible apply State.arbLeave_keeps | with_reducible apply State.blindZones_keeps
                 | with_reducible apply State.cutBoot_keeps | with_reducible apply State.endScan_keeps | with_reducible apply State.setBit_keeps
                 | with_reducible apply State.setF_keeps | with_reducible apply State.ssnHold_keeps | with_reducible apply State.svnWaits_keeps
                 | with_reducible apply each_keeps | with_reducible apply when_keeps
                 | with_reducible exact mk_keeps (by assumption) rfl rfl rfl rfl rfl rfl rfl rfl rfl rfl rfl rfl | with_reducible apply ite_keeps | split)

theorem State.cancelCmds_keeps {b : Kept} {s0 s : State} (c0 c : Nat) (h : Keeps b s0 s) : Keeps b s0 (State.cancelCmds s c0 c) := by
  unfold State.cancelCmds
  extract_lets l t
  refine foldl_keeps _ _ (mk_cmds_keeps _ h (Nat.zero_le _) rfl) fun u e hu => State.queueEvent_keeps _ _ _ _ _ hu

theorem State.defaultRoles_keeps {b : Kept} {s0 s : State} (h : Keeps b s0 s) : Keeps b s0 (State.defaultRoles s) := by
  unfold State.defaultRoles
  repeat' (first | with_reducible assumption | (intro _; try beta_reduce)
                 | (extract_lets +onlyGivenNames t; refine Keeps.cut (t := t) ?_ ?_; subst t; rotate_left; clear_value t; revert t; intro _ _)
                 | (extract_lets +onlyGivenNames t; revert t; intro _) | with_reducible apply State.setOwner_keeps | with_reducible apply State.setRole_keeps
                 | with_reducible apply each_keeps | with_reducible apply ite_keeps | split)

theorem State.recoverTiles_keeps {b : Kept} {s0 s : State} (h : Keeps b s0 s) : Keeps b s0 (State.recoverTiles s) := by
  unfold State.recoverTiles
  repeat' (first | with_reducible assumption | (intro _; try beta_reduce)
                 | (extract_lets +onlyGivenNames t; refine Keeps.cut (t := t) ?_ ?_; subst t; rotate_left; clear_value t; revert t; intro _ _)
                 | (extract_lets +onlyGivenNames t; revert t; intro _) | with_reducible apply State.post_keeps | with_reducible apply State.setBit_keeps
                 | with_reducible apply State.setEmit_keeps | with_reducible apply State.setWlState_keeps | with_reducible apply State.setWlTile_keeps
                 | with_reducible apply State.settleWl_keeps | with_reducible apply State.ssnHold_keeps | with_reducible apply each_keeps | with_reducible apply when_keeps
                 | with_reducible exact mk_keeps (by assumption) rfl rfl rfl rfl rfl rfl rfl rfl rfl rfl rfl rfl | with_reducible apply ite_keeps | split)

theorem State.swapPatternsDue_keeps {b : Kept} {s0 s : State} (h : Keeps b s0 s) : Keeps b s0 (State.swapPatternsDue s) := by
  unfold State.swapPatternsDue
  repeat' (first | with_reducible assumption | with_reducible apply State.swapPatterns_keeps | with_reducible apply ite_keeps | split)

theorem State.swapSct_keeps {b : Kept} {s0 s : State} (h : Keeps b s0 s) : Keeps b s0 (State.swapSct s) := by
  unfold State.swapSct
  repeat' (first | with_reducible assumption
                 | (extract_lets +onlyGivenNames t; refine Keeps.cut (t := t) ?_ ?_; subst t; rotate_left; clear_value t; revert t; intro _ _)
                 | (extract_lets +onlyGivenNames t; revert t; intro _) | with_reducible apply State.raise_keeps | with_reducible apply State.resetExpect_keeps
                 | with_reducible apply State.setBit_keeps | with_reducible apply State.setR_keeps
                 | with_reducible exact mk_keeps (by assumption) rfl rfl rfl rfl rfl rfl rfl rfl rfl rfl rfl rfl)

theorem State.swapNamed_keeps {b : Kept} {s0 s : State} (sct zones : Bool) (h : Keeps b s0 s) : Keeps b s0 (State.swapNamed s sct zones) := by
  unfold State.swapNamed
  repeat' (first | with_reducible assumption | (intro _; try beta_reduce)
                 | (extract_lets +onlyGivenNames t; refine Keeps.cut (t := t) ?_ ?_; subst t; rotate_left; clear_value t; revert t; intro _ _)
                 | (extract_lets +onlyGivenNames t; revert t; intro _) | with_reducible apply State.swapSct_keeps | with_reducible apply State.swapZones_keeps
                 | with_reducible apply State.undefinedZones_keeps | with_reducible apply when_keeps | with_reducible apply ite_keeps | split)

theorem State.swapSlots_keeps {b : Kept} {s0 s : State} (h : Keeps b s0 s) : Keeps b s0 (State.swapSlots s) := by
  unfold State.swapSlots
  repeat' (first | with_reducible assumption | (intro _; try beta_reduce)
                 | (extract_lets +onlyGivenNames t; refine Keeps.cut (t := t) ?_ ?_; subst t; rotate_left; clear_value t; revert t; intro _ _)
                 | (extract_lets +onlyGivenNames t; revert t; intro _) | with_reducible apply State.raise_keeps | with_reducible apply State.setBit_keeps
                 | with_reducible apply State.setF_keeps | with_reducible apply wr_keeps | with_reducible apply each_keeps
                 | with_reducible exact mk_keeps (by assumption) rfl rfl rfl rfl rfl rfl rfl rfl rfl rfl rfl rfl)

theorem State.swapTpl_keeps {b : Kept} {s0 s : State} (h : Keeps b s0 s) : Keeps b s0 (State.swapTpl s) := by
  unfold State.swapTpl
  repeat' (first | with_reducible assumption
                 | (extract_lets +onlyGivenNames t; refine Keeps.cut (t := t) ?_ ?_; subst t; rotate_left; clear_value t; revert t; intro _ _)
                 | (extract_lets +onlyGivenNames t; revert t; intro _) | with_reducible apply State.setBit_keeps | with_reducible apply State.setDet_keeps
                 | with_reducible exact mk_keeps (by assumption) rfl rfl rfl rfl rfl rfl rfl rfl rfl rfl rfl rfl | with_reducible apply ite_keeps | split)

theorem State.swapPending_keeps {b : Kept} {s0 s : State} (h : Keeps b s0 s) : Keeps b s0 (State.swapPending s) := by
  unfold State.swapPending
  repeat' (first | with_reducible assumption
                 | (extract_lets +onlyGivenNames t; refine Keeps.cut (t := t) ?_ ?_; subst t; rotate_left; clear_value t; revert t; intro _ _)
                 | (extract_lets +onlyGivenNames t; revert t; intro _) | with_reducible apply State.swapNamed_keeps | with_reducible apply State.swapPoly_keeps
                 | with_reducible apply State.swapSlots_keeps | with_reducible apply State.swapTpl_keeps | with_reducible apply ite_keeps | split)

theorem State.enterStandby_keeps {b : Kept} {s0 s : State} (from_ : DevState) (h : Keeps b s0 s) : Keeps b s0 (State.enterStandby s from_) := by
  unfold State.enterStandby
  repeat' (first | with_reducible assumption | (intro _; try beta_reduce)
                 | (extract_lets +onlyGivenNames t; refine Keeps.cut (t := t) ?_ ?_; subst t; rotate_left; clear_value t; revert t; intro _ _)
                 | (extract_lets +onlyGivenNames t; revert t; intro _)
                 | with_reducible apply State.biasDown_keeps | with_reducible apply State.defaultRoles_keeps | with_reducible apply State.endSpan_keeps
                 | with_reducible apply State.flushPump_keeps | with_reducible apply State.recoverTiles_keeps
                 | with_reducible apply State.restartMa_keeps | with_reducible apply State.restartRtd_keeps | with_reducible apply State.seedDither_keeps
                 | with_reducible apply State.startErase_keeps | with_reducible apply State.swapPatternsDue_keeps
                 | with_reducible apply State.swapPending_keeps | with_reducible apply each_keeps | with_reducible apply when_keeps
                 | with_reducible exact mk_keeps (by assumption) rfl rfl rfl rfl rfl rfl rfl rfl rfl rfl rfl rfl | with_reducible apply ite_keeps | split)

theorem State.enterArmed_keeps {b : Kept} {s0 s : State} (h : Keeps b s0 s) : Keeps b s0 (State.enterArmed s) := by
  unfold State.enterArmed
  repeat' (first | with_reducible assumption | (intro _; try beta_reduce)
                 | (extract_lets +onlyGivenNames t; refine Keeps.cut (t := t) ?_ ?_; subst t; rotate_left; clear_value t; revert t; intro _ _)
                 | (extract_lets +onlyGivenNames t; revert t; intro _) | with_reducible apply State.setF_keeps | with_reducible apply State.startRange_keeps
                 | with_reducible apply State.swapPatternsDue_keeps | with_reducible apply each_keeps | with_reducible apply ite_keeps | split)

theorem State.enterSafe_keeps {b : Kept} {s0 s : State} (cause : Nat) (h : Keeps b s0 s) : Keeps b s0 (State.enterSafe s cause) := by
  unfold State.enterSafe
  repeat' (first | with_reducible assumption | (intro _; try beta_reduce)
                 | (extract_lets +onlyGivenNames t; refine Keeps.cut (t := t) ?_ ?_; subst t; rotate_left; clear_value t; revert t; intro _ _)
                 | (extract_lets +onlyGivenNames t; revert t; intro _)
                 | with_reducible apply State.faultTrigger_keeps | with_reducible apply State.flushTrigger_keeps
                 | with_reducible apply State.parkAxis_keeps | with_reducible apply each_keeps | with_reducible apply when_keeps
                 | with_reducible exact mk_keeps (by assumption) rfl rfl rfl rfl rfl rfl rfl rfl rfl rfl rfl rfl | with_reducible apply ite_keeps | split)

theorem State.endRun_keeps {b : Kept} {s0 s : State} (h : Keeps b s0 s) : Keeps b s0 (State.endRun s) := by
  unfold State.endRun
  repeat' (first | with_reducible assumption | (intro _; try beta_reduce)
                 | (extract_lets +onlyGivenNames t; refine Keeps.cut (t := t) ?_ ?_; subst t; rotate_left; clear_value t; revert t; intro _ _)
                 | (extract_lets +onlyGivenNames t; revert t; intro _) | with_reducible apply State.setBit_keeps | with_reducible apply State.setCal_keeps
                 | with_reducible apply State.setF_keeps | with_reducible apply State.setRange_keeps | with_reducible apply each_keeps
                 | with_reducible exact mk_keeps (by assumption) rfl rfl rfl rfl rfl rfl rfl rfl rfl rfl rfl rfl)

theorem State.syncDue_keeps {b : Kept} {s0 s : State} (h : Keeps b s0 s) : Keeps b s0 (State.syncDue s) := by
  unfold State.syncDue
  repeat' (first | with_reducible assumption | (intro _; try beta_reduce)
                 | (extract_lets +onlyGivenNames t; refine Keeps.cut (t := t) ?_ ?_; subst t; rotate_left; clear_value t; revert t; intro _ _)
                 | (extract_lets +onlyGivenNames t; revert t; intro _)
                 | with_reducible apply State.setBit_keeps | with_reducible apply State.setF_keeps | with_reducible apply each_keeps
                 | with_reducible apply when_keeps
                 | with_reducible exact mk_keeps (by assumption) rfl rfl rfl rfl rfl rfl rfl rfl rfl rfl rfl rfl | with_reducible apply ite_keeps | split)

theorem State.abortRun_keeps {b : Kept} {s0 s : State} (h : Keeps b s0 s) : Keeps b s0 (State.abortRun s) := by
  unfold State.abortRun
  repeat' (first | with_reducible assumption | (intro _; try beta_reduce)
                 | (extract_lets +onlyGivenNames t; refine Keeps.cut (t := t) ?_ ?_; subst t; rotate_left; clear_value t; revert t; intro _ _)
                 | (extract_lets +onlyGivenNames t; revert t; intro _)
                 | with_reducible apply State.calEvent_keeps | with_reducible apply State.endRun_keeps | with_reducible apply State.finish_keeps
                 | with_reducible apply State.setCal_keeps | with_reducible apply State.syncDue_keeps
                 | with_reducible exact mk_keeps (by assumption) rfl rfl rfl rfl rfl rfl rfl rfl rfl rfl rfl rfl | with_reducible apply ite_keeps | split)

theorem State.putCopy_keeps {b : Kept} {s0 s : State} (slot : Nat) (r : CalRec) (ok : Bool) (h : Keeps b s0 s) : Keeps b s0 (State.putCopy s slot r ok) := by
  unfold State.putCopy
  repeat' (first | with_reducible assumption | with_reducible apply State.ok_keeps | with_reducible apply State.setCal_keeps
                 | with_reducible exact mk_keeps (by assumption) rfl rfl rfl rfl rfl rfl rfl rfl rfl rfl rfl rfl | with_reducible apply ite_keeps | split)

theorem State.abortSave_keeps {b : Kept} {s0 s : State} (h : Keeps b s0 s) : Keeps b s0 (State.abortSave s) := by
  unfold State.abortSave
  repeat' (first | with_reducible assumption | (intro _; try beta_reduce)
                 | (extract_lets +onlyGivenNames t; refine Keeps.cut (t := t) ?_ ?_; subst t; rotate_left; clear_value t; revert t; intro _ _)
                 | (extract_lets +onlyGivenNames t; revert t; intro _)
                 | with_reducible apply State.finish_keeps | with_reducible apply State.fresh_keeps | with_reducible apply State.putCopy_keeps
                 | with_reducible apply State.setBit_keeps | with_reducible apply State.setCal_keeps | with_reducible apply State.setF_keeps
                 | with_reducible exact mk_keeps (by assumption) rfl rfl rfl rfl rfl rfl rfl rfl rfl rfl rfl rfl | with_reducible apply ite_keeps | split)

theorem State.enterThermalStop_keeps {b : Kept} {s0 s : State} (h : Keeps b s0 s) : Keeps b s0 (State.enterThermalStop s) := by
  unfold State.enterThermalStop
  repeat' (first | with_reducible assumption | (intro _; try beta_reduce)
                 | (extract_lets +onlyGivenNames t; refine Keeps.cut (t := t) ?_ ?_; subst t; rotate_left; clear_value t; revert t; intro _ _)
                 | (extract_lets +onlyGivenNames t; revert t; intro _)
                 | with_reducible apply State.abortFull_keeps | with_reducible apply State.abortRun_keeps | with_reducible apply State.abortSave_keeps
                 | with_reducible apply State.biasDown_keeps | with_reducible apply State.endSpan_keeps | with_reducible apply State.flag_keeps
                 | with_reducible apply State.flushTrigger_keeps | with_reducible apply State.inc_keeps | with_reducible apply State.parkAxis_keeps
                 | with_reducible apply State.post_keeps | with_reducible apply State.setRec_keeps | with_reducible apply each_keeps
                 | with_reducible exact mk_keeps (by assumption) rfl rfl rfl rfl rfl rfl rfl rfl rfl rfl rfl rfl | with_reducible apply ite_keeps | split | rfl)

theorem State.abandonFlush_keeps {b : Kept} {s0 s : State} (h : Keeps b s0 s) : Keeps b s0 (State.abandonFlush s) := by
  unfold State.abandonFlush
  repeat' (first | with_reducible assumption | (intro _; try beta_reduce)
                 | (extract_lets +onlyGivenNames t; refine Keeps.cut (t := t) ?_ ?_; subst t; rotate_left; clear_value t; revert t; intro _ _)
                 | (extract_lets +onlyGivenNames t; revert t; intro _)
                 | with_reducible apply State.setRec_keeps | with_reducible apply State.setRecSlot_keeps | with_reducible apply State.syncRec_keeps
                 | with_reducible apply when_keeps
                 | with_reducible exact mk_keeps (by assumption) rfl rfl rfl rfl rfl rfl rfl rfl rfl rfl rfl rfl | with_reducible apply ite_keeps | split | rfl)

/-- Another boot state that keeps the roll-back count and a programmed owner key, and in which no enrolment waits that did not wait before. -/
theorem State.setBoot_fuses_keeps {b : Kept} {s0 s : State} (x : Boot) (h : Keeps b s0 s) (hs : s.boot.fuses.svn ≤ x.fuses.svn)
    (ho : s.boot.fuses.ownerHash.isSome → x.fuses.ownerHash = s.boot.fuses.ownerHash) (he : x.enroll = none ∨ x.enroll = s.boot.enroll) :
    Keeps b s0 (State.setBoot s x) := by
  refine h.trans ⟨rfl, rfl, id, id, id, id, hs, ho, fun _ y => y, fun _ y => ?_, fun _ => ⟨rfl, rfl, rfl⟩⟩
  intro e hx
  rcases he with he | he
  · rw [show (s.setBoot x).boot.enroll = none from he] at hx; exact nomatch hx
  · exact y e (by rw [← he]; exact hx)

theorem getD_kept {α : Type} (o : Option α) (x : α) (h : o.isSome) : some (o.getD x) = o := by
  obtain ⟨v, rfl⟩ := Option.isSome_iff_exists.1 h; rfl

theorem State.cutFuses_keeps {b : Kept} {s0 s : State} (h : Keeps b s0 s) : Keeps b s0 (State.cutFuses s) := by
  unfold State.cutFuses
  split
  · exact h
  · extract_lets fr x t1 fu t2
    have h1 : Keeps b s0 t1 := State.setBoot_fuses_keeps _ (State.fresh_keeps h) (Nat.le_refl _) (fun _ => rfl) (.inl rfl)
    exact ite_keeps (State.setBit_keeps _ _ _ (State.setBoot_fuses_keeps _ h1 (Nat.le_refl _) (getD_kept _ _) (.inr rfl))) h1

theorem State.hardEffects_keeps {b : Kept} {s0 s : State} (h : Keeps b s0 s) : Keeps b s0 (State.hardEffects s) := by
  unfold State.hardEffects
  repeat' (first | with_reducible assumption | (intro _; try beta_reduce)
                 | (extract_lets +onlyGivenNames t; refine Keeps.cut (t := t) ?_ ?_; subst t; rotate_left; clear_value t; revert t; intro _ _)
                 | (extract_lets +onlyGivenNames t; revert t; intro _)
                 | with_reducible apply State.abandonFlush_keeps | with_reducible apply State.abortSave_keeps | with_reducible apply State.cutFuses_keeps
                 | with_reducible apply State.hardRelease_keeps | with_reducible apply each_keeps
                 | with_reducible exact mk_keeps (by assumption) rfl rfl rfl rfl rfl rfl rfl rfl rfl rfl rfl rfl | with_reducible apply ite_keeps | split)

theorem State.enterHalt_keeps {b : Kept} {s0 s : State} (cause : Nat) (h : Keeps b s0 s) : Keeps b s0 (State.enterHalt s cause) := by
  unfold State.enterHalt
  extract_lets t1 t2 t3 t4 rec
  have h1 : Keeps b s0 t1 := State.refuseCuts_keeps (State.endSpan_keeps (State.abortSave_keeps (State.abortFull_keeps (State.abortRun_keeps h))))
  have h2 : Keeps b s0 t2 := State.discardCaptures_keeps (State.endAllSubs_keeps (State.abortQueues_keeps (State.biasHalt_keeps h1)))
  have h3 : Keeps b s0 t3 := each_keeps _ _ h2 fun _ _ x => State.setMa_keeps _ _ x
  have h4 : Keeps b s0 t4 := each_keeps _ _ h3 fun _ _ x => State.parkAxis_keeps _ _ x
  exact ite_keeps (State.hardEffects_keeps h3) (State.flushTrigger_keeps _ (State.setRec_keeps _ h4 rfl))

theorem State.enter_keeps {b : Kept} {s0 s : State} (dst : DevState) (cause : Nat) (byCmd : Bool) (h : Keeps b s0 s) (hn : b.halt = true → s.dev ≠ .faultHalt) : Keeps b s0 (State.enter s dst cause byCmd) := by
  unfold State.enter
  extract_lets from_ t1 sy t2 t3 t4 t5 t6 t7 t8 t9 t10
  have h1 : Keeps b s0 t1 := State.leave_keeps _ _ h
  clear_value t1
  have h2 : Keeps b s0 t2 := mk_dev_keeps _ h1 rfl fun hb hf => hn hb (h.halt hb hf)
  have h5 : Keeps b s0 t5 := State.post_keeps _ _ (State.inc_keeps _ (State.setR_keeps _ _ (State.setR_keeps _ _ (State.setF_keeps _ _ _ _
    (State.setF_keeps _ _ _ _ (State.setF_keeps _ _ _ _ h2))))))
  have h6 : Keeps b s0 t6 := State.raise_keeps _ _ _ h5
  have h7 : Keeps b s0 t7 := when_keeps _ _ h6 fun u hu => State.cancelCmds_keeps _ _ hu
  have h8 : Keeps b s0 t8 := when_keeps _ _ h7 fun u hu => State.laserOff_keeps hu
  have h9 : Keeps b s0 t9 := by
    cases dst with
                 | standby => exact State.enterStandby_keeps _ h8
                 | armed => exact State.enterArmed_keeps h8
                 | safe => exact State.enterSafe_keeps _ h8
                 | thermalStop => exact State.enterThermalStop_keeps h8
                 | faultHalt => exact State.enterHalt_keeps _ h8
                 | _ => exact h8
  refine State.settleWl_keeps ?_
  show Keeps b s0 (if t9.heatersRun then t9.heatersOn else t9.heatersOff)
  split
  · exact State.heatersOn_keeps h9
  · exact State.heatersOff_keeps h9

theorem State.rejudge_keeps {b : Kept} {s0 s : State} (h : Keeps b s0 s) : Keeps b s0 (State.rejudge s) := by
  unfold State.rejudge
  extract_lets hot
  split
  · rename_i hc
    refine State.enter_keeps _ _ _ h fun _ hd => ?_
    rw [hd] at hc
    exact absurd hc.2.2 (by decide)
  · split
    · rename_i hc
      refine State.enter_keeps _ _ _ h fun _ hd => ?_
      rw [hd] at hc
      exact absurd hc.1 (by decide)
    · exact h

theorem State.transition_keeps {b : Kept} {s0 s : State} (dst : DevState) (cause : Nat) (byCmd : Bool) (h : Keeps b s0 s) : Keeps b s0 (State.transition s dst cause byCmd) := by
  unfold State.transition
  split
  · exact h
  · rename_i hd
    exact State.rejudge_keeps (State.enter_keeps _ _ _ h fun _ hf => hd (Or.inl hf))

theorem State.halt_keeps {b : Kept} {s0 s : State} (cause : Nat) (h : Keeps b s0 s) : Keeps b s0 (State.halt s cause) := by
  unfold State.halt
  repeat' (first | with_reducible assumption | with_reducible apply State.transition_keeps)

theorem State.setClaim_keeps {b : Kept} {s0 s : State} (x v : Nat) (h : Keeps b s0 s) : Keeps b s0 (State.setClaim s x v) := by
  unfold State.setClaim
  repeat' (first | with_reducible assumption | with_reducible apply State.setF_keeps)

theorem State.setPlanner_keeps {b : Kept} {s0 s : State} (x st : Nat) (h : Keeps b s0 s) : Keeps b s0 (State.setPlanner s x st) := by
  unfold State.setPlanner
  repeat' (first | with_reducible assumption | (intro _; try beta_reduce)
                 | (extract_lets +onlyGivenNames t; refine Keeps.cut (t := t) ?_ ?_; subst t; rotate_left; clear_value t; revert t; intro _ _)
                 | (extract_lets +onlyGivenNames t; revert t; intro _) | with_reducible apply State.flag_keeps | with_reducible apply State.post_keeps
                 | with_reducible apply State.setF_keeps | with_reducible apply State.setHealth_keeps | with_reducible apply State.setRed_keeps | with_reducible apply when_keeps
                 | with_reducible exact mk_keeps (by assumption) rfl rfl rfl rfl rfl rfl rfl rfl rfl rfl rfl rfl)

theorem State.bothFailed_keeps {b : Kept} {s0 s : State} (h : Keeps b s0 s) : Keeps b s0 (State.bothFailed s) := by
  unfold State.bothFailed
  repeat' (first | with_reducible assumption | (intro _; try beta_reduce)
                 | (extract_lets +onlyGivenNames t; refine Keeps.cut (t := t) ?_ ?_; subst t; rotate_left; clear_value t; revert t; intro _ _)
                 | (extract_lets +onlyGivenNames t; revert t; intro _)
                 | with_reducible apply State.halt_keeps | with_reducible apply State.setClaim_keeps | with_reducible apply State.setPlanner_keeps
                 | with_reducible apply State.setRed_keeps | with_reducible apply each_keeps
                 | with_reducible exact mk_keeps (by assumption) rfl rfl rfl rfl rfl rfl rfl rfl rfl rfl rfl rfl | with_reducible apply ite_keeps | split)

theorem State.keepLosses_keeps {b : Kept} {s0 s : State} (m : Nat) (h : Keeps b s0 s) : Keeps b s0 (State.keepLosses s m) := by
  unfold State.keepLosses
  repeat' (first | with_reducible assumption | with_reducible exact mk_keeps (by assumption) rfl rfl rfl rfl rfl rfl rfl rfl rfl rfl rfl rfl)

theorem State.showLosses_keeps {b : Kept} {s0 s : State} (h : Keeps b s0 s) : Keeps b s0 (State.showLosses s) := by
  unfold State.showLosses
  repeat' (first | with_reducible assumption | (intro _; try beta_reduce)
                 | (extract_lets +onlyGivenNames t; refine Keeps.cut (t := t) ?_ ?_; subst t; rotate_left; clear_value t; revert t; intro _ _)
                 | (extract_lets +onlyGivenNames t; revert t; intro _) | with_reducible apply State.faultTrigger_keeps | with_reducible apply State.keepLosses_keeps
                 | with_reducible apply State.setBit_keeps | with_reducible apply when_keeps)

theorem State.settle_keeps {b : Kept} {s0 s : State} (h : Keeps b s0 s) : Keeps b s0 (State.settle s) := by
  unfold State.settle
  repeat' (first | with_reducible assumption | with_reducible apply State.rejudge_keeps | with_reducible apply State.showLosses_keeps)

theorem State.failPlanner_keeps {b : Kept} {s0 s : State} (cause : Nat) (h : Keeps b s0 s) : Keeps b s0 (State.failPlanner s cause) := by
  unfold State.failPlanner
  repeat' (first | with_reducible assumption | (intro _; try beta_reduce)
                 | (extract_lets +onlyGivenNames t; refine Keeps.cut (t := t) ?_ ?_; subst t; rotate_left; clear_value t; revert t; intro _ _)
                 | (extract_lets +onlyGivenNames t; revert t; intro _)
                 | with_reducible apply State.beginGap_keeps | with_reducible apply State.bothFailed_keeps | with_reducible apply State.flag_keeps
                 | with_reducible apply State.flushTrigger_keeps | with_reducible apply State.inc_keeps | with_reducible apply State.post_keeps
                 | with_reducible apply State.setClaim_keeps | with_reducible apply State.setF_keeps | with_reducible apply State.setPlanner_keeps
                 | with_reducible apply State.setRed_keeps | with_reducible apply State.settle_keeps
                 | with_reducible exact mk_keeps (by assumption) rfl rfl rfl rfl rfl rfl rfl rfl rfl rfl rfl rfl | with_reducible apply ite_keeps | split)

theorem State.redCommand_keeps {b : Kept} {s0 s : State} (v : Word) (h : Keeps b s0 s) : Keeps b s0 (State.redCommand s v) := by
  unfold State.redCommand
  repeat' (first | with_reducible assumption | (intro _; try beta_reduce)
                 | (extract_lets +onlyGivenNames t; refine Keeps.cut (t := t) ?_ ?_; subst t; rotate_left; clear_value t; revert t; intro _ _)
                 | (extract_lets +onlyGivenNames t; revert t; intro _) | with_reducible apply State.failPlanner_keeps | with_reducible apply State.setPair_keeps
                 | with_reducible apply each_keeps | with_reducible exact mk_keeps (by assumption) rfl rfl rfl rfl rfl rfl rfl rfl rfl rfl rfl rfl
                 | with_reducible apply ite_keeps | split)

theorem State.slotCommit_keeps {b : Kept} {s0 s : State} (h : Keeps b s0 s) : Keeps b s0 (State.slotCommit s) := by
  unfold State.slotCommit
  repeat' (first | with_reducible assumption
                 | (extract_lets +onlyGivenNames t; refine Keeps.cut (t := t) ?_ ?_; subst t; rotate_left; clear_value t; revert t; intro _ _)
                 | (extract_lets +onlyGivenNames t; revert t; intro _) | with_reducible apply State.setBit_keeps | with_reducible apply State.swapSlots_keeps
                 | with_reducible exact mk_keeps (by assumption) rfl rfl rfl rfl rfl rfl rfl rfl rfl rfl rfl rfl | with_reducible apply ite_keeps | split)

theorem State.applyNext_keeps {b : Kept} {s0 s : State} (e : Nat × Nat × Nat) (h : Keeps b s0 s) : Keeps b s0 (State.applyNext s e) := by
  unfold State.applyNext
  repeat' (first | with_reducible assumption
                 | (extract_lets +onlyGivenNames t; refine Keeps.cut (t := t) ?_ ?_; subst t; rotate_left; clear_value t; revert t; intro _ _)
                 | (extract_lets +onlyGivenNames t; revert t; intro _) | with_reducible apply State.setR_keeps
                 | with_reducible exact mk_keeps (by assumption) rfl rfl rfl rfl rfl rfl rfl rfl rfl rfl rfl rfl | with_reducible apply ite_keeps | split)

theorem State.applySlotNext_keeps {b : Kept} {s0 s : State} (h : Keeps b s0 s) : Keeps b s0 (State.applySlotNext s) := by
  unfold State.applySlotNext
  repeat' (first | with_reducible assumption | (intro _; try beta_reduce) | with_reducible apply State.applyNext_keeps | with_reducible apply each_keeps)

theorem State.slotNextWrite_keeps {b : Kept} {s0 s : State} (k v : Nat) (h : Keeps b s0 s) : Keeps b s0 (State.slotNextWrite s k v) := by
  unfold State.slotNextWrite
  repeat' (first | with_reducible assumption
                 | (extract_lets +onlyGivenNames t; refine Keeps.cut (t := t) ?_ ?_; subst t; rotate_left; clear_value t; revert t; intro _ _)
                 | (extract_lets +onlyGivenNames t; revert t; intro _) | with_reducible apply State.applySlotNext_keeps | with_reducible apply State.setR_keeps
                 | with_reducible exact mk_keeps (by assumption) rfl rfl rfl rfl rfl rfl rfl rfl rfl rfl rfl rfl)

theorem State.startStat_keeps {b : Kept} {s0 s : State} (c : Nat) (h : Keeps b s0 s) : Keeps b s0 (State.startStat s c) := by
  unfold State.startStat
  repeat' (first | with_reducible assumption
                 | (extract_lets +onlyGivenNames t; refine Keeps.cut (t := t) ?_ ?_; subst t; rotate_left; clear_value t; revert t; intro _ _)
                 | (extract_lets +onlyGivenNames t; revert t; intro _) | with_reducible apply State.gate_keeps | with_reducible apply State.setF_keeps
                 | with_reducible apply State.setR_keeps | with_reducible apply State.setStat_keeps)

theorem State.syncStreams_keeps {b : Kept} {s0 s : State} (h : Keeps b s0 s) : Keeps b s0 (State.syncStreams s) := by
  unfold State.syncStreams
  repeat' (first | with_reducible assumption | (intro _; try beta_reduce) | with_reducible apply State.setStream_keeps | with_reducible apply each_keeps)

theorem State.zonesMapped_keeps {b : Kept} {s0 s : State} (h : Keeps b s0 s) : Keeps b s0 (State.zonesMapped s) := by
  unfold State.zonesMapped
  repeat' (first | with_reducible assumption | (intro _; try beta_reduce)
                 | (extract_lets +onlyGivenNames t; refine Keeps.cut (t := t) ?_ ?_; subst t; rotate_left; clear_value t; revert t; intro _ _)
                 | (extract_lets +onlyGivenNames t; revert t; intro _)
                 | with_reducible apply State.refreshCombs_keeps | with_reducible apply State.zoneFault_keeps | with_reducible apply each_keeps
                 | with_reducible exact mk_keeps (by assumption) rfl rfl rfl rfl rfl rfl rfl rfl rfl rfl rfl rfl | with_reducible apply ite_keeps | split)

theorem State.dozeOff_keeps {b : Kept} {s0 s : State} (l : Nat) (h : Keeps b s0 s) : Keeps b s0 (State.dozeOff s l) := by
  unfold State.dozeOff
  repeat' (first | with_reducible assumption | (intro _; try beta_reduce)
                 | (extract_lets +onlyGivenNames t; refine Keeps.cut (t := t) ?_ ?_; subst t; rotate_left; clear_value t; revert t; intro _ _)
                 | (extract_lets +onlyGivenNames t; revert t; intro _)
                 | with_reducible apply State.setLane_keeps
                 | with_reducible exact mk_keeps (by assumption) rfl rfl rfl rfl rfl rfl rfl rfl rfl rfl rfl rfl | with_reducible apply ite_keeps | split)

theorem State.written_keeps {b : Kept} {s0 s : State} (h' : RegHit) (old v : Word) (p tag : Nat) (h : Keeps b s0 s) : Keeps b s0 (State.written s h' old v p tag) := by
  unfold State.written
  repeat' (first | with_reducible assumption | (intro _; try beta_reduce)
                 | (extract_lets +onlyGivenNames t; refine Keeps.cut (t := t) ?_ ?_; subst t; rotate_left; clear_value t; revert t; intro _ _)
                 | (extract_lets +onlyGivenNames t; revert t; intro _)
                 | with_reducible apply State.calDirty_keeps | with_reducible apply State.chanWritten_keeps
                 | with_reducible apply State.chooseSource_keeps | with_reducible apply State.clearFe_keeps | with_reducible apply State.commitPat_keeps
                 | with_reducible apply State.commitPoly_keeps | with_reducible apply State.disableWritten_keeps
                 | with_reducible apply State.dozeOff_keeps | with_reducible apply State.lanePwrWritten_keeps
                 | with_reducible apply State.linkWritten_keeps | with_reducible apply State.periodWritten_keeps
                 | with_reducible apply State.redCommand_keeps | with_reducible apply State.resetExpect_keeps
                 | with_reducible apply State.restartMa_keeps | with_reducible apply State.restartRtd_keeps
                 | with_reducible apply State.rtdCfgWritten_keeps | with_reducible apply State.seedDither_keeps | with_reducible apply State.setBit_keeps
                 | with_reducible apply State.slotCommit_keeps | with_reducible apply State.slotNextWrite_keeps
                 | with_reducible apply State.startSelftest_keeps | with_reducible apply State.startStat_keeps
                 | with_reducible apply State.syncStreams_keeps | with_reducible apply State.syncSwarm_keeps
                 | with_reducible apply State.zonesMapped_keeps | with_reducible apply each_keeps | with_reducible apply when_keeps
                 | with_reducible exact mk_keeps (by assumption) rfl rfl rfl rfl rfl rfl rfl rfl rfl rfl rfl rfl | with_reducible apply ite_keeps | split)

theorem State.flushReport_keeps {b : Kept} {s0 s : State} (f : RecFlush) (cut : Bool) (written : Nat) (h : Keeps b s0 s) : Keeps b s0 (State.flushReport s f cut written) := by
  unfold State.flushReport
  repeat' (first | with_reducible assumption
                 | (extract_lets +onlyGivenNames t; refine Keeps.cut (t := t) ?_ ?_; subst t; rotate_left; clear_value t; revert t; intro _ _)
                 | (extract_lets +onlyGivenNames t; revert t; intro _) | with_reducible apply State.finish_keeps | with_reducible apply State.raise_keeps
                 | with_reducible apply State.setF_keeps | (with_reducible refine State.setRec_keeps _ ?_ rfl) | with_reducible apply State.trigger_keeps
                 | with_reducible apply State.written_keeps | with_reducible exact mk_keeps (by assumption) rfl rfl rfl rfl rfl rfl rfl rfl rfl rfl rfl rfl
                 | with_reducible apply ite_keeps | split)

theorem State.flushDone_keeps {b : Kept} {s0 s : State} (f : RecFlush) (h : Keeps b s0 s) : Keeps b s0 (State.flushDone s f) := by
  unfold State.flushDone
  repeat' (first | with_reducible assumption
                 | (extract_lets +onlyGivenNames t; refine Keeps.cut (t := t) ?_ ?_; subst t; rotate_left; clear_value t; revert t; intro _ _)
                 | (extract_lets +onlyGivenNames t; revert t; intro _) | with_reducible apply State.flag_keeps | with_reducible apply State.flushPump_keeps
                 | with_reducible apply State.flushReport_keeps | with_reducible apply State.inc_keeps | (with_reducible refine State.setRec_keeps _ ?_ rfl)
                 | with_reducible apply State.setRecSlot_keeps | with_reducible apply State.startErase_keeps | with_reducible apply State.trigger_keeps
                 | with_reducible exact mk_keeps (by assumption) rfl rfl rfl rfl rfl rfl rfl rfl rfl rfl rfl rfl | with_reducible apply ite_keeps | split)

theorem State.flushCut_keeps {b : Kept} {s0 s : State} (f : RecFlush) (pages : Nat) (h : Keeps b s0 s) : Keeps b s0 (State.flushCut s f pages) := by
  unfold State.flushCut
  repeat' (first | with_reducible assumption | (intro _; try beta_reduce)
                 | (extract_lets +onlyGivenNames t; refine Keeps.cut (t := t) ?_ ?_; subst t; rotate_left; clear_value t; revert t; intro _ _)
                 | (extract_lets +onlyGivenNames t; revert t; intro _)
                 | with_reducible apply State.flag_keeps | with_reducible apply State.flushPump_keeps | with_reducible apply State.flushReport_keeps
                 | with_reducible apply State.setRec_keeps | with_reducible apply State.setRecSlot_keeps | with_reducible apply State.startErase_keeps
                 | with_reducible apply when_keeps
                 | with_reducible exact mk_keeps (by assumption) rfl rfl rfl rfl rfl rfl rfl rfl rfl rfl rfl rfl | with_reducible apply ite_keeps | split | rfl)

theorem State.checkBroken_keeps {b : Kept} {s0 s : State} (i : Nat) (h : Keeps b s0 s) : Keeps b s0 (State.checkBroken s i) := by
  unfold State.checkBroken
  repeat' (first | with_reducible assumption | with_reducible apply State.flag_keeps | with_reducible apply State.post_keeps
                 | with_reducible apply State.setBit_keeps | with_reducible apply ite_keeps | split)

theorem State.reportTpol_keeps {b : Kept} {s0 s : State} (t' : Int) (src : Nat) (h : Keeps b s0 s) : Keeps b s0 (State.reportTpol s t' src) := by
  unfold State.reportTpol
  repeat' (first | with_reducible assumption | (intro _; try beta_reduce)
                 | (extract_lets +onlyGivenNames t; refine Keeps.cut (t := t) ?_ ?_; subst t; rotate_left; clear_value t; revert t; intro _ _)
                 | (extract_lets +onlyGivenNames t; revert t; intro _)
                 | with_reducible apply State.setCal_keeps | with_reducible apply State.setF_keeps
                 | with_reducible exact mk_keeps (by assumption) rfl rfl rfl rfl rfl rfl rfl rfl rfl rfl rfl rfl | with_reducible apply ite_keeps | split)

theorem State.throttle_keeps {b : Kept} {s0 s : State} (t' : Int) (src : Nat) (h : Keeps b s0 s) : Keeps b s0 (State.throttle s t' src) := by
  unfold State.throttle
  repeat' (first | with_reducible assumption | (intro _; try beta_reduce)
                 | (extract_lets +onlyGivenNames t; refine Keeps.cut (t := t) ?_ ?_; subst t; rotate_left; clear_value t; revert t; intro _ _)
                 | (extract_lets +onlyGivenNames t; revert t; intro _)
                 | with_reducible apply State.flag_keeps | with_reducible apply State.post_keeps | with_reducible apply State.raise_keeps
                 | with_reducible apply State.setBit_keeps | with_reducible apply State.setF_keeps
                 | with_reducible exact mk_keeps (by assumption) rfl rfl rfl rfl rfl rfl rfl rfl rfl rfl rfl rfl | with_reducible apply ite_keeps | split)

end Sys2Proof.Machine
end

