-- ==== Sys2Proof/Laws/KeepsF.lean ====
section
/-!
SUPPORT. Laws/KeepsF.lean: what each operation keeps (`Keeps`), for PairOps, Commands, PortCmds, ArbCmds, BootDir, ThermRows, TableCmds, Links.
-/

namespace Sys2Proof.Machine

open Sys2Proof

theorem State.compensate_keeps {b : Kept} {s0 s : State} (r : Nat) (h : Keeps b s0 s) : Keeps b s0 (State.compensate s r) := by
  unfold State.compensate
  repeat' (first | with_reducible assumption | (intro _; try beta_reduce)
                 | (extract_lets +onlyGivenNames t; refine Keeps.cut (t := t) ?_ ?_; subst t; rotate_left; clear_value t; revert t; intro _ _)
                 | (extract_lets +onlyGivenNames t; revert t; intro _) | with_reducible apply each_keeps
                 | with_reducible exact mk_keeps (by assumption) rfl rfl rfl rfl rfl rfl rfl rfl rfl rfl rfl rfl | with_reducible apply ite_keeps | split)

theorem State.trimScan_keeps {b : Kept} {s0 s : State} (h : Keeps b s0 s) : Keeps b s0 (State.trimScan s) := by
  unfold State.trimScan
  repeat' (first | with_reducible assumption | (intro _; try beta_reduce)
                 | (extract_lets +onlyGivenNames t; refine Keeps.cut (t := t) ?_ ?_; subst t; rotate_left; clear_value t; revert t; intro _ _)
                 | (extract_lets +onlyGivenNames t; revert t; intro _)
                 | with_reducible apply State.setCal_keeps | with_reducible apply each_keeps
                 | with_reducible exact mk_keeps (by assumption) rfl rfl rfl rfl rfl rfl rfl rfl rfl rfl rfl rfl | with_reducible apply ite_keeps | split)

theorem State.setCalEntry_keeps {b : Kept} {s0 s : State} (i : Nat) (e : List Byte) (h : Keeps b s0 s) : Keeps b s0 (State.setCalEntry s i e) := by
  unfold State.setCalEntry
  repeat' (first | with_reducible assumption | (intro _; try beta_reduce)
                 | (extract_lets +onlyGivenNames t; refine Keeps.cut (t := t) ?_ ?_; subst t; rotate_left; clear_value t; revert t; intro _ _)
                 | (extract_lets +onlyGivenNames t; revert t; intro _) | with_reducible apply State.compensate_keeps | with_reducible apply State.hold_keeps
                 | with_reducible apply State.setCal_keeps | with_reducible apply State.setF_keeps | with_reducible apply State.setR_keeps | with_reducible apply each_keeps
                 | with_reducible apply foldl_keeps | with_reducible exact mk_keeps (by assumption) rfl rfl rfl rfl rfl rfl rfl rfl rfl rfl rfl rfl
                 | with_reducible apply ite_keeps | split)

theorem State.markCal_keeps {b : Kept} {s0 s : State} (c : Nat) (temp : Int) (passed failed : Bool) (h : Keeps b s0 s) : Keeps b s0 (State.markCal s c temp passed failed) := by
  unfold State.markCal
  repeat' (first | with_reducible assumption | (intro _; try beta_reduce)
                 | (extract_lets +onlyGivenNames t; refine Keeps.cut (t := t) ?_ ?_; subst t; rotate_left; clear_value t; revert t; intro _ _)
                 | (extract_lets +onlyGivenNames t; revert t; intro _)
                 | with_reducible apply State.setBit_keeps | with_reducible apply State.setF_keeps
                 | with_reducible exact mk_keeps (by assumption) rfl rfl rfl rfl rfl rfl rfl rfl rfl rfl rfl rfl | with_reducible apply ite_keeps | split)

theorem State.applyRun_keeps {b : Kept} {s0 s : State} (c : Nat) (temp : Int) (k : CombCal) (full : Bool) (h : Keeps b s0 s) : Keeps b s0 (State.applyRun s c temp k full) := by
  unfold State.applyRun
  repeat' (first | with_reducible assumption | (intro _; try beta_reduce)
                 | (extract_lets +onlyGivenNames t; refine Keeps.cut (t := t) ?_ ?_; subst t; rotate_left; clear_value t; revert t; intro _ _)
                 | (extract_lets +onlyGivenNames t; revert t; intro _)
                 | with_reducible apply State.markCal_keeps | with_reducible apply State.setCal_keeps | with_reducible apply State.setF_keeps
                 | with_reducible apply State.setR_keeps | with_reducible apply each_keeps | with_reducible apply when_keeps
                 | with_reducible exact mk_keeps (by assumption) rfl rfl rfl rfl rfl rfl rfl rfl rfl rfl rfl rfl | with_reducible apply ite_keeps | split)

theorem State.judgeTiming_keeps {b : Kept} {s0 s : State} (c : Nat) (k : CombCal) (h : Keeps b s0 s) : Keeps b s0 (State.judgeTiming s c k) := by
  unfold State.judgeTiming
  repeat' (first | with_reducible assumption | (intro _; try beta_reduce)
                 | (extract_lets +onlyGivenNames t; refine Keeps.cut (t := t) ?_ ?_; subst t; rotate_left; clear_value t; revert t; intro _ _)
                 | (extract_lets +onlyGivenNames t; revert t; intro _) | with_reducible apply State.flag_keeps | with_reducible apply State.setCal_keeps
                 | with_reducible apply State.setF_keeps | with_reducible apply State.syncTiming_keeps
                 | with_reducible exact mk_keeps (by assumption) rfl rfl rfl rfl rfl rfl rfl rfl rfl rfl rfl rfl | with_reducible apply ite_keeps | split)

theorem State.calRange_keeps {b : Kept} {s0 s : State} (n r : Nat) (h : Keeps b s0 s) : Keeps b s0 (State.calRange s n r) := by
  unfold State.calRange
  repeat' (first | with_reducible assumption | (intro _; try beta_reduce) | with_reducible apply State.modChan_keeps | with_reducible apply State.setRange_keeps
                 | with_reducible exact mk_keeps (by assumption) rfl rfl rfl rfl rfl rfl rfl rfl rfl rfl rfl rfl)

theorem State.startSave_keeps {b : Kept} {s0 s : State} (blankTpl : List Byte) (h : Keeps b s0 s) : Keeps b s0 (State.startSave s blankTpl) := by
  unfold State.startSave
  repeat' (first | with_reducible assumption | (intro _; try beta_reduce)
                 | (extract_lets +onlyGivenNames t; refine Keeps.cut (t := t) ?_ ?_; subst t; rotate_left; clear_value t; revert t; intro _ _)
                 | (extract_lets +onlyGivenNames t; revert t; intro _) | with_reducible apply State.setBit_keeps | with_reducible apply State.setCal_keeps
                 | with_reducible exact mk_keeps (by assumption) rfl rfl rfl rfl rfl rfl rfl rfl rfl rfl rfl rfl)

theorem State.admitStream_keeps {b : Kept} {s0 s : State} (fr i : Nat) (h : Keeps b s0 s) : Keeps b s0 (State.admitStream s fr i) := by
  unfold State.admitStream
  repeat' (first | with_reducible assumption
                 | (extract_lets +onlyGivenNames t; refine Keeps.cut (t := t) ?_ ?_; subst t; rotate_left; clear_value t; revert t; intro _ _)
                 | (extract_lets +onlyGivenNames t; revert t; intro _) | with_reducible apply State.addF_keeps | with_reducible apply State.inc_keeps
                 | with_reducible apply State.setF_keeps | with_reducible apply State.setStream_keeps
                 | with_reducible exact mk_keeps (by assumption) rfl rfl rfl rfl rfl rfl rfl rfl rfl rfl rfl rfl | with_reducible apply ite_keeps | split)

theorem State.judge_keeps {b : Kept} {s0 s : State} (fr i : Nat) (h : Keeps b s0 s) : Keeps b s0 (State.judge s fr i) := by
  unfold State.judge
  repeat' (first | with_reducible assumption | (intro _; try beta_reduce)
                 | (extract_lets +onlyGivenNames t; refine Keeps.cut (t := t) ?_ ?_; subst t; rotate_left; clear_value t; revert t; intro _ _)
                 | (extract_lets +onlyGivenNames t; revert t; intro _)
                 | with_reducible apply State.admitStream_keeps | with_reducible apply State.outcome_keeps | with_reducible apply State.takeHolder_keeps
                 | with_reducible apply each_keeps
                 | with_reducible exact mk_keeps (by assumption) rfl rfl rfl rfl rfl rfl rfl rfl rfl rfl rfl rfl | with_reducible apply ite_keeps | split)

theorem State.recheckSlot_keeps {b : Kept} {s0 s : State} (fr k claimant : Nat) (n : Nat) (h : Keeps b s0 s) : Keeps b s0 (State.recheckSlot s fr k claimant n) := by
  induction n generalizing s with
  | zero => exact h
  | succ n ih =>
    unfold State.recheckSlot
    repeat' (first | with_reducible assumption | with_reducible apply ih | (intro _; try beta_reduce)
                   | (extract_lets +onlyGivenNames t; refine Keeps.cut (t := t) ?_ ?_; subst t; rotate_left; clear_value t; revert t; intro _ _)
                   | (extract_lets +onlyGivenNames t; revert t; intro _)
                   | with_reducible apply State.takeHolder_keeps
                   | with_reducible exact mk_keeps (by assumption) rfl rfl rfl rfl rfl rfl rfl rfl rfl rfl rfl rfl | with_reducible apply ite_keeps | split)

theorem State.refuseRole_keeps {b : Kept} {s0 s : State} (i : Nat) (h : Keeps b s0 s) : Keeps b s0 (State.refuseRole s i) := by
  unfold State.refuseRole
  repeat' (first | with_reducible assumption | (intro _; try beta_reduce)
                 | (extract_lets +onlyGivenNames t; refine Keeps.cut (t := t) ?_ ?_; subst t; rotate_left; clear_value t; revert t; intro _ _)
                 | (extract_lets +onlyGivenNames t; revert t; intro _)
                 | with_reducible apply State.sendOutcome_keeps | with_reducible apply State.setStream_keeps | with_reducible apply each_keeps
                 | with_reducible exact mk_keeps (by assumption) rfl rfl rfl rfl rfl rfl rfl rfl rfl rfl rfl rfl | with_reducible apply ite_keeps | split)

theorem State.arbitrate_keeps {b : Kept} {s0 s : State} (i : Nat) (h : Keeps b s0 s) : Keeps b s0 (State.arbitrate s i) := by
  unfold State.arbitrate
  repeat' (first | with_reducible assumption | (intro _; try beta_reduce)
                 | (extract_lets +onlyGivenNames t; refine Keeps.cut (t := t) ?_ ?_; subst t; rotate_left; clear_value t; revert t; intro _ _)
                 | (extract_lets +onlyGivenNames t; revert t; intro _)
                 | with_reducible apply State.applySlotNext_keeps | with_reducible apply State.judge_keeps | with_reducible apply State.recheckSlot_keeps
                 | with_reducible apply State.refuseRole_keeps | with_reducible apply State.setStream_keeps | with_reducible apply State.takeEffect_keeps
                 | with_reducible apply each_keeps
                 | with_reducible exact mk_keeps (by assumption) rfl rfl rfl rfl rfl rfl rfl rfl rfl rfl rfl rfl | with_reducible apply ite_keeps | split)

theorem State.passPlanned_keeps {b : Kept} {s0 s : State} (c : ColPlan) (h : Keeps b s0 s) : Keeps b s0 (State.passPlanned s c) := by
  unfold State.passPlanned
  repeat' (first | with_reducible assumption | (intro _; try beta_reduce)
                 | (extract_lets +onlyGivenNames t; refine Keeps.cut (t := t) ?_ ?_; subst t; rotate_left; clear_value t; revert t; intro _ _)
                 | (extract_lets +onlyGivenNames t; revert t; intro _)
                 | with_reducible apply State.setStream_keeps | with_reducible apply each_keeps
                 | with_reducible exact mk_keeps (by assumption) rfl rfl rfl rfl rfl rfl rfl rfl rfl rfl rfl rfl | with_reducible apply ite_keeps | split)

theorem State.passDropped_keeps {b : Kept} {s0 s : State} (c : ColPlan) (h : Keeps b s0 s) : Keeps b s0 (State.passDropped s c) := by
  unfold State.passDropped
  repeat' (first | with_reducible assumption | (intro _; try beta_reduce)
                 | (extract_lets +onlyGivenNames t; refine Keeps.cut (t := t) ?_ ?_; subst t; rotate_left; clear_value t; revert t; intro _ _)
                 | (extract_lets +onlyGivenNames t; revert t; intro _)
                 | with_reducible apply State.setStream_keeps | with_reducible apply each_keeps
                 | with_reducible exact mk_keeps (by assumption) rfl rfl rfl rfl rfl rfl rfl rfl rfl rfl rfl rfl | with_reducible apply ite_keeps | split)

theorem State.planStep_keeps {b : Kept} {s0 s : State} (h : Keeps b s0 s) : Keeps b s0 (State.planStep s) := by
  unfold State.planStep
  repeat' (first | with_reducible assumption
                 | (extract_lets +onlyGivenNames t; refine Keeps.cut (t := t) ?_ ?_; subst t; rotate_left; clear_value t; revert t; intro _ _)
                 | (extract_lets +onlyGivenNames t; revert t; intro _) | with_reducible apply State.applySlotNext_keeps | with_reducible apply State.passPlanned_keeps
                 | with_reducible apply State.planColumn_keeps | with_reducible apply ite_keeps | split)

theorem State.addShots_keeps {b : Kept} {s0 s : State} (key fr : Nat) (p : SegPol) (i : Nat × Nat) (h : Keeps b s0 s) : Keeps b s0 (State.addShots s key fr p i) := by
  unfold State.addShots
  repeat' (first | with_reducible assumption | (intro _; try beta_reduce)
                 | (extract_lets +onlyGivenNames t; refine Keeps.cut (t := t) ?_ ?_; subst t; rotate_left; clear_value t; revert t; intro _ _)
                 | (extract_lets +onlyGivenNames t; revert t; intro _)
                 | with_reducible apply State.setStream_keeps
                 | with_reducible exact mk_keeps (by assumption) rfl rfl rfl rfl rfl rfl rfl rfl rfl rfl rfl rfl | with_reducible apply ite_keeps | split)

theorem State.closePass_keeps {b : Kept} {s0 s : State} (c : ColPlan) (i : Nat) (h : Keeps b s0 s) : Keeps b s0 (State.closePass s c i) := by
  unfold State.closePass
  repeat' (first | with_reducible assumption
                 | (extract_lets +onlyGivenNames t; refine Keeps.cut (t := t) ?_ ?_; subst t; rotate_left; clear_value t; revert t; intro _ _)
                 | (extract_lets +onlyGivenNames t; revert t; intro _) | with_reducible apply State.outcome_keeps | with_reducible apply State.setStream_keeps
                 | with_reducible exact mk_keeps (by assumption) rfl rfl rfl rfl rfl rfl rfl rfl rfl rfl rfl rfl | with_reducible apply ite_keeps | split)

theorem State.passClosed_keeps {b : Kept} {s0 s : State} (key : Nat) (c : ColPlan) (h : Keeps b s0 s) : Keeps b s0 (State.passClosed s key c) := by
  unfold State.passClosed
  repeat' (first | with_reducible assumption | (intro _; try beta_reduce)
                 | (extract_lets +onlyGivenNames t; refine Keeps.cut (t := t) ?_ ?_; subst t; rotate_left; clear_value t; revert t; intro _ _)
                 | (extract_lets +onlyGivenNames t; revert t; intro _) | with_reducible apply State.addShots_keeps | with_reducible apply State.closePass_keeps
                 | with_reducible apply each_keeps)

theorem State.fairness_keeps {b : Kept} {s0 s : State} (h : Keeps b s0 s) : Keeps b s0 (State.fairness s) := by
  unfold State.fairness
  repeat' (first | with_reducible assumption | (intro _; try beta_reduce)
                 | (extract_lets +onlyGivenNames t; refine Keeps.cut (t := t) ?_ ?_; subst t; rotate_left; clear_value t; revert t; intro _ _)
                 | (extract_lets +onlyGivenNames t; revert t; intro _) | with_reducible apply State.setStream_keeps
                 | with_reducible exact mk_keeps (by assumption) rfl rfl rfl rfl rfl rfl rfl rfl rfl rfl rfl rfl | with_reducible apply ite_keeps | split)

theorem State.arbBoundary_keeps {b : Kept} {s0 s : State} (h : Keeps b s0 s) : Keeps b s0 (State.arbBoundary s) := by
  unfold State.arbBoundary
  repeat' (first | with_reducible assumption | (intro _; try beta_reduce)
                 | (extract_lets +onlyGivenNames t; refine Keeps.cut (t := t) ?_ ?_; subst t; rotate_left; clear_value t; revert t; intro _ _)
                 | (extract_lets +onlyGivenNames t; revert t; intro _)
                 | with_reducible apply State.applySlotNext_keeps | with_reducible apply State.fairness_keeps
                 | with_reducible apply State.setStream_keeps | with_reducible apply State.syncStreams_keeps | with_reducible apply each_keeps
                 | with_reducible exact mk_keeps (by assumption) rfl rfl rfl rfl rfl rfl rfl rfl rfl rfl rfl rfl | with_reducible apply ite_keeps | split)

theorem State.arbFrameCut_keeps {b : Kept} {s0 s : State} (h : Keeps b s0 s) : Keeps b s0 (State.arbFrameCut s) := by
  unfold State.arbFrameCut
  repeat' (first | with_reducible assumption | (intro _; try beta_reduce)
                 | (extract_lets +onlyGivenNames t; refine Keeps.cut (t := t) ?_ ?_; subst t; rotate_left; clear_value t; revert t; intro _ _)
                 | (extract_lets +onlyGivenNames t; revert t; intro _)
                 | with_reducible apply State.dropHolder_keeps | with_reducible apply State.dropPasses_keeps | with_reducible apply each_keeps
                 | with_reducible exact mk_keeps (by assumption) rfl rfl rfl rfl rfl rfl rfl rfl rfl rfl rfl rfl | with_reducible apply ite_keeps | split)

theorem State.cancelStream_keeps {b : Kept} {s0 s : State} (i : Nat) (h : Keeps b s0 s) : Keeps b s0 (State.cancelStream s i) := by
  unfold State.cancelStream
  repeat' (first | with_reducible assumption
                 | (extract_lets +onlyGivenNames t; refine Keeps.cut (t := t) ?_ ?_; subst t; rotate_left; clear_value t; revert t; intro _ _)
                 | (extract_lets +onlyGivenNames t; revert t; intro _) | with_reducible apply State.setStream_keeps | with_reducible apply ite_keeps | split)

theorem State.toSafe_keeps {b : Kept} {s0 s : State} (cause : Nat) (h : Keeps b s0 s) : Keeps b s0 (State.toSafe s cause) := by
  unfold State.toSafe
  repeat' (first | with_reducible assumption | with_reducible apply State.transition_keeps | with_reducible apply ite_keeps | split)

theorem State.resetPlan_keeps {b : Kept} {s0 s : State} (h : Keeps b s0 s) : Keeps b s0 (State.resetPlan s) := by
  unfold State.resetPlan
  repeat' (first | with_reducible assumption | (intro _; try beta_reduce)
                 | (extract_lets +onlyGivenNames t; refine Keeps.cut (t := t) ?_ ?_; subst t; rotate_left; clear_value t; revert t; intro _ _)
                 | (extract_lets +onlyGivenNames t; revert t; intro _)
                 | with_reducible apply State.setCol_keeps | with_reducible apply State.setRed_keeps | with_reducible apply each_keeps
                 | with_reducible exact mk_keeps (by assumption) rfl rfl rfl rfl rfl rfl rfl rfl rfl rfl rfl rfl | with_reducible apply ite_keeps | split)

theorem State.completeCmd_keeps {b : Kept} {s0 s : State} (h : Keeps b s0 s) : Keeps b s0 (State.completeCmd s) := by
  unfold State.completeCmd
  split
  · exact h
  · rename_i c rest he
    exact State.transition_keeps _ _ _ (mk_cmds_keeps _ h (by rw [he]; simp) rfl)

theorem State.startCmd_keeps {b : Kept} {s0 s : State} (opcode : Nat) (h : Keeps b s0 s) : Keeps b s0 (State.startCmd s opcode) := by
  unfold State.startCmd
  repeat' (first | with_reducible assumption | with_reducible apply State.biasArm_keeps | with_reducible apply State.endScan_keeps
                 | with_reducible apply State.parkAxis_keeps | with_reducible apply State.powerMirror_keeps | with_reducible apply State.resetPlan_keeps
                 | with_reducible apply State.startFade_keeps | with_reducible apply State.startSpan_keeps | with_reducible apply ite_keeps | split)

theorem State.runCmds_keeps {b : Kept} {s0 s : State} (n : Nat) (h : Keeps b s0 s) : Keeps b s0 (State.runCmds n s) := by
  induction n generalizing s with
  | zero => exact h
  | succ n ih =>
    unfold State.runCmds
    split
    · exact h
    · rename_i c rest he
      extract_lets sy t
      have ht : Keeps b s0 t := by
        show Keeps b s0 (if _ then _ else _)
        split
        · exact h
        · exact State.startCmd_keeps _ (mk_cmds_keeps _ h (by rw [he]; simp) rfl)
      split
      · exact ih (State.completeCmd_keeps (State.setWag_keeps _ ht))
      · split
        · exact ih (State.completeCmd_keeps ht)
        · exact ht

theorem State.cmdDone_keeps {b : Kept} {s0 s : State} (h : Keeps b s0 s) : Keeps b s0 (State.cmdDone s) := by
  unfold State.cmdDone
  repeat' (first | with_reducible assumption | with_reducible apply State.completeCmd_keeps | with_reducible apply State.runCmds_keeps)

theorem State.cmdFails_keeps {b : Kept} {s0 s : State} (h : Keeps b s0 s) : Keeps b s0 (State.cmdFails s) := by
  unfold State.cmdFails
  repeat' (first | with_reducible assumption | with_reducible apply State.cancelCmds_keeps)

theorem State.boundaryCmd_keeps {b : Kept} {s0 s : State} (startFull : State → State) (h : Keeps b s0 s) (hf : ∀ t, Keeps b s0 t → Keeps b s0 (startFull t)) : Keeps b s0 (State.boundaryCmd s startFull) := by
  unfold State.boundaryCmd
  split
  · exact h
  · rename_i c rest he
    repeat' split
    all_goals first
                   | exact h
                   | exact State.cmdDone_keeps h
                   | exact State.runCmds_keeps _ (hf _ (mk_cmds_keeps _ h (by rw [he]; simp) rfl))

theorem State.switchOver_keeps {b : Kept} {s0 s : State} (k classes src dst cause : Nat) (h : Keeps b s0 s) : Keeps b s0 (State.switchOver s k classes src dst cause) := by
  unfold State.switchOver
  repeat' (first | with_reducible assumption | (intro _; try beta_reduce)
                 | (extract_lets +onlyGivenNames t; refine Keeps.cut (t := t) ?_ ?_; subst t; rotate_left; clear_value t; revert t; intro _ _)
                 | (extract_lets +onlyGivenNames t; revert t; intro _)
                 | with_reducible apply State.flag_keeps | with_reducible apply State.inc_keeps | with_reducible apply State.post_keeps
                 | with_reducible apply State.raise_keeps | with_reducible apply State.setBit_keeps | with_reducible apply State.setF_keeps
                 | with_reducible apply State.snapshot_keeps | with_reducible apply when_keeps
                 | with_reducible exact mk_keeps (by assumption) rfl rfl rfl rfl rfl rfl rfl rfl rfl rfl rfl rfl | with_reducible apply ite_keeps | split)

theorem State.pairFail_keeps {b : Kept} {s0 s : State} (k side cause : Nat) (h : Keeps b s0 s) : Keeps b s0 (State.pairFail s k side cause) := by
  unfold State.pairFail
  repeat' (first | with_reducible assumption | (intro _; try beta_reduce)
                 | (extract_lets +onlyGivenNames t; refine Keeps.cut (t := t) ?_ ?_; subst t; rotate_left; clear_value t; revert t; intro _ _)
                 | (extract_lets +onlyGivenNames t; revert t; intro _)
                 | with_reducible apply State.setBit_keeps | with_reducible apply State.setPair_keeps | with_reducible apply State.switchOver_keeps
                 | with_reducible apply State.syncSingle_keeps
                 | with_reducible exact mk_keeps (by assumption) rfl rfl rfl rfl rfl rfl rfl rfl rfl rfl rfl rfl | with_reducible apply ite_keeps | split)

theorem State.pairLaneUp_keeps {b : Kept} {s0 s : State} (l : Nat) (h : Keeps b s0 s) : Keeps b s0 (State.pairLaneUp s l) := by
  unfold State.pairLaneUp
  repeat' (first | with_reducible assumption | (intro _; try beta_reduce)
                 | (extract_lets +onlyGivenNames t; refine Keeps.cut (t := t) ?_ ?_; subst t; rotate_left; clear_value t; revert t; intro _ _)
                 | (extract_lets +onlyGivenNames t; revert t; intro _)
                 | with_reducible apply State.setPair_keeps
                 | with_reducible exact mk_keeps (by assumption) rfl rfl rfl rfl rfl rfl rfl rfl rfl rfl rfl rfl | with_reducible apply ite_keeps | split)

theorem State.snapshotTo_keeps {b : Kept} {s0 s : State} (p l : Nat) (h : Keeps b s0 s) : Keeps b s0 (State.snapshotTo s p l) := by
  unfold State.snapshotTo
  repeat' (first | with_reducible assumption | (intro _; try beta_reduce)
                 | (extract_lets +onlyGivenNames t; refine Keeps.cut (t := t) ?_ ?_; subst t; rotate_left; clear_value t; revert t; intro _ _)
                 | (extract_lets +onlyGivenNames t; revert t; intro _)
                 | with_reducible apply State.sendPkt_keeps | with_reducible apply State.setSub_keeps | with_reducible apply each_keeps
                 | with_reducible exact mk_keeps (by assumption) rfl rfl rfl rfl rfl rfl rfl rfl rfl rfl rfl rfl | with_reducible apply ite_keeps | split)

theorem State.lapseOwner_keeps {b : Kept} {s0 s : State} (h : Keeps b s0 s) : Keeps b s0 (State.lapseOwner s) := by
  unfold State.lapseOwner
  repeat' (first | with_reducible assumption | with_reducible apply State.changeOwner_keeps | with_reducible apply State.flag_keeps | with_reducible apply ite_keeps
                 | split)

theorem State.laneLost_keeps {b : Kept} {s0 s : State} (l : Nat) (h : Keeps b s0 s) : Keeps b s0 (State.laneLost s l) := by
  unfold State.laneLost
  repeat' (first | with_reducible assumption
                 | (extract_lets +onlyGivenNames t; refine Keeps.cut (t := t) ?_ ?_; subst t; rotate_left; clear_value t; revert t; intro _ _)
                 | (extract_lets +onlyGivenNames t; revert t; intro _) | with_reducible apply State.flag_keeps | with_reducible apply State.lapseOwner_keeps
                 | with_reducible apply State.pairFail_keeps | with_reducible apply State.post_keeps | with_reducible apply State.raise_keeps
                 | with_reducible apply State.setBit_keeps | with_reducible apply State.settle_keeps)

theorem State.laneFound_keeps {b : Kept} {s0 s : State} (l : Nat) (h : Keeps b s0 s) : Keeps b s0 (State.laneFound s l) := by
  unfold State.laneFound
  repeat' (first | with_reducible assumption
                 | (extract_lets +onlyGivenNames t; refine Keeps.cut (t := t) ?_ ?_; subst t; rotate_left; clear_value t; revert t; intro _ _)
                 | (extract_lets +onlyGivenNames t; revert t; intro _) | with_reducible apply State.setBit_keeps | with_reducible apply State.settle_keeps
                 | with_reducible apply ite_keeps | split)

theorem State.bulkReturnAtBoundary_keeps {b : Kept} {s0 s : State} (k : Nat) (h : Keeps b s0 s) : Keeps b s0 (State.bulkReturnAtBoundary s k) := by
  unfold State.bulkReturnAtBoundary
  repeat' (first | with_reducible assumption | (intro _; try beta_reduce)
                 | (extract_lets +onlyGivenNames t; refine Keeps.cut (t := t) ?_ ?_; subst t; rotate_left; clear_value t; revert t; intro _ _)
                 | (extract_lets +onlyGivenNames t; revert t; intro _)
                 | with_reducible apply State.setPair_keeps | with_reducible apply State.switchOver_keeps
                 | with_reducible exact mk_keeps (by assumption) rfl rfl rfl rfl rfl rfl rfl rfl rfl rfl rfl rfl | with_reducible apply ite_keeps | split)

theorem State.owedRetrains_keeps {b : Kept} {s0 s : State} (h : Keeps b s0 s) : Keeps b s0 (State.owedRetrains s) := by
  unfold State.owedRetrains
  repeat' (first | with_reducible assumption | (intro _; try beta_reduce)
                 | (extract_lets +onlyGivenNames t; refine Keeps.cut (t := t) ?_ ?_; subst t; rotate_left; clear_value t; revert t; intro _ _)
                 | (extract_lets +onlyGivenNames t; revert t; intro _)
                 | with_reducible apply State.disableLane_keeps | with_reducible apply State.retrain_keeps | with_reducible apply each_keeps
                 | with_reducible exact mk_keeps (by assumption) rfl rfl rfl rfl rfl rfl rfl rfl rfl rfl rfl rfl | with_reducible apply ite_keeps | split)

theorem State.arrive_keeps {b : Kept} {s0 s : State} (p : Nat) (x : QCmd) (h : Keeps b s0 s) : Keeps b s0 (State.arrive s p x) := by
  unfold State.arrive
  extract_lets q
  split
  · exact State.sendReply_keeps _ _ _ _ _ _ h
  · rename_i hq
    refine State.syncPort_keeps _ (setPort_keeps _ _ h fun hb => ⟨?_, hb.2⟩)
    simp only [List.length_append, List.length_cons, List.length_nil]
    omega

theorem State.popCmd_keeps {b : Kept} {s0 s : State} (p : Nat) (h : Keeps b s0 s) : Keeps b s0 (State.popCmd s p) := by
  unfold State.popCmd
  extract_lets q t
  have ht : Keeps b s0 t := State.syncPort_keeps _ (setPort_keeps _ _ h fun hb => ⟨Nat.le_trans (by simp [q]) hb.1, hb.2⟩)
  split
  · exact ht
  · exact mk_keeps ht rfl rfl rfl rfl rfl rfl rfl rfl rfl rfl rfl rfl

theorem State.follow_keeps {b : Kept} {s0 s : State} (x : Option After) (h : Keeps b s0 s) : Keeps b s0 (State.follow s x) := by
  unfold State.follow
  split
  · exact h
  · exact State.toSafe_keeps _ h
  · exact State.raise_keeps _ _ _ h
  · exact State.restartDma_keeps _ _ h

theorem State.conclude_keeps {b : Kept} {s0 : State} (p : Nat) (x : QCmd) (y : Reply) (h : Keeps b s0 y.state) : Keeps b s0 (State.conclude p x y) := by
  unfold State.conclude
  exact State.follow_keeps _ (State.answer_keeps _ _ _ _ _ _ h)

theorem State.serve_keeps {b : Kept} {s0 s : State} (p : Nat) (x : QCmd) (go : State → Reply) (h : Keeps b s0 s) (hg : ∀ t, Keeps b s0 t → Keeps b s0 (go t).state) :
    Keeps b s0 (State.serve s p x go) := by
  unfold State.serve
  split
  · exact State.sendReply_keeps _ _ _ _ _ _ h
  · exact State.conclude_keeps _ _ _ (hg _ (State.inc_keeps _ h))

theorem State.execute_keeps {b : Kept} {s0 s : State} (r : CmdRule) (p : Nat) (x : QCmd) (body : State → Reply) (h : Keeps b s0 s) (hg : ∀ t, Keeps b s0 t → Keeps b s0 (body t).state) : Keeps b s0 (State.execute s r p x body) := by
  unfold State.execute
  exact State.serve_keeps _ _ _ h fun t ht => State.checked_keeps _ _ _ _ ht hg

theorem State.drainUnknown_keeps {b : Kept} {s0 s : State} (n : Nat) (h : Keeps b s0 s) : Keeps b s0 (State.drainUnknown n s) := by
  induction n generalizing s with
  | zero => exact h
  | succ n ih =>
    unfold State.drainUnknown
    split
    · exact h
    · split
      · exact h
      · split
        · exact ih (State.sendAborted_keeps _ _ (State.popCmd_keeps _ h))
        · split
          · exact h
          · refine ih (State.serve_keeps _ _ _ (State.popCmd_keeps _ h) fun t ht => ?_)
            unfold State.unknown
            split
            · exact ht
            · split <;> exact ht

theorem State.command_keeps {b : Kept} {s0 s : State} (r : CmdRule) (body : Nat → QCmd → State → Reply) (c : Cmd) (h : Keeps b s0 s) (hg : ∀ p x t, Keeps b s0 t → Keeps b s0 (body p x t).state) : Keeps b s0 (State.command s r body c) := by
  unfold State.command
  extract_lets p known t
  split
  · exact h
  · have ht : Keeps b s0 t := by
      show Keeps b s0 (if _ then _ else _)
      split
      · exact h
      · exact State.arrive_keeps _ _ h
    split
    · exact ht
    · split
      · exact State.drainUnknown_keeps _ (State.runCmds_keeps _ (State.execute_keeps _ _ _ _ (State.popCmd_keeps _ ht) (hg _ _)))
      · exact ht

theorem State.packetIn_keeps {b : Kept} {s0 s : State} (l : Nat) (bytes : List Byte) (ok : Bool) (h : Keeps b s0 s) : Keeps b s0 (State.packetIn s l bytes ok) := by
  unfold State.packetIn
  extract_lets p k
  split
  · exact h
  · split
    · exact State.inc_keeps _ (State.flag_keeps _ _ h)
    · exact State.drainUnknown_keeps _ (State.arrive_keeps _ _ h)

theorem State.startRunning_keeps {b : Kept} {s0 s : State} (opcode p tag : Nat) (go : State → Reply) (h : Keeps b s0 s) (hg : ∀ t, Keeps b s0 t → Keeps b s0 (go t).state) : Keeps b s0 (State.startRunning s opcode p tag go).state := by
  unfold State.startRunning
  split
  · exact h
  · extract_lets y
    split
    · exact mk_keeps (hg _ h) rfl rfl rfl rfl rfl rfl rfl rfl rfl rfl rfl rfl
    · exact hg _ h

theorem State.doNop_keeps {b : Kept} {s0 s : State} (y1 : Nat) (y2 : QCmd) (h : Keeps b s0 s) : Keeps b s0 (State.doNop s y1 y2).state := by
  unfold State.doNop
  repeat' (first | with_reducible assumption | with_reducible apply State.ok_keeps)

theorem State.doEventConfig_keeps {b : Kept} {s0 s : State} (p : Nat) (x : QCmd) (h : Keeps b s0 s) : Keeps b s0 (State.doEventConfig s p x).state := by
  unfold State.doEventConfig
  repeat' (first | with_reducible assumption | with_reducible apply State.ok_keeps | with_reducible apply State.setR_keeps)

theorem State.doOwnerClaim_keeps {b : Kept} {s0 s : State} (p : Nat) (x : QCmd) (h : Keeps b s0 s) : Keeps b s0 (State.doOwnerClaim s p x).state := by
  unfold State.doOwnerClaim
  repeat' (first | with_reducible assumption | with_reducible apply State.claim_keeps)

theorem State.doOwnerRelease_keeps {b : Kept} {s0 s : State} (y1 : Nat) (y2 : QCmd) (h : Keeps b s0 s) : Keeps b s0 (State.doOwnerRelease s y1 y2).state := by
  unfold State.doOwnerRelease
  repeat' (first | with_reducible assumption | with_reducible apply State.changeOwner_keeps | with_reducible apply State.ok_keeps)

theorem State.accept_keeps {b : Kept} {s0 s : State} (opcode p : Nat) (x : QCmd) (code : Nat) (h : Keeps b s0 s) : Keeps b s0 (State.accept s opcode p x code).state := by
  unfold State.accept
  split
  · exact h
  · rename_i hl
    refine h.trans ⟨rfl, rfl, id, fun _ => ?_, id, id, Nat.le_refl _, fun _ => rfl, fun _ y => y, fun _ y => y, fun _ => ⟨rfl, rfl, rfl⟩⟩
    simp only [State.ok, List.length_append, List.length_cons, List.length_nil]
    omega

theorem State.doArm_keeps {b : Kept} {s0 s : State} (p : Nat) (x : QCmd) (h : Keeps b s0 s) : Keeps b s0 (State.doArm s p x).state := by
  unfold State.doArm
  repeat' (first | with_reducible assumption | with_reducible apply State.accept_keeps)

theorem State.doDisarm_keeps {b : Kept} {s0 s : State} (p : Nat) (x : QCmd) (h : Keeps b s0 s) : Keeps b s0 (State.doDisarm s p x).state := by
  unfold State.doDisarm
  repeat' (first | with_reducible assumption | with_reducible apply State.accept_keeps)

theorem State.doStartSensing_keeps {b : Kept} {s0 s : State} (p : Nat) (x : QCmd) (h : Keeps b s0 s) : Keeps b s0 (State.doStartSensing s p x).state := by
  unfold State.doStartSensing
  repeat' (first | with_reducible assumption | with_reducible apply State.accept_keeps | with_reducible apply State.fail_keeps | with_reducible apply ite_keeps | split)

theorem State.doStopSensing_keeps {b : Kept} {s0 s : State} (p : Nat) (x : QCmd) (h : Keeps b s0 s) : Keeps b s0 (State.doStopSensing s p x).state := by
  unfold State.doStopSensing
  repeat' (first | with_reducible assumption | with_reducible apply State.accept_keeps)

theorem State.doForceSafe_keeps {b : Kept} {s0 s : State} (p : Nat) (x : QCmd) (h : Keeps b s0 s) : Keeps b s0 (State.doForceSafe s p x).state := by
  unfold State.doForceSafe
  repeat' (first | with_reducible assumption | (intro _; try beta_reduce)
                 | (extract_lets +onlyGivenNames t; refine Keeps.cut (t := t) ?_ ?_; subst t; rotate_left; clear_value t; revert t; intro _ _)
                 | (extract_lets +onlyGivenNames t; revert t; intro _)
                 | with_reducible apply State.accept_keeps | with_reducible apply State.ok_keeps
                 | with_reducible exact mk_keeps (by assumption) rfl rfl rfl rfl rfl rfl rfl rfl rfl rfl rfl rfl | with_reducible apply ite_keeps | split)

theorem State.doRecover_keeps {b : Kept} {s0 s : State} (p : Nat) (x : QCmd) (h : Keeps b s0 s) : Keeps b s0 (State.doRecover s p x).state := by
  unfold State.doRecover
  repeat' (first | with_reducible assumption | with_reducible apply State.accept_keeps | with_reducible apply State.fail_keeps | with_reducible apply ite_keeps | split)

theorem State.doResetDevice_keeps {b : Kept} {s0 s : State} (y1 : Nat) (y2 : QCmd) (h : Keeps b s0 s) : Keeps b s0 (State.doResetDevice s y1 y2).state := by
  unfold State.doResetDevice
  repeat' (first | with_reducible assumption | with_reducible apply State.ok_keeps
                 | with_reducible exact mk_keeps (by assumption) rfl rfl rfl rfl rfl rfl rfl rfl rfl rfl rfl rfl)

theorem State.syncTime_keeps {b : Kept} {s0 s : State} (x : QCmd) (h : Keeps b s0 s) : Keeps b s0 (State.syncTime s x).state := by
  unfold State.syncTime
  repeat' (first | with_reducible assumption
                 | (extract_lets +onlyGivenNames t; refine Keeps.cut (t := t) ?_ ?_; subst t; rotate_left; clear_value t; revert t; intro _ _)
                 | (extract_lets +onlyGivenNames t; revert t; intro _) | with_reducible apply State.fail_keeps | with_reducible apply State.ok_keeps
                 | with_reducible apply State.slewTime_keeps | with_reducible apply State.stepTime_keeps | with_reducible apply ite_keeps | split)

theorem State.doSyncTime_keeps {b : Kept} {s0 s : State} (y1 : Nat) (x : QCmd) (h : Keeps b s0 s) : Keeps b s0 (State.doSyncTime s y1 x).state := by
  unfold State.doSyncTime
  repeat' (first | with_reducible assumption | with_reducible apply State.syncTime_keeps)

theorem State.queueRequest_keeps {b : Kept} {s0 s : State} (i : Nat) (e : List Byte) (h : Keeps b s0 s) : Keeps b s0 (State.queueRequest s i e) := by
  unfold State.queueRequest
  repeat' (first | with_reducible assumption | (intro _; try beta_reduce)
                 | (extract_lets +onlyGivenNames t; refine Keeps.cut (t := t) ?_ ?_; subst t; rotate_left; clear_value t; revert t; intro _ _)
                 | (extract_lets +onlyGivenNames t; revert t; intro _)
                 | with_reducible apply State.setStream_keeps
                 | with_reducible exact mk_keeps (by assumption) rfl rfl rfl rfl rfl rfl rfl rfl rfl rfl rfl rfl | with_reducible apply ite_keeps | split)

theorem State.doRegionRequest_keeps {b : Kept} {s0 s : State} (p : Nat) (x : QCmd) (h : Keeps b s0 s) : Keeps b s0 (State.doRegionRequest s p x).state := by
  unfold State.doRegionRequest
  repeat' (first | with_reducible assumption
                 | (extract_lets +onlyGivenNames t; refine Keeps.cut (t := t) ?_ ?_; subst t; rotate_left; clear_value t; revert t; intro _ _)
                 | (extract_lets +onlyGivenNames t; revert t; intro _) | with_reducible apply State.fail_keeps | with_reducible apply State.ok_keeps
                 | with_reducible apply State.queueRequest_keeps | with_reducible apply ite_keeps | split)

theorem State.doRegionCancel_keeps {b : Kept} {s0 s : State} (p : Nat) (x : QCmd) (h : Keeps b s0 s) : Keeps b s0 (State.doRegionCancel s p x).state := by
  unfold State.doRegionCancel
  repeat' (first | with_reducible assumption
                 | (extract_lets +onlyGivenNames t; refine Keeps.cut (t := t) ?_ ?_; subst t; rotate_left; clear_value t; revert t; intro _ _)
                 | (extract_lets +onlyGivenNames t; revert t; intro _) | with_reducible apply State.cancelStream_keeps | with_reducible apply State.fail_keeps
                 | with_reducible apply State.ok_keeps | with_reducible apply ite_keeps | split)

theorem State.doRegionPriority_keeps {b : Kept} {s0 s : State} (p : Nat) (x : QCmd) (h : Keeps b s0 s) : Keeps b s0 (State.doRegionPriority s p x).state := by
  unfold State.doRegionPriority
  repeat' (first | with_reducible assumption
                 | (extract_lets +onlyGivenNames t; refine Keeps.cut (t := t) ?_ ?_; subst t; rotate_left; clear_value t; revert t; intro _ _)
                 | (extract_lets +onlyGivenNames t; revert t; intro _) | with_reducible apply State.fail_keeps | with_reducible apply State.ok_keeps
                 | with_reducible apply State.setStream_keeps | with_reducible exact mk_keeps (by assumption) rfl rfl rfl rfl rfl rfl rfl rfl rfl rfl rfl rfl
                 | with_reducible apply ite_keeps | split)

theorem State.markGap_keeps {b : Kept} {s0 s : State} (key c : Nat) (h : Keeps b s0 s) : Keeps b s0 (State.markGap s key c) := by
  unfold State.markGap
  repeat' (first | with_reducible assumption | (intro _; try beta_reduce) | with_reducible apply State.modPt_keeps | with_reducible apply each_keeps
                 | with_reducible exact mk_keeps (by assumption) rfl rfl rfl rfl rfl rfl rfl rfl rfl rfl rfl rfl)

theorem State.startRun_keeps {b : Kept} {s0 s : State} (c key : Nat) (h : Keeps b s0 s) : Keeps b s0 (State.startRun s c key) := by
  unfold State.startRun
  repeat' (first | with_reducible assumption | (intro _; try beta_reduce)
                 | (extract_lets +onlyGivenNames t; refine Keeps.cut (t := t) ?_ ?_; subst t; rotate_left; clear_value t; revert t; intro _ _)
                 | (extract_lets +onlyGivenNames t; revert t; intro _) | with_reducible apply State.addF_keeps | with_reducible apply State.calRange_keeps
                 | with_reducible apply State.markGap_keeps | with_reducible apply State.setBit_keeps | with_reducible apply State.setCal_keeps
                 | with_reducible apply State.setDark_keeps | with_reducible apply State.setF_keeps | with_reducible apply State.setR_keeps | with_reducible apply each_keeps
                 | with_reducible exact mk_keeps (by assumption) rfl rfl rfl rfl rfl rfl rfl rfl rfl rfl rfl rfl)

theorem State.countDefers_keeps {b : Kept} {s0 s : State} (h : Keeps b s0 s) : Keeps b s0 (State.countDefers s) := by
  unfold State.countDefers
  repeat' (first | with_reducible assumption | with_reducible apply State.addF_keeps | with_reducible apply ite_keeps | split)

theorem State.startFull_keeps {b : Kept} {s0 s : State} (cause : Nat) (byCmd : Bool) (h : Keeps b s0 s) : Keeps b s0 (State.startFull s cause byCmd) := by
  unfold State.startFull
  repeat' (first | with_reducible assumption | (intro _; try beta_reduce)
                 | (extract_lets +onlyGivenNames t; refine Keeps.cut (t := t) ?_ ?_; subst t; rotate_left; clear_value t; revert t; intro _ _)
                 | (extract_lets +onlyGivenNames t; revert t; intro _) | with_reducible apply State.abortRun_keeps | with_reducible apply State.addF_keeps
                 | with_reducible apply State.calRange_keeps | with_reducible apply State.setBit_keeps | with_reducible apply State.setCal_keeps
                 | with_reducible apply State.setDark_keeps | with_reducible apply State.setR_keeps | with_reducible apply State.transition_keeps
                 | with_reducible apply each_keeps | with_reducible exact mk_keeps (by assumption) rfl rfl rfl rfl rfl rfl rfl rfl rfl rfl rfl rfl)

theorem State.applyRatios_keeps {b : Kept} {s0 s : State} (l : List (Nat × Nat × Nat)) (h : Keeps b s0 s) : Keeps b s0 (State.applyRatios s l) := by
  unfold State.applyRatios
  repeat' (first | with_reducible assumption | (intro _; try beta_reduce) | with_reducible apply State.setCal_keeps | with_reducible apply each_keeps
                 | with_reducible exact mk_keeps (by assumption) rfl rfl rfl rfl rfl rfl rfl rfl rfl rfl rfl rfl)

theorem State.applyComb_keeps {b : Kept} {s0 s : State} (e : (Nat × CombCal) × Int) (h : Keeps b s0 s) : Keeps b s0 (State.applyComb s e) := by
  unfold State.applyComb
  repeat' (first | with_reducible assumption | with_reducible apply State.applyRun_keeps | with_reducible apply State.judgeTiming_keeps)

theorem State.noteInl_keeps {b : Kept} {s0 s : State} (l : List (Nat × Nat)) (h : Keeps b s0 s) : Keeps b s0 (State.noteInl s l) := by
  unfold State.noteInl
  repeat' (first | with_reducible assumption | (intro _; try beta_reduce)
                 | (extract_lets +onlyGivenNames t; refine Keeps.cut (t := t) ?_ ?_; subst t; rotate_left; clear_value t; revert t; intro _ _)
                 | (extract_lets +onlyGivenNames t; revert t; intro _)
                 | with_reducible apply State.setCal_keeps | with_reducible apply State.setF_keeps | with_reducible apply each_keeps
                 | with_reducible apply foldl_keeps | with_reducible apply when_keeps
                 | with_reducible exact mk_keeps (by assumption) rfl rfl rfl rfl rfl rfl rfl rfl rfl rfl rfl rfl | with_reducible apply ite_keeps | split)

theorem State.applyFull_keeps {b : Kept} {s0 s : State} (r : FullRun) (k : FullCal) (h : Keeps b s0 s) : Keeps b s0 (State.applyFull s r k) := by
  unfold State.applyFull
  repeat' (first | with_reducible assumption | (intro _; try beta_reduce)
                 | (extract_lets +onlyGivenNames t; refine Keeps.cut (t := t) ?_ ?_; subst t; rotate_left; clear_value t; revert t; intro _ _)
                 | (extract_lets +onlyGivenNames t; revert t; intro _)
                 | with_reducible apply State.applyComb_keeps | with_reducible apply State.applyRatios_keeps | with_reducible apply State.calDirty_keeps
                 | with_reducible apply State.noteInl_keeps | with_reducible apply State.setBit_keeps | with_reducible apply State.setCal_keeps
                 | with_reducible apply State.setDark_keeps | with_reducible apply State.setF_keeps | with_reducible apply State.setRange_keeps
                 | with_reducible apply State.syncDue_keeps | with_reducible apply each_keeps | with_reducible apply when_keeps
                 | with_reducible exact mk_keeps (by assumption) rfl rfl rfl rfl rfl rfl rfl rfl rfl rfl rfl rfl | with_reducible apply ite_keeps | split)

theorem State.returnFull_keeps {b : Kept} {s0 s : State} (h : Keeps b s0 s) : Keeps b s0 (State.returnFull s) := by
  unfold State.returnFull
  repeat' (first | with_reducible assumption | (intro _; try beta_reduce)
                 | (extract_lets +onlyGivenNames t; refine Keeps.cut (t := t) ?_ ?_; subst t; rotate_left; clear_value t; revert t; intro _ _)
                 | (extract_lets +onlyGivenNames t; revert t; intro _) | with_reducible apply State.applyFull_keeps | with_reducible apply State.calEvent_keeps
                 | with_reducible apply State.flag_keeps | with_reducible apply State.transition_keeps | with_reducible apply when_keeps | with_reducible apply ite_keeps | split)

theorem State.thermPolicy_keeps {b : Kept} {s0 s : State} (h : Keeps b s0 s) : Keeps b s0 (State.thermPolicy s) := by
  unfold State.thermPolicy
  repeat' (first | with_reducible assumption | with_reducible apply State.rejudge_keeps | with_reducible apply State.reportTpol_keeps
                 | with_reducible apply State.tPol_keeps | with_reducible apply State.throttle_keeps | with_reducible apply ite_keeps | split)

theorem State.hardShut_keeps {b : Kept} {s0 s : State} (h : Keeps b s0 s) : Keeps b s0 (State.hardShut s) := by
  unfold State.hardShut
  repeat' (first | with_reducible assumption | (intro _; try beta_reduce)
                 | (extract_lets +onlyGivenNames t; refine Keeps.cut (t := t) ?_ ?_; subst t; rotate_left; clear_value t; revert t; intro _ _)
                 | (extract_lets +onlyGivenNames t; revert t; intro _)
                 | with_reducible apply State.halt_keeps | with_reducible apply State.hardEffects_keeps
                 | with_reducible exact mk_keeps (by assumption) rfl rfl rfl rfl rfl rfl rfl rfl rfl rfl rfl rfl | with_reducible apply ite_keeps | split)

theorem State.dieResult_keeps {b : Kept} {s0 s : State} (i : Nat) (v : Int) (h : Keeps b s0 s) : Keeps b s0 (State.dieResult s i v) := by
  unfold State.dieResult
  repeat' (first | with_reducible assumption | (intro _; try beta_reduce)
                 | (extract_lets +onlyGivenNames t; refine Keeps.cut (t := t) ?_ ?_; subst t; rotate_left; clear_value t; revert t; intro _ _)
                 | (extract_lets +onlyGivenNames t; revert t; intro _)
                 | with_reducible apply State.checkBroken_keeps | with_reducible apply State.hardShut_keeps | with_reducible apply State.setCal_keeps
                 | with_reducible apply State.syncDue_keeps | with_reducible apply State.thermPolicy_keeps | with_reducible apply State.trimScan_keeps
                 | with_reducible apply when_keeps
                 | with_reducible exact mk_keeps (by assumption) rfl rfl rfl rfl rfl rfl rfl rfl rfl rfl rfl rfl | with_reducible apply ite_keeps | split)

theorem State.bulkWrite_keeps {b : Kept} {s0 s : State} (x : QCmd) (size total : Nat) (go : Nat → List (List Byte) → Reply) (h : Keeps b s0 s) (hg : ∀ n l, Keeps b s0 (go n l).state) : Keeps b s0 (State.bulkWrite s x size total go).state := by
  unfold State.bulkWrite
  extract_lets ps first n
  repeat' split
  all_goals first | exact h | exact hg _ _

theorem State.bulkRead_keeps {b : Kept} {s0 s : State} (p : Nat) (x : QCmd) (size total : Nat) (get : Nat → List Byte) (h : Keeps b s0 s) : Keeps b s0 (State.bulkRead s p x size total get).state := by
  unfold State.bulkRead
  repeat' (first | with_reducible assumption | (intro _; try beta_reduce)
                 | (extract_lets +onlyGivenNames t; refine Keeps.cut (t := t) ?_ ?_; subst t; rotate_left; clear_value t; revert t; intro _ _)
                 | (extract_lets +onlyGivenNames t; revert t; intro _) | with_reducible apply State.fail_keeps | with_reducible apply State.ok_keeps
                 | with_reducible apply ite_keeps | split)

theorem State.commitCheck_keeps {b : Kept} {s0 s : State} (x : QCmd) (pending : Bool) (countOk : Nat → Bool) (get : Nat → List Byte) (go : Nat → Reply) (h : Keeps b s0 s) (hg : ∀ n, Keeps b s0 (go n).state) : Keeps b s0 (State.commitCheck s x pending countOk get go).state := by
  unfold State.commitCheck
  extract_lets n
  repeat' split
  all_goals first | exact h | exact hg _

theorem State.freeBank_keeps {b : Kept} {s0 s : State} (h : Keeps b s0 s) : Keeps b s0 (State.freeBank s).2 := by
  unfold State.freeBank
  repeat' (first | with_reducible assumption | with_reducible apply State.fresh_keeps)

theorem State.doSctWrite_keeps {b : Kept} {s0 s : State} (y1 : Nat) (x : QCmd) (h : Keeps b s0 s) : Keeps b s0 (State.doSctWrite s y1 x).state := by
  unfold State.doSctWrite
  repeat' (first | with_reducible assumption | (intro _; try beta_reduce)
                 | (extract_lets +onlyGivenNames t; refine Keeps.cut (t := t) ?_ ?_; subst t; rotate_left; clear_value t; revert t; intro _ _)
                 | (extract_lets +onlyGivenNames t; revert t; intro _) | with_reducible apply State.bulkWrite_keeps | with_reducible apply State.fail_keeps
                 | with_reducible apply State.ok_keeps | with_reducible apply State.setSctBank_keeps | with_reducible apply ite_keeps | split)

theorem State.commitSct_keeps {b : Kept} {s0 s : State} (n : Nat) (h : Keeps b s0 s) : Keeps b s0 (State.commitSct s n).state := by
  unfold State.commitSct
  repeat' (first | with_reducible assumption | (intro _; try beta_reduce)
                 | (extract_lets +onlyGivenNames t; refine Keeps.cut (t := t) ?_ ?_; subst t; rotate_left; clear_value t; revert t; intro _ _)
                 | (extract_lets +onlyGivenNames t; revert t; intro _)
                 | with_reducible apply State.fail_keeps | with_reducible apply State.ok_keeps | with_reducible apply State.setBit_keeps
                 | with_reducible apply State.setF_keeps | with_reducible apply State.setR_keeps | with_reducible apply State.swapNamed_keeps
                 | with_reducible exact mk_keeps (by assumption) rfl rfl rfl rfl rfl rfl rfl rfl rfl rfl rfl rfl | with_reducible apply ite_keeps | split)

theorem State.doSctCommit_keeps {b : Kept} {s0 s : State} (y1 : Nat) (x : QCmd) (h : Keeps b s0 s) : Keeps b s0 (State.doSctCommit s y1 x).state := by
  unfold State.doSctCommit
  repeat' (first | with_reducible assumption | (intro _; try beta_reduce) | with_reducible apply State.commitCheck_keeps | with_reducible apply State.commitSct_keeps)

theorem State.doSctRead_keeps {b : Kept} {s0 s : State} (p : Nat) (x : QCmd) (h : Keeps b s0 s) : Keeps b s0 (State.doSctRead s p x).state := by
  unfold State.doSctRead
  repeat' (first | with_reducible assumption | (intro _; try beta_reduce)
                 | (extract_lets +onlyGivenNames t; refine Keeps.cut (t := t) ?_ ?_; subst t; rotate_left; clear_value t; revert t; intro _ _)
                 | (extract_lets +onlyGivenNames t; revert t; intro _)
                 | with_reducible apply State.bulkRead_keeps | with_reducible apply State.freeBank_keeps
                 | with_reducible exact mk_keeps (by assumption) rfl rfl rfl rfl rfl rfl rfl rfl rfl rfl rfl rfl | with_reducible apply ite_keeps | split)

theorem State.waitTrack_keeps {b : Kept} {s0 s : State} (i : Nat) (e : List Byte) (h : Keeps b s0 s) : Keeps b s0 (State.waitTrack s i e) := by
  unfold State.waitTrack
  repeat' (first | with_reducible assumption
                 | (extract_lets +onlyGivenNames t; refine Keeps.cut (t := t) ?_ ?_; subst t; rotate_left; clear_value t; revert t; intro _ _)
                 | (extract_lets +onlyGivenNames t; revert t; intro _) | with_reducible exact mk_keeps (by assumption) rfl rfl rfl rfl rfl rfl rfl rfl rfl rfl rfl rfl
                 | with_reducible apply ite_keeps | split)

theorem State.writeTracks_keeps {b : Kept} {s0 s : State} (first : Nat) (l : List (List Byte)) (h : Keeps b s0 s) : Keeps b s0 (State.writeTracks s first l) := by
  unfold State.writeTracks
  repeat' (first | with_reducible assumption | (intro _; try beta_reduce) | with_reducible apply State.hostTrackWrite_keeps
                 | with_reducible apply State.waitTrack_keeps | with_reducible apply each_keeps | with_reducible apply ite_keeps | split)

theorem State.doTrackWrite_keeps {b : Kept} {s0 s : State} (y1 : Nat) (x : QCmd) (h : Keeps b s0 s) : Keeps b s0 (State.doTrackWrite s y1 x).state := by
  unfold State.doTrackWrite
  repeat' (first | with_reducible assumption | (intro _; try beta_reduce) | with_reducible apply State.bulkWrite_keeps | with_reducible apply State.ok_keeps
                 | with_reducible apply State.writeTracks_keeps | with_reducible apply wr_keeps)

theorem State.doTrackRead_keeps {b : Kept} {s0 s : State} (p : Nat) (x : QCmd) (h : Keeps b s0 s) : Keeps b s0 (State.doTrackRead s p x).state := by
  unfold State.doTrackRead
  repeat' (first | with_reducible assumption | with_reducible apply State.bulkRead_keeps)

theorem State.doZoneWrite_keeps {b : Kept} {s0 s : State} (y1 : Nat) (x : QCmd) (h : Keeps b s0 s) : Keeps b s0 (State.doZoneWrite s y1 x).state := by
  unfold State.doZoneWrite
  repeat' (first | with_reducible assumption | (intro _; try beta_reduce)
                 | (extract_lets +onlyGivenNames t; refine Keeps.cut (t := t) ?_ ?_; subst t; rotate_left; clear_value t; revert t; intro _ _)
                 | (extract_lets +onlyGivenNames t; revert t; intro _) | with_reducible apply State.bulkWrite_keeps | with_reducible apply State.fail_keeps
                 | with_reducible apply State.ok_keeps | with_reducible apply State.setZoneBank_keeps | with_reducible apply ite_keeps | split)

theorem State.commitZones_keeps {b : Kept} {s0 s : State} (h : Keeps b s0 s) : Keeps b s0 (State.commitZones s).state := by
  unfold State.commitZones
  repeat' (first | with_reducible assumption | (intro _; try beta_reduce)
                 | (extract_lets +onlyGivenNames t; refine Keeps.cut (t := t) ?_ ?_; subst t; rotate_left; clear_value t; revert t; intro _ _)
                 | (extract_lets +onlyGivenNames t; revert t; intro _)
                 | with_reducible apply State.fail_keeps | with_reducible apply State.ok_keeps | with_reducible apply State.setBit_keeps
                 | with_reducible apply State.setF_keeps | with_reducible apply State.swapNamed_keeps
                 | with_reducible exact mk_keeps (by assumption) rfl rfl rfl rfl rfl rfl rfl rfl rfl rfl rfl rfl | with_reducible apply ite_keeps | split)

theorem State.doZoneCommit_keeps {b : Kept} {s0 s : State} (y1 : Nat) (x : QCmd) (h : Keeps b s0 s) : Keeps b s0 (State.doZoneCommit s y1 x).state := by
  unfold State.doZoneCommit
  repeat' (first | with_reducible assumption | (intro _; try beta_reduce) | with_reducible apply State.commitCheck_keeps | with_reducible apply State.commitZones_keeps)

theorem State.doZoneRead_keeps {b : Kept} {s0 s : State} (p : Nat) (x : QCmd) (h : Keeps b s0 s) : Keeps b s0 (State.doZoneRead s p x).state := by
  unfold State.doZoneRead
  repeat' (first | with_reducible assumption | (intro _; try beta_reduce)
                 | (extract_lets +onlyGivenNames t; refine Keeps.cut (t := t) ?_ ?_; subst t; rotate_left; clear_value t; revert t; intro _ _)
                 | (extract_lets +onlyGivenNames t; revert t; intro _)
                 | with_reducible apply State.bulkRead_keeps | with_reducible apply State.freeBank_keeps
                 | with_reducible exact mk_keeps (by assumption) rfl rfl rfl rfl rfl rfl rfl rfl rfl rfl rfl rfl | with_reducible apply ite_keeps | split)

theorem State.setTplBank_keeps {b : Kept} {s0 s : State} (b' : Nat) (t' : Tbl (List Byte)) (h : Keeps b s0 s) : Keeps b s0 (State.setTplBank s b' t') := by
  unfold State.setTplBank
  repeat' (first | with_reducible assumption | with_reducible exact mk_keeps (by assumption) rfl rfl rfl rfl rfl rfl rfl rfl rfl rfl rfl rfl
                 | with_reducible apply ite_keeps | split)

end Sys2Proof.Machine
end

