-- ==== Sys2Proof/Laws/KeepsG.lean ====
section
/-!
SUPPORT. Laws/KeepsG.lean: what each operation keeps (`Keeps`), for Links, RedOps, Timing, FrameOps, EmitRows, RxRows, DmaOps, StreamCmds, ParamRules.
-/

namespace Sys2Proof.Machine

open Sys2Proof

theorem State.doTemplateWrite_keeps {b : Kept} {s0 s : State} (a1 : Nat) (x : QCmd) (h : Keeps b s0 s) : Keeps b s0 (State.doTemplateWrite s a1 x).state := by
  unfold State.doTemplateWrite
  repeat' (first | with_reducible assumption | (intro _; try beta_reduce)
                 | (extract_lets +onlyGivenNames t; refine Keeps.cut (t := t) ?_ ?_; subst t; rotate_left; clear_value t; revert t; intro _ _)
                 | (extract_lets +onlyGivenNames t; revert t; intro _)
                 | with_reducible apply State.bulkWrite_keeps | with_reducible apply State.fail_keeps | with_reducible apply State.ok_keeps
                 | with_reducible apply State.setTplBank_keeps
                 | with_reducible exact mk_keeps (by assumption) rfl rfl rfl rfl rfl rfl rfl rfl rfl rfl rfl rfl | with_reducible apply ite_keeps | split)

theorem State.doTemplateCommit_keeps {b : Kept} {s0 s : State} (y1 : Nat) (x : QCmd) (h : Keeps b s0 s) : Keeps b s0 (State.doTemplateCommit s y1 x).state := by
  unfold State.doTemplateCommit
  repeat' (first | with_reducible assumption | (intro _; try beta_reduce)
                 | (extract_lets +onlyGivenNames t; refine Keeps.cut (t := t) ?_ ?_; subst t; rotate_left; clear_value t; revert t; intro _ _)
                 | (extract_lets +onlyGivenNames t; revert t; intro _) | with_reducible apply State.commitCheck_keeps | with_reducible apply State.ok_keeps
                 | with_reducible apply State.setBit_keeps | with_reducible apply State.swapTpl_keeps | with_reducible apply ite_keeps | split)

theorem State.doTemplateRead_keeps {b : Kept} {s0 s : State} (p : Nat) (x : QCmd) (h : Keeps b s0 s) : Keeps b s0 (State.doTemplateRead s p x).state := by
  unfold State.doTemplateRead
  repeat' (first | with_reducible assumption | with_reducible apply State.bulkRead_keeps | with_reducible apply State.freeBank_keeps)

theorem State.findTorn_keeps {b : Kept} {s0 s : State} (h : Keeps b s0 s) : Keeps b s0 (State.findTorn s) := by
  unfold State.findTorn
  repeat' (first | with_reducible assumption | (intro _; try beta_reduce) | with_reducible apply State.flag_keeps | with_reducible apply when_keeps)

theorem State.doCalRead_keeps {b : Kept} {s0 s : State} (p : Nat) (x : QCmd) (h : Keeps b s0 s) : Keeps b s0 (State.doCalRead s p x).state := by
  unfold State.doCalRead
  repeat' (first | with_reducible assumption | (intro _; try beta_reduce)
                 | (extract_lets +onlyGivenNames t; refine Keeps.cut (t := t) ?_ ?_; subst t; rotate_left; clear_value t; revert t; intro _ _)
                 | (extract_lets +onlyGivenNames t; revert t; intro _) | with_reducible apply State.bulkRead_keeps | with_reducible apply State.fail_keeps
                 | with_reducible apply State.findTorn_keeps | with_reducible apply ite_keeps | split)

theorem State.doCalWrite_keeps {b : Kept} {s0 s : State} (y1 : Nat) (x : QCmd) (h : Keeps b s0 s) : Keeps b s0 (State.doCalWrite s y1 x).state := by
  unfold State.doCalWrite
  repeat' (first | with_reducible assumption | (intro _; try beta_reduce)
                 | (extract_lets +onlyGivenNames t; refine Keeps.cut (t := t) ?_ ?_; subst t; rotate_left; clear_value t; revert t; intro _ _)
                 | (extract_lets +onlyGivenNames t; revert t; intro _) | with_reducible apply State.bulkWrite_keeps | with_reducible apply State.calDirty_keeps
                 | with_reducible apply State.calFault_keeps | with_reducible apply State.fail_keeps | with_reducible apply State.ok_keeps
                 | with_reducible apply State.setCalEntry_keeps | with_reducible apply each_keeps | with_reducible apply ite_keeps | split)

theorem State.doCalSave_keeps {b : Kept} {s0 s : State} (p : Nat) (x : QCmd) (h : Keeps b s0 s) : Keeps b s0 (State.doCalSave s p x).state := by
  unfold State.doCalSave
  repeat' (first | with_reducible assumption | (intro _; try beta_reduce) | with_reducible apply State.fail_keeps | with_reducible apply State.ok_keeps
                 | with_reducible apply State.startRunning_keeps | with_reducible apply State.startSave_keeps | with_reducible apply ite_keeps | split)

theorem State.loadService_keeps {b : Kept} {s0 s : State} (l : Nat) (h : Keeps b s0 s) : Keeps b s0 (State.loadService s l) := by
  unfold State.loadService
  repeat' (first | with_reducible assumption | (intro _; try beta_reduce)
                 | (extract_lets +onlyGivenNames t; refine Keeps.cut (t := t) ?_ ?_; subst t; rotate_left; clear_value t; revert t; intro _ _)
                 | (extract_lets +onlyGivenNames t; revert t; intro _)
                 | with_reducible apply State.popOut_keeps | with_reducible apply State.setLane_keeps
                 | with_reducible exact mk_keeps (by assumption) rfl rfl rfl rfl rfl rfl rfl rfl rfl rfl rfl rfl | with_reducible apply ite_keeps | split)

theorem State.fillData_keeps {b : Kept} {s0 s : State} (l n : Nat) (h : Keeps b s0 s) : Keeps b s0 (State.fillData l n s).1 := by
  induction n generalizing s with
  | zero => exact h
  | succ n ih =>
    unfold State.fillData
    have ht : Keeps b s0 (s.loadService l) := State.loadService_keeps _ h
    dsimp only
    split
    · exact ht
    · rename_i u fl tg he
      refine ih ?_
      repeat' (split at he)
      all_goals first
        | (cases he; exact State.setLane_keeps _ _ ht)
        | cases he

theorem State.sendGroup_keeps {b : Kept} {s0 s : State} (l gseq : Nat) (fs : List Flit) (h : Keeps b s0 s) : Keeps b s0 (State.sendGroup s l gseq fs) := by
  unfold State.sendGroup
  repeat' (first | with_reducible assumption
                 | (extract_lets +onlyGivenNames t; refine Keeps.cut (t := t) ?_ ?_; subst t; rotate_left; clear_value t; revert t; intro _ _)
                 | (extract_lets +onlyGivenNames t; revert t; intro _) | with_reducible apply State.setLane_keeps
                 | with_reducible exact mk_keeps (by assumption) rfl rfl rfl rfl rfl rfl rfl rfl rfl rfl rfl rfl)

theorem State.replayNext_keeps {b : Kept} {s0 s : State} (l : Nat) (g' : TxGroup) (h : Keeps b s0 s) : Keeps b s0 (State.replayNext s l g') := by
  unfold State.replayNext
  repeat' (first | with_reducible assumption | (intro _; try beta_reduce)
                 | (extract_lets +onlyGivenNames t; refine Keeps.cut (t := t) ?_ ?_; subst t; rotate_left; clear_value t; revert t; intro _ _)
                 | (extract_lets +onlyGivenNames t; revert t; intro _)
                 | with_reducible apply State.flag_keeps | with_reducible apply State.inc_keeps | with_reducible apply State.retrain_keeps
                 | with_reducible apply State.sendGroup_keeps | with_reducible apply State.setLane_keeps
                 | with_reducible exact mk_keeps (by assumption) rfl rfl rfl rfl rfl rfl rfl rfl rfl rfl rfl rfl | with_reducible apply ite_keeps | split)

theorem State.sendNew_keeps {b : Kept} {s0 s : State} (l : Nat) (h : Keeps b s0 s) : Keeps b s0 (State.sendNew s l) := by
  unfold State.sendNew
  extract_lets x nakSent due pw
  split
  extract_lets x1 t1 t2 fixed
  have h1 : Keeps b s0 t1 := State.setLane_keeps _ _ h
  have h2 : Keeps b s0 t2 := by
    show Keeps b s0 (if _ then _ else _)
    exact ite_keeps (State.inc_keeps _ h1) h1
  have h3 := State.fillData_keeps l (16 - fixed.length) h2
  clear_value t2
  dsimp only
  refine ite_keeps (State.setLane_keeps _ _ (State.setF_keeps _ _ _ _ (State.sendGroup_keeps _ _ _ h2))) (ite_keeps (State.sendGroup_keeps _ _ _ h2) ?_)
  exact ite_keeps (State.sendGroup_keeps _ _ _ h3) (State.sendGroup_keeps _ _ _ (State.setLane_keeps _ _ h3))

theorem State.sendOwed_keeps {b : Kept} {s0 s : State} (l : Nat) (h : Keeps b s0 s) : Keeps b s0 (State.sendOwed s l) := by
  unfold State.sendOwed
  repeat' (first | with_reducible assumption | (intro _; try beta_reduce)
                 | (extract_lets +onlyGivenNames t; refine Keeps.cut (t := t) ?_ ?_; subst t; rotate_left; clear_value t; revert t; intro _ _)
                 | (extract_lets +onlyGivenNames t; revert t; intro _)
                 | with_reducible apply State.inc_keeps | with_reducible apply State.sendGroup_keeps | with_reducible apply State.setLane_keeps
                 | with_reducible exact mk_keeps (by assumption) rfl rfl rfl rfl rfl rfl rfl rfl rfl rfl rfl rfl | with_reducible apply ite_keeps | split)

theorem State.sendRequest_keeps {b : Kept} {s0 s : State} (l : Nat) (r : Nat × Bool) (h : Keeps b s0 s) : Keeps b s0 (State.sendRequest s l r) := by
  unfold State.sendRequest
  repeat' (first | with_reducible assumption | (intro _; try beta_reduce)
                 | (extract_lets +onlyGivenNames t; refine Keeps.cut (t := t) ?_ ?_; subst t; rotate_left; clear_value t; revert t; intro _ _)
                 | (extract_lets +onlyGivenNames t; revert t; intro _)
                 | with_reducible apply State.sendGroup_keeps | with_reducible apply State.setLane_keeps
                 | with_reducible exact mk_keeps (by assumption) rfl rfl rfl rfl rfl rfl rfl rfl rfl rfl rfl rfl | with_reducible apply ite_keeps | split)

theorem State.groupTx_keeps {b : Kept} {s0 s : State} (l : Nat) (h : Keeps b s0 s) : Keeps b s0 (State.groupTx s l) := by
  unfold State.groupTx
  repeat' (first | with_reducible assumption | (intro _; try beta_reduce)
                 | (extract_lets +onlyGivenNames t; refine Keeps.cut (t := t) ?_ ?_; subst t; rotate_left; clear_value t; revert t; intro _ _)
                 | (extract_lets +onlyGivenNames t; revert t; intro _)
                 | with_reducible apply State.replayNext_keeps | with_reducible apply State.sendGroup_keeps | with_reducible apply State.sendNew_keeps
                 | with_reducible apply State.sendOwed_keeps | with_reducible apply State.sendRequest_keeps | with_reducible apply State.setLane_keeps
                 | with_reducible apply State.startLane_keeps | with_reducible apply State.wakeLane_keeps
                 | with_reducible exact mk_keeps (by assumption) rfl rfl rfl rfl rfl rfl rfl rfl rfl rfl rfl rfl | with_reducible apply ite_keeps | split)

theorem State.serviceFlit_keeps {b : Kept} {s0 s : State} (l : Nat) (sop eop : Bool) (pl : List Byte) (h : Keeps b s0 s) : Keeps b s0 (State.serviceFlit s l sop eop pl) := by
  unfold State.serviceFlit
  repeat' (first | with_reducible assumption
                 | (extract_lets +onlyGivenNames t; refine Keeps.cut (t := t) ?_ ?_; subst t; rotate_left; clear_value t; revert t; intro _ _)
                 | (extract_lets +onlyGivenNames t; revert t; intro _) | with_reducible apply State.packetIn_keeps | with_reducible apply State.setLane_keeps
                 | with_reducible exact mk_keeps (by assumption) rfl rfl rfl rfl rfl rfl rfl rfl rfl rfl rfl rfl | with_reducible apply ite_keeps | split)

theorem State.restartTraining_keeps {b : Kept} {s0 s : State} (l : Nat) (h : Keeps b s0 s) : Keeps b s0 (State.restartTraining s l) := by
  unfold State.restartTraining
  repeat' (first | with_reducible assumption | (intro _; try beta_reduce)
                 | (extract_lets +onlyGivenNames t; refine Keeps.cut (t := t) ?_ ?_; subst t; rotate_left; clear_value t; revert t; intro _ _)
                 | (extract_lets +onlyGivenNames t; revert t; intro _)
                 | with_reducible apply State.leaveIdle_keeps | with_reducible apply State.setF_keeps | with_reducible apply State.setLane_keeps
                 | with_reducible apply State.setLaneSt_keeps | with_reducible apply when_keeps
                 | with_reducible exact mk_keeps (by assumption) rfl rfl rfl rfl rfl rfl rfl rfl rfl rfl rfl rfl | with_reducible apply ite_keeps | split)

theorem State.actFlit_keeps {b : Kept} {s0 s : State} (l : Nat) (hasNak : Bool) (fl : Flit) (h : Keeps b s0 s) : Keeps b s0 (State.actFlit l hasNak s fl) := by
  unfold State.actFlit
  repeat' (first | with_reducible assumption | (intro _; try beta_reduce)
                 | (extract_lets +onlyGivenNames t; refine Keeps.cut (t := t) ?_ ?_; subst t; rotate_left; clear_value t; revert t; intro _ _)
                 | (extract_lets +onlyGivenNames t; revert t; intro _)
                 | with_reducible apply State.restartTraining_keeps | with_reducible apply State.retrain_keeps
                 | with_reducible apply State.serviceFlit_keeps | with_reducible apply State.setF_keeps | with_reducible apply State.setLane_keeps
                 | with_reducible exact mk_keeps (by assumption) rfl rfl rfl rfl rfl rfl rfl rfl rfl rfl rfl rfl | with_reducible apply ite_keeps | split)

theorem State.actGroup_keeps {b : Kept} {s0 s : State} (l : Nat) (g : RxGroup) (h : Keeps b s0 s) : Keeps b s0 (State.actGroup s l g) := by
  unfold State.actGroup
  repeat' (first | with_reducible assumption | (intro _; try beta_reduce)
                 | (extract_lets +onlyGivenNames t; refine Keeps.cut (t := t) ?_ ?_; subst t; rotate_left; clear_value t; revert t; intro _ _)
                 | (extract_lets +onlyGivenNames t; revert t; intro _) | with_reducible apply State.actFlit_keeps | with_reducible apply each_keeps
                 | with_reducible apply ite_keeps | split)

theorem State.oweNak_keeps {b : Kept} {s0 s : State} (l : Nat) (h : Keeps b s0 s) : Keeps b s0 (State.oweNak s l) := by
  unfold State.oweNak
  repeat' (first | with_reducible assumption
                 | (extract_lets +onlyGivenNames t; refine Keeps.cut (t := t) ?_ ?_; subst t; rotate_left; clear_value t; revert t; intro _ _)
                 | (extract_lets +onlyGivenNames t; revert t; intro _) | with_reducible apply State.setLane_keeps
                 | with_reducible exact mk_keeps (by assumption) rfl rfl rfl rfl rfl rfl rfl rfl rfl rfl rfl rfl | with_reducible apply ite_keeps | split)

theorem State.countComma_keeps {b : Kept} {s0 s : State} (l : Nat) (good : Bool) (h : Keeps b s0 s) : Keeps b s0 (State.countComma s l good) := by
  unfold State.countComma
  repeat' (first | with_reducible assumption | (intro _; try beta_reduce)
                 | (extract_lets +onlyGivenNames t; refine Keeps.cut (t := t) ?_ ?_; subst t; rotate_left; clear_value t; revert t; intro _ _)
                 | (extract_lets +onlyGivenNames t; revert t; intro _)
                 | with_reducible apply State.setLane_keeps
                 | with_reducible exact mk_keeps (by assumption) rfl rfl rfl rfl rfl rfl rfl rfl rfl rfl rfl rfl | with_reducible apply ite_keeps | split)

theorem State.groupRx_keeps {b : Kept} {s0 s : State} (l : Nat) (g' : RxGroup) (h : Keeps b s0 s) : Keeps b s0 (State.groupRx s l g') := by
  unfold State.groupRx
  repeat' (first | with_reducible assumption | (intro _; try beta_reduce)
                 | (extract_lets +onlyGivenNames t; refine Keeps.cut (t := t) ?_ ?_; subst t; rotate_left; clear_value t; revert t; intro _ _)
                 | (extract_lets +onlyGivenNames t; revert t; intro _)
                 | with_reducible apply State.actGroup_keeps | with_reducible apply State.countComma_keeps | with_reducible apply State.flag_keeps
                 | with_reducible apply State.inc_keeps | with_reducible apply State.oweNak_keeps | with_reducible apply State.setLane_keeps
                 | with_reducible apply State.startLane_keeps
                 | with_reducible exact mk_keeps (by assumption) rfl rfl rfl rfl rfl rfl rfl rfl rfl rfl rfl rfl | with_reducible apply ite_keeps | split)

theorem State.countDiscard_keeps {b : Kept} {s0 s : State} (l : Nat) (t' : PktTag) (h : Keeps b s0 s) : Keeps b s0 (State.countDiscard s l t') := by
  unfold State.countDiscard
  repeat' (first | with_reducible assumption | (intro _; try beta_reduce)
                 | (extract_lets +onlyGivenNames t; refine Keeps.cut (t := t) ?_ ?_; subst t; rotate_left; clear_value t; revert t; intro _ _)
                 | (extract_lets +onlyGivenNames t; revert t; intro _)
                 | with_reducible apply State.countLoss_keeps | with_reducible apply State.inc_keeps
                 | with_reducible exact mk_keeps (by assumption) rfl rfl rfl rfl rfl rfl rfl rfl rfl rfl rfl rfl | with_reducible apply ite_keeps | split)

theorem State.sequenceReset_keeps {b : Kept} {s0 s : State} (l : Nat) (h : Keeps b s0 s) : Keeps b s0 (State.sequenceReset s l) := by
  unfold State.sequenceReset
  repeat' (first | with_reducible assumption | (intro _; try beta_reduce)
                 | (extract_lets +onlyGivenNames t; refine Keeps.cut (t := t) ?_ ?_; subst t; rotate_left; clear_value t; revert t; intro _ _)
                 | (extract_lets +onlyGivenNames t; revert t; intro _)
                 | with_reducible apply State.countDiscard_keeps | with_reducible apply State.flag_keeps | with_reducible apply State.inc_keeps
                 | with_reducible apply State.post_keeps | with_reducible apply State.raise_keeps | with_reducible apply State.setLane_keeps
                 | with_reducible apply each_keeps
                 | with_reducible exact mk_keeps (by assumption) rfl rfl rfl rfl rfl rfl rfl rfl rfl rfl rfl rfl | with_reducible apply ite_keeps | split)

theorem State.syncCkpt_keeps {b : Kept} {s0 s : State} (h : Keeps b s0 s) : Keeps b s0 (State.syncCkpt s) := by
  unfold State.syncCkpt
  repeat' (first | with_reducible assumption | with_reducible apply State.newestCkpt_keeps | with_reducible apply State.setR_keeps | with_reducible apply ite_keeps
                 | split)

theorem State.writeCkpt_keeps {b : Kept} {s0 s : State} (c : ColPlan) (h : Keeps b s0 s) : Keeps b s0 (State.writeCkpt s c) := by
  unfold State.writeCkpt
  repeat' (first | with_reducible assumption | (intro _; try beta_reduce)
                 | (extract_lets +onlyGivenNames t; refine Keeps.cut (t := t) ?_ ?_; subst t; rotate_left; clear_value t; revert t; intro _ _)
                 | (extract_lets +onlyGivenNames t; revert t; intro _)
                 | with_reducible apply State.inc_keeps | with_reducible apply State.setRed_keeps | with_reducible apply State.syncCkpt_keeps
                 | with_reducible exact mk_keeps (by assumption) rfl rfl rfl rfl rfl rfl rfl rfl rfl rfl rfl rfl | with_reducible apply ite_keeps | split)

theorem State.badCkpt_keeps {b : Kept} {s0 s : State} (b' : Nat) (h : Keeps b s0 s) : Keeps b s0 (State.badCkpt s b') := by
  unfold State.badCkpt
  repeat' (first | with_reducible assumption
                 | (extract_lets +onlyGivenNames t; refine Keeps.cut (t := t) ?_ ?_; subst t; rotate_left; clear_value t; revert t; intro _ _)
                 | (extract_lets +onlyGivenNames t; revert t; intro _) | with_reducible apply State.flag_keeps | with_reducible apply State.setHealth_keeps
                 | with_reducible apply State.setRed_keeps | with_reducible apply State.syncCkpt_keeps
                 | with_reducible exact mk_keeps (by assumption) rfl rfl rfl rfl rfl rfl rfl rfl rfl rfl rfl rfl)

theorem State.gapColumn_keeps {b : Kept} {s0 s : State} (fr i : Nat) (h : Keeps b s0 s) : Keeps b s0 (State.gapColumn s fr i) := by
  unfold State.gapColumn
  repeat' (first | with_reducible assumption
                 | (extract_lets +onlyGivenNames t; refine Keeps.cut (t := t) ?_ ?_; subst t; rotate_left; clear_value t; revert t; intro _ _)
                 | (extract_lets +onlyGivenNames t; revert t; intro _) | with_reducible apply State.setCol_keeps | with_reducible apply ite_keeps | split)

theorem State.gapColumns_keeps {b : Kept} {s0 s : State} (d : Nat) (h : Keeps b s0 s) : Keeps b s0 (State.gapColumns s d) := by
  unfold State.gapColumns
  repeat' (first | with_reducible assumption | (intro _; try beta_reduce) | with_reducible apply State.gapColumn_keeps | with_reducible apply each_keeps)

theorem State.postSegment_keeps {b : Kept} {s0 s : State} (h : Keeps b s0 s) : Keeps b s0 (State.postSegment s) := by
  unfold State.postSegment
  split
  · rename_i c u he
    exact State.writeCkpt_keeps _ (State.resteer_keeps _ (State.postColumn_keeps c u he h))
  · exact h

theorem State.restore_keeps {b : Kept} {s0 s : State} (c : Checkpoint) (h : Keeps b s0 s) : Keeps b s0 (State.restore s c) := by
  unfold State.restore
  repeat' (first | with_reducible assumption | (intro _; try beta_reduce)
                 | (extract_lets +onlyGivenNames t; refine Keeps.cut (t := t) ?_ ?_; subst t; rotate_left; clear_value t; revert t; intro _ _)
                 | (extract_lets +onlyGivenNames t; revert t; intro _)
                 | with_reducible apply State.setF_keeps
                 | with_reducible exact mk_keeps (by assumption) rfl rfl rfl rfl rfl rfl rfl rfl rfl rfl rfl rfl | with_reducible apply ite_keeps | split)

theorem State.restoreNewest_keeps {b : Kept} {s0 s : State} (h : Keeps b s0 s) : Keeps b s0 (State.restoreNewest s) := by
  unfold State.restoreNewest
  repeat' (first | with_reducible assumption | with_reducible apply State.newestCkpt_keeps | with_reducible apply State.restore_keeps
                 | with_reducible apply ite_keeps | split)

theorem State.present_keeps {b : Kept} {s0 s : State} (b' claim : Nat) (h : Keeps b s0 s) : Keeps b s0 (State.present s b' claim) := by
  unfold State.present
  repeat' (first | with_reducible assumption
                 | (extract_lets +onlyGivenNames t; refine Keeps.cut (t := t) ?_ ?_; subst t; rotate_left; clear_value t; revert t; intro _ _)
                 | (extract_lets +onlyGivenNames t; revert t; intro _) | with_reducible apply State.claim_keeps | with_reducible apply State.setClaim_keeps
                 | with_reducible apply State.setF_keeps | with_reducible apply State.setPlanner_keeps | with_reducible apply State.setR_keeps)

theorem State.planFrom_keeps {b : Kept} {s0 s : State} (fr i : Nat) (h : Keeps b s0 s) : Keeps b s0 (State.planFrom s fr i) := by
  unfold State.planFrom
  repeat' (first | with_reducible assumption | (intro _; try beta_reduce)
                 | (extract_lets +onlyGivenNames t; refine Keeps.cut (t := t) ?_ ?_; subst t; rotate_left; clear_value t; revert t; intro _ _)
                 | (extract_lets +onlyGivenNames t; revert t; intro _) | with_reducible apply State.passDropped_keeps | with_reducible apply State.setCol_keeps
                 | with_reducible apply each_keeps | with_reducible exact mk_keeps (by assumption) rfl rfl rfl rfl rfl rfl rfl rfl rfl rfl rfl rfl
                 | with_reducible apply ite_keeps | split)

theorem State.takeOver_keeps {b : Kept} {s0 s : State} (k : Takeover) (h : Keeps b s0 s) : Keeps b s0 (State.takeOver s k) := by
  unfold State.takeOver
  repeat' (first | with_reducible assumption | (intro _; try beta_reduce)
                 | (extract_lets +onlyGivenNames t; refine Keeps.cut (t := t) ?_ ?_; subst t; rotate_left; clear_value t; revert t; intro _ _)
                 | (extract_lets +onlyGivenNames t; revert t; intro _)
                 | with_reducible apply State.claim_keeps | with_reducible apply State.endTakeover_keeps | with_reducible apply State.gapColumns_keeps
                 | with_reducible apply State.planFrom_keeps | with_reducible apply State.planStep_keeps | with_reducible apply State.postSegment_keeps
                 | with_reducible apply State.present_keeps | with_reducible apply State.restoreNewest_keeps | with_reducible apply State.setRed_keeps
                 | with_reducible apply when_keeps
                 | with_reducible exact mk_keeps (by assumption) rfl rfl rfl rfl rfl rfl rfl rfl rfl rfl rfl rfl | with_reducible apply ite_keeps | split)

theorem State.closeGap_keeps {b : Kept} {s0 s : State} (key : Nat) (c : ColPlan) (h : Keeps b s0 s) : Keeps b s0 (State.closeGap s key c) := by
  unfold State.closeGap
  repeat' (first | with_reducible assumption | (intro _; try beta_reduce)
                 | (extract_lets +onlyGivenNames t; refine Keeps.cut (t := t) ?_ ?_; subst t; rotate_left; clear_value t; revert t; intro _ _)
                 | (extract_lets +onlyGivenNames t; revert t; intro _) | with_reducible apply State.add_keeps | with_reducible apply State.flag_keeps
                 | with_reducible apply State.modPt_keeps | with_reducible apply each_keeps | with_reducible apply foldl_keeps
                 | with_reducible exact mk_keeps (by assumption) rfl rfl rfl rfl rfl rfl rfl rfl rfl rfl rfl rfl | with_reducible apply ite_keeps | split)

theorem State.noteBootClock_keeps {b : Kept} {s0 s : State} (h : Keeps b s0 s) : Keeps b s0 (State.noteBootClock s) := by
  unfold State.noteBootClock
  repeat' (first | with_reducible assumption | with_reducible apply State.setClk_keeps
                 | with_reducible exact mk_keeps (by assumption) rfl rfl rfl rfl rfl rfl rfl rfl rfl rfl rfl rfl | with_reducible apply ite_keeps | split)

theorem State.combClock_keeps {b : Kept} {s0 s : State} (bad : List Nat) (c : Nat) (h : Keeps b s0 s) : Keeps b s0 (State.combClock s bad c) := by
  unfold State.combClock
  repeat' (first | with_reducible assumption
                 | (extract_lets +onlyGivenNames t; refine Keeps.cut (t := t) ?_ ?_; subst t; rotate_left; clear_value t; revert t; intro _ _)
                 | (extract_lets +onlyGivenNames t; revert t; intro _) | with_reducible apply State.post_keeps | with_reducible apply State.setBit_keeps
                 | with_reducible apply State.setClk_keeps | with_reducible apply State.syncTiming_keeps
                 | with_reducible exact mk_keeps (by assumption) rfl rfl rfl rfl rfl rfl rfl rfl rfl rfl rfl rfl | with_reducible apply ite_keeps | split)

theorem State.setPlan_keeps {b : Kept} {s0 s : State} (p : Plan) (h : Keeps b s0 s) : Keeps b s0 (State.setPlan s p) := by
  unfold State.setPlan
  repeat' (first | with_reducible assumption | with_reducible exact mk_keeps (by assumption) rfl rfl rfl rfl rfl rfl rfl rfl rfl rfl rfl rfl)

theorem State.pushItem_keeps {b : Kept} {s0 s : State} (x : AsmItem) (h : Keeps b s0 s) : Keeps b s0 (State.pushItem s x) := by
  unfold State.pushItem
  repeat' (first | with_reducible assumption | with_reducible apply State.setDet_keeps
                 | with_reducible exact mk_keeps (by assumption) rfl rfl rfl rfl rfl rfl rfl rfl rfl rfl rfl rfl)

theorem State.columnToStart_keeps {b : Kept} {s0 s : State} (fr i key : Nat) (h : Keeps b s0 s) : Keeps b s0 (State.columnToStart s fr i key) := by
  unfold State.columnToStart
  repeat' (first | with_reducible assumption | (intro _; try beta_reduce)
                 | (extract_lets +onlyGivenNames t; refine Keeps.cut (t := t) ?_ ?_; subst t; rotate_left; clear_value t; revert t; intro _ _)
                 | (extract_lets +onlyGivenNames t; revert t; intro _)
                 | with_reducible apply State.gapColumn_keeps | with_reducible apply State.noteCover_keeps | with_reducible apply State.noteDropped_keeps
                 | with_reducible apply State.setCol_keeps | with_reducible apply State.setPlan_keeps
                 | with_reducible exact mk_keeps (by assumption) rfl rfl rfl rfl rfl rfl rfl rfl rfl rfl rfl rfl | with_reducible apply ite_keeps | split)

theorem State.countHeld_keeps {b : Kept} {s0 s : State} (c : ColPlan) (h : Keeps b s0 s) : Keeps b s0 (State.countHeld s c) := by
  unfold State.countHeld
  repeat' (first | with_reducible assumption | (intro _; try beta_reduce)
                 | (extract_lets +onlyGivenNames t; refine Keeps.cut (t := t) ?_ ?_; subst t; rotate_left; clear_value t; revert t; intro _ _)
                 | (extract_lets +onlyGivenNames t; revert t; intro _)
                 | with_reducible apply State.failPlanner_keeps | with_reducible apply State.flag_keeps | with_reducible apply State.inc_keeps
                 | with_reducible apply State.setPlan_keeps | with_reducible apply State.setRed_keeps
                 | with_reducible exact mk_keeps (by assumption) rfl rfl rfl rfl rfl rfl rfl rfl rfl rfl rfl rfl | with_reducible apply ite_keeps | split)

theorem State.markStart_keeps {b : Kept} {s0 s : State} (key : Nat) (c : ColPlan) (h : Keeps b s0 s) : Keeps b s0 (State.markStart s key c) := by
  unfold State.markStart
  repeat' (first | with_reducible assumption | (intro _; try beta_reduce)
                 | (extract_lets +onlyGivenNames t; refine Keeps.cut (t := t) ?_ ?_; subst t; rotate_left; clear_value t; revert t; intro _ _)
                 | (extract_lets +onlyGivenNames t; revert t; intro _)
                 | with_reducible apply State.modPt_keeps | with_reducible apply each_keeps
                 | with_reducible exact mk_keeps (by assumption) rfl rfl rfl rfl rfl rfl rfl rfl rfl rfl rfl rfl | with_reducible apply ite_keeps | split)

theorem State.leadBatches_keeps {b : Kept} {s0 s : State} (h : Keeps b s0 s) : Keeps b s0 (State.leadBatches s) := by
  unfold State.leadBatches
  repeat' (first | with_reducible assumption | (intro _; try beta_reduce)
                 | (extract_lets +onlyGivenNames t; refine Keeps.cut (t := t) ?_ ?_; subst t; rotate_left; clear_value t; revert t; intro _ _)
                 | (extract_lets +onlyGivenNames t; revert t; intro _) | with_reducible apply State.allocateStart_keeps | with_reducible apply State.comingColumn_keeps
                 | with_reducible apply State.replanColumn_keeps | with_reducible apply State.setCol_keeps | with_reducible apply when_keeps
                 | with_reducible exact mk_keeps (by assumption) rfl rfl rfl rfl rfl rfl rfl rfl rfl rfl rfl rfl | with_reducible apply ite_keeps | split)

theorem State.startColumn_keeps {b : Kept} {s0 s : State} (h : Keeps b s0 s) : Keeps b s0 (State.startColumn s) := by
  unfold State.startColumn
  repeat' (first | with_reducible assumption | (intro _; try beta_reduce)
                 | (extract_lets +onlyGivenNames t; refine Keeps.cut (t := t) ?_ ?_; subst t; rotate_left; clear_value t; revert t; intro _ _)
                 | (extract_lets +onlyGivenNames t; revert t; intro _)
                 | with_reducible apply State.allocateStart_keeps | with_reducible apply State.arbitrate_keeps
                 | with_reducible apply State.columnToStart_keeps | with_reducible apply State.columnTracks_keeps
                 | with_reducible apply State.countHeld_keeps | with_reducible apply State.endTakeover_keeps | with_reducible apply State.loopLate_keeps
                 | with_reducible apply State.markGap_keeps | with_reducible apply State.markStart_keeps | with_reducible apply State.passPlanned_keeps
                 | with_reducible apply State.pushItem_keeps | with_reducible apply State.setCal_keeps | with_reducible apply State.setCol_keeps
                 | with_reducible apply State.setDark_keeps | with_reducible apply State.setPlan_keeps | with_reducible apply State.steerColumn_keeps
                 | with_reducible apply State.steerY_keeps | with_reducible apply State.takeEffect_keeps | with_reducible apply each_keeps
                 | with_reducible apply when_keeps
                 | with_reducible exact mk_keeps (by assumption) rfl rfl rfl rfl rfl rfl rfl rfl rfl rfl rfl rfl | with_reducible apply ite_keeps | split)

theorem State.dropQueued_keeps {b : Kept} {s0 s : State} (key : Nat) (h : Keeps b s0 s) : Keeps b s0 (State.dropQueued s key) := by
  unfold State.dropQueued
  repeat' (first | with_reducible assumption | (intro _; try beta_reduce)
                 | (extract_lets +onlyGivenNames t; refine Keeps.cut (t := t) ?_ ?_; subst t; rotate_left; clear_value t; revert t; intro _ _)
                 | (extract_lets +onlyGivenNames t; revert t; intro _) | with_reducible apply State.lateShots_keeps | with_reducible apply State.setPlan_keeps
                 | with_reducible apply each_keeps | with_reducible exact mk_keeps (by assumption) rfl rfl rfl rfl rfl rfl rfl rfl rfl rfl rfl rfl)

theorem State.gapPasses_keeps {b : Kept} {s0 s : State} (c : ColPlan) (h : Keeps b s0 s) : Keeps b s0 (State.gapPasses s c) := by
  unfold State.gapPasses
  repeat' (first | with_reducible assumption | (intro _; try beta_reduce)
                 | (extract_lets +onlyGivenNames t; refine Keeps.cut (t := t) ?_ ?_; subst t; rotate_left; clear_value t; revert t; intro _ _)
                 | (extract_lets +onlyGivenNames t; revert t; intro _)
                 | with_reducible apply State.setStream_keeps | with_reducible apply each_keeps
                 | with_reducible exact mk_keeps (by assumption) rfl rfl rfl rfl rfl rfl rfl rfl rfl rfl rfl rfl | with_reducible apply ite_keeps | split)

theorem State.closeColumn_keeps {b : Kept} {s0 s : State} (key : Nat) (h : Keeps b s0 s) : Keeps b s0 (State.closeColumn s key) := by
  unfold State.closeColumn
  repeat' (first | with_reducible assumption | (intro _; try beta_reduce)
                 | (extract_lets +onlyGivenNames t; refine Keeps.cut (t := t) ?_ ?_; subst t; rotate_left; clear_value t; revert t; intro _ _)
                 | (extract_lets +onlyGivenNames t; revert t; intro _) | with_reducible apply State.accountColumn_keeps | with_reducible apply State.assemble_keeps
                 | with_reducible apply State.closeCombCols_keeps | with_reducible apply State.closeGap_keeps | with_reducible apply State.dropQueued_keeps
                 | with_reducible apply State.gapPasses_keeps | with_reducible apply State.learn_keeps | with_reducible apply State.loopLate_keeps
                 | with_reducible apply State.markShort_keeps | with_reducible apply State.passClosed_keeps | with_reducible apply State.setCol_keeps
                 | with_reducible apply State.setDet_keeps | with_reducible apply State.setPlan_keeps
                 | with_reducible exact mk_keeps (by assumption) rfl rfl rfl rfl rfl rfl rfl rfl rfl rfl rfl rfl | with_reducible apply ite_keeps | split)

theorem State.cutColumn_keeps {b : Kept} {s0 s : State} (fr i : Nat) (h : Keeps b s0 s) : Keeps b s0 (State.cutColumn s fr i) := by
  unfold State.cutColumn
  repeat' (first | with_reducible assumption | (intro _; try beta_reduce)
                 | (extract_lets +onlyGivenNames t; refine Keeps.cut (t := t) ?_ ?_; subst t; rotate_left; clear_value t; revert t; intro _ _)
                 | (extract_lets +onlyGivenNames t; revert t; intro _) | with_reducible apply State.accountColumn_keeps | with_reducible apply State.dropQueued_keeps
                 | with_reducible apply State.lateShots_keeps | with_reducible apply State.markShort_keeps | with_reducible apply State.modSegPts_keeps
                 | with_reducible apply State.pushItem_keeps | with_reducible apply State.setCol_keeps | with_reducible apply State.setPlan_keeps
                 | with_reducible apply each_keeps | with_reducible apply when_keeps
                 | with_reducible exact mk_keeps (by assumption) rfl rfl rfl rfl rfl rfl rfl rfl rfl rfl rfl rfl | with_reducible apply ite_keeps | split)

theorem State.cutFrame_keeps {b : Kept} {s0 s : State} (h : Keeps b s0 s) : Keeps b s0 (State.cutFrame s) := by
  unfold State.cutFrame
  repeat' (first | with_reducible assumption | (intro _; try beta_reduce)
                 | (extract_lets +onlyGivenNames t; refine Keeps.cut (t := t) ?_ ?_; subst t; rotate_left; clear_value t; revert t; intro _ _)
                 | (extract_lets +onlyGivenNames t; revert t; intro _)
                 | with_reducible apply State.arbFrameCut_keeps | with_reducible apply State.cutColumn_keeps | with_reducible apply State.flag_keeps
                 | with_reducible apply State.inc_keeps | with_reducible apply State.moveTo_keeps | with_reducible apply State.setPlan_keeps
                 | with_reducible apply State.setRed_keeps | with_reducible apply each_keeps
                 | with_reducible exact mk_keeps (by assumption) rfl rfl rfl rfl rfl rfl rfl rfl rfl rfl rfl rfl | with_reducible apply ite_keeps | split)

theorem State.framePlan_keeps {b : Kept} {s0 s : State} (h : Keeps b s0 s) : Keeps b s0 (State.framePlan s) := by
  unfold State.framePlan
  repeat' (first | with_reducible assumption | (intro _; try beta_reduce)
                 | (extract_lets +onlyGivenNames t; refine Keeps.cut (t := t) ?_ ?_; subst t; rotate_left; clear_value t; revert t; intro _ _)
                 | (extract_lets +onlyGivenNames t; revert t; intro _)
                 | with_reducible apply State.accountColumn_keeps | with_reducible apply State.raise_keeps | with_reducible apply State.setR_keeps
                 | with_reducible apply each_keeps
                 | with_reducible exact mk_keeps (by assumption) rfl rfl rfl rfl rfl rfl rfl rfl rfl rfl rfl rfl | with_reducible apply ite_keeps | split)

theorem State.raiseLoss_keeps {b : Kept} {s0 s : State} (ch causes records bytes : Nat) (h : Keeps b s0 s) : Keeps b s0 (State.raiseLoss s ch causes records bytes) := by
  unfold State.raiseLoss
  repeat' (first | with_reducible assumption | (intro _; try beta_reduce)
                 | (extract_lets +onlyGivenNames t; refine Keeps.cut (t := t) ?_ ?_; subst t; rotate_left; clear_value t; revert t; intro _ _)
                 | (extract_lets +onlyGivenNames t; revert t; intro _)
                 | with_reducible apply State.raise_keeps
                 | with_reducible exact mk_keeps (by assumption) rfl rfl rfl rfl rfl rfl rfl rfl rfl rfl rfl rfl | with_reducible apply ite_keeps | split)

theorem State.reportLosses_keeps {b : Kept} {s0 s : State} (h : Keeps b s0 s) : Keeps b s0 (State.reportLosses s) := by
  unfold State.reportLosses
  repeat' (first | with_reducible assumption | (intro _; try beta_reduce)
                 | (extract_lets +onlyGivenNames t; refine Keeps.cut (t := t) ?_ ?_; subst t; rotate_left; clear_value t; revert t; intro _ _)
                 | (extract_lets +onlyGivenNames t; revert t; intro _)
                 | with_reducible apply State.raiseLoss_keeps | with_reducible apply State.setSub_keeps | with_reducible apply each_keeps
                 | with_reducible exact mk_keeps (by assumption) rfl rfl rfl rfl rfl rfl rfl rfl rfl rfl rfl rfl | with_reducible apply ite_keeps | split)

theorem State.swapTables_keeps {b : Kept} {s0 s : State} (plans : Bool) (h : Keeps b s0 s) : Keeps b s0 (State.swapTables s plans) := by
  unfold State.swapTables
  repeat' (first | with_reducible assumption
                 | (extract_lets +onlyGivenNames t; refine Keeps.cut (t := t) ?_ ?_; subst t; rotate_left; clear_value t; revert t; intro _ _)
                 | (extract_lets +onlyGivenNames t; revert t; intro _) | with_reducible apply State.setPlan_keeps | with_reducible apply State.swapNamed_keeps
                 | with_reducible apply State.swapPatterns_keeps | with_reducible apply State.swapPoly_keeps | with_reducible apply State.swapSlots_keeps
                 | with_reducible apply State.swapTpl_keeps | with_reducible exact mk_keeps (by assumption) rfl rfl rfl rfl rfl rfl rfl rfl rfl rfl rfl rfl
                 | with_reducible apply ite_keeps | split)

theorem State.rejoinAxes_keeps {b : Kept} {s0 s : State} (h : Keeps b s0 s) : Keeps b s0 (State.rejoinAxes s) := by
  unfold State.rejoinAxes
  repeat' (first | with_reducible assumption
                 | (extract_lets +onlyGivenNames t; refine Keeps.cut (t := t) ?_ ?_; subst t; rotate_left; clear_value t; revert t; intro _ _)
                 | (extract_lets +onlyGivenNames t; revert t; intro _) | with_reducible apply State.moveTo_keeps | with_reducible apply State.setAxis_keeps
                 | with_reducible apply State.setPlan_keeps | with_reducible exact mk_keeps (by assumption) rfl rfl rfl rfl rfl rfl rfl rfl rfl rfl rfl rfl
                 | with_reducible apply ite_keeps | split)

theorem State.loadBoundary_keeps {b : Kept} {s0 s : State} (h : Keeps b s0 s) : Keeps b s0 (State.loadBoundary s) := by
  unfold State.loadBoundary
  repeat' (first | with_reducible assumption | with_reducible apply State.fresh_keeps | with_reducible apply State.setR_keeps | with_reducible apply ite_keeps | split)

theorem State.axesBoundary_keeps {b : Kept} {s0 s : State} (h : Keeps b s0 s) : Keeps b s0 (State.axesBoundary s) := by
  unfold State.axesBoundary
  repeat' (first | with_reducible assumption | (intro _; try beta_reduce)
                 | (extract_lets +onlyGivenNames t; refine Keeps.cut (t := t) ?_ ?_; subst t; rotate_left; clear_value t; revert t; intro _ _)
                 | (extract_lets +onlyGivenNames t; revert t; intro _) | with_reducible apply State.loadBoundary_keeps | with_reducible apply State.rejoinAxes_keeps
                 | with_reducible apply State.setAxState_keeps | with_reducible apply State.setAxis_keeps | with_reducible apply State.setF_keeps
                 | with_reducible apply State.setWag_keeps | with_reducible apply each_keeps
                 | with_reducible exact mk_keeps (by assumption) rfl rfl rfl rfl rfl rfl rfl rfl rfl rfl rfl rfl | with_reducible apply ite_keeps | split)

theorem State.startSubs_keeps {b : Kept} {s0 s : State} (h : Keeps b s0 s) : Keeps b s0 (State.startSubs s) := by
  unfold State.startSubs
  repeat' (first | with_reducible assumption | (intro _; try beta_reduce)
                 | (extract_lets +onlyGivenNames t; refine Keeps.cut (t := t) ?_ ?_; subst t; rotate_left; clear_value t; revert t; intro _ _)
                 | (extract_lets +onlyGivenNames t; revert t; intro _)
                 | with_reducible apply State.setSub_keeps | with_reducible apply each_keeps
                 | with_reducible exact mk_keeps (by assumption) rfl rfl rfl rfl rfl rfl rfl rfl rfl rfl rfl rfl | with_reducible apply ite_keeps | split)

theorem State.restartStreams_keeps {b : Kept} {s0 s : State} (h : Keeps b s0 s) : Keeps b s0 (State.restartStreams s) := by
  unfold State.restartStreams
  repeat' (first | with_reducible assumption | (intro _; try beta_reduce) | with_reducible apply State.autoRestartDma_keeps | with_reducible apply each_keeps
                 | with_reducible apply ite_keeps | split)

theorem State.boundaryStates_keeps {b : Kept} {s0 s : State} (h : Keeps b s0 s) : Keeps b s0 (State.boundaryStates s) := by
  unfold State.boundaryStates
  repeat' (first | with_reducible assumption | (intro _; try beta_reduce)
                 | (extract_lets +onlyGivenNames t; refine Keeps.cut (t := t) ?_ ?_; subst t; rotate_left; clear_value t; revert t; intro _ _)
                 | (extract_lets +onlyGivenNames t; revert t; intro _) | with_reducible apply State.boundaryCmd_keeps | with_reducible apply State.returnFull_keeps
                 | with_reducible apply State.settle_keeps | with_reducible apply State.showLosses_keeps | with_reducible apply State.ssnHold_keeps
                 | with_reducible apply State.ssnRelease_keeps | with_reducible apply State.startFull_keeps | with_reducible apply State.transition_keeps
                 | with_reducible apply when_keeps | with_reducible apply ite_keeps | split)

theorem State.startLast_keeps {b : Kept} {s0 s : State} (h : Keeps b s0 s) : Keeps b s0 (State.startLast s) := by
  unfold State.startLast
  repeat' (first | with_reducible assumption | with_reducible apply State.startColumn_keeps | with_reducible apply ite_keeps | split)

theorem State.endFrame_keeps {b : Kept} {s0 s : State} (had : Bool) (h : Keeps b s0 s) : Keeps b s0 (State.endFrame s had) := by
  unfold State.endFrame
  repeat' (first | with_reducible assumption | (intro _; try beta_reduce)
                 | (extract_lets +onlyGivenNames t; refine Keeps.cut (t := t) ?_ ?_; subst t; rotate_left; clear_value t; revert t; intro _ _)
                 | (extract_lets +onlyGivenNames t; revert t; intro _) | with_reducible apply State.cutFrame_keeps | with_reducible apply State.framePlan_keeps
                 | with_reducible apply State.pushItem_keeps | with_reducible apply State.reportLosses_keeps | with_reducible apply State.setPlan_keeps
                 | with_reducible apply State.startLast_keeps | with_reducible apply when_keeps
                 | with_reducible exact mk_keeps (by assumption) rfl rfl rfl rfl rfl rfl rfl rfl rfl rfl rfl rfl | with_reducible apply ite_keeps | split)

theorem State.beginFrame_keeps {b : Kept} {s0 s : State} (had : Bool) (h : Keeps b s0 s) : Keeps b s0 (State.beginFrame s had) := by
  unfold State.beginFrame
  repeat' (first | with_reducible assumption | (intro _; try beta_reduce)
                 | (extract_lets +onlyGivenNames t; refine Keeps.cut (t := t) ?_ ?_; subst t; rotate_left; clear_value t; revert t; intro _ _)
                 | (extract_lets +onlyGivenNames t; revert t; intro _) | with_reducible apply State.axesBoundary_keeps | with_reducible apply State.hiveBoundary_keeps
                 | with_reducible apply State.resetPlan_keeps | with_reducible apply State.setPlan_keeps | with_reducible apply State.setR_keeps
                 | with_reducible exact mk_keeps (by assumption) rfl rfl rfl rfl rfl rfl rfl rfl rfl rfl rfl rfl | with_reducible apply ite_keeps | split)

theorem State.frameBoundary_keeps {b : Kept} {s0 s : State} (fly : Bool) (h : Keeps b s0 s) : Keeps b s0 (State.frameBoundary s fly) := by
  unfold State.frameBoundary
  repeat' (first | with_reducible assumption | (intro _; try beta_reduce)
                 | (extract_lets +onlyGivenNames t; refine Keeps.cut (t := t) ?_ ?_; subst t; rotate_left; clear_value t; revert t; intro _ _)
                 | (extract_lets +onlyGivenNames t; revert t; intro _)
                 | with_reducible apply State.arbBoundary_keeps | with_reducible apply State.assemble_keeps | with_reducible apply State.beginFrame_keeps
                 | with_reducible apply State.boundaryPeriod_keeps | with_reducible apply State.boundaryStates_keeps
                 | with_reducible apply State.bulkReturnAtBoundary_keeps | with_reducible apply State.countDefers_keeps
                 | with_reducible apply State.endFrame_keeps | with_reducible apply State.loopLate_keeps | with_reducible apply State.pushItem_keeps
                 | with_reducible apply State.replan_keeps | with_reducible apply State.restartStreams_keeps
                 | with_reducible apply State.retryStuck_keeps | with_reducible apply State.returnRef_keeps | with_reducible apply State.setCal_keeps
                 | with_reducible apply State.setEmit_keeps | with_reducible apply State.snapFrame_keeps | with_reducible apply State.startSubs_keeps
                 | with_reducible apply State.sunReduce_keeps | with_reducible apply State.swapTables_keeps | with_reducible apply State.syncDue_keeps
                 | with_reducible apply State.takeEffect_keeps | with_reducible apply State.wxBoundary_keeps
                 | with_reducible apply State.wxProfiles_keeps | with_reducible apply each_keeps | with_reducible apply when_keeps
                 | with_reducible exact mk_keeps (by assumption) rfl rfl rfl rfl rfl rfl rfl rfl rfl rfl rfl rfl | with_reducible apply ite_keeps | split)

theorem State.loseTile_keeps {b : Kept} {s0 s : State} (t' : Nat) (h : Keeps b s0 s) : Keeps b s0 (State.loseTile s t') := by
  unfold State.loseTile
  repeat' (first | with_reducible assumption | (intro _; try beta_reduce)
                 | (extract_lets +onlyGivenNames t; refine Keeps.cut (t := t) ?_ ?_; subst t; rotate_left; clear_value t; revert t; intro _ _)
                 | (extract_lets +onlyGivenNames t; revert t; intro _)
                 | with_reducible apply State.post_keeps | with_reducible apply State.raise_keeps | with_reducible apply State.setBit_keeps
                 | with_reducible apply State.setWlState_keeps | with_reducible apply State.settle_keeps | with_reducible apply State.settleWl_keeps
                 | with_reducible exact mk_keeps (by assumption) rfl rfl rfl rfl rfl rfl rfl rfl rfl rfl rfl rfl | with_reducible apply ite_keeps | split)

theorem State.tileMiss_keeps {b : Kept} {s0 s : State} (t' : Nat) (h : Keeps b s0 s) : Keeps b s0 (State.tileMiss s t') := by
  unfold State.tileMiss
  repeat' (first | with_reducible assumption
                 | (extract_lets +onlyGivenNames t; refine Keeps.cut (t := t) ?_ ?_; subst t; rotate_left; clear_value t; revert t; intro _ _)
                 | (extract_lets +onlyGivenNames t; revert t; intro _) | with_reducible apply State.inc_keeps | with_reducible apply State.loseTile_keeps
                 | with_reducible apply State.setEmit_keeps | with_reducible exact mk_keeps (by assumption) rfl rfl rfl rfl rfl rfl rfl rfl rfl rfl rfl rfl
                 | with_reducible apply ite_keeps | split)

theorem State.takeClaims_keeps {b : Kept} {s0 s : State} (other : Nat) (h : Keeps b s0 s) : Keeps b s0 (State.takeClaims s other) := by
  unfold State.takeClaims
  repeat' (first | with_reducible assumption
                 | (extract_lets +onlyGivenNames t; refine Keeps.cut (t := t) ?_ ?_; subst t; rotate_left; clear_value t; revert t; intro _ _)
                 | (extract_lets +onlyGivenNames t; revert t; intro _) | with_reducible apply State.flag_keeps | with_reducible apply State.setClaim_keeps
                 | with_reducible apply State.setRed_keeps | with_reducible exact mk_keeps (by assumption) rfl rfl rfl rfl rfl rfl rfl rfl rfl rfl rfl rfl
                 | with_reducible apply ite_keeps | split)

theorem State.badEntry_keeps {b : Kept} {s0 s : State} (key : Nat) (h : Keeps b s0 s) : Keeps b s0 (State.badEntry s key) := by
  unfold State.badEntry
  repeat' (first | with_reducible assumption | (intro _; try beta_reduce)
                 | (extract_lets +onlyGivenNames t; refine Keeps.cut (t := t) ?_ ?_; subst t; rotate_left; clear_value t; revert t; intro _ _)
                 | (extract_lets +onlyGivenNames t; revert t; intro _)
                 | with_reducible apply State.failPlanner_keeps | with_reducible apply State.setRed_keeps
                 | with_reducible exact mk_keeps (by assumption) rfl rfl rfl rfl rfl rfl rfl rfl rfl rfl rfl rfl | with_reducible apply ite_keeps | split)

theorem State.dropInternal_keeps {b : Kept} {s0 s : State} (n : Nat) (h : Keeps b s0 s) : Keeps b s0 (State.dropInternal s n) := by
  unfold State.dropInternal
  repeat' (first | with_reducible assumption | (intro _; try beta_reduce) | with_reducible apply State.disarm_keeps | with_reducible apply ite_keeps | split)

theorem State.markAcq_keeps {b : Kept} {s0 s : State} (key g : Nat) (h : Keeps b s0 s) : Keeps b s0 (State.markAcq s key g) := by
  unfold State.markAcq
  repeat' (first | with_reducible assumption | (intro _; try beta_reduce) | with_reducible apply State.modSegPts_keeps
                 | with_reducible exact mk_keeps (by assumption) rfl rfl rfl rfl rfl rfl rfl rfl rfl rfl rfl rfl | with_reducible apply ite_keeps | split)

theorem State.fire_keeps {b : Kept} {s0 s : State} (q : CutShot) (h : Keeps b s0 s) : Keeps b s0 (State.fire s q) := by
  unfold State.fire
  repeat' (first | with_reducible assumption | (intro _; try beta_reduce)
                 | (extract_lets +onlyGivenNames t; refine Keeps.cut (t := t) ?_ ?_; subst t; rotate_left; clear_value t; revert t; intro _ _)
                 | (extract_lets +onlyGivenNames t; revert t; intro _)
                 | with_reducible apply State.dropInternal_keeps | with_reducible apply State.markAcq_keeps | with_reducible apply State.modPt_keeps
                 | with_reducible apply State.modSeg_keeps | with_reducible apply State.openShot_keeps | with_reducible apply State.setEmit_keeps
                 | with_reducible apply each_keeps
                 | with_reducible exact mk_keeps (by assumption) rfl rfl rfl rfl rfl rfl rfl rfl rfl rfl rfl rfl | with_reducible apply ite_keeps | split)

theorem State.spuriousStart_keeps {b : Kept} {s0 s : State} (t' : Nat) (h : Keeps b s0 s) : Keeps b s0 (State.spuriousStart s t') := by
  unfold State.spuriousStart
  repeat' (first | with_reducible assumption | (intro _; try beta_reduce)
                 | (extract_lets +onlyGivenNames t; refine Keeps.cut (t := t) ?_ ?_; subst t; rotate_left; clear_value t; revert t; intro _ _)
                 | (extract_lets +onlyGivenNames t; revert t; intro _) | with_reducible apply State.segFailure_keeps | with_reducible apply State.setEmit_keeps
                 | with_reducible exact mk_keeps (by assumption) rfl rfl rfl rfl rfl rfl rfl rfl rfl rfl rfl rfl | with_reducible apply ite_keeps | split)

theorem State.internalStart_keeps {b : Kept} {s0 s : State} (t' : Nat) (readings : List (Nat × Nat)) (h : Keeps b s0 s) : Keeps b s0 (State.internalStart s t' readings) := by
  unfold State.internalStart
  repeat' (first | with_reducible assumption | (intro _; try beta_reduce)
                 | (extract_lets +onlyGivenNames t; refine Keeps.cut (t := t) ?_ ?_; subst t; rotate_left; clear_value t; revert t; intro _ _)
                 | (extract_lets +onlyGivenNames t; revert t; intro _)
                 | with_reducible apply State.openWindow_keeps | with_reducible apply State.setShots_keeps | with_reducible apply State.startShot_keeps
                 | with_reducible apply each_keeps
                 | with_reducible exact mk_keeps (by assumption) rfl rfl rfl rfl rfl rfl rfl rfl rfl rfl rfl rfl | with_reducible apply ite_keeps | split)

theorem State.startFired_keeps {b : Kept} {s0 s : State} (q : OpenShot) (readings : List (Nat × Nat)) (h : Keeps b s0 s) : Keeps b s0 (State.startFired s q readings) := by
  unfold State.startFired
  repeat' (first | with_reducible assumption | (intro _; try beta_reduce)
                 | (extract_lets +onlyGivenNames t; refine Keeps.cut (t := t) ?_ ?_; subst t; rotate_left; clear_value t; revert t; intro _ _)
                 | (extract_lets +onlyGivenNames t; revert t; intro _)
                 | with_reducible apply State.modPt_keeps | with_reducible apply State.setEmit_keeps | with_reducible apply State.setShots_keeps
                 | with_reducible apply State.startShot_keeps | with_reducible apply each_keeps
                 | with_reducible exact mk_keeps (by assumption) rfl rfl rfl rfl rfl rfl rfl rfl rfl rfl rfl rfl | with_reducible apply ite_keeps | split)

theorem State.retFailure_keeps {b : Kept} {s0 s : State} (h : Keeps b s0 s) : Keeps b s0 (State.retFailure s) := by
  unfold State.retFailure
  repeat' (first | with_reducible assumption
                 | (extract_lets +onlyGivenNames t; refine Keeps.cut (t := t) ?_ ?_; subst t; rotate_left; clear_value t; revert t; intro _ _)
                 | (extract_lets +onlyGivenNames t; revert t; intro _) | with_reducible apply State.inc_keeps | with_reducible apply State.segFailure_keeps
                 | with_reducible apply State.setEmit_keeps | with_reducible exact mk_keeps (by assumption) rfl rfl rfl rfl rfl rfl rfl rfl rfl rfl rfl rfl
                 | with_reducible apply ite_keeps | split)

theorem State.nameFault_keeps {b : Kept} {s0 s : State} (t' : Nat) (h : Keeps b s0 s) : Keeps b s0 (State.nameFault s t') := by
  unfold State.nameFault
  repeat' (first | with_reducible assumption
                 | (extract_lets +onlyGivenNames t; refine Keeps.cut (t := t) ?_ ?_; subst t; rotate_left; clear_value t; revert t; intro _ _)
                 | (extract_lets +onlyGivenNames t; revert t; intro _) | with_reducible apply State.setBit_keeps | with_reducible apply State.setEmit_keeps
                 | with_reducible apply State.setF_keeps | with_reducible exact mk_keeps (by assumption) rfl rfl rfl rfl rfl rfl rfl rfl rfl rfl rfl rfl
                 | with_reducible apply ite_keeps | split)

theorem State.tileStatus_keeps {b : Kept} {s0 s : State} (e : SentFrame) (t' : Nat) (b' : Byte) (h : Keeps b s0 s) : Keeps b s0 (State.tileStatus s e t' b') := by
  unfold State.tileStatus
  repeat' (first | with_reducible assumption | (intro _; try beta_reduce)
                 | (extract_lets +onlyGivenNames t; refine Keeps.cut (t := t) ?_ ?_; subst t; rotate_left; clear_value t; revert t; intro _ _)
                 | (extract_lets +onlyGivenNames t; revert t; intro _) | with_reducible apply State.inc_keeps | with_reducible apply State.nameFault_keeps
                 | with_reducible apply State.segFailure_keeps | with_reducible apply State.setBit_keeps | with_reducible apply State.tileMiss_keeps
                 | with_reducible apply when_keeps | with_reducible apply ite_keeps | split)

theorem State.monitorZones_keeps {b : Kept} {s0 s : State} (h : Keeps b s0 s) : Keeps b s0 (State.monitorZones s) := by
  unfold State.monitorZones
  repeat' (first | with_reducible assumption | (intro _; try beta_reduce)
                 | (extract_lets +onlyGivenNames t; refine Keeps.cut (t := t) ?_ ?_; subst t; rotate_left; clear_value t; revert t; intro _ _)
                 | (extract_lets +onlyGivenNames t; revert t; intro _) | with_reducible apply State.rampZone_keeps | with_reducible apply State.retryZone_keeps
                 | with_reducible apply each_keeps | with_reducible exact mk_keeps (by assumption) rfl rfl rfl rfl rfl rfl rfl rfl rfl rfl rfl rfl)

theorem State.takeReadings_keeps {b : Kept} {s0 s : State} (fast judge : List Nat) (h : Keeps b s0 s) : Keeps b s0 (State.takeReadings s fast judge) := by
  unfold State.takeReadings
  repeat' (first | with_reducible assumption | (intro _; try beta_reduce)
                 | (extract_lets +onlyGivenNames t; refine Keeps.cut (t := t) ?_ ?_; subst t; rotate_left; clear_value t; revert t; intro _ _)
                 | (extract_lets +onlyGivenNames t; revert t; intro _) | with_reducible apply State.checkComb_keeps | with_reducible apply State.checkOver_keeps
                 | with_reducible apply State.judge_keeps | with_reducible apply State.setR_keeps | with_reducible apply each_keeps
                 | with_reducible exact mk_keeps (by assumption) rfl rfl rfl rfl rfl rfl rfl rfl rfl rfl rfl rfl | with_reducible apply ite_keeps | split)

theorem State.monitorRtd_keeps {b : Kept} {s0 s : State} (l : List RtdReading) (h : Keeps b s0 s) : Keeps b s0 (State.monitorRtd s l) := by
  unfold State.monitorRtd
  repeat' (first | with_reducible assumption | (intro _; try beta_reduce)
                 | (extract_lets +onlyGivenNames t; refine Keeps.cut (t := t) ?_ ?_; subst t; rotate_left; clear_value t; revert t; intro _ _)
                 | (extract_lets +onlyGivenNames t; revert t; intro _)
                 | with_reducible apply State.checkRtd_keeps | with_reducible apply State.thermPolicy_keeps | with_reducible apply each_keeps
                 | with_reducible exact mk_keeps (by assumption) rfl rfl rfl rfl rfl rfl rfl rfl rfl rfl rfl rfl | with_reducible apply ite_keeps | split)

theorem State.takeChecks_keeps {b : Kept} {s0 s : State} (fast judge : List Nat) (rtd : List RtdReading) (h : Keeps b s0 s) : Keeps b s0 (State.takeChecks s fast judge rtd) := by
  unfold State.takeChecks
  repeat' (first | with_reducible assumption | (intro _; try beta_reduce)
                 | (extract_lets +onlyGivenNames t; refine Keeps.cut (t := t) ?_ ?_; subst t; rotate_left; clear_value t; revert t; intro _ _)
                 | (extract_lets +onlyGivenNames t; revert t; intro _)
                 | with_reducible apply State.monitorRtd_keeps | with_reducible apply State.takeReadings_keeps | with_reducible apply when_keeps
                 | with_reducible exact mk_keeps (by assumption) rfl rfl rfl rfl rfl rfl rfl rfl rfl rfl rfl rfl | with_reducible apply ite_keeps | split)

theorem State.monitorTick_keeps {b : Kept} {s0 s : State} (fast refBad : List Nat) (rtd : List RtdReading) (h : Keeps b s0 s) : Keeps b s0 (State.monitorTick s fast refBad rtd) := by
  unfold State.monitorTick
  repeat' (first | with_reducible assumption | (intro _; try beta_reduce)
                 | (extract_lets +onlyGivenNames t; refine Keeps.cut (t := t) ?_ ?_; subst t; rotate_left; clear_value t; revert t; intro _ _)
                 | (extract_lets +onlyGivenNames t; revert t; intro _)
                 | with_reducible apply State.checkRef_keeps | with_reducible apply State.monitorZones_keeps
                 | with_reducible apply State.refreshCombs_keeps | with_reducible apply State.runConversions_keeps
                 | with_reducible apply State.settle_keeps | with_reducible apply State.syncBlank_keeps | with_reducible apply State.takeChecks_keeps
                 | with_reducible apply State.takeEffect_keeps | with_reducible apply each_keeps | with_reducible apply when_keeps
                 | with_reducible exact mk_keeps (by assumption) rfl rfl rfl rfl rfl rfl rfl rfl rfl rfl rfl rfl | with_reducible apply ite_keeps | split)

theorem State.dmaWrite_keeps {b : Kept} {s0 s : State} (d : Desc) (w : DmaWrite) (h : Keeps b s0 s) : Keeps b s0 (State.dmaWrite s d w) := by
  unfold State.dmaWrite
  repeat' (first | with_reducible assumption | (intro _; try beta_reduce)
                 | (extract_lets +onlyGivenNames t; refine Keeps.cut (t := t) ?_ ?_; subst t; rotate_left; clear_value t; revert t; intro _ _)
                 | (extract_lets +onlyGivenNames t; revert t; intro _)
                 | with_reducible apply State.setSpaceByte_keeps | with_reducible apply each_keeps
                 | with_reducible exact mk_keeps (by assumption) rfl rfl rfl rfl rfl rfl rfl rfl rfl rfl rfl rfl | with_reducible apply ite_keeps | split)

theorem State.queueWords_keeps {b : Kept} {s0 s : State} (n sel : Nat) (l : List DmaWrite) (h : Keeps b s0 s) : Keeps b s0 (State.queueWords s n sel l) := by
  unfold State.queueWords
  repeat' (first | with_reducible assumption | (intro _; try beta_reduce)
                 | (extract_lets +onlyGivenNames t; refine Keeps.cut (t := t) ?_ ?_; subst t; rotate_left; clear_value t; revert t; intro _ _)
                 | (extract_lets +onlyGivenNames t; revert t; intro _)
                 | with_reducible apply State.setLane_keeps
                 | with_reducible exact mk_keeps (by assumption) rfl rfl rfl rfl rfl rfl rfl rfl rfl rfl rfl rfl | with_reducible apply ite_keeps | split)

theorem State.dmaMoveBytes_keeps {b : Kept} {s0 s : State} (n : Nat) (d : Desc) (count : Nat) (h : Keeps b s0 s) : Keeps b s0 (State.dmaMoveBytes s n d count) := by
  unfold State.dmaMoveBytes
  repeat' (first | with_reducible assumption | (intro _; try beta_reduce)
                 | (extract_lets +onlyGivenNames t; refine Keeps.cut (t := t) ?_ ?_; subst t; rotate_left; clear_value t; revert t; intro _ _)
                 | (extract_lets +onlyGivenNames t; revert t; intro _)
                 | with_reducible apply State.dmaWrite_keeps | with_reducible apply State.queueWords_keeps | with_reducible apply each_keeps
                 | with_reducible exact mk_keeps (by assumption) rfl rfl rfl rfl rfl rfl rfl rfl rfl rfl rfl rfl | with_reducible apply ite_keeps | split)

theorem State.dmaPartial_keeps {b : Kept} {s0 s : State} (n : Nat) (h : Keeps b s0 s) : Keeps b s0 (State.dmaPartial s n) := by
  unfold State.dmaPartial
  repeat' (first | with_reducible assumption | (intro _; try beta_reduce)
                 | (extract_lets +onlyGivenNames t; refine Keeps.cut (t := t) ?_ ?_; subst t; rotate_left; clear_value t; revert t; intro _ _)
                 | (extract_lets +onlyGivenNames t; revert t; intro _)
                 | with_reducible apply State.dmaMoveBytes_keeps | with_reducible apply State.fresh_keeps
                 | with_reducible exact mk_keeps (by assumption) rfl rfl rfl rfl rfl rfl rfl rfl rfl rfl rfl rfl | with_reducible apply ite_keeps | split)

theorem State.subscribe_keeps {b : Kept} {s0 s : State} (p : Nat) (u : Sub) (h : Keeps b s0 s) : Keeps b s0 (State.subscribe s p u).state := by
  unfold State.subscribe
  repeat' (first | with_reducible assumption | (intro _; try beta_reduce)
                 | (extract_lets +onlyGivenNames t; refine Keeps.cut (t := t) ?_ ?_; subst t; rotate_left; clear_value t; revert t; intro _ _)
                 | (extract_lets +onlyGivenNames t; revert t; intro _)
                 | with_reducible apply State.fail_keeps | with_reducible apply State.ok_keeps | with_reducible apply State.setSub_keeps
                 | with_reducible exact mk_keeps (by assumption) rfl rfl rfl rfl rfl rfl rfl rfl rfl rfl rfl rfl | with_reducible apply ite_keeps | split)

theorem State.doStreamSubscribe_keeps {b : Kept} {s0 s : State} (p : Nat) (x : QCmd) (h : Keeps b s0 s) : Keeps b s0 (State.doStreamSubscribe s p x).state := by
  unfold State.doStreamSubscribe
  repeat' (first | with_reducible assumption | with_reducible apply State.subscribe_keeps)

theorem State.unsubscribe_keeps {b : Kept} {s0 s : State} (ch : Nat) (h : Keeps b s0 s) : Keeps b s0 (State.unsubscribe s ch).state := by
  unfold State.unsubscribe
  repeat' (first | with_reducible assumption
                 | (extract_lets +onlyGivenNames t; refine Keeps.cut (t := t) ?_ ?_; subst t; rotate_left; clear_value t; revert t; intro _ _)
                 | (extract_lets +onlyGivenNames t; revert t; intro _) | with_reducible apply State.endSub_keeps | with_reducible apply State.finishMove_keeps
                 | with_reducible apply State.ok_keeps)

theorem State.doStreamUnsubscribe_keeps {b : Kept} {s0 s : State} (p : Nat) (x : QCmd) (h : Keeps b s0 s) : Keeps b s0 (State.doStreamUnsubscribe s p x).state := by
  unfold State.doStreamUnsubscribe
  repeat' (first | with_reducible assumption | with_reducible apply State.fail_keeps | with_reducible apply State.unsubscribe_keeps | with_reducible apply ite_keeps
                 | split)

theorem State.doStreamStatus_keeps {b : Kept} {s0 s : State} (p : Nat) (x : QCmd) (h : Keeps b s0 s) : Keeps b s0 (State.doStreamStatus s p x).state := by
  unfold State.doStreamStatus
  repeat' (first | with_reducible assumption
                 | (extract_lets +onlyGivenNames t; refine Keeps.cut (t := t) ?_ ?_; subst t; rotate_left; clear_value t; revert t; intro _ _)
                 | (extract_lets +onlyGivenNames t; revert t; intro _) | with_reducible apply State.fail_keeps | with_reducible apply State.ok_keeps
                 | with_reducible apply ite_keeps | split)

theorem State.dmaRestart_keeps {b : Kept} {s0 s : State} (n mode : Nat) (h : Keeps b s0 s) : Keeps b s0 (State.dmaRestart s n mode).state := by
  unfold State.dmaRestart
  repeat' (first | with_reducible assumption | (intro _; try beta_reduce)
                 | (extract_lets +onlyGivenNames t; refine Keeps.cut (t := t) ?_ ?_; subst t; rotate_left; clear_value t; revert t; intro _ _)
                 | (extract_lets +onlyGivenNames t; revert t; intro _)
                 | with_reducible apply State.fail_keeps | with_reducible apply State.ok_keeps | with_reducible apply State.restartDma_keeps
                 | with_reducible apply State.setDma_keeps
                 | with_reducible exact mk_keeps (by assumption) rfl rfl rfl rfl rfl rfl rfl rfl rfl rfl rfl rfl | with_reducible apply ite_keeps | split)

theorem State.doDmaRestart_keeps {b : Kept} {s0 s : State} (p : Nat) (x : QCmd) (h : Keeps b s0 s) : Keeps b s0 (State.doDmaRestart s p x).state := by
  unfold State.doDmaRestart
  repeat' (first | with_reducible assumption | (intro _; try beta_reduce)
                 | (extract_lets +onlyGivenNames t; refine Keeps.cut (t := t) ?_ ?_; subst t; rotate_left; clear_value t; revert t; intro _ _)
                 | (extract_lets +onlyGivenNames t; revert t; intro _)
                 | with_reducible apply State.dmaRestart_keeps | with_reducible apply State.startRunning_keeps
                 | with_reducible exact mk_keeps (by assumption) rfl rfl rfl rfl rfl rfl rfl rfl rfl rfl rfl rfl | with_reducible apply ite_keeps | split)

theorem State.dmaAppend_keeps {b : Kept} {s0 s : State} (n addr : Nat) (h : Keeps b s0 s) : Keeps b s0 (State.dmaAppend s n addr) := by
  unfold State.dmaAppend
  repeat' (first | with_reducible assumption
                 | (extract_lets +onlyGivenNames t; refine Keeps.cut (t := t) ?_ ?_; subst t; rotate_left; clear_value t; revert t; intro _ _)
                 | (extract_lets +onlyGivenNames t; revert t; intro _) | with_reducible apply State.fetchDesc_keeps | with_reducible apply State.flag_keeps
                 | with_reducible apply ite_keeps | split)

theorem State.dmaMoved_keeps {b : Kept} {s0 s : State} (n : Nat) (d : Desc) (h : Keeps b s0 s) : Keeps b s0 (State.dmaMoved s n d) := by
  unfold State.dmaMoved
  repeat' (first | with_reducible assumption | (intro _; try beta_reduce)
                 | (extract_lets +onlyGivenNames t; refine Keeps.cut (t := t) ?_ ?_; subst t; rotate_left; clear_value t; revert t; intro _ _)
                 | (extract_lets +onlyGivenNames t; revert t; intro _)
                 | with_reducible apply State.dmaMoveBytes_keeps | with_reducible apply State.loadService_keeps
                 | with_reducible apply State.movePkt_keeps | with_reducible apply State.setDma_keeps
                 | with_reducible exact mk_keeps (by assumption) rfl rfl rfl rfl rfl rfl rfl rfl rfl rfl rfl rfl | with_reducible apply ite_keeps | split)

theorem State.dropWords_keeps {b : Kept} {s0 s : State} (n : Nat) (h : Keeps b s0 s) : Keeps b s0 (State.dropWords s n) := by
  unfold State.dropWords
  repeat' (first | with_reducible assumption | (intro _; try beta_reduce)
                 | (extract_lets +onlyGivenNames t; refine Keeps.cut (t := t) ?_ ?_; subst t; rotate_left; clear_value t; revert t; intro _ _)
                 | (extract_lets +onlyGivenNames t; revert t; intro _)
                 | with_reducible apply State.setLane_keeps | with_reducible apply each_keeps
                 | with_reducible exact mk_keeps (by assumption) rfl rfl rfl rfl rfl rfl rfl rfl rfl rfl rfl rfl | with_reducible apply ite_keeps | split)

theorem State.dropLate_keeps {b : Kept} {s0 s : State} (n : Nat) (h : Keeps b s0 s) : Keeps b s0 (State.dropLate s n) := by
  unfold State.dropLate
  repeat' (first | with_reducible assumption | (intro _; try beta_reduce)
                 | (extract_lets +onlyGivenNames t; refine Keeps.cut (t := t) ?_ ?_; subst t; rotate_left; clear_value t; revert t; intro _ _)
                 | (extract_lets +onlyGivenNames t; revert t; intro _)
                 | with_reducible apply State.addLoss_keeps | with_reducible apply State.countLoss_keeps | with_reducible apply State.dropWords_keeps
                 | with_reducible apply State.seqBack_keeps | with_reducible apply State.setLane_keeps | with_reducible apply each_keeps
                 | with_reducible exact mk_keeps (by assumption) rfl rfl rfl rfl rfl rfl rfl rfl rfl rfl rfl rfl | with_reducible apply ite_keeps | split)

end Sys2Proof.Machine
end

