-- ==== Sys2Proof/Laws/KeepsH.lean ====
section
/-!
SUPPORT. Laws/KeepsH.lean: what each operation keeps (`Keeps`), for ParamRules, Param, BootOps, BootCmds, BootRows, CalCmds, CapCmds, DetRows, HealthCmds, PowerRows, RedRows, TapRows, WagRows.
-/

namespace Sys2Proof.Machine

open Sys2Proof

theorem State.countWaits_keeps {b : Kept} {s0 s : State} (h : Keeps b s0 s) : Keeps b s0 (State.countWaits s) := by
  unfold State.countWaits
  repeat' (first | with_reducible assumption | (intro _; try beta_reduce)
                 | (extract_lets +onlyGivenNames t; refine Keeps.cut (t := t) ?_ ?_; subst t; rotate_left; clear_value t; revert t; intro _ _)
                 | (extract_lets +onlyGivenNames t; revert t; intro _)
                 | with_reducible apply State.countWait_keeps | with_reducible apply each_keeps
                 | with_reducible exact mk_keeps (by assumption) rfl rfl rfl rfl rfl rfl rfl rfl rfl rfl rfl rfl | with_reducible apply ite_keeps | split)

theorem State.writeReg_keeps {b : Kept} {s0 s : State} (a : Nat) (v : Word) (p tag : Nat) (h : Keeps b s0 s) : Keeps b s0 (State.writeReg s a v p tag) := by
  unfold State.writeReg
  repeat' (first | with_reducible assumption | (intro _; try beta_reduce)
                 | (extract_lets +onlyGivenNames t; refine Keeps.cut (t := t) ?_ ?_; subst t; rotate_left; clear_value t; revert t; intro _ _)
                 | (extract_lets +onlyGivenNames t; revert t; intro _)
                 | with_reducible apply State.countWaits_keeps | with_reducible apply State.flag_keeps | with_reducible apply State.hold_keeps
                 | with_reducible apply State.written_keeps | with_reducible apply when_keeps | with_reducible apply wr_keeps
                 | with_reducible exact mk_keeps (by assumption) rfl rfl rfl rfl rfl rfl rfl rfl rfl rfl rfl rfl | with_reducible apply ite_keeps | split)

theorem State.bootWrite_keeps {b : Kept} {s0 s : State} (a : Nat) (v : Word) (h : Keeps b s0 s) : Keeps b s0 (State.bootWrite s a v) := by
  unfold State.bootWrite
  repeat' (first | with_reducible assumption
                 | (extract_lets +onlyGivenNames t; refine Keeps.cut (t := t) ?_ ?_; subst t; rotate_left; clear_value t; revert t; intro _ _)
                 | (extract_lets +onlyGivenNames t; revert t; intro _) | with_reducible apply State.writeReg_keeps | with_reducible apply wr_keeps
                 | with_reducible apply ite_keeps | split)

theorem State.paramRead_keeps {b : Kept} {s0 s : State} (p a count : Nat) (h : Keeps b s0 s) : Keeps b s0 (State.paramRead s p a count).state := by
  unfold State.paramRead
  repeat' (first | with_reducible assumption | with_reducible apply State.fail_keeps | with_reducible apply State.ok_keeps | with_reducible apply State.present_keeps
                 | with_reducible apply ite_keeps | split)

theorem State.doParamRead_keeps {b : Kept} {s0 s : State} (p : Nat) (x : QCmd) (h : Keeps b s0 s) : Keeps b s0 (State.doParamRead s p x).state := by
  unfold State.doParamRead
  repeat' (first | with_reducible assumption | with_reducible apply State.paramRead_keeps)

theorem State.writeAll_keeps {b : Kept} {s0 s : State} (p tag n a : Nat) (l : List Word) (h : Keeps b s0 s) : Keeps b s0 (State.writeAll s p tag n a l).state := by
  induction l generalizing s n a with
  | nil => exact h
  | cons v l ih =>
    unfold State.writeAll
    split
    · exact h
    · exact ih _ _ (State.writeReg_keeps _ _ _ _ h)

theorem State.paramWrite_keeps {b : Kept} {s0 s : State} (p : Nat) (x : QCmd) (h : Keeps b s0 s) : Keeps b s0 (State.paramWrite s p x).state := by
  unfold State.paramWrite
  repeat' (first | with_reducible assumption | (intro _; try beta_reduce)
                 | (extract_lets +onlyGivenNames t; refine Keeps.cut (t := t) ?_ ?_; subst t; rotate_left; clear_value t; revert t; intro _ _)
                 | (extract_lets +onlyGivenNames t; revert t; intro _)
                 | with_reducible apply State.fail_keeps | with_reducible apply State.writeAll_keeps
                 | with_reducible exact mk_keeps (by assumption) rfl rfl rfl rfl rfl rfl rfl rfl rfl rfl rfl rfl | with_reducible apply ite_keeps | split)

theorem State.doParamWrite_keeps {b : Kept} {s0 s : State} (p : Nat) (x : QCmd) (h : Keeps b s0 s) : Keeps b s0 (State.doParamWrite s p x).state := by
  unfold State.doParamWrite
  repeat' (first | with_reducible assumption | with_reducible apply State.paramWrite_keeps)

theorem State.paramModify_keeps {b : Kept} {s0 s : State} (p : Nat) (x : QCmd) (h : Keeps b s0 s) : Keeps b s0 (State.paramModify s p x).state := by
  unfold State.paramModify
  repeat' (first | with_reducible assumption | (intro _; try beta_reduce)
                 | (extract_lets +onlyGivenNames t; refine Keeps.cut (t := t) ?_ ?_; subst t; rotate_left; clear_value t; revert t; intro _ _)
                 | (extract_lets +onlyGivenNames t; revert t; intro _)
                 | with_reducible apply State.fail_keeps | with_reducible apply State.ok_keeps | with_reducible apply State.writeReg_keeps
                 | with_reducible exact mk_keeps (by assumption) rfl rfl rfl rfl rfl rfl rfl rfl rfl rfl rfl rfl | with_reducible apply ite_keeps | split)

theorem State.doParamModify_keeps {b : Kept} {s0 s : State} (p : Nat) (x : QCmd) (h : Keeps b s0 s) : Keeps b s0 (State.doParamModify s p x).state := by
  unfold State.doParamModify
  repeat' (first | with_reducible assumption | with_reducible apply State.paramModify_keeps)

theorem State.cfgApply_keeps {b : Kept} {s0 s : State} (img : List Byte) (n k : Nat) (h : Keeps b s0 s) : Keeps b s0 (State.cfgApply img n k s).1 := by
  induction n generalizing s k with
  | zero => exact h
  | succ n ih =>
    unfold State.cfgApply
    dsimp only
    split
    · exact h
    · split
      · exact ih _ h
      · split
        · exact h
        · exact ih _ (State.bootWrite_keeps _ _ h)

theorem State.doIdentify_keeps {b : Kept} {s0 s : State} (y1 : Nat) (y2 : QCmd) (h : Keeps b s0 s) : Keeps b s0 (State.doIdentify s y1 y2).state := by
  unfold State.doIdentify
  repeat' (first | with_reducible assumption | with_reducible apply State.ok_keeps)

theorem State.attest_keeps {b : Kept} {s0 s : State} (p : Nat) (nonce : List Byte) (part : Nat) (h : Keeps b s0 s) : Keeps b s0 (State.attest s p nonce part).state := by
  unfold State.attest
  repeat' (first | with_reducible assumption | (intro _; try beta_reduce)
                 | (extract_lets +onlyGivenNames t; refine Keeps.cut (t := t) ?_ ?_; subst t; rotate_left; clear_value t; revert t; intro _ _)
                 | (extract_lets +onlyGivenNames t; revert t; intro _)
                 | with_reducible apply State.fail_keeps | with_reducible apply State.ok_keeps | (with_reducible refine State.setBoot_keeps _ ?_ rfl fun _ => rfl)
                 | with_reducible exact mk_keeps (by assumption) rfl rfl rfl rfl rfl rfl rfl rfl rfl rfl rfl rfl | with_reducible apply ite_keeps | split)

theorem State.doAttest_keeps {b : Kept} {s0 s : State} (p : Nat) (x : QCmd) (h : Keeps b s0 s) : Keeps b s0 (State.doAttest s p x).state := by
  unfold State.doAttest
  repeat' (first | with_reducible assumption | with_reducible apply State.attest_keeps)

theorem State.certRead_keeps {b : Kept} {s0 s : State} (p offset length : Nat) (h : Keeps b s0 s) : Keeps b s0 (State.certRead s p offset length).state := by
  unfold State.certRead
  repeat' (first | with_reducible assumption | with_reducible apply State.fail_keeps | with_reducible apply State.ok_keeps | with_reducible apply ite_keeps | split)

theorem State.doCertRead_keeps {b : Kept} {s0 s : State} (p : Nat) (x : QCmd) (h : Keeps b s0 s) : Keeps b s0 (State.doCertRead s p x).state := by
  unfold State.doCertRead
  repeat' (first | with_reducible assumption | with_reducible apply State.certRead_keeps)

theorem State.syncUpd_keeps {b : Kept} {s0 s : State} (h : Keeps b s0 s) : Keeps b s0 (State.syncUpd s) := by
  unfold State.syncUpd
  repeat' (first | with_reducible assumption | with_reducible apply State.setR_keeps | with_reducible apply ite_keeps | split)

theorem State.setUpd_keeps {b : Kept} {s0 s : State} (u : Option Update) (h : Keeps b s0 s) : Keeps b s0 (State.setUpd s u) := by
  unfold State.setUpd
  repeat' (first | with_reducible assumption | (with_reducible refine State.setBoot_keeps _ ?_ rfl fun _ => rfl) | with_reducible apply State.syncUpd_keeps
                 | with_reducible exact mk_keeps (by assumption) rfl rfl rfl rfl rfl rfl rfl rfl rfl rfl rfl rfl)

theorem State.updateBegin_keeps {b : Kept} {s0 s : State} (kind total : Nat) (h : Keeps b s0 s) : Keeps b s0 (State.updateBegin s kind total).state := by
  unfold State.updateBegin
  repeat' (first | with_reducible assumption
                 | (extract_lets +onlyGivenNames t; refine Keeps.cut (t := t) ?_ ?_; subst t; rotate_left; clear_value t; revert t; intro _ _)
                 | (extract_lets +onlyGivenNames t; revert t; intro _) | with_reducible apply State.endUpdate_keeps | with_reducible apply State.fail_keeps
                 | with_reducible apply State.ok_keeps | (with_reducible refine State.setBoot_keeps _ ?_ rfl fun _ => rfl) | with_reducible apply State.setUpd_keeps
                 | with_reducible exact mk_keeps (by assumption) rfl rfl rfl rfl rfl rfl rfl rfl rfl rfl rfl rfl | with_reducible apply ite_keeps | split)

theorem State.doUpdateBegin_keeps {b : Kept} {s0 s : State} (y1 : Nat) (x : QCmd) (h : Keeps b s0 s) : Keeps b s0 (State.doUpdateBegin s y1 x).state := by
  unfold State.doUpdateBegin
  repeat' (first | with_reducible assumption | with_reducible apply State.updateBegin_keeps)

theorem State.updProgram_keeps {b : Kept} {s0 s : State} (u : Update) (h : Keeps b s0 s) : Keeps b s0 (State.updProgram s u) := by
  unfold State.updProgram
  repeat' (first | with_reducible assumption
                 | (extract_lets +onlyGivenNames t; refine Keeps.cut (t := t) ?_ ?_; subst t; rotate_left; clear_value t; revert t; intro _ _)
                 | (extract_lets +onlyGivenNames t; revert t; intro _) | with_reducible apply State.setFlash_keeps
                 | with_reducible exact mk_keeps (by assumption) rfl rfl rfl rfl rfl rfl rfl rfl rfl rfl rfl rfl | with_reducible apply ite_keeps | split)

theorem State.updateData_keeps {b : Kept} {s0 s : State} (offset crc : Nat) (data : List Byte) (h : Keeps b s0 s) : Keeps b s0 (State.updateData s offset crc data).state := by
  unfold State.updateData
  repeat' (first | with_reducible assumption
                 | (extract_lets +onlyGivenNames t; refine Keeps.cut (t := t) ?_ ?_; subst t; rotate_left; clear_value t; revert t; intro _ _)
                 | (extract_lets +onlyGivenNames t; revert t; intro _) | with_reducible apply State.fail_keeps | with_reducible apply State.ok_keeps
                 | with_reducible apply State.setUpd_keeps | with_reducible apply State.updProgram_keeps
                 | with_reducible exact mk_keeps (by assumption) rfl rfl rfl rfl rfl rfl rfl rfl rfl rfl rfl rfl | with_reducible apply ite_keeps | split)

theorem State.doUpdateData_keeps {b : Kept} {s0 s : State} (y1 : Nat) (x : QCmd) (h : Keeps b s0 s) : Keeps b s0 (State.doUpdateData s y1 x).state := by
  unfold State.doUpdateData
  repeat' (first | with_reducible assumption | with_reducible apply State.updateData_keeps)

theorem State.updateCommit_keeps {b : Kept} {s0 s : State} (session : Nat) (h : Keeps b s0 s) : Keeps b s0 (State.updateCommit s session).state := by
  unfold State.updateCommit
  repeat' (first | with_reducible assumption | with_reducible apply State.fail_keeps | with_reducible apply State.ok_keeps | with_reducible apply State.setUpd_keeps
                 | with_reducible exact mk_keeps (by assumption) rfl rfl rfl rfl rfl rfl rfl rfl rfl rfl rfl rfl | with_reducible apply ite_keeps | split)

theorem State.doUpdateCommit_keeps {b : Kept} {s0 s : State} (p : Nat) (x : QCmd) (h : Keeps b s0 s) : Keeps b s0 (State.doUpdateCommit s p x).state := by
  unfold State.doUpdateCommit
  repeat' (first | with_reducible assumption | (intro _; try beta_reduce) | with_reducible apply State.startRunning_keeps | with_reducible apply State.updateCommit_keeps)

theorem State.updateCheck_keeps {b : Kept} {s0 s : State} (u : Update) (h : Keeps b s0 s) : Keeps b s0 (State.updateCheck s u).1 := by
  unfold State.updateCheck
  repeat' (first | with_reducible assumption
                 | (extract_lets +onlyGivenNames t; refine Keeps.cut (t := t) ?_ ?_; subst t; rotate_left; clear_value t; revert t; intro _ _)
                 | (extract_lets +onlyGivenNames t; revert t; intro _) | with_reducible apply State.checkImage_keeps | with_reducible apply State.setBit_keeps
                 | with_reducible apply State.setFlash_keeps | with_reducible apply ite_keeps | split)

theorem State.enrollFails_keeps {b : Kept} {s0 s : State} (h : Keeps b s0 s) : Keeps b s0 (State.enrollFails s) := by
  unfold State.enrollFails
  split
  · exact h
  · refine ite_keeps h (State.finish_keeps _ _ _ (h.trans ⟨rfl, rfl, id, id, id, id, Nat.le_refl _, fun _ => rfl, fun _ y => y, fun _ _ e he => ?_, fun _ => ⟨rfl, rfl, rfl⟩⟩))
    exact nomatch he

theorem State.doOwnerKeyEnroll_keeps {b : Kept} {s0 s : State} (p : Nat) (x : QCmd) (hb : b.enroll = false) (h : Keeps b s0 s) : Keeps b s0 (State.doOwnerKeyEnroll s p x).state := by
  unfold State.doOwnerKeyEnroll
  refine State.startRunning_keeps _ _ _ _ h fun t ht => State.ok_keeps _ ?_
  refine State.setBoot_keeps _ ht ?_ ?_
  · rfl
  · exact fun hx => absurd (hb.symm.trans hx) (by decide)

theorem State.pickImage_keeps {b : Kept} {s0 s : State} (kind : Nat) (rev : Bool) (h : Keeps b s0 s) : Keeps b s0 (State.pickImage s kind rev).1 := by
  unfold State.pickImage
  repeat' (first | with_reducible assumption
                 | (extract_lets +onlyGivenNames t; refine Keeps.cut (t := t) ?_ ?_; subst t; rotate_left; clear_value t; revert t; intro _ _)
                 | (extract_lets +onlyGivenNames t; revert t; intro _) | with_reducible apply State.checkImage_keeps | with_reducible apply State.flag_keeps
                 | with_reducible apply State.setFlash_keeps | with_reducible apply ite_keeps | split)

theorem State.runFirmware_keeps {b : Kept} {s0 s : State} (k : BootPick) (h : Keeps b s0 s) : Keeps b s0 (State.runFirmware s k) := by
  unfold State.runFirmware
  repeat' (first | with_reducible assumption
                 | (extract_lets +onlyGivenNames t; refine Keeps.cut (t := t) ?_ ?_; subst t; rotate_left; clear_value t; revert t; intro _ _)
                 | (extract_lets +onlyGivenNames t; revert t; intro _) | with_reducible apply State.setBit_keeps
                 | (with_reducible refine State.setBoot_keeps _ ?_ rfl fun _ => rfl) | with_reducible apply State.setF_keeps | with_reducible apply State.setR_keeps
                 | with_reducible exact mk_keeps (by assumption) rfl rfl rfl rfl rfl rfl rfl rfl rfl rfl rfl rfl)

theorem State.runConfig_keeps {b : Kept} {s0 s : State} (k : BootPick) (hb : b.halt = false) (h : Keeps b s0 s) : Keeps b s0 (State.runConfig s k) := by
  unfold State.runConfig
  dsimp only
  refine State.setBoot_keeps _ (State.setR_keeps _ _ (State.setF_keeps _ _ _ _ (State.setR_keeps _ _ (State.setBit_keeps _ _ _ (State.setBit_keeps _ _ _
    (State.setBit_keeps _ _ _ (mk_dev_keeps _ (State.cfgApply_keeps _ _ _ (mk_dev_keeps _ h rfl fun hx => absurd (hb.symm.trans hx) (by decide))) rfl fun hx => absurd (hb.symm.trans hx) (by decide)))))))) rfl fun _ => rfl

theorem State.loadRecord_keeps {b : Kept} {s0 s : State} (h : Keeps b s0 s) : Keeps b s0 (State.loadRecord s) := by
  unfold State.loadRecord
  repeat' (first | with_reducible assumption | (intro _; try beta_reduce)
                 | (extract_lets +onlyGivenNames t; refine Keeps.cut (t := t) ?_ ?_; subst t; rotate_left; clear_value t; revert t; intro _ _)
                 | (extract_lets +onlyGivenNames t; revert t; intro _)
                 | with_reducible apply State.flag_keeps | with_reducible apply State.markCal_keeps | with_reducible apply State.setBit_keeps
                 | with_reducible apply State.setCal_keeps | with_reducible apply State.setCalEntry_keeps | with_reducible apply State.setF_keeps
                 | with_reducible apply State.syncDue_keeps | with_reducible apply State.takeEffect_keeps | with_reducible apply each_keeps
                 | with_reducible apply foldl_keeps | with_reducible apply when_keeps
                 | with_reducible exact mk_keeps (by assumption) rfl rfl rfl rfl rfl rfl rfl rfl rfl rfl rfl rfl | with_reducible apply ite_keeps | split)

theorem State.bootPlanners_keeps {b : Kept} {s0 s : State} (a b' : Bool) (h : Keeps b s0 s) : Keeps b s0 (State.bootPlanners s a b') := by
  unfold State.bootPlanners
  repeat' (first | with_reducible assumption | (intro _; try beta_reduce)
                 | (extract_lets +onlyGivenNames t; refine Keeps.cut (t := t) ?_ ?_; subst t; rotate_left; clear_value t; revert t; intro _ _)
                 | (extract_lets +onlyGivenNames t; revert t; intro _) | with_reducible apply State.ok_keeps | with_reducible apply State.setClaim_keeps
                 | with_reducible apply State.setF_keeps | with_reducible apply State.setPlanner_keeps | with_reducible apply each_keeps | with_reducible apply ite_keeps | split)

theorem State.selftest_keeps {b : Kept} {s0 s : State} (r : BootReport) (h : Keeps b s0 s) : Keeps b s0 (State.selftest s r).1 := by
  unfold State.selftest
  repeat' (first | with_reducible assumption | (intro _; try beta_reduce)
                 | (extract_lets +onlyGivenNames t; refine Keeps.cut (t := t) ?_ ?_; subst t; rotate_left; clear_value t; revert t; intro _ _)
                 | (extract_lets +onlyGivenNames t; revert t; intro _) | with_reducible apply State.bootPlanners_keeps | with_reducible apply State.endSelftest_keeps
                 | with_reducible apply State.fence_keeps | with_reducible apply each_keeps)

theorem State.bootRecorder_keeps {b : Kept} {s0 s : State} (pages : Option Nat) (h : Keeps b s0 s) : Keeps b s0 (State.bootRecorder s pages) := by
  unfold State.bootRecorder
  repeat' (first | with_reducible assumption | (intro _; try beta_reduce)
                 | (extract_lets +onlyGivenNames t; refine Keeps.cut (t := t) ?_ ?_; subst t; rotate_left; clear_value t; revert t; intro _ _)
                 | (extract_lets +onlyGivenNames t; revert t; intro _)
                 | with_reducible apply State.flag_keeps | with_reducible apply State.flushCut_keeps | with_reducible apply State.flushDone_keeps
                 | with_reducible apply State.flushTrigger_keeps | with_reducible apply State.ok_keeps | with_reducible apply State.post_keeps
                 | with_reducible apply State.setR_keeps | with_reducible apply State.startErase_keeps | with_reducible apply when_keeps
                 | with_reducible exact mk_keeps (by assumption) rfl rfl rfl rfl rfl rfl rfl rfl rfl rfl rfl rfl | with_reducible apply ite_keeps | split)

theorem State.updateDone_keeps {b : Kept} {s0 s : State} (kind : Nat) (k : BootPick) (count : Nat) (h : Keeps b s0 s) : Keeps b s0 (State.updateDone s kind k count) := by
  unfold State.updateDone
  repeat' (first | with_reducible assumption
                 | (extract_lets +onlyGivenNames t; refine Keeps.cut (t := t) ?_ ?_; subst t; rotate_left; clear_value t; revert t; intro _ _)
                 | (extract_lets +onlyGivenNames t; revert t; intro _) | with_reducible apply State.raise_keeps)

theorem State.bootStandby_keeps {b : Kept} {s0 s : State} (fw cfg : BootPick) (h : Keeps b s0 s) : Keeps b s0 (State.bootStandby s fw cfg) := by
  unfold State.bootStandby
  repeat' (first | with_reducible assumption | (intro _; try beta_reduce)
                 | (extract_lets +onlyGivenNames t; refine Keeps.cut (t := t) ?_ ?_; subst t; rotate_left; clear_value t; revert t; intro _ _)
                 | (extract_lets +onlyGivenNames t; revert t; intro _)
                 | with_reducible apply State.flag_keeps | with_reducible apply State.setBit_keeps | with_reducible apply State.setF_keeps
                 | with_reducible apply State.setFlash_keeps | with_reducible apply State.setR_keeps | with_reducible apply State.settle_keeps
                 | with_reducible apply State.transition_keeps | with_reducible apply State.updateDone_keeps | with_reducible apply when_keeps
                 | with_reducible exact mk_keeps (by assumption) rfl rfl rfl rfl rfl rfl rfl rfl rfl rfl rfl rfl | with_reducible apply ite_keeps | split)

theorem State.checkIdentity_keeps {b : Kept} {s0 s : State} (r : BootReport) (h : Keeps b s0 s) : Keeps b s0 (State.checkIdentity s r).1 := by
  unfold State.checkIdentity
  dsimp only
  split
  · exact State.setBoot_fuses_keeps _ h (Nat.le_refl _) (fun _ => rfl) (.inr rfl)
  · exact h

theorem State.bootOn_keeps {b : Kept} {s0 s : State} (r : BootReport) (revF revC : Bool) (hb : b.halt = false) (h : Keeps b s0 s) : Keeps b s0 (State.bootOn s r revF revC) := by
  unfold State.bootOn
  dsimp only
  have h1 := State.pickImage_keeps 1 revF h
  split
  · exact State.halt_keeps _ h1
  · rename_i fw _
    split
    · exact State.halt_keeps _ h1
    · have h2 := State.checkIdentity_keeps r (State.setBoot_keeps { ((s.pickImage 1 revF).1.runFirmware fw).boot with dramUp := true }
        (State.runFirmware_keeps fw h1) rfl fun _ => rfl)
      generalize State.checkIdentity _ r = ci at h2
      split
      · exact State.halt_keeps _ h2
      · have h3 := State.pickImage_keeps 2 revC h2
        split
        · exact State.halt_keeps _ h3
        · rename_i cfg _
          have h4 := State.selftest_keeps r (State.loadRecord_keeps (State.runConfig_keeps cfg hb h3))
          split
          · exact State.bootStandby_keeps _ _ (State.bootRecorder_keeps _ h4)
          · exact State.halt_keeps _ h4

theorem State.doCalibrateFull_keeps {b : Kept} {s0 s : State} (p : Nat) (x : QCmd) (h : Keeps b s0 s) : Keeps b s0 (State.doCalibrateFull s p x).state := by
  unfold State.doCalibrateFull
  repeat' (first | with_reducible assumption | with_reducible apply State.accept_keeps)

theorem State.nameComb_keeps {b : Kept} {s0 s : State} (c : Nat) (h : Keeps b s0 s) : Keeps b s0 (State.nameComb s c).state := by
  unfold State.nameComb
  repeat' (first | with_reducible assumption | (intro _; try beta_reduce)
                 | (extract_lets +onlyGivenNames t; refine Keeps.cut (t := t) ?_ ?_; subst t; rotate_left; clear_value t; revert t; intro _ _)
                 | (extract_lets +onlyGivenNames t; revert t; intro _)
                 | with_reducible apply State.fail_keeps | with_reducible apply State.ok_keeps | with_reducible apply State.setCal_keeps
                 | with_reducible apply State.syncDue_keeps
                 | with_reducible exact mk_keeps (by assumption) rfl rfl rfl rfl rfl rfl rfl rfl rfl rfl rfl rfl | with_reducible apply ite_keeps | split)

theorem State.doCalibrateComb_keeps {b : Kept} {s0 s : State} (p : Nat) (x : QCmd) (h : Keeps b s0 s) : Keeps b s0 (State.doCalibrateComb s p x).state := by
  unfold State.doCalibrateComb
  repeat' (first | with_reducible assumption | (intro _; try beta_reduce) | with_reducible apply State.nameComb_keeps | with_reducible apply State.startRunning_keeps)

theorem State.doCaptureArm_keeps {b : Kept} {s0 s : State} (y1 : Nat) (y2 : QCmd) (h : Keeps b s0 s) : Keeps b s0 (State.doCaptureArm s y1 y2).state := by
  unfold State.doCaptureArm
  repeat' (first | with_reducible assumption | with_reducible apply State.captureArm_keeps | with_reducible apply State.ok_keeps)

theorem State.doCaptureStop_keeps {b : Kept} {s0 s : State} (y1 : Nat) (y2 : QCmd) (h : Keeps b s0 s) : Keeps b s0 (State.doCaptureStop s y1 y2).state := by
  unfold State.doCaptureStop
  repeat' (first | with_reducible assumption | with_reducible apply State.captureStop_keeps | with_reducible apply State.ok_keeps | with_reducible apply ite_keeps
                 | split)

theorem State.doCaptureTrigger_keeps {b : Kept} {s0 s : State} (p : Nat) (x : QCmd) (h : Keeps b s0 s) : Keeps b s0 (State.doCaptureTrigger s p x).state := by
  unfold State.doCaptureTrigger
  repeat' (first | with_reducible assumption | with_reducible apply State.ok_keeps | with_reducible apply State.trigger_keeps)

theorem State.readCapture_keeps {b : Kept} {s0 s : State} (p slot offset length : Nat) (h : Keeps b s0 s) : Keeps b s0 (State.readCapture s p slot offset length).state := by
  unfold State.readCapture
  repeat' (first | with_reducible assumption
                 | (extract_lets +onlyGivenNames t; refine Keeps.cut (t := t) ?_ ?_; subst t; rotate_left; clear_value t; revert t; intro _ _)
                 | (extract_lets +onlyGivenNames t; revert t; intro _) | with_reducible apply State.fail_keeps | with_reducible apply State.ok_keeps
                 | with_reducible apply ite_keeps | split)

theorem State.doCaptureRead_keeps {b : Kept} {s0 s : State} (p : Nat) (x : QCmd) (h : Keeps b s0 s) : Keeps b s0 (State.doCaptureRead s p x).state := by
  unfold State.doCaptureRead
  repeat' (first | with_reducible assumption | with_reducible apply State.readCapture_keeps)

theorem State.freeCapture_keeps {b : Kept} {s0 s : State} (slot : Nat) (h : Keeps b s0 s) : Keeps b s0 (State.freeCapture s slot).state := by
  unfold State.freeCapture
  repeat' (first | with_reducible assumption | with_reducible apply State.captureFree_keeps | with_reducible apply State.fail_keeps
                 | with_reducible apply State.ok_keeps | with_reducible apply ite_keeps | split)

theorem State.doCaptureFree_keeps {b : Kept} {s0 s : State} (y1 : Nat) (x : QCmd) (h : Keeps b s0 s) : Keeps b s0 (State.doCaptureFree s y1 x).state := by
  unfold State.doCaptureFree
  repeat' (first | with_reducible assumption | with_reducible apply State.freeCapture_keeps)

theorem State.lateVerdict_keeps {b : Kept} {s0 s : State} (h : Keeps b s0 s) : Keeps b s0 (State.lateVerdict s) := by
  unfold State.lateVerdict
  repeat' (first | with_reducible assumption | with_reducible apply State.flag_keeps | with_reducible apply State.inc_keeps)

theorem State.applyVerdict_keeps {b : Kept} {s0 s : State} (v : Verdict) (h : Keeps b s0 s) : Keeps b s0 (State.applyVerdict s v) := by
  unfold State.applyVerdict
  repeat' (first | with_reducible assumption | (intro _; try beta_reduce)
                 | (extract_lets +onlyGivenNames t; refine Keeps.cut (t := t) ?_ ?_; subst t; rotate_left; clear_value t; revert t; intro _ _)
                 | (extract_lets +onlyGivenNames t; revert t; intro _)
                 | with_reducible apply State.lateVerdict_keeps | with_reducible apply State.modPt_keeps | with_reducible apply State.modSeg_keeps
                 | with_reducible apply State.reallocate_keeps | with_reducible apply each_keeps | with_reducible apply when_keeps
                 | with_reducible exact mk_keeps (by assumption) rfl rfl rfl rfl rfl rfl rfl rfl rfl rfl rfl rfl | with_reducible apply ite_keeps | split)

theorem State.doHealthRead_keeps {b : Kept} {s0 s : State} (y1 : Nat) (y2 : QCmd) (h : Keeps b s0 s) : Keeps b s0 (State.doHealthRead s y1 y2).state := by
  unfold State.doHealthRead
  repeat' (first | with_reducible assumption | with_reducible apply State.ok_keeps)

theorem State.readUnits_keeps {b : Kept} {s0 s : State} (p : Nat) (params : List Byte) (source first count : Nat) (h : Keeps b s0 s) : Keeps b s0 (State.readUnits s p params source first count).state := by
  unfold State.readUnits
  repeat' (first | with_reducible assumption | (intro _; try beta_reduce) | with_reducible apply State.fail_keeps | with_reducible apply State.ok_keeps
                 | with_reducible apply ite_keeps | split)

theorem State.doRecorderRead_keeps {b : Kept} {s0 s : State} (p : Nat) (x : QCmd) (h : Keeps b s0 s) : Keeps b s0 (State.doRecorderRead s p x).state := by
  unfold State.doRecorderRead
  repeat' (first | with_reducible assumption | with_reducible apply State.readUnits_keeps)

theorem State.commandFlush_keeps {b : Kept} {s0 s : State} (h : Keeps b s0 s) : Keeps b s0 (State.commandFlush s).state := by
  unfold State.commandFlush
  repeat' (first | with_reducible assumption | (intro _; try beta_reduce)
                 | (extract_lets +onlyGivenNames t; refine Keeps.cut (t := t) ?_ ?_; subst t; rotate_left; clear_value t; revert t; intro _ _)
                 | (extract_lets +onlyGivenNames t; revert t; intro _)
                 | with_reducible apply State.fail_keeps | with_reducible apply State.flushTrigger_keeps | with_reducible apply State.ok_keeps
                 | with_reducible apply State.setRec_keeps
                 | with_reducible exact mk_keeps (by assumption) rfl rfl rfl rfl rfl rfl rfl rfl rfl rfl rfl rfl | with_reducible apply ite_keeps | split | rfl)

theorem State.doRecorderFlush_keeps {b : Kept} {s0 s : State} (p : Nat) (x : QCmd) (h : Keeps b s0 s) : Keeps b s0 (State.doRecorderFlush s p x).state := by
  unfold State.doRecorderFlush
  repeat' (first | with_reducible assumption | (intro _; try beta_reduce) | with_reducible apply State.commandFlush_keeps | with_reducible apply State.startRunning_keeps)

theorem State.setPower_keeps {b : Kept} {s0 s : State} (x : Power) (hb : b.balls = false) (h : Keeps b s0 s) : Keeps b s0 (State.setPower s x) := by
  exact ⟨h.variant, h.pending, h.regs, h.cmds, h.queue, h.ports, h.svn, h.owner, h.halt, h.enroll, fun hx => absurd (hb.symm.trans hx) (by decide)⟩

theorem State.loseRing_keeps {b : Kept} {s0 s : State} (h : Keeps b s0 s) : Keeps b s0 (State.loseRing s) := by
  unfold State.loseRing
  repeat' (first | with_reducible assumption | (intro _; try beta_reduce) | with_reducible apply State.ok_keeps
                 | with_reducible exact mk_keeps (by assumption) rfl rfl rfl rfl rfl rfl rfl rfl rfl rfl rfl rfl)

theorem State.atReset_keeps {b : Kept} {s0 s : State} (hn : b.halt = true → s0.dev ≠ .faultHalt) (h : Keeps b s0 s) : Keeps b s0 (State.atReset s) := by
  unfold State.atReset
  refine State.syncFaultIn_keeps (State.setF_keeps _ _ _ _ ⟨h.variant, h.pending, fun _ => rfl, fun _ => Nat.zero_le _, fun _ => Nat.zero_le _, fun _ p => ?_, h.svn, h.owner,
    fun hx hd => absurd hd (hn hx), fun _ _ e he => (nomatch he), h.balls⟩)
  exact ⟨Nat.zero_le _, Nat.zero_le _, Nat.zero_le _⟩

theorem State.recordReset_keeps {b : Kept} {s0 s : State} (cause : Nat) (hn : b.halt = true → s0.dev ≠ .faultHalt) (h : Keeps b s0 s) :
    Keeps b s0 (State.recordReset s cause) := by
  unfold State.recordReset
  split
  · exact h
  · extract_lets _ t1 _ t2 t3
    have h1 : Keeps b s0 t1 := State.drainRec_keeps _ h
    clear_value t1
    have h2 : Keeps b s0 t2 := mk_dev_keeps _ h1 rfl hn
    exact when_keeps _ _ (State.writeRec_keeps _ _ _ h2) fun _ hu => State.loseRing_keeps hu

theorem State.enterReset_keeps {b : Kept} {s0 s : State} (cause : Nat) (hb : b.halt = false) (h : Keeps b s0 s) : Keeps b s0 (State.enterReset s cause) := by
  unfold State.enterReset
  extract_lets t
  have hn : b.halt = true → s0.dev ≠ .faultHalt := fun hx => absurd (hb.symm.trans hx) (by decide)
  have ht : Keeps b s0 t := State.recordReset_keeps _ hn (State.abortSave_keeps (State.abandonFlush_keeps (State.cutFuses_keeps (State.cutBoot_keeps h))))
  clear_value t
  exact State.atReset_keeps hn (mk_keeps ht rfl rfl rfl rfl rfl rfl rfl rfl rfl rfl rfl rfl)

theorem State.leaveReset_keeps {b : Kept} {s0 s : State} (flSel : Bool) (hb : b.balls = false) (hn : b.halt = true → s0.dev ≠ .faultHalt) (h : Keeps b s0 s) :
    Keeps b s0 (State.leaveReset s flSel) := by
  unfold State.leaveReset
  extract_lets t
  have ht : Keeps b s0 t := State.atReset_keeps hn h
  clear_value t
  exact State.syncRec_keeps (State.setR_keeps _ _ ⟨ht.variant, ht.pending, ht.regs, ht.cmds, ht.queue, ht.ports, ht.svn, ht.owner,
    fun hx hd => absurd hd (hn hx), ht.enroll, fun hx => absurd (hb.symm.trans hx) (by decide)⟩)

theorem State.superFault_keeps {b : Kept} {s0 s : State} (h : Keeps b s0 s) : Keeps b s0 (State.superFault s) := by
  unfold State.superFault
  repeat' (first | with_reducible assumption | with_reducible apply State.halt_keeps | with_reducible apply State.ssnHold_keeps | with_reducible apply ite_keeps | split)

theorem State.engineMemErr_keeps {b : Kept} {s0 s : State} (e : Nat) (h : Keeps b s0 s) : Keeps b s0 (State.engineMemErr s e) := by
  unfold State.engineMemErr
  repeat' (first | with_reducible assumption | with_reducible apply State.assemble_keeps | with_reducible apply State.fence_keeps
                 | with_reducible apply State.halt_keeps | with_reducible apply ite_keeps | split)

theorem State.outputMemErr_keeps {b : Kept} {s0 s : State} (ch : Nat) (h : Keeps b s0 s) : Keeps b s0 (State.outputMemErr s ch) := by
  unfold State.outputMemErr
  repeat' (first | with_reducible assumption | (intro _; try beta_reduce)
                 | (extract_lets +onlyGivenNames t; refine Keeps.cut (t := t) ?_ ?_; subst t; rotate_left; clear_value t; revert t; intro _ _)
                 | (extract_lets +onlyGivenNames t; revert t; intro _)
                 | with_reducible apply State.countLoss_keeps | with_reducible apply State.pend_keeps | with_reducible apply State.setSub_keeps
                 | with_reducible exact mk_keeps (by assumption) rfl rfl rfl rfl rfl rfl rfl rfl rfl rfl rfl rfl | with_reducible apply ite_keeps | split)

theorem State.plannerFails_keeps {b : Kept} {s0 s : State} (x cause : Nat) (h : Keeps b s0 s) : Keeps b s0 (State.plannerFails s x cause) := by
  unfold State.plannerFails
  repeat' (first | with_reducible assumption | (intro _; try beta_reduce)
                 | (extract_lets +onlyGivenNames t; refine Keeps.cut (t := t) ?_ ?_; subst t; rotate_left; clear_value t; revert t; intro _ _)
                 | (extract_lets +onlyGivenNames t; revert t; intro _)
                 | with_reducible apply State.bothFailed_keeps | with_reducible apply State.failPlanner_keeps
                 | with_reducible exact mk_keeps (by assumption) rfl rfl rfl rfl rfl rfl rfl rfl rfl rfl rfl rfl | with_reducible apply ite_keeps | split)

theorem State.memFault_keeps {b : Kept} {s0 s : State} (site : MemSite) (h : Keeps b s0 s) : Keeps b s0 (State.memFault s site) := by
  unfold State.memFault
  repeat' (first | with_reducible assumption | (intro _; try beta_reduce)
                 | (extract_lets +onlyGivenNames t; refine Keeps.cut (t := t) ?_ ?_; subst t; rotate_left; clear_value t; revert t; intro _ _)
                 | (extract_lets +onlyGivenNames t; revert t; intro _)
                 | with_reducible apply State.assemble_keeps | with_reducible apply State.badCkpt_keeps | with_reducible apply State.chainMemErr_keeps
                 | with_reducible apply State.endTrack_keeps | with_reducible apply State.engineMemErr_keeps | with_reducible apply State.flag_keeps
                 | with_reducible apply State.halt_keeps | with_reducible apply State.modHist_keeps | with_reducible apply State.outputMemErr_keeps
                 | with_reducible apply State.overtake_keeps | with_reducible apply State.plannerFails_keeps | with_reducible apply State.raise_keeps
                 | with_reducible apply State.setComb_keeps | with_reducible apply State.setEngine_keeps | with_reducible apply State.setHive_keeps
                 | with_reducible apply State.setRec_keeps
                 | with_reducible exact mk_keeps (by assumption) rfl rfl rfl rfl rfl rfl rfl rfl rfl rfl rfl rfl | with_reducible apply ite_keeps | split | rfl)

theorem State.setTap_keeps {b : Kept} {s0 s : State} (x : Tap) (hb : b.balls = false) (h : Keeps b s0 s) : Keeps b s0 (State.setTap s x) := by
  exact ⟨h.variant, h.pending, h.regs, h.cmds, h.queue, h.ports, h.svn, h.owner, h.halt, h.enroll, fun hx => absurd (hb.symm.trans hx) (by decide)⟩

theorem State.tapReset_keeps {b : Kept} {s0 s : State} (hb : b.balls = false) (h : Keeps b s0 s) : Keeps b s0 (State.tapReset s) := by
  unfold State.tapReset
  repeat' (first | with_reducible assumption | (with_reducible refine State.setTap_keeps _ (by assumption) ?_)
                 | with_reducible exact mk_keeps (by assumption) rfl rfl rfl rfl rfl rfl rfl rfl rfl rfl rfl rfl)

theorem State.tapBypass_keeps {b : Kept} {s0 s : State} (hb : b.balls = false) (h : Keeps b s0 s) : Keeps b s0 (State.tapBypass s) := by
  unfold State.tapBypass
  repeat' (first | with_reducible assumption | (with_reducible refine State.setTap_keeps _ (by assumption) ?_)
                 | with_reducible exact mk_keeps (by assumption) rfl rfl rfl rfl rfl rfl rfl rfl rfl rfl rfl rfl)

theorem State.tapBoundary_keeps {b : Kept} {s0 s : State} (i : TapInstr) (hb : b.balls = false) (h : Keeps b s0 s) : Keeps b s0 (State.tapBoundary s i) := by
  unfold State.tapBoundary
  repeat' (first | with_reducible assumption | with_reducible apply State.fresh_keeps | (with_reducible refine State.setTap_keeps _ (by assumption) ?_)
                 | (with_reducible refine State.tapBypass_keeps (by assumption) ?_)
                 | with_reducible exact mk_keeps (by assumption) rfl rfl rfl rfl rfl rfl rfl rfl rfl rfl rfl rfl | with_reducible apply ite_keeps | split)

theorem State.tapClamp_keeps {b : Kept} {s0 s : State} (i : TapInstr) (hb : b.balls = false) (h : Keeps b s0 s) : Keeps b s0 (State.tapClamp s i) := by
  unfold State.tapClamp
  repeat' (first | with_reducible assumption | (with_reducible refine State.setTap_keeps _ (by assumption) ?_)
                 | (with_reducible refine State.tapBypass_keeps (by assumption) ?_)
                 | with_reducible exact mk_keeps (by assumption) rfl rfl rfl rfl rfl rfl rfl rfl rfl rfl rfl rfl | with_reducible apply ite_keeps | split)

theorem State.parkDecision_keeps {b : Kept} {s0 s : State} (a l : Nat) (h : Keeps b s0 s) : Keeps b s0 (State.parkDecision s a l) := by
  unfold State.parkDecision
  repeat' (first | with_reducible assumption | (intro _; try beta_reduce)
                 | (extract_lets +onlyGivenNames t; refine Keeps.cut (t := t) ?_ ?_; subst t; rotate_left; clear_value t; revert t; intro _ _)
                 | (extract_lets +onlyGivenNames t; revert t; intro _)
                 | with_reducible apply State.parkAxis_keeps | with_reducible apply State.post_keeps | with_reducible apply State.raise_keeps
                 | with_reducible apply State.setBit_keeps | with_reducible apply State.setWag_keeps | with_reducible apply State.ssnHold_keeps
                 | with_reducible exact mk_keeps (by assumption) rfl rfl rfl rfl rfl rfl rfl rfl rfl rfl rfl rfl | with_reducible apply ite_keeps | split)

theorem State.releaseRamp_keeps {b : Kept} {s0 s : State} (a : Nat) (h : Keeps b s0 s) : Keeps b s0 (State.releaseRamp s a) := by
  unfold State.releaseRamp
  repeat' (first | with_reducible assumption
                 | (extract_lets +onlyGivenNames t; refine Keeps.cut (t := t) ?_ ?_; subst t; rotate_left; clear_value t; revert t; intro _ _)
                 | (extract_lets +onlyGivenNames t; revert t; intro _) | with_reducible apply State.setAxis_keeps | with_reducible apply State.syncAxis_keeps
                 | with_reducible exact mk_keeps (by assumption) rfl rfl rfl rfl rfl rfl rfl rfl rfl rfl rfl rfl | with_reducible apply ite_keeps | split)

theorem State.currentLoop_keeps {b : Kept} {s0 s : State} (a : Nat) (codes : List Int) (late : Bool) (h : Keeps b s0 s) : Keeps b s0 (State.currentLoop s a codes late) := by
  unfold State.currentLoop
  repeat' (first | with_reducible assumption | (intro _; try beta_reduce)
                 | (extract_lets +onlyGivenNames t; refine Keeps.cut (t := t) ?_ ?_; subst t; rotate_left; clear_value t; revert t; intro _ _)
                 | (extract_lets +onlyGivenNames t; revert t; intro _) | with_reducible apply State.curCompute_keeps | with_reducible apply State.invalidTick_keeps
                 | with_reducible apply State.loopTick_keeps | with_reducible apply State.parkDecision_keeps | with_reducible apply State.setAxis_keeps
                 | with_reducible apply State.startLoop_keeps | with_reducible exact mk_keeps (by assumption) rfl rfl rfl rfl rfl rfl rfl rfl rfl rfl rfl rfl
                 | with_reducible apply ite_keeps | split)

theorem State.currentTick_keeps {b : Kept} {s0 s : State} (a : Nat) (codes : List Int) (late : Bool) (h : Keeps b s0 s) : Keeps b s0 (State.currentTick s a codes late) := by
  unfold State.currentTick
  repeat' (first | with_reducible assumption | (intro _; try beta_reduce)
                 | (extract_lets +onlyGivenNames t; refine Keeps.cut (t := t) ?_ ?_; subst t; rotate_left; clear_value t; revert t; intro _ _)
                 | (extract_lets +onlyGivenNames t; revert t; intro _)
                 | with_reducible apply State.currentLoop_keeps | with_reducible apply State.manualSlew_keeps
                 | with_reducible apply State.modeChange_keeps | with_reducible apply State.releaseRamp_keeps | with_reducible apply State.setAxis_keeps
                 | with_reducible apply State.syncAxis_keeps
                 | with_reducible exact mk_keeps (by assumption) rfl rfl rfl rfl rfl rfl rfl rfl rfl rfl rfl rfl | with_reducible apply ite_keeps | split)

theorem State.holdTick_keeps {b : Kept} {s0 s : State} (a : Nat) (theta : Int) (h : Keeps b s0 s) : Keeps b s0 (State.holdTick s a theta) := by
  unfold State.holdTick
  repeat' (first | with_reducible assumption
                 | (extract_lets +onlyGivenNames t; refine Keeps.cut (t := t) ?_ ?_; subst t; rotate_left; clear_value t; revert t; intro _ _)
                 | (extract_lets +onlyGivenNames t; revert t; intro _) | with_reducible apply State.setAxis_keeps
                 | with_reducible exact mk_keeps (by assumption) rfl rfl rfl rfl rfl rfl rfl rfl rfl rfl rfl rfl | with_reducible apply ite_keeps | split)

theorem State.positionLoop_keeps {b : Kept} {s0 s : State} (a : Nat) (theta : Int) (valid late : Bool) (h : Keeps b s0 s) : Keeps b s0 (State.positionLoop s a theta valid late) := by
  unfold State.positionLoop
  repeat' (first | with_reducible assumption | (intro _; try beta_reduce)
                 | (extract_lets +onlyGivenNames t; refine Keeps.cut (t := t) ?_ ?_; subst t; rotate_left; clear_value t; revert t; intro _ _)
                 | (extract_lets +onlyGivenNames t; revert t; intro _)
                 | with_reducible apply State.holdTick_keeps | with_reducible apply State.invalidTick_keeps | with_reducible apply State.loopTick_keeps
                 | with_reducible apply State.parkDecision_keeps | with_reducible apply State.posCompute_keeps | with_reducible apply State.setAxis_keeps
                 | with_reducible apply State.startLoop_keeps | with_reducible apply State.trackError_keeps
                 | with_reducible exact mk_keeps (by assumption) rfl rfl rfl rfl rfl rfl rfl rfl rfl rfl rfl rfl | with_reducible apply ite_keeps | split)

theorem State.manualPosition_keeps {b : Kept} {s0 s : State} (a : Nat) (theta : Int) (h : Keeps b s0 s) : Keeps b s0 (State.manualPosition s a theta) := by
  unfold State.manualPosition
  repeat' (first | with_reducible assumption | (intro _; try beta_reduce)
                 | (extract_lets +onlyGivenNames t; refine Keeps.cut (t := t) ?_ ?_; subst t; rotate_left; clear_value t; revert t; intro _ _)
                 | (extract_lets +onlyGivenNames t; revert t; intro _)
                 | with_reducible apply State.setAxis_keeps | with_reducible apply State.setF_keeps
                 | with_reducible exact mk_keeps (by assumption) rfl rfl rfl rfl rfl rfl rfl rfl rfl rfl rfl rfl | with_reducible apply ite_keeps | split)

theorem State.positionTick_keeps {b : Kept} {s0 s : State} (a : Nat) (late : Bool) (h : Keeps b s0 s) : Keeps b s0 (State.positionTick s a late) := by
  unfold State.positionTick
  repeat' (first | with_reducible assumption | (intro _; try beta_reduce)
                 | (extract_lets +onlyGivenNames t; refine Keeps.cut (t := t) ?_ ?_; subst t; rotate_left; clear_value t; revert t; intro _ _)
                 | (extract_lets +onlyGivenNames t; revert t; intro _)
                 | with_reducible apply State.invalidTick_keeps | with_reducible apply State.manualPosition_keeps
                 | with_reducible apply State.parkDecision_keeps | with_reducible apply State.positionLoop_keeps
                 | with_reducible apply State.releaseAxis_keeps | with_reducible apply State.startMove_keeps | with_reducible apply when_keeps
                 | with_reducible exact mk_keeps (by assumption) rfl rfl rfl rfl rfl rfl rfl rfl rfl rfl rfl rfl | with_reducible apply ite_keeps | split)

theorem State.waggleTick_keeps {b : Kept} {s0 s : State} (xs ys : List Int) (late : List Nat) (h : Keeps b s0 s) : Keeps b s0 (State.waggleTick s xs ys late) := by
  unfold State.waggleTick
  repeat' (first | with_reducible assumption | (intro _; try beta_reduce)
                 | (extract_lets +onlyGivenNames t; refine Keeps.cut (t := t) ?_ ?_; subst t; rotate_left; clear_value t; revert t; intro _ _)
                 | (extract_lets +onlyGivenNames t; revert t; intro _) | with_reducible apply State.applyWagParams_keeps | with_reducible apply State.currentTick_keeps
                 | with_reducible apply State.heaterTick_keeps | with_reducible apply State.positionTick_keeps | with_reducible apply State.setWag_keeps
                 | with_reducible apply when_keeps | with_reducible exact mk_keeps (by assumption) rfl rfl rfl rfl rfl rfl rfl rfl rfl rfl rfl rfl)

theorem State.lpWrite_keeps {b : Kept} {s0 s : State} (bytes : List Byte) (h : Keeps b s0 s) : Keeps b s0 (State.lpWrite s bytes) := by
  unfold State.lpWrite
  repeat' (first | with_reducible assumption | (intro _; try beta_reduce)
                 | (extract_lets +onlyGivenNames t; refine Keeps.cut (t := t) ?_ ?_; subst t; rotate_left; clear_value t; revert t; intro _ _)
                 | (extract_lets +onlyGivenNames t; revert t; intro _)
                 | with_reducible apply State.arrive_keeps | with_reducible apply State.drainUnknown_keeps | with_reducible apply State.flag_keeps
                 | with_reducible apply State.inc_keeps
                 | with_reducible exact mk_keeps (by assumption) rfl rfl rfl rfl rfl rfl rfl rfl rfl rfl rfl rfl | with_reducible apply ite_keeps | split)

theorem State.lpRead_keeps {b : Kept} {s0 s : State} (n : Nat) (h : Keeps b s0 s) : Keeps b s0 (State.lpRead s n) := by
  unfold State.lpRead
  repeat' (first | with_reducible assumption | (intro _; try beta_reduce)
                 | (extract_lets +onlyGivenNames t; refine Keeps.cut (t := t) ?_ ?_; subst t; rotate_left; clear_value t; revert t; intro _ _)
                 | (extract_lets +onlyGivenNames t; revert t; intro _)
                 | with_reducible exact mk_keeps (by assumption) rfl rfl rfl rfl rfl rfl rfl rfl rfl rfl rfl rfl | with_reducible apply ite_keeps | split)

theorem State.lpReadStatus_keeps {b : Kept} {s0 s : State} (h : Keeps b s0 s) : Keeps b s0 (State.lpReadStatus s) := by
  unfold State.lpReadStatus
  repeat' (first | with_reducible assumption | (intro _; try beta_reduce)
                 | (extract_lets +onlyGivenNames t; refine Keeps.cut (t := t) ?_ ?_; subst t; rotate_left; clear_value t; revert t; intro _ _)
                 | (extract_lets +onlyGivenNames t; revert t; intro _)
                 | with_reducible exact mk_keeps (by assumption) rfl rfl rfl rfl rfl rfl rfl rfl rfl rfl rfl rfl | with_reducible apply ite_keeps | split)

theorem State.lpTransaction_keeps {b : Kept} {s0 s : State} (mosi : List Byte) (h : Keeps b s0 s) : Keeps b s0 (State.lpTransaction s mosi) := by
  unfold State.lpTransaction
  repeat' (first | with_reducible assumption | (intro _; try beta_reduce)
                 | (extract_lets +onlyGivenNames t; refine Keeps.cut (t := t) ?_ ?_; subst t; rotate_left; clear_value t; revert t; intro _ _)
                 | (extract_lets +onlyGivenNames t; revert t; intro _)
                 | with_reducible apply State.lpRead_keeps | with_reducible apply State.lpReadStatus_keeps | with_reducible apply State.lpWrite_keeps
                 | with_reducible exact mk_keeps (by assumption) rfl rfl rfl rfl rfl rfl rfl rfl rfl rfl rfl rfl | with_reducible apply ite_keeps | split)

theorem State.setScrRx_keeps {b : Kept} {s0 s : State} (l v : Nat) (h : Keeps b s0 s) : Keeps b s0 (State.setScrRx s l v) := by
  unfold State.setScrRx
  repeat' (first | with_reducible assumption | (intro _; try beta_reduce)
                 | (extract_lets +onlyGivenNames t; refine Keeps.cut (t := t) ?_ ?_; subst t; rotate_left; clear_value t; revert t; intro _ _)
                 | (extract_lets +onlyGivenNames t; revert t; intro _)
                 | with_reducible apply State.setLane_keeps
                 | with_reducible exact mk_keeps (by assumption) rfl rfl rfl rfl rfl rfl rfl rfl rfl rfl rfl rfl | with_reducible apply ite_keeps | split)

theorem State.writeLost_keeps {b : Kept} {s0 s : State} (h : Keeps b s0 s) : Keeps b s0 (State.writeLost s) := by
  unfold State.writeLost
  repeat' (first | with_reducible assumption | (intro _; try beta_reduce)
                 | (extract_lets +onlyGivenNames t; refine Keeps.cut (t := t) ?_ ?_; subst t; rotate_left; clear_value t; revert t; intro _ _)
                 | (extract_lets +onlyGivenNames t; revert t; intro _)
                 | with_reducible apply State.setRec_keeps | with_reducible apply State.writeRec_keeps
                 | with_reducible exact mk_keeps (by assumption) rfl rfl rfl rfl rfl rfl rfl rfl rfl rfl rfl rfl | with_reducible apply ite_keeps | split | rfl)

theorem State.ssnRead_keeps {b : Kept} {s0 s : State} (high : Bool) (h : Keeps b s0 s) : Keeps b s0 (State.ssnRead s high) := by
  unfold State.ssnRead
  repeat' (first | with_reducible assumption | (intro _; try beta_reduce)
                 | (extract_lets +onlyGivenNames t; refine Keeps.cut (t := t) ?_ ?_; subst t; rotate_left; clear_value t; revert t; intro _ _)
                 | (extract_lets +onlyGivenNames t; revert t; intro _)
                 | with_reducible apply State.flag_keeps | with_reducible apply State.setHealth_keeps | with_reducible apply State.setRed_keeps
                 | with_reducible exact mk_keeps (by assumption) rfl rfl rfl rfl rfl rfl rfl rfl rfl rfl rfl rfl | with_reducible apply ite_keeps | split)

theorem State.unstamp_keeps {b : Kept} {s0 s : State} (q : OpenShot) (h : Keeps b s0 s) : Keeps b s0 (State.unstamp s q) := by
  unfold State.unstamp
  repeat' (first | with_reducible assumption | (intro _; try beta_reduce)
                 | (extract_lets +onlyGivenNames t; refine Keeps.cut (t := t) ?_ ?_; subst t; rotate_left; clear_value t; revert t; intro _ _)
                 | (extract_lets +onlyGivenNames t; revert t; intro _)
                 | with_reducible apply State.modPt_keeps | with_reducible apply State.setAux_keeps | with_reducible apply State.setEmit_keeps
                 | with_reducible apply each_keeps
                 | with_reducible exact mk_keeps (by assumption) rfl rfl rfl rfl rfl rfl rfl rfl rfl rfl rfl rfl | with_reducible apply ite_keeps | split)

theorem State.dropCapture_keeps {b : Kept} {s0 s : State} (n : Nat) (h : Keeps b s0 s) : Keeps b s0 (State.dropCapture s n) := by
  unfold State.dropCapture
  repeat' (first | with_reducible assumption | (intro _; try beta_reduce)
                 | (extract_lets +onlyGivenNames t; refine Keeps.cut (t := t) ?_ ?_; subst t; rotate_left; clear_value t; revert t; intro _ _)
                 | (extract_lets +onlyGivenNames t; revert t; intro _)
                 | with_reducible apply State.capLoss_keeps | with_reducible apply State.setCap_keeps
                 | with_reducible exact mk_keeps (by assumption) rfl rfl rfl rfl rfl rfl rfl rfl rfl rfl rfl rfl | with_reducible apply ite_keeps | split)

theorem State.overflow_keeps {b : Kept} {s0 s : State} (n : Nat) (w : RxWin) (h : Keeps b s0 s) : Keeps b s0 (State.overflow s n w) := by
  unfold State.overflow
  repeat' (first | with_reducible assumption | (intro _; try beta_reduce)
                 | (extract_lets +onlyGivenNames t; refine Keeps.cut (t := t) ?_ ?_; subst t; rotate_left; clear_value t; revert t; intro _ _)
                 | (extract_lets +onlyGivenNames t; revert t; intro _)
                 | with_reducible apply State.flag_keeps | with_reducible apply State.putShot_keeps | with_reducible apply State.writeEvent_keeps
                 | with_reducible exact mk_keeps (by assumption) rfl rfl rfl rfl rfl rfl rfl rfl rfl rfl rfl rfl | with_reducible apply ite_keeps | split)

end Sys2Proof.Machine
end

