-- ==== Sys2Proof/Laws/KeepsExec.lean ====
section
/-!
SUPPORT. Laws/KeepsExec.lean: the meaning of every row answers a next state and keeps what `Keeps` says; the rows that reset the block may leave FAULT_HALT.
-/

namespace Sys2Proof.Machine

open Sys2Proof

theorem execCaptureItem_keeps {b : Kept} {s0 s : State} (fault : Fin 5) (h : Keeps b s0 s) : ∃ u, execCaptureItem fault s = .next u ∧ Keeps b s0 u := by
  refine ⟨_, rfl, ite_keeps h ?_⟩
  extract_lets t
  have ht : Keeps b s0 t := State.pullStaged_keeps _ h
  clear_value t
  split
  · exact State.capLoss_keeps _ _ _ (State.setCap_keeps _ ht)
  · exact State.takeItem_keeps _ _ (State.setCap_keeps _ ht)
  · exact State.takeItem_keeps _ _ (ite_keeps (State.setCap_keeps _ ht) (State.storeGap_keeps (State.setCap_keeps _ ht)))
  · exact ht

theorem execCaptureTimeItem_keeps {b : Kept} {s0 s : State} (h : Keeps b s0 s) : ∃ u, execCaptureTimeItem s = .next u ∧ Keeps b s0 u := by
  unfold execCaptureTimeItem
  refine ⟨_, rfl, ?_⟩
  repeat' (first | with_reducible assumption | with_reducible apply State.storeGap_keeps | with_reducible apply State.storeTime_keeps
                 | with_reducible apply ite_keeps | split)

theorem execCapturePreFull_keeps {b : Kept} {s0 s : State} (h : Keeps b s0 s) : ∃ u, execCapturePreFull s = .next u ∧ Keeps b s0 u := by
  unfold execCapturePreFull
  refine ⟨_, rfl, ?_⟩
  repeat' (first | with_reducible assumption | with_reducible apply State.setCapSt_keeps | with_reducible apply ite_keeps | split)

theorem execCapturePostFull_keeps {b : Kept} {s0 s : State} (h : Keeps b s0 s) : ∃ u, execCapturePostFull s = .next u ∧ Keeps b s0 u := by
  unfold execCapturePostFull
  refine ⟨_, rfl, ?_⟩
  repeat' (first | with_reducible assumption | with_reducible apply State.setCapSt_keeps | with_reducible apply ite_keeps | split)

theorem execCaptureClosed_keeps {b : Kept} {s0 s : State} (h : Keeps b s0 s) : ∃ u, execCaptureClosed s = .next u ∧ Keeps b s0 u := by
  unfold execCaptureClosed
  refine ⟨_, rfl, ?_⟩
  repeat' (first | with_reducible assumption | with_reducible apply State.closeSlot_keeps | with_reducible apply State.rearm_keeps | with_reducible apply ite_keeps
                 | split)

theorem execFrameSyncEdge_keeps {b : Kept} {s0 s : State} (rising : Bool) (h : Keeps b s0 s) : ∃ u, execFrameSyncEdge rising s = .next u ∧ Keeps b s0 u := by
  unfold execFrameSyncEdge
  refine ⟨_, rfl, ?_⟩
  repeat' (first | with_reducible assumption | with_reducible apply State.sourceEvent_keeps | with_reducible apply ite_keeps | split)

theorem execInternalFrameEvent_keeps {b : Kept} {s0 s : State} (h : Keeps b s0 s) : ∃ u, execInternalFrameEvent s = .next u ∧ Keeps b s0 u := by
  unfold execInternalFrameEvent
  refine ⟨_, rfl, ?_⟩
  repeat' (first | with_reducible assumption
                 | (extract_lets +onlyGivenNames t; refine Keeps.cut (t := t) ?_ ?_; subst t; rotate_left; clear_value t; revert t; intro _ _)
                 | (extract_lets +onlyGivenNames t; revert t; intro _) | with_reducible apply State.setSync_keeps | with_reducible apply State.sourceEvent_keeps
                 | with_reducible exact mk_keeps (by assumption) rfl rfl rfl rfl rfl rfl rfl rfl rfl rfl rfl rfl | with_reducible apply ite_keeps | split)

theorem execSwarmFrameTime_keeps {b : Kept} {s0 s : State} (h : Keeps b s0 s) : ∃ u, execSwarmFrameTime s = .next u ∧ Keeps b s0 u := by
  unfold execSwarmFrameTime
  refine ⟨_, rfl, ?_⟩
  repeat' (first | with_reducible assumption
                 | (extract_lets +onlyGivenNames t; refine Keeps.cut (t := t) ?_ ?_; subst t; rotate_left; clear_value t; revert t; intro _ _)
                 | (extract_lets +onlyGivenNames t; revert t; intro _) | with_reducible apply State.setSync_keeps | with_reducible apply State.sourceEvent_keeps
                 | with_reducible exact mk_keeps (by assumption) rfl rfl rfl rfl rfl rfl rfl rfl rfl rfl rfl rfl | with_reducible apply ite_keeps | split)

theorem execTimeSlewAbsorbed_keeps {b : Kept} {s0 s : State} (h : Keeps b s0 s) : ∃ u, execTimeSlewAbsorbed s = .next u ∧ Keeps b s0 u := by
  unfold execTimeSlewAbsorbed
  refine ⟨_, rfl, ?_⟩
  repeat' (first | with_reducible assumption | with_reducible exact mk_keeps (by assumption) rfl rfl rfl rfl rfl rfl rfl rfl rfl rfl rfl rfl
                 | with_reducible apply ite_keeps | split)

theorem execSwarmSlot_keeps {b : Kept} {s0 s : State} (h : Keeps b s0 s) : ∃ u, execSwarmSlot s = .next u ∧ Keeps b s0 u := by
  unfold execSwarmSlot
  refine ⟨_, rfl, ?_⟩
  repeat' (first | with_reducible assumption
                 | (extract_lets +onlyGivenNames t; refine Keeps.cut (t := t) ?_ ?_; subst t; rotate_left; clear_value t; revert t; intro _ _)
                 | (extract_lets +onlyGivenNames t; revert t; intro _) | with_reducible apply State.busSlot_keeps | with_reducible apply State.setSync_keeps
                 | with_reducible exact mk_keeps (by assumption) rfl rfl rfl rfl rfl rfl rfl rfl rfl rfl rfl rfl | with_reducible apply ite_keeps | split)

theorem execSwarmMessageRx_keeps {b : Kept} {s0 s : State} (m : SwarmMsg) (h : Keeps b s0 s) : ∃ u, execSwarmMessageRx m s = .next u ∧ Keeps b s0 u := by
  unfold execSwarmMessageRx
  refine ⟨_, rfl, ?_⟩
  repeat' (first | with_reducible assumption | (intro _; try beta_reduce)
                 | (extract_lets +onlyGivenNames t; refine Keeps.cut (t := t) ?_ ?_; subst t; rotate_left; clear_value t; revert t; intro _ _)
                 | (extract_lets +onlyGivenNames t; revert t; intro _)
                 | with_reducible apply State.flag_keeps | with_reducible apply State.followMaster_keeps | with_reducible apply State.inc_keeps
                 | with_reducible apply State.setSync_keeps | with_reducible apply State.trigger_keeps
                 | with_reducible exact mk_keeps (by assumption) rfl rfl rfl rfl rfl rfl rfl rfl rfl rfl rfl rfl | with_reducible apply ite_keeps | split)

theorem execSwarmLossTimeout_keeps {b : Kept} {s0 s : State} (h : Keeps b s0 s) : ∃ u, execSwarmLossTimeout s = .next u ∧ Keeps b s0 u := by
  unfold execSwarmLossTimeout
  refine ⟨_, rfl, ?_⟩
  repeat' (first | with_reducible assumption
                 | (extract_lets +onlyGivenNames t; refine Keeps.cut (t := t) ?_ ?_; subst t; rotate_left; clear_value t; revert t; intro _ _)
                 | (extract_lets +onlyGivenNames t; revert t; intro _) | with_reducible apply State.flag_keeps | with_reducible apply State.raise_keeps
                 | with_reducible apply State.setF_keeps | with_reducible apply State.setSync_keeps
                 | with_reducible exact mk_keeps (by assumption) rfl rfl rfl rfl rfl rfl rfl rfl rfl rfl rfl rfl | with_reducible apply ite_keeps | split)

theorem execClusterClose_keeps {b : Kept} {s0 s : State} (h : Keeps b s0 s) : ∃ u, execClusterClose s = .next u ∧ Keeps b s0 u := by
  unfold execClusterClose
  refine ⟨_, rfl, ?_⟩
  repeat' (first | with_reducible assumption | with_reducible apply State.associate_keeps | with_reducible apply State.setDet_keeps
                 | with_reducible exact mk_keeps (by assumption) rfl rfl rfl rfl rfl rfl rfl rfl rfl rfl rfl rfl | with_reducible apply ite_keeps | split)

theorem execZoneResult_keeps {b : Kept} {s0 s : State} (z : Fin 64) (h : Keeps b s0 s) : ∃ u, execZoneResult z s = .next u ∧ Keeps b s0 u := by
  unfold execZoneResult
  refine ⟨_, rfl, ?_⟩
  repeat' (first | with_reducible assumption | (intro _; try beta_reduce)
                 | (extract_lets +onlyGivenNames t; refine Keeps.cut (t := t) ?_ ?_; subst t; rotate_left; clear_value t; revert t; intro _ _)
                 | (extract_lets +onlyGivenNames t; revert t; intro _) | with_reducible apply State.applyZone_keeps | with_reducible apply State.setDet_keeps
                 | with_reducible exact mk_keeps (by assumption) rfl rfl rfl rfl rfl rfl rfl rfl rfl rfl rfl rfl | with_reducible apply ite_keeps | split)

theorem execStreamPacketFormed_keeps {b : Kept} {s0 s : State} (ch : Fin 32) (h : Keeps b s0 s) : ∃ u, execStreamPacketFormed ch s = .next u ∧ Keeps b s0 u := by
  unfold execStreamPacketFormed
  refine ⟨_, rfl, ?_⟩
  repeat' (first | with_reducible assumption
                 | (extract_lets +onlyGivenNames t; refine Keeps.cut (t := t) ?_ ?_; subst t; rotate_left; clear_value t; revert t; intro _ _)
                 | (extract_lets +onlyGivenNames t; revert t; intro _) | with_reducible apply State.pend_keeps | with_reducible apply State.placePkt_keeps
                 | with_reducible apply State.setSub_keeps | with_reducible exact mk_keeps (by assumption) rfl rfl rfl rfl rfl rfl rfl rfl rfl rfl rfl rfl
                 | with_reducible apply ite_keeps | split)

theorem execSarShotTrigger_keeps {b : Kept} {s0 s : State} (h : Keeps b s0 s) : ∃ u, execSarShotTrigger s = .next u ∧ Keeps b s0 u := by
  unfold execSarShotTrigger
  refine ⟨_, rfl, ?_⟩
  repeat' (first | with_reducible assumption | with_reducible apply State.sarTrigger_keeps | with_reducible apply State.setEmit_keeps
                 | with_reducible exact mk_keeps (by assumption) rfl rfl rfl rfl rfl rfl rfl rfl rfl rfl rfl rfl | with_reducible apply ite_keeps | split)

theorem execSarControlRequest_keeps {b : Kept} {s0 s : State} (h : Keeps b s0 s) : ∃ u, execSarControlRequest s = .next u ∧ Keeps b s0 u := by
  unfold execSarControlRequest
  refine ⟨_, rfl, ?_⟩
  repeat' (first | with_reducible assumption | (intro _; try beta_reduce)
                 | (extract_lets +onlyGivenNames t; refine Keeps.cut (t := t) ?_ ?_; subst t; rotate_left; clear_value t; revert t; intro _ _)
                 | (extract_lets +onlyGivenNames t; revert t; intro _)
                 | with_reducible apply State.setWag_keeps | with_reducible apply State.startSar_keeps
                 | with_reducible exact mk_keeps (by assumption) rfl rfl rfl rfl rfl rfl rfl rfl rfl rfl rfl rfl | with_reducible apply ite_keeps | split)

theorem execSarConversionDone_keeps {b : Kept} {s0 s : State} (mf0 mf1 mf2 mf3 : Int) (h : Keeps b s0 s) :
    ∃ u, execSarConversionDone mf0 mf1 mf2 mf3 s = .next u ∧ Keeps b s0 u := by
  refine ⟨_, rfl, ?_⟩
  split
  · exact h
  · rename_i c _
    refine ite_keeps h ?_
    extract_lets done cx cy x y angles au t1 t2 wg t3 isLate t4 t5 t6 t7 au2
    have h3 : Keeps b s0 t3 := State.setWag_keeps _ (State.setR_keeps _ _ (State.setR_keeps _ _ (State.setAux_keeps _ h)))
    have h4 : Keeps b s0 t4 := ite_keeps (State.flag_keeps _ _ (State.inc_keeps _ h3)) h3
    have h5 : Keeps b s0 t5 := each_keeps _ _ h4 fun _ _ hu => State.stampShots_keeps _ _ _ _ _ hu
    have h6 : Keeps b s0 t6 := by
      show Keeps b s0 (match c.own with | some t => t5.sampledShot t x y | none => t5)
      split
      · exact State.sampledShot_keeps _ _ _ h5
      · exact h5
    have h7 : Keeps b s0 t7 := ite_keeps (State.capOffer_keeps _ h6) h6
    clear_value au2 t7
    split
    · exact h7
    · exact State.startSar_keeps _ _ _ (State.setAux_keeps _ h7)

theorem execMaWord_keeps {b : Kept} {s0 s : State} (m : Fin 3) (v : Filtered) (h : Keeps b s0 s) : ∃ u, execMaWord m v s = .next u ∧ Keeps b s0 u := by
  unfold execMaWord
  refine ⟨_, rfl, ?_⟩
  repeat' (first | with_reducible assumption | (intro _; try beta_reduce)
                 | (extract_lets +onlyGivenNames t; refine Keeps.cut (t := t) ?_ ?_; subst t; rotate_left; clear_value t; revert t; intro _ _)
                 | (extract_lets +onlyGivenNames t; revert t; intro _)
                 | with_reducible apply State.checkRail_keeps | with_reducible apply State.flag_keeps | with_reducible apply State.publishInt_keeps
                 | with_reducible apply State.setF_keeps | with_reducible apply State.setMa_keeps
                 | with_reducible exact mk_keeps (by assumption) rfl rfl rfl rfl rfl rfl rfl rfl rfl rfl rfl rfl | with_reducible apply ite_keeps | split)

theorem execRecorderPost_keeps {b : Kept} {s0 s : State} (code : BitVec 8) (arg : BitVec 16) (h : Keeps b s0 s) : ∃ u, execRecorderPost code arg s = .next u ∧ Keeps b s0 u := by
  unfold execRecorderPost
  refine ⟨_, rfl, ?_⟩
  repeat' (first | with_reducible assumption | (intro _; try beta_reduce)
                 | (extract_lets +onlyGivenNames t; refine Keeps.cut (t := t) ?_ ?_; subst t; rotate_left; clear_value t; revert t; intro _ _)
                 | (extract_lets +onlyGivenNames t; revert t; intro _)
                 | with_reducible apply State.post_keeps | with_reducible apply State.reset_keeps
                 | with_reducible exact mk_keeps (by assumption) rfl rfl rfl rfl rfl rfl rfl rfl rfl rfl rfl rfl | with_reducible apply ite_keeps | split)

theorem execRecorderWrite_keeps {b : Kept} {s0 s : State} (h : Keeps b s0 s) : ∃ u, execRecorderWrite s = .next u ∧ Keeps b s0 u := by
  unfold execRecorderWrite
  refine ⟨_, rfl, ?_⟩
  repeat' (first | with_reducible assumption | (intro _; try beta_reduce)
                 | (extract_lets +onlyGivenNames t; refine Keeps.cut (t := t) ?_ ?_; subst t; rotate_left; clear_value t; revert t; intro _ _)
                 | (extract_lets +onlyGivenNames t; revert t; intro _)
                 | with_reducible apply State.recWriter_keeps | with_reducible apply State.reset_keeps
                 | with_reducible exact mk_keeps (by assumption) rfl rfl rfl rfl rfl rfl rfl rfl rfl rfl rfl rfl | with_reducible apply ite_keeps | split)

theorem execTimeHighChange_keeps {b : Kept} {s0 s : State} (h : Keeps b s0 s) : ∃ u, execTimeHighChange s = .next u ∧ Keeps b s0 u := by
  unfold execTimeHighChange
  refine ⟨_, rfl, ?_⟩
  repeat' (first | with_reducible assumption | (intro _; try beta_reduce)
                 | (extract_lets +onlyGivenNames t; refine Keeps.cut (t := t) ?_ ?_; subst t; rotate_left; clear_value t; revert t; intro _ _)
                 | (extract_lets +onlyGivenNames t; revert t; intro _)
                 | with_reducible apply State.reset_keeps | with_reducible apply State.writeHigh_keeps | with_reducible apply State.writeLost_keeps
                 | with_reducible apply when_keeps
                 | with_reducible exact mk_keeps (by assumption) rfl rfl rfl rfl rfl rfl rfl rfl rfl rfl rfl rfl | with_reducible apply ite_keeps | split)

theorem execRecorderFlushDone_keeps {b : Kept} {s0 s : State} (h : Keeps b s0 s) : ∃ u, execRecorderFlushDone s = .next u ∧ Keeps b s0 u := by
  unfold execRecorderFlushDone
  refine ⟨_, rfl, ?_⟩
  repeat' (first | with_reducible assumption | with_reducible apply State.flushDone_keeps | with_reducible apply ite_keeps | split)

theorem execRecorderFlushBudget_keeps {b : Kept} {s0 s : State} (pages : Nat) (h : Keeps b s0 s) : ∃ u, execRecorderFlushBudget pages s = .next u ∧ Keeps b s0 u := by
  unfold execRecorderFlushBudget
  refine ⟨_, rfl, ?_⟩
  repeat' (first | with_reducible assumption | with_reducible apply State.flushCut_keeps | with_reducible apply ite_keeps | split)

theorem execRecorderEraseDone_keeps {b : Kept} {s0 s : State} (h : Keeps b s0 s) : ∃ u, execRecorderEraseDone s = .next u ∧ Keeps b s0 u := by
  unfold execRecorderEraseDone
  refine ⟨_, rfl, ?_⟩
  repeat' (first | with_reducible assumption | (with_reducible refine State.setRec_keeps _ ?_ rfl) | with_reducible apply State.setRecSlot_keeps
                 | with_reducible apply State.syncRec_keeps | with_reducible exact mk_keeps (by assumption) rfl rfl rfl rfl rfl rfl rfl rfl rfl rfl rfl rfl
                 | with_reducible apply ite_keeps | split)

theorem execArbBackoffExpiry_keeps {b : Kept} {s0 s : State} (i : Fin 24) (h : Keeps b s0 s) : ∃ u, execArbBackoffExpiry i s = .next u ∧ Keeps b s0 u := by
  unfold execArbBackoffExpiry
  refine ⟨_, rfl, ?_⟩
  repeat' (first | with_reducible assumption
                 | (extract_lets +onlyGivenNames t; refine Keeps.cut (t := t) ?_ ?_; subst t; rotate_left; clear_value t; revert t; intro _ _)
                 | (extract_lets +onlyGivenNames t; revert t; intro _) | with_reducible apply State.setStream_keeps
                 | with_reducible exact mk_keeps (by assumption) rfl rfl rfl rfl rfl rfl rfl rfl rfl rfl rfl rfl | with_reducible apply ite_keeps | split)

theorem execPairSwitchDelay_keeps {b : Kept} {s0 s : State} (l : Fin 4) (h : Keeps b s0 s) : ∃ u, execPairSwitchDelay l s = .next u ∧ Keeps b s0 u := by
  unfold execPairSwitchDelay
  refine ⟨_, rfl, ?_⟩
  repeat' (first | with_reducible assumption
                 | (extract_lets +onlyGivenNames t; refine Keeps.cut (t := t) ?_ ?_; subst t; rotate_left; clear_value t; revert t; intro _ _)
                 | (extract_lets +onlyGivenNames t; revert t; intro _) | with_reducible apply State.pairFail_keeps | with_reducible apply ite_keeps | split)

theorem execPairRejoin_keeps {b : Kept} {s0 s : State} (l : Fin 4) (h : Keeps b s0 s) : ∃ u, execPairRejoin l s = .next u ∧ Keeps b s0 u := by
  unfold execPairRejoin
  refine ⟨_, rfl, ?_⟩
  repeat' (first | with_reducible assumption
                 | (extract_lets +onlyGivenNames t; refine Keeps.cut (t := t) ?_ ?_; subst t; rotate_left; clear_value t; revert t; intro _ _)
                 | (extract_lets +onlyGivenNames t; revert t; intro _) | with_reducible apply State.setBit_keeps | with_reducible apply State.snapshotTo_keeps
                 | with_reducible apply State.syncSingle_keeps | with_reducible apply ite_keeps | split)

theorem execCommandArrival_keeps {b : Kept} {s0 s : State} (opcode : BitVec 16) (c : Cmd) (h : Keeps b s0 s) : ∃ u, execCommandArrival opcode c s = .next u ∧ Keeps b s0 u := by
  unfold execCommandArrival
  refine ⟨_, rfl, ?_⟩
  repeat' (first | with_reducible assumption
                 | (extract_lets +onlyGivenNames t; refine Keeps.cut (t := t) ?_ ?_; subst t; rotate_left; clear_value t; revert t; intro _ _)
                 | (extract_lets +onlyGivenNames t; revert t; intro _) | with_reducible apply State.arrive_keeps | with_reducible apply State.drainUnknown_keeps
                 | with_reducible apply ite_keeps | split)

theorem execLpWritePacket_keeps {b : Kept} {s0 s : State} (bytes : List Byte) (h : Keeps b s0 s) : ∃ u, execLpWritePacket bytes s = .next u ∧ Keeps b s0 u := by
  unfold execLpWritePacket
  refine ⟨_, rfl, ?_⟩
  repeat' (first | with_reducible assumption | (intro _; try beta_reduce)
                 | (extract_lets +onlyGivenNames t; refine Keeps.cut (t := t) ?_ ?_; subst t; rotate_left; clear_value t; revert t; intro _ _)
                 | (extract_lets +onlyGivenNames t; revert t; intro _)
                 | with_reducible apply State.lpTransaction_keeps
                 | with_reducible exact mk_keeps (by assumption) rfl rfl rfl rfl rfl rfl rfl rfl rfl rfl rfl rfl | with_reducible apply ite_keeps | split)

theorem execLpReadPacket_keeps {b : Kept} {s0 s : State} (n : Nat) (h : Keeps b s0 s) : ∃ u, execLpReadPacket n s = .next u ∧ Keeps b s0 u := by
  unfold execLpReadPacket
  refine ⟨_, rfl, ?_⟩
  repeat' (first | with_reducible assumption | (intro _; try beta_reduce)
                 | (extract_lets +onlyGivenNames t; refine Keeps.cut (t := t) ?_ ?_; subst t; rotate_left; clear_value t; revert t; intro _ _)
                 | (extract_lets +onlyGivenNames t; revert t; intro _)
                 | with_reducible apply State.lpTransaction_keeps
                 | with_reducible exact mk_keeps (by assumption) rfl rfl rfl rfl rfl rfl rfl rfl rfl rfl rfl rfl | with_reducible apply ite_keeps | split)

theorem execLpReadStatus_keeps {b : Kept} {s0 s : State} (h : Keeps b s0 s) : ∃ u, execLpReadStatus s = .next u ∧ Keeps b s0 u := by
  unfold execLpReadStatus
  refine ⟨_, rfl, ?_⟩
  repeat' (first | with_reducible assumption | (intro _; try beta_reduce)
                 | (extract_lets +onlyGivenNames t; refine Keeps.cut (t := t) ?_ ?_; subst t; rotate_left; clear_value t; revert t; intro _ _)
                 | (extract_lets +onlyGivenNames t; revert t; intro _)
                 | with_reducible apply State.lpTransaction_keeps
                 | with_reducible exact mk_keeps (by assumption) rfl rfl rfl rfl rfl rfl rfl rfl rfl rfl rfl rfl | with_reducible apply ite_keeps | split)

theorem execLpCsRelease_keeps {b : Kept} {s0 s : State} (h : Keeps b s0 s) : ∃ u, execLpCsRelease s = .next u ∧ Keeps b s0 u := by
  unfold execLpCsRelease
  refine ⟨_, rfl, ?_⟩
  repeat' (first | with_reducible assumption | with_reducible apply State.owedRetrains_keeps | with_reducible apply State.popOut_keeps
                 | with_reducible exact mk_keeps (by assumption) rfl rfl rfl rfl rfl rfl rfl rfl rfl rfl rfl rfl | with_reducible apply ite_keeps | split)

theorem execNop_keeps {b : Kept} {s0 s : State} (c : Cmd) (h : Keeps b s0 s) : ∃ u, execNop c s = .next u ∧ Keeps b s0 u := by
  unfold execNop State.runCommand
  exact ⟨_, rfl, State.command_keeps _ _ _ h fun _ _ _ ht => State.doNop_keeps _ _ ht⟩

theorem execEventConfig_keeps {b : Kept} {s0 s : State} (c : Cmd) (h : Keeps b s0 s) : ∃ u, execEventConfig c s = .next u ∧ Keeps b s0 u := by
  unfold execEventConfig State.runCommand
  exact ⟨_, rfl, State.command_keeps _ _ _ h fun _ _ _ ht => State.doEventConfig_keeps _ _ ht⟩

theorem execOwnerClaim_keeps {b : Kept} {s0 s : State} (c : Cmd) (h : Keeps b s0 s) : ∃ u, execOwnerClaim c s = .next u ∧ Keeps b s0 u := by
  unfold execOwnerClaim State.runCommand
  exact ⟨_, rfl, State.command_keeps _ _ _ h fun _ _ _ ht => State.doOwnerClaim_keeps _ _ ht⟩

theorem execOwnerRelease_keeps {b : Kept} {s0 s : State} (c : Cmd) (h : Keeps b s0 s) : ∃ u, execOwnerRelease c s = .next u ∧ Keeps b s0 u := by
  unfold execOwnerRelease State.runCommand
  exact ⟨_, rfl, State.command_keeps _ _ _ h fun _ _ _ ht => State.doOwnerRelease_keeps _ _ ht⟩

theorem execArm_keeps {b : Kept} {s0 s : State} (c : Cmd) (h : Keeps b s0 s) : ∃ u, execArm c s = .next u ∧ Keeps b s0 u := by
  unfold execArm State.runCommand
  exact ⟨_, rfl, State.command_keeps _ _ _ h fun _ _ _ ht => State.doArm_keeps _ _ ht⟩

theorem execDisarm_keeps {b : Kept} {s0 s : State} (c : Cmd) (h : Keeps b s0 s) : ∃ u, execDisarm c s = .next u ∧ Keeps b s0 u := by
  unfold execDisarm State.runCommand
  exact ⟨_, rfl, State.command_keeps _ _ _ h fun _ _ _ ht => State.doDisarm_keeps _ _ ht⟩

theorem execStartSensing_keeps {b : Kept} {s0 s : State} (c : Cmd) (h : Keeps b s0 s) : ∃ u, execStartSensing c s = .next u ∧ Keeps b s0 u := by
  unfold execStartSensing State.runCommand
  exact ⟨_, rfl, State.command_keeps _ _ _ h fun _ _ _ ht => State.doStartSensing_keeps _ _ ht⟩

theorem execStopSensing_keeps {b : Kept} {s0 s : State} (c : Cmd) (h : Keeps b s0 s) : ∃ u, execStopSensing c s = .next u ∧ Keeps b s0 u := by
  unfold execStopSensing State.runCommand
  exact ⟨_, rfl, State.command_keeps _ _ _ h fun _ _ _ ht => State.doStopSensing_keeps _ _ ht⟩

theorem execForceSafe_keeps {b : Kept} {s0 s : State} (c : Cmd) (h : Keeps b s0 s) : ∃ u, execForceSafe c s = .next u ∧ Keeps b s0 u := by
  unfold execForceSafe State.runCommand
  exact ⟨_, rfl, State.command_keeps _ _ _ h fun _ _ _ ht => State.doForceSafe_keeps _ _ ht⟩

theorem execRecover_keeps {b : Kept} {s0 s : State} (c : Cmd) (h : Keeps b s0 s) : ∃ u, execRecover c s = .next u ∧ Keeps b s0 u := by
  unfold execRecover State.runCommand
  exact ⟨_, rfl, State.command_keeps _ _ _ h fun _ _ _ ht => State.doRecover_keeps _ _ ht⟩

theorem execResetDevice_keeps {b : Kept} {s0 s : State} (c : Cmd) (h : Keeps b s0 s) : ∃ u, execResetDevice c s = .next u ∧ Keeps b s0 u := by
  unfold execResetDevice State.runCommand
  exact ⟨_, rfl, State.command_keeps _ _ _ h fun _ _ _ ht => State.doResetDevice_keeps _ _ ht⟩

theorem execSyncTime_keeps {b : Kept} {s0 s : State} (c : Cmd) (h : Keeps b s0 s) : ∃ u, execSyncTime c s = .next u ∧ Keeps b s0 u := by
  unfold execSyncTime State.runCommand
  exact ⟨_, rfl, State.command_keeps _ _ _ h fun _ _ _ ht => State.doSyncTime_keeps _ _ ht⟩

theorem execRegionRequest_keeps {b : Kept} {s0 s : State} (c : Cmd) (h : Keeps b s0 s) : ∃ u, execRegionRequest c s = .next u ∧ Keeps b s0 u := by
  unfold execRegionRequest State.runCommand
  exact ⟨_, rfl, State.command_keeps _ _ _ h fun _ _ _ ht => State.doRegionRequest_keeps _ _ ht⟩

theorem execRegionCancel_keeps {b : Kept} {s0 s : State} (c : Cmd) (h : Keeps b s0 s) : ∃ u, execRegionCancel c s = .next u ∧ Keeps b s0 u := by
  unfold execRegionCancel State.runCommand
  exact ⟨_, rfl, State.command_keeps _ _ _ h fun _ _ _ ht => State.doRegionCancel_keeps _ _ ht⟩

theorem execRegionPriority_keeps {b : Kept} {s0 s : State} (c : Cmd) (h : Keeps b s0 s) : ∃ u, execRegionPriority c s = .next u ∧ Keeps b s0 u := by
  unfold execRegionPriority State.runCommand
  exact ⟨_, rfl, State.command_keeps _ _ _ h fun _ _ _ ht => State.doRegionPriority_keeps _ _ ht⟩

theorem execCombCalStart_keeps {b : Kept} {s0 s : State} (h : Keeps b s0 s) : ∃ u, execCombCalStart s = .next u ∧ Keeps b s0 u := by
  unfold execCombCalStart
  refine ⟨_, rfl, ?_⟩
  repeat' (first | with_reducible assumption | with_reducible apply State.startRun_keeps | with_reducible apply ite_keeps | split)

theorem execCombCalDone_keeps {b : Kept} {s0 s : State} (k : CombCal) (h : Keeps b s0 s) : ∃ u, execCombCalDone k s = .next u ∧ Keeps b s0 u := by
  unfold execCombCalDone
  refine ⟨_, rfl, ?_⟩
  repeat' (first | with_reducible assumption | (intro _; try beta_reduce)
                 | (extract_lets +onlyGivenNames t; refine Keeps.cut (t := t) ?_ ?_; subst t; rotate_left; clear_value t; revert t; intro _ _)
                 | (extract_lets +onlyGivenNames t; revert t; intro _)
                 | with_reducible apply State.applyRun_keeps | with_reducible apply State.calDirty_keeps | with_reducible apply State.calEvent_keeps
                 | with_reducible apply State.endRun_keeps | with_reducible apply State.finish_keeps | with_reducible apply State.flag_keeps
                 | with_reducible apply State.judgeTiming_keeps | with_reducible apply State.noteInl_keeps | with_reducible apply State.setCal_keeps
                 | with_reducible apply State.settle_keeps | with_reducible apply State.syncDue_keeps | with_reducible apply when_keeps
                 | with_reducible exact mk_keeps (by assumption) rfl rfl rfl rfl rfl rfl rfl rfl rfl rfl rfl rfl | with_reducible apply ite_keeps | split)

theorem execFullCalMeasureDone_keeps {b : Kept} {s0 s : State} (k : FullCal) (h : Keeps b s0 s) : ∃ u, execFullCalMeasureDone k s = .next u ∧ Keeps b s0 u := by
  unfold execFullCalMeasureDone
  refine ⟨_, rfl, ?_⟩
  repeat' (first | with_reducible assumption | with_reducible apply State.setCal_keeps
                 | with_reducible exact mk_keeps (by assumption) rfl rfl rfl rfl rfl rfl rfl rfl rfl rfl rfl rfl | with_reducible apply ite_keeps | split)

theorem execCalAutoSave_keeps {b : Kept} {s0 s : State} (h : Keeps b s0 s) : ∃ u, execCalAutoSave s = .next u ∧ Keeps b s0 u := by
  unfold execCalAutoSave
  refine ⟨_, rfl, ?_⟩
  repeat' (first | with_reducible assumption | with_reducible apply State.startSave_keeps | with_reducible apply ite_keeps | split)

theorem execCalSaveDone_keeps {b : Kept} {s0 s : State} (good0 good1 : Bool) (h : Keeps b s0 s) : ∃ u, execCalSaveDone good0 good1 s = .next u ∧ Keeps b s0 u := by
  unfold execCalSaveDone
  refine ⟨_, rfl, ?_⟩
  repeat' (first | with_reducible assumption | (intro _; try beta_reduce)
                 | (extract_lets +onlyGivenNames t; refine Keeps.cut (t := t) ?_ ?_; subst t; rotate_left; clear_value t; revert t; intro _ _)
                 | (extract_lets +onlyGivenNames t; revert t; intro _)
                 | with_reducible apply State.finish_keeps | with_reducible apply State.flag_keeps | with_reducible apply State.putCopy_keeps
                 | with_reducible apply State.setBit_keeps | with_reducible apply State.setCal_keeps | with_reducible apply State.setF_keeps
                 | with_reducible apply State.startErase_keeps | with_reducible apply when_keeps
                 | with_reducible exact mk_keeps (by assumption) rfl rfl rfl rfl rfl rfl rfl rfl rfl rfl rfl rfl | with_reducible apply ite_keeps | split)

theorem execHousekeepingWord_keeps {b : Kept} {s0 s : State} (v : Int) (refOff : Bool) (h : Keeps b s0 s) : ∃ u, execHousekeepingWord v refOff s = .next u ∧ Keeps b s0 u := by
  unfold execHousekeepingWord
  refine ⟨_, rfl, ?_⟩
  repeat' (first | with_reducible assumption
                 | (extract_lets +onlyGivenNames t; refine Keeps.cut (t := t) ?_ ?_; subst t; rotate_left; clear_value t; revert t; intro _ _)
                 | (extract_lets +onlyGivenNames t; revert t; intro _) | with_reducible apply State.dieResult_keeps | with_reducible apply State.hkPublish_keeps
                 | with_reducible apply State.thermPolicy_keeps | with_reducible apply ite_keeps | split)

theorem execRtdPhaseDone_keeps {b : Kept} {s0 s : State} (v : Filtered) (i : Nat) (h : Keeps b s0 s) : ∃ u, execRtdPhaseDone v i s = .next u ∧ Keeps b s0 u := by
  unfold execRtdPhaseDone
  refine ⟨_, rfl, ?_⟩
  repeat' (first | with_reducible assumption | (intro _; try beta_reduce)
                 | (extract_lets +onlyGivenNames t; refine Keeps.cut (t := t) ?_ ?_; subst t; rotate_left; clear_value t; revert t; intro _ _)
                 | (extract_lets +onlyGivenNames t; revert t; intro _)
                 | with_reducible apply State.compensate_keeps | with_reducible apply State.rtdPhase_keeps | with_reducible apply State.thermPolicy_keeps
                 | with_reducible exact mk_keeps (by assumption) rfl rfl rfl rfl rfl rfl rfl rfl rfl rfl rfl rfl | with_reducible apply ite_keeps | split)

theorem execThermalTrip_keeps {b : Kept} {s0 s : State} (i : Fin 26) (h : Keeps b s0 s) : ∃ u, execThermalTrip i s = .next u ∧ Keeps b s0 u := by
  unfold execThermalTrip
  refine ⟨_, rfl, ?_⟩
  repeat' (first | with_reducible assumption | (intro _; try beta_reduce)
                 | (extract_lets +onlyGivenNames t; refine Keeps.cut (t := t) ?_ ?_; subst t; rotate_left; clear_value t; revert t; intro _ _)
                 | (extract_lets +onlyGivenNames t; revert t; intro _)
                 | with_reducible apply State.hardShut_keeps | with_reducible apply State.reset_keeps
                 | with_reducible exact mk_keeps (by assumption) rfl rfl rfl rfl rfl rfl rfl rfl rfl rfl rfl rfl | with_reducible apply ite_keeps | split)

theorem execSctWrite_keeps {b : Kept} {s0 s : State} (c : Cmd) (h : Keeps b s0 s) : ∃ u, execSctWrite c s = .next u ∧ Keeps b s0 u := by
  unfold execSctWrite State.runCommand
  exact ⟨_, rfl, State.command_keeps _ _ _ h fun _ _ _ ht => State.doSctWrite_keeps _ _ ht⟩

theorem execSctCommit_keeps {b : Kept} {s0 s : State} (c : Cmd) (h : Keeps b s0 s) : ∃ u, execSctCommit c s = .next u ∧ Keeps b s0 u := by
  unfold execSctCommit State.runCommand
  exact ⟨_, rfl, State.command_keeps _ _ _ h fun _ _ _ ht => State.doSctCommit_keeps _ _ ht⟩

theorem execSctRead_keeps {b : Kept} {s0 s : State} (c : Cmd) (h : Keeps b s0 s) : ∃ u, execSctRead c s = .next u ∧ Keeps b s0 u := by
  unfold execSctRead State.runCommand
  exact ⟨_, rfl, State.command_keeps _ _ _ h fun _ _ _ ht => State.doSctRead_keeps _ _ ht⟩

theorem execTrackWrite_keeps {b : Kept} {s0 s : State} (c : Cmd) (h : Keeps b s0 s) : ∃ u, execTrackWrite c s = .next u ∧ Keeps b s0 u := by
  unfold execTrackWrite State.runCommand
  exact ⟨_, rfl, State.command_keeps _ _ _ h fun _ _ _ ht => State.doTrackWrite_keeps _ _ ht⟩

theorem execTrackRead_keeps {b : Kept} {s0 s : State} (c : Cmd) (h : Keeps b s0 s) : ∃ u, execTrackRead c s = .next u ∧ Keeps b s0 u := by
  unfold execTrackRead State.runCommand
  exact ⟨_, rfl, State.command_keeps _ _ _ h fun _ _ _ ht => State.doTrackRead_keeps _ _ ht⟩

theorem execZoneWrite_keeps {b : Kept} {s0 s : State} (c : Cmd) (h : Keeps b s0 s) : ∃ u, execZoneWrite c s = .next u ∧ Keeps b s0 u := by
  unfold execZoneWrite State.runCommand
  exact ⟨_, rfl, State.command_keeps _ _ _ h fun _ _ _ ht => State.doZoneWrite_keeps _ _ ht⟩

theorem execZoneCommit_keeps {b : Kept} {s0 s : State} (c : Cmd) (h : Keeps b s0 s) : ∃ u, execZoneCommit c s = .next u ∧ Keeps b s0 u := by
  unfold execZoneCommit State.runCommand
  exact ⟨_, rfl, State.command_keeps _ _ _ h fun _ _ _ ht => State.doZoneCommit_keeps _ _ ht⟩

theorem execZoneRead_keeps {b : Kept} {s0 s : State} (c : Cmd) (h : Keeps b s0 s) : ∃ u, execZoneRead c s = .next u ∧ Keeps b s0 u := by
  unfold execZoneRead State.runCommand
  exact ⟨_, rfl, State.command_keeps _ _ _ h fun _ _ _ ht => State.doZoneRead_keeps _ _ ht⟩

theorem execTemplateWrite_keeps {b : Kept} {s0 s : State} (c : Cmd) (h : Keeps b s0 s) : ∃ u, execTemplateWrite c s = .next u ∧ Keeps b s0 u := by
  unfold execTemplateWrite State.runCommand
  exact ⟨_, rfl, State.command_keeps _ _ _ h fun _ _ _ ht => State.doTemplateWrite_keeps _ _ ht⟩

theorem execTemplateCommit_keeps {b : Kept} {s0 s : State} (c : Cmd) (h : Keeps b s0 s) : ∃ u, execTemplateCommit c s = .next u ∧ Keeps b s0 u := by
  unfold execTemplateCommit State.runCommand
  exact ⟨_, rfl, State.command_keeps _ _ _ h fun _ _ _ ht => State.doTemplateCommit_keeps _ _ ht⟩

theorem execTemplateRead_keeps {b : Kept} {s0 s : State} (c : Cmd) (h : Keeps b s0 s) : ∃ u, execTemplateRead c s = .next u ∧ Keeps b s0 u := by
  unfold execTemplateRead State.runCommand
  exact ⟨_, rfl, State.command_keeps _ _ _ h fun _ _ _ ht => State.doTemplateRead_keeps _ _ ht⟩

theorem execCalRead_keeps {b : Kept} {s0 s : State} (c : Cmd) (h : Keeps b s0 s) : ∃ u, execCalRead c s = .next u ∧ Keeps b s0 u := by
  unfold execCalRead State.runCommand
  exact ⟨_, rfl, State.command_keeps _ _ _ h fun _ _ _ ht => State.doCalRead_keeps _ _ ht⟩

theorem execCalWrite_keeps {b : Kept} {s0 s : State} (c : Cmd) (h : Keeps b s0 s) : ∃ u, execCalWrite c s = .next u ∧ Keeps b s0 u := by
  unfold execCalWrite State.runCommand
  exact ⟨_, rfl, State.command_keeps _ _ _ h fun _ _ _ ht => State.doCalWrite_keeps _ _ ht⟩

theorem execCalSave_keeps {b : Kept} {s0 s : State} (c : Cmd) (h : Keeps b s0 s) : ∃ u, execCalSave c s = .next u ∧ Keeps b s0 u := by
  unfold execCalSave State.runCommand
  exact ⟨_, rfl, State.command_keeps _ _ _ h fun _ _ _ ht => State.doCalSave_keeps _ _ ht⟩

theorem execLaneGroupTx_keeps {b : Kept} {s0 s : State} (l : Fin 4) (h : Keeps b s0 s) : ∃ u, execLaneGroupTx l s = .next u ∧ Keeps b s0 u := by
  unfold execLaneGroupTx
  refine ⟨_, rfl, ?_⟩
  repeat' (first | with_reducible assumption | with_reducible apply State.groupTx_keeps | with_reducible apply State.owedRetrains_keeps)

theorem execLaneGroupRx_keeps {b : Kept} {s0 s : State} (l : Fin 4) (units : List Nat) (h : Keeps b s0 s) : ∃ u, execLaneGroupRx l units s = .next u ∧ Keeps b s0 u := by
  unfold execLaneGroupRx
  refine ⟨_, rfl, ?_⟩
  repeat' (first | with_reducible assumption | (intro _; try beta_reduce)
                 | (extract_lets +onlyGivenNames t; refine Keeps.cut (t := t) ?_ ?_; subst t; rotate_left; clear_value t; revert t; intro _ _)
                 | (extract_lets +onlyGivenNames t; revert t; intro _)
                 | with_reducible apply State.groupRx_keeps | with_reducible apply State.setScrRx_keeps
                 | with_reducible exact mk_keeps (by assumption) rfl rfl rfl rfl rfl rfl rfl rfl rfl rfl rfl rfl | with_reducible apply ite_keeps | split)

theorem execReplayTimeout_keeps {b : Kept} {s0 s : State} (l : Fin 4) (h : Keeps b s0 s) : ∃ u, execReplayTimeout l s = .next u ∧ Keeps b s0 u := by
  unfold execReplayTimeout
  refine ⟨_, rfl, ?_⟩
  repeat' (first | with_reducible assumption | (intro _; try beta_reduce)
                 | (extract_lets +onlyGivenNames t; refine Keeps.cut (t := t) ?_ ?_; subst t; rotate_left; clear_value t; revert t; intro _ _)
                 | (extract_lets +onlyGivenNames t; revert t; intro _)
                 | with_reducible apply State.setLane_keeps
                 | with_reducible exact mk_keeps (by assumption) rfl rfl rfl rfl rfl rfl rfl rfl rfl rfl rfl rfl | with_reducible apply ite_keeps | split)

theorem execLaneSignal_keeps {b : Kept} {s0 s : State} (l : Fin 4) (h : Keeps b s0 s) : ∃ u, execLaneSignal l s = .next u ∧ Keeps b s0 u := by
  unfold execLaneSignal
  refine ⟨_, rfl, ?_⟩
  repeat' (first | with_reducible assumption
                 | (extract_lets +onlyGivenNames t; refine Keeps.cut (t := t) ?_ ?_; subst t; rotate_left; clear_value t; revert t; intro _ _)
                 | (extract_lets +onlyGivenNames t; revert t; intro _) | with_reducible apply State.setLane_keeps | with_reducible apply State.startLane_keeps
                 | with_reducible exact mk_keeps (by assumption) rfl rfl rfl rfl rfl rfl rfl rfl rfl rfl rfl rfl | with_reducible apply ite_keeps | split)

theorem execLaneCommaLock_keeps {b : Kept} {s0 s : State} (l : Fin 4) (h : Keeps b s0 s) : ∃ u, execLaneCommaLock l s = .next u ∧ Keeps b s0 u := by
  unfold execLaneCommaLock
  refine ⟨_, rfl, ?_⟩
  repeat' (first | with_reducible assumption | (intro _; try beta_reduce)
                 | (extract_lets +onlyGivenNames t; refine Keeps.cut (t := t) ?_ ?_; subst t; rotate_left; clear_value t; revert t; intro _ _)
                 | (extract_lets +onlyGivenNames t; revert t; intro _)
                 | with_reducible apply State.setLane_keeps | with_reducible apply State.setLaneSt_keeps
                 | with_reducible exact mk_keeps (by assumption) rfl rfl rfl rfl rfl rfl rfl rfl rfl rfl rfl rfl | with_reducible apply ite_keeps | split)

theorem execLaneCommaLoss_keeps {b : Kept} {s0 s : State} (l : Fin 4) (h : Keeps b s0 s) : ∃ u, execLaneCommaLoss l s = .next u ∧ Keeps b s0 u := by
  unfold execLaneCommaLoss
  refine ⟨_, rfl, ?_⟩
  repeat' (first | with_reducible assumption | (intro _; try beta_reduce)
                 | (extract_lets +onlyGivenNames t; refine Keeps.cut (t := t) ?_ ?_; subst t; rotate_left; clear_value t; revert t; intro _ _)
                 | (extract_lets +onlyGivenNames t; revert t; intro _)
                 | with_reducible apply State.retrain_keeps | with_reducible apply State.setLane_keeps
                 | with_reducible exact mk_keeps (by assumption) rfl rfl rfl rfl rfl rfl rfl rfl rfl rfl rfl rfl | with_reducible apply ite_keeps | split)

theorem execLaneTrainDone_keeps {b : Kept} {s0 s : State} (l : Fin 4) (h : Keeps b s0 s) : ∃ u, execLaneTrainDone l s = .next u ∧ Keeps b s0 u := by
  unfold execLaneTrainDone
  refine ⟨_, rfl, ?_⟩
  repeat' (first | with_reducible assumption | (intro _; try beta_reduce)
                 | (extract_lets +onlyGivenNames t; refine Keeps.cut (t := t) ?_ ?_; subst t; rotate_left; clear_value t; revert t; intro _ _)
                 | (extract_lets +onlyGivenNames t; revert t; intro _)
                 | with_reducible apply State.setLane_keeps | with_reducible apply State.setLaneSt_keeps
                 | with_reducible exact mk_keeps (by assumption) rfl rfl rfl rfl rfl rfl rfl rfl rfl rfl rfl rfl | with_reducible apply ite_keeps | split)

theorem execLaneRateSwitch_keeps {b : Kept} {s0 s : State} (l : Fin 4) (h : Keeps b s0 s) : ∃ u, execLaneRateSwitch l s = .next u ∧ Keeps b s0 u := by
  unfold execLaneRateSwitch
  refine ⟨_, rfl, ?_⟩
  repeat' (first | with_reducible assumption | (intro _; try beta_reduce)
                 | (extract_lets +onlyGivenNames t; refine Keeps.cut (t := t) ?_ ?_; subst t; rotate_left; clear_value t; revert t; intro _ _)
                 | (extract_lets +onlyGivenNames t; revert t; intro _)
                 | with_reducible apply State.setF_keeps | with_reducible apply State.setLane_keeps
                 | with_reducible exact mk_keeps (by assumption) rfl rfl rfl rfl rfl rfl rfl rfl rfl rfl rfl rfl | with_reducible apply ite_keeps | split)

theorem execLaneEqDone_keeps {b : Kept} {s0 s : State} (l : Fin 4) (eyes : List EyeReading) (ctle preset : Nat) (peerOk : Bool) (h : Keeps b s0 s) : ∃ u, execLaneEqDone l eyes ctle preset peerOk s = .next u ∧ Keeps b s0 u := by
  unfold execLaneEqDone
  refine ⟨_, rfl, ?_⟩
  repeat' (first | with_reducible assumption | (intro _; try beta_reduce)
                 | (extract_lets +onlyGivenNames t; refine Keeps.cut (t := t) ?_ ?_; subst t; rotate_left; clear_value t; revert t; intro _ _)
                 | (extract_lets +onlyGivenNames t; revert t; intro _)
                 | with_reducible apply State.setF_keeps | with_reducible apply State.setLane_keeps | with_reducible apply State.setLaneSt_keeps
                 | with_reducible apply foldl_keeps
                 | with_reducible exact mk_keeps (by assumption) rfl rfl rfl rfl rfl rfl rfl rfl rfl rfl rfl rfl | with_reducible apply ite_keeps | split)

theorem execLaneUp_keeps {b : Kept} {s0 s : State} (l : Fin 4) (h : Keeps b s0 s) : ∃ u, execLaneUp l s = .next u ∧ Keeps b s0 u := by
  unfold execLaneUp
  refine ⟨_, rfl, ?_⟩
  repeat' (first | with_reducible assumption | (intro _; try beta_reduce)
                 | (extract_lets +onlyGivenNames t; refine Keeps.cut (t := t) ?_ ?_; subst t; rotate_left; clear_value t; revert t; intro _ _)
                 | (extract_lets +onlyGivenNames t; revert t; intro _)
                 | with_reducible apply State.laneFound_keeps | with_reducible apply State.pairLaneUp_keeps | with_reducible apply State.raise_keeps
                 | with_reducible apply State.sequenceReset_keeps | with_reducible apply State.setBit_keeps | with_reducible apply State.setF_keeps
                 | with_reducible apply State.setLane_keeps | with_reducible apply State.setLaneSt_keeps
                 | with_reducible exact mk_keeps (by assumption) rfl rfl rfl rfl rfl rfl rfl rfl rfl rfl rfl rfl | with_reducible apply ite_keeps | split)

theorem execRetrainTimeout_keeps {b : Kept} {s0 s : State} (l : Fin 4) (h : Keeps b s0 s) : ∃ u, execRetrainTimeout l s = .next u ∧ Keeps b s0 u := by
  unfold execRetrainTimeout
  refine ⟨_, rfl, ?_⟩
  repeat' (first | with_reducible assumption | with_reducible apply State.fullBringUp_keeps | with_reducible apply ite_keeps | split)

theorem execEyeUpdate_keeps {b : Kept} {s0 s : State} (l : Fin 4) (eye : EyeReading) (h : Keeps b s0 s) : ∃ u, execEyeUpdate l eye s = .next u ∧ Keeps b s0 u := by
  unfold execEyeUpdate
  refine ⟨_, rfl, ?_⟩
  repeat' (first | with_reducible assumption | (intro _; try beta_reduce)
                 | (extract_lets +onlyGivenNames t; refine Keeps.cut (t := t) ?_ ?_; subst t; rotate_left; clear_value t; revert t; intro _ _)
                 | (extract_lets +onlyGivenNames t; revert t; intro _)
                 | with_reducible apply State.flag_keeps | with_reducible apply State.raise_keeps | with_reducible apply State.setF_keeps
                 | with_reducible apply State.setLane_keeps
                 | with_reducible exact mk_keeps (by assumption) rfl rfl rfl rfl rfl rfl rfl rfl rfl rfl rfl rfl | with_reducible apply ite_keeps | split)

theorem execLaneLossTimeout_keeps {b : Kept} {s0 s : State} (l : Fin 4) (h : Keeps b s0 s) : ∃ u, execLaneLossTimeout l s = .next u ∧ Keeps b s0 u := by
  unfold execLaneLossTimeout
  refine ⟨_, rfl, ?_⟩
  repeat' (first | with_reducible assumption | with_reducible apply State.laneLost_keeps | with_reducible apply ite_keeps | split)

theorem execDozeIdleTimeout_keeps {b : Kept} {s0 s : State} (l : Fin 4) (h : Keeps b s0 s) : ∃ u, execDozeIdleTimeout l s = .next u ∧ Keeps b s0 u := by
  unfold execDozeIdleTimeout
  refine ⟨_, rfl, ?_⟩
  repeat' (first | with_reducible assumption
                 | (extract_lets +onlyGivenNames t; refine Keeps.cut (t := t) ?_ ?_; subst t; rotate_left; clear_value t; revert t; intro _ _)
                 | (extract_lets +onlyGivenNames t; revert t; intro _) | with_reducible apply State.setLane_keeps
                 | with_reducible exact mk_keeps (by assumption) rfl rfl rfl rfl rfl rfl rfl rfl rfl rfl rfl rfl | with_reducible apply ite_keeps | split)

theorem execLaneWakeDone_keeps {b : Kept} {s0 s : State} (l : Fin 4) (h : Keeps b s0 s) : ∃ u, execLaneWakeDone l s = .next u ∧ Keeps b s0 u := by
  unfold execLaneWakeDone
  refine ⟨_, rfl, ?_⟩
  repeat' (first | with_reducible assumption | (intro _; try beta_reduce)
                 | (extract_lets +onlyGivenNames t; refine Keeps.cut (t := t) ?_ ?_; subst t; rotate_left; clear_value t; revert t; intro _ _)
                 | (extract_lets +onlyGivenNames t; revert t; intro _)
                 | with_reducible apply State.setF_keeps | with_reducible apply State.setLane_keeps
                 | with_reducible exact mk_keeps (by assumption) rfl rfl rfl rfl rfl rfl rfl rfl rfl rfl rfl rfl | with_reducible apply ite_keeps | split)

theorem execReceiverWakeLock_keeps {b : Kept} {s0 s : State} (l : Fin 4) (h : Keeps b s0 s) : ∃ u, execReceiverWakeLock l s = .next u ∧ Keeps b s0 u := by
  unfold execReceiverWakeLock
  refine ⟨_, rfl, ?_⟩
  repeat' (first | with_reducible assumption | with_reducible apply State.setF_keeps | with_reducible apply ite_keeps | split)

theorem execClockWindow_keeps {b : Kept} {s0 s : State} (ref xtal : Nat) (badCombs badPlanners : List Nat) (h : Keeps b s0 s) : ∃ u, execClockWindow ref xtal badCombs badPlanners s = .next u ∧ Keeps b s0 u := by
  refine ⟨_, rfl, ite_keeps h ?_⟩
  extract_lets td t1 need wasRef wasXtal was r x t2 t3 t4 t5 t6 t7 t8 bad t9
  have h1 : Keeps b s0 t1 := mk_keeps h rfl rfl rfl rfl rfl rfl rfl rfl rfl rfl rfl rfl
  have h4 : Keeps b s0 t4 := State.setBit_keeps _ _ _ (State.setBit_keeps _ _ _ (State.noteBootClock_keeps (State.setClk_keeps _ h1)))
  have h6 : Keeps b s0 t6 := when_keeps _ _ (when_keeps _ _ h4 fun _ hu => State.post_keeps _ _ (State.flag_keeps _ _ hu)) fun _ hu =>
    State.raise_keeps _ _ _ (State.post_keeps _ _ (State.flag_keeps _ _ hu))
  have h7 : Keeps b s0 t7 := ite_keeps (State.chooseSource_keeps _ h6) (ite_keeps (State.returnRef_keeps h6) h6)
  have h8 : Keeps b s0 t8 := each_keeps _ _ h7 fun _ _ hu => State.combClock_keeps _ _ hu
  exact State.settle_keeps (each_keeps _ _ h8 fun _ _ hu => State.plannerFails_keeps _ _ hu)

theorem execRefclkPresent_keeps {b : Kept} {s0 s : State} (h : Keeps b s0 s) : ∃ u, execRefclkPresent s = .next u ∧ Keeps b s0 u := by
  unfold execRefclkPresent
  refine ⟨_, rfl, ?_⟩
  repeat' (first | with_reducible assumption | with_reducible apply State.chooseSource_keeps | with_reducible apply State.setBit_keeps
                 | with_reducible apply State.setClk_keeps | with_reducible exact mk_keeps (by assumption) rfl rfl rfl rfl rfl rfl rfl rfl rfl rfl rfl rfl
                 | with_reducible apply ite_keeps | split)

theorem execPllLocked_keeps {b : Kept} {s0 s : State} (h : Keeps b s0 s) : ∃ u, execPllLocked s = .next u ∧ Keeps b s0 u := by
  unfold execPllLocked
  refine ⟨_, rfl, ?_⟩
  repeat' (first | with_reducible assumption | with_reducible apply State.reportLoss_keeps | with_reducible apply State.setBit_keeps
                 | with_reducible apply State.setClk_keeps | with_reducible exact mk_keeps (by assumption) rfl rfl rfl rfl rfl rfl rfl rfl rfl rfl rfl rfl
                 | with_reducible apply ite_keeps | split)

theorem execTimingLockHold_keeps {b : Kept} {s0 s : State} (h : Keeps b s0 s) : ∃ u, execTimingLockHold s = .next u ∧ Keeps b s0 u := by
  unfold execTimingLockHold
  refine ⟨_, rfl, ?_⟩
  repeat' (first | with_reducible assumption | with_reducible apply State.setClk_keeps | with_reducible apply State.settle_keeps
                 | with_reducible apply State.syncTimings_keeps | with_reducible exact mk_keeps (by assumption) rfl rfl rfl rfl rfl rfl rfl rfl rfl rfl rfl rfl
                 | with_reducible apply ite_keeps | split)

theorem execXoMeasure_keeps {b : Kept} {s0 s : State} (offset : Int) (h : Keeps b s0 s) : ∃ u, execXoMeasure offset s = .next u ∧ Keeps b s0 u := by
  unfold execXoMeasure
  refine ⟨_, rfl, ?_⟩
  repeat' (first | with_reducible assumption | with_reducible apply State.setClk_keeps | with_reducible apply State.setF_keeps
                 | with_reducible exact mk_keeps (by assumption) rfl rfl rfl rfl rfl rfl rfl rfl rfl rfl rfl rfl | with_reducible apply ite_keeps | split)

theorem execXoCorrection_keeps {b : Kept} {s0 s : State} (h : Keeps b s0 s) : ∃ u, execXoCorrection s = .next u ∧ Keeps b s0 u := by
  unfold execXoCorrection
  refine ⟨_, rfl, ?_⟩
  repeat' (first | with_reducible assumption
                 | (extract_lets +onlyGivenNames t; refine Keeps.cut (t := t) ?_ ?_; subst t; rotate_left; clear_value t; revert t; intro _ _)
                 | (extract_lets +onlyGivenNames t; revert t; intro _) | with_reducible apply State.setClk_keeps
                 | with_reducible exact mk_keeps (by assumption) rfl rfl rfl rfl rfl rfl rfl rfl rfl rfl rfl rfl | with_reducible apply ite_keeps | split)

theorem execStatRunDone_keeps {b : Kept} {s0 s : State} (c : Fin 32) (h : Keeps b s0 s) : ∃ u, execStatRunDone c s = .next u ∧ Keeps b s0 u := by
  unfold execStatRunDone
  refine ⟨_, rfl, ?_⟩
  repeat' (first | with_reducible assumption | with_reducible apply State.endStat_keeps | with_reducible apply ite_keeps | split)

theorem execStatRunTimeout_keeps {b : Kept} {s0 s : State} (c : Fin 32) (h : Keeps b s0 s) : ∃ u, execStatRunTimeout c s = .next u ∧ Keeps b s0 u := by
  unfold execStatRunTimeout
  refine ⟨_, rfl, ?_⟩
  repeat' (first | with_reducible assumption | with_reducible apply State.endStat_keeps | with_reducible apply ite_keeps | split)

theorem execDripCut_keeps {b : Kept} {s0 s : State} (bad : List Nat) (other : Nat) (h : Keeps b s0 s) : ∃ u, execDripCut bad other s = .next u ∧ Keeps b s0 u := by
  unfold execDripCut
  refine ⟨_, rfl, ?_⟩
  repeat' (first | with_reducible assumption | (intro _; try beta_reduce)
                 | (extract_lets +onlyGivenNames t; refine Keeps.cut (t := t) ?_ ?_; subst t; rotate_left; clear_value t; revert t; intro _ _)
                 | (extract_lets +onlyGivenNames t; revert t; intro _) | with_reducible apply State.badEntry_keeps | with_reducible apply State.cutWindow_keeps
                 | with_reducible apply State.leadBatches_keeps | with_reducible apply State.loopLate_keeps | with_reducible apply State.takeClaims_keeps
                 | with_reducible apply each_keeps | with_reducible apply ite_keeps | split)

theorem execShotLaunch_keeps {b : Kept} {s0 s : State} (h : Keeps b s0 s) : ∃ u, execShotLaunch s = .next u ∧ Keeps b s0 u := by
  unfold execShotLaunch
  refine ⟨_, rfl, ?_⟩
  repeat' (first | with_reducible assumption | (intro _; try beta_reduce)
                 | (extract_lets +onlyGivenNames t; refine Keeps.cut (t := t) ?_ ?_; subst t; rotate_left; clear_value t; revert t; intro _ _)
                 | (extract_lets +onlyGivenNames t; revert t; intro _) | with_reducible apply State.countRefused_keeps | with_reducible apply State.fire_keeps
                 | with_reducible apply State.notice_keeps | with_reducible apply State.setEmit_keeps | with_reducible apply State.unfire_keeps | with_reducible apply each_keeps
                 | with_reducible apply when_keeps | with_reducible exact mk_keeps (by assumption) rfl rfl rfl rfl rfl rfl rfl rfl rfl rfl rfl rfl
                 | with_reducible apply ite_keeps | split)

theorem execStartRefEdge_keeps {b : Kept} {s0 s : State} (t' : Fin 8) (internal : Bool) (readings : List (Nat × Nat)) (h : Keeps b s0 s) : ∃ u, execStartRefEdge t' internal readings s = .next u ∧ Keeps b s0 u := by
  unfold execStartRefEdge
  refine ⟨_, rfl, ?_⟩
  repeat' (first | with_reducible assumption | with_reducible apply State.internalStart_keeps | with_reducible apply State.spuriousStart_keeps
                 | with_reducible apply State.startFired_keeps | with_reducible apply ite_keeps | split)

theorem execStartTimeout_keeps {b : Kept} {s0 s : State} (h : Keeps b s0 s) : ∃ u, execStartTimeout s = .next u ∧ Keeps b s0 u := by
  unfold execStartTimeout
  refine ⟨_, rfl, ?_⟩
  repeat' (first | with_reducible assumption | (intro _; try beta_reduce)
                 | (extract_lets +onlyGivenNames t; refine Keeps.cut (t := t) ?_ ?_; subst t; rotate_left; clear_value t; revert t; intro _ _)
                 | (extract_lets +onlyGivenNames t; revert t; intro _)
                 | with_reducible apply State.modPt_keeps | with_reducible apply State.noStart_keeps | with_reducible apply State.tileMiss_keeps
                 | with_reducible apply State.unstamp_keeps | with_reducible apply each_keeps
                 | with_reducible exact mk_keeps (by assumption) rfl rfl rfl rfl rfl rfl rfl rfl rfl rfl rfl rfl | with_reducible apply ite_keeps | split)

theorem execDripRetFrame_keeps {b : Kept} {s0 s : State} (f : DripFrame) (h : Keeps b s0 s) : ∃ u, execDripRetFrame f s = .next u ∧ Keeps b s0 u := by
  unfold execDripRetFrame
  refine ⟨_, rfl, ?_⟩
  repeat' (first | with_reducible assumption | (intro _; try beta_reduce)
                 | (extract_lets +onlyGivenNames t; refine Keeps.cut (t := t) ?_ ?_; subst t; rotate_left; clear_value t; revert t; intro _ _)
                 | (extract_lets +onlyGivenNames t; revert t; intro _) | with_reducible apply State.retFailure_keeps | with_reducible apply State.setEmit_keeps
                 | with_reducible apply State.tileStatus_keeps | with_reducible apply foldl_keeps
                 | with_reducible exact mk_keeps (by assumption) rfl rfl rfl rfl rfl rfl rfl rfl rfl rfl rfl rfl | with_reducible apply ite_keeps | split)

theorem execDripRetTimeout_keeps {b : Kept} {s0 s : State} (h : Keeps b s0 s) : ∃ u, execDripRetTimeout s = .next u ∧ Keeps b s0 u := by
  unfold execDripRetTimeout
  refine ⟨_, rfl, ?_⟩
  repeat' (first | with_reducible assumption | with_reducible apply State.retFailure_keeps | with_reducible apply State.setEmit_keeps
                 | with_reducible exact mk_keeps (by assumption) rfl rfl rfl rfl rfl rfl rfl rfl rfl rfl rfl rfl | with_reducible apply ite_keeps | split)

theorem execEmitFaultInput_keeps {b : Kept} {s0 s : State} (low : Bool) (ns : Nat) (h : Keeps b s0 s) : ∃ u, execEmitFaultInput low ns s = .next u ∧ Keeps b s0 u := by
  unfold execEmitFaultInput
  refine ⟨_, rfl, ?_⟩
  repeat' (first | with_reducible assumption
                 | (extract_lets +onlyGivenNames t; refine Keeps.cut (t := t) ?_ ?_; subst t; rotate_left; clear_value t; revert t; intro _ _)
                 | (extract_lets +onlyGivenNames t; revert t; intro _) | with_reducible apply State.segFailure_keeps | with_reducible apply State.setEmit_keeps
                 | with_reducible apply State.syncFaultIn_keeps | with_reducible exact mk_keeps (by assumption) rfl rfl rfl rfl rfl rfl rfl rfl rfl rfl rfl rfl
                 | with_reducible apply ite_keeps | split)

theorem execLsdSafeEntry_keeps {b : Kept} {s0 s : State} (h : Keeps b s0 s) : ∃ u, execLsdSafeEntry s = .next u ∧ Keeps b s0 u := by
  unfold execLsdSafeEntry
  refine ⟨_, rfl, ?_⟩
  repeat' (first | with_reducible assumption
                 | (extract_lets +onlyGivenNames t; refine Keeps.cut (t := t) ?_ ?_; subst t; rotate_left; clear_value t; revert t; intro _ _)
                 | (extract_lets +onlyGivenNames t; revert t; intro _) | with_reducible apply State.raise_keeps | with_reducible apply State.setEmit_keeps
                 | with_reducible apply State.toSafe_keeps | with_reducible exact mk_keeps (by assumption) rfl rfl rfl rfl rfl rfl rfl rfl rfl rfl rfl rfl
                 | with_reducible apply ite_keeps | split)

theorem execAcctSubinterval_keeps {b : Kept} {s0 s : State} (disagree : Bool) (h : Keeps b s0 s) : ∃ u, execAcctSubinterval disagree s = .next u ∧ Keeps b s0 u := by
  unfold execAcctSubinterval
  refine ⟨_, rfl, ?_⟩
  repeat' (first | with_reducible assumption | (intro _; try beta_reduce)
                 | (extract_lets +onlyGivenNames t; refine Keeps.cut (t := t) ?_ ?_; subst t; rotate_left; clear_value t; revert t; intro _ _)
                 | (extract_lets +onlyGivenNames t; revert t; intro _) | with_reducible apply State.segFailure_keeps | with_reducible apply State.syncAcct_keeps
                 | with_reducible apply each_keeps | with_reducible apply ite_keeps | split)

theorem execFadeStep_keeps {b : Kept} {s0 s : State} (h : Keeps b s0 s) : ∃ u, execFadeStep s = .next u ∧ Keeps b s0 u := by
  unfold execFadeStep
  refine ⟨_, rfl, ?_⟩
  repeat' (first | with_reducible assumption
                 | (extract_lets +onlyGivenNames t; refine Keeps.cut (t := t) ?_ ?_; subst t; rotate_left; clear_value t; revert t; intro _ _)
                 | (extract_lets +onlyGivenNames t; revert t; intro _) | with_reducible apply State.setEmit_keeps
                 | with_reducible exact mk_keeps (by assumption) rfl rfl rfl rfl rfl rfl rfl rfl rfl rfl rfl rfl | with_reducible apply ite_keeps | split)

theorem execFadeEnd_keeps {b : Kept} {s0 s : State} (h : Keeps b s0 s) : ∃ u, execFadeEnd s = .next u ∧ Keeps b s0 u := by
  refine ⟨_, rfl, ?_⟩
  split
  · refine ite_keeps h ?_
    dsimp only
    have h1 : Keeps b s0 ((s.setBit Reg.EMIT_STATUS 1 false).setEmit { s.emit with fadeAt := none, fadeStep := 0, ceil := 255 }) :=
      State.setEmit_keeps _ (State.setBit_keeps _ _ _ h)
    refine ite_keeps (State.toSafe_keeps _ h1) (State.settleWl_keeps (mk_cmds_keeps _ (each_keeps _ _ h1 fun _ _ hu => State.loseTile_keeps _ hu) ?_ rfl))
    simp
  · exact h

theorem execWlBlockMean_keeps {b : Kept} {s0 s : State} (t' : Fin 8) (h : Keeps b s0 s) : ∃ u, execWlBlockMean t' s = .next u ∧ Keeps b s0 u := by
  unfold execWlBlockMean
  refine ⟨_, rfl, ?_⟩
  repeat' (first | with_reducible assumption
                 | (extract_lets +onlyGivenNames t; refine Keeps.cut (t := t) ?_ ?_; subst t; rotate_left; clear_value t; revert t; intro _ _)
                 | (extract_lets +onlyGivenNames t; revert t; intro _) | with_reducible apply State.setR_keeps | with_reducible apply State.setWag_keeps
                 | with_reducible apply State.setWlState_keeps | with_reducible apply State.setWlTile_keeps | with_reducible apply State.settleWl_keeps
                 | with_reducible exact mk_keeps (by assumption) rfl rfl rfl rfl rfl rfl rfl rfl rfl rfl rfl rfl | with_reducible apply ite_keeps | split)

theorem execWlLossTimeout_keeps {b : Kept} {s0 s : State} (t' : Fin 8) (h : Keeps b s0 s) : ∃ u, execWlLossTimeout t' s = .next u ∧ Keeps b s0 u := by
  unfold execWlLossTimeout
  refine ⟨_, rfl, ?_⟩
  repeat' (first | with_reducible assumption
                 | (extract_lets +onlyGivenNames t; refine Keeps.cut (t := t) ?_ ?_; subst t; rotate_left; clear_value t; revert t; intro _ _)
                 | (extract_lets +onlyGivenNames t; revert t; intro _) | with_reducible apply State.loseTile_keeps | with_reducible apply State.settleWl_keeps
                 | with_reducible apply ite_keeps | split)

theorem execPatternSwap_keeps {b : Kept} {s0 s : State} (h : Keeps b s0 s) : ∃ u, execPatternSwap s = .next u ∧ Keeps b s0 u := by
  unfold execPatternSwap
  refine ⟨_, rfl, ?_⟩
  repeat' (first | with_reducible assumption | with_reducible apply State.swapPatternsDue_keeps | with_reducible apply ite_keeps | split)

theorem execComparatorEdge_keeps {b : Kept} {s0 s : State} (n : Fin 512) (count code : Nat) (level : StageLevel) (overNs : Nat) (h : Keeps b s0 s) : ∃ u, execComparatorEdge n count code level overNs s = .next u ∧ Keeps b s0 u := by
  unfold execComparatorEdge
  refine ⟨_, rfl, ?_⟩
  repeat' (first | with_reducible assumption | with_reducible apply State.edge_keeps | with_reducible apply ite_keeps | split)

theorem execReceiveWindowClose_keeps {b : Kept} {s0 s : State} (n : Fin 512) (peak : Nat) (h : Keeps b s0 s) : ∃ u, execReceiveWindowClose n peak s = .next u ∧ Keeps b s0 u := by
  unfold execReceiveWindowClose
  refine ⟨_, rfl, ?_⟩
  repeat' (first | with_reducible assumption | (intro _; try beta_reduce)
                 | (extract_lets +onlyGivenNames t; refine Keeps.cut (t := t) ?_ ?_; subst t; rotate_left; clear_value t; revert t; intro _ _)
                 | (extract_lets +onlyGivenNames t; revert t; intro _)
                 | with_reducible apply State.closeWindow_keeps | with_reducible apply State.disarm_keeps | with_reducible apply State.overflow_keeps
                 | with_reducible exact mk_keeps (by assumption) rfl rfl rfl rfl rfl rfl rfl rfl rfl rfl rfl rfl | with_reducible apply ite_keeps | split)

theorem execRangeChange_keeps {b : Kept} {s0 s : State} (n : Fin 512) (h : Keeps b s0 s) : ∃ u, execRangeChange n s = .next u ∧ Keeps b s0 u := by
  unfold execRangeChange
  refine ⟨_, rfl, ?_⟩
  repeat' (first | with_reducible assumption | (intro _; try beta_reduce)
                 | (extract_lets +onlyGivenNames t; refine Keeps.cut (t := t) ?_ ?_; subst t; rotate_left; clear_value t; revert t; intro _ _)
                 | (extract_lets +onlyGivenNames t; revert t; intro _) | with_reducible apply State.flag_keeps | with_reducible apply State.modChan_keeps
                 | with_reducible apply State.setRange_keeps | with_reducible exact mk_keeps (by assumption) rfl rfl rfl rfl rfl rfl rfl rfl rfl rfl rfl rfl
                 | with_reducible apply ite_keeps | split)

theorem execComparatorStuck_keeps {b : Kept} {s0 s : State} (n : Fin 512) (h : Keeps b s0 s) : ∃ u, execComparatorStuck n s = .next u ∧ Keeps b s0 u := by
  unfold execComparatorStuck
  refine ⟨_, rfl, ?_⟩
  repeat' (first | with_reducible assumption | (intro _; try beta_reduce)
                 | (extract_lets +onlyGivenNames t; refine Keeps.cut (t := t) ?_ ?_; subst t; rotate_left; clear_value t; revert t; intro _ _)
                 | (extract_lets +onlyGivenNames t; revert t; intro _)
                 | with_reducible apply State.reset_keeps | with_reducible apply State.settle_keeps | with_reducible apply State.stickChan_keeps
                 | with_reducible exact mk_keeps (by assumption) rfl rfl rfl rfl rfl rfl rfl rfl rfl rfl rfl rfl | with_reducible apply ite_keeps | split)

theorem execMonitorTick_keeps {b : Kept} {s0 s : State} (fast refBad : List Nat) (rtd : List RtdReading) (h : Keeps b s0 s) : ∃ u, execMonitorTick fast refBad rtd s = .next u ∧ Keeps b s0 u := by
  unfold execMonitorTick
  refine ⟨_, rfl, ?_⟩
  repeat' (first | with_reducible assumption | (intro _; try beta_reduce)
                 | (extract_lets +onlyGivenNames t; refine Keeps.cut (t := t) ?_ ?_; subst t; rotate_left; clear_value t; revert t; intro _ _)
                 | (extract_lets +onlyGivenNames t; revert t; intro _)
                 | with_reducible apply State.monitorTick_keeps | with_reducible apply State.reset_keeps | with_reducible apply State.settle_keeps
                 | with_reducible apply State.takeChecks_keeps
                 | with_reducible exact mk_keeps (by assumption) rfl rfl rfl rfl rfl rfl rfl rfl rfl rfl rfl rfl | with_reducible apply ite_keeps | split)

theorem execBiasConversionDone_keeps {b : Kept} {s0 s : State} (c : Fin 32) (code : Nat) (h : Keeps b s0 s) : ∃ u, execBiasConversionDone c code s = .next u ∧ Keeps b s0 u := by
  unfold execBiasConversionDone
  refine ⟨_, rfl, ?_⟩
  repeat' (first | with_reducible assumption
                 | (extract_lets +onlyGivenNames t; refine Keeps.cut (t := t) ?_ ?_; subst t; rotate_left; clear_value t; revert t; intro _ _)
                 | (extract_lets +onlyGivenNames t; revert t; intro _) | with_reducible apply State.setF_keeps | with_reducible apply State.setRxComb_keeps
                 | with_reducible exact mk_keeps (by assumption) rfl rfl rfl rfl rfl rfl rfl rfl rfl rfl rfl rfl | with_reducible apply ite_keeps | split)

theorem execRxSelftestDone_keeps {b : Kept} {s0 s : State} (results : List Injection) (h : Keeps b s0 s) : ∃ u, execRxSelftestDone results s = .next u ∧ Keeps b s0 u := by
  unfold execRxSelftestDone
  refine ⟨_, rfl, ?_⟩
  repeat' (first | with_reducible assumption | with_reducible apply State.endSelftest_keeps | with_reducible apply State.settle_keeps
                 | with_reducible apply ite_keeps | split)

theorem execBlankInput_keeps {b : Kept} {s0 s : State} (level : BlankLevel) (h : Keeps b s0 s) : ∃ u, execBlankInput level s = .next u ∧ Keeps b s0 u := by
  unfold execBlankInput
  refine ⟨_, rfl, ?_⟩
  repeat' (first | with_reducible assumption
                 | (extract_lets +onlyGivenNames t; refine Keeps.cut (t := t) ?_ ?_; subst t; rotate_left; clear_value t; revert t; intro _ _)
                 | (extract_lets +onlyGivenNames t; revert t; intro _) | with_reducible apply State.syncBlank_keeps
                 | with_reducible exact mk_keeps (by assumption) rfl rfl rfl rfl rfl rfl rfl rfl rfl rfl rfl rfl | with_reducible apply ite_keeps | split)

theorem execBlankMaxTimeout_keeps {b : Kept} {s0 s : State} (h : Keeps b s0 s) : ∃ u, execBlankMaxTimeout s = .next u ∧ Keeps b s0 u := by
  unfold execBlankMaxTimeout
  refine ⟨_, rfl, ?_⟩
  repeat' (first | with_reducible assumption | (intro _; try beta_reduce)
                 | (extract_lets +onlyGivenNames t; refine Keeps.cut (t := t) ?_ ?_; subst t; rotate_left; clear_value t; revert t; intro _ _)
                 | (extract_lets +onlyGivenNames t; revert t; intro _) | with_reducible apply State.endBlank_keeps | with_reducible apply State.flag_keeps
                 | with_reducible apply State.raise_keeps | with_reducible apply State.setBit_keeps | with_reducible apply when_keeps | with_reducible apply ite_keeps | split)

theorem execStreamSubscribe_keeps {b : Kept} {s0 s : State} (c : Cmd) (h : Keeps b s0 s) : ∃ u, execStreamSubscribe c s = .next u ∧ Keeps b s0 u := by
  unfold execStreamSubscribe State.runCommand
  exact ⟨_, rfl, State.command_keeps _ _ _ h fun _ _ _ ht => State.doStreamSubscribe_keeps _ _ ht⟩

theorem execStreamUnsubscribe_keeps {b : Kept} {s0 s : State} (c : Cmd) (h : Keeps b s0 s) : ∃ u, execStreamUnsubscribe c s = .next u ∧ Keeps b s0 u := by
  unfold execStreamUnsubscribe State.runCommand
  exact ⟨_, rfl, State.command_keeps _ _ _ h fun _ _ _ ht => State.doStreamUnsubscribe_keeps _ _ ht⟩

theorem execStreamStatus_keeps {b : Kept} {s0 s : State} (c : Cmd) (h : Keeps b s0 s) : ∃ u, execStreamStatus c s = .next u ∧ Keeps b s0 u := by
  unfold execStreamStatus State.runCommand
  exact ⟨_, rfl, State.command_keeps _ _ _ h fun _ _ _ ht => State.doStreamStatus_keeps _ _ ht⟩

theorem execDmaRestart_keeps {b : Kept} {s0 s : State} (c : Cmd) (h : Keeps b s0 s) : ∃ u, execDmaRestart c s = .next u ∧ Keeps b s0 u := by
  unfold execDmaRestart State.runCommand
  exact ⟨_, rfl, State.command_keeps _ _ _ h fun _ _ _ ht => State.doDmaRestart_keeps _ _ ht⟩

theorem execDmaAppend_keeps {b : Kept} {s0 s : State} (n : Fin 64) (addr : Word) (d : DmaDesc) (linked : Bool) (h : Keeps b s0 s) : ∃ u, execDmaAppend n addr d linked s = .next u ∧ Keeps b s0 u := by
  unfold execDmaAppend
  refine ⟨_, rfl, ?_⟩
  repeat' (first | with_reducible assumption | (intro _; try beta_reduce)
                 | (extract_lets +onlyGivenNames t; refine Keeps.cut (t := t) ?_ ?_; subst t; rotate_left; clear_value t; revert t; intro _ _)
                 | (extract_lets +onlyGivenNames t; revert t; intro _)
                 | with_reducible apply State.dmaAppend_keeps | with_reducible apply State.putDesc_keeps | with_reducible apply State.setDma_keeps
                 | with_reducible exact mk_keeps (by assumption) rfl rfl rfl rfl rfl rfl rfl rfl rfl rfl rfl rfl | with_reducible apply ite_keeps | split)

theorem execDmaDescriptorDone_keeps {b : Kept} {s0 s : State} (n : Fin 64) (h : Keeps b s0 s) : ∃ u, execDmaDescriptorDone n s = .next u ∧ Keeps b s0 u := by
  unfold execDmaDescriptorDone
  refine ⟨_, rfl, ?_⟩
  repeat' (first | with_reducible assumption | (intro _; try beta_reduce)
                 | (extract_lets +onlyGivenNames t; refine Keeps.cut (t := t) ?_ ?_; subst t; rotate_left; clear_value t; revert t; intro _ _)
                 | (extract_lets +onlyGivenNames t; revert t; intro _)
                 | with_reducible apply State.dmaMoved_keeps | with_reducible apply State.finish_keeps | with_reducible apply State.followNext_keeps
                 | with_reducible apply State.inc_keeps | with_reducible apply State.noDram_keeps | with_reducible apply State.setDescStatus_keeps
                 | with_reducible apply State.setDma_keeps
                 | with_reducible exact mk_keeps (by assumption) rfl rfl rfl rfl rfl rfl rfl rfl rfl rfl rfl rfl | with_reducible apply ite_keeps | split)

theorem execDmaBurstError_keeps {b : Kept} {s0 s : State} (n : Fin 64) (answer : BurstAnswer) (h : Keeps b s0 s) : ∃ u, execDmaBurstError n answer s = .next u ∧ Keeps b s0 u := by
  unfold execDmaBurstError
  refine ⟨_, rfl, ?_⟩
  repeat' (first | with_reducible assumption | (intro _; try beta_reduce)
                 | (extract_lets +onlyGivenNames t; refine Keeps.cut (t := t) ?_ ?_; subst t; rotate_left; clear_value t; revert t; intro _ _)
                 | (extract_lets +onlyGivenNames t; revert t; intro _)
                 | with_reducible apply State.addF_keeps | with_reducible apply State.dmaPartial_keeps | with_reducible apply State.dropCapture_keeps
                 | with_reducible apply State.dropLate_keeps | with_reducible apply State.haltDma_keeps | with_reducible apply State.setDma_keeps
                 | with_reducible exact mk_keeps (by assumption) rfl rfl rfl rfl rfl rfl rfl rfl rfl rfl rfl rfl | with_reducible apply ite_keeps | split)

theorem execParamRead_keeps {b : Kept} {s0 s : State} (c : Cmd) (h : Keeps b s0 s) : ∃ u, execParamRead c s = .next u ∧ Keeps b s0 u := by
  unfold execParamRead State.runCommand
  exact ⟨_, rfl, State.command_keeps _ _ _ h fun _ _ _ ht => State.doParamRead_keeps _ _ ht⟩

theorem execParamWrite_keeps {b : Kept} {s0 s : State} (c : Cmd) (h : Keeps b s0 s) : ∃ u, execParamWrite c s = .next u ∧ Keeps b s0 u := by
  unfold execParamWrite State.runCommand
  exact ⟨_, rfl, State.command_keeps _ _ _ h fun _ _ _ ht => State.doParamWrite_keeps _ _ ht⟩

theorem execParamModify_keeps {b : Kept} {s0 s : State} (c : Cmd) (h : Keeps b s0 s) : ∃ u, execParamModify c s = .next u ∧ Keeps b s0 u := by
  unfold execParamModify State.runCommand
  exact ⟨_, rfl, State.command_keeps _ _ _ h fun _ _ _ ht => State.doParamModify_keeps _ _ ht⟩

theorem execArbSlotCommit_keeps {b : Kept} {s0 s : State} (w : HostWrite) (h : Keeps b s0 s) : ∃ u, execArbSlotCommit w s = .next u ∧ Keeps b s0 u := by
  exact execParamWrite_keeps _ h

theorem execArbSlotNext_keeps {b : Kept} {s0 s : State} (w : HostWrite) (h : Keeps b s0 s) : ∃ u, execArbSlotNext w s = .next u ∧ Keeps b s0 u := by
  exact execParamWrite_keeps _ h

theorem execPatCommit_keeps {b : Kept} {s0 s : State} (w : HostWrite) (h : Keeps b s0 s) : ∃ u, execPatCommit w s = .next u ∧ Keeps b s0 u := by
  exact execParamWrite_keeps _ h

theorem execWagCommit_keeps {b : Kept} {s0 s : State} (w : HostWrite) (h : Keeps b s0 s) : ∃ u, execWagCommit w s = .next u ∧ Keeps b s0 u := by
  exact execParamWrite_keeps _ h

theorem execAxModeWrite_keeps {b : Kept} {s0 s : State} (a : Fin 2) (w : HostWrite) (h : Keeps b s0 s) : ∃ u, execAxModeWrite a w s = .next u ∧ Keeps b s0 u := by
  exact execParamWrite_keeps _ h

theorem execAxManValueWrite_keeps {b : Kept} {s0 s : State} (a : Fin 2) (w : HostWrite) (h : Keeps b s0 s) : ∃ u, execAxManValueWrite a w s = .next u ∧ Keeps b s0 u := by
  exact execParamWrite_keeps _ h

theorem execBiasRetry_keeps {b : Kept} {s0 s : State} (z : Fin 8) (w : HostWrite) (h : Keeps b s0 s) : ∃ u, execBiasRetry z w s = .next u ∧ Keeps b s0 u := by
  exact execParamWrite_keeps _ h

theorem execRxSelftestRun_keeps {b : Kept} {s0 s : State} (w : HostWrite) (h : Keeps b s0 s) : ∃ u, execRxSelftestRun w s = .next u ∧ Keeps b s0 u := by
  exact execParamWrite_keeps _ h

theorem execTdcStatRun_keeps {b : Kept} {s0 s : State} (c : Fin 32) (w : HostWrite) (h : Keeps b s0 s) : ∃ u, execTdcStatRun c w s = .next u ∧ Keeps b s0 u := by
  exact execParamWrite_keeps _ h

theorem execFeClear_keeps {b : Kept} {s0 s : State} (w : HostWrite) (h : Keeps b s0 s) : ∃ u, execFeClear w s = .next u ∧ Keeps b s0 u := by
  exact execParamWrite_keeps _ h

theorem execDitherSaltWrite_keeps {b : Kept} {s0 s : State} (w : HostWrite) (h : Keeps b s0 s) : ∃ u, execDitherSaltWrite w s = .next u ∧ Keeps b s0 u := by
  exact execParamWrite_keeps _ h

theorem execFcPolyCommit_keeps {b : Kept} {s0 s : State} (w : HostWrite) (h : Keeps b s0 s) : ∃ u, execFcPolyCommit w s = .next u ∧ Keeps b s0 u := by
  exact execParamWrite_keeps _ h

theorem execFramePeriodWrite_keeps {b : Kept} {s0 s : State} (w : HostWrite) (h : Keeps b s0 s) : ∃ u, execFramePeriodWrite w s = .next u ∧ Keeps b s0 u := by
  exact execParamWrite_keeps _ h

theorem execLaneRetrain_keeps {b : Kept} {s0 s : State} (l : Fin 4) (w : HostWrite) (h : Keeps b s0 s) : ∃ u, execLaneRetrain l w s = .next u ∧ Keeps b s0 u := by
  exact execParamWrite_keeps _ h

theorem execLaneTxReq_keeps {b : Kept} {s0 s : State} (l : Fin 4) (w : HostWrite) (h : Keeps b s0 s) : ∃ u, execLaneTxReq l w s = .next u ∧ Keeps b s0 u := by
  exact execParamWrite_keeps _ h

theorem execForceFailover_keeps {b : Kept} {s0 s : State} (w : HostWrite) (h : Keeps b s0 s) : ∃ u, execForceFailover w s = .next u ∧ Keeps b s0 u := by
  exact execParamWrite_keeps _ h

theorem execBulkReturn_keeps {b : Kept} {s0 s : State} (k : Fin 2) (w : HostWrite) (h : Keeps b s0 s) : ∃ u, execBulkReturn k w s = .next u ∧ Keeps b s0 u := by
  exact execParamWrite_keeps _ h

theorem execMaConfigWrite_keeps {b : Kept} {s0 s : State} (m : Fin 3) (which : Fin 6) (w : HostWrite) (h : Keeps b s0 s) : ∃ u, execMaConfigWrite m which w s = .next u ∧ Keeps b s0 u := by
  exact execParamWrite_keeps _ h

theorem execRtdCtrlWrite_keeps {b : Kept} {s0 s : State} (w : HostWrite) (h : Keeps b s0 s) : ∃ u, execRtdCtrlWrite w s = .next u ∧ Keeps b s0 u := by
  exact execParamWrite_keeps _ h

theorem execRtdCfgWrite_keeps {b : Kept} {s0 s : State} (r : Fin 8) (w : HostWrite) (h : Keeps b s0 s) : ∃ u, execRtdCfgWrite r w s = .next u ∧ Keeps b s0 u := by
  exact execParamWrite_keeps _ h

theorem execIdentify_keeps {b : Kept} {s0 s : State} (c : Cmd) (h : Keeps b s0 s) : ∃ u, execIdentify c s = .next u ∧ Keeps b s0 u := by
  unfold execIdentify State.runCommand
  exact ⟨_, rfl, State.command_keeps _ _ _ h fun _ _ _ ht => State.doIdentify_keeps _ _ ht⟩

theorem execAttest_keeps {b : Kept} {s0 s : State} (c : Cmd) (h : Keeps b s0 s) : ∃ u, execAttest c s = .next u ∧ Keeps b s0 u := by
  unfold execAttest State.runCommand
  exact ⟨_, rfl, State.command_keeps _ _ _ h fun _ _ _ ht => State.doAttest_keeps _ _ ht⟩

theorem execCertRead_keeps {b : Kept} {s0 s : State} (c : Cmd) (h : Keeps b s0 s) : ∃ u, execCertRead c s = .next u ∧ Keeps b s0 u := by
  unfold execCertRead State.runCommand
  exact ⟨_, rfl, State.command_keeps _ _ _ h fun _ _ _ ht => State.doCertRead_keeps _ _ ht⟩

theorem execUpdateBegin_keeps {b : Kept} {s0 s : State} (c : Cmd) (h : Keeps b s0 s) : ∃ u, execUpdateBegin c s = .next u ∧ Keeps b s0 u := by
  unfold execUpdateBegin State.runCommand
  exact ⟨_, rfl, State.command_keeps _ _ _ h fun _ _ _ ht => State.doUpdateBegin_keeps _ _ ht⟩

theorem execUpdateData_keeps {b : Kept} {s0 s : State} (c : Cmd) (h : Keeps b s0 s) : ∃ u, execUpdateData c s = .next u ∧ Keeps b s0 u := by
  unfold execUpdateData State.runCommand
  exact ⟨_, rfl, State.command_keeps _ _ _ h fun _ _ _ ht => State.doUpdateData_keeps _ _ ht⟩

theorem execUpdateCommit_keeps {b : Kept} {s0 s : State} (c : Cmd) (h : Keeps b s0 s) : ∃ u, execUpdateCommit c s = .next u ∧ Keeps b s0 u := by
  unfold execUpdateCommit State.runCommand
  exact ⟨_, rfl, State.command_keeps _ _ _ h fun _ _ _ ht => State.doUpdateCommit_keeps _ _ ht⟩

theorem execUpdateCheckDone_keeps {b : Kept} {s0 s : State} (h : Keeps b s0 s) : ∃ u, execUpdateCheckDone s = .next u ∧ Keeps b s0 u := by
  unfold execUpdateCheckDone
  refine ⟨_, rfl, ?_⟩
  repeat' (first | with_reducible assumption
                 | (extract_lets +onlyGivenNames t; refine Keeps.cut (t := t) ?_ ?_; subst t; rotate_left; clear_value t; revert t; intro _ _)
                 | (extract_lets +onlyGivenNames t; revert t; intro _) | with_reducible apply State.finish_keeps | with_reducible apply State.setUpd_keeps
                 | with_reducible apply State.updateCheck_keeps | with_reducible apply ite_keeps | split)

theorem execOwnerKeyEnroll_keeps {b : Kept} {s0 s : State} (c : Cmd) (h : Keeps b s0 s) : ∃ u, execOwnerKeyEnroll c s = .next u ∧ Keeps b s0 u := by
  refine ⟨_, rfl, ?_⟩
  have hc : Keeps { b with enroll := false } s0 (s.command ownerKeyRule (fun p x s => s.doOwnerKeyEnroll p x) c) :=
    State.command_keeps _ _ _ ⟨h.variant, h.pending, h.regs, h.cmds, h.queue, h.ports, h.svn, h.owner, h.halt, fun hx => (nomatch hx), h.balls⟩
      fun _ _ _ ht => State.doOwnerKeyEnroll_keeps _ _ rfl ht
  have hf := State.enrollFails_keeps hc
  have hk : ∀ u : State, u.enrollFails.enrollOk := fun u => by
    unfold State.enrollFails
    split
    · rename_i he
      exact fun e h => nomatch he.symm.trans h
    · rename_i e he
      split
      · rename_i hk
        exact fun e' h => by rw [he] at h; cases h; exact hk
      · exact (State.finish_keeps (b := {}) _ _ _ (Keeps.refl _ _)).enroll rfl (fun e h => nomatch h)
  exact ⟨hf.variant, hf.pending, hf.regs, hf.cmds, hf.queue, hf.ports, hf.svn, hf.owner, hf.halt, fun _ _ => hk _, hf.balls⟩

theorem execOwnerKeyFuseDone_keeps {b : Kept} {s0 s : State} (h : Keeps b s0 s) : ∃ u, execOwnerKeyFuseDone s = .next u ∧ Keeps b s0 u := by
  refine ⟨_, rfl, ?_⟩
  split
  · exact h
  · refine State.finish_keeps _ _ _ (State.setBit_keeps _ _ _ (h.trans ⟨rfl, rfl, id, id, id, id, Nat.le_refl _, fun ho => ?_, fun _ x => x, fun _ _ e he => (nomatch he), fun _ => ⟨rfl, rfl, rfl⟩⟩))
    obtain ⟨v, hv⟩ := Option.isSome_iff_exists.1 ho
    show some (s.boot.fuses.ownerHash.getD _) = s.boot.fuses.ownerHash
    rw [hv]; rfl

theorem execBootDone_keeps {b : Kept} {s0 s : State} (r : BootReport) (hh : b.halt = false) (h : Keeps b s0 s) : ∃ u, execBootDone r s = .next u ∧ Keeps b s0 u := by
  unfold execBootDone
  refine ⟨_, rfl, ?_⟩
  repeat' (first | with_reducible assumption
                 | (extract_lets +onlyGivenNames t; refine Keeps.cut (t := t) ?_ ?_; subst t; rotate_left; clear_value t; revert t; intro _ _)
                 | (extract_lets +onlyGivenNames t; revert t; intro _) | with_reducible apply State.bootDirectory_keeps
                 | (with_reducible refine State.bootOn_keeps _ _ _ (by assumption) ?_) | (with_reducible refine State.setBoot_keeps _ ?_ rfl fun _ => rfl) | with_reducible apply State.setBit_keeps | with_reducible apply State.setF_keeps
                 | with_reducible apply ite_keeps | split)

theorem execSvnFuseStep_keeps {b : Kept} {s0 s : State} (h : Keeps b s0 s) : ∃ u, execSvnFuseStep s = .next u ∧ Keeps b s0 u := by
  refine ⟨_, rfl, ite_keeps h (ite_keeps (State.flag_keeps _ _ h) (State.setF_keeps _ _ _ _ ?_))⟩
  exact h.trans ⟨rfl, rfl, id, id, id, id, Nat.le_succ _, fun _ => rfl, fun _ x => x, fun _ x => x, fun _ => ⟨rfl, rfl, rfl⟩⟩

theorem execCalibrateFull_keeps {b : Kept} {s0 s : State} (c : Cmd) (h : Keeps b s0 s) : ∃ u, execCalibrateFull c s = .next u ∧ Keeps b s0 u := by
  unfold execCalibrateFull State.runCommand
  exact ⟨_, rfl, State.command_keeps _ _ _ h fun _ _ _ ht => State.doCalibrateFull_keeps _ _ ht⟩

theorem execCalibrateComb_keeps {b : Kept} {s0 s : State} (c : Cmd) (h : Keeps b s0 s) : ∃ u, execCalibrateComb c s = .next u ∧ Keeps b s0 u := by
  unfold execCalibrateComb State.runCommand
  exact ⟨_, rfl, State.command_keeps _ _ _ h fun _ _ _ ht => State.doCalibrateComb_keeps _ _ ht⟩

theorem execCaptureArm_keeps {b : Kept} {s0 s : State} (c : Cmd) (h : Keeps b s0 s) : ∃ u, execCaptureArm c s = .next u ∧ Keeps b s0 u := by
  unfold execCaptureArm State.runCommand
  exact ⟨_, rfl, State.command_keeps _ _ _ h fun _ _ _ ht => State.doCaptureArm_keeps _ _ ht⟩

theorem execCaptureStop_keeps {b : Kept} {s0 s : State} (c : Cmd) (h : Keeps b s0 s) : ∃ u, execCaptureStop c s = .next u ∧ Keeps b s0 u := by
  unfold execCaptureStop State.runCommand
  exact ⟨_, rfl, State.command_keeps _ _ _ h fun _ _ _ ht => State.doCaptureStop_keeps _ _ ht⟩

theorem execCaptureTrigger_keeps {b : Kept} {s0 s : State} (c : Cmd) (h : Keeps b s0 s) : ∃ u, execCaptureTrigger c s = .next u ∧ Keeps b s0 u := by
  unfold execCaptureTrigger State.runCommand
  exact ⟨_, rfl, State.command_keeps _ _ _ h fun _ _ _ ht => State.doCaptureTrigger_keeps _ _ ht⟩

theorem execCaptureRead_keeps {b : Kept} {s0 s : State} (c : Cmd) (h : Keeps b s0 s) : ∃ u, execCaptureRead c s = .next u ∧ Keeps b s0 u := by
  unfold execCaptureRead State.runCommand
  exact ⟨_, rfl, State.command_keeps _ _ _ h fun _ _ _ ht => State.doCaptureRead_keeps _ _ ht⟩

theorem execCaptureFree_keeps {b : Kept} {s0 s : State} (c : Cmd) (h : Keeps b s0 s) : ∃ u, execCaptureFree c s = .next u ∧ Keeps b s0 u := by
  unfold execCaptureFree State.runCommand
  exact ⟨_, rfl, State.command_keeps _ _ _ h fun _ _ _ ht => State.doCaptureFree_keeps _ _ ht⟩

theorem execEventWordBinned_keeps {b : Kept} {s0 s : State} (c : Fin 32) (h : Keeps b s0 s) : ∃ u, execEventWordBinned c s = .next u ∧ Keeps b s0 u := by
  unfold execEventWordBinned
  refine ⟨_, rfl, ?_⟩
  repeat' (first | with_reducible assumption | with_reducible apply State.binEvent_keeps)

theorem execCloseWord_keeps {b : Kept} {s0 s : State} (c : Fin 32) (h : Keeps b s0 s) : ∃ u, execCloseWord c s = .next u ∧ Keeps b s0 u := by
  unfold execCloseWord
  refine ⟨_, rfl, ?_⟩
  repeat' (first | with_reducible assumption | with_reducible apply State.actClose_keeps)

theorem execBatchComplete_keeps {b : Kept} {s0 s : State} (c : Fin 32) (g : Fin 64) (h : Keeps b s0 s) : ∃ u, execBatchComplete c g s = .next u ∧ Keeps b s0 u := by
  unfold execBatchComplete
  refine ⟨_, rfl, ?_⟩
  repeat' (first | with_reducible assumption | with_reducible apply State.dueBatch_keeps | with_reducible apply State.testBatch_keeps
                 | with_reducible apply ite_keeps | split)

theorem execExportScanDone_keeps {b : Kept} {s0 s : State} (c : Fin 32) (h : Keeps b s0 s) : ∃ u, execExportScanDone c s = .next u ∧ Keeps b s0 u := by
  unfold execExportScanDone
  refine ⟨_, rfl, ?_⟩
  repeat' (first | with_reducible assumption | with_reducible apply State.assemble_keeps | with_reducible apply State.exportScan_keeps)

theorem execVerdictArrival_keeps {b : Kept} {s0 s : State} (c : Fin 32) (h : Keeps b s0 s) : ∃ u, execVerdictArrival c s = .next u ∧ Keeps b s0 u := by
  unfold execVerdictArrival
  refine ⟨_, rfl, ?_⟩
  repeat' (first | with_reducible assumption | with_reducible apply State.applyVerdict_keeps | with_reducible apply State.loopLate_keeps
                 | with_reducible apply State.setComb_keeps | with_reducible exact mk_keeps (by assumption) rfl rfl rfl rfl rfl rfl rfl rfl rfl rfl rfl rfl
                 | with_reducible apply ite_keeps | split)

theorem execHiveDispatch_keeps {b : Kept} {s0 s : State} (h' : Fin 8) (h : Keeps b s0 s) : ∃ u, execHiveDispatch h' s = .next u ∧ Keeps b s0 u := by
  unfold execHiveDispatch
  refine ⟨_, rfl, ?_⟩
  repeat' (first | with_reducible assumption | with_reducible apply State.assemble_keeps | with_reducible apply State.hiveDispatch_keeps)

theorem execPointDetectionDone_keeps {b : Kept} {s0 s : State} (e : Fin 1024) (h : Keeps b s0 s) : ∃ u, execPointDetectionDone e s = .next u ∧ Keeps b s0 u := by
  unfold execPointDetectionDone
  refine ⟨_, rfl, ?_⟩
  repeat' (first | with_reducible assumption | with_reducible apply State.assemble_keeps | with_reducible apply State.pointDone_keeps)

theorem execEngineCheck_keeps {b : Kept} {s0 s : State} (h' : Fin 8) (pass : Bool) (h : Keeps b s0 s) : ∃ u, execEngineCheck h' pass s = .next u ∧ Keeps b s0 u := by
  unfold execEngineCheck
  refine ⟨_, rfl, ?_⟩
  repeat' (first | with_reducible assumption
                 | (extract_lets +onlyGivenNames t; refine Keeps.cut (t := t) ?_ ?_; subst t; rotate_left; clear_value t; revert t; intro _ _)
                 | (extract_lets +onlyGivenNames t; revert t; intro _) | with_reducible apply State.assemble_keeps | with_reducible apply State.checked_keeps
                 | with_reducible apply State.fence_keeps | with_reducible apply State.halt_keeps | with_reducible apply State.setHive_keeps
                 | with_reducible exact mk_keeps (by assumption) rfl rfl rfl rfl rfl rfl rfl rfl rfl rfl rfl rfl | with_reducible apply ite_keeps | split)

theorem execChainWindowDone_keeps {b : Kept} {s0 s : State} (h' : Fin 8) (memErr : Bool) (h : Keeps b s0 s) : ∃ u, execChainWindowDone h' memErr s = .next u ∧ Keeps b s0 u := by
  unfold execChainWindowDone
  refine ⟨_, rfl, ?_⟩
  repeat' (first | with_reducible assumption | with_reducible apply State.assemble_keeps | with_reducible apply State.chainMemErr_keeps
                 | with_reducible apply State.chainWindow_keeps | with_reducible apply ite_keeps | split)

theorem execFeStrongEvent_keeps {b : Kept} {s0 s : State} (h : Keeps b s0 s) : ∃ u, execFeStrongEvent s = .next u ∧ Keeps b s0 u := by
  unfold execFeStrongEvent
  refine ⟨_, rfl, ?_⟩
  repeat' (first | with_reducible assumption
                 | (extract_lets +onlyGivenNames t; refine Keeps.cut (t := t) ?_ ?_; subst t; rotate_left; clear_value t; revert t; intro _ _)
                 | (extract_lets +onlyGivenNames t; revert t; intro _) | with_reducible apply State.feTake_keeps
                 | with_reducible exact mk_keeps (by assumption) rfl rfl rfl rfl rfl rfl rfl rfl rfl rfl rfl rfl | with_reducible apply ite_keeps | split)

theorem execFeContextExpiry_keeps {b : Kept} {s0 s : State} (i : Fin 64) (h : Keeps b s0 s) : ∃ u, execFeContextExpiry i s = .next u ∧ Keeps b s0 u := by
  unfold execFeContextExpiry
  refine ⟨_, rfl, ?_⟩
  repeat' (first | with_reducible assumption
                 | (extract_lets +onlyGivenNames t; refine Keeps.cut (t := t) ?_ ?_; subst t; rotate_left; clear_value t; revert t; intro _ _)
                 | (extract_lets +onlyGivenNames t; revert t; intro _) | with_reducible apply State.feFree_keeps | with_reducible apply State.syncFe_keeps
                 | with_reducible apply ite_keeps | split)

theorem execFrameBoundary_keeps {b : Kept} {s0 s : State} (h : Keeps b s0 s) : ∃ u, execFrameBoundary s = .next u ∧ Keeps b s0 u := by
  unfold execFrameBoundary
  refine ⟨_, rfl, ?_⟩
  repeat' (first | with_reducible assumption | with_reducible apply State.frameBoundary_keeps | with_reducible apply ite_keeps | split)

theorem execFlywheelBoundary_keeps {b : Kept} {s0 s : State} (h : Keeps b s0 s) : ∃ u, execFlywheelBoundary s = .next u ∧ Keeps b s0 u := by
  unfold execFlywheelBoundary
  refine ⟨_, rfl, ?_⟩
  repeat' (first | with_reducible assumption | with_reducible apply State.flag_keeps | with_reducible apply State.frameBoundary_keeps
                 | with_reducible apply State.inc_keeps | with_reducible apply ite_keeps | split)

theorem execFrameCutEdgeReached_keeps {b : Kept} {s0 s : State} (h : Keeps b s0 s) : ∃ u, execFrameCutEdgeReached s = .next u ∧ Keeps b s0 u := by
  unfold execFrameCutEdgeReached
  refine ⟨_, rfl, ?_⟩
  repeat' (first | with_reducible assumption | with_reducible apply State.setPlan_keeps | with_reducible apply State.startColumn_keeps
                 | with_reducible exact mk_keeps (by assumption) rfl rfl rfl rfl rfl rfl rfl rfl rfl rfl rfl rfl | with_reducible apply ite_keeps | split)

theorem execColumnPlan_keeps {b : Kept} {s0 s : State} (h : Keeps b s0 s) : ∃ u, execColumnPlan s = .next u ∧ Keeps b s0 u := by
  unfold execColumnPlan
  refine ⟨_, rfl, ?_⟩
  repeat' (first | with_reducible assumption | with_reducible apply State.planStep_keeps)

theorem execVelocitySegmentPost_keeps {b : Kept} {s0 s : State} (fault : Bool) (h : Keeps b s0 s) : ∃ u, execVelocitySegmentPost fault s = .next u ∧ Keeps b s0 u := by
  unfold execVelocitySegmentPost
  refine ⟨_, rfl, ?_⟩
  repeat' (first | with_reducible assumption | with_reducible apply State.failPlanner_keeps | with_reducible apply State.postSegment_keeps
                 | with_reducible apply ite_keeps | split)

theorem execColumnStart_keeps {b : Kept} {s0 s : State} (h : Keeps b s0 s) : ∃ u, execColumnStart s = .next u ∧ Keeps b s0 u := by
  unfold execColumnStart
  refine ⟨_, rfl, ?_⟩
  repeat' (first | with_reducible assumption | with_reducible apply State.startColumn_keeps | with_reducible apply ite_keeps | split)

theorem execColumnClose_keeps {b : Kept} {s0 s : State} (h : Keeps b s0 s) : ∃ u, execColumnClose s = .next u ∧ Keeps b s0 u := by
  unfold execColumnClose
  refine ⟨_, rfl, ?_⟩
  repeat' (first | with_reducible assumption | with_reducible apply State.closeColumn_keeps | with_reducible apply ite_keeps | split)

theorem execPlannerMicrosecond_keeps {b : Kept} {s0 s : State} (h : Keeps b s0 s) : ∃ u, execPlannerMicrosecond s = .next u ∧ Keeps b s0 u := by
  unfold execPlannerMicrosecond
  refine ⟨_, rfl, ?_⟩
  repeat' (first | with_reducible assumption | with_reducible apply State.reallocate_keeps | with_reducible apply ite_keeps | split)

theorem execHealthRead_keeps {b : Kept} {s0 s : State} (c : Cmd) (h : Keeps b s0 s) : ∃ u, execHealthRead c s = .next u ∧ Keeps b s0 u := by
  unfold execHealthRead State.runCommand
  exact ⟨_, rfl, State.command_keeps _ _ _ h fun _ _ _ ht => State.doHealthRead_keeps _ _ ht⟩

theorem execRecorderRead_keeps {b : Kept} {s0 s : State} (c : Cmd) (h : Keeps b s0 s) : ∃ u, execRecorderRead c s = .next u ∧ Keeps b s0 u := by
  unfold execRecorderRead State.runCommand
  exact ⟨_, rfl, State.command_keeps _ _ _ h fun _ _ _ ht => State.doRecorderRead_keeps _ _ ht⟩

theorem execRecorderFlush_keeps {b : Kept} {s0 s : State} (c : Cmd) (h : Keeps b s0 s) : ∃ u, execRecorderFlush c s = .next u ∧ Keeps b s0 u := by
  unfold execRecorderFlush State.runCommand
  exact ⟨_, rfl, State.command_keeps _ _ _ h fun _ _ _ ht => State.doRecorderFlush_keeps _ _ ht⟩

theorem execPowerRailChange_keeps {b : Kept} {s0 s : State} (rail : Fin 9) (uv : Nat) (hb : b.balls = false) (h : Keeps b s0 s) : ∃ u, execPowerRailChange rail uv s = .next u ∧ Keeps b s0 u := by
  unfold execPowerRailChange
  refine ⟨_, rfl, ?_⟩
  repeat' (first | with_reducible assumption
                 | (extract_lets +onlyGivenNames t; refine Keeps.cut (t := t) ?_ ?_; subst t; rotate_left; clear_value t; revert t; intro _ _)
                 | (extract_lets +onlyGivenNames t; revert t; intro _) | with_reducible apply State.loseRing_keeps
                 | (with_reducible refine State.setPower_keeps _ (by assumption) ?_)
                 | with_reducible exact mk_keeps (by assumption) rfl rfl rfl rfl rfl rfl rfl rfl rfl rfl rfl rfl | with_reducible apply ite_keeps | split)

theorem execBrownOut_keeps {b : Kept} {s0 s : State} (hh : b.halt = false) (hb : b.balls = false) (h : Keeps b s0 s) : ∃ u, execBrownOut s = .next u ∧ Keeps b s0 u := by
  refine ⟨_, rfl, ite_keeps ?_ h⟩
  have ht := State.enterReset_keeps 1 hh h
  generalize s.enterReset 1 = t at ht
  exact ⟨ht.variant, ht.pending, ht.regs, ht.cmds, ht.queue, ht.ports, ht.svn, ht.owner, ht.halt, ht.enroll, fun hx => absurd (hb.symm.trans hx) (by decide)⟩

theorem execResetRelease_keeps {b : Kept} {s0 s : State} (flSel : Bool) (hb : b.balls = false) (h : Keeps b s0 s) : ∃ u, execResetRelease flSel s = .next u ∧ Keeps b s0 u := by
  refine ⟨_, rfl, ?_⟩
  split
  · exact h
  · split
    · exact h
    · rename_i hc
      refine State.leaveReset_keeps _ hb (fun hx hd => absurd ?_ hc) h
      exact Or.inl (by rw [h.halt hx hd]; decide)

theorem execResetDeviceExpiry_keeps {b : Kept} {s0 s : State} (hh : b.halt = false) (h : Keeps b s0 s) : ∃ u, execResetDeviceExpiry s = .next u ∧ Keeps b s0 u := by
  unfold execResetDeviceExpiry
  refine ⟨_, rfl, ?_⟩
  repeat' (first | with_reducible assumption | (with_reducible refine State.enterReset_keeps _ (by assumption) ?_) | with_reducible apply ite_keeps | split)

theorem execPlannerRetest_keeps {b : Kept} {s0 s : State} (x : Fin 2) (pass : Bool) (h : Keeps b s0 s) : ∃ u, execPlannerRetest x pass s = .next u ∧ Keeps b s0 u := by
  unfold execPlannerRetest
  refine ⟨_, rfl, ?_⟩
  repeat' (first | with_reducible assumption | (intro _; try beta_reduce)
                 | (extract_lets +onlyGivenNames t; refine Keeps.cut (t := t) ?_ ?_; subst t; rotate_left; clear_value t; revert t; intro _ _)
                 | (extract_lets +onlyGivenNames t; revert t; intro _)
                 | with_reducible apply State.reset_keeps | with_reducible apply State.setF_keeps | with_reducible apply State.setPlanner_keeps
                 | with_reducible apply State.settle_keeps
                 | with_reducible exact mk_keeps (by assumption) rfl rfl rfl rfl rfl rfl rfl rfl rfl rfl rfl rfl | with_reducible apply ite_keeps | split)

theorem execCheckpointRestored_keeps {b : Kept} {s0 s : State} (bad0 bad1 : Bool) (h : Keeps b s0 s) : ∃ u, execCheckpointRestored bad0 bad1 s = .next u ∧ Keeps b s0 u := by
  unfold execCheckpointRestored
  refine ⟨_, rfl, ?_⟩
  repeat' (first | with_reducible assumption | (intro _; try beta_reduce)
                 | (extract_lets +onlyGivenNames t; refine Keeps.cut (t := t) ?_ ?_; subst t; rotate_left; clear_value t; revert t; intro _ _)
                 | (extract_lets +onlyGivenNames t; revert t; intro _) | with_reducible apply State.badCkpt_keeps | with_reducible apply State.newestCkpt_keeps
                 | with_reducible apply State.takeOver_keeps | with_reducible apply when_keeps | with_reducible apply ite_keeps | split)

theorem execFailoverTimeout_keeps {b : Kept} {s0 s : State} (h : Keeps b s0 s) : ∃ u, execFailoverTimeout s = .next u ∧ Keeps b s0 u := by
  unfold execFailoverTimeout
  refine ⟨_, rfl, ?_⟩
  repeat' (first | with_reducible assumption | with_reducible apply State.bothFailed_keeps | with_reducible apply ite_keeps | split)

theorem execClaimTieTimeout_keeps {b : Kept} {s0 s : State} (h : Keeps b s0 s) : ∃ u, execClaimTieTimeout s = .next u ∧ Keeps b s0 u := by
  unfold execClaimTieTimeout
  refine ⟨_, rfl, ?_⟩
  repeat' (first | with_reducible assumption | with_reducible apply State.bothFailed_keeps | with_reducible apply ite_keeps | split)

theorem execWatchdogMiss_keeps {b : Kept} {s0 s : State} (h : Keeps b s0 s) : ∃ u, execWatchdogMiss s = .next u ∧ Keeps b s0 u := by
  unfold execWatchdogMiss
  refine ⟨_, rfl, ?_⟩
  repeat' (first | with_reducible assumption | with_reducible apply State.superFault_keeps)

theorem execLockstepMismatch_keeps {b : Kept} {s0 s : State} (h : Keeps b s0 s) : ∃ u, execLockstepMismatch s = .next u ∧ Keeps b s0 u := by
  unfold execLockstepMismatch
  refine ⟨_, rfl, ?_⟩
  repeat' (first | with_reducible assumption | with_reducible apply State.superFault_keeps)

theorem execSsnReadback_keeps {b : Kept} {s0 s : State} (high : Bool) (h : Keeps b s0 s) : ∃ u, execSsnReadback high s = .next u ∧ Keeps b s0 u := by
  unfold execSsnReadback
  refine ⟨_, rfl, ?_⟩
  repeat' (first | with_reducible assumption | (intro _; try beta_reduce)
                 | (extract_lets +onlyGivenNames t; refine Keeps.cut (t := t) ?_ ?_; subst t; rotate_left; clear_value t; revert t; intro _ _)
                 | (extract_lets +onlyGivenNames t; revert t; intro _)
                 | with_reducible apply State.reset_keeps | with_reducible apply State.setBit_keeps | with_reducible apply State.ssnRead_keeps
                 | with_reducible exact mk_keeps (by assumption) rfl rfl rfl rfl rfl rfl rfl rfl rfl rfl rfl rfl | with_reducible apply ite_keeps | split)

theorem execMemoryError_keeps {b : Kept} {s0 s : State} (site : MemSite) (uncorrectable : Bool) (h : Keeps b s0 s) : ∃ u, execMemoryError site uncorrectable s = .next u ∧ Keeps b s0 u := by
  unfold execMemoryError
  refine ⟨_, rfl, ?_⟩
  repeat' (first | with_reducible assumption
                 | (extract_lets +onlyGivenNames t; refine Keeps.cut (t := t) ?_ ?_; subst t; rotate_left; clear_value t; revert t; intro _ _)
                 | (extract_lets +onlyGivenNames t; revert t; intro _) | with_reducible apply State.eccCount_keeps | with_reducible apply State.memFault_keeps
                 | with_reducible apply ite_keeps | split)

theorem execJtagBypass_keeps {b : Kept} {s0 s : State} (trst : Bool) (hb : b.balls = false) (h : Keeps b s0 s) : ∃ u, execJtagBypass trst s = .next u ∧ Keeps b s0 u := by
  unfold execJtagBypass
  refine ⟨_, rfl, ?_⟩
  repeat' (first | with_reducible assumption | (with_reducible refine State.tapBypass_keeps (by assumption) ?_)
                 | (with_reducible refine State.tapReset_keeps (by assumption) ?_) | with_reducible apply ite_keeps | split)

theorem execJtagIdcode_keeps {b : Kept} {s0 s : State} (trst : Bool) (hb : b.balls = false) (h : Keeps b s0 s) : ∃ u, execJtagIdcode trst s = .next u ∧ Keeps b s0 u := by
  unfold execJtagIdcode
  refine ⟨_, rfl, ?_⟩
  repeat' (first | with_reducible assumption | (with_reducible refine State.setTap_keeps _ (by assumption) ?_)
                 | (with_reducible refine State.tapReset_keeps (by assumption) ?_) | with_reducible exact mk_keeps (by assumption) rfl rfl rfl rfl rfl rfl rfl rfl rfl rfl rfl rfl
                 | with_reducible apply ite_keeps | split)

theorem execJtagSamplePreload_keeps {b : Kept} {s0 s : State} (trst : Bool) (cells : Nat) (hb : b.balls = false) (h : Keeps b s0 s) : ∃ u, execJtagSamplePreload trst cells s = .next u ∧ Keeps b s0 u := by
  unfold execJtagSamplePreload
  refine ⟨_, rfl, ?_⟩
  repeat' (first | with_reducible assumption | with_reducible apply State.fresh_keeps | (with_reducible refine State.setTap_keeps _ (by assumption) ?_)
                 | (with_reducible refine State.tapReset_keeps (by assumption) ?_) | with_reducible apply ite_keeps | split)

theorem execJtagExtest_keeps {b : Kept} {s0 s : State} (trst : Bool) (hb : b.balls = false) (h : Keeps b s0 s) : ∃ u, execJtagExtest trst s = .next u ∧ Keeps b s0 u := by
  unfold execJtagExtest
  refine ⟨_, rfl, ?_⟩
  repeat' (first | with_reducible assumption | (with_reducible refine State.tapBoundary_keeps _ (by assumption) ?_)
                 | (with_reducible refine State.tapReset_keeps (by assumption) ?_) | with_reducible apply ite_keeps | split)

theorem execJtagExtestPulse_keeps {b : Kept} {s0 s : State} (trst : Bool) (hb : b.balls = false) (h : Keeps b s0 s) : ∃ u, execJtagExtestPulse trst s = .next u ∧ Keeps b s0 u := by
  unfold execJtagExtestPulse
  refine ⟨_, rfl, ?_⟩
  repeat' (first | with_reducible assumption | (with_reducible refine State.tapBoundary_keeps _ (by assumption) ?_)
                 | (with_reducible refine State.tapReset_keeps (by assumption) ?_) | with_reducible apply ite_keeps | split)

theorem execJtagExtestTrain_keeps {b : Kept} {s0 s : State} (trst : Bool) (hb : b.balls = false) (h : Keeps b s0 s) : ∃ u, execJtagExtestTrain trst s = .next u ∧ Keeps b s0 u := by
  unfold execJtagExtestTrain
  refine ⟨_, rfl, ?_⟩
  repeat' (first | with_reducible assumption | (with_reducible refine State.tapBoundary_keeps _ (by assumption) ?_)
                 | (with_reducible refine State.tapReset_keeps (by assumption) ?_) | with_reducible apply ite_keeps | split)

theorem execJtagHighz_keeps {b : Kept} {s0 s : State} (trst : Bool) (hb : b.balls = false) (h : Keeps b s0 s) : ∃ u, execJtagHighz trst s = .next u ∧ Keeps b s0 u := by
  unfold execJtagHighz
  refine ⟨_, rfl, ?_⟩
  repeat' (first | with_reducible assumption | (with_reducible refine State.tapClamp_keeps _ (by assumption) ?_)
                 | (with_reducible refine State.tapReset_keeps (by assumption) ?_) | with_reducible apply ite_keeps | split)

theorem execJtagClamp_keeps {b : Kept} {s0 s : State} (trst : Bool) (hb : b.balls = false) (h : Keeps b s0 s) : ∃ u, execJtagClamp trst s = .next u ∧ Keeps b s0 u := by
  unfold execJtagClamp
  refine ⟨_, rfl, ?_⟩
  repeat' (first | with_reducible assumption | (with_reducible refine State.tapClamp_keeps _ (by assumption) ?_)
                 | (with_reducible refine State.tapReset_keeps (by assumption) ?_) | with_reducible apply ite_keeps | split)

theorem execWaggleTick_keeps {b : Kept} {s0 s : State} (xs ys : List Int) (late : List Nat) (h : Keeps b s0 s) : ∃ u, execWaggleTick xs ys late s = .next u ∧ Keeps b s0 u := by
  unfold execWaggleTick
  refine ⟨_, rfl, ?_⟩
  repeat' (first | with_reducible assumption | with_reducible apply State.waggleTick_keeps | with_reducible apply ite_keeps | split)

theorem execLoopComputeDone_keeps {b : Kept} {s0 s : State} (l : Fin 20) (h : Keeps b s0 s) : ∃ u, execLoopComputeDone l s = .next u ∧ Keeps b s0 u := by
  unfold execLoopComputeDone
  refine ⟨_, rfl, ?_⟩
  repeat' (first | with_reducible assumption | with_reducible apply State.setLoop_keeps
                 | with_reducible exact mk_keeps (by assumption) rfl rfl rfl rfl rfl rfl rfl rfl rfl rfl rfl rfl | with_reducible apply ite_keeps | split)

theorem execSteerSafeEntry_keeps {b : Kept} {s0 s : State} (h : Keeps b s0 s) : ∃ u, execSteerSafeEntry s = .next u ∧ Keeps b s0 u := by
  unfold execSteerSafeEntry
  refine ⟨_, rfl, ?_⟩
  repeat' (first | with_reducible assumption | with_reducible apply State.setWag_keeps | with_reducible apply State.toSafe_keeps
                 | with_reducible exact mk_keeps (by assumption) rfl rfl rfl rfl rfl rfl rfl rfl rfl rfl rfl rfl | with_reducible apply ite_keeps | split)

theorem execHeaterHoldExpiry_keeps {b : Kept} {s0 s : State} (h : Keeps b s0 s) : ∃ u, execHeaterHoldExpiry s = .next u ∧ Keeps b s0 u := by
  unfold execHeaterHoldExpiry
  refine ⟨_, rfl, ?_⟩
  repeat' (first | with_reducible assumption | (intro _; try beta_reduce) | with_reducible apply State.hold_keeps | with_reducible apply State.presetHeater_keeps
                 | with_reducible apply each_keeps | with_reducible apply ite_keeps | split)

theorem execScanStartReached_keeps {b : Kept} {s0 s : State} (h : Keeps b s0 s) : ∃ u, execScanStartReached s = .next u ∧ Keeps b s0 u := by
  unfold execScanStartReached
  refine ⟨_, rfl, ?_⟩
  repeat' (first | with_reducible assumption | with_reducible apply State.setWag_keeps
                 | with_reducible exact mk_keeps (by assumption) rfl rfl rfl rfl rfl rfl rfl rfl rfl rfl rfl rfl | with_reducible apply ite_keeps | split)

theorem execArmSettled_keeps {b : Kept} {s0 s : State} (h : Keeps b s0 s) : ∃ u, execArmSettled s = .next u ∧ Keeps b s0 u := by
  unfold execArmSettled
  refine ⟨_, rfl, ?_⟩
  repeat' (first | with_reducible assumption | with_reducible apply State.cmdDone_keeps | with_reducible apply State.setWag_keeps
                 | with_reducible exact mk_keeps (by assumption) rfl rfl rfl rfl rfl rfl rfl rfl rfl rfl rfl rfl | with_reducible apply ite_keeps | split)

theorem execArmSettleTimeout_keeps {b : Kept} {s0 s : State} (h : Keeps b s0 s) : ∃ u, execArmSettleTimeout s = .next u ∧ Keeps b s0 u := by
  unfold execArmSettleTimeout
  refine ⟨_, rfl, ?_⟩
  repeat' (first | with_reducible assumption
                 | (extract_lets +onlyGivenNames t; refine Keeps.cut (t := t) ?_ ?_; subst t; rotate_left; clear_value t; revert t; intro _ _)
                 | (extract_lets +onlyGivenNames t; revert t; intro _) | with_reducible apply State.biasDown_keeps | with_reducible apply State.cmdFails_keeps
                 | with_reducible apply State.endScan_keeps | with_reducible apply State.endSpan_keeps | with_reducible apply State.flag_keeps
                 | with_reducible apply State.raise_keeps | with_reducible apply State.releaseAxis_keeps | with_reducible apply State.setWag_keeps
                 | with_reducible exact mk_keeps (by assumption) rfl rfl rfl rfl rfl rfl rfl rfl rfl rfl rfl rfl | with_reducible apply ite_keeps | split)

theorem execParkSettled_keeps {b : Kept} {s0 s : State} (a : Fin 2) (h : Keeps b s0 s) : ∃ u, execParkSettled a s = .next u ∧ Keeps b s0 u := by
  unfold execParkSettled
  refine ⟨_, rfl, ?_⟩
  repeat' (first | with_reducible assumption
                 | (extract_lets +onlyGivenNames t; refine Keeps.cut (t := t) ?_ ?_; subst t; rotate_left; clear_value t; revert t; intro _ _)
                 | (extract_lets +onlyGivenNames t; revert t; intro _) | with_reducible apply State.releaseAxis_keeps | with_reducible apply State.setAxState_keeps
                 | with_reducible apply State.setAxis_keeps | with_reducible exact mk_keeps (by assumption) rfl rfl rfl rfl rfl rfl rfl rfl rfl rfl rfl rfl
                 | with_reducible apply ite_keeps | split)

theorem execParkTimeout_keeps {b : Kept} {s0 s : State} (a : Fin 2) (h : Keeps b s0 s) : ∃ u, execParkTimeout a s = .next u ∧ Keeps b s0 u := by
  unfold execParkTimeout
  refine ⟨_, rfl, ?_⟩
  repeat' (first | with_reducible assumption | with_reducible apply State.flag_keeps | with_reducible apply State.releaseAxis_keeps | with_reducible apply ite_keeps
                 | split)

theorem execReleaseDone_keeps {b : Kept} {s0 s : State} (a : Fin 2) (h : Keeps b s0 s) : ∃ u, execReleaseDone a s = .next u ∧ Keeps b s0 u := by
  unfold execReleaseDone
  refine ⟨_, rfl, ?_⟩
  repeat' (first | with_reducible assumption | (intro _; try beta_reduce)
                 | (extract_lets +onlyGivenNames t; refine Keeps.cut (t := t) ?_ ?_; subst t; rotate_left; clear_value t; revert t; intro _ _)
                 | (extract_lets +onlyGivenNames t; revert t; intro _) | with_reducible apply State.hardRelease_keeps | with_reducible apply State.runCmds_keeps
                 | with_reducible apply State.setWag_keeps | with_reducible apply when_keeps
                 | with_reducible exact mk_keeps (by assumption) rfl rfl rfl rfl rfl rfl rfl rfl rfl rfl rfl rfl | with_reducible apply ite_keeps | split)

end Sys2Proof.Machine
end

