-- ==== Sys2Proof/Laws/Ports.lean ====
section
/-!
SUPPORT. Laws/Ports.lean: what forming a packet, a reply and the keeping of a reply do to the ports and the registers, and what a command of the table comes to once
its checks have passed.
-/

namespace Sys2Proof.Machine

open Sys2Proof

/-- What a port holds depends on the port table alone. -/
theorem State.port_congr {s t : State} (h : t.ports = s.ports) (p : Nat) : t.port p = s.port p := by unfold State.port; rw [h]

/-- A port's registers are told apart by their addresses. -/
theorem State.formPkt_port (s : State) (p code tag : Nat) (isEvent mandatory : Bool) (status : Nat) (params : List Byte) (port k : Nat) :
    (s.formPkt p code tag isEvent mandatory status params port).port k = if k = p then { s.port p with
      out := (s.port p).out ++ [{ port, opcode := code, tag, isEvent, mandatory, status, params, seq := (s.port p).nextSeq, timeUs := s.timeUs }]
      nextSeq := ((s.port p).nextSeq + 1) % 65536 } else s.port k := by
  show (State.setPort _ _ _).port k = _
  split
  · rename_i e; subst e; exact State.port_setPort_self _ _ _
  · exact State.port_setPort_ne _ (by assumption) _

/-- Forming a packet leaves every register but `PORT_QUEUE_p` alone. -/
theorem State.formPkt_rd (s : State) (p code tag : Nat) (isEvent mandatory : Bool) (status : Nat) (params : List Byte) (port : Nat) {a : Nat} (h : a ≠ Reg.PORT_QUEUE p) :
    (s.formPkt p code tag isEvent mandatory status params port).rd a = s.rd a := by
  simp only [State.formPkt, State.syncPort]
  rw [State.rd_setF_ne _ h, State.rd_setF_ne _ h]
  exact State.rd_congr rfl rfl a

/-- Forming a packet changes registers and ports alone. -/
theorem State.formPkt_frame (s : State) (p code tag : Nat) (isEvent mandatory : Bool) (status : Nat) (params : List Byte) (port : Nat) :
    ∃ r q, s.formPkt p code tag isEvent mandatory status params port = { s with regs := r, ports := q } := ⟨_, _, rfl⟩

/-- What a reply with any status but `INTERNAL_ERROR` does to the ports: the packet waits last at its port. -/
theorem State.sendReply_port (s : State) (p op tag st : Nat) (ps : List Byte) (port : Nat) (h : st ≠ Sts.INTERNAL_ERROR) (k : Nat) :
    (s.sendReply p op tag st ps port).port k = if k = p then { s.port p with
      out := (s.port p).out ++
        [{ port, opcode := op, tag, isEvent := false, mandatory := false, status := st, params := ps, seq := (s.port p).nextSeq, timeUs := s.timeUs }]
      nextSeq := ((s.port p).nextSeq + 1) % 65536 } else s.port k := by
  have hi : (st == Sts.INTERNAL_ERROR) = false := by simpa using h
  have e : (s.sendReply p op tag st ps port).ports = (s.formPkt p op tag false false st ps port).ports := by
    unfold State.sendReply State.when
    simp only [hi, Bool.false_eq_true, if_false]
    have g1 : ∀ (t : State) (b : Bool) (i : Nat), (if b then t.flag Reg.CMD_FLAGS i else t).ports = t.ports := by
      intro t b i; cases b <;> rfl
    have g2 : ∀ (t : State) (b : Bool), (if b then t.inc (Reg.PORT_CMD_ERR p) else t).ports = t.ports := by
      intro t b; cases b <;> rfl
    rw [g2, g1, g1]
  rw [State.port_congr e, State.formPkt_port]

/-- The registers that a reply leaves alone. -/
theorem State.sendReply_rd (s : State) (p op tag st : Nat) (ps : List Byte) (port : Nat) (h : st ≠ Sts.INTERNAL_ERROR) {a : Nat} (h1 : a ≠ Reg.PORT_QUEUE p)
    (h2 : a ≠ Reg.CMD_FLAGS) (h3 : a ≠ Reg.PORT_CMD_ERR p) : (s.sendReply p op tag st ps port).rd a = s.rd a := by
  have hi : (st == Sts.INTERNAL_ERROR) = false := by simpa using h
  unfold State.sendReply State.when
  simp only [hi, Bool.false_eq_true, if_false]
  rw [← State.formPkt_rd s p op tag false false st ps port h1]
  have g1 : ∀ (t : State) (b : Bool) (i : Nat), (if b then t.flag Reg.CMD_FLAGS i else t).rd a = t.rd a := by
    intro t b i; cases b
    · rfl
    · exact State.rd_flag_ne _ h2 _
  have g2 : ∀ (t : State) (b : Bool), (if b then t.inc (Reg.PORT_CMD_ERR p) else t).rd a = t.rd a := by
    intro t b; cases b
    · rfl
    · exact State.rd_inc_ne _ h3
  rw [g2, g1, g1]

/-- A reply changes registers and ports alone. -/
theorem State.sendReply_frame (s : State) (p op tag st : Nat) (ps : List Byte) (port : Nat) (h : st ≠ Sts.INTERNAL_ERROR) :
    ∃ r q f, s.sendReply p op tag st ps port = { s with regs := r, ports := q, flagNow := f } := by
  have hi : (st == Sts.INTERNAL_ERROR) = false := by simpa using h
  unfold State.sendReply State.when
  simp only [hi, Bool.false_eq_true, if_false]
  have g1 : ∀ (t : State) (b : Bool) (i : Nat), (∃ r q f, t = { s with regs := r, ports := q, flagNow := f }) →
      ∃ r q f, (if b then t.flag Reg.CMD_FLAGS i else t) = { s with regs := r, ports := q, flagNow := f } := by
    rintro t b i ⟨r, q, f, rfl⟩
    cases b
    · exact ⟨r, q, f, rfl⟩
    · exact ⟨_, _, _, rfl⟩
  have g2 : ∀ (t : State) (b : Bool), (∃ r q f, t = { s with regs := r, ports := q, flagNow := f }) →
      ∃ r q f, (if b then t.inc (Reg.PORT_CMD_ERR p) else t) = { s with regs := r, ports := q, flagNow := f } := by
    rintro t b ⟨r, q, f, rfl⟩
    cases b
    · exact ⟨r, q, f, rfl⟩
    · exact ⟨_, _, _, rfl⟩
  obtain ⟨r, q, e⟩ := s.formPkt_frame p op tag false false st ps port
  exact g2 _ _ (g1 _ _ _ (g1 _ _ _ ⟨r, q, s.flagNow, e⟩))

/-- With no unknown opcode and no aborted command first at any port, none is answered. -/
theorem State.drainUnknown_known {n : Nat} {s : State} (h : ∀ p x, (s.port p).queue.head? = some x → x.aborted = false ∧ knownOpcode x.opcode = true) :
    State.drainUnknown n s = s := by
  cases n with
  | zero => rfl
  | succ n =>
    unfold State.drainUnknown
    split
    · rfl
    · split
      · rfl
      · rename_i he
        have hx := h _ _ (by rw [he]; rfl)
        rw [if_neg (by simp [hx.1]), if_pos hx.2]

/-- With no accepted command waiting, none has its turn. -/
theorem State.runCmds_nil {n : Nat} {s : State} (h : s.sys.cmds = []) : State.runCmds n s = s := by
  cases n with
  | zero => rfl
  | succ n => unfold State.runCmds; rw [h]

/-- Keeping a reply changes its port's kept replies alone. -/
theorem State.keepReply_port (s : State) (p : Nat) (x : KeptReply) (k : Nat) :
    (s.keepReply p x).port k = if k = p then { s.port p with
      kept := ((s.port p).kept.filter (fun y => y.tag != x.tag) ++ [x]).drop (((s.port p).kept.filter (fun y => y.tag != x.tag) ++ [x]).length - 16) }
      else s.port k := by
  show (State.setPort _ _ _).port k = _
  split
  · rename_i e; subst e; exact State.port_setPort_self _ _ _
  · exact State.port_setPort_ne _ (by assumption) _

/-- A command row, by the state in which its packet waits. -/
theorem State.command_queued {s : State} (r : CmdRule) (body : Nat → QCmd → State → Reply) {c : Cmd} (h1 : s.noCommands = false)
    (h2 : s.portExists (s.portOf c.port) = true) :
    s.command r body c = match ((s.queued r.opcode (s.portOf c.port) c).port (s.portOf c.port)).queue with
      | [] => s.queued r.opcode (s.portOf c.port) c
      | x :: _ =>
        if x.opcode = r.opcode ∧ x.cmd = c ∧ (s.queued r.opcode (s.portOf c.port) c).hasTurn (s.portOf c.port) then
          (((((s.queued r.opcode (s.portOf c.port) c).popCmd (s.portOf c.port)).execute r (s.portOf c.port) x (body (s.portOf c.port) x)).runCmds 8)).drainUnknown 68
        else s.queued r.opcode (s.portOf c.port) c := by
  unfold State.command
  simp only [h1, h2, Bool.not_true, Bool.or_self, Bool.false_eq_true, if_false]
  rfl

/-- A command of the table that is taken and passes checks 1 to 5 of R332 comes to what its body says. -/
theorem State.command_admitted {s t : State} {op p : Nat} {c : Cmd} {x : QCmd} (r : CmdRule) (body : Nat → QCmd → State → Reply)
    (h : s.Takes op c p x t) (ho : r.opcode = op) (y : Reply) (hy : t.checked r p x (body p x) = y) :
    s.command r body c = State.concludes p x y := by
  obtain ⟨h1, h2, h3, h4, h5, h6, h7, h8, h9⟩ := h
  subst h1 ho h9
  rw [State.command_queued r body h2 h3]
  generalize s.queued r.opcode (s.portOf c.port) c = q at *
  generalize s.portOf c.port = p at *
  split
  · rename_i he
    rw [he] at h4; cases h4
  · rename_i x' l he
    rw [he] at h4
    obtain rfl : x' = x := by simpa using h4
    rw [if_pos ⟨h5, h6, h7⟩]
    unfold State.execute State.serve State.concludes
    simp only [h6, h5, h8]
    subst hy
    rfl
end Sys2Proof.Machine
end

