-- ==== Sys2Proof/Laws/Commands.lean ====
section
/-!
SUPPORT. Laws/Commands.lean: the rule of every command row agrees with the table of R343 as Safety.lean states it.
-/

namespace Sys2Proof.Machine

open Sys2Proof

/-- A rule that says what the table of R343 says of an opcode at a port. -/
structure CmdRule.Fits (r : CmdRule) (op p : Nat) : Prop where
  opcode : r.opcode = op
  roles : ∀ ρ, r.roles.contains ρ = (cmdRoles op p).contains ρ.code
  states : ∀ d, r.states.contains d = (cmdStates op).contains d.code
  judged : r.judged = cmdJudged op
  halt : haltOpcode op = cmdHalt op

/-- Checks 4 and 5 of R332, by the table. -/
theorem State.permit_eq {s : State} {r : CmdRule} {op p : Nat} (h : r.Fits op p) :
    s.permit r p = if s.cmdAllows op p then none else some (if s.dev ≠ .faultHalt ∧ (cmdRoles op p).contains (s.role p).code = false then Sts.NOT_PERMITTED else Sts.BAD_STATE) := by
  unfold State.permit State.cmdAllows
  simp only [h.opcode, h.roles, h.states, h.judged, h.halt]
  by_cases hd : s.dev = .faultHalt
  · simp [hd]
  · cases hr : (cmdRoles op p).contains (s.role p).code <;> simp [hd]

/-- A block of one exact size. -/
theorem exactly_isNone (n l : Nat) : (exactly n l).isNone = (l == n) := by
  unfold exactly; by_cases h : l = n <;> simp [h]

/-- A block of one exact size that has at least its first bytes. -/
theorem exactly_min (k l n : Nat) : (if l < k then some l else exactly n l).isNone = (decide (k ≤ l) && l == n) := by
  by_cases h : l < k
  · rw [if_pos h]; simp; omega
  · rw [if_neg h, exactly_isNone]; simp; omega

/-- A command row is its rule, with the lengths that `cmdFits` says, and its effect; that of `OWNER_KEY_ENROLL` is followed by the report of an enrolment that fails. -/
theorem Instr.rule (i : Instr) (op : Nat) (c : Cmd) (s : State) (h : i.command? = some (op, c)) :
    ∃ r body, r.Fits op (s.portOf c.port) ∧ (r.len c.length).isNone = cmdFits op c ∧
      (exec i s = .next (s.command r body c) ∨ exec i s = .next (s.command r body c).enrollFails) := by
  cases i <;> simp only [Instr.command?, Option.some.injEq, Prod.mk.injEq, reduceCtorEq] at h
  case streamSubscribe =>
    obtain ⟨rfl, rfl⟩ := h
    refine ⟨_, _, ?_, exactly_isNone _ _, .inl rfl⟩
    refine ⟨rfl, fun ρ => ?_, fun d => ?_, rfl, rfl⟩
    · by_cases hp : s.portOf (↑‹Cmd›.port) = 4
      · simp [laneRoles, hp, cmdRoles]
      · simp only [laneRoles, cmdRoles, hp, if_false, and_false]; cases ρ <;> rfl
    · cases d <;> rfl
  case ownerKeyEnroll =>
    obtain ⟨rfl, rfl⟩ := h
    refine ⟨_, _, ?_, exactly_isNone _ _, .inr rfl⟩
    refine ⟨rfl, fun ρ => ?_, fun d => ?_, rfl, rfl⟩
    · cases ρ <;> rfl
    · cases d <;> rfl
  all_goals
    obtain ⟨rfl, rfl⟩ := h
    refine ⟨_, _, ?_, ?_, .inl rfl⟩
    · refine ⟨rfl, fun ρ => ?_, fun d => ?_, rfl, rfl⟩
      · cases ρ <;> rfl
      · cases d <;> rfl
    · first
      | exact exactly_isNone _ _
      | exact exactly_min _ _ _
      | (show (bulkLen _).isNone = decide _; unfold bulkLen; split <;> simp <;> omega)
      | (show Option.isNone (if _ then _ else if _ then _ else _) = (decide _ && decide _); split <;> [skip; split] <;> simp <;> omega)

/-- A report of a failed enrolment needs one. -/
theorem State.enrollFails_none {s : State} (h : s.enrollOk) : s.enrollFails = s := by
  unfold State.enrollFails
  split
  · rfl
  · rw [if_pos (h _ (by assumption))]

/-- A command that ends keeps what `Keeps` says. -/
theorem State.concludes_keeps {b : Kept} {s0 : State} (p : Nat) (x : QCmd) (y : Reply) (h : Keeps b s0 y.state) : Keeps b s0 (State.concludes p x y) := by
  unfold State.concludes
  exact State.drainUnknown_keeps _ (State.runCmds_keeps _ (State.conclude_keeps _ _ _ h))

/-- Taking a packet keeps what `Keeps` says. -/
theorem State.Takes.keeps {s t : State} {op p : Nat} {c : Cmd} {x : QCmd} (h : s.Takes op c p x t) : Keeps {} s t := by
  rw [h.state]
  refine State.inc_keeps _ (State.popCmd_keeps _ ?_)
  unfold State.queued
  split
  · exact Keeps.refl _ _
  · exact State.arrive_keeps _ _ (Keeps.refl _ _)

/-- A command that is admitted, with a length that fits, comes to its own effect. -/
theorem State.command_runs {s t : State} {op p : Nat} {c : Cmd} {x : QCmd} (r : CmdRule) (body : Nat → QCmd → State → Reply)
    (h : s.Admits op c p x t) (hf : r.Fits op p) (hl : r.len c.length = none) {y : Reply} (hy : body p x t = y) :
    s.runCommand r body c = .next (State.concludes p x y) := by
  refine congrArg _ (State.command_admitted r body h.toTakes hf.opcode y ?_)
  unfold State.checked
  rw [State.permit_eq hf]
  simp [h.cmd, h.header, h.whole, h.allows, hl, hy]

end Sys2Proof.Machine
end

