-- ==== Sys2Proof/Laws/Events.lean ====
section
/-!
SUPPORT. Laws/Events.lean: what raising an event can do: it changes ports, the registers of ports and flags alone.
-/

namespace Sys2Proof.Machine

open Sys2Proof

/-- A register that no event writes. -/
def NoPortReg (a : Nat) : Prop := a ≠ Reg.CMD_FLAGS ∧ ∀ p, p < 5 → a ≠ Reg.PORT_QUEUE p ∧ a ≠ Reg.PORT_EVT_DROP p

/-- The registers of ports are on page 0x0010 alone. -/
theorem noPortReg {a : Nat} (h : a < 0x00100000 ∨ 0x00110000 ≤ a) : NoPortReg a := by
  refine ⟨by rintro rfl; revert h; decide, fun p hp => ⟨fun e => ?_, fun e => ?_⟩⟩
  · unfold Reg.PORT_QUEUE at e; omega
  · unfold Reg.PORT_EVT_DROP at e; omega

/-- What events do: registers, ports and flags change alone, and the registers of no port stand. -/
structure State.Events (s t : State) : Prop where
  frame : ∃ r q f, t = { s with regs := r, ports := q, flagNow := f }
  rd : ∀ a, NoPortReg a → t.rd a = s.rd a

theorem State.Events.refl (s : State) : s.Events s := ⟨⟨s.regs, s.ports, s.flagNow, rfl⟩, fun _ _ => rfl⟩

theorem State.Events.trans {s t u : State} (h : s.Events t) (g : t.Events u) : s.Events u := by
  obtain ⟨⟨r, q, f, rfl⟩, h2⟩ := h
  obtain ⟨⟨r', q', f', rfl⟩, g2⟩ := g
  exact ⟨⟨r', q', f', rfl⟩, fun a ha => (g2 a ha).trans (h2 a ha)⟩

/-- The registers of no port stand, by field, bit and number. -/
theorem State.Events.f {s t : State} (h : s.Events t) {a : Nat} (ha : a < 0x00100000 ∨ 0x00110000 ≤ a) (hi lo : Nat) : t.f a hi lo = s.f a hi lo := by
  unfold State.f; rw [h.rd a (noPortReg ha)]

theorem State.Events.bit {s t : State} (h : s.Events t) {a : Nat} (ha : a < 0x00100000 ∨ 0x00110000 ≤ a) (i : Nat) : t.bit a i = s.bit a i := by
  unfold State.bit; rw [h.rd a (noPortReg ha)]

theorem State.Events.r {s t : State} (h : s.Events t) {a : Nat} (ha : a < 0x00100000 ∨ 0x00110000 ≤ a) : t.r a = s.r a := by
  unfold State.r; rw [h.rd a (noPortReg ha)]

/-- A fold of updates that do no more than events do does no more. -/
theorem State.each_events {α : Type} (l : List α) (g : State → α → State) (hg : ∀ (s : State) (a : α), s.Events (g s a)) (s : State) : s.Events (s.each l g) := by
  unfold State.each
  induction l generalizing s with
  | nil => exact State.Events.refl s
  | cons a l ih => exact (hg s a).trans (ih _)

theorem State.setPort_events (s : State) (p : Nat) (q : PortSt) : s.Events (s.setPort p q) := ⟨⟨_, _, _, rfl⟩, fun _ _ => rfl⟩

theorem State.wr_events (s : State) (a : Nat) (v : Word) (h : ¬ NoPortReg a) : s.Events (s.wr a v) :=
  ⟨⟨_, _, _, rfl⟩, fun b hb => s.rd_wr_ne (by rintro rfl; exact h hb) v⟩

theorem State.inc_events (s : State) {p : Nat} (hp : p < 5) : s.Events (s.inc (Reg.PORT_EVT_DROP p)) := s.wr_events _ _ fun h => (h.2 p hp).2 rfl

theorem State.flag_events (s : State) (i : Nat) : s.Events (s.flag Reg.CMD_FLAGS i) := ⟨⟨_, _, _, rfl⟩, fun _ hb => State.rd_flag_ne _ hb.1 _⟩

theorem not_noPortReg_queue {p : Nat} (hp : p < 5) : ¬ NoPortReg (Reg.PORT_QUEUE p) := fun h => (h.2 p hp).1 rfl

theorem State.formPkt_events (s : State) {p : Nat} (hp : p < 5) (code tag : Nat) (isEvent mandatory : Bool) (status : Nat) (params : List Byte) :
    s.Events (s.formPkt p code tag isEvent mandatory status params) :=
  ((s.setPort_events p _).trans (State.wr_events _ _ _ (not_noPortReg_queue hp))).trans (State.wr_events _ _ _ (not_noPortReg_queue hp))

theorem State.queueEvent_events (s : State) {p : Nat} (hp : p < 5) (code tag status : Nat) (params : List Byte) : s.Events (s.queueEvent p code tag status params) := by
  unfold State.queueEvent
  dsimp only
  split
  · split
    · exact State.formPkt_events _ hp ..
    · exact State.setPort_events ..
  · split
    · exact State.Events.refl s
    · split
      · exact State.formPkt_events _ hp ..
      · exact ((s.setPort_events p _).trans (State.inc_events _ hp)).trans (State.flag_events _ 3)

/-- Events for a list of ports. -/
theorem State.queueEvents_events (s : State) (l : List Nat) (hl : ∀ p ∈ l, p < 5) (code tag status : Nat) (params : List Byte) :
    s.Events (s.each l fun s p => s.queueEvent p code tag status params) := by
  unfold State.each
  induction l generalizing s with
  | nil => exact State.Events.refl s
  | cons p l ih => exact (s.queueEvent_events (hl p (by simp)) code tag status params).trans (ih _ fun q hq => hl q (by simp [hq]))

/-- The ports that exist are five. -/
theorem State.portList_lt (s : State) {p : Nat} (h : p ∈ s.portList) : p < 5 := by
  have := (List.mem_filter.mp h).1
  simp at this
  omega

/-- Raising an event changes ports, their registers and flags alone. -/
theorem State.raise_events (s : State) (code : Nat) (params : List Byte) : s.Events (s.raise code .all params) :=
  s.queueEvents_events _ (fun _ h => s.portList_lt h) code 0 0 params

/-- The same of the outcome of a request, which its own port hears. -/
theorem State.raise_own_events (s : State) (code p : Nat) (hp : p < 5) (params : List Byte) : s.Events (s.raise code (.own p) params) := by
  refine s.queueEvents_events _ (fun q h => ?_) code 0 0 params
  have : q = s.portOf p := by simpa [State.scopePorts] using h
  subst this
  unfold State.portOf
  split <;> omega

end Sys2Proof.Machine
end

