-- ==== Sys2Proof/Laws/Line.lean ====
section
/-!
SUPPORT. Laws/Line.lean: the layers of a lane's line code, undone one by one: scrambling, stuffing, line units, bytes; and what the receiver reads from a group of sixteen
flits, up to its bytes.
-/

namespace Sys2Proof.Machine

open Sys2Proof

/-- The descrambler, in the scrambler's state, undoes it, and goes to the state that the scrambler went to. -/
theorem descramble_scramble (ds : List Bool) : ∀ st, descramble st (scramble st ds).1 = (ds, (scramble st ds).2) := by
  induction ds with
  | nil => intro st; rfl
  | cons d ds ih =>
    intro st
    have h : ((d ^^ bitN st 27 ^^ bitN st 30) ^^ bitN st 27 ^^ bitN st 30) = d := by
      cases d <;> cases bitN st 27 <;> cases bitN st 30 <;> rfl
    simp only [scramble, scrStep, descramble, descrStep, h, ih]

/-- As many bits leave the scrambler as enter it. -/
@[simp] theorem scramble_length (ds : List Bool) : ∀ st, (scramble st ds).1.length = ds.length := by
  induction ds with
  | nil => intro st; rfl
  | cons d ds ih => intro st; simp [scramble, ih]

/-- The receiver's state after the units of `stuff` finds the stuff units and no others. -/
theorem unstuff_stuff (pam : Bool) (us : List Nat) : ∀ last run, unstuff pam last run false (stuff pam last run us) = us := by
  induction us with
  | nil => intro last run; rfl
  | cons u us ih =>
    intro last run
    simp only [stuff]
    generalize hn : (if u = last then run + 1 else 1) = n
    by_cases h : n = 48
    · simp [unstuff, h, hn, ih]
    · simp [unstuff, hn, beq_eq_false_iff_ne.mpr h, h, ih]

/-- No unit of a stuffed sequence continues a run of 48. -/
theorem overrun_stuff (pam : Bool) (us : List Nat) : ∀ last run, overrun pam last run false (stuff pam last run us) = false := by
  induction us with
  | nil => intro last run; rfl
  | cons u us ih =>
    intro last run
    simp only [stuff]
    generalize hn : (if u = last then run + 1 else 1) = n
    by_cases h : n = 48
    · simp [overrun, h, hn, ih]
    · simp [overrun, hn, beq_eq_false_iff_ne.mpr h, h, ih]

/-- The bits that the units of bits stand for: the bits; at four levels, of a whole number of pairs. -/
theorem bitsOfUnits_unitsOf (pam : Bool) : ∀ bs : List Bool, bs.length % 2 = 0 → bitsOfUnits pam (unitsOf pam bs) = bs := by
  suffices h : ∀ n (bs : List Bool), bs.length = n → (pam = true → n % 2 = 0) → bitsOfUnits pam (unitsOf pam bs) = bs from
    fun bs e => h _ bs rfl fun _ => e
  intro n
  induction n using Nat.strongRecOn with
  | _ n ih =>
    intro bs hl hp
    match bs with
    | [] => rfl
    | [a] =>
      cases pam
      · cases a <;> rfl
      · have := hp rfl; simp at hl; omega
    | a :: b :: r =>
      have hl' : r.length + 2 = n := by simpa using hl
      cases pam
      · have := ih (n - 1) (by omega) (b :: r) (by simp; omega) (by simp)
        simp only [unitsOf, bitsOfUnits, List.flatMap_cons, Bool.false_eq_true, if_false] at this ⊢
        rw [this]; cases a <;> rfl
      · have := ih (n - 2) (by omega) r (by omega) (fun _ => by have := hp rfl; omega)
        simp only [unitsOf, bitsOfUnits, List.flatMap_cons, if_true] at this ⊢
        rw [this]; cases a <;> cases b <;> rfl

/-- The byte that its bits spell. -/
theorem byte_of_bits : ∀ b : Byte, BitVec.ofNat 8 (((byteBits b).zipIdx.map fun e => b2n e.1 * 2 ^ e.2).sum) = b := by decide

@[simp] theorem byteBits_length (b : Byte) : (byteBits b).length = 8 := by simp [byteBits]

/-- The bytes that the bits of bytes spell. -/
theorem bytesOfBits_byteBits (bs : List Byte) : bytesOfBits bs.length (bs.flatMap byteBits) = bs := by
  induction bs with
  | nil => rfl
  | cons b bs ih =>
    have hn : ((byteBits b ++ bs.flatMap byteBits).drop 7).isEmpty = false := by
      rw [List.isEmpty_eq_false_iff, ← List.length_pos_iff]; simp; omega
    have ht : (byteBits b ++ bs.flatMap byteBits).take 8 = byteBits b := List.take_left' (byteBits_length b)
    have hd : (byteBits b ++ bs.flatMap byteBits).drop 8 = bs.flatMap byteBits := List.drop_left' (byteBits_length b)
    simp only [List.length_cons, List.flatMap_cons, bytesOfBits, hn, ht, hd, ih, byte_of_bits]
    rfl

@[simp] theorem bits_length (bs : List Byte) : (bs.flatMap byteBits).length = 8 * bs.length := by
  induction bs with
  | nil => rfl
  | cons b bs ih => simp [ih]; omega

@[simp] theorem leBytes_length (n v : Nat) : (leBytes n v).length = n := by
  induction n generalizing v with
  | zero => rfl
  | succ n ih => simp [leBytes, ih]

@[simp] theorem bytesAt_length (bs : List Byte) (o n : Nat) : (bytesAt bs o n).length = n := by
  simp only [bytesAt, List.length_append, List.length_replicate, List.length_take]; omega

/-- R311: a flit has 68 bytes. -/
@[simp] theorem flitBytes_length (gseq idx : Nat) (f : Flit) : (flitBytes gseq idx f).length = 68 := by
  cases f <;> simp [flitBytes, payload64]

/-- R310: a group of sixteen flits has 1,092 bytes. -/
theorem groupBytes_length (gseq : Nat) (fs : List Flit) : (groupBytes gseq fs).length = 68 * fs.length + 4 := by
  have h : ∀ (l : List Flit) idx, (flitsBytes gseq idx l).length = 68 * l.length := by
    intro l
    induction l with
    | nil => intro idx; rfl
    | cons f l ih => intro idx; simp [flitsBytes, ih]; omega
  simp [groupBytes, h]

/-- The comma that follows a unit is the one that its own first unit asks for. -/
theorem comma_own (pam : Bool) (last : Nat) :
    (commaRun pam last == 0 || commaRun pam last == if pam then 3 else 1) = true ∧ comma pam (commaInv pam (commaRun pam last)) = comma pam last := by
  have : commaRun pam last = 0 ∨ commaRun pam last = if pam then 3 else 1 := by
    cases pam <;> simp [commaRun] <;> omega
  have hr : commaRun pam (commaInv pam (commaRun pam last)) = commaRun pam last := by
    rcases this with h | h <;> rw [h] <;> cases pam <;> rfl
  constructor
  · rcases this with h | h <;> rw [h] <;> cases pam <;> rfl
  · simp only [comma, hr]

/-- What the receiver reads from a group of sixteen flits that a transmitter in its scrambler's state put on the line: the bytes of the group, well led and well framed. -/
theorem readGroup_lineGroup (pam : Bool) (scr last gseq : Nat) (fs : List Flit) (hf : fs.length = 16) :
    readGroup pam scr (lineGroup pam scr last gseq fs).1 = (readBytes true true (groupBytes gseq fs), (lineGroup pam scr last gseq fs).2.1) := by
  have hc := comma_own pam last
  have hl : (comma pam last).length = 64 := by simp [comma]
  have hb := groupBytes_length gseq fs
  have hd (l : List Nat) : (comma pam last ++ l).drop 64 = l := List.drop_left' hl
  have ht (l : List Nat) : (comma pam last ++ l).take 64 = comma pam last := List.take_left' hl
  have hh (l : List Nat) : (comma pam last ++ l).headD 2 = commaRun pam last := rfl
  have heven : ((scramble scr ((groupBytes gseq fs).flatMap byteBits)).1.length) % 2 = 0 := by simp; omega
  simp only [lineGroup, readGroup, hd, ht, hh, hc.1, hc.2, unstuff_stuff, overrun_stuff, bitsOfUnits_unitsOf pam _ heven, descramble_scramble, bits_length, hb, hf,
    beq_self_eq_true, Bool.and_true, Bool.not_true, Bool.false_and, Bool.not_false]
  rw [if_pos (by norm_num), show (1092 : Nat) = (groupBytes gseq fs).length by rw [hb, hf], bytesOfBits_byteBits]

end Sys2Proof.Machine
end

