-- ==== Sys2Proof/WellFormed.lean ====
section
/-!
DEFINITION. WellFormed.lean: which operands a command can have. An index of a fixed range has a type that bounds it; here the widths of fields and the lengths of
lists are checked. A command that breaks a rule of the protocol (a wrong length, a reserved bit set) is well formed: the block answers it.
-/

namespace Sys2Proof

/-- A command packet on the wire: its `LENGTH` field has 16 bits (R329). -/
def Cmd.wf (c : Cmd) : Bool := decide (c.length < 2 ^ 16)

/-- R319: one to three eyes, and a swing. -/
def EyeReading.wf (e : EyeReading) : Bool := decide (1 ≤ e.eyes.length ∧ e.eyes.length ≤ 3 ∧ 1 ≤ e.swing)

/-- R96: a drip frame has eight blocks. -/
def DripFrame.wf (f : DripFrame) : Bool := decide (f.seq < 256) && f.blocks.length == 8

/-- R275: the fields of a swarm message. -/
def SwarmMsg.wf (m : SwarmMsg) : Bool := decide (m.type < 16 ∧ m.src < 8 ∧ m.time < 2 ^ 64 ∧ m.number < 2 ^ 32 ∧ m.reserved < 512 ∧ m.crc < 2 ^ 32)

/-- R377: the fields of a descriptor. -/
def DmaDesc.wf (d : DmaDesc) : Bool :=
  decide (d.src < 2 ^ 32 ∧ d.dst < 2 ^ 32 ∧ d.count < 2 ^ 24 ∧ d.srcSpace < 16 ∧ d.dstSpace < 16 ∧ d.seqno < 65536 ∧ d.srcSel < 16 ∧ d.dstSel < 16 ∧ d.crc < 2 ^ 32)

/-- R181, R182: what is measured of one comb: 16 stop timers and 8 start timers. -/
def CombCal.wf (k : CombCal) : Bool := k.stops.length == 16 && k.starts.length == 8

/-- Indices all below a bound. -/
def below (n : Nat) (l : List Nat) : Bool := l.all fun x => decide (x < n)

/-- R23: a place that exists in some variant. -/
def MemSite.wf : MemSite → Bool
  | .engineRecord e => decide (e < 1024)
  | .engineKernel e => decide (e < 1024)
  | .chain h => decide (h < 8)
  | .sct bank i => decide (bank < 2 ∧ i < 65536)
  | .output sub => decide (sub < 32)
  | .track i => decide (i < 4096)
  | .checkpoint b => decide (b < 2)
  | .retention i => decide (i < 4096)
  | .planner x => decide (x < 2)
  | _ => true

/-- R165: an injection into a channel that exists in some variant, in one of the four ranges. -/
def Injection.wf (i : Injection) : Bool := decide (i.ch < 512 ∧ i.range < 4 ∧ i.peak < 64 ∧ i.shot < 16)

/-- A code of the 14-bit current converter (R118). -/
def code14 (v : Int) : Bool := decide (-8192 ≤ v ∧ v ≤ 8191)

/-- R437: channels and engines that a boot report names exist in some variant. -/
def BootReport.wf (r : BootReport) : Bool := r.rxTest.all Injection.wf && below 1024 r.engBad

/-- A command's operands are ones that it can have. Every constructor with an operand to check has an arm; those whose types bound
them, or that have none, end the match. -/
def Instr.wf : Instr → Bool
  | .nop c | .identify c | .ownerClaim c | .ownerRelease c | .arm c | .disarm c | .startSensing c | .stopSensing c | .forceSafe c
  | .recover c | .resetDevice c | .syncTime c | .eventConfig c | .paramRead c | .paramWrite c | .paramModify c | .sctWrite c
  | .sctCommit c | .sctRead c | .trackWrite c | .trackRead c | .regionRequest c | .regionCancel c | .regionPriority c | .zoneWrite c
  | .zoneCommit c | .zoneRead c | .streamSubscribe c | .streamUnsubscribe c | .streamStatus c | .dmaRestart c | .captureArm c
  | .captureStop c | .captureTrigger c | .captureRead c | .captureFree c | .calibrateFull c | .calibrateComb c | .calRead c
  | .calWrite c | .calSave c | .templateWrite c | .templateCommit c | .templateRead c | .attest c | .certRead c | .updateBegin c
  | .updateData c | .updateCommit c | .ownerKeyEnroll c | .healthRead c | .recorderRead c | .recorderFlush c => c.wf
  | .commandArrival _ c => c.wf
  | .bootDone r => r.wf
  | .dripRetFrame f => f.wf
  | .monitorTick fast refBad _ => below 512 fast && below 32 refBad
  | .waggleTick xs ys late => xs.length == 4 && ys.length == 4 && (xs ++ ys).all code14 && below 20 late
  | .rxSelftestDone l => l.all Injection.wf
  | .clockWindow _ _ badCombs badPlanners => below 32 badCombs && below 2 badPlanners
  | .swarmMessageRx m => m.wf
  | .dmaAppend _ addr d _ => d.wf && addr.toNat % 32 == 0
  | .laneGroupRx _ units => units.all fun u => decide (u < 4)
  | .laneEqDone _ eyes ctle preset _ => eyes.length == 11 && eyes.all EyeReading.wf && decide (ctle < 16 ∧ preset < 11)
  | .eyeUpdate _ eye => eye.wf
  | .memoryError site _ => site.wf
  | .combCalDone k => k.wf
  | .fullCalMeasureDone k => k.combs.all CombCal.wf
  | .recorderFlushBudget pages => decide (pages ≤ 255)
  | _ => true

end Sys2Proof
end

