-- ==== Sys2Proof/Tests/Slice0.lean ====
section
/-!
SUPPORT. Tests/Slice0.lean: the model's own tests: for every statement with premises, states and operands that meet them; ill-formed operands, which WellFormed.lean
refuses; and values that the spec works out. Every state is small, and every test runs at most one row.
-/

namespace Sys2Proof.Tests

open Sys2Proof Sys2Proof.Machine

/-! ## Small states and packets -/

/-- A state like reset's, in operating state `d`, with some registers set. -/
def st (d : DevState) (l : List (Nat × Word)) : State := { State.reset with sys := { dev := d }, regs := ⟨l⟩ }

/-- In operating state `d`, with HP0 the owner. -/
def owned (d : DevState) : State := st d [(Reg.PORT_ROLES, 2)]

/-- A packet from HP0 with these parameter bytes. -/
def pkt (ps : List Byte) : Cmd := { port := 0, tag := 7, b4 := 0, length := ps.length, params := ps }

/-- The state in which a packet from HP0 is carried out. -/
def taken (s : State) (op : Nat) (c : Cmd) : State := ((s.queued op 0 c).popCmd 0).inc (Reg.PORT_CMD_COUNT 0)

/-- A packet as it waits that arrived at device time 0. -/
def entry (op : Nat) (c : Cmd) : QCmd := { opcode := op, lenOk := cmdLenOk c, cmd := c }

/-- What makes a packet from HP0 taken, as a test. -/
def takes (s : State) (op : Nat) (c : Cmd) : Bool :=
  decide (s.portOf c.port = 0) && !s.noCommands && s.portExists 0 && decide (((s.queued op 0 c).port 0).queue.head? = some (entry op c)) &&
    (s.queued op 0 c).hasTurn 0 && ((((s.queued op 0 c).popCmd 0).port 0).kept.find? (fun k => k.tag == c.tag.toNat && k.opcode == op)).isNone

/-- The test says what it is for. -/
theorem takes_of {s : State} {op : Nat} {c : Cmd} (h : takes s op c = true) : s.Takes op c 0 (entry op c) (taken s op c) := by
  simp only [takes, Bool.and_eq_true, decide_eq_true_eq, Bool.not_eq_true'] at h
  obtain ⟨⟨⟨⟨⟨h1, h2⟩, h3⟩, h4⟩, h5⟩, h6⟩ := h
  exact ⟨h1.symm, h2, h3, h4, rfl, rfl, h5, Option.isNone_iff_eq_none.mp h6, rfl⟩

/-- A packet of opcode `op` is admitted from HP0, with what `P` says of it and of the state in which it is carried out. -/
def Shown (op : Nat) (P : Cmd → Nat → State → Prop) : Prop := ∃ (c : Cmd) (s : State) (p : Nat) (x : QCmd) (t : State), s.Admits op c p x t ∧ P c p t

/-- Shown by a packet and a state. -/
theorem shown {op : Nat} {P : Cmd → Nat → State → Prop} (s : State) (c : Cmd) (h : takes s op c = true)
    (h1 : (headerOk c 0 && cmdLenOk c && (taken s op c).cmdAllows op 0) = true) (hp : P c 0 (taken s op c)) : Shown op P := by
  simp only [Bool.and_eq_true] at h1
  exact ⟨c, s, 0, _, _, ⟨takes_of h, h1.1.1, h1.1.2, h1.2⟩, hp⟩

/-! ## Premises of the statements about steps and packets -/

/-- Nothing waits in a state of `st`, and no enrolment is under way. -/
theorem st_quiet (d : DevState) (l : List (Nat × Word)) : (st d l).quiet ∧ (st d l).enrollOk :=
  ⟨⟨rfl, fun _ _ h => nomatch h⟩, fun _ h => nomatch h⟩

/-- Premises of IdleStep, StepKeepsInv and FusesStay: a state with the invariant, which steps. -/
theorem test_steps : (∃ s : State, s.pending = []) ∧ (∃ s t : State, s.Inv ∧ step s = .next t) ∧ (∃ s t : State, s.dev = .faultHalt ∧ step s = .next t) :=
  ⟨⟨State.reset, rfl⟩, ⟨owned .standby, _, ⟨by decide, by decide, by decide, fun p => ⟨Nat.zero_le _, Nat.zero_le _, Nat.zero_le _⟩, (st_quiet _ _).2⟩, rfl⟩,
    ⟨owned .faultHalt, _, rfl, rfl⟩⟩

/-- HP0's queue is full. -/
def full : State := { owned .standby with ports := ⟨[(0, { queue := List.replicate 16 (entry 0x0100 (pkt [])) })]⟩ }

/-- Premises of ArrivalQueues and ArrivalBusy. -/
theorem test_arrival :
    (∃ (op : BitVec 16) (c : Cmd) (s : State) (p : Nat), p = s.portOf c.port ∧ s.noCommands = false ∧ s.portExists p = true ∧ knownOpcode op.toNat = true ∧ s.quiet ∧
      (s.port p).queue.length < (if p = 4 then 4 else 16)) ∧
    (∃ (c : Cmd) (s : State) (p : Nat), p = s.portOf c.port ∧ s.noCommands = false ∧ s.portExists p = true ∧ s.quiet ∧ (if p = 4 then 4 else 16) ≤ (s.port p).queue.length) := by
  refine ⟨⟨0x0100, pkt [], owned .standby, 0, by decide, by decide, by decide, by decide, (st_quiet _ _).1, by decide⟩,
    ⟨pkt [], full, 0, by decide, by decide, by decide, ⟨rfl, fun p x h => ?_⟩, by decide⟩⟩
  match p, h with
  | 0, h => cases h; exact ⟨rfl, rfl⟩
  | _ + 1, h => exact nomatch h

/-- A packet stands first, in a state without a failed enrolment, with what `P` says. -/
def TakenShown (P : Instr → Nat → Cmd → Nat → QCmd → State → Prop) : Prop :=
  ∃ (i : Instr) (op : Nat) (c : Cmd) (s : State) (p : Nat) (x : QCmd) (t : State), i.command? = some (op, c) ∧ s.enrollOk ∧ s.Takes op c p x t ∧ P i op c p x t

/-- Shown by a row and a state of `st`. -/
theorem takenShown {P : Instr → Nat → Cmd → Nat → QCmd → State → Prop} (i : Instr) (op : Nat) (c : Cmd) (d : DevState) (l : List (Nat × Word))
    (hi : i.command? = some (op, c)) (h : takes (st d l) op c = true) (hp : P i op c 0 (entry op c) (taken (st d l) op c)) : TakenShown P :=
  ⟨i, op, c, st d l, 0, _, _, hi, (st_quiet d l).2, takes_of h, hp⟩

/-- Premises of ChecksInOrder, RolesAndStates and TakenFrame. -/
theorem test_checks :
    TakenShown (fun _ _ c p _ _ => headerOk c p = false) ∧
    TakenShown (fun _ _ c p x _ => headerOk c p = true ∧ x.lenOk = false) ∧
    TakenShown (fun _ op c p x _ => headerOk c p = true ∧ x.lenOk = true ∧ cmdFits op c = false) ∧
    TakenShown (fun _ op c p x t => headerOk c p = true ∧ x.lenOk = true ∧ cmdFits op c = true ∧ t.cmdAllows op p = false ∧ t.dev ≠ .faultHalt ∧
      (cmdRoles op p).contains (t.role p).code = false) ∧
    TakenShown (fun _ op c p x t => headerOk c p = true ∧ x.lenOk = true ∧ cmdFits op c = true ∧ t.cmdAllows op p = false ∧ (cmdRoles op p).contains (t.role p).code = true) ∧
    TakenShown (fun _ op c p x t => headerOk c p = true ∧ x.lenOk = true ∧ cmdFits op c = true ∧ t.cmdAllows op p = false ∧ t.dev = .faultHalt) ∧
    (∃ (s : State) (op : Nat) (c : Cmd) (p : Nat) (x : QCmd) (t : State), s.Takes op c p x t ∧ (s.port p).queue = []) :=
  ⟨takenShown (.nop { pkt [] with b5 := 1 }) 0x0100 _ .standby [] rfl (by decide) (by decide),
    takenShown (.nop { pkt [] with length := 1 }) 0x0100 _ .standby [] rfl (by decide) (by decide), takenShown (.nop (pkt [1])) 0x0100 _ .standby [] rfl (by decide) (by decide),
    takenShown (.arm (pkt [])) 0x0104 _ .standby [] rfl (by decide) (by decide),
    takenShown (.disarm (pkt [])) 0x0105 _ .standby [(Reg.PORT_ROLES, 2)] rfl (by decide) (by decide),
    takenShown (.nop (pkt [])) 0x0100 _ .faultHalt [] rfl (by decide) (by decide),
    ⟨owned .standby, 0x0100, pkt [], 0, _, _, takes_of (by decide), by decide⟩⟩

/-- HP0 keeps a reply to `NOP` with tag 7. -/
def resent : State := { owned .standby with ports := ⟨[(0, { kept := [⟨7, 0x0100, 0, [], 0⟩] })]⟩ }

/-- Premises of ResentAnswered: a kept reply with the packet's tag and opcode. -/
theorem test_ResentAnswered : ∃ (i : Instr) (op : Nat) (c : Cmd) (s : State) (p : Nat) (x : QCmd) (k : KeptReply), i.command? = some (op, c) ∧ s.enrollOk ∧ p = s.portOf c.port ∧
    s.noCommands = false ∧ s.portExists p = true ∧ ((s.queued op p c).port p).queue.head? = some x ∧ x.opcode = op ∧ x.cmd = c ∧
    (s.queued op p c).hasTurn p = true ∧ (((s.queued op p c).popCmd p).port p).kept.find? (fun k => k.tag == c.tag.toNat && k.opcode == op) = some k :=
  ⟨.nop (pkt []), 0x0100, pkt [], resent, 0, entry 0x0100 (pkt []), ⟨7, 0x0100, 0, [], 0⟩, rfl,
    (by intro e h; cases h), by decide, by decide, by decide, by decide, rfl, rfl, by decide, by decide⟩

/-- Premises of ReplySent. -/
theorem test_ReplySent : ∃ y : Reply, y.state.quiet ∧ y.after = none ∧ y.status ≠ Sts.INTERNAL_ERROR := ⟨⟨owned .standby, 0, [], none⟩, (st_quiet _ _).1, rfl, by decide⟩

/-! ## Premises of the statements about commands -/

/-- Premises of PortCommandsRun. -/
theorem test_PortCommandsRun : Shown 0x0100 (fun c _ _ => c.length = 0) ∧ Shown 0x010C (fun c _ _ => c.length = 4) ∧ Shown 0x0101 (fun c _ _ => c.length = 0) :=
  ⟨shown (owned .standby) (pkt []) (by decide) (by decide) (by decide), shown (owned .standby) (pkt (leBytes 4 5)) (by decide) (by decide) (by decide),
    shown (owned .faultHalt) (pkt []) (by decide) (by decide) (by decide)⟩

/-- Premises of OwnerCommandsDecided: the six rows of R339, a release, and changes of owner. -/
theorem test_OwnerCommandsDecided :
    Shown 0x0102 (fun c p t => c.length = 1 ∧ t.bit Reg.PORT_ROLE_CFG (8 * p + 1) = false) ∧
    Shown 0x0102 (fun c p t => c.length = 1 ∧ t.bit Reg.PORT_ROLE_CFG (8 * p + 1) = true ∧ t.owner = some p) ∧
    Shown 0x0102 (fun c p t => c.length = 1 ∧ t.bit Reg.PORT_ROLE_CFG (8 * p + 1) = true ∧ t.owner = none) ∧
    Shown 0x0102 (fun c p t => c.length = 1 ∧ t.bit Reg.PORT_ROLE_CFG (8 * p + 1) = true ∧ t.owner = some 1 ∧ 1 ≠ p ∧ bitN (fieldAt c.params 0 1) 0 = true ∧ t.rank 1 < t.rank p) ∧
    Shown 0x0102 (fun c p t => c.length = 1 ∧ t.bit Reg.PORT_ROLE_CFG (8 * p + 1) = true ∧ t.owner = some 1 ∧ 1 ≠ p ∧ bitN (fieldAt c.params 0 1) 0 = false) ∧
    Shown 0x0102 (fun c p t => c.length = 1 ∧ t.bit Reg.PORT_ROLE_CFG (8 * p + 1) = true ∧ t.owner = some 1 ∧ 1 ≠ p ∧ bitN (fieldAt c.params 0 1) 0 = true ∧ t.rank p ≤ t.rank 1) ∧
    Shown 0x0103 (fun c p t => c.length = 0 ∧ p < 5 ∧ t.owner = some p) :=
  ⟨shown (st .standby []) (pkt [0]) (by decide) (by decide) (by decide),
    shown (st .standby [(Reg.PORT_ROLES, 2), (Reg.PORT_ROLE_CFG, 2), (Reg.OWNER_INFO, 8)]) (pkt [0]) (by decide) (by decide) (by decide),
    shown (st .standby [(Reg.PORT_ROLE_CFG, 2)]) (pkt [0]) (by decide) (by decide) (by decide),
    shown (st .standby [(Reg.PORT_ROLES, 0x20), (Reg.PORT_ROLE_CFG, 6), (Reg.OWNER_INFO, 9)]) (pkt [1]) (by decide) (by decide) (by decide),
    shown (st .standby [(Reg.PORT_ROLES, 0x20), (Reg.PORT_ROLE_CFG, 6), (Reg.OWNER_INFO, 9)]) (pkt [0]) (by decide) (by decide) (by decide),
    shown (st .standby [(Reg.PORT_ROLES, 0x20), (Reg.PORT_ROLE_CFG, 0x3702), (Reg.OWNER_INFO, 9)]) (pkt [1]) (by decide) (by decide) (by decide),
    shown (st .standby [(Reg.PORT_ROLES, 2), (Reg.OWNER_INFO, 8)]) (pkt []) (by decide) (by decide) (by decide)⟩

/-- Premises of StateCommandsAccepted. -/
theorem test_StateCommandsAccepted :
    Shown 0x0104 (fun c _ _ => c.length = 0) ∧ Shown 0x0105 (fun c _ _ => c.length = 0) ∧ Shown 0x0106 (fun c _ _ => c.length = 0) ∧
    Shown 0x0107 (fun c _ _ => c.length = 0) ∧ Shown 0x0108 (fun c _ _ => c.length = 0) ∧ Shown 0x0109 (fun c _ _ => c.length = 0) ∧
    Shown 0x0600 (fun c _ _ => c.length = 0) :=
  ⟨shown (owned .standby) (pkt []) (by decide) (by decide) (by decide), shown (owned .armed) (pkt []) (by decide) (by decide) (by decide),
    shown (owned .armed) (pkt []) (by decide) (by decide) (by decide), shown (owned .sensing) (pkt []) (by decide) (by decide) (by decide),
    shown (owned .sensing) (pkt []) (by decide) (by decide) (by decide), shown (owned .safe) (pkt []) (by decide) (by decide) (by decide),
    shown (owned .degraded) (pkt []) (by decide) (by decide) (by decide)⟩

/-- Premises of ResetDeviceRuns. -/
theorem test_ResetDeviceRuns : Shown 0x010A (fun c _ _ => c.length = 0) ∧ (∃ s : State, s.sys.resetAt = some 5 ∧ s.now < 5) ∧
    (∃ s : State, s.sys.resetAt = some 5 ∧ 5 ≤ s.now) :=
  ⟨shown (owned .faultHalt) (pkt []) (by decide) (by decide) (by decide), ⟨{ State.reset with sys := { resetAt := some 5 } }, rfl, by decide⟩,
    ⟨{ State.reset with now := 5, sys := { resetAt := some 5 } }, rfl, by decide⟩⟩

/-- `SYNC_TIME` in mode `m`. -/
def syncPkt (m : Nat) : Cmd := pkt (leBytes 8 100 ++ leBytes 4 m)

/-- Premises of SyncTimeDecided. -/
theorem test_SyncTimeDecided :
    Shown 0x010B (fun c _ t => c.length = 12 ∧ 2 ≤ fieldBits c.params 8 1 1 0 ∧ (t.swarmOn && !t.swarmMaster) = false) ∧
    Shown 0x010B (fun c _ t => c.length = 12 ∧ (t.swarmOn && !t.swarmMaster) = true) ∧
    Shown 0x010B (fun c _ t => c.length = 12 ∧ fieldBits c.params 8 1 1 0 = 0 ∧ (t.swarmOn && !t.swarmMaster) = false) ∧
    Shown 0x010B (fun c _ t => c.length = 12 ∧ fieldBits c.params 8 1 1 0 = 1 ∧ (t.swarmOn && !t.swarmMaster) = false ∧ t.dev = .safe) ∧
    Shown 0x010B (fun c _ t => c.length = 12 ∧ fieldBits c.params 8 1 1 0 = 1 ∧ (t.swarmOn && !t.swarmMaster) = false ∧
      ¬ (t.dev = .standby ∨ t.dev = .armed ∨ t.dev = .safe)) :=
  ⟨shown (owned .standby) (syncPkt 2) (by decide) (by decide) (by decide),
    shown (st .standby [(Reg.SWARM_CTRL, 1), (Reg.PORT_ROLES, 2)]) (syncPkt 1) (by decide) (by decide) (by decide),
    shown (owned .sensing) (syncPkt 0) (by decide) (by decide) (by decide), shown (owned .safe) (syncPkt 1) (by decide) (by decide) (by decide),
    shown (owned .sensing) (syncPkt 1) (by decide) (by decide) (by decide)⟩

/-- `PARAM_READ` of `n` registers from `a`. -/
def readPkt (a n : Nat) : Cmd := pkt (leBytes 4 a ++ leBytes 4 n)

/-- `PARAM_WRITE` of values from `a` on. -/
def writePkt (a : Nat) (vs : List Nat) : Cmd := pkt (leBytes 4 a ++ leBytes 4 vs.length ++ (vs.map (leBytes 4)).flatten)

/-- Premises of ParamReadDecided: 255 registers and 0, an address between registers, one without a register, one of a fused-off comb. -/
theorem test_ParamReadDecided :
    Shown 0x0200 (fun c _ _ => c.length = 8 ∧ fieldAt c.params 0 4 % 4 ≠ 0) ∧
    Shown 0x0200 (fun c _ _ => c.length = 8 ∧ fieldAt c.params 0 4 % 4 = 0 ∧ fieldAt c.params 4 2 = 0) ∧
    Shown 0x0200 (fun c p _ => c.length = 8 ∧ fieldAt c.params 0 4 % 4 = 0 ∧ (if p = 4 then 250 else 255) < fieldAt c.params 4 2) ∧
    Shown 0x0200 (fun c p _ => c.length = 8 ∧ fieldAt c.params 0 4 % 4 = 0 ∧ 1 ≤ fieldAt c.params 4 2 ∧ fieldAt c.params 4 2 ≤ (if p = 4 then 250 else 255) ∧
      regAt (fieldAt c.params 0 4) = none) ∧
    Shown 0x0200 (fun c p t => c.length = 8 ∧ fieldAt c.params 0 4 % 4 = 0 ∧ 1 ≤ fieldAt c.params 4 2 ∧ fieldAt c.params 4 2 ≤ (if p = 4 then 250 else 255) ∧
      (regAt (fieldAt c.params 0 4)).any (fun h => !h.present t.variant) = true) ∧
    Shown 0x0200 (fun c p t => c.length = 8 ∧ fieldAt c.params 0 4 % 4 = 0 ∧ 1 ≤ fieldAt c.params 4 2 ∧ fieldAt c.params 4 2 ≤ (if p = 4 then 250 else 255) ∧
      (regAt (fieldAt c.params 0 4)).any (fun h => h.present t.variant) = true) :=
  ⟨shown (owned .standby) (readPkt 2 1) (by decide) (by decide) (by decide), shown (owned .standby) (readPkt 0x00020104 0) (by decide) (by decide) (by decide),
    shown (owned .standby) (readPkt 0x00020104 256) (by decide) (by decide) (by decide), shown (owned .standby) (readPkt 0 1) (by decide) (by decide) (by decide),
    shown { owned .standby with variant := .nl5_128 } (readPkt (Reg.BIAS_I 31) 1) (by decide) (by decide) (by decide),
    shown (owned .standby) (readPkt 0x00020104 255) (by decide) (by decide) (by decide)⟩

/-- Premises of ParamWriteDecided: `PARAM_WRITE` of `FRAME_PERIOD`, then `PARAM_MODIFY`. -/
theorem test_ParamWriteDecided :
    Shown 0x0201 (fun c _ _ => c.length = 12 ∧ fieldAt c.params 4 2 = 1 ∧ fieldAt c.params 0 4 % 4 ≠ 0) ∧
    Shown 0x0201 (fun c _ t => c.length = 12 ∧ fieldAt c.params 4 2 = 1 ∧ fieldAt c.params 0 4 % 4 = 0 ∧
      (t.writeFault false (fieldAt c.params 0 4) (BitVec.ofNat 32 (fieldAt c.params 8 4))).isSome = true) ∧
    Shown 0x0201 (fun c _ t => c.length = 12 ∧ fieldAt c.params 4 2 = 1 ∧ fieldAt c.params 0 4 % 4 = 0 ∧
      (regAt (fieldAt c.params 0 4)).any (fun h => h.present t.variant && decide (h.row.acc = .ro)) = true) ∧
    Shown 0x0201 (fun c _ t => c.length = 12 ∧ fieldAt c.params 4 2 = 1 ∧ fieldAt c.params 0 4 % 4 = 0 ∧
      t.writeFault false (fieldAt c.params 0 4) (BitVec.ofNat 32 (fieldAt c.params 8 4)) = none) ∧
    Shown 0x0202 (fun c _ _ => c.length = 12 ∧ fieldAt c.params 0 4 % 4 ≠ 0) ∧
    Shown 0x0202 (fun c _ t => c.length = 12 ∧ fieldAt c.params 0 4 % 4 = 0 ∧
      (regAt (fieldAt c.params 0 4)).any (fun h => h.present t.variant && decide (h.row.acc = .ro)) = true) ∧
    Shown 0x0202 (fun c _ t => c.length = 12 ∧ fieldAt c.params 0 4 % 4 = 0 ∧ (regAt (fieldAt c.params 0 4)).any (fun h => !decide (h.row.acc = .w1c) &&
      (t.writeFault false (fieldAt c.params 0 4) ((t.readReg h (fieldAt c.params 0 4) &&& ~~~(BitVec.ofNat 32 (fieldAt c.params 4 4))) |||
        (BitVec.ofNat 32 (fieldAt c.params 8 4) &&& BitVec.ofNat 32 (fieldAt c.params 4 4)))).isNone) = true) :=
  ⟨shown (owned .standby) (writePkt 2 [0]) (by decide) (by decide) (by decide), shown (owned .standby) (writePkt 0x00020104 [0]) (by decide) (by decide) (by decide),
    shown (owned .standby) (writePkt Reg.CLK_STATUS [0]) (by decide) (by decide) (by decide),
    shown (owned .standby) (writePkt 0x00020104 [40000]) (by decide) (by decide) (by decide),
    shown (owned .standby) (pkt (leBytes 12 2)) (by decide) (by decide) (by decide),
    shown (owned .standby) (pkt (leBytes 12 Reg.CLK_STATUS)) (by decide) (by decide) (by decide),
    shown (owned .standby) (pkt (leBytes 4 0x00020104 ++ leBytes 4 0xFFFFFF ++ leBytes 4 40000)) (by decide) (by decide) (by decide)⟩

/-- Premises of ParamWriteInOrder: two writes that are stored, and a second one that is refused. -/
theorem test_ParamWriteInOrder :
    Shown 0x0201 (fun c p t => fieldAt c.params 0 4 % 4 = 0 ∧ 2 = fieldAt c.params 4 2 ∧ 2 ≤ (if p = 4 then 250 else 255) ∧ c.length = 16 ∧
      ∀ i, i < 2 → ((List.range i).foldl (fun u i => u.writeReg (fieldAt c.params 0 4 + 4 * i) (BitVec.ofNat 32 (fieldAt c.params (8 + 4 * i) 4)) c.port c.tag.toNat) t).writeFault
        false (fieldAt c.params 0 4 + 4 * i) (BitVec.ofNat 32 (fieldAt c.params (8 + 4 * i) 4)) = none) ∧
    Shown 0x0201 (fun c _ t => fieldAt c.params 0 4 % 4 = 0 ∧ 2 = fieldAt c.params 4 2 ∧ c.length = 16 ∧
      (t.writeFault false (fieldAt c.params 0 4) (BitVec.ofNat 32 (fieldAt c.params 8 4))).isSome = true) :=
  ⟨shown (owned .armed) (writePkt 0x000C0200 [0, 0]) (by decide) (by decide) (by decide),
    shown (owned .standby) (writePkt 0x00020104 [0, 0]) (by decide) (by decide) (by decide)⟩

/-- The write of one register by HP0. -/
def hw (v : Word) : HostWrite := { port := 0, tag := 7, value := v }

/-- A row that writes one register is admitted, and no rule refuses the write. -/
def WriteShown (w : HostWrite) (a : Nat) (v : Word) : Prop :=
  ∃ (s : State) (p : Nat) (x : QCmd) (t : State), s.Admits 0x0201 (HostWrite.cmd w a v) p x t ∧ t.writeFault false a v = none

/-- Shown by a state. -/
theorem writeShown {w : HostWrite} {a : Nat} {v : Word} (s : State) (h : takes s 0x0201 (HostWrite.cmd w a v) = true)
    (h1 : (headerOk (HostWrite.cmd w a v) 0 && cmdLenOk (HostWrite.cmd w a v) && (taken s 0x0201 (HostWrite.cmd w a v)).cmdAllows 0x0201 0) = true)
    (hp : (taken s 0x0201 (HostWrite.cmd w a v)).writeFault false a v = none) : WriteShown w a v := by
  simp only [Bool.and_eq_true] at h1
  exact ⟨s, 0, _, _, ⟨takes_of h, h1.1.1, h1.1.2, h1.2⟩, hp⟩

/-- A planner that stands by, and one that plans. -/
def failing : State := st .armed [(Reg.PORT_ROLES, 2), (Reg.PLAN_PAIR_STATUS, 0x28)]

/-- Both pairs formed, every lane of them up. -/
def pairs : State :=
  { st .standby [(Reg.LINK_STATUS, 0xA), (Reg.PORT_ROLES, 2)] with
    red := { pairs := ⟨[(0, { formed := true }), (1, { formed := true })]⟩ } }

/-- Premises of HostWritesRun, one of each row, at the last index of the rows that have one. -/
theorem test_HostWritesRun :
    WriteShown (hw 0) 0x000A0008 1 ∧ WriteShown (hw 0) 0x000A000C 0 ∧ WriteShown (hw 0) 0x000B003C 1 ∧ WriteShown (hw 0) 0x000C0008 1 ∧ WriteShown (hw 1) 0x000C0280 1 ∧
    WriteShown (hw 5) 0x000C0284 5 ∧ WriteShown (hw 0) 0x00030170 0x8000 ∧ WriteShown (hw 0) 0x00030018 1 ∧ WriteShown (hw 0x1F0000) 0x000407E0 0x801F0000 ∧
    WriteShown (hw 0) 0x00060038 1 ∧ WriteShown (hw 0) 0x0006000C 0 ∧ WriteShown (hw 0) 0x00080018 1 ∧ WriteShown (hw 40000) 0x00020104 40000 ∧
    WriteShown (hw 0) 0x000F01C4 0x10000 ∧ WriteShown (hw 0) 0x000F01C4 0 ∧ WriteShown (hw 0) 0x00120028 1 ∧ WriteShown (hw 0) 0x00120028 2 ∧ WriteShown (hw 0) 0x00120028 4 ∧
    WriteShown (hw 0) 0x000E0080 0 ∧ WriteShown (hw 256) 0x000E0084 256 ∧ WriteShown (hw 0) 0x000E0094 0 ∧ WriteShown (hw 800) 0x000E0400 800 ∧ WriteShown (hw 0) 0x000E0480 0 :=
  ⟨writeShown (owned .standby) (by decide) (by decide) (by decide), writeShown (owned .standby) (by decide) (by decide) (by decide),
    writeShown (owned .standby) (by decide) (by decide) (by decide), writeShown (owned .standby) (by decide) (by decide) (by decide),
    writeShown (owned .armed) (by decide) (by decide) (by decide), writeShown (owned .armed) (by decide) (by decide) (by decide),
    writeShown (owned .standby) (by decide) (by decide) (by decide), writeShown (owned .standby) (by decide) (by decide) (by decide),
    writeShown (owned .standby) (by decide) (by decide) (by decide), writeShown (owned .standby) (by decide) (by decide) (by decide),
    writeShown (owned .standby) (by decide) (by decide) (by decide), writeShown (owned .standby) (by decide) (by decide) (by decide),
    writeShown (owned .standby) (by decide) (by decide) (by decide), writeShown (owned .standby) (by decide) (by decide) (by decide),
    writeShown (owned .standby) (by decide) (by decide) (by decide), writeShown failing (by decide) (by decide) (by decide),
    writeShown pairs (by decide) (by decide) (by decide), writeShown pairs (by decide) (by decide) (by decide),
    writeShown (owned .standby) (by decide) (by decide) (by decide), writeShown (owned .standby) (by decide) (by decide) (by decide),
    writeShown (owned .standby) (by decide) (by decide) (by decide), writeShown (owned .standby) (by decide) (by decide) (by decide),
    writeShown (owned .standby) (by decide) (by decide) (by decide)⟩

/-- Premises of BulkWritesDecided, CommitsDecided and BulkReadsRun. -/
theorem test_bulk :
    (Shown 0x0300 (fun c _ _ => 16 ≤ c.length) ∧ Shown 0x0303 (fun c _ _ => 16 ≤ c.length) ∧ Shown 0x0308 (fun c _ _ => 16 ≤ c.length) ∧
      Shown 0x0605 (fun c _ _ => 16 ≤ c.length) ∧ Shown 0x0603 (fun c _ _ => 16 ≤ c.length)) ∧
    (Shown 0x0301 (fun c _ _ => c.length = 8) ∧ Shown 0x0309 (fun c _ _ => c.length = 8) ∧ Shown 0x0606 (fun c _ _ => c.length = 8)) ∧
    (Shown 0x0302 (fun c _ _ => c.length = 8) ∧ Shown 0x030A (fun c _ _ => c.length = 8) ∧ Shown 0x0607 (fun c _ _ => c.length = 8) ∧
      Shown 0x0304 (fun c _ _ => c.length = 8)) ∧
    Shown 0x0602 (fun c _ _ => c.length = 8 ∧ fieldAt c.params 0 4 < 812) ∧
    Shown 0x0602 (fun c _ t => c.length = 8 ∧ 4096 ≤ fieldAt c.params 0 4 ∧ t.newestRec.isSome = true) ∧
    Shown 0x0602 (fun c _ t => c.length = 8 ∧ 4096 ≤ fieldAt c.params 0 4 ∧ fieldAt c.params 0 4 < 4908 ∧ t.newestRec = none) ∧
    Shown 0x0602 (fun c _ _ => c.length = 8 ∧ 812 ≤ fieldAt c.params 0 4 ∧ fieldAt c.params 0 4 < 4096) ∧ Shown 0x0602 (fun c _ _ => c.length = 8 ∧ 4908 ≤ fieldAt c.params 0 4) :=
  ⟨⟨shown (owned .standby) (pkt (leBytes 16 0)) (by decide) (by decide) (by decide), shown (owned .standby) (pkt (leBytes 16 0)) (by decide) (by decide) (by decide),
      shown (owned .standby) (pkt (leBytes 16 0)) (by decide) (by decide) (by decide), shown (owned .standby) (pkt (leBytes 16 0)) (by decide) (by decide) (by decide),
      shown (owned .standby) (pkt (leBytes 16 0)) (by decide) (by decide) (by decide)⟩,
    ⟨shown (owned .standby) (pkt (leBytes 8 0)) (by decide) (by decide) (by decide), shown (owned .standby) (pkt (leBytes 8 64)) (by decide) (by decide) (by decide),
      shown (owned .standby) (pkt (leBytes 8 16)) (by decide) (by decide) (by decide)⟩,
    ⟨shown (owned .standby) (readPkt 0 2) (by decide) (by decide) (by decide), shown (owned .standby) (readPkt 0 2) (by decide) (by decide) (by decide),
      shown (owned .standby) (readPkt 0 2) (by decide) (by decide) (by decide), shown (owned .standby) (readPkt 0 2) (by decide) (by decide) (by decide)⟩,
    shown (owned .standby) (readPkt 811 2) (by decide) (by decide) (by decide),
    shown { owned .standby with cal := { slots := ⟨[(0, some ⟨1, [], []⟩)]⟩ } } (readPkt 4096 2) (by decide) (by decide) (by decide),
    shown (owned .standby) (readPkt 4907 2) (by decide) (by decide) (by decide), shown (owned .standby) (readPkt 4095 2) (by decide) (by decide) (by decide),
    shown (owned .standby) (readPkt 4908 2) (by decide) (by decide) (by decide)⟩

/-- A region request of columns 0 to 15 by stream `k`. -/
def regionPkt (k : Nat) : Cmd :=
  pkt (leBytes 2 9 ++ leBytes 1 k ++ leBytes 1 1 ++ leBytes 2 0 ++ leBytes 2 15 ++ leBytes 8 1 ++ [4, 8, 2, 0] ++ leBytes 2 1000 ++ leBytes 2 1 ++ leBytes 8 1)

/-- Premises of RegionCommandsDecided. -/
theorem test_RegionCommandsDecided :
    Shown 0x0305 (fun c _ t => c.length = 32 ∧ (regionFault t.columns c.params).isSome = true) ∧
    Shown 0x0305 (fun c p t => c.length = 32 ∧ regionFault t.columns c.params = none ∧ (t.stream (6 * p + fieldBits c.params 2 1 2 0)).req.isSome = true) ∧
    Shown 0x0305 (fun c p t => c.length = 32 ∧ regionFault t.columns c.params = none ∧ (t.stream (6 * p + fieldBits c.params 2 1 2 0)).req = none) ∧
    Shown 0x0306 (fun c _ _ => c.length = 4 ∧ 5 < fieldBits c.params 2 1 2 0) ∧ Shown 0x0306 (fun c _ _ => c.length = 4 ∧ fieldBits c.params 2 1 2 0 ≤ 5) ∧
    Shown 0x0307 (fun c _ _ => c.length = 4 ∧ 5 < fieldBits c.params 2 1 2 0) ∧ Shown 0x0307 (fun c _ _ => c.length = 4 ∧ fieldBits c.params 2 1 2 0 ≤ 5) :=
  ⟨shown (owned .standby) (regionPkt 6) (by decide) (by decide) (by decide),
    shown { owned .standby with arb := { streams := ⟨[(5, { req := some (regionReq []) })]⟩ } } (regionPkt 5) (by decide) (by decide) (by decide),
    shown (owned .standby) (regionPkt 5) (by decide) (by decide) (by decide), shown (owned .standby) (pkt [0, 0, 6, 0]) (by decide) (by decide) (by decide),
    shown (owned .standby) (pkt [0, 0, 5, 0]) (by decide) (by decide) (by decide), shown (owned .standby) (pkt [0, 0, 6, 0]) (by decide) (by decide) (by decide),
    shown (owned .standby) (pkt [0, 0, 5, 3]) (by decide) (by decide) (by decide)⟩

/-- A subscription to stream `k`. -/
def subPkt (k : Nat) : Cmd := pkt (leBytes 2 k ++ leBytes 2 1 ++ leBytes 2 0 ++ leBytes 2 15 ++ leBytes 8 1)

/-- HP0 holds the first `n` of its eight channels. -/
def subbed (n : Nat) : State := { owned .standby with streams := { subs := ⟨(List.range n).map fun i => (i, { state := 1 })⟩ } }

/-- Premises of StreamCommandsDecided. -/
theorem test_StreamCommandsDecided :
    Shown 0x0400 (fun c p t => c.length = 16 ∧ t.subOk (subFrom p c.params) = false) ∧
    Shown 0x0400 (fun c p t => c.length = 16 ∧ t.subOk (subFrom p c.params) = true ∧ ∀ j, j < 8 → (t.sub (8 * p + j)).state ≠ 0) ∧
    Shown 0x0400 (fun c p t => c.length = 16 ∧ t.subOk (subFrom p c.params) = true ∧ (∀ i, i < 7 → (t.sub (8 * p + i)).state ≠ 0) ∧ (t.sub (8 * p + 7)).state = 0) ∧
    Shown 0x0401 (fun c p t => c.length = 1 ∧ ¬ (p < 4 ∧ fieldAt c.params 0 1 < 8 ∧ (t.sub (8 * p + fieldAt c.params 0 1)).state ≠ 0)) ∧
    Shown 0x0401 (fun c p t => c.length = 1 ∧ p < 4 ∧ fieldAt c.params 0 1 < 8 ∧ (t.sub (8 * p + fieldAt c.params 0 1)).state ≠ 0) ∧
    Shown 0x0402 (fun c _ _ => c.length = 1 ∧ 8 ≤ fieldAt c.params 0 1) ∧ Shown 0x0402 (fun c _ _ => c.length = 1 ∧ fieldAt c.params 0 1 < 8) :=
  ⟨shown (owned .standby) (subPkt 1) (by decide) (by decide) (by decide), shown (subbed 8) (subPkt 2) (by decide) (by decide) (by decide),
    shown (subbed 7) (subPkt 2) (by decide) (by decide) (by decide), shown (subbed 7) (pkt [7]) (by decide) (by decide) (by decide),
    shown (subbed 8) (pkt [7]) (by decide) (by decide) (by decide), shown (owned .standby) (pkt [8]) (by decide) (by decide) (by decide),
    shown (owned .standby) (pkt [7]) (by decide) (by decide) (by decide)⟩

/-- A descriptor that moves nothing. -/
def noDesc : DmaDesc :=
  { src := 0, dst := 0, count := 0, srcSpace := 0, dstSpace := 0, seqno := 0, notify := false, srcFixed := false, dstFixed := false, srcSel := 0, dstSel := 0, crc := 0 }

/-- Premises of DmaCommandsDecided. -/
theorem test_DmaCommandsDecided :
    Shown 0x0403 (fun c _ t => c.length = 2 ∧ (t.sys.running.any fun d => d.opcode == 0x0403) = true) ∧
    Shown 0x0403 (fun c _ t => c.length = 2 ∧ (t.sys.running.any fun d => d.opcode == 0x0403) = false ∧
      (64 ≤ fieldAt c.params 0 1 ∨ t.variant.dmaPresent (fieldAt c.params 0 1) = true ∧ t.f (Reg.DMA_STATUS (fieldAt c.params 0 1)) 1 0 ≠ 3)) ∧
    Shown 0x0403 (fun c _ t => c.length = 2 ∧ (t.sys.running.any fun d => d.opcode == 0x0403) = false ∧ fieldAt c.params 0 1 < 64 ∧
      t.variant.dmaPresent (fieldAt c.params 0 1) = false) ∧
    Shown 0x0403 (fun c _ t => c.length = 2 ∧ (t.sys.running.any fun d => d.opcode == 0x0403) = false ∧ t.variant.dmaPresent (fieldAt c.params 0 1) = true ∧
      t.f (Reg.DMA_STATUS (fieldAt c.params 0 1)) 1 0 = 3 ∧ 1 < fieldAt c.params 1 1) ∧
    Shown 0x0403 (fun c _ t => c.length = 2 ∧ (t.sys.running.any fun d => d.opcode == 0x0403) = false ∧ t.variant.dmaPresent (fieldAt c.params 0 1) = true ∧
      t.f (Reg.DMA_STATUS (fieldAt c.params 0 1)) 1 0 = 3 ∧ fieldAt c.params 1 1 ≤ 1) ∧
    (∃ s : State, s.variant.dmaPresent 34 = false) ∧ (∃ s : State, s.variant.dmaPresent 63 = true ∧ s.f (Reg.DMA_STATUS 63) 1 0 = 1 ∧
      128 % 32 = 0 ∧ 128 + 32 ≤ s.variant.dramBytes ∧ (s.dma 63).tail = some 64 ∧ 64 % 32 = 0) :=
  ⟨shown { owned .standby with sys := { dev := .standby, running := [⟨0x0403, 0, 1⟩] } } (pkt [0, 0]) (by decide) (by decide) (by decide),
    shown (owned .standby) (pkt [64, 0]) (by decide) (by decide) (by decide),
    shown { owned .standby with variant := .nl5_128 } (pkt [34, 0]) (by decide) (by decide) (by decide),
    shown (st .standby [(Reg.PORT_ROLES, 2), (Reg.DMA_STATUS 63, 3)]) (pkt [63, 2]) (by decide) (by decide) (by decide),
    shown (st .standby [(Reg.PORT_ROLES, 2), (Reg.DMA_STATUS 63, 3)]) (pkt [63, 1]) (by decide) (by decide) (by decide),
    ⟨{ State.reset with variant := .nl5_128 }, by decide⟩,
    ⟨{ st .standby [(Reg.DMA_STATUS 63, 1)] with streams := { chans := ⟨[(63, { tail := some 64 })]⟩ } }, by decide⟩⟩

/-- Premises of CaptureCommandsDecided. -/
theorem test_CaptureCommandsDecided :
    Shown 0x0500 (fun c _ _ => c.length = 0) ∧ Shown 0x0501 (fun c _ _ => c.length = 0) ∧ Shown 0x0502 (fun c _ _ => c.length = 0) ∧
    Shown 0x0503 (fun c _ _ => c.length = 12) ∧ Shown 0x0504 (fun c _ _ => c.length = 4) :=
  ⟨shown (owned .standby) (pkt []) (by decide) (by decide) (by decide), shown (owned .standby) (pkt []) (by decide) (by decide) (by decide),
    shown (owned .standby) (pkt []) (by decide) (by decide) (by decide), shown (owned .standby) (pkt (leBytes 12 0)) (by decide) (by decide) (by decide),
    shown (owned .standby) (pkt (leBytes 4 0)) (by decide) (by decide) (by decide)⟩

/-- Premises of CalibrationCommandsDecided. -/
theorem test_CalibrationCommandsDecided :
    Shown 0x0601 (fun c _ t => c.length = 4 ∧ (t.sys.running.any fun d => d.opcode == 0x0601) = true) ∧
    Shown 0x0601 (fun c _ t => c.length = 4 ∧ (t.sys.running.any fun d => d.opcode == 0x0601) = false ∧ 32 ≤ fieldAt c.params 0 1) ∧
    Shown 0x0601 (fun c _ t => c.length = 4 ∧ (t.sys.running.any fun d => d.opcode == 0x0601) = false ∧ fieldAt c.params 0 1 < 32 ∧ t.variant.combs ≤ fieldAt c.params 0 1) ∧
    Shown 0x0601 (fun c _ t => c.length = 4 ∧ (t.sys.running.any fun d => d.opcode == 0x0601) = false ∧ fieldAt c.params 0 1 < t.variant.combs ∧
      t.cal.run.any (fun r => r.comb == fieldAt c.params 0 1) = true) ∧
    Shown 0x0601 (fun c _ t => c.length = 4 ∧ (t.sys.running.any fun d => d.opcode == 0x0601) = false ∧ fieldAt c.params 0 1 < t.variant.combs ∧
      t.cal.run.any (fun r => r.comb == fieldAt c.params 0 1) = false) ∧
    Shown 0x0604 (fun c _ t => c.length = 0 ∧ (t.sys.running.any fun d => d.opcode == 0x0604) = true) ∧
    Shown 0x0604 (fun c _ t => c.length = 0 ∧ (t.sys.running.any fun d => d.opcode == 0x0604) = false ∧ t.cal.save = none) :=
  ⟨shown { owned .armed with sys := { dev := .armed, running := [⟨0x0601, 0, 1⟩] } } (pkt [0, 0, 0, 0]) (by decide) (by decide) (by decide),
    shown (owned .armed) (pkt [32, 0, 0, 0]) (by decide) (by decide) (by decide),
    shown { owned .armed with variant := .nl5_128 } (pkt [31, 0, 0, 0]) (by decide) (by decide) (by decide),
    shown { owned .armed with cal := { run := some ⟨31, 5, 0, false, []⟩ } } (pkt [31, 0, 0, 0]) (by decide) (by decide) (by decide),
    shown (owned .armed) (pkt [31, 0, 0, 0]) (by decide) (by decide) (by decide),
    shown { owned .safe with sys := { dev := .safe, running := [⟨0x0604, 0, 1⟩] } } (pkt []) (by decide) (by decide) (by decide),
    shown (owned .safe) (pkt []) (by decide) (by decide) (by decide)⟩

/-- Premises of AttestAndCertDecided. -/
theorem test_AttestAndCertDecided :
    Shown 0x0700 (fun c p _ => c.length = 36 ∧ (if p = 4 then 2 else 0) < fieldAt c.params 32 1) ∧ Shown 0x0700 (fun c _ _ => c.length = 36 ∧ fieldAt c.params 32 1 = 0) ∧
    Shown 0x0701 (fun c p _ => c.length = 6 ∧ (if p = 4 then 1000 else 4064) < fieldAt c.params 4 2) ∧
    Shown 0x0701 (fun c p _ => c.length = 6 ∧ fieldAt c.params 4 2 ≤ (if p = 4 then 1000 else 4064) ∧ 3808 < fieldAt c.params 0 4 + fieldAt c.params 4 2) ∧
    Shown 0x0701 (fun c p _ => c.length = 6 ∧ fieldAt c.params 4 2 ≤ (if p = 4 then 1000 else 4064) ∧ fieldAt c.params 0 4 + fieldAt c.params 4 2 ≤ 3808) :=
  ⟨shown (owned .standby) (pkt (leBytes 32 0 ++ [1, 0, 0, 0])) (by decide) (by decide) (by decide),
    shown (owned .standby) (pkt (leBytes 36 0)) (by decide) (by decide) (by decide),
    shown (owned .standby) (pkt (leBytes 4 0 ++ leBytes 2 4065)) (by decide) (by decide) (by decide),
    shown (owned .standby) (pkt (leBytes 4 1 ++ leBytes 2 3808)) (by decide) (by decide) (by decide),
    shown (owned .standby) (pkt (leBytes 4 0 ++ leBytes 2 3808)) (by decide) (by decide) (by decide)⟩

/-- `ATTEST` of part `k` on LP, with a nonce of zeros. -/
def lpAttest (k : Byte) : Cmd := { pkt (leBytes 32 0 ++ [k, 0, 0, 0]) with port := 4, b4 := 4 }

/-- A state in which LP keeps the report `r`. -/
def keepsReport (r : List Byte) : State := { owned .standby with boot := { reports := ⟨[(4, r)]⟩ } }

/-- What makes `ATTEST` of part `k` on LP admitted, as a test. -/
def lpAdmits (k : Byte) (r : List Byte) : Bool :=
  let s := keepsReport r
  let x := entry 0x0700 (lpAttest k)
  let q := s.queued 0x0700 4 (lpAttest k)
  !s.noCommands && s.portExists 4 && decide ((q.port 4).queue.head? = some x) && q.hasTurn 4 &&
    (((q.popCmd 4).port 4).kept.find? (fun y => y.tag == (lpAttest k).tag.toNat && y.opcode == 0x0700)).isNone && headerOk (lpAttest k) 4 && cmdLenOk (lpAttest k) &&
    ((q.popCmd 4).inc (Reg.PORT_CMD_COUNT 4)).cmdAllows 0x0700 4

set_option maxRecDepth 20000 in
/-- Premises of AttestAndCertDecided about the parts of a report on LP: one that is kept for the nonce, one that is kept for another, and none. -/
theorem test_attest_parts :
    (lpAdmits 1 (List.replicate 48 0) = true ∧ bytesAt (List.replicate 48 (0 : Byte)) 16 32 = bytesAt (lpAttest 1).params 0 32) ∧
    (lpAdmits 2 (List.replicate 48 0) = true ∧ fieldAt (lpAttest 2).params 32 1 = 2) ∧
    (lpAdmits 2 (List.replicate 48 1) = true ∧ bytesAt (List.replicate 48 (1 : Byte)) 16 32 ≠ bytesAt (lpAttest 2).params 0 32) ∧ lpAdmits 1 [] = true := by decide

/-- An update session of kind 2 and 9 bytes is open, `n` of them received. -/
def updating (n : Nat) (committing : Bool) : State :=
  { owned .standby with boot := { upd := some { session := 1, kind := 2, total := 9, bytes := List.replicate n 0, committing } } }

/-- `UPDATE_DATA` of one byte. -/
def dataPkt (off crc : Nat) : Cmd := pkt (leBytes 4 off ++ leBytes 4 crc ++ [5])

/-- Premises of UpdateCommandsDecided. -/
theorem test_UpdateCommandsDecided :
    Shown 0x0702 (fun c _ _ => c.length = 8 ∧ 3 < fieldAt c.params 0 1) ∧
    Shown 0x0702 (fun c _ _ => c.length = 8 ∧ 1 ≤ fieldAt c.params 0 1 ∧ fieldAt c.params 0 1 ≤ 3 ∧ updLimit (fieldAt c.params 0 1) < fieldAt c.params 4 4) ∧
    Shown 0x0702 (fun c _ _ => c.length = 8 ∧ 1 ≤ fieldAt c.params 0 1 ∧ fieldAt c.params 0 1 ≤ 3 ∧ fieldAt c.params 4 4 ≤ updLimit (fieldAt c.params 0 1)) ∧
    Shown 0x0703 (fun c _ t => 8 ≤ c.length ∧ c.length ≤ 4080 ∧ t.dev ≠ .thermalStop ∧ t.boot.upd = none) ∧
    Shown 0x0703 (fun c _ t => 8 ≤ c.length ∧ c.length ≤ 4080 ∧ t.dev ≠ .thermalStop ∧ t.boot.upd.any (fun u => !u.committing && fieldAt c.params 0 4 != u.bytes.length) = true) ∧
    Shown 0x0703 (fun c _ t => 8 ≤ c.length ∧ c.length ≤ 4080 ∧ t.dev ≠ .thermalStop ∧ crc32c (c.params.drop 8) ≠ fieldAt c.params 4 4 ∧
      t.boot.upd.any (fun u => !u.committing && fieldAt c.params 0 4 == u.bytes.length) = true) ∧
    Shown 0x0703 (fun c _ t => 8 ≤ c.length ∧ c.length ≤ 4080 ∧ t.dev ≠ .thermalStop ∧ crc32c (c.params.drop 8) = fieldAt c.params 4 4 ∧ c.params.drop 8 ≠ [] ∧
      t.boot.upd.any (fun u => !u.committing && fieldAt c.params 0 4 == u.bytes.length && decide (fieldAt c.params 0 4 + (c.params.drop 8).length ≤ u.total)) = true) ∧
    Shown 0x0703 (fun c _ t => 8 ≤ c.length ∧ c.length ≤ 4080 ∧ t.dev = .thermalStop) ∧
    Shown 0x0703 (fun c _ t => 8 ≤ c.length ∧ c.length ≤ 4080 ∧ t.dev ≠ .thermalStop ∧ t.boot.upd.any (·.committing) = true) ∧
    Shown 0x0703 (fun c _ t => 8 ≤ c.length ∧ c.length ≤ 4080 ∧ t.dev ≠ .thermalStop ∧ crc32c (c.params.drop 8) = fieldAt c.params 4 4 ∧
      t.boot.upd.any (fun u => !u.committing && fieldAt c.params 0 4 == u.bytes.length && decide (u.total < fieldAt c.params 0 4 + (c.params.drop 8).length)) = true) ∧
    Shown 0x0703 (fun c _ t => 8 ≤ c.length ∧ c.length ≤ 4080 ∧ t.dev ≠ .thermalStop ∧ crc32c (c.params.drop 8) = fieldAt c.params 4 4 ∧ c.params.drop 8 = [] ∧
      t.boot.upd.any (fun u => !u.committing && fieldAt c.params 0 4 == u.bytes.length && decide (fieldAt c.params 0 4 ≤ u.total)) = true) ∧
    Shown 0x0704 (fun c _ t => c.length = 2 ∧ (t.sys.running.any fun d => d.opcode == 0x0704) = false ∧ t.boot.upd = none) ∧
    Shown 0x0704 (fun c _ t => c.length = 2 ∧ (t.sys.running.any fun d => d.opcode == 0x0704) = false ∧ t.boot.upd.any (·.committing) = true) ∧
    Shown 0x0704 (fun c _ t => c.length = 2 ∧ (t.sys.running.any fun d => d.opcode == 0x0704) = false ∧
      t.boot.upd.any (fun u => !u.committing && u.session != fieldAt c.params 0 2) = true) ∧
    Shown 0x0704 (fun c _ t => c.length = 2 ∧ (t.sys.running.any fun d => d.opcode == 0x0704) = false ∧
      t.boot.upd.any (fun u => !u.committing && u.session == fieldAt c.params 0 2) = true) :=
  ⟨shown (owned .standby) (pkt (leBytes 4 4 ++ leBytes 4 1)) (by decide) (by decide) (by decide),
    shown (owned .standby) (pkt (leBytes 4 2 ++ leBytes 4 0x100001)) (by decide) (by decide) (by decide),
    shown (owned .standby) (pkt (leBytes 4 2 ++ leBytes 4 0x100000)) (by decide) (by decide) (by decide),
    shown (owned .standby) (dataPkt 0 0) (by decide) (by decide) (by decide), shown (updating 4 false) (dataPkt 5 0) (by decide) (by decide) (by decide),
    shown (updating 4 false) (dataPkt 4 0) (by decide) (by decide) (by decide),
    shown (updating 8 false) (dataPkt 8 (crc32c [5])) (by decide) (by decide) (by decide),
    shown (owned .thermalStop) (dataPkt 0 0) (by decide) (by decide) (by decide), shown (updating 4 true) (dataPkt 4 0) (by decide) (by decide) (by decide),
    shown (updating 9 false) (dataPkt 9 (crc32c [5])) (by decide) (by decide) (by decide),
    shown (updating 9 false) (pkt (leBytes 4 9 ++ leBytes 4 (crc32c []))) (by decide) (by decide) (by decide),
    shown (owned .standby) (pkt [1, 0]) (by decide) (by decide) (by decide), shown (updating 9 true) (pkt [1, 0]) (by decide) (by decide) (by decide),
    shown (updating 9 false) (pkt [2, 0]) (by decide) (by decide) (by decide), shown (updating 9 false) (pkt [1, 0]) (by decide) (by decide) (by decide)⟩

/-- Premises of UpdateCommandsDecided about a check that ends. -/
theorem test_UpdateCommandsDecided_ends : (∃ s : State, ∀ u, s.boot.upd = some u → u.committing = false) ∧
    (∃ s : State, s.boot.upd.any (·.committing) = true ∧ s.flashIdle = true ∧ s.cal.save = none) ∧
    (∃ s : State, s.boot.upd.any (·.committing) = true ∧ s.flashIdle = false) ∧ (∃ s : State, s.boot.upd.any (·.committing) = true ∧ s.cal.save.isSome = true) ∧
    (∃ s : State, s.dev ≠ .thermalStop ∧ s.cal.save.isSome = true ∧ (s.port 0).queue.head?.map (·.opcode) = some 0x0703) :=
  ⟨⟨State.reset, fun _ h => nomatch h⟩, ⟨updating 9 true, by decide⟩, ⟨{ updating 9 true with sys := { dev := .thermalStop } }, by decide⟩,
    ⟨{ updating 9 true with cal := { save := some ⟨(0, 1), ⟨1, [], []⟩, false⟩ } }, by decide⟩,
    ⟨{ updating 9 true with cal := { save := some ⟨(0, 1), ⟨1, [], []⟩, false⟩ }, ports := ⟨[(0, { queue := [entry 0x0703 (dataPkt 0 0)] })]⟩ }, by decide⟩⟩

/-- The parameters of an enrolment. -/
def enrolPkt : Cmd := { port := 0, tag := 7, b4 := 0, length := 3732, params := List.replicate 3732 0 }

set_option maxRecDepth 60000 in
/-- Premises of OwnerKeyRuns. -/
theorem test_OwnerKeyRuns : Shown 0x0705 (fun c _ t => c.length = 3732 ∧ (t.sys.running.any fun d => d.opcode == 0x0705) = true) ∧
    Shown 0x0705 (fun c _ t => c.length = 3732 ∧ (t.sys.running.any fun d => d.opcode == 0x0705) = false) ∧ (∃ s : State, s.boot.enroll = none) ∧
    (∃ s : State, s.boot.enroll = some (0, [])) :=
  ⟨shown { owned .standby with sys := { dev := .standby, running := [⟨0x0705, 0, 1⟩] } } enrolPkt (by decide) (by decide) (by decide),
    shown (owned .standby) enrolPkt (by decide) (by decide) (by decide), ⟨State.reset, rfl⟩, ⟨{ State.reset with boot := { enroll := some (0, []) } }, rfl⟩⟩

/-- Premises of HealthAndRecorderRun. -/
theorem test_HealthAndRecorderRun : Shown 0x0800 (fun c _ _ => c.length = 0) ∧ Shown 0x0801 (fun c _ _ => c.length = 8) ∧
    Shown 0x0802 (fun c _ t => c.length = 0 ∧ t.dev = .thermalStop) ∧
    Shown 0x0802 (fun c _ t => c.length = 0 ∧ (t.sys.running.any fun d => d.opcode == 0x0802) = false ∧ t.dev ≠ .thermalStop) :=
  ⟨shown (owned .standby) (pkt []) (by decide) (by decide) (by decide), shown (owned .faultHalt) (pkt (leBytes 8 0)) (by decide) (by decide) (by decide),
    shown (owned .thermalStop) (pkt []) (by decide) (by decide) (by decide), shown (owned .standby) (pkt []) (by decide) (by decide) (by decide)⟩

/-! ## Premises of the statements about the other rows -/

/-- Premises of SuppliesAndReset. -/
theorem test_SuppliesAndReset :
    (∃ (k : Fin 9) (uv : Nat), ¬ (k.val = 1 ∧ uv < 820000)) ∧ (∃ (k : Fin 9) (uv : Nat), k.val = 1 ∧ uv < 820000) ∧
    (∃ s : State, s.power.lowSince.get none 8 = some 5 ∧ s.now < 5 + 2000) ∧
    (∃ s : State, (8 < 9 ∧ s.power.lowSince.get none 8 = some 5) ∧ 5 + 2000 ≤ s.now ∧ s.boot.enroll = none) ∧
    (∃ s : State, s.power.low 8 = true ∧ s.tap.instr ∈ [TapInstr.bypass, .idcode, .samplePreload]) ∧
    (∃ s : State, s.power.resetN = false ∧ s.tap.instr ∈ [TapInstr.extest, .extestPulse, .extestTrain, .highz, .clamp]) ∧
    (∃ s : State, s.power.okSince = some 5 ∧ s.dev = .reset ∧ s.power.resetN = true ∧ s.power.anyLow = false ∧ s.now < max 5 s.power.resetAt + 1000000) ∧
    (∃ s : State, s.power.okSince = some 5 ∧ s.dev = .reset ∧ s.power.resetN = true ∧ s.power.anyLow = false ∧ max 5 s.power.resetAt + 1000000 ≤ s.now) :=
  ⟨⟨1, 820000, by decide⟩, ⟨1, 819999, by decide⟩, ⟨{ State.reset with now := 2004, power := { lowSince := ⟨[(8, some 5)]⟩ } }, by decide⟩,
    ⟨{ State.reset with now := 2005, power := { lowSince := ⟨[(8, some 5)]⟩ } }, by decide⟩,
    ⟨{ State.reset with power := { rails := ⟨[(8, some 2000000)]⟩ } }, by decide⟩,
    ⟨{ st .reset [] with power := { resetN := false }, tap := { instr := .clamp } }, by decide⟩,
    ⟨{ st .reset [] with now := 1000006, power := { okSince := some 5, resetAt := 7 } }, by decide⟩,
    ⟨{ st .reset [] with now := 1000007, power := { okSince := some 5, resetAt := 7 } }, by decide⟩⟩

/-- Premises of BootAndCounter. -/
theorem test_BootAndCounter :
    (∃ s : State, s.dev ≠ .boot) ∧ (∃ s : State, s.dev = .boot ∧ s.boot.flash.dir.bootCount + 1 < 2 ^ 32) ∧ (∃ s : State, s.dev = .reset ∨ min 64 (s.f Reg.SVN_STATUS 31 24) ≤ s.boot.fuses.svn) ∧
    (∃ s : State, s.dev ≠ .reset ∧ s.dev ≠ .standby ∧ s.boot.fuses.svn < min 64 (s.f Reg.SVN_STATUS 31 24)) ∧
    (∃ s : State, s.dev = .standby ∧ s.boot.fuses.svn < min 64 (s.f Reg.SVN_STATUS 31 24) ∧ s.fuseCool = false) ∧
    (∃ s : State, s.dev = .standby ∧ s.boot.fuses.svn < min 64 (s.f Reg.SVN_STATUS 31 24) ∧ s.fuseCool = true) :=
  ⟨⟨st .standby [], by decide⟩, ⟨State.reset, by decide⟩, ⟨st .standby [], by decide⟩, ⟨st .armed [(Reg.SVN_STATUS, 0x40000000)], by decide⟩,
    ⟨{ st .standby [(Reg.SVN_STATUS, 0x40000000)] with boot := { fuses := { svn := 63 } }, aux := { ts := ⟨[(0, some 7040)]⟩ } }, by decide⟩,
    ⟨{ st .standby [(Reg.SVN_STATUS, 0x40000000)] with boot := { fuses := { svn := 63 } } }, by decide⟩⟩

/-- Premises of TestPortRuns and BallsStay. -/
theorem test_balls : (∃ s : State, s.power.resetN = true) ∧ (∃ s : State, s.power.resetN = false) ∧ (∃ s t : State, exec .patternSwap s = .next t) :=
  ⟨⟨State.reset, rfl⟩, ⟨{ State.reset with power := { resetN := false } }, rfl⟩, ⟨State.reset, _, rfl⟩⟩

/-- A packet on LP with its check word. -/
def lpBytes : List Byte :=
  let h : List Byte := leBytes 16 0x0100
  h ++ leBytes 4 (crc32c h)

set_option maxRecDepth 20000 in
/-- Premises of LpPortRuns. -/
theorem test_LpPortRuns :
    (∃ s : State, s.noCommands = true) ∧ (∃ s : State, s.noCommands = false ∧ lpPacketOk lpBytes = true) ∧ (∃ s : State, s.noCommands = false ∧ lpPacketOk (lpBytes ++ [0]) = false) ∧
    (∃ s : State, s.sys.lpTaken = false) ∧
    (∃ (s : State) (k : OutPkt) (ks : List OutPkt), s.sys.lpTaken = true ∧ s.sys.retrainOwed = [] ∧ s.sys.disableOwed = [] ∧ (s.port 4).out = k :: ks ∧ k.isEvent = false) :=
  ⟨⟨State.reset, by decide⟩, ⟨owned .standby, by decide⟩, ⟨owned .standby, by decide⟩, ⟨State.reset, rfl⟩,
    ⟨{ State.reset with sys := { lpTaken := true }, ports := ⟨[(4, { out := [{ port := 4, opcode := 0x0100, isEvent := false, params := [], seq := 0, timeUs := 0 }] })]⟩ }, _, _,
      rfl, rfl, rfl, rfl, rfl⟩⟩

/-- Premises of FrameSourcesRun. -/
theorem test_FrameSourcesRun :
    (∃ s : State, s.frameSrc = 0 ∧ s.sync.span = true ∧ s.sync.nextInternal ≤ s.time.dev) ∧ (∃ s : State, s.frameSrc ≠ 0) ∧
    (∃ s : State, s.sync.frameTimes = 5 :: [] ∧ 5 ≤ s.time.dev) ∧ (∃ s : State, s.sync.dueAt = some 5) ∧
    (∃ s : State, s.swarmRuns = true) ∧ (∃ s : State, s.swarmRuns = true ∧ s.swarmMaster = true ∧ 1 % 8 ≠ s.swarmIndex) ∧
    (∃ s : State, s.swarmRuns = true ∧ s.swarmMaster = true ∧ s.sync.slotAt = none) ∧
    (∃ s : State, s.sync.lastMsg = some 5 ∧ s.swarmRuns = true ∧ s.swarmMaster = false ∧ s.swarmSt = 2 ∧ 5 + 200000 ≤ s.now) :=
  ⟨⟨{ State.reset with sync := { span := true } }, by decide⟩, ⟨st .armed [(Reg.FRAME_CTRL, 1)], by decide⟩,
    ⟨{ State.reset with sync := { frameTimes := [5] }, time := { dev := 5 } }, by decide⟩, ⟨{ State.reset with sync := { dueAt := some 5 } }, by decide⟩,
    ⟨st .standby [(Reg.SWARM_CTRL, 1)], by decide⟩, ⟨st .standby [(Reg.SWARM_CTRL, 3)], by decide⟩, ⟨st .standby [(Reg.SWARM_CTRL, 3)], by decide⟩,
    ⟨{ st .standby [(Reg.SWARM_CTRL, 1), (Reg.SWARM_STATUS, 2)] with now := 200005, sync := { lastMsg := some 5 } }, by decide⟩⟩

/-- A column. -/
def col0 : ColPlan := { frame := 0, column := 0, sweep := 0, dur := 2604, startNs := some 5 }

/-- Premises of PlannerRuns. -/
theorem test_PlannerRuns :
    (∃ s : State, s.nextStart = some 0) ∧ (∃ s : State, s.plan.cutDrive = true ∧ s.plan.running = true ∧ s.plan.swept < s.columns ∧ s.moveDone 0 = true) ∧
    (∃ (s : State) (e : Nat × ColPlan) (r : List (Nat × ColPlan)), s.closable = e :: r) ∧
    (∃ s : State, s.plan.openCol = some 0 ∧ s.col 0 = some col0 ∧ col0.gap = false ∧ col0.closed = false ∧ s.planning = true) ∧
    (∃ (s : State) (v : Verdict) (vs : List Verdict), (s.comb 31).verdicts = v :: vs) ∧ (∃ s : State, (s.comb 31).verdicts = []) ∧
    (∃ s : State, (s.stream 23).st = 2 ∧ (s.stream 23).excl < wrapSub 32 s.frameNo (s.stream 23).exclFrom) ∧ (∃ s : State, (s.stream 23).st ≠ 2) :=
  ⟨⟨{ State.reset with plan := { running := true } }, by decide⟩, ⟨{ State.reset with plan := { running := true, cutDrive := true } }, by decide⟩,
    ⟨{ State.reset with plan := { cols := ⟨[(0, some col0)]⟩ } }, (0, col0), [], by decide⟩,
    ⟨{ st .sensing [] with plan := { openCol := some 0, cols := ⟨[(0, some col0)]⟩ } }, by decide⟩,
    ⟨{ State.reset with combs := ⟨[(31, { verdicts := [⟨0, 0, 31, 0, 0, 0, 0, none⟩] })]⟩ }, _, _, rfl⟩, ⟨State.reset, rfl⟩,
    ⟨{ st .sensing [(Reg.PLAN_FRAME_NUMBER, 2)] with arb := { streams := ⟨[(23, { st := 2, excl := 1 })]⟩ } }, by decide⟩, ⟨State.reset, by decide⟩⟩

/-- A shot that was refused at its cut. -/
def cut0 : CutShot :=
  { key := 0, seg := 0, slot := 0, batch := 0, batchEnd := false, number := 0, dither := 0, refused := true, acc := [], window := 0, profile := 0, fireAt := 512, win := 0 }

/-- An empty drip frame. -/
def drip0 (n : Nat) : DripFrame := { seq := n, swap := false, blocks := List.replicate 8 { kind := false, p := 0 }, lv := false, lstart := false, lbyte := 0 }

/-- A drip frame, sent at 5 ns. -/
def sent0 : SentFrame := ⟨drip0 0, 5, false, false⟩

/-- Premises of EmitterRuns. -/
theorem test_EmitterRuns :
    (∃ s : State, s.dev ≠ .reset ∧ 500 * s.emit.lastWin ≤ s.now) ∧ (∃ s : State, s.emit.cuts = cut0 :: [] ∧ 512 * s.now < cut0.fireAt) ∧
    (∃ s : State, s.emit.cuts = cut0 :: [] ∧ cut0.fireAt ≤ 512 * s.now ∧ cut0.refused = true) ∧ (∃ s : State, s.emit.sent = sent0 :: [] ∧ s.now < sent0.at_) ∧
    (∃ s : State, s.emit.sent = sent0 :: [] ∧ sent0.at_ ≤ s.now ∧ sent0.at_ + 600 < s.now) ∧
    (∃ s : State, s.emit.sent = sent0 :: [] ∧ sent0.at_ ≤ s.now ∧ retOk s.tiles sent0.frame (drip0 1) = false) ∧ (∃ s : State, s.emit.lsdAt = some 5) ∧
    (∃ s : State, (s.each (List.range 8) fun s z => s.syncAcct z (2 * s.now / 125)).emit.acctA = (s.each (List.range 8) fun s z => s.syncAcct z (2 * s.now / 125)).emit.acctB) :=
  ⟨⟨State.reset, by decide⟩, ⟨{ State.reset with emit := { cuts := [cut0] } }, by decide⟩, ⟨{ State.reset with now := 1, emit := { cuts := [cut0] } }, by decide⟩,
    ⟨{ State.reset with emit := { sent := [sent0] } }, by decide⟩, ⟨{ State.reset with now := 606, emit := { sent := [sent0] } }, by decide⟩,
    ⟨{ State.reset with now := 5, emit := { sent := [sent0] } }, by decide⟩, ⟨{ State.reset with emit := { lsdAt := some 5 } }, by decide⟩, ⟨State.reset, by decide⟩⟩

/-- Premises of FadeAndWavelengthRun. -/
theorem test_FadeAndWavelengthRun :
    (∃ s : State, s.emit.fadeAt = some 0 ∧ s.emit.fadeStep < 32 ∧ 32 * 0 + s.emit.fadeStep * s.fadeNs ≤ 32 * s.now) ∧ (∃ s : State, s.emit.fadeAt = none) ∧
    (∃ s : State, s.emit.fadeAt = some 0 ∧ 0 + s.fadeNs ≤ s.now ∧
      (List.range 8).filter ((s.setBit Reg.EMIT_STATUS 1 false).setEmit { s.emit with fadeAt := none, fadeStep := 0, ceil := 255 }).tileReady = []) ∧
    (∃ s : State, s.emit.fadeAt = some 0 ∧ 0 + s.fadeNs ≤ s.now ∧ 0 < s.tiles ∧ s.tiles ≤ 8 ∧
      ∀ k, k < s.tiles → ((s.setBit Reg.EMIT_STATUS 1 false).setEmit { s.emit with fadeAt := none, fadeStep := 0, ceil := 255 }).tileReady k = true) ∧
    (∃ s : State, (s.wlTile 7).done = none) ∧ (∃ s : State, (s.wlTile 7).done = some (1, 2, 3)) :=
  ⟨⟨{ State.reset with emit := { fadeAt := some 0 } }, by decide⟩, ⟨State.reset, rfl⟩,
    ⟨{ st .armed [(Reg.EMIT_CTRL, 0x8000)] with emit := { fadeAt := some 0 } }, by decide⟩,
    ⟨{ st .armed [(Reg.EMIT_STATUS, 0xFF02), (Reg.EMIT_CTRL, 0x8000)] with emit := { fadeAt := some 0 } }, by decide⟩,
    ⟨State.reset, rfl⟩, ⟨{ State.reset with emit := { wl := ⟨[(7, { done := some (1, 2, 3) })]⟩ } }, rfl⟩⟩

/-- Premises of ConvertersRun. -/
theorem test_ConvertersRun :
    (∃ (s : State) (q : SarTrig) (l : List SarTrig), s.emit.sarNext = q :: l) ∧
    (∃ s : State, s.wag.powerAt = some 0 ∧ 0 + 5000 * s.wag.ctrlN ≤ s.now + 1000 ∧ s.axesOff = false) ∧ (∃ s : State, s.aux.sar = none) ∧
    (∃ s : State, s.aux.sar = some ⟨5, 0, none, []⟩ ∧ s.now < 5 + 500) ∧ (∃ s : State, s.aux.sar = some ⟨5, 0, none, []⟩ ∧ 5 + 500 ≤ s.now ∧ s.capOn = false ∧ s.aux.deferred = []) ∧
    (∃ s : State, (s.ma 2).at_ = none) ∧
    (∃ s : State, (s.ma 2).at_ = some 0 ∧ s.maRuns 2 = true ∧ 0 + (if (s.ma 2).settled then 1 else s.maOrder 2) * s.maWord8 2 ≤ 8 * s.now ∧ s.maCode 2 (s.ma 2).slot ≤ 0x17) ∧
    (∃ s : State, s.aux.hkAt + 60000 ≤ s.now ∧ s.dev ≠ .reset) ∧ (∃ s : State, s.tsBroken 25 = true) ∧
    (∃ s : State, s.tsBroken 25 = false ∧ s.dev = .faultHalt ∧ s.sys.hardStop = false) ∧ (∃ s : State, s.tsBroken 25 = false ∧ s.dev ≠ .faultHalt ∧ s.dev ≠ .reset) :=
  ⟨⟨{ State.reset with emit := { sarNext := [⟨0, 0, 0, 0, 0, [], 0⟩] } }, _, _, rfl⟩, ⟨{ st .standby [(Reg.WAG_STATUS, 0x22)] with wag := { powerAt := some 0 } }, by decide⟩, ⟨State.reset, rfl⟩,
    ⟨{ State.reset with now := 504, aux := { sar := some ⟨5, 0, none, []⟩ } }, by decide⟩, ⟨{ State.reset with now := 505, aux := { sar := some ⟨5, 0, none, []⟩ } }, by decide⟩,
    ⟨State.reset, rfl⟩,
    ⟨{ st .standby [(Reg.MA_CFG 2, 1), (Reg.MA_SEQ 2 0, 0x17)] with now := 10000000000, aux := { ma := ⟨[(2, { at_ := some 0 })]⟩ } }, by decide⟩,
    ⟨{ State.reset with now := 60000 }, by decide⟩, ⟨st .standby [(Reg.THERM_BROKEN, 0x2000000)], by decide⟩, ⟨st .faultHalt [], by decide⟩,
    ⟨State.reset, by decide⟩⟩

/-- Premises of ReceiverRuns. -/
theorem test_ReceiverRuns :
    (∃ s : State, s.dev ≠ .reset ∧ s.rx.readDue = none ∧ 16000 * (s.rx.ticks + 1) ≤ s.now) ∧ (∃ s : State, s.rx.readDue = none ∧ s.now < 16000 * (s.rx.ticks + 1)) ∧
    (∃ s : State, (s.rxComb 31).conv = some 0 ∧ 0 + 2 ^ s.ef Reg.RX_LIMITS 11 8 ≤ s.rx.ticks ∧ (s.rxComb 31).convClear = false) ∧
    (∃ s : State, (s.rxComb 31).conv = some 0 ∧ 0 + 2 ^ s.ef Reg.RX_LIMITS 11 8 ≤ s.rx.ticks ∧ (s.rxComb 31).convClear = true) ∧
    (∃ s : State, s.rx.testAt = some 0) ∧ (∃ s : State, s.rx.testAt = none) ∧
    (∃ s : State, s.rx.blankSince = some 0 ∧ s.bit Reg.RX_STATUS 1 = false ∧ 0 + 1000000 * max 1 (s.ef Reg.RX_CTRL 15 8) < s.now) ∧ (∃ s : State, s.rx.blankSince = none) :=
  ⟨⟨{ State.reset with now := 16000 }, by decide⟩, ⟨{ State.reset with now := 15999 }, by decide⟩,
    ⟨{ State.reset with rx := { ticks := 40000, combs := ⟨[(31, { conv := some 0 })]⟩ } }, by decide⟩,
    ⟨{ State.reset with rx := { ticks := 40000, combs := ⟨[(31, { conv := some 0, convClear := true })]⟩ } }, by decide⟩,
    ⟨{ State.reset with rx := { testAt := some 0 } }, rfl⟩, ⟨State.reset, rfl⟩, ⟨{ State.reset with now := 300000000, rx := { blankSince := some 0 } }, by decide⟩,
    ⟨State.reset, rfl⟩⟩

/-- Premises of ClocksRun. -/
theorem test_ClocksRun :
    (∃ s : State, s.dev = .reset ∨ s.now < (s.tdc.windows + 1) * 4000) ∧ (∃ s : State, s.dev ≠ .reset ∧ (s.tdc.windows + 1) * 4000 ≤ s.now) ∧
    (∃ s : State, s.bit Reg.CLK_STATUS 2 = false ∧ s.f Reg.CLK_CTRL 31 16 * 250 ≤ s.clk.refGood ∧ s.clk.refGood ≠ 0) ∧
    (∃ s : State, s.clk.switching = some 0 ∧ s.clk.lossDue = false) ∧ (∃ s : State, s.clk.switching = none) ∧
    (∃ s : State, s.clk.lockAt = some 0 ∧ s.clk.both = true ∧ (s.bit Reg.CLK_STATUS 2 = true ∨ s.bit Reg.CLK_STATUS 3 = true) ∧ s.bit Reg.CLK_STATUS 4 = true ∧ 0 + 10000000 ≤ s.now) ∧
    (∃ s : State, s.f Reg.CLK_STATUS 1 0 = 0 ∧ s.bit Reg.CLK_STATUS 4 = true ∧ s.bit Reg.CLK_STATUS 3 = true ∧ s.clk.lastMeasure + 1000000000 ≤ s.now) ∧
    (∃ s : State, s.f Reg.CLK_STATUS 1 0 = 1 ∧ s.clk.corrAt + 1000000 ≤ s.now ∧ s.clk.measured = true) :=
  ⟨⟨{ State.reset with now := 3999 }, by decide⟩, ⟨{ State.reset with now := 4000 }, by decide⟩,
    ⟨{ st .standby [(Reg.CLK_STATUS, 0)] with tdc := { clk := { refGood := 16383750 } } }, by decide⟩,
    ⟨{ State.reset with tdc := { clk := { switching := some 0 } } }, by decide⟩, ⟨State.reset, rfl⟩,
    ⟨{ st .standby [(Reg.CLK_STATUS, 0x1C)] with now := 10000000, tdc := { clk := { lockAt := some 0, both := true } } }, by decide⟩,
    ⟨{ st .standby [(Reg.CLK_STATUS, 0x1C)] with now := 1000000000 }, by decide⟩,
    ⟨{ st .standby [(Reg.CLK_STATUS, 0x19)] with now := 1000000, tdc := { clk := { measured := true } } }, by decide⟩⟩

/-- A shot that waits for its start. -/
def open0 : OpenShot := { key := 0, seg := 0, batch := 0, batchEnd := false, number := 0, dither := 0, acc := [], tile := 7, fireAt := 512, combs := [] }

/-- Premises of TimingRuns. -/
theorem test_TimingRuns :
    (∃ s : State, s.waitingShot 7 = some open0) ∧ (∃ s : State, s.waitingShot 7 = none) ∧
    (∃ s : State, (s.tdc.shots.find? fun q => q.start.isNone && !q.internal && decide (q.fireAt + 20480 < 512 * s.now)) = some open0 ∧ open0.acc = []) ∧
    (∃ s : State, (s.tdc.shots.find? fun q => q.start.isNone && !q.internal && decide (q.fireAt + 20480 < 512 * s.now)) = none) ∧
    (∃ (s : State) (w : RxWin), (s.chan 511).win = some w) ∧ (∃ s : State, (s.chan 511).next = none) ∧
    (∃ s : State, (s.chan 511).next = some 2 ∧ (s.chan 511).win = none ∧ (s.chan 511).closeAt + 4096 ≤ 512 * s.now ∧ s.segOfChan 511 = none) ∧
    (∃ s : State, 511 < s.variant.channels ∧ (s.chan 511).stuck = false ∧ s.dev ≠ .reset) ∧
    (∃ s : State, s.f (Reg.TDC_STAT_STATUS 31) 2 0 = 1 ∧ 2 ^ bitsOf (s.stat 31).ctrl 12 8 ≤ (s.stat 31).count) ∧
    (∃ s : State, s.f (Reg.TDC_STAT_STATUS 31) 2 0 = 1 ∧ (s.stat 31).startAt + bitsOf (s.stat 31).ctrl 30 16 * 1000000 ≤ s.now) ∧
    (∃ s : State, s.f (Reg.TDC_STAT_STATUS 31) 2 0 ≠ 1) :=
  ⟨⟨{ State.reset with now := 41, tdc := { shots := [open0] } }, by decide⟩, ⟨State.reset, rfl⟩, ⟨{ State.reset with now := 42, tdc := { shots := [open0] } }, by decide⟩,
    ⟨{ State.reset with now := 41, tdc := { shots := [open0] } }, by decide⟩,
    ⟨{ State.reset with rx := { chans := ⟨[(511, { win := some ⟨0, 0, 0, 0, 0, 0, 0, 0, false, none⟩ })]⟩ } }, _, rfl⟩, ⟨State.reset, rfl⟩,
    ⟨{ st .sensing [(Reg.SEG_MAP_A 63, 0x0101F8)] with now := 8, rx := { chans := ⟨[(511, { next := some 2 })]⟩ } }, by decide⟩, ⟨st .standby [], by decide⟩,
    ⟨{ st .standby [(Reg.TDC_STAT_STATUS 31, 1)] with tdc := { stats := ⟨[(31, { count := 1 })]⟩ } }, by decide⟩,
    ⟨{ st .standby [(Reg.TDC_STAT_STATUS 31, 1)] with now := 1000000, tdc := { stats := ⟨[(31, { ctrl := 0x10000 })]⟩ } }, by decide⟩, ⟨State.reset, by decide⟩⟩

/-- A batch of column 0 in comb 31, whose shots have all closed. -/
def combCol0 : CombCol :=
  { key := 0, frame := 0, column := 0, stalled := false, dark := false, cand := 0, hive := 0,
    segs := [{ seg := 63, w := 1, u := 0, b := 0, short := false, profile := 0, pa := 0, pb := 0, batches := [{ number := 4, ended := true }] }] }

/-- Premises of DetectionRuns. -/
theorem test_DetectionRuns :
    (∃ s : State, s.dueBatch 31 63 = some (0, 4) ∧ (s.comb 31).verdicts.length < 32) ∧ (∃ s : State, s.dueBatch 31 63 = none) ∧
    (∃ s : State, s.variant.hives ≤ 7 ∨ (s.hive 7).checked = true) ∧ (∃ s : State, 7 < s.variant.hives ∧ (s.hive 7).checked = false ∧ s.dev.anyState = true) ∧
    (∃ (s : State) (c : Cluster), s.det.clusters.find? (·.due) = some c) ∧ (∃ s : State, s.det.clusters.find? (·.due) = none) ∧
    (∃ s : State, (s.det.ready.find? fun r => r.2.any (·.zone == 63 + 1)) = none) ∧
    (∃ s : State, ∃ c : ZoneCount, s.det.ready = [(5, [c])] ∧ c.zone = 63 + 1) ∧ (∃ (s : State) (q : Strong) (qs : List Strong), s.rej.feQueue = q :: qs ∧ s.rej.feTaken = none ∧
      s.dev ≠ .calibrating) ∧
    (∃ s : State, s.rej.feQueue = []) ∧ (∃ s : State, s.feSt 63 ≠ 0 ∧ s.feSt 63 ≠ 2 ∧ 1000000 ≤ s.now - s.rej.ctxHit.get 0 63) :=
  ⟨⟨{ State.reset with combs := ⟨[(31, { cols := [combCol0] })]⟩ }, by decide⟩, ⟨State.reset, rfl⟩, ⟨{ State.reset with variant := .nl5_128 }, by decide⟩,
    ⟨st .standby [], by decide⟩, ⟨{ State.reset with det := { clusters := [{ echoes := [], last := 0, due := true }] } }, _, rfl⟩, ⟨State.reset, rfl⟩, ⟨State.reset, rfl⟩,
    ⟨{ State.reset with det := { ready := [(5, [{ zone := 64 }])] } }, _, rfl, rfl⟩, ⟨{ State.reset with rej := { feQueue := [⟨0, 0, 0⟩] } }, _, _, rfl, rfl, by decide⟩, ⟨State.reset, rfl⟩,
    ⟨{ st .sensing [(Reg.FE_CTX_STATE 63, 1)] with now := 1000000 }, by decide⟩⟩

/-- Premises of StreamsAndDmaRun. -/
theorem test_StreamsAndDmaRun :
    (∃ (s : State) (k : StreamPkt) (r : List PendRec), packNext (s.sub 31).kind (s.sub 31).pend = some (k, r)) ∧ (∃ s : State, packNext (s.sub 31).kind (s.sub 31).pend = none) ∧
    (∃ s : State, s.f (Reg.DMA_STATUS 63) 1 0 ≠ 1) ∧ (∃ s : State, s.f (Reg.DMA_STATUS 63) 1 0 = 1 ∧ (s.dma 63).restarting = false ∧
      (s.desc (s.r (Reg.DMA_CUR 63))).inDram s.variant = true) ∧
    (∃ s : State, (s.dma 63).lastDone = some 5 ∧ s.f (Reg.DMA_STATUS 63) 1 0 ≠ 0 ∧ s.f (Reg.DMA_STATUS 63) 1 0 ≠ 3) :=
  ⟨⟨{ State.reset with streams := { subs := ⟨[(31, { pend := [{ frame := 0, tag := 0, bytes := [] }] })]⟩ } }, _, _, rfl⟩, ⟨State.reset, rfl⟩, ⟨State.reset, by decide⟩,
    ⟨st .standby [(Reg.DMA_STATUS 63, 1)], by decide⟩, ⟨{ st .standby [(Reg.DMA_STATUS 63, 1)] with streams := { chans := ⟨[(63, { lastDone := some 5 })]⟩ } }, by decide⟩⟩

/-- Premises of WaggleRuns. -/
theorem test_WaggleRuns :
    (∃ s : State, s.wag.powerAt = some 0) ∧ (∃ s : State, s.wag.powerAt = none) ∧ (∃ s : State, s.wag.parkAt = some 0) ∧
    (∃ s : State, s.wag.armAt.isSome = true ∧ s.wag.axX.needStart = false ∧ s.wag.axY.needStart = false ∧ s.moveDone 0 = true ∧ s.moveDone 1 = true ∧ s.axState 0 = 1 ∧ s.axState 1 = 1) ∧
    (∃ s : State, s.wag.armAt = some 0 ∧ s.wag.scanAt = some 5 ∧ s.wag.axX.heldFor s.now 5 2000000 = true ∧ s.wag.axY.heldFor s.now 5 2000000 = true ∧ s.axState 0 = 2 ∧ s.axState 1 = 2) ∧
    (∃ s : State, s.wag.armAt = some 5 ∧ s.now < 5 + 400000000) ∧ (∃ s : State, s.wag.armAt = some 5 ∧ 5 + 400000000 ≤ s.now) ∧
    (∃ s : State, s.axState 1 = 4 ∧ (s.axis 1).heldFor s.now 0 10000000 = true ∧ (s.axis 1).thenRelease = false) ∧ (∃ s : State, s.axState 1 ≠ 4) ∧
    (∃ s : State, (s.axis 1).parkAt = some 5 ∧ s.axState 1 = 4 ∧ 5 + 200000000 ≤ s.now) ∧ (∃ s : State, (s.axis 1).relAt = some 5 ∧ s.axState 1 = 6 ∧ s.now < 5 + 10000000) ∧
    (∃ s : State, (s.axis 1).relAt = some 5 ∧ s.axState 1 = 6 ∧ 5 + 10000000 ≤ s.now ∧ (s.hardRelease 1).axesOff = false) :=
  ⟨⟨{ State.reset with wag := { powerAt := some 0 } }, rfl⟩, ⟨State.reset, rfl⟩, ⟨{ State.reset with wag := { parkAt := some 0 } }, rfl⟩,
    ⟨{ st .standby [(Reg.WAG_STATUS, 0x11)] with wag := { armAt := some 0 } }, by decide⟩,
    ⟨{ st .standby [(Reg.WAG_STATUS, 0x22)] with now := 2000005, wag := { armAt := some 0, scanAt := some 5, axX := { okSince := some 0 }, axY := { okSince := some 5 } } }, by decide⟩,
    ⟨{ State.reset with now := 400000004, wag := { armAt := some 5 } }, by decide⟩, ⟨{ State.reset with now := 400000005, wag := { armAt := some 5 } }, by decide⟩,
    ⟨{ st .standby [(Reg.WAG_STATUS, 0x40)] with now := 10000000, wag := { axY := { okSince := some 0 } } }, by decide⟩, ⟨State.reset, by decide⟩,
    ⟨{ st .standby [(Reg.WAG_STATUS, 0x40)] with now := 200000005, wag := { axY := { parkAt := some 5 } } }, by decide⟩,
    ⟨{ st .standby [(Reg.WAG_STATUS, 0x60)] with now := 10000004, wag := { axY := { relAt := some 5 } } }, by decide⟩,
    ⟨{ st .standby [(Reg.WAG_STATUS, 0x65)] with now := 10000005, wag := { axY := { relAt := some 5 } } }, by decide⟩⟩

/-- Premises of CaptureRuns. -/
theorem test_CaptureRuns :
    (∃ s : State, s.capOn = false) ∧ (∃ s : State, s.f (Reg.DMA_STATUS 45) 1 0 = 3) ∧
    (∃ s : State, s.capOn = true ∧ s.f (Reg.DMA_STATUS 45) 1 0 ≠ 3 ∧ (s.pullStaged s.stagedCount).cap.input = []) ∧
    (∃ s : State, s.capOn = true ∧ s.f (Reg.DMA_STATUS 45) 1 0 ≠ 3 ∧ (s.pullStaged s.stagedCount).cap.input = .item [] :: []) ∧
    (∃ s : State, s.capOn = true ∧ s.f (Reg.DMA_STATUS 45) 1 0 ≠ 3 ∧ (s.pullStaged s.stagedCount).cap.input = .loss 1 2 3 :: []) ∧
    (∃ s : State, s.capOn = true ∧ s.f (Reg.DMA_STATUS 45) 1 0 ≠ 3 ∧ (s.pullStaged s.stagedCount).cap.input = .angle 3 4 :: [] ∧ (s.pullStaged s.stagedCount).cap.loss = none) ∧
    (∃ s : State, s.capSt = 1 ∧ s.f Reg.CAP_SIZE 11 0 * 4096 < ringBytes s.cap.ring + 8) ∧ (∃ s : State, s.capSt ≠ 1 ∧ s.capSt ≠ 3 ∧ s.capSt ≠ 4) ∧
    (∃ s : State, s.capSt = 3 ∧ s.f Reg.CAP_SIZE 23 12 * 4096 ≤ (s.capSlot s.cap.cur).postBytes) ∧ (∃ s : State, s.capSt = 4) :=
  ⟨⟨State.reset, by decide⟩, ⟨st .armed [(Reg.DMA_STATUS 45, 3)], by decide⟩, ⟨st .armed [(Reg.CAP_STATUS, 1)], by decide⟩,
    ⟨{ st .armed [(Reg.CAP_STATUS, 1)] with cap := { input := [.item []] } }, by decide⟩,
    ⟨{ st .armed [(Reg.CAP_STATUS, 3)] with cap := { input := [.loss 1 2 3] } }, by decide⟩, ⟨{ st .armed [(Reg.CAP_STATUS, 3)] with cap := { input := [.angle 3 4] } }, by decide⟩,
    ⟨st .armed [(Reg.CAP_STATUS, 1), (Reg.CAP_SIZE, 0)], by decide⟩, ⟨State.reset, by decide⟩,
    ⟨{ st .armed [(Reg.CAP_STATUS, 3), (Reg.CAP_SIZE, 0x2001)] with cap := { slots := ⟨[(0, { postBytes := 8192 })]⟩ } }, by decide⟩, ⟨st .armed [(Reg.CAP_STATUS, 4)], by decide⟩⟩

/-- Lane 3 in training state `k` with the status bits `v` above it. -/
def lane3 (k : Nat) (x : LaneSt) : State := { st .sensing [(Reg.LANE_STATUS 3, BitVec.ofNat 32 k)] with now := 2000000000, lanes := ⟨[(3, x)]⟩ }

/-- Premises of LaneTrainingRuns. -/
theorem test_LaneTrainingRuns :
    (∃ s : State, s.laneOn 3 = false) ∧ (∃ s : State, s.laneOn 3 = true ∧ (s.laneSt 3 = 1 ∨ s.laneSt 3 = 6) ∧ 8 ≤ (s.lane 3).goodCommas) ∧
    (∃ s : State, (s.lane 3).goodCommas < 8 ∧ (s.lane 3).missed < 4) ∧
    (∃ s : State, s.laneOn 3 = true ∧ s.laneSt 3 = 3 ∧ (s.lane 3).switched = true ∧ 8 ≤ (s.lane 3).goodCommas) ∧
    (∃ s : State, s.laneOn 3 = true ∧ s.f (Reg.LANE_STATUS 3) 11 10 = 0 ∧ s.laneSt 3 ≠ 5 ∧ 4 ≤ (s.lane 3).missed) ∧
    (∃ s : State, s.laneSt 3 = 2 ∧ 8 ≤ (s.lane 3).ackdSent ∧ (s.lane 3).ackdRx = true) ∧ (∃ s : State, s.laneSt 3 = 3 ∧ (s.lane 3).rateIdle = some 5 ∧ 5 ≤ s.now) ∧
    (∃ s : State, s.laneSt 3 = 3 ∧ (s.lane 3).rateIdle = some 5 ∧ s.now < 5) ∧ (∃ s : State, s.laneSt 3 = 4 ∧ (s.lane 3).eqNext = 11 ∧ (s.lane 3).eqFinal = false) ∧
    (∃ s : State, s.laneSt 3 = 4 ∧ (s.lane 3).eqFinal = true ∧ (s.lane 3).reqPreset = none ∧ (s.lane 3).peerUp = true ∧ (s.lane 3).upSession = none ∧ s.bit (Reg.LANE_STATUS 3) 15 = false) ∧
    (∃ s : State, (s.lane 3).retrainAt = some 5) ∧ (∃ s : State, s.laneSt 3 = 5 ∧ s.f (Reg.LANE_CFG 3) 23 16 ≤ eyeFigure (s.f (Reg.LANE_STATUS 3) 6 4 == 5) ⟨[(500000, 100000)], 200000⟩) ∧
    (∃ s : State, s.lossFrom 3 = some 5 ∧ 3 < s.variant.lanes ∧ s.bit Reg.LINK_CTRL (4 + 3) = true ∧ s.laneSt 3 ≠ 5 ∧ s.bit (Reg.LANE_STATUS 3) 15 = false ∧
      5 + s.f Reg.LINK_CTRL 31 16 * 1000000 ≤ s.now) :=
  ⟨⟨lane3 7 {}, by decide⟩, ⟨lane3 6 { goodCommas := 8 }, by decide⟩, ⟨lane3 6 {}, by decide⟩, ⟨lane3 3 { goodCommas := 8, switched := true }, by decide⟩,
    ⟨lane3 4 { missed := 4 }, by decide⟩, ⟨lane3 2 { ackdSent := 8, ackdRx := true }, by decide⟩, ⟨lane3 3 { rateIdle := some 5 }, by decide⟩,
    ⟨{ lane3 3 { rateIdle := some 5 } with now := 4 }, by decide⟩, ⟨lane3 4 { eqNext := 11 }, by decide⟩, ⟨lane3 4 { eqFinal := true, peerUp := true }, by decide⟩, ⟨lane3 4 { retrainAt := some 5 }, by decide⟩, ⟨lane3 5 {}, by decide⟩,
    ⟨{ st .sensing [(Reg.LANE_STATUS 3, 6), (Reg.LINK_CTRL, 0x100F0)] with now := 1000005, sys := { dev := .sensing, standbyAt := some 5 } }, by decide⟩⟩

/-- Premises of LaneTrafficRuns. -/
theorem test_LaneTrafficRuns :
    (∃ s : State, (s.lane 3).unacked = []) ∧
    (∃ s : State, ∃ g : TxGroup, (s.lane 3).unacked = g :: [] ∧ s.laneSt 3 = 5 ∧ g.resend = false ∧ g.sentAt + 20000 ≤ s.now) ∧
    (∃ s : State, s.laneSt 3 = 5 ∧ s.f (Reg.LANE_STATUS 3) 9 8 = 0 ∧ s.f (Reg.LANE_PWR 3) 1 0 = 1 ∧ s.txWanted 3 = false ∧
      (s.lane 3).idleSince + s.f (Reg.LANE_PWR 3) 15 8 * 1000 ≤ s.now) ∧ (∃ s : State, s.laneSt 3 ≠ 5) ∧
    (∃ s : State, s.laneOn 3 = true ∧ (s.lane 3).wakeUntil = some 5 ∧ 5 ≤ s.now) ∧ (∃ s : State, s.laneOn 3 = true) ∧
    (∃ s : State, (s.lane 3).leftUpAt = some 5 ∧ s.pairFormed (3 / 2) = true ∧ s.laneUp 3 = false ∧ (s.pair (3 / 2)).out.contains (3 % 2) = false ∧
      5 + s.f (Reg.PAIR_CTRL (3 / 2)) 15 8 * 100000 ≤ s.now) ∧
    (∃ s : State, (s.pair (3 / 2)).upperUpAt = some 5 ∧ s.pairFormed (3 / 2) = true ∧ s.laneUp 3 = true ∧ s.bit (Reg.PAIR_STATUS (3 / 2)) (2 + 3 % 2) = false ∧
      5 + 100000000 ≤ s.now) :=
  ⟨⟨State.reset, rfl⟩, ⟨lane3 5 { unacked := [{ gseq := 0, flits := [], sentAt := 0 }] }, _, rfl, by decide, rfl, by decide⟩,
    ⟨{ st .sensing [(Reg.LANE_STATUS 3, 5), (Reg.LANE_PWR 3, 0x101)] with now := 1000 }, by decide⟩, ⟨lane3 4 {}, by decide⟩, ⟨lane3 5 { wakeUntil := some 5 }, by decide⟩,
    ⟨lane3 5 {}, by decide⟩,
    ⟨{ st .sensing [(Reg.LINK_STATUS, 4), (Reg.PAIR_STATUS 1, 8)] with now := 30000000, lanes := ⟨[(3, { leftUpAt := some 5 })]⟩, red := { pairs := ⟨[(1, { formed := true })]⟩ } }, by decide⟩,
    ⟨{ st .sensing [(Reg.LINK_STATUS, 12), (Reg.PAIR_STATUS 1, 4)] with now := 100000005, red := { pairs := ⟨[(1, { formed := true, upperUpAt := some 5 })]⟩ } }, by decide⟩⟩

/-- Premises of RedundancyRuns. -/
theorem test_RedundancyRuns :
    (∃ s : State, s.plannerSt 1 ≠ 2) ∧ (∃ s : State, s.plannerSt 1 = 2 ∧ s.dev ≠ .boot ∧ s.supervised = true ∧ s.red.testStart.get none 1 = none) ∧
    (∃ s : State, s.plannerSt 1 = 5 ∧ s.dev ≠ .reset ∧ s.red.failedAt.get none 1 = some 5 ∧ 5 + 1000000 * s.f Reg.RED_CTRL 31 16 ≤ s.now ∧
      s.f Reg.PLAN_PAIR_STATUS (4 * 1 + 11) (4 * 1 + 8) < s.f Reg.RED_CTRL 11 8) ∧
    (∃ s : State, s.red.takeover = some ⟨0, 1, 0, 0, some 3, 0⟩) ∧ (∃ s : State, s.red.takeover = some ⟨0, 1, 0, 0, none, 0⟩ ∧ 0 + 1000000 * s.f Reg.RED_CTRL 7 0 ≤ s.now) ∧
    (∃ s : State, s.red.takeover = none) ∧ (∃ s : State, s.red.tieAt = some 5 ∧ s.supervised = true ∧ 5 + 1000000 ≤ s.now) ∧
    (∃ s : State, s.supervised = true ∧ s.dev ≠ .faultHalt ∧ s.dev ≠ .reset) ∧ (∃ s : State, s.supervised = false) ∧
    (∃ s : State, s.dev ≠ .reset ∧ s.bit Reg.SSN_STATUS 0 = false) ∧ (∃ s : State, s.dev ≠ .reset ∧ s.bit Reg.SSN_STATUS 0 = true ∧ s.red.ssnHighAt = none) ∧
    (∃ s : State, s.dev ≠ .reset ∧ s.bit Reg.SSN_STATUS 0 = true ∧ s.red.ssnHighAt = some 5 ∧ s.now ≤ 5 + 1000) ∧
    (∃ s : State, s.dev ≠ .reset ∧ s.bit Reg.SSN_STATUS 0 = true ∧ s.red.ssnHighAt = some 5 ∧ 5 + 1000 < s.now) :=
  ⟨⟨st .sensing [(Reg.PLAN_PAIR_STATUS, 0x50)], by decide⟩, ⟨st .sensing [(Reg.PLAN_PAIR_STATUS, 0x20)], by decide⟩,
    ⟨{ st .sensing [(Reg.PLAN_PAIR_STATUS, 0x50), (Reg.RED_CTRL, 0x10100)] with now := 1000005, red := { failedAt := ⟨[(1, some 5)]⟩ } }, by decide⟩,
    ⟨{ State.reset with red := { takeover := some ⟨0, 1, 0, 0, some 3, 0⟩ } }, rfl⟩,
    ⟨{ State.reset with now := 255000000, red := { takeover := some ⟨0, 1, 0, 0, none, 0⟩ } }, by decide⟩, ⟨State.reset, rfl⟩,
    ⟨{ st .sensing [] with now := 1000005, red := { tieAt := some 5 } }, by decide⟩, ⟨st .sensing [], by decide⟩, ⟨st .faultHalt [], by decide⟩, ⟨st .sensing [(Reg.SSN_STATUS, 0)], by decide⟩,
    ⟨st .safe [(Reg.SSN_STATUS, 1)], by decide⟩, ⟨{ st .safe [(Reg.SSN_STATUS, 1)] with now := 1005, red := { ssnHighAt := some 5 } }, by decide⟩,
    ⟨{ st .safe [(Reg.SSN_STATUS, 1)] with now := 1006, red := { ssnHighAt := some 5 } }, by decide⟩⟩

/-- A run of comb 0 that began at 5 ns. -/
def run0 : CombRun := ⟨0, 5, 0, false, []⟩

/-- Premises of CalibrationRuns. -/
theorem test_CalibrationRuns :
    (∃ s : State, s.plan.openCol = none ∨ s.calRuns = false) ∧
    (∃ (s : State) (c : Nat), s.plan.openCol = some 0 ∧ s.calNext = some c ∧ s.col 0 = some col0 ∧ s.calRuns = true ∧ col0.startNs = some s.now ∧
      4 ≤ s.f (Reg.CAL_COMB c) 31 24 ∧ col0.sweep = 0) ∧
    (∃ s : State, s.cal.run = none) ∧ (∃ s : State, s.cal.run = some run0 ∧ s.now < run0.start + 6000000) ∧ (∃ s : State, s.cal.run = some run0 ∧ run0.start + 6000000 ≤ s.now) ∧
    (∃ (s : State) (r : FullRun), s.cal.full = some r) ∧ (∃ s : State, s.ef Reg.CAL_CTRL 18 18 = 0) ∧
    (∃ s : State, s.ef Reg.CAL_CTRL 18 18 ≠ 0 ∧ s.bit Reg.CAL_STATUS 9 = true ∧ s.cal.save = none ∧ s.flashFree = true ∧ s.dev.anyState = true ∧
      s.cal.lastSave + 60000000000 * s.ef Reg.CAL_CTRL 31 24 ≤ s.now) ∧
    (∃ s : State, s.cal.save = none) ∧ (∃ (s : State) (v : CalSave), s.cal.save = some v ∧ s.flashIdle = true) ∧ (∃ s : State, s.flashIdle = false) :=
  ⟨⟨State.reset, by decide⟩,
    ⟨{ st .sensing ((List.range 32).map fun c => (Reg.CAL_COMB c, 0x04000000)) with now := 5, plan := { openCol := some 0, cols := ⟨[(0, some col0)]⟩ }, cal := { named := [0] } }, 0, by decide⟩,
    ⟨State.reset, rfl⟩, ⟨{ State.reset with now := 6000004, cal := { run := some run0 } }, by decide⟩, ⟨{ State.reset with now := 6000005, cal := { run := some run0 } }, by decide⟩,
    ⟨{ State.reset with cal := { full := some { start := 0, mean := 0, temps := [] } } }, _, rfl⟩, ⟨st .standby [(Reg.CAL_CTRL, 0)], by decide⟩,
    ⟨{ st .standby [(Reg.CAL_CTRL, 0x01040000), (Reg.CAL_STATUS, 0x200)] with now := 60000000000 }, by decide⟩, ⟨State.reset, rfl⟩,
    ⟨{ State.reset with cal := { save := some ⟨(0, 1), ⟨1, [], []⟩, false⟩ } }, _, rfl, by decide⟩, ⟨st .thermalStop [], by decide⟩⟩

/-- A flush into slot 7 that has until 5 ns. -/
def flush0 : RecFlush := { slot := 7, trigger := 1, first := 1, last := 2, state := 0, time := 0, copy := [], budget := some 5 }

/-- Premises of RecorderRuns. -/
theorem test_RecorderRuns :
    (∃ s : State, s.dev = .reset) ∧ (∃ s : State, s.dev ≠ .reset ∧ s.recorder.queue.length < 32) ∧ (∃ s : State, s.dev ≠ .reset ∧ 32 ≤ s.recorder.queue.length) ∧ (∃ s : State, s.recorder.dropped = 0 ∧ s.recorder.queue = []) ∧
    (∃ (s : State) (q : RecPost), s.dev ≠ .reset ∧ s.recorder.dropped = 0 ∧ s.recorder.queue = q :: [] ∧ q.code ≠ Rec.BOOT ∧ q.code ≠ Rec.TIME_STEP) ∧
    (∃ s : State, s.dev ≠ .reset ∧ s.recorder.dropped ≠ 0) ∧
    (∃ s : State, s.recorder.flush = none) ∧
    (∃ s : State, s.recorder.flush = some flush0 ∧ flush0.begun = none) ∧
    (∃ s : State, s.recorder.flush = some { flush0 with begun := some 3 } ∧ ({ flush0 with begun := some 3 } : RecFlush).begun.isSome = true) ∧
    (∃ s : State, s.recorder.flush = some flush0 ∧ flush0.budget = some 5 ∧ s.now < 5) ∧ (∃ s : State, s.recorder.flush = some flush0 ∧ flush0.budget = some 5 ∧ 5 ≤ s.now) ∧
    (∃ s : State, s.recorder.erasing = none) ∧ (∃ s : State, s.recorder.erasing = some 7) ∧ (∃ s : State, s.time.slewing = true ∧ s.time.slewLeft = 0) ∧
    (∃ s : State, s.time.slewing = false) :=
  ⟨⟨st .reset [], rfl⟩, ⟨State.reset, by decide⟩, ⟨{ State.reset with recorder := { queue := List.replicate 32 ⟨1, 0, 0⟩ } }, by decide⟩, ⟨State.reset, rfl, rfl⟩,
    ⟨{ State.reset with recorder := { queue := [⟨Rec.OWNER, 0, 0⟩] } }, ⟨Rec.OWNER, 0, 0⟩, by decide⟩, ⟨{ State.reset with recorder := { dropped := 1 } }, by decide⟩,
    ⟨State.reset, rfl⟩, ⟨{ State.reset with recorder := { flush := some flush0 } }, by decide⟩,
    ⟨{ State.reset with recorder := { flush := some { flush0 with begun := some 3 } } }, by decide⟩, ⟨{ State.reset with now := 4, recorder := { flush := some flush0 } }, by decide⟩,
    ⟨{ State.reset with now := 5, recorder := { flush := some flush0 } }, by decide⟩, ⟨State.reset, rfl⟩, ⟨{ State.reset with recorder := { erasing := some 7 } }, rfl⟩,
    ⟨{ State.reset with time := { slewing := true } }, by decide⟩, ⟨State.reset, rfl⟩⟩

/-! ## Premises of the clauses that say where a row completes -/

/-- No die is warm: what every limit on the policy temperature then says. -/
theorem cool {s : State} (h : s.tPol = none) (n : Int) : ∀ T k, s.tPol = some (T, k) → T < n := fun _ _ e => by rw [h] at e; cases e

/-- The row that writes `v` at `a` is admitted in a state `t` of which `may` holds. -/
def WriteMay (v : Word) (a : Nat) (act : Word) (may : Word → State → Prop) : Prop :=
  Shown 0x0201 fun c _ t => c = HostWrite.cmd (hw v) a (v ||| act) ∧ may (v ||| act) t

/-- Shown by a state. -/
theorem writeMay {v : Word} {a : Nat} {act : Word} {may : Word → State → Prop} (s : State) (h : takes s 0x0201 (HostWrite.cmd (hw v) a (v ||| act)) = true)
    (h1 : (headerOk (HostWrite.cmd (hw v) a (v ||| act)) 0 && cmdLenOk (HostWrite.cmd (hw v) a (v ||| act)) &&
      (taken s 0x0201 (HostWrite.cmd (hw v) a (v ||| act))).cmdAllows 0x0201 0) = true)
    (hp : may (v ||| act) (taken s 0x0201 (HostWrite.cmd (hw v) a (v ||| act)))) : WriteMay v a act may := shown s _ h h1 ⟨rfl, hp⟩

/-- Pair `k` formed, its upper lane preferred, up, and not yet the one in use. -/
def backed (k : Nat) : State := { pairs with regs := pairs.regs.set 0 (Reg.PAIR_CTRL k) 1 }

/-- Premises of HostWriteEffects, second part: the rows up to the planners. -/
theorem test_writes_may :
    WriteMay 0 0x000A0008 1 (fun _ t => t.bit Reg.ARB_SLOT_STATUS 1 = false ∧ t.dev ≠ .standby) ∧
    WriteMay 0 0x000A0008 1 (fun _ t => t.bit Reg.ARB_SLOT_STATUS 1 = false ∧ t.dev = .standby) ∧
    WriteMay 0x145FF 0x000A000C 0 (fun v t => t.bit Reg.ARB_SLOT_STATUS 1 = false ∧ bitsOf v 11 8 ≤ 5 ∧ (2 ≤ bitsOf v 11 8 → bitsOf v 11 8 - 2 < t.variant.lanes)) ∧
    WriteMay 0 0x000B003C 1 (fun _ t => t.bit Reg.EMIT_STATUS 4 = false) ∧ WriteMay 0 0x000C0008 1 (fun _ t => t.dev = .standby ∨ t.dev = .armed) ∧
    WriteMay 2 (0x000C0200 + 0x80 * 1) 0 (fun v t => t.dev = .armed ∧ bitsOf v 1 0 ≠ 3) ∧ WriteMay 0xFFFF (0x000C0204 + 0x80 * 1) 0 (fun _ t => t.dev = .armed) ∧
    WriteMay 0 (0x00030100 + 0x10 * 7) 0x8000 (fun _ _ => True) ∧ WriteMay 0 0x00030018 1 (fun _ t => t.dev = .standby ∨ t.dev = .armed) ∧
    WriteMay 0x1480 (0x00040400 + 0x20 * 31) 0x80000000 (fun v t =>
      31 < t.variant.combs ∧ bitsOf v 7 4 ≤ 8 ∧ bitsOf v 12 8 ≤ 20 ∧ t.cal.full = none ∧ t.cal.run = none) ∧
    WriteMay 0 0x00060038 1 (fun _ _ => True) ∧ WriteMay 77 0x0006000C 0 (fun _ t => t.dev = .standby) ∧
    WriteMay 0 0x00080018 1 (fun _ t => t.bit Reg.FC_STATUS 1 = false ∧ t.dev ≠ .standby) ∧
    WriteMay 0 0x00080018 1 (fun _ t => t.bit Reg.FC_STATUS 1 = false ∧ t.dev = .standby) ∧
    WriteMay 33334 0x00020104 0 (fun v _ => 33334 ≤ bitsOf v 23 0 ∧ bitsOf v 23 0 ≤ 200000) ∧
    WriteMay 200000 0x00020104 0 (fun v _ => 33334 ≤ bitsOf v 23 0 ∧ bitsOf v 23 0 ≤ 200000) :=
  ⟨writeMay (owned .armed) (by decide) (by decide) (by decide), writeMay (owned .standby) (by decide) (by decide) (by decide),
    writeMay (owned .armed) (by decide) (by decide) (by decide), writeMay (owned .armed) (by decide) (by decide) (by decide),
    writeMay (owned .armed) (by decide) (by decide) (by decide), writeMay (owned .armed) (by decide) (by decide) (by decide),
    writeMay (owned .armed) (by decide) (by decide) (by decide), writeMay (owned .standby) (by decide) (by decide) (by decide),
    writeMay (owned .armed) (by decide) (by decide) (by decide), writeMay (owned .standby) (by decide) (by decide) (by decide),
    writeMay (owned .standby) (by decide) (by decide) (by decide), writeMay (owned .standby) (by decide) (by decide) (by decide),
    writeMay (owned .armed) (by decide) (by decide) (by decide), writeMay (owned .standby) (by decide) (by decide) (by decide),
    writeMay (owned .standby) (by decide) (by decide) (by decide), writeMay (owned .standby) (by decide) (by decide) (by decide)⟩

/-- The same: the lanes, the planners and the converters. -/
theorem test_writes_may_more :
    WriteMay 0 (0x000F0104 + 0x40 * 3) 0x10000 (fun v t => 3 < t.variant.lanes ∧ bitsOf v 1 0 ≠ 3 ∧ (bitsOf v 1 0 = 2 → t.safetySub (t.portOf 3) = false)) ∧
    WriteMay 2 (0x000F0104 + 0x40 * 3) 0 (fun v t => 3 < t.variant.lanes ∧ bitsOf v 1 0 = 2 ∧ t.safetySub (t.portOf 3) = false) ∧
    WriteMay 0 (0x000F0104 + 0x40 * 3) 0 (fun v t => 3 < t.variant.lanes ∧ bitsOf v 1 0 = 0 ∧ t.laneOn 3 = true ∧ t.f (Reg.LANE_STATUS 3) 9 8 ≠ 0 ∧ (t.lane 3).wakeUntil = none) ∧
    WriteMay 0 0x00120028 1 (fun v t => bitsOf v 2 1 = 0 ∧ (t.dev = .armed ∨ t.dev = .sensing ∨ t.dev = .degraded ∨ t.dev = .calibrating) ∧
      t.plannerSt t.activePlanner = 4 ∧ t.plannerSt (1 - t.activePlanner) = 2) ∧
    WriteMay 0 0x00120028 2 (fun v t => bitsOf v 2 0 = 2 ∧ 2 * 0 < t.variant.lanes ∧ t.pairFormed 0 = true ∧
      t.f (Reg.PAIR_STATUS 0) 1 1 ≠ t.f (Reg.PAIR_CTRL 0) 0 0 ∧ t.laneUp (2 * 0 + t.f (Reg.PAIR_CTRL 0) 0 0) = true) ∧
    WriteMay 0 0x00120028 4 (fun v t => bitsOf v 2 0 = 4 ∧ 2 * 1 < t.variant.lanes ∧ t.pairFormed 1 = true ∧
      t.f (Reg.PAIR_STATUS 1) 1 1 ≠ t.f (Reg.PAIR_CTRL 1) 0 0 ∧ t.laneUp (2 * 1 + t.f (Reg.PAIR_CTRL 1) 0 0) = true) ∧
    WriteMay 9 (0x000E0040 + 0x20 * 2) 0 (fun v t => bitsOf v 2 1 ≠ 3 ∧ (bitsOf v 3 3 = 1 → t.f (Reg.MA_DEC 2) 20 0 ≤ 80000)) ∧
    WriteMay 256 (0x000E0044 + 0x20 * 2) 0 (fun v t => 256 ≤ bitsOf v 20 0 ∧ bitsOf v 20 0 ≤ if t.bit (Reg.MA_CFG 2) 3 = true then 80000 else 1280000) ∧
    WriteMay 1280000 (0x000E0044 + 0x20 * 2) 0 (fun v t => 256 ≤ bitsOf v 20 0 ∧ bitsOf v 20 0 ≤ if t.bit (Reg.MA_CFG 2) 3 = true then 80000 else 1280000) ∧
    WriteMay 0x17432000 (0x000E0048 + 0x20 * 2 + 4 * 3) 0 (fun v _ => ∀ k, k < 4 →
      bitsOf v (8 * k + 6) (8 * k) ≤ 0x17 ∨ (0x20 ≤ bitsOf v (8 * k + 6) (8 * k) ∧ bitsOf v (8 * k + 6) (8 * k) ≤ 0x43)) ∧
    WriteMay 800 0x000E0400 0 (fun v t => 800 ≤ bitsOf v 19 0 ∧ bitsOf v 19 0 ≤ 64000 ∧ t.nextInput 7 = none) ∧
    WriteMay 64000 0x000E0400 0 (fun v t => 800 ≤ bitsOf v 19 0 ∧ bitsOf v 19 0 ≤ 64000 ∧ t.nextInput 7 = some 3) ∧
    WriteMay 0x50 (0x000E0410 + 0x10 * 7) 0 (fun v _ => bitsOf v 6 4 ≤ 5 ∧ bitsOf v 1 0 = 0) :=
  ⟨writeMay (owned .standby) (by decide) (by decide) (by decide), writeMay (owned .standby) (by decide) (by decide) (by decide),
    writeMay (st .standby [(Reg.PORT_ROLES, 2), (Reg.LANE_STATUS 3, 0x105)]) (by decide) (by decide) (by decide),
    writeMay failing (by decide) (by decide) (by decide), writeMay (backed 0) (by decide) (by decide) (by decide), writeMay (backed 1) (by decide) (by decide) (by decide),
    writeMay (st .standby [(Reg.PORT_ROLES, 2), (Reg.MA_DEC 2, 80000)]) (by decide) (by decide) (by decide),
    writeMay (owned .standby) (by decide) (by decide) (by decide), writeMay (owned .standby) (by decide) (by decide) (by decide),
    writeMay (owned .standby) (by decide) (by decide) (by decide), writeMay (owned .standby) (by decide) (by decide) (by decide),
    writeMay (st .standby [(Reg.PORT_ROLES, 2), (Reg.RTD_CFG 3, 1)]) (by decide) (by decide) (by decide),
    writeMay (owned .standby) (by decide) (by decide) (by decide)⟩

/-- A commit of `n` entries, with their check word. -/
def commitPkt (n : Nat) (e : Nat → List Byte) : Cmd := pkt (leBytes 4 n ++ leBytes 4 (crc32c ((List.range n).map e).flatten))

/-- Zone 63 enabled with bytes that no enabled zone may have. -/
def badZone : State := { owned .armed with det := { zoneB := ⟨[(63, 1 :: List.replicate 31 255)]⟩ } }

set_option maxRecDepth 100000 in
/-- Premises of CommitsDecided, where a table passes its checks: one that the validation accepts and one that it rejects, in STANDBY and outside it. -/
theorem test_commits_pass :
    Shown 0x0301 (fun c _ t => t.bit Reg.SCT_STATUS 1 = false ∧ crc32c ((List.range 0).map (t.sctEntry (1 - t.sctActive))).flatten = fieldAt c.params 4 4 ∧
      t.sctValidate 0 = none ∧ t.dev = .standby) ∧
    Shown 0x0301 (fun c _ t => t.bit Reg.SCT_STATUS 1 = false ∧ crc32c ((List.range 0).map (t.sctEntry (1 - t.sctActive))).flatten = fieldAt c.params 4 4 ∧
      t.sctValidate 0 = none ∧ t.dev ≠ .standby) ∧
    Shown 0x0301 (fun c _ t => t.bit Reg.SCT_STATUS 1 = false ∧ crc32c ((List.range 2).map (t.sctEntry (1 - t.sctActive))).flatten = fieldAt c.params 4 4 ∧
      (t.sctValidate 2).isSome = true) ∧
    Shown 0x0309 (fun c _ t => t.bit Reg.ZONE_TABLE_STATUS 1 = false ∧ fieldAt c.params 0 4 = 64 ∧
      crc32c ((List.range 64).map ((t.zoneBank (1 - t.zoneActive)).get blank32)).flatten = fieldAt c.params 4 4 ∧ t.zoneValidate = none) ∧
    Shown 0x0309 (fun c _ t => t.bit Reg.ZONE_TABLE_STATUS 1 = false ∧ fieldAt c.params 0 4 = 64 ∧
      crc32c ((List.range 64).map ((t.zoneBank (1 - t.zoneActive)).get blank32)).flatten = fieldAt c.params 4 4 ∧ t.zoneValidate.isSome = true) ∧
    Shown 0x0606 (fun c _ t => t.bit Reg.TPL_STATUS 1 = false ∧ fieldAt c.params 0 4 = 16 ∧
      crc32c ((List.range 16).map ((t.tplBank (1 - t.f Reg.TPL_STATUS 0 0)).get blankTpl)).flatten = fieldAt c.params 4 4) :=
  ⟨shown (owned .standby) (commitPkt 0 fun _ => []) (by decide) (by decide) (by decide), shown (owned .armed) (commitPkt 0 fun _ => []) (by decide) (by decide) (by decide),
    shown (owned .armed) (commitPkt 2 fun _ => blank32) (by decide) (by decide) (by decide),
    shown (owned .armed) (commitPkt 64 fun _ => blank32) (by decide +kernel) (by decide) (by decide +kernel),
    shown badZone (commitPkt 64 ((badZone.zoneBank 1).get blank32)) (by decide +kernel) (by decide) (by decide +kernel),
    shown (owned .armed) (commitPkt 16 fun _ => blankTpl) (by decide +kernel) (by decide) (by decide +kernel)⟩

/-- Eight slots that hold captures. -/
def fullSlots : Cap := { slots := ⟨(List.range 8).map fun i => (i, { st := 2 })⟩ }

/-- The capture engine in state `k`, with an item in its slot, one in its ring and two that wait. -/
def capSt (d : DevState) (k : Nat) (l : List (Nat × Word)) (c : Cap) : State := { st d ((Reg.CAP_STATUS, BitVec.ofNat 32 k) :: l) with cap := c, now := 100000 }

/-- What the slot, the ring and the FIFO of an engine at work hold. -/
def filled : Cap := { cur := 1, slots := ⟨[(1, { st := 1, items := [[1]], postBytes := 1 })]⟩, ring := [(5, [2, 3])], input := [.item [7], .item [8]] }

/-- Premises of CaptureCommandsDecided: a free slot and none, each state of the engine, an enabled trigger. -/
theorem test_capture_commands :
    Shown 0x0500 (fun c _ t => c.length = 0 ∧ t.capSt = 0 ∧ 1 < t.capSlots ∧ (t.capSlot 1).st = 0 ∧ ∀ j, j < 1 → (t.capSlot j).st ≠ 0) ∧
    Shown 0x0500 (fun c _ t => c.length = 0 ∧ t.capSt = 0 ∧ (∀ j, j < t.capSlots → (t.capSlot j).st ≠ 0) ∧ t.bit Reg.CAP_SIZE 27 = false) ∧
    Shown 0x0501 (fun c _ t => c.length = 0 ∧ t.capSt = 0) ∧ Shown 0x0501 (fun c _ t => c.length = 0 ∧ (t.capSt = 1 ∨ t.capSt = 2)) ∧
    Shown 0x0501 (fun c _ t => c.length = 0 ∧ (t.capSt = 3 ∨ t.capSt = 4)) ∧
    Shown 0x0502 (fun c _ t => c.length = 0 ∧ (t.bit Reg.CAP_TRIG_MASK 0 = false ∨ t.capSt = 0)) ∧
    Shown 0x0502 (fun c _ t => c.length = 0 ∧ t.bit Reg.CAP_TRIG_MASK 0 = true ∧ (t.capSt = 1 ∨ t.capSt = 2) ∧ t.cap.rearmed = none) ∧
    Shown 0x0502 (fun c _ t => c.length = 0 ∧ t.bit Reg.CAP_TRIG_MASK 0 = true ∧ (t.capSt = 1 ∨ t.capSt = 2) ∧ t.cap.rearmed = some (t.now, 3)) ∧
    Shown 0x0504 (fun c _ t => c.length = 4 ∧ fieldAt c.params 0 1 < t.capSlots ∧ (t.capSlot (fieldAt c.params 0 1)).st = 2 ∧ t.capSt ≠ 5) ∧
    Shown 0x0504 (fun c _ t => c.length = 4 ∧ fieldAt c.params 0 1 < t.capSlots ∧ (t.capSlot (fieldAt c.params 0 1)).st = 2 ∧ t.capSt = 5) :=
  ⟨shown (capSt .standby 0 [(Reg.PORT_ROLES, 2), (Reg.CAP_SIZE, 0x1000000)] { slots := ⟨[(0, { st := 2 })]⟩ }) (pkt []) (by decide) (by decide) (by decide),
    shown (capSt .standby 0 [(Reg.PORT_ROLES, 2)] fullSlots) (pkt []) (by decide) (by decide) (by decide),
    shown (capSt .standby 0 [(Reg.PORT_ROLES, 2)] {}) (pkt []) (by decide) (by decide) (by decide),
    shown (capSt .standby 2 [(Reg.PORT_ROLES, 2)] filled) (pkt []) (by decide) (by decide) (by decide),
    shown (capSt .standby 3 [(Reg.PORT_ROLES, 2)] filled) (pkt []) (by decide) (by decide) (by decide),
    shown (capSt .standby 0 [(Reg.PORT_ROLES, 2)] {}) (pkt []) (by decide) (by decide) (by decide),
    shown (capSt .standby 1 [(Reg.PORT_ROLES, 2), (Reg.CAP_TRIG_MASK, 1)] filled) (pkt []) (by decide) (by decide) (by decide),
    shown (capSt .standby 1 [(Reg.PORT_ROLES, 2), (Reg.CAP_TRIG_MASK, 1)] { filled with rearmed := some (100000, 3) }) (pkt []) (by decide) (by decide) (by decide),
    shown (capSt .standby 0 [(Reg.PORT_ROLES, 2), (Reg.CAP_SIZE, 0x7000000)] fullSlots) (pkt [7, 0, 0, 0]) (by decide) (by decide) (by decide),
    shown (capSt .standby 5 [(Reg.PORT_ROLES, 2), (Reg.CAP_SIZE, 0x7000000)] fullSlots) (pkt [7, 0, 0, 0]) (by decide) (by decide) (by decide)⟩

set_option maxRecDepth 20000 in
/-- Premises of BootAndCounter and LpPortRuns, where the rows complete. -/
theorem test_boot_and_lp :
    (∃ s : State, s.dev = .standby ∧ s.boot.fuses.svn < min 64 (s.f Reg.SVN_STATUS 31 24) ∧ ∀ T k, s.tPol = some (T, k) → T < 7040) ∧
    (∃ s : State, s.noCommands = false ∧ lpPacketOk lpBytes = true ∧ s.quiet ∧ knownOpcode 0x0100 = true ∧ (s.port 4).queue.length < 4) :=
  ⟨⟨{ st .standby [(Reg.SVN_STATUS, 0x40000000)] with boot := { fuses := { svn := 63 } } }, by decide, by decide, cool rfl _⟩,
    ⟨owned .standby, by decide, by decide, (st_quiet _ _).1, by decide, by decide⟩⟩

/-- Premises of RecorderFlush's clause on a new flush and of CalSave's. -/
theorem test_flush_starts : Shown 0x0802 (fun c _ t => c.length = 0 ∧ (t.sys.running.any fun d => d.opcode == 0x0802) = false ∧ t.dev ≠ .thermalStop ∧ t.recorder.flush = none ∧ t.sys.hardStop = false) ∧
    Shown 0x0802 (fun c _ t => c.length = 0 ∧ (t.sys.running.any fun d => d.opcode == 0x0802) = false ∧ t.dev ≠ .thermalStop ∧ t.recorder.flush = some flush0) :=
  ⟨shown (owned .standby) (pkt []) (by decide) (by decide) (by decide),
    shown { owned .standby with recorder := { flush := some flush0 } } (pkt []) (by decide) (by decide) (by decide)⟩

/-- A swarm message of type `k` whose check word holds. -/
def checkedMsg (k : Nat) : SwarmMsg := { type := k, src := 3, time := 500, number := 9, crc := SwarmMsg.check { type := k, src := 3, time := 500, number := 9 } }

set_option maxRecDepth 20000 in
/-- Premises of FrameSourcesRun, where the rows complete: an edge in time, one too early, the internal timer, the swarm's frame time, a boundary and a flywheel's, a
pattern swap, a message and two slots. -/
theorem test_frame_rows :
    (∃ s : State, s.frameSrc = 1 ∧ true ≠ s.bit Reg.FRAME_CTRL 2 ∧ s.sync.span = true ∧ s.sync.lastB + s.periodNs / 4 ≤ s.now ∧ s.tooSoon (s.time.dev + s.boundaryDelay) = false ∧
      s.swarmMaster = false ∧ s.plan.cols = ⟨[]⟩) ∧
    (∃ s : State, s.frameSrc = 1 ∧ true ≠ s.bit Reg.FRAME_CTRL 2 ∧ s.sync.span = true ∧ s.sync.lastB + s.periodNs / 4 ≤ s.now ∧ s.tooSoon (s.time.dev + s.boundaryDelay) = false ∧
      s.swarmMaster = true ∧ s.plan.cols = ⟨[]⟩) ∧
    (∃ s : State, s.frameSrc = 1 ∧ true ≠ s.bit Reg.FRAME_CTRL 2 ∧ s.sync.span = true ∧ s.now < s.sync.lastB + s.periodNs / 4) ∧
    (∃ s : State, s.frameSrc = 1 ∧ true ≠ s.bit Reg.FRAME_CTRL 2 ∧ s.sync.span = true ∧ s.tooSoon (s.time.dev + s.boundaryDelay) = true) ∧
    (∃ s : State, s.frameSrc = 0 ∧ s.sync.span = true ∧ s.sync.nextInternal ≤ s.time.dev) ∧
    (∃ s : State, s.sync.frameTimes = 0 :: [] ∧ 0 ≤ s.time.dev ∧ s.swarmMaster = true) ∧
    (∃ s : State, s.sync.frameTimes = 0 :: [] ∧ 0 ≤ s.time.dev ∧ s.swarmMaster = false ∧ s.frameSrc = 2 ∧ s.swarmSt = 2 ∧ s.sync.span = true ∧ s.sync.dueAt = none ∧
      s.sync.lastB + s.periodNs / 4 ≤ s.now) ∧
    (∃ s : State, s.sync.dueAt = some 5 ∧ s.sync.span = true ∧ 5 ≤ s.now) ∧
    (∃ s : State, s.sync.span = true ∧ s.frameSrc ≠ 0 ∧ s.sync.dueAt = none ∧ s.swarmMaster = false ∧
      s.sync.lastB + (if s.sync.fly = true then s.periodNs else s.periodNs + s.periodNs / 8) ≤ s.now) ∧
    (∃ s : State, (s.dev = .standby ∨ s.dev = .armed) ∧ s.emit.patAt = some 5 ∧ s.bit Reg.EMIT_STATUS 4 = true ∧ 5 + 400000 ≤ s.now) ∧
    (∃ (s : State) (m : SwarmMsg), s.swarmRuns = true ∧ m.crcOk = true ∧ s.swarmMaster = false ∧ (m.type = 1 ∨ m.type = 2)) ∧
    (∃ (s : State) (m : SwarmMsg), s.swarmRuns = true ∧ m.crcOk = true ∧ s.swarmMaster = true ∧ (m.type = 1 ∨ m.type = 2)) ∧
    (∃ (s : State) (m : SwarmMsg), s.swarmRuns = true ∧ m.crcOk = true ∧ m.type = 5) ∧ (∃ (s : State) (m : SwarmMsg), s.swarmRuns = true ∧ m.crcOk = false) ∧
    (∃ s : State, s.swarmRuns = true ∧ s.swarmMaster = true ∧ s.sync.slotAt = none ∧ s.sync.slot = 9 ∧ s.sync.frameMsg = some (7, 8)) ∧
    (∃ s : State, s.swarmRuns = true ∧ s.swarmMaster = true ∧ s.sync.slotAt = none ∧ (s.sync.slot + 1) % 10 ≠ 0 ∧ (s.sync.slot + 1) % 10 ≠ 1 + s.swarmIndex) :=
  ⟨⟨{ st .armed [(Reg.FRAME_CTRL, 1)] with now := 100000000, sync := { span := true } }, by decide⟩,
    ⟨{ st .armed [(Reg.FRAME_CTRL, 1), (Reg.SWARM_CTRL, 3)] with now := 100000000, sync := { span := true } }, by decide⟩,
    ⟨{ st .armed [(Reg.FRAME_CTRL, 1)] with now := 5, sync := { span := true } }, by decide⟩,
    ⟨{ st .armed [(Reg.FRAME_CTRL, 1), (Reg.SWARM_CTRL, 3)] with now := 100000000, sync := { span := true, frameTimes := [0] } }, by decide⟩,
    ⟨{ st .armed [] with sync := { span := true } }, by decide⟩,
    ⟨{ st .armed [(Reg.SWARM_CTRL, 3)] with sync := { span := true, frameTimes := [0] } }, by decide⟩,
    ⟨{ st .armed [(Reg.FRAME_CTRL, 2), (Reg.SWARM_STATUS, 2)] with now := 100000000, sync := { span := true, frameTimes := [0] } }, by decide⟩,
    ⟨{ st .sensing [] with now := 5, sync := { span := true, dueAt := some 5 } }, by decide⟩,
    ⟨{ st .sensing [(Reg.FRAME_CTRL, 1)] with now := 1000000000, sync := { span := true } }, by decide⟩,
    ⟨{ st .armed [(Reg.EMIT_STATUS, 16)] with now := 400005, emit := { patAt := some 5 } }, by decide⟩,
    ⟨st .standby [(Reg.SWARM_CTRL, 1)], checkedMsg 1, by decide⟩, ⟨st .standby [(Reg.SWARM_CTRL, 3)], checkedMsg 2, by decide⟩, ⟨st .standby [(Reg.SWARM_CTRL, 3)], checkedMsg 5, by decide⟩,
    ⟨st .standby [(Reg.SWARM_CTRL, 1)], { checkedMsg 1 with number := 10 }, by decide⟩,
    ⟨{ st .standby [(Reg.SWARM_CTRL, 3)] with sync := { slot := 9, frameMsg := some (7, 8) } }, by decide⟩,
    ⟨{ st .standby [(Reg.SWARM_CTRL, 3)] with sync := { slot := 3 } }, by decide⟩⟩

/-- A segment's place in a column, as the planner leaves it. -/
def pol3 : SegPol := { seg := 3, rank := 0, prio := 0, min := 1, max := 10, batch := 4, range := 0, estop := true, empty := true, profile := 0, first := 0 }

/-- Its column, running since 5 ns. -/
def polCol : ColPlan := { col0 with segs := [pol3] }

/-- A column that has been planned, and not posted. -/
def col3 : ColPlan := { polCol with frame := 5, column := 3, startNs := none }

/-- A state that plans, in frame 5 at column 3, whose column 0 of frame 0 is open. -/
def plans : State :=
  { st .sensing [(Reg.PLAN_FRAME_NUMBER, 5), (Reg.SEG_MAP_A 3, 0x101F0)] with now := 1000000, plan := { running := true, planFrame := 5, planNext := 3, openCol := some 0, cols := ⟨[(0, some polCol)]⟩ } }

/-- The same with column 3 of frame 5 planned and not posted, under the claims `v`; planner A is active. -/
def unposted3 (v : Word) : State :=
  { plans with
    regs := (plans.regs.set 0 Reg.CLAIM_AB v).set 0 Reg.PLAN_PAIR_STATUS (if v.toNat % 65536 = 0 then 1 else 0)
    plan := { plans.plan with planNext := 4, cols := ⟨[(colKey 5 3, some col3)]⟩ } }

/-- A verdict of comb 31 on that column, which runs out of echoes to find. -/
def verdict0 : Verdict := ⟨0, 0, 31, 3, 0, 0xFFFF, 0, some 5⟩

/-- Premises of PlannerRuns, where the rows complete. -/
theorem test_planner_rows :
    (∃ s : State, s.planning = true ∧ 1 < s.columns ∧ s.plan.planNext < s.columns ∧ s.planAhead ≤ 8) ∧
    (∃ (s : State) (c : ColPlan), s.unposted = c :: [] ∧ s.planning = true ∧ s.plan.fifo.length < 8 ∧ s.claimant = some s.activeClaim) ∧
    (∃ (s : State) (c : ColPlan), s.unposted = c :: [] ∧ s.planning = true ∧ s.plan.fifo.length < 8 ∧ s.claimant ≠ some s.activeClaim) ∧
    (∃ s : State, s.red.takeover = none ∧ s.nextStart = some s.plan.frameNs ∧ s.plan.frameNs ≤ s.now) ∧
    (∃ s : State, s.red.takeover = none ∧ s.plan.cutDrive = true ∧ s.plan.running = true ∧ s.plan.swept < s.columns ∧ s.moveDone 0 = true) ∧
    (∃ (s : State) (e : Nat × ColPlan) (r : List (Nat × ColPlan)), s.closable = e :: r ∧ s.col e.1 = some e.2) ∧
    (∃ s : State, s.plan.openCol = some 0 ∧ s.col 0 = some polCol ∧ polCol.gap = false ∧ polCol.closed = false ∧ polCol.startNs = some 5 ∧ s.planning = true ∧
      polCol.segs = [pol3] ∧ s.segChannels pol3.seg = [496] ∧ ∀ ch, ch ∈ s.segChannels pol3.seg → (s.pt (ptKey 0 ch)).stopped = true) ∧
    (∃ s : State, (s.comb 31).verdicts = verdict0 :: [] ∧ s.col verdict0.key = some polCol ∧ polCol.closed = false ∧ polCol.column = verdict0.column ∧
      verdict0.closedAt = some 5 ∧ 5 + 1000 < s.now) ∧
    (∃ s : State, (s.comb 31).verdicts = verdict0 :: [] ∧ s.col verdict0.key = some polCol ∧ s.now ≤ 5 + 1000) ∧
    (∃ s : State, (s.comb 31).verdicts = verdict0 :: [] ∧ s.col verdict0.key = some { polCol with closed := true }) ∧
    (∃ s : State, (s.comb 31).verdicts = verdict0 :: [] ∧ s.col verdict0.key = none) :=
  ⟨⟨plans, by decide⟩, ⟨unposted3 0x00010000, col3, by decide⟩, ⟨unposted3 0x00020001, col3, by decide⟩,
    ⟨{ st .sensing [] with now := 77, plan := { running := true } }, by decide⟩, ⟨{ st .sensing [] with plan := { running := true, cutDrive := true } }, by decide⟩,
    ⟨{ plans with plan := { plans.plan with openCol := none } }, (0, polCol), [], by decide⟩,
    ⟨{ plans with plan := { plans.plan with pts := ⟨[(ptKey 0 496, { stopped := true })]⟩ } }, by decide⟩,
    ⟨{ plans with combs := ⟨[(31, { verdicts := [verdict0] })]⟩ }, by decide⟩, ⟨{ plans with now := 1005, combs := ⟨[(31, { verdicts := [verdict0] })]⟩ }, by decide⟩,
    ⟨{ plans with plan := { cols := ⟨[(0, some { polCol with closed := true })]⟩ }, combs := ⟨[(31, { verdicts := [verdict0] })]⟩ }, by decide⟩,
    ⟨{ plans with plan := {}, combs := ⟨[(31, { verdicts := [verdict0] })]⟩ }, by decide⟩⟩

/-- A shot of tile 7 that may be launched. -/
def cut7 : CutShot := { cut0 with seg := 63, refused := false, win := 3 }

/-- A drip frame whose blocks all hold a shot. -/
def dripAll (n : Nat) : DripFrame := { drip0 n with blocks := List.replicate 8 { kind := true, p := 0 } }

/-- A frame on its way since 500 ns. -/
def sentAll : SentFrame := ⟨dripAll 0, 500, false, false⟩

/-- A sensing state with `LASER_EN` high. -/
def lasing (e : Emit) (t : Nat) : State := { st .sensing [(Reg.EMIT_STATUS, 1)] with now := t, emit := e }

/-- Premises of EmitterRuns, where the rows complete. -/
theorem test_emitter_rows :
    (∃ s : State, s.dev ≠ .reset ∧ 500 * s.emit.lastWin ≤ s.now) ∧
    (∃ s : State, s.emit.cuts = cut7 :: [] ∧ cut7.fireAt ≤ 512 * s.now ∧ cut7.refused = false ∧ s.dev.emitting = true ∧ s.lsd = false ∧ s.laserEn = true) ∧
    (∃ s : State, s.emit.sent = sentAll :: [] ∧ sentAll.at_ ≤ s.now ∧ s.now ≤ sentAll.at_ + 600 ∧ retOk s.tiles sentAll.frame (dripAll 0) = true) ∧
    (∃ s : State, s.emit.sent = sentAll :: [] ∧ sentAll.at_ + 600 < s.now ∧ s.emit.retFails + 1 < s.ef Reg.EMIT_TILE_LIMITS 15 8) ∧
    (∃ s : State, s.emit.sent = sentAll :: [] ∧ sentAll.at_ + 600 < s.now ∧ s.ef Reg.EMIT_TILE_LIMITS 15 8 ≤ s.emit.retFails + 1) ∧
    (∃ s : State, s.laserEn = true ∧ s.lsd = false ∧ s.emit.laserAt = some 900 ∧ 900 + 40 ≤ s.now) ∧ (∃ s : State, s.laserEn = false) ∧
    (∃ s : State, s.emit.lsdAt = some 5 ∧ s.dev.scanning = true ∧ ∀ T k, s.tPol = some (T, k) → T < 8000) ∧ (∃ s : State, s.emit.acctA = s.emit.acctB) :=
  ⟨⟨lasing {} 0, by decide⟩, ⟨lasing { cuts := [cut7] } 1, by decide⟩, ⟨lasing { sent := [sentAll] } 1100, by decide⟩, ⟨lasing { sent := [sentAll] } 1101, by decide⟩,
    ⟨lasing { sent := [sentAll], retFails := 254 } 1101, by decide⟩, ⟨lasing { laserAt := some 900 } 940, by decide⟩, ⟨st .armed [], by decide⟩,
    ⟨lasing { lsdAt := some 5 } 5, by decide, by decide, cool rfl _⟩, ⟨lasing {} 0, by decide⟩⟩

/-- Premises of FadeAndWavelengthRun, where the rows complete. -/
theorem test_fade_rows :
    (∃ s : State, s.emit.fadeAt = some 0 ∧ 0 + s.fadeNs ≤ s.now ∧ s.tileReady 7 = true) ∧
    (∃ s : State, s.emit.fadeAt = some 0 ∧ 0 + s.fadeNs ≤ s.now ∧ (∀ k, k < 8 → s.tileReady k = false) ∧ s.dev.scanning = true ∧ ∀ T k, s.tPol = some (T, k) → T < 8000) ∧
    (∃ s : State, (s.wlTile 7).done = some (4, -40, 100)) ∧
    (∃ s : State, s.wlCounts 7 = true ∧ (s.wlTile 7).since = some 0 ∧ s.ef Reg.EMIT_TILE_LIMITS 31 16 * 1000000 ≤ (s.wlTile 7).lostNs + (s.now - 0)) :=
  ⟨⟨{ st .sensing [(Reg.EMIT_STATUS, 0xFF03)] with now := 1000000000, emit := { fadeAt := some 0 } }, by decide⟩,
    ⟨{ st .sensing [(Reg.EMIT_STATUS, 3)] with now := 1000000000, emit := { fadeAt := some 0 } }, by decide, by decide, by decide, by decide, cool rfl _⟩,
    ⟨{ State.reset with emit := { wl := ⟨[(7, { done := some (4, -40, 100) })]⟩ } }, by decide⟩,
    ⟨{ st .sensing [(Reg.EMIT_STATUS, 0xFF01)] with now := 1000000000000, emit := { wl := ⟨[(7, { since := some 0 })]⟩ } }, by decide⟩⟩

/-- A request for a sample at 5 ns. -/
def trig5 : SarTrig := ⟨0, 5, 0, 0, 0, [], 0⟩

/-- A conversion that runs since 5 ns, at `t`. -/
def converting (t : Nat) : State := { st .sensing [] with now := t, emit := { sarNext := [trig5] }, aux := { sar := some ⟨5, 0, none, []⟩ } }

/-- The RTD converter in phase `k` on input 3. -/
def rtdAt (k : Nat) : State :=
  { st .standby [(Reg.RTD_CFG 3, 1), (Reg.RTD_CFG 5, 1)] with now := 1000000000, aux := { rtd := { input := 3, phase := k, at_ := some 0 } } }

/-- Premises of ConvertersRun, where the rows complete. -/
theorem test_converter_rows :
    (∃ s : State, s.emit.sarNext = trig5 :: [] ∧ trig5.at_ ≤ s.now ∧ s.aux.sar = none) ∧
    (∃ s : State, s.emit.sarNext = trig5 :: [] ∧ trig5.at_ ≤ s.now ∧ s.aux.sar = some ⟨5, 0, none, []⟩ ∧ s.aux.deferred = [] ∧ s.now < 5 + 258) ∧
    (∃ s : State, s.emit.sarNext = trig5 :: [] ∧ trig5.at_ ≤ s.now ∧ s.aux.sar = some ⟨5, 0, none, []⟩ ∧ s.aux.deferred = [] ∧ 5 + 258 ≤ s.now) ∧
    (∃ s : State, s.wag.powerAt = some 0 ∧ 0 + 5000 * s.wag.ctrlN ≤ s.now + 1000 ∧ s.axesOff = false ∧ s.aux.sar = none ∧ s.shotTriggerNow = false) ∧
    (∃ s : State, s.wag.powerAt = some 0 ∧ 0 + 5000 * s.wag.ctrlN ≤ s.now + 1000 ∧ s.axesOff = false ∧ s.aux.sar = none ∧ s.shotTriggerNow = true) ∧
    (∃ s : State, (s.ma 2).at_ = some 0 ∧ s.maRuns 2 = true ∧ 0 + (if (s.ma 2).settled then 1 else s.maOrder 2) * s.maWord8 2 ≤ 8 * s.now ∧ 0x20 ≤ s.maCode 2 (s.ma 2).slot) ∧
    (∃ s : State, s.aux.hkAt + 60000 ≤ s.now ∧ s.dev ≠ .reset) ∧
    (∃ s : State, s.aux.rtd.at_ = some 0 ∧ s.rtdRuns = true ∧ 0 + (200000 + 3 * s.f Reg.RTD_CTRL 19 0 * 625) ≤ 2 * s.now ∧ s.aux.rtd.phase = 0) ∧
    (∃ s : State, s.aux.rtd.at_ = some 0 ∧ s.rtdRuns = true ∧ 0 + (200000 + 3 * s.f Reg.RTD_CTRL 19 0 * 625) ≤ 2 * s.now ∧ s.aux.rtd.phase ≠ 0 ∧
      s.nextInput s.aux.rtd.input = some 5) :=
  ⟨⟨{ st .sensing [] with now := 5, emit := { sarNext := [trig5] } }, by decide⟩, ⟨converting 262, by decide⟩, ⟨converting 263, by decide⟩,
    ⟨{ st .sensing [(Reg.WAG_STATUS, 0x22)] with wag := { powerAt := some 0 } }, by decide⟩,
    ⟨{ st .sensing [(Reg.WAG_STATUS, 0x22)] with now := 5, wag := { powerAt := some 0 }, emit := { sarNext := [trig5] } }, by decide⟩,
    ⟨{ st .standby [(Reg.MA_CFG 2, 1), (Reg.MA_SEQ 2 0, 0x43)] with now := 10000000000, aux := { ma := ⟨[(2, { at_ := some 0 })]⟩ } }, by decide⟩,
    ⟨{ st .standby [] with now := 60000 }, by decide⟩, ⟨rtdAt 0, by decide⟩, ⟨rtdAt 1, by decide⟩⟩

/-- Premises of ReceiverRuns, where the rows complete. -/
theorem test_receiver_rows :
    (∃ s : State, s.dev ≠ .reset ∧ s.rx.readDue = none ∧ 16000 * (s.rx.ticks + 1) ≤ s.now ∧ s.biasMonitored = true ∧ s.emit.fires = ⟨[]⟩ ∧ s.emit.cuts = []) ∧
    (∃ s : State, s.dev ≠ .reset ∧ s.rx.readDue = some [31] ∧ s.inBlank = false ∧ s.biasMonitored = true) ∧ (∃ s : State, s.rx.testAt = some 5) ∧
    (∃ s : State, s.dev ≠ .reset) ∧ (∃ s : State, s.dev = .reset) :=
  ⟨⟨{ st .sensing [] with now := 16000 }, by decide⟩, ⟨{ st .sensing [] with rx := { readDue := some [31] } }, by decide⟩,
    ⟨{ st .armed [] with rx := { testAt := some 5 } }, rfl⟩, ⟨st .sensing [], by decide⟩, ⟨st .reset [], rfl⟩⟩

/-- Premises of ClocksRun, where the rows complete. -/
theorem test_clock_rows :
    (∃ s : State, s.dev ≠ .reset ∧ (s.tdc.windows + 1) * 4000 ≤ s.now) ∧
    (∃ s : State, s.bit Reg.CLK_STATUS 2 = false ∧ s.f Reg.CLK_CTRL 31 16 * 250 ≤ s.clk.refGood ∧ s.clk.refGood ≠ 0) ∧
    (∃ s : State, s.clk.lockAt = some 0 ∧ s.clk.both = true ∧ s.bit Reg.CLK_STATUS 2 = false ∧ s.bit Reg.CLK_STATUS 3 = true ∧ s.bit Reg.CLK_STATUS 4 = true ∧ 0 + 10000000 ≤ s.now) :=
  ⟨⟨{ st .standby [] with now := 4000 }, by decide⟩, ⟨{ st .standby [(Reg.CLK_STATUS, 0)] with tdc := { clk := { refGood := 16383750, refAbsent := true } } }, by decide⟩,
    ⟨{ st .standby [(Reg.CLK_STATUS, 0x18)] with now := 10000000, tdc := { clk := { lockAt := some 0, both := true } } }, by decide⟩⟩

/-- A channel with a valid bias. -/
def okChan : Chan := { biasBad := false }

/-- A shot of column 0 into channel 9. -/
def open9 : OpenShot := { open0 with acc := [9], fireAt := 20480 }

/-- The same shot, started, with channel 511 waiting. -/
def open511 : OpenShot := { open9 with combs := [31], start := some [0], armed := [511], waiting := [511], cal := [(511, 3, 0)] }

/-- The window of channel 511. -/
def win511 : RxWin := ⟨0, 0, 20480, 51520, 0, 0, 0, 0, false, some 0⟩

/-- Channel 511 in its window, at `t`. -/
def timed (t : Nat) : State := { st .sensing [] with now := t, tdc := { shots := [open511] }, rx := { chans := ⟨[(511, { okChan with win := some win511 })]⟩ } }

/-- Premises of TimingRuns, where the rows complete. -/
theorem test_timing_rows :
    (∃ s : State, s.waitingShot 7 = some open9 ∧ s.col open9.key = some col0 ∧ col0.startNs = some 5) ∧
    (∃ s : State, (s.dev = .armed ∨ s.dev = .calibrating) ∧ 511 / 16 < s.variant.combs ∧ s.chanState 511 = 0 ∧ (s.chan 511).win = none ∧ s.tdc.shots = []) ∧
    (∃ s : State, (s.tdc.shots.find? fun q => q.start.isNone && !q.internal && decide (q.fireAt + 20480 < 512 * s.now)) = some open9 ∧
      s.emit.misses.get 0 open9.tile + 1 < s.ef Reg.EMIT_TILE_LIMITS 7 0) ∧
    (∃ s : State, 511 < s.variant.channels ∧ s.rises 511 973 0 = true ∧ (s.chan 511).holdUntil ≤ 512 * s.now ∧ s.calcChan 511 = 0 ∧ 95 * 1024 ≤ 100 * 973) ∧
    (∃ s : State, 511 < s.variant.channels ∧ s.rises 511 700 0 = true ∧ (s.chan 511).holdUntil ≤ 512 * s.now ∧ s.calcChan 511 = 0 ∧ (s.chan 511).win = some win511 ∧
      512 * s.now + 320 ≤ win511.closeAt ∧ (s.tdc.shots.find? fun q => q.waiting.contains 511) = some open511 ∧ open511.start = some [0] ∧ 511 ∈ open511.armed ∧
      open511.cal.find? (·.1 == 511) = some (511, 3, 0) ∧ (s.chan 511).last = none ∧ open511.stops.get 0 511 = 0) ∧
    (∃ s : State, (s.chan 511).win = some win511 ∧ win511.closeAt ≤ 512 * s.now) ∧
    (∃ s : State, (s.chan 511).next = some 2 ∧ (s.chan 511).win = none ∧ (s.chan 511).closeAt + 4096 ≤ 512 * s.now ∧ s.segOfChan 511 = none) ∧
    (∃ s : State, 511 < s.variant.channels ∧ (s.chan 511).stuck = false ∧ s.dev ≠ .reset) ∧
    (∃ s : State, s.f (Reg.TDC_STAT_STATUS 31) 2 0 = 1 ∧ 2 ^ bitsOf (s.stat 31).ctrl 12 8 ≤ (s.stat 31).count) ∧
    (∃ s : State, s.f (Reg.TDC_STAT_STATUS 31) 2 0 = 1 ∧ (s.stat 31).startAt + bitsOf (s.stat 31).ctrl 30 16 * 1000000 ≤ s.now) :=
  ⟨⟨{ st .sensing [] with now := 41, tdc := { shots := [open9] }, plan := { cols := ⟨[(0, some col0)]⟩ } }, by decide⟩,
    ⟨{ st .calibrating [] with rx := { chans := ⟨[(511, okChan)]⟩ } }, by decide⟩, ⟨{ st .sensing [] with now := 81, tdc := { shots := [open9] } }, by decide⟩,
    ⟨timed 100, by decide⟩, ⟨timed 100, by decide⟩, ⟨timed 101, by decide⟩,
    ⟨{ st .sensing [(Reg.SEG_MAP_A 63, 0x0101F0)] with now := 8, rx := { chans := ⟨[(511, { next := some 2 })]⟩ } }, by decide⟩, ⟨st .standby [], by decide⟩,
    ⟨{ st .standby [(Reg.TDC_STAT_STATUS 31, 1)] with tdc := { stats := ⟨[(31, { count := 1 })]⟩ } }, by decide⟩,
    ⟨{ st .standby [(Reg.TDC_STAT_STATUS 31, 1)] with now := 1000000, tdc := { stats := ⟨[(31, { ctrl := 0x10000 })]⟩ } }, by decide⟩⟩

/-- The notice of shot 9 of segment 3. -/
def notice9 : Notice := { number := 9, key := 0, seg := 3, batch := 1, dither := 0, internal := false, acc := [496], ranges := [] }

/-- Its segment in comb 31, with one batch. -/
def seg3 : CombSeg := { seg := 3, w := 1, u := 500, b := 3, short := false, profile := 0, pa := 0, pb := 0, batches := [{ number := 1, ended := true, mask := [496] }] }

/-- Its column. -/
def comb3 : CombCol := { key := 0, frame := 0, column := 0, stalled := false, dark := false, cand := 0, hive := 0, segs := [seg3] }

/-- The same column, closed, with every batch done. -/
def closed3 : CombCol := { comb3 with closedAt := some 0, segs := [{ seg3 with batches := [] }] }

/-- An event of the shot. -/
def event9 : EvtWord := { ts := 30000, ch := 0, range := 1, sat := false, ovf := false, stop := 0, seg := 3, number := 9 }

/-- Its close mark. -/
def mark9 : Mark := { close := true, seg := 3, number := 9, wcount := 0, lost := 1 }

/-- An empty histogram of the segment. -/
def hist0 : PtHist := { seg := 3 }

/-- Comb 31 with the shot, its column and its histogram. -/
def shot31 : CombSt := { cols := [comb3], notices := [notice9], hists := ⟨[(ptKey 0 496, some hist0)]⟩ }

/-- A record in comb 31's export ring. -/
def rec0 : ExpRec := exportRec closed3 { seg3 with batches := [] } 496 hist0

/-- A window of the chain. -/
def chain0 : ChainWin := { key := 0, frame := 0, ch := 0, seg := 0, w := 0, u := 100, start := 0, rank := 0, src := List.replicate 64 5 }

/-- A cluster of `n` points. -/
def cluster (n : Nat) : Cluster :=
  { echoes := (List.range n).map fun i => { column := i, ch := 3, range := 1000, az := 5, el := 6, intensity := 7, stamp := 1000 }, last := 0, due := true }

/-- Premises of DetectionRuns, where the rows of the combs and hives complete. -/
theorem test_comb_rows :
    (∃ s : State, (s.tdcComb 31).evts = event9 :: [] ∧ ((s.comb 31).notices.find? fun n => n.number == event9.number && n.seg == event9.seg) = some notice9 ∧
      notice9.internal = false ∧ s.combCol 31 notice9.key = some comb3 ∧ comb3.stalled = false ∧ comb3.closedAt = none ∧ comb3.dark = false ∧ (s.comb 31).dark = false ∧
      16 * 31 + event9.ch ∈ notice9.acc ∧ event9.ovf = false ∧ comb3.segs.find? (·.seg == event9.seg) = some seg3 ∧
      s.hist 31 (ptKey notice9.key (16 * 31 + event9.ch)) = some hist0 ∧
      stampTime event9.lsb event9.ts / (640000 * 2 ^ seg3.w) < seg3.u) ∧
    (∃ s : State, (s.tdcComb 31).dueClose = some (mark9, []) ∧
      ((s.comb 31).notices.find? fun n => n.number == mark9.number && n.seg == mark9.seg && n.internal == mark9.internal) = some notice9 ∧
      s.combCol 31 notice9.key = some comb3 ∧ comb3.closedAt = none ∧ notice9.internal = false ∧ notice9.acc = [496] ∧ mark9.noStart = false ∧
      s.hist 31 (ptKey notice9.key 496) = some hist0) ∧
    (∃ s : State, s.dueBatch 31 3 = some (0, 1) ∧ s.combCol 31 0 = some comb3 ∧ comb3.segs.find? (·.seg == 3) = some seg3 ∧ (s.comb 31).verdicts.length < 32) ∧
    (∃ s : State, ((s.comb 31).cols.find? fun x => x.closedAt.isSome) = some closed3 ∧
      625 * s.scanCycles 31 closed3 + closed3.closedAt.getD 0 * 1000 ≤ s.now * 1000 ∧ (∀ g, g ∈ closed3.segs → ∀ b, b ∈ g.batches → b.done = true) ∧
      s.exportPts 31 closed3.key = []) ∧
    (∃ s : State, ((s.comb 31).cols.find? fun x => x.closedAt.isSome) = some closed3 ∧
      625 * s.scanCycles 31 closed3 + closed3.closedAt.getD 0 * 1000 ≤ s.now * 1000 ∧ (∀ g, g ∈ closed3.segs → ∀ b, b ∈ g.batches → b.done = true) ∧
      s.exportPts 31 closed3.key = [496] ∧ s.hist 31 (ptKey closed3.key 496) = some hist0 ∧ (closed3.segs.find? (·.seg == hist0.seg)).isSome = true ∧ s.chanState 496 = 0 ∧
      bitN (s.ef (Reg.HIST_CTRL 31) 31 0) 3 = false ∧ ((s.comb 31).ring.map (·.size)).sum + rec0.size ≤ 49152) :=
  ⟨⟨{ st .sensing [(Reg.TDC_FINE 496, 0x600040)] with tdc := { combs := ⟨[(31, { evts := [event9] })]⟩ }, combs := ⟨[(31, shot31)]⟩ }, by decide⟩,
    ⟨{ st .sensing [] with tdc := { combs := ⟨[(31, { marks := [mark9] })]⟩ }, combs := ⟨[(31, shot31)]⟩ }, by decide⟩,
    ⟨{ st .sensing [] with combs := ⟨[(31, { shot31 with notices := [] })]⟩ }, by decide⟩,
    ⟨{ st .sensing [] with now := 100000, combs := ⟨[(31, { cols := [closed3], notices := [notice9] })]⟩ }, by decide⟩,
    ⟨{ st .sensing [(Reg.HIST_CTRL 31, 0)] with now := 100000, rx := { chans := ⟨[(496, okChan)]⟩ }, combs := ⟨[(31, { shot31 with cols := [closed3] })]⟩ }, by decide⟩⟩

/-- The same of the hives, the chain, the clusters, the zones and the finder. -/
theorem test_detection_rows :
    (∃ s : State, (s.hive 0).waiting = { point := rec0 } :: [] ∧ s.idleEngine 0 = some 4) ∧
    (∃ s : State, (s.hive 0).waiting = [] ∧ s.ringFor 0 = some (31, rec0) ∧ s.idleEngine 0 = some 4) ∧
    (∃ s : State, s.engine 1023 = some { point := rec0, since := 0 }) ∧
    (∃ s : State, (s.hive 7).chain = chain0 :: [] ∧ s.chainReady 7 (s.cfgOf chain0.frame) = true) ∧
    (∃ s : State, s.det.clusters.find? (·.due) = some (cluster 0) ∧ (cluster 0).meas.points < max 1 (s.f Reg.TRK_CLUSTER 15 8)) ∧
    (∃ s : State, s.det.clusters.find? (·.due) = some (cluster 9) ∧ max 1 (s.f Reg.TRK_CLUSTER 15 8) ≤ (cluster 9).meas.points ∧ s.plan.tracks = ⟨[]⟩ ∧ s.plan.hostWrites = ⟨[]⟩) ∧
    (∃ s : State, s.det.ready = [(5, [{ zone := 64, hits := 300, covering := 5 }])] ∧ s.dev.emitting = true ∧ zoneEn ((s.cfgOf 5).zones.get blank32 63) = true ∧ s.zoneState 63 ≠ 0) ∧
    (∃ s : State, s.rej.feQueue = ⟨100, 90, 31⟩ :: [] ∧ s.rej.feTaken = none ∧ s.dev ≠ .calibrating) ∧
    (∃ s : State, s.feSt 63 ≠ 0 ∧ s.feSt 63 ≠ 2 ∧ 1000000 ≤ s.now - s.rej.ctxHit.get 0 63) ∧
    (∃ s : State, s.feSt 63 = 2 ∧ 1000000 * s.ef Reg.FE_CFG 31 16 ≤ s.now - s.rej.ctxHit.get 0 63) :=
  ⟨⟨{ st .sensing [] with det := { hives := ⟨[(0, { waiting := [{ point := rec0 }] })]⟩ } }, by decide⟩, ⟨{ st .sensing [] with combs := ⟨[(31, { ring := [rec0] })]⟩ }, by decide⟩,
    ⟨{ st .sensing [] with det := { engines := ⟨[(1023, some { point := rec0, since := 0 })]⟩ } }, by decide⟩,
    ⟨{ st .sensing [] with now := 100000000, det := { hives := ⟨[(7, { chain := [chain0] })]⟩ } }, by decide⟩,
    ⟨{ st .sensing [] with det := { clusters := [cluster 0] } }, by decide⟩, ⟨{ st .sensing [] with det := { clusters := [cluster 9] } }, by decide⟩,
    ⟨{ st .sensing [(Reg.ZONE_STATE 63, 2)] with
      det := { ready := [(5, [{ zone := 64, hits := 300, covering := 5 }])], cfg := { zones := ⟨[(63, 1 :: List.replicate 31 0)]⟩ } } }, by decide⟩,
    ⟨{ st .sensing [] with rej := { feQueue := [⟨100, 90, 31⟩] } }, by decide⟩, ⟨{ st .sensing [(Reg.FE_CTX_STATE 63, 1)] with now := 1000000 }, by decide⟩,
    ⟨{ st .sensing [(Reg.FE_CTX_STATE 63, 2)] with now := 100000000000 }, by decide⟩⟩

/-- The bytes of a descriptor in DRAM that ends its chain: 16 bytes from 0x100 to 0x200. -/
def lastDesc : Tbl Byte := ⟨[(64, 0xFF), (65, 0xFF), (66, 0xFF), (67, 0xFF), (69, 1), (73, 2), (76, 16)]⟩

/-- The same to a lane queue. -/
def queueDesc : Tbl Byte := ⟨lastDesc.entries ++ [(79, 0x10)]⟩

/-- Channel `n` in status `v`, at that descriptor. -/
def atDesc (n : Nat) (v : Word) (c : DmaCh) : State :=
  { st .sensing [(Reg.DMA_STATUS n, v), (Reg.DMA_CUR n, 64)] with streams := { spaces := lastDesc, chans := ⟨[(n, c)]⟩ } }

/-- Channel 31, running at that descriptor, with a packet in its ring; lane 3, up, has room for it or none. -/
def ringed (busy : Bool) : State :=
  { st .sensing [(Reg.DMA_STATUS 31, 1), (Reg.DMA_CUR 31, 64), (Reg.LANE_STATUS 3, 5)] with
    streams := { spaces := queueDesc, subs := ⟨[(31, { state := 2, port := 3, ring := [{ kind := 1, frame := 3, records := 1, body := [1] }] })]⟩ }
    lanes := ⟨[(3, { txBlk := if busy then [{ bytes := [1] }] else [] })]⟩ }

/-- Channel 35, running at that descriptor, with an event of HP3 that waits; lane 3 is in state `k`. -/
def serviced (k : Nat) : State :=
  { st .sensing [(Reg.DMA_STATUS 35, 1), (Reg.DMA_CUR 35, 64), (Reg.LANE_STATUS 3, BitVec.ofNat 32 k)] with
    streams := { spaces := queueDesc }
    ports := ⟨[(3, { out := [{ port := 3, opcode := 0x0100, isEvent := true, params := [], seq := 0, timeUs := 0 }] })]⟩ }

/-- Channel 31 with a record that waits. -/
def packs : State :=
  { st .sensing [] with streams := { subs := ⟨[(31, { state := 2, kind := 1, pend := [{ frame := 3, tag := 3, bytes := List.replicate 48 1 }], placed := 7 })]⟩ } }

/-- Premises of StreamsAndDmaRun, where the rows complete. -/
theorem test_stream_rows :
    (∃ (s : State) (k : StreamPkt) (r : List PendRec), packNext (s.sub 31).kind (s.sub 31).pend = some (k, r) ∧ (s.sub 31).state = 2 ∧ (s.sub 31).safety = false ∧
      (s.sub 31).fill + k.size ≤ s.ringCap (s.sub 31)) ∧
    (∃ s : State, s.f (Reg.DMA_STATUS 63) 1 0 = 1 ∧ (s.desc (s.r (Reg.DMA_CUR 63))).inDram s.variant = true ∧ (s.desc (s.r (Reg.DMA_CUR 63))).next = 0xFFFFFFFF) ∧
    (∃ s : State, s.f (Reg.DMA_STATUS 63) 1 0 = 1 ∧ s.f Reg.STREAM_CTRL 3 0 ≤ (s.dma 63).tries) ∧
    (∃ s : State, s.f (Reg.DMA_STATUS 63) 1 0 = 1 ∧ (s.dma 63).tries < s.f Reg.STREAM_CTRL 3 0) ∧
    (∃ s : State, (s.desc (s.r (Reg.DMA_CUR 31))).dstSpace = 1 ∧ (s.dma 31).moved = false ∧ (s.sub 31).ring ≠ [] ∧ s.laneTakes 31 = false) ∧
    (∃ s : State, (s.desc (s.r (Reg.DMA_CUR 35))).dstSpace = 1 ∧ (s.port 3).out ≠ [] ∧ s.serviceTakes 3 = false) ∧
    (∃ s : State, s.f (Reg.DMA_STATUS 31) 1 0 = 1 ∧ (s.desc (s.r (Reg.DMA_CUR 31))).inDram s.variant = true ∧ s.dmaWaits 31 = false ∧
      s.dmaCarries 31 (s.desc (s.r (Reg.DMA_CUR 31))) = true ∧
      (s.desc (s.r (Reg.DMA_CUR 31))).next = 0xFFFFFFFF) ∧
    (∃ s : State, s.f (Reg.DMA_STATUS 35) 1 0 = 1 ∧ s.dmaWaits 35 = false ∧ s.dmaCarries 35 (s.desc (s.r (Reg.DMA_CUR 35))) = true ∧ (s.dma 35).restarting = false ∧ (s.desc (s.r (Reg.DMA_CUR 35))).inDram s.variant = true ∧
      (s.desc (s.r (Reg.DMA_CUR 35))).next = 0xFFFFFFFF) ∧
    (∃ s : State, (s.dma 63).lastDone = some 96 ∧ s.f (Reg.DMA_STATUS 63) 1 0 ≠ 0 ∧ s.f (Reg.DMA_STATUS 63) 1 0 ≠ 3) :=
  ⟨⟨packs, ((packNext (packs.sub 31).kind (packs.sub 31).pend).get (by decide)).1, ((packNext (packs.sub 31).kind (packs.sub 31).pend).get (by decide)).2, by decide⟩,
    ⟨atDesc 63 1 {}, by decide⟩, ⟨atDesc 63 1 { tries := 15 }, by decide⟩, ⟨atDesc 63 1 {}, by decide⟩, ⟨ringed true, by decide⟩, ⟨serviced 6, by decide⟩, ⟨ringed false, by decide⟩,
    ⟨serviced 5, by decide⟩, ⟨atDesc 63 2 { lastDone := some 96 }, by decide⟩⟩

/-- `ARM` as it waits for its answer. -/
def arming : PendCmd := { opcode := 0x0104, port := 0, tag := 1 }

/-- The scan of both axes has held its accuracy, for that command. -/
def settled : State :=
  { st .standby [(Reg.WAG_STATUS, 0x22)] with
    now := 2000005, wag := { armAt := some 0, scanAt := some 5, axX := { okSince := some 0 }, axY := { okSince := some 5 } }
    sys := { dev := .standby, cmds := [arming] } }

/-- Premises of WaggleRuns, where the rows complete. -/
theorem test_waggle_rows :
    (∃ s : State, s.wag.powerAt = some 5 ∧ 5 + 5000 * s.wag.n ≤ s.now) ∧ (∃ s : State, (s.loop 19).late = true) ∧
    (∃ s : State, s.wag.parkAt = some 0 ∧ s.dev.scanning = true ∧ ∀ T k, s.tPol = some (T, k) → T < 8000) ∧
    (∃ s : State, (s.loop (4 + 7)).hold = some 5 ∧ 5 ≤ s.now) ∧
    (∃ s : State, s.wag.armAt = some 0 ∧ s.wag.scanAt = some 5 ∧ s.wag.axX.heldFor s.now 5 2000000 = true ∧ s.wag.axY.heldFor s.now 5 2000000 = true ∧ s.axState 0 = 2 ∧
      s.axState 1 = 2 ∧ s.sys.cmds = [arming] ∧ arming.opcode = 0x0104 ∧ s.dev = .standby ∧ ∀ T k, s.tPol = some (T, k) → T < 8000) ∧
    (∃ s : State, (s.axis 1).relAt = some 5 ∧ s.axState 1 = 6 ∧ 5 + 10000000 ≤ s.now ∧ s.sys.cmds = []) :=
  ⟨⟨{ st .sensing [(Reg.WAG_STATUS, 0x22)] with now := 20005, wag := { powerAt := some 5, n := 4 } }, by decide⟩,
    ⟨{ st .sensing [] with wag := { loops := ⟨[(19, { late := true, runs := 3 })]⟩ } }, by decide⟩,
    ⟨{ st .sensing [] with wag := { parkAt := some 0 } }, by decide, by decide, cool rfl _⟩,
    ⟨{ st .sensing [] with now := 5, wag := { loops := ⟨[(11, { hold := some 5 })]⟩ } }, by decide⟩,
    ⟨settled, by decide, by decide, by decide, by decide, by decide, by decide, by decide, by decide, by decide, cool rfl _⟩,
    ⟨{ st .standby [(Reg.WAG_STATUS, 0x60)] with now := 10000005, wag := { axY := { relAt := some 5 } } }, by decide⟩⟩

/-- A full histogram of comb 31 that waits. -/
def staged0 : Staged := { frame := 0, column := 0, ch := 0, size := 4, bytes := [1, 2, 3, 4] }

/-- Premises of CaptureRuns, where the rows complete. -/
theorem test_capture_rows :
    (∃ s : State, s.capOn = true ∧ s.capSt ≠ 3 ∧ s.f (Reg.DMA_STATUS 45) 1 0 ≠ 3 ∧ s.stagedCount = 0 ∧ s.cap.loss = none ∧ s.cap.input = .item [7] :: [.item [8]] ∧
      s.cap.timeAt + 64000 ≤ s.now) ∧
    (∃ s : State, s.capSt = 3 ∧ s.capOn = true ∧ s.f (Reg.DMA_STATUS 45) 1 0 ≠ 3 ∧ s.stagedCount = 0 ∧ s.cap.loss = none ∧ s.cap.input = .item [7] :: [.item [8]] ∧
      (s.capSlot s.cap.cur).postBytes < s.f Reg.CAP_SIZE 23 12 * 4096) ∧
    (∃ s : State, s.capOn = true ∧ s.f (Reg.DMA_STATUS 45) 1 0 ≠ 3 ∧ s.capSt ≠ 3 ∧ s.cap.loss = none ∧ s.cap.input = [] ∧ s.stagedCount = 1 ∧ s.stagedComb = some 31 ∧
      (s.combs.get {} 31).stage = [staged0]) ∧
    (∃ s : State, s.capSt = 4 ∧ (s.closeSlot false).armSlot = some 0 ∧ 0 ≠ s.cap.cur) ∧ (∃ s : State, s.capSt = 4 ∧ (s.closeSlot false).armSlot = none) :=
  ⟨⟨capSt .armed 1 [] filled, by decide⟩, ⟨capSt .armed 3 [] filled, by decide⟩,
    ⟨{ capSt .armed 1 [(Reg.CAP_CTRL, 2), (Reg.CAP_COMBS, 0x80000000)] {} with combs := ⟨[(31, { stage := [staged0] })]⟩ }, by decide⟩,
    ⟨capSt .armed 4 [(Reg.CAP_SIZE, 0x1000000)] filled, by decide⟩,
    ⟨capSt .armed 4 [(Reg.CAP_SIZE, 0x1000000)] { filled with slots := ⟨[(0, { st := 2 }), (1, { st := 1 })]⟩ }, by decide⟩⟩

/-- Group 5, which waits to be sent again. -/
def group5 : TxGroup := { gseq := 5, flits := List.replicate 16 .idle, sentAt := 7, resend := true }

/-- The units of a group of 16 flits `f`, from a scrambler that starts. -/
def sixteen (f : Flit) : List Nat := (lineGroup false 0x7FFFFFFF 0 0 (List.replicate 16 f)).1

/-- A lane that is not yet up, and one that is, in lock. -/
def inLock (k : Nat) : State := lane3 k { locked := true }

/-- What a group says without an error, in order, and what `P` says of it. -/
def groupSays (g : RxGroup) (P : RxGroup → Bool) : Bool := g.framed && g.crcOk && g.seqOk && P g

/-- What lane 3 reads from sixteen flits `f`. -/
theorem inLock_reads (k : Nat) (f : Flit) (P : RxGroup → Bool) (h : ((inLock k).f (Reg.LANE_STATUS 3) 6 4 == 5) = false)
    (hg : groupSays (readBytes true true (groupBytes 0 (List.replicate 16 f))) P = true) : groupSays ((inLock k).laneRead 3 (sixteen f)).1 P = true := by
  have : (inLock k).laneRead 3 (sixteen f) = readGroup false 0x7FFFFFFF (sixteen f) := by rw [State.laneRead, h]; rfl
  rw [this, sixteen, readGroup_lineGroup _ _ _ _ _ (List.length_replicate ..)]
  exact hg

set_option maxRecDepth 100000 in
/-- Premises of LaneTrafficRuns about a group of data, and about one of idle flits. -/
theorem test_good_groups :
    (∃ (s : State) (us : List Nat), s.laneOn 3 = true ∧ (s.lane 3).locked = true ∧ s.laneSt 3 = 5 ∧ groupSays (s.laneRead 3 us).1 (fun g => !g.flits.any (· == .reserved) &&
      g.flits.any Flit.isData && gseqDist g.gseq (s.lane 3).rxNext == 0) = true) ∧
    (∃ (s : State) (us : List Nat), s.laneOn 3 = true ∧ s.laneSt 3 ≠ 0 ∧ (s.lane 3).locked = true ∧ groupSays (s.laneRead 3 us).1 (fun g => g.flits == List.replicate 16 .idle) = true) :=
  ⟨⟨inLock 5, sixteen (.data 0 true true [1]), by decide, by decide, by decide, inLock_reads _ _ _ (by decide) (by decide +kernel)⟩,
    ⟨inLock 2, sixteen .idle, by decide, by decide, by decide, inLock_reads _ _ _ (by decide) (by decide +kernel)⟩⟩

/-- Premises of LaneTrafficRuns about a group that fails, here without its comma, and about one that a receiver out of lock hears. -/
theorem test_groups_received :
    (∃ (s : State) (us : List Nat), s.laneOn 3 = true ∧ (s.lane 3).locked = true ∧ s.laneSt 3 ∉ [0, 5] ∧ (s.laneRead 3 us).1.framed = true ∧ (s.laneRead 3 us).1.crcOk = false) ∧
    (∃ s : State, s.laneOn 3 = true ∧ s.laneSt 3 ≠ 0 ∧ (s.lane 3).locked = false) :=
  ⟨⟨inLock 2, [], by decide⟩, ⟨lane3 2 {}, by decide⟩⟩

/-- Premises of LineCodeRecovers: sixteen flits that their bytes can spell. -/
theorem test_LineCodeRecovers : ∃ (fs : List Flit) (gseq : Nat), fs.length = 16 ∧ (∀ f, f ∈ fs → flitFits f = true) ∧ gseq < 4096 :=
  ⟨List.replicate 16 (.data 3 true true [1]), 4095, by decide⟩

/-- Premises of LaneTrainingRuns and LaneTrafficRuns, where the rows complete. -/
theorem test_lane_rows :
    (∃ s : State, (s.lane 3).retrainAt = some 5 ∧ s.laneSt 3 ≠ 5 ∧ 5 + 10000000 ≤ s.now) ∧
    (∃ s : State, s.laneOn 3 = true ∧ s.laneSt 3 ∉ [0, 3, 4, 5] ∧ s.f (Reg.LANE_STATUS 3) 9 8 = 0 ∧ s.sys.retrainOwed = [] ∧ s.sys.disableOwed = []) ∧
    (∃ s : State, s.laneOn 3 = true ∧ s.laneSt 3 = 5 ∧ s.f (Reg.LANE_STATUS 3) 9 8 = 0 ∧ s.sys.retrainOwed = [] ∧ s.sys.disableOwed = [] ∧ (s.lane 3).ackOwed = false ∧
      (s.lane 3).nakOwed = false ∧ (s.lane 3).unacked.find? (·.resend) = some group5 ∧ group5.replays + 1 < s.f (Reg.LANE_CFG 3) 31 28) ∧
    (∃ s : State, s.laneOn 3 = true ∧ s.f (Reg.LANE_STATUS 3) 9 8 = 0 ∧ s.sys.retrainOwed = [] ∧ s.sys.disableOwed = [] ∧ (s.lane 3).reqPreset = none ∧ s.laneSt 3 = 3 ∧
      (s.lane 3).switched = false ∧ (s.lane 3).rateCount = 0 + 1) ∧
    (∃ s : State, s.laneOn 3 = true ∧ s.f (Reg.LANE_STATUS 3) 9 8 = 0 ∧ s.sys.retrainOwed = [] ∧ s.sys.disableOwed = [] ∧ (s.lane 3).reqPreset = none ∧ s.laneSt 3 = 4 ∧
      (s.lane 3).eqNext < 11) ∧
    (∃ s : State, (s.lane 3).leftUpAt = some 5 ∧ s.pairFormed (3 / 2) = true ∧ s.laneUp 3 = false ∧ (s.pair (3 / 2)).out.contains (3 % 2) = false ∧
      5 + s.f (Reg.PAIR_CTRL (3 / 2)) 15 8 * 100000 ≤ s.now ∧ s.laneUp (2 * (3 / 2) + (1 - 3 % 2)) = true ∧ s.f (Reg.PAIR_STATUS (3 / 2)) 0 0 = 3 % 2 ∧
      s.f (Reg.PAIR_STATUS (3 / 2)) 1 1 = 3 % 2) :=
  ⟨⟨lane3 6 { retrainAt := some 5 }, by decide⟩, ⟨lane3 6 {}, by decide⟩, ⟨lane3 5 { unacked := [group5] }, by decide⟩, ⟨lane3 3 { rateCount := 1 }, by decide⟩,
    ⟨lane3 4 { eqNext := 10 }, by decide⟩,
    ⟨{ st .sensing [(Reg.LINK_STATUS, 4), (Reg.PAIR_STATUS 1, 0xF)] with
      now := 30000000, lanes := ⟨[(3, { leftUpAt := some 5 })]⟩, red := { pairs := ⟨[(1, { formed := true })]⟩ } }, by decide⟩⟩

/-- Planner A's takeover by B, with claim 70000, since reset. -/
def takeover0 : Takeover := { failed := 0, cause := 1, at_ := 0, time := 0, claim := 70000 }

/-- An entry of the retention ring. -/
def entry0 : RecEntry := ⟨3, 4, 5, 6, 7, 8, true⟩

/-- Premises of RedundancyRuns, where the rows complete. -/
theorem test_redundancy_rows :
    (∃ s : State, s.plannerSt 1 = 2 ∧ s.dev ≠ .boot ∧ s.supervised = true ∧ s.red.testStart.get none 1 = none) ∧
    (∃ s : State, s.plannerSt 1 = 5 ∧ s.dev ≠ .reset ∧ s.red.failedAt.get none 1 = some 5 ∧ 5 + 1000000 * s.f Reg.RED_CTRL 31 16 ≤ s.now ∧
      s.f Reg.PLAN_PAIR_STATUS (4 * 1 + 11) (4 * 1 + 8) < s.f Reg.RED_CTRL 11 8) ∧
    (∃ s : State, s.red.takeover = some takeover0 ∧ takeover0.resume = none ∧ takeover0.failed ≤ 1 ∧ s.newestCkpt = none ∧ s.dev.scanning = false ∧ s.wag.armAt = none) ∧
    (∃ s : State, s.red.tieAt = some 5 ∧ s.supervised = true ∧ 5 + 1000000 ≤ s.now) ∧
    (∃ s : State, s.red.takeover = some takeover0 ∧ takeover0.resume = none ∧ takeover0.at_ + 1000000 * s.f Reg.RED_CTRL 7 0 ≤ s.now ∧ s.supervised = true) ∧
    (∃ s : State, s.dev ≠ .reset) ∧ (∃ s : State, s.dev ≠ .reset ∧ s.recorder.ring.get none 4000 = some entry0) :=
  ⟨⟨st .sensing [(Reg.PLAN_PAIR_STATUS, 0x20)], by decide⟩,
    ⟨{ st .sensing [(Reg.PLAN_PAIR_STATUS, 0x50), (Reg.RED_CTRL, 0x10100)] with now := 1000005, red := { failedAt := ⟨[(1, some 5)]⟩ } }, by decide⟩,
    ⟨{ st .standby [] with red := { takeover := some takeover0 } }, by decide⟩, ⟨{ st .sensing [] with now := 1000005, red := { tieAt := some 5 } }, by decide⟩,
    ⟨{ st .sensing [] with now := 255000000, red := { takeover := some takeover0 } }, by decide⟩, ⟨st .sensing [], by decide⟩,
    ⟨{ st .sensing [] with recorder := { ring := ⟨[(4000, some entry0)]⟩ } }, by decide⟩⟩

/-- What a full calibration found of a run without combs. -/
def fullRun0 : FullRun := { start := 0, mean := 0, temps := [] }

/-- A column of a sixteenth of a frame, posted. -/
def longCol : ColPlan := { col0 with dur := 625000, posted := true }

/-- Premises of CalibrationRuns and RecorderRuns, where the rows complete. -/
theorem test_calibration_rows :
    (∃ s : State, s.plan.openCol = some 0 ∧ s.calNext = some 31 ∧ s.col 0 = some col0 ∧ s.calRuns = true ∧ col0.startNs = some s.now ∧
      4 ≤ s.f (Reg.CAL_COMB 31) 31 24 ∧ col0.sweep = 0) ∧
    (∃ s : State, s.plan.openCol = some 0 ∧ s.calNext = some 31 ∧ s.col 0 = some longCol ∧ s.calRuns = true ∧ longCol.startNs = some s.now ∧
      s.f (Reg.CAL_COMB 31) 31 24 < 4 ∧ s.calWindow 31 longCol.sweep = true) ∧
    (∃ s : State, s.cal.full = some fullRun0 ∧ fullRun0.start + 180000000 ≤ s.now ∧ fullRun0.found = none) ∧
    (∃ (s : State) (q : RecPost), s.dev ≠ .reset ∧ s.recorder.dropped = 0 ∧ s.recorder.queue = q :: [] ∧ q.code ≠ Rec.BOOT ∧ q.code ≠ Rec.TIME_STEP) ∧
    (∃ s : State, s.dev ≠ .reset ∧ s.recorder.dropped = 0 ∧ s.highNow ≠ s.recorder.highUs) :=
  ⟨⟨{ st .sensing ((List.range 32).map fun c => (Reg.CAL_COMB c, 0x04000000)) with
      now := 5, plan := { openCol := some 0, cols := ⟨[(0, some col0)]⟩ }, cal := { named := [31] } }, by decide⟩,
    ⟨{ st .armed [(Reg.PLAN_CTRL, 16)] with now := 5, plan := { openCol := some 0, cols := ⟨[(0, some longCol)]⟩ }, cal := { named := [31] } }, by decide⟩,
    ⟨{ st .calibrating [] with now := 180000000, cal := { full := some fullRun0 } }, by decide⟩,
    ⟨{ st .sensing [] with recorder := { queue := [⟨Rec.OWNER, 5, 6⟩] } }, ⟨Rec.OWNER, 5, 6⟩, by decide⟩,
    ⟨{ st .sensing [] with time := { dev := 2 ^ 45 } }, by decide⟩⟩

/-! ## Ill-formed operands -/

/-- Operands that no command can have are refused, and their neighbours are not. -/
theorem test_wf_packets : Instr.wf (.nop { pkt [] with length := 65536 }) = false ∧ Instr.wf (.nop { pkt [] with length := 65535 }) = true ∧
    Instr.wf (.commandArrival 0 { pkt [] with length := 65536 }) = false ∧ Instr.wf (.bootDone { rxTest := [⟨512, 0, 1, 30, 0⟩] }) = false ∧ Instr.wf (.bootDone { engBad := [1024] }) = false ∧
    Instr.wf (.swarmMessageRx { type := 16, src := 0, time := 0, number := 0 }) = false ∧ Instr.wf (.swarmMessageRx { type := 4, src := 8, time := 0, number := 0 }) = false ∧
    Instr.wf (.dmaAppend 0 0 { noDesc with count := 2 ^ 24 } true) = false ∧ Instr.wf (.dmaAppend 0 32 noDesc true) = true ∧ Instr.wf (.dmaAppend 0 33 noDesc true) = false ∧
    Instr.wf (.swarmMessageRx { type := 4, src := 7, time := 0, number := 0, reserved := 512 }) = false ∧
    Instr.wf (.swarmMessageRx { type := 4, src := 7, time := 0, number := 0, reserved := 511, crc := 2 ^ 32 - 1 }) = true := by decide

/-- The same of frames, ticks and windows. -/
theorem test_wf_events : Instr.wf (.dripRetFrame (drip0 256)) = false ∧ Instr.wf (.dripRetFrame { drip0 0 with blocks := [] }) = false ∧ Instr.wf (.dripRetFrame (drip0 255)) = true ∧
    Instr.wf (.monitorTick [512] [] []) = false ∧ Instr.wf (.monitorTick [] [32] []) = false ∧ Instr.wf (.monitorTick [511] [31] []) = true ∧
    Instr.wf (.waggleTick [] [] []) = false ∧ Instr.wf (.waggleTick [0, 0, 0, 0] [0, 0, 0, 0] [20]) = false ∧ Instr.wf (.waggleTick [0, 0, 0, 0] [0, 0, 0, 0] [19]) = true ∧
    Instr.wf (.waggleTick [8192, 0, 0, 0] [0, 0, 0, 0] []) = false ∧ Instr.wf (.rxSelftestDone [⟨512, 3, 1, 30, 0⟩]) = false ∧
    Instr.wf (.rxSelftestDone [⟨511, 4, 1, 30, 0⟩]) = false ∧ Instr.wf (.rxSelftestDone [⟨511, 3, 1, 63, 16⟩]) = false ∧ Instr.wf (.rxSelftestDone [⟨511, 3, 1, 63, 15⟩]) = true ∧ Instr.wf (.clockWindow 100 100 [32] []) = false ∧ Instr.wf (.clockWindow 100 100 [] [2]) = false := by decide

/-- The same of lanes, memories, calibration and the recorder. -/
theorem test_wf_rest : Instr.wf (.laneGroupRx 0 [4]) = false ∧ Instr.wf (.laneGroupRx 0 [3]) = true ∧
    Instr.wf (.laneEqDone 0 [] 15 10 true) = false ∧ Instr.wf (.laneEqDone 0 (List.replicate 11 ⟨[(1, 1)], 1⟩) 15 10 true) = true ∧
    Instr.wf (.laneEqDone 0 (List.replicate 11 ⟨[(1, 1)], 0⟩) 15 10 true) = false ∧ Instr.wf (.laneEqDone 0 (List.replicate 11 ⟨[(1, 1)], 1⟩) 16 10 true) = false ∧
    Instr.wf (.laneEqDone 0 (List.replicate 11 ⟨[(1, 1)], 1⟩) 15 11 true) = false ∧ Instr.wf (.eyeUpdate 0 ⟨[], 1⟩) = false ∧
    Instr.wf (.eyeUpdate 0 ⟨[(1, 1), (1, 1), (1, 1)], 1⟩) = true ∧
    Instr.wf (.memoryError (.engineRecord 1024) true) = false ∧ Instr.wf (.memoryError (.chain 8) true) = false ∧ Instr.wf (.memoryError (.sct 2 0) true) = false ∧
    Instr.wf (.memoryError (.output 32) true) = false ∧ Instr.wf (.memoryError (.track 4096) true) = false ∧ Instr.wf (.memoryError (.checkpoint 2) true) = false ∧
    Instr.wf (.memoryError (.planner 2) true) = false ∧ Instr.wf (.memoryError (.planner 1) true) = true ∧ Instr.wf (.combCalDone ⟨[], [], 0⟩) = false ∧
    Instr.wf (.fullCalMeasureDone ⟨[⟨[], [], 0⟩], [], 0, 0⟩) = false ∧ Instr.wf (.recorderFlushBudget 256) = false ∧ Instr.wf (.recorderFlushBudget 255) = true := by decide

/-- No word of the table spells a command. -/
theorem test_no_words : decodeTableWord 16 0x0100 = none ∧ (State.reset.withFetchWord 16 0x0100).pending = [] := ⟨rfl, rfl⟩

/-! ## Values that the spec works out -/

/-- The state that one row leads to. -/
def next (s : State) (i : Instr) : List State :=
  match exec i s with
  | .next t => [t]
  | _ => []

set_option maxRecDepth 20000 in
/-- R11 names CRC-32C; the check value of its definition, over the nine digits, is the published one. -/
theorem test_crc : crc32c [0x31, 0x32, 0x33, 0x34, 0x35, 0x36, 0x37, 0x38, 0x39] = 0xE3069283 := by decide

set_option maxRecDepth 100000 in
/-- R433 names SHA3-256; the digest of the empty message begins as FIPS 202 publishes it. -/
theorem test_sha3 : (sha3_256 []).take 4 = [0xa7, 0xff, 0xc6, 0xf8] := by decide +kernel

/-- The worked example of chapter 15: `PORT_ROLE_CFG` 0x0001370B makes HP0 and HP1 eligible, of ranks 2 and 5, and HP0 to HP2 clients. -/
theorem test_role_example : ((st .boot [(Reg.PORT_ROLE_CFG, 0x0001370B)]).rank 0, (st .boot [(Reg.PORT_ROLE_CFG, 0x0001370B)]).rank 1,
    (List.range 4).map (st .boot [(Reg.PORT_ROLE_CFG, 0x0001370B)]).defaultRole) = (2, 5, [.client, .client, .client, .observer]) := by decide

set_option maxRecDepth 20000 in
/-- The same: with HP1 the owner, a claim of HP0 with `FORCE` is answered `OWNER_HELD` with `DETAIL` 1. -/
theorem test_claim_example : (next (st .standby [(Reg.PORT_ROLES, 0x121), (Reg.PORT_ROLE_CFG, 0x0001370B), (Reg.OWNER_INFO, 9)]) (.ownerClaim (pkt [1]))).any (fun s =>
    (s.port 0).out.map (fun k => (k.status, k.params)) == [(Sts.OWNER_HELD, [1, 0, 0, 0, 0, 0, 0, 0])]) = true := by decide

set_option maxRecDepth 20000 in
/-- A claim that succeeds moves the roles. -/
theorem test_claim_moves : (next (st .standby [(Reg.PORT_ROLES, 0x121), (Reg.PORT_ROLE_CFG, 0x0001173F), (Reg.OWNER_INFO, 9)]) (.ownerClaim (pkt [1]))).any (fun s =>
    s.owner == some 0 && (List.range 3).map s.role == [.owner, .client, .client]) = true := by decide

end Sys2Proof.Tests
end

section
/-!
PROOFS. Proofs/ParamWrite.lean: `PARAM_WRITE` and `PARAM_MODIFY` (R345, R13): what each comes to once it is admitted, and the statement O22 of one register.
-/

namespace Sys2Proof.Machine

open Sys2Proof

/-! ## Refusals -/

/-- R13, R345: a host's write to a register that the variant has and in which every field is RO is refused. -/
theorem State.writeFault_readOnly {s : State} {a : Nat} {h : RegHit} (v : Word) (ha : regAt a = some h) (hp : h.present s.variant = true) (hro : h.row.acc = .ro) :
    s.writeFault false a v = some Sts.READ_ONLY := by
  simp [State.writeFault, ha, hp, hro]

/-! ## The rules of the two rows in the table of R343 -/

theorem paramWriteRule_fits (c : Cmd) (p : Nat) : (paramWriteRule c).Fits 0x0201 p where
  opcode := rfl
  roles ρ := by cases ρ <;> rfl
  states d := by cases d <;> rfl
  judged := rfl
  halt := rfl

theorem paramModifyRule_fits (p : Nat) : paramModifyRule.Fits 0x0202 p where
  opcode := rfl
  roles ρ := by cases ρ <;> rfl
  states d := by cases d <;> rfl
  judged := rfl
  halt := rfl

/-- R345: a block of 8 bytes and 4 for each of its `COUNT` values is whole. -/
theorem writeLen_whole {c : Cmd} {n : Nat} (hc : fieldAt c.params 4 2 = n) (hl : c.length = 8 + 4 * n) : writeLen c c.length = none := by
  simp [writeLen, exactly, hc, hl]

/-! ## From admission to effect -/

/-- A `PARAM_WRITE` that is admitted, and as long as its `COUNT` says, comes to its writes. -/
theorem State.Admits.exec_paramWrite {s t : State} {c : Cmd} {p n : Nat} {x : QCmd} (h : s.Admits 0x0201 c p x t) (hc : fieldAt c.params 4 2 = n)
    (hl : c.length = 8 + 4 * n) : exec (.paramWrite c) s = .next (State.concludes p x (t.paramWrite p x)) :=
  State.command_runs (paramWriteRule c) _ h (paramWriteRule_fits c p) (writeLen_whole hc hl) rfl

/-- A `PARAM_MODIFY` of 12 bytes that is admitted comes to its masked write. -/
theorem State.Admits.exec_paramModify {s t : State} {c : Cmd} {p : Nat} {x : QCmd} (h : s.Admits 0x0202 c p x t) (hl : c.length = 12) :
    exec (.paramModify c) s = .next (State.concludes p x (t.paramModify p x)) :=
  State.command_runs paramModifyRule _ h (paramModifyRule_fits p) (if_pos hl) rfl

/-! ## `PARAM_WRITE` of one register -/

/-- R345: an address that is no multiple of 4, whatever `COUNT` says. -/
theorem State.paramWrite_misaligned (s : State) (p : Nat) {x : QCmd} (ha : fieldAt x.cmd.params 0 4 % 4 ≠ 0) :
    s.paramWrite p x = s.fail Sts.BAD_ADDRESS (fieldAt x.cmd.params 0 4) :=
  if_pos ha

/-- R345: an aligned `PARAM_WRITE` with a `COUNT` that its port takes makes its writes in order. -/
theorem State.paramWrite_aligned (s : State) {p n : Nat} {x : QCmd} (ha : fieldAt x.cmd.params 0 4 % 4 = 0) (hc : fieldAt x.cmd.params 4 2 = n) (h1 : 1 ≤ n)
    (hn : n ≤ maxCount p) :
    s.paramWrite p x = s.writeAll x.cmd.port x.cmd.tag.toNat 0 (fieldAt x.cmd.params 0 4) (writeValues x.cmd.params n) := by
  have hcount : ¬ (n = 0 ∨ maxCount p < n) := by omega
  simp only [State.paramWrite, ha, hc, hcount, ne_eq, not_true_eq_false, if_false]

/-- Every port takes one register. -/
theorem one_le_maxCount (p : Nat) : 1 ≤ maxCount p := by
  unfold maxCount; split <;> omega

/-- An aligned `PARAM_WRITE` of one register is one write. -/
theorem State.paramWrite_one (s : State) (p : Nat) {x : QCmd} (ha : fieldAt x.cmd.params 0 4 % 4 = 0) (hc : fieldAt x.cmd.params 4 2 = 1) :
    s.paramWrite p x = s.writeAll x.cmd.port x.cmd.tag.toNat 0 (fieldAt x.cmd.params 0 4) [BitVec.ofNat 32 (fieldAt x.cmd.params 8 4)] :=
  s.paramWrite_aligned ha hc le_rfl (one_le_maxCount p)

/-- The writes end at one that is refused, with its status, its address and how many were made before. -/
theorem State.writeAll_refused {s : State} {a st : Nat} {v : Word} (p tag n : Nat) (vs : List Word) (hf : s.writeFault false a v = some st) :
    s.writeAll p tag n a (v :: vs) = s.fail st a n := by
  simp [State.writeAll, hf]

/-- The writes go on past one that is stored. -/
theorem State.writeAll_stored {s : State} {a : Nat} {v : Word} (p tag n : Nat) (vs : List Word) (hf : s.writeFault false a v = none) :
    s.writeAll p tag n a (v :: vs) = (s.writeReg a v p tag).writeAll p tag (n + 1) (a + 4) vs := by
  simp [State.writeAll, hf]

/-- No write is left: the reply carries how many were made. -/
theorem State.writeAll_done (s : State) (p tag n a : Nat) : s.writeAll p tag n a [] = s.ok (leBytes 2 n) := rfl

/-! ## `PARAM_MODIFY` -/

/-- R345: what the `PARAM_MODIFY` `x` writes to its register: the old value with the bits of `MASK` from `VALUE`; to one with W1C fields, `VALUE` AND `MASK`. -/
def State.modified (s : State) (h : RegHit) (x : QCmd) : Word :=
  let mask := BitVec.ofNat 32 (fieldAt x.cmd.params 4 4)
  let value := BitVec.ofNat 32 (fieldAt x.cmd.params 8 4)
  if h.row.acc = .w1c then value &&& mask else (s.readReg h (fieldAt x.cmd.params 0 4) &&& ~~~mask) ||| (value &&& mask)

/-- R345: an address that is no multiple of 4. -/
theorem State.paramModify_misaligned (s : State) (p : Nat) {x : QCmd} (ha : fieldAt x.cmd.params 0 4 % 4 ≠ 0) :
    s.paramModify p x = s.fail Sts.BAD_ADDRESS (fieldAt x.cmd.params 0 4) :=
  if_pos ha

section

variable {s : State} {x : QCmd} {h : RegHit} (p : Nat) (ha : fieldAt x.cmd.params 0 4 % 4 = 0) (hr : regAt (fieldAt x.cmd.params 0 4) = some h)

include ha hr

/-- A modify whose value is refused as a write is refused with the write's status. -/
theorem State.paramModify_refused {st : Nat} (hf : s.writeFault false (fieldAt x.cmd.params 0 4) (s.modified h x) = some st) :
    s.paramModify p x = s.fail st (fieldAt x.cmd.params 0 4) := by
  unfold State.modified at hf
  simp [State.paramModify, ha, hr, hf]

/-- A modify whose value no rule refuses is stored, and answered with the old value. -/
theorem State.paramModify_stored (hf : s.writeFault false (fieldAt x.cmd.params 0 4) (s.modified h x) = none) :
    s.paramModify p x = (s.writeReg (fieldAt x.cmd.params 0 4) (s.modified h x) x.cmd.port x.cmd.tag.toNat).ok
      (leBytes 4 (s.readReg h (fieldAt x.cmd.params 0 4)).toNat) := by
  unfold State.modified at hf ⊢
  simp [State.paramModify, ha, hr, hf]

end

/-! ## The statement -/

/-- Settles O22: an admitted command comes to `paramWrite` or `paramModify`, and each of these to the one write that its register's rules refuse or let pass. -/
theorem paramWriteDecided : Obligations.ParamWriteDecided := by
  intro c s p x t
  refine ⟨fun hadm hcount hlen => ?_, fun hadm hlen => ?_⟩
  · rw [hadm.exec_paramWrite hcount hlen]
    obtain rfl := hadm.cmd
    have hrefused : ∀ st, fieldAt x.cmd.params 0 4 % 4 = 0 →
        t.writeFault false (fieldAt x.cmd.params 0 4) (BitVec.ofNat 32 (fieldAt x.cmd.params 8 4)) = some st →
        t.paramWrite p x = t.fail st (fieldAt x.cmd.params 0 4) := fun st ha hf => by
      rw [t.paramWrite_one p ha hcount, State.writeAll_refused _ _ _ _ hf]
    refine ⟨fun ha => ?_, fun st ha hf => ?_, fun h ha hr hp hro => ?_, fun ha hf => ?_⟩
    · rw [t.paramWrite_misaligned p ha]
    · rw [hrefused st ha hf]
    · rw [hrefused _ ha (State.writeFault_readOnly _ hr hp hro)]
    · rw [t.paramWrite_one p ha hcount, State.writeAll_stored _ _ _ _ hf, State.writeAll_done]
      rfl
  · rw [hadm.exec_paramModify hlen]
    obtain rfl := hadm.cmd
    refine ⟨fun ha => ?_, fun h ha hr => ⟨fun st hf => ?_, fun hp hro => ?_, fun hf => ?_⟩⟩
    · rw [t.paramModify_misaligned p ha]
    · rw [State.paramModify_refused p ha hr hf]
    · rw [State.paramModify_refused p ha hr (State.writeFault_readOnly _ hr hp hro)]
    · rw [State.paramModify_stored p ha hr hf]
      rfl

end Sys2Proof.Machine
end

section
/-!
PROOFS. Proofs/StateCommands.lean: every row answers (O8), and the state-changing commands (R27, R29, R336): what an admitted one comes to (O18).
-/

namespace Sys2Proof.Machine

open Sys2Proof

/-- Settles O8: the meaning of every row is `.next` of a state, whatever its conditions say of it. -/
theorem everyRowAnswers : Obligations.EveryRowAnswers := by
  intro i s
  cases i <;> exact ⟨_, rfl⟩

/-- A state-changing command whose roles and states are those of R343 comes, once admitted, to its own effect. -/
theorem State.Admits.exec_stateRule {s t : State} {op p : Nat} {c : Cmd} {x : QCmd} {states : List DevState} {roles : List Role}
    (h : s.Admits op c p x t) (hl : c.length = 0) (body : Nat → QCmd → State → Reply)
    (hr : ∀ ρ, roles.contains ρ = (cmdRoles op p).contains ρ.code := by intro ρ; cases ρ <;> rfl)
    (hs : ∀ d, states.contains d = (cmdStates op).contains d.code := by intro d; cases d <;> rfl)
    (hj : cmdJudged op = true := by rfl) (hh : haltOpcode op = cmdHalt op := by rfl) :
    s.runCommand (stateRule op states roles) body c = .next (State.concludes p x (body p x t)) :=
  State.command_runs _ body h ⟨rfl, hr, hs, hj.symm, hh⟩ (if_pos hl) rfl

/-- R113, R133: what keeps `START_SENSING` from being accepted. -/
theorem State.startSensing_barred_iff (s : State) :
    (s.faultIn || s.manualAxis) = true ↔ s.bit Reg.EMIT_STATUS 5 = true ∨ s.f (Reg.AX_MODE 0) 1 0 ≠ 0 ∨ s.f (Reg.AX_MODE 1) 1 0 ≠ 0 := by
  simp only [State.faultIn, State.manualAxis, Bool.or_eq_true, bne_iff_ne]

/-- Settles O18: each row is its rule of R343 and its effect, which `State.accept` gives but where `START_SENSING`, `FORCE_SAFE` and `RECOVER` have conditions. -/
theorem stateCommandsAccepted : Obligations.StateCommandsAccepted := by
  intro c s p x t hl
  refine ⟨fun h => ?arm, fun h => ?disarm, fun h => ?startSensing, fun h => ?stopSensing, fun h => ?forceSafe, fun h => ?recover, fun h => ?calibrateFull⟩ <;>
    obtain rfl := h.cmd
  case startSensing =>
    refine (h.exec_stateRule hl _).trans ?_
    simp only [State.doStartSensing, State.startSensing_barred_iff]
    rfl
  all_goals exact h.exec_stateRule hl _

end Sys2Proof.Machine
end

section
/-!
PROOFS. Proofs/StrayEntries.lean: the frame statements O43 and O44 speak of every state, also of those whose tables hold entries that no run of the block puts there. In two such
states a clause fails; each state is written out, and the model evaluates it.
-/

namespace Sys2Proof.Machine

open Sys2Proof

/-! ## The frame boundary and the near profiles (R227) -/

/-- STANDBY as after reset, with a frame boundary due, and a near profile of one point kept for cell 0 of a segment 3,009. `WX_PROFILE` of that segment,
0x61000 + 0x40 × 3,009, is the address of `PLAN_FRAME_NUMBER`. -/
def strayProfile : State :=
  { State.reset with sys := { dev := .standby }, sync := { span := true, dueAt := some 0 }, rej := { prof := ⟨[(16 * 3009, (0, 1))]⟩ } }

set_option maxRecDepth 20000 in
/-- The boundary counts the frame, and the replacement of the near profiles then writes the 0 of before over the count. -/
theorem frameBoundary_strayProfile_frameNo : (strayProfile.frameBoundary false).frameNo = strayProfile.frameNo := by decide +kernel

/-- Refutes O43, in the clause of `FRAME_BOUNDARY`: in `strayProfile` a boundary that is made leaves the planner's frame number as it was. The statement asks nothing of the keys
of the near profiles, which R227 keeps for segments 0 to 63 alone. -/
theorem not_frameSourcesRun : ¬ Obligations.FrameSourcesRun := by
  intro h
  obtain ⟨-, -, -, -, hrow, -, -, -, -, -, -, -, -, hcount, -⟩ := h strayProfile
  obtain ⟨t, ht, hno, -⟩ := hcount 0 rfl rfl (Nat.zero_le _)
  rw [hrow 0 rfl, if_pos ⟨rfl, Nat.zero_le _⟩] at ht
  obtain rfl := Host.Outcome.next.inj ht
  rw [frameBoundary_strayProfile_frameNo] at hno
  exact absurd hno (by decide)

/-! ## The start of a column and the failure of a planner (R392, R394) -/

/-- The first column of frame 0, planned with no segment and not started. -/
def bareCol : ColPlan := { frame := 0, column := 0, sweep := 0, dur := 2604 }

/-- DEGRADED, with planner A active, B standing by, and one late segment enough to fail a planner (`HB_LIMIT` 1). Four columns are to be swept; the first is due, and its key
stands twice in the table of columns, which is not canonical: the second entry is hidden behind the first. -/
def hiddenColumn : State :=
  { State.reset with
    variant := .nl5_128, sys := { dev := .degraded }, regs := ⟨[(Reg.PLAN_CTRL, 4), (Reg.RED_CTRL, 0x1000), (Reg.PLAN_PAIR_STATUS, 0x28)]⟩
    plan := { running := true, cols := ⟨[(0, some bareCol), (0, some bareCol)]⟩ } }

set_option maxRecDepth 20000 in
/-- The column starts without a velocity segment, so that planner A fails; the gap that begins goes through the entries, and puts the hidden one, which has not started, in the
place of the column. -/
theorem startColumn_hiddenColumn_col : hiddenColumn.startColumn.col 0 = some { bareCol with gap := true } := by decide +kernel

/-- Refutes O44, in the clause of `COLUMN_START`: in `hiddenColumn` the column that has started stands in the table as one that has not. The statement does not ask that the table
of columns be canonical, as `Tbl.set` keeps it (`wf_set`). -/
theorem not_plannerRuns : ¬ Obligations.PlannerRuns := by
  intro h
  obtain ⟨-, -, -, hrow, -, -, -, -, -, -, -, -, -, hstart, -⟩ := h hiddenColumn
  obtain ⟨hdue, -⟩ := hstart rfl
  obtain ⟨t, c, ht, -, -, hc, hstarted⟩ := hdue 0 (by decide) (Nat.zero_le _)
  rw [hrow 0 (by decide), if_pos (Nat.zero_le _)] at ht
  obtain rfl := Host.Outcome.next.inj ht
  have hkey : colKey hiddenColumn.frameNo (sweepCol hiddenColumn.columns hiddenColumn.frameNo hiddenColumn.plan.swept) = 0 := by decide
  rw [hkey, startColumn_hiddenColumn_col] at hc
  obtain rfl := Option.some.inj hc
  exact nomatch hstarted

end Sys2Proof.Machine
end

section
/-!
PROOFS. Proofs/RegionCommands.lean: the commands of region requests (R68 to R71): what each comes to once it is admitted (O29).
-/

namespace Sys2Proof.Machine

open Sys2Proof

/-! ## Streams -/

/-- A stream reads back what was set. -/
@[simp] theorem State.stream_setStream_self (s : State) (i : Nat) (x : Stream) : (s.setStream i x).stream i = x := get_set_self _ _ _ _

/-- R69: a request that is queued is the one its parameter block asks for. -/
theorem State.queueRequest_req (s : State) (i : Nat) (e : List Byte) : ((s.queueRequest i e).stream i).req = some (regionReq e) := by
  simp [State.queueRequest]

/-- R69: a request that is queued brings its stream the `SUB_PRIO` of its parameter block. -/
theorem State.queueRequest_subPrio (s : State) (i : Nat) (e : List Byte) : ((s.queueRequest i e).stream i).subPrio = fieldBits e 3 1 1 0 := by
  simp [State.queueRequest]

/-! ## The rules of the three rows in the table of R343 -/

/-- The opcodes of region requests have the roles, the states and the judgement of one row of the table. -/
theorem regionRule_fits {op : Nat} (h : op = 0x0305 ∨ op = 0x0306 ∨ op = 0x0307) (n p : Nat) : (regionRule op n).Fits op p := by
  rcases h with rfl | rfl | rfl
  all_goals exact ⟨rfl, fun ρ => by cases ρ <;> rfl, fun d => by cases d <;> rfl, rfl, rfl⟩

/-- A command of region requests that is admitted with a block of its exact length comes to its own effect. -/
theorem State.Admits.exec_regionRule {s t : State} {op p n : Nat} {c : Cmd} {x : QCmd} (h : s.Admits op c p x t)
    (ho : op = 0x0305 ∨ op = 0x0306 ∨ op = 0x0307) (hl : c.length = n) (body : Nat → QCmd → State → Reply) :
    s.runCommand (regionRule op n) body c = .next (State.concludes p x (body p x t)) :=
  State.command_runs _ body h (regionRule_fits ho n p) (if_pos hl) rfl

/-! ## What each command comes to -/

section

variable {s : State} (p : Nat) {x : QCmd}

/-- R68: the first field at fault refuses the request. -/
theorem State.doRegionRequest_fault {o : Nat} (h : regionFault s.columns x.cmd.params = some o) : s.doRegionRequest p x = s.fail Sts.BAD_PARAM o := by
  simp [State.doRegionRequest, h]

/-- R69: a request without fault is refused where its stream has one, and queued where it has none. -/
theorem State.doRegionRequest_sound (h : regionFault s.columns x.cmd.params = none) :
    s.doRegionRequest p x = if (s.stream (6 * p + fieldBits x.cmd.params 2 1 2 0)).req.isSome then s.fail Sts.STREAM_BUSY
      else (s.queueRequest (6 * p + fieldBits x.cmd.params 2 1 2 0) x.cmd.params).ok := by
  simp [State.doRegionRequest, h]

end

/-! ## The statement -/

/-- Settles O29: an admitted command of the three comes to its own effect, which branches on the fields at fault and on what its stream holds. -/
theorem regionCommandsDecided : Obligations.RegionCommandsDecided := by
  intro c s p x t
  refine ⟨fun h hl => ?request, fun h hl => ?cancel, fun h hl => ?priority⟩ <;> obtain rfl := h.cmd
  case request =>
    have hrun : exec (.regionRequest x.cmd) s = .next (State.concludes p x (t.doRegionRequest p x)) := h.exec_regionRule (.inl rfl) hl _
    rw [hrun]
    refine ⟨fun o ho => ?_, fun hn hbusy => ?_, fun hn hfree => ⟨?_, t.queueRequest_req _ _, t.queueRequest_subPrio _ _⟩⟩
    · rw [State.doRegionRequest_fault p ho]
    · rw [State.doRegionRequest_sound p hn, if_pos hbusy]
    · rw [State.doRegionRequest_sound p hn, hfree]
      rfl
  case cancel =>
    have hrun : exec (.regionCancel x.cmd) s = .next (State.concludes p x (t.doRegionCancel p x)) := h.exec_regionRule (.inr (.inl rfl)) hl _
    rw [hrun]
    refine ⟨fun hk => ?_, fun hk => ?_⟩
    · rw [State.doRegionCancel, if_pos hk]
    · rw [State.doRegionCancel, if_neg (Nat.not_lt.mpr hk)]
      rfl
  case priority =>
    have hrun : exec (.regionPriority x.cmd) s = .next (State.concludes p x (t.doRegionPriority p x)) := h.exec_regionRule (.inr (.inr rfl)) hl _
    rw [hrun]
    refine ⟨fun hk => ?_, fun hk => ?_⟩
    · rw [State.doRegionPriority, if_pos hk]
    · rw [State.doRegionPriority, if_neg (Nat.not_lt.mpr hk)]

end Sys2Proof.Machine
end

section
/-!
PROOFS. Proofs/Failover.lean: what a failover of the planner pair leaves (R388, R392 to R394): the states of the two planners, the takeover under way and the shots that wait to be
fired stand through the reports, the flush and the transitions that it brings about.
-/

namespace Sys2Proof.Machine

open Sys2Proof

/-- In `s` planner x is in state `m x`, `k` is the takeover under way, if any, and no shot waits that is not in `Q`. -/
structure HoldsPair (m : Nat → Nat) (k : Option Takeover) (Q : List Shot) (s : State) : Prop where
  planner : ∀ x, x < 2 → s.plannerSt x = m x
  takeover : s.red.takeover = k
  queue : s.plan.queue ⊆ Q

/-- What a state holds of the pair itself. -/
theorem State.holdsPair (s : State) : HoldsPair s.plannerSt s.red.takeover s.plan.queue s := ⟨fun _ _ => rfl, rfl, List.Subset.refl _⟩

namespace HoldsPair

variable {m : Nat → Nat} {k : Option Takeover} {Q : List Shot} {s t : State}

/-! ## Updates of one part of the state -/

/-- A state that agrees on the registers, the shots and the takeover. -/
theorem agrees {pending now freeCtr held flagNow sys ports recorder time plan arb emit rej wag rx tdc combs det sync cap aux cal boot power tap lanes streams red}
    (h : HoldsPair m k Q s) (hq : plan.queue = s.plan.queue) (hk : red.takeover = s.red.takeover) :
    HoldsPair m k Q (State.mk s.variant pending now freeCtr s.regs held flagNow sys ports recorder time plan arb emit rej wag rx tdc combs det sync cap aux cal boot power tap
      lanes streams red) where
  planner := h.planner
  takeover := hk.trans h.takeover
  queue := hq ▸ h.queue

/-- A state that agrees on the registers, the plan and the pair. -/
theorem same {pending now freeCtr held flagNow sys ports recorder time arb emit rej wag rx tdc combs det sync cap aux cal boot power tap lanes streams} (h : HoldsPair m k Q s) :
    HoldsPair m k Q (State.mk s.variant pending now freeCtr s.regs held flagNow sys ports recorder time s.plan arb emit rej wag rx tdc combs det sync cap aux cal boot power tap
      lanes streams s.red) := h.agrees rfl rfl

/-- A write to another register. -/
theorem wr (h : HoldsPair m k Q s) {a : Nat} (ha : a ≠ Reg.PLAN_PAIR_STATUS) (v : Word) : HoldsPair m k Q (s.wr a v) where
  planner x hx := by
    rw [← h.planner x hx]
    unfold State.plannerSt State.f
    rw [State.rd_wr_ne _ ha.symm]
  takeover := h.takeover
  queue := h.queue

theorem setF (h : HoldsPair m k Q s) {a : Nat} (ha : a ≠ Reg.PLAN_PAIR_STATUS) (hi lo v : Nat) : HoldsPair m k Q (s.setF a hi lo v) := h.wr ha _

theorem setR (h : HoldsPair m k Q s) {a : Nat} (ha : a ≠ Reg.PLAN_PAIR_STATUS) (v : Nat) : HoldsPair m k Q (s.setR a v) := h.wr ha _

theorem add (h : HoldsPair m k Q s) {a : Nat} (ha : a ≠ Reg.PLAN_PAIR_STATUS) (n : Nat) : HoldsPair m k Q (s.add a n) := h.wr ha _

theorem inc (h : HoldsPair m k Q s) {a : Nat} (ha : a ≠ Reg.PLAN_PAIR_STATUS) : HoldsPair m k Q (s.inc a) := h.wr ha _

theorem setBit (h : HoldsPair m k Q s) {a : Nat} (ha : a ≠ Reg.PLAN_PAIR_STATUS) (i : Nat) (v : Bool) : HoldsPair m k Q (s.setBit a i v) := h.wr ha _

theorem flag (h : HoldsPair m k Q s) {a : Nat} (ha : a ≠ Reg.PLAN_PAIR_STATUS) (i : Nat) : HoldsPair m k Q (s.flag a i) := (h.setBit ha i true).same

/-- A field above those of the planners, in whatever register. -/
theorem setF_above (h : HoldsPair m k Q s) (a : Nat) {hi lo : Nat} (v : Nat) (hl : 6 < lo) (hh : lo ≤ hi) (h32 : hi < 32) : HoldsPair m k Q (s.setF a hi lo v) where
  planner x hx := by
    rw [← h.planner x hx]
    by_cases ha : Reg.PLAN_PAIR_STATUS = a
    · subst ha
      exact State.f_setF_off _ _ hh h32 (by omega) _
    · exact State.f_setF_ne _ ha ..
  takeover := h.takeover
  queue := h.queue

theorem setCol (h : HoldsPair m k Q s) (key : Nat) (c : Option ColPlan) : HoldsPair m k Q (s.setCol key c) := h.agrees rfl rfl

/-- Another state of the pair, with its takeover. -/
theorem setRed (h : HoldsPair m k Q s) {x : Red} {j : Option Takeover} (hx : x.takeover = j) : HoldsPair m j Q (s.setRed x) := ⟨h.planner, hx, h.queue⟩

/-! ## Conditions and folds -/

theorem ite {c : Prop} [Decidable c] (ht : HoldsPair m k Q s) (he : HoldsPair m k Q t) : HoldsPair m k Q (if c then s else t) := by
  split
  · exact ht
  · exact he

theorem when {c : Bool} {g : State → State} (h : HoldsPair m k Q s) (hg : HoldsPair m k Q s → HoldsPair m k Q (g s)) : HoldsPair m k Q (s.when c g) := by
  unfold State.when
  split
  · exact hg h
  · exact h

/-- A fold of updates, each at an element of its list. -/
theorem each {α : Type} {l : List α} {g : State → α → State} (h : HoldsPair m k Q s) (hg : ∀ u, ∀ a ∈ l, HoldsPair m k Q u → HoldsPair m k Q (g u a)) :
    HoldsPair m k Q (s.each l g) := by
  unfold State.each
  induction l generalizing s with
  | nil => exact h
  | cons a l ih => exact ih (hg s a (by simp) h) fun u b hb => hg u b (by simp [hb])

/-- A fold that carries a result beside the state. -/
theorem foldl_snd {α β : Type} {l : List α} {g : β × State → α → β × State} {x : β × State} (h : HoldsPair m k Q x.2)
    (hg : ∀ y, ∀ a ∈ l, HoldsPair m k Q y.2 → HoldsPair m k Q (g y a).2) : HoldsPair m k Q (l.foldl g x).2 := by
  induction l generalizing x with
  | nil => exact h
  | cons a l ih => exact ih (hg x a (by simp) h) fun y b hb => hg y b (by simp [hb])

/-! ## Packets, events and the recorder -/

/-- No register of a port, whatever its index, is that of the pair. -/
theorem portQueue_ne (p : Nat) : Reg.PORT_QUEUE p ≠ Reg.PLAN_PAIR_STATUS := by simp only [Reg.PORT_QUEUE, Reg.PLAN_PAIR_STATUS]; omega

theorem portEvtDrop_ne (p : Nat) : Reg.PORT_EVT_DROP p ≠ Reg.PLAN_PAIR_STATUS := by simp only [Reg.PORT_EVT_DROP, Reg.PLAN_PAIR_STATUS]; omega

theorem formPkt (h : HoldsPair m k Q s) (p code tag : Nat) (isEvent mandatory : Bool) (status : Nat) (params : List Byte) (port : Nat) :
    HoldsPair m k Q (s.formPkt p code tag isEvent mandatory status params port) :=
  (setF (s := State.setPort _ _ _) h.same (portQueue_ne p) ..).setF (portQueue_ne p) ..

theorem queueEvent (h : HoldsPair m k Q s) (p code tag status : Nat) (params : List Byte) : HoldsPair m k Q (s.queueEvent p code tag status params) := by
  unfold State.queueEvent
  dsimp only
  refine ite (ite (h.formPkt ..) h.same) (ite h (ite (h.formPkt ..) ?_))
  exact (inc (s := State.setPort _ _ _) h.same (portEvtDrop_ne p)).flag (by decide) 3

theorem raise (h : HoldsPair m k Q s) (code : Nat) (sc : Scope) (params : List Byte) : HoldsPair m k Q (s.raise code sc params) :=
  h.each fun _ _ _ hu => hu.queueEvent ..

theorem post (h : HoldsPair m k Q s) (code arg : Nat) : HoldsPair m k Q (s.post code arg) := by
  unfold State.post
  exact ite h.same ((inc (s := { s with recorder := { s.recorder with dropped := s.recorder.dropped + 1 } }) h.same (by decide)).flag (by decide) 0)

theorem finish (h : HoldsPair m k Q s) (opcode status detail : Nat) : HoldsPair m k Q (s.finish opcode status detail) := by
  unfold State.finish
  split
  · exact h
  · exact queueEvent (s := { s with sys := _ }) h.same ..

theorem setHealth (h : HoldsPair m k Q s) (i : Nat) (b : Bool) : HoldsPair m k Q (s.setHealth i b) := by
  unfold State.setHealth
  exact ite h ((h.setBit (by decide) i b).raise ..)

theorem syncRec (h : HoldsPair m k Q s) : HoldsPair m k Q s.syncRec := ((h.setF (by decide) ..).setF (by decide) ..).setR (by decide) _

theorem writeRec (h : HoldsPair m k Q s) (code arg timeUs : Nat) : HoldsPair m k Q (s.writeRec code arg timeUs) :=
  have hw : HoldsPair m k Q (s.when (decide (4096 ≤ s.recNext)) fun s' => s'.overtake (s.recNext - 4096)) := h.when fun h => h.same
  setR (s := State.setRec _ _) hw.same (by decide) _

theorem recWriter (h : HoldsPair m k Q s) : HoldsPair m k Q s.recWriter := by
  unfold State.recWriter
  split
  · exact writeRec (s := s.setRec _) h.same ..
  · split
    · exact h
    · next p q _ =>
      have hw : HoldsPair m k Q ((s.setRec { s.recorder with queue := q }).writeRec p.code p.arg p.timeUs) := writeRec (s := s.setRec _) h.same ..
      exact ite (writeRec (s := State.setRec _ _) hw.same ..) hw

theorem drainRec (h : HoldsPair m k Q s) (n : Nat) : HoldsPair m k Q (State.drainRec n s) := by
  induction n generalizing s with
  | zero => exact h
  | succ n ih => exact ite h (ih h.recWriter)

theorem startFlush (h : HoldsPair m k Q s) (trig st time : Nat) : HoldsPair m k Q (s.startFlush trig st time) := by
  unfold State.startFlush
  extract_lets d slot w last new f0 first blank rec copy fl r
  have hw : HoldsPair m k Q w := (h.drainRec 64).writeRec ..
  have hr : HoldsPair m k Q r := hw.same
  exact ite (syncRec (s := w.setRec _) hw.same) (syncRec (ite hr (hr.flag (by decide) 2)))

theorem flushTrigger (h : HoldsPair m k Q s) (trig : Nat) : HoldsPair m k Q (s.flushTrigger trig) := by
  unfold State.flushTrigger
  exact ite (syncRec (s := s.setRec _) h.same) (h.startFlush ..)

/-! ## The capture engine (R283) -/

theorem setCapSlot (h : HoldsPair m k Q s) (i : Nat) (x : CapSlot) : HoldsPair m k Q (s.setCapSlot i x) := setF (s := s.setCap _) h.same (by decide) ..

theorem missTrigger (h : HoldsPair m k Q s) (slot time : Nat) : HoldsPair m k Q (s.missTrigger slot time) := ((h.inc (by decide)).flag (by decide) 1).setCapSlot ..

theorem trigger (h : HoldsPair m k Q s) (src detail time : Nat) : HoldsPair m k Q (s.trigger src detail time) := by
  unfold State.trigger
  extract_lets short l u x v _ w _ x' v' _
  have hu : HoldsPair m k Q u := ite (h.flag (by decide) 0) h
  have hv : HoldsPair m k Q v := hu.setCapSlot ..
  have hw : HoldsPair m k Q w := setF (s := v.setCap _) hv.same (by decide) ..
  have hv' : HoldsPair m k Q v' := (h.setCapSlot ..).missTrigger ..
  exact ite h (ite (h.missTrigger ..) (ite (ite hw.same hw) (ite (ite hv'.same hv') (h.missTrigger ..))))

theorem showLosses (h : HoldsPair m k Q s) : HoldsPair m k Q s.showLosses := by
  unfold State.showLosses
  extract_lets l u v new
  have hv : HoldsPair m k Q v := (((h.setBit (by decide) ..).setBit (by decide) ..).setBit (by decide) ..).setBit (by decide) ..
  exact when (s := v.keepLosses l) hv.same fun hw => hw.trigger ..

/-! ## Axes, heaters and the laser -/

theorem setAxis (h : HoldsPair m k Q s) (a : Nat) (x : Axis) : HoldsPair m k Q (s.setAxis a x) := ite h.same h.same

theorem releaseAxis (h : HoldsPair m k Q s) (a : Nat) : HoldsPair m k Q (s.releaseAxis a) := ite h ((h.setAxis ..).setF (by decide) ..)

theorem moveTo (h : HoldsPair m k Q s) (a : Nat) (target : Int) (park : Bool) : HoldsPair m k Q (s.moveTo a target park) := by
  unfold State.moveTo
  dsimp only
  split
  · exact h.setAxis ..
  · exact ite (h.setAxis ..) (h.setAxis ..)

/-- No axis mode, whatever its index, is the register of the pair. -/
theorem axMode_ne (a : Nat) : Reg.AX_MODE a ≠ Reg.PLAN_PAIR_STATUS := by simp only [Reg.AX_MODE, Reg.PLAN_PAIR_STATUS]; omega

theorem parkAxis (h : HoldsPair m k Q s) (a : Nat) (thenRelease : Bool) : HoldsPair m k Q (s.parkAxis a thenRelease) := by
  unfold State.parkAxis
  dsimp only
  refine ite h (ite (ite (h.releaseAxis a) h) (ite (h.releaseAxis a) (ite (h.setAxis ..) ?_)))
  exact (((h.setAxis ..).setF (axMode_ne a) ..).moveTo ..).setF (by decide) ..

/-- No heater's register is that of the pair. -/
theorem heatSet_ne (t : Nat) : Reg.HEAT_SET t ≠ Reg.PLAN_PAIR_STATUS := by simp only [Reg.HEAT_SET, Reg.PLAN_PAIR_STATUS]; omega

theorem heatStatus_ne (t : Nat) : Reg.HEAT_STATUS t ≠ Reg.PLAN_PAIR_STATUS := by simp only [Reg.HEAT_STATUS, Reg.PLAN_PAIR_STATUS]; omega

theorem setLoop (h : HoldsPair m k Q s) (l : Nat) (x : LoopSt) : HoldsPair m k Q (s.setLoop l x) := h.same

theorem dropFormer (h : HoldsPair m k Q s) (l : Nat) : HoldsPair m k Q (s.dropFormer l) := h.same

theorem presetHeater (h : HoldsPair m k Q s) (i : Nat) : HoldsPair m k Q (s.presetHeater i) :=
  ((((h.setLoop ..).dropFormer _).setLoop ..).dropFormer _).setF (heatSet_ne i) ..

theorem heatersOn (h : HoldsPair m k Q s) : HoldsPair m k Q s.heatersOn :=
  ite h (each (s := s.setWag _) h.same fun _ i _ hu => hu.presetHeater i)

theorem heatersOff (h : HoldsPair m k Q s) : HoldsPair m k Q s.heatersOff :=
  each (s := s.setWag _) h.same fun _ i _ hu => hu.setF (heatStatus_ne i) ..

theorem settleWl (h : HoldsPair m k Q s) : HoldsPair m k Q s.settleWl := h.each fun _ _ _ hu => hu.same

theorem laserOff (h : HoldsPair m k Q s) : HoldsPair m k Q s.laserOff :=
  have ho : HoldsPair m k Q ((s.setBit Reg.EMIT_STATUS 0 false).setBit Reg.EMIT_STATUS 1 false) := (h.setBit (by decide) ..).setBit (by decide) ..
  setBit (s := State.setEmit _ _) ho.same (by decide) ..

theorem ssnHold (h : HoldsPair m k Q s) (i : Nat) (b : Bool) : HoldsPair m k Q (s.ssnHold i b) := by
  unfold State.ssnHold
  extract_lets driven u v
  have hu : HoldsPair m k Q u := h.setBit (by decide) ..
  have hv : HoldsPair m k Q v := (hu.setBit (by decide) ..).setBit (by decide) ..
  exact ite (ite hv (hv.agrees rfl rfl)) hu

/-! ## Bias zones and combs -/

theorem markPts (h : HoldsPair m k Q s) (n : Nat) (f : Pt → Pt) : HoldsPair m k Q (s.markPts n f) := by
  unfold State.markPts
  split
  · exact h
  · exact h.each fun _ _ _ hu => hu.agrees rfl rfl

/-- No statistics unit, whatever its index, has the register of the pair. -/
theorem tdcStatStatus_ne (c : Nat) : Reg.TDC_STAT_STATUS c ≠ Reg.PLAN_PAIR_STATUS := by simp only [Reg.TDC_STAT_STATUS, Reg.PLAN_PAIR_STATUS]; omega

theorem rxCombStatus_ne (c : Nat) : Reg.RX_COMB_STATUS c ≠ Reg.PLAN_PAIR_STATUS := by simp only [Reg.RX_COMB_STATUS, Reg.PLAN_PAIR_STATUS]; omega

theorem syncChan (h : HoldsPair m k Q s) (n : Nat) : HoldsPair m k Q (s.syncChan n) :=
  have hu : HoldsPair m k Q (s.setF (Reg.RX_CH n) 10 8 (s.calcChan n)) := h.setF_above _ _ (by decide) (by decide) (by decide)
  ite (hu.setF (tdcStatStatus_ne _) ..) hu

theorem modChan (h : HoldsPair m k Q s) (n : Nat) (f : Chan → Chan) : HoldsPair m k Q (s.modChan n f) := syncChan (s := s.setChan _ _) h.same n

theorem refreshBias (h : HoldsPair m k Q s) (c : Nat) : HoldsPair m k Q (s.refreshBias c) :=
  h.each fun _ n _ hu => ite ((ite hu (hu.markPts ..)).modChan ..) (ite (hu.modChan ..) (hu.syncChan n))

theorem setLossCause (h : HoldsPair m k Q s) (c bit : Nat) (on : Bool) : HoldsPair m k Q (s.setLossCause c bit on) := by
  unfold State.setLossCause
  extract_lets was u cause v _ w
  have hv : HoldsPair m k Q v := (h.setBit (rxCombStatus_ne c) ..).setBit (by decide) ..
  have hw : HoldsPair m k Q w := ite (post (s := { v with rej := _ }) hv.same ..) hv
  exact ite h (hw.each fun _ n _ hu => hu.syncChan n)

theorem refreshComb (h : HoldsPair m k Q s) (c : Nat) : HoldsPair m k Q (s.refreshComb c) :=
  ((h.setF (rxCombStatus_ne c) ..).refreshBias c).setLossCause ..

theorem setZone (h : HoldsPair m k Q s) {z : Nat} (hz : z < 8) (st applied : Nat) : HoldsPair m k Q (s.setZone z st applied) :=
  have hs : Reg.SUN_RED z ≠ Reg.PLAN_PAIR_STATUS := by simp only [Reg.SUN_RED, Reg.PLAN_PAIR_STATUS]; omega
  have hb : Reg.BIAS_STATE z ≠ Reg.PLAN_PAIR_STATUS := by simp only [Reg.BIAS_STATE, Reg.PLAN_PAIR_STATUS]; omega
  each (s := State.setF _ _ _ _ _) (((h.when fun h => h.setF hs ..).setF hb ..).setF hb ..) fun _ c _ hu => hu.refreshComb c

theorem biasDown (h : HoldsPair m k Q s) : HoldsPair m k Q s.biasDown :=
  h.each fun _ _ hz hu => ite (hu.setZone (List.mem_range.mp hz) ..) hu

/-! ## Calibration (R428) -/

/-- The registers of the combs that a variant has are not that of the pair. -/
theorem combs_le (v : Variant) : v.combs ≤ 32 := by cases v <;> decide

theorem calComb_ne (c : Nat) : Reg.CAL_COMB c ≠ Reg.PLAN_PAIR_STATUS := by simp only [Reg.CAL_COMB, Reg.PLAN_PAIR_STATUS]; omega

theorem setRange (h : HoldsPair m k Q s) (n r : Nat) : HoldsPair m k Q (s.setRange n r) := h.setF_above _ _ (by decide) (by decide) (by decide)

theorem setDark (h : HoldsPair m k Q s) {c : Nat} (hc : c < 32) (on : Bool) : HoldsPair m k Q (s.setDark c on) := by
  have hn : Reg.HIST_STATUS c ≠ Reg.PLAN_PAIR_STATUS := by simp only [Reg.HIST_STATUS, Reg.PLAN_PAIR_STATUS]; omega
  unfold State.setDark
  extract_lets x _ u
  have hu : HoldsPair m k Q u := (h.setBit hn 4 on).same
  exact ite (hu.setF (tdcStatStatus_ne c) ..) hu

theorem syncDue (h : HoldsPair m k Q s) : HoldsPair m k Q s.syncDue :=
  h.each fun _ c _ hu => (hu.setBit (calComb_ne c) ..).when fun hv => hv.setF (calComb_ne c) ..

theorem endRun (h : HoldsPair m k Q s) : HoldsPair m k Q s.endRun :=
  each (s := State.setF _ _ _ _ _) ((setBit (s := s.setCal _) h.same (by decide) ..).setF (by decide) ..) fun _ _ _ hu => hu.setRange ..

theorem abortRun (h : HoldsPair m k Q s) : HoldsPair m k Q s.abortRun := by
  unfold State.abortRun
  split
  · exact h
  · extract_lets _ u _ v
    have hu : HoldsPair m k Q u := raise (s := State.setCal _ _) h.endRun.same ..
    have hv : HoldsPair m k Q v := ite (finish (s := u.setCal _) hu.same ..) hu
    exact hv.syncDue

theorem abortFull (h : HoldsPair m k Q s) : HoldsPair m k Q s.abortFull := by
  unfold State.abortFull
  split
  · exact h
  · extract_lets _ u v w
    have hu : HoldsPair m k Q u := setBit (s := s.setCal _) h.same (by decide) ..
    have hv : HoldsPair m k Q v := hu.each fun _ c hc ht => ht.setDark (Nat.lt_of_lt_of_le (List.mem_range.mp hc) (combs_le _)) false
    have hw : HoldsPair m k Q w := hv.each fun _ _ _ ht => ht.setRange ..
    exact (hw.raise ..).finish ..

theorem putCopy (h : HoldsPair m k Q s) (slot : Nat) (r : CalRec) (b : Bool) : HoldsPair m k Q (s.putCopy slot r b) := ite h.same h.same

theorem abortSave (h : HoldsPair m k Q s) : HoldsPair m k Q s.abortSave := by
  unfold State.abortSave
  split
  · exact h
  · extract_lets fr u _ v w
    have hu : HoldsPair m k Q u := (putCopy (s := fr.2) h.same ..).putCopy ..
    have hv : HoldsPair m k Q v := setBit (s := u.setCal _) hu.same (by decide) ..
    exact (hv.setF (by decide) ..).finish ..

/-! ## Tracks that waited for their column (R47) -/

theorem setTrack (h : HoldsPair m k Q s) (i : Nat) (e : List Byte) : HoldsPair m k Q (s.setTrack i e) :=
  (setF (s := { s with plan := { s.plan with tracks := s.plan.tracks.set blank64 i e } }) (h.agrees rfl rfl) (by decide) ..).setF (by decide) ..

theorem endTrack (h : HoldsPair m k Q s) (i cause : Nat) : HoldsPair m k Q (s.endTrack i cause) :=
  have hu : HoldsPair m k Q ((s.setTrack i (putBytes (s.track i) 2 1 0)).inc Reg.TRK_ENDED) := (h.setTrack ..).inc (by decide)
  hu.same

theorem missTrack (h : HoldsPair m k Q s) (c : TrkCfg) (i : Nat) : HoldsPair m k Q (s.missTrack c i) := by
  unfold State.missTrack
  extract_lets e n st sig e' u
  have hu : HoldsPair m k Q u := h.setTrack ..
  exact ite (hu.endTrack ..) (ite (hu.endTrack ..) hu)

theorem createTrack (h : HoldsPair m k Q s) (c : TrkCfg) (x : Meas) : HoldsPair m k Q (s.createTrack c x) := by
  unfold State.createTrack
  split
  · exact (h.inc (by decide)).flag (by decide) 3
  · extract_lets gen af rf hAz hEl e u
    have hu : HoldsPair m k Q u := (h.setTrack ..).inc (by decide)
    exact hu.same

theorem updateTrack (h : HoldsPair m k Q s) (c : TrkCfg) (i : Nat) (x : Meas) (d2 : Nat) : HoldsPair m k Q (s.updateTrack c i x d2) := by
  unfold State.updateTrack
  extract_lets _ _ _ _ _ _ _ _ _ _ _ _ _ _ _ _ u v
  have hv : HoldsPair m k Q v := setTrack (s := u) h.same ..
  exact hv.same

theorem associateBy (h : HoldsPair m k Q s) (c : TrkCfg) (x : Cluster) : HoldsPair m k Q (s.associateBy c x) := by
  unfold State.associateBy
  extract_lets _ _ _ _ u _ _
  have hu : HoldsPair m k Q u := h.same
  split
  · exact ite (hu.setTrack ..).same (hu.updateTrack ..).same
  · refine ite (hu.inc (by decide)) ?_
    split
    · exact ite hu.same (hu.createTrack ..)
    · exact hu.createTrack ..

theorem applyDeferred (h : HoldsPair m k Q s) (d : Deferred) : HoldsPair m k Q (s.applyDeferred d) := by
  unfold State.applyDeferred
  dsimp only
  split
  · exact ite (h.updateTrack ..) (h.associateBy ..)
  · exact h.associateBy ..
  · exact ite (h.missTrack ..) h

theorem hostTrackWrite (h : HoldsPair m k Q s) (i : Nat) (e : List Byte) : HoldsPair m k Q (s.hostTrackWrite i e) := by
  unfold State.hostTrackWrite
  extract_lets old gen u
  have hu : HoldsPair m k Q u := h.setTrack ..
  exact ite hu.same (ite (inc (s := { u with det := _ }) hu.same (by decide)) hu.same)

theorem columnTracks (h : HoldsPair m k Q s) : HoldsPair m k Q s.columnTracks := by
  have hw : HoldsPair m k Q s.applyHostTracks := each (s := { s with plan := { s.plan with hostWrites := ⟨[]⟩ } }) (h.agrees rfl rfl) fun _ _ _ hu => hu.hostTrackWrite ..
  have hd : HoldsPair m k Q ((s.applyHostTracks.setDetLists [] []).each (s.det.recent.filter (fun d => s.hostWaits d.idx) ++ s.det.deferred) State.applyDeferred) :=
    each (s := State.setDetLists _ _ _) hw.same fun _ d _ hu => hu.applyDeferred d
  exact hd.same

/-! ## Streams and zones -/

theorem setStream (h : HoldsPair m k Q s) {i : Nat} (hi : i < 24) (x : Stream) : HoldsPair m k Q (s.setStream i x) :=
  setR (s := { s with arb := _ }) h.same (by simp only [Reg.ARB_STREAM, Reg.PLAN_PAIR_STATUS]; omega) _

theorem sendOutcome (h : HoldsPair m k Q s) (i : Nat) {code : Nat} (hc : code < 8) (reason claimant claimStream : Nat) (partialPass : Bool) (a : PassAcc) :
    HoldsPair m k Q (s.sendOutcome i code reason claimant claimStream partialPass a) := by
  unfold State.sendOutcome
  dsimp only
  split
  · exact h
  · exact (h.raise ..).inc (by simp only [Reg.ARB_OUT_SERVED, Reg.PLAN_PAIR_STATUS]; omega)

theorem takeHolder (h : HoldsPair m k Q s) (fr : Nat) {i code : Nat} (hi : i < 24) (hc : code < 8) (claimant claimStream : Nat) :
    HoldsPair m k Q (s.takeHolder fr i code claimant claimStream) := by
  unfold State.takeHolder State.outcome
  dsimp only
  split
  · exact h
  · exact (h.sendOutcome _ hc ..).setStream hi _

theorem arbLeave (h : HoldsPair m k Q s) : HoldsPair m k Q s.arbLeave :=
  h.each fun _ _ hi hu =>
    have hi := List.mem_range.mp hi
    ite (hu.each fun _ _ _ hv => hv.takeHolder _ hi (by decide) ..) (hu.each fun _ _ _ hv => hv.takeHolder _ hi (by decide) ..)

theorem countLoss (h : HoldsPair m k Q s) (ch cause records bytes back : Nat) : HoldsPair m k Q (s.countLoss ch cause records bytes back) := by
  unfold State.countLoss
  extract_lets u v
  have hv : HoldsPair m k Q v := ite (ite h h.same) h.same
  exact ((hv.add (by decide) _).add (by decide) _).flag (by decide) 0

theorem dropOldest (h : HoldsPair m k Q s) (ch need fuel : Nat) : HoldsPair m k Q (s.dropOldest ch need fuel) := by
  induction fuel generalizing s with
  | zero => exact h
  | succ n ih =>
    unfold State.dropOldest
    dsimp only
    refine ite h ?_
    split
    · exact h
    · exact ih (countLoss (s := s.setSub _ _) h.same ..)

theorem placePkt (h : HoldsPair m k Q s) (ch : Nat) (x : StreamPkt) : HoldsPair m k Q (s.placePkt ch x) := by
  unfold State.placePkt
  extract_lets u v w
  have hv : HoldsPair m k Q v := ite (h.dropOldest ..) h
  exact ite h (ite (hv.countLoss ..) hv.same)

theorem joinAlerts (h : HoldsPair m k Q s) {ch frame : Nat} {l : List (List Byte)} (ht : s.joinAlerts ch frame l = some t) : HoldsPair m k Q t := by
  unfold State.joinAlerts at ht
  dsimp only at ht
  split at ht
  · split at ht
    · obtain rfl := Option.some.inj ht
      exact h.same
    · exact nomatch ht
  · exact nomatch ht

theorem placeAlerts (h : HoldsPair m k Q s) (frame : Nat) (l : List (List Byte)) : HoldsPair m k Q (s.placeAlerts frame l) := by
  unfold State.placeAlerts
  refine ite h (h.each fun u ch _ hu => ?_)
  dsimp only
  split
  · next hj => exact hu.joinAlerts hj
  · have hp : HoldsPair m k Q (u.placePkt ch { kind := 6, frame, records := l.length, body := l.flatten }) := hu.placePkt ..
    exact hp.same

theorem enterZone (h : HoldsPair m k Q s) {i : Nat} (hi : i < 64) (st : Nat) : HoldsPair m k Q (s.enterZone i st) := by
  have hz : Reg.ZONE_STATE i ≠ Reg.PLAN_PAIR_STATUS := by simp only [Reg.ZONE_STATE, Reg.PLAN_PAIR_STATUS]; omega
  unfold State.enterZone
  extract_lets u
  have hu : HoldsPair m k Q u := (h.setF hz ..).setF hz ..
  exact ite h (ite ((hu.flag (by decide) 0).trigger ..) (ite ((hu.flag (by decide) 1).trigger ..) hu))

theorem blindZones (h : HoldsPair m k Q s) : HoldsPair m k Q s.blindZones := by
  unfold State.blindZones
  extract_lets _ u on r
  have hr : HoldsPair m k Q r.2 := foldl_snd (x := ([], u)) h.same fun y i hi hy => by
    have hi : i < 64 := List.mem_range.mp (List.mem_filter.mp hi).1
    dsimp only
    split
    · exact (hy.enterZone hi 1).same
    · exact (hy.enterZone hi 1).same
  exact hr.placeAlerts ..

/-! ## Transitions (R27, R28) -/

theorem cancelCmds (h : HoldsPair m k Q s) (c0 c : Nat) : HoldsPair m k Q (s.cancelCmds c0 c) :=
  each (s := { s with sys := { s.sys with cmds := [] } }) h.same fun _ _ _ hu => hu.queueEvent ..

theorem endSpan (h : HoldsPair m k Q s) : HoldsPair m k Q s.endSpan := by
  unfold State.endSpan
  extract_lets _ u _ v w
  have hw : HoldsPair m k Q w := h.same
  exact hw.setF (by decide) ..

theorem rechooseSar (h : HoldsPair m k Q s) : HoldsPair m k Q s.rechooseSar := by
  unfold State.rechooseSar
  split
  · exact h
  · exact h.same

/-- Fewer shots wait. -/
theorem dropShots (h : HoldsPair m k Q s) (p : Plan) (hp : p.queue ⊆ s.plan.queue) : HoldsPair m k Q { s with plan := p } where
  planner := h.planner
  takeover := h.takeover
  queue := List.Subset.trans hp h.queue

/-- R140: the end of the scan ends no takeover that has posted no column, and queues no shot. -/
theorem endScan (h : HoldsPair m k Q s) (hk : ∀ x, k = some x → x.resume = none) : HoldsPair m k Q s.endScan := by
  unfold State.endScan
  extract_lets c u gone v _ w _ e x
  have hc : HoldsPair m k Q c := columnTracks (s := s.stopScan) h.same
  have hu : u = c := by
    show (match c.red.takeover with | some x => if x.resume.isSome then c.endTakeover else c | none => c) = c
    rw [hc.takeover]
    split
    · next x => rw [hk x rfl]; rfl
    · rfl
  have hv : HoldsPair m k Q v := each (hu ▸ hc) fun _ _ _ ht => ht.setCol ..
  have hw : HoldsPair m k Q w := hv.dropShots _ List.filter_sublist.subset
  have hx : HoldsPair m k Q x := rechooseSar (s := e) hw.same
  exact ite (hx.agrees rfl rfl) hx

/-- What the device does as it leaves a state, which is not BOOT. -/
theorem leave (h : HoldsPair m k Q s) (hk : ∀ x, k = some x → x.resume = none) (dst : DevState) (cause : Nat) (hb : s.dev ≠ .boot) : HoldsPair m k Q (s.leave dst cause) := by
  unfold State.leave
  extract_lets t1 t2 t3 t4 t5 t6
  have h1 : HoldsPair m k Q t1 := by
    have : (s.dev == .boot && dst == .faultHalt) = false := by simp [hb]
    show HoldsPair m k Q (s.when _ _)
    rw [this]
    exact h
  have h2 : HoldsPair m k Q t2 := h1.when fun h => h.when fun h => h.flag (by decide) 3
  have h3 : HoldsPair m k Q t3 := h2.when fun h => (h.ssnHold 2 true).arbLeave.blindZones
  have h4 : HoldsPair m k Q t4 := h3.when fun h => h.abortFull
  have h5 : HoldsPair m k Q t5 := h4.when fun h => h.each fun _ a _ hu => hu.setF (axMode_ne a) ..
  have h6 : HoldsPair m k Q t6 := h5.when fun h => h.endScan hk
  exact h6.when fun h => (h.setBit (by decide) ..).ssnHold ..

theorem enterThermalStop (h : HoldsPair m k Q s) : HoldsPair m k Q s.enterThermalStop := by
  unfold State.enterThermalStop
  extract_lets t1 t2 t3 b _ t4
  have h1 : HoldsPair m k Q t1 := h.abortRun.abortFull.abortSave.endSpan
  have h2 : HoldsPair m k Q t2 := ((h1.inc (by decide)).flag (by decide) 2).post ..
  have h3 : HoldsPair m k Q t3 := (h2.each fun _ a _ hu => hu.parkAxis a true).biasDown
  have h4 : HoldsPair m k Q t4 := h3.same
  exact ite (h4.flag (by decide) 4) (h4.flushTrigger 4)

/-- A transition to THERMAL_STOP or to DEGRADED, from any state but BOOT. -/
theorem enter (h : HoldsPair m k Q s) (hk : ∀ x, k = some x → x.resume = none) {dst : DevState} (hd : dst = .thermalStop ∨ dst = .degraded) (cause : Nat) (byCmd : Bool) (hb : s.dev ≠ .boot) :
    HoldsPair m k Q (s.enter dst cause byCmd) := by
  unfold State.enter
  extract_lets from_ t1 _ t2 t3 t4 t5 t6 t7 t8 t9 t10
  have h1 : HoldsPair m k Q t1 := h.leave hk _ _ hb
  have h2 : HoldsPair m k Q t2 := h1.same
  have h5 : HoldsPair m k Q t5 := ((((((h2.setF (by decide) ..).setF (by decide) ..).setF (by decide) ..).setR (by decide) _).setR (by decide) _).inc (by decide)).post ..
  have h8 : HoldsPair m k Q t8 := ((h5.raise ..).when fun h => h.cancelCmds ..).when fun h => h.laserOff
  have h9 : HoldsPair m k Q t9 := by
    rcases hd with rfl | rfl
    · exact h8.enterThermalStop
    · exact h8
  have h10 : HoldsPair m k Q t10 := ite h9.heatersOn h9.heatersOff
  exact h10.settleWl

theorem rejudge (h : HoldsPair m k Q s) (hk : ∀ x, k = some x → x.resume = none) : HoldsPair m k Q s.rejudge := by
  unfold State.rejudge
  extract_lets hot
  split
  · next hc => exact h.enter hk (.inl rfl) _ _ fun hb => by rw [hb] at hc; exact absurd hc.2.1 (by decide)
  · split
    · next hc => exact h.enter hk (.inr rfl) _ _ fun hb => by rw [hb] at hc; exact nomatch hc.1
    · exact h

theorem settle (h : HoldsPair m k Q s) (hk : ∀ x, k = some x → x.resume = none) : HoldsPair m k Q s.settle := h.showLosses.rejudge hk

/-! ## The gap (R393, R394) -/

theorem gapPlanned (h : HoldsPair m k Q s) (key : Nat) (c : ColPlan) : HoldsPair m k Q (s.gapPlanned key c) :=
  ite h (ite (ite (h.setCol ..) h) (h.setCol ..))

/-- The gap discards every shot that waits. -/
theorem beginGap (h : HoldsPair m k Q s) : HoldsPair m k [] s.beginGap := by
  unfold State.beginGap
  extract_lets _ u
  have hu : HoldsPair m k [] u := ⟨h.planner, h.takeover, List.Subset.refl _⟩
  exact hu.each fun _ _ _ hv => hv.gapPlanned ..

/-! ## The planners change their states (R388, R392) -/

/-- The states of the two planners stand apart in their register. -/
theorem setF_planner (h : HoldsPair m k Q s) {x : Nat} (hx : x < 2) (st : Nat) :
    HoldsPair (Function.update m x (st % 8)) k Q (s.setF Reg.PLAN_PAIR_STATUS (3 * x + 3) (3 * x + 1) st) where
  planner y hy := by
    by_cases he : y = x
    · subst he
      rw [Function.update_self]
      exact (State.f_setF_self _ _ (by omega) (by omega) _).trans (by rw [show 3 * y + 3 + 1 - (3 * y + 1) = 3 by omega, show 2 ^ 3 = 8 from rfl])
    · rw [Function.update_of_ne he]
      exact (State.f_setF_off _ _ (by omega) (by omega) (by omega) _).trans (h.planner y hy)
  takeover := h.takeover
  queue := h.queue

theorem setPlanner (h : HoldsPair m k Q s) {x : Nat} (hx : x < 2) (st : Nat) : HoldsPair (Function.update m x (st % 8)) k Q (s.setPlanner x st) := by
  unfold State.setPlanner
  extract_lets t1 t2 t3 t4 t5
  have h1 : HoldsPair (Function.update m x (st % 8)) k Q t1 := h.setF_planner hx st
  have h3 : HoldsPair (Function.update m x (st % 8)) k Q t3 := ((h1.setHealth ..).setHealth ..).when fun h => h.flag (by decide) 1
  have h5 : HoldsPair (Function.update m x (st % 8)) k Q t5 := (h3.when fun h => h.setRed (by exact h.takeover)).when fun h => h.setRed (by exact h.takeover)
  exact h5.when fun h => h.post ..

end HoldsPair

/-- R392 to R394: the active planner fails while the other stands by: it is `FAILED`, the other is `RESTORING`, its takeover is under way, and no shot waits to be fired. -/
theorem State.failPlanner_standby (s : State) (cause : Nat) (ha : s.plannerSt s.activePlanner = 4) (hb : s.plannerSt (1 - s.activePlanner) = 2) :
    ∃ k, HoldsPair (Function.update (Function.update s.plannerSt s.activePlanner 5) (1 - s.activePlanner) 3) (some k) [] (s.failPlanner cause) := by
  have h2 : s.activePlanner < 2 := Nat.mod_lt _ (by decide)
  unfold State.failPlanner
  extract_lets a b claim t1 _ t3 t4 t5
  rw [if_neg (fun hc => hc.2 ha), if_neg (fun hc => hc ha), if_neg (fun hc => hc hb)]
  have h0 : HoldsPair s.plannerSt s.red.takeover s.plan.queue (s.setClaim a 0) := s.holdsPair.setF (by decide) ..
  have h1 : HoldsPair (Function.update (Function.update s.plannerSt a 5) b 3) s.red.takeover s.plan.queue t1 := (h0.setPlanner h2 5).setPlanner (by omega) 3
  have h3 : HoldsPair (Function.update (Function.update s.plannerSt a 5) b 3) (some { failed := a, cause, at_ := t1.now, time := t1.time.dev, claim }) s.plan.queue t3 :=
    h1.setRed rfl
  have h4 := ((h3.flag (a := Reg.RED_FLAGS) (by decide) 0).inc (a := Reg.FAILOVER_COUNT) (by decide)).setF (a := Reg.FAILOVER_LAST) (by decide) 23 16 cause
  have h5 := (h4.post Rec.FAILOVER (a + 2 * cause + 256 * (claim % 256))).flushTrigger 5
  exact ⟨_, h5.beginGap.settle fun x hx => by obtain rfl := Option.some.inj hx; rfl⟩

end Sys2Proof.Machine
end

section
/-!
PROOFS. Proofs/HostWrites.lean: the rows of single register writes are `PARAM_WRITE` commands of one register (R345): what the packet says, what an admitted one comes to, when no rule
refuses a write, and what a write to a RW register stores.
-/

namespace Sys2Proof.Machine

open Sys2Proof

/-! ## The bytes of a packet (R9) -/

/-- A number that fits its bytes reads back from them. -/
theorem leNat_leBytes {n v : Nat} (h : v < 256 ^ n) : leNat (leBytes n v) = v := by
  induction n generalizing v with
  | zero => simp [leBytes, leNat] at h ⊢; omega
  | succ n ih =>
    have hv : v / 256 < 256 ^ n := by rw [Nat.div_lt_iff_lt_mul (by decide), ← Nat.pow_succ]; exact h
    simp only [leBytes, leNat, ih hv, BitVec.toNat_ofNat]
    omega

/-- The field that begins a byte string. -/
theorem fieldAt_leBytes_append {n v : Nat} (r : List Byte) (h : v < 256 ^ n) : fieldAt (leBytes n v ++ r) 0 n = v := by
  simp [fieldAt, bytesAt, leNat_leBytes h]

/-- A field behind the first bytes. -/
theorem fieldAt_append (l r : List Byte) {k o n : Nat} (h : l.length + o = k) : fieldAt (l ++ r) k n = fieldAt r o n := by
  subst h
  simp [fieldAt, bytesAt, List.drop_append, List.drop_eq_nil_of_le (Nat.le_add_right l.length o)]

section

variable (w : HostWrite) {a : Nat} (v : Word)

/-- The packet names its register. -/
theorem HostWrite.cmd_address (ha : a < 2 ^ 32) : fieldAt (HostWrite.cmd w a v).params 0 4 = a := by
  simp only [HostWrite.cmd, List.append_assoc]
  exact fieldAt_leBytes_append _ ha

/-- The packet names one register. -/
theorem HostWrite.cmd_count : fieldAt (HostWrite.cmd w a v).params 4 2 = 1 := by
  simp only [HostWrite.cmd, List.append_assoc]
  rw [fieldAt_append (o := 0) _ _ (by simp)]
  exact fieldAt_leBytes_append _ (by decide)

/-- The packet carries the value. -/
theorem HostWrite.cmd_value : BitVec.ofNat 32 (fieldAt (HostWrite.cmd w a v).params 8 4) = v := by
  simp only [HostWrite.cmd]
  rw [fieldAt_append (o := 0) _ _ (by simp), ← List.append_nil (leBytes 4 v.toNat), fieldAt_leBytes_append _ v.isLt, BitVec.ofNat_toNat, BitVec.setWidth_eq]

end

/-! ## From admission to the write -/

/-- A row that writes one register, once it is admitted and no rule refuses the write, stores it and is answered `OK`. -/
theorem State.Admits.hostWrite_runs {s t : State} {w : HostWrite} {a p : Nat} {v : Word} {x : QCmd} (h : s.Admits 0x0201 (HostWrite.cmd w a v) p x t)
    (ha : a % 4 = 0) (h32 : a < 2 ^ 32) (hf : t.writeFault false a v = none) :
    exec (.paramWrite (HostWrite.cmd w a v)) s = .next (State.concludes p x ⟨t.writeReg a v w.port w.tag.toNat, 0, leBytes 2 1, none⟩) := by
  rw [h.exec_paramWrite (HostWrite.cmd_count w v) rfl]
  have haddr := HostWrite.cmd_address w v h32
  have hval := HostWrite.cmd_value w (a := a) v
  have hcmd := h.cmd
  rw [← hcmd] at haddr hval
  rw [t.paramWrite_one p (by rw [haddr, ha]) (by rw [hcmd]; exact HostWrite.cmd_count w v), haddr, hval, State.writeAll_stored _ _ _ _ hf, State.writeAll_done, hcmd]
  rfl

/-- A row that writes one register ends in whatever the write leaves. -/
theorem State.Admits.write_ends {s t : State} {w : HostWrite} {a p : Nat} {v : Word} {x : QCmd} {i : Instr} {leaves : State → Prop}
    (h : s.Admits 0x0201 (HostWrite.cmd w a v) p x t) (hi : exec i s = exec (.paramWrite (HostWrite.cmd w a v)) s) (ha : a % 4 = 0) (h32 : a < 2 ^ 32)
    (hf : t.writeFault false a v = none) (hl : leaves (t.writeReg a v w.port w.tag.toNat)) :
    ∃ u, exec i s = .next (State.concludes p x ⟨u, 0, leBytes 2 1, none⟩) ∧ leaves u :=
  ⟨_, hi.trans (h.hostWrite_runs ha h32 hf), hl⟩

/-- The same, where the write leaves a state that has a name of its own. -/
theorem State.Admits.write_ends_in {s t u : State} {w : HostWrite} {a p : Nat} {v : Word} {x : QCmd} {i : Instr} {leaves : State → Prop}
    (h : s.Admits 0x0201 (HostWrite.cmd w a v) p x t) (hi : exec i s = exec (.paramWrite (HostWrite.cmd w a v)) s) (ha : a % 4 = 0) (h32 : a < 2 ^ 32)
    (hf : t.writeFault false a v = none) (hw : t.writeReg a v w.port w.tag.toNat = u) (hl : leaves u) :
    ∃ u, exec i s = .next (State.concludes p x ⟨u, 0, leBytes 2 1, none⟩) ∧ leaves u := h.write_ends hi ha h32 hf (hw ▸ hl)

/-! Taking a packet leaves the lane pairs and the planners alone, so the port of an admitted packet is also its port in the state in which it is carried out. -/

theorem State.syncPort_red (s : State) (p : Nat) : (s.syncPort p).red = s.red := by
  simp only [State.syncPort, State.setF_red]

theorem State.popCmd_red (s : State) (p : Nat) : (s.popCmd p).red = s.red := by
  unfold State.popCmd
  dsimp only
  split <;> simp only [State.syncPort_red, State.setPort_red]

theorem State.sendReply_red (s : State) (p op tag st : Nat) (ps : List Byte) (port : Nat) (h : st ≠ Sts.INTERNAL_ERROR) : (s.sendReply p op tag st ps port).red = s.red := by
  obtain ⟨r, q, f, e⟩ := s.sendReply_frame p op tag st ps port h
  rw [e]

theorem State.arrive_red (s : State) (p : Nat) (x : QCmd) : (s.arrive p x).red = s.red := by
  unfold State.arrive
  dsimp only
  split
  · exact s.sendReply_red p _ _ _ _ _ (by decide)
  · simp only [State.syncPort_red, State.setPort_red]

theorem State.queued_red (s : State) (op p : Nat) (c : Cmd) : (s.queued op p c).red = s.red := by
  unfold State.queued
  split
  · rfl
  · exact s.arrive_red p _

theorem State.Takes.red {s t : State} {op p : Nat} {c : Cmd} {x : QCmd} (h : s.Takes op c p x t) : t.red = s.red := by
  rw [h.state, State.inc_red, State.popCmd_red, State.queued_red]

/-- The port of an admitted packet, in the state in which it is carried out. -/
theorem State.Takes.portOf {s t : State} {op p : Nat} {c : Cmd} {x : QCmd} (h : s.Takes op c p x t) : t.portOf c.port = p := by
  rw [h.port]
  unfold State.portOf State.pairFormed
  rw [h.red]

/-- R345: a write is admitted in STANDBY to THERMAL_STOP. -/
theorem State.Admits.anyState {s t : State} {c : Cmd} {p : Nat} {x : QCmd} (h : s.Admits 0x0201 c p x t) : t.dev.anyState = true := by
  have ha := h.allows
  revert ha
  unfold State.cmdAllows
  cases t.dev <;> simp [cmdHalt, cmdStates, cmdJudged, DevState.code, DevState.anyState]

/-! ## Registers of the map (R468) -/

/-- The row of the map that begins at an address. -/
def rowAt (b : Nat) : RegRow := match regAt b with
  | some h => h.row
  | none => { base := b, acc := .ro }

/-- What refuses a write to a RW register that is there: the rules of its page. -/
theorem State.writeFault_rw {s : State} {a : Nat} {h : RegHit} (v : Word) (hr : regAt a = some h) (hp : h.present s.variant = true) (hw : h.row.acc = .rw) :
    s.writeFault false a v = s.pageFault (a / 0x10000) h v := by
  simp [State.writeFault, hr, hp, hw]

/-- R12, R15: `v` stored in the bits of a RW register that a write reaches; `l` are the values that stay in force until their changes take effect. -/
def State.put (s : State) (l : Tbl (Option Word)) (a : Nat) (m v : Word) : State := ({ s with held := l }).wr a ((s.rd a &&& ~~~m) ||| (v &&& m))

/-- A change that waits leaves the rest of the state as it is. -/
theorem State.hold_eq (s : State) (a : Nat) : ∃ l, s.hold a = { s with held := l } := by
  unfold State.hold
  split
  · exact ⟨s.held, rfl⟩
  · exact ⟨_, rfl⟩

/-- A write to a RW register stores its value, and brings about what follows it. -/
theorem State.writeReg_rw (s : State) {a : Nat} {h : RegHit} (v : Word) (p tag : Nat) (hr : regAt a = some h) (hw : h.row.acc = .rw) :
    ∃ l, s.writeReg a v p tag = (s.put l a (writeMask s.variant h) (stored h.row.base v)).written h (s.rd a) v p tag := by
  obtain ⟨l, hl⟩ := s.hold_eq a
  unfold State.writeReg
  simp only [hr, hw]
  split
  · rw [hl]; exact ⟨l, rfl⟩
  · exact ⟨s.held, rfl⟩

section

variable (s : State) (l : Tbl (Option Word)) (a : Nat) (m v : Word)

/-- A field that the write reaches reads back. -/
theorem State.f_put_self {hi lo : Nat} (h : ∀ i, lo ≤ i → i ≤ hi → m.getLsbD i = true) : (s.put l a m v).f a hi lo = bitsOf v hi lo := by
  unfold State.f State.put
  rw [State.rd_wr_self]
  exact bitsOf_congr fun i h1 h2 => by simp [h i h1 h2]

/-- Every other register stands. -/
theorem State.rd_put_ne {b : Nat} (h : b ≠ a) : (s.put l a m v).rd b = s.rd b := State.rd_wr_ne { s with held := l } h _

theorem State.f_put_ne {b : Nat} (h : b ≠ a) (hi lo : Nat) : (s.put l a m v).f b hi lo = s.f b hi lo := by
  unfold State.f
  rw [State.rd_put_ne _ _ _ _ _ h]

theorem State.bit_put_ne {b : Nat} (h : b ≠ a) (i : Nat) : (s.put l a m v).bit b i = s.bit b i := by
  unfold State.bit
  rw [State.rd_put_ne _ _ _ _ _ h]

end

/-- A bit of a word, by a field that holds it. -/
theorem getLsbD_eq_testBit_bitsOf (v : Word) {hi lo i : Nat} (h : lo + i ≤ hi) : v.getLsbD (lo + i) = (bitsOf v hi lo).testBit i := by
  unfold bitsOf
  rw [Nat.testBit_mod_two_pow, Nat.testBit_shiftRight]
  simp only [BitVec.getLsbD, show i < hi + 1 - lo by omega, decide_true, Bool.true_and]

end Sys2Proof.Machine
end

section
/-!
PROOFS. Proofs/HostWriteEffects.lean: what the writes of single registers do (O25): the tables whose commits they ask for, the contexts, units and converters that they
clear or start, and the fields that they store.
-/

namespace Sys2Proof.Machine

open Sys2Proof

/-- A register reads the same whatever the arbiter notes. -/
theorem State.rd_withArb (s : State) (x : Arb) (a : Nat) : ({ s with arb := x } : State).rd a = s.rd a := rfl

theorem State.bit_withArb (s : State) (x : Arb) (a i : Nat) : ({ s with arb := x } : State).bit a i = s.bit a i := rfl

/-- A register reads the same whatever the finder of foreign emitters notes. -/
theorem State.rd_withRej (s : State) (x : Rej) (a : Nat) : ({ s with rej := x } : State).rd a = s.rd a := rfl

/-- A fold of updates that leave a register alone leaves it alone. -/
theorem State.rd_each {α : Type} (s : State) (l : List α) (g : State → α → State) (a : Nat) (h : ∀ t x, (g t x).rd a = t.rd a) : (s.each l g).rd a = s.rd a := by
  unfold State.each
  induction l generalizing s with
  | nil => rfl
  | cons x l ih => rw [List.foldl_cons, ih, h]

/-! ## The slot table (R75, R76) and the polyphase bank (R263) -/

/-- A bank that is copied to another: the copy reads as the bank, and every other register stands. -/
theorem State.each_copy (s : State) (src dst : Nat → Nat) (n : Nat) (hd : ∀ i k, i < n → k < n → dst i = dst k → i = k) (hs : ∀ i k, i < n → k < n → src i ≠ dst k) :
    (∀ k, k < n → (s.each (List.range n) fun s k => s.wr (dst k) (s.rd (src k))).rd (dst k) = s.rd (src k)) ∧
    (∀ a, (∀ k, k < n → a ≠ dst k) → (s.each (List.range n) fun s k => s.wr (dst k) (s.rd (src k))).rd a = s.rd a) := by
  induction n with
  | zero => exact ⟨fun k h => absurd h k.not_lt_zero, fun _ _ => rfl⟩
  | succ n ih =>
    obtain ⟨hcopy, hrest⟩ := ih (fun i k hi hk => hd i k (by omega) (by omega)) (fun i k hi hk => hs i k (by omega) (by omega))
    unfold State.each at hcopy hrest ⊢
    rw [List.range_succ, List.foldl_append]
    simp only [List.foldl_cons, List.foldl_nil]
    constructor
    · intro k hk
      by_cases e : k = n
      · subst e
        rw [State.rd_wr_self, hrest _ fun i hi => hs k i hk (by omega)]
      · rw [State.rd_wr_ne _ (fun h => e (hd k n hk (by omega) h)), hcopy k (by omega)]
    · intro a ha
      rw [State.rd_wr_ne _ (ha n (by omega)), hrest a fun k hk => ha k (by omega)]

/-- The entry in force is none of the registers of the slot table's status. -/
theorem arbSlotAct_ne_status (k : Nat) : Reg.ARB_SLOT_ACT k ≠ Reg.ARB_SLOT_STATUS := by
  simp only [Reg.ARB_SLOT_ACT, Reg.ARB_SLOT_STATUS]; omega

/-- A swap of the slot table: the copy, the register of its status, what the arbiter notes and the event. -/
theorem State.swapSlots_eq (s : State) : ∃ v x ps, s.swapSlots =
    ({ ((s.each (List.range 256) fun s k => s.wr (Reg.ARB_SLOT_ACT k) (s.rd (Reg.ARB_SLOT k))).setF Reg.ARB_SLOT_STATUS 0 0 v).setBit Reg.ARB_SLOT_STATUS 1 false with
      arb := x } : State).raise Ev.SLOT_SWAPPED .all ps := ⟨_, _, _, rfl⟩

/-- A swap of the slot table: nothing is pending, and the entries in force are those of the shadow table. -/
theorem State.swapSlots_swapped (s : State) : s.swapSlots.bit Reg.ARB_SLOT_STATUS 1 = false ∧
    ∀ k, k < 256 → s.swapSlots.rd (Reg.ARB_SLOT_ACT k) = s.rd (Reg.ARB_SLOT k) := by
  have hcopy := (s.each_copy Reg.ARB_SLOT Reg.ARB_SLOT_ACT 256 (fun i k _ _ h => by simp only [Reg.ARB_SLOT_ACT] at h; omega)
    (fun i k hi hk => by simp only [Reg.ARB_SLOT, Reg.ARB_SLOT_ACT]; omega)).1
  obtain ⟨v, x, ps, e⟩ := s.swapSlots_eq
  rw [e]
  generalize (s.each (List.range 256) fun s k => s.wr (Reg.ARB_SLOT_ACT k) (s.rd (Reg.ARB_SLOT k))) = t at hcopy ⊢
  constructor
  · rw [(State.raise_events _ _ _).bit (Or.inl (by decide)), State.bit_withArb]
    exact State.bit_setBit_self _ Reg.ARB_SLOT_STATUS (by decide) false
  · intro k hk
    have hne := arbSlotAct_ne_status k
    rw [(State.raise_events _ _ _).rd _ (noPortReg (Or.inl (by simp only [Reg.ARB_SLOT_ACT]; omega))), State.rd_withArb, State.rd_setBit_ne _ hne,
      State.rd_setF_ne _ hne, hcopy k hk]

/-- A commit of the slot table outside STANDBY is pending. -/
theorem State.slotCommit_waits {s : State} (h : s.dev ≠ .standby) : ∃ x, s.slotCommit = { s.setBit Reg.ARB_SLOT_STATUS 1 true with arb := x } := by
  have hd : (s.setBit Reg.ARB_SLOT_STATUS 1 true).dev ≠ .standby := h
  exact ⟨_, if_neg hd⟩

/-- A commit of the slot table in STANDBY is a swap. -/
theorem State.slotCommit_swaps {s : State} (h : s.dev = .standby) : s.slotCommit = (s.setBit Reg.ARB_SLOT_STATUS 1 true).swapSlots := by
  have hd : (s.setBit Reg.ARB_SLOT_STATUS 1 true).dev = .standby := h
  exact if_pos hd

/-- A commit of the slot table leaves it pending outside STANDBY, and in force in STANDBY. -/
theorem State.slotCommit_effect (s : State) :
    (s.dev ≠ .standby → s.slotCommit.bit Reg.ARB_SLOT_STATUS 1 = true ∧ ∀ k, k < 256 → s.slotCommit.rd (Reg.ARB_SLOT_ACT k) = s.rd (Reg.ARB_SLOT_ACT k)) ∧
    (s.dev = .standby → s.slotCommit.bit Reg.ARB_SLOT_STATUS 1 = false ∧ ∀ k, k < 256 → s.slotCommit.rd (Reg.ARB_SLOT_ACT k) = s.rd (Reg.ARB_SLOT k)) := by
  constructor
  · intro h
    obtain ⟨x, e⟩ := State.slotCommit_waits h
    rw [e]
    exact ⟨s.bit_setBit_self Reg.ARB_SLOT_STATUS (by decide) true, fun k _ => s.rd_setBit_ne (arbSlotAct_ne_status k) 1 true⟩
  · intro h
    rw [State.slotCommit_swaps h]
    obtain ⟨hbit, hact⟩ := (s.setBit Reg.ARB_SLOT_STATUS 1 true).swapSlots_swapped
    refine ⟨hbit, fun k hk => (hact k hk).trans (s.rd_setBit_ne ?_ 1 true)⟩
    simp only [Reg.ARB_SLOT, Reg.ARB_SLOT_STATUS]; omega

/-- An entry of the slot table that comes into force leaves the shadow table alone. -/
theorem State.rd_applyNext (s : State) (e : Nat × Nat × Nat) {k : Nat} (hk : k < 256) : (s.applyNext e).rd (Reg.ARB_SLOT k) = s.rd (Reg.ARB_SLOT k) := by
  unfold State.applyNext
  split
  · exact State.rd_wr_ne s (by simp only [Reg.ARB_SLOT, Reg.ARB_SLOT_ACT]; omega) _
  · rfl

/-- R76: the entry that was written reads back from the shadow table. -/
theorem State.r_slotNextWrite (s : State) {k v : Nat} (hk : k < 256) (hv : v < 2 ^ 32) : (s.slotNextWrite k v).r (Reg.ARB_SLOT k) = v := by
  unfold State.slotNextWrite State.applySlotNext State.r
  rw [State.rd_each _ _ _ _ fun t e => t.rd_applyNext e hk]
  exact (State.r_setR s _ v).trans (Nat.mod_eq_of_lt hv)

/-- The bank in force is none of the registers of the chain's status. -/
theorem fcPolyAct_ne_status (r : Nat) : Reg.FC_POLY_ACT r ≠ Reg.FC_STATUS := by
  simp only [Reg.FC_POLY_ACT, Reg.FC_STATUS]; omega

/-- A swap of the polyphase bank: the copy, the register of its status and the event. -/
theorem State.swapPoly_eq (s : State) : ∃ v ps, s.swapPoly =
    (((s.each (List.range 1024) fun s r => s.wr (Reg.FC_POLY_ACT r) (s.rd (Reg.FC_POLY r))).setBit Reg.FC_STATUS 1 false).setBit Reg.FC_STATUS 0 v).raise
      Ev.POLY_SWAPPED .all ps := ⟨_, _, rfl⟩

/-- A swap of the polyphase bank: nothing is pending, and the coefficients in force are those of the shadow bank. -/
theorem State.swapPoly_swapped (s : State) : s.swapPoly.bit Reg.FC_STATUS 1 = false ∧
    ∀ r, r < 1024 → s.swapPoly.rd (Reg.FC_POLY_ACT r) = s.rd (Reg.FC_POLY r) := by
  have hcopy := (s.each_copy Reg.FC_POLY Reg.FC_POLY_ACT 1024 (fun i k _ _ h => by simp only [Reg.FC_POLY_ACT] at h; omega)
    (fun i k hi hk => by simp only [Reg.FC_POLY, Reg.FC_POLY_ACT]; omega)).1
  obtain ⟨v, ps, e⟩ := s.swapPoly_eq
  rw [e]
  generalize (s.each (List.range 1024) fun s r => s.wr (Reg.FC_POLY_ACT r) (s.rd (Reg.FC_POLY r))) = t at hcopy ⊢
  constructor
  · rw [(State.raise_events _ _ _).bit (Or.inl (by decide)), State.setBit, State.bit_setF_off _ _ (by decide) (by decide) (by decide)]
    exact t.bit_setBit_self Reg.FC_STATUS (by decide) false
  · intro r hr
    have hne := fcPolyAct_ne_status r
    rw [(State.raise_events _ _ _).rd _ (noPortReg (Or.inl (by simp only [Reg.FC_POLY_ACT]; omega))), State.rd_setBit_ne _ hne, State.rd_setBit_ne _ hne, hcopy r hr]

/-- A commit of the polyphase bank leaves it pending outside STANDBY, and in force in STANDBY. -/
theorem State.commitPoly_effect (s : State) :
    (s.dev ≠ .standby → s.commitPoly.bit Reg.FC_STATUS 1 = true ∧ ∀ r, r < 1024 → s.commitPoly.rd (Reg.FC_POLY_ACT r) = s.rd (Reg.FC_POLY_ACT r)) ∧
    (s.dev = .standby → s.commitPoly.bit Reg.FC_STATUS 1 = false ∧ ∀ r, r < 1024 → s.commitPoly.rd (Reg.FC_POLY_ACT r) = s.rd (Reg.FC_POLY r)) := by
  constructor
  · intro h
    have hd : (s.setBit Reg.FC_STATUS 1 true).dev ≠ .standby := h
    rw [show s.commitPoly = s.setBit Reg.FC_STATUS 1 true from if_neg hd]
    exact ⟨s.bit_setBit_self Reg.FC_STATUS (by decide) true, fun r _ => s.rd_setBit_ne (fcPolyAct_ne_status r) 1 true⟩
  · intro h
    have hd : (s.setBit Reg.FC_STATUS 1 true).dev = .standby := h
    rw [show s.commitPoly = (s.setBit Reg.FC_STATUS 1 true).swapPoly from if_pos hd]
    obtain ⟨hbit, hact⟩ := (s.setBit Reg.FC_STATUS 1 true).swapPoly_swapped
    refine ⟨hbit, fun r hr => (hact r hr).trans (s.rd_setBit_ne ?_ 1 true)⟩
    simp only [Reg.FC_POLY, Reg.FC_STATUS]; omega

/-! ## Patterns (R101) and the receiver's self-test (R165) -/

theorem State.commitPat_effect (s : State) : s.commitPat.bit Reg.EMIT_STATUS 4 = true ∧ s.commitPat.emit.patAt = some s.now :=
  ⟨State.bit_setBit_self s _ (by decide) true, rfl⟩

theorem State.startSelftest_effect (s : State) : s.startSelftest.bit Reg.RX_STATUS 2 = true ∧ s.startSelftest.rx.testAt = some s.now :=
  ⟨State.bit_setBit_self s _ (by decide) true, rfl⟩

/-! ## Foreign-emitter contexts (R219) -/

/-- Freeing a context: the event of a confirmed one, its four registers, and what the finder notes. -/
theorem State.feFree_eq (s : State) (i : Nat) : ∃ t x, s.Events t ∧ s.feFree i =
    { (((t.setR (Reg.FE_CTX_STATE i) 0).setR (Reg.FE_CTX_PERIOD i) 0).setR (Reg.FE_CTX_LAST i) 0).setR (Reg.FE_CTX_COMBS i) 0 with rej := x } := by
  refine ⟨if s.feSt i = 2 then s.raise Ev.FOREIGN_RELEASED .all (s.fePayload i) else s, _, ?_, rfl⟩
  split
  · exact s.raise_events _ _
  · exact State.Events.refl s

/-- Freeing a context leaves no state of that context, and the states of the others. -/
theorem State.feSt_feFree (s : State) {i j : Nat} (hj : j < 64) : (s.feFree i).feSt j = if j = i then 0 else s.feSt j := by
  have hp : Reg.FE_CTX_STATE j ≠ Reg.FE_CTX_PERIOD i := by simp only [Reg.FE_CTX_STATE, Reg.FE_CTX_PERIOD]; omega
  have hl : Reg.FE_CTX_STATE j ≠ Reg.FE_CTX_LAST i := by simp only [Reg.FE_CTX_STATE, Reg.FE_CTX_LAST]; omega
  have hc : Reg.FE_CTX_STATE j ≠ Reg.FE_CTX_COMBS i := by simp only [Reg.FE_CTX_STATE, Reg.FE_CTX_COMBS]; omega
  obtain ⟨t, x, ht, e⟩ := s.feFree_eq i
  unfold State.feSt State.f
  rw [e, State.rd_withRej]
  simp only [State.setR]
  rw [State.rd_wr_ne _ hc, State.rd_wr_ne _ hl, State.rd_wr_ne _ hp]
  split
  · next h => rw [h, State.rd_wr_self]; rfl
  · next h =>
    have hs : Reg.FE_CTX_STATE j ≠ Reg.FE_CTX_STATE i := by simp only [Reg.FE_CTX_STATE]; omega
    rw [State.rd_wr_ne _ hs, ht.rd _ (noPortReg (Or.inl (by simp only [Reg.FE_CTX_STATE]; omega)))]

/-- The contexts that a fold freed are free. -/
theorem State.feSt_each_feFree (s : State) {n i : Nat} (hn : n ≤ 64) (hi : i < n) : (s.each (List.range n) State.feFree).feSt i = 0 := by
  induction n with
  | zero => omega
  | succ n ih =>
    have hstep : s.each (List.range (n + 1)) State.feFree = (s.each (List.range n) State.feFree).feFree n := by
      simp only [State.each, List.range_succ, List.foldl_append, List.foldl_cons, List.foldl_nil]
    rw [hstep, State.feSt_feFree _ (by omega)]
    split
    · rfl
    · exact ih (by omega) (by omega)

/-- R219: every context is free, and the counts of contexts are 0. -/
theorem State.clearFe_effect (s : State) : (∀ i, i < 64 → s.clearFe.feSt i = 0) ∧ s.clearFe.f Reg.REJ_STATUS 6 0 = 0 ∧ s.clearFe.f Reg.REJ_STATUS 14 8 = 0 := by
  have hfree : ∀ i, i < 64 → (s.each (List.range 64) State.feFree).feSt i = 0 := fun i hi => s.feSt_each_feFree (Nat.le_refl 64) hi
  unfold State.clearFe
  generalize s.each (List.range 64) State.feFree = t at hfree ⊢
  have hnone : ∀ n, n ≠ 0 → (((List.range 64).map t.feSt).filter (· == n)).length = 0 := by
    intro n hn
    simp only [List.length_eq_zero_iff, List.filter_eq_nil_iff, List.mem_map, List.mem_range]
    rintro _ ⟨i, hi, rfl⟩
    rw [hfree i hi]
    simpa using Ne.symm hn
  unfold State.syncFe
  simp only [hnone 2 (by decide), hnone 1 (by decide)]
  refine ⟨fun i hi => ?_, ?_, ?_⟩
  · have hne : Reg.FE_CTX_STATE i ≠ Reg.REJ_STATUS := by simp only [Reg.FE_CTX_STATE, Reg.REJ_STATUS]; omega
    exact ((State.f_setF_ne _ hne _ _ _ _ _).trans (State.f_setF_ne _ hne _ _ _ _ _)).trans (hfree i hi)
  · exact (State.f_setF_off _ _ (by decide) (by decide) (by decide) _).trans (State.f_setF_self _ _ (by decide) (by decide) _)
  · exact State.f_setF_self _ _ (by decide) (by decide) _

/-! ## The dither's seed (R212) -/

theorem crcBit_lt {c : Nat} (h : c < 2 ^ 32) : crcBit c < 2 ^ 32 := by
  have hs : c >>> 1 < 2 ^ 32 := by rw [Nat.shiftRight_eq_div_pow]; omega
  unfold crcBit
  split
  · exact Nat.xor_lt_two_pow hs (by decide)
  · exact hs

theorem crcByte_lt {c : Nat} (b : Byte) (h : c < 2 ^ 32) : crcByte c b < 2 ^ 32 := by
  have hx : c ^^^ b.toNat < 2 ^ 32 := Nat.xor_lt_two_pow h (by omega)
  exact crcBit_lt (crcBit_lt (crcBit_lt (crcBit_lt (crcBit_lt (crcBit_lt (crcBit_lt (crcBit_lt hx)))))))

/-- R11: a check word has 32 bits. -/
theorem crc32c_lt (bs : List Byte) : crc32c bs < 2 ^ 32 := by
  have hfold : ∀ c, c < 2 ^ 32 → bs.foldl crcByte c < 2 ^ 32 := by
    induction bs with
    | nil => exact fun c h => h
    | cons b bs ih => exact fun c h => ih _ (crcByte_lt b h)
  exact Nat.xor_lt_two_pow (hfold _ (by decide)) (by decide)

theorem State.ditherSeed_lt (s : State) : s.ditherSeed < 2 ^ 32 := by
  unfold State.ditherSeed
  dsimp only
  split
  · decide
  · exact crc32c_lt _

/-- R212: the generator and its register start from the seed of the salt. -/
theorem State.seedDither_effect (s : State) (hi lo : Nat) : s.seedDither.f Reg.DITHER_SALT hi lo = s.f Reg.DITHER_SALT hi lo ∧
    s.seedDither.rej.lfsr = s.seedDither.ditherSeed ∧ s.seedDither.r Reg.DITHER_SEED = s.seedDither.ditherSeed := by
  have hsalt : ∀ i j, s.seedDither.f Reg.DITHER_SALT i j = s.f Reg.DITHER_SALT i j := fun i j => by
    unfold State.seedDither State.f
    exact congrArg (bitsOf · i j) (State.rd_wr_ne _ (by decide) _)
  have hseed : s.seedDither.ditherSeed = s.ditherSeed := by
    simp only [State.ditherSeed, hsalt]
    rfl
  refine ⟨hsalt hi lo, hseed.symm ▸ rfl, ?_⟩
  rw [hseed]
  exact (State.r_setR _ _ _).trans (Nat.mod_eq_of_lt s.ditherSeed_lt)

/-! ## Statistics of a comb (R188) -/

theorem State.startStat_effect (s : State) (c : Nat) : (s.startStat c).f (Reg.TDC_STAT_STATUS c) 2 0 = 1 ∧ (s.startStat c).r (Reg.TDC_STAT_COUNT c) = 0 ∧
    ((s.startStat c).stat c).startAt = s.now ∧ ((s.startStat c).stat c).count = 0 := by
  have hstat : (s.startStat c).stat c = { startAt := s.now, ctrl := s.rd (Reg.TDC_STAT_CTRL c), gate := s.rd (Reg.TDC_STAT_GATE c) } := get_set_self _ _ _ _
  refine ⟨?_, State.r_setR _ _ _, by rw [hstat], by rw [hstat]⟩
  have hne : Reg.TDC_STAT_STATUS c ≠ Reg.TDC_STAT_COUNT c := by simp only [Reg.TDC_STAT_STATUS, Reg.TDC_STAT_COUNT]; omega
  unfold State.startStat State.f State.setR
  rw [State.rd_wr_ne _ hne]
  exact State.f_setF_self _ _ (by decide) (by decide) _

end Sys2Proof.Machine
end

section
/-!
PROOFS. Proofs/HostRegisters.lean: writes of the RW registers that have rows of their own (O25): where each register stands in the map, what refuses its write, and what is
left of the state.
-/

namespace Sys2Proof.Machine

open Sys2Proof

/-! ## Axes (R133, R134) -/

theorem State.writeFault_axMode {s : State} (v : Word) (a : Fin 2) (hd : s.dev = .armed) (hv : bitsOf v 1 0 ≠ 3) :
    s.writeFault false (Reg.AX_MODE a.val) v = none := by
  have h : s.writeFault false (Reg.AX_MODE a.val) v = firstOf [(s.notIn [.armed], Sts.BAD_STATE), (bitsOf v 1 0 == 3, Sts.BAD_PARAM)] := by
    match a with
    | 0 => rfl
    | 1 => rfl
  rw [h]
  simp [firstOf, State.notIn, hd, hv]

theorem State.writeFault_axManValue {s : State} (v : Word) (a : Fin 2) (hd : s.dev = .armed) : s.writeFault false (Reg.AX_MAN_VALUE a.val) v = none := by
  have h : s.writeFault false (Reg.AX_MAN_VALUE a.val) v = firstOf [(s.notIn [.armed], Sts.BAD_STATE)] := by
    match a with
    | 0 => rfl
    | 1 => rfl
  rw [h]
  simp [firstOf, State.notIn, hd]

theorem State.writeReg_axMode (s : State) (v : Word) (p tag : Nat) (a : Fin 2) : s.writeReg (Reg.AX_MODE a.val) v p tag = s.put s.held (Reg.AX_MODE a.val) 3 v := by
  match a with
  | 0 => rfl
  | 1 => rfl

theorem State.writeReg_axManValue (s : State) (v : Word) (p tag : Nat) (a : Fin 2) :
    s.writeReg (Reg.AX_MAN_VALUE a.val) v p tag = s.put s.held (Reg.AX_MAN_VALUE a.val) 0xFFFF v := by
  match a with
  | 0 => rfl
  | 1 => rfl

/-! ## Bias zones (R158) -/

theorem regAt_biasCtrl : ∀ z : Fin 8, regAt (Reg.BIAS_CTRL z.val) = some ⟨rowAt 0x00030100, z.val, 0⟩ := by decide

theorem State.writeFault_biasCtrl (s : State) (v : Word) (z : Fin 8) : s.writeFault false (Reg.BIAS_CTRL z.val) v = none := by
  have hpage : Reg.BIAS_CTRL z.val / 0x10000 = 3 := by simp only [Reg.BIAS_CTRL]; omega
  rw [State.writeFault_rw v (regAt_biasCtrl z) rfl rfl, hpage]
  rfl

/-- R158: a retry is noted, once. -/
theorem State.biasRetry_noted (s : State) (v : Word) (p tag : Nat) (z : Fin 8) (hv : v.getLsbD 15 = true) : z.val ∈ (s.writeReg (Reg.BIAS_CTRL z.val) v p tag).rx.retry := by
  obtain ⟨l, e⟩ := s.writeReg_rw v p tag (regAt_biasCtrl z) rfl
  rw [e]
  generalize s.put l _ _ _ = u
  have hw : u.written ⟨rowAt 0x00030100, z.val, 0⟩ (s.rd (Reg.BIAS_CTRL z.val)) v p tag = if v.getLsbD 15 then { u with rx := { u.rx with
    retry := if u.rx.retry.contains z.val then u.rx.retry else u.rx.retry ++ [z.val] } } else u := rfl
  rw [hw, if_pos hv]
  dsimp only
  split
  · next h => simpa using h
  · simp

/-! ## Statistics (R188) -/

theorem regAt_tdcStatCtrl (c : Fin 32) : regAt (Reg.TDC_STAT_CTRL c.val) = some ⟨rowAt 0x00040400, c.val, 0⟩ := by fin_cases c <;> rfl

theorem State.writeFault_tdcStatCtrl {s : State} {v : Word} {c : Fin 32} (hc : c.val < s.variant.combs) (h1 : bitsOf v 7 4 ≤ 8) (h2 : bitsOf v 12 8 ≤ 20)
    (hfull : s.cal.full = none) (hrun : s.cal.run = none) : s.writeFault false (Reg.TDC_STAT_CTRL c.val) v = none := by
  have hpage : Reg.TDC_STAT_CTRL c.val / 0x10000 = 4 := by simp only [Reg.TDC_STAT_CTRL]; omega
  have hw : s.pageFault 4 ⟨rowAt 0x00040400, c.val, 0⟩ v =
    firstOf [(decide (8 < bitsOf v 7 4) || decide (20 < bitsOf v 12 8), Sts.BAD_PARAM), (v.getLsbD 31 && s.statOwned c.val, Sts.BAD_STATE)] := rfl
  have hp : RegHit.present s.variant ⟨rowAt 0x00040400, c.val, 0⟩ = true := decide_eq_true hc
  rw [State.writeFault_rw v (regAt_tdcStatCtrl c) hp rfl, hpage, hw]
  simp [firstOf, State.statOwned, hfull, hrun, Nat.not_lt.mpr h1, Nat.not_lt.mpr h2]

/-- R188: a run of statistics starts. -/
theorem State.writeReg_tdcStatCtrl (s : State) (v : Word) (p tag : Nat) (c : Fin 32) (hv : v.getLsbD 31 = true) :
    ∃ u : State, u.now = s.now ∧ s.writeReg (Reg.TDC_STAT_CTRL c.val) v p tag = u.startStat c.val := by
  obtain ⟨l, e⟩ := s.writeReg_rw v p tag (regAt_tdcStatCtrl c) rfl
  refine ⟨_, ?_, e.trans (if_pos hv)⟩
  rfl

/-! ## The dither's salt (R212) and the frame period (R272) -/

theorem State.writeFault_ditherSalt {s : State} (v : Word) (hd : s.dev = .standby) : s.writeFault false Reg.DITHER_SALT v = none := by
  have h : s.writeFault false Reg.DITHER_SALT v = firstOf [(s.notIn [.standby], Sts.BAD_STATE)] := rfl
  rw [h]
  simp [firstOf, State.notIn, hd]

theorem State.ditherSalt_stored (s : State) (v : Word) (p tag : Nat) : (s.writeReg Reg.DITHER_SALT v p tag).f Reg.DITHER_SALT 15 0 = bitsOf v 15 0 ∧
    (s.writeReg Reg.DITHER_SALT v p tag).rej.lfsr = (s.writeReg Reg.DITHER_SALT v p tag).ditherSeed ∧
    (s.writeReg Reg.DITHER_SALT v p tag).r Reg.DITHER_SEED = (s.writeReg Reg.DITHER_SALT v p tag).ditherSeed := by
  obtain ⟨l, e⟩ := s.writeReg_rw (a := Reg.DITHER_SALT) (h := ⟨rowAt 0x0006000C, 0, 0⟩) v p tag (by decide) rfl
  have hw : s.writeReg Reg.DITHER_SALT v p tag = (s.put l Reg.DITHER_SALT 0xFFFF v).seedDither := e
  rw [hw]
  obtain ⟨hsalt, hlfsr, hseed⟩ := (s.put l Reg.DITHER_SALT 0xFFFF v).seedDither_effect 15 0
  refine ⟨hsalt.trans (State.f_put_self s l _ _ v fun i h1 h2 => ?_), hlfsr, hseed⟩
  interval_cases i <;> rfl

theorem State.writeFault_framePeriod {s : State} {v : Word} (h1 : 33334 ≤ bitsOf v 23 0) (h2 : bitsOf v 23 0 ≤ 200000) : s.writeFault false Reg.FRAME_PERIOD v = none := by
  have h : s.writeFault false Reg.FRAME_PERIOD v = firstOf [(outside v 23 0 33334 200000, Sts.BAD_PARAM)] := rfl
  rw [h]
  simp [firstOf, outside, Nat.not_lt.mpr h1, Nat.not_lt.mpr h2]

/-- R272: the period is stored, and outside a span of the flywheel it is the one in force. -/
theorem State.framePeriod_stored (s : State) (v : Word) (p tag : Nat) : (s.writeReg Reg.FRAME_PERIOD v p tag).f Reg.FRAME_PERIOD 23 0 = bitsOf v 23 0 ∧
    (s.writeReg Reg.FRAME_PERIOD v p tag).f Reg.FRAME_STATUS 23 0 = if s.sync.span = true then s.f Reg.FRAME_STATUS 23 0 else bitsOf v 23 0 := by
  obtain ⟨l, e⟩ := s.writeReg_rw (a := Reg.FRAME_PERIOD) (h := ⟨rowAt 0x00020104, 0, 0⟩) v p tag (by decide) rfl
  have hw : s.writeReg Reg.FRAME_PERIOD v p tag = if s.sync.span = true then s.put l Reg.FRAME_PERIOD 0xFFFFFF v else
    (s.put l Reg.FRAME_PERIOD 0xFFFFFF v).setF Reg.FRAME_STATUS 23 0 ((s.put l Reg.FRAME_PERIOD 0xFFFFFF v).f Reg.FRAME_PERIOD 23 0) := e
  have hput : (s.put l Reg.FRAME_PERIOD 0xFFFFFF v).f Reg.FRAME_PERIOD 23 0 = bitsOf v 23 0 :=
    State.f_put_self s l _ _ v fun i h1 h2 => by interval_cases i <;> rfl
  have hlt : bitsOf v 23 0 < 2 ^ 24 := Nat.mod_lt _ (by decide)
  rw [hw]
  split
  · exact ⟨hput, State.f_put_ne s l _ _ v (by decide) 23 0⟩
  · refine ⟨(State.f_setF_ne _ (by decide) 23 0 _ 23 0).trans hput, ?_⟩
    rw [State.f_setF_self _ _ (by decide) (by decide), hput]
    exact Nat.mod_eq_of_lt hlt

/-! ## Lane power (R320, R322) -/

theorem regAt_lanePwr : ∀ l : Fin 4, regAt (Reg.LANE_PWR l.val) = some ⟨rowAt 0x000F0104, l.val, 0⟩ := by decide

theorem State.writeFault_lanePwr {s : State} {v : Word} {l : Fin 4} (hl : l.val < s.variant.lanes) (h3 : bitsOf v 1 0 ≠ 3)
    (h2 : bitsOf v 1 0 = 2 → s.safetySub (s.portOf l) = false) : s.writeFault false (Reg.LANE_PWR l.val) v = none := by
  have hpage : Reg.LANE_PWR l.val / 0x10000 = 15 := by simp only [Reg.LANE_PWR]; omega
  have hw : s.pageFault 15 ⟨rowAt 0x000F0104, l.val, 0⟩ v =
    firstOf [(bitsOf v 1 0 == 3, Sts.BAD_PARAM), (bitsOf v 1 0 == 2 && s.safetySub (s.portOf l.val), Sts.BAD_STATE)] := rfl
  have hp : RegHit.present s.variant ⟨rowAt 0x000F0104, l.val, 0⟩ = true := decide_eq_true hl
  rw [State.writeFault_rw v (regAt_lanePwr l) hp rfl, hpage, hw]
  by_cases h : bitsOf v 1 0 = 2
  · simp [firstOf, h, h2 h]
  · simp [firstOf, h, h3]

/-- What a request for the power of a lane comes to. -/
theorem State.lanePwrEffect_eq (s : State) (l req : Nat) : s.lanePwrEffect l req false =
    if req ≠ 0 ∨ !s.laneOn l then s
    else if s.f (Reg.LANE_STATUS l) 9 8 = 0 then s.setLane l { s.lane l with powerOwed := none }
    else if (s.lane l).wakeUntil = none then s.wakeLane l else s := rfl

/-- A request for the power of a lane changes the account of that lane alone. -/
theorem State.lanePwrEffect_frame (s : State) (l req : Nat) : ∃ x, s.lanePwrEffect l req false = { s with lanes := x } := by
  rw [State.lanePwrEffect_eq]
  split
  · exact ⟨s.lanes, rfl⟩
  split
  · exact ⟨_, rfl⟩
  split
  · exact ⟨_, rfl⟩
  · exact ⟨s.lanes, rfl⟩

/-- R322: a lane that idles and is asked for full power is woken. -/
theorem State.lanePwrEffect_wakes {s : State} {l : Nat} (hon : s.laneOn l = true) (hidle : s.f (Reg.LANE_STATUS l) 9 8 ≠ 0) (hw : (s.lane l).wakeUntil = none) :
    ((s.lanePwrEffect l 0 false).lane l).wakeUntil.isSome = true := by
  have h : s.lanePwrEffect l 0 false = s.wakeLane l := by
    rw [State.lanePwrEffect_eq]
    simp [hon, hidle, hw]
  have hlane : ∀ (t : State) (x : LaneSt), (t.setLane l x).lane l = x := fun t x => get_set_self _ _ _ _
  rw [h, State.wakeLane, hlane]
  rfl

/-- A write of a lane's power: the request acts, and a retraining asked for is owed. -/
theorem State.writeReg_lanePwr (s : State) (v : Word) (p tag : Nat) (l : Fin 4) :
    ∃ k m, (∀ i, i ≤ 1 → m.getLsbD i = true) ∧ s.writeReg (Reg.LANE_PWR l.val) v p tag = (s.put k (Reg.LANE_PWR l.val) m (one 15 8 v)).lanePwrWritten l.val p tag v := by
  obtain ⟨k, e⟩ := s.writeReg_rw v p tag (regAt_lanePwr l) rfl
  refine ⟨k, 0xFF03, fun i hi => ?_, e⟩
  interval_cases i <;> rfl

/-- R320: a retraining asked for is owed to the port that asked. -/
theorem State.lanePwr_retrains (s : State) {v : Word} (p tag : Nat) (l : Fin 4) (hv : v.getLsbD 16 = true) :
    (s.writeReg (Reg.LANE_PWR l.val) v p tag).sys.retrainOwed = s.sys.retrainOwed ++ [(l.val, s.portOf p, tag)] := by
  obtain ⟨k, m, -, e⟩ := s.writeReg_lanePwr v p tag l
  obtain ⟨x, hx⟩ := (s.put k (Reg.LANE_PWR l.val) m (one 15 8 v)).lanePwrEffect_frame l.val (bitsOf v 1 0)
  rw [e, State.lanePwrWritten, hx]
  simp only [hv, if_true]
  rfl

/-- A value put into one field leaves the fields apart from it. -/
theorem bitsOf_one_off (v : Word) {hi lo i j : Nat} (h : lo ≤ hi) (h32 : hi < 32) (hd : i < lo ∨ hi < j) : bitsOf (one hi lo v) i j = bitsOf v i j := by
  unfold one
  split
  · exact bitsOf_congr fun k h1 h2 => getLsbD_withBits_ne _ h h32 (by omega) _
  · rfl

/-- A write of a lane's power changes the account of its lane, its register and what is owed. -/
theorem State.lanePwr_stored (s : State) (v : Word) (p tag : Nat) (l : Fin 4) :
    (s.writeReg (Reg.LANE_PWR l.val) v p tag).f (Reg.LANE_PWR l.val) 1 0 = bitsOf v 1 0 ∧
    (bitsOf v 1 0 = 0 → s.laneOn l = true → s.f (Reg.LANE_STATUS l) 9 8 ≠ 0 → (s.lane l).wakeUntil = none →
      ((s.writeReg (Reg.LANE_PWR l.val) v p tag).lane l).wakeUntil.isSome = true) := by
  obtain ⟨k, m, hm, e⟩ := s.writeReg_lanePwr v p tag l
  have hstatus : ∀ i j, (s.put k (Reg.LANE_PWR l.val) m (one 15 8 v)).f (Reg.LANE_STATUS l) i j = s.f (Reg.LANE_STATUS l) i j :=
    State.f_put_ne s k _ _ _ (by simp only [Reg.LANE_STATUS, Reg.LANE_PWR]; omega)
  have hfield : (s.put k (Reg.LANE_PWR l.val) m (one 15 8 v)).f (Reg.LANE_PWR l.val) 1 0 = bitsOf v 1 0 :=
    (State.f_put_self s k _ _ _ fun i _ h => hm i h).trans (bitsOf_one_off v (by decide) (by decide) (by decide))
  have hlane : (s.put k (Reg.LANE_PWR l.val) m (one 15 8 v)).lane l = s.lane l := rfl
  have hon : (s.put k (Reg.LANE_PWR l.val) m (one 15 8 v)).laneOn l = s.laneOn l := by
    unfold State.laneOn State.laneSt
    rw [hstatus]
    rfl
  rw [e]
  generalize s.put k _ _ _ = u at hstatus hfield hlane hon ⊢
  have hwritten : (u.lanePwrWritten l.val p tag v).regs = (u.lanePwrEffect l.val (bitsOf v 1 0) false).regs ∧
      (u.lanePwrWritten l.val p tag v).variant = (u.lanePwrEffect l.val (bitsOf v 1 0) false).variant ∧
      (u.lanePwrWritten l.val p tag v).lanes = (u.lanePwrEffect l.val (bitsOf v 1 0) false).lanes := by
    unfold State.lanePwrWritten
    split <;> exact ⟨rfl, rfl, rfl⟩
  obtain ⟨hregs, hvariant, hlanes⟩ := hwritten
  constructor
  · obtain ⟨x, hx⟩ := u.lanePwrEffect_frame l.val (bitsOf v 1 0)
    rw [hx] at hregs hvariant
    exact (congrArg (bitsOf · 1 0) (State.rd_congr hregs hvariant _)).trans hfield
  · intro h0 hl hi hw
    unfold State.lane at hlane ⊢
    rw [hlanes, h0]
    exact State.lanePwrEffect_wakes (hon.trans hl) (by rw [hstatus]; exact hi) (by unfold State.lane; rw [hlane]; exact hw)

/-! ## The delta-sigma converters (R301) -/

theorem regAt_maCfg : ∀ m : Fin 3, regAt (Reg.MA_CFG m.val) = some ⟨rowAt 0x000E0040, m.val, 0⟩ := by decide

theorem regAt_maDec : ∀ m : Fin 3, regAt (Reg.MA_DEC m.val) = some ⟨rowAt 0x000E0044, m.val, 0⟩ := by decide

theorem regAt_maSeq : ∀ (m : Fin 3) (q : Fin 4), regAt (Reg.MA_SEQ m.val q.val) = some ⟨rowAt 0x000E0048, m.val, q.val⟩ := by decide

theorem State.writeFault_maCfg {s : State} {v : Word} {m : Fin 3} (h1 : bitsOf v 2 1 ≠ 3) (h2 : bitsOf v 3 3 = 1 → s.f (Reg.MA_DEC m) 20 0 ≤ 80000) :
    s.writeFault false (Reg.MA_CFG m.val) v = none := by
  have hpage : Reg.MA_CFG m.val / 0x10000 = 14 := by simp only [Reg.MA_CFG]; omega
  have hw : s.pageFault 14 ⟨rowAt 0x000E0040, m.val, 0⟩ v =
    firstOf [(bitsOf v 2 1 == 3 || (v.getLsbD 3 && decide (80000 < s.f (Reg.MA_DEC m.val) 20 0)), Sts.BAD_PARAM)] := rfl
  rw [State.writeFault_rw v (regAt_maCfg m) rfl rfl, hpage, hw, getLsbD_eq_bitsOf]
  by_cases h : bitsOf v 3 3 = 1
  · simp [firstOf, h1, Nat.not_lt.mpr (h2 h)]
  · simp [firstOf, h1, h]

theorem State.writeFault_maDec {s : State} {v : Word} {m : Fin 3} (h1 : 256 ≤ bitsOf v 20 0)
    (h2 : bitsOf v 20 0 ≤ if s.bit (Reg.MA_CFG m) 3 = true then 80000 else 1280000) : s.writeFault false (Reg.MA_DEC m.val) v = none := by
  have hpage : Reg.MA_DEC m.val / 0x10000 = 14 := by simp only [Reg.MA_DEC]; omega
  have hw : s.pageFault 14 ⟨rowAt 0x000E0044, m.val, 0⟩ v =
    firstOf [(outside v 20 0 256 (if s.bit (Reg.MA_CFG m.val) 3 then 80000 else 1280000), Sts.BAD_PARAM)] := rfl
  rw [State.writeFault_rw v (regAt_maDec m) rfl rfl, hpage, hw]
  simp [firstOf, outside, Nat.not_lt.mpr h1, Nat.not_lt.mpr h2]

theorem State.writeFault_maSeq (s : State) {v : Word} (m : Fin 3) (q : Fin 4)
    (h : ∀ k, k < 4 → bitsOf v (8 * k + 6) (8 * k) ≤ 0x17 ∨ (0x20 ≤ bitsOf v (8 * k + 6) (8 * k) ∧ bitsOf v (8 * k + 6) (8 * k) ≤ 0x43)) :
    s.writeFault false (Reg.MA_SEQ m.val q.val) v = none := by
  have hpage : Reg.MA_SEQ m.val q.val / 0x10000 = 14 := by simp only [Reg.MA_SEQ]; omega
  have hw : s.pageFault 14 ⟨rowAt 0x000E0048, m.val, q.val⟩ v =
    firstOf [([0, 1, 2, 3].any fun k => badMaCode (bitsOf v (8 * k + 6) (8 * k)), Sts.BAD_PARAM)] := rfl
  have hgood : ([0, 1, 2, 3].any fun k => badMaCode (bitsOf v (8 * k + 6) (8 * k))) = false := by
    rw [List.any_eq_false]
    intro k hk
    have hcode := h k (by simp only [List.mem_cons, List.not_mem_nil, or_false] at hk; omega)
    simp only [badMaCode, Bool.or_eq_true, decide_eq_true_eq, not_or]
    omega
  rw [State.writeFault_rw v (regAt_maSeq m q) rfl rfl, hpage, hw, hgood]
  rfl

/-- A converter that starts again: its account is new, and its first turn is at once when it runs. -/
theorem State.ma_restartMa (s : State) (m : Nat) : (s.restartMa m).ma m = { at_ := if s.maRuns m then some (8 * s.now) else none } := get_set_self _ _ _ _

/-- Starting a converter again changes its account alone. -/
theorem State.f_restartMa (s : State) (m a hi lo : Nat) : (s.restartMa m).f a hi lo = s.f a hi lo := rfl

theorem State.maRuns_restartMa (s : State) (m k : Nat) : (s.restartMa m).maRuns k = s.maRuns k := rfl

theorem State.maRuns_put (s : State) (l : Tbl (Option Word)) {a k : Nat} (m v : Word) (h : Reg.MA_CFG k ≠ a) : (s.put l a m v).maRuns k = s.maRuns k := by
  unfold State.maRuns
  rw [State.bit_put_ne s l a m v h]
  rfl

theorem State.maCfg_stored (s : State) (v : Word) (p tag : Nat) (m : Fin 3) : (s.writeReg (Reg.MA_CFG m.val) v p tag).f (Reg.MA_CFG m) 3 0 = bitsOf v 3 0 ∧
    (s.writeReg (Reg.MA_CFG m.val) v p tag).ma m = { at_ := if (s.writeReg (Reg.MA_CFG m.val) v p tag).maRuns m = true then some (8 * s.now) else none } := by
  obtain ⟨l, e⟩ := s.writeReg_rw v p tag (regAt_maCfg m) rfl
  have hw : s.writeReg (Reg.MA_CFG m.val) v p tag = (s.put l (Reg.MA_CFG m.val) 0xF73F v).restartMa m.val := e
  rw [hw, State.f_restartMa, State.ma_restartMa, State.maRuns_restartMa]
  exact ⟨State.f_put_self s l _ _ v fun i _ h => by interval_cases i <;> rfl, rfl⟩

theorem State.maDec_stored (s : State) (v : Word) (p tag : Nat) (m : Fin 3) : (s.writeReg (Reg.MA_DEC m.val) v p tag).f (Reg.MA_DEC m) 20 0 = bitsOf v 20 0 ∧
    (s.writeReg (Reg.MA_DEC m.val) v p tag).ma m = { at_ := if s.maRuns m = true then some (8 * s.now) else none } := by
  obtain ⟨l, e⟩ := s.writeReg_rw v p tag (regAt_maDec m) rfl
  have hw : s.writeReg (Reg.MA_DEC m.val) v p tag = (s.put l (Reg.MA_DEC m.val) 0x1FFFFF v).restartMa m.val := e
  have hne : Reg.MA_CFG m.val ≠ Reg.MA_DEC m.val := by simp only [Reg.MA_CFG, Reg.MA_DEC]; omega
  rw [hw, State.f_restartMa, State.ma_restartMa, State.maRuns_put s l _ v hne]
  exact ⟨State.f_put_self s l _ _ v fun i _ h => by interval_cases i <;> rfl, rfl⟩

theorem State.maSeq_stored (s : State) (v : Word) (p tag : Nat) (m : Fin 3) (q : Fin 4) :
    (∀ k, k < 4 → (s.writeReg (Reg.MA_SEQ m.val q.val) v p tag).f (Reg.MA_SEQ m q) (8 * k + 6) (8 * k) = bitsOf v (8 * k + 6) (8 * k)) ∧
    (s.writeReg (Reg.MA_SEQ m.val q.val) v p tag).ma m = { at_ := if s.maRuns m = true then some (8 * s.now) else none } := by
  obtain ⟨l, e⟩ := s.writeReg_rw v p tag (regAt_maSeq m q) rfl
  have hw : s.writeReg (Reg.MA_SEQ m.val q.val) v p tag = (s.put l (Reg.MA_SEQ m.val q.val) 0x7F7F7F7F v).restartMa m.val := e
  have hne : Reg.MA_CFG m.val ≠ Reg.MA_SEQ m.val q.val := by simp only [Reg.MA_CFG, Reg.MA_SEQ]; omega
  rw [hw, State.ma_restartMa, State.maRuns_put s l _ v hne]
  refine ⟨fun k hk => ?_, rfl⟩
  rw [State.f_restartMa]
  refine State.f_put_self s l _ _ v fun i h1 h2 => ?_
  interval_cases k <;> interval_cases i <;> rfl

/-! ## The RTD converter (R301) -/

theorem regAt_rtdCfg : ∀ r : Fin 8, regAt (Reg.RTD_CFG r.val) = some ⟨rowAt 0x000E0410, r.val, 0⟩ := by decide

theorem State.writeFault_rtdCtrl {s : State} {v : Word} (h1 : 800 ≤ bitsOf v 19 0) (h2 : bitsOf v 19 0 ≤ 64000) : s.writeFault false Reg.RTD_CTRL v = none := by
  have h : s.writeFault false Reg.RTD_CTRL v = firstOf [(outside v 19 0 800 64000, Sts.BAD_PARAM)] := rfl
  rw [h]
  simp [firstOf, outside, Nat.not_lt.mpr h1, Nat.not_lt.mpr h2]

theorem State.writeFault_rtdCfg (s : State) {v : Word} (r : Fin 8) (h : bitsOf v 6 4 ≤ 5) : s.writeFault false (Reg.RTD_CFG r.val) v = none := by
  have hpage : Reg.RTD_CFG r.val / 0x10000 = 14 := by simp only [Reg.RTD_CFG]; omega
  have hw : s.pageFault 14 ⟨rowAt 0x000E0410, r.val, 0⟩ v = firstOf [(decide (5 < bitsOf v 6 4), Sts.BAD_PARAM)] := rfl
  rw [State.writeFault_rw v (regAt_rtdCfg r) rfl rfl, hpage, hw]
  simp [firstOf, Nat.not_lt.mpr h]

/-- A turn of the converter changes no register. -/
theorem State.rd_nextTurn (s : State) (r t a : Nat) : (s.nextTurn r t).rd a = s.rd a := by
  unfold State.nextTurn
  split <;> rfl

/-- A turn that has an input begins with it; without one the converter rests. -/
theorem State.nextTurn_rtd (s : State) (r t : Nat) : (∀ q, s.nextInput r = some q → (s.nextTurn r t).aux.rtd.input = q ∧ (s.nextTurn r t).aux.rtd.at_ = some t) ∧
    (s.nextInput r = none → (s.nextTurn r t).aux.rtd = {}) := by
  unfold State.nextTurn
  constructor
  · intro q h
    rw [h]
    exact ⟨rfl, rfl⟩
  · intro h
    rw [h]
    rfl

/-- R301: the settling time is stored, and the converter starts again at its first input. -/
theorem State.rtdCtrl_stored (s : State) (v : Word) (p tag : Nat) (hs : s.dev.anyState = true) :
    (s.writeReg Reg.RTD_CTRL v p tag).f Reg.RTD_CTRL 19 0 = bitsOf v 19 0 ∧
    (∀ q, s.nextInput 7 = some q → (s.writeReg Reg.RTD_CTRL v p tag).aux.rtd.input = q ∧ (s.writeReg Reg.RTD_CTRL v p tag).aux.rtd.at_ = some (2 * s.now)) ∧
    (s.nextInput 7 = none → (s.writeReg Reg.RTD_CTRL v p tag).aux.rtd = {}) := by
  have hruns : s.rtdRuns = true := by
    revert hs
    unfold State.rtdRuns DevState.anyState
    cases s.dev <;> simp [DevState.code]
  have hw : s.writeReg Reg.RTD_CTRL v p tag = (s.put s.held Reg.RTD_CTRL 0x3FFFFF v).restartRtd := rfl
  have hrun : (s.put s.held Reg.RTD_CTRL 0x3FFFFF v).restartRtd = (s.put s.held Reg.RTD_CTRL 0x3FFFFF v).nextTurn 7 (2 * s.now) := if_pos hruns
  have hnext : (s.put s.held Reg.RTD_CTRL 0x3FFFFF v).nextInput 7 = s.nextInput 7 := by
    unfold State.nextInput
    refine congrArg (List.find? · _) (funext fun q => ?_)
    rw [State.f_put_ne s _ _ _ v (by simp only [Reg.RTD_CFG, Reg.RTD_CTRL]; omega)]
  have hturn := (s.put s.held Reg.RTD_CTRL 0x3FFFFF v).nextTurn_rtd 7 (2 * s.now)
  rw [hnext] at hturn
  rw [hw, hrun]
  refine ⟨?_, hturn⟩
  unfold State.f
  rw [State.rd_nextTurn]
  exact State.f_put_self s _ _ _ v fun i _ h => by interval_cases i <;> rfl

/-- A register reads the same whatever the converters' account. -/
theorem State.rd_setAux (s : State) (x : Aux) (a : Nat) : (s.setAux x).rd a = s.rd a := rfl

/-- An input that lost its wires: its change is in force, its turn is no live one, and it reads as off. -/
theorem State.rtdCfgWritten_unwired {s : State} {r : Nat} (h : s.f (Reg.RTD_CFG r) 1 0 = 0) :
    ∃ (t : State) (x : Aux), t.regs = s.regs ∧ t.variant = s.variant ∧ s.rtdCfgWritten r = (t.setRtd r 4 temp150).setAux x := by
  refine ⟨if (s.takeEffect fun a => a == Reg.RTD_CFG r).aux.rtd.input = r then (s.takeEffect fun a => a == Reg.RTD_CFG r).setAux
    { (s.takeEffect fun a => a == Reg.RTD_CFG r).aux with rtd := { (s.takeEffect fun a => a == Reg.RTD_CFG r).aux.rtd with live := false } } else
      s.takeEffect fun a => a == Reg.RTD_CFG r, _, ?_, ?_, if_pos h⟩
  · split <;> rfl
  · split <;> rfl

/-- An input with wires changes no register. -/
theorem State.rd_rtdCfgWritten_wired {s : State} {r : Nat} (h : s.f (Reg.RTD_CFG r) 1 0 ≠ 0) (a : Nat) : (s.rtdCfgWritten r).rd a = s.rd a := by
  unfold State.rtdCfgWritten
  rw [if_neg h]
  split
  · exact State.rd_nextTurn s _ _ a
  · rfl

/-- What a write of an input's wiring changes of the registers: the temperature of that input. -/
theorem State.rd_rtdCfgWritten (s : State) {r a : Nat} (ha : a ≠ Reg.RTD_TEMP r) : (s.rtdCfgWritten r).rd a = s.rd a := by
  by_cases h : s.f (Reg.RTD_CFG r) 1 0 = 0
  · obtain ⟨t, x, hr, hv, e⟩ := State.rtdCfgWritten_unwired h
    rw [e, State.rd_setAux, State.setRtd, State.rd_setF_ne _ ha, State.rd_setF_ne _ ha, State.rd_congr hr hv]
  · exact State.rd_rtdCfgWritten_wired h a

/-- R301: an input without wires reads as off. -/
theorem State.rtdCfgWritten_off {s : State} {r : Nat} (h : s.f (Reg.RTD_CFG r) 1 0 = 0) : (s.rtdCfgWritten r).f (Reg.RTD_TEMP r) 18 16 = 4 := by
  obtain ⟨t, x, -, -, e⟩ := State.rtdCfgWritten_unwired h
  rw [e, State.f, State.rd_setAux, State.setRtd, ← State.f, State.f_setF_off _ _ (by decide) (by decide) (by decide), State.f_setF_self _ _ (by decide) (by decide)]
  rfl

theorem State.rtdCfg_stored (s : State) (v : Word) (p tag : Nat) (r : Fin 8) : (s.writeReg (Reg.RTD_CFG r.val) v p tag).f (Reg.RTD_CFG r) 6 4 = bitsOf v 6 4 ∧
    (s.writeReg (Reg.RTD_CFG r.val) v p tag).f (Reg.RTD_CFG r) 1 0 = bitsOf v 1 0 ∧
    (bitsOf v 1 0 = 0 → (s.writeReg (Reg.RTD_CFG r.val) v p tag).f (Reg.RTD_TEMP r) 18 16 = 4) := by
  obtain ⟨l, e⟩ := s.writeReg_rw v p tag (regAt_rtdCfg r) rfl
  have hw : s.writeReg (Reg.RTD_CFG r.val) v p tag = (s.put l (Reg.RTD_CFG r.val) 0xFFF77 v).rtdCfgWritten r.val := e
  have hne : Reg.RTD_CFG r.val ≠ Reg.RTD_TEMP r.val := by simp only [Reg.RTD_CFG, Reg.RTD_TEMP]; omega
  have hkeep : ∀ hi lo, (s.writeReg (Reg.RTD_CFG r.val) v p tag).f (Reg.RTD_CFG r) hi lo = (s.put l (Reg.RTD_CFG r.val) 0xFFF77 v).f (Reg.RTD_CFG r) hi lo :=
    fun hi lo => by rw [hw]; exact congrArg (bitsOf · hi lo) (State.rd_rtdCfgWritten _ hne)
  have hwires : (s.put l (Reg.RTD_CFG r.val) 0xFFF77 v).f (Reg.RTD_CFG r) 1 0 = bitsOf v 1 0 := State.f_put_self s l _ _ v fun i _ h => by interval_cases i <;> rfl
  refine ⟨(hkeep 6 4).trans (State.f_put_self s l _ _ v fun i h1 h2 => ?_), (hkeep 1 0).trans hwires, fun h0 => ?_⟩
  · interval_cases i <;> rfl
  · rw [hw]
    exact State.rtdCfgWritten_off (hwires.trans h0)

end Sys2Proof.Machine
end

section
/-!
PROOFS. Proofs/HostRows.lean: the rows of single register writes (O25): what refuses them, where they complete, and what they leave.
-/

namespace Sys2Proof.Machine

open Sys2Proof

/-! ## The redundancy command (R392, R399) -/

/-- A redundancy command that asks for a failover alone (R392). -/
theorem redBits_failover {v : Word} (hv : bitsOf v 2 1 = 0) : v.getLsbD 1 = false ∧ v.getLsbD 2 = false := by
  have h1 := getLsbD_eq_testBit_bitsOf v (hi := 2) (lo := 1) (i := 0) (by decide)
  have h2 := getLsbD_eq_testBit_bitsOf v (hi := 2) (lo := 1) (i := 1) (by decide)
  rw [hv] at h1 h2
  exact ⟨h1, h2⟩

/-- A redundancy command that asks for the return of one pair alone (R399). -/
theorem redBits_bulk {v : Word} {k : Fin 2} (hv : bitsOf v 2 0 = if k = 0 then 2 else 4) :
    v.getLsbD 0 = false ∧ v.getLsbD 1 = decide (k = 0) ∧ v.getLsbD 2 = decide (k = 1) := by
  have h0 := getLsbD_eq_testBit_bitsOf v (hi := 2) (lo := 0) (i := 0) (by decide)
  have h1 := getLsbD_eq_testBit_bitsOf v (hi := 2) (lo := 0) (i := 1) (by decide)
  have h2 := getLsbD_eq_testBit_bitsOf v (hi := 2) (lo := 0) (i := 2) (by decide)
  rw [hv] at h0 h1 h2
  match k with
  | 0 => exact ⟨h0, h1, h2⟩
  | 1 => exact ⟨h0, h1, h2⟩

/-- R408: what refuses a redundancy command, by its three bits. -/
theorem State.writeFault_redCmd (s : State) (v : Word) : s.writeFault false Reg.RED_CMD v =
    match firstOf [(v.getLsbD 0 && s.failoverBad, Sts.BAD_STATE)] with
    | some st => some st
    | none =>
      match if v.getLsbD 1 then s.bulkFault 0 else none with
      | some st => some st
      | none => if v.getLsbD 2 then s.bulkFault 1 else none := rfl

theorem State.writeFault_failover {s : State} {v : Word} (hv : bitsOf v 2 1 = 0) (hd : s.dev = .armed ∨ s.dev = .sensing ∨ s.dev = .degraded ∨ s.dev = .calibrating)
    (ha : s.plannerSt s.activePlanner = 4) (hb : s.plannerSt (1 - s.activePlanner) = 2) : s.writeFault false Reg.RED_CMD v = none := by
  obtain ⟨h1, h2⟩ := redBits_failover hv
  have hgood : s.failoverBad = false := by
    unfold State.failoverBad State.notIn
    rcases hd with hd | hd | hd | hd <;> simp [hd, ha, hb]
  rw [State.writeFault_redCmd, h1, h2, hgood, Bool.and_false]
  rfl

theorem State.writeFault_bulk {s : State} {v : Word} {k : Fin 2} (hv : bitsOf v 2 0 = if k = 0 then 2 else 4) (hl : 2 * k.val < s.variant.lanes)
    (hf : s.pairFormed k = true) (hc : s.f (Reg.PAIR_STATUS k) 1 1 ≠ s.f (Reg.PAIR_CTRL k) 0 0) (hu : s.laneUp (2 * k + s.f (Reg.PAIR_CTRL k) 0 0) = true) :
    s.writeFault false Reg.RED_CMD v = none := by
  have hgood : s.bulkFault k = none := by
    simp [State.bulkFault, firstOf, hf, hc, hu, Nat.not_le.mpr hl]
  obtain ⟨h0, h1, h2⟩ := redBits_bulk hv
  rw [State.writeFault_redCmd, h0, h1, h2, Bool.false_and]
  clear hv hl hf hc hu h0 h1 h2
  match k with
  | 0 => simp [firstOf, show s.bulkFault 0 = none from hgood]
  | 1 => simp [firstOf, show s.bulkFault 1 = none from hgood]

/-- R392, R399: what a redundancy command does, by its three bits. -/
theorem State.redCommand_eq (s : State) (v : Word) : s.redCommand v =
    let pair (s : State) (k : Nat) : State := if v.getLsbD (k + 1) then s.setPair k { s.pair k with bulkReturn := true } else s
    if v.getLsbD 0 then (pair (pair s 0) 1).failPlanner 6 else pair (pair s 0) 1 := rfl

theorem State.redCommand_failover (s : State) {v : Word} (h0 : v.getLsbD 0 = true) (hv : bitsOf v 2 1 = 0) : s.redCommand v = s.failPlanner 6 := by
  obtain ⟨h1, h2⟩ := redBits_failover hv
  rw [State.redCommand_eq]
  simp only [Nat.zero_add, Nat.reduceAdd, h0, h1, h2, if_true, Bool.false_eq_true, if_false]

theorem State.redCommand_bulk (s : State) {v : Word} {k : Fin 2} (hv : bitsOf v 2 0 = if k = 0 then 2 else 4) :
    s.redCommand v = s.setPair k { s.pair k with bulkReturn := true } := by
  obtain ⟨h0, h1, h2⟩ := redBits_bulk hv
  rw [State.redCommand_eq]
  simp only [Nat.zero_add, Nat.reduceAdd, h0, h1, h2]
  match k with
  | 0 => rfl
  | 1 => rfl

/-- R392: a failover that is forced: the active planner has failed, the other takes over, and no shot waits. -/
theorem State.forceFailover_effect {s : State} {v : Word} (h0 : v.getLsbD 0 = true) (hv : bitsOf v 2 1 = 0) (ha : s.plannerSt s.activePlanner = 4)
    (hb : s.plannerSt (1 - s.activePlanner) = 2) :
    (s.redCommand v).plannerSt s.activePlanner = 5 ∧ (s.redCommand v).plannerSt (1 - s.activePlanner) = 3 ∧ (s.redCommand v).red.takeover.isSome = true ∧
      (s.redCommand v).plan.queue = [] := by
  have h2 : s.activePlanner < 2 := Nat.mod_lt _ (by decide)
  obtain ⟨k, hp⟩ := s.failPlanner_standby 6 ha hb
  rw [s.redCommand_failover h0 hv]
  refine ⟨?_, ?_, by rw [hp.takeover]; rfl, List.subset_nil.mp hp.queue⟩
  · rw [hp.planner _ h2, Function.update_of_ne (by omega), Function.update_self]
  · rw [hp.planner _ (by omega), Function.update_self]

/-! ## Commands of write-only registers -/

theorem firstOf_one_false {c : Bool} {n : Nat} (h : c = false) : firstOf [(c, n)] = none := by
  subst h; rfl

theorem State.writeFault_slotCommit {s : State} (v : Word) (h : s.bit Reg.ARB_SLOT_STATUS 1 = false) : s.writeFault false Reg.ARB_SLOT_COMMIT v = none :=
  firstOf_one_false (n := Sts.TABLE_LOCKED) (by rw [h]; rfl)

theorem State.writeFault_slotNext {s : State} {v : Word} (h : s.bit Reg.ARB_SLOT_STATUS 1 = false) (ho : bitsOf v 11 8 ≤ 5)
    (hl : 2 ≤ bitsOf v 11 8 → bitsOf v 11 8 - 2 < s.variant.lanes) : s.writeFault false Reg.ARB_SLOT_NEXT v = none := by
  have hw : s.writeFault false Reg.ARB_SLOT_NEXT v = firstOf [(s.bit Reg.ARB_SLOT_STATUS 1, Sts.TABLE_LOCKED), (decide (5 < bitsOf v 11 8), Sts.BAD_PARAM),
      (s.ownerAbsent (bitsOf v 11 8), Sts.NOT_PRESENT)] := rfl
  have ha : s.ownerAbsent (bitsOf v 11 8) = false := decide_eq_false fun hc => Nat.not_le.mpr (hl hc.1) hc.2.2
  rw [hw, h, ha, decide_eq_false (Nat.not_lt.mpr ho)]
  rfl

theorem State.writeFault_patCommit {s : State} (v : Word) (h : s.bit Reg.EMIT_STATUS 4 = false) : s.writeFault false Reg.PAT_COMMIT v = none :=
  firstOf_one_false (n := Sts.TABLE_LOCKED) (by rw [h]; rfl)

theorem State.notIn_standby_armed {s : State} (h : s.dev = .standby ∨ s.dev = .armed) : s.notIn [.standby, .armed] = false := by
  unfold State.notIn
  rcases h with h | h <;> rw [h] <;> rfl

theorem State.writeFault_wagCommit {s : State} (v : Word) (h : s.dev = .standby ∨ s.dev = .armed) : s.writeFault false Reg.WAG_COMMIT v = none :=
  firstOf_one_false (n := Sts.BAD_STATE) (by rw [State.notIn_standby_armed h, Bool.and_false])

theorem State.writeFault_selftest {s : State} (v : Word) (h : s.dev = .standby ∨ s.dev = .armed) : s.writeFault false Reg.RX_SELFTEST v = none :=
  firstOf_one_false (n := Sts.BAD_STATE) (State.notIn_standby_armed h)

theorem State.writeFault_polyCommit {s : State} (v : Word) (h : s.bit Reg.FC_STATUS 1 = false) : s.writeFault false Reg.FC_POLY_COMMIT v = none :=
  firstOf_one_false (n := Sts.TABLE_LOCKED) (by rw [h]; rfl)

end Sys2Proof.Machine
end

section
/-!
PROOFS. Proofs/HostWriteRows.lean: the statement O25, row by row: each row of a single register write is admitted, refused by nothing, and leaves what its register does.
-/

namespace Sys2Proof.Machine

open Sys2Proof

/-- A field of `n` bits is below 2ⁿ. -/
theorem bitsOf_lt (v : Word) {hi lo n : Nat} (h : hi + 1 - lo = n) : bitsOf v hi lo < 2 ^ n := h ▸ Nat.mod_lt _ (Nat.two_pow_pos _)

/-- A bit that an action sets. -/
theorem getLsbD_or_action (v : Word) {action : Word} {i : Nat} (h : action.getLsbD i = true) : (v ||| action).getLsbD i = true := by
  rw [BitVec.getLsbD_or, h, Bool.or_true]

/-! ## What the commands of write-only registers do (R75, R76, R101, R135, R165, R219, R263) -/

section

variable (s : State) (v : Word) (p tag : Nat)

theorem State.writeReg_slotNext :
    s.writeReg Reg.ARB_SLOT_NEXT v p tag = s.slotNextWrite (bitsOf v 7 0) (bitsOf v 11 8 + 16 * min 16 (bitsOf v 16 12)) := rfl

variable {v} (hv : v.getLsbD 0 = true)

include hv

theorem State.writeReg_slotCommit : s.writeReg Reg.ARB_SLOT_COMMIT v p tag = s.slotCommit := if_pos hv

theorem State.writeReg_patCommit : s.writeReg Reg.PAT_COMMIT v p tag = s.commitPat := if_pos hv

theorem State.writeReg_wagCommit : s.writeReg Reg.WAG_COMMIT v p tag = s.setBit Reg.WAG_STATUS 9 true := if_pos hv

theorem State.writeReg_selftest : s.writeReg Reg.RX_SELFTEST v p tag = s.startSelftest := if_pos hv

theorem State.writeReg_feClear : s.writeReg Reg.FE_CLEAR v p tag = s.clearFe := if_pos hv

theorem State.writeReg_polyCommit : s.writeReg Reg.FC_POLY_COMMIT v p tag = s.commitPoly := if_pos hv

end

/-- R76: the entry that a write names stands in the shadow table. -/
theorem State.slotNext_stored (s : State) (v : Word) (p tag : Nat) :
    (s.writeReg Reg.ARB_SLOT_NEXT v p tag).r (Reg.ARB_SLOT (bitsOf v 7 0)) = bitsOf v 11 8 + 16 * min 16 (bitsOf v 16 12) := by
  have hk : bitsOf v 7 0 < 2 ^ 8 := bitsOf_lt v rfl
  have ho : bitsOf v 11 8 < 2 ^ 4 := bitsOf_lt v rfl
  rw [State.writeReg_slotNext]
  exact s.r_slotNextWrite (by omega) (by omega)

/-- R134: the position of an axis is stored. -/
theorem State.axManValue_stored (s : State) (v : Word) (p tag : Nat) (a : Fin 2) :
    (s.writeReg (Reg.AX_MAN_VALUE a.val) v p tag).f (Reg.AX_MAN_VALUE a.val) 15 0 = bitsOf v 15 0 := by
  rw [State.writeReg_axManValue]
  exact State.f_put_self s _ _ _ v fun i _ h => by interval_cases i <;> rfl

/-- R133: the mode of an axis is stored. -/
theorem State.axMode_stored (s : State) (v : Word) (p tag : Nat) (a : Fin 2) :
    (s.writeReg (Reg.AX_MODE a.val) v p tag).f (Reg.AX_MODE a.val) 1 0 = bitsOf v 1 0 := by
  rw [State.writeReg_axMode]
  exact State.f_put_self s _ _ _ v fun i _ h => by interval_cases i <;> rfl

/-- R188: the statistics of a comb start. -/
theorem State.tdcStat_started (s : State) {v : Word} (p tag : Nat) (c : Fin 32) (hv : v.getLsbD 31 = true) :
    (s.writeReg (Reg.TDC_STAT_CTRL c.val) v p tag).f (Reg.TDC_STAT_STATUS c) 2 0 = 1 ∧ (s.writeReg (Reg.TDC_STAT_CTRL c.val) v p tag).r (Reg.TDC_STAT_COUNT c) = 0 ∧
      ((s.writeReg (Reg.TDC_STAT_CTRL c.val) v p tag).stat c).startAt = s.now ∧ ((s.writeReg (Reg.TDC_STAT_CTRL c.val) v p tag).stat c).count = 0 := by
  obtain ⟨u, hnow, e⟩ := s.writeReg_tdcStatCtrl v p tag c hv
  rw [e, ← hnow]
  exact u.startStat_effect c.val

/-- A redundancy command names one pair: the row of its return is the write of that bit. -/
theorem exec_bulkReturn (k : Fin 2) (w : HostWrite) (s : State) :
    exec (.bulkReturn k w) s = exec (.paramWrite (HostWrite.cmd w Reg.RED_CMD (w.value ||| if k = 0 then 2 else 4))) s := by
  match k with
  | 0 => rfl
  | 1 => rfl

/-- Settles O25: each row is a write that no rule refuses under its conditions (`State.Admits.write_ends`), and leaves what the write of its register does. -/
theorem hostWriteEffects : Obligations.HostWriteEffects := by
  unfold Obligations.HostWriteEffects
  refine ⟨fun s v p tag => ⟨rfl, rfl, rfl, rfl, rfl, rfl, rfl, rfl, rfl, rfl, rfl, rfl, rfl⟩, fun w s p x t => ?_⟩
  intro ends
  refine ⟨?slotCommit, ?slotNext, ?patCommit, ?wagCommit, ?axMode, ?axManValue, ?biasRetry, ?selftest, ?tdcStat, ?feClear, ?ditherSalt, ?polyCommit, ?framePeriod,
    ?laneRetrain, ?laneTxReq, ?forceFailover, ?bulkReturn, ?maCfg, ?maDec, ?maSeq, ?rtdCtrl, ?rtdCfg⟩
  case slotCommit =>
    intro h hpending
    exact h.write_ends_in rfl rfl (by decide) (State.writeFault_slotCommit _ hpending) (t.writeReg_slotCommit _ _ (getLsbD_or_action _ rfl)) t.slotCommit_effect
  case slotNext =>
    rintro h ⟨hpending, howner, hlanes⟩
    exact h.write_ends rfl rfl (by decide) (State.writeFault_slotNext hpending howner hlanes) (t.slotNext_stored _ _ _)
  case patCommit =>
    intro h hpending
    exact h.write_ends_in rfl rfl (by decide) (State.writeFault_patCommit _ hpending) (t.writeReg_patCommit _ _ (getLsbD_or_action _ rfl)) t.commitPat_effect
  case wagCommit =>
    intro h hdev
    exact h.write_ends_in rfl rfl (by decide) (State.writeFault_wagCommit _ hdev) (t.writeReg_wagCommit _ _ (getLsbD_or_action _ rfl)) rfl
  case axMode =>
    rintro a h ⟨hdev, hmode⟩
    exact h.write_ends rfl (by omega) (by omega) (State.writeFault_axMode _ a hdev hmode) (t.axMode_stored _ _ _ a)
  case axManValue =>
    intro a h hdev
    exact h.write_ends rfl (by omega) (by omega) (State.writeFault_axManValue _ a hdev) (t.axManValue_stored _ _ _ a)
  case biasRetry =>
    intro z h _
    exact h.write_ends rfl (by omega) (by omega) (t.writeFault_biasCtrl _ z) (t.biasRetry_noted _ _ _ z (getLsbD_or_action _ rfl))
  case selftest =>
    intro h hdev
    exact h.write_ends_in rfl rfl (by decide) (State.writeFault_selftest _ hdev) (t.writeReg_selftest _ _ (getLsbD_or_action _ rfl)) t.startSelftest_effect
  case tdcStat =>
    rintro c h ⟨hcomb, hsel, hlog, hfull, hrun⟩
    exact h.write_ends rfl (by omega) (by omega) (State.writeFault_tdcStatCtrl hcomb hsel hlog hfull hrun) (t.tdcStat_started _ _ c (getLsbD_or_action _ rfl))
  case feClear =>
    intro h _
    exact h.write_ends_in rfl rfl (by decide) rfl (t.writeReg_feClear _ _ (getLsbD_or_action _ rfl)) t.clearFe_effect
  case ditherSalt =>
    intro h hdev
    exact h.write_ends rfl rfl (by decide) (State.writeFault_ditherSalt _ hdev) (t.ditherSalt_stored _ _ _)
  case polyCommit =>
    intro h hpending
    exact h.write_ends_in rfl rfl (by decide) (State.writeFault_polyCommit _ hpending) (t.writeReg_polyCommit _ _ (getLsbD_or_action _ rfl)) t.commitPoly_effect
  case framePeriod =>
    rintro h ⟨hmin, hmax⟩
    exact h.write_ends rfl rfl (by decide) (State.writeFault_framePeriod hmin hmax) (t.framePeriod_stored _ _ _)
  case laneRetrain =>
    rintro l h ⟨hlane, hreq, hsafety⟩
    refine h.write_ends rfl (by omega) (by omega) (State.writeFault_lanePwr hlane hreq hsafety) ?_
    have hport : t.portOf w.port = p := h.portOf
    exact hport ▸ t.lanePwr_retrains w.port w.tag.toNat l (getLsbD_or_action w.value rfl)
  case laneTxReq =>
    rintro l h ⟨hlane, hreq, hsafety⟩
    exact h.write_ends rfl (by omega) (by omega) (State.writeFault_lanePwr hlane hreq hsafety) (t.lanePwr_stored _ _ _ l)
  case forceFailover =>
    rintro h ⟨hbulk, hdev, hactive, hother⟩
    exact h.write_ends rfl rfl (by decide) (State.writeFault_failover hbulk hdev hactive hother)
      (State.forceFailover_effect (getLsbD_or_action _ rfl) hbulk hactive hother)
  case bulkReturn =>
    rintro k h ⟨hfield, hlanes, hformed, hcarrier, hup⟩
    exact h.write_ends (exec_bulkReturn k w s) rfl (by decide) (State.writeFault_bulk hfield hlanes hformed hcarrier hup) (t.redCommand_bulk hfield)
  case maCfg =>
    rintro m h ⟨hosr, hfast⟩
    exact h.write_ends rfl (by omega) (by omega) (State.writeFault_maCfg hosr hfast) (t.maCfg_stored _ _ _ m)
  case maDec =>
    rintro m h ⟨hmin, hmax⟩
    exact h.write_ends rfl (by omega) (by omega) (State.writeFault_maDec hmin hmax) (t.maDec_stored _ _ _ m)
  case maSeq =>
    intro m q h hcodes
    exact h.write_ends rfl (by omega) (by omega) (t.writeFault_maSeq m q hcodes) (t.maSeq_stored _ _ _ m q)
  case rtdCtrl =>
    rintro h ⟨hmin, hmax⟩
    exact h.write_ends rfl rfl (by decide) (State.writeFault_rtdCtrl hmin hmax) (t.rtdCtrl_stored _ _ _ h.anyState)
  case rtdCfg =>
    intro r h hgain
    exact h.write_ends rfl (by omega) (by omega) (t.writeFault_rtdCfg r hgain) (t.rtdCfg_stored _ _ _ r)

end Sys2Proof.Machine
end

section
/-!
PROOFS. Proofs/StrayCommand.lean: the statements O45 and O46 speak of every state, also of one in which an accepted command names a port that the block does not have. In such a
state an entry into SAFE does not end in SAFE; the state is written out, and the model evaluates it.
-/

namespace Sys2Proof.Machine

open Sys2Proof

/-! ## The entry into SAFE and the commands that it cancels (R29, R27) -/

/-- A port beyond those of R330, with one packet waiting: `PORT_QUEUE` of it, 0x10004C + 0x10 × 0x3000, is the address of `THERM_RTD` of input 3. -/
def strayPort : Tbl PortSt := ⟨[(0x3000, { queue := [{ opcode := Op.NOP, lenOk := true, cmd := { port := 0, tag := 0, b4 := 0, length := 0, params := [] } }] })]⟩

/-- ARMED for a second, with no temperature read so far, and a `DISARM` accepted from the stray port; `e` is the emitter drive. -/
def strayCommand (e : Emit) : State :=
  { State.reset with now := 1000000000, sys := { dev := .armed, cmds := [{ opcode := Op.DISARM, port := 0x3000, tag := 0 }] }, ports := strayPort, emit := e }

set_option maxRecDepth 20000 in
/-- No sensor gives `strayCommand` a temperature of the policy. -/
theorem strayCommand_tPol (e : Emit) : (strayCommand e).tPol = none := by
  have hreadings : (strayCommand {}).policyReadings = [] := by decide
  unfold State.tPol
  rw [show (strayCommand e).policyReadings = (strayCommand {}).policyReadings from rfl, hreadings]

/-- A shutdown whose SAFE entry is due. -/
def strayShutdown : State := strayCommand { lsdAt := some 0 }

/-- A fade at its end, with no tile ready. -/
def strayFade : State := strayCommand { fadeAt := some 0 }

/-- `strayShutdown` with the shutdown reported. -/
def strayReported : State :=
  State.raise { strayShutdown with emit := { strayShutdown.emit with lsdAt := none } } Ev.LASER_SHUTDOWN .all (leBytes 4 (strayShutdown.r Reg.EMIT_LSD_CAUSE))

/-- `strayFade` with the fade ended. -/
def strayFaded : State := (strayFade.setBit Reg.EMIT_STATUS 1 false).setEmit { strayFade.emit with fadeAt := none, fadeStep := 0, ceil := 255 }

set_option maxRecDepth 20000 in
/-- The event of the cancelled `DISARM` shows its queue in `THERM_RTD` of input 3, which so takes part in T_pol; the input has no reading and counts as 150 °C (R411), and the
transition is judged again (R28). -/
theorem toSafe_strayReported_dev : (strayReported.toSafe 0x52).dev = .thermalStop := by decide +kernel

set_option maxRecDepth 20000 in
/-- The same at the end of a fade. -/
theorem toSafe_strayFaded_dev : (strayFaded.toSafe 0x54).dev = .thermalStop := by decide +kernel

/-- Refutes O45, in the clause of `LSD_SAFE_ENTRY`: in `strayShutdown`, where T_pol is below every threshold, the entry into SAFE ends in THERMAL_STOP. The statement asks nothing of
the ports that the accepted commands name, which are 0 to 4 in every run (R330). -/
theorem not_emitterRuns : ¬ Obligations.EmitterRuns := by
  intro h
  obtain ⟨-, -, -, -, -, -, -, hrow, -, -, -, -, -, -, -, hsafe, -⟩ := h strayShutdown
  obtain ⟨t, ht, hdev, -⟩ := hsafe 0 rfl rfl fun T k hT => absurd ((strayCommand_tPol _).symm.trans hT) nofun
  rw [hrow 0 rfl] at ht
  obtain rfl := Host.Outcome.next.inj ht
  exact absurd (toSafe_strayReported_dev.symm.trans hdev) nofun

/-- Refutes O46, in the clause of a fade that ends with no tile ready: in `strayFade`, where T_pol is below every threshold, it ends in THERMAL_STOP and not in SAFE. -/
theorem not_fadeAndWavelengthRun : ¬ Obligations.FadeAndWavelengthRun := by
  intro h
  obtain ⟨-, -, hrow, -, -, -, -, hsafe, -, -⟩ := h strayFade
  obtain ⟨t, ht, hdev, -⟩ := hsafe 0 rfl (by decide) (by decide) rfl fun T k hT => absurd ((strayCommand_tPol _).symm.trans hT) nofun
  obtain ⟨hnone, -⟩ := hrow 0 rfl (by decide)
  rw [hnone (by decide)] at ht
  obtain rfl := Host.Outcome.next.inj ht
  exact absurd (toSafe_strayFaded_dev.symm.trans hdev) nofun

end Sys2Proof.Machine
end

section
/-!
PROOFS. Proofs/Standing.lean: what a change of the operating state leaves (R26 to R28): the housekeeping scan and the RTD converter's turn, the flags of the receive front end
and the channels that are stuck. Every operation that a transition makes is gone through once; those that make no transition leave the state and its cause too.
-/

namespace Sys2Proof.Machine

open Sys2Proof

/-- What stands through a transition: the housekeeping scan (R292), the turn of the RTD converter (R297), `RX_FLAGS` and which channels are stuck (R163). -/
structure Standing where
  hkAt : Nat
  hkNext : Nat
  refBad : Bool
  rtd : RtdConv
  rxFlags : Word
  stuck : Nat → Bool

/-- The standing of a state. -/
def State.standing (s : State) : Standing := ⟨s.aux.hkAt, s.aux.hkNext, s.aux.refBad, s.aux.rtd, s.rd Reg.RX_FLAGS, fun n => (s.chan n).stuck⟩

/-- `s` is in operating state `d` by cause `c`, with standing `x`. -/
structure Stands (d : DevState) (c : Nat) (x : Standing) (s : State) : Prop where
  dev : s.dev = d
  cause : s.sys.cause = c
  standing : s.standing = x

/-- What a state has of its own. -/
theorem State.stands (s : State) : Stands s.dev s.sys.cause s.standing s := ⟨rfl, rfl, rfl⟩

/-- The registers that stand in a row behind `RX_FLAGS` are others, whatever the index. -/
theorem Reg.above {b n : Nat} (h : Reg.RX_FLAGS < b) : b + n ≠ Reg.RX_FLAGS := by omega

namespace Stands

variable {d : DevState} {c : Nat} {x : Standing} {s t : State}

/-! ## Updates of one part of the state -/

/-- A state that agrees on the registers and on what stands. -/
theorem same {pending now freeCtr held flagNow sys ports recorder time plan arb emit rej wag rx tdc combs det sync cap aux cal boot power tap lanes streams red}
    (h : Stands d c x s) (hpart : (sys.dev, sys.cause, aux.hkAt, aux.hkNext, aux.refBad, aux.rtd, rx.chans) =
      (s.sys.dev, s.sys.cause, s.aux.hkAt, s.aux.hkNext, s.aux.refBad, s.aux.rtd, s.rx.chans)) :
    Stands d c x (State.mk s.variant pending now freeCtr s.regs held flagNow sys ports recorder time plan arb emit rej wag rx tdc combs det sync cap aux cal boot power tap
      lanes streams red) where
  dev := (congrArg (·.1) hpart).trans h.dev
  cause := (congrArg (·.2.1) hpart).trans h.cause
  standing := by
    simp only [Prod.mk.injEq] at hpart
    obtain ⟨-, -, hat, hnext, href, hrtd, hrx⟩ := hpart
    rw [← h.standing]
    simp only [State.standing, State.chan, State.rd, hat, hnext, href, hrtd, hrx]

/-- A write to another register. -/
theorem wr (h : Stands d c x s) {a : Nat} (ha : a ≠ Reg.RX_FLAGS) (v : Word) : Stands d c x (s.wr a v) where
  dev := h.dev
  cause := h.cause
  standing := by
    rw [← h.standing]
    unfold State.standing
    rw [State.rd_wr_ne _ ha.symm]
    rfl

theorem setF (h : Stands d c x s) {a : Nat} (ha : a ≠ Reg.RX_FLAGS) (hi lo v : Nat) : Stands d c x (s.setF a hi lo v) := h.wr ha _

theorem setR (h : Stands d c x s) {a : Nat} (ha : a ≠ Reg.RX_FLAGS) (v : Nat) : Stands d c x (s.setR a v) := h.wr ha _

theorem add (h : Stands d c x s) {a : Nat} (ha : a ≠ Reg.RX_FLAGS) (n : Nat) : Stands d c x (s.add a n) := h.wr ha _

theorem inc (h : Stands d c x s) {a : Nat} (ha : a ≠ Reg.RX_FLAGS) : Stands d c x (s.inc a) := h.wr ha _

theorem setBit (h : Stands d c x s) {a : Nat} (ha : a ≠ Reg.RX_FLAGS) (i : Nat) (v : Bool) : Stands d c x (s.setBit a i v) := h.wr ha _

theorem flag (h : Stands d c x s) {a : Nat} (ha : a ≠ Reg.RX_FLAGS) (i : Nat) : Stands d c x (s.flag a i) := (h.setBit ha i true).same rfl

/-- Another state and cause. -/
theorem setSys (h : Stands d c x s) {y : Sys} {d' : DevState} {c' : Nat} (hd : y.dev = d') (hc : y.cause = c') : Stands d' c' x { s with sys := y } := ⟨hd, hc, h.standing⟩

/-! ## Conditions and folds -/

theorem ite {p : Prop} [Decidable p] (ht : Stands d c x s) (he : Stands d c x t) : Stands d c x (if p then s else t) := by
  split
  · exact ht
  · exact he

theorem when {b : Bool} {g : State → State} (h : Stands d c x s) (hg : Stands d c x s → Stands d c x (g s)) : Stands d c x (s.when b g) := by
  unfold State.when
  split
  · exact hg h
  · exact h

theorem each {α : Type} {l : List α} {g : State → α → State} (h : Stands d c x s) (hg : ∀ u a, Stands d c x u → Stands d c x (g u a)) : Stands d c x (s.each l g) := by
  unfold State.each
  induction l generalizing s with
  | nil => exact h
  | cons a l ih => exact ih (hg s a h)

/-- A fold that carries a result beside the state. -/
theorem foldl_snd {α β : Type} {l : List α} {g : β × State → α → β × State} {y : β × State} (h : Stands d c x y.2)
    (hg : ∀ y a, Stands d c x y.2 → Stands d c x (g y a).2) : Stands d c x (l.foldl g y).2 := by
  induction l generalizing y with
  | nil => exact h
  | cons a l ih => exact ih (hg y a h)

/-! ## Packets, events and the recorder -/

theorem syncPort (h : Stands d c x s) (p : Nat) : Stands d c x (s.syncPort p) := (h.setF (Reg.above (by decide)) ..).setF (Reg.above (by decide)) ..

theorem formPkt (h : Stands d c x s) (p code tag : Nat) (isEvent mandatory : Bool) (status : Nat) (params : List Byte) (port : Nat) :
    Stands d c x (s.formPkt p code tag isEvent mandatory status params port) := syncPort (s := State.setPort _ _ _) (h.same rfl) p

theorem queueEvent (h : Stands d c x s) (p code tag status : Nat) (params : List Byte) : Stands d c x (s.queueEvent p code tag status params) := by
  unfold State.queueEvent
  dsimp only
  refine ite (ite (h.formPkt ..) (h.same rfl)) (ite h (ite (h.formPkt ..) ?_))
  exact (inc (s := State.setPort _ _ _) (h.same rfl) (Reg.above (by decide))).flag (by decide) 3

theorem raise (h : Stands d c x s) (code : Nat) (sc : Scope) (params : List Byte) : Stands d c x (s.raise code sc params) := h.each fun _ _ hu => hu.queueEvent ..

theorem post (h : Stands d c x s) (code arg : Nat) : Stands d c x (s.post code arg) := by
  unfold State.post
  exact ite (h.same rfl) ((inc (s := { s with recorder := { s.recorder with dropped := s.recorder.dropped + 1 } }) (h.same rfl) (by decide)).flag (by decide) 0)

theorem finish (h : Stands d c x s) (opcode status detail : Nat) : Stands d c x (s.finish opcode status detail) := by
  unfold State.finish
  split
  · exact h
  · exact queueEvent (s := { s with sys := _ }) (h.same (by rfl)) ..

theorem cancelCmds (h : Stands d c x s) (c0 c1 : Nat) : Stands d c x (s.cancelCmds c0 c1) :=
  each (s := { s with sys := { s.sys with cmds := [] } }) (h.same rfl) fun _ _ hu => hu.queueEvent ..

theorem syncRec (h : Stands d c x s) : Stands d c x s.syncRec := ((h.setF (by decide) ..).setF (by decide) ..).setR (by decide) _

theorem writeRec (h : Stands d c x s) (code arg timeUs : Nat) : Stands d c x (s.writeRec code arg timeUs) :=
  have hw : Stands d c x (s.when (decide (4096 ≤ s.recNext)) fun s' => s'.overtake (s.recNext - 4096)) := h.when fun h => h.same rfl
  setR (s := State.setRec _ _) (hw.same rfl) (by decide) _

theorem recWriter (h : Stands d c x s) : Stands d c x s.recWriter := by
  unfold State.recWriter
  split
  · exact writeRec (s := s.setRec _) (h.same rfl) ..
  · split
    · exact h
    · next p q _ =>
      have hw : Stands d c x ((s.setRec { s.recorder with queue := q }).writeRec p.code p.arg p.timeUs) := writeRec (s := s.setRec _) (h.same rfl) ..
      exact ite (writeRec (s := State.setRec _ _) (hw.same rfl) ..) hw

theorem drainRec (h : Stands d c x s) (n : Nat) : Stands d c x (State.drainRec n s) := by
  induction n generalizing s with
  | zero => exact h
  | succ n ih => exact ite h (ih h.recWriter)

theorem startFlush (h : Stands d c x s) (trig st time : Nat) : Stands d c x (s.startFlush trig st time) := by
  unfold State.startFlush
  extract_lets e slot w last new f0 first blank rec copy fl r
  have hw : Stands d c x w := (h.drainRec 64).writeRec ..
  have hr : Stands d c x r := hw.same rfl
  exact ite (syncRec (s := w.setRec _) (hw.same rfl)) (syncRec (ite hr (hr.flag (by decide) 2)))

theorem flushTrigger (h : Stands d c x s) (trig : Nat) : Stands d c x (s.flushTrigger trig) := by
  unfold State.flushTrigger
  exact ite (syncRec (s := s.setRec _) (h.same rfl)) (h.startFlush ..)

/-! ## The capture engine (R283) -/

theorem setCapSlot (h : Stands d c x s) (i : Nat) (y : CapSlot) : Stands d c x (s.setCapSlot i y) := setF (s := s.setCap _) (h.same rfl) (by decide) ..

theorem missTrigger (h : Stands d c x s) (slot time : Nat) : Stands d c x (s.missTrigger slot time) := ((h.inc (by decide)).flag (by decide) 1).setCapSlot ..

theorem trigger (h : Stands d c x s) (src detail time : Nat) : Stands d c x (s.trigger src detail time) := by
  unfold State.trigger
  extract_lets short l u y v _ w _ y' v' _
  have hu : Stands d c x u := ite (h.flag (by decide) 0) h
  have hv : Stands d c x v := hu.setCapSlot ..
  have hw : Stands d c x w := setF (s := v.setCap _) (hv.same rfl) (by decide) ..
  have hv' : Stands d c x v' := (h.setCapSlot ..).missTrigger ..
  exact ite h (ite (h.missTrigger ..) (ite (ite (hw.same rfl) hw) (ite (ite (hv'.same rfl) hv') (h.missTrigger ..))))

theorem showLosses (h : Stands d c x s) : Stands d c x s.showLosses := by
  unfold State.showLosses
  extract_lets l u v new
  have hv : Stands d c x v := (((h.setBit (by decide) ..).setBit (by decide) ..).setBit (by decide) ..).setBit (by decide) ..
  exact when (s := v.keepLosses l) (hv.same rfl) fun hw => hw.trigger ..

/-! ## Axes, heaters and the laser -/

theorem setAxis (h : Stands d c x s) (a : Nat) (y : Axis) : Stands d c x (s.setAxis a y) := ite (h.same rfl) (h.same rfl)

theorem releaseAxis (h : Stands d c x s) (a : Nat) : Stands d c x (s.releaseAxis a) := ite h ((h.setAxis ..).setF (by decide) ..)

theorem moveTo (h : Stands d c x s) (a : Nat) (target : Int) (park : Bool) : Stands d c x (s.moveTo a target park) := by
  unfold State.moveTo
  dsimp only
  split
  · exact h.setAxis ..
  · exact ite (h.setAxis ..) (h.setAxis ..)

theorem parkAxis (h : Stands d c x s) (a : Nat) (thenRelease : Bool) : Stands d c x (s.parkAxis a thenRelease) := by
  unfold State.parkAxis
  dsimp only
  refine ite h (ite (ite (h.releaseAxis a) h) (ite (h.releaseAxis a) (ite (h.setAxis ..) ?_)))
  exact (((h.setAxis ..).setF (Reg.above (by decide)) ..).moveTo ..).setF (by decide) ..

theorem hardRelease (h : Stands d c x s) (a : Nat) : Stands d c x (s.hardRelease a) :=
  (((h.setAxis ..).setF (a := Reg.WAG_STATUS) (by decide) ..).setR (Reg.above (by decide)) _).setF (Reg.above (by decide)) ..

theorem setLoop (h : Stands d c x s) (l : Nat) (y : LoopSt) : Stands d c x (s.setLoop l y) := h.same rfl

theorem dropFormer (h : Stands d c x s) (l : Nat) : Stands d c x (s.dropFormer l) := h.same rfl

theorem presetHeater (h : Stands d c x s) (i : Nat) : Stands d c x (s.presetHeater i) :=
  ((((h.setLoop ..).dropFormer _).setLoop ..).dropFormer _).setF (a := Reg.HEAT_SET i) (Reg.above (by decide)) ..

theorem heatersOn (h : Stands d c x s) : Stands d c x s.heatersOn := ite h (each (s := s.setWag _) (h.same rfl) fun _ i hu => hu.presetHeater i)

theorem heatersOff (h : Stands d c x s) : Stands d c x s.heatersOff := each (s := s.setWag _) (h.same rfl) fun _ _ hu => hu.setF (Reg.above (by decide)) ..

theorem settleWl (h : Stands d c x s) : Stands d c x s.settleWl := h.each fun _ _ hu => hu.same rfl

theorem laserOff (h : Stands d c x s) : Stands d c x s.laserOff :=
  have ho : Stands d c x ((s.setBit Reg.EMIT_STATUS 0 false).setBit Reg.EMIT_STATUS 1 false) := (h.setBit (by decide) ..).setBit (by decide) ..
  setBit (s := State.setEmit _ _) (ho.same rfl) (by decide) ..

theorem ssnHold (h : Stands d c x s) (i : Nat) (b : Bool) : Stands d c x (s.ssnHold i b) := by
  unfold State.ssnHold
  extract_lets driven u v
  have hu : Stands d c x u := h.setBit (by decide) ..
  have hv : Stands d c x v := (hu.setBit (by decide) ..).setBit (by decide) ..
  exact ite (ite hv (hv.same rfl)) hu

/-! ## Shots that are refused (R103) -/

theorem rechooseSar (h : Stands d c x s) : Stands d c x s.rechooseSar := by
  unfold State.rechooseSar
  split
  · exact h
  · exact h.same rfl

theorem modSegPts (h : Stands d c x s) (key g : Nat) (f : Pt → Pt) : Stands d c x (s.modSegPts key g f) := h.each fun _ _ hu => hu.same rfl

theorem modSeg (h : Stands d c x s) (key g : Nat) (f : SegPol → SegPol) : Stands d c x (s.modSeg key g f) := by
  unfold State.modSeg
  split
  · exact h.same rfl
  · exact h

theorem countRefused (h : Stands d c x s) (key g : Nat) : Stands d c x (s.countRefused key g) := ((h.modSegPts ..).modSeg ..).inc (by decide)

theorem refuseCuts (h : Stands d c x s) : Stands d c x s.refuseCuts :=
  have hr : Stands d c x (s.each (s.emit.cuts.filter fun q => !q.refused) fun s q => (s.countRefused q.key q.seg).unfire q) :=
    h.each fun _ _ hu => rechooseSar (s := State.setEmit _ _) ((hu.countRefused ..).same rfl)
  hr.same rfl

/-! ## Channels, bias zones and combs -/

theorem markPts (h : Stands d c x s) (n : Nat) (f : Pt → Pt) : Stands d c x (s.markPts n f) := by
  unfold State.markPts
  split
  · exact h
  · exact h.each fun _ _ hu => hu.same rfl

theorem syncChan (h : Stands d c x s) (n : Nat) : Stands d c x (s.syncChan n) :=
  have hu : Stands d c x (s.setF (Reg.RX_CH n) 10 8 (s.calcChan n)) := h.setF (Reg.above (by decide)) ..
  ite (hu.setF (Reg.above (by decide)) ..) hu

/-- A channel whose being stuck stands. -/
theorem modChan (h : Stands d c x s) (n : Nat) {f : Chan → Chan} (hf : (f (s.chan n)).stuck = (s.chan n).stuck) : Stands d c x (s.modChan n f) := by
  refine syncChan (s := s.setChan n (f (s.chan n))) ⟨h.dev, h.cause, ?_⟩ n
  rw [← h.standing]
  refine congrArg (Standing.mk _ _ _ _ _) (funext fun k => ?_)
  by_cases hk : k = n
  · subst hk
    exact (congrArg Chan.stuck (get_set_self ..)).trans hf
  · exact congrArg Chan.stuck (get_set_ne _ _ _ hk _)

theorem refreshBias (h : Stands d c x s) (k : Nat) : Stands d c x (s.refreshBias k) :=
  h.each fun _ n hu => ite ((ite hu (hu.markPts ..)).modChan n rfl) (ite (hu.modChan n rfl) (hu.syncChan n))

theorem setLossCause (h : Stands d c x s) (k bit : Nat) (on : Bool) : Stands d c x (s.setLossCause k bit on) := by
  unfold State.setLossCause
  extract_lets was u cause v _ w
  have hv : Stands d c x v := (h.setBit (Reg.above (by decide)) ..).setBit (by decide) ..
  have hw : Stands d c x w := ite (post (s := { v with rej := _ }) (hv.same rfl) ..) hv
  exact ite h (hw.each fun _ n hu => hu.syncChan n)

theorem judgeChannels (h : Stands d c x s) (k : Nat) : Stands d c x (s.judgeChannels k) := h.setLossCause ..

theorem refreshComb (h : Stands d c x s) (k : Nat) : Stands d c x (s.refreshComb k) := ((h.setF (Reg.above (by decide)) ..).refreshBias k).setLossCause ..

theorem setZone (h : Stands d c x s) (z st applied : Nat) : Stands d c x (s.setZone z st applied) :=
  each (s := State.setF _ _ _ _ _) (((h.when fun h => h.setF (Reg.above (by decide)) ..).setF (Reg.above (by decide)) ..).setF (Reg.above (by decide)) ..) fun _ k hu => hu.refreshComb k

theorem biasDown (h : Stands d c x s) : Stands d c x s.biasDown := h.each fun _ _ hu => ite (hu.setZone ..) hu

theorem biasHalt (h : Stands d c x s) : Stands d c x s.biasHalt :=
  have hz : Stands d c x (s.each (List.range 8) fun s z => if s.zoneSt z ≤ 2 then s.setZone z 0 0 else s) := h.each fun _ _ hu => ite (hu.setZone ..) hu
  hz.each fun _ _ hu => hu.same rfl

/-! ## Calibration (R428) -/

theorem setRange (h : Stands d c x s) (n r : Nat) : Stands d c x (s.setRange n r) := h.setF (Reg.above (by decide)) ..

theorem setDark (h : Stands d c x s) (k : Nat) (on : Bool) : Stands d c x (s.setDark k on) := by
  unfold State.setDark
  extract_lets y _ u
  have hu : Stands d c x u := (h.setBit (a := Reg.HIST_STATUS k) (Reg.above (by decide)) 4 on).same rfl
  exact ite (hu.setF (Reg.above (by decide)) ..) hu

theorem syncDue (h : Stands d c x s) : Stands d c x s.syncDue := h.each fun _ _ hu => (hu.setBit (Reg.above (by decide)) ..).when fun hv => hv.setF (Reg.above (by decide)) ..

theorem endRun (h : Stands d c x s) : Stands d c x s.endRun :=
  each (s := State.setF _ _ _ _ _) ((setBit (s := s.setCal _) (h.same rfl) (by decide) ..).setF (by decide) ..) fun _ _ hu => hu.setRange ..

theorem abortRun (h : Stands d c x s) : Stands d c x s.abortRun := by
  unfold State.abortRun
  split
  · exact h
  · extract_lets _ u _ v
    have hu : Stands d c x u := raise (s := State.setCal _ _) (h.endRun.same (by rfl)) ..
    have hv : Stands d c x v := ite (finish (s := u.setCal _) (hu.same rfl) ..) hu
    exact hv.syncDue

theorem abortFull (h : Stands d c x s) : Stands d c x s.abortFull := by
  unfold State.abortFull
  split
  · exact h
  · extract_lets _ u v w
    have hu : Stands d c x u := setBit (s := s.setCal _) (h.same rfl) (by decide) ..
    have hv : Stands d c x v := hu.each fun _ k ht => ht.setDark k false
    have hw : Stands d c x w := hv.each fun _ _ ht => ht.setRange ..
    exact (hw.raise ..).finish ..

theorem putCopy (h : Stands d c x s) (slot : Nat) (r : CalRec) (b : Bool) : Stands d c x (s.putCopy slot r b) := ite (h.same rfl) (h.same rfl)

theorem abortSave (h : Stands d c x s) : Stands d c x s.abortSave := by
  unfold State.abortSave
  split
  · exact h
  · extract_lets fr u _ v w
    have hu : Stands d c x u := (putCopy (s := fr.2) (h.same rfl) ..).putCopy ..
    have hv : Stands d c x v := setBit (s := u.setCal _) (hu.same rfl) (by decide) ..
    exact (hv.setF (by decide) ..).finish ..

/-! ## Tracks that waited for their column (R47) -/

theorem setTrack (h : Stands d c x s) (i : Nat) (e : List Byte) : Stands d c x (s.setTrack i e) :=
  (setF (s := { s with plan := { s.plan with tracks := s.plan.tracks.set blank64 i e } }) (h.same rfl) (by decide) ..).setF (by decide) ..

theorem endTrack (h : Stands d c x s) (i cause : Nat) : Stands d c x (s.endTrack i cause) :=
  have hu : Stands d c x ((s.setTrack i (putBytes (s.track i) 2 1 0)).inc Reg.TRK_ENDED) := (h.setTrack ..).inc (by decide)
  hu.same rfl

theorem missTrack (h : Stands d c x s) (k : TrkCfg) (i : Nat) : Stands d c x (s.missTrack k i) := by
  unfold State.missTrack
  extract_lets e n st sig e' u
  have hu : Stands d c x u := h.setTrack ..
  exact ite (hu.endTrack ..) (ite (hu.endTrack ..) hu)

theorem createTrack (h : Stands d c x s) (k : TrkCfg) (y : Meas) : Stands d c x (s.createTrack k y) := by
  unfold State.createTrack
  split
  · exact (h.inc (by decide)).flag (by decide) 3
  · extract_lets gen af rf hAz hEl e u
    have hu : Stands d c x u := (h.setTrack ..).inc (by decide)
    exact hu.same rfl

theorem updateTrack (h : Stands d c x s) (k : TrkCfg) (i : Nat) (y : Meas) (d2 : Nat) : Stands d c x (s.updateTrack k i y d2) := by
  unfold State.updateTrack
  extract_lets _ _ _ _ _ _ _ _ _ _ _ _ _ _ _ _ u v
  have hv : Stands d c x v := setTrack (s := u) (h.same rfl) ..
  exact hv.same rfl

theorem associateBy (h : Stands d c x s) (k : TrkCfg) (y : Cluster) : Stands d c x (s.associateBy k y) := by
  unfold State.associateBy
  extract_lets _ _ _ _ u _ _
  have hu : Stands d c x u := h.same rfl
  split
  · exact ite ((hu.setTrack ..).same rfl) ((hu.updateTrack ..).same rfl)
  · refine ite (hu.inc (by decide)) ?_
    split
    · exact ite (hu.same rfl) (hu.createTrack ..)
    · exact hu.createTrack ..

theorem applyDeferred (h : Stands d c x s) (y : Deferred) : Stands d c x (s.applyDeferred y) := by
  unfold State.applyDeferred
  dsimp only
  split
  · exact ite (h.updateTrack ..) (h.associateBy ..)
  · exact h.associateBy ..
  · exact ite (h.missTrack ..) h

theorem hostTrackWrite (h : Stands d c x s) (i : Nat) (e : List Byte) : Stands d c x (s.hostTrackWrite i e) := by
  unfold State.hostTrackWrite
  extract_lets old gen u
  have hu : Stands d c x u := h.setTrack ..
  exact ite (hu.same rfl) (ite (inc (s := { u with det := _ }) (hu.same rfl) (by decide)) (hu.same rfl))

theorem columnTracks (h : Stands d c x s) : Stands d c x s.columnTracks := by
  have hw : Stands d c x s.applyHostTracks := each (s := { s with plan := { s.plan with hostWrites := ⟨[]⟩ } }) (h.same rfl) fun _ _ hu => hu.hostTrackWrite ..
  have hd : Stands d c x ((s.applyHostTracks.setDetLists [] []).each (s.det.recent.filter (fun d => s.hostWaits d.idx) ++ s.det.deferred) State.applyDeferred) :=
    each (s := State.setDetLists _ _ _) (hw.same rfl) fun _ y hu => hu.applyDeferred y
  exact hd.same rfl

/-! ## Streams and zones -/

theorem setStream (h : Stands d c x s) (i : Nat) (y : Stream) : Stands d c x (s.setStream i y) := setR (s := { s with arb := _ }) (h.same rfl) (Reg.above (by decide)) _

theorem takeHolder (h : Stands d c x s) (fr i code claimant claimStream : Nat) : Stands d c x (s.takeHolder fr i code claimant claimStream) := by
  unfold State.takeHolder State.outcome State.sendOutcome
  dsimp only
  split
  · exact h
  · split
    · exact h.setStream ..
    · exact ((h.raise ..).inc (Reg.above (by decide))).setStream ..

theorem arbLeave (h : Stands d c x s) : Stands d c x s.arbLeave :=
  h.each fun _ _ hu => ite (hu.each fun _ _ hv => hv.takeHolder ..) (hu.each fun _ _ hv => hv.takeHolder ..)

theorem countLoss (h : Stands d c x s) (ch cause records bytes back : Nat) : Stands d c x (s.countLoss ch cause records bytes back) := by
  unfold State.countLoss
  extract_lets u v
  have hv : Stands d c x v := ite (ite h (h.same rfl)) (h.same rfl)
  exact ((hv.add (by decide) _).add (by decide) _).flag (by decide) 0

theorem dropOldest (h : Stands d c x s) (ch need fuel : Nat) : Stands d c x (s.dropOldest ch need fuel) := by
  induction fuel generalizing s with
  | zero => exact h
  | succ n ih =>
    unfold State.dropOldest
    dsimp only
    refine ite h ?_
    split
    · exact h
    · exact ih (countLoss (s := s.setSub _ _) (h.same rfl) ..)

theorem placePkt (h : Stands d c x s) (ch : Nat) (y : StreamPkt) : Stands d c x (s.placePkt ch y) := by
  unfold State.placePkt
  extract_lets u v w
  have hv : Stands d c x v := ite (h.dropOldest ..) h
  exact ite h (ite (hv.countLoss ..) (hv.same rfl))

theorem joinAlerts (h : Stands d c x s) {ch frame : Nat} {l : List (List Byte)} (ht : s.joinAlerts ch frame l = some t) : Stands d c x t := by
  unfold State.joinAlerts at ht
  dsimp only at ht
  split at ht
  · split at ht
    · obtain rfl := Option.some.inj ht
      exact h.same rfl
    · exact nomatch ht
  · exact nomatch ht

theorem placeAlerts (h : Stands d c x s) (frame : Nat) (l : List (List Byte)) : Stands d c x (s.placeAlerts frame l) := by
  unfold State.placeAlerts
  refine ite h (h.each fun u ch hu => ?_)
  dsimp only
  split
  · next hj => exact hu.joinAlerts hj
  · have hp : Stands d c x (u.placePkt ch { kind := 6, frame, records := l.length, body := l.flatten }) := hu.placePkt ..
    exact hp.same rfl

theorem enterZone (h : Stands d c x s) (i st : Nat) : Stands d c x (s.enterZone i st) := by
  unfold State.enterZone
  extract_lets u
  have hu : Stands d c x u := (h.setF (Reg.above (by decide)) ..).setF (Reg.above (by decide)) ..
  exact ite h (ite ((hu.flag (by decide) 0).trigger ..) (ite ((hu.flag (by decide) 1).trigger ..) hu))

theorem blindZones (h : Stands d c x s) : Stands d c x s.blindZones := by
  unfold State.blindZones
  extract_lets _ u on r
  have hr : Stands d c x r.2 := foldl_snd (y := ([], u)) (h.same rfl) fun y i hy => by
    dsimp only
    split
    · exact (hy.enterZone i 1).same rfl
    · exact (hy.enterZone i 1).same rfl
  exact hr.placeAlerts ..

/-! ## Leaving a state -/

theorem endSpan (h : Stands d c x s) : Stands d c x s.endSpan := by
  unfold State.endSpan
  extract_lets _ u _ v w
  have hw : Stands d c x w := h.same rfl
  exact hw.setF (by decide) ..

theorem endTakeover (h : Stands d c x s) : Stands d c x s.endTakeover := by
  unfold State.endTakeover
  split
  · exact h
  · exact (setF (s := State.setRed _ _) (h.same rfl) (by decide) ..).raise ..

theorem endScan (h : Stands d c x s) : Stands d c x s.endScan := by
  unfold State.endScan
  extract_lets k u gone v _ w _ e y
  have hk : Stands d c x k := columnTracks (s := s.stopScan) (h.same rfl)
  have hu : Stands d c x u := by
    show Stands d c x (match k.red.takeover with | some y => if y.resume.isSome then k.endTakeover else k | none => k)
    split
    · exact ite hk.endTakeover hk
    · exact hk
  have hv : Stands d c x v := hu.each fun _ _ ht => ht.same rfl
  have hy : Stands d c x y := rechooseSar (s := e) (hv.same rfl)
  exact ite (hy.same rfl) hy

theorem cutBoot (h : Stands d c x s) : Stands d c x s.cutBoot := by
  have hdir : ∀ {u : State}, Stands d c x u → Stands d c x u.bootDirectory.1 := fun hu =>
    setR (s := State.when _ _ _) ((when (s := State.setFlash _ _) (hu.same rfl) fun hv => hv.flag (by decide) 0).when fun hv => hv.flag (by decide) 2) (by decide) _
  exact ite h (ite (hdir h) (ite (hdir (h.same rfl)) (h.same rfl)))

theorem leave (h : Stands d c x s) (dst : DevState) (cause : Nat) : Stands d c x (s.leave dst cause) := by
  unfold State.leave
  extract_lets t1 t2 t3 t4 t5 t6
  have h1 : Stands d c x t1 := h.when fun h => h.cutBoot
  have h2 : Stands d c x t2 := h1.when fun h => h.when fun h => h.flag (by decide) 3
  have h3 : Stands d c x t3 := h2.when fun h => (h.ssnHold 2 true).arbLeave.blindZones
  have h4 : Stands d c x t4 := h3.when fun h => h.abortFull
  have h5 : Stands d c x t5 := h4.when fun h => h.each fun _ _ hu => hu.setF (Reg.above (by decide)) ..
  have h6 : Stands d c x t6 := h5.when fun h => h.endScan
  exact h6.when fun h => (h.setBit (by decide) ..).ssnHold ..

/-! ## Entering THERMAL_STOP and FAULT_HALT (R404, R414, R416) -/

theorem enterThermalStop (h : Stands d c x s) : Stands d c x s.enterThermalStop := by
  unfold State.enterThermalStop
  extract_lets t1 t2 t3 b _ t4
  have h1 : Stands d c x t1 := h.abortRun.abortFull.abortSave.endSpan
  have h2 : Stands d c x t2 := ((h1.inc (by decide)).flag (by decide) 2).post ..
  have h3 : Stands d c x t3 := (h2.each fun _ a hu => hu.parkAxis a true).biasDown
  have h4 : Stands d c x t4 := h3.same rfl
  exact ite (h4.flag (by decide) 4) (h4.flushTrigger 4)

theorem abandonFlush (h : Stands d c x s) : Stands d c x s.abandonFlush := by
  unfold State.abandonFlush
  extract_lets u v
  have hu : Stands d c x u := by
    show Stands d c x (match s.recorder.flush with | none => s | some f => s.when f.begun.isSome fun s => s.setRecSlot f.slot (f.slotAt (s.pagesDone f) true))
    split
    · exact h
    · exact h.when fun h => h.same rfl
  have hv : Stands d c x v := by
    show Stands d c x (match u.recorder.erasing with | none => u | some k => u.setRecSlot k (u.recSlot k).spoilt)
    split
    · exact hu
    · exact hu.same rfl
  exact syncRec (s := State.setRec _ _) (hv.same rfl)

theorem cutFuses (h : Stands d c x s) : Stands d c x s.cutFuses := by
  unfold State.cutFuses
  split
  · exact h
  · extract_lets fr _ u
    have hu : Stands d c x u := h.same rfl
    exact ite (setBit (s := u.setBoot _) (hu.same rfl) (by decide) ..) hu

theorem hardEffects (h : Stands d c x s) : Stands d c x s.hardEffects :=
  have hr : Stands d c x (s.each [0, 1] State.hardRelease) := h.each fun _ a hu => hu.hardRelease a
  hr.abandonFlush.abortSave.cutFuses.same rfl

theorem sendReply (h : Stands d c x s) (p opcode tag status : Nat) (params : List Byte) (port : Nat) : Stands d c x (s.sendReply p opcode tag status params port) := by
  unfold State.sendReply
  extract_lets t1 t2 t3 t4
  have h1 : Stands d c x t1 := h.formPkt ..
  have h2 : Stands d c x t2 := h1.when fun h => h.flag (by decide) 0
  have h3 : Stands d c x t3 := h2.when fun h => h.flag (by decide) 1
  have h4 : Stands d c x t4 := h3.when fun h => h.post ..
  exact h4.when fun h => h.inc (Reg.above (by decide))

theorem abortQueues (h : Stands d c x s) : Stands d c x s.abortQueues :=
  ite h (h.each fun _ p hu => each (s := State.syncPort _ _) (syncPort (s := State.setPort _ _ _) (hu.same rfl) p) fun _ _ hv => hv.sendReply ..)

theorem endAllSubs (h : Stands d c x s) : Stands d c x s.endAllSubs :=
  have he : Stands d c x (s.each s.subList fun s ch => s.setSub ch {}) := h.each fun _ _ hu => hu.same rfl
  he.same rfl

theorem discardCaptures (h : Stands d c x s) : Stands d c x s.discardCaptures := setR (s := s.setCap _) (h.same rfl) (by decide) _

theorem setMa (h : Stands d c x s) (m : Nat) (y : MaConv) : Stands d c x (s.setMa m y) := h.same rfl

theorem enterHalt (h : Stands d c x s) (cause : Nat) : Stands d c x (s.enterHalt cause) := by
  unfold State.enterHalt
  extract_lets t1 t2 t3 t4
  have h1 : Stands d c x t1 := h.abortRun.abortFull.abortSave.endSpan.refuseCuts
  have h2 : Stands d c x t2 := h1.biasHalt.abortQueues.endAllSubs.discardCaptures
  have h3 : Stands d c x t3 := h2.each fun _ _ hu => hu.setMa ..
  have h4 : Stands d c x t4 := h3.each fun _ a hu => hu.parkAxis a true
  exact ite h3.hardEffects (flushTrigger (s := t4.setRec _) (h4.same rfl) 2)

/-! ## Transitions (R27, R28) -/

/-- A transition to DEGRADED, THERMAL_STOP or FAULT_HALT takes the state and the cause, and leaves the standing. -/
theorem enter (h : Stands d c x s) {dst : DevState} (hd : dst = .degraded ∨ dst = .thermalStop ∨ dst = .faultHalt) (cause : Nat) (byCmd : Bool) :
    Stands dst cause x (s.enter dst cause byCmd) := by
  unfold State.enter
  extract_lets from_ t1 _ t2 t3 t4 t5 t6 t7 t8 t9 t10
  have h1 : Stands d c x t1 := h.leave ..
  clear_value t1
  have h2 : Stands dst cause x t2 := h1.setSys rfl rfl
  have h5 : Stands dst cause x t5 := ((((((h2.setF (by decide) ..).setF (by decide) ..).setF (by decide) ..).setR (by decide) _).setR (by decide) _).inc (by decide)).post ..
  have h8 : Stands dst cause x t8 := ((h5.raise ..).when fun h => h.cancelCmds ..).when fun h => h.laserOff
  have h9 : Stands dst cause x t9 := by
    rcases hd with rfl | rfl | rfl
    · exact h8
    · exact h8.enterThermalStop
    · exact h8.enterHalt cause
  have h10 : Stands dst cause x t10 := ite h9.heatersOn h9.heatersOff
  exact h10.settleWl

end Stands

/-! ## The standing through transitions -/

theorem State.enter_standing (s : State) {dst : DevState} (hd : dst = .degraded ∨ dst = .thermalStop ∨ dst = .faultHalt) (cause : Nat) (byCmd : Bool) :
    (s.enter dst cause byCmd).standing = s.standing := (s.stands.enter hd cause byCmd).standing

theorem State.rejudge_standing (s : State) : s.rejudge.standing = s.standing := by
  unfold State.rejudge
  extract_lets hot
  split
  · exact s.enter_standing (.inr (.inl rfl)) ..
  · split
    · exact s.enter_standing (.inl rfl) ..
    · rfl

theorem State.settle_standing (s : State) : s.settle.standing = s.standing := s.showLosses.rejudge_standing.trans s.stands.showLosses.standing

/-- In FAULT_HALT nothing is judged again. -/
theorem State.rejudge_faultHalt {s : State} (h : s.dev = .faultHalt) : s.rejudge = s := by
  unfold State.rejudge
  rw [h]
  simp [DevState.code]

/-- R404: a cause of FAULT_HALT takes the device there from every state but RESET. -/
theorem State.halt_eq {s : State} (hh : s.dev ≠ .faultHalt) (hr : s.dev ≠ .reset) (cause : Nat) : s.halt cause = s.enter .faultHalt cause false := by
  unfold State.halt State.transition
  rw [if_neg (not_or.mpr ⟨hh, hr⟩)]
  exact State.rejudge_faultHalt (s.stands.enter (.inr (.inr rfl)) cause false).dev

theorem State.hardShut_standing (s : State) : s.hardShut.standing = s.standing := by
  unfold State.hardShut
  by_cases hh : s.dev = .faultHalt
  · rw [if_pos hh]
    exact (Stands.ite s.stands s.stands.hardEffects).standing
  · rw [if_neg hh]
    by_cases hr : s.dev = .reset
    · rw [show s.halt 0x61 = s from if_pos (.inr hr)]
    · rw [s.halt_eq hh hr]
      exact s.enter_standing (.inr (.inr rfl)) ..

end Sys2Proof.Machine
end

section
/-!
PROOFS. Proofs/ThermalPolicy.lean: what the thermal policy and the housekeeping scan leave (R292, R412 to R414), and what a hard shut-down does (R416).
-/

namespace Sys2Proof.Machine

open Sys2Proof

/-- What equal standings say of the housekeeping scan. -/
theorem State.scan_of_standing {s t : State} (h : t.standing = s.standing) : t.aux.hkAt = s.aux.hkAt ∧ t.aux.hkNext = s.aux.hkNext ∧ t.aux.refBad = s.aux.refBad :=
  ⟨congrArg Standing.hkAt h, congrArg Standing.hkNext h, congrArg Standing.refBad h⟩

/-! ## The policy (R412 to R414) -/

namespace Stands

variable {d : DevState} {c : Nat} {x : Standing} {s : State}

theorem reportTpol (h : Stands d c x s) (t : Int) (src : Nat) : Stands d c x (s.reportTpol t src) := by
  unfold State.reportTpol
  extract_lets u v keep
  have hu : Stands d c x u := (h.setF (by decide) ..).setF (by decide) ..
  have hv : Stands d c x v := ite ((hu.setF (by decide) ..).setF (by decide) ..) hu
  exact hv.same rfl

theorem throttle (h : Stands d c x s) (t : Int) (src : Nat) : Stands d c x (s.throttle t src) := by
  unfold State.throttle
  extract_lets pay u th old _ v w ev
  have hu : Stands d c x u :=
    ite ((((h.setBit (by decide) ..).flag (by decide) 0).raise ..).post ..) (ite ((h.setBit (by decide) ..).raise ..) h)
  have hv : Stands d c x v := hu.same rfl
  have hw : Stands d c x w := hv.setF (by decide) ..
  exact ite (((hw.raise ..).flag (by decide) 1).post ..) (ite (hw.raise ..) hw)

theorem checkBroken (h : Stands d c x s) (i : Nat) : Stands d c x (s.checkBroken i) := ite h (((h.setBit (by decide) ..).flag (by decide) 3).post ..)

theorem trimScan (h : Stands d c x s) : Stands d c x s.trimScan := h.each fun _ _ hu => ite hu (hu.same rfl)

theorem compensate (h : Stands d c x s) (r : Nat) : Stands d c x (s.compensate r) := h.each fun _ _ hu => ite (hu.same rfl) (ite hu (hu.same rfl))

/-! ## The housekeeping scan (R292, R293) -/

theorem postOnce (h : Stands d c x s) (code idx arg : Nat) : Stands d c x (s.postOnce code idx arg) := ite h (post (s := { s with recorder := _ }) (h.same rfl) ..)

theorem checkRail (h : Stands d c x s) (j : Nat) (v : Int) : Stands d c x (s.checkRail j v) := by
  unfold State.checkRail
  extract_lets nom u w
  have hw : Stands d c x w := (h.flag (by decide) _).postOnce ..
  exact ite (ite hw (raise (s := w.setAux _) (hw.same (by rfl)) ..)) h

theorem publishInt (h : Stands d c x s) (j : Nat) (v : Int) (status : Nat) : Stands d c x (s.publishInt j v status) :=
  (((h.when fun h => h.flag (by decide) 0).setF (a := Reg.AUX_INT j) (Reg.above (by decide)) ..).setF (Reg.above (by decide)) ..).setF (Reg.above (by decide)) ..

end Stands

theorem State.thermPolicy_standing (s : State) : s.thermPolicy.standing = s.standing := by
  unfold State.thermPolicy
  split
  · rfl
  · exact (State.rejudge_standing _).trans ((s.stands.reportTpol ..).throttle ..).standing

/-- A die sensor's result changes no more of what stands than the policy does. -/
theorem State.dieResult_standing (s : State) (i : Nat) (v : Int) : (s.dieResult i v).standing = s.standing := by
  unfold State.dieResult
  extract_lets t1 t2 t3 t4
  have h2 : t2.standing = s.standing := ((s.stands.checkBroken i).when fun h => h.same rfl).standing
  have h3 : t3.standing = s.standing := by
    refine (State.thermPolicy_standing _).trans (Eq.trans ?_ h2)
    unfold State.when
    split
    · exact t2.hardShut_standing
    · rfl
  have h4 : t4.standing = s.standing := (t3.stands.when fun h => h.syncDue).standing.trans h3
  exact (t4.stands.when fun h => h.trimScan).standing.trans h4

/-- R292: the scan moves on 60 µs and one channel, and takes what is found of the reference. -/
theorem State.hkPublish_scan (s : State) (v : Int) (off : Bool) :
    (s.hkPublish v off).aux.hkAt = s.aux.hkAt + 60000 ∧ ((s.hkPublish v off).aux.hkNext = if s.aux.hkNext = 35 then 0 else s.aux.hkNext + 1) ∧
      (s.hkPublish v off).aux.refBad = off := by
  unfold State.hkPublish
  extract_lets j _ t1 t2 t3
  have h1 : t1.aux.hkAt = s.aux.hkAt + 60000 ∧ (t1.aux.hkNext = if s.aux.hkNext = 35 then 0 else s.aux.hkNext + 1) ∧ t1.aux.refBad = off := ⟨rfl, rfl, rfl⟩
  have h3 : Stands t1.dev t1.sys.cause t1.standing t3 := ((Stands.ite (t1.stands.flag (by decide) 5) t1.stands).publishInt ..).checkRail ..
  have hscan : ∀ u, Stands t1.dev t1.sys.cause t1.standing u → u.aux.hkAt = s.aux.hkAt + 60000 ∧
      (u.aux.hkNext = if s.aux.hkNext = 35 then 0 else s.aux.hkNext + 1) ∧ u.aux.refBad = off := fun u hu => by
    obtain ⟨hat, hnext, href⟩ := State.scan_of_standing hu.standing
    rw [hat, hnext, href]
    exact h1
  exact hscan _ (Stands.ite (Stands.inc (s := State.setAux _ _) (h3.same (by rfl)) (by decide)) h3)

/-! ## A hard shut-down (R416) -/

/-- Changes of registers, ports and flags one after the other are such a change. -/
theorem State.portFrame_trans {s t u : State} (h : ∃ r q f, t = { s with regs := r, ports := q, flagNow := f }) (g : ∃ r q f, u = { t with regs := r, ports := q, flagNow := f }) :
    ∃ r q f, u = { s with regs := r, ports := q, flagNow := f } := by
  obtain ⟨r, q, f, rfl⟩ := h
  obtain ⟨r', q', f', rfl⟩ := g
  exact ⟨r', q', f', rfl⟩

/-- An event queued for whatever port changes registers, ports and flags alone. -/
theorem State.queueEvent_frame (s : State) (p code tag status : Nat) (params : List Byte) :
    ∃ r q f, s.queueEvent p code tag status params = { s with regs := r, ports := q, flagNow := f } := by
  have hform : ∃ r q f, s.formPkt p code tag true true status params = { s with regs := r, ports := q, flagNow := f } := by
    obtain ⟨r, q, h⟩ := s.formPkt_frame p code tag true true status params p
    exact ⟨r, q, s.flagNow, h⟩
  unfold State.queueEvent
  dsimp only
  split
  · split
    · exact hform
    · exact (s.setPort_events p _).frame
  · split
    · exact (State.Events.refl s).frame
    · split
      · obtain ⟨r, q, h⟩ := s.formPkt_frame p code tag true false status params p
        exact ⟨r, q, s.flagNow, h⟩
      · have hinc : ∀ t : State, ∃ r q f, t.inc (Reg.PORT_EVT_DROP p) = { t with regs := r, ports := q, flagNow := f } := fun t => ⟨_, t.ports, t.flagNow, rfl⟩
        exact State.portFrame_trans (State.portFrame_trans (s.setPort_events p _).frame (hinc _)) (State.flag_events _ 3).frame

/-- The end of a running command takes it from the list, and is reported. -/
theorem State.finish_frame (s : State) (opcode status detail : Nat) :
    ∃ r q f l, s.finish opcode status detail = { s with regs := r, ports := q, flagNow := f, sys := { s.sys with running := l } } := by
  unfold State.finish
  split
  · exact ⟨s.regs, s.ports, s.flagNow, s.sys.running, rfl⟩
  · next e _ =>
    obtain ⟨r, q, f, h⟩ := State.queueEvent_frame { s with sys := { s.sys with running := s.sys.running.filter (· != e) } } e.port Ev.COMMAND_DONE e.tag status
      (leBytes 2 e.opcode ++ leBytes 2 0 ++ leBytes 4 detail)
    exact ⟨r, q, f, _, h⟩

theorem State.finish_part (s : State) (opcode status detail : Nat) :
    (s.finish opcode status detail).cal = s.cal ∧ (s.finish opcode status detail).recorder = s.recorder ∧ (s.finish opcode status detail).boot = s.boot := by
  obtain ⟨r, q, f, l, h⟩ := s.finish_frame opcode status detail
  rw [h]
  exact ⟨rfl, rfl, rfl⟩

theorem State.putCopy_part (s : State) (slot : Nat) (r : CalRec) (ok : Bool) : (s.putCopy slot r ok).recorder = s.recorder ∧ (s.putCopy slot r ok).boot = s.boot := by
  cases ok <;> exact ⟨rfl, rfl⟩

/-- No save goes on, and the recorder and the boot state stand. -/
theorem State.abortSave_effect (s : State) : s.abortSave.cal.save = none ∧ s.abortSave.recorder = s.recorder ∧ s.abortSave.boot = s.boot := by
  unfold State.abortSave
  split
  · next h => exact ⟨h, rfl, rfl⟩
  · extract_lets fr u _ v w
    have hu : u.recorder = s.recorder ∧ u.boot = s.boot :=
      ⟨(State.putCopy_part ..).1.trans (State.putCopy_part ..).1, (State.putCopy_part ..).2.trans (State.putCopy_part ..).2⟩
    have hsave : w.cal.save = none := congrArg Cal.save ((State.setF_cal ..).trans ((State.setBit_cal ..).trans (State.setCal_cal ..)))
    have hrec : w.recorder = u.recorder := (State.setF_recorder ..).trans ((State.setBit_recorder ..).trans (State.setCal_recorder ..))
    have hboot : w.boot = u.boot := (State.setF_boot ..).trans ((State.setBit_boot ..).trans (State.setCal_boot ..))
    obtain ⟨hcal, hrec', hboot'⟩ := w.finish_part Op.CAL_SAVE Sts.INTERNAL_ERROR 0
    rw [hcal, hrec', hboot']
    exact ⟨hsave, hrec.trans hu.1, hboot.trans hu.2⟩

/-- No enrolment goes on, and the recorder and the calibration stand. -/
theorem State.cutFuses_effect (s : State) : s.cutFuses.boot.enroll = none ∧ s.cutFuses.recorder = s.recorder ∧ s.cutFuses.cal = s.cal := by
  unfold State.cutFuses
  split
  · next h => exact ⟨h, rfl, rfl⟩
  · dsimp only
    split <;> exact ⟨rfl, rfl, rfl⟩

/-- R416: what a hard shut-down leaves under way: no flush, no save and no enrolment. -/
theorem State.hardEffects_effect (s : State) :
    s.hardEffects.sys.hardStop = true ∧ s.hardEffects.recorder.flush = none ∧ s.hardEffects.cal.save = none ∧ s.hardEffects.boot.enroll = none := by
  unfold State.hardEffects
  extract_lets u v _
  obtain ⟨hsave, hrec, -⟩ := (u.abandonFlush).abortSave_effect
  obtain ⟨henroll, hrec', hcal⟩ := u.abandonFlush.abortSave.cutFuses_effect
  have hflush : u.abandonFlush.recorder.flush = none := rfl
  exact ⟨rfl, (congrArg _ (hrec'.trans hrec)).trans hflush, (congrArg _ hcal).trans hsave, henroll⟩

/-- A part of the state that no update of a fold changes stands through the fold. -/
theorem State.each_part {α β : Type} {part : State → β} {g : State → α → State} (hg : ∀ u a, part (g u a) = part u) (s : State) (l : List α) :
    part (s.each l g) = part s := by
  unfold State.each
  induction l generalizing s with
  | nil => rfl
  | cons a l ih => exact (ih _).trans (hg s a)

/-- The heaters and the wavelength times leave the recorder and the supervisor's state. -/
theorem State.heatersOff_part (s : State) : (s.heatersOff.recorder, s.heatersOff.sys) = (s.recorder, s.sys) := by
  unfold State.heatersOff
  refine (State.each_part (part := fun u => (u.recorder, u.sys)) (fun u i => ?_) _ _).trans ?_
  · rw [State.setF_recorder, State.setF_sys]
  · rw [State.setWag_recorder, State.setWag_sys]

theorem State.presetHeater_part (s : State) (i : Nat) : ((s.presetHeater i).recorder, (s.presetHeater i).sys) = (s.recorder, s.sys) := by
  simp only [State.presetHeater, State.dropFormer, State.setLoop, State.setF_recorder, State.setWag_recorder, State.setF_sys, State.setWag_sys]

theorem State.heatersOn_part (s : State) : (s.heatersOn.recorder, s.heatersOn.sys) = (s.recorder, s.sys) := by
  unfold State.heatersOn
  split
  · rfl
  · exact State.each_part (part := fun u => (u.recorder, u.sys)) State.presetHeater_part ..

theorem State.settleWl_part (s : State) : (s.settleWl.recorder, s.settleWl.sys) = (s.recorder, s.sys) := by
  refine State.each_part (part := fun u => (u.recorder, u.sys)) ?_ _ _
  exact fun _ _ => rfl

theorem State.enterHalt_hard (s : State) : ∃ u : State, s.enterHalt 0x61 = u.hardEffects := by
  unfold State.enterHalt
  exact ⟨_, if_pos rfl⟩

/-- R416: FAULT_HALT by a hard shut-down: no flush goes on, and the stop is on record. -/
theorem State.enter_hard (s : State) (byCmd : Bool) :
    (s.enter .faultHalt 0x61 byCmd).sys.hardStop = true ∧ (s.enter .faultHalt 0x61 byCmd).recorder.flush = none := by
  unfold State.enter
  extract_lets from_ t1 _ t2 t3 t4 t5 t6 t7 t8 t9 t10
  have h9 : t9.sys.hardStop = true ∧ t9.recorder.flush = none := by
    obtain ⟨u, hu⟩ := t8.enterHalt_hard
    obtain ⟨hstop, hflush, -⟩ := u.hardEffects_effect
    rw [show t9 = u.hardEffects from hu]
    exact ⟨hstop, hflush⟩
  have h10 : (t10.recorder, t10.sys) = (t9.recorder, t9.sys) := by
    show ((if t9.heatersRun then t9.heatersOn else t9.heatersOff : State).recorder, (if t9.heatersRun then t9.heatersOn else t9.heatersOff : State).sys) = _
    split
    · exact t9.heatersOn_part
    · exact t9.heatersOff_part
  obtain ⟨hrec, hsys⟩ := Prod.mk.inj (t10.settleWl_part.trans h10)
  rw [hrec, hsys]
  exact h9

end Sys2Proof.Machine
end

section
/-!
PROOFS. Proofs/Converters.lean: the monitor converters (R107, R118, R289 to R302) and the trip comparators (R416), row by row, with the statement about them.
-/

namespace Sys2Proof.Machine

open Sys2Proof

/-! ## The SAR group (R294, R295) -/

theorem execSarShotTrigger_eq {s : State} {q : SarTrig} {l : List SarTrig} (h : s.emit.sarNext = q :: l) :
    execSarShotTrigger s = .next (if q.at_ ≤ s.now then State.sarTrigger { s with emit := { s.emit with sarNext := l } } q else s) := by
  unfold execSarShotTrigger
  rw [h]
  rfl

/-- The trigger that is due is taken from the list. -/
theorem execSarShotTrigger_due {s : State} {q : SarTrig} {l : List SarTrig} (h : s.emit.sarNext = q :: l) (hdue : q.at_ ≤ s.now) :
    execSarShotTrigger s = .next (State.sarTrigger { s with emit := { s.emit with sarNext := l } } q) := by
  rw [execSarShotTrigger_eq h, if_pos hdue]

/-- A group at rest converts for the trigger. -/
theorem State.sarTrigger_idle {s : State} (h : s.aux.sar = none) (q : SarTrig) : s.sarTrigger q = s.startSar (some q) true [q] := by
  unfold State.sarTrigger
  rw [h]

/-- A trigger that comes within 250 ns of the sample shares it. -/
theorem State.sarTrigger_share {s : State} {c : SarConv} (h : s.aux.sar = some c) (hd : s.aux.deferred = []) (hnow : s.now < c.at_ + 258) (q : SarTrig) :
    s.sarTrigger q = (s.setAux { s.aux with sar := some { c with own := none, users := c.users ++ [q] } }).inc Reg.SAR_SHARE_COUNT := by
  unfold State.sarTrigger
  rw [h]
  dsimp only
  rw [if_neg (not_not.mpr hd), if_pos hnow]

/-- A later one is deferred. -/
theorem State.sarTrigger_defer {s : State} {c : SarConv} (h : s.aux.sar = some c) (hd : s.aux.deferred = []) (hnow : c.at_ + 258 ≤ s.now) (q : SarTrig) :
    s.sarTrigger q = ((s.setAux { s.aux with deferred := [q] }).inc Reg.SAR_DEFER_COUNT).flag Reg.AUX_FLAGS 1 := by
  unfold State.sarTrigger
  rw [h]
  dsimp only
  rw [if_neg (not_not.mpr hd), if_neg (Nat.not_lt.mpr hnow)]

theorem execSarControlRequest_eq {s : State} {p0 : Nat} (h : s.wag.powerAt = some p0) (hdue : p0 + 5000 * s.wag.ctrlN ≤ s.now + 1000) (haxes : s.axesOff = false) :
    let u : State := { s with wag := { s.wag with ctrlN := s.wag.ctrlN + 2 } }
    execSarControlRequest s = .next (if u.aux.sar.isSome = true ∨ u.shotTriggerNow = true then u else u.startSar none false []) := by
  unfold execSarControlRequest
  rw [h]
  dsimp only
  rw [if_pos ⟨hdue, by simp [haxes]⟩]
  simp only [Bool.or_eq_true]
  rfl

/-- A group at rest, with no trigger in the same cycle, converts for the tick. -/
theorem execSarControlRequest_starts {s : State} {p0 : Nat} (h : s.wag.powerAt = some p0) (hdue : p0 + 5000 * s.wag.ctrlN ≤ s.now + 1000) (haxes : s.axesOff = false)
    (hidle : s.aux.sar = none) (hshot : s.shotTriggerNow = false) :
    execSarControlRequest s = .next (State.startSar { s with wag := { s.wag with ctrlN := s.wag.ctrlN + 2 } } none false []) := by
  refine (execSarControlRequest_eq h hdue haxes).trans (congrArg Host.Outcome.next (if_neg (not_or.mpr ⟨?_, Bool.eq_false_iff.mp hshot⟩)))
  show ¬ s.aux.sar.isSome = true
  rw [hidle]
  exact Bool.false_ne_true

theorem execSarConversionDone_idle {s : State} (h : s.aux.sar = none) (m0 m1 m2 m3 : Int) : execSarConversionDone m0 m1 m2 m3 s = .next s := by
  unfold execSarConversionDone
  rw [h]

theorem execSarConversionDone_early {s : State} {c : SarConv} (h : s.aux.sar = some c) (hnow : s.now < c.at_ + 500) (m0 m1 m2 m3 : Int) :
    execSarConversionDone m0 m1 m2 m3 s = .next s := by
  unfold execSarConversionDone
  rw [h]
  exact congrArg _ (if_pos hnow)

/-- R294: what a conversion for a control tick leaves: no conversion, the codes on show, the sample for the ticks. -/
def State.sarShown (s : State) (c : SarConv) (m0 m1 m2 m3 : Int) : State :=
  (((s.setAux { s.aux with sar := none }).setR Reg.SAR_LAST_ANG (wrapNat 16 (sarCode (-32768) m0) + 65536 * wrapNat 16 (sarCode (-32768) m1))).setR Reg.SAR_LAST_MON
    ((sarCode 0 m2).toNat + 65536 * (sarCode 0 m3).toNat)).setWag { s.wag with sample := some (sarCode (-32768) m0, sarCode (-32768) m1, c.at_ + 500) }

theorem execSarConversionDone_control {s : State} {c : SarConv} (h : s.aux.sar = some c) (hnow : c.at_ + 500 ≤ s.now) (husers : c.users = []) (hown : c.own = none)
    (hcap : s.capOn = false) (hd : s.aux.deferred = []) (m0 m1 m2 m3 : Int) : execSarConversionDone m0 m1 m2 m3 s = .next (s.sarShown c m0 m1 m2 m3) := by
  have hcap' : (s.sarShown c m0 m1 m2 m3).capOn = false := by
    refine Eq.trans ?_ hcap
    have hrd : (s.sarShown c m0 m1 m2 m3).rd Reg.CAP_STATUS = s.rd Reg.CAP_STATUS := (State.rd_setR_ne _ (by decide) _).trans (State.rd_setR_ne _ (by decide) _)
    unfold State.capOn State.capSt State.f
    rw [hrd]
  unfold execSarConversionDone
  rw [h]
  refine congrArg Host.Outcome.next ((if_neg (Nat.not_lt.mpr hnow)).trans ?_)
  extract_lets done cx cy a b angles _ t1 t2 _ t3 isLate t4 t5 t6 t7
  have h3 : t3 = s.sarShown c m0 m1 m2 m3 := rfl
  have h4 : t4 = t3 := by simp only [t4, husers, List.any_nil, Bool.false_eq_true, if_false]
  have h5 : t5 = t4 := by simp only [t5, husers, State.each, List.foldl_nil]
  have h6 : t6 = t5 := by simp only [t6, hown]
  have h7 : t7 = s.sarShown c m0 m1 m2 m3 := by
    have h6' : t6 = s.sarShown c m0 m1 m2 m3 := h6.trans (h5.trans (h4.trans h3))
    exact (if_neg fun hc => Bool.false_ne_true (hcap'.symm.trans (h6' ▸ hc.1))).trans h6'
  have hd7 : t7.aux.deferred = [] := by rw [h7]; exact hd
  rw [hd7, h7]

/-- A code of MF2 or MF3 has 15 bits. -/
theorem sarCode_toNat_le (v : Int) : (sarCode 0 v).toNat ≤ 32767 := by
  unfold sarCode clampInt
  split
  · decide
  · split
    · decide
    · omega

theorem wrapNat_lt (n : Nat) (x : Int) : wrapNat n x < 2 ^ n := by
  have hpos : (0 : Int) < 2 ^ n := by positivity
  have hlt := Int.emod_lt_of_pos x hpos
  have hcast : ((2 ^ n : Nat) : Int) = 2 ^ n := by norm_cast
  unfold wrapNat
  omega

/-- What is shown, by its registers. -/
theorem State.sarShown_regs (s : State) (c : SarConv) (m0 m1 m2 m3 : Int) :
    (s.sarShown c m0 m1 m2 m3).r Reg.SAR_LAST_ANG = wrapNat 16 (sarCode (-32768) m0) + 65536 * wrapNat 16 (sarCode (-32768) m1) ∧
      (s.sarShown c m0 m1 m2 m3).r Reg.SAR_LAST_MON = (sarCode 0 m2).toNat + 65536 * (sarCode 0 m3).toNat ∧
      ∀ a, a ≠ Reg.SAR_LAST_ANG → a ≠ Reg.SAR_LAST_MON → (s.sarShown c m0 m1 m2 m3).rd a = s.rd a := by
  refine ⟨?_, ?_, fun a hang hmon => (State.rd_setR_ne _ hmon _).trans (State.rd_setR_ne _ hang _)⟩
  · have h0 := wrapNat_lt 16 (sarCode (-32768) m0)
    have h1 := wrapNat_lt 16 (sarCode (-32768) m1)
    refine (congrArg BitVec.toNat (State.rd_setR_ne _ (by decide) _)).trans ((State.r_setR ..).trans (Nat.mod_eq_of_lt ?_))
    omega
  · have h2 := sarCode_toNat_le m2
    have h3 := sarCode_toNat_le m3
    refine (State.r_setR ..).trans (Nat.mod_eq_of_lt ?_)
    omega

/-! ## MA0 to MA2 (R289 to R293) -/

theorem execMaWord_idle {s : State} {m : Fin 3} (h : (s.ma m).at_ = none) (v : Filtered) : execMaWord m v s = .next s := by
  unfold execMaWord
  dsimp only
  rw [h]

/-- The input of converter `m` under the holds that its configuration asks for (R299). -/
def State.maInput (s : State) (m : Nat) (v : Filtered) : Int := v.pick (s.bit (Reg.MA_CFG m) 4) (s.bit (Reg.MA_CFG m) 5)

/-- R289: an external channel is shown with its code, its condition and one word more. -/
def State.publishRes (s : State) (c : Nat) (q : Int × Bool) (status : Nat) : State :=
  let u : State := if q.2 then s.flag Reg.AUX_FLAGS 0 else s
  let w := (u.setF (Reg.AUX_RES c) 23 0 (wrapNat 24 q.1)).setF (Reg.AUX_RES c) 25 24 status
  w.setF (Reg.AUX_RES c) 31 26 (w.f (Reg.AUX_RES c) 31 26 + 1)

/-- What a word that is due does, by the kind of its channel. -/
theorem execMaWord_due {s : State} {m : Fin 3} {t0 : Nat} (h : (s.ma m).at_ = some t0) (hruns : s.maRuns m = true)
    (hdue : t0 + (if (s.ma m).settled then 1 else s.maOrder m) * s.maWord8 m ≤ 8 * s.now) (v : Filtered) :
    ∃ next status status', execMaWord m v s = .next (
      if s.maCode m (s.ma m).slot ≤ 0x17 then
        (s.setMa m next).publishRes (s.maCode m (s.ma m).slot) (maQuant (s.maInput m v) (s.f (Reg.MA_CFG m) 10 8)) status
      else
        ((s.setMa m next).publishInt (s.maCode m (s.ma m).slot - 0x20) (s.maInput m v) status').checkRail (s.maCode m (s.ma m).slot - 0x20) (s.maInput m v)) := by
  unfold execMaWord
  extract_lets x w n c last blanked a
  rw [show x.at_ = some t0 from h]
  dsimp only
  rw [if_neg (not_or.mpr ⟨not_not.mpr hruns, Nat.not_lt.mpr hdue⟩)]
  exact ⟨_, _, _, congrArg Host.Outcome.next (if_congr Iff.rfl rfl rfl)⟩

/-- What an external channel shows, and what is left. -/
theorem State.publishRes_regs (s : State) {c : Nat} (hc : c ≤ 0x17) (q : Int × Bool) (status : Nat) :
    (s.publishRes c q status).f (Reg.AUX_RES c) 23 0 = wrapNat 24 q.1 ∧
      (s.publishRes c q status).f (Reg.AUX_RES c) 31 26 = (s.f (Reg.AUX_RES c) 31 26 + 1) % 64 ∧
      ∀ a, a ≠ Reg.AUX_RES c → a ≠ Reg.AUX_FLAGS → (s.publishRes c q status).rd a = s.rd a := by
  unfold State.publishRes
  extract_lets u w
  have hu : ∀ a, a ≠ Reg.AUX_FLAGS → u.rd a = s.rd a := fun a ha => by
    cases hq : q.2 with
    | false => simp only [u, hq, Bool.false_eq_true, if_false]
    | true => simpa only [u, hq, if_true] using State.rd_flag_ne _ ha _
  have hcount : w.f (Reg.AUX_RES c) 31 26 = s.f (Reg.AUX_RES c) 31 26 := by
    have hne : Reg.AUX_RES c ≠ Reg.AUX_FLAGS := by unfold Reg.AUX_RES Reg.AUX_FLAGS; omega
    rw [State.f_setF_off _ _ (by decide) (by decide) (by decide), State.f_setF_off _ _ (by decide) (by decide) (by decide)]
    unfold State.f
    rw [hu _ hne]
  refine ⟨?_, ?_, fun a ha hf => ?_⟩
  · rw [State.f_setF_off _ _ (by decide) (by decide) (by decide), State.f_setF_off _ _ (by decide) (by decide) (by decide),
      State.f_setF_self _ _ (by decide) (by decide)]
    exact Nat.mod_eq_of_lt (wrapNat_lt 24 q.1)
  · rw [State.f_setF_self _ _ (by decide) (by decide), hcount]
    rfl
  · rw [State.rd_setF_ne _ ha, State.rd_setF_ne _ ha, State.rd_setF_ne _ ha, hu a hf]

/-- What an internal channel shows. -/
theorem State.publishInt_regs (s : State) (j : Nat) (v : Int) (status : Nat) :
    (s.publishInt j v status).f (Reg.AUX_INT j) 15 0 = intValue j v % 65536 ∧
      (s.publishInt j v status).f (Reg.AUX_INT j) 31 24 = (s.f (Reg.AUX_INT j) 31 24 + 1) % 256 := by
  unfold State.publishInt
  extract_lets a u
  have hu : u.f a 31 24 = s.f a 31 24 := by
    have hne : Reg.AUX_INT j ≠ Reg.AUX_FLAGS := by unfold Reg.AUX_INT Reg.AUX_FLAGS; omega
    unfold State.f
    refine congrArg (bitsOf · 31 24) ?_
    simp only [u, State.when]
    split
    · exact State.rd_flag_ne _ hne _
    · rfl
  refine ⟨?_, ?_⟩
  · rw [State.f_setF_off _ _ (by decide) (by decide) (by decide), State.f_setF_off _ _ (by decide) (by decide) (by decide),
      State.f_setF_self _ _ (by decide) (by decide)]
    rfl
  · rw [State.f_setF_self _ _ (by decide) (by decide), hu]
    rfl

/-- A recorder entry touches the registers of the recorder alone. -/
theorem State.rd_post (s : State) {a : Nat} (hd : a ≠ Reg.REC_DROPPED) (hf : a ≠ Reg.REC_FLAGS) (code arg : Nat) : (s.post code arg).rd a = s.rd a := by
  unfold State.post
  split
  · rfl
  · exact (State.rd_flag_ne _ hf _).trans (State.rd_inc_ne _ hd)

theorem State.rd_postOnce (s : State) {a : Nat} (hd : a ≠ Reg.REC_DROPPED) (hf : a ≠ Reg.REC_FLAGS) (code idx arg : Nat) : (s.postOnce code idx arg).rd a = s.rd a := by
  unfold State.postOnce
  split
  · rfl
  · exact State.rd_post _ hd hf ..

/-- The check of a rail leaves what is on show (R293). -/
theorem State.rd_checkRail (s : State) (j : Nat) (v : Int) : (s.checkRail j v).rd (Reg.AUX_INT j) = s.rd (Reg.AUX_INT j) := by
  unfold State.checkRail
  extract_lets nom u w
  split
  · next hj =>
    obtain ⟨-, hj9, -⟩ := hj
    have hsup : Reg.AUX_INT j ≠ Reg.AUX_SUP_FLAGS := by unfold Reg.AUX_INT Reg.AUX_SUP_FLAGS; omega
    have hdrop : Reg.AUX_INT j ≠ Reg.REC_DROPPED := by unfold Reg.AUX_INT Reg.REC_DROPPED; omega
    have hrec : Reg.AUX_INT j ≠ Reg.REC_FLAGS := by unfold Reg.AUX_INT Reg.REC_FLAGS; omega
    have hport : Reg.AUX_INT j < 0x00100000 := by unfold Reg.AUX_INT; omega
    have hw : w.rd (Reg.AUX_INT j) = s.rd (Reg.AUX_INT j) := (State.rd_postOnce _ hdrop hrec ..).trans (State.rd_flag_ne _ hsup _)
    split
    · exact hw
    · exact ((State.raise_events _ Ev.SUPPLY_RANGE _).rd _ (noPortReg (.inl hport))).trans hw
  · rfl

/-! ## The housekeeping scan and the RTD converter (R292, R297) -/

theorem execHousekeepingWord_due {s : State} (hdue : s.aux.hkAt + 60000 ≤ s.now) (hr : s.dev ≠ .reset) (v : Int) (off : Bool) :
    execHousekeepingWord v off s = .next (if 10 ≤ s.aux.hkNext then (s.hkPublish v off).dieResult (s.aux.hkNext - 10) v else (s.hkPublish v off).thermPolicy) := by
  unfold execHousekeepingWord
  exact congrArg Host.Outcome.next (if_neg (not_or.mpr ⟨Nat.not_lt.mpr hdue, hr⟩))

/-- What follows a word of the scan leaves the scan. -/
theorem State.afterWord_scan (s : State) (i k : Nat) (v : Int) :
    let t := if 10 ≤ k then s.dieResult i v else s.thermPolicy
    t.aux.hkAt = s.aux.hkAt ∧ t.aux.hkNext = s.aux.hkNext ∧ t.aux.refBad = s.aux.refBad := by
  dsimp only
  split
  · exact State.scan_of_standing (s.dieResult_standing i v)
  · exact State.scan_of_standing s.thermPolicy_standing

/-- The first phase of a turn ends. -/
theorem State.rtdPhase_first {s : State} {d : Nat} (h : s.aux.rtd.at_ = some d) (hruns : s.rtdRuns = true) (hdue : d + s.rtdPhase2 ≤ 2 * s.now) (hp : s.aux.rtd.phase = 0)
    (v : Int) (i : Nat) : s.rtdPhase v i =
      (none, s.setAux { s.aux with rtd := { s.aux.rtd with
        phase := 1, at_ := some (d + s.rtdPhase2), first := some (v, i), blanked := s.aux.rtd.blanked || s.rtdBlanked d } }) := by
  unfold State.rtdPhase
  extract_lets x
  rw [show x.at_ = some d from h]
  refine (if_neg (not_or.mpr ⟨not_not.mpr hruns, Nat.not_lt.mpr hdue⟩)).trans ?_
  exact if_pos hp

/-- Which inputs are on depends on their connections. -/
theorem State.nextInput_congr {s t : State} (h : ∀ q, q < 8 → t.rd (Reg.RTD_CFG q) = s.rd (Reg.RTD_CFG q)) (r : Nat) : t.nextInput r = s.nextInput r := by
  unfold State.nextInput State.f
  refine List.find?_congr fun q hq => ?_
  obtain ⟨k, -, rfl⟩ := List.mem_map.mp hq
  rw [h _ (Nat.mod_lt _ (by decide))]

/-- The turn of the next input begins with its first phase (R297). -/
theorem State.nextTurn_begins {s : State} {r q : Nat} (h : s.nextInput r = some q) (t : Nat) :
    (s.nextTurn r t).aux.rtd = { input := q, at_ := some t, live := s.rtdSt q != 1 } := by
  unfold State.nextTurn
  rw [h]
  rfl

/-- The results of an input stand apart from the connections. -/
theorem State.rd_publishRtd (s : State) (r q : Nat) (v1 : Int) (i1 : Nat) (v2 : Int) (i2 : Nat) : (s.publishRtd r v1 i1 v2 i2).rd (Reg.RTD_CFG q) = s.rd (Reg.RTD_CFG q) := by
  have hres : Reg.RTD_CFG q ≠ Reg.RTD_RES r := by unfold Reg.RTD_CFG Reg.RTD_RES; omega
  have htemp : Reg.RTD_CFG q ≠ Reg.RTD_TEMP r := by unfold Reg.RTD_CFG Reg.RTD_TEMP; omega
  have hflags : Reg.RTD_CFG q ≠ Reg.AUX_FLAGS := by unfold Reg.RTD_CFG Reg.AUX_FLAGS; omega
  have hset : ∀ (u : State) (st temp : Nat), (u.setRtd r st temp).rd (Reg.RTD_CFG q) = u.rd (Reg.RTD_CFG q) := fun u st temp =>
    (State.rd_setF_ne _ htemp ..).trans (State.rd_setF_ne _ htemp ..)
  unfold State.publishRtd
  extract_lets fr u nominal ohm w
  have hw : w.rd (Reg.RTD_CFG q) = s.rd (Reg.RTD_CFG q) := (State.rd_setF_ne _ htemp ..).trans (State.rd_setF_ne _ hres ..)
  split
  · exact (State.rd_flag_ne _ hflags _).trans ((hset ..).trans hw)
  · exact (hset ..).trans hw

/-- The second phase of a turn ends: the next input's turn begins, whatever is published. -/
theorem State.rtdPhase_second {s : State} {d q : Nat} (h : s.aux.rtd.at_ = some d) (hruns : s.rtdRuns = true) (hdue : d + s.rtdPhase2 ≤ 2 * s.now) (hp : s.aux.rtd.phase ≠ 0)
    (hq : s.nextInput s.aux.rtd.input = some q) (v : Int) (i : Nat) :
    ∃ live, (s.rtdPhase v i).2.aux.rtd = { input := q, at_ := some (d + s.rtdPhase2), live } := by
  have hturn : ∀ u : State, (∀ q, q < 8 → u.rd (Reg.RTD_CFG q) = s.rd (Reg.RTD_CFG q)) →
      ∃ live, (u.nextTurn s.aux.rtd.input (d + s.rtdPhase2)).aux.rtd = { input := q, at_ := some (d + s.rtdPhase2), live } := fun u hu =>
    ⟨_, State.nextTurn_begins ((State.nextInput_congr hu _).trans hq) _⟩
  unfold State.rtdPhase
  extract_lets x
  rw [show x.at_ = some d from h]
  dsimp only
  rw [if_neg (not_or.mpr ⟨not_not.mpr hruns, Nat.not_lt.mpr hdue⟩), if_neg (show ¬ x.phase = 0 from hp)]
  split
  · split
    · refine hturn _ fun q _ => ?_
      have htemp : Reg.RTD_CFG q ≠ Reg.RTD_TEMP x.input := by unfold Reg.RTD_CFG Reg.RTD_TEMP; omega
      show State.rd (if s.rtdSt x.input = 0 ∨ s.rtdSt x.input = 2 then s.setF (Reg.RTD_TEMP x.input) 18 16 3 else s) _ = _
      split
      · exact State.rd_setF_ne _ htemp ..
      · rfl
    · split
      · exact hturn _ fun q _ => State.rd_publishRtd ..
      · exact hturn _ fun _ _ => rfl
  · exact hturn _ fun _ _ => rfl

/-- What follows a result leaves the turn. -/
theorem State.afterRtd_rtd (s : State) (n : Nat) : (s.compensate n).thermPolicy.aux.rtd = s.aux.rtd :=
  congrArg Standing.rtd ((State.thermPolicy_standing _).trans (s.stands.compensate n).standing)

/-! ## The trip comparators (R416) -/

theorem execThermalTrip_none {i : Fin 26} {s : State} (h : s.tsBroken i = true ∨ s.dev = .reset) : execThermalTrip i s = .next s := by
  unfold execThermalTrip
  rw [if_pos h]

theorem execThermalTrip_acts {i : Fin 26} {s : State} (hb : s.tsBroken i = false) (hr : s.dev ≠ .reset) : execThermalTrip i s = .next s.hardShut := by
  unfold execThermalTrip
  rw [if_neg (not_or.mpr ⟨Bool.eq_false_iff.mp hb, hr⟩)]

/-- In FAULT_HALT the shut-down acts once, and the state's cause stays (log entry 105). -/
theorem State.hardShut_inHalt {s : State} (h : s.dev = .faultHalt) :
    s.hardShut.dev = .faultHalt ∧ s.hardShut.sys.cause = s.sys.cause ∧ s.hardShut.sys.hardStop = true ∧
      (s.sys.hardStop = false → s.hardShut.recorder.flush = none ∧ s.hardShut.cal.save = none ∧ s.hardShut.boot.enroll = none) := by
  have he : s.hardShut = if s.sys.hardStop then s else s.hardEffects := if_pos h
  cases hstop : s.sys.hardStop with
  | true =>
    rw [he, hstop, if_pos rfl]
    exact ⟨h, rfl, hstop, nofun⟩
  | false =>
    obtain ⟨hon, heffects⟩ := s.hardEffects_effect
    have hstand := s.stands.hardEffects
    rw [he, hstop, if_neg Bool.false_ne_true]
    exact ⟨hstand.dev.trans h, hstand.cause, hon, fun _ => heffects⟩

/-- From another state it is FAULT_HALT with cause 0x61. -/
theorem State.hardShut_halts {s : State} (hh : s.dev ≠ .faultHalt) (hr : s.dev ≠ .reset) :
    s.hardShut.dev = .faultHalt ∧ s.hardShut.sys.cause = 0x61 ∧ s.hardShut.sys.hardStop = true ∧ s.hardShut.recorder.flush = none := by
  have he : s.hardShut = s.enter .faultHalt 0x61 false := (if_neg hh).trans (State.halt_eq hh hr 0x61)
  have hstand := s.stands.enter (.inr (.inr rfl)) 0x61 false
  rw [he]
  exact ⟨hstand.dev, hstand.cause, s.enter_hard false⟩

/-! ## The statement -/

/-- A shot's trigger that is due, by the state of the group (R107, R294, R295). -/
theorem State.sarTrigger_effects (s : State) (q : SarTrig) :
    (s.sarTrigger q).emit = s.emit ∧
    (s.aux.sar = none → (s.sarTrigger q).r Reg.SAR_SHOT_COUNT = min (s.r Reg.SAR_SHOT_COUNT + 1) 0xFFFFFFFF ∧
      (s.sarTrigger q).aux.sar = some { at_ := s.now, tile := q.tile, own := some q, users := [q] }) ∧
    (∀ c, s.aux.sar = some c → s.aux.deferred = [] → s.now < c.at_ + 258 →
      (s.sarTrigger q).aux.sar = some { c with own := none, users := c.users ++ [q] } ∧ (s.sarTrigger q).r Reg.SAR_SHARE_COUNT = min (s.r Reg.SAR_SHARE_COUNT + 1) 0xFFFFFFFF) ∧
    (∀ c, s.aux.sar = some c → s.aux.deferred = [] → c.at_ + 258 ≤ s.now →
      (s.sarTrigger q).aux.deferred = [q] ∧ (s.sarTrigger q).r Reg.SAR_DEFER_COUNT = min (s.r Reg.SAR_DEFER_COUNT + 1) 0xFFFFFFFF) := by
  refine ⟨?_, fun hidle => ?_, fun c hc hd hnow => ?_, fun c hc hd hnow => ?_⟩
  · unfold State.sarTrigger
    split
    · rfl
    · split
      · rfl
      · split
        · rfl
        · rfl
  · rw [State.sarTrigger_idle hidle]
    exact ⟨s.r_inc _, rfl⟩
  · rw [State.sarTrigger_share hc hd hnow]
    exact ⟨rfl, State.r_inc ..⟩
  · rw [State.sarTrigger_defer hc hd hnow]
    refine ⟨rfl, ?_⟩
    unfold State.r
    rw [State.rd_flag_ne _ (by decide)]
    exact State.r_inc ..

/-- What a conversion for a control tick begins with (R118, R295). -/
theorem State.startSar_control (s : State) : (s.startSar none false []).wag = s.wag ∧
    (s.startSar none false []).aux.sar = some { at_ := s.now, tile := s.aux.mux, own := none, users := [] } ∧
      (s.startSar none false []).r Reg.SAR_CTRL_COUNT = min (s.r Reg.SAR_CTRL_COUNT + 1) 0xFFFFFFFF := ⟨rfl, rfl, s.r_inc _⟩

/-- Settles O47, row by row: what each converter shows is written last and stands through the recorder, the events and the thermal policy that follow it; a trip
is a hard shut-down, which takes the device to FAULT_HALT where it is not there yet. -/
theorem convertersRun : Obligations.ConvertersRun := by
  intro s
  refine ⟨fun q l h => execSarShotTrigger_eq h, fun p0 h hdue haxes => execSarControlRequest_eq h hdue haxes, fun m0 m1 m2 m3 h => execSarConversionDone_idle h ..,
    fun c m0 m1 m2 m3 h hnow => execSarConversionDone_early h hnow .., fun c m0 m1 m2 m3 h hnow husers hown hcap hd => ?control, fun m v h => execMaWord_idle h v,
    fun m v t0 h hruns hdue hc => ?external, fun v off hdue hr => execHousekeepingWord_due hdue hr v off, fun v i => rfl, fun i h => execThermalTrip_none h,
    fun i hb hh => ?tripInHalt, fun i hb hh hr => ?trip, fun q l h hdue => ?shot, fun p0 h hdue haxes hidle hshot => ?request,
    fun m v t0 h hruns hdue hc => ?internal, fun v off hdue hr => ?scan, fun v i d h hruns hdue => ⟨fun hp => ?first, fun hp q hq => ?second⟩⟩
  case control =>
    obtain ⟨hang, hmon, hrd⟩ := s.sarShown_regs c m0 m1 m2 m3
    exact ⟨_, execSarConversionDone_control h hnow husers hown hcap hd m0 m1 m2 m3, rfl, rfl, hang, hmon, hrd, rfl⟩
  case external =>
    obtain ⟨next, status, _, hexec⟩ := execMaWord_due h hruns hdue v
    rw [if_pos hc] at hexec
    exact ⟨_, hexec, (s.setMa m next).publishRes_regs hc _ status⟩
  case internal =>
    obtain ⟨next, _, status, hexec⟩ := execMaWord_due h hruns hdue v
    rw [if_neg (by omega)] at hexec
    obtain ⟨hval, hcount⟩ := (s.setMa m next).publishInt_regs (s.maCode m (s.ma m).slot - 0x20) (s.maInput m v) status
    refine ⟨_, hexec, ?_, ?_⟩
    · unfold State.f
      rw [State.rd_checkRail]
      exact hval
    · unfold State.f
      rw [State.rd_checkRail]
      exact hcount
  case tripInHalt => exact ⟨_, execThermalTrip_acts hb (by rw [hh]; decide), State.hardShut_inHalt hh⟩
  case trip => exact ⟨_, execThermalTrip_acts hb hr, State.hardShut_halts hh hr⟩
  case shot =>
    obtain ⟨hemit, hidle, hshare, hdefer⟩ := State.sarTrigger_effects { s with emit := { s.emit with sarNext := l } } q
    have hexec := execSarShotTrigger_due h hdue
    have hnext := congrArg Emit.sarNext hemit
    exact ⟨fun hi => ⟨_, hexec, hnext, hidle hi⟩, fun c hc hd hnow => ⟨_, hexec, hnext, hshare c hc hd hnow⟩, fun c hc hd hnow => ⟨_, hexec, hnext, hdefer c hc hd hnow⟩⟩
  case request =>
    obtain ⟨hwag, hsar, hcount⟩ := State.startSar_control { s with wag := { s.wag with ctrlN := s.wag.ctrlN + 2 } }
    exact ⟨_, execSarControlRequest_starts h hdue haxes hidle hshot, congrArg Wag.ctrlN hwag, hsar, hcount⟩
  case scan =>
    obtain ⟨hat, hnext, href⟩ := s.hkPublish_scan v off
    obtain ⟨hat', hnext', href'⟩ := (s.hkPublish v off).afterWord_scan (s.aux.hkNext - 10) s.aux.hkNext v
    exact ⟨_, execHousekeepingWord_due hdue hr v off, hat'.trans hat, hnext'.trans hnext, href'.trans href⟩
  case first =>
    have hphase := State.rtdPhase_first h hruns hdue hp (v.pick (s.bit Reg.RTD_CTRL 20) false) i
    have hexec : execRtdPhaseDone v i s = .next (s.rtdPhase (v.pick (s.bit Reg.RTD_CTRL 20) false) i).2 := by
      unfold execRtdPhaseDone
      rw [hphase]
    rw [hphase] at hexec
    exact ⟨_, hexec, rfl, rfl, rfl, rfl⟩
  case second =>
    obtain ⟨live, hrtd⟩ := State.rtdPhase_second h hruns hdue hp hq (v.pick (s.bit Reg.RTD_CTRL 20) false) i
    have hexec : ∃ t, execRtdPhaseDone v i s = .next t ∧ t.aux.rtd = (s.rtdPhase (v.pick (s.bit Reg.RTD_CTRL 20) false) i).2.aux.rtd := by
      unfold execRtdPhaseDone
      extract_lets r
      refine ⟨_, rfl, ?_⟩
      split
      · exact State.afterRtd_rtd ..
      · rfl
    obtain ⟨t, ht, hsame⟩ := hexec
    rw [hrtd] at hsame
    exact ⟨t, ht, by rw [hsame], by rw [hsame], by rw [hsame]; rfl⟩

end Sys2Proof.Machine
end

section
/-!
PROOFS. Proofs/TimingOps.lean: what the operations of event timing (chapter 7) change and leave of the front end: a channel's own
record and the registers.
-/

namespace Sys2Proof.Machine

open Sys2Proof

/-! ## A channel and its state code (R163) -/

theorem State.chan_setChan_self (s : State) (n : Nat) (x : Chan) : (s.setChan n x).chan n = x := get_set_self ..

theorem State.chan_setChan_ne (s : State) {n m : Nat} (h : m ≠ n) (x : Chan) : (s.setChan n x).chan m = s.chan m := get_set_ne _ _ _ h _

/-- The state code follows in registers alone. -/
theorem State.syncChan_regs (s : State) (n : Nat) : ∃ r, s.syncChan n = { s with regs := r } := by
  unfold State.syncChan
  dsimp only
  split
  · exact ⟨_, rfl⟩
  · exact ⟨_, rfl⟩

theorem State.chan_syncChan (s : State) (n m : Nat) : (s.syncChan n).chan m = s.chan m := by
  obtain ⟨r, h⟩ := s.syncChan_regs n
  rw [h]
  rfl

theorem State.rd_syncChan (s : State) {n a : Nat} (hch : a ≠ Reg.RX_CH n) (hst : a ≠ Reg.TDC_STAT_STATUS (n / 16)) : (s.syncChan n).rd a = s.rd a := by
  unfold State.syncChan
  dsimp only
  split
  · exact (State.rd_setF_ne _ hst ..).trans (State.rd_setF_ne _ hch ..)
  · exact State.rd_setF_ne _ hch ..

theorem State.now_modChan (s : State) (n : Nat) (f : Chan → Chan) : (s.modChan n f).now = s.now := by
  obtain ⟨r, h⟩ := (s.setChan n (f (s.chan n))).syncChan_regs n
  exact (congrArg State.now h :)

theorem State.tdc_modChan (s : State) (n : Nat) (f : Chan → Chan) : (s.modChan n f).tdc = s.tdc := by
  obtain ⟨r, h⟩ := (s.setChan n (f (s.chan n))).syncChan_regs n
  exact (congrArg State.tdc h :)

theorem State.chan_modChan_self (s : State) (n : Nat) (f : Chan → Chan) : (s.modChan n f).chan n = f (s.chan n) :=
  (State.chan_syncChan ..).trans (State.chan_setChan_self ..)

theorem State.chan_modChan_ne (s : State) {n m : Nat} (h : m ≠ n) (f : Chan → Chan) : (s.modChan n f).chan m = s.chan m :=
  (State.chan_syncChan ..).trans (State.chan_setChan_ne _ h _)

theorem State.rd_modChan (s : State) (n : Nat) (f : Chan → Chan) {a : Nat} (h : a < 0x31000) : (s.modChan n f).rd a = s.rd a :=
  State.rd_syncChan (s.setChan n (f (s.chan n))) (by unfold Reg.RX_CH; omega) (by unfold Reg.TDC_STAT_STATUS; omega)

/-- What stands of every channel when what is changed in one stands. -/
theorem State.chan_modChan_part {β : Type} (g : Chan → β) (s : State) (n m : Nat) {f : Chan → Chan} (hf : g (f (s.chan n)) = g (s.chan n)) :
    g ((s.modChan n f).chan m) = g (s.chan m) := by
  by_cases h : m = n
  · rw [h, State.chan_modChan_self, hf]
  · rw [State.chan_modChan_ne _ h]

/-! ## The front end while an edge is timed (R146, R147, R176) -/

/-- The registers of the front end but those of its channels read `p`, and what `g` sees of the channels is `x`. -/
structure Front {β : Type} (g : Chan → β) (p : Nat → Word) (x : Nat → β) (s : State) : Prop where
  rd : ∀ a, 0x30000 ≤ a → a < 0x31000 → s.rd a = p a
  chan : ∀ n, g (s.chan n) = x n

/-- What a state's front end is. -/
theorem State.front {β : Type} (g : Chan → β) (s : State) : Front g s.rd (fun n => g (s.chan n)) s := ⟨fun _ _ _ => rfl, fun _ => rfl⟩

namespace Front

variable {β : Type} {g : Chan → β} {p : Nat → Word} {x : Nat → β} {s t : State}

/-- A state with the same registers and channels. -/
theorem same (h : Front g p x s) (hpart : (t.regs, t.variant, t.rx.chans) = (s.regs, s.variant, s.rx.chans)) : Front g p x t where
  rd := fun a h0 h1 => (State.rd_congr (congrArg (·.1) hpart) (congrArg (·.2.1) hpart) a).trans (h.rd a h0 h1)
  chan := fun n => (congrArg (fun part => g (part.2.2.get {} n)) hpart).trans (h.chan n)

/-- A write to a register outside. -/
theorem wr (h : Front g p x s) {a : Nat} (ha : a < 0x30000 ∨ 0x31000 ≤ a) (v : Word) : Front g p x (s.wr a v) where
  rd := fun b h0 h1 => (State.rd_wr_ne _ (by omega) v).trans (h.rd b h0 h1)
  chan := h.chan

theorem inc (h : Front g p x s) {a : Nat} (ha : a < 0x30000 ∨ 0x31000 ≤ a) : Front g p x (s.inc a) := h.wr ha _

theorem setR (h : Front g p x s) {a : Nat} (ha : a < 0x30000 ∨ 0x31000 ≤ a) (v : Nat) : Front g p x (s.setR a v) := h.wr ha _

theorem setF (h : Front g p x s) {a : Nat} (ha : a < 0x30000 ∨ 0x31000 ≤ a) (hi lo v : Nat) : Front g p x (s.setF a hi lo v) := h.wr ha _

theorem flag (h : Front g p x s) {a : Nat} (ha : a < 0x30000 ∨ 0x31000 ≤ a) (i : Nat) : Front g p x (s.flag a i) := (h.setF ha i i 1).same rfl

/-- The registers that stand in a row behind the front end's own. -/
theorem above {b n : Nat} (h : 0x31000 ≤ b) : b + n < 0x30000 ∨ 0x31000 ≤ b + n := .inr (Nat.le_add_right_of_le h)

theorem ite {c : Prop} [Decidable c] (ht : Front g p x s) (he : Front g p x t) : Front g p x (if c then s else t) := by
  split
  · exact ht
  · exact he

theorem when {b : Bool} {f : State → State} (h : Front g p x s) (hf : Front g p x s → Front g p x (f s)) : Front g p x (s.when b f) := by
  unfold State.when
  split
  · exact hf h
  · exact h

theorem each {α : Type} {l : List α} {f : State → α → State} (h : Front g p x s) (hf : ∀ u a, Front g p x u → Front g p x (f u a)) : Front g p x (s.each l f) := by
  unfold State.each
  induction l generalizing s with
  | nil => exact h
  | cons a l ih => exact ih (hf s a h)

/-- A channel of which `g` sees no change. -/
theorem modChan (h : Front g p x s) (n : Nat) {f : Chan → Chan} (hf : g (f (s.chan n)) = g (s.chan n)) : Front g p x (s.modChan n f) where
  rd := fun a h0 h1 => (s.rd_modChan n f h1).trans (h.rd a h0 h1)
  chan := fun m => (State.chan_modChan_part g s n m hf).trans (h.chan m)

/-! ### Events -/

theorem syncPort (h : Front g p x s) (k : Nat) : Front g p x (s.syncPort k) := (h.setF (above (by decide)) ..).setF (above (by decide)) ..

theorem formPkt (h : Front g p x s) (k code tag : Nat) (isEvent mandatory : Bool) (status : Nat) (params : List Byte) (port : Nat) :
    Front g p x (s.formPkt k code tag isEvent mandatory status params port) := syncPort (s := State.setPort _ _ _) (h.same rfl) k

theorem queueEvent (h : Front g p x s) (k code tag status : Nat) (params : List Byte) : Front g p x (s.queueEvent k code tag status params) := by
  unfold State.queueEvent
  dsimp only
  refine ite (ite (h.formPkt ..) (h.same rfl)) (ite h (ite (h.formPkt ..) ?_))
  exact (inc (s := State.setPort _ _ _) (h.same rfl) (above (by decide))).flag (by decide) 3

theorem raise (h : Front g p x s) (code : Nat) (sc : Scope) (params : List Byte) : Front g p x (s.raise code sc params) := h.each fun _ _ hu => hu.queueEvent ..

theorem loopLate (h : Front g p x s) (old : Nat) : Front g p x (s.loopLate old) := ite (raise (s := { s with sys := _ }) (h.same (by rfl)) ..) h

/-! ### Shots and their words -/

theorem putShot (h : Front g p x s) (q : OpenShot) : Front g p x (s.putShot q) := h.same rfl

theorem setShots (h : Front g p x s) (l : List OpenShot) : Front g p x (s.setShots l) := h.same rfl

theorem capOffer (h : Front g p x s) (l : List CapIn) : Front g p x (s.capOffer l) := ite (h.same rfl) h

theorem mark (h : Front g p x s) (c : Nat) (m : Mark) : Front g p x (s.mark c m) :=
  have hs : Front g p x (s.setTdcComb c { s.tdcComb c with marks := (s.tdcComb c).marks ++ [{ m with at_ := s.now }] }) := h.same rfl
  ite (hs.capOffer _) hs

theorem disarm (h : Front g p x s) (n : Nat) : Front g p x (s.disarm n) := by
  unfold State.disarm
  split
  · exact h
  · exact ite ((ite ((h.putShot _).mark ..) (h.putShot _)).setShots _) (ite ((h.putShot _).mark ..) (h.putShot _))

theorem collect (h : Front g p x s) (c : Nat) (w : EvtWord) (lsb : Nat) : Front g p x (s.collect c w lsb) := by
  unfold State.collect
  exact ite h (setR (s := s.setStat c _) (h.same rfl) (above (by decide)) _)

theorem strongEvent (h : Front g p x s) (q : OpenShot) (w : EvtWord) (c lsb : Nat) : Front g p x (s.strongEvent q w c lsb) :=
  ite h (ite ((h.inc (by decide)).flag (by decide) 2) (h.same rfl))

theorem writeEvent (h : Front g p x s) (q : OpenShot) (c lsb : Nat) (w : EvtWord) : Front g p x (s.writeEvent q c lsb w) := by
  unfold State.writeEvent
  extract_lets y u v old r
  have hu : Front g p x u := h.same rfl
  have hv : Front g p x v := ite (hu.capOffer _) hu
  have hr : Front g p x r := h.putShot _
  exact ite ((hv.collect ..).strongEvent ..) (((hr.inc (by decide)).flag (by decide) 3).loopLate old)

theorem preStart (h : Front g p x s) (c : Nat) : Front g p x (s.preStart c) := (h.inc (above (by decide))).flag (by decide) 2

theorem edgeLost (h : Front g p x s) (q : OpenShot) (n i : Nat) {reg : Nat} (hreg : reg < 0x30000 ∨ 0x31000 ≤ reg) : Front g p x (s.edgeLost q n reg i) :=
  ((h.putShot _).inc hreg).flag (by decide) i

theorem overflow (h : Front g p x s) (n : Nat) (w : RxWin) : Front g p x (s.overflow n w) := by
  unfold State.overflow
  split
  · exact h
  · exact ite h (((h.flag (by decide) 3).putShot _).writeEvent ..)

/-- Timing an edge changes no more of the channels than their last edge. -/
theorem timeEdge (h : Front g p x s) (hg : ∀ (c : Chan) (l : Option Int), g { c with last := l } = g c) (q : OpenShot) (n range count code : Nat) (sat : Bool) :
    Front g p x (s.timeEdge q n range count code sat) := by
  unfold State.timeEdge
  extract_lets c _ stops i r
  split
  · extract_lets t tau lsb st ovf ts u v w
    have hu : Front g p x u := ite (h.preStart c) h
    have hv : Front g p x v := ite (hu.flag (by decide) 3) hu
    have hw : Front g p x w := hv.modChan n (hg _ _)
    have hr : Front g p x ((w.putShot r).writeEvent r c lsb { ts, ch := n % 16, range, sat, ovf, stop := stops % 8, seg := r.seg, number := r.number, lsb }) :=
      (hw.putShot r).writeEvent ..
    exact ite (h.edgeLost q n 0 (above (by decide))) (ite (h.edgeLost q n 1 (above (by decide))) (hr.when fun h => h.disarm n))
  · exact h

end Front

end Sys2Proof.Machine
end

section
/-!
PROOFS. Proofs/TimingRows.lean: the rows of event timing one by one (R103, R144 to R147, R163, R170 to R181, R188), with the statement about them.
-/

namespace Sys2Proof.Machine

open Sys2Proof

/-! ## Marker words (R179) -/

/-- What marker words change: the combs' accounts and the capture engine. -/
def State.Marks (s t : State) : Prop := ∃ combs cap, t = { s with tdc := { s.tdc with combs := combs }, cap := cap }

theorem State.Marks.trans {s t u : State} (h : s.Marks t) (g : t.Marks u) : s.Marks u := by
  obtain ⟨c, k, rfl⟩ := h
  obtain ⟨c', k', rfl⟩ := g
  exact ⟨c', k', rfl⟩

theorem State.mark_marks (s : State) (c : Nat) (m : Mark) : s.Marks (s.mark c m) := by
  unfold State.mark
  dsimp only
  split
  · unfold State.capOffer
    split
    · exact ⟨_, _, rfl⟩
    · exact ⟨_, s.cap, rfl⟩
  · exact ⟨_, s.cap, rfl⟩

theorem State.each_marks {α : Type} {g : State → α → State} (hg : ∀ u a, State.Marks u (g u a)) (s : State) (l : List α) : s.Marks (s.each l g) := by
  unfold State.each
  induction l generalizing s with
  | nil => exact ⟨s.tdc.combs, s.cap, rfl⟩
  | cons a l ih => exact (hg s a).trans (ih _)

/-- R172, R174: a shot that starts is timed on the channels that waited for it. -/
theorem State.startShot_marks (s : State) (q : OpenShot) (rd : List (Nat × Nat)) :
    ∃ start cal, State.Marks (s.putShot { q with start := some start, armed := q.waiting, cal := cal }) (s.startShot q rd) :=
  ⟨_, _, State.each_marks (fun u _ => u.mark_marks ..) _ _⟩

/-- R175: a shot without its start is closed in its combs: registers, the emitter and the points stand. -/
theorem State.noStart_part (s : State) (q : OpenShot) : (s.noStart q).regs = s.regs ∧ (s.noStart q).held = s.held ∧ (s.noStart q).variant = s.variant ∧
    (s.noStart q).emit = s.emit ∧ (s.noStart q).plan = s.plan := by
  have hmarks : ∃ l, State.Marks (s.setShots l) (s.noStart q) := ⟨_, State.each_marks (fun u c => (u.mark_marks c _).trans (State.mark_marks ..)) _ _⟩
  obtain ⟨l, combs, cap, h⟩ := hmarks
  rw [h]
  exact ⟨rfl, rfl, rfl, rfl, rfl⟩

/-! ## The points of a column (R18, R366) -/

theorem State.pt_modPt_self (s : State) (k : Nat) (f : Pt → Pt) : (s.modPt k f).pt k = f (s.pt k) := get_set_self ..

/-- What stands of every point when it stands in the one that is changed. -/
theorem State.pt_modPt_part {β : Type} (g : Pt → β) (s : State) (k i : Nat) {f : Pt → Pt} (hf : g (f (s.pt k)) = g (s.pt k)) : g ((s.modPt k f).pt i) = g (s.pt i) := by
  by_cases h : i = k
  · rw [h, State.pt_modPt_self, hf]
  · exact congrArg g (get_set_ne _ _ _ h _)

theorem State.pt_of_plan {s t : State} (h : t.plan = s.plan) (k : Nat) : t.pt k = s.pt k := by
  unfold State.pt
  rw [h]

/-- What an account without its start leaves: registers and what is in force of them, the tiles' misses, and the late shots of every point. -/
theorem State.unstamp_part (s : State) (q : OpenShot) (i : Nat) :
    let t := s.unstamp q
    (t.regs, t.held, t.variant, t.emit.misses, (t.pt i).late, (t.pt i).noStart) = (s.regs, s.held, s.variant, s.emit.misses, (s.pt i).late, (s.pt i).noStart) := by
  dsimp only
  unfold State.unstamp
  split
  · split
    · rfl
    · refine State.each_part (part := fun u => (u.regs, u.held, u.variant, u.emit.misses, (u.pt i).late, (u.pt i).noStart)) (fun u ch => ?_) s q.acc
      exact congrArg (fun y : Nat × Nat => (u.regs, u.held, u.variant, u.emit.misses, y.1, y.2))
        (State.pt_modPt_part (fun y : Pt => (y.late, y.noStart)) u (ptKey q.key ch) i rfl)
  · rfl

/-! ## Start references (R103, R174, R175, R177) -/

theorem execStartRefEdge_fired {k : Fin 8} {rs : List (Nat × Nat)} {s : State} {q : OpenShot} (h : s.waitingShot k = some q) :
    execStartRefEdge k false rs s = .next (s.startFired q rs) := by
  unfold execStartRefEdge
  rw [h]
  rfl

theorem execStartRefEdge_spurious {k : Fin 8} {rs : List (Nat × Nat)} {s : State} (h : s.waitingShot k = none) :
    execStartRefEdge k false rs s = .next (s.spuriousStart k) := by
  unfold execStartRefEdge
  rw [h]
  rfl

/-- The shot that waits is one of the tile. -/
theorem State.waitingShot_tile {s : State} {k : Nat} {q : OpenShot} (h : s.waitingShot k = some q) : q.tile = k := by
  have hq := List.find?_some h
  simp only [Bool.and_eq_true, beq_iff_eq] at hq
  exact hq.1.1.1

/-- The launch of a shot in a column that has started (R94). -/
theorem State.launchHalf_started {s : State} {key t0 : Nat} {c : ColPlan} (h : s.col key = some c) (ht : c.startNs = some t0) : s.launchHalf key 0 = some (2 * t0) := by
  unfold State.launchHalf
  rw [h]
  dsimp only
  rw [ht]
  rfl

/-- R103, R366: a start counts its shot as fired in its point, with its time in the column, and ends the tile's run of misses. -/
theorem State.startFired_effects {s : State} {q : OpenShot} {ch t0 : Nat} {c : ColPlan} (hacc : q.acc = [ch]) (hcol : s.col q.key = some c) (ht : c.startNs = some t0)
    (rs : List (Nat × Nat)) :
    ((s.startFired q rs).pt (ptKey q.key ch)).fired = (s.pt (ptKey q.key ch)).fired + 1 ∧
      ((s.startFired q rs).pt (ptKey q.key ch)).tofs = (s.pt (ptKey q.key ch)).tofs + ((q.fireAt : Int) - 512 * t0) ∧
      (s.startFired q rs).emit.misses.get 0 q.tile = 0 := by
  unfold State.startFired
  extract_lets _ u t v w
  have hlaunch : u.launchHalf q.key 0 = some (2 * t0) := State.launchHalf_started hcol ht
  have htime : t = 512 * t0 := by
    simp only [t, hlaunch, Option.map_some, Option.getD_some]
    omega
  have hv : v = u.modPt (ptKey q.key ch) fun p => { p with fired := p.fired + 1, tofs := p.tofs + ((q.fireAt : Int) - t) } := by
    simp only [v, hacc]
    rfl
  obtain ⟨start, cal, hmarks⟩ := v.startShot_marks q rs
  have hw : w.plan = v.plan ∧ w.emit = v.emit := by
    obtain ⟨combs, cap, hw⟩ := hmarks
    rw [show w = _ from hw]
    exact ⟨rfl, rfl⟩
  have hend : ∀ y : State, y.plan = v.plan ∧ y.emit = v.emit → (y.pt (ptKey q.key ch)).fired = (s.pt (ptKey q.key ch)).fired + 1 ∧
      (y.pt (ptKey q.key ch)).tofs = (s.pt (ptKey q.key ch)).tofs + ((q.fireAt : Int) - 512 * t0) ∧ y.emit.misses.get 0 q.tile = 0 := by
    rintro y ⟨hplan, hemit⟩
    have hpt : y.pt (ptKey q.key ch) = { s.pt (ptKey q.key ch) with
        fired := (s.pt (ptKey q.key ch)).fired + 1, tofs := (s.pt (ptKey q.key ch)).tofs + ((q.fireAt : Int) - t) } := by
      rw [State.pt_of_plan hplan, hv, State.pt_modPt_self]
      rfl
    refine ⟨by rw [hpt], ?_, ?_⟩
    · rw [hpt, htime]
      push_cast
      rfl
    · rw [hemit, hv]
      exact get_set_self ..
  split
  · exact hend _ hw
  · exact hend _ hw

/-! ## The internal reference pulse (R177) -/

/-- A window opened: the channel has it, and the others stand. -/
theorem State.openWindow_chan (s : State) (key : Option Nat) (n seg number fireAt closeAt : Nat) :
    ((s.openWindow key n seg number fireAt closeAt).chan n).win.isSome = true ∧
      ∀ m, m ≠ n → (s.openWindow key n seg number fireAt closeAt).chan m = s.chan m := by
  unfold State.openWindow
  extract_lets x u v w
  have hu : ∀ m, m ≠ n → u.chan m = s.chan m := fun m hm => by
    simp only [u]
    split
    · split
      · exact State.chan_modChan_ne _ hm _
      · rfl
    · rfl
  have hv : ∀ m, v.chan m = u.chan m := fun m => by
    simp only [v, State.tagBlank]
    split
    · split
      · split
        · rfl
        · rfl
      · rfl
    · rfl
  refine ⟨by rw [State.chan_modChan_self]; rfl, fun m hm => ?_⟩
  rw [State.chan_modChan_ne _ hm, hv, hu m hm]

/-- Windows opened on a list of channels: each of the list has one, and none is lost. -/
theorem State.each_openWindow_win (s : State) (l : List Nat) (f : Nat) (close : State → Nat → Nat) {n : Nat} (h : n ∈ l ∨ (s.chan n).win.isSome = true) :
    ((s.each l fun u m => u.openWindow none m 0 0 f (close u m)).chan n).win.isSome = true := by
  unfold State.each
  induction l generalizing s with
  | nil => exact h.resolve_left List.not_mem_nil
  | cons m l ih =>
    refine ih _ ?_
    obtain ⟨hself, hother⟩ := s.openWindow_chan none m 0 0 f (close s m)
    by_cases hm : n = m
    · exact .inr (hm ▸ hself)
    · rw [hother n hm]
      exact h.imp_left fun hn => (List.mem_cons.mp hn).resolve_left hm

/-- The shot that was put last and starts stands among the open shots; the front end is left. -/
theorem State.startShot_last (s : State) (q : OpenShot) (rs : List (Nat × Nat)) :
    ∃ q', q' ∈ ((s.setShots (s.tdc.shots ++ [q])).startShot q rs).tdc.shots ∧ q'.internal = q.internal ∧ q'.tile = q.tile ∧ q'.start.isSome = true ∧ q'.armed = q.waiting ∧
      ((s.setShots (s.tdc.shots ++ [q])).startShot q rs).rx = s.rx := by
  obtain ⟨start, cal, combs, cap, ht⟩ := (s.setShots (s.tdc.shots ++ [q])).startShot_marks q rs
  rw [ht]
  refine ⟨{ q with start := some start, armed := q.waiting, cal := cal }, ?_, rfl, rfl, rfl, rfl, rfl⟩
  exact List.mem_map.mpr ⟨q, List.mem_append_right _ (List.mem_singleton_self q), if_pos ⟨rfl, rfl, rfl⟩⟩

/-- A free channel of a comb that takes the pulse is armed by it. -/
theorem State.internalStart_effects {s : State} {k n : Nat} (hdev : s.dev = .armed ∨ s.dev = .calibrating) (hcomb : n / 16 < s.variant.combs) (hok : s.chanState n = 0)
    (hwin : (s.chan n).win = none) (hshots : ∀ q, q ∈ s.tdc.shots → q.internal = false ∧ n ∉ q.waiting) (rs : List (Nat × Nat)) :
    ∃ q, q ∈ (s.internalStart k rs).tdc.shots ∧ q.internal = true ∧ q.tile = k ∧ q.start.isSome = true ∧ n ∈ q.armed ∧
      ((s.internalStart k rs).chan n).win.isSome = true := by
  unfold State.internalStart
  extract_lets combs free chans f u q
  have hfree : free n = true := by
    have hnone : (s.tdc.shots.any fun q => q.waiting.contains n) = false := by
      simp only [List.any_eq_false, List.contains_iff_mem]
      exact fun q hq => (hshots q hq).2
    simp only [free, hok, hwin, hnone, Option.isNone_none, BEq.rfl, Bool.not_false, Bool.and_self]
  have hmem : n ∈ chans := by
    refine List.mem_filter.mpr ⟨List.mem_flatten.mpr ⟨combChans (n / 16), List.mem_map.mpr ⟨n / 16, ?_, rfl⟩, ?_⟩, hfree⟩
    · rw [show combs = List.range s.variant.combs from if_pos hdev]
      exact List.mem_range.mpr hcomb
    · exact List.mem_map.mpr ⟨n % 16, List.mem_range.mpr (Nat.mod_lt _ (by decide)), Nat.div_add_mod n 16⟩
  have hnone : ¬ (chans.isEmpty = true ∨ (s.tdc.shots.any (·.internal)) = true) := by
    rintro (hempty | hany)
    · rw [List.isEmpty_iff.mp hempty] at hmem
      exact List.not_mem_nil hmem
    · obtain ⟨q, hq, hi⟩ := List.any_eq_true.mp hany
      exact Bool.false_ne_true ((hshots q hq).1.symm.trans hi)
  rw [if_neg hnone]
  have hu : (u.chan n).win.isSome = true := by
    simp only [u]
    exact State.each_openWindow_win _ _ _ _ (.inl hmem)
  obtain ⟨q', hq', hint, htile, hstart, harmed, hrx⟩ := u.startShot_last q rs
  have hchan : ((u.setShots (u.tdc.shots ++ [q])).startShot q rs).chan n = u.chan n := by
    unfold State.chan
    rw [hrx]
  refine ⟨q', hq', hint, htile, hstart, ?_, ?_⟩
  · rw [harmed]
    exact hmem
  · rw [hchan]
    exact hu

/-! ## A start that does not come (R103, R110, R175) -/

/-- What a missing start does to the shot's points. -/
def State.lateStart (s : State) (q : OpenShot) : State :=
  s.each q.acc fun s ch => s.modPt (ptKey q.key ch) fun p => { p with late := p.late + 1, noStart := p.noStart + 1 }

theorem execStartTimeout_late {s : State} {q : OpenShot}
    (h : (s.tdc.shots.find? fun q => q.start.isNone && !q.internal && decide (q.fireAt + 20480 < 512 * s.now)) = some q) :
    execStartTimeout s = .next (((s.lateStart q).noStart q |>.unstamp q).tileMiss q.tile) := by
  unfold execStartTimeout
  rw [h]
  rfl

theorem execStartTimeout_none {s : State} (h : (s.tdc.shots.find? fun q => q.start.isNone && !q.internal && decide (q.fireAt + 20480 < 512 * s.now)) = none) :
    execStartTimeout s = .next s := by
  unfold execStartTimeout
  rw [h]

/-- What is in force of a register depends on what is held and what is written. -/
theorem State.ef_congr {s t : State} {a : Nat} (hh : t.held = s.held) (hrd : t.rd a = s.rd a) (hi lo : Nat) : t.ef a hi lo = s.ef a hi lo := by
  unfold State.ef State.eff
  rw [hh, hrd]

/-- R110: a miss below the limit is counted. -/
theorem State.tileMiss_counts {s : State} {k : Nat} (h : s.emit.misses.get 0 k + 1 < s.ef Reg.EMIT_TILE_LIMITS 7 0) :
    (s.tileMiss k).plan = s.plan ∧ (s.tileMiss k).emit.misses.get 0 k = s.emit.misses.get 0 k + 1 ∧
      (s.tileMiss k).r (Reg.TILE_MISS k) = min (s.r (Reg.TILE_MISS k) + 1) 0xFFFFFFFF := by
  unfold State.tileMiss
  extract_lets n _ u
  have hlimit : u.ef Reg.EMIT_TILE_LIMITS 7 0 = s.ef Reg.EMIT_TILE_LIMITS 7 0 := by
    have hne : Reg.EMIT_TILE_LIMITS ≠ Reg.TILE_MISS k := by unfold Reg.EMIT_TILE_LIMITS Reg.TILE_MISS; omega
    exact State.ef_congr (s := s) (t := u) rfl (State.rd_inc_ne s hne) 7 0
  rw [if_neg (by rw [hlimit]; exact Nat.not_le.mpr h)]
  exact ⟨rfl, get_set_self .., s.r_inc _⟩

/-- R103, R175: the shot is late in its point, and a miss of its tile. -/
theorem State.startTimeout_effects {s : State} {q : OpenShot} {ch : Nat} (hacc : q.acc = [ch]) (hmiss : s.emit.misses.get 0 q.tile + 1 < s.ef Reg.EMIT_TILE_LIMITS 7 0) :
    let t := ((s.lateStart q).noStart q |>.unstamp q).tileMiss q.tile
    (t.pt (ptKey q.key ch)).late = (s.pt (ptKey q.key ch)).late + 1 ∧ (t.pt (ptKey q.key ch)).noStart = (s.pt (ptKey q.key ch)).noStart + 1 ∧
      t.emit.misses.get 0 q.tile = s.emit.misses.get 0 q.tile + 1 ∧ t.r (Reg.TILE_MISS q.tile) = min (s.r (Reg.TILE_MISS q.tile) + 1) 0xFFFFFFFF := by
  have hu : s.lateStart q = s.modPt (ptKey q.key ch) fun p => { p with late := p.late + 1, noStart := p.noStart + 1 } := by
    unfold State.lateStart
    rw [hacc]
    rfl
  have hpt : (s.lateStart q).pt (ptKey q.key ch) =
      { s.pt (ptKey q.key ch) with late := (s.pt (ptKey q.key ch)).late + 1, noStart := (s.pt (ptKey q.key ch)).noStart + 1 } := by
    rw [hu, State.pt_modPt_self]
  have hstand : (s.lateStart q).regs = s.regs ∧ (s.lateStart q).held = s.held ∧ (s.lateStart q).variant = s.variant ∧ (s.lateStart q).emit = s.emit := by
    rw [hu]
    exact ⟨rfl, rfl, rfl, rfl⟩
  obtain ⟨hregs0, hheld0, hvariant0, hemit0⟩ := hstand
  obtain ⟨hregs1, hheld1, hvariant1, hemit1, hplan1⟩ := (s.lateStart q).noStart_part q
  have hpart := State.unstamp_part ((s.lateStart q).noStart q) q (ptKey q.key ch)
  generalize ((s.lateStart q).noStart q).unstamp q = w at hpart ⊢
  simp only [Prod.mk.injEq, hregs1, hheld1, hvariant1, hemit1, State.pt_of_plan hplan1, hregs0, hheld0, hvariant0, hemit0, hpt] at hpart
  obtain ⟨hregs, hheld, hvariant, hmisses, hlate, hnoStart⟩ := hpart
  have hrd : ∀ a, w.rd a = s.rd a := fun a => State.rd_congr hregs hvariant a
  obtain ⟨hplan, hcount, hr⟩ := State.tileMiss_counts (s := w) (k := q.tile) (by rw [hmisses, State.ef_congr hheld (hrd _)]; exact hmiss)
  refine ⟨?_, ?_, ?_, ?_⟩
  · rw [State.pt_of_plan hplan, hlate]
  · rw [State.pt_of_plan hplan, hnoStart]
  · rw [hcount, hmisses]
  · rw [hr]
    unfold State.r
    rw [hrd]

/-! ## Comparator edges (R146, R147, R176) -/

/-- R146, R147: an edge that overloads the stage is counted and flagged, and holds its channel for the overload and its recovery. -/
def State.overload (s : State) (n range overNs : Nat) : State :=
  ((s.inc (Reg.RX_SAT_COUNT (n / 16))).flag Reg.RX_FLAGS 0).modChan n fun x =>
    { x with holdUntil := 512 * (s.now + overNs + recoveryNs range), win := x.win.map fun w => { w with sat := true } }

/-- A flag that hardware sets is set (R14). -/
theorem State.bit_flag_self (s : State) (a : Nat) {i : Nat} (h : i < 32) : (s.flag a i).bit a i = true := s.bit_setBit_self a h true

theorem State.overload_effects (s : State) {n : Nat} (hn : n < 512) (range overNs : Nat) :
    (s.overload n range overNs).bit Reg.RX_FLAGS 0 = true ∧
      (s.overload n range overNs).r (Reg.RX_SAT_COUNT (n / 16)) = min (s.r (Reg.RX_SAT_COUNT (n / 16)) + 1) 0xFFFFFFFF ∧
      512 * (s.now + overNs) ≤ ((s.overload n range overNs).chan n).holdUntil := by
  have hcount : Reg.RX_SAT_COUNT (n / 16) < 0x31000 := by unfold Reg.RX_SAT_COUNT; omega
  have hne : Reg.RX_SAT_COUNT (n / 16) ≠ Reg.RX_FLAGS := by unfold Reg.RX_SAT_COUNT Reg.RX_FLAGS; omega
  unfold State.overload
  refine ⟨?_, ?_, ?_⟩
  · unfold State.bit
    rw [State.rd_modChan _ _ _ (by decide)]
    exact State.bit_flag_self _ _ (by decide)
  · unfold State.r
    rw [State.rd_modChan _ _ _ hcount, State.rd_flag_ne _ hne]
    exact State.r_inc ..
  · rw [State.chan_modChan_self]
    dsimp only
    omega

/-- The state in which an edge is timed: its overload has been counted. -/
def State.afterLevel (s : State) (n level range overNs : Nat) : State := if 95 * 1024 ≤ 100 * level then s.overload n range overNs else s

/-- A count and a flag are registers. -/
theorem State.flag_inc_part (s : State) (a b i : Nat) : ((s.inc a).flag b i).now = s.now ∧ ((s.inc a).flag b i).tdc = s.tdc ∧
    ∀ m, ((s.inc a).flag b i).chan m = s.chan m := ⟨rfl, rfl, fun _ => rfl⟩

/-- Counting an overload leaves the clock, the shots, and the last edge of each channel. -/
theorem State.afterLevel_part (s : State) (n level range overNs : Nat) : (s.afterLevel n level range overNs).now = s.now ∧
    (s.afterLevel n level range overNs).tdc = s.tdc ∧ ∀ m, ((s.afterLevel n level range overNs).chan m).last = (s.chan m).last := by
  unfold State.afterLevel
  split
  · unfold State.overload
    obtain ⟨hnow, htdc, hchan⟩ := s.flag_inc_part (Reg.RX_SAT_COUNT (n / 16)) Reg.RX_FLAGS 0
    rw [State.now_modChan, State.tdc_modChan]
    refine ⟨hnow, htdc, fun m => (State.chan_modChan_part Chan.last _ n m ?_).trans (congrArg Chan.last (hchan m))⟩
    rfl
  · exact ⟨rfl, rfl, fun _ => rfl⟩

/-- The range in force at an edge. -/
def State.edgeRange (s : State) (n : Nat) : Nat := match (s.chan n).win with
  | some w => w.range
  | none => s.rangeOf n

/-- What follows the overload of an edge leaves what it wrote. -/
theorem State.edge_front {s : State} {n level dip : Nat} (hrise : s.rises n level dip = true) (hhold : (s.chan n).holdUntil ≤ 512 * s.now) (hok : s.calcChan n = 0)
    (count code overNs : Nat) : ∃ range, Front Chan.holdUntil (s.afterLevel n level range overNs).rd (fun m => ((s.afterLevel n level range overNs).chan m).holdUntil)
      (s.edge n count code level dip overNs) := by
  refine ⟨s.edgeRange n, ?_⟩
  unfold State.edge
  extract_lets x range sat u inside
  rw [if_neg (not_or.mpr ⟨not_not.mpr hrise, not_or.mpr ⟨Nat.not_lt.mpr hhold, not_not.mpr hok⟩⟩)]
  have hu : u = s.afterLevel n level (s.edgeRange n) overNs := by
    simp only [u, sat, decide_eq_true_eq]
    rfl
  rw [← hu]
  have hfront : Front Chan.holdUntil u.rd (fun m => (u.chan m).holdUntil) u := u.front Chan.holdUntil
  split
  · exact hfront
  · refine Front.ite hfront (Front.ite (hfront.preStart _) (Front.ite (hfront.timeEdge (fun _ _ => rfl) ..) hfront))

/-- R171, R176: the first edge of an armed channel is timed. -/
theorem State.timeEdge_last {s : State} {q : OpenShot} {n : Nat} {st : List Int} {fine skew : Word} (hstart : q.start = some st)
    (hcal : q.cal.find? (·.1 == n) = some (n, fine, skew)) (hlast : (s.chan n).last = none) (hstops : q.stops.get 0 n = 0) (range count code : Nat) (sat : Bool) :
    ((s.timeEdge q n range count code sat).chan n).last = some (instantOf fine count code) := by
  have hlimit : ¬ s.stopLimit (n / 16) ≤ q.stops.get 0 n := by
    unfold State.stopLimit
    rw [hstops]
    split <;> decide
  unfold State.timeEdge
  extract_lets c y stops i r
  split
  · next st' k fine' skew' _ hcal' =>
    obtain rfl : fine = fine' := congrArg (fun e => e.2.1) (Option.some.inj (hcal.symm.trans hcal'))
    extract_lets t tau lsb st ovf ts u v w
    have hw : Front Chan.last w.rd (fun m => (w.chan m).last) w := w.front _
    rw [show y.last = none from hlast]
    dsimp only
    rw [if_neg Bool.false_ne_true, if_neg hlimit]
    have hend := ((hw.putShot r).writeEvent r c lsb { ts, ch := n % 16, range, sat, ovf, stop := stops % 8, seg := r.seg, number := r.number, lsb }).when (b := ovf)
      (f := fun u => u.disarm n) fun h => h.disarm n
    refine (hend.chan n).trans ?_
    exact congrArg Chan.last (State.chan_modChan_self ..)
  · next h => exact absurd hcal (h _ _ _ _ hstart)

/-- An edge well inside the window of its channel is timed. -/
theorem State.edge_timed {s : State} {n level dip : Nat} {w : RxWin} {q : OpenShot} {st : List Int} (hrise : s.rises n level dip = true)
    (hhold : (s.chan n).holdUntil ≤ 512 * s.now) (hok : s.calcChan n = 0) (hwin : (s.chan n).win = some w) (hin : 512 * s.now + 320 ≤ w.closeAt)
    (hshot : (s.tdc.shots.find? fun q => q.waiting.contains n) = some q) (hstart : q.start = some st) (harmed : n ∈ q.armed) (count code overNs : Nat) :
    ∃ range sat, s.edge n count code level dip overNs = (s.afterLevel n level range overNs).timeEdge q n range count code sat := by
  refine ⟨s.edgeRange n, decide (95 * 1024 ≤ 100 * level), ?_⟩
  unfold State.edge
  extract_lets x range sat u inside
  rw [if_neg (not_or.mpr ⟨not_not.mpr hrise, not_or.mpr ⟨Nat.not_lt.mpr hhold, not_not.mpr hok⟩⟩)]
  have hu : u = s.afterLevel n level (s.edgeRange n) overNs := by
    simp only [u, sat, decide_eq_true_eq]
    rfl
  obtain ⟨hnow, htdc, -⟩ := s.afterLevel_part n level (s.edgeRange n) overNs
  have hinside : inside = true := by
    have htimed : timedBefore (n / 16) (512 * u.now) w.closeAt = true := by
      rw [hu, hnow]
      unfold timedBefore
      rw [decide_eq_true hin]
      exact Bool.true_or _
    simp only [inside, x, hwin, htimed]
  rw [show u.tdc.shots = s.tdc.shots by rw [hu, htdc], hshot, hinside]
  dsimp only
  rw [hstart, if_neg (by decide), if_neg (by exact Bool.false_ne_true), if_pos (List.contains_iff_mem.mpr harmed), hu]
  rfl

/-! ## The end of a window and a range change (R144 to R146) -/

theorem execReceiveWindowClose_open {s : State} {n : Fin 512} {w : RxWin} (h : (s.chan n).win = some w) (peak : Nat) :
    execReceiveWindowClose n peak s = .next (if 512 * s.now < w.closeAt then s else ((s.overflow n w).disarm n).closeWindow n peak) := by
  unfold execReceiveWindowClose
  rw [h]

/-- A shot boundary leaves the window and the close of the last one. -/
theorem State.boundary_win (s : State) (n : Nat) : ((s.boundary n).chan n).win = (s.chan n).win ∧ ((s.boundary n).chan n).closeAt = (s.chan n).closeAt := by
  have hmode : ((s.rangeMode n).chan n).win = (s.chan n).win ∧ ((s.rangeMode n).chan n).closeAt = (s.chan n).closeAt := by
    unfold State.rangeMode
    extract_lets rr want
    split
    · exact ⟨rfl, rfl⟩
    · split
      · rw [State.chan_modChan_self]
        exact ⟨rfl, rfl⟩
      · split
        · rw [State.chan_modChan_self]
          exact ⟨rfl, rfl⟩
        · exact ⟨rfl, rfl⟩
  unfold State.boundary
  rw [State.chan_modChan_self]
  exact hmode

theorem State.closeWindow_effects {s : State} {n : Nat} {w : RxWin} (h : (s.chan n).win = some w) (peak : Nat) :
    ((s.closeWindow n peak).chan n).win = none ∧ ((s.closeWindow n peak).chan n).closeAt = w.closeAt := by
  unfold State.closeWindow
  rw [h]
  dsimp -zeta only
  extract_lets d
  obtain ⟨hwin, hclose⟩ := State.boundary_win (s.modChan n fun x => { x with up := d.1, next := d.2, closeAt := w.closeAt, win := none }) n
  rw [State.chan_modChan_self] at hwin hclose
  exact ⟨hwin, hclose⟩

theorem execRangeChange_none {s : State} {n : Fin 512} (h : (s.chan n).next = none) : execRangeChange n s = .next s := by
  unfold execRangeChange
  dsimp only
  rw [h]

/-- R146: a range change that is wanted begins 8 ns after the close and holds the comparator for 40 ns. -/
def State.changeRange (s : State) (n r : Nat) : State :=
  (s.setRange n r).modChan n fun x => { x with next := none, holdUntil := max x.holdUntil (512 * s.now + 20480) }

theorem execRangeChange_begins {s : State} {n : Fin 512} {r : Nat} (h : (s.chan n).next = some r) (hwin : (s.chan n).win = none)
    (hdue : (s.chan n).closeAt + 4096 ≤ 512 * s.now) (hseg : s.segOfChan n = none) : execRangeChange n s = .next (s.changeRange n r) := by
  unfold execRangeChange
  extract_lets x soon
  have hsoon : ¬ soon = true := by
    simp only [soon, hseg, Option.bind_none]
    exact Bool.false_ne_true
  have hopen : ¬ x.win.isSome = true := by
    rw [show x.win = none from hwin]
    exact Bool.false_ne_true
  rw [show x.next = some r from h]
  dsimp only
  rw [if_neg (not_or.mpr ⟨hopen, Nat.not_lt.mpr hdue⟩), if_neg hsoon]
  rfl

/-- The state code of a channel stands apart from its range. -/
theorem State.f_modChan_range (s : State) {n : Nat} (hn : n < 512) (f : Chan → Chan) : (s.modChan n f).f (Reg.RX_CH n) 13 12 = s.f (Reg.RX_CH n) 13 12 := by
  have hst : Reg.RX_CH n ≠ Reg.TDC_STAT_STATUS (n / 16) := by unfold Reg.RX_CH Reg.TDC_STAT_STATUS; omega
  unfold State.modChan State.syncChan
  extract_lets v u c
  have hu : u.f (Reg.RX_CH n) 13 12 = s.f (Reg.RX_CH n) 13 12 := State.f_setF_off _ _ (by decide) (by decide) (by decide) _
  split
  · rw [State.f_setF_ne _ hst, hu]
  · exact hu

theorem State.changeRange_effects (s : State) {n : Nat} (hn : n < 512) (r : Nat) : ((s.changeRange n r).chan n).next = none ∧
    (s.changeRange n r).f (Reg.RX_CH n) 13 12 = r % 4 ∧ 512 * s.now + 20480 ≤ ((s.changeRange n r).chan n).holdUntil := by
  unfold State.changeRange
  refine ⟨by rw [State.chan_modChan_self], ?_, ?_⟩
  · rw [State.f_modChan_range _ hn]
    exact State.f_setF_self _ _ (by decide) (by decide) r
  · rw [State.chan_modChan_self]
    exact Nat.le_max_right ..

/-! ## A stuck comparator (R163) -/

theorem execComparatorStuck_acts {s : State} {n : Fin 512} (hn : n.val < s.variant.channels) (hs : (s.chan n).stuck = false) (hr : s.dev ≠ .reset) :
    execComparatorStuck n s = .next (s.stickChan n).settle := by
  unfold execComparatorStuck
  rw [if_neg (not_or.mpr ⟨Nat.not_le.mpr hn, not_or.mpr ⟨Bool.eq_false_iff.mp hs, hr⟩⟩)]

/-- R163: the channel is stuck, and flagged. -/
theorem State.stickChan_effects (s : State) (n : Nat) : ((s.stickChan n).chan n).stuck = true ∧ (s.stickChan n).bit Reg.RX_FLAGS 1 = true := by
  unfold State.stickChan
  extract_lets x u v limit bad
  have hv : v.bit Reg.RX_FLAGS 1 = true := by
    have hne : Reg.RX_FLAGS ≠ Reg.RX_CH n := by unfold Reg.RX_FLAGS Reg.RX_CH; omega
    have hu : u.bit Reg.RX_FLAGS 1 = true := s.bit_flag_self _ (by decide)
    simp only [v]
    split
    · exact hu
    · unfold State.bit
      rw [State.addF, State.rd_setF_ne _ hne]
      exact hu
  generalize hw : (v.modChan n fun x => { x with stuck := true, stuckNow := true, faulty := bad }) = w
  have hj := (w.stands.judgeChannels (n / 16)).standing
  have hstuck : ((w.judgeChannels (n / 16)).chan n).stuck = (w.chan n).stuck := congrFun (congrArg Standing.stuck hj) n
  have hflags : (w.judgeChannels (n / 16)).rd Reg.RX_FLAGS = w.rd Reg.RX_FLAGS := congrArg Standing.rxFlags hj
  refine ⟨?_, ?_⟩
  · rw [hstuck, ← hw, State.chan_modChan_self]
  · unfold State.bit
    rw [hflags, ← hw, State.rd_modChan _ _ _ (by decide)]
    exact hv

/-! ## Statistics (R188) -/

/-- R188: a run that ends shows its state and its count. -/
theorem State.endStat_effects (s : State) (c st : Nat) :
    (s.endStat c st).f (Reg.TDC_STAT_STATUS c) 2 0 = st % 8 ∧ (s.endStat c st).r (Reg.TDC_STAT_COUNT c) = (s.stat c).count % 2 ^ 32 := by
  unfold State.endStat
  extract_lets x d u v w
  have hrd : ∀ a, a ≠ Reg.TDC_STAT_MEAN c → a ≠ Reg.TDC_STAT_SDEV c → a ≠ Reg.TDC_STAT_MIN c → a ≠ Reg.TDC_STAT_MAX c →
      ((w.setF (Reg.TDC_STAT_MIN c) 21 0 x.min).setF (Reg.TDC_STAT_MAX c) 21 0 x.max).rd a = u.rd a := fun a h0 h1 h2 h3 => by
    rw [State.rd_setF_ne _ h3, State.rd_setF_ne _ h2, State.rd_setF_ne _ h1, State.rd_setR_ne _ h0]
  refine ⟨?_, ?_⟩
  · unfold State.f
    rw [hrd _ (by unfold Reg.TDC_STAT_STATUS Reg.TDC_STAT_MEAN; omega) (by unfold Reg.TDC_STAT_STATUS Reg.TDC_STAT_SDEV; omega)
      (by unfold Reg.TDC_STAT_STATUS Reg.TDC_STAT_MIN; omega) (by unfold Reg.TDC_STAT_STATUS Reg.TDC_STAT_MAX; omega),
      State.rd_setR_ne _ (by unfold Reg.TDC_STAT_STATUS Reg.TDC_STAT_COUNT; omega)]
    exact State.f_setF_self _ _ (by decide) (by decide) _
  · unfold State.r
    rw [hrd _ (by unfold Reg.TDC_STAT_COUNT Reg.TDC_STAT_MEAN; omega) (by unfold Reg.TDC_STAT_COUNT Reg.TDC_STAT_SDEV; omega)
      (by unfold Reg.TDC_STAT_COUNT Reg.TDC_STAT_MIN; omega) (by unfold Reg.TDC_STAT_COUNT Reg.TDC_STAT_MAX; omega)]
    exact State.r_setR ..

theorem execStatRunDone_ends {s : State} {c : Fin 32} (hrun : s.f (Reg.TDC_STAT_STATUS c) 2 0 = 1) (hn : 2 ^ bitsOf (s.stat c).ctrl 12 8 ≤ (s.stat c).count) :
    execStatRunDone c s = .next (s.endStat c 2) := by
  unfold execStatRunDone
  rw [if_pos ⟨hrun, hn⟩]

theorem execStatRunTimeout_ends {s : State} {c : Fin 32} (hrun : s.f (Reg.TDC_STAT_STATUS c) 2 0 = 1)
    (hdue : (s.stat c).startAt + bitsOf (s.stat c).ctrl 30 16 * 1000000 ≤ s.now) : execStatRunTimeout c s = .next (s.endStat c 3) := by
  unfold execStatRunTimeout
  rw [if_pos ⟨hrun, hdue⟩]

theorem execStatRun_none {s : State} {c : Fin 32} (h : s.f (Reg.TDC_STAT_STATUS c) 2 0 ≠ 1) : execStatRunDone c s = .next s ∧ execStatRunTimeout c s = .next s := by
  unfold execStatRunDone execStatRunTimeout
  rw [if_neg fun hc => h hc.1, if_neg fun hc => h hc.1]
  exact ⟨rfl, rfl⟩

/-! ## The statement -/

/-- Settles O50, row by row: what an edge, a start or a window's end writes of its own is written before the words, the flags and the events that follow it, and these
leave the front end's registers, the channels and the points. -/
theorem timingRuns : Obligations.TimingRuns := by
  intro s
  refine ⟨fun k rs => rfl, fun k rs q h => execStartRefEdge_fired h, fun k rs h => execStartRefEdge_spurious h, fun q h hacc => ?late, fun h => execStartTimeout_none h,
    fun n count code level dip ns => rfl, fun n peak w h => execReceiveWindowClose_open h peak, fun n h => execRangeChange_none h,
    fun n r h hwin hdue hseg => execRangeChange_begins h hwin hdue hseg, fun n hn hs hr => execComparatorStuck_acts hn hs hr,
    fun c hrun hn => execStatRunDone_ends hrun hn, fun c hrun hdue => execStatRunTimeout_ends hrun hdue, fun c h => execStatRun_none h,
    fun k rs q ch c t0 h hacc hcol ht => ?fired, fun k rs n hdev hcomb hok hwin hshots => ?internal, fun q ch h hacc hmiss => ?timeout,
    fun n count code level dip ns hn hrise hhold hok => ⟨fun hlevel => ?overload, fun w q st fine skew hwin hin hshot hstart harmed hcal hlast hstops => ?timed⟩,
    fun n peak w h hdue => ?close, fun n r h hwin hdue hseg => ⟨_, execRangeChange_begins h hwin hdue hseg, s.changeRange_effects n.isLt r⟩,
    fun n hn hs hr => ?stuck, fun c hrun => ⟨fun hn => ⟨_, execStatRunDone_ends hrun hn, s.endStat_effects c 2⟩,
      fun hdue => ⟨_, execStatRunTimeout_ends hrun hdue, s.endStat_effects c 3⟩⟩⟩
  case late =>
    have hnone : s.lateStart q = s := by
      unfold State.lateStart
      rw [hacc]
      rfl
    have hexec := execStartTimeout_late h
    rw [hnone] at hexec
    exact hexec
  case fired =>
    obtain ⟨hfired, htofs, hmisses⟩ := State.startFired_effects hacc hcol ht rs
    rw [State.waitingShot_tile h] at hmisses
    exact ⟨_, execStartRefEdge_fired h, hfired, htofs, hmisses⟩
  case internal =>
    obtain ⟨q, hq⟩ := State.internalStart_effects (k := k) hdev hcomb hok hwin hshots rs
    exact ⟨_, q, rfl, hq⟩
  case timeout =>
    obtain ⟨hlate, hnoStart, hmisses, hcount⟩ := State.startTimeout_effects hacc hmiss
    exact ⟨_, execStartTimeout_late h, hlate, hnoStart, hmisses, fun _ => hcount⟩
  case overload =>
    obtain ⟨range, hfront⟩ := State.edge_front hrise hhold hok count code ns
    obtain ⟨hflag, hcount, hhold'⟩ := s.overload_effects n.isLt range ns
    have hu : s.afterLevel n level range ns = s.overload n range ns := if_pos hlevel
    rw [hu] at hfront
    have hsat : 0x30000 ≤ Reg.RX_SAT_COUNT (n / 16) ∧ Reg.RX_SAT_COUNT (n / 16) < 0x31000 := by unfold Reg.RX_SAT_COUNT; omega
    refine ⟨_, congrArg Host.Outcome.next (if_pos hn), ?_, ?_, ?_⟩
    · unfold State.bit
      rw [hfront.rd _ (by decide) (by decide)]
      exact hflag
    · unfold State.r
      rw [hfront.rd _ hsat.1 hsat.2]
      exact hcount
    · rw [hfront.chan n]
      exact hhold'
  case timed =>
    obtain ⟨range, sat, hedge⟩ := State.edge_timed hrise hhold hok hwin hin hshot hstart harmed count code ns
    obtain ⟨-, -, hkept⟩ := s.afterLevel_part n level range ns
    refine ⟨_, congrArg Host.Outcome.next (if_pos hn), ?_⟩
    rw [hedge]
    exact State.timeEdge_last hstart hcal ((hkept n).trans hlast) hstops range count code sat
  case close =>
    have hfront := ((s.front id).overflow n w).disarm n
    have hwin : (((s.overflow n w).disarm n).chan n).win = some w := (congrArg Chan.win (hfront.chan n)).trans h
    refine ⟨_, execReceiveWindowClose_open h peak, ?_⟩
    rw [if_neg (Nat.not_lt.mpr hdue)]
    exact State.closeWindow_effects hwin peak
  case stuck =>
    obtain ⟨hstuck, hflag⟩ := s.stickChan_effects n
    have hsettle := (s.stickChan n).settle_standing
    refine ⟨_, execComparatorStuck_acts hn hs hr, (congrFun (congrArg Standing.stuck hsettle) n).trans hstuck, ?_⟩
    exact (congrArg (·.getLsbD 1) (congrArg Standing.rxFlags hsettle)).trans hflag

end Sys2Proof.Machine
end

section
/-!
PROOFS. Proofs/StrayPark.lean: the Waggle engine (O53). The statement speaks of every state, also of `strayCommand`'s, in which an accepted command names a port that the block
does not have; there the SAFE entry of a park decision does not end in SAFE.
-/

namespace Sys2Proof.Machine

open Sys2Proof

/-! ## The SAFE entry of a park decision and the commands that it cancels (R122, R27, R29) -/

/-- `strayCommand` with a park decision made, whose SAFE entry is due. -/
def strayPark : State := { strayCommand {} with wag := { parkAt := some 0 } }

/-- `strayPark` with the park decision taken up. -/
def strayParked : State := { strayPark with wag := { strayPark.wag with parkAt := none } }

/-- The policy readings do not look at the mirror, so that T_pol is that of `strayCommand`. -/
theorem strayPark_tPol : strayPark.tPol = none :=
  have hsame : strayPark.tPol = (strayCommand {}).tPol := rfl
  hsame.trans (strayCommand_tPol {})

/-- The event of the cancelled `DISARM` shows the queue of the stray port in `THERM_RTD` of input 3, which counts as 150 °C (R411); the transition is judged again (R28). -/
theorem toSafe_strayParked_dev : (strayParked.toSafe 0x53).dev = .thermalStop := by decide +kernel

/-- Refutes O53, in the clause of `STEER_SAFE_ENTRY` that says which state is reached: in `strayPark`, where T_pol is below every threshold, the entry into SAFE ends in
THERMAL_STOP. The statement asks nothing of the ports that the accepted commands name, which are 0 to 4 in every run (R330). -/
theorem not_waggleRuns : ¬ Obligations.WaggleRuns := by
  intro h
  obtain ⟨-, -, -, hrow, -, -, -, -, -, -, -, -, -, -, -, -, hsafe, -⟩ := h strayPark
  obtain ⟨t, ht, hdev, -⟩ := hsafe 0 rfl rfl fun T k hT => absurd (strayPark_tPol.symm.trans hT) nofun
  rw [hrow 0 rfl] at ht
  obtain rfl := Host.Outcome.next.inj ht
  exact absurd (toSafe_strayParked_dev.symm.trans hdev) nofun

end Sys2Proof.Machine
end

section
/-!
PROOFS. Proofs/BiasConversion.lean: the current conversions of the receive front end (R155), where the statement O48 fails: it has every conversion begin as one that `BLANK` has
covered so far, and the model has it begin so while `BLANK` is asserted alone.
-/

namespace Sys2Proof.Machine

open Sys2Proof

/-- What follows a conversion that has run its ticks (R155): the next one begins at this tick, outside `BLANK` unless the front end sees `BLANK` asserted. -/
theorem execBiasConversionDone_next {s : State} {c : Fin 32} {t0 : Nat} (hconv : (s.rxComb c).conv = some t0)
    (hdue : t0 + 2 ^ s.ef Reg.RX_LIMITS 11 8 ≤ s.rx.ticks) (code : Nat) :
    ∃ t, execBiasConversionDone c code s = .next t ∧ t.rxComb c = { s.rxComb c with conv := some s.rx.ticks, convClear := !s.blankOn } := by
  unfold execBiasConversionDone
  simp only [hconv, if_neg (Nat.not_lt.mpr hdue)]
  refine ⟨_, rfl, ?_⟩
  split
  · exact get_set_self ..
  · exact get_set_self ..

/-- STANDBY at the 17th monitoring tick, with `BLANK` not asserted: the conversion of comb 0 that began at the first tick has run its 16 ticks, the reset value of `BIAS_AVG_LOG2`. -/
def clearConversion : State :=
  { State.reset with now := 272000, sys := { dev := .standby }, rx := { ticks := 17, combs := ⟨[(0, { conv := some 1, convClear := true })]⟩ } }

/-- Refutes O48, in the clause of `BIAS_CONVERSION_DONE`: in `clearConversion` the next conversion begins with `BLANK` not asserted, so that a part of it falls outside `BLANK`
(`convClear`) and it is to publish its code (R155); the statement has `convClear` false after every conversion that ends. -/
theorem not_receiverRuns : ¬ Obligations.ReceiverRuns := by
  intro h
  obtain ⟨-, -, hrow, -⟩ := h clearConversion
  obtain ⟨t, ht, -, hclear, -⟩ := hrow 0 0 1 rfl (by decide)
  obtain ⟨u, hu, hnext⟩ := execBiasConversionDone_next (s := clearConversion) (c := 0) rfl (by decide) 0
  obtain rfl := Host.Outcome.next.inj (ht.symm.trans hu)
  have hblank : clearConversion.blankOn = false := by decide
  rw [hnext, hblank] at hclear
  exact absurd hclear nofun

end Sys2Proof.Machine
end

section
/-!
PROOFS. Proofs/Aside.lean: what a transition (R26 to R28), and a failover of the planner pair (R392 to R394), leave of whatever property of the state speaks of event timing and
the registers of the clock sources alone. Every operation that they make is gone through once, for every such property.
-/

namespace Sys2Proof.Machine

open Sys2Proof

/-- A register other than those of the clock sources (R183 to R187), `CLK_CTRL` to `XO_OFFSET`. -/
abbrev Reg.AsideClock (a : Nat) : Prop := a < Reg.CLK_CTRL ∨ Reg.XO_OFFSET < a

/-- The registers that stand in a row behind those of the clock sources, whatever the index. -/
theorem Reg.above_clock {b n : Nat} (h : Reg.XO_OFFSET < b) : Reg.AsideClock (b + n) := .inr (Nat.lt_add_right n h)

/-- `P` holds of `s`, and speaks of the variant, event timing and the registers of the clock sources alone. -/
structure Aside (P : State → Prop) (s : State) : Prop where
  holds : P s
  agrees : ∀ {u : State} {pending now freeCtr held flagNow sys ports recorder time plan arb emit rej wag rx combs det sync cap aux cal boot power tap lanes streams red},
    P u → P (State.mk u.variant pending now freeCtr u.regs held flagNow sys ports recorder time plan arb emit rej wag rx u.tdc combs det sync cap aux cal boot power tap lanes
      streams red)
  writes : ∀ {u : State} {a : Nat} (v : Word), Reg.AsideClock a → P u → P (u.wr a v)

namespace Aside

variable {P : State → Prop} {s t : State}

/-! ## Updates of one part of the state -/

/-- The same property of another state. -/
theorem of (h : Aside P s) (ht : P t) : Aside P t := { h with holds := ht }

/-- A state that agrees on the registers and on event timing. -/
theorem same {pending now freeCtr held flagNow sys ports recorder time plan arb emit rej wag rx combs det sync cap aux cal boot power tap lanes streams red} (h : Aside P s) :
    Aside P (State.mk s.variant pending now freeCtr s.regs held flagNow sys ports recorder time plan arb emit rej wag rx s.tdc combs det sync cap aux cal boot power tap lanes
      streams red) := h.of (h.agrees h.holds)

theorem wr (h : Aside P s) {a : Nat} (ha : Reg.AsideClock a) (v : Word) : Aside P (s.wr a v) := h.of (h.writes v ha h.holds)

theorem setF (h : Aside P s) {a : Nat} (ha : Reg.AsideClock a) (hi lo v : Nat) : Aside P (s.setF a hi lo v) := h.wr ha _

theorem setR (h : Aside P s) {a : Nat} (ha : Reg.AsideClock a) (v : Nat) : Aside P (s.setR a v) := h.wr ha _

theorem add (h : Aside P s) {a : Nat} (ha : Reg.AsideClock a) (n : Nat) : Aside P (s.add a n) := h.wr ha _

theorem inc (h : Aside P s) {a : Nat} (ha : Reg.AsideClock a) : Aside P (s.inc a) := h.wr ha _

theorem setBit (h : Aside P s) {a : Nat} (ha : Reg.AsideClock a) (i : Nat) (v : Bool) : Aside P (s.setBit a i v) := h.wr ha _

theorem flag (h : Aside P s) {a : Nat} (ha : Reg.AsideClock a) (i : Nat) : Aside P (s.flag a i) := (h.setBit ha i true).same

/-! ## Conditions and folds -/

theorem ite {p : Prop} [Decidable p] (ht : Aside P s) (he : Aside P t) : Aside P (if p then s else t) := by
  split
  · exact ht
  · exact he

theorem when {b : Bool} {g : State → State} (h : Aside P s) (hg : Aside P s → Aside P (g s)) : Aside P (s.when b g) := by
  unfold State.when
  split
  · exact hg h
  · exact h

theorem each {α : Type} {l : List α} {g : State → α → State} (h : Aside P s) (hg : ∀ u a, Aside P u → Aside P (g u a)) : Aside P (s.each l g) := by
  unfold State.each
  induction l generalizing s with
  | nil => exact h
  | cons a l ih => exact ih (hg s a h)

/-- A fold that carries a result beside the state. -/
theorem foldl_snd {α β : Type} {l : List α} {g : β × State → α → β × State} {y : β × State} (h : Aside P y.2)
    (hg : ∀ y a, Aside P y.2 → Aside P (g y a).2) : Aside P (l.foldl g y).2 := by
  induction l generalizing y with
  | nil => exact h
  | cons a l ih => exact ih (hg y a h)

/-! ## Packets, events and the recorder -/

theorem syncPort (h : Aside P s) (p : Nat) : Aside P (s.syncPort p) := (h.setF (Reg.above_clock (by decide)) ..).setF (Reg.above_clock (by decide)) ..

theorem formPkt (h : Aside P s) (p code tag : Nat) (isEvent mandatory : Bool) (status : Nat) (params : List Byte) (port : Nat) :
    Aside P (s.formPkt p code tag isEvent mandatory status params port) := syncPort (s := State.setPort _ _ _) h.same p

theorem queueEvent (h : Aside P s) (p code tag status : Nat) (params : List Byte) : Aside P (s.queueEvent p code tag status params) := by
  unfold State.queueEvent
  dsimp only
  refine ite (ite (h.formPkt ..) h.same) (ite h (ite (h.formPkt ..) ?_))
  exact (inc (s := State.setPort _ _ _) h.same (Reg.above_clock (by decide))).flag (by decide) 3

theorem raise (h : Aside P s) (code : Nat) (sc : Scope) (params : List Byte) : Aside P (s.raise code sc params) := h.each fun _ _ hu => hu.queueEvent ..

theorem post (h : Aside P s) (code arg : Nat) : Aside P (s.post code arg) := by
  unfold State.post
  exact ite h.same ((inc (s := { s with recorder := { s.recorder with dropped := s.recorder.dropped + 1 } }) h.same (by decide)).flag (by decide) 0)

theorem finish (h : Aside P s) (opcode status detail : Nat) : Aside P (s.finish opcode status detail) := by
  unfold State.finish
  split
  · exact h
  · exact queueEvent (s := { s with sys := _ }) h.same ..

theorem cancelCmds (h : Aside P s) (c0 c1 : Nat) : Aside P (s.cancelCmds c0 c1) :=
  each (s := { s with sys := { s.sys with cmds := [] } }) h.same fun _ _ hu => hu.queueEvent ..

theorem syncRec (h : Aside P s) : Aside P s.syncRec := ((h.setF (by decide) ..).setF (by decide) ..).setR (by decide) _

theorem writeRec (h : Aside P s) (code arg timeUs : Nat) : Aside P (s.writeRec code arg timeUs) :=
  have hw : Aside P (s.when (decide (4096 ≤ s.recNext)) fun s' => s'.overtake (s.recNext - 4096)) := h.when fun h => h.same
  setR (s := State.setRec _ _) hw.same (by decide) _

theorem recWriter (h : Aside P s) : Aside P s.recWriter := by
  unfold State.recWriter
  split
  · exact writeRec (s := s.setRec _) h.same ..
  · split
    · exact h
    · next p q _ =>
      have hw : Aside P ((s.setRec { s.recorder with queue := q }).writeRec p.code p.arg p.timeUs) := writeRec (s := s.setRec _) h.same ..
      exact ite (writeRec (s := State.setRec _ _) hw.same ..) hw

theorem drainRec (h : Aside P s) (n : Nat) : Aside P (State.drainRec n s) := by
  induction n generalizing s with
  | zero => exact h
  | succ n ih => exact ite h (ih h.recWriter)

theorem startFlush (h : Aside P s) (trig st time : Nat) : Aside P (s.startFlush trig st time) := by
  unfold State.startFlush
  extract_lets e slot w last new f0 first blank rec copy fl r
  have hw : Aside P w := (h.drainRec 64).writeRec ..
  have hr : Aside P r := hw.same
  exact ite (syncRec (s := w.setRec _) hw.same) (syncRec (ite hr (hr.flag (by decide) 2)))

theorem flushTrigger (h : Aside P s) (trig : Nat) : Aside P (s.flushTrigger trig) := by
  unfold State.flushTrigger
  exact ite (syncRec (s := s.setRec _) h.same) (h.startFlush ..)

/-! ## The capture engine (R283) -/

theorem setCapSlot (h : Aside P s) (i : Nat) (y : CapSlot) : Aside P (s.setCapSlot i y) := setF (s := s.setCap _) h.same (by decide) ..

theorem missTrigger (h : Aside P s) (slot time : Nat) : Aside P (s.missTrigger slot time) := ((h.inc (by decide)).flag (by decide) 1).setCapSlot ..

theorem trigger (h : Aside P s) (src detail time : Nat) : Aside P (s.trigger src detail time) := by
  unfold State.trigger
  extract_lets short l u y v _ w _ y' v' _
  have hu : Aside P u := ite (h.flag (by decide) 0) h
  have hv : Aside P v := hu.setCapSlot ..
  have hw : Aside P w := setF (s := v.setCap _) hv.same (by decide) ..
  have hv' : Aside P v' := (h.setCapSlot ..).missTrigger ..
  exact ite h (ite (h.missTrigger ..) (ite (ite hw.same hw) (ite (ite hv'.same hv') (h.missTrigger ..))))

theorem showLosses (h : Aside P s) : Aside P s.showLosses := by
  unfold State.showLosses
  extract_lets l u v new
  have hv : Aside P v := (((h.setBit (by decide) ..).setBit (by decide) ..).setBit (by decide) ..).setBit (by decide) ..
  exact when (s := v.keepLosses l) hv.same fun hw => hw.trigger ..

/-! ## Axes, heaters and the laser -/

theorem setAxis (h : Aside P s) (a : Nat) (y : Axis) : Aside P (s.setAxis a y) := ite h.same h.same

theorem releaseAxis (h : Aside P s) (a : Nat) : Aside P (s.releaseAxis a) := ite h ((h.setAxis ..).setF (by decide) ..)

theorem moveTo (h : Aside P s) (a : Nat) (target : Int) (park : Bool) : Aside P (s.moveTo a target park) := by
  unfold State.moveTo
  dsimp only
  split
  · exact h.setAxis ..
  · exact ite (h.setAxis ..) (h.setAxis ..)

theorem parkAxis (h : Aside P s) (a : Nat) (thenRelease : Bool) : Aside P (s.parkAxis a thenRelease) := by
  unfold State.parkAxis
  dsimp only
  refine ite h (ite (ite (h.releaseAxis a) h) (ite (h.releaseAxis a) (ite (h.setAxis ..) ?_)))
  exact (((h.setAxis ..).setF (Reg.above_clock (by decide)) ..).moveTo ..).setF (by decide) ..

theorem hardRelease (h : Aside P s) (a : Nat) : Aside P (s.hardRelease a) :=
  (((h.setAxis ..).setF (a := Reg.WAG_STATUS) (by decide) ..).setR (Reg.above_clock (by decide)) _).setF (Reg.above_clock (by decide)) ..

theorem setLoop (h : Aside P s) (l : Nat) (y : LoopSt) : Aside P (s.setLoop l y) := h.same

theorem dropFormer (h : Aside P s) (l : Nat) : Aside P (s.dropFormer l) := h.same

theorem presetHeater (h : Aside P s) (i : Nat) : Aside P (s.presetHeater i) :=
  ((((h.setLoop ..).dropFormer _).setLoop ..).dropFormer _).setF (a := Reg.HEAT_SET i) (Reg.above_clock (by decide)) ..

theorem heatersOn (h : Aside P s) : Aside P s.heatersOn := ite h (each (s := s.setWag _) h.same fun _ i hu => hu.presetHeater i)

theorem heatersOff (h : Aside P s) : Aside P s.heatersOff := each (s := s.setWag _) h.same fun _ _ hu => hu.setF (Reg.above_clock (by decide)) ..

theorem settleWl (h : Aside P s) : Aside P s.settleWl := h.each fun _ _ hu => hu.same

theorem laserOff (h : Aside P s) : Aside P s.laserOff :=
  have ho : Aside P ((s.setBit Reg.EMIT_STATUS 0 false).setBit Reg.EMIT_STATUS 1 false) := (h.setBit (by decide) ..).setBit (by decide) ..
  setBit (s := State.setEmit _ _) ho.same (by decide) ..

theorem ssnHold (h : Aside P s) (i : Nat) (b : Bool) : Aside P (s.ssnHold i b) := by
  unfold State.ssnHold
  extract_lets driven u v
  have hu : Aside P u := h.setBit (by decide) ..
  have hv : Aside P v := (hu.setBit (by decide) ..).setBit (by decide) ..
  exact ite (ite hv hv.same) hu

/-! ## Shots that are refused (R103) -/

theorem rechooseSar (h : Aside P s) : Aside P s.rechooseSar := by
  unfold State.rechooseSar
  split
  · exact h
  · exact h.same

theorem modSegPts (h : Aside P s) (key g : Nat) (f : Pt → Pt) : Aside P (s.modSegPts key g f) := h.each fun _ _ hu => hu.same

theorem modSeg (h : Aside P s) (key g : Nat) (f : SegPol → SegPol) : Aside P (s.modSeg key g f) := by
  unfold State.modSeg
  split
  · exact h.same
  · exact h

theorem countRefused (h : Aside P s) (key g : Nat) : Aside P (s.countRefused key g) := ((h.modSegPts ..).modSeg ..).inc (by decide)

theorem refuseCuts (h : Aside P s) : Aside P s.refuseCuts :=
  have hr : Aside P (s.each (s.emit.cuts.filter fun q => !q.refused) fun s q => (s.countRefused q.key q.seg).unfire q) :=
    h.each fun _ _ hu => rechooseSar (s := State.setEmit _ _) ((hu.countRefused ..).same)
  hr.same

/-! ## Channels, bias zones and combs -/

theorem markPts (h : Aside P s) (n : Nat) (f : Pt → Pt) : Aside P (s.markPts n f) := by
  unfold State.markPts
  split
  · exact h
  · exact h.each fun _ _ hu => hu.same

theorem syncChan (h : Aside P s) (n : Nat) : Aside P (s.syncChan n) :=
  have hu : Aside P (s.setF (Reg.RX_CH n) 10 8 (s.calcChan n)) := h.setF (Reg.above_clock (by decide)) ..
  ite (hu.setF (Reg.above_clock (by decide)) ..) hu

theorem modChan (h : Aside P s) (n : Nat) (f : Chan → Chan) : Aside P (s.modChan n f) := syncChan (s := s.setChan _ _) h.same n

theorem refreshBias (h : Aside P s) (k : Nat) : Aside P (s.refreshBias k) :=
  h.each fun _ n hu => ite ((ite hu (hu.markPts ..)).modChan ..) (ite (hu.modChan ..) (hu.syncChan n))

theorem setLossCause (h : Aside P s) (k bit : Nat) (on : Bool) : Aside P (s.setLossCause k bit on) := by
  unfold State.setLossCause
  extract_lets was u cause v _ w
  have hv : Aside P v := (h.setBit (Reg.above_clock (by decide)) ..).setBit (by decide) ..
  have hw : Aside P w := ite (post (s := { v with rej := _ }) hv.same ..) hv
  exact ite h (hw.each fun _ n hu => hu.syncChan n)

theorem judgeChannels (h : Aside P s) (k : Nat) : Aside P (s.judgeChannels k) := h.setLossCause ..

theorem refreshComb (h : Aside P s) (k : Nat) : Aside P (s.refreshComb k) := ((h.setF (Reg.above_clock (by decide)) ..).refreshBias k).setLossCause ..

theorem setZone (h : Aside P s) (z st applied : Nat) : Aside P (s.setZone z st applied) :=
  each (s := State.setF _ _ _ _ _) (((h.when fun h => h.setF (Reg.above_clock (by decide)) ..).setF (Reg.above_clock (by decide)) ..).setF (Reg.above_clock (by decide)) ..)
    fun _ k hu => hu.refreshComb k

theorem biasDown (h : Aside P s) : Aside P s.biasDown := h.each fun _ _ hu => ite (hu.setZone ..) hu

theorem biasHalt (h : Aside P s) : Aside P s.biasHalt :=
  have hz : Aside P (s.each (List.range 8) fun s z => if s.zoneSt z ≤ 2 then s.setZone z 0 0 else s) := h.each fun _ _ hu => ite (hu.setZone ..) hu
  hz.each fun _ _ hu => hu.same

/-! ## Calibration (R428) -/

theorem setRange (h : Aside P s) (n r : Nat) : Aside P (s.setRange n r) := h.setF (Reg.above_clock (by decide)) ..

theorem setDark (h : Aside P s) (k : Nat) (on : Bool) : Aside P (s.setDark k on) := by
  unfold State.setDark
  extract_lets y _ u
  have hu : Aside P u := (h.setBit (a := Reg.HIST_STATUS k) (Reg.above_clock (by decide)) 4 on).same
  exact ite (hu.setF (Reg.above_clock (by decide)) ..) hu

theorem syncDue (h : Aside P s) : Aside P s.syncDue := h.each fun _ _ hu => (hu.setBit (Reg.above_clock (by decide)) ..).when fun hv => hv.setF (Reg.above_clock (by decide)) ..

theorem endRun (h : Aside P s) : Aside P s.endRun :=
  each (s := State.setF _ _ _ _ _) ((setBit (s := s.setCal _) h.same (by decide) ..).setF (by decide) ..) fun _ _ hu => hu.setRange ..

theorem abortRun (h : Aside P s) : Aside P s.abortRun := by
  unfold State.abortRun
  split
  · exact h
  · extract_lets _ u _ v
    have hu : Aside P u := raise (s := State.setCal _ _) h.endRun.same ..
    have hv : Aside P v := ite (finish (s := u.setCal _) hu.same ..) hu
    exact hv.syncDue

theorem abortFull (h : Aside P s) : Aside P s.abortFull := by
  unfold State.abortFull
  split
  · exact h
  · extract_lets _ u v w
    have hu : Aside P u := setBit (s := s.setCal _) h.same (by decide) ..
    have hv : Aside P v := hu.each fun _ k ht => ht.setDark k false
    have hw : Aside P w := hv.each fun _ _ ht => ht.setRange ..
    exact (hw.raise ..).finish ..

theorem putCopy (h : Aside P s) (slot : Nat) (r : CalRec) (b : Bool) : Aside P (s.putCopy slot r b) := ite h.same h.same

theorem abortSave (h : Aside P s) : Aside P s.abortSave := by
  unfold State.abortSave
  split
  · exact h
  · extract_lets fr u _ v w
    have hu : Aside P u := (putCopy (s := fr.2) h.same ..).putCopy ..
    have hv : Aside P v := setBit (s := u.setCal _) hu.same (by decide) ..
    exact (hv.setF (by decide) ..).finish ..

/-! ## Tracks that waited for their column (R47) -/

theorem setTrack (h : Aside P s) (i : Nat) (e : List Byte) : Aside P (s.setTrack i e) :=
  (setF (s := { s with plan := { s.plan with tracks := s.plan.tracks.set blank64 i e } }) h.same (by decide) ..).setF (by decide) ..

theorem endTrack (h : Aside P s) (i cause : Nat) : Aside P (s.endTrack i cause) :=
  have hu : Aside P ((s.setTrack i (putBytes (s.track i) 2 1 0)).inc Reg.TRK_ENDED) := (h.setTrack ..).inc (by decide)
  hu.same

theorem missTrack (h : Aside P s) (k : TrkCfg) (i : Nat) : Aside P (s.missTrack k i) := by
  unfold State.missTrack
  extract_lets e n st sig e' u
  have hu : Aside P u := h.setTrack ..
  exact ite (hu.endTrack ..) (ite (hu.endTrack ..) hu)

theorem createTrack (h : Aside P s) (k : TrkCfg) (y : Meas) : Aside P (s.createTrack k y) := by
  unfold State.createTrack
  split
  · exact (h.inc (by decide)).flag (by decide) 3
  · extract_lets gen af rf hAz hEl e u
    have hu : Aside P u := (h.setTrack ..).inc (by decide)
    exact hu.same

theorem updateTrack (h : Aside P s) (k : TrkCfg) (i : Nat) (y : Meas) (d2 : Nat) : Aside P (s.updateTrack k i y d2) := by
  unfold State.updateTrack
  extract_lets _ _ _ _ _ _ _ _ _ _ _ _ _ _ _ _ u v
  have hv : Aside P v := setTrack (s := u) h.same ..
  exact hv.same

theorem associateBy (h : Aside P s) (k : TrkCfg) (y : Cluster) : Aside P (s.associateBy k y) := by
  unfold State.associateBy
  extract_lets _ _ _ _ u _ _
  have hu : Aside P u := h.same
  split
  · exact ite ((hu.setTrack ..).same) ((hu.updateTrack ..).same)
  · refine ite (hu.inc (by decide)) ?_
    split
    · exact ite hu.same (hu.createTrack ..)
    · exact hu.createTrack ..

theorem applyDeferred (h : Aside P s) (y : Deferred) : Aside P (s.applyDeferred y) := by
  unfold State.applyDeferred
  dsimp only
  split
  · exact ite (h.updateTrack ..) (h.associateBy ..)
  · exact h.associateBy ..
  · exact ite (h.missTrack ..) h

theorem hostTrackWrite (h : Aside P s) (i : Nat) (e : List Byte) : Aside P (s.hostTrackWrite i e) := by
  unfold State.hostTrackWrite
  extract_lets old gen u
  have hu : Aside P u := h.setTrack ..
  exact ite hu.same (ite (inc (s := { u with det := _ }) hu.same (by decide)) hu.same)

theorem columnTracks (h : Aside P s) : Aside P s.columnTracks := by
  have hw : Aside P s.applyHostTracks := each (s := { s with plan := { s.plan with hostWrites := ⟨[]⟩ } }) h.same fun _ _ hu => hu.hostTrackWrite ..
  have hd : Aside P ((s.applyHostTracks.setDetLists [] []).each (s.det.recent.filter (fun d => s.hostWaits d.idx) ++ s.det.deferred) State.applyDeferred) :=
    each (s := State.setDetLists _ _ _) hw.same fun _ y hu => hu.applyDeferred y
  exact hd.same

/-! ## Streams and zones -/

theorem setStream (h : Aside P s) (i : Nat) (y : Stream) : Aside P (s.setStream i y) := setR (s := { s with arb := _ }) h.same (Reg.above_clock (by decide)) _

theorem takeHolder (h : Aside P s) (fr i code claimant claimStream : Nat) : Aside P (s.takeHolder fr i code claimant claimStream) := by
  unfold State.takeHolder State.outcome State.sendOutcome
  dsimp only
  split
  · exact h
  · split
    · exact h.setStream ..
    · exact ((h.raise ..).inc (Reg.above_clock (by decide))).setStream ..

theorem arbLeave (h : Aside P s) : Aside P s.arbLeave :=
  h.each fun _ _ hu => ite (hu.each fun _ _ hv => hv.takeHolder ..) (hu.each fun _ _ hv => hv.takeHolder ..)

theorem countLoss (h : Aside P s) (ch cause records bytes back : Nat) : Aside P (s.countLoss ch cause records bytes back) := by
  unfold State.countLoss
  extract_lets u v
  have hv : Aside P v := ite (ite h h.same) h.same
  exact ((hv.add (by decide) _).add (by decide) _).flag (by decide) 0

theorem dropOldest (h : Aside P s) (ch need fuel : Nat) : Aside P (s.dropOldest ch need fuel) := by
  induction fuel generalizing s with
  | zero => exact h
  | succ n ih =>
    unfold State.dropOldest
    dsimp only
    refine ite h ?_
    split
    · exact h
    · exact ih (countLoss (s := s.setSub _ _) h.same ..)

theorem placePkt (h : Aside P s) (ch : Nat) (y : StreamPkt) : Aside P (s.placePkt ch y) := by
  unfold State.placePkt
  extract_lets u v w
  have hv : Aside P v := ite (h.dropOldest ..) h
  exact ite h (ite (hv.countLoss ..) hv.same)

theorem joinAlerts (h : Aside P s) {ch frame : Nat} {l : List (List Byte)} (ht : s.joinAlerts ch frame l = some t) : Aside P t := by
  unfold State.joinAlerts at ht
  dsimp only at ht
  split at ht
  · split at ht
    · obtain rfl := Option.some.inj ht
      exact h.same
    · exact nomatch ht
  · exact nomatch ht

theorem placeAlerts (h : Aside P s) (frame : Nat) (l : List (List Byte)) : Aside P (s.placeAlerts frame l) := by
  unfold State.placeAlerts
  refine ite h (h.each fun u ch hu => ?_)
  dsimp only
  split
  · next hj => exact hu.joinAlerts hj
  · have hp : Aside P (u.placePkt ch { kind := 6, frame, records := l.length, body := l.flatten }) := hu.placePkt ..
    exact hp.same

theorem enterZone (h : Aside P s) (i st : Nat) : Aside P (s.enterZone i st) := by
  unfold State.enterZone
  extract_lets u
  have hu : Aside P u := (h.setF (Reg.above_clock (by decide)) ..).setF (Reg.above_clock (by decide)) ..
  exact ite h (ite ((hu.flag (by decide) 0).trigger ..) (ite ((hu.flag (by decide) 1).trigger ..) hu))

theorem blindZones (h : Aside P s) : Aside P s.blindZones := by
  unfold State.blindZones
  extract_lets _ u on r
  have hr : Aside P r.2 := foldl_snd (y := ([], u)) h.same fun y i hy => by
    dsimp only
    split
    · exact (hy.enterZone i 1).same
    · exact (hy.enterZone i 1).same
  exact hr.placeAlerts ..

/-! ## Leaving a state -/

theorem endSpan (h : Aside P s) : Aside P s.endSpan := by
  unfold State.endSpan
  extract_lets _ u _ v w
  have hw : Aside P w := h.same
  exact hw.setF (by decide) ..

theorem endTakeover (h : Aside P s) : Aside P s.endTakeover := by
  unfold State.endTakeover
  split
  · exact h
  · exact (setF (s := State.setRed _ _) h.same (by decide) ..).raise ..

theorem endScan (h : Aside P s) : Aside P s.endScan := by
  unfold State.endScan
  extract_lets k u gone v _ w _ e y
  have hk : Aside P k := columnTracks (s := s.stopScan) h.same
  have hu : Aside P u := by
    show Aside P (match k.red.takeover with | some y => if y.resume.isSome then k.endTakeover else k | none => k)
    split
    · exact ite hk.endTakeover hk
    · exact hk
  have hv : Aside P v := hu.each fun _ _ ht => ht.same
  have hy : Aside P y := rechooseSar (s := e) hv.same
  exact ite hy.same hy

theorem cutBoot (h : Aside P s) : Aside P s.cutBoot := by
  have hdir : ∀ {u : State}, Aside P u → Aside P u.bootDirectory.1 := fun hu =>
    setR (s := State.when _ _ _) ((when (s := State.setFlash _ _) hu.same fun hv => hv.flag (by decide) 0).when fun hv => hv.flag (by decide) 2) (by decide) _
  exact ite h (ite (hdir h) (ite (hdir h.same) h.same))

theorem leave (h : Aside P s) (dst : DevState) (cause : Nat) : Aside P (s.leave dst cause) := by
  unfold State.leave
  extract_lets t1 t2 t3 t4 t5 t6
  have h1 : Aside P t1 := h.when fun h => h.cutBoot
  have h2 : Aside P t2 := h1.when fun h => h.when fun h => h.flag (by decide) 3
  have h3 : Aside P t3 := h2.when fun h => (h.ssnHold 2 true).arbLeave.blindZones
  have h4 : Aside P t4 := h3.when fun h => h.abortFull
  have h5 : Aside P t5 := h4.when fun h => h.each fun _ _ hu => hu.setF (Reg.above_clock (by decide)) ..
  have h6 : Aside P t6 := h5.when fun h => h.endScan
  exact h6.when fun h => (h.setBit (by decide) ..).ssnHold ..

/-! ## Entering THERMAL_STOP and FAULT_HALT (R404, R414, R416) -/

theorem enterThermalStop (h : Aside P s) : Aside P s.enterThermalStop := by
  unfold State.enterThermalStop
  extract_lets t1 t2 t3 b _ t4
  have h1 : Aside P t1 := h.abortRun.abortFull.abortSave.endSpan
  have h2 : Aside P t2 := ((h1.inc (by decide)).flag (by decide) 2).post ..
  have h3 : Aside P t3 := (h2.each fun _ a hu => hu.parkAxis a true).biasDown
  have h4 : Aside P t4 := h3.same
  exact ite (h4.flag (by decide) 4) (h4.flushTrigger 4)

theorem abandonFlush (h : Aside P s) : Aside P s.abandonFlush := by
  unfold State.abandonFlush
  extract_lets u v
  have hu : Aside P u := by
    show Aside P (match s.recorder.flush with | none => s | some f => s.when f.begun.isSome fun s => s.setRecSlot f.slot (f.slotAt (s.pagesDone f) true))
    split
    · exact h
    · exact h.when fun h => h.same
  have hv : Aside P v := by
    show Aside P (match u.recorder.erasing with | none => u | some k => u.setRecSlot k (u.recSlot k).spoilt)
    split
    · exact hu
    · exact hu.same
  exact syncRec (s := State.setRec _ _) hv.same

theorem cutFuses (h : Aside P s) : Aside P s.cutFuses := by
  unfold State.cutFuses
  split
  · exact h
  · extract_lets fr _ u
    have hu : Aside P u := h.same
    exact ite (setBit (s := u.setBoot _) hu.same (by decide) ..) hu

theorem hardEffects (h : Aside P s) : Aside P s.hardEffects :=
  have hr : Aside P (s.each [0, 1] State.hardRelease) := h.each fun _ a hu => hu.hardRelease a
  hr.abandonFlush.abortSave.cutFuses.same

theorem sendReply (h : Aside P s) (p opcode tag status : Nat) (params : List Byte) (port : Nat) : Aside P (s.sendReply p opcode tag status params port) := by
  unfold State.sendReply
  extract_lets t1 t2 t3 t4
  have h1 : Aside P t1 := h.formPkt ..
  have h2 : Aside P t2 := h1.when fun h => h.flag (by decide) 0
  have h3 : Aside P t3 := h2.when fun h => h.flag (by decide) 1
  have h4 : Aside P t4 := h3.when fun h => h.post ..
  exact h4.when fun h => h.inc (Reg.above_clock (by decide))

theorem abortQueues (h : Aside P s) : Aside P s.abortQueues :=
  ite h (h.each fun _ p hu => each (s := State.syncPort _ _) (syncPort (s := State.setPort _ _ _) hu.same p) fun _ _ hv => hv.sendReply ..)

theorem endAllSubs (h : Aside P s) : Aside P s.endAllSubs :=
  have he : Aside P (s.each s.subList fun s ch => s.setSub ch {}) := h.each fun _ _ hu => hu.same
  he.same

theorem discardCaptures (h : Aside P s) : Aside P s.discardCaptures := setR (s := s.setCap _) h.same (by decide) _

theorem setMa (h : Aside P s) (m : Nat) (y : MaConv) : Aside P (s.setMa m y) := h.same

theorem enterHalt (h : Aside P s) (cause : Nat) : Aside P (s.enterHalt cause) := by
  unfold State.enterHalt
  extract_lets t1 t2 t3 t4
  have h1 : Aside P t1 := h.abortRun.abortFull.abortSave.endSpan.refuseCuts
  have h2 : Aside P t2 := h1.biasHalt.abortQueues.endAllSubs.discardCaptures
  have h3 : Aside P t3 := h2.each fun _ _ hu => hu.setMa ..
  have h4 : Aside P t4 := h3.each fun _ a hu => hu.parkAxis a true
  exact ite h3.hardEffects (flushTrigger (s := t4.setRec _) h4.same 2)

/-! ## Transitions (R27, R28) -/

/-- A transition to DEGRADED, THERMAL_STOP or FAULT_HALT. -/
theorem enter (h : Aside P s) {dst : DevState} (hd : dst = .degraded ∨ dst = .thermalStop ∨ dst = .faultHalt) (cause : Nat) (byCmd : Bool) :
    Aside P (s.enter dst cause byCmd) := by
  unfold State.enter
  extract_lets from_ t1 _ t2 t3 t4 t5 t6 t7 t8 t9 t10
  have h1 : Aside P t1 := h.leave ..
  clear_value t1
  have h2 : Aside P t2 := h1.same
  have h5 : Aside P t5 := ((((((h2.setF (by decide) ..).setF (by decide) ..).setF (by decide) ..).setR (by decide) _).setR (by decide) _).inc (by decide)).post ..
  have h8 : Aside P t8 := ((h5.raise ..).when fun h => h.cancelCmds ..).when fun h => h.laserOff
  have h9 : Aside P t9 := by
    rcases hd with rfl | rfl | rfl
    · exact h8
    · exact h8.enterThermalStop
    · exact h8.enterHalt cause
  have h10 : Aside P t10 := ite h9.heatersOn h9.heatersOff
  exact h10.settleWl

/-- R28: what is judged again ends in DEGRADED or THERMAL_STOP, if it makes a transition. -/
theorem rejudge (h : Aside P s) : Aside P s.rejudge := by
  unfold State.rejudge
  extract_lets hot
  exact ite (h.enter (.inr (.inl rfl)) ..) (ite (h.enter (.inl rfl) ..) h)

theorem settle (h : Aside P s) : Aside P s.settle := h.showLosses.rejudge

theorem halt (h : Aside P s) (cause : Nat) : Aside P (s.halt cause) := ite h (h.enter (.inr (.inr rfl)) cause false).rejudge

/-! ## A failover of the planner pair (R388, R392 to R394) -/

theorem setHealth (h : Aside P s) (i : Nat) (b : Bool) : Aside P (s.setHealth i b) := ite h ((h.setBit (by decide) i b).raise ..)

theorem setPlanner (h : Aside P s) (x st : Nat) : Aside P (s.setPlanner x st) := by
  unfold State.setPlanner
  extract_lets t1 t2 t3 t4 t5
  have h3 : Aside P t3 := (((h.setF (by decide) ..).setHealth ..).setHealth ..).when fun h => h.flag (by decide) 1
  have h5 : Aside P t5 := (h3.when fun h => h.same).when fun h => h.same
  exact h5.when fun h => h.post ..

theorem setClaim (h : Aside P s) (x v : Nat) : Aside P (s.setClaim x v) := h.setF (by decide) ..

theorem bothFailed (h : Aside P s) : Aside P s.bothFailed :=
  have he : Aside P (s.each [0, 1] fun s x => if s.plannerLost x then s.setClaim x 0 else (s.setClaim x 0).setPlanner x 5) :=
    h.each fun _ x hu => ite (hu.setClaim ..) ((hu.setClaim ..).setPlanner x 5)
  halt (s := State.setRed _ _) he.same 0x71

theorem gapPlanned (h : Aside P s) (key : Nat) (c : ColPlan) : Aside P (s.gapPlanned key c) := ite h (ite (ite h.same h) h.same)

theorem beginGap (h : Aside P s) : Aside P s.beginGap :=
  each (s := { s with plan := { s.plan with queue := [], fifo := [] } }) h.same fun _ _ hu => hu.gapPlanned ..

theorem failPlanner (h : Aside P s) (cause : Nat) : Aside P (s.failPlanner cause) := by
  unfold State.failPlanner
  extract_lets a b claim t1 _ t3 t4 t5
  have h1 : Aside P t1 := ((h.setClaim a 0).setPlanner a 5).setPlanner b 3
  have h3 : Aside P t3 := h1.same
  have h4 : Aside P t4 := ((h3.flag (by decide) 0).inc (by decide)).setF (by decide) ..
  have h5 : Aside P t5 := (h4.post ..).flushTrigger 5
  exact ite h.bothFailed (ite h (ite (bothFailed (h.setF (by decide) ..)) h5.beginGap.settle))

theorem plannerFails (h : Aside P s) (x cause : Nat) : Aside P (s.plannerFails x cause) := ite (h.failPlanner cause) (ite h.bothFailed h)

end Aside

end Sys2Proof.Machine
end

section
/-!
PROOFS. Proofs/Clocks.lean: the clock sources (R183 to R187): the windows that judge them, the choice of a source, the PLL's lock and the timing lock, and the crystal's offset.
-/

namespace Sys2Proof.Machine

open Sys2Proof

/-! ## What is counted and shown of the sources -/

/-- The windows counted, whether each source shows as present, and whether `REFCLK` is absent. -/
structure Sources where
  windows : Nat
  ref : Bool
  xtal : Bool
  refAbsent : Bool

/-- The sources as a state has them. -/
def State.sources (s : State) : Sources := ⟨s.tdc.windows, s.bit Reg.CLK_STATUS 2, s.bit Reg.CLK_STATUS 3, s.clk.refAbsent⟩

/-- The sources of a state are `q`. -/
def HasSources (q : Sources) (s : State) : Prop := s.sources = q

/-- A write to another register leaves the sources. -/
theorem State.sources_wr (s : State) {a : Nat} (ha : a ≠ Reg.CLK_STATUS) (v : Word) : (s.wr a v).sources = s.sources := by
  simp only [State.sources, State.bit, State.rd_wr_ne _ ha.symm]
  rfl

/-- A field of `CLK_STATUS` apart from the two presence bits leaves the sources. -/
theorem State.sources_setF_status (s : State) {hi lo : Nat} (hl : lo ≤ hi) (h32 : hi < 32) (hoff : hi < 2 ∨ 3 < lo) (v : Nat) :
    (s.setF Reg.CLK_STATUS hi lo v).sources = s.sources := by
  unfold State.sources
  rw [State.bit_setF_off _ _ hl h32 (by omega), State.bit_setF_off _ _ hl h32 (by omega)]
  rfl

/-- The sources are aside of every transition. -/
theorem State.aside_sources (s : State) : Aside (HasSources s.sources) s where
  holds := rfl
  agrees := id
  writes v ha hu := (State.sources_wr _ (by rintro rfl; exact absurd ha (by decide)) v).trans hu

namespace Aside

variable {q : Sources} {s : State}

theorem setStatus (h : Aside (HasSources q) s) {hi lo : Nat} (hoff : hi < 2 ∨ 3 < lo) (v : Nat) (hl : lo ≤ hi := by decide) (h32 : hi < 32 := by decide) :
    Aside (HasSources q) (s.setF Reg.CLK_STATUS hi lo v) := h.of ((s.sources_setF_status hl h32 hoff v).trans h.holds)

theorem clockFlag (h : Aside (HasSources q) s) (i : Nat) : Aside (HasSources q) (s.flag Reg.CLK_FLAGS i) := h.of ((s.sources_wr (by decide) _).trans h.holds)

theorem setClk (h : Aside (HasSources q) s) {k : Clk} (hk : k.refAbsent = s.clk.refAbsent) : Aside (HasSources q) (s.setClk k) :=
  h.of ((congrArg (Sources.mk _ _ _) hk).trans h.holds)

/-! ## The choice of a source (R185 to R187) -/

theorem takeSource (h : Aside (HasSources q) s) (src : Nat) : Aside (HasSources q) (s.takeSource src) :=
  have hc : Aside (HasSources q) (if s.f Reg.CLK_STATUS 1 0 = src then s else s.inc Reg.CLK_SWITCHES) := ite h (h.of ((s.sources_wr (by decide) _).trans h.holds))
  ((hc.setStatus (by decide) src).setStatus (by decide) _).setClk (by rfl)

theorem holdOver (h : Aside (HasSources q) s) : Aside (HasSources q) s.holdOver := ((h.setStatus (by decide) 2).setStatus (by decide) _).setClk (by rfl)

theorem returnRef (h : Aside (HasSources q) s) : Aside (HasSources q) s.returnRef := (((h.takeSource 0).clockFlag 3).post ..).raise ..

theorem reportLoss (h : Aside (HasSources q) s) : Aside (HasSources q) s.reportLoss := ite ((h.setClk (by rfl)).raise ..) h

theorem dueReturn (h : Aside (HasSources q) s) : Aside (HasSources q) s.dueReturn := ite (h.setClk (by rfl)) h.returnRef

theorem syncTiming {P : State → Prop} (h : Aside P s) (c : Nat) : Aside P (s.syncTiming c) := (h.setBit (Reg.above_clock (by decide)) ..).setLossCause ..

theorem syncTimings {P : State → Prop} (h : Aside P s) : Aside P s.syncTimings := h.each fun _ c hu => hu.syncTiming c

theorem chooseSource (h : Aside (HasSources q) s) (lost : Bool) : Aside (HasSources q) (s.chooseSource lost) := by
  unfold State.chooseSource
  extract_lets _ u ref xtal auto cur v _ _ w y _ r
  have hu : Aside (HasSources q) u := h.setClk (by rfl)
  have hv : Aside (HasSources q) v := (hu.holdOver.clockFlag 2).post ..
  have hw : Aside (HasSources q) w := ite hu.holdOver hu
  have hy : Aside (HasSources q) y := ite (hw.takeSource 1) hw
  have hr : Aside (HasSources q) r :=
    ite (ite hu (hv.setClk (by rfl)).syncTimings)
      (ite (ite (hu.setClk (by rfl)) (ite (hu.takeSource 1) (ite hu.holdOver hu)))
        (ite (ite (ite hu (hu.takeSource 0)) (ite hu (ite (hu.takeSource 1) hu.holdOver))) (ite hy.dueReturn (hy.setClk (by rfl)))))
  exact hr.reportLoss

/-! ## A window (R183, R190) -/

theorem noteBootClock (h : Aside (HasSources q) s) : Aside (HasSources q) s.noteBootClock := ite (h.setClk (by rfl)) h

theorem combClock (h : Aside (HasSources q) s) (bad : List Nat) (c : Nat) : Aside (HasSources q) (s.combClock bad c) := by
  have hgood : ∀ n, Aside (HasSources q) (s.setClk { s.clk with combGood := s.clk.combGood.set 0 c n }) := fun n => h.setClk (by rfl)
  have hset : ∀ b, Aside (HasSources q) ((s.setClk { s.clk with combGood := s.clk.combGood.set 0 c 0 }).setBit (Reg.TDC_COMB_STATUS c) 27 b) :=
    fun b => (hgood 0).setBit (Reg.above_clock (by decide)) ..
  exact ite (ite (hgood 0) (((hset true).post ..).syncTiming c)) (ite (ite ((hset false).syncTiming c) (hgood _)) h)

end Aside

/-- The two presence bits read back what a window sets. -/
theorem State.sources_present (s : State) (r x : Bool) :
    ((s.setBit Reg.CLK_STATUS 2 r).setBit Reg.CLK_STATUS 3 x).sources = ⟨s.tdc.windows, r, x, s.clk.refAbsent⟩ := by
  unfold State.sources
  rw [State.bit_setBit_self _ _ (by decide), State.setBit, State.bit_setF_off _ _ (by decide) (by decide) (by decide), State.bit_setBit_self _ _ (by decide)]
  rfl

/-- R183: whether `REFCLK` shows as present after a window with `edges` of it: a window alone does not make it so. -/
def State.refAfter (s : State) (edges : Nat) : Bool := (judgeSource edges s.clk.refGood (s.bit Reg.CLK_STATUS 2) false (s.f Reg.CLK_CTRL 31 16 * 250)).1

/-- R183: whether the crystal shows as present after a window with `edges` of it. -/
def State.xtalAfter (s : State) (edges : Nat) : Bool := (judgeSource edges s.clk.xtalGood (s.bit Reg.CLK_STATUS 3) true (s.f Reg.CLK_CTRL 31 16 * 250)).1

/-- A window that is due counts and judges both sources; what follows of it, and the settling at its end, leave that. -/
theorem execClockWindow_judges {s : State} (hdev : s.dev ≠ .reset) (hdue : (s.tdc.windows + 1) * 4000 ≤ s.now) (ref xtal : Nat) (bc bp : List Nat) :
    ∃ (u : State) (a : Bool), execClockWindow ref xtal bc bp s = .next u.settle ∧ u.sources = ⟨s.tdc.windows + 1, s.refAfter ref, s.xtalAfter xtal, a⟩ := by
  unfold execClockWindow
  rw [if_neg (not_or.mpr ⟨hdev, Nat.not_lt.mpr hdue⟩)]
  extract_lets _ c need wasRef wasXtal was r x d e v w y z g bad k
  have hwindows : e.tdc.windows = s.tdc.windows + 1 := congrArg Sources.windows d.aside_sources.noteBootClock.holds
  have hw : Aside (HasSources v.sources) w := v.aside_sources.when fun h => (h.clockFlag 0).post ..
  have hy : Aside (HasSources v.sources) y := hw.when fun h => ((h.clockFlag 1).post ..).raise ..
  have hz : Aside (HasSources v.sources) z := .ite (hy.chooseSource _) (.ite hy.returnRef hy)
  have hk : Aside (HasSources v.sources) k := (hz.each fun _ c hu => hu.combClock bc c).each fun _ p hu => hu.plannerFails p 3
  refine ⟨k, e.clk.refAbsent, rfl, ?_⟩
  rw [hk.holds, e.sources_present, hwindows]
  rfl

theorem execClockWindow_idle {s : State} (h : s.dev = .reset ∨ s.now < (s.tdc.windows + 1) * 4000) (ref xtal : Nat) (bc bp : List Nat) :
    execClockWindow ref xtal bc bp s = .next s := by
  unfold execClockWindow
  rw [if_pos h]

/-- A source outside its limits is absent. -/
theorem judgeSource_outside {edges : Nat} (h : edges < 92 ∨ 108 < edges) (run : Nat) (present auto : Bool) (need : Nat) :
    (judgeSource edges run present auto need).1 = false := by
  unfold judgeSource
  rw [if_pos h]

/-- R183, R186: `REFCLK` within its limits stays as it shows, until `REFCLK_PRESENT`. -/
theorem judgeSource_inside {edges : Nat} (h0 : 92 ≤ edges) (h1 : edges ≤ 108) (run : Nat) (present : Bool) (need : Nat) :
    (judgeSource edges run present false need).1 = present := by
  unfold judgeSource
  rw [if_neg (by omega)]
  exact Bool.or_false _

/-! ## The return of `REFCLK`, the PLL's lock and the timing lock (R183, R185 to R187) -/

/-- `REFCLK` shows as present, and counts as no more absent. -/
def State.refFound (s : State) : State := (s.setBit Reg.CLK_STATUS 2 true).setClk { s.clk with refAbsent := false }

theorem execRefclkPresent_found {s : State} (hoff : s.bit Reg.CLK_STATUS 2 = false) (hgood : s.f Reg.CLK_CTRL 31 16 * 250 ≤ s.clk.refGood) (hne : s.clk.refGood ≠ 0) :
    execRefclkPresent s = .next (s.refFound.chooseSource false) := by
  unfold execRefclkPresent
  rw [if_neg (not_or.mpr ⟨Bool.eq_false_iff.mp hoff, not_or.mpr ⟨Nat.not_lt.mpr hgood, hne⟩⟩)]
  rfl

/-- What is chosen for it leaves it so. -/
theorem State.refFound_chosen (s : State) : (s.refFound.chooseSource false).bit Reg.CLK_STATUS 2 = true ∧ (s.refFound.chooseSource false).clk.refAbsent = false := by
  have hs : (s.refFound.chooseSource false).sources = s.refFound.sources := (s.refFound.aside_sources.chooseSource false).holds
  exact ⟨(congrArg Sources.ref hs).trans (s.bit_setBit_self _ (by decide) true), congrArg Sources.refAbsent hs⟩

/-- The PLL is locked from now on. -/
def State.locked (s : State) : State := (s.setBit Reg.CLK_STATUS 4 true).setClk { s.clk with switching := none, lockAt := some s.now }

/-- The PLL locks, and no loss of `REFCLK` is to be reported. -/
theorem execPllLocked_locks {s : State} {w : Nat} (hw : s.clk.switching = some w) (hloss : s.clk.lossDue = false) : execPllLocked s = .next s.locked := by
  have hquiet : ¬ (s.locked.clk.lossDue = true ∧ s.locked.bit Reg.CLK_STATUS 4 = true) := fun h => Bool.eq_false_iff.mp hloss h.1
  unfold execPllLocked
  rw [hw]
  exact congrArg Host.Outcome.next (if_neg hquiet)

theorem execPllLocked_idle {s : State} (h : s.clk.switching = none) : execPllLocked s = .next s := by
  unfold execPllLocked
  rw [h]

theorem execTimingLockHold_ends {s : State} {t : Nat} (hlock : s.clk.lockAt = some t) (hboth : s.clk.both = true)
    (hsrc : s.bit Reg.CLK_STATUS 2 = true ∨ s.bit Reg.CLK_STATUS 3 = true) (hpll : s.bit Reg.CLK_STATUS 4 = true) (hdue : t + 10000000 ≤ s.now) :
    execTimingLockHold s = .next ((s.setClk { s.clk with both := false }).syncTimings).settle := by
  unfold execTimingLockHold
  rw [hlock]
  exact congrArg Host.Outcome.next (if_pos ⟨hboth, hsrc, hpll, hdue⟩)

/-- Whether both sources are absent is aside of every transition. -/
theorem State.aside_both (s : State) : Aside (fun t => t.clk.both = s.clk.both) s := ⟨rfl, id, fun _ _ => id⟩

/-! ## The crystal (R184, R417) -/

/-- A field of 24 bits reads back a saturated value whole. -/
theorem State.f_setF_satS (s : State) (a : Nat) (x : Int) : (s.setF a 23 0 (satS 24 x)).f a 23 0 = satS 24 x := by
  rw [State.f_setF_self _ _ (by decide) (by decide)]
  exact Nat.mod_eq_of_lt (wrapNat_lt 24 _)

/-- The offset of the crystal, recorded. -/
def State.measured (s : State) (offset : Int) : State :=
  (s.setF Reg.XO_OFFSET 23 0 (satS 24 offset)).setClk { s.clk with measured := true, predAt := s.xtalPrediction, lastMeasure := s.now }

theorem execXoMeasure_due {s : State} (hsrc : s.f Reg.CLK_STATUS 1 0 = 0) (hpll : s.bit Reg.CLK_STATUS 4 = true) (hxtal : s.bit Reg.CLK_STATUS 3 = true)
    (hdue : s.clk.lastMeasure + 1000000000 ≤ s.now) (offset : Int) : execXoMeasure offset s = .next (s.measured offset) := by
  unfold execXoMeasure
  rw [if_pos ⟨hsrc, hpll, hxtal, hdue⟩]
  rfl

theorem execXoCorrection_due {s : State} (hsrc : s.f Reg.CLK_STATUS 1 0 = 1) (hdue : s.clk.corrAt + 1000000 ≤ s.now) :
    execXoCorrection s = .next (s.setClk { s.clk with
      corr := if s.clk.measured then s.fs Reg.XO_OFFSET 23 0 + s.xtalPrediction - s.clk.predAt else s.clk.corr, corrAt := s.now }) := by
  unfold execXoCorrection
  rw [if_pos ⟨hsrc, hdue⟩]

/-! ## The statement -/

/-- Settles O49, row by row: what a window, a source found again or a lock sets is aside of the recorder, the events, the planners and the transitions that follow it. -/
theorem clocksRun : Obligations.ClocksRun := by
  intro s
  refine ⟨fun ref xtal bc bp h => execClockWindow_idle h ref xtal bc bp, fun ref xtal hdev hdue => ?counts, fun hoff hgood hne => execRefclkPresent_found hoff hgood hne,
    fun w hw hloss => ⟨_, execPllLocked_locks hw hloss, ?locked, ?clk, rfl, fun a ha => s.rd_setBit_ne ha ..⟩, fun h => execPllLocked_idle h,
    fun t0 hlock hboth hsrc hpll hdue => execTimingLockHold_ends hlock hboth hsrc hpll hdue,
    fun off hsrc hpll hxtal hdue => ⟨_, execXoMeasure_due hsrc hpll hxtal hdue off, s.f_setF_satS _ off, rfl, fun a ha => s.rd_setF_ne ha ..⟩,
    fun hsrc hdue => ⟨_, execXoCorrection_due hsrc hdue, rfl, rfl, rfl, fun hm => if_pos hm⟩, fun ref xtal bc bp hdev hdue => ?judges,
    fun hoff hgood hne => ⟨_, execRefclkPresent_found hoff hgood hne, s.refFound_chosen⟩,
    fun t0 hlock hboth hsrc hpll hdue => ⟨_, execTimingLockHold_ends hlock hboth hsrc hpll hdue, ?held⟩⟩
  case counts =>
    obtain ⟨u, a, hexec, hu⟩ := execClockWindow_judges hdev hdue ref xtal [] []
    exact ⟨u, hexec, congrArg Sources.windows hu⟩
  case judges =>
    obtain ⟨u, a, hexec, hu⟩ := execClockWindow_judges hdev hdue ref xtal bc bp
    have ht : u.settle.sources = _ := u.aside_sources.settle.holds.trans hu
    exact ⟨_, hexec, congrArg Sources.windows ht, fun h => (congrArg Sources.ref ht).trans (judgeSource_outside h ..),
      fun h => (congrArg Sources.xtal ht).trans (judgeSource_outside h ..), fun h0 h1 => (congrArg Sources.ref ht).trans (judgeSource_inside h0 h1 ..)⟩
  case locked => exact s.bit_setBit_self _ (by decide) true
  case clk =>
    show ({ s.clk with switching := none, lockAt := some s.now } : Clk) = _
    rw [← hloss]
  case held => exact (s.setClk { s.clk with both := false }).aside_both.syncTimings.settle.holds

end Sys2Proof.Machine
end

section
/-!
PROOFS. Proofs/Combs.lean: the rows of the combs (R180, R194 to R208): what a binned event, a close word, a batch that is tested and a scan that ends leave of the comb.
-/

namespace Sys2Proof.Machine

open Sys2Proof

/-! ## A comb and its histograms -/

@[simp] theorem State.comb_setComb_self (s : State) (c : Nat) (x : CombSt) : (s.setComb c x).comb c = x := get_set_self ..

theorem State.comb_setHist (s : State) (c k : Nat) (h : Option PtHist) : (s.setHist c k h).comb c = { s.comb c with hists := (s.comb c).hists.set none k h } :=
  State.comb_setComb_self ..

@[simp] theorem State.hist_setHist_self (s : State) (c k : Nat) (h : Option PtHist) : (s.setHist c k h).hist c k = h := by
  unfold State.hist
  rw [State.comb_setHist]
  exact get_set_self ..

theorem State.hist_setHist_ne (s : State) (c : Nat) {j k : Nat} (hj : j ≠ k) (h : Option PtHist) : (s.setHist c k h).hist c j = s.hist c j := by
  unfold State.hist
  rw [State.comb_setHist]
  exact get_set_ne _ _ _ hj _

theorem State.hist_of_comb {s t : State} {c : Nat} (h : t.comb c = s.comb c) (k : Nat) : t.hist c k = s.hist c k := by
  unfold State.hist
  rw [h]

theorem State.hist_modHist_self (s : State) (c k : Nat) (f : PtHist → PtHist) : (s.modHist c k f).hist c k = (s.hist c k).map f := by
  unfold State.modHist
  split
  · next h hh => rw [State.hist_setHist_self, hh, Option.map_some]
  · next hh => rw [hh, Option.map_none]

theorem State.hist_modHist_ne (s : State) (c : Nat) {j k : Nat} (hj : j ≠ k) (f : PtHist → PtHist) : (s.modHist c k f).hist c j = s.hist c j := by
  unfold State.modHist
  split
  · exact s.hist_setHist_ne c hj _
  · rfl

/-- What an update of histograms leaves of each, it leaves of every histogram. -/
theorem State.hist_modHist_part {β : Type} (part : PtHist → β) (s : State) (c k j : Nat) {f : PtHist → PtHist} (hf : ∀ h, part (f h) = part h) :
    ((s.modHist c k f).hist c j).map part = (s.hist c j).map part := by
  by_cases hj : j = k
  · rw [hj, State.hist_modHist_self, Option.map_map]
    exact congrArg (Option.map · (s.hist c k)) (funext hf)
  · rw [s.hist_modHist_ne c hj]

/-- A comb but for its histograms. -/
def CombSt.rest (x : CombSt) : CombSt := { x with hists := ⟨[]⟩ }

/-- What accumulation changes: the histograms of comb c, and registers and flags. -/
structure State.Bins (c : Nat) (s t : State) : Prop where
  frame : ∃ combs regs flagNow, t = { s with combs := combs, regs := regs, flagNow := flagNow }
  comb : (t.comb c).rest = (s.comb c).rest

namespace State.Bins

variable {c : Nat} {s t u : State}

theorem refl (c : Nat) (s : State) : State.Bins c s s := ⟨⟨_, _, _, rfl⟩, rfl⟩

theorem trans (h : State.Bins c s t) (g : State.Bins c t u) : State.Bins c s u := by
  obtain ⟨⟨_, _, _, rfl⟩, hcomb⟩ := h
  obtain ⟨⟨_, _, _, rfl⟩, gcomb⟩ := g
  exact ⟨⟨_, _, _, rfl⟩, gcomb.trans hcomb⟩

theorem wr (h : State.Bins c s t) (a : Nat) (v : Word) : State.Bins c s (t.wr a v) := h.trans ⟨⟨_, _, _, rfl⟩, rfl⟩

theorem inc (h : State.Bins c s t) (a : Nat) : State.Bins c s (t.inc a) := h.wr ..

theorem flag (h : State.Bins c s t) (a i : Nat) : State.Bins c s (t.flag a i) := h.trans ⟨⟨_, _, _, rfl⟩, rfl⟩

theorem setHist (h : State.Bins c s t) (k : Nat) (x : Option PtHist) : State.Bins c s (t.setHist c k x) :=
  h.trans ⟨⟨_, _, _, rfl⟩, by rw [State.comb_setHist]; rfl⟩

theorem modHist (h : State.Bins c s t) (k : Nat) (f : PtHist → PtHist) : State.Bins c s (t.modHist c k f) := by
  unfold State.modHist
  split
  · exact h.setHist ..
  · exact h

theorem when {b : Bool} {g : State → State} (h : State.Bins c s t) (hg : State.Bins c s t → State.Bins c s (g t)) : State.Bins c s (t.when b g) := by
  unfold State.when
  split
  · exact hg h
  · exact h

theorem each {α : Type} {l : List α} {g : State → α → State} (h : State.Bins c s t) (hg : ∀ u a, State.Bins c s u → State.Bins c s (g u a)) :
    State.Bins c s (t.each l g) := by
  unfold State.each
  induction l generalizing t with
  | nil => exact h
  | cons a l ih => exact ih (hg t a h)

theorem tdc (h : State.Bins c s t) : t.tdc = s.tdc := by
  obtain ⟨_, _, _, rfl⟩ := h.frame
  rfl

theorem notices (h : State.Bins c s t) : (t.comb c).notices = (s.comb c).notices := (congrArg CombSt.notices h.comb :)

theorem verdicts (h : State.Bins c s t) : (t.comb c).verdicts = (s.comb c).verdicts := (congrArg CombSt.verdicts h.comb :)

end State.Bins

/-! ## Events that are binned (R198) -/

/-- A comb's accounts of event timing stand apart from its histograms, columns and notices. -/
theorem State.comb_setTdcComb (s : State) (c k : Nat) (x : TdcComb) : (s.setTdcComb c x).comb k = s.comb k := rfl

theorem State.combCol_setTdcComb (s : State) (c k key : Nat) (x : TdcComb) : (s.setTdcComb c x).combCol k key = s.combCol k key := rfl

theorem State.hist_setTdcComb (s : State) (c k key : Nat) (x : TdcComb) : (s.setTdcComb c x).hist k key = s.hist k key := rfl

/-- Comb c has taken its oldest event word, and `ws` wait. -/
def State.tookEvent (s : State) (c : Nat) (ws : List EvtWord) : State := s.setTdcComb c { s.tdcComb c with evts := ws, rd := ((s.tdcComb c).rd + 1) % 256 }

/-- What becomes of the word is a matter of the histograms. -/
theorem State.binEvent_bins {s : State} {c : Nat} {w : EvtWord} {ws : List EvtWord} (h : (s.tdcComb c).evts = w :: ws) :
    State.Bins c (s.tookEvent c ws) (s.binEvent c) := by
  have hu := State.Bins.refl c (s.tookEvent c ws)
  unfold State.binEvent
  dsimp only
  rw [h]
  dsimp only
  split
  · exact hu
  · split
    · exact hu
    · split
      · exact hu
      · split
        · exact hu.modHist ..
        · split
          · exact hu
          · split
            · exact hu
            · split
              · exact ((hu.modHist ..).inc _).flag ..
              · split
                · exact hu
                · exact ((hu.setHist ..).when fun h => h.flag ..).when fun h => h.flag ..

theorem State.tdcComb_setTdcComb_self (s : State) (c : Nat) (x : TdcComb) : (s.setTdcComb c x).tdcComb c = x := get_set_self ..

theorem State.tdcComb_of_tdc {s t : State} (h : t.tdc = s.tdc) (c : Nat) : t.tdcComb c = s.tdcComb c := by
  unfold State.tdcComb
  rw [h]

theorem State.binEvent_tdcComb {s : State} {c : Nat} {w : EvtWord} {ws : List EvtWord} (h : (s.tdcComb c).evts = w :: ws) :
    (s.binEvent c).tdcComb c = { s.tdcComb c with evts := ws, rd := ((s.tdcComb c).rd + 1) % 256 } :=
  (State.tdcComb_of_tdc (State.binEvent_bins h).tdc c).trans (State.tdcComb_setTdcComb_self ..)

theorem State.comb_when_flag (s : State) (b : Bool) (a i c : Nat) : (s.when b fun s => s.flag a i).comb c = s.comb c := by
  unfold State.when
  split
  · rfl
  · rfl

/-- The flags of saturation leave every comb. -/
theorem State.comb_saturated (s : State) (bins planes : Bool) (c : Nat) :
    ((s.when bins fun s => s.flag Reg.HIST_FLAGS 5).when planes fun s => s.flag Reg.HIST_FLAGS 4).comb c = s.comb c :=
  (State.comb_when_flag ..).trans (State.comb_when_flag ..)

/-- R198, last row: an event of a point that accumulates, within the bins used, is added to its histogram. -/
theorem State.binEvent_adds {s : State} {c : Nat} {w : EvtWord} {ws : List EvtWord} {nt : Notice} {col : CombCol} {g : CombSeg} {h : PtHist}
    (hevts : (s.tdcComb c).evts = w :: ws) (hnt : ((s.comb c).notices.find? fun n => n.number == w.number && n.seg == w.seg) = some nt) (hint : nt.internal = false)
    (hcol : s.combCol c nt.key = some col) (hstall : col.stalled = false) (hopen : col.closedAt = none) (hlit : col.dark = false) (hdark : (s.comb c).dark = false)
    (hacc : 16 * c + w.ch ∈ nt.acc) (hovf : w.ovf = false) (hseg : col.segs.find? (·.seg == w.seg) = some g) (hhist : s.hist c (ptKey nt.key (16 * c + w.ch)) = some h)
    (hbin : stampTime w.lsb w.ts / (640000 * 2 ^ g.w) < g.u) :
    (s.binEvent c).hist c (ptKey nt.key (16 * c + w.ch)) = some (h.add (stampTime w.lsb w.ts / (640000 * 2 ^ g.w)) (binsOf g.b) w.range w.sat) := by
  have hfree : ¬ (nt.internal = true ∨ col.stalled = true ∨ col.closedAt.isSome = true) := by simp [hint, hstall, hopen]
  have hbright : ¬ (col.dark = true ∨ (s.comb c).dark = true) := by simp [hlit, hdark]
  have htaken : ¬ (¬ nt.acc.contains (16 * c + w.ch) = true ∨ w.ovf = true) := by simp [hacc, hovf]
  simp only [State.binEvent, hevts, State.comb_setTdcComb, hnt, State.combCol_setTdcComb, hcol, if_neg hfree, if_neg hbright, if_neg htaken, hseg, if_neg (Nat.not_le.mpr hbin),
    State.hist_setTdcComb, hhist]
  rw [State.hist_of_comb (State.comb_saturated ..), State.hist_setHist_self]

/-! ## Close words (R180, R199) -/

theorem State.comb_putCombCol (s : State) (c : Nat) (x : CombCol) :
    (s.putCombCol c x).comb c = { s.comb c with cols := (s.comb c).cols.map fun y => if y.key = x.key then x else y } := State.comb_setComb_self ..

/-- A column of a comb that is put back is found where it was. -/
theorem State.combCol_putCombCol {s : State} {c key : Nat} {x y : CombCol} (hx : s.combCol c key = some x) (hy : y.key = x.key) : (s.putCombCol c y).combCol c key = some y := by
  have hkey : y.key = key := hy.trans (by simpa using List.find?_some hx)
  unfold State.combCol at hx ⊢
  rw [State.comb_putCombCol, List.find?_map]
  have hsame : ((fun x => x.key == key) ∘ fun z => if z.key = y.key then y else z) = fun x => x.key == key := by
    funext z
    by_cases hz : z.key = y.key
    · simp [hz]
    · simp [hz]
  rw [hsame, hx, Option.map_some, if_pos hy.symm]

/-- A change of a segment-column changes the comb's columns alone. -/
theorem State.modCombSeg_comb (s : State) (c key g : Nat) (f : CombSeg → CombSeg) :
    (∃ combs, s.modCombSeg c key g f = { s with combs := combs }) ∧ ∃ cols, (s.modCombSeg c key g f).comb c = { s.comb c with cols := cols } := by
  unfold State.modCombSeg
  split
  · exact ⟨⟨_, rfl⟩, _, s.comb_putCombCol ..⟩
  · exact ⟨⟨_, rfl⟩, _, rfl⟩

/-- The column of a segment that is changed is the same but for its segments. -/
theorem State.modCombSeg_combCol {s : State} {c key : Nat} {x : CombCol} (h : s.combCol c key = some x) (g : Nat) (f : CombSeg → CombSeg) :
    ∃ segs, (s.modCombSeg c key g f).combCol c key = some { x with segs := segs } := by
  unfold State.modCombSeg
  rw [h]
  exact ⟨_, State.combCol_putCombCol h rfl⟩

/-- Comb c has taken a close word, and `ms` wait. -/
def State.tookClose (s : State) (c : Nat) (ms : List Mark) : State := s.setTdcComb c { s.tdcComb c with marks := ms }

/-- R199: what a close word adds to the account of a point: a shot in its range, or one without its start, and whether events were dropped. -/
def PtHist.countShot (m : Mark) (r : Nat) (h : PtHist) : PtHist :=
  let h := if m.noStart then { h with noStart := h.noStart + 1 } else { h with
    n := h.n + 1, g0 := h.g0 + b2n (r == 0), g1 := h.g1 + b2n (r == 1), g2 := h.g2 + b2n (r == 2), g3 := h.g3 + b2n (r == 3) }
  { h with flags := setBitN h.flags 1 (bitN h.flags 1 || m.drop != 0) }

/-- A close word is accounted in the points of its shot, after the events that it tells lost. -/
def State.countClose (s : State) (c : Nat) (m : Mark) (nt : Notice) : State :=
  (s.each ((combChans c).filter fun n => bitN m.lost (n % 16)) fun s n => s.modHist c (ptKey nt.key n) fun h => { h with flags := setBitN h.flags 6 true }).each nt.acc
    fun s n => s.modHist c (ptKey nt.key n) (PtHist.countShot m ((nt.ranges.find? (·.1 == n)).getD (n, 0)).2)

theorem State.countClose_bins (s : State) (c : Nat) (m : Mark) (nt : Notice) : State.Bins c s (s.countClose c m nt) :=
  ((State.Bins.refl c s).each fun _ _ hu => hu.modHist ..).each fun _ _ hu => hu.modHist ..

/-- The comb forgets the notice of a shot that closed, and its batch has one shot less to wait for. -/
def State.shotClosed (s : State) (c : Nat) (m : Mark) (nt : Notice) : State :=
  (s.setComb c { s.comb c with notices := (s.comb c).notices.filter (· != nt) }).modCombSeg c nt.key nt.seg
    (modBatch nt.batch fun b => { b with shots := b.shots.filter (· != m.number), closedAt := some m.at_ })

/-- Whether a column of comb c is open. -/
def State.columnOpen (s : State) (c key : Nat) : Bool :=
  match s.combCol c key with
  | some col => col.closedAt.isNone
  | none => false

/-- R180: a close word of a shot that the comb has notice of. -/
theorem State.actClose_notice {s : State} {c : Nat} {m : Mark} {ms : List Mark} {nt : Notice} (hdue : (s.tdcComb c).dueClose = some (m, ms))
    (hnt : ((s.comb c).notices.find? fun n => n.number == m.number && n.seg == m.seg && n.internal == m.internal) = some nt) :
    s.actClose c = if !((s.tookClose c ms).shotClosed c m nt).columnOpen c nt.key ∨ nt.internal then (s.tookClose c ms).shotClosed c m nt
      else ((s.tookClose c ms).shotClosed c m nt).countClose c m nt := by
  unfold State.actClose
  extract_lets x
  split
  · next h => exact nomatch hdue.symm.trans h
  · next m' ms' h =>
    obtain ⟨rfl, rfl⟩ := Prod.mk.inj (Option.some.inj (h.symm.trans hdue))
    extract_lets u
    split
    · next h => exact nomatch hnt.symm.trans h
    · next nt' h =>
      obtain rfl := Option.some.inj (h.symm.trans hnt)
      rfl

theorem State.actClose_unknown {s : State} {c : Nat} {m : Mark} {ms : List Mark} (hdue : (s.tdcComb c).dueClose = some (m, ms))
    (hnt : ((s.comb c).notices.find? fun n => n.number == m.number && n.seg == m.seg && n.internal == m.internal) = none) : s.actClose c = s.tookClose c ms := by
  unfold State.actClose
  extract_lets x
  split
  · next h => exact nomatch hdue.symm.trans h
  · next m' ms' h =>
    obtain ⟨rfl, rfl⟩ := Prod.mk.inj (Option.some.inj (h.symm.trans hdue))
    extract_lets u
    split
    · rfl
    · next nt' h => exact nomatch hnt.symm.trans h

/-- A shot that closes changes its comb's notices and columns alone. -/
theorem State.shotClosed_comb (s : State) (c : Nat) (m : Mark) (nt : Notice) : (s.shotClosed c m nt).tdc = s.tdc ∧
    ∃ cols, (s.shotClosed c m nt).comb c = { s.comb c with cols := cols, notices := (s.comb c).notices.filter (· != nt) } := by
  obtain ⟨⟨combs, hframe⟩, cols, hcomb⟩ := (s.setComb c { s.comb c with notices := (s.comb c).notices.filter (· != nt) }).modCombSeg_comb c nt.key nt.seg
    (modBatch nt.batch fun b => { b with shots := b.shots.filter (· != m.number), closedAt := some m.at_ })
  rw [State.comb_setComb_self] at hcomb
  exact ⟨(congrArg State.tdc hframe :), cols, hcomb⟩

/-- What the row makes of a shot is the notice that goes and the accounts in the histograms. -/
theorem State.actClose_bins {s : State} {c : Nat} {m : Mark} {ms : List Mark} {nt : Notice} (hdue : (s.tdcComb c).dueClose = some (m, ms))
    (hnt : ((s.comb c).notices.find? fun n => n.number == m.number && n.seg == m.seg && n.internal == m.internal) = some nt) :
    State.Bins c ((s.tookClose c ms).shotClosed c m nt) (s.actClose c) := by
  rw [State.actClose_notice hdue hnt]
  split
  · exact State.Bins.refl ..
  · exact State.countClose_bins ..

/-- R180: a close word is taken, whatever the comb knows of its shot. -/
theorem State.actClose_marks {s : State} {c : Nat} {m : Mark} {ms : List Mark} (hdue : (s.tdcComb c).dueClose = some (m, ms)) : ((s.actClose c).tdcComb c).marks = ms := by
  have htdc : (s.actClose c).tdc = (s.tookClose c ms).tdc := by
    cases hnt : (s.comb c).notices.find? fun n => n.number == m.number && n.seg == m.seg && n.internal == m.internal with
    | none => rw [State.actClose_unknown hdue hnt]
    | some nt => exact (State.actClose_bins hdue hnt).tdc.trans (State.shotClosed_comb ..).1
  rw [State.tdcComb_of_tdc htdc]
  exact congrArg TdcComb.marks (State.tdcComb_setTdcComb_self ..)

theorem State.actClose_notices {s : State} {c : Nat} {m : Mark} {ms : List Mark} {nt : Notice} (hdue : (s.tdcComb c).dueClose = some (m, ms))
    (hnt : ((s.comb c).notices.find? fun n => n.number == m.number && n.seg == m.seg && n.internal == m.internal) = some nt) :
    ((s.actClose c).comb c).notices = (s.comb c).notices.filter (· != nt) := by
  obtain ⟨-, cols, hcomb⟩ := (s.tookClose c ms).shotClosed_comb c m nt
  exact (State.actClose_bins hdue hnt).notices.trans (congrArg CombSt.notices hcomb)

/-- A shot that closes leaves every histogram. -/
theorem State.hist_shotClosed (s : State) (c k : Nat) (m : Mark) (nt : Notice) : (s.shotClosed c m nt).hist c k = s.hist c k := by
  obtain ⟨-, cols, hcomb⟩ := s.shotClosed_comb c m nt
  unfold State.hist
  rw [hcomb]

theorem State.combCol_setNotices (s : State) (c key : Nat) (l : List Notice) : (s.setComb c { s.comb c with notices := l }).combCol c key = s.combCol c key := by
  unfold State.combCol
  rw [State.comb_setComb_self]

/-- A shot that closes leaves its column open. -/
theorem State.shotClosed_open {s : State} {c : Nat} {nt : Notice} {col : CombCol} (m : Mark) (hcol : s.combCol c nt.key = some col) (hopen : col.closedAt = none) :
    (s.shotClosed c m nt).columnOpen c nt.key = true := by
  have hcol' : (s.setComb c { s.comb c with notices := (s.comb c).notices.filter (· != nt) }).combCol c nt.key = some col :=
    (State.combCol_setNotices ..).trans hcol
  obtain ⟨segs, hsegs⟩ := State.modCombSeg_combCol hcol' nt.seg (modBatch nt.batch fun b => { b with shots := b.shots.filter (· != m.number), closedAt := some m.at_ })
  unfold State.columnOpen State.shotClosed
  rw [hsegs]
  exact Option.isNone_iff_eq_none.mpr hopen

/-- The mark of lost events leaves the shots of every point. -/
theorem State.shots_lost (s : State) (c key n : Nat) (l : List Nat) :
    ((s.each l fun s n => s.modHist c (ptKey key n) fun h => { h with flags := setBitN h.flags 6 true }).hist c (ptKey key n)).map PtHist.n
      = (s.hist c (ptKey key n)).map PtHist.n := by
  unfold State.each
  induction l generalizing s with
  | nil => rfl
  | cons a l ih => exact (ih _).trans (s.hist_modHist_part PtHist.n c _ _ (by intro h; rfl))

theorem PtHist.countShot_n {m : Mark} (hstart : m.noStart = false) (r : Nat) (h : PtHist) : (h.countShot m r).n = h.n + 1 := by
  unfold PtHist.countShot
  rw [hstart]
  rfl

/-- R199: in the account of a shot of one point, that point has one shot more. -/
theorem State.countClose_counts {s : State} {c n : Nat} {m : Mark} {nt : Notice} {h : PtHist} (hacc : nt.acc = [n]) (hstart : m.noStart = false)
    (hhist : s.hist c (ptKey nt.key n) = some h) : ∃ h', (s.countClose c m nt).hist c (ptKey nt.key n) = some h' ∧ h'.n = h.n + 1 := by
  unfold State.countClose
  rw [hacc]
  have hlost := s.shots_lost c nt.key n ((combChans c).filter fun n => bitN m.lost (n % 16))
  rw [hhist] at hlost
  obtain ⟨h₁, hh₁, hn⟩ := Option.map_eq_some_iff.mp hlost
  refine ⟨_, (State.hist_modHist_self ..).trans (congrArg _ hh₁), ?_⟩
  rw [PtHist.countShot_n hstart, hn]

/-- R199: a shot of one point, which the tile started, is one shot more of that point, in a column that is open. -/
theorem State.actClose_counts {s : State} {c n : Nat} {m : Mark} {ms : List Mark} {nt : Notice} {col : CombCol} {h : PtHist} (hdue : (s.tdcComb c).dueClose = some (m, ms))
    (hnt : ((s.comb c).notices.find? fun n => n.number == m.number && n.seg == m.seg && n.internal == m.internal) = some nt)
    (hcol : s.combCol c nt.key = some col) (hopen : col.closedAt = none) (hint : nt.internal = false) (hacc : nt.acc = [n]) (hstart : m.noStart = false)
    (hhist : s.hist c (ptKey nt.key n) = some h) : ∃ h', (s.actClose c).hist c (ptKey nt.key n) = some h' ∧ h'.n = h.n + 1 := by
  have hlive : ((s.tookClose c ms).shotClosed c m nt).columnOpen c nt.key = true := State.shotClosed_open m hcol hopen
  rw [State.actClose_notice hdue hnt, if_neg (by simp [hlive, hint])]
  exact State.countClose_counts hacc hstart ((State.hist_shotClosed ..).trans hhist)

/-! ## Batches (R201, R203) -/

theorem State.execBatchComplete_due {s : State} {c : Fin 32} {g : Fin 64} {key k : Nat} (hdue : s.dueBatch c g = some (key, k)) (hroom : (s.comb c).verdicts.length < 32) :
    execBatchComplete c g s = .next (s.testBatch c key g k) := by
  unfold execBatchComplete
  rw [hdue]
  exact congrArg _ (if_pos hroom)

theorem State.execBatchComplete_none {s : State} {c : Fin 32} {g : Fin 64} (hdue : s.dueBatch c g = none) : execBatchComplete c g s = .next s := by
  unfold execBatchComplete
  rw [hdue]

/-- The test of a channel gives its histogram a verdict. -/
theorem testChannel_bins (c key : Nat) (col : CombCol) (sg : CombSeg) (a : Nat × Nat × State) (n : Nat) : State.Bins c a.2.2 (testChannel c key col sg a n).2.2 := by
  unfold testChannel
  split
  · exact State.Bins.refl ..
  · split
    · exact State.Bins.refl ..
    · exact (State.Bins.refl ..).setHist ..

theorem testChannels_bins (c key : Nat) (col : CombCol) (sg : CombSeg) (l : List Nat) (a : Nat × Nat × State) :
    State.Bins c a.2.2 (l.foldl (testChannel c key col sg) a).2.2 := by
  induction l generalizing a with
  | nil => exact State.Bins.refl ..
  | cons n l ih => exact (testChannel_bins c key col sg a n).trans (ih _)

@[simp] theorem State.comb_add (s : State) (a n c : Nat) : (s.add a n).comb c = s.comb c := rfl

/-- R203: the verdict of a tested batch is the last in the comb's queue. -/
theorem State.testBatch_verdicts {s : State} {c key g : Nat} {col : CombCol} {sg : CombSeg} (hcol : s.combCol c key = some col)
    (hseg : col.segs.find? (·.seg == g) = some sg) (k : Nat) :
    ∃ v, ((s.testBatch c key g k).comb c).verdicts = (s.comb c).verdicts ++ [v] ∧ v.key = key ∧ v.column = col.column ∧ v.comb = c ∧ v.seg = g ∧ v.batch = k := by
  unfold State.testBatch
  simp only [hcol, hseg]
  generalize hr : List.foldl (testChannel c key col sg) _ _ = r
  have hbins : State.Bins c (s.modCombSeg c key g (modBatch k fun b => { b with done := true })) r.2.2 := hr ▸ testChannels_bins c key col sg _ (0, 0, _)
  obtain ⟨-, cols, hcomb⟩ := s.modCombSeg_comb c key g (modBatch k fun b => { b with done := true })
  have hold : (r.2.2.comb c).verdicts = (s.comb c).verdicts := hbins.verdicts.trans (congrArg CombSt.verdicts hcomb :)
  simp only [State.comb_add, State.comb_setComb_self, hold]
  exact ⟨_, rfl, rfl, rfl, rfl, rfl, rfl⟩

/-! ## Columns that leave the comb (R205 to R208) -/

/-- The waits that are counted leave a comb's histograms, ring and notices. -/
theorem State.countWait_comb (s : State) (c : Nat) : ∃ cols, (s.countWait c).comb c = { s.comb c with cols := cols } := by
  unfold State.countWait
  extract_lets n ends u y
  have hu : u.comb c = s.comb c := by
    unfold u
    split
    · rfl
    · split
      · rfl
      · rfl
  have hy : y = s.comb c := hu
  rw [State.comb_setComb_self, hy]
  exact ⟨_, rfl⟩

theorem State.hist_countWait (s : State) (c k : Nat) : (s.countWait c).hist c k = s.hist c k := by
  obtain ⟨cols, hcomb⟩ := s.countWait_comb c
  unfold State.hist
  rw [hcomb]

theorem State.exportPts_of_hist {s t : State} {c : Nat} (h : ∀ k, t.hist c k = s.hist c k) (key : Nat) : t.exportPts c key = s.exportPts c key := by
  unfold State.exportPts
  simp only [h]

theorem State.held_setComb (s : State) (c : Nat) (x : CombSt) : (s.setComb c x).held = s.held := rfl

theorem State.held_add (s : State) (a n : Nat) : (s.add a n).held = s.held := rfl

theorem State.held_countWait (s : State) (c : Nat) : (s.countWait c).held = s.held := by
  unfold State.countWait
  extract_lets n ends u y
  have hu : u.held = s.held := by
    unfold u
    split
    · rfl
    · split
      · rfl
      · rfl
  exact (State.held_setComb ..).trans ((State.held_add ..).trans hu)

/-- The counts of the waits stand apart from the channels' states and the combs' controls. -/
theorem State.rd_countWait {s : State} {c a : Nat} (hwait : a ≠ Reg.HIST_RING_WAIT c) (hflags : a ≠ Reg.HIST_FLAGS) : (s.countWait c).rd a = s.rd a := by
  unfold State.countWait
  extract_lets n ends u
  have hu : u.rd a = s.rd a := by
    unfold u
    split
    · rfl
    · split
      · exact State.rd_flag_ne _ hflags _
      · exact State.rd_wr_ne _ hflags _
  exact (State.rd_setR_ne _ hwait _).trans hu

theorem State.combs_setF (s : State) (a hi lo v : Nat) : (s.setF a hi lo v).combs = s.combs := (rfl)

theorem State.combs_flag (s : State) (a i : Nat) : (s.flag a i).combs = s.combs := (rfl)

/-- The adaptive threshold is a matter of registers. -/
theorem State.combs_updateAdp (s : State) (c : Nat) : (s.updateAdp c).combs = s.combs := by
  simp only [State.updateAdp, apply_ite State.combs, State.combs_setF, State.combs_flag, ite_self]

theorem State.comb_updateAdp (s : State) (c k : Nat) : (s.updateAdp c).comb k = s.comb k := by
  unfold State.comb
  rw [State.combs_updateAdp]

theorem State.comb_setF (s : State) (a hi lo v k : Nat) : (s.setF a hi lo v).comb k = s.comb k := rfl

theorem State.comb_syncFill (s : State) (c k : Nat) : (s.syncFill c).comb k = s.comb k := (State.comb_setF ..).trans (State.comb_setF ..)

/-- R205: comb c has no more of a column, whose bank is free again. -/
def State.leaveCol (s : State) (c : Nat) (col : CombCol) : State :=
  let s := if col.stalled then s else s.setBank c (col.column % 2) 0
  let s := s.setComb c { s.comb c with
    cols := (s.comb c).cols.filter (·.key != col.key), notices := (s.comb c).notices.filter (·.key != col.key) }
  (s.updateAdp c).syncFill c

theorem State.leaveCol_comb (s : State) (c : Nat) (col : CombCol) :
    (s.leaveCol c col).comb c = { s.comb c with cols := (s.comb c).cols.filter (·.key != col.key), notices := (s.comb c).notices.filter (·.key != col.key) } := by
  unfold State.leaveCol
  extract_lets u y t
  have hu : u.comb c = s.comb c := by
    unfold u
    split
    · rfl
    · rfl
  have hy : y = s.comb c := hu
  rw [State.comb_syncFill, State.comb_updateAdp, State.comb_setComb_self, hu, hy]

/-- R205: both passes have ended, and the comb's ring took every point. -/
theorem State.exportScan_ends {s : State} {c : Nat} {col : CombCol} (hcol : ((s.comb c).cols.find? fun x => x.closedAt.isSome) = some col)
    (htime : 625 * s.scanCycles c col + col.closedAt.getD 0 * 1000 ≤ s.now * 1000) (hdone : ∀ g b, g ∈ col.segs → b ∈ g.batches → b.done = true)
    (hall : (((s.countWait c).exportAll c col (s.exportPts c col.key)).exportPts c col.key) = []) :
    s.exportScan c = ((s.countWait c).exportAll c col (s.exportPts c col.key)).leaveCol c col := by
  have hpts := State.exportPts_of_hist (s.hist_countWait c) col.key
  have htests : ¬ (col.segs.any fun g => g.batches.any fun b => !b.done) = true := by
    simpa using fun g hg b => hdone g b hg
  unfold State.exportScan
  rw [hcol]
  dsimp only
  rw [if_neg (by omega), if_neg htests, hpts, hall]
  rfl

/-- R205: a column that no point of the comb waits for leaves it. -/
theorem State.exportScan_nothing {s : State} {c : Nat} {col : CombCol} (hcol : ((s.comb c).cols.find? fun x => x.closedAt.isSome) = some col)
    (htime : 625 * s.scanCycles c col + col.closedAt.getD 0 * 1000 ≤ s.now * 1000) (hdone : ∀ g b, g ∈ col.segs → b ∈ g.batches → b.done = true)
    (hpts : s.exportPts c col.key = []) : s.exportScan c = (s.countWait c).leaveCol c col := by
  have hcount : (s.countWait c).exportPts c col.key = [] := (State.exportPts_of_hist (s.hist_countWait c) _).trans hpts
  rw [State.exportScan_ends hcol htime hdone (by rw [hpts]; exact hcount), hpts]
  rfl

/-- R205, R207: a point whose record fits enters the comb's ring, and its histogram is free again. -/
theorem State.exportPt_comb {s : State} {c n : Nat} {col : CombCol} {h : PtHist} {g : CombSeg} (hhist : s.hist c (ptKey col.key n) = some h)
    (hseg : col.segs.find? (·.seg == h.seg) = some g) (hchan : s.chanState n = 0) (hdiag : bitN (s.ef (Reg.HIST_CTRL c) 31 0) 3 = false)
    (hroom : ((s.comb c).ring.map (·.size)).sum + (exportRec col g n h).size ≤ 49152) : (s.exportPt c col n).comb c =
      { s.comb c with ring := (s.comb c).ring ++ [exportRec col g n h], hists := (s.comb c).hists.set none (ptKey col.key n) none } := by
  unfold State.exportPt
  simp only [hhist, hseg, if_neg (not_not_intro hchan), if_neg (Nat.not_lt.mpr hroom), hdiag]
  split
  · rw [if_neg Bool.false_ne_true, State.comb_setHist, State.comb_setComb_self]
  · rw [if_neg Bool.false_ne_true]
    exact (State.comb_setHist ..).trans (by rw [State.comb_setComb_self])

theorem State.exportPts_eq_nil_of_cleared {s t : State} {c n key : Nat} (hpts : s.exportPts c key = [n])
    (hcleared : ∀ k, t.hist c k = if k = ptKey key n then none else s.hist c k) : t.exportPts c key = [] := by
  refine List.filter_eq_nil_iff.mpr fun m hm => ?_
  rw [hcleared]
  by_cases hkey : ptKey key m = ptKey key n
  · simp [hkey]
  · have hne : m ∉ s.exportPts c key := by
      rw [hpts, List.mem_singleton]
      exact fun h => hkey (h ▸ rfl)
    rw [if_neg hkey]
    exact fun h => hne (List.mem_filter.mpr ⟨hm, h⟩)

theorem State.exportAll_one (s : State) (c n : Nat) (col : CombCol) : s.exportAll c col [n] = s.exportPt c col n := ite_self _

/-- R205: a column leaves the comb when its one point fits the ring. -/
theorem State.exportScan_one {s : State} {c n : Nat} {col : CombCol} {h : PtHist} {g : CombSeg} (hc : c < 32)
    (hcol : ((s.comb c).cols.find? fun x => x.closedAt.isSome) = some col)
    (htime : 625 * s.scanCycles c col + col.closedAt.getD 0 * 1000 ≤ s.now * 1000) (hdone : ∀ g b, g ∈ col.segs → b ∈ g.batches → b.done = true)
    (hpts : s.exportPts c col.key = [n]) (hhist : s.hist c (ptKey col.key n) = some h) (hseg : col.segs.find? (·.seg == h.seg) = some g) (hchan : s.chanState n = 0)
    (hdiag : bitN (s.ef (Reg.HIST_CTRL c) 31 0) 3 = false) (hroom : ((s.comb c).ring.map (·.size)).sum + (exportRec col g n h).size ≤ 49152) :
    ((s.exportScan c).comb c).ring = (s.comb c).ring ++ [exportRec col g n h] ∧ (s.exportScan c).hist c (ptKey col.key n) = none := by
  have hn : n < 512 := by
    have hmem : n ∈ combChans c := (List.mem_filter.mp (hpts ▸ List.mem_singleton_self n : n ∈ s.exportPts c col.key)).1
    obtain ⟨i, hi, rfl⟩ := List.mem_map.mp hmem
    have := List.mem_range.mp hi
    omega
  obtain ⟨cols, hwait⟩ := s.countWait_comb c
  have hring : ((s.countWait c).comb c).ring = (s.comb c).ring := (congrArg CombSt.ring hwait :)
  have hchan' : (s.countWait c).chanState n = 0 := by
    unfold State.chanState State.f
    rw [State.rd_countWait (by unfold Reg.RX_CH Reg.HIST_RING_WAIT; omega) (by unfold Reg.RX_CH Reg.HIST_FLAGS; omega)]
    exact hchan
  have hdiag' : bitN ((s.countWait c).ef (Reg.HIST_CTRL c) 31 0) 3 = false := by
    unfold State.ef State.eff
    rw [State.held_countWait, State.rd_countWait (by unfold Reg.HIST_CTRL Reg.HIST_RING_WAIT; omega) (by unfold Reg.HIST_CTRL Reg.HIST_FLAGS; omega)]
    exact hdiag
  have hcomb := State.exportPt_comb ((s.hist_countWait c _).trans hhist) hseg hchan' hdiag' (by rw [hring]; exact hroom)
  have hone : (s.countWait c).exportAll c col (s.exportPts c col.key) = (s.countWait c).exportPt c col n := by
    rw [hpts]
    exact State.exportAll_one ..
  have hcleared : ∀ k, ((s.countWait c).exportPt c col n).hist c k = if k = ptKey col.key n then none else s.hist c k := by
    intro k
    unfold State.hist
    rw [hcomb, hwait]
    dsimp only
    split
    · next hk => rw [hk, get_set_self]
    · next hk => rw [get_set_ne _ _ _ hk]
  rw [State.exportScan_ends hcol htime hdone (by rw [hone]; exact State.exportPts_eq_nil_of_cleared hpts hcleared), hone]
  constructor
  · rw [State.leaveCol_comb, hcomb, hring]
  · unfold State.hist
    rw [State.leaveCol_comb, hcomb]
    dsimp only
    rw [get_set_self]

end Sys2Proof.Machine
end

section
/-!
PROOFS. Proofs/Hives.lean: the rows of the hives and of the chain (R233 to R236, R257, R258): what a dispatch, a finished point, a check and a window of the chain leave.
-/

namespace Sys2Proof.Machine

open Sys2Proof

/-! ## Hives and engines -/

@[simp] theorem State.hive_setHive_self (s : State) (h : Nat) (x : HiveSt) : (s.setHive h x).hive h = x := get_set_self ..

@[simp] theorem State.engine_setEngine_self (s : State) (e : Nat) (x : Option EngineJob) : (s.setEngine e x).engine e = x := get_set_self ..

theorem State.hive_setEngine (s : State) (h e : Nat) (x : Option EngineJob) : (s.setEngine e x).hive h = s.hive h := rfl

theorem State.comb_setEngine (s : State) (c e : Nat) (x : Option EngineJob) : (s.setEngine e x).comb c = s.comb c := rfl

/-! ## Dispatch (R233) -/

/-- The oldest waiting record goes to an idle engine. -/
theorem State.hiveDispatch_waiting {s : State} {h e : Nat} {w : WaitRec} {ws : List WaitRec} (hw : (s.hive h).waiting = w :: ws) (he : s.idleEngine h = some e) :
    s.hiveDispatch h = (s.setHive h { s.hive h with waiting := ws }).setEngine e (some { point := w.point, since := s.now, again := w.again }) := by
  unfold State.hiveDispatch
  dsimp only
  rw [hw, he]

theorem State.now_setComb (s : State) (c : Nat) (x : CombSt) : (s.setComb c x).now = s.now := rfl

theorem State.now_setF (s : State) (a hi lo v : Nat) : (s.setF a hi lo v).now = s.now := rfl

theorem State.now_syncFill (s : State) (c : Nat) : (s.syncFill c).now = s.now := (State.now_setF ..).trans (State.now_setF ..)

/-- With none waiting, the next record of a comb's ring does. -/
theorem State.hiveDispatch_ring {s : State} {h c e : Nat} {r : ExpRec} (hw : (s.hive h).waiting = []) (hr : s.ringFor h = some (c, r)) (he : s.idleEngine h = some e) :
    s.hiveDispatch h = ((s.setComb c { s.comb c with ring := (s.comb c).ring.drop 1 }).syncFill c).setEngine e (some { point := r, since := s.now }) := by
  unfold State.hiveDispatch
  dsimp only
  rw [hw, he, hr]
  dsimp only
  rw [State.now_syncFill, State.now_setComb]

/-! ## Completion (R233) -/

/-- What a finished point still has to do once its engine is idle: it leaves every engine, and the register at `a`. -/
structure State.Beside (a : Nat) (s t : State) : Prop where
  engines : t.det.engines = s.det.engines
  rd : t.rd a = s.rd a

namespace State.Beside

variable {a : Nat} {s t u : State}

theorem refl (a : Nat) (s : State) : State.Beside a s s := ⟨rfl, rfl⟩

theorem trans (h : State.Beside a s t) (g : State.Beside a t u) : State.Beside a s u := ⟨g.engines.trans h.engines, g.rd.trans h.rd⟩

theorem wr (h : State.Beside a s t) {b : Nat} (hb : a ≠ b) (v : Word) : State.Beside a s (t.wr b v) := h.trans ⟨rfl, t.rd_wr_ne hb v⟩

theorem add (h : State.Beside a s t) {b : Nat} (hb : a ≠ b) (n : Nat) : State.Beside a s (t.add b n) := h.wr hb _

theorem inc (h : State.Beside a s t) {b : Nat} (hb : a ≠ b) : State.Beside a s (t.inc b) := h.wr hb _

theorem flag (h : State.Beside a s t) {b : Nat} (hb : a ≠ b) (i : Nat) : State.Beside a s (t.flag b i) := h.trans ⟨rfl, t.rd_flag_ne hb i⟩

theorem setHive (h : State.Beside a s t) (k : Nat) (x : HiveSt) : State.Beside a s (t.setHive k x) := h.trans ⟨rfl, rfl⟩

theorem setResult (h : State.Beside a s t) (k : Nat) (x : Option DetPoint) : State.Beside a s (t.setResult k x) := h.trans ⟨rfl, rfl⟩

theorem setFree (h : State.Beside a s t) (n : Nat) : State.Beside a s { t with freeCtr := n } := h.trans ⟨rfl, rfl⟩

theorem setLatency (h : State.Beside a s t) (sum n peak : Nat) : State.Beside a s (t.setDet { t.det with latSum := sum, latN := n, latPeak := peak }) :=
  h.trans ⟨rfl, rfl⟩

theorem setRej (h : State.Beside a s t) (x : Rej) : State.Beside a s { t with rej := x } := h.trans ⟨rfl, rfl⟩

theorem each {α : Type} {l : List α} {g : State → α → State} (h : State.Beside a s t) (hg : ∀ u x, State.Beside a u (g u x)) : State.Beside a s (t.each l g) := by
  unfold State.each
  induction l generalizing t with
  | nil => exact h
  | cons x l ih => exact ih (h.trans (hg t x))

theorem r (h : State.Beside a s t) : t.r a = s.r a := congrArg BitVec.toNat h.rd

theorem engine (h : State.Beside a s t) (e : Nat) : t.engine e = s.engine e := congrArg (fun x => x.get none e) h.engines

end State.Beside

/-- The weather figures of a point are in the state of rejection alone. -/
theorem State.wxPoint_beside (a : Nat) (s : State) (r : ExpRec) : State.Beside a s (s.wxPoint r) := by
  unfold State.wxPoint
  split
  · exact State.Beside.refl ..
  · extract_lets nc e net hit low x q u
    have hu : State.Beside a s u := by
      unfold u
      split
      · exact State.Beside.refl ..
      · exact (State.Beside.refl ..).setRej _
    exact hu.each fun v m => (State.Beside.refl ..).setRej _

/-- A window that the chain takes or skips leaves the counts but its own. -/
theorem State.pushChain_beside {a h : Nat} (hskip : a ≠ Reg.FC_SKIP h) (hflags : a ≠ Reg.FC_FLAGS) (s : State) (k : FrameCfg) (r : ExpRec) (w : WinRec) :
    State.Beside a s (s.pushChain h k r w).2 := by
  unfold State.pushChain
  dsimp only
  split
  · exact (State.Beside.refl ..).setHive ..
  · exact ((State.Beside.refl a s).inc hskip).flag hflags _

theorem State.chainPoint_beside {a h : Nat} (hskip : a ≠ Reg.FC_SKIP h) (hflags : a ≠ Reg.FC_FLAGS) (s : State) (k : FrameCfg) (r : ExpRec) :
    State.Beside a s (s.chainPoint h k r).2 := by
  unfold State.chainPoint
  split
  · exact State.Beside.refl ..
  · dsimp only
    clear * - hskip hflags
    generalize k.eligible _ _ _ = ws
    generalize ({} : RedBlock) = b
    induction ws generalizing s b with
    | nil => exact State.Beside.refl ..
    | cons w ws ih => exact (State.pushChain_beside hskip hflags s k r w).trans (ih ..)

theorem State.engine_retire (s : State) (e : Nat) (j : EngineJob) : (s.retire e j).engine e = none := get_set_self ..

/-- What follows the idle engine and the count is apart from both, but for the point's result. -/
theorem State.pointDone_result {s : State} {e : Nat} {j : EngineJob} (hj : s.engine e = some j) :
    ∃ t x, s.pointDone e = t.setResult (ptKey j.point.key j.point.ch) (some x) ∧
      State.Beside (Reg.HIVE_RECORDS (e / 128)) ((s.retire e j).inc (Reg.HIVE_RECORDS (e / 128))) t := by
  unfold State.pointDone
  split
  · next h => exact nomatch hj.symm.trans h
  · next j' h =>
    obtain rfl := Option.some.inj (h.symm.trans hj)
    extract_lets r k u₁ u₂ mem d u₃ u₄ u₅ ns det u₆ u₇ b
    refine ⟨_, _, rfl, ?_⟩
    have h₄ : State.Beside (Reg.HIVE_RECORDS (e / 128)) u₂ u₄ :=
      ((State.Beside.refl ..).setFree _).add (by unfold Reg.HIVE_RECORDS Reg.DET_ECHO_COUNT; omega) _
    have h₅ : State.Beside (Reg.HIVE_RECORDS (e / 128)) u₂ u₅ := by
      unfold u₅
      split
      · exact h₄
      · exact (h₄.add (by unfold Reg.HIVE_RECORDS Reg.DET_ECHO_OVER; omega) _).flag (by unfold Reg.HIVE_RECORDS Reg.DET_FLAGS; omega) _
    have h₇ : State.Beside (Reg.HIVE_RECORDS (e / 128)) u₂ u₇ := by
      unfold u₇
      split
      · exact h₅.setLatency ..
      · exact (h₅.setLatency ..).trans (State.wxPoint_beside ..)
    exact h₇.trans (State.chainPoint_beside (by unfold Reg.HIVE_RECORDS Reg.FC_SKIP; omega) (by unfold Reg.HIVE_RECORDS Reg.FC_FLAGS; omega) ..)

/-- R233: a point that is done leaves its engine idle, is counted, and has its result. -/
theorem State.pointDone_effects {s : State} {e : Nat} {j : EngineJob} (hj : s.engine e = some j) : (s.pointDone e).engine e = none ∧
    (s.pointDone e).r (Reg.HIVE_RECORDS (e / 128)) = min (s.r (Reg.HIVE_RECORDS (e / 128)) + 1) 0xFFFFFFFF ∧
    ((s.pointDone e).det.results.get none (ptKey j.point.key j.point.ch)).isSome = true := by
  obtain ⟨t, x, hdone, hrest⟩ := State.pointDone_result hj
  rw [hdone]
  have hall := hrest.setResult (ptKey j.point.key j.point.ch) (some x)
  refine ⟨(hall.engine e).trans (s.engine_retire e j), hall.r.trans (State.r_inc ..), ?_⟩
  exact congrArg Option.isSome (get_set_self ..)

/-! ## The check of an engine (R236) -/

theorem State.execEngineCheck_idle {s : State} {h : Fin 8} (hidle : s.variant.hives ≤ h.val ∨ (s.hive h).checked = true) (pass : Bool) :
    execEngineCheck h pass s = .next s := by
  unfold execEngineCheck
  dsimp only
  rw [if_pos (by tauto)]

/-- The state in which the engine of hive h whose turn it was has been checked. -/
def State.checkedHive (s : State) (h : Nat) : State := s.setHive h { s.hive h with turn := ((s.hive h).turn + 1) % 128, checked := true }

theorem State.execEngineCheck_due {s : State} {h : Fin 8} (hh : h.val < s.variant.hives) (hx : (s.hive h).checked = false) (hdev : s.dev.anyState = true) (pass : Bool) :
    execEngineCheck h pass s = .next (if pass then s.checkedHive h else if mergeEngine (128 * h.val + (s.hive h).turn) then (s.checkedHive h).halt 0x73
      else ((s.checkedHive h).fence (128 * h.val + (s.hive h).turn)).assemble) := by
  unfold execEngineCheck
  dsimp only
  rw [if_neg (by simp [hx, hdev, hh])]
  rfl

/-! ## Windows of the chain (R257, R258) -/

@[simp] theorem State.hive_popChain (s : State) (h : Nat) : (s.popChain h).hive h = { s.hive h with chain := (s.hive h).chain.drop 1, chainAt := s.now } :=
  State.hive_setHive_self ..

/-- A change of a reduction block leaves the hives and the registers. -/
theorem State.modRed_part (s : State) (k : Nat) (f : RedBlock → RedBlock) : ((s.modRed k f).det.hives, (s.modRed k f).regs, (s.modRed k f).variant) =
    (s.det.hives, s.regs, s.variant) := by
  unfold State.modRed
  split
  · rfl
  · rfl

theorem State.hive_modRed (s : State) (k h : Nat) (f : RedBlock → RedBlock) : (s.modRed k f).hive h = s.hive h :=
  congrArg (fun x => x.get {} h) (congrArg Prod.fst (s.modRed_part k f))

theorem State.rd_modRed (s : State) (k a : Nat) (f : RedBlock → RedBlock) : (s.modRed k f).rd a = s.rd a := by
  have hpart := congrArg Prod.snd (s.modRed_part k f)
  exact congrArg (fun x : _ × Variant => x.1.get (regReset x.2 a) a) hpart

theorem State.hive_add (s : State) (a n h : Nat) : (s.add a n).hive h = s.hive h := rfl

theorem State.hive_inc (s : State) (a h : Nat) : (s.inc a).hive h = s.hive h := rfl

theorem State.hive_flag (s : State) (a i h : Nat) : (s.flag a i).hive h = s.hive h := rfl

theorem State.rd_add_ne (s : State) {a b : Nat} (hb : b ≠ a) (n : Nat) : (s.add a n).rd b = s.rd b := s.rd_wr_ne hb _

theorem State.hive_when_flag (s : State) (p : Prop) [Decidable p] (a i h : Nat) : (if p then s else s.flag a i).hive h = s.hive h := by
  split
  · rfl
  · rfl

theorem State.rd_when_flag (s : State) (p : Prop) [Decidable p] {a b : Nat} (hb : b ≠ a) (i : Nat) : (if p then s else s.flag a i).rd b = s.rd b := by
  split
  · rfl
  · exact s.rd_flag_ne hb i

/-- R258: a window that is reduced leaves the chain's queue, and is counted. -/
theorem State.chainWindow_effects {s : State} {h : Nat} {c : ChainWin} {cs : List ChainWin} (hc : (s.hive h).chain = c :: cs)
    (hready : s.chainReady h (s.cfgOf c.frame) = true) :
    ((s.chainWindow h).hive h).chain = cs ∧ (s.chainWindow h).r (Reg.FC_WINDOWS h) = min (s.r (Reg.FC_WINDOWS h) + 1) 0xFFFFFFFF := by
  unfold State.chainWindow
  split
  · next hnil => exact nomatch hc.symm.trans hnil
  · next c' _ hcons =>
    obtain ⟨rfl, -⟩ := List.cons.inj (hcons.symm.trans hc)
    dsimp only
    rw [hready, if_neg (by simp)]
    have hsat : Reg.FC_WINDOWS h ≠ Reg.FC_SAT_COUNT := by unfold Reg.FC_WINDOWS Reg.FC_SAT_COUNT; omega
    have hflags : Reg.FC_WINDOWS h ≠ Reg.FC_FLAGS := by unfold Reg.FC_WINDOWS Reg.FC_FLAGS; omega
    constructor
    · rw [State.hive_modRed, State.hive_when_flag, State.hive_when_flag, State.hive_add, State.hive_inc, State.hive_popChain, hc]
      rfl
    · unfold State.r
      rw [State.rd_modRed, State.rd_when_flag _ _ hflags, State.rd_when_flag _ _ hflags, State.rd_add_ne _ hsat]
      exact State.r_inc ..

/-- R258, R269: a window that is lost leaves the chain's queue, and is counted and flagged. -/
theorem State.chainMemErr_effects {s : State} {h : Nat} {c : ChainWin} {cs : List ChainWin} (hc : (s.hive h).chain = c :: cs) :
    ((s.chainMemErr h).hive h).chain = cs ∧ (s.chainMemErr h).r (Reg.FC_SKIP h) = min (s.r (Reg.FC_SKIP h) + 1) 0xFFFFFFFF ∧
      (s.chainMemErr h).bit Reg.FC_FLAGS 2 = true := by
  unfold State.chainMemErr
  split
  · next hnil => exact nomatch hc.symm.trans hnil
  · next c' _ hcons =>
    dsimp only
    refine ⟨?_, ?_, ?_⟩
    · rw [State.hive_modRed, State.hive_flag, State.hive_inc, State.hive_popChain, hc]
      rfl
    · unfold State.r
      rw [State.rd_modRed, State.rd_flag_ne _ (by unfold Reg.FC_SKIP Reg.FC_FLAGS; omega)]
      exact State.r_inc ..
    · unfold State.bit
      rw [State.rd_modRed]
      exact State.bit_flag_self _ _ (by decide)

end Sys2Proof.Machine
end

section
/-!
PROOFS. Proofs/Clusters.lean: clusters that close and zones that get a result (R245 to R254): what a cluster of few points leaves, the context that the first cluster creates,
and what the result of a zone shows.
-/

namespace Sys2Proof.Machine

open Sys2Proof

/-! ## Bytes of a context -/

theorem length_putBytes {e : List Byte} {o n : Nat} (h : o + n ≤ e.length) (v : Nat) : (putBytes e o n v).length = e.length := by
  simp only [putBytes, List.length_append, List.length_take, List.length_drop, leBytes_length]
  omega

/-- A field that is put leaves the bytes before it. -/
theorem fieldAt_putBytes_before {e : List Byte} {i o : Nat} (hi : i < o) (ho : o ≤ e.length) (n v : Nat) : fieldAt (putBytes e o n v) i 1 = fieldAt e i 1 := by
  have hlen : (e.take o).length = o := List.length_take_of_le ho
  have hbyte : ((putBytes e o n v).drop i).take 1 = (e.drop i).take 1 := by
    unfold putBytes
    rw [List.append_assoc, List.drop_append_of_le_length (by omega), List.take_append_of_le_length (by rw [List.length_drop]; omega), List.drop_take, List.take_take,
      Nat.min_eq_left (by omega)]
  unfold fieldAt bytesAt
  simp only [hbyte]

/-- The byte that is put is there. -/
theorem fieldAt_putBytes_self {e : List Byte} {o v : Nat} (ho : o ≤ e.length) (hv : v < 256) : fieldAt (putBytes e o 1 v) o 1 = v := by
  unfold putBytes
  rw [List.append_assoc, fieldAt_append _ _ (o := 0) (by rw [List.length_take_of_le ho]; rfl)]
  exact fieldAt_leBytes_append _ hv

/-- The same of a list of fields. -/
theorem putAll_before {e : List Byte} {i : Nat} {l : List (Nat × Nat × Nat)} (hl : ∀ f ∈ l, i < f.1 ∧ f.1 + f.2.1 ≤ e.length) :
    (putAll e l).length = e.length ∧ fieldAt (putAll e l) i 1 = fieldAt e i 1 := by
  unfold putAll
  induction l generalizing e with
  | nil => exact ⟨rfl, rfl⟩
  | cons f l ih =>
    obtain ⟨hi, ho⟩ := hl f (List.mem_cons_self ..)
    have hlen := length_putBytes ho f.2.2
    obtain ⟨hlen', hbyte⟩ := ih (e := putBytes e f.1 f.2.1 f.2.2) fun g hg => hlen.symm ▸ hl g (List.mem_cons_of_mem f hg)
    exact ⟨hlen'.trans hlen, hbyte.trans (fieldAt_putBytes_before hi (by omega) ..)⟩

theorem length_setFlag {e : List Byte} {o : Nat} (h : o + 1 ≤ e.length) (i : Nat) (b : Bool) : (setFlag e o i b).length = e.length := length_putBytes h _

/-- R247: what every update ends with leaves the state of the context. -/
theorem State.finishTrack_state (s : State) (by_ : Nat × Bool) {e : List Byte} (he : e.length = 64) (m : Meas) (d2 : Nat) :
    fieldAt (s.finishTrack by_ e m d2) 2 1 = fieldAt e 2 1 := by
  unfold State.finishTrack
  extract_lets e₁ e₂ e₃
  obtain ⟨hlen₁, hstate⟩ : e₁.length = e.length ∧ fieldAt e₁ 2 1 = fieldAt e 2 1 := putAll_before (by simp [he])
  have hlen₂ : e₂.length = e₁.length := length_setFlag (by omega) ..
  have hlen₃ : e₃.length = e₂.length := length_setFlag (by omega) ..
  calc fieldAt (putBytes e₃ 41 1 (classHint e₃)) 2 1
    _ = fieldAt e₃ 2 1 := fieldAt_putBytes_before (by decide) (by omega) ..
    _ = fieldAt e₂ 2 1 := fieldAt_putBytes_before (by decide) (by omega) ..
    _ = fieldAt e₁ 2 1 := fieldAt_putBytes_before (by decide) (by omega) ..
    _ = fieldAt e 2 1 := hstate

/-! ## The registers of the close (R254) -/

theorem lookupL_filter_none {α : Type} {cls : Nat → Bool} {a : Nat} (ha : cls a = true) (l : List (Nat × α)) : lookupL (l.filter fun e => !cls e.1) a = none := by
  induction l with
  | nil => rfl
  | cons e l ih =>
    by_cases he : cls e.1 = true
    · rw [List.filter_cons_of_neg (by simp [he]), ih]
    · rw [List.filter_cons_of_pos (by simp [he])]
      exact (if_neg fun h : e.1 = a => he (h ▸ ha)).trans ih

/-- A register whose writes have taken effect is in force as it reads. -/
theorem State.eff_takeEffect (s : State) {cls : Nat → Bool} {a : Nat} (ha : cls a = true) : (s.takeEffect cls).eff a = s.rd a := by
  have hnone : (s.takeEffect cls).held.get none a = none := by
    unfold State.takeEffect Tbl.get
    rw [lookupL_filter_none ha]
    rfl
  unfold State.eff
  rw [hnone]
  rfl

/-! ## Clusters (R245 to R248) -/

theorem State.execClusterClose_none {s : State} (h : s.det.clusters.find? (·.due) = none) : execClusterClose s = .next s := by
  unfold execClusterClose
  rw [h]

/-- The state without a cluster. -/
def State.leaveCluster (s : State) (c : Cluster) : State := s.setDet { s.det with clusters := s.det.clusters.filter (· != c) }

theorem State.execClusterClose_due {s : State} {c : Cluster} (h : s.det.clusters.find? (·.due) = some c) : execClusterClose s = .next ((s.leaveCluster c).associate c) := by
  unfold execClusterClose
  rw [h]
  rfl

theorem State.associate_few {s : State} {c : Cluster} (h : c.meas.points < max 1 (s.f Reg.TRK_CLUSTER 15 8)) : s.associate c = s.takeEffect trackClass := if_pos h

theorem State.associate_enough {s : State} {c : Cluster} (h : max 1 (s.f Reg.TRK_CLUSTER 15 8) ≤ c.meas.points) :
    s.associate c = (s.takeEffect trackClass).associateBy (s.takeEffect trackClass).trkCfg c := if_neg (Nat.not_lt.mpr h)

theorem State.track_wr (s : State) (a : Nat) (v : Word) (i : Nat) : (s.wr a v).track i = s.track i := rfl

theorem State.track_inc (s : State) (a i : Nat) : (s.inc a).track i = s.track i := rfl

theorem State.track_setDet (s : State) (d : Det) (i : Nat) : (s.setDet d).track i = s.track i := rfl

theorem State.r_setDet (s : State) (d : Det) (a : Nat) : (s.setDet d).r a = s.r a := rfl

theorem State.track_setTrack_self (s : State) (i : Nat) (e : List Byte) : (s.setTrack i e).track i = e :=
  (State.track_wr ..).trans ((State.track_wr ..).trans (get_set_self ..))

theorem State.det_wr (s : State) (a : Nat) (v : Word) : (s.wr a v).det = s.det := rfl

theorem State.det_inc (s : State) (a : Nat) : (s.inc a).det = s.det := rfl

theorem State.det_setDet (s : State) (d : Det) : (s.setDet d).det = d := rfl

theorem State.det_setTrack (s : State) (i : Nat) (e : List Byte) : (s.setTrack i e).det = s.det := (State.det_wr ..).trans (State.det_wr ..)

/-- A context has its bytes apart from the registers; only their count shows them. -/
theorem State.rd_setTrack_ne (s : State) {a : Nat} (ha : a ≠ Reg.TRACK_COUNT) (i : Nat) (e : List Byte) : (s.setTrack i e).rd a = s.rd a :=
  (State.rd_wr_ne _ ha _).trans (State.rd_wr_ne _ ha _)

theorem State.track_blank {s : State} (htracks : s.plan.tracks = ⟨[]⟩) (i : Nat) : s.track i = blank64 := by
  unfold State.track
  rw [htracks]
  rfl

/-- With no context, the first one is free. -/
theorem State.freeTrack_blank {s : State} (htracks : s.plan.tracks = ⟨[]⟩) : ((List.range 4096).find? fun i => fieldAt (s.track i) 2 1 == 0) = some 0 := by
  rw [show 4096 = 4095 + 1 from rfl, List.range_succ_eq_map, List.find?_cons_of_pos]
  rw [State.track_blank htracks]
  rfl

/-- With no context and no host write, a cluster creates one. -/
theorem State.associateBy_first {s : State} (htracks : s.plan.tracks = ⟨[]⟩) (hwrites : s.plan.hostWrites = ⟨[]⟩) (k : TrkCfg) (c : Cluster) :
    s.associateBy k c = State.createTrack { s with freeCtr := s.freeCtr + 4096 } k c.meas := by
  have hwaits : State.hostWaits { s with freeCtr := s.freeCtr + 4096 } 0 = false := by
    unfold State.hostWaits
    dsimp only
    rw [hwrites]
    rfl
  have hfree := State.freeTrack_blank (s := { s with freeCtr := s.freeCtr + 4096 }) htracks
  unfold State.associateBy
  extract_lets m gate live inGate u free lt
  have hgate : inGate = [] := by
    unfold inGate live
    rw [htracks]
    rfl
  have hbest : bestBy lt free = none := by
    unfold free
    rw [hgate]
    rfl
  rw [hbest, hgate]
  simp only [List.isEmpty_nil, Bool.not_true, Bool.false_eq_true, if_false]
  rw [hfree]
  dsimp only
  rw [hwaits]
  exact if_neg Bool.false_ne_true

/-- The state that a new context begins with stands in its bytes, whatever fields follow it. -/
theorem putAll_new {l : List (Nat × Nat × Nat)} {st : Nat} (hl : ∀ f ∈ l, 2 < f.1 ∧ f.1 + f.2.1 ≤ 64) (hst : st < 256) (gen : Nat) :
    (putAll blank64 ((0, 2, gen) :: (2, 1, st) :: l)).length = 64 ∧ fieldAt (putAll blank64 ((0, 2, gen) :: (2, 1, st) :: l)) 2 1 = st := by
  have hgen : (putBytes blank64 0 2 gen).length = 64 := length_putBytes (by decide) gen
  have hlen : (putBytes (putBytes blank64 0 2 gen) 2 1 st).length = 64 := (length_putBytes (by rw [hgen]; decide) st).trans hgen
  obtain ⟨hall, hbyte⟩ := putAll_before (i := 2) (fun f hf => hlen.symm ▸ hl f hf)
  exact ⟨hall.trans hlen, hbyte.trans (fieldAt_putBytes_self (by rw [hgen]; decide) hst)⟩

/-- Context i begins, by detection, with the bytes `e` (R248, R249). -/
def State.beginTrack (s : State) (i : Nat) (e : List Byte) (m : Meas) : State :=
  let s := (s.setTrack i (s.finishTrack (s.timeUs, true) e m 0)).inc Reg.TRK_CREATED
  s.setDet { s.det with changed := i :: s.det.changed, origin := s.det.origin.set (0, false) i (s.timeUs, true) }

/-- R248: the first context that a cluster creates, with the state that it begins with. -/
theorem State.createTrack_first {s : State} (htracks : s.plan.tracks = ⟨[]⟩) (k : TrkCfg) (m : Meas) : ∃ e : List Byte, e.length = 64 ∧
    fieldAt e 2 1 = (if bitsOf k.assoc 15 8 ≤ 1 then 2 else 1) ∧ s.createTrack k m = s.beginTrack 0 e m := by
  have hst : (if bitsOf k.assoc 15 8 ≤ 1 then 2 else 1) < 256 := by
    split
    · decide
    · decide
  unfold State.createTrack
  generalize (if bitsOf k.assoc 15 8 ≤ 1 then 2 else 1) = st at hst ⊢
  split
  · next hnone => exact nomatch (State.freeTrack_blank htracks).symm.trans hnone
  · next i hi =>
    obtain rfl := Option.some.inj (hi.symm.trans (State.freeTrack_blank htracks))
    refine ⟨_, ?_, ?_, rfl⟩
    · exact (putAll_new (by simp) hst _).1
    · exact (putAll_new (by simp) hst _).2

/-- R248: what a cluster that creates the first context leaves. -/
theorem State.createTrack_effects {s : State} (htracks : s.plan.tracks = ⟨[]⟩) (k : TrkCfg) (m : Meas) : (s.createTrack k m).det.clusters = s.det.clusters ∧
    fieldAt ((s.createTrack k m).track 0) 2 1 = (if bitsOf k.assoc 15 8 ≤ 1 then 2 else 1) ∧
    (s.createTrack k m).r Reg.TRK_CREATED = min (s.r Reg.TRK_CREATED + 1) 0xFFFFFFFF := by
  obtain ⟨e, hlen, hstate, hnew⟩ := State.createTrack_first htracks k m
  rw [hnew]
  unfold State.beginTrack
  dsimp only
  refine ⟨?_, ?_, ?_⟩
  · rw [State.det_setDet, State.det_inc, State.det_setTrack]
  · rw [State.track_setDet, State.track_inc, State.track_setTrack_self, State.finishTrack_state _ _ hlen, hstate]
  · rw [State.r_setDet, State.r_inc, State.r, State.rd_setTrack_ne _ (by decide), ← State.r]

/-- R245, R248: a cluster of enough points, with no context and no host write, leaves and creates the first context. -/
theorem State.closeCluster_creates {s : State} {c : Cluster} (h : max 1 (s.f Reg.TRK_CLUSTER 15 8) ≤ c.meas.points) (htracks : s.plan.tracks = ⟨[]⟩)
    (hwrites : s.plan.hostWrites = ⟨[]⟩) : ((s.leaveCluster c).associate c).det.clusters = s.det.clusters.filter (· != c) ∧
      fieldAt (((s.leaveCluster c).associate c).track 0) 2 1 = (if s.f Reg.TRK_ASSOC 15 8 ≤ 1 then 2 else 1) ∧
      ((s.leaveCluster c).associate c).r Reg.TRK_CREATED = min (s.r Reg.TRK_CREATED + 1) 0xFFFFFFFF := by
  rw [State.associate_enough (s := s.leaveCluster c) h]
  have hassoc : ((s.leaveCluster c).takeEffect trackClass).trkCfg.assoc = s.rd Reg.TRK_ASSOC := State.eff_takeEffect _ (by decide)
  have hcount : ((s.leaveCluster c).takeEffect trackClass).r Reg.TRK_CREATED = s.r Reg.TRK_CREATED := rfl
  have hclusters : ((s.leaveCluster c).takeEffect trackClass).det.clusters = s.det.clusters.filter (· != c) := rfl
  have htracks' : ((s.leaveCluster c).takeEffect trackClass).plan.tracks = ⟨[]⟩ := htracks
  have hwrites' : ((s.leaveCluster c).takeEffect trackClass).plan.hostWrites = ⟨[]⟩ := hwrites
  generalize (s.leaveCluster c).takeEffect trackClass = u at *
  obtain ⟨hdet, hstate, hcreated⟩ := State.createTrack_effects (s := { u with freeCtr := u.freeCtr + 4096 }) htracks' u.trkCfg c.meas
  rw [State.associateBy_first htracks' hwrites']
  rw [hassoc] at hstate
  exact ⟨hdet.trans hclusters, hstate, hcreated.trans (congrArg (fun n => min (n + 1) 0xFFFFFFFF) hcount)⟩

/-! ## Zones (R252, R253) -/

theorem State.execZoneResult_none {s : State} {z : Fin 64} (h : (s.det.ready.find? fun r => r.2.any (·.zone == z.val + 1)) = none) : execZoneResult z s = .next s := by
  unfold execZoneResult
  rw [h]

/-- The state with no result of a frame to come. -/
def State.allReported (s : State) : State := s.setDet { s.det with ready := [] }

/-- R252: the one result that is to come is of this zone. -/
theorem State.execZoneResult_one {s : State} {z : Fin 64} {f : Nat} {c : ZoneCount} (h : s.det.ready = [(f, [c])]) (hc : c.zone = z.val + 1) :
    execZoneResult z s = .next (if s.allReported.dev.emitting = false ∨ zoneEn ((s.allReported.cfgOf f).zones.get blank32 z) = false then s.allReported
      else s.allReported.applyZone z f ((s.allReported.cfgOf f).zones.get blank32 z) c) := by
  have hrest : ((s.det.ready.map fun r => if r.1 = f then (f, r.2.filter (·.zone != z.val + 1)) else r).filter fun r => !r.2.isEmpty) = [] := by simp [h, hc]
  have hready : (s.det.ready.find? fun r => r.2.any (·.zone == z.val + 1)) = some (f, [c]) := by simp [h, hc]
  unfold execZoneResult
  split
  · next hnone => exact nomatch hready.symm.trans hnone
  · next f' l hsome =>
    obtain ⟨rfl, rfl⟩ := Prod.mk.inj (Option.some.inj (hsome.symm.trans hready))
    split
    · next hnone => simp [hc] at hnone
    · next c' hc' =>
      obtain rfl : c' = c := by simpa [hc, eq_comm] using hc'
      extract_lets d u d' v e
      have hv : v = s.allReported := congrArg (fun r => s.setDet { s.det with ready := r }) hrest
      unfold e
      rw [hv]
      simp only [Bool.not_eq_eq_eq_not, Bool.not_true]

/-- What sending an alert leaves: the results to come, and the register at `a`. -/
structure State.Alerts (a : Nat) (s t : State) : Prop where
  ready : t.det.ready = s.det.ready
  rd : t.rd a = s.rd a

namespace State.Alerts

variable {a : Nat} {s t u : State}

theorem refl (a : Nat) (s : State) : State.Alerts a s s := ⟨rfl, rfl⟩

theorem trans (h : State.Alerts a s t) (g : State.Alerts a t u) : State.Alerts a s u := ⟨g.ready.trans h.ready, g.rd.trans h.rd⟩

theorem setSub (h : State.Alerts a s t) (ch : Nat) (x : Sub) : State.Alerts a s (t.setSub ch x) := h.trans ⟨rfl, rfl⟩

theorem setStreams (h : State.Alerts a s t) (x : Streams) : State.Alerts a s { t with streams := x } := h.trans ⟨rfl, rfl⟩

theorem add (h : State.Alerts a s t) {b : Nat} (hb : a ≠ b) (n : Nat) : State.Alerts a s (t.add b n) := h.trans ⟨rfl, t.rd_add_ne hb n⟩

theorem flag (h : State.Alerts a s t) {b : Nat} (hb : a ≠ b) (i : Nat) : State.Alerts a s (t.flag b i) := h.trans ⟨rfl, t.rd_flag_ne hb i⟩

theorem ite {p : Prop} [Decidable p] (h : State.Alerts a s t) (g : State.Alerts a s u) : State.Alerts a s (if p then t else u) := by
  split
  · exact h
  · exact g

theorem each {α : Type} {l : List α} {g : State → α → State} (h : State.Alerts a s t) (hg : ∀ u x, State.Alerts a u (g u x)) : State.Alerts a s (t.each l g) := by
  unfold State.each
  induction l generalizing t with
  | nil => exact h
  | cons x l ih => exact ih (h.trans (hg t x))

/-- R374: a loss is counted on the page of the streams. -/
theorem countLoss (h : State.Alerts a s t) (ha : a < Reg.STREAM_CTRL) (ch cause records bytes back : Nat) : State.Alerts a s (t.countLoss ch cause records bytes back) := by
  have hrec : a ≠ Reg.STREAM_LOST_RECORDS := Nat.ne_of_lt (Nat.lt_trans ha (by decide))
  have hbytes : a ≠ Reg.STREAM_LOST_BYTES := Nat.ne_of_lt (Nat.lt_trans ha (by decide))
  have hflags : a ≠ Reg.STREAM_FLAGS := Nat.ne_of_lt (Nat.lt_trans ha (by decide))
  unfold State.countLoss
  extract_lets x u
  have hu : State.Alerts a s u := ite (ite h (h.setStreams _)) (h.setSub ..)
  exact ((hu.add hrec _).add hbytes _).flag hflags 0

theorem dropOldest (h : State.Alerts a s t) (ha : a < Reg.STREAM_CTRL) (ch need fuel : Nat) : State.Alerts a s (t.dropOldest ch need fuel) := by
  induction fuel generalizing t with
  | zero => exact h
  | succ n ih =>
    unfold State.dropOldest
    dsimp only
    split
    · exact h
    · split
      · exact h
      · exact ih ((h.setSub ..).countLoss ha ..)

theorem placePkt (h : State.Alerts a s t) (ha : a < Reg.STREAM_CTRL) (ch : Nat) (x : StreamPkt) : State.Alerts a s (t.placePkt ch x) := by
  unfold State.placePkt
  extract_lets u v w
  have hv : State.Alerts a s v := ite (h.dropOldest ha ..) h
  exact ite h (ite (hv.countLoss ha ..) (hv.setSub ..))

theorem joinAlerts (h : State.Alerts a s t) {ch frame : Nat} {l : List (List Byte)} (hu : t.joinAlerts ch frame l = some u) : State.Alerts a s u := by
  unfold State.joinAlerts at hu
  dsimp only at hu
  split at hu
  · split at hu
    · obtain rfl := Option.some.inj hu
      exact h.setSub ..
    · exact nomatch hu
  · exact nomatch hu

theorem placeAlerts (h : State.Alerts a s t) (ha : a < Reg.STREAM_CTRL) (frame : Nat) (l : List (List Byte)) : State.Alerts a s (t.placeAlerts frame l) := by
  unfold State.placeAlerts
  refine ite h (h.each fun u ch => ?_)
  dsimp only
  split
  · next hj => exact (refl a u).joinAlerts hj
  · exact ((refl a u).placePkt ha ..).setSub ..

theorem startSafety (h : State.Alerts a s t) (ch : Nat) : State.Alerts a s (t.startSafety ch) := by
  unfold State.startSafety
  exact ite (h.setSub ..) h

theorem formAlert (h : State.Alerts a s t) (i prev : Nat) (byState : Bool) (result frame : Nat) (c : ZoneCount) :
    State.Alerts a s (t.formAlert i prev byState result frame c).2 :=
  h.setStreams _

end State.Alerts

theorem State.det_setF (s : State) (a hi lo v : Nat) : (s.setF a hi lo v).det = s.det := (rfl)

theorem State.det_flag (s : State) (a i : Nat) : (s.flag a i).det = s.det := (rfl)

theorem State.det_setCap (s : State) (x : Cap) : (s.setCap x).det = s.det := (rfl)

theorem State.det_setCapSlot (s : State) (i : Nat) (x : CapSlot) : (s.setCapSlot i x).det = s.det := (State.det_setF ..).trans (State.det_setCap ..)

theorem State.det_setCapSt (s : State) (n : Nat) : (s.setCapSt n).det = s.det := (rfl)

theorem State.det_missTrigger (s : State) (slot time : Nat) : (s.missTrigger slot time).det = s.det := (State.det_setCapSlot ..).trans ((State.det_flag ..).trans (State.det_inc ..))

/-- A capture trigger is apart from detection (R283). -/
theorem State.det_trigger (s : State) (src detail time : Nat) : (s.trigger src detail time).det = s.det := by
  simp only [State.trigger, apply_ite State.det, State.det_missTrigger, State.det_setCapSlot, State.det_setCapSt, State.det_setCap, State.det_flag, ite_self]

theorem State.det_enterZone (s : State) (i st : Nat) : (s.enterZone i st).det = s.det := by
  simp only [State.enterZone, apply_ite State.det, State.det_trigger, State.det_flag, State.det_setF, ite_self]

theorem State.det_addF (s : State) (a hi lo n : Nat) : (s.addF a hi lo n).det = s.det := (rfl)

theorem State.ready_setRuns (s : State) (i : Nat) (r : Nat × Nat) : (s.setRuns i r).det.ready = s.det.ready := (rfl)

theorem State.zoneHits (s : State) (z hits v : Nat) :
    ((s.setF (Reg.ZONE_STATE z) 15 8 (min 255 hits)).setF (Reg.ZONE_STATE z) 23 16 v).f (Reg.ZONE_STATE z) 15 8 = min 255 hits := by
  rw [State.f_setF_off _ _ (by decide) (by decide) (by decide), State.f_setF_self _ _ (by decide) (by decide)]
  exact Nat.mod_eq_of_lt (Nat.lt_of_le_of_lt (Nat.min_le_left ..) (by decide))

/-- R252, R253: the zone with index z has taken its result: its runs, its state and its figures. -/
def State.showZone (s : State) (z : Nat) (e : List Byte) (c : ZoneCount) : State :=
  let r := zoneResult e c
  let q := s.det.runs.get (0, 0) z
  let occ := if r = 1 then q.1 + 1 else 0
  let clr := if r = 3 then q.2 + 1 else 0
  ((((s.setRuns z (occ, clr)).addF (Reg.ZONE_STATE z) 31 24 1).enterZone z (zoneNext e (s.zoneState z) r occ clr)).setF (Reg.ZONE_STATE z) 15 8 (min 255 c.hits)).setF
    (Reg.ZONE_STATE z) 23 16 (if c.covering = 0 then 0 else min 255 (divRoundNat (256 * c.short) c.covering))

/-- The result is sent: subscriptions of the safety class start, and an alert is placed. -/
def State.sendZone (s : State) (z prev result frame : Nat) (c : ZoneCount) : State :=
  let a := (s.each (s.subList.filter fun ch => (s.sub ch).kind == 6) State.startSafety).formAlert z prev false result frame c
  a.2.placeAlerts frame [a.1]

theorem State.applyZone_on {s : State} {z : Nat} (hon : s.zoneState z ≠ 0) (f : Nat) (e : List Byte) (c : ZoneCount) :
    s.applyZone z f e c = (s.showZone z e c).sendZone z (s.zoneState z) (zoneResult e c) f c := if_neg hon

theorem State.showZone_effects (s : State) (z : Nat) (e : List Byte) (c : ZoneCount) :
    (s.showZone z e c).det.ready = s.det.ready ∧ (s.showZone z e c).f (Reg.ZONE_STATE z) 15 8 = min 255 c.hits := by
  refine ⟨?_, State.zoneHits ..⟩
  unfold State.showZone
  dsimp only
  rw [State.det_setF, State.det_setF, State.det_enterZone, State.det_addF, State.ready_setRuns]

theorem State.sendZone_alerts {a : Nat} (ha : a < Reg.STREAM_CTRL) (s : State) (z prev result frame : Nat) (c : ZoneCount) :
    State.Alerts a s (s.sendZone z prev result frame c) :=
  (((State.Alerts.refl ..).each fun _ _ => (State.Alerts.refl ..).startSafety _).formAlert ..).placeAlerts ha ..

/-- R252: the result of a zone that is not OFF shows its hits, and no result to come is lost. -/
theorem State.applyZone_effects {s : State} {z : Nat} (hz : z < 64) (hon : s.zoneState z ≠ 0) (f : Nat) (e : List Byte) (c : ZoneCount) :
    (s.applyZone z f e c).det.ready = s.det.ready ∧ (s.applyZone z f e c).f (Reg.ZONE_STATE z) 15 8 = min 255 c.hits := by
  have hpage : Reg.ZONE_STATE z < Reg.STREAM_CTRL := by unfold Reg.ZONE_STATE Reg.STREAM_CTRL; omega
  rw [State.applyZone_on hon]
  obtain ⟨hready, hhits⟩ := s.showZone_effects z e c
  have hsent := State.sendZone_alerts hpage (s.showZone z e c) z (s.zoneState z) (zoneResult e c) f c
  refine ⟨hsent.ready.trans hready, ?_⟩
  rw [State.f, hsent.rd]
  exact hhits

end Sys2Proof.Machine
end

section
/-!
PROOFS. Proofs/Detection.lean: the finder of foreign emitters (R216 to R219), and the statement on histograms, hives, chain, clusters, zones and finder.
-/

namespace Sys2Proof.Machine

open Sys2Proof

/-! ## The finder takes an event (R217, R218) -/

/-- What the contexts of the finder go through leaves the clock and the events that wait. -/
structure State.Finds (s t : State) : Prop where
  now : t.now = s.now
  queue : t.rej.feQueue = s.rej.feQueue

namespace State.Finds

variable {s t u : State}

theorem refl (s : State) : State.Finds s s := ⟨rfl, rfl⟩

theorem trans (h : State.Finds s t) (g : State.Finds t u) : State.Finds s u := ⟨g.now.trans h.now, g.queue.trans h.queue⟩

theorem wr (h : State.Finds s t) (a : Nat) (v : Word) : State.Finds s (t.wr a v) := h.trans ⟨rfl, rfl⟩

theorem flag (h : State.Finds s t) (a i : Nat) : State.Finds s (t.flag a i) := h.trans ⟨rfl, rfl⟩

theorem raise (h : State.Finds s t) (code : Nat) (params : List Byte) : State.Finds s (t.raise code .all params) := by
  obtain ⟨_, _, _, hframe⟩ := (t.raise_events code params).frame
  exact h.trans ⟨(congrArg State.now hframe :), (congrArg (fun u => u.rej.feQueue) hframe :)⟩

theorem noteContexts (h : State.Finds s t) (last hit : Tbl Nat) : State.Finds s { t with rej := { t.rej with ctxLast := last, ctxHit := hit } } := h.trans ⟨rfl, rfl⟩

theorem ite {p : Prop} [Decidable p] (h : State.Finds s t) (g : State.Finds s u) : State.Finds s (if p then t else u) := by
  split
  · exact h
  · exact g

theorem each {α : Type} {l : List α} {g : State → α → State} (h : State.Finds s t) (hg : ∀ u x, State.Finds u (g u x)) : State.Finds s (t.each l g) := by
  unfold State.each
  induction l generalizing t with
  | nil => exact h
  | cons x l ih => exact ih (h.trans (hg t x))

theorem feFree (h : State.Finds s t) (i : Nat) : State.Finds s (t.feFree i) := by
  have ht : State.Finds s (if t.feSt i = 2 then t.raise Ev.FOREIGN_RELEASED .all (t.fePayload i) else t) := ite (h.raise ..) h
  exact ((((ht.wr ..).wr ..).wr ..).wr ..).noteContexts ..

theorem feAnchor (h : State.Finds s t) (i a hits comb : Nat) : State.Finds s (t.feAnchor i a hits comb) := (((h.wr ..).wr ..).wr ..).noteContexts ..

theorem feConfirm (h : State.Finds s t) (i : Nat) : State.Finds s (t.feConfirm i) := ite (((h.wr ..).flag ..).raise ..) h

theorem feMerge (h : State.Finds s t) (i : Nat) : State.Finds s (t.feMerge i) := by
  unfold State.feMerge
  exact ite h (h.each fun u j => ite (refl u) (ite ((refl u).feFree i) ((refl u).feFree j)))

theorem feMerges (h : State.Finds s t) : State.Finds s t.feMerges := h.each fun u i => (refl u).feMerge i

theorem feNew (h : State.Finds s t) (q : Strong) : State.Finds s (t.feNew q) := by
  unfold State.feNew
  split
  · exact h
  · split
    · exact (h.feAnchor ..).feConfirm _
    · split
      · exact h
      · exact (((h.feFree _).wr ..).wr ..).feAnchor .. |>.feConfirm _

end State.Finds

theorem State.rej_setF (s : State) (a hi lo v : Nat) : (s.setF a hi lo v).rej = s.rej := rfl

theorem State.rej_syncFe (s : State) : s.syncFe.rej = s.rej := (State.rej_setF ..).trans (State.rej_setF ..)

/-- R217: the event that the finder takes is the newest of its comb's store. -/
theorem State.feTake_effects (s : State) (q : Strong) : (s.feTake q).rej.feQueue = s.rej.feQueue ∧ (s.feTake q).rej.feTaken = some s.now ∧
    ((s.feTake q).rej.feStore.get [] q.comb).head? = some (q.a, q.f) := by
  unfold State.feTake
  extract_lets u v w l x
  have hu : State.Finds s u := ⟨rfl, rfl⟩
  have hv : State.Finds s v := by
    unfold v
    split
    · exact ((hu.wr ..).feAnchor ..).feConfirm _
    · exact hu.feNew q
  have hw : State.Finds s w := hv.feMerges
  rw [State.rej_syncFe]
  dsimp only
  refine ⟨hw.queue, congrArg some hw.now, ?_⟩
  rw [get_set_self]
  rfl

theorem State.execFeStrongEvent_none {s : State} (h : s.rej.feQueue = [] ∨ s.dev = .calibrating) : execFeStrongEvent s = .next s := by
  unfold execFeStrongEvent
  extract_lets due due'
  split
  · rfl
  · next q qs hq =>
    have hcal : s.dev = .calibrating := h.resolve_left fun hnil => nomatch hnil.symm.trans hq
    have hdue : due' = false := by
      unfold due'
      rw [hcal]
      exact Bool.and_false _
    exact congrArg _ (if_neg (by rw [hdue]; decide))

theorem State.execFeStrongEvent_due {s : State} {q : Strong} {qs : List Strong} (hq : s.rej.feQueue = q :: qs) (htaken : ∀ d, s.rej.feTaken = some d → d + 10 ≤ s.now)
    (hcal : s.dev ≠ .calibrating) : execFeStrongEvent s = .next (State.feTake { s with rej := { s.rej with feQueue := qs } } q) := by
  unfold execFeStrongEvent
  extract_lets due due'
  have hdue : due = true := by
    unfold due
    split
    · next d hd => exact decide_eq_true (htaken d hd)
    · rfl
  split
  · next hnil => exact nomatch hq.symm.trans hnil
  · next q' qs' hq' =>
    obtain ⟨rfl, rfl⟩ := List.cons.inj (hq'.symm.trans hq)
    exact congrArg _ (if_pos (by simp [due', hdue, hcal]))

/-- R217, R230: an event that is due leaves the queue, and is the newest of its comb's store. -/
theorem State.execFeStrongEvent_takes {s : State} {q : Strong} {qs : List Strong} (hq : s.rej.feQueue = q :: qs) (htaken : ∀ d, s.rej.feTaken = some d → d + 10 ≤ s.now)
    (hcal : s.dev ≠ .calibrating) : ∃ t, execFeStrongEvent s = .next t ∧ t.rej.feQueue = qs ∧ t.rej.feTaken = some s.now ∧
      (t.rej.feStore.get [] q.comb).head? = some (q.a, q.f) := by
  have hrow := State.execFeStrongEvent_due hq htaken hcal
  have hqueue : ({ s with rej := { s.rej with feQueue := qs } } : State).rej.feQueue = qs := rfl
  have hnow : ({ s with rej := { s.rej with feQueue := qs } } : State).now = s.now := rfl
  generalize ({ s with rej := { s.rej with feQueue := qs } } : State) = u at hrow hqueue hnow
  obtain ⟨hrest, hat, hstore⟩ := u.feTake_effects q
  exact ⟨_, hrow, hrest.trans hqueue, hat.trans (congrArg some hnow), hstore⟩

/-! ## Contexts that expire (R219) -/

/-- The counts of contexts leave each context's state. -/
theorem State.feSt_syncFe (s : State) {i : Nat} (hi : i < 64) : s.syncFe.feSt i = s.feSt i := by
  have hne : Reg.FE_CTX_STATE i ≠ Reg.REJ_STATUS := by unfold Reg.FE_CTX_STATE Reg.REJ_STATUS; omega
  exact (State.f_setF_ne _ hne ..).trans (State.f_setF_ne _ hne ..)

theorem State.feFree_frees (s : State) (i : Fin 64) : ((s.feFree i).syncFe).feSt i = 0 := by
  rw [State.feSt_syncFe _ i.isLt, State.feSt_feFree s i.isLt, if_pos rfl]

theorem State.execFeContextExpiry_learning {s : State} {i : Fin 64} (hfree : s.feSt i ≠ 0) (hlocked : s.feSt i ≠ 2) (hage : 1000000 ≤ s.now - s.rej.ctxHit.get 0 i) :
    execFeContextExpiry i s = .next (s.feFree i).syncFe := by
  unfold execFeContextExpiry
  extract_lets since limit
  have hlimit : limit = 1000000 := if_neg hlocked
  exact congrArg _ (if_neg (by rw [hlimit]; exact fun h => h.elim hfree (Nat.not_lt.mpr hage)))

theorem State.execFeContextExpiry_locked {s : State} {i : Fin 64} (hlocked : s.feSt i = 2) (hage : 1000000 * s.ef Reg.FE_CFG 31 16 ≤ s.now - s.rej.ctxHit.get 0 i) :
    execFeContextExpiry i s = .next (s.feFree i).syncFe := by
  unfold execFeContextExpiry
  extract_lets since limit
  have hlimit : limit = 1000000 * s.ef Reg.FE_CFG 31 16 := if_pos hlocked
  exact congrArg _ (if_neg (by rw [hlimit, hlocked]; exact fun h => h.elim (by decide) (Nat.not_lt.mpr hage)))

/-! ## The statement -/

/-- R252: what the result of a zone that is not OFF leaves, where it is the one that is to come. -/
theorem State.execZoneResult_shows {s : State} {z : Fin 64} {f : Nat} {c : ZoneCount} (hready : s.det.ready = [(f, [c])]) (hzone : c.zone = z.val + 1)
    (hemit : s.dev.emitting = true) (hen : zoneEn ((s.cfgOf f).zones.get blank32 z) = true) (hon : s.zoneState z ≠ 0) :
    ∃ t, execZoneResult z s = .next t ∧ t.det.ready = [] ∧ t.f (Reg.ZONE_STATE z) 15 8 = min 255 c.hits := by
  have hrun : ¬ (s.allReported.dev.emitting = false ∨ zoneEn ((s.allReported.cfgOf f).zones.get blank32 z) = false) := by
    rintro (h | h)
    · exact nomatch h.symm.trans hemit
    · exact nomatch h.symm.trans hen
  obtain ⟨hnone, hhits⟩ := State.applyZone_effects (s := s.allReported) z.isLt hon f ((s.allReported.cfgOf f).zones.get blank32 z) c
  refine ⟨_, ?_, hnone, hhits⟩
  rw [State.execZoneResult_one hready hzone, if_neg hrun]

/-- R219: a context without hits, LEARNING or LOCKED, is free when its time is up. -/
theorem State.execFeContextExpiry_frees {s : State} {i : Fin 64} (h : (s.feSt i ≠ 0 ∧ s.feSt i ≠ 2 ∧ 1000000 ≤ s.now - s.rej.ctxHit.get 0 i) ∨
    (s.feSt i = 2 ∧ 1000000 * s.ef Reg.FE_CFG 31 16 ≤ s.now - s.rej.ctxHit.get 0 i)) : ∃ t, execFeContextExpiry i s = .next t ∧ t.feSt i = 0 := by
  refine ⟨(s.feFree i).syncFe, ?_, s.feFree_frees i⟩
  obtain ⟨hfree, hlocked, hage⟩ | ⟨hlocked, hage⟩ := h
  · exact State.execFeContextExpiry_learning hfree hlocked hage
  · exact State.execFeContextExpiry_locked hlocked hage

/-- R233, R234: a dispatch from the hive's own queue. -/
theorem State.hiveDispatch_waiting_effects {s : State} {h e : Nat} {w : WaitRec} {ws : List WaitRec} (hw : (s.hive h).waiting = w :: ws) (he : s.idleEngine h = some e) :
    ((s.hiveDispatch h).hive h).waiting = ws ∧ (s.hiveDispatch h).engine e = some { point := w.point, since := s.now, again := w.again } := by
  rw [State.hiveDispatch_waiting hw he, State.hive_setEngine, State.hive_setHive_self, State.engine_setEngine_self]
  exact ⟨rfl, rfl⟩

/-- R233: a dispatch from a comb's ring. -/
theorem State.hiveDispatch_ring_effects {s : State} {h c e : Nat} {r : ExpRec} (hw : (s.hive h).waiting = []) (hr : s.ringFor h = some (c, r)) (he : s.idleEngine h = some e) :
    ((s.hiveDispatch h).comb c).ring = (s.comb c).ring.drop 1 ∧ (s.hiveDispatch h).engine e = some { point := r, since := s.now } := by
  rw [State.hiveDispatch_ring hw hr he, State.comb_setEngine, State.comb_syncFill, State.comb_setComb_self, State.engine_setEngine_self]
  exact ⟨rfl, rfl⟩

/-- R205: a column that no point of the comb waits for leaves no trace in the comb, and the ring as it was. -/
theorem State.exportScan_nothing_effects {s : State} {c : Nat} {col : CombCol} (hcol : ((s.comb c).cols.find? fun x => x.closedAt.isSome) = some col)
    (htime : 625 * s.scanCycles c col + col.closedAt.getD 0 * 1000 ≤ s.now * 1000) (hdone : ∀ g b, g ∈ col.segs → b ∈ g.batches → b.done = true)
    (hpts : s.exportPts c col.key = []) : ((s.exportScan c).comb c).notices = ((s.comb c).notices.filter fun x => x.key != col.key) ∧
      (∀ x, x ∈ ((s.exportScan c).comb c).cols → x.key ≠ col.key) ∧ ((s.exportScan c).comb c).ring = (s.comb c).ring := by
  obtain ⟨cols, hwait⟩ := s.countWait_comb c
  rw [State.exportScan_nothing hcol htime hdone hpts, State.leaveCol_comb, hwait]
  exact ⟨rfl, fun x hx => by simpa using (List.mem_filter.mp hx).2, rfl⟩

/-- Settles O51, row by row: each row is the operation that the statement names, and what the operation leaves is read off along its steps. -/
theorem detectionRuns : Obligations.DetectionRuns := by
  unfold Obligations.DetectionRuns
  intro s
  refine ⟨fun c => ⟨rfl, rfl, rfl⟩, fun c g key k hdue hroom => State.execBatchComplete_due hdue hroom,
    fun c g hdue => State.execBatchComplete_none hdue,
    fun h => ⟨rfl, rfl, rfl⟩, fun e => rfl, fun h pass hidle => State.execEngineCheck_idle hidle pass,
    fun h hh hx hdev => ⟨State.execEngineCheck_due hh hx hdev true, State.execEngineCheck_due hh hx hdev false⟩,
    fun c hc => State.execClusterClose_due hc, fun hc => State.execClusterClose_none hc, fun z hz => State.execZoneResult_none hz, ?zoneNamed,
    fun q qs hq htaken hcal => State.execFeStrongEvent_due hq (fun d hd => nomatch htaken.symm.trans hd) hcal, fun h => State.execFeStrongEvent_none h,
    fun i hfree hlocked hage => State.execFeContextExpiry_learning hfree hlocked hage, fun c w ws hw => ⟨_, rfl, ?event⟩, fun c m ms hdue => ⟨_, rfl, ?close⟩,
    fun c g key k col sg hdue hcol hseg hroom => ?batch, fun c col hcol htime hdone hpts => ⟨_, rfl, State.exportScan_nothing_effects hcol htime hdone hpts⟩,
    fun c col n h g hcol htime hdone hpts hhist hseg hchan hdiag hroom => ⟨_, rfl, State.exportScan_one c.isLt hcol htime hdone hpts hhist hseg hchan hdiag hroom⟩,
    fun h w ws e hw he => ⟨_, rfl, State.hiveDispatch_waiting_effects hw he⟩, fun h c r e hw hr he => ⟨_, rfl, State.hiveDispatch_ring_effects hw hr he⟩,
    fun e j hj => ⟨_, rfl, State.pointDone_effects hj⟩, fun h c cs hc => ⟨fun hready => ⟨_, rfl, State.chainWindow_effects hc hready⟩, _, rfl, State.chainMemErr_effects hc⟩,
    fun c hc => ⟨fun hfew => ?few, fun henough htracks hwrites => ⟨_, State.execClusterClose_due hc, State.closeCluster_creates henough htracks hwrites⟩⟩,
    fun z f c hready hzone hemit hen hon => State.execZoneResult_shows hready hzone hemit hen hon, fun q qs hq htaken hcal => State.execFeStrongEvent_takes hq htaken hcal,
    fun i h => State.execFeContextExpiry_frees h⟩
  case zoneNamed =>
    rintro z f l c hready rfl hzone
    exact ⟨s.allReported, State.execZoneResult_one hready hzone, rfl⟩
  case event =>
    have hcomb := State.binEvent_tdcComb hw
    refine ⟨congrArg TdcComb.evts hcomb, congrArg TdcComb.rd hcomb, ?_⟩
    intro nt col g h hnt hint hcol hstall hopen hlit hdark hacc hovf hseg hhist bin hbin
    exact State.binEvent_adds hw hnt hint hcol hstall hopen hlit hdark hacc hovf hseg hhist hbin
  case close =>
    refine ⟨State.actClose_marks hdue, fun nt hnt => ⟨State.actClose_notices hdue hnt, ?_⟩⟩
    intro col n h hcol hopen hint hacc hstart hhist
    exact State.actClose_counts hdue hnt hcol hopen hint hacc hstart hhist
  case batch =>
    obtain ⟨v, hv⟩ := State.testBatch_verdicts hcol hseg k
    exact ⟨_, v, State.execBatchComplete_due hdue hroom, hv⟩
  case few =>
    refine ⟨(s.leaveCluster c).takeEffect trackClass, (State.execClusterClose_due hc).trans ?_, rfl, rfl⟩
    rw [State.associate_few (s := s.leaveCluster c) hfew]

end Sys2Proof.Machine
end

section
/-!
PROOFS. Proofs/SyncTime.lean: `SYNC_TIME` (R274): what it comes to once it is admitted (O20).
-/

namespace Sys2Proof.Machine

open Sys2Proof

/-! ## From admission to effect -/

theorem syncTimeRule_fits (p : Nat) : syncTimeRule.Fits 0x010B p where
  opcode := rfl
  roles ρ := by cases ρ <;> rfl
  states d := by cases d <;> rfl
  judged := rfl
  halt := rfl

/-- A `SYNC_TIME` of 12 bytes that is admitted comes to its own effect. -/
theorem State.Admits.exec_syncTime {s t : State} {c : Cmd} {p : Nat} {x : QCmd} (h : s.Admits 0x010B c p x t) (hl : c.length = 12) :
    exec (.syncTime c) s = .next (State.concludes p x (t.syncTime x)) :=
  State.command_runs syncTimeRule _ h (syncTimeRule_fits p) (if_pos hl) rfl

/-! ## What the command comes to -/

/-- R274: the host's time less the device time at which the command arrived. -/
def QCmd.timeOffset (x : QCmd) : Int := (fieldAt x.cmd.params 0 8 : Int) - x.rx

/-- R274: the parameters of the reply: the time of arrival and the offset. -/
def QCmd.syncReply (x : QCmd) : List Byte := leBytes 8 x.rx ++ leBytes 8 (wrapNat 64 x.timeOffset)

section

variable {s : State} {x : QCmd}

/-- R274: a member of a swarm takes its time from the master, not from the host. -/
theorem State.syncTime_member (hm : (s.swarmOn && !s.swarmMaster) = true) : s.syncTime x = s.fail Sts.BAD_STATE := if_pos hm

variable (hm : (s.swarmOn && !s.swarmMaster) = false)

include hm

/-- R274: what the mode decides where the host may set the time. -/
theorem State.syncTime_mode : s.syncTime x =
    if 2 ≤ fieldBits x.cmd.params 8 1 1 0 then s.fail Sts.BAD_PARAM 8
    else if fieldBits x.cmd.params 8 1 1 0 = 0 then (s.slewTime x.timeOffset).ok x.syncReply
    else if s.dev = .standby ∨ s.dev = .armed ∨ s.dev = .safe then (s.stepTime x.timeOffset).ok x.syncReply
    else s.fail Sts.BAD_STATE := if_neg (Bool.eq_false_iff.mp hm)

theorem State.syncTime_badMode (h : 2 ≤ fieldBits x.cmd.params 8 1 1 0) : s.syncTime x = s.fail Sts.BAD_PARAM 8 := by
  rw [State.syncTime_mode hm, if_pos h]

theorem State.syncTime_slews (h : fieldBits x.cmd.params 8 1 1 0 = 0) : s.syncTime x = (s.slewTime x.timeOffset).ok x.syncReply := by
  rw [State.syncTime_mode hm, h, if_neg (by decide), if_pos rfl]

theorem State.syncTime_steps (h : fieldBits x.cmd.params 8 1 1 0 = 1) (hd : s.dev = .standby ∨ s.dev = .armed ∨ s.dev = .safe) :
    s.syncTime x = (s.stepTime x.timeOffset).ok x.syncReply := by
  rw [State.syncTime_mode hm, h, if_neg (by decide), if_neg (by decide), if_pos hd]

/-- R274: a step outside STANDBY, ARMED and SAFE is refused. -/
theorem State.syncTime_barred (h : fieldBits x.cmd.params 8 1 1 0 = 1) (hd : ¬ (s.dev = .standby ∨ s.dev = .armed ∨ s.dev = .safe)) :
    s.syncTime x = s.fail Sts.BAD_STATE := by
  rw [State.syncTime_mode hm, h, if_neg (by decide), if_neg (by decide), if_neg hd]

end

/-! ## The statement -/

/-- Settles O20: an admitted command comes to `State.syncTime`, which looks at the swarm first, then at the mode, and for a step at the operating state. -/
theorem syncTimeDecided : Obligations.SyncTimeDecided := by
  intro c s p x t hadm hlen
  rw [hadm.exec_syncTime hlen]
  obtain rfl := hadm.cmd
  refine ⟨fun hm => ?member, fun hm h => ?badMode, fun h hm => ?slew, fun h hm hd => ?step, fun h hm hd => ?barred⟩
  case member => rw [State.syncTime_member hm]
  case badMode => rw [State.syncTime_badMode hm h]
  case slew =>
    rw [State.syncTime_slews hm h]
    rfl
  case step =>
    rw [State.syncTime_steps hm h hd]
    rfl
  case barred => rw [State.syncTime_barred hm h hd]

end Sys2Proof.Machine
end

section
/-!
PROOFS. Proofs/CaptureItems.lean: the capture engine while it stores (R280 to R282): its slots, its ring and its open capture, and what a row takes from the input FIFO.
-/

namespace Sys2Proof.Machine

open Sys2Proof

/-! ## The state of the engine and its slots -/

theorem State.rd_setCap (s : State) (x : Cap) (a : Nat) : (s.setCap x).rd a = s.rd a := rfl

theorem State.capSt_setCapSt (s : State) {v : Nat} (h : v < 8) : (s.setCapSt v).capSt = v :=
  (State.f_setF_self _ _ (by decide) (by decide) v).trans (Nat.mod_eq_of_lt h)

theorem State.rd_setCapSt (s : State) {a : Nat} (h : a ≠ Reg.CAP_STATUS) (v : Nat) : (s.setCapSt v).rd a = s.rd a := s.rd_setF_ne h ..

theorem State.capSlot_setCapSlot_self (s : State) (i : Nat) (x : CapSlot) : (s.setCapSlot i x).capSlot i = x := get_set_self _ _ _ _

theorem State.capSlot_setCapSlot_ne (s : State) {i j : Nat} (h : j ≠ i) (x : CapSlot) : (s.setCapSlot i x).capSlot j = s.capSlot j := get_set_ne _ _ _ h _

/-- The count of slots to be read stands beside the state of the engine. -/
theorem State.capSt_setCapSlot (s : State) (i : Nat) (x : CapSlot) : (s.setCapSlot i x).capSt = s.capSt :=
  State.f_setF_off _ _ (by decide) (by decide) (by decide) _

theorem State.rd_setCapSlot (s : State) {a : Nat} (h : a ≠ Reg.CAP_STATUS) (i : Nat) (x : CapSlot) : (s.setCapSlot i x).rd a = s.rd a := State.rd_setF_ne _ h ..

theorem State.capSt_setCap (s : State) (x : Cap) : (s.setCap x).capSt = s.capSt := rfl

/-- A slot depends on the table of slots alone. -/
theorem State.capSlot_congr {s t : State} (h : t.cap.slots = s.cap.slots) (i : Nat) : t.capSlot i = s.capSlot i := congrArg (·.get {} i) h

theorem State.capOn_iff (s : State) : s.capOn = true ↔ 1 ≤ s.capSt ∧ s.capSt ≤ 3 := decide_eq_true_iff

/-! ## Storing (R280 to R282) -/

/-- R282: the ring with one more item, stamped with the device time, and without the oldest ones that no longer fit. -/
def State.ringWith (s : State) (b : List Byte) : List (Nat × List Byte) :=
  let l := s.cap.ring ++ [(s.time.dev, b)]
  trimRing (s.f Reg.CAP_SIZE 11 0 * 4096) l.length l

/-- R282: before the trigger an item goes to the ring. -/
theorem State.storeItem_ring {s : State} (h : s.capSt ≠ 3) (b : List Byte) :
    s.storeItem b = s.setCap { s.cap with ring := s.ringWith b } := by
  unfold State.storeItem
  split
  · exact absurd ‹s.capSt = 3› h
  · rfl

/-- R282: after the trigger, while the data is short of `POST`, an item goes to the open capture. -/
theorem State.storeItem_post {s : State} (h : s.capSt = 3) (hroom : (s.capSlot s.cap.cur).postBytes < s.f Reg.CAP_SIZE 23 12 * 4096) (b : List Byte) :
    ∃ first, s.storeItem b = s.setCapSlot s.cap.cur { s.capSlot s.cap.cur with
      items := (s.capSlot s.cap.cur).items ++ [b], postBytes := (s.capSlot s.cap.cur).postBytes + b.length, firstTime := first } := by
  have hopen : ¬ s.postFull = true := by simp [State.postFull, hroom]
  unfold State.storeItem
  split
  · exact ⟨_, if_neg hopen⟩
  · exact absurd h ‹s.capSt = 3 → False›

/-- R280: an item that names no comb is its payload and its type. -/
theorem capWord_noComb (type payload : Nat) : capWord type 0 payload = leBytes 8 (payload % 2 ^ 48 + type * 2 ^ 60) := by
  have hcomb : payload % 2 ^ 48 + 0 * 2 ^ 55 = payload % 2 ^ 48 := congrArg (payload % 2 ^ 48 + ·) (Nat.zero_mul _)
  exact congrArg (fun n => leBytes 8 (n + type * 2 ^ 60)) hcomb

/-- R280: the payload of a `TIME` item is the device time in 48 bits. -/
theorem capWord_time (n : Nat) : capWord 4 0 (n % 2 ^ 48) = leBytes 8 (n % 2 ^ 48 + 4 * 2 ^ 60) :=
  (capWord_noComb 4 _).trans (congrArg (fun k => leBytes 8 (k + 4 * 2 ^ 60)) (Nat.mod_mod n _))

/-- R280: before the trigger a `TIME` item goes to the ring, and the next is due 64 µs from now. -/
theorem State.storeTime_ring {s : State} (h : s.capSt ≠ 3) :
    s.storeTime = s.setCap { s.cap with ring := s.ringWith (leBytes 8 (s.time.dev % 2 ^ 48 + 4 * 2 ^ 60)), timeAt := s.now } := by
  unfold State.storeTime
  rw [capWord_time, State.storeItem_ring h]
  rfl

/-- R281: without a pending loss there is no gap to store. -/
theorem State.storeGap_none {s : State} (h : s.cap.loss = none) : s.storeGap = s := by
  unfold State.storeGap
  rw [h]

/-- R281: without a pending loss, a loss is the pending one. -/
theorem State.capLoss_none {s : State} (h : s.cap.loss = none) (cause lost since : Nat) :
    s.capLoss cause lost since = s.setCap { s.cap with loss := some (cause, lost, since) } := by
  unfold State.capLoss
  rw [h]

/-- An item whose DRAM write does not fail is stored; without a pending loss, it alone. -/
theorem State.takeItem_stored {s : State} {f : Fin 5} (hf : f ≠ 4) (h : s.cap.loss = none) (b : List Byte) : s.takeItem f b = s.storeItem b := by
  have hne : ¬ (f : Nat) = 4 := fun he => hf (Fin.ext he)
  rw [State.takeItem, if_neg hne, State.storeGap_none h]

/-! ## Staged points (R208, R281) -/

/-- R208, R281: the staged point `st` of comb c has come to the input FIFO, and the points `r` wait behind it. -/
def State.pull (s : State) (c : Nat) (st : Staged) (r : List Staged) : State :=
  State.setF { s with
    cap := { s.cap with input := s.cap.input ++ [.item (st.item c)] }
    combs := s.combs.set {} c { s.combs.get {} c with stage := r } } (Reg.HIST_STATUS c) 21 16 (toKib (r.map (·.size)).sum)

/-- R281: an item that the input FIFO has room for stands last in it. -/
theorem capPush_fits {l : List CapIn} {b : List Byte} (h : (l.map CapIn.size).sum + b.length ≤ 16384) (now : Nat) : capPush now l (.item b) = l ++ [.item b] := by
  have hfits : ¬ 16384 < (l.map CapIn.size).sum + (CapIn.item b).size := Nat.not_lt.mpr h
  unfold capPush
  dsimp only
  rw [if_neg hfits]

/-- The comb whose staged point is next is one of the 32, and the FIFO has room for the point. -/
theorem State.stagedComb_fits {s : State} {c : Nat} {st : Staged} {r : List Staged} (hc : s.stagedComb = some c) (hst : (s.combs.get {} c).stage = st :: r) :
    c < 32 ∧ (s.cap.input.map CapIn.size).sum + (st.item c).length ≤ 16384 := by
  unfold State.stagedComb at hc
  have hfits := List.find?_some hc
  rw [hst, Bool.and_eq_true, decide_eq_true_iff] at hfits
  obtain ⟨-, hroom⟩ := hfits
  exact ⟨List.mem_range.mp (List.mem_of_find?_eq_some hc), hroom⟩

/-- R208, R281: the engine takes the first staged point that fits, and goes on with the others. -/
theorem State.pullStaged_succ {s : State} {c : Nat} {st : Staged} {r : List Staged} (hon : s.capOn = true) (hc : s.stagedComb = some c)
    (hst : (s.combs.get {} c).stage = st :: r) (n : Nat) : s.pullStaged (n + 1) = (s.pull c st r).pullStaged n := by
  obtain ⟨-, hfits⟩ := State.stagedComb_fits hc hst
  have hoffer : s.capOffer [.item (st.item c)] = s.setCap { s.cap with input := s.cap.input ++ [.item (st.item c)] } := by
    rw [State.capOffer, if_pos hon, List.foldl_cons, List.foldl_nil, capPush_fits hfits]
  rw [State.pullStaged, hc]
  dsimp only
  rw [hst, List.take_succ_cons, List.take_zero, List.map_cons, List.map_nil, hoffer]
  rfl

section

variable (s : State) (c : Nat) (st : Staged) (r : List Staged)

theorem State.rd_pull {a : Nat} (h : a ≠ Reg.HIST_STATUS c) : (s.pull c st r).rd a = s.rd a := State.rd_setF_ne _ h ..

theorem State.combs_pull : (s.pull c st r).combs.get {} c = { s.combs.get {} c with stage := r } := get_set_self _ _ _ _

theorem State.f_pull : (s.pull c st r).f (Reg.HIST_STATUS c) 21 16 = toKib (r.map (·.size)).sum % 64 := State.f_setF_self _ _ (by decide) (by decide) _

end

/-! ## CAPTURE_ITEM (R280, R281, R376) -/

/-- The state with the entries `r` in the input FIFO. -/
def State.withInput (s : State) (r : List CapIn) : State := s.setCap { s.cap with input := r }

/-- R280, R281: what an entry that has left the FIFO comes to: a loss is counted, and an item is stored or, with `f` 4, lost. -/
def State.takeEntry (s : State) (f : Fin 5) : CapIn → State
  | .loss cause n since => s.capLoss cause n since
  | .item b => s.takeItem f b
  | .angle codes at_ => let t := if f = 4 then s else s.storeGap; t.takeItem f (t.angleItem codes at_)

/-- R280: with no loss pending, a sample becomes an item behind the last `TIME` item. -/
theorem State.takeEntry_angle {s : State} (h : s.cap.loss = none) (f : Fin 5) (codes at_ : Nat) :
    s.takeEntry f (.angle codes at_) = s.takeItem f (s.angleItem codes at_) := by
  simp only [State.takeEntry, State.storeGap_none h, ite_self]

/-- R376: an engine that stores no items, or whose channel DMA45 is halted, leaves its FIFO as it is. -/
theorem execCaptureItem_off {s : State} (h : s.capOn = false ∨ s.f (Reg.DMA_STATUS 45) 1 0 = 3) (f : Fin 5) : execCaptureItem f s = .next s := by
  unfold execCaptureItem
  rw [if_pos (by simpa using h)]

section

variable {s : State} (hon : s.capOn = true) (hrun : s.f (Reg.DMA_STATUS 45) 1 0 ≠ 3)

include hon hrun

theorem captureItem_not_idle : ¬ ((!s.capOn) = true ∨ s.f (Reg.DMA_STATUS 45) 1 0 = 3) := by simp [hon, hrun]

section

variable {u : State} (hu : s.pullStaged s.stagedCount = u)

include hu

theorem execCaptureItem_empty (f : Fin 5) (h : u.cap.input = []) : execCaptureItem f s = .next u := by
  unfold execCaptureItem
  rw [if_neg (captureItem_not_idle hon hrun), hu]
  dsimp only
  rw [h]

/-- What stands first in the FIFO, once the staged points that fit are in it, leaves it, and is stored or lost. -/
theorem execCaptureItem_cons (f : Fin 5) {x : CapIn} {r : List CapIn} (h : u.cap.input = x :: r) : execCaptureItem f s = .next ((u.withInput r).takeEntry f x) := by
  unfold execCaptureItem
  rw [if_neg (captureItem_not_idle hon hrun), hu]
  dsimp only
  rw [h]
  cases x <;> rfl

end

/-- With no point staged, an item that stands first in the FIFO is the one that is taken. -/
theorem execCaptureItem_head (f : Fin 5) (hstaged : s.stagedCount = 0) {b : List Byte} {r : List CapIn} (h : s.cap.input = .item b :: r) :
    execCaptureItem f s = .next ((s.withInput r).takeItem f b) := by
  have hnone : s.pullStaged s.stagedCount = s := by
    rw [hstaged]
    rfl
  exact execCaptureItem_cons hon hrun hnone f h

end

/-- R282: before the trigger the first item of the FIFO reaches the ring. -/
theorem execCaptureItem_ring {s : State} {f : Fin 5} {b : List Byte} {r : List CapIn} (hon : s.capOn = true) (hrun : s.f (Reg.DMA_STATUS 45) 1 0 ≠ 3)
    (hstaged : s.stagedCount = 0) (hst : s.capSt ≠ 3) (hf : f ≠ 4) (hloss : s.cap.loss = none) (h : s.cap.input = .item b :: r) :
    execCaptureItem f s = .next { s with cap := { s.cap with input := r, ring := s.ringWith b } } := by
  rw [execCaptureItem_head hon hrun f hstaged h, State.takeItem_stored (s := s.withInput r) hf hloss, State.storeItem_ring (s := s.withInput r) hst]
  rfl

/-- R282: after the trigger the first item of the FIFO reaches the open capture. -/
theorem execCaptureItem_post {s : State} {f : Fin 5} {b : List Byte} {r : List CapIn} (hst : s.capSt = 3) (hrun : s.f (Reg.DMA_STATUS 45) 1 0 ≠ 3)
    (hstaged : s.stagedCount = 0) (hf : f ≠ 4) (hloss : s.cap.loss = none) (h : s.cap.input = .item b :: r)
    (hroom : (s.capSlot s.cap.cur).postBytes < s.f Reg.CAP_SIZE 23 12 * 4096) :
    ∃ t, execCaptureItem f s = .next t ∧ t.cap.input = r ∧ t.cap.ring = s.cap.ring ∧ (t.capSlot s.cap.cur).items = (s.capSlot s.cap.cur).items ++ [b] ∧
      (t.capSlot s.cap.cur).postBytes = (s.capSlot s.cap.cur).postBytes + b.length ∧ (∀ a, a ≠ Reg.CAP_STATUS → t.rd a = s.rd a) := by
  have hon : s.capOn = true := s.capOn_iff.mpr (by omega)
  obtain ⟨first, hstore⟩ := State.storeItem_post (s := s.withInput r) hst hroom b
  refine ⟨_, execCaptureItem_head hon hrun f hstaged h, ?_⟩
  rw [State.takeItem_stored (s := s.withInput r) hf hloss, hstore]
  refine ⟨rfl, rfl, ?_, ?_, fun a ha => State.rd_setCapSlot _ ha ..⟩
  · exact congrArg CapSlot.items (State.capSlot_setCapSlot_self ..)
  · exact congrArg CapSlot.postBytes (State.capSlot_setCapSlot_self ..)

/-- R208, R281: before the trigger a staged point goes through an empty FIFO to the ring in one row, and its comb's staging area is empty. -/
theorem execCaptureItem_staged {s : State} {f : Fin 5} {c : Nat} {st : Staged} (hon : s.capOn = true) (hrun : s.f (Reg.DMA_STATUS 45) 1 0 ≠ 3)
    (hst : s.capSt ≠ 3) (hf : f ≠ 4) (hloss : s.cap.loss = none) (hempty : s.cap.input = []) (hone : s.stagedCount = 1) (hc : s.stagedComb = some c)
    (hstage : (s.combs.get {} c).stage = [st]) :
    ∃ t, execCaptureItem f s = .next t ∧ t.cap.ring = s.ringWith (st.item c) ∧ t.cap.input = [] ∧ (t.combs.get {} c).stage = [] ∧
      t.f (Reg.HIST_STATUS c) 21 16 = 0 := by
  obtain ⟨hlt, -⟩ := State.stagedComb_fits hc hstage
  have hpull : s.pullStaged s.stagedCount = s.pull c st [] := by
    rw [hone, State.pullStaged_succ hon hc hstage]
    rfl
  have hinput : (s.pull c st []).cap.input = [.item (st.item c)] := by
    show s.cap.input ++ _ = _
    rw [hempty]
    rfl
  have hrd : ∀ a, 0x60000 ≤ a → (s.pull c st []).rd a = s.rd a := fun a ha => s.rd_pull c st [] (by unfold Reg.HIST_STATUS; omega)
  have hst' : (s.pull c st []).capSt ≠ 3 := by
    unfold State.capSt State.f at hst ⊢
    rwa [hrd _ (by decide)]
  have hsize : (s.pull c st []).f Reg.CAP_SIZE 11 0 = s.f Reg.CAP_SIZE 11 0 := congrArg (bitsOf · 11 0) (hrd _ (by decide))
  refine ⟨_, execCaptureItem_cons hon hrun hpull f hinput, ?_⟩
  rw [State.takeEntry, State.takeItem_stored (s := (s.pull c st []).withInput []) hf hloss, State.storeItem_ring (s := (s.pull c st []).withInput []) hst']
  refine ⟨congrArg (fun n => trimRing (n * 4096) _ _) hsize, rfl, ?_, s.f_pull c st []⟩
  exact congrArg CombSt.stage (s.combs_pull c st [])

end Sys2Proof.Machine
end

section
/-!
PROOFS. Proofs/Capture.lean: `TIME` items, the filling before and after the trigger, closing and re-arming (R280, R282, R284), and the statement on the capture engine.
-/

namespace Sys2Proof.Machine

open Sys2Proof

/-! ## CAPTURE_TIME_ITEM (R280) -/

theorem execCaptureTimeItem_due {s : State} (hon : s.capOn = true) (hdue : s.cap.timeAt + 64000 ≤ s.now) : execCaptureTimeItem s = .next s.storeGap.storeTime := by
  unfold execCaptureTimeItem
  rw [if_pos ⟨hon, hdue⟩]

/-- R280: before the trigger a `TIME` item that is due goes to the ring. -/
theorem execCaptureTimeItem_ring {s : State} (hon : s.capOn = true) (hst : s.capSt ≠ 3) (hloss : s.cap.loss = none) (hdue : s.cap.timeAt + 64000 ≤ s.now) :
    execCaptureTimeItem s = .next { s with cap := { s.cap with ring := s.ringWith (leBytes 8 (s.time.dev % 2 ^ 48 + 4 * 2 ^ 60)), timeAt := s.now } } := by
  rw [execCaptureTimeItem_due hon hdue, State.storeGap_none hloss, State.storeTime_ring hst]
  rfl

/-! ## The filling (R282) -/

/-- R282: the engine enters state `v`: its items and its slots stand, and so does every other register. -/
theorem State.setCapSt_effects (s : State) {v : Nat} (hv : v < 8) : (s.setCapSt v).capSt = v ∧ (s.setCapSt v).cap = s.cap ∧
    ∀ a, a ≠ Reg.CAP_STATUS → (s.setCapSt v).rd a = s.rd a := ⟨s.capSt_setCapSt hv, rfl, fun _ ha => s.rd_setCapSt ha v⟩

theorem execCapturePreFull_full {s : State} (hst : s.capSt = 1) (hfull : s.f Reg.CAP_SIZE 11 0 * 4096 < ringBytes s.cap.ring + 8) :
    execCapturePreFull s = .next (s.setCapSt 2) := by
  unfold execCapturePreFull
  rw [if_pos ⟨hst, hfull⟩]

theorem execCapturePreFull_none {s : State} (hst : s.capSt ≠ 1) : execCapturePreFull s = .next s := by
  unfold execCapturePreFull
  rw [if_neg fun h => hst h.1]

theorem execCapturePostFull_full {s : State} (hst : s.capSt = 3) (hfull : s.f Reg.CAP_SIZE 23 12 * 4096 ≤ (s.capSlot s.cap.cur).postBytes) :
    execCapturePostFull s = .next (s.setCapSt 4) := by
  unfold execCapturePostFull
  rw [if_pos ⟨hst, hfull⟩]

theorem execCapturePostFull_none {s : State} (hst : s.capSt ≠ 3) : execCapturePostFull s = .next s := by
  unfold execCapturePostFull
  rw [if_neg fun h => hst h.1]

/-! ## Closing (R284) -/

theorem execCaptureClosed_none {s : State} (hst : s.capSt ≠ 4) : execCaptureClosed s = .next s := by
  unfold execCaptureClosed
  rw [if_neg hst]

theorem execCaptureClosed_closes {s : State} (hst : s.capSt = 4) : execCaptureClosed s = .next (s.closeSlot false).rearm := by
  unfold execCaptureClosed
  rw [if_pos hst]

/-- R284: the count of captures goes up by one, and is the number of the one that closes. -/
theorem State.closeSlot_count (s : State) : (s.closeSlot false).r Reg.CAP_COUNT = min (s.r Reg.CAP_COUNT + 1) 0xFFFFFFFF := by
  unfold State.r State.closeSlot
  rw [State.rd_setCapSlot _ (by decide)]
  exact s.r_inc _

/-- R284: the slot of the capture that closes is ready to be read, whole, with its number, and holds its items. -/
theorem State.closeSlot_slot (s : State) : ((s.closeSlot false).capSlot s.cap.cur).st = 2 ∧ ((s.closeSlot false).capSlot s.cap.cur).truncated = false ∧
    ((s.closeSlot false).capSlot s.cap.cur).items = (s.capSlot s.cap.cur).items ∧
    ((s.closeSlot false).capSlot s.cap.cur).seq = min (s.r Reg.CAP_COUNT + 1) 0xFFFFFFFF := by
  have hslot : ∃ kind combs, (s.closeSlot false).capSlot s.cap.cur =
      { s.capSlot s.cap.cur with st := 2, seq := (s.inc Reg.CAP_COUNT).r Reg.CAP_COUNT, truncated := false, kind, combs } := ⟨_, _, State.capSlot_setCapSlot_self ..⟩
  obtain ⟨kind, combs, hslot⟩ := hslot
  rw [hslot]
  exact ⟨rfl, rfl, rfl, s.r_inc _⟩

/-! ## The dead time (R284) -/

/-- R284: what the measured dead time leaves as it is: the state of the engine, its size and its count, every other slot, and of the slot named all but its
dead time. -/
structure State.DeadMeasured (slot : Nat) (s t : State) : Prop where
  capSt : t.capSt = s.capSt
  size : t.rd Reg.CAP_SIZE = s.rd Reg.CAP_SIZE
  count : t.rd Reg.CAP_COUNT = s.rd Reg.CAP_COUNT
  others : ∀ i, i ≠ slot → t.capSlot i = s.capSlot i
  own : ∃ d, t.capSlot slot = { s.capSlot slot with dead := d }

namespace State.DeadMeasured

variable {slot : Nat} {s t u : State}

theorem refl (slot : Nat) (s : State) : State.DeadMeasured slot s s := ⟨rfl, rfl, rfl, fun _ _ => rfl, (s.capSlot slot).dead, rfl⟩

/-- A register of the measurement. -/
theorem setR (h : State.DeadMeasured slot s t) {a : Nat} (hst : Reg.CAP_STATUS ≠ a) (hsize : Reg.CAP_SIZE ≠ a) (hcount : Reg.CAP_COUNT ≠ a) (v : Nat) :
    State.DeadMeasured slot s (t.setR a v) where
  capSt := (congrArg (bitsOf · 2 0) (t.rd_setR_ne hst v)).trans h.capSt
  size := (t.rd_setR_ne hsize v).trans h.size
  count := (t.rd_setR_ne hcount v).trans h.count
  others := h.others
  own := h.own

/-- The header of the slot. -/
theorem setDead (h : State.DeadMeasured slot s t) (d : Nat) : State.DeadMeasured slot s (t.setCapSlot slot { t.capSlot slot with dead := d }) where
  capSt := (t.capSt_setCapSlot ..).trans h.capSt
  size := (t.rd_setCapSlot (by decide) ..).trans h.size
  count := (t.rd_setCapSlot (by decide) ..).trans h.count
  others i hi := (t.capSlot_setCapSlot_ne hi _).trans (h.others i hi)
  own := by
    obtain ⟨_, hown⟩ := h.own
    refine ⟨d, (t.capSlot_setCapSlot_self ..).trans ?_⟩
    rw [hown]

/-- The event that reports it. -/
theorem events (h : State.DeadMeasured slot s t) (hev : t.Events u) : State.DeadMeasured slot s u := by
  have hslot : ∀ i, u.capSlot i = t.capSlot i := by
    obtain ⟨_, _, _, rfl⟩ := hev.frame
    exact fun _ => rfl
  obtain ⟨d, hown⟩ := h.own
  exact ⟨(hev.f (by decide) 2 0).trans h.capSt, (hev.rd _ (noPortReg (by decide))).trans h.size, (hev.rd _ (noPortReg (by decide))).trans h.count,
    fun i hi => (hslot i).trans (h.others i hi), d, (hslot slot).trans hown⟩

end State.DeadMeasured

theorem State.recordDead_measured (s : State) (slot : Nat) : State.DeadMeasured slot s (s.recordDead slot) :=
  ((((State.DeadMeasured.refl slot s).setR (by decide) (by decide) (by decide) _).setR (by decide) (by decide) (by decide) _).setDead _).events (State.raise_events ..)

/-- The slot that an arming engine takes depends on its size and on the state and number of each slot alone. -/
theorem State.armSlot_congr {s t : State} (hsize : t.rd Reg.CAP_SIZE = s.rd Reg.CAP_SIZE) (hst : ∀ i, (t.capSlot i).st = (s.capSlot i).st)
    (hseq : ∀ i, (t.capSlot i).seq = (s.capSlot i).seq) : t.armSlot = s.armSlot := by
  unfold State.armSlot State.capSlots State.f State.bit
  simp only [hsize, hst, hseq]

/-- A part of a slot that is not its dead time stands. -/
theorem State.DeadMeasured.part {α : Type} {slot : Nat} {s t : State} (h : State.DeadMeasured slot s t) (g : CapSlot → α)
    (hg : ∀ (x : CapSlot) d, g { x with dead := d } = g x) (i : Nat) : g (t.capSlot i) = g (s.capSlot i) := by
  by_cases hi : i = slot
  · obtain ⟨d, hd⟩ := h.own
    rw [hi, hd, hg]
  · rw [h.others i hi]

theorem State.DeadMeasured.armSlot {slot : Nat} {s t : State} (h : State.DeadMeasured slot s t) : t.armSlot = s.armSlot :=
  State.armSlot_congr h.size (h.part CapSlot.st fun _ _ => rfl) (h.part CapSlot.seq fun _ _ => rfl)

/-! ## Arming (R282) -/

/-- R282: the engine is ARMING in slot i, with an empty FIFO, an empty ring and no loss; its first `TIME` item is not yet in the ring. -/
def State.armedIn (s : State) (i : Nat) : State :=
  let t := s.setCapSlot i { st := 1 }
  (t.setCap { t.cap with cur := i, input := [], ring := [], loss := none, acceptAt := none, stopped := none }).setCapSt 1

theorem State.armCapture_some {s : State} {i : Nat} (h : s.armSlot = some i) : s.armCapture = (s.armedIn i).storeTime := by
  unfold State.armCapture
  rw [h]
  rfl

theorem State.capSt_armedIn (s : State) (i : Nat) : (s.armedIn i).capSt = 1 := State.capSt_setCapSt _ (by decide)

theorem State.slots_armedIn (s : State) (i : Nat) : (s.armedIn i).cap.slots = (s.setCapSlot i { st := 1 }).cap.slots := rfl

theorem State.capSlot_armedIn_self (s : State) (i : Nat) : (s.armedIn i).capSlot i = { st := 1 } :=
  (State.capSlot_congr (s.slots_armedIn i) i).trans (s.capSlot_setCapSlot_self i _)

theorem State.capSlot_armedIn_ne (s : State) {i j : Nat} (h : j ≠ i) : (s.armedIn i).capSlot j = s.capSlot j :=
  (State.capSlot_congr (s.slots_armedIn i) j).trans (s.capSlot_setCapSlot_ne h _)

theorem State.rd_armedIn (s : State) {a : Nat} (h : a ≠ Reg.CAP_STATUS) (i : Nat) : (s.armedIn i).rd a = s.rd a := by
  unfold State.armedIn
  rw [State.rd_setCapSt _ h, State.rd_setCap, State.rd_setCapSlot _ h]

/-- R282: an engine that finds slot i is ARMING in it, with an empty FIFO and no loss; the other slots stand. -/
theorem State.armCapture_arms {s : State} {i : Nat} (h : s.armSlot = some i) :
    s.armCapture.capSt = 1 ∧ s.armCapture.cap.cur = i ∧ s.armCapture.capSlot i = { st := 1 } ∧ (∀ j, j ≠ i → s.armCapture.capSlot j = s.capSlot j) ∧
      s.armCapture.cap.input = [] ∧ s.armCapture.cap.loss = none ∧ s.armCapture.rd Reg.CAP_COUNT = s.rd Reg.CAP_COUNT := by
  have hst := s.capSt_armedIn i
  rw [State.armCapture_some h, State.storeTime_ring (by rw [hst]; decide)]
  generalize (s.armedIn i).ringWith _ = l
  have hslot : ∀ j, ((s.armedIn i).setCap { (s.armedIn i).cap with ring := l, timeAt := (s.armedIn i).now }).capSlot j = (s.armedIn i).capSlot j :=
    State.capSlot_congr rfl
  refine ⟨(State.capSt_setCap ..).trans hst, rfl, (hslot i).trans (s.capSlot_armedIn_self i), fun j hj => (hslot j).trans (s.capSlot_armedIn_ne hj), rfl, rfl, ?_⟩
  rw [State.rd_setCap, State.rd_armedIn _ (by decide)]

/-- R284: an engine that finds no slot is STOPPED, and flags it. -/
theorem State.armCapture_stops {s : State} (h : s.armSlot = none) :
    s.armCapture.capSt = 5 ∧ s.armCapture.bit Reg.CAP_FLAGS 4 = true := by
  unfold State.armCapture
  rw [h]
  refine ⟨?_, State.bit_flag_self _ _ (by decide)⟩
  exact (congrArg (bitsOf · 2 0) (State.rd_flag_ne _ (by decide) _)).trans (s.capSt_setCapSt (by decide))

/-- R282, R284: an engine that closes finds another slot: it is ARMING there, and the capture that closed keeps its slot. -/
theorem State.rearm_arms {s : State} {i : Nat} (h : s.armSlot = some i) (hi : i ≠ s.cap.cur) :
    s.rearm.capSt = 1 ∧ s.rearm.cap.cur = i ∧ s.rearm.capSlot i = { st := 1 } ∧ s.rearm.cap.input = [] ∧ s.rearm.cap.loss = none ∧
      s.rearm.r Reg.CAP_COUNT = s.r Reg.CAP_COUNT ∧ ∃ d, s.rearm.capSlot s.cap.cur = { s.capSlot s.cap.cur with dead := d } := by
  have hdead := s.recordDead_measured s.cap.cur
  obtain ⟨hst, hcur, hslot, hothers, hinput, hloss, hcount⟩ := State.armCapture_arms (hdead.armSlot.trans h)
  obtain ⟨d, hown⟩ := hdead.own
  have hrearm : s.rearm = s.rearmAfter s.cap.cur := by
    unfold State.rearm
    rw [if_pos (by simp [h])]
  rw [hrearm]
  exact ⟨hst, hcur, hslot, hinput, hloss, congrArg BitVec.toNat (hcount.trans hdead.count), d, (hothers _ hi.symm).trans hown⟩

/-- R284: an engine that closes and finds no slot stops; its slots and its ring stand. -/
theorem State.rearm_stops {s : State} (h : s.armSlot = none) :
    s.rearm.capSt = 5 ∧ s.rearm.bit Reg.CAP_FLAGS 4 = true ∧ s.rearm.capSlot s.cap.cur = s.capSlot s.cap.cur ∧ s.rearm.cap.stopped = some s.cap.cur ∧
      s.rearm.cap.ring = s.cap.ring := by
  obtain ⟨hst, hflag⟩ := State.armCapture_stops h
  have hnone : ¬ s.armSlot.isSome = true := by simp [h]
  have hrearm : s.rearm = s.armCapture.setCap { s.cap with stopped := some s.cap.cur } := by
    unfold State.rearm
    rw [if_neg hnone]
  rw [hrearm]
  exact ⟨hst, hflag, rfl, rfl, rfl⟩

/-! ## The statement -/

/-- Settles O54, row by row: what stands first in the FIFO is taken where the engine stores items and its channel runs, and a capture that is full closes before the engine
looks for its next slot. -/
theorem captureRuns : Obligations.CaptureRuns := by
  intro s
  refine ⟨fun f h => execCaptureItem_off h f, fun hon hrun => ?taken,
    fun f b r hon hrun hstaged hst hf hloss h => execCaptureItem_ring (s := s) (f := f) hon hrun hstaged hst hf hloss h,
    fun f b r hst hrun hstaged hf hloss h hroom => execCaptureItem_post (s := s) (f := f) hst hrun hstaged hf hloss h hroom,
    fun b r hon hrun hstaged hloss h => ?lost,
    fun f c st hon hrun hst hf hloss hempty hone hc hstage => execCaptureItem_staged (s := s) (f := f) hon hrun hst hf hloss hempty hone hc hstage,
    fun hon hst hloss hdue => execCaptureTimeItem_ring (s := s) hon hst hloss hdue, rfl,
    fun hst hfull => ⟨_, execCapturePreFull_full hst hfull, s.setCapSt_effects (by decide)⟩, fun hst => execCapturePreFull_none hst,
    fun hst hfull => ⟨_, execCapturePostFull_full hst hfull, s.setCapSt_effects (by decide)⟩, fun hst => execCapturePostFull_none hst,
    fun hst => execCaptureClosed_none hst, fun hst => ?closed, fun i hst harm hi => ?rearmed, fun hst harm => ?stopped⟩
  case taken =>
    intro u
    have hu : s.pullStaged s.stagedCount = u := rfl
    clear_value u
    refine ⟨fun h f => execCaptureItem_empty hon hrun hu f h, fun f b r h => execCaptureItem_cons hon hrun hu f h,
      fun f cause n since r h => execCaptureItem_cons hon hrun hu f h, fun f codes at_ r h hloss => ?_⟩
    have hgap := State.takeEntry_angle (s := u.withInput r) hloss f codes at_
    exact (execCaptureItem_cons hon hrun hu f h).trans (congrArg _ hgap)
  case lost =>
    have hnone : (s.withInput r).cap.loss = none := hloss
    refine (execCaptureItem_head hon hrun 4 hstaged h).trans (congrArg _ ?_)
    exact (if_pos rfl).trans (State.capLoss_none hnone ..)
  case closed =>
    obtain ⟨hst2, hwhole, -, -⟩ := s.closeSlot_slot
    exact ⟨execCaptureClosed_closes hst, hst2, hwhole, s.closeSlot_count⟩
  case rearmed =>
    obtain ⟨hst2, -, hitems, hseq⟩ := s.closeSlot_slot
    obtain ⟨h1, hcur, hslot, hinput, hloss, hcount, d, hold⟩ := State.rearm_arms harm hi
    have hown : (s.closeSlot false).rearm.capSlot s.cap.cur = { (s.closeSlot false).capSlot s.cap.cur with dead := d } := hold
    refine ⟨_, execCaptureClosed_closes hst, h1, hcur, ?_⟩
    rw [hslot, hown]
    exact ⟨rfl, rfl, hst2, hitems, hseq, hinput, hloss, hcount.trans s.closeSlot_count⟩
  case stopped =>
    obtain ⟨hst2, -, -, -⟩ := s.closeSlot_slot
    obtain ⟨h5, hflag, hslot, hstopped, hring⟩ := State.rearm_stops harm
    exact ⟨_, execCaptureClosed_closes hst, h5, hflag, (congrArg CapSlot.st hslot).trans hst2, hstopped, hring⟩

end Sys2Proof.Machine
end

section
/-!
PROOFS. Proofs/LineFlits.lean: the bytes of a flit read back as that flit (R311, R313), those of a group as its flits (R310), and the statement on a lane's line code.
-/

namespace Sys2Proof.Machine

open Sys2Proof

/-! ## Cuts of byte strings -/

/-- A cut from a byte string, by its places; what lies beyond the end is zero. -/
theorem bytesAt_eq_map (bs : List Byte) (o n : Nat) : bytesAt bs o n = (List.range n).map fun i => bs.getD (o + i) 0 := by
  refine List.ext_getElem (by simp) fun i hi _ => ?_
  have hn : i < n := by simpa using hi
  simp only [bytesAt, List.getElem_append, List.getElem_take, List.getElem_drop, List.getElem_replicate, List.getElem_map, List.getElem_range, List.length_take,
    List.length_drop]
  split
  · exact (List.getD_eq_getElem _ _ (by omega)).symm
  · exact (List.getD_eq_default _ _ (by omega)).symm

/-- A cut behind the first bytes. -/
theorem bytesAt_append_right (l r : List Byte) {k o : Nat} (n : Nat) (h : l.length + o = k) : bytesAt (l ++ r) k n = bytesAt r o n := by
  subst h
  simp [bytesAt, List.drop_append, List.drop_eq_nil_of_le (Nat.le_add_right l.length o)]

/-- The cut that takes the first bytes. -/
theorem bytesAt_append_left (l r : List Byte) {n : Nat} (h : l.length = n) : bytesAt (l ++ r) 0 n = l := by
  simp [bytesAt, ← h]

/-- A cut within the 64 bytes of a payload is one of the bytes given. -/
theorem bytesAt_payload64 (bs : List Byte) {o n : Nat} (h : o + n ≤ 64) : bytesAt (payload64 bs) o n = bytesAt bs o n := by
  rw [payload64, bytesAt_eq_map _ o, bytesAt_eq_map _ o]
  refine List.map_congr_left fun i hi => ?_
  have hn : i < n := List.mem_range.mp hi
  rw [List.getD_eq_getElem _ _ (by simp; omega), List.getElem_of_eq (bytesAt_eq_map bs 0 64)]
  simp

/-- A field within a payload is one of the bytes given. -/
theorem fieldAt_payload64 (bs : List Byte) {o n : Nat} (h : o + n ≤ 64) : fieldAt (payload64 bs) o n = fieldAt bs o n :=
  congrArg leNat (bytesAt_payload64 bs h)

/-- A payload of no more than 64 bytes reads back. -/
theorem bytesAt_payload64_self {bs : List Byte} (h : bs.length ≤ 64) : bytesAt (payload64 bs) 0 bs.length = bs := by
  rw [bytesAt_payload64 bs (by omega)]
  simp [bytesAt]

/-- A field that ends a byte string. -/
theorem fieldAt_leBytes {n v : Nat} (h : v < 256 ^ n) : fieldAt (leBytes n v) 0 n = v := by
  rw [← List.append_nil (leBytes n v), fieldAt_leBytes_append _ h]

/-! ## The parts of a flit (R311) -/

/-- The first byte of a flit: its kind, and class and marks of a data flit. -/
def Flit.head : Flit → Nat
  | .idle => 0
  | .data cls sop eop _ => 1 + 16 * (cls % 4) + 64 * b2n sop + 128 * b2n eop
  | .ack _ => 2
  | .nak _ => 3
  | .train _ | .rateChange _ _ | .eqReq _ _ | .power _ => 4
  | .reserved => 15

/-- The second byte of a flit: one less than the bytes that it uses. -/
def Flit.lenCode : Flit → Nat
  | .data _ _ eop pl => if eop then pl.length - 1 else 63
  | _ => 63

/-- The payload of an `ACK` or `NAK` (R313). -/
def AckInfo.payload (i : AckInfo) : List Byte := leBytes 2 (i.aseq % 4096) ++ leBytes 2 i.svc ++ leBytes 2 i.saf ++ leBytes 2 i.blk

/-- The byte of a `TRAIN` flit that holds its rate and marks. -/
def Train.marks (t : Train) : Nat := t.maxRate % 8 + 8 * b2n t.device + 16 * b2n t.ackd + 32 * b2n t.up

/-- The payload of a `TRAIN` flit (R313). -/
def Train.payload (t : Train) : List Byte :=
  leBytes 1 1 ++ leBytes 1 (Train.marks t) ++ leBytes 1 (t.lane % 4) ++ leBytes 1 t.eye ++ leBytes 2 t.session ++ leBytes 2 (t.rxNext % 4096) ++ leBytes 1 (t.window % 128)

/-- The bytes of a flit's payload that are not padding. -/
def Flit.payload : Flit → List Byte
  | .idle | .reserved => []
  | .data _ _ _ pl => pl
  | .ack i | .nak i => AckInfo.payload i
  | .train t => Train.payload t
  | .rateChange r c => leBytes 1 2 ++ leBytes 1 (r % 8) ++ leBytes 1 (c % 16)
  | .eqReq p fin => leBytes 1 3 ++ leBytes 1 (p % 16) ++ leBytes 1 (b2n fin)
  | .power st => leBytes 1 4 ++ leBytes 1 (st % 4)

/-- R311: a flit is its head, its length, its place in the group and its payload. -/
theorem flitBytes_eq (gseq idx : Nat) (f : Flit) :
    flitBytes gseq idx f = leBytes 1 (Flit.head f) ++ (leBytes 1 (Flit.lenCode f) ++ (leBytes 2 (gseq % 4096 + 4096 * (idx % 16)) ++ payload64 (Flit.payload f))) := by
  cases f <;> exact (List.append_assoc ..).trans (List.append_assoc ..)

theorem b2n_le_one (b : Bool) : b2n b ≤ 1 := by cases b <;> decide

theorem Flit.head_lt (f : Flit) : Flit.head f < 256 := by
  cases f with
  | data cls sop eop pl =>
    have hsop := b2n_le_one sop
    have heop := b2n_le_one eop
    simp only [Flit.head]
    omega
  | _ => simp [Flit.head]

/-- The first byte of a flit. -/
theorem fieldAt_flit_head (gseq idx : Nat) (f : Flit) : fieldAt (flitBytes gseq idx f) 0 1 = Flit.head f := by
  rw [flitBytes_eq, fieldAt_leBytes_append _ (Flit.head_lt f)]

/-- The second byte of a flit. -/
theorem fieldAt_flit_len (gseq idx : Nat) {f : Flit} (h : Flit.lenCode f < 256) : fieldAt (flitBytes gseq idx f) 1 1 = Flit.lenCode f := by
  rw [flitBytes_eq, fieldAt_append (o := 0) _ _ (by simp), fieldAt_leBytes_append _ h]

/-- The third and the fourth byte of a flit: the group's number and the flit's place. -/
theorem fieldAt_flit_place (gseq idx : Nat) (f : Flit) : fieldAt (flitBytes gseq idx f) 2 2 = gseq % 4096 + 4096 * (idx % 16) := by
  rw [flitBytes_eq, fieldAt_append (o := 1) _ _ (by simp), fieldAt_append (o := 0) _ _ (by simp), fieldAt_leBytes_append _ (by omega)]

/-- What follows the first four bytes of a flit. -/
theorem drop_flit (gseq idx : Nat) (f : Flit) : (flitBytes gseq idx f).drop 4 = payload64 (Flit.payload f) := by
  rw [flitBytes_eq, ← List.append_assoc, ← List.append_assoc]
  exact List.drop_left' (by simp)

/-! ## What a flit says (R311, R313) -/

/-- A field behind a number. -/
theorem fieldAt_skip {m k : Nat} (v : Nat) (r : List Byte) (n : Nat) (h : m ≤ k) : fieldAt (leBytes m v ++ r) k n = fieldAt r (k - m) n :=
  fieldAt_append _ _ (by rw [leBytes_length]; omega)

/-- R313: the payload of an `ACK` or `NAK` reads back. -/
theorem readAck_payload {i : AckInfo} (h : i.aseq < 4096 ∧ i.svc < 65536 ∧ i.saf < 65536 ∧ i.blk < 65536) : readAck (payload64 (AckInfo.payload i)) = i := by
  obtain ⟨haseq, hsvc, hsaf, hblk⟩ := h
  simp (disch := omega) only [readAck, fieldBits, AckInfo.payload, List.append_assoc, fieldAt_payload64, fieldAt_skip, fieldAt_leBytes_append, fieldAt_leBytes, Nat.reduceSub]
  simp [Nat.mod_eq_of_lt haseq]

/-- The marks of a `TRAIN` flit read back. -/
theorem train_marks {t : Train} (h : t.maxRate < 8) :
    Train.marks t < 256 ∧ Train.marks t % 8 = t.maxRate ∧ bitN (Train.marks t) 3 = t.device ∧ bitN (Train.marks t) 4 = t.ackd ∧ bitN (Train.marks t) 5 = t.up := by
  have hall : ∀ m < 8, ∀ d a u, let v := m % 8 + 8 * b2n d + 16 * b2n a + 32 * b2n u
      v < 256 ∧ v % 8 = m ∧ bitN v 3 = d ∧ bitN v 4 = a ∧ bitN v 5 = u := by decide
  exact hall _ h ..

/-- The head of a data flit reads back. -/
theorem data_head {cls : Nat} (h : cls < 4) (sop eop : Bool) (pl : List Byte) : let v := Flit.head (.data cls sop eop pl)
    v % 16 = 1 ∧ v / 16 % 4 = cls ∧ bitN v 6 = sop ∧ bitN v 7 = eop := by
  have hall : ∀ c < 4, ∀ s e, let v := 1 + 16 * (c % 4) + 64 * b2n s + 128 * b2n e
      v % 16 = 1 ∧ v / 16 % 4 = c ∧ bitN v 6 = s ∧ bitN v 7 = e := by decide
  exact hall _ h ..

/-- R311: the payload of a data flit reads back, from its length where it ends a packet. -/
theorem data_payload (gseq idx : Nat) {cls : Nat} (sop : Bool) {eop : Bool} {pl : List Byte} (h : if eop then 1 ≤ pl.length ∧ pl.length ≤ 64 else pl.length = 64) :
    bytesAt (payload64 pl) 0 (if eop then fieldAt (flitBytes gseq idx (.data cls sop eop pl)) 1 1 % 64 + 1 else 64) = pl := by
  have hn : (if eop then fieldAt (flitBytes gseq idx (.data cls sop eop pl)) 1 1 % 64 + 1 else 64) = pl.length := by
    cases eop with
    | false => exact (show pl.length = 64 from h).symm
    | true =>
      have hl : 1 ≤ pl.length ∧ pl.length ≤ 64 := h
      rw [if_pos rfl, fieldAt_flit_len _ _ (f := .data cls sop true pl) (show pl.length - 1 < 256 by omega)]
      show (pl.length - 1) % 64 + 1 = _
      omega
  have hle : pl.length ≤ 64 := by cases eop <;> simp at h <;> omega
  rw [hn, bytesAt_payload64_self hle]

/-- R311, R313: a flit that its bytes can spell is what they say. -/
theorem readFlit_flitBytes (gseq idx : Nat) {f : Flit} (h : flitFits f = true) : readFlit (flitBytes gseq idx f) = f := by
  simp only [readFlit, fieldAt_flit_head, drop_flit]
  cases f with
  | idle => rfl
  | reserved => rfl
  | data cls sop eop pl =>
    obtain ⟨hcls, hlen⟩ : cls < 4 ∧ if eop then 1 ≤ pl.length ∧ pl.length ≤ 64 else pl.length = 64 := by
      cases eop <;> simpa [flitFits] using h
    obtain ⟨hkind, hclass, hsop, heop⟩ := data_head hcls sop eop pl
    rw [hkind]
    simp only [hclass, hsop, heop, Flit.payload, data_payload gseq idx sop hlen]
  | ack i => simp only [Flit.head, Flit.payload, readAck_payload (of_decide_eq_true h), Nat.reduceMod]
  | nak i => simp only [Flit.head, Flit.payload, readAck_payload (of_decide_eq_true h), Nat.reduceMod]
  | train t =>
    obtain ⟨hrate, hlane, heye, hsession, hnext, hwindow⟩ := of_decide_eq_true h
    obtain ⟨hmarks, hmax, hdevice, hackd, hup⟩ := train_marks hrate
    simp (disch := omega) only [Flit.head, Flit.payload, fieldBits, Train.payload, List.append_assoc, fieldAt_payload64, fieldAt_skip, fieldAt_leBytes_append, fieldAt_leBytes, Nat.reduceSub]
    simp [hmax, hdevice, hackd, hup, Nat.mod_eq_of_lt hlane, Nat.mod_eq_of_lt hnext, Nat.mod_eq_of_lt hwindow]
  | rateChange r c =>
    obtain ⟨hr, hc⟩ := of_decide_eq_true h
    simp (disch := omega) only [Flit.head, Flit.payload, List.append_assoc, fieldAt_payload64, fieldAt_skip, fieldAt_leBytes_append, fieldAt_leBytes, Nat.reduceSub]
    simp [Nat.mod_eq_of_lt hr, Nat.mod_eq_of_lt hc]
  | eqReq p fin =>
    have hp : p < 16 := of_decide_eq_true h
    have hfin := b2n_le_one fin
    simp (disch := omega) only [Flit.head, Flit.payload, List.append_assoc, fieldAt_payload64, fieldAt_skip, fieldAt_leBytes_append, fieldAt_leBytes, Nat.reduceSub]
    cases fin <;> simp [Nat.mod_eq_of_lt hp, b2n]
  | power st =>
    have hst : st < 4 := of_decide_eq_true h
    simp (disch := omega) only [Flit.head, Flit.payload, fieldAt_payload64, fieldAt_skip, fieldAt_leBytes_append, fieldAt_leBytes, Nat.reduceSub]
    simp [Nat.mod_eq_of_lt hst]

/-! ## The flits of a group (R310) -/

/-- Each flit of a group stands in its place, 68 bytes behind the one before. -/
theorem bytesAt_flitsBytes (gseq : Nat) (r : List Byte) {fs : List Flit} {i : Nat} (h : i < fs.length) :
    ∀ idx, bytesAt (flitsBytes gseq idx fs ++ r) (68 * i) 68 = flitBytes gseq (idx + i) fs[i] := by
  induction fs generalizing i with
  | nil => exact absurd h (Nat.not_lt_zero i)
  | cons f fs ih =>
    intro idx
    rw [flitsBytes, List.append_assoc]
    cases i with
    | zero => exact bytesAt_append_left _ _ (by simp)
    | succ i =>
      rw [bytesAt_append_right _ _ _ (show _ + 68 * i = _ by simp; omega), ih (Nat.lt_of_succ_lt_succ h), List.getElem_cons_succ, Nat.add_assoc, Nat.add_comm 1 i]

/-- The sixteen flits of a group, cut out of its bytes. -/
theorem flitChunks_groupBytes (gseq : Nat) {fs : List Flit} (hf : fs.length = 16) :
    flitChunks (groupBytes gseq fs) = fs.mapIdx fun i f => flitBytes gseq i f := by
  refine List.ext_getElem (by simp [flitChunks, hf]) fun i hi _ => ?_
  have h16 : i < fs.length := by simpa [flitChunks, hf] using hi
  simp only [flitChunks, List.getElem_map, List.getElem_range, List.getElem_mapIdx]
  rw [groupBytes, bytesAt_flitsBytes gseq _ h16, Nat.zero_add]

/-- R310: the check word of a group holds. -/
theorem groupBytes_check (gseq : Nat) {fs : List Flit} (hf : fs.length = 16) :
    crc32c ((groupBytes gseq fs).take 1088) = fieldAt (groupBytes gseq fs) 1088 4 := by
  have hlen : (flitsBytes gseq 0 fs).length = 1088 := by
    have := groupBytes_length gseq fs
    simp only [groupBytes, List.length_append, leBytes_length] at this
    omega
  rw [groupBytes, List.take_left' hlen, fieldAt_append (o := 0) _ _ (by omega), fieldAt_leBytes (crc32c_lt _)]

/-- R310, R311: the bytes of a group of sixteen flits, each one that its bytes can spell, are read as that group. -/
theorem readBytes_groupBytes {gseq : Nat} {fs : List Flit} (hf : fs.length = 16) (hfit : ∀ f ∈ fs, flitFits f = true) (hg : gseq < 4096) :
    readBytes true true (groupBytes gseq fs) = { comma := true, framed := true, crcOk := true, seqOk := true, gseq, flits := fs } := by
  have hplaces : (flitChunks (groupBytes gseq fs)).map (fun b => fieldAt b 2 2) = (List.range 16).map fun i => gseq + 4096 * i := by
    rw [flitChunks_groupBytes gseq hf]
    refine List.ext_getElem (by simp [hf]) fun i hi _ => ?_
    have h16 : i < 16 := by simpa [hf] using hi
    simp only [List.getElem_map, List.getElem_mapIdx, List.getElem_range, fieldAt_flit_place, Nat.mod_eq_of_lt hg, Nat.mod_eq_of_lt h16]
  have hflits : (flitChunks (groupBytes gseq fs)).map readFlit = fs := by
    rw [flitChunks_groupBytes gseq hf]
    refine List.ext_getElem (by simp) fun i _ hi => ?_
    simp only [List.getElem_map, List.getElem_mapIdx, readFlit_flitBytes gseq i (hfit _ (List.getElem_mem hi))]
  have hgseq : ((List.range 16).map fun i => gseq + 4096 * i).headD 0 % 4096 = gseq := Nat.mod_eq_of_lt hg
  simp only [readBytes, hplaces, hflits, hgseq, groupBytes_length, groupBytes_check gseq hf, hf, beq_self_eq_true, Bool.and_true]

/-! ## The statement -/

/-- Settles O55: the layers of the line undo each other, and the bytes that come back spell the flits. -/
theorem lineCodeRecovers : Obligations.LineCodeRecovers := by
  intro pam scr last gseq fs hf hfit hg
  exact (readGroup_lineGroup pam scr last gseq fs hf).trans (congrArg (·, _) (readBytes_groupBytes hf hfit hg))

end Sys2Proof.Machine
end

section
/-!
PROOFS. Proofs/Lanes.lean: the account of a lane and its registers: what is read after the one or the other is written, and what the operations of a lane do where its training
has begun.
-/

namespace Sys2Proof.Machine

open Sys2Proof

/-! ## The account of a lane -/

@[simp] theorem State.lane_setLane_self (s : State) (l : Nat) (x : LaneSt) : (s.setLane l x).lane l = x := get_set_self ..

@[simp] theorem State.lane_setF (s : State) (a hi lo v l : Nat) : (s.setF a hi lo v).lane l = s.lane l := rfl

@[simp] theorem State.lane_setLaneSt (s : State) (l v k : Nat) : (s.setLaneSt l v).lane k = s.lane k := rfl

@[simp] theorem State.lane_flag (s : State) (a i l : Nat) : (s.flag a i).lane l = s.lane l := rfl

@[simp] theorem State.lane_inc (s : State) (a l : Nat) : (s.inc a).lane l = s.lane l := rfl

@[simp] theorem State.sys_setLane (s : State) (l : Nat) (x : LaneSt) : (s.setLane l x).sys = s.sys := rfl

@[simp] theorem State.regs_setLane (s : State) (l : Nat) (x : LaneSt) : (s.setLane l x).regs = s.regs := rfl

@[simp] theorem State.rd_setLane (s : State) (l : Nat) (x : LaneSt) (a : Nat) : (s.setLane l x).rd a = s.rd a := rfl

@[simp] theorem State.f_setLane (s : State) (l : Nat) (x : LaneSt) (a hi lo : Nat) : (s.setLane l x).f a hi lo = s.f a hi lo := rfl

@[simp] theorem State.laneSt_setLane (s : State) (l : Nat) (x : LaneSt) (k : Nat) : (s.setLane l x).laneSt k = s.laneSt k := rfl

/-! ## The registers of a lane (R328) -/

/-- No two registers of a lane are one. -/
theorem Reg.laneStatus_ne_laneEq (l : Nat) : Reg.LANE_STATUS l ≠ Reg.LANE_EQ l := by simp [Reg.LANE_STATUS, Reg.LANE_EQ]

theorem Reg.laneCfg_ne_laneStatus (l : Nat) : Reg.LANE_CFG l ≠ Reg.LANE_STATUS l := by simp [Reg.LANE_CFG, Reg.LANE_STATUS]

theorem Reg.laneCfg_ne_laneEq (l : Nat) : Reg.LANE_CFG l ≠ Reg.LANE_EQ l := by simp [Reg.LANE_CFG, Reg.LANE_EQ]

/-- A register of a lane is none of the registers of all lanes. -/
theorem Reg.laneStatus_ne_linkStatus (l : Nat) : Reg.LANE_STATUS l ≠ Reg.LINK_STATUS := by simp only [Reg.LANE_STATUS, Reg.LINK_STATUS]; omega

theorem Reg.laneStatus_ne_linkFlags (l : Nat) : Reg.LANE_STATUS l ≠ Reg.LINK_FLAGS := by simp only [Reg.LANE_STATUS, Reg.LINK_FLAGS]; omega

theorem Reg.laneStatus_ne_laneCrcErr (l : Nat) : Reg.LANE_STATUS l ≠ Reg.LANE_CRC_ERR l := by simp [Reg.LANE_STATUS, Reg.LANE_CRC_ERR]

theorem Reg.laneCfg_ne_laneReplay (l : Nat) : Reg.LANE_CFG l ≠ Reg.LANE_REPLAY l := by simp [Reg.LANE_CFG, Reg.LANE_REPLAY]

theorem Reg.laneCfg_ne_linkFlags (l : Nat) : Reg.LANE_CFG l ≠ Reg.LINK_FLAGS := by simp only [Reg.LANE_CFG, Reg.LINK_FLAGS]; omega

theorem Reg.laneReplay_ne_linkFlags (l : Nat) : Reg.LANE_REPLAY l ≠ Reg.LINK_FLAGS := by simp only [Reg.LANE_REPLAY, Reg.LINK_FLAGS]; omega

theorem Reg.laneCrcErr_ne_linkFlags (l : Nat) : Reg.LANE_CRC_ERR l ≠ Reg.LINK_FLAGS := by simp only [Reg.LANE_CRC_ERR, Reg.LINK_FLAGS]; omega

theorem Reg.linkStatus_ne_laneEq (l : Nat) : Reg.LINK_STATUS ≠ Reg.LANE_EQ l := by simp only [Reg.LANE_EQ, Reg.LINK_STATUS]; omega

/-- A bit set outside a field leaves the field. -/
theorem State.f_setBit_off (s : State) (a : Nat) {i hi lo : Nat} (h : i < 32) (hd : hi < i ∨ i < lo) (v : Bool) : (s.setBit a i v).f a hi lo = s.f a hi lo :=
  State.f_setF_off _ _ (Nat.le_refl i) h hd _

/-- Another bit of the register stands. -/
theorem State.bit_setBit_off (s : State) (a : Nat) {i j : Nat} (h : i < 32) (hd : j ≠ i) (v : Bool) : (s.setBit a i v).bit a j = s.bit a j :=
  State.bit_setF_off _ _ (Nat.le_refl i) h (by omega) _

theorem State.bit_flag_ne (s : State) {a a' : Nat} (h : a' ≠ a) (i j : Nat) : (s.flag a i).bit a' j = s.bit a' j := State.bit_setBit_ne _ h ..

/-- Fields and bits of a register that stands stand. -/
theorem State.f_congr {s t : State} {a : Nat} (h : t.rd a = s.rd a) (hi lo : Nat) : t.f a hi lo = s.f a hi lo := congrArg (bitsOf · hi lo) h

theorem State.bit_congr {s t : State} {a : Nat} (h : t.rd a = s.rd a) (i : Nat) : t.bit a i = s.bit a i := congrArg (·.getLsbD i) h

/-- An event that is counted at `a` and flagged in register `f` changes the count and the flags alone. -/
theorem State.inc_flag_effects (s : State) {a f i : Nat} (hne : a ≠ f) (hi : i < 32) : ((s.inc a).flag f i).r a = min (s.r a + 1) 0xFFFFFFFF ∧
    ((s.inc a).flag f i).bit f i = true ∧ ∀ b, b ≠ a → b ≠ f → ((s.inc a).flag f i).rd b = s.rd b :=
  ⟨(congrArg BitVec.toNat (State.rd_flag_ne _ hne i)).trans (s.r_inc a), State.bit_flag_self _ _ hi, fun _ ha hf => (State.rd_flag_ne _ hf i).trans (s.rd_inc_ne ha)⟩

/-! ## The state of a lane -/

/-- A lane's training state reads back. -/
theorem State.laneSt_setLaneSt (s : State) (l : Nat) {v : Nat} (h : v < 16) : (s.setLaneSt l v).laneSt l = v :=
  (State.f_setF_self _ _ (by decide) (by decide) _).trans (Nat.mod_eq_of_lt h)

/-- Another field of `LANE_STATUS`, or another register, leaves the training state. -/
theorem State.laneSt_setStatus (s : State) (l : Nat) {hi lo : Nat} (h : lo ≤ hi) (h32 : hi < 32) (hd : 3 < lo) (v : Nat) :
    (s.setF (Reg.LANE_STATUS l) hi lo v).laneSt l = s.laneSt l := State.f_setF_off _ _ h h32 (.inl hd) _

theorem State.laneSt_setF_ne (s : State) {l a : Nat} (h : Reg.LANE_STATUS l ≠ a) (hi lo v : Nat) : (s.setF a hi lo v).laneSt l = s.laneSt l := State.f_setF_ne _ h ..

/-- The training state leaves the other fields of `LANE_STATUS`. -/
theorem State.f_setLaneSt (s : State) (l v : Nat) {hi lo : Nat} (h : 3 < lo) : (s.setLaneSt l v).f (Reg.LANE_STATUS l) hi lo = s.f (Reg.LANE_STATUS l) hi lo :=
  State.f_setF_off _ _ (by decide) (by decide) (.inr h) _

/-- A lane whose training has begun does not begin it again. -/
theorem State.startLane_begun {s : State} {l : Nat} (h : s.laneSt l ≠ 0) : s.startLane l = s := if_pos h

/-- A lane that is not `UP` does not leave it. -/
theorem State.leaveUp_down {s : State} {l : Nat} (h : s.laneSt l ≠ 5) : s.leaveUp l = s := if_neg h

end Sys2Proof.Machine
end

section
/-!
PROOFS. Proofs/LaneTraining.lean: the rows of a lane's training (R309, R317 to R321), and the statement on them.
-/

namespace Sys2Proof.Machine

open Sys2Proof

/-! ## Signal and lock (R309, R317) -/

section

variable {s : State} {l : Fin 4}

theorem execLaneSignal_off (h : s.laneOn l = false) : execLaneSignal l s = .next s := by
  simp [execLaneSignal, h]

/-- R317: a lane that waits for its peer's signal takes it. -/
theorem execLaneSignal_found (hon : s.laneOn l = true) (hst : s.laneSt l = 1 ∨ s.laneSt l = 6) :
    execLaneSignal l s = .next (s.setLane l { s.lane l with signalAt := some s.now, scrRx := 0x7FFFFFFF, goodCommas := 0 }) := by
  have hbegun : s.laneSt l ≠ 0 := by omega
  simp [execLaneSignal, hon, State.startLane_begun hbegun, hst]

theorem execLaneCommaLock_none (h : s.laneOn l = false ∨ (s.lane l).goodCommas < 8) : execLaneCommaLock l s = .next s := by
  unfold execLaneCommaLock
  rw [if_pos (by simpa using h)]

/-- R309: eight good commas lock a lane that waits for them, and training sequences follow. -/
theorem execLaneCommaLock_trains (hon : s.laneOn l = true) (hst : s.laneSt l = 1 ∨ s.laneSt l = 6) (h8 : 8 ≤ (s.lane l).goodCommas) :
    execLaneCommaLock l s = .next ((s.setLane l { s.lane l with locked := true }).setLaneSt l 2) := by
  unfold execLaneCommaLock
  rw [if_neg (by simp [hon, h8])]
  exact congrArg _ (if_pos hst)

/-- R317: eight good commas at the new rate, and equalisation follows. -/
theorem execLaneCommaLock_equalises (hon : s.laneOn l = true) (hst : s.laneSt l = 3) (hsw : (s.lane l).switched = true) (h8 : 8 ≤ (s.lane l).goodCommas) :
    execLaneCommaLock l s =
      .next (((s.setLane l { s.lane l with locked := true }).setLane l { s.lane l with locked := true, eqNext := 0 }).setLaneSt l 4) := by
  simp [execLaneCommaLock, hon, h8, hst, hsw]

theorem execLaneCommaLoss_none (h : s.laneOn l = false ∨ (s.lane l).missed < 4) : execLaneCommaLoss l s = .next s := by
  unfold execLaneCommaLoss
  rw [if_pos (by simpa using h.imp_right .inr)]

/-- R309: four bad commas end the lock. -/
theorem execLaneCommaLoss_unlocks (hon : s.laneOn l = true) (hrx : s.f (Reg.LANE_STATUS l) 11 10 = 0) (hst : s.laneSt l ≠ 5) (h4 : 4 ≤ (s.lane l).missed) :
    execLaneCommaLoss l s = .next (s.setLane l { s.lane l with locked := false, goodCommas := 0 }) := by
  simp [execLaneCommaLoss, hon, hrx, h4, hst]

/-! ## Training sequences and the change of rate (R317) -/

/-- R317: both ends have acknowledged, and the lane changes its rate, or equalises where it need not. -/
theorem execLaneTrainDone_done (hst : s.laneSt l = 2) (h8 : 8 ≤ (s.lane l).ackdSent) (hrx : (s.lane l).ackdRx = true) {target : Nat}
    (ht : min (s.f (Reg.LANE_CFG l) 2 0) (s.f (Reg.LANE_STATUS l) 14 12) = target) : execLaneTrainDone l s =
      .next ((s.setLane l { s.lane l with target, rateCount := 16, rateIdle := none, switched := false, eqNext := 0 }).setLaneSt l
        (if target = s.f (Reg.LANE_STATUS l) 6 4 then 4 else 3)) := by
  subst ht
  unfold execLaneTrainDone
  dsimp only
  rw [if_pos ⟨hst, h8, hrx⟩, State.f_setLane, ← apply_ite]

theorem execLaneTrainDone_none (hst : s.laneSt l ≠ 2) : execLaneTrainDone l s = .next s := by
  simp [execLaneTrainDone, hst]

/-- The account of a lane whose rate has changed. -/
def LaneSt.atRate (x : LaneSt) : LaneSt :=
  { x with scrTx := 0x7FFFFFFF, scrRx := 0x7FFFFFFF, locked := false, goodCommas := 0, missed := 0, rateIdle := none, switched := true, eyeTx := 0 }

theorem execLaneRateSwitch_idle {d : Nat} (h : (s.lane l).rateIdle = some d) : execLaneRateSwitch l s =
    .next (if s.laneSt l = 3 ∧ d ≤ s.now then (s.setF (Reg.LANE_STATUS l) 6 4 (s.lane l).target).setLane l (s.lane l).atRate else s) := by
  simp only [execLaneRateSwitch, h, LaneSt.atRate]

end

/-! ## Equalisation (R317, R319) -/

/-- The least of figures and a bound is no more than the bound. -/
theorem foldl_min_le (l : List Nat) : ∀ a, l.foldl min a ≤ a := by
  induction l with
  | nil => exact fun a => Nat.le_refl a
  | cons b l ih => exact fun a => (ih _).trans (Nat.min_le_left a b)

/-- The greatest of figures that keep a bound keeps it. -/
theorem foldl_max_le {l : List Nat} {n : Nat} (h : ∀ x ∈ l, x ≤ n) : ∀ a ≤ n, l.foldl max a ≤ n := by
  induction l with
  | nil => exact fun a ha => ha
  | cons b l ih =>
    rw [List.forall_mem_cons] at h
    exact fun a ha => ih h.2 _ (Nat.max_le.mpr ⟨ha, h.1⟩)

/-- R319: an eye figure fits its field. -/
theorem eyeFigure_le (pam : Bool) (r : EyeReading) : eyeFigure pam r ≤ 255 := foldl_min_le _ _

section

variable {s : State} {l : Fin 4}

/-- The account of a lane that has seen the eyes under all presets. -/
def LaneSt.equalised (x : LaneSt) (eye preset : Nat) : LaneSt := { x with eyeTx := eye, reqPreset := some (preset, true) }

/-- R319: the best eye figure and the equaliser of lane l are shown. -/
def State.showBest (s : State) (l eye ctle : Nat) : State := (s.setF (Reg.LANE_STATUS l) 23 16 eye).setF (Reg.LANE_EQ l) 11 8 ctle

theorem State.showBest_effects (s : State) (l ctle : Nat) {eye : Nat} (h : eye ≤ 255) :
    (s.showBest l eye ctle).laneSt l = s.laneSt l ∧ (s.showBest l eye ctle).f (Reg.LANE_STATUS l) 23 16 = eye := by
  have heq := Reg.laneStatus_ne_laneEq l
  rw [State.showBest, State.laneSt_setF_ne _ heq, State.f_setF_ne _ heq]
  exact ⟨State.laneSt_setStatus _ _ (by decide) (by decide) (by decide) _, (State.f_setF_self _ _ (by decide) (by decide) _).trans (Nat.mod_eq_of_lt (by omega))⟩

/-- R319: what ends equalisation: the eye and the equaliser are shown and the best preset is asked for; below a limit the rate falls by one code. -/
theorem execLaneEqDone_ends (hst : s.laneSt l = 4) (hnext : (s.lane l).eqNext = 11) (hfin : (s.lane l).eqFinal = false) (eyes : List EyeReading) (ctle preset : Nat)
    (peer : Bool) {rate eye : Nat} {figs : List Nat} (hrate : s.f (Reg.LANE_STATUS l) 6 4 = rate) (hfigs : eyes.map (eyeFigure (rate == 5)) = figs)
    (heye : figs.foldl max 0 = eye) :
    execLaneEqDone l eyes ctle preset peer s = .next (if (rate != 0 && (decide (eye < s.f (Reg.LANE_CFG l) 15 8) || !peer)) = true then
      ((s.showBest l eye ctle).setLane l
        { (s.lane l).equalised eye (bestPreset figs preset) with target := rate - 1, rateCount := 16, rateIdle := none, switched := false }).setLaneSt l 3
    else (s.showBest l eye ctle).setLane l { (s.lane l).equalised eye (bestPreset figs preset) with eqFinal := true }) := by
  subst hrate hfigs heye
  unfold execLaneEqDone
  dsimp only
  rw [if_pos ⟨hst, hnext, by simp [hfin]⟩, State.f_setF_ne _ (Reg.laneCfg_ne_laneEq l), State.f_setF_ne _ (Reg.laneCfg_ne_laneStatus l)]
  simp [LaneSt.equalised, State.showBest]

/-! ## The lane is up (R317, R320, R321) -/

theorem execLaneUp_none (h : s.laneSt l ≠ 4) : execLaneUp l s = .next s := by
  simp [execLaneUp, h]

/-- R317: lane l is up in this session, and its register and the link's show it. -/
def State.joinsLink (s : State) (l : Nat) : State :=
  ((s.setLane l { s.lane l with upSession := some ((s.lane l).session, (s.lane l).peerSession), retrainAt := none }).setLaneSt l 5).setBit Reg.LINK_STATUS l true

/-- R317: the eye at the start of the session and the peer's window are shown. -/
def State.showWindow (s : State) (l window : Nat) : State :=
  (s.setF (Reg.LANE_EQ l) 23 16 (s.f (Reg.LANE_STATUS l) 23 16)).setF (Reg.LANE_EQ l) 30 24 (min 64 window)

/-- An acknowledgement is owed at once (R312). -/
def State.owesAck (s : State) (l : Nat) : State := s.setLane l { s.lane l with idleSince := s.now, ackOwed := true }

/-- What a lane that joins the link shows and keeps. -/
theorem State.joinsLink_effects (s : State) (l : Fin 4) : (s.joinsLink l).laneSt l = 5 ∧ (s.joinsLink l).bit Reg.LINK_STATUS l = true ∧
    (s.joinsLink l).bit (Reg.LANE_STATUS l) 15 = s.bit (Reg.LANE_STATUS l) 15 ∧
    (s.joinsLink l).lane l = { s.lane l with upSession := some ((s.lane l).session, (s.lane l).peerSession), retrainAt := none } := by
  have hlink := Reg.laneStatus_ne_linkStatus l
  refine ⟨?_, State.bit_setBit_self _ _ (by omega) _, ?_, State.lane_setLane_self ..⟩
  · exact (State.laneSt_setF_ne _ hlink ..).trans (State.laneSt_setLaneSt _ _ (by decide))
  · exact (State.bit_setBit_ne _ hlink ..).trans (State.bit_setF_off _ _ (by decide) (by decide) (by decide) _)

/-- The eye and the window stand in `LANE_EQ` alone. -/
theorem State.rd_showWindow (s : State) {l a : Nat} (h : a ≠ Reg.LANE_EQ l) (window : Nat) : (s.showWindow l window).rd a = s.rd a :=
  (State.rd_setF_ne _ h ..).trans (State.rd_setF_ne _ h ..)

theorem State.lane_showWindow (s : State) (l window k : Nat) : (s.showWindow l window).lane k = s.lane k := by
  rw [State.showWindow, State.lane_setF, State.lane_setF]

theorem State.now_showWindow (s : State) (l window : Nat) : (s.showWindow l window).now = s.now := by
  rw [State.showWindow, State.setF_now, State.setF_now]

theorem State.now_joinsLink (s : State) (l : Nat) : (s.joinsLink l).now = s.now := rfl

theorem State.rd_owesAck (s : State) (l a : Nat) : (s.owesAck l).rd a = s.rd a := rfl

theorem State.lane_owesAck (s : State) (l : Nat) : (s.owesAck l).lane l = { s.lane l with idleSince := s.now, ackOwed := true } := State.lane_setLane_self ..

/-- The state in which both ends are up. -/
def State.comesUp (s : State) (l : Nat) : State := ((s.joinsLink l).showWindow l (s.lane l).peerWindow).owesAck l

theorem State.rd_comesUp (s : State) {l a : Nat} (h : a ≠ Reg.LANE_EQ l) : (s.comesUp l).rd a = (s.joinsLink l).rd a := by
  rw [State.comesUp, State.rd_owesAck, State.rd_showWindow _ h]

/-- A lane that comes up shows it, in its state and in the link's; whether it was lost stands. -/
theorem State.comesUp_shown (s : State) (l : Fin 4) :
    (s.comesUp l).laneSt l = 5 ∧ (s.comesUp l).bit Reg.LINK_STATUS l = true ∧ (s.comesUp l).bit (Reg.LANE_STATUS l) 15 = s.bit (Reg.LANE_STATUS l) 15 := by
  obtain ⟨hst, hup, hlost, -⟩ := s.joinsLink_effects l
  have hstatus := s.rd_comesUp (Reg.laneStatus_ne_laneEq l)
  have hlink := s.rd_comesUp (Reg.linkStatus_ne_laneEq l)
  exact ⟨(State.f_congr hstatus 3 0).trans hst, (State.bit_congr hlink l).trans hup, (State.bit_congr hstatus 15).trans hlost⟩

/-- A lane that comes up has its session, and owes an acknowledgement. -/
theorem State.lane_comesUp (s : State) (l : Fin 4) : (s.comesUp l).lane l =
    { s.lane l with upSession := some ((s.lane l).session, (s.lane l).peerSession), retrainAt := none, idleSince := s.now, ackOwed := true } := by
  obtain ⟨-, -, -, hlane⟩ := s.joinsLink_effects l
  rw [State.comesUp, State.lane_owesAck, State.lane_showWindow, State.now_showWindow, State.now_joinsLink, hlane]

/-- R317, R321: a lane whose both ends are ready comes up; one that was up never before, and is not lost, has nothing else to make good. -/
theorem execLaneUp_first (hst : s.laneSt l = 4) (hfin : (s.lane l).eqFinal = true) (hreq : (s.lane l).reqPreset = none) (hpeer : (s.lane l).peerUp = true)
    (hnew : (s.lane l).upSession = none) (hfound : s.bit (Reg.LANE_STATUS l) 15 = false) :
    execLaneUp l s = .next (((s.comesUp l).pairLaneUp l).raise Ev.LANE_UP .all (leBytes 4 l)) := by
  obtain ⟨-, -, hlost⟩ := s.comesUp_shown l
  have hu : s.comesUp l = if (s.comesUp l).bit (Reg.LANE_STATUS l) 15 then (s.comesUp l).laneFound l else s.comesUp l := by
    rw [hlost, hfound, if_neg (by decide)]
  rw [hu]
  unfold execLaneUp
  dsimp only
  rw [if_pos ⟨hst, hfin, hreq, hpeer⟩, hnew]
  rfl

/-! ## Training takes too long (R320) -/

theorem execRetrainTimeout_since {t0 : Nat} (h : (s.lane l).retrainAt = some t0) :
    execRetrainTimeout l s = .next (if s.laneSt l ≠ 5 ∧ t0 + 10000000 ≤ s.now then s.fullBringUp l else s) := by
  simp only [execRetrainTimeout, h]

/-- R317: full bring-up of a lane that is not up: from code 0, with preset 4, out of lock. -/
theorem State.fullBringUp_effects {l : Nat} (h : s.laneSt l ≠ 5) : (s.fullBringUp l).laneSt l = 1 ∧ (s.fullBringUp l).f (Reg.LANE_STATUS l) 6 4 = 0 ∧
    (s.fullBringUp l).f (Reg.LANE_STATUS l) 11 8 = 0 ∧ (s.fullBringUp l).f (Reg.LANE_EQ l) 3 0 = 4 ∧ ((s.fullBringUp l).lane l).retrainAt = none ∧
    ((s.fullBringUp l).lane l).locked = false ∧ ((s.fullBringUp l).lane l).scrTx = 0x7FFFFFFF ∧ ((s.fullBringUp l).lane l).target = 0 := by
  have heq := Reg.laneStatus_ne_laneEq l
  unfold State.fullBringUp
  rw [State.leaveUp_down h]
  simp only [State.laneSt_setLane, State.f_setLane, State.lane_setLane_self, State.laneSt_setF_ne _ heq, State.f_setF_ne _ heq, and_true]
  refine ⟨?_, ?_, State.f_setF_self _ _ (by decide) (by decide) _, State.f_setF_self _ _ (by decide) (by decide) _⟩
  · rw [State.laneSt_setStatus _ _ (by decide) (by decide) (by decide), State.laneSt_setStatus _ _ (by decide) (by decide) (by decide), State.laneSt_setLaneSt _ _ (by decide)]
  · rw [State.f_setF_off _ _ (by decide) (by decide) (by decide), State.f_setF_self _ _ (by decide) (by decide), Nat.zero_mod]

/-! ## The eye is followed (R319) -/

theorem execEyeUpdate_none (r : EyeReading) (h : s.laneSt l ≠ 5) : execEyeUpdate l r s = .next s := by
  simp [execEyeUpdate, h]

/-- The eye figure of a lane is shown, and the lowest since it came up. -/
def State.showEye (s : State) (l eye : Nat) : State :=
  let t := s.setF (Reg.LANE_STATUS l) 23 16 eye
  t.setF (Reg.LANE_EQ l) 23 16 (min eye (t.f (Reg.LANE_EQ l) 23 16))

/-- R319: an eye that is wide enough is shown, and nothing else. -/
theorem execEyeUpdate_wide {r : EyeReading} (hst : s.laneSt l = 5) {eye : Nat} (he : eyeFigure (s.f (Reg.LANE_STATUS l) 6 4 == 5) r = eye)
    (hmin : s.f (Reg.LANE_CFG l) 23 16 ≤ eye) : execEyeUpdate l r s = .next (s.showEye l eye) := by
  subst he
  unfold execEyeUpdate
  dsimp only
  rw [if_pos hst, if_neg]
  · rfl
  · rw [State.f_setF_ne _ (Reg.laneCfg_ne_laneEq l), State.f_setF_ne _ (Reg.laneCfg_ne_laneStatus l)]
    exact Nat.not_lt.mpr hmin

/-- What is shown of an eye. -/
theorem State.showEye_effects (s : State) (l : Nat) {eye : Nat} (h : eye ≤ 255) : (s.showEye l eye).f (Reg.LANE_STATUS l) 23 16 = eye ∧
    (s.showEye l eye).f (Reg.LANE_EQ l) 23 16 = min eye (s.f (Reg.LANE_EQ l) 23 16) ∧
    ∀ a, a ≠ Reg.LANE_STATUS l → a ≠ Reg.LANE_EQ l → (s.showEye l eye).rd a = s.rd a := by
  have heq := Reg.laneStatus_ne_laneEq l
  refine ⟨?_, ?_, fun a hst heq => (State.rd_setF_ne _ heq ..).trans (State.rd_setF_ne _ hst ..)⟩
  · exact (State.f_setF_ne _ heq ..).trans ((State.f_setF_self _ _ (by decide) (by decide) _).trans (Nat.mod_eq_of_lt (by omega)))
  · refine (State.f_setF_self _ _ (by decide) (by decide) _).trans ?_
    rw [State.f_setF_ne _ heq.symm]
    exact Nat.mod_eq_of_lt (by omega)

/-! ## A lane is lost (R321) -/

/-- R321: an expected lane that has not been up for long enough is lost. -/
theorem execLaneLossTimeout_lost {t0 : Nat} (hfrom : s.lossFrom l = some t0) (hl : l.val < s.variant.lanes) (hexp : s.bit Reg.LINK_CTRL (4 + l.val) = true)
    (hst : s.laneSt l ≠ 5) (hnot : s.bit (Reg.LANE_STATUS l) 15 = false) (hdue : t0 + s.f Reg.LINK_CTRL 31 16 * 1000000 ≤ s.now) :
    execLaneLossTimeout l s = .next (s.laneLost l) := by
  have hall : l.val < s.variant.lanes ∧ s.bit Reg.LINK_CTRL (4 + l.val) = true ∧ s.laneSt l ≠ 5 ∧ ¬ s.bit (Reg.LANE_STATUS l) 15 = true ∧
      t0 + s.f Reg.LINK_CTRL 31 16 * 1000000 ≤ s.now := ⟨hl, hexp, hst, by simp [hnot], hdue⟩
  simp only [execLaneLossTimeout, hfrom, if_pos hall]

/-- R321: a lane that is lost is marked in its own register and in the link's. -/
def State.markLost (s : State) (l : Nat) : State := ((s.setBit (Reg.LANE_STATUS l) 15 true).setBit Reg.LINK_STATUS (4 + l) true).flag Reg.LINK_FLAGS 5

theorem State.markLost_effects (s : State) (l : Fin 4) : (s.markLost l).bit (Reg.LANE_STATUS l) 15 = true ∧ (s.markLost l).bit Reg.LINK_STATUS (4 + l) = true ∧
    (s.markLost l).bit Reg.LINK_FLAGS 5 = true := by
  have hflags := Reg.laneStatus_ne_linkFlags l
  have hlink := Reg.laneStatus_ne_linkStatus l
  have hne : Reg.LINK_STATUS ≠ Reg.LINK_FLAGS := by decide
  refine ⟨?_, ?_, State.bit_flag_self _ _ (by decide)⟩
  · rw [State.markLost, State.bit_flag_ne _ hflags, State.bit_setBit_ne _ hlink, State.bit_setBit_self _ _ (by decide)]
  · rw [State.markLost, State.bit_flag_ne _ hne, State.bit_setBit_self _ _ (by omega)]

end

/-! ## The statement -/

/-- Settles O56, row by row: each condition on the lane picks one branch of its row, and the registers that the row writes do not overlap. -/
theorem laneTrainingRuns : Obligations.LaneTrainingRuns := by
  intro s l
  refine ⟨fun hoff => ⟨execLaneSignal_off hoff, execLaneCommaLock_none (.inl hoff), execLaneCommaLoss_none (.inl hoff)⟩,
    fun h => execLaneCommaLock_none (.inr h), fun h => execLaneCommaLoss_none (.inr h),
    fun hon hst => ⟨execLaneSignal_found hon hst, execLaneCommaLock_trains hon hst⟩, fun hon hst hsw h8 => ?equalises,
    fun hon hrx hst h4 => execLaneCommaLoss_unlocks hon hrx hst h4, fun hst h8 hrx => execLaneTrainDone_done hst h8 hrx rfl, fun h => execLaneTrainDone_none h,
    fun d hst hidle => ⟨fun hearly => ?early, fun hdue => ?switched⟩, fun eyes ctle preset peer hst hnext hfin => ?equalised, fun h => execLaneUp_none h,
    fun hst hfin hreq hpeer hnew hfound => ?up, fun t0 h => execRetrainTimeout_since h, fun t0 h hst hdue => ?retrained, fun r hst => ?eye,
    fun r h => execEyeUpdate_none r h, fun t0 hfrom hl hexp hst hnot hdue => ?lost⟩
  case equalises =>
    refine ⟨_, execLaneCommaLock_equalises hon hst hsw h8, State.laneSt_setLaneSt _ _ (by decide), ?_, fun a ha => State.rd_setF_ne _ ha ..⟩
    rw [State.lane_setLaneSt, State.lane_setLane_self]
  case early =>
    exact (execLaneRateSwitch_idle hidle).trans (congrArg _ (if_neg fun h => absurd h.2 (Nat.not_le.mpr hearly)))
  case switched =>
    refine ⟨_, (execLaneRateSwitch_idle hidle).trans (congrArg _ (if_pos ⟨hst, hdue⟩)), ?_⟩
    simp only [State.lane_setLane_self, State.laneSt_setLane, State.f_setLane, State.rd_setLane]
    refine ⟨rfl, rfl, rfl, rfl, ?_, State.f_setF_self _ _ (by decide) (by decide) _, fun a ha => State.rd_setF_ne _ ha ..⟩
    rw [State.laneSt_setStatus _ _ (by decide) (by decide) (by decide), hst]
  case equalised =>
    intro rate figs eye low
    have hexec := execLaneEqDone_ends hst hnext hfin eyes ctle preset peer (rate := rate) (figs := figs) (eye := eye) rfl rfl rfl
    have heye : eye ≤ 255 := foldl_max_le (List.forall_mem_map.mpr fun r _ => eyeFigure_le _ r) _ (Nat.zero_le _)
    obtain ⟨hkept, hshown⟩ := s.showBest_effects l ctle heye
    cases hlow : low with
    | true =>
      refine ⟨_, hexec.trans (congrArg _ (if_pos hlow)), ?_⟩
      rw [State.f_setLaneSt _ _ _ (by decide), State.f_setLane, State.lane_setLaneSt, State.lane_setLane_self, State.laneSt_setLaneSt _ _ (by decide)]
      exact ⟨hshown, rfl, nofun, fun _ => ⟨rfl, rfl, rfl⟩⟩
    | false =>
      refine ⟨_, hexec.trans (congrArg _ (if_neg (Bool.eq_false_iff.mp hlow))), ?_⟩
      rw [State.f_setLane, State.lane_setLane_self, State.laneSt_setLane]
      exact ⟨hshown, rfl, fun _ => ⟨hkept.trans hst, rfl⟩, nofun⟩
  case up =>
    obtain ⟨h5, hlink, -⟩ := s.comesUp_shown l
    refine ⟨s.comesUp l, execLaneUp_first hst hfin hreq hpeer hnew hfound, h5, hlink, ?_⟩
    rw [s.lane_comesUp l]
    exact ⟨rfl, rfl, rfl⟩
  case retrained =>
    exact ⟨_, (execRetrainTimeout_since h).trans (congrArg _ (if_pos ⟨hst, hdue⟩)), State.fullBringUp_effects hst⟩
  case eye =>
    exact fun hmin => ⟨_, execEyeUpdate_wide hst rfl hmin, s.showEye_effects l (eyeFigure_le ..)⟩
  case lost =>
    exact ⟨execLaneLossTimeout_lost hfrom hl hexp hst hnot hdue, s.markLost l, execLaneLossTimeout_lost hfrom hl hexp hst hnot hdue, s.markLost_effects l⟩

end Sys2Proof.Machine
end

section
/-!
PROOFS. Proofs/LaneTraffic.lean: groups sent and received, replay, doze and wake (R309 to R323).
-/

namespace Sys2Proof.Machine

open Sys2Proof

/-! ## A group on the line (R305 to R310) -/

/-- The account of a lane that has put a group on its line. -/
def LaneSt.sends (x : LaneSt) (pam : Bool) (gseq : Nat) (fs : List Flit) : LaneSt :=
  let g := lineGroup pam x.scrTx x.lastUnit gseq fs
  { x with txLine := g.1, scrTx := g.2.1, lastUnit := g.2.2 }

theorem LaneSt.txLine_sends (x : LaneSt) (pam : Bool) (gseq : Nat) (fs : List Flit) :
    (x.sends pam gseq fs).txLine = (lineGroup pam x.scrTx x.lastUnit gseq fs).1 := rfl

theorem LaneSt.rateCount_sends (x : LaneSt) (pam : Bool) (gseq : Nat) (fs : List Flit) : (x.sends pam gseq fs).rateCount = x.rateCount := rfl

theorem LaneSt.rateIdle_sends (x : LaneSt) (pam : Bool) (gseq : Nat) (fs : List Flit) : (x.sends pam gseq fs).rateIdle = x.rateIdle := rfl

theorem LaneSt.eqNext_sends (x : LaneSt) (pam : Bool) (gseq : Nat) (fs : List Flit) : (x.sends pam gseq fs).eqNext = x.eqNext := rfl

theorem State.sendGroup_eq (s : State) (l gseq : Nat) (fs : List Flit) :
    s.sendGroup l gseq fs = s.setLane l ((s.lane l).sends (s.f (Reg.LANE_STATUS l) 6 4 == 5) gseq fs) := rfl

/-- A group on the line changes the account of its lane alone. -/
@[simp] theorem State.sys_sendGroup (s : State) (l gseq : Nat) (fs : List Flit) : (s.sendGroup l gseq fs).sys = s.sys := by
  rw [State.sendGroup_eq, State.sys_setLane]

@[simp] theorem State.regs_sendGroup (s : State) (l gseq : Nat) (fs : List Flit) : (s.sendGroup l gseq fs).regs = s.regs := by
  rw [State.sendGroup_eq, State.regs_setLane]

@[simp] theorem State.sys_sendRequest (s : State) (l : Nat) (r : Nat × Bool) : (s.sendRequest l r).sys = s.sys := by
  rw [State.sendRequest, State.sys_sendGroup, State.sys_setLane]

theorem State.lane_sendGroup (s : State) (l gseq : Nat) (fs : List Flit) :
    (s.sendGroup l gseq fs).lane l = (s.lane l).sends (s.f (Reg.LANE_STATUS l) 6 4 == 5) gseq fs := by
  rw [State.sendGroup_eq, State.lane_setLane_self]

/-- The same, of a lane whose account has been written just before. -/
theorem State.lane_setLane_sendGroup (s : State) (l gseq : Nat) (x : LaneSt) (fs : List Flit) :
    ((s.setLane l x).sendGroup l gseq fs).lane l = x.sends (s.f (Reg.LANE_STATUS l) 6 4 == 5) gseq fs := by
  rw [State.lane_sendGroup, State.lane_setLane_self, State.f_setLane]

/-- R319: a group with a request of a preset. -/
theorem State.lane_setLane_sendRequest (s : State) (l : Nat) (x : LaneSt) (r : Nat × Bool) : ((s.setLane l x).sendRequest l r).lane l =
    LaneSt.sends { x with reqPreset := none } (s.f (Reg.LANE_STATUS l) 6 4 == 5) x.lastGseq (.eqReq r.1 r.2 :: List.replicate 15 ((s.setLane l x).trainFlit l)) := by
  rw [State.sendRequest, State.lane_setLane_sendGroup, State.lane_setLane_self, State.f_setLane]

/-- The presets asked for are not in a training sequence. -/
theorem State.trainFlit_eqNext (s : State) (l n : Nat) : (s.setLane l { s.lane l with eqNext := n }).trainFlit l = s.trainFlit l := by
  simp only [State.trainFlit, State.lane_setLane_self, State.f_setLane]

/-- Without a retraining or a disabling owed, none acts. -/
theorem State.owedRetrains_none {s : State} (hr : s.sys.retrainOwed = []) (hd : s.sys.disableOwed = []) : s.owedRetrains = s := by
  simp [State.owedRetrains, State.each, hr, hd]

/-- LANE_GROUP_TX where nothing waits for a reply: the group is sent, and no more. -/
theorem execLaneGroupTx_sends {s t : State} {l : Fin 4} (hr : s.sys.retrainOwed = []) (hd : s.sys.disableOwed = []) (ht : s.groupTx l = t) (hsys : t.sys = s.sys) :
    execLaneGroupTx l s = .next t := by
  rw [execLaneGroupTx, ht, State.owedRetrains_none (by rw [hsys, hr]) (by rw [hsys, hd])]

section

variable {s : State} {l : Nat}

/-- R317: a lane in training sends training sequences. -/
theorem State.groupTx_trains (hon : s.laneOn l = true) (hst : s.laneSt l ∉ [0, 3, 4, 5]) (hact : s.f (Reg.LANE_STATUS l) 9 8 = 0) : s.groupTx l =
    (if 4 ≤ (s.lane l).trainRx then s.setLane l { s.lane l with ackdSent := (s.lane l).ackdSent + 16 } else s).sendGroup l (s.lane l).lastGseq
      (List.replicate 16 (s.trainFlit l)) := by
  obtain ⟨h0, h3, h4, h5⟩ : s.laneSt l ≠ 0 ∧ s.laneSt l ≠ 3 ∧ s.laneSt l ≠ 4 ∧ s.laneSt l ≠ 5 := by simpa using hst
  simp [State.groupTx, hon, State.startLane_begun h0, hact]

/-- R315: a lane that is up, owes nothing and has a group to send again sends the oldest of those. -/
theorem State.groupTx_replays (hon : s.laneOn l = true) (hst : s.laneSt l = 5) (hact : s.f (Reg.LANE_STATUS l) 9 8 = 0) (hack : (s.lane l).ackOwed = false)
    (hnak : (s.lane l).nakOwed = false) {g : TxGroup} (hg : (s.lane l).unacked.find? (·.resend) = some g) : s.groupTx l = s.replayNext l g := by
  have hbegun : s.laneSt l ≠ 0 := by omega
  simp [State.groupTx, hon, State.startLane_begun hbegun, hact, hst, hack, hnak, hg]

/-- R317: before a change of rate a lane counts down, and then is idle for 10 µs. -/
theorem State.groupTx_counts (hon : s.laneOn l = true) (hst : s.laneSt l = 3) (hact : s.f (Reg.LANE_STATUS l) 9 8 = 0) (hreq : (s.lane l).reqPreset = none)
    (hsw : (s.lane l).switched = false) {n : Nat} (hn : (s.lane l).rateCount = n + 1) : s.groupTx l =
      (s.setLane l { s.lane l with rateCount := n, rateIdle := if n = 0 then some (s.now + 10000) else none }).sendGroup l (s.lane l).lastGseq
        (List.replicate 16 (.rateChange (s.lane l).target n)) := by
  have hbegun : s.laneSt l ≠ 0 := by omega
  simp [State.groupTx, hon, State.startLane_begun hbegun, hact, hst, hreq, hsw, hn]

/-- R319: in equalisation a lane asks for one preset after the other. -/
theorem State.groupTx_asks (hon : s.laneOn l = true) (hst : s.laneSt l = 4) (hact : s.f (Reg.LANE_STATUS l) 9 8 = 0) (hreq : (s.lane l).reqPreset = none)
    (hnext : (s.lane l).eqNext < 11) : s.groupTx l =
      (s.setLane l { s.lane l with eqNext := (s.lane l).eqNext + 1 }).sendRequest l ((s.lane l).eqNext, false) := by
  have hbegun : s.laneSt l ≠ 0 := by omega
  simp [State.groupTx, hon, State.startLane_begun hbegun, hact, hst, hreq, hnext]

/-- The account of a lane that sends group `g` again. -/
def LaneSt.resends (x : LaneSt) (g : TxGroup) (now : Nat) : LaneSt :=
  { x with unacked := x.unacked.map fun y => if y.gseq = g.gseq then { g with resend := false, replays := g.replays + 1, sentAt := now } else y, idleSince := now }

/-- R316: a replay below the limit is counted and flagged. -/
theorem State.replayNext_below {g : TxGroup} (h : g.replays + 1 < s.f (Reg.LANE_CFG l) 31 28) : s.replayNext l g =
    (((s.setLane l ((s.lane l).resends g s.now)).sendGroup l g.gseq g.flits).inc (Reg.LANE_REPLAY l)).flag Reg.LINK_FLAGS 2 := by
  have hcfg : ((((s.setLane l ((s.lane l).resends g s.now)).sendGroup l g.gseq g.flits).inc (Reg.LANE_REPLAY l)).flag Reg.LINK_FLAGS 2).rd (Reg.LANE_CFG l) =
      s.rd (Reg.LANE_CFG l) := by
    rw [State.rd_flag_ne _ (Reg.laneCfg_ne_linkFlags l), State.rd_inc_ne _ (Reg.laneCfg_ne_laneReplay l), State.sendGroup_eq, State.rd_setLane, State.rd_setLane]
  exact if_neg (Nat.not_le.mpr (h.trans_eq (State.f_congr hcfg 31 28).symm))

end

/-! ## Groups received (R309 to R315) -/

/-- R309: counting commas changes the two counts of a lane's account alone. -/
theorem State.countComma_eq (s : State) (l : Nat) (good : Bool) :
    s.countComma l good = s ∨ ∃ n m, s.countComma l good = s.setLane l { s.lane l with goodCommas := n, missed := m } := by
  unfold State.countComma
  split
  · exact .inr ⟨_, _, rfl⟩
  · split
    · exact .inl rfl
    · exact .inr ⟨_, _, rfl⟩

/-- What hearing a group, before anything is done with it, leaves as it is: the lock of the lane, the group that it expects, and all but the accounts of lanes. -/
structure State.HeardBy (l : Nat) (s t : State) : Prop where
  frame : t = { s with lanes := t.lanes }
  locked : (t.lane l).locked = (s.lane l).locked
  rxNext : (t.lane l).rxNext = (s.lane l).rxNext
  accepted : (t.lane l).accepted = (s.lane l).accepted

theorem State.countComma_heard (s : State) (l : Nat) (good : Bool) : State.HeardBy l s (s.countComma l good) := by
  obtain h | ⟨n, m, h⟩ := s.countComma_eq l good <;> rw [h]
  · exact ⟨rfl, rfl, rfl, rfl⟩
  · exact ⟨rfl, by rw [State.lane_setLane_self], by rw [State.lane_setLane_self], by rw [State.lane_setLane_self]⟩

/-- The descrambler of a lane runs on. -/
theorem State.setScrRx_heard (s : State) (l v : Nat) : State.HeardBy l s (s.setScrRx l v) :=
  ⟨rfl, by rw [State.setScrRx, State.lane_setLane_self], by rw [State.setScrRx, State.lane_setLane_self], by rw [State.setScrRx, State.lane_setLane_self]⟩

theorem State.HeardBy.rd {l : Nat} {s t : State} (h : State.HeardBy l s t) (a : Nat) : t.rd a = s.rd a := by
  rw [h.frame]
  rfl

theorem State.HeardBy.laneSt {l : Nat} {s t : State} (h : State.HeardBy l s t) : t.laneSt l = s.laneSt l := State.f_congr (h.rd _) 3 0

theorem State.HeardBy.laneOn {l : Nat} {s t : State} (h : State.HeardBy l s t) : t.laneOn l = s.laneOn l := by
  unfold State.laneOn
  rw [h.laneSt, h.frame]
  rfl

theorem State.HeardBy.now {l : Nat} {s t : State} (h : State.HeardBy l s t) : t.now = s.now := by rw [h.frame]

section

variable {s : State} {l : Nat} {g : RxGroup}

/-- R309: a receiver out of lock counts commas alone. -/
theorem State.groupRx_unlocked (hon : s.laneOn l = true) (hst : s.laneSt l ≠ 0) (hlock : (s.lane l).locked = false) : s.groupRx l g = s.countComma l g.comma := by
  have hk := s.countComma_heard l g.comma
  simp [State.groupRx, hon, State.startLane_begun hst, hk.locked, hlock]

/-- R314: the group that is expected is accepted, and acknowledged, and acted on. -/
theorem State.groupRx_next (hon : s.laneOn l = true) (hst : s.laneSt l = 5) (hlock : (s.lane l).locked = true) (hframed : g.framed = true) (hcrc : g.crcOk = true)
    (hseq : g.seqOk = true) (hres : g.flits.any (· == .reserved) = false) (hdata : g.flits.any Flit.isData = true) (hdist : gseqDist g.gseq (s.lane l).rxNext = 0)
    {u : State} (hu : s.countComma l g.comma = u) : s.groupRx l g = (u.setLane l { u.lane l with
      rxNext := ((s.lane l).rxNext + 1) % 4096, nakOut := false, nakOwed := false, ackOwed := true, accepted := (s.lane l).accepted + 1, idleSince := s.now }).actGroup l g := by
  have hk : State.HeardBy l s u := hu ▸ s.countComma_heard l g.comma
  have hbegun : s.laneSt l ≠ 0 := by omega
  have hstu : u.laneSt l = 5 := hk.laneSt.trans hst
  simp [State.groupRx, hon, State.startLane_begun hbegun, hu, hk.locked, hlock, hframed, hcrc, hseq, hres, hdata, hstu, hk.rxNext, hk.accepted, hk.now, hdist]

/-- R309, R310: a group that fails on a lane that is not up is counted and flagged. -/
theorem State.groupRx_fails (hon : s.laneOn l = true) (hst : s.laneSt l ≠ 0) (hdown : s.laneSt l ≠ 5) (hlock : (s.lane l).locked = true) (hframed : g.framed = true)
    (hbad : g.crcOk = false ∨ g.flits.any (· == .reserved) = true) :
    s.groupRx l g = ((s.countComma l g.comma).inc (Reg.LANE_CRC_ERR l)).flag Reg.LINK_FLAGS 0 := by
  have hk := s.countComma_heard l g.comma
  have hbad' : (false || !g.crcOk || g.flits.any (· == .reserved)) = true := by
    obtain h | h := hbad <;> simp [h]
  have hst' : (((s.countComma l g.comma).inc (Reg.LANE_CRC_ERR l)).flag Reg.LINK_FLAGS 0).laneSt l ≠ 5 := by
    have hrd : (((s.countComma l g.comma).inc (Reg.LANE_CRC_ERR l)).flag Reg.LINK_FLAGS 0).rd (Reg.LANE_STATUS l) = s.rd (Reg.LANE_STATUS l) := by
      rw [State.rd_flag_ne _ (Reg.laneStatus_ne_linkFlags l), State.rd_inc_ne _ (Reg.laneStatus_ne_laneCrcErr l), hk.rd]
    exact fun h => hdown ((State.f_congr hrd 3 0).symm.trans h)
  simp only [State.groupRx, hon, State.startLane_begun hst, hk.locked, hlock, hframed, hbad', hst', if_true, if_false, Bool.not_true, Bool.false_eq_true]

/-- A group of idle flits asks for nothing. -/
theorem State.actGroup_idle (h : g.flits = List.replicate 16 .idle) : s.actGroup l g = s := by
  unfold State.actGroup
  rw [h]
  rfl

/-- R310: a sound group of idle flits is done with once its comma is counted. -/
theorem State.groupRx_idle (hon : s.laneOn l = true) (hst : s.laneSt l ≠ 0) (hlock : (s.lane l).locked = true) (hframed : g.framed = true) (hcrc : g.crcOk = true)
    (hseq : g.seqOk = true) (hidle : g.flits = List.replicate 16 .idle) : s.groupRx l g = s.countComma l g.comma := by
  have hk := s.countComma_heard l g.comma
  have hres : g.flits.any (· == .reserved) = false := by rw [hidle]; rfl
  have hdata : g.flits.any Flit.isData = false := by rw [hidle]; rfl
  simp [State.groupRx, hon, State.startLane_begun hst, hk.locked, hlock, hframed, hcrc, hseq, hres, hdata, State.actGroup_idle hidle]

end

/-! ## Replay and power (R316, R322, R323) -/

section

variable {s : State} {l : Fin 4}

theorem execReplayTimeout_none (h : (s.lane l).unacked = []) : execReplayTimeout l s = .next s := by
  simp only [execReplayTimeout, h]

/-- R316: the oldest group has waited too long: all are sent again, unless a replay from it is under way. -/
theorem execReplayTimeout_due {g : TxGroup} {gs : List TxGroup} (h : (s.lane l).unacked = g :: gs) (hst : s.laneSt l = 5) (hsent : g.resend = false)
    (hdue : g.sentAt + 20000 ≤ s.now) :
    execReplayTimeout l s = .next (if (s.lane l).replaying g.gseq = true then s else s.setLane l (s.lane l).goBack) := by
  simp only [execReplayTimeout, h]
  cases hre : (s.lane l).replaying g.gseq with
  | true => rw [if_neg (by simp), if_pos rfl]
  | false => rw [if_pos ⟨hst, by simp [hsent], by simp, hdue⟩, if_neg (by simp)]

/-- R322: a lane with nothing to send that is asked to doze, and has idled long enough, announces it next. -/
theorem execDozeIdleTimeout_due (hst : s.laneSt l = 5) (hact : s.f (Reg.LANE_STATUS l) 9 8 = 0) (hreq : s.f (Reg.LANE_PWR l) 1 0 = 1) (hidle : s.txWanted l = false)
    (hdue : (s.lane l).idleSince + s.f (Reg.LANE_PWR l) 15 8 * 1000 ≤ s.now) : execDozeIdleTimeout l s = .next (s.setLane l { s.lane l with powerOwed := some 1 }) := by
  simp [execDozeIdleTimeout, hst, hact, hreq, hidle, hdue]

theorem execDozeIdleTimeout_none (hst : s.laneSt l ≠ 5) : execDozeIdleTimeout l s = .next s := by
  simp [execDozeIdleTimeout, hst]

/-- R322: the wake time ends and the transmitter is active. -/
theorem execLaneWakeDone_due (hon : s.laneOn l = true) {t0 : Nat} (hw : (s.lane l).wakeUntil = some t0) (hdue : t0 ≤ s.now) :
    execLaneWakeDone l s = .next ((s.setF (Reg.LANE_STATUS l) 9 8 0).setLane l { s.lane l with wakeUntil := none, idleSince := s.now }) := by
  simp [execLaneWakeDone, hw, hon, hdue]

/-- R323: the receiver is active again. -/
theorem execReceiverWakeLock_on (hon : s.laneOn l = true) : execReceiverWakeLock l s = .next (s.setF (Reg.LANE_STATUS l) 11 10 0) := by
  simp [execReceiverWakeLock, hon]

end

end Sys2Proof.Machine
end

section
/-!
PROOFS. Proofs/LanePairs.lean: the switch and the rejoining of a lane pair (R397 to R400), and the statement on the traffic of a lane.
-/

namespace Sys2Proof.Machine

open Sys2Proof

/-! ## What a snapshot leaves (R359, R373, R374) -/

section

variable {a : Nat}

/-- A loss is counted on the page of the streams. -/
theorem State.rd_countLoss (s : State) (ha : Reg.STREAM_LOST_BYTES < a) (ch cause records bytes back : Nat) : (s.countLoss ch cause records bytes back).rd a = s.rd a := by
  have hrec : a ≠ Reg.STREAM_LOST_RECORDS := Nat.ne_of_gt (Nat.lt_trans (by decide) ha)
  have hflags : a ≠ Reg.STREAM_FLAGS := Nat.ne_of_gt (Nat.lt_trans (by decide) ha)
  unfold State.countLoss
  extract_lets x u
  have hu : u.rd a = s.rd a := by
    unfold u State.addEnded
    split
    · split <;> rfl
    · rfl
  exact (State.rd_flag_ne _ hflags _).trans ((State.rd_add_ne _ (Nat.ne_of_gt ha) _).trans ((State.rd_add_ne _ hrec _).trans hu))

theorem State.rd_dropOldest (s : State) (ha : Reg.STREAM_LOST_BYTES < a) (ch need fuel : Nat) : (s.dropOldest ch need fuel).rd a = s.rd a := by
  induction fuel generalizing s with
  | zero => rfl
  | succ n ih =>
    unfold State.dropOldest
    dsimp only
    split
    · rfl
    · split
      · rfl
      · exact (ih _).trans (State.rd_countLoss _ ha ..)

theorem State.rd_placePkt (s : State) (ha : Reg.STREAM_LOST_BYTES < a) (ch : Nat) (k : StreamPkt) : (s.placePkt ch k).rd a = s.rd a := by
  unfold State.placePkt
  extract_lets u t v
  have ht : t.rd a = s.rd a := by
    unfold t
    split
    · exact s.rd_dropOldest ha ..
    · rfl
  split
  · rfl
  · split
    · exact (State.rd_countLoss _ ha ..).trans ht
    · exact ht

/-- R397: a snapshot enters rings; the registers that it touches are those of the streams. -/
theorem State.rd_snapshot (s : State) (ha : Reg.STREAM_LOST_BYTES < a) (p : Nat) : (s.snapshot p).rd a = s.rd a :=
  State.rd_each _ _ _ _ fun _ ch => State.rd_each _ _ _ _ fun u k => u.rd_placePkt ha ch k

end

theorem State.rd_sendPkt (s : State) (ch l : Nat) (k : StreamPkt) (a : Nat) : (s.sendPkt ch l k).rd a = s.rd a := by
  unfold State.sendPkt
  dsimp only
  split <;> rfl

/-- R399: a snapshot that goes to one lane leaves every register. -/
theorem State.rd_snapshotTo (s : State) (p l a : Nat) : (s.snapshotTo p l).rd a = s.rd a :=
  State.rd_each _ _ _ _ fun _ ch => State.rd_each _ _ _ _ fun v _ => State.rd_sendPkt (v.setSub ch _) ch l _ a

/-! ## The registers of a pair -/

section

variable {k : Nat} (h : k < 2)

include h

theorem Reg.pairStatus_ne_recDropped : Reg.PAIR_STATUS k ≠ Reg.REC_DROPPED := by simp only [Reg.PAIR_STATUS, Reg.REC_DROPPED]; omega

theorem Reg.pairStatus_ne_recFlags : Reg.PAIR_STATUS k ≠ Reg.REC_FLAGS := by simp only [Reg.PAIR_STATUS, Reg.REC_FLAGS]; omega

end

theorem Reg.pairStatus_ne_pairSwitches (k : Nat) : Reg.PAIR_STATUS k ≠ Reg.PAIR_SWITCHES k := by simp [Reg.PAIR_STATUS, Reg.PAIR_SWITCHES]

theorem Reg.pairStatus_ne_redFlags (k : Nat) : Reg.PAIR_STATUS k ≠ Reg.RED_FLAGS := by simp only [Reg.PAIR_STATUS, Reg.RED_FLAGS]; omega

theorem Reg.linkStatus_ne_pairStatus (k : Nat) : Reg.LINK_STATUS ≠ Reg.PAIR_STATUS k := by simp only [Reg.PAIR_STATUS, Reg.LINK_STATUS]; omega

theorem Reg.streams_lt_pairStatus (k : Nat) : Reg.STREAM_LOST_BYTES < Reg.PAIR_STATUS k := by simp only [Reg.PAIR_STATUS, Reg.STREAM_LOST_BYTES]; omega

theorem Reg.ports_le_pairStatus (k : Nat) : 0x00110000 ≤ Reg.PAIR_STATUS k := by simp only [Reg.PAIR_STATUS]; omega

/-! ## Switch-over (R400) -/

/-- R400: the classes named go to lane `dst` of pair k. -/
def State.moveClasses (s : State) (k classes dst : Nat) : State :=
  let s := if bitN classes 0 then (s.setF (Reg.PAIR_STATUS k) 0 0 dst).setBit (Reg.PAIR_STATUS k) 4 false else s
  if bitN classes 1 then s.setF (Reg.PAIR_STATUS k) 1 1 dst else s

/-- What a switch-over shows of its pair: its classes have moved. -/
theorem State.rd_switchOver (s : State) {k : Nat} (hk : k < 2) (classes src dst cause : Nat) :
    (s.switchOver k classes src dst cause).rd (Reg.PAIR_STATUS k) = (s.moveClasses k classes dst).rd (Reg.PAIR_STATUS k) := by
  have hpost : ∀ (u : State) code arg, (u.post code arg).rd (Reg.PAIR_STATUS k) = u.rd (Reg.PAIR_STATUS k) := fun u =>
    u.rd_post (Reg.pairStatus_ne_recDropped hk) (Reg.pairStatus_ne_recFlags hk)
  have hraise : ∀ (u : State) code ps, (u.raise code .all ps).rd (Reg.PAIR_STATUS k) = u.rd (Reg.PAIR_STATUS k) := fun u code ps =>
    (u.raise_events code ps).rd _ (noPortReg (.inr (Reg.ports_le_pairStatus k)))
  unfold State.switchOver
  extract_lets s₁ s₂ s₃ s₄ s₅
  have h₂ : s₂ = s.moveClasses k classes dst := rfl
  have h₃ : s₃.rd (Reg.PAIR_STATUS k) = s₂.rd (Reg.PAIR_STATUS k) :=
    (State.rd_flag_ne _ (Reg.pairStatus_ne_redFlags k) _).trans (State.rd_inc_ne _ (Reg.pairStatus_ne_pairSwitches k))
  have h₄ : s₄.rd (Reg.PAIR_STATUS k) = s₃.rd (Reg.PAIR_STATUS k) := hraise ..
  have h₅ : s₅.rd (Reg.PAIR_STATUS k) = s₄.rd (Reg.PAIR_STATUS k) := by
    unfold s₅ State.when
    split
    · exact hpost ..
    · rfl
  have h₀ : s₅.rd (Reg.PAIR_STATUS k) = (s.moveClasses k classes dst).rd (Reg.PAIR_STATUS k) := by rw [h₅, h₄, h₃, h₂]
  split
  · exact (State.rd_snapshot _ (Reg.streams_lt_pairStatus k) _).trans h₀
  · exact h₀

/-- R400: what the pair shows of classes that have moved: their lane; which lanes are in service stands. -/
theorem State.moveClasses_effects (s : State) (k : Nat) {classes dst i : Nat} (hd : dst < 2) (hi : i < 2) :
    (bitN classes 0 = true → (s.moveClasses k classes dst).f (Reg.PAIR_STATUS k) 0 0 = dst) ∧
    (bitN classes 1 = true → (s.moveClasses k classes dst).f (Reg.PAIR_STATUS k) 1 1 = dst) ∧
    (s.moveClasses k classes dst).bit (Reg.PAIR_STATUS k) (2 + i) = s.bit (Reg.PAIR_STATUS k) (2 + i) := by
  unfold State.moveClasses
  extract_lets t
  have hlow : bitN classes 0 = true → t.f (Reg.PAIR_STATUS k) 0 0 = dst := by
    intro h
    unfold t
    rw [if_pos h, State.f_setBit_off _ _ (by decide) (by decide), State.f_setF_self _ _ (by decide) (by decide)]
    exact Nat.mod_eq_of_lt hd
  have hon : t.bit (Reg.PAIR_STATUS k) (2 + i) = s.bit (Reg.PAIR_STATUS k) (2 + i) := by
    unfold t
    split
    · rw [State.bit_setBit_off _ _ (by decide) (by omega), State.bit_setF_off _ _ (by decide) (by decide) (by omega)]
    · rfl
  clear_value t
  split
  · next h =>
    rw [State.f_setF_off _ _ (by decide) (by decide) (by decide), State.f_setF_self _ _ (by decide) (by decide), State.bit_setF_off _ _ (by decide) (by decide) (by omega)]
    exact ⟨hlow, fun _ => Nat.mod_eq_of_lt hd, hon⟩
  · next h => exact ⟨hlow, fun h1 => absurd h1 h, hon⟩

/-! ## A lane fails for its pair (R397) -/

/-- R397: lane `side` of pair k goes out of service, and a return of the bulk class is cancelled. -/
def State.markOut (s : State) (k side : Nat) : State :=
  (s.setBit (Reg.PAIR_STATUS k) (2 + side) false).setPair k { s.pair k with bulkReturn := false, out := side :: (s.pair k).out.filter (· != side) }

/-- R397: the same, and no snapshot is current where the lane does not carry the safety class. -/
def State.leavesService (s : State) (k side : Nat) : State :=
  if (s.markOut k side).f (Reg.PAIR_STATUS k) 0 0 ≠ side then (s.markOut k side).setBit (Reg.PAIR_STATUS k) 4 false else s.markOut k side

theorem State.rd_markOut (s : State) (k side a : Nat) : (s.markOut k side).rd a = (s.setBit (Reg.PAIR_STATUS k) (2 + side) false).rd a := rfl

/-- What the pair shows once a lane is out of service: the lane; the classes stand where they were. -/
theorem State.leavesService_effects (s : State) (k : Nat) {side : Nat} (h : side < 2) :
    (s.leavesService k side).f (Reg.PAIR_STATUS k) 0 0 = s.f (Reg.PAIR_STATUS k) 0 0 ∧ (s.leavesService k side).f (Reg.PAIR_STATUS k) 1 1 = s.f (Reg.PAIR_STATUS k) 1 1 ∧
    (s.leavesService k side).bit (Reg.PAIR_STATUS k) (2 + side) = false ∧ ∀ l, (s.leavesService k side).laneUp l = s.laneUp l := by
  have h32 : 2 + side < 32 := by omega
  have hrd := s.rd_markOut k side
  have hlow : (s.markOut k side).f (Reg.PAIR_STATUS k) 0 0 = s.f (Reg.PAIR_STATUS k) 0 0 := (State.f_congr (hrd _) 0 0).trans (State.f_setBit_off _ _ h32 (by omega) _)
  have hhigh : (s.markOut k side).f (Reg.PAIR_STATUS k) 1 1 = s.f (Reg.PAIR_STATUS k) 1 1 := (State.f_congr (hrd _) 1 1).trans (State.f_setBit_off _ _ h32 (by omega) _)
  have hout : (s.markOut k side).bit (Reg.PAIR_STATUS k) (2 + side) = false := (State.bit_congr (hrd _) _).trans (State.bit_setBit_self _ _ h32 _)
  have hup (l : Nat) : (s.markOut k side).laneUp l = s.laneUp l := (State.bit_congr (hrd _) l).trans (State.bit_setBit_ne _ (Reg.linkStatus_ne_pairStatus k) ..)
  unfold State.leavesService
  split
  · rw [State.f_setBit_off _ _ (by decide) (by decide), State.f_setBit_off _ _ (by decide) (by decide), State.bit_setBit_off _ _ (by decide) (by omega)]
    exact ⟨hlow, hhigh, hout, fun l => (State.bit_setBit_ne _ (Reg.linkStatus_ne_pairStatus k) ..).trans (hup l)⟩
  · exact ⟨hlow, hhigh, hout, hup⟩

/-- The classes that lane `side` of pair k carries, as bits. -/
def State.carried (s : State) (k side : Nat) : Nat := b2n (s.f (Reg.PAIR_STATUS k) 0 0 == side) + 2 * b2n (s.f (Reg.PAIR_STATUS k) 1 1 == side)

/-- What a lane carries, by class. -/
theorem State.carried_bits (s : State) (k side : Nat) : bitN (s.carried k side) 0 = (s.f (Reg.PAIR_STATUS k) 0 0 == side) ∧
    bitN (s.carried k side) 1 = (s.f (Reg.PAIR_STATUS k) 1 1 == side) := by
  have hbits : ∀ a b : Bool, bitN (b2n a + 2 * b2n b) 0 = a ∧ bitN (b2n a + 2 * b2n b) 1 = b := by decide
  exact hbits ..

/-- R397: what lane `side` of pair k carries goes to the other lane, if that is up. -/
def State.handsOver (s : State) (k side cause : Nat) : State :=
  if s.carried k side ≠ 0 ∧ s.laneUp (2 * k + (1 - side)) then s.switchOver k (s.carried k side) side (1 - side) cause else s

theorem State.pairFail_eq {s : State} {k : Nat} (hf : s.pairFormed k = true) (side cause : Nat) :
    s.pairFail k side cause = ((s.leavesService k side).handsOver k side cause).syncSingle k := if_neg (by simp [hf])

/-- R397: the classes that a lane carried are on the other lane if that is up; which lanes are in service stands. -/
theorem State.handsOver_effects (s : State) {k side : Nat} (hk : k < 2) (hside : side < 2) (cause : Nat) :
    (s.handsOver k side cause).bit (Reg.PAIR_STATUS k) (2 + side) = s.bit (Reg.PAIR_STATUS k) (2 + side) ∧
    (s.laneUp (2 * k + (1 - side)) = true → s.f (Reg.PAIR_STATUS k) 0 0 = side → (s.handsOver k side cause).f (Reg.PAIR_STATUS k) 0 0 = 1 - side) ∧
    (s.laneUp (2 * k + (1 - side)) = true → s.f (Reg.PAIR_STATUS k) 1 1 = side → (s.handsOver k side cause).f (Reg.PAIR_STATUS k) 1 1 = 1 - side) := by
  obtain ⟨hbit0, hbit1⟩ := s.carried_bits k side
  obtain ⟨hlow, hhigh, hon⟩ := s.moveClasses_effects k (classes := s.carried k side) (dst := 1 - side) (by omega) hside
  have hrd := s.rd_switchOver hk (s.carried k side) side (1 - side) cause
  unfold State.handsOver
  split
  · exact ⟨(State.bit_congr hrd _).trans hon, fun _ h => (State.f_congr hrd 0 0).trans (hlow (hbit0.trans (beq_iff_eq.mpr h))),
      fun _ h => (State.f_congr hrd 1 1).trans (hhigh (hbit1.trans (beq_iff_eq.mpr h)))⟩
  · next hnone =>
    have hidle (hup : s.laneUp (2 * k + (1 - side)) = true) : s.carried k side = 0 := by
      by_contra hc
      exact hnone ⟨hc, hup⟩
    refine ⟨rfl, fun hup h => ?_, fun hup h => ?_⟩
    · rw [hidle hup, h, beq_self_eq_true] at hbit0
      exact absurd hbit0 (by decide)
    · rw [hidle hup, h, beq_self_eq_true] at hbit1
      exact absurd hbit1 (by decide)

/-- R397: a lane that fails for a formed pair is out of service, and the classes that it carried are on the other lane if that is up. -/
theorem State.pairFail_effects {s : State} {k side : Nat} (hk : k < 2) (hside : side < 2) (hf : s.pairFormed k = true) (cause : Nat) :
    ∃ u : State, s.pairFail k side cause = u.syncSingle k ∧ u.bit (Reg.PAIR_STATUS k) (2 + side) = false ∧
      (s.laneUp (2 * k + (1 - side)) = true → s.f (Reg.PAIR_STATUS k) 0 0 = side → u.f (Reg.PAIR_STATUS k) 0 0 = 1 - side) ∧
      (s.laneUp (2 * k + (1 - side)) = true → s.f (Reg.PAIR_STATUS k) 1 1 = side → u.f (Reg.PAIR_STATUS k) 1 1 = 1 - side) := by
  obtain ⟨hlow, hhigh, hout, hup⟩ := s.leavesService_effects k hside
  obtain ⟨hbit, hsafe, hbulk⟩ := (s.leavesService k side).handsOver_effects hk hside cause
  rw [hlow, hup] at hsafe
  rw [hhigh, hup] at hbulk
  exact ⟨_, State.pairFail_eq hf side cause, hbit.trans hout, hsafe, hbulk⟩

section

variable {s : State} {l : Fin 4}

/-- R397: a lane that has been down for long enough fails for its pair. -/
theorem execPairSwitchDelay_due {t0 : Nat} (hleft : (s.lane l).leftUpAt = some t0) (hf : s.pairFormed (l / 2) = true) (hdown : s.laneUp l = false)
    (hin : (s.pair (l / 2)).out.contains (l.val % 2) = false) (hdue : t0 + s.f (Reg.PAIR_CTRL (l / 2)) 15 8 * 100000 ≤ s.now) :
    execPairSwitchDelay l s = .next (s.pairFail (l / 2) (l % 2) 1) := by
  simp only [execPairSwitchDelay, hleft, hf, hdown, hin, hdue]
  rfl

/-! ## A lane rejoins its pair (R399) -/

/-- R399: lane `side` of pair k is in service again; for the safety class it gets a snapshot, which is then current. -/
def State.rejoins (s : State) (k side l : Nat) : State :=
  let s := s.setBit (Reg.PAIR_STATUS k) (2 + side) true
  if s.f (Reg.PAIR_STATUS k) 0 0 ≠ side then (s.snapshotTo (2 * k) l).setBit (Reg.PAIR_STATUS k) 4 true else s

theorem State.rejoins_shown (s : State) (k l : Nat) {side : Nat} (h : side < 2) : (s.rejoins k side l).bit (Reg.PAIR_STATUS k) (2 + side) = true := by
  have hon : (s.setBit (Reg.PAIR_STATUS k) (2 + side) true).bit (Reg.PAIR_STATUS k) (2 + side) = true := State.bit_setBit_self _ _ (by omega) _
  unfold State.rejoins
  extract_lets t
  split
  · rw [State.bit_setBit_off _ _ (by decide) (by omega)]
    exact (State.bit_congr (State.rd_snapshotTo ..) _).trans hon
  · exact hon

theorem execPairRejoin_due {t0 : Nat} (hup : (if l.val % 2 = 0 then (s.pair (l / 2)).lowerUpAt else (s.pair (l / 2)).upperUpAt) = some t0)
    (hf : s.pairFormed (l / 2) = true) (hlane : s.laneUp l = true) (hout : s.bit (Reg.PAIR_STATUS (l / 2)) (2 + l % 2) = false) (hdue : t0 + 100000000 ≤ s.now) :
    execPairRejoin l s = .next ((s.rejoins (l / 2) (l % 2) l).syncSingle (l / 2)) := by
  unfold execPairRejoin
  dsimp only
  rw [hup]
  exact congrArg _ (if_pos ⟨hf, hlane, by simp [hout], hdue⟩)

end

/-! ## The statement -/

/-- Settles O57, row by row: each condition on the lane or on its pair picks one branch of its row, and what the row writes beside leaves what the statement names. -/
theorem laneTrafficRuns : Obligations.LaneTrafficRuns := by
  intro s l
  refine ⟨rfl, fun us => rfl, fun hon hst hact hr hd => ?trains, fun g hon hst hact hr hd hack hnak hg hlimit => ?replays, fun hon hact hr hd hreq => ?asks,
    fun us hon hst => ?received, fun h => execReplayTimeout_none h, fun g gs h hst hsent hdue => execReplayTimeout_due h hst hsent hdue,
    fun hst hact hreq hidle hdue => execDozeIdleTimeout_due hst hact hreq hidle hdue, fun hst => execDozeIdleTimeout_none hst, fun t0 hon hw hdue => ?woken,
    fun hon => ?locked, fun t0 hleft hf hdown hin hdue => execPairSwitchDelay_due hleft hf hdown hin hdue, fun t0 hleft hf hdown hin hdue => ?switched,
    fun t0 hup hf hlane hout hdue => ⟨_, execPairRejoin_due hup hf hlane hout hdue, s.rejoins_shown _ l (by omega)⟩⟩
  case trains =>
    have ht := State.groupTx_trains hon hst hact
    by_cases h4 : 4 ≤ (s.lane l).trainRx
    · rw [if_pos h4] at ht
      refine ⟨_, execLaneGroupTx_sends hr hd ht (by simp), by simp, ?_⟩
      rw [State.lane_setLane_sendGroup, if_pos h4, LaneSt.sends]
    · rw [if_neg h4] at ht
      refine ⟨_, execLaneGroupTx_sends hr hd ht (by simp), by simp, ?_⟩
      rw [State.lane_sendGroup, if_neg h4, LaneSt.sends]
  case replays =>
    have ht := (State.groupTx_replays hon hst hact hack hnak hg).trans (State.replayNext_below hlimit)
    obtain ⟨hcount, hflag, hrest⟩ := ((s.setLane l ((s.lane l).resends g s.now)).sendGroup l g.gseq g.flits).inc_flag_effects (Reg.laneReplay_ne_linkFlags l) (i := 2)
      (by decide)
    refine ⟨_, execLaneGroupTx_sends hr hd ht (by simp), hcount, hflag, ?_, hrest⟩
    rw [State.lane_flag, State.lane_inc, State.lane_setLane_sendGroup, LaneSt.sends]
    rfl
  case asks =>
    refine ⟨fun n hst hsw hn => ?_, fun hst hnext => ?_⟩
    · refine ⟨_, execLaneGroupTx_sends hr hd (State.groupTx_counts hon hst hact hreq hsw hn) (by simp), ?_⟩
      rw [State.lane_setLane_sendGroup, LaneSt.rateCount_sends, LaneSt.rateIdle_sends, LaneSt.txLine_sends]
      exact ⟨rfl, rfl, rfl⟩
    · refine ⟨_, execLaneGroupTx_sends hr hd (State.groupTx_asks hon hst hact hreq hnext) (by simp), ?_⟩
      rw [State.lane_setLane_sendRequest, State.trainFlit_eqNext, LaneSt.eqNext_sends, LaneSt.txLine_sends]
      exact ⟨rfl, rfl⟩
  case received =>
    intro g u
    have hexec {t : State} (h : (s.setScrRx l (s.laneRead l us).2).groupRx l g = t) : exec (.laneGroupRx l us) s = .next t := congrArg _ h
    have hk := s.setScrRx_heard l (s.laneRead l us).2
    have hu : (s.setScrRx l (s.laneRead l us).2).countComma l g.comma = u := rfl
    clear_value u g
    generalize s.setScrRx l (s.laneRead l us).2 = t at *
    have hon' := hk.laneOn.trans hon
    have hst' : t.laneSt l ≠ 0 := hk.laneSt ▸ hst
    refine ⟨fun hopen => hexec ?_, fun hlocked hst hframed hcrc hseq hres hdata hdist => hexec ?_, fun hlocked hst hframed hbad => ?_,
      fun hlocked hframed hcrc hseq hidle => hexec ?_⟩
    · exact (State.groupRx_unlocked hon' hst' (hk.locked.trans hopen)).trans hu
    · rw [State.groupRx_next hon' (hk.laneSt.trans hst) (hk.locked.trans hlocked) hframed hcrc hseq hres hdata (hk.rxNext ▸ hdist) hu, hk.rxNext, hk.accepted, hk.now]
    · have hfails := State.groupRx_fails hon' hst' (hk.laneSt ▸ hst) (hk.locked.trans hlocked) hframed hbad
      rw [hu] at hfails
      have hrd (a : Nat) : u.rd a = s.rd a := ((hu ▸ t.countComma_heard l g.comma).rd a).trans (hk.rd a)
      obtain ⟨hcount, hflag, hrest⟩ := u.inc_flag_effects (Reg.laneCrcErr_ne_linkFlags l) (i := 0) (by decide)
      rw [show u.r (Reg.LANE_CRC_ERR l) = s.r (Reg.LANE_CRC_ERR l) from congrArg BitVec.toNat (hrd _)] at hcount
      exact ⟨_, hexec hfails, hcount, hflag, rfl, fun a hne hflags => (hrest a hne hflags).trans (hrd a)⟩
    · exact (State.groupRx_idle hon' hst' (hk.locked.trans hlocked) hframed hcrc hseq hidle).trans hu
  case woken =>
    refine ⟨_, execLaneWakeDone_due hon hw hdue, ?_⟩
    rw [State.f_setLane, State.lane_setLane_self, State.f_setF_self _ _ (by decide) (by decide)]
    exact ⟨rfl, rfl, fun a ha => (State.rd_setLane ..).trans (s.rd_setF_ne ha ..)⟩
  case locked =>
    exact ⟨_, execReceiverWakeLock_on hon, State.f_setF_self _ _ (by decide) (by decide) _, fun a ha => State.rd_setF_ne _ ha .., rfl⟩
  case switched =>
    obtain ⟨u, hu, heffects⟩ := State.pairFail_effects (k := l / 2) (side := l % 2) (by omega) (by omega) hf 1
    exact ⟨u, (execPairSwitchDelay_due hleft hf hdown hin hdue).trans (congrArg _ hu), heffects⟩

end Sys2Proof.Machine
end

section
/-!
PROOFS. Proofs/Invariant.lean: every row keeps what `Keeps` says, and every step keeps the invariant of the block (O5).
-/

namespace Sys2Proof.Machine

open Sys2Proof

/-- R481: the level of `RESET_N` may reset the block, and changes the supplies and the test port. -/
theorem execResetNInput_keeps {b : Kept} {s0 s : State} (high : Bool) (ns : Nat) (hh : b.halt = false) (hb : b.balls = false) (h : Keeps b s0 s) :
    ∃ u, execResetNInput high ns s = .next u ∧ Keeps b s0 u := by
  have hrises : Keeps b s0 { s.setPower { s.power with resetN := true, resetAt := s.now } with tap := s.tap.released } :=
    State.setTap_keeps _ hb (State.setPower_keeps _ hb h)
  have hlow : Keeps b s0 (if s.dev = .reset then s else s.enterReset 2) := ite_keeps h (State.enterReset_keeps 2 hh h)
  exact ⟨_, rfl, ite_keeps (ite_keeps h hrises) (ite_keeps h (State.setPower_keeps _ hb hlow))⟩

/-- R390: a planner whose self-test ends stays ready, or fails. -/
theorem execStandbySelftest_keeps {b : Kept} {s0 s : State} (x : Fin 2) (pass : Bool) (h : Keeps b s0 s) :
    ∃ u, execStandbySelftest x pass s = .next u ∧ Keeps b s0 u := by
  refine ⟨_, rfl, ite_keeps h ?_⟩
  extract_lets a r t
  have ht : Keeps b s0 t := mk_keeps h rfl rfl rfl rfl rfl rfl rfl rfl rfl rfl rfl rfl
  exact ite_keeps (State.setHealth_keeps _ _ (State.addF_keeps _ _ _ _ ht))
    (State.settle_keeps (State.setPlanner_keeps _ _ (State.setHealth_keeps _ _ (State.addF_keeps _ _ _ _ ht))))

/-- `CAPTURE_ITEM` has its own meaning. -/
theorem exec_captureItem (fault : Fin 5) (s : State) : exec (.captureItem fault) s = execCaptureItem fault s := rfl

/-- Every row answers a next state that keeps what `Keeps` says, where nothing is asked of FAULT_HALT and of the clock, the supplies and the test port. -/
theorem exec_keeps {b : Kept} {s0 s : State} (hh : b.halt = false) (hb : b.balls = false) (h : Keeps b s0 s) (i : Instr) :
    ∃ u, exec i s = .next u ∧ Keeps b s0 u := by
  cases i with
  | powerRailChange rail uv => exact execPowerRailChange_keeps rail uv hb h
  | brownOut => exact execBrownOut_keeps hh hb h
  | resetNInput high ns => exact execResetNInput_keeps high ns hh hb h
  | resetRelease flSel => exact execResetRelease_keeps flSel hb h
  | bootDone r => exact execBootDone_keeps r hh h
  | svnFuseStep => exact execSvnFuseStep_keeps h
  | nop c => exact execNop_keeps c h
  | identify c => exact execIdentify_keeps c h
  | ownerClaim c => exact execOwnerClaim_keeps c h
  | ownerRelease c => exact execOwnerRelease_keeps c h
  | arm c => exact execArm_keeps c h
  | disarm c => exact execDisarm_keeps c h
  | startSensing c => exact execStartSensing_keeps c h
  | stopSensing c => exact execStopSensing_keeps c h
  | forceSafe c => exact execForceSafe_keeps c h
  | recover c => exact execRecover_keeps c h
  | resetDevice c => exact execResetDevice_keeps c h
  | resetDeviceExpiry => exact execResetDeviceExpiry_keeps hh h
  | syncTime c => exact execSyncTime_keeps c h
  | eventConfig c => exact execEventConfig_keeps c h
  | paramRead c => exact execParamRead_keeps c h
  | paramWrite c => exact execParamWrite_keeps c h
  | paramModify c => exact execParamModify_keeps c h
  | sctWrite c => exact execSctWrite_keeps c h
  | sctCommit c => exact execSctCommit_keeps c h
  | sctRead c => exact execSctRead_keeps c h
  | trackWrite c => exact execTrackWrite_keeps c h
  | trackRead c => exact execTrackRead_keeps c h
  | regionRequest c => exact execRegionRequest_keeps c h
  | regionCancel c => exact execRegionCancel_keeps c h
  | regionPriority c => exact execRegionPriority_keeps c h
  | zoneWrite c => exact execZoneWrite_keeps c h
  | zoneCommit c => exact execZoneCommit_keeps c h
  | zoneRead c => exact execZoneRead_keeps c h
  | streamSubscribe c => exact execStreamSubscribe_keeps c h
  | streamUnsubscribe c => exact execStreamUnsubscribe_keeps c h
  | streamStatus c => exact execStreamStatus_keeps c h
  | dmaRestart c => exact execDmaRestart_keeps c h
  | captureArm c => exact execCaptureArm_keeps c h
  | captureStop c => exact execCaptureStop_keeps c h
  | captureTrigger c => exact execCaptureTrigger_keeps c h
  | captureRead c => exact execCaptureRead_keeps c h
  | captureFree c => exact execCaptureFree_keeps c h
  | calibrateFull c => exact execCalibrateFull_keeps c h
  | calibrateComb c => exact execCalibrateComb_keeps c h
  | calRead c => exact execCalRead_keeps c h
  | calWrite c => exact execCalWrite_keeps c h
  | calSave c => exact execCalSave_keeps c h
  | templateWrite c => exact execTemplateWrite_keeps c h
  | templateCommit c => exact execTemplateCommit_keeps c h
  | templateRead c => exact execTemplateRead_keeps c h
  | attest c => exact execAttest_keeps c h
  | certRead c => exact execCertRead_keeps c h
  | updateBegin c => exact execUpdateBegin_keeps c h
  | updateData c => exact execUpdateData_keeps c h
  | updateCommit c => exact execUpdateCommit_keeps c h
  | updateCheckDone => exact execUpdateCheckDone_keeps h
  | ownerKeyEnroll c => exact execOwnerKeyEnroll_keeps c h
  | ownerKeyFuseDone => exact execOwnerKeyFuseDone_keeps h
  | healthRead c => exact execHealthRead_keeps c h
  | recorderRead c => exact execRecorderRead_keeps c h
  | recorderFlush c => exact execRecorderFlush_keeps c h
  | commandArrival opcode c => exact execCommandArrival_keeps opcode c h
  | lpWritePacket bytes => exact execLpWritePacket_keeps bytes h
  | lpReadPacket n => exact execLpReadPacket_keeps n h
  | lpReadStatus => exact execLpReadStatus_keeps h
  | lpCsRelease => exact execLpCsRelease_keeps h
  | arbSlotCommit w => exact execArbSlotCommit_keeps w h
  | arbSlotNext w => exact execArbSlotNext_keeps w h
  | patCommit w => exact execPatCommit_keeps w h
  | patternSwap => exact execPatternSwap_keeps h
  | wagCommit w => exact execWagCommit_keeps w h
  | axModeWrite a w => exact execAxModeWrite_keeps a w h
  | axManValueWrite a w => exact execAxManValueWrite_keeps a w h
  | biasRetry z w => exact execBiasRetry_keeps z w h
  | rxSelftestRun w => exact execRxSelftestRun_keeps w h
  | tdcStatRun c w => exact execTdcStatRun_keeps c w h
  | feClear w => exact execFeClear_keeps w h
  | ditherSaltWrite w => exact execDitherSaltWrite_keeps w h
  | fcPolyCommit w => exact execFcPolyCommit_keeps w h
  | framePeriodWrite w => exact execFramePeriodWrite_keeps w h
  | laneRetrain l w => exact execLaneRetrain_keeps l w h
  | laneTxReq l w => exact execLaneTxReq_keeps l w h
  | dmaAppend n addr d linked => exact execDmaAppend_keeps n addr d linked h
  | forceFailover w => exact execForceFailover_keeps w h
  | bulkReturn k w => exact execBulkReturn_keeps k w h
  | maConfigWrite m which w => exact execMaConfigWrite_keeps m which w h
  | rtdCtrlWrite w => exact execRtdCtrlWrite_keeps w h
  | rtdCfgWrite r w => exact execRtdCfgWrite_keeps r w h
  | frameSyncEdge rising => exact execFrameSyncEdge_keeps rising h
  | internalFrameEvent => exact execInternalFrameEvent_keeps h
  | swarmFrameTime => exact execSwarmFrameTime_keeps h
  | frameBoundary => exact execFrameBoundary_keeps h
  | flywheelBoundary => exact execFlywheelBoundary_keeps h
  | frameCutEdgeReached => exact execFrameCutEdgeReached_keeps h
  | arbBackoffExpiry ix => exact execArbBackoffExpiry_keeps ix h
  | columnPlan => exact execColumnPlan_keeps h
  | velocitySegmentPost fault => exact execVelocitySegmentPost_keeps fault h
  | columnStart => exact execColumnStart_keeps h
  | columnClose => exact execColumnClose_keeps h
  | plannerMicrosecond => exact execPlannerMicrosecond_keeps h
  | verdictArrival c => exact execVerdictArrival_keeps c h
  | dripCut bad other => exact execDripCut_keeps bad other h
  | shotLaunch => exact execShotLaunch_keeps h
  | sarShotTrigger => exact execSarShotTrigger_keeps h
  | sarControlRequest => exact execSarControlRequest_keeps h
  | sarConversionDone mf0 mf1 mf2 mf3 => exact execSarConversionDone_keeps mf0 mf1 mf2 mf3 h
  | startRefEdge t internal readings => exact execStartRefEdge_keeps t internal readings h
  | startTimeout => exact execStartTimeout_keeps h
  | comparatorEdge n count code level overNs => exact execComparatorEdge_keeps n count code level overNs h
  | receiveWindowClose n peak => exact execReceiveWindowClose_keeps n peak h
  | rangeChange n => exact execRangeChange_keeps n h
  | comparatorStuck n => exact execComparatorStuck_keeps n h
  | eventWordBinned c => exact execEventWordBinned_keeps c h
  | closeWord c => exact execCloseWord_keeps c h
  | batchComplete c g => exact execBatchComplete_keeps c g h
  | exportScanDone c => exact execExportScanDone_keeps c h
  | hiveDispatch k => exact execHiveDispatch_keeps k h
  | pointDetectionDone e => exact execPointDetectionDone_keeps e h
  | engineCheck k pass => exact execEngineCheck_keeps k pass h
  | chainWindowDone k memErr => exact execChainWindowDone_keeps k memErr h
  | clusterClose => exact execClusterClose_keeps h
  | zoneResult z => exact execZoneResult_keeps z h
  | streamPacketFormed ch => exact execStreamPacketFormed_keeps ch h
  | dmaDescriptorDone n => exact execDmaDescriptorDone_keeps n h
  | dmaBurstError n answer => exact execDmaBurstError_keeps n answer h
  | dripRetFrame f => exact execDripRetFrame_keeps f h
  | dripRetTimeout => exact execDripRetTimeout_keeps h
  | emitFaultInput low ns => exact execEmitFaultInput_keeps low ns h
  | lsdSafeEntry => exact execLsdSafeEntry_keeps h
  | acctSubinterval disagree => exact execAcctSubinterval_keeps disagree h
  | fadeStep => exact execFadeStep_keeps h
  | fadeEnd => exact execFadeEnd_keeps h
  | wlBlockMean t => exact execWlBlockMean_keeps t h
  | wlLossTimeout t => exact execWlLossTimeout_keeps t h
  | waggleTick xs ys late => exact execWaggleTick_keeps xs ys late h
  | loopComputeDone l => exact execLoopComputeDone_keeps l h
  | steerSafeEntry => exact execSteerSafeEntry_keeps h
  | heaterHoldExpiry => exact execHeaterHoldExpiry_keeps h
  | scanStartReached => exact execScanStartReached_keeps h
  | armSettled => exact execArmSettled_keeps h
  | armSettleTimeout => exact execArmSettleTimeout_keeps h
  | parkSettled a => exact execParkSettled_keeps a h
  | parkTimeout a => exact execParkTimeout_keeps a h
  | releaseDone a => exact execReleaseDone_keeps a h
  | monitorTick fast refBad rtdBad => exact execMonitorTick_keeps fast refBad rtdBad h
  | biasConversionDone c code => exact execBiasConversionDone_keeps c code h
  | rxSelftestDone results => exact execRxSelftestDone_keeps results h
  | blankInput level => exact execBlankInput_keeps level h
  | blankMaxTimeout => exact execBlankMaxTimeout_keeps h
  | clockWindow ref xtal badCombs badPlanners => exact execClockWindow_keeps ref xtal badCombs badPlanners h
  | refclkPresent => exact execRefclkPresent_keeps h
  | pllLocked => exact execPllLocked_keeps h
  | timingLockHold => exact execTimingLockHold_keeps h
  | xoMeasure offset => exact execXoMeasure_keeps offset h
  | xoCorrection => exact execXoCorrection_keeps h
  | statRunDone c => exact execStatRunDone_keeps c h
  | statRunTimeout c => exact execStatRunTimeout_keeps c h
  | feStrongEvent => exact execFeStrongEvent_keeps h
  | feContextExpiry ix => exact execFeContextExpiry_keeps ix h
  | swarmSlot => exact execSwarmSlot_keeps h
  | swarmMessageRx m => exact execSwarmMessageRx_keeps m h
  | swarmLossTimeout => exact execSwarmLossTimeout_keeps h
  | captureItem fault => rw [exec_captureItem]; exact execCaptureItem_keeps fault h
  | captureTimeItem => exact execCaptureTimeItem_keeps h
  | capturePreFull => exact execCapturePreFull_keeps h
  | capturePostFull => exact execCapturePostFull_keeps h
  | captureClosed => exact execCaptureClosed_keeps h
  | maWord m v => exact execMaWord_keeps m v h
  | housekeepingWord v refOff => exact execHousekeepingWord_keeps v refOff h
  | rtdPhaseDone v ix => exact execRtdPhaseDone_keeps v ix h
  | thermalTrip ix => exact execThermalTrip_keeps ix h
  | laneGroupTx l => exact execLaneGroupTx_keeps l h
  | laneGroupRx l units => exact execLaneGroupRx_keeps l units h
  | replayTimeout l => exact execReplayTimeout_keeps l h
  | laneSignal l => exact execLaneSignal_keeps l h
  | laneCommaLock l => exact execLaneCommaLock_keeps l h
  | laneCommaLoss l => exact execLaneCommaLoss_keeps l h
  | laneTrainDone l => exact execLaneTrainDone_keeps l h
  | laneRateSwitch l => exact execLaneRateSwitch_keeps l h
  | laneEqDone l eyes ctle preset peerOk => exact execLaneEqDone_keeps l eyes ctle preset peerOk h
  | laneUp l => exact execLaneUp_keeps l h
  | retrainTimeout l => exact execRetrainTimeout_keeps l h
  | eyeUpdate l eye => exact execEyeUpdate_keeps l eye h
  | laneLossTimeout l => exact execLaneLossTimeout_keeps l h
  | dozeIdleTimeout l => exact execDozeIdleTimeout_keeps l h
  | laneWakeDone l => exact execLaneWakeDone_keeps l h
  | pairSwitchDelay l => exact execPairSwitchDelay_keeps l h
  | pairRejoin l => exact execPairRejoin_keeps l h
  | standbySelftest x pass => exact execStandbySelftest_keeps x pass h
  | plannerRetest x pass => exact execPlannerRetest_keeps x pass h
  | checkpointRestored bad0 bad1 => exact execCheckpointRestored_keeps bad0 bad1 h
  | failoverTimeout => exact execFailoverTimeout_keeps h
  | claimTieTimeout => exact execClaimTieTimeout_keeps h
  | watchdogMiss => exact execWatchdogMiss_keeps h
  | lockstepMismatch => exact execLockstepMismatch_keeps h
  | ssnReadback high => exact execSsnReadback_keeps high h
  | memoryError site uncorrectable => exact execMemoryError_keeps site uncorrectable h
  | combCalStart => exact execCombCalStart_keeps h
  | combCalDone k => exact execCombCalDone_keeps k h
  | fullCalMeasureDone k => exact execFullCalMeasureDone_keeps k h
  | calAutoSave => exact execCalAutoSave_keeps h
  | calSaveDone good0 good1 => exact execCalSaveDone_keeps good0 good1 h
  | recorderPost code arg => exact execRecorderPost_keeps code arg h
  | recorderWrite => exact execRecorderWrite_keeps h
  | recorderFlushDone => exact execRecorderFlushDone_keeps h
  | recorderFlushBudget pages => exact execRecorderFlushBudget_keeps pages h
  | recorderEraseDone => exact execRecorderEraseDone_keeps h
  | jtagBypass trst => exact execJtagBypass_keeps trst hb h
  | jtagIdcode trst => exact execJtagIdcode_keeps trst hb h
  | jtagSamplePreload trst cells => exact execJtagSamplePreload_keeps trst cells hb h
  | jtagExtest trst => exact execJtagExtest_keeps trst hb h
  | jtagExtestPulse trst => exact execJtagExtestPulse_keeps trst hb h
  | jtagExtestTrain trst => exact execJtagExtestTrain_keeps trst hb h
  | jtagHighz trst => exact execJtagHighz_keeps trst hb h
  | jtagClamp trst => exact execJtagClamp_keeps trst hb h
  | receiverWakeLock l => exact execReceiverWakeLock_keeps l h
  | timeHighChange => exact execTimeHighChange_keeps h
  | timeSlewAbsorbed => exact execTimeSlewAbsorbed_keeps h

/-- The invariant goes over to a state in which what it speaks of was kept. -/
theorem State.Inv.of_keeps {b : Kept} {s t : State} (h : s.Inv) (hb : b.enroll = true) (hk : Keeps b s t) : t.Inv where
  regs := hk.regs h.regs
  cmds := hk.cmds h.cmds
  queue := hk.queue h.queue
  ports := hk.ports h.ports
  enroll := hk.enroll hb h.enroll

/-- The invariant says nothing of the commands that are still to come. -/
theorem State.Inv.withPending {s : State} (h : s.Inv) (l : List Instr) : State.Inv { s with pending := l } := ⟨h.regs, h.cmds, h.queue, h.ports, h.enroll⟩

/-- A nanosecond that passes leaves what the invariant speaks of. -/
theorem State.Inv.idle {s : State} (h : s.Inv) : s.idle.Inv := ⟨h.regs, h.cmds, h.queue, h.ports, h.enroll⟩

/-- Settles O5: on an empty queue a nanosecond passes; else the row at the front keeps the invariant of the state without it. -/
theorem stepKeepsInv : Obligations.StepKeepsInv := by
  intro s t hs hstep
  unfold step at hstep
  split at hstep
  next => exact Host.Outcome.next.inj hstep ▸ hs.idle
  next c rest _ =>
    obtain ⟨u, hu, hk⟩ := exec_keeps (b := { halt := false, balls := false }) rfl rfl (Keeps.refl _ { s with pending := rest }) c
    obtain rfl := Host.Outcome.next.inj (hstep.symm.trans hu)
    exact (hs.withPending rest).of_keeps rfl hk

end Sys2Proof.Machine
end

section
/-!
PROOFS. Proofs/Taking.lean: how a packet reaches its port (R334), is taken from it (R335) and answered (R333, R337): the statements O9, O10, O14 and O15.
-/

namespace Sys2Proof.Machine

open Sys2Proof

/-! ## A port and its registers -/

theorem Reg.portQueue_ne_cmdFlags (p : Nat) : Reg.PORT_QUEUE p ≠ Reg.CMD_FLAGS := by unfold Reg.PORT_QUEUE Reg.CMD_FLAGS; omega

theorem Reg.portCmdErr_ne_cmdFlags (p : Nat) : Reg.CMD_FLAGS ≠ Reg.PORT_CMD_ERR p := by unfold Reg.PORT_CMD_ERR Reg.CMD_FLAGS; omega

theorem Reg.portCmdCount_ne_portQueue (p : Nat) : Reg.PORT_CMD_COUNT p ≠ Reg.PORT_QUEUE p := by unfold Reg.PORT_CMD_COUNT Reg.PORT_QUEUE; omega

/-- R357: what waits at a port is shown in its `PORT_QUEUE` alone. -/
theorem State.rd_syncPort_ne (s : State) {p a : Nat} (h : a ≠ Reg.PORT_QUEUE p) : (s.syncPort p).rd a = s.rd a :=
  (State.rd_setF_ne _ h ..).trans (State.rd_setF_ne _ h ..)

theorem State.port_syncPort (s : State) (p k : Nat) : (s.syncPort p).port k = s.port k := (rfl)

/-! ## Arrival (R334) -/

/-- R334: a port with room queues a packet last, with the time of its arrival. -/
theorem State.arrive_room {s : State} {p : Nat} (h : (s.port p).queue.length < queueRoom p) (x : QCmd) :
    s.arrive p x = (s.setPort p { s.port p with queue := (s.port p).queue ++ [{ x with rx := s.time.dev }] }).syncPort p := if_neg (Nat.not_le.mpr h)

/-- R334: a full port answers a packet at once. -/
theorem State.arrive_full {s : State} {p : Nat} (h : queueRoom p ≤ (s.port p).queue.length) (x : QCmd) :
    s.arrive p x = s.sendReply p x.opcode x.cmd.tag.toNat Sts.BUSY (errParams 0 0) x.port := if_pos h

/-- A packet that reaches a port, in the states in which the NL5 takes commands. -/
theorem execCommandArrival_arrives {op : BitVec 16} {c : Cmd} {s : State} (hserves : s.noCommands = false) (hport : s.portExists (s.portOf c.port) = true) :
    exec (.commandArrival op c) s =
      .next ((s.arrive (s.portOf c.port) { opcode := op.toNat, lenOk := cmdLenOk c, cmd := c }).drainUnknown 68) := by
  refine congrArg _ (if_neg ?_)
  simp [hserves, hport]

/-- A port's queue stays quiet when a packet of an opcode of the table joins it. -/
theorem head_append_known {l : List QCmd} {x y : QCmd} (hl : ∀ z, l.head? = some z → knownOpcode z.opcode = true ∧ z.aborted = false)
    (hx : knownOpcode x.opcode = true ∧ x.aborted = false) (hy : (l ++ [x]).head? = some y) : y.aborted = false ∧ knownOpcode y.opcode = true := by
  cases l with
  | nil => exact Option.some.inj hy ▸ hx.symm
  | cons z l => exact (hl y hy).symm

section

variable {s : State} {p : Nat} (x : QCmd)

/-- R334: what the arrival of a packet at a port with room does to the ports. -/
theorem State.port_arrive_room (h : (s.port p).queue.length < queueRoom p) (k : Nat) :
    (s.arrive p x).port k = if k = p then { s.port p with queue := (s.port p).queue ++ [{ x with rx := s.time.dev }] } else s.port k := by
  rw [State.arrive_room h, State.port_syncPort]
  split
  · next hk => rw [hk, State.port_setPort_self]
  · next hk => exact s.port_setPort_ne hk _

theorem State.rd_arrive_room (h : (s.port p).queue.length < queueRoom p) {a : Nat} (ha : a ≠ Reg.PORT_QUEUE p) : (s.arrive p x).rd a = s.rd a := by
  rw [State.arrive_room h]
  exact State.rd_syncPort_ne _ ha

theorem State.arrive_room_frame (h : (s.port p).queue.length < queueRoom p) : ∃ r q, s.arrive p x = { s with regs := r, ports := q } := by
  rw [State.arrive_room h]
  exact ⟨_, _, rfl⟩

/-- A packet of an opcode of the table that finds room in a quiet block brings nothing else about. -/
theorem State.arrive_quiet (hq : s.quiet) (h : (s.port p).queue.length < queueRoom p) (hknown : knownOpcode x.opcode = true) (hx : x.aborted = false) (n : Nat) :
    (s.arrive p x).drainUnknown n = s.arrive p x := by
  obtain ⟨-, hfirst⟩ := hq
  refine State.drainUnknown_known fun k y hy => ?_
  rw [State.port_arrive_room x h] at hy
  split at hy
  · exact head_append_known (x := { x with rx := s.time.dev }) (hfirst p) ⟨hknown, hx⟩ hy
  · exact (hfirst k y hy).symm

end

/-- Settles O9: the packet finds room, and in a quiet block nothing else follows (`State.arrive_quiet`). -/
theorem arrivalQueues : Obligations.ArrivalQueues := by
  rintro op c s p rfl hserves hport hknown hquiet hroom
  refine ⟨_, execCommandArrival_arrives hserves hport, ?_⟩
  rw [State.arrive_quiet _ hquiet hroom hknown rfl]
  exact ⟨(State.port_arrive_room _ hroom _).trans (if_pos rfl), fun k hk => (State.port_arrive_room _ hroom k).trans (if_neg hk),
    fun a ha => State.rd_arrive_room _ hroom ha, State.arrive_room_frame _ hroom⟩

/-! ## Replies (R333, R337) -/

/-- R357: a reply `BUSY` sets its flag. -/
theorem State.sendReply_busy (s : State) (p op tag : Nat) (params : List Byte) (port : Nat) : (s.sendReply p op tag Sts.BUSY params port).bit Reg.CMD_FLAGS 0 = true :=
  (congrArg (fun v : Word => v.getLsbD 0) (State.rd_inc_ne _ (Reg.portCmdErr_ne_cmdFlags p))).trans (State.bit_flag_self _ _ (by decide))

/-- A reply takes no command off a port, and keeps none. -/
theorem State.queue_sendReply (s : State) (p op tag st : Nat) (params : List Byte) (port : Nat) (h : st ≠ Sts.INTERNAL_ERROR) (k : Nat) :
    ((s.sendReply p op tag st params port).port k).queue = (s.port k).queue ∧ ((s.sendReply p op tag st params port).port k).kept = (s.port k).kept := by
  rw [State.sendReply_port _ _ _ _ _ _ _ h]
  split
  · next hk => subst hk; exact ⟨rfl, rfl⟩
  · exact ⟨rfl, rfl⟩

/-- Settles O10: the packet is answered at once, and at no port does another command come to stand first. -/
theorem arrivalBusy : Obligations.ArrivalBusy := by
  rintro op c s p rfl hserves hport ⟨-, hfirst⟩ hfull
  have hbusy : Sts.BUSY ≠ Sts.INTERNAL_ERROR := by decide
  refine ⟨_, execCommandArrival_arrives hserves hport, ?_⟩
  rw [State.arrive_full hfull, State.drainUnknown_known fun k y hy => (hfirst k y ((State.queue_sendReply _ _ _ _ _ _ _ hbusy k).1 ▸ hy)).symm]
  obtain ⟨hqueue, hkept⟩ := s.queue_sendReply (s.portOf c.port) op.toNat c.tag.toNat Sts.BUSY (errParams 0 0) (c.b4.toNat % 8) hbusy (s.portOf c.port)
  refine ⟨hqueue, hkept, ?_, fun k hk => ?_, s.sendReply_busy .., s.sendReply_frame _ _ _ _ _ _ hbusy⟩
  · rw [State.sendReply_port _ _ _ _ _ _ _ hbusy, if_pos rfl]
    rfl
  · rw [State.sendReply_port _ _ _ _ _ _ _ hbusy, if_neg hk]

/-- R337: keeping a reply takes no command off a port. -/
theorem State.queue_keepReply (s : State) (p : Nat) (x : KeptReply) (k : Nat) : ((s.keepReply p x).port k).queue = (s.port k).queue := by
  rw [State.keepReply_port]
  split
  · next hk => subst hk; rfl
  · rfl

/-- R333: in a quiet block a command that ends is answered, and nothing else follows. -/
theorem State.concludes_quiet {p : Nat} {x : QCmd} {y : Reply} (hq : y.state.quiet) (hafter : y.after = none) (hst : y.status ≠ Sts.INTERNAL_ERROR) :
    State.concludes p x y = y.state.answer p x.opcode x.cmd.tag.toNat y.status y.params x.port := by
  obtain ⟨hcmds, hfirst⟩ := hq
  have hsent : State.conclude p x y = y.state.answer p x.opcode x.cmd.tag.toNat y.status y.params x.port := by
    unfold State.conclude
    rw [hafter]
    rfl
  unfold State.concludes
  rw [hsent, State.runCmds_nil, State.drainUnknown_known]
  · intro k z hz
    rw [State.answer, (State.queue_sendReply _ _ _ _ _ _ _ hst k).1, State.queue_keepReply] at hz
    exact (hfirst k z hz).symm
  · obtain ⟨r, q, f, hframe⟩ := (y.state.keepReply p ⟨x.cmd.tag.toNat, x.opcode, y.status, y.params, x.port⟩).sendReply_frame p x.opcode x.cmd.tag.toNat y.status
      y.params x.port hst
    rw [State.answer, hframe]
    exact hcmds

/-- The newest of the replies that a port keeps is the last. -/
theorem getLast_drop_append {α : Type} (l : List α) (x : α) (n : Nat) (h : 0 < n) : ((l ++ [x]).drop ((l ++ [x]).length - n)).getLast? = some x := by
  rw [List.getLast?_drop, if_neg (by simp; omega), List.getLast?_concat]

/-- Settles O14: the reply is kept as the newest, and sent. -/
theorem replySent : Obligations.ReplySent := by
  intro p x y hquiet hafter hst
  rw [State.concludes_quiet hquiet hafter hst, State.answer]
  have hport := (y.state.keepReply p ⟨x.cmd.tag.toNat, x.opcode, y.status, y.params, x.port⟩).sendReply_port p x.opcode x.cmd.tag.toNat y.status y.params x.port hst
  have hkept := y.state.keepReply_port p ⟨x.cmd.tag.toNat, x.opcode, y.status, y.params, x.port⟩
  rw [hport p, if_pos rfl, hkept p, if_pos rfl]
  refine ⟨rfl, getLast_drop_append _ _ 16 (by decide), rfl, fun k hk => ?_, ?_, fun a hqueue hflags herr => ?_⟩
  · rw [hport, if_neg hk, hkept, if_neg hk]
  · obtain ⟨r, q, f, hframe⟩ := (y.state.keepReply p ⟨x.cmd.tag.toNat, x.opcode, y.status, y.params, x.port⟩).sendReply_frame p x.opcode x.cmd.tag.toNat y.status
      y.params x.port hst
    exact ⟨r, q, f, hframe⟩
  · exact State.sendReply_rd _ _ _ _ _ _ _ hst hqueue hflags herr

/-! ## A command is taken (R335) -/

/-- What taking the first command of a port does to the ports. -/
theorem State.port_popCmd (s : State) (p k : Nat) : (s.popCmd p).port k = if k = p then { s.port p with queue := (s.port p).queue.drop 1 } else s.port k := by
  have hset : (s.popCmd p).port k = (s.setPort p { s.port p with queue := (s.port p).queue.drop 1 }).port k := by
    unfold State.popCmd
    split <;> rfl
  rw [hset]
  split
  · next hk => rw [hk, State.port_setPort_self]
  · next hk => exact s.port_setPort_ne hk _

theorem State.rd_popCmd (s : State) {p a : Nat} (h : a ≠ Reg.PORT_QUEUE p) : (s.popCmd p).rd a = s.rd a := by
  have hset : (s.popCmd p).rd a = ((s.setPort p { s.port p with queue := (s.port p).queue.drop 1 }).syncPort p).rd a := by
    unfold State.popCmd
    split <;> rfl
  exact hset.trans (State.rd_syncPort_ne _ h)

theorem State.syncPort_frame (s : State) (p : Nat) : ∃ r, s.syncPort p = { s with regs := r } := ⟨_, rfl⟩

/-- R335: the port of the command is the lane port served last. -/
theorem State.popCmd_frame (s : State) (p : Nat) : ∃ r q n, s.popCmd p = { s with regs := r, ports := q, sys := { s.sys with lastLane := n } } := by
  obtain ⟨r, hr⟩ := (s.setPort p { s.port p with queue := (s.port p).queue.drop 1 }).syncPort_frame p
  unfold State.popCmd
  dsimp only
  rw [hr]
  split
  · exact ⟨r, _, s.sys.lastLane, rfl⟩
  · exact ⟨r, _, p, rfl⟩

/-- A packet that reaches an empty queue is queued. -/
theorem State.queued_empty {s : State} {p : Nat} (h : (s.port p).queue = []) (op : Nat) (c : Cmd) :
    s.queued op p c = s.arrive p { opcode := op, lenOk := cmdLenOk c, cmd := c } := by
  unfold State.queued
  rw [h]
  rfl

/-- Settles O15: the packet reaches the empty queue of its port, and is taken from it again. -/
theorem takenFrame : Obligations.TakenFrame := by
  intro s op c p x t h hempty
  have hroom : (s.port p).queue.length < queueRoom p := by
    rw [hempty]
    unfold queueRoom
    split <;> decide
  have hstate := h.state
  rw [State.queued_empty hempty] at hstate
  have hport (k : Nat) : t.port k = if k = p then { s.port p with queue := [] } else s.port k := by
    rw [hstate]
    refine (State.port_popCmd ..).trans ?_
    rw [State.port_arrive_room _ hroom, if_pos rfl, hempty]
    split
    · rfl
    · next hk => rw [State.port_arrive_room _ hroom, if_neg hk]
  have hrd {a : Nat} (ha : a ≠ Reg.PORT_QUEUE p) : ((s.arrive p { opcode := op, lenOk := cmdLenOk c, cmd := c }).popCmd p).rd a = s.rd a :=
    (State.rd_popCmd _ ha).trans (State.rd_arrive_room _ hroom ha)
  refine ⟨?_, ?_, fun k hk => (hport k).trans (if_neg hk), ?_, ?_, fun a hqueue hcount => ?_⟩
  · rw [hport, if_pos rfl]
  · rw [hport, if_pos rfl]
  · obtain ⟨r, q, ha⟩ := State.arrive_room_frame (s := s) { opcode := op, lenOk := cmdLenOk c, cmd := c } hroom
    obtain ⟨r', q', n, hp⟩ := (s.arrive p { opcode := op, lenOk := cmdLenOk c, cmd := c }).popCmd_frame p
    rw [hstate, hp, ha]
    exact ⟨_, q', n, rfl⟩
  · rw [hstate, State.r_inc, State.r, hrd (Reg.portCmdCount_ne_portQueue p)]
    rfl
  · rw [hstate, State.rd_inc_ne _ hcount, hrd hqueue]

end Sys2Proof.Machine
end

section
/-!
PROOFS. Proofs/Checks.lean: the checks of R332 in their order (O11, O12), and a resent command (O13, R337).
-/

namespace Sys2Proof.Machine

open Sys2Proof

/-! ## The length of a parameter block (R331, R333) -/

/-- R333: the byte that a rule's length check names lies within the block. -/
theorem exactly_le {n l d : Nat} (h : exactly n l = some d) : d ≤ l := by
  unfold exactly at h
  split at h
  · exact nomatch h
  · exact Option.some.inj h ▸ Nat.min_le_left l n

theorem writeLen_le {c : Cmd} {l d : Nat} (h : writeLen c l = some d) : d ≤ l := by
  unfold writeLen at h
  split at h
  · exact Nat.le_of_eq (Option.some.inj h).symm
  · exact exactly_le h

theorem bulkLen_le {l d : Nat} (h : bulkLen l = some d) : d ≤ l := by
  unfold bulkLen at h
  split at h
  · exact Nat.le_of_eq (Option.some.inj h).symm
  · exact nomatch h

theorem bulkLen_isNone (l : Nat) : (bulkLen l).isNone = decide (16 ≤ l) := by
  unfold bulkLen
  split <;> simp <;> omega

/-- R442: `UPDATE_DATA` has 8 bytes and up to 4,072 bytes of data. -/
theorem updateLen_isNone (l : Nat) : (updateDataRule.len l).isNone = (decide (8 ≤ l) && decide (l ≤ 4080)) := by
  show (if l < 8 then some l else if 4080 < l then some 4080 else none).isNone = _
  split
  · simp; omega
  · split <;> simp <;> omega

theorem updateLen_le {l d : Nat} (h : updateDataRule.len l = some d) : d ≤ l := by
  change (if l < 8 then some l else if 4080 < l then some 4080 else none) = some d at h
  split at h
  · exact Nat.le_of_eq (Option.some.inj h).symm
  · split at h
    · next hlong => exact Option.some.inj h ▸ Nat.le_of_lt hlong
    · exact nomatch h

/-- R331, R333: the length check of every command row, by `cmdFits`; a byte that it names lies within the block. -/
theorem Instr.lenRule (i : Instr) (op : Nat) (c : Cmd) (s : State) (h : i.command? = some (op, c)) :
    ∃ r body, r.opcode = op ∧ (r.len c.length).isNone = cmdFits op c ∧ (∀ d, r.len c.length = some d → d ≤ c.length) ∧
      (exec i s = .next (s.command r body c) ∨ exec i s = .next (s.command r body c).enrollFails) := by
  cases i <;> simp only [Instr.command?, Option.some.injEq, Prod.mk.injEq, reduceCtorEq] at h <;> obtain ⟨rfl, rfl⟩ := h
  case ownerKeyEnroll => exact ⟨_, _, rfl, exactly_isNone _ _, fun _ => exactly_le, .inr rfl⟩
  case paramWrite => exact ⟨_, _, rfl, exactly_min _ _ _, fun _ => writeLen_le, .inl rfl⟩
  case sctWrite | trackWrite | zoneWrite | calWrite | templateWrite => exact ⟨_, _, rfl, bulkLen_isNone _, fun _ => bulkLen_le, .inl rfl⟩
  case updateData => exact ⟨_, _, rfl, updateLen_isNone _, fun _ => updateLen_le, .inl rfl⟩
  all_goals exact ⟨_, _, rfl, exactly_isNone _ _, fun _ => exactly_le, .inl rfl⟩

/-- R333: the field that holds a byte begins no later. -/
theorem fieldStart_le (fields : List Nat) (d : Nat) : fieldStart fields d ≤ d := by
  unfold fieldStart
  cases hl : (fields.filter fun o => decide (o ≤ d)).getLast? with
  | none => rw [List.getLastD_eq_getLast?, hl]; exact Nat.le_refl d
  | some o =>
    rw [List.getLastD_eq_getLast?, hl]
    simpa using (List.mem_filter.mp (List.mem_of_getLast? hl)).2

theorem lenDetail_le (fields : List Nat) (l d : Nat) : lenDetail fields l d ≤ d := by
  unfold lenDetail
  split
  · exact Nat.le_refl d
  · exact fieldStart_le fields d

/-! ## The checks (R332) -/

section

variable {s : State} {r : CmdRule} {p : Nat} {x : QCmd} (body : State → Reply)

theorem State.checked_header (h : headerOk x.cmd p = false) : s.checked r p x body = s.fail Sts.BAD_HEADER := by simp [State.checked, h]

variable (h : headerOk x.cmd p = true)

include h

theorem State.checked_torn (hw : x.lenOk = false) :
    s.checked r p x body = s.fail Sts.BAD_LENGTH (lenDetail r.fields x.cmd.params.length (lenFault x.cmd)) := by simp [State.checked, h, hw]

variable (hw : x.lenOk = true)

include hw

theorem State.checked_length {d : Nat} (hl : r.len x.cmd.length = some d) :
    s.checked r p x body = s.fail Sts.BAD_LENGTH (lenDetail r.fields x.cmd.length d) := by simp [State.checked, h, hw, hl]

theorem State.checked_barred (hl : r.len x.cmd.length = none) {st : Nat} (hst : s.permit r p = some st) : s.checked r p x body = s.fail st := by
  simp [State.checked, h, hw, hl, hst]

end

/-- Where no failed enrolment waits, a row of `OWNER_KEY_ENROLL` that changes nothing reports none. -/
theorem State.Takes.concludes_enrollOk {s t : State} {op p : Nat} {c : Cmd} {x : QCmd} (h : s.Takes op c p x t) (he : s.enrollOk) {y : Reply} (hy : y.state = t) :
    (State.concludes p x y).enrollOk :=
  (State.concludes_keeps p x y (hy ▸ h.keeps)).enroll rfl he

/-- A command that is taken and fails a check ends with the check's reply. -/
theorem State.Takes.exec_fails {s t : State} {op p : Nat} {c : Cmd} {x : QCmd} (h : s.Takes op c p x t) (he : s.enrollOk) {i : Instr} {r : CmdRule}
    {body : Nat → QCmd → State → Reply} (hi : exec i s = .next (s.command r body c) ∨ exec i s = .next (s.command r body c).enrollFails) (ho : r.opcode = op)
    {st d : Nat} (hy : t.checked r p x (body p x) = t.fail st d) : exec i s = .next (State.concludes p x (t.fail st d)) := by
  rw [State.command_admitted r body h ho _ hy, State.enrollFails_none (h.concludes_enrollOk he rfl)] at hi
  exact hi.elim id id

/-- Settles O11: each check comes before the next, and the byte that the length checks name is the one at fault or the beginning of its field. -/
theorem checksInOrder : Obligations.ChecksInOrder := by
  intro i op c s p x t hi he h
  obtain ⟨r, body, ho, hfits, hwithin, hexec⟩ := Instr.lenRule i op c s hi
  obtain rfl := h.cmd
  refine ⟨fun hheader => ?_, fun hheader hwhole => ?_, fun hheader hwhole hmisfit => ?_⟩
  · exact h.exec_fails he hexec ho (State.checked_header _ hheader)
  · exact ⟨_, lenDetail_le _ _ _, h.exec_fails he hexec ho (State.checked_torn _ hheader hwhole)⟩
  · rw [hmisfit, Option.isNone_eq_false_iff, Option.isSome_iff_exists] at hfits
    obtain ⟨d, hd⟩ := hfits
    exact ⟨_, Nat.le_trans (lenDetail_le _ _ _) (hwithin d hd), h.exec_fails he hexec ho (State.checked_length _ hheader hwhole hd)⟩

/-! ## Opcodes, roles and states (R342, R343) -/

/-- R343: every opcode of the table is that of a row. -/
theorem exists_row_of_known (c : Cmd) {op : Nat} (h : knownOpcode op = true) : ∃ i : Instr, i.command? = some (op, c) := by
  simp only [knownOpcode, List.contains_eq_mem, List.mem_cons, List.not_mem_nil, or_false, Bool.or_eq_true, decide_eq_true_eq] at h
  rcases h with h | h
  · rcases h with rfl | rfl | rfl | rfl | rfl | rfl | rfl | rfl | rfl | rfl | rfl | rfl | rfl | rfl | rfl | rfl | rfl | rfl | rfl | rfl | rfl | rfl | rfl | rfl | rfl | rfl | rfl
    exacts [⟨.nop c, rfl⟩, ⟨.identify c, rfl⟩, ⟨.ownerClaim c, rfl⟩, ⟨.ownerRelease c, rfl⟩, ⟨.arm c, rfl⟩, ⟨.disarm c, rfl⟩, ⟨.startSensing c, rfl⟩,
      ⟨.stopSensing c, rfl⟩, ⟨.forceSafe c, rfl⟩, ⟨.recover c, rfl⟩, ⟨.resetDevice c, rfl⟩, ⟨.syncTime c, rfl⟩, ⟨.eventConfig c, rfl⟩, ⟨.paramRead c, rfl⟩,
      ⟨.paramWrite c, rfl⟩, ⟨.paramModify c, rfl⟩, ⟨.sctWrite c, rfl⟩, ⟨.sctCommit c, rfl⟩, ⟨.sctRead c, rfl⟩, ⟨.trackWrite c, rfl⟩, ⟨.trackRead c, rfl⟩,
      ⟨.regionRequest c, rfl⟩, ⟨.regionCancel c, rfl⟩, ⟨.regionPriority c, rfl⟩, ⟨.zoneWrite c, rfl⟩, ⟨.zoneCommit c, rfl⟩, ⟨.zoneRead c, rfl⟩]
  · rcases h with rfl | rfl | rfl | rfl | rfl | rfl | rfl | rfl | rfl | rfl | rfl | rfl | rfl | rfl | rfl | rfl | rfl | rfl | rfl | rfl | rfl | rfl | rfl | rfl | rfl | rfl
    exacts [⟨.streamSubscribe c, rfl⟩, ⟨.streamUnsubscribe c, rfl⟩, ⟨.streamStatus c, rfl⟩, ⟨.dmaRestart c, rfl⟩, ⟨.captureArm c, rfl⟩, ⟨.captureStop c, rfl⟩,
      ⟨.captureTrigger c, rfl⟩, ⟨.captureRead c, rfl⟩, ⟨.captureFree c, rfl⟩, ⟨.calibrateFull c, rfl⟩, ⟨.calibrateComb c, rfl⟩, ⟨.calRead c, rfl⟩,
      ⟨.calWrite c, rfl⟩, ⟨.calSave c, rfl⟩, ⟨.templateWrite c, rfl⟩, ⟨.templateCommit c, rfl⟩, ⟨.templateRead c, rfl⟩, ⟨.attest c, rfl⟩, ⟨.certRead c, rfl⟩,
      ⟨.updateBegin c, rfl⟩, ⟨.updateData c, rfl⟩, ⟨.updateCommit c, rfl⟩, ⟨.ownerKeyEnroll c, rfl⟩, ⟨.healthRead c, rfl⟩, ⟨.recorderRead c, rfl⟩,
      ⟨.recorderFlush c, rfl⟩]

/-- R343: the opcode of every command row is in the table. -/
theorem Instr.known_of_command {i : Instr} {op : Nat} {c : Cmd} (h : i.command? = some (op, c)) : knownOpcode op = true := by
  cases i <;> simp only [Instr.command?, Option.some.injEq, Prod.mk.injEq, reduceCtorEq] at h <;> obtain ⟨rfl, -⟩ := h <;> rfl

/-- R342: in FAULT_HALT three commands run, from every role. -/
theorem State.cmdAllows_faultHalt {s : State} (h : s.dev = .faultHalt) (op p : Nat) : s.cmdAllows op p = true ↔ op = 0x0101 ∨ op = 0x010A ∨ op = 0x0801 := by
  unfold State.cmdAllows cmdHalt
  rw [if_pos h]
  simp

/-- Settles O12: the rule of each row says of roles and states what the table of R343 says (`Instr.rule`). -/
theorem rolesAndStates : Obligations.RolesAndStates := by
  refine ⟨fun op => ⟨fun h => ?_, fun ⟨i, c, h⟩ => Instr.known_of_command h⟩, fun i op c s p x t hi he h hheader hwhole hfit hbarred => ?_,
    fun t op p h => State.cmdAllows_faultHalt h op p⟩
  · obtain ⟨i, hi⟩ := exists_row_of_known { port := 0, tag := 0, b4 := 0, length := 0, params := [] } h
    exact ⟨i, _, hi⟩
  · obtain ⟨r, body, hfits, hlen, hexec⟩ := Instr.rule i op c s hi
    rw [← h.port] at hfits
    rw [hfit, Option.isNone_iff_eq_none] at hlen
    have hpermit := State.permit_eq (s := t) hfits
    rw [hbarred] at hpermit
    obtain rfl := h.cmd
    exact h.exec_fails he hexec hfits.opcode (State.checked_barred _ hheader hwhole hlen hpermit)

/-! ## A resent command (R337) -/

/-- A packet that waits at its port keeps what `Keeps` says. -/
theorem State.queued_keeps {b : Kept} (s : State) (op p : Nat) (c : Cmd) : Keeps b s (s.queued op p c) := by
  unfold State.queued
  split
  · exact Keeps.refl _ _
  · exact State.arrive_keeps _ _ (Keeps.refl _ _)

/-- R337: a command of which a reply is kept is answered with it. -/
theorem State.serve_kept {s : State} {op p : Nat} {x : QCmd} {k : KeptReply} (ho : x.opcode = op)
    (h : (s.port p).kept.find? (fun k => k.tag == x.cmd.tag.toNat && k.opcode == op) = some k) (go : State → Reply) :
    s.serve p x go = s.sendReply p op x.cmd.tag.toNat k.status k.params k.port := by
  subst ho
  unfold State.serve
  rw [h]

/-- A command row whose packet stands first at its port, which has its turn, is executed. -/
theorem State.command_taken {s : State} {r : CmdRule} (body : Nat → QCmd → State → Reply) {c : Cmd} {p : Nat} {x : QCmd} (hp : p = s.portOf c.port)
    (hserves : s.noCommands = false) (hport : s.portExists p = true) (hhead : ((s.queued r.opcode p c).port p).queue.head? = some x) (ho : x.opcode = r.opcode)
    (hc : x.cmd = c) (hturn : (s.queued r.opcode p c).hasTurn p = true) :
    s.command r body c = ((((s.queued r.opcode p c).popCmd p).execute r p x (body p x)).runCmds 8).drainUnknown 68 := by
  subst hp
  rw [State.command_queued r body hserves hport]
  split
  · next he => rw [he] at hhead; exact nomatch hhead
  · next y l he =>
    rw [he] at hhead
    obtain rfl := Option.some.inj hhead
    exact if_pos ⟨ho, hc, hturn⟩

/-- Settles O13: the command is taken, its kept reply is found and sent, and no enrolment was begun that could be reported. -/
theorem resentAnswered : Obligations.ResentAnswered := by
  intro i op c s p x k hi he hp hserves hport hhead hop hcmd hturn hkept
  obtain ⟨r, body, ho, -, -, hexec⟩ := Instr.lenRule i op c s hi
  subst hop hcmd
  rw [← ho] at hhead hturn hkept ⊢
  rw [State.command_taken body hp hserves hport hhead ho.symm rfl hturn, State.execute, State.serve_kept ho.symm hkept] at hexec
  have hkeeps : Keeps {} s (((((s.queued r.opcode p x.cmd).popCmd p).sendReply p r.opcode x.cmd.tag.toNat k.status k.params k.port).runCmds 8).drainUnknown 68) :=
    State.drainUnknown_keeps _ (State.runCmds_keeps _ (State.sendReply_keeps _ _ _ _ _ _ (State.popCmd_keeps _ (s.queued_keeps ..))))
  rw [State.enrollFails_none (hkeeps.enroll rfl he)] at hexec
  exact hexec.elim id id

end Sys2Proof.Machine
end

section
/-!
PROOFS. Proofs/PortCommands.lean: `NOP`, `EVENT_CONFIG` and `IDENTIFY` (O16), and the change of owner (O17, R339, R340).
-/

namespace Sys2Proof.Machine

open Sys2Proof

/-! ## From admission to effect -/

/-- A command row that is admitted, with a block that its rule takes, comes to its own effect; the rule says what the table of R343 says of its opcode. -/
theorem State.Admits.runs {s t : State} {op p : Nat} {c : Cmd} {x : QCmd} {r : CmdRule} (h : s.Admits op c p x t) (hl : r.len c.length = none)
    (body : Nat → QCmd → State → Reply) (ho : r.opcode = op := by rfl)
    (hr : ∀ ρ, r.roles.contains ρ = (cmdRoles op p).contains ρ.code := by intro ρ; cases ρ <;> rfl)
    (hs : ∀ d, r.states.contains d = (cmdStates op).contains d.code := by intro d; cases d <;> rfl)
    (hj : r.judged = cmdJudged op := by rfl) (hh : haltOpcode op = cmdHalt op := by rfl) :
    s.runCommand r body c = .next (State.concludes p x (body p x t)) :=
  State.command_runs r body h ⟨ho, hr, hs, hj, hh⟩ hl rfl

/-- Settles O16: each row is its rule of R343 and its own effect. -/
theorem portCommandsRun : Obligations.PortCommandsRun := by
  intro c s p x t
  refine ⟨fun h hl => h.runs (if_pos hl) _, fun h hl => ?_, fun h hl => h.runs (if_pos hl) _⟩
  obtain rfl := h.cmd
  exact h.runs (if_pos hl) _

/-! ## Registers before `CMD_FLAGS`: `PORT_ROLE_CFG`, `PORT_ROLES` and `OWNER_INFO` -/

/-- R360: a move that completes touches no register. -/
theorem State.rd_finishMove (s : State) (ch a : Nat) : (s.finishMove ch).rd a = s.rd a := by
  unfold State.finishMove State.movePkt
  split
  · dsimp only
    split
    · rfl
    · exact State.rd_sendPkt ..
  · rfl

section

variable {a : Nat} (ha : a < Reg.CMD_FLAGS)

include ha

theorem Reg.ne_of_before {b : Nat} (h : Reg.CMD_FLAGS ≤ b) : a ≠ b := Nat.ne_of_lt (Nat.lt_of_lt_of_le ha h)

theorem Reg.ne_portQueue (p : Nat) : a ≠ Reg.PORT_QUEUE p := Reg.ne_of_before ha (by simp only [Reg.CMD_FLAGS, Reg.PORT_QUEUE]; omega)

theorem Reg.ne_portEvtDrop (p : Nat) : a ≠ Reg.PORT_EVT_DROP p := Reg.ne_of_before ha (by simp only [Reg.CMD_FLAGS, Reg.PORT_EVT_DROP]; omega)

theorem State.rd_queueEvent (s : State) (p code tag status : Nat) (params : List Byte) : (s.queueEvent p code tag status params).rd a = s.rd a := by
  have hform := fun mandatory => s.formPkt_rd p code tag true mandatory status params p (Reg.ne_portQueue ha p)
  have hdrop := fun t : State => (State.rd_flag_ne (t.inc (Reg.PORT_EVT_DROP p)) (Nat.ne_of_lt ha) 3).trans (t.rd_inc_ne (Reg.ne_portEvtDrop ha p))
  unfold State.queueEvent
  dsimp only
  split
  · split
    · exact hform true
    · rfl
  · split
    · rfl
    · split
      · exact hform false
      · exact hdrop _

theorem State.rd_raise (s : State) (code : Nat) (sc : Scope) (params : List Byte) : (s.raise code sc params).rd a = s.rd a :=
  State.rd_each _ _ _ _ fun t _ => t.rd_queueEvent ha ..

theorem State.rd_finish (s : State) (opcode status detail : Nat) : (s.finish opcode status detail).rd a = s.rd a := by
  unfold State.finish
  split
  · rfl
  · exact State.rd_queueEvent ha ..

/-- R450: the end of an update touches `UPDATE_STATUS` alone of the registers. -/
theorem State.rd_endUpdate (s : State) : s.endUpdate.rd a = s.rd a := by
  unfold State.endUpdate
  split
  · rfl
  · exact (State.rd_finish ha ..).trans (State.rd_setR_ne _ (Reg.ne_of_before ha (by decide)) _)

/-- R360: the losses of the subscriptions that end are counted on the page of the streams. -/
theorem State.rd_endPortSubs (s : State) (p : Nat) : (s.endPortSubs p).rd a = s.rd a := by
  refine State.rd_each _ _ _ _ fun t ch => ?_
  have hlost := fun cause records bytes =>
    ((State.Alerts.refl a (t.finishMove ch)).countLoss (Nat.lt_trans ha (by decide)) ch cause records bytes 0).rd.trans (t.rd_finishMove ch a)
  have hended : ∀ u : State, (u.endSub ch).rd a = u.rd a := fun u => by
    unfold State.endSub State.addEnded
    dsimp only
    split <;> rfl
  refine (hended _).trans ?_
  split
  · exact t.rd_finishMove ch a
  · exact hlost _ _ _

/-- R340: what a port loses whose role fell touches no register before `CMD_FLAGS`. -/
theorem State.rd_roleFell (s : State) (p : Nat) : (s.roleFell p).rd a = s.rd a := by
  unfold State.roleFell
  split
  · exact s.rd_endPortSubs ha p
  · rfl

end

/-! ## Roles -/

/-- A role depends on `PORT_ROLES` alone, the owner on `OWNER_INFO`. -/
theorem State.role_congr {s t : State} (h : t.rd Reg.PORT_ROLES = s.rd Reg.PORT_ROLES) (p : Nat) : t.role p = s.role p := by
  unfold State.role State.f
  rw [h]

theorem State.owner_congr {s t : State} (h : t.rd Reg.OWNER_INFO = s.rd Reg.OWNER_INFO) : t.owner = s.owner := by
  unfold State.owner State.bit State.f
  rw [h]

/-- A port has the role that it was given. -/
theorem State.role_setRole_self (s : State) {p : Nat} (hp : p < 8) (r : Role) : (s.setRole p r).role p = r := by
  unfold State.role State.setRole
  rw [State.f_setF_self _ _ (by omega) (by omega), show 4 * p + 3 + 1 - 4 * p = 4 by omega]
  cases r <;> rfl

/-- The other ports keep their roles. -/
theorem State.role_setRole_ne (s : State) {p q : Nat} (hp : p < 8) (h : q ≠ p) (r : Role) : (s.setRole p r).role q = s.role q := by
  unfold State.role State.setRole
  rw [State.f_setF_off _ _ (by omega) (by omega) (by omega)]

theorem State.owner_lt {s : State} {o : Nat} (h : s.owner = some o) : o < 8 := by
  unfold State.owner at h
  split at h
  · exact Option.some.inj h ▸ Nat.mod_lt _ (by decide)
  · exact nomatch h

/-! ## The change of owner (R340) -/

/-- R340: the former owner returns to its default role. -/
def State.ownerGone (s : State) : State :=
  match s.owner with
  | some p => s.setRole p (s.defaultRole p)
  | none => s

/-- R339: the new owner takes its role, and `OWNER_INFO` names it. -/
def State.ownerNamed (s : State) : Option Nat → State
  | some p => ((s.setRole p .owner).setF Reg.OWNER_INFO 2 0 p).setBit Reg.OWNER_INFO 3 true
  | none => (s.setF Reg.OWNER_INFO 2 0 0).setBit Reg.OWNER_INFO 3 false

theorem State.owner_ownerNamed_some (s : State) {p : Nat} (hp : p < 8) : (s.ownerNamed (some p)).owner = some p := by
  unfold State.owner State.ownerNamed
  dsimp only
  rw [State.bit_setBit_self _ _ (by decide), if_pos rfl, State.f_setBit_off _ _ (by decide) (by decide), State.f_setF_self _ _ (by decide) (by decide),
    Nat.mod_eq_of_lt (b := 2 ^ (2 + 1 - 0)) hp]

theorem State.owner_ownerNamed_none (s : State) : (s.ownerNamed none).owner = none := by
  unfold State.owner State.ownerNamed
  rw [State.bit_setBit_self _ _ (by decide)]
  rfl

/-- Naming an owner gives it its role, and no other port another. -/
theorem State.role_ownerNamed_self (s : State) {p : Nat} (hp : p < 8) : (s.ownerNamed (some p)).role p = .owner :=
  (State.role_congr ((State.rd_setBit_ne _ (by decide) ..).trans (State.rd_setF_ne _ (by decide) ..)) p).trans (s.role_setRole_self hp _)

theorem State.role_ownerNamed_ne (s : State) {o : Nat} {new : Option Nat} (h : ∀ q, new = some q → q < 8 ∧ q ≠ o) : (s.ownerNamed new).role o = s.role o := by
  cases new with
  | none => exact State.role_congr ((State.rd_setBit_ne _ (by decide) ..).trans (State.rd_setF_ne _ (by decide) ..)) o
  | some q =>
    obtain ⟨hq, hne⟩ := h q rfl
    exact (State.role_congr ((State.rd_setBit_ne _ (by decide) ..).trans (State.rd_setF_ne _ (by decide) ..)) o).trans (s.role_setRole_ne hq (Ne.symm hne) _)

/-- What is recorded and reported of a change of owner leaves who owns, and every role. -/
theorem State.setOwner_effects (s : State) (new : Option Nat) (reason : Nat) :
    (s.setOwner new reason).owner = (s.ownerGone.ownerNamed new).owner ∧ ∀ p, (s.setOwner new reason).role p = (s.ownerGone.ownerNamed new).role p := by
  unfold State.setOwner
  extract_lets old gone named noted b0
  have hnamed : named = s.ownerGone.ownerNamed new := by cases new <;> rfl
  have hrd {a : Nat} (ha : a < Reg.CMD_FLAGS) (code : Nat) (params : List Byte) : ((noted.post Rec.OWNER code).raise Ev.OWNER_CHANGED .all params).rd a = noted.rd a :=
    (State.rd_raise ha ..).trans (State.rd_post _ (Reg.ne_of_before ha (by decide)) (Reg.ne_of_before ha (by decide)) ..)
  refine ⟨?_, fun p => ?_⟩
  · rw [State.owner_congr (hrd (by decide) _ _), ← hnamed]
    unfold State.owner noted State.addF
    rw [State.bit_setF_off _ _ (by decide) (by decide) (by decide), State.bit_setF_off _ _ (by decide) (by decide) (by decide),
      State.f_setF_off _ _ (by decide) (by decide) (by decide), State.f_setF_off _ _ (by decide) (by decide) (by decide)]
  · rw [State.role_congr (hrd (by decide) _ _), ← hnamed]
    exact State.role_congr ((State.rd_setF_ne _ (by decide) ..).trans (State.rd_setF_ne _ (by decide) ..)) p

/-- R340: nor does what the former owner loses change who owns, or a role. -/
theorem State.changeOwner_effects (s : State) (new : Option Nat) (reason : Nat) :
    (s.changeOwner new reason).owner = (s.ownerGone.ownerNamed new).owner ∧ ∀ p, (s.changeOwner new reason).role p = (s.ownerGone.ownerNamed new).role p := by
  obtain ⟨howner, hrole⟩ := s.setOwner_effects new reason
  have hrd {a : Nat} (ha : a < Reg.CMD_FLAGS) : (s.changeOwner new reason).rd a = (s.setOwner new reason).rd a := by
    unfold State.changeOwner
    dsimp only
    split
    · exact (State.rd_endUpdate ha _).trans (State.rd_roleFell ha ..)
    · rfl
  exact ⟨(State.owner_congr (hrd (by decide))).trans howner, fun p => (State.role_congr (hrd (by decide)) p).trans (hrole p)⟩

/-- R340: the former owner has its default role, whoever owns now. -/
theorem State.role_former {s : State} {o : Nat} (ho : s.owner = some o) {new : Option Nat} (hnew : ∀ q, new = some q → q < 8 ∧ q ≠ o) :
    (s.ownerGone.ownerNamed new).role o = s.defaultRole o := by
  rw [State.role_ownerNamed_ne _ hnew]
  unfold State.ownerGone
  rw [ho]
  exact s.role_setRole_self (State.owner_lt ho) _

/-! ## The table of R339 -/

section

variable {s : State} {p : Nat}

theorem State.claim_barred (h : s.bit Reg.PORT_ROLE_CFG (8 * p + 1) = false) (force : Bool) : s.claim p force = s.fail Sts.NOT_PERMITTED := by
  simp [State.claim, h]

variable (h : s.bit Reg.PORT_ROLE_CFG (8 * p + 1) = true)

include h

theorem State.claim_free (ho : s.owner = none) (force : Bool) : s.claim p force = (s.changeOwner (some p) 1).ok := by simp [State.claim, h, ho]

theorem State.claim_own (ho : s.owner = some p) (force : Bool) : s.claim p force = s.ok := by simp [State.claim, h, ho]

variable {o : Nat} (ho : s.owner = some o) (hne : o ≠ p)

include ho hne

theorem State.claim_forced (hr : s.rank o < s.rank p) : s.claim p true = (s.changeOwner (some p) 2).ok := by simp [State.claim, h, ho, hne, hr]

theorem State.claim_held {force : Bool} (hf : force = false ∨ s.rank p ≤ s.rank o) : s.claim p force = s.fail Sts.OWNER_HELD o := by
  have hkeep : ¬ (force = true ∧ s.rank o < s.rank p) := by
    rintro ⟨rfl, hr⟩
    exact hf.elim Bool.noConfusion (Nat.not_le.mpr hr)
  simp only [State.claim, h, ho, hne, hkeep, Bool.not_true, Bool.false_eq_true, if_false]

end

/-- Settles O17: an admitted claim comes to `State.claim`, and a change of owner to `State.ownerGone` and `State.ownerNamed`. -/
theorem ownerCommandsDecided : Obligations.OwnerCommandsDecided := by
  intro c s p x t
  refine ⟨fun h hl => ?claim, fun h hl => h.runs (if_pos hl) _, fun hp why => ?taken, fun why => ?released, fun o who why ho hwho => ?former⟩
  case claim =>
    intro eligible force
    obtain rfl := h.cmd
    have hrun : exec (.ownerClaim x.cmd) s = .next (State.concludes p x (t.claim p force)) := h.runs (if_pos hl) _
    rw [hrun]
    refine ⟨fun he => ?_, fun he ho => ?_, fun he ho => ?_, fun o he ho hne hf hr => ?_, fun o he ho hne hf => ?_⟩
    · rw [State.claim_barred he]
    · rw [State.claim_own he ho]
    · rw [State.claim_free he ho]
    · rw [hf, State.claim_forced he ho hne hr]
    · rw [State.claim_held he ho hne hf]
  case taken =>
    obtain ⟨howner, hrole⟩ := t.changeOwner_effects (some p) why
    exact ⟨howner.trans (State.owner_ownerNamed_some _ (by omega)), (hrole p).trans (State.role_ownerNamed_self _ (by omega))⟩
  case released => exact (t.changeOwner_effects none why).1.trans (State.owner_ownerNamed_none _)
  case former =>
    refine ((t.changeOwner_effects who why).2 o).trans (State.role_former ho fun q hq => ?_)
    obtain ⟨hlt, hne⟩ := hwho q hq
    exact ⟨by omega, hne⟩

end Sys2Proof.Machine
end

section
/-!
PROOFS. Proofs/RegisterCommands.lean: `PARAM_READ` (O21), `PARAM_WRITE` of several registers (O23) and the rows that write one register (O24).
-/

namespace Sys2Proof.Machine

open Sys2Proof

/-! ## `PARAM_READ` -/

section

variable (s : State) {p a n : Nat}

/-- R345: an aligned read with a `COUNT` that its port takes, at an address without a register. -/
theorem State.paramRead_noRegister (ha : a % 4 = 0) (h1 : 1 ≤ n) (hn : n ≤ maxCount p) (hr : regAt a = none) : s.paramRead p a n = s.fail Sts.BAD_ADDRESS a := by
  have hcount : ¬ (n = 0 ∨ maxCount p < n) := by omega
  simp only [State.paramRead, ha, hcount, hr, ne_eq, not_true_eq_false, if_false]

/-- R345, R470: at the address of a register, what the variant has decides. -/
theorem State.paramRead_register {h : RegHit} (ha : a % 4 = 0) (h1 : 1 ≤ n) (hn : n ≤ maxCount p) (hr : regAt a = some h) :
    s.paramRead p a n = if h.present s.variant then s.ok (s.readRange a n) else s.fail Sts.NOT_PRESENT a := by
  have hcount : ¬ (n = 0 ∨ maxCount p < n) := by omega
  simp only [State.paramRead, ha, hcount, hr, ne_eq, not_true_eq_false, if_false]

theorem State.paramRead_badCount (ha : a % 4 = 0) (hn : n = 0 ∨ maxCount p < n) : s.paramRead p a n = s.fail Sts.BAD_PARAM 4 := by
  simp only [State.paramRead, ha, hn, ne_eq, not_true_eq_false, if_false, if_true]

/-- R345: the value that a read answers at an address, with the register that the variant has there. -/
def State.readBytes (e : Option RegHit × Nat) : List Byte :=
  match e.1 with
  | some h => leBytes 4 (s.readReg h e.2).toNat
  | none => leBytes 4 0

theorem State.readRange_eq : s.readRange a n =
    leBytes 2 n ++ (leBytes 2 (((List.range n).map fun i => (s.presentAt (a + 4 * i), a + 4 * i)).filter (·.1.isNone)).length ++
      ((List.range n).map fun i => s.readBytes (s.presentAt (a + 4 * i), a + 4 * i)).flatten) := by
  simp only [State.readRange, List.append_assoc, List.map_map]
  rfl

theorem State.readBytes_length (e : Option RegHit × Nat) : (s.readBytes e).length = 4 := by
  unfold State.readBytes
  split <;> exact leBytes_length ..

/-- The values are four bytes each, behind the two counts. -/
theorem State.readRange_length : (s.readRange a n).length = 4 + 4 * n := by
  simp [State.readRange_eq, List.length_flatten, Function.comp_def, State.readBytes_length]
  omega

theorem State.readRange_count (hn : n < 256 ^ 2) : fieldAt (s.readRange a n) 0 2 = n := by
  rw [State.readRange_eq]
  exact fieldAt_leBytes_append _ hn

/-- The first value is that of the register at the address. -/
theorem State.readRange_first {h : RegHit} (h1 : 1 ≤ n) (hr : s.presentAt a = some h) : fieldAt (s.readRange a n) 4 4 = (s.readReg h a).toNat := by
  obtain ⟨m, rfl⟩ : ∃ m, n = m + 1 := ⟨n - 1, by omega⟩
  rw [State.readRange_eq, fieldAt_append (o := 2) _ _ (by simp), fieldAt_append (o := 0) _ _ (by simp), List.range_succ_eq_map]
  simp only [List.map_cons, Nat.mul_zero, Nat.add_zero, List.flatten_cons, hr, State.readBytes]
  exact fieldAt_leBytes_append _ (s.readReg h a).isLt

end

/-- Settles O21: the checks of R345 in their order; the values that are answered are those of `readRange`. -/
theorem paramReadDecided : Obligations.ParamReadDecided := by
  intro c s p x t hadm hlen a n most
  have hmost : most = maxCount p := rfl
  have hrun : exec (.paramRead c) s = .next (State.concludes p x (t.paramRead p a n)) := by
    obtain rfl := hadm.cmd
    exact hadm.runs (if_pos hlen) _
  rw [hrun]
  refine ⟨fun ha => ?_, fun ha hn => ?_, fun ha h1 hn hr => ?_, fun h ha h1 hn hr hp => ?_, fun h ha h1 hn hr hp => ⟨?_, t.readRange_length, ?_, ?_⟩⟩
  · rw [State.paramRead, if_pos ha]
  · rw [t.paramRead_badCount ha hn]
  · rw [t.paramRead_noRegister ha h1 hn hr]
  · rw [t.paramRead_register ha h1 hn hr, hp, if_neg (by decide)]
  · rw [t.paramRead_register ha h1 hn hr, hp, if_pos rfl]
    rfl
  · exact t.readRange_count (by have : most ≤ 255 := by simp only [most]; split <;> omega
                                omega)
  · exact t.readRange_first h1 (by simp only [State.presentAt, hr, hp, if_true])

/-! ## `PARAM_WRITE` of several registers -/

/-- What the first `k` writes of a `PARAM_WRITE` leave. -/
def State.afterWrites (s : State) (p tag a : Nat) (v : Nat → Word) (k : Nat) : State :=
  (List.range k).foldl (fun u i => u.writeReg (a + 4 * i) (v i) p tag) s

theorem State.afterWrites_succ (s : State) (p tag a : Nat) (v : Nat → Word) (k : Nat) :
    s.afterWrites p tag a v (k + 1) = (s.afterWrites p tag a v k).writeReg (a + 4 * k) (v k) p tag := by
  simp only [State.afterWrites, List.range_succ, List.foldl_append, List.foldl_cons, List.foldl_nil]

/-- R345: past `k` writes that no rule refuses, those that are left go on in the state that they leave. -/
theorem State.writeAll_past {s : State} {p tag a n : Nat} {v : Nat → Word} {k : Nat} (hk : k ≤ n)
    (hf : ∀ i, i < k → (s.afterWrites p tag a v i).writeFault false (a + 4 * i) (v i) = none) :
    s.writeAll p tag 0 a ((List.range n).map v) = (s.afterWrites p tag a v k).writeAll p tag k (a + 4 * k) (((List.range n).map v).drop k) := by
  induction k with
  | zero => rfl
  | succ k ih =>
    rw [ih (by omega) fun i hi => hf i (by omega), List.drop_eq_getElem_cons (by simpa using hk), List.getElem_map, List.getElem_range,
      State.writeAll_stored _ _ _ _ (hf k (by omega)), ← State.afterWrites_succ]
    rfl

/-- Settles O23: the writes before the `k`th are stored one after the other; the `k`th is the end, or is refused. -/
theorem paramWriteInOrder : Obligations.ParamWriteInOrder := by
  intro c s p x t k n hadm a v after ha hn h1 hmost hlen hk hf
  have hrun : exec (.paramWrite c) s = .next (State.concludes p x (t.writeAll c.port c.tag.toNat 0 a ((List.range n).map v))) := by
    rw [hadm.exec_paramWrite hn.symm hlen]
    obtain rfl := hadm.cmd
    rw [t.paramWrite_aligned ha hn.symm h1 hmost]
    rfl
  rw [hrun, State.writeAll_past hk hf]
  refine ⟨?_, fun st hlt hst => ?_⟩
  · rintro rfl
    rw [List.drop_eq_nil_of_le (by simp), State.writeAll_done]
    rfl
  · rw [List.drop_eq_getElem_cons (by simpa using hlt), List.getElem_map, List.getElem_range]
    exact congrArg (fun r => Host.Outcome.next (State.concludes p x r)) (State.writeAll_refused _ _ _ _ hst)

/-! ## The rows that write one register -/

/-- Settles O24: each row is the `PARAM_WRITE` of its register, with the bit of its action. -/
theorem hostWritesRun : Obligations.HostWritesRun := by
  intro w s p x t runs
  have hruns {i : Instr} {a : Nat} {action : Word} (hi : exec i s = exec (.paramWrite (HostWrite.cmd w a (w.value ||| action))) s) (ha : a % 4 = 0)
      (h32 : a < 2 ^ 32) : runs i a action := fun h hf => hi.trans (h.hostWrite_runs ha h32 hf)
  refine ⟨hruns rfl rfl (by decide), hruns rfl rfl (by decide), hruns rfl rfl (by decide), hruns rfl rfl (by decide),
    fun a => hruns rfl (by omega) (by omega), fun a => hruns rfl (by omega) (by omega), fun z => hruns rfl (by omega) (by omega), hruns rfl rfl (by decide),
    fun c => hruns rfl (by omega) (by omega), hruns rfl rfl (by decide), hruns rfl rfl (by decide),
    hruns rfl rfl (by decide), hruns rfl rfl (by decide), fun l => hruns rfl (by omega) (by omega), fun l => hruns rfl (by omega) (by omega), hruns rfl rfl (by decide),
    hruns rfl rfl (by decide), hruns rfl rfl (by decide), fun m => ⟨hruns rfl (by omega) (by omega), hruns rfl (by omega) (by omega)⟩,
    fun m q => hruns rfl (by omega) (by omega), hruns rfl rfl (by decide), fun r => hruns rfl (by omega) (by omega)⟩

end Sys2Proof.Machine
end

section
/-!
PROOFS. Proofs/BulkReads.lean: the bulk reads (O28, R346).
-/

namespace Sys2Proof.Machine

open Sys2Proof

/-- R346: what the bulk read of the command `c` of port `p` answers. -/
def State.bulkRange (s : State) (c : Cmd) (p size total : Nat) (get : Nat → List Byte) : Reply :=
  let first := fieldAt c.params 0 4
  let n := min (fieldAt c.params 4 2) (min ((if p = 4 then 992 else 4064) / size) (total - first))
  if total ≤ first then s.fail Sts.BAD_PARAM 0 else ⟨s, 0, bulkReply first ((List.range n).map fun i => get (first + i)), none⟩

theorem State.bulkRead_eq (s : State) (p : Nat) (x : QCmd) (size total : Nat) (get : Nat → List Byte) :
    s.bulkRead p x size total get = s.bulkRange x.cmd p size total get := rfl

/-! ## `CAL_READ` -/

section

variable {s : State} (p : Nat) {x : QCmd}

/-- R423: from index 0 on, the working set. -/
theorem State.doCalRead_working (h : fieldAt x.cmd.params 0 4 < 812) : s.doCalRead p x = s.bulkRange x.cmd p 16 812 s.calEntry := by
  rw [State.doCalRead, if_pos h, State.bulkRead_eq]

/-- R423: nothing is between the working set and the record, nor behind the record. -/
theorem State.doCalRead_gap (h : 812 ≤ fieldAt x.cmd.params 0 4 ∧ fieldAt x.cmd.params 0 4 < 4096 ∨ 4908 ≤ fieldAt x.cmd.params 0 4) :
    s.doCalRead p x = s.fail Sts.BAD_PARAM 0 := by
  rw [State.doCalRead, if_neg (by omega)]
  rcases h with ⟨_, hlt⟩ | hge
  · rw [if_pos hlt]
  · rw [if_neg (by omega), if_pos hge]

/-- R425: a read of the flash record in which no copy is valid. -/
theorem State.doCalRead_noRecord (h1 : 4096 ≤ fieldAt x.cmd.params 0 4) (h2 : fieldAt x.cmd.params 0 4 < 4908) (hr : s.newestRec = none) :
    s.doCalRead p x = s.findTorn.fail Sts.CRC_FAIL := by
  rw [State.doCalRead, if_neg (by omega), if_neg (by omega), if_neg (by omega), hr]

/-- R423, R425: from index 4,096 on, the newest valid record. -/
theorem State.doCalRead_record {r : CalRec} (h1 : 4096 ≤ fieldAt x.cmd.params 0 4) (hr : s.newestRec = some r) :
    s.doCalRead p x = (if fieldAt x.cmd.params 0 4 < 4908 then s.findTorn else s).bulkRange x.cmd p 16 4908 fun i => r.entries.getD (i - 4096) [] := by
  by_cases h2 : fieldAt x.cmd.params 0 4 < 4908
  · rw [State.doCalRead, if_neg (by omega), if_neg (by omega), if_neg (by omega), hr, if_pos h2]
    rfl
  · rw [State.doCalRead_gap p (.inr (by omega)), if_neg h2, State.bulkRange, if_pos (by omega)]

end

/-- Settles O28: each row reads its own table by `bulkRange`; which table `CAL_READ` reads is decided by `FIRST`. -/
theorem bulkReadsRun : Obligations.BulkReadsRun := by
  intro c s p x t hlen first n bank u read
  have hread (v : State) (size total : Nat) (get : Nat → List Byte) : read v size total get = v.bulkRange c p size total get := rfl
  simp only [hread]
  refine ⟨fun h => ?sct, fun h => ?zone, fun h => ?tpl, fun h => ?track, fun h => ?cal⟩
  all_goals obtain rfl := h.cmd
  case sct => exact h.runs (if_pos hlen) _
  case zone => exact h.runs (if_pos hlen) _
  case tpl => exact h.runs (if_pos hlen) _
  case track => exact h.runs (if_pos hlen) _
  case cal =>
    have hrun : exec (.calRead x.cmd) s = .next (State.concludes p x (t.doCalRead p x)) := h.runs (if_pos hlen) _
    rw [hrun]
    refine ⟨fun hlt => ?_, fun r hge hr => ?_, fun hge hlt hr => ?_, fun hgap => ?_⟩
    · rw [State.doCalRead_working p hlt]
    · rw [State.doCalRead_record p hge hr]
    · rw [State.doCalRead_noRecord p hge hlt hr]
    · rw [State.doCalRead_gap p hgap]

end Sys2Proof.Machine
end

section
/-!
PROOFS. Proofs/Commits.lean: the commits of double-banked tables (O27, R347, R348).
-/

namespace Sys2Proof.Machine

open Sys2Proof

/-! ## The checks -/

/-- R347: how a commit of the command `c` ends whose shadow bank holds `entry`; `y` is its end where the checks pass. -/
def State.committed (s : State) (c : Cmd) (pending countOk : Bool) (entry : Nat → List Byte) (y : Reply) : Reply :=
  if pending = true then s.fail Sts.TABLE_LOCKED
  else if countOk = false then s.fail Sts.BAD_PARAM 0
  else if crc32c ((List.range (fieldAt c.params 0 4)).map entry).flatten ≠ fieldAt c.params 4 4 then s.fail Sts.CRC_FAIL
  else y

theorem State.commitCheck_eq (s : State) (x : QCmd) (pending : Bool) (countOk : Nat → Bool) (get : Nat → List Byte) (go : Nat → Reply) :
    s.commitCheck x pending countOk get go = s.committed x.cmd pending (countOk (fieldAt x.cmd.params 0 4)) get (go (fieldAt x.cmd.params 0 4)) := by
  simp only [State.commitCheck, State.committed, Bool.not_eq_true']

theorem State.committed_passes (s : State) {c : Cmd} {pending countOk : Bool} {entry : Nat → List Byte} (h : pending = false ∧ countOk = true ∧
    crc32c ((List.range (fieldAt c.params 0 4)).map entry).flatten = fieldAt c.params 4 4) (y : Reply) : s.committed c pending countOk entry y = y := by
  obtain ⟨rfl, rfl, hcrc⟩ := h
  simp only [State.committed, hcrc, Bool.false_eq_true, Bool.true_eq_false, if_false, ne_eq, not_true_eq_false]

/-! ## Swaps leave the other registers -/

theorem State.rd_ite {p : Prop} [Decidable p] {t u : State} {a : Nat} {w : Word} (ht : t.rd a = w) (hu : u.rd a = w) : (if p then t else u).rd a = w := by
  split
  · exact ht
  · exact hu

theorem State.rd_missTrigger (s : State) {a : Nat} (ha : a < Reg.CAP_CTRL) (slot time : Nat) : (s.missTrigger slot time).rd a = s.rd a :=
  have hne {b : Nat} (hb : Reg.CAP_CTRL ≤ b) : a ≠ b := Nat.ne_of_lt (Nat.lt_of_lt_of_le ha hb)
  (State.rd_setCapSlot _ (hne (by decide)) ..).trans ((State.rd_flag_ne _ (hne (by decide)) 1).trans (s.rd_inc_ne (hne (by decide))))

/-- R283: a trigger writes on the page of the capture engine alone. -/
theorem State.rd_trigger (s : State) {a : Nat} (ha : a < Reg.CAP_CTRL) (src detail time : Nat) : (s.trigger src detail time).rd a = s.rd a := by
  have hne {b : Nat} (hb : Reg.CAP_CTRL ≤ b) : a ≠ b := Nat.ne_of_lt (Nat.lt_of_lt_of_le ha hb)
  unfold State.trigger
  extract_lets short l u x v _ w _ y t
  have hu : u.rd a = s.rd a := State.rd_ite (s.rd_flag_ne (hne (by decide)) 0) rfl
  have hw : w.rd a = s.rd a := ((v.setCap _).rd_setCapSt (hne (by decide)) 3).trans ((v.rd_setCap _ a).trans ((u.rd_setCapSlot (hne (by decide)) ..).trans hu))
  have ht : t.rd a = s.rd a := ((s.setCapSlot _ _).rd_missTrigger ha ..).trans (s.rd_setCapSlot (hne (by decide)) ..)
  have hmiss := s.rd_missTrigger ha
  have hsync (y : State) (z : Sync) : ({ y with sync := z } : State).rd a = y.rd a := rfl
  exact State.rd_ite rfl (State.rd_ite (hmiss ..) (State.rd_ite (State.rd_ite ((hsync ..).trans hw) hw) (State.rd_ite (State.rd_ite ((hsync ..).trans ht) ht) (hmiss ..))))

/-- R251: a zone that enters a state writes its own register, the sticky flags and the page of the capture engine. -/
theorem State.rd_enterZone (s : State) {a : Nat} (ha : a < Reg.ZONE_FLAGS) (i st : Nat) : (s.enterZone i st).rd a = s.rd a := by
  have hz : a ≠ Reg.ZONE_STATE i := by simp only [Reg.ZONE_STATE, Reg.ZONE_FLAGS] at *; omega
  have hc : a < Reg.CAP_CTRL := Nat.lt_trans ha (by decide)
  unfold State.enterZone
  extract_lets u
  have hu : u.rd a = s.rd a := (State.rd_setF_ne _ hz ..).trans (s.rd_setF_ne hz ..)
  have htrig (k : Nat) : ((u.flag Reg.ZONE_FLAGS k).trigger 2 i u.time.dev).rd a = s.rd a :=
    ((State.rd_trigger _ hc ..).trans (u.rd_flag_ne (Nat.ne_of_lt ha) k)).trans hu
  split
  · rfl
  split
  · exact htrig 0
  split
  · exact htrig 1
  · exact hu

/-- R251: events tell of the zones that no entry holds; nothing else is done about them. -/
theorem State.undefinedZones_events (s : State) : s.Events s.undefinedZones :=
  State.each_events _ _ (fun _ _ => State.raise_events ..) s

/-! ## The status register of a double-banked table: bit 0 the active bank, bit 1 the pending commit, bits 15 to 8 the code -/

/-- The field of one bit and the bit. -/
theorem State.f_zero_eq (s : State) (a : Nat) : s.f a 0 0 = b2n (s.bit a 0) := by
  have hlt : s.f a 0 0 < 2 := bitsOf_lt (n := 1) (s.rd a) rfl
  have hbit : s.bit a 0 = (s.f a 0 0 == 1) := getLsbD_eq_bitsOf ..
  rw [hbit]
  generalize s.f a 0 0 = v at hlt ⊢
  interval_cases v <;> rfl

section

variable (s : State) (a : Nat)

/-- The bank swaps: the other bank is active, no commit pends, and the code stands. -/
theorem State.bankSwap_setBit : ((s.setBit a 0 (!s.bit a 0)).setBit a 1 false).f a 15 8 = s.f a 15 8 ∧
    ((s.setBit a 0 (!s.bit a 0)).setBit a 1 false).bit a 1 = false ∧ ((s.setBit a 0 (!s.bit a 0)).setBit a 1 false).f a 0 0 = 1 - s.f a 0 0 := by
  refine ⟨?_, State.bit_setBit_self _ _ (by decide) _, ?_⟩
  · rw [State.f_setBit_off _ _ (by decide) (by decide), State.f_setBit_off _ _ (by decide) (by decide)]
  · rw [State.f_zero_eq, State.bit_setBit_off _ _ (by decide) (by decide), State.bit_setBit_self _ _ (by decide), State.f_zero_eq]
    cases s.bit a 0 <;> rfl

theorem State.bankSwap_setF : ((s.setF a 0 0 (1 - s.f a 0 0)).setBit a 1 false).f a 15 8 = s.f a 15 8 ∧
    ((s.setF a 0 0 (1 - s.f a 0 0)).setBit a 1 false).bit a 1 = false ∧ ((s.setF a 0 0 (1 - s.f a 0 0)).setBit a 1 false).f a 0 0 = 1 - s.f a 0 0 := by
  refine ⟨?_, State.bit_setBit_self _ _ (by decide) _, ?_⟩
  · rw [State.f_setBit_off _ _ (by decide) (by decide), State.f_setF_off _ _ (by decide) (by decide) (by decide)]
  · rw [State.f_setBit_off _ _ (by decide) (by decide), State.f_setF_self _ _ (by decide) (by decide)]
    exact Nat.mod_eq_of_lt (by omega)

/-- A commit that is accepted pends, with the code 0, and the bank stands. -/
theorem State.bankPend : ((s.setF a 15 8 0).setBit a 1 true).f a 15 8 = 0 ∧ ((s.setF a 15 8 0).setBit a 1 true).bit a 1 = true ∧
    ((s.setF a 15 8 0).setBit a 1 true).f a 0 0 = s.f a 0 0 := by
  refine ⟨?_, State.bit_setBit_self _ _ (by decide) _, ?_⟩
  · rw [State.f_setBit_off _ _ (by decide) (by decide), State.f_setF_self _ _ (by decide) (by decide)]
    rfl
  · rw [State.f_setBit_off _ _ (by decide) (by decide), State.f_setF_off _ _ (by decide) (by decide) (by decide)]

end

/-! ## The Scan Cell Table (R42) -/

/-- R42: the banks swap: the other one is active, with the committed count, and the code of the commit stands. -/
theorem State.swapSct_effects (s : State) : (s.swapSct).f Reg.SCT_STATUS 15 8 = s.f Reg.SCT_STATUS 15 8 ∧ (s.swapSct).bit Reg.SCT_STATUS 1 = false ∧
    (s.swapSct).sctActive = 1 - s.sctActive ∧ (s.swapSct).r Reg.SCT_ACTIVE_COUNT = s.plan.commitCount % 2 ^ 32 ∧ (s.swapSct).plan.commitCount = s.plan.commitCount := by
  unfold State.swapSct
  extract_lets u _ v
  have hraise := v.resetExpect.raise_events Ev.SCT_SWAPPED (leBytes 4 v.frameNo)
  have hrd : u.rd Reg.SCT_STATUS = ((s.setBit Reg.SCT_STATUS 0 (!s.bit Reg.SCT_STATUS 0)).setBit Reg.SCT_STATUS 1 false).rd Reg.SCT_STATUS :=
    State.rd_setR_ne _ (by decide) _
  obtain ⟨hcode, hpend, hbank⟩ := s.bankSwap_setBit Reg.SCT_STATUS
  refine ⟨?_, ?_, ?_, ?_, ?_⟩
  · exact (hraise.f (by decide) 15 8).trans ((State.f_congr hrd 15 8).trans hcode)
  · exact (hraise.bit (by decide) 1).trans ((State.bit_congr hrd 1).trans hpend)
  · exact (hraise.f (by decide) 0 0).trans ((State.f_congr hrd 0 0).trans hbank)
  · exact (hraise.r (by decide)).trans (State.r_setR ..)
  · obtain ⟨_, _, _, heq⟩ := hraise.frame
    rw [heq]
    rfl

/-- R41, R42: a commit that is accepted: it pends, or in STANDBY the banks swap. -/
theorem State.commitSct_accepted {s : State} {n : Nat} (hv : s.sctValidate n = none) (hn : n ≤ 65536) :
    ∃ u : State, s.commitSct n = u.ok ∧ u.f Reg.SCT_STATUS 15 8 = 0 ∧ u.plan.commitCount = n ∧
      (s.dev ≠ .standby → u.bit Reg.SCT_STATUS 1 = true ∧ u.sctActive = s.sctActive) ∧
      (s.dev = .standby → u.bit Reg.SCT_STATUS 1 = false ∧ u.sctActive = 1 - s.sctActive ∧ u.r Reg.SCT_ACTIVE_COUNT = n) := by
  obtain ⟨hcode, hpend, hbank⟩ := s.bankPend Reg.SCT_STATUS
  unfold State.commitSct
  rw [hv]
  extract_lets u _ v
  refine ⟨_, rfl, ?_⟩
  have hdev : v.dev = s.dev := rfl
  by_cases hs : s.dev = .standby
  · rw [if_pos (hdev.trans hs)]
    obtain ⟨hcode', hpend', hbank', hcount, hn'⟩ := v.swapSct_effects
    have hev := v.swapSct.undefinedZones_events
    refine ⟨?_, ?_, absurd hs, fun _ => ⟨?_, ?_, ?_⟩⟩
    · exact (hev.f (by decide) 15 8).trans (hcode'.trans hcode)
    · obtain ⟨_, _, _, heq⟩ := hev.frame
      exact (congrArg (·.plan.commitCount) heq).trans hn'
    · exact (hev.bit (by decide) 1).trans hpend'
    · exact (hev.f (by decide) 0 0).trans (hbank'.trans (congrArg (1 - ·) hbank))
    · exact (hev.r (by decide)).trans (hcount.trans (Nat.mod_eq_of_lt (Nat.lt_of_le_of_lt hn (by decide))))
  · rw [if_neg (hdev ▸ hs)]
    exact ⟨hcode, rfl, fun _ => ⟨hpend, hbank⟩, fun h => absurd h hs⟩

/-- R42: a commit that is rejected leaves its code and the index, and its event follows the reply. -/
theorem State.commitSct_rejected {s : State} {n code i : Nat} (hv : s.sctValidate n = some (code, i)) :
    ∃ u : State, s.commitSct n = { u.fail Sts.TABLE_REJECTED with after := some (.event Ev.SCT_REJECTED (leBytes 1 code ++ leBytes 1 0 ++ leBytes 2 i)) } ∧
      u.f Reg.SCT_STATUS 15 8 = code % 256 ∧ u.r Reg.SCT_REJECT_INDEX = i % 2 ^ 32 ∧ u.sctActive = s.sctActive := by
  unfold State.commitSct
  rw [hv]
  refine ⟨_, rfl, ?_, State.r_setR .., ?_⟩
  · exact (State.f_congr (State.rd_setR_ne _ (by decide) _) 15 8).trans (State.f_setF_self _ _ (by decide) (by decide) _)
  · exact (State.f_congr (State.rd_setR_ne _ (by decide) _) 0 0).trans (State.f_setF_off _ _ (by decide) (by decide) (by decide) _)

/-! ## The zones (R251) -/

theorem State.rd_setZoneBank (s : State) (b : Nat) (t : Tbl (List Byte)) (a : Nat) : (s.setZoneBank b t).rd a = s.rd a := by
  unfold State.setZoneBank
  split <;> rfl

/-- R251: of the status of the table a swap changes the bank and the pending commit. -/
theorem State.swapZones_effects (s : State) : (s.swapZones).f Reg.ZONE_TABLE_STATUS 15 8 = s.f Reg.ZONE_TABLE_STATUS 15 8 ∧
    (s.swapZones).bit Reg.ZONE_TABLE_STATUS 1 = false ∧ (s.swapZones).zoneActive = 1 - s.zoneActive := by
  obtain ⟨hcode, hpend, hbank⟩ := s.bankSwap_setF Reg.ZONE_TABLE_STATUS
  have hrd : (s.swapZones).rd Reg.ZONE_TABLE_STATUS =
      ((s.setF Reg.ZONE_TABLE_STATUS 0 0 (1 - s.zoneActive)).setBit Reg.ZONE_TABLE_STATUS 1 false).rd Reg.ZONE_TABLE_STATUS := by
    unfold State.swapZones
    extract_lets old was now u v
    refine (State.rd_each _ _ _ _ fun t i => ?_).trans (u.rd_setZoneBank ..)
    have hzone (k : Nat) : (t.enterZone i k).rd Reg.ZONE_TABLE_STATUS = t.rd Reg.ZONE_TABLE_STATUS := t.rd_enterZone (by decide) i k
    dsimp only
    split
    · rfl
    split
    · exact hzone 0
    split
    · exact hzone 1
    · rfl
  exact ⟨(State.f_congr hrd 15 8).trans hcode, (State.bit_congr hrd 1).trans hpend, (State.f_congr hrd 0 0).trans hbank⟩

/-- R251: a commit that is accepted: it pends, or in STANDBY the banks swap. -/
theorem State.commitZones_accepted {s : State} (hv : s.zoneValidate = none) :
    ∃ u : State, s.commitZones = u.ok ∧ u.f Reg.ZONE_TABLE_STATUS 15 8 = 0 ∧
      (s.dev ≠ .standby → u.bit Reg.ZONE_TABLE_STATUS 1 = true ∧ u.zoneActive = s.zoneActive) ∧
      (s.dev = .standby → u.bit Reg.ZONE_TABLE_STATUS 1 = false ∧ u.zoneActive = 1 - s.zoneActive) := by
  obtain ⟨hcode, hpend, hbank⟩ := s.bankPend Reg.ZONE_TABLE_STATUS
  unfold State.commitZones
  rw [hv]
  extract_lets u
  refine ⟨_, rfl, ?_⟩
  have hdev : u.dev = s.dev := rfl
  by_cases hs : s.dev = .standby
  · rw [if_pos (hdev.trans hs)]
    obtain ⟨hcode', hpend', hbank'⟩ := u.swapZones_effects
    have hev := u.swapZones.undefinedZones_events
    refine ⟨?_, absurd hs, fun _ => ⟨?_, ?_⟩⟩
    · exact (hev.f (by decide) 15 8).trans (hcode'.trans hcode)
    · exact (hev.bit (by decide) 1).trans hpend'
    · exact (hev.f (by decide) 0 0).trans (hbank'.trans (congrArg (1 - ·) hbank))
  · rw [if_neg (hdev ▸ hs)]
    exact ⟨hcode, fun _ => ⟨hpend, hbank⟩, fun h => absurd h hs⟩

/-- R251: a commit that is rejected leaves its code and the index, and its event follows the reply. -/
theorem State.commitZones_rejected {s : State} {code i : Nat} (hv : s.zoneValidate = some (code, i)) :
    ∃ u : State, s.commitZones = { u.fail Sts.TABLE_REJECTED with after := some (.event Ev.ZONE_REJECTED (leBytes 1 code ++ leBytes 1 0 ++ leBytes 2 i)) } ∧
      u.f Reg.ZONE_TABLE_STATUS 15 8 = code % 256 ∧ u.f Reg.ZONE_TABLE_STATUS 21 16 = i % 64 ∧ u.zoneActive = s.zoneActive := by
  unfold State.commitZones
  rw [hv]
  refine ⟨_, rfl, ?_, State.f_setF_self _ _ (by decide) (by decide) _, ?_⟩
  · exact (State.f_setF_off _ _ (by decide) (by decide) (by decide) _).trans (State.f_setF_self _ _ (by decide) (by decide) _)
  · exact (State.f_setF_off _ _ (by decide) (by decide) (by decide) _).trans (State.f_setF_off _ _ (by decide) (by decide) (by decide) _)

/-! ## Templates (R237) -/

/-- R237: a commit of the templates pends, or in STANDBY the banks swap. -/
def State.commitTpl (s : State) : State :=
  if s.dev = .standby then (s.setBit Reg.TPL_STATUS 1 true).swapTpl else s.setBit Reg.TPL_STATUS 1 true

theorem State.commitTpl_effects (s : State) :
    (s.dev ≠ .standby → s.commitTpl.bit Reg.TPL_STATUS 1 = true ∧ s.commitTpl.bit Reg.TPL_STATUS 0 = s.bit Reg.TPL_STATUS 0) ∧
    (s.dev = .standby → s.commitTpl.bit Reg.TPL_STATUS 1 = false ∧ s.commitTpl.bit Reg.TPL_STATUS 0 = !s.bit Reg.TPL_STATUS 0) := by
  have hbank : (s.setBit Reg.TPL_STATUS 1 true).bit Reg.TPL_STATUS 0 = s.bit Reg.TPL_STATUS 0 := State.bit_setBit_off _ _ (by decide) (by decide) _
  refine ⟨fun hs => ?_, fun hs => ?_⟩
  · rw [State.commitTpl, if_neg hs]
    exact ⟨State.bit_setBit_self _ _ (by decide) _, hbank⟩
  · rw [State.commitTpl, if_pos hs, State.swapTpl]
    refine ⟨State.bit_setBit_self _ _ (by decide) _, ?_⟩
    rw [State.bit_setBit_off _ _ (by decide) (by decide), State.bit_setBit_self _ _ (by decide), hbank]

/-! ## The statement -/

section

variable {c : Cmd} {s t : State} {p : Nat} {x : QCmd} (hlen : c.length = 8)

include hlen

theorem State.Admits.sctCommit_runs (h : s.Admits 0x0301 c p x t) : exec (.sctCommit c) s = .next (State.concludes p x
    (t.committed c (t.bit Reg.SCT_STATUS 1) (decide (fieldAt c.params 0 4 ≤ 65536)) (t.sctEntry (1 - t.sctActive)) (t.commitSct (fieldAt c.params 0 4)))) := by
  have hrun : exec (.sctCommit c) s = .next (State.concludes p x (t.doSctCommit p x)) := h.runs (if_pos hlen) _
  rw [hrun, State.doSctCommit, State.commitCheck_eq, h.cmd]

theorem State.Admits.zoneCommit_runs (h : s.Admits 0x0309 c p x t) : exec (.zoneCommit c) s = .next (State.concludes p x
    (t.committed c (t.bit Reg.ZONE_TABLE_STATUS 1) (fieldAt c.params 0 4 == 64) ((t.zoneBank (1 - t.zoneActive)).get blank32) t.commitZones)) := by
  have hrun : exec (.zoneCommit c) s = .next (State.concludes p x (t.doZoneCommit p x)) := h.runs (if_pos hlen) _
  rw [hrun, State.doZoneCommit, State.commitCheck_eq, h.cmd]

theorem State.Admits.templateCommit_runs (h : s.Admits 0x0606 c p x t) : exec (.templateCommit c) s = .next (State.concludes p x
    (t.committed c (t.bit Reg.TPL_STATUS 1) (fieldAt c.params 0 4 == 16) ((t.tplBank (1 - t.f Reg.TPL_STATUS 0 0)).get blankTpl) t.commitTpl.ok)) := by
  have hrun : exec (.templateCommit c) s = .next (State.concludes p x (t.doTemplateCommit p x)) := h.runs (if_pos hlen) _
  rw [hrun, State.doTemplateCommit, State.commitCheck_eq, h.cmd]
  rfl

end

/-- Settles O27: each row checks, and then commits; what each commit leaves is said above of its own table. -/
theorem commitsDecided : Obligations.CommitsDecided := by
  intro c s p x t hlen n checked
  have hchecked (pending countOk : Bool) (entry : Nat → List Byte) (y : Reply) : checked pending countOk entry y = t.committed c pending countOk entry y := rfl
  simp only [hchecked]
  refine ⟨fun h => h.sctCommit_runs hlen, fun h => h.zoneCommit_runs hlen, fun h => h.templateCommit_runs hlen, ?_⟩
  refine ⟨fun h hp => ?_, fun h hp => ?_, fun h hp => ?_⟩
  · rw [h.sctCommit_runs hlen, t.committed_passes hp]
    refine ⟨fun hv => ?_, fun code i hv => ?_⟩
    · obtain ⟨u, hu, heff⟩ := State.commitSct_accepted hv (of_decide_eq_true hp.2.1)
      exact ⟨u, hu ▸ rfl, heff⟩
    · obtain ⟨u, hu, heff⟩ := State.commitSct_rejected hv
      exact ⟨u, hu ▸ rfl, heff⟩
  · rw [h.zoneCommit_runs hlen, t.committed_passes hp]
    refine ⟨fun hv => ?_, fun code i hv => ?_⟩
    · obtain ⟨u, hu, heff⟩ := State.commitZones_accepted hv
      exact ⟨u, hu ▸ rfl, heff⟩
    · obtain ⟨u, hu, heff⟩ := State.commitZones_rejected hv
      exact ⟨u, hu ▸ rfl, heff⟩
  · rw [h.templateCommit_runs hlen, t.committed_passes hp]
    exact ⟨t.commitTpl, rfl, t.commitTpl_effects⟩

end Sys2Proof.Machine
end

section
/-!
PROOFS. Proofs/ResetDevice.lean: `RESET_DEVICE`, its expiry, and what a reset leaves (O19, R356).
-/

namespace Sys2Proof.Machine

open Sys2Proof

/-! ## What the recorder does before a reset -/

/-- `t` is `s` but for the recorder and registers. -/
def State.Logs (s t : State) : Prop := ∃ x r, t = { s with recorder := x, regs := r }

namespace State.Logs

variable {s t u : State}

theorem refl (s : State) : s.Logs s := ⟨s.recorder, s.regs, rfl⟩

theorem trans (h : s.Logs t) (g : t.Logs u) : s.Logs u := by
  obtain ⟨x, r, rfl⟩ := h
  obtain ⟨y, q, rfl⟩ := g
  exact ⟨y, q, rfl⟩

theorem sys (h : s.Logs t) : t.sys = s.sys := by
  obtain ⟨_, _, rfl⟩ := h
  rfl

theorem setRec (s : State) (x : Recorder) : s.Logs (s.setRec x) := ⟨x, s.regs, rfl⟩

theorem wr (s : State) (a : Nat) (v : Word) : s.Logs (s.wr a v) := ⟨s.recorder, _, rfl⟩

theorem when (s : State) (b : Bool) {g : State → State} (h : s.Logs (g s)) : s.Logs (s.when b g) := by
  unfold State.when
  split
  · exact h
  · exact refl s

theorem writeRec (s : State) (code arg timeUs : Nat) : s.Logs (s.writeRec code arg timeUs) :=
  ((when s _ (setRec ..)).trans (setRec ..)).trans (wr ..)

theorem recWriter (s : State) : s.Logs s.recWriter := by
  unfold State.recWriter
  split
  · exact (setRec ..).trans (writeRec ..)
  · split
    · exact refl s
    · next p q _ =>
      have hw : s.Logs ((s.setRec { s.recorder with queue := q }).writeRec p.code p.arg p.timeUs) := (setRec ..).trans (writeRec ..)
      dsimp only
      split
      · exact hw.trans ((setRec ..).trans (writeRec ..))
      · exact hw

theorem drainRec (s : State) (n : Nat) : s.Logs (State.drainRec n s) := by
  induction n generalizing s with
  | zero => exact refl s
  | succ n ih =>
    unfold State.drainRec
    split
    · exact refl s
    · exact (recWriter s).trans (ih _)

theorem abandonFlush (s : State) : s.Logs s.abandonFlush := by
  unfold State.abandonFlush
  extract_lets u v
  have hu : s.Logs u := by
    show s.Logs (match s.recorder.flush with | none => s | some f => s.when f.begun.isSome fun s => s.setRecSlot f.slot (f.slotAt (s.pagesDone f) true))
    split
    · exact refl s
    · exact when s _ (setRec ..)
  have hv : u.Logs v := by
    show u.Logs (match u.recorder.erasing with | none => u | some k => u.setRecSlot k (u.recSlot k).spoilt)
    split
    · exact refl u
    · exact setRec ..
  exact (hu.trans hv).trans ((setRec ..).trans (((wr ..).trans (wr ..)).trans (wr ..)))

end State.Logs

/-! ## What is cut before a reset -/

/-- `t` has the operating state, the pin `FAULT_IN`, the fuses and the enrolment under way of `s`. -/
structure State.Cut (s t : State) : Prop where
  dev : t.dev = s.dev
  faultLow : t.emit.faultLow = s.emit.faultLow
  fuses : t.boot.fuses = s.boot.fuses
  enroll : t.boot.enroll = s.boot.enroll

namespace State.Cut

variable {s t u : State}

theorem refl (s : State) : s.Cut s := ⟨rfl, rfl, rfl, rfl⟩

theorem trans (h : s.Cut t) (g : t.Cut u) : s.Cut u :=
  ⟨g.dev.trans h.dev, g.faultLow.trans h.faultLow, g.fuses.trans h.fuses, g.enroll.trans h.enroll⟩

theorem when (s : State) (b : Bool) {g : State → State} (h : s.Cut (g s)) : s.Cut (s.when b g) := by
  unfold State.when
  split
  · exact h
  · exact refl s

theorem of_logs (h : s.Logs t) : s.Cut t := by
  obtain ⟨_, _, rfl⟩ := h
  exact ⟨rfl, rfl, rfl, rfl⟩

theorem bootDirectory (s : State) : s.Cut s.bootDirectory.1 :=
  have hdir : s.Cut s.beginBoot.1 := ⟨rfl, rfl, rfl, rfl⟩
  ((hdir.trans (when _ _ ⟨rfl, rfl, rfl, rfl⟩)).trans (when _ _ ⟨rfl, rfl, rfl, rfl⟩)).trans ⟨rfl, rfl, rfl, rfl⟩

theorem cutBoot (s : State) : s.Cut s.cutBoot := by
  have hfresh : s.Cut s.fresh.2 := ⟨rfl, rfl, rfl, rfl⟩
  unfold State.cutBoot
  split
  · exact refl s
  split
  · exact bootDirectory s
  dsimp only
  split
  · exact hfresh.trans (bootDirectory _)
  · exact hfresh

theorem putCopy (s : State) (slot : Nat) (r : CalRec) (ok : Bool) : s.Cut (s.putCopy slot r ok) := by
  cases ok <;> exact ⟨rfl, rfl, rfl, rfl⟩

theorem finish (s : State) (opcode status detail : Nat) : s.Cut (s.finish opcode status detail) := by
  obtain ⟨_, _, _, _, h⟩ := s.finish_frame opcode status detail
  rw [h]
  exact ⟨rfl, rfl, rfl, rfl⟩

theorem abortSave (s : State) : s.Cut s.abortSave := by
  unfold State.abortSave
  split
  · exact refl s
  · extract_lets fr u _ v w
    have hfr : s.Cut fr.2 := ⟨rfl, rfl, rfl, rfl⟩
    have hu : s.Cut u := (hfr.trans (putCopy ..)).trans (putCopy ..)
    clear_value u
    have hw : u.Cut w := ⟨rfl, rfl, rfl, rfl⟩
    exact (hu.trans hw).trans (finish w ..)

end State.Cut

/-- R440: where no enrolment goes on, no fuse programming is cut. -/
theorem State.cutFuses_of_none {s : State} (h : s.boot.enroll = none) : s.cutFuses = s := by
  unfold State.cutFuses
  rw [h]

/-- Whatever becomes of the fuses, the operating state and the pin `FAULT_IN` stand. -/
theorem State.cutFuses_stands (s : State) : s.cutFuses.dev = s.dev ∧ s.cutFuses.emit.faultLow = s.emit.faultLow := by
  unfold State.cutFuses
  split
  · exact ⟨rfl, rfl⟩
  · dsimp only
    split <;> exact ⟨rfl, rfl⟩

/-! ## The reset -/

/-- R457: the entry of the transition: the state before it is the one left, and the pin and the fuses stand. -/
theorem State.recordReset_effects (s : State) (cause : Nat) : (s.dev ≠ .reset → (s.recordReset cause).sys.prev = s.dev) ∧
    (s.recordReset cause).emit.faultLow = s.emit.faultLow ∧ (s.recordReset cause).boot.fuses = s.boot.fuses := by
  unfold State.recordReset
  split
  · next h => exact ⟨fun hne => absurd h hne, rfl, rfl⟩
  · extract_lets old u _ v w
    have hu : s.Logs u := State.Logs.drainRec s 64
    have hw : v.Logs (w.when (decide (w.power.rail 1 < 820000)) State.loseRing) := (State.Logs.writeRec ..).trans (State.Logs.when w _ (State.Logs.setRec ..))
    have hsys := hw.sys
    obtain ⟨-, hlow, hfuses, -⟩ := State.Cut.of_logs hw
    obtain ⟨-, hlow', hfuses', -⟩ := State.Cut.of_logs hu
    exact ⟨fun _ => congrArg Sys.prev hsys, hlow.trans hlow', hfuses.trans hfuses'⟩

/-- Before a reset nothing drives `LASER_EN`. -/
theorem laserEn_regReset (v : Variant) : (regReset v Reg.EMIT_STATUS).getLsbD 0 = false := by
  cases v <;> rfl

section

variable (s : State)

/-- R16, R472: every register is at its reset value, but for the code of the cause and `FAULT_IN`, which shows its pin. -/
theorem State.atReset_registers : s.atReset.f Reg.SYS_STATE 15 8 = s.sys.cause % 2 ^ 8 ∧
    (∀ a, a ≠ Reg.SYS_STATE → a ≠ Reg.EMIT_STATUS → s.atReset.rd a = regReset s.variant a) ∧ s.atReset.bit Reg.EMIT_STATUS 5 = s.emit.faultLow.isSome := by
  unfold State.atReset State.syncFaultIn
  extract_lets _ _ r
  have hrd (a : Nat) : r.rd a = regReset s.variant a := rfl
  have hlaser : (r.setF Reg.SYS_STATE 15 8 s.sys.cause).laserEn = false := by
    unfold State.laserEn
    rw [State.bit_congr (State.rd_setF_ne _ (by decide) ..), State.bit, hrd]
    exact laserEn_regReset _
  refine ⟨?_, fun a hs he => ?_, ?_⟩
  · rw [State.f_congr (State.rd_setBit_ne _ (by decide) ..), State.f_setF_self _ _ (by decide) (by decide)]
  · exact (State.rd_setBit_ne _ he ..).trans ((State.rd_setF_ne _ hs ..).trans (hrd a))
  · rw [State.bit_setBit_self _ _ (by decide), hlaser]
    exact Bool.and_true _

/-- R416, R450: what goes into a reset, once what was being programmed is abandoned. -/
theorem State.cut_effects : s.cutBoot.cutFuses.abandonFlush.abortSave.dev = s.dev ∧ s.cutBoot.cutFuses.abandonFlush.abortSave.emit.faultLow = s.emit.faultLow ∧
    (s.boot.enroll = none → s.cutBoot.cutFuses.abandonFlush.abortSave.boot.fuses = s.boot.fuses) := by
  have hboot := State.Cut.cutBoot s
  obtain ⟨hdev, hlow⟩ := s.cutBoot.cutFuses_stands
  have hrest : s.cutBoot.cutFuses.Cut s.cutBoot.cutFuses.abandonFlush.abortSave := (State.Cut.of_logs (State.Logs.abandonFlush _)).trans (State.Cut.abortSave _)
  refine ⟨hrest.dev.trans (hdev.trans hboot.dev), hrest.faultLow.trans (hlow.trans hboot.faultLow), fun h => ?_⟩
  rw [hrest.fuses, State.cutFuses_of_none (hboot.enroll.trans h), hboot.fuses]

/-- The state that a reset with a cause finds. -/
def State.intoReset (s : State) (cause : Nat) : State :=
  { (s.cutBoot.cutFuses.abandonFlush.abortSave).recordReset cause with sys := { ((s.cutBoot.cutFuses.abandonFlush.abortSave).recordReset cause).sys with cause } }

theorem State.enterReset_eq (cause : Nat) : s.enterReset cause = (s.intoReset cause).atReset := rfl

/-- What a reset with a cause leaves. -/
theorem State.enterReset_effects {cause : Nat} : (s.enterReset cause).dev = .reset ∧ (s.dev ≠ .reset → (s.enterReset cause).sys.prev = s.dev) ∧
    (s.enterReset cause).sys.cause = cause ∧ (s.enterReset cause).f Reg.SYS_STATE 15 8 = cause % 2 ^ 8 ∧ (s.enterReset cause).sys.cmds = [] ∧
    (∀ k, (s.enterReset cause).port k = {}) ∧ (s.boot.enroll = none → (s.enterReset cause).boot.fuses = s.boot.fuses) ∧
    (s.enterReset cause).power = s.power ∧ (s.enterReset cause).tap = s.tap ∧ (s.enterReset cause).now = s.now ∧ (s.enterReset cause).variant = s.variant ∧
    (∀ a, a ≠ Reg.SYS_STATE → a ≠ Reg.EMIT_STATUS → (s.enterReset cause).rd a = regReset s.variant a) ∧
    (s.enterReset cause).bit Reg.EMIT_STATUS 5 = s.emit.faultLow.isSome := by
  have hkeeps := State.enterReset_keeps (b := { halt := false }) cause rfl (Keeps.refl _ s)
  rw [State.enterReset_eq] at hkeeps ⊢
  obtain ⟨hnow, hpower, htap⟩ := hkeeps.balls rfl
  have hvariant := hkeeps.variant
  obtain ⟨hdev, hlow, hfuses⟩ := s.cut_effects
  obtain ⟨hprev, hlow', hfuses'⟩ := (s.cutBoot.cutFuses.abandonFlush.abortSave).recordReset_effects cause
  obtain ⟨hcode, hrd, hfault⟩ := (s.intoReset cause).atReset_registers
  exact ⟨rfl, fun h => (hprev (hdev ▸ h)).trans hdev, rfl, hcode, rfl, fun _ => rfl, fun h => hfuses'.trans (hfuses h), hpower, htap, hnow, hvariant,
    fun a hs he => (hrd a hs he).trans (congrArg (regReset · a) hvariant), hfault.trans (congrArg Option.isSome (hlow'.trans hlow))⟩

end

/-- Settles O19: the command sets the instant of the reset alone; at that instant the reset is made, with its cause. -/
theorem resetDeviceRuns : Obligations.ResetDeviceRuns := by
  refine ⟨fun c s p x t h hl => h.runs (if_pos hl) _, fun s at_ hat => ?_⟩
  have hrun : exec .resetDeviceExpiry s = .next (if s.now < at_ then s else s.enterReset 3) := by
    show execResetDeviceExpiry s = _
    unfold execResetDeviceExpiry
    rw [hat]
  refine ⟨fun h => ?_, fun h => ⟨s.enterReset 3, ?_, s.enterReset_effects⟩⟩
  · rw [hrun, if_pos h]
  · rw [hrun, if_neg (by omega)]

end Sys2Proof.Machine
end

section
/-!
PROOFS. Proofs/LpPort.lean: the transactions on the local port (O42, R352 to R354).
-/

namespace Sys2Proof.Machine

open Sys2Proof

/-! ## Transactions by their instruction byte (R353) -/

section

variable {s : State} (bytes : List Byte)

/-- R26: in RESET and BOOT a transaction does nothing. -/
theorem State.lpTransaction_noCommands (h : s.noCommands = true) : s.lpTransaction bytes = s := if_pos h

theorem State.lpTransaction_other {b : Byte} (h2 : b ≠ 0x02) (hB : b ≠ 0x0B) (h5 : b ≠ 0x05) : s.lpTransaction (b :: bytes) = s := by
  simp only [State.lpTransaction, h2, hB, h5, if_false, ite_self]

variable (h : s.noCommands = false)

include h

theorem State.lpTransaction_write : s.lpTransaction (0x02 :: bytes) = s.lpWrite bytes := by
  rw [State.lpTransaction, h]
  rfl

theorem State.lpTransaction_read : s.lpTransaction (0x0B :: bytes) = s.lpRead (bytes.length - 1) := by
  rw [State.lpTransaction, h]
  rfl

theorem State.lpTransaction_status : s.lpTransaction (0x05 :: bytes) = s.lpReadStatus := by
  rw [State.lpTransaction, h]
  rfl

end

/-- The status word follows its instruction byte, whatever is clocked in with it. -/
theorem State.lpTransaction_status_alone (s : State) (bytes : List Byte) : s.lpTransaction (0x05 :: bytes) = s.lpTransaction [0x05] := by
  cases h : s.noCommands with
  | true => rw [State.lpTransaction_noCommands _ h, State.lpTransaction_noCommands _ h]
  | false => rw [State.lpTransaction_status _ h, State.lpTransaction_status _ h]

/-! ## Packets written (R354) -/

section

variable {s : State} {bytes : List Byte}

/-- R354: the command that a packet written to LP carries. -/
def lpCommand (bytes : List Byte) : QCmd :=
  let k := parseCmd 4 (bytes.take (bytes.length - 4))
  { opcode := k.1, lenOk := cmdLenOk k.2, cmd := k.2 }

theorem State.lpWrite_whole (h : lpPacketOk bytes = true) : s.lpWrite bytes = (s.arrive 4 (lpCommand bytes)).drainUnknown 68 := if_pos h

/-- R354: a packet whose check word fails is counted and flagged. -/
theorem State.lpWrite_torn (h : lpPacketOk bytes = false) :
    s.lpWrite bytes = { (s.inc Reg.LP_CRC_ERR).flag Reg.CMD_FLAGS 2 with sys := { s.sys with lpCrcErr := true } } := by
  rw [State.lpWrite, h]
  rfl

/-- R334, R354: a packet of the table that finds room at a quiet block is queued at port 4. -/
theorem State.lpWrite_quiet (h : lpPacketOk bytes = true) (hq : s.quiet) (hknown : knownOpcode (lpCommand bytes).opcode = true) (hroom : (s.port 4).queue.length < 4) :
    ((s.lpWrite bytes).port 4).queue = (s.port 4).queue ++ [{ lpCommand bytes with rx := s.time.dev }] ∧ (∀ p, p ≠ 4 → (s.lpWrite bytes).port p = s.port p) ∧
      ∀ a, a ≠ Reg.PORT_QUEUE 4 → (s.lpWrite bytes).rd a = s.rd a := by
  have hroom : (s.port 4).queue.length < queueRoom 4 := hroom
  rw [State.lpWrite_whole h, State.arrive_quiet _ hq hroom hknown rfl]
  refine ⟨?_, fun p hp => ?_, fun a ha => State.rd_arrive_room _ hroom ha⟩
  · rw [State.port_arrive_room _ hroom, if_pos rfl]
  · rw [State.port_arrive_room _ hroom, if_neg hp]

end

/-! ## The release of `LP_CS_N` (R354) -/

/-- A reply that leaves a port's queue makes room for no event. -/
theorem State.popOut_reply {s : State} {p : Nat} {k : OutPkt} {ks : List OutPkt} (h : (s.port p).out = k :: ks) (hk : k.isEvent = false) :
    s.popOut p = (s.setPort p { s.port p with out := ks }).syncPort p := by
  simp only [State.popOut, h, hk, Bool.false_eq_true, if_false]

/-- `LP_CS_N` is released: nothing is being read. -/
def State.lpReleased (s : State) : State := { s with sys := { s.sys with lpTaken := false } }

/-- R354: the reply that was read whole leaves the queue of port 4. -/
theorem execLpCsRelease_reply {s : State} {k : OutPkt} {ks : List OutPkt} (htaken : s.sys.lpTaken = true) (hretrain : s.sys.retrainOwed = [])
    (hdisable : s.sys.disableOwed = []) (hout : (s.port 4).out = k :: ks) (hk : k.isEvent = false) :
    exec .lpCsRelease s = .next ((s.lpReleased.setPort 4 { s.port 4 with out := ks }).syncPort 4) := by
  have hpop : s.lpReleased.popOut 4 = (s.lpReleased.setPort 4 { s.port 4 with out := ks }).syncPort 4 := State.popOut_reply hout hk
  have hnone : (s.lpReleased.popOut 4).owedRetrains = (s.lpReleased.setPort 4 { s.port 4 with out := ks }).syncPort 4 := by
    rw [hpop]
    exact State.owedRetrains_none hretrain hdisable
  exact congrArg Host.Outcome.next ((if_pos htaken).trans hnone)

/-- Settles O42: what a row does is said by its transaction, and what a transaction does by its instruction byte. -/
theorem lpPortRuns : Obligations.LpPortRuns := by
  intro s bytes n
  have hwrite : exec (.lpWritePacket bytes) s = .next (s.lpTransaction (0x02 :: bytes)) := rfl
  have hread : exec (.lpReadPacket n) s = .next (s.lpTransaction (0x0B :: List.replicate (n + 1) 0)) := rfl
  have hstatus : exec .lpReadStatus s = .next (s.lpTransaction [0x05]) := congrArg Host.Outcome.next (s.lpTransaction_status_alone _)
  refine ⟨⟨hwrite, hread, hstatus⟩, fun b h2 hB h5 => State.lpTransaction_other bytes h2 hB h5, fun h => ?_, fun h => ?_, fun h => ?_,
    fun k ks htaken hretrain hdisable hout hk => ?_⟩
  · rw [hwrite, hread, hstatus, State.lpTransaction_noCommands _ h, State.lpTransaction_noCommands _ h, State.lpTransaction_noCommands _ h]
    exact ⟨rfl, rfl, rfl⟩
  · rw [hwrite, hread, hstatus, State.lpTransaction_write _ h, State.lpTransaction_read _ h, List.length_replicate, Nat.add_sub_cancel, State.lpTransaction_status _ h]
    refine ⟨fun hok => ⟨?_, fun hq hknown hroom => ⟨_, rfl, State.lpWrite_quiet hok hq hknown hroom⟩⟩, fun hbad => ?_, rfl, rfl⟩
    · rw [State.lpWrite_whole hok]
      rfl
    · obtain ⟨hcount, hflag, hrd⟩ := s.inc_flag_effects (a := Reg.LP_CRC_ERR) (f := Reg.CMD_FLAGS) (i := 2) (by decide) (by decide)
      rw [State.lpWrite_torn hbad]
      exact ⟨_, rfl, rfl, rfl, hcount, hflag, hrd⟩
  · exact congrArg _ (if_neg (by rw [h]; decide))
  · refine ⟨_, execLpCsRelease_reply htaken hretrain hdisable hout hk, ?_, rfl, fun p hp => ?_⟩
    · rw [State.port_syncPort, State.port_setPort_self]
    · rw [State.port_syncPort, State.port_setPort_ne _ hp]
      rfl

end Sys2Proof.Machine
end

section
/-!
PROOFS. Proofs/StreamCommands.lean: the commands of subscriptions (O30, R359, R360).
-/

namespace Sys2Proof.Machine

open Sys2Proof

/-! ## STREAM_SUBSCRIBE (R359) -/

section

variable {s : State} {p : Nat} {u : Sub}

/-- R359: a block at fault, by its first field at fault. -/
theorem State.subscribe_fault (h : s.subOk u = false) : s.subscribe p u = s.fail Sts.BAD_PARAM (subFault u) := by
  simp only [State.subscribe, h, Bool.not_false, if_true]

/-- R359: a port that holds 8 subscriptions takes no other. -/
theorem State.subscribe_full (h : s.subOk u = true) (hfull : ∀ j, j < 8 → (s.sub (8 * p + j)).state ≠ 0) : s.subscribe p u = s.fail Sts.NO_RESOURCE := by
  have hnone : ((List.range 8).find? fun k => (s.sub (8 * p + k)).state == 0) = none := by
    rw [List.find?_range_eq_none]
    exact fun j hj => by simpa using hfull j hj
  simp only [State.subscribe, h, hnone, Bool.not_true, Bool.false_eq_true, if_false]

/-- R359: the first free channel of the port takes the subscription, unless the rings need more than 512 MiB. -/
theorem State.subscribe_first {j : Nat} (h : s.subOk u = true) (hj : j < 8) (hbusy : ∀ i, i < j → (s.sub (8 * p + i)).state ≠ 0) (hfree : (s.sub (8 * p + j)).state = 0) :
    s.subscribe p u = if 536870912 < s.ringBytes + s.ringCap u then s.fail Sts.NO_RESOURCE
      else ⟨s.setSub (8 * p + j) { u with asked := some s.now }, 0, leBytes 1 j ++ leBytes 1 (8 * p + j), none⟩ := by
  have hfirst : ((List.range 8).find? fun k => (s.sub (8 * p + k)).state == 0) = some j := by
    rw [List.find?_range_eq_some]
    exact ⟨by simpa using hfree, List.mem_range.mpr hj, fun i hi => by simpa using hbusy i hi⟩
  simp only [State.subscribe, h, hfirst, Bool.not_true, Bool.false_eq_true, if_false]
  rfl

/-- R341, R359: the roles of the row are those of the table, in which LP has none. -/
theorem subscribe_roles (p : Nat) (ρ : Role) : (laneRoles [.owner, .client] p).contains ρ = (cmdRoles 0x0400 p).contains ρ.code := by
  unfold laneRoles
  by_cases h : p = 4
  · rw [if_pos h, h]
    cases ρ <;> rfl
  · have hrow : cmdRoles 0x0400 p = [2, 1] := by simp [cmdRoles, h]
    rw [if_neg h, hrow]
    cases ρ <;> rfl

/-! ## STREAM_UNSUBSCRIBE and STREAM_STATUS (R360, R341) -/

/-- A port names a subscription that it has. -/
theorem State.ownSub_held {k : Nat} (h : p < 4 ∧ k < 8 ∧ (s.sub (8 * p + k)).state ≠ 0) : s.ownSub p k = some (8 * p + k) := if_pos h

theorem State.ownSub_none {k : Nat} (h : ¬ (p < 4 ∧ k < 8 ∧ (s.sub (8 * p + k)).state ≠ 0)) : s.ownSub p k = none := if_neg h

/-- R360: the status of a subscription that the port has, or that of a free one. -/
theorem State.doStreamStatus_low {x : QCmd} (h : fieldAt x.cmd.params 0 1 < 8) :
    s.doStreamStatus p x = s.ok (if p < 4 ∧ (s.sub (8 * p + fieldAt x.cmd.params 0 1)).state ≠ 0 then (s.sub (8 * p + fieldAt x.cmd.params 0 1)).status else Sub.status {}) := by
  by_cases hown : p < 4 ∧ (s.sub (8 * p + fieldAt x.cmd.params 0 1)).state ≠ 0
  · rw [State.doStreamStatus, if_neg (Nat.not_le.mpr h), State.ownSub_held ⟨hown.1, h, hown.2⟩, if_pos hown]
  · rw [State.doStreamStatus, if_neg (Nat.not_le.mpr h), State.ownSub_none fun hk => hown ⟨hk.1, hk.2.2⟩, if_neg hown]

end

/-- Settles O30: each row is its rule of R343 and its own effect, which branches on the block, on the port's channels and on the subscription that it names. -/
theorem streamCommandsDecided : Obligations.StreamCommandsDecided := by
  intro c s p x t k u
  refine ⟨fun h hl => ?subscribe, fun h hl => ?unsubscribe, fun h hl => ?status⟩ <;> obtain rfl := h.cmd
  case subscribe =>
    have hrun : exec (.streamSubscribe x.cmd) s = .next (State.concludes p x (t.subscribe p u)) :=
      h.runs (if_pos hl) _ (hr := h.port ▸ subscribe_roles p)
    rw [hrun]
    refine ⟨fun hbad => ?_, fun hok hfull => ?_, fun j hok hj hbusy hfree => ?_⟩
    · rw [State.subscribe_fault hbad]
    · rw [State.subscribe_full hok hfull]
    · rw [State.subscribe_first hok hj hbusy hfree]
  case unsubscribe =>
    have hrun : exec (.streamUnsubscribe x.cmd) s = .next (State.concludes p x (t.doStreamUnsubscribe p x)) := h.runs (if_pos hl) _
    rw [hrun, State.doStreamUnsubscribe]
    refine ⟨fun hnone => ?_, fun hp hk hheld => ?_⟩
    · rw [State.ownSub_none hnone]
    · rw [State.ownSub_held ⟨hp, hk, hheld⟩]
      rfl
  case status =>
    have hrun : exec (.streamStatus x.cmd) s = .next (State.concludes p x (t.doStreamStatus p x)) := h.runs (if_pos hl) _
    rw [hrun]
    refine ⟨fun hk => ?_, fun hk => ?_⟩
    · rw [State.doStreamStatus, if_pos hk]
    · rw [State.doStreamStatus_low hk]
      rfl

end Sys2Proof.Machine
end

section
/-!
PROOFS. Proofs/DramBytes.lean: the bytes of the stacked DRAM after a write (R377, R378, log entry 78).
-/

namespace Sys2Proof.Machine

open Sys2Proof

/-! ## Bytes of the stacked DRAM -/

/-- Updates of nothing but the bytes that channels address, one after the other, are such an update. -/
theorem State.each_spaces {α : Type} {g : State → α → State} (hg : ∀ u e, ∃ x, g u e = { u with streams := { u.streams with spaces := x } }) (s : State) (l : List α) :
    ∃ x, s.each l g = { s with streams := { s.streams with spaces := x } } := by
  unfold State.each
  induction l generalizing s with
  | nil => exact ⟨s.streams.spaces, rfl⟩
  | cons e l ih =>
    obtain ⟨x, hx⟩ := hg s e
    obtain ⟨y, hy⟩ := ih (g s e)
    exact ⟨y, hy.trans (by rw [hx])⟩

/-- Bytes written to the stacked DRAM: nothing else changes. -/
theorem State.putDram_frame (s : State) (a : Nat) (bs : List Byte) : ∃ x, s.putDram a bs = { s with streams := { s.streams with spaces := x } } :=
  State.each_spaces (fun _ _ => ⟨_, rfl⟩) s _

theorem State.putDesc_frame (s : State) (a o : Nat) (bs : List Byte) : ∃ x, s.putDesc a o bs = { s with streams := { s.streams with spaces := x } } := by
  unfold State.putDesc
  split
  · exact s.putDram_frame ..
  · exact ⟨s.streams.spaces, rfl⟩

/-- A byte of the DRAM after a write of one. -/
theorem State.spaceByte_setSpaceByte (s : State) (a k : Nat) (v : Byte) :
    (s.setSpaceByte 0 0 a v).spaceByte 0 0 k = if k = a then v else s.spaceByte 0 0 k := by
  have hkey : ∀ i, spaceKey 0 0 i = i := fun i => by simp [spaceKey]
  unfold State.spaceByte State.setSpaceByte
  rw [hkey, hkey]
  split
  · next h => rw [h]; exact get_set_self ..
  · next h => exact get_set_ne _ _ _ h _

/-- A byte of the DRAM after a write of several: one of those written, or the byte that stood there. -/
theorem State.spaceByte_putDram (s : State) (a : Nat) (bs : List Byte) (k : Nat) :
    (s.putDram a bs).spaceByte 0 0 k = if a ≤ k ∧ k < a + bs.length then bs.getD (k - a) 0 else s.spaceByte 0 0 k := by
  have hfrom : ∀ i, (s.each (bs.zipIdx i) fun s e => s.setSpaceByte 0 0 (a + e.2) e.1).spaceByte 0 0 k =
      if a + i ≤ k ∧ k < a + i + bs.length then bs.getD (k - (a + i)) 0 else s.spaceByte 0 0 k := by
    induction bs generalizing s with
    | nil => intro i; simp [State.each]
    | cons b bs ih =>
      intro i
      rw [List.zipIdx_cons]
      refine (ih (s.setSpaceByte 0 0 (a + i) b) (i + 1)).trans ?_
      rw [State.spaceByte_setSpaceByte]
      by_cases hk : k = a + i
      · rw [if_neg (by omega), if_pos hk, if_pos (by simp only [List.length_cons]; omega), hk, Nat.sub_self, List.getD_cons_zero]
      by_cases hin : a + (i + 1) ≤ k ∧ k < a + (i + 1) + bs.length
      · rw [if_pos hin, if_pos (by simp only [List.length_cons]; omega), show k - (a + i) = k - (a + (i + 1)) + 1 by omega, List.getD_cons_succ]
      · rw [if_neg hin, if_neg hk, if_neg (by simp only [List.length_cons]; omega)]
  exact hfrom 0

theorem State.dramBytes_add (s : State) (a m n : Nat) : s.dramBytes a (m + n) = s.dramBytes a m ++ s.dramBytes (a + m) n := by
  simp only [State.dramBytes, List.range_add, List.map_append, List.map_map, Function.comp_def, Nat.add_assoc]

@[simp] theorem State.dramBytes_length (s : State) (a n : Nat) : (s.dramBytes a n).length = n := by simp [State.dramBytes]

/-- What was written reads back. -/
theorem State.dramBytes_putDram_self (s : State) (a : Nat) {bs : List Byte} {n : Nat} (h : bs.length = n) : (s.putDram a bs).dramBytes a n = bs := by
  subst h
  refine List.ext_getElem (by simp) fun i hi _ => ?_
  have hlen : i < bs.length := by simpa using hi
  simp only [State.dramBytes, List.getElem_map, List.getElem_range, State.spaceByte_putDram]
  rw [if_pos ⟨by omega, by omega⟩, Nat.add_sub_cancel_left, List.getD_eq_getElem _ _ hlen]

/-- A write leaves the bytes before and behind it. -/
theorem State.dramBytes_putDram_off (s : State) {a o n : Nat} {bs : List Byte} (h : o + n ≤ a ∨ a + bs.length ≤ o) : (s.putDram a bs).dramBytes o n = s.dramBytes o n := by
  refine List.map_congr_left fun i hi => ?_
  have hn : i < n := List.mem_range.mp hi
  rw [State.spaceByte_putDram, if_neg (by omega)]

/-- R377: `NEXT` is the first word of a descriptor. -/
theorem State.desc_next (s : State) (a : Nat) : (s.desc a).next = leNat (s.dramBytes a 4) := by
  show leNat (bytesAt (s.dramBytes a 32) 0 4) = _
  rw [s.dramBytes_add a 4 28, bytesAt_append_left _ _ (s.dramBytes_length a 4)]

/-- A descriptor that lies in the DRAM is written there. -/
theorem State.putDesc_held {s : State} {a : Nat} (h : a + 32 ≤ s.variant.dramBytes) (o : Nat) (bs : List Byte) : s.putDesc a o bs = s.putDram (a + o) bs :=
  if_pos (by simp [dramHolds, h])

/-- A descriptor is read from the bytes of the DRAM alone. -/
theorem State.desc_congr {s t : State} (h : t.streams.spaces = s.streams.spaces) (a : Nat) : t.desc a = s.desc a := by
  simp only [State.desc, State.dramBytes, State.spaceByte, h]

/-- The engine writes the `STATUS` of a descriptor: the bytes that channels address change, and nothing else. -/
theorem State.setDescStatus_frame (s : State) (a v : Nat) : ∃ x, s.setDescStatus a v = { s with streams := { s.streams with spaces := x } } := s.putDesc_frame ..

theorem State.rd_setDescStatus (s : State) (a v b : Nat) : (s.setDescStatus a v).rd b = s.rd b := by
  obtain ⟨x, hx⟩ := s.setDescStatus_frame a v
  rw [hx]
  rfl

theorem State.dma_setDescStatus (s : State) (a v n : Nat) : (s.setDescStatus a v).dma n = s.dma n := by
  obtain ⟨x, hx⟩ := s.setDescStatus_frame a v
  rw [hx]
  rfl

theorem State.now_setDescStatus (s : State) (a v : Nat) : (s.setDescStatus a v).now = s.now := by
  obtain ⟨x, hx⟩ := s.setDescStatus_frame a v
  rw [hx]

theorem State.port_setDescStatus (s : State) (a v p : Nat) : (s.setDescStatus a v).port p = s.port p := by
  obtain ⟨x, hx⟩ := s.setDescStatus_frame a v
  rw [hx]
  rfl

/-- A write of `STATUS` leaves `NEXT`. -/
theorem State.desc_next_setDescStatus (s : State) (a v : Nat) : ((s.setDescStatus a v).desc a).next = (s.desc a).next := by
  rw [State.desc_next, State.desc_next]
  unfold State.setDescStatus State.putDesc
  split
  · rw [State.dramBytes_putDram_off _ (.inl (by omega))]
  · rfl

end Sys2Proof.Machine
end

section
/-!
PROOFS. Proofs/DmaCommands.lean: `DMA_RESTART` and `DMA_APPEND` (O31, R379, R382).
-/

namespace Sys2Proof.Machine

open Sys2Proof

/-! ## The descriptor that is appended (R377, R379) -/

/-- The bytes of a descriptor behind its `NEXT`. -/
def descTail (d : DmaDesc) : List Byte :=
  leBytes 4 d.src ++ (leBytes 4 d.dst ++ (leBytes 3 d.count ++ (leBytes 1 (d.srcSpace + 16 * d.dstSpace) ++ (leBytes 2 d.seqno ++
    (leBytes 1 (b2n d.notify + 2 * b2n d.srcFixed + 4 * b2n d.dstFixed) ++ (leBytes 1 (d.srcSel + 16 * d.dstSel) ++ (leBytes 8 0 ++ leBytes 4 d.crc)))))))

theorem descImage_eq (d : DmaDesc) : descImage d = leBytes 4 endMark ++ descTail d := by
  simp only [descImage, descTail, List.append_assoc]

theorem descTail_length (d : DmaDesc) : (descTail d).length = 28 := by simp [descTail]

/-- R377: source, destination and count read back, whatever `NEXT` says. -/
theorem descOf_tail (next : Nat) {d : DmaDesc} (hsrc : d.src < 2 ^ 32) (hdst : d.dst < 2 ^ 32) (hcount : d.count < 2 ^ 24) :
    (descOf (leBytes 4 next ++ descTail d)).src = d.src ∧ (descOf (leBytes 4 next ++ descTail d)).dst = d.dst ∧ (descOf (leBytes 4 next ++ descTail d)).count = d.count := by
  simp (disch := omega) only [descOf, descTail, fieldAt_skip, fieldAt_leBytes_append, Nat.reduceSub, and_self]

/-- R379, step 1: the descriptor is written, with the end mark. -/
def State.describes (s : State) (a : Nat) (d : DmaDesc) : State := s.putDesc a 0 (descImage d)

/-- R379, step 2: the old tail, if the chain has one, is linked to the new descriptor. -/
def State.linkTail (s : State) (n a : Nat) (linked : Bool) : State :=
  match (s.dma n).tail with
  | some o => if linked then s.putDesc o 0 (leBytes 4 a) else s
  | none => s

/-- The new descriptor is the tail of the chain. -/
def State.setTail (s : State) (n a : Nat) : State := s.setDma n { s.dma n with tail := some a }

/-- The new descriptor is the tail once it is linked, or where the chain has none. -/
def State.moveTail (s : State) (n a : Nat) (linked : Bool) : State := if linked || (s.dma n).tail.isNone then s.setTail n a else s

theorem State.linkTail_unlinked (s : State) (n a : Nat) : s.linkTail n a false = s := by
  unfold State.linkTail
  split <;> rfl

theorem State.linkTail_frame (s : State) (n a : Nat) (linked : Bool) : ∃ x, s.linkTail n a linked = { s with streams := { s.streams with spaces := x } } := by
  cases linked with
  | false => exact ⟨s.streams.spaces, s.linkTail_unlinked n a⟩
  | true =>
    unfold State.linkTail
    split
    · exact s.putDesc_frame ..
    · exact ⟨s.streams.spaces, rfl⟩

theorem State.moveTail_frame (s : State) (n a : Nat) (linked : Bool) : ∃ c, s.moveTail n a linked = { s with streams := { s.streams with chans := c } } := by
  unfold State.moveTail
  split
  · exact ⟨_, rfl⟩
  · exact ⟨s.streams.chans, rfl⟩

theorem State.describes_frame (s : State) (a : Nat) (d : DmaDesc) : ∃ x, s.describes a d = { s with streams := { s.streams with spaces := x } } := s.putDesc_frame ..

/-- R379, step 3: while the channel runs, the engine has not read the end mark yet. -/
theorem State.dmaAppend_running {s : State} {n : Nat} (h : s.dmaSt n = 1) (a : Nat) : s.dmaAppend n a = s := by
  unfold State.dmaAppend
  rw [h]
  rfl

section

variable {s : State} {n : Fin 64} {addr : Word} {d : DmaDesc}

/-- R6: a channel that the variant does not have takes no descriptor. -/
theorem execDmaAppend_absent (h : s.variant.dmaPresent n.val = false) (linked : Bool) : exec (.dmaAppend n addr d linked) s = .next s := by
  show execDmaAppend n addr d linked s = _
  unfold execDmaAppend
  rw [h]
  rfl

/-- The three steps of the supervisor (R379). -/
theorem execDmaAppend_present (h : s.variant.dmaPresent n.val = true) (linked : Bool) : exec (.dmaAppend n addr d linked) s =
    .next ((((s.describes addr.toNat d).linkTail n addr.toNat linked).moveTail n addr.toNat linked).dmaAppend n addr.toNat) := by
  show execDmaAppend n addr d linked s = _
  unfold execDmaAppend
  rw [h]
  rfl

/-- What an append to a running channel leaves. -/
theorem State.appended_frame (s : State) (n a : Nat) (d : DmaDesc) (linked : Bool) :
    ∃ x c, ((s.describes a d).linkTail n a linked).moveTail n a linked = { s with streams := { s.streams with spaces := x, chans := c } } := by
  obtain ⟨x, hx⟩ := s.describes_frame a d
  obtain ⟨y, hy⟩ := (s.describes a d).linkTail_frame n a linked
  obtain ⟨c, hc⟩ := ((s.describes a d).linkTail n a linked).moveTail_frame n a linked
  exact ⟨y, c, by rw [hc, hy, hx]⟩

/-- R379: an append to a running channel. -/
theorem execDmaAppend_running (h : s.variant.dmaPresent n.val = true) (hrun : s.dmaSt n = 1) (linked : Bool) :
    exec (.dmaAppend n addr d linked) s = .next (((s.describes addr.toNat d).linkTail n addr.toNat linked).moveTail n addr.toNat linked) := by
  obtain ⟨x, c, hx⟩ := s.appended_frame n addr.toNat d linked
  rw [execDmaAppend_present h, State.dmaAppend_running]
  rw [hx]
  exact hrun

end

/-! ## What an append leaves (R377, R379) -/

section

variable {s : State} {n a : Nat}

/-- R379: the new descriptor stands where the DRAM has a place for it. -/
theorem State.dramBytes_describes {d : DmaDesc} (h : a + 32 ≤ s.variant.dramBytes) : (s.describes a d).dramBytes a 32 = leBytes 4 endMark ++ descTail d := by
  have hlen : (descImage d).length = 32 := by rw [descImage_eq, List.length_append, leBytes_length, descTail_length]
  rw [State.describes, State.putDesc_held h, ← descImage_eq]
  exact s.dramBytes_putDram_self a hlen

/-- R379: what is written into the old tail's `NEXT` is the address of the new descriptor. -/
theorem State.desc_next_linkTail {o : Nat} (htail : (s.dma n).tail = some o) (h : o + 32 ≤ s.variant.dramBytes) (ha : a < 2 ^ 32) : ((s.linkTail n a true).desc o).next = a := by
  rw [State.desc_next, State.linkTail, htail]
  dsimp only
  rw [if_pos rfl, State.putDesc_held h, Nat.add_zero, s.dramBytes_putDram_self o (leBytes_length 4 a), leNat_leBytes ha]

/-- R379: the old tail's `NEXT` is no byte behind the `NEXT` of the new descriptor, even where the two are one. -/
theorem State.dramBytes_linkTail {l : List Byte} {w : Nat} (hdesc : s.dramBytes a 32 = leBytes 4 w ++ l) (ha : a % 32 = 0)
    (htail : ∀ o, (s.dma n).tail = some o → o % 32 = 0) : ∃ w', (s.linkTail n a true).dramBytes a 32 = leBytes 4 w' ++ l := by
  have hrest : s.dramBytes (a + 4) 28 = l := by
    rw [s.dramBytes_add a 4 28] at hdesc
    exact (List.append_inj hdesc (by rw [s.dramBytes_length, leBytes_length])).2
  have hput : ∀ o, o % 32 = 0 → ∃ w', (s.putDram o (leBytes 4 a)).dramBytes a 32 = leBytes 4 w' ++ l := fun o ho => by
    by_cases hself : o = a
    · subst hself
      exact ⟨o, by rw [State.dramBytes_add _ o 4 28, s.dramBytes_putDram_self o (leBytes_length 4 o), State.dramBytes_putDram_off _ (.inr (by rw [leBytes_length])), hrest]⟩
    · exact ⟨w, by rw [State.dramBytes_putDram_off _ (by rw [leBytes_length]; omega), hdesc]⟩
  unfold State.linkTail
  split
  · next o ho =>
    rw [if_pos rfl]
    unfold State.putDesc
    split
    · exact hput o (htail o ho)
    · exact ⟨w, hdesc⟩
  · exact ⟨w, hdesc⟩

theorem State.dramBytes_moveTail (s : State) (n a : Nat) (linked : Bool) (o k : Nat) : (s.moveTail n a linked).dramBytes o k = s.dramBytes o k := by
  unfold State.moveTail
  split <;> rfl

theorem State.desc_moveTail (s : State) (n a : Nat) (linked : Bool) (o : Nat) : (s.moveTail n a linked).desc o = s.desc o :=
  congrArg descOf (s.dramBytes_moveTail ..)

theorem State.tail_moveTail (s : State) (n a : Nat) : ((s.moveTail n a true).dma n).tail = some a :=
  congrArg DmaCh.tail (get_set_self ..)

/-- R377, R379: after an append the descriptor stands at its address, whatever its `NEXT` says. -/
theorem State.dramBytes_appended {d : DmaDesc} (hheld : a + 32 ≤ s.variant.dramBytes) (ha : a % 32 = 0) (htail : ∀ o, (s.dma n).tail = some o → o % 32 = 0) (linked : Bool) :
    ∃ w, (((s.describes a d).linkTail n a linked).moveTail n a linked).dramBytes a 32 = leBytes 4 w ++ descTail d := by
  have hdesc := State.dramBytes_describes (d := d) hheld
  obtain ⟨x, hx⟩ := s.describes_frame a d
  have hchan : (s.describes a d).dma n = s.dma n := by rw [hx]; rfl
  rw [State.dramBytes_moveTail]
  cases linked with
  | false => exact ⟨endMark, by rw [State.linkTail_unlinked, hdesc]⟩
  | true => exact State.dramBytes_linkTail hdesc ha (by rwa [hchan])

end

/-! ## DMA_RESTART (R382) -/

/-- R384: there are 64 channels. -/
theorem Variant.dmaPresent_lt {v : Variant} {n : Nat} (h : v.dmaPresent n = true) : n < 64 := by
  cases v with
  | nl5_128 => exact (of_decide_eq_true h).1
  | nl5_256 | nl5_512 => exact of_decide_eq_true h

section

variable {s : State} {op p tag : Nat} {go : State → Reply}

/-- R336: one command of an opcode runs at a time. -/
theorem State.startRunning_busy (h : (s.sys.running.any fun d => d.opcode == op) = true) : s.startRunning op p tag go = s.fail Sts.BUSY := if_pos h

/-- A command that is refused does not run. -/
theorem State.startRunning_refused (h : (s.sys.running.any fun d => d.opcode == op) = false) (hgo : (go s).status ≠ Sts.OK) : s.startRunning op p tag go = go s := by
  rw [State.startRunning, if_neg (by simp [h])]
  exact if_neg hgo

/-- A command that is accepted runs until it reports with `COMMAND_DONE`. -/
theorem State.startRunning_accepted (h : (s.sys.running.any fun d => d.opcode == op) = false) (hgo : (go s).status = Sts.OK) : s.startRunning op p tag go =
    { go s with state := { (go s).state with sys := { (go s).state.sys with running := (go s).state.sys.running ++ [⟨op, p, tag⟩] } } } := by
  rw [State.startRunning, if_neg (by simp [h])]
  exact if_pos hgo

end

section

variable {s : State} {n mode : Nat}

/-- R382: a channel that is none, or is not halted. -/
theorem State.dmaRestart_notHalted (h : 64 ≤ n ∨ s.variant.dmaPresent n = true ∧ s.f (Reg.DMA_STATUS n) 1 0 ≠ 3) : s.dmaRestart n mode = s.fail Sts.BAD_PARAM 0 := by
  rcases h with hn | ⟨hp, hst⟩
  · rw [State.dmaRestart, if_pos hn]
  · rw [State.dmaRestart, if_neg (Nat.not_le.mpr (Variant.dmaPresent_lt hp)), if_neg (by simp [hp])]
    exact if_pos hst

/-- R6: a channel that is fused off. -/
theorem State.dmaRestart_absent (hn : n < 64) (h : s.variant.dmaPresent n = false) : s.dmaRestart n mode = s.fail Sts.NOT_PRESENT 0 := by
  rw [State.dmaRestart, if_neg (Nat.not_le.mpr hn), if_pos (by simp [h])]

/-- R382: the mode of a halted channel decides. -/
theorem State.dmaRestart_halted (hp : s.variant.dmaPresent n = true) (hst : s.f (Reg.DMA_STATUS n) 1 0 = 3) : s.dmaRestart n mode =
    if 1 < mode then s.fail Sts.BAD_PARAM 1 else ⟨s.setDma n { s.dma n with restarting := true }, 0, [], some (.restartDma n (mode == 1))⟩ := by
  rw [State.dmaRestart, if_neg (Nat.not_le.mpr (Variant.dmaPresent_lt hp)), if_neg (by simp [hp])]
  exact if_neg (not_not_intro hst)

end

/-- Settles O31: a restart is refused by what stands against it, or noted; an append is the three steps of R379. -/
theorem dmaCommandsDecided : Obligations.DmaCommandsDecided := by
  refine ⟨?restart, fun n addr d linked s => ⟨fun habs => execDmaAppend_absent habs linked, fun hp hrun ha hheld hsrc hdst hcount htail => ?append⟩⟩
  case restart =>
    intro c s p x t h hl n mode u
    obtain rfl := h.cmd
    have hrun : exec (.dmaRestart x.cmd) s = .next (State.concludes p x (t.startRunning 0x0403 p x.cmd.tag.toNat fun s => s.dmaRestart n mode)) := h.runs (if_pos hl) _
    rw [hrun]
    have hrefused (st d : Nat) (hidle : (t.sys.running.any fun d => d.opcode == 0x0403) = false) (hst : st ≠ Sts.OK) (hgo : t.dmaRestart n mode = t.fail st d) :
        t.startRunning 0x0403 p x.cmd.tag.toNat (fun s => s.dmaRestart n mode) = t.fail st d :=
      (State.startRunning_refused hidle fun hok => hst (by rwa [hgo] at hok)).trans hgo
    refine ⟨fun hbusy => ?_, fun hidle => ⟨fun hbad => ?_, fun hlt habs => ?_, fun hp hhalted hmode => ?_, fun hp hhalted hmode => ?_⟩⟩
    · rw [State.startRunning_busy hbusy]
    · rw [hrefused _ _ hidle (by decide) (State.dmaRestart_notHalted hbad)]
    · rw [hrefused _ _ hidle (by decide) (State.dmaRestart_absent hlt habs)]
    · rw [hrefused _ _ hidle (by decide) ((State.dmaRestart_halted hp hhalted).trans (if_pos hmode))]
    · have hgo := (State.dmaRestart_halted (mode := mode) hp hhalted).trans (if_neg (Nat.not_lt.mpr hmode))
      rw [State.startRunning_accepted hidle (by rw [hgo]; rfl), hgo]
      rfl
  case append =>
    rw [execDmaAppend_running hp hrun]
    refine ⟨_, rfl, fun hlinked => ?_, ?_, ?_⟩
    · subst hlinked
      refine ⟨State.tail_moveTail .., fun o hold hroom => ?_⟩
      obtain ⟨y, hy⟩ := s.describes_frame addr.toNat d
      rw [State.desc_moveTail]
      exact State.desc_next_linkTail (by rw [hy]; exact hold) (by rw [hy]; exact hroom) addr.isLt
    · obtain ⟨w, hw⟩ := State.dramBytes_appended (d := d) hheld ha htail linked
      rw [State.desc, hw]
      exact descOf_tail w hsrc hdst hcount
    · obtain ⟨y, c, hy⟩ := s.appended_frame n addr.toNat d linked
      rw [hy]
      exact ⟨rfl, rfl⟩

end Sys2Proof.Machine
end

section
/-!
PROOFS. Proofs/DmaChannels.lean: what DMA channels leave when a descriptor completes and when they halt (R376 to R382), and stream packets placed in their ring (O52).
-/

namespace Sys2Proof.Machine

open Sys2Proof

/-! ## Beside the channels -/

/-- A register of the page of the streams that lies on no `PORT_QUEUE_p`, whatever p: those end in the digit C. -/
abbrev Reg.OfStreams (a : Nat) : Prop := Reg.STREAM_CTRL ≤ a ∧ a < Reg.REC_FLAGS ∧ a % 16 ≠ 12

theorem Reg.ofStreams_dmaStatus {n : Nat} (h : n < 64) : Reg.OfStreams (Reg.DMA_STATUS n) := by
  simp only [Reg.OfStreams, Reg.STREAM_CTRL, Reg.REC_FLAGS, Reg.DMA_STATUS]; omega

theorem Reg.ofStreams_dmaDone {n : Nat} (h : n < 64) : Reg.OfStreams (Reg.DMA_DONE n) := by
  simp only [Reg.OfStreams, Reg.STREAM_CTRL, Reg.REC_FLAGS, Reg.DMA_DONE]; omega

theorem Reg.OfStreams.ne {a b : Nat} (ha : Reg.OfStreams a) (hb : ¬ Reg.OfStreams b) : a ≠ b := by
  rintro rfl
  exact hb ha

/-- What `t` shows of the channels, of the bytes they address and of their registers is as in `s`. -/
structure State.LeavesDma (s t : State) : Prop where
  chans : t.streams.chans = s.streams.chans
  spaces : t.streams.spaces = s.streams.spaces
  rd : ∀ a, Reg.OfStreams a → t.rd a = s.rd a

namespace State.LeavesDma

variable {s t u : State}

theorem refl (s : State) : s.LeavesDma s := ⟨rfl, rfl, fun _ _ => rfl⟩

theorem trans (h : s.LeavesDma t) (g : t.LeavesDma u) : s.LeavesDma u := ⟨g.chans.trans h.chans, g.spaces.trans h.spaces, fun a ha => (g.rd a ha).trans (h.rd a ha)⟩

theorem dma (h : s.LeavesDma t) (n : Nat) : t.dma n = s.dma n := congrArg (·.get {} n) h.chans

theorem wr (s : State) {b : Nat} (hb : ¬ Reg.OfStreams b) (v : Word) : s.LeavesDma (s.wr b v) := ⟨rfl, rfl, fun _ ha => s.rd_wr_ne (Reg.OfStreams.ne ha hb) v⟩

theorem flag (s : State) {b : Nat} (hb : ¬ Reg.OfStreams b) (i : Nat) : s.LeavesDma (s.flag b i) := ⟨rfl, rfl, fun _ ha => s.rd_flag_ne (Reg.OfStreams.ne ha hb) i⟩

theorem ite {p : Prop} [Decidable p] (h : s.LeavesDma t) (g : s.LeavesDma u) : s.LeavesDma (if p then t else u) := by
  split
  · exact h
  · exact g

theorem each {α : Type} {l : List α} {g : State → α → State} (hg : ∀ u, ∀ x ∈ l, State.LeavesDma u (g u x)) (s : State) : s.LeavesDma (s.each l g) := by
  unfold State.each
  induction l generalizing s with
  | nil => exact refl s
  | cons x l ih => exact (hg s x (List.mem_cons_self ..)).trans (ih (fun u y hy => hg u y (List.mem_cons_of_mem _ hy)) _)

theorem inc (s : State) {b : Nat} (hb : ¬ Reg.OfStreams b) : s.LeavesDma (s.inc b) := wr s hb _

/-! ### Packets, events and the recorder -/

theorem syncPort (s : State) (p : Nat) : s.LeavesDma (s.syncPort p) := by
  have hp : ¬ Reg.OfStreams (Reg.PORT_QUEUE p) := by simp only [Reg.OfStreams, Reg.PORT_QUEUE]; omega
  exact (wr s hp _).trans (wr _ hp _)

theorem setPort (s : State) (p : Nat) (q : PortSt) : s.LeavesDma (s.setPort p q) := ⟨rfl, rfl, fun _ _ => rfl⟩

theorem formPkt (s : State) (p code tag : Nat) (isEvent mandatory : Bool) (status : Nat) (params : List Byte) (port : Nat) :
    s.LeavesDma (s.formPkt p code tag isEvent mandatory status params port) := (setPort s p _).trans (syncPort _ p)

/-- An event that is not mandatory may be dropped, and is counted at its port. -/
theorem queueEvent (s : State) {p code : Nat} (h : mandatoryEvent code = true ∨ p < 5) (tag status : Nat) (params : List Byte) :
    s.LeavesDma (s.queueEvent p code tag status params) := by
  unfold State.queueEvent
  dsimp only
  split
  · split
    · exact formPkt ..
    · exact setPort ..
  · next hm =>
    have hp : p < 5 := h.resolve_left hm
    have hdrop : ¬ Reg.OfStreams (Reg.PORT_EVT_DROP p) := by simp only [Reg.OfStreams, Reg.STREAM_CTRL, Reg.PORT_EVT_DROP]; omega
    split
    · exact refl s
    · split
      · exact formPkt ..
      · exact ((setPort s p _).trans (inc _ hdrop)).trans (flag _ (by decide) 3)

theorem raise (s : State) (code : Nat) (params : List Byte) : s.LeavesDma (s.raise code .all params) :=
  each (fun u _ hp => queueEvent u (.inr (s.portList_lt hp)) ..) s

theorem commandDone (s : State) (d : DoneCmd) (status detail : Nat) : s.LeavesDma (s.commandDone d status detail) := queueEvent s (.inl (by decide)) ..

theorem setSys (s : State) (x : Sys) : s.LeavesDma { s with sys := x } := ⟨rfl, rfl, fun _ _ => rfl⟩

theorem finish (s : State) (opcode status detail : Nat) : s.LeavesDma (s.finish opcode status detail) := by
  unfold State.finish
  split
  · exact refl s
  · exact (setSys s _).trans (commandDone ..)

theorem setRecorder (s : State) (x : Recorder) : s.LeavesDma { s with recorder := x } := ⟨rfl, rfl, fun _ _ => rfl⟩

theorem post (s : State) (code arg : Nat) : s.LeavesDma (s.post code arg) := by
  unfold State.post
  split
  · exact setRecorder ..
  · exact ((setRecorder s _).trans (inc _ (by decide))).trans (flag _ (by decide) 0)

theorem refillEvents (s : State) (p : Nat) : s.LeavesDma (s.refillEvents p) := by
  unfold State.refillEvents
  dsimp only
  split
  · exact refl s
  · split
    · exact (setPort s p _).trans (formPkt ..)
    · split
      · exact refl s
      · exact (setPort s p _).trans (formPkt ..)

theorem popOut (s : State) (p : Nat) : s.LeavesDma (s.popOut p) := by
  unfold State.popOut
  dsimp only
  split
  · exact refl s
  · have hpop := fun q => (setPort s p q).trans (syncPort _ p)
    split
    · exact (hpop _).trans ((refillEvents ..).trans (refillEvents ..))
    · exact hpop _

/-! ### Lane queues -/

theorem setLane (s : State) (l : Nat) (x : LaneSt) : s.LeavesDma (s.setLane l x) := ⟨rfl, rfl, fun _ _ => rfl⟩

theorem loadService (s : State) (l : Nat) : s.LeavesDma (s.loadService l) := by
  unfold State.loadService
  dsimp only
  split
  · exact setLane ..
  · split
    · exact refl s
    · split
      · exact refl s
      · exact (popOut ..).trans (setLane ..)
  · exact refl s

theorem setSub (s : State) (ch : Nat) (u : Sub) : s.LeavesDma (s.setSub ch u) := ⟨rfl, rfl, fun _ _ => rfl⟩

theorem sendPkt (s : State) (ch l : Nat) (k : StreamPkt) : s.LeavesDma (s.sendPkt ch l k) := by
  unfold State.sendPkt
  dsimp only
  split
  · exact (setSub ..).trans (setLane ..)
  · exact (setSub ..).trans (setLane ..)

theorem movePkt (s : State) (ch : Nat) : s.LeavesDma (s.movePkt ch) := by
  unfold State.movePkt
  dsimp only
  split
  · exact refl s
  · exact (setSub ..).trans (sendPkt ..)

end State.LeavesDma

/-! ## Bytes that a descriptor moves (R376, R378) -/

/-- Words that reach a lane queue change the lanes alone. -/
theorem State.queueWords_frame (s : State) (n sel : Nat) (l : List DmaWrite) : ∃ y, s.queueWords n sel l = { s with lanes := y } := by
  unfold State.queueWords
  dsimp only
  split
  · exact ⟨_, rfl⟩
  · exact ⟨_, rfl⟩
  · exact ⟨_, rfl⟩
  · exact ⟨s.lanes, rfl⟩

/-- R378: bytes moved touch neither a channel nor a register. -/
theorem State.dmaMoveBytes_frame (s : State) (n : Nat) (d : Desc) (count : Nat) :
    ∃ c y x, s.dmaMoveBytes n d count = { s with freeCtr := c, lanes := y, streams := { s.streams with spaces := x } } := by
  have hread : ∃ c, (if d.srcSpace = 1 then { s with freeCtr := s.freeCtr + 1 } else s) = { s with freeCtr := c } := by
    split
    · exact ⟨_, rfl⟩
    · exact ⟨s.freeCtr, rfl⟩
  obtain ⟨c, hc⟩ := hread
  unfold State.dmaMoveBytes
  dsimp only
  rw [hc]
  split
  · split
    · obtain ⟨y, hy⟩ := State.queueWords_frame { s with freeCtr := c } n d.dstSel (s.dmaWrites d count)
      exact ⟨c, y, s.streams.spaces, hy⟩
    · exact ⟨c, s.lanes, s.streams.spaces, rfl⟩
  · obtain ⟨x, hx⟩ := State.each_spaces (g := fun u w => u.dmaWrite d w) (fun u w => State.each_spaces (fun _ _ => ⟨_, rfl⟩) u _) { s with freeCtr := c } (s.dmaWrites d count)
    exact ⟨c, s.lanes, x, hx⟩

/-- R376: what a descriptor moved leaves of its channel everything but whether its packet has left before. -/
theorem State.dma_dmaMoved (s : State) (n : Nat) (d : Desc) : ∃ b, (s.dmaMoved n d).dma n = { s.dma n with moved := b } := by
  unfold State.dmaMoved
  split
  · obtain ⟨c, y, x, h⟩ := s.dmaMoveBytes_frame n d d.count
    exact ⟨(s.dma n).moved, by rw [h]; rfl⟩
  · split
    · exact ⟨(s.dma n).moved, (State.LeavesDma.loadService s _).dma n⟩
    · split
      · exact ⟨false, get_set_self ..⟩
      · exact ⟨(s.dma n).moved, (State.LeavesDma.movePkt s n).dma n⟩

theorem State.rd_dmaMoved (s : State) (n : Nat) (d : Desc) {a : Nat} (ha : Reg.OfStreams a) : (s.dmaMoved n d).rd a = s.rd a := by
  unfold State.dmaMoved
  split
  · obtain ⟨c, y, x, h⟩ := s.dmaMoveBytes_frame n d d.count
    rw [h]
    rfl
  · split
    · exact (State.LeavesDma.loadService s _).rd a ha
    · split
      · rfl
      · exact (State.LeavesDma.movePkt s n).rd a ha

/-- R376: a descriptor that moves a packet which the model holds whole writes no byte that a channel addresses. -/
theorem State.spaces_dmaMoved {s : State} {n : Nat} {d : Desc} (h : s.dmaCarries n d = true) : (s.dmaMoved n d).streams.spaces = s.streams.spaces := by
  rw [State.dmaMoved, if_neg (by simp [h])]
  split
  · exact (State.LeavesDma.loadService s _).spaces
  · split
    · rfl
    · exact (State.LeavesDma.movePkt s n).spaces

/-- R376: on the channel of a service class, or on one behind them. -/
theorem State.dmaMoved_service (s : State) {n : Nat} (hn : 32 ≤ n) (d : Desc) : s.dmaMoved n d =
    if n < 36 ∧ d.dstSpace = 1 ∧ (s.port (n - 32)).out ≠ [] then s.loadService (s.classLane (n - 32) true) else s.dmaMoveBytes n d d.count := by
  have hcarries : s.dmaCarries n d = true ↔ n < 36 ∧ d.dstSpace = 1 ∧ (s.port (n - 32)).out ≠ [] := by
    simp [State.dmaCarries, Nat.not_lt.mpr hn, and_assoc]
  by_cases h : s.dmaCarries n d = true
  · rw [State.dmaMoved, if_neg (by simp [h]), if_pos hn, if_pos (hcarries.mp h)]
  · rw [State.dmaMoved, if_pos (by simpa using h), if_neg fun g => h (hcarries.mpr g)]

/-! ## A halt (R381) -/

/-- R381: channel n as it halts at the descriptor at `a`, before the recorder, the hosts and a running `DMA_RESTART` are told. -/
def State.halted (s : State) (n a code : Nat) : State :=
  let d := s.desc a
  let used := if code = 2 then d.status / 256 else s.f (Reg.DMA_STATUS n) 11 8
  let t := s.setDescStatus a (setBitN d.status 1 true % 4 + 4 * code + 256 * used)
  let u := t.setDma n { t.dma n with failed := a, restarting := false, haltedAt := some t.now }
  ((((u.flag Reg.STREAM_FLAGS code).setHalted n true).setF (Reg.DMA_STATUS n) 1 0 3).setF (Reg.DMA_STATUS n) 5 4 code).setF (Reg.DMA_STATUS n) 31 16 d.seqno

theorem State.haltDma_leaves (s : State) (n a code : Nat) : (s.halted n a code).LeavesDma (s.haltDma n a code) := by
  have htold : (s.halted n a code).LeavesDma (((s.halted n a code).post Rec.DMA_HALTED (n + 64 * code)).raise Ev.DMA_HALTED .all
      (leBytes 1 n ++ leBytes 1 code ++ leBytes 2 (s.desc a).seqno ++ leBytes 4 a)) := (State.LeavesDma.post ..).trans (State.LeavesDma.raise ..)
  unfold State.haltDma
  extract_lets d used t c u v w y z
  exact State.LeavesDma.ite (htold.trans (State.LeavesDma.finish ..)) htold

/-- R384: the bit of a halted channel lies in `DMA_HALTED_LO` or `DMA_HALTED_HI`. -/
theorem State.rd_setHalted (s : State) (n : Nat) (b : Bool) {a : Nat} (hlo : a ≠ Reg.DMA_HALTED_LO) (hhi : a ≠ Reg.DMA_HALTED_HI) : (s.setHalted n b).rd a = s.rd a := by
  unfold State.setHalted
  split
  · exact State.rd_setBit_ne _ hlo ..
  · exact State.rd_setBit_ne _ hhi ..

theorem State.streams_setHalted (s : State) (n : Nat) (b : Bool) : (s.setHalted n b).streams = s.streams := by
  unfold State.setHalted
  split <;> rfl

theorem State.dma_halted (s : State) (n a code : Nat) : (s.halted n a code).dma n = { s.dma n with failed := a, restarting := false, haltedAt := some s.now } := by
  unfold State.halted
  extract_lets d used t _ u
  have hchan : u.dma n = { t.dma n with failed := a, restarting := false, haltedAt := some t.now } := get_set_self ..
  have ht : t.dma n = s.dma n := s.dma_setDescStatus ..
  have hnow : t.now = s.now := s.now_setDescStatus ..
  have hregs : ((((u.flag Reg.STREAM_FLAGS code).setHalted n true).setF (Reg.DMA_STATUS n) 1 0 3).setF (Reg.DMA_STATUS n) 5 4 code |>.setF (Reg.DMA_STATUS n) 31 16 d.seqno).dma n
      = u.dma n := by
    rw [State.dma, State.setF_streams, State.setF_streams, State.setF_streams, State.streams_setHalted, State.flag_streams, State.dma]
  rw [hregs, hchan, ht, hnow]

/-- R381: the registers that a halt writes. -/
theorem State.rd_halted (s : State) (n a code : Nat) {b : Nat} (hst : b ≠ Reg.DMA_STATUS n) (hflags : b ≠ Reg.STREAM_FLAGS) (hlo : b ≠ Reg.DMA_HALTED_LO)
    (hhi : b ≠ Reg.DMA_HALTED_HI) : (s.halted n a code).rd b = s.rd b := by
  unfold State.halted
  extract_lets d used t _ u
  have ht : t.rd b = s.rd b := s.rd_setDescStatus ..
  rw [State.rd_setF_ne _ hst, State.rd_setF_ne _ hst, State.rd_setF_ne _ hst, State.rd_setHalted _ _ _ hlo hhi, State.rd_flag_ne _ hflags]
  exact ht

/-- R381: what a halt shows: the state and the code of the channel, the flag of the code, and the descriptor that failed. -/
theorem State.haltDma_effects (s : State) {n : Nat} (hn : n < 64) (a : Nat) {code : Nat} (hc : code < 4) : (s.haltDma n a code).f (Reg.DMA_STATUS n) 1 0 = 3 ∧
    (s.haltDma n a code).f (Reg.DMA_STATUS n) 5 4 = code ∧ (s.haltDma n a code).bit Reg.STREAM_FLAGS code = true ∧ ((s.haltDma n a code).dma n).failed = a := by
  have hleaves := s.haltDma_leaves n a code
  have hstatus := hleaves.rd _ (Reg.ofStreams_dmaStatus hn)
  have hflags := hleaves.rd Reg.STREAM_FLAGS (by decide)
  rw [State.f_congr hstatus, State.f_congr hstatus, State.bit_congr hflags, hleaves.dma, State.dma_halted]
  have hne : Reg.STREAM_FLAGS ≠ Reg.DMA_STATUS n := by simp only [Reg.STREAM_FLAGS, Reg.DMA_STATUS]; omega
  refine ⟨?_, ?_, ?_, rfl⟩
  · rw [State.halted, State.f_setF_off _ _ (by decide) (by decide) (by decide), State.f_setF_off _ _ (by decide) (by decide) (by decide),
      State.f_setF_self _ _ (by decide) (by decide)]
    exact Nat.mod_eq_of_lt (by decide)
  · rw [State.halted, State.f_setF_off _ _ (by decide) (by decide) (by decide), State.f_setF_self _ _ (by decide) (by decide)]
    exact Nat.mod_eq_of_lt hc
  · rw [State.halted, State.bit_congr (State.rd_setF_ne _ hne ..), State.bit_congr (State.rd_setF_ne _ hne ..), State.bit_congr (State.rd_setF_ne _ hne ..),
      State.bit_congr (State.rd_setHalted _ _ _ (by decide) (by decide)), State.bit_flag_self _ _ (by omega)]

/-! ## What is counted of a channel (R380) -/

/-- What channel n has completed stands: the descriptor completed last, the notes to its user and `DMA_DONE_n`. -/
structure State.KeepsDone (n : Nat) (s t : State) : Prop where
  lastDone : (t.dma n).lastDone = (s.dma n).lastDone
  notified : (t.dma n).notified = (s.dma n).notified
  done : t.rd (Reg.DMA_DONE n) = s.rd (Reg.DMA_DONE n)

namespace State.KeepsDone

variable {n : Nat} {s t u : State}

theorem trans (h : State.KeepsDone n s t) (g : State.KeepsDone n t u) : State.KeepsDone n s u :=
  ⟨g.lastDone.trans h.lastDone, g.notified.trans h.notified, g.done.trans h.done⟩

theorem of_leaves (hn : n < 64) (h : s.LeavesDma t) : State.KeepsDone n s t :=
  ⟨congrArg DmaCh.lastDone (h.dma n), congrArg DmaCh.notified (h.dma n), h.rd _ (Reg.ofStreams_dmaDone hn)⟩

theorem wr (s : State) {a : Nat} (ha : Reg.DMA_DONE n ≠ a) (v : Word) : State.KeepsDone n s (s.wr a v) := ⟨rfl, rfl, s.rd_wr_ne ha v⟩

theorem setDma (s : State) {c : DmaCh} (hl : c.lastDone = (s.dma n).lastDone) (hd : c.notified = (s.dma n).notified) : State.KeepsDone n s (s.setDma n c) := by
  have hc : (s.setDma n c).dma n = c := get_set_self ..
  exact ⟨by rw [hc, hl], by rw [hc, hd], rfl⟩

theorem haltDma (s : State) (hn : n < 64) (a code : Nat) : State.KeepsDone n s (s.haltDma n a code) := by
  have hchan := s.dma_halted n a code
  have hdone : (s.halted n a code).rd (Reg.DMA_DONE n) = s.rd (Reg.DMA_DONE n) := by
    refine s.rd_halted n a code ?_ ?_ ?_ ?_ <;>
      simp only [Reg.DMA_DONE, Reg.DMA_STATUS, Reg.STREAM_FLAGS, Reg.DMA_HALTED_LO, Reg.DMA_HALTED_HI] <;> omega
  exact trans ⟨by rw [hchan], by rw [hchan], hdone⟩ (of_leaves hn (s.haltDma_leaves n a code))

theorem setStatus (s : State) (hi lo v : Nat) : State.KeepsDone n s (s.setF (Reg.DMA_STATUS n) hi lo v) :=
  wr s (by simp only [Reg.DMA_DONE, Reg.DMA_STATUS]; omega) _

theorem fetchDesc (s : State) (hn : n < 64) (a : Nat) : State.KeepsDone n s (s.fetchDesc n a) := by
  unfold State.fetchDesc
  extract_lets t _ u
  have hcur : Reg.DMA_DONE n ≠ Reg.DMA_CUR n := by simp only [Reg.DMA_DONE, Reg.DMA_CUR]; omega
  have hu : State.KeepsDone n s u := ((wr s hcur _).trans (setStatus ..)).trans (setDma t rfl rfl)
  split
  · exact hu.trans ((setStatus ..).trans (haltDma _ hn ..))
  · split
    · exact hu.trans (setStatus ..)
    · exact hu.trans (haltDma _ hn ..)

/-- R379: going on from a `NEXT` counts nothing. -/
theorem followNext (s : State) (hn : n < 64) (next : Nat) : State.KeepsDone n s (s.followNext n next) := by
  unfold State.followNext
  split
  · exact setStatus ..
  · exact fetchDesc s hn next

end State.KeepsDone

/-! ## DMA_DESCRIPTOR_DONE (R378 to R380, R382) -/

/-- R380: the descriptor at `a` is marked done and counted, and what it moves has moved. -/
def State.movedDesc (s : State) (n a : Nat) : State :=
  ((s.setDescStatus a (1 + 256 * s.f (Reg.DMA_STATUS n) 11 8)).inc (Reg.DMA_DONE n)).dmaMoved n (s.desc a)

/-- R380, R382: the channel keeps the descriptor completed last; its user is notified if `notify` asks for that. -/
def State.doneDesc (s : State) (n a : Nat) (notify : Bool) : State :=
  s.setDma n { s.dma n with lastDone := some a, restarting := false, notified := (s.dma n).notified + b2n notify }

/-- R382: a `DMA_RESTART` of the channel reports with its first descriptor completed. -/
def State.reportedDesc (s : State) (n a : Nat) (notify : Bool) : State :=
  if (s.dma n).restarting then (s.doneDesc n a notify).finish Op.DMA_RESTART Sts.OK 0 else s.doneDesc n a notify

section

variable {s : State} {n : Fin 64}

/-- A channel that does not run, or that waits for its lane, completes nothing. -/
theorem execDmaDescriptorDone_idle (h : s.dmaSt n ≠ 1 ∨ s.dmaWaits n = true) : exec (.dmaDescriptorDone n) s = .next s :=
  congrArg Host.Outcome.next (if_pos h)

/-- R380: a running channel completes its descriptor and goes on from its `NEXT`. -/
theorem execDmaDescriptorDone_completes (hst : s.dmaSt n = 1) (hw : s.dmaWaits n = false) (hin : (s.desc (s.r (Reg.DMA_CUR n))).inDram s.variant = true) :
    let t := (s.movedDesc n (s.r (Reg.DMA_CUR n))).reportedDesc n (s.r (Reg.DMA_CUR n)) (s.desc (s.r (Reg.DMA_CUR n))).notify
    exec (.dmaDescriptorDone n) s = .next (t.followNext n (t.desc (s.r (Reg.DMA_CUR n))).next) :=
  congrArg Host.Outcome.next ((if_neg (by simp [hst, hw])).trans (if_neg (by simp [hin])))

end

section

variable (s : State) (n a : Nat)

/-- R376, R380: a descriptor that is marked done and counted still moves the packet that it moved. -/
theorem State.dmaCarries_marked (v : Nat) (d : Desc) : ((s.setDescStatus a v).inc (Reg.DMA_DONE n)).dmaCarries n d = s.dmaCarries n d := by
  obtain ⟨x, hx⟩ := s.setDescStatus_frame a v
  rw [hx]
  rfl

theorem State.dma_movedDesc : ∃ b, (s.movedDesc n a).dma n = { s.dma n with moved := b } := by
  obtain ⟨b, hb⟩ := State.dma_dmaMoved ((s.setDescStatus a (1 + 256 * s.f (Reg.DMA_STATUS n) 11 8)).inc (Reg.DMA_DONE n)) n (s.desc a)
  exact ⟨b, hb.trans (congrArg (fun c : DmaCh => { c with moved := b }) (s.dma_setDescStatus ..))⟩

theorem State.r_movedDesc (hn : n < 64) : (s.movedDesc n a).r (Reg.DMA_DONE n) = min (s.r (Reg.DMA_DONE n) + 1) 0xFFFFFFFF := by
  have hmarked (v : Nat) : (s.setDescStatus a v).r (Reg.DMA_DONE n) = s.r (Reg.DMA_DONE n) := congrArg BitVec.toNat (s.rd_setDescStatus ..)
  rw [State.r, State.movedDesc, State.rd_dmaMoved _ _ _ (Reg.ofStreams_dmaDone hn), ← State.r, State.r_inc, hmarked]

/-- A descriptor that moves a packet which the model holds whole does not touch its own `NEXT`. -/
theorem State.desc_next_movedDesc (h : s.dmaCarries n (s.desc a) = true) : ((s.movedDesc n a).desc a).next = (s.desc a).next := by
  have hspaces : (s.movedDesc n a).streams.spaces = (s.setDescStatus a (1 + 256 * s.f (Reg.DMA_STATUS n) 11 8)).streams.spaces :=
    State.spaces_dmaMoved (by rw [State.dmaCarries_marked, h])
  rw [State.desc_congr hspaces, State.desc_next_setDescStatus]

theorem State.reportedDesc_leaves (notify : Bool) : (s.doneDesc n a notify).LeavesDma (s.reportedDesc n a notify) :=
  State.LeavesDma.ite (State.LeavesDma.finish ..) (State.LeavesDma.refl _)

end

section

variable {s : State} {n : Fin 64}

/-- R380: a channel of which no restart waits for its first descriptor reports nothing. -/
theorem execDmaDescriptorDone_unreported (hst : s.dmaSt n = 1) (hw : s.dmaWaits n = false) (hr : (s.dma n).restarting = false)
    (hin : (s.desc (s.r (Reg.DMA_CUR n))).inDram s.variant = true) :
    let t := (s.movedDesc n (s.r (Reg.DMA_CUR n))).doneDesc n (s.r (Reg.DMA_CUR n)) (s.desc (s.r (Reg.DMA_CUR n))).notify
    exec (.dmaDescriptorDone n) s = .next (t.followNext n ((s.movedDesc n (s.r (Reg.DMA_CUR n))).desc (s.r (Reg.DMA_CUR n))).next) := by
  intro t
  obtain ⟨b, hb⟩ := s.dma_movedDesc n (s.r (Reg.DMA_CUR n))
  have hreported : (s.movedDesc n (s.r (Reg.DMA_CUR n))).reportedDesc n (s.r (Reg.DMA_CUR n)) (s.desc (s.r (Reg.DMA_CUR n))).notify = t :=
    if_neg (by simp [hb, hr])
  rw [execDmaDescriptorDone_completes hst hw hin, hreported]
  rfl

/-- R379, R380: what a descriptor that ends leaves of its channel. -/
theorem execDmaDescriptorDone_effects (hst : s.dmaSt n = 1) (hin : (s.desc (s.r (Reg.DMA_CUR n))).inDram s.variant = true) (hw : s.dmaWaits n = false) :
    ∃ t, exec (.dmaDescriptorDone n) s = .next t ∧ t.r (Reg.DMA_DONE n) = min (s.r (Reg.DMA_DONE n) + 1) 0xFFFFFFFF ∧ (t.dma n).lastDone = some (s.r (Reg.DMA_CUR n)) ∧
      (t.dma n).notified = (s.dma n).notified + b2n (s.desc (s.r (Reg.DMA_CUR n))).notify ∧
      (s.dmaCarries n (s.desc (s.r (Reg.DMA_CUR n))) = true → (s.desc (s.r (Reg.DMA_CUR n))).next = 0xFFFFFFFF → t.f (Reg.DMA_STATUS n) 1 0 = 2) := by
  refine ⟨_, execDmaDescriptorDone_completes hst hw hin, ?_⟩
  generalize s.r (Reg.DMA_CUR n) = a
  generalize (s.desc a).notify = notify
  have hleaves := (s.movedDesc n a).reportedDesc_leaves n a notify
  generalize (s.movedDesc n a).reportedDesc n a notify = t at hleaves ⊢
  have hkeeps := (State.KeepsDone.of_leaves n.isLt hleaves).trans (State.KeepsDone.followNext t n.isLt (t.desc a).next)
  have hchan : ((s.movedDesc n a).doneDesc n a notify).dma n =
      { (s.movedDesc n a).dma n with lastDone := some a, restarting := false, notified := ((s.movedDesc n a).dma n).notified + b2n notify } := get_set_self ..
  obtain ⟨b, hb⟩ := s.dma_movedDesc n a
  refine ⟨(congrArg BitVec.toNat hkeeps.done).trans (s.r_movedDesc n a n.isLt), ?_, ?_, fun hc hend => ?_⟩
  · rw [hkeeps.lastDone, hchan]
  · rw [hkeeps.notified, hchan, hb]
  · have hnext : (t.desc a).next = endMark := by
      rw [State.desc_congr hleaves.spaces]
      exact (s.desc_next_movedDesc n a hc).trans hend
    rw [State.followNext, if_pos hnext, State.f_setF_self _ _ (by decide) (by decide)]
    exact Nat.mod_eq_of_lt (by decide)

/-! ## DMA_BURST_ERROR (R381) -/

/-- R381: a channel that does not run has no burst under way. -/
theorem execDmaBurstError_idle {w : BurstAnswer} (hw : w ≠ .late) (hst : s.dmaSt n ≠ 1) : exec (.dmaBurstError n w) s = .next s :=
  congrArg Host.Outcome.next ((if_neg hw).trans (if_pos hst))

/-- R381: a burst that fails is issued again, or halts its channel. -/
theorem execDmaBurstError_running {w : BurstAnswer} (hw : w ≠ .late) (hst : s.dmaSt n = 1) : exec (.dmaBurstError n w) s =
    .next (if (if w = .again then (s.dma n).tries else 0) < s.f Reg.STREAM_CTRL 3 0 then
      (s.setDma n { s.dma n with tries := (if w = .again then (s.dma n).tries else 0) + 1 }).addF (Reg.DMA_STATUS n) 11 8 1
      else ((s.dmaPartial n).dropCapture n).haltDma n (s.r (Reg.DMA_CUR n)) 1) :=
  congrArg Host.Outcome.next ((if_neg hw).trans (if_neg (not_not_intro hst)))

/-- R381: the last burst of a descriptor that has completed halts its channel, and drops what it wrote to a lane queue. -/
theorem execDmaBurstError_late {a : Nat} (ha : (s.dma n).lastDone = some a) (h0 : s.dmaSt n ≠ 0) (h3 : s.dmaSt n ≠ 3) :
    exec (.dmaBurstError n .late) s = .next ((s.dropLate n).haltDma n a 2) := by
  show execDmaBurstError n .late s = _
  unfold execDmaBurstError
  dsimp only
  rw [if_pos rfl, ha]
  exact congrArg Host.Outcome.next (if_neg (by simp [h0, h3]))

end

/-! ## Stream packets (R365, R373) -/

@[simp] theorem State.sub_setSub_self (s : State) (ch : Nat) (u : Sub) : (s.setSub ch u).sub ch = u := get_set_self ..

/-- R373: a packet of the bulk classes that fits its ring is placed last. -/
theorem State.placePkt_fits {s : State} {ch : Nat} {k : StreamPkt} (hst : (s.sub ch).state = 2) (hsafe : (s.sub ch).safety = false)
    (hfit : (s.sub ch).fill + k.size ≤ s.ringCap (s.sub ch)) : s.placePkt ch k = s.setSub ch { s.sub ch with
      ring := (s.sub ch).ring ++ [{ k with pseq := (s.sub ch).placed % 65536 }], placed := (s.sub ch).placed + 1, fill := (s.sub ch).fill + k.size } := by
  unfold State.placePkt
  dsimp only
  rw [if_neg (not_not_intro hst), hsafe]
  exact if_neg (Nat.not_lt.mpr hfit)

/-- R365: a packet that is formed is placed. -/
theorem execStreamPacketFormed_formed {s : State} {ch : Fin 32} {k : StreamPkt} {r : List PendRec} (h : packNext (s.sub ch).kind (s.sub ch).pend = some (k, r)) :
    exec (.streamPacketFormed ch) s = .next ((s.setSub ch { s.sub ch with pend := r }).placePkt ch k) := by
  show execStreamPacketFormed ch s = _
  unfold execStreamPacketFormed
  dsimp only
  rw [h]

theorem execStreamPacketFormed_none {s : State} {ch : Fin 32} (h : packNext (s.sub ch).kind (s.sub ch).pend = none) : exec (.streamPacketFormed ch) s = .next s := by
  show execStreamPacketFormed ch s = _
  unfold execStreamPacketFormed
  dsimp only
  rw [h]

/-! ## The statement -/

/-- R349, R373, R383: what a channel waits for whose lane takes no packet. -/
theorem State.dmaWaits_of_full {s : State} {n : Nat} (hd : (s.desc (s.r (Reg.DMA_CUR n))).dstSpace = 1)
    (h : (n < 32 ∧ (s.dma n).moved = false ∧ (s.sub n).ring ≠ [] ∧ s.laneTakes n = false) ∨
      (32 ≤ n ∧ n < 36 ∧ (s.port (n - 32)).out ≠ [] ∧ s.serviceTakes (n - 32) = false)) : s.dmaWaits n = true := by
  rcases h with ⟨hn, hmoved, hring, htakes⟩ | ⟨hn, hn', hout, htakes⟩
  · simp [State.dmaWaits, State.dmaCarries, hd, hn, Nat.lt_trans hn, hmoved, hring, htakes]
  · simp [State.dmaWaits, State.dmaCarries, hd, Nat.not_lt.mpr hn, hn', hout, htakes]

/-- Settles O52, row by row: each condition on the channel picks one branch of its row, and what a row writes of its channel stands through what is told of it. -/
theorem streamsAndDmaRun : Obligations.StreamsAndDmaRun := by
  intro s
  refine ⟨fun ch k r h => execStreamPacketFormed_formed h, fun ch h => execStreamPacketFormed_none h, fun n hst => execDmaDescriptorDone_idle (.inl hst),
    fun n hd h => execDmaDescriptorDone_idle (.inr (State.dmaWaits_of_full hd h)), fun n hst hn hw hr hin => ?service,
    fun n w hw hst => execDmaBurstError_idle hw hst, fun n w hw hst => execDmaBurstError_running hw hst, fun n a ha hn h0 h3 => ?late,
    fun ch k r h hst hsafe hfit => ?placed, fun n hst hin hw => execDmaDescriptorDone_effects hst hin hw, fun n hst htries => ?halts, fun n a ha h0 h3 => ?lateHalts⟩
  case service =>
    intro a d u m
    have hport : u.port (n - 32) = s.port (n - 32) := s.port_setDescStatus ..
    have hmoved : s.movedDesc n a = m := by
      rw [State.movedDesc, State.dmaMoved_service _ hn, hport]
    rw [execDmaDescriptorDone_unreported hst hw hr hin, hmoved]
    rfl
  case late =>
    rw [execDmaBurstError_late ha h0 h3, State.dropLate, if_pos hn]
  case placed =>
    refine ⟨_, execStreamPacketFormed_formed h, ?_⟩
    have hfits := State.placePkt_fits (s := s.setSub ch { s.sub ch with pend := r }) (ch := ch) (k := k) (by rw [State.sub_setSub_self, hst])
      (by rw [State.sub_setSub_self]; exact hsafe) (by rw [State.sub_setSub_self]; exact hfit)
    rw [hfits, State.sub_setSub_self, State.sub_setSub_self]
    exact ⟨rfl, rfl, rfl, rfl⟩
  case halts =>
    refine ⟨_, (execDmaBurstError_running (by decide) hst).trans (congrArg Host.Outcome.next (if_neg ?_)), State.haltDma_effects _ n.isLt _ (by decide)⟩
    rw [if_pos rfl]
    exact Nat.not_lt.mpr htries
  case lateHalts => exact ⟨_, execDmaBurstError_late ha h0 h3, State.haltDma_effects _ n.isLt _ (by decide)⟩

end Sys2Proof.Machine
end

section
/-!
PROOFS. Proofs/Steps.lean: one step of the block: the queue's front (O1, O2), the state right after reset (O3, O4), the test port (O40), and what no step does: FAULT_HALT is left by
a reset alone (O6), fuses and the variant are never taken back (O7), and rails, test port and clock change by their own rows alone (O41).
-/

namespace Sys2Proof

/-- The rows that may change the operating state of a block in FAULT_HALT, or in BOOT: those of reset, and the end of boot. -/
def Instr.resets : Instr → Bool
  | .brownOut | .resetNInput _ _ | .resetDeviceExpiry | .bootDone _ => true
  | _ => false

/-- The rows of the supplies, of reset and of the test port. -/
def Instr.movesBalls : Instr → Bool
  | .powerRailChange _ _ | .brownOut | .resetNInput _ _ | .resetRelease _ => true
  | .jtagBypass _ | .jtagIdcode _ | .jtagSamplePreload _ _ | .jtagExtest _ | .jtagExtestPulse _ | .jtagExtestTrain _ | .jtagHighz _ | .jtagClamp _ => true
  | _ => false

end Sys2Proof

namespace Sys2Proof.Machine

open Sys2Proof

/-! ## The queue's front, and the state right after reset -/

/-- Settles O1: a step looks at the queue alone. -/
theorem stepTakesFront : Obligations.StepTakesFront := fun _ _ _ => rfl

/-- Settles O2: on an empty queue a step is `State.idle`. -/
theorem idleStep : Obligations.IdleStep := by
  intro s hs
  unfold step
  split
  next => rfl
  next c rest hq => exact nomatch hs.symm.trans hq

/-- Settles O3: every table is empty right after reset, so that every entry reads its default. -/
theorem resetState : Obligations.ResetState :=
  ⟨fun _ => rfl, rfl, rfl, fun _ => rfl, fun _ => rfl, fun _ => rfl, rfl, rfl, rfl, rfl, rfl, rfl, fun _ => rfl, rfl, fun _ => rfl, by decide, rfl⟩

/-- Settles O4: right after reset every queue is empty, and no enrolment waits. -/
theorem resetInv : Obligations.ResetInv where
  regs := rfl
  cmds := Nat.zero_le _
  queue := Nat.zero_le _
  ports _ := ⟨Nat.zero_le _, Nat.zero_le _, Nat.zero_le _⟩
  enroll _ h := nomatch h

/-! ## The test port (R492) -/

/-- R492: with `RESET_N` high an instruction that takes the balls is `BYPASS`. -/
theorem State.tapBoundary_high {s : State} (h : s.power.resetN = true) (i : TapInstr) : s.tapBoundary i = s.tapBypass := if_pos h

theorem State.tapClamp_high {s : State} (h : s.power.resetN = true) (i : TapInstr) : s.tapClamp i = s.tapBypass := if_pos h

/-- R492: with `RESET_N` low it is accepted, and its cells capture free values. -/
theorem State.tapBoundary_low {s : State} (h : s.power.resetN = false) (i : TapInstr) :
    s.tapBoundary i = { s with freeCtr := s.freeCtr + 1, tap := { s.tap with instr := i, data := Config.freeNat s.freeCtr } } :=
  if_neg (by simp [h])

theorem State.tapClamp_low {s : State} (h : s.power.resetN = false) (i : TapInstr) : s.tapClamp i = { s with tap := { s.tap with instr := i, data := 0 } } :=
  if_neg (by simp [h])

/-- Settles O40: each instruction by the levels of `TRST_N` and `RESET_N`. -/
theorem testPortRuns : Obligations.TestPortRuns := by
  intro s cells
  refine ⟨fun i hi => ?reset, rfl, rfl, rfl, fun h i hi => ?high, fun h => ⟨?extest, ?pulse, ?train, ?highz, ?clamp⟩⟩
  case reset => fin_cases hi <;> rfl
  case high =>
    fin_cases hi
    · exact congrArg _ (State.tapBoundary_high h _)
    · exact congrArg _ (State.tapBoundary_high h _)
    · exact congrArg _ (State.tapBoundary_high h _)
    · exact congrArg _ (State.tapClamp_high h _)
    · exact congrArg _ (State.tapClamp_high h _)
  case extest => exact congrArg _ (State.tapBoundary_low h _)
  case pulse => exact congrArg _ (State.tapBoundary_low h _)
  case train => exact congrArg _ (State.tapBoundary_low h _)
  case highz => exact congrArg _ (State.tapClamp_low h _)
  case clamp => exact congrArg _ (State.tapClamp_low h _)

/-! ## What every row keeps -/

/-- What a row keeps of FAULT_HALT, the clock, the supplies and the test port. -/
def rowKept (i : Instr) : Kept := { halt := !i.resets, balls := !i.movesBalls }

/-- Every row keeps FAULT_HALT but those that may reset the block, and the clock, the supplies and the test port but those whose own they are. -/
theorem exec_kept {s0 s : State} (i : Instr) (h : Keeps (rowKept i) s0 s) : ∃ u, exec i s = .next u ∧ Keeps (rowKept i) s0 u := by
  cases i with
  | powerRailChange rail uv => exact execPowerRailChange_keeps rail uv rfl h
  | brownOut => exact execBrownOut_keeps rfl rfl h
  | resetNInput high ns => exact execResetNInput_keeps high ns rfl rfl h
  | resetRelease flSel => exact execResetRelease_keeps flSel rfl h
  | bootDone r => exact execBootDone_keeps r rfl h
  | svnFuseStep => exact execSvnFuseStep_keeps h
  | nop c => exact execNop_keeps c h
  | identify c => exact execIdentify_keeps c h
  | ownerClaim c => exact execOwnerClaim_keeps c h
  | ownerRelease c => exact execOwnerRelease_keeps c h
  | arm c => exact execArm_keeps c h
  | disarm c => exact execDisarm_keeps c h
  | startSensing c => exact execStartSensing_keeps c h
  | stopSensing c => exact execStopSensing_keeps c h
  | forceSafe c => exact execForceSafe_keeps c h
  | recover c => exact execRecover_keeps c h
  | resetDevice c => exact execResetDevice_keeps c h
  | resetDeviceExpiry => exact execResetDeviceExpiry_keeps rfl h
  | syncTime c => exact execSyncTime_keeps c h
  | eventConfig c => exact execEventConfig_keeps c h
  | paramRead c => exact execParamRead_keeps c h
  | paramWrite c => exact execParamWrite_keeps c h
  | paramModify c => exact execParamModify_keeps c h
  | sctWrite c => exact execSctWrite_keeps c h
  | sctCommit c => exact execSctCommit_keeps c h
  | sctRead c => exact execSctRead_keeps c h
  | trackWrite c => exact execTrackWrite_keeps c h
  | trackRead c => exact execTrackRead_keeps c h
  | regionRequest c => exact execRegionRequest_keeps c h
  | regionCancel c => exact execRegionCancel_keeps c h
  | regionPriority c => exact execRegionPriority_keeps c h
  | zoneWrite c => exact execZoneWrite_keeps c h
  | zoneCommit c => exact execZoneCommit_keeps c h
  | zoneRead c => exact execZoneRead_keeps c h
  | streamSubscribe c => exact execStreamSubscribe_keeps c h
  | streamUnsubscribe c => exact execStreamUnsubscribe_keeps c h
  | streamStatus c => exact execStreamStatus_keeps c h
  | dmaRestart c => exact execDmaRestart_keeps c h
  | captureArm c => exact execCaptureArm_keeps c h
  | captureStop c => exact execCaptureStop_keeps c h
  | captureTrigger c => exact execCaptureTrigger_keeps c h
  | captureRead c => exact execCaptureRead_keeps c h
  | captureFree c => exact execCaptureFree_keeps c h
  | calibrateFull c => exact execCalibrateFull_keeps c h
  | calibrateComb c => exact execCalibrateComb_keeps c h
  | calRead c => exact execCalRead_keeps c h
  | calWrite c => exact execCalWrite_keeps c h
  | calSave c => exact execCalSave_keeps c h
  | templateWrite c => exact execTemplateWrite_keeps c h
  | templateCommit c => exact execTemplateCommit_keeps c h
  | templateRead c => exact execTemplateRead_keeps c h
  | attest c => exact execAttest_keeps c h
  | certRead c => exact execCertRead_keeps c h
  | updateBegin c => exact execUpdateBegin_keeps c h
  | updateData c => exact execUpdateData_keeps c h
  | updateCommit c => exact execUpdateCommit_keeps c h
  | updateCheckDone => exact execUpdateCheckDone_keeps h
  | ownerKeyEnroll c => exact execOwnerKeyEnroll_keeps c h
  | ownerKeyFuseDone => exact execOwnerKeyFuseDone_keeps h
  | healthRead c => exact execHealthRead_keeps c h
  | recorderRead c => exact execRecorderRead_keeps c h
  | recorderFlush c => exact execRecorderFlush_keeps c h
  | commandArrival opcode c => exact execCommandArrival_keeps opcode c h
  | lpWritePacket bytes => exact execLpWritePacket_keeps bytes h
  | lpReadPacket n => exact execLpReadPacket_keeps n h
  | lpReadStatus => exact execLpReadStatus_keeps h
  | lpCsRelease => exact execLpCsRelease_keeps h
  | arbSlotCommit w => exact execArbSlotCommit_keeps w h
  | arbSlotNext w => exact execArbSlotNext_keeps w h
  | patCommit w => exact execPatCommit_keeps w h
  | patternSwap => exact execPatternSwap_keeps h
  | wagCommit w => exact execWagCommit_keeps w h
  | axModeWrite a w => exact execAxModeWrite_keeps a w h
  | axManValueWrite a w => exact execAxManValueWrite_keeps a w h
  | biasRetry z w => exact execBiasRetry_keeps z w h
  | rxSelftestRun w => exact execRxSelftestRun_keeps w h
  | tdcStatRun c w => exact execTdcStatRun_keeps c w h
  | feClear w => exact execFeClear_keeps w h
  | ditherSaltWrite w => exact execDitherSaltWrite_keeps w h
  | fcPolyCommit w => exact execFcPolyCommit_keeps w h
  | framePeriodWrite w => exact execFramePeriodWrite_keeps w h
  | laneRetrain l w => exact execLaneRetrain_keeps l w h
  | laneTxReq l w => exact execLaneTxReq_keeps l w h
  | dmaAppend n addr d linked => exact execDmaAppend_keeps n addr d linked h
  | forceFailover w => exact execForceFailover_keeps w h
  | bulkReturn k w => exact execBulkReturn_keeps k w h
  | maConfigWrite m which w => exact execMaConfigWrite_keeps m which w h
  | rtdCtrlWrite w => exact execRtdCtrlWrite_keeps w h
  | rtdCfgWrite r w => exact execRtdCfgWrite_keeps r w h
  | frameSyncEdge rising => exact execFrameSyncEdge_keeps rising h
  | internalFrameEvent => exact execInternalFrameEvent_keeps h
  | swarmFrameTime => exact execSwarmFrameTime_keeps h
  | frameBoundary => exact execFrameBoundary_keeps h
  | flywheelBoundary => exact execFlywheelBoundary_keeps h
  | frameCutEdgeReached => exact execFrameCutEdgeReached_keeps h
  | arbBackoffExpiry ix => exact execArbBackoffExpiry_keeps ix h
  | columnPlan => exact execColumnPlan_keeps h
  | velocitySegmentPost fault => exact execVelocitySegmentPost_keeps fault h
  | columnStart => exact execColumnStart_keeps h
  | columnClose => exact execColumnClose_keeps h
  | plannerMicrosecond => exact execPlannerMicrosecond_keeps h
  | verdictArrival c => exact execVerdictArrival_keeps c h
  | dripCut bad other => exact execDripCut_keeps bad other h
  | shotLaunch => exact execShotLaunch_keeps h
  | sarShotTrigger => exact execSarShotTrigger_keeps h
  | sarControlRequest => exact execSarControlRequest_keeps h
  | sarConversionDone mf0 mf1 mf2 mf3 => exact execSarConversionDone_keeps mf0 mf1 mf2 mf3 h
  | startRefEdge t internal readings => exact execStartRefEdge_keeps t internal readings h
  | startTimeout => exact execStartTimeout_keeps h
  | comparatorEdge n count code level overNs => exact execComparatorEdge_keeps n count code level overNs h
  | receiveWindowClose n peak => exact execReceiveWindowClose_keeps n peak h
  | rangeChange n => exact execRangeChange_keeps n h
  | comparatorStuck n => exact execComparatorStuck_keeps n h
  | eventWordBinned c => exact execEventWordBinned_keeps c h
  | closeWord c => exact execCloseWord_keeps c h
  | batchComplete c g => exact execBatchComplete_keeps c g h
  | exportScanDone c => exact execExportScanDone_keeps c h
  | hiveDispatch k => exact execHiveDispatch_keeps k h
  | pointDetectionDone e => exact execPointDetectionDone_keeps e h
  | engineCheck k pass => exact execEngineCheck_keeps k pass h
  | chainWindowDone k memErr => exact execChainWindowDone_keeps k memErr h
  | clusterClose => exact execClusterClose_keeps h
  | zoneResult z => exact execZoneResult_keeps z h
  | streamPacketFormed ch => exact execStreamPacketFormed_keeps ch h
  | dmaDescriptorDone n => exact execDmaDescriptorDone_keeps n h
  | dmaBurstError n answer => exact execDmaBurstError_keeps n answer h
  | dripRetFrame f => exact execDripRetFrame_keeps f h
  | dripRetTimeout => exact execDripRetTimeout_keeps h
  | emitFaultInput low ns => exact execEmitFaultInput_keeps low ns h
  | lsdSafeEntry => exact execLsdSafeEntry_keeps h
  | acctSubinterval disagree => exact execAcctSubinterval_keeps disagree h
  | fadeStep => exact execFadeStep_keeps h
  | fadeEnd => exact execFadeEnd_keeps h
  | wlBlockMean t => exact execWlBlockMean_keeps t h
  | wlLossTimeout t => exact execWlLossTimeout_keeps t h
  | waggleTick xs ys late => exact execWaggleTick_keeps xs ys late h
  | loopComputeDone l => exact execLoopComputeDone_keeps l h
  | steerSafeEntry => exact execSteerSafeEntry_keeps h
  | heaterHoldExpiry => exact execHeaterHoldExpiry_keeps h
  | scanStartReached => exact execScanStartReached_keeps h
  | armSettled => exact execArmSettled_keeps h
  | armSettleTimeout => exact execArmSettleTimeout_keeps h
  | parkSettled a => exact execParkSettled_keeps a h
  | parkTimeout a => exact execParkTimeout_keeps a h
  | releaseDone a => exact execReleaseDone_keeps a h
  | monitorTick fast refBad rtdBad => exact execMonitorTick_keeps fast refBad rtdBad h
  | biasConversionDone c code => exact execBiasConversionDone_keeps c code h
  | rxSelftestDone results => exact execRxSelftestDone_keeps results h
  | blankInput level => exact execBlankInput_keeps level h
  | blankMaxTimeout => exact execBlankMaxTimeout_keeps h
  | clockWindow ref xtal badCombs badPlanners => exact execClockWindow_keeps ref xtal badCombs badPlanners h
  | refclkPresent => exact execRefclkPresent_keeps h
  | pllLocked => exact execPllLocked_keeps h
  | timingLockHold => exact execTimingLockHold_keeps h
  | xoMeasure offset => exact execXoMeasure_keeps offset h
  | xoCorrection => exact execXoCorrection_keeps h
  | statRunDone c => exact execStatRunDone_keeps c h
  | statRunTimeout c => exact execStatRunTimeout_keeps c h
  | feStrongEvent => exact execFeStrongEvent_keeps h
  | feContextExpiry ix => exact execFeContextExpiry_keeps ix h
  | swarmSlot => exact execSwarmSlot_keeps h
  | swarmMessageRx m => exact execSwarmMessageRx_keeps m h
  | swarmLossTimeout => exact execSwarmLossTimeout_keeps h
  | captureItem fault => rw [exec_captureItem]; exact execCaptureItem_keeps fault h
  | captureTimeItem => exact execCaptureTimeItem_keeps h
  | capturePreFull => exact execCapturePreFull_keeps h
  | capturePostFull => exact execCapturePostFull_keeps h
  | captureClosed => exact execCaptureClosed_keeps h
  | maWord m v => exact execMaWord_keeps m v h
  | housekeepingWord v refOff => exact execHousekeepingWord_keeps v refOff h
  | rtdPhaseDone v ix => exact execRtdPhaseDone_keeps v ix h
  | thermalTrip ix => exact execThermalTrip_keeps ix h
  | laneGroupTx l => exact execLaneGroupTx_keeps l h
  | laneGroupRx l units => exact execLaneGroupRx_keeps l units h
  | replayTimeout l => exact execReplayTimeout_keeps l h
  | laneSignal l => exact execLaneSignal_keeps l h
  | laneCommaLock l => exact execLaneCommaLock_keeps l h
  | laneCommaLoss l => exact execLaneCommaLoss_keeps l h
  | laneTrainDone l => exact execLaneTrainDone_keeps l h
  | laneRateSwitch l => exact execLaneRateSwitch_keeps l h
  | laneEqDone l eyes ctle preset peerOk => exact execLaneEqDone_keeps l eyes ctle preset peerOk h
  | laneUp l => exact execLaneUp_keeps l h
  | retrainTimeout l => exact execRetrainTimeout_keeps l h
  | eyeUpdate l eye => exact execEyeUpdate_keeps l eye h
  | laneLossTimeout l => exact execLaneLossTimeout_keeps l h
  | dozeIdleTimeout l => exact execDozeIdleTimeout_keeps l h
  | laneWakeDone l => exact execLaneWakeDone_keeps l h
  | pairSwitchDelay l => exact execPairSwitchDelay_keeps l h
  | pairRejoin l => exact execPairRejoin_keeps l h
  | standbySelftest x pass => exact execStandbySelftest_keeps x pass h
  | plannerRetest x pass => exact execPlannerRetest_keeps x pass h
  | checkpointRestored bad0 bad1 => exact execCheckpointRestored_keeps bad0 bad1 h
  | failoverTimeout => exact execFailoverTimeout_keeps h
  | claimTieTimeout => exact execClaimTieTimeout_keeps h
  | watchdogMiss => exact execWatchdogMiss_keeps h
  | lockstepMismatch => exact execLockstepMismatch_keeps h
  | ssnReadback high => exact execSsnReadback_keeps high h
  | memoryError site uncorrectable => exact execMemoryError_keeps site uncorrectable h
  | combCalStart => exact execCombCalStart_keeps h
  | combCalDone k => exact execCombCalDone_keeps k h
  | fullCalMeasureDone k => exact execFullCalMeasureDone_keeps k h
  | calAutoSave => exact execCalAutoSave_keeps h
  | calSaveDone good0 good1 => exact execCalSaveDone_keeps good0 good1 h
  | recorderPost code arg => exact execRecorderPost_keeps code arg h
  | recorderWrite => exact execRecorderWrite_keeps h
  | recorderFlushDone => exact execRecorderFlushDone_keeps h
  | recorderFlushBudget pages => exact execRecorderFlushBudget_keeps pages h
  | recorderEraseDone => exact execRecorderEraseDone_keeps h
  | jtagBypass trst => exact execJtagBypass_keeps trst rfl h
  | jtagIdcode trst => exact execJtagIdcode_keeps trst rfl h
  | jtagSamplePreload trst cells => exact execJtagSamplePreload_keeps trst cells rfl h
  | jtagExtest trst => exact execJtagExtest_keeps trst rfl h
  | jtagExtestPulse trst => exact execJtagExtestPulse_keeps trst rfl h
  | jtagExtestTrain trst => exact execJtagExtestTrain_keeps trst rfl h
  | jtagHighz trst => exact execJtagHighz_keeps trst rfl h
  | jtagClamp trst => exact execJtagClamp_keeps trst rfl h
  | receiverWakeLock l => exact execReceiverWakeLock_keeps l h
  | timeHighChange => exact execTimeHighChange_keeps h
  | timeSlewAbsorbed => exact execTimeSlewAbsorbed_keeps h

/-- A row that moves neither rails nor test port nor clock is none of those rows. -/
theorem movesBalls_eq_false {i : Instr} (hrail : ∀ k uv, i ≠ .powerRailChange k uv) (hbrown : i ≠ .brownOut) (hreset : ∀ h ns, i ≠ .resetNInput h ns)
    (hrelease : ∀ fl, i ≠ .resetRelease fl)
    (htap : ∀ b, i ≠ .jtagBypass b ∧ i ≠ .jtagIdcode b ∧ i ≠ .jtagExtest b ∧ i ≠ .jtagExtestPulse b ∧ i ≠ .jtagExtestTrain b ∧ i ≠ .jtagHighz b ∧ i ≠ .jtagClamp b)
    (hsample : ∀ b c, i ≠ .jtagSamplePreload b c) : i.movesBalls = false := by
  unfold Instr.movesBalls
  split <;> simp_all

/-- Settles O41: a row that is none of those named keeps supplies, test port and clock (`exec_kept`). -/
theorem ballsStay : Obligations.BallsStay := by
  intro i s t hi hrail hbrown hreset hrelease htap hsample
  obtain ⟨u, hu, hk⟩ := exec_kept i (Keeps.refl (rowKept i) s)
  obtain rfl := Host.Outcome.next.inj (hi.symm.trans hu)
  obtain ⟨hnow, hpower, htap'⟩ := hk.balls (by simp [rowKept, movesBalls_eq_false hrail hbrown hreset hrelease htap hsample])
  exact ⟨hpower, htap', hnow⟩

/-! ## FAULT_HALT -/

/-- The end of a reset is RESET. -/
theorem State.enterReset_dev (s : State) (cause : Nat) : (s.enterReset cause).dev = .reset := rfl

/-- R404: in FAULT_HALT each of the rows that may reset the block changes nothing of its state, or resets it. -/
theorem exec_resets {i : Instr} {s t : State} (hr : i.resets = true) (hs : s.dev = .faultHalt) (hi : exec i s = .next t) :
    t.dev = .faultHalt ∨ (t.dev = .reset ∧ (i = .brownOut ∨ i = .resetDeviceExpiry ∨ ∃ ns, i = .resetNInput false ns)) := by
  unfold Instr.resets at hr
  split at hr
  next =>
    obtain rfl := Host.Outcome.next.inj hi
    split
    · exact .inr ⟨rfl, .inl rfl⟩
    · exact .inl hs
  next high ns =>
    cases high with
    | true =>
      obtain rfl := Host.Outcome.next.inj hi
      rw [if_pos rfl]
      split <;> exact .inl hs
    | false =>
      obtain rfl := Host.Outcome.next.inj hi
      rw [if_neg Bool.false_ne_true]
      split
      · exact .inl hs
      · have hne : s.dev ≠ .reset := by rw [hs]; exact nofun
        rw [if_neg hne]
        refine .inr ⟨?_, .inr (.inr ⟨ns, rfl⟩)⟩
        rw [State.dev, State.setPower_sys]
        exact s.enterReset_dev 2
  next =>
    obtain rfl := Host.Outcome.next.inj hi
    split
    · exact .inl hs
    · split
      · exact .inl hs
      · exact .inr ⟨s.enterReset_dev 3, .inr (.inl rfl)⟩
  next r =>
    obtain rfl := Host.Outcome.next.inj hi
    have hne : s.dev ≠ .boot := by rw [hs]; exact nofun
    rw [if_pos hne]
    exact .inl hs
  next => cases hr

/-- Settles O6: a nanosecond leaves the state; a row that cannot reset the block keeps FAULT_HALT (`exec_kept`), and the others reset the block or do nothing (`exec_resets`). -/
theorem faultHaltStays : Obligations.FaultHaltStays := by
  intro s t hs hstep
  unfold step at hstep
  split at hstep
  next => exact .inl (Host.Outcome.next.inj hstep ▸ hs)
  next c rest hq =>
    rw [hq]
    cases hr : c.resets with
    | false =>
      obtain ⟨u, hu, hk⟩ := exec_kept c (Keeps.refl (rowKept c) { s with pending := rest })
      obtain rfl := Host.Outcome.next.inj (hstep.symm.trans hu)
      exact .inl (hk.halt (by simp [rowKept, hr]) hs)
    | true => simpa using exec_resets (s := { s with pending := rest }) hr hs hstep

/-! ## Fuses -/

/-- Settles O7: a nanosecond leaves all of it, and every row keeps it of the state without the row (`exec_keeps`). -/
theorem fusesStay : Obligations.FusesStay := by
  intro s t hstep
  unfold step at hstep
  split at hstep
  next hq =>
    obtain rfl := Host.Outcome.next.inj hstep
    exact ⟨Nat.le_refl _, fun _ => rfl, rfl, by rw [hq]; exact hq⟩
  next c rest hq =>
    obtain ⟨u, hu, hk⟩ := exec_keeps (b := { halt := false, balls := false }) rfl rfl (Keeps.refl _ { s with pending := rest }) c
    obtain rfl := Host.Outcome.next.inj (hstep.symm.trans hu)
    exact ⟨hk.svn, hk.owner, hk.variant, by rw [hk.pending, hq]; rfl⟩

end Sys2Proof.Machine
end

section
/-!
PROOFS. Proofs/CalibrationCommands.lean: `CALIBRATE_COMB` and `CAL_SAVE` (O33): combs that are due (R420), saves that start (R424), and what each command comes to.
-/

namespace Sys2Proof.Machine

open Sys2Proof

/-! ## Folds that change registers alone -/

/-- A fold of updates that change registers alone changes registers alone. -/
theorem State.each_regs {α : Type} {g : State → α → State} (hg : ∀ u a, ∃ r, g u a = { u with regs := r }) (s : State) (l : List α) :
    ∃ r, s.each l g = { s with regs := r } := by
  unfold State.each
  induction l generalizing s with
  | nil => exact ⟨s.regs, rfl⟩
  | cons a l ih =>
    obtain ⟨r, h⟩ := hg s a
    obtain ⟨r', h'⟩ := ih (g s a)
    exact ⟨r', by rw [List.foldl_cons, h', h]⟩

theorem State.setBit_regs (s : State) (a i : Nat) (v : Bool) : ∃ r, s.setBit a i v = { s with regs := r } := ⟨_, rfl⟩

theorem State.setF_regs (s : State) (a hi lo v : Nat) : ∃ r, s.setF a hi lo v = { s with regs := r } := ⟨_, rfl⟩

/-! ## Combs that are due (R420) -/

/-- R420: `CAL_COMB_c.DUE` of one comb, with the frames deferred of one that is not due. -/
def State.showDue (s : State) (c : Nat) : State :=
  (s.setBit (Reg.CAL_COMB c) 17 (s.calExcess c).isSome).when (!(s.calExcess c).isSome) fun s => s.setF (Reg.CAL_COMB c) 31 24 0

theorem State.syncDue_eq (s : State) : s.syncDue = s.each (List.range s.variant.combs) State.showDue := (rfl)

theorem State.showDue_regs (s : State) (c : Nat) : ∃ r, s.showDue c = { s with regs := r } := by
  obtain ⟨r, hr⟩ : ∃ r, s.setBit (Reg.CAL_COMB c) 17 (s.calExcess c).isSome = { s with regs := r } := s.setBit_regs ..
  unfold State.showDue State.when
  rw [hr]
  split
  · exact State.setF_regs { s with regs := r } ..
  · exact ⟨r, rfl⟩

theorem State.syncDue_regs (s : State) : ∃ r, s.syncDue = { s with regs := r } := State.each_regs State.showDue_regs s _

theorem State.bit_showDue_self (s : State) (c : Nat) : (s.showDue c).bit (Reg.CAL_COMB c) 17 = (s.calExcess c).isSome := by
  unfold State.showDue State.when
  split
  · rw [State.bit_setF_off _ _ (by decide) (by decide) (.inl (by decide)), State.bit_setBit_self _ _ (by decide)]
  · rw [State.bit_setBit_self _ _ (by decide)]

theorem State.rd_showDue_ne (s : State) {c a : Nat} (h : a ≠ Reg.CAL_COMB c) : (s.showDue c).rd a = s.rd a := by
  unfold State.showDue State.when
  split
  · exact (State.rd_setF_ne _ h ..).trans (State.rd_setBit_ne _ h ..)
  · exact State.rd_setBit_ne _ h ..

/-- A comb has its own register. -/
theorem Reg.calComb_inj {b c : Nat} (h : b ≠ c) : Reg.CAL_COMB b ≠ Reg.CAL_COMB c := by
  unfold Reg.CAL_COMB
  omega

/-- R420: a comb that is named and fitted is due. -/
theorem State.calExcess_named {s : State} {c : Nat} (hfit : c < s.variant.combs) (hn : s.cal.named.contains c = true) : (s.calExcess c).isSome = true := by
  unfold State.calExcess
  dsimp only
  rw [if_neg (Nat.not_le.mpr hfit), if_pos hn]
  rfl

/-- A comb that is named and fitted is shown as due, by its own turn of the fold, and stays so through those of the others. -/
theorem State.each_showDue_named {s : State} {c : Nat} (hfit : c < s.variant.combs) (hn : s.cal.named.contains c = true) {l : List Nat}
    (h : c ∈ l ∨ s.bit (Reg.CAL_COMB c) 17 = true) : (s.each l State.showDue).bit (Reg.CAL_COMB c) 17 = true := by
  unfold State.each
  induction l generalizing s with
  | nil => exact h.resolve_left List.not_mem_nil
  | cons b l ih =>
    obtain ⟨r, hr⟩ := s.showDue_regs b
    refine ih (s := s.showDue b) (by rw [hr]; exact hfit) (by rw [hr]; exact hn) ?_
    by_cases hb : c = b
    · subst hb
      exact .inr ((s.bit_showDue_self c).trans (State.calExcess_named hfit hn))
    · rw [State.bit_congr (s.rd_showDue_ne (Reg.calComb_inj hb))]
      exact h.imp_left fun hm => (List.mem_cons.mp hm).resolve_left hb

theorem State.syncDue_named {s : State} {c : Nat} (hfit : c < s.variant.combs) (hn : s.cal.named.contains c = true) : s.syncDue.bit (Reg.CAL_COMB c) 17 = true :=
  s.syncDue_eq ▸ State.each_showDue_named hfit hn (.inl (List.mem_range.mpr hfit))

/-! ## What naming a comb comes to -/

section

variable {s : State} {c : Nat}

theorem State.nameComb_bad (h : 32 ≤ c) : s.nameComb c = s.fail Sts.BAD_PARAM 0 := if_pos h

theorem State.nameComb_absent (h : c < 32) (hv : s.variant.combs ≤ c) : s.nameComb c = s.fail Sts.NOT_PRESENT 0 := by
  rw [State.nameComb, if_neg (Nat.not_le.mpr h), if_pos hv]

/-- R428: a comb that is being run. -/
theorem State.nameComb_running {r : CombRun} (h : c < s.variant.combs) (hr : s.cal.run = some r) (hc : r.comb = c) : s.nameComb c = s.fail Sts.BUSY := by
  have h32 := HoldsPair.combs_le s.variant
  rw [State.nameComb, if_neg (by omega), if_neg (by omega), if_pos (by simp [hr, hc])]

theorem State.nameComb_free (h : c < s.variant.combs) (hr : ∀ r, s.cal.run = some r → r.comb ≠ c) :
    s.nameComb c = ((s.setCal { s.cal with named := [c] }).syncDue).ok := by
  have h32 := HoldsPair.combs_le s.variant
  have hfree : (s.cal.run.any fun r => r.comb == c) = false := by
    cases hrun : s.cal.run with
    | none => rfl
    | some r => exact beq_eq_false_iff_ne.mpr (hr r hrun)
  rw [State.nameComb, if_neg (by omega), if_neg (by omega), if_neg (by simp [hfree])]

end

/-! ## Saves that start (R424) -/

/-- R424: a save that starts holds the working set, is shown, and is the last. -/
theorem State.startSave_effects (s : State) (blank : List Byte) : ∃ v, (s.startSave blank).cal.save = some v ∧ v.slots = s.saveSlots ∧
    v.rec_.entries = s.calEntries ∧ (s.startSave blank).bit Reg.CAL_STATUS 8 = true ∧ (s.startSave blank).cal.lastSave = s.now := by
  unfold State.startSave
  dsimp only
  generalize s.saveSlots = k, s.calEntries = entries, (List.range 16).map _ = templates
  exact ⟨_, rfl, rfl, rfl, State.bit_setBit_self _ _ (by decide) _, rfl⟩

/-! ## The statement -/

/-- Settles O33: an admitted command runs unless one of its opcode does; then the comb or the save decides. -/
theorem calibrationCommandsDecided : Obligations.CalibrationCommandsDecided := by
  intro c s p x t comb runs noted
  refine ⟨fun h hl => ?comb, fun h hl => ?save⟩ <;> obtain rfl := h.cmd
  case comb =>
    have hrun : exec (.calibrateComb x.cmd) s = .next (State.concludes p x (t.doCalibrateComb p x)) := h.runs (if_pos hl) _
    have hrefused : ∀ {y : Reply}, runs 0x0601 = false → t.nameComb comb = y → y.status ≠ Sts.OK → t.doCalibrateComb p x = y := fun hfree hy hst =>
      (State.startRunning_refused hfree (hy ▸ hst)).trans hy
    rw [hrun]
    refine ⟨fun hbusy => ?_, fun hfree hbad => ?_, fun hfree h32 habs => ?_, fun r hfree hfit hr hc => ?_, fun hfree hfit hr => ?_⟩
    · exact congrArg _ (congrArg _ (State.startRunning_busy hbusy))
    · rw [hrefused hfree (State.nameComb_bad hbad) (show Sts.BAD_PARAM ≠ Sts.OK by decide)]
    · rw [hrefused hfree (State.nameComb_absent h32 habs) (show Sts.NOT_PRESENT ≠ Sts.OK by decide)]
    · rw [hrefused hfree (State.nameComb_running hfit hr hc) (show Sts.BUSY ≠ Sts.OK by decide)]
    · have hname := State.nameComb_free hfit hr
      obtain ⟨q, hq⟩ := (t.setCal { t.cal with named := [comb] }).syncDue_regs
      refine ⟨(t.setCal { t.cal with named := [comb] }).syncDue, ?_, ?_, State.syncDue_named hfit (by simp), ?_⟩
      · refine congrArg _ (congrArg _ ((State.startRunning_accepted hfree (congrArg Reply.status hname)).trans ?_))
        rw [hname]
        rfl
      · rw [hq]
        rfl
      · rw [hq]
        rfl
  case save =>
    have hrun : exec (.calSave x.cmd) s = .next (State.concludes p x (t.doCalSave p x)) := h.runs (if_pos hl) _
    rw [hrun]
    refine ⟨fun hbusy => ?_, fun hfree hsave => ⟨?_, ?_⟩⟩
    · refine congrArg _ (congrArg _ ?_)
      cases hr : runs 0x0604 with
      | true => exact State.startRunning_busy hr
      | false =>
        have hsave : t.cal.save.isSome = true := hbusy.resolve_left (by simp [hr])
        have hgo : (if t.cal.save.isSome then t.fail Sts.BUSY else (t.startSave blankTpl).ok) = t.fail Sts.BUSY := if_pos hsave
        exact (State.startRunning_refused hr (by rw [hgo]; exact (show Sts.BUSY ≠ Sts.OK by decide))).trans hgo
    · have hgo : (if t.cal.save.isSome then t.fail Sts.BUSY else (t.startSave blankTpl).ok) = (t.startSave blankTpl).ok := if_neg (by simp [hsave])
      refine congrArg _ (congrArg _ ((State.startRunning_accepted hfree (congrArg Reply.status hgo)).trans ?_))
      rw [hgo]
      rfl
    · obtain ⟨v, hv, -, hentries, hbit, hlast⟩ := t.startSave_effects blankTpl
      exact ⟨v, hv, hentries, hbit, hlast⟩

end Sys2Proof.Machine
end

section
/-!
PROOFS. Proofs/StrayPort.lean: O35 speaks of every state, also of one where a command runs for a port that no command can come from. In such a state its clause of the end of a
check fails; the state is written out, and the model evaluates it.
-/

namespace Sys2Proof.Machine

open Sys2Proof

/-- STANDBY as after reset, with the commit of a session under way whose image lacks its only byte, and the command that began it noted for port 16,383. `PORT_QUEUE` of that
port, 0x10004C + 0x10 × 16,383, is the address of `UPDATE_STATUS`. -/
def strayCommit : State :=
  { State.reset with
    sys := { dev := .standby, running := [⟨0x0704, 0x3FFF, 0⟩] }
    boot := { State.reset.boot with upd := some { session := 0, kind := 1, total := 1, committing := true } } }

set_option maxRecDepth 20000 in
/-- The check closes the session, and the count of events waiting at the stray port is then written over `UPDATE_STATUS`. -/
theorem updateCheckDone_strayCommit : (match exec .updateCheckDone strayCommit with | .next t => t.r Reg.UPDATE_STATUS | _ => 0) = 256 := by decide +kernel

/-- Refutes O35, in the clause of the end of a check: in `strayCommit` `UPDATE_STATUS` is not 0 when the check has closed the session. The statement does not ask that a command that
runs be noted for a port of the block. -/
theorem not_updateCommandsDecided : ¬ Obligations.UpdateCommandsDecided := by
  intro h
  obtain ⟨-, -, -, hcheck⟩ := h.1 strayCommit
  obtain ⟨t, ht, -, -, -, hstatus⟩ := hcheck _ rfl rfl rfl rfl
  have hreg := updateCheckDone_strayCommit
  rw [ht] at hreg
  exact absurd (hstatus.symm.trans hreg) (by decide)

end Sys2Proof.Machine
end

section
/-!
PROOFS. Proofs/Enrolment.lean: the registers that the end of a running command leaves as they are, whatever port it is noted for; the owner key's enrolment (O36).
-/

namespace Sys2Proof.Machine

open Sys2Proof

/-! ## The end of a running command -/

/-- R357: `PORT_QUEUE` of any number has an address that is 12 beyond a multiple of 16. -/
theorem Reg.ne_portQueue_of_mod {a : Nat} (ha : a % 16 ≠ 12) (p : Nat) : a ≠ Reg.PORT_QUEUE p := by
  unfold Reg.PORT_QUEUE
  omega

/-- A mandatory event writes at most `PORT_QUEUE` of its port, whether the port exists or not. -/
theorem State.rd_queueEvent_mandatory (s : State) {code a : Nat} (hcode : mandatoryEvent code = true) (ha : a % 16 ≠ 12) (p tag status : Nat) (params : List Byte) :
    (s.queueEvent p code tag status params).rd a = s.rd a := by
  unfold State.queueEvent
  dsimp only
  rw [if_pos hcode]
  split
  · exact s.formPkt_rd p code tag true true status params p (Reg.ne_portQueue_of_mod ha p)
  · rfl

theorem State.rd_finish_of_mod (s : State) {a : Nat} (ha : a % 16 ≠ 12) (opcode status detail : Nat) : (s.finish opcode status detail).rd a = s.rd a := by
  unfold State.finish
  split
  · rfl
  · exact State.rd_queueEvent_mandatory _ rfl ha ..

/-! ## The statement -/

/-- Settles O36: an admitted enrolment runs unless one does; the fuses burn the hash of an enrolment that stands. -/
theorem ownerKeyRuns : Obligations.OwnerKeyRuns := by
  refine ⟨fun c s p x t h hl => ?enroll, fun s => ⟨fun hnone => ?none, fun e he => ?burn⟩⟩
  case enroll =>
    obtain rfl := h.cmd
    have hcmd : s.command ownerKeyRule (fun p x s => s.doOwnerKeyEnroll p x) x.cmd = State.concludes p x (t.doOwnerKeyEnroll p x) :=
      Host.Outcome.next.inj (h.runs (if_pos hl) _)
    have hrun : exec (.ownerKeyEnroll x.cmd) s = .next (State.concludes p x (t.doOwnerKeyEnroll p x)).enrollFails := congrArg (fun v : State => Host.Outcome.next v.enrollFails) hcmd
    rw [hrun]
    intro busy u
    exact ⟨fun hbusy => congrArg (fun y : Reply => Host.Outcome.next (State.concludes p x y).enrollFails) (State.startRunning_busy hbusy),
      fun hfree => congrArg (fun y : Reply => Host.Outcome.next (State.concludes p x y).enrollFails) (State.startRunning_accepted hfree rfl)⟩
  case none => exact congrArg Host.Outcome.next (by rw [hnone])
  case burn =>
    refine ⟨_, congrArg Host.Outcome.next (by rw [he]), ?_, ?_, ?_, ?_⟩
    · rw [(State.finish_part ..).2.2, State.setBit_boot, State.setBoot_boot]
    · rw [State.bit_congr (State.rd_finish_of_mod _ (by decide) ..), State.bit_setBit_self _ _ (by decide)]
    · rw [(State.finish_part ..).2.2, State.setBit_boot, State.setBoot_boot]
    · rw [(State.finish_part ..).2.2, State.setBit_boot, State.setBoot_boot]

end Sys2Proof.Machine
end

section
/-!
PROOFS. Proofs/RecorderRows.lean: the rows of the recorder (O60): what the writer does with an entry (R453, R454), and the state in which a flush that ended or was cut is
reported (R459, R460, R463).
-/

namespace Sys2Proof.Machine

open Sys2Proof

/-! ## The writer (R453, R454) -/

/-- The entry that is written, at the `SEQ` that is next. -/
def State.recEntry (s : State) (code arg timeUs : Nat) : RecEntry := ⟨s.recNext, timeUs, code, s.dev.code, s.bootTag, arg, true⟩

/-- R453, R458: an entry is written into the ring; what a running flush holds of the entry that it replaces may be lost; `REC_NEXT_SEQ` moves on. -/
theorem State.writeRec_eq (s : State) (code arg timeUs : Nat) : ∃ fl, s.writeRec code arg timeUs =
    { s with recorder := { s.recorder with ring := s.recorder.ring.set none (s.recNext % 4096) (some (s.recEntry code arg timeUs)), flush := fl } }.setR
      Reg.REC_NEXT_SEQ ((s.recNext + 1) % 2 ^ 32) := by
  unfold State.writeRec State.when
  dsimp only
  split <;> exact ⟨_, rfl⟩

/-- What an entry that is written leaves of the ring and of the registers. -/
theorem State.writeRec_effects (s : State) (code arg timeUs : Nat) :
    (s.writeRec code arg timeUs).recorder.ring.get none (s.recNext % 4096) = some (s.recEntry code arg timeUs) ∧
      (∀ j, j ≠ s.recNext % 4096 → (s.writeRec code arg timeUs).recorder.ring.get none j = s.recorder.ring.get none j) ∧
      (s.writeRec code arg timeUs).r Reg.REC_NEXT_SEQ = (s.recNext + 1) % 2 ^ 32 ∧
      (∀ a, a ≠ Reg.REC_NEXT_SEQ → (s.writeRec code arg timeUs).rd a = s.rd a) ∧
      (s.writeRec code arg timeUs).recorder.queue = s.recorder.queue ∧ (s.writeRec code arg timeUs).recorder.highUs = s.recorder.highUs := by
  obtain ⟨fl, h⟩ := s.writeRec_eq code arg timeUs
  rw [h]
  exact ⟨get_set_self .., fun j hj => get_set_ne _ _ _ hj _, (State.r_setR ..).trans (Nat.mod_mod ..), fun a ha => State.rd_setR_ne _ ha _, rfl, rfl⟩

/-- R454: with nothing to say of a drop, the writer takes the first entry of the queue. -/
theorem State.recWriter_front {s : State} {q : RecPost} {l : List RecPost} (hd : s.recorder.dropped = 0) (hq : s.recorder.queue = q :: l) (hb : q.code ≠ Rec.BOOT)
    (ht : q.code ≠ Rec.TIME_STEP) : s.recWriter = (s.setRec { s.recorder with queue := l }).writeRec q.code q.arg q.timeUs := by
  unfold State.recWriter
  rw [if_neg (not_not_intro hd), hq]
  exact if_neg (not_or.mpr ⟨hb, ht⟩)

theorem State.recWriter_idle {s : State} (hd : s.recorder.dropped = 0) (hq : s.recorder.queue = []) : s.recWriter = s := by
  unfold State.recWriter
  rw [if_neg (not_not_intro hd), hq]

section

variable {s : State} (hdev : s.dev ≠ .reset)

include hdev

theorem execRecorderPost_running (code : BitVec 8) (arg : BitVec 16) : exec (.recorderPost code arg) s = .next (s.post code.toNat arg.toNat) :=
  congrArg Host.Outcome.next (if_neg hdev)

theorem execRecorderWrite_running : exec .recorderWrite s = .next s.recWriter := congrArg Host.Outcome.next (if_neg hdev)

theorem execTimeHighChange_running (h : s.highNow ≠ s.recorder.highUs) :
    exec .timeHighChange s = .next (s.when (s.recorder.dropped != 0) State.writeLost).writeHigh := congrArg Host.Outcome.next (if_neg (not_or.mpr ⟨hdev, h⟩))

end

/-! ## Flushes that end (R459, R460) -/

/-- R459: the header of a flush that has programmed all its pages. -/
def State.flushHeader (s : State) (f : RecFlush) : RecHeader :=
  ⟨s.flushSeq + 1, f.first, f.last, f.trigger, f.state, f.time, f.last + 1 - f.first - f.copy.length⟩

/-- R459: the slot that holds all of a flush. -/
def State.flushSlot (s : State) (f : RecFlush) : RecSlot := { blank := false, header := some (s.flushHeader f), entries := placeEntries f.first f.copy ⟨[]⟩ }

/-- The flush of which a slot now holds all is over, before it is reported. -/
def State.flushEnded (s : State) (f : RecFlush) : State :=
  let s := s.setRecSlot f.slot (s.flushSlot f)
  let s := (s.setRec { s.recorder with flush := none }).inc Reg.REC_FLUSH_COUNT
  let s := if f.last + 1 - f.first - f.copy.length ≠ 0 then s.flag Reg.REC_FLAGS 4 else s
  if f.trigger = 6 then s.flag Reg.BOOT_FLAGS 4 else s

theorem State.flushDone_eq (s : State) (f : RecFlush) : s.flushDone f = (((s.flushEnded f).flushReport f false f.copy.length).flushPump).startErase := (rfl)

/-- A flag set on a condition leaves the recorder. -/
theorem State.flagIf_recorder (s : State) (c : Prop) [Decidable c] (a i : Nat) : (if c then s.flag a i else s).recorder = s.recorder := by split <;> rfl

theorem State.rd_flagIf_ne (s : State) (c : Prop) [Decidable c] {a b : Nat} (h : b ≠ a) (i : Nat) : (if c then s.flag a i else s).rd b = s.rd b := by
  split
  · exact State.rd_flag_ne _ h i
  · rfl

theorem State.flushEnded_effects (s : State) (f : RecFlush) : (s.flushEnded f).recorder.flush = none ∧ (s.flushEnded f).recSlot f.slot = s.flushSlot f ∧
    (s.flushEnded f).r Reg.REC_FLUSH_COUNT = min (s.r Reg.REC_FLUSH_COUNT + 1) 0xFFFFFFFF := by
  have hrec : (s.flushEnded f).recorder = { (s.setRecSlot f.slot (s.flushSlot f)).recorder with flush := none } := (State.flagIf_recorder ..).trans (State.flagIf_recorder ..)
  have hcount : (s.flushEnded f).rd Reg.REC_FLUSH_COUNT = (((s.setRecSlot f.slot (s.flushSlot f)).setRec _).inc Reg.REC_FLUSH_COUNT).rd Reg.REC_FLUSH_COUNT :=
    (State.rd_flagIf_ne _ _ (show Reg.REC_FLUSH_COUNT ≠ Reg.BOOT_FLAGS by decide) _).trans
      (State.rd_flagIf_ne _ _ (show Reg.REC_FLUSH_COUNT ≠ Reg.REC_FLAGS by decide) _)
  refine ⟨by rw [hrec], ?_, (congrArg BitVec.toNat hcount).trans (State.r_inc ..)⟩
  unfold State.recSlot
  rw [hrec]
  exact get_set_self ..

/-- A flush that its budget cuts after its newest `pages` pages is over, before it is reported; what it leaves is owed to a follow-up. -/
def State.flushCutOff (s : State) (f : RecFlush) (pages : Nat) : State :=
  let n := if f.begun.isSome then pages else 0
  let s := s.when f.begun.isSome fun s => s.setRecSlot f.slot (f.slotAt n false)
  (s.setRec { s.recorder with flush := none, followUp := some (f.first, if n = 0 then none else some f.slot) }).flag Reg.REC_FLAGS 1

theorem State.flushCut_eq (s : State) (f : RecFlush) (pages : Nat) : ∃ n, s.flushCut f pages = (((s.flushCutOff f pages).flushReport f true n).flushPump).startErase :=
  ⟨_, rfl⟩

theorem State.flushCutOff_ended (s : State) (f : RecFlush) (pages : Nat) :
    (s.flushCutOff f pages).recorder.flush = none ∧ (s.flushCutOff f pages).bit Reg.REC_FLAGS 1 = true :=
  ⟨rfl, State.bit_flag_self _ _ (by decide)⟩

/-- A flush that still waited for the erase of its slot has programmed nothing. -/
theorem State.flushCutOff_waiting (s : State) {f : RecFlush} (h : f.begun = none) (pages : Nat) :
    (s.flushCutOff f pages).recorder.followUp = some (f.first, none) ∧ (s.flushCutOff f pages).recorder.slots = s.recorder.slots := by
  unfold State.flushCutOff
  rw [h]
  exact ⟨rfl, rfl⟩

/-- What a flush programmed before it was cut has no header. -/
theorem State.flushCutOff_begun (s : State) {f : RecFlush} (h : f.begun.isSome = true) (pages : Nat) :
    (s.flushCutOff f pages).recorder.followUp = some (f.first, if pages = 0 then none else some f.slot) ∧ ((s.flushCutOff f pages).recSlot f.slot).header = none := by
  unfold State.flushCutOff State.when State.recSlot
  simp only [h, if_pos]
  exact ⟨rfl, congrArg RecSlot.header (get_set_self ..)⟩

theorem execRecorderFlushDone_begun {s : State} {f : RecFlush} (hf : s.recorder.flush = some f) (hb : f.begun.isSome = true) :
    exec .recorderFlushDone s = .next (s.flushDone f) := by
  have hnone : f.begun.isNone = false := by cases hbeg : f.begun <;> simp_all
  refine congrArg Host.Outcome.next ?_
  rw [hf]
  exact if_neg (by simp [hnone])

theorem execRecorderFlushBudget_running {s : State} {f : RecFlush} {d : Nat} (hf : s.recorder.flush = some f) (hd : f.budget = some d) (pages : Nat) :
    exec (.recorderFlushBudget pages) s = .next (if s.now < d then s else s.flushCut f pages) := by
  refine congrArg Host.Outcome.next ?_
  rw [hf]
  dsimp only
  rw [hd]

/-! ## Slots that are erased (R461) -/

/-- An erase that completes: the slot is blank, and a flush that waited for it begins to program. -/
def State.eraseEnded (s : State) (k : Nat) : State :=
  let s := s.setRecSlot k {}
  s.setRec { s.recorder with erasing := none, flush := s.recorder.flush.map fun f => if f.slot = k then { f with begun := some s.now } else f }

theorem execRecorderEraseDone_erasing {s : State} {k : Nat} (h : s.recorder.erasing = some k) : exec .recorderEraseDone s = .next (s.eraseEnded k).syncRec := by
  refine congrArg Host.Outcome.next ?_
  rw [h]
  rfl

/-- R466, R467: showing the recorder changes registers alone. -/
theorem State.syncRec_recorder (s : State) : s.syncRec.recorder = s.recorder := rfl

/-! ## The statement -/

/-- Settles O60: each row is taken apart by the recorder's state, and its entry or its flush by the lemmas above. -/
theorem recorderRuns : Obligations.RecorderRuns := by
  intro s
  refine ⟨fun hreset => ⟨fun _ _ => congrArg Host.Outcome.next (if_pos hreset), congrArg Host.Outcome.next (if_pos hreset), congrArg Host.Outcome.next (if_pos (.inl hreset))⟩,
    fun code arg hdev hroom => ?post, fun code arg hdev hfull => ?drop, fun hd hq => ?idle, fun q l hdev hd hq hb ht => ?front, fun q l hdev hd hq hb ht => ?entry,
    fun hdev hd => ?lost, fun hf => ⟨congrArg Host.Outcome.next (by rw [hf]), fun _ => congrArg Host.Outcome.next (by rw [hf])⟩, fun f hf hb => ?waits, fun f hf hb => ?done,
    fun f d pages hf hd hlt => ?early, fun f d pages hf hd hle => ?cut, fun he => congrArg Host.Outcome.next (by rw [he]), fun k he => ?erase,
    fun heq => congrArg Host.Outcome.next (if_pos (.inr heq)), fun hdev hne => ⟨execTimeHighChange_running hdev hne, fun hd => ?high⟩,
    fun hs hl => congrArg Host.Outcome.next (if_pos ⟨hs, hl⟩), fun hs => congrArg Host.Outcome.next (if_neg (by simp [hs]))⟩
  case post =>
    have harg : arg.toNat % 65536 = arg.toNat := Nat.mod_eq_of_lt arg.isLt
    rw [execRecorderPost_running hdev, State.post, if_pos hroom, harg]
  case drop =>
    obtain ⟨hcount, hflag, hrest⟩ :=
      State.inc_flag_effects { s with recorder := { s.recorder with dropped := s.recorder.dropped + 1 } } (a := Reg.REC_DROPPED) (f := Reg.REC_FLAGS) (i := 0) (by decide) (by decide)
    rw [execRecorderPost_running hdev, State.post, if_neg (Nat.not_lt.mpr hfull)]
    exact ⟨_, rfl, rfl, hcount, hflag, hrest⟩
  case idle =>
    refine congrArg Host.Outcome.next ?_
    rw [State.recWriter_idle hd hq]
    exact ite_self s
  case front => rw [execRecorderWrite_running hdev, State.recWriter_front hd hq hb ht]; rfl
  case entry =>
    rw [execRecorderWrite_running hdev, State.recWriter_front hd hq hb ht]
    obtain ⟨hring, hothers, hnext, hregs, hqueue, -⟩ := (s.setRec { s.recorder with queue := l }).writeRec_effects q.code q.arg q.timeUs
    exact ⟨_, rfl, hqueue, hring, hothers, hnext, hregs⟩
  case lost =>
    rw [execRecorderWrite_running hdev, State.recWriter, if_pos hd]
    rfl
  case waits =>
    refine congrArg Host.Outcome.next ?_
    rw [hf]
    exact if_pos (by rw [hb]; rfl)
  case done =>
    obtain ⟨hended, hslot, hcount⟩ := s.flushEnded_effects f
    exact ⟨s.flushEnded f, (execRecorderFlushDone_begun hf hb).trans (congrArg _ (s.flushDone_eq f)), hended, congrArg RecSlot.blank hslot, congrArg RecSlot.entries hslot,
      congrArg RecSlot.header hslot, hcount⟩
  case early => rw [execRecorderFlushBudget_running hf hd, if_pos hlt]
  case cut =>
    obtain ⟨n, hn⟩ := s.flushCut_eq f pages
    rw [execRecorderFlushBudget_running hf hd, if_neg (Nat.not_lt.mpr hle), hn]
    obtain ⟨hended, hflag⟩ := s.flushCutOff_ended f pages
    exact ⟨s.flushCutOff f pages, n, rfl, hended, hflag, fun hb => s.flushCutOff_waiting hb pages, fun hb => s.flushCutOff_begun hb pages⟩
  case erase =>
    refine ⟨_, execRecorderEraseDone_erasing he, ?_, ?_, fun f hf => ?_, fun j hj => ?_⟩
    · exact get_set_self ..
    · rw [State.syncRec_recorder]
      rfl
    · rw [State.syncRec_recorder]
      exact congrArg (Option.map _) hf
    · exact get_set_ne _ _ _ hj _
  case high =>
    rw [execTimeHighChange_running hdev hne, hd]
    obtain ⟨hring, -, hnext, -, hqueue, hhigh⟩ := (s.setRec { s.recorder with highUs := s.highNow }).writeRec_effects Rec.TIME_HIGH s.highNow s.timeUs
    exact ⟨_, rfl, hhigh, hqueue, hring, hnext⟩

end Sys2Proof.Machine
end

section
/-!
PROOFS. Proofs/CalibrationRows.lean: the rows of calibration (O59): what the start of a comb's run notes and what its end leaves (R420), and saves that end (R423, R424).
-/

namespace Sys2Proof.Machine

open Sys2Proof

/-! ## The comb that runs next (R420) -/

/-- The comb that runs next is fitted. -/
theorem State.calNext_lt {s : State} {c : Nat} (h : s.calNext = some c) : c < s.variant.combs := by
  have hall : ∀ e ∈ (List.range s.variant.combs).filterMap (fun c => if s.bit Reg.RX_COMB_LOST c then none else (s.calExcess c).map fun x => (c, x)), e.1 < s.variant.combs := by
    intro e he
    obtain ⟨b, hb, heq⟩ := List.mem_filterMap.mp he
    split at heq
    · exact nomatch heq
    · obtain ⟨x, -, rfl⟩ := Option.map_eq_some_iff.mp heq
      exact List.mem_range.mp hb
  unfold State.calNext at h
  dsimp only at h
  split at h
  · exact nomatch h
  · next a r hl =>
    obtain rfl := Option.some.inj h
    rw [hl] at hall
    refine List.foldlRecOn (motive := fun m : Nat × Nat => m.1 < s.variant.combs) r _ (hall a (by simp)) fun m hm x hx => ?_
    split
    · exact hall x (by simp [hx])
    · exact hm

/-! ## The start of a run (R420) -/

/-- The run of a comb as it is noted, before its channels take their ranges. -/
def State.noteRun (s : State) (c : Nat) : State :=
  let s := s.setCal { s.cal with
    ranFrame := true,
    run := some {
      comb := c, start := s.now, temp := s.combTemp c, named := s.cal.named.contains c, ranges := (combChans c).map fun n => (n, s.rangeOf n) } }
  let s := (s.setBit Reg.CAL_STATUS 0 true).setF Reg.CAL_STATUS 5 1 c
  let s := (s.setR Reg.CAL_COMB_TIME_LO (s.time.dev % 2 ^ 32)).setR Reg.CAL_COMB_TIME_HI (s.time.dev / 2 ^ 32)
  (s.addF Reg.CAL_COUNT 15 0 1).setF (Reg.CAL_COMB c) 31 24 0

theorem State.startRun_eq (s : State) (c key : Nat) :
    s.startRun c key = (((s.noteRun c).each (combChans c) fun s n => s.calRange n (Config.combCalRange % 4)).setDark c true).markGap key c := (rfl)

theorem State.noteRun_cal (s : State) (c : Nat) : ∃ r, (s.noteRun c).cal.run = some r ∧ r.comb = c ∧ r.start = s.now ∧ r.temp = s.combTemp c ∧ (s.noteRun c).cal.ranFrame = true :=
  ⟨_, rfl, rfl, rfl, rfl, rfl⟩

/-- The comb has a register of its own, beside those that the run shows. -/
theorem Reg.calComb_ne {a : Nat} (h : a < 0x00130200) (c : Nat) : a ≠ Reg.CAL_COMB c := by
  unfold Reg.CAL_COMB
  omega

theorem State.noteRun_regs (s : State) {c : Nat} (hc : c < 32) : (s.noteRun c).bit Reg.CAL_STATUS 0 = true ∧ (s.noteRun c).f Reg.CAL_STATUS 5 1 = c ∧
    (s.noteRun c).r Reg.CAL_COMB_TIME_LO = s.time.dev % 2 ^ 32 ∧ (s.noteRun c).f (Reg.CAL_COMB c) 31 24 = 0 := by
  unfold State.noteRun
  extract_lets _ _ v w
  have hrd : ∀ a, a < 0x00130200 → a ≠ Reg.CAL_COUNT → ((w.addF Reg.CAL_COUNT 15 0 1).setF (Reg.CAL_COMB c) 31 24 0).rd a = w.rd a := fun a ha hne =>
    (State.rd_setF_ne _ (Reg.calComb_ne ha c) ..).trans (State.rd_setF_ne _ hne ..)
  have hstatus : w.rd Reg.CAL_STATUS = v.rd Reg.CAL_STATUS := (State.rd_setR_ne _ (by decide) _).trans (State.rd_setR_ne _ (by decide) _)
  refine ⟨?_, ?_, ?_, State.f_setF_self _ _ (by decide) (by decide) 0⟩
  · rw [State.bit_congr ((hrd _ (by decide) (by decide)).trans hstatus)]
    exact (State.bit_setF_off _ _ (show 1 ≤ 5 by decide) (by decide) (.inl (show 0 < 1 by decide)) c).trans (State.bit_setBit_self _ _ (by decide) true)
  · rw [State.f_congr ((hrd _ (by decide) (by decide)).trans hstatus), State.f_setF_self _ _ (by decide) (by decide)]
    exact Nat.mod_eq_of_lt hc
  · have htime : w.rd Reg.CAL_COMB_TIME_LO = (v.setR Reg.CAL_COMB_TIME_LO (v.time.dev % 2 ^ 32)).rd Reg.CAL_COMB_TIME_LO := State.rd_setR_ne _ (by decide) _
    exact (congrArg BitVec.toNat ((hrd _ (by decide) (by decide)).trans htime)).trans ((State.r_setR ..).trans (Nat.mod_mod ..))

/-- A channel under calibration takes its range in the front end's registers, and touches no others. -/
theorem State.calRange_frame (s : State) (n r : Nat) : ∃ q x, s.calRange n r = { s with regs := q, rx := x } := by
  unfold State.calRange State.modChan
  obtain ⟨q, h⟩ := State.syncChan_regs (((s.setRange n r)).setChan n { (s.setRange n r).chan n with next := none }) n
  exact ⟨q, _, h⟩

theorem State.rd_calRange (s : State) {n a : Nat} (hn : n < 512) (ha : 0x00050000 ≤ a) (r : Nat) : (s.calRange n r).rd a = s.rd a := by
  have hch : a ≠ Reg.RX_CH n := by unfold Reg.RX_CH; omega
  exact (State.rd_syncChan (((s.setRange n r)).setChan n _) hch (by unfold Reg.TDC_STAT_STATUS; omega)).trans (State.rd_setF_ne _ hch ..)

/-- The ranges of a comb's channels leave the registers of calibration and of the histograms. -/
theorem State.rd_each_calRange (s : State) {c a : Nat} (hc : c < 32) (ha : 0x00050000 ≤ a) (r : Nat) :
    (s.each (combChans c) fun s n => s.calRange n r).rd a = s.rd a := by
  have hall : ∀ n ∈ combChans c, n < 512 := by
    intro n hn
    obtain ⟨i, hi, rfl⟩ := List.mem_map.mp hn
    have := List.mem_range.mp hi
    omega
  unfold State.each
  exact List.foldlRecOn (motive := fun t : State => t.rd a = s.rd a) _ _ rfl fun t ht n hn => (State.rd_calRange t (hall n hn) ha r).trans ht

/-- R209: a comb that is dark shows so, and only its statistics run ends. -/
theorem State.setDark_effects (s : State) {c : Nat} (hc : c < 32) : ((s.setDark c true).comb c).dark = true ∧ (s.setDark c true).bit (Reg.HIST_STATUS c) 4 = true ∧
    (s.setDark c true).cal = s.cal ∧ ∀ a, 0x00060000 ≤ a → (s.setDark c true).rd a = s.rd a := by
  unfold State.setDark
  extract_lets x _ u
  have hdark : (u.comb c).dark = true := congrArg CombSt.dark (get_set_self ..)
  have hshown : u.bit (Reg.HIST_STATUS c) 4 = true := State.bit_setBit_self s _ (by decide) true
  have hrest : ∀ a, 0x00060000 ≤ a → u.rd a = s.rd a := fun a ha => State.rd_setBit_ne s (by unfold Reg.HIST_STATUS; omega) ..
  have hcal : u.cal = s.cal := rfl
  clear_value u
  have hne : Reg.HIST_STATUS c ≠ Reg.TDC_STAT_STATUS c := by unfold Reg.HIST_STATUS Reg.TDC_STAT_STATUS; omega
  split
  · exact ⟨hdark, (State.bit_congr (State.rd_setF_ne u hne ..) 4).trans hshown, hcal, fun a ha =>
      (State.rd_setF_ne u (by unfold Reg.TDC_STAT_STATUS; omega) ..).trans (hrest a ha)⟩
  · exact ⟨hdark, hshown, hcal, hrest⟩

/-- R209: points that carry `CAL_GAP` are the planner's alone. -/
theorem State.markGap_part {β : Type} (part : State → β) (hpart : ∀ (u : State) x, part { u with plan := x } = part u) (s : State) (key c : Nat) : part (s.markGap key c) = part s :=
  State.each_part (fun _ _ => hpart ..) s _

/-- What the start of a comb's run leaves. -/
theorem State.startRun_effects (s : State) {c : Nat} (hc : c < 32) (key : Nat) : ∃ r, (s.startRun c key).cal.run = some r ∧ r.comb = c ∧ r.start = s.now ∧
    r.temp = s.combTemp c ∧ (s.startRun c key).cal.ranFrame = true ∧ (s.startRun c key).bit Reg.CAL_STATUS 0 = true ∧ (s.startRun c key).f Reg.CAL_STATUS 5 1 = c ∧
    (s.startRun c key).r Reg.CAL_COMB_TIME_LO = s.time.dev % 2 ^ 32 ∧ (s.startRun c key).f (Reg.CAL_COMB c) 31 24 = 0 ∧
    ((s.startRun c key).comb c).dark = true ∧ (s.startRun c key).bit (Reg.HIST_STATUS c) 4 = true := by
  rw [State.startRun_eq]
  generalize hu : ((s.noteRun c).each (combChans c) fun s n => s.calRange n (Config.combCalRange % 4)) = u
  have hcal : u.cal = (s.noteRun c).cal := by
    rw [← hu]
    exact State.each_part (part := State.cal) (fun t n => by obtain ⟨_, _, h⟩ := t.calRange_frame n (Config.combCalRange % 4); rw [h]) ..
  have hrd : ∀ a, 0x00050000 ≤ a → u.rd a = (s.noteRun c).rd a := fun a ha => hu ▸ State.rd_each_calRange _ hc ha _
  obtain ⟨hdark, hshown, hdcal, hdrd⟩ := u.setDark_effects hc
  have hcalEnd : ((u.setDark c true).markGap key c).cal = (s.noteRun c).cal := (State.markGap_part State.cal (fun _ _ => rfl) ..).trans (hdcal.trans hcal)
  have hrdEnd : ∀ a, 0x00060000 ≤ a → ((u.setDark c true).markGap key c).rd a = (s.noteRun c).rd a := fun a ha =>
    (State.markGap_part (·.rd a) (fun _ _ => rfl) ..).trans ((hdrd a ha).trans (hrd a (by omega)))
  obtain ⟨r, hrun, hcomb, hstart, htemp, hran⟩ := s.noteRun_cal c
  obtain ⟨hbusy, hnum, htime, hdefer⟩ := s.noteRun_regs hc
  refine ⟨r, by rw [hcalEnd, hrun], hcomb, hstart, htemp, by rw [hcalEnd, hran], (State.bit_congr (hrdEnd _ (by decide)) 0).trans hbusy,
    (State.f_congr (hrdEnd _ (by decide)) 5 1).trans hnum, (congrArg BitVec.toNat (hrdEnd _ (by decide))).trans htime,
    (State.f_congr (hrdEnd _ (by unfold Reg.CAL_COMB; omega)) 31 24).trans hdefer, ?_, ?_⟩
  · exact (State.markGap_part (fun v => (v.comb c).dark) (fun _ _ => rfl) ..).trans hdark
  · exact (State.markGap_part (fun v => v.bit (Reg.HIST_STATUS c) 4) (fun _ _ => rfl) ..).trans hshown

section

variable {s : State} {key c : Nat} {col : ColPlan} (hopen : s.plan.openCol = some key) (hnext : s.calNext = some c) (hcol : s.col key = some col)
  (hruns : s.calRuns = true) (hstart : col.startNs = some s.now)

include hopen hnext hcol hruns hstart

/-- At a column start the deferred frames and the column decide. -/
theorem execCombCalStart_due : exec .combCalStart s = .next (if 4 ≤ s.f (Reg.CAL_COMB c) 31 24 then (if col.sweep = 0 then s.startRun c key else s)
    else if s.calWindow c col.sweep then s.startRun c key else s) := by
  refine congrArg Host.Outcome.next ?_
  rw [hopen, hnext]
  dsimp only
  rw [hcol]
  exact if_neg (by simp [hruns, hstart])

theorem execCombCalStart_runs (h : (4 ≤ s.f (Reg.CAL_COMB c) 31 24 ∧ col.sweep = 0) ∨ (s.f (Reg.CAL_COMB c) 31 24 < 4 ∧ s.calWindow c col.sweep = true)) :
    exec .combCalStart s = .next (s.startRun c key) := by
  rw [execCombCalStart_due hopen hnext hcol hruns hstart]
  rcases h with ⟨hdefer, hfirst⟩ | ⟨hfew, hclear⟩
  · rw [if_pos hdefer, if_pos hfirst]
  · rw [if_neg (Nat.not_le.mpr hfew), if_pos hclear]

end

theorem execCombCalStart_idle {s : State} (h : s.plan.openCol = none ∨ s.calRuns = false) : exec .combCalStart s = .next s := by
  refine congrArg Host.Outcome.next ?_
  split
  · next key c hopen _ =>
    have hruns : s.calRuns = false := h.resolve_left (by simp [hopen])
    split
    · exact if_pos (.inl (by simp [hruns]))
    · rfl
  · rfl

/-! ## The end of a run (R420) -/

/-- What calibration holds of comb-level runs: the one in progress, and the combs that are dark from theirs. -/
def Cal.combRuns (x : Cal) : Option CombRun × List Nat := (x.run, x.combDark)

theorem Cal.combRuns_timers (x : Cal) (t : Tbl (Nat × Nat)) : ({ x with timers := t } : Cal).combRuns = x.combRuns := rfl

theorem Cal.combRuns_timing (x : Cal) (l m : List Nat) : ({ x with severe := l, timing := m } : Cal).combRuns = x.combRuns := rfl

theorem Cal.combRuns_inl (x : Cal) (t : Tbl Nat) : ({ x with inl := t } : Cal).combRuns = x.combRuns := rfl

theorem Cal.combRuns_save (x : Cal) (v : Option CalSave) : ({ x with save := v } : Cal).combRuns = x.combRuns := rfl

theorem Cal.combRuns_named (x : Cal) (l m : List Nat) : ({ x with combDark := l, named := m } : Cal).combRuns = (x.run, l) := rfl

theorem State.when_part {β : Type} {part : State → β} (s : State) (b : Bool) {g : State → State} (h : part (g s) = part s) : part (s.when b g) = part s := by
  unfold State.when
  split
  · exact h
  · rfl

theorem State.post_cal (s : State) (code arg : Nat) : (s.post code arg).cal = s.cal := by
  unfold State.post
  split <;> rfl

theorem State.syncChan_cal (s : State) (n : Nat) : (s.syncChan n).cal = s.cal := by
  obtain ⟨_, h⟩ := s.syncChan_regs n
  rw [h]

theorem State.setLossCause_cal (s : State) (c bit : Nat) (on : Bool) : (s.setLossCause c bit on).cal = s.cal := by
  unfold State.setLossCause
  split
  · rfl
  · dsimp only
    refine (State.each_part (part := State.cal) (fun u n => u.syncChan_cal n) ..).trans ?_
    split
    · exact State.post_cal ..
    · rfl

theorem State.markCal_cal (s : State) (c : Nat) (temp : Int) (passed failed : Bool) : (s.markCal c temp passed failed).cal = s.cal := by
  unfold State.markCal
  dsimp only
  rw [State.setF_cal, State.setBit_cal, State.setBit_cal, State.setBit_cal, State.setF_cal]

theorem State.endRun_cal (s : State) : s.endRun.cal = { s.cal with run := none } := by
  unfold State.endRun
  extract_lets ranges _ u
  exact State.each_part (fun v e => State.setF_cal ..) u ranges

theorem State.combRuns_applyRun (s : State) (c : Nat) (temp : Int) (k : CombCal) (full : Bool) : (s.applyRun c temp k full).cal.combRuns = s.cal.combRuns := by
  unfold State.applyRun
  extract_lets u
  have hu : u.cal.combRuns = s.cal.combRuns := by
    refine State.each_part (part := fun v => v.cal.combRuns) (fun v e => ?_) s _
    split
    · rfl
    · extract_lets r x y old
      have hy : y.cal = x.cal := State.when_part (part := State.cal) _ _ (State.setF_cal ..)
      have hx : x.cal = v.cal := State.setR_cal ..
      rw [State.setCal_cal]
      exact (Cal.combRuns_timers _ _).trans (congrArg Cal.combRuns (hy.trans hx))
  exact (congrArg Cal.combRuns (State.markCal_cal ..)).trans hu

theorem State.combRuns_judgeTiming (s : State) (c : Nat) (k : CombCal) : (s.judgeTiming c k).cal.combRuns = s.cal.combRuns := by
  unfold State.judgeTiming
  extract_lets a mask u v w was _ x
  have hu : u.cal = s.cal := (State.setF_cal ..).trans (State.setF_cal ..)
  have hv : v.cal = u.cal := State.setF_cal ..
  have hw : w.cal = v.cal := by
    unfold w
    split
    · rfl
    · exact State.flag_cal ..
  have hx : x.cal.combRuns = w.cal.combRuns := by
    rw [State.setCal_cal]
    exact Cal.combRuns_timing ..
  have htiming : (x.syncTiming c).cal = x.cal := (State.setLossCause_cal ..).trans (State.setBit_cal ..)
  rw [htiming, hx, hw, hv, hu]

theorem State.combRuns_calDirty (s : State) : s.calDirty.cal.combRuns = s.cal.combRuns := by
  unfold State.calDirty
  rw [State.setCal_cal]
  exact Cal.combRuns_save ..

theorem State.bit_calDirty (s : State) : s.calDirty.bit Reg.CAL_STATUS 9 = true :=
  (State.bit_congr (State.rd_congr (State.setCal_regs ..) (State.setCal_variant ..) _) 9).trans (State.bit_setBit_self s _ (by decide) true)

theorem State.combRuns_noteInl (s : State) (l : List (Nat × Nat)) : (s.noteInl l).cal.combRuns = s.cal.combRuns := by
  unfold State.noteInl
  extract_lets u
  have hu : u.cal.combRuns = s.cal.combRuns := by
    refine State.each_part (part := fun v => v.cal.combRuns) (fun v e => ?_) s l
    rw [State.setCal_cal]
    exact Cal.combRuns_inl ..
  rw [← hu]
  exact State.when_part (part := fun v => v.cal.combRuns) _ _ (congrArg Cal.combRuns (State.setF_cal ..))

theorem State.rd_noteInl (s : State) {a : Nat} (h : a ≠ Reg.CAL_Q_INL) (l : List (Nat × Nat)) : (s.noteInl l).rd a = s.rd a :=
  (State.when_part (part := (·.rd a)) _ _ (State.rd_setF_ne _ h ..)).trans (State.rd_each _ _ _ _ fun _ _ => rfl)

theorem State.Events.cal {s t : State} (h : s.Events t) : t.cal = s.cal := by
  obtain ⟨_, _, _, rfl⟩ := h.frame
  rfl

/-- The run of a comb has ended, before the combs that are due and the losses are shown. -/
def State.runEnded (s : State) (r : CombRun) (k : CombCal) : State :=
  let c := r.comb
  let s := s.endRun
  let s := s.setCal { s.cal with combDark := c :: s.cal.combDark, named := if r.named then s.cal.named.filter (· != c) else s.cal.named }
  let s := ((s.applyRun c r.temp k false).judgeTiming c k).calDirty
  let s := s.noteInl [(c, k.inl)]
  let s := s.when (runFailures k != 0) fun s => s.flag Reg.CAL_FLAGS 0
  let s := s.calEvent 0 c (runFailures k) r.temp false
  s.when r.named fun s => s.finish Op.CALIBRATE_COMB Sts.OK 0

theorem execCombCalDone_over {s : State} {r : CombRun} (hrun : s.cal.run = some r) (k : CombCal) :
    exec (.combCalDone k) s = .next (if s.now < r.start + 6000000 then s else (s.runEnded r k).syncDue.settle) := by
  refine congrArg Host.Outcome.next ?_
  rw [hrun]
  rfl

/-- No run is in progress, its comb is dark to the next column start, and the working set differs from flash. -/
theorem State.runEnded_effects (s : State) (r : CombRun) (k : CombCal) :
    (s.runEnded r k).cal.combRuns = (none, r.comb :: s.cal.combDark) ∧ (s.runEnded r k).bit Reg.CAL_STATUS 9 = true := by
  unfold State.runEnded
  extract_lets c t _ u v w x y
  have ht : t.cal.combDark = s.cal.combDark ∧ t.cal.run = none := by
    rw [show t.cal = _ from s.endRun_cal]
    exact ⟨rfl, rfl⟩
  have hu : u.cal.combRuns = (t.cal.run, c :: t.cal.combDark) := by
    rw [State.setCal_cal]
    exact Cal.combRuns_named ..
  rw [ht.1, ht.2] at hu
  have hv : v.cal.combRuns = u.cal.combRuns := (State.combRuns_calDirty _).trans ((State.combRuns_judgeTiming ..).trans (State.combRuns_applyRun ..))
  have hdirty : v.bit Reg.CAL_STATUS 9 = true := State.bit_calDirty _
  clear_value v
  have hw : w.cal.combRuns = v.cal.combRuns ∧ w.rd Reg.CAL_STATUS = v.rd Reg.CAL_STATUS := ⟨State.combRuns_noteInl .., State.rd_noteInl _ (by decide) _⟩
  clear_value w
  have hx : x.cal = w.cal ∧ x.rd Reg.CAL_STATUS = w.rd Reg.CAL_STATUS :=
    ⟨State.when_part (part := State.cal) _ _ (State.flag_cal ..), State.when_part (part := (·.rd Reg.CAL_STATUS)) _ _ (State.rd_flag_ne _ (by decide) _)⟩
  clear_value x
  have hev : x.Events y := State.raise_events ..
  clear_value y
  have hend : ∀ z : State, z = y.when r.named (fun s => s.finish Op.CALIBRATE_COMB Sts.OK 0) → z.cal = y.cal ∧ z.rd Reg.CAL_STATUS = y.rd Reg.CAL_STATUS := by
    rintro z rfl
    exact ⟨State.when_part (part := State.cal) _ _ (State.finish_part ..).1, State.when_part (part := (·.rd Reg.CAL_STATUS)) _ _ (State.rd_finish_of_mod _ (by decide) ..)⟩
  obtain ⟨hcal, hrd⟩ := hend _ rfl
  refine ⟨by rw [hcal, hev.cal, hx.1, hw.1, hv, hu], ?_⟩
  rw [State.bit_congr (hrd.trans ((hev.rd _ (noPortReg (.inr (by decide)))).trans (hx.2.trans hw.2))), hdirty]

/-! ## Saves (R423, R424) -/

/-- The two slots of a save that starts hold no record, and of the registers `CAL_STATUS` alone shows it. -/
theorem State.startSave_slots (s : State) (blank : List Byte) : (s.startSave blank).cal.slots.get none s.saveSlots.1 = none ∧
    (s.startSave blank).cal.slots.get none s.saveSlots.2 = none ∧ ∀ a, a ≠ Reg.CAL_STATUS → (s.startSave blank).rd a = s.rd a := by
  unfold State.startSave
  generalize s.saveSlots = k, s.calEntries = entries, (List.range 16).map _ = templates
  refine ⟨?_, get_set_self .., fun a ha => State.rd_setBit_ne _ ha ..⟩
  show ((s.cal.slots.set none k.1 none).set none k.2 none).get none k.1 = none
  by_cases h : k.1 = k.2
  · rw [h, get_set_self]
  · rw [get_set_ne _ _ _ h, get_set_self]

theorem execCalAutoSave_due {s : State} (hctrl : s.ef Reg.CAL_CTRL 18 18 ≠ 0) (hdirty : s.bit Reg.CAL_STATUS 9 = true) (hsave : s.cal.save = none) (hfree : s.flashFree = true)
    (hstate : s.dev.anyState = true) (hdue : s.cal.lastSave + 60000000000 * s.ef Reg.CAL_CTRL 31 24 ≤ s.now) : exec .calAutoSave s = .next (s.startSave blankTpl) :=
  congrArg Host.Outcome.next (if_neg (by simp [hctrl, hdirty, hsave, hfree, hstate, hdue]))

/-- No save goes on, and `CAL_STATUS` shows none. -/
def State.unsaving (s : State) : Prop := s.cal.save = none ∧ s.bit Reg.CAL_STATUS 8 = false

theorem State.unsaving.congr {s t : State} (h : s.unsaving) (hcal : t.cal = s.cal) (hrd : t.rd Reg.CAL_STATUS = s.rd Reg.CAL_STATUS) : t.unsaving :=
  ⟨by rw [hcal, h.1], (State.bit_congr hrd 8).trans h.2⟩

theorem State.unsaving.finish {s : State} (h : s.unsaving) (opcode status detail : Nat) : (s.finish opcode status detail).unsaving :=
  h.congr (State.finish_part ..).1 (State.rd_finish_of_mod _ (by decide) ..)

theorem State.unsaving.flag {s : State} (h : s.unsaving) {a : Nat} (ha : Reg.CAL_STATUS ≠ a) (i : Nat) : (s.flag a i).unsaving :=
  h.congr (State.flag_cal ..) (State.rd_flag_ne _ ha i)

theorem State.unsaving.clean {s : State} (h : s.unsaving) : (s.setBit Reg.CAL_STATUS 9 false).unsaving :=
  ⟨h.1, (State.bit_setBit_off s _ (by decide) (by decide) false).trans h.2⟩

theorem State.unsaving.when {s : State} (h : s.unsaving) (b : Bool) {g : State → State} (hg : (g s).unsaving) : (s.when b g).unsaving := by
  unfold State.when
  split
  · exact hg
  · exact h

theorem State.unsaving.syncRec {s : State} (h : s.unsaving) : s.syncRec.unsaving :=
  h.congr ((State.setR_cal ..).trans ((State.setF_cal ..).trans (State.setF_cal ..)))
    ((State.rd_setR_ne _ (by decide) _).trans ((State.rd_setF_ne _ (by decide) ..).trans (State.rd_setF_ne _ (by decide) ..)))

theorem State.unsaving.startErase {s : State} (h : s.unsaving) : s.startErase.unsaving := by
  unfold State.startErase
  split
  · exact h.syncRec
  · exact State.unsaving.syncRec (s := s.setRec _) (h.congr (State.setRec_cal ..) rfl)

/-- Both copies of a save are written, before what it came to is reported. -/
def State.saveWritten (s : State) (v : CalSave) (good0 good1 : Bool) : State :=
  let s := (s.putCopy v.slots.1 v.rec_ good0).putCopy v.slots.2 v.rec_ good1
  let s := (s.setCal { s.cal with save := none }).setBit Reg.CAL_STATUS 8 false
  s.setF Reg.CAL_STATUS 31 16 ((s.newestRec.map (·.seq)).getD 0)

theorem execCalSaveDone_saved {s : State} {v : CalSave} (hsave : s.cal.save = some v) (hidle : s.flashIdle = true) (good0 good1 : Bool) :
    exec (.calSaveDone good0 good1) s = .next (State.startErase (
      if good0 && good1 then ((s.saveWritten v good0 good1).when (!v.dirty) fun s => s.setBit Reg.CAL_STATUS 9 false).finish Op.CAL_SAVE Sts.OK 0
      else ((s.saveWritten v good0 good1).flag Reg.CAL_FLAGS 2).finish Op.CAL_SAVE Sts.INTERNAL_ERROR 0)) := by
  refine congrArg Host.Outcome.next ?_
  rw [hsave]
  exact if_neg (not_not_intro hidle)

theorem State.saveWritten_unsaving (s : State) (v : CalSave) (good0 good1 : Bool) : (s.saveWritten v good0 good1).unsaving := by
  unfold State.saveWritten
  extract_lets u _ w
  have hw : w.cal.save = none ∧ w.bit Reg.CAL_STATUS 8 = false := by
    refine ⟨?_, State.bit_setBit_self _ _ (by decide) false⟩
    rw [State.setBit_cal, State.setCal_cal]
  exact ⟨by rw [State.setF_cal, hw.1], (State.bit_setF_off w _ (show 16 ≤ 31 by decide) (by decide) (.inl (by decide)) _).trans hw.2⟩

/-- A save that ends goes on no more, whatever it came to. -/
theorem State.saveReported_unsaving {s : State} (h : s.unsaving) (good clean : Bool) :
    (if good then (s.when clean fun s => s.setBit Reg.CAL_STATUS 9 false).finish Op.CAL_SAVE Sts.OK 0
      else (s.flag Reg.CAL_FLAGS 2).finish Op.CAL_SAVE Sts.INTERNAL_ERROR 0).startErase.unsaving := by
  refine State.unsaving.startErase ?_
  split
  · exact (h.when _ h.clean).finish ..
  · exact (h.flag (by decide) 2).finish ..

/-! ## The statement -/

/-- Settles O59: each row is taken apart by what it waits for; the runs and the saves are the lemmas above. -/
theorem calibrationRuns : Obligations.CalibrationRuns := by
  intro s
  refine ⟨execCombCalStart_idle, fun key c col hopen hnext hcol hruns hstart hdefer hfirst => ?first, fun key c col hopen hnext hcol hruns hstart hgo => ?start,
    fun k hrun => congrArg Host.Outcome.next (by rw [hrun]), fun k r hrun hlt => ?early, fun k r hrun hle => ?ended, fun k r hfull => congrArg Host.Outcome.next (by rw [hfull]; rfl),
    fun k r hfull hle hfound => ?measured, fun hctrl => congrArg Host.Outcome.next (if_pos (.inl hctrl)),
    fun hctrl hdirty hsave hfree hstate hdue => ⟨execCalAutoSave_due hctrl hdirty hsave hfree hstate hdue, ?auto⟩,
    fun _ _ hsave => congrArg Host.Outcome.next (by rw [hsave]), fun _ _ hidle => ?waits, fun good0 good1 v hsave hidle => ?saved⟩
  case first => exact execCombCalStart_runs hopen hnext hcol hruns hstart (.inl ⟨hdefer, hfirst⟩)
  case start =>
    have hfit : c < 32 := Nat.lt_of_lt_of_le (State.calNext_lt hnext) (HoldsPair.combs_le s.variant)
    obtain ⟨r, heffects⟩ := s.startRun_effects hfit key
    exact ⟨s.startRun c key, r, execCombCalStart_runs hopen hnext hcol hruns hstart hgo, heffects⟩
  case early => rw [execCombCalDone_over hrun, if_pos hlt]
  case ended =>
    obtain ⟨hcal, hdirty⟩ := s.runEnded_effects r k
    obtain ⟨hnone, hdark⟩ := Prod.mk.inj hcal
    exact ⟨s.runEnded r k, by rw [execCombCalDone_over hrun, if_neg (Nat.not_lt.mpr hle)], hnone, hdark, hdirty⟩
  case measured =>
    have hgo : ¬ (s.now < r.start + 180000000 ∨ r.found.isSome = true) := by simp [hfound, hle]
    refine congrArg Host.Outcome.next ?_
    rw [hfull]
    exact if_neg hgo
  case auto =>
    obtain ⟨v, hv, hslots, hentries, hbit, hlast⟩ := s.startSave_effects blankTpl
    obtain ⟨hfst, hsnd, hrest⟩ := s.startSave_slots blankTpl
    exact ⟨_, v, execCalAutoSave_due hctrl hdirty hsave hfree hstate hdue, hv, hslots, hentries, hbit, hlast, hfst, hsnd, hrest⟩
  case waits =>
    refine congrArg Host.Outcome.next ?_
    split
    · rfl
    · exact if_pos (by simp [hidle])
  case saved =>
    obtain ⟨hnone, hbit⟩ := State.saveReported_unsaving (s.saveWritten_unsaving v good0 good1) (good0 && good1) (!v.dirty)
    exact ⟨_, execCalSaveDone_saved hsave hidle good0 good1, hnone, hbit⟩

end Sys2Proof.Machine
end

section
/-!
PROOFS. Proofs/Supplies.lean: rails, brown-out, `RESET_N` and the release of reset (O38).
-/

namespace Sys2Proof.Machine

open Sys2Proof

/-! ## Rails (R478 to R480) -/

/-- R480: what the always-on domain finds as a rail takes a value. -/
def Power.change (p : Power) (now k uv : Nat) : Power :=
  let p : Power := { p with rails := p.rails.set none k (some uv) }
  { p with
    lowSince := p.lowSince.set none k (if p.low k then some ((p.lowSince.get none k).getD now) else none)
    okSince := if p.allUp then some (p.okSince.getD now) else none }

theorem execPowerRailChange_eq (s : State) (k : Fin 9) (uv : Nat) : exec (.powerRailChange k uv) s =
    .next (if k.val = 1 ∧ uv < 820000 then (s.setPower (s.power.change s.now k uv)).loseRing else s.setPower (s.power.change s.now k uv)) := (rfl)

section

variable (p : Power) (now k uv : Nat)

theorem Power.rail_change_self : (p.change now k uv).rail k = uv := by
  show (((p.rails.set none k (some uv)).get none k).getD _) = uv
  rw [get_set_self]
  rfl

theorem Power.change_other {j : Nat} (h : j ≠ k) : (p.change now k uv).rail j = p.rail j ∧ (p.change now k uv).lowSince.get none j = p.lowSince.get none j :=
  ⟨congrArg (Option.getD · _) (get_set_ne none none p.rails h _), get_set_ne none none p.lowSince h _⟩

theorem Power.change_low : ((p.change now k uv).lowSince.get none k).isSome = (p.change now k uv).low k := by
  unfold Power.change
  extract_lets q
  show ((p.lowSince.set none k _).get none k).isSome = q.low k
  rw [get_set_self]
  cases q.low k <;> rfl

theorem Power.change_up : (p.change now k uv).okSince.isSome = (p.change now k uv).allUp := by
  unfold Power.change
  extract_lets q
  show (if q.allUp then some _ else none).isSome = q.allUp
  cases q.allUp <;> rfl

end

/-- R479: no entry of a ring without its supply passes its check. -/
theorem State.loseRing_spoilt (s : State) : ∀ i e, (i, some e) ∈ s.loseRing.recorder.ring.entries → e.ok = false := by
  intro i e he
  obtain ⟨⟨j, x⟩, -, heq⟩ := List.mem_map.mp he
  obtain ⟨y, -, rfl⟩ := Option.map_eq_some_iff.mp (Prod.mk.inj heq).2
  rfl

/-- R480: a rail that has been low for 2 µs is one of the nine. -/
theorem Power.brown_iff (p : Power) (now : Nat) : p.brown now = true ↔ ∃ k low, k < 9 ∧ p.lowSince.get none k = some low ∧ low + 2000 ≤ now := by
  simp [Power.brown, Option.any_eq_true]

/-! ## `RESET_N` (R481, R492) -/

/-- R492: an instruction that takes the balls does not outlive a low `RESET_N`. -/
theorem Tap.released_takesBalls {t : Tap} (h : t.instr ∈ [TapInstr.extest, .extestPulse, .extestTrain, .highz, .clamp]) : t.released.instr = .bypass := by
  simp only [List.mem_cons, List.not_mem_nil, or_false] at h
  unfold Tap.released
  rcases h with h | h | h | h | h <;> rw [h]

theorem execResetNInput_low (s : State) {ns : Nat} (h : 1000 ≤ ns) :
    exec (.resetNInput false ns) s = .next (State.setPower (if s.dev = .reset then s else s.enterReset 2) { (if s.dev = .reset then s else s.enterReset 2).power with resetN := false }) :=
  congrArg Host.Outcome.next (if_neg (Nat.not_lt.mpr h))

/-! ## The release of reset (R33, R455, R480) -/

theorem execResetRelease_waiting {s : State} {ok : Nat} (hok : s.power.okSince = some ok) (fl : Bool) : exec (.resetRelease fl) s =
    .next (if s.dev ≠ .reset ∨ !s.power.resetN ∨ s.power.anyLow ∨ s.now < max ok s.power.resetAt + 1000000 then s else s.leaveReset fl) := by
  refine congrArg Host.Outcome.next ?_
  rw [hok]

theorem execResetRelease_due {s : State} {ok : Nat} (hok : s.power.okSince = some ok) (hdev : s.dev = .reset) (hn : s.power.resetN = true)
    (hlow : s.power.anyLow = false) (fl : Bool) :
    exec (.resetRelease fl) s = .next (if s.now < max ok s.power.resetAt + 1000000 then s else s.leaveReset fl) := by
  rw [execResetRelease_waiting hok]
  refine congrArg Host.Outcome.next (if_congr ?_ rfl rfl)
  simp [hdev, hn, hlow]

/-- R455: the scan finds what it finds whatever the registers hold. -/
theorem State.leaveReset_next (s : State) (fl : Bool) : (s.leaveReset fl).r Reg.REC_NEXT_SEQ = s.recScan % 2 ^ 32 := by
  unfold State.leaveReset
  extract_lets t _ _ u
  have hscan : u.recScan = s.recScan := rfl
  have hsync : (u.setR Reg.REC_NEXT_SEQ u.recScan).syncRec.rd Reg.REC_NEXT_SEQ = (u.setR Reg.REC_NEXT_SEQ u.recScan).rd Reg.REC_NEXT_SEQ :=
    (State.rd_setR_ne _ (by decide) _).trans ((State.rd_setF_ne _ (by decide) ..).trans (State.rd_setF_ne _ (by decide) ..))
  exact (congrArg BitVec.toNat hsync).trans ((State.r_setR ..).trans (congrArg (· % 2 ^ 32) hscan))

/-! ## Balls (R482, R483) -/

theorem State.coreDrive_drip {s : State} (h : s.dev = .reset ∨ s.power.low 8 = true) : s.drive .drip = .low := by
  have hsym : s.dripSym = .low := if_pos h
  exact if_pos hsym

theorem State.drive_reset {s : State} (h : s.dev = .reset) : s.drive .laserEn = .low ∧ ∀ k, s.drive (.fireP k) = .low ∧ s.drive (.fireN k) = .high := by
  have hpre : s.preStandby = true := by rw [State.preStandby, h]; rfl
  refine ⟨?_, fun k => ⟨if_pos hpre, if_pos hpre⟩⟩
  show Drive.level (s.laserEnBall && !s.preStandby) = .low
  rw [hpre, Bool.not_true, Bool.and_false]
  rfl

theorem State.drive_safeStateN {s : State} (hlow : s.power.low 8 = true) (hinstr : s.tap.instr ∈ [TapInstr.bypass, .idcode, .samplePreload]) :
    s.drive .safeStateN = .low := by
  have hcore : s.coreDrive .safeStateN = .low := by
    show Drive.level (!(s.preStandby || (s.bit Reg.SSN_STATUS 0 || s.red.ssnExtLow || s.power.low 8))) = .low
    rw [hlow, Bool.or_true, Bool.or_true]
    rfl
  simp only [List.mem_cons, List.not_mem_nil, or_false] at hinstr
  rw [← hcore]
  unfold State.drive
  rcases hinstr with h | h | h <;> rw [h] <;> rfl

/-! ## The statement -/

/-- Settles O38: each row by the supplies, the instants and the level of `RESET_N`; what a reset leaves is `State.enterReset_effects`. -/
theorem suppliesAndReset : Obligations.SuppliesAndReset := by
  intro s
  refine ⟨fun k uv => ?rail, fun hup => ?steady, fun k low hk hlow hle => ?brown, fun ns hlt => congrArg Host.Outcome.next (if_pos hlt), fun ns hle => ?low,
    fun ns => rfl, fun ns hn hinstr => ?released, fun fl ok hok hdev hn hlow => ⟨fun hlt => ?wait, fun hle => ?boot⟩,
    fun hdev => ⟨(State.drive_reset hdev).1, State.coreDrive_drip (.inl hdev), (State.drive_reset hdev).2⟩,
    fun hlow => ⟨State.coreDrive_drip (.inr hlow), State.drive_safeStateN hlow⟩⟩
  case rail =>
    have hpower : ∀ t : State, t.power = s.power.change s.now k uv → t.power.rail k.val = uv ∧
        (∀ j : Nat, j ≠ k.val → t.power.rail j = s.power.rail j ∧ t.power.lowSince.get none j = s.power.lowSince.get none j) ∧
        (t.power.lowSince.get none k.val).isSome = t.power.low k.val ∧ t.power.okSince.isSome = t.power.allUp := fun t ht => by
      rw [ht]
      exact ⟨Power.rail_change_self .., fun j hj => Power.change_other _ _ _ _ hj, Power.change_low .., Power.change_up ..⟩
    rw [execPowerRailChange_eq]
    by_cases hring : k.val = 1 ∧ uv < 820000
    · obtain ⟨hrail, hothers, hlow, hup⟩ := hpower (s.setPower (s.power.change s.now k uv)).loseRing rfl
      rw [if_pos hring]
      exact ⟨_, rfl, hrail, hothers, hlow, hup, fun hn => absurd hring hn, fun _ _ => ⟨State.loseRing_spoilt _, rfl⟩⟩
    · obtain ⟨hrail, hothers, hlow, hup⟩ := hpower (s.setPower (s.power.change s.now k uv)) rfl
      rw [if_neg hring]
      exact ⟨_, rfl, hrail, hothers, hlow, hup, fun _ => rfl, fun hk huv => absurd ⟨hk, huv⟩ hring⟩
  case steady =>
    refine congrArg Host.Outcome.next (if_neg fun hbrown => ?_)
    obtain ⟨k, low, hk, hlow, hle⟩ := (Power.brown_iff ..).mp hbrown
    exact absurd hle (Nat.not_le.mpr (hup k low hk hlow))
  case brown =>
    obtain ⟨hdev, -, hcause, -, -, -, hfuses, hpower, -⟩ := s.enterReset_effects (cause := 1)
    rw [show exec .brownOut s = .next { s.enterReset 1 with tap := {} } from congrArg Host.Outcome.next (if_pos ((Power.brown_iff ..).mpr ⟨k, low, hk, hlow, hle⟩))]
    generalize s.enterReset 1 = t at *
    exact ⟨_, rfl, hdev, hcause, hpower, rfl, hfuses⟩
  case low =>
    rw [execResetNInput_low s hle]
    by_cases hdev : s.dev = .reset
    · rw [if_pos hdev]
      exact ⟨_, rfl, hdev, rfl, fun hne => absurd hdev hne, fun _ => rfl, rfl⟩
    · obtain ⟨hreset, -, hcause, -, -, -, hfuses, -, htap, -⟩ := s.enterReset_effects (cause := 2)
      rw [if_neg hdev]
      generalize s.enterReset 2 = t at *
      exact ⟨_, rfl, hreset, rfl, fun _ => hcause, hfuses, htap⟩
  case released =>
    refine ⟨{ s with power := { s.power with resetN := true, resetAt := s.now }, tap := s.tap.released }, ?_, Tap.released_takesBalls hinstr⟩
    exact congrArg Host.Outcome.next (if_neg (Bool.eq_false_iff.mp hn))
  case wait => rw [execResetRelease_due hok hdev hn hlow, if_pos hlt]
  case boot =>
    rw [execResetRelease_due hok hdev hn hlow, if_neg (Nat.not_lt.mpr hle)]
    exact ⟨_, rfl, rfl, rfl, rfl, rfl, rfl, rfl, rfl, rfl, s.leaveReset_next fl⟩

end Sys2Proof.Machine
end

section
/-!
PROOFS. Proofs/PlannerPair.lean: the planner pair and the supervisor (O58): the health summary (R406), the states of a planner (R388 to R391), the end of a takeover and of a tie
(R386, R393), the read-back of `SAFE_STATE_N` (R402), and memory errors (R23).
-/

namespace Sys2Proof.Machine

open Sys2Proof

/-! ## The health summary (R406) -/

section

variable (s : State)

/-- A health bit changes registers, ports and flags alone. -/
theorem State.setHealth_frame (i : Nat) (b : Bool) : ∃ r q f, s.setHealth i b = { s with regs := r, ports := q, flagNow := f } := by
  unfold State.setHealth
  split
  · exact ⟨s.regs, s.ports, s.flagNow, rfl⟩
  · exact State.portFrame_trans ⟨_, s.ports, s.flagNow, rfl⟩ (State.raise_events ..).frame

theorem State.rd_setHealth {a : Nat} (ha : a < 0x00100000 ∨ 0x00110000 ≤ a) (hne : a ≠ Reg.HEALTH_SUMMARY) (i : Nat) (b : Bool) : (s.setHealth i b).rd a = s.rd a := by
  unfold State.setHealth
  split
  · rfl
  · exact ((State.raise_events ..).rd a (noPortReg ha)).trans (State.rd_setBit_ne _ hne ..)

theorem State.bit_setHealth_self {i : Nat} (hi : i < 32) (b : Bool) : (s.setHealth i b).bit Reg.HEALTH_SUMMARY i = b := by
  unfold State.setHealth
  split
  · next h => exact eq_of_beq h
  · exact ((State.raise_events ..).bit (.inr (by decide)) i).trans (State.bit_setBit_self _ _ hi b)

theorem State.bit_setHealth_off {i j : Nat} (hi : i < 32) (hne : j ≠ i) (b : Bool) : (s.setHealth i b).bit Reg.HEALTH_SUMMARY j = s.bit Reg.HEALTH_SUMMARY j := by
  unfold State.setHealth
  split
  · rfl
  · exact ((State.raise_events ..).bit (.inr (by decide)) j).trans (State.bit_setBit_off _ _ hi hne b)

/-! ## Planners (R388, R390, R391) -/

theorem State.inc_regs (s : State) (a : Nat) : ∃ r, s.inc a = { s with regs := r } := ⟨_, rfl⟩

theorem State.flag_frame (s : State) (a i : Nat) : ∃ r f x, s.flag a i = { s with regs := r, flagNow := f, recorder := x } := ⟨_, _, s.recorder, rfl⟩

/-- A recorder entry that waits, or is dropped, leaves what is no register, flag or recorder. -/
theorem State.post_frame (code arg : Nat) : ∃ r f x, s.post code arg = { s with regs := r, flagNow := f, recorder := x } := by
  unfold State.post
  split
  · exact ⟨s.regs, s.flagNow, _, rfl⟩
  · obtain ⟨r, h⟩ := State.inc_regs { s with recorder := { s.recorder with dropped := s.recorder.dropped + 1 } } Reg.REC_DROPPED
    rw [h]
    obtain ⟨r', f, x, h'⟩ := State.flag_frame { s with regs := r, recorder := { s.recorder with dropped := s.recorder.dropped + 1 } } Reg.REC_FLAGS 0
    rw [h']
    exact ⟨r', f, x, rfl⟩

/-- The registers that follow the state of a planner, beside those of the ports. -/
def plannerRegs : List Nat := [Reg.PLAN_PAIR_STATUS, Reg.HEALTH_SUMMARY, Reg.RED_FLAGS, Reg.REC_DROPPED, Reg.REC_FLAGS]

/-- A part of the state that a planner's state leaves: one that depends on no register, port, flag or recorder and on nothing of the pair. -/
theorem State.setPlanner_part {β : Type} (part : State → β) (hr : ∀ (u : State) r q f, part { u with regs := r, ports := q, flagNow := f } = part u)
    (hp : ∀ (u : State) r f x, part { u with regs := r, flagNow := f, recorder := x } = part u) (hx : ∀ (u : State) x, part (u.setRed x) = part u) (x st : Nat) :
    part (s.setPlanner x st) = part s := by
  unfold State.setPlanner
  extract_lets t1 t2 t3 t4 t5
  have hhealth (u : State) (i : Nat) (b : Bool) : part (u.setHealth i b) = part u := by
    obtain ⟨r, q, f, h⟩ := u.setHealth_frame i b
    rw [h, hr]
  have h1 : part t1 = part s := by
    obtain ⟨r, h⟩ := s.setF_regs Reg.PLAN_PAIR_STATUS (3 * x + 3) (3 * x + 1) st
    rw [show t1 = _ from h]
    exact hr s r s.ports s.flagNow
  clear_value t1
  have h2 : part t2 = part t1 := (hhealth ..).trans (hhealth ..)
  clear_value t2
  have h3 : part t3 = part t2 := State.when_part _ _ (hr t2 _ t2.ports _)
  clear_value t3
  have h5 : part t5 = part t3 := (State.when_part _ _ (hx ..)).trans (State.when_part _ _ (hx ..))
  refine (State.when_part _ _ ?_).trans (h5.trans (h3.trans (h2.trans h1)))
  obtain ⟨r, f, y, h⟩ := t5.post_frame Rec.PLANNER_STATE (x + 2 * st)
  rw [h, hp]

theorem State.setPlanner_dev (x st : Nat) : (s.setPlanner x st).dev = s.dev := s.setPlanner_part State.dev (fun _ _ _ _ => rfl) (fun _ _ _ _ => rfl) (fun _ _ => rfl) x st

theorem State.rd_setPlanner {a : Nat} (ha : a < 0x00100000 ∨ 0x00110000 ≤ a) (hne : a ∉ plannerRegs) (x st : Nat) : (s.setPlanner x st).rd a = s.rd a := by
  simp only [plannerRegs, List.mem_cons, List.not_mem_nil, or_false, not_or] at hne
  obtain ⟨hpair, hhealth, hflags, hdropped, hrec⟩ := hne
  unfold State.setPlanner
  extract_lets t1 t2 t3 t4 t5
  have h1 : t1.rd a = s.rd a := State.rd_setF_ne _ hpair ..
  clear_value t1
  have h2 : t2.rd a = t1.rd a := (State.rd_setHealth _ ha hhealth ..).trans (State.rd_setHealth _ ha hhealth ..)
  clear_value t2
  have h3 : t3.rd a = t2.rd a := State.when_part (part := (·.rd a)) _ _ (State.rd_flag_ne _ hflags _)
  clear_value t3
  have h5 : t5.rd a = t3.rd a := (State.when_part (part := (·.rd a)) _ _ rfl).trans (State.when_part (part := (·.rd a)) _ _ rfl)
  exact (State.when_part (part := (·.rd a)) t5 _ (g := fun s => s.post Rec.PLANNER_STATE (x + 2 * st)) (State.rd_post t5 hdropped hrec ..)).trans (h5.trans (h3.trans (h2.trans h1)))

/-- The health bits of the planners are the lowest two. -/
theorem State.bit_setPlanner_health {j : Nat} (hj : 1 < j) (x st : Nat) : (s.setPlanner x st).bit Reg.HEALTH_SUMMARY j = s.bit Reg.HEALTH_SUMMARY j := by
  unfold State.setPlanner
  extract_lets t1 t2 t3 t4 t5
  have h1 : t1.bit Reg.HEALTH_SUMMARY j = s.bit Reg.HEALTH_SUMMARY j := State.bit_congr (State.rd_setF_ne _ (by decide) ..) j
  clear_value t1
  have h2 : t2.bit Reg.HEALTH_SUMMARY j = t1.bit Reg.HEALTH_SUMMARY j :=
    (State.bit_setHealth_off _ (by decide) (by omega) _).trans (State.bit_setHealth_off _ (by decide) (by omega) _)
  clear_value t2
  have h3 : t3.rd Reg.HEALTH_SUMMARY = t2.rd Reg.HEALTH_SUMMARY := State.when_part (part := (·.rd Reg.HEALTH_SUMMARY)) _ _ (State.rd_flag_ne _ (by decide) _)
  have h5 : t5.rd Reg.HEALTH_SUMMARY = t3.rd Reg.HEALTH_SUMMARY :=
    (State.when_part (part := (·.rd Reg.HEALTH_SUMMARY)) _ _ rfl).trans (State.when_part (part := (·.rd Reg.HEALTH_SUMMARY)) _ _ rfl)
  have hend := State.when_part (part := (·.rd Reg.HEALTH_SUMMARY)) t5 (st == 2 || st == 5 || st == 6)
    (g := fun s => s.post Rec.PLANNER_STATE (x + 2 * st)) (State.rd_post t5 (by decide) (by decide) ..)
  exact (State.bit_congr (hend.trans (h5.trans h3)) j).trans (h2.trans h1)

/-- R388: a planner that fails or is lost is flagged, and one that fails is noted with its instant. -/
theorem State.setPlanner_flagged {st : Nat} (hst : st = 5 ∨ st = 6) (x : Nat) : (s.setPlanner x st).bit Reg.RED_FLAGS 1 = true := by
  unfold State.setPlanner
  extract_lets t1 t2 t3 t4 t5
  have h3 : t3.bit Reg.RED_FLAGS 1 = true := by
    have hset : (st == 5 || st == 6) = true := by simpa using hst
    rw [show t3 = t2.flag Reg.RED_FLAGS 1 from if_pos hset]
    exact State.bit_flag_self _ _ (by decide)
  have h5 : t5.rd Reg.RED_FLAGS = t3.rd Reg.RED_FLAGS := (State.when_part (part := (·.rd Reg.RED_FLAGS)) _ _ rfl).trans (State.when_part (part := (·.rd Reg.RED_FLAGS)) _ _ rfl)
  have hend := State.when_part (part := (·.rd Reg.RED_FLAGS)) t5 (st == 2 || st == 5 || st == 6)
    (g := fun s => s.post Rec.PLANNER_STATE (x + 2 * st)) (State.rd_post t5 (by decide) (by decide) ..)
  exact (State.bit_congr (hend.trans h5) 1).trans h3

theorem State.setPlanner_failedAt (x : Nat) : (s.setPlanner x 5).red.failedAt.get none x = some s.now := by
  unfold State.setPlanner
  extract_lets t1 t2 t3 t4 t5
  have h3 : t3.now = s.now := by
    have hhealth (u : State) (i : Nat) (b : Bool) : (u.setHealth i b).now = u.now := by
      obtain ⟨r, q, f, h⟩ := u.setHealth_frame i b
      rw [h]
    exact (State.when_part (part := State.now) _ _ (State.flag_now ..)).trans ((hhealth ..).trans ((hhealth ..).trans (State.setF_now ..)))
  have h5 : t5.red.failedAt.get none x = some t3.now := get_set_self ..
  have hend : (t5.when (5 == 2 || 5 == 5 || 5 == 6) fun s => s.post Rec.PLANNER_STATE (x + 2 * 5)).red = t5.red := by
    refine State.when_part (part := State.red) _ _ ?_
    obtain ⟨r, f, y, h⟩ := t5.post_frame Rec.PLANNER_STATE (x + 2 * 5)
    rw [h]
  rw [hend, h5, h3]

end

/-! ## The rows of a planner (R390, R391) -/

/-- The register that counts the self-tests of planner x. -/
def testReg (x : Fin 2) : Nat := if x = 0 then Reg.PLAN_TEST_A else Reg.PLAN_TEST_B

theorem testReg_off (x : Fin 2) : 0x00110000 ≤ testReg x ∧ testReg x ≠ Reg.HEALTH_SUMMARY ∧ testReg x ∉ plannerRegs := by
  revert x
  decide

theorem State.rd_setRed (s : State) (r : Red) (a : Nat) : (s.setRed r).rd a = s.rd a := rfl

theorem State.f_setRed (s : State) (r : Red) (a hi lo : Nat) : (s.setRed r).f a hi lo = s.f a hi lo := rfl

/-- A count in a field saturates. -/
theorem State.f_addF_self (s : State) (a : Nat) {hi lo : Nat} (h : lo ≤ hi) (h32 : hi < 32) (n : Nat) :
    (s.addF a hi lo n).f a hi lo = min (s.f a hi lo + n) (2 ^ (hi + 1 - lo) - 1) := by
  have hpos : 0 < 2 ^ (hi + 1 - lo) := Nat.two_pow_pos _
  refine (State.f_setF_self s a h h32 _).trans (Nat.mod_eq_of_lt ?_)
  omega

section

variable {s : State} {x : Fin 2}

theorem execStandbySelftest_ready (hst : s.plannerSt x = 2) (hboot : s.dev ≠ .boot) (hsup : s.supervised = true)
    (hdue : ∀ t0, s.red.testStart.get none x = some t0 → t0 + 10000000 ≤ s.now) (pass : Bool) :
    exec (.standbySelftest x pass) s = .next (
      let u : State := s.setRed { s.red with testStart := s.red.testStart.set none x (some s.now) }
      if pass then (u.addF (testReg x) 15 0 1).setHealth 7 false else (((u.addF (testReg x) 31 16 1).setHealth 7 true).setPlanner x 5).settle) := by
  refine congrArg Host.Outcome.next (if_neg ?_)
  have h : (match s.red.testStart.get none x with | some t => decide (t + 10000000 ≤ s.now) | none => true) = true := by
    split
    · next t0 ht => exact decide_eq_true (hdue t0 ht)
    · rfl
  simp only [hst, hboot, hsup, not_true_eq_false, ne_eq, false_or]
  exact not_not_intro h

theorem execStandbySelftest_passes (hst : s.plannerSt x = 2) (hboot : s.dev ≠ .boot) (hsup : s.supervised = true)
    (hdue : ∀ t0, s.red.testStart.get none x = some t0 → t0 + 10000000 ≤ s.now) : exec (.standbySelftest x true) s =
    .next (((s.setRed { s.red with testStart := s.red.testStart.set none x (some s.now) }).addF (testReg x) 15 0 1).setHealth 7 false) :=
  (execStandbySelftest_ready hst hboot hsup hdue true).trans (congrArg Host.Outcome.next (if_pos rfl))

theorem execStandbySelftest_fails (hst : s.plannerSt x = 2) (hboot : s.dev ≠ .boot) (hsup : s.supervised = true)
    (hdue : ∀ t0, s.red.testStart.get none x = some t0 → t0 + 10000000 ≤ s.now) : exec (.standbySelftest x false) s = .next
    ((((s.setRed { s.red with testStart := s.red.testStart.set none x (some s.now) }).addF (testReg x) 31 16 1).setHealth 7 true).setPlanner x 5).settle :=
  (execStandbySelftest_ready hst hboot hsup hdue false).trans (congrArg Host.Outcome.next (if_neg (by decide)))

theorem execPlannerRetest_due {t0 : Nat} (hst : s.plannerSt x = 5) (hdev : s.dev ≠ .reset) (hf : s.red.failedAt.get none x = some t0)
    (hdue : t0 + 1000000 * s.f Reg.RED_CTRL 31 16 ≤ s.now) (pass : Bool) : exec (.plannerRetest x pass) s = .next (
      if pass ∧ s.f Reg.PLAN_PAIR_STATUS (4 * x + 11) (4 * x + 8) < s.f Reg.RED_CTRL 11 8 then
        ((s.setPlanner x 2).setF Reg.PLAN_PAIR_STATUS (4 * x + 11) (4 * x + 8) (s.f Reg.PLAN_PAIR_STATUS (4 * x + 11) (4 * x + 8) + 1)).settle
      else (s.setPlanner x 6).settle) := by
  refine congrArg Host.Outcome.next (if_neg ?_)
  rw [hf]
  simp [hst, hdev, hdue]

/-- R388: a planner that is put into a state is in it. -/
theorem State.plannerSt_setPlanner (s : State) (x : Fin 2) {st : Nat} (hst : st < 8) : (s.setPlanner x st).plannerSt x = st :=
  ((s.holdsPair.setPlanner x.isLt st).planner x x.isLt).trans ((Function.update_self ..).trans (Nat.mod_eq_of_lt hst))

/-- R390: what a self-test that passes leaves. -/
theorem State.testPassed (s : State) (x : Fin 2) : ((s.addF (testReg x) 15 0 1).setHealth 7 false).f (testReg x) 15 0 = min (s.f (testReg x) 15 0 + 1) 65535 ∧
    ((s.addF (testReg x) 15 0 1).setHealth 7 false).bit Reg.HEALTH_SUMMARY 7 = false ∧ ((s.addF (testReg x) 15 0 1).setHealth 7 false).red = s.red ∧
    ∀ b, b < 0x00100000 ∨ 0x00110000 ≤ b → b ≠ testReg x → b ≠ Reg.HEALTH_SUMMARY → ((s.addF (testReg x) 15 0 1).setHealth 7 false).rd b = s.rd b := by
  obtain ⟨hpage, hne, -⟩ := testReg_off x
  refine ⟨?_, State.bit_setHealth_self _ (by decide) false, ?_, fun b hb ha hh => (State.rd_setHealth _ hb hh ..).trans (State.rd_setF_ne _ ha ..)⟩
  · rw [State.f_congr (State.rd_setHealth _ (.inr hpage) hne ..)]
    exact State.f_addF_self _ _ (by decide) (by decide) 1
  · obtain ⟨r, q, f, h⟩ := (s.addF (testReg x) 15 0 1).setHealth_frame 7 false
    rw [h]
    exact State.addF_red s (testReg x) 15 0 1

/-- R390: what a self-test that fails leaves. -/
theorem State.testFailed (s : State) (x : Fin 2) : (((s.addF (testReg x) 31 16 1).setHealth 7 true).setPlanner x 5).f (testReg x) 31 16 = min (s.f (testReg x) 31 16 + 1) 65535 ∧
    (((s.addF (testReg x) 31 16 1).setHealth 7 true).setPlanner x 5).bit Reg.HEALTH_SUMMARY 7 = true ∧
    (((s.addF (testReg x) 31 16 1).setHealth 7 true).setPlanner x 5).plannerSt x = 5 ∧
    (((s.addF (testReg x) 31 16 1).setHealth 7 true).setPlanner x 5).bit Reg.RED_FLAGS 1 = true ∧
    (((s.addF (testReg x) 31 16 1).setHealth 7 true).setPlanner x 5).red.failedAt.get none x = some s.now := by
  obtain ⟨hpage, hne, hout⟩ := testReg_off x
  refine ⟨?_, ?_, State.plannerSt_setPlanner _ x (by decide), State.setPlanner_flagged _ (.inl rfl) x, ?_⟩
  · rw [State.f_congr ((State.rd_setPlanner _ (.inr hpage) hout ..).trans (State.rd_setHealth _ (.inr hpage) hne ..))]
    exact State.f_addF_self _ _ (by decide) (by decide) 1
  · rw [State.bit_setPlanner_health _ (by decide)]
    exact State.bit_setHealth_self _ (by decide) true
  · rw [State.setPlanner_failedAt]
    obtain ⟨r, q, f, h⟩ := (s.addF (testReg x) 31 16 1).setHealth_frame 7 true
    rw [h]
    exact congrArg some (State.addF_now s (testReg x) 31 16 1)

/-- R391: a planner that rejoins is `READY`, with one more rejoin counted. -/
theorem State.rejoined (s : State) (x : Fin 2) {n : Nat} (hn : n < 15) :
    ((s.setPlanner x 2).setF Reg.PLAN_PAIR_STATUS (4 * x + 11) (4 * x + 8) (n + 1)).plannerSt x = 2 ∧
      ((s.setPlanner x 2).setF Reg.PLAN_PAIR_STATUS (4 * x + 11) (4 * x + 8) (n + 1)).f Reg.PLAN_PAIR_STATUS (4 * x + 11) (4 * x + 8) = n + 1 := by
  have hx := x.isLt
  constructor
  · exact (((s.setPlanner x 2).holdsPair.setF_above Reg.PLAN_PAIR_STATUS (n + 1) (by omega) (by omega) (by omega)).planner x hx).trans (s.plannerSt_setPlanner x (by decide))
  · refine (State.f_setF_self _ _ (by omega) (by omega) _).trans (Nat.mod_eq_of_lt ?_)
    rw [show 4 * x.val + 11 + 1 - (4 * x.val + 8) = 4 by omega]
    omega

end

/-! ## Takeovers and ties (R386, R393) -/

/-- Both planners count as failed, before FAULT_HALT (R386, R392, R407). -/
def State.pairFailed (s : State) : State :=
  (s.each [0, 1] fun s x => if s.plannerLost x then s.setClaim x 0 else (s.setClaim x 0).setPlanner x 5).setRed
    { (s.each [0, 1] fun s x => if s.plannerLost x then s.setClaim x 0 else (s.setClaim x 0).setPlanner x 5).red with takeover := none }

theorem State.bothFailed_eq (s : State) : s.bothFailed = s.pairFailed.halt 0x71 := (rfl)

/-- R388: one that has failed, or is lost, counts as lost. -/
theorem State.plannerLost_of_state {s : State} {x : Nat} (h : s.plannerSt x = 5) : s.plannerLost x = true := by rw [State.plannerLost, h]; rfl

/-- One planner of the two counts as failed: its claim is none, and the claim of the other and its state stand. -/
theorem State.failOne (s : State) {x : Nat} (hx : x < 2) (t : State) (ht : t = if s.plannerLost x then s.setClaim x 0 else (s.setClaim x 0).setPlanner x 5) :
    t.dev = s.dev ∧ t.rd Reg.CLAIM_AB = (s.setClaim x 0).rd Reg.CLAIM_AB ∧ t.plannerLost x = true ∧ ∀ y, y < 2 → y ≠ x → t.plannerSt y = s.plannerSt y := by
  have hclaim := s.holdsPair.setF (a := Reg.CLAIM_AB) (by decide) (16 * x + 15) (16 * x) 0
  subst ht
  split
  · next hlost =>
    refine ⟨congrArg Sys.dev (State.setF_sys ..), rfl, ?_, fun y hy _ => hclaim.planner y hy⟩
    rw [State.plannerLost, ← hlost, State.plannerLost, ← hclaim.planner x hx]
    rfl
  · have hpair := hclaim.setPlanner hx 5
    refine ⟨(State.setPlanner_dev ..).trans (congrArg Sys.dev (State.setF_sys ..)), State.rd_setPlanner _ (.inr (by decide)) (by decide) .., ?_, fun y hy hne => ?_⟩
    · exact State.plannerLost_of_state ((hpair.planner x hx).trans (Function.update_self ..))
    · exact (hpair.planner y hy).trans (Function.update_of_ne hne ..)

theorem State.plannerLost_congr {s t : State} {x : Nat} (h : t.plannerSt x = s.plannerSt x) : t.plannerLost x = s.plannerLost x := by
  unfold State.plannerLost
  rw [h]

/-- A register whose two halves are 0 holds 0. -/
theorem State.r_of_halves {s : State} {a : Nat} (hlow : s.f a 15 0 = 0) (hhigh : s.f a 31 16 = 0) : s.r a = 0 := by
  unfold State.f bitsOf at hlow hhigh
  have := (s.rd a).isLt
  unfold State.r
  omega

/-- Both claims are none, and neither planner is left. -/
theorem State.pairFailed_effects (s : State) : s.pairFailed.dev = s.dev ∧ s.pairFailed.red.takeover = none ∧ s.pairFailed.r Reg.CLAIM_AB = 0 ∧
    s.pairFailed.plannerLost 0 = true ∧ s.pairFailed.plannerLost 1 = true := by
  obtain ⟨hdev0, hclaim0, hlost0, -⟩ := s.failOne (x := 0) (by decide) _ rfl
  generalize hu : (if s.plannerLost 0 then s.setClaim 0 0 else (s.setClaim 0 0).setPlanner 0 5) = u at hdev0 hclaim0 hlost0
  obtain ⟨hdev1, hclaim1, hlost1, hother⟩ := u.failOne (x := 1) (by decide) _ rfl
  generalize hv : (if u.plannerLost 1 then u.setClaim 1 0 else (u.setClaim 1 0).setPlanner 1 5) = v at hdev1 hclaim1 hlost1 hother
  have heach : (s.each [0, 1] fun s x => if s.plannerLost x then s.setClaim x 0 else (s.setClaim x 0).setPlanner x 5) = v := by
    rw [← hv, ← hu]
    rfl
  unfold State.pairFailed
  rw [heach]
  refine ⟨hdev1.trans hdev0, rfl, State.r_of_halves (s := v) ?_ ?_, (State.plannerLost_congr (hother 0 (by decide) (by decide))).trans hlost0, hlost1⟩
  · rw [State.f_congr hclaim1]
    refine (State.f_setF_off u _ (by decide) (by decide) (.inl (by decide)) _).trans ?_
    rw [State.f_congr hclaim0]
    exact State.f_setF_self _ _ (by decide) (by decide) _
  · rw [State.f_congr hclaim1]
    exact State.f_setF_self _ _ (by decide) (by decide) _

/-- R404: FAULT_HALT is reached from every state but RESET. -/
theorem State.halt_dev {s : State} (hh : s.dev ≠ .faultHalt) (hr : s.dev ≠ .reset) (cause : Nat) : (s.halt cause).dev = .faultHalt := by
  rw [State.halt_eq hh hr]
  exact (s.stands.enter (.inr (.inr rfl)) cause false).dev

theorem State.supervised_iff (s : State) : s.supervised = true ↔ s.dev ≠ .reset ∧ s.dev ≠ .faultHalt := by simp [State.supervised]

/-- What the failure of both planners comes to in a state that the supervisor works in. -/
theorem State.bothFailed_halts {s : State} (h : s.supervised = true) : ∃ u : State, s.bothFailed = u.halt 0x71 ∧ u.red.takeover = none ∧ u.r Reg.CLAIM_AB = 0 ∧
    u.plannerLost 0 = true ∧ u.plannerLost 1 = true ∧ (u.halt 0x71).dev = .faultHalt := by
  obtain ⟨hdev, htake, hclaim, hlost0, hlost1⟩ := s.pairFailed_effects
  obtain ⟨hr, hh⟩ := s.supervised_iff.mp h
  exact ⟨s.pairFailed, s.bothFailed_eq, htake, hclaim, hlost0, hlost1, State.halt_dev (hdev ▸ hh) (hdev ▸ hr) 0x71⟩

theorem execClaimTieTimeout_due {s : State} {t0 : Nat} (ht : s.red.tieAt = some t0) (hsup : s.supervised = true) (hdue : t0 + 1000000 ≤ s.now) :
    exec .claimTieTimeout s = .next s.bothFailed := by
  refine congrArg Host.Outcome.next ?_
  rw [ht]
  exact if_neg (by simp [hsup, hdue])

theorem execFailoverTimeout_due {s : State} {k : Takeover} (hk : s.red.takeover = some k) (hres : k.resume = none) (hdue : k.at_ + 1000000 * s.f Reg.RED_CTRL 7 0 ≤ s.now) :
    exec .failoverTimeout s = .next s.bothFailed := by
  refine congrArg Host.Outcome.next ?_
  rw [hk]
  exact if_neg (by simp [hres, hdue])

theorem execCheckpointRestored_good {s : State} {k : Takeover} (hk : s.red.takeover = some k) (hres : k.resume = none) : exec (.checkpointRestored false false) s =
    .next (if s.newestCkpt.isNone ∧ (s.dev.scanning ∨ s.wag.armAt.isSome) then s else s.takeOver k) := by
  refine congrArg Host.Outcome.next ?_
  rw [hk]
  exact if_neg (by simp [hres])

/-- R387: the standby that presents its claim is `ACTIVE`. -/
theorem State.present_effects (s : State) {b claim : Nat} (hb : b < 2) (hc : claim ≤ 65535) : (s.present b claim).plannerSt b = 4 ∧
    (s.present b claim).f Reg.PLAN_PAIR_STATUS 0 0 = b ∧ (s.present b claim).r Reg.GATE_CLAIM = claim ∧ (s.present b claim).f Reg.CLAIM_AB (16 * b + 15) (16 * b) = claim := by
  unfold State.present
  extract_lets u
  have hu : u.plannerSt b = 4 := by
    have hst := (s.holdsPair.setPlanner hb 4).planner b hb
    rw [Function.update_self] at hst
    exact (State.f_setF_off (s.setPlanner b 4) _ (by decide) (by decide) (.inr (by omega)) _).trans hst
  have hactive : u.f Reg.PLAN_PAIR_STATUS 0 0 = b := (State.f_setF_self _ _ (by decide) (by decide) _).trans (Nat.mod_eq_of_lt hb)
  clear_value u
  have hpair : ((u.setClaim b claim).setR Reg.GATE_CLAIM claim).rd Reg.PLAN_PAIR_STATUS = u.rd Reg.PLAN_PAIR_STATUS :=
    (State.rd_setR_ne _ (by decide) _).trans (State.rd_setF_ne _ (by decide) ..)
  refine ⟨(State.f_congr hpair ..).trans hu, (State.f_congr hpair ..).trans hactive, (State.r_setR ..).trans (Nat.mod_eq_of_lt (by omega)), ?_⟩
  rw [State.f_congr (State.rd_setR_ne _ (by decide) _)]
  refine (State.f_setF_self u _ (by omega) (by omega) _).trans (Nat.mod_eq_of_lt ?_)
  rw [show 16 * b + 15 + 1 - 16 * b = 16 by omega]
  omega

/-- `ACTIVE` is beside the states of the planners. -/
theorem HoldsPair.setF_active {m : Nat → Nat} {k : Option Takeover} {Q : List Shot} {s : State} (h : HoldsPair m k Q s) (v : Nat) :
    HoldsPair m k Q (s.setF Reg.PLAN_PAIR_STATUS 0 0 v) where
  planner x hx := (State.f_setF_off s _ (by decide) (by decide) (.inr (by omega)) v).trans (h.planner x hx)
  takeover := h.takeover
  queue := h.queue

/-- R395: the end of a takeover: none is under way, and `FAILOVER_LAST` alone shows its gap. -/
theorem State.endTakeover_effects {s : State} {k : Takeover} (hk : s.red.takeover = some k) : s.endTakeover.red.takeover = none ∧
    s.endTakeover.f Reg.FAILOVER_LAST 15 0 = min 0xFFFF (divRoundNat (s.now - k.at_) 1000) ∧
    ∀ a, a < 0x00100000 ∨ 0x00110000 ≤ a → a ≠ Reg.FAILOVER_LAST → s.endTakeover.rd a = s.rd a := by
  unfold State.endTakeover
  rw [hk]
  dsimp only
  have hev := State.raise_events ((s.setRed { s.red with takeover := none }).setF Reg.FAILOVER_LAST 15 0 (min 0xFFFF (divRoundNat (s.now - k.at_) 1000))) Ev.PLANNER_FAILOVER
    (leBytes 1 k.failed ++ leBytes 1 k.cause ++ leBytes 2 k.claim ++ leBytes 4 (min (s.now - k.at_) 0xFFFFFFFF) ++ leBytes 8 k.time)
  refine ⟨?_, ?_, fun a ha hne => (hev.rd a (noPortReg ha)).trans (State.rd_setF_ne _ hne ..)⟩
  · obtain ⟨r, q, f, h⟩ := hev.frame
    rw [h, State.setF_red, State.setRed_red]
  · rw [hev.f (.inr (by decide)), State.f_setF_self _ _ (by decide) (by decide)]
    exact Nat.mod_eq_of_lt (by omega)

/-- R393: a takeover from no checkpoint, with the mirror at rest, ends at once. -/
theorem State.takeOver_atRest {s : State} {k : Takeover} (hf : k.failed ≤ 1) (hckpt : s.newestCkpt = none) (hrest : s.dev.scanning = false) (harm : s.wag.armAt = none) :
    (s.takeOver k).red.takeover = none ∧ (s.takeOver k).plannerSt (1 - k.failed) = 4 ∧ (s.takeOver k).f Reg.PLAN_PAIR_STATUS 0 0 = 1 - k.failed ∧
      (s.takeOver k).r Reg.GATE_CLAIM = s.nextClaim ∧ (s.takeOver k).f Reg.CLAIM_AB (16 * (1 - k.failed) + 15) (16 * (1 - k.failed)) = s.nextClaim ∧
      (s.takeOver k).f Reg.FAILOVER_LAST 15 0 = min 0xFFFF (divRoundNat (s.now - k.at_) 1000) := by
  let c : Takeover := { k with claim := s.nextClaim }
  let u : State := s.setRed { s.red with takeover := some c }
  have hrestore : s.restoreNewest = s := by rw [State.restoreNewest, hckpt]
  have hnow : (u.present (1 - k.failed) s.nextClaim).now = s.now := by
    have hplanner : (u.setPlanner (1 - k.failed) 4).now = s.now := u.setPlanner_part State.now (fun _ _ _ _ => rfl) (fun _ _ _ _ => rfl) (fun _ _ => rfl) _ _
    exact (State.setR_now ..).trans ((State.setF_now ..).trans ((State.setF_now ..).trans hplanner))
  have hdev : (u.present (1 - k.failed) s.nextClaim).dev = s.dev :=
    (congrArg Sys.dev ((State.setR_sys ..).trans ((State.setF_sys ..).trans (State.setF_sys ..)))).trans (u.setPlanner_dev ..)
  have hwag : (u.present (1 - k.failed) s.nextClaim).wag = s.wag := by
    have hplanner : (u.setPlanner (1 - k.failed) 4).wag = s.wag := u.setPlanner_part State.wag (fun _ _ _ _ => rfl) (fun _ _ _ _ => rfl) (fun _ _ => rfl) _ _
    exact (State.setR_wag ..).trans ((State.setF_wag ..).trans ((State.setF_wag ..).trans hplanner))
  have htake : (u.present (1 - k.failed) s.nextClaim).red.takeover = some c :=
    ((((u.holdsPair.setPlanner (by omega) 4).setF_active (1 - k.failed)).setF (by decide) ..).setR (by decide) _).takeover
  obtain ⟨hst, hactive, hgate, hclaim⟩ := u.present_effects (b := 1 - k.failed) (claim := s.nextClaim) (by omega) (Nat.min_le_left ..)
  have hrun : s.takeOver k = (u.present (1 - k.failed) s.nextClaim).endTakeover := by
    unfold State.takeOver
    rw [hrestore]
    exact if_pos (by rw [hdev, hwag, hrest, harm]; decide)
  obtain ⟨hnone, hgap, hrd⟩ := State.endTakeover_effects htake
  rw [hnow] at hgap
  rw [hrun]
  exact ⟨hnone, (State.f_congr (hrd _ (.inr (by decide)) (by decide)) ..).trans hst, (State.f_congr (hrd _ (.inr (by decide)) (by decide)) ..).trans hactive,
    (congrArg BitVec.toNat (hrd _ (.inr (by decide)) (by decide))).trans hgate, (State.f_congr (hrd _ (.inr (by decide)) (by decide)) ..).trans hclaim, hgap⟩

/-! ## The supervisor and `SAFE_STATE_N` (R401, R402) -/

theorem State.ssnHold_dev (s : State) (i : Nat) (b : Bool) : (s.ssnHold i b).dev = s.dev := by
  unfold State.ssnHold
  extract_lets driven u v
  have hu : u.sys = s.sys := State.setBit_sys ..
  have hv : v.sys = u.sys := (State.setBit_sys ..).trans (State.setBit_sys ..)
  clear_value u v
  split
  · split
    · exact congrArg Sys.dev (hv.trans hu)
    · exact congrArg Sys.dev (hv.trans hu)
  · exact congrArg Sys.dev hu

theorem State.superFault_halts {s : State} (hh : s.dev ≠ .faultHalt) (hr : s.dev ≠ .reset) : s.superFault.dev = .faultHalt := by
  have hdev := s.ssnHold_dev 5 true
  rw [State.superFault, if_pos (s.supervised_iff.mpr ⟨hr, hh⟩)]
  generalize s.ssnHold 5 true = u at hdev
  exact State.halt_dev (by rwa [hdev]) (by rwa [hdev]) 0x70

theorem execSsnReadback_running {s : State} (h : s.dev ≠ .reset) (high : Bool) : exec (.ssnReadback high) s = .next ((s.setBit Reg.SSN_STATUS 1 (!high)).ssnRead high) :=
  congrArg Host.Outcome.next (if_neg h)

/-- The level that is read back stands in bit 1 of `SSN_STATUS` alone. -/
theorem State.ssnLevel (s : State) (high : Bool) : (s.setBit Reg.SSN_STATUS 1 (!high)).bit Reg.SSN_STATUS 1 = !high ∧
    (s.setBit Reg.SSN_STATUS 1 (!high)).bit Reg.SSN_STATUS 0 = s.bit Reg.SSN_STATUS 0 ∧
    ∀ a, a ≠ Reg.SSN_STATUS → (s.setBit Reg.SSN_STATUS 1 (!high)).rd a = s.rd a :=
  ⟨State.bit_setBit_self _ _ (by decide) _, State.bit_setBit_off _ _ (by decide) (by decide) _, fun _ ha => State.rd_setBit_ne _ ha ..⟩

section

variable {s : State}

theorem State.ssnRead_released (h : s.bit Reg.SSN_STATUS 0 = false) (high : Bool) : s.ssnRead high = s.setRed { s.red with ssnExtLow := !high, ssnHighAt := none } :=
  if_pos (by simp [h])

variable (h : s.bit Reg.SSN_STATUS 0 = true)

include h

theorem State.ssnRead_low : s.ssnRead false = s.setRed { s.red with ssnHighAt := none } := by
  rw [State.ssnRead, if_neg (not_not_intro h)]
  rfl

theorem State.ssnRead_first (ht : s.red.ssnHighAt = none) : s.ssnRead true = s.setRed { s.red with ssnHighAt := some s.now } := by
  rw [State.ssnRead, if_neg (not_not_intro h), if_neg (by decide), ht]

theorem State.ssnRead_since {t0 : Nat} (ht : s.red.ssnHighAt = some t0) :
    s.ssnRead true = if t0 + 1000 < s.now then (s.flag Reg.RED_FLAGS 4).setHealth 4 true else s := by
  rw [State.ssnRead, if_neg (not_not_intro h), if_neg (by decide), ht]

end

/-- R402: a mismatch is flagged and shown, and the level that is read back stands. -/
theorem State.ssnMismatch (s : State) : ((s.flag Reg.RED_FLAGS 4).setHealth 4 true).rd Reg.SSN_STATUS = s.rd Reg.SSN_STATUS ∧
    ((s.flag Reg.RED_FLAGS 4).setHealth 4 true).bit Reg.RED_FLAGS 4 = true ∧ ((s.flag Reg.RED_FLAGS 4).setHealth 4 true).bit Reg.HEALTH_SUMMARY 4 = true ∧
    ((s.flag Reg.RED_FLAGS 4).setHealth 4 true).red = s.red := by
  have hrd : ∀ a, a < 0x00100000 ∨ 0x00110000 ≤ a → a ≠ Reg.HEALTH_SUMMARY → ((s.flag Reg.RED_FLAGS 4).setHealth 4 true).rd a = (s.flag Reg.RED_FLAGS 4).rd a :=
    fun a ha hne => State.rd_setHealth _ ha hne ..
  refine ⟨(hrd _ (.inr (by decide)) (by decide)).trans (State.rd_flag_ne _ (by decide) 4),
    (State.bit_congr (hrd _ (.inr (by decide)) (by decide)) 4).trans (State.bit_flag_self _ _ (by decide)), State.bit_setHealth_self _ (by decide) true, ?_⟩
  obtain ⟨r, q, f, h⟩ := (s.flag Reg.RED_FLAGS 4).setHealth_frame 4 true
  rw [h]
  exact State.flag_red s Reg.RED_FLAGS 4

/-! ## Memory errors (R23) -/

theorem execMemoryError_corrected {s : State} (h : s.dev ≠ .reset) (x : MemSite) : exec (.memoryError x false) s = .next (s.addF (Reg.ECC (memStore x)) 15 0 1) :=
  congrArg Host.Outcome.next (if_neg h)

theorem execMemoryError_uncorrectable {s : State} (h : s.dev ≠ .reset) (x : MemSite) : exec (.memoryError x true) s = .next ((s.eccCount (memStore x) true).memFault x) :=
  congrArg Host.Outcome.next (if_neg h)

theorem State.addF_frame (s : State) (a hi lo n : Nat) : ∃ r, s.addF a hi lo n = { s with regs := r } := s.setF_regs ..

/-- What the count of an uncorrectable error leaves of the state. -/
theorem State.eccCount_part {β : Type} (part : State → β) (hr : ∀ (u : State) r q f, part { u with regs := r, ports := q, flagNow := f } = part u)
    (hp : ∀ (u : State) r f x, part { u with regs := r, flagNow := f, recorder := x } = part u) (s : State) (n : Nat) : part (s.eccCount n true) = part s := by
  obtain ⟨r, q, f, hhealth⟩ := ((s.addF (Reg.ECC n) 31 16 1).post Rec.ECC n).setHealth_frame 5 true
  obtain ⟨r', f', x, hpost⟩ := (s.addF (Reg.ECC n) 31 16 1).post_frame Rec.ECC n
  obtain ⟨r'', hcount⟩ := s.addF_frame (Reg.ECC n) 31 16 1
  have hadd : part (s.addF (Reg.ECC n) 31 16 1) = part s := by
    rw [hcount]
    exact hr s r'' s.ports s.flagNow
  have hecc : s.eccCount n true = ((s.addF (Reg.ECC n) 31 16 1).post Rec.ECC n).setHealth 5 true := if_pos rfl
  rw [hecc, hhealth, hr, hpost, hp, hadd]

theorem State.post_ring (s : State) (code arg : Nat) : (s.post code arg).recorder.ring = s.recorder.ring := by
  unfold State.post
  split
  · rfl
  · rw [State.flag_recorder, State.inc_recorder]

theorem State.eccCount_effects (s : State) {n : Nat} (hn : n < 6) : (s.eccCount n true).f (Reg.ECC n) 31 16 = min (s.f (Reg.ECC n) 31 16 + 1) 65535 ∧
    (s.eccCount n true).bit Reg.HEALTH_SUMMARY 5 = true ∧ (s.eccCount n true).recorder.ring = s.recorder.ring ∧
    ∀ a, a < 0x00100000 → (s.eccCount n true).rd a = s.rd a := by
  have hecc : s.eccCount n true = ((s.addF (Reg.ECC n) 31 16 1).post Rec.ECC n).setHealth 5 true := if_pos rfl
  rw [hecc]
  have hne : ∀ a, a ≤ Reg.HEALTH_SUMMARY ∨ 0x00130000 ≤ a → Reg.ECC n ≠ a := by
    intro a ha
    simp only [Reg.HEALTH_SUMMARY, Reg.ECC] at ha ⊢
    omega
  refine ⟨?_, State.bit_setHealth_self _ (by decide) true, ?_, fun a ha => ?_⟩
  · rw [State.f_congr ((State.rd_setHealth _ (.inr (by unfold Reg.ECC; omega)) (hne _ (.inl (Nat.le_refl _))) ..).trans
      (State.rd_post _ (hne _ (.inr (by decide))) (hne _ (.inr (by decide))) ..))]
    exact State.f_addF_self _ _ (by decide) (by decide) 1
  · obtain ⟨r, q, f, h⟩ := ((s.addF (Reg.ECC n) 31 16 1).post Rec.ECC n).setHealth_frame 5 true
    rw [h]
    exact (State.post_ring ..).trans (congrArg Recorder.ring (State.addF_recorder s (Reg.ECC n) 31 16 1))
  · have hlt : ∀ b, 0x00120000 ≤ b → a ≠ b := fun b hb => by omega
    exact (State.rd_setHealth _ (.inl ha) (hlt _ (by decide)) ..).trans ((State.rd_post _ (hlt _ (by decide)) (hlt _ (by decide)) ..).trans
      (State.rd_setF_ne _ (hlt _ (by unfold Reg.ECC; omega)) ..))

/-- R23, R42: an error in the active bank of the Scan Cell Table is reported, and its entry noted. -/
theorem State.memFault_sct (s : State) (i : Nat) : (s.memFault (.sct s.sctActive i)).bit Reg.PLAN_FLAGS 3 = true ∧
    (s.memFault (.sct s.sctActive i)).plan.eccEntries = i :: s.plan.eccEntries ∧
    ∀ a, a < 0x00100000 ∨ 0x00110000 ≤ a → a ≠ Reg.PLAN_FLAGS → (s.memFault (.sct s.sctActive i)).rd a = s.rd a := by
  obtain ⟨u, hev, hrun⟩ : ∃ u, (s.flag Reg.PLAN_FLAGS 3).Events u ∧ s.memFault (.sct s.sctActive i) =
      if s.sctActive = u.sctActive then { u with plan := { u.plan with eccEntries := i :: u.plan.eccEntries } } else u :=
    ⟨_, State.raise_events _ Ev.TABLE_ECC (leBytes 1 s.sctActive ++ leBytes 1 0 ++ leBytes 2 i), rfl⟩
  have hbank : s.sctActive = u.sctActive := (State.f_congr (s := s) ((hev.rd _ (noPortReg (.inl (by decide)))).trans (State.rd_flag_ne _ (by decide) 3)) 0 0).symm
  have hplan : u.plan = s.plan := by
    obtain ⟨r, q, f, h⟩ := hev.frame
    rw [h]
    exact State.flag_plan s Reg.PLAN_FLAGS 3
  rw [hrun, if_pos hbank]
  refine ⟨(hev.bit (.inl (by decide)) 3).trans (State.bit_flag_self _ _ (by decide)), congrArg (fun p : Plan => i :: p.eccEntries) hplan, fun a ha hne => ?_⟩
  exact (hev.rd a (noPortReg ha)).trans (State.rd_flag_ne _ hne 3)

/-- R23, R455: an error in the ring spoils its entry alone. -/
theorem State.memFault_retention {s : State} {i : Nat} {e : RecEntry} (h : s.recorder.ring.get none i = some e) :
    (s.memFault (.retention i)).recorder.ring.get none i = some { e with ok := false } ∧
      ∀ j, j ≠ i → (s.memFault (.retention i)).recorder.ring.get none j = s.recorder.ring.get none j := by
  have hrun : s.memFault (.retention i) =
      (s.overtake e.seq).setRec { (s.overtake e.seq).recorder with ring := s.recorder.ring.set none i (some { e with ok := false }) } := by
    simp only [State.memFault, h]
  rw [hrun]
  exact ⟨get_set_self .., fun j hj => get_set_ne _ _ _ hj _⟩

/-! ## The statement -/

/-- Settles O58: each row is taken apart by what it waits for; what it then does is the lemmas above. -/
theorem redundancyRuns : Obligations.RedundancyRuns := by
  intro s
  refine ⟨fun x pass hst => congrArg Host.Outcome.next (if_pos (.inl hst)), fun x hst hboot hsup hnone => ?first, fun x hst hboot hsup hdue => ?test,
    fun x t0 hst hdev hf hdue => ⟨?lost, fun hn => ?rejoins⟩, fun x t0 hst hdev hf hdue => ⟨?lostShown, fun hn => ?rejoinShown⟩,
    fun k b0 b1 hk hres => ?resumed, fun k hk hres => execCheckpointRestored_good hk hres, fun k hk hres hf hckpt hrest harm => ?atRest,
    fun k hk hres hdue => execFailoverTimeout_due hk hres hdue, fun hk => congrArg Host.Outcome.next (by rw [hk]), fun t0 ht hsup hdue => execClaimTieTimeout_due ht hsup hdue,
    fun t0 ht hsup hdue => ?tie, fun k hk hres hdue hsup => ?timeout, fun hsup hh hr => ⟨s.superFault, rfl, rfl, State.superFault_halts hh hr⟩,
    fun hsup => ?unsupervised, fun high hdev => congrArg Host.Outcome.next (if_pos hdev), fun high hdev hfree => ?released, fun hdev hdriven => ?driven,
    fun x hdev => ⟨execMemoryError_corrected hdev x, execMemoryError_uncorrectable hdev x⟩, fun x hdev => ?corrected, fun i hdev => ?table, fun i e hdev he => ?ring,
    fun hdev hh => ?supervisor⟩
  case first =>
    have hdue : ∀ t0, s.red.testStart.get none x = some t0 → t0 + 10000000 ≤ s.now := fun t0 ht => nomatch hnone.symm.trans ht
    exact ⟨execStandbySelftest_passes hst hboot hsup hdue, execStandbySelftest_fails hst hboot hsup hdue⟩
  case test =>
    have hpassed := (s.setRed { s.red with testStart := s.red.testStart.set none x (some s.now) }).testPassed x
    have hfailed := (s.setRed { s.red with testStart := s.red.testStart.set none x (some s.now) }).testFailed x
    rw [State.f_setRed] at hpassed hfailed
    obtain ⟨hcount, hhealth, hred, hrest⟩ := hpassed
    refine ⟨⟨_, execStandbySelftest_passes hst hboot hsup hdue, hcount, hhealth, ?_, fun b hb ha hh => (hrest b hb ha hh).trans (State.rd_setRed ..)⟩, _,
      execStandbySelftest_fails hst hboot hsup hdue, hfailed⟩
    exact (congrArg (fun r : Red => r.testStart.get none x) hred).trans (get_set_self ..)
  case lost => exact execPlannerRetest_due hst hdev hf hdue false
  case rejoins => rw [execPlannerRetest_due hst hdev hf hdue true, if_pos ⟨rfl, hn⟩]
  case lostShown => exact ⟨s.setPlanner x 6, execPlannerRetest_due hst hdev hf hdue false, s.plannerSt_setPlanner x (by decide), s.setPlanner_flagged (.inr rfl) x⟩
  case rejoinShown =>
    have hmax : s.f Reg.RED_CTRL 11 8 < 16 := Nat.mod_lt _ (by decide)
    exact ⟨_, by rw [execPlannerRetest_due hst hdev hf hdue true, if_pos ⟨rfl, hn⟩], s.rejoined x (by omega)⟩
  case resumed =>
    refine congrArg Host.Outcome.next ?_
    rw [hk]
    exact if_pos hres
  case atRest =>
    have hgo : ¬ (s.newestCkpt.isNone = true ∧ (s.dev.scanning = true ∨ s.wag.armAt.isSome = true)) := by simp [hrest, harm]
    exact ⟨s.takeOver k, (execCheckpointRestored_good hk hres).trans (congrArg Host.Outcome.next (if_neg hgo)), State.takeOver_atRest hf hckpt hrest harm⟩
  case tie =>
    obtain ⟨u, hu, hleft⟩ := State.bothFailed_halts hsup
    exact ⟨u, by rw [execClaimTieTimeout_due ht hsup hdue, hu], hleft⟩
  case timeout =>
    obtain ⟨u, hu, hleft⟩ := State.bothFailed_halts hsup
    exact ⟨u, by rw [execFailoverTimeout_due hk hres hdue, hu], hleft⟩
  case unsupervised =>
    have hstays : s.superFault = s := if_neg (by simp [hsup])
    exact ⟨congrArg Host.Outcome.next hstays, congrArg Host.Outcome.next hstays⟩
  case released =>
    obtain ⟨hlevel, hdrive, hrest⟩ := s.ssnLevel high
    rw [execSsnReadback_running hdev, State.ssnRead_released (hdrive.trans hfree)]
    exact ⟨_, rfl, hlevel, rfl, hrest⟩
  case driven =>
    obtain ⟨hlow, hdriveLow, hrestLow⟩ := s.ssnLevel false
    obtain ⟨hhigh, hdriveHigh, hrestHigh⟩ := s.ssnLevel true
    refine ⟨?_, fun ht => ?_, fun t0 ht hle => ?_, fun t0 ht hlt => ?_⟩
    · rw [execSsnReadback_running hdev, State.ssnRead_low (hdriveLow.trans hdriven)]
      exact ⟨_, rfl, hlow, rfl, hrestLow⟩
    · rw [execSsnReadback_running hdev, State.ssnRead_first (hdriveHigh.trans hdriven) ht]
      exact ⟨_, rfl, hhigh, rfl, hrestHigh⟩
    · rw [execSsnReadback_running hdev, State.ssnRead_since (hdriveHigh.trans hdriven) ht, State.setBit_now, if_neg (Nat.not_lt.mpr hle)]
      exact ⟨_, rfl, hhigh, rfl, hrestHigh⟩
    · rw [execSsnReadback_running hdev, State.ssnRead_since (hdriveHigh.trans hdriven) ht, State.setBit_now, if_pos hlt]
      obtain ⟨hstatus, hflag, hhealth, hred⟩ := (s.setBit Reg.SSN_STATUS 1 (!true)).ssnMismatch
      exact ⟨_, rfl, (State.bit_congr hstatus 1).trans hhigh, hflag, hhealth, hred⟩
  case corrected =>
    rw [execMemoryError_corrected hdev]
    exact ⟨_, rfl, State.f_addF_self _ _ (by decide) (by decide) 1, State.f_setF_off s _ (by decide) (by decide) (.inr (by decide)) _, fun a ha => State.rd_setF_ne s ha ..⟩
  case table =>
    obtain ⟨hcount, hhealth, -, hrd⟩ := s.eccCount_effects (n := 2) (by decide)
    have hbank : (s.eccCount 2 true).sctActive = s.sctActive := State.f_congr (hrd _ (by decide)) 0 0
    have hplan : (s.eccCount 2 true).plan = s.plan := State.eccCount_part State.plan (fun _ _ _ _ => rfl) (fun _ _ _ _ => rfl) s 2
    obtain ⟨hflag, hentries, hrest⟩ := (s.eccCount 2 true).memFault_sct i
    rw [hbank] at hflag hentries hrest
    rw [hplan] at hentries
    exact ⟨_, execMemoryError_uncorrectable hdev _, hflag, hentries, (State.f_congr (hrest _ (.inr (by decide)) (by decide)) ..).trans hcount,
      (State.bit_congr (hrest _ (.inr (by decide)) (by decide)) 5).trans hhealth⟩
  case ring =>
    obtain ⟨-, -, hring, -⟩ := s.eccCount_effects (n := 4) (by decide)
    obtain ⟨hentry, hothers⟩ := State.memFault_retention (s := s.eccCount 4 true) (by rw [hring]; exact he)
    rw [hring] at hothers
    exact ⟨_, execMemoryError_uncorrectable hdev _, hentry, hothers⟩
  case supervisor =>
    have hstays : (s.eccCount 5 true).dev = s.dev := State.eccCount_part State.dev (fun _ _ _ _ => rfl) (fun _ _ _ _ => rfl) s 5
    refine ⟨_, execMemoryError_uncorrectable hdev _, ?_⟩
    show ((s.eccCount 5 true).halt 0x72).dev = .faultHalt
    generalize s.eccCount 5 true = u at hstays
    exact State.halt_dev (by rwa [hstays]) (by rwa [hstays]) 0x72

end Sys2Proof.Machine
end
